-- ==== Sys2Proof/Word.lean ====
section
/-!
DEFINITION. The word types of the FX12 model, and the type of a sparse table (the operations on tables
stand in `Sys2Proof/Machine/Tab.lean`).
-/

namespace Sys2Proof

/-- One byte (R4). -/
abbrev Byte := BitVec 8

/-- A register of device register space, and of the tile-local block, is 32 bits (R439). -/
abbrev W32 := BitVec 32

/-- A 64-bit quantity: the tick number, an 8 B register access, a page table entry. -/
abbrev W64 := BitVec 64

/-- A sparse table: the entries that differ from the table's default value, in strictly rising order of
key. A memory is a `Tab Byte`, a list of `Host.Cell`. -/
abbrev Tab (α : Type) := List (Nat × α)

end Sys2Proof
end

