-- ==== Sys2Proof/Syntax.lean ====
section
/-!
DEFINITION. The commands of the FX12 node: one constructor of `Instr` for each row of
`spec/opcode_table.json`, in the table's order, with the row's operands. What the environment alone
decides (a sensor's reading, an error pattern, the result of a training, a time) is an operand.
-/

namespace Sys2Proof

/-- Which view of the tile's register block an access uses (R48): the spindle core's or device register space. -/
inductive View
  | core
  | device
  deriving DecidableEq, Repr

/-- The six CSR instructions of Zicsr (R26). -/
inductive CsrOp
  | rw | rs | rc | rwi | rsi | rci
  deriving DecidableEq, Repr

/-- The kinds of access a spindle core makes (R25); `lr`, `sc` and `amo` are those of the A extension (R24). -/
inductive AccKind
  | fetch | load | store | lr | sc
  | amo (op : Nat)
  deriving DecidableEq, Repr

/-- A host core's store-like accesses (R237, R240): a store, and the cache-block operations of Zicbom and Zicboz. -/
inductive HostSt
  | store | clean | flush | inval | zero
  deriving DecidableEq, Repr

/-- Where a Belul command comes from (R328): the client, its slot, whether a reserved bit of the parameters
is nonzero (R330), and whether the indirect parameters read as poisoned (R444). -/
structure Req where
  client : Nat
  slot : Nat
  rsv : Bool := false
  poison : Bool := false
  deriving DecidableEq, Repr

/-- A TILESET (R341): tiles `first … first + count − 1`, or the mask when `count` is 0. -/
structure TileSet where
  first : Nat
  count : Nat
  mask : BitVec 1296
  deriving DecidableEq, Repr

/-- A packet of the optical links: the FSEQ of its head flit in the link header (R280), the header fields of R281, and the payload. -/
structure Pkt where
  cls : Nat
  typ : Nat
  ver : Nat := 0
  level : Nat := 0
  dl : Bool := false
  poison : Bool := false
  plane : Nat := 0
  dphys : Nat := 0
  hops : Nat := 0
  depoch : Nat := 0
  dlog : Nat := 0
  sphys : Nat := 0
  aux : Nat := 0
  sepoch : Nat := 0
  slog : Nat := 0
  job : Nat := 0
  tag : Nat := 0
  addr : Nat := 0
  len : Nat := 0
  payload : List Byte := []
  fseq : Nat := 0
  deriving DecidableEq, Repr

/-- The identity that an end of a bundle pair sends over the sideband: die, link, pair index and revision (R267). -/
structure BundleId where
  die : Nat
  link : Nat
  pair : Nat
  rev : Nat
  deriving DecidableEq, Repr

/-- Where FW_UPDATE reads its image (R330, R373): `len` bytes of the HBM pool for the host driver; the bytes that stand at its address
in the memory of a client outside the module. -/
inductive ImgSrc
  | pool (addr len : Nat)
  | outside (bytes : List Byte)
  deriving DecidableEq, Repr

/-- Bits of a payload that flip on their way in the package, which nothing checks (R262): bytes by address, or by place in a message, with the
bits of each that arrive flipped. -/
abbrev Flips := List (Nat × Byte)

/-- A routed small message at its destination: one sent by a tile of this node, named by the number the
sending mover gave the delivery, or one that arrived from another node in a packet on a port (R150, R281). -/
inductive MsgSrc
  | inside (id : Nat)
  | outside (port : Nat) (p : Pkt)
  deriving DecidableEq, Repr

/-- The requester that a DIE_RESET response reaches (R269). -/
inductive Requester
  | mover (tile queue chunk : Nat) (va : Nat)
  | hart (hart : Nat) (addr : Nat)
  deriving DecidableEq, Repr

/-- The HEARTBEAT payload (R307). -/
structure Heartbeat where
  tick : Nat
  jobTick : Nat
  job : Nat
  slow : Bool
  late : Bool
  held : Bool
  inJob : Bool
  cause : Nat
  phys : Nat
  deriving DecidableEq, Repr

/-- The LAUNCH header with its exclusion list and job data (R322). -/
structure LaunchHdr where
  lid : Nat
  attempt : Nat
  startTick : Nat
  issueTick : Nat
  root : Nat
  excl : List Nat
  pods : BitVec 256
  job : Nat
  depth : Nat
  coll : Nat
  msg : Nat
  reserve : Nat
  stepWait : Nat
  jdata : List Byte
  deriving DecidableEq, Repr

/-- The LAUNCH_ACK payload (R323). -/
structure LaunchAck where
  lid : Nat
  attempt : Nat
  code : Nat
  nmiss : Nat
  phys : Nat
  entries : List (Nat × Nat)
  deriving DecidableEq, Repr

/-- The TRACE_CONFIG parameters (R401). -/
structure TraceCfg where
  base : Nat
  sizeLog2 : Nat
  cap : Nat
  pre : Nat
  trig : Nat
  srcMask : BitVec 16
  tagf : BitVec 16
  trigVal : W32
  pcLog2 : Nat
  frz : Bool
  frzDelay : Nat
  deriving DecidableEq, Repr

/-- An acceptance test of one optical direction: the wavelengths accepted by training (R276). -/
abbrev WaveMask := BitVec 9

/-- What a module start finds (R374, R377): the image in flash, the die revisions and feature words and
whether the mix is qualified, the first step from 5 on that fails, if any, and the highest rate code at which every stack
trains. -/
structure StartIn where
  image : List Byte
  features : List W32
  revs : List Byte
  qualified : Bool
  failStep : Option Nat
  poolKey : W64
  memRate : Nat
  deriving DecidableEq, Repr

/-- A need that wear management finds (R411): the kind code of R414 (7 for a host cluster), the resource's
scope and number, and whether it is urgent. -/
structure Need where
  kind : Nat
  scope : Nat
  res : Nat
  urgent : Bool
  deriving DecidableEq, Repr

/-- What an ageing sweep measures (R410, R411): the tiles whose path-delay margin is below 15 ps, the lanes (scope of their bundle, and number)
whose eye margin is below the acceptance of R263, and the ports whose laser's drive current is 20 % above its assembly value. -/
structure Sweep where
  tiles : List Nat
  lanes : List (Nat × Nat)
  lasers : List Nat
  deriving DecidableEq, Repr

/-- An error that a command meets in a pier's own storage (R220): one bit or two bits of cache data, a tag's parity in a
way, one bit of a merging buffer entry or two bits of its 64-bit word `word`, one bit or two bits of an adder store. -/
inductive SramErr
  | none | one | two | tag (way : Nat) | buf | bufTwo (word : Nat) | store | storeTwo
  deriving DecidableEq, Repr

/-- The commands, one per row of the opcode table. An operand with a default is one that the plain form of its command does not carry:
no flipped bit, no error met, nothing else written in the same cycle. -/
inductive Instr
  -- the spindle core and the tile's registers
  | csrAccess (t : Nat) (op : CsrOp) (csr : BitVec 12) (rd rs : Nat)
  | spindleLoadStore (t : Nat) (k : AccKind) (width : Nat) (sgn : Bool) (addr : W32) (rd rs ilen upset : Nat)
  | ecall (t : Nat)
  | ebreak (t : Nat)
  | mret (t : Nat)
  | wfi (t : Nat)
  | eventDelivery (t : Nat) (set : Bool := false)
  | qpush (v : View) (t q : Nat) (val : W32)
  | exit (v : View) (t : Nat) (code : W32)
  | exitDrained (t : Nat)
  | qcrWrite (v : View) (t q : Nat) (val : W32)
  | rxcfgWrite (v : View) (t n : Nat) (val : W32)
  | rxtailWrite (v : View) (t n : Nat) (val : W32)
  | pendSet (v : View) (t : Nat) (hi : Bool) (val : W32)
  | pendClr (v : View) (t : Nat) (hi : Bool) (val : W32) (hw : W32)
  | maskSet (v : View) (t : Nat) (hi : Bool) (val : W32)
  | maskClr (v : View) (t : Nat) (hi : Bool) (val : W32) (set : W32 := 0)
  | tmarkWrite (v : View) (t : Nat) (val : W32)
  | cntrstWrite (v : View) (addr : Nat) (val : W32) (ev : W32)
  | dmiHaltreq (t : Nat)
  | dmiResumereq (t : Nat)
  | dmiAbstractCommand (t : Nat) (cmd : W32)
  -- registers of the shared units
  | ringctlWrite (val : W32)
  | ringtailWrite (val : W32)
  | wayctlDisableWrite (p : Nat) (val : W32)
  | wayctlEnableWrite (p : Nat) (val : W32)
  | hostintCtlWrite (n : Nat) (val : W32) (ev : Bool)
  | importOpen (w : Nat) (val : W32)
  | exportEntryWrite (e : Nat) (size : Nat) (val : W64)
  | talcyTriggerWrite (val : W32)
  | registerWrite (addr size : Nat) (val : W64)
  | qstatRead (v : View) (t q : Nat) (ev : Bool)
  | rxrefRead (v : View) (t n : Nat) (evFull evOther : Nat)
  | overflowRead (ev : Nat)
  | memchStatusRead (ch ev : Nat)
  | errcntRead (ch evInner evOuter evUe : Nat)
  | waystatRead (p : Nat) (ev : Bool)
  | pcacheErrRead (p evCe evData evTag evBuf : Nat)
  | homearbStatusRead (a ev : Nat)
  | bstatRead (l n ev : Nat)
  | nodeRefuseRead (ev : Nat)
  | oportErrRead (p evRep evFec : Nat)
  | jobMissedRead (ev : Nat)
  | jobFlagsRead (ev : Nat)
  | droopRead (ev : Nat)
  | overcapRead (ev : Nat)
  | tripRead
  | tempRead (i : Nat)
  | bootCauseRead (ev : BitVec 10)
  | dierstRead (ev : BitVec 16)
  | talcyStatusRead (ev : Nat)
  | cntctlFreezeRead (ev : Bool)
  | wearUnmetRead (ev : Nat)
  | belulErrRead (c evOver evBad : Nat)
  | cntloRead (v : View) (addr : Nat)
  | tickNumloRead
  | jobTickloRead
  | frztickloRead
  -- descriptors and the engines
  | descriptorStart (t q : Nat)
  | fenceComplete (t q : Nat)
  | latheBlockDone (t : Nat)
  | chainChunkDone (t : Nat) (flips : Flips := [])
  | chainPassEnd (t : Nat) (flips : Flips := [])
  | moverCopyChunk (t q : Nat) (flips : Flips := [])
  | moverFillChunk (t q : Nat) (flips : Flips := [])
  | moverAtomicChunk (t q : Nat) (flips : Flips := [])
  | sendMessage (t q : Nat)
  | moverAck (t q chunk : Nat)
  | moverChunkDone (t q chunk : Nat)
  | completionPost (t q : Nat) (cycles : Nat)
  | storeCorrectiveWrite (t word : Nat)
  -- the Keystone
  | leaseRequest (t q : Nat)
  | keystoneWalkComplete (t q : Nat)
  | recall (t q tag : Nat)
  | recallAck (t q base : Nat)
  | invalidateComplete (handle : Nat)
  | walkerParityError (walker t q : Nat)
  | spaceBind (r : Req) (tag root : Nat)
  | spaceUnbind (r : Req) (tag : Nat)
  | invalidate (r : Req) (tag : Nat)
  | faultRing (r : Req) (addr : Nat) (enable msi : Bool)
  | faultResolve (r : Req) (tile queue action : Nat)
  | probe (r : Req) (tag va : Nat)
  | keystoneStatus (r : Req)
  -- the tile's life
  | storeFillComplete (t : Nat)
  | stopDrainStart (t : Nat)
  | drainComplete (t : Nat)
  | tileReset (r : Req) (ts : TileSet)
  | tileLoad (r : Req) (ts : TileSet) (va len off tag : Nat)
  | tileStart (r : Req) (ts : TileSet) (tag entry arg : Nat)
  | tileStop (r : Req) (ts : TileSet)
  | tileStatus (r : Req) (tile : Nat)
  | tileHalt (r : Req) (ts : TileSet)
  | tileResume (r : Req) (ts : TileSet)
  | tileTest (r : Req) (ts : TileSet)
  -- routed small messages
  | msgDataDelivery (m : MsgSrc) (flips : Flips := [])
  | msgSignalDelivery (m : MsgSrc)
  | deliveryRefusal (id : Nat) (cause : Nat)
  | msgRetry (id : Nat)
  -- the HBM4 pool
  | memoryRead (cw : Nat) (inner : Bool) (err : BitVec 576)
  | memoryWrite (cw : Nat) (mask : BitVec 64) (data : BitVec 512)
  | codewordCorrectiveWrite (cw : Nat)
  | patrolScrub (inner : List Nat) (errs : List (Nat × BitVec 576) := [])
  | rowRepair (ch : Nat) (spare : Bool)
  | hotWindowEnd
  | refresh (ch : Nat)
  | stackTempRead (st : Nat) (temp : Int)
  | hbmCalibration (ch : Nat)
  | memoryInit (r : Req) (mode rate : Nat) (testKey : Bool) (key : W64)
  | memoryInitComplete (rate : Nat) (failed : Option Nat) (key : W64)
  | memoryStatus (r : Req)
  | retiredList (r : Req) (buf : Nat)
  | scrubSet (r : Req) (enable : Bool) (period : Nat)
  | memTraffic (r : Req) (mask : BitVec 512)
  | memTrafficComplete (chs : List Nat) (errs : List (Nat × BitVec 576) := [])
  -- the pier cache and the adders
  | pierRead (p addr : Nat) (sectors : BitVec 4) (e : SramErr)
  | fillReturn (p cw : Nat) (inner : Bool) (flips : Flips := [])
  | pierWrite (p line : Nat) (mask : BitVec 128) (data : BitVec 1024)
  | mergeAgeDrain (p line : Nat) (e : SramErr)
  | adderOperation (addr : Nat) (addop : BitVec 8) (opnd cmp : BitVec 128) (e : SramErr)
  | adderStoreEvict (ch cw : Nat) (e : SramErr := .none)
  | cacheRangeInvalidate (r : Req) (start len : Nat)
  | cacheRangeDrainMerge (r : Req) (start len : Nat)
  | cacheRangePrefetch (r : Req) (start len : Nat)
  | cacheRangeLock (r : Req) (start len : Nat)
  | cacheRangeUnlock (r : Req) (start len : Nat)
  | cacheRangeComplete (p : Nat := 0) (upto : Nat := 2 ^ 57)
  | cacheWayInvalidate (r : Req) (p w : Nat)
  | cacheWayEnable (r : Req) (p w : Nat)
  | cacheWayDisable (r : Req) (p w : Nat)
  | wayPowerDownComplete (p w : Nat) (upto : Nat := 65536)
  | cacheStatus (r : Req) (p : Nat)
  -- host clusters and the home arbiters
  | gets (cl line : Nat)
  | getm (cl line : Nat)
  | tread (id line : Nat)
  | twrite (id line : Nat) (mask : BitVec 64) (data : BitVec 512)
  | top (id addr : Nat) (addop : BitVec 8) (opnd cmp : BitVec 128)
  | fwdgets (cl line req : Nat)
  | fwdgetm (cl line req : Nat)
  | fwdinv (cl line : Nat)
  | inv (cl line : Nat)
  | data (cl line : Nat) (m : Bool) (val : BitVec 512) (poison : Bool)
  | ack (cl line : Nat)
  | wback (cl line : Nat)
  | done (line : Nat)
  | putm (cl line : Nat) (val : BitVec 512) (poison : Bool)
  | downwb (cl line : Nat) (val : BitVec 512) (poison : Bool)
  | hostApertureLoad (hart addr size : Nat) (fetch : Bool := false)
  | hostApertureStore (hart addr size : Nat) (k : HostSt) (val : BitVec 512 := 0)
  | hostApertureAmo (hart addr : Nat) (k : AccKind) (width : Nat := 8) (val : W64 := 0)
  | seteipnumWrite (addr : Nat) (val : W32)
  | pciePortEvent (port : Nat)
  -- Truss and the die links
  | trussReplay (l n : Nat) (east : Bool) (count : Nat)
  | linkup (l n : Nat) (east : Bool) (hashE : W32) (hashW : W32 := hashE)
  | mapfault (l n : Nat)
  | bundleTrainingDone (l n : Nat) (idW idE : BundleId) (align : Bool) (freshE : BitVec 68 := 0) (freshW : BitVec 68 := 0)
  | dieResetResponse (who : Requester)
  | dieLinkStatus (r : Req) (l : Nat)
  | dieLinkRetrain (r : Req) (l n : Nat)
  -- the optical links and node addressing
  | flitForward (port : Nat) (p : Pkt)
  | flitReplay (port fseq : Nat)
  | linkdown (port : Nat)
  | peerid (port : Nat) (gen8 : Bool) (phys peerPort : Nat) (fprint : W32)
  | portTrainingDone (port : Nat) (accTx accRx : WaveMask)
  | waveErrorWindow (port : Nat) (overs : WaveMask)
  | laserFailure (port : Nat)
  | remoteRead (port : Nat) (p : Pkt)
  | remoteWrite (port : Nat) (p : Pkt)
  | remoteAtomic (port : Nat) (p : Pkt)
  | rspData (port : Nat) (p : Pkt := { cls := 1, typ := 1 })
  | rspAck (port : Nat) (p : Pkt := { cls := 1, typ := 2 })
  | rspNack (port : Nat) (p : Pkt := { cls := 1, typ := 3 })
  | remoteTimeout (tag : Nat)
  | portStatus (r : Req) (port : Nat)
  | portOpen (r : Req) (port : Nat)
  | portRetrain (r : Req) (port : Nat)
  | nodeRole (r : Req) (logical epoch : Nat) (rolev : Bool)
  | routeLoad (r : Req) (phys ex ey ez : Nat) (wrap : BitVec 3) (pods : List (Nat × Nat))
  | nodemapSync (r : Req) (base len : Nat)
  | windowSet (r : Req) (w base size : Nat) (rights : BitVec 3) (hc jobchk : Bool) (srcVal srcMask : BitVec 24)
  | windowClose (r : Req) (w : Nat)
  | windowCloseComplete (w : Nat)
  | exportSet (r : Req) (e node w : Nat) (v : Bool)
  -- the span tick, jobs and collectives
  | spanTickBoundary (predict : List Nat) (estimate floor : Nat)
  | timesyncSend (port : Nat) (t1 : Nat)
  | timesync (port : Nat) (reply : Bool) (t1 t2 t3 : Int) (t4 : Int := 0)
  | heartbeat (port : Nat) (h : Heartbeat)
  | flood (port : Nat) (bound origin kind cause job : Nat)
  | parentUsable (port : Nat) (tick : W64)
  | tickLockAcquired
  | parentLost (next : Option Nat)
  | holdoverUnaligned
  | tickLost
  | nodeLost (phys : Nat)
  | stepTimeout (stream step : Nat)
  | collData (port : Nat) (p : Pkt)
  | collComplete
  | launch (port : Nat) (h : LaunchHdr)
  | launchAck (port : Nat) (a : LaunchAck)
  | launchAckDeadline
  | launchAttemptEnd
  | jobLaunch (r : Req) (h : LaunchHdr)
  | jobEnd (r : Req)
  | jobStatus (r : Req)
  | collPost (r : Req) (addr : Nat)
  | tickConfig (r : Req) (root : Bool) (p0 p1 p2 p3 : Nat)
  -- the Belul command interface
  | belulCommit (c slot : Nat) (word : W64)
  | deviceInfo (r : Req)
  | tileMap (r : Req)
  | spareState (r : Req)
  | degraded (r : Req)
  | nop (r : Req) (params : List Byte)
  | opQuery (r : Req) (handle : W32)
  | opAbort (r : Req) (handle : W32) (pos : Nat)
  | opList (r : Req)
  | pciePort (r : Req) (port mode width : Nat)
  | configRead (r : Req)
  -- power
  | powerCap (r : Req) (cap window : Nat)
  | powerState (r : Req) (target : Nat)
  | clusterPark (r : Req) (die : Nat) (mask : BitVec 12)
  | clusterUnpark (r : Req) (die : Nat) (mask : BitVec 12)
  | dvfsSet (r : Req) (decks : List (Nat × Nat)) (clusters : List Nat)
  | powerStatus (r : Req)
  -- observation
  | counterSnapshot (r : Req) (set idx : Nat) (tick : W64)
  | freeze (r : Req) (machine thaw : Bool) (tick : W64)
  | freezePacket (port : Nat) (tick : W64) (origin : Nat) (thaw : Bool)
  | haltPacket (port : Nat) (bound : W64) (origin job action : Nat)
  | traceConfig (r : Req) (cfg : TraceCfg)
  | traceArm (r : Req)
  | traceStop (r : Req)
  | traceUnitStop (p : Nat)
  | pcSample (t : Nat)
  | counterThreshold (t n : Nat)
  | eventRead (r : Req) (first count : Nat)
  | haltGroup (r : Req) (ts : TileSet) (scope action : Nat)
  -- firmware and security
  | fwInfo (r : Req)
  | fwUpdate (r : Req) (src : ImgSrc)
  | fwRecoveryLoad (r : Req) (off : Nat) (last : Bool) (piece : List Byte) (flashOk : Bool)
  | recoverySessionTimeout
  | fwActivate (r : Req)
  | recordRead (r : Req) (kind first : Nat)
  | idCert (r : Req) (off : Nat)
  | attest (r : Req) (nonce : BitVec 256) (mask : BitVec 8)
  | measureLog (r : Req) (off : Nat)
  -- I3C
  | i3cPrivateWrite (off : BitVec 16) (bytes : List Byte)
  | i3cPrivateRead (n : Nat)
  | entdaa (addr : BitVec 7)
  | rstdaa
  | setnewda (addr : BitVec 7)
  | getpid
  | getbcr
  | getdcr
  | getstatus
  | getmwl
  | getmrl
  | enec
  | disec
  | rstact (whole : Bool)
  -- power, thermal and supply events
  | powerCalibration (measured : Nat) (gains : List (Nat × Nat))
  | dvfsAdjust
  | droopClamp (volt : Nat)
  | clampRelease (minv durationNs : Nat)
  | supply
  | monitorFault
  | thermalSample (i : Nat) (temp : Int)
  | thermalTrip (i : Nat) (temp : Int)
  | localLoopUpdate (p : Nat)
  | mgrLost (p : Nat)
  | powerWake (src : Nat)
  | powerOn
  | external
  | modResetRelease
  | watchdog
  | moduleStart (i : StartIn)
  | failstreakClear
  | deckDieReset (n : Nat) (same : Bool)
  | abutmentDieReset (a : Nat) (same : Bool)
  | recordCompaction
  -- wear
  | ageingSweep (found : Sweep)
  | substitution (n : Need) (testOk : Bool)
  -- later rows of the table
  | wayInvalidateComplete (p w : Nat)
  | nodemapSyncComplete
  | fwUpdateComplete (ok : Bool)
  | tileTestComplete (failing : List Nat)
  | portLossOfLock (port : Nat)
  | flitCheckFailure (port fseq : Nat) (fec : Bool)
  | bundleHeaderParityError (bond : Bool) (l n : Nat) (east : Bool) (count : Nat)
  | hostClusterStateError (a c : Nat)
  | laneEyeCheckFailure (l n : Nat) (east : Bool) (lane : Nat) (outright : Bool)
  | pierFatalError (p : Nat)
  | stbyPowerLoss
  | pcieWindowAccess (hostint write : Bool) (hart addr size : Nat) (val : W64) (up : Bool)
  deriving DecidableEq, Repr

end Sys2Proof
end

