-- ==== Sys2Proof/Machine/Tab.lean ====
section
/-!
DEFINITION. Operations on sparse tables and on byte memories, and the bit fields of numbers. A memory is a
`Tab Byte` whose unlisted bytes read as zero (assumption 3).
-/

namespace Sys2Proof

/-- The value at a key: `d` where nothing is listed. -/
def Tab.get {α : Type} (d : α) : Tab α → Nat → α
  | [], _ => d
  | (j, v) :: r, k => if j = k then v else Tab.get d r k

/-- The table with the value `v` at key `k`; the default value is not listed. -/
def Tab.set {α : Type} [DecidableEq α] (d : α) (t : Tab α) (k : Nat) (v : α) : Tab α :=
  t.filter (fun e => decide (e.1 < k)) ++ (if v = d then [] else [(k, v)]) ++ t.filter (fun e => decide (k < e.1))

/-- A table with a function applied to every listed entry; what becomes the default is not listed. -/
def keepTab {α : Type} [DecidableEq α] (d : α) (f : α → α) (t : Tab α) : Tab α :=
  t.filterMap fun e => if f e.2 = d then none else some (e.1, f e.2)

/-- The canonical form: strictly rising keys, and no listed value equal to the default. -/
def Tab.wf {α : Type} [DecidableEq α] (d : α) (t : Tab α) : Bool :=
  decide (t.Pairwise (fun a b => a.1 < b.1)) && t.all (fun e => decide (e.2 ≠ d))

/-- The canonical form of a byte memory. -/
def Memory.wf (t : Tab Byte) : Bool := Tab.wf 0 t

/-- The byte at an address. -/
def Memory.byte (t : Tab Byte) (a : Nat) : Byte := Tab.get 0 t a

/-- One byte written. -/
def Memory.putByte (t : Tab Byte) (a : Nat) (b : Byte) : Tab Byte := Tab.set 0 t a b

/-- `n` bytes from an address. -/
def Memory.bytes (t : Tab Byte) (a : Nat) : Nat → List Byte
  | 0 => []
  | n + 1 => Memory.byte t a :: Memory.bytes t (a + 1) n

/-- A list of bytes written at rising addresses. -/
def Memory.put (t : Tab Byte) (a : Nat) : List Byte → Tab Byte
  | [] => t
  | b :: r => Memory.put (Memory.putByte t a b) (a + 1) r

/-- A list of bytes as a little-endian number (R4). -/
def leNat : List Byte → Nat
  | [] => 0
  | b :: r => b.toNat + 256 * leNat r

/-- The low `n` bytes of a number, least significant first (R4). -/
def leBytes : Nat → Nat → List Byte
  | 0, _ => []
  | n + 1, v => BitVec.ofNat 8 v :: leBytes n (v / 256)

/-- A little-endian field of `n` bytes at an address. -/
def Memory.le (t : Tab Byte) (a n : Nat) : Nat := leNat (Memory.bytes t a n)

/-- A number stored as a little-endian field of `n` bytes. -/
def Memory.putLe (t : Tab Byte) (a n v : Nat) : Tab Byte := Memory.put t a (leBytes n v)

/-- The range of bytes `a … a + n − 1` filled with zero. -/
def Memory.clear (t : Tab Byte) (a n : Nat) : Tab Byte :=
  t.filter (fun e => decide (e.1 < a) || decide (a + n ≤ e.1))

/-- The field of `n` bits from bit `lo` of a number. -/
def fld (v lo n : Nat) : Nat := v / 2 ^ lo % 2 ^ n

/-- Bit `i` of a number. -/
def bitAt (v i : Nat) : Bool := v.testBit i

/-- A number whose bit field of `n` bits at `lo` holds `x`, all other bits zero. -/
def mkFld (lo n x : Nat) : Nat := x % 2 ^ n * 2 ^ lo

/-- One bit as a number. -/
def bitNat (b : Bool) : Nat := if b then 1 else 0

/-- A flag in bit `i` of a number. -/
def mkBit (i : Nat) (b : Bool) : Nat := bitNat b * 2 ^ i

/-- A two's complement number of `n` bits. -/
def sInt (n v : Nat) : Int := if v % 2 ^ n < 2 ^ (n - 1) then (v % 2 ^ n : Nat) else (v % 2 ^ n : Nat) - (2 ^ n : Nat)

/-- An integer as a two's complement field of `n` bits. -/
def ofSInt (n : Nat) (i : Int) : Nat := (i % (2 ^ n : Nat)).toNat

/-- Addition that stops at a limit (the saturating counts of the registers). -/
def satAdd (lim a b : Nat) : Nat := min lim (a + b)

/-- A little-endian field of `n` bytes of a list of bytes; bytes past the end read as zero. -/
def fieldAt (l : List Byte) (off n : Nat) : Nat := leNat ((l.drop off).take n)

/-- A list with its element at position `i` replaced. -/
def listSet {α : Type} : List α → Nat → α → List α
  | [], _, _ => []
  | _ :: r, 0, v => v :: r
  | a :: r, n + 1, v => a :: listSet r n v

/-- A list with the first element that a test selects replaced by its image. -/
def listMod {α : Type} (p : α → Bool) (f : α → α) : List α → List α
  | [] => []
  | a :: r => if p a then f a :: r else a :: listMod p f r

/-- Numbers `a, a + 1, … a + n − 1`. -/
def rangeFrom (a : Nat) : Nat → List Nat
  | 0 => []
  | n + 1 => a :: rangeFrom (a + 1) n

/-- The positions of the one bits of a mask. -/
def maskBits (w : Nat) (m : Nat) : List Nat := (rangeFrom 0 w).filter (fun i => m.testBit i)

/-- The least element of a list of numbers. -/
def listMin : List Nat → Option Nat
  | [] => none
  | a :: r => match listMin r with
    | none => some a
    | some b => some (min a b)

/-- ⌈a / b⌉. -/
def ceilDiv (a b : Nat) : Nat := (a + b - 1) / b

end Sys2Proof
end

