-- ==== Sys2Proof/Machine/Num.lean ====
section
/-!
DEFINITION. Number formats, rounding and conversion (R84–R90, R97). A finite value is a sign and an exact dyadic
number `m × 2ᵉ`; every operation computes exactly and rounds once (R87).
-/

namespace Sys2Proof.Machine
open Sys2Proof

/-- The number formats of R84 and R85; `mxint8` is the MXINT8 element, INT8 bits times 2⁻⁶. -/
inductive Fmt
  | fp4 | e2m3 | e3m2 | e4m3 | e5m2 | fp16 | bf16 | fp32 | fp64 | int4 | int8 | int32 | mxint8
  deriving DecidableEq, Repr

/-- Exponent bits (R85). -/
def Fmt.ebits : Fmt → Nat
  | .fp4 => 2 | .e2m3 => 2 | .e3m2 => 3 | .e4m3 => 4 | .e5m2 => 5 | .fp16 => 5 | .bf16 => 8 | .fp32 => 8
  | .fp64 => 11 | _ => 0
/-- Mantissa bits (R85). -/
def Fmt.mbits : Fmt → Nat
  | .fp4 => 1 | .e2m3 => 3 | .e3m2 => 2 | .e4m3 => 3 | .e5m2 => 2 | .fp16 => 10 | .bf16 => 7 | .fp32 => 23
  | .fp64 => 52 | _ => 0
/-- Exponent bias (R85). -/
def Fmt.bias : Fmt → Nat
  | .fp4 => 1 | .e2m3 => 1 | .e3m2 => 3 | .e4m3 => 7 | .e5m2 => 15 | .fp16 => 15 | .bf16 => 127 | .fp32 => 127
  | .fp64 => 1023 | _ => 0
/-- Bits of an element. -/
def Fmt.bits : Fmt → Nat
  | .fp4 => 4 | .e2m3 => 6 | .e3m2 => 6 | .e4m3 => 8 | .e5m2 => 8 | .fp16 => 16 | .bf16 => 16 | .fp32 => 32
  | .fp64 => 64 | .int4 => 4 | .int8 => 8 | .int32 => 32 | .mxint8 => 8
/-- An integer format. -/
def Fmt.isInt : Fmt → Bool
  | .int4 => true | .int8 => true | .int32 => true | .mxint8 => true | _ => false
/-- The format has infinities in the IEEE 754 layout (R85). -/
def Fmt.hasInf : Fmt → Bool
  | .e5m2 => true | .fp16 => true | .bf16 => true | .fp32 => true | .fp64 => true | _ => false
/-- The canonical NaN (R85); FP6 and FP4 have none. -/
def Fmt.nan : Fmt → Option Nat
  | .e4m3 => some 0x7F | .e5m2 => some 0x7E | .fp16 => some 0x7E00 | .bf16 => some 0x7FC0
  | .fp32 => some 0x7FC00000 | .fp64 => some 0x7FF8000000000000 | _ => none
/-- Bits of the largest finite magnitude (R85). -/
def Fmt.maxBits (f : Fmt) : Nat :=
  match f with
  | .e4m3 => 0x7E
  | _ => if f.hasInf then (2 ^ f.ebits - 1) * 2 ^ f.mbits - 1 else 2 ^ (f.ebits + f.mbits) - 1
/-- Bits of +∞. -/
def Fmt.infBits (f : Fmt) : Nat := (2 ^ f.ebits - 1) * 2 ^ f.mbits

/-- A value: NaN, ±∞, or (−1)^neg × m × 2^e. -/
inductive Val
  | nan
  | inf (neg : Bool)
  | fin (neg : Bool) (m : Nat) (e : Int)
  deriving DecidableEq, Repr

/-- The value of floating-point bits (R85, R86). -/
def floatVal (f : Fmt) (b : Nat) : Val :=
  let neg := bitAt b (f.ebits + f.mbits)
  let ex := fld b f.mbits f.ebits
  let m := fld b 0 f.mbits
  if f.hasInf && ex == 2 ^ f.ebits - 1 then (if m = 0 then .inf neg else .nan)
  else if f = .e4m3 && ex == 15 && m == 7 then .nan
  else if ex = 0 then .fin neg m (1 - f.bias - f.mbits)
  else .fin neg (2 ^ f.mbits + m) ((ex : Int) - f.bias - f.mbits)

/-- An integer as a value. -/
def intVal (i : Int) (e : Int) : Val := .fin (decide (i < 0)) i.natAbs e

/-- The value of an element's bits. -/
def valOf (f : Fmt) (b : Nat) : Val :=
  match f with
  | .mxint8 => intVal (sInt 8 b) (-6)
  | _ => if f.isInt then intVal (sInt f.bits b) 0 else floatVal f b

/-- The rounding modes with their codes (R62, R87): 0 RNE, 1 RTZ, 2 RDN, 3 RUP. -/
abbrev RMode := Nat

/-- Whether a magnitude whose dropped part is `r` of `2 × half` is rounded up (R87). -/
def roundsUp (mode : RMode) (neg odd : Bool) (r half : Nat) : Bool :=
  match mode with
  | 0 => decide (half < r) || (r == half && odd)
  | 1 => false
  | 2 => neg && r != 0
  | _ => !neg && r != 0

/-- A magnitude `m × 2^e` rounded to a multiple of `2^q`: the multiple. -/
def roundAt (mode : RMode) (neg : Bool) (m : Nat) (e q : Int) : Nat :=
  if q ≤ e then m * 2 ^ (e - q).toNat
  else
    let d := (q - e).toNat
    let n := m / 2 ^ d
    if roundsUp mode neg (n % 2 == 1) (m % 2 ^ d) (2 ^ (d - 1)) then n + 1 else n

/-- A sign bit over the bits of a magnitude. -/
def withSign (f : Fmt) (neg : Bool) (b : Nat) : Nat := b + bitNat neg * 2 ^ (f.ebits + f.mbits)

/-- The result of a finite overflow (R88): saturating for FP6 and FP4, and for FP8 where `sat` is set; else as
IEEE 754, with NaN in place of ∞ for E4M3. -/
def overflowBits (f : Fmt) (mode : RMode) (sat neg : Bool) : Nat :=
  let toInf : Bool := match mode with
    | 0 => true
    | 1 => false
    | 2 => neg
    | _ => !neg
  match f with
  | .fp4 | .e2m3 | .e3m2 => withSign f neg f.maxBits
  | .e4m3 => if !sat && toInf then 0x7F else withSign f neg f.maxBits
  | .e5m2 => if !sat && toInf then withSign f neg f.infBits else withSign f neg f.maxBits
  | _ => if toInf then withSign f neg f.infBits else withSign f neg f.maxBits

/-- A finite magnitude converted to a floating-point format: bits and overflow (R87, R88). -/
def roundFin (f : Fmt) (mode : RMode) (sat neg : Bool) (m : Nat) (e : Int) : Nat × Bool :=
  if m = 0 then (withSign f neg 0, false)
  else
    let qmin : Int := 1 - f.bias - f.mbits
    let q := max ((m.log2 : Int) + e - f.mbits) qmin
    let b := (q - qmin).toNat * 2 ^ f.mbits + roundAt mode neg m e q
    if f.maxBits < b then (overflowBits f mode sat neg, true) else (withSign f neg b, false)

/-- An integer limited to a two's complement format: bits, and whether it was limited (R84). -/
def clampInt (w : Nat) (i : Int) : Nat × Bool :=
  let hi : Int := 2 ^ (w - 1) - 1
  let lo : Int := -(2 ^ (w - 1))
  if hi < i then (ofSInt w hi, true) else if i < lo then (ofSInt w lo, true) else (ofSInt w i, false)

/-- The value of a magnitude rounded to an integer under a mode. -/
def roundInt (mode : RMode) (neg : Bool) (m : Nat) (e : Int) : Int :=
  let n := roundAt mode neg m e 0
  if neg then -(n : Int) else n

/-- A value converted into an integer format (R84): bits and INT_SAT. -/
def toInt (w : Nat) (mode : RMode) (v : Val) (e0 : Int) : Nat × Bool :=
  match v with
  | .nan => (0, true)
  | .inf neg => if neg then (ofSInt w (-(2 ^ (w - 1))), true) else (ofSInt w (2 ^ (w - 1) - 1), true)
  | .fin neg m e => clampInt w (roundInt mode neg m (e + e0))

/-- A value converted into a format (R84, R88, R89): the bits and the event OVERFLOW or INT_SAT. `nanBits` stands for
a NaN in a format that has none: a value the manual does not state. -/
def convert (f : Fmt) (mode : RMode) (sat : Bool) (nanBits : Nat) (v : Val) : Nat × Bool :=
  match f with
  | .mxint8 => toInt 8 mode v 6
  | _ =>
    if f.isInt then toInt f.bits mode v 0
    else match v with
      | .nan => (f.nan.getD (nanBits % 2 ^ f.bits), false)
      | .inf neg =>
        if f.hasInf then (withSign f neg f.infBits, false)
        else if f = .e4m3 then (0x7F, true)
        else (withSign f neg f.maxBits, true)
      | .fin neg m e => roundFin f mode sat neg m e

/-! ### Exact arithmetic on values -/

/-- A zero value. -/
def Val.isZero : Val → Bool
  | .fin _ m _ => m == 0
  | _ => false
/-- NaN. -/
def Val.isNan : Val → Bool
  | .nan => true
  | _ => false
/-- NaN or ∞. -/
def Val.special : Val → Bool
  | .fin _ _ _ => false
  | _ => true
/-- The sign of a value; NaN has none. -/
def Val.neg : Val → Bool
  | .nan => false
  | .inf n => n
  | .fin n _ _ => n
/-- A value with its sign changed. -/
def Val.negate : Val → Val
  | .nan => .nan
  | .inf n => .inf !n
  | .fin n m e => .fin (!n) m e
/-- The magnitude of a value. -/
def Val.abs : Val → Val
  | .nan => .nan
  | .inf _ => .inf false
  | .fin _ m e => .fin false m e

/-- A finite value as an integer multiple of `2^q`, for `q` at or below its exponent. -/
def finInt (neg : Bool) (m : Nat) (e q : Int) : Int :=
  let n : Int := m * 2 ^ (e - q).toNat
  if neg then -n else n

/-- The exact sum (R86): opposite zeros, and a zero sum of nonzero values, are +0, or −0 under RDN. -/
def Val.add (mode : RMode) (a b : Val) : Val :=
  match a, b with
  | .nan, _ => .nan
  | _, .nan => .nan
  | .inf x, .inf y => if x = y then .inf x else .nan
  | .inf x, _ => .inf x
  | _, .inf y => .inf y
  | .fin n1 m1 e1, .fin n2 m2 e2 =>
    let q := min e1 e2
    let i := finInt n1 m1 e1 q + finInt n2 m2 e2 q
    if i = 0 then (if m1 = 0 && m2 = 0 && n1 == n2 then .fin n1 0 0 else .fin (mode == 2) 0 0)
    else .fin (decide (i < 0)) i.natAbs q

/-- The exact product; 0 × ∞ is NaN. A zero product has the sign of its factors, also of MXINT8 elements, integers that
have no signed zero: a negative element times 0 gives −0 (DEDUCED from R86, assumption 141). -/
def Val.mul (a b : Val) : Val :=
  match a, b with
  | .nan, _ => .nan
  | _, .nan => .nan
  | .inf x, .inf y => .inf (x != y)
  | .inf x, .fin y m _ => if m = 0 then .nan else .inf (x != y)
  | .fin x m _, .inf y => if m = 0 then .nan else .inf (x != y)
  | .fin x m1 e1, .fin y m2 e2 => .fin (x != y) (m1 * m2) (e1 + e2)

/-- The sum of a product and a value, exact. -/
def Val.fma (mode : RMode) (a b c : Val) : Val := Val.add mode (Val.mul a b) c

/-- A quotient of nonzero finite magnitudes to 128 bits more than they have, its last bit set where it is not
exact: rounding it into any format of R85 rounds the true quotient. -/
def quot (m1 m2 : Nat) : Nat × Int :=
  let k := m2.log2 + 128
  let n := m1 * 2 ^ k
  (2 * (n / m2) + bitNat (n % m2 != 0), -(k : Int) - 1)

/-- The quotient of two values. -/
def Val.div (a b : Val) : Val :=
  match a, b with
  | .nan, _ => .nan
  | _, .nan => .nan
  | .inf _, .inf _ => .nan
  | .inf x, .fin y _ _ => .inf (x != y)
  | .fin x _ _, .inf y => .fin (x != y) 0 0
  | .fin x m1 e1, .fin y m2 e2 =>
    if m2 = 0 then (if m1 = 0 then .nan else .inf (x != y))
    else if m1 = 0 then .fin (x != y) 0 0
    else let q := quot m1 m2; .fin (x != y) q.1 (q.2 + e1 - e2)

/-- The square root of a nonzero magnitude, its last bit set where it is not exact. -/
def root (m : Nat) (e : Int) : Nat × Int :=
  let e := if e % 2 = 0 then (m, e) else (2 * m, e - 1)
  let n := e.1 * 2 ^ 256
  let r := n.sqrt
  (2 * r + bitNat (r * r != n), e.2 / 2 - 129)

/-- The square root of a value. -/
def Val.sqrt (a : Val) : Val :=
  match a with
  | .nan => .nan
  | .inf n => if n then .nan else .inf false
  | .fin n m e => if m = 0 then .fin n 0 0 else if n then .nan else let r := root m e; .fin false r.1 r.2

/-- A finite value is smaller than another, as numbers. -/
def finLt (n1 : Bool) (m1 : Nat) (e1 : Int) (n2 : Bool) (m2 : Nat) (e2 : Int) : Bool :=
  decide (finInt n1 m1 e1 (min e1 e2) < finInt n2 m2 e2 (min e1 e2))

/-- Numeric order; false with a NaN. Zeros are equal. -/
def Val.lt (a b : Val) : Bool :=
  match a, b with
  | .nan, _ => false
  | _, .nan => false
  | .inf x, .inf y => x && !y
  | .inf x, _ => x
  | _, .inf y => !y
  | .fin n1 m1 e1, .fin n2 m2 e2 => finLt n1 m1 e1 n2 m2 e2

/-- Numeric equality; false with a NaN. -/
def Val.eq (a b : Val) : Bool := !a.isNan && !b.isNan && !a.lt b && !b.lt a

/-- The order of minimum and maximum: as numeric order, with −0 below +0 (R97). -/
def Val.below (a b : Val) : Bool := a.lt b || (a.eq b && a.neg && !b.neg)

/-- Minimum or maximum of two values under a NaN policy (R97): NUMBER ignores a NaN beside a number, PROPAGATE gives
NaN. -/
def Val.minmax (isMax propagate : Bool) (a b : Val) : Val :=
  if a.isNan || b.isNan then
    if propagate then .nan else if a.isNan then b else a
  else if isMax then (if a.below b then b else a) else (if b.below a then b else a)

/-- ⌊log₂⌋ of a nonzero finite magnitude. -/
def ilog (m : Nat) (e : Int) : Int := (m.log2 : Int) + e

end Sys2Proof.Machine
end

