-- ==== Sys2Proof/Machine/Exact.lean ====
section
/-!
DEFINITION. The exact partial (R91–R95): its special patterns, the placing of a scaled product, addition, and
conversion.
-/

namespace Sys2Proof.Machine
open Sys2Proof

/-- What the 128 bits of an exact partial stand for (R91). -/
inductive EP
  | nan | reserved | pinf | ninf | psat | nsat
  | ord (x : Int)
  deriving DecidableEq, Repr

/-- The pattern with only the top bit set. -/
def epTop : Nat := 2 ^ 127

/-- The meaning of 128 bits (R91). -/
def epOf (b : Nat) : EP :=
  let b := b % 2 ^ 128
  if b = epTop then .nan
  else if b = epTop + 1 then .pinf
  else if b = epTop + 2 then .ninf
  else if b = epTop + 3 then .psat
  else if b = epTop + 4 then .nsat
  else if epTop < b ∧ b < epTop + 16 then .reserved
  else .ord (sInt 128 b)

/-- The bits of an exact partial; a reserved pattern is never written (R91). -/
def epBits : EP → Nat
  | .nan => epTop
  | .reserved => epTop
  | .pinf => epTop + 1
  | .ninf => epTop + 2
  | .psat => epTop + 3
  | .nsat => epTop + 4
  | .ord x => ofSInt 128 x

/-- An integer in the ordinary range, else ±SAT (R91, R92). -/
def epRange (x : Int) : EP :=
  if (2 ^ 127 : Int) ≤ x then .psat else if x < -(2 ^ 127 : Int) + 16 then .nsat else .ord x

/-- ±SAT. -/
def EP.isSat : EP → Bool
  | .psat => true
  | .nsat => true
  | _ => false
/-- A NaN, ∞ or reserved partial. -/
def EP.special : EP → Bool
  | .nan => true
  | .reserved => true
  | .pinf => true
  | .ninf => true
  | _ => false

/-- The sum of two exact partials (R94), by the first matching row. -/
def EP.add (a b : EP) : EP :=
  match a, b with
  | .nan, _ => .nan
  | .reserved, _ => .nan
  | _, .nan => .nan
  | _, .reserved => .nan
  | .pinf, .ninf => .nan
  | .ninf, .pinf => .nan
  | .pinf, _ => .pinf
  | _, .pinf => .pinf
  | .ninf, _ => .ninf
  | _, .ninf => .ninf
  | .psat, .nsat => .nan
  | .nsat, .psat => .nan
  | .psat, _ => .psat
  | _, .psat => .psat
  | .nsat, _ => .nsat
  | _, .nsat => .nsat
  | .ord x, .ord y => epRange (x + y)

/-- An addition sets EXACT_RANGE: an operand or the result is ±SAT (R94). -/
def EP.addRange (a b : EP) : Bool := a.isSat || b.isSat || (a.add b).isSat

/-- A product scaled by 2^σ placed on the grid (R92): the partial, and whether a low- or high-range event occurred. -/
def epPlace (v : Val) (sigma : Int) : EP × Bool :=
  match v with
  | .nan => (.nan, false)
  | .inf neg => (if neg then .ninf else .pinf, false)
  | .fin neg m e =>
    let sh := e + sigma + 64
    let mag : Nat := if 0 ≤ sh then m * 2 ^ sh.toNat else m / 2 ^ (-sh).toNat
    let low : Bool := decide (sh < 0) && m % 2 ^ (-sh).toNat != 0
    let r := epRange (if neg then -(mag : Int) else mag)
    (r, low || r.isSat)

/-- The flags of a conversion of an exact partial. -/
structure EPFlags where
  event : Bool := false
  range : Bool := false
  special : Bool := false
  deriving DecidableEq, Repr

/-- An exact partial times 2^s converted into a format under a mode (R95): bits, the event OVERFLOW or INT_SAT, and
EXACT_RANGE. FP8 outputs saturate as `sat` says (R88). -/
def epConvert (f : Fmt) (mode : RMode) (sat : Bool) (nanBits : Nat) (s : Int) (p : EP) : Nat × EPFlags :=
  match p with
  | .ord x =>
    if x = 0 then (if f.isInt then 0 else withSign f false 0, {})
    else
      let r := convert f mode sat nanBits (.fin (decide (x < 0)) x.natAbs (s - 64))
      (r.1, { event := r.2 })
  | .pinf => let r := convert f mode sat nanBits (.inf false); (r.1, { event := r.2, special := true })
  | .ninf => let r := convert f mode sat nanBits (.inf true); (r.1, { event := r.2, special := true })
  | .psat => (if f.isInt then (clampInt f.bits (2 ^ 64)).1 else overflowBits f mode sat false,
      { event := true, range := true })
  | .nsat => (if f.isInt then (clampInt f.bits (-(2 ^ 64))).1 else overflowBits f mode sat true,
      { event := true, range := true })
  | _ => let r := convert f mode sat nanBits .nan; (r.1, { event := r.2, special := true })

end Sys2Proof.Machine
end

