-- ==== Sys2Proof/Machine/Flags.lean ====
section
/-!
DEFINITION. The engine flags of a completion record and of an adder's acknowledgement (R140), and the status codes
of completion records (R142).
-/

namespace Sys2Proof.Machine
open Sys2Proof

/-- The flags of one operation or of a descriptor so far; they are ORed (R140, R231). -/
abbrev EFlags := BitVec 16

/-- FLAGS bit EXACT_RANGE. -/
def fExactRange : EFlags := 0x1
/-- FLAGS bit SPECIAL. -/
def fSpecial : EFlags := 0x2
/-- FLAGS bit OVERFLOW. -/
def fOverflow : EFlags := 0x4
/-- FLAGS bit INT_SAT. -/
def fIntSat : EFlags := 0x8
/-- FLAGS bit SKIPPED. -/
def fSkipped : EFlags := 0x10
/-- FLAGS bit EMPTY. -/
def fEmpty : EFlags := 0x20
/-- FLAGS bit INDEX_RANGE. -/
def fIndexRange : EFlags := 0x40

/-- A flag where a condition holds. -/
def flagIf (b : Bool) (f : EFlags) : EFlags := if b then f else 0

/-- Status codes (R142). -/
def stOk : Nat := 0x00
/-- PRED_FALSE. -/
def stPredFalse : Nat := 0x01
/-- BAD_CONFIG. -/
def stBadConfig : Nat := 0x10
/-- CANCELLED. -/
def stCancelled : Nat := 0x11
/-- ABORTED. -/
def stAborted : Nat := 0x12
/-- STORE_UNCORR. -/
def stStoreUncorr : Nat := 0x13
/-- EXACT_RANGE. -/
def stExactRange : Nat := 0x14
/-- SPARSE_META. -/
def stSparseMeta : Nat := 0x15
/-- CRC_MISMATCH. -/
def stCrcMismatch : Nat := 0x16
/-- BAD_SEGMENT. -/
def stBadSegment : Nat := 0x17
/-- XLATE_FAULT. -/
def stXlateFault : Nat := 0x20
/-- MEM_POISON. -/
def stMemPoison : Nat := 0x21
/-- REMOTE_REFUSED. -/
def stRemoteRefused : Nat := 0x22
/-- STALE_ROLE. -/
def stStaleRole : Nat := 0x23
/-- MSG_UNDELIVERED. -/
def stMsgUndelivered : Nat := 0x24

/-- Codes 0x10 and above are error-class (R142). -/
def isErrorClass (st : Nat) : Bool := decide (0x10 ≤ st)

end Sys2Proof.Machine
end

