-- ==== Sys2Proof/Machine/Crc.lean ====
section
/-!
DEFINITION. The CRC-16 of flits (R284), and CRC-32C (R121), as the checksum stage, the channel hash, the lane map hashes and the record store use
it, and the Reed–Solomon code of the pool's codewords (R195).
-/

namespace Sys2Proof.Machine
open Sys2Proof

/-- One bit of the reflected CRC-32C register (R121). -/
def crcBit (r : W32) : W32 := if r.getLsbD 0 then (r >>> 1) ^^^ 0x82F63B78#32 else r >>> 1

/-- `n` bits of the register. -/
def crcBits : Nat → W32 → W32
  | 0, r => r
  | n + 1, r => crcBits n (crcBit r)

/-- The register after one byte. -/
def crcByte (r : W32) (b : Byte) : W32 := crcBits 8 (r ^^^ b.setWidth 32)

/-- The register after a list of bytes, without the XORs at start and end. -/
def crcRun (r : W32) (l : List Byte) : W32 := l.foldl crcByte r

/-- CRC-32C of a byte stream from a SEED (R121). -/
def crc32c (seed : W32) (l : List Byte) : W32 := crcRun (seed ^^^ 0xFFFFFFFF#32) l ^^^ 0xFFFFFFFF#32

/-- One bit of the CRC-16 register (R284): the polynomial 0x8BB7, not reflected. -/
def crc16Bit (r : BitVec 16) : BitVec 16 := if r.getLsbD 15 then (r <<< 1) ^^^ 0x8BB7#16 else r <<< 1

/-- `n` bits of the CRC-16 register. -/
def crc16Bits : Nat → BitVec 16 → BitVec 16
  | 0, r => r
  | n + 1, r => crc16Bits n (crc16Bit r)

/-- The CRC-16 of a link header or a packet header, from the initial value 0xFFFF (R284). -/
def crc16 (l : List Byte) : BitVec 16 := l.foldl (fun r b => crc16Bits 8 (r ^^^ ((b.setWidth 16 : BitVec 16) <<< (8 : Nat)))) 0xFFFF#16

/-! ### The outer code of a codeword -/

/-- A symbol times α in GF(2¹⁶) modulo x¹⁶ + x¹² + x³ + x + 1 (R195). -/
def gfX (a : BitVec 16) : BitVec 16 := if a.getLsbD 15 then (a <<< 1) ^^^ 0x100B#16 else a <<< 1

/-- A symbol times αⁿ. -/
def gfPow (a : BitVec 16) : Nat → BitVec 16
  | 0 => a
  | n + 1 => gfPow (gfX a) n

/-- Bits of a codeword with its metadata: data in bits 511:0, metadata in bits 575:512 (R195). -/
abbrev CwBits := BitVec 576

/-- Symbol `j` of the 36 symbols of a codeword: d₀–d₃₁, then the metadata's c₀, c₁, c₂ and d₃₂. -/
def symAt (w : CwBits) (j : Nat) : BitVec 16 := (w >>> (16 * j)).setWidth 16

/-- The power of x that symbol `j` stands at in c(x) (R195): dᵢ at i + 3, cₖ at k. -/
def symPow (j : Nat) : Nat := if j < 32 then j + 3 else if j < 35 then j - 32 else 35

/-- Syndrome k of an error pattern: its value at αᵏ (R195). The codeword itself contributes zero. -/
def syndrome (w : CwBits) (k : Nat) : BitVec 16 :=
  (rangeFrom 0 36).foldl (fun a j => a ^^^ gfPow (symAt w j) (k * symPow j)) 0

/-- What the outer code makes of an error pattern: nothing found, one symbol corrected, or neither. -/
inductive Decoded
  | clean | corrected (j : Nat) (e : BitVec 16) | failed
  deriving DecidableEq, Repr

/-- The outer code's decision on an error pattern (R195): it corrects one symbol and detects two. -/
def decodeErr (w : CwBits) : Decoded :=
  if w = 0 then .clean else
  let s0 := syndrome w 0
  let s1 := syndrome w 1
  let s2 := syndrome w 2
  if s0 = 0 ∧ s1 = 0 ∧ s2 = 0 then .clean
  else if s0 = 0 then .failed
  else match (rangeFrom 0 36).find? (fun j => gfPow s0 (symPow j) == s1 && gfPow s0 (2 * symPow j) == s2) with
    | some j => .corrected j s0
    | none => .failed

/-- The class of a codeword read (R196), the poison of a good codeword apart. -/
inductive CwClass
  | clean | corrected | uncorrectable
  deriving DecidableEq, Repr

/-- A codeword as the controller decodes it (R195, R196): what was encoded is `data` with the tag of `poison`;
`err` holds the bits in which the stack differs. The answer is the class, the data and the poison. -/
def decodeCw (data : BitVec 512) (poison : Bool) (err : CwBits) : CwClass × BitVec 512 × Bool :=
  match decodeErr err with
  | .failed => (.uncorrectable, 0, true)
  | .clean =>
    let meta_ := ((err >>> 560).setWidth 16) ^^^ (if poison then 0x5A#16 else 0#16)
    if meta_ = 0 then (.clean, data ^^^ err.setWidth 512, false)
    else if meta_ = 0x5A#16 then (.clean, 0, true)
    else (.uncorrectable, 0, true)
  | .corrected j e =>
    let err := err ^^^ ((e.setWidth 576) <<< (16 * j))
    let meta_ := ((err >>> 560).setWidth 16) ^^^ (if poison then 0x5A#16 else 0#16)
    if meta_ = 0 then (.corrected, data ^^^ err.setWidth 512, false)
    else if meta_ = 0x5A#16 then (.corrected, 0, true)
    else (.uncorrectable, 0, true)

end Sys2Proof.Machine
end

