-- ==== Sys2Proof/Config.lean ====
section
/-!
DEFINITION. What an FX12-H16A2 fixes (R1), and the free values: constants without a body, which stand for what
the manual leaves open or takes from outside it. No statement can rest on the value of one.
-/

namespace Sys2Proof.Config

/-- Logical tiles (R14, R18). -/
def tiles : Nat := 1296
/-- Tiles of a deck die (R18). -/
def tilesPerDeck : Nat := 108
/-- Bytes of a tile store (R25). -/
def storeBytes : Nat := 0x300000
/-- Bytes of the HBM pool of FX12-H16A2 (R191, R437). -/
def poolBytes : Nat := 0x10000000000
/-- Global channels (R189). -/
def channels : Nat := 512
/-- HBM4 stacks (R13). -/
def hbmStacks : Nat := 16
/-- Populated stack sites of a pier (R189). -/
def sitesPerPier : Nat := 4
/-- Abutment dies of FX12-H16A2. -/
def abutments : Nat := 2
/-- Logical host clusters: 12 on each abutment die (R20). -/
def clusters : Nat := 24
/-- Logical harts (R20). -/
def harts : Nat := 96
/-- Optical ports (R273). -/
def ports : Nat := 48
/-- Substrate links of FX12-H16A2 (R255). -/
def links : Nat := 5
/-- PCIe ports of FX12-H16A2 (R425). -/
def pciePorts : Nat := 4
/-- Bundle pairs of a substrate link (R255). -/
def pairs (l : Nat) : Nat := if l < 3 then 32 else 8
/-- Base of the remote window aperture (R437). -/
def apertureBase : Nat := 0x800000000000
/-- End of the 48-bit physical address space (R437). -/
def physEnd : Nat := 0x1000000000000

/-- A value the manual leaves open: the argument is the number of the open value in its run (`State.free`). -/
opaque freeNat : Nat → Nat
/-- How many trace records have come from the tiles' queues to their unit at the `n`-th look (R402 gives no rate). -/
opaque traceMoves : (n : Nat) → Nat

/-- The bits that function `fn` (codes of R103) gives for argument bits `x` of compute format `fmt`, where R111 gives an
accuracy bound and no bits: they count where they lie within the bound. The same argument gives the same bits on every tile
(R111). -/
opaque fnResult : (fn fmt x : Nat) → Nat

/-- The second value of an element before EXPAND gives it one, and the one that EXPAND gives beyond the end of Y (R118): the
manual gives neither. It depends on the block, the words of the descriptor, the element's position and bits alone
(R123). -/
opaque openY : (block : List Byte) → (words : List Nat) → (pos bits : Nat) → Nat

/-- The set of an extent entry of the Keystone, modulo 16,384: any function of the space tag, the generation, the virtual base
and the size (R171). -/
opaque extentSet : (tag gen vbase size : Nat) → Nat

/-- The 128 bytes that the traffic generator of a channel writes as item `j` of its sequence under a pattern other than SEED
repeated (R208): the manual names the patterns and gives no bits. `seed` is SEED, `row` and `unit` the location. -/
opaque testPattern : (pattern seed j pc row unit : Nat) → BitVec 1024

/-- The set of a host line in a cluster's L2 of 2,048 sets (R236), modulo 2,048: the manual gives no index. -/
opaque l2Set : Nat → Nat
/-- The set of a host line in its arbiter's directory of 32,768 sets (R242), modulo 32,768: the manual gives no index. -/
opaque dirSet : Nat → Nat

/-- Credits of a channel at a router port less one (R257): the manual gives no buffer sizes. Channels 0–6 are those of R257, 7 and 8 the
response pools of BULK and CTRL. -/
opaque trussCredits : (chan : Nat) → Nat
/-- The TYPE of a Truss packet within its channel, modulo 16 (R260): the manual gives no codes. `kind` counts the kinds of this model. -/
opaque trussType : (vc kind : Nat) → Nat
/-- The number of a unit within its die, modulo 2,048 (R260): the manual gives no numbers. -/
opaque trussUnit : (die unit : Nat) → Nat
/-- The TAG that a source unit gives a packet by its flow's SEQ (R260): the manual gives no rule. -/
opaque trussTag : (die unit seq : Nat) → Nat

/-- The SM3 hash (GB/T 32905), which the manual uses and does not define. -/
opaque sm3 : List Byte → BitVec 256
/-- SM2 verification (GB/T 32918) of a signature over a message with a public key. -/
opaque sm2Verify : (pubkey sig : List Byte) → (msg : List Byte) → Bool
/-- The module's SM2 signature over a message, 64 B (R382). -/
opaque sm2Sign : List Byte → BitVec 512
/-- The certificate chain of the identity region, in DER (R382). -/
opaque certChain : List Byte
/-- The bytes of the boot ROM (R383). -/
opaque romImage : List Byte
/-- The two key hashes in A0's fuses (R372). -/
opaque keyHash0 : BitVec 256
/-- The second key hash in A0's fuses (R372). -/
opaque keyHash1 : BitVec 256
/-- The revoke fuses of the two key hashes (R372). -/
opaque revoked : Nat → Bool
/-- Module serial number (R341, R343). -/
opaque serial : W64
/-- Caerpatu's MIPI manufacturer ID, from fuses (R343). -/
opaque mipiId : BitVec 15
/-- Module fingerprint: the low word of the SM3 hash of the device certificate (R279). -/
opaque fingerprint : W32
/-- Revision of pier P1, from fuses (R186). -/
opaque pierRev : Byte
/-- Highest qualified rate code of a stack, from its assembly record (R188). -/
opaque stackRate : Nat → Nat
/-- Lanes that the map recorded at assembly test marks failed, per link, pair and direction (R265). -/
opaque assemblyFailedLanes : (link pair dir : Nat) → BitVec 68
/-- Assembly value of the debug fuse measured in M2 (R383). -/
opaque debugFuse : Byte
/-- BUF0 of GETSTATUS's answer (R343 names the CCC and gives no content). -/
opaque i3cStatus : Nat → BitVec 16
/-- What a host load through a PCIe window returns: the completion data of the other side (R441), a free value for each load. -/
opaque pcieCompletion : Nat → W64

end Sys2Proof.Config
end

