-- ==== Sys2Proof/Machine/State.lean ====
section
/-!
DEFINITION. The state of an FX12 node: plain data, one structure for each unit, all in `State`. A field's
default is its value at reset. Registers whose reset value the manual does not give are named in the
assumption log.
-/

namespace Sys2Proof.Machine
open Sys2Proof

/-- Why a step stops with a fault. -/
inductive Fault
  /-- Raised by every meaning whose operands name a unit that the ordering code does not have or that the
  unit does not have (tile 1,296, port 48). Safe: the machine stops and nothing is claimed of it. -/
  | noSuchUnit
  deriving DecidableEq, Repr

/-- Why a command is refused. -/
inductive Refusal
  /-- Raised by an arm of `exec` for a command without a meaning. Safe. -/
  | notModelled (mnemonic : String)
  deriving DecidableEq, Repr

/-- TILE.STATUS.STATE (R48). -/
inductive TileSt
  | reset | loaded | run | halted | stopped | draining | faulted | unavailable
  deriving DecidableEq, Repr

/-- What a drain of a tile ends in (R27, R52, R53, R407, R416). -/
inductive DrainTo
  | none | halt | stop | fault | move
  deriving DecidableEq, Repr

/-- The spindle core's registers, its CSRs and the Debug Module's registers (R24–R27, R406). -/
structure Core where
  pc : W32 := 0
  x : Tab W32 := []
  mie : Bool := false
  mpie : Bool := false
  mtvec : W32 := 0
  mscratch : W32 := 0
  mepc : W32 := 0
  mcause : W32 := 0
  mtval : W32 := 0
  mcycle : W64 := 0
  minstret : W64 := 0
  tickHi : W32 := 0
  inHandler : Bool := false
  fetching : Bool := false
  waiting : Bool := false
  debug : Bool := false
  resv : Option Nat := none
  dcsr : W32 := 0x40000003
  dpc : W32 := 0
  dscratch0 : W32 := 0
  dscratch1 : W32 := 0
  tselect : W32 := 0
  tdata1 : Tab W32 := []
  tdata2 : Tab W32 := []
  arg0 : W32 := 0
  arg1 : W32 := 0
  progbuf0 : W32 := 0
  progbuf1 : W32 := 0
  cmderr : Nat := 0
  resumeWaiting : Bool := false
  deriving DecidableEq, Repr

/-- One lease of a stream (R168, R169). -/
structure Lease where
  tag : Nat
  gen : Nat
  vbase : Nat
  size : Nat
  pbase : Nat
  rd : Bool
  wr : Bool
  at_ : Bool
  hc : Bool
  rm : Bool
  recalled : Bool := false
  deriving DecidableEq, Repr

/-- A lease request of a stream: looked up or walked (R169, R172). -/
structure LeaseReq where
  va : Nat
  rd : Bool
  wr : Bool
  at_ : Bool
  seq : W32 := 0
  walking : Bool := false
  deriving DecidableEq, Repr

/-- The acknowledgement of one access of a chunk, still on its way (R141, R144): the position of its element, adder
flags, a poisoned codeword's address, a refusal with its mover status, or the old value that FETCH stores. `home` gives the
codeword's virtual address and the abutment die of the home arbiter where it comes through one, and `reset` marks an access that its die
has lost, which waits for its DIE_RESET response (R269). -/
structure Ack where
  pos : Nat := 0
  flags : BitVec 16 := 0
  poison : Option Nat := none
  refused : Option (Nat × Nat) := none
  fetch : Option (Nat × Nat × Nat) := none
  home : Option (Nat × Nat) := none
  reset : Bool := false
  deriving DecidableEq, Repr

/-- A chunk in flight (R136, R137). `remote` counts the requests on the optical links without an answer, `deliveries` the
deliveries of a message without an outcome, and `later` lists the elements of an ATOMIC that wait for an earlier operation
on their address (R133). -/
structure Chunk where
  idx : Nat
  acks : List Ack := []
  remote : Nat := 0
  deliveries : Nat := 0
  later : List Nat := []
  extents : List Nat := []
  bytes : Nat := 0
  deriving DecidableEq, Repr

/-- How far a descriptor is: queued, running, or finished and waiting to post its record (R35–R37). -/
inductive Phase
  | queued | active | finished
  deriving DecidableEq, Repr

/-- What a descriptor that was declined holds until its record is posted (R145): nothing, its queue, or its engine. -/
inductive Held
  | none | queue | engine
  deriving DecidableEq, Repr

/-- One entry of a descriptor queue (R33, R127, R140, R400). `firstCauses`: the first refusal of each record of a SEND, by
record (R155). `landed`: for a COPY from memory, the position of the element last written to each destination byte (R132).
`held`, `fixed` and `late`: what a declined descriptor holds, the tile cycles that R145 gives it, and whether its record
waits for that of an earlier descriptor. -/
structure QEntry where
  doff : Nat
  seq : W32
  ord : Nat
  pushPc : W32 := 0
  phase : Phase := .queued
  desc : List Byte := []
  engine : Nat := 0
  user : BitVec 16 := 0
  notify : Bool := false
  status : Nat := 0
  flags : BitVec 16 := 0
  detail : W64 := 0
  pos : Nat := 0
  issued : Nat := 0
  elem : Nat := 0
  skips : Nat := 0
  chunks : List Chunk := []
  err : Option (Nat × W64) := none
  errPos : Nat := 0
  firstRange : Option Nat := none
  refusals : Nat := 0
  refusedRec : Option (Nat × Nat) := none
  firstCauses : List (Nat × Nat) := []
  landed : Tab (Option Nat) := []
  held : Held := .none
  fixed : Nat := 0
  late : Bool := false
  deriving DecidableEq, Repr

/-- A fault that stops a stream (R40, R143, R179, R180). -/
structure StreamFault where
  code : Nat
  level : Nat
  access : Nat
  va : Nat
  entry : W64
  tick : W32
  seq : W32
  tag : Nat
  parked : Bool := false
  deriving DecidableEq, Repr

/-- A descriptor queue and its Keystone request stream (R33, R140, R172). `fresh`: the lease requests of the chunk whose fault
was retried walk the tables (R183). -/
structure Queue where
  entries : List QEntry := []
  refused : Bool := false
  fault : Option StreamFault := none
  nextSeq : W32 := 1
  lastSeq : W32 := 0
  lastErr : Bool := false
  ring : BitVec 13 := 0
  leases : List Lease := []
  req : Option LeaseReq := none
  fresh : Bool := false
  deriving DecidableEq, Repr

/-- A receive channel (R150, R157). -/
structure RxChan where
  enable : Bool := false
  remote : Bool := false
  slotLog2 : Nat := 0
  cntLog2 : Nat := 0
  base : Nat := 0
  head : W32 := 0
  tail : W32 := 0
  full : Nat := 0
  other : Nat := 0
  deriving DecidableEq, Repr

/-- A tensor record (R128). -/
structure TRec where
  virt : Bool := false
  base : Nat := 0
  ext : List Nat := [1, 1, 1, 1, 1, 1]
  str : List Int := [0, 0, 0, 0, 0, 0]
  deriving DecidableEq, Repr

/-- The records of a vector chain pass, in the order of R100. -/
structure ChainRecs where
  x : TRec := {}
  y : Option TRec := none
  v : Option TRec := none
  m : Option TRec := none
  d : Option TRec := none
  r : Option TRec := none
  seg : Option TRec := none
  tab : Option TRec := none
  sidx : Option TRec := none
  stat : Option TRec := none
  deriving DecidableEq, Repr

/-- A vector chain pass in progress: its block and records as read at start, its position, and the stage
state held for later elements (R126). Values are held as bits of the compute format. `staged` and `bad` are what the tile
mover brought for the chunk: bytes of memory by virtual address, and the spans it could not bring with their status;
`asked` is the end of a chunk whose remote bytes are on their way. -/
structure ChainRun where
  q : Nat
  blk : List Byte
  recs : ChainRecs
  offs : List Nat := []
  j : Nat := 0
  flags : BitVec 16 := 0
  firstSat : Option Nat := none
  predCount : Nat := 0
  extPos : Nat := 0
  active : Nat := 0
  parts : List (Nat × Nat × Nat) := []
  results : Nat := 0
  counts : Nat := 0
  seg : Nat := 0
  surv : Nat := 0
  outPos : Nat := 0
  yPos : Nat := 0
  crc : W32 := 0
  outBits : Nat × Nat := (0, 0)
  mxBlock : List Nat := []
  rowPicks : List (Nat × Nat) := []
  routed : Nat := 0
  rowM : Nat := 0
  rowM' : Nat := 0
  xBits : Nat × Nat := (0, 0)
  vec : List Nat := []
  vecAt : Option (List Nat) := none
  scan : Nat := 0
  scanMax : Nat := 0
  staged : Tab Byte := []
  bad : List (Nat × Nat × Nat) := []
  asked : Option Nat := none
  endStatus : Option (Nat × W64) := none
  deriving DecidableEq, Repr

/-- One image load since a tile's reset, kept for the LOAD records of an arming (R403). -/
structure LoadRec where
  tag : Nat
  va : Nat
  off : Nat
  len : Nat
  deriving DecidableEq, Repr

/-- An image load that waits for the store's fill or is under way (R32, R49): its operation, its image, the chunks done, the
bytes of the next chunk that have come, the answers it waits for, and what ends it: status, value and address. `share` is
the number of tiles that the command named. -/
structure LoadRun where
  handle : Nat
  va : Nat
  off : Nat
  len : Nat
  tag : Nat
  share : Nat
  pos : Nat := 0
  wait : Nat := 0
  staged : Tab Byte := []
  err : Option (Nat × Nat × Nat) := none
  leases : List Lease := []
  deriving DecidableEq, Repr

/-- A tile (R23). `latheLeft` and `chainLeft`: the engine finishes the chunk it had in flight when a drain began (R53).
`latheLast`, `chainLast` and `moverLast` are the queues that the engines served last (R36): before an engine has served
any, queue 3, so that its turn begins with Q0; the manual gives no start (DESIGN CHOICE, assumption 134). `haltAsked` is a halt that
waits for the end of a move: its cause, and whether it spreads to the halt group (R417). -/
structure Tile where
  st : TileSt := .reset
  filling : Bool := false
  load : Option LoadRun := none
  core : Core := {}
  store : Tab Byte := []
  storeErr : Tab Nat := []
  correctPend : List Nat := []
  q0 : Queue := { ring := 0x17FC }
  q1 : Queue := { ring := 0x17FD }
  q2 : Queue := { ring := 0x17FE }
  q3 : Queue := { ring := 0x17FF }
  pushes : Nat := 0
  latheQ : Option Nat := none
  latheLast : Nat := 3
  latheLeft : Bool := false
  chainLeft : Bool := false
  chain : Option ChainRun := none
  chainLast : Nat := 3
  moverLast : Nat := 3
  pend : BitVec 64 := 0
  mask : BitVec 64 := BitVec.allOnes 64
  vbase : W32 := 0
  curValid : Bool := false
  curSrc : BitVec 6 := 0
  rx : Tab RxChan := []
  retry : Nat := 16
  compat : Bool := false
  ring8 : Bool := false
  member : Bool := false
  memberJob : Bool := false
  pcfg : Tab W32 := []
  pthr : Tab W32 := []
  space : Nat := 0
  exiting : Bool := false
  exitCause : Nat := 0
  exitCode : W32 := 0
  stopAsked : Bool := false
  drain : DrainTo := .none
  haltAsked : Option (Nat × Bool) := none
  loads : List LoadRec := []
  entry : W32 := 0
  arg : W32 := 0
  site : Nat := 0
  moved : Bool := false
  lost : Bool := false
  ueWords : List (Nat × Nat) := []
  ceWords : List (Nat × Nat) := []
  thrDue : List Nat := []
  deriving DecidableEq, Repr

/-- A routed small message between its issue and its acceptance (R147–R155). `refused` holds the cause of a refusal on its
way back, `firstRefused` and `wait` the count of boundaries at its first and its last refusal with RING_FULL. -/
structure Flight where
  id : Nat
  srcTile : Nat
  srcQueue : Nat
  chunk : Nat
  msgIdx : Nat
  dst : Nat
  chan : Nat
  signal : Bool
  bits : W32
  space : Nat
  hdr : List Byte
  payload : List Byte
  entry : W64 := 0
  firstRefused : Option Nat := none
  refused : Option Nat := none
  wait : Option Nat := none
  remote : Bool := false
  deriving DecidableEq, Repr

/-- An extent entry of the Keystone (R171). -/
structure Extent where
  tag : Nat
  gen : Nat
  vbase : Nat
  size : Nat
  pbase : Nat
  leaf : W64
  level : Nat
  deriving DecidableEq, Repr

/-- An invalidation in progress (R176, R177). -/
structure Invalidation where
  handle : Nat
  tag : Nat
  gen : Nat
  unbind : Bool
  deriving DecidableEq, Repr

/-- The Keystone (R161–R186). -/
structure Keystone where
  roots : Tab (Option Nat) := []
  gens : Tab Nat := []
  extents : List Extent := []
  walkers : Nat := 64
  spares : Nat := 0
  rewalk : List (Nat × Nat) := []
  invs : List Invalidation := []
  ringBase : Nat := 0
  ringEnable : Bool := false
  ringMsi : Bool := false
  head : W32 := 0
  tail : W32 := 0
  sweep : Nat := 0
  parked : Nat := 0
  overflow : W32 := 0
  deriving DecidableEq, Repr

/-- MEMPOOL.STATE.STATE (R211). -/
inductive PoolSt
  | uninit | initialising | ready | needsInit
  deriving DecidableEq, Repr

/-- A location of a row: channel, pseudo-channel, bank, row (R190). -/
structure RowLoc where
  ch : Nat
  pc : Nat
  bank : Nat
  row : Nat
  deriving DecidableEq, Repr

/-- A codeword in an adder store (R230), most recently used first. -/
structure AdderEntry where
  cw : Nat
  data : BitVec 512
  deriving DecidableEq, Repr

/-- The HBM4 pool (R187–R211): the value of each byte in the stacks, the poisoned codewords, and for each
codeword the bits in which what is stored differs from its encoding. `hardPending` holds the soft repairs that await a hard
repair, `softKept` those whose hard repair has failed (R200), `windowTick` the tick at which the last window of R207 ended. -/
structure Pool where
  st : PoolSt := .uninit
  packageWide : Bool := false
  testKey : Bool := false
  rate : Nat := 0
  key : W64 := 0
  newKey : W64 := 0
  newMode : Bool := false
  newTestKey : Bool := false
  newRate : Nat := 0
  bytes : Tab Byte := []
  poison : Tab Bool := []
  err : Tab (BitVec 576) := []
  corrective : List Nat := []
  scrubOn : Bool := true
  scrubHours : Nat := 24
  scrubPos : Nat := 0
  retired : List RowLoc := []
  unlisted : List RowLoc := []
  repaired : List RowLoc := []
  hardPending : List RowLoc := []
  softKept : List RowLoc := []
  windowTick : W64 := 0
  wroteTest : Bool := false
  ueTotal : Nat := 0
  ceTotal : Nat := 0
  deriving DecidableEq, Repr

/-- A channel controller (R194–R211, R228–R230). A row queued for repair stands with the count of boundaries at which it was
queued (R200); `tgSeedRun` and `tgLenRun` are SEED and LEN as a test run began with them. -/
structure Chan where
  hot : Bool := false
  testOwner : Bool := false
  hotCount : Nat := 0
  ue : Nat := 0
  ceOuter : Nat := 0
  ceInner : Nat := 0
  tgctl : W32 := 0x00022B00
  tgseed : W32 := 1
  tglen : W32 := 0
  tgRun : Bool := false
  tgDone : Bool := false
  tgErrors : Nat := 0
  tgFirst : W32 := 0
  tgSeedRun : W32 := 0
  tgLenRun : W32 := 0
  window : Nat := 0
  rowErr : List (RowLoc × Nat) := []
  repair : List (RowLoc × Nat) := []
  adder : List AdderEntry := []
  deriving DecidableEq, Repr

/-- A line of a pier cache (R212). -/
structure CLine where
  line : Nat
  way : Nat
  valid : BitVec 4
  poison : BitVec 2
  lock : Bool := false
  fresh : Bool := false
  data : BitVec 1024
  deriving DecidableEq, Repr

/-- A codeword fetch in a pier's fill queue (R214–R216). `val` holds what the fetch has read, with its poison, once a request
accepted after it changes the codeword (R219). -/
structure Fill where
  cw : Nat
  allocate : Bool
  prefetch : Bool
  val : Option (BitVec 512 × Bool) := none
  deriving DecidableEq, Repr

/-- An entry of a merging buffer (R218), oldest first in its list. -/
structure Merge where
  line : Nat
  mask : BitVec 128
  data : BitVec 1024
  deriving DecidableEq, Repr

/-- A pier's cache, merging buffer and range engine (R212–R235). `plru` holds the tree of each set (R214), `wayInv` and
`wayDrain` the ways that CACHE_WAY works on, the latter with the sets that its engine has visited, `rangeStart` and `rangeLen` the range of the engine. -/
structure Pier where
  prefetch : Bool := true
  fillThr : Nat := 192
  mergeAge : Nat := 256
  enable : BitVec 17 := 0
  powered : BitVec 17 := 0
  invDone : BitVec 17 := 0
  retired : Option Nat := none
  refused : Bool := false
  draining : BitVec 17 := 0
  wayInv : List Nat := []
  wayDrain : List (Nat × Nat) := []
  plru : Tab (BitVec 16) := []
  enablePend : BitVec 17 := 0
  lines : List CLine := []
  fills : List Fill := []
  merges : List Merge := []
  rangeBusy : Bool := false
  rangeOp : Nat := 0
  rangeStart : Nat := 0
  rangeLen : Nat := 0
  rangePos : Nat := 0
  unlocked : Nat := 0
  errCe : Nat := 0
  errData : Nat := 0
  errTag : Nat := 0
  errBuf : Nat := 0
  wayErrs : List (Nat × Nat × Nat) := []
  localMode : Bool := true
  budget : Nat := 64
  deriving DecidableEq, Repr

/-- A line held by a cluster's L2, in M or S (R242). -/
structure HLine where
  line : Nat
  m : Bool
  data : BitVec 512
  poison : Bool
  deriving DecidableEq, Repr

/-- A host cluster (R236, R238, R247): the lines of its L2, its writeback buffer, the lines whose requests a
reset die has lost without a DIE_RESET so far (R269), the lines for which a GetM waits for a WbAck, and the lines that its harts have
reserved with LR. -/
structure Cluster where
  parked : Bool := true
  failed : Bool := false
  keptState : Bool := false
  lines : List HLine := []
  wb : List HLine := []
  lost : List Nat := []
  waitM : List Nat := []
  res : List (Nat × Nat) := []
  mhz : Nat := 800
  ceil : Nat := 3200
  errors : List Nat := []
  deriving DecidableEq, Repr

/-- A directory entry: an owner in M, or the clusters that may hold the line in S (R242). -/
structure DirEntry where
  line : Nat
  owner : Option Nat
  sharers : List Nat
  deriving DecidableEq, Repr

/-- A coherence request, held or in progress (R243, R245). `kind`: 0 GetS, 1 GetM, 2 TRead, 3 TWrite, 4 TOp. -/
structure CReq where
  kind : Nat
  src : Nat
  line : Nat
  mask : BitVec 64 := 0
  data : BitVec 512 := 0
  addr : Nat := 0
  addop : BitVec 8 := 0
  opnd : BitVec 128 := 0
  cmp : BitVec 128 := 0
  deriving DecidableEq, Repr

/-- A transaction open at an arbiter (R245). -/
structure Trans where
  req : CReq
  acks : List Nat := []
  downwb : Option Nat := none
  needDone : Bool := false
  deriving DecidableEq, Repr

/-- A home arbiter (R241–R249): the directory, most recently used first, the open transactions, the request table, and the requests
that wait on their Truss credit while the table is full. -/
structure Arb where
  dir : List DirEntry := []
  open_ : List Trans := []
  held : List CReq := []
  credit : List CReq := []
  dirEvict : Nat := 0
  deriving DecidableEq, Repr

/-- An entry of HOSTINT (R253, R254). -/
structure HostInt where
  addrLo : W32 := 0
  addrHi : W32 := 0
  data : W32 := 0
  enable : Bool := false
  mask : Bool := true
  pend : Bool := false
  deriving DecidableEq, Repr

/-- A bundle pair. `st`: 0 down, 1 training, 2 up, 3 up narrow (R271). `again` is set while step 3 runs for the second time (R267),
`held` names the end that still holds the maps of before the other die reset alone, with those maps (R268), and `okE` and `okW` tell
which end has found the hashes equal. -/
structure Pair where
  st : Nat := 0
  failE : BitVec 68 := 0
  failW : BitVec 68 := 0
  mapE : BitVec 68 := 0
  mapW : BitVec 68 := 0
  spareE : Nat := 0
  spareW : Nat := 0
  replays : Nat := 0
  replayLog : List (Nat × Nat) := []
  retrainPend : Bool := false
  afterFault : Bool := false
  again : Bool := false
  held : Option (Bool × BitVec 68 × BitVec 68) := none
  okE : Bool := false
  okW : Bool := false
  op : Option Nat := none
  deriving DecidableEq, Repr

/-- A packet of Truss: the fields of its header (R260), with destination and source as die and unit. -/
structure TPkt where
  typ : Nat
  resp : Bool := false
  vc : Nat
  len : Nat := 0
  ddie : Nat
  dunit : Nat := 0
  sdie : Nat
  sunit : Nat := 0
  seq : Nat := 0
  addr : Nat := 0
  deriving DecidableEq, Repr

/-- A bundle in one direction, or one direction of a bond (R257, R261): credits in use by channel, the 9-bit number of the next packet,
the replay buffer with the number of each packet, the packet that the receiver waits for after a REPLAY, and how often the header of
which packet has failed. -/
structure TBundle where
  used : Tab Nat := []
  count : Nat := 0
  unacked : List (Nat × TPkt) := []
  await : Option Nat := none
  fails : Nat := 0
  failSeq : Nat := 0
  deriving DecidableEq, Repr

/-- An output port of a router toward a link or a bond (R258): the packets that wait, each with the ports that are left on its path, the
channel served last, and the packets since the last of CTRL. -/
structure TPort where
  wait : List (List Nat × TPkt) := []
  last : Nat := 0
  sinceCtrl : Nat := 7
  deriving DecidableEq, Repr

/-- Truss (R255–R262): output ports, bundles, the next SEQ of each flow, named by its ends and its channel with pool, and the bits that
flip in what a command moves, none between commands. -/
structure Truss where
  ports : Tab TPort := []
  bundles : Tab TBundle := []
  flows : List (List Nat × Nat) := []
  flips : Flips := []
  deriving DecidableEq, Repr

/-- An import window (R294, R301). -/
structure Window where
  v : Bool := false
  hc : Bool := false
  jobchk : Bool := false
  rights : BitVec 3 := 0
  size : Nat := 0
  baseLo : W32 := 0
  baseHi : W32 := 0
  srcVal : W32 := 0
  srcMask : W32 := 0
  closeOp : Option Nat := none
  deriving DecidableEq, Repr

/-- An export entry (R293, R301). -/
structure Export where
  v : Bool := false
  window : Nat := 0
  node : Nat := 0
  deriving DecidableEq, Repr

/-- A PEERID (R279). -/
structure Peer where
  gen8 : Bool := false
  phys : Nat := 0
  port : Nat := 0
  fprint : W32 := 0
  deriving DecidableEq, Repr

/-- What the node has sent to the outside, or a unit to a requester (the rows' visible answers). -/
inductive Out
  /-- One 32-bit MSI write (R253). -/
  | msi (addr : Nat) (data : W32)
  /-- A packet on an optical port, with the link header and the packet header of its head flit (R280, R281). -/
  | pkt (port : Nat) (p : Pkt) (head : List Byte)
  /-- An idle flit on an optical port, by its link header: it carries an acknowledgement and credits (R280). -/
  | idle (port : Nat) (head : List Byte)
  /-- A HEARTBEAT on a port (R307). -/
  | heartbeat (port : Nat) (h : Heartbeat)
  /-- A FLOOD on a port (R307). -/
  | flood (port bound origin kind cause job : Nat)
  /-- A FREEZE packet on a port (R396). -/
  | freeze (port tick origin : Nat) (thaw : Bool)
  /-- A HALT packet on a port (R408). -/
  | halt (port bound origin job action : Nat)
  /-- A TIMESYNC on a port with t1; an answer to a peer's carries its t1, and t2 and t3 of this node (R303). -/
  | timesync (port : Nat) (t1 : Int) (answer : Option (Int × Int))
  /-- PEERID, LINKDOWN and REPLAY as control flits on a port, and the start of a resend (R279, R280, R284). -/
  | peerid (port : Nat) (own : Peer)
  | replay (port fseq : Nat)
  | resend (port fseq : Nat)
  /-- The identity that an end sends over the sideband, LINKUP with the two hashes, each toward the named end, and MAPFAULT
  (R267, R268). -/
  | identity (l n : Nat) (east : Bool) (id : BundleId)
  | linkup (l n : Nat) (east : Bool) (hashE hashW : W32)
  | mapfault (l n : Nat)
  /-- REPLAY on the bundle opposite to a bundle, and the packets that a sender sends again by their headers (R260, R261). -/
  | bundleReplay (l n count : Nat)
  | bundleResend (l n count : Nat) (heads : List (List Byte))
  /-- An in-band interrupt of the I3C target with its mandatory byte, and bytes it returns (R343). -/
  | ibi (b : Nat)
  | i3c (bytes : List Nat)
  /-- A coherence message: kind as the row that receives it, source or destination cluster, line (R243). -/
  | coh (msg : String) (cl line : Nat) (data : BitVec 512) (poison : Bool)
  /-- The answer of a coherent tile access or an adder operation: old value, flags, poison (R231, R250). -/
  | tileAck (id : Nat) (old : BitVec 1024) (flags : BitVec 16) (poison : Bool)
  | adder (old : BitVec 128) (flags : BitVec 16) (poison : Bool)
  /-- Data of a read at the controller or at the pier (R196, R214). -/
  | memData (cw : Nat) (data : BitVec 512) (poison : Bool)
  | pierData (line : Nat) (sectors : BitVec 4) (data : BitVec 1024) (poison : BitVec 2)
  | memAck (cw : Nat) (poison : Bool)
  /-- A host core's load data, and its precise access fault: cause 5 load, 7 store/AMO (R251, R298). -/
  | hostData (hart : Nat) (data : BitVec 512)
  | hostFault (hart addr cause : Nat)
  /-- A reply buffer written to the external host's memory (R330, R342). -/
  | dma (addr : Nat) (bytes : List Byte)
  /-- A memory request out of a PCIe port (R441). -/
  | pcie (port : Nat) (write : Bool) (bus : Nat) (val : W64)
  /-- Halt requests to the tiles of the node's halt group (R408). -/
  | haltGroup (tile : Nat)
  /-- A message for the hub mailbox of A0's headstock (R270). -/
  | hub (bytes : List Byte)
  deriving DecidableEq, Repr

/-- An optical port (R273–R284, R301). `st`: 0 down, 1 training, 2 HELD, 3 OPEN, 4 OPEN narrow. `sentReq` and `sentMsg`
count the flits of the classes that started here in this tick, and `waitPkts` holds the packets over the bound of R308,
each with the count that lets its last flit go. `used` counts by virtual channel the flits of credit that the other end has not
returned (R282), `queue` holds what waits for credit with its channel and its flits, `lastVc` and `sinceCtrl` tell whose turn it is,
`fseq` numbers the next flit, and `unacked` is the replay buffer with the number and flits of each entry (R284). `rxLast` is the last
flit received in order, `rxWait` the flit that a REPLAY has asked for, `worn` the wavelengths reported to wear management (R276), and
`syncAt` the boundary count of the last TIMESYNC sent (R303). -/
structure OPort where
  st : Nat := 0
  peer : Option Peer := none
  recv : Option Peer := none
  lspare : Bool := false
  laserDown : Bool := false
  txWave : WaveMask := 0
  rxWave : WaveMask := 0
  replays : Nat := 0
  fecUnc : Nat := 0
  overWin : Tab Nat := []
  flitFails : Nat := 0
  failSeq : Nat := 0
  sentReq : Nat := 0
  sentMsg : Nat := 0
  waitPkts : List (Nat × Pkt) := []
  slow : Bool := false
  silent : Nat := 0
  peerTick : W64 := 0
  nbPhys : Option Nat := none
  delay : Int := 0
  op : Option Nat := none
  used : Tab Nat := []
  queue : List (Nat × Nat × Out) := []
  lastVc : Nat := 0
  sinceCtrl : Nat := 7
  fseq : Nat := 0
  unacked : List (Nat × Nat × Out) := []
  rxLast : Option Nat := none
  rxWait : Option Nat := none
  worn : WaveMask := 0
  syncAt : Option Nat := none
  deriving DecidableEq, Repr

/-- Who made a remote request, and what its answer does (R296, R298). The parts of a read are offset, length, destination and
element; the codewords of a write come with the element that met each first. -/
inductive RemKind
  | read (tile queue chunk va len : Nat) (store : Bool) (parts : List (Nat × Nat × Nat × Nat))
  | write (tile queue chunk va : Nat) (cws : List (Nat × Nat))
  | atomic (tile queue chunk pos va : Nat) (fetch : Option Nat)
  | chainRead (tile queue va len : Nat)
  | chainWrite (tile queue va : Nat) (cws : List (Nat × Nat))
  | load (tile va len : Nat)
  | message (id : Nat)
  | hostLoad (hart : Nat)
  | hostStore (hart : Nat)
  deriving DecidableEq, Repr

/-- A remote request without an answer (R296). -/
structure Rem where
  tag : Nat
  kind : RemKind
  addr : Nat
  len : Nat
  age : Nat := 0
  deriving DecidableEq, Repr

/-- The NODE block, its windows, its ports and its requests (R286–R301). -/
structure Node where
  phys : Nat := 0
  epoch : Nat := 0
  logical : Nat := 0
  rolev : Bool := false
  timeout : Nat := 1000
  wrap : BitVec 3 := 7
  ex : Nat := 7
  ey : Nat := 7
  ez : Nat := 7
  mapBase : Nat := 0
  mapLen : Nat := 0
  mapCache : Tab (List (Nat × W64)) := []
  cause : Nat := 0
  refused : Nat := 0
  pods : Tab (Option Nat) := []
  imports : Tab Window := []
  exports : Tab Export := []
  ports : Tab OPort := []
  spareLaser : Tab Bool := []
  rems : List Rem := []
  waitReqs : List Pkt := []
  nextTag : Nat := 0
  deriving DecidableEq, Repr

/-- The tick unit (R302–R306, R327). `st`: 0 UNLOCKED, 1 ACQUIRING, 2 LOCKED, 3 HOLDOVER. -/
structure Tick where
  running : Bool := false
  st : Nat := 0
  aligned : Bool := false
  root : Bool := false
  parent : Option Nat := none
  err : BitVec 16 := 0
  parents : List Nat := [0x3F, 0x3F, 0x3F, 0x3F]
  num : W64 := 0
  latch : W32 := 0
  boundaries : Nat := 0
  deriving DecidableEq, Repr

/-- A step of a collective that is scheduled and not closed (R312, R315). -/
structure CStep where
  stream : Nat
  step : Nat
  expect : Nat
  sends : Nat := 0
  lates : Nat := 0
  deriving DecidableEq, Repr

/-- A posted collective (R310, R311). -/
structure Coll where
  addr : Nat
  ctl : W32
  count : Nat
  src : Nat
  dst : Nat
  start : Nat
  trig : Nat
  thresh : W32
  root : Nat
  doneW : Nat
  sig : W32
  resv : W32 := 0
  seq : Nat
  sign : W32
  begun : Option Nat := none
  trigMet : Bool := false
  next : Nat := 0
  steps : List CStep := []
  opened : List Nat := []
  flags : BitVec 16 := 0
  deriving DecidableEq, Repr

/-- The launch this node takes part in (R321–R324). `named` holds the entries gathered, `more` the count of those that did not
fit an acknowledgement. -/
structure Launch where
  hdr : LaunchHdr
  parent : Option Nat
  children : List Nat
  got : List Nat := []
  code : Nat := 0
  named : List (Nat × Nat) := []
  more : Nat := 0
  acked : Bool := false
  port : Nat := 0
  handle : Option Nat := none
  deriving DecidableEq, Repr

/-- JOB.ID.STATE (R327). -/
inductive JobSt
  | none | armed | run | failed
  deriving DecidableEq, Repr

/-- The JOB block and the collective engine (R307–R327). -/
structure Job where
  st : JobSt := .none
  depth : Nat := 0
  id : Nat := 0
  coll : Nat := 0
  msg : Nat := 0
  reserve : Nat := 0
  pods : BitVec 256 := 0
  startTick : Nat := 0
  jt : W64 := 0
  latch : W32 := 0
  slip : W32 := 0
  missed : Nat := 0
  slow : Bool := false
  slowNb : BitVec 6 := 0
  slowLate : Nat := 0
  lates : Tab W32 := []
  lbufLo : W32 := 0
  lbufHi : W32 := 0
  posted : List Coll := []
  seq : Nat := 0
  seqs : Nat := 0
  nextTick : Nat := 0
  stepWait : W32 := 0
  held : Bool := false
  holds : List Nat := []
  haltHold : Bool := false
  haltAt : List (Nat × Bool × Bool) := []
  haltSeen : List (Nat × Nat × Bool) := []
  lateNow : Option Nat := none
  lateFor : List Nat := []
  failedNodes : List Nat := []
  early : List Pkt := []
  floods : List (Nat × Nat × Nat) := []
  lids : List Nat := []
  launch : Option Launch := none
  deriving DecidableEq, Repr

/-- A reply (R336). `data` lists the fields in the order their rule names them, each with its size in bytes. -/
structure Reply where
  opcode : Nat := 0
  status : Nat := 0
  tag : Nat := 0
  rdlen : Nat := 0
  handle : Nat := 0
  long : Bool := false
  final : Bool := false
  rbuf : Bool := false
  punit : Nat := 0
  position : Nat := 0
  total : Nat := 0
  data : List (Nat × Nat) := []
  marker : Nat := 0
  upd : BitVec 16 := 0
  seq : W32 := 0
  deriving DecidableEq, Repr

/-- The copy of a command that the processor took at pickup (R334). -/
structure Picked where
  opcode : Nat
  tag : Nat
  irq : Bool
  ind : Bool
  plen : Nat
  rptr : Nat
  rlen : Nat
  seq : W32
  deriving DecidableEq, Repr

/-- A command slot with its reply slot (R328–R337): `picked` holds a command that no row has acted on yet, `running`
one that has been accepted as a long operation. -/
structure Slot where
  busy : Bool := false
  lastSeq : W32 := 0
  picked : Option Picked := none
  running : Option Picked := none
  reply : Reply := {}
  deriving DecidableEq, Repr

/-- A long operation in progress (R338). `wrote` is the boundary of the last update of its reply. -/
structure LongOp where
  handle : Nat
  client : Nat
  slot : Nat
  opcode : Nat
  punit : Nat
  position : Nat
  total : Nat
  left : List Nat := []
  wrote : Option Nat := none
  deriving DecidableEq, Repr

/-- The Belul interface (R328–R345). -/
structure Belul where
  bytes : Tab Byte := []
  slots : Tab Slot := []
  overrun : Tab Nat := []
  badcommit : Tab Nat := []
  ops : List LongOp := []
  deriving DecidableEq, Repr

/-- The I3C target (R343). -/
structure I3c where
  addr : Option (BitVec 7) := none
  ibi : Bool := false
  off : Nat := 0
  deriving DecidableEq, Repr

/-- One sensor of POWER.TEMPs (R357, R367), temperatures in 0.25 °C. -/
structure Sensor where
  st : Nat := 0
  act : Nat := 0
  max : Int := 0
  fresh : Bool := true
  temp : Int := 0
  reads : Nat := 0
  deriving DecidableEq, Repr

/-- The clock of a deck die (R353, R357, R367). -/
structure Deck where
  cur : Nat := 1200
  dvfsMin : Nat := 900
  dvfsMax : Nat := 2000
  newMin : Nat := 900
  newMax : Nat := 2000
  therm : Nat := 2000
  budgetCap : Nat := 64
  low : Nat := 0
  full : Nat := 0
  deriving DecidableEq, Repr

/-- Idle states (R363). -/
inductive Idle
  | s0 | s1 | s2 | s3 | s4
  deriving DecidableEq, Repr

/-- The package manager's power control and the POWER block (R346–R367). -/
structure Power where
  idle : Idle := .s0
  managed : Bool := false
  managedPend : Bool := false
  clamp : Bool := false
  floorBound : Bool := false
  estDrift : Bool := false
  measured : Nat := 0
  window : Nat := 1000
  cap : Nat := 5600
  newCap : Option (Nat × Nat) := none
  floor : Nat := 0
  effective : Nat := 5600
  grant : Nat := 64
  estimate : Nat := 0
  past : List Nat := []
  promise : Nat := 0
  droops : Nat := 0
  minv : Nat := 0
  vinVolt : Nat := 0
  vinCur : Nat := 0
  overcap : Nat := 0
  wakeCtl : W32 := 0xE0000000
  wakeTick : W64 := 0
  tripValid : Bool := false
  tripSensor : Nat := 0
  tripTemp : Int := 0
  tripS4 : Bool := false
  gains : Tab Nat := []
  gainsFrozen : Bool := false
  decks : Tab Deck := []
  sensors : Tab Sensor := []
  clusterMhz : List (Nat × Nat) := []
  pwrGood : Bool := true
  thermTrip : Bool := false
  deriving DecidableEq, Repr

/-- BOOT.STATE.STATE (R385). -/
inductive BootSt
  | rom | starting | running | recovery | heldFault | mixedUnqualified
  deriving DecidableEq, Repr

/-- A record of the power-safe record store (R378, R379). -/
structure Rec where
  kind : Nat
  key : Nat
  seq : Nat
  data : List Nat
  deriving DecidableEq, Repr

/-- An entry of the measurement log (R383). -/
structure MeasLog where
  reg : Nat
  typ : Nat
  digest : BitVec 256
  data : List Byte
  deriving DecidableEq, Repr

/-- Boot, flash, record store and measurement (R368–R385). -/
structure Boot where
  last : Nat := 0
  seen : BitVec 10 := 1
  st : BootSt := .rom
  failStreak : Nat := 0
  failStep : Nat := 0
  count : Nat := 0
  image : List Byte := []
  imageOk : Bool := false
  running : List Byte := []
  svnFuse : Nat := 0
  dierst : BitVec 16 := 0
  recs : List Rec := []
  recSeq : Nat := 0
  recGen : Nat := 0
  recUsed : Nat := 0
  meas : Tab (BitVec 256) := []
  mlog : List MeasLog := []
  session : Option (Nat × List Byte) := none
  fromRecovery : Bool := false
  update : Option (Nat × List Byte) := none
  heldReset : Bool := false
  stby : Bool := true
  features : W32 := 0x1F
  revs : List Byte := []
  words : List W32 := []
  deriving DecidableEq, Repr

/-- A counter (R386). -/
structure Ctr where
  val : BitVec 56 := 0
  sat : Bool := false
  gen : Bool := false
  deriving DecidableEq, Repr

/-- A 32 B trace record (R399, R400). -/
structure TraceRec where
  typ : Nat
  queue : Nat := 0
  tag : Nat := 0
  tile : Nat := 0x7FF
  tick : W32 := 0
  aux : Nat := 0
  pc : W32 := 0
  va : Nat := 0
  data : W64 := 0
  deriving DecidableEq, Repr

/-- A trace unit (R399–R404). `held` holds the records that still stand in the queues of its pier's tiles, `queue` those that it has not
written, oldest first; `line` those of the line it is filling. -/
structure TraceUnit where
  pos : Nat := 0
  wrapped : Bool := false
  held : List TraceRec := []
  queue : List TraceRec := []
  line : List TraceRec := []
  shed : Nat := 0
  shedTypes : BitVec 16 := 0
  shedTick : Nat := 0
  left : Option Nat := none
  stopped : Bool := true
  deriving DecidableEq, Repr

/-- Talcy trace (R399–R405). `st`: 0 IDLE, 1 ARMED, 2 TRIGGERED, 3 STOPPED. `turn` counts the free values that say how many records have
left the tiles' queues (assumption 159). -/
structure Talcy where
  st : Nat := 0
  gaps : Nat := 0
  cfg : TraceCfg := ⟨0, 32, 4, 0, 0, 0, 0, 0, 0, false, 100⟩
  units : Tab TraceUnit := []
  turn : Nat := 0
  deriving DecidableEq, Repr

/-- The counters of every block, each under the device address of its slot, and their freeze (R386–R397). `sched`
holds the freezes and thaws to come: boundary, whether a thaw, whether late; `snaps` the snapshots to come: client,
slot, set, index, boundary; `drawn` the timed counters that have been read, or reset, since the freeze. -/
structure Counters where
  vals : Tab Ctr := []
  latchCore : Tab W32 := []
  latchDev : Tab W32 := []
  frozen : Bool := false
  late : Bool := false
  frzTick : W64 := 0
  frzLatch : W32 := 0
  sched : List (Nat × Bool × Bool) := []
  drawn : List Nat := []
  seen : List (Nat × Nat × Bool) := []
  snaps : List (Nat × Nat × Nat × Nat × Nat) := []
  spaceBase : Tab (BitVec 56) := []
  deriving DecidableEq, Repr

/-- Wear management (R410–R421): `moving` the moves of tiles under way, `low` the tiles whose margin was low in the last sweep, and `swept`
the boundary of that sweep. -/
structure Wear where
  hold : Bool := false
  moving : List Need := []
  kind : Nat := 0
  queue : List Need := []
  since : List (Nat × Need) := []
  unmet : Nat := 0
  deferred : List (Nat × Nat) := []
  unmetSeen : List (Nat × Nat) := []
  low : List Nat := []
  swept : Nat := 0
  sparesUsed : Tab Nat := []
  deriving DecidableEq, Repr

/-- An event record (R398, R420). -/
structure Event where
  index : Nat
  code : Nat
  cls : Nat
  die : Nat
  tick : W64
  data : List Nat
  deriving DecidableEq, Repr

/-- The state of the node. -/
structure State where
  tiles : Tab Tile := []
  msgs : List Flight := []
  msgId : Nat := 0
  ks : Keystone := {}
  pool : Pool := {}
  chans : Tab Chan := []
  piers : Tab Pier := []
  clusters : Tab Cluster := []
  arbs : Tab Arb := []
  hostint : Tab HostInt := []
  imsic : Tab (BitVec 256) := []
  pairs : Tab Pair := []
  truss : Truss := {}
  degraded : List Nat := []
  node : Node := {}
  tick : Tick := {}
  job : Job := {}
  belul : Belul := {}
  i3c : I3c := {}
  power : Power := {}
  boot : Boot := {}
  ctrs : Counters := {}
  talcy : Talcy := {}
  wear : Wear := {}
  upper : Tab W32 := []
  portCfg : Tab (Nat × Nat) := []
  events : List Event := []
  nextEvent : Nat := 0
  rdata : W64 := 0
  out : List Out := []
  free : Nat := 0
  pending : List Instr := []
  deriving DecidableEq, Repr

/-- The node right after a module reset of kind POWER_ON: no step of R374 has run. Every field stands at its
default. -/
def State.reset : State := {}

end Sys2Proof.Machine
end

