-- ==== Sys2Proof/Machine/Ops.lean ====
section
/-!
DEFINITION. The named reads and updates of the units of the state, the check of a command's operands, and the
operations that every unit uses: Trestle sources, counters and cycles.
-/

namespace Sys2Proof.Machine
open Sys2Proof

/-- The outcome of a command: its effect, or the fault `noSuchUnit` where its operands name no unit. -/
def require (ok : Bool) (s : State) : Host.Outcome State Fault Refusal :=
  if ok then .next s else .fault .noSuchUnit

/-! ### Units -/

/-- Tile `t`. -/
def State.tile (s : State) (t : Nat) : Tile := Tab.get {} s.tiles t
/-- The state with tile `t` replaced. -/
def State.setTile (s : State) (t : Nat) (v : Tile) : State := { s with tiles := Tab.set {} s.tiles t v }
/-- The state with a function applied to tile `t`. -/
def State.modTile (s : State) (t : Nat) (f : Tile → Tile) : State := s.setTile t (f (s.tile t))

/-- Queue `q` of a tile. -/
def Tile.queue (T : Tile) (q : Nat) : Queue :=
  match q with
  | 0 => T.q0
  | 1 => T.q1
  | 2 => T.q2
  | _ => T.q3
/-- A tile with queue `q` replaced. -/
def Tile.setQueue (T : Tile) (q : Nat) (v : Queue) : Tile :=
  match q with
  | 0 => { T with q0 := v }
  | 1 => { T with q1 := v }
  | 2 => { T with q2 := v }
  | _ => { T with q3 := v }
/-- Queue `q` of tile `t`. -/
def State.queue (s : State) (t q : Nat) : Queue := (s.tile t).queue q
/-- The state with queue `q` of tile `t` replaced. -/
def State.setQueue (s : State) (t q : Nat) (v : Queue) : State := s.modTile t (fun T => T.setQueue q v)
/-- The state with a function applied to queue `q` of tile `t`. -/
def State.modQueue (s : State) (t q : Nat) (f : Queue → Queue) : State := s.setQueue t q (f (s.queue t q))

/-- The channel controller of global channel `c`. -/
def State.chan (s : State) (c : Nat) : Chan := Tab.get {} s.chans c
/-- The state with a function applied to channel `c`. -/
def State.modChan (s : State) (c : Nat) (f : Chan → Chan) : State :=
  { s with chans := Tab.set {} s.chans c (f (s.chan c)) }

/-- The pier cache of pier `p`. -/
def State.pier (s : State) (p : Nat) : Pier := Tab.get {} s.piers p
/-- The state with pier `p` replaced. -/
def State.setPier (s : State) (p : Nat) (v : Pier) : State := { s with piers := Tab.set {} s.piers p v }
/-- The state with a function applied to pier `p`. -/
def State.modPier (s : State) (p : Nat) (f : Pier → Pier) : State := s.setPier p (f (s.pier p))

/-- Host cluster `c`: `12 × a + cluster`. -/
def State.cluster (s : State) (c : Nat) : Cluster := Tab.get {} s.clusters c
/-- The state with a function applied to cluster `c`. -/
def State.modCluster (s : State) (c : Nat) (f : Cluster → Cluster) : State :=
  { s with clusters := Tab.set {} s.clusters c (f (s.cluster c)) }

/-- The home arbiter of abutment die `a`. -/
def State.arb (s : State) (a : Nat) : Arb := Tab.get {} s.arbs a
/-- The state with home arbiter `a` replaced. -/
def State.setArb (s : State) (a : Nat) (v : Arb) : State := { s with arbs := Tab.set {} s.arbs a v }

/-- HOSTINT entry `n`. -/
def State.hint (s : State) (n : Nat) : HostInt := Tab.get {} s.hostint n
/-- The state with HOSTINT entry `n` replaced. -/
def State.setHint (s : State) (n : Nat) (v : HostInt) : State := { s with hostint := Tab.set {} s.hostint n v }

/-- The key of bundle pair `n` of link `l`. -/
def pairKey (l n : Nat) : Nat := 64 * l + n
/-- Bundle pair `n` of link `l`. -/
def State.pair (s : State) (l n : Nat) : Pair := Tab.get {} s.pairs (pairKey l n)
/-- The state with a function applied to a bundle pair. -/
def State.modPair (s : State) (l n : Nat) (f : Pair → Pair) : State :=
  { s with pairs := Tab.set {} s.pairs (pairKey l n) (f (s.pair l n)) }

/-- The state with a function applied to Truss. -/
def State.modTruss (s : State) (f : Truss → Truss) : State := { s with truss := f s.truss }

/-- Output port `k` of Truss. -/
def State.tport (s : State) (k : Nat) : TPort := Tab.get {} s.truss.ports k
/-- The state with a function applied to an output port of Truss. -/
def State.modTPort (s : State) (k : Nat) (f : TPort → TPort) : State :=
  s.modTruss fun x => { x with ports := Tab.set {} x.ports k (f (s.tport k)) }

/-- Bundle `b` of Truss. -/
def State.bundle (s : State) (b : Nat) : TBundle := Tab.get {} s.truss.bundles b
/-- The state with a function applied to a bundle of Truss. -/
def State.modBundle (s : State) (b : Nat) (f : TBundle → TBundle) : State :=
  s.modTruss fun x => { x with bundles := Tab.set {} x.bundles b (f (s.bundle b)) }

/-- Import window `w`. -/
def State.window (s : State) (w : Nat) : Window := Tab.get {} s.node.imports w
/-- The state with a function applied to the NODE block. -/
def State.modNode (s : State) (f : Node → Node) : State := { s with node := f s.node }
/-- The state with a function applied to import window `w`. -/
def State.modWindow (s : State) (w : Nat) (f : Window → Window) : State :=
  s.modNode fun n => { n with imports := Tab.set {} n.imports w (f (s.window w)) }
/-- Export entry `e`. -/
def State.exp (s : State) (e : Nat) : Export := Tab.get {} s.node.exports e
/-- The state with export entry `e` replaced. -/
def State.setExp (s : State) (e : Nat) (v : Export) : State :=
  s.modNode fun n => { n with exports := Tab.set {} n.exports e v }
/-- Optical port `p`. -/
def State.port (s : State) (p : Nat) : OPort := Tab.get {} s.node.ports p
/-- The state with a function applied to optical port `p`. -/
def State.modPort (s : State) (p : Nat) (f : OPort → OPort) : State :=
  s.modNode fun n => { n with ports := Tab.set {} n.ports p (f (s.port p)) }

/-- The key of slot `n` of client `c`. -/
def slotKey (c n : Nat) : Nat := 32 * c + n
/-- Command slot `n` of client `c`. -/
def State.slot (s : State) (c n : Nat) : Slot := Tab.get {} s.belul.slots (slotKey c n)
/-- The state with a function applied to slot `n` of client `c`. -/
def State.modSlot (s : State) (c n : Nat) (f : Slot → Slot) : State :=
  { s with belul := { s.belul with slots := Tab.set {} s.belul.slots (slotKey c n) (f (s.slot c n)) } }

/-- The clock of deck die `d`. -/
def State.deck (s : State) (d : Nat) : Deck := Tab.get {} s.power.decks d
/-- The state with a function applied to the POWER block. -/
def State.modPower (s : State) (f : Power → Power) : State := { s with power := f s.power }
/-- The state with a function applied to deck die `d`. -/
def State.modDeck (s : State) (d : Nat) (f : Deck → Deck) : State :=
  s.modPower fun p => { p with decks := Tab.set {} p.decks d (f (s.deck d)) }
/-- Temperature sensor `i`. -/
def State.sensor (s : State) (i : Nat) : Sensor := Tab.get {} s.power.sensors i
/-- The state with a function applied to sensor `i`. -/
def State.modSensor (s : State) (i : Nat) (f : Sensor → Sensor) : State :=
  s.modPower fun p => { p with sensors := Tab.set {} p.sensors i (f (s.sensor i)) }

/-- The state with a function applied to the Keystone. -/
def State.modKs (s : State) (f : Keystone → Keystone) : State := { s with ks := f s.ks }
/-- The state with a function applied to the pool. -/
def State.modPool (s : State) (f : Pool → Pool) : State := { s with pool := f s.pool }
/-- The state with a function applied to the tick unit. -/
def State.modTick (s : State) (f : Tick → Tick) : State := { s with tick := f s.tick }
/-- The state with a function applied to the JOB block. -/
def State.modJob (s : State) (f : Job → Job) : State := { s with job := f s.job }
/-- The state with a function applied to the boot state. -/
def State.modBoot (s : State) (f : Boot → Boot) : State := { s with boot := f s.boot }
/-- The state with a function applied to the trace. -/
def State.modTalcy (s : State) (f : Talcy → Talcy) : State := { s with talcy := f s.talcy }
/-- The state with a function applied to the counters. -/
def State.modCtrs (s : State) (f : Counters → Counters) : State := { s with ctrs := f s.ctrs }
/-- The state with a function applied to the Belul interface. -/
def State.modBelul (s : State) (f : Belul → Belul) : State := { s with belul := f s.belul }
/-- The state with a function applied to wear management. -/
def State.modWear (s : State) (f : Wear → Wear) : State := { s with wear := f s.wear }
/-- The state with one thing sent. -/
def State.send (s : State) (o : Out) : State := { s with out := o :: s.out }
/-- The state with a register's value read. -/
def State.ret (s : State) (v : Nat) : State := { s with rdata := BitVec.ofNat 64 v }
/-- The next free value (assumption 2). -/
def State.freeVal (s : State) : Nat := Config.freeNat s.free
/-- The state after a free value was taken. -/
def State.takeFree (s : State) : State := { s with free := s.free + 1 }

/-- A function applied to a state for each element of a list, in order. -/
def forEach {α : Type} (l : List α) (f : α → State → State) (s : State) : State :=
  l.foldl (fun s a => f a s) s

/-- One of two states, by a test. -/
def State.when (s : State) (b : Bool) (f : State → State) : State := if b then f s else s

/-! ### Numbering (R13, R18, R20) -/

/-- The deck die of a logical tile (R18). -/
def deckOf (t : Nat) : Nat := t / Config.tilesPerDeck
/-- DDIE of pier `p` (R260). -/
def diePier (p : Nat) : Nat := 16 + p
/-- DDIE of abutment die `a` (R260). -/
def dieAbut (a : Nat) : Nat := 24 + a

/-- The pier that carries a logical tile (R13). -/
def pierOf (t : Nat) : Nat := deckOf t / 3
/-- The physical number of a logical tile (R18): the site that the spare map gives it. -/
def State.physTile (s : State) (t : Nat) : Nat :=
  112 * deckOf t + (if (s.tile t).moved then (s.tile t).site else t % Config.tilesPerDeck)
/-- The tiles of a deck die. -/
def tilesOf (d : Nat) : List Nat := rangeFrom (Config.tilesPerDeck * d) Config.tilesPerDeck
/-- All logical tiles. -/
def allTiles : List Nat := rangeFrom 0 Config.tiles

/-- A tile that exists. -/
def okTile (t : Nat) : Bool := decide (t < Config.tiles)
/-- A queue of a tile. -/
def okTQ (t q : Nat) : Bool := decide (t < Config.tiles) && decide (q < 4)

/-! ### Trestle sources (R41, R42) -/

/-- A tile whose core, CSRs and Trestle stay as they were at a double fault: in the drain of the fault, and FAULTED (R27). -/
def Tile.frozen (T : Tile) : Bool := T.st == .faulted || (T.st == .draining && T.drain == .fault)

/-- Trestle source `n` of tile `t` becomes pending (R42). A waiting core wakes when it is unmasked (R45). After a double
fault no event reaches the Trestle (R27). -/
def raiseSrc (s : State) (t n : Nat) : State :=
  s.modTile t fun T =>
    if T.frozen then T
    else
      let p := T.pend ||| (BitVec.ofNat 64 (2 ^ n))
      { T with pend := p, core := { T.core with waiting := T.core.waiting && decide (p &&& ~~~T.mask = 0) } }

/-! ### Counters (R386–R391) -/

/-- Device address of counter `i` of tile `t` (R389, R442). -/
def tileCtr (t i : Nat) : Nat := 0x400100000000 + 0x10000 * t + 0x3000 + 0x10 * i
/-- Device address of counter `i` of a shared block at a base (R392). -/
def unitCtr (base i : Nat) : Nat := base + 0x1000 + 0x10 * i
/-- Base of the KEYSTONE block (R442). -/
def ksBase : Nat := 0x400000800000
/-- Base of the MEMCH block of channel `c` (R442). -/
def memchBase (c : Nat) : Nat := 0x400001000000 + 0x10000 * c
/-- Base of the PCACHE block of pier `p` (R442). -/
def pcacheBase (p : Nat) : Nat := 0x400000A00000 + 0x10000 * p
/-- Base of the HOMEARB block of die `a` (R442). -/
def homearbBase (a : Nat) : Nat := 0x400000B00000 + 0x10000 * a
/-- Base of the LINK block of link `l` (R442). -/
def linkBase (l : Nat) : Nat := 0x400000D00000 + 0x10000 * l
/-- Base of the BOND block of deck die `d` (R442). -/
def bondBase (d : Nat) : Nat := 0x400003400000 + 0x10000 * d
/-- Base of the OPORT block of port `p` (R442). -/
def oportBase (p : Nat) : Nat := 0x400003000000 + 0x10000 * p
/-- Device address of space counter `i` of tag `g` (R394). -/
def spaceCtr (g i : Nat) : Nat := 0x400006000000 + 0x1000 * g + 0x10 * i

/-- The value at which a counter stops (R386). -/
def ctrMax : Nat := 2 ^ 56 - 1

/-- A counter after `n` events (R386). -/
def Ctr.add (c : Ctr) (n : Nat) : Ctr :=
  if c.val.toNat + n < ctrMax then { c with val := c.val + BitVec.ofNat 56 n }
  else { c with val := BitVec.ofNat 56 ctrMax, sat := true }

/-- The counter in the slot at an address. -/
def State.ctr (s : State) (a : Nat) : Ctr := Tab.get {} s.ctrs.vals a
/-- The state with the counter at an address replaced. -/
def State.setCtr (s : State) (a : Nat) (c : Ctr) : State :=
  s.modCtrs fun k => { k with vals := Tab.set {} k.vals a c }

/-- `n` events counted at an address; a frozen counter ignores them (R388). -/
def bump (s : State) (a n : Nat) : State := if s.ctrs.frozen then s else s.setCtr a ((s.ctr a).add n)

/-- A counter reset (R387): GEN toggles, and the events of the same cycle are kept. -/
def resetCtr (s : State) (a ev : Nat) : State :=
  (s.setCtr a { val := if s.ctrs.frozen then 0 else BitVec.ofNat 56 ev, sat := false, gen := !(s.ctr a).gen }).modCtrs
    fun k => { k with spaceBase := Tab.set 0 k.spaceBase a 0, drawn := if k.frozen then a :: k.drawn else k.drawn }

/-- The always-on counters of a tile add what they counted since the last time to the counters of its space tag (R394). -/
def flushSpace (t : Nat) (s : State) : State :=
  forEach (rangeFrom 0 8) (fun i s =>
    let v := (s.ctr (tileCtr t i)).val
    let d := (v - Tab.get 0 s.ctrs.spaceBase (tileCtr t i)).toNat
    if d = 0 then s
    else
      let a := spaceCtr (s.tile t).space i
      (s.setCtr a ((s.ctr a).add d)).modCtrs fun k => { k with spaceBase := Tab.set 0 k.spaceBase (tileCtr t i) v }) s

/-- The sixteen counters of a tile reset (R387); what they counted is added to the space first. -/
def resetTileCtrs (t : Nat) (s : State) : State :=
  forEach (rangeFrom 0 16) (fun i s => resetCtr s (tileCtr t i) 0) (flushSpace t s)

/-- `n` events of always-on counter `i` of a tile (R389). -/
def countTile (s : State) (t i n : Nat) : State := bump s (tileCtr t i) n

/-- `n` events of programmable counter `k`, noting a threshold that its value reaches (R391). -/
def countProg (s : State) (t k n : Nat) : State :=
  let thr := (Tab.get 0 (s.tile t).pthr k).toNat
  let before := (s.ctr (tileCtr t (8 + k))).val.toNat
  let s := bump s (tileCtr t (8 + k)) n
  let now := (s.ctr (tileCtr t (8 + k))).val.toNat
  if k < 4 ∧ thr ≠ 0 ∧ before < thr ∧ thr ≤ now then
    s.modTile t fun T => { T with thrDue := T.thrDue ++ [k] }
  else s

/-- PCFGn at reset: QMASK 0xF (R391). -/
def pcfgReset : W32 := 0x00F00000

/-- `n` events of code `ev` on a tile, counted by each enabled programmable counter that selects the code; an
event of a queue counts only where QMASK names the queue (R390). -/
def tileEvent (s : State) (t ev : Nat) (q : Option Nat) (n : Nat) : State :=
  forEach (rangeFrom 0 8) (fun k s =>
    let c := (Tab.get pcfgReset (s.tile t).pcfg k).toNat
    let q' : Bool := match q with
      | some q => bitAt c (20 + q)
      | none => true
    if bitAt c 31 ∧ fld c 0 6 = ev ∧ q' then countProg s t k n else s) s

/-! ### Tile cycles (R24, R29, R67, R389, R390) -/

/-- A number of tile cycles that the manual does not fix, counted by always-on counter `i` of a tile: a free value (assumption 4). -/
def countCycles (s : State) (t i : Nat) : State := countTile s.takeFree t i s.freeVal

/-- A number of tile cycles that the manual does not fix, counted under an event code: a free value (assumption 4). -/
def eventCycles (s : State) (t ev : Nat) (q : Option Nat) : State := tileEvent s.takeFree t ev q s.freeVal

/-- Tile cycles in which the Lathe has work: the limiter holds its array (R67), or it loses a port (R29). -/
def latheCycles (s : State) (t : Nat) : State := countCycles (eventCycles (countCycles s t 2) t 0x01 none) t 5

/-- Tile cycles in which the chain has work of queue `q`: it accepts elements, loses a port (R29), or waits for a staging
half (R108) or a lease. -/
def chainCycles (s : State) (t q : Nat) : State :=
  countCycles (eventCycles (eventCycles (eventCycles (countCycles s t 3) t 0x02 none) t 0x04 (some q)) t 0x0C (some q)) t 5

/-- Tile cycles in which the tile mover has work of queue `q`: it loses a port (R29), or waits for a lease or for Truss
credit. -/
def moverCycles (s : State) (t q : Nat) : State :=
  countCycles (eventCycles (eventCycles s t 0x03 (some q)) t 0x0C (some q)) t 5

/-- Tile cycles pass at a tile: mcycle counts them from the tile's reset on, and RUN_CYCLES in RUN, by a free value. A core
frozen by a double fault keeps its mcycle (R27). -/
def tileCycles (s : State) (t : Nat) : State :=
  let T := s.tile t
  let n := s.freeVal
  let live := !T.frozen && T.st != .unavailable && (T.st != .reset || T.filling)
  let s := s.takeFree.modTile t fun T =>
    if live then { T with core := { T.core with mcycle := T.core.mcycle + BitVec.ofNat 64 n } } else T
  if T.st = .run then countTile s t 0 n else s

end Sys2Proof.Machine
end

