-- ==== Sys2Proof/Machine/Net.lean ====
section
/-!
DEFINITION. Truss (R255–R261): the path of a packet from die to die, its header, the flows and their SEQ, and the output ports of the
routers with their virtual channels, credits, arbitration, choice of a bundle and replay buffers. A packet crosses its path in the step
that sends it where each port on it offers credit, and else waits there; what it asks for has its effect in that step (assumption 152).
Credits and acknowledgements come back in time, which the model does not count: a free value says how many (assumption 151).
-/

namespace Sys2Proof.Machine
open Sys2Proof

/-! ### Paths (R255, R256) -/

/-- Channels of R257: REQ. -/
def vcReq : Nat := 0
/-- FWD. -/
def vcFwd : Nat := 1
/-- RSP. -/
def vcRsp : Nat := 2
/-- WB. -/
def vcWb : Nat := 3
/-- BULK. -/
def vcBulk : Nat := 4
/-- MSG. -/
def vcMsg : Nat := 5
/-- CTRL, of Truss. -/
def vcTrussCtrl : Nat := 6

/-- The pier on whose column a die stands (R13). -/
def dieColumn (d : Nat) : Nat := if d < 12 then d / 3 else if d < 20 then d - 16 else if d % 2 = 0 then 0 else 3

/-- The output port of link `l` eastward; the one westward is the next. -/
def eastPort (l : Nat) : Nat := 2 * l
/-- The output port of the bond of deck `d` toward the pier; the one toward the deck is the next. -/
def bondPort (d : Nat) : Nat := 64 + 2 * d

/-- The ports from a die to its pier's router. -/
def upPorts (d : Nat) : List Nat :=
  if d < 12 then [bondPort d] else if d < 20 then [] else [eastPort (3 + (d - 24)) + d % 2]
/-- The ports from a pier's router to a die on its column. -/
def downPorts (d : Nat) : List Nat :=
  if d < 12 then [bondPort d + 1] else if d < 20 then [] else [eastPort (3 + (d - 24)) + (1 - d % 2)]
/-- The ports along the row of piers. -/
def rowPorts (p q : Nat) : List Nat :=
  if p < q then (rangeFrom p (q - p)).map eastPort else (rangeFrom q (p - q)).reverse.map fun l => eastPort l + 1

/-- The one path between two dies (R255). -/
def trussPath (src dst : Nat) : List Nat :=
  if src = dst then [] else upPorts src ++ rowPorts (dieColumn src) (dieColumn dst) ++ downPorts dst

/-! ### Headers (R260) -/

/-- LEN of a payload of at most 128 B. -/
def lenCode (n : Nat) : Nat := if n = 0 then 0 else if n ≤ 32 then 1 else if n ≤ 64 then 2 else 3

/-- The 16 B header of a packet; PARITY makes the XOR of all bytes zero (R260). -/
def TPkt.head (p : TPkt) : List Byte :=
  let b := leBytes 1 (mkFld 4 4 (Config.trussType p.vc p.typ) + mkBit 3 p.resp + mkFld 0 3 p.vc) ++ leBytes 1 (mkFld 0 2 p.len) ++
    leBytes 2 (mkFld 11 5 p.ddie + mkFld 0 11 (Config.trussUnit p.ddie p.dunit)) ++
    leBytes 2 (mkFld 11 5 p.sdie + mkFld 0 11 (Config.trussUnit p.sdie p.sunit)) ++ leBytes 2 p.seq ++ leBytes 6 p.addr ++
    leBytes 1 (Config.trussTag p.sdie p.sunit p.seq)
  b ++ [b.foldl (· ^^^ ·) 0]

/-- The channel of a packet with its pool: BULK and CTRL keep responses apart (R257). -/
def TPkt.chan (p : TPkt) : Nat := if p.resp && p.vc == vcBulk then 7 else if p.resp && p.vc == vcTrussCtrl then 8 else p.vc

/-! ### Bundles (R257, R258, R261) -/

/-- Bundle `n` of a link, 0 eastward and 1 westward. -/
def bundleKey (l n dir : Nat) : Nat := 2 * (64 * l + n) + dir
/-- The bond of a deck in one direction: 0 toward the pier, 1 toward the deck. -/
def bondKey (d dir : Nat) : Nat := 1024 + 2 * d + dir

/-- The link of an output port, or deck of a bond's port. -/
def portUnit (k : Nat) : Nat := if k < 64 then k / 2 else (k - 64) / 2

/-- The bundles of an output port that offer credit: those of pairs that are up, except while one waits for a resend (R258, R261). -/
def offering (s : State) (k : Nat) : List Nat :=
  if k < 64 then
    ((rangeFrom 0 (Config.pairs (k / 2))).filter fun n =>
      decide (2 ≤ (s.pair (k / 2) n).st) && (s.bundle (bundleKey (k / 2) n (k % 2))).await.isNone).map fun n => bundleKey (k / 2) n (k % 2)
  else [bondKey (portUnit k) (k % 2)].filter fun b => (s.bundle b).await.isNone

/-- A bundle takes a packet of a channel: it holds credit, and its replay buffer of 256 packets has room. -/
def TBundle.room (b : TBundle) (ch : Nat) : Bool :=
  decide (Tab.get 0 b.used ch < Config.trussCredits ch + 1) && decide (b.unacked.length < 256)

/-- The bundle with the most credit for a channel, the lowest index of equal ones (R258). Every bundle of a link has the same buffers, so
the most credit is the least in use. -/
def bestBundle (s : State) (ch : Nat) : List Nat → Option Nat
  | [] => none
  | b :: l => match bestBundle s ch l with
    | none => if (s.bundle b).room ch then some b else none
    | some x =>
      if (s.bundle b).room ch && decide (Tab.get 0 (s.bundle b).used ch ≤ Tab.get 0 (s.bundle x).used ch) then some b else some x

/-- A bundle pair runs narrow; its credits come back at half rate (R258). -/
def narrowBundle (s : State) (b : Nat) : Bool := decide (b < 1024) && (s.pair (b / 2 / 64) (b / 2 % 64)).st == 3

/-- Credits of a channel and acknowledgements that have come back to a bundle: free values, half of it on a narrow pair. All but the
last 63 packets are acknowledged (R261). -/
def bundleBack (ch b : Nat) (s : State) : State :=
  let x := s.bundle b
  let u := Tab.get 0 x.used ch
  let s :=
    if u = 0 then s
    else
      let n := s.freeVal % (u + 1)
      (s.modBundle b fun y => { y with used := Tab.set 0 y.used ch (u - if narrowBundle s b then n / 2 else n) }).takeFree
  if x.unacked = [] then s
  else (s.modBundle b fun y =>
    { y with unacked := y.unacked.drop (max (y.unacked.length - 63) (s.freeVal % (y.unacked.length + 1))) }).takeFree

/-! ### Payloads (R262) -/

/-- Bytes from an address as they arrive. -/
def arrive (fl : Flips) (a : Nat) (bs : List Byte) : List Byte := (bs.zipIdx).map fun b => b.1 ^^^ Tab.get 0 fl (a + b.2)

/-- The bits of the 64 B from an address that arrive flipped. -/
def flipWord (fl : Flips) (a : Nat) : BitVec 512 :=
  BitVec.ofNat 512 (leNat (arrive fl a (List.replicate 64 0)))

/-- What a command moves while bits flip on the way. -/
def withFlips (fl : Flips) (f : State → State) (s : State) : State :=
  (f (s.modTruss fun x => { x with flips := fl })).modTruss fun x => { x with flips := [] }

/-! ### Output ports (R258) -/

/-- The oldest packets of each channel that wait at a port and find a bundle, each with its bundle. -/
def portReady (s : State) (k : Nat) : List (Nat × List Nat × TPkt) :=
  let w := (s.tport k).wait
  (w.filter fun e => (w.find? fun x => x.2.chan == e.2.chan) == some e).filterMap fun e =>
    (bestBundle s e.2.chan (offering s k)).map fun b => (b, e)

/-- The packet whose channel comes next after the one served last. -/
def nextChan (last : Nat) : List (Nat × List Nat × TPkt) → Option (Nat × List Nat × TPkt)
  | [] => none
  | e :: l => match nextChan last l with
    | none => some e
    | some x => if (x.2.2.vc + 6 - last) % 7 < (e.2.2.vc + 6 - last) % 7 then some x else some e

/-- The packet that leaves a port next: CTRL with strict priority, at most one in eight while others wait, and the other six channels
round-robin (R258). -/
def portTurn (s : State) (k : Nat) : Option (Nat × List Nat × TPkt) :=
  let l := portReady s k
  let others := l.filter fun e => e.2.2.vc != vcTrussCtrl
  match l.find? fun e => e.2.2.vc == vcTrussCtrl with
  | some e => if 7 ≤ (s.tport k).sinceCtrl ∨ others = [] then some e else nextChan (s.tport k).last others
  | none => nextChan (s.tport k).last others

/-- The counter PACKETS of a port for a channel (R392). -/
def packetsCtr (k vc : Nat) : Nat := unitCtr (if k < 64 then linkBase (k / 2) else bondBase (portUnit k)) (24 * (k % 2) + 3 * vc)

/-- A packet leaves a port on a bundle: it takes a credit and the bundle's next number, the replay buffer keeps it (R261), the port
counts it, and it stands at the next port of its path. -/
def leaveTPort (k : Nat) (x : Nat × List Nat × TPkt) (s : State) : State :=
  let p := x.2.2
  let s := s.modTPort k fun y =>
    { y with wait := y.wait.erase x.2, last := if p.vc = vcTrussCtrl then y.last else p.vc,
             sinceCtrl := if p.vc = vcTrussCtrl then 0 else y.sinceCtrl + 1 }
  let s := s.modBundle x.1 fun b =>
    { b with used := Tab.set 0 b.used p.chan (Tab.get 0 b.used p.chan + 1), count := (b.count + 1) % 512,
             unacked := b.unacked ++ [(b.count, p)] }
  let s := bump s (packetsCtr k p.vc) 1
  match x.2.1 with
  | [] => s
  | k' :: rest => s.modTPort k' fun y => { y with wait := y.wait ++ [(rest, p)] }

/-- All packets that may leave a port leave. -/
def drainTPort (k : Nat) : Nat → State → State
  | 0, s => s
  | n + 1, s => match portTurn s k with
    | none => s
    | some x => drainTPort k n (leaveTPort k x s)

/-- A port serves what waits there. -/
def serveTPort (k : Nat) (s : State) : State :=
  match (s.tport k).wait with
  | [] => s
  | w =>
    let s := forEach (w.map (·.2.chan)).eraseDups (fun ch s => forEach (offering s k) (bundleBack ch) s) s
    drainTPort k w.length s

/-! ### Packets (R259, R260) -/

/-- The flow of a packet: its source and destination units, its channel and pool (R259). -/
def TPkt.flow (p : TPkt) : List Nat := [p.sdie, p.sunit, p.ddie, p.dunit, p.chan]

/-- The next SEQ of a flow. -/
def State.flowSeq (s : State) (f : List Nat) : Nat :=
  match s.truss.flows.find? fun e => e.1 == f with
  | some e => e.2
  | none => 0

/-- A packet sent from its source die: it takes its flow's next SEQ and goes its path as far as credit lets it (R255, R258, R259). -/
def crossTruss (s : State) (p : TPkt) : State :=
  match trussPath p.sdie p.ddie with
  | [] => s
  | k :: rest =>
    let p := { p with seq := s.flowSeq p.flow }
    let s := s.modTruss fun x =>
      { x with flows := (p.flow, (p.seq + 1) % 65536) :: x.flows.filter fun e => e.1 != p.flow }
    let s := s.modTPort k fun y => { y with wait := y.wait ++ [(rest, p)] }
    forEach (k :: rest) serveTPort s

/-- Every port serves what waits, until what has left stands at the end of its path: after a pair has come up. -/
def serveAllPorts (s : State) : State :=
  forEach (rangeFrom 0 7) (fun _ s => forEach (s.truss.ports.map (·.1)) serveTPort s) s

/-- Units of a die that send and receive on Truss, as this model numbers them: the pier cache or home arbiter, the Keystone, the headstock,
an optical port, a tile, a cluster. -/
def unitHome : Nat := 0
/-- The Keystone on P1, or the headstock of an abutment die. -/
def unitKeystone : Nat := 1
/-- An optical port. -/
def unitPort (p : Nat) : Nat := 16 + p % 12
/-- A tile of a deck die. -/
def unitTile (t : Nat) : Nat := 64 + t % Config.tilesPerDeck
/-- A cluster of an abutment die. -/
def unitCluster (c : Nat) : Nat := 64 + c % 12

/-- A tile's end of a packet. -/
def tileEnd (t : Nat) : Nat × Nat := (deckOf t, unitTile t)
/-- The Keystone, on P1. -/
def keystoneEnd : Nat × Nat := (diePier 1, unitKeystone)
/-- The headstock of A0, which holds Belul and HOSTINT (R254, R328). -/
def headEnd : Nat × Nat := (dieAbut 0, unitKeystone)
/-- An optical port, on its pier. -/
def portEnd (p : Nat) : Nat × Nat := (diePier (p / 12), unitPort p)

/-- One packet between two units, with the bytes that it carries. -/
def packet (s : State) (vc : Nat) (resp : Bool) (a b : Nat × Nat) (kind addr len : Nat) : State :=
  crossTruss s { typ := kind, resp := resp, vc := vc, len := lenCode len, sdie := a.1, sunit := a.2, ddie := b.1, dunit := b.2, addr := addr }

/-- The packets of `len` bytes, 128 B in each (R260). -/
def packets (s : State) (vc : Nat) (resp : Bool) (a b : Nat × Nat) (kind addr len : Nat) : State :=
  forEach (rangeFrom 0 (ceilDiv len 128)) (fun i s => packet s vc resp a b kind (addr + 128 * i) (min 128 (len - 128 * i))) s

/-- A routed message of `len` bytes as one head packet with its 32 B slot header and ⌈len / 128⌉ payload packets; a signal is its head
alone (R260). -/
def msgPackets (s : State) (a b : Nat × Nat) (len : Nat) : State :=
  packets (packet s vcMsg false a b 0 0 32) vcMsg false a b 1 0 len

/-- A request and its response between two units, each on its channel, with the bytes that each carries. -/
def roundTrip (s : State) (vcq vcr : Nat) (a b : Nat × Nat) (kind addr rq rs : Nat) : State :=
  packet (packet s vcq false a b kind addr rq) vcr true b a kind addr rs

end Sys2Proof.Machine
end

