-- ==== Sys2Proof/Machine/Events.lean ====
section
/-!
DEFINITION. What the module reports: MSIs and HOSTINT (R252, R253), the record store and the event log (R378, R379, R398, R419), wear
management's queue (R22, R411–R418), and trace records on their way (R399–R405).
-/

namespace Sys2Proof.Machine
open Sys2Proof

/-! ### MSIs, PCIe windows and HOSTINT (R252, R253, R441) -/

/-- The interrupt file at an address of the IMSIC regions, by the number of its 4 KiB page (R252, R442). -/
def imsicFile (a : Nat) : Option Nat :=
  if 0x400004000000 ≤ a ∧ a < 0x400004000000 + 0x1000 * Config.harts then some ((a - 0x400004000000) / 0x1000)
  else if 0x400005000000 ≤ a ∧ a < 0x400005000000 + 0x8000 * Config.harts ∧ (a - 0x400005000000) % 0x8000 < 0x6000
  then some (0x1000 + (a - 0x400005000000) / 0x1000)
  else none

/-- The abutment die of an interrupt file: that of its hart (R236, R252). -/
def fileAbut (f : Nat) : Nat := if f < 0x1000 then f / 48 else (f - 0x1000) / 8 / 48

/-- An identity becomes pending in an interrupt file; identities are 1–255 (R252). -/
def setIdentity (s : State) (file ident : Nat) : State :=
  if 1 ≤ ident ∧ ident ≤ 255 then
    { s with imsic := Tab.set 0 s.imsic file (Tab.get 0 s.imsic file ||| BitVec.ofNat 256 (2 ^ ident)) }
  else s

/-- The mode of PCIe port `n` that holds since the last start: 0 root port, 1 endpoint (R425, R441). -/
def State.pcieMode (s : State) (n : Nat) : Nat := (Tab.get (0, 16) s.portCfg n).1

/-- The bus address of an access in window `n` (R441). -/
def busAddr (s : State) (n off : Nat) : Nat := (Tab.get 0 s.upper n).toNat % 2 ^ 24 * 2 ^ 40 + off

/-- One more bad commit of client `c` (R333, R441). -/
def countBadCommit (s : State) (c : Nat) : State :=
  s.modBelul fun b => { b with badcommit := Tab.set 0 b.badcommit c (satAdd 0xFFFF (Tab.get 0 b.badcommit c) 1) }

/-- A HOSTINT write of 32 bits: into an interrupt file, or out of a PCIe window (R253, R441). -/
def msiWrite (s : State) (addr : Nat) (data : W32) : State :=
  match imsicFile addr with
  | some f =>
    let s := packet s vcTrussCtrl false headEnd (dieAbut (fileAbut f), unitKeystone) 8 addr 32
    if addr % 0x1000 = 0 then setIdentity s f data.toNat else s
  | none =>
    if 0x500000000000 ≤ addr ∧ addr < 0x580000000000 then
      let n := (addr - 0x500000000000) / 2 ^ 40
      if n < Config.pciePorts then
        s.send (.pcie n true (busAddr s n (addr % 2 ^ 40)) (data.setWidth 64))
      else countBadCommit s 1
    else s

/-- HOSTINT entry `n` sends its MSI. -/
def sendMsi (s : State) (n : Nat) : State :=
  let e := s.hint n
  msiWrite (s.send (.msi (e.addrLo.toNat + 2 ^ 32 * e.addrHi.toNat) e.data)) (e.addrLo.toNat + 2 ^ 32 * e.addrHi.toNat) e.data

/-- An event on HOSTINT entry `n` (R253); one on a disabled entry is discarded. -/
def raiseHost (s : State) (n : Nat) : State :=
  let e := s.hint n
  if !e.enable then s
  else if e.mask then s.setHint n { e with pend := true }
  else sendMsi s n

/-! ### The record store and the event log (R378, R379, R398, R419) -/

/-- Bytes that a record takes in the store: head, payload padded to 8 B, commit word (R378). -/
def recBytes (r : Rec) : Nat := 16 + 8 * r.data.length + 8

/-- A record appended to the record store (R378). -/
def addRec (s : State) (kind key : Nat) (data : List Nat) : State :=
  s.modBoot fun b =>
    let r : Rec := { kind := kind, key := key, seq := b.recSeq, data := data }
    { b with recs := b.recs ++ [r], recSeq := b.recSeq + 1, recUsed := b.recUsed + recBytes r }

/-- The record that governs a kind and key: the one with the highest SEQ (R379). -/
def State.recOf (s : State) (kind key : Nat) : Option Rec :=
  s.boot.recs.foldl (fun a r => if r.kind = kind ∧ r.key = key then some r else a) none

/-- The tick number that an event carries: 0 while the tick does not run (R398). -/
def State.eventTick (s : State) : W64 := if s.tick.running then s.tick.num else 0

/-- An event appended to the log, which raises HOSTINT entry 3 (R398). -/
def logEvent (s : State) (code cls die : Nat) (data : List Nat) : State :=
  let e : Event := { index := s.nextEvent, code := code, cls := cls, die := die, tick := s.eventTick, data := data }
  let s := { s with events := (s.events ++ [e]).drop (s.events.length + 1 - 4096),
                    nextEvent := s.nextEvent + 1 }
  raiseHost s 3

/-- An event that is also kept in the record store, as a record of a kind and key, before it is appended
(R415, R419). -/
def logStored (s : State) (code cls die : Nat) (data : List Nat) (kind key : Nat) : State :=
  logEvent (addRec s kind key data) code cls die data

/-- The die number of the module in an event (R398). -/
def dieModule : Nat := 0xFF
/-- A measurement register extended with data, and the log entry of it (R383). -/
def extendMeas (s : State) (reg typ : Nat) (data : List Byte) : State :=
  let d := Config.sm3 data
  s.modBoot fun b =>
    { b with meas := Tab.set 0 b.meas reg (Config.sm3 (leBytes 32 (Tab.get 0 b.meas reg).toNat ++ leBytes 32 d.toNat)),
             mlog := b.mlog ++ [⟨reg, typ, d, data⟩] }

/-! ### Wear management's queue (R22, R411, R413, R414, R418) -/

/-- The scope of the spares of a bundle: the pair, and 0 eastward or 1 westward. -/
def bundleScope (l n dir : Nat) : Nat := 2 * pairKey l n + dir

/-- Spare parts of a kind within its scope, by kind code (R22, R414): tile sites, lanes, wavelengths, lasers, walkers,
ways, and 7 for host clusters. Lanes that failed at assembly test are spares used there. -/
def spareLimit (kind scope : Nat) : Nat :=
  if kind = 2 then 4 - (maskBits 68 (Config.assemblyFailedLanes (scope / 128) (scope / 2 % 64) (scope % 2)).toNat).length
  else if kind = 1 ∨ kind = 5 then 4 else 1

/-- The key of a kind and scope. -/
def spareKey (kind scope : Nat) : Nat := 65536 * kind + scope

/-- Spares used of a kind within a scope. -/
def State.sparesUsed (s : State) (kind scope : Nat) : Nat := Tab.get 0 s.wear.sparesUsed (spareKey kind scope)

/-- Spares left of a kind within a scope. -/
def State.sparesLeft (s : State) (kind scope : Nat) : Nat := spareLimit kind scope - s.sparesUsed kind scope

/-- A spare leaves the stock; the last one raises SPARE_EXHAUSTED (R418). -/
def useSpare (s : State) (kind scope : Nat) : State :=
  let s := s.modWear fun w =>
    { w with sparesUsed := Tab.set 0 w.sparesUsed (spareKey kind scope) (s.sparesUsed kind scope + 1) }
  if s.sparesLeft kind scope = 0 then logStored s 0x0607 3 dieModule [kind, scope] 7 0 else s

/-- The spare map of a deck die as its record holds it: each tile that has moved with its site, and 0xFF for one without a site (R378,
assumption 26). -/
def State.spareMap (s : State) (d : Nat) : List Nat :=
  (s.tiles.filter fun e => deckOf e.1 == d && (e.2.moved || e.2.lost)).flatMap fun e => [e.1, if e.2.lost then 0xFF else e.2.site]

/-- A tile without a site: UNAVAILABLE (R18, R418). -/
def loseTile (s : State) (t : Nat) : State :=
  let s := s.modTile t fun T => { T with st := .unavailable, lost := true, core := { T.core with fetching := false, waiting := false } }
  logEvent (addRec s 4 (deckOf t) (s.spareMap (deckOf t))) 0x0602 3 (deckOf t) [t]

/-- A need for which no spare is left (R418): a non-urgent one raises WEAR_UNMET once, an urgent one degrades the
module. -/
def unmetNeed (s : State) (n : Need) : State :=
  if n.urgent then
    if n.kind = 1 then loseTile s n.res else s
  else if s.wear.unmetSeen.contains (spareKey n.kind n.scope, n.res) then s
  else
    let s := s.modWear fun w =>
      { w with unmetSeen := (spareKey n.kind n.scope, n.res) :: w.unmetSeen, unmet := satAdd 0xFFFF w.unmet 1 }
    logStored s 0x0609 3 dieModule [n.kind, n.res] 7 0

/-- While HOLD is 1 a queued non-urgent need raises WEAR_DEFERRED once (R413). -/
def deferNeed (n : Need) (s : State) : State :=
  if !s.wear.hold ∨ n.urgent ∨ s.wear.deferred.contains (spareKey n.kind n.scope, n.res) then s
  else
    logEvent (s.modWear fun w => { w with deferred := (spareKey n.kind n.scope, n.res) :: w.deferred }) 0x0608 0 dieModule
      [n.kind, n.res]

/-- Two needs are of one resource. -/
def sameNeed (a b : Need) : Bool := a.kind == b.kind && a.scope == b.scope && a.res == b.res

/-- A retraining is what a lane or a wavelength needs, whether or not a spare is left for it (R267, R276, R414). -/
def retrainsNeed (n : Need) : Bool := n.urgent && (n.kind == 2 || n.kind == 3)

/-- A need queued (R411) with the boundary after which it came: one already queued is not queued twice, and becomes urgent where the new
one is. -/
def queueNeed (s : State) (n : Need) : State :=
  if s.wear.queue.any (sameNeed n) then
    s.modWear fun w => { w with queue := w.queue.map fun x => if sameNeed n x then { x with urgent := x.urgent || n.urgent } else x }
  else if s.sparesLeft n.kind n.scope = 0 ∧ !retrainsNeed n then unmetNeed s n
  else deferNeed n (s.modWear fun w => { w with queue := w.queue ++ [n], since := w.since ++ [(s.tick.boundaries, n)] })

/-- The boundaries of the 24 h over which errors count (R411). -/
def dayTicks : Nat := 86400000000

/-- The entries of an error log that lie within a window of boundaries. -/
def State.within (s : State) (window stamp : Nat) : Bool := decide (s.tick.boundaries < stamp + window)

/-! ### Trace records on their way (R399–R405) -/

/-- Trace is ARMED or TRIGGERED. -/
def State.traceOn (s : State) : Bool := s.talcy.st == 1 || s.talcy.st == 2

/-- A tag passes TAGF (R401). -/
def State.tagPasses (s : State) (tag : Nat) : Bool :=
  let f := s.talcy.cfg.tagf.toNat
  !bitAt f 15 || fld f 0 12 == tag

/-- A type that SRCMASK does not control: LOAD, START, SPACE, TRIGGER, GAP (R401, R405). -/
def alwaysWritten (typ : Nat) : Bool := 10 ≤ typ && typ ≤ 14

/-- Record type enabled. -/
def State.typeOn (s : State) (typ : Nat) : Bool := alwaysWritten typ || s.talcy.cfg.srcMask.getLsbD typ

/-- Trace unit of pier `p`. -/
def State.traceUnit (s : State) (p : Nat) : TraceUnit := Tab.get {} s.talcy.units p
/-- The state with trace unit `p` replaced. -/
def State.setTraceUnit (s : State) (p : Nat) (u : TraceUnit) : State :=
  s.modTalcy fun y => { y with units := Tab.set {} y.units p u }

/-- A record that finds a queue full is shed, and counted by its type (R402). -/
def TraceUnit.drop (u : TraceUnit) (r : TraceRec) : TraceUnit :=
  { u with shed := u.shed + 1, shedTypes := u.shedTypes ||| BitVec.ofNat 16 (2 ^ r.typ) }

/-- A record enters the unit's queue of 512, or is shed (R402). -/
def TraceUnit.push (u : TraceUnit) (r : TraceRec) : TraceUnit :=
  if u.queue.length < 512 then { u with queue := u.queue ++ [r] } else u.drop r

/-- The oldest `k` records of the tiles' queues come to the unit. -/
def TraceUnit.gather (k : Nat) (u : TraceUnit) : TraceUnit :=
  (u.held.take k).foldl TraceUnit.push { u with held := u.held.drop k }

/-- A record enters the queue of 8 of its tile, or is shed (R402). -/
def TraceUnit.hold (u : TraceUnit) (r : TraceRec) : TraceUnit :=
  if (u.held.filter (·.tile == r.tile)).length < 8 then { u with held := u.held ++ [r] } else u.drop r

/-- Records on their way from the tiles of pier `p` to its unit: how many have come is a free value (assumption 159). -/
def gatherTrace (s : State) (p : Nat) : State :=
  let k := Config.traceMoves s.talcy.turn
  (s.setTraceUnit p ((s.traceUnit p).gather k)).modTalcy fun y => { y with turn := y.turn + 1 }

/-- A record of the Keystone enters the queue of a trace unit (R402). -/
def queueTrace (s : State) (p : Nat) (r : TraceRec) : State :=
  if (s.traceUnit p).stopped then s else s.setTraceUnit p ((s.traceUnit p).push r)

/-- A record of a tile of pier `p` enters the queue of its tile (R402). -/
def holdTrace (s : State) (p : Nat) (r : TraceRec) : State :=
  if (s.traceUnit p).stopped then s
  else
    let s := gatherTrace s p
    s.setTraceUnit p ((s.traceUnit p).hold r)

/-- A trace record of tile `t`, stamped with the tick (R399, R400). -/
def traceTile (s : State) (t : Nat) (r : TraceRec) : State :=
  if s.traceOn ∧ s.typeOn r.typ ∧ s.tagPasses r.tag then
    holdTrace s (pierOf t) { r with tile := t, tick := s.tick.num.setWidth 32 }
  else s

/-- A record of the Keystone or a SPACE record, which goes to the unit of P1 (R399). -/
def traceKs (s : State) (r : TraceRec) : State :=
  if s.traceOn ∧ s.typeOn r.typ ∧ s.tagPasses r.tag then
    queueTrace s 1 { r with tick := s.tick.num.setWidth 32 }
  else s

end Sys2Proof.Machine
end

