-- ==== Sys2Proof/Machine/Pool.lean ====
section
/-!
DEFINITION. The HBM4 pool under its controllers: the interleave and channel hash (R189–R192), codewords and their
error classes (R195–R197), the row error table (R199), and reads and writes of a codeword at its controller (R194).
A codeword is named by its physical address divided by 64.
-/

namespace Sys2Proof.Machine
open Sys2Proof

/-! ### Locations (R190, R192) -/

/-- Number of pseudo-channels of an interleave domain (R191). -/
def domainSize (pw : Bool) : Nat := if pw then 256 * Config.sitesPerPier else 64 * Config.sitesPerPier

/-- One quarter of the pool, Q (R191). -/
def quarter : Nat := Config.poolBytes / 4

/-- h(q): the CRC-32C of the pool key and the slot (R192). -/
def slotHash (key : W64) (q : Nat) : Nat := (crc32c 0 (leBytes 8 key.toNat ++ leBytes 8 q)).toNat

/-- A location of the pool: pier, stack site, channel of the stack, pseudo-channel, slot (R190, R192). -/
structure Loc where
  pier : Nat
  site : Nat
  ch : Nat
  pc : Nat
  slot : Nat
  deriving DecidableEq, Repr

/-- The global channel of a location (R189). -/
def Loc.gch (l : Loc) : Nat := 32 * (Config.sitesPerPier * l.pier + l.site) + l.ch
/-- The row location of a location (R190, R192 step 7). -/
def Loc.row (l : Loc) : RowLoc := ⟨l.gch, l.pc, l.slot % 64, l.slot / 64⟩

/-- The location of the granule that holds an address, under a mode and key (R192). -/
def locOf (pw : Bool) (key : W64) (addr : Nat) : Loc :=
  let o := if pw then addr else addr % quarter
  let n := domainSize pw
  let g := o / 1024
  let q := g / n
  let i := (g % n + slotHash key q) % n
  let pier := if pw then i % 4 else addr / quarter
  let j := if pw then i / 4 else i
  { pier := pier, site := j % Config.sitesPerPier, ch := j / Config.sitesPerPier % 32,
    pc := j / (32 * Config.sitesPerPier), slot := q }

/-- The address of the granule at a location: the inverse of `locOf` (R192). -/
def addrOf (pw : Bool) (key : W64) (l : Loc) : Nat :=
  let n := domainSize pw
  let j := l.site + Config.sitesPerPier * l.ch + 32 * Config.sitesPerPier * l.pc
  let i := if pw then l.pier + 4 * j else j
  let r := (i + n - slotHash key l.slot % n) % n
  (if pw then 0 else l.pier * quarter) + 1024 * (n * l.slot + r)

/-- The location of a row. -/
def locOfRow (r : RowLoc) : Loc :=
  { pier := r.ch / 32 / Config.sitesPerPier, site := r.ch / 32 % Config.sitesPerPier, ch := r.ch % 32,
    pc := r.pc, slot := 64 * r.row + r.bank }

/-- The location of an address of the pool as it is interleaved. -/
def State.locAt (s : State) (addr : Nat) : Loc := locOf s.pool.packageWide s.pool.key addr

/-- The home pier of an address (R191). -/
def State.home (s : State) (addr : Nat) : Nat := (s.locAt addr).pier

/-- The global channel of a codeword. -/
def State.chOf (s : State) (cw : Nat) : Nat := (s.locAt (64 * cw)).gch

/-- An address inside the HBM pool. -/
def inPool (addr : Nat) : Bool := decide (addr < Config.poolBytes)

/-- Accesses to the pool have their effect (R205). -/
def State.poolReady (s : State) : Bool := s.pool.st == .ready

/-- The foreground's accesses to a codeword have their effect: the pool is READY (R205), and no test run owns the channel (R208;
what an access that is kept out meets is assumption 146). -/
def State.poolServes (s : State) (cw : Nat) : Bool := s.poolReady && !(s.chan (s.chOf cw)).testOwner

/-! ### Codewords -/

/-- The bytes that a mask of `n` bytes selects taken from `new`, the others from `old`. -/
def mergeBytes : Nat → Nat → Nat → Nat → Nat
  | 0, _, _, _ => 0
  | n + 1, mask, old, new =>
    (if mask % 2 = 1 then new % 256 else old % 256) + 256 * mergeBytes n (mask / 2) (old / 256) (new / 256)

/-- A codeword's bytes merged under a mask of 64 bytes. -/
def mergeCw (mask : BitVec 64) (old new : BitVec 512) : BitVec 512 :=
  BitVec.ofNat 512 (mergeBytes 64 mask.toNat old.toNat new.toNat)

/-- The encoded data of a codeword in the stack. -/
def Pool.data (p : Pool) (cw : Nat) : BitVec 512 := BitVec.ofNat 512 (Memory.le p.bytes (64 * cw) 64)

/-- A codeword written whole with valid check symbols (R195, R197). -/
def Pool.put (p : Pool) (cw : Nat) (data : BitVec 512) (poison : Bool) : Pool :=
  { p with bytes := Memory.putLe p.bytes (64 * cw) 64 (if poison then 0 else data.toNat),
           poison := Tab.set false p.poison cw poison,
           err := Tab.set 0 p.err cw 0,
           corrective := p.corrective.filter (fun c => decide (c ≠ cw)) }

/-- A codeword as its controller decodes it from the stack. -/
def Pool.decode (p : Pool) (cw : Nat) : CwClass × BitVec 512 × Bool :=
  decodeCw (p.data cw) (Tab.get false p.poison cw) (Tab.get 0 p.err cw)

/-- The codeword's entry in its adder store, if it is resident (R230). -/
def State.adderEntry (s : State) (cw : Nat) : Option AdderEntry :=
  (s.chan (s.chOf cw)).adder.find? (fun e => e.cw == cw)

/-! ### Errors and repair (R196, R199) -/

/-- A row queued for repair: not twice, and not once it is retired (R199, R201). -/
def queueRepair (s : State) (r : RowLoc) : State :=
  if s.pool.retired.contains r ∨ s.pool.unlisted.contains r then s
  else s.modChan r.ch fun c =>
    if c.repair.any fun e => e.1 == r then c else { c with repair := c.repair ++ [(r, s.tick.boundaries)] }

/-- One outer-code correction noted in the row error table of 64 entries, most recently updated first (R199). -/
def noteRow (s : State) (r : RowLoc) : State :=
  let c := s.chan r.ch
  let n := match c.rowErr.find? (fun e => e.1 == r) with
    | some e => e.2 + 1
    | none => 1
  let s := s.modChan r.ch fun c => { c with rowErr := ((r, n) :: c.rowErr.filter (fun e => e.1 != r)).take 64 }
  if 4 ≤ n then queueRepair s r else s

/-- The effects of an uncorrectable codeword: poison, count, event, repair (R196, R197, R199). -/
def uncorrectable (s : State) (cw : Nat) : State :=
  let l := s.locAt (64 * cw)
  let s := s.modPool fun p => { p.put cw 0 true with ueTotal := p.ueTotal + 1 }
  let s := s.modChan l.gch fun c => { c with ue := satAdd 0x3FF c.ue 1 }
  queueRepair (logStored s 0x0101 4 (diePier l.pier) [64 * cw, l.gch] 7 0) l.row

/-- The effects of an outer-corrected codeword: count, row table, and the rewriting that waits for the channel's
next idle slot (R196). -/
def outerCorrected (s : State) (cw : Nat) (rewrite : Bool) : State :=
  let l := s.locAt (64 * cw)
  let s := s.modPool fun p =>
    { p with ceTotal := p.ceTotal + 1,
             corrective := if rewrite && !p.corrective.contains cw then p.corrective ++ [cw] else p.corrective }
  let s := s.modChan l.gch fun c => { c with ceOuter := satAdd 0x7FF c.ceOuter 1 }
  noteRow s l.row

/-- An inner correction counted (R196). -/
def innerCorrected (s : State) (cw : Nat) : State :=
  (s.modPool fun p => { p with ceTotal := p.ceTotal + 1 }).modChan (s.chOf cw)
    fun c => { c with ceInner := satAdd 0x7FF c.ceInner 1 }

/-- `n` bytes moved by a channel: counted, and added to its window (R207, R392). Counter 0 counts reads, 1 writes; the activates
and the queue's cycles of the access are free values (assumption 4). -/
def countMoved (s : State) (ch i n : Nat) : State :=
  let acts := s.freeVal
  let s := s.takeFree
  let waits := s.freeVal
  let s := bump (bump s.takeFree (unitCtr (memchBase ch) 3) acts) (unitCtr (memchBase ch) 6) waits
  bump (s.modChan ch fun c => { c with window := c.window + n }) (unitCtr (memchBase ch) i) n

/-- Whether the stack indicates a correction on a read for which no operand of a command says it: a free value (assumption 145). -/
def State.indicates (s : State) : Bool := s.freeVal % 2 == 1

/-- A read of a codeword in the stack, classified under R196: the state after it, the data and the poison. -/
def stackRead (s : State) (cw : Nat) (inner : Bool) : State × BitVec 512 × Bool :=
  let s := countMoved s (s.chOf cw) 0 64
  match s.pool.decode cw with
  | (.clean, d, p) => (if inner then innerCorrected s cw else s, d, p)
  | (.corrected, d, p) => (outerCorrected s cw true, d, p)
  | (.uncorrectable, _, _) => (uncorrectable s cw, 0, true)

/-- A read of a codeword at its controller: from the adder store where it is resident (R230), else from the
stack. In the states of R205 it reads as poison. -/
def ctrlRead (s : State) (cw : Nat) (inner : Bool) : State × BitVec 512 × Bool :=
  if !s.poolServes cw then (s, 0, true)
  else match s.adderEntry cw with
    | some e => (s, e.data, false)
    | none => stackRead s cw inner

/-- A write of a codeword at its controller under a byte mask (R194, R197, R230): the state after it, and whether
it is acknowledged as poisoned. -/
def ctrlWrite (s : State) (cw : Nat) (mask : BitVec 64) (data : BitVec 512) : State × Bool :=
  if !s.poolServes cw then (s, true)
  else if mask = 0 then (s, false)
  else
    let ch := s.chOf cw
    let s := if mask = BitVec.allOnes 64 then s else bump s (unitCtr (memchBase ch) 4) 1
    match s.adderEntry cw with
    | some _ =>
      (s.modChan ch fun c =>
        { c with adder := c.adder.map fun e => if e.cw = cw then { e with data := mergeCw mask e.data data } else e },
        false)
    | none =>
      if mask = BitVec.allOnes 64 then (countMoved (s.modPool fun p => p.put cw data false) ch 1 64, false)
      else
        let (s, d, poison) := stackRead s.takeFree cw s.indicates
        if poison then (s, true)
        else (countMoved (s.modPool fun p => p.put cw (mergeCw mask d data) false) ch 1 64, false)

/-- A resident codeword written back with fresh check symbols (R230). -/
def adderEvict (s : State) (ch cw : Nat) : State :=
  match (s.chan ch).adder.find? (fun e => e.cw == cw) with
  | none => s
  | some e =>
    let s := s.modChan ch fun c => { c with adder := c.adder.filter (fun e => e.cw != cw) }
    countMoved (s.modPool fun p => p.put cw e.data false) ch 1 64

end Sys2Proof.Machine
end

