-- ==== Sys2Proof/Machine/Pier.lean ====
section
/-!
DEFINITION. The pier caches and merging buffers (R212–R220): the value that a read at the home pier returns,
writes into the merging buffer, its drains, and the commands on them. A line is named by its physical address
divided by 128; codeword `2 × line + h` is its half `h`.
-/

namespace Sys2Proof.Machine
open Sys2Proof

/-! ### Lines, sets and halves (R212, R213) -/

/-- The set of a line: PA[22:7] XOR PA[38:23] (R213). -/
def setOf (line : Nat) : Nat := (line % 2 ^ 16).xor (line / 2 ^ 16 % 2 ^ 16)

/-- The line of a pier's cache, if it is present. -/
def Pier.find (p : Pier) (line : Nat) : Option CLine := p.lines.find? (fun c => c.line == line)

/-- A pier with a function applied to one of its lines. -/
def Pier.modLine (p : Pier) (line : Nat) (f : CLine → CLine) : Pier :=
  { p with lines := p.lines.map fun c => if c.line = line then f c else c }

/-- Both sectors of half `h` of a line are valid. -/
def CLine.halfValid (c : CLine) (h : Nat) : Bool := c.valid.getLsbD (2 * h) && c.valid.getLsbD (2 * h + 1)

/-- Half `h` of 128 bytes. -/
def halfData (d : BitVec 1024) (h : Nat) : BitVec 512 := (d >>> (512 * h)).setWidth 512
/-- Half `h` of a mask of 128 bytes. -/
def halfMask (m : BitVec 128) (h : Nat) : BitVec 64 := (m >>> (64 * h)).setWidth 64
/-- 128 bytes with half `h` replaced. -/
def setHalf (d : BitVec 1024) (h : Nat) (x : BitVec 512) : BitVec 1024 :=
  if h = 0 then (d >>> 512 <<< 512) ||| x.setWidth 1024 else d.setWidth 512 |>.setWidth 1024 ||| (x.setWidth 1024 <<< 512)
/-- 128 bytes merged under a mask. -/
def mergeLine (mask : BitVec 128) (old new : BitVec 1024) : BitVec 1024 :=
  BitVec.ofNat 1024 (mergeBytes 128 mask.toNat old.toNat new.toNat)
/-- The byte mask of a set of sectors of 32 bytes. -/
def sectorMask (v : BitVec 4) : BitVec 128 :=
  BitVec.ofNat 128 ((maskBits 4 v.toNat).foldl (fun a i => a + (2 ^ 32 - 1) * 2 ^ (32 * i)) 0)

/-- The merging buffer's entry of a line (R218). -/
def Pier.entry (p : Pier) (line : Nat) : Option Merge := p.merges.find? (fun m => m.line == line)

/-! ### The value of a codeword at its home pier (R214, R217, R230) -/

/-- A codeword without the merging buffer: the cache's copy where both its sectors are valid, else the adder store's,
else what the stack's code gives. -/
def baseCw (s : State) (cw : Nat) : BitVec 512 × Bool :=
  let c := match (s.pier (s.home (64 * cw))).find (cw / 2) with
    | some c => if c.halfValid (cw % 2) then some (halfData c.data (cw % 2), c.poison.getLsbD (cw % 2)) else none
    | none => none
  match c with
  | some v => v
  | none => match s.adderEntry cw with
    | some e => (e.data, false)
    | none => ((s.pool.decode cw).2.1, (s.pool.decode cw).2.2)

/-- The merging buffer's bytes over a codeword's value (R217). A codeword stays poisoned unless every byte of it is
in the buffer (R197). -/
def overBuffer (s : State) (cw : Nat) (v : BitVec 512 × Bool) : BitVec 512 × Bool :=
  match (s.pier (s.home (64 * cw))).entry (cw / 2) with
  | none => v
  | some m =>
    let mask := halfMask m.mask (cw % 2)
    if v.2 && mask != BitVec.allOnes 64 then (0, true) else (mergeCw mask v.1 (halfData m.data (cw % 2)), false)

/-- The value of a codeword at its home pier, and whether it is poisoned, as the next read would find them (R205, R217). -/
def viewCw (s : State) (cw : Nat) : BitVec 512 × Bool :=
  if !s.poolServes cw then (0, true) else overBuffer s cw (baseCw s cw)

/-- The codewords that `n` bytes from an address touch. -/
def cwsOf (addr n : Nat) : List Nat :=
  if n = 0 then [] else rangeFrom (addr / 64) ((addr + n - 1) / 64 - addr / 64 + 1)

/-- `n` bytes of the pool from an address as the next read would find them. -/
def peekPool (s : State) (addr n : Nat) : List Byte :=
  (((cwsOf addr n).flatMap fun cw => leBytes 64 (viewCw s cw).1.toNat).drop (addr % 64)).take n

/-- The next read of `n` bytes of the pool from an address would find poison. -/
def peekPoison (s : State) (addr n : Nat) : Bool := (cwsOf addr n).any fun cw => (viewCw s cw).2

/-! ### Writes (R217, R218) -/

/-- A merging buffer entry drained to its controller: a codeword whose 64 bytes are all written as one whole write,
any other written codeword as a partial write (R218). -/
def drainEntry (s : State) (p : Nat) (m : Merge) : State :=
  let s := s.modPier p fun P => { P with merges := P.merges.filter fun e => e.line != m.line }
  forEach [0, 1] (fun h s =>
    let mask := halfMask m.mask h
    if mask = 0 then s
    else
      let s := bump s (unitCtr (pcacheBase p) (if mask = BitVec.allOnes 64 then 4 else 5)) 1
      (ctrlWrite s (2 * m.line + h) mask (halfData m.data h)).1) s

/-- The entry of a line, if any, drained. -/
def drainLine (s : State) (p line : Nat) : State :=
  match (s.pier p).entry line with
  | some m => drainEntry s p m
  | none => s

/-- The oldest entries drained until fewer than 896 are in use (R218). -/
def drainFull : Nat → State → Nat → State
  | 0, s, _ => s
  | n + 1, s, p =>
    match (s.pier p).merges with
    | m :: _ => if 896 ≤ (s.pier p).merges.length then drainFull n (drainEntry s p m) p else s
    | [] => s

/-- Half `h` of a write is turned away as poisoned: the pool does not serve (R205), or the write covers a part of a
poisoned codeword (R197). -/
def halfPoisoned (s : State) (line : Nat) (mask : BitVec 128) (h : Nat) : Bool :=
  halfMask mask h != 0 &&
    (!s.poolServes (2 * line + h) || (halfMask mask h != BitVec.allOnes 64 && (viewCw s (2 * line + h)).2))

/-- The part of a write's mask that has its effect. -/
def writtenMask (s : State) (line : Nat) (mask : BitVec 128) : BitVec 128 :=
  let lo : BitVec 128 := if halfPoisoned s line mask 0 then 0 else (halfMask mask 0).setWidth 128
  let hi : BitVec 128 := if halfPoisoned s line mask 1 then 0 else (halfMask mask 1).setWidth 128
  lo ||| (hi <<< 64)

/-- The address of the first codeword of a write that is acknowledged as poisoned. -/
def writePoison (s : State) (line : Nat) (mask : BitVec 128) : Option Nat :=
  if halfPoisoned s line mask 0 then some (128 * line)
  else if halfPoisoned s line mask 1 then some (128 * line + 64) else none

/-- A cached line after a write: valid sectors take the written bytes, and a codeword written whole loses its poison;
a sector that is not valid stays so (R217). -/
def CLine.written (c : CLine) (mask : BitVec 128) (data : BitVec 1024) : CLine :=
  { c with data := mergeLine (mask &&& sectorMask c.valid) c.data data,
           poison := (if halfMask mask 0 = BitVec.allOnes 64 then c.poison &&& 2#2 else c.poison) &&&
                     (if halfMask mask 1 = BitVec.allOnes 64 then 1#2 else 3#2) }

/-- The value that a fetch brings: the controller's answer under the merging buffer's bytes. -/
def fillValue (s : State) (cw : Nat) (inner : Bool) : State × BitVec 512 × Bool :=
  let r := ctrlRead s cw inner
  (r.1, overBuffer r.1 cw (r.2.1, r.2.2))

/-- The fetches in progress of a codeword read its value before a request that a pier accepts after them (R219). -/
def latchFills (s : State) (p cw : Nat) : State :=
  if (s.pier p).fills.any fun f => f.cw == cw && f.val.isNone then
    let r := fillValue s.takeFree cw s.indicates
    r.1.modPier p fun P =>
      { P with fills := P.fills.map fun f => if f.cw = cw ∧ f.val = none then { f with val := some r.2 } else f }
  else s

/-- A write of bytes of one line at its home pier (R217): it enters the merging buffer, valid sectors are updated,
and entries drain under R218. The cycles that it waits for an entry are a free value (assumption 4). -/
def pierStore (s : State) (line : Nat) (mask : BitVec 128) (data : BitVec 1024) : State :=
  let p := s.home (128 * line)
  let m := writtenMask s line mask
  if m = 0 then s
  else
    let s := latchFills (latchFills s p (2 * line)) p (2 * line + 1)
    let s := bump s.takeFree (unitCtr (pcacheBase p) 6) s.freeVal
    let P := s.pier p
    let merges := match P.entry line with
      | some _ => P.merges.map fun e =>
          if e.line = line then { e with mask := e.mask ||| m, data := mergeLine m e.data data } else e
      | none => P.merges ++ [⟨line, m, mergeLine m 0 data⟩]
    let s := s.setPier p { P.modLine line (fun c => c.written m data) with merges := merges }
    let s := match (s.pier p).entry line with
      | some e => if e.mask = BitVec.allOnes 128 then drainEntry s p e else s
      | none => s
    drainFull 129 s p

/-- The lines that `n` bytes from an address touch. -/
def linesOf (addr n : Nat) : List Nat :=
  if n = 0 then [] else rangeFrom (addr / 128) ((addr + n - 1) / 128 - addr / 128 + 1)

/-- The byte mask, within a line, of `n` bytes from an address. -/
def lineMask (line addr n : Nat) : BitVec 128 :=
  BitVec.ofNat 128 ((maskBits 128 (2 ^ 128 - 1)).foldl
    (fun a i => if addr ≤ 128 * line + i ∧ 128 * line + i < addr + n then a + 2 ^ i else a) 0)

/-- Bytes written to the pool from an address: one pier write for each line they touch. The answer is the address of
the first codeword acknowledged as poisoned. -/
def writePool (s : State) (addr : Nat) (bytes : List Byte) : State × Option Nat :=
  (linesOf addr bytes.length).foldl (fun (r : State × Option Nat) line =>
    let mask := lineMask line addr bytes.length
    let v := leNat bytes * 256 ^ (addr % 128) / 256 ^ (128 * (line - addr / 128))
    (pierStore r.1 line mask (BitVec.ofNat 1024 v), r.2.or (writePoison r.1 line mask))) (s, none)

/-! ### Reads (R214–R216) and the pier's own errors (R220) -/

/-- Ways of pier `p` that are powered and allocating (R225). -/
def Pier.allocating (p : Pier) : List Nat :=
  (maskBits 17 p.powered.toNat).filter fun w => !p.draining.getLsbD w

/-- The leaf of a way in the pseudo-LRU tree of 16 leaves: way 16 has that of the lowest way that does not allocate
(assumption 22). -/
def Pier.leafOf (P : Pier) (w : Nat) : Nat :=
  if w < 16 then w else ((rangeFrom 0 16).find? fun i => !P.allocating.contains i).getD 15

/-- The leaf that a tree points to among the candidate leaves (R214): bit n of the tree is node n, whose children are the
nodes 2n and 2n + 1, and 1 points to the second. A half without a candidate is passed over. -/
def plruWalk (bits : BitVec 16) (cand : List Nat) : Nat → Nat → Nat
  | 0, n => n - 16
  | d + 1, n =>
    let has := fun c => cand.any fun i => (i + 16) / 2 ^ d == c
    plruWalk bits cand d (if (bits.getLsbD n && has (2 * n + 1)) || !has (2 * n) then 2 * n + 1 else 2 * n)

/-- A tree after a use of a leaf: every node on its path points away from it. -/
def plruTouch (bits : BitVec 16) (leaf : Nat) : BitVec 16 :=
  (rangeFrom 0 4).foldl (fun b k =>
    let n := (leaf + 16) / 2 ^ (k + 1)
    let bit : BitVec 16 := BitVec.ofNat 16 (2 ^ n)
    if (leaf + 16) / 2 ^ k % 2 = 0 then b ||| bit else b &&& ~~~bit) bits

/-- A line's way used: its set's tree points away from it (R214). -/
def Pier.use (P : Pier) (line way : Nat) : Pier :=
  { P with plru := Tab.set 0 P.plru (setOf line) (plruTouch (Tab.get 0 P.plru (setOf line)) (P.leafOf way)) }

/-- The way that a new line takes (R214): among the allocating ways whose line of the set is not locked, the way of a
prefetched line that no demand read has touched (R215), else an empty one, else the one that the set's tree points to. None
where the set has no candidate. -/
def Pier.victim (P : Pier) (line : Nat) : Option Nat :=
  let here := P.lines.filter fun c => setOf c.line == setOf line
  let cand := P.allocating.filter fun w => !here.any fun c => c.way == w && c.lock
  let leaf := plruWalk (Tab.get 0 P.plru (setOf line)) (cand.map P.leafOf) 4 1
  ((cand.find? fun w => here.any fun c => c.way == w && c.fresh).or
    (cand.find? fun w => !here.any fun c => c.way == w)).or (cand.find? fun w => P.leafOf w == leaf)

/-- A line allocated in a way: the way's line of the set leaves it. -/
def Pier.alloc (P : Pier) (line way : Nat) (fresh : Bool) : Pier :=
  { P with lines := P.lines.filter (fun c => !(setOf c.line == setOf line && c.way == way)) ++
                      [{ line := line, way := way, valid := 0, poison := 0, fresh := fresh, data := 0 }] }

/-- A line allocated at pier `p` where a way is to be had; a prefetched one stays its set's next victim (R215). -/
def allocLine (s : State) (p line : Nat) (fresh : Bool) : State :=
  match (s.pier p).victim line with
  | some w => s.modPier p fun P => if fresh then P.alloc line w true else (P.alloc line w false).use line w
  | none => s

/-- A demand read touches a line that is present (R214, R215). -/
def touchLine (s : State) (p line : Nat) : State :=
  match (s.pier p).find line with
  | some c => s.modPier p fun P => (P.modLine line fun c => { c with fresh := false }).use line c.way
  | none => s

/-- A codeword put into its cached line, if the line is present: both sectors become valid (R214). -/
def fillCw (s : State) (p cw : Nat) (d : BitVec 512) (poison : Bool) : State :=
  let h := cw % 2
  s.modPier p fun P => P.modLine (cw / 2) fun c =>
    { c with valid := c.valid ||| BitVec.ofNat 4 (3 * 4 ^ h), data := setHalf c.data h d,
             poison := if poison then c.poison ||| BitVec.ofNat 2 (2 ^ h) else c.poison &&& ~~~(BitVec.ofNat 2 (2 ^ h)) }

/-- An uncorrectable error of a way noted: four in its data or two in its tags within 24 h make a need (R411). -/
def wayError (s : State) (p way : Nat) (tag : Bool) : State :=
  let log := ((s.pier p).wayErrs.filter fun e => s.within dayTicks e.2.2) ++ [(bitNat tag, way, s.tick.boundaries)]
  let n := (log.filter fun e => e.1 == bitNat tag && e.2.1 == way).length
  let s := s.modPier p fun P => { P with wayErrs := log }
  if (if tag then 2 else 4) ≤ n then queueNeed s ⟨6, p, way, false⟩ else s

/-- A codeword whose value a pier has lost: it is written to the stack as poison, and no copy of it is left
(R220). -/
def poisonCw (s : State) (cw : Nat) : State :=
  let s := s.modPool fun q => q.put cw 0 true
  let s := s.modChan (s.chOf cw) fun c => { c with adder := c.adder.filter fun e => e.cw != cw }
  let p := s.home (64 * cw)
  let s := s.modPier p fun P =>
    { P.modLine (cw / 2) (fun c => { c with valid := c.valid &&& ~~~(BitVec.ofNat 4 (3 * 4 ^ (cw % 2))) }) with
      errBuf := satAdd 0xFF P.errBuf 1 }
  logStored s 0x0101 4 (diePier p) [64 * cw, s.chOf cw] 7 0

/-- A merging buffer entry without the bytes of half `h`; an entry without bytes is free. -/
def Pier.dropHalf (P : Pier) (line h : Nat) : Pier :=
  let keep : BitVec 128 := if h = 0 then ~~~((BitVec.allOnes 64).setWidth 128) else (BitVec.allOnes 64).setWidth 128
  { P with merges := (P.merges.map fun m => if m.line = line then { m with mask := m.mask &&& keep } else m).filter (fun m => m.mask != 0) }

/-- An error of two bits in word `word` of a merging buffer entry: the codeword that the word belongs to becomes poison, if
bytes of it wait in the entry (R220). -/
def bufferLost (s : State) (p line word : Nat) : State :=
  match (s.pier p).entry line with
  | none => s
  | some m =>
    let h := word / 8 % 2
    if halfMask m.mask h = 0 then s else poisonCw (s.modPier p fun P => P.dropHalf line h) (2 * line + h)

/-- One corrected bit counted (R220). -/
def countCe (s : State) (p : Nat) : State := s.modPier p fun P => { P with errCe := satAdd 0xFF P.errCe 1 }

/-- An error in a pier's own storage met by a command on a codeword (R220). Where what it would strike is not there, it is not
met. -/
def sramError (s : State) (p cw : Nat) (e : SramErr) : State :=
  let line := cw / 2
  match e with
  | .none => s
  | .one => if ((s.pier p).find line).isSome then countCe s p else s
  | .two => match (s.pier p).find line with
    | some c =>
      wayError (s.modPier p fun P =>
        { P with errData := satAdd 0xFF P.errData 1, lines := P.lines.filter fun c => c.line != line }) p c.way false
    | none => s
  | .tag way =>
    if (s.pier p).powered.getLsbD way then
      wayError (s.modPier p fun P =>
        { P with errTag := satAdd 0xFF P.errTag 1, lines := P.lines.filter fun c => setOf c.line != setOf line }) p way true
    else s
  | .buf => if ((s.pier p).entry line).isSome then countCe s p else s
  | .bufTwo word => bufferLost s p line word
  | .store => if (s.adderEntry cw).isSome then countCe s p else s
  | .storeTwo => if (s.adderEntry cw).isSome then poisonCw s cw else s

/-- The sectors of a line that are valid. -/
def Pier.validOf (P : Pier) (line : Nat) : BitVec 4 :=
  match P.find line with
  | some c => c.valid
  | none => 0

/-- A codeword that a hit serves: the cache's copy under the merging buffer's bytes. -/
def hitCw (s : State) (p cw : Nat) : BitVec 512 × Bool :=
  match (s.pier p).find (cw / 2) with
  | some c => overBuffer s cw (halfData c.data (cw % 2), c.poison.getLsbD (cw % 2))
  | none => (0, true)

/-- What a read of valid sectors delivers: the line's bytes under the merging buffer, with the poison of each
codeword. -/
def deliver (s : State) (p line : Nat) (sectors : BitVec 4) : State :=
  if sectors = 0 then s
  else
    let a := hitCw s p (2 * line)
    let b := hitCw s p (2 * line + 1)
    let d := setHalf (setHalf 0 0 a.1) 1 b.1
    s.send (.pierData line sectors (mergeLine (sectorMask sectors) 0 d)
      (BitVec.ofNat 2 (bitNat (a.2 && sectors &&& 3#4 != 0) + 2 * bitNat (b.2 && sectors &&& 12#4 != 0))))

/-- The codewords that hold a requested sector that is not valid (R214). -/
def missing (line : Nat) (sectors valid : BitVec 4) : List Nat :=
  let need := sectors &&& ~~~valid
  (if need &&& 3#4 ≠ 0 then [2 * line] else []) ++ (if need &&& 12#4 ≠ 0 then [2 * line + 1] else [])

/-- Codeword fetches entered in the fill queue (R216). -/
def addFills (s : State) (p : Nat) (cws : List Nat) (allocate prefetch : Bool) : State :=
  s.modPier p fun P => { P with fills := P.fills ++ cws.map fun cw => { cw := cw, allocate := allocate, prefetch := prefetch } }

/-- The next-line prefetch of a demand miss (R215); the queue has room for its two fetches (R216). -/
def prefetchNext (s : State) (p line : Nat) : State :=
  let P := s.pier p
  if P.prefetch ∧ line % 8 ≠ 7 ∧ P.find (line + 1) = none ∧ P.fills.length < P.fillThr ∧ P.fills.length + 2 ≤ 256 then
    let s := bump s (unitCtr (pcacheBase p) 3) 1
    addFills (allocLine s p (line + 1) true) p [2 * line + 2, 2 * line + 3] true true
  else s

/-- PIER_READ (R214–R216): a read at the home pier of its line. A read at another pier, an address outside the
pool, and a miss for which the fill queue of 256 entries has no room change nothing. In the pool states of R205, and where a test
owns the channel, it returns poison. -/
def doPierRead (p addr : Nat) (sectors : BitVec 4) (e : SramErr) (s : State) : State :=
  let line := addr / 128
  if !inPool addr || s.home addr ≠ p || sectors = 0 then s
  else if !s.poolServes (2 * line) then s.send (.pierData line sectors 0 3)
  else
    let s := sramError s p (addr / 64) e
    let valid := (s.pier p).validOf line
    let miss := missing line sectors valid
    if miss = [] then deliver (bump (touchLine s p line) (unitCtr (pcacheBase p) 0) 1) p line sectors
    else if 256 < (s.pier p).fills.length + miss.length then s
    else
      let s := bump (touchLine (deliver s p line (sectors &&& valid)) p line) (unitCtr (pcacheBase p) 1) 1
      if (s.pier p).fillThr ≤ (s.pier p).fills.length then
        addFills (bump s (unitCtr (pcacheBase p) 2) 1) p miss false false
      else
        let s := if (s.pier p).find line = none then allocLine s p line false else s
        prefetchNext (addFills s p miss true false) p line

/-- PIER_READ. -/
def execPierRead (p addr : Nat) (sectors : BitVec 4) (e : SramErr) (s : State) : Host.Outcome State Fault Refusal :=
  require (decide (p < 4)) (doPierRead p addr sectors e s)

/-- FILL_RETURN (R214): a fetch of the fill queue returns, fills its line where it is present, and is delivered
unless it was a prefetch. What is delivered is the value at the fetch's place in the pier's order, and what the cache takes is the
value after every request accepted since (R219). `flips` names the bits that flip on the way (R262). -/
def doFillReturn (p cw : Nat) (inner : Bool) (flips : Flips) (s : State) : State :=
  match (s.pier p).fills.find? (fun f => f.cw == cw) with
  | none => s
  | some f =>
    let s := s.modPier p fun P => { P with fills := P.fills.eraseP fun f => f.cw == cw }
    let r : State × (BitVec 512 × Bool) × (BitVec 512 × Bool) := match f.val with
      | some v => (s, v, viewCw s cw)
      | none => let x := fillValue s cw inner; (x.1, x.2, x.2)
    let bad := flipWord flips (64 * cw)
    let s := fillCw r.1 p cw (r.2.2.1 ^^^ bad) r.2.2.2
    if f.prefetch then s
    else s.send (.pierData (cw / 2) (BitVec.ofNat 4 (3 * 4 ^ (cw % 2)))
      (setHalf 0 (cw % 2) (r.2.1.1 ^^^ bad)) (if r.2.1.2 then BitVec.ofNat 2 (2 ^ (cw % 2)) else 0))

/-- FILL_RETURN. -/
def execFillReturn (p cw : Nat) (inner : Bool) (s : State) (flips : Flips := []) : Host.Outcome State Fault Refusal :=
  require (decide (p < 4)) (doFillReturn p cw inner flips s)

/-! ### Reads by the module's own units (R165, R214, R250) -/

/-- The sectors of a codeword that `n` bytes from an address touch. -/
def cwSectors (cw addr n : Nat) : BitVec 4 :=
  BitVec.ofNat 4 (bitNat (decide (addr < 64 * cw + 32) && decide (64 * cw < addr + n)) * 4 ^ (cw % 2) +
    bitNat (decide (addr < 64 * cw + 64) && decide (64 * cw + 32 < addr + n)) * (2 * 4 ^ (cw % 2)))

/-- A demand read of sectors of one codeword at its home pier by a unit of the module (R214–R216): the fetch of a miss is in
progress within the read alone (assumption 147). The answer is the codeword and its poison. -/
def pierGet (s : State) (cw : Nat) (sectors : BitVec 4) : State × BitVec 512 × Bool :=
  if !s.poolServes cw then (s, 0, true)
  else
    let p := s.home (64 * cw)
    let line := cw / 2
    let s := touchLine s p line
    if missing line sectors ((s.pier p).validOf line) = [] then
      (bump s (unitCtr (pcacheBase p) 0) 1, hitCw s p cw)
    else
      let s := bump s (unitCtr (pcacheBase p) 1) 1
      if (s.pier p).fillThr ≤ (s.pier p).fills.length then
        fillValue (bump s.takeFree (unitCtr (pcacheBase p) 2) 1) cw s.indicates
      else
        let s := if (s.pier p).find line = none then allocLine s p line false else s
        let r := fillValue s.takeFree cw s.indicates
        (prefetchNext (fillCw r.1 p cw r.2.1 r.2.2) p line, r.2)

/-- `n` bytes of the pool read from an address, and the address of the first poisoned codeword among them. -/
def readPool (s : State) (addr n : Nat) : State × List Byte × Option Nat :=
  let r := (cwsOf addr n).foldl (fun (r : State × List Byte × Option Nat) cw =>
    let x := pierGet r.1 cw (cwSectors cw addr n)
    (x.1, r.2.1 ++ leBytes 64 x.2.1.toNat, r.2.2.or (if x.2.2 then some (64 * cw) else none))) (s, [], none)
  (r.1, (r.2.1.drop (addr % 64)).take n, r.2.2)

/-- PIER_WRITE (R217): a write at the home pier of its line, acknowledged when the buffer accepts it. -/
def doPierWrite (p line : Nat) (mask : BitVec 128) (data : BitVec 1024) (s : State) : State :=
  if !inPool (128 * line) || s.home (128 * line) ≠ p then s
  else
    (pierStore s line mask data).send (.memAck (2 * line) (writePoison s line mask).isSome)

/-- PIER_WRITE. -/
def execPierWrite (p line : Nat) (mask : BitVec 128) (data : BitVec 1024) (s : State) :
    Host.Outcome State Fault Refusal :=
  require (decide (p < 4)) (doPierWrite p line mask data s)

/-- MERGE_AGE_DRAIN (R218): an entry that has held data for MERGEAGE cycles drains. -/
def doMergeAgeDrain (p line : Nat) (e : SramErr) (s : State) : State :=
  drainLine (match e with
    | .buf | .bufTwo _ => sramError s p (2 * line) e
    | _ => s) p line

/-- MERGE_AGE_DRAIN. -/
def execMergeAgeDrain (p line : Nat) (e : SramErr) (s : State) : Host.Outcome State Fault Refusal :=
  require (decide (p < 4)) (doMergeAgeDrain p line e s)

end Sys2Proof.Machine
end

