-- ==== Sys2Proof/Machine/Adder.lean ====
section
/-!
DEFINITION. The memory-side adders (R227–R231): the operation codes, the value of an operation, the adder store, and
the two commands on them.
-/

namespace Sys2Proof.Machine
open Sys2Proof

/-- OP of an ADDOP (R227). -/
def aOp (a : BitVec 8) : Nat := fld a.toNat 0 4
/-- TYPE of an ADDOP. -/
def aType (a : BitVec 8) : Nat := fld a.toNat 4 3
/-- NANPOL of an ADDOP: 1 is PROPAGATE. -/
def aProp (a : BitVec 8) : Bool := a.getLsbD 7

/-- The size in bytes of an adder type (R227). -/
def aSize (ty : Nat) : Nat :=
  match ty with
  | 0 => 4
  | 1 => 8
  | 2 => 2
  | 3 => 2
  | 4 => 4
  | 5 => 8
  | _ => 16

/-- The legal pairings of operation and type, with NANPOL only on floating-point MIN and MAX (R227). -/
def aLegal (a : BitVec 8) : Bool :=
  let op := aOp a
  let ty := aType a
  let fp : Bool := decide (2 ≤ ty ∧ ty ≤ 5)
  decide (ty ≤ 6) && decide (op ≤ 7) &&
  (if op = 1 ∨ op = 2 then decide (ty ≤ 5) else if 3 ≤ op ∧ op ≤ 5 then decide (ty ≤ 1) else true) &&
  (!aProp a || ((op == 1 || op == 2) && fp))

/-- The floating-point format of an adder type. -/
def aFmt (ty : Nat) : Fmt :=
  match ty with
  | 2 => .fp16
  | 3 => .bf16
  | 4 => .fp32
  | _ => .fp64

/-- Floating-point addition of an adder, RNE (R228): the sum and its flags. -/
def fpAdd (f : Fmt) (t v : Nat) : Nat × EFlags :=
  let a := valOf f t
  let b := valOf f v
  let r := convert f 0 false 0 (Val.add 0 a b)
  (r.1, flagIf r.2 fOverflow ||| flagIf (a.special || b.special) fSpecial)

/-- Minimum or maximum in a floating-point format under a NaN policy (R97). -/
def fpMinMax (f : Fmt) (isMax prop : Bool) (t v : Nat) : Nat :=
  (convert f 0 false 0 (Val.minmax isMax prop (valOf f t) (valOf f v))).1

/-- Signed minimum or maximum of two `w`-bit integers. -/
def intMinMax (w : Nat) (isMax : Bool) (t v : Nat) : Nat :=
  if isMax then (if sInt w t < sInt w v then v else t) else (if sInt w v < sInt w t then v else t)

/-- Addition of two exact partials and its flags (R94, R228). -/
def exactAdd (t v : Nat) : Nat × EFlags :=
  let a := epOf t
  let b := epOf v
  (epBits (a.add b), flagIf (a.addRange b) fExactRange ||| flagIf (a.special || b.special) fSpecial)

/-- The new value of an element under an operation, with the flags of the acknowledgement (R228). -/
def adderValue (a : BitVec 8) (t v cmp : Nat) : Nat × EFlags :=
  let ty := aType a
  let w := 8 * aSize ty
  let t := t % 2 ^ w
  let v := v % 2 ^ w
  match aOp a with
  | 0 => if ty ≤ 1 then ((t + v) % 2 ^ w, 0) else if ty ≤ 5 then fpAdd (aFmt ty) t v else exactAdd t v
  | 1 => (if ty ≤ 1 then intMinMax w false t v else fpMinMax (aFmt ty) false (aProp a) t v, 0)
  | 2 => (if ty ≤ 1 then intMinMax w true t v else fpMinMax (aFmt ty) true (aProp a) t v, 0)
  | 3 => (t.land v, 0)
  | 4 => (t.lor v, 0)
  | 5 => (t.xor v, 0)
  | 6 => (v, 0)
  | _ => (if t = cmp % 2 ^ w then v else t, 0)

/-- The answer of an adder operation: the old value, the flags, and whether the codeword was poisoned. -/
structure AdderAns where
  old : Nat := 0
  flags : EFlags := 0
  poison : Bool := false
  deriving DecidableEq, Repr

/-- The pier's part before an operation is forwarded (R229): the buffer entry of the codeword drains, and the cache
sectors that the element covers become invalid. -/
def adderForward (s : State) (addr n : Nat) : State :=
  let line := addr / 128
  let p := s.home addr
  let s := drainLine (latchFills s p (addr / 64)) p line
  let sec := (rangeFrom (addr % 128 / 32) ((addr % 128 + n - 1) / 32 - addr % 128 / 32 + 1)).foldl
    (fun a i => a + 2 ^ i) 0
  s.modPier p fun P => P.modLine line fun c => { c with valid := c.valid &&& ~~~(BitVec.ofNat 4 sec) }

/-- A codeword made resident in its adder store (R230): read and checked under R196 unless it is there already, the
least recently used of 64 written back first. The answer says whether it is poisoned. -/
def adderLoad (s : State) (cw : Nat) : State × Bool :=
  match s.adderEntry cw with
  | some _ => (s, false)
  | none =>
    let r := stackRead s.takeFree cw s.indicates
    if r.2.2 then (r.1, true)
    else
      let ch := r.1.chOf cw
      let s := match (r.1.chan ch).adder[63]? with
        | some e => adderEvict r.1 ch e.cw
        | none => r.1
      (s.modChan ch fun c => { c with adder := ⟨cw, r.2.1⟩ :: c.adder }, false)

/-- One adder operation on the aligned element at an address of the pool (R227–R231). A poisoned codeword, and the
pool in the states of R205, answer poison, and the operation is not performed. -/
def adderApply (s : State) (addr : Nat) (a : BitVec 8) (v cmp : Nat) : State × AdderAns :=
  let n := aSize (aType a)
  if !s.poolServes (addr / 64) then (s, { poison := true })
  else
    let s := adderForward s addr n
    let cw := addr / 64
    let r := adderLoad s cw
    if r.2 then (r.1, { poison := true })
    else
      let s := r.1
      match s.adderEntry cw with
      | none => (s, { poison := true })
      | some e =>
        let sh := 8 * (addr % 64)
        let old := e.data.toNat / 2 ^ sh % 2 ^ (8 * n)
        let x := adderValue a old v cmp
        let d := e.data.toNat - old * 2 ^ sh + x.1 % 2 ^ (8 * n) * 2 ^ sh
        let ch := s.chOf cw
        let s := s.modChan ch fun c =>
          { c with adder := ⟨cw, BitVec.ofNat 512 d⟩ :: c.adder.filter (fun e => e.cw != cw) }
        (bump s (unitCtr (memchBase ch) 2) 1, { old := old, flags := x.2 })

/-- ADDER_OPERATION (R228): one operation at its home pier, answered to its issuer. An illegal ADDOP or an element
that is not aligned in the pool reaches no adder (R227, R131) and changes nothing. -/
def doAdderOperation (addr : Nat) (a : BitVec 8) (v cmp : BitVec 128) (e : SramErr) (s : State) : State :=
  if !aLegal a || addr % aSize (aType a) ≠ 0 || !inPool addr then s
  else
    let s := match e with
      | .buf | .bufTwo _ | .store | .storeTwo => sramError s (s.home addr) (addr / 64) e
      | _ => s
    let r := adderApply s addr a v.toNat cmp.toNat
    r.1.send (.adder (BitVec.ofNat 128 r.2.old) r.2.flags r.2.poison)

/-- ADDER_OPERATION. -/
def execAdderOperation (addr : Nat) (a : BitVec 8) (v cmp : BitVec 128) (e : SramErr) (s : State) :
    Host.Outcome State Fault Refusal :=
  require (decide (addr < Config.physEnd)) (doAdderOperation addr a v cmp e s)

/-- ADDER_STORE_EVICT (R230): a resident codeword idle for 4,096 cycles is written back, unless the adder store has lost it
(R220). -/
def doAdderStoreEvict (ch cw : Nat) (e : SramErr) (s : State) : State :=
  let s := match e with
    | .store | .storeTwo => if s.chOf cw = ch then sramError s (s.home (64 * cw)) cw e else s
    | _ => s
  adderEvict s ch cw

/-- ADDER_STORE_EVICT. -/
def execAdderStoreEvict (ch cw : Nat) (s : State) (e : SramErr := .none) : Host.Outcome State Fault Refusal :=
  require (decide (ch < Config.channels)) (doAdderStoreEvict ch cw e s)

end Sys2Proof.Machine
end

