-- ==== Sys2Proof/Machine/Coh.lean ====
section
/-!
DEFINITION. Host clusters, the home arbiters and their messages (R241–R251), and the interrupt commands of R252 and
R253. A host line is named by its physical address divided by 64. The messages of R243 that a unit sends are `Out.coh`
entries; the row of the receiver is the command that acts on one.
-/

namespace Sys2Proof.Machine
open Sys2Proof

/-! ### Homes (R241) -/

/-- H of R241: the XOR of the two-bit fields of a line's address. -/
def lineHash : Nat → Nat → Nat
  | 0, _ => 0
  | n + 1, x => (x % 4).xor (lineHash n (x / 4))

/-- The abutment die whose arbiter orders a line (R241). -/
def homeArb (line : Nat) : Nat := lineHash 21 line % Config.abutments

/-! ### Memory under the arbiters -/

/-- One codeword of the pool becomes poison in every place that could hold it (R197, R251). -/
def storePoison (s : State) (cw : Nat) : State :=
  let s := s.modChan (s.chOf cw) fun c => { c with adder := c.adder.filter fun e => e.cw != cw }
  let h := cw % 2
  let s := latchFills s (s.home (64 * cw)) cw
  let s := s.modPier (s.home (64 * cw)) fun P =>
    (P.modLine (cw / 2) fun c => { c with valid := c.valid &&& ~~~(BitVec.ofNat 4 (3 * 4 ^ h)) }).dropHalf (cw / 2) h
  s.modPool fun q => q.put cw 0 true

/-- Bytes of a host line written at its home pier, under a mask. -/
def lineStore (s : State) (line : Nat) (mask : BitVec 64) (data : BitVec 512) : State :=
  let sh := 64 * (line % 2)
  pierStore s (line / 2) (mask.setWidth 128 <<< sh) (data.setWidth 1024 <<< (8 * sh))

/-- A whole host line written back, with its poison bit (R251). -/
def writeBackLine (s : State) (line : Nat) (data : BitVec 512) (poison : Bool) : State :=
  if !inPool (64 * line) then s
  else if poison then (if s.poolServes line then storePoison s line else s)
  else lineStore s line (BitVec.allOnes 64) data

/-! ### The directory (R242) -/

/-- The directory entry of a line. -/
def Arb.entry (A : Arb) (line : Nat) : Option DirEntry := A.dir.find? fun e => e.line == line
/-- An arbiter with the entry of a line set to an owner or sharers, most recently used first; no owner and no sharer
leave no entry. -/
def Arb.setEntry (A : Arb) (line : Nat) (owner : Option Nat) (sharers : List Nat) : Arb :=
  let rest := A.dir.filter fun e => e.line != line
  { A with dir := if owner = none ∧ sharers = [] then rest else ⟨line, owner, sharers⟩ :: rest }
/-- The owner of a line in M. -/
def Arb.owner (A : Arb) (line : Nat) : Option Nat := (A.entry line).bind (·.owner)
/-- The clusters that may hold a line in S. -/
def Arb.sharers (A : Arb) (line : Nat) : List Nat :=
  match A.entry line with
  | some e => e.sharers
  | none => []
/-- A transaction is open for a line; `kind` 5 evicts a line so that the line of its `addr` can have an entry. -/
def Arb.busy (A : Arb) (line : Nat) : Bool :=
  A.open_.any fun t => t.req.line == line || (t.req.kind == 5 && t.req.addr == line)

/-- The state with a function applied to arbiter `a`. -/
def State.modArb (s : State) (a : Nat) (f : Arb → Arb) : State := s.setArb a (f (s.arb a))

/-- A number without repeats added to a list. -/
def addNew (l : List Nat) (x : Nat) : List Nat := if l.contains x then l else l ++ [x]

/-- The two sectors of a host line in its pier line. -/
def hostSectors (line : Nat) : BitVec 4 := BitVec.ofNat 4 (3 * 4 ^ (line % 2))

/-- The home arbiter of a line on Truss. -/
def homeEnd (line : Nat) : Nat × Nat := (dieAbut (homeArb line), unitHome)
/-- A cluster on Truss. -/
def clusterEnd (cl : Nat) : Nat × Nat := (dieAbut (cl / 12), unitCluster cl)

/-- A coherence message between two units, which crosses Truss on its channel (R243, R257): `kind` counts the messages of the channel. -/
def sendCoh (s : State) (a b : Nat × Nat) (vc kind : Nat) (msg : String) (cl line : Nat) (data : BitVec 512) (poison : Bool) : State :=
  let len := if (vc = vcRsp ∧ kind = 0) ∨ vc = vcWb then 64 else 0
  (crossTruss s { typ := kind, vc := vc, len := lenCode len, sdie := a.1, sunit := a.2, ddie := b.1, dunit := b.2,
                  addr := 64 * line }).send (.coh msg cl line data poison)

/-- A cluster's message to the home arbiter of a line. -/
def toHome (s : State) (from_ vc kind : Nat) (msg : String) (line : Nat) (data : BitVec 512) (poison : Bool) : State :=
  sendCoh s (clusterEnd from_) (homeEnd line) vc kind msg (homeArb line) line data poison

/-- Line data sent to a cluster: the home pier's value with its poison (R246). -/
def sendData (s : State) (cl line : Nat) : State :=
  let v := pierGet s line (hostSectors line)
  sendCoh v.1 (homeEnd line) (clusterEnd cl) vcRsp 0 "Data" cl line v.2.1 v.2.2

/-- Invalidations sent to clusters. -/
def sendInvs (s : State) (a line : Nat) (to_ : List Nat) : State :=
  forEach to_ (fun c s => bump (sendCoh s (homeEnd line) (clusterEnd c) vcFwd 3 "Inv" c line 0 false) (unitCtr (homearbBase a) 2) 1) s

/-- A forwarded request sent to the owner of a line: 0 FwdGetS, 1 FwdGetM, 2 FwdInv. -/
def sendFwd (s : State) (a : Nat) (kind : Nat) (owner line : Nat) : State :=
  let msg := if kind = 0 then "FwdGetS" else if kind = 1 then "FwdGetM" else "FwdInv"
  bump (sendCoh s (homeEnd line) (clusterEnd owner) vcFwd kind msg owner line 0 false) (unitCtr (homearbBase a) 1) 1

/-- A transaction opened. -/
def openTrans (s : State) (a : Nat) (t : Trans) : State := s.modArb a fun A => { A with open_ := A.open_ ++ [t] }

/-- The source of a write of the device's own, which nobody waits for. -/
def noAck : Nat := 2 ^ 32

/-- A coherent tile access carried out at the home pier once no host copy is left in its way, and acknowledged (R250). -/
def tileAccess (s : State) (r : CReq) : State :=
  match r.kind with
  | 2 =>
    let v := pierGet s r.line (hostSectors r.line)
    v.1.send (.tileAck r.src (v.2.1.setWidth 1024) 0 v.2.2)
  | 3 =>
    let sh := 64 * (r.line % 2)
    let p := (writePoison s (r.line / 2) (r.mask.setWidth 128 <<< sh)).isSome
    let s := lineStore s r.line r.mask r.data
    if r.src = noAck then s else s.send (.tileAck r.src 0 0 p)
  | _ =>
    let x := adderApply s r.addr r.addop r.opnd.toNat r.cmp.toNat
    x.1.send (.tileAck r.src (BitVec.ofNat 1024 x.2.old) x.2.flags x.2.poison)

/-- The arbiter acts on an accepted request of a line that is not busy (R246, R250). -/
def acceptReq (s : State) (a : Nat) (r : CReq) : State :=
  let A := s.arb a
  let s := bump s (unitCtr (homearbBase a) (if 2 ≤ r.kind then 3 else 0)) 1
  let sharers := A.sharers r.line
  match A.owner r.line, r.kind with
  | some y, 0 =>
    let s := s.modArb a fun A => A.setEntry r.line none (addNew [y] r.src)
    openTrans (sendFwd s a 0 y r.line) a { req := r, downwb := some y, needDone := true }
  | none, 0 =>
    let s := s.modArb a fun A => A.setEntry r.line none (addNew sharers r.src)
    openTrans (sendData s r.src r.line) a { req := r, needDone := true }
  | some y, 1 =>
    let s := s.modArb a fun A => A.setEntry r.line (some r.src) []
    openTrans (sendFwd s a 1 y r.line) a { req := r, needDone := true }
  | none, 1 =>
    let others := sharers.filter (· != r.src)
    let s := s.modArb a fun A => A.setEntry r.line (some r.src) []
    let s := sendInvs s a r.line others
    openTrans (if others = [] then sendData s r.src r.line else s) a { req := r, acks := others, needDone := true }
  | some y, 2 =>
    let s := s.modArb a fun A => A.setEntry r.line none [y]
    openTrans (sendFwd s a 0 y r.line) a { req := r, downwb := some y }
  | none, 2 => tileAccess s r
  | some y, _ =>
    let s := s.modArb a fun A => A.setEntry r.line none []
    openTrans (sendFwd s a 2 y r.line) a { req := r, downwb := some y }
  | none, _ =>
    let s := s.modArb a fun A => A.setEntry r.line none []
    if sharers = [] then tileAccess s r
    else openTrans (sendInvs s a r.line sharers) a { req := r, acks := sharers }

/-- The entries of the directory set of a line, most recently used first (R242). -/
def Arb.dirSet (A : Arb) (line : Nat) : List DirEntry :=
  A.dir.filter fun e => Config.dirSet e.line % 32768 == Config.dirSet line % 32768

/-- A host request for a line without an entry, whose set of 16 ways is full (R249). -/
def Arb.needsRoom (A : Arb) (r : CReq) : Bool :=
  decide (r.kind < 2) && (A.entry r.line).isNone && decide (16 ≤ (A.dirSet r.line).length)

/-- The entry that makes way for a new one: the set's least recently used one that belongs to no open transaction (R249). -/
def Arb.evictee (A : Arb) (line : Nat) : Option DirEntry := (A.dirSet line).reverse.find? fun e => !A.busy e.line

/-- A directory entry's eviction begun, on behalf of a request of another line (R249). -/
def startEvict (s : State) (a : Nat) (e : DirEntry) (r : CReq) : State :=
  let s := s.modArb a fun A =>
    { A.setEntry e.line none [] with dirEvict := satAdd 0xFFFF A.dirEvict 1, held := r :: A.held }
  let q : CReq := { kind := 5, src := 0, line := e.line, addr := r.line }
  match e.owner with
  | some y => openTrans (sendFwd s a 2 y e.line) a { req := q, downwb := some y }
  | none => openTrans (sendInvs s a e.line e.sharers) a { req := q, acks := e.sharers }

/-- A request of the table that the arbiter can act on: its line is not busy, and an entry it needs is to be had (R245, R249). -/
def Arb.servable (A : Arb) (r : CReq) : Bool := !A.busy r.line && (!A.needsRoom r || (A.evictee r.line).isSome)

/-- The arbiter acts on its request table in order of acceptance, each line's requests one after another (R245), and takes requests
in from their Truss credit while the table of 1,024 has room. A host request for a line without an entry may first evict one
(R249). -/
def serveHeld : Nat → State → Nat → State
  | 0, s, _ => s
  | n + 1, s, a =>
    let A := s.arb a
    match A.held.find? A.servable with
    | some r =>
      let s := s.modArb a fun A => { A with held := A.held.eraseP A.servable }
      serveHeld n (match (if A.needsRoom r then A.evictee r.line else none) with
        | some e => startEvict s a e r
        | none => acceptReq s a r) a
    | none => match A.credit with
      | [] => s
      | r :: rest =>
        if 1024 ≤ A.held.length then s else serveHeld n (s.modArb a fun A => { A with held := A.held ++ [r], credit := rest }) a

/-- The arbiter goes on with what it holds. -/
def serveArb (s : State) (a : Nat) : State := serveHeld (3 * ((s.arb a).held.length + (s.arb a).credit.length) + 3) s a

/-- A request reaches the arbiter (R245, R249). -/
def arbReq (s : State) (r : CReq) : State :=
  serveArb (s.modArb (homeArb r.line) fun A => { A with credit := A.credit ++ [r] }) (homeArb r.line)

/-- The open transaction of a line. -/
def Arb.trans (A : Arb) (line : Nat) : Option Trans := A.open_.find? fun t => t.req.line == line

/-- A transaction that has received everything it requires closes: a tile access acts, and held requests are served
(R245, R250). -/
def tryClose (s : State) (a line : Nat) : State :=
  match (s.arb a).trans line with
  | none => s
  | some t =>
    if t.acks ≠ [] ∨ t.downwb ≠ none ∨ t.needDone then s
    else
      let s := s.modArb a fun A => { A with open_ := A.open_.filter fun t => t.req.line != line }
      let s := if 2 ≤ t.req.kind ∧ t.req.kind < 5 then tileAccess s t.req else s
      serveArb s a

/-- The state with a function applied to the open transaction of a line. -/
def modTrans (s : State) (a line : Nat) (f : Trans → Trans) : State :=
  s.modArb a fun A => { A with open_ := A.open_.map fun t => if t.req.line = line then f t else t }

/-! ### Requests -/

/-- A cluster that takes part in coherence: it exists and is not parked (R238). -/
def State.awake (s : State) (cl : Nat) : Bool := !(s.cluster cl).parked

/-- GETS (R246). -/
def doGets (cl line : Nat) (s : State) : State :=
  if s.awake cl then arbReq s { kind := 0, src := cl, line := line } else s

/-- GETS. -/
def execGets (cl line : Nat) (s : State) : Host.Outcome State Fault Refusal :=
  require (decide (cl < Config.clusters) && inPool (64 * line)) (doGets cl line s)

/-- GETM (R246). For a line in its writeback buffer the cluster sends it once the WbAck has come (R247). -/
def doGetm (cl line : Nat) (s : State) : State :=
  if !s.awake cl then s
  else if (s.cluster cl).wb.any fun l => l.line == line then
    s.modCluster cl fun C => { C with waitM := addNew C.waitM line }
  else arbReq s { kind := 1, src := cl, line := line }

/-- GETM. -/
def execGetm (cl line : Nat) (s : State) : Host.Outcome State Fault Refusal :=
  require (decide (cl < Config.clusters) && inPool (64 * line)) (doGetm cl line s)

/-- TREAD (R250). -/
def doTread (id line : Nat) (s : State) : State := arbReq s { kind := 2, src := id, line := line }

/-- TREAD. -/
def execTread (id line : Nat) (s : State) : Host.Outcome State Fault Refusal :=
  require (inPool (64 * line)) (doTread id line s)

/-- TWRITE (R250). -/
def doTwrite (id line : Nat) (mask : BitVec 64) (val : BitVec 512) (s : State) : State :=
  arbReq s { kind := 3, src := id, line := line, mask := mask, data := val }

/-- TWRITE. -/
def execTwrite (id line : Nat) (mask : BitVec 64) (val : BitVec 512) (s : State) :
    Host.Outcome State Fault Refusal :=
  require (inPool (64 * line)) (doTwrite id line mask val s)

/-- TOP (R250): a coherent adder operation; an illegal one reaches no adder (R227). -/
def doTop (id addr : Nat) (addop : BitVec 8) (opnd cmp : BitVec 128) (s : State) : State :=
  if !aLegal addop || addr % aSize (aType addop) ≠ 0 then s
  else arbReq s { kind := 4, src := id, line := addr / 64, addr := addr, addop := addop, opnd := opnd, cmp := cmp }

/-- TOP. -/
def execTop (id addr : Nat) (addop : BitVec 8) (opnd cmp : BitVec 128) (s : State) :
    Host.Outcome State Fault Refusal :=
  require (inPool addr) (doTop id addr addop opnd cmp s)

/-! ### The clusters' part (R242, R243, R247, R251) -/

/-- A line that a cluster holds in M, or in its writeback buffer (R247). -/
def Cluster.dirty (C : Cluster) (line : Nat) : Option HLine :=
  (C.lines.find? fun l => l.line == line && l.m).or (C.wb.find? fun l => l.line == line)

/-- A cluster without a line in its L2; the reservations of its harts on it are lost. -/
def Cluster.drop (C : Cluster) (line : Nat) : Cluster :=
  { C with lines := C.lines.filter (fun l => l.line != line), res := C.res.filter fun e => e.2 != line }

/-- A cluster that keeps a line it held in M in S: its harts' reservations on it are lost. -/
def Cluster.share (C : Cluster) (line : Nat) : Cluster :=
  { C with lines := C.lines.map (fun x => if x.line = line then { x with m := false } else x), res := C.res.filter fun e => e.2 != line }

/-- The lines of the L2 set of a line, most recently used first (R236). -/
def Cluster.set (C : Cluster) (line : Nat) : List HLine := C.lines.filter fun l => Config.l2Set l.line % 2048 == Config.l2Set line % 2048

/-- A line put into a cluster's L2. Where its set of 16 ways is full, a line of it leaves: which one is a free value (assumption
149). A line in S goes silently; one in M goes to the writeback buffer, and a PutM is sent (R242, R247). -/
def installLine (s : State) (cl : Nat) (l : HLine) : State :=
  let s := s.modCluster cl fun C => C.drop l.line
  let set := (s.cluster cl).set l.line
  let s := if set.length < 16 then s
    else match set[s.freeVal % set.length]? with
      | none => s
      | some v =>
        let s := s.takeFree.modCluster cl fun C => { C.drop v.line with wb := if v.m then C.wb ++ [v] else C.wb }
        if v.m then toHome s cl vcWb 0 "PutM" v.line v.data v.poison else s
  s.modCluster cl fun C => { C with lines := l :: C.lines }

/-- FWDGETS (R243): the owner sends data to the requester and to memory, and keeps the line in S. A requester number
beyond the clusters stands for the arbiter (R250). -/
def doFwdgets (cl line req : Nat) (s : State) : State :=
  match (s.cluster cl).dirty line with
  | none => s
  | some l =>
    let s := if req < Config.clusters then sendCoh s (clusterEnd cl) (clusterEnd req) vcRsp 0 "Data" req line l.data l.poison else s
    (toHome s cl vcWb 1 "DownWB" line l.data l.poison).modCluster cl fun C => C.share line

/-- FWDGETS. -/
def execFwdgets (cl line req : Nat) (s : State) : Host.Outcome State Fault Refusal :=
  require (decide (cl < Config.clusters) && inPool (64 * line)) (doFwdgets cl line req s)

/-- FWDGETM (R243): the owner sends data to the requester and goes to I. -/
def doFwdgetm (cl line req : Nat) (s : State) : State :=
  match (s.cluster cl).dirty line with
  | none => s
  | some l =>
    (sendCoh s (clusterEnd cl) (clusterEnd req) vcRsp 0 "Data" req line l.data l.poison).modCluster cl fun C => C.drop line

/-- FWDGETM. -/
def execFwdgetm (cl line req : Nat) (s : State) : Host.Outcome State Fault Refusal :=
  require (decide (cl < Config.clusters) && inPool (64 * line) && decide (req < Config.clusters))
    (doFwdgetm cl line req s)

/-- FWDINV (R243): the owner writes the line back and goes to I. -/
def doFwdinv (cl line : Nat) (s : State) : State :=
  match (s.cluster cl).dirty line with
  | none => s
  | some l =>
    (toHome s cl vcWb 1 "DownWB" line l.data l.poison).modCluster cl fun C => C.drop line

/-- FWDINV. -/
def execFwdinv (cl line : Nat) (s : State) : Host.Outcome State Fault Refusal :=
  require (decide (cl < Config.clusters) && inPool (64 * line)) (doFwdinv cl line s)

/-- INV (R242, R243): a sharer goes to I and acknowledges; one that no longer holds the line acknowledges too. -/
def doInv (cl line : Nat) (s : State) : State :=
  if s.awake cl then toHome (s.modCluster cl fun C => C.drop line) cl vcRsp 1 "Ack" line 0 false else s

/-- INV. -/
def execInv (cl line : Nat) (s : State) : Host.Outcome State Fault Refusal :=
  require (decide (cl < Config.clusters) && inPool (64 * line)) (doInv cl line s)

/-- DATA (R246, R251): a cluster installs line data in S or M, and tells the arbiter that it is done; a poisoned
delivery raises HOST_POISON, whose hart is the first of the cluster (assumption 23). -/
def doData (cl line : Nat) (m : Bool) (val : BitVec 512) (poison : Bool) (s : State) : State :=
  if s.awake cl then
    let s := installLine s cl ⟨line, m, val, poison⟩
    let s := toHome s cl vcRsp 3 "Done" line 0 false
    if poison then logStored s 0x0107 4 (dieAbut (cl / 12)) [64 * line, 4 * cl] 7 0 else s
  else s

/-- DATA. -/
def execData (cl line : Nat) (m : Bool) (val : BitVec 512) (poison : Bool) (s : State) :
    Host.Outcome State Fault Refusal :=
  require (decide (cl < Config.clusters) && inPool (64 * line)) (doData cl line m val poison s)

/-- WBACK (R247): a cluster releases its writeback buffer, and a store or AMO that waited for it sends its GetM. -/
def doWback (cl line : Nat) (s : State) : State :=
  let waits := (s.cluster cl).waitM.contains line
  let s := s.modCluster cl fun C => { C with wb := C.wb.filter (fun l => l.line != line), waitM := C.waitM.filter (· != line) }
  if waits && s.awake cl then arbReq s { kind := 1, src := cl, line := line } else s

/-- WBACK. -/
def execWback (cl line : Nat) (s : State) : Host.Outcome State Fault Refusal :=
  require (decide (cl < Config.clusters) && inPool (64 * line)) (doWback cl line s)

/-! ### The arbiter's part (R245–R249) -/

/-- An invalidation of a cluster's copy is acknowledged: the last one of a GetM sends the data (R245, R246). -/
def takeInvAck (s : State) (cl line : Nat) : State :=
  let a := homeArb line
  match (s.arb a).trans line with
  | none => s
  | some t =>
    if t.acks.contains cl then
      let s := modTrans s a line fun t => { t with acks := t.acks.filter (· != cl) }
      let s := if t.acks.filter (· != cl) = [] ∧ t.req.kind = 1 then sendData s t.req.src line else s
      tryClose s a line
    else s

/-- PUTM (R246, R247): an M line that its cluster evicts, or has evicted already; the cluster keeps it in its writeback buffer until
WbAck. The owner's data is written to the pier; any other cluster's is discarded. `val` is what the message carries where the cluster
holds no such line. A parked cluster sends no message (R238). -/
def doPutm (cl line : Nat) (val : BitVec 512) (poison : Bool) (s : State) : State :=
  if !s.awake cl then s
  else
    let a := homeArb line
    let x : HLine := ((s.cluster cl).dirty line).getD ⟨line, true, val, poison⟩
    let s := s.modCluster cl fun C =>
      if C.lines.any fun l => l.line == line && l.m then
        { C.drop line with wb := C.wb.filter (fun l => l.line != line) ++ [x] }
      else C
    let s := if (s.arb a).owner line = some cl then
        writeBackLine (s.modArb a fun A => A.setEntry line none []) line x.data x.poison
      else s
    sendCoh s (homeEnd line) (clusterEnd cl) vcRsp 2 "WbAck" cl line 0 false

/-- PUTM. -/
def execPutm (cl line : Nat) (val : BitVec 512) (poison : Bool) (s : State) : Host.Outcome State Fault Refusal :=
  require (decide (cl < Config.clusters) && inPool (64 * line)) (doPutm cl line val poison s)

/-! ### Coherent accesses of the engines (R166, R232, R250) -/

/-- The host lines that `n` bytes from an address touch, when no transaction is open for any of them. -/
def State.linesIdle (s : State) (addr n : Nat) : Bool := (cwsOf addr n).all fun l => !(s.arb (homeArb l)).busy l

/-- A line made readable at its home pier: an owner writes back and keeps it in S (R250). A line with an open
transaction is left alone (assumption 27). -/
def cohShare (s : State) (line : Nat) : State :=
  let a := homeArb line
  if (s.arb a).busy line then s
  else match (s.arb a).owner line with
  | none => s
  | some y =>
    let s := s.modArb a fun A => A.setEntry line none [y]
    match (s.cluster y).dirty line with
    | none => s
    | some l => writeBackLine (s.modCluster y fun C => C.share line) line l.data l.poison

/-- Every host copy of a line removed, an owner's data written back first (R250). A line with an open transaction is
left alone (assumption 27). -/
def cohPurge (s : State) (line : Nat) : State :=
  let a := homeArb line
  if (s.arb a).busy line then s
  else
  let s := cohShare s line
  let s := forEach ((s.arb a).sharers line) (fun c s => s.modCluster c fun C => C.drop line) s
  s.modArb a fun A => A.setEntry line none []

/-- A coherent access passes the home arbiter of a line, which counts it (R250, R392). -/
def countTileReq (s : State) (line : Nat) : State := bump s (unitCtr (homearbBase (homeArb line)) 3) 1

/-- The packets of an access of a unit to at most one codeword of the pool: to its home pier on BULK, or through an extent with HC to the
line's home arbiter on REQ (R232, R257). `kind` is 0 read, 1 write, 2 adder operation. -/
def accessTrip (s : State) (e : Nat × Nat) (hc : Bool) (kind addr rq rs : Nat) : State :=
  if hc then roundTrip s vcReq vcRsp e (homeEnd (addr / 64)) (2 + kind) addr rq rs
  else roundTrip s vcBulk vcBulk e (diePier (s.home addr), unitHome) kind addr rq rs

/-- A coherent read of `n` bytes of the pool (R166, R232). -/
def cohRead (s : State) (addr n : Nat) : State × List Byte × Option Nat :=
  readPool (forEach (cwsOf addr n) (fun l s => countTileReq (cohShare s l) l) s) addr n

/-- A coherent write of bytes of the pool (R250). A line with an open transaction takes it once the transaction has closed
(R245). -/
def cohWrite (s : State) (addr : Nat) (bytes : List Byte) : State × Option Nat :=
  (cwsOf addr bytes.length).foldl (fun (r : State × Option Nat) cw =>
    let mask := halfMask (lineMask (cw / 2) addr bytes.length) (cw % 2)
    let v := BitVec.ofNat 512 (leNat bytes * 256 ^ (addr % 64) / 256 ^ (64 * (cw - addr / 64)))
    if (r.1.arb (homeArb cw)).busy cw then
      (arbReq r.1 { kind := 3, src := noAck, line := cw, mask := mask, data := v }, r.2)
    else
      let s := countTileReq (cohPurge r.1 cw) cw
      let p := writePoison s (cw / 2) (mask.setWidth 128 <<< (64 * (cw % 2)))
      (lineStore s cw mask v, r.2.or p)) (s, none)

/-! ### Interrupts (R252, R253, R254) -/

/-- A PCIe port in endpoint mode whose outbound range holds an address (R253, R437). -/
def endpointRange (s : State) (addr : Nat) : Bool :=
  (rangeFrom 0 Config.pciePorts).any fun n =>
    s.pcieMode n == 1 && decide (0x500000000000 + 2 ^ 40 * n ≤ addr) && decide (addr < 0x500000000000 + 2 ^ 40 * (n + 1))

/-- HOSTINT_CTL_WRITE (R253, R254): ENABLE under the address checks, and MASK; clearing MASK with PEND set sends the
MSI. An event in the same cycle (`ev`) is left in PEND. -/
def doHostintCtlWrite (n : Nat) (val : W32) (ev : Bool) (s : State) : State :=
  let e := s.hint n
  let addr := e.addrLo.toNat + 2 ^ 32 * e.addrHi.toNat
  let legal := (imsicFile addr).isSome || endpointRange s addr
  let enable := val.getLsbD 31 && (e.enable || legal)
  let mask := val.getLsbD 30
  let pend := e.pend && enable
  let s := s.setHint n { e with enable := enable, mask := mask, pend := (pend && mask) || (ev && enable) }
  if pend && !mask then sendMsi s n else s

/-- HOSTINT_CTL_WRITE. -/
def execHostintCtlWrite (n : Nat) (val : W32) (ev : Bool) (s : State) : Host.Outcome State Fault Refusal :=
  require (decide (n < 256)) (doHostintCtlWrite n val ev s)

/-- SETEIPNUM_WRITE (R252): a 32-bit write of an identity to a file's seteipnum register. -/
def doSeteipnumWrite (addr : Nat) (val : W32) (s : State) : State :=
  match imsicFile addr with
  | some f => if addr % 0x1000 = 0 then setIdentity s f val.toNat else s
  | none => s

/-- SETEIPNUM_WRITE. -/
def execSeteipnumWrite (addr : Nat) (val : W32) (s : State) : Host.Outcome State Fault Refusal :=
  require (decide (addr < Config.physEnd)) (doSeteipnumWrite addr val s)

/-- PCIE_PORT_EVENT (R253): a root port raises its HOSTINT entry. -/
def doPciePortEvent (port : Nat) (s : State) : State := if s.pcieMode port = 0 then raiseHost s (16 + port) else s

/-- PCIE_PORT_EVENT. -/
def execPciePortEvent (port : Nat) (s : State) : Host.Outcome State Fault Refusal :=
  require (decide (port < Config.pciePorts)) (doPciePortEvent port s)

/-- HOMEARB.STATUS of die `a` as it is read (R254). -/
def homearbStatus (A : Arb) : Nat := mkFld 16 16 A.dirEvict + mkFld 0 11 (min 1024 A.held.length)

/-- HOMEARB_STATUS_READ (R9): DIREVICT is returned and cleared; `ev` evictions in the same cycle stay. -/
def doHomearbStatusRead (a ev : Nat) (s : State) : State :=
  (s.modArb a fun A => { A with dirEvict := min 0xFFFF ev }).ret (homearbStatus (s.arb a))

/-- HOMEARB_STATUS_READ. -/
def execHomearbStatusRead (a ev : Nat) (s : State) : Host.Outcome State Fault Refusal :=
  require (decide (a < Config.abutments)) (doHomearbStatusRead a ev s)

end Sys2Proof.Machine
end

