-- ==== Sys2Proof/Machine/Belul.lean ====
section
/-!
DEFINITION. The Belul command interface (R328–R340, R444): the commit of a command, its pickup with the checks of its
header, the replies, and long operations. A command's own row acts through `command`.
-/

namespace Sys2Proof.Machine
open Sys2Proof

/-! ### Status codes (R340) -/

/-- Status codes of Belul replies. -/
def bsOk : Nat := 0x0000
/-- ACCEPTED. -/
def bsAccepted : Nat := 0x0001
/-- COMPLETED. -/
def bsCompleted : Nat := 0x0002
/-- ABORTED. -/
def bsAborted : Nat := 0x0003
/-- PARTIAL. -/
def bsPartial : Nat := 0x0004
/-- NOTHING_TO_ABORT. -/
def bsNothing : Nat := 0x0005
/-- CAP_BELOW_FLOOR. -/
def bsCapFloor : Nat := 0x0006
/-- BAD_OPCODE. -/
def bsBadOpcode : Nat := 0x0100
/-- BAD_HEADER. -/
def bsBadHeader : Nat := 0x0101
/-- BAD_PARAM. -/
def bsBadParam : Nat := 0x0102
/-- NOT_PERMITTED. -/
def bsNotPermitted : Nat := 0x0103
/-- BAD_ADDRESS. -/
def bsBadAddress : Nat := 0x0104
/-- PARAM_POISON. -/
def bsParamPoison : Nat := 0x0105
/-- BUF_SHORT. -/
def bsBufShort : Nat := 0x0106
/-- BUSY. -/
def bsBusy : Nat := 0x0107
/-- NOT_ABORTABLE. -/
def bsNotAbortable : Nat := 0x0108
/-- UNKNOWN_HANDLE. -/
def bsUnknownHandle : Nat := 0x0109
/-- NOT_READY. -/
def bsNotReady : Nat := 0x010A
/-- UNSUPPORTED. -/
def bsUnsupported : Nat := 0x010B
/-- TILE_STATE. -/
def bsTileState : Nat := 0x0200
/-- XLATE_FAULT. -/
def bsXlateFault : Nat := 0x0201
/-- TAG_BOUND. -/
def bsTagBound : Nat := 0x0202
/-- BAD_ROOT. -/
def bsBadRoot : Nat := 0x0203
/-- NO_FAULT. -/
def bsNoFault : Nat := 0x0204
/-- LOAD_ERROR. -/
def bsLoadError : Nat := 0x0205
/-- MEM_IN_USE. -/
def bsMemInUse : Nat := 0x0300
/-- MEM_NOT_READY. -/
def bsMemNotReady : Nat := 0x0301
/-- STACK_FAILED. -/
def bsStackFailed : Nat := 0x0302
/-- WAY_ENABLED. -/
def bsWayEnabled : Nat := 0x0303
/-- WAY_NOT_INVALIDATED. -/
def bsWayNotInv : Nat := 0x0304
/-- WAY_LIMIT. -/
def bsWayLimit : Nat := 0x0305
/-- LINK_DOWN. -/
def bsLinkDown : Nat := 0x0500
/-- NOT_HELD. -/
def bsNotHeld : Nat := 0x0501
/-- WINDOW_OPEN. -/
def bsWindowOpen : Nat := 0x0502
/-- NOT_IDLE. -/
def bsNotIdle : Nat := 0x0600
/-- SIG_INVALID. -/
def bsSigInvalid : Nat := 0x0900
/-- FLASH_ERROR. -/
def bsFlashError : Nat := 0x0901
/-- NOT_RECOVERY. -/
def bsNotRecovery : Nat := 0x0902
/-- NO_JOB. -/
def bsNoJob : Nat := 0x0B00
/-- JOB_ACTIVE. -/
def bsJobActive : Nat := 0x0B01

/-! ### Opcodes and permissions (R185, R210, R234, R272, R300, R326, R341) -/

/-- The clients that may use an opcode, bit c for client c; none where the opcode does not exist. -/
def opClients (op : Nat) : Option (List Nat) :=
  let all := [0, 1, 2]
  let host := [0, 1]
  if op = 0x0101 ∨ op = 0x0102 ∨ op = 0x0103 ∨ op = 0x0104 then some all
  else if 0x01F0 ≤ op ∧ op ≤ 0x01F3 then some all
  else if op = 0x0201 then some host
  else if op = 0x0202 then some all
  else if 0x0301 ≤ op ∧ op ≤ 0x0307 then some all
  else if 0x0401 ≤ op ∧ op ≤ 0x0407 then some host
  else if 0x0501 ≤ op ∧ op ≤ 0x0503 then some all
  else if 0x0504 ≤ op ∧ op ≤ 0x050B then some host
  else if op = 0x0601 ∨ op = 0x0602 ∨ op = 0x0606 then some all
  else if 0x0603 ≤ op ∧ op ≤ 0x0605 then some host
  else if 0x0701 ≤ op ∧ op ≤ 0x0707 then some (if op = 0x0706 then all else host)
  else if op = 0x0801 then some all
  else if op = 0x0802 then some host
  else if op = 0x0901 ∨ op = 0x0902 ∨ op = 0x0904 ∨ op = 0x0905 then some all
  else if op = 0x0903 then some [1, 2]
  else if 0x0A01 ≤ op ∧ op ≤ 0x0A03 then some all
  else if op = 0x0B03 then some all
  else if 0x0B01 ≤ op ∧ op ≤ 0x0B05 then some host
  else if 0x0C01 ≤ op ∧ op ≤ 0x0C07 then some host
  else none

/-- A client may use an opcode. -/
def permitted (op c : Nat) : Bool :=
  match opClients op with
  | some l => l.contains c
  | none => false

/-- Opcodes that the states HELD_FAULT and MIXED_UNQUALIFIED serve (R375, R377). -/
def heldServes (op : Nat) : Bool := [0x01F0, 0x0101, 0x0901, 0x0905, 0x0706, 0x0902, 0x0904].contains op

/-- Opcodes that a module awaiting a recovery image serves to clients 1 and 2 (R344). -/
def recoveryServes (op : Nat) : Bool := [0x01F0, 0x0101, 0x0901, 0x0903].contains op

/-- The module answers NOT_READY to an opcode of a client (R344, R375, R377). In S4 only POWER_STATE is taken, from
I3C. -/
def notReady (s : State) (c op : Nat) : Bool :=
  match s.boot.st with
  | .rom => !(s.power.idle == .s4 && c == 2 && op == 0x0602)
  | .starting => true
  | .recovery => !(recoveryServes op && c != 0)
  | .heldFault => !heldServes op
  | .mixedUnqualified => !heldServes op
  | .running => s.power.idle == .s4 && !(c == 2 && op == 0x0602)

/-! ### Commit and pickup (R330–R334, R444 steps 1–5) -/

/-- The byte address of an offset in the BELUL block of client `c`. -/
def belulAt (c off : Nat) : Nat := 0x10000 * c + off

/-- The sequence number that a slot expects (R331). -/
def Slot.expected (sl : Slot) : W32 := if sl.lastSeq = 0xFFFFFFFF#32 then 1 else sl.lastSeq + 1

/-- A commit word is valid (R333). -/
def Slot.valid (sl : Slot) (word : W64) : Bool :=
  fld word.toNat 48 16 == 0xBE1C && fld word.toNat 32 16 == 0 && word.setWidth 32 == sl.expected && !sl.busy

/-- A field of command slot `n` of client `c`. -/
def slotField (s : State) (c n off len : Nat) : Nat := Memory.le s.belul.bytes (belulAt c (0x100 * n + off)) len

/-- The copy that the processor takes of a slot (R334). -/
def pickOf (s : State) (c n : Nat) : Picked :=
  let f := slotField s c n
  { opcode := f 0 2, irq := bitAt (f 2 2) 1, ind := bitAt (f 2 2) 0, tag := f 4 2, plen := f 6 2, rptr := f 0x10 8,
    rlen := f 0x18 4, seq := (s.slot c n).lastSeq }

/-- The header breaks R330. -/
def badHeader (s : State) (c n : Nat) : Bool :=
  let f := slotField s c n
  let ind := bitAt (f 2 2) 0
  decide (f 2 2 / 4 ≠ 0) || decide ((if ind then 4096 else 216) < f 6 2) || f 8 8 % 64 != 0 ||
    (!ind && f 8 8 != 0) || f 0x10 8 % 64 != 0 || f 0x18 4 % 64 != 0 || decide (65536 < f 0x18 4) || f 0x1C 4 != 0

/-- A buffer of `len` bytes lies outside what a client's pointers may name (R330). -/
def badBuffer (c ptr len : Nat) : Bool :=
  match c with
  | 0 => decide (Config.poolBytes < ptr + len) || decide (Config.poolBytes ≤ ptr)
  | 1 => false
  | _ => decide (0x8000 < ptr + len) || decide (0x8000 ≤ ptr)

/-- PPTR or RPTR lies outside its range (R444 step 5). -/
def badPointer (s : State) (c n : Nat) : Bool :=
  let f := slotField s c n
  (bitAt (f 2 2) 0 && badBuffer c (f 8 8) (f 6 2)) || (f 0x10 8 != 0 && badBuffer c (f 0x10 8) (f 0x18 4))

/-- The first of the statuses of R444 steps 1–5 that applies to a committed command. -/
def pickStatus (s : State) (c n : Nat) : Option Nat :=
  let op := (pickOf s c n).opcode
  if notReady s c op then some bsNotReady
  else if badHeader s c n then some bsBadHeader
  else if (opClients op).isNone then some bsBadOpcode
  else if !permitted op c then some bsNotPermitted
  else if badPointer s c n then some bsBadAddress
  else none

/-! ### Replies (R336, R337) -/

/-- Bytes of reply data. -/
def dataLen (d : List (Nat × Nat)) : Nat := d.foldl (fun a f => a + f.1) 0
/-- Reply data as bytes, each field little-endian (R4). -/
def dataBytes (d : List (Nat × Nat)) : List Byte := d.flatMap fun f => leBytes f.1 f.2

/-- Reply data that is longer than the slot goes to the reply buffer (R336). -/
def writeBuffer (s : State) (c rptr : Nat) (d : List Byte) : State :=
  match c with
  | 0 => (cohWrite s rptr d).1
  | 1 => s.send (.dma rptr d)
  | _ => s.modBelul fun b => { b with bytes := Memory.put b.bytes (belulAt 2 (0x8000 + rptr)) d }

/-- The interrupt of an ACCEPTED or FINAL reply of a command with IRQ set (R342, R343). -/
def replyIrq (s : State) (c n : Nat) : State :=
  match c with
  | 0 => raiseHost s 1
  | 1 => raiseHost s 2
  | _ => if s.i3c.ibi && s.i3c.addr.isSome then s.send (.ibi (0xA0 + n)) else s

/-- A reply written under R337: the update count rises by one, and the marker is valid. -/
def putReply (s : State) (c n : Nat) (p : Picked) (r : Reply) : State :=
  let old := (s.slot c n).reply
  let upd : BitVec 16 := if old.seq = p.seq then old.upd + 1 else 1
  s.modSlot c n fun sl =>
    { sl with reply := { r with opcode := p.opcode, tag := p.tag, marker := 0xBE1D, seq := p.seq, upd := upd } }

/-- The fields of reply data that a reply carries: in the slot where they fit, else in the buffer. -/
def withData (r : Reply) (d : List (Nat × Nat)) : Reply :=
  { r with rdlen := dataLen d, rbuf := decide (216 < dataLen d), data := d }

/-- A FINAL reply of a command that is not a long operation, or that is refused before it is accepted (R338). The slot
is free once it is committed. Data that fits neither the slot nor the buffer is refused with BUF_SHORT (R336). -/
def replyFinal (s : State) (c n : Nat) (p : Picked) (status : Nat) (d : List (Nat × Nat)) : State :=
  let short : Bool := decide (216 < dataLen d) && (decide (p.rlen < dataLen d) || p.rptr == 0)
  let s := if !short && decide (216 < dataLen d) then writeBuffer s c p.rptr (dataBytes d) else s
  let r : Reply := { status := if short then bsBufShort else status, final := true }
  let s := putReply s c n p (withData r (if short then [(4, dataLen d)] else d))
  let s := s.modSlot c n fun sl => { sl with busy := false, picked := none, running := none }
  if p.irq then replyIrq s c n else s

/-- The handle of a long operation (R338). -/
def handleOf (c n : Nat) (seq : W32) : Nat := c * 2 ^ 30 + n * 2 ^ 25 + seq.toNat % 2 ^ 25

/-- A command accepted as a long operation: the ACCEPTED reply, and the operation in progress (R338). -/
def acceptLong (s : State) (c n : Nat) (p : Picked) (punit total : Nat) (left : List Nat) : State :=
  let h := handleOf c n p.seq
  let s := putReply s c n p { status := bsAccepted, long := true, handle := h, punit := punit, total := total }
  let s := s.modSlot c n fun sl => { sl with picked := none, running := some p }
  let s := s.modBelul fun b => { b with ops := b.ops ++ [⟨h, c, n, p.opcode, punit, 0, total, left, none⟩] }
  if p.irq then replyIrq s c n else s

/-- The long operation with a handle. -/
def State.op (s : State) (h : Nat) : Option LongOp := s.belul.ops.find? (fun o => o.handle == h)

/-- The first long operation of an opcode. -/
def State.opOf (s : State) (opcode : Nat) : Option LongOp := s.belul.ops.find? (fun o => o.opcode == opcode)

/-- A long operation with a function applied. -/
def modOp (s : State) (h : Nat) (f : LongOp → LongOp) : State :=
  s.modBelul fun b => { b with ops := b.ops.map fun o => if o.handle = h then f o else o }

/-- The reply of a long operation rewritten with status ACCEPTED and the position reached, at most once every 100 ticks (R338). -/
def showPosition (s : State) (h : Nat) : State :=
  match s.op h with
  | none => s
  | some o =>
    if (match o.wrote with
      | some b => decide (s.tick.boundaries < b + 100)
      | none => false) then s
    else
      match (s.slot o.client o.slot).running with
      | none => s
      | some p =>
        putReply (modOp s h fun o => { o with wrote := some s.tick.boundaries }) o.client o.slot p
          { (s.slot o.client o.slot).reply with position := o.position, total := o.total }

/-- The position of a long operation changed (R338). -/
def setPosition (s : State) (h pos : Nat) : State :=
  match s.op h with
  | none => s
  | some o => if o.position = pos then s else showPosition (modOp s h fun o => { o with position := pos }) h

/-- The replies that do not show their operation's position yet, at a tick boundary (R338). -/
def showPositions (s : State) : State :=
  forEach (s.belul.ops.filter fun o => (s.slot o.client o.slot).reply.position != o.position) (fun o s => showPosition s o.handle) s

/-- The FINAL reply of a long operation, with its last position (R338). -/
def finishOp (s : State) (h status : Nat) (d : List (Nat × Nat)) : State :=
  match s.op h with
  | none => s
  | some o =>
    let s := s.modBelul fun b => { b with ops := b.ops.filter fun o => o.handle != h }
    match (s.slot o.client o.slot).running with
    | none => s
    | some p =>
      let short : Bool := decide (216 < dataLen d) && (decide (p.rlen < dataLen d) || p.rptr == 0)
      let s := if !short && decide (216 < dataLen d) then writeBuffer s o.client p.rptr (dataBytes d) else s
      let r : Reply := { status := if short then bsBufShort else status, long := true, final := true, handle := h,
                         punit := o.punit, position := o.position, total := o.total }
      let s := putReply s o.client o.slot p (withData r (if short then [(4, dataLen d)] else d))
      let s := s.modSlot o.client o.slot fun sl => { sl with busy := false, running := none }
      if p.irq then replyIrq s o.client o.slot else s

/-- A command picked up: the slot is copied and checked (R334, R444 steps 1–5). -/
def pickup (s : State) (c n : Nat) : State :=
  let p := pickOf s c n
  match pickStatus s c n with
  | some st => replyFinal s c n p st []
  | none => s.modSlot c n fun sl => { sl with picked := some p }

/-- BELUL_COMMIT (R333): a write to the commit word of a command slot. A valid one sets BUSY, and the command is
picked up; any other is ignored and counted. -/
def doBelulCommit (c n : Nat) (word : W64) (s : State) : State :=
  let sl := s.slot c n
  if !s.boot.stby then s
  else if sl.valid word then
    pickup (s.modSlot c n fun sl => { sl with busy := true, lastSeq := word.setWidth 32 }) c n
  else if sl.busy then
    s.modBelul fun b => { b with overrun := Tab.set 0 b.overrun c (satAdd 0xFFFF (Tab.get 0 b.overrun c) 1) }
  else countBadCommit s c

/-- BELUL_COMMIT. -/
def execBelulCommit (c n : Nat) (word : W64) (s : State) : Host.Outcome State Fault Refusal :=
  require (decide (c < 3) && decide (n < 32)) (doBelulCommit c n word s)

/-! ### The rows of the commands (R444 steps 6–8) -/

/-- The first status of a list of checks whose condition holds. -/
def firstBad : List (Bool × Nat) → Option Nat
  | [] => none
  | (b, st) :: r => if b then some st else firstBad r

/-- A status that a parameter gives, before the statuses of the unit (R444 steps 7 and 9). -/
def ofParam (x : Bool × Nat) : Bool := x.2 == bsBadParam || x.2 == bsBadAddress

/-- A picked-up command of an opcode acts: its checks in the order of R444, with the reply buffer against the largest reply of a
command that changes state, then its effect. A slot that holds no such command changes nothing; a module in S1–S3 acts
on no command until it has woken (R365). -/
def command (r : Req) (opcode : Nat) (bad : List (Bool × Nat)) (largest : Nat)
    (act : Picked → State → State) (s : State) : State :=
  match (s.slot r.client r.slot).picked with
  | none => s
  | some p =>
    if p.opcode ≠ opcode ∨ (s.power.idle ≠ .s0 ∧ opcode ≠ 0x0602) then s
    else
      let short : Bool := decide (216 < largest) && (decide (p.rlen < largest) || p.rptr == 0)
      match firstBad ([(p.ind && r.poison, bsParamPoison), (r.rsv, bsBadParam)] ++ bad.filter ofParam ++ [(short, bsBufShort)] ++
          bad.filter fun x => !ofParam x) with
      | some st => replyFinal s r.client r.slot p st (if st = bsBufShort then [(4, largest)] else [])
      | none => act p s

/-- A row's slot exists. -/
def okReq (r : Req) : Bool := decide (r.client < 3) && decide (r.slot < 32)

/-- The effect of a command that replies at once. -/
def replying (r : Req) (status : Nat) (d : List (Nat × Nat)) (p : Picked) (s : State) : State :=
  replyFinal s r.client r.slot p status d

/-- The 256 bytes of a reply slot (R331, R336). -/
def replyBytes (r : Reply) : List Byte :=
  let d := if r.rbuf then [] else dataBytes r.data
  leBytes 2 r.opcode ++ leBytes 2 r.status ++ leBytes 2 r.tag ++ leBytes 2 r.rdlen ++ leBytes 4 r.handle ++
    leBytes 1 (bitNat r.long + 2 * bitNat r.final + 4 * bitNat r.rbuf) ++ leBytes 1 r.punit ++ leBytes 2 0 ++
    leBytes 8 r.position ++ leBytes 8 r.total ++ d ++ List.replicate (216 - d.length) 0 ++
    leBytes 4 r.seq.toNat ++ leBytes 2 r.upd.toNat ++ leBytes 2 r.marker

end Sys2Proof.Machine
end

