-- ==== Sys2Proof/Machine/Port.lean ====
section
/-!
DEFINITION. The two sides of an optical port: link headers and packet headers (R280, R281), virtual channels and credit (R282), the
replay buffer (R284), and the flits that a port counts (R392). Credits and acknowledgements come back in time, which the model does not
count: each time a port has something to send, a free value says how many have (assumption 151).
-/

namespace Sys2Proof.Machine
open Sys2Proof

/-! ### Headers (R280, R281) -/

/-- The virtual channel of a packet: CLASS, DL and LEVEL (R282). -/
def vcOf (cls : Nat) (dl : Bool) (level : Nat) : Nat := cls + 8 * bitNat dl + 16 * level

/-- The channel of the packets of class CTRL that a node sends to its neighbours. -/
def vcCtrl : Nat := 4

/-- Flits that the input port at the other end buffers for a channel (R282). -/
def vcFlits (vc : Nat) : Nat := if vc / 16 = 0 then 64 else 24

/-- Flits of a packet by the bytes of its payload (R280). -/
def flitsFor (len : Nat) : Nat := 1 + ceilDiv (len - 208) 240

/-- Flits of a packet (R280). -/
def flitsOf (p : Pkt) : Nat := flitsFor p.payload.length

/-- A link header with its CRC-16 (R280): KIND, FSEQ, the acknowledgement, VC, one credit return by channel and flits, FLEN and CTL. -/
def linkHeader (kind fseq : Nat) (ack : Option Nat) (vc : Nat) (credit : Nat × Nat) (flen ctl : Nat) : List Byte :=
  let b := leBytes 2 (mkFld 10 2 kind + mkFld 0 10 fseq) ++ leBytes 2 (mkBit 15 ack.isSome + mkFld 0 10 (ack.getD 0)) ++
    leBytes 2 (mkFld 0 6 vc) ++ leBytes 2 (mkFld 0 6 credit.1 + mkFld 6 8 credit.2) ++ leBytes 4 0 ++ leBytes 1 flen ++ leBytes 1 ctl
  b ++ leBytes 2 (crc16 b).toNat

/-- A packet header with its CRC-16 (R281). -/
def packetHeader (p : Pkt) : List Byte :=
  let b := leBytes 1 (mkFld 5 3 p.cls + mkFld 0 5 p.typ) ++
    leBytes 1 (mkBit 7 (p.ver == 1) + mkFld 5 2 p.level + mkBit 4 p.dl + mkBit 3 p.poison) ++ leBytes 2 (mkFld 0 13 p.len) ++
    leBytes 3 (mkFld 20 2 p.plane + mkFld 0 20 p.dphys) ++ leBytes 1 (mkFld 0 6 p.hops) ++
    leBytes 4 (mkFld 24 8 p.depoch + mkFld 0 24 p.dlog) ++ leBytes 3 (mkFld 0 20 p.sphys) ++ leBytes 1 p.aux ++
    leBytes 4 (mkFld 24 8 p.sepoch + mkFld 0 24 p.slog) ++ leBytes 2 p.job ++ leBytes 2 p.tag ++ leBytes 6 p.addr
  b ++ leBytes 2 (crc16 b).toNat

/-! ### Credit and turns (R282) -/

/-- Flits of credit that a port holds for a channel. -/
def OPort.credit (o : OPort) (vc : Nat) : Nat := vcFlits vc - Tab.get 0 o.used vc

/-- Flits in the replay buffer of a port. -/
def OPort.kept (o : OPort) : Nat := o.unacked.foldl (fun n e => n + e.2.1) 0

/-- An entry of the queue may leave: the port carries its class (R279), the next port holds credit for all of its flits (R282), and the
replay buffer has room for them (R284). -/
def OPort.maySend (o : OPort) (e : Nat × Nat × Out) : Bool :=
  decide (if e.1 % 8 = vcCtrl then 2 ≤ o.st else 3 ≤ o.st) && decide (e.2.1 ≤ o.credit e.1) && decide (o.kept + e.2.1 ≤ 1024)

/-- The oldest entries of each channel that may leave. -/
def OPort.ready (o : OPort) : List (Nat × Nat × Out) :=
  (o.queue.filter fun e => (o.queue.find? fun x => x.1 == e.1) == some e).filter o.maySend

/-- The entry whose channel comes next after the one served last. -/
def nextVc (last : Nat) : List (Nat × Nat × Out) → Option (Nat × Nat × Out)
  | [] => none
  | e :: l => match nextVc last l with
    | none => some e
    | some x => if (x.1 + 63 - last) % 64 < (e.1 + 63 - last) % 64 then some x else some e

/-- The entry that leaves next: CTRL with strict priority up to one flit in eight, the others round-robin (R282). -/
def OPort.turn (o : OPort) : Option (Nat × Nat × Out) :=
  let others := o.ready.filter fun e => e.1 % 8 != vcCtrl
  match o.ready.find? fun e => e.1 % 8 == vcCtrl with
  | some e => if 7 ≤ o.sinceCtrl ∨ others = [] then some e else nextVc o.lastVc others
  | none => nextVc o.lastVc others

/-- What leaves as flit `fseq`: a packet with the headers of its head flit. -/
def stampOut (o : OPort) (vc : Nat) (x : Out) : Out :=
  match x with
  | .pkt port p _ =>
    .pkt port { p with fseq := o.fseq }
      (linkHeader 1 o.fseq o.rxLast vc (0, 0) (min 208 p.payload.length) 0 ++ packetHeader p)
  | x => x

/-- An entry of the queue leaves: it takes its flits of credit and its numbers, and the replay buffer keeps it. -/
def leavePort (x : Nat) (e : Nat × Nat × Out) (s : State) : State :=
  let o := s.port x
  let y := stampOut o e.1 e.2.2
  (s.modPort x fun o =>
    { o with queue := o.queue.erase e, fseq := (o.fseq + e.2.1) % 1024, unacked := o.unacked ++ [(o.fseq, e.2.1, y)],
             used := Tab.set 0 o.used e.1 (Tab.get 0 o.used e.1 + e.2.1), lastVc := if e.1 % 8 = vcCtrl then o.lastVc else e.1,
             sinceCtrl := if e.1 % 8 = vcCtrl then 0 else o.sinceCtrl + e.2.1 }).send y

/-- All that may leave a port leaves. -/
def drainPort (x : Nat) : Nat → State → State
  | 0, s => s
  | n + 1, s => match (s.port x).turn with
    | none => s
    | some e => drainPort x n (leavePort x e s)

/-- Credits of a channel that have come back: a free value of those in use. -/
def creditBack (x vc : Nat) (s : State) : State :=
  let u := Tab.get 0 (s.port x).used vc
  if u = 0 then s
  else (s.modPort x fun o => { o with used := Tab.set 0 o.used vc (u - s.freeVal % (u + 1)) }).takeFree

/-- Entries of the replay buffer that have been acknowledged: a free value of those kept. -/
def ackBack (x : Nat) (s : State) : State :=
  let n := (s.port x).unacked.length
  if n = 0 then s else (s.modPort x fun o => { o with unacked := o.unacked.drop (s.freeVal % (n + 1)) }).takeFree

/-- A port goes on with what waits for credit. -/
def pumpPort (x : Nat) (s : State) : State :=
  if (s.port x).queue = [] then s
  else
    let s := forEach ((s.port x).queue.map (·.1)) (fun vc s => creditBack x vc s) (ackBack x s)
    drainPort x (s.port x).queue.length s

/-- Something of `n` flits leaves on a channel of a port, or waits there for credit (R282). -/
def emit (s : State) (x vc n : Nat) (o : Out) : State :=
  pumpPort x (s.modPort x fun p => { p with queue := p.queue ++ [(vc, n, o)] })

/-- A control flit leaves: it takes a number and no credit (R280). -/
def sendControl (s : State) (x : Nat) (o : Out) : State :=
  (s.modPort x fun p => { p with fseq := (p.fseq + 1) % 1024, unacked := (p.unacked ++ [(p.fseq, 1, o)]).drop (p.unacked.length - 1023) }).send o

/-- A CTRL packet of `n` flits that starts here leaves on a port, which counts it (R307, R392). -/
def sendCtrlFlits (s : State) (port n : Nat) (o : Out) : State :=
  emit (bump s (unitCtr (oportBase port) 0) n) port vcCtrl n o

/-- A CTRL packet of one flit that starts here leaves on a port, which counts it (R307, R392). -/
def sendCtrl (s : State) (port : Nat) (o : Out) : State := sendCtrlFlits s port 1 o

/-! ### Arriving flits (R282, R284) -/

/-- Flits of a packet arrive in order, the last with a number, and leave the input buffer: the port counts them (R392), and returns
their acknowledgement and their credit in an idle flit (R280, R284). -/
def recvFlits (s : State) (x vc n last : Nat) : State :=
  let s := bump s (unitCtr (oportBase x) 2) n
  let s := s.modPort x fun o => { o with rxLast := some (last % 1024), rxWait := none }
  s.send (.idle x (linkHeader 0 (s.port x).fseq (s.port x).rxLast 0 (vc, n) 0 0))

/-- The number of the flit that follows the last one received. -/
def OPort.rxNext (o : OPort) : Nat :=
  match o.rxLast with
  | some n => (n + 1) % 1024
  | none => 0

/-- A CTRL packet of one flit that arrives on a port, which counts it (R392). -/
def countCtrl (s : State) (port : Nat) : State := recvFlits s port vcCtrl 1 (s.port port).rxNext

end Sys2Proof.Machine
end

