-- ==== Sys2Proof/Machine/Talcy.lean ====
section
/-!
DEFINITION. Talcy trace, freezes, snapshots and the event log's commands (R386–R405): the trace units' writes and
triggers, and the commands of the OBSERVE family except the halt group.
-/

namespace Sys2Proof.Machine
open Sys2Proof

/-! ### Records and lines (R399) -/

/-- The 32 bytes of a trace record, with its PHASE (R399). -/
def traceBytes (r : TraceRec) (phase : Nat) : List Byte :=
  leBytes 4 (mkFld 27 5 r.typ + mkFld 25 2 r.queue + mkFld 12 12 r.tag + mkFld 0 11 r.tile) ++
    leBytes 4 r.tick.toNat ++ leBytes 2 phase ++ leBytes 2 r.aux ++ leBytes 4 r.pc.toNat ++ leBytes 8 r.va ++
    leBytes 8 r.data.toNat

/-- Lines of one unit's quarter of the trace region (R403). -/
def State.quarterLines (s : State) : Nat := 2 ^ s.talcy.cfg.sizeLog2 / 4 / 128

/-- Address of line `n` of unit `p`'s quarter. -/
def State.traceLine (s : State) (p n : Nat) : Nat :=
  s.talcy.cfg.base + p * (2 ^ s.talcy.cfg.sizeLog2 / 4) + 128 * n

/-- Unit `p` writes its line of records, padded with records of type 0, as one whole line (R399). The PHASE of each
record is a free value (assumption 12). -/
def writeTraceLine (s : State) (p : Nat) : State :=
  let u := s.traceUnit p
  let ph := s.freeVal
  let s := s.takeFree
  let bytes := (u.line.flatMap fun r => traceBytes r ph) ++ List.replicate (128 - 32 * u.line.length) 0
  let s := (writePool s (s.traceLine p u.pos) bytes).1
  let next := u.pos + 1
  s.setTraceUnit p { u with line := [], pos := if next = s.quarterLines then 0 else next,
                            wrapped := u.wrapped || next == s.quarterLines, left := u.left.map (· - 1) }

/-- A unit's line in progress padded and written, if it holds a record. -/
def padLine (s : State) (p : Nat) : State := if (s.traceUnit p).line = [] then s else writeTraceLine s p

/-- Unit `p` writes queued records while it has lines left of its budget; a whole line is written, and one that
starts with the TRIGGER record is outside the budget (R402, R403). -/
def writeRecords : Nat → State → Nat → Nat → State
  | 0, s, _, _ => s
  | fuel + 1, s, p, budget =>
    let u := s.traceUnit p
    match u.queue with
    | [] => s
    | r :: rest =>
      if u.left = some 0 ∨ u.stopped then s
      else
        let free : Bool := match u.line with
          | h :: _ => h.typ == 13
          | [] => false
        if budget = 0 ∧ !free then s
        else
          let s := s.setTraceUnit p { u with queue := rest, line := u.line ++ [r] }
          if u.line.length + 1 = 4 then writeRecords fuel (writeTraceLine s p) p (if free then budget else budget - 1)
          else writeRecords fuel s p budget

/-- The GAP record that a unit writes first in a tick after shedding (R402). -/
def gapRecord (s : State) (u : TraceUnit) : TraceRec :=
  { typ := 14, tick := s.tick.num.setWidth 32, aux := min 0xFFFF (s.tick.boundaries - u.shedTick),
    data := BitVec.ofNat 64 (u.shed % 2 ^ 32 + u.shedTypes.toNat * 2 ^ 48) }

/-- One tick of unit `p`: the GAP record where records were shed, then records within CAP × 8 lines (R402). -/
def traceTick (p : Nat) (s : State) : State :=
  if (s.traceUnit p).stopped then s
  else
    let s := gatherTrace s p
    let u := s.traceUnit p
    let s := if u.shed = 0 then s
      else
        let s := s.setTraceUnit p
          { u with queue := gapRecord s u :: u.queue, shed := 0, shedTypes := 0, shedTick := s.tick.boundaries }
        s.modTalcy fun y => { y with gaps := satAdd 0xFF y.gaps 1 }
    writeRecords 2049 s p (8 * s.talcy.cfg.cap)

/-! ### Freezes (R396, R397) -/

/-- Ports that are OPEN or HELD (R307, R396). -/
def State.openOrHeld (s : State) : List Nat := (rangeFrom 0 Config.ports).filter fun p => decide (2 ≤ (s.port p).st)

/-- A freeze or thaw scheduled for a boundary; late where the boundary has passed (R396, R397). -/
def scheduleFreeze (s : State) (tick : Nat) (thaw : Bool) : State :=
  s.modCtrs fun c => { c with sched := c.sched ++ [(tick, thaw, decide (tick ≤ s.tick.num.toNat))] }

/-- A FREEZE of the whole machine started at this node: the packet on every OPEN or HELD port (R396). -/
def machineFreeze (s : State) (tick : Nat) (thaw : Bool) : State :=
  let s := s.modCtrs fun c => { c with seen := (tick, s.node.phys, thaw) :: c.seen }
  let s := forEach s.openOrHeld (fun p s => sendCtrl s p (.freeze p tick s.node.phys thaw)) s
  scheduleFreeze s tick thaw

/-! ### Triggers (R403, R404) -/

/-- A trigger of a code for a tag fires where trace is ARMED for it: each unit pads its line and starts a new one
with the TRIGGER record; HOSTINT entry 4 is raised; and a freeze starts where FRZ says so (R401, R403, R404). -/
def fireTrigger (s : State) (code tag : Nat) : State :=
  let y := s.talcy
  if y.st ≠ 1 ∨ y.cfg.trig ≠ code ∨ code = 0 ∨ !s.tagPasses tag then s
  else
    let share := (16 - y.cfg.pre) * s.quarterLines / 16
    let s := s.modTalcy fun y => { y with st := 2 }
    let rec_ : TraceRec :=
      { typ := 13, tick := s.tick.num.setWidth 32, aux := code, data := BitVec.ofNat 64 (s.tick.num.toNat / 2 ^ 32) }
    let s := forEach [0, 1, 2, 3] (fun p s =>
      let s := padLine s p
      let u := s.traceUnit p
      s.setTraceUnit p { u with line := [rec_], left := some share }) s
    let s := raiseHost s 4
    if y.cfg.frz then
      machineFreeze s (s.tick.num.toNat + (if y.cfg.frzDelay = 0 then 100 else y.cfg.frzDelay)) false
    else s

/-- A MARK record, and trigger code 1 where its value is TRIGVAL (R400, R404). -/
def doTmarkWrite (v : View) (t : Nat) (val : W32) (s : State) : State :=
  let T := s.tile t
  if s.traceOn ∧ s.typeOn 9 ∧ s.tagPasses T.space then
    let pc := match v with
      | .core => T.core.pc
      | .device => 0
    let s := traceTile s t { typ := 9, tag := T.space, pc := pc, data := val.setWidth 64 }
    if val = s.talcy.cfg.trigVal then fireTrigger s 1 T.space else s
  else s

/-- TMARK_WRITE. -/
def execTmarkWrite (v : View) (t : Nat) (val : W32) (s : State) : Host.Outcome State Fault Refusal :=
  require (okTile t) (doTmarkWrite v t val s)

/-- TALCY_TRIGGER_WRITE (R404): trigger code 8. It is for no tag, so a tag filter does not hold it back. -/
def doTalcyTriggerWrite (s : State) : State := fireTrigger s 8 (fld s.talcy.cfg.tagf.toNat 0 12)

/-- TALCY_TRIGGER_WRITE. -/
def execTalcyTriggerWrite (_val : W32) (s : State) : Host.Outcome State Fault Refusal :=
  require true (doTalcyTriggerWrite s)

/-! ### The trace commands (R401, R403) -/

/-- A TRACE_CONFIG parameter lies outside its range (R401). -/
def traceBad (c : TraceCfg) : Bool :=
  let size := if c.sizeLog2 = 0 then 32 else c.sizeLog2
  decide (size < 26 ∨ 36 < size) || c.base % 2 ^ size != 0 || decide (Config.poolBytes < c.base + 2 ^ size) ||
    decide (8 < c.cap) || decide (15 < c.pre) || decide (8 < c.trig) || c.srcMask &&& ~~~0x8FFE#16 != 0 ||
    fld c.tagf.toNat 12 3 != 0 || (c.pcLog2 != 0 && decide (c.pcLog2 < 10 ∨ 24 < c.pcLog2)) ||
    (c.frzDelay != 0 && decide (c.frzDelay < 10)) || decide (65535 < c.frzDelay)

/-- A configuration with its zero defaults filled in (R401). -/
def traceDefaults (c : TraceCfg) : TraceCfg :=
  { c with sizeLog2 := if c.sizeLog2 = 0 then 32 else c.sizeLog2, cap := if c.cap = 0 then 4 else c.cap,
           frzDelay := if c.frzDelay = 0 then 100 else c.frzDelay }

/-- TRACE_CONFIG (R401). -/
def doTraceConfig (r : Req) (cfg : TraceCfg) (s : State) : State :=
  command r 0x0703 [(traceBad cfg, bsBadParam)] 0 (fun p s =>
    if s.traceOn then replying r bsBusy [] p s
    else replying r bsOk [] p (s.modTalcy fun y => { y with cfg := traceDefaults cfg })) s

/-- TRACE_CONFIG. -/
def execTraceConfig (r : Req) (cfg : TraceCfg) (s : State) : Host.Outcome State Fault Refusal :=
  require (okReq r) (doTraceConfig r cfg s)

/-- START and LOAD records of a tile at the arming of trace (R403). -/
def armTile (t : Nat) (s : State) : State :=
  let T := s.tile t
  if T.st = .loaded ∨ T.st = .run ∨ T.st = .halted then
    let s := traceTile s t { typ := 11, tag := T.space, pc := T.entry, data := T.arg.setWidth 64 }
    forEach (T.loads.reverse.take 4).reverse (fun l s =>
      traceTile s t { typ := 10, tag := l.tag, va := l.va, data := BitVec.ofNat 64 (l.off + l.len * 2 ^ 32) }) s
  else s

/-- Trace armed: every unit starts its quarter afresh (R403). -/
def armTrace (s : State) : State :=
  let s := s.modTalcy fun y => { y with st := 1 }
  let s := forEach [0, 1, 2, 3] (fun p s =>
    s.setTraceUnit p { stopped := false, shedTick := s.tick.boundaries }) s
  forEach allTiles armTile s

/-- TRACE_ARM (R403): arms from IDLE or STOPPED. While trace is armed or triggered it replies OK and changes nothing
(assumption 13). -/
def doTraceArm (r : Req) (s : State) : State :=
  command r 0x0704 [] 0 (fun p s => replying r bsOk [] p (if s.traceOn then s else armTrace s)) s

/-- TRACE_ARM. -/
def execTraceArm (r : Req) (s : State) : Host.Outcome State Fault Refusal := require (okReq r) (doTraceArm r s)

/-- Trace stopped: lines in progress are padded and written, and the stop raises HOSTINT entry 4 (R403). -/
def stopTrace (s : State) : State :=
  let s := forEach [0, 1, 2, 3] (fun p s =>
    let s := if (s.traceUnit p).stopped then s else padLine s p
    s.setTraceUnit p { s.traceUnit p with stopped := true, held := [], queue := [] }) s
  raiseHost (s.modTalcy fun y => { y with st := 3 }) 4

/-- TRACE_STOP (R403). -/
def doTraceStop (r : Req) (s : State) : State :=
  command r 0x0705 [] 0 (fun p s => replying r bsOk [] p (stopTrace s)) s

/-- TRACE_STOP. -/
def execTraceStop (r : Req) (s : State) : Host.Outcome State Fault Refusal := require (okReq r) (doTraceStop r s)

/-- TRACE_UNIT_STOP (R403): a unit that has written its post-trigger share stops; when all four have, trace is
STOPPED. -/
def doTraceUnitStop (p : Nat) (s : State) : State :=
  let u := s.traceUnit p
  if s.talcy.st = 2 ∧ u.left = some 0 ∧ !u.stopped then
    let s := s.setTraceUnit p { u with stopped := true, held := [], queue := [], line := [] }
    if [0, 1, 2, 3].all (fun p => (s.traceUnit p).stopped) then
      raiseHost (s.modTalcy fun y => { y with st := 3 }) 4
    else s
  else s

/-- TRACE_UNIT_STOP. -/
def execTraceUnitStop (p : Nat) (s : State) : Host.Outcome State Fault Refusal :=
  require (decide (p < 4)) (doTraceUnitStop p s)

/-- PC_SAMPLE (R400, R401): the sample of a tile in RUN, where PCLOG2 enables it. -/
def doPcSample (t : Nat) (s : State) : State :=
  let T := s.tile t
  if T.st = .run ∧ s.talcy.cfg.pcLog2 ≠ 0 then
    traceTile s t { typ := 8, tag := T.space, pc := T.core.pc, aux := bitNat T.core.inHandler }
  else s

/-- PC_SAMPLE. -/
def execPcSample (t : Nat) (s : State) : Host.Outcome State Fault Refusal := require (okTile t) (doPcSample t s)

/-! ### Counters (R386, R387, R391, R395) -/

/-- COUNTER_THRESHOLD (R391): counter `n` has reached its threshold: COUNTER_n becomes pending, trigger code 4 fires,
and AUTORST resets the counter. -/
def doCounterThreshold (t n : Nat) (s : State) : State :=
  if (s.tile t).thrDue.contains n then
    let s := s.modTile t fun T => { T with thrDue := T.thrDue.filter (· != n) }
    let s := raiseSrc s t (20 + n)
    let s := if (Tab.get pcfgReset (s.tile t).pcfg n).getLsbD 30 then resetCtr s (tileCtr t (8 + n)) 0 else s
    fireTrigger s 4 (s.tile t).space
  else s

/-- COUNTER_THRESHOLD. -/
def execCounterThreshold (t n : Nat) (s : State) : Host.Outcome State Fault Refusal :=
  require (okTile t && decide (n < 4)) (doCounterThreshold t n s)

/-- The base of a shared block that holds counters (R392, R442): KEYSTONE, PCACHE, HOMEARB, LINK, MEMCH, OPORT, BOND. -/
def counterBlock (u : Nat) : Bool :=
  [(ksBase, 1), (pcacheBase 0, 4), (homearbBase 0, Config.abutments), (linkBase 0, Config.links), (memchBase 0, Config.channels),
    (oportBase 0, Config.ports), (bondBase 0, 12)].any fun b => decide (b.1 ≤ u ∧ u < b.1 + 0x10000 * b.2 ∧ u % 0x10000 = 0)

/-- The counters that a CNTRST word at a device address resets: base of the block's counters and their number; space counters have no
CNTRST (R391, R392). -/
def cntrstOf (a : Nat) : Option (Nat × Nat) :=
  if 0x400100000000 ≤ a ∧ a < tileCtr Config.tiles 0 ∧ a % 0x10000 = 0x3140 then
    some (a - 0x3140 + 0x3000, 16)
  else if counterBlock (a - a % 0x10000) ∧ (a % 0x10000 = 0x1FF0 ∨ a % 0x10000 = 0x1FF4) then
    some (a - a % 0x10000 + 0x1000 + (if a % 0x10000 = 0x1FF4 then 0x200 else 0), 32)
  else none

/-- CNTRST_WRITE (R387, R391, R392): the counters that the mask selects are reset; `ev` names those of them that had an
event in the same cycle. Through the tile-local view the bits of counters 0–7 are ignored. -/
def doCntrstWrite (v : View) (addr : Nat) (val ev : W32) (s : State) : State :=
  match cntrstOf addr with
  | none => s
  | some (base, n) =>
    let mask := match v with
      | .core => val &&& 0xFF00#32
      | .device => val
    let s := s.when (n == 16) (flushSpace ((base - 0x400100000000) / 0x10000))
    forEach (maskBits n mask.toNat) (fun i s => resetCtr s (base + 0x10 * i) (bitNat (ev.getLsbD i))) s

/-- CNTRST_WRITE. -/
def execCntrstWrite (v : View) (addr : Nat) (val ev : W32) (s : State) : Host.Outcome State Fault Refusal :=
  require (decide (addr < Config.physEnd)) (doCntrstWrite v addr val ev s)

/-- A counter of a shared unit that counts cycles, refreshes or codewords that no command shows (R392): KEYSTONE 7, MEMCH 5, HOMEARB 4 and 5,
CREDIT_WAIT and ARB_WAIT of LINK and BOND, LINK 48 and 49, OPORT 3 and 5. -/
def timedCtr (a : Nat) : Bool :=
  let i := (a % 0x10000 - 0x1000) / 0x10
  let unit := a / 0x10000 * 0x10000
  a % 0x10 == 0 && decide (0x1000 ≤ a % 0x10000) && decide (a % 0x10000 < 0x1FF0) &&
    if unit = ksBase then i == 7
    else if memchBase 0 ≤ unit ∧ unit < memchBase Config.channels then i == 5
    else if homearbBase 0 ≤ unit ∧ unit < homearbBase Config.abutments then i == 4 || i == 5
    else if linkBase 0 ≤ unit ∧ unit < linkBase Config.links then i == 48 || i == 49 || (decide (i < 48) && i % 24 % 3 != 0 && decide (i % 24 < 21))
    else if bondBase 0 ≤ unit ∧ unit < bondBase 12 then decide (i < 48) && i % 24 % 3 != 0 && decide (i % 24 < 21)
    else oportBase 0 ≤ unit ∧ unit < oportBase Config.ports ∧ (i = 3 ∨ i = 5)

/-- What such a counter has counted since it was last read: a free value (assumption 4). One that is frozen gains what it counted up to
the freeze at the first read after it, and then keeps its value (R388). -/
def timeCtr (a : Nat) (s : State) : State :=
  if !timedCtr a then s
  else if !s.ctrs.frozen then bump s.takeFree a s.freeVal
  else if s.ctrs.drawn.contains a then s
  else (s.takeFree.setCtr a ((s.ctr a).add s.freeVal)).modCtrs fun k => { k with drawn := a :: k.drawn }

/-- CNTHI of a counter (R386). -/
def ctrHi (s : State) (a : Nat) : W32 :=
  let c := s.ctr a
  BitVec.ofNat 32 (c.val.toNat / 2 ^ 32 + mkBit 31 c.gen + mkBit 30 c.sat + mkBit 29 s.ctrs.frozen)

/-- CNTLO_READ (R386): a read of CNTLO latches CNTHI for the reader's view. -/
def doCntloRead (v : View) (addr : Nat) (s : State) : State :=
  let s := timeCtr addr s
  let hi := ctrHi s addr
  let s := match v with
    | .core => s.modCtrs fun c => { c with latchCore := Tab.set 0 c.latchCore addr hi }
    | .device => s.modCtrs fun c => { c with latchDev := Tab.set 0 c.latchDev addr hi }
  s.ret ((s.ctr addr).val.toNat % 2 ^ 32)

/-- CNTLO_READ. -/
def execCntloRead (v : View) (addr : Nat) (s : State) : Host.Outcome State Fault Refusal :=
  require (decide (addr < Config.physEnd) && addr % 16 == 0) (doCntloRead v addr s)

/-- A counter as COUNTER_SNAPSHOT reports it (R395). -/
def snapValue (s : State) (a : Nat) : Nat × Nat :=
  let c := s.ctr a
  (8, c.val.toNat + mkBit 61 s.ctrs.frozen + mkBit 62 c.sat + mkBit 63 c.gen)

/-- The counters of a set (R395). -/
def snapSet (set idx : Nat) : List Nat :=
  match set with
  | 1 => (tilesOf idx).flatMap fun t => (rangeFrom 0 8).map (tileCtr t)
  | 2 => (tilesOf idx).flatMap fun t => (rangeFrom 8 8).map (tileCtr t)
  | 3 => (rangeFrom (32 * idx) 32).flatMap fun c => (rangeFrom 0 8).map (unitCtr (memchBase c))
  | 4 => (rangeFrom 0 4).flatMap fun p => (rangeFrom 0 8).map (unitCtr (pcacheBase p))
  | 5 => (rangeFrom 0 50).map (unitCtr (linkBase idx))
  | 6 => (rangeFrom 0 48).map (unitCtr (bondBase idx))
  | 7 => (rangeFrom (12 * idx) 12).flatMap fun p => (rangeFrom 0 8).map (unitCtr (oportBase p))
  | 8 => (rangeFrom 0 8).map (unitCtr ksBase)
  | 9 => (rangeFrom 0 Config.abutments).flatMap fun a => (rangeFrom 0 6).map (unitCtr (homearbBase a))
  | 10 => (rangeFrom 0 12).map (spaceCtr idx)
  | _ => []

/-- The indices that a set has (R395); link indices 0–6 are those of every variant. -/
def snapIndices (set : Nat) : Nat :=
  match set with
  | 1 => 12
  | 2 => 12
  | 3 => Config.hbmStacks
  | 4 => 1
  | 5 => 7
  | 6 => 12
  | 7 => 4
  | 8 => 1
  | 9 => 1
  | 10 => 4096
  | _ => 0

/-- The reply of COUNTER_SNAPSHOT: a 16 B header and 8 B for each counter (R395). -/
def snapData (s : State) (set idx tick : Nat) : List (Nat × Nat) :=
  [(1, set), (1, 0), (2, idx), (4, 0), (8, tick)] ++ (snapSet set idx).map (snapValue s)

/-- COUNTER_SNAPSHOT (R395): the sample is taken at its boundary, and the reply is committed after it. -/
def doCounterSnapshot (r : Req) (set idx : Nat) (tick : W64) (s : State) : State :=
  let now := s.tick.num.toNat
  let b := if tick = 0 then now + 1 else tick.toNat
  command r 0x0701 [(decide (snapIndices set ≤ idx), bsBadParam), (decide (b ≤ now ∨ now + 900 < b), bsBadParam)] 0
    (fun p s =>
      let s := s.modSlot r.client r.slot fun sl => { sl with picked := none, running := some p }
      s.modCtrs fun c => { c with snaps := c.snaps ++ [(r.client, r.slot, set, idx, b)] }) s

/-- COUNTER_SNAPSHOT. -/
def execCounterSnapshot (r : Req) (set idx : Nat) (tick : W64) (s : State) : Host.Outcome State Fault Refusal :=
  require (okReq r) (doCounterSnapshot r set idx tick s)

/-- The snapshots of a boundary replied (R395). -/
def takeSnapshots (b : Nat) (s : State) : State :=
  let due := s.ctrs.snaps.filter fun x => decide (x.2.2.2.2 ≤ b)
  let s := s.modCtrs fun c => { c with snaps := c.snaps.filter fun x => decide (b < x.2.2.2.2) }
  forEach due (fun x s =>
    let s := forEach (snapSet x.2.2.1 x.2.2.2.1) timeCtr s
    match (s.slot x.1 x.2.1).running with
    | some p => replyFinal s x.1 x.2.1 p bsOk (snapData s x.2.2.1 x.2.2.2.1 x.2.2.2.2)
    | none => s) s

/-! ### FREEZE (R396, R397) -/

/-- One freeze or thaw applied at boundary `b`: one that changes nothing has no effect; a late one sets LATE and is
logged (R397). -/
def applyFreeze (b : Nat) (x : Nat × Bool × Bool) (s : State) : State :=
  let s := if x.2.2 then logEvent (s.modCtrs fun c => { c with late := true }) 0x0403 0 dieModule [b] else s
  if s.ctrs.frozen = !x.2.1 then s
  else
    let s := s.modCtrs fun c => { c with frozen := !x.2.1, frzTick := BitVec.ofNat 64 b, drawn := [] }
    if x.2.1 then s else fireTrigger s 7 (fld s.talcy.cfg.tagf.toNat 0 12)

/-- The freezes and thaws due at a boundary, thaws first (R397). -/
def applyFreezes (b : Nat) (s : State) : State :=
  let due := s.ctrs.sched.filter fun x => decide (x.1 ≤ b)
  let s := s.modCtrs fun c => { c with sched := c.sched.filter fun x => decide (b < x.1) }
  let s := forEach (due.filter fun x => x.2.1) (applyFreeze b) s
  forEach (due.filter fun x => !x.2.1) (applyFreeze b) s

/-- FREEZE (R396). -/
def doFreeze (r : Req) (machine thaw : Bool) (tick : W64) (s : State) : State :=
  let now := s.tick.num.toNat
  let b := if tick = 0 then (if machine then now + 100 else now + 1) else tick.toNat
  command r 0x0702 [(decide (b ≤ now), bsBadParam)] 0 (fun p s =>
    replying r bsOk [(8, b)] p (if machine then machineFreeze s b thaw else scheduleFreeze s b thaw)) s

/-- FREEZE. -/
def execFreeze (r : Req) (machine thaw : Bool) (tick : W64) (s : State) : Host.Outcome State Fault Refusal :=
  require (okReq r) (doFreeze r machine thaw tick s)

/-- FREEZE_PACKET (R396, R397): a packet not seen before is forwarded on every OPEN or HELD port but its own and
applied at its boundary. A node in S1–S4 drops it. -/
def doFreezePacket (port : Nat) (tick : W64) (origin : Nat) (thaw : Bool) (s : State) : State :=
  let key := (tick.toNat, origin, thaw)
  if s.power.idle ≠ .s0 ∨ !s.openOrHeld.contains port then s
  else
    let s := countCtrl s port
    if s.ctrs.seen.contains key then s
    else
      let s := s.modCtrs fun c => { c with seen := key :: c.seen }
      let s := forEach (s.openOrHeld.filter (· != port)) (fun p s => sendCtrl s p (.freeze p tick.toNat origin thaw)) s
      scheduleFreeze s tick.toNat thaw

/-- FREEZE_PACKET. -/
def execFreezePacket (port : Nat) (tick : W64) (origin : Nat) (thaw : Bool) (s : State) :
    Host.Outcome State Fault Refusal :=
  require (decide (port < Config.ports)) (doFreezePacket port tick origin thaw s)

/-! ### EVENT_READ (R398) -/

/-- The first DATA field of an event is an address or a tick number, which take 8 B (R420, assumption 34). -/
def eventWide (code : Nat) : Bool :=
  [0x0101, 0x0102, 0x0104, 0x0107, 0x0305, 0x0306, 0x0402, 0x0403, 0x0404].contains code

/-- The 32 B of an event record as reply data (R398): the fields of DATA in their order, 4 B each but for a first field of
8 B, then zeros. -/
def eventData (e : Event) : List (Nat × Nat) :=
  let d := e.data ++ [0, 0, 0, 0]
  let rest := if eventWide e.code then [(8, d.getD 0 0), (4, d.getD 1 0), (4, d.getD 2 0)]
    else [(4, d.getD 0 0), (4, d.getD 1 0), (4, d.getD 2 0), (4, d.getD 3 0)]
  [(4, e.index), (2, e.code), (1, e.cls), (1, e.die), (8, e.tick.toNat)] ++ rest

/-- EVENT_READ (R398). -/
def doEventRead (r : Req) (first count : Nat) (s : State) : State :=
  command r 0x0706 [(decide (2047 < count), bsBadParam)] 0 (fun p s =>
    let oldest := s.nextEvent - s.events.length
    let recs := s.events.filter fun e => decide (first ≤ e.index ∧ e.index < first + count)
    let lost := min count (oldest - first)
    replying r bsOk ([(4, oldest), (4, s.nextEvent), (4, lost), (4, 0), (8, 0), (8, 0)] ++ recs.flatMap eventData) p s) s

/-- EVENT_READ. -/
def execEventRead (r : Req) (first count : Nat) (s : State) : Host.Outcome State Fault Refusal :=
  require (okReq r) (doEventRead r first count s)

end Sys2Proof.Machine
end

