-- ==== Sys2Proof/Machine/Tile.lean ====
section
/-!
DEFINITION. The tile's shared operations: the tile store and its errors (R30, R31), completion records (R140),
leases held by a stream (R168), drains, Debug mode and resume (R53, R54, R406–R409), and the issue budget (R350, R361).
-/

namespace Sys2Proof.Machine
open Sys2Proof

/-! ### The tile store (R25, R30, R31) -/

/-- An offset range inside the tile store. -/
def inStore (off n : Nat) : Bool := decide (off + n ≤ Config.storeBytes)

/-- The 64-bit words that a range covers whole. -/
def wholeWords (off n : Nat) : List Nat :=
  let a := ceilDiv off 8
  rangeFrom a ((off + n) / 8 - a)

/-- Bytes written to tile store, each word covered whole with valid check bits (R30, R31). A reservation of the core on
a written byte is lost. Accesses take effect in the order of the commands that make them: bytes that two engines, or an
engine and the core, access without an established order are unspecified (R30), and the model gives them the value of that
order (DESIGN CHOICE, assumption 135). -/
def Tile.put (T : Tile) (off : Nat) (bytes : List Byte) : Tile :=
  let whole := fun w => decide (8 * w ≥ off ∧ 8 * w + 8 ≤ off + bytes.length)
  { T with store := Memory.put T.store off bytes,
           storeErr := T.storeErr.filter fun e => !whole e.1,
           correctPend := T.correctPend.filter fun w => !whole w,
           core := { T.core with resv := T.core.resv.filter fun a => !(off < a + 4 && a < off + bytes.length) } }

/-- Bytes written to the store of tile `t`. -/
def storePut (s : State) (t off : Nat) (bytes : List Byte) : State := s.modTile t fun T => T.put off bytes

/-- A one-bit error met by a read: counted, and the word waits for its corrective write (R31). 64 of them, or three in
one word, within 24 h make a need (R411). -/
def storeCorrect (s : State) (t w : Nat) : State :=
  let s := countTile s t 6 1
  let log := ((s.tile t).ceWords.filter fun e => s.within dayTicks e.2) ++ [(w, s.tick.boundaries)]
  let s := s.modTile t fun T =>
    { T with correctPend := if T.correctPend.contains w then T.correctPend else T.correctPend ++ [w], ceWords := log }
  if 64 ≤ log.length ∨ 3 ≤ (log.filter fun e => e.1 == w).length then queueNeed s ⟨1, deckOf t, t, false⟩ else s

/-- A detected error of two or more bits: such errors at two words within 24 h make an urgent need (R411). -/
def storeBad (s : State) (t w : Nat) : State :=
  let log := ((s.tile t).ueWords.filter fun e => s.within dayTicks e.2 && e.1 != w) ++ [(w, s.tick.boundaries)]
  let s := s.modTile t fun T => { T with ueWords := log }
  if 2 ≤ log.length then queueNeed s ⟨1, deckOf t, t, true⟩ else s

/-- One word in error met by a read of `n` bytes from `off`: one bit is corrected; two bits are detected; three or more
are detected, or delivered wrong, as a free value has it (R31, assumption 2). -/
def storeWord (t off : Nat) (e : Nat × Nat) (r : State × List Byte × Option Nat) : State × List Byte × Option Nat :=
  let (s, bytes, bad) := r
  if e.2 = 1 then (storeCorrect s t e.1, bytes, bad)
  else if e.2 = 2 ∨ s.freeVal % 2 = 0 then
    (storeBad (if e.2 = 2 then s else s.takeFree) t e.1, bytes, bad.or (some (8 * e.1)))
  else
    let s := s.takeFree
    let v := leBytes 8 s.freeVal
    (s.takeFree,
      (bytes.zipIdx).map fun (b, i) =>
        if 8 * e.1 ≤ off + i ∧ off + i < 8 * e.1 + 8 then v.getD (off + i - 8 * e.1) 0 else b, bad)

/-- A read of `n` bytes of the store of tile `t` from an offset: the bytes, and the offset of the first word whose
error is detected as uncorrectable (R31). -/
def storeRead (s : State) (t off n : Nat) : State × List Byte × Option Nat :=
  let T := s.tile t
  let hit := T.storeErr.filter fun e => decide (8 * e.1 < off + n ∧ off < 8 * e.1 + 8)
  hit.foldl (fun r e => storeWord t off e r) (s, Memory.bytes T.store off n, none)

/-- Bytes written within one word: the word is read, merged and written whole, with valid check bits (R30, R31). The
answer is whether an error refuses the write. -/
def narrowPut (s : State) (t addr : Nat) (bytes : List Byte) : State × Bool :=
  let w := addr / 8
  let n := Tab.get 0 (s.tile t).storeErr w
  let whole := fun (s : State) => s.modTile t fun T =>
    T.put (8 * w) (Memory.bytes (Memory.put T.store addr bytes) (8 * w) 8)
  if n = 0 then (storePut s t addr bytes, false)
  else if n = 1 then (whole (storeCorrect s t w), false)
  else if n = 2 ∨ s.freeVal % 2 = 0 then (storeBad (if n = 2 then s else s.takeFree) t w, true)
  else
    let s := s.takeFree
    let v := leBytes 8 s.freeVal
    (whole (s.takeFree.modTile t fun T => { T with store := Memory.put T.store (8 * w) v }), false)

/-- The words that a range covers in part: its first and its last. -/
def partWords (off n : Nat) : List Nat :=
  (if n = 0 then [] else [off / 8, (off + n - 1) / 8]).eraseDups.filter fun w => !decide (off ≤ 8 * w ∧ 8 * w + 8 ≤ off + n)

/-- A write by an engine (R30, R31): the words covered whole are written, and each word covered in part is read, merged and
written whole; one whose error is detected is not written, and the answer is the offset of the first such word. -/
def enginePut (s : State) (t off : Nat) (bytes : List Byte) : State × Option Nat :=
  let n := bytes.length
  let a := ceilDiv off 8 * 8
  let b := (off + n) / 8 * 8
  let s := if a < b then storePut s t a ((bytes.drop (a - off)).take (b - a)) else s
  (partWords off n).foldl (fun (r : State × Option Nat) w =>
    let lo := max off (8 * w)
    let x := narrowPut r.1 t lo ((bytes.drop (lo - off)).take (min (off + n) (8 * w + 8) - lo))
    (x.1, r.2.or (if x.2 then some (8 * w) else none))) (s, none)

/-! ### Register views (R48, R387, R443) -/

/-- TILE.STATUS.STATE (R48). -/
def stCode : TileSt → Nat
  | .reset => 0 | .loaded => 1 | .run => 2 | .halted => 3 | .stopped => 4 | .draining => 5 | .faulted => 6
  | .unavailable => 7

/-- A mask of the queues that satisfy a test. -/
def Tile.queueMask (T : Tile) (f : Queue → Bool) : Nat :=
  bitNat (f T.q0) + 2 * bitNat (f T.q1) + 4 * bitNat (f T.q2) + 8 * bitNat (f T.q3)

/-- TILE.STATUS (R48). -/
def tileStatus (T : Tile) : Nat :=
  mkFld 12 4 (stCode T.st) + mkBit 8 T.core.inHandler + mkFld 4 4 (T.queueMask fun q => q.fault.isSome) +
    T.queueMask fun q => q.entries != []

/-- The ring address of a logical tile in the compatibility view (R270). -/
def ringAddr (t : Nat) : Nat := deckOf t * 128 + t % 108

/-- The tile number that the tile itself reads, by logical number or ring address (R270). -/
def Tile.number (T : Tile) (t : Nat) : Nat := if T.compat then ringAddr t else t

/-- Receive channel `n`. -/
def Tile.chan (T : Tile) (n : Nat) : RxChan := Tab.get {} T.rx n
/-- A tile with receive channel `n` replaced. -/
def Tile.setChan (T : Tile) (n : Nat) (c : RxChan) : Tile := { T with rx := Tab.set {} T.rx n c }

/-- TILE.QSTATn (R48). -/
def qstat (Q : Queue) : Nat :=
  mkBit 31 Q.refused + mkBit 30 Q.fault.isSome + mkFld 8 5 (16 - Q.entries.length) + mkFld 0 5 Q.entries.length

/-- TILE.RXCFGn (R157). -/
def rxcfg (c : RxChan) : Nat :=
  mkBit 31 c.enable + mkBit 30 c.remote + mkFld 26 4 c.slotLog2 + mkFld 22 4 c.cntLog2 + mkFld 6 16 (c.base / 64)

/-! ### The issue budget (R350, R354, R361) -/

/-- The Lathe issue budget of a tile: the manager's grant, or its pier's own in LOCAL mode; at most 16 during a droop
clamp. -/
def budgetOf (s : State) (t : Nat) : Nat :=
  let P := s.pier (pierOf t)
  let b := if P.localMode then P.budget else min s.power.grant (s.deck (deckOf t)).budgetCap
  if s.power.clamp then min b 16 else b

/-! ### Records of a descriptor -/

/-- A trace record of a descriptor: its tag, queue and push PC (R400). -/
def traceDesc (s : State) (t q : Nat) (e : QEntry) (typ va aux : Nat) (data : W64) : State :=
  traceTile s t { typ := typ, queue := q, tag := (s.tile t).space, pc := e.pushPc, va := va, aux := aux, data := data }

/-- The completion record of a descriptor (R140). -/
def recordBytes (e : QEntry) (tick : W32) (cycles : Nat) : List Byte :=
  leBytes 4 e.seq.toNat ++ leBytes 1 e.status ++ leBytes 1 e.engine ++ leBytes 2 e.flags.toNat ++
    leBytes 8 e.detail.toNat ++ leBytes 2 e.user.toNat ++ leBytes 2 0 ++ leBytes 4 e.doff ++ leBytes 4 tick.toNat ++
    leBytes 4 (min cycles 0xFFFFFFFF)

/-- Offset of the ring entry of a sequence number (R140). -/
def ringEntry (Q : Queue) (seq : W32) : Nat := 512 * Q.ring.toNat + 32 * (seq.toNat % 16)

/-- The record of the oldest descriptor of a queue posted, if that descriptor has finished: written to the ring, then
counted, traced and raised (R37, R41, R140, R142). CYCLES of a declined descriptor is the time of R145, or more where its record
had to wait for an earlier one. -/
def postRecord (s : State) (t q cycles : Nat) : State :=
  let Q := s.queue t q
  match Q.entries with
  | [] => s
  | e :: rest =>
    if e.phase ≠ .finished then s
    else
      let cycles := if e.held = .none then cycles else if e.late then max cycles e.fixed else e.fixed
      let bad := isErrorClass e.status
      let s := storePut s t (ringEntry Q e.seq) (recordBytes e (s.tick.num.setWidth 32) cycles)
      let s := s.modQueue t q fun Q => { Q with entries := rest, lastSeq := e.seq, lastErr := bad }
      let s := if bad then countTile s t 7 1 else s
      let s := tileEvent s t 0x07 (some q) 1
      let s := if e.status = stPredFalse ∨ e.status = stCancelled then tileEvent s t 0x08 (some q) 1 else s
      let s := traceDesc s t q e 2 0 e.status (BitVec.ofNat 64 (e.seq.toNat + e.flags.toNat * 2 ^ 32))
      let s := if bad then fireTrigger s 2 (s.tile t).space else s
      if bad then raiseSrc s t (12 + q) else if e.notify then raiseSrc s t (8 + q) else s

/-- The queues in the order of the round-robin after queue `last` (R36). -/
def roundRobin (last : Nat) : List Nat := (rangeFrom 1 4).map fun i => (last + i) % 4

/-! ### Leases of a stream (R136, R168, R169) -/

/-- Bytes that a lease's SIZE covers (R163). -/
def leaseBytes (size : Nat) : Nat := 2 ^ (16 + size)

/-- A lease covers an address. -/
def Lease.covers (l : Lease) (va : Nat) : Bool := decide (l.vbase ≤ va ∧ va < l.vbase + leaseBytes l.size)

/-- A LEASE trace record: 1 granted, 2 recalled, 3 released (R400). -/
def traceLease (s : State) (t q : Nat) (l : Lease) (aux : Nat) : State :=
  let e : QEntry := (s.queue t q).entries.headD { doff := 0, seq := 0, ord := 0 }
  traceTile s t
    { typ := 4, queue := q, tag := l.tag, pc := e.pushPc, va := l.vbase, aux := aux,
      data := BitVec.ofNat 64 (l.size % 32 + l.gen % 2 ^ 24 * 2 ^ 8 + e.seq.toNat * 2 ^ 32) }

/-- The leases of a tile: those of its four streams and of its load (R49, R168). -/
def Tile.leases (T : Tile) : List Lease :=
  T.q0.leases ++ T.q1.leases ++ T.q2.leases ++ T.q3.leases ++ match T.load with
    | some l => l.leases
    | none => []

/-- The number of leases of a tag that are older than a generation (R176). -/
def State.outstanding (s : State) (tag gen : Nat) : Nat :=
  s.tiles.foldl (fun n x => n + (x.2.leases.filter fun l => l.tag == tag && decide (l.gen < gen)).length) 0

/-- The progress positions of the invalidations of a tag: the leases still outstanding (R176). -/
def invPositions (s : State) (tag : Nat) : State :=
  forEach (s.ks.invs.filter fun i => i.tag == tag) (fun i s => setPosition s i.handle (s.outstanding i.tag i.gen)) s

/-- The leases of a stream that a test selects released. -/
def releaseLeases (s : State) (t q : Nat) (p : Lease → Bool) : State :=
  let gone := (s.queue t q).leases.filter p
  let s := s.modQueue t q fun Q => { Q with leases := Q.leases.filter fun l => !p l }
  forEach gone (fun l s => invPositions (traceLease s t q l 3) l.tag) s

/-! ### Drains (R52–R54, R27) -/

/-- The memory operands of a pass, in the order of the staging area (R108). -/
def memOperands (r : ChainRecs) : List TRec := ([some r.x, r.y, r.d].filterMap id).filter fun x => x.virt

/-- The pass has an operand in memory. -/
def ChainRun.inMemory (run : ChainRun) : Bool := memOperands run.recs != []

/-- The chain is within a chunk whose operands all lie in tile store. A chunk with memory operands is in flight from the
step that begins it, and is listed with its descriptor. -/
def Tile.chainBusy (T : Tile) : Bool :=
  match T.chain with
  | some run => !run.inMemory && run.endStatus.isNone && decide (run.j < run.recs.x.ext.foldl (· * ·) 1)
  | none => false

/-- Every engine of a tile has stopped: no chunk is in flight (R53). -/
def Tile.engineIdle (T : Tile) : Bool :=
  ([T.q0, T.q1, T.q2, T.q3].all fun q => q.entries.all fun e => e.chunks == []) &&
    !(T.latheLeft && T.latheQ.isSome) && !(T.chainLeft && T.chainBusy)

/-- Wear management moves the tile, which was in RUN (R416). -/
def Tile.moving (T : Tile) : Bool := T.st == .draining && T.drain == .move

/-- A drain begins: no fetch, no new chunk; STATE reads DRAINING (R53). The engines of a tile in RUN finish the chunks they
have in flight; those of a halted tile have none. A drain for a fault is not overridden. -/
def startDrain (s : State) (t : Nat) (to_ : DrainTo) : State :=
  s.modTile t fun T =>
    { T with st := .draining, drain := if T.drain == .fault then .fault else to_,
             latheLeft := if T.st = .draining then T.latheLeft else T.st == .run && T.latheQ.isSome,
             chainLeft := if T.st = .draining then T.chainLeft else T.st == .run && T.chainBusy,
             core := { T.core with fetching := false, waiting := false } }

/-- A tile in RUN drains for its move to a spare site (R416): the core fetches nothing, and goes on after the move where it was. -/
def startMove (s : State) (t : Nat) : State :=
  s.modTile t fun T => { T with st := .draining, drain := .move, latheLeft := T.latheQ.isSome, chainLeft := T.chainBusy }

/-- A descriptor of a stopped tile: one that has started ends with ABORTED and the position reached, one that has not
with CANCELLED (R52). -/
def QEntry.stopped (e : QEntry) : QEntry :=
  match e.phase with
  | .finished => e
  | .active => { e with phase := .finished, status := stAborted, detail := BitVec.ofNat 64 e.pos }
  | .queued => { e with phase := .finished, status := stCancelled, detail := 0 }

/-- A parked fault of a stream withdrawn (R184). -/
def withdrawFault (s : State) (t q : Nat) : State :=
  let Q := s.queue t q
  let s := match Q.fault with
    | some f => if f.parked then s.modKs fun k => { k with parked := k.parked - 1 } else s
    | none => s
  s.setQueue t q { s.queue t q with fault := none }

/-- A queue of a stopped tile: every descriptor posts its record, and every lease is released (R27, R52). The CYCLES of
these records are free values (assumption 12). -/
def stopQueue (t q : Nat) (s : State) : State :=
  let s := withdrawFault s t q
  let s := s.modQueue t q fun Q => { Q with entries := Q.entries.map QEntry.stopped, req := none }
  let s := forEach (rangeFrom 0 (s.queue t q).entries.length) (fun _ s => postRecord s.takeFree t q s.freeVal) s
  releaseLeases s t q fun _ => true

/-- The long operations of an opcode that count tiles advance by one tile, and end with their last (R341). -/
def tileDone (opcode t : Nat) (s : State) : State :=
  forEach (s.belul.ops.filter fun o => o.opcode == opcode && o.left.contains t) (fun o s =>
    let left := o.left.filter (· != t)
    let s := s.modBelul fun b =>
      { b with ops := b.ops.map fun x => if x.handle = o.handle then { x with left := left } else x }
    let s := setPosition s o.handle (o.total - left.length)
    if left = [] then finishOp s o.handle bsCompleted [] else s) s

/-- Opcodes of TILE_STOP and TILE_HALT (R341). -/
def opTileStop : Nat := 0x0C04
/-- TILE_HALT. -/
def opTileHalt : Nat := 0x0C06

/-- Resume of a HALTED tile: the core returns to dpc and the engines go on (R54, R407). A tile that has written EXIT
fetches no more (R52). -/
def resumeTile (s : State) (t : Nat) : State :=
  s.modTile t fun T =>
    { T with st := .run, drain := .none,
             core := { T.core with pc := T.core.dpc, debug := false, fetching := !T.exiting, resumeWaiting := false } }

/-! ### Debug mode (R406–R409) -/

/-- dcsr.cause codes of the External Debug Support 0.13.2: EBREAK, trigger, haltreq. -/
def causeEbreak : Nat := 1
/-- An address trigger. -/
def causeTrigger : Nat := 2
/-- A halt request: haltreq, TILE_HALT, a group halt. -/
def causeHaltreq : Nat := 3

/-- A tile that a halt acts on: in RUN (R409). -/
def State.canHalt (s : State) (t : Nat) : Bool := (s.tile t).st == .run

/-- A halt request that meets a tile on the move is applied after the move (R417); `all`: it spreads to the halt group (R408). -/
def askHalt (s : State) (t cause : Nat) (all : Bool) : State :=
  if (s.tile t).moving then
    s.modTile t fun T =>
      { T with haltAsked := match T.haltAsked with
          | some h => some (h.1, h.2 || all)
          | none => some (cause, all) }
  else s

/-- A spindle core enters Debug mode: dpc and dcsr.cause are set, the tile drains toward HALTED, a HALT record is written
and trigger code 5 fires (R407). -/
def enterDebug (s : State) (t cause : Nat) : State :=
  if s.canHalt t then
    let s := s.modTile t fun T =>
      { T with core := { T.core with debug := true, dpc := T.core.pc,
                                     dcsr := (T.core.dcsr &&& ~~~0x1C0#32) ||| BitVec.ofNat 32 (cause * 64) } }
    let s := startDrain s t .halt
    let T := s.tile t
    let s := traceTile s t { typ := 15, tag := T.space, pc := T.core.dpc, aux := cause }
    fireTrigger s 5 T.space
  else askHalt s t cause false

/-- The ports that lead to a node of the job: OPEN or HELD ports whose neighbour's pod is in the job's mask (R307). -/
def State.jobPorts (s : State) : List Nat :=
  s.openOrHeld.filter fun p =>
    match (s.port p).nbPhys with
    | some n => s.job.pods.getLsbD (n / 4096)
    | none => false

/-- The node is in a running job. -/
def State.inJob (s : State) : Bool := s.job.st == .run

/-- A halt of the whole job: HALT names the D-th boundary after it on every port that leads to a node of the job, and
the node's own members halt there too (R408). -/
def jobHalt (s : State) (halt : Bool) : State :=
  let b := s.tick.num.toNat + s.job.depth
  let s := forEach s.jobPorts (fun p s => sendCtrl s p (.halt p b s.node.phys s.job.id (if halt then 1 else 2))) s
  s.modJob fun j => { j with haltAt := j.haltAt ++ [(b, halt, false)],
                             haltSeen := (b, s.node.phys, halt) :: j.haltSeen }

/-- A halt by any cause but a group halt: where the tile is a member of the halt group, every other member is halted,
and the job too where JOB is set (R408). -/
def haltTile (s : State) (t cause : Nat) : State :=
  if s.canHalt t then
    let T := s.tile t
    let s := enterDebug s t cause
    if T.member then
      let others := s.tiles.filter fun x => x.2.member && x.1 != t
      let s := forEach others (fun x s => enterDebug (s.send (.haltGroup x.1)) x.1 causeHaltreq) s
      if T.memberJob && s.inJob then jobHalt s true else s
    else s
  else askHalt s t cause true

/-- A resume request: it acts from HALTED, and waits for HALTED while the tile drains for a halt (R407). -/
def resumeRequest (s : State) (t : Nat) : State :=
  let T := s.tile t
  match T.st with
  | .halted => resumeTile s t
  | .draining =>
    if T.drain == .halt then s.modTile t fun T => { T with core := { T.core with resumeWaiting := true } } else s
  | _ => s

end Sys2Proof.Machine
end

