-- ==== Sys2Proof/Machine/TileRegs.lean ====
section
/-!
DEFINITION. The register block of a tile in its two views (R48, R140, R157, R391, R443): the commands that write its
registers or read an RC field of them, and the value of each register.
-/

namespace Sys2Proof.Machine
open Sys2Proof

/-- Device register space reaches a tile's registers: not where the tile is UNAVAILABLE (R438). -/
def reaches (v : View) (T : Tile) : Bool := v == .core || T.st != .unavailable

/-- A change of a tile's registers through a view. -/
def regChange (v : View) (t : Nat) (f : State → State) (s : State) : State :=
  if reaches v (s.tile t) then f s else s

/-- A core waits only while no source is pending and unmasked (R45). -/
def Tile.wake (T : Tile) : Tile :=
  { T with core := { T.core with waiting := T.core.waiting && decide (T.pend &&& ~~~T.mask = 0) } }

/-! ### Queues (R33, R52, R140) -/

/-- The sequence number after one: 0xFFFF_FFFF wraps to 1 (R140). -/
def seqNext (n : W32) : W32 := if n = 0xFFFFFFFF#32 then 1 else n + 1

/-- QPUSH (R33): a descriptor offset is queued with the next SEQ, or the push is refused: 16 descriptors held, an offset
of 0x30_0000 or above, or a tile not in RUN. -/
def doQpush (v : View) (t q : Nat) (val : W32) : State → State := regChange v t fun s =>
  let T := s.tile t
  let Q := T.queue q
  let off := fld val.toNat 7 15 * 128
  if 16 ≤ Q.entries.length ∨ Config.storeBytes ≤ off ∨ T.st ≠ .run then
    raiseSrc (s.setQueue t q { Q with refused := true }) t 3
  else
    let pc := match v with
      | .core => T.core.pc
      | .device => 0
    s.modTile t fun T =>
      { T.setQueue q { Q with entries := Q.entries ++ [{ doff := off, seq := Q.nextSeq, ord := T.pushes, pushPc := pc }],
                              nextSeq := seqNext Q.nextSeq } with pushes := T.pushes + 1 }

/-- QPUSH. -/
def execQpush (v : View) (t q : Nat) (val : W32) (s : State) : Host.Outcome State Fault Refusal :=
  require (okTQ t q) (doQpush v t q val s)

/-- EXIT (R52): fetch stops and the code is kept; a write after the stop command, or outside RUN, is ignored. -/
def doExit (v : View) (t : Nat) (code : W32) : State → State := regChange v t fun s =>
  let T := s.tile t
  if T.st = .run ∧ !T.exiting ∧ !T.stopAsked then
    s.setTile t { T with exiting := true, exitCause := 1, exitCode := code,
                         core := { T.core with fetching := false, waiting := false } }
  else s

/-- EXIT. -/
def execExit (v : View) (t : Nat) (code : W32) (s : State) : Host.Outcome State Fault Refusal :=
  require (okTile t) (doExit v t code s)

/-- EXIT_DRAINED (R52): after an EXIT write, with no descriptor left, STATE becomes STOPPED. -/
def doExitDrained (t : Nat) (s : State) : State :=
  let T := s.tile t
  if T.st = .run ∧ T.exiting ∧ (T.queueMask fun q => q.entries != []) = 0 then
    tileDone opTileStop t (s.setTile t { T with st := .stopped, exiting := false, stopAsked := false })
  else s

/-- EXIT_DRAINED. -/
def execExitDrained (t : Nat) (s : State) : Host.Outcome State Fault Refusal :=
  require (okTile t) (doExitDrained t s)

/-- QCR_WRITE (R140): the completion ring moves; ignored while the queue holds a descriptor, and for a ring that would
reach beyond the store. -/
def doQcrWrite (v : View) (t q : Nat) (val : W32) : State → State := regChange v t fun s =>
  let base := fld val.toNat 9 13
  let Q := s.queue t q
  if Q.entries ≠ [] ∨ 0x17FF < base then s else s.setQueue t q { Q with ring := BitVec.ofNat 13 base }

/-- QCR_WRITE. -/
def execQcrWrite (v : View) (t q : Nat) (val : W32) (s : State) : Host.Outcome State Fault Refusal :=
  require (okTQ t q) (doQcrWrite v t q val s)

/-- QSTAT_READ (R9, R48): REFUSED is returned and cleared; a refusal in the same cycle stays. -/
def doQstatRead (v : View) (t q : Nat) (ev : Bool) (s : State) : State :=
  if reaches v (s.tile t) then
    (s.modQueue t q fun Q => { Q with refused := ev }).ret (qstat (s.queue t q))
  else s.ret 0

/-- QSTAT_READ. -/
def execQstatRead (v : View) (t q : Nat) (ev : Bool) (s : State) : Host.Outcome State Fault Refusal :=
  require (okTQ t q) (doQstatRead v t q ev s)

/-! ### Receive channels (R154, R157) -/

/-- A write of 1 to ENABLE is legal (R157). -/
def rxLegal (slotLog cntLog base : Nat) : Bool :=
  decide (6 ≤ slotLog ∧ slotLog ≤ 13 ∧ 1 ≤ cntLog ∧ cntLog ≤ 10) && base % 2 ^ slotLog == 0 &&
    inStore base (2 ^ (slotLog + cntLog))

/-- RXCFG_WRITE (R154, R157): bits 30:6 are written only while ENABLE is 0; a legal write of 1 to ENABLE enables the
channel, with HEAD and TAIL zero where it was off. -/
def doRxcfgWrite (v : View) (t n : Nat) (val : W32) : State → State := regChange v t fun s =>
  s.modTile t fun T =>
    let c := T.chan n
    let b := val.toNat
    if c.enable then T.setChan n { c with enable := bitAt b 31 }
    else
      let c := { c with remote := bitAt b 30, slotLog2 := fld b 26 4, cntLog2 := fld b 22 4, base := fld b 6 16 * 64 }
      if bitAt b 31 && rxLegal c.slotLog2 c.cntLog2 c.base then
        T.setChan n { c with enable := true, head := 0, tail := 0 }
      else T.setChan n c

/-- RXCFG_WRITE. -/
def execRxcfgWrite (v : View) (t n : Nat) (val : W32) (s : State) : Host.Outcome State Fault Refusal :=
  require (okTQ t n) (doRxcfgWrite v t n val s)

/-- RXTAIL_WRITE (R157): slots are released; a value that passes HEAD, counted from TAIL, is ignored. -/
def doRxtailWrite (v : View) (t n : Nat) (val : W32) : State → State := regChange v t fun s =>
  let c := (s.tile t).chan n
  if (val - c.tail).toNat ≤ (c.head - c.tail).toNat then s.modTile t fun T => T.setChan n { c with tail := val } else s

/-- RXTAIL_WRITE. -/
def execRxtailWrite (v : View) (t n : Nat) (val : W32) (s : State) : Host.Outcome State Fault Refusal :=
  require (okTQ t n) (doRxtailWrite v t n val s)

/-- RXREF_READ (R9, R157): both refusal counts are returned and cleared. -/
def doRxrefRead (v : View) (t n evFull evOther : Nat) (s : State) : State :=
  if reaches v (s.tile t) then
    let c := (s.tile t).chan n
    (s.modTile t fun T => T.setChan n { c with full := min 0xFFFF evFull, other := min 0xFFFF evOther }).ret
      (mkFld 16 16 c.full + mkFld 0 16 c.other)
  else s.ret 0

/-- RXREF_READ. -/
def execRxrefRead (v : View) (t n evFull evOther : Nat) (s : State) : Host.Outcome State Fault Refusal :=
  require (okTQ t n) (doRxrefRead v t n evFull evOther s)

/-! ### Trestle (R42, R46, R48) -/

/-- The sources that a write of one half names. -/
def halfBits (hi : Bool) (val : W32) : BitVec 64 := if hi then val.setWidth 64 <<< 32 else val.setWidth 64

/-- The sources that a view may set and clear: the host only SOFT_0–31 (R46). -/
def mayWrite (v : View) : BitVec 64 :=
  match v with
  | .core => BitVec.allOnes 64
  | .device => 0xFFFFFFFF00000000#64

/-- PEND_SET (R46). -/
def doPendSet (v : View) (t : Nat) (hi : Bool) (val : W32) : State → State := regChange v t fun s =>
  s.modTile t fun T => Tile.wake { T with pend := T.pend ||| (halfBits hi val &&& mayWrite v) }

/-- PEND_SET. -/
def execPendSet (v : View) (t : Nat) (hi : Bool) (val : W32) (s : State) : Host.Outcome State Fault Refusal :=
  require (okTile t) (doPendSet v t hi val s)

/-- PEND_CLR (R10, R42, R46): the named bits are cleared; a bit that a hardware event, a signal or a SET write reaches in the
same cycle (`hw`) is left set. -/
def doPendClr (v : View) (t : Nat) (hi : Bool) (val hw : W32) : State → State := regChange v t fun s =>
  s.modTile t fun T =>
    Tile.wake { T with pend := (T.pend &&& ~~~(halfBits hi val &&& mayWrite v)) ||| halfBits hi hw }

/-- PEND_CLR. -/
def execPendClr (v : View) (t : Nat) (hi : Bool) (val hw : W32) (s : State) : Host.Outcome State Fault Refusal :=
  require (okTile t) (doPendClr v t hi val hw s)

/-- MASK_SET (R48). -/
def doMaskSet (v : View) (t : Nat) (hi : Bool) (val : W32) : State → State := regChange v t fun s =>
  s.modTile t fun T => { T with mask := T.mask ||| halfBits hi val }

/-- MASK_SET. -/
def execMaskSet (v : View) (t : Nat) (hi : Bool) (val : W32) (s : State) : Host.Outcome State Fault Refusal :=
  require (okTile t) (doMaskSet v t hi val s)

/-- MASK_CLR (R10, R48): the named bits are cleared; a bit that a SET write reaches in the same cycle (`set`) is left
set. -/
def doMaskClr (v : View) (t : Nat) (hi : Bool) (val set : W32) : State → State := regChange v t fun s =>
  s.modTile t fun T => Tile.wake { T with mask := (T.mask &&& ~~~halfBits hi val) ||| halfBits hi set }

/-- MASK_CLR. -/
def execMaskClr (v : View) (t : Nat) (hi : Bool) (val : W32) (s : State) (set : W32 := 0) : Host.Outcome State Fault Refusal :=
  require (okTile t) (doMaskClr v t hi val set s)

/-! ### The Debug Module (R406) -/

/-- dmstatus of the External Debug Support 0.13.2: version 2, authenticated, and the hart's condition. -/
def dmStatus (T : Tile) : Nat :=
  let halted := T.st == .halted
  let gone := T.st == .unavailable
  let running := !halted && !gone
  2 + mkBit 7 true + mkBit 8 halted + mkBit 9 halted + mkBit 10 running + mkBit 11 running + mkBit 12 gone +
    mkBit 13 gone + mkBit 16 (running && !T.core.debug) + mkBit 17 (running && !T.core.debug) +
    mkBit 22 true

/-- The value of DMI register `a` (R406). -/
def dmiRead (T : Tile) (a : Nat) : Nat :=
  match a with
  | 0x04 => T.core.arg0.toNat
  | 0x05 => T.core.arg1.toNat
  | 0x10 => 1
  | 0x11 => dmStatus T
  | 0x16 => mkFld 24 5 2 + mkFld 8 3 T.core.cmderr + 2
  | 0x20 => T.core.progbuf0.toNat
  | 0x21 => T.core.progbuf1.toNat
  | _ => 0

/-! ### Reads of the block (R25, R443) -/

/-- The latched CNTHI of a counter in a view (R386). -/
def cntHi (s : State) (v : View) (a : Nat) : Nat :=
  match v with
  | .core => (Tab.get 0 s.ctrs.latchCore a).toNat
  | .device => (Tab.get 0 s.ctrs.latchDev a).toNat

/-- The value that a read of a word of the block returns before any effect of the read; none at an offset where no
register lies (R443). Words of a counter slot's reserved half read as zero. -/
def tileReg (s : State) (v : View) (t off : Nat) : Option Nat :=
  let T := s.tile t
  let q := off / 16 % 16
  if off % 4 ≠ 0 then none
  else if off = 0x0 then some (mkFld 11 4 (deckOf t) + mkFld 0 11 (if v == .core then T.number t else t))
  else if off = 0x4 then some (tileStatus T)
  else if off = 0x8 then some T.space
  else if off = 0xC then some 0
  else if 0x1000 ≤ off ∧ off < 0x1040 then
    some (match off % 16 / 4 with
      | 0 => 0
      | 1 => qstat (T.queue q)
      | 2 => (T.queue q).ring.toNat * 512
      | _ => (T.queue q).lastSeq.toNat)
  else if 0x1100 ≤ off ∧ off < 0x1140 then
    let c := T.chan q
    some (match off % 16 / 4 with
      | 0 => rxcfg c
      | 1 => c.head.toNat
      | 2 => c.tail.toNat
      | _ => mkFld 16 16 c.full + mkFld 0 16 c.other)
  else if off = 0x1140 then some T.retry
  else if off = 0x1144 then some (mkBit 31 T.compat + mkBit 30 T.ring8)
  else if off = 0x1148 then some (mkBit 31 T.member + mkBit 30 T.memberJob)
  else if off = 0x114C then some 0
  else if 0x2000 ≤ off ∧ off < 0x2010 then some (T.pend.toNat / 2 ^ (32 * (off / 4 % 2)) % 2 ^ 32)
  else if 0x2010 ≤ off ∧ off < 0x2020 then some (T.mask.toNat / 2 ^ (32 * (off / 4 % 2)) % 2 ^ 32)
  else if off = 0x2020 then some T.vbase.toNat
  else if off = 0x2024 then some (mkBit 31 T.curValid + T.curSrc.toNat)
  else if 0x3000 ≤ off ∧ off < 0x3100 then
    let a := tileCtr t (off % 256 / 16)
    some (match off % 16 / 4 with
      | 0 => (s.ctr a).val.toNat % 2 ^ 32
      | 1 => cntHi s v a
      | _ => 0)
  else if 0x3100 ≤ off ∧ off < 0x3120 then some (Tab.get pcfgReset T.pcfg (off % 32 / 4)).toNat
  else if 0x3120 ≤ off ∧ off < 0x3130 then some (Tab.get 0 T.pthr (off % 16 / 4)).toNat
  else if off = 0x3140 then some 0
  else if 0x4000 ≤ off ∧ off < 0x4200 then
    some (match v with
      | .core => 0
      | .device => dmiRead T ((off - 0x4000) / 4))
  else none

/-- The effect of a read of a word of the block: an RC field clears, and CNTLO latches (R8, R386). -/
def tileReadEffect (s : State) (v : View) (t off : Nat) : State :=
  let q := off / 16 % 16
  if 0x1000 ≤ off ∧ off < 0x1040 ∧ off % 16 = 4 then s.modQueue t q fun Q => { Q with refused := false }
  else if 0x1100 ≤ off ∧ off < 0x1140 ∧ off % 16 = 12 then
    s.modTile t fun T => T.setChan q { T.chan q with full := 0, other := 0 }
  else if 0x3000 ≤ off ∧ off < 0x3100 ∧ off % 16 = 0 then
    { doCntloRead v (tileCtr t (off % 256 / 16)) s with rdata := s.rdata }
  else s

/-! ### Writes of the block -/

/-- PCFGn as written: reserved bits read zero, and AUTORST exists for n = 0–3 (R391). -/
def pcfgField (n : Nat) (val : W32) : W32 := val &&& (if n < 4 then 0xC0F0003F#32 else 0x80F0003F#32)

/-- A write of a register of the block without a row of its own: MSGCTL, COMPAT, HALTGRP, VBASE, PCFG and PTHR. -/
def tileRwWrite (v : View) (t off : Nat) (val : W32) (s : State) : State :=
  let T := s.tile t
  if off = 0x1140 then s.setTile t { T with retry := val.toNat % 256 }
  else if off = 0x1144 then
    if T.st = .run ∨ T.st = .halted then s else s.setTile t { T with compat := val.getLsbD 31, ring8 := val.getLsbD 30 }
  else if off = 0x1148 then
    (match v with
      | .core => s
      | .device => s.setTile t { T with member := val.getLsbD 31, memberJob := val.getLsbD 30 })
  else if off = 0x2020 then s.setTile t { T with vbase := val &&& 0x003FFC00#32 }
  else if 0x3100 ≤ off ∧ off < 0x3120 then
    s.setTile t { T with pcfg := Tab.set pcfgReset T.pcfg (off % 32 / 4) (pcfgField (off % 32 / 4) val) }
  else if 0x3120 ≤ off ∧ off < 0x3130 then s.setTile t { T with pthr := Tab.set 0 T.pthr (off % 16 / 4) val }
  else s

/-- A word written to the block through a view: the register's own row where it has one. RO words ignore it. -/
def tileWrite (v : View) (t off : Nat) (val : W32) : State → State := regChange v t fun s =>
  let q := off / 16 % 16
  if off = 0xC then doExit v t val s
  else if 0x1000 ≤ off ∧ off < 0x1040 then
    (match off % 16 with
      | 0 => doQpush v t q val s
      | 8 => doQcrWrite v t q val s
      | _ => s)
  else if 0x1100 ≤ off ∧ off < 0x1140 then
    (match off % 16 with
      | 0 => doRxcfgWrite v t q val s
      | 8 => doRxtailWrite v t q val s
      | _ => s)
  else if off = 0x114C then doTmarkWrite v t val s
  else if off = 0x2000 ∨ off = 0x2004 then doPendSet v t (off == 0x2004) val s
  else if off = 0x2008 ∨ off = 0x200C then doPendClr v t (off == 0x200C) val 0 s
  else if off = 0x2010 ∨ off = 0x2014 then doMaskSet v t (off == 0x2014) val s
  else if off = 0x2018 ∨ off = 0x201C then doMaskClr v t (off == 0x201C) val 0 s
  else if off = 0x3140 then doCntrstWrite v (0x400100000000 + 0x10000 * t + 0x3140) val 0 s
  else tileRwWrite v t off val s

/-! ### STORE_CORRECTIVE_WRITE (R31) -/

/-- STORE_CORRECTIVE_WRITE: a word corrected on a read is rewritten in the next free write-port cycle. -/
def doStoreCorrectiveWrite (t w : Nat) (s : State) : State :=
  s.modTile t fun T =>
    if T.correctPend.contains w then
      { T with storeErr := if Tab.get 0 T.storeErr w = 1 then Tab.set 0 T.storeErr w 0 else T.storeErr,
               correctPend := T.correctPend.filter (· != w) }
    else T

/-- STORE_CORRECTIVE_WRITE. -/
def execStoreCorrectiveWrite (t w : Nat) (s : State) : Host.Outcome State Fault Refusal :=
  require (okTile t && decide (8 * w < Config.storeBytes)) (doStoreCorrectiveWrite t w s)

end Sys2Proof.Machine
end

