-- ==== Sys2Proof/Machine/Operands.lean ====
section
/-!
DEFINITION. The operand forms of the spindle core (R24–R26): its integer registers, its CSRs, its loads, stores and
atomic accesses in the tile-local map, and the address triggers that match them (R406).
-/

namespace Sys2Proof.Machine
open Sys2Proof

/-! ### Integer registers (R24) -/

/-- An integer register; x0 reads as zero. -/
def Core.reg (c : Core) (n : Nat) : W32 := if n % 32 = 0 then 0 else Tab.get 0 c.x (n % 32)
/-- An integer register written; a write of x0 is discarded. -/
def Core.setReg (c : Core) (n : Nat) (v : W32) : Core :=
  if n % 32 = 0 then c else { c with x := Tab.set 0 c.x (n % 32) v }
/-- The state with a function applied to the core of tile `t`. -/
def State.modCore (s : State) (t : Nat) (f : Core → Core) : State := s.modTile t fun T => { T with core := f T.core }

/-! ### CSRs (R26) -/

/-- A CSR number that the core has: the standard machine, counter, trigger and debug ranges, and 0x7C0–0x7C2. -/
def csrExists (n : Nat) : Bool :=
  decide ((0x300 ≤ n ∧ n ≤ 0x3FF) ∨ (0x700 ≤ n ∧ n ≤ 0x7BF) ∨ (0x7C0 ≤ n ∧ n ≤ 0x7C2) ∨ (0xB00 ≤ n ∧ n ≤ 0xBFF) ∨
    (0xF00 ≤ n ∧ n ≤ 0xFFF) ∨ (0xC00 ≤ n ∧ n ≤ 0xC1F) ∨ (0xC80 ≤ n ∧ n ≤ 0xC9F))

/-- dcsr, dpc, dscratch0 and dscratch1: Debug mode only. -/
def csrDebugOnly (n : Nat) : Bool := decide (0x7B0 ≤ n ∧ n ≤ 0x7B3)

/-- misa: RV32IMAC. -/
def misaValue : Nat := 0x40001105

/-- tdata1 of a trigger at reset: type 2, with the largest NAPOT mask and the action Debug mode (assumption 16). -/
def tdata1Reset : W32 := 0x23E01000#32

/-- The value of a CSR as it is read. -/
def csrRead (s : State) (t n : Nat) : Nat :=
  let c := (s.tile t).core
  match n with
  | 0x300 => mkBit 3 c.mie + mkBit 7 c.mpie
  | 0x301 => misaValue
  | 0x305 => c.mtvec.toNat
  | 0x340 => c.mscratch.toNat
  | 0x341 => c.mepc.toNat
  | 0x342 => c.mcause.toNat
  | 0x343 => c.mtval.toNat
  | 0x7A0 => c.tselect.toNat
  | 0x7A1 => (Tab.get tdata1Reset c.tdata1 c.tselect.toNat).toNat
  | 0x7A2 => (Tab.get 0 c.tdata2 c.tselect.toNat).toNat
  | 0x7A4 => 4
  | 0x7B0 => c.dcsr.toNat
  | 0x7B1 => c.dpc.toNat
  | 0x7B2 => c.dscratch0.toNat
  | 0x7B3 => c.dscratch1.toNat
  | 0x7C0 => s.tick.num.toNat % 2 ^ 32
  | 0x7C1 => c.tickHi.toNat
  | 0x7C2 => budgetOf s t
  | 0xB00 => c.mcycle.toNat % 2 ^ 32
  | 0xB80 => c.mcycle.toNat / 2 ^ 32
  | 0xB02 => c.minstret.toNat % 2 ^ 32
  | 0xB82 => c.minstret.toNat / 2 ^ 32
  | 0xF14 => (s.tile t).number t
  | _ => 0

/-- The low half of a 64-bit register replaced. -/
def setLo (v : W64) (x : W32) : W64 := BitVec.ofNat 64 (v.toNat / 2 ^ 32 * 2 ^ 32 + x.toNat)
/-- The high half of a 64-bit register replaced. -/
def setHi (v : W64) (x : W32) : W64 := BitVec.ofNat 64 (x.toNat * 2 ^ 32 + v.toNat % 2 ^ 32)

/-- tdata1 as it is kept: type 2 and action Debug mode are fixed; match 0 (equal) or 1 (NAPOT); dmode from Debug mode
only (R406, assumption 16). -/
def tdata1Field (old val : W32) (debug : Bool) : W32 :=
  let match_ : W32 := if fld val.toNat 7 4 = 1 then 0x80 else 0
  (val &&& 0x847#32) ||| match_ ||| 0x23E01000#32 ||| (if debug then val &&& 0x08000000#32 else old &&& 0x08000000#32)

/-- A core after a write of a CSR. Fields that are not implemented keep reading zero, RO registers ignore the write,
and a trigger whose dmode bit is set is written from Debug mode only. Bit 0 of mepc and of dpc stays 0, as the RISC-V
architecture has it; R26 gives mepc no fixed bit (PRESUMED, assumption 136). -/
def Core.csrWrite (c : Core) (n : Nat) (v : W32) : Core :=
  let locked := (Tab.get tdata1Reset c.tdata1 c.tselect.toNat).getLsbD 27 && !c.debug
  match n with
  | 0x300 => { c with mie := v.getLsbD 3, mpie := v.getLsbD 7 }
  | 0x305 => { c with mtvec := v &&& 0xFFFFFFFC#32 }
  | 0x340 => { c with mscratch := v }
  | 0x341 => { c with mepc := v &&& 0xFFFFFFFE#32 }
  | 0x342 => { c with mcause := v }
  | 0x343 => { c with mtval := v }
  | 0x7A0 => if v.toNat < 4 then { c with tselect := v } else c
  | 0x7A1 => if locked then c
    else { c with tdata1 := Tab.set tdata1Reset c.tdata1 c.tselect.toNat
                    (tdata1Field (Tab.get tdata1Reset c.tdata1 c.tselect.toNat) v c.debug) }
  | 0x7A2 => if locked then c else { c with tdata2 := Tab.set 0 c.tdata2 c.tselect.toNat v }
  | 0x7B0 => { c with dcsr := (c.dcsr &&& ~~~0x8E04#32) ||| (v &&& 0x8E04#32) }
  | 0x7B1 => { c with dpc := v &&& 0xFFFFFFFE#32 }
  | 0x7B2 => { c with dscratch0 := v }
  | 0x7B3 => { c with dscratch1 := v }
  | 0xB00 => { c with mcycle := setLo c.mcycle v }
  | 0xB80 => { c with mcycle := setHi c.mcycle v }
  | 0xB02 => { c with minstret := setLo c.minstret v }
  | 0xB82 => { c with minstret := setHi c.minstret v }
  | _ => c

/-- The operand of a CSR instruction: a register, or the immediate in its place. -/
def csrOperand (c : Core) (op : CsrOp) (rs : Nat) : W32 :=
  match op with
  | .rw | .rs | .rc => c.reg rs
  | _ => BitVec.ofNat 32 (rs % 32)

/-- The instruction writes its CSR: all but the set and clear forms with x0 or a zero immediate (R26). -/
def csrWrites (op : CsrOp) (rs : Nat) : Bool :=
  match op with
  | .rw | .rwi => true
  | _ => rs % 32 != 0

/-- The instruction reads its CSR: all but the write forms with rd = x0. -/
def csrReads (op : CsrOp) (rd : Nat) : Bool :=
  match op with
  | .rw | .rwi => rd % 32 != 0
  | _ => true

/-- The value a CSR instruction writes. -/
def csrNew (op : CsrOp) (old v : W32) : W32 :=
  match op with
  | .rw | .rwi => v
  | .rs | .rsi => old ||| v
  | .rc | .rci => old &&& ~~~v

/-- A CSR instruction raises an illegal-instruction exception: a number the core does not have, a debug register
outside Debug mode, or a write in the read-only range (R26). -/
def csrIllegal (c : Core) (op : CsrOp) (n rs : Nat) : Bool :=
  !csrExists n || (csrDebugOnly n && !c.debug) || (decide (n / 1024 = 3) && csrWrites op rs)

/-- The encoding of a CSR instruction (Zicsr), which mtval takes. -/
def csrWord (op : CsrOp) (n rd rs : Nat) : W32 :=
  let f : Nat := match op with
    | .rw => 1 | .rs => 2 | .rc => 3 | .rwi => 5 | .rsi => 6 | .rci => 7
  BitVec.ofNat 32 (n * 2 ^ 20 + rs % 32 * 2 ^ 15 + f * 2 ^ 12 + rd % 32 * 2 ^ 7 + 0x73)

/-- The effect of a legal CSR instruction on the core: the old value to rd, the new value to the CSR, and the latch of
tickhi by a read of ticklo (R26). -/
def csrEffect (s : State) (t : Nat) (op : CsrOp) (n rd rs : Nat) : State :=
  let old := BitVec.ofNat 32 (csrRead s t n)
  let hi := BitVec.ofNat 32 (s.tick.num.toNat / 2 ^ 32)
  s.modCore t fun c =>
    let v := csrNew op old (csrOperand c op rs)
    let c := if csrReads op rd && n == 0x7C0 then { c with tickHi := hi } else c
    let c := if csrReads op rd then c.setReg rd old else c
    if csrWrites op rs then c.csrWrite n v else c

/-! ### Address triggers (R406) -/

/-- Trigger `i` matches an address: equality, or the NAPOT range of tdata2. -/
def trigAddr (c : Core) (i : Nat) (a : Nat) : Bool :=
  let t1 := Tab.get tdata1Reset c.tdata1 i
  let t2 := (Tab.get 0 c.tdata2 i).toNat
  if fld t1.toNat 7 4 = 1 then
    let m := (t2 + 1).xor t2
    t2.lor m == a.lor m
  else t2 == a

/-- Trigger `i` by itself matches an access: bit 0 load, 1 store, 2 execute. -/
def trigOne (c : Core) (i bit a : Nat) : Bool :=
  let t1 := Tab.get tdata1Reset c.tdata1 i
  t1.getLsbD bit && t1.getLsbD 6 && trigAddr c i a

/-- A trigger, with those it is chained to, matches an access (R406): each trigger of a chain matches. -/
def trigHit (c : Core) (bit a : Nat) : Bool :=
  let m := fun i => trigOne c i bit a
  let ch := fun i => (Tab.get tdata1Reset c.tdata1 i).getLsbD 11
  let runs := fun i => m i && !(decide (0 < i) && ch (i - 1))
  (runs 0 && (!ch 0 || (m 1 && (!ch 1 || (m 2 && (!ch 2 || m 3)))))) ||
    (runs 1 && (!ch 1 || (m 2 && (!ch 2 || m 3)))) || (runs 2 && (!ch 2 || m 3)) || runs 3

/-! ### Accesses of the core (R25, R30, R31) -/

/-- The outcome of an access: the state, a value read, and the cause of an exception. -/
structure Acc where
  st : State
  val : Nat := 0
  cause : Option Nat := none

/-- The access fault of a kind (R25). -/
def accFault (k : AccKind) : Nat :=
  match k with
  | .fetch => 1
  | .load | .lr => 5
  | _ => 7

/-- The address-misaligned exception of a kind (R25, R27). -/
def accMisaligned (k : AccKind) : Nat :=
  match k with
  | .load | .lr => 4
  | _ => 6

/-- The bit of tdata1 that a kind of access matches. -/
def accTrig (k : AccKind) : List Nat :=
  match k with
  | .fetch => [2]
  | .load | .lr => [0]
  | .store | .sc => [1]
  | .amo _ => [0, 1]

/-- The new value of an atomic memory operation of the A extension, by its funct5. -/
def amoValue (op : Nat) (old v : W32) : W32 :=
  match op with
  | 0x00 => old + v
  | 0x01 => v
  | 0x04 => old ^^^ v
  | 0x08 => old ||| v
  | 0x0C => old &&& v
  | 0x10 => if old.toInt ≤ v.toInt then old else v
  | 0x14 => if old.toInt ≤ v.toInt then v else old
  | 0x18 => if old.toNat ≤ v.toNat then old else v
  | _ => if old.toNat ≤ v.toNat then v else old

/-- A load or store of tile-store bytes; a store's value is that of a register. -/
def storeAccess (s : State) (t : Nat) (k : AccKind) (n addr : Nat) (v : W32) : Acc :=
  let rd := storeRead s t addr n
  let loaded : Acc := match rd.2.2 with
    | some _ => { st := rd.1, cause := some (accFault k) }
    | none => { st := rd.1, val := leNat rd.2.1 }
  let stored := fun (s : State) (x : Nat) (ret : Nat) =>
    let r := narrowPut s t addr (leBytes n x)
    ({ st := r.1, val := ret, cause := if r.2 then some 7 else none } : Acc)
  match k with
  | .fetch | .load => loaded
  | .store => stored s v.toNat 0
  | .lr => match loaded.cause with
    | some _ => loaded
    | none => { loaded with st := loaded.st.modCore t fun c => { c with resv := some addr } }
  | .sc =>
    if (s.tile t).core.resv = some addr then
      let r := stored s v.toNat 0
      { r with st := r.st.modCore t fun c => { c with resv := none } }
    else { st := s.modCore t fun c => { c with resv := none }, val := 1 }
  | .amo op => match loaded.cause with
    | some _ => { loaded with cause := some 7 }
    | none => stored loaded.st (amoValue op (BitVec.ofNat 32 loaded.val) v).toNat loaded.val

/-- An aligned word access of the core to a register that exists (R25). The atomic accesses act on a register as on a word
of memory: LR reads it and reserves its address, SC writes it under that reservation, an AMO reads it and writes the new
value (DEDUCED, assumption 16). -/
def regAccess (s : State) (t : Nat) (k : AccKind) (addr off x : Nat) (v : W32) : Acc :=
  let read := tileReadEffect s .core t off
  match k with
  | .fetch => { st := s, cause := some 1 }
  | .load => { st := read, val := x }
  | .lr => { st := read.modCore t fun c => { c with resv := some addr }, val := x }
  | .store => { st := tileWrite .core t off v s }
  | .sc =>
    let free := fun (s : State) => s.modCore t fun c => { c with resv := none }
    if (s.tile t).core.resv = some addr then { st := free (tileWrite .core t off v s) } else { st := free s, val := 1 }
  | .amo op => { st := tileWrite .core t off (amoValue op (BitVec.ofNat 32 x) v) read, val := x }

/-- An access of the core to the tile-local map, checked for range, width and alignment (R25). -/
def coreAccess (s : State) (t : Nat) (k : AccKind) (n addr : Nat) (v : W32) : Acc :=
  if 0x40000000 ≤ addr ∧ addr < 0x40010000 then
    let off := addr - 0x40000000
    if k = .fetch ∨ n ≠ 4 then { st := s, cause := some (accFault k) }
    else if addr % 4 ≠ 0 then { st := s, cause := some (accMisaligned k) }
    else match tileReg s .core t off with
      | none => { st := s, cause := some (accFault k) }
      | some x => regAccess s t k addr off x v
  else if !inStore addr n then { st := s, cause := some (accFault k) }
  else if k ≠ .fetch ∧ addr % n ≠ 0 then { st := s, cause := some (accMisaligned k) }
  else storeAccess s t k n addr v

/-- A value loaded, extended to 32 bits by its width and signedness. -/
def loadExtend (n : Nat) (sgn : Bool) (v : Nat) : W32 :=
  match n with
  | 1 => if sgn then (BitVec.ofNat 8 v).signExtend 32 else BitVec.ofNat 32 (v % 2 ^ 8)
  | 2 => if sgn then (BitVec.ofNat 16 v).signExtend 32 else BitVec.ofNat 32 (v % 2 ^ 16)
  | _ => BitVec.ofNat 32 v

end Sys2Proof.Machine
end

