-- ==== Sys2Proof/Machine/Spindle.lean ====
section
/-!
DEFINITION. The spindle core's commands (R24–R27, R43–R45, R406, R407): CSR instructions, accesses, ECALL, EBREAK, MRET,
WFI, event delivery, and the Debug Module's halt, resume and abstract commands.
-/

namespace Sys2Proof.Machine
open Sys2Proof

/-! ### Retiring and exceptions (R24, R27) -/

/-- The core of a tile executes: the tile is in RUN, and the core fetches, does not wait, and is not in Debug mode. -/
def Tile.steps (T : Tile) : Bool := T.st == .run && T.core.fetching && !T.core.waiting && !T.core.debug

/-- dcsr.step: one instruction, then Debug mode (R24, assumption 16). -/
def stepHalt (s : State) (t : Nat) : State :=
  if (s.tile t).core.dcsr.getLsbD 2 && (s.tile t).steps then haltTile s t 4 else s

/-- An instruction of `len` bytes retires: the next PC and minstret; the tile cycles it took, among them those in which the
core stalls on a load or a divide, are free values (R24, R390, assumption 4). -/
def retire (s : State) (t len : Nat) (counts : Bool) : State :=
  let s := s.modCore t fun c =>
    { c with pc := c.pc + BitVec.ofNat 32 len, minstret := if counts then c.minstret + 1 else c.minstret }
  stepHalt (eventCycles (tileCycles (tileEvent s t 0x05 none 1) t) t 0x06 none) t

/-- A synchronous exception (R27): the saved registers, the jump to mtvec and the handler; inside a handler, a double
fault, which leaves the registers as they are and drains the tile toward FAULTED. -/
def syncExc (s : State) (t cause mtval : Nat) : State :=
  if (s.tile t).core.inHandler then startDrain s t .fault
  else
    stepHalt (s.modCore t fun c =>
      { c with mepc := c.pc, mcause := BitVec.ofNat 32 cause, mtval := BitVec.ofNat 32 mtval, mpie := c.mie,
               mie := false, pc := c.mtvec, inHandler := true }) t

/-! ### CSR instructions, ECALL, EBREAK, MRET, WFI -/

/-- The instruction writes minstret or minstreth, which then keeps the written value. -/
def writesInstret (op : CsrOp) (n rs : Nat) : Bool := (n == 0xB02 || n == 0xB82) && csrWrites op rs

/-- CSR_ACCESS (R26). -/
def doCsrAccess (t : Nat) (op : CsrOp) (csr : BitVec 12) (rd rs : Nat) (s : State) : State :=
  if !(s.tile t).steps then s
  else if csrIllegal (s.tile t).core op csr.toNat rs then syncExc s t 2 (csrWord op csr.toNat rd rs).toNat
  else retire (csrEffect s t op csr.toNat rd rs) t 4 (!writesInstret op csr.toNat rs)

/-- CSR_ACCESS. -/
def execCsrAccess (t : Nat) (op : CsrOp) (csr : BitVec 12) (rd rs : Nat) (s : State) :
    Host.Outcome State Fault Refusal :=
  require (okTile t && decide (rd < 32) && decide (rs < 32)) (doCsrAccess t op csr rd rs s)

/-- ECALL (R27): the environment call from Machine mode, mcause 11. mtval takes 0: the manual sets it and gives no value for
a cause that has neither a faulting address nor an instruction (DESIGN CHOICE, assumption 19). -/
def doEcall (t : Nat) (s : State) : State := if (s.tile t).steps then syncExc s t 11 0 else s

/-- ECALL. -/
def execEcall (t : Nat) (s : State) : Host.Outcome State Fault Refusal := require (okTile t) (doEcall t s)

/-- EBREAK (R27, R407): Debug mode where dcsr.ebreakm is set, else a breakpoint exception, mcause 3. -/
def doEbreak (t : Nat) (s : State) : State :=
  if !(s.tile t).steps then s
  else if (s.tile t).core.dcsr.getLsbD 15 then haltTile s t causeEbreak
  else syncExc s t 3 (s.tile t).core.pc.toNat

/-- EBREAK. -/
def execEbreak (t : Nat) (s : State) : Host.Outcome State Fault Refusal := require (okTile t) (doEbreak t s)

/-- MRET (R45): the PC from mepc, MIE from MPIE, the handler ended and CURSRC.VALID cleared. MPIE becomes 1, as the
RISC-V privileged architecture has it (assumption 17). -/
def mretEffect (s : State) (t : Nat) : State :=
  s.modTile t fun T =>
    { T with curValid := false,
             core := { T.core with pc := T.core.mepc, mie := T.core.mpie, mpie := true, inHandler := false } }

/-- MRET. -/
def doMret (t : Nat) (s : State) : State :=
  if (s.tile t).steps then retire (mretEffect s t) t 0 true else s

/-- MRET. -/
def execMret (t : Nat) (s : State) : Host.Outcome State Fault Refusal := require (okTile t) (doMret t s)

/-- WFI (R45): outside a handler the core waits unless a source is pending and unmasked; in a handler it goes on
(assumption 18). -/
def doWfi (t : Nat) (s : State) : State :=
  let T := s.tile t
  if !T.steps then s
  else
    let s := retire s t 4 true
    if !T.core.inHandler && T.pend &&& ~~~T.mask == 0 then s.modCore t fun c => { c with waiting := c.fetching }
    else s

/-- WFI. -/
def execWfi (t : Nat) (s : State) : Host.Outcome State Fault Refusal := require (okTile t) (doWfi t s)

/-! ### Accesses (R25, R31, R406) -/

/-- Bit errors that the environment has put into the word of an address (R31). -/
def upsetWord (s : State) (t addr n : Nat) : State :=
  if n = 0 ∨ !inStore addr 1 then s
  else s.modTile t fun T =>
    { T with storeErr := Tab.set 0 T.storeErr (addr / 8) (Tab.get 0 T.storeErr (addr / 8) + n) }

/-- The register that an access writes. -/
def accRd (k : AccKind) (rd : Nat) : Nat :=
  match k with
  | .fetch | .store => 0
  | _ => rd

/-- SPINDLE_LOAD_STORE (R25): a fetch, load, store or atomic access. A trigger that matches comes before the access and
enters Debug mode; a failing access raises its exception with mtval its address; a fetch retires nothing. -/
def doSpindleLoadStore (t : Nat) (k : AccKind) (width : Nat) (sgn : Bool) (addr : W32) (rd rs ilen upset : Nat)
    (s : State) : State :=
  let s := upsetWord s t addr.toNat upset
  let c := (s.tile t).core
  if !(s.tile t).steps then s
  else if (accTrig k).any fun b => trigHit c b addr.toNat then haltTile s t causeTrigger
  else
    let a := coreAccess s t k width addr.toNat (c.reg rs)
    match a.cause with
    | some cause => syncExc a.st t cause addr.toNat
    | none =>
      if k = .fetch then a.st
      else retire (a.st.modCore t fun c => c.setReg (accRd k rd) (loadExtend width sgn a.val)) t ilen true

/-- SPINDLE_LOAD_STORE. -/
def execSpindleLoadStore (t : Nat) (k : AccKind) (width : Nat) (sgn : Bool) (addr : W32) (rd rs ilen upset : Nat)
    (s : State) : Host.Outcome State Fault Refusal :=
  require (okTile t && (width == 1 || width == 2 || width == 4) && (ilen == 2 || ilen == 4) && decide (rd < 32) &&
    decide (rs < 32)) (doSpindleLoadStore t k width sgn addr rd rs ilen upset s)

/-! ### Event delivery (R43, R44) -/

/-- The pending, unmasked source with the lowest number (R44). -/
def Tile.winner (T : Tile) : Option Nat := (maskBits 64 (T.pend &&& ~~~T.mask).toNat).head?

/-- The core takes an event: mepc, mcause, MIE into MPIE and the jump to the vector table; its pending bit clears. -/
def enterEvent (s : State) (t n : Nat) : State :=
  s.modTile t fun T =>
    { T with pend := T.pend &&& ~~~(BitVec.ofNat 64 (2 ^ n)), curValid := true, curSrc := BitVec.ofNat 6 n,
             core := { T.core with mepc := T.core.pc, mcause := BitVec.ofNat 32 (0x80000000 + n), mpie := T.core.mie,
                                   mie := false, pc := T.vbase + BitVec.ofNat 32 (16 * n), inHandler := true,
                                   waiting := false } }

/-- EVENT_DELIVERY (R43): with MIE set, outside a handler and Debug mode, the lowest pending unmasked source is
delivered; an EVENT trace record names it (R400). A SET write that reaches its pending bit in the same cycle (`set`) wins
over the delivery's clear (R10). -/
def doEventDelivery (t : Nat) (set : Bool) (s : State) : State :=
  let T := s.tile t
  if T.st = .run ∧ T.core.fetching ∧ !T.core.debug ∧ T.core.mie ∧ !T.core.inHandler then
    match T.winner with
    | none => s
    | some n =>
      let s := enterEvent s t n
      let s := if set then s.modTile t fun T => { T with pend := T.pend ||| BitVec.ofNat 64 (2 ^ n) } else s
      let s := tileEvent s t 0x10 none 1
      traceTile s t { typ := 6, tag := T.space, pc := (s.tile t).core.mepc, aux := n }
  else s

/-- EVENT_DELIVERY. -/
def execEventDelivery (t : Nat) (s : State) (set : Bool := false) : Host.Outcome State Fault Refusal :=
  require (okTile t) (doEventDelivery t set s)

/-! ### The Debug Module (R406, R407) -/

/-- DMI_HALTREQ (R407). -/
def execDmiHaltreq (t : Nat) (s : State) : Host.Outcome State Fault Refusal :=
  require (okTile t) (haltTile s t causeHaltreq)

/-- DMI_RESUMEREQ (R407). -/
def execDmiResumereq (t : Nat) (s : State) : Host.Outcome State Fault Refusal :=
  require (okTile t) (resumeRequest s t)

/-- How an instruction of the program buffer ends: with the next one, with an EBREAK, or with an exception. -/
inductive PbEnd
  | next | stop | exc
  deriving DecidableEq, Repr

/-- A quotient and remainder instruction of the M extension, by funct3. -/
def mulDiv (f3 : Nat) (a b : W32) : W32 :=
  match f3 with
  | 0 => a * b
  | 1 => BitVec.ofInt 32 (a.toInt * b.toInt / 2 ^ 32)
  | 2 => BitVec.ofInt 32 (a.toInt * b.toNat / 2 ^ 32)
  | 3 => BitVec.ofNat 32 (a.toNat * b.toNat / 2 ^ 32)
  | 4 => if b = 0 then BitVec.allOnes 32 else BitVec.ofInt 32 (a.toInt.tdiv b.toInt)
  | 5 => if b = 0 then BitVec.allOnes 32 else BitVec.ofNat 32 (a.toNat / b.toNat)
  | 6 => if b = 0 then a else BitVec.ofInt 32 (a.toInt.tmod b.toInt)
  | _ => if b = 0 then a else BitVec.ofNat 32 (a.toNat % b.toNat)

/-- An arithmetic instruction of RV32I, by funct3; `alt` selects SUB and SRA. -/
def aluOp (f3 : Nat) (alt : Bool) (a b : W32) : W32 :=
  match f3 with
  | 0 => if alt then a - b else a + b
  | 1 => a <<< (b.toNat % 32)
  | 2 => if a.toInt < b.toInt then 1 else 0
  | 3 => if a.toNat < b.toNat then 1 else 0
  | 4 => a ^^^ b
  | 5 => if alt then a.sshiftRight (b.toNat % 32) else a >>> (b.toNat % 32)
  | 6 => a ||| b
  | _ => a &&& b

/-- A CSR operation by funct3. -/
def csrOpOf (f3 : Nat) : Option CsrOp :=
  match f3 with
  | 1 => some .rw | 2 => some .rs | 3 => some .rc | 5 => some .rwi | 6 => some .rsi | 7 => some .rci
  | _ => none

/-- A load, store or atomic of the program buffer. -/
def pbAccess (s : State) (t : Nat) (k : AccKind) (n : Nat) (sgn : Bool) (addr : W32) (rd rs : Nat) : State × PbEnd :=
  let a := coreAccess s t k n addr.toNat ((s.tile t).core.reg rs)
  match a.cause with
  | some _ => (a.st, .exc)
  | none => (a.st.modCore t fun c => c.setReg (accRd k rd) (loadExtend n sgn a.val), .next)

/-- One 32-bit instruction of the program buffer. Control transfers, and AUIPC, act as illegal instructions, as the
External Debug Support allows (assumption 16). Of MISC-MEM the core has FENCE alone (R24). -/
def pbExec (s : State) (t w : Nat) : State × PbEnd :=
  let c := (s.tile t).core
  let rd := fld w 7 5
  let f3 := fld w 12 3
  let a := c.reg (fld w 15 5)
  let b := c.reg (fld w 20 5)
  let f7 := fld w 25 7
  let immI := BitVec.ofInt 32 (sInt 12 (fld w 20 12))
  let immS := BitVec.ofInt 32 (sInt 12 (fld w 25 7 * 32 + fld w 7 5))
  let put := fun v => (s.modCore t fun c => c.setReg rd v, PbEnd.next)
  match fld w 0 7 with
  | 0x37 => put (BitVec.ofNat 32 (fld w 12 20 * 4096))
  | 0x13 =>
    if f3 = 1 ∧ f7 ≠ 0 then (s, .exc)
    else if f3 = 5 ∧ f7 ≠ 0 ∧ f7 ≠ 0x20 then (s, .exc)
    else put (aluOp f3 (f3 == 5 && f7 == 0x20) a (if f3 = 1 ∨ f3 = 5 then BitVec.ofNat 32 (fld w 20 5) else immI))
  | 0x33 =>
    if f7 = 1 then put (mulDiv f3 a b)
    else if f7 = 0 ∨ (f7 = 0x20 ∧ (f3 = 0 ∨ f3 = 5)) then put (aluOp f3 (f7 == 0x20) a b)
    else (s, .exc)
  | 0x03 =>
    (match f3 with
      | 0 => pbAccess s t .load 1 true (a + immI) rd 0
      | 1 => pbAccess s t .load 2 true (a + immI) rd 0
      | 2 => pbAccess s t .load 4 true (a + immI) rd 0
      | 4 => pbAccess s t .load 1 false (a + immI) rd 0
      | 5 => pbAccess s t .load 2 false (a + immI) rd 0
      | _ => (s, .exc))
  | 0x23 => if f3 < 3 then pbAccess s t .store (2 ^ f3) false (a + immS) 0 (fld w 20 5) else (s, .exc)
  | 0x2F =>
    let op := fld w 27 5
    if f3 ≠ 2 then (s, .exc)
    else if op = 2 then pbAccess s t .lr 4 false a rd 0
    else if op = 3 then pbAccess s t .sc 4 false a rd (fld w 20 5)
    else if [0, 1, 4, 8, 0xC, 0x10, 0x14, 0x18, 0x1C].contains op then pbAccess s t (.amo op) 4 false a rd (fld w 20 5)
    else (s, .exc)
  | 0x0F => if f3 = 0 then (s, .next) else (s, .exc)
  | 0x73 =>
    if w = 0x00100073 then (s, .stop)
    else if w = 0x10500073 then (s, .next)
    else match csrOpOf f3 with
      | none => (s, .exc)
      | some op =>
        if csrIllegal c op (fld w 20 12) (fld w 15 5) then (s, .exc)
        else (csrEffect s t op (fld w 20 12) rd (fld w 15 5), .next)
  | _ => (s, .exc)

/-- An I-form instruction word. -/
def encI (op f3 rd rs imm : Nat) : Nat := op + rd * 2 ^ 7 + f3 * 2 ^ 12 + rs * 2 ^ 15 + imm % 2 ^ 12 * 2 ^ 20
/-- An R-form instruction word. -/
def encR (op f3 f7 rd rs1 rs2 : Nat) : Nat :=
  op + rd * 2 ^ 7 + f3 * 2 ^ 12 + rs1 * 2 ^ 15 + rs2 * 2 ^ 20 + f7 * 2 ^ 25
/-- A word store. -/
def encSw (rs1 rs2 imm : Nat) : Nat :=
  0x23 + fld imm 0 5 * 2 ^ 7 + 2 * 2 ^ 12 + rs1 * 2 ^ 15 + rs2 * 2 ^ 20 + fld imm 5 7 * 2 ^ 25

/-- A compressed instruction as the 32-bit instruction it stands for (the C extension of R24); control transfers stay
out, as in `pbExec`. -/
def expandC (h : Nat) : Option Nat :=
  let f3 := fld h 13 3
  let rd := fld h 7 5
  let rs2 := fld h 2 5
  let rp := 8 + fld h 7 3
  let rq := 8 + fld h 2 3
  let imm6 := ofSInt 12 (sInt 6 (fld h 12 1 * 32 + fld h 2 5))
  match fld h 0 2, f3 with
  | 0, 0 =>
    let imm := fld h 7 4 * 64 + fld h 11 2 * 16 + fld h 5 1 * 8 + fld h 6 1 * 4
    if imm = 0 then none else some (encI 0x13 0 rq 2 imm)
  | 0, 2 => some (encI 0x03 2 rq rp (fld h 5 1 * 64 + fld h 10 3 * 8 + fld h 6 1 * 4))
  | 0, 6 => some (encSw rp rq (fld h 5 1 * 64 + fld h 10 3 * 8 + fld h 6 1 * 4))
  | 1, 0 => some (encI 0x13 0 rd rd imm6)
  | 1, 2 => some (encI 0x13 0 rd 0 imm6)
  | 1, 3 =>
    if rd = 2 then
      let imm := ofSInt 12 (sInt 10 (fld h 12 1 * 512 + fld h 3 2 * 128 + fld h 5 1 * 64 + fld h 2 1 * 32 + fld h 6 1 * 16))
      if imm = 0 then none else some (encI 0x13 0 2 2 imm)
    else if imm6 = 0 then none
    else some (0x37 + rd * 2 ^ 7 + ofSInt 20 (sInt 6 (fld h 12 1 * 32 + fld h 2 5)) * 2 ^ 12)
  | 1, 4 =>
    (match fld h 10 2 with
      | 0 => if bitAt h 12 then none else some (encI 0x13 5 rp rp rs2)
      | 1 => if bitAt h 12 then none else some (encI 0x13 5 rp rp (0x400 + rs2))
      | 2 => some (encI 0x13 7 rp rp imm6)
      | _ =>
        if bitAt h 12 then none
        else match fld h 5 2 with
          | 0 => some (encR 0x33 0 0x20 rp rp rq)
          | 1 => some (encR 0x33 4 0 rp rp rq)
          | 2 => some (encR 0x33 6 0 rp rp rq)
          | _ => some (encR 0x33 7 0 rp rp rq))
  | 2, 0 => if bitAt h 12 then none else some (encI 0x13 1 rd rd rs2)
  | 2, 2 =>
    if rd = 0 then none else some (encI 0x03 2 rd 2 (fld h 2 2 * 64 + fld h 12 1 * 32 + fld h 4 3 * 4))
  | 2, 4 =>
    if bitAt h 12 then
      (if rd = 0 ∧ rs2 = 0 then some 0x00100073 else if rs2 = 0 then none else some (encR 0x33 0 0 rd rd rs2))
    else if rs2 = 0 then none else some (encR 0x33 0 0 rd 0 rs2)
  | 2, 6 => some (encSw 2 rs2 (fld h 7 2 * 64 + fld h 9 4 * 4))
  | _, _ => none

/-- The program buffer run from byte `pos`: until an EBREAK, an exception, or its end, which acts as an EBREAK. The
answer is whether it raised an exception. -/
def runProgbuf : Nat → State → Nat → Nat → State × Bool
  | 0, s, _, _ => (s, false)
  | fuel + 1, s, t, pos =>
    let c := (s.tile t).core
    let w := (c.progbuf0.toNat + 2 ^ 32 * c.progbuf1.toNat) / 256 ^ pos
    if 8 ≤ pos then (s, false)
    else
      let long := w % 4 == 3
      if long && 4 < pos then (s, true)
      else match (if long then some (w % 2 ^ 32) else expandC (w % 2 ^ 16)) with
        | none => (s, true)
        | some i => match pbExec s t i with
          | (s, .next) => runProgbuf fuel s t (pos + if long then 4 else 2)
          | (s, .stop) => (s, false)
          | (s, .exc) => (s, true)

/-- abstractcs.cmderr set, where no error is held. -/
def setCmderr (s : State) (t e : Nat) : State := s.modCore t fun c => if c.cmderr = 0 then { c with cmderr := e } else c

/-- The transfer of an access register command, with cmderr where it fails: GPRs at 0x1000–0x101F, CSRs at
0x0000–0x0FFF. -/
def dmiRegister (s : State) (t cmd : Nat) : State :=
  let n := fld cmd 0 16
  let wr := bitAt cmd 16
  let c := (s.tile t).core
  if 0x1000 ≤ n ∧ n < 0x1020 then
    s.modCore t fun c => if wr then c.setReg (n - 0x1000) c.arg0 else { c with arg0 := c.reg (n - 0x1000) }
  else if 0x1000 ≤ n then setCmderr s t 3
  else if csrIllegal c (if wr then .rw else .rs) n 0 then setCmderr s t 3
  else if wr then s.modCore t fun c => c.csrWrite n c.arg0
  else
    let v := BitVec.ofNat 32 (csrRead s t n)
    (csrEffect s t .rs n 0 0).modCore t fun c => { c with arg0 := v }

/-- An access memory command to the tile store, at the address in arg1; cmderr 5 where it does not reach the store, is
not aligned or fails. -/
def dmiMemory (s : State) (t cmd : Nat) : State :=
  let n := 2 ^ fld cmd 20 3
  let c := (s.tile t).core
  let wr := bitAt cmd 16
  if 4 < n then setCmderr s t 2
  else if !inStore c.arg1.toNat n ∨ c.arg1.toNat % n ≠ 0 then setCmderr s t 5
  else
    let a := storeAccess s t (if wr then .store else .load) n c.arg1.toNat c.arg0
    match a.cause with
    | some _ => setCmderr a.st t 5
    | none => a.st.modCore t fun c =>
        { c with arg0 := if wr then c.arg0 else BitVec.ofNat 32 a.val,
                 arg1 := if bitAt cmd 19 then c.arg1 + BitVec.ofNat 32 n else c.arg1 }

/-- The program buffer run after a transfer. -/
def dmiPostexec (s : State) (t : Nat) : State :=
  let r := runProgbuf 5 s t 0
  if r.2 then setCmderr r.1 t 3 else r.1

/-- DMI_ABSTRACT_COMMAND (R406): access register, with the program buffer after it, or access memory. It needs a halted
core (cmderr 4), and nothing happens while an error is held. The layout is that of the External Debug Support 0.13.2
(assumption 16). -/
def doDmiAbstractCommand (t : Nat) (cmd : W32) (s : State) : State :=
  let c := cmd.toNat
  if (s.tile t).core.cmderr ≠ 0 then s
  else if fld c 24 8 = 1 ∨ 2 < fld c 24 8 then setCmderr s t 2
  else if (s.tile t).st ≠ .halted then setCmderr s t 4
  else if fld c 24 8 = 2 then dmiMemory s t c
  else if bitAt c 19 ∨ (bitAt c 17 ∧ fld c 20 3 ≠ 2) then setCmderr s t 2
  else
    let s := if bitAt c 17 then dmiRegister s t c else s
    if bitAt c 18 ∧ (s.tile t).core.cmderr = 0 then dmiPostexec s t else s

/-- DMI_ABSTRACT_COMMAND. -/
def execDmiAbstractCommand (t : Nat) (cmd : W32) (s : State) : Host.Outcome State Fault Refusal :=
  require (okTile t) (doDmiAbstractCommand t cmd s)

/-- A write of DMI register `a` through device register space (R406): arg0, arg1, dmcontrol, abstractcs, command and
the program buffer. -/
def dmiWrite (t a : Nat) (val : W32) (s : State) : State :=
  match a with
  | 0x04 => s.modCore t fun c => { c with arg0 := val }
  | 0x05 => s.modCore t fun c => { c with arg1 := val }
  | 0x10 =>
    if val.getLsbD 31 then haltTile s t causeHaltreq
    else if val.getLsbD 30 then resumeRequest s t
    else s
  | 0x16 => s.modCore t fun c => { c with cmderr := c.cmderr &&& (7 ^^^ fld val.toNat 8 3) }
  | 0x17 => doDmiAbstractCommand t val s
  | 0x20 => s.modCore t fun c => { c with progbuf0 := val }
  | 0x21 => s.modCore t fun c => { c with progbuf1 := val }
  | _ => s

end Sys2Proof.Machine
end

