-- ==== Sys2Proof/Machine/Keystone.lean ====
section
/-!
DEFINITION. The Keystone (R161–R186): walks, rights, leases, faults, the fault ring, recalls and invalidations, with the
TRANSLATE commands and the writes of its registers.
-/

namespace Sys2Proof.Machine
open Sys2Proof

/-! ### Spaces (R161) -/

/-- The root of a space tag, if it is bound. -/
def State.root (s : State) (tag : Nat) : Option Nat := Tab.get none s.ks.roots tag
/-- The generation of a space tag (R176). -/
def State.gen (s : State) (tag : Nat) : Nat := Tab.get 0 s.ks.gens tag
/-- Requests of a tag find its root: it is bound, and no SPACE_UNBIND of it is in progress (R185). -/
def State.served (s : State) (tag : Nat) : Bool :=
  (s.root tag).isSome && !(s.ks.invs.any fun i => i.tag == tag && i.unbind)

/-! ### Walks (R162–R166) -/

/-- What a walk or a lookup gives: a fault code with its LEVEL and entry, or a leaf at a level. -/
inductive Walk
  | fault (code level : Nat) (entry : W64)
  | leaf (level : Nat) (entry : W64)
  deriving DecidableEq, Repr

/-- The index of a virtual address in a table of a level (R162). -/
def tableIndex (level va : Nat) : Nat := if level = 4 then fld va 52 5 else fld va (16 + 9 * level) 9

/-- SIZE of a leaf lies in the range of its level (R162). -/
def sizeOk (level size : Nat) : Bool :=
  match level with
  | 2 => decide (18 ≤ size ∧ size ≤ 22)
  | 1 => decide (9 ≤ size ∧ size ≤ 17)
  | 0 => decide (size ≤ 8)
  | _ => false

/-- Physical base of a leaf. -/
def leafPa (e : Nat) : Nat := fld e 16 32 * 65536
/-- SIZE of a leaf. -/
def leafSize (e : Nat) : Nat := fld e 8 5

/-- A valid entry is MALFORMED at a level (R165). -/
def malformed (level e : Nat) : Bool :=
  match fld e 1 2 with
  | 0 => level == 0 || fld e 48 16 != 0 || fld e 3 9 != 0 || !inPool (fld e 12 36 * 4096)
  | 1 =>
    let top := leafPa e + leaseBytes (leafSize e)
    !decide (level < 3) || fld e 48 16 != 0 || fld e 13 3 != 0 || !sizeOk level (leafSize e) ||
      leafPa e % leaseBytes (leafSize e) != 0 || (bitAt e 6 && bitAt e 7) ||
      (if bitAt e 7 then decide (leafPa e < Config.apertureBase ∨ Config.physEnd < top)
       else decide (Config.poolBytes < top))
  | _ => true

/-- A walk from a table of level `n − 1`: each entry is one coherent read of 8 B (R163, R166). -/
def walkFrom : Nat → State → Nat → Nat → State × Walk
  | 0, s, _, _ => (s, .fault 3 0 0)
  | n + 1, s, table, va =>
    let a := table + 8 * tableIndex n va
    let r := cohRead (roundTrip s vcReq vcRsp keystoneEnd (homeEnd (a / 64)) 2 a 0 64) a 8
    let s := bump r.1 (unitCtr ksBase 3) 1
    match r.2.2 with
    | some _ => (s, .fault 7 n 0)
    | none =>
      let e := leNat r.2.1
      let w := BitVec.ofNat 64 e
      if !bitAt e 0 then (s, .fault 2 n w)
      else if malformed n e then (s, .fault 3 n w)
      else if fld e 1 2 = 1 then (s, .leaf n w)
      else walkFrom n s (fld e 12 36 * 4096) va

/-- The walk of an address under a tag (R162, R179). -/
def walk (s : State) (tag va : Nat) : State × Walk :=
  match s.root tag with
  | none => (s, .fault 1 7 0)
  | some root => if s.served tag then walkFrom 5 s root va else (s, .fault 1 7 0)

/-- The table lines that a walk from a table reads. -/
def walkLines : Nat → State → Nat → Nat → List Nat
  | 0, _, _, _ => []
  | n + 1, s, table, va =>
    let a := table + 8 * tableIndex n va
    let e := leNat (peekPool s a 8)
    a / 64 :: (if bitAt e 0 && !malformed n e && fld e 1 2 == 0 then walkLines n s (fld e 12 36 * 4096) va else [])

/-- No line that the walk of an address reads has an open transaction (R245). -/
def walkIdle (s : State) (tag va : Nat) : Bool :=
  match s.root tag with
  | none => true
  | some root => (walkLines 5 s root va).all fun l => !(s.arb (homeArb l)).busy l

/-! ### Rights (R167) -/

/-- The fault code of a request that lacks a right, lowest code first, and the kind whose right is missing (R167,
R180). -/
def deniedCode (e : Nat) (rd wr at_ : Bool) : Option (Nat × Nat) :=
  if rd && !bitAt e 3 then some (4, 1)
  else if wr && !bitAt e 4 then some (5, 2)
  else if at_ && !bitAt e 5 then some (6, 3) else none

/-- ACCESS of a fault that is not a denial: the strongest kind that the request needed (R180). -/
def strongest (wr at_ : Bool) : Nat := if at_ then 3 else if wr then 2 else 1

/-! ### Faults (R179–R184) -/

/-- Base of the fault ring. -/
def Keystone.ringFull (k : Keystone) : Bool := (k.head - k.tail).toNat == 4096

/-- The 32 bytes of a fault record (R180). -/
def faultBytes (f : StreamFault) (t q phase : Nat) : List Byte :=
  leBytes 4 (mkFld 31 1 phase + mkFld 24 7 f.code + mkFld 21 3 f.level + mkFld 19 2 q + mkFld 16 3 f.access + mkFld 0 11 t) ++
    leBytes 4 f.tag ++ leBytes 8 f.va ++ leBytes 8 f.entry.toNat ++ leBytes 4 f.tick.toNat ++ leBytes 4 f.seq.toNat

/-- A fault's record posted to the ring (R181): the record, then HEAD, then the MSI of a ring that was empty. -/
def postFault (s : State) (t q : Nat) (f : StreamFault) : State :=
  let h := s.ks.head.toNat
  let empty := s.ks.head == s.ks.tail
  let s := (cohWrite s (s.ks.ringBase + 32 * (h % 4096)) (faultBytes f t q (1 - h / 4096 % 2))).1
  let s := s.modKs fun k => { k with head := k.head + 1 }
  if empty && s.ks.ringMsi then raiseHost s 0 else s

/-- A stream stops on a fault (R40, R143): recorded in the ring, or parked where the ring is off, is full, or other
faults are parked (R182). -/
def faultStream (s : State) (t q code level access va : Nat) (entry : W64) (seq : W32) : State :=
  let tag := (s.tile t).space
  let f : StreamFault :=
    { code := code, level := level, access := access, va := va, entry := entry, tick := s.tick.num.setWidth 32,
      seq := seq, tag := tag }
  let park := !s.ks.ringEnable || s.ks.ringFull || decide (0 < s.ks.parked)
  let s := s.modQueue t q fun Q => { Q with fault := some { f with parked := park }, req := none }
  let s := raiseSrc s t 2
  let s := bump (bump s (unitCtr ksBase 5) 1) (spaceCtr tag 10) 1
  let e : QEntry := ((s.queue t q).entries.find? fun e => e.seq == seq).getD { doff := 0, seq := seq, ord := 0 }
  let s := traceKs s { typ := 5, queue := q, tag := tag, tile := t, pc := e.pushPc, va := va, aux := code, data := seq.setWidth 64 }
  let s := fireTrigger s 3 tag
  if park then
    let s := s.modKs fun k => { k with parked := k.parked + 1, overflow := BitVec.ofNat 32 (satAdd 0xFFFFFFFF k.overflow.toNat 1) }
    let s := bump s (unitCtr ksBase 6) 1
    if s.ks.ringMsi then raiseHost s 0 else s
  else postFault s t q f

/-- The streams, by `4 × tile + queue`, that a fault parks. -/
def State.parkedStreams (s : State) : List Nat :=
  s.tiles.flatMap fun x => (rangeFrom 0 4).filterMap fun q =>
    match (x.2.queue q).fault with
    | some f => if f.parked then some (4 * x.1 + q) else none
    | none => none

/-- Parked faults posted in sweep order while the ring has room (R182). -/
def postParked : Nat → State → State
  | 0, s => s
  | n + 1, s =>
    if !s.ks.ringEnable || s.ks.ringFull then s
    else
      let next := match listMin (s.parkedStreams.filter fun i => decide (s.ks.sweep ≤ i)) with
        | some i => some i
        | none => listMin s.parkedStreams
      match next with
      | none => s
      | some i =>
        match (s.queue (i / 4) (i % 4)).fault with
        | none => s
        | some f =>
          let s := s.modQueue (i / 4) (i % 4) fun Q => { Q with fault := some { f with parked := false } }
          let s := s.modKs fun k => { k with parked := k.parked - 1, sweep := i + 1 }
          postParked n (postFault s (i / 4) (i % 4) f)

/-! ### Leases (R167–R171) -/

/-- The lease of an extent (R168). -/
def leaseOf (tag : Nat) (x : Extent) : Lease :=
  let e := x.leaf.toNat
  { tag := tag, gen := x.gen, vbase := x.vbase, size := x.size, pbase := x.pbase, rd := bitAt e 3, wr := bitAt e 4,
    at_ := bitAt e 5, hc := bitAt e 6, rm := bitAt e 7 }

/-- A lease granted to a stream from an extent. -/
def grantLease (s : State) (t q tag : Nat) (x : Extent) : State :=
  let l := leaseOf tag x
  let s := s.modQueue t q fun Q => { Q with leases := Q.leases ++ [l], req := none }
  traceLease (bump s (spaceCtr tag 8) 1) t q l 1

/-- A request answered from an extent: granted, or denied (R167). -/
def answerRequest (s : State) (t q : Nat) (r : LeaseReq) (x : Extent) : State :=
  let s := packet s vcTrussCtrl true keystoneEnd (tileEnd t) 0 0 32
  match deniedCode x.leaf.toNat r.rd r.wr r.at_ with
  | some (code, kind) => faultStream s t q code x.level kind r.va x.leaf r.seq
  | none => grantLease s t q (s.tile t).space x

/-- The extent entry that covers an address under a tag and its present generation (R171). -/
def State.extent (s : State) (tag va : Nat) : Option Extent :=
  s.ks.extents.find? fun x => x.tag == tag && x.gen == s.gen tag && decide (x.vbase ≤ va ∧ va < x.vbase + leaseBytes x.size)

/-- Two entries hold the same extent. -/
def Extent.same (x y : Extent) : Bool := x.tag == y.tag && x.gen == y.gen && x.vbase == y.vbase && x.size == y.size

/-- The set in which an extent entry lies: 16,384 sets of 16 ways (R171). -/
def Extent.set (x : Extent) : Nat := Config.extentSet x.tag x.gen x.vbase x.size % 16384

/-- An extent entry used: the entries are held from the most recently used on (R171). -/
def touchExtent (s : State) (x : Extent) : State :=
  s.modKs fun k => { k with extents := x :: k.extents.filter fun y => !y.same x }

/-- A request of a stream reaches the Keystone (R171): a hit is answered, a miss waits for its walk, an unbound tag
faults. The requests of a chunk whose fault was retried all walk (R183). -/
def requestLease (s : State) (t q : Nat) (r : LeaseReq) : State :=
  let tag := (s.tile t).space
  let s := packet (tileEvent s t 0x0B (some q) 1) vcTrussCtrl false (tileEnd t) keystoneEnd 0 0 32
  let s := bump s (unitCtr ksBase 0) 1
  if !s.served tag then faultStream s t q 1 7 (strongest r.wr r.at_) r.va 0 r.seq
  else match if (s.queue t q).fresh then none else s.extent tag r.va with
    | some x => answerRequest (touchExtent (bump s (unitCtr ksBase 1) 1) x) t q r x
    | none =>
      let s := bump (bump s (unitCtr ksBase 2) 1) (spaceCtr tag 9) 1
      s.modQueue t q fun Q => { Q with req := some { r with walking := true } }

/-- The extent of a leaf that a walk of an address reached. -/
def extentOf (tag gen va level : Nat) (w : W64) : Extent :=
  let size := leafSize w.toNat
  { tag := tag, gen := gen, vbase := va / leaseBytes size * leaseBytes size, size := size, pbase := leafPa w.toNat,
    leaf := w, level := level }

/-- The entries with the last of a set gone. -/
def dropLast (set : Nat) (xs : List Extent) : List Extent :=
  match (xs.reverse).find? fun y => y.set == set with
  | some z => xs.filter fun y => !y.same z
  | none => xs

/-- A walk's result written into an extent entry, in place of the least recently used entry of its set (R171); the manual
leaves the set open. -/
def putExtent (s : State) (x : Extent) : State :=
  s.modKs fun k =>
    let rest := k.extents.filter fun y => !y.same x
    { k with extents := x :: if (rest.filter fun y => y.set == x.set).length < 16 then rest else dropLast x.set rest }

/-- KEYSTONE_WALK_COMPLETE (R166, R177): a walk ends; one marked for re-walk discards its result and walks again. -/
def doKeystoneWalkComplete (t q : Nat) (s : State) : State :=
  match (s.queue t q).req with
  | none => s
  | some r =>
    if !r.walking ∨ !walkIdle s (s.tile t).space r.va then s
    else if s.ks.rewalk.contains (t, q) then
      bump (s.modKs fun k => { k with rewalk := k.rewalk.filter (· != (t, q)) }) (unitCtr ksBase 2) 1
    else
      let tag := (s.tile t).space
      let w := walk s tag r.va
      match w.2 with
      | .fault code level e => faultStream w.1 t q code level (strongest r.wr r.at_) r.va e r.seq
      | .leaf level e =>
        let x := extentOf tag (w.1.gen tag) r.va level e
        answerRequest (putExtent w.1 x) t q r x

/-- KEYSTONE_WALK_COMPLETE. -/
def execKeystoneWalkComplete (t q : Nat) (s : State) : Host.Outcome State Fault Refusal :=
  require (okTQ t q) (doKeystoneWalkComplete t q s)

/-! ### Recalls (R169, R170, R176) -/

/-- The key by which a chunk names a lease it uses. -/
def leaseKey (l : Lease) : Nat := l.vbase + 2 ^ 57 * l.gen

/-- A chunk in flight of a queue uses a lease. -/
def Queue.uses (Q : Queue) (l : Lease) : Bool := Q.entries.any fun e => e.chunks.any fun c => c.extents.contains (leaseKey l)

/-- Recalled leases dropped and acknowledged (R169, R257). -/
def dropRecalled (s : State) (t q : Nat) (p : Lease → Bool) : State :=
  let n := ((s.queue t q).leases.filter p).length
  releaseLeases (forEach (rangeFrom 0 n) (fun _ s => packet s vcTrussCtrl true (tileEnd t) keystoneEnd 1 0 0) s) t q p

/-- RECALL (R169, R176): a recall of a tag reaches a stream: each lease of an older generation is RECALLED, and one
under which no chunk is in flight is dropped at once (R170). -/
def doRecall (t q tag : Nat) (s : State) : State :=
  let old := fun (l : Lease) => l.tag == tag && decide (l.gen < s.gen tag) && !l.recalled
  let hit := (s.queue t q).leases.filter old
  let s := packet s vcTrussCtrl false keystoneEnd (tileEnd t) 1 0 0
  let s := bump s (unitCtr ksBase 4) hit.length
  let s := s.modQueue t q fun Q => { Q with leases := Q.leases.map fun l => if old l then { l with recalled := true } else l }
  let s := forEach hit (fun l s => traceLease s t q l 2) s
  dropRecalled s t q fun l => l.recalled && !(s.queue t q).uses l

/-- RECALL. -/
def execRecall (t q tag : Nat) (s : State) : Host.Outcome State Fault Refusal :=
  require (okTQ t q && decide (tag < 4096)) (doRecall t q tag s)

/-- RECALL_ACK (R169): a recalled lease without a chunk in flight is dropped and acknowledged. -/
def doRecallAck (t q base : Nat) (s : State) : State :=
  dropRecalled s t q fun l => l.recalled && l.vbase == base && !(s.queue t q).uses l

/-- RECALL_ACK. -/
def execRecallAck (t q base : Nat) (s : State) : Host.Outcome State Fault Refusal :=
  require (okTQ t q) (doRecallAck t q base s)

/-- A SPACE trace record (R400, R405). -/
def traceSpace (s : State) (tag aux root : Nat) : State :=
  traceKs s { typ := 12, tag := tag, aux := aux, data := BitVec.ofNat 64 root }

/-- Step 1 of an invalidation (R176, R177): the generation rises, the tag's extent entries clear, and its walks in
progress are marked. -/
def startInvalidate (s : State) (tag : Nat) : State :=
  let walks := s.tiles.flatMap fun x =>
    if x.2.space = tag then (rangeFrom 0 4).filterMap fun q =>
      match (x.2.queue q).req with
      | some r => if r.walking then some (x.1, q) else none
      | none => none
    else []
  s.modKs fun k =>
    { k with gens := Tab.set 0 k.gens tag (Tab.get 0 k.gens tag + 1), extents := k.extents.filter fun x => x.tag != tag,
             rewalk := k.rewalk ++ walks.filter fun w => !k.rewalk.contains w }

/-- An invalidation is finished (R176): COMPLETED is committed; a SPACE_UNBIND unbinds the tag. -/
def endInvalidate (s : State) (i : Invalidation) : State :=
  let s := s.modKs fun k => { k with invs := k.invs.filter fun x => x.handle != i.handle }
  let s := finishOp s i.handle bsCompleted []
  if i.unbind then traceSpace (s.modKs fun k => { k with roots := Tab.set none k.roots i.tag none }) i.tag 2 0
  else traceSpace (bump s (spaceCtr i.tag 11) 1) i.tag 3 0

/-- INVALIDATE_COMPLETE (R176, R177): no lease older than the invalidation's generation is left, and no earlier
invalidation of the tag is in progress. -/
def doInvalidateComplete (handle : Nat) (s : State) : State :=
  match s.ks.invs.find? fun i => i.handle == handle with
  | none => s
  | some i =>
    let first : Bool := match s.ks.invs.find? fun x => x.tag == i.tag with
      | some x => x.handle == handle
      | none => true
    if s.outstanding i.tag i.gen == 0 && first then endInvalidate s i else s

/-- INVALIDATE_COMPLETE. -/
def execInvalidateComplete (handle : Nat) (s : State) : Host.Outcome State Fault Refusal :=
  require (decide (handle < 2 ^ 32)) (doInvalidateComplete handle s)

/-- WALKER_PARITY_ERROR (R411): the walker leaves service, its walk is run again, and wear management queues the need
for a spare. -/
def doWalkerParityError (walker t q : Nat) (s : State) : State :=
  let walks : Bool := match (s.queue t q).req with
    | some r => r.walking
    | none => false
  if !walks ∨ s.ks.walkers = 0 then s
  else
    let s := s.modKs fun k =>
      { k with walkers := k.walkers - 1, rewalk := if k.rewalk.contains (t, q) then k.rewalk else k.rewalk ++ [(t, q)] }
    queueNeed s ⟨5, 0, walker, true⟩

/-- WALKER_PARITY_ERROR. -/
def execWalkerParityError (walker t q : Nat) (s : State) : Host.Outcome State Fault Refusal :=
  require (okTQ t q && decide (walker < 68)) (doWalkerParityError walker t q s)

/-! ### TRANSLATE commands (R185) -/

/-- SPACE_BIND (R185): the root of an unbound tag; its space counters are reset (R387). -/
def doSpaceBind (r : Req) (tag root : Nat) (s : State) : State :=
  command r 0x0401 [(decide (4096 ≤ tag), bsBadParam)] 0 (fun p s =>
    if (s.root tag).isSome then replying r bsTagBound [] p s
    else if root % 4096 ≠ 0 ∨ !inPool root then replying r bsBadRoot [] p s
    else
      let s := s.modKs fun k => { k with roots := Tab.set none k.roots tag (some root) }
      let s := forEach (rangeFrom 0 12) (fun i s => resetCtr s (spaceCtr tag i) 0) s
      replying r bsOk [] p (traceSpace s tag 1 root)) s

/-- SPACE_BIND. -/
def execSpaceBind (r : Req) (tag root : Nat) (s : State) : Host.Outcome State Fault Refusal :=
  require (okReq r) (doSpaceBind r tag root s)

/-- The starting position of a long operation set in its ACCEPTED reply. -/
def startPosition (s : State) (r : Req) (h pos : Nat) : State :=
  let s := s.modBelul fun b => { b with ops := b.ops.map fun o => if o.handle = h then { o with position := pos } else o }
  s.modSlot r.client r.slot fun sl => { sl with reply := { sl.reply with position := pos } }

/-- An invalidation accepted (R176, R177); one of an unbound tag completes at once. -/
def acceptInvalidate (r : Req) (tag : Nat) (unbind : Bool) (p : Picked) (s : State) : State :=
  if 16 ≤ s.ks.invs.length then replying r bsBusy [] p s
  else
    let bound := (s.root tag).isSome
    let h := handleOf r.client r.slot p.seq
    let s := startInvalidate s tag
    let i : Invalidation := { handle := h, tag := tag, gen := s.gen tag, unbind := unbind && bound }
    let s := acceptLong s r.client r.slot p 6 0 []
    let s := s.modKs fun k => { k with invs := k.invs ++ [i] }
    if bound then startPosition s r h (s.outstanding tag i.gen) else endInvalidate s i

/-- SPACE_UNBIND (R185). -/
def doSpaceUnbind (r : Req) (tag : Nat) (s : State) : State :=
  command r 0x0402 [(decide (4096 ≤ tag), bsBadParam)] 0 (acceptInvalidate r tag true) s

/-- SPACE_UNBIND. -/
def execSpaceUnbind (r : Req) (tag : Nat) (s : State) : Host.Outcome State Fault Refusal :=
  require (okReq r) (doSpaceUnbind r tag s)

/-- INVALIDATE (R176, R177). -/
def doInvalidate (r : Req) (tag : Nat) (s : State) : State :=
  command r 0x0403 [(decide (4096 ≤ tag), bsBadParam)] 0 (acceptInvalidate r tag false) s

/-- INVALIDATE. -/
def execInvalidate (r : Req) (tag : Nat) (s : State) : Host.Outcome State Fault Refusal :=
  require (okReq r) (doInvalidate r tag s)

/-- The ring lies wholly within the HBM pool (R186). -/
def ringLegal (addr : Nat) : Bool := decide (addr + 131072 ≤ Config.poolBytes)

/-- The ring enabled: HEAD and TAIL zero, and parked faults posted (R181, R182). -/
def enableRing (s : State) : State :=
  let s := s.modKs fun k => { k with ringEnable := true, head := 0, tail := 0 }
  postParked 4096 s

/-- FAULT_RING (R185). -/
def doFaultRing (r : Req) (addr : Nat) (enable msi : Bool) (s : State) : State :=
  command r 0x0404 [(addr % 4096 != 0 || !ringLegal addr, bsBadAddress)] 0 (fun p s =>
    let s := s.modKs fun k => { k with ringEnable := false, ringBase := addr, ringMsi := msi }
    replying r bsOk [] p (if enable then enableRing s else s)) s

/-- FAULT_RING. -/
def execFaultRing (r : Req) (addr : Nat) (enable msi : Bool) (s : State) : Host.Outcome State Fault Refusal :=
  require (okReq r) (doFaultRing r addr enable msi s)

/-- A descriptor of a stream ends with XLATE_FAULT (R143, R183). A mover descriptor with chunks in flight ends when they
are acknowledged; a chain pass ends at its next CHAIN_PASS_END. -/
def terminate (s : State) (t q : Nat) (f : StreamFault) : State :=
  let chainHere : Bool := match (s.tile t).chain with
    | some c => c.q == q && ((s.queue t q).entries.any fun e => e.seq == f.seq && e.engine == 3)
    | none => false
  if chainHere then
    s.modTile t fun T => { T with chain := T.chain.map fun c =>
      { c with endStatus := c.endStatus.or (some (stXlateFault, BitVec.ofNat 64 f.va)) } }
  else
    let ended := fun (e : QEntry) =>
      { e with phase := .finished, status := stXlateFault, detail := BitVec.ofNat 64 f.va }
    let s := s.modQueue t q fun Q => { Q with entries := Q.entries.map fun e =>
      if e.seq != f.seq || e.phase != Phase.active then e
      else if e.chunks = [] then (ended e)
      else { e with err := e.err.or (some (stXlateFault, BitVec.ofNat 64 f.va)) } }
    if (s.queue t q).entries.any fun e => e.phase == .active then s else releaseLeases s t q fun _ => true

/-- FAULT_RESOLVE (R183): RETRY (1) lets the stream request again; TERMINATE (2) ends the descriptor. -/
def doFaultResolve (r : Req) (tile queue action : Nat) (s : State) : State :=
  command r 0x0405 [(decide (Config.tiles ≤ tile), bsBadParam), (decide (4 ≤ queue), bsBadParam),
    (action != 1 && action != 2, bsBadParam)] 0 (fun p s =>
    match (s.queue tile queue).fault with
    | none => replying r bsNoFault [] p s
    | some f =>
      let s := withdrawFault s tile queue
      replying r bsOk [] p (if action = 2 then terminate s tile queue f
        else s.modQueue tile queue fun Q => { Q with fresh := true })) s

/-- FAULT_RESOLVE. -/
def execFaultResolve (r : Req) (tile queue action : Nat) (s : State) : Host.Outcome State Fault Refusal :=
  require (okReq r) (doFaultResolve r tile queue action s)

/-- PROBE (R185): the translation of an address, or the fault code that a request would take; no lease is granted and no
extent entry changes. The reply holds the fault code, the level, the leaf, the extent base and the physical address
(assumption 26). -/
def doProbe (r : Req) (tag va : Nat) (s : State) : State :=
  command r 0x0406 [(decide (4096 ≤ tag), bsBadParam), (decide (2 ^ 57 ≤ va), bsBadParam)] 0 (fun p s =>
    let w := walk s tag va
    match w.2 with
    | .fault code level e => replying r bsOk [(1, code), (1, level), (6, 0), (8, e.toNat), (8, 0), (8, 0)] p w.1
    | .leaf level e =>
      let x := extentOf tag 0 va level e
      replying r bsOk [(1, 0), (1, level), (6, 0), (8, e.toNat), (8, x.vbase), (8, x.pbase + (va - x.vbase))] p w.1) s

/-- PROBE. -/
def execProbe (r : Req) (tag va : Nat) (s : State) : Host.Outcome State Fault Refusal :=
  require (okReq r) (doProbe r tag va s)

/-- Tags bound. -/
def State.bound (s : State) : Nat := s.ks.roots.length

/-- KEYSTONE_STATUS (R185): tags bound, invalidations in progress, parked faults, the OVERFLOW count, walkers in service
and extent entries in use. -/
def doKeystoneStatus (r : Req) (s : State) : State :=
  command r 0x0407 [] 0 (fun p s =>
    replying r bsOk [(4, s.bound), (4, s.ks.invs.length), (4, s.ks.parked), (4, s.ks.overflow.toNat), (4, s.ks.walkers),
      (4, s.ks.extents.length)] p s) s

/-- KEYSTONE_STATUS. -/
def execKeystoneStatus (r : Req) (s : State) : Host.Outcome State Fault Refusal :=
  require (okReq r) (doKeystoneStatus r s)

/-! ### Registers (R181, R186) -/

/-- RINGCTL_WRITE (R181): MSI, and ENABLE; a ring that does not lie in the pool leaves ENABLE at 0. -/
def doRingctlWrite (val : W32) (s : State) : State :=
  let on := s.ks.ringEnable
  let s := s.modKs fun k => { k with ringMsi := val.getLsbD 30 }
  if !val.getLsbD 31 then s.modKs fun k => { k with ringEnable := false }
  else if on then s
  else if ringLegal s.ks.ringBase then enableRing s else s

/-- RINGCTL_WRITE. -/
def execRingctlWrite (val : W32) (s : State) : Host.Outcome State Fault Refusal := require true (doRingctlWrite val s)

/-- RINGTAIL_WRITE (R181, R186): entries are freed; a value that passes HEAD is ignored. Parked faults take the freed
entries (R182). -/
def doRingtailWrite (val : W32) (s : State) : State :=
  if (val - s.ks.tail).toNat ≤ (s.ks.head - s.ks.tail).toNat then
    postParked 4096 (s.modKs fun k => { k with tail := val })
  else s

/-- RINGTAIL_WRITE. -/
def execRingtailWrite (val : W32) (s : State) : Host.Outcome State Fault Refusal := require true (doRingtailWrite val s)

/-- OVERFLOW_READ (R9, R186): the count is returned and cleared; `ev` parkings in the same cycle stay. -/
def doOverflowRead (ev : Nat) (s : State) : State :=
  (s.modKs fun k => { k with overflow := BitVec.ofNat 32 (min 0xFFFFFFFF ev) }).ret s.ks.overflow.toNat

/-- OVERFLOW_READ. -/
def execOverflowRead (ev : Nat) (s : State) : Host.Outcome State Fault Refusal := require true (doOverflowRead ev s)

end Sys2Proof.Machine
end

