-- ==== Sys2Proof/Machine/Tensor.lean ====
section
/-!
DEFINITION. What the engines share: tensor records (R128, R129), regions and their overlap (R64, R129), reads of operand
ranges with the store's error correction (R31), and the end of a descriptor.
-/

namespace Sys2Proof.Machine
open Sys2Proof

/-! ### Regions (R64, R129) -/

/-- A region: spans of bytes, each an offset and a length. -/
abbrev Region := List (Int × Nat)

/-- Rows of equal length at a stride. -/
def rowsRegion (base stride : Int) (rows rowBytes : Nat) : Region :=
  if rowBytes = 0 then [] else (rangeFrom 0 rows).map fun i => (base + i * stride, rowBytes)

/-- A region reaches beyond the tile store. -/
def Region.beyond (r : Region) : Bool := r.any fun x => decide (x.1 < 0 ∨ (Config.storeBytes : Int) < x.1 + x.2)

/-- Two spans share a byte. -/
def spanMeets (a b : Int × Nat) : Bool := decide (a.1 < b.1 + b.2 ∧ b.1 < a.1 + a.2 ∧ 0 < a.2 ∧ 0 < b.2)

/-- Two regions share a byte. -/
def Region.meets (a b : Region) : Bool := a.any fun x => b.any fun y => spanMeets x y

/-- The regions of the four completion rings (R140). -/
def ringRegions (T : Tile) : Region := [T.q0, T.q1, T.q2, T.q3].map fun Q => ((512 * Q.ring.toNat : Nat), 512)

/-! ### Tensor records (R128, R129) -/

/-- A record's bytes as a record. -/
def parseRec (b : List Byte) : TRec :=
  { virt := bitAt (fieldAt b 0 8) 63, base := fieldAt b 0 8 % 2 ^ 57,
    ext := (rangeFrom 0 6).map fun i => fld (fieldAt b (8 + 4 * i) 4) 0 24,
    str := (rangeFrom 0 6).map fun i => sInt 57 (fieldAt b (0x20 + 8 * i) 8) }

/-- A record with a reserved field nonzero or a stride not sign-extended (R128). -/
def recBad (b : List Byte) : Bool :=
  fld (fieldAt b 0 8) 57 6 != 0 || (rangeFrom 0 6).any (fun i => fld (fieldAt b (8 + 4 * i) 4) 24 8 != 0) ||
    (rangeFrom 0 6).any fun i =>
      let v := fieldAt b (0x20 + 8 * i) 8
      fld v 57 7 != (if bitAt v 56 then 127 else 0)

/-- Extent `i` of a record. -/
def TRec.e (r : TRec) (i : Nat) : Nat := r.ext.getD i 1
/-- Stride `i` of a record. -/
def TRec.s (r : TRec) (i : Nat) : Int := r.str.getD i 0
/-- Number of elements of a record. -/
def TRec.count (r : TRec) : Nat := r.ext.foldl (· * ·) 1
/-- Number of rows of a record. -/
def TRec.rows (r : TRec) : Nat := (r.ext.drop 1).foldl (· * ·) 1

/-- The indices of dimensions 1–5 of row `ρ` (R98). -/
def rowIndex : List Nat → Nat → List Nat
  | [], _ => []
  | e :: r, n => n % e :: rowIndex r (n / e)

/-- The address of the first element of row `ρ` of a record (R129). -/
def TRec.rowBase (r : TRec) (row : Nat) : Int :=
  (List.zipWith (fun (i : Nat) (s : Int) => (i : Int) * s) (rowIndex (r.ext.drop 1) row) (r.str.drop 1)).foldl (· + ·) (r.base : Int)

/-- Bytes that a dense row of `n` elements of `bits` bits occupies. -/
def rowBytes (bits n : Nat) : Nat := ceilDiv (n * bits) 8

/-- The address of element `i0` of row `ρ`, for elements of whole bytes (R129). -/
def TRec.addr (r : TRec) (bytes row i0 : Nat) : Int :=
  r.rowBase row + i0 * (if r.s 0 = 0 then (bytes : Int) else r.s 0)

/-- The bytes that a record's elements of `bits` bits occupy (R129). -/
def TRec.region (r : TRec) (bits : Nat) : Region :=
  if r.count = 0 then []
  else (rangeFrom 0 r.rows).flatMap fun row =>
    if r.s 0 = 0 then [(r.rowBase row, rowBytes bits (r.e 0))]
    else (rangeFrom 0 (r.e 0)).map fun i => (r.rowBase row + i * r.s 0, bits / 8)

/-- The region of a record in tile store; none for one in memory. -/
def TRec.local (r : TRec) (bits : Nat) : Region := if r.virt then [] else r.region bits

/-! ### Reads with error correction (R31) -/

/-- Operand ranges read from a tile's store: an image of the store in which a word that a code misses is wrong, and the
offset of the first word whose error is detected. -/
def readRanges (s : State) (t : Nat) (ranges : List (Nat × Nat)) : State × Tab Byte × Option Nat :=
  if (s.tile t).storeErr = [] then (s, (s.tile t).store, none)
  else ranges.foldl (fun (r : State × Tab Byte × Option Nat) (x : Nat × Nat) =>
    let y := storeRead r.1 t x.1 x.2
    (y.1, Memory.put r.2.1 x.1 y.2.1, r.2.2.or y.2.2)) (s, (s.tile t).store, none)

/-- An element of `bits` bits at a bit offset of an image of the store. -/
def bitsAt (img : Tab Byte) (bitOff bits : Nat) : Nat :=
  Memory.le img (bitOff / 8) (ceilDiv (bitOff % 8 + bits) 8) / 2 ^ (bitOff % 8) % 2 ^ bits

/-! ### The end of a descriptor -/

/-- The active descriptor of an engine on a queue. -/
def Queue.active (Q : Queue) (engine : Nat) : Option QEntry := Q.entries.find? fun e => e.phase == .active && e.engine == engine

/-- The state with a function applied to a descriptor, named by its SEQ. -/
def modEntry (s : State) (t q : Nat) (seq : W32) (f : QEntry → QEntry) : State :=
  s.modQueue t q fun Q => { Q with entries := Q.entries.map fun e => if e.seq = seq then f e else e }

/-- A descriptor finishes with a status (R142); STORE_UNCORR raises Trestle source 1 (R31), and the leases of a stream
without an active descriptor are released (R136, R168). -/
def endEntry (s : State) (t q : Nat) (seq : W32) (status : Nat) (detail : W64) (flags : BitVec 16) : State :=
  let s := modEntry s t q seq fun e => { e with phase := .finished, status := status, detail := detail, flags := flags }
  let s := if status = stStoreUncorr then raiseSrc s t 1 else s
  if (s.queue t q).entries.any fun e => e.phase == .active then s else releaseLeases s t q fun _ => true

end Sys2Proof.Machine
end

