-- ==== Sys2Proof/Machine/Lathe.lean ====
section
/-!
DEFINITION. The Lathe (R55–R83): the pass configuration and its checks, and the work of one output block.
-/

namespace Sys2Proof.Machine
open Sys2Proof

/-! ### Configuration (R56, R61–R63) -/

/-- A Lathe descriptor's fields. -/
structure LatheCfg where
  aOff : Nat
  bOff : Nat
  cOff : Nat
  dOff : Nat
  m : Nat
  n : Nat
  k : Nat
  lda : Nat
  ldb : Nat
  ldc : Nat
  ldd : Nat
  saOff : Nat
  sbOff : Nat
  metaOff : Nat
  skipOff : Nat
  out : Nat
  cin : Nat
  a : Nat
  b : Nat
  shift : Int
  rmode : Nat
  acc : Bool
  mx : Bool
  sparse : Nat
  bskip : Bool
  transA : Bool
  transB : Bool
  rsv : Bool
  deriving DecidableEq, Repr

/-- The fields of a descriptor's bytes (R61–R63). -/
def parseLathe (d : List Byte) : LatheCfg :=
  let f := fieldAt d
  let fmt := f 0x48 4
  let ctl := f 0x4C 4
  { aOff := f 0x10 4, bOff := f 0x14 4, cOff := f 0x18 4, dOff := f 0x1C 4, m := f 0x20 2, n := f 0x22 2,
    k := fld (f 0x24 4) 0 24, lda := f 0x28 4, ldb := f 0x2C 4, ldc := f 0x30 4, ldd := f 0x34 4, saOff := f 0x38 4,
    sbOff := f 0x3C 4, metaOff := f 0x40 4, skipOff := f 0x44 4, out := fld fmt 28 4, cin := fld fmt 24 4,
    a := fld fmt 20 4, b := fld fmt 16 4, shift := sInt 8 (fld fmt 8 8), rmode := fld fmt 0 3, acc := bitAt ctl 15,
    mx := bitAt ctl 14, sparse := fld ctl 12 2, bskip := bitAt ctl 11, transA := bitAt ctl 10, transB := bitAt ctl 9,
    rsv := fld (f 0x10 4) 22 10 != 0 || fld (f 0x24 4) 24 8 != 0 || fld fmt 3 5 != 0 || fld ctl 16 16 != 0 ||
      fld ctl 0 9 != 0 || (d.drop 0x50).any (· != 0) }

/-- Bits of an element of a format code (R62). -/
def codeBits : Nat → Nat
  | 1 => 64 | 2 => 32 | 3 => 16 | 4 => 16 | 5 => 8 | 6 => 8 | 7 => 6 | 8 => 6 | 9 => 4 | 0xA => 8 | 0xB => 32
  | 0xC => 128 | _ => 0

/-- The format of a code; an INT8 operand with MX is an MXINT8 element (R84). -/
def codeFmt (mx : Bool) : Nat → Fmt
  | 1 => .fp64 | 2 => .fp32 | 3 => .bf16 | 4 => .fp16 | 5 => .e4m3 | 6 => .e5m2 | 7 => .e2m3 | 8 => .e3m2 | 9 => .fp4
  | 0xA => if mx then .mxint8 else .int8
  | _ => .int32

/-- The format group of an operand code (R59). -/
def codeGroup : Nat → Nat
  | 9 => 1 | 7 => 2 | 8 => 2 | 5 => 3 | 6 => 3 | 0xA => 4 | 3 => 5 | 4 => 6 | 2 => 7 | 1 => 8 | _ => 0

/-- The next multiple of 16. -/
def up16 (n : Nat) : Nat := ceilDiv n 16 * 16

/-- Element slots per group of four k (R78). -/
def LatheCfg.slots (c : LatheCfg) : Nat :=
  match c.sparse with
  | 1 => 2
  | 2 => 1
  | _ => 0
/-- Groups of four k (R78). -/
def LatheCfg.groups (c : LatheCfg) : Nat := ceilDiv c.k 4
/-- Bytes of a row of scales (R75). -/
def LatheCfg.scaleBytes (c : LatheCfg) : Nat := ceilDiv c.k 32
/-- Bytes of a column's metadata (R79). -/
def LatheCfg.metaBytes (c : LatheCfg) : Nat := ceilDiv (c.groups * 2 * c.slots) 8
/-- Bytes of a row of the bitmap (R80). -/
def LatheCfg.skipBytes (c : LatheCfg) : Nat := ceilDiv (ceilDiv c.k 64) 8

/-- Rows and row bytes of A as stored (R56). -/
def LatheCfg.aRows (c : LatheCfg) : Nat × Nat :=
  if c.transA then (c.k, ceilDiv (c.m * codeBits c.a) 8) else (c.m, ceilDiv (c.k * codeBits c.a) 8)
/-- Columns and column bytes of B as stored (R56, R78). -/
def LatheCfg.bRows (c : LatheCfg) : Nat × Nat :=
  if c.transB then (c.k, ceilDiv (c.n * codeBits c.b) 8)
  else (c.n, ceilDiv ((if c.slots = 0 then c.k else c.groups * c.slots) * codeBits c.b) 8)
/-- Rows and row bytes of C. -/
def LatheCfg.cRows (c : LatheCfg) : Nat × Nat := (c.m, c.n * codeBits c.cin / 8)
/-- Rows and row bytes of D. -/
def LatheCfg.dRows (c : LatheCfg) : Nat × Nat := (c.m, c.n * codeBits c.out / 8)

/-- The region of D (R64). -/
def LatheCfg.dRegion (c : LatheCfg) : Region := rowsRegion c.dOff c.ldd c.dRows.1 c.dRows.2
/-- The region of C. -/
def LatheCfg.cRegion (c : LatheCfg) : Region := if c.cin = 0 then [] else rowsRegion c.cOff c.ldc c.cRows.1 c.cRows.2
/-- The regions of A, B, the scales, the metadata and the bitmap. -/
def LatheCfg.inRegion (c : LatheCfg) : Region :=
  if c.k = 0 then []
  else rowsRegion c.aOff c.lda c.aRows.1 c.aRows.2 ++ rowsRegion c.bOff c.ldb c.bRows.1 c.bRows.2 ++
    (if c.mx then rowsRegion c.saOff (up16 c.scaleBytes) c.m c.scaleBytes ++
      rowsRegion c.sbOff (up16 c.scaleBytes) c.n c.scaleBytes else []) ++
    (if c.slots = 0 then [] else rowsRegion c.metaOff (up16 c.metaBytes) c.n c.metaBytes) ++
    (if c.bskip then rowsRegion c.skipOff (up16 c.skipBytes) (ceilDiv c.n 64) c.skipBytes else [])

/-! ### Checks (R59, R60, R63, R64) -/

/-- C input and output formats of the row of R59 that a pass selects; none where ACC does not allow the group. -/
def latheRow (c : LatheCfg) : Option (List Nat × List Nat) :=
  let g := codeGroup c.a
  if c.acc then
    if g ≤ 3 then some ([0, 0xC], [0xC, 1, 2, 3, 4, 5, 6])
    else if g = 4 then some ([0, 0xC], if c.mx then [0xC, 1, 2, 3, 4, 5, 6] else [0xC, 1, 2, 3, 4, 5, 6, 0xB])
    else none
  else if g ≤ 3 ∨ g = 5 ∨ g = 6 ∨ (g = 4 ∧ c.mx) then some ([0, 2, 3, 4], [2, 3, 4, 5, 6, 1])
  else if g = 4 then some ([0, 0xB], [0xB, 2])
  else if g = 7 then some ([0, 2], [2, 3, 4, 1])
  else some ([0, 1, 2], [1, 2])

/-- A conversion pass keeps R60. -/
def conversionOk (c : LatheCfg) : Bool :=
  c.a == 0 && c.b == 0 && !c.mx && c.sparse == 0 && !c.bskip && !c.transA && !c.transB && c.aOff == 0 && c.bOff == 0 &&
    c.lda == 0 && c.ldb == 0 && c.saOff == 0 && c.sbOff == 0 && c.metaOff == 0 && c.skipOff == 0 &&
    (if c.acc then [0, 0xC].contains c.cin && [0xC, 1, 2, 3, 4, 5, 6, 0xB].contains c.out && !(c.out == 0xC && c.shift != 0)
     else match c.cin with
      | 1 => [1, 2].contains c.out
      | 0xB => [0xB, 2].contains c.out
      | 0 | 2 | 3 | 4 => [2, 3, 4, 5, 6, 1].contains c.out
      | _ => false)

/-- Reason 0x04 in a pass with K of 1 or more (R59, R64, R74). -/
def latheAcc (c : LatheCfg) : Bool :=
  match latheRow c with
  | none => true
  | some (ci, co) => !ci.contains c.cin || !co.contains c.out

/-- The stride of an operand with two or more rows or columns is smaller than the one that it spans (reason 0x08). -/
def strideShort (ld : Nat) (r : Nat × Nat) : Bool := decide (2 ≤ r.1) && decide (ld < r.2)

/-- D overlaps a region that R64 forbids. -/
def dOverlap (T : Tile) (doff : Nat) (c : LatheCfg) : Bool :=
  let inPlace := c.cin != 0 && c.cOff == c.dOff && c.ldc == c.ldd && codeBits c.cin == codeBits c.out
  c.dRegion.meets (c.inRegion ++ (if inPlace then [] else c.cRegion) ++ ([((doff : Int), 128)] : Region) ++ ringRegions T)

/-- A field that the configuration does not use is nonzero (R61). RMODE counts as used in every pass, also in one that writes
exact partials and rounds nowhere: a legal RMODE there is accepted (DEDUCED, assumption 138). -/
def latheUnused (c : LatheCfg) : Bool :=
  (c.cin == 0 && (c.cOff != 0 || c.ldc != 0)) ||
    (c.k != 0 && ((!c.mx && (c.saOff != 0 || c.sbOff != 0)) || (c.sparse == 0 && c.metaOff != 0) ||
      (!c.bskip && c.skipOff != 0)))

/-- The reason for which a Lathe descriptor is refused: the lowest that applies (R64, R130). -/
def latheReason (T : Tile) (doff : Nat) (c : LatheCfg) : Option Nat :=
  let g := codeGroup c.a
  let k := decide (0 < c.k)
  firstBad [
    (!([0, 1, 2, 3, 4, 0xB, 0xC] : List Nat).contains c.cin || !([1, 2, 3, 4, 5, 6, 0xB, 0xC] : List Nat).contains c.out ||
      (codeGroup c.a == 0 && (k || c.a != 0)) || (codeGroup c.b == 0 && (k || c.b != 0)), 0x01),
    (k && g != codeGroup c.b, 0x02),
    (k && ((g ≤ 2 && !c.mx) || (5 ≤ g && c.mx)), 0x03),
    ((k && latheAcc c) || (c.out == 0xC && c.shift != 0), 0x04),
    (c.sparse == 3 || (c.sparse != 0 && c.transB) || (k && c.sparse != 0 && 6 ≤ g), 0x05),
    (k && (c.transA || c.transB) && g ≤ 2, 0x06),
    ((c.dRegion ++ c.cRegion ++ c.inRegion).beyond, 0x07),
    (([c.aOff, c.bOff, c.cOff, c.dOff, c.lda, c.ldb, c.ldc, c.ldd, c.saOff, c.sbOff, c.metaOff, c.skipOff].any (· % 16 != 0)) ||
      strideShort c.ldd c.dRows || (c.cin != 0 && strideShort c.ldc c.cRows) ||
      (k && (strideShort c.lda c.aRows || strideShort c.ldb c.bRows)), 0x08),
    (dOverlap T doff c, 0x09),
    (c.rsv || 4 ≤ c.rmode || latheUnused c, 0x0A),
    (!k && !conversionOk c, 0x0B)]

/-! ### Operands of a block (R56, R75, R78–R81) -/

/-- Kept k-blocks of n-block `j` (R80). -/
def latheKept (img : Tab Byte) (c : LatheCfg) (j : Nat) : List Nat :=
  (rangeFrom 0 (ceilDiv c.k 64)).filter fun kb =>
    !c.bskip || bitAt (Memory.byte img (c.skipOff + j * up16 c.skipBytes + kb / 8)).toNat (kb % 8)

/-- The k of a k-block. -/
def LatheCfg.kRange (c : LatheCfg) (kb : Nat) : List Nat := rangeFrom (64 * kb) (min 64 (c.k - 64 * kb))

/-- The bytes that bits `b0 … b1 − 1` of a row occupy. -/
def bitSpan (base b0 b1 : Nat) : Nat × Nat := (base + b0 / 8, ceilDiv b1 8 - b0 / 8)

/-- Rows of block `i`. -/
def LatheCfg.rowsOf (c : LatheCfg) (i : Nat) : List Nat := rangeFrom (64 * i) (min 64 (c.m - 64 * i))
/-- Columns of block `j`. -/
def LatheCfg.colsOf (c : LatheCfg) (j : Nat) : List Nat := rangeFrom (64 * j) (min 64 (c.n - 64 * j))

/-- The ranges of tile store that block (i, j) reads besides the bitmap: metadata, A and B of the kept k-blocks, scales, C,
and the words that the rows of D cover in part (R30). R80 says that B and the metadata of a skipped block are not read, and
leaves A open: the elements of A that face skipped blocks only are not read either (DESIGN CHOICE, assumption 127). -/
def blockRanges (c : LatheCfg) (kept : List Nat) (i j : Nat) : List (Nat × Nat) :=
  let rows := c.rowsOf i
  let cols := c.colsOf j
  let ab := codeBits c.a
  let bb := codeBits c.b
  let ob := codeBits c.out / 8
  let cb := codeBits c.cin / 8
  let kEnd := fun kb => min c.k (64 * kb + 64)
  let gEnd := fun kb => ceilDiv (kEnd kb) 4
  (if c.slots = 0 then [] else cols.flatMap fun n => kept.map fun kb =>
    bitSpan (c.metaOff + n * up16 c.metaBytes) (16 * kb * 2 * c.slots) (gEnd kb * 2 * c.slots)) ++
  (if c.transA then kept.flatMap fun kb => (c.kRange kb).map fun k =>
      bitSpan (c.aOff + k * c.lda) (64 * i * ab) ((64 * i + rows.length) * ab)
    else rows.flatMap fun m => kept.map fun kb => bitSpan (c.aOff + m * c.lda) (64 * kb * ab) (kEnd kb * ab)) ++
  (if c.transB then kept.flatMap fun kb => (c.kRange kb).map fun k =>
      bitSpan (c.bOff + k * c.ldb) (64 * j * bb) ((64 * j + cols.length) * bb)
    else cols.flatMap fun n => kept.map fun kb =>
      if c.slots = 0 then bitSpan (c.bOff + n * c.ldb) (64 * kb * bb) (kEnd kb * bb)
      else bitSpan (c.bOff + n * c.ldb) (16 * kb * c.slots * bb) (gEnd kb * c.slots * bb)) ++
  (if c.mx && c.k != 0 then rows.map (fun m => (c.saOff + m * up16 c.scaleBytes, c.scaleBytes)) ++
    cols.map (fun n => (c.sbOff + n * up16 c.scaleBytes, c.scaleBytes)) else []) ++
  (if c.cin = 0 then [] else rows.map fun m => (c.cOff + m * c.ldc + 64 * j * cb, cols.length * cb)) ++
  rows.filterMap fun m =>
    let e := c.dOff + m * c.ldd + 64 * j * ob + cols.length * ob
    if e % 8 = 0 then none else some (e / 8 * 8, 8)

/-- Element (m, k) of A. -/
def aElem (img : Tab Byte) (c : LatheCfg) (m k : Nat) : Val :=
  let b := codeBits c.a
  valOf (codeFmt c.mx c.a)
    (bitsAt img (if c.transA then 8 * (c.aOff + k * c.lda) + m * b else 8 * (c.aOff + m * c.lda) + k * b) b)

/-- The index of slot `q` of group `g` of column `n` (R79). -/
def slotIndex (img : Tab Byte) (c : LatheCfg) (n g q : Nat) : Nat :=
  bitsAt img (8 * (c.metaOff + n * up16 c.metaBytes) + g * 2 * c.slots + 2 * q) 2

/-- Element (k, n) of B; none where it is pruned or skipped (R81). -/
def bElem (img : Tab Byte) (c : LatheCfg) (kept : List Nat) (n k : Nat) : Option Val :=
  let b := codeBits c.b
  let f := codeFmt c.mx c.b
  if !kept.contains (k / 64) then none
  else if c.slots = 0 then
    some (valOf f (bitsAt img (if c.transB then 8 * (c.bOff + k * c.ldb) + n * b else 8 * (c.bOff + n * c.ldb) + k * b) b))
  else
    match (rangeFrom 0 c.slots).find? fun q => slotIndex img c n (k / 4) q == k % 4 with
    | none => none
    | some q => some (valOf f (bitsAt img (8 * (c.bOff + n * c.ldb) + (k / 4 * c.slots + q) * b) b))

/-- The metadata of a group violates R79. -/
def metaBad (img : Tab Byte) (c : LatheCfg) (n g : Nat) : Bool :=
  let idx := (rangeFrom 0 c.slots).map (slotIndex img c n g)
  idx.any (fun x => decide (min 4 (c.k - 4 * g) ≤ x)) || (c.slots == 2 && decide (idx.getD 1 0 ≤ idx.getD 0 0))

/-- The first violating group of the columns of block `j`, in ascending k (R79). -/
def metaViolation (img : Tab Byte) (c : LatheCfg) (kept : List Nat) (j : Nat) : Option Nat :=
  if c.slots = 0 then none
  else (kept.flatMap fun kb => rangeFrom (16 * kb) (ceilDiv (min 64 (c.k - 64 * kb)) 4)).find? fun g =>
    (c.colsOf j).any fun n => metaBad img c n g

/-- The sum of the unbiased exponents of the two scales that cover k; none where one is the NaN encoding (R75, R92). -/
def scaleSum (img : Tab Byte) (c : LatheCfg) (m n k : Nat) : Option Int :=
  if !c.mx then some 0
  else
    let a := (Memory.byte img (c.saOff + m * up16 c.scaleBytes + k / 32)).toNat
    let b := (Memory.byte img (c.sbOff + n * up16 c.scaleBytes + k / 32)).toNat
    if a = 255 ∨ b = 255 then none else some ((a : Int) + b - 254)

/-! ### Accumulation (R69–R73) -/

/-- The factors of the products that element (m, n) adds, by ascending k: a pruned or skipped element of B counts as +0,
and a NaN or ∞ of A that faces one is not seen (R81), product by product, also where that element of A faces a kept element
in another column (DEDUCED, assumption 127). A scale of 0xFF is seen whatever the elements under it are (R73). -/
def factors (img : Tab Byte) (c : LatheCfg) (kept : List Nat) (m n : Nat) (ks : List Nat) : List (Nat × Val × Val) :=
  ks.filterMap fun k =>
    let a := aElem img c m k
    match bElem img c kept n k with
    | some b => some (k, a, b)
    | none =>
      if !a.special then some (k, a, .fin false 0 0)
      else if (scaleSum img c m n k).isNone then some (k, .fin false 0 0, .fin false 0 0)
      else none

/-- A value times a power of two. -/
def Val.scale (v : Val) (x : Int) : Val :=
  match v with
  | .fin n m e => .fin n m (e + x)
  | _ => v

/-- One rounding into a format of the accumulator, with the flag OVERFLOW (R69). -/
def roundTo (f : Fmt) (mode : RMode) (v : Val) : Val × EFlags :=
  let r := convert f mode false 0 v
  (valOf f r.1, flagIf r.2 fOverflow)

/-- The exact sum of products, none for an empty list. -/
def sumProducts (mode : RMode) (l : List (Nat × Val × Val)) : Option Val :=
  match l.map fun x => Val.mul x.2.1 x.2.2 with
  | [] => none
  | p :: r => some (r.foldl (Val.add mode) p)

/-- An operand is a NaN or an infinity (R73). -/
def anySpecial (l : List (Nat × Val × Val)) : Bool := l.any fun x => x.2.1.special || x.2.2.special

/-- One group of 32 products added to the FP32 accumulator (R69). -/
def addGroup (img : Tab Byte) (c : LatheCfg) (kept : List Nat) (m n : Nat) (acc : Val × EFlags) (g : Nat) : Val × EFlags :=
  let l := factors img c kept m n (rangeFrom (32 * g) (min 32 (c.k - 32 * g)))
  match sumProducts c.rmode l with
  | none => acc
  | some p =>
    let sc := scaleSum img c m n (32 * g)
    let p : Val := match sc with
      | some x => p.scale x
      | none => .nan
    let r := roundTo .fp32 c.rmode (Val.add c.rmode acc.1 p)
    (r.1, acc.2 ||| r.2 ||| flagIf (anySpecial l || sc == none) fSpecial)

/-- The accumulator of one element, in rounded floating point (R69). An element of C is an operand element of R73: its NaN or
∞ sets SPECIAL (DEDUCED, assumption 127). -/
def roundedSum (img : Tab Byte) (c : LatheCfg) (kept : List Nat) (m n : Nat) (init : Val) : Val × EFlags :=
  let g := codeGroup c.a
  let start : Val × EFlags := (init, flagIf init.special fSpecial)
  if g = 7 ∨ g = 8 then
    (factors img c kept m n (rangeFrom 0 c.k)).foldl (fun acc x =>
      let r := roundTo (if g = 8 then .fp64 else .fp32) c.rmode (Val.fma c.rmode x.2.1 x.2.2 acc.1)
      (r.1, acc.2 ||| r.2 ||| flagIf (x.2.1.special || x.2.2.special) fSpecial)) start
  else (rangeFrom 0 (ceilDiv c.k 32)).foldl (addGroup img c kept m n) start

/-- An integer element's value. -/
def Val.int (v : Val) : Int :=
  match v with
  | .fin n m e => let x : Int := m * 2 ^ e.toNat; if n then -x else x
  | _ => 0

/-- The accumulator of one element in INT32 with saturation (R70): after each product, in ascending k, as the FP32 and FP64
accumulators of R69 are rounded. R70 gives INT8 without MX no order (DEDUCED, assumption 139). -/
def intSum (img : Tab Byte) (c : LatheCfg) (kept : List Nat) (m n : Nat) (init : Int) : Int × EFlags :=
  (factors img c kept m n (rangeFrom 0 c.k)).foldl (fun acc x =>
    let v := acc.1 + x.2.1.int * x.2.2.int
    let r := clampInt 32 v
    (sInt 32 r.1, acc.2 ||| flagIf r.2 fIntSat)) (init, 0)

/-- The accumulator of one element in exact mode (R71, R92, R94). -/
def exactSum (img : Tab Byte) (c : LatheCfg) (kept : List Nat) (m n : Nat) (init : EP) : EP × EFlags :=
  (factors img c kept m n (rangeFrom 0 c.k)).foldl (fun acc x =>
    let sc := scaleSum img c m n x.1
    let p : Val := match sc with
      | some _ => Val.mul x.2.1 x.2.2
      | none => .nan
    let q := epPlace p (sc.getD 0)
    (acc.1.add q.1, acc.2 ||| flagIf (q.2 || acc.1.addRange q.1) fExactRange |||
      flagIf (x.2.1.special || x.2.2.special || sc == none) fSpecial)) (init, flagIf init.special fSpecial)

/-! ### Output (R74, R76, R88) -/

/-- The event flag of a conversion into a format. -/
def eventFlag (f : Fmt) (b : Bool) : EFlags := flagIf b (if f.isInt then fIntSat else fOverflow)

/-- The bits of one output element with its flags. -/
def latheElem (img : Tab Byte) (c : LatheCfg) (kept : List Nat) (m n : Nat) : Nat × EFlags :=
  let cb := codeBits c.cin / 8
  let raw := Memory.le img (c.cOff + m * c.ldc + n * cb) cb
  let f := codeFmt false c.out
  if c.acc then
    let r := exactSum img c kept m n (if c.cin = 0 then .ord 0 else epOf raw)
    if c.out = 0xC then (epBits r.1, r.2)
    else
      let x := epConvert f c.rmode true 0 c.shift r.1
      (x.1, r.2 ||| eventFlag f x.2.event ||| flagIf x.2.range fExactRange)
  else if (codeGroup c.a = 4 ∧ !c.mx) ∨ c.cin = 0xB then
    let r := intSum img c kept m n (if c.cin = 0 then 0 else sInt 32 raw)
    let x := convert f c.rmode true 0 ((intVal r.1 0).scale c.shift)
    (x.1, r.2 ||| eventFlag f x.2)
  else
    let r := roundedSum img c kept m n (if c.cin = 0 then .fin false 0 0 else valOf (codeFmt false c.cin) raw)
    let x := convert f c.rmode true 0 (r.1.scale c.shift)
    (x.1, r.2 ||| eventFlag f x.2)

/-- The rows of a block as bytes, with the flags of its elements. -/
def latheBlock (img : Tab Byte) (c : LatheCfg) (kept : List Nat) (i j : Nat) : List (Nat × List Byte) × EFlags :=
  let ob := codeBits c.out / 8
  let out := (c.rowsOf i).map fun m => (m, (c.colsOf j).map fun n => latheElem img c kept m n)
  (out.map fun r => (c.dOff + r.1 * c.ldd + 64 * j * ob, r.2.flatMap fun x => leBytes ob x.1),
    (out.flatMap fun r => r.2.map (·.2)).foldl (· ||| ·) 0)

/-- Blocks of a pass (R57). -/
def LatheCfg.blocks (c : LatheCfg) : Nat := ceilDiv c.m 64 * ceilDiv c.n 64

/-- Tile cycles in which the array advances over `len` consecutive k (R58). -/
def LatheCfg.cycles (c : LatheCfg) (len : Nat) : Nat :=
  let dense := fun (num den : Nat) => if c.slots = 0 then ceilDiv (num * len) den else ceilDiv (num * len) (2 * den)
  match codeGroup c.a with
  | 1 => dense 1 2
  | 5 | 6 => dense 2 1
  | 7 => dense 8 1
  | 8 => dense 16 1
  | _ => dense 1 1

/-- Tile cycles in which the array advances in a block (R58, R80): those of its kept k-blocks. -/
def LatheCfg.busy (c : LatheCfg) (kept : List Nat) : Nat :=
  kept.foldl (fun n kb => n + c.cycles (min 64 (c.k - 64 * kb))) 0

/-- A row of D with the rest of the last word that it covers in part: that word was read, and is written whole (R30, R31). -/
def wholeRow (img : Tab Byte) (row : Nat × List Byte) : Nat × List Byte :=
  let e := row.1 + row.2.length
  (row.1, row.2 ++ Memory.bytes img e (ceilDiv e 8 * 8 - e))

/-- A pass ends: the Lathe is free (R36). -/
def latheEnd (s : State) (t q : Nat) (e : QEntry) (status : Nat) (detail : W64) (flags : EFlags) : State :=
  (endEntry s t q e.seq status detail flags).modTile t fun T => { T with latheQ := none }

/-- One block of the pass of a descriptor: read, accumulated, converted and written, or the pass ends with the error it
meets (R31, R77, R79, R82). A block that meets several errors reports an uncorrectable word before a metadata violation, and
of several words the first in the order bitmap, metadata, A, B, scales, C, D; R82 gives no order (DESIGN CHOICE, assumption
140). -/
def latheStep (s : State) (t q : Nat) (e : QEntry) : State :=
  let c := parseLathe e.desc
  let mb := ceilDiv c.m 64
  let i := e.pos % mb
  let j := e.pos / mb
  let b := readRanges s t (if c.bskip then [(c.skipOff + j * up16 c.skipBytes, c.skipBytes)] else [])
  match b.2.2 with
  | some off => latheEnd b.1 t q e stStoreUncorr (BitVec.ofNat 64 off) e.flags
  | none =>
    let kept := latheKept b.2.1 c j
    let r := readRanges b.1 t (blockRanges c kept i j)
    match r.2.2 with
    | some off => latheEnd r.1 t q e stStoreUncorr (BitVec.ofNat 64 off) e.flags
    | none =>
      match metaViolation r.2.1 c kept j with
      | some g => latheEnd r.1 t q e stSparseMeta (BitVec.ofNat 64 (e.pos + g * 2 ^ 32)) e.flags
      | none =>
        let skipped := ceilDiv c.k 64 - kept.length
        let x := latheBlock r.2.1 c kept i j
        let s := forEach x.1 (fun row s => let y := wholeRow r.2.1 row; storePut s t y.1 y.2) r.1
        let s := latheCycles (tileCycles (countTile (tileEvent s t 0x09 none skipped) t 1 (c.busy kept)) t) t
        let flags := e.flags ||| x.2 ||| flagIf (decide (0 < skipped)) fSkipped
        let first := e.firstRange.or (if x.2 &&& fExactRange = 0 then none else some e.pos)
        let s := modEntry s t q e.seq fun e => { e with pos := e.pos + 1, flags := flags, firstRange := first }
        if e.pos + 1 < c.blocks then s
        else match first with
          | some k => latheEnd s t q e stExactRange (BitVec.ofNat 64 k) flags
          | none => latheEnd s t q e stOk 0 flags

/-- LATHE_BLOCK_DONE (R57, R77, R83): the Lathe finishes the block in flight; a drain lets it finish that one. -/
def doLatheBlockDone (t : Nat) (s : State) : State :=
  let T := s.tile t
  match T.latheQ with
  | none => s
  | some q =>
    match (T.queue q).active 2 with
    | none => s
    | some e =>
      if T.st = .run then latheStep s t q e
      else if T.st = .draining ∧ T.latheLeft then latheStep (s.modTile t fun T => { T with latheLeft := false }) t q e
      else s

/-- LATHE_BLOCK_DONE. -/
def execLatheBlockDone (t : Nat) (s : State) : Host.Outcome State Fault Refusal :=
  require (okTile t) (doLatheBlockDone t s)

end Sys2Proof.Machine
end

