-- ==== Sys2Proof/Machine/Route.lean ====
section
/-!
DEFINITION. Packets of the optical links: the node map (R287), routing and detours (R290–R292), remote windows at the
receiving node (R293–R295, R299), and requests and messages sent to other nodes (R281, R291, R296).
-/

namespace Sys2Proof.Machine
open Sys2Proof

/-! ### Ports (R273) -/

/-- The plane of a port. -/
def planeOf (p : Nat) : Nat := p / 12
/-- The direction of a port: 0 +x, 1 −x, 2 +y, 3 −y, 4 +z, 5 −z. -/
def dirOf (p : Nat) : Nat := p % 12 / 2
/-- The two ports of a direction in a plane. -/
def portsOf (plane d : Nat) : List Nat := [12 * plane + 2 * d, 12 * plane + 2 * d + 1]

/-- The peer of a port is an FX8. -/
def OPort.gen8 (p : OPort) : Bool :=
  match p.peer with
  | some x => x.gen8
  | none => false

/-- A port serves packets of a protocol version: it is OPEN, and an FX8 peer takes only version 1 (R279, R291, R299). In an idle
state no port offers credit (R365), and a port to an FX8 counts as down outside the feature intersection (R377). -/
def State.serves (s : State) (ver p : Nat) : Bool :=
  s.power.idle == .s0 && decide (3 ≤ (s.port p).st) && (if (s.port p).gen8 then ver == 1 && s.boot.features.getLsbD 3 else true)

/-! ### Directions and datelines (R290) -/

/-- The pod of a physical address (R286). -/
def podOf (a : Nat) : Nat := fld a 12 8
/-- Coordinate 0 x, 1 y or 2 z of a physical address. -/
def coordOf (a k : Nat) : Nat := fld a (8 - 4 * k) 4
/-- The extent of a dimension of the pod. -/
def Node.extent (n : Node) (k : Nat) : Nat := (if k = 0 then n.ex else if k = 1 then n.ey else n.ez) + 1

/-- The direction toward a coordinate in a dimension. -/
def stepDir (n : Node) (k a b : Nat) : Nat :=
  let e := n.extent k
  let up : Bool := if n.wrap.getLsbD k then decide (2 * ((b + e - a) % e) ≤ e) else decide (a < b)
  if up then 2 * k else 2 * k + 1

/-- The direction that R290 chooses toward a physical address; none where the pod table gives no way. -/
def routeDir (n : Node) (dst : Nat) : Option Nat :=
  if podOf dst ≠ podOf n.phys then Tab.get none n.pods (podOf dst)
  else ([0, 1, 2].find? fun k => coordOf n.phys k != coordOf dst k).map fun k =>
    stepDir n k (coordOf n.phys k) (coordOf dst k)

/-- A hop in a direction crosses the dateline or a face port. -/
def crosses (n : Node) (d : Nat) : Bool :=
  let a := coordOf n.phys (d / 2)
  if d % 2 = 0 then a + 1 == n.extent (d / 2) else a == 0

/-- DL after a hop in a direction by a packet that arrived at a port, or started here (R290 step 3). -/
def dlAfter (s : State) (arr : Option Nat) (dl : Bool) (d : Nat) : Bool :=
  let keep : Bool := match arr with
    | none => false
    | some p => dirOf p / 2 == d / 2 && (match (s.port p).nbPhys with
      | some nb => podOf nb == podOf s.node.phys
      | none => true)
  crosses s.node d || (keep && dl)

/-! ### Hops (R291, R292) -/

/-- The hop that a packet takes from this node: its port, and whether it is a detour. -/
inductive Hop
  | go (port : Nat) (detour : Bool)
  | unreachable
  deriving DecidableEq, Repr

/-- A port serves a packet: it serves its version, and a packet to an FX8 is within the subset of R299: level 0, at most 2,048 B of
payload, no adder type EXACT, and of the types of CLASS COLL only DATA (R325). -/
def State.servesPkt (s : State) (p : Pkt) (x : Nat) : Bool :=
  s.serves p.ver x && (!(s.port x).gen8 ||
    (p.level == 0 && decide (p.payload.length ≤ 2048) && !(p.cls == 0 && p.typ == 3 && aType (BitVec.ofNat 8 p.aux) == 6) &&
      (p.cls != 3 || p.typ == 1)))

/-- A packet as it stands after a hop in a direction: HOPS, DL, and LEVEL one higher after a detour (R290, R292). -/
def hopPkt (s : State) (arr : Option Nat) (p : Pkt) (d : Nat) (detour : Bool) : Pkt :=
  { p with hops := p.hops + 1, dl := dlAfter s arr p.dl d, level := if detour then p.level + 1 else p.level }

/-- The virtual channel of a packet. -/
def pktVc (p : Pkt) : Nat := vcOf p.cls p.dl p.level

/-- One of the ports of a plane that serve a direction: the one with more credit for the packet's channel, the lower k of equal ones
(R291). Credits that have come back by now count (assumption 151). -/
def pickPort (s : State) (vc : Nat) (l : List Nat) : State × Option Nat :=
  match l with
  | [a, b] =>
    let s := creditBack b vc (creditBack a vc s)
    (s, some (if (s.port a).credit vc < (s.port b).credit vc then b else a))
  | [a] => (s, some a)
  | _ => (s, none)

/-- The ports for the detour of R292: the positive direction of the next dimension that has a port up in the plane, not
back through the port of arrival and not toward an FX8. -/
def detourPorts (s : State) (arr : Option Nat) (plane d : Nat) : List Nat :=
  ([d / 2 + 1, d / 2 + 2, d / 2 + 3].map fun k =>
    (portsOf plane (2 * (k % 3))).filter fun p => s.serves 0 p && arr != some p).find? (fun l => l != []) |>.getD []

/-- The hop of a packet in its plane (R290–R292). -/
def nextHop (s : State) (arr : Option Nat) (p : Pkt) : State × Hop :=
  match routeDir s.node p.dphys with
  | none => (s, .unreachable)
  | some d =>
    if 63 ≤ p.hops then (s, .unreachable)
    else
      let r := pickPort s (pktVc (hopPkt s arr p d false)) ((portsOf p.plane d).filter fun x => s.servesPkt p x)
      match r.2 with
      | some x => (r.1, .go x false)
      | none =>
        if 2 ≤ p.level then (s, .unreachable)
        else
          let l := detourPorts s arr p.plane d
          let r := pickPort s (pktVc (hopPkt s arr p (dirOf (l.headD 0)) true)) l
          match r.2 with
          | some x => (r.1, .go x true)
          | none => (s, .unreachable)

/-- A packet leaves on a port, or waits there for credit (R282). -/
def emitPkt (s : State) (x : Nat) (p : Pkt) : State := emit s x (pktVc p) (flitsOf p) (.pkt x p [])

/-- The flits that a node may originate on a port in one tick, by packet class (R308); none where no bound applies. -/
def slotBound (s : State) (cls : Nat) : Option Nat :=
  if s.job.st ≠ .run then none
  else match cls with
    | 0 => some ((64 - s.job.coll - s.job.msg) * 100000 / 8192)
    | 2 => some (s.job.msg * 100000 / 8192)
    | _ => none

/-- A packet that starts here leaves on its port, or waits for the tick in which its last flit is within the bound of its
class (R308). -/
def originate (s : State) (x : Nat) (p : Pkt) : State :=
  let s := bump s (unitCtr (oportBase x) 0) (flitsOf p)
  match slotBound s p.cls with
  | none => emitPkt s x p
  | some b =>
    let n := (if p.cls = 0 then (s.port x).sentReq else (s.port x).sentMsg) + (flitsOf p)
    let s := s.modPort x fun o => if p.cls = 0 then { o with sentReq := n } else { o with sentMsg := n }
    if n ≤ b then emitPkt s x p
    else
      bump (s.modPort x fun o => { o with waitPkts := o.waitPkts ++ [(n, p)] }) (unitCtr (oportBase x) 4) (min (flitsOf p) (n - b))

/-- A new tick on a port: the bounds start afresh, the packets now within them leave (R308), and so do those that waited for credit. -/
def slotTick (x : Nat) (s : State) : State :=
  let o := s.port x
  let left := fun (cls n : Nat) => match slotBound s cls with
    | none => 0
    | some b => n - b
  let go := fun (e : Nat × Pkt) => match slotBound s e.2.cls with
    | none => true
    | some b => decide (left e.2.cls e.1 ≤ b)
  let s := s.modPort x fun o =>
    { o with sentReq := left 0 o.sentReq, sentMsg := left 2 o.sentMsg,
             waitPkts := (o.waitPkts.filter fun e => !go e).map fun e => (left e.2.cls e.1, e.2) }
  pumpPort x (forEach (o.waitPkts.filter go) (fun e s => emitPkt s x e.2) s)

/-- A packet sent on a port (R281, R290–R292), counted by the port (R392). -/
def sendHop (s : State) (arr : Option Nat) (p : Pkt) (x : Nat) (detour : Bool) : State :=
  let p := hopPkt s arr p (dirOf x) detour
  let s := s.when (p.cls == 1 && p.typ == 3) fun s => bump s (unitCtr (oportBase x) 6) 1
  let s := s.when detour fun s => bump s (unitCtr (oportBase x) 7) 1
  if arr.isSome then emitPkt (bump s (unitCtr (oportBase x) 1) (flitsOf p)) x p else originate s x p

/-- The plane that a packet takes at its source (R291). -/
def sourcePlane (s : State) (p : Pkt) : Nat :=
  let first := (p.dphys % 4 + p.tag % 4) % 4
  match routeDir s.node p.dphys with
  | none => first
  | some d =>
    ((rangeFrom 0 4).map fun i => (first + i) % 4).find? (fun pl => (portsOf pl d).any fun x => s.servesPkt p x) |>.getD first

/-- A packet that starts at this node: sent on a port, or on none where no path leads to its destination. -/
def sendPkt (s : State) (p : Pkt) : State × Option Nat :=
  let p := { p with plane := sourcePlane s { p with level := 0 }, hops := 0, level := 0, dl := false, sphys := s.node.phys,
                    sepoch := s.node.epoch, slog := s.node.logical, job := s.job.id }
  match nextHop s none p with
  | (s, .go x detour) => (sendHop s none p x detour, some x)
  | (s, .unreachable) => (s, none)

/-! ### Refusals (R295, R301) -/

/-- A refusal sent or received, or a discard, kept in NODE.REFUSE. -/
def noteRefusal (s : State) (cause : Nat) : State :=
  s.modNode fun n => { n with cause := cause, refused := satAdd 0xFFFF n.refused 1 }

/-- The response to a packet: its addresses turned round, its tag echoed (R281). -/
def answerPkt (p : Pkt) (typ aux : Nat) (poison : Bool) (data : List Byte) : Pkt :=
  { cls := 1, typ := typ, ver := p.ver, poison := poison, dphys := p.sphys, depoch := p.sepoch, dlog := p.slog, aux := aux,
    tag := p.tag, len := data.length, payload := data }

/-- A response sent; one that no path carries is lost. -/
def respond (s : State) (p : Pkt) (typ aux : Nat) (poison : Bool) (data : List Byte) : State :=
  (sendPkt s (answerPkt p typ aux poison data)).1

/-- A NACK with a cause sent to the source of a packet. -/
def nackPkt (s : State) (p : Pkt) (cause : Nat) (data : List Byte) : State :=
  respond (noteRefusal s cause) p 3 cause false data

/-! ### The node map (R287) -/

/-- A destination: its protocol, epoch and physical address. -/
structure Dest where
  gen8 : Bool
  epoch : Nat
  phys : Nat
  deriving DecidableEq, Repr

/-- A node map entry as a destination, if it is valid. -/
def mapEntry (w : Nat) : Option Dest :=
  if bitAt w 63 then some ⟨bitAt w 62, fld w 48 8, fld w 0 20⟩ else none

/-- The logical address and the map entry of the node at a physical address, as the map stands in memory: the header of a packet to a node
that is known by its place carries them (R281, R288). -/
def roleAt (s : State) (phys : Nat) : Option (Nat × Dest) :=
  (rangeFrom 0 s.node.mapLen).findSome? fun i => match mapEntry (leNat (peekPool s (s.node.mapBase + 8 * i) 8)) with
    | some d => if d.phys = phys then some (i, d) else none
    | none => none

/-- A packet to the node at its DPHYS, with the logical address, epoch and protocol of the map; where no entry names that node the spec
gives none, and free values stand there (assumption 42). -/
def addressed (s : State) (p : Pkt) : State × Pkt :=
  match roleAt s p.dphys with
  | some (i, d) => (s, { p with dlog := i, depoch := d.epoch, ver := bitNat d.gen8 })
  | none => (s.takeFree, { p with dlog := s.freeVal % 2 ^ 24, depoch := s.freeVal / 2 ^ 24 % 256 })

/-- The map entries that a pier caches (R287). -/
def Node.cacheOf (n : Node) (p : Nat) : List (Nat × W64) := Tab.get [] n.mapCache p

/-- The destination of a logical address, as a pier looks it up. An entry that the pier has cached may be used until NODEMAP_SYNC has
completed: a free value says whether it is (R287). A poisoned entry gives no destination (assumption 29). -/
def lookupNode (s : State) (pier log : Nat) : State × Option Dest :=
  if s.node.mapLen ≤ log then (s, none)
  else
    let cached := (s.node.cacheOf pier).find? fun e => e.1 == log
    let use := s.freeVal % 2 = 0
    let s := if cached.isSome then s.takeFree else s
    match cached with
    | some e => if use then (s, mapEntry e.2.toNat) else freshEntry s pier log
    | none => freshEntry s pier log
where
  /-- The entry read from the map in the pool, and cached in the pier's 16,384 entries. -/
  freshEntry (s : State) (pier log : Nat) : State × Option Dest :=
    let a := s.node.mapBase + 8 * log
    let r := cohRead (accessTrip s (diePier pier, unitHome) true 0 a 0 64) a 8
    match r.2.2 with
    | some _ => (r.1, none)
    | none =>
      let w := BitVec.ofNat 64 (leNat r.2.1)
      (r.1.modNode fun n =>
        { n with mapCache := Tab.set [] n.mapCache pier (((log, w) :: (n.cacheOf pier).filter fun e => e.1 != log).take 16384) },
        mapEntry w.toNat)

/-- A logical address is this node's own (R288). -/
def State.ownNode (s : State) (log : Nat) : Bool := s.node.rolev && s.node.logical == log

/-! ### Requests at the receiving node (R288, R294–R296) -/

/-- A port takes a packet: it is OPEN, and from an FX8 peer only a packet of the subset (R279, R299). In S1–S4 it offers credit to class
CTRL alone (R365). After a failed flit it discards every later one until the named flit comes again (R284). -/
def State.takes (s : State) (port : Nat) (p : Pkt) : Bool :=
  s.servesPkt p port && (s.power.idle == .s0 || p.cls == 4) && (match (s.port port).rxWait with
    | some n => p.fseq == n
    | none => true)

/-- The flits of an arriving packet are received (R284, R392). -/
def countRx (s : State) (port : Nat) (p : Pkt) : State := recvFlits s port (pktVc p) (flitsOf p) (p.fseq + flitsOf p - 1)

/-- An arriving packet names this node's role (R288). -/
def State.roleOk (s : State) (p : Pkt) : Bool :=
  s.node.rolev && p.dlog == s.node.logical && p.depoch == s.node.epoch

/-- Operand bytes of an ATOMIC: the whole payload, or its first half where compare values follow (R281). -/
def atomicLen (p : Pkt) : Nat := if p.aux % 16 = 7 then p.payload.length / 2 else p.payload.length

/-- The bytes of a window that a request covers. -/
def reqLen (p : Pkt) : Nat := if p.typ = 1 then p.len else if p.typ = 2 then p.payload.length else atomicLen p

/-- The right that a request type needs: R, W, A in bits 0–2 of RIGHTS (R167, R301). -/
def reqRight (typ : Nat) : Nat := typ - 1

/-- A request is outside the subset of its protocol version (R299), or is no adder operation (R227). -/
def outsideSubset (p : Pkt) : Bool :=
  (p.ver == 1 && (decide (2048 < max p.len p.payload.length) || decide (0 < p.level) ||
    (p.typ == 3 && aType (BitVec.ofNat 8 p.aux) == 6))) ||
  (p.typ == 3 && (!aLegal (BitVec.ofNat 8 p.aux)))

/-- The cause for which a request is refused: the first test of R295 that fails. -/
def importCause (s : State) (p : Pkt) : Option Nat :=
  let w := s.window (fld p.addr 35 12)
  let off := fld p.addr 0 35
  firstBad [(!w.v, 0x10),
    ((BitVec.ofNat 24 p.slog ^^^ w.srcVal.setWidth 24) &&& w.srcMask.setWidth 24 != 0 || (w.jobchk && p.job != s.job.id), 0x11),
    (decide (2 ^ (w.size + 16) < off + reqLen p), 0x12),
    (!w.rights.getLsbD (reqRight p.typ), 0x13),
    (outsideSubset p, 0x14)]

/-- The local address of an accepted request (R294). -/
def State.importAddr (s : State) (p : Pkt) : Nat :=
  let w := s.window (fld p.addr 35 12)
  w.baseLo.toNat / 65536 * 65536 + w.baseHi.toNat % 65536 * 2 ^ 32 + fld p.addr 0 35

/-- What an accepted request gives: data or old values, flags, and the address of a poisoned codeword. -/
structure ReqAns where
  data : List Byte := []
  flags : EFlags := 0
  poison : Bool := false
  deriving DecidableEq, Repr

/-- The elements of an ATOMIC applied in order. -/
def atomicElems : Nat → State → Bool → BitVec 8 → Nat → List Byte → List Byte → ReqAns → State × ReqAns
  | 0, s, _, _, _, _, _, r => (s, r)
  | n + 1, s, hc, op, addr, vals, cmps, r =>
    let sz := aSize (aType op)
    if vals = [] then (s, r)
    else
      let s := if hc then cohPurge s (addr / 64) else s
      let x := adderApply s addr op (leNat (vals.take sz)) (leNat (cmps.take sz))
      atomicElems n x.1 hc op (addr + sz) (vals.drop sz) (cmps.drop sz)
        { data := r.data ++ leBytes sz x.2.old, flags := r.flags ||| x.2.flags, poison := r.poison || x.2.poison }

/-- An accepted request applied at the home pier of its local address (R296). -/
def applyReq (s : State) (p : Pkt) : State × ReqAns :=
  let w := s.window (fld p.addr 35 12)
  let a := s.importAddr p
  match p.typ with
  | 1 =>
    let r := if w.hc then cohRead s a p.len else readPool s a p.len
    (r.1, { data := r.2.1, poison := r.2.2.isSome })
  | 2 =>
    let r := if w.hc then cohWrite s a p.payload else writePool s a p.payload
    (r.1, { poison := r.2.isSome })
  | _ =>
    let n := atomicLen p
    atomicElems 64 s w.hc (BitVec.ofNat 8 p.aux) a (p.payload.take n) (p.payload.drop n) {}

/-! ### Requests to other nodes (R281, R293, R296) -/

/-- What sending a request gives: it is on its way, it was refused locally with a cause, or the export entry named this
node and it was applied at once. -/
inductive Sent
  | away
  | refused (cause : Nat)
  | done (a : ReqAns)
  deriving DecidableEq, Repr

/-- The export entry that an address of the aperture selects (R293). -/
def exportOf (pa : Nat) : Nat := fld pa 35 12

/-- A tag that no request in flight holds, counted on from the last one given. -/
def freeTag (used : List Nat) : Nat → Nat → Nat
  | 0, t => t
  | n + 1, t => if used.contains t then freeTag used n ((t + 1) % 65536) else t

/-- The unit of this package that makes a remote request, on Truss: a tile, a cluster, or the tile that sends a message. -/
def kindEnd (s : State) (k : RemKind) : Nat × Nat :=
  match k with
  | .read t _ _ _ _ _ _ => tileEnd t
  | .write t _ _ _ _ => tileEnd t
  | .atomic t _ _ _ _ _ => tileEnd t
  | .chainRead t _ _ _ => tileEnd t
  | .chainWrite t _ _ _ => tileEnd t
  | .load t _ _ => tileEnd t
  | .hostLoad h => clusterEnd (h / 4)
  | .hostStore h => clusterEnd (h / 4)
  | .message id => match s.msgs.find? fun f => f.id == id with
    | some f => tileEnd f.srcTile
    | none => headEnd

/-- What a request or a message carries from its unit to the pier of its port (R257, R260). -/
def tripToPort (s : State) (e : Nat × Nat) (p : Pkt) (x : Nat) : State :=
  if p.cls = 2 then msgPackets s e (portEnd x) (if p.typ = 2 then 0 else p.payload.length - 32)
  else if p.payload = [] then packet s vcBulk false e (portEnd x) (p.typ - 1) 0 0
  else packets s vcBulk false e (portEnd x) (p.typ - 1) 0 p.payload.length

/-- A packet of a request or a message sent to a logical node, with the entry that waits for its answer. The pier of the unit's column
looks the node up (assumption 29). -/
def sendTagged (s : State) (log : Nat) (p : Pkt) (kind : RemKind) (addr len : Nat) : State × Sent :=
  let e := kindEnd s kind
  let r := lookupNode s (dieColumn e.1) log
  let s := r.1
  match r.2 with
  | none => (noteRefusal s 0x08, .refused 0x08)
  | some d =>
    let tag := freeTag (s.node.rems.map (·.tag)) s.node.rems.length s.node.nextTag
    let p := { p with ver := bitNat d.gen8, dphys := d.phys, depoch := d.epoch, dlog := log, tag := tag }
    if d.gen8 && p.cls == 2 && decide (2048 < p.payload.length) then (noteRefusal s 0x03, .refused 0x03)
    else if p.cls == 0 && outsideSubset p then (noteRefusal s 0x14, .refused 0x14)
    else
      let r := sendPkt s p
      match r.2 with
      | some x =>
        ((tripToPort r.1 e p x).modNode fun n =>
          { n with rems := n.rems ++ [{ tag := tag, kind := kind, addr := addr, len := len }], nextTag := (tag + 1) % 65536 },
          .away)
      | none => (noteRefusal r.1 0x08, .refused 0x08)

/-- A request at an address of the remote window aperture (R293): through the export entry to its node, or through the
node's own import table. `typ` is READ 1, WRITE 2 or ATOMIC 3. -/
def sendRemote (s : State) (pa typ len : Nat) (addop : BitVec 8) (payload : List Byte) (kind : RemKind) : State × Sent :=
  let e := s.exp (exportOf pa)
  let p : Pkt := { cls := 0, typ := typ, aux := if typ = 3 then addop.toNat else 0, addr := e.window * 2 ^ 35 + fld pa 0 35,
                   len := if typ = 1 then len else payload.length, payload := payload }
  if !e.v then (noteRefusal s 0x10, .refused 0x10)
  else if s.ownNode e.node then
    let p := { p with slog := s.node.logical, job := s.job.id }
    match importCause s p with
    | some c => (noteRefusal s c, .refused c)
    | none => let r := applyReq s p; (r.1, .done r.2)
  else sendTagged s e.node p kind pa len

/-- The mover status of a refusal's cause (R295). -/
def refusalStatus (cause : Nat) : Nat := if cause = 0x07 then stStaleRole else stRemoteRefused

end Sys2Proof.Machine
end

