-- ==== Sys2Proof/Machine/Mover.lean ====
section
/-!
DEFINITION. The tile mover (R131–R138, R141, R143, R144): its descriptor and checks, the elements of a chunk, the leases
it needs, and COPY, FILL and ATOMIC chunks.
-/

namespace Sys2Proof.Machine
open Sys2Proof

/-! ### The descriptor (R131, R135) -/

/-- A mover descriptor's fields. -/
structure MoverCfg where
  srcRec : Nat
  dstRec : Nat
  op : Nat
  esize : Nat
  addop : BitVec 8
  bskip : Bool
  fetch : Bool
  skipOff : Nat
  fillval : Nat
  fetchRec : Nat
  cmpRec : Nat
  routeOff : Nat
  nrecOff : Nat
  rsv : Bool
  deriving DecidableEq, Repr

/-- The fields of a descriptor's bytes (R131). -/
def parseMover (d : List Byte) : MoverCfg :=
  let f := fieldAt d
  let w := f 0x18 4
  { srcRec := f 0x10 4, dstRec := f 0x14 4, op := fld w 0 4, esize := fld w 4 3, addop := BitVec.ofNat 8 (fld w 8 8),
    bskip := bitAt w 16, fetch := bitAt w 17, skipOff := f 0x1C 4, fillval := f 0x20 8, fetchRec := f 0x28 4,
    cmpRec := f 0x2C 4, routeOff := f 0x30 4, nrecOff := f 0x34 4,
    rsv := fld w 18 14 != 0 || ((d.drop 0x38).take 72).any (· != 0) }

/-- Bytes of an element. -/
def MoverCfg.es (c : MoverCfg) : Nat := 2 ^ c.esize
/-- The descriptor is a compare-swap. -/
def MoverCfg.cswap (c : MoverCfg) : Bool := c.op == 2 && aOp c.addop == 7

/-- The records that an operation uses, by place: 0 source, 1 destination, 2 FETCH_REC, 3 CMP_REC. -/
def MoverCfg.recs (c : MoverCfg) : List (Nat × Nat) :=
  (if c.op = 1 then [] else [(0, c.srcRec)]) ++ (if c.op = 3 then [] else [(1, c.dstRec)]) ++
    (if c.fetch && c.op == 2 then [(2, c.fetchRec)] else []) ++ (if c.cswap then [(3, c.cmpRec)] else [])

/-- A field that the operation does not use is nonzero (reason 0x40). -/
def MoverCfg.unused (c : MoverCfg) : Bool :=
  c.rsv || (c.op == 1 && c.srcRec != 0) || (c.op == 3 && c.dstRec != 0) || (c.op != 1 && c.fillval != 0) ||
    (c.op != 2 && (c.addop != 0 || c.fetch)) || (!c.fetch && c.fetchRec != 0) || (!c.cswap && c.cmpRec != 0) ||
    (!c.bskip && c.skipOff != 0) || (c.op == 3 && c.bskip) || (c.op != 3 && (c.routeOff != 0 || c.nrecOff != 0))

/-- A record that can be read: aligned and within tile store. -/
def recReadable (off : Nat) : Bool := off % 16 == 0 && inStore off 80

/-- Bytes of the bitmap (R135): rows of ⌈⌈E0 / 64⌉ / 8⌉ bytes rounded up to 16, the last row without its padding. -/
def bitmapBytes (r : TRec) : Nat :=
  let rb := ceilDiv (ceilDiv (r.e 0) 64) 8
  let rows := ceilDiv (r.e 1) 64 * (r.e 2 * r.e 3 * r.e 4 * r.e 5)
  if rows = 0 then 0 else (rows - 1) * (16 * ceilDiv rb 16) + rb

/-- A record for which the image of a tile store is at hand. -/
def recAt (img : Tab Byte) (off : Nat) : TRec := parseRec (Memory.bytes img off 80)

/-- The record whose elements the bitmap divides, and whose stream the chunks follow (R135, R136). -/
def MoverCfg.streamRec (c : MoverCfg) : Nat := if c.op = 1 then c.dstRec else c.srcRec

/-- Route records of a SEND: the INT32 word at NREC_OFF, and none where it is negative (assumption 30). -/
def routeCount (img : Tab Byte) (c : MoverCfg) : Nat := (sInt 32 (Memory.le img c.nrecOff 4)).toNat

/-- An element of an ATOMIC destination is misaligned (R133). -/
def atomicMisaligned (r : TRec) (es : Nat) : Bool :=
  r.count != 0 && (r.base % es != 0 || (rangeFrom 0 6).any fun i => decide (1 < r.e i) && r.s i % (es : Int) != 0)

/-- Two of a list of regions share a byte. -/
def anyMeet : List Region → Bool
  | [] => false
  | a :: r => r.any (fun b => a.meets b) || anyMeet r

/-- The reason for which a mover descriptor is refused, by the image of its operands: the lowest that applies (R130,
R131, R149, R227). -/
def moverReason (T : Tile) (img : Tab Byte) (doff : Nat) (c : MoverCfg) : Option Nat :=
  let recs := c.recs
  let ok := (recs.filter fun r => recReadable r.2).map fun r => (r.1, recAt img r.2)
  let stores := ok.filter fun r => !r.2.virt
  let regions := stores.map fun r => r.2.region (8 * c.es)
  let used : Region := [((doff : Int), 128)] ++ recs.map (fun r => ((r.2 : Int), 80)) ++ ringRegions T
  let nrecOk := inStore c.nrecOff 4
  let stream := recAt img c.streamRec
  let sized := recReadable c.streamRec
  firstBad [
    (decide (4 ≤ c.op) || c.unused, 0x40),
    (decide (5 ≤ c.esize) || (c.op == 1 && c.esize == 4) ||
      (c.op == 2 && decide (aType c.addop ≤ 6) && aSize (aType c.addop) != c.es), 0x41),
    (recs.any (fun r => r.2 % 16 != 0 || (recReadable r.2 && recBad (Memory.bytes img r.2 80))), 0x42),
    (ok.any (fun a => ok.any fun b => a.2.ext != b.2.ext), 0x43),
    (recs.any (fun r => !inStore r.2 80) || regions.any (fun r => r.beyond) ||
      (c.op == 3 && (!nrecOk || !inStore c.routeOff (16 * routeCount img c))), 0x44),
    (anyMeet regions || regions.any (fun r => r.meets used), 0x45),
    (ok.any (fun r => (c.op == 2 && r.2.virt != (r.1 == 1)) || (c.op == 3 && r.2.virt)), 0x46),
    (c.op == 2 && ok.any (fun r => r.1 == 1 && atomicMisaligned r.2 c.es), 0x47),
    (c.bskip && sized && bitmapBytes stream != 0 && !inStore c.skipOff (bitmapBytes stream), 0x48),
    (c.op == 3 && sized && decide (4096 < stream.e 0 * c.es), 0x49),
    (c.op == 2 && !aLegal c.addop, 0x4A)]

/-- The ranges of tile store that a mover descriptor reads at its start: its records, its bitmap, and the count of its
route records (assumption 31). -/
def moverStartRanges (img : Tab Byte) (c : MoverCfg) : List (Nat × Nat) :=
  (c.recs.filter fun r => recReadable r.2).map (fun r => (r.2, 80)) ++
    (if c.bskip && recReadable c.streamRec && inStore c.skipOff (bitmapBytes (recAt img c.streamRec)) then
      [(c.skipOff, bitmapBytes (recAt img c.streamRec))] else []) ++
    (if c.op = 3 ∧ inStore c.nrecOff 4 then [(c.nrecOff, 4)] else [])

/-- What a mover descriptor keeps of its start: the 128 B, its four records' places, and the bitmap, or for a SEND the
count of route records. -/
def moverKeep (img : Tab Byte) (d : List Byte) (c : MoverCfg) : List Byte :=
  let rec_ := fun (i : Nat) => match c.recs.find? fun r => r.1 == i with
    | some r => Memory.bytes img r.2 80
    | none => List.replicate 80 0
  d ++ rec_ 0 ++ rec_ 1 ++ rec_ 2 ++ rec_ 3 ++
    (if c.op = 3 then leBytes 4 (routeCount img c)
     else if c.bskip then Memory.bytes img c.skipOff (bitmapBytes (recAt img c.streamRec)) else [])

/-- Record `i` of a started mover descriptor. -/
def QEntry.trec (e : QEntry) (i : Nat) : TRec := parseRec ((e.desc.drop (128 + 80 * i)).take 80)
/-- The bytes that follow the records. -/
def QEntry.tail (e : QEntry) : List Byte := e.desc.drop 448

/-- The record of the stream that the chunks of a descriptor follow. -/
def QEntry.stream (e : QEntry) : TRec := e.trec (if (parseMover e.desc).op = 1 then 1 else 0)

/-! ### Elements (R98, R132, R135) -/

/-- The indices (i0, …, i5) of element `j` of a record. -/
def TRec.index (r : TRec) (j : Nat) : List Nat := rowIndex r.ext j

/-- The address of the element at given indices: BASE + i0 × S0 + … + i5 × S5 (R129). -/
def TRec.atInt (r : TRec) (es : Nat) (idx : List Nat) : Int :=
  (idx.zipIdx).foldl (fun (a : Int) (x : Nat × Nat) =>
    a + (x.1 : Int) * (if x.2 = 0 ∧ r.s 0 = 0 then (es : Int) else r.s x.2)) (r.base : Int)

/-- The address of an element that lies where its record may: within the tile store, or at a virtual address (R129). -/
def TRec.at (r : TRec) (es : Nat) (idx : List Nat) : Nat := (r.atInt es idx).toNat

/-- A byte of an access lies outside the virtual addresses 0 to 2^57 − 1 (R129, R179). -/
def outsideVa (a : Int) (n : Nat) : Bool := decide (a < 0 ∨ (2 ^ 57 : Int) < a + n)

/-- The bit of a bitmap for the block of given indices (R135). -/
def bitmapBit (bm : List Byte) (r : TRec) (idx : List Nat) : Bool :=
  let i := fun k => idx.getD k 0
  let row := 16 * ceilDiv (ceilDiv (ceilDiv (r.e 0) 64) 8) 16
  let u := i 1 / 64 + ceilDiv (r.e 1) 64 * (i 2 + r.e 2 * (i 3 + r.e 3 * (i 4 + r.e 4 * i 5)))
  bitAt (bm.getD (u * row + i 0 / 64 / 8) 0).toNat (i 0 / 64 % 8)

/-- Element `j` of a descriptor is moved: no bitmap, or its block's bit is 1. -/
def QEntry.kept (e : QEntry) (j : Nat) : Bool :=
  !(parseMover e.desc).bskip || bitmapBit e.tail e.stream (e.stream.index j)

/-- The kept elements from position `j` on, at most `room` of them, the position after them and any skipped elements that
follow, and whether an element was skipped. -/
def keptFrom (e : QEntry) : Nat → Nat → Nat → List Nat × Nat × Bool
  | 0, j, _ => ([], j, false)
  | n + 1, j, room =>
    if e.kept j then
      match room with
      | 0 => ([], j, false)
      | r + 1 => let x := keptFrom e n (j + 1) r; (j :: x.1, x.2)
    else let x := keptFrom e n (j + 1) room; (x.1, x.2.1, true)

/-- The kept elements from the position of a descriptor, up to 65,536 B of the stream (R136). -/
def QEntry.ahead (e : QEntry) : List Nat × Nat × Bool :=
  keptFrom e (e.stream.count - e.elem) e.elem (65536 / (parseMover e.desc).es)

/-! ### Leases of a chunk (R136, R167, R169) -/

/-- Which accesses an extent needs. -/
structure Need3 where
  base : Nat
  size : Nat
  va : Nat
  rd : Bool
  wr : Bool
  at_ : Bool
  deriving DecidableEq, Repr

/-- The extent of an address for a stream: that of a lease it holds, else the one that the tables give now, else the 64 KiB
around it. -/
def extentAround (s : State) (t q va : Nat) : Nat × Nat :=
  match (s.queue t q).leases.find? fun l => !l.recalled && l.covers va with
  | some l => (l.vbase, leaseBytes l.size)
  | none =>
    let tag := (s.tile t).space
    match if (s.queue t q).fresh then none else s.extent tag va with
    | some x => (x.vbase, leaseBytes x.size)
    | none => match (walk s tag va).2 with
      | .leaf level w => let x := extentOf tag 0 va level w; (x.vbase, leaseBytes x.size)
      | .fault _ _ _ => (va / 65536 * 65536, 65536)

/-- The operands of an operation in memory, each with the kind of its accesses (0 read, 1 write, 2 atomic). -/
def QEntry.memOps (e : QEntry) : List (TRec × Nat) :=
  (match (parseMover e.desc).op with
    | 0 => [(e.trec 0, 0), (e.trec 1, 1)]
    | 1 => [(e.trec 1, 1)]
    | 2 => [(e.trec 1, 2)]
    | _ => []).filter fun x => x.1.virt

/-- The memory accesses of one element: address and kind. -/
def moverAccesses (e : QEntry) (j : Nat) : List (Nat × Nat) :=
  let es := (parseMover e.desc).es
  let idx := e.stream.index j
  (e.memOps.filter fun x => !outsideVa (x.1.atInt es idx) es).map fun x => (x.1.at es idx, x.2)

/-- The accesses of one element that lie outside the virtual addresses: address and kind (R129, R179). -/
def moverOutside (e : QEntry) (j : Nat) : List (Int × Nat) :=
  let es := (parseMover e.desc).es
  let idx := e.stream.index j
  (e.memOps.map fun x => (x.1.atInt es idx, x.2)).filter fun a => outsideVa a.1 es

/-- A need with one more access. -/
def Need3.with (n : Need3) (va k : Nat) : Need3 :=
  { n with va := min n.va va, rd := n.rd || k == 0, wr := n.wr || k == 1, at_ := n.at_ || k == 2 }

/-- One byte's access added to a list of needs. -/
def addNeed (s : State) (t q : Nat) (l : List Need3) (va k : Nat) : List Need3 :=
  if l.any fun n => decide (n.base ≤ va ∧ va < n.base + n.size) then
    listMod (fun n => decide (n.base ≤ va ∧ va < n.base + n.size)) (·.with va k) l
  else
    let x := extentAround s t q va
    l ++ [{ base := x.1, size := x.2, va := va, rd := k == 0, wr := k == 1, at_ := k == 2 }]

/-- The needs of a list of elements, cut before the element that would need a seventeenth extent: the elements taken and
their needs. -/
def takeElems (s : State) (t q : Nat) (e : QEntry) (es : Nat) : List Nat → List Need3 → List Nat × List Need3
  | [], needs => ([], needs)
  | j :: r, needs =>
    let more := (moverAccesses e j).foldl (fun l a => addNeed s t q (addNeed s t q l a.1 a.2) (a.1 + es - 1) a.2) needs
    if 16 < more.length then ([], needs)
    else let x := takeElems s t q e es r more; (j :: x.1, x.2)

/-- What a chunk needs of the Keystone: leases, and element addresses for which no lease can be granted. -/
structure Needs where
  leases : List Need3 := []
  out : List (Int × Nat) := []
  deriving DecidableEq, Repr

/-- The next chunk of a mover descriptor: its elements and its needs. -/
def chunkPlan (s : State) (t q : Nat) (e : QEntry) : List Nat × Needs :=
  let r := takeElems s t q e (parseMover e.desc).es e.ahead.1 []
  (r.1, { leases := r.2, out := r.1.flatMap (moverOutside e) })

/-- The leases, by their keys, under which a chunk that begins now makes its accesses: those that the stream holds and no
recall has reached (R138, R169). -/
def Queue.granted (Q : Queue) (n : Needs) : List Nat :=
  (Q.leases.filter fun l => !l.recalled && n.leases.any fun x => l.covers x.va).map leaseKey

/-- The lease of a chunk, out of those under which it began, for an access of a kind (R138). -/
def Queue.leaseFor (Q : Queue) (ext : List Nat) (va k : Nat) : Option Lease :=
  Q.leases.find? fun l => ext.contains (leaseKey l) && l.covers va && (if k = 0 then l.rd else if k = 1 then l.wr else l.at_)

/-- A need is met by a lease that the stream holds. -/
def Queue.meetsNeed (Q : Queue) (n : Need3) : Bool :=
  Q.leases.any fun l => !l.recalled && l.covers n.va && (!n.rd || l.rd) && (!n.wr || l.wr) && (!n.at_ || l.at_)

/-- The first need, by extent base, for which no lease is held (R169). -/
def Queue.firstUnmet (Q : Queue) (needs : List Need3) : Option Need3 :=
  (needs.filter fun n => !Q.meetsNeed n).foldl (fun a n => match a with
    | none => some n
    | some m => if n.base < m.base then some n else some m) none

/-- The mover descriptor of a queue that may go on: active, without an error, and with elements left. -/
def Queue.mover (Q : Queue) : Option QEntry :=
  match Q.active 1 with
  | some e => if e.err.isSome then none else some e
  | none => none

/-- A chunk meets no fault in its lease requests and lacks no lease: it may issue (R136, R143). -/
def Queue.meets (Q : Queue) (n : Needs) : Bool := n.out.isEmpty && (Q.firstUnmet n.leases).isNone

/-- The lowest of a list of addresses. -/
def lowest (l : List (Int × Nat)) : Int := l.foldl (fun a x => min a x.1) ((l.head?.map (·.1)).getD 0)

/-- The lease request of a chunk with an element address outside 0 to 2^57 − 1 ends in ADDRESS_RANGE (R129, R179). The record
names the lowest such address, modulo 2^57 (assumption 143). -/
def rangeFault (s : State) (t q : Nat) (seq : W32) (out : List (Int × Nat)) : State :=
  let s := bump (tileEvent s t 0x0B (some q) 1) (unitCtr ksBase 0) 1
  faultStream s t q 8 7 (strongest (out.any (·.2 == 1)) (out.any (·.2 == 2))) (lowest out % (2 ^ 57 : Nat)).toNat 0 seq

/-- A lease requested for a stream that may make a request; with 16 leases held, those that neither the needs nor a chunk
in flight touches go first (R136, R168, R172). The requests go by ascending address: an element address below 0 faults
before the first of them, and one beyond the last address after them (R169, R179, assumption 143). -/
def leaseStep (s : State) (t q : Nat) (seq : W32) (needs : Needs) : State :=
  match if needs.out.any (fun a => decide (a.1 < 0)) then none else (s.queue t q).firstUnmet needs.leases with
  | none => if needs.out.isEmpty then s else rangeFault s t q seq needs.out
  | some n =>
    let s := if (s.queue t q).leases.length < 16 then s
      else releaseLeases s t q fun l => !(s.queue t q).uses l && !(needs.leases.any fun n => l.covers n.va)
    if (s.queue t q).leases.length < 16 then
      requestLease s t q { va := n.va, rd := n.rd, wr := n.wr, at_ := n.at_, seq := seq }
    else s

/-! ### Moving the bytes of a chunk (R132, R136, R144) -/

/-- Bytes at scattered addresses; the last write of an address counts (R132). -/
abbrev Scatter := Tab (Option Byte)

/-- Bytes put at an address. -/
def Scatter.put (w : Scatter) (a : Nat) (bytes : List Byte) : Scatter :=
  (bytes.zipIdx).foldl (fun w x => Tab.set none w (a + x.2) (some x.1)) w

/-- Runs of bytes at consecutive addresses that lie in one block of `n` bytes. -/
def runsOf (n : Nat) : Scatter → List (Nat × List Byte)
  | [] => []
  | (a, b) :: r =>
    match runsOf n r with
    | (a', bs) :: rest =>
      if a' = a + 1 ∧ a' / n = a / n then (a, b.getD 0 :: bs) :: rest else (a, [b.getD 0]) :: (a', bs) :: rest
    | [] => [(a, [b.getD 0])]

/-- The physical address of a virtual one under a lease. -/
def Lease.pa (l : Lease) (va : Nat) : Nat := l.pbase + (va - l.vbase)

/-- What the requests of a chunk gave so far: the state, the leases of the chunk, the acknowledgements on their way, the remote
requests, the offset of a word of tile store whose error ends the descriptor, and for a COPY from memory the element last
written to each destination byte. -/
structure Issue where
  s : State
  ext : List Nat := []
  acks : List Ack := []
  remote : Nat := 0
  bad : Option Nat := none
  landed : Tab (Option Nat) := []
  deriving DecidableEq, Repr

/-- The codewords that a poisoned answer to a request of another node stands for. The answer does not name them (R281): a free
value takes some of those that the request covers, at least one (assumption 144). -/
def poisonedCws (s : State) (cws : List Nat) : State × List Nat :=
  let some_ := (cws.zipIdx).filter fun x => s.freeVal.testBit x.2
  (s.takeFree, if some_ = [] then cws.take 1 else some_.map (·.1))

/-- The codewords that a poisoned answer stands for, and the acknowledgement that names the first of them by the element that
met it (R142, R144). -/
def poisonOf (s : State) (cws : List (Nat × Nat)) : State × List Nat × Ack :=
  let r := poisonedCws s (cws.map (·.1))
  (r.1, r.2, match cws.filter fun x => r.2.contains x.1 with
    | [] => {}
    | x :: l => let y := l.foldl (fun a b => if b.2 < a.2 then b else a) x; { pos := y.2, poison := some (64 * y.1) })

/-- The answer of a remote request taken into a chunk: `cws` are the codewords that it covers, each with the element that met
it first. -/
def Issue.sent (i : Issue) (r : State × Sent) (pos va : Nat) (cws : List (Nat × Nat)) (fetch : Option (Nat × Nat)) : Issue :=
  match r.2 with
  | .away => { i with s := r.1, remote := i.remote + 1 }
  | .refused c => { i with s := r.1, acks := i.acks ++ [{ pos := pos, refused := some (refusalStatus c, va) }] }
  | .done a =>
    if a.poison then
      let p := poisonOf r.1 cws
      { i with s := p.1, acks := i.acks ++ [{ p.2.2 with flags := a.flags }] }
    else
      { i with s := r.1,
               acks := i.acks ++ [{ pos := pos, flags := a.flags, fetch := fetch.map fun x => (x.1, leNat a.data, x.2) }] }

/-- The end of the packet that begins at an address: at most eight lines, within the extent of its lease and one window of
2^35 B (R281, R293). -/
def packetEnd (l : Lease) (lo hi : Nat) : Nat :=
  min (min hi (128 * (lo / 128 + 8))) (min (l.vbase + leaseBytes l.size) (lo + (2 ^ 35 - l.pa lo % 2 ^ 35)))

/-- The packets of a run of bytes from `lo` to `hi` under leases of the chunk: lease, first byte and end (R137, R281). -/
def packetsFrom (Q : Queue) (ext : List Nat) (k : Nat) : Nat → Nat → Nat → List (Lease × Nat × Nat)
  | 0, _, _ => []
  | n + 1, lo, hi =>
    if hi ≤ lo then []
    else match Q.leaseFor ext lo k with
      | none => []
      | some l => let e := packetEnd l lo hi; (l, lo, e) :: packetsFrom Q ext k n e hi

/-- Bytes of one codeword of this node's memory written for a chunk, under the lease of their address. -/
def Issue.putCw (i : Issue) (t : Nat) (l : Lease) (pos cw : Nat) (w : Scatter) : Issue :=
  let line := l.pa (64 * cw) / 64
  let i := { i with s := accessTrip i.s (tileEnd t) l.hc 1 (64 * line) w.length 0 }
  let mask := BitVec.ofNat 64 (w.foldl (fun a x => a + 2 ^ (x.1 % 64)) 0)
  let data := BitVec.ofNat 512 (w.foldl (fun a x => a + (x.2.getD 0).toNat * 2 ^ (8 * (x.1 % 64))) 0) ^^^
    flipWord i.s.truss.flips (64 * line)
  let s := if l.hc then countTileReq (cohPurge i.s line) line else i.s
  let bad := (writePoison s (line / 2) (mask.setWidth 128 <<< (64 * (line % 2)))).isSome
  { i with s := lineStore s line mask data,
           acks := i.acks ++ [{ pos := pos, poison := if bad then some (64 * cw) else none,
                                home := if l.hc then some (64 * cw, homeArb line) else none }] }

/-- A run of bytes written to another node for a chunk, in the fewest packets (R137, R281); `kind` is that of a request. -/
def Issue.putRun (i : Issue) (t q : Nat) (kind : Nat → List (Nat × Nat) → RemKind) (first : Nat → Nat) (lo : Nat)
    (bytes : List Byte) : Issue :=
  (packetsFrom (i.s.queue t q) i.ext 1 (bytes.length + 1) lo (lo + bytes.length)).foldl (fun i p =>
    let cws := (cwsOf p.2.1 (p.2.2 - p.2.1)).map fun cw => (cw, first cw)
    let data := (bytes.drop (p.2.1 - lo)).take (p.2.2 - p.2.1)
    i.sent (sendRemote i.s (p.1.pa p.2.1) 2 0 0 data (kind p.2.1 cws)) (first (p.2.1 / 64)) p.2.1 cws none) i

/-- Bytes of memory written for a chunk: those of this node codeword by codeword, and those of other nodes in packets of
contiguous bytes; `first` gives the element that met each codeword first. -/
def Issue.putMem (i : Issue) (t q : Nat) (kind : Nat → List (Nat × Nat) → RemKind) (first : Nat → Nat) (w : Scatter) : Issue :=
  let lease := fun (cw : Nat) => (i.s.queue t q).leaseFor i.ext (64 * cw) 1
  let far := fun (cw : Nat) => match lease cw with
    | some l => l.rm
    | none => false
  let i := ((w.map fun x => x.1 / 64).eraseDups).foldl (fun i cw => match lease cw with
    | some l => if l.rm then i else i.putCw t l (first cw) cw (w.filter fun x => x.1 / 64 == cw)
    | none => i) i
  (runsOf (2 ^ 60) (w.filter fun x => far (x.1 / 64))).foldl (fun i r => i.putRun t q kind first r.1 r.2) i

/-- Bytes of tile store written for a chunk, contiguous ones together; the answer is the offset of a word whose error
refuses its write (R30, R31). -/
def putScatter (s : State) (t : Nat) (w : Scatter) : State × Option Nat :=
  (runsOf (2 ^ 30) w).foldl (fun (r : State × Option Nat) x =>
    let y := enginePut r.1 t x.1 x.2
    (y.1, r.2.or y.2)) (s, none)

/-- The work of a COPY or FILL chunk in progress: the image of the memory read, the codewords read and whether each is
poisoned, the bytes to write, the elements that touched each destination codeword first, and the pieces to read from other
nodes as (address, length, destination, element). -/
structure Move where
  i : Issue
  img : Tab Byte := []
  got : List (Nat × Bool) := []
  store : Scatter := []
  mem : Scatter := []
  first : List (Nat × Nat) := []
  far : List (Nat × Nat × Nat × Nat) := []
  deriving DecidableEq, Repr

/-- A codeword of a local source read once for the chunk (R166, R232, R250). -/
def Move.fetch (m : Move) (t : Nat) (l : Lease) (pos cw : Nat) : Move :=
  if m.got.any fun g => g.1 == cw then m
  else
    let pa := l.pa (64 * cw)
    let s := accessTrip m.i.s (tileEnd t) l.hc 0 pa 0 64
    let r := if l.hc then cohRead s pa 64 else readPool s pa 64
    let bad := r.2.2.isSome
    { m with i := { m.i with s := r.1, acks := if bad then m.i.acks ++ [{ pos := pos, poison := some (64 * cw) }] else m.i.acks },
             img := Memory.put m.img (64 * cw) (arrive r.1.truss.flips pa r.2.1), got := (cw, bad) :: m.got }

/-- A byte of a COPY from memory for the element at a position: written unless a later element has been written to its address
(R132). -/
def lastWrite (x : Tab (Option Nat) × Scatter) (a pos : Nat) (b : Byte) : Tab (Option Nat) × Scatter :=
  match Tab.get none x.1 a with
  | some p => if pos < p then x else (Tab.set none x.1 a (some pos), Tab.set none x.2 a (some b))
  | none => (Tab.set none x.1 a (some pos), Tab.set none x.2 a (some b))

/-- The bytes of an element put at its destination. `far`: sources on other nodes may answer later, so the element last
written to each byte is kept. -/
def Move.put (m : Move) (far : Bool) (dst : TRec) (pos a : Nat) (bytes : List Byte) : Move :=
  let old := if dst.virt then m.mem else m.store
  let r := if far then (bytes.zipIdx).foldl (fun x b => lastWrite x (a + b.2) pos b.1) (m.i.landed, old)
    else (m.i.landed, old.put a bytes)
  let m := { m with i := { m.i with landed := r.1 } }
  if dst.virt then
    { m with mem := r.2,
             first := (cwsOf a bytes.length).foldl (fun f cw => if f.any fun x => x.1 == cw then f else (cw, pos) :: f) m.first }
  else { m with store := r.2 }

/-- The pieces of `n` bytes from an address that lie in one line each. -/
def linePieces (a n dst : Nat) : List (Nat × Nat × Nat) :=
  (linesOf a n).map fun l =>
    let lo := max a (128 * l)
    (lo, min (a + n) (128 * l + 128) - lo, dst + (lo - a))

/-- One element of a COPY or FILL chunk. -/
def Move.elem (t q : Nat) (img : Tab Byte) (e : QEntry) (m : Move) (j : Nat) : Move :=
  let c := parseMover e.desc
  let idx := e.stream.index j
  let d := (e.trec 1).at c.es idx
  let far := (e.trec 0).virt && c.op == 0
  if c.op = 1 then m.put far (e.trec 1) j d (leBytes c.es c.fillval)
  else
    let a := (e.trec 0).at c.es idx
    if !(e.trec 0).virt then m.put far (e.trec 1) j d (Memory.bytes img a c.es)
    else match (m.i.s.queue t q).leaseFor m.i.ext a 0 with
      | none => m
      | some l =>
        if l.rm then { m with far := m.far ++ (linePieces a c.es d).map fun p => (p.1, p.2.1, p.2.2, j) }
        else
          let m := (cwsOf a c.es).foldl (fun m cw => match (m.i.s.queue t q).leaseFor m.i.ext (64 * cw) 0 with
            | some l => m.fetch t l j cw
            | none => m) m
          if (cwsOf a c.es).any fun cw => m.got.any fun g => g.1 == cw && g.2 then m
          else m.put far (e.trec 1) j d (Memory.bytes m.img a c.es)

/-- Bytes that a remote read has brought from address `lo` on, put at their destinations (R144): an element that met a poisoned
codeword is not written, and one overwritten by a later element neither (R132). -/
def landParts (i : Issue) (t q chunk : Nat) (store : Bool) (lo : Nat) (bad : List Nat) (parts : List (Nat × Nat × Nat × Nat))
    (data : List Byte) : Issue :=
  let met := fun (p : Nat × Nat × Nat × Nat) => (cwsOf (lo + p.1) p.2.1).any fun cw => bad.contains cw
  let ok := parts.filter fun p => !parts.any fun r => r.2.2.2 == p.2.2.2 && met r
  let r := ok.foldl (fun x p =>
    ((((data.drop p.1).take p.2.1).zipIdx).foldl (fun x b => lastWrite x (p.2.2.1 + b.2) p.2.2.2 b.1) x)) (i.landed, ([] : Scatter))
  let i := { i with landed := r.1 }
  if store then
    let w := putScatter i.s t r.2
    { i with s := w.1, bad := i.bad.or w.2 }
  else
    let first := fun (cw : Nat) => (listMin ((ok.filter fun p => (cwsOf p.2.2.1 p.2.1).contains cw).map fun p => p.2.2.2)).getD 0
    i.putMem t q (fun va cws => .write t q chunk va cws) first r.2

/-- The codewords of the parts of a read from `lo` on, each with the element that met it first. -/
def partCws (lo : Nat) (parts : List (Nat × Nat × Nat × Nat)) : List (Nat × Nat) :=
  let all := parts.flatMap fun p => (cwsOf (lo + p.1) p.2.1).map fun cw => (cw, p.2.2.2)
  ((all.map (·.1)).eraseDups).map fun cw => (cw, (listMin ((all.filter fun x => x.1 == cw).map (·.2))).getD 0)

/-- The answer to a read of another node's memory (R144): its bytes land, but for the elements that met a poisoned codeword; the
acknowledgement of the read comes last. -/
def landAnswer (i : Issue) (t q chunk : Nat) (store : Bool) (lo : Nat) (parts : List (Nat × Nat × Nat × Nat)) (poison : Bool)
    (data : List Byte) : Issue × Ack :=
  let pos := (listMin (parts.map fun p => p.2.2.2)).getD 0
  if poison then
    let r := poisonOf i.s (partCws lo parts)
    (landParts { i with s := r.1 } t q chunk store lo r.2.1 parts data, r.2.2)
  else (landParts i t q chunk store lo [] parts data, { pos := pos })

/-- One packet of a remote source read: the 32 B sectors from `lo` to `hi`, with the pieces that it holds. -/
def Issue.readFar (i : Issue) (t q chunk : Nat) (store : Bool) (l : Lease) (lo hi : Nat) (ps : List (Nat × Nat × Nat × Nat)) :
    Issue :=
  let parts := (ps.filter fun p => decide (lo ≤ p.1 ∧ p.1 < hi)).map fun p => (p.1 - lo, p.2.1, p.2.2.1, p.2.2.2)
  let pos := (listMin (parts.map fun p => p.2.2.2)).getD 0
  let r := sendRemote i.s (l.pa lo) 1 (hi - lo) 0 [] (.read t q chunk lo (hi - lo) store parts)
  match r.2 with
  | .done a =>
    let x := landAnswer { i with s := r.1 } t q chunk store lo parts a.poison a.data
    { x.1 with acks := x.1.acks ++ [x.2] }
  | _ => i.sent r pos lo [] none

/-- The runs of consecutive 32 B sectors that a list of pieces covers: first byte and end (R137). -/
def sectorRuns (ps : List (Nat × Nat)) : List (Nat × Nat) :=
  let marks : Scatter := ps.foldl (fun w p =>
    (rangeFrom (p.1 / 32) ((p.1 + p.2 - 1) / 32 + 1 - p.1 / 32)).foldl (fun w k => Tab.set none w k (some 1)) w) []
  (runsOf (2 ^ 60) marks).map fun r => (32 * r.1, 32 * (r.1 + r.2.length))

/-- All pieces of remote sources read, in the fewest packets: up to eight consecutive lines in each (R137, R281). -/
def Issue.readAllFar (i : Issue) (t q chunk : Nat) (store : Bool) (ps : List (Nat × Nat × Nat × Nat)) : Issue :=
  ((sectorRuns (ps.map fun p => (p.1, p.2.1))).flatMap fun r =>
      packetsFrom (i.s.queue t q) i.ext 0 (r.2 - r.1 + 1) r.1 r.2).foldl
    (fun i p => i.readFar t q chunk store p.1 p.2.1 p.2.2 ps) i

/-- A COPY or FILL chunk: its elements moved. -/
def moveChunk (i : Issue) (t q chunk : Nat) (img : Tab Byte) (e : QEntry) (elems : List Nat) : Issue :=
  let m := elems.foldl (Move.elem t q img e) { i := i }
  let w := putScatter m.i.s t m.store
  let first := fun cw => match m.first.find? fun x => x.1 == cw with
    | some x => x.2
    | none => 0
  let i := ({ m.i with s := w.1, bad := m.i.bad.or w.2 } : Issue).putMem t q (fun va cws => .write t q chunk va cws) first m.mem
  i.readAllFar t q chunk (!(e.trec 1).virt) m.far

/-! ### ATOMIC (R133) -/

/-- One element of an ATOMIC chunk: its operation at its adder, or sent to its node; one whose remote address has an
operation of the descriptor in flight waits (R133). -/
def atomicElem (t q chunk : Nat) (img : Tab Byte) (e : QEntry) (x : Issue × List Nat) (j : Nat) : Issue × List Nat :=
  let (i, later) := x
  let c := parseMover e.desc
  let idx := e.stream.index j
  let va := (e.trec 1).at c.es idx
  let v := Memory.le img ((e.trec 0).at c.es idx) c.es
  let cmp := if c.cswap then Memory.le img ((e.trec 3).at c.es idx) c.es else 0
  let fetch := if c.fetch then some ((e.trec 2).at c.es idx, c.es) else none
  match (i.s.queue t q).leaseFor i.ext va 2 with
  | none => x
  | some l =>
    let pa := l.pa va
    if l.rm then
      let same := fun (j' : Nat) => (e.trec 1).at c.es (e.stream.index j') == va
      let busy := later.any same || i.s.node.rems.any fun r => match r.kind with
        | .atomic t' q' _ _ va' _ => t' == t && q' == q && va' == va
        | _ => false
      if busy then (i, later ++ [j])
      else
        let r := sendRemote i.s pa 3 c.es c.addop (leBytes c.es v ++ if c.cswap then leBytes c.es cmp else [])
          (.atomic t q chunk j va (fetch.map (·.1)))
        (i.sent r j va [(va / 64, j)] fetch, later)
    else
      let s := accessTrip i.s (tileEnd t) l.hc 2 pa (if c.cswap then 2 * c.es else c.es) c.es
      let s := if l.hc then countTileReq (cohPurge s (pa / 64)) (pa / 64) else s
      let r := adderApply s pa c.addop (leNat (arrive s.truss.flips pa (leBytes c.es v))) cmp
      let f := if r.2.poison then none else fetch.map fun y => (y.1, r.2.old, y.2)
      let bad := if r.2.poison then some (va / 64 * 64) else none
      let home := if l.hc then some (va / 64 * 64, homeArb (pa / 64)) else none
      ({ i with s := r.1, acks := i.acks ++ [{ pos := j, flags := r.2.flags, poison := bad, fetch := f, home := home }] }, later)

/-! ### Chunks (R136–R138) -/

/-- The first and last byte of each access of a list of elements lie in lines without an open transaction, where their
extents are host-coherent. -/
def hcIdle (s : State) (t q : Nat) (e : QEntry) (ext elems : List Nat) : Bool :=
  let es := (parseMover e.desc).es
  elems.all fun j => (moverAccesses e j).all fun a =>
    match (s.queue t q).leaseFor ext a.1 a.2 with
    | some l => !l.hc || s.linesIdle (l.pa a.1) es
    | none => true

/-- The ranges of tile store that a chunk reads. -/
def chunkRanges (e : QEntry) (j : Nat) : List (Nat × Nat) :=
  let c := parseMover e.desc
  let idx := e.stream.index j
  (if c.op = 1 ∨ (e.trec 0).virt then [] else [((e.trec 0).at c.es idx, c.es)]) ++
    (if c.cswap then [((e.trec 3).at c.es idx, c.es)] else [])

/-- The elements moved before a word of tile store whose error ends the descriptor: those before the element that reads
the word, or fewer, as a free value has it (assumption 32). -/
def beforeBad (s : State) (e : QEntry) (elems : List Nat) (off : Nat) : List Nat :=
  let n := (elems.takeWhile fun j => !(chunkRanges e j).any fun r => decide (r.1 < off + 8 ∧ off < r.1 + r.2)).length
  elems.take (s.freeVal % (n + 1))

/-- An error of a descriptor: the first, or of two poisoned codewords that of the earlier element (R142, R144). -/
def QEntry.fail (e : QEntry) (pos st : Nat) (detail : Nat) : QEntry :=
  match e.err with
  | none => { e with err := some (st, BitVec.ofNat 64 detail), errPos := pos }
  | some x =>
    if x.1 = stMemPoison ∧ st = stMemPoison ∧ pos < e.errPos then
      { e with err := some (st, BitVec.ofNat 64 detail), errPos := pos }
    else e

/-- Line requests of a chunk (R137). -/
def chunkRequests (e : QEntry) (elems : List Nat) : Nat :=
  let es := (parseMover e.desc).es
  let lines := elems.flatMap fun j => (moverAccesses e j).flatMap fun a => (linesOf a.1 es).map fun l => (a.2, l)
  lines.eraseDups.length

/-- The virtual address of the first element of a chunk, or 0. -/
def chunkVa (e : QEntry) (elems : List Nat) : Nat :=
  match elems with
  | [] => 0
  | j :: _ => match moverAccesses e j with
    | a :: _ => a.1
    | [] => 0

/-- A chunk of a mover descriptor is issued: its bytes move, and it is in flight until its acknowledgements are in. -/
def issueChunk (s : State) (t q : Nat) (e : QEntry) : State :=
  let c := parseMover e.desc
  let plan := chunkPlan s t q e
  let elems := plan.1
  let uses := (s.queue t q).granted plan.2
  let r := readRanges s t (elems.flatMap (chunkRanges e))
  let go := match r.2.2 with
    | some off => beforeBad r.1 e elems off
    | none => elems
  let i : Issue := { s := if r.2.2.isSome then r.1.takeFree else r.1, ext := uses, bad := r.2.2, landed := e.landed }
  let x : Issue × List Nat :=
    if c.op = 2 then go.foldl (atomicElem t q e.issued r.2.1 e) (i, [])
    else (moveChunk i t q e.issued r.2.1 e go, [])
  let ch : Chunk := { idx := e.issued, acks := x.1.acks, remote := x.1.remote, later := x.2, extents := uses,
                      bytes := elems.length * c.es }
  let next := match (e.ahead.1.drop elems.length).head? with
    | some j => j
    | none => e.ahead.2.1
  let s := modEntry x.1.s t q e.seq fun y =>
    let y := { y with chunks := y.chunks ++ [ch], issued := y.issued + 1, elem := next, landed := x.1.landed,
                      flags := y.flags ||| flagIf e.ahead.2.2 fSkipped }
    match x.1.bad with
    | some off => y.fail 0 stStoreUncorr off
    | none => y
  let s := (tileEvent s t 0x0A (some q) (chunkRequests e elems)).modTile t fun T => { T with moverLast := q }
  let s := tileCycles (moverCycles (s.modQueue t q fun Q => { Q with fresh := false }) t q) t
  traceDesc s t q e 3 (chunkVa e elems) (e.issued % 65536) (e.seq.setWidth 64)

/-- A queue's mover descriptor, if its next chunk may issue: the queue has no fault, fewer than two chunks of the descriptor
are in flight, and the stream holds every lease that the chunk needs (R136–R138, R143); for a SEND, a route record is
left. -/
def moverReady (s : State) (t q : Nat) : Option QEntry :=
  let Q := s.queue t q
  match Q.mover with
  | none => none
  | some e =>
    if Q.fault.isSome ∨ 2 ≤ e.chunks.length then none
    else if (parseMover e.desc).op = 3 then (if e.elem < fieldAt e.tail 0 4 then some e else none)
    else
      let plan := chunkPlan s t q e
      if plan.1 = [] ∨ !Q.meets plan.2 ∨ !hcIdle s t q e (Q.granted plan.2) plan.1 then none else some e

/-- The descriptor of queue `q` whose chunk the mover issues now: chunks of the active descriptors go round-robin (R36,
R137). -/
def moverTurn (s : State) (t q : Nat) : Option QEntry :=
  if (s.tile t).st ≠ .run then none
  else if (roundRobin (s.tile t).moverLast).find? (fun n => (moverReady s t n).isSome) = some q then moverReady s t q else none

/-- A mover descriptor of an operation issues its next chunk in its turn. -/
def moverChunk (op t q : Nat) (s : State) : State :=
  match moverTurn s t q with
  | none => s
  | some e => if (parseMover e.desc).op = op then issueChunk s t q e else s

/-- MOVER_COPY_CHUNK (R132); `flips` names the bits that flip on the way (R262). -/
def doMoverCopyChunk (t q : Nat) (flips : Flips) (s : State) : State := withFlips flips (moverChunk 0 t q) s

/-- MOVER_COPY_CHUNK. -/
def execMoverCopyChunk (t q : Nat) (s : State) (flips : Flips := []) : Host.Outcome State Fault Refusal :=
  require (okTQ t q) (doMoverCopyChunk t q flips s)

/-- MOVER_FILL_CHUNK (R131). -/
def doMoverFillChunk (t q : Nat) (flips : Flips) (s : State) : State := withFlips flips (moverChunk 1 t q) s

/-- MOVER_FILL_CHUNK. -/
def execMoverFillChunk (t q : Nat) (s : State) (flips : Flips := []) : Host.Outcome State Fault Refusal :=
  require (okTQ t q) (doMoverFillChunk t q flips s)

/-- MOVER_ATOMIC_CHUNK (R133). -/
def doMoverAtomicChunk (t q : Nat) (flips : Flips) (s : State) : State := withFlips flips (moverChunk 2 t q) s

/-- MOVER_ATOMIC_CHUNK. -/
def execMoverAtomicChunk (t q : Nat) (s : State) (flips : Flips := []) : Host.Outcome State Fault Refusal :=
  require (okTQ t q) (doMoverAtomicChunk t q flips s)

/-! ### Acknowledgements and the end of a chunk (R133, R136, R141, R144) -/

/-- The state with a function applied to a chunk in flight. -/
def modChunk (s : State) (t q : Nat) (seq : W32) (chunk : Nat) (f : Chunk → Chunk) : State :=
  modEntry s t q seq fun e => { e with chunks := e.chunks.map fun c => if c.idx = chunk then f c else c }

/-- One acknowledgement taken by a descriptor (R141, R144): flags, an error, or a value that FETCH stores. -/
def takeAck (s : State) (t q : Nat) (seq : W32) (a : Ack) : State :=
  let s := modEntry s t q seq fun e =>
    let e := { e with flags := e.flags ||| a.flags }
    let e := match a.poison with
      | some va => e.fail a.pos stMemPoison va
      | none => e
    match a.refused with
    | some r => e.fail a.pos r.1 r.2
    | none => e
  match a.fetch with
  | none => s
  | some f =>
    let r := enginePut s t f.1 (leBytes f.2.2 f.2.1)
    match r.2 with
    | some off => modEntry r.1 t q seq fun e => e.fail a.pos stStoreUncorr off
    | none => r.1

/-- The elements of an ATOMIC chunk that waited for an operation on their address sent on, in order (R133). A word of tile
store in error ends the descriptor as in a chunk's first issue (R31, R144). -/
def pumpLater (t q : Nat) (e : QEntry) (ch : Chunk) (s : State) : State :=
  if ch.later = [] then s
  else
    let r := readRanges s t (ch.later.flatMap (chunkRanges e))
    let go := match r.2.2 with
      | some off => beforeBad r.1 e ch.later off
      | none => ch.later
    let x := go.foldl (atomicElem t q ch.idx r.2.1 e)
      ({ s := if r.2.2.isSome then r.1.takeFree else r.1, ext := ch.extents }, [])
    let s := modChunk x.1.s t q e.seq ch.idx fun c =>
      { c with acks := c.acks ++ x.1.acks, remote := c.remote + x.1.remote, later := x.2 }
    match r.2.2 with
    | some off => modEntry s t q e.seq fun y => y.fail 0 stStoreUncorr off
    | none => s

/-- MOVER_ACK (R141): one acknowledgement of a chunk arrives. -/
def doMoverAck (t q chunk : Nat) (s : State) : State :=
  match (s.queue t q).active 1 with
  | none => s
  | some e => match e.chunks.find? fun c => c.idx == chunk with
    | none => s
    | some c => match c.acks.find? fun a => !a.reset with
      | none => s
      | some a => takeAck (modChunk s t q e.seq chunk fun c => { c with acks := c.acks.erase a }) t q e.seq a

/-- MOVER_ACK. -/
def execMoverAck (t q chunk : Nat) (s : State) : Host.Outcome State Fault Refusal := require (okTQ t q) (doMoverAck t q chunk s)

/-- A later chunk of a mover descriptor touches a lease's extent. -/
def laterTouches (e : QEntry) (l : Lease) : Bool :=
  let es := (parseMover e.desc).es
  (rangeFrom e.elem (e.stream.count - e.elem)).any fun j =>
    e.kept j && (moverAccesses e j).any fun a => l.covers a.1 || l.covers (a.1 + es - 1)

/-- A SEND's status once every delivery has its outcome (R155). -/
def sendStatus (e : QEntry) : Nat × W64 :=
  match e.refusedRec with
  | none => (stOk, 0)
  | some r => (stMsgUndelivered, BitVec.ofNat 64 (e.refusals % 2 ^ 32 + r.1 % 2 ^ 24 * 2 ^ 32 + r.2 * 2 ^ 56))

/-- Elements of a mover descriptor: those of its stream, or the route records of a SEND. -/
def QEntry.total (e : QEntry) : Nat :=
  if (parseMover e.desc).op = 3 then fieldAt e.tail 0 4 else e.stream.count

/-- A mover descriptor without a chunk in flight completes when it is through or has met an error (R141, R144, R155). -/
def moverFinish (s : State) (t q : Nat) (seq : W32) : State :=
  match (s.queue t q).active 1 with
  | none => s
  | some e =>
    if e.seq ≠ seq ∨ e.chunks ≠ [] then s
    else match e.err with
      | some x => endEntry s t q seq x.1 x.2 e.flags
      | none =>
        if e.elem < e.total then s
        else endEntry s t q seq (sendStatus e).1 (sendStatus e).2 e.flags

/-- A remote request of a chunk is answered: its outcome is taken, and the chunk waits for one answer fewer. The elements of
the descriptor that waited for an operation on their address go on, chunk by chunk (R133). -/
def remoteAck (s : State) (t q chunk : Nat) (a : Ack) : State :=
  match (s.queue t q).active 1 with
  | none => s
  | some e => match e.chunks.find? fun c => c.idx == chunk with
    | none => s
    | some _ =>
      let s := modChunk s t q e.seq chunk fun c => { c with remote := c.remote - 1, acks := c.acks ++ [a] }
      match (s.queue t q).active 1 with
      | none => s
      | some e => forEach e.chunks (pumpLater t q e) s

end Sys2Proof.Machine
end

