-- ==== Sys2Proof/Machine/ChainCfg.lean ====
section
/-!
DEFINITION. The pass configuration of the vector chain (R99–R109): its fields, its records and the checks of R125.
-/

namespace Sys2Proof.Machine
open Sys2Proof

/-! ### Fields (R100–R103) -/

/-- The fields of an ALU stage (R103). -/
structure AluCfg where
  on : Bool
  p : Nat
  q : Nat
  a : Nat
  negP : Bool
  negA : Bool
  abs : Bool
  toY : Bool
  deriving DecidableEq, Repr

/-- The fields of a descriptor and its pass configuration block. Fields of a stage that is not enabled have the value that
turns the feature off, but for the raw codes that the checks of reserved values look at. -/
structure ChainCfg where
  words : List Nat
  tailZero : Bool
  en : Nat
  cfmt : Nat
  rmode : Nat
  prop : Bool
  sat : Bool
  xfmt : Nat
  yfmt : Nat
  xmx : Bool
  ymx : Bool
  gather : Bool
  xsc : Nat
  ysc : Nat
  vmode : Nat
  vfmt : Nat
  cop : Nat
  aluA : AluCfg
  aluB : AluCfg
  fn : Nat
  fnY : Bool
  fnToY : Bool
  cmp : Nat
  lsel : Nat
  rsel : Nat
  mcomb : Nat
  maskin : Bool
  causal : Bool
  fillSel : Nat
  fill : Bool
  pred : Bool
  kbase : Nat
  qbase : Nat
  rop : Nat
  axis : Nat
  rofmt : Nat
  count : Bool
  redY : Bool
  scale : Nat
  cmode : Nat
  whole : Bool
  expSel : Nat
  idxout : Bool
  topk : Nat
  norm : Bool
  mapOff : Nat
  routeOff : Nat
  crcX : Bool
  check : Bool
  seed : Nat
  expect : Nat
  crcOff : Nat
  ofmt : Nat
  omx : Bool
  packY : Bool
  scatter : Bool
  scatadd : Bool
  oscOff : Nat
  konst : List Nat
  rsvBits : Bool
  rsvVals : Bool
  deriving DecidableEq, Repr

/-- Word `i` of stage `n` of a block (R101). -/
def stageWord (blk : List Byte) (n i : Nat) : Nat := fieldAt blk (0x10 * n + 4 * i) 4

/-- An ALU stage's fields. -/
def parseAlu (on : Bool) (w : Nat) : AluCfg :=
  { on := on, p := fld w 0 5, q := fld w 5 5, a := fld w 10 5, negP := bitAt w 15, negA := bitAt w 16, abs := bitAt w 17,
    toY := bitAt w 18 }

/-- Bits that R103 lists in each word of each stage. -/
def usedBits : List (Nat × List Nat) :=
  let a := 0xFFFFFFFF
  [(1, [0x7FF, a, a, 0]), (2, [0xFF3, 0, 0, 0]), (3, [0x7FFFF, 0, 0, 0]), (4, [0x7FFFF, 0, 0, 0]), (5, [0x3F, 0, 0, 0]),
   (6, [0x1FFFFFF, 0xFFFFFF, 0xFFFFFF, 0]), (7, [0xFFF, a, 0, 0]), (8, [0x1FF, 0, 0, 0]), (9, [0x1F, a, a, 0]),
   (10, [0x3, a, a, a]), (11, [0xFF, a, 0, 0])]

/-- A reserved bit of the block is nonzero (R5, R101, R103). -/
def blockRsv (blk : List Byte) : Bool :=
  fieldAt blk 0 4 ≥ 2 ^ 11 || fieldAt blk 4 4 ≥ 2 ^ 9 || fieldAt blk 8 8 != 0 ||
    usedBits.any fun u => (u.2.zipIdx).any fun m => stageWord blk u.1 m.2 - (stageWord blk u.1 m.2).land m.1 != 0

/-- The fields of a descriptor's words and of the block (R100–R103). -/
def parseChain (words : List Nat) (tailZero : Bool) (blk : List Byte) : ChainCfg :=
  let en := fieldAt blk 0 4
  let mode := fieldAt blk 4 4
  let w := stageWord blk
  let on := fun (n : Nat) => bitAt en (n - 1)
  let num := fun (n lo k : Nat) => if on n then fld (w n 0) lo k else 0
  let flag := fun (n b : Nat) => on n && bitAt (w n 0) b
  let rop := num 7 0 4
  { words := words, tailZero := tailZero, en := en, cfmt := fld mode 0 4, rmode := fld mode 4 3, prop := bitAt mode 7,
    sat := bitAt mode 8,
    xfmt := fld (w 1 0) 0 4, yfmt := fld (w 1 0) 4 4, xmx := bitAt (w 1 0) 8, ymx := bitAt (w 1 0) 9,
    gather := bitAt (w 1 0) 10, xsc := w 1 1, ysc := w 1 2,
    vmode := num 2 0 2, vfmt := num 2 4 4, cop := num 2 8 4,
    aluA := parseAlu (on 3) (w 3 0), aluB := parseAlu (on 4) (w 4 0),
    fn := num 5 0 4, fnY := flag 5 4, fnToY := flag 5 5,
    cmp := num 6 0 4, lsel := num 6 4 5, rsel := num 6 9 5, mcomb := num 6 14 2, maskin := flag 6 16, causal := flag 6 17,
    fillSel := num 6 18 5, fill := flag 6 23, pred := flag 6 24, kbase := fld (w 6 1) 0 24, qbase := fld (w 6 2) 0 24,
    rop := rop, axis := num 7 4 2, rofmt := num 7 6 4, count := flag 7 10 && rop != 0, redY := flag 7 11, scale := w 7 1,
    cmode := num 8 0 2, whole := flag 8 2, expSel := num 8 3 5, idxout := flag 8 8 && num 8 0 2 == 1,
    topk := num 9 0 4, norm := flag 9 4, mapOff := w 9 1, routeOff := w 9 2,
    crcX := flag 10 0, check := flag 10 1, seed := w 10 1, expect := w 10 2, crcOff := w 10 3,
    ofmt := num 11 0 4, omx := flag 11 4, packY := flag 11 5, scatter := flag 11 6, scatadd := flag 11 6 && flag 11 7,
    oscOff := w 11 1,
    konst := if fld mode 0 4 = 1 then (rangeFrom 0 8).map fun k => fieldAt blk (0xC0 + 8 * k) 8
      else (rangeFrom 0 16).map fun k => fieldAt blk (0xC0 + 4 * k) 4,
    rsvBits := blockRsv blk,
    rsvVals := decide (4 ≤ fld mode 4 3) || fld (w 2 0) 0 2 == 3 || decide (8 < fld (w 2 0) 8 4) ||
      decide (7 < fld (w 6 0) 0 4) || fld (w 6 0) 14 2 == 3 || decide (9 < fld (w 7 0) 0 4) || fld (w 8 0) 0 2 == 3 ||
      (on 5 && (fld (w 5 0) 0 4 == 0 || decide (11 < fld (w 5 0) 0 4))) || (on 9 && decide (8 < fld (w 9 0) 0 4)) }

/-- Stage `n` is enabled. -/
def ChainCfg.on (c : ChainCfg) (n : Nat) : Bool := bitAt c.en (n - 1)
/-- The descriptor's word at a byte offset (R100). -/
def ChainCfg.word (c : ChainCfg) (off : Nat) : Nat := c.words.getD ((off - 0x10) / 4) 0
/-- Bits of an element of a format code, 0xD being INT4 (R103). -/
def chainBits (code : Nat) : Nat := if code = 0xD then 4 else codeBits code
/-- The format of a code. -/
def chainFmt (mx : Bool) (code : Nat) : Fmt := if code = 0xD then .int4 else codeFmt mx code
/-- The compute format. -/
def ChainCfg.cf (c : ChainCfg) : Fmt := chainFmt false c.cfmt
/-- The accumulator format of the reduce stage (R99). -/
def ChainCfg.accFmt (c : ChainCfg) : Fmt :=
  match c.cfmt with
  | 1 => .fp64
  | 0xB => .int32
  | _ => .fp32
/-- The pass writes an output stream. -/
def ChainCfg.pack (c : ChainCfg) : Bool := c.on 11
/-- The pass is a SOFTMAX pass. -/
def ChainCfg.softmax (c : ChainCfg) : Bool := c.rop == 9
/-- The pass has a second input stream, read element by element or by EXPAND. -/
def ChainCfg.hasY (c : ChainCfg) : Bool := c.yfmt != 0
/-- Compaction. -/
def ChainCfg.compact (c : ChainCfg) : Bool := c.cmode == 1
/-- Expansion. -/
def ChainCfg.expand (c : ChainCfg) : Bool := c.cmode == 2
/-- The broadcast vector is read. -/
def ChainCfg.hasV (c : ChainCfg) : Bool := c.vmode == 1 || c.vmode == 2

/-! ### Records -/

/-- The records that a pass uses: their field's offset in the descriptor and the bits of an element. -/
def ChainCfg.recFields (c : ChainCfg) : List (Nat × Nat) :=
  [(0x14, chainBits c.xfmt)] ++
    (if c.hasY || c.gather then [(0x18, if c.gather then 32 else chainBits c.yfmt)] else []) ++
    (if c.hasV then [(0x1C, chainBits c.vfmt)] else []) ++ (if c.maskin then [(0x20, 1)] else []) ++
    (if c.pack then [(0x24, chainBits c.ofmt)] else []) ++ (if c.rop != 0 then [(0x28, chainBits c.rofmt)] else []) ++
    (if c.rop != 0 && c.axis == 3 then [(0x2C, 32)] else []) ++ (if c.gather then [(0x30, chainBits c.yfmt)] else []) ++
    (if c.scatter then [(0x34, 32)] else []) ++ (if c.softmax then [(0x40, 64)] else [])

/-- The places of the records of a pass. -/
def ChainCfg.recOffs (c : ChainCfg) : List Nat := c.recFields.map fun f => c.word f.1

/-- The record of a field, as far as the pass uses it and it lies in tile store. The rows of a mask are dense (R112). -/
def ChainCfg.recOf (c : ChainCfg) (img : Tab Byte) (off : Nat) : Option TRec :=
  if c.recFields.any fun f => f.1 == off then
    if inStore (c.word off) 80 then
      let r := recAt img (c.word off)
      some (if off = 0x20 then { r with str := 0 :: r.str.drop 1 } else r)
    else none
  else none

/-- The records of a pass. -/
def ChainCfg.recs (c : ChainCfg) (img : Tab Byte) : ChainRecs :=
  let f := c.recOf img
  { x := (f 0x14).getD {}, y := f 0x18, v := f 0x1C, m := f 0x20, d := f 0x24, r := f 0x28, seg := f 0x2C, tab := f 0x30,
    sidx := f 0x34, stat := f 0x40 }

/-- 2-D tiles of a pass (R98). -/
def TRec.tiles (r : TRec) : Nat := (r.ext.drop 2).foldl (· * ·) 1

/-- Results of the reduce stage (R114, R116). -/
def resultCount (c : ChainCfg) (r : ChainRecs) : Nat :=
  if c.rop = 0 then 0
  else match c.axis with
    | 0 => r.x.rows
    | 1 => r.x.tiles
    | 2 => 1
    | _ => match r.seg with
      | some g => g.e 0 - 1
      | none => 0

/-- Scopes of a compaction (R118). -/
def scopeCount (c : ChainCfg) (r : ChainRecs) : Nat := if !c.compact then 0 else if c.whole then 1 else r.x.rows

/-! ### Regions (R109, R129) -/

/-- The rows of MX scales of a pass (R103). -/
def scaleRegion (off : Nat) (x : TRec) : Region := rowsRegion off (up16 (ceilDiv (x.e 0) 32)) x.rows (ceilDiv (x.e 0) 32)

/-- The region of a word or block. -/
def spanRegion (off n : Nat) : Region := if n = 0 then [] else [((off : Int), n)]

/-- A record's region in tile store, or nothing. -/
def optLocal (r : Option TRec) (bits : Nat) : Region :=
  match r with
  | some r => r.local bits
  | none => []

/-- The staging area of a pass. -/
def stageRegion (c : ChainCfg) (r : ChainRecs) : Region := spanRegion (c.word 0x44) (131072 * (memOperands r).length)

/-- The output regions of a pass but D. -/
def outRegions (c : ChainCfg) (r : ChainRecs) : List Region :=
  let rows := r.x.rows
  [optLocal r.r (chainBits c.rofmt), spanRegion (c.word 0x38) (if c.count then 4 * resultCount c r else 0),
   spanRegion (c.word 0x38) (4 * scopeCount c r), spanRegion (c.word 0x38) (if c.on 9 then 4 * rows else 0),
   spanRegion (c.word 0x3C) (if c.pred then 4 else 0), spanRegion c.routeOff (if c.on 9 then 16 * c.topk * rows else 0),
   spanRegion c.crcOff (if c.on 10 then 4 else 0), if c.omx then scaleRegion c.oscOff r.x else [], stageRegion c r,
   optLocal r.stat 64]

/-- The input regions of a pass but X, with the block, the descriptor, the records and the completion rings. -/
def inRegions (T : Tile) (doff : Nat) (c : ChainCfg) (r : ChainRecs) : List Region :=
  [optLocal r.y (if c.gather then 32 else chainBits c.yfmt), optLocal r.v (chainBits c.vfmt), optLocal r.m 1,
   optLocal r.seg 32, optLocal r.tab (chainBits c.yfmt), optLocal r.sidx 32,
   if c.xmx then scaleRegion c.xsc r.x else [], if c.ymx && !c.gather then scaleRegion c.ysc (r.y.getD {}) else [],
   spanRegion c.mapOff (if c.on 9 then 8 * r.x.e 0 else 0), spanRegion (c.word 0x10) 256, spanRegion doff 128,
   c.recOffs.map (fun o => ((o : Int), 80)), ringRegions T]

/-- The regions of records in memory. -/
def optVirt (r : Option TRec) (bits : Nat) : Region :=
  match r with
  | some r => if r.virt then r.region bits else []
  | none => []

/-- D coincides with X as R109 allows. -/
def inPlace (c : ChainCfg) (r : ChainRecs) : Bool :=
  match r.d with
  | some d => d.virt == r.x.virt && d.base == r.x.base && d.str == r.x.str && chainBits c.xfmt == chainBits c.ofmt &&
      !c.on 8 && !c.scatter
  | none => false

/-- An overlap that R109 forbids. -/
def chainOverlap (T : Tile) (doff : Nat) (c : ChainCfg) (r : ChainRecs) : Bool :=
  let d := optLocal r.d (chainBits c.ofmt)
  let x := r.x.local (chainBits c.xfmt)
  let outs := outRegions c r
  let ins := inRegions T doff c r
  let vd := optVirt r.d (chainBits c.ofmt)
  anyMeet (d :: outs) || (d :: outs).any (fun o => ins.any fun i => o.meets i) || outs.any (fun o => o.meets x) ||
    (!inPlace c r && (d.meets x || vd.meets (optVirt (some r.x) (chainBits c.xfmt)))) ||
    vd.meets (optVirt r.y (chainBits c.yfmt))

/-! ### Checks (R100–R109, R125) -/

/-- A format with its MX bit breaks the first row of R105. -/
def mxBad (code : Nat) (mx : Bool) : Bool :=
  (([7, 8, 9] : List Nat).contains code && !mx) || (mx && !([5, 6, 7, 8, 9, 0xA] : List Nat).contains code)

/-- A format code is reserved or illegal in its slot (reason 0x20). -/
def fmtBad (c : ChainCfg) : Bool :=
  let real := fun (f : Nat) => decide (1 ≤ f ∧ f ≤ 0xD)
  let comp : List Nat := [1, 2, 3, 4, 0xB]
  !comp.contains c.cfmt || !real c.xfmt || decide (0xD < c.yfmt) || mxBad c.xfmt c.xmx || mxBad c.yfmt c.ymx ||
    (c.gather && c.yfmt == 0xC) || (c.hasV && !real c.vfmt) ||
    (c.pack && (!real c.ofmt || c.ofmt == 0xC || mxBad c.ofmt c.omx)) || (c.rop != 0 && !comp.contains c.rofmt)

/-- A combination that R104 or R105 forbids (reason 0x21). The row length is looked at where the record of X can be read. -/
def combBad (c : ChainCfg) (r : ChainRecs) (xOk : Bool) : Bool :=
  let e0 := r.x.e 0
  !c.on 1 || (c.cfmt == 0xB && (c.on 5 || (c.hasV && c.cop == 5) || c.softmax || c.on 9)) ||
    ((c.rop == 7 || c.rop == 8) && c.cfmt != 0xB) || ((c.rop == 5 || c.rop == 6) && c.rofmt != 0xB) ||
    (c.softmax && (c.cfmt != 2 || (c.fn != 1 && c.fn != 2) || c.vmode != 0 || c.axis != 0 || c.word 0x40 == 0 ||
      c.cmode != 0 || c.on 9)) ||
    (c.gather && (c.ymx || c.expand || !c.hasY)) || (c.expand && !c.hasY) || (c.cmode != 0 && c.scatter) ||
    (c.omx && c.scatter) || (c.idxout && c.pack && c.ofmt != 0xB) ||
    (c.on 9 && (c.cmode != 0 || c.topk == 0 || (xOk && (decide (e0 < c.topk) || decide (1024 < e0)))))

/-- A selector code names an operand that the pass has (R102, R105). -/
def selOk (c : ChainCfg) (y : Bool) (s : Nat) : Bool :=
  match s with
  | 0 | 3 | 4 | 5 | 6 | 7 | 8 => true
  | 1 => y
  | 2 => c.hasV || c.softmax
  | _ => decide (0x10 ≤ s) && !(c.cfmt == 1 && decide (0x18 ≤ s))

/-- A selector names an operand that the pass does not have (reason 0x22). -/
def selBad (c : ChainCfg) : Bool :=
  let y2 := c.hasY
  let y3 := y2 || (c.aluA.on && c.aluA.toY)
  let y4 := y3 || (c.aluB.on && c.aluB.toY)
  let y5 := y4 || c.fnToY
  let alu := fun (a : AluCfg) (y : Bool) => a.on && !(selOk c y a.p && selOk c y a.q && selOk c y a.a)
  (c.on 2 && c.vmode == 0 && !c.softmax) || alu c.aluA y2 || alu c.aluB y3 || (c.fnY && !y4) ||
    (c.cmp != 0 && !(selOk c y5 c.lsel && selOk c y5 c.rsel)) || (c.fill && !selOk c y5 c.fillSel) ||
    (c.rop != 0 && c.redY && !y5) || (c.expand && !selOk c y5 c.expSel) || (c.packY && !y5)

/-- A record has one dimension. -/
def TRec.oneDim (r : TRec) : Bool := r.ext.drop 1 == [1, 1, 1, 1, 1]

/-- A test of a record that the pass uses. -/
def optAny (r : Option TRec) (p : TRec → Bool) : Bool :=
  match r with
  | some r => p r
  | none => false

/-- Extents disagree, or a sub-byte operand has a nonzero S0 (reason 0x23). Extents are held to those of X, and results to
those of the segments, where their records can be read. -/
def extBad (c : ChainCfg) (r : ChainRecs) (xOk : Bool) : Bool :=
  let same := fun (a : TRec) => xOk && a.ext != r.x.ext
  let counted := if c.axis = 2 then true else if c.axis = 3 then r.seg.isSome else xOk
  let sub := fun (code : Nat) (a : TRec) => chainBits code % 8 != 0 && a.s 0 != 0
  optAny r.y (fun a => !(c.expand && !c.gather) && same a) || optAny r.m same || optAny r.sidx same ||
    optAny r.d (fun a => if c.scatter then !a.oneDim else same a) || optAny r.seg (fun a => !a.oneDim || a.e 0 == 0) ||
    optAny r.tab (fun a => !a.oneDim) || optAny r.r (fun a => counted && a.count != resultCount c r) ||
    optAny r.stat (fun a => xOk && a.count != r.x.rows) ||
    (xOk && optAny r.v fun a => a.e 0 != (if c.vmode = 1 then r.x.e 0 else r.x.e 1) || (a.ext.drop 1).take 4 != r.x.ext.drop 2 ||
      a.e 5 != 1) ||
    sub c.xfmt r.x || optAny r.y (fun a => !c.gather && sub c.yfmt a) || optAny r.v (sub c.vfmt) || optAny r.d (sub c.ofmt) ||
    optAny r.tab (sub c.yfmt)

/-- The broadcast vector exceeds R107 (reason 0x24). -/
def vecBad (c : ChainCfg) (r : ChainRecs) : Bool :=
  optAny r.v fun a => decide (16384 < a.e 0) || decide (65536 < a.e 0 * (chainBits c.cfmt / 8))

/-- A region reaches beyond tile store, or lies in memory where it may not (reason 0x25). -/
def placeBad (T : Tile) (doff : Nat) (c : ChainCfg) (r : ChainRecs) : Bool :=
  let v := fun (a : TRec) => a.virt
  c.recOffs.any (fun o => !inStore o 80) || (optLocal r.d (chainBits c.ofmt)).beyond ||
    (r.x.local (chainBits c.xfmt)).beyond || (outRegions c r).any (fun o => o.beyond) ||
    (inRegions T doff c r).any (fun o => o.beyond) || optAny r.y (fun a => c.gather && a.virt) || optAny r.v v ||
    optAny r.m v || optAny r.r v || optAny r.seg v || optAny r.tab v || optAny r.sidx v || optAny r.stat v

/-- A descriptor field whose operand the pass does not use is nonzero, or the score scale is not positive and finite. -/
def chainUnused (c : ChainCfg) (r : ChainRecs) : Bool :=
  let used := c.recFields.map (·.1) ++ (if c.count || c.compact || c.on 9 then [0x38] else []) ++
    (if c.pred then [0x3C] else []) ++ (if memOperands r = [] then [] else [0x44])
  ((rangeFrom 0 14).any fun i => i != 0 && !used.contains (0x10 + 4 * i) && c.words.getD i 0 != 0) ||
    (c.softmax && (match valOf .fp32 c.scale with
      | .fin n m _ => n || m == 0
      | _ => true))

/-- The reason for which a chain descriptor is refused: the lowest that applies (R125, R130). `blkOk`: the block lies in
tile store. -/
def chainReason (T : Tile) (img : Tab Byte) (doff : Nat) (c : ChainCfg) : Option Nat :=
  let r := c.recs img
  let blkOk := inStore (c.word 0x10) 256
  let xOk := inStore (c.word 0x14) 80
  let recBytes := c.recOffs.filter fun o => inStore o 80
  let causal := c.causal && (decide (16777216 < c.kbase + r.x.e 0) || decide (16777216 < c.qbase + r.x.e 1))
  if !blkOk then some 0x25
  else firstBad [
    (fmtBad c, 0x20), (combBad c r xOk, 0x21), (selBad c, 0x22), (extBad c r xOk, 0x23), (vecBad c r, 0x24),
    (placeBad T doff c r, 0x25),
    (c.word 0x10 % 64 != 0 || c.recOffs.any (· % 16 != 0) || (memOperands r != [] && c.word 0x44 % 4096 != 0) ||
      chainOverlap T doff c r, 0x26),
    (causal, 0x27),
    (!c.tailZero || c.rsvBits || c.rsvVals || chainUnused c r || recBytes.any (fun o => recBad (Memory.bytes img o 80)), 0x28)]

/-- The configuration of a chain descriptor's 128 B, with the block that its CFG_OFF names. -/
def chainCfgOf (img : Tab Byte) (d : List Byte) : ChainCfg :=
  let words := (rangeFrom 0 14).map fun i => fieldAt d (0x10 + 4 * i) 4
  parseChain words ((d.drop 0x48).all (· == 0)) (Memory.bytes img (fieldAt d 0x10 4) 256)

/-- The ranges of tile store that a chain descriptor reads at its start: the block, then its records. -/
def chainStartRanges (c : ChainCfg) : List (Nat × Nat) :=
  (if inStore (c.word 0x10) 256 then [(c.word 0x10, 256)] else []) ++
    (c.recOffs.filter fun o => inStore o 80).map fun o => (o, 80)

end Sys2Proof.Machine
end

