-- ==== Sys2Proof/Machine/Fn.lean ====
section
/-!
DEFINITION. The functions of R103 to 1,280 fraction bits (R111, R117): a value from which the result of a function is bounded
or rounded. A real number `x` is held as the integer `⌊x × 2¹²⁸⁰⌋`, give or take a few units in its last places; the results
of R111 have at most 53 significant bits.
-/

namespace Sys2Proof.Machine
open Sys2Proof

/-- Fraction bits of a fixed-point number. -/
def fxBits : Nat := 1280
/-- One. -/
def fxOne : Int := 2 ^ fxBits
/-- A product. -/
def fxMul (a b : Int) : Int := a * b / fxOne
/-- A quotient. -/
def fxDiv (a b : Int) : Int := a * fxOne / b
/-- A finite value, cut to the grid. -/
def fxOf (neg : Bool) (m : Nat) (e : Int) : Int :=
  let n : Int := if 0 ≤ e + fxBits then m * 2 ^ (e + fxBits).toNat else m / 2 ^ (-(e + fxBits)).toNat
  if neg then -n else n
/-- A fixed-point number times `2^k` as a value. -/
def fxVal (x k : Int) : Val := .fin (decide (x < 0)) x.natAbs (k - fxBits)

/-- The sum of `term n`, `term (n + 1)`, … as a power series gives them: each term follows from the one before. -/
def fxSeries : Nat → Nat → (Nat → Int → Int) → (Nat → Int → Int) → Int → Int → Int
  | 0, _, _, _, _, acc => acc
  | fuel + 1, n, next, use, t, acc => fxSeries fuel (n + 1) next use (next n t) (acc + use n t)

/-- `Σ z^(2i+1) / (2i+1)`, with alternating signs where `alt`: artanh and arctan of a small number. -/
def fxArc (alt : Bool) (fuel : Nat) (z : Int) : Int :=
  let zz := if alt then -(fxMul z z) else fxMul z z
  fxSeries fuel 0 (fun _ t => fxMul t zz) (fun n t => t / (2 * (n : Int) + 1)) z 0

/-- `ln 2 = 2 artanh (1/3)`. -/
def fxLn2 : Int := 2 * fxArc false 420 (fxOne / 3)
/-- `π = 16 arctan (1/5) − 4 arctan (1/239)`. -/
def fxPi : Int := 16 * fxArc true 300 (fxOne / 5) - 4 * fxArc true 90 (fxOne / 239)

/-- A number squared `n` times. -/
def fxSquares : Nat → Int → Int
  | 0, x => x
  | n + 1, x => fxSquares n (fxMul x x)

/-- `e^x` of `0 ≤ x < 1`: the series at `x / 2³²`, squared 32 times. -/
def fxExpSmall (x : Int) : Int :=
  fxSquares 32 (fxSeries 44 0 (fun n t => fxMul t (x / 2 ^ 32) / ((n : Int) + 1)) (fun _ t => t) fxOne 0)

/-- `e^x` as a fixed-point number times a power of two; an argument beyond ±4,096 counts as that limit, which every format
overflows or underflows. -/
def fxExp (x : Int) : Int × Int :=
  let x := max (-(4096 * fxOne)) (min x (4096 * fxOne))
  let k := x / fxLn2
  (fxExpSmall (x - k * fxLn2), k)

/-- `ln` of a nonzero magnitude `m × 2^e`. -/
def fxLog (m : Nat) (e : Int) : Int :=
  let l := m.log2
  let x : Int := m * 2 ^ fxBits / 2 ^ l
  2 * fxArc false 420 (fxDiv (x - fxOne) (x + fxOne)) + ((l : Int) + e) * fxLn2

/-- `sin x`, the argument reduced by 2π. -/
def fxSin (x : Int) : Int :=
  let y := x % (2 * fxPi)
  let yy := fxMul y y
  fxSeries 160 0 (fun n t => -(fxMul t yy) / ((2 * (n : Int) + 2) * (2 * n + 3))) (fun _ t => t) y 0

/-- `cos x`. -/
def fxCos (x : Int) : Int :=
  let y := x % (2 * fxPi)
  let yy := fxMul y y
  fxSeries 160 0 (fun n t => -(fxMul t yy) / ((2 * (n : Int) + 1) * (2 * n + 2))) (fun _ t => t) fxOne 0

/-- `tanh |x| = (e^(2|x|) − 1) / (e^(2|x|) + 1)`; beyond 450 it is 1 to every bit held. -/
def fxTanh (x : Int) : Int :=
  let a : Int := min x.natAbs (450 * fxOne)
  let u := fxExp (2 * a)
  let v := u.1 * 2 ^ u.2.toNat
  let r := fxDiv (v - fxOne) (v + fxOne)
  if x < 0 then -r else r

/-- `erf |x|` by its series; beyond 9 it is 1 to more than 100 bits. -/
def fxErf (x : Int) : Int :=
  let a : Int := x.natAbs
  let r := if 9 * fxOne < a then fxOne - 1
    else
      let s := fxSeries 800 0 (fun n t => -(fxMul t (fxMul a a)) / ((n : Int) + 1)) (fun n t => t / (2 * (n : Int) + 1)) a 0
      fxDiv (2 * s) ((fxPi.toNat * 2 ^ fxBits).sqrt : Nat)
  if x < 0 then -r else r

/-- The value of function `fn` (codes of R103) of a finite argument in its domain, to more bits than any result has. -/
def fnReal (fn : Nat) (neg : Bool) (m : Nat) (e : Int) : Val :=
  let x := fxOf neg m e
  match fn with
  | 1 => let r := fxExp x; fxVal r.1 r.2
  | 2 => let r := fxExp (fxMul (max (-(8192 * fxOne)) (min x (8192 * fxOne))) fxLn2); fxVal r.1 r.2
  | 3 => fxVal (fxLog m e) 0
  | 4 => fxVal (fxDiv (fxLog m e) fxLn2) 0
  | 6 => Val.div (.fin false 1 0) (Val.sqrt (.fin false m e))
  | 8 => fxVal (fxSin x) 0
  | 9 => fxVal (fxCos x) 0
  | 10 => fxVal (fxTanh x) 0
  | _ => fxVal (fxErf x) 0

/-- One unit in the last place of a format at a value. -/
def ulpAt (f : Fmt) (v : Val) : Val :=
  let qmin : Int := 1 - f.bias - f.mbits
  match v with
  | .fin _ m e => .fin false 1 (if m = 0 then qmin else max ((m.log2 : Int) + e - f.mbits) qmin)
  | _ => .fin false 1 qmin

/-- The accuracy bound of R111 for a function in a format, at an argument of magnitude `m × 2^e` and an exact result `v`. -/
def fnBound (f : Fmt) (fn m : Nat) (e : Int) (v : Val) : Val :=
  let wide := f = .fp32 ∨ f = .fp64
  let far := Val.lt (.fin false 1 (if f = .fp64 then 30 else 16)) (.fin false m e)
  if (fn = 8 ∨ fn = 9) ∧ wide ∧ far then .fin false 1 (if f = .fp64 then -40 else -20)
  else if 8 ≤ fn ∧ wide then Val.mul (.fin false 2 0) (ulpAt f v)
  else ulpAt f v

/-- The result of a function with a bound: bits that R111 leaves open (`any`), where they lie within the bound of the exact
result `v`, and else `v` rounded. A result beyond the largest finite magnitude is that of R88, and sets OVERFLOW. -/
def fnWithin (f : Fmt) (bound v : Val) (any : Nat) : Val × Bool :=
  let r := valOf f any
  match r with
  | .nan => (valOf f (convert f 0 false 0 v).1, (convert f 0 false 0 v).2)
  | .inf n =>
    let top : Val := Val.add 0 (valOf f f.maxBits) (ulpAt f (valOf f f.maxBits))
    if n = v.neg ∧ !(Val.add 0 v.abs bound).lt top then (r, true)
    else (valOf f (convert f 0 false 0 v).1, (convert f 0 false 0 v).2)
  | .fin _ _ _ =>
    if bound.lt (Val.add 0 r v.negate).abs then (valOf f (convert f 0 false 0 v).1, (convert f 0 false 0 v).2) else (r, false)

end Sys2Proof.Machine
end

