-- ==== Sys2Proof/Machine/Chain.lean ====
section
/-!
DEFINITION. The vector chain (R98–R126): the functions of its stages, one element, the ends of rows, tiles and the pass,
and the rows CHAIN_CHUNK_DONE and CHAIN_PASS_END.
-/

namespace Sys2Proof.Machine
open Sys2Proof

/-! ### The work of a chunk -/

/-- A chunk in progress: the state, the tile, the image of its store with the bytes written so far, the words whose error
was met, the bytes to write to tile store and to memory, the element that met each codeword first, the pass, the leases of
the chunk, and what ends it. -/
structure Work where
  s : State
  t : Nat
  img : Tab Byte
  seen : List Nat := []
  dirty : Scatter := []
  mem : Scatter := []
  first : List (Nat × Nat) := []
  run : ChainRun
  ext : List Nat := []
  stop : Option (Nat × W64) := none
  deriving DecidableEq, Repr

/-- The pass ends early with the first status that it meets (R125). -/
def Work.fail (w : Work) (st detail : Nat) : Work := { w with stop := w.stop.or (some (st, BitVec.ofNat 64 detail)) }
/-- Flags raised by an element. -/
def Work.flag (w : Work) (f : EFlags) : Work := { w with run := { w.run with flags := w.run.flags ||| f } }

/-- The first ±SAT input names the status of the pass: the position of the element that meets it (R95, R125). -/
def Work.satSeen (w : Work) (f : EFlags) : Work :=
  if w.run.firstSat.isNone && (f &&& fExactRange != 0) then { w with run := { w.run with firstSat := some w.run.j } } else w

/-- Every byte of a word is written by this chunk. -/
def Work.wordDirty (w : Work) (word : Nat) : Bool := (rangeFrom (8 * word) 8).all fun a => (Tab.get none w.dirty a).isSome

/-- Tile store read by the chunk: each word in error is met once (R31). -/
def Work.touch (w : Work) (off n : Nat) : Work :=
  let hits := (w.s.tile w.t).storeErr.filter fun e =>
    decide (8 * e.1 < off + n ∧ off < 8 * e.1 + 8) && !w.seen.contains e.1 && !w.wordDirty e.1
  hits.foldl (fun w e =>
    let r := storeWord w.t (8 * e.1) e (w.s, Memory.bytes w.img (8 * e.1) 8, none)
    let w := { w with s := r.1, seen := e.1 :: w.seen, img := Memory.put w.img (8 * e.1) r.2.1 }
    match r.2.2 with
    | some bad => w.fail stStoreUncorr bad
    | none => w) w

/-- Memory read by the chunk, as the tile mover brought it (R108, R144). -/
def Work.touchMem (w : Work) (va n : Nat) : Work :=
  match w.run.bad.find? fun b => decide (b.1 < va + n ∧ va < b.1 + b.2.1) with
  | some b => w.fail b.2.2 b.1
  | none => w

/-- A little-endian word of tile store. -/
def Work.le (w : Work) (off n : Nat) : Work × Nat := let w := w.touch off n; (w, Memory.le w.img off n)

/-- Bytes of memory with those that the chunk has written. -/
def Work.memLe (w : Work) (va n : Nat) : Nat :=
  leNat ((rangeFrom va n).map fun a => (Tab.get none w.mem a).getD (Memory.byte w.run.staged a))

/-- Bytes written to tile store. -/
def Work.put (w : Work) (off : Nat) (bytes : List Byte) : Work :=
  { w with img := Memory.put w.img off bytes, dirty := w.dirty.put off bytes }

/-- Bytes written to memory for element `j`. -/
def Work.putMem (w : Work) (j va : Nat) (bytes : List Byte) : Work :=
  { w with mem := w.mem.put va bytes,
           first := (cwsOf va bytes.length).foldl (fun f cw => if f.any fun x => x.1 == cw then f else (cw, j) :: f) w.first }

/-! ### Addresses (R56, R98, R129) -/

/-- The address of a row of a record by the indices of dimensions 1–5. -/
def TRec.rowAddr (r : TRec) (idx : List Nat) : Int :=
  (List.zipWith (fun (i : Nat) (x : Int) => (i : Int) * x) idx (r.str.drop 1)).foldl (· + ·) (r.base : Int)

/-- The bit address of the element at given indices (R129). -/
def TRec.bitInt (r : TRec) (bits : Nat) (idx : List Nat) : Int :=
  let i0 := idx.getD 0 0
  8 * r.rowAddr (idx.drop 1) + (if r.s 0 = 0 then ((i0 * bits : Nat) : Int) else 8 * (i0 : Int) * r.s 0)

/-- The bit address of an element that lies where its record may. -/
def TRec.bitAddr (r : TRec) (bits : Nat) (idx : List Nat) : Nat := (r.bitInt bits idx).toNat

/-- The address of an element of an operand in memory that lies outside the virtual addresses (R129, R179). -/
def TRec.outside (r : TRec) (bits : Nat) (idx : List Nat) : Option Int :=
  let a := r.bitInt bits idx
  if r.virt && outsideVa (a / 8) (ceilDiv ((a % 8).toNat + bits) 8) then some (a / 8) else none

/-- The bytes that an element occupies. -/
def TRec.elemSpan (r : TRec) (bits : Nat) (idx : List Nat) : Nat × Nat :=
  let a := r.bitAddr bits idx
  (a / 8, ceilDiv (a % 8 + bits) 8)

/-- The bits of an element read. -/
def Work.bits (w : Work) (r : TRec) (n : Nat) (idx : List Nat) : Work × Nat :=
  let a := r.bitAddr n idx
  let x := r.elemSpan n idx
  let w := if r.virt then w.touchMem x.1 x.2 else w.touch x.1 x.2
  (w, (if r.virt then w.memLe x.1 x.2 else Memory.le w.img x.1 x.2) / 2 ^ (a % 8) % 2 ^ n)

/-- Row number of an element's indices in a record (R98). -/
def TRec.rowOf (r : TRec) (idx : List Nat) : Nat :=
  let i := fun k => idx.getD k 0
  i 1 + r.e 1 * (i 2 + r.e 2 * (i 3 + r.e 3 * (i 4 + r.e 4 * i 5)))

/-! ### Values (R89, R95, R99, R110) -/

/-- The bits of a value that a format holds exactly. -/
def valBits (f : Fmt) (v : Val) : Nat := (convert f 0 false 0 v).1
/-- +0. -/
def zeroVal : Val := .fin false 0 0
/-- +1. -/
def oneVal : Val := .fin false 1 0

/-- One rounding into a format under a mode, with its flag (R88, R110). -/
def roundFmt (f : Fmt) (mode : RMode) (v : Val) : Val × EFlags :=
  let r := convert f mode false 0 v
  (valOf f r.1, eventFlag f r.2)

/-- One rounding into the compute format. -/
def ChainCfg.round (c : ChainCfg) (v : Val) : Val × EFlags := roundFmt c.cf c.rmode v

/-- A scale byte's exponent; none for the NaN encoding (R85). -/
def e8m0 (b : Nat) : Option Int := if b % 256 = 255 then none else some ((b % 256 : Nat) - 127)

/-- An input converted into the compute format (R89, R95, R110). -/
def unpack (c : ChainCfg) (code : Nat) (mx : Bool) (raw scale : Nat) : Val × EFlags :=
  if code = 0xC then
    let r := epConvert c.cf c.rmode false 0 0 (epOf raw)
    (valOf c.cf r.1, eventFlag c.cf r.2.event ||| flagIf r.2.range fExactRange ||| flagIf r.2.special fSpecial)
  else
    let v := valOf (chainFmt mx code) raw
    let x : Val := if !mx then v else match e8m0 scale with
      | some e => v.scale e
      | none => .nan
    let r := c.round x
    (r.1, r.2 ||| flagIf (v.special || (mx && e8m0 scale == none)) fSpecial)

/-- An element of a stream read and converted, with its scale (R103). -/
def Work.elemIn (w : Work) (c : ChainCfg) (r : TRec) (code : Nat) (mx : Bool) (sc : Nat) (idx : List Nat) :
    Work × Nat × Nat × Val × EFlags :=
  let s := if mx then w.le (sc + r.rowOf idx * up16 (ceilDiv (r.e 0) 32) + idx.getD 0 0 / 32) 1 else (w, 127)
  let b := s.1.bits r (chainBits code) idx
  (b.1, b.2, s.2, unpack c code mx b.2 s.2)

/-! ### Stages 2–6 (R102, R103, R110–R112) -/

/-- An element on its way down the chain (R98). -/
structure Elem where
  v : Val
  y : Val
  b : Val
  m : Bool := true
  i0 : Nat
  i1 : Nat
  fl : EFlags := 0
  deriving DecidableEq, Repr

/-- The operand that a selector names (R102). -/
def selVal (c : ChainCfg) (e : Elem) (s : Nat) : Val × EFlags :=
  let lim := fun (neg : Bool) => if c.cfmt = 0xB then intVal (if neg then -(2 ^ 31) else 2 ^ 31 - 1) 0 else Val.inf neg
  match s with
  | 0 => (e.v, 0)
  | 1 => (e.y, 0)
  | 2 => (e.b, 0)
  | 3 => (zeroVal, 0)
  | 4 => (oneVal, 0)
  | 5 => c.round (.fin false e.i0 0)
  | 6 => c.round (.fin false e.i1 0)
  | 7 => (lim true, 0)
  | 8 => (lim false, 0)
  | _ => (valOf c.cf (c.konst.getD (s - 0x10) 0), 0)

/-- The combine operation (R103, R110). -/
def combine (c : ChainCfg) (e : Elem) : Elem :=
  let mm := fun (isMax : Bool) => (Val.minmax isMax (c.prop && c.cfmt != 0xB) e.v e.b, (0 : EFlags))
  let r : Val × EFlags := match c.cop with
    | 1 => c.round (Val.add c.rmode e.v e.b)
    | 2 => c.round (Val.add c.rmode e.v e.b.negate)
    | 3 => c.round (Val.add c.rmode e.b e.v.negate)
    | 4 => c.round (Val.mul e.v e.b)
    | 5 => c.round (Val.div e.v e.b)
    | 6 => mm true
    | 7 => mm false
    | 8 => (e.b, 0)
    | _ => (e.v, 0)
  { e with v := r.1, fl := e.fl ||| r.2 }

/-- An ALU operation (R110). -/
def chainAlu (c : ChainCfg) (a : AluCfg) (e : Elem) : Elem :=
  if !a.on then e
  else
    let p := selVal c e a.p
    let q := selVal c e a.q
    let x := selVal c e a.a
    let pq := Val.mul p.1 q.1
    let pq := if a.negP then pq.negate else pq
    let x1 := if a.negA then x.1.negate else x.1
    let r := c.round (Val.add c.rmode pq x1)
    let r2 := if a.abs then c.round r.1.abs else (r.1, (0 : EFlags))
    let fl := e.fl ||| p.2 ||| q.2 ||| x.2 ||| r.2 ||| r2.2
    if a.toY then { e with y := r2.1, fl := fl } else { e with v := r2.1, fl := fl }

/-- The function of an argument (R111): the results that R111 fixes; recip and sqrt correctly rounded, to nearest with ties to
even, since the result does not depend on RMODE and R87 names no mode for the stage (DEDUCED, assumption 137); elsewhere a
result within the bound of R111 that the constant `Config.fnResult` picks (assumption 72). An argument for which R111 states
neither a result nor a bound gives `Config.fnResult`. -/
def fnVal (c : ChainCfg) (x : Val) : Val × EFlags :=
  let f := c.cf
  let any := Config.fnResult c.fn c.cfmt (valBits f x) % 2 ^ f.bits
  let free := valOf f any
  match x with
  | .nan => (.nan, 0)
  | .inf n => match c.fn with
    | 1 => (if n then zeroVal else .inf false, 0)
    | 3 => (if n then .nan else .inf false, 0)
    | 5 => (.fin n 0 0, 0)
    | 7 => (if n then free else .inf false, 0)
    | 8 => (.nan, 0)
    | 9 => (.nan, 0)
    | 10 => (.fin n 1 0, 0)
    | 11 => (.fin n 1 0, 0)
    | _ => (free, 0)
  | .fin n m e =>
    let near : Val × EFlags :=
      let v := fnReal c.fn n m e
      let r := fnWithin f (fnBound f c.fn m e v) v any
      (r.1, flagIf r.2 fOverflow)
    match c.fn with
    | 3 => if m = 0 then (.inf true, 0) else if n then (.nan, 0) else near
    | 4 => if m = 0 ∨ n then (free, 0) else near
    | 5 => if m = 0 then (.inf n, 0) else roundFmt f 0 (Val.div oneVal x)
    | 6 => if m = 0 then (.inf n, 0) else if n then (free, 0) else near
    | 7 => if m = 0 then (x, 0) else if n then (free, 0) else roundFmt f 0 x.sqrt
    | _ => near

/-- The function stage. -/
def fnStage (c : ChainCfg) (e : Elem) : Elem :=
  if !c.on 5 then e
  else
    let r := fnVal c (if c.fnY then e.y else e.v)
    if c.fnToY then { e with y := r.1, fl := e.fl ||| r.2 } else { e with v := r.1, fl := e.fl ||| r.2 }

/-- A comparison (R112): with a NaN only NE and UNORD are true. -/
def compareVals (cmp : Nat) (a b : Val) : Bool :=
  let nan := a.isNan || b.isNan
  match cmp with
  | 1 => a.eq b
  | 2 => !a.eq b
  | 3 => a.lt b
  | 4 => a.lt b || a.eq b
  | 5 => b.lt a
  | 6 => b.lt a || a.eq b
  | _ => nan

/-- The compare/mask stage (R112). -/
def maskStage (c : ChainCfg) (mbit : Bool) (e : Elem) : Elem :=
  if !c.on 6 then e
  else
    let m := e.m && (!c.maskin || mbit) && (!c.causal || decide (c.kbase + e.i0 ≤ c.qbase + e.i1))
    let l := selVal c e c.lsel
    let r := selVal c e c.rsel
    let t := compareVals c.cmp l.1 r.1
    let m' := if c.cmp = 0 then m else match c.mcomb with
      | 0 => m && t
      | 1 => m || t
      | _ => t
    let e := if c.cmp = 0 then e else { e with fl := e.fl ||| l.2 ||| r.2 }
    if c.fill ∧ !m' then
      let x := selVal c e c.fillSel
      { e with m := m', v := x.1, fl := e.fl ||| x.2 }
    else { e with m := m' }

/-- An element through the stages 2–6. -/
def frontStages (c : ChainCfg) (mbit : Bool) (e : Elem) : Elem :=
  let e := if c.on 2 then combine c e else e
  maskStage c mbit (fnStage c (chainAlu c c.aluB (chainAlu c c.aluA e)))

/-! ### Reduce (R97, R114, R115) -/

/-- The format of a partial: the accumulator type for SUM, PROD and SOFTMAX, else the compute format. -/
def ChainCfg.partFmt (c : ChainCfg) : Fmt := if c.rop = 1 ∨ c.rop = 2 ∨ c.rop = 9 then c.accFmt else c.cf

/-- Number of partials. -/
def ChainCfg.parts (c : ChainCfg) : Nat := if c.cfmt = 1 then 32 else 64

/-- Two partials, each a value's bits and the position of the winner, combined. -/
def mergeParts (c : ChainCfg) (a b : Nat × Nat) : (Nat × Nat) × EFlags :=
  let f := c.partFmt
  let x := valOf f a.1
  let y := valOf f b.1
  let low := if a.2 ≤ b.2 then a else b
  let arg := fun (isMax : Bool) =>
    if x.isNan ∧ y.isNan then low
    else if x.isNan then (if c.prop then a else b)
    else if y.isNan then (if c.prop then b else a)
    else if (if isMax then x.below y else y.below x) then b
    else if (if isMax then y.below x else x.below y) then a else low
  let ret := fun (r : Val × EFlags) => ((valBits f r.1, a.2), r.2)
  match c.rop with
  | 2 => ret (roundFmt f c.rmode (Val.mul x y))
  | 3 => ret (Val.minmax true (c.prop && c.cfmt != 0xB) x y, 0)
  | 4 => ret (Val.minmax false (c.prop && c.cfmt != 0xB) x y, 0)
  | 5 => (arg true, 0)
  | 6 => (arg false, 0)
  | 7 => ((a.1.land b.1, a.2), 0)
  | 8 => ((a.1.lor b.1, a.2), 0)
  | _ => ret (roundFmt f c.rmode (Val.add c.rmode x y))

/-- An active element combined into its partial. -/
def addPart (c : ChainCfg) (parts : List (Nat × Nat × Nat)) (k : Nat) (x : Nat × Nat) : List (Nat × Nat × Nat) × EFlags :=
  match parts.find? fun p => p.1 == k with
  | none => (parts ++ [(k, x)], 0)
  | some p =>
    let r := mergeParts c p.2 x
    (parts.map fun y => if y.1 = k then (k, r.1) else y, r.2)

/-- One level of the tree: partial k takes partial k + h. -/
def treeLevel (c : ChainCfg) (r : List (Nat × Nat × Nat) × EFlags) (h : Nat) : List (Nat × Nat × Nat) × EFlags :=
  (r.1.filter fun p => decide (h ≤ p.1)).foldl (fun x p => let y := addPart c x.1 (p.1 - h) p.2; (y.1, x.2 ||| y.2))
    (r.1.filter fun p => decide (p.1 < h), r.2)

/-- The partials of an extent combined in the fixed tree: none for an extent with no active element. -/
def treeResult (c : ChainCfg) (parts : List (Nat × Nat × Nat)) : Option (Nat × Nat) × EFlags :=
  let r := ((if c.cfmt = 1 then [16, 8, 4, 2, 1] else [32, 16, 8, 4, 2, 1]).foldl (treeLevel c) (parts, 0))
  (r.1.head?.map (·.2), r.2)

/-- The identity of an operation (R115). -/
def redIdentity (c : ChainCfg) : Val :=
  let int := c.cfmt == 0xB
  match c.rop with
  | 2 => oneVal
  | 3 => if int then intVal (-(2 ^ 31)) 0 else .inf true
  | 4 => if int then intVal (2 ^ 31 - 1) 0 else .inf false
  | 5 => intVal (-1) 0
  | 6 => intVal (-1) 0
  | 7 => intVal (-1) 0
  | _ => zeroVal

/-- The value of a reduced extent. -/
def redValue (c : ChainCfg) (r : Option (Nat × Nat)) : Val :=
  match r with
  | none => redIdentity c
  | some x =>
    if c.rop = 5 ∨ c.rop = 6 then
      (if (valOf c.cf x.1).isNan ∧ !c.prop then intVal (-1) 0 else intVal x.2 0)
    else valOf c.partFmt x.1

/-- Result number `run.results` written to R_REC in ROFMT, with its active count (R89, R114, R115). -/
def Work.putResult (w : Work) (c : ChainCfg) (v : Val) : Work :=
  let f := chainFmt false c.rofmt
  let n := w.run.results
  let r := convert f c.rmode false 0 v
  let w := w.flag (eventFlag f r.2 ||| flagIf (w.run.active == 0) fEmpty)
  let w := match w.run.recs.r with
    | some R => w.put (R.at (f.bits / 8) (rowIndex R.ext n)) (leBytes (f.bits / 8) r.1)
    | none => w
  let w := if c.count then w.put (c.word 0x38 + 4 * n) (leBytes 4 w.run.active) else w
  { w with run := { w.run with results := n + 1, parts := [], extPos := 0, active := 0 } }

/-- α = exp(m − m′), rounded once into FP32 under RMODE (R87, R117). -/
def softAlpha (c : ChainCfg) (m m' : Nat) : Val × EFlags :=
  match Val.add 0 (valOf .fp32 m) (valOf .fp32 m').negate with
  | .nan => (.nan, 0)
  | .inf n => (if n then zeroVal else .inf false, 0)
  | .fin n k e => if k = 0 then (oneVal, 0) else roundFmt .fp32 c.rmode (fnReal 1 n k e)

/-- The end of a row of a SOFTMAX pass (R117). -/
def Work.softEnd (w : Work) (c : ChainCfg) : Work :=
  let tr := treeResult c w.run.parts
  let sigma := redValue c tr.1
  let w := w.flag tr.2
  match w.run.recs.stat with
  | none => w
  | some S =>
    let off := S.at 8 (rowIndex S.ext w.run.results)
    let l := w.le (off + 4) 4
    let empty := valOf .fp32 w.run.rowM' == .inf true
    let alpha := if empty then (oneVal, (0 : EFlags)) else softAlpha c w.run.rowM w.run.rowM'
    let l' := if empty then (valOf .fp32 l.2, (0 : EFlags))
      else roundFmt .fp32 c.rmode (Val.fma c.rmode alpha.1 (valOf .fp32 l.2) sigma)
    let lb := if empty then l.2 else valBits .fp32 l'.1
    if l.1.stop.isSome then l.1 else
    let w := (l.1.flag (alpha.2 ||| l'.2 ||| flagIf empty fEmpty)).put off (leBytes 4 w.run.rowM' ++ leBytes 4 lb)
    w.putResult c alpha.1

/-- The end of an extent: its result. -/
def Work.extentEnd (w : Work) (c : ChainCfg) : Work :=
  if c.softmax then w.softEnd c
  else
    let tr := treeResult c w.run.parts
    (w.flag tr.2).putResult c (redValue c tr.1)

/-- An element met by the reduce stage (R112, R114). -/
def Work.reduce (w : Work) (c : ChainCfg) (v : Val) (m : Bool) : Work :=
  let q := w.run.extPos
  let w := { w with run := { w.run with extPos := q + 1 } }
  if !m then w
  else
    let r := addPart c w.run.parts (q % c.parts) (valBits c.partFmt v, q)
    { w.flag r.2 with run := { (w.flag r.2).run with parts := r.1, active := w.run.active + 1 } }

/-! ### Segments (R116) -/

/-- Segment pointer `k`, checked as it is read; the segment it bounds is named where it is wrong. -/
def Work.segPtr (w : Work) (g : TRec) (k : Nat) : Work × Int :=
  let at_ := fun (w : Work) (k : Nat) => let x := w.bits g 32 [k, 0, 0, 0, 0, 0]; (x.1, sInt 32 x.2)
  let p := at_ w k
  let prev : Int := if k = 0 then p.2 else (at_ p.1 (k - 1)).2
  (if p.2 < prev ∨ (w.run.recs.x.count : Int) < p.2 then p.1.fail stBadSegment (k - 1) else p.1, p.2)

/-- Segments that end at or before element `j` written, and whether `j` lies in the segment reached. -/
def Work.segAdvance (w : Work) (c : ChainCfg) (g : TRec) (j : Nat) : Nat → Work × Bool
  | 0 => (w, false)
  | n + 1 =>
    if g.e 0 ≤ w.run.seg + 1 ∨ w.stop.isSome then (w, false)
    else
      let a := w.segPtr g w.run.seg
      let b := a.1.segPtr g (w.run.seg + 1)
      if b.1.stop.isSome then (b.1, false)
      else if b.2 ≤ (j : Int) then
        let w := b.1.extentEnd c
        ({ w with run := { w.run with seg := w.run.seg + 1 } } : Work).segAdvance c g j n
      else (b.1, decide (a.2 ≤ (j : Int)))

/-! ### The output stream (R90, R118, R121, R122) -/

/-- Bytes that enter the checksum. -/
def Work.crcIn (w : Work) (c : ChainCfg) (fromX : Bool) (bytes : List Byte) : Work :=
  if c.on 10 ∧ c.crcX = fromX then { w with run := { w.run with crc := crcRun w.run.crc bytes } } else w

/-- Bytes of D written at an address. -/
def Work.putD (w : Work) (c : ChainCfg) (d : TRec) (a : Nat) (bytes : List Byte) : Work :=
  let w := w.crcIn c false bytes
  if d.virt then w.putMem w.run.j a bytes else w.put a bytes

/-- Indices of the D position `p`. -/
def dIndex (d : TRec) (p : Nat) : List Nat := rowIndex d.ext p

/-- The byte of D at an address before it is written: of tile store; of memory that the chunk has read, as a compaction
does; or of the pool. Of another node's memory that the chunk has not read, no rule says what a write of a part of a byte
leaves of the rest: a free value (assumption 81). -/
def Work.oldByte (w : Work) (c : ChainCfg) (d : TRec) (a : Nat) : Work × Nat :=
  if !d.virt then w.le a 1
  else if c.compact then (w.touchMem a 1, w.memLe a 1)
  else match (w.s.queue w.t w.run.q).leaseFor w.ext a 1 with
    | some l =>
      if l.rm then ({ w with s := w.s.takeFree }, w.s.freeVal % 256)
      else
        let r := readPool w.s (l.pa a) 1
        ({ w with s := r.1 }, leNat r.2.1)
    | none => (w, 0)

/-- The pending bits of a sub-byte row written, the unused high bits zero. `p` is the position after the last element. Where
the row goes on in D, the positions of D beyond the last element keep their bits (R118, R125). -/
def Work.flushBits (w : Work) (c : ChainCfg) (d : TRec) (p : Nat) : Work :=
  let n := w.run.outBits.1
  if n = 0 ∨ p = 0 then w
  else
    let idx := dIndex d (p - 1)
    let row := (d.rowAddr (idx.drop 1)).toNat
    let a := row + ((idx.getD 0 0 + 1) * chainBits c.ofmt - n) / 8
    let old := if idx.getD 0 0 + 1 < d.e 0 then w.oldByte c d a else (w, 0)
    let bits := w.run.outBits.2
    let w := old.1
    if w.stop.isSome then w
    else
      let w := w.crcIn c false (leBytes 1 bits)
      let byte := leBytes 1 (bits % 2 ^ n + old.2 / 2 ^ n * 2 ^ n)
      let w := if d.virt then w.putMem w.run.j a byte else w.put a byte
      { w with run := { w.run with outBits := (0, 0) } }

/-- The bits of one output element at the D position `p`. -/
def Work.putBits (w : Work) (c : ChainCfg) (d : TRec) (p bits : Nat) : Work :=
  let ob := chainBits c.ofmt
  let idx := dIndex d p
  if ob % 8 = 0 then w.putD c d (d.bitAddr ob idx / 8) (leBytes (ob / 8) bits)
  else
    let n0 := w.run.outBits.1
    let v := w.run.outBits.2 + bits * 2 ^ n0
    let n := n0 + ob
    let row := (d.rowAddr (idx.drop 1)).toNat
    let start := (idx.getD 0 0 * ob - n0) / 8
    let w := if 8 ≤ n then w.putD c d (row + start) (leBytes (n / 8) v) else w
    let w := { w with run := { w.run with outBits := (n % 8, v / 2 ^ (8 * (n / 8))) } }
    if idx.getD 0 0 + 1 = d.e 0 then w.flushBits c d (p + 1) else w

/-- emax of an MX element format (R90). -/
def emaxOf : Fmt → Int
  | .fp4 => 2 | .e2m3 => 2 | .e3m2 => 4 | .e4m3 => 8 | .e5m2 => 15 | _ => 0

/-- The largest value of an MX element format. -/
def mxTop (f : Fmt) : Val := if f = .mxint8 then valOf f 0x7F else valOf f f.maxBits

/-- The scale byte of a block (R90). -/
def mxScale (f : Fmt) (vs : List Val) : Nat :=
  let amax := vs.foldl (fun (a : Val) v => match v with
    | .fin _ m e => if a.lt (.fin false m e) then .fin false m e else a
    | _ => a) zeroVal
  if vs.any (·.isNan) then 0xFF
  else match amax with
    | .fin _ m e => if m = 0 then 0 else (max 0 (min 254 (ilog m e - emaxOf f + 127))).toNat
    | _ => 0

/-- One element of a block under a scale byte, with its flag (R90). -/
def mxElem (f : Fmt) (mode : RMode) (scale : Nat) (v : Val) : Nat × EFlags :=
  if scale = 0xFF then (0, 0)
  else
    let q := v.scale (127 - (scale : Int))
    let top := mxTop f
    let low : Val := if f = .mxint8 then .fin true 2 0 else top.negate
    match q with
    | .fin n _ _ =>
      if top.lt q ∨ q.lt low then
        (if f = .mxint8 then (if n then 0x80 else 0x7F) else withSign f n f.maxBits, eventFlag f true)
      else let r := convert f mode true 0 q; (r.1, eventFlag f r.2)
    | _ => let r := convert f mode true 0 q; (r.1, eventFlag f r.2)

/-- The MX block in progress written: its scale byte, then its elements. `p` is the position after its last element. -/
def Work.flushBlock (w : Work) (c : ChainCfg) (d : TRec) (p : Nat) : Work :=
  let n := w.run.mxBlock.length
  if n = 0 then w
  else
    let f := chainFmt true c.ofmt
    let vs := w.run.mxBlock.map (valOf c.cf)
    let sc := mxScale f vs
    let idx := dIndex d (p - n)
    let off := c.oscOff + d.rowOf idx * up16 (ceilDiv (d.e 0) 32) + idx.getD 0 0 / 32
    let w := (w.crcIn c false [BitVec.ofNat 8 sc]).put off [BitVec.ofNat 8 sc]
    let w := (vs.zipIdx).foldl (fun (w : Work) x =>
      let e := mxElem f c.rmode sc x.1
      (w.flag e.2).putBits c d (p - n + x.2) e.1) w
    { w with run := { w.run with mxBlock := [] } }

/-- A value packed and written at the D position `p` (R122). -/
def Work.packAt (w : Work) (c : ChainCfg) (d : TRec) (p : Nat) (v : Val) : Work :=
  let w := { w with run := { w.run with outPos := p + 1 } }
  if c.omx then
    let w := { w with run := { w.run with mxBlock := w.run.mxBlock ++ [valBits c.cf v] } }
    let i0 := p % d.e 0
    if i0 % 32 = 31 ∨ i0 + 1 = d.e 0 then w.flushBlock c d (p + 1) else w
  else
    let f := chainFmt false c.ofmt
    let r := convert f c.rmode (c.sat && (c.ofmt == 5 || c.ofmt == 6)) 0 v
    (w.flag (eventFlag f r.2)).putBits c d p r.1

/-- What the pack stage still holds written (R122). -/
def Work.flushOut (w : Work) (c : ChainCfg) : Work :=
  match w.run.recs.d with
  | none => w
  | some d => if !c.pack || c.scatter then w else (w.flushBlock c d w.run.outPos).flushBits c d w.run.outPos

/-- A value scattered to element `k` of D (R119): converted, or added to the element and converted. -/
def Work.scatterAt (w : Work) (c : ChainCfg) (d : TRec) (k : Nat) (v : Val) : Work :=
  let ob := chainBits c.ofmt
  let f := chainFmt false c.ofmt
  let idx := [k, 0, 0, 0, 0, 0]
  let old := if c.scatadd then w.bits d ob idx else (w, 0)
  let x := unpack c c.ofmt false old.2 0
  let sum := if c.scatadd then c.round (Val.add c.rmode x.1 v) else (v, (0 : EFlags))
  let r := convert f c.rmode (c.sat && (c.ofmt == 5 || c.ofmt == 6)) 0 sum.1
  let fl := (if c.scatadd then (x.2 &&& ~~~fSpecial) ||| sum.2 else 0) ||| eventFlag f r.2
  let a := d.bitAddr ob idx
  let span := d.elemSpan ob idx
  let w := old.1
  let w := if ob % 8 = 0 then w else if d.virt then w.touchMem span.1 span.2 else w.touch span.1 span.2
  if w.stop.isSome then w
  else
    let whole := if d.virt then w.memLe span.1 span.2 else Memory.le w.img span.1 span.2
    let new := if ob % 8 = 0 then r.1
      else whole - whole / 2 ^ (a % 8) % 2 ^ ob * 2 ^ (a % 8) + r.1 * 2 ^ (a % 8)
    (w.flag fl).putD c d span.1 (leBytes span.2 new)

/-! ### Route (R120) -/

/-- A pick put among the best of a row: larger values first, equal ones by expert. -/
def insertPick (f : Fmt) (x : Nat × Nat) : List (Nat × Nat) → List (Nat × Nat)
  | [] => [x]
  | y :: r => if (valOf f y.1).lt (valOf f x.1) then x :: y :: r else y :: insertPick f x r

/-- The route records of a row, and their number. -/
def Work.routeRow (w : Work) (c : ChainCfg) (row : Nat) : Work :=
  let picks := w.run.rowPicks.take c.topk
  let total := (picks.map fun p => valOf c.cf p.1).foldl (Val.add c.rmode) zeroVal
  let w := (picks.zipIdx).foldl (fun (w : Work) x =>
    let v := valOf c.cf x.1.1
    let wt := if !c.norm then convert .fp32 c.rmode false 0 v
      else if total.isZero then (0, false) else convert .fp32 c.rmode false 0 (Val.div v total)
    let map := w.le (c.mapOff + 8 * x.1.2) 8
    if map.1.stop.isSome then map.1 else
    let w := (map.1.flag (flagIf wt.2 fOverflow)).put (c.routeOff + 16 * w.run.routed)
      (leBytes 4 (row % 2 ^ 24 + x.2 * 2 ^ 24) ++ leBytes 4 wt.1 ++ leBytes 8 (map.2 % 2 ^ 54 + x.1.2 % 1024 * 2 ^ 54))
    { w with run := { w.run with routed := w.run.routed + 1 } }) w
  let w := w.put (c.word 0x38 + 4 * row) (leBytes 4 picks.length)
  { w with run := { w.run with rowPicks := [] } }

/-! ### Rows (R98, R107, R117) -/

/-- The broadcast vector loaded where the pass starts or an outer index with a nonzero stride moved (R107). -/
def Work.loadVec (w : Work) (c : ChainCfg) (idx : List Nat) : Work :=
  match w.run.recs.v with
  | none => w
  | some V =>
    let o := idx.drop 2
    let stale : Bool := match w.run.vecAt with
      | none => true
      | some old => (rangeFrom 0 4).any fun k => V.s (k + 1) != 0 && old.getD k 0 != o.getD k 0
    let w := { w with run := { w.run with vecAt := some o } }
    if !stale then w
    else
      let r := (rangeFrom 0 (V.e 0)).foldl (fun (x : Work × List Nat) k =>
        let b := x.1.bits V (chainBits c.vfmt) (k :: o ++ [0])
        let u := unpack c c.vfmt false b.2 0
        let w := b.1.flag (u.2 &&& ~~~fSpecial)
        (w.satSeen u.2, valBits c.cf u.1 :: x.2)) (w, [])
      { r.1 with run := { r.1.run with vec := r.2.reverse } }

/-- The mask bit of an element. -/
def Work.maskBit (w : Work) (c : ChainCfg) (idx : List Nat) : Work × Bool :=
  match w.run.recs.m with
  | some M => if c.maskin then let b := w.bits M 1 idx; (b.1, b.2 == 1) else (w, true)
  | none => (w, true)

/-- One element of the scan of a SOFTMAX row (R117). -/
def Work.scanElem (w : Work) (c : ChainCfg) (idx : List Nat) : Work :=
  let x := w.elemIn c w.run.recs.x c.xfmt c.xmx c.xsc idx
  let m := x.1.maskBit c idx
  let act := m.2 && (!c.causal || decide (c.kbase + idx.getD 0 0 ≤ c.qbase + idx.getD 1 0))
  let w := m.1
  if w.stop.isSome then w
  else
    let best := if act ∧ w.run.active = 0 then valBits .fp32 x.2.2.2.1
      else if act then valBits .fp32 (Val.minmax true false (valOf .fp32 w.run.scanMax) x.2.2.2.1) else w.run.scanMax
    { w with run := { w.run with scanMax := best, scan := w.run.scan + 1, active := if act then 1 else w.run.active } }

/-- −∞ in FP32. -/
def negInf32 : Nat := 0xFF800000

/-- Elements of the row of `idx` scanned, from the scan's position, at most `n`. -/
def Work.scanRow (w : Work) (c : ChainCfg) (idx : List Nat) (n : Nat) : Work :=
  (rangeFrom w.run.scan n).foldl (fun w i => if w.stop.isSome then w else w.scanElem c (i :: idx.drop 1)) w

/-- The start of a SOFTMAX row: the scan, and m′ (R117). -/
def Work.softStart (w : Work) (c : ChainCfg) (idx : List Nat) (row : Nat) : Work :=
  let w := w.scanRow c idx (w.run.recs.x.e 0 - w.run.scan)
  if w.stop.isSome then w
  else match w.run.recs.stat with
    | none => w
    | some S =>
      let st := w.le (S.at 8 (rowIndex S.ext row)) 8
      let m := st.2 % 2 ^ 32
      let cr := roundFmt .fp32 c.rmode (Val.mul (valOf .fp32 c.scale) (valOf .fp32 w.run.scanMax))
      let m' := valBits .fp32 (Val.minmax true false (valOf .fp32 m) cr.1)
      let w := st.1.flag cr.2
      { w with run := { w.run with rowM := m, rowM' := m', scan := 0, scanMax := negInf32, active := 0 } }

/-- The end of a row: what the row holds back, its compaction count, its routes and its result. -/
def Work.rowEnd (w : Work) (c : ChainCfg) (row : Nat) : Work :=
  let w := if c.compact && !c.whole then
      let w := (w.flushOut c).put (c.word 0x38 + 4 * row) (leBytes 4 w.run.surv)
      { w with run := { w.run with surv := 0, outPos := (row + 1) * w.run.recs.x.e 0 } }
    else w
  let w := if c.on 9 then w.routeRow c row else w
  if c.rop ≠ 0 ∧ c.axis = 0 then w.extentEnd c else w

/-! ### One element (R98, R112–R122) -/

/-- The bytes of X that the checksum of SRC 1 sees: a scale byte before each block, and the element (R121). -/
def Work.crcElem (w : Work) (c : ChainCfg) (i0 raw sc : Nat) : Work :=
  if !(c.on 10 && c.crcX) then w
  else
    let w := if c.xmx && i0 % 32 == 0 then w.crcIn c true [BitVec.ofNat 8 sc] else w
    let n := w.run.xBits.1 + chainBits c.xfmt
    let v := w.run.xBits.2 + raw * 2 ^ w.run.xBits.1
    let w := w.crcIn c true (leBytes (n / 8) v)
    let left := (n % 8, v / 2 ^ (8 * (n / 8)))
    if i0 + 1 = w.run.recs.x.e 0 ∧ left.1 ≠ 0 then
      let w := w.crcIn c true (leBytes 1 left.2)
      { w with run := { w.run with xBits := (0, 0) } }
    else { w with run := { w.run with xBits := left } }

/-- The second input of an element (R103, R118, R119): read, gathered (with m = 0 for an index out of range), or open
under EXPAND until the element is filled (assumption 142). `raw`: the bits of X. -/
def Work.secondIn (w : Work) (c : ChainCfg) (idx : List Nat) (raw : Nat) : Work × Val × Bool × EFlags :=
  match w.run.recs.y with
  | none => (w, zeroVal, true, 0)
  | some Y =>
    if c.gather then
      let i := w.bits Y 32 idx
      let k := sInt 32 i.2
      match w.run.recs.tab with
      | none => (i.1, zeroVal, true, 0)
      | some T =>
        if k < 0 ∨ (T.e 0 : Int) ≤ k then (i.1, zeroVal, false, fIndexRange)
        else
          let x := i.1.elemIn c T c.yfmt false 0 [k.toNat, 0, 0, 0, 0, 0]
          (x.1, x.2.2.2.1, true, x.2.2.2.2)
    else if c.expand then (w, valOf c.cf (Config.openY w.run.blk c.words w.run.j raw % 2 ^ c.cf.bits), true, 0)
    else
      let x := w.elemIn c Y c.yfmt c.ymx c.ysc idx
      (x.1, x.2.2.2.1, true, x.2.2.2.2)

/-- The next element of the Y stream that EXPAND takes in place of a value; beyond its end the value is open (R118,
assumption 142). -/
def Work.expandIn (w : Work) (c : ChainCfg) (v : Val) : Work × Val × EFlags :=
  match w.run.recs.y with
  | none => (w, zeroVal, 0)
  | some Y =>
    if w.run.yPos < Y.count then
      let x := w.elemIn c Y c.yfmt c.ymx c.ysc (Y.index w.run.yPos)
      ({ x.1 with run := { x.1.run with yPos := x.1.run.yPos + 1 } }, x.2.2.2)
    else (w, valOf c.cf (Config.openY w.run.blk c.words w.run.j (valBits c.cf v) % 2 ^ c.cf.bits), 0)

/-- The two-operand value of the reduction and the expansion of stage 8 on an element (R117, R118). -/
def Work.backExpand (w : Work) (c : ChainCfg) (e : Elem) : Work × Val × EFlags :=
  if !c.expand then (w, e.v, 0)
  else if e.m then w.expandIn c e.v
  else let x := selVal c e c.expSel; (w, x.1, x.2)

/-- The best elements of a row kept for routing (R120). -/
def Work.pickRow (w : Work) (c : ChainCfg) (e : Elem) (j : Nat) : Work :=
  if c.on 9 && e.m && !e.v.isNan then
    { w with run := { w.run with rowPicks := (insertPick c.cf (valBits c.cf e.v, j % w.run.recs.x.e 0) w.run.rowPicks).take c.topk } }
  else w

/-- The value of an element written where the output record, the scatter or the compaction places it (R119, R122, R123). -/
def Work.backResult (w : Work) (c : ChainCfg) (e : Elem) (j : Nat) : Work :=
  let e0 := w.run.recs.x.e 0
  let row := j / e0
  let o := if c.packY then e.y else e.v
  let o := if c.idxout then intVal ((if c.whole then j else j % e0 : Nat)) 0 else o
  match w.run.recs.d with
  | none => if c.compact ∧ e.m then { w with run := { w.run with surv := w.run.surv + 1 } } else w
  | some d =>
    if c.scatter then
      match w.run.recs.sidx with
      | none => w
      | some I =>
        if !e.m then w
        else
          let i := w.bits I 32 (w.run.recs.x.index j)
          let k := sInt 32 i.2
          if k < 0 ∨ (d.e 0 : Int) ≤ k then i.1.flag fIndexRange else i.1.scatterAt c d k.toNat o
    else if c.compact then
      if !e.m then w
      else
        let p := if c.whole then w.run.surv else row * e0 + w.run.surv
        let w := if c.idxout then
            ({ w with run := { w.run with outPos := p + 1 } } : Work).putBits c d p (ofSInt 32 ((if c.whole then j else j % e0 : Nat) : Int))
          else w.packAt c d p o
        { w with run := { w.run with surv := w.run.surv + 1 } }
    else w.packAt c d j o

/-- An element after compare/mask goes through reduce, compact/expand, route and pack. -/
def Work.backStages (w : Work) (c : ChainCfg) (e : Elem) (j : Nat) (inSeg : Bool) : Work :=
  let rv := if c.redY then e.y else e.v
  let w := if c.rop = 0 ∨ (c.axis = 3 ∧ !inSeg) then w else w.reduce c rv e.m
  let ex := w.backExpand c e
  let e := { e with v := ex.2.1 }
  (((ex.1.flag ex.2.2).satSeen ex.2.2).pickRow c e j).backResult c e j

/-- What comes before an element: the second operand of a new row, the start of a row of a softmax, and the segment of the element; and
whether it lies in a segment (R116, R117). -/
def Work.elemStart (w0 : Work) (c : ChainCfg) : Work × Bool :=
  let X := w0.run.recs.x
  let j := w0.run.j
  let idx := X.index j
  let i0 := idx.getD 0 0
  let w := if i0 = 0 then w0.loadVec c idx else w0
  let w := if i0 = 0 ∧ c.softmax ∧ w.stop.isNone then w.softStart c idx (j / X.e 0) else w
  match w.run.recs.seg with
  | some g => if c.rop ≠ 0 ∧ c.axis = 3 ∧ w.stop.isNone then w.segAdvance c g j (g.e 0) else (w, false)
  | none => (w, false)

/-- Element `run.j` carried through the chain; where an operand cannot be read, the pass stops before the element. -/
def Work.elem (w0 : Work) (c : ChainCfg) : Work :=
  let X := w0.run.recs.x
  let j := w0.run.j
  let idx := X.index j
  let i0 := idx.getD 0 0
  let i1 := idx.getD 1 0
  let row := j / X.e 0
  let sg := w0.elemStart c
  let w := sg.1
  if w.stop.isSome then w
  else
    let x := w.elemIn c X c.xfmt c.xmx c.xsc idx
    let y := x.1.secondIn c idx x.2.1
    let mb := y.1.maskBit c idx
    if mb.1.stop.isSome then { w with s := mb.1.s, seen := mb.1.seen, stop := mb.1.stop }
    else
      let w := mb.1
      let b := if c.softmax then valOf .fp32 w.run.rowM'
        else valOf c.cf (w.run.vec.getD (if c.vmode = 1 then i0 else i1) 0)
      let fl := x.2.2.2.2 ||| y.2.2.2
      let e := frontStages c mb.2 { v := x.2.2.2.1, y := y.2.1, b := b, m := y.2.2.1, i0 := i0, i1 := i1, fl := fl }
      let w1 := (w.flag e.fl).satSeen fl
      let w1 := { w1 with run := { w1.run with predCount := w1.run.predCount + bitNat e.m } }
      let w2 := w1.backStages c e j sg.2
      if w2.stop.isSome then { w with s := w2.s, seen := w2.seen, stop := w2.stop }
      else
        let w := w2.crcElem c i0 x.2.1 x.2.2.1
        let w := if i0 + 1 = X.e 0 then w.rowEnd c row else w
        let w := if i0 + 1 = X.e 0 ∧ i1 + 1 = X.e 1 ∧ c.rop ≠ 0 ∧ c.axis = 1 then w.extentEnd c else w
        { w with run := { w.run with j := j + 1 } }

/-- Elements up to position `n`, until the pass stops. -/
def Work.elems (w : Work) (c : ChainCfg) (n : Nat) : Work :=
  (rangeFrom w.run.j (n - w.run.j)).foldl (fun w _ => if w.stop.isSome then w else w.elem c) w

/-! ### The end of a pass (R113, R115–R118, R121, R125) -/

/-- Rows of no elements, each with its start and its end. -/
def Work.emptyRows (w : Work) (c : ChainCfg) : Work :=
  let X := w.run.recs.x
  if X.e 0 ≠ 0 then w
  else (rangeFrom 0 X.rows).foldl (fun w row =>
    if w.stop.isSome then w
    else
      let w := if c.softmax then w.softStart c (X.index 0) row else w
      w.rowEnd c row) w

/-- The results that remain at the end of a pass. -/
def Work.lastResults (w : Work) (c : ChainCfg) : Work :=
  if c.rop = 0 then w
  else match c.axis with
    | 0 => w
    | 1 => (rangeFrom w.run.results (w.run.recs.x.tiles - w.run.results)).foldl (fun w _ => w.extentEnd c) w
    | 2 => w.extentEnd c
    | _ => match w.run.recs.seg with
      | some g => (w.segAdvance c g (2 ^ 150) (g.e 0)).1
      | none => w

/-- What a pass writes at its end: outputs held back, results, counts, the predicate word and the checksum. -/
def Work.finish (w : Work) (c : ChainCfg) : Work :=
  let w := w.emptyRows c
  let w := w.flushOut c
  let w := w.lastResults c
  if w.stop.isSome then w
  else
    let w := if c.compact && c.whole then w.put (c.word 0x38) (leBytes 4 w.run.surv) else w
    let w := if c.pred then w.put (c.word 0x3C) (leBytes 4 (min 0xFFFFFFFF w.run.predCount)) else w
    if c.on 10 then w.put c.crcOff (leBytes 4 (w.run.crc ^^^ 0xFFFFFFFF#32).toNat) else w

/-- The status of a pass that ran to its end (R125). -/
def chainStatus (c : ChainCfg) (run : ChainRun) : Nat × W64 :=
  let crc := (run.crc ^^^ 0xFFFFFFFF#32).toNat
  if c.on 10 && c.check && crc != c.expect then (stCrcMismatch, BitVec.ofNat 64 crc)
  else match run.firstSat with
    | some j => (stExactRange, BitVec.ofNat 64 j)
    | none => (stOk, 0)

/-! ### Chunks and their memory operands (R108, R126, R136–R138) -/

/-- An element of an operand in memory: its record, the bits of an element, its indices, and the kind of the access. -/
structure MemElem where
  r : TRec
  bits : Nat
  idx : List Nat
  k : Nat
  deriving DecidableEq, Repr

/-- The writes of memory that the pack stage still holds back: an MX block or a byte in progress. -/
def heldElems (c : ChainCfg) (run : ChainRun) : List MemElem :=
  match run.recs.d with
  | none => []
  | some D =>
    let k := run.mxBlock.length + (if run.outBits.1 = 0 then 0 else 1)
    if D.virt then (rangeFrom (run.outPos - k) k).map fun p => ⟨D, chainBits c.ofmt, dIndex D p, 1⟩ else []

/-- A chunk reads what it writes of a D in memory: the byte in which a compaction of sub-byte elements ends (R118). -/
def ChainCfg.readsD (c : ChainCfg) : Bool := c.compact && chainBits c.ofmt % 8 != 0

/-- The accesses of a write, with the read of the same bytes where the pass reads what it writes. -/
def withRead (c : ChainCfg) (l : List MemElem) : List MemElem :=
  if c.readsD then (l.map fun a => { a with k := 0 }) ++ l else l

/-- The elements of operands in memory that element `j` accesses. A compaction may write at any position up to that of the
element. -/
def chainElems (img : Tab Byte) (c : ChainCfg) (run : ChainRun) (j : Nat) : List MemElem :=
  let R := run.recs
  let idx := R.x.index j
  let one := fun (r : TRec) (bits : Nat) (idx : List Nat) (k : Nat) => if r.virt then [(⟨r, bits, idx, k⟩ : MemElem)] else []
  let y := match R.y with
    | some Y =>
      if c.gather then []
      else if c.expand then
        (if run.yPos + (j - run.j) < Y.count then one Y (chainBits c.yfmt) (Y.index (run.yPos + (j - run.j))) 0 else [])
      else one Y (chainBits c.yfmt) idx 0
    | none => []
  let ob := chainBits c.ofmt
  let d := match R.d with
    | some D =>
      if c.scatter then
        match R.sidx with
        | some I =>
          let x := I.elemSpan 32 idx
          let k := sInt 32 (Memory.le img x.1 4)
          if k < 0 ∨ (D.e 0 : Int) ≤ k then []
          else (if c.scatadd || ob % 8 != 0 then one D ob [k.toNat, 0, 0, 0, 0, 0] 0 else []) ++
            one D ob [k.toNat, 0, 0, 0, 0, 0] 1
        | none => []
      else
        let held := if j = run.j then heldElems c run else []
        let p := run.surv + (j - run.j)
        let row := j / R.x.e 0
        withRead c <| held ++
          (if !c.compact then one D ob idx 1
           else if c.whole then one D ob (dIndex D p) 1
           else if row = run.j / R.x.e 0 then one D ob (dIndex D (row * R.x.e 0 + p)) 1
           else one D ob idx 1)
    | none => []
  one R.x (chainBits c.xfmt) idx 0 ++ y ++ d

/-- The memory accesses of elements: address, bytes and kind (0 read, 1 write). -/
def spansOf (l : List MemElem) : List (Nat × Nat × Nat) :=
  (l.filter fun e => (e.r.outside e.bits e.idx).isNone).map fun e =>
    ((e.r.elemSpan e.bits e.idx).1, (e.r.elemSpan e.bits e.idx).2, e.k)

/-- The accesses of elements that lie outside the virtual addresses: address and kind (R129, R179). -/
def outsideOf (l : List MemElem) : List (Int × Nat) := l.filterMap fun e => (e.r.outside e.bits e.idx).map fun a => (a, e.k)

/-- The memory accesses of element `j`. -/
def chainAccesses (img : Tab Byte) (c : ChainCfg) (run : ChainRun) (j : Nat) : List (Nat × Nat × Nat) :=
  spansOf (chainElems img c run j)

/-- Elements taken until one would need a seventeenth lease, and what they need. -/
def chainTake (s : State) (t q : Nat) (acc : Nat → List (Nat × Nat × Nat)) : List Nat → List Need3 → Nat × List Need3
  | [], needs => (0, needs)
  | j :: r, needs =>
    let more := (acc j).foldl (fun l a => addNeed s t q (addNeed s t q l a.1 a.2.2) (a.1 + a.2.1 - 1) a.2.2) needs
    if 16 < more.length then (0, needs)
    else let x := chainTake s t q acc r more; (x.1 + 1, x.2)

/-- The pass scans a row of X in memory before it streams the row (R117). -/
def scanDue (c : ChainCfg) (run : ChainRun) : Bool :=
  c.softmax && run.recs.x.virt && decide (run.j < run.recs.x.count) && run.j % run.recs.x.e 0 == 0 && decide (run.scan < run.recs.x.e 0)

/-- The position after the last element of the chunk at `run.j`, by the bytes of X alone (R126, R136). -/
def chunkEnd (c : ChainCfg) (run : ChainRun) : Nat :=
  let xb := chainBits c.xfmt
  let X := run.recs.x
  let e := if X.virt then run.j + 524288 / xb else ceilDiv ((run.j * xb / 524288 + 1) * 524288) xb
  let e := if c.softmax ∧ X.virt then min e ((run.j / X.e 0 + 1) * X.e 0) else e
  min e X.count

/-- The next chunk: the position after its last element (in a scan, the element of the row), and its needs. -/
def chainPlan (s : State) (t : Nat) (c : ChainCfg) (run : ChainRun) : Nat × Needs :=
  let X := run.recs.x
  let xb := chainBits c.xfmt
  let take := fun (from_ : Nat) (elems : Nat → List MemElem) (js : List Nat) =>
    let r := chainTake s t run.q (fun j => spansOf (elems j)) js []
    ((from_ + r.1, { leases := r.2, out := (js.take r.1).flatMap fun j => outsideOf (elems j) }) : Nat × Needs)
  if scanDue c run then
    take run.scan (fun j => [⟨X, xb, X.index j, 0⟩]) (rangeFrom (run.j + run.scan) (min (524288 / xb) (X.e 0 - run.scan)))
  else if !run.inMemory then (chunkEnd c run, {})
  else if X.count ≤ run.j then (run.j, (take 0 (fun _ => heldElems c run) [run.j]).2)
  else take run.j (chainElems (s.tile t).store c run) (rangeFrom run.j (chunkEnd c run - run.j))

/-- The reads of memory of a chunk. -/
def chainReads (s : State) (t : Nat) (c : ChainCfg) (run : ChainRun) (stop : Nat) : List (Nat × Nat) :=
  let X := run.recs.x
  if scanDue c run then
    (rangeFrom (run.j + run.scan) (stop - run.scan)).map fun j => X.elemSpan (chainBits c.xfmt) (X.index j)
  else ((rangeFrom run.j (stop - run.j)).flatMap (chainAccesses (s.tile t).store c run)).filterMap fun a =>
    if a.2.2 = 0 then some (a.1, a.2.1) else none

/-- The lines of memory in which a chunk makes requests. -/
def chainRequests (s : State) (t : Nat) (c : ChainCfg) (run : ChainRun) (stop : Nat) : Nat :=
  if scanDue c run then (((chainReads s t c run stop).flatMap fun a => linesOf a.1 a.2).eraseDups).length
  else (((rangeFrom run.j (stop - run.j)).flatMap fun j => (chainAccesses (s.tile t).store c run j).flatMap fun a =>
    (linesOf a.1 a.2.1).map fun l => (a.2.2, l)).eraseDups).length

/-- The state with a function applied to the pass of a tile. -/
def modChain (s : State) (t : Nat) (f : ChainRun → ChainRun) : State :=
  s.modTile t fun T => { T with chain := T.chain.map f }

/-- Bytes that the chain could not bring: the codewords that a poisoned answer stands for. -/
def markPoison (s : State) (run : ChainRun) (va n : Nat) : State × ChainRun :=
  let r := poisonedCws s (cwsOf va n)
  (r.1, { run with bad := run.bad ++ r.2.map fun cw => (64 * cw, 64, stMemPoison) })

/-- One packet of another node's memory brought for a chunk: the state, the pass, and the requests on their way. -/
def stageFar (t q lo hi : Nat) (l : Lease) (x : State × ChainRun × Nat) : State × ChainRun × Nat :=
  let (s, run, far) := x
  let r := sendRemote s (l.pa lo) 1 (hi - lo) 0 [] (.chainRead t q lo (hi - lo))
  match r.2 with
  | .away => (r.1, run, far + 1)
  | .refused st => (r.1, { run with bad := run.bad ++ [(lo, hi - lo, refusalStatus st)] }, far)
  | .done a =>
    if a.poison then
      let m := markPoison r.1 { run with staged := Memory.put run.staged lo a.data } lo (hi - lo)
      (m.1, m.2, far)
    else (r.1, { run with staged := Memory.put run.staged lo a.data }, far)

/-- One codeword of this node's memory brought for a chunk. -/
def stageCw (t cw : Nat) (l : Lease) (x : State × ChainRun × Nat) : State × ChainRun × Nat :=
  let (s, run, far) := x
  let pa := l.pa (64 * cw)
  let s := accessTrip s (tileEnd t) l.hc 0 pa 0 64
  let r := if l.hc then cohRead s pa 64 else readPool s pa 64
  let run := { run with staged := Memory.put run.staged (64 * cw) (arrive r.1.truss.flips pa r.2.1) }
  (r.1, if r.2.2.isSome then { run with bad := run.bad ++ [(64 * cw, 64, stMemPoison)] } else run, far)

/-- The bytes that a chunk reads of memory brought to the staging area; the answer counts requests on their way. -/
def stageReads (s : State) (t : Nat) (run : ChainRun) (ext : List Nat) (reads : List (Nat × Nat)) : State × ChainRun × Nat :=
  let Q := s.queue t run.q
  let lease := fun (va : Nat) => Q.leaseFor ext va 0
  let here := fun (cw : Nat) => match lease (64 * cw) with
    | some l => !l.rm
    | none => false
  let cws := (reads.flatMap fun a => cwsOf a.1 a.2).eraseDups
  let x := cws.foldl (fun x cw => match lease (64 * cw) with
    | some l => if l.rm then x else stageCw t cw l x
    | none => x) (s, { run with staged := [], bad := [] }, 0)
  let far := reads.flatMap fun a => (cwsOf a.1 a.2).filterMap fun cw =>
    if here cw then none else some (max a.1 (64 * cw), min (a.1 + a.2) (64 * cw + 64) - max a.1 (64 * cw))
  ((sectorRuns far).flatMap fun r => packetsFrom Q ext 0 (r.2 - r.1 + 1) r.1 r.2).foldl
    (fun x p => stageFar t run.q p.2.1 p.2.2 p.1 x) x

/-- Every access of a chunk to a host-coherent extent meets lines without an open transaction. -/
def chainHcIdle (s : State) (t : Nat) (c : ChainCfg) (run : ChainRun) (stop : Nat) (ext : List Nat) : Bool :=
  let acc := if scanDue c run then (chainReads s t c run stop).map fun a => (a.1, a.2, 0)
    else (rangeFrom run.j (stop - run.j)).flatMap (chainAccesses (s.tile t).store c run)
  acc.all fun a => match (s.queue t run.q).leaseFor ext a.1 a.2.2 with
    | some l => !l.hc || s.linesIdle (l.pa a.1) a.2.1
    | none => true

/-- The staging area holds bytes that no rule gives (R108): free values. -/
def stageBytes (s : State) (t : Nat) (c : ChainCfg) (run : ChainRun) : State :=
  let n := 131072 * (memOperands run.recs).length
  if n = 0 then s
  else storePut s.takeFree t (c.word 0x44) ((rangeFrom 0 n).map fun i => BitVec.ofNat 8 (s.freeVal / 256 ^ i))

/-- The leases under which the writes that the pack stage still holds back are made. -/
def heldLeases (s : State) (t : Nat) (c : ChainCfg) (run : ChainRun) : List Nat :=
  ((s.queue t run.q).leases.filter fun l =>
    !l.recalled && (spansOf (heldElems c run)).any fun a => l.covers a.1 || l.covers (a.1 + a.2.1 - 1)).map leaseKey

/-- A chunk's writes: tile store, then memory; the first error of a write ends the pass (R141, R144). -/
def landWork (w : Work) : State × ChainRun × Nat :=
  let r := putScatter w.s w.t w.dirty
  let first := fun cw => match w.first.find? fun x => x.1 == cw with
    | some x => x.2
    | none => 0
  let q := w.run.q
  let i := ({ s := r.1, ext := w.ext } : Issue).putMem w.t q (fun va cws => .chainWrite w.t q va cws) first w.mem
  let bad := i.acks.findSome? fun a => match a.poison, a.refused with
    | some va, _ => some (stMemPoison, BitVec.ofNat 64 va)
    | none, some x => some (x.1, BitVec.ofNat 64 x.2)
    | none, none => none
  let st := (w.stop.or (r.2.map fun off => (stStoreUncorr, BitVec.ofNat 64 off))).or bad
  (i.s, { w.run with endStatus := w.run.endStatus.or st }, i.remote)

/-- The active descriptor of the chain. -/
def chainEntry (s : State) (t : Nat) (run : ChainRun) : Option QEntry := (s.queue t run.q).active 3

/-- The elements of a chunk, whose operands are at hand, carried through the chain and written. -/
def chainWork (s : State) (t : Nat) (c : ChainCfg) (run : ChainRun) (stop : Nat) (ext : List Nat) : State × ChainRun × Nat :=
  let w : Work := { s := s, t := t, img := (s.tile t).store, run := run, ext := ext }
  let w := if scanDue c run then w.scanRow c (run.recs.x.index run.j) (stop - run.scan) else w.elems c stop
  landWork w

/-- The chunk of a pass that is in flight, kept with its descriptor while requests are on their way. -/
def keepChunk (s : State) (t : Nat) (run : ChainRun) (ch : Option Chunk) : State :=
  match chainEntry s t run with
  | none => s
  | some e => modEntry s t run.q e.seq fun e => { e with chunks := ch.toList, pos := run.j, flags := run.flags }

/-- The configuration of a pass in progress. -/
def ChainRun.cfg (run : ChainRun) : ChainCfg := parseChain run.offs true run.blk

/-- A later element of the pass that works for a queue may touch a lease's extent. Where the pass scatters, compacts or holds
output back, its later writes of D are not known, and it keeps every lease. -/
def chainTouches (s : State) (t q : Nat) (l : Lease) : Bool :=
  match (s.tile t).chain with
  | none => false
  | some run =>
    let c := run.cfg
    run.q == q && run.inMemory && run.endStatus.isNone &&
      (c.scatter || c.compact || run.mxBlock != [] || run.outBits.1 != 0 ||
        ((rangeFrom run.j (run.recs.x.count - run.j)).flatMap (chainAccesses (s.tile t).store c run)).any fun a =>
          l.covers a.1 || l.covers (a.1 + a.2.1 - 1))

/-- A chunk in flight, or a later chunk of an active descriptor, touches a lease's extent. No later chunk is issued under a
recalled lease, nor by a descriptor that has met an error (R136, R138, R144). -/
def leaseNeeded (s : State) (t q : Nat) (l : Lease) : Bool :=
  (s.queue t q).uses l || (!l.recalled && (chainTouches s t q l || match (s.queue t q).mover with
    | some e => laterTouches e l
    | none => false))

/-- The leases of a stream that no active descriptor needs any more are released (R136, R168); a recalled one is dropped when
its recall is acknowledged (R169). -/
def releaseUnneeded (s : State) (t q : Nat) : State :=
  releaseLeases s t q fun l => !l.recalled && !leaseNeeded s t q l

/-- A chunk whose operands are at hand is worked through; it stays in flight while its writes are on their way. -/
def chunkThrough (s : State) (t : Nat) (c : ChainCfg) (run : ChainRun) (stop : Nat) (ch : Chunk) : State :=
  let r := chainWork (tileCycles (chainCycles s t run.q) t) t c { run with asked := none } stop ch.extents
  let s := modChain r.1 t fun _ => r.2.1
  let s := keepChunk s t r.2.1 (if r.2.2 = 0 then none else some { ch with remote := r.2.2 })
  releaseUnneeded s t r.2.1.q

/-- The bytes of a chunk that the tile mover moves between memory and the staging area (R108, R389). -/
def stagedBytes (c : ChainCfg) (run : ChainRun) (n : Nat) : Nat :=
  let b := fun (r : Option TRec) (bits : Nat) => if optAny r (·.virt) then ceilDiv (n * bits) 8 else 0
  b (some run.recs.x) (chainBits c.xfmt) +
    (if scanDue c run then 0 else b run.recs.y (chainBits c.yfmt) + b run.recs.d (chainBits c.ofmt))

/-- A new chunk of the pass begins: its memory operands are brought, and if none is on its way it is worked through. -/
def beginChunk (s : State) (t : Nat) (c : ChainCfg) (run : ChainRun) (plan : Nat × Needs) : State :=
  match chainEntry s t run with
  | none => s
  | some e =>
    let ch : Chunk := { idx := e.issued, extents := (s.queue t run.q).granted plan.2 }
    if !run.inMemory then chunkThrough s t c run plan.1 ch
    else
      let reads := chainReads s t c run plan.1
      let n := if scanDue c run then plan.1 - run.scan else plan.1 - run.j
      let first := (reads.map (·.1) ++ ((chainAccesses (s.tile t).store c run run.j).map (·.1))).headD 0
      let s := tileEvent s t 0x0A (some run.q) (chainRequests s t c run plan.1)
      let s := traceDesc s t run.q e 3 first (e.issued % 65536) (e.seq.setWidth 64)
      let s := countTile s t 4 (stagedBytes c run n)
      let s := stageBytes s t c run
      let s := modEntry s t run.q e.seq fun e => { e with issued := e.issued + 1, chunks := [ch] }
      let s := s.modQueue t run.q fun Q => { Q with fresh := false }
      let r := stageReads s t run ch.extents reads
      if r.2.2 = 0 then chunkThrough (modChain r.1 t fun _ => r.2.1) t c r.2.1 plan.1 ch
      else
        let run := { r.2.1 with asked := some plan.1 }
        keepChunk (modChain r.1 t fun _ => run) t run (some { ch with remote := r.2.2 })

/-- The tile lets the chain work: in RUN, or for the chunk it had in flight when a drain began (R53). -/
def Tile.chainMay (T : Tile) : Bool := T.st == .run || (T.st == .draining && T.chainLeft)

/-- CHAIN_CHUNK_DONE (R126, R136): the chunk in flight is worked through once its operands are at hand; else the next
chunk begins, when the queue has no fault and the stream holds every lease that it needs. -/
def chainChunkEnd (t : Nat) (s : State) : State :=
  let T := s.tile t
  match T.chain with
  | none => s
  | some run =>
    let c := run.cfg
    match chainEntry s t run with
    | none => s
    | some e =>
      match e.chunks with
      | ch :: _ =>
        if ch.remote ≠ 0 then s
        else match run.asked with
          | some stop => if T.st = .run ∨ T.st = .draining then chunkThrough s t c run stop ch else s
          | none => keepChunk s t run none
      | [] =>
        if !T.chainMay ∨ run.endStatus.isSome ∨ (s.queue t run.q).fault.isSome ∨ run.recs.x.count ≤ run.j then s
        else
          let plan := chainPlan s t c run
          let Q := s.queue t run.q
          if !Q.meets plan.2 ∨ !chainHcIdle s t c run plan.1 (Q.granted plan.2) then s
          else beginChunk (s.modTile t fun T => { T with chainLeft := false }) t c run plan

/-- CHAIN_CHUNK_DONE; `flips` names the bits that flip on the way (R262). -/
def doChainChunkDone (t : Nat) (flips : Flips) (s : State) : State := withFlips flips (chainChunkEnd t) s

/-- CHAIN_CHUNK_DONE. -/
def execChainChunkDone (t : Nat) (s : State) (flips : Flips := []) : Host.Outcome State Fault Refusal :=
  require (okTile t) (doChainChunkDone t flips s)

/-- A pass that stopped early: what the pack stage still holds is written, and the pass is over. -/
def stopPass (s : State) (t : Nat) (c : ChainCfg) (run : ChainRun) : State × ChainRun × Nat :=
  landWork (({ s := s, t := t, img := (s.tile t).store, run := run, ext := heldLeases s t c run } : Work).flushOut c)

/-- CHAIN_PASS_END (R113–R118, R121, R125): when every element is through, or the pass has stopped, what remains is
written; the descriptor finishes once no write is on its way. -/
def chainPassOver (t : Nat) (s : State) : State :=
  let T := s.tile t
  match T.chain with
  | none => s
  | some run =>
    let c := run.cfg
    match chainEntry s t run with
    | none => s
    | some e =>
      if e.chunks ≠ [] ∨ !(T.st == .run || T.st == .draining) then s
      else
        let held := heldLeases s t c run
        let close := fun (s : State) (run : ChainRun) (status : Nat × W64) =>
          (endEntry s t run.q e.seq status.1 status.2 run.flags).modTile t fun T => { T with chain := none }
        let finishWith := fun (r : State × ChainRun × Nat) =>
          if r.2.2 = 0 then close r.1 r.2.1 ((r.2.1.endStatus).getD (chainStatus c r.2.1))
          else
            let run := { r.2.1 with endStatus := some ((r.2.1.endStatus).getD (chainStatus c r.2.1)), mxBlock := [], outBits := (0, 0) }
            keepChunk (modChain r.1 t fun _ => run) t run (some { idx := e.issued, remote := r.2.2, extents := held })
        match run.endStatus with
        | some _ => finishWith (stopPass s t c run)
        | none =>
          if run.j < run.recs.x.count ∨ !(s.queue t run.q).meets (chainPlan s t c run).2 then s
          else finishWith (landWork (({ s := s, t := t, img := (s.tile t).store, run := run, ext := held } : Work).finish c))

/-- CHAIN_PASS_END; `flips` names the bits that flip on the way (R262). -/
def doChainPassEnd (t : Nat) (flips : Flips) (s : State) : State := withFlips flips (chainPassOver t) s

/-- CHAIN_PASS_END. -/
def execChainPassEnd (t : Nat) (s : State) (flips : Flips := []) : Host.Outcome State Fault Refusal :=
  require (okTile t) (doChainPassEnd t flips s)

/-- An answer to a request that a chain pass made on the optical links (R108, R144). -/
def chainAnswer (s : State) (t q : Nat) (land : State → ChainRun → State × ChainRun) : State :=
  match (s.tile t).chain with
  | none => s
  | some run =>
    if run.q ≠ q then s
    else match chainEntry s t run with
      | none => s
      | some e => match e.chunks with
        | [] => s
        | ch :: _ =>
          let r := land s run
          let run := r.2
          let s := modChain r.1 t fun _ => run
          let ch := { ch with remote := ch.remote - 1 }
          keepChunk s t run (if ch.remote = 0 ∧ run.asked.isNone then none else some ch)

/-- A tile that stops with a pass in progress: what the pack stage holds of the elements consumed is written (R52,
R125). -/
def chainAbort (s : State) (t : Nat) : State :=
  match (s.tile t).chain with
  | none => s
  | some run =>
    let r := stopPass s t run.cfg run
    keepChunk r.1 t r.2.1 none

/-- The pass that a descriptor starts (R101, R117, R121). -/
def chainStart (img : Tab Byte) (q : Nat) (d : List Byte) : ChainRun :=
  let c := chainCfgOf img d
  { q := q, blk := Memory.bytes img (c.word 0x10) 256, recs := c.recs img, offs := c.words,
    crc := BitVec.ofNat 32 c.seed ^^^ 0xFFFFFFFF#32, scanMax := negInf32 }

end Sys2Proof.Machine
end

