-- ==== Sys2Proof/Machine/Engines.lean ====
section
/-!
DEFINITION. How the engines of a tile take descriptors and end (R35–R38, R53, R130, R140, R145, R169): DESCRIPTOR_START,
FENCE_COMPLETE, LEASE_REQUEST, MOVER_CHUNK_DONE, COMPLETION_POST and DRAIN_COMPLETE.
-/

namespace Sys2Proof.Machine
open Sys2Proof

/-! ### The common header (R127, R130) -/

/-- The common header of a descriptor. -/
structure Header where
  engine : Nat
  wait : Bool
  notify : Bool
  casc : Bool
  predOp : Nat
  fmask : Nat
  user : Nat
  predOff : Nat
  predVal : Nat
  rsv : Bool
  deriving DecidableEq, Repr

/-- The header of a descriptor's bytes. In a FENCE, the bytes after the header are reserved. -/
def parseHeader (d : List Byte) : Header :=
  let w := fieldAt d 0 4
  { engine := fld w 30 2, wait := bitAt w 29, notify := bitAt w 28, casc := bitAt w 27, predOp := fld w 24 3,
    fmask := fld w 20 4, user := fld w 0 16, predOff := fieldAt d 4 4, predVal := fieldAt d 8 4,
    rsv := fld w 16 4 != 0 || fieldAt d 12 4 != 0 || (fld w 30 2 == 0 && (d.drop 16).any (· != 0)) }

/-- The reason for which a header is refused: the lowest that applies (R130). -/
def headerReason (h : Header) : Option Nat :=
  firstBad [
    (h.rsv, 0x30),
    (h.predOp == 7 || (h.engine == 0 && h.predOp != 0), 0x31),
    (h.predOff % 4 != 0 || decide (0x2FFFFC < h.predOff) || (h.predOp == 0 && h.predOff != 0), 0x32),
    (h.engine != 0 && h.fmask != 0, 0x33)]

/-- A predicate test (R130). -/
def predTest (op w v : Nat) : Bool :=
  match op with
  | 0 => true
  | 1 => w != 0
  | 2 => w == 0
  | 3 => decide (v ≤ w)
  | 4 => decide (w < v)
  | 5 => w.land v != 0
  | _ => w.land v == 0

/-! ### Which descriptor may start (R35, R36) -/

/-- The entries of a queue before the first one that has not started, and that one. -/
def splitQueued : List QEntry → List QEntry × Option QEntry
  | [] => ([], none)
  | e :: r => if e.phase = .queued then ([], some e) else let x := splitQueued r; (e :: x.1, x.2)

/-- The header of a queued descriptor, looked at to find what its start needs (R34). -/
def lookHeader (T : Tile) (e : QEntry) : Header := parseHeader (Memory.bytes T.store e.doff 128)

/-- A declined descriptor whose record is not posted holds its queue, or the engine whose checks refused it; one whose record
waits for an earlier one holds no engine any more (R145). -/
def QEntry.holds (e : QEntry) (engine : Nat) : Bool :=
  e.phase == .finished && (e.held == .queue || (e.held == .engine && e.engine == engine && !e.late))

/-- The next descriptor of a queue may start as far as its own queue is concerned (R35, R38, R145): a descriptor with WAIT or
CASC is the oldest of the queue, no earlier descriptor runs on its engine, no declined one holds the queue or the engine, and
no earlier FENCE holds the queue. -/
def queueAllows (T : Tile) (Q : Queue) : Option (QEntry × Header) :=
  if Q.fault.isSome then none
  else match splitQueued Q.entries with
    | (_, none) => none
    | (before, some e) =>
      let h := lookHeader T e
      let busy := before.any fun b =>
        (b.phase == .active && (b.engine == 0 || b.engine == h.engine)) || b.holds h.engine
      if ((h.wait || h.casc) && before != []) || busy then none else some (e, h)

/-- The queue whose descriptor a free engine takes next (R36). -/
def engineTurn (T : Tile) (engine last : Nat) : Option Nat :=
  (roundRobin last).find? fun q => match queueAllows T (T.queue q) with
    | some x => x.2.engine == engine
    | none => false

/-- An engine of which the tile has one is held by a descriptor that it refused (R145). -/
def Tile.engineHeld (T : Tile) (engine : Nat) : Bool :=
  [T.q0, T.q1, T.q2, T.q3].any fun Q => Q.entries.any fun e => e.held == .engine && e.holds engine && e.engine == engine

/-- The descriptor of queue `q` that starts now, if any. -/
def startable (T : Tile) (q : Nat) : Option (QEntry × Header) :=
  match queueAllows T (T.queue q) with
  | none => none
  | some x =>
    match x.2.engine with
    | 2 => if T.latheQ.isNone ∧ !T.engineHeld 2 ∧ engineTurn T 2 T.latheLast = some q then some x else none
    | 3 => if T.chain.isNone ∧ !T.engineHeld 3 ∧ engineTurn T 3 T.chainLast = some q then some x else none
    | _ => some x

/-! ### Starts of the engines -/

/-- The engine of a refused or running descriptor has served its queue (R36). -/
def served (s : State) (t q engine : Nat) : State :=
  match engine with
  | 2 => s.modTile t fun T => { T with latheLast := q }
  | 3 => s.modTile t fun T => { T with chainLast := q }
  | _ => s

/-- Tile cycles of the predicate read of a header (R130). -/
def predCycles (h : Header) : Nat := if h.predOp = 0 then 0 else if h.predOff < 0x100000 then 2 else 5

/-- The start latency of an engine for a descriptor (R66, R124, R139): longer where an offset that it names lies in the
under-store. -/
def startLatency (T : Tile) (e : QEntry) (engine : Nat) : Nat :=
  let under := fun (l : List Nat) => l.any fun o => decide (0x100000 ≤ o)
  match engine with
  | 2 =>
    let c := parseLathe e.desc
    if under [e.doff, c.aOff, c.bOff, c.saOff, c.sbOff, c.metaOff, c.skipOff] then 19 else 16
  | 3 => let c := chainCfgOf T.store e.desc; if under ([e.doff, c.word 0x10] ++ c.recOffs) then 23 else 20
  | _ => 12

/-- A descriptor that does no work finishes: it holds its queue or its engine until its record is posted, and CYCLES of the
record is given (R145). -/
def decline (s : State) (t q : Nat) (seq : W32) (held : Held) (cycles status : Nat) (detail : W64) (flags : BitVec 16) : State :=
  let late := match (s.queue t q).entries with
    | [] => false
    | x :: _ => x.seq != seq
  modEntry (endEntry s t q seq status detail flags) t q seq fun e => { e with held := held, fixed := cycles, late := late }

/-- A descriptor refused by its engine with a reason code: it holds the engine for the start latency and the posting
(R145). -/
def badConfig (s : State) (t q : Nat) (e : QEntry) (reason : Nat) : State :=
  decline s t q e.seq .engine (predCycles (parseHeader e.desc) + startLatency (s.tile t) e e.engine + 2) stBadConfig
    (BitVec.ofNat 64 reason) 0

/-- A feature of the feature word is outside the intersection of the dies (R377). -/
def State.lacks (s : State) (bit : Nat) : Bool := !s.boot.features.getLsbD bit

/-- Reason of a descriptor that uses a feature outside the intersection (R377). -/
def reasonFeature : Nat := 0x34

/-- A Lathe descriptor uses exact accumulation or 1:4 sparsity without the feature (R377). -/
def latheLacks (s : State) (c : LatheCfg) : Bool := (c.acc && s.lacks 0) || (c.sparse == 2 && s.lacks 1)

/-- A mover descriptor uses adder type EXACT without the feature (R377). -/
def moverLacks (s : State) (c : MoverCfg) : Bool := c.op == 2 && aType c.addop == 6 && s.lacks 0

/-- A Lathe descriptor starts (R64): checked, and through after its start latency where it has no block (R66). -/
def startLathe (s : State) (t q : Nat) (e : QEntry) : State :=
  let c := parseLathe e.desc
  match (latheReason (s.tile t) e.doff c).or (if latheLacks s c then some reasonFeature else none) with
  | some r => badConfig s t q e r
  | none =>
    if c.blocks = 0 then
      decline s t q e.seq .engine (predCycles (parseHeader e.desc) + startLatency (s.tile t) e 2 + 2) stOk 0 0
    else s.modTile t fun T => { T with latheQ := some q }

/-- A chain descriptor starts (R101, R125). -/
def startChain (s : State) (t q : Nat) (e : QEntry) : State :=
  let b := readRanges s t (if inStore (fieldAt e.desc 0x10 4) 256 then [(fieldAt e.desc 0x10 4, 256)] else [])
  match b.2.2 with
  | some off => endEntry b.1 t q e.seq stStoreUncorr (BitVec.ofNat 64 off) 0
  | none =>
    let r := readRanges b.1 t ((chainStartRanges (chainCfgOf b.2.1 e.desc)).drop 1)
    match r.2.2 with
    | some off => endEntry r.1 t q e.seq stStoreUncorr (BitVec.ofNat 64 off) 0
    | none =>
      let img := Memory.put r.2.1 (fieldAt e.desc 0x10 4) (Memory.bytes b.2.1 (fieldAt e.desc 0x10 4) 256)
      match chainReason (r.1.tile t) img e.doff (chainCfgOf img e.desc) with
      | some x => badConfig r.1 t q e x
      | none => r.1.modTile t fun T => { T with chain := some (chainStart img q e.desc) }

/-- A mover descriptor starts (R131, R135): its records, bitmap and count of route records are read; one that moves
nothing is at once through. -/
def startMover (s : State) (t q : Nat) (e : QEntry) : State :=
  let c := parseMover e.desc
  let r0 := readRanges s t ((c.recs.filter fun r => recReadable r.2).map fun r => (r.2, 80))
  let r1 := readRanges r0.1 t ((moverStartRanges r0.2.1 c).filter fun x => !(c.recs.any fun y => (y.2, 80) == x))
  match r0.2.2.or r1.2.2 with
  | some off => endEntry r1.1 t q e.seq stStoreUncorr (BitVec.ofNat 64 off) 0
  | none =>
    let img := (c.recs.filter fun r => recReadable r.2).foldl (fun m r => Memory.put m r.2 (Memory.bytes r0.2.1 r.2 80)) r1.2.1
    match if moverLacks s c then some reasonFeature else moverReason (r1.1.tile t) img e.doff c with
    | some x => badConfig r1.1 t q e x
    | none =>
      let e := { e with desc := moverKeep img e.desc c }
      let s := modEntry r1.1 t q e.seq fun _ => e
      if c.op = 3 then (if e.total = 0 then endEntry s t q e.seq stOk 0 0 else s)
      else if e.ahead.1 = [] then endEntry s t q e.seq stOk 0 (flagIf e.ahead.2.2 fSkipped)
      else s

/-- The first memory element of a descriptor: the base of the first of its operands that lies in memory, or 0 (R400). -/
def firstMemory (T : Tile) (d : List Byte) (engine : Nat) : Nat :=
  let recs : List TRec := match engine with
    | 1 => ((parseMover d).recs.filter fun r => recReadable r.2).map fun r => recAt T.store r.2
    | 3 =>
      if inStore (fieldAt d 0x10 4) 256 then memOperands ((chainCfgOf T.store d).recs T.store) else []
    | _ => []
  match recs.find? fun r => r.virt with
  | some r => r.base
  | none => 0

/-- The named engine checks its fields and runs (R130). -/
def startEngine (s : State) (t q : Nat) (e : QEntry) (h : Header) : State :=
  let s := served s t q h.engine
  match h.engine with
  | 0 => if h.fmask = 0 then endEntry s t q e.seq stOk 0 0 else s
  | 1 => startMover s t q e
  | 2 => startLathe s t q e
  | _ => startChain s t q e

/-- DESCRIPTOR_START (R34, R35, R36, R130, R145). -/
def doDescriptorStart (t q : Nat) (s : State) : State :=
  let T := s.tile t
  if T.st ≠ .run then s
  else match startable T q with
    | none => s
    | some (e0, look) =>
      let r := readRanges s t [(e0.doff, 128)]
      let d := Memory.bytes r.2.1 e0.doff 128
      let h := parseHeader d
      let headLost := r.2.2 == some e0.doff
      let s := if headLost then r.1.takeFree else r.1
      let user := if headLost then BitVec.ofNat 16 r.1.freeVal else BitVec.ofNat 16 h.user
      let engine := if headLost then 0 else h.engine
      let e := { e0 with phase := .active, desc := d, engine := engine, user := user, notify := h.notify && !headLost }
      let s := modEntry s t q e0.seq fun _ => e
      let runs := r.2.2.isNone && !(h.casc && (T.queue q).lastErr) && (headerReason h).isNone
      let va := if runs then firstMemory T d h.engine else 0
      let s := traceDesc s t q e 1 va (e.doff / 128 % 2 ^ 15)
        (BitVec.ofNat 64 (e.seq.toNat + engine * 2 ^ 32 + user.toNat * 2 ^ 48))
      match r.2.2 with
      | some off => served (decline s t q e.seq .queue 2 stStoreUncorr (BitVec.ofNat 64 off) 0) t q look.engine
      | none =>
        if h.casc ∧ (T.queue q).lastErr then served (decline s t q e.seq .queue 2 stCancelled 0 0) t q look.engine
        else match headerReason h with
          | some x => served (decline s t q e.seq .queue 2 stBadConfig (BitVec.ofNat 64 x) 0) t q look.engine
          | none =>
            if h.predOp = 0 then startEngine s t q e h
            else
              let p := readRanges s t [(h.predOff, 4)]
              match p.2.2 with
              | some off =>
                served (decline p.1 t q e.seq .queue (predCycles h + 2) stStoreUncorr (BitVec.ofNat 64 off) 0) t q look.engine
              | none =>
                let w := Memory.le p.2.1 h.predOff 4
                if predTest h.predOp w h.predVal then startEngine p.1 t q e h
                else
                  served (decline p.1 t q e.seq .queue (predCycles h + 2) stPredFalse (BitVec.ofNat 64 w) 0) t q look.engine

/-- DESCRIPTOR_START. -/
def execDescriptorStart (t q : Nat) (s : State) : Host.Outcome State Fault Refusal :=
  require (okTQ t q) (doDescriptorStart t q s)

/-- FENCE_COMPLETE (R38): every descriptor pushed to the named queues before the FENCE has completed. -/
def doFenceComplete (t q : Nat) (s : State) : State :=
  let T := s.tile t
  match (T.queue q).active 0 with
  | none => s
  | some e =>
    let mask := (parseHeader e.desc).fmask
    let open_ := [0, 1, 2, 3].any fun n => bitAt mask n && (T.queue n).entries.any fun x => decide (x.ord < e.ord)
    if open_ ∨ !(T.st == .run || T.st == .draining) then s else endEntry s t q e.seq stOk 0 0

/-- FENCE_COMPLETE. -/
def execFenceComplete (t q : Nat) (s : State) : Host.Outcome State Fault Refusal := require (okTQ t q) (doFenceComplete t q s)

/-- What the next chunk of a mover descriptor that may issue one needs. -/
def moverNeeds (s : State) (t q : Nat) : Option (QEntry × Needs) :=
  match (s.queue t q).mover with
  | none => none
  | some e =>
    if 2 ≤ e.chunks.length ∨ (parseMover e.desc).op = 3 then none else some (e, (chunkPlan s t q e).2)

/-- What the next chunk of the chain's pass needs, where the pass belongs to the queue and no chunk of it is in flight. -/
def chainNeeds (s : State) (t q : Nat) : Option (QEntry × Needs) :=
  match (s.tile t).chain with
  | none => none
  | some run =>
    if run.q ≠ q ∨ run.endStatus.isSome then none
    else match chainEntry s t run with
      | none => none
      | some e => if e.chunks = [] then some (e, (chainPlan s t run.cfg run).2) else none

/-- LEASE_REQUEST (R136, R143, R169, R171, R172): a stream without a request or a fault asks for the first lease that its
next chunk lacks, or faults on an element address outside the virtual addresses (R129). -/
def doLeaseRequest (t q : Nat) (s : State) : State :=
  let Q := s.queue t q
  if (s.tile t).st ≠ .run ∨ Q.fault.isSome ∨ Q.req.isSome then s
  else
    let try_ := fun (x : Option (QEntry × Needs)) => match x with
      | some y => if Q.meets y.2 then none else some y
      | none => none
    match (try_ (moverNeeds s t q)).or (try_ (chainNeeds s t q)) with
    | some y => leaseStep s t q y.1.seq y.2
    | none => s

/-- LEASE_REQUEST. -/
def execLeaseRequest (t q : Nat) (s : State) : Host.Outcome State Fault Refusal := require (okTQ t q) (doLeaseRequest t q s)

/-- MOVER_CHUNK_DONE (R136, R141): a chunk with every access acknowledged leaves flight; leases that no chunk needs any
more are released. -/
def doMoverChunkDone (t q chunk : Nat) (s : State) : State :=
  match (s.queue t q).active 1 with
  | none => s
  | some e => match e.chunks.find? fun c => c.idx == chunk with
    | none => s
    | some c =>
      if c.acks ≠ [] ∨ c.remote ≠ 0 ∨ c.deliveries ≠ 0 ∨ c.later ≠ [] then s
      else
        let s := modEntry s t q e.seq fun e => { e with chunks := e.chunks.filter fun c => c.idx != chunk, pos := e.pos + 1 }
        let s := if (parseMover e.desc).op = 1 then s else countTile s t 4 c.bytes
        moverFinish (releaseUnneeded s t q) t q e.seq

/-- MOVER_CHUNK_DONE. -/
def execMoverChunkDone (t q chunk : Nat) (s : State) : Host.Outcome State Fault Refusal :=
  require (okTQ t q) (doMoverChunkDone t q chunk s)

/-- COMPLETION_POST (R37, R140): `cycles` is the time from start to posting. With the completion of a descriptor, the leases
that only it needed are released (R136, R168). -/
def doCompletionPost (t q cycles : Nat) (s : State) : State :=
  if (s.tile t).st = .run ∨ (s.tile t).st = .draining then
    let s := postRecord s t q cycles
    releaseLeases s t q fun l => !leaseNeeded s t q l
  else s

/-- COMPLETION_POST. -/
def execCompletionPost (t q cycles : Nat) (s : State) : Host.Outcome State Fault Refusal :=
  require (okTQ t q) (doCompletionPost t q cycles s)

/-! ### The end of a drain -/

/-! ### The end of a move (R416, R417) -/

/-- A word in error met by the copy of a tile store: one bit is corrected; a word with two bits in error stays uncorrectable; three or more
bits stay uncorrectable or are copied wrong, as a free value has it (R31, R416, assumption 2). -/
def copyWord (t : Nat) (e : Nat × Nat) (s : State) : State :=
  let mark := fun (n : Nat) (s : State) => s.modTile t fun T => { T with storeErr := Tab.set 0 T.storeErr e.1 n }
  if e.2 = 2 then s
  else if e.2 = 1 then mark 0 s
  else if s.freeVal % 2 = 0 then mark 2 s.takeFree
  else
    let s := s.takeFree
    mark 0 (s.takeFree.modTile t fun T => { T with store := Memory.put T.store (8 * e.1) (leBytes 8 s.freeVal) })

/-- The logical tile has moved to the next spare site of its deck die, its store and all its state with it; the record of the map comes before
the event (R415, R416). The spare of a tile in RESET keeps its own zero-filled store. -/
def moveSite (s : State) (t : Nat) : State :=
  let d := deckOf t
  let old := s.physTile t
  let site := Config.tilesPerDeck + s.sparesUsed 1 d
  let s := useSpare s 1 d
  let T := s.tile t
  let s := if T.st = .reset ∧ T.load.isNone then s.modTile t fun T => { T with store := [], storeErr := [] } else forEach T.storeErr (copyWord t) s
  let s := s.modTile t fun T => { T with site := site, moved := true, correctPend := [], ueWords := [], ceWords := [] }
  let s := s.modWear fun w => { w with low := w.low.filter (· != t), queue := w.queue.filter (fun n => !sameNeed ⟨1, d, t, false⟩ n),
                                       since := w.since.filter fun e => !sameNeed ⟨1, d, t, false⟩ e.2 }
  logEvent (addRec s 4 d (s.spareMap d)) 0x0601 2 d [t, old, s.physTile t]

/-- A move ends (R416, R417): the tile goes on in RUN, and a halt that came during the move is applied. -/
def finishMove (s : State) (t : Nat) : State :=
  let s := (moveSite s t).modWear fun w => { w with moving := w.moving.filter fun n => n.res != t }
  let asked := (s.tile t).haltAsked
  let s := s.modTile t fun T => { T with st := .run, drain := .none, haltAsked := none }
  match asked with
  | some (cause, true) => haltTile s t cause
  | some (cause, false) => enterDebug s t cause
  | none => s

/-- DRAIN_COMPLETE (R53): when every engine has stopped, the tile is HALTED, STOPPED or FAULTED; a resume that waits for
HALTED then acts (R407). -/
def doDrainComplete (t : Nat) (s : State) : State :=
  let T := s.tile t
  if T.st ≠ .draining ∨ !T.engineIdle then s
  else match T.drain with
    | .none => s
    | .move => finishMove s t
    | .halt =>
      let s := tileDone opTileHalt t (s.modTile t fun T => { T with st := .halted })
      if T.core.resumeWaiting then resumeTile s t else s
    | .stop =>
      let s := forEach [0, 1, 2, 3] (stopQueue t) (chainAbort s t)
      let s := s.modTile t fun T =>
        { T with st := .stopped, drain := .none, latheQ := none, chain := none, stopAsked := false, exiting := false,
                 core := { T.core with debug := false, resumeWaiting := false } }
      tileDone opTileStop t (tileDone opTileHalt t s)
    | .fault =>
      let s := forEach [0, 1, 2, 3] (stopQueue t) (chainAbort s t)
      let s := s.modTile t fun T =>
        { T with st := .faulted, drain := .none, latheQ := none, chain := none, stopAsked := false }
      tileDone opTileStop t (tileDone opTileHalt t s)

/-- DRAIN_COMPLETE. -/
def execDrainComplete (t : Nat) (s : State) : Host.Outcome State Fault Refusal :=
  require (okTile t) (doDrainComplete t s)

end Sys2Proof.Machine
end

