-- ==== Sys2Proof/Machine/Msg.lean ====
section
/-!
DEFINITION. Routed small messages (R134, R147–R155, R270): SEND, the tests of a delivery, acceptance and refusal, and
retries.
-/

namespace Sys2Proof.Machine
open Sys2Proof

/-! ### Destinations (R148, R270) -/

/-- Where a route record's tile field leads. -/
inductive MsgDest
  | tile (t : Nat)
  | all
  | hub
  | none
  deriving DecidableEq, Repr

/-- The tile field of a map entry as a destination, by logical number or, in the compatibility view, by ring address. -/
def destOf (T : Tile) (field : Nat) : MsgDest :=
  if field = 2047 then .all
  else if T.compat then
    let r := field / 128
    let i := field % 128
    if r = 15 then .hub
    else if i < 108 ∧ r < (if T.ring8 then 8 else 12) then .tile (108 * r + i) else .none
  else if field < Config.tiles then .tile field else .none

/-- Tiles that a broadcast reaches. -/
def State.present (s : State) : List Nat := allTiles.filter fun t => (s.tile t).st != .unavailable

/-! ### Outcomes at the sender (R155) -/

/-- A refusal of a delivery noted with the sending descriptor: the first one of each record is kept (R155). -/
def noteRefused (s : State) (f : Flight) (cause : Nat) : State :=
  match (s.queue f.srcTile f.srcQueue).active 1 with
  | none => s
  | some e => modEntry s f.srcTile f.srcQueue e.seq fun e =>
      if e.firstCauses.any fun x => x.1 == f.msgIdx then e else { e with firstCauses := (f.msgIdx, cause) :: e.firstCauses }

/-- The first refusal of a record of a SEND (R155). -/
def QEntry.firstCause (e : QEntry) (rec_ c : Nat) : Nat :=
  match e.firstCauses.find? fun x => x.1 == rec_ with
  | some x => x.2
  | none => c

/-- A delivery of a message has its outcome: accepted, or finally refused with a cause. -/
def settle (s : State) (f : Flight) (cause : Option Nat) : State :=
  let s := { s with msgs := s.msgs.filter fun x => x.id != f.id }
  match (s.queue f.srcTile f.srcQueue).active 1 with
  | none => s
  | some e =>
    let s := modChunk s f.srcTile f.srcQueue e.seq f.chunk fun c => { c with deliveries := c.deliveries - 1 }
    let s := match cause with
      | none => s
      | some c => modEntry s f.srcTile f.srcQueue e.seq fun e =>
          let first := match e.refusedRec with
            | none => (f.msgIdx, e.firstCause f.msgIdx c)
            | some r => if f.msgIdx < r.1 then (f.msgIdx, e.firstCause f.msgIdx c) else r
          { e with refusals := e.refusals + 1, refusedRec := some first }
    traceTile s f.srcTile { typ := 7, queue := f.srcQueue, tag := f.space, pc := e.pushPc, aux := cause.getD 0, data := f.entry }

/-- Cause codes of a refused delivery (R151). -/
def mcRingFull : Nat := 0x01
/-- CHANNEL_OFF. -/
def mcChannelOff : Nat := 0x02
/-- TOO_LONG. -/
def mcTooLong : Nat := 0x03
/-- NOT_RUNNING. -/
def mcNotRunning : Nat := 0x04
/-- FOREIGN. -/
def mcForeign : Nat := 0x05
/-- NO_ROW. -/
def mcNoRow : Nat := 0x06
/-- STALE_ROLE. -/
def mcStaleRole : Nat := 0x07
/-- UNREACHABLE. -/
def mcUnreachable : Nat := 0x08
/-- BAD_RECORD. -/
def mcBadRecord : Nat := 0x09

/-- A refusal reaches the sending mover (R152, R155): RING_FULL is retried while RETRY allows, any other is final. -/
def refusalBack (s : State) (f : Flight) (cause : Nat) : State :=
  let s := noteRefused (tileEvent s f.srcTile 0x0E none 1) f cause
  let retry := (s.tile f.srcTile).retry
  let now := s.tick.boundaries
  let first := f.firstRefused.getD now
  if cause = mcRingFull ∧ retry ≠ 0 ∧ now - first < retry then
    { s with msgs := s.msgs.map fun x =>
        if x.id = f.id then { x with refused := none, firstRefused := some first, wait := some now } else x }
  else settle s f (some cause)

/-! ### SEND (R134, R147–R149) -/

/-- The 32 B slot header of a message (R150). -/
def slotHeader (s : State) (t : Nat) (e : QEntry) (len w0 w1 entry : Nat) : List Byte :=
  leBytes 4 s.node.logical ++ leBytes 2 t ++ leBytes 2 len ++ leBytes 4 (w0 % 2 ^ 27) ++ leBytes 4 w1 ++ leBytes 2 e.user.toNat ++
    leBytes 2 (fld entry 54 10) ++ leBytes 4 s.tick.num.toNat ++ leBytes 8 0

/-- A header without SRC_NODE, as a packet carries it (R281). -/
def noSrcNode (h : List Byte) : List Byte := leBytes 4 0 ++ h.drop 4

/-- The packet of a message to another node (R281): the slot header and the row, or the mask of a signal in 4 B
(assumption 33). -/
def msgPkt (f : Flight) : Pkt :=
  { cls := 2, typ := if f.signal then 2 else 1, addr := f.dst % 2048 + f.chan * 2048,
    payload := if f.signal then leBytes 4 f.bits.toNat else noSrcNode f.hdr ++ f.payload,
    len := if f.signal then 4 else 32 + f.payload.length }

/-- A delivery sent toward another node; one that no path carries is refused here (R148, R287). -/
def sendFar (s : State) (node : Nat) (f : Flight) : State :=
  let r := sendTagged s node (msgPkt f) (.message f.id) node 0
  match r.2 with
  | .refused c => refusalBack r.1 f c
  | _ => r.1

/-- A delivery that starts: numbered, and counted by its chunk. -/
def launchFlight (s : State) (seq : W32) (f : Flight) : State × Flight :=
  let f := { f with id := s.msgId }
  let s := { s with msgId := s.msgId + 1, msgs := s.msgs ++ [f] }
  (modChunk s f.srcTile f.srcQueue seq f.chunk fun c => { c with deliveries := c.deliveries + 1 }, f)

/-- The bytes that follow the head packet of a message: none for a signal (R260). -/
def sentBytes (f : Flight) : Nat := if f.signal then 0 else f.payload.length

/-- The deliveries of one record that passes the sender's tests (R148). -/
def sendRecord (s : State) (t : Nat) (seq : W32) (f : Flight) (node field : Nat) : State :=
  let s := tileEvent s t 0x0D none 1
  let d := destOf (s.tile t) field
  match d with
  | .none =>
    let r := launchFlight s seq f
    refusalBack r.1 r.2 mcUnreachable
  | .hub =>
    let r := launchFlight s seq f
    settle ((msgPackets r.1 (tileEnd t) headEnd (sentBytes f)).send (.hub (f.hdr ++ f.payload))) r.2 none
  | _ =>
    if s.ownNode node then
      let to_ := match d with
        | .tile x => [x]
        | _ => s.present
      forEach to_ (fun x s => msgPackets (launchFlight s seq { f with dst := x }).1 (tileEnd t) (tileEnd x) (sentBytes f)) s
    else
      let dst := match d with
        | .tile x => x
        | _ => 2047
      let r := launchFlight s seq { f with dst := dst, remote := true }
      sendFar r.1 node r.2

/-- The test of a route record at the sender (R147, R149): NO_ROW, then BAD_RECORD. -/
def recordCause (e : QEntry) (w0 : Nat) : Option Nat :=
  if !bitAt w0 31 ∧ (e.trec 0).rows ≤ w0 % 2 ^ 24 then some mcNoRow
  else if fld w0 27 4 ≠ 0 then some mcBadRecord else none

/-- The ranges of tile store that record `i` of a SEND reads: the record, and the elements of its row. -/
def sendRanges (e : QEntry) (c : MoverCfg) (w0 : Nat) : List (Nat × Nat) :=
  if bitAt w0 31 ∨ (e.trec 0).rows ≤ w0 % 2 ^ 24 then []
  else (rangeFrom 0 ((e.trec 0).e 0)).map fun i =>
    ((e.trec 0).at c.es ((e.trec 0).index (i + (e.trec 0).e 0 * (w0 % 2 ^ 24))), c.es)

/-- The next message of a SEND issued (R134, R149): each message is one chunk. -/
def issueMessage (s : State) (t q : Nat) (e : QEntry) : State :=
  let c := parseMover e.desc
  let off := c.routeOff + 16 * e.elem
  let r := readRanges s t [(off, 16)]
  let w0 := Memory.le r.2.1 off 4
  let w1 := Memory.le r.2.1 (off + 4) 4
  let entry := Memory.le r.2.1 (off + 8) 8
  let ranges := sendRanges e c w0
  let x := readRanges r.1 t ranges
  let payload := ranges.flatMap fun y => Memory.bytes x.2.1 y.1 y.2
  let idx := e.issued
  let s := modEntry x.1 t q e.seq fun y =>
    { y with chunks := y.chunks ++ [{ idx := idx, bytes := payload.length }], issued := y.issued + 1, elem := y.elem + 1 }
  let s := (tileEvent s t 0x0A (some q) 1).modTile t fun T => { T with moverLast := q }
  let s := tileCycles (moverCycles s t q) t
  let s := traceDesc s t q e 3 0 (idx % 65536) (e.seq.setWidth 64)
  match r.2.2.or x.2.2 with
  | some bad => modEntry s t q e.seq fun y => y.fail 0 stStoreUncorr bad
  | none =>
    let f : Flight :=
      { id := 0, srcTile := t, srcQueue := q, chunk := idx, msgIdx := e.elem, dst := 0, chan := fld entry 35 2,
        signal := bitAt w0 31, bits := BitVec.ofNat 32 w1, space := (s.tile t).space,
        hdr := slotHeader s t e payload.length w0 w1 entry, payload := payload, entry := BitVec.ofNat 64 entry }
    match recordCause e w0 with
    | some cause =>
      let r := launchFlight s e.seq f
      refusalBack r.1 r.2 cause
    | none => sendRecord s t e.seq f (fld entry 0 24) (fld entry 24 11)

/-- SEND_MESSAGE (R134): the tile mover sends the message of the next route record. -/
def doSendMessage (t q : Nat) (s : State) : State :=
  match moverTurn s t q with
  | none => s
  | some e => if (parseMover e.desc).op = 3 then issueMessage s t q e else s

/-- SEND_MESSAGE. -/
def execSendMessage (t q : Nat) (s : State) : Host.Outcome State Fault Refusal := require (okTQ t q) (doSendMessage t q s)

/-! ### Delivery (R150, R151) -/

/-- A tile takes messages: RUN, HALTED or DRAINING. -/
def Tile.running (T : Tile) : Bool := T.st == .run || T.st == .halted || T.st == .draining

/-- The cause for which a tile refuses a data message: the first test of R151 that fails. `inside` gives the sender's
space tag for a sender of the same node, and else whether the job matches. -/
def dataCause (T : Tile) (inside : Option Nat) (jobOk : Bool) (chan len : Nat) : Option Nat :=
  let c := T.chan chan
  let foreign : Bool := match inside with
    | some tag => tag != T.space
    | none => !c.remote || !jobOk
  firstBad [(!T.running, mcNotRunning), (foreign, mcForeign), (!c.enable, mcChannelOff),
    (decide (2 ^ c.slotLog2 < len + 32), mcTooLong), ((c.head - c.tail).toNat == 2 ^ c.cntLog2, mcRingFull)]

/-- The cause for which a tile refuses a signal. -/
def signalCause (T : Tile) (inside : Option Nat) (jobOk : Bool) : Option Nat :=
  let foreign : Bool := match inside with
    | some tag => tag != T.space
    | none => !jobOk
  firstBad [(!T.running, mcNotRunning), (foreign, mcForeign)]

/-- A refusal counted in the channel's RXREF (R157). -/
def countRefused (s : State) (t chan cause : Nat) : State :=
  s.modTile t fun T =>
    let c := T.chan chan
    if cause = mcRingFull then T.setChan chan { c with full := satAdd 0xFFFF c.full 1 }
    else if cause = mcChannelOff ∨ cause = mcTooLong then T.setChan chan { c with other := satAdd 0xFFFF c.other 1 }
    else T

/-- The header as a tile receives it: SRC_TILE by ring address in the compatibility view (R270). -/
def recvHeader (T : Tile) (h : List Byte) : List Byte :=
  let src := fieldAt h 4 2
  h.take 4 ++ leBytes 2 (if T.compat then ringAddr src else src) ++ h.drop 6

/-- An accepted data message (R150): the slot is written, HEAD rises, and MSG_n becomes pending. -/
def acceptData (s : State) (t chan : Nat) (hdr payload : List Byte) : State :=
  let T := s.tile t
  let c := T.chan chan
  let slot := 64 * (c.base / 64) + 2 ^ c.slotLog2 * (c.head.toNat % 2 ^ c.cntLog2)
  let s := (enginePut s t slot (recvHeader T hdr ++ payload)).1
  let s := s.modTile t fun T => T.setChan chan { T.chan chan with head := (T.chan chan).head + 1 }
  raiseSrc (tileEvent s t 0x0F none 1) t (16 + chan)

/-- An accepted signal (R147): SOFT_i becomes pending for each set bit. -/
def acceptSignal (s : State) (t : Nat) (bits : W32) : State :=
  forEach (maskBits 32 bits.toNat) (fun i s => raiseSrc s t (32 + i)) (tileEvent s t 0x0F none 1)

/-- One data delivery tested and taken, or refused with a cause. -/
def tryData (s : State) (t : Nat) (inside : Option Nat) (jobOk : Bool) (chan : Nat) (hdr payload : List Byte) :
    State × Option Nat :=
  match dataCause (s.tile t) inside jobOk chan payload.length with
  | some c => (countRefused s t chan c, some c)
  | none => (acceptData s t chan hdr payload, none)

/-- One signal delivery tested and taken, or refused with a cause. -/
def trySignal (s : State) (t : Nat) (inside : Option Nat) (jobOk : Bool) (bits : W32) : State × Option Nat :=
  match signalCause (s.tile t) inside jobOk with
  | some c => (s, some c)
  | none => (acceptSignal s t bits, none)

/-- A flight of this node has neither arrived nor been refused. -/
def Flight.moving (f : Flight) : Bool := !f.remote && f.refused.isNone && f.wait.isNone

/-- A flight of this node that is on its way to a tile. Truss delivers those of one tile to another in the order in which they were sent
(R259), so it is the oldest of its flow. -/
def State.onWay (s : State) (id : Nat) (signal : Bool) : Option Flight :=
  match s.msgs.find? fun f => f.id == id && f.signal == signal && f.moving with
  | none => none
  | some f => if s.msgs.find? (fun x => x.srcTile == f.srcTile && x.dst == f.dst && x.moving) = some f then some f else none

/-- A flight's outcome at its destination: settled, or its refusal on the way back. -/
def flightOutcome (s : State) (f : Flight) (cause : Option Nat) : State :=
  match cause with
  | none => settle s f none
  | some c =>
    packet { s with msgs := s.msgs.map fun x => if x.id = f.id then { x with refused := some c } else x } vcTrussCtrl true
      (tileEnd f.dst) (tileEnd f.srcTile) 2 0 32

/-- The answer to a message from another node (R281, R288): an ACK, or a NACK whose payload lists the tiles that refused a
broadcast with their causes (assumption 33). -/
def answerMsg (s : State) (p : Pkt) (refs : List (Nat × Nat)) : State :=
  match refs with
  | [] => respond s p 2 0 false []
  | x :: _ =>
    nackPkt s p x.2 (if p.addr % 2048 = 2047 then refs.flatMap fun y => leBytes 2 y.1 ++ leBytes 2 y.2 else [])

/-- The tiles that a message from another node names by its tile field: 2047 for every tile (R148). -/
def State.msgTiles (s : State) (p : Pkt) : List Nat := if p.addr % 2048 = 2047 then s.present else [p.addr % 2048]

/-- A message from another node delivered to each tile that its tile field names (R148, R288). One for a tile on the move is held (R154). -/
def arriveMsg (s : State) (port : Nat) (p : Pkt) (f : Nat → State → State × Option Nat) : State :=
  if !s.takes port p ∨ p.dphys ≠ s.node.phys ∨ (s.roleOk p ∧ (s.msgTiles p).any fun t => (s.tile t).moving) then s
  else
  let s := countRx s port p
  if !s.roleOk p then nackPkt s p mcStaleRole []
  else
    let field := p.addr % 2048
    if field ≠ 2047 ∧ Config.tiles ≤ field then nackPkt s p mcUnreachable []
    else
      let r := (s.msgTiles p).foldl (fun (r : State × List (Nat × Nat)) t =>
        let x := f t (msgPackets r.1 (portEnd port) (tileEnd t) (if p.typ = 2 then 0 else p.payload.length - 32))
        (x.1, match x.2 with
          | some c => r.2 ++ [(t, c)]
          | none => r.2)) (s, [])
      answerMsg r.1 p r.2

/-- MSG_DATA_DELIVERY (R150, R151); a message to a tile on the move is held (R154). `flips` names the bits of the slot header and the payload that flip on the way (R153, R262). -/
def doMsgDataDelivery (m : MsgSrc) (flips : Flips) (s : State) : State :=
  match m with
  | .inside id => match s.onWay id false with
    | none => s
    | some f =>
      if (s.tile f.dst).moving then s
      else
        let r := tryData s f.dst (some f.space) true f.chan (arrive flips 0 f.hdr) (arrive flips 32 f.payload)
        flightOutcome r.1 f r.2
  | .outside port p =>
    if p.cls ≠ 2 ∨ p.typ ≠ 1 then s
    else
      let hdr := leBytes 4 p.slog ++ (p.payload.take 32).drop 4
      arriveMsg s port p fun t s =>
        tryData s t none (p.job == s.job.id) (fld p.addr 11 2) (arrive flips 0 hdr) (arrive flips 32 (p.payload.drop 32))

/-- The port of a message from another node exists. -/
def okMsgSrc (m : MsgSrc) : Bool :=
  match m with
  | .inside _ => true
  | .outside port _ => decide (port < Config.ports)

/-- MSG_DATA_DELIVERY. -/
def execMsgDataDelivery (m : MsgSrc) (s : State) (flips : Flips := []) : Host.Outcome State Fault Refusal :=
  require (okMsgSrc m) (doMsgDataDelivery m flips s)

/-- MSG_SIGNAL_DELIVERY (R147, R151). -/
def doMsgSignalDelivery (m : MsgSrc) (s : State) : State :=
  match m with
  | .inside id => match s.onWay id true with
    | none => s
    | some f =>
      if (s.tile f.dst).moving then s
      else
        let r := trySignal s f.dst (some f.space) true f.bits
        flightOutcome r.1 f r.2
  | .outside port p =>
    if p.cls ≠ 2 ∨ p.typ ≠ 2 then s
    else arriveMsg s port p fun t s => trySignal s t none (p.job == s.job.id) (BitVec.ofNat 32 (leNat p.payload))

/-- MSG_SIGNAL_DELIVERY. -/
def execMsgSignalDelivery (m : MsgSrc) (s : State) : Host.Outcome State Fault Refusal := require (okMsgSrc m) (doMsgSignalDelivery m s)

/-- DELIVERY_REFUSAL (R151, R152, R155): a tile's refusal returns to the sending mover. -/
def doDeliveryRefusal (id cause : Nat) (s : State) : State :=
  match s.msgs.find? fun f => f.id == id && f.refused == some cause with
  | none => s
  | some f => refusalBack s f cause

/-- DELIVERY_REFUSAL. -/
def execDeliveryRefusal (id cause : Nat) (s : State) : Host.Outcome State Fault Refusal :=
  require true (doDeliveryRefusal id cause s)

/-- MSG_RETRY (R152): at a boundary after its refusal, a delivery refused with RING_FULL is sent again, behind those sent since; when RETRY ticks
have passed since the first refusal it stays refused. -/
def doMsgRetry (id : Nat) (s : State) : State :=
  match s.msgs.find? fun f => f.id == id with
  | none => s
  | some f => match f.wait, f.firstRefused with
    | some w, some first =>
      if s.tick.boundaries ≤ w then s
      else if (s.tile f.srcTile).retry < s.tick.boundaries - first then settle s f (some mcRingFull)
      else
        let s := { s with msgs := (s.msgs.filter fun x => x.id != id) ++ [{ f with wait := none }] }
        if f.remote then sendFar s (fld f.entry.toNat 0 24) f
        else msgPackets s (tileEnd f.srcTile) (tileEnd f.dst) (sentBytes f)
    | _, _ => s

/-- MSG_RETRY. -/
def execMsgRetry (id : Nat) (s : State) : Host.Outcome State Fault Refusal := require true (doMsgRetry id s)

/-! ### Answers from other nodes (R152, R153) -/

/-- A message to another node is answered: accepted; refused as a whole; or, for a broadcast, refused by the tiles that
the answer lists, each of which is then a delivery of its own. -/
def farAnswer (s : State) (id : Nat) (cause : Option Nat) (list_ : List Byte) : State :=
  match s.msgs.find? fun f => f.id == id && f.remote with
  | none => s
  | some f =>
    match cause with
    | none => settle s f none
    | some c =>
      if f.dst ≠ 2047 ∨ list_ = [] then refusalBack s f c
      else match (s.queue f.srcTile f.srcQueue).active 1 with
        | none => settle s f none
        | some e =>
          let s := forEach (rangeFrom 0 (list_.length / 4)) (fun i s =>
            let r := launchFlight s e.seq { f with dst := fieldAt list_ (4 * i) 2 }
            refusalBack r.1 r.2 (fieldAt list_ (4 * i + 2) 2)) s
          settle s f none

end Sys2Proof.Machine
end

