-- ==== Sys2Proof/Machine/TileLife.lean ====
section
/-!
DEFINITION. The life of a tile: reset, the fill of its store, image loads, start, stop, halt, resume, tests and status, by
the TILE commands (R32, R49–R54, R341).
-/

namespace Sys2Proof.Machine
open Sys2Proof

/-- Opcode of TILE_RESET (R341). -/
def opTileReset : Nat := 0x0C01
/-- Opcode of TILE_LOAD. -/
def opTileLoad : Nat := 0x0C02
/-- Opcode of TILE_TEST. -/
def opTileTest : Nat := 0x0802

/-! ### TILESET (R341) -/

/-- A TILESET names a tile that does not exist. -/
def badTileSet (ts : TileSet) : Bool := decide (ts.count ≠ 0 ∧ Config.tiles < ts.first + ts.count)

/-- The tiles that a TILESET names, in ascending order. -/
def tilesNamed (ts : TileSet) : List Nat :=
  if ts.count ≠ 0 then rangeFrom ts.first ts.count else maskBits Config.tiles ts.mask.toNat

/-- A command on a TILESET that every named tile's state must allow: else it is refused with TILE_STATE, which names the
first tile that does not and its state, and acts on no tile (R341). -/
def onTiles (r : Req) (ts : TileSet) (allowed : TileSt → Bool) (act : State → State) (s : State) : State :=
  match (tilesNamed ts).find? fun t => !allowed (s.tile t).st with
  | some t => replyFinal s r.client r.slot ((s.slot r.client r.slot).picked.getD ⟨0, 0, false, false, 0, 0, 0, 0⟩)
      bsTileState [(4, t), (4, stCode (s.tile t).st)]
  | none => act s

/-- No named tile is on the move to a spare site, during which TILE commands that name it are held (R416). -/
def noMove (s : State) (ts : TileSet) : Bool := (tilesNamed ts).all fun t => !(s.tile t).moving

/-- No named tile has an image load under way, for which a later command on it waits (R335), or is on the move. -/
def noLoad (s : State) (ts : TileSet) : Bool := (tilesNamed ts).all fun t => (s.tile t).load.isNone && !(s.tile t).moving

/-! ### TILE_RESET (R32, R49) -/

/-- A tile reset: its core, Trestle, queues, registers and counters; its parked faults are withdrawn and its leases
released (R49, R168, R184, R387). What wear management keeps of the site stays. -/
def resetTile (t : Nat) (s : State) : State :=
  let s := forEach [0, 1, 2, 3] (fun q s => releaseLeases (withdrawFault s t q) t q fun _ => true) s
  let s := resetTileCtrs t s
  s.modTile t fun T => { site := T.site, moved := T.moved, lost := T.lost, ueWords := T.ueWords, ceWords := T.ceWords, filling := true }

/-- TILE_RESET (R49): a long operation that ends when the last store has been filled. -/
def doTileReset (r : Req) (ts : TileSet) (s : State) : State :=
  if !noLoad s ts then s
  else
    command r opTileReset [(badTileSet ts, bsBadParam)] 0 (fun p =>
      onTiles r ts (fun x => x == .reset || x == .loaded || x == .stopped || x == .faulted) fun s =>
        let ts' := tilesNamed ts
        let s := forEach ts' resetTile (acceptLong s r.client r.slot p 6 ts'.length ts')
        if ts' = [] then finishOp s (handleOf r.client r.slot p.seq) bsCompleted [] else s) s

/-- TILE_RESET. -/
def execTileReset (r : Req) (ts : TileSet) (s : State) : Host.Outcome State Fault Refusal :=
  require (okReq r) (doTileReset r ts s)

/-! ### TILE_LOAD (R49, R340, R341) -/

/-- Bytes of a chunk of an image. -/
def loadChunk : Nat := 65536

/-- Chunks of an image. -/
def LoadRun.chunks (l : LoadRun) : Nat := ceilDiv l.len loadChunk

/-- The position of a load in hundredths of a per cent: the chunks done of every tile that the command named. -/
def loadPosition (s : State) (o : LongOp) (l : LoadRun) : Nat :=
  let todo := o.left.foldl (fun n t => n + match (s.tile t).load with
    | some x => l.chunks - x.pos
    | none => l.chunks) 0
  if l.chunks * l.share = 0 then 10000 else 10000 * (l.chunks * l.share - todo) / (l.chunks * l.share)

/-- The leases of a load that a test selects released (R49, R168). -/
def dropLoadLeases (s : State) (t : Nat) (p : Lease → Bool) : State :=
  match (s.tile t).load with
  | none => s
  | some l =>
    invPositions (s.modTile t fun T => { T with load := some { l with leases := l.leases.filter fun x => !p x } }) l.tag

/-- A tile's load ends: its leases are released, and STATE becomes LOADED. -/
def endLoad (t : Nat) (s : State) : State :=
  (dropLoadLeases s t fun _ => true).modTile t fun T => { T with load := none, st := .loaded }

/-- A load that another tile's error or an abort ends (R49, R341): a tile whose store is still being filled becomes LOADED
when the fill ends, and every other at once. -/
def stopLoad (t : Nat) (s : State) : State :=
  if (s.tile t).filling then s.modTile t fun T => { T with load := T.load.map fun l => { l with len := 0, handle := 2 ^ 32 } }
  else endLoad t s

/-- The tiles that still load under a handle. -/
def loadingTiles (s : State) (handle : Nat) : List Nat :=
  (s.tiles.filter fun x => match x.2.load with
    | some l => l.handle == handle
    | none => false).map (·.1)

/-- A load ends for one tile: the operation goes on, or reports COMPLETED with its last tile. -/
def tileLoaded (s : State) (t : Nat) (l : LoadRun) : State :=
  let s := endLoad t s
  match s.op l.handle with
  | none => s
  | some o =>
    let o := { o with left := o.left.filter (· != t) }
    let s := s.modBelul fun b => { b with ops := b.ops.map fun x => if x.handle = o.handle then { x with left := o.left } else x }
    let s := setPosition s l.handle (loadPosition s o l)
    if o.left = [] then finishOp s l.handle bsCompleted [] else s

/-- A load ends with an error (R340): every tile of the command stops. -/
def loadError (s : State) (t : Nat) (l : LoadRun) (e : Nat × Nat × Nat) : State :=
  let s := match s.op l.handle with
    | some o => setPosition s l.handle (loadPosition s o l)
    | none => s
  let s := forEach (loadingTiles s l.handle) stopLoad s
  finishOp s l.handle e.1 [(4, t), (4, e.2.1), (8, e.2.2)]

/-- A piece of an image in one extent: brought, asked of another node, or what ends the load. -/
structure Piece where
  bytes : List Byte := []
  far : Nat := 0
  err : Option (Nat × Nat × Nat) := none

/-- The cause of LOAD_ERROR for a poisoned line (R340). -/
def causePoison : Nat := 1
/-- The cause of LOAD_ERROR for an error of the tile store. -/
def causeStore : Nat := 2

/-- Requests of at most eight lines for a range of another node's memory (R281): the state, and the answers to come. -/
def askFar : Nat → State → Nat → Nat → Nat → Nat → State × Piece
  | 0, s, _, _, _, _ => (s, {})
  | n + 1, s, t, va, pa, len =>
    if len = 0 then (s, {})
    else
      let k := min len (min (128 * (pa / 128 + 8) - pa) (2 ^ 35 - pa % 2 ^ 35))
      let r := sendRemote s pa 1 k 0 [] (.load t va k)
      match r.2 with
      | .refused _ => (r.1, { err := some (bsLoadError, causePoison, va) })
      | .away =>
        let x := askFar n r.1 t (va + k) (pa + k) (len - k)
        (x.1, { x.2 with bytes := List.replicate k 0 ++ x.2.bytes, far := x.2.far + 1 })
      | .done a =>
        if a.poison then
          let p := poisonedCws r.1 (cwsOf va k)
          (p.1, { err := some (bsLoadError, causePoison, 64 * p.2.headD 0) })
        else
          let x := askFar n r.1 t (va + k) (pa + k) (len - k)
          (x.1, { x.2 with bytes := a.data ++ x.2.bytes })

/-- The lease of a load for an address: one that it holds, or one granted from an extent entry or by a walk, with the counts
of a lease (R49, R171, R392); or the fault. A lease that an invalidation has overtaken serves no further chunk (R176). -/
def loadLease (s : State) (t tag va : Nat) : State × (Lease ⊕ Nat) :=
  let held : Option Lease := match (s.tile t).load with
    | some l => l.leases.find? fun x => x.covers va && x.gen == s.gen tag
    | none => none
  match held with
  | some l => (s, .inl l)
  | none =>
    let s := bump s (unitCtr ksBase 0) 1
    if !s.served tag then (s, .inr 1)
    else
      let r : State × (Extent ⊕ Nat) := match s.extent tag va with
        | some x => (touchExtent (bump s (unitCtr ksBase 1) 1) x, .inl x)
        | none =>
          let w := walk (bump (bump s (unitCtr ksBase 2) 1) (spaceCtr tag 9) 1) tag va
          match w.2 with
          | .fault code _ _ => (w.1, .inr code)
          | .leaf level e => let x := extentOf tag (w.1.gen tag) va level e; (putExtent w.1 x, .inl x)
      match r.2 with
      | .inr code => (r.1, .inr code)
      | .inl x => match deniedCode x.leaf.toNat true false false with
        | some (code, _) => (r.1, .inr code)
        | none =>
          let l := leaseOf tag x
          let s := (bump r.1 (spaceCtr tag 8) 1).modTile t fun T =>
            { T with load := T.load.map fun (y : LoadRun) => { y with leases := y.leases ++ [l] } }
          (s, .inl l)

/-- A range of an image brought under leases of a tag, extent by extent. An address outside the virtual addresses is a fault
(R179). -/
def loadBytes : Nat → State → Nat → Nat → Nat → Nat → State × Piece
  | 0, s, _, _, _, _ => (s, {})
  | n + 1, s, t, tag, va, len =>
    if len = 0 then (s, {})
    else
      let r := if 2 ^ 57 ≤ va then (bump s (unitCtr ksBase 0) 1, .inr 8) else loadLease s t tag va
      match r.2 with
      | .inr code => (r.1, { err := some (bsXlateFault, code, va) })
      | .inl x =>
        let k := min len (x.vbase + leaseBytes x.size - va)
        let pa := x.pa va
        let y : State × Piece :=
          if x.rm then askFar 66 r.1 t va pa k
          else
            let s := forEach (cwsOf pa k) (fun cw s => accessTrip s (tileEnd t) x.hc 0 (64 * cw) 0 64) r.1
            let d := if x.hc then cohRead s pa k else readPool s pa k
            (d.1, { bytes := d.2.1, err := d.2.2.map fun cw => (bsLoadError, causePoison, va + cw - pa) })
        match y.2.err with
        | some _ => y
        | none =>
          let z := loadBytes n y.1 t tag (va + k) (len - k)
          (z.1, { z.2 with bytes := y.2.bytes ++ z.2.bytes, far := y.2.far + z.2.far })

/-- A chunk whose bytes have all come, written to the store (R30, R31). -/
def putChunk (s : State) (t : Nat) (l : LoadRun) : State × Option (Nat × Nat × Nat) :=
  let T := s.tile t
  let at_ := l.pos * loadChunk
  let k := min loadChunk (l.len - at_)
  let r := enginePut s t (l.off + at_) (Memory.bytes l.staged (l.va + at_) k)
  match r.2 with
  | some w => (r.1.modTile t fun X => { X with store := T.store, storeErr := T.storeErr }, some (bsLoadError, causeStore, w))
  | none => (r.1, none)

/-- A chunk of a load done: its leases of older generations are dropped, and those that no later chunk touches are released
(R136, R138, R176). -/
def loadNext (s : State) (t : Nat) (l : LoadRun) : State :=
  let leases := match (s.tile t).load with
    | some x => x.leases
    | none => []
  let s := s.modTile t fun T => { T with load := some { l with pos := l.pos + 1, staged := [], leases := leases } }
  dropLoadLeases s t fun x =>
    decide (x.gen < s.gen x.tag ∨ x.vbase + leaseBytes x.size ≤ l.va + (l.pos + 1) * loadChunk)

/-- The next chunk of a load is brought: the load with what has come and what is still to come, and what ends it. -/
def bringChunk (s : State) (t : Nat) (l : LoadRun) : State × LoadRun × Option (Nat × Nat × Nat) :=
  let at_ := l.pos * loadChunk
  let r := loadBytes 8 s t l.tag (l.va + at_) (min loadChunk (l.len - at_))
  let l := { l with staged := Memory.put [] (l.va + at_) r.2.bytes, wait := r.2.far }
  match r.2.err with
  | some e => (r.1, l, some e)
  | none => (r.1.modTile t fun T => { T with load := some { l with leases := (T.load.map (·.leases)).getD [] } }, l, none)

/-- One chunk of a load, or its end: the state, and whether the load goes on at once. -/
def loadStep (s : State) (t : Nat) : State × Bool :=
  match (s.tile t).load with
  | none => (s, false)
  | some l =>
    if l.chunks ≤ l.pos then (tileLoaded s t l, false)
    else
      let r := bringChunk s t l
      match r.2.2 with
      | some e => (loadError r.1 t l e, false)
      | none =>
        if r.2.1.wait ≠ 0 then (r.1, false)
        else
          let w := putChunk r.1 t r.2.1
          match w.2 with
          | some e => (loadError w.1 t r.2.1 e, false)
          | none => (loadNext w.1 t r.2.1, true)

/-- A load goes on, chunk by chunk, until it ends or waits for answers of other nodes. -/
def loadGo : Nat → State → Nat → State
  | 0, s, _ => s
  | n + 1, s, t =>
    let r := loadStep s t
    if r.2 then loadGo n r.1 t else r.1

/-- Chunks of the longest image, and one step to end it. -/
def loadFuel : Nat := 50

/-- A load acts: its trace record and its entry for an arming (R403, R405), then its chunks. -/
def actLoad (t : Nat) (s : State) : State :=
  match (s.tile t).load with
  | none => s
  | some l =>
    let s := if l.len = 0 then s
      else
        let s := s.modTile t fun T => { T with loads := T.loads ++ [⟨l.tag, l.va, l.off, l.len⟩] }
        traceTile s t { typ := 10, tag := l.tag, va := l.va, data := BitVec.ofNat 64 (l.off + l.len * 2 ^ 32) }
    loadGo loadFuel s t

/-- An answer from another node for a load: its bytes are kept, or what ends the load; with the last answer of a chunk the
load goes on. -/
def loadAnswer (s : State) (t va len : Nat) (data : List Byte) (bad : Bool) : State :=
  match (s.tile t).load with
  | none => s
  | some l =>
    if l.wait = 0 then s
    else
      let p := if bad then poisonedCws s (cwsOf va len) else (s, [])
      let s := p.1
      let err := l.err.or (p.2.head?.map fun cw => (bsLoadError, causePoison, 64 * cw))
      let l := { l with staged := if bad then l.staged else Memory.put l.staged va (data.take len), wait := l.wait - 1, err := err }
      let s := s.modTile t fun T => { T with load := some l }
      if l.wait ≠ 0 then s
      else match l.err with
        | some e => loadError s t l e
        | none =>
          let w := putChunk s t l
          match w.2 with
          | some e => loadError w.1 t l e
          | none => loadGo loadFuel (loadNext w.1 t l) t

/-- The parameters of a TILE_LOAD break the limits of R49. -/
def badLoad (len off tag : Nat) : Bool :=
  decide (len = 0 ∨ Config.storeBytes < len ∨ Config.storeBytes < off + len ∨ 4096 ≤ tag)

/-- TILE_LOAD (R49): each tile loads the image, at once or when its fill has ended (R32). -/
def doTileLoad (r : Req) (ts : TileSet) (va len off tag : Nat) (s : State) : State :=
  if !noLoad s ts then s
  else
    command r opTileLoad [(badTileSet ts, bsBadParam), (badLoad len off tag, bsBadParam)] 0 (fun p =>
      onTiles r ts (fun x => x == .reset || x == .loaded) fun s =>
        let ts' := tilesNamed ts
        let h := handleOf r.client r.slot p.seq
        let s := acceptLong s r.client r.slot p 1 10000 ts'
        let l : LoadRun := { handle := h, va := va, off := off, len := len, tag := tag, share := ts'.length }
        let s := forEach ts' (fun t s => s.modTile t fun T => { T with load := some l }) s
        if ts' = [] then finishOp (setPosition s h 10000) h bsCompleted []
        else forEach (ts'.filter fun t => !(s.tile t).filling) actLoad s) s

/-- TILE_LOAD. -/
def execTileLoad (r : Req) (ts : TileSet) (va len off tag : Nat) (s : State) : Host.Outcome State Fault Refusal :=
  require (okReq r && decide (va < 2 ^ 64) && decide (len < 2 ^ 32) && decide (off < 2 ^ 32) && decide (tag < 2 ^ 16))
    (doTileLoad r ts va len off tag s)

/-- STORE_FILL_COMPLETE (R32): the zero-fill of the tile store ends, the reset of the tile is done, and a held load
acts. -/
def doStoreFillComplete (t : Nat) (s : State) : State :=
  if !(s.tile t).filling then s
  else actLoad t (tileDone opTileReset t (s.modTile t fun T => { T with filling := false }))

/-- STORE_FILL_COMPLETE. -/
def execStoreFillComplete (t : Nat) (s : State) : Host.Outcome State Fault Refusal :=
  require (okTile t) (doStoreFillComplete t s)

/-! ### TILE_START (R50) -/

/-- A tile program starts (R50): the completion rings are cleared, and the core begins at the entry offset with the argument
in a0 and the logical tile number in a1. -/
def startTile (tag entry arg : Nat) (t : Nat) (s : State) : State :=
  let s := flushSpace t s
  let s := forEach [0, 1, 2, 3] (fun q s => storePut s t (512 * (s.queue t q).ring.toNat) (List.replicate 512 0)) s
  let s := s.modTile t fun T =>
    { T with st := .run, space := tag, entry := BitVec.ofNat 32 entry, arg := BitVec.ofNat 32 arg, pend := 0,
             mask := BitVec.allOnes 64, vbase := 0, exiting := false, exitCause := 0, exitCode := 0, stopAsked := false,
             core := { T.core with pc := BitVec.ofNat 32 entry, fetching := true, waiting := false, mie := false,
                                   x := Tab.set 0 (Tab.set 0 [] 10 (BitVec.ofNat 32 arg)) 11 (BitVec.ofNat 32 t) } }
  traceTile s t { typ := 11, tag := tag, pc := BitVec.ofNat 32 entry, data := BitVec.ofNat 64 arg }

/-- TILE_START (R50). -/
def doTileStart (r : Req) (ts : TileSet) (tag entry arg : Nat) (s : State) : State :=
  if !noLoad s ts then s
  else
    command r 0x0C03 [(badTileSet ts, bsBadParam), (decide (4096 ≤ tag), bsBadParam)] 0 (fun p =>
      onTiles r ts (fun x => x == .loaded) fun s =>
        replying r bsOk [] p (forEach (tilesNamed ts) (startTile tag entry arg) s)) s

/-- TILE_START. -/
def execTileStart (r : Req) (ts : TileSet) (tag entry arg : Nat) (s : State) : Host.Outcome State Fault Refusal :=
  require (okReq r && decide (tag < 2 ^ 16) && decide (entry < 2 ^ 32) && decide (arg < 2 ^ 32))
    (doTileStart r ts tag entry arg s)

/-! ### TILE_STOP (R52) -/

/-- A stop command reaches a tile: source 0 is made pending, and an EXIT write that comes later is ignored (R52). -/
def askStop (t : Nat) (s : State) : State :=
  raiseSrc (s.modTile t fun T =>
    { T with stopAsked := true, exitCause := if T.exiting then T.exitCause else 2 }) t 0

/-- TILE_STOP (R52): a long operation that ends when the last tile is STOPPED. -/
def doTileStop (r : Req) (ts : TileSet) (s : State) : State :=
  if !noMove s ts then s
  else
    command r opTileStop [(badTileSet ts, bsBadParam)] 0 (fun p =>
      onTiles r ts (fun x => x == .run || x == .halted || x == .draining) fun s =>
        let ts' := tilesNamed ts
        let s := forEach ts' askStop (acceptLong s r.client r.slot p 6 ts'.length ts')
        if ts' = [] then finishOp s (handleOf r.client r.slot p.seq) bsCompleted [] else s) s

/-- TILE_STOP. -/
def execTileStop (r : Req) (ts : TileSet) (s : State) : Host.Outcome State Fault Refusal :=
  require (okReq r) (doTileStop r ts s)

/-- STOP_DRAIN_START (R52): one tick after the stop command the tile drains toward STOPPED, whatever its handler does; at the end of a move
where one is under way (R417). -/
def doStopDrainStart (t : Nat) (s : State) : State :=
  let T := s.tile t
  if T.stopAsked ∧ (T.st = .run ∨ T.st = .halted ∨ T.st = .draining) ∧ !T.moving then startDrain s t .stop else s

/-- STOP_DRAIN_START. -/
def execStopDrainStart (t : Nat) (s : State) : Host.Outcome State Fault Refusal :=
  require (okTile t) (doStopDrainStart t s)

/-! ### TILE_STATUS, TILE_HALT, TILE_RESUME (R53, R54, R341) -/

/-- TILE_STATUS (R341): STATE, the exit cause (0 none, 1 EXIT, 2 STOP), the exit code, and the queue masks (assumption
26). -/
def doTileStatus (r : Req) (tile : Nat) (s : State) : State :=
  if (s.tile tile).moving then s
  else
    command r 0x0C05 [(decide (Config.tiles ≤ tile), bsBadParam)] 0 (fun p s =>
      let T := s.tile tile
      replying r bsOk [(1, stCode T.st), (1, T.exitCause), (1, T.queueMask fun q => q.entries != []),
        (1, T.queueMask fun q => q.fault.isSome), (4, T.exitCode.toNat)] p s) s

/-- TILE_STATUS. -/
def execTileStatus (r : Req) (tile : Nat) (s : State) : Host.Outcome State Fault Refusal :=
  require (okReq r && decide (tile < 2 ^ 16)) (doTileStatus r tile s)

/-- TILE_HALT (R53, R407): each tile enters Debug mode and drains; a long operation that ends when the last is HALTED. -/
def doTileHalt (r : Req) (ts : TileSet) (s : State) : State :=
  if !noMove s ts then s
  else
    command r opTileHalt [(badTileSet ts, bsBadParam)] 0 (fun p =>
      onTiles r ts (fun x => x == .run) fun s =>
        let ts' := tilesNamed ts
        let s := forEach ts' (fun t s => haltTile s t causeHaltreq) (acceptLong s r.client r.slot p 6 ts'.length ts')
        if ts' = [] then finishOp s (handleOf r.client r.slot p.seq) bsCompleted [] else s) s

/-- TILE_HALT. -/
def execTileHalt (r : Req) (ts : TileSet) (s : State) : Host.Outcome State Fault Refusal :=
  require (okReq r) (doTileHalt r ts s)

/-- TILE_RESUME (R54). -/
def doTileResume (r : Req) (ts : TileSet) (s : State) : State :=
  if !noMove s ts then s
  else
    command r 0x0C07 [(badTileSet ts, bsBadParam)] 0 (fun p =>
      onTiles r ts (fun x => x == .halted) fun s =>
        replying r bsOk [] p (forEach (tilesNamed ts) (fun t s => resumeTile s t) s)) s

/-- TILE_RESUME. -/
def execTileResume (r : Req) (ts : TileSet) (s : State) : Host.Outcome State Fault Refusal :=
  require (okReq r) (doTileResume r ts s)

/-! ### TILE_TEST (R341) -/

/-- TILE_TEST (R341): a long operation on tiles in RESET. -/
def doTileTest (r : Req) (ts : TileSet) (s : State) : State :=
  if !noLoad s ts then s
  else
    command r opTileTest [(badTileSet ts, bsBadParam)] (4 * (tilesNamed ts).length) (fun p =>
      onTiles r ts (fun x => x == .reset) fun s =>
        let ts' := tilesNamed ts
        let s := acceptLong s r.client r.slot p 6 ts'.length ts'
        if ts' = [] then finishOp s (handleOf r.client r.slot p.seq) bsCompleted [] else s) s

/-- TILE_TEST. -/
def execTileTest (r : Req) (ts : TileSet) (s : State) : Host.Outcome State Fault Refusal :=
  require (okReq r) (doTileTest r ts s)

/-- TILE_TEST_COMPLETE (R341): the oldest TILE_TEST ends with the tiles that fail, 4 B for each (assumption 26). -/
def doTileTestComplete (failing : List Nat) (s : State) : State :=
  match s.opOf opTileTest with
  | none => s
  | some o =>
    if !(failing.all fun t => o.left.contains t) then s
    else finishOp (setPosition s o.handle o.total) o.handle bsCompleted (failing.map fun t => (4, t))

/-- TILE_TEST_COMPLETE. -/
def execTileTestComplete (failing : List Nat) (s : State) : Host.Outcome State Fault Refusal :=
  require (failing.all okTile) (doTileTestComplete failing s)

end Sys2Proof.Machine
end

