-- ==== Sys2Proof/Machine/Remote.lean ====
section
/-!
DEFINITION. Requests and answers of other nodes (R288, R293–R299, R320).
-/

namespace Sys2Proof.Machine
open Sys2Proof

/-! ### Arriving packets -/

/-- The response of an applied request (R295, R296): DATA with what was read, or with the old values of an ATOMIC that raised no
flag; ACK otherwise, which carries the adder flags and the old values of an ATOMIC that raised one. A poisoned codeword is answered
by DATA with POISON (assumption 35). -/
def answerReq (s : State) (p : Pkt) (a : ReqAns) : State :=
  if p.typ = 1 then respond s p 1 0 a.poison a.data
  else if a.poison then respond s p 1 0 true []
  else if p.typ = 2 then respond s p 2 0 false []
  else if a.flags = 0 then respond s p 1 0 false a.data
  else respond s p 2 a.flags.toNat false a.data

/-- What an accepted request carries between the pier of its plane and the home of its address, one codeword at a time (R257, R296). -/
def requestTrip (s : State) (p : Pkt) : State :=
  let a := s.importAddr p
  let hc := (s.window (fld p.addr 35 12)).hc
  forEach (cwsOf a (reqLen p)) (fun cw s =>
    accessTrip s (diePier p.plane, unitHome) hc (p.typ - 1) (64 * cw) (if p.typ = 1 then 0 else 64) (if p.typ = 2 then 0 else 64)) s

/-- A request for this node is tested under R295 and applied, or waits while its window is host-coherent and a transaction is open for a
line of it (R232, R245). -/
def serveReq (p : Pkt) (s : State) : State :=
  match importCause s p with
  | some c => nackPkt s p c []
  | none =>
    if (s.window (fld p.addr 35 12)).hc && !s.linesIdle (s.importAddr p) (reqLen p) then
      s.modNode fun n => { n with waitReqs := n.waitReqs ++ [p] }
    else
      let r := applyReq (requestTrip s p) p
      answerReq r.1 p r.2

/-- A request that arrives for this node (R288, R295, R296): refused with the first cause that applies, or applied and
answered. -/
def arriveReq (port : Nat) (p : Pkt) (s : State) : State :=
  if !s.takes port p ∨ p.dphys ≠ s.node.phys then s
  else
    let s := countRx s port p
    if !s.roleOk p then nackPkt s p mcStaleRole [] else serveReq p s

/-- REMOTE_READ (R295, R296): answered with DATA, POISON set where a codeword read is poisoned. -/
def doRemoteRead (port : Nat) (p : Pkt) (s : State) : State := arriveReq port p s

/-- REMOTE_READ. -/
def execRemoteRead (port : Nat) (p : Pkt) (s : State) : Host.Outcome State Fault Refusal :=
  require (decide (port < Config.ports) && p.cls == 0 && p.typ == 1) (doRemoteRead port p s)

/-- REMOTE_WRITE (R295, R296): answered with ACK. -/
def doRemoteWrite (port : Nat) (p : Pkt) (s : State) : State := arriveReq port p s

/-- REMOTE_WRITE. -/
def execRemoteWrite (port : Nat) (p : Pkt) (s : State) : Host.Outcome State Fault Refusal :=
  require (decide (port < Config.ports) && p.cls == 0 && p.typ == 2) (doRemoteWrite port p s)

/-- REMOTE_ATOMIC (R232, R295, R296): applied by this node's adders, and answered. -/
def doRemoteAtomic (port : Nat) (p : Pkt) (s : State) : State := arriveReq port p s

/-- REMOTE_ATOMIC. -/
def execRemoteAtomic (port : Nat) (p : Pkt) (s : State) : Host.Outcome State Fault Refusal :=
  require (decide (port < Config.ports) && p.cls == 0 && p.typ == 3) (doRemoteAtomic port p s)

/-! ### Responses (R288, R296) -/

/-- What a response says to its requester. -/
inductive Answer
  | data (poison : Bool) (bytes : List Byte)
  | ack (flags : EFlags) (bytes : List Byte)
  | nack (cause : Nat) (bytes : List Byte)
  deriving DecidableEq, Repr

/-- The bytes of a remote read land at their destinations (R132, R144). -/
def landRead (s : State) (t q chunk lo : Nat) (store : Bool) (parts : List (Nat × Nat × Nat × Nat)) (poison : Bool)
    (bytes : List Byte) : State :=
  match (s.queue t q).active 1 with
  | none => s
  | some e => match e.chunks.find? fun c => c.idx == chunk with
    | none => s
    | some ch =>
      let r := landAnswer { s := s, ext := ch.extents, landed := e.landed } t q chunk store lo parts poison bytes
      let s := modChunk r.1.s t q e.seq chunk fun c => { c with acks := c.acks ++ r.1.acks, remote := c.remote + r.1.remote }
      let s := modEntry s t q e.seq fun y =>
        let y := { y with landed := r.1.landed }
        match r.1.bad with
        | some off => y.fail r.2.pos stStoreUncorr off
        | none => y
      remoteAck s t q chunk r.2

/-- The first element of the parts of a read. -/
def firstPart (parts : List (Nat × Nat × Nat × Nat)) : Nat := (listMin (parts.map fun p => p.2.2.2)).getD 0
/-- The first element of the codewords of a write. -/
def firstPos (cws : List (Nat × Nat)) : Nat := (listMin (cws.map (·.2))).getD 0

/-- The acknowledgement that a refused request gives its chunk. -/
def refusedAck (pos va cause : Nat) : Ack := { pos := pos, refused := some (refusalStatus cause, va) }

/-- The acknowledgement that a poisoned codeword gives its chunk. -/
def poisonAck (pos va : Nat) : Ack := { pos := pos, poison := some (va / 64 * 64) }

/-- The end of a pass by an answer: the first status counts. -/
def endWith (st va : Nat) (run : ChainRun) : ChainRun := { run with endStatus := run.endStatus.or (some (st, BitVec.ofNat 64 va)) }

/-- Bytes that the chain could not bring. -/
def markBad (va len st : Nat) (run : ChainRun) : ChainRun := { run with bad := run.bad ++ [(va, len, st)] }

/-- Bytes brought to the staging area of the chain. -/
def stageData (va : Nat) (bytes : List Byte) (run : ChainRun) : ChainRun := { run with staged := Memory.put run.staged va bytes }

/-- A poisoned answer to a write of the mover: the acknowledgement names the first codeword that it stands for. -/
def poisonedWrite (s : State) (t q chunk : Nat) (cws : List (Nat × Nat)) : State :=
  let r := poisonOf s cws
  remoteAck r.1 t q chunk r.2.2

/-- A poisoned answer to a write of the chain ends the pass. -/
def poisonedEnd (cws : List (Nat × Nat)) (s : State) (run : ChainRun) : State × ChainRun :=
  let r := poisonOf s cws
  (r.1, endWith stMemPoison (r.2.2.poison.getD 0) run)

/-- A response of another node, or a timeout, taken by its requester (R144, R152, R295, R296, R298). -/
def answerRem (s : State) (k : RemKind) (addr : Nat) (a : Answer) : State :=
  match k, a with
  | .read t q c va _ store parts, .data p b => landRead s t q c va store parts p b
  | .read t q c va _ _ parts, .nack x _ => remoteAck s t q c (refusedAck (firstPart parts) va x)
  | .read t q c _ _ _ parts, .ack _ _ => remoteAck s t q c { pos := firstPart parts }
  | .write t q c _ cws, .data p _ => if p then poisonedWrite s t q c cws else remoteAck s t q c { pos := firstPos cws }
  | .write t q c _ cws, .ack f _ => remoteAck s t q c { pos := firstPos cws, flags := f }
  | .write t q c va cws, .nack x _ => remoteAck s t q c (refusedAck (firstPos cws) va x)
  | .atomic t q c pos va fetch, .data p b =>
    remoteAck s t q c (if p then poisonAck pos va else { pos := pos, fetch := fetch.map fun o => (o, leNat b, b.length) })
  | .atomic t q c pos _ fetch, .ack f b =>
    remoteAck s t q c { pos := pos, flags := f, fetch := fetch.map fun o => (o, leNat b, b.length) }
  | .atomic t q c pos va _, .nack x _ => remoteAck s t q c (refusedAck pos va x)
  | .chainRead t q va len, .data p b =>
    chainAnswer s t q fun s run =>
      if p then markPoison s (stageData va (b.take len) run) va len else (s, stageData va (b.take len) run)
  | .chainRead t q _ _, .ack _ _ => chainAnswer s t q Prod.mk
  | .chainRead t q va len, .nack x _ => chainAnswer s t q fun s run => (s, markBad va len (refusalStatus x) run)
  | .chainWrite t q _ cws, .data p _ => chainAnswer s t q (if p then poisonedEnd cws else Prod.mk)
  | .chainWrite t q _ _, .ack _ _ => chainAnswer s t q Prod.mk
  | .chainWrite t q va _, .nack x _ => chainAnswer s t q fun s run => (s, endWith (refusalStatus x) va run)
  | .load t va len, .data p b => loadAnswer s t va len b p
  | .load _ _ _, .ack _ _ => s
  | .load t va len, .nack _ _ => loadAnswer s t va len [] true
  | .message _, .data _ _ => s
  | .message id, .ack _ _ => farAnswer s id none []
  | .message id, .nack x b => farAnswer s id (some x) b
  | .hostLoad h, .data p b => if p then s.send (.hostFault h addr 5) else s.send (.hostData h (BitVec.ofNat 512 (leNat b)))
  | .hostLoad _, .ack _ _ => s
  | .hostLoad h, .nack _ _ => s.send (.hostFault h addr 5)
  | .hostStore _, .data _ _ => s
  | .hostStore _, .ack _ _ => s
  | .hostStore h, .nack x _ => logEvent s 0x0305 4 (dieAbut (h / 48)) [addr, x]

/-- A response that arrives at this node (R288, R296): discarded and counted where it names another role, and discarded
where no request waits for it. -/
def arriveRsp (port : Nat) (p : Pkt) (a : Answer) (s : State) : State :=
  if !s.takes port p ∨ p.dphys ≠ s.node.phys then s
  else
  let s := countRx s port p
  if !s.roleOk p then noteRefusal s mcStaleRole
  else
    let s := match a with
      | .nack c _ => noteRefusal s c
      | _ => s
    match s.node.rems.find? fun r => r.tag == p.tag with
    | none => s
    | some r =>
      let s := if p.payload = [] then packet s vcBulk true (portEnd port) (kindEnd s r.kind) 1 0 0
        else packets s vcBulk true (portEnd port) (kindEnd s r.kind) 1 0 p.payload.length
      answerRem (s.modNode fun n => { n with rems := n.rems.filter fun x => x.tag != r.tag }) r.kind r.addr a

/-- RSP_DATA (R296). -/
def doRspData (port : Nat) (p : Pkt) (s : State) : State := arriveRsp port p (.data p.poison p.payload) s

/-- RSP_DATA. -/
def execRspData (port : Nat) (s : State) (p : Pkt := { cls := 1, typ := 1 }) : Host.Outcome State Fault Refusal :=
  require (decide (port < Config.ports) && p.cls == 1 && p.typ == 1) (doRspData port p s)

/-- RSP_ACK (R296). -/
def doRspAck (port : Nat) (p : Pkt) (s : State) : State := arriveRsp port p (.ack (BitVec.ofNat 16 p.aux) p.payload) s

/-- RSP_ACK. -/
def execRspAck (port : Nat) (s : State) (p : Pkt := { cls := 1, typ := 2 }) : Host.Outcome State Fault Refusal :=
  require (decide (port < Config.ports) && p.cls == 1 && p.typ == 2) (doRspAck port p s)

/-- RSP_NACK (R295). -/
def doRspNack (port : Nat) (p : Pkt) (s : State) : State := arriveRsp port p (.nack p.aux p.payload) s

/-- RSP_NACK. -/
def execRspNack (port : Nat) (s : State) (p : Pkt := { cls := 1, typ := 3 }) : Host.Outcome State Fault Refusal :=
  require (decide (port < Config.ports) && p.cls == 1 && p.typ == 3) (doRspNack port p s)

/-- A request that changes memory of another node: its timeout raises REMOTE_TIMEOUT (R320). -/
def RemKind.changes : RemKind → Bool
  | .write _ _ _ _ _ => true
  | .atomic _ _ _ _ _ _ => true
  | .chainWrite _ _ _ _ => true
  | .hostStore _ => true
  | _ => false

/-- REMOTE_TIMEOUT (R296, R320): a request unanswered for TIMEOUT ticks completes as UNREACHABLE. -/
def doRemoteTimeout (tag : Nat) (s : State) : State :=
  match s.node.rems.find? fun r => r.tag == tag with
  | none => s
  | some r =>
    if r.age < s.node.timeout then s
    else
      let s := s.modNode fun n => { n with rems := n.rems.filter fun x => x.tag != tag }
      let s := if r.kind.changes then logEvent s 0x0306 4 dieModule [r.addr, s.job.id] else s
      answerRem s r.kind r.addr (.nack mcUnreachable [])

/-- REMOTE_TIMEOUT. -/
def execRemoteTimeout (tag : Nat) (s : State) : Host.Outcome State Fault Refusal :=
  require (decide (tag < 65536)) (doRemoteTimeout tag s)

/-- The accesses of a chunk that a reset die has lost, at an address: each is acknowledged as poisoned (R197, R269). -/
def resetAcks (va : Nat) (l : List Ack) : List Ack :=
  l.map fun a => if a.reset && (a.home.map (·.1)) == some (va / 64 * 64) then
    { a with poison := some (va / 64 * 64), fetch := none, reset := false } else a

/-- DIE_RESET_RESPONSE (R269): it answers a request that was forwarded to the die and not answered, once, and is treated as poison under
R197: a mover's access is acknowledged as poisoned, and a hart whose cluster waits for the line takes an access fault. -/
def doDieResetResponse (who : Requester) (s : State) : State :=
  match who with
  | .mover t q chunk va => match (s.queue t q).active 1 with
    | none => s
    | some e => modChunk s t q e.seq chunk fun c => { c with acks := resetAcks va c.acks }
  | .hart h addr =>
    if !s.awake (h / 4) ∨ !((s.cluster (h / 4)).lost.contains (addr / 64)) then s
    else
      let s := s.modCluster (h / 4) fun C => { C with lost := C.lost.filter (· != addr / 64) }
      (logStored s 0x0107 4 (dieAbut (h / 48)) [addr / 64 * 64, h] 7 0).send (.hostFault h addr 5)

/-- DIE_RESET_RESPONSE. -/
def execDieResetResponse (who : Requester) (s : State) : Host.Outcome State Fault Refusal :=
  require (match who with
    | .mover t q _ _ => okTQ t q
    | .hart h a => decide (h < Config.harts) && decide (a < Config.physEnd)) (doDieResetResponse who s)

end Sys2Proof.Machine
end

