-- ==== Sys2Proof/Machine/Arbiter.lean ====
section
/-!
DEFINITION. The responses that close a home arbiter's transactions (R245, R246, R249, R250), and the requests of other nodes that
wait for one to close (R232).
-/

namespace Sys2Proof.Machine
open Sys2Proof

/-- The requests of other nodes that waited at an arbiter are taken up again, in the order of their arrival; one whose lines are
still busy waits on (R232, R245). -/
def resumeReqs (s : State) : State :=
  if s.node.waitReqs = [] then s
  else forEach s.node.waitReqs serveReq (s.modNode fun n => { n with waitReqs := [] })

/-- ACK (R245): an invalidation acknowledgement. -/
def doAck (cl line : Nat) (s : State) : State := resumeReqs (takeInvAck s cl line)

/-- ACK. -/
def execAck (cl line : Nat) (s : State) : Host.Outcome State Fault Refusal :=
  require (decide (cl < Config.clusters) && inPool (64 * line)) (doAck cl line s)

/-- DONE (R245): the requester has installed the data; the transaction closes. -/
def doDone (line : Nat) (s : State) : State :=
  let a := homeArb line
  resumeReqs (tryClose (modTrans s a line fun t => { t with needDone := false }) a line)

/-- DONE. -/
def execDone (line : Nat) (s : State) : Host.Outcome State Fault Refusal :=
  require (inPool (64 * line)) (doDone line s)

/-- DOWNWB (R246, R249, R250): the arbiter writes downgrade data to the home pier; a transaction that waits for it goes
on. -/
def doDownwb (cl line : Nat) (val : BitVec 512) (poison : Bool) (s : State) : State :=
  let a := homeArb line
  match (s.arb a).trans line with
  | none => s
  | some t =>
    if t.downwb = some cl then
      resumeReqs (tryClose (modTrans (writeBackLine s line val poison) a line fun t => { t with downwb := none }) a line)
    else s

/-- DOWNWB. -/
def execDownwb (cl line : Nat) (val : BitVec 512) (poison : Bool) (s : State) : Host.Outcome State Fault Refusal :=
  require (decide (cl < Config.clusters) && inPool (64 * line)) (doDownwb cl line val poison s)

end Sys2Proof.Machine
end

