-- ==== Sys2Proof/Machine/Memory.lean ====
section
/-!
DEFINITION. The channel controllers' own rows: reads, writes, corrective writes, the patrol scrub, row repair, hot windows and
refresh (R194–R207), and the commands and registers of the pool (R203–R211).
-/

namespace Sys2Proof.Machine
open Sys2Proof

/-- A codeword of the pool. -/
def okCw (cw : Nat) : Bool := decide (64 * cw < Config.poolBytes)
/-- A channel of the pool. -/
def okChan (ch : Nat) : Bool := decide (ch < Config.channels)

/-! ### Reads and writes at the controller (R194–R197) -/

/-- A codeword in which the stack now differs from its encoding in further bits. -/
def upsetCw (s : State) (e : Nat × BitVec 576) : State :=
  if e.2 = 0 then s else s.modPool fun p => { p with err := Tab.set 0 p.err e.1 (Tab.get 0 p.err e.1 ^^^ e.2) }

/-- MEMORY_READ (R196): a codeword read at its controller, in which the stack now differs from its encoding in the further
bits `err`, and delivered. -/
def doMemoryRead (cw : Nat) (inner : Bool) (err : BitVec 576) (s : State) : State :=
  let s := if s.poolServes cw then upsetCw s (cw, err) else s
  let r := ctrlRead s cw inner
  r.1.send (.memData cw r.2.1 r.2.2)

/-- MEMORY_READ. -/
def execMemoryRead (cw : Nat) (inner : Bool) (err : BitVec 576) (s : State) : Host.Outcome State Fault Refusal :=
  require (okCw cw) (doMemoryRead cw inner err s)

/-- MEMORY_WRITE (R194): a codeword written whole, or merged under a byte mask. -/
def doMemoryWrite (cw : Nat) (mask : BitVec 64) (data : BitVec 512) (s : State) : State :=
  let r := ctrlWrite s cw mask data
  r.1.send (.memAck cw r.2)

/-- MEMORY_WRITE. -/
def execMemoryWrite (cw : Nat) (mask : BitVec 64) (data : BitVec 512) (s : State) : Host.Outcome State Fault Refusal :=
  require (okCw cw) (doMemoryWrite cw mask data s)

/-- CODEWORD_CORRECTIVE_WRITE (R196): a codeword that the outer code corrected is rewritten, unless a write came first. -/
def doCodewordCorrectiveWrite (cw : Nat) (s : State) : State :=
  if !s.pool.corrective.contains cw ∨ !s.poolServes cw then s
  else
    let d := s.pool.decode cw
    countMoved (s.modPool fun p => p.put cw d.2.1 d.2.2) (s.chOf cw) 1 64

/-- CODEWORD_CORRECTIVE_WRITE. -/
def execCodewordCorrectiveWrite (cw : Nat) (s : State) : Host.Outcome State Fault Refusal :=
  require (okCw cw) (doCodewordCorrectiveWrite cw s)

/-! ### The patrol scrub (R198) -/

/-- The cached copy of a codeword whose sectors are both valid, with its poison. -/
def cachedCw (s : State) (cw : Nat) : Option (BitVec 512 × Bool) :=
  match (s.pier (s.home (64 * cw))).find (cw / 2) with
  | some c => if c.halfValid (cw % 2) then some (halfData c.data (cw % 2), c.poison.getLsbD (cw % 2)) else none
  | none => none

/-- A scrub read of a codeword classified (R196, R198): one that cannot be corrected is rewritten from the cached copy where
there is one. -/
def scrubCw (s : State) (cw : Nat) (inner : Bool) : State :=
  match s.pool.decode cw with
  | (.clean, _, _) => if inner then innerCorrected s cw else s
  | (.corrected, _, _) => outerCorrected s cw true
  | (.uncorrectable, _, _) => match cachedCw s cw with
    | some x => countMoved ((outerCorrected s cw false).modPool fun p => p.put cw x.1 x.2) (s.chOf cw) 1 64
    | none => uncorrectable s cw

/-- A codeword of a slot of the interleave. -/
def State.inSlot (s : State) (q cw : Nat) : Bool := (s.locAt (64 * cw)).slot == q

/-- PATROL_SCRUB (R198): the next slot's row on every pseudo-channel. Codewords in an adder store are first written back
(R230). `inner` lists those for which the stack indicates a correction, `errs` the codewords that the scrub finds to differ in
further bits. After the last slot the pass and its row error tables begin again (R199). -/
def doPatrolScrub (inner : List Nat) (errs : List (Nat × BitVec 576)) (s : State) : State :=
  if !s.pool.scrubOn ∨ !s.poolReady ∨ s.power.idle ≠ .s0 ∨ (s.opOf 0x0801).isSome then s
  else
    let q := s.pool.scrubPos
    let s := forEach (s.chans.flatMap fun c => (c.2.adder.filter fun e => s.inSlot q e.cw).map fun e => (c.1, e.cw))
      (fun e s => adderEvict s e.1 e.2) s
    let s := forEach (rangeFrom 0 Config.channels) (fun c s => bump (countMoved s c 0 2048) (unitCtr (memchBase c) 7) 32) s
    let s := (errs.filter fun e => okCw e.1 && s.inSlot q e.1).foldl upsetCw s
    let bad := (s.pool.err.map (·.1)).filter (s.inSlot q)
    let ind := inner.filter fun cw => okCw cw && s.inSlot q cw
    let s := forEach bad (fun cw s => scrubCw s cw (ind.contains cw)) s
    let s := forEach (ind.filter fun cw => !bad.contains cw) (fun cw s => scrubCw s cw true) s
    let next := (q + 1) % 2 ^ 20
    let s := s.modPool fun p => { p with scrubPos := next }
    if next = 0 then { s with chans := keepTab {} (fun c => { c with rowErr := [] }) s.chans } else s

/-- PATROL_SCRUB. -/
def execPatrolScrub (inner : List Nat) (s : State) (errs : List (Nat × BitVec 576) := []) :
    Host.Outcome State Fault Refusal :=
  require true (doPatrolScrub inner errs s)

/-! ### Row repair and retirement (R199–R202) -/

/-- The codewords of a row under the present mode and key. -/
def State.rowCws (s : State) (r : RowLoc) : List Nat :=
  rangeFrom (addrOf s.pool.packageWide s.pool.key (locOfRow r) / 64) 16

/-- The 64 KiB page that holds a row's granule (R201). -/
def State.rowPage (s : State) (r : RowLoc) : Nat :=
  addrOf s.pool.packageWide s.pool.key (locOfRow r) / 65536 * 65536

/-- The fields of a row in an event and a record (R420): stack, channel, bank, row. -/
def rowFields (r : RowLoc) : List Nat := [r.ch / 32, r.ch % 32, r.bank, r.row]

/-- The key of a row in the record store (R379). -/
def rowKey (r : RowLoc) : Nat := r.ch * 2 ^ 21 + r.pc * 2 ^ 20 + r.bank * 2 ^ 14 + r.row

/-- The row's codewords written back from the adder store, read and rewritten: corrected, taken from the cached copy, or
poisoned (R200 steps 2 and 3). -/
def recoverRow (r : RowLoc) (s : State) : State :=
  forEach (s.rowCws r) (fun cw s =>
    let s := countMoved (adderEvict s r.ch cw) r.ch 0 64
    let s := scrubCw s.takeFree cw s.indicates
    let d := s.pool.decode cw
    countMoved (s.modPool fun p => p.put cw d.2.1 d.2.2) r.ch 1 64) s

/-- ROW_REPAIR (R200, R201, R202): once a tick boundary has come since it was queued, the first row in a channel's repair queue is
repaired, or retired where its bank has no spare row left. -/
def doRowRepair (ch : Nat) (spare : Bool) (s : State) : State :=
  match (s.chan ch).repair with
  | [] => s
  | (r, queued) :: rest =>
    if !s.poolReady ∨ (s.chan ch).testOwner ∨ s.tick.boundaries ≤ queued then s
    else
      let s := recoverRow r s
      let s := s.modChan ch fun c => { c with repair := rest, rowErr := c.rowErr.filter fun e => e.1 != r }
      let die := diePier (locOfRow r).pier
      if spare then
        let s := s.modPool fun p =>
          { p with repaired := r :: p.repaired.filter (· != r), hardPending := r :: p.hardPending.filter (· != r),
                   softKept := p.softKept.filter (· != r) }
        logStored s 0x0103 2 die (rowFields r) 3 (rowKey r)
      else if s.pool.retired.length < 4096 then
        logStored (s.modPool fun p => { p with retired := p.retired ++ [r] }) 0x0104 3 die [s.rowPage r] 2 (rowKey r)
      else
        let s := logStored (s.modPool fun p => { p with unlisted := r :: p.unlisted }) 0x0105 3 die (rowFields r) 7 0
        logEvent s 0x0104 3 die [s.rowPage r]

/-- ROW_REPAIR. -/
def execRowRepair (ch : Nat) (spare : Bool) (s : State) : Host.Outcome State Fault Refusal :=
  require (okChan ch) (doRowRepair ch spare s)

/-! ### Hot channels, refresh and calibration (R206, R207, R410) -/

/-- One channel judged at the end of a window: its count, and the sum of its stack's. -/
def judgeHot (ch n sum : Nat) (s : State) : State :=
  let hot : Bool := decide (8 * sum ≤ 32 * n) && decide (8000000 ≤ n)
  if hot && !(s.chan ch).hot then
    logEvent (s.modChan ch fun c => { c with hot := true, hotCount := satAdd 0xFFFF c.hotCount 1 }) 0x0106 0
      (diePier (ch / 128)) [ch, n]
  else s.modChan ch fun c => { c with hot := hot }

/-- HOT_WINDOW_END (R207): at a tick number divisible by 1,000, once, each channel's bytes against the mean of its stack, and a
new window. -/
def doHotWindowEnd (s : State) : State :=
  if s.tick.num.toNat % 1000 ≠ 0 ∨ s.tick.num = s.pool.windowTick then s
  else
  let s := s.modPool fun p => { p with windowTick := s.tick.num }
  let l := s.chans.map fun c => (c.1, c.2.window, (rangeFrom (c.1 / 32 * 32) 32).foldl (fun n i => n + (s.chan i).window) 0)
  forEach l (fun x s => (judgeHot x.1 x.2.1 x.2.2 s).modChan x.1 fun c => { c with window := 0 }) s

/-- HOT_WINDOW_END. -/
def execHotWindowEnd (s : State) : Host.Outcome State Fault Refusal := require true (doHotWindowEnd s)

/-- REFRESH (R206): a refresh is issued and counted; it changes no byte. -/
def doRefresh (ch : Nat) (s : State) : State := if s.power.idle = .s0 then bump s (unitCtr (memchBase ch) 5) 1 else s

/-- REFRESH. -/
def execRefresh (ch : Nat) (s : State) : Host.Outcome State Fault Refusal := require (okChan ch) (doRefresh ch s)

/-- HBM_CALIBRATION (R410): the channel holds its queue for 1 µs. That is time alone, and no state changes. -/
def doHbmCalibration (_ch : Nat) (s : State) : State := s

/-- HBM_CALIBRATION. -/
def execHbmCalibration (ch : Nat) (s : State) : Host.Outcome State Fault Refusal := require (okChan ch) (doHbmCalibration ch s)

/-! ### MEMORY_INIT (R193, R203–R205) -/

/-- The pool is memory-idle (R203). -/
def State.memoryIdle (s : State) : Bool :=
  s.ks.roots.all (fun e => e.2.isNone) &&
    s.tiles.all (fun t => t.2.st != .run && t.2.st != .halted && t.2.st != .draining) &&
    s.clusters.all (fun c => c.2.parked) && !s.traceOn && s.piers.all (fun p => !p.2.rangeBusy)

/-- Opcode of MEMORY_INIT (R210). -/
def opMemoryInit : Nat := 0x0301
/-- Opcode of MEM_TRAFFIC. -/
def opMemTraffic : Nat := 0x0801

/-- A MEMORY_INIT or a MEM_TRAFFIC is in progress (R204). -/
def State.memBusy (s : State) : Bool := s.pool.st == .initialising || (s.opOf opMemTraffic).isSome

/-- The hard repair of a row whose soft repair awaits it (R200 step 5, R204 step 3): it succeeds, and the record is updated, or it
fails, and the soft repair stays and is applied again at every start. Which of the two is a free value (assumption 145). -/
def hardRepair (r : RowLoc) (s : State) : State :=
  let ok := s.freeVal % 2 == 0
  let s := s.takeFree.modPool fun p =>
    { p with hardPending := p.hardPending.filter (· != r), softKept := if ok then p.softKept else p.softKept ++ [r] }
  if ok then addRec s 3 (rowKey r) (rowFields r) else s

/-- Steps 1–5 of MEMORY_INIT (R204): caches, buffers and adder stores lose their contents, hard repairs are applied, and
every codeword is zero with tag 0x00. -/
def beginInit (s : State) (mode testKey : Bool) (rate : Nat) (key : W64) : State :=
  let s := { s with
    piers := keepTab {} (fun p => { p with lines := [], merges := [], fills := [] }) s.piers
    chans := keepTab {} (fun c => { c with adder := [], rowErr := [] }) s.chans }
  let s := forEach s.pool.hardPending hardRepair s
  s.modPool fun p =>
    { p with st := .initialising, bytes := [], poison := [], err := [], corrective := [],
             newMode := mode, newTestKey := testKey, newRate := rate, newKey := key }

/-- The lowest rate that every stack is qualified for, at most a given one (R188). -/
def qualifiedRate (rate : Nat) : Nat := (rangeFrom 0 Config.hbmStacks).foldl (fun a i => min a (Config.stackRate i)) rate

/-- The highest rate that the intersection of the dies allows (R377). -/
def featureRate (s : State) (rate : Nat) : Nat := if s.boot.features.getLsbD 2 then rate else min rate 1

/-- Steps 6 and 7 of MEMORY_INIT (R204): the scrub restarts, the new mode and K take hold, and M4 is extended (R383). -/
def commitInit (s : State) (rate : Nat) (key : W64) : State :=
  let s := s.modPool fun p =>
    { p with st := .ready, packageWide := p.newMode, testKey := p.newTestKey, rate := rate,
             key := if p.newTestKey then p.newKey else key, scrubPos := 0 }
  extendMeas s 4 0 [BitVec.ofNat 8 (bitNat s.pool.packageWide), BitVec.ofNat 8 rate, BitVec.ofNat 8 (bitNat s.pool.testKey)]

/-- MEMORY_INIT (R204): accepted while the pool is memory-idle. -/
def doMemoryInit (r : Req) (mode rate : Nat) (testKey : Bool) (key : W64) (s : State) : State :=
  command r opMemoryInit [(decide (2 ≤ mode), bsBadParam), (decide (3 ≤ rate), bsBadParam), (s.memBusy, bsBusy),
      (mode == 1 && !s.boot.features.getLsbD 4, bsUnsupported), (!s.memoryIdle, bsMemInUse)] 0 (fun p s =>
    beginInit (acceptLong s r.client r.slot p 2 Config.poolBytes []) (mode == 1) testKey rate key) s

/-- MEMORY_INIT. -/
def execMemoryInit (r : Req) (mode rate : Nat) (testKey : Bool) (key : W64) (s : State) : Host.Outcome State Fault Refusal :=
  require (okReq r && decide (mode < 256) && decide (rate < 256)) (doMemoryInit r mode rate testKey key s)

/-- MEMORY_INIT_COMPLETE (R204, R205): the stacks have trained at a rate, at most the one requested and the ones that the
stacks and the dies allow, and K comes from the random source unless a test key was given; or a stack has failed. -/
def doMemoryInitComplete (rate : Nat) (failed : Option Nat) (key : W64) (s : State) : State :=
  if s.pool.st ≠ .initialising then s
  else match failed with
    | some st =>
      let s := s.modPool fun p => { p with st := .uninit }
      match s.opOf opMemoryInit with
      | some o => finishOp s o.handle bsStackFailed [(4, st)]
      | none => s
    | none =>
      let reached := min rate (featureRate s (qualifiedRate s.pool.newRate))
      let asked := s.pool.newRate
      let s := commitInit s reached key
      match s.opOf opMemoryInit with
      | some o => finishOp (setPosition s o.handle Config.poolBytes) o.handle bsCompleted
          [(1, reached), (1, bitNat (decide (reached < asked)))]
      | none => s

/-- MEMORY_INIT_COMPLETE. -/
def execMemoryInitComplete (rate : Nat) (failed : Option Nat) (key : W64) (s : State) : Host.Outcome State Fault Refusal :=
  require (decide (rate < 3) && failed.all (fun st => decide (st < Config.hbmStacks))) (doMemoryInitComplete rate failed key s)

/-! ### Status, retired rows, scrub (R210, R211) -/

/-- MEMPOOL.STATE.STATE. -/
def poolCode : PoolSt → Nat
  | .uninit => 0 | .initialising => 1 | .ready => 2 | .needsInit => 3

/-- MEMPOOL.STATE (R211). -/
def mempoolState (p : Pool) : Nat :=
  mkFld 28 4 (poolCode p.st) + mkBit 27 p.packageWide + mkBit 26 p.testKey + mkFld 24 2 p.rate + Config.hbmStacks

/-- A mask of the channels that are HOT. -/
def State.hotMask (s : State) : Nat := s.chans.foldl (fun a c => if c.2.hot then a + 2 ^ c.1 else a) 0

/-- MEMORY_STATUS (R210): state, scrub slot, retired count, UE and CE totals, HOT channels (assumption 26). -/
def doMemoryStatus (r : Req) (s : State) : State :=
  command r 0x0302 [] 0 (fun p s =>
    replying r bsOk [(4, mempoolState s.pool), (4, s.pool.scrubPos), (4, s.pool.retired.length), (4, 0), (8, s.pool.ueTotal),
      (8, s.pool.ceTotal), (64, s.hotMask)] p s) s

/-- MEMORY_STATUS. -/
def execMemoryStatus (r : Req) (s : State) : Host.Outcome State Fault Refusal := require (okReq r) (doMemoryStatus r s)

/-- RETIRED_LIST (R202, R210): per recorded row its location and its page under the present key. The parameter names the
buffer, whose range is checked; the rows go to RPTR, as R336 has it (assumption 38). -/
def doRetiredList (r : Req) (buf : Nat) (s : State) : State :=
  command r 0x0303 [(badBuffer r.client buf (16 * s.pool.retired.length), bsBadAddress)] 0 (fun p s =>
    replying r bsOk (s.pool.retired.flatMap fun x =>
      [(1, x.ch / 32), (1, x.ch % 32), (1, x.pc), (1, x.bank), (4, x.row), (8, s.rowPage x)]) p s) s

/-- RETIRED_LIST. -/
def execRetiredList (r : Req) (buf : Nat) (s : State) : Host.Outcome State Fault Refusal :=
  require (okReq r && decide (buf < 2 ^ 64)) (doRetiredList r buf s)

/-- SCRUB_SET (R210). -/
def doScrubSet (r : Req) (enable : Bool) (period : Nat) (s : State) : State :=
  command r 0x0304 [(decide (period < 1 ∨ 168 < period), bsBadParam)] 0 (fun p s =>
    replying r bsOk [] p (s.modPool fun x => { x with scrubOn := enable, scrubHours := period })) s

/-- SCRUB_SET. -/
def execScrubSet (r : Req) (enable : Bool) (period : Nat) (s : State) : Host.Outcome State Fault Refusal :=
  require (okReq r && decide (period < 256)) (doScrubSet r enable period s)

/-! ### Reads that clear (R9, R211) -/

/-- MEMCH_STATUS_READ: HOT, OWNER and HOTCOUNT; the count is cleared but for `ev` events of the same cycle. -/
def doMemchStatusRead (ch ev : Nat) (s : State) : State :=
  let c := s.chan ch
  (s.ret (mkBit 31 c.hot + mkBit 30 c.testOwner + mkFld 0 16 c.hotCount)).modChan ch fun c => { c with hotCount := min 0xFFFF ev }

/-- MEMCH_STATUS_READ. -/
def execMemchStatusRead (ch ev : Nat) (s : State) : Host.Outcome State Fault Refusal :=
  require (okChan ch) (doMemchStatusRead ch ev s)

/-- ERRCNT_READ: the three counts are read and cleared but for events of the same cycle. -/
def doErrcntRead (ch evInner evOuter evUe : Nat) (s : State) : State :=
  let c := s.chan ch
  (s.ret (mkFld 22 10 c.ue + mkFld 11 11 c.ceOuter + mkFld 0 11 c.ceInner)).modChan ch fun c =>
    { c with ue := min 0x3FF evUe, ceOuter := min 0x7FF evOuter, ceInner := min 0x7FF evInner }

/-- ERRCNT_READ. -/
def execErrcntRead (ch evInner evOuter evUe : Nat) (s : State) : Host.Outcome State Fault Refusal :=
  require (okChan ch) (doErrcntRead ch evInner evOuter evUe s)

end Sys2Proof.Machine
end

