-- ==== Sys2Proof/Machine/Cache.lean ====
section
/-!
DEFINITION. The range engine of the pier caches, their ways, and the MEMORY commands and registers of the piers (R221–R226,
R234, R235).
-/

namespace Sys2Proof.Machine
open Sys2Proof

/-! ### Range operations (R221–R224) -/

/-- Opcode of CACHE_RANGE (R234). -/
def opCacheRange : Nat := 0x0305
/-- Opcode of CACHE_WAY. -/
def opCacheWay : Nat := 0x0306

/-- The lines of a range that a pier homes. -/
def homedLines (s : State) (p start len : Nat) : List Nat := (linesOf start len).filter fun l => s.home (128 * l) == p

/-- Locked lines of a set may not pass this (R224). -/
def Pier.lockLimit (P : Pier) : Nat := min 12 (P.allocating.length - 4)

/-- A line present at a pier, allocated where it is absent and a way is to be had, with both codewords fetched (R221). -/
def fetchLine (s : State) (p line : Nat) : State :=
  let s := if ((s.pier p).find line).isNone then allocLine s p line false else s
  forEach (missing line 15 ((s.pier p).validOf line)) (fun cw s =>
    match (s.pier p).find line with
    | none => s
    | some _ =>
      let r := fillValue s.takeFree cw s.indicates
      fillCw r.1 p cw r.2.1 r.2.2) s

/-- A line locked within the limit of its set, else counted (R224). -/
def lockLine (s : State) (p line : Nat) : State :=
  let P := s.pier p
  match P.find line with
  | none => s.modPier p fun P => { P with unlocked := P.unlocked + 1 }
  | some c =>
    if c.lock then s
    else if P.lockLimit ≤ (P.lines.filter fun x => x.lock && setOf x.line == setOf line).length then
      s.modPier p fun P => { P with unlocked := P.unlocked + 1 }
    else s.modPier p fun P => P.modLine line fun c => { c with lock := true }

/-- One line of a range operation (R221): the codes are 1 INVALIDATE, 2 DRAIN_MERGE, 3 PREFETCH, 4 LOCK, 5 UNLOCK. -/
def rangeLine (op p line : Nat) (s : State) : State :=
  match op with
  | 1 => s.modPier p fun P => { P with lines := P.lines.filter fun c => c.line != line }
  | 2 => forEach [2 * line, 2 * line + 1] (fun cw s => adderEvict s (s.chOf cw) cw) (drainLine s p line)
  | 3 => fetchLine s p line
  | 4 => lockLine (fetchLine s p line) p line
  | _ => s.modPier p fun P => P.modLine line fun c => { c with lock := false }

/-- A line of a range that has to be fetched waits while the fill queue holds FILLTHR entries (R216). -/
def Pier.rangeWaits (P : Pier) (line : Nat) : Bool :=
  (P.rangeOp == 3 || P.rangeOp == 4) && missing line 15 (P.validOf line) != [] && decide (P.fillThr ≤ P.fills.length)

/-- The engine of pier `p` works through its range, line by line in ascending address, up to an offset (R222); lines that the pier
does not home are passed. -/
def rangeAdvance : Nat → State → Nat → Nat → State
  | 0, s, _, _ => s
  | n + 1, s, p, upto =>
    let P := s.pier p
    let line := (P.rangeStart + P.rangePos) / 128
    if min upto P.rangeLen ≤ P.rangePos then s
    else if s.home (128 * line) = p then
      if P.rangeWaits line then s
      else
        let s := bump (rangeLine P.rangeOp p line s) (unitCtr (pcacheBase p) 7) 1
        rangeAdvance n (s.modPier p fun P => { P with rangePos := P.rangePos + 128 }) p upto
    else rangeAdvance n (s.modPier p fun P => { P with rangePos := P.rangePos + 128 }) p upto

/-- The engines of the four piers start on a range (R221, R222). -/
def rangeStart (op start len : Nat) (s : State) : State :=
  forEach [0, 1, 2, 3] (fun p s => s.modPier p fun P =>
    { P with rangeBusy := true, rangeOp := op, rangeStart := start, rangeLen := len, rangePos := 0, unlocked := 0 }) s

/-- The least offset that the four engines have reached (R222). -/
def State.rangeReached (s : State) : Nat := [1, 2, 3].foldl (fun n p => min n (s.pier p).rangePos) (s.pier 0).rangePos

/-- The range of a CACHE_RANGE is illegal (R234). -/
def badRange (start len : Nat) : Bool :=
  start % 128 != 0 || len == 0 || len % 128 != 0 || decide (Config.poolBytes < start + len)

/-- CACHE_RANGE (R221–R223): one operation at a time in the module, while the pool is READY. -/
def cacheRange (op : Nat) (r : Req) (start len : Nat) (s : State) : State :=
  command r opCacheRange [(badRange start len, bsBadParam), ((s.opOf opCacheRange).isSome, bsBusy), (!s.poolReady, bsMemNotReady)] 0
    (fun p s => rangeStart op start len (acceptLong s r.client r.slot p 2 len [])) s

/-- A CACHE_RANGE's operands are of their width. -/
def okRange (r : Req) (start len : Nat) : Bool := okReq r && decide (start < 2 ^ 64) && decide (len < 2 ^ 64)

/-- CACHE_RANGE_INVALIDATE: valid, poison and lock bits of the lines are cleared. -/
def execCacheRangeInvalidate (r : Req) (start len : Nat) (s : State) : Host.Outcome State Fault Refusal :=
  require (okRange r start len) (cacheRange 1 r start len s)

/-- CACHE_RANGE_DRAIN_MERGE: buffer entries and resident codewords of the lines are written. -/
def execCacheRangeDrainMerge (r : Req) (start len : Nat) (s : State) : Host.Outcome State Fault Refusal :=
  require (okRange r start len) (cacheRange 2 r start len s)

/-- CACHE_RANGE_PREFETCH: the lines are allocated and filled. -/
def execCacheRangePrefetch (r : Req) (start len : Nat) (s : State) : Host.Outcome State Fault Refusal :=
  require (okRange r start len) (cacheRange 3 r start len s)

/-- CACHE_RANGE_LOCK: as PREFETCH, then the lines are locked. -/
def execCacheRangeLock (r : Req) (start len : Nat) (s : State) : Host.Outcome State Fault Refusal :=
  require (okRange r start len) (cacheRange 4 r start len s)

/-- CACHE_RANGE_UNLOCK: the lock bits of the lines are cleared. -/
def execCacheRangeUnlock (r : Req) (start len : Nat) (s : State) : Host.Outcome State Fault Refusal :=
  require (okRange r start len) (cacheRange 5 r start len s)

/-- The engines stop. -/
def rangeStop (s : State) : State := forEach [0, 1, 2, 3] (fun p s => s.modPier p fun P => { P with rangeBusy := false }) s

/-- CACHE_RANGE_COMPLETE (R222, R224): the engine of pier `p` has come to offset `upto` of the range, and stops at its end; with the
last engine the operation completes, and for LOCK the reply gives the lines left unlocked. -/
def doCacheRangeComplete (p upto : Nat) (s : State) : State :=
  match s.opOf opCacheRange with
  | none => s
  | some o =>
    if !(s.pier p).rangeBusy then s
    else
      let s := rangeAdvance ((s.pier p).rangeLen / 128) s p upto
      let s := s.modPier p fun P => { P with rangeBusy := decide (P.rangePos < P.rangeLen) }
      let s := setPosition s o.handle s.rangeReached
      if [0, 1, 2, 3].any fun p => (s.pier p).rangeBusy then s
      else
        let n := [0, 1, 2, 3].foldl (fun n p => n + (s.pier p).unlocked) 0
        finishOp s o.handle bsCompleted (if (s.pier 0).rangeOp = 4 then [(4, n)] else [])

/-- CACHE_RANGE_COMPLETE. -/
def execCacheRangeComplete (s : State) (p : Nat := 0) (upto : Nat := 2 ^ 57) : Host.Outcome State Fault Refusal :=
  require (decide (p < 4)) (doCacheRangeComplete p upto s)

/-! ### Ways (R225, R226) -/

/-- A way as the mask of its bit. -/
def wayBit (w : Nat) : BitVec 17 := BitVec.ofNat 17 (2 ^ w)

/-- The mark of a CACHE_WAY operation on a way: INVALIDATE 0, DISABLE 1. -/
def wayMark (kind p w : Nat) : Nat := 256 * kind + 32 * p + w

/-- The CACHE_WAY operations in progress with a mark. -/
def State.wayOps (s : State) (mark : Nat) : List LongOp :=
  s.belul.ops.filter fun o => o.opcode == opCacheWay && o.left.contains mark

/-- A position, in lines, for the operations with a mark. -/
def wayPosition (s : State) (mark n : Nat) : State := forEach (s.wayOps mark) (fun o s => setPosition s o.handle n) s

/-- The operations with a mark complete. -/
def wayDone (s : State) (mark : Nat) : State :=
  forEach (s.wayOps mark) (fun o s => finishOp s o.handle bsCompleted []) (wayPosition s mark 65536)

/-- A way is allocating, about to, or draining. -/
def Pier.wayOn (P : Pier) (w : Nat) : Bool := P.powered.getLsbD w || P.enablePend.getLsbD w || P.draining.getLsbD w

/-- The status for which an ENABLE is refused (R226); a draining way counts as not invalidated. -/
def enableRefused (P : Pier) (w : Nat) : Option Nat :=
  if !P.invDone.getLsbD w || P.draining.getLsbD w then some bsWayNotInv
  else if 16 ≤ (maskBits 17 ((P.powered &&& ~~~P.draining) ||| P.enablePend).toNat).length && !P.wayOn w then some bsWayLimit
  else none

/-- An accepted ENABLE: the way allocates from the next tick boundary (R226). -/
def enableWay (s : State) (p w : Nat) : State :=
  s.modPier p fun P =>
    { P with enable := P.enable ||| wayBit w, enablePend := if P.powered.getLsbD w then P.enablePend else P.enablePend ||| wayBit w }

/-- A way starts to power down, be it allocating or about to: it takes no further allocations (R225). -/
def disableWay (s : State) (p w : Nat) : State :=
  s.modPier p fun P =>
    { P with enable := P.enable &&& ~~~wayBit w, enablePend := P.enablePend &&& ~~~wayBit w,
             draining := if P.wayOn w then P.draining ||| wayBit w else P.draining }

/-- The pier and way of a CACHE_WAY exist. -/
def badWay (p w : Nat) : Bool := decide (4 ≤ p) || decide (17 ≤ w)

/-- CACHE_WAY INVALIDATE (R226): of a powered-down way. A further one of the same way is carried out by the same pass (assumption
150). -/
def doCacheWayInvalidate (r : Req) (p w : Nat) (s : State) : State :=
  command r opCacheWay [(badWay p w, bsBadParam), ((s.pier p).wayOn w, bsWayEnabled)] 0
    (fun q s => (acceptLong s r.client r.slot q 5 65536 [wayMark 0 p w]).modPier p fun P =>
      { P with wayInv := w :: P.wayInv.filter (· != w), invDone := P.invDone &&& ~~~wayBit w }) s

/-- CACHE_WAY INVALIDATE. -/
def execCacheWayInvalidate (r : Req) (p w : Nat) (s : State) : Host.Outcome State Fault Refusal :=
  require (okReq r && decide (p < 256) && decide (w < 256)) (doCacheWayInvalidate r p w s)

/-- WAY_INVALIDATE_COMPLETE (R226): every tag of the way is invalid, and INVDONE sets. -/
def doWayInvalidateComplete (p w : Nat) (s : State) : State :=
  if !(s.pier p).wayInv.contains w then s
  else wayDone (s.modPier p fun P => { P with wayInv := P.wayInv.filter (· != w), invDone := P.invDone ||| wayBit w }) (wayMark 0 p w)

/-- WAY_INVALIDATE_COMPLETE. -/
def execWayInvalidateComplete (p w : Nat) (s : State) : Host.Outcome State Fault Refusal :=
  require (!badWay p w) (doWayInvalidateComplete p w s)

/-- CACHE_WAY ENABLE (R226). -/
def doCacheWayEnable (r : Req) (p w : Nat) (s : State) : State :=
  command r opCacheWay [(badWay p w, bsBadParam)] 0 (fun q s =>
    match enableRefused (s.pier p) w with
    | some st => replying r st [] q s
    | none => replying r bsOk [] q (enableWay s p w)) s

/-- CACHE_WAY ENABLE. -/
def execCacheWayEnable (r : Req) (p w : Nat) (s : State) : Host.Outcome State Fault Refusal :=
  require (okReq r && decide (p < 256) && decide (w < 256)) (doCacheWayEnable r p w s)

/-- CACHE_WAY DISABLE (R225); of a way that is powered down it completes at once, and of one that drains it completes with the
drain (assumption 150). -/
def doCacheWayDisable (r : Req) (p w : Nat) (s : State) : State :=
  command r opCacheWay [(badWay p w, bsBadParam)] 0 (fun q s =>
    let s := disableWay (acceptLong s r.client r.slot q 5 65536 [wayMark 1 p w]) p w
    if (s.pier p).draining.getLsbD w then s else finishOp s (handleOf r.client r.slot q.seq) bsCompleted []) s

/-- CACHE_WAY DISABLE. -/
def execCacheWayDisable (r : Req) (p w : Nat) (s : State) : Host.Outcome State Fault Refusal :=
  require (okReq r && decide (p < 256) && decide (w < 256)) (doCacheWayDisable r p w s)

/-- A draining way powers down: its lines are lost, and POWERED and INVDONE clear (R225). -/
def powerDownWay (s : State) (p w : Nat) : State :=
  s.modPier p fun P =>
    { P with lines := P.lines.filter (fun c => c.way != w), powered := P.powered &&& ~~~wayBit w,
             invDone := P.invDone &&& ~~~wayBit w, draining := P.draining &&& ~~~wayBit w }

/-- A fill into a way is in progress (R225 step 2). -/
def Pier.fillsWay (P : Pier) (w : Nat) : Bool := P.fills.any fun f => P.lines.any fun c => c.line == f.cw / 2 && c.way == w

/-- WAY_POWER_DOWN_COMPLETE (R225): once the fills into a draining way are complete, the engine has visited the lines of its first
`upto` sets, and after all 65,536 the way powers down. -/
def doWayPowerDownComplete (p w upto : Nat) (s : State) : State :=
  let P := s.pier p
  if !P.draining.getLsbD w || P.fillsWay w then s
  else
    let n := min 65536 (max upto (Tab.get 0 P.wayDrain w))
    let s := s.modPier p fun P =>
      { P with wayDrain := Tab.set 0 P.wayDrain w (if n = 65536 then 0 else n),
               lines := P.lines.filter fun c => !(c.way == w && decide (setOf c.line < n)) }
    if n = 65536 then wayDone (powerDownWay s p w) (wayMark 1 p w) else wayPosition s (wayMark 1 p w) n

/-- WAY_POWER_DOWN_COMPLETE. -/
def execWayPowerDownComplete (p w : Nat) (s : State) (upto : Nat := 65536) : Host.Outcome State Fault Refusal :=
  require (!badWay p w) (doWayPowerDownComplete p w upto s)

/-- WAYCTL_DISABLE_WRITE (R225, R235): each ENABLE bit written from 1 to 0 starts the power-down of its way. -/
def doWayctlDisableWrite (p : Nat) (val : W32) (s : State) : State :=
  forEach (maskBits 17 ((s.pier p).enable &&& ~~~(val.setWidth 17)).toNat) (fun w s => disableWay s p w) s

/-- WAYCTL_DISABLE_WRITE. -/
def execWayctlDisableWrite (p : Nat) (val : W32) (s : State) : Host.Outcome State Fault Refusal :=
  require (decide (p < 4)) (doWayctlDisableWrite p val s)

/-- WAYCTL_ENABLE_WRITE (R226, R235): each ENABLE bit written from 0 to 1 enables its way, or is ignored and sets REFUSED. -/
def doWayctlEnableWrite (p : Nat) (val : W32) (s : State) : State :=
  forEach (maskBits 17 (~~~(s.pier p).enable &&& val.setWidth 17).toNat) (fun w s =>
    if (enableRefused (s.pier p) w).isSome then s.modPier p fun P => { P with refused := true } else enableWay s p w) s

/-- WAYCTL_ENABLE_WRITE. -/
def execWayctlEnableWrite (p : Nat) (val : W32) (s : State) : Host.Outcome State Fault Refusal :=
  require (decide (p < 4)) (doWayctlEnableWrite p val s)

/-! ### Status and reads that clear (R9, R234, R235) -/

/-- PCACHE.LOCKED. -/
def Pier.locked (P : Pier) : Nat := (P.lines.filter fun c => c.lock).length

/-- PCACHE.WAYSTAT (R235). -/
def waystat (P : Pier) : Nat := mkBit 31 P.refused + mkBit 30 (P.draining != 0) + P.powered.toNat

/-- PCACHE.ERR (R235). -/
def pcacheErr (P : Pier) : Nat := mkFld 24 8 P.errBuf + mkFld 16 8 P.errTag + mkFld 8 8 P.errData + mkFld 0 8 P.errCe

/-- CACHE_STATUS (R234): the way masks, locked lines, buffer entries, the range engine, and the error counts (assumption
26). -/
def doCacheStatus (r : Req) (p : Nat) (s : State) : State :=
  command r 0x0307 [(decide (4 ≤ p), bsBadParam)] 0 (fun q s =>
    let P := s.pier p
    replying r bsOk [(4, P.enable.toNat), (4, P.powered.toNat), (4, P.invDone.toNat), (4, P.locked), (4, P.merges.length),
      (4, mkBit 31 P.rangeBusy + P.rangeOp), (8, P.rangePos), (4, pcacheErr P)] q s) s

/-- CACHE_STATUS. -/
def execCacheStatus (r : Req) (p : Nat) (s : State) : Host.Outcome State Fault Refusal :=
  require (okReq r && decide (p < 256)) (doCacheStatus r p s)

/-- WAYSTAT_READ: REFUSED is read and cleared, unless a refusal comes in the same cycle. -/
def doWaystatRead (p : Nat) (ev : Bool) (s : State) : State :=
  (s.ret (waystat (s.pier p))).modPier p fun P => { P with refused := ev }

/-- WAYSTAT_READ. -/
def execWaystatRead (p : Nat) (ev : Bool) (s : State) : Host.Outcome State Fault Refusal :=
  require (decide (p < 4)) (doWaystatRead p ev s)

/-- PCACHE_ERR_READ: the four counts are read and cleared but for events of the same cycle. -/
def doPcacheErrRead (p evCe evData evTag evBuf : Nat) (s : State) : State :=
  (s.ret (pcacheErr (s.pier p))).modPier p fun P =>
    { P with errCe := min 0xFF evCe, errData := min 0xFF evData, errTag := min 0xFF evTag, errBuf := min 0xFF evBuf }

/-- PCACHE_ERR_READ. -/
def execPcacheErrRead (p evCe evData evTag evBuf : Nat) (s : State) : Host.Outcome State Fault Refusal :=
  require (decide (p < 4)) (doPcacheErrRead p evCe evData evTag evBuf s)

end Sys2Proof.Machine
end

