-- ==== Sys2Proof/Machine/Links.lean ====
section
/-!
DEFINITION. The optical ports and node addressing: forwarding and replay (R275, R283, R284), training and peers
(R276–R279), lasers, the LINK commands of R300, and the registers of R301.
-/

namespace Sys2Proof.Machine
open Sys2Proof

/-! ### Ports going down and training (R276–R279) -/

/-- Opcode of PORT_RETRAIN (R300). -/
def opPortRetrain : Nat := 0x0505

/-- The number of wavelengths in a mask. -/
def waves (m : WaveMask) : Nat := (maskBits 9 m.toNat).length

/-- A port runs at seven wavelengths in a direction. -/
def OPort.narrow (o : OPort) : Bool := waves o.txWave == 7 || waves o.rxWave == 7

/-- The PORT_RETRAIN of a port ends: state and width in the reply (R300, assumption 26). -/
def endRetrain (s : State) (p : Nat) : State :=
  let o := s.port p
  match o.op with
  | none => s
  | some h =>
    finishOp (s.modPort p fun o => { o with op := none }) h bsCompleted
      [(1, o.st), (1, waves o.txWave), (1, waves o.rxWave), (1, 0)]

/-- Why a port goes down, in PORT_DOWN (assumption 36): laser, training, LINKDOWN. -/
def downLaser : Nat := 1
/-- Training ended with fewer than seven wavelengths. -/
def downTraining : Nat := 2
/-- The other end sent LINKDOWN. -/
def downLink : Nat := 3

/-- What waits at a port that no longer serves leaves by the other port of its plane's direction, where that serves it (R278, R291). CTRL
packets to the neighbour are lost with the link. -/
def reroute (s : State) (x : Nat) : State :=
  let q := (s.port x).queue
  forEach q (fun e s => match e.2.2 with
    | .pkt _ p _ =>
      match (portsOf p.plane (dirOf x)).find? fun y => y != x && s.servesPkt p y with
      | some y => emitPkt s y p
      | none => s.modPort x fun o => { o with queue := o.queue ++ [e] }
    | _ => s) (s.modPort x fun o => { o with queue := [] })

/-- The step that a retraining of a port has reached (R300). -/
def portStep (s : State) (p step : Nat) : State :=
  match (s.port p).op with
  | some h => setPosition s h step
  | none => s

/-- A port goes down with event PORT_DOWN. -/
def portDown (s : State) (p cause : Nat) : State :=
  if (s.port p).st = 0 then s
  else
    let s := reroute (s.modPort p fun o => { o with st := 0, txWave := 0, rxWave := 0 }) p
    endRetrain (logStored s 0x0302 3 (diePier (p / 12)) [p, cause] 7 0) p

/-- A port starts to train (R278). -/
def trainPort (s : State) (p : Nat) : State :=
  portStep (reroute (s.modPort p fun o =>
    { o with st := 1, txWave := 0, rxWave := 0, recv := none, overWin := [], flitFails := 0, rxWait := none, unacked := [], used := [] }) p) p 1

/-- The eight accepted wavelengths with the lowest indices (R276). -/
def chosenWaves (m : WaveMask) : WaveMask := BitVec.ofNat 9 (((maskBits 9 m.toNat).take 8).foldl (fun a i => a + 2 ^ i) 0)

/-- PORT_TRAINING_DONE (R276, R278, R279): with seven wavelengths or more in both directions the port sends its PEERID, else it is
down. A receive wavelength reported to wear management is not chosen again: the spare stands in its place. -/
def doPortTrainingDone (port : Nat) (accTx accRx : WaveMask) (s : State) : State :=
  let o := s.port port
  if o.st ≠ 1 ∨ o.laserDown ∨ o.txWave ≠ 0 then s
  else
    let tx := chosenWaves accTx
    let rx := chosenWaves (accRx &&& ~~~o.worn)
    if waves tx < 7 ∨ waves rx < 7 then portDown (portStep s port 3) port downTraining
    else
      let s := s.modPort port fun o => { o with txWave := tx, rxWave := rx }
      let s := if waves tx = 7 ∨ waves rx = 7 then logStored s 0x0301 3 (diePier (port / 12)) [port, waves tx, waves rx] 7 0 else s
      sendControl (portStep s port 5) port (.peerid port ⟨false, s.node.phys, port, Config.fingerprint⟩)

/-- PORT_TRAINING_DONE. -/
def execPortTrainingDone (port : Nat) (accTx accRx : WaveMask) (s : State) : Host.Outcome State Fault Refusal :=
  require (decide (port < Config.ports)) (doPortTrainingDone port accTx accRx s)

/-- A PEERID as the fields of a record: PEERA and PEERB (R301). -/
def peerWords (p : Option Peer) : List Nat :=
  match p with
  | none => [0, 0, 0]
  | some x => [1, x.port * 2 ^ 26 + mkBit 25 x.gen8 + x.phys, x.fprint.toNat]

/-- The identity of a port's peers kept in the record store: that of the last OPEN peer, then the one received (R379). -/
def recordPeer (s : State) (p : Nat) : State :=
  addRec s 11 p (peerWords (s.port p).peer ++ peerWords (s.port p).recv)

/-- A trained port opens: OPEN, or OPEN narrow. Credits are initialised for every virtual channel, and replay state is cleared (R278 step
6). -/
def openPort (s : State) (p : Nat) : State :=
  s.modPort p fun o =>
    { o with st := if o.narrow then 4 else 3, peer := o.recv, used := [], unacked := [], fseq := 0, rxLast := none, rxWait := none }

/-- PEERID (R279): the recorded peer makes the port OPEN; any other makes it HELD, and is recorded with event
PEER_CHANGED. -/
def doPeerid (port : Nat) (gen8 : Bool) (phys peerPort : Nat) (fprint : W32) (s : State) : State :=
  let o := s.port port
  if o.st ≠ 1 ∨ o.txWave = 0 then s
  else
    let x : Peer := ⟨gen8, phys, peerPort, fprint⟩
    let s := s.modPort port fun o => { o with recv := some x, nbPhys := some phys }
    let s :=
      if o.peer = some x then openPort s port
      else
        let s := recordPeer (s.modPort port fun o => { o with st := 2 }) port
        logEvent s 0x0003 0 (diePier (port / 12)) ([port] ++ (peerWords (some x)).drop 1)
    endRetrain (pumpPort port (portStep s port 6)) port

/-- PEERID. -/
def execPeerid (port : Nat) (gen8 : Bool) (phys peerPort : Nat) (fprint : W32) (s : State) :
    Host.Outcome State Fault Refusal :=
  require (decide (port < Config.ports) && decide (phys < 2 ^ 20) && decide (peerPort < 64)) (doPeerid port gen8 phys peerPort fprint s)

/-- LINKDOWN (R280): the port goes down. -/
def doLinkdown (port : Nat) (s : State) : State := portDown s port downLink

/-- LINKDOWN. -/
def execLinkdown (port : Nat) (s : State) : Host.Outcome State Fault Refusal :=
  require (decide (port < Config.ports)) (doLinkdown port s)

/-- PORT_LOSS_OF_LOCK (R278): a port in service trains again. -/
def doPortLossOfLock (port : Nat) (s : State) : State := if (s.port port).st < 2 then s else trainPort s port

/-- PORT_LOSS_OF_LOCK. -/
def execPortLossOfLock (port : Nat) (s : State) : Host.Outcome State Fault Refusal :=
  require (decide (port < Config.ports)) (doPortLossOfLock port s)

/-- WAVE_ERROR_WINDOW (R276, R411): a receive wavelength above the limit in three consecutive windows is reported to wear
management. -/
def doWaveErrorWindow (port : Nat) (overs : WaveMask) (s : State) : State :=
  if (s.port port).st < 2 then s
  else
    forEach (rangeFrom 0 9) (fun i s =>
      let o := s.port port
      if !o.rxWave.getLsbD i then s
      else
        let n := if overs.getLsbD i then Tab.get 0 o.overWin i + 1 else 0
        let s := s.modPort port fun o => { o with overWin := Tab.set 0 o.overWin i n, worn := if n = 3 then o.worn ||| BitVec.ofNat 9 (2 ^ i) else o.worn }
        if n = 3 then queueNeed s ⟨3, port, i, true⟩ else s) s

/-- WAVE_ERROR_WINDOW. -/
def execWaveErrorWindow (port : Nat) (overs : WaveMask) (s : State) : Host.Outcome State Fault Refusal :=
  require (decide (port < Config.ports)) (doWaveErrorWindow port overs s)

/-- LASER_FAILURE (R277, R411): the port goes down at once, and wear management needs the pier's spare laser. -/
def doLaserFailure (port : Nat) (s : State) : State :=
  if (s.port port).laserDown then s
  else
    let s := portDown (s.modPort port fun o => { o with laserDown := true }) port downLaser
    queueNeed s ⟨4, port / 12, port, true⟩

/-- LASER_FAILURE. -/
def execLaserFailure (port : Nat) (s : State) : Host.Outcome State Fault Refusal :=
  require (decide (port < Config.ports)) (doLaserFailure port s)

/-! ### Forwarding and replay (R283, R284, R290–R292) -/

/-- FLIT_FORWARD (R283, R290–R292): a packet for another node leaves on the port that its route gives. One without a path is
discarded, and its source receives a NACK (assumption 87). -/
def doFlitForward (port : Nat) (p : Pkt) (s : State) : State :=
  if !s.takes port p ∨ p.dphys = s.node.phys then s
  else
    let s := countRx s port p
    match nextHop s (some port) p with
    | (s, .go x detour) => sendHop s (some port) p x detour
    | (s, .unreachable) => nackPkt s p mcUnreachable []

/-- FLIT_FORWARD. -/
def execFlitForward (port : Nat) (p : Pkt) (s : State) : Host.Outcome State Fault Refusal :=
  require (decide (port < Config.ports) && decide (p.plane = planeOf port)) (doFlitForward port p s)

/-- FLIT_REPLAY (R284): what the replay buffer holds from the named flit on is sent again, and the replay is counted. -/
def doFlitReplay (port fseq : Nat) (s : State) : State :=
  if (s.port port).st < 2 then s
  else
    let l := (s.port port).unacked.dropWhile fun e => decide (e.2.1 ≤ (fseq + 1024 - e.1) % 1024)
    let s := (s.modPort port fun o => { o with replays := satAdd 0xFFFF o.replays 1 }).send (.resend port fseq)
    forEach l (fun e s => s.send e.2.2) s

/-- FLIT_REPLAY. -/
def execFlitReplay (port fseq : Nat) (s : State) : Host.Outcome State Fault Refusal :=
  require (decide (port < Config.ports) && decide (fseq < 1024)) (doFlitReplay port fseq s)

/-- FLIT_CHECK_FAILURE (R275, R284): the flit and every later one are discarded, and REPLAY names it. The sixteenth failure
of the same flit retrains the port. While a named flit is awaited, a later one is discarded without a check. `fec` is a codeword that
cannot be corrected. -/
def doFlitCheckFailure (port fseq : Nat) (fec : Bool) (s : State) : State :=
  let o := s.port port
  if o.st < 2 then s
  else
    let s := s.modPort port fun o => { o with fecUnc := if fec then satAdd 0xFFFF o.fecUnc 1 else o.fecUnc }
    if o.rxWait.any (· != fseq) then s
    else
      let n := if o.flitFails ≠ 0 ∧ o.failSeq = fseq then o.flitFails + 1 else 1
      let s := s.modPort port fun o => { o with flitFails := n, failSeq := fseq, rxWait := some fseq }
      if 16 ≤ n then trainPort s port else sendControl s port (.replay port fseq)

/-- FLIT_CHECK_FAILURE. -/
def execFlitCheckFailure (port fseq : Nat) (fec : Bool) (s : State) : Host.Outcome State Fault Refusal :=
  require (decide (port < Config.ports) && decide (fseq < 1024)) (doFlitCheckFailure port fseq fec s)

/-! ### LINK commands of the ports (R300) -/

/-- A port that the module does not have. -/
def badPort (p : Nat) : Bool := decide (Config.ports ≤ p)

/-- OPORT.STATUS (R301). -/
def oportStatus (o : OPort) : Nat :=
  let g : Bool := match o.recv with
    | some x => x.gen8
    | none => false
  mkFld 29 3 o.st + mkBit 28 g + mkBit 27 o.lspare + mkFld 18 9 o.txWave.toNat + mkFld 9 9 o.rxWave.toNat

/-- OPORT.PEERA and PEERB (R301). -/
def peerAB (p : Option Peer) : Nat × Nat := ((peerWords p).getD 1 0, (peerWords p).getD 2 0)

/-- PORT_STATUS (R300): STATUS, wavelengths per direction, the recorded and the received PEERID, and the error counts
(assumption 26). -/
def doPortStatus (r : Req) (port : Nat) (s : State) : State :=
  command r 0x0503 [(badPort port, bsBadParam)] 0 (fun p s =>
    let o := s.port port
    replying r bsOk [(4, oportStatus o), (1, waves o.txWave), (1, waves o.rxWave), (2, bitNat o.lspare), (4, (peerAB o.peer).1),
      (4, (peerAB o.peer).2), (4, (peerAB o.recv).1), (4, (peerAB o.recv).2), (2, o.replays), (2, o.fecUnc)] p s) s

/-- PORT_STATUS. -/
def execPortStatus (r : Req) (port : Nat) (s : State) : Host.Outcome State Fault Refusal :=
  require (okReq r && decide (port < 2 ^ 16)) (doPortStatus r port s)

/-- PORT_OPEN (R279): opens a HELD port, whose peer is then the recorded one. -/
def doPortOpen (r : Req) (port : Nat) (s : State) : State :=
  command r 0x0504 [(badPort port, bsBadParam), (decide ((s.port port).st ≠ 2), bsNotHeld)] 0 (fun p s =>
    replying r bsOk [] p (recordPeer (openPort s port) port)) s

/-- PORT_OPEN. -/
def execPortOpen (r : Req) (port : Nat) (s : State) : Host.Outcome State Fault Refusal :=
  require (okReq r && decide (port < 2 ^ 16)) (doPortOpen r port s)

/-- PORT_RETRAIN (R278, R300): a long operation whose position is the step reached. A port whose laser has failed stays down
(R277). -/
def doPortRetrain (r : Req) (port : Nat) (s : State) : State :=
  command r opPortRetrain [(badPort port, bsBadParam), ((s.port port).op.isSome, bsBusy)] 0 (fun p s =>
    let s := acceptLong s r.client r.slot p 7 6 []
    let s := s.modPort port fun o => { o with op := some (handleOf r.client r.slot p.seq) }
    if (s.port port).laserDown then endRetrain s port else trainPort s port) s

/-- PORT_RETRAIN. -/
def execPortRetrain (r : Req) (port : Nat) (s : State) : Host.Outcome State Fault Refusal :=
  require (okReq r && decide (port < 2 ^ 16)) (doPortRetrain r port s)

/-! ### Node addressing commands (R287–R297, R300) -/

/-- NODE_ROLE (R288): the node's logical address, epoch and ROLEV. -/
def doNodeRole (r : Req) (logical epoch : Nat) (rolev : Bool) (s : State) : State :=
  command r 0x0506 [] 0 (fun p s =>
    replying r bsOk [] p (s.modNode fun n => { n with logical := logical, epoch := epoch, rolev := rolev })) s

/-- NODE_ROLE. -/
def execNodeRole (r : Req) (logical epoch : Nat) (rolev : Bool) (s : State) : Host.Outcome State Fault Refusal :=
  require (okReq r && decide (logical < 2 ^ 24) && decide (epoch < 2 ^ 8)) (doNodeRole r logical epoch rolev s)

/-- The parameters of a ROUTE_LOAD are illegal: extents 1–16, directions 0–5 (R290). -/
def badRoutes (ex ey ez : Nat) (pods : List (Nat × Nat)) : Bool :=
  [ex, ey, ez].any (fun e => e == 0 || decide (16 < e)) || pods.any fun e => decide (256 ≤ e.1) || decide (6 ≤ e.2)

/-- ROUTE_LOAD (R290): the physical address, extents, wrap flags and pod table. -/
def doRouteLoad (r : Req) (phys ex ey ez : Nat) (wrap : BitVec 3) (pods : List (Nat × Nat)) (s : State) : State :=
  command r 0x0507 [(badRoutes ex ey ez pods, bsBadParam)] 0 (fun p s =>
    replying r bsOk [] p (s.modNode fun n =>
      { n with phys := phys, ex := ex - 1, ey := ey - 1, ez := ez - 1, wrap := wrap,
               pods := pods.foldl (fun t e => Tab.set none t e.1 (some e.2)) [] })) s

/-- ROUTE_LOAD. -/
def execRouteLoad (r : Req) (phys ex ey ez : Nat) (wrap : BitVec 3) (pods : List (Nat × Nat)) (s : State) :
    Host.Outcome State Fault Refusal :=
  require (okReq r && decide (phys < 2 ^ 20)) (doRouteLoad r phys ex ey ez wrap pods s)

/-- Opcode of NODEMAP_SYNC (R300). -/
def opNodemapSync : Nat := 0x0508

/-- NODEMAP_SYNC (R287): the map's base and length; a long operation that ends when every cache is invalidated. -/
def doNodemapSync (r : Req) (base len : Nat) (s : State) : State :=
  command r opNodemapSync [(base % 8 ≠ 0, bsBadParam), (decide (Config.poolBytes < base + 8 * len), bsBadAddress),
      (decide (2 ^ 24 < len), bsBadParam)] 0 (fun p s =>
    (acceptLong s r.client r.slot p 0 0 []).modNode fun n => { n with mapBase := base, mapLen := len }) s

/-- NODEMAP_SYNC. -/
def execNodemapSync (r : Req) (base len : Nat) (s : State) : Host.Outcome State Fault Refusal :=
  require (okReq r && decide (base < 2 ^ 48) && decide (len < 2 ^ 32)) (doNodemapSync r base len s)

/-- NODEMAP_SYNC_COMPLETE (R287): every pier's map cache is invalid, and the oldest NODEMAP_SYNC completes. -/
def doNodemapSyncComplete (s : State) : State :=
  match s.opOf opNodemapSync with
  | none => s
  | some o => finishOp (s.modNode fun n => { n with mapCache := [] }) o.handle bsCompleted []

/-- NODEMAP_SYNC_COMPLETE. -/
def execNodemapSyncComplete (s : State) : Host.Outcome State Fault Refusal := require true (doNodemapSyncComplete s)

/-- A window's base and size are legal (R294): aligned on its size, wholly in the pool. -/
def legalWindow (base size : Nat) : Bool :=
  decide (size ≤ 19) && base % 2 ^ (size + 16) == 0 && decide (base + 2 ^ (size + 16) ≤ Config.poolBytes)

/-- WINDOW_SET (R294): configures a window that is not open. -/
def doWindowSet (r : Req) (w base size : Nat) (rights : BitVec 3) (hc jobchk : Bool) (srcVal srcMask : BitVec 24) (s : State) :
    State :=
  command r 0x0509 [(decide (4096 ≤ w) || !legalWindow base size, bsBadParam), ((s.window w).v, bsWindowOpen)] 0 (fun p s =>
    replying r bsOk [] p (s.modWindow w fun x =>
      { x with size := size, rights := rights, hc := hc, jobchk := jobchk, baseLo := BitVec.ofNat 32 base,
               baseHi := BitVec.ofNat 32 (base / 2 ^ 32), srcVal := srcVal.setWidth 32, srcMask := srcMask.setWidth 32 })) s

/-- WINDOW_SET. -/
def execWindowSet (r : Req) (w base size : Nat) (rights : BitVec 3) (hc jobchk : Bool) (srcVal srcMask : BitVec 24)
    (s : State) : Host.Outcome State Fault Refusal :=
  require (okReq r && decide (w < 2 ^ 16) && decide (base < 2 ^ 48) && decide (size < 2 ^ 8))
    (doWindowSet r w base size rights hc jobchk srcVal srcMask s)

/-- The requests accepted under a window that have not reached their home piers: those that wait for a line (R232, R297). -/
def outstanding (s : State) (w : Nat) : Nat := (s.node.waitReqs.filter fun p => fld p.addr 35 12 == w).length

/-- WINDOW_CLOSE (R297): V clears at once; a long operation that ends when the accepted requests have reached their home
piers. -/
def doWindowClose (r : Req) (w : Nat) (s : State) : State :=
  command r 0x050A [(decide (4096 ≤ w), bsBadParam), ((s.window w).closeOp.isSome, bsBusy)] 0 (fun p s =>
    (setPosition (acceptLong s r.client r.slot p 6 0 []) (handleOf r.client r.slot p.seq) (outstanding s w)).modWindow w fun x =>
      { x with v := false, closeOp := some (handleOf r.client r.slot p.seq) }) s

/-- WINDOW_CLOSE. -/
def execWindowClose (r : Req) (w : Nat) (s : State) : Host.Outcome State Fault Refusal :=
  require (okReq r && decide (w < 2 ^ 16)) (doWindowClose r w s)

/-- WINDOW_CLOSE_COMPLETE (R297): no request accepted under the window is outstanding. A request for lines without an open transaction
is applied in the step that accepts it (assumption 37). -/
def doWindowCloseComplete (w : Nat) (s : State) : State :=
  match (s.window w).closeOp with
  | none => s
  | some h =>
    if outstanding s w ≠ 0 then setPosition s h (outstanding s w)
    else finishOp ((setPosition s h 0).modWindow w fun x => { x with closeOp := none }) h bsCompleted []

/-- WINDOW_CLOSE_COMPLETE. -/
def execWindowCloseComplete (w : Nat) (s : State) : Host.Outcome State Fault Refusal :=
  require (decide (w < 4096)) (doWindowCloseComplete w s)

/-- EXPORT_SET (R293). -/
def doExportSet (r : Req) (e node w : Nat) (v : Bool) (s : State) : State :=
  command r 0x050B [(decide (4096 ≤ e), bsBadParam), (decide (2 ^ 24 ≤ node), bsBadParam), (decide (4096 ≤ w), bsBadParam)] 0
    (fun p s => replying r bsOk [] p (s.setExp e ⟨v, w, node⟩)) s

/-- EXPORT_SET. -/
def execExportSet (r : Req) (e node w : Nat) (v : Bool) (s : State) : Host.Outcome State Fault Refusal :=
  require (okReq r && decide (e < 2 ^ 16) && decide (node < 2 ^ 32) && decide (w < 2 ^ 16)) (doExportSet r e node w v s)

/-! ### Registers (R301, R439) -/

/-- IMPORT_OPEN (R294, R301): a write to a window's CTL. A write of 1 to V opens the window where its base and size are
legal; a write of 0 leaves V as it is. -/
def doImportOpen (w : Nat) (val : W32) (s : State) : State :=
  s.modWindow w fun x =>
    let size := fld val.toNat 0 5
    let base := x.baseLo.toNat / 65536 * 65536 + x.baseHi.toNat % 65536 * 2 ^ 32
    { x with v := x.v || (val.getLsbD 31 && legalWindow base size), hc := val.getLsbD 30, jobchk := val.getLsbD 29,
             rights := BitVec.ofNat 3 (fld val.toNat 26 3), size := size }

/-- IMPORT_OPEN. -/
def execImportOpen (w : Nat) (val : W32) (s : State) : Host.Outcome State Fault Refusal :=
  require (decide (w < 4096)) (doImportOpen w val s)

/-- EXPORT_ENTRY_WRITE (R301, R439): the entry is written with one access of 8 B; a 4 B write is ignored. -/
def doExportEntryWrite (e size : Nat) (val : W64) (s : State) : State :=
  if size ≠ 8 then s else s.setExp e ⟨val.getLsbD 63, fld val.toNat 32 12, fld val.toNat 0 24⟩

/-- EXPORT_ENTRY_WRITE. -/
def execExportEntryWrite (e size : Nat) (val : W64) (s : State) : Host.Outcome State Fault Refusal :=
  require (decide (e < 4096) && (size == 4 || size == 8)) (doExportEntryWrite e size val s)

/-- NODE.REFUSE (R301). -/
def nodeRefuse (n : Node) : Nat := mkFld 24 8 n.cause + mkFld 0 16 n.refused

/-- NODE_REFUSE_READ (R9, R301): the count is read and cleared, but for `ev` events of the same cycle. -/
def doNodeRefuseRead (ev : Nat) (s : State) : State :=
  (s.ret (nodeRefuse s.node)).modNode fun n => { n with refused := min 0xFFFF ev }

/-- NODE_REFUSE_READ. -/
def execNodeRefuseRead (ev : Nat) (s : State) : Host.Outcome State Fault Refusal := require true (doNodeRefuseRead ev s)

/-- OPORT_ERR_READ (R9, R301). -/
def doOportErrRead (p evRep evFec : Nat) (s : State) : State :=
  (s.ret (mkFld 16 16 (s.port p).replays + mkFld 0 16 (s.port p).fecUnc)).modPort p fun o =>
    { o with replays := satAdd 0xFFFF 0 evRep, fecUnc := satAdd 0xFFFF 0 evFec }

/-- OPORT_ERR_READ. -/
def execOportErrRead (p evRep evFec : Nat) (s : State) : Host.Outcome State Fault Refusal :=
  require (decide (p < Config.ports)) (doOportErrRead p evRep evFec s)

end Sys2Proof.Machine
end

