-- ==== Sys2Proof/Machine/Reset.lean ====
section
/-!
DEFINITION. Module resets and the fault path (R363, R368, R369, R375): what a reset, or the entry to S4, loses and keeps.
-/

namespace Sys2Proof.Machine
open Sys2Proof

/-! ### What stays through a reset

The maps of the record store are applied again at step 7 of the start (R374). No command reads them between the reset and
that step, so the state keeps them in place (assumption 39). -/

/-- The site of a logical tile; one without a site stays UNAVAILABLE (R18, R22). -/
def keptTile (T : Tile) : Tile :=
  { site := T.site, moved := T.moved, lost := T.lost, st := if T.lost then .unavailable else .reset }

/-- The recorded peer of a port and its laser (R277, R279). -/
def keptPort (o : OPort) : OPort := { peer := o.peer, lspare := o.lspare, laserDown := o.laserDown }

/-- The recorded lane maps of a pair (R265). -/
def keptPair (p : Pair) : Pair := { failE := p.failE, failW := p.failW }

/-- A cluster that has failed (R411). -/
def keptCluster (c : Cluster) : Cluster := { failed := c.failed }

/-- The way that a pier has retired (R414). -/
def keptPier (p : Pier) : Pier := { retired := p.retired }

/-- The bytes of client 2's block. -/
def client2Bytes (t : Tab Byte) : Tab Byte := t.filter fun e => decide (0x20000 ≤ e.1)

/-- Client 2's slots, kept through every idle state and module reset but POWER_ON and I3C (R365, R369). A POWER_STATE that
leaves S4 goes on (R344). -/
def keptBelul (b : Belul) : Belul :=
  { bytes := client2Bytes b.bytes, slots := b.slots.filter fun e => decide (64 ≤ e.1),
    ops := b.ops.filter fun o => o.client == 2 && o.opcode == 0x0602 }

/-- Every committed command of client 2 that a reset meets receives its one FINAL reply, NOT_READY (R344, assumption 40). -/
def closeClient2 (s : State) : State :=
  let s := forEach (s.belul.ops.filter fun o => o.client == 2 && o.opcode != 0x0602) (fun o s => finishOp s o.handle bsNotReady []) s
  forEach (rangeFrom 0 32) (fun n s => match (s.slot 2 n).picked with
    | some p => replyFinal s 2 n p bsNotReady []
    | none => s) s

/-- What boot keeps: the STBY domain's fields, the fuses and the flash. An update that a reset cuts short leaves no valid image
(R373). -/
def keptBoot (b : Boot) : Boot :=
  { last := b.last, seen := b.seen, failStreak := b.failStreak, count := b.count,
    image := if b.update.isSome then [] else b.image, imageOk := b.imageOk || b.update.isSome, svnFuse := b.svnFuse,
    recs := b.recs, recSeq := b.recSeq, recGen := b.recGen, recUsed := b.recUsed, heldReset := b.heldReset, stby := b.stby }

/-- The STBY domain's part of power control, and the sensors (R360, R363). -/
def keptPower (p : Power) : Power :=
  { tripValid := p.tripValid, tripSensor := p.tripSensor, tripTemp := p.tripTemp, tripS4 := p.tripS4, pwrGood := p.pwrGood,
    thermTrip := p.thermTrip, sensors := p.sensors }

/-- The module with everything lost that S4 loses (R363, R369). -/
def coldState (s : State) : State :=
  let s := closeClient2 s
  { tiles := keepTab {} keptTile s.tiles
    ks := { walkers := s.ks.walkers, spares := s.ks.spares }
    pool := { retired := s.pool.retired, unlisted := s.pool.unlisted, repaired := s.pool.repaired,
              hardPending := s.pool.hardPending, softKept := s.pool.softKept }
    piers := keepTab {} keptPier s.piers
    clusters := keepTab {} keptCluster s.clusters
    pairs := keepTab {} keptPair s.pairs
    degraded := s.degraded
    node := { ports := keepTab {} keptPort s.node.ports, spareLaser := s.node.spareLaser }
    belul := keptBelul s.belul
    i3c := s.i3c
    power := keptPower s.power
    boot := keptBoot s.boot
    wear := { sparesUsed := s.wear.sparesUsed }
    talcy := { turn := s.talcy.turn }
    rdata := s.rdata
    out := s.out
    free := s.free
    pending := s.pending }

/-! ### Reset kinds (R368, R369) -/

/-- POWER_ON. -/
def kindPowerOn : Nat := 0
/-- SUPPLY. -/
def kindSupply : Nat := 1
/-- EXTERNAL. -/
def kindExternal : Nat := 2
/-- I3C. -/
def kindI3c : Nat := 3
/-- FIRMWARE. -/
def kindFirmware : Nat := 4
/-- RECOVERY. -/
def kindRecovery : Nat := 5
/-- WATCHDOG. -/
def kindWatchdog : Nat := 6
/-- FATAL. -/
def kindFatal : Nat := 7
/-- TRIP_EXIT. -/
def kindTripExit : Nat := 8
/-- S4_EXIT. -/
def kindS4Exit : Nat := 9

/-- A module reset of a kind: LAST and SEEN are written, the I3C address and client 2's slots are lost at POWER_ON and I3C
alone, and the pool is UNINIT and the tick UNLOCKED (R368, R369). -/
def moduleReset (s : State) (kind : Nat) : State :=
  let c := coldState s
  let b := { c.boot with last := kind, seen := s.boot.seen ||| BitVec.ofNat 10 (2 ^ kind) }
  let c := { c with boot := b, power := { c.power with sensors := [], tripS4 := false, thermTrip := false } }
  if kind = kindPowerOn then
    { c with boot := { b with seen := 1, failStreak := 0 }, i3c := {}, belul := {}, power := {} }
  else if kind = kindI3c then { c with i3c := {}, belul := {} }
  else c

/-! ### The fault path (R375) -/

/-- The fault path: an error log record, then a reset of kind FATAL, or HELD_FAULT where FAILSTREAK is 2 already. `step` is the
step of the start that failed, or 0. -/
def faultPath (s : State) (step : Nat) : State :=
  let s := addRec s 7 0 [step]
  if s.boot.failStreak = 2 then s.modBoot fun b => { b with st := .heldFault, failStep := step }
  else (moduleReset s kindFatal).modBoot fun b => { b with failStreak := s.boot.failStreak + 1 }

/-- The module is powered and not held in reset. -/
def State.alive (s : State) : Bool := s.boot.stby && !s.boot.heldReset && s.power.idle != .s4

/-- PIER_FATAL_ERROR (R375): a fatal error in a pier, 0–3, or in A0, 4, while the module runs. -/
def doPierFatalError (_p : Nat) (s : State) : State :=
  if s.boot.st = .running ∧ s.alive then faultPath s 0 else s

/-- PIER_FATAL_ERROR. -/
def execPierFatalError (p : Nat) (s : State) : Host.Outcome State Fault Refusal :=
  require (decide (p < 5)) (doPierFatalError p s)

/-- FAILSTREAK_CLEAR (R375): 1,000 ms have passed in RUNNING. -/
def doFailstreakClear (s : State) : State :=
  if s.boot.st = .running then s.modBoot fun b => { b with failStreak := 0 } else s

/-- FAILSTREAK_CLEAR. -/
def execFailstreakClear (s : State) : Host.Outcome State Fault Refusal := require true (doFailstreakClear s)

/-- STBY_POWER_LOSS (R368): the input falls below 30 V, and everything but the flash and the fuses is lost. -/
def doStbyPowerLoss (s : State) : State :=
  let c := moduleReset s kindPowerOn
  { c with boot := { c.boot with last := 0, seen := 0, stby := false }, power := { c.power with pwrGood := false } }

/-- STBY_POWER_LOSS. -/
def execStbyPowerLoss (s : State) : Host.Outcome State Fault Refusal := require true (doStbyPowerLoss s)

/-- POWER_ON (R368, R424): the input rises through 30 V, and the STBY domain starts. -/
def doPowerOn (s : State) : State :=
  let c := moduleReset s kindPowerOn
  { c with boot := { c.boot with stby := true } }

/-- POWER_ON. -/
def execPowerOn (s : State) : Host.Outcome State Fault Refusal := require true (doPowerOn s)

/-- SUPPLY (R356, R428): the input has been below 38.0 V for 200 ns; PWR_GOOD is low. -/
def doSupply (s : State) : State :=
  if !s.boot.stby then s
  else
    let c := moduleReset s kindSupply
    { c with power := { c.power with pwrGood := false } }

/-- SUPPLY. -/
def execSupply (s : State) : Host.Outcome State Fault Refusal := require true (doSupply s)

/-- EXTERNAL (R427, R429): MOD_RESET_N has been low for 1 µs. While it is low the board may program the flash. -/
def doExternal (s : State) : State :=
  if !s.boot.stby then s
  else (moduleReset s kindExternal).modBoot fun b => { b with heldReset := true, imageOk := false }

/-- EXTERNAL. -/
def execExternal (s : State) : Host.Outcome State Fault Refusal := require true (doExternal s)

/-- MOD_RESET_RELEASE (R427): the start may begin. -/
def doModResetRelease (s : State) : State := s.modBoot fun b => { b with heldReset := false }

/-- MOD_RESET_RELEASE. -/
def execModResetRelease (s : State) : Host.Outcome State Fault Refusal := require true (doModResetRelease s)

/-- WATCHDOG (R368): the watchdog of A0's headstock, which is off in S4. -/
def doWatchdog (s : State) : State := if s.alive then moduleReset s kindWatchdog else s

/-- WATCHDOG. -/
def execWatchdog (s : State) : Host.Outcome State Fault Refusal := require true (doWatchdog s)

end Sys2Proof.Machine
end

