-- ==== Sys2Proof/Machine/Truss.lean ====
section
/-!
DEFINITION. The die links (R256, R261, R264–R272, R411): lane maps and their hashes, training of bundle pairs, replays, header
parity, and the LINK commands of R272.
-/

namespace Sys2Proof.Machine
open Sys2Proof

/-! ### Lane maps (R264–R266) -/

/-- The number of lanes in a mask. -/
def lanesIn (m : BitVec 68) : Nat := (maskBits 68 m.toNat).length

/-- The lanes that the recorded map of a bundle marks failed: at assembly test, or in service (R265). `dir` is 0 eastward, 1
westward. -/
def recordedFails (s : State) (l n dir : Nat) : BitVec 68 :=
  Config.assemblyFailedLanes l n dir ||| (if dir = 0 then (s.pair l n).failE else (s.pair l n).failW)

/-- Width class of a bundle by its usable lanes: 2 full, 1 narrow, 0 down. -/
def laneClass (usable : BitVec 68) : Nat := if 64 ≤ lanesIn usable then 2 else if 32 ≤ lanesIn usable then 1 else 0

/-- Both bundles of a pair run at the lesser width. -/
def Pair.cls (p : Pair) : Nat := min (laneClass p.mapE) (laneClass p.mapW)

/-- Logical lanes of a width class. -/
def classLanes (c : Nat) : Nat := if c = 2 then 64 else if c = 1 then 32 else 0

/-- The bytes of a lane map from physical lane `p` on: the logical lane that each carries, or 0xFF. -/
def laneBytes (width : Nat) (usable : BitVec 68) : Nat → Nat → Nat → List Byte
  | 0, _, _ => []
  | k + 1, p, i =>
    if usable.getLsbD p && decide (i < width) then BitVec.ofNat 8 i :: laneBytes width usable k (p + 1) (i + 1)
    else 0xFF#8 :: laneBytes width usable k (p + 1) i

/-- The lane-map hash of a bundle (R266). -/
def laneHash (width : Nat) (usable : BitVec 68) : W32 := crc32c 0 (laneBytes width usable 68 0 0)

/-- The hashes of a pair's two bundles; zero until a map is formed. -/
def Pair.hashes (p : Pair) : W32 × W32 :=
  if p.mapE = 0 then (0, 0) else (laneHash (classLanes p.cls) p.mapE, laneHash (classLanes p.cls) p.mapW)

/-! ### Training (R267, R268) -/

/-- The dies at the west and the east end of a link (R255, R260). -/
def linkDies (l : Nat) : List Nat :=
  match l with
  | 0 => [diePier 0, diePier 1]
  | 1 => [diePier 1, diePier 2]
  | 2 => [diePier 2, diePier 3]
  | 3 => [dieAbut 0, diePier 0]
  | _ => [diePier 3, dieAbut 1]

/-- The mark of a link in the list of what is degraded, and the key of its record (R378). -/
def linkMark (l : Nat) : Nat := 256 + l

/-- A die or link marked degraded, and recorded. -/
def markDegraded (s : State) (key : Nat) (data : List Nat) : State :=
  addRec (if s.degraded.contains key then s else { s with degraded := s.degraded ++ [key] }) 10 key data

/-- A die marked degraded with event DIE_DEGRADED (R268). -/
def dieDegraded (s : State) (die link : Nat) : State := logEvent (markDegraded s die [die, link]) 0x0202 3 die [die, link]

/-- The place of a die's revision among those that the start reads: decks, piers, abutment dies (R377). -/
def dieIndex (d : Nat) : Nat := if d < 12 then d else if d < 20 then d - 4 else d - 8

/-- The die at the west end of a link, or at the east end. -/
def linkEnd (l : Nat) (east : Bool) : Nat := (linkDies l).getD (bitNat east) 0

/-- The identity that an end of a pair sends (R267): its die, the link, the pair's index, and the revision that the start read. -/
def endIdentity (s : State) (l n : Nat) (east : Bool) : BundleId :=
  let d := linkEnd l east
  { die := d, link := l, pair := n, rev := (s.boot.revs.getD (dieIndex d) 0).toNat }

/-- The position of a pair's DIE_LINK_RETRAIN: the step reached (R272). -/
def pairStep (s : State) (l n k : Nat) : State :=
  match (s.pair l n).op with
  | some h => setPosition s h k
  | none => s

/-- A pair trains from step 1: its maps are discarded, but for those of an end that still holds them (R268), and the ends exchange their
identities (R267). -/
def trainPair (l n : Nat) (s : State) : State :=
  let s := s.modPair l n fun p =>
    { p with st := 1, mapE := 0, mapW := 0, spareE := 0, spareW := 0, again := false, okE := false, okW := false, retrainPend := false }
  let s := (s.send (.identity l n true (endIdentity s l n false))).send (.identity l n false (endIdentity s l n true))
  pairStep s l n 1

/-- The DIE_LINK_RETRAIN of a pair ends: COMPLETED with the width in lanes, or LINK_DOWN (R272). -/
def endPairOp (s : State) (l n : Nat) : State :=
  let p := s.pair l n
  match p.op with
  | none => s
  | some h =>
    let s := s.modPair l n fun p => { p with op := none }
    if p.st = 0 then finishOp s h bsLinkDown [] else finishOp s h bsCompleted [(1, classLanes p.cls)]

/-- A pair whose training ends at a step stays down. After a MAPFAULT the dies that it joins and the link are marked degraded; a link
with no pair left raises BOUNDARY_DOWN, and the module takes the fault path (R268, R375). -/
def pairDown (s : State) (l n step : Nat) : State :=
  let fault := (s.pair l n).afterFault
  let s := (pairStep s l n step).modPair l n fun p =>
    { p with st := 0, mapE := 0, mapW := 0, spareE := 0, spareW := 0, held := none, afterFault := false }
  let s := endPairOp s l n
  let s := if fault then forEach (linkDies l) (fun d s => dieDegraded s d l) (markDegraded s (linkMark l) [l]) else s
  if (rangeFrom 0 (Config.pairs l)).all fun k => (s.pair l k).st == 0 then
    faultPath (logStored s 0x0203 5 dieModule [l] 7 0) 0
  else s

/-- Lanes marked good that fail a fresh test are recorded as failed, and take the bundle's spares (R265, R418). -/
def recordLanes (s : State) (l n dir : Nat) (fresh : BitVec 68) : State :=
  let bad := ~~~fresh &&& ~~~recordedFails s l n dir
  if bad = 0 then s
  else
    let s := s.modPair l n fun p => if dir = 0 then { p with failE := p.failE ||| bad } else { p with failW := p.failW ||| bad }
    let s := addRec s 1 (bundleScope l n dir) [(recordedFails s l n dir).toNat]
    forEach (rangeFrom 0 (min (lanesIn bad) (s.sparesLeft 2 (bundleScope l n dir)))) (fun _ s => useSpare s 2 (bundleScope l n dir)) s

/-- Spare lanes of a bundle: usable lanes that carry no logical lane. -/
def spareLanes (usable : BitVec 68) : Nat := lanesIn usable - 64

/-- The hashes that an end of a pair holds: those of its maps, or of the maps that it still holds from before the die at the other end
reset alone (R268). -/
def endHashes (p : Pair) (east : Bool) : W32 × W32 :=
  match p.held with
  | some (e, mE, mW) => if e = east then { p with mapE := mE, mapW := mW }.hashes else p.hashes
  | none => p.hashes

/-- A packet's header again: the packets that a bundle's replay buffer keeps from number `count` on (R261). -/
def keptHeads (b : TBundle) (count : Nat) : List (List Byte) :=
  (b.unacked.filter fun e => decide ((e.1 + 512 - count) % 512 < 256)).map fun e => e.2.head

/-- The credits of a bundle's seven channels are initialised, and what its receiver still waits for is sent again (R261, R267). -/
def initBundle (l n dir : Nat) (s : State) : State :=
  let b := s.bundle (bundleKey l n dir)
  let s := match b.await with
    | some c => s.send (.bundleResend l n c (keptHeads b c))
    | none => s
  s.modBundle (bundleKey l n dir) fun b => { b with used := [], await := none, fails := 0 }

/-- BUNDLE_TRAINING_DONE (R264–R267): steps 1–5 of a training, with the identity that each end has sent, the fresh test of each lane and
whether the alignment pattern agrees with the maps. A foreign identity leaves the pair down at step 1, too few lanes at step 4; at step
5 a failure repeats step 3 once. At step 6 the credits are initialised, and each end sends LINKUP with the hashes of both bundles. -/
def doBundleTrainingDone (l n : Nat) (idW idE : BundleId) (align : Bool) (freshE freshW : BitVec 68) (s : State) : State :=
  let p := s.pair l n
  if p.st ≠ 1 ∨ p.mapE ≠ 0 then s
  else if idW ≠ endIdentity s l n false ∨ idE ≠ endIdentity s l n true then pairDown s l n 1
  else
    let useE := freshE &&& ~~~recordedFails s l n 0
    let useW := freshW &&& ~~~recordedFails s l n 1
    let s := recordLanes (recordLanes s l n 0 freshE) l n 1 freshW
    if min (laneClass useE) (laneClass useW) = 0 then pairDown s l n 4
    else if !align && p.again then pairDown s l n 5
    else if !align then pairStep (s.modPair l n fun p => { p with again := true }) l n 3
    else
      let s := s.modPair l n fun p => { p with mapE := useE, mapW := useW, spareE := spareLanes useE, spareW := spareLanes useW }
      let s := initBundle l n 1 (initBundle l n 0 (pairStep s l n 6))
      let hash := fun east => endHashes (s.pair l n) east
      (s.send (.linkup l n true (hash false).1 (hash false).2)).send (.linkup l n false (hash true).1 (hash true).2)

/-- A bundle pair of the module. -/
def okPair (l n : Nat) : Bool := decide (l < Config.links) && decide (n < Config.pairs l)

/-- BUNDLE_TRAINING_DONE. -/
def execBundleTrainingDone (l n : Nat) (idW idE : BundleId) (align : Bool) (s : State) (freshE : BitVec 68 := 0) (freshW : BitVec 68 := 0) :
    Host.Outcome State Fault Refusal :=
  require (okPair l n) (doBundleTrainingDone l n idW idE align freshE freshW s)

/-- An end of a pair has found the hashes equal; with both the pair is up, and what waits for the link goes on (R258, R268). -/
def agreePair (s : State) (l n : Nat) (east : Bool) : State :=
  let s := s.modPair l n fun p => if east then { p with okE := true } else { p with okW := true }
  if !((s.pair l n).okE && (s.pair l n).okW) then s
  else
    let s := s.modPair l n fun p => { p with st := if p.cls = 2 then 2 else 3, held := none, afterFault := false }
    serveAllPorts (endPairOp s l n)

/-- LINKUP (R267, R268): the end that receives it compares the hashes with its own. A difference is answered with MAPFAULT; the pair is
up when both ends agree. -/
def doLinkup (l n : Nat) (east : Bool) (hashE hashW : W32) (s : State) : State :=
  let p := s.pair l n
  if p.st ≠ 1 ∨ p.mapE = 0 then s
  else if endHashes p east ≠ (hashE, hashW) then s.send (.mapfault l n)
  else agreePair s l n east

/-- LINKUP. -/
def execLinkup (l n : Nat) (east : Bool) (hashE : W32) (s : State) (hashW : W32 := hashE) : Host.Outcome State Fault Refusal :=
  require (okPair l n) (doLinkup l n east hashE hashW s)

/-- MAPFAULT (R268): both ends discard their maps and retrain from step 1. -/
def doMapfault (l n : Nat) (s : State) : State :=
  if (s.pair l n).st = 0 then s else (trainPair l n s).modPair l n fun p => { p with held := none, afterFault := true }

/-- MAPFAULT. -/
def execMapfault (l n : Nat) (s : State) : Host.Outcome State Fault Refusal := require (okPair l n) (doMapfault l n s)

/-! ### Replays and header parity (R256, R261, R411) -/

/-- The boundaries of the hour over which replays count (R411). -/
def hourTicks : Nat := 3600000000

/-- The number that stands for no single lane in a need of a pair. -/
def noLane : Nat := 68

/-- TRUSS_REPLAY (R261): the sender of a bundle resends from the named packet on what its replay buffer keeps, in order, and the replay
counts; 1,000 within one hour make a need of the pair (R411). -/
def doTrussReplay (l n : Nat) (east : Bool) (count : Nat) (s : State) : State :=
  let p := s.pair l n
  if p.st < 2 then s
  else
    let dir := if east then 0 else 1
    let log := (p.replayLog.filter fun e => s.within hourTicks e.1) ++ [(s.tick.boundaries, 1)]
    let s := s.modPair l n fun p => { p with replays := satAdd 0xFFFF p.replays 1, replayLog := log }
    let s := s.send (.bundleResend l n count (keptHeads (s.bundle (bundleKey l n dir)) count))
    let s := s.modBundle (bundleKey l n dir) fun b => { b with await := none }
    if 1000 ≤ log.length then queueNeed s ⟨2, bundleScope l n dir, noLane, false⟩ else s

/-- TRUSS_REPLAY. -/
def execTrussReplay (l n : Nat) (east : Bool) (count : Nat) (s : State) : Host.Outcome State Fault Refusal :=
  require (okPair l n && decide (count < 512)) (doTrussReplay l n east count s)

/-- The number of a bond where a pair's link number stands: those of deck dies follow those of links. -/
def bondLink (d : Nat) : Nat := 16 + d

/-- The count of failures of one packet of a bundle, by the number of the packet that failed last. -/
def TBundle.failsOf (b : TBundle) (count : Nat) : Nat := if b.fails ≠ 0 ∧ b.failSeq = count then b.fails + 1 else 1

/-- BUNDLE_HEADER_PARITY_ERROR (R256, R261): the packet and every later one of the bundle are discarded until it comes again, and REPLAY
names it. The eighth failure of a packet retrains the pair, or marks the deck die of a bond degraded; the link of that event is a free
value (assumption 34). On a bond, `l` is the deck die and `east` the direction toward the pier; the sender there resends at once. -/
def doBundleHeaderParityError (bond : Bool) (l n : Nat) (east : Bool) (count : Nat) (s : State) : State :=
  let dir := if east then 0 else 1
  let key := if bond then bondKey l dir else bundleKey l n dir
  let b := s.bundle key
  let k := b.failsOf count
  if bond then
    let s := s.modBundle key fun b => { b with fails := if 8 ≤ k then 0 else k, failSeq := count }
    let s := (s.send (.bundleReplay (bondLink l) 0 count)).send (.bundleResend (bondLink l) 0 count (keptHeads b count))
    if 8 ≤ k then dieDegraded s.takeFree l s.freeVal else s
  else if (s.pair l n).st < 2 ∨ b.await.isSome then s
  else
    let s := s.modBundle key fun b => { b with fails := k, failSeq := count, await := some count }
    if 8 ≤ k then trainPair l n s else s.send (.bundleReplay l n count)

/-- BUNDLE_HEADER_PARITY_ERROR. -/
def execBundleHeaderParityError (bond : Bool) (l n : Nat) (east : Bool) (count : Nat) (s : State) :
    Host.Outcome State Fault Refusal :=
  require ((if bond then decide (l < 12) else okPair l n) && decide (count < 512)) (doBundleHeaderParityError bond l n east count s)

/-- LANE_EYE_CHECK_FAILURE (R410, R411): a lane of a pair in service fails its eye check outright, or its margin falls below the
acceptance of R263. -/
def doLaneEyeCheckFailure (l n : Nat) (east : Bool) (lane : Nat) (outright : Bool) (s : State) : State :=
  if (s.pair l n).st < 2 ∨ (recordedFails s l n (if east then 0 else 1)).getLsbD lane then s
  else queueNeed s ⟨2, bundleScope l n (if east then 0 else 1), lane, outright⟩

/-- LANE_EYE_CHECK_FAILURE. -/
def execLaneEyeCheckFailure (l n : Nat) (east : Bool) (lane : Nat) (outright : Bool) (s : State) :
    Host.Outcome State Fault Refusal :=
  require (okPair l n && decide (lane < 68)) (doLaneEyeCheckFailure l n east lane outright s)

/-! ### LINK commands and registers (R271, R272) -/

/-- A link that the module does not have. -/
def badLink (l : Nat) : Bool := decide (Config.links ≤ l)

/-- DIE_LINK_STATUS (R272): per pair its state, width, spare lanes, hashes, and the failed lanes recorded (assumption 26). -/
def doDieLinkStatus (r : Req) (l : Nat) (s : State) : State :=
  command r 0x0501 [(badLink l, bsBadParam)] 0 (fun p s =>
    replying r bsOk ((rangeFrom 0 (Config.pairs l)).flatMap fun n =>
      let x := s.pair l n
      [(1, x.st), (1, classLanes x.cls), (1, x.spareE), (1, x.spareW), (4, x.hashes.1.toNat), (4, x.hashes.2.toNat),
        (9, (recordedFails s l n 0).toNat), (9, (recordedFails s l n 1).toNat)]) p s) s

/-- DIE_LINK_STATUS. -/
def execDieLinkStatus (r : Req) (l : Nat) (s : State) : Host.Outcome State Fault Refusal :=
  require (okReq r && decide (l < 2 ^ 16)) (doDieLinkStatus r l s)

/-- DIE_LINK_RETRAIN (R272): a long operation that starts at the next tick boundary; its position is the step reached. -/
def doDieLinkRetrain (r : Req) (l n : Nat) (s : State) : State :=
  command r 0x0502 [(badLink l, bsBadParam), (decide (Config.pairs l ≤ n), bsBadParam), ((s.pair l n).op.isSome, bsBusy)] 0
    (fun p s => (acceptLong s r.client r.slot p 7 6 []).modPair l n fun x =>
      { x with retrainPend := true, op := some (handleOf r.client r.slot p.seq) }) s

/-- DIE_LINK_RETRAIN. -/
def execDieLinkRetrain (r : Req) (l n : Nat) (s : State) : Host.Outcome State Fault Refusal :=
  require (okReq r && decide (l < 2 ^ 16) && decide (n < 2 ^ 16)) (doDieLinkRetrain r l n s)

/-- LINK.BSTATn (R271). -/
def bstat (p : Pair) : Nat := mkFld 29 3 p.st + mkFld 26 3 p.spareE + mkFld 23 3 p.spareW + mkFld 0 16 p.replays

/-- LINK.STATUS (R271). -/
def linkStatus (s : State) (l : Nat) : Nat :=
  let count := fun (f : Nat → Bool) => ((rangeFrom 0 (Config.pairs l)).filter fun n => f (s.pair l n).st).length
  mkBit 31 (s.degraded.contains (linkMark l)) + mkFld 16 6 (count fun x => 2 ≤ x) + mkFld 8 6 (count fun x => x == 3) +
    Config.pairs l

/-- BSTAT_READ (R9): REPLAYS is read and cleared, but for `ev` events of the same cycle. -/
def doBstatRead (l n ev : Nat) (s : State) : State :=
  (s.ret (bstat (s.pair l n))).modPair l n fun p => { p with replays := min 0xFFFF ev }

/-- BSTAT_READ. -/
def execBstatRead (l n ev : Nat) (s : State) : Host.Outcome State Fault Refusal := require (okPair l n) (doBstatRead l n ev s)

end Sys2Proof.Machine
end

