-- ==== Sys2Proof/Machine/Coll.lean ====
section
/-!
DEFINITION. Jobs and the collective engine (R307–R319, R325–R327): collective records, rings and steps, COLL DATA packets, late
steps, holds and failures.
-/

namespace Sys2Proof.Machine
open Sys2Proof

/-! ### Collective records (R310) -/

/-- KIND. -/
def Coll.kind (c : Coll) : Nat := fld c.ctl.toNat 0 4
/-- ADDOP as the record gives it. -/
def Coll.addop (c : Coll) : BitVec 8 := BitVec.ofNat 8 (fld c.ctl.toNat 4 8)
/-- Dimension `d` (x, y, z, pod) is in DIMS. -/
def Coll.inDims (c : Coll) (d : Nat) : Bool := bitAt c.ctl.toNat (12 + d)
/-- The allowed planes. -/
def Coll.planes (c : Coll) : List Nat := if fld c.ctl.toNat 16 4 = 0 then [0, 1, 2, 3] else maskBits 4 (fld c.ctl.toNat 16 4)

/-- ALLREDUCE, REDUCE_SCATTER, ALLGATHER, BROADCAST, BARRIER. -/
def kAllreduce : Nat := 1
/-- REDUCE_SCATTER. -/
def kReduceScatter : Nat := 2
/-- ALLGATHER. -/
def kAllgather : Nat := 3
/-- BROADCAST. -/
def kBroadcast : Nat := 4
/-- BARRIER. -/
def kBarrier : Nat := 5

/-- The adder operation with which a collective reduces: BROADCAST by OR, BARRIER by INT32 ADD (R310). -/
def Coll.op (c : Coll) : BitVec 8 :=
  if c.kind = kBroadcast then BitVec.ofNat 8 (4 + 16 * aType c.addop) else if c.kind = kBarrier then 0 else c.addop

/-- Bytes of an element. -/
def Coll.es (c : Coll) : Nat := aSize (aType c.op)

/-- Status codes of collective records (R310): OK. -/
def csOk : Nat := 0x00
/-- BAD_CONFIG. -/
def csBadConfig : Nat := 0x10
/-- CANCELLED. -/
def csCancelled : Nat := 0x11
/-- FAILED_STEP. -/
def csFailedStep : Nat := 0x30
/-- MISMATCH. -/
def csMismatch : Nat := 0x31

/-- Causes of FAILED_STEP (R319): HBM_CRITICAL. -/
def fcHbmCritical : Nat := 1
/-- NODE_LOST. -/
def fcNodeLost : Nat := 2
/-- TICK_LOST. -/
def fcTickLost : Nat := 3
/-- POISON. -/
def fcPoison : Nat := 4
/-- LEFT. -/
def fcLeft : Nat := 5
/-- MISMATCH. -/
def fcMismatch : Nat := 6
/-- STEP_TIMEOUT. -/
def fcStepTimeout : Nat := 7

/-! ### Groups and rings (R312) -/

/-- A ring of the group of a node: dimension, extent, this node's position, and its neighbours. -/
structure RDim where
  dim : Nat
  ext : Nat
  pos : Nat
  next : Nat
  prev : Nat
  deriving DecidableEq, Repr

/-- A physical address with coordinate `k` replaced: 0 x, 1 y, 2 z, 3 pod. -/
def setCoord (a k v : Nat) : Nat :=
  if k = 3 then v * 4096 + a % 4096 else a - coordOf a k * 2 ^ (8 - 4 * k) + v * 2 ^ (8 - 4 * k)

/-- The pods of the block, ascending. -/
def State.blockPods (s : State) : List Nat := maskBits 256 s.job.pods.toNat

/-- The position of an element in a list. -/
def posIn (l : List Nat) (x : Nat) : Nat := (l.takeWhile (· != x)).length

/-- The ring of dimension `k`. -/
def ringOf (s : State) (k : Nat) : RDim :=
  let a := s.node.phys
  if k = 3 then
    let l := s.blockPods
    let i := posIn l (podOf a)
    ⟨3, l.length, i, setCoord a 3 (l.getD ((i + 1) % l.length) 0), setCoord a 3 (l.getD ((i + l.length - 1) % l.length) 0)⟩
  else
    let e := s.node.extent k
    let i := coordOf a k
    ⟨k, e, i, setCoord a k ((i + 1) % e), setCoord a k ((i + e - 1) % e)⟩

/-- The rings of a collective, in the order x, y, z, pod; a dimension of extent 1 is skipped. -/
def Coll.rings (s : State) (c : Coll) : List RDim := (([0, 1, 2, 3].filter c.inDims).map (ringOf s)).filter fun r => 1 < r.ext

/-- The size of the group. -/
def groupSize (rs : List RDim) : Nat := rs.foldl (fun n r => n * r.ext) 1

/-- The physical addresses of the group of a node. -/
def Coll.group (s : State) (c : Coll) : List Nat :=
  (c.rings s).foldl (fun l r => l.flatMap fun a => (rangeFrom 0 r.ext).map fun v =>
    setCoord a r.dim (if r.dim = 3 then s.blockPods.getD v 0 else v)) [s.node.phys]

/-! ### Sets of elements (R312) -/

/-- A set of elements as ranges: first element and length. -/
abbrev Elems := List (Nat × Nat)

/-- Elements of a set. -/
def Elems.size (r : Elems) : Nat := r.foldl (fun n e => n + e.2) 0

/-- The elements of a set from position `off` on, `len` of them. -/
def sliceOf : Elems → Nat → Nat → Elems
  | [], _, _ => []
  | (a, n) :: r, off, len =>
    if len = 0 then []
    else if n ≤ off then sliceOf r (off - n) len
    else (a + off, min (n - off) len) :: sliceOf r 0 (len - min (n - off) len)

/-- A set cut at the bounds of shares of `w` elements. -/
def cutShares (w : Nat) (r : Elems) : Elems :=
  r.flatMap fun e => (rangeFrom (e.1 / w) ((e.1 + e.2 - 1) / w + 1 - e.1 / w)).map fun i =>
    (max e.1 (i * w), min (e.1 + e.2) (i * w + w) - max e.1 (i * w))

/-- The part of a set for ring position `p` of ring `j`: equal contiguous parts, or for REDUCE_SCATTER and ALLGATHER the shares of
the ranks that have that position (R312, assumption 42). -/
def Coll.part (c : Coll) (rs : List RDim) (j p : Nat) (set : Elems) : Elems :=
  let e := (rs.getD j ⟨0, 1, 0, 0, 0⟩).ext
  if c.kind = kReduceScatter ∨ c.kind = kAllgather then
    let w := c.count / groupSize rs
    (cutShares w (set.filter fun x => x.2 != 0)).filter fun x => x.1 / w / groupSize (rs.take j) % e == p
  else sliceOf set (p * ceilDiv set.size e) (ceilDiv set.size e)

/-- The elements of stream `k` on a ring: the first half goes round the + rings, the second round the − rings. -/
def Coll.half (c : Coll) (depth k ring : Nat) : Elems :=
  let q := ceilDiv c.count depth
  let a := min (k * q) c.count
  let n := min (a + q) c.count - a
  let h := ceilDiv n 2
  if ring = 0 then [(a, h)] else [(a + h, n - h)]

/-- The set on which ring `j` works: the parts that this node holds in the rings before it. -/
def Coll.setAt (c : Coll) (rs : List RDim) (depth k ring j : Nat) : Elems :=
  (rangeFrom 0 j).foldl (fun set i => c.part rs i (rs.getD i ⟨0, 1, 0, 0, 0⟩).pos set) (c.half depth k ring)

/-! ### Steps (R312, R313) -/

/-- One step of a stream: ring, whether it belongs to an all-gather, the ring step, and its share of a ring step that exceeds the
capacity. -/
structure CPlan where
  j : Nat
  ag : Bool
  i : Nat
  m : Nat
  deriving DecidableEq, Repr

/-- The direction in which a ring leaves this node: 0 sends toward the next node, 1 toward the previous one. -/
def ringDir (s : State) (r : RDim) (ring : Nat) : Option Nat :=
  if r.dim = 3 then routeDir s.node (if ring = 0 then r.next else r.prev) else some (2 * r.dim + ring)

/-- The ports of a step's direction in the allowed planes that were OPEN when the collective began. -/
def Coll.ports (s : State) (c : Coll) (r : RDim) (ring : Nat) : List Nat :=
  match ringDir s r ring with
  | none => []
  | some d => (c.planes.flatMap fun pl => portsOf pl d).filter c.opened.contains

/-- Packets that a step moves in one direction: its capacity C in packets of 1,024 B (R313). -/
def Coll.capacity (s : State) (c : Coll) (r : RDim) (ring : Nat) : Nat :=
  let f := s.job.coll * (1000 - s.job.reserve) * 100 / 8192
  let b := (c.ports s r ring).length * 1024 * (f / 5)
  match ringDir s r ring with
  | none => 0
  | some d => (if r.dim = 3 then b / s.node.extent (d / 2) else b) / 1024

/-- The part that a node at a position sends in a ring step, and the part that it receives (assumption 42). -/
def sendPart (ag : Bool) (ring pos e i : Nat) : Nat :=
  (match ag, ring with
  | false, 0 => pos + 2 * e - 1 - i
  | false, _ => pos + 1 + i
  | true, 0 => pos + e - i
  | true, _ => pos + i) % e
/-- The part that it receives. -/
def recvPart (ag : Bool) (ring pos e i : Nat) : Nat :=
  (match ag, ring with
  | false, 0 => pos + 2 * e - 2 - i
  | false, _ => pos + 2 + i
  | true, 0 => pos + 2 * e - 1 - i
  | true, _ => pos + 1 + i) % e

/-- Elements of a packet. -/
def Coll.perPkt (c : Coll) : Nat := 1024 / c.es

/-- A set as packets: first element and number of elements. -/
def Coll.packets (c : Coll) (set : Elems) : Elems :=
  set.flatMap fun e => (rangeFrom 0 (ceilDiv e.2 c.perPkt)).map fun i => (e.1 + i * c.perPkt, min c.perPkt (e.2 - i * c.perPkt))

/-- The steps into which a ring step divides: ⌈bytes / C⌉ for its longest part. -/
def Coll.subSteps (s : State) (c : Coll) (rs : List RDim) (k j : Nat) : Nat :=
  let r := rs.getD j ⟨0, 1, 0, 0, 0⟩
  [0, 1].foldl (fun n ring =>
    let set := c.setAt rs s.job.depth k ring j
    let longest := (rangeFrom 0 r.ext).foldl (fun n p => max n (c.packets (c.part rs j p set)).length) 0
    let cap := c.capacity s r ring
    if cap = 0 then n else max n (ceilDiv longest cap)) 1

/-- The steps of stream `k` in order (R312). -/
def Coll.plan (s : State) (c : Coll) (k : Nat) : List CPlan :=
  let rs := c.rings s
  let js := rangeFrom 0 rs.length
  let phases := (if c.kind = kAllgather then [] else js.map fun j => (j, false)) ++
    (if c.kind = kReduceScatter then [] else js.reverse.map fun j => (j, true))
  phases.flatMap fun ph => (rangeFrom 0 ((rs.getD ph.1 ⟨0, 1, 0, 0, 0⟩).ext - 1)).flatMap fun i =>
    (rangeFrom 0 (c.subSteps s rs k ph.1)).map fun m => ⟨ph.1, ph.2, i, m⟩

/-- The packets of a step on a ring: those that this node sends, or those that it expects. -/
def Coll.stepPkts (s : State) (c : Coll) (k ring : Nat) (pl : CPlan) (send : Bool) : Elems :=
  let rs := c.rings s
  let r := rs.getD pl.j ⟨0, 1, 0, 0, 0⟩
  let p := if send then sendPart pl.ag ring r.pos r.ext pl.i else recvPart pl.ag ring r.pos r.ext pl.i
  let all := c.packets (c.part rs pl.j p (c.setAt rs s.job.depth k ring pl.j))
  let cap := c.capacity s r ring
  if cap = 0 then all else (all.drop (pl.m * cap)).take cap

/-! ### Legal records (R310, R312, R325) -/

/-- The reserved bits of a record are zero, as are ROOT but for a BROADCAST and the upper bits of SRC and DST (R5, R310). -/
def Coll.reservedZero (c : Coll) : Bool :=
  fld c.ctl.toNat 20 12 == 0 && fld c.sig.toNat 21 10 == 0 && fld c.sig.toNat 11 5 == 0 && c.resv == 0 &&
    decide (c.root < if c.kind = kBroadcast then 2 ^ 20 else 1) && decide (c.src < 2 ^ 48) && decide (c.dst < 2 ^ 48)

/-- A record that the engine can run. -/
def Coll.legal (s : State) (c : Coll) : Bool :=
  let g := groupSize (c.rings s)
  let bytes := c.count * c.es
  let word := fun a => a == 0 || (a % 4 == 0 && decide (a + 4 ≤ Config.poolBytes))
  decide (1 ≤ c.kind) && decide (c.kind ≤ 5) && c.reservedZero && decide (1 ≤ c.count) &&
    decide (c.count ≤ 2 ^ 28) && decide (aType c.op ≠ 7) &&
    (if c.kind = kBroadcast then decide (aType c.addop < 2) else if c.kind = kBarrier then c.count == 1
      else if c.kind = kAllgather then true else aLegal c.addop && decide (aOp c.addop ≤ 5)) &&
    (if c.kind = kReduceScatter ∨ c.kind = kAllgather then c.count % (g * s.job.depth) == 0 else true) &&
    c.dst % c.es == 0 && c.src % c.es == 0 && decide (c.dst + bytes ≤ Config.poolBytes) &&
    (c.kind == kBarrier || (decide (c.src + bytes ≤ Config.poolBytes) && !(c.src < c.dst + bytes && c.dst < c.src + bytes))) &&
    !(c.dst < c.addr + 128 && c.addr < c.dst + bytes) && word c.trig && word c.doneW

/-- A node map entry marks a physical address as an FX8 (R287). -/
def State.gen8Node (s : State) (a : Nat) : Bool :=
  match roleAt s a with
  | some e => e.2.gen8
  | none => false

/-- A record is within the FX8 subset (R325). -/
def Coll.fx8 (c : Coll) : Bool :=
  c.kind == kBroadcast || c.kind == kBarrier || (decide (aOp c.addop ≤ 2) && [0, 1, 4, 5].contains (aType c.addop))

/-! ### Floods and failures (R307, R316, R319) -/

/-- The node belongs to a job, before its start tick or after it (R309). -/
def Job.member (j : Job) : Bool := j.st == .run || j.st == .armed

/-- A FLOOD of this node, on every port that leads to a node of its job. -/
def floodOut (s : State) (bound origin kind cause : Nat) : State :=
  let s := s.modJob fun j => { j with floods := (bound, origin, j.id) :: j.floods }
  forEach s.jobPorts (fun p s => sendCtrl s p (.flood p (bound % 2 ^ 32) origin kind cause s.job.id)) s

/-- A collective ends: STATUS and DETAIL are written in one 32 B sector, its reserved bytes zero, then DONE and the signal follow
(R310). -/
def endColl (s : State) (c : Coll) (status cause detail : Nat) : State :=
  let w := leBytes 4 (mkFld 0 8 status + mkFld 8 8 (fld c.flags.toNat 0 3) + mkFld 16 8 cause) ++ leBytes 4 0 ++ leBytes 8 detail ++
    leBytes 16 0
  let s := (writePool s (c.addr + 0x40) w).1
  let s := if c.doneW = 0 then s else (adderApply s c.doneW 0 1 0).1
  let t := fld c.sig.toNat 0 11
  if c.sig.getLsbD 31 ∧ okTile t then raiseSrc s t (32 + fld c.sig.toNat 16 5) else s

/-- Every posted collective ends with a status. -/
def endAll (s : State) (status cause detail : Nat) : State :=
  let cs := s.job.posted
  forEach cs (fun c s => endColl s c status cause detail) (s.modJob fun j => { j with posted := [], early := [] })

/-- The collectives of a participant end because a node has failed (R319). -/
def failColls (s : State) (origin cause : Nat) : State :=
  endAll s (if cause = fcMismatch then csMismatch else csFailedStep) cause (origin + s.job.jt.toNat % 2 ^ 32 * 2 ^ 32)

/-- The node leaves its job with FAILED_STEP (R319). -/
def leaveFailed (s : State) (cause : Nat) : State :=
  let s := failColls (floodOut s s.tick.num.toNat s.node.phys 2 cause) s.node.phys cause
  s.modJob fun j => { j with st := .failed, id := 0, holds := [], held := false, haltHold := false, haltAt := [] }

/-- A participant learns of a failure: the hold of a LATE for that boundary is not applied, and its collectives end. A node that is
itself named has left the job. -/
def nodeFailed (s : State) (bound origin cause : Nat) : State :=
  let s := failColls s origin cause
  let s := s.modJob fun j =>
    { j with failedNodes := origin :: j.failedNodes, lateFor := bound :: j.lateFor,
             holds := j.holds.filter (· != bound + j.depth - 1) }
  if origin = s.node.phys then
    s.modJob fun j => { j with st := .failed, id := 0, holds := [], held := false, haltHold := false, haltAt := [] }
  else s

/-- The first boundary after `n` that is not held. -/
def nextFree (holds : List Nat) : Nat → Nat → Nat
  | 0, n => n
  | fuel + 1, n => if holds.contains n then nextFree holds fuel (n + 1) else n

/-- A LATE for a boundary: one hold, of the tick that begins D − 1 boundaries later. One that comes after it is applied to the next
tick not held, with HOLD_MISSED (R316). -/
def lateMark (s : State) (b origin : Nat) : State :=
  let j := s.job
  if j.lateFor.contains b then s
  else
    let t := b + j.depth - 1
    let missed : Bool := decide (t ≤ s.tick.num.toNat)
    let at_ := nextFree j.holds j.holds.length (if missed then s.tick.num.toNat + 1 else t)
    let s := s.modJob fun j =>
      { j with lateFor := b :: j.lateFor, holds := at_ :: j.holds, missed := if missed then satAdd 0xFFFF j.missed 1 else j.missed }
    if missed then logEvent s 0x0402 0 dieModule [b, origin] else s

/-- The boundary that the low 32 bits of a FLOOD name: the one nearest to the present. -/
def fullBound (s : State) (b : Nat) : Nat :=
  ((s.tick.num.toNat : Int) + sInt 32 (b + 2 ^ 32 - s.tick.num.toNat % 2 ^ 32)).toNat

/-- FLOOD (R307, R316, R319): one of this job, not seen before, is forwarded and acted on. -/
def doFlood (port bound origin kind cause job : Nat) (s : State) : State :=
  let b := fullBound s bound
  if (s.port port).st < 2 then s
  else
    let s := countCtrl s port
    if !s.job.member ∨ job ≠ s.job.id ∨ s.job.floods.contains (b, origin, job) then s
    else
      let s := floodOut s b origin kind cause
      if kind = 1 then lateMark s b origin else nodeFailed s b origin cause

/-- FLOOD. -/
def execFlood (port bound origin kind cause job : Nat) (s : State) : Host.Outcome State Fault Refusal :=
  require (decide (port < Config.ports) && decide (bound < 2 ^ 32) && decide (origin < 2 ^ 20) && (kind == 1 || kind == 2) &&
    decide (cause < 256) && decide (job < 65536)) (doFlood port bound origin kind cause job s)

/-- NODE_LOST (R319): no heartbeat for four boundaries on any port that leads to a node of the block. -/
def doNodeLost (phys : Nat) (s : State) : State :=
  let ps := (rangeFrom 0 Config.ports).filter fun p => (s.port p).nbPhys == some phys
  if !s.job.member ∨ ps = [] ∨ !(ps.all fun p => decide (4 ≤ (s.port p).silent)) ∨ !(s.job.pods.getLsbD (podOf phys)) ∨
      s.job.failedNodes.contains phys then s
  else nodeFailed (floodOut s s.tick.num.toNat phys 2 fcNodeLost) s.tick.num.toNat phys fcNodeLost

/-- NODE_LOST. -/
def execNodeLost (phys : Nat) (s : State) : Host.Outcome State Fault Refusal :=
  require (decide (phys < 2 ^ 20)) (doNodeLost phys s)

/-! ### The engine (R311–R315) -/

/-- A posted collective with a function applied. -/
def modColl (s : State) (seq : Nat) (f : Coll → Coll) : State :=
  s.modJob fun j => { j with posted := j.posted.map fun c => if c.seq = seq then f c else c }

/-- A step has closed (R315). -/
def CStep.closed (x : CStep) : Bool := x.sends == 0 && x.expect == 0

/-- A step's inputs have closed, and the trigger of its collective is met. -/
def Coll.ready (c : Coll) (x : CStep) : Bool :=
  c.trigMet && c.steps.all fun y => y.stream != x.stream || decide (x.step ≤ y.step) || y.closed

/-- The ports of a step are all in service. -/
def Coll.open_ (s : State) (c : Coll) (k : Nat) (pl : CPlan) : Bool :=
  let r := (c.rings s).getD pl.j ⟨0, 1, 0, 0, 0⟩
  [0, 1].all fun ring => c.stepPkts s k ring pl true == [] ||
    (c.ports s r ring != [] && (c.ports s r ring).all (fun p => decide (3 ≤ (s.port p).st)) && c.capacity s r ring != 0)

/-- A COLL DATA packet of a step (R313), with the role that the node map gives its destination (R288). -/
def collPkt (s : State) (c : Coll) (k ring step to_ : Nat) (e : Nat × Nat) : State × Pkt × Bool :=
  let r := readPool s (c.dst + c.es * e.1) (c.es * e.2)
  let d := r.2
  let hdr := leBytes 2 c.seq ++ leBytes 1 (k + 8 * ring) ++ leBytes 1 0 ++ leBytes 4 step ++ leBytes 4 e.1 ++ leBytes 4 c.sign.toNat
  let a := addressed r.1 { cls := 3, typ := 1, dphys := to_, sphys := s.node.phys, sepoch := s.node.epoch, slog := s.node.logical,
                           job := s.job.id, len := 16 + d.1.length, payload := hdr ++ d.1 }
  (a.1, a.2, d.2.isSome)

/-- The packets of a step sent over the ports of each direction in rotation; a poisoned line of DST ends the job. -/
def sendStep (s : State) (c : Coll) (x : CStep) (pl : CPlan) : State :=
  let r := (c.rings s).getD pl.j ⟨0, 1, 0, 0, 0⟩
  let want := [0, 1].flatMap fun ring =>
    let ps := c.ports s r ring
    ((c.stepPkts s x.stream ring pl true).zipIdx).map fun e => (ps.getD (e.2 % ps.length) 0, ring, e.1)
  let y := want.foldl (fun (y : State × List (Nat × Pkt × Bool)) e =>
    let p := collPkt y.1 c x.stream e.2.1 x.step (if e.2.1 = 0 then r.next else r.prev) e.2.2
    (p.1, y.2 ++ [(e.1, p.2)])) (s, [])
  let s := y.1
  let all := y.2
  if all.any fun e => e.2.2 then leaveFailed s fcPoison
  else
    let s := modColl s c.seq fun c => { c with steps := c.steps.map fun y => if y = x then { y with sends := 0 } else y }
    forEach all (fun e s =>
      sendHop s none { e.2.1 with plane := planeOf e.1 } e.1 false) s

/-- Elements combined into DST by adder operations: the state, the flags, and whether a codeword was poisoned (R314). In an
all-gather the operation is SWAP (assumption 42). -/
def combineContrib (op : BitVec 8) (es : Nat) : Nat → State → Nat → List Byte → EFlags → State × EFlags × Bool
  | 0, s, _, _, f => (s, f, false)
  | n + 1, s, addr, data, f =>
    if data = [] then (s, f, false)
    else
      let r := adderApply s addr op (leNat (data.take es)) 0
      if r.2.poison then (r.1, f, true) else combineContrib op es n r.1 (addr + es) (data.drop es) (f ||| r.2.flags)

/-- Fields of a COLL DATA payload: SEQ, stream, step, first element, SIGN. -/
def pktSeq (p : Pkt) : Nat := fieldAt p.payload 0 2
/-- Stream. -/
def pktStream (p : Pkt) : Nat := fieldAt p.payload 2 1 % 8
/-- Step. -/
def pktStep (p : Pkt) : Nat := fieldAt p.payload 4 4
/-- First element. -/
def pktOffset (p : Pkt) : Nat := fieldAt p.payload 8 4
/-- SIGN. -/
def pktSign (p : Pkt) : Nat := fieldAt p.payload 12 4

/-- The step that a packet belongs to, if it can be combined now. -/
def Coll.stepFor (c : Coll) (p : Pkt) : Option CStep :=
  c.steps.find? fun x => x.stream == pktStream p && x.step == pktStep p && c.ready x

/-- A packet combined, and counted for its step. -/
def takePkt (s : State) (c : Coll) (x : CStep) (p : Pkt) : State :=
  let pl := (c.plan s x.stream).getD x.step ⟨0, false, 0, 0⟩
  let op := if pl.ag then BitVec.ofNat 8 (6 + 16 * aType c.op) else c.op
  let r := combineContrib op c.es 1024 s (c.dst + c.es * pktOffset p) (p.payload.drop 16) 0
  if r.2.2 then leaveFailed r.1 fcPoison
  else modColl r.1 c.seq fun c =>
    { c with flags := c.flags ||| r.2.1,
             steps := c.steps.map fun y => if y.stream = x.stream ∧ y.step = x.step then { y with expect := y.expect - 1 } else y }

/-- The next thing that the engine can do: send a step of a collective, or combineContrib a packet that came early. -/
def collTurn (s : State) : Option State :=
  let send := (s.job.posted.flatMap fun c => c.steps.map fun x => (c, x, (c.plan s x.stream).getD x.step ⟨0, false, 0, 0⟩)).find?
    fun e => e.2.1.sends != 0 && e.1.ready e.2.1 && e.1.open_ s e.2.1.stream e.2.2
  match send with
  | some e => some (sendStep s e.1 e.2.1 e.2.2)
  | none =>
    let take := s.job.early.findSome? fun p => (s.job.posted.find? fun c => c.seq == pktSeq p).bind fun c =>
      (c.stepFor p).map fun x => (p, c, x)
    take.map fun e => takePkt (s.modJob fun j => { j with early := j.early.erase e.1 }) e.2.1 e.2.2 e.1

/-- The engine goes on as far as it can; closed steps leave the list. -/
def pumpColl : Nat → State → State
  | 0, s => s
  | n + 1, s =>
    let s := s.modJob fun j => { j with posted := j.posted.map fun c => { c with steps := c.steps.filter fun x => !x.closed } }
    match collTurn s with
    | none => s
    | some s => pumpColl n s

/-- Turns that the engine can take at most. -/
def State.collFuel (s : State) : Nat := s.job.early.length + s.job.posted.foldl (fun n c => n + c.steps.length) 0 + 1

/-- The trigger word of a collective is read, and whether it is met (R310, R311); a poisoned word is not (assumption 42). -/
def Coll.trigger (s : State) (c : Coll) : State × Bool :=
  if c.trig = 0 then (s, true)
  else
    let w := readPool s c.trig 4
    (w.1, w.2.2.isNone && decide (c.thresh.toNat ≤ leNat w.2.1))

/-- What a node brings to a collective, copied into DST before its first send: SRC; zeros at every node of a BROADCAST but ROOT;
1 in a BARRIER (R310, R311). -/
def Coll.contribution (s : State) (c : Coll) : State × List Byte × Option Nat :=
  if c.kind = kBarrier then (s, leBytes 4 1, none)
  else if c.kind = kBroadcast ∧ c.root ≠ s.node.phys then (s, List.replicate (c.count * c.es) 0, none)
  else readPool s c.src (c.count * c.es)

/-- A collective whose trigger is met now copies SRC into DST; poison ends the job. -/
def tryTrigger (seq : Nat) (s : State) : State :=
  match s.job.posted.find? fun c => c.seq == seq with
  | none => s
  | some c =>
    if c.begun.isNone ∨ c.trigMet ∨ !c.legal s then s
    else
      let w := c.trigger s
      if !w.2 then w.1
      else
      let d := c.contribution w.1
      if d.2.2.isSome then leaveFailed d.1 fcPoison
      else
        let r := writePool d.1 c.dst d.2.1
        if r.2.isSome then leaveFailed r.1 fcPoison else modColl r.1 seq fun c => { c with trigMet := true }

/-- The job tick of the last step of a collective that begins at tick `t` (R312). -/
def Coll.lastTick (s : State) (c : Coll) (t : Nat) : Nat :=
  (rangeFrom 0 s.job.depth).foldl (fun n k =>
    let m := (c.plan s k).length
    if m = 0 then n else max n (t + k + s.job.depth * (m - 1))) t

/-- The steps of a collective that job tick `jt` schedules: step n of stream k at T_c + k + D × n (R312). -/
def scheduleAt (c : Coll) (t jt : Nat) (s : State) : State :=
  let d := s.job.depth
  if !c.legal s then s
  else forEach (rangeFrom 0 d) (fun k s =>
    let n := (jt - t - k) / d
    if jt < t + k ∨ (jt - t - k) % d ≠ 0 then s
    else match (c.plan s k)[n]? with
      | none => s
      | some pl =>
        let count := fun send => [0, 1].foldl (fun m ring => m + (c.stepPkts s k ring pl send).length) 0
        modColl s c.seq fun c => { c with steps := c.steps ++ [⟨k, n, count false, count true, 0⟩] }) s

/-- The next collective begins if its time has come (R311): T_c is the larger of START and the job tick after the last step of the one
before it, also for a record that was posted after that tick, whose steps until now are then open at once. An illegal one has no steps. -/
def beginColl (s : State) : State :=
  let jt := s.job.jt.toNat
  match s.job.posted.find? fun c => c.begun.isNone with
  | none => s
  | some c =>
    let t := max c.start s.job.nextTick
    if jt < t then s
    else
      let c := { c with begun := some t, opened := (rangeFrom 0 Config.ports).filter fun p => decide (3 ≤ (s.port p).st) }
      let c := { c with next := if c.legal s then c.lastTick s t + 1 else t }
      let s := (modColl s c.seq fun _ => c).modJob fun j => { j with nextTick := c.next }
      forEach (rangeFrom t (jt - t)) (fun x s => scheduleAt c t x s) s

/-- The steps that this job tick schedules (R312). -/
def scheduleSteps (s : State) : State :=
  forEach s.job.posted (fun c s => match c.begun with
    | none => s
    | some t => scheduleAt c t s.job.jt.toNat s) s

/-- The cause of a LATE for an unclosed step (R317). -/
def Coll.lateCause (s : State) (c : Coll) (x : CStep) : Nat :=
  let pl := (c.plan s x.stream).getD x.step ⟨0, false, 0, 0⟩
  if !c.trigMet then 0
  else if !c.open_ s x.stream pl then 2
  else if x.expect ≠ 0 ∨ !c.ready x then 1 else 4

/-- LATE at a boundary (R316–R318): a node with an unclosed step floods it, and counts the boundaries of each step whose cause is
its own. -/
def markLate (s : State) : State :=
  let open_ := s.job.posted.flatMap fun c => c.steps.map fun x => c.lateCause s x
  match open_ with
  | [] => s.modJob fun j => { j with lateNow := none }
  | cause :: _ =>
    let b := s.tick.num.toNat
    let s' := s.modJob fun j =>
      { j with lateNow := some cause, lates := Tab.set 0 j.lates cause (Tab.get 0 j.lates cause + 1),
               slowLate := if j.slow then satAdd 0xFFFF j.slowLate 1 else j.slowLate,
               posted := j.posted.map fun c => { c with steps := c.steps.map fun x =>
                 { x with lates := if c.lateCause s x = 1 then 0 else x.lates + 1 } } }
    lateMark (floodOut s' b s.node.phys 1 cause) b s.node.phys

/-- COLL_DATA (R288, R314, R319): a packet of this job at its destination. One that does not name the node's role is refused; one of an
unknown SEQ or of another SIGN fails the node; one that comes before its step can take it waits. -/
def doCollData (port : Nat) (p : Pkt) (s : State) : State :=
  if !s.takes port p ∨ p.dphys ≠ s.node.phys then s
  else
    let s := countRx s port p
    if !s.roleOk p then noteRefusal s mcStaleRole
    else if !s.job.member ∨ p.job ≠ s.job.id then s
    else match s.job.posted.find? fun c => c.seq == pktSeq p with
      | none => leaveFailed s fcMismatch
      | some c =>
        if pktSign p ≠ c.sign.toNat then leaveFailed s fcMismatch
        else
          let s := s.modJob fun j => { j with early := j.early ++ [p] }
          pumpColl s.collFuel s

/-- COLL_DATA. -/
def execCollData (port : Nat) (p : Pkt) (s : State) : Host.Outcome State Fault Refusal :=
  require (decide (port < Config.ports) && p.cls == 3) (doCollData port p s)

/-- COLL_COMPLETE (R310, R311): the oldest collective has closed its last step. -/
def doCollComplete (s : State) : State :=
  match s.job.posted with
  | [] => s
  | c :: rest =>
    if c.begun.isNone ∨ c.steps ≠ [] then s
    else if !c.legal s then endColl (s.modJob fun j => { j with posted := rest }) c csBadConfig 0 0
    else if !c.trigMet ∨ s.job.jt.toNat + 1 < c.next then s
    else endColl (s.modJob fun j => { j with posted := rest }) c csOk 0 0

/-- COLL_COMPLETE. -/
def execCollComplete (s : State) : Host.Outcome State Fault Refusal := require true (doCollComplete s)

/-- STEP_TIMEOUT (R318): a step has been LATE for STEPWAIT boundaries for a cause of this node's own. -/
def doStepTimeout (stream step : Nat) (s : State) : State :=
  let due := s.job.posted.any fun c => c.steps.any fun x =>
    x.stream == stream && x.step == step && !x.closed && decide (s.job.stepWait.toNat ≤ x.lates)
  if s.job.st = .run ∧ due then leaveFailed s fcStepTimeout else s

/-- STEP_TIMEOUT. -/
def execStepTimeout (stream step : Nat) (s : State) : Host.Outcome State Fault Refusal := require true (doStepTimeout stream step s)

/-! ### JOB commands (R311, R326) -/

/-- A record of 128 B read at posting. -/
def parseColl (addr seq : Nat) (b : List Byte) : Coll :=
  { addr := addr, ctl := BitVec.ofNat 32 (fieldAt b 0 4), count := fieldAt b 4 4, src := fieldAt b 8 8, dst := fieldAt b 0x10 8,
    start := fieldAt b 0x18 8, trig := fieldAt b 0x20 8, thresh := BitVec.ofNat 32 (fieldAt b 0x28 4), root := fieldAt b 0x2C 4,
    doneW := fieldAt b 0x30 8, sig := BitVec.ofNat 32 (fieldAt b 0x38 4), resv := BitVec.ofNat 32 (fieldAt b 0x3C 4), seq := seq, sign := crc32c 0 (b.take 8) }

/-- COLL_POST (R311, R325): the record is read and runs after those posted before it. A poisoned record is illegal (assumption
42). -/
def doCollPost (r : Req) (addr : Nat) (s : State) : State :=
  let c := parseColl addr s.job.seqs (if peekPoison s addr 128 then [] else peekPool s addr 128)
  command r 0x0B04 [(addr % 128 ≠ 0, bsBadParam), (decide (Config.poolBytes < addr + 128), bsBadAddress),
      (decide (16 ≤ s.job.posted.length), bsBusy), (s.job.st != .run && s.job.st != .armed, bsNoJob),
      (!c.fx8 && (c.group s).any s.gen8Node, bsUnsupported)] 0 (fun p s =>
    replying r bsOk [(4, c.seq)] p ((readPool s addr 128).1.modJob fun j =>
      { j with posted := j.posted ++ [c], seqs := (j.seqs + 1) % 65536, seq := if j.posted = [] then c.seq else j.seq })) s

/-- COLL_POST. -/
def execCollPost (r : Req) (addr : Nat) (s : State) : Host.Outcome State Fault Refusal :=
  require (okReq r && decide (addr < 2 ^ 64)) (doCollPost r addr s)

/-- JOB_END (R319, R326): posted collectives complete with CANCELLED, or with FAILED_STEP where one is running. -/
def doJobEnd (r : Req) (s : State) : State :=
  command r 0x0B02 [] 0 (fun p s =>
    let running := s.job.posted.any fun c => c.begun.isSome
    let s :=
      if running then leaveFailed s fcLeft
      else
        let s := if s.job.posted = [] then s else floodOut s s.tick.num.toNat s.node.phys 2 fcLeft
        (endAll s csCancelled 0 0).modJob fun j =>
          { j with st := .none, id := 0, holds := [], held := false, haltHold := false, haltAt := [] }
    replying r bsOk [] p s) s

/-- JOB_END. -/
def execJobEnd (r : Req) (s : State) : Host.Outcome State Fault Refusal := require (okReq r) (doJobEnd r s)

/-- JOB.ID.STATE (R327). -/
def jobCode : JobSt → Nat
  | .none => 0 | .armed => 1 | .run => 2 | .failed => 3

/-- JOB.FLAGS (R327). -/
def jobFlags (j : Job) : Nat := mkBit 31 j.slow + mkFld 24 6 j.slowNb.toNat + mkFld 0 16 j.slowLate

/-- JOB_STATUS (R326): state, identifier, job tick, SLIP, MISSED, LATE per cause, flags, posted collectives (assumption 26). -/
def doJobStatus (r : Req) (s : State) : State :=
  command r 0x0B03 [] 0 (fun p s =>
    let j := s.job
    replying r bsOk ([(2, jobCode j.st), (2, j.id), (4, 0), (8, j.jt.toNat), (4, j.slip.toNat), (4, j.missed)] ++
      (rangeFrom 0 5).map (fun c => (4, (Tab.get 0 j.lates c).toNat)) ++ [(4, jobFlags j), (4, j.posted.length)]) p s) s

/-- JOB_STATUS. -/
def execJobStatus (r : Req) (s : State) : Host.Outcome State Fault Refusal := require (okReq r) (doJobStatus r s)

/-! ### Registers (R9, R327) -/

/-- JOB_MISSED_READ: the count is read and cleared, but for `ev` events of the same cycle. -/
def doJobMissedRead (ev : Nat) (s : State) : State := (s.ret s.job.missed).modJob fun j => { j with missed := min 0xFFFF ev }

/-- JOB_MISSED_READ. -/
def execJobMissedRead (ev : Nat) (s : State) : Host.Outcome State Fault Refusal := require true (doJobMissedRead ev s)

/-- JOB_FLAGS_READ: SLOWLATE is read and cleared. -/
def doJobFlagsRead (ev : Nat) (s : State) : State := (s.ret (jobFlags s.job)).modJob fun j => { j with slowLate := min 0xFFFF ev }

/-- JOB_FLAGS_READ. -/
def execJobFlagsRead (ev : Nat) (s : State) : Host.Outcome State Fault Refusal := require true (doJobFlagsRead ev s)

/-- JOB_TICKLO_READ: a read of TICKLO latches TICKHI. -/
def doJobTickloRead (s : State) : State :=
  (s.ret (s.job.jt.toNat % 2 ^ 32)).modJob fun j => { j with latch := BitVec.ofNat 32 (j.jt.toNat / 2 ^ 32) }

/-- JOB_TICKLO_READ. -/
def execJobTickloRead (s : State) : Host.Outcome State Fault Refusal := require true (doJobTickloRead s)

/-- JOB.COLL (R327). -/
def jobColl (j : Job) : Nat :=
  let run := j.posted.find? fun c => c.begun.isSome
  mkBit 31 run.isSome + mkFld 16 5 j.posted.length + mkFld 0 16 (match run with
    | some c => c.seq
    | none => j.seq)

end Sys2Proof.Machine
end

