-- ==== Sys2Proof/Machine/Ticks.lean ====
section
/-!
DEFINITION. The span tick (R17, R302–R308, R327): what a boundary does, the tick's lock states, TIMESYNC and HEARTBEAT packets, and
halts of a job (R408).
-/

namespace Sys2Proof.Machine
open Sys2Proof

/-! ### Power at a boundary (R350–R353, R361, R366) -/

/-- The decks. -/
def allDecks : List Nat := rangeFrom 0 12

/-- The highest clock of a deck die: the lower of its DVFS_SET and its thermal ceiling (R353). -/
def Deck.ceiling (d : Deck) : Nat := min d.dvfsMax d.therm

/-- A deck clock within its limits: not below its minimum, and never above its ceiling (assumption 44). -/
def Deck.bounded (d : Deck) : Deck := { d with cur := min (max d.cur d.dvfsMin) d.ceiling }

/-- The manager's settings that a boundary applies: MANAGED, and a new cap (R361, R366). -/
def applySettings (s : State) : State :=
  let s := if s.power.managedPend then
      forEach [0, 1, 2, 3] (fun p s => s.modPier p fun P => { P with localMode := false })
        (s.modPower fun w => { w with managed := true, managedPend := false })
    else s
  match s.power.newCap with
  | some (c, w) => s.modPower fun x => { x with cap := c, window := w, newCap := none }
  | none => s

/-- The allowance A(t) in µJ (R350): the cap over the window, less Ê of its last W − 1 ticks. For the tick that ends now Ê is the highest
power that its grant allows, for those before it the estimate E. -/
def allowance (w : Power) : Int := w.cap * w.window - (w.promise + (w.past.take (w.window - 2)).foldl (· + ·) 0 : Nat)

/-- The largest grant from 1 to 64 whose predicted power fits an allowance, or 0 (R350). `predict` gives the power of each grant. -/
def largestGrant (predict : List Nat) (a : Int) : Nat :=
  (predict.zipIdx).foldl (fun b e => if (e.1 : Int) ≤ a then max b (e.2 + 1) else b) 0

/-- The grant of a tick (R350, R351), at least 1. Where not even grant 1 fits at 0.9 GHz, which is the floor, every deck is held there. -/
def applyGrant (s : State) (predict : List Nat) (estimate floor : Nat) : State :=
  let a := allowance s.power
  let grant := max 1 (largestGrant predict a)
  let bound : Bool := decide (largestGrant predict a = 0 ∧ a < floor)
  let s := s.modPower fun w =>
    { w with estimate := estimate, floor := floor, effective := max w.cap floor, past := (estimate :: w.past).take 9999,
             promise := if !w.managed then estimate else if bound then floor else predict.getD (grant - 1) 0 }
  if !s.power.managed then s
  else
    let entered : Bool := bound && !s.power.floorBound
    let s := s.modPower fun w => { w with grant := grant, floorBound := bound }
    let s := if bound then forEach allDecks (fun d s => s.modDeck d fun x => { x with cur := 900 }) s else s
    if entered then logEvent s 0x0504 0 dieModule [floor] else s

/-- How long a deck's grant has been below 32, and at 64 (R353). -/
def Deck.count (d : Deck) (b : Nat) : Deck :=
  { d with low := if b < 32 then d.low + 1 else 0, full := if b = 64 then d.full + 1 else 0 }

/-- The clock settings of DVFS_SET that a boundary divisible by 100 applies (R366). -/
def applyClocks (s : State) : State :=
  let s := forEach allDecks (fun d s => s.modDeck d fun x => Deck.bounded { x with dvfsMin := x.newMin, dvfsMax := x.newMax }) s
  forEach s.power.clusterMhz (fun e s => s.modCluster e.1 fun c => { c with mhz := e.2 })
    (s.modPower fun w => { w with clusterMhz := [] })

/-- What a boundary does in power control. The input's voltage and current over the tick are free values. -/
def powerTick (s : State) (predict : List Nat) (estimate floor : Nat) : State :=
  let s := applyGrant (applySettings s) predict estimate floor
  let s := forEach allDecks (fun d s => s.modDeck d fun x => x.count (min s.power.grant x.budgetCap)) s
  let s := (s.modPower fun w => { w with vinVolt := s.freeVal % 65536 }).takeFree
  let s := (s.modPower fun w => { w with vinCur := s.freeVal % 65536 }).takeFree
  if s.tick.num.toNat % 100 = 0 then applyClocks s else s

/-- The node runs below full rate (R317). -/
def State.isSlow (s : State) : Bool :=
  s.power.clamp || allDecks.any fun d => decide (budgetOf s (Config.tilesPerDeck * d) < 64) || decide ((s.deck d).cur < 2000)

/-! ### Tiles, counters and trace at a boundary (R41, R389, R394–R397, R402) -/

/-- Boundary `n` at a tile: TICK becomes pending, and the event counts. -/
def tileTick (t : Nat) (s : State) : State :=
  if (s.tile t).st = .unavailable then s else tileEvent (raiseSrc s t 4) t 0x11 none 1

/-- Boundary `n` in the units that observe. -/
def observeTick (s : State) (n : Nat) : State :=
  let s := forEach (s.tiles.map (·.1)) flushSpace s
  let s := takeSnapshots n (applyFreezes n s)
  let s := s.when (s.talcy.cfg.trigVal.toNat == n % 2 ^ 32) fun s => fireTrigger s 6 (fld s.talcy.cfg.tagf.toNat 0 12)
  let s := if s.power.idle = .s0 then forEach allTiles tileTick s else s
  forEach [0, 1, 2, 3] traceTick s

/-! ### The job at a boundary (R309, R311, R316, R408) -/

/-- The members of the halt group halt, or resume (R408). -/
def groupHalt (halt : Bool) (s : State) : State :=
  forEach (s.tiles.filter fun x => x.2.member) (fun x s => if halt then enterDebug s x.1 causeHaltreq else resumeRequest s x.1)
    (s.modJob fun j => { j with haltHold := halt })

/-- The job tick begun at this boundary, unless the tick is held; `start` at the boundary of START_TICK. -/
def jobTick (s : State) (start : Bool) : State :=
  let n := s.tick.num.toNat
  let held := !start && (s.job.holds.contains n || s.job.haltHold)
  let s := s.modJob fun j =>
    { j with held := held, holds := j.holds.filter (n < ·), slip := if held then j.slip + 1 else j.slip,
             jt := if start then 0 else if held then j.jt else j.jt + 1 }
  let s := if held then s else forEach (rangeFrom 0 16) (fun _ s => beginColl s) s
  let s := forEach (s.job.posted.map (·.seq)) tryTrigger s
  let s := if held then s else scheduleSteps s
  pumpColl s.collFuel s

/-- What a boundary does in the job. -/
def jobBoundary (s : State) : State :=
  let n := s.tick.num.toNat
  let s := s.modJob fun j => { j with slow := s.isSlow }
  let start : Bool := s.job.st == .armed && decide (s.job.startTick ≤ n)
  let s := if start then s.modJob fun j => { j with st := .run } else s
  if s.job.st ≠ .run then s
  else
    let due := s.job.haltAt.filter fun e => decide (e.1 ≤ n)
    let s := s.modJob fun j => { j with haltAt := j.haltAt.filter fun e => decide (n < e.1) }
    let s := forEach due (fun e s => groupHalt e.2.1 s) s
    jobTick (if start then s else markLate s) start

/-- The HEARTBEAT that this node sends at a boundary (R307). -/
def State.heartbeat (s : State) : Heartbeat :=
  let j := s.job
  let run : Bool := j.st == .run
  { tick := s.tick.num.toNat, jobTick := if run then j.jt.toNat else 0, job := j.id, slow := j.slow,
    late := run && j.lateNow.isSome, held := run && j.held, inJob := j.member,
    cause := if run then j.lateNow.getD 0 else 0, phys := s.node.phys }

/-! ### The boundary (R17) -/

/-- The ports at a boundary: the bounds of the slot plan start afresh, and a port in service counts a boundary without a HEARTBEAT
(R308, R319). -/
def portTick (x : Nat) (s : State) : State :=
  slotTick x (s.modPort x fun o => { o with silent := if 2 ≤ o.st then o.silent + 1 else 0 })

/-- SPAN_TICK_BOUNDARY (R17): the number rises by one, and all that takes effect on a boundary does. `predict`, `estimate` and `floor`
are the power that the manager predicts of the tick for each grant from 1 to 64, E(t − 1) and F. -/
def doSpanTickBoundary (predict : List Nat) (estimate floor : Nat) (s : State) : State :=
  if !s.tick.running then s
  else
    let s := s.modTick fun k => { k with num := k.num + 1, boundaries := k.boundaries + 1 }
    let s := observeTick (showPositions s) s.tick.num.toNat
    let s := forEach [0, 1, 2, 3] (fun p s => s.modPier p fun P => { P with powered := P.powered ||| P.enablePend, enablePend := 0 }) s
    let s := forEach (rangeFrom 0 Config.ports) portTick s
    let s := s.modNode fun n => { n with rems := n.rems.map fun r => { r with age := r.age + 1 } }
    let s := forEach (s.pairs.filter fun e => e.2.retrainPend) (fun e s => trainPair (e.1 / 64) (e.1 % 64) s) s
    let s := jobBoundary (powerTick s predict estimate floor)
    forEach s.openOrHeld (fun p s => sendCtrl s p (.heartbeat p s.heartbeat)) s

/-- SPAN_TICK_BOUNDARY. -/
def execSpanTickBoundary (predict : List Nat) (estimate floor : Nat) (s : State) : Host.Outcome State Fault Refusal :=
  require (predict.length == 64 && decide (estimate < 65536) && decide (floor < 65536)) (doSpanTickBoundary predict estimate floor s)

/-! ### TIMESYNC and HEARTBEAT (R303, R307) -/

/-- A port carries packets of class CTRL: it is HELD or OPEN (R279). -/
def State.carries (s : State) (port : Nat) : Bool := decide (2 ≤ (s.port port).st)

/-- TIMESYNC_SEND (R303): every 100 ticks a port sends a TIMESYNC with its departure time. -/
def doTimesyncSend (port t1 : Nat) (s : State) : State :=
  if s.tick.running ∧ s.carries port ∧ s.tick.boundaries % 100 = 0 ∧ (s.port port).syncAt ≠ some s.tick.boundaries then
    sendCtrl (s.modPort port fun o => { o with syncAt := some s.tick.boundaries }) port (.timesync port t1 none)
  else s

/-- TIMESYNC_SEND. -/
def execTimesyncSend (port t1 : Nat) (s : State) : Host.Outcome State Fault Refusal :=
  require (decide (port < Config.ports) && decide (t1 < 2 ^ 64)) (doTimesyncSend port t1 s)

/-- TIMESYNC (R303): one of the peer's is answered with its t1, its arrival time t2 and the departure time t3 of the answer. An answer
gives the one-way delay of the port in ps; the phase error measured at the parent is a free value (assumption 43). -/
def doTimesync (port : Nat) (reply : Bool) (t1 t2 t3 t4 : Int) (s : State) : State :=
  if !s.carries port then s
  else if !reply then sendCtrl (countCtrl s port) port (.timesync port t1 (some (t2, t3)))
  else
    let s := (countCtrl s port).modPort port fun o => { o with delay := ((t4 - t1) - (t3 - t2)) / 2 }
    if s.tick.parent = some port then (s.modTick fun k => { k with err := BitVec.ofNat 16 s.freeVal }).takeFree else s

/-- TIMESYNC. -/
def execTimesync (port : Nat) (reply : Bool) (t1 t2 t3 : Int) (s : State) (t4 : Int := 0) : Host.Outcome State Fault Refusal :=
  require (decide (port < Config.ports)) (doTimesync port reply t1 t2 t3 t4 s)

/-- JOB.FLAGS.SLOWNB: the directions from which a neighbour sent SLOW last (R317, R327). -/
def State.slowDirs (s : State) : BitVec 6 :=
  BitVec.ofNat 6 (((rangeFrom 0 6).filter fun d => (rangeFrom 0 Config.ports).any fun p => dirOf p == d && (s.port p).slow).foldl
    (fun n d => n + 2 ^ d) 0)

/-- HEARTBEAT (R307, R316, R317): the neighbour's tick, address and flags; LATE of this job counts as its FLOOD does. -/
def doHeartbeat (port : Nat) (h : Heartbeat) (s : State) : State :=
  if !s.carries port then s
  else
    let s := (countCtrl s port).modPort port fun o =>
      { o with peerTick := BitVec.ofNat 64 h.tick, nbPhys := some h.phys, silent := 0, slow := h.slow }
    let s := s.modJob fun j => { j with slowNb := s.slowDirs }
    if h.late ∧ h.inJob ∧ s.job.member ∧ h.job = s.job.id then lateMark s h.tick h.phys else s

/-- HEARTBEAT. -/
def execHeartbeat (port : Nat) (h : Heartbeat) (s : State) : Host.Outcome State Fault Refusal :=
  require (decide (port < Config.ports) && decide (h.phys < 2 ^ 20)) (doHeartbeat port h s)

/-! ### Lock states (R302, R305). STATE: 0 UNLOCKED, 1 ACQUIRING, 2 LOCKED, 3 HOLDOVER -/

/-- A port is listed as a parent, and carries TIMESYNC. -/
def State.listed (s : State) (port : Nat) : Bool := !s.tick.root && s.tick.parents.contains port && s.carries port

/-- The place of a port in the list of parents; that of none is behind all. -/
def parentRank (l : List Nat) (p : Option Nat) : Nat :=
  match p with
  | none => 4
  | some x => posIn l x

/-- PARENT_USABLE (R302, R305): an UNLOCKED node steps its number to the parent's and acquires; one in HOLDOVER is LOCKED again by
slewing; and any other takes a parent listed before its own. -/
def doParentUsable (port : Nat) (tick : W64) (s : State) : State :=
  if !s.tick.running ∨ !s.listed port then s
  else s.modTick fun k =>
    if k.st = 0 then { k with st := 1, parent := some port, num := tick }
    else if k.st = 3 then { k with st := 2, aligned := true, parent := some port }
    else if parentRank k.parents (some port) < parentRank k.parents k.parent then { k with parent := some port }
    else k

/-- PARENT_USABLE. -/
def execParentUsable (port : Nat) (tick : W64) (s : State) : Host.Outcome State Fault Refusal :=
  require (decide (port < Config.ports)) (doParentUsable port tick s)

/-- TICK_LOCK_ACQUIRED (R305): acquisition is complete. The root, which has no parent, locks from UNLOCKED (assumption 45). -/
def doTickLockAcquired (s : State) : State :=
  if s.tick.running ∧ (s.tick.st = 1 ∨ (s.tick.root ∧ s.tick.st = 0)) then s.modTick fun k => { k with st := 2, aligned := true }
  else s

/-- TICK_LOCK_ACQUIRED. -/
def execTickLockAcquired (s : State) : Host.Outcome State Fault Refusal := require true (doTickLockAcquired s)

/-- PARENT_LOST (R305): the next usable parent of the list, or HOLDOVER. -/
def doParentLost (next : Option Nat) (s : State) : State :=
  if s.tick.parent.isNone ∨ s.tick.st = 0 then s
  else match next with
    | some p => if s.listed p then s.modTick fun k => { k with parent := some p } else s
    | none => s.modTick fun k => { k with st := 3, parent := none }

/-- PARENT_LOST. -/
def execParentLost (next : Option Nat) (s : State) : Host.Outcome State Fault Refusal :=
  require (match next with
    | some p => decide (p < Config.ports)
    | none => true) (doParentLost next s)

/-- HOLDOVER_UNALIGNED (R305): 5 ms in HOLDOVER have passed. -/
def doHoldoverUnaligned (s : State) : State :=
  if s.tick.st = 3 ∧ s.tick.aligned then
    logEvent (s.modTick fun k => { k with aligned := false }) 0x0401 3 dieModule [s.tick.err.toNat]
  else s

/-- HOLDOVER_UNALIGNED. -/
def execHoldoverUnaligned (s : State) : Host.Outcome State Fault Refusal := require true (doHoldoverUnaligned s)

/-- TICK_LOST (R305, R319): 100 ms in HOLDOVER have passed, and a node of a job leaves it. -/
def doTickLost (s : State) : State :=
  if s.tick.st = 3 ∧ s.job.member then leaveFailed s fcTickLost else s

/-- TICK_LOST. -/
def execTickLost (s : State) : Host.Outcome State Fault Refusal := require true (doTickLost s)

/-- A parent port number: a port, or 0x3F for none (R327). -/
def okParent (p : Nat) : Bool := decide (p < Config.ports) || p == 0x3F

/-- TICK_CONFIG (R302, R326): the root flag and the parents; the node is UNLOCKED and keeps its number. -/
def doTickConfig (r : Req) (root : Bool) (p0 p1 p2 p3 : Nat) (s : State) : State :=
  command r 0x0B05 [(!([p0, p1, p2, p3].all okParent), bsBadParam), (s.job.st == .run, bsJobActive)] 0 (fun p s =>
    replying r bsOk [] p (s.modTick fun k =>
      { k with root := root, parents := [p0, p1, p2, p3], st := 0, aligned := false, parent := none })) s

/-- TICK_CONFIG. -/
def execTickConfig (r : Req) (root : Bool) (p0 p1 p2 p3 : Nat) (s : State) : Host.Outcome State Fault Refusal :=
  require (okReq r && [p0, p1, p2, p3].all fun p => decide (p < 64)) (doTickConfig r root p0 p1 p2 p3 s)

/-! ### Registers (R327, R397) -/

/-- TICK_NUMLO_READ: a read of NUMLO latches NUMHI. -/
def doTickNumloRead (s : State) : State :=
  (s.ret (s.tick.num.toNat % 2 ^ 32)).modTick fun k => { k with latch := BitVec.ofNat 32 (k.num.toNat / 2 ^ 32) }

/-- TICK_NUMLO_READ. -/
def execTickNumloRead (s : State) : Host.Outcome State Fault Refusal := require true (doTickNumloRead s)

/-- FRZTICKLO_READ: a read of FRZTICKLO latches FRZTICKHI. -/
def doFrztickloRead (s : State) : State :=
  (s.ret (s.ctrs.frzTick.toNat % 2 ^ 32)).modCtrs fun k => { k with frzLatch := BitVec.ofNat 32 (k.frzTick.toNat / 2 ^ 32) }

/-- FRZTICKLO_READ. -/
def execFrztickloRead (s : State) : Host.Outcome State Fault Refusal := require true (doFrztickloRead s)

/-- TICK.STATUS (R327). -/
def tickStatus (k : Tick) : Nat :=
  mkFld 30 2 k.st + mkBit 29 k.aligned + mkBit 28 k.root + mkFld 22 6 (k.parent.getD 0x3F) + k.err.toNat

/-- TICK.CTL (R327). -/
def tickCtl (k : Tick) : Nat :=
  mkBit 31 k.root + mkFld 18 6 (k.parents.getD 0 0x3F) + mkFld 12 6 (k.parents.getD 1 0x3F) + mkFld 6 6 (k.parents.getD 2 0x3F) +
    mkFld 0 6 (k.parents.getD 3 0x3F)

/-! ### Halts of a job (R408) -/

/-- HALT_PACKET: one of this job, not seen before, is forwarded as a FLOOD is, and its boundary halts or resumes the members. One that
comes after its boundary is applied at the next, which HALT_LATE names. -/
def doHaltPacket (port : Nat) (bound : W64) (origin job action : Nat) (s : State) : State :=
  let key := (bound.toNat, origin, action == 1)
  if !s.carries port then s
  else
    let s := countCtrl s port
    if s.job.st ≠ .run ∨ job ≠ s.job.id ∨ s.job.haltSeen.contains key then s
    else
      let s := forEach s.jobPorts (fun p s => sendCtrl s p (.halt p bound.toNat origin job action)) s
      let s := s.modJob fun j =>
        { j with haltSeen := key :: j.haltSeen, haltAt := j.haltAt ++ [(bound.toNat, action == 1, decide (bound ≤ s.tick.num))] }
      if bound ≤ s.tick.num then logEvent s 0x0404 0 dieModule [s.tick.num.toNat + 1, origin] else s

/-- HALT_PACKET. -/
def execHaltPacket (port : Nat) (bound : W64) (origin job action : Nat) (s : State) : Host.Outcome State Fault Refusal :=
  require (decide (port < Config.ports) && decide (origin < 2 ^ 20) && decide (job < 65536) && (action == 1 || action == 2))
    (doHaltPacket port bound origin job action s)

/-- HALT_GROUP (R408): scope tiles halts or resumes the named tiles at once, after a move of one of them (R417); scope job does so for the
whole job. -/
def doHaltGroup (r : Req) (ts : TileSet) (scope action : Nat) (s : State) : State :=
  if !noMove s ts then s
  else command r 0x0707 [(decide (1 < scope) || (action != 1 && action != 2) || badTileSet ts, bsBadParam),
      (scope == 1 && tilesNamed ts != [], bsBadParam), (scope == 1 && s.job.st != .run, bsNoJob)] 0 (fun p s =>
    if scope = 1 then replying r bsOk [] p (jobHalt s (action == 1))
    else if action = 1 then
      onTiles r ts (fun x => x == .run) (fun s =>
        replying r bsOk [] p (forEach (tilesNamed ts) (fun t s => enterDebug s t causeHaltreq) s)) s
    else
      onTiles r ts (fun x => x == .halted) (fun s => replying r bsOk [] p (forEach (tilesNamed ts) (fun t s => resumeTile s t) s)) s) s

/-- HALT_GROUP. -/
def execHaltGroup (r : Req) (ts : TileSet) (scope action : Nat) (s : State) : Host.Outcome State Fault Refusal :=
  require (okReq r && decide (scope < 256) && decide (action < 256)) (doHaltGroup r ts scope action s)

end Sys2Proof.Machine
end

