-- ==== Sys2Proof/Machine/Launch.lean ====
section
/-!
DEFINITION. Job launch (R321–R324): the tree of an attempt, the LAUNCH and LAUNCH_ACK packets, and JOB_LAUNCH.
-/

namespace Sys2Proof.Machine
open Sys2Proof

/-! ### The tree B(π) (R321) -/

/-- π of an attempt: the coordinates 0 x, 1 y, 2 z, 3 pod in their order. -/
def treeOrder (attempt : Nat) : List Nat := if attempt = 1 then [3, 0, 1, 2] else if attempt = 2 then [3, 1, 2, 0] else [3, 2, 0, 1]

/-- A coordinate of a physical address, or its pod. -/
def coordIn (a k : Nat) : Nat := if k = 3 then podOf a else coordOf a k

/-- The coordinates in which a node differs from the root, in the order π. -/
def treeDiffs (h : LaunchHdr) (u : Nat) : List Nat := (treeOrder h.attempt).filter fun k => coordIn u k != coordIn h.root k

/-- The tree depth of a node. -/
def treeDepth (h : LaunchHdr) (u : Nat) : Nat := (treeDiffs h u).length

/-- The coordinates behind the last one in which a node differs from the root: its children differ in one of them too. -/
def treeFree (h : LaunchHdr) (u : Nat) : List Nat :=
  match (treeDiffs h u).getLast? with
  | none => treeOrder h.attempt
  | some k => ((treeOrder h.attempt).dropWhile (· != k)).drop 1

/-- The parent of a node with every ancestor in place; the root is its own. -/
def treeParent (h : LaunchHdr) (u : Nat) : Nat :=
  match (treeDiffs h u).getLast? with
  | none => u
  | some k => setCoord u k (coordIn h.root k)

/-- The parent of a node: the first of its ancestors that is not excluded. -/
def launchParent (h : LaunchHdr) (u : Nat) : Nat :=
  (rangeFrom 0 3).foldl (fun p _ => if h.excl.contains p && p != h.root then treeParent h p else p) (treeParent h u)

/-- The values of a coordinate in the block. -/
def blockValues (n : Node) (h : LaunchHdr) (k : Nat) : List Nat :=
  if k = 3 then maskBits 256 h.pods.toNat else rangeFrom 0 (n.extent k)

/-- The children of a node in the tree without exclusions. -/
def treeChildren (n : Node) (h : LaunchHdr) (u : Nat) : List Nat :=
  (treeFree h u).flatMap fun k => ((blockValues n h k).filter (· != coordIn h.root k)).map (setCoord u k)

/-- The children of a node: those of an excluded child stand in its place. -/
def launchChildren : Nat → Node → LaunchHdr → Nat → List Nat
  | 0, _, _, _ => []
  | d + 1, n, h, u => (treeChildren n h u).flatMap fun c => if h.excl.contains c then launchChildren d n h c else [c]

/-- The nodes that an acknowledgement of child `c` speaks for: the subtree of `c` but for the excluded nodes. -/
def subtreeSize (n : Node) (h : LaunchHdr) (c : Nat) : Nat :=
  let free := treeFree h c
  let all := free.foldl (fun m k => m * (blockValues n h k).length) 1
  all - (h.excl.filter fun v => (treeOrder h.attempt).all fun k => free.contains k || coordIn v k == coordIn c k).length

/-! ### Packets (R322, R323) -/

/-- A LAUNCH payload. -/
def launchBytes (h : LaunchHdr) : List Byte :=
  leBytes 4 h.lid ++ leBytes 4 h.attempt ++ leBytes 8 h.startTick ++ leBytes 8 h.issueTick ++ leBytes 4 h.root ++
    leBytes 2 h.excl.length ++ leBytes 2 h.jdata.length ++ leBytes 32 h.pods.toNat ++ leBytes 2 h.job ++ leBytes 1 h.depth ++
    leBytes 1 h.coll ++ leBytes 2 h.msg ++ leBytes 2 h.reserve ++ leBytes 4 h.stepWait ++ leBytes 20 0 ++
    h.excl.flatMap (leBytes 4) ++ h.jdata

/-- A LAUNCH_ACK payload: at most 16 entries; all count in NMISS. -/
def ackBytes (a : LaunchAck) : List Byte :=
  leBytes 4 a.lid ++ leBytes 1 a.attempt ++ leBytes 1 a.code ++ leBytes 2 a.nmiss ++ leBytes 4 a.phys ++
    a.entries.flatMap fun e => leBytes 4 (mkFld 0 20 e.1 + mkFld 24 4 e.2)

/-- A packet of class CTRL to a node. -/
def ctrlPkt (typ dphys : Nat) (payload : List Byte) : Pkt :=
  { cls := 4, typ := typ, dphys := dphys, len := payload.length, payload := payload }

/-- A packet of class CTRL sent to a node by its place, with the role that the map gives it (R288). -/
def sendNode (s : State) (typ dphys : Nat) (payload : List Byte) : State :=
  let a := addressed s (ctrlPkt typ dphys payload)
  (sendPkt a.1 a.2).1

/-- A packet of class CTRL that arrives: its flits are received (R284, R392). -/
def recvCtrl (s : State) (port : Nat) (payload : List Byte) : State :=
  let n := flitsFor payload.length
  recvFlits s port vcCtrl n ((s.port port).rxNext + n - 1)

/-- The LAUNCH forwarded to the children of this node (R323 step 1). -/
def sendLaunch (s : State) (h : LaunchHdr) : State :=
  forEach (launchChildren 4 s.node h s.node.phys) (fun c s => sendNode s 4 c (launchBytes h)) s

/-- The node's LAUNCH_ACK (R323 step 4): a child without an acknowledgement is named with reason 1. -/
def sendAck (s : State) : State :=
  match s.job.launch with
  | none => s
  | some x =>
    let named := x.named ++ (x.children.filter fun c => !x.got.contains c).map fun c => (c, 1)
    let a : LaunchAck := ⟨x.hdr.lid, x.hdr.attempt, x.code, named.length + x.more, s.node.phys, named.take 16⟩
    let s := s.modJob fun j => { j with launch := some { x with acked := true } }
    match x.parent with
    | none => s
    | some p => sendNode s 5 p (ackBytes a)

/-! ### A launch at one node (R323) -/

/-- The launch codes: OK, BUSY, LATE_START. -/
def launchCode (s : State) (h : LaunchHdr) : Nat :=
  if s.job.st = .run then 1 else if h.startTick ≤ s.tick.num.toNat then 2 else 0

/-- JOB.LBUF (R327). -/
def State.lbuf (s : State) : Nat := s.job.lbufLo.toNat / 4096 * 4096 + s.job.lbufHi.toNat % 65536 * 2 ^ 32

/-- A launch applied: the job is ARMED (R309, R323 step 3). Records posted before it are cancelled (assumption 46). -/
def applyLaunch (s : State) (h : LaunchHdr) : State :=
  let s := endAll s csCancelled 0 0
  let s := if s.lbuf + h.jdata.length ≤ Config.poolBytes then (writePool s s.lbuf h.jdata).1 else s
  let j := s.job
  let s := s.modJob fun _ =>
    { st := .armed, id := h.job, depth := h.depth, coll := h.coll, msg := h.msg, reserve := h.reserve, pods := h.pods,
      startTick := h.startTick, stepWait := BitVec.ofNat 32 (if h.stepWait = 0 then 100000 else h.stepWait),
      lids := (h.lid :: j.lids).take 16, missed := j.missed, slow := j.slow, slowNb := j.slowNb, slowLate := j.slowLate,
      latch := j.latch, lbufLo := j.lbufLo, lbufHi := j.lbufHi, launch := j.launch }
  logEvent s 0x0001 0 dieModule [h.lid, h.job]

/-- Steps 2 and 3 of R323: the state and the node's code. A duplicate is not applied again. -/
def takeLaunch (s : State) (h : LaunchHdr) : State × Nat :=
  if s.job.lids.contains h.lid then (s, 0)
  else if launchCode s h ≠ 0 then (s, launchCode s h)
  else (applyLaunch s h, 0)

/-- LAUNCH (R323). A node whose tick is UNLOCKED cannot join a job, and takes no part (R305). -/
def doLaunch (port : Nat) (h : LaunchHdr) (s : State) : State :=
  if !s.carries port ∨ s.power.idle ≠ .s0 ∨ s.tick.st = 0 ∨ h.root = s.node.phys then s
  else
    let s := recvCtrl s port (launchBytes h)
    let s := sendLaunch s h
    let r := takeLaunch s h
    let kids := launchChildren 4 r.1.node h r.1.node.phys
    let s := r.1.modJob fun j =>
      { j with launch := some { hdr := h, parent := some (launchParent h s.node.phys), children := kids, code := r.2,
                                named := if r.2 = 0 then [] else [(s.node.phys, r.2 + 1)], port := port } }
    if kids = [] then sendAck s else s

/-- A LAUNCH header within the ranges of R322. -/
def okHdr (h : LaunchHdr) : Bool :=
  decide (h.lid < 2 ^ 32) && decide (1 ≤ h.attempt) && decide (h.attempt ≤ 3) && decide (h.startTick < 2 ^ 64) &&
    decide (h.issueTick < 2 ^ 64) && decide (h.root < 2 ^ 20) && decide (h.excl.length ≤ 256) &&
    h.excl.all (fun v => decide (v < 2 ^ 20)) && decide (h.job < 65536) && decide (h.jdata.length ≤ 2048)

/-- LAUNCH. -/
def execLaunch (port : Nat) (h : LaunchHdr) (s : State) : Host.Outcome State Fault Refusal :=
  require (decide (port < Config.ports) && okHdr h) (doLaunch port h s)

/-- The entries that a child's acknowledgement adds: its own code, and those that it passes on. -/
def ackEntries (a : LaunchAck) : List (Nat × Nat) := a.entries.filter (fun e => e.1 != a.phys) ++ (if a.code = 0 then [] else [(a.phys, a.code + 1)])

/-- The progress of JOB_LAUNCH at the root: nodes acknowledged (R324). -/
def ackProgress (s : State) (x : Launch) (a : LaunchAck) : State :=
  match x.handle with
  | none => s
  | some hd =>
    let lost := (a.entries.filter fun e => e.2 == 1).length + (a.nmiss - a.entries.length)
    setPosition s hd (((s.op hd).map (·.position)).getD 0 + (subtreeSize s.node x.hdr a.phys - lost))

/-- LAUNCH_ACK (R323): gathered; with the last child's, the node's own is sent. -/
def doLaunchAck (port : Nat) (a : LaunchAck) (s : State) : State :=
  if !s.carries port then s
  else
    let s := recvCtrl s port (ackBytes a)
    match s.job.launch with
    | none => s
    | some x =>
      if a.lid ≠ x.hdr.lid ∨ a.attempt ≠ x.hdr.attempt ∨ x.acked ∨ x.got.contains a.phys ∨ !x.children.contains a.phys then s
      else
        let x' := { x with got := a.phys :: x.got, named := x.named ++ ackEntries a, more := x.more + (a.nmiss - a.entries.length) }
        let s := ackProgress (s.modJob fun j => { j with launch := some x' }) x a
        if x.handle.isNone ∧ x'.children.all x'.got.contains then sendAck s else s

/-- LAUNCH_ACK. -/
def execLaunchAck (port : Nat) (a : LaunchAck) (s : State) : Host.Outcome State Fault Refusal :=
  require (decide (port < Config.ports) && decide (a.entries.length ≤ 16) && decide (a.phys < 2 ^ 20)) (doLaunchAck port a s)

/-- LAUNCH_ACK_DEADLINE (R323): at ISSUE_TICK + 50 − 12 × depth the acknowledgement is sent without the children that are missing. -/
def doLaunchAckDeadline (s : State) : State :=
  match s.job.launch with
  | none => s
  | some x =>
    if x.acked ∨ x.handle.isSome ∨ s.tick.num.toNat + 12 * treeDepth x.hdr s.node.phys < x.hdr.issueTick + 50 then s else sendAck s

/-- LAUNCH_ACK_DEADLINE. -/
def execLaunchAckDeadline (s : State) : Host.Outcome State Fault Refusal := require true (doLaunchAckDeadline s)

/-! ### The root (R324) -/

/-- An attempt issued: the LAUNCH goes to the root's children. -/
def issueAttempt (s : State) (h : LaunchHdr) (hd : Nat) (code : Nat) (named : List (Nat × Nat)) : State :=
  let s := s.modJob fun j =>
    { j with launch := some { hdr := h, parent := none, children := launchChildren 4 s.node h s.node.phys, code := code,
                              named := named, handle := some hd } }
  sendLaunch s h

/-- LAUNCH_ATTEMPT_END (R324): nodes named with reason 1 are excluded in the next attempt, up to attempt 3. The reply lists them with
the nodes that named a code: they stay out of the job (assumption 47). -/
def doLaunchAttemptEnd (s : State) : State :=
  match s.job.launch with
  | none => s
  | some x =>
    match x.handle with
    | none => s
    | some hd =>
      let missing := x.children.filter fun c => !x.got.contains c
      if missing ≠ [] ∧ s.tick.num.toNat < x.hdr.issueTick + 50 then s
      else
        let named := x.named ++ missing.map fun c => (c, 1)
        let fresh := (named.filter fun e => e.2 == 1 && !x.hdr.excl.contains e.1).map (·.1)
        if fresh ≠ [] ∧ x.hdr.attempt < 3 then
          let h := { x.hdr with attempt := x.hdr.attempt + 1, issueTick := s.tick.num.toNat, excl := (x.hdr.excl ++ fresh).take 256 }
          let keep := named.filter fun e => e.2 == 1 || e.1 == s.node.phys
          issueAttempt (setPosition s hd 0) h hd x.code keep
        else
          let s := s.modJob fun j => { j with launch := none }
          if named = [] then finishOp s hd bsCompleted []
          else finishOp s hd bsPartial (named.map fun e => (4, mkFld 0 20 e.1 + mkFld 24 4 e.2))

/-- LAUNCH_ATTEMPT_END. -/
def execLaunchAttemptEnd (s : State) : Host.Outcome State Fault Refusal := require true (doLaunchAttemptEnd s)

/-- A parameter of JOB_LAUNCH lies outside its range (R309, R322), or the block does not hold the root's own pod (R321). -/
def badLaunch (s : State) (h : LaunchHdr) : Bool :=
  h.lid == 0 || h.job == 0 || decide (65535 < h.job) || decide (h.depth < 2) || decide (8 < h.depth) || decide (64 < h.coll + h.msg) ||
    decide (999 < h.reserve) || (h.stepWait != 0 && (decide (h.stepWait < 10) || decide (1000000 < h.stepWait))) ||
    decide (256 < h.excl.length) || decide (2048 < h.jdata.length) || !h.pods.getLsbD (podOf s.node.phys)

/-- JOB_LAUNCH (R324): the node is the root, takes part itself, and sends attempt 1. A root whose tick is UNLOCKED takes no part and
is named with reason 1 (R305). -/
def doJobLaunch (r : Req) (h : LaunchHdr) (s : State) : State :=
  let busy : Bool := match s.job.launch with
    | some x => x.handle.isSome
    | none => false
  let all := [0, 1, 2, 3].foldl (fun m k => m * (blockValues s.node h k).length) 1
  command r 0x0B01 [(badLaunch s h, bsBadParam), (busy, bsBusy)] (4 * all) (fun p s =>
    let hd := handleOf r.client r.slot p.seq
    let h := { h with attempt := 1, issueTick := s.tick.num.toNat, root := s.node.phys }
    let s := acceptLong s r.client r.slot p 6 (all - 1) []
    let t := if s.tick.st = 0 then (s, 0) else takeLaunch s h
    let code := if s.tick.st = 0 then 1 else if t.2 = 0 then 0 else t.2 + 1
    issueAttempt t.1 h hd t.2 (if code = 0 then [] else [(s.node.phys, code)])) s

/-- JOB_LAUNCH. -/
def execJobLaunch (r : Req) (h : LaunchHdr) (s : State) : Host.Outcome State Fault Refusal :=
  require (okReq r && h.excl.all fun v => decide (v < 2 ^ 20)) (doJobLaunch r h s)

end Sys2Proof.Machine
end

