-- ==== Sys2Proof/Machine/Power.lean ====
section
/-!
DEFINITION. Power and thermal control (R238, R346–R367): caps and clocks, the droop clamp, the thermal states and the trip, the local
loops, and the idle states. Temperatures are in units of 0.25 °C.
-/

namespace Sys2Proof.Machine
open Sys2Proof

/-! ### Caps and clocks (R349–R353, R366) -/

/-- POWER_CAP (R351, R366): the new cap applies from the next boundary; one below the floor is answered with the floor. -/
def doPowerCap (r : Req) (cap window : Nat) (s : State) : State :=
  command r 0x0601 [(decide (5600 < cap), bsBadParam), (window != 0 && (decide (window < 100) || decide (10000 < window)), bsBadParam)] 0
    (fun p s =>
      let c := if cap = 0 then 5600 else cap
      let w := if window ≠ 0 then window else match s.power.newCap with
        | some x => x.2
        | none => s.power.window
      let f := s.power.floor
      let s := s.modPower fun x => { x with newCap := some (c, w) }
      if c < f then replying r bsCapFloor [(4, f)] p (logEvent s 0x0504 0 dieModule [f])
      else replying r bsOk [(4, max c f), (4, f)] p s) s

/-- POWER_CAP. -/
def execPowerCap (r : Req) (cap window : Nat) (s : State) : Host.Outcome State Fault Refusal :=
  require (okReq r && decide (cap < 2 ^ 32) && decide (window < 2 ^ 32)) (doPowerCap r cap window s)

/-- A deck clock on its grid: steps of 50 MHz from 0.9 GHz to 2.0 GHz. -/
def deckClock (f : Nat) : Bool := f % 50 == 0 && decide (900 ≤ f) && decide (f ≤ 2000)

/-- A host cluster clock on its grid: steps of 100 MHz from 0.8 GHz to 3.2 GHz; 0 leaves it unchanged. -/
def clusterClock (f : Nat) : Bool := f == 0 || (f % 100 == 0 && decide (800 ≤ f) && decide (f ≤ 3200))

/-- DVFS_SET (R353, R366): clock limits of the decks and clocks of the clusters, from the next boundary divisible by 100. -/
def doDvfsSet (r : Req) (decks : List (Nat × Nat)) (clusters : List Nat) (s : State) : State :=
  command r 0x0605 [(!(decks.all fun d => deckClock d.1 && deckClock d.2 && decide (d.1 ≤ d.2)), bsBadParam),
      (!(clusters.all clusterClock), bsBadParam)] 0 (fun p s =>
    let s := forEach decks.zipIdx (fun e s => s.modDeck e.2 fun d => { d with newMin := e.1.1, newMax := e.1.2 }) s
    let new := (clusters.zipIdx.filter fun e => e.1 != 0).map fun e => (e.2, e.1)
    replying r bsOk [] p (s.modPower fun w => { w with clusterMhz := w.clusterMhz ++ new })) s

/-- DVFS_SET. -/
def execDvfsSet (r : Req) (decks : List (Nat × Nat)) (clusters : List Nat) (s : State) : Host.Outcome State Fault Refusal :=
  require (okReq r && decks.length == 12 && clusters.length == Config.clusters) (doDvfsSet r decks clusters s)

/-- DVFS_ADJUST (R353): at a boundary divisible by 100 each deck steps down after 100 ticks below 32, and up after 100 at 64. A deck
held at 0.9 GHz by the floor does not move. -/
def doDvfsAdjust (s : State) : State :=
  if !s.power.managed ∨ !s.tick.running ∨ s.tick.num.toNat % 100 ≠ 0 ∨ s.power.floorBound then s
  else forEach allDecks (fun d s => s.modDeck d fun x =>
    if 100 ≤ x.low then { x with cur := max (min x.cur x.dvfsMin) (x.cur - 50), low := 0 }
    else if 100 ≤ x.full then { x with cur := max x.cur (min x.ceiling (x.cur + 50)), full := 0 }
    else x) s

/-- DVFS_ADJUST. -/
def execDvfsAdjust (s : State) : Host.Outcome State Fault Refusal := require true (doDvfsAdjust s)

/-- POWER.TEMPs of a sensor (R367). -/
def tempReg (x : Sensor) : Nat := mkFld 30 2 x.st + mkFld 28 2 x.act + mkFld 16 12 (ofSInt 12 x.max) + mkFld 0 12 (ofSInt 12 x.temp)

/-- POWER.STATUS (R367). -/
def powerStatus (w : Power) : Nat :=
  mkBit 31 w.managed + mkBit 30 w.clamp + mkBit 29 w.floorBound + mkBit 28 w.estDrift + mkFld 0 16 w.measured

/-- POWER_STATUS (R366, assumption 26). -/
def doPowerStatus (r : Req) (s : State) : State :=
  command r 0x0606 [] 0 (fun p s =>
    let w := s.power
    replying r bsOk ([(4, w.estimate), (4, w.measured), (4, w.cap), (4, w.window), (4, w.floor), (4, w.effective), (4, w.grant),
        (4, powerStatus w / 2 ^ 28 * 2 ^ 28)] ++ (allDecks.map fun d => (2, (s.deck d).cur)) ++
      ((rangeFrom 0 36).map fun i => (4, tempReg (s.sensor i))) ++ [(4, w.droops)]) p s) s

/-- POWER_STATUS. -/
def execPowerStatus (r : Req) (s : State) : Host.Outcome State Fault Refusal := require (okReq r) (doPowerStatus r s)

/-! ### The input monitor and the gains (R348, R349) -/

/-- The gain of a die in thousandths; 1,000 until it is calibrated (assumption 44). -/
def State.gain (s : State) (die : Nat) : Nat := Tab.get 1000 s.power.gains die

/-- A gain at a bound. -/
def gainBound (g : Nat) : Bool := g == 500 || g == 2000

/-- A die's gain updated within its bounds; one at a bound stays there, and reaching it raises EST_DRIFT (R348). -/
def setGain (die g : Nat) (s : State) : State :=
  if gainBound (s.gain die) then s
  else
    let g := min (max g 500) 2000
    let s := s.modPower fun w => { w with gains := Tab.set 1000 w.gains die g }
    if gainBound g then logEvent (s.modPower fun w => { w with estDrift := true }) 0x0501 0 die [die, g] else s

/-- POWER_CALIBRATION (R348, R349): at the end of a millisecond that began at a tick number divisible by 1,000, its measured power, the gains that the least squares give, and a millisecond
above 1.02 C + 10 W. -/
def doPowerCalibration (measured : Nat) (gains : List (Nat × Nat)) (s : State) : State :=
  if !s.alive ∨ !s.tick.running ∨ s.tick.num.toNat % 1000 ≠ 0 then s
  else
    let s := s.modPower fun w => { w with measured := measured }
    let s := if s.power.gainsFrozen then s else forEach gains (fun e s => setGain e.1 e.2 s) s
    if 102 * s.power.cap + 1000 < 100 * measured then
      logEvent (s.modPower fun w => { w with overcap := satAdd 0xFFFF w.overcap 1 }) 0x0503 0 dieModule [measured, s.power.cap]
    else s

/-- A die of the module by DDIE (R260). -/
def okDie (d : Nat) : Bool :=
  decide (d < 12) || (decide (16 ≤ d) && decide (d < 20)) || (decide (24 ≤ d) && decide (d < 24 + Config.abutments))

/-- POWER_CALIBRATION. -/
def execPowerCalibration (measured : Nat) (gains : List (Nat × Nat)) (s : State) : Host.Outcome State Fault Refusal :=
  require (decide (measured < 65536) && gains.all fun e => okDie e.1) (doPowerCalibration measured gains s)

/-- MONITOR_FAULT (R348): the gains are frozen. -/
def doMonitorFault (s : State) : State :=
  if s.power.gainsFrozen ∨ !s.alive then s
  else logStored (s.modPower fun w => { w with gainsFrozen := true }) 0x0502 3 dieModule [] 7 0

/-- MONITOR_FAULT. -/
def execMonitorFault (s : State) : Host.Outcome State Fault Refusal := require true (doMonitorFault s)

/-! ### Supply droop (R354, R355) -/

/-- DROOP_CLAMP (R354): the input, in 0.1 V, falls below 42.0 V. LIMIT_CLAMP becomes pending on every tile in RUN. -/
def doDroopClamp (volt : Nat) (s : State) : State :=
  if 420 ≤ volt ∨ s.power.clamp ∨ !s.alive then s
  else forEach ((s.tiles.filter fun x => x.2.st == .run).map (·.1)) (fun t s => raiseSrc s t 5) (s.modPower fun w => { w with clamp := true })

/-- DROOP_CLAMP. -/
def execDroopClamp (volt : Nat) (s : State) : Host.Outcome State Fault Refusal := require true (doDroopClamp volt s)

/-- CLAMP_RELEASE (R355): one droop, with the lowest voltage reached and its duration. -/
def doClampRelease (minv durationNs : Nat) (s : State) : State :=
  if !s.power.clamp then s
  else
    logStored (s.modPower fun w => { w with clamp := false, droops := satAdd 0xFFFF w.droops 1, minv := minv }) 0x0505 0 dieModule
      [minv, durationNs] 7 0

/-- CLAMP_RELEASE. -/
def execClampRelease (minv durationNs : Nat) (s : State) : Host.Outcome State Fault Refusal :=
  require (decide (minv < 1024)) (doClampRelease minv durationNs s)

/-! ### Temperature (R357–R360) -/

/-- The throttle, critical and trip limits of a sensor: decks 0–11, piers 12–15, abutment dies 16–19, stacks 20–35. -/
def thermLimits (i : Nat) : Int × Int × Int :=
  if i < 12 then (400, 440, 500) else if i < 16 then (380, 420, 480) else if i < 20 then (400, 440, 500) else (380, 420, 440)

/-- A sensor after a reading: a state clears when the temperature is more than 3 °C below its limit (R357,
assumption 115). -/
def Sensor.read (x : Sensor) (i : Nat) (temp : Int) : Sensor :=
  let l := thermLimits i
  let st := if l.2.1 ≤ temp ∨ (x.st = 2 ∧ l.2.1 - 12 ≤ temp) then 2 else if l.1 ≤ temp ∨ (1 ≤ x.st ∧ l.1 - 12 ≤ temp) then 1 else 0
  { x with st := st, temp := temp, max := if x.fresh ∨ x.max < temp then temp else x.max, fresh := false,
           reads := if st = 0 then x.reads + 1 else 0 }

/-- Decks that a critical die or stack holds at grant 1 (R357, R359). -/
def State.critical (s : State) (d : Nat) : Bool :=
  (s.sensor d).st == 2 || (s.sensor (12 + d / 3)).st == 2 || (rangeFrom 20 16).any fun i => (s.sensor i).st == 2

/-- The grants that thermal limits allow, and clocks within the ceilings. -/
def applyTherm (s : State) : State :=
  forEach allDecks (fun d s => s.modDeck d fun x =>
    { x with budgetCap := if s.critical d then 1 else 64, cur := min x.cur x.ceiling }) s

/-- A deck's thermal ceiling drops one step, or to 0.9 GHz. -/
def Deck.drop (x : Deck) (critical : Bool) : Deck := { x with therm := if critical then 900 else max 900 (x.therm - 50) }

/-- The clusters of abutment die `a`. -/
def clustersOf (a : Nat) : List Nat := rangeFrom (12 * a) 12

/-- The manager's action after the reading of logic die `i` (R357): ceilings drop at each reading at or above the throttle limit, and
rise one step for every tenth reading once the state has cleared. -/
def thermAct (s : State) (i : Nat) : State :=
  let x := s.sensor i
  let hot : Bool := decide ((thermLimits i).1 ≤ x.temp)
  let crit : Bool := x.st == 2
  let rise : Bool := x.st == 0 && x.reads % 10 == 0
  if i < 12 then
    if hot then s.modDeck i fun d => d.drop crit
    else if rise ∧ (s.sensor (12 + i / 3)).st = 0 then s.modDeck i fun d => { d with therm := min 2000 (d.therm + 50) }
    else s
  else if i < 16 then
    if hot then forEach (rangeFrom (3 * (i - 12)) 3) (fun d s => s.modDeck d fun d => d.drop crit) s else s
  else if hot then
    forEach (clustersOf (i - 16)) (fun c s => s.modCluster c fun C => { C with ceil := if crit then 800 else max 800 (C.ceil - 100) }) s
  else if rise then forEach (clustersOf (i - 16)) (fun c s => s.modCluster c fun C => { C with ceil := min 3200 (C.ceil + 100) }) s
  else s

/-- The die of a sensor (R260). -/
def sensorDie (i : Nat) : Nat :=
  if i < 12 then i else if i < 16 then diePier (i - 12) else if i < 20 then dieAbut (i - 16) else diePier ((i - 20) / 4)

/-- The coolant inlet's sensor in the state's table: it has no entry in POWER.TEMPs. -/
def inletSensor : Nat := 36

/-- THERMAL_SAMPLE (R357): a logic die's hottest sensor, or the coolant inlet. -/
def doThermalSample (i : Nat) (temp : Int) (s : State) : State :=
  if !s.boot.stby then s
  else if i = inletSensor then
    let old := (s.sensor i).st
    let new := if 180 ≤ temp ∨ (old = 1 ∧ 168 ≤ temp) then 1 else 0
    let s := s.modSensor i fun x => { x with st := new, temp := temp }
    if old = 0 ∧ new = 1 ∧ s.alive then logEvent s 0x0509 0 dieModule [ofSInt 32 temp] else s
  else
    let old := (s.sensor i).st
    let s := s.modSensor i fun x => x.read i temp
    if !s.power.managed then s
    else
      let s := applyTherm (thermAct s i)
      if old ≠ 2 ∧ (s.sensor i).st = 2 then logStored s 0x0506 3 (sensorDie i) [i, ofSInt 32 temp] 7 0 else s

/-- A logic die's sensor, or the coolant inlet's. -/
def okLogic (i : Nat) : Bool := decide (i < 16 + Config.abutments)

/-- THERMAL_SAMPLE. -/
def execThermalSample (i : Nat) (temp : Int) (s : State) : Host.Outcome State Fault Refusal :=
  require (okLogic i || i == inletSensor) (doThermalSample i temp s)

/-- ACTRATE of a stack: 0 full, 1 half, 2 quarter, 3 one sixteenth (R358, R359). -/
def actRate (old : Nat) (temp : Int) : Nat :=
  if 420 ≤ temp ∨ (old = 3 ∧ 408 ≤ temp) then 3
  else if 400 ≤ temp ∨ (2 ≤ old ∧ 388 ≤ temp) then 2
  else if 380 ≤ temp ∨ (1 ≤ old ∧ 368 ≤ temp) then 1 else 0

/-- STACK_TEMP_READ (R206, R358, R359): a stack's temperature sets its activate rate; at the critical limit every tile has grant 1,
every deck goes to 0.9 GHz, and the node leaves its job. -/
def doStackTempRead (st : Nat) (temp : Int) (s : State) : State :=
  if !s.tick.running ∨ s.power.idle ≠ .s0 then s
  else
    let i := 20 + st
    let old := (s.sensor i).act
    let new := actRate old temp
    let s := s.modSensor i fun x =>
      { x with st := if new = 3 then 2 else if new = 0 then 0 else 1, act := new, temp := temp,
               max := if x.fresh ∨ x.max < temp then temp else x.max, fresh := false }
    let s := applyTherm s
    let s := if old = 0 ∧ new ≠ 0 then logEvent s 0x0507 0 (sensorDie i) [st, new] else s
    if old ≠ 3 ∧ new = 3 then
      let s := forEach allDecks (fun d s => s.modDeck d fun x => { x with cur := 900 }) s
      let s := logStored s 0x0508 3 (sensorDie i) [st, ofSInt 32 temp] 7 0
      if s.job.st = .run ∨ s.job.st = .armed then leaveFailed s fcHbmCritical else s
    else s

/-- STACK_TEMP_READ. -/
def execStackTempRead (st : Nat) (temp : Int) (s : State) : Host.Outcome State Fault Refusal :=
  require (decide (st < Config.hbmStacks)) (doStackTempRead st temp s)

/-- THERMAL_TRIP (R360): a sensor at its trip limit switches off every domain but STBY and AON; the module is in S4. -/
def doThermalTrip (i : Nat) (temp : Int) (s : State) : State :=
  if temp < (thermLimits i).2.2 ∨ !s.boot.stby ∨ s.power.idle = .s4 then s
  else
    let s := coldState (s.modSensor i fun x => x.read i temp)
    s.modPower fun w =>
      { w with idle := .s4, tripValid := true, tripSensor := i, tripTemp := temp, tripS4 := true, thermTrip := true }

/-- THERMAL_TRIP. -/
def execThermalTrip (i : Nat) (temp : Int) (s : State) : Host.Outcome State Fault Refusal :=
  require (okLogic i || (decide (20 ≤ i) && decide (i < 20 + Config.hbmStacks))) (doThermalTrip i temp s)

/-! ### The local loops (R361) -/

/-- The budget of a pier's loop by its temperature. -/
def localBudget (temp : Int) : Nat :=
  if temp < 340 then 64 else if temp < 360 then 32 else if temp < 380 then 16 else if temp < 400 then 4 else 1

/-- The decks of a pier at the clock of LOCAL mode. -/
def localClocks (p : Nat) (s : State) : State := forEach (rangeFrom (3 * p) 3) (fun d s => s.modDeck d fun x => { x with cur := 1200 }) s

/-- LOCAL_LOOP_UPDATE (R361): every 10 µs in LOCAL mode. -/
def doLocalLoopUpdate (p : Nat) (s : State) : State :=
  if !(s.pier p).localMode ∨ !s.alive then s
  else localClocks p (s.modPier p fun P => { P with budget := localBudget (s.sensor (12 + p)).temp })

/-- LOCAL_LOOP_UPDATE. -/
def execLocalLoopUpdate (p : Nat) (s : State) : Host.Outcome State Fault Refusal := require (decide (p < 4)) (doLocalLoopUpdate p s)

/-- MGR_LOST (R361): MANAGED clears, which puts every pier in LOCAL mode (assumption 48). -/
def doMgrLost (p : Nat) (s : State) : State :=
  if !s.power.managed ∨ !s.alive then s
  else
    let s := forEach [0, 1, 2, 3] (fun q s => localClocks q (s.modPier q fun P => { P with localMode := true })) s
    logStored (s.modPower fun w => { w with managed := false }) 0x050A 3 (diePier p) [p] 7 0

/-- MGR_LOST. -/
def execMgrLost (p : Nat) (s : State) : Host.Outcome State Fault Refusal := require (decide (p < 4)) (doMgrLost p s)

/-! ### Registers that clear (R9, R367) -/

/-- DROOP_READ: COUNT is cleared, but for `ev` droops of the same cycle. -/
def doDroopRead (ev : Nat) (s : State) : State :=
  (s.ret (mkFld 16 16 s.power.droops + mkFld 0 10 s.power.minv)).modPower fun w => { w with droops := min 0xFFFF ev }

/-- DROOP_READ. -/
def execDroopRead (ev : Nat) (s : State) : Host.Outcome State Fault Refusal := require true (doDroopRead ev s)

/-- OVERCAP_READ. -/
def doOvercapRead (ev : Nat) (s : State) : State := (s.ret s.power.overcap).modPower fun w => { w with overcap := min 0xFFFF ev }

/-- OVERCAP_READ. -/
def execOvercapRead (ev : Nat) (s : State) : Host.Outcome State Fault Refusal := require true (doOvercapRead ev s)

/-- POWER.TRIP (R367). -/
def tripReg (w : Power) : Nat := mkBit 31 w.tripValid + mkFld 16 8 w.tripSensor + mkFld 0 12 (ofSInt 12 w.tripTemp)

/-- TRIP_READ: the trip is read and cleared. -/
def doTripRead (s : State) : State :=
  (s.ret (tripReg s.power)).modPower fun w => { w with tripValid := false, tripSensor := 0, tripTemp := 0 }

/-- TRIP_READ. -/
def execTripRead (s : State) : Host.Outcome State Fault Refusal := require true (doTripRead s)

/-- TEMP_READ: MAX is read and cleared. -/
def doTempRead (i : Nat) (s : State) : State := (s.ret (tempReg (s.sensor i))).modSensor i fun x => { x with max := 0, fresh := true }

/-- TEMP_READ. -/
def execTempRead (i : Nat) (s : State) : Host.Outcome State Fault Refusal := require (decide (i < 36)) (doTempRead i s)

/-! ### Host clusters (R238) -/

/-- What parking takes from an arbiter: the directory entries that name the cluster, its requests, and the Done that a transaction
awaits of it. -/
def Arb.without (A : Arb) (c : Nat) : Arb :=
  let mine := fun (r : CReq) => decide (r.kind < 2) && r.src == c
  { A with dir := (A.dir.map fun e => { e with owner := if e.owner = some c then none else e.owner, sharers := e.sharers.filter (· != c) }).filter
               fun e => e.owner.isSome || e.sharers != [],
           held := A.held.filter (fun r => !mine r), credit := A.credit.filter (fun r => !mine r),
           open_ := A.open_.map fun t => { t with needDone := t.needDone && !mine t.req } }

/-- A dirty line of a cluster that parks leaves it (R238, R247): data go to a requester whose forwarded request awaits them, and to
memory where the arbiter awaits them or still has the cluster as the line's owner. A line that the arbiter has already given away is
discarded, as its PutM would be. -/
def parkLine (c : Nat) (l : HLine) (s : State) : State :=
  let A := s.arb (homeArb l.line)
  let s := match A.trans l.line with
    | some t => if t.req.kind < 2 ∧ t.req.src ≠ c ∧ (t.downwb = some c ∨ (t.req.kind = 1 ∧ t.acks = [])) then
        sendCoh s (clusterEnd c) (clusterEnd t.req.src) vcRsp 0 "Data" t.req.src l.line l.data l.poison else s
    | none => s
  if A.owner l.line = some c ∨ (A.trans l.line).any fun t => t.downwb == some c then
    (writeBackLine s l.line l.data l.poison).modArb (homeArb l.line) fun A =>
      { A with open_ := A.open_.map fun t => if t.req.line = l.line ∧ t.downwb = some c then { t with downwb := none } else t }
  else s

/-- An arbiter no longer waits for a cluster, and goes on. -/
def leaveArb (c a : Nat) (s : State) : State :=
  let s := s.modArb a fun A => A.without c
  serveArb (forEach ((s.arb a).open_.map (·.req.line)) (fun line s => tryClose (takeInvAck s c line) a line) s) a

/-- A cluster parked: its M lines are written back, and no line and no directory entry is left (R238). -/
def parkCluster (c : Nat) (s : State) : State :=
  let C := s.cluster c
  let s := forEach (C.wb ++ C.lines.filter (·.m)) (parkLine c) s
  let s := s.modCluster c fun C => { C with parked := true, keptState := false, lines := [], wb := [], waitM := [], res := [] }
  forEach (rangeFrom 0 Config.abutments) (leaveArb c) s

/-- The clusters that a CLUSTER_PARK or CLUSTER_UNPARK names. -/
def namedClusters (die : Nat) (mask : BitVec 12) : List Nat := (maskBits 12 mask.toNat).map (12 * die + ·)

/-- CLUSTER_PARK (R238, R341): position in clusters. The arbiters acknowledge the last writeback in this step (assumption 49). -/
def doClusterPark (r : Req) (die : Nat) (mask : BitVec 12) (s : State) : State :=
  command r 0x0603 [(decide (Config.abutments ≤ die), bsBadParam)] 0 (fun p s =>
    let l := namedClusters die mask
    let h := handleOf r.client r.slot p.seq
    let s := forEach l parkCluster (acceptLong s r.client r.slot p 6 l.length [])
    finishOp (setPosition s h l.length) h bsCompleted []) s

/-- CLUSTER_PARK. -/
def execClusterPark (r : Req) (die : Nat) (mask : BitVec 12) (s : State) : Host.Outcome State Fault Refusal :=
  require (okReq r && decide (die < 256)) (doClusterPark r die mask s)

/-- A cluster runs again, unless it has failed. -/
def unparkCluster (c : Nat) (s : State) : State :=
  s.modCluster c fun C => if C.failed then C else { C with parked := false, keptState := false }

/-- CLUSTER_UNPARK (R238). -/
def doClusterUnpark (r : Req) (die : Nat) (mask : BitVec 12) (s : State) : State :=
  command r 0x0604 [(decide (Config.abutments ≤ die), bsBadParam)] 0 (fun p s =>
    let l := namedClusters die mask
    let h := handleOf r.client r.slot p.seq
    let s := forEach l unparkCluster (acceptLong s r.client r.slot p 6 l.length [])
    finishOp (setPosition s h l.length) h bsCompleted []) s

/-- CLUSTER_UNPARK. -/
def execClusterUnpark (r : Req) (die : Nat) (mask : BitVec 12) (s : State) : Host.Outcome State Fault Refusal :=
  require (okReq r && decide (die < 256)) (doClusterUnpark r die mask s)

/-! ### Idle states (R363–R365) -/

/-- The conditions under which an idle state may be entered (R364). -/
def State.idleOk (s : State) : Bool :=
  s.job.st == .none && s.belul.ops == [] && !s.traceOn &&
    s.tiles.all fun t => t.2.st != .run && t.2.st != .halted && t.2.st != .draining

/-- Entry: the merging buffers and the adder stores are written back, and every unparked cluster is parked with its state (R364). -/
def enterIdle (s : State) : State :=
  let s := forEach [0, 1, 2, 3] (fun p s => forEach ((s.pier p).merges.map (·.line)) (fun l s => drainLine s p l) s) s
  let s := forEach (s.chans.flatMap fun c => c.2.adder.map fun e => (c.1, e.cw)) (fun e s => adderEvict s e.1 e.2) s
  forEach ((s.clusters.filter fun e => !e.2.parked).map (·.1)) (fun c s =>
    (parkCluster c s).modCluster c fun C => { C with keptState := true }) s

/-- A counter of a deck die: of a tile or of a bond. -/
def deckCtr (a : Nat) : Bool :=
  (decide (0x400100000000 ≤ a) && decide (a < tileCtr Config.tiles 0)) || (decide (0x400003400000 ≤ a) && decide (a < 0x400003500000))

/-- The deck dies switched off: tiles lose their stores and registers, and read RESET afterwards (R363). -/
def decksOff (s : State) : State :=
  let s := forEach (s.tiles.map (·.1)) (fun t s =>
    forEach [0, 1, 2, 3] (fun q s => releaseLeases (withdrawFault s t q) t q fun _ => true) (flushSpace t s)) s
  let s := s.modCtrs fun k =>
    { k with vals := k.vals.filter (fun e => !deckCtr e.1), spaceBase := [], latchCore := k.latchCore.filter (fun e => !deckCtr e.1),
             latchDev := k.latchDev.filter fun e => !deckCtr e.1 }
  { s with tiles := keepTab {} keptTile s.tiles, msgs := [] }

/-- The optical ports switched off. -/
def portsOff (s : State) : State := s.modNode fun n => { n with ports := keepTab {} keptPort n.ports, rems := [] }

/-- S2 loses the tile stores, the pier caches and the lasers, and stops the tick unit (R362, R363). -/
def loseS2 (s : State) : State :=
  let s := portsOff (decksOff s)
  let s := { s with piers := keepTab {} (fun P => { P with lines := [], fills := [], merges := [] }) s.piers }
  s.modTick fun k => { k with running := false }

/-- S3 keeps A0's headstock and STBY alone: the pool, and the registers of piers, decks and abutment dies, are lost (R363). -/
def loseS3 (s : State) : State :=
  let c := coldState s
  { s with tiles := c.tiles, msgs := [], ks := c.ks, pool := c.pool, chans := [], piers := c.piers, clusters := c.clusters, arbs := [],
           hostint := [], imsic := [], pairs := c.pairs, truss := {}, node := c.node, tick := {}, job := {}, ctrs := {}, talcy := c.talcy }

/-- Steps of a POWER_STATE: entry, and the change of the domains (assumption 26). -/
def idleSteps : Nat := 2

/-- Every sensor is below its throttle limit (R360). -/
def State.allCool (s : State) : Bool :=
  s.power.sensors.all fun e => e.1 == inletSensor || decide (e.2.temp < (thermLimits e.1).1)

/-- POWER_STATE (R344, R364, R365). In S1–S3 the command waits until the module is in S0; in S4 only one from I3C that leaves S4 is
accepted, and it goes on once the module has started. -/
def doPowerState (r : Req) (target : Nat) (s : State) : State :=
  match s.power.idle with
  | .s4 =>
    command r 0x0602 [(decide (4 < target), bsBadParam), (target != 0 || (s.power.tripS4 && !s.allCool), bsNotReady)] 0 (fun p s =>
      acceptLong s r.client r.slot p 7 idleSteps []) s
  | .s0 =>
    command r 0x0602 [(decide (4 < target), bsBadParam), (target != 0 && !s.idleOk, bsNotIdle)] 0 (fun p s =>
      let h := handleOf r.client r.slot p.seq
      let s := acceptLong s r.client r.slot p 7 idleSteps []
      let s := if target = 0 then s else enterIdle s
      let s := finishOp (setPosition s h idleSteps) h bsCompleted []
      match target with
      | 0 => s
      | 1 => s.modPower fun w => { w with idle := .s1 }
      | 2 => (loseS2 s).modPower fun w => { w with idle := .s2 }
      | 3 => (loseS3 s).modPower fun w => { w with idle := .s3 }
      | _ => (coldState s).modPower fun w => { w with idle := .s4 }) s
  | _ => s

/-- POWER_STATE. -/
def execPowerState (r : Req) (target : Nat) (s : State) : Host.Outcome State Fault Refusal :=
  require (okReq r && decide (target < 256)) (doPowerState r target s)

/-- The wake events of R365: 0 a valid Belul commit, 1 a PCIe wake, 2 an arriving LAUNCH, 3 the tick at WAKETICK. -/
def State.wakes (s : State) (src : Nat) : Bool :=
  let on := s.power.wakeCtl.getLsbD (31 - src)
  let committed := s.belul.slots.any fun e => e.2.picked.isSome
  match s.power.idle, src with
  | .s0, _ => false
  | .s4, 0 => s.belul.ops.any fun o => o.client == 2 && o.opcode == 0x0602
  | .s4, _ => false
  | _, 0 => on && committed
  | _, 1 => on
  | .s1, 2 => on
  | .s1, 3 => on && decide (s.power.wakeTick.toNat ≤ s.tick.num.toNat)
  | _, _ => false

/-- Clusters that were running when the module went idle run again (R364). -/
def resumeClusters (s : State) : State :=
  forEach ((s.clusters.filter fun e => e.2.keptState).map (·.1)) unparkCluster s

/-- Tiles and ports start again, and the tick is UNLOCKED (R32, R305, R363). -/
def restartUnits (s : State) : State :=
  let s := { s with tiles := allTiles.map fun t =>
    let T := s.tile t
    (t, if T.lost then T else { T with filling := true }) }
  let s := forEach ((rangeFrom 0 Config.ports).filter fun p => !(s.port p).laserDown) (fun p s => trainPort s p) s
  s.modTick fun k => { k with running := true, st := 0, aligned := false, parent := none }

/-- All bundle pairs of the module. -/
def allPairs : List (Nat × Nat) := (rangeFrom 0 Config.links).flatMap fun l => (rangeFrom 0 (Config.pairs l)).map fun n => (l, n)

/-- POWER_WAKE (R365): the way back to S0 from each idle state. S4 ends in a start. -/
def doPowerWake (src : Nat) (s : State) : State :=
  if !s.wakes src then s
  else
    let up := fun (s : State) => s.modPower fun w => { w with idle := .s0 }
    match s.power.idle with
    | .s0 => s
    | .s1 => logEvent (resumeClusters (up s)) 0x0002 0 dieModule [1]
    | .s2 => logEvent (restartUnits (resumeClusters (up s))) 0x0002 0 dieModule [2]
    | .s3 =>
      let s := restartUnits (up s)
      let s := forEach allPairs (fun e s => trainPair e.1 e.2 s) s
      let s := s.modBelul fun b =>
        { b with bytes := client2Bytes b.bytes, slots := b.slots.filter fun e => decide (64 ≤ e.1), overrun := b.overrun.filter fun e => decide (2 ≤ e.1),
                 badcommit := b.badcommit.filter fun e => decide (2 ≤ e.1) }
      let s := s.modPower fun w => { w with managed := false, managedPend := true }
      logEvent (beginInit s false false 2 0) 0x0002 0 dieModule [3]
    | .s4 => moduleReset s (if s.power.tripS4 then kindTripExit else kindS4Exit)

/-- POWER_WAKE. -/
def execPowerWake (src : Nat) (s : State) : Host.Outcome State Fault Refusal := require (decide (src < 4)) (doPowerWake src s)

end Sys2Proof.Machine
end

