-- ==== Sys2Proof/Machine/Boot.lean ====
section
/-!
DEFINITION. Boot, the record store and security (R22, R344, R370–R385): images, the start, die resets, FIRMWARE and SECURITY commands.
-/

namespace Sys2Proof.Machine
open Sys2Proof

/-! ### Images (R371, R372) -/

/-- Bytes of the image region. -/
def imageRegion : Nat := 262144
/-- Body bytes of an image. -/
def imgBody (b : List Byte) : Nat := fieldAt b 8 4
/-- SVN of an image. -/
def imgSvn (b : List Byte) : Nat := fieldAt b 0xC 4
/-- VERSION of an image. -/
def imgVersion (b : List Byte) : Nat := fieldAt b 0x10 8
/-- BURN_SVN of an image. -/
def imgBurn (b : List Byte) : Bool := bitAt (fieldAt b 6 2) 0
/-- PUBKEY of an image. -/
def imgKey (b : List Byte) : List Byte := (b.drop 0x20).take 64

/-- The key slot that an image uses: the one whose hash its PUBKEY has and whose revoke fuse is not blown. -/
def keySlot (b : List Byte) : Option Nat :=
  let h := Config.sm3 (imgKey b)
  if h = Config.keyHash0 ∧ !Config.revoked 0 then some 0 else if h = Config.keyHash1 ∧ !Config.revoked 1 then some 1 else none

/-- The header of an image is as R371 gives it. -/
def imgHeader (b : List Byte) : Bool :=
  decide (256 + imgBody b ≤ b.length) && decide (256 ≤ b.length) && fieldAt b 0 4 == 0x32315846 && fieldAt b 4 2 == 1 &&
    decide (fieldAt b 6 2 < 2) && decide (imgBody b ≤ 261888) && fieldAt b 0x1C 4 == 0 && fieldAt b 0xA0 96 == 0

/-- The checks of R372. -/
def validImage (s : State) (b : List Byte) : Bool :=
  imgHeader b && (keySlot b).isSome && decide (s.boot.svnFuse ≤ imgSvn b) &&
    Config.sm2Verify (imgKey b) ((b.drop 0x60).take 64) (b.take 0x60 ++ (b.drop 256).take (imgBody b))

/-! ### The start (R374) -/

/-- The ordering code, 12 ASCII bytes (R341). -/
def orderingCode : List Byte := [0x46, 0x58, 0x31, 0x32, 0x2D, 0x48, 0x31, 0x36, 0x41, 0x32, 0, 0]

/-- The AND of the feature words (R377). -/
def intersection (l : List W32) : W32 := l.foldl (· &&& ·) 0x1F

/-- Step 4: the ROM extends M0–M2. -/
def measureRom (s : State) (img : List Byte) : State :=
  let s := extendMeas s 0 0 (leBytes 32 (Config.sm3 Config.romImage).toNat)
  let s := extendMeas s 1 0 (img.take (256 + imgBody img))
  extendMeas s 2 0 [BitVec.ofNat 8 ((keySlot img).getD 0xFF), BitVec.ofNat 8 (bitNat (Config.revoked 0) + 2 * bitNat (Config.revoked 1)),
    BitVec.ofNat 8 s.boot.svnFuse, Config.debugFuse]

/-- Step 6: M3. -/
def measureDies (s : State) : State :=
  extendMeas s 3 0 (orderingCode ++ (s.boot.revs.zip s.boot.words).flatMap (fun e => e.1 :: leBytes 4 e.2.toNat) ++
    leBytes 4 s.boot.features.toNat)

/-- A port's configuration from its record: mode and width (R341, R379). -/
def recordedPort (s : State) (n : Nat) : Nat × Nat :=
  match s.recOf 9 n with
  | some r => (r.data.getD 0 0, r.data.getD 1 16)
  | none => (0, 16)

/-- The spare of an abutment die takes over a cluster that has failed (R22). -/
def spareCluster (c : Nat) (s : State) : State :=
  let a := c / 12
  if !(s.cluster c).failed ∨ s.sparesLeft 7 a = 0 then s
  else
    let s := useSpare (s.modCluster c fun C => { C with failed := false, errors := [] }) 7 a
    logStored s 0x0606 2 (dieAbut a) [a, c % 12] 12 (dieAbut a)

/-- Step 7: the recorded maps, the PCIe ports' modes, and M5. -/
def applyRecords (s : State) : State :=
  let s := { s with portCfg := (rangeFrom 0 Config.pciePorts).foldl (fun t n => Tab.set (0, 16) t n (recordedPort s n)) [] }
  let s := forEach allPairs (fun e s => trainPair e.1 e.2 s) s
  let s := forEach (rangeFrom 0 Config.clusters) spareCluster s
  extendMeas s 5 0 ((rangeFrom 0 Config.pciePorts).map (fun n => BitVec.ofNat 8 (s.pcieMode n)) ++ [BitVec.ofNat 8 (bitNat s.boot.fromRecovery)])

/-- The ways that a pier's spare map names (R226, R414). -/
def mappedWays (P : Pier) : BitVec 17 :=
  match P.retired with
  | some w => BitVec.allOnes 17 &&& ~~~wayBit w
  | none => BitVec.ofNat 17 0xFFFF

/-- Steps 8 and 9: the pool READY in its default mode, at the highest rate at which every stack trains, the pier caches' ways, the ports in training, MANAGED, and the tick
UNLOCKED. -/
def bringUp (s : State) (rate : Nat) (key : W64) : State :=
  let s := commitInit (beginInit s false false 2 0) (min rate (featureRate s (qualifiedRate 2))) key
  let s := forEach [0, 1, 2, 3] (fun p s => s.modPier p fun P =>
    { P with enable := mappedWays P, powered := mappedWays P, invDone := mappedWays P }) s
  let s := forEach ((rangeFrom 0 Config.ports).filter fun p => !(s.port p).laserDown) (fun p s => trainPort s p) s
  let s := s.modPower fun w => { w with managedPend := true }
  s.modTick fun k => { k with running := true }

/-- Step 10, and what a start reports: BOOT.COUNT, the version fuses of R373, the trip (R420), the wake and the POWER_STATE that ended
S4 (R344, R365). -/
def reachRunning (s : State) : State :=
  let last := s.boot.last
  let s := s.modBoot fun b =>
    { b with st := .running, count := b.count + 1, svnFuse := if imgBurn b.running then max b.svnFuse (min 64 (imgSvn b.running)) else b.svnFuse }
  let s := addRec s 13 0 [s.boot.count]
  let s := if last = kindTripExit then logStored s 0x050B 5 dieModule [tripReg s.power] 7 0 else s
  let s := if last = kindTripExit ∨ last = kindS4Exit then logEvent s 0x0002 0 dieModule [4] else s
  forEach (s.belul.ops.filter fun o => o.opcode == 0x0602) (fun o s => finishOp (setPosition s o.handle idleSteps) o.handle bsCompleted []) s

/-- Steps 5–10 of a start with a valid image; `failStep` names the first that fails. -/
def startDies (s : State) (i : StartIn) : State :=
  let fails := fun n => i.failStep == some n
  let s := s.modBoot fun b => { b with st := .starting, revs := i.revs, words := i.features }
  if fails 5 then faultPath s 5
  else if !i.qualified then s.modBoot fun b => { b with st := .mixedUnqualified }
  else
    let s := measureDies (s.modBoot fun b => { b with features := intersection b.words })
    if fails 6 then faultPath s 6
    else
      let s := applyRecords s
      if fails 7 then faultPath s 7
      else if fails 8 then faultPath s 8
      else
        let s := bringUp s i.memRate i.poolKey
        if fails 9 then faultPath s 9 else if fails 10 then faultPath s 10 else reachRunning s

/-- The flash's image region: what an update wrote, or what stands in it from outside. -/
def flashImage (s : State) (i : StartIn) : List Byte := if s.boot.imageOk then s.boot.image else i.image

/-- MODULE_START (R374): from the ROM to RUNNING, RECOVERY, MIXED_UNQUALIFIED or the fault path. -/
def doModuleStart (i : StartIn) (s : State) : State :=
  if s.boot.st ≠ .rom ∨ !s.alive then s
  else
    let img := flashImage s i
    let s := measureRom (s.modPower fun w => { w with pwrGood := true }) img
    if !validImage s img then s.modBoot fun b => { b with st := .recovery }
    else startDies (s.modBoot fun b => { b with running := img, fromRecovery := b.last == kindRecovery }) i

/-- Dies of the module: decks, piers and abutment dies. -/
def dieCount : Nat := 16 + Config.abutments

/-- MODULE_START. -/
def execModuleStart (i : StartIn) (s : State) : Host.Outcome State Fault Refusal :=
  require (i.features.length == dieCount && i.revs.length == dieCount && decide (i.image.length ≤ imageRegion) &&
    decide (i.memRate < 3) && i.failStep.all fun n => decide (5 ≤ n) && decide (n ≤ 10)) (doModuleStart i s)

/-! ### Partial resets (R269, R380, R381) -/

/-- DIE_RESET, whose cause code nothing gives (assumption 34). -/
def dieResetEvent (s : State) (die : Nat) : State := logStored s.takeFree 0x0204 5 die [die, s.freeVal] 7 0

/-- A remote request of a tile. -/
def RemKind.tile : RemKind → Option Nat
  | .read t _ _ _ _ _ _ => some t
  | .write t _ _ _ _ => some t
  | .atomic t _ _ _ _ _ => some t
  | .chainRead t _ _ _ => some t
  | .chainWrite t _ _ _ => some t
  | .load t _ _ => some t
  | .message _ => none
  | .hostLoad _ => none
  | .hostStore _ => none

/-- A tile of a die that resets alone: loads of it end with LOAD_ERROR of an unstated cause, and operations that wait for it count it as
done (assumption 50). -/
def dropTile (t : Nat) (s : State) : State :=
  let s := match (s.tile t).load with
    | some l => loadError s.takeFree t l (bsLoadError, s.freeVal, l.va + loadChunk * l.pos)
    | none => s
  let s := forEach [opTileReset, opTileStop, opTileHalt, opTileTest] (fun op s => tileDone op t s) s
  (resetTile t s).modTile t fun T => { T with filling := false, st := if T.lost then .unavailable else .reset }

/-- DECK_DIE_RESET (R380): the die's tiles lose everything and read RESET, or UNAVAILABLE where its fuses differ from those of the
start. A move under way on the die is abandoned, and queued again after DIE_READY (R417). -/
def doDeckDieReset (n : Nat) (same : Bool) (s : State) : State :=
  if s.boot.st ≠ .running ∨ (s.power.idle ≠ .s0 ∧ s.power.idle ≠ .s1) then s
  else
    let s := dieResetEvent s n
    let s := s.modNode fun x => { x with rems := x.rems.filter fun r => match r.kind.tile with
      | some t => deckOf t != n
      | none => true }
    let s := { s with msgs := s.msgs.filter fun f => deckOf f.srcTile != n }
    let again := s.wear.moving.filter fun x => x.scope == n
    let s := (forEach (tilesOf n) dropTile s).modWear fun w => { w with moving := w.moving.filter fun x => x.scope != n }
    let s := s.modCtrs fun k => { k with vals := k.vals.filter fun e => e.1 / 0x10000 != bondBase n / 0x10000 }
    let s := s.modBoot fun b => { b with dierst := b.dierst ||| BitVec.ofNat 16 (2 ^ n) }
    if same then forEach again (fun x s => queueNeed s x) (logEvent s 0x0004 0 n [n])
    else dieDegraded (forEach (tilesOf n) (fun t s => s.modTile t fun T => { T with st := .unavailable }) s.takeFree) n s.freeVal

/-- DECK_DIE_RESET. -/
def execDeckDieReset (n : Nat) (same : Bool) (s : State) : Host.Outcome State Fault Refusal :=
  require (decide (n < 12)) (doDeckDieReset n same s)

/-- A surviving cluster writes back its M lines of a home, and then invalidates every line of that home (R381). -/
def flushHome (a c : Nat) (s : State) : State :=
  let mine := fun (l : HLine) => homeArb l.line == a
  let C := s.cluster c
  let s := forEach (C.wb.filter mine ++ C.lines.filter fun l => l.m && mine l) (fun l s => writeBackLine s l.line l.data l.poison) s
  s.modCluster c fun C =>
    { C with lines := C.lines.filter (fun l => !mine l), wb := C.wb.filter (fun l => !mine l),
             waitM := C.waitM.filter (fun x => homeArb x != a), res := C.res.filter fun e => homeArb e.2 != a }

/-- A cluster of a die that resets: its harts and lines are lost, and no arbiter waits for it. -/
def loseCluster (c : Nat) (s : State) : State :=
  let s := { s with clusters := Tab.set {} s.clusters c (keptCluster (s.cluster c)) }
  forEach (rangeFrom 0 Config.abutments) (fun a s =>
    let s := s.modArb a fun A =>
      { A with open_ := A.open_.map fun t => if t.downwb = some c then { t with downwb := none } else t }
    leaveArb c a s) s

/-- Interrupt files of the harts of abutment die `a` (R252). -/
def fileOf (a k : Nat) : Bool :=
  (decide (48 * a ≤ k) && decide (k < 48 * a + 48)) || (decide (0x1000 + 384 * a ≤ k) && decide (k < 0x1000 + 384 * a + 384))

/-- The link that joins abutment die `a` to its pier (R255). -/
def abutLink (a : Nat) : Nat := 3 + a

/-- The accesses of an entry that go through the home arbiter of die `a` and are not acknowledged: each waits for its DIE_RESET
response (R269). -/
def QEntry.lose (a : Nat) (e : QEntry) : QEntry :=
  { e with chunks := e.chunks.map fun c =>
      { c with acks := c.acks.map fun k => if (k.home.map (·.2)) = some a then { k with reset := true } else k } }

/-- The accesses of a tile that the reset of an abutment die loses (R269). -/
def loseAccesses (a t : Nat) (s : State) : State :=
  forEach [0, 1, 2, 3] (fun q s => s.modQueue t q fun Q => { Q with entries := Q.entries.map (QEntry.lose a) }) s

/-- A request that the arbiter of a reset die has not answered: a tile's is answered as poison, and a cluster of another die waits for
its DIE_RESET response (R269). -/
def loseRequest (a : Nat) (r : CReq) (s : State) : State :=
  if 2 ≤ r.kind then s.send (.tileAck r.src 0 0 true)
  else if r.src / 12 = a then s
  else s.modCluster r.src fun C => { C with lost := C.lost ++ [r.line] }

/-- The requests of other nodes that wait for a line homed on a reset die are answered as poison; the others go on (R269, R295). -/
def loseReqs (a : Nat) (s : State) : State :=
  let mine := fun (p : Pkt) => homeArb (s.importAddr p / 64) == a
  let lost := s.node.waitReqs.filter mine
  forEach lost (fun p s => respond s p 1 0 true []) (s.modNode fun n => { n with waitReqs := n.waitReqs.filter fun p => !mine p })

/-- The pairs of a link to die `a` stop: the replay buffers are discarded (R269), the end on the pier keeps its old maps, and every pair
retrains (R268, R381). -/
def losePairs (a : Nat) (s : State) : State :=
  let l := abutLink a
  forEach (rangeFrom 0 (Config.pairs l)) (fun n s =>
    let drop := fun (b : TBundle) => { b with unacked := [], await := none, fails := 0 }
    let s := (s.modBundle (bundleKey l n 0) drop).modBundle (bundleKey l n 1) drop
    trainPair l n (s.modPair l n fun p =>
      { p with held := if p.st < 2 then none else some (a % 2 == 0, p.mapE, p.mapW) })) s

/-- ABUTMENT_DIE_RESET (R381): what the die has not answered is lost, and answered DIE_RESET (R269). -/
def doAbutmentDieReset (a : Nat) (same : Bool) (s : State) : State :=
  if s.boot.st ≠ .running ∨ (s.power.idle ≠ .s0 ∧ s.power.idle ≠ .s1) then s
  else
    let s := dieResetEvent s (dieAbut a)
    let waiting := ((s.arb a).open_.map (·.req)) ++ (s.arb a).held ++ (s.arb a).credit
    let s := loseReqs a (forEach waiting (loseRequest a) (s.setArb a {}))
    let s := forEach (s.tiles.map (·.1)) (loseAccesses a) s
    let s := forEach ((rangeFrom 0 Config.clusters).filter fun c => c / 12 != a) (flushHome a) s
    let s := forEach (clustersOf a) loseCluster s
    let s := { s with imsic := s.imsic.filter (fun e => !fileOf a e.1), upper := s.upper.filter fun e => e.1 / 2 != a }
    let s := s.modCtrs fun k => { k with vals := k.vals.filter fun e => e.1 / 0x10000 != homearbBase a / 0x10000 }
    let s := losePairs a (if same then s else dieDegraded s (dieAbut a) (abutLink a))
    let s := s.modBoot fun b => { b with dierst := b.dierst ||| BitVec.ofNat 16 (2 ^ (12 + a)) }
    logEvent s 0x0004 0 (dieAbut a) [dieAbut a]

/-- ABUTMENT_DIE_RESET. -/
def execAbutmentDieReset (a : Nat) (same : Bool) (s : State) : Host.Outcome State Fault Refusal :=
  require (decide (1 ≤ a) && decide (a < Config.abutments)) (doAbutmentDieReset a same s)

/-! ### The record store (R378, R379) -/

/-- The newest error log records that a compaction keeps: at most 1 MiB, from the newest on. -/
def newestLogs : Nat → List Rec → List Rec
  | _, [] => []
  | room, r :: l => if recBytes r ≤ room then r :: newestLogs (room - recBytes r) l else []

/-- The records that a compaction copies: each that governs its kind and key, and the newest error logs. -/
def keptRecords (l : List Rec) : List Rec :=
  let logs := newestLogs 1048576 (l.reverse.filter fun r => r.kind == 7)
  l.filter fun r => if r.kind = 7 then logs.contains r else !(l.any fun x => x.kind == r.kind && x.key == r.key && decide (r.seq < x.seq))

/-- RECORD_COMPACTION (R379): the active half is more than 7 ⁄ 8 full. -/
def doRecordCompaction (s : State) : State :=
  if 4096 + s.boot.recUsed ≤ 7340032 then s
  else s.modBoot fun b =>
    let l := keptRecords b.recs
    { b with recs := l, recGen := (b.recGen + 1) % 2 ^ 32, recUsed := l.foldl (fun n r => n + recBytes r) 0 }

/-- RECORD_COMPACTION. -/
def execRecordCompaction (s : State) : Host.Outcome State Fault Refusal := require true (doRecordCompaction s)

/-- A record as the flash holds it, but for its commit word: head with CRC, and payload (R378). -/
def storedBytes (r : Rec) : List Byte :=
  let d := r.data.flatMap (leBytes 8)
  let head := leBytes 1 r.kind ++ leBytes 1 0 ++ leBytes 2 d.length ++ leBytes 4 r.key ++ leBytes 4 r.seq
  head ++ leBytes 4 (crc32c 0 (head ++ d)).toNat ++ d

/-- RECORD_READ (R336, R341): the records of a kind from an index on (assumption 26). -/
def doRecordRead (r : Req) (kind first : Nat) (s : State) : State :=
  command r 0x0905 [] 0 (fun p s =>
    let l := (s.boot.recs.filter fun x => x.kind == kind).drop first
    replying r bsOk ((l.flatMap storedBytes).map fun b => (1, b.toNat)) p s) s

/-- RECORD_READ. -/
def execRecordRead (r : Req) (kind first : Nat) (s : State) : Host.Outcome State Fault Refusal :=
  require (okReq r && decide (kind < 256) && decide (first < 2 ^ 32)) (doRecordRead r kind first s)

/-! ### FIRMWARE commands (R341, R373, R376) -/

/-- FW_INFO (R341): VERSION and SM3 of the running image, and state: 0 RUN, 1 RECOVERY (assumption 26). -/
def doFwInfo (r : Req) (s : State) : State :=
  command r 0x0901 [] 0 (fun p s =>
    let rec_ : Bool := s.boot.st == .recovery
    replying r bsOk [(8, if rec_ then 0 else imgVersion s.boot.running), (32, if rec_ then 0 else (Config.sm3 s.boot.running).toNat),
      (4, bitNat rec_)] p s) s

/-- FW_INFO. -/
def execFwInfo (r : Req) (s : State) : Host.Outcome State Fault Refusal := require (okReq r) (doFwInfo r s)

/-- Opcode of FW_UPDATE. -/
def opFwUpdate : Nat := 0x0902

/-- The bytes that FW_UPDATE reads as its image; a poisoned line gives none (assumption 158). -/
def imageAt (s : State) : ImgSrc → List Byte
  | .pool a n => if peekPoison s a n then [] else peekPool s a n
  | .outside l => l

/-- The length that FW_UPDATE names. -/
def imageLen : ImgSrc → Nat
  | .pool _ n => n
  | .outside l => l.length

/-- The image lies outside the pool. -/
def badImageAddr : ImgSrc → Bool
  | .pool a n => decide (Config.poolBytes < a + n)
  | .outside _ => false

/-- The pool after the read of an image. -/
def readImage (s : State) : ImgSrc → State
  | .pool a n => (readPool s a n).1
  | .outside _ => s

/-- FW_UPDATE (R373): an image read from its address and checked before any write; then the region is erased and written. -/
def doFwUpdate (r : Req) (src : ImgSrc) (s : State) : State :=
  let image := imageAt s src
  command r opFwUpdate [(badImageAddr src, bsBadAddress), (decide (imageRegion < imageLen src), bsBadParam), (s.boot.update.isSome, bsBusy),
      (!validImage s image, bsSigInvalid)] 0
    (fun p s => (acceptLong (readImage s src) r.client r.slot p 2 image.length []).modBoot fun b =>
      { b with update := some (handleOf r.client r.slot p.seq, image) }) s

/-- FW_UPDATE. -/
def execFwUpdate (r : Req) (src : ImgSrc) (s : State) : Host.Outcome State Fault Refusal :=
  require (okReq r && (match src with
    | .pool a n => r.client == 0 && decide (a < 2 ^ 64) && decide (n < 2 ^ 32)
    | .outside _ => r.client != 0)) (doFwUpdate r src s)

/-- FW_UPDATE_COMPLETE (R373): the read-back verifies, or FLASH_ERROR leaves no image there. -/
def doFwUpdateComplete (ok : Bool) (s : State) : State :=
  match s.boot.update with
  | none => s
  | some (h, img) =>
    let s := s.modBoot fun b => { b with update := none, image := if ok then img else [], imageOk := true }
    finishOp (if ok then setPosition s h img.length else s) h (if ok then bsCompleted else bsFlashError) []

/-- FW_UPDATE_COMPLETE. -/
def execFwUpdateComplete (ok : Bool) (s : State) : Host.Outcome State Fault Refusal := require true (doFwUpdateComplete ok s)

/-- The bytes of the open recovery session of a client. -/
def sessionBytes (s : State) (c : Nat) : List Byte :=
  match s.boot.session with
  | some x => if x.1 = c then x.2 else []
  | none => []

/-- A load names an offset that does not continue its session (R376). -/
def badOffset (s : State) (c off : Nat) : Bool :=
  off != 0 && (match s.boot.session with
    | some x => x.1 == c && x.2.length != off
    | none => true)

/-- Another client holds the recovery session. -/
def sessionTaken (s : State) (c : Nat) : Bool :=
  match s.boot.session with
  | some x => x.1 != c
  | none => false

/-- FW_RECOVERY_LOAD (R376): a piece of an image; LAST checks it, writes it and resets with kind RECOVERY. -/
def doFwRecoveryLoad (r : Req) (off : Nat) (last : Bool) (piece : List Byte) (flashOk : Bool) (s : State) : State :=
  command r 0x0903 [(s.boot.st == .recovery && badOffset s r.client off, bsBadParam), (decide (4096 < piece.length), bsBadParam),
      (s.boot.st == .recovery && sessionTaken s r.client, bsBusy), (s.boot.st != .recovery, bsNotRecovery)] 0 (fun p s =>
    let img := (if off = 0 then [] else sessionBytes s r.client) ++ piece
    if !last then replying r bsOk [] p (s.modBoot fun b => { b with session := some (r.client, img) })
    else
      let s := s.modBoot fun b => { b with session := none }
      if !validImage s img then replying r bsSigInvalid [] p s
      else if !flashOk then replying r bsFlashError [] p (s.modBoot fun b => { b with image := [], imageOk := true })
      else moduleReset (replying r bsOk [] p (s.modBoot fun b => { b with image := img, imageOk := true })) kindRecovery) s

/-- FW_RECOVERY_LOAD. -/
def execFwRecoveryLoad (r : Req) (off : Nat) (last : Bool) (piece : List Byte) (flashOk : Bool) (s : State) :
    Host.Outcome State Fault Refusal :=
  require (okReq r && decide (off < 2 ^ 32)) (doFwRecoveryLoad r off last piece flashOk s)

/-- RECOVERY_SESSION_TIMEOUT (R376). -/
def doRecoverySessionTimeout (s : State) : State := s.modBoot fun b => { b with session := none }

/-- RECOVERY_SESSION_TIMEOUT. -/
def execRecoverySessionTimeout (s : State) : Host.Outcome State Fault Refusal := require true (doRecoverySessionTimeout s)

/-- FW_ACTIVATE (R341, R368): OK, then a reset of kind FIRMWARE. -/
def doFwActivate (r : Req) (s : State) : State :=
  command r 0x0904 [(s.job.st == .run, bsJobActive)] 0 (fun p s => moduleReset (replying r bsOk [] p s) kindFirmware) s

/-- FW_ACTIVATE. -/
def execFwActivate (r : Req) (s : State) : Host.Outcome State Fault Refusal := require (okReq r) (doFwActivate r s)

/-! ### SECURITY commands (R382–R384) -/

/-- Bytes from an offset on. -/
def bytesFrom (l : List Byte) (off : Nat) : List (Nat × Nat) := (l.drop off).map fun b => (1, b.toNat)

/-- ID_CERT (R382). -/
def doIdCert (r : Req) (off : Nat) (s : State) : State :=
  command r 0x0A01 [] 0 (fun p s => replying r bsOk (bytesFrom Config.certChain off) p s) s

/-- ID_CERT. -/
def execIdCert (r : Req) (off : Nat) (s : State) : Host.Outcome State Fault Refusal :=
  require (okReq r && decide (off < 2 ^ 32)) (doIdCert r off s)

/-- The attestation report but for its signature (R384). -/
def attestFields (s : State) (nonce : BitVec 256) (mask : BitVec 8) : List (Nat × Nat) :=
  [(4, 1), (4, mask.toNat), (32, nonce.toNat), (8, Config.serial.toNat), (4, s.boot.count), (4, s.boot.mlog.length), (8, s.eventTick.toNat)] ++
    (maskBits 8 mask.toNat).map fun i => (32, (Tab.get 0 s.boot.meas i).toNat)

/-- ATTEST (R384): the report with its SM2 signature. -/
def doAttest (r : Req) (nonce : BitVec 256) (mask : BitVec 8) (s : State) : State :=
  command r 0x0A02 [] 0 (fun p s =>
    let f := attestFields s nonce mask
    replying r bsOk (f ++ [(64, (Config.sm2Sign (dataBytes f)).toNat)]) p s) s

/-- ATTEST. -/
def execAttest (r : Req) (nonce : BitVec 256) (mask : BitVec 8) (s : State) : Host.Outcome State Fault Refusal :=
  require (okReq r) (doAttest r nonce mask s)

/-- The measurement log as bytes (R383). -/
def logBytes (l : List MeasLog) : List Byte :=
  l.flatMap fun m => leBytes 1 m.reg ++ leBytes 1 m.typ ++ leBytes 2 m.data.length ++ leBytes 32 m.digest.toNat ++ m.data

/-- MEASURE_LOG (R383). -/
def doMeasureLog (r : Req) (off : Nat) (s : State) : State :=
  command r 0x0A03 [] 0 (fun p s => replying r bsOk (bytesFrom (logBytes s.boot.mlog) off) p s) s

/-- MEASURE_LOG. -/
def execMeasureLog (r : Req) (off : Nat) (s : State) : Host.Outcome State Fault Refusal :=
  require (okReq r && decide (off < 2 ^ 32)) (doMeasureLog r off s)

/-! ### Registers (R385) -/

/-- BOOT_CAUSE_READ: SEEN is read and cleared, but for the kinds `ev` of the same cycle. -/
def doBootCauseRead (ev : BitVec 10) (s : State) : State :=
  (s.ret (mkFld 28 4 s.boot.last + s.boot.seen.toNat)).modBoot fun b => { b with seen := ev }

/-- BOOT_CAUSE_READ. -/
def execBootCauseRead (ev : BitVec 10) (s : State) : Host.Outcome State Fault Refusal := require true (doBootCauseRead ev s)

/-- DIERST_READ: the die bits are read and cleared, but for those of the same cycle. -/
def doDierstRead (ev : BitVec 16) (s : State) : State :=
  (s.ret s.boot.dierst.toNat).modBoot fun b => { b with dierst := ev &&& 0xEFFF }

/-- DIERST_READ. -/
def execDierstRead (ev : BitVec 16) (s : State) : Host.Outcome State Fault Refusal := require true (doDierstRead ev s)

/-- BOOT.STATE.STATE. -/
def bootCode : BootSt → Nat
  | .rom => 0 | .starting => 1 | .running => 2 | .recovery => 3 | .heldFault => 4 | .mixedUnqualified => 5

end Sys2Proof.Machine
end

