-- ==== Sys2Proof/Machine/Traffic.lean ====
section
/-!
DEFINITION. The traffic generator and checker of each channel controller, and MEM_TRAFFIC (R208, R209). What the manual leaves
open of a run's order and patterns is assumption 148.
-/

namespace Sys2Proof.Machine
open Sys2Proof

/-! ### Check symbols (R195) -/

/-- A symbol times α + α² + α³. -/
def gfMid (a : BitVec 16) : BitVec 16 := gfPow a 1 ^^^ gfPow a 2 ^^^ gfPow a 3

/-- One step of the division by (x + 1)(x + α)(x + α²): the remainder, c₀ first, and the next symbol. -/
def divStep (r : BitVec 16 × BitVec 16 × BitVec 16) (d : BitVec 16) : BitVec 16 × BitVec 16 × BitVec 16 :=
  let f := d ^^^ r.2.2
  (gfPow f 3, r.1 ^^^ gfMid f, r.2.1 ^^^ (f ^^^ gfPow f 1 ^^^ gfPow f 2))

/-- The check symbols c₀, c₁, c₂ of 64 bytes of data with tag 0x00, as bits 47:0 of the metadata (R195). -/
def checkSymbols (data : BitVec 512) : BitVec 48 :=
  let r := ((rangeFrom 0 32).map fun i => (data >>> (16 * (31 - i))).setWidth 16).foldl divStep (0, 0, 0)
  r.1.setWidth 48 ||| (r.2.1.setWidth 48 <<< 16) ||| (r.2.2.setWidth 48 <<< 32)

/-- The bits in which a codeword whose check symbols are written as zero differs from its encoding (R208). -/
def rawErr (data : BitVec 512) : BitVec 576 := (checkSymbols data).setWidth 576 <<< 512

/-! ### The sequence of a run (R208) -/

/-- Sectors of an access: SIZE 32 B, 64 B or 128 B. -/
def tgSectors (ctl : Nat) : Nat := if fld ctl 10 2 = 0 then 1 else if fld ctl 10 2 = 1 then 2 else 4
/-- Accesses that a row holds. -/
def tgUnits (ctl : Nat) : Nat := 32 / tgSectors ctl

/-- One step of the LFSR x²⁰ + x¹⁷ + 1. -/
def lfsr20 (x : Nat) : Nat := (x * 2) % 2 ^ 20 + (x / 2 ^ 19 % 2 + x / 2 ^ 16 % 2) % 2

/-- `n` steps of the LFSR. -/
def lfsrRun : Nat → Nat → Nat
  | 0, x => x
  | n + 1, x => lfsrRun n (lfsr20 x)

/-- The slot and the unit of item `j` of the address sequence: slot, then codeword, in order, or slots from the LFSR. -/
def tgPlace (ctl seed j : Nat) : Nat × Nat :=
  let units := tgUnits ctl
  if bitAt ctl 6 then (lfsrRun j (if seed % 2 ^ 20 = 0 then 1 else seed % 2 ^ 20), j % units)
  else (j / units % 2 ^ 20, j % units)

/-- An access of a run: the item of the address sequence, and whether it reads. -/
structure TgAcc where
  item : Nat
  read : Bool
  deriving DecidableEq, Repr

/-- The `n` accesses of a run by TGCTL.OP: writes, reads, writes and then reads, or RWMIX reads in every 16 accesses, which follow
the writes that they check. -/
def tgAccesses (ctl n : Nat) : List TgAcc :=
  let all := rangeFrom 0 n
  match fld ctl 12 2 with
  | 0 => all.map fun k => ⟨k, false⟩
  | 1 => all.map fun k => ⟨k, true⟩
  | 2 => (all.map fun k => ⟨k, false⟩) ++ all.map fun k => ⟨k, true⟩
  | _ =>
    let w := 16 - fld ctl 14 4
    all.map fun k => if k % 16 < w then ⟨k / 16 * w + k % 16, false⟩ else ⟨k / 16 * w + (k % 16 - w) % w, true⟩

/-- Accesses per run: LEN, or one pass over every slot. -/
def tgLength (ctl len : Nat) : Nat := if len = 0 then 2 ^ 20 * tgUnits ctl else len

/-- The bytes of item `j` in a pseudo-channel: SEED repeated, or another pattern. -/
def tgData (ctl seed j pc slot unit : Nat) : BitVec 1024 :=
  if fld ctl 3 3 = 0 then BitVec.ofNat 1024 ((rangeFrom 0 32).foldl (fun a i => a + seed * 2 ^ (32 * i)) 0)
  else Config.testPattern (fld ctl 3 3) seed j pc slot unit

/-- A run under way: the state, the accesses that did not match, the first of them, and the errors still to be met. -/
structure TgRun where
  s : State
  errors : Nat := 0
  first : W32 := 0
  errs : List (Nat × BitVec 576) := []
  deriving DecidableEq, Repr

/-- The address of a sector of a slot's row in a pseudo-channel of a channel. -/
def tgAddr (s : State) (ch pc slot sector : Nat) : Nat :=
  addrOf s.pool.packageWide s.pool.key (locOfRow ⟨ch, pc, slot % 64, slot / 64⟩) + 32 * sector

/-- The codewords that `n` sectors from an address touch, each with its byte mask and its bytes of `d`. -/
def tgCws (addr n : Nat) (d : BitVec 1024) : List (Nat × BitVec 64 × BitVec 512) :=
  (cwsOf addr (32 * n)).map fun cw =>
    let mask := halfMask (lineMask (addr / 128) addr (32 * n)) (cw % 2)
    (cw, mask, halfData (d <<< (8 * (addr % 128))) (cw % 2))

/-- A codeword written by a run: with valid check symbols, or with check symbols of zero. A part is merged; a part of a poisoned
codeword is not written (R197). -/
def tgPut (s : State) (ch : Nat) (raw : Bool) (x : Nat × BitVec 64 × BitVec 512) : State :=
  let old := s.pool.decode x.1
  let base : BitVec 512 := if raw then s.pool.data x.1 ^^^ (Tab.get 0 s.pool.err x.1).setWidth 512 else old.2.1
  if !raw && old.2.2 && x.2.1 != BitVec.allOnes 64 then s
  else
    let d := mergeCw x.2.1 base x.2.2
    let s := s.modPool fun p => { p.put x.1 d false with wroteTest := true }
    countMoved (if raw then upsetCw s (x.1, rawErr d) else s) ch 1 64

/-- The first sector of a codeword in which bytes under a mask differ. -/
def firstDiff (mask : BitVec 64) (a b : BitVec 512) : Option Nat :=
  (rangeFrom 0 2).find? fun k => (rangeFrom (32 * k) 32).any fun i =>
    mask.getLsbD i && (a >>> (8 * i)).setWidth 8 != ((b >>> (8 * i)).setWidth 8 : BitVec 8)

/-- A codeword read and compared by a run: its state, and the sector of the codeword that does not match. Corrections count in
ERRCNT; with RAW the code is not checked. -/
def tgGet (r : TgRun) (ch : Nat) (raw : Bool) (x : Nat × BitVec 64 × BitVec 512) : TgRun × Option Nat :=
  let s := (r.errs.filter fun e => e.1 == x.1).foldl upsetCw r.s
  let s := countMoved s ch 0 64
  let r := { r with s := s, errs := r.errs.filter fun e => e.1 != x.1 }
  if raw then (r, firstDiff x.2.1 (s.pool.data x.1 ^^^ (Tab.get 0 s.pool.err x.1).setWidth 512) x.2.2)
  else
    let inner := s.indicates
    let s := s.takeFree
    match s.pool.decode x.1 with
    | (.clean, d, p) =>
      ({ r with s := if inner then innerCorrected s x.1 else s }, if p then some 0 else firstDiff x.2.1 d x.2.2)
    | (.corrected, d, p) => ({ r with s := outerCorrected s x.1 false }, if p then some 0 else firstDiff x.2.1 d x.2.2)
    | (.uncorrectable, _, _) =>
      ({ r with s := (s.modPool fun p => { p with ueTotal := p.ueTotal + 1 }).modChan ch fun c => { c with ue := satAdd 0x3FF c.ue 1 } },
        some 0)

/-- One access of a run in one selected pseudo-channel. -/
def tgAccess (ch : Nat) (ctl seed : Nat) (a : TgAcc) (r : TgRun) (pc : Nat) : TgRun :=
  let at_ := tgPlace ctl seed a.item
  let n := tgSectors ctl
  let sector := n * at_.2
  let raw := bitAt ctl 7
  let cws := tgCws (tgAddr r.s ch pc at_.1 sector) n (tgData ctl seed a.item pc at_.1 at_.2)
  if !a.read then { r with s := cws.foldl (fun s x => tgPut s ch raw x) r.s }
  else
    let x := cws.foldl (fun (r : TgRun × Option Nat) x =>
      let y := tgGet r.1 ch raw x
      (y.1, r.2.or (y.2.map fun k => 2 * (x.1 % 16) + k))) (r, none)
    match x.2 with
    | none => x.1
    | some k =>
      { x.1 with
        errors := x.1.errors + 1
        first := if x.1.errors = 0 then BitVec.ofNat 32 (2 ^ 31 + mkFld 30 1 pc + mkFld 24 6 (at_.1 % 64) +
          mkFld 10 14 (at_.1 / 64) + mkFld 5 5 k) else x.1.first }

/-- Up to `limit` accesses of the run of a channel, and its results. -/
def tgRunChan (s : State) (ch limit : Nat) (errs : List (Nat × BitVec 576)) : State :=
  let c := s.chan ch
  let ctl := c.tgctl.toNat
  let l := (tgAccesses ctl (tgLength ctl c.tgLenRun.toNat)).take limit
  let r := l.foldl (fun r a => (maskBits 2 (fld ctl 8 2)).foldl (tgAccess ch ctl c.tgSeedRun.toNat a) r) { s := s, errs := errs }
  r.s.modChan ch fun c => { c with tgErrors := min 0xFFFFFF r.errors, tgFirst := r.first }

/-! ### MEM_TRAFFIC (R209) -/

/-- MEM_TRAFFIC (R209): the named channels start, and the foreground is excluded. -/
def doMemTraffic (r : Req) (mask : BitVec 512) (s : State) : State :=
  command r opMemTraffic [(s.memBusy, bsBusy), (!s.memoryIdle, bsMemInUse)] 0 (fun p s =>
    let chs := maskBits 512 mask.toNat
    let s := acceptLong s r.client r.slot p 6 chs.length chs
    let s := forEach chs (fun c s => s.modChan c fun c =>
      { c with testOwner := true, tgRun := true, tgDone := false, tgErrors := 0, tgFirst := 0, tgSeedRun := c.tgseed, tgLenRun := c.tglen }) s
    if chs = [] then finishOp s (handleOf r.client r.slot p.seq) bsCompleted [(4, 0)] else s) s

/-- MEM_TRAFFIC. -/
def execMemTraffic (r : Req) (mask : BitVec 512) (s : State) : Host.Outcome State Fault Refusal :=
  require (okReq r) (doMemTraffic r mask s)

/-- The foreground has its channels back; a pool that a run has written needs MEMORY_INIT (R209). -/
def endTraffic (s : State) (chs : List Nat) : State :=
  let s := forEach chs (fun c s => s.modChan c fun c => { c with testOwner := false, tgRun := false }) s
  if s.pool.wroteTest then s.modPool fun p => { p with st := .needsInit, wroteTest := false } else s

/-- An abort stops every channel at the access in flight (R209): how far each has come is a free value (assumption 148). -/
def abortTraffic (s : State) (chs : List Nat) : State :=
  endTraffic (forEach (chs.filter fun c => (s.chan c).tgRun) (fun c s =>
    let ctl := (s.chan c).tgctl.toNat
    tgRunChan s.takeFree c (s.freeVal % ((tgAccesses ctl (tgLength ctl (s.chan c).tgLenRun.toNat)).length + 1)) []) s) chs

/-- MEM_TRAFFIC_COMPLETE (R208, R209): the channels `chs` finish their runs, in which the stacks differ from what was written in the
further bits `errs`; the operation completes with the last named channel. -/
def doMemTrafficComplete (chs : List Nat) (errs : List (Nat × BitVec 576)) (s : State) : State :=
  match s.opOf opMemTraffic with
  | none => s
  | some o =>
    let s := forEach (chs.filter fun c => o.left.contains c) (fun c s =>
      if (s.chan c).tgRun then
        (tgRunChan s c (2 ^ 33) errs).modChan c fun c => { c with tgRun := false, tgDone := true }
      else s) s
    let s := setPosition s o.handle (o.left.filter fun c => !(s.chan c).tgRun).length
    if o.left.any fun c => (s.chan c).tgRun then s
    else finishOp (endTraffic s o.left) o.handle bsCompleted [(4, (o.left.filter fun c => (s.chan c).tgErrors != 0).length)]

/-- MEM_TRAFFIC_COMPLETE. -/
def execMemTrafficComplete (chs : List Nat) (s : State) (errs : List (Nat × BitVec 576) := []) :
    Host.Outcome State Fault Refusal :=
  require (chs.all okChan) (doMemTrafficComplete chs errs s)

end Sys2Proof.Machine
end

