-- ==== Sys2Proof/Machine/Wear.lean ====
section
/-!
DEFINITION. Wear management (R410–R421): the ageing sweep, substitutions, and host clusters that fail.
-/

namespace Sys2Proof.Machine
open Sys2Proof

/-- A need names a resource of its kind and scope (R411, R414). -/
def okNeed (n : Need) : Bool :=
  match n.kind with
  | 1 => okTile n.res && n.scope == deckOf n.res
  | 2 => okPair (n.scope / 128) (n.scope / 2 % 64) && decide (n.res ≤ noLane)
  | 3 => decide (n.scope < Config.ports) && decide (n.res < 9)
  | 4 => decide (n.res < Config.ports) && n.scope == n.res / 12
  | 5 => n.scope == 0 && decide (n.res < 68)
  | 6 => decide (n.scope < 4) && decide (n.res < 17)
  | _ => false

/-- A data lane by its bundle's scope. -/
def okLane (x : Nat × Nat) : Bool := okPair (x.1 / 128) (x.1 / 2 % 64) && decide (x.2 < 68)

/-- The non-urgent needs that a sweep finds (R411): tiles whose margin is low for the second sweep in a row, and lanes and lasers beyond their
thresholds. -/
def sweepNeeds (w : Wear) (x : Sweep) : List Need :=
  ((x.tiles.filter w.low.contains).map fun t => ⟨1, deckOf t, t, false⟩) ++ (x.lanes.map fun l => ⟨2, l.1, l.2, false⟩) ++
    x.lasers.map fun p => ⟨4, p / 12, p, false⟩

/-- AGEING_SWEEP (R410, R411): at a tick number divisible by 1,000,000 in S0, once, what the sweep finds is queued. -/
def doAgeingSweep (x : Sweep) (s : State) : State :=
  if s.boot.st ≠ .running ∨ s.power.idle ≠ .s0 ∨ !s.tick.running ∨ s.tick.num.toNat % 1000000 ≠ 0 ∨ s.tick.boundaries ≤ s.wear.swept then s
  else
    forEach (sweepNeeds s.wear x) (fun n s => queueNeed s n)
      (s.modWear fun w => { w with low := x.tiles, swept := s.tick.boundaries })

/-- AGEING_SWEEP. -/
def execAgeingSweep (x : Sweep) (s : State) : Host.Outcome State Fault Refusal :=
  require (x.tiles.all okTile && x.lanes.all okLane && x.lasers.all fun p => decide (p < Config.ports)) (doAgeingSweep x s)

/-! ### Substitutions by kind (R414, R416) -/

/-- A logical tile moves to the deck die's next spare site (R416): a tile in RUN drains first, and moves at the end of the drain. A spare that
fails its test is used up, and the need stays queued for the next one. -/
def moveTile (s : State) (n : Need) (testOk : Bool) : State :=
  if !testOk then queueNeed (useSpare s 1 n.scope) n
  else if (s.tile n.res).st = .run then startMove (s.modWear fun w => { w with moving := w.moving ++ [n] }) n.res
  else moveSite s n.res

/-- A pair retrains with a lane left out of its map. A need that names no lane leaves the finding to the training (R267). -/
def retrainLane (s : State) (n : Need) : State :=
  let l := n.scope / 128
  let k := n.scope / 2 % 64
  let dir := n.scope % 2
  if n.res = noLane then trainPair l k s
  else
    let bit : BitVec 68 := BitVec.ofNat 68 (2 ^ n.res)
    let s := s.modPair l k fun p => if dir = 0 then { p with failE := p.failE ||| bit } else { p with failW := p.failW ||| bit }
    let s := if s.sparesLeft 2 n.scope = 0 then s else useSpare s 2 n.scope
    let s := trainPair l k s
    logEvent (addRec s 1 n.scope [(recordedFails s l k dir).toNat]) 0x0201 1 ((linkDies l).getD 0 dieModule) [l, k, dir, n.res]

/-- A port retrains, and the training selects its spare wavelength (R276). The direction is that of its receiver. -/
def spareWave (s : State) (n : Need) : State :=
  let s := trainPort s n.scope
  if s.sparesLeft 3 n.scope = 0 then s
  else logStored (useSpare s 3 n.scope) 0x0303 2 (diePier (n.scope / 12)) [n.scope, 1, n.res] 11 n.scope

/-- A port is connected to its pier's spare laser and retrains (R277). -/
def spareLaser (s : State) (n : Need) : State :=
  let s := useSpare (s.modPort n.res fun o => { o with laserDown := false, lspare := true }) 4 n.scope
  let s := s.modNode fun x => { x with spareLaser := Tab.set false x.spareLaser n.scope true }
  logStored (trainPort s n.res) 0x0304 2 (diePier n.scope) [n.res] 8 n.scope

/-- A spare walker enters service. -/
def spareWalker (s : State) (n : Need) : State :=
  logStored (useSpare (s.modKs fun k => { k with walkers := k.walkers + 1, spares := k.spares + 1 }) 5 0) 0x0603 2 (diePier 1) [n.res] 12 (diePier 1)

/-- Way 16 takes the place of a pier's failing way, whose lines are lost (R225, R226). -/
def spareWay (s : State) (n : Need) : State :=
  let w := n.res
  let move := fun (m : BitVec 17) => if m.getLsbD w then (m &&& ~~~wayBit w) ||| wayBit 16 else m
  let s := s.modPier n.scope fun P =>
    { P with retired := some w, enable := move P.enable, powered := move P.powered, invDone := (P.invDone &&& ~~~wayBit w) ||| wayBit 16,
             lines := P.lines.filter fun c => c.way != w }
  logStored (useSpare s 6 n.scope) 0x0604 2 (diePier n.scope) [n.scope, w] 5 n.scope

/-- Whole ticks that a substitution of a kind takes (R412, R414); the 12,800 tile cycles of a move at the deck die's clock, whose drain is
not counted. -/
def substitutionTicks (s : State) (n : Need) : Nat :=
  match n.kind with
  | 1 => ceilDiv 12800 (max 1 (s.deck n.scope).cur)
  | 2 => 110
  | 3 => 200
  | 4 => 200
  | 5 => 1
  | _ => 82

/-- A collective has a step scheduled within `d` job ticks of the present one (R312). -/
def stepWithin (s : State) (d : Nat) : Bool :=
  let jt := s.job.jt.toNat
  s.job.posted.any fun c =>
    let t := c.begun.getD (max c.start s.job.nextTick)
    (rangeFrom 0 s.job.depth).any fun k => (rangeFrom 0 (c.plan s k).length).any fun n =>
      decide (jt ≤ t + k + s.job.depth * n) && decide (t + k + s.job.depth * n < jt + d)

/-- The quiet point of a need has come (R17, R412): a boundary has passed since it was queued, and in a running job one after which no step
of a collective is scheduled for the substitution's duration, or 10,001 boundaries. -/
def quietPoint (s : State) (n : Need) : Bool :=
  let at_ := match s.wear.since.find? fun e => sameNeed n e.2 with
    | some e => e.1
    | none => 0
  decide (at_ < s.tick.boundaries) &&
    (s.job.st != .run || !stepWithin s (substitutionTicks s n) || decide (at_ + 10001 ≤ s.tick.boundaries))

/-- A tile of the same deck die is on the move: one substitution of a kind runs on a die at a time (R413). -/
def dieBusy (w : Wear) (n : Need) : Bool := n.kind == 1 && w.moving.any fun m => m.scope == n.scope

/-- SUBSTITUTION (R412–R418): a queued need is acted on at its quiet point, as one step but for the move of a running tile. Non-urgent needs
stay queued while HOLD is 1, and a need for which no spare is left is handled under R418. -/
def doSubstitution (n : Need) (testOk : Bool) (s : State) : State :=
  match s.wear.queue.find? (sameNeed n) with
  | none => s
  | some x =>
    if s.boot.st ≠ .running ∨ s.power.idle ≠ .s0 ∨ (s.wear.hold ∧ !x.urgent) ∨ dieBusy s.wear x ∨ !quietPoint s x then s
    else
      let s := s.modWear fun w => { w with queue := w.queue.filter (fun y => !sameNeed n y), since := w.since.filter (fun e => !sameNeed n e.2), kind := x.kind }
      if x.kind = 1 ∧ (s.tile x.res).st = .unavailable then s
      else if s.sparesLeft x.kind x.scope = 0 ∧ !retrainsNeed x then unmetNeed s x
      else match x.kind with
        | 1 => moveTile s x testOk
        | 2 => retrainLane s x
        | 3 => spareWave s x
        | 4 => spareLaser s x
        | 5 => spareWalker s x
        | _ => spareWay s x

/-- SUBSTITUTION. -/
def execSubstitution (n : Need) (testOk : Bool) (s : State) : Host.Outcome State Fault Refusal :=
  require (okNeed n) (doSubstitution n testOk s)

/-- HOST_CLUSTER_STATE_ERROR (R411): the second within 24 h parks the cluster, which stays out of service until the next start. -/
def doHostClusterStateError (a c : Nat) (s : State) : State :=
  let k := 12 * a + c
  if (s.cluster k).failed ∨ s.boot.st ≠ .running then s
  else
    let log := (s.cluster k).errors.filter (s.within dayTicks) ++ [s.tick.boundaries]
    let s := s.modCluster k fun C => { C with errors := log }
    if 2 ≤ log.length then
      logStored ((parkCluster k s).modCluster k fun C => { C with failed := true }) 0x0605 3 (dieAbut a) [a, c] 12 (dieAbut a)
    else s

/-- HOST_CLUSTER_STATE_ERROR. -/
def execHostClusterStateError (a c : Nat) (s : State) : Host.Outcome State Fault Refusal :=
  require (decide (a < Config.abutments) && decide (c < 12)) (doHostClusterStateError a c s)

/-! ### Registers (R421) -/

/-- WEAR.STATUS: the substitutions that run between steps are the moves of tiles. -/
def wearStatus (w : Wear) : Nat := mkBit 31 (w.moving != []) + mkFld 24 4 w.kind + mkFld 0 16 w.queue.length

/-- WEAR.CTL.HOLD written: needs that HOLD keeps queued raise WEAR_DEFERRED once (R413). -/
def writeHold (s : State) (hold : Bool) : State :=
  let s := s.modWear fun w => { w with hold := hold }
  forEach s.wear.queue deferNeed s

/-- WEAR_UNMET_READ: COUNT is read and cleared, but for `ev` events of the same cycle. -/
def doWearUnmetRead (ev : Nat) (s : State) : State := (s.ret s.wear.unmet).modWear fun w => { w with unmet := min 0xFFFF ev }

/-- WEAR_UNMET_READ. -/
def execWearUnmetRead (ev : Nat) (s : State) : Host.Outcome State Fault Refusal := require true (doWearUnmetRead ev s)

end Sys2Proof.Machine
end

