-- ==== Sys2Proof/Machine/Info.lean ====
section
/-!
DEFINITION. The INFO and CONFIG families of Belul (R18, R22, R339, R341): what the module tells of itself, long operations, port modes.
-/

namespace Sys2Proof.Machine
open Sys2Proof

/-! ### What the module tells of itself (R341) -/

/-- Fields of DEVICE_INFO: ordering code, stacks, abutment dies, serial number, fingerprint, revision and feature word of each die,
their intersection, and the module's state (assumption 26). -/
def deviceFields (s : State) : List (Nat × Nat) :=
  orderingCode.map (fun b => (1, b.toNat)) ++
    [(4, Config.hbmStacks), (4, Config.abutments), (8, Config.serial.toNat), (4, Config.fingerprint.toNat)] ++
    (rangeFrom 0 dieCount).flatMap (fun d => [(1, (s.boot.revs.getD d 0).toNat), (4, (s.boot.words.getD d 0).toNat)]) ++
    [(4, s.boot.features.toNat), (4, bootCode s.boot.st)]

/-- DEVICE_INFO. -/
def doDeviceInfo (r : Req) (s : State) : State :=
  command r 0x0101 [] 0 (fun p s => replying r bsOk (deviceFields s) p s) s

/-- DEVICE_INFO. -/
def execDeviceInfo (r : Req) (s : State) : Host.Outcome State Fault Refusal := require (okReq r) (doDeviceInfo r s)

/-- A tile's word of TILE_MAP. A tile without a site has no physical number: a free value. -/
def mapWord (s : State) (t : Nat) : Nat :=
  let T := s.tile t
  mkBit 31 (T.st != .unavailable) + (if T.lost then Config.freeNat (s.free + t) % 2048 else s.physTile t)

/-- TILE_MAP (R18): 4 B per logical tile. -/
def doTileMap (r : Req) (s : State) : State :=
  command r 0x0102 [] 0 (fun p s =>
    replying r bsOk (allTiles.map fun t => (4, mapWord s t)) p { s with free := s.free + Config.tiles }) s

/-- TILE_MAP. -/
def execTileMap (r : Req) (s : State) : Host.Outcome State Fault Refusal := require (okReq r) (doTileMap r s)

/-- The sum of a function over a list. -/
def total {α : Type} (l : List α) (f : α → Nat) : Nat := l.foldl (fun n a => n + f a) 0

/-- The bundles of the module by the scope of their spares. -/
def allBundles : List Nat := allPairs.flatMap fun e => [bundleScope e.1 e.2 0, bundleScope e.1 e.2 1]

/-- Parts in service and spares left for each kind of R22, in its order. What HBM4 rows a stack has is not given: free values. -/
def spareRows (s : State) : List (Nat × Nat) :=
  let left := fun kind (l : List Nat) => total l (s.sparesLeft kind)
  let ports := rangeFrom 0 Config.ports
  let piers := [0, 1, 2, 3]
  [((allTiles.filter fun t => !(s.tile t).lost).length, left 1 allDecks), (64 * allBundles.length, left 2 allBundles),
    (total ports (fun n => if (s.port n).st = 4 then 7 else 8), left 3 ports),
    ((ports.filter fun n => !(s.port n).laserDown).length, left 4 piers), (s.ks.walkers, left 5 [0]),
    (((rangeFrom 0 Config.clusters).filter fun c => !(s.cluster c).failed).length, left 7 (rangeFrom 0 Config.abutments)),
    (64, left 6 piers), (s.freeVal, Config.freeNat (s.free + 1))]

/-- SPARE_STATE (R22). -/
def doSpareState (r : Req) (s : State) : State :=
  command r 0x0103 [] 0 (fun p s =>
    replying r bsOk ((spareRows s).flatMap fun e => [(4, e.1), (4, e.2)]) p s.takeFree.takeFree) s

/-- SPARE_STATE. -/
def execSpareState (r : Req) (s : State) : Host.Outcome State Fault Refusal := require (okReq r) (doSpareState r s)

/-- The mask of the numbers below a bound of which a test holds. -/
def maskOf (n : Nat) (f : Nat → Bool) : Nat := total (rangeFrom 0 n) fun i => if f i then 2 ^ i else 0

/-- DEGRADED (R268, R341): the dies marked degraded by DDIE, for each link its pairs that are down, the narrow ports, and those that
are down (assumption 26). -/
def doDegraded (r : Req) (s : State) : State :=
  command r 0x0104 [] 0 (fun p s =>
    let pairsDown := (rangeFrom 0 Config.links).map fun l => (8, maskOf (Config.pairs l) fun n => (s.pair l n).st == 0)
    replying r bsOk ([(4, maskOf 32 s.degraded.contains)] ++ pairsDown ++
      [(8, maskOf Config.ports fun n => (s.port n).st == 4), (8, maskOf Config.ports fun n => (s.port n).st == 0)]) p s) s

/-- DEGRADED. -/
def execDegraded (r : Req) (s : State) : Host.Outcome State Fault Refusal := require (okReq r) (doDegraded r s)

/-- NOP (R341): the parameters come back as data. -/
def doNop (r : Req) (params : List Byte) (s : State) : State :=
  command r 0x01F0 [(decide (216 < params.length), bsBadParam)] 0 (fun p s =>
    replying r bsOk (params.map fun b => (1, b.toNat)) p s) s

/-- NOP. -/
def execNop (r : Req) (params : List Byte) (s : State) : Host.Outcome State Fault Refusal := require (okReq r) (doNop r params s)

/-! ### Long operations (R338, R339) -/

/-- Whether an operation's position moves with time between the commands of the table: the bytes that MEMORY_INIT has zeroed (R204) and
the lines that CACHE_WAY INVALIDATE or DISABLE has passed (R234). -/
def timeDriven (o : LongOp) : Bool :=
  o.opcode == opMemoryInit || (o.opcode == opCacheWay && decide (o.position < o.total))

/-- The positions that move with time, before they are read: each goes to a free value from where it was to below its total, for the
model counts no cycles (assumption 4). -/
def State.advanceOps (s : State) : State :=
  forEach (s.belul.ops.filter timeDriven) (fun o s =>
    (setPosition s o.handle (o.position + s.freeVal % (max 1 (o.total - o.position)))).takeFree) s

/-- OP_QUERY (R341): the body of the operation's current reply, the bytes before its data and the data (assumption 26). -/
def doOpQuery (r : Req) (handle : W32) (s : State) : State :=
  command r 0x01F1 [] 0 (fun p s =>
    let s := s.advanceOps
    match s.op handle.toNat with
    | none => replying r bsUnknownHandle [] p s
    | some o =>
      let x := (s.slot o.client o.slot).reply
      replying r bsOk (((replyBytes x).take 32).map (fun b => (1, b.toNat)) ++ x.data) p s) s

/-- OP_QUERY. -/
def execOpQuery (r : Req) (handle : W32) (s : State) : Host.Outcome State Fault Refusal := require (okReq r) (doOpQuery r handle s)

/-- OP_LIST (R341). -/
def doOpList (r : Req) (s : State) : State :=
  command r 0x01F3 [] 0 (fun p s =>
    let s := s.advanceOps
    replying r bsOk (s.belul.ops.flatMap fun o => [(4, o.handle), (2, o.opcode), (8, o.position)]) p s) s

/-- OP_LIST. -/
def execOpList (r : Req) (s : State) : Host.Outcome State Fault Refusal := require (okReq r) (doOpList r s)

/-- Long operations that their chapters declare not abortable (R177, R185, R225, R238, R272, R297, R300, R325, R341): all but
MEMORY_INIT, MEM_TRAFFIC, CACHE_RANGE, CACHE_WAY INVALIDATE, TILE_LOAD, TILE_TEST and NODEMAP_SYNC (assumption 51). -/
def notAbortable (o : LongOp) : Bool :=
  if o.opcode = opCacheWay then o.left.head?.any fun m => decide (256 ≤ m)
  else !([opMemoryInit, opMemTraffic, opCacheRange, opTileLoad, opTileTest, opNodemapSync].contains o.opcode)

/-- What stops when an operation is aborted: the pool is UNINIT again (R205), the channels of a traffic run stop (R209), the range engines
stop (R223), the way's INVDONE stays 0 (R226), every copy of an image ends at its chunk boundary (R341). -/
def stopUnit (o : LongOp) (s : State) : State :=
  if o.opcode = opMemoryInit then s.modPool fun p => { p with st := .uninit }
  else if o.opcode = opMemTraffic then abortTraffic s o.left
  else if o.opcode = opCacheRange then rangeStop s
  else if o.opcode = opCacheWay then
    forEach [0, 1, 2, 3] (fun p s => forEach (s.pier p).wayInv (fun w s =>
      if o.left = [wayMark 0 p w] ∧ (s.wayOps (wayMark 0 p w)).length = 1 then
        s.modPier p fun P => { P with wayInv := P.wayInv.filter (· != w) }
      else s) s) s
  else if o.opcode = opTileLoad then forEach (loadingTiles s o.handle) stopLoad s
  else s

/-- The position that an abort reports: of a load the chunks done, of CACHE_RANGE the least offset reached (R223), of MEM_TRAFFIC the
channels finished (R209), else where the unit stood. -/
def abortPosition (s : State) (o : LongOp) (pos : Nat) : Nat :=
  if o.opcode = opTileLoad then
    match (loadingTiles s o.handle).head?.bind fun t => (s.tile t).load with
    | some l => loadPosition s o l
    | none => o.position
  else if o.opcode = opCacheRange ∨ o.opcode = opMemTraffic then o.position
  else max o.position (min pos o.total)

/-- OP_ABORT (R339). `pos` is the point at which the unit stands when the abort reaches it. -/
def doOpAbort (r : Req) (handle : W32) (pos : Nat) (s : State) : State :=
  command r 0x01F2 [] 0 (fun p s =>
    match s.op handle.toNat with
    | none => replying r bsNothing [] p s
    | some o =>
      if !permitted o.opcode r.client then replying r bsNotPermitted [] p s
      else if notAbortable o then replying r bsNotAbortable [] p s
      else
        let s := stopUnit o (setPosition s o.handle (abortPosition s o pos))
        replying r bsOk [] p (finishOp s o.handle bsAborted [])) s

/-- OP_ABORT. -/
def execOpAbort (r : Req) (handle : W32) (pos : Nat) (s : State) : Host.Outcome State Fault Refusal :=
  require (okReq r && decide (pos < 2 ^ 64)) (doOpAbort r handle pos s)

/-! ### CONFIG (R341) -/

/-- PCIE_PORT (R341): recorded, and in effect from the next start on. -/
def doPciePort (r : Req) (port mode width : Nat) (s : State) : State :=
  command r 0x0201 [(decide (Config.pciePorts ≤ port), bsBadParam), (decide (2 ≤ mode), bsBadParam),
      (!([16, 8, 4].contains width), bsBadParam)] 0 (fun p s => replying r bsOk [] p (addRec s 9 port [mode, width])) s

/-- PCIE_PORT. -/
def execPciePort (r : Req) (port mode width : Nat) (s : State) : Host.Outcome State Fault Refusal :=
  require (okReq r && decide (port < 256) && decide (mode < 256) && decide (width < 256)) (doPciePort r port mode width s)

/-- CONFIG_READ (R341): the recorded mode and width of each port (assumption 26). -/
def doConfigRead (r : Req) (s : State) : State :=
  command r 0x0202 [] 0 (fun p s =>
    replying r bsOk ((rangeFrom 0 Config.pciePorts).flatMap fun n => [(1, (recordedPort s n).1), (1, (recordedPort s n).2)]) p s) s

/-- CONFIG_READ. -/
def execConfigRead (r : Req) (s : State) : Host.Outcome State Fault Refusal := require (okReq r) (doConfigRead r s)

end Sys2Proof.Machine
end

