-- ==== Sys2Proof/Machine/I3c.lean ====
section
/-!
DEFINITION. The I3C target (R343): private transfers into client 2's block, and the CCCs.
-/

namespace Sys2Proof.Machine
open Sys2Proof

/-! ### The control registers of a BELUL block (R345) -/

/-- BELUL.BUSY of client `c`. -/
def belulBusy (s : State) (c : Nat) : Nat := maskOf 32 fun n => (s.slot c n).busy

/-- BELUL.ERR of client `c`. -/
def belulErr (s : State) (c : Nat) : Nat := mkFld 16 16 (Tab.get 0 s.belul.overrun c) + mkFld 0 16 (Tab.get 0 s.belul.badcommit c)

/-- The counts of BELUL.ERR after a read: what happened in the same cycle. -/
def clearErr (s : State) (c ovr bad : Nat) : State :=
  s.modBelul fun b =>
    { b with overrun := Tab.set 0 b.overrun c (min 0xFFFF ovr), badcommit := Tab.set 0 b.badcommit c (min 0xFFFF bad) }

/-- BELUL.ID of client `c`. -/
def belulId (s : State) (c : Nat) : Nat :=
  let da := if c = 2 then s.i3c.addr else none
  mkBit 15 da.isSome + mkFld 8 7 (da.getD 0).toNat + mkFld 2 6 32 + c

/-- A byte of client `c`'s block at an offset (R329). -/
def blockByte (s : State) (c off : Nat) : Byte :=
  let reg := fun v => BitVec.ofNat 8 (v / 256 ^ (off % 4))
  if off < 0x2000 then Memory.byte s.belul.bytes (belulAt c off)
  else if off < 0x4000 then (replyBytes (s.slot c (off / 0x100 % 32)).reply).getD (off % 0x100) 0
  else if off < 0x4004 then reg (belulBusy s c)
  else if off < 0x4008 then reg (belulErr s c)
  else if off < 0x400C then reg (belulId s c)
  else if c = 2 ∧ 0x8000 ≤ off ∧ off < 0x10000 then Memory.byte s.belul.bytes (belulAt 2 off)
  else 0

/-! ### Private transfers -/

/-- The target runs in the STBY domain (R343, R362). -/
def State.i3cOn (s : State) : Bool := s.boot.stby

/-- One byte of a private write: stored in a command slot or in the staging area; the last byte of a commit word commits (R333).
Reply slots and control registers ignore it. -/
def i3cByte (off : Nat) (b : Byte) (s : State) : State :=
  if off < 0x2000 ∨ (0x8000 ≤ off ∧ off < 0x10000) then
    let s := s.modBelul fun x => { x with bytes := Memory.putByte x.bytes (belulAt 2 off) b }
    if off < 0x2000 ∧ off % 0x100 = 0xFF then
      let n := off / 0x100
      doBelulCommit 2 n (BitVec.ofNat 64 (slotField s 2 n 0xF8 8)) s
    else s
  else s

/-- The bytes of a private write at ascending offsets. -/
def i3cBytes (off : Nat) : List Byte → State → State
  | [], s => s
  | b :: r, s => i3cBytes (off + 1) r (i3cByte off b s)

/-- I3C_PRIVATE_WRITE (R343): nothing without a dynamic address. -/
def doI3cPrivateWrite (off : BitVec 16) (bytes : List Byte) (s : State) : State :=
  if !s.i3cOn ∨ s.i3c.addr = none then s
  else i3cBytes off.toNat bytes { s with i3c := { s.i3c with off := off.toNat } }

/-- I3C_PRIVATE_WRITE. -/
def execI3cPrivateWrite (off : BitVec 16) (bytes : List Byte) (s : State) : Host.Outcome State Fault Refusal :=
  require (decide (bytes.length ≤ 4096)) (doI3cPrivateWrite off bytes s)

/-- A private read covers a byte of BELUL.ERR, which it clears (assumption 52). -/
def readsErr (off n : Nat) : Bool := decide (off < 0x4008) && decide (0x4004 < off + n)

/-- I3C_PRIVATE_READ (R343): bytes from the offset of the last private write, which it increments. -/
def doI3cPrivateRead (n : Nat) (s : State) : State :=
  if !s.i3cOn ∨ s.i3c.addr = none then s
  else
    let off := s.i3c.off
    let s := s.send (.i3c ((rangeFrom off n).map fun o => (blockByte s 2 o).toNat))
    let s := if readsErr off n then clearErr s 2 0 0 else s
    { s with i3c := { s.i3c with off := off + n } }

/-- I3C_PRIVATE_READ. -/
def execI3cPrivateRead (n : Nat) (s : State) : Host.Outcome State Fault Refusal :=
  require (decide (n ≤ 4096)) (doI3cPrivateRead n s)

/-! ### CCCs (R343) -/

/-- The target with its address changed. -/
def setAddr (s : State) (a : Option (BitVec 7)) : State := { s with i3c := { s.i3c with addr := a } }

/-- ENTDAA: a target without a dynamic address takes one. -/
def doEntdaa (a : BitVec 7) (s : State) : State := if !s.i3cOn ∨ s.i3c.addr ≠ none then s else setAddr s (some a)

/-- ENTDAA. -/
def execEntdaa (a : BitVec 7) (s : State) : Host.Outcome State Fault Refusal := require true (doEntdaa a s)

/-- RSTDAA: the address is lost. -/
def doRstdaa (s : State) : State := if !s.i3cOn then s else setAddr s none

/-- RSTDAA. -/
def execRstdaa (s : State) : Host.Outcome State Fault Refusal := require true (doRstdaa s)

/-- SETNEWDA: the address changes. -/
def doSetnewda (a : BitVec 7) (s : State) : State := if !s.i3cOn ∨ s.i3c.addr = none then s else setAddr s (some a)

/-- SETNEWDA. -/
def execSetnewda (a : BitVec 7) (s : State) : Host.Outcome State Fault Refusal := require true (doSetnewda a s)

/-- The answer of a CCC sent to the module's dynamic address. -/
def answer (bytes : List Nat) (s : State) : State := if !s.i3cOn ∨ s.i3c.addr = none then s else s.send (.i3c bytes)

/-- The 48-bit provisioned ID. -/
def provisionedId : Nat := Config.mipiId.toNat * 2 ^ 33 + Config.serial.toNat % 2 ^ 32

/-- GETPID: six bytes, most significant first. -/
def doGetpid (s : State) : State := answer ((rangeFrom 0 6).map fun i => provisionedId / 256 ^ (5 - i) % 256) s

/-- GETPID. -/
def execGetpid (s : State) : Host.Outcome State Fault Refusal := require true (doGetpid s)

/-- GETBCR. -/
def doGetbcr (s : State) : State := answer [0x06] s

/-- GETBCR. -/
def execGetbcr (s : State) : Host.Outcome State Fault Refusal := require true (doGetbcr s)

/-- GETDCR. -/
def doGetdcr (s : State) : State := answer [0x00] s

/-- GETDCR. -/
def execGetdcr (s : State) : Host.Outcome State Fault Refusal := require true (doGetdcr s)

/-- GETSTATUS: two bytes that nothing gives, a free value (assumption 2). -/
def doGetstatus (s : State) : State :=
  let v := (Config.i3cStatus s.free).toNat
  answer [v / 256, v % 256] s.takeFree

/-- GETSTATUS. -/
def execGetstatus (s : State) : Host.Outcome State Fault Refusal := require true (doGetstatus s)

/-- GETMWL: 4,098, most significant byte first. -/
def doGetmwl (s : State) : State := answer [4098 / 256, 4098 % 256] s

/-- GETMWL. -/
def execGetmwl (s : State) : Host.Outcome State Fault Refusal := require true (doGetmwl s)

/-- GETMRL: 4,096, most significant byte first. -/
def doGetmrl (s : State) : State := answer [4096 / 256, 4096 % 256] s

/-- GETMRL. -/
def execGetmrl (s : State) : Host.Outcome State Fault Refusal := require true (doGetmrl s)

/-- ENEC: IBIs are enabled. -/
def doEnec (s : State) : State := if !s.i3cOn then s else { s with i3c := { s.i3c with ibi := true } }

/-- ENEC. -/
def execEnec (s : State) : Host.Outcome State Fault Refusal := require true (doEnec s)

/-- DISEC: IBIs are disabled. -/
def doDisec (s : State) : State := if !s.i3cOn then s else { s with i3c := { s.i3c with ibi := false } }

/-- DISEC. -/
def execDisec (s : State) : Host.Outcome State Fault Refusal := require true (doDisec s)

/-- RSTACT (R343, R368): one that resets the whole module is a reset of kind I3C. A reset of the target alone keeps the address
(assumption 52). -/
def doRstact (whole : Bool) (s : State) : State := if s.i3cOn && whole then moduleReset s kindI3c else s

/-- RSTACT. -/
def execRstact (whole : Bool) (s : State) : Host.Outcome State Fault Refusal := require true (doRstact whole s)

end Sys2Proof.Machine
end

