-- ==== Sys2Proof/Machine/Regs.lean ====
section
/-!
DEFINITION. Device register space as a whole (R8, R9, R438–R443): the value of each register, REGISTER_WRITE, the reads that clear what no
other file holds, and the PCIe windows (R441).
-/

namespace Sys2Proof.Machine
open Sys2Proof

/-! ### Blocks (R442) -/

/-- Instance and offset of an address in a row of blocks of 64 KiB. -/
def blockAt (base count addr : Nat) : Option (Nat × Nat) :=
  if base ≤ addr ∧ addr < base + 0x10000 * count then some ((addr - base) / 0x10000, (addr - base) % 0x10000) else none

/-- Low word of a number. -/
def lo32 (v : Nat) : Nat := v % 2 ^ 32
/-- Bits 63:32 of a number. -/
def hi32 (v : Nat) : Nat := v / 2 ^ 32 % 2 ^ 32

/-! ### The value of each register (R443) -/

/-- KEYSTONE (R186). -/
def ksReg (s : State) (off : Nat) : Nat :=
  let k := s.ks
  match off with
  | 0x00 => mkFld 24 8 Config.pierRev.toNat + mkFld 16 8 k.walkers + 18
  | 0x04 => mkFld 16 13 s.bound + mkFld 8 3 k.spares + mkFld 0 5 k.invs.length
  | 0x10 => lo32 k.ringBase
  | 0x14 => hi32 k.ringBase
  | 0x18 => mkBit 31 k.ringEnable + mkBit 30 k.ringMsi
  | 0x1C => k.head.toNat
  | 0x20 => k.tail.toNat
  | 0x24 => k.parked
  | 0x28 => k.overflow.toNat
  | _ => 0

/-- MEMPOOL (R211). -/
def mempoolReg (s : State) (off : Nat) : Nat :=
  let p := s.pool
  match off with
  | 0x00 => mempoolState p
  | 0x08 => mkBit 31 p.scrubOn + mkFld 0 8 p.scrubHours
  | 0x0C => mkFld 0 20 p.scrubPos
  | 0x10 => mkFld 0 13 p.retired.length
  | _ => 0

/-- MEMCH of a channel (R211). -/
def memchReg (c : Chan) (off : Nat) : Nat :=
  match off with
  | 0x000 => mkBit 31 c.hot + mkBit 30 c.testOwner + mkFld 0 16 c.hotCount
  | 0x010 => mkFld 22 10 c.ue + mkFld 11 11 c.ceOuter + mkFld 0 11 c.ceInner
  | 0x100 => c.tgctl.toNat
  | 0x104 => c.tgseed.toNat
  | 0x108 => c.tglen.toNat
  | 0x10C => mkBit 31 c.tgRun + mkBit 30 c.tgDone + mkFld 0 24 c.tgErrors
  | 0x110 => c.tgFirst.toNat
  | _ => 0

/-- PCACHE of a pier (R235). -/
def pcacheReg (P : Pier) (off : Nat) : Nat :=
  match off with
  | 0x00 => mkBit 31 P.prefetch + mkFld 16 9 P.fillThr + mkFld 0 12 P.mergeAge
  | 0x04 => P.enable.toNat
  | 0x08 => waystat P
  | 0x0C => P.invDone.toNat
  | 0x10 => mkBit 31 P.rangeBusy + mkFld 0 3 P.rangeOp
  | 0x14 => lo32 P.rangePos
  | 0x18 => hi32 P.rangePos % 256
  | 0x1C => P.locked
  | 0x20 => mkFld 0 11 P.merges.length
  | 0x24 => pcacheErr P
  | _ => 0

/-- HOSTINT entry `n` (R254). -/
def hostintReg (e : HostInt) (off : Nat) : Nat :=
  match off with
  | 0x0 => e.addrLo.toNat
  | 0x4 => e.addrHi.toNat
  | 0x8 => e.data.toNat
  | _ => mkBit 31 e.enable + mkBit 30 e.mask + mkBit 29 e.pend

/-- LINK of link `l` (R271). -/
def linkReg (s : State) (l off : Nat) : Nat :=
  let n := (off - 0x100) / 0x10
  if off = 0 then linkStatus s l
  else if off < 0x100 ∨ Config.pairs l ≤ n then 0
  else match off % 0x10 with
    | 0x0 => bstat (s.pair l n)
    | 0x4 => (s.pair l n).hashes.1.toNat
    | 0x8 => (s.pair l n).hashes.2.toNat
    | _ => 0

/-- NODE (R301). -/
def nodeReg (n : Node) (off : Nat) : Nat :=
  match off with
  | 0x00 => n.phys
  | 0x04 => mkFld 24 8 n.epoch + mkFld 0 24 n.logical
  | 0x08 => mkBit 31 n.rolev + mkFld 0 16 n.timeout
  | 0x0C => mkFld 16 3 n.wrap.toNat + mkFld 8 4 n.ex + mkFld 4 4 n.ey + mkFld 0 4 n.ez
  | 0x10 => lo32 n.mapBase
  | 0x14 => hi32 n.mapBase
  | 0x18 => mkFld 0 25 n.mapLen
  | 0x1C => nodeRefuse n
  | _ =>
    if 0x100 ≤ off ∧ off < 0x500 then
      match Tab.get none n.pods ((off - 0x100) / 4) with
      | some d => mkBit 31 true + mkFld 0 3 d
      | none => 0
    else 0

/-- A word of import window `w` (R301). -/
def importReg (x : Window) (off : Nat) : Nat :=
  match off with
  | 0x00 => mkBit 31 x.v + mkBit 30 x.hc + mkBit 29 x.jobchk + mkFld 26 3 x.rights.toNat + mkFld 0 5 x.size
  | 0x04 => x.baseLo.toNat
  | 0x08 => x.baseHi.toNat
  | 0x0C => x.srcVal.toNat
  | 0x10 => x.srcMask.toNat
  | _ => 0

/-- EXPORT.ENTRY (R301). -/
def exportReg (x : Export) : Nat := mkBit 63 x.v + mkFld 32 12 x.window + mkFld 0 24 x.node

/-- OPORT of a port (R301). -/
def oportReg (o : OPort) (off : Nat) : Nat :=
  match off with
  | 0x0 => oportStatus o
  | 0x4 => (peerAB o.peer).1
  | 0x8 => (peerAB o.peer).2
  | 0xC => mkFld 16 16 o.replays + mkFld 0 16 o.fecUnc
  | _ => 0

/-- TICK (R327). -/
def tickReg (k : Tick) (off : Nat) : Nat :=
  match off with
  | 0x0 => tickStatus k
  | 0x4 => tickCtl k
  | 0x8 => lo32 k.num.toNat
  | 0xC => k.latch.toNat
  | _ => 0

/-- JOB (R327). -/
def jobReg (j : Job) (off : Nat) : Nat :=
  match off with
  | 0x00 => mkFld 30 2 (jobCode j.st) + mkFld 16 4 j.depth + mkFld 0 16 j.id
  | 0x04 => mkFld 24 7 j.coll + mkFld 16 7 j.msg + mkFld 0 10 j.reserve
  | 0x08 => lo32 j.jt.toNat
  | 0x0C => j.latch.toNat
  | 0x10 => j.slip.toNat
  | 0x14 => mkFld 0 16 j.missed
  | 0x18 => jobFlags j
  | 0x40 => j.lbufLo.toNat
  | 0x44 => j.lbufHi.toNat
  | 0x48 => jobColl j
  | 0x4C => j.stepWait.toNat
  | _ => if 0x20 ≤ off ∧ off < 0x34 then (Tab.get 0 j.lates ((off - 0x20) / 4)).toNat else 0

/-- POWER (R367). -/
def powerReg (s : State) (off : Nat) : Nat :=
  let w := s.power
  match off with
  | 0x00 => powerStatus w
  | 0x04 => mkFld 16 16 w.window + mkFld 0 16 w.cap
  | 0x08 => mkFld 16 16 w.floor + mkFld 0 16 w.effective
  | 0x0C => mkFld 16 7 w.grant + mkFld 0 16 w.estimate
  | 0x10 => mkFld 16 16 w.droops + mkFld 0 10 w.minv
  | 0x14 => mkFld 16 16 w.vinVolt + mkFld 0 16 w.vinCur
  | 0x18 => mkFld 0 16 w.overcap
  | 0x20 => w.wakeCtl.toNat
  | 0x24 => lo32 w.wakeTick.toNat
  | 0x28 => hi32 w.wakeTick.toNat
  | 0x30 => tripReg w
  | _ =>
    if 0x100 ≤ off ∧ off < 0x130 then
      let d := s.deck ((off - 0x100) / 4)
      mkFld 16 11 d.ceiling + mkFld 0 11 d.cur
    else if 0x200 ≤ off ∧ off < 0x290 then tempReg (s.sensor ((off - 0x200) / 4))
    else 0

/-- BOOT (R385). -/
def bootReg (b : Boot) (off : Nat) : Nat :=
  match off with
  | 0x00 => mkFld 28 4 b.last + b.seen.toNat
  | 0x04 => mkFld 28 4 (bootCode b.st) + mkFld 26 2 b.failStreak + mkFld 0 4 b.failStep
  | 0x08 => lo32 b.count
  | 0x10 => lo32 (imgVersion b.running)
  | 0x14 => hi32 (imgVersion b.running)
  | 0x18 => mkFld 8 7 b.svnFuse + mkFld 0 7 (imgSvn b.running)
  | 0x20 => b.dierst.toNat
  | _ => 0

/-- TALCY.STATUS (R405). -/
def talcyStatus (x : Talcy) : Nat := mkFld 30 2 x.st + mkFld 0 8 x.gaps

/-- TALCY (R405). -/
def talcyReg (x : Talcy) (off : Nat) : Nat :=
  if off = 0 then talcyStatus x
  else if 0x10 ≤ off ∧ off < 0x20 then
    let u := Tab.get {} x.units ((off - 0x10) / 4)
    mkBit 31 u.wrapped + mkFld 0 27 u.pos
  else 0

/-- CNTCTL.FREEZE (R397). -/
def freezeReg (k : Counters) : Nat := mkBit 31 k.frozen + mkBit 30 k.late

/-- CNTCTL (R397). -/
def cntctlReg (k : Counters) (off : Nat) : Nat :=
  match off with
  | 0x0 => freezeReg k
  | 0x4 => lo32 k.frzTick.toNat
  | 0x8 => k.frzLatch.toNat
  | _ => 0

/-- WEAR (R421). -/
def wearReg (w : Wear) (off : Nat) : Nat :=
  match off with
  | 0x0 => mkBit 31 w.hold
  | 0x4 => wearStatus w
  | 0x8 => mkFld 0 16 w.unmet
  | _ => 0

/-- A word of the SPACE page of tag `g` (R394). -/
def spaceReg (s : State) (g off : Nat) : Nat :=
  if off < 0xC0 then
    match off % 16 with
    | 0 => lo32 (s.ctr (spaceCtr g (off / 16))).val.toNat
    | 4 => cntHi s .device (spaceCtr g (off / 16))
    | _ => 0
  else if off = 0x100 then
    g + mkFld 16 11 (s.tiles.filter fun e => e.2.space == g && (e.2.st == .run || e.2.st == .halted || e.2.st == .draining)).length
  else 0

/-- A counter slot of a shared block, from offset 0x1000 on (R386, R392). -/
def unitCtrReg (s : State) (addr : Nat) : Nat :=
  match addr % 16 with
  | 0 => lo32 (s.ctr addr).val.toNat
  | 4 => cntHi s .device (addr - 4)
  | _ => 0

/-- The registers of the blocks that have one row of 64 KiB pages, by base, instances and the function that reads them. -/
def unitReg (s : State) (addr : Nat) : Option Nat :=
  let at_ := fun base count (f : Nat → Nat → Nat) => (blockAt base count addr).map fun x =>
    if 0x1000 ≤ x.2 ∧ x.2 < 0x1FF0 then unitCtrReg s addr else f x.1 x.2
  (at_ 0x400000800000 1 fun _ o => ksReg s o).orElse fun _ => (at_ 0x400001000000 512 fun i o => memchReg (s.chan i) o).orElse fun _ =>
  (at_ 0x400000A00000 4 fun i o => pcacheReg (s.pier i) o).orElse fun _ =>
  (at_ 0x400000B00000 Config.abutments fun i o => if o = 0 then homearbStatus (s.arb i) else 0).orElse fun _ =>
  (at_ 0x400000D00000 Config.links fun i o => linkReg s i o).orElse fun _ =>
  (at_ 0x400003000000 48 fun i o => oportReg (s.port i) o).orElse fun _ => at_ 0x400003400000 12 fun _ _ => 0

/-- The registers of the blocks of one instance without counters. -/
def soloReg (s : State) (addr : Nat) : Option Nat :=
  let at_ := fun base (f : Nat → Nat) => (blockAt base 1 addr).map fun x => f x.2
  (at_ 0x400000900000 (mempoolReg s)).orElse fun _ => (at_ 0x400000E00000 (nodeReg s.node)).orElse fun _ =>
  (at_ 0x400000F30000 (tickReg s.tick)).orElse fun _ => (at_ 0x400000F40000 (jobReg s.job)).orElse fun _ =>
  (at_ 0x400000F50000 (powerReg s)).orElse fun _ => (at_ 0x400000F60000 (bootReg s.boot)).orElse fun _ =>
  (at_ 0x400000F70000 (talcyReg s.talcy)).orElse fun _ => (at_ 0x400000F80000 (cntctlReg s.ctrs)).orElse fun _ =>
  (at_ 0x400000F90000 (wearReg s.wear)).orElse fun _ => at_ 0x400000FA0000 fun o =>
    if o < 0x4 * Config.pciePorts then (Tab.get 0 s.upper (o / 4)).toNat else 0

/-- The value that a 4 B read of a word of device register space returns, before any effect of the read (R438, R439, R443): zero where no
register lies, in a block that the ordering code lacks, and in the BELUL blocks of clients 1 and 2. -/
def regValue (s : State) (addr : Nat) : Nat :=
  match blockAt 0x400000600000 1 addr with
  | some x => leNat ((rangeFrom x.2 4).map (blockByte s 0))
  | none =>
    match blockAt 0x400100000000 Config.tiles addr with
    | some x =>
      if (s.tile x.1).st = .unavailable then (if x.2 = 4 then 0x7 * 2 ^ 12 else 0) else (tileReg s .device x.1 x.2).getD 0
    | none =>
      match (unitReg s addr).orElse fun _ => soloReg s addr with
      | some v => v
      | none =>
        if 0x400000C00000 ≤ addr ∧ addr < 0x400000C01000 then hostintReg (s.hint ((addr - 0x400000C00000) / 16)) (addr % 16)
        else if 0x400000F00000 ≤ addr ∧ addr < 0x400000F20000 then importReg (s.window ((addr - 0x400000F00000) / 32)) (addr % 32)
        else if 0x400000F20000 ≤ addr ∧ addr < 0x400000F28000 then
          let v := exportReg (s.exp ((addr - 0x400000F20000) / 8))
          if addr % 8 = 0 then lo32 v else hi32 v
        else if 0x400006000000 ≤ addr ∧ addr < 0x400007000000 then spaceReg s ((addr - 0x400006000000) / 0x1000) (addr % 0x1000)
        else 0

/-! ### Where registers lie (R438, R442, R443) -/

/-- A word among the first `n` counters of a block, or one of its CNTRST words (R386, R392). -/
def ctrWord (n off : Nat) : Bool := (decide (0x1000 ≤ off ∧ off < 0x1000 + 0x10 * n) && decide (off % 0x10 < 8)) || off == 0x1FF0 || off == 0x1FF4

/-- A word of the counters of LINK or BOND: three counters of each of seven channels in each direction, and `n` more (R392). -/
def channelCtrWord (n off : Nat) : Bool := ctrWord (48 + n) off && (decide (0x1FF0 ≤ off ∨ 0x1300 ≤ off) || decide ((off - 0x1000) / 0x10 % 24 < 21))

/-- A word of the TILE block that holds a register. -/
def tileWord (off : Nat) : Bool :=
  decide (off ≤ 0xC) || decide (0x1000 ≤ off ∧ off < 0x1040) || decide (0x1100 ≤ off ∧ off < 0x1150) || decide (0x2000 ≤ off ∧ off ≤ 0x2024) ||
    (decide (0x3000 ≤ off ∧ off < 0x3100) && decide (off % 0x10 < 8)) || decide (0x3100 ≤ off ∧ off < 0x3130) || off == 0x3140 ||
    decide (0x4000 ≤ off ∧ off < 0x4200)

/-- A word of the LINK block of link `l`; a link that the ordering code lacks has a block that reads as zero. -/
def linkWord (l off : Nat) : Bool :=
  decide (Config.links ≤ l) || off == 0 || (decide (0x100 ≤ off ∧ off < 0x100 + 0x10 * Config.pairs l) && decide (off % 0x10 < 0xC)) || channelCtrWord 2 off

/-- The blocks of 64 KiB: base, instances, and which of their words hold a register. -/
def regBlocks : List (Nat × Nat × (Nat → Nat → Bool)) :=
  [(0x400000600000, 3, fun _ o => decide (o < 0x4000) || decide (0x4000 ≤ o ∧ o ≤ 0x4008) || decide (0x8000 ≤ o)),
   (0x400000800000, 1, fun _ o => decide (o ≤ 4) || decide (0x10 ≤ o ∧ o ≤ 0x28) || ctrWord 8 o),
   (0x400000900000, 1, fun _ o => o == 0 || decide (8 ≤ o ∧ o ≤ 0x10)),
   (0x400000A00000, 4, fun _ o => decide (o ≤ 0x24) || ctrWord 8 o),
   (0x400000B00000, 4, fun a o => decide (Config.abutments ≤ a) || o == 0 || ctrWord 6 o),
   (0x400000C00000, 1, fun _ o => decide (o < 0x1000)),
   (0x400000D00000, 7, linkWord),
   (0x400000E00000, 1, fun _ o => decide (o ≤ 0x1C) || decide (0x100 ≤ o ∧ o < 0x500)),
   (0x400000F00000, 2, fun _ o => decide (o % 0x20 ≤ 0x10)),
   (0x400000F20000, 1, fun _ o => decide (o < 0x8000)),
   (0x400000F30000, 1, fun _ o => decide (o ≤ 0xC)),
   (0x400000F40000, 1, fun _ o => decide (o ≤ 0x18) || decide (0x20 ≤ o ∧ o < 0x34) || decide (0x40 ≤ o ∧ o ≤ 0x4C)),
   (0x400000F50000, 1, fun _ o => decide (o ≤ 0x18) || decide (0x20 ≤ o ∧ o ≤ 0x28) || o == 0x30 || decide (0x100 ≤ o ∧ o < 0x130) ||
      decide (0x200 ≤ o ∧ o < 0x290)),
   (0x400000F60000, 1, fun _ o => decide (o ≤ 8) || decide (0x10 ≤ o ∧ o ≤ 0x20 ∧ o ≠ 0x1C)),
   (0x400000F70000, 1, fun _ o => decide (o ≤ 4) || decide (0x10 ≤ o ∧ o < 0x20)),
   (0x400000F80000, 1, fun _ o => decide (o ≤ 8)),
   (0x400000F90000, 1, fun _ o => decide (o ≤ 8)),
   (0x400000FA0000, 1, fun _ o => decide (o < 0x20)),
   (0x400001000000, 512, fun _ o => o == 0 || o == 0x10 || decide (0x100 ≤ o ∧ o ≤ 0x110) || ctrWord 8 o),
   (0x400003000000, 48, fun _ o => decide (o ≤ 0xC) || ctrWord 8 o),
   (0x400003400000, 12, fun _ o => channelCtrWord 0 o),
   (0x400100000000, Config.tiles, fun _ o => tileWord o)]

/-- A word of an interrupt file's page: seteipnum in the two byte orders, and every word in the files of harts that the ordering code
lacks (R252, R438). -/
def imsicWord (addr : Nat) : Bool :=
  let m := addr - 0x400004000000
  let g := addr - 0x400005000000
  let word := fun (hart : Nat) => decide (Config.harts ≤ hart) || decide (addr % 0x1000 ≤ 4)
  (decide (0x400004000000 ≤ addr ∧ m < 0x1000 * 192) && word (m / 0x1000)) ||
    (decide (0x400005000000 ≤ addr ∧ g < 0x8000 * 192) && decide (g % 0x8000 < 0x6000) && word (g / 0x8000))

/-- An aligned word of device register space holds a register, or lies in a block of a part that the ordering code lacks (R438). -/
def regThere (addr : Nat) : Bool :=
  (regBlocks.any fun b => match blockAt b.1 b.2.1 addr with
    | some x => b.2.2 x.1 x.2
    | none => false) || imsicWord addr ||
    (decide (0x400006000000 ≤ addr ∧ addr < 0x400007000000) && ((decide (addr % 0x1000 < 0xC0) && decide (addr % 0x10 < 8)) || addr % 0x1000 == 0x100))

/-! ### REGISTER_WRITE (R8, R439) -/

/-- A register of KEYSTONE written (R186). -/
def ksWrite (off : Nat) (val : W32) (s : State) : State :=
  match off with
  | 0x10 => if s.ks.ringEnable then s else s.modKs fun k => { k with ringBase := k.ringBase / 2 ^ 32 * 2 ^ 32 + val.toNat / 4096 * 4096 }
  | 0x14 => if s.ks.ringEnable then s else s.modKs fun k => { k with ringBase := k.ringBase % 2 ^ 32 + val.toNat % 65536 * 2 ^ 32 }
  | 0x18 => doRingctlWrite val s
  | 0x20 => doRingtailWrite val s
  | _ => s

/-- MEMPOOL.SCRUBCTL written (R211): a PERIOD outside 1–168 leaves the field. -/
def scrubWrite (val : W32) (s : State) : State :=
  let h := fld val.toNat 0 8
  s.modPool fun p => { p with scrubOn := val.getLsbD 31, scrubHours := if 1 ≤ h ∧ h ≤ 168 then h else p.scrubHours }

/-- A register of MEMCH written (R211). -/
def memchWrite (ch off : Nat) (val : W32) (s : State) : State :=
  match off with
  | 0x100 => if (s.chan ch).tgRun then s else s.modChan ch fun c => { c with tgctl := val &&& 0x0003FFF8#32 }
  | 0x104 => s.modChan ch fun c => { c with tgseed := val }
  | 0x108 => s.modChan ch fun c => { c with tglen := val }
  | _ => s

/-- A register of PCACHE written (R225, R226, R235): a FILLTHR or MERGEAGE outside its range leaves the field. -/
def pcacheWrite (p off : Nat) (val : W32) (s : State) : State :=
  let thr := fld val.toNat 16 9
  let age := fld val.toNat 0 12
  match off with
  | 0x0 => s.modPier p fun P =>
    { P with prefetch := val.getLsbD 31, fillThr := if 1 ≤ thr ∧ thr ≤ 256 then thr else P.fillThr,
             mergeAge := if 16 ≤ age then age else P.mergeAge }
  | 0x4 => doWayctlEnableWrite p val (doWayctlDisableWrite p val s)
  | _ => s

/-- A register of HOSTINT entry `n` written (R254). -/
def hostintWrite (n off : Nat) (val : W32) (s : State) : State :=
  let e := s.hint n
  match off with
  | 0x0 => if e.enable then s else s.setHint n { e with addrLo := val &&& 0xFFFFFFFC#32 }
  | 0x4 => if e.enable then s else s.setHint n { e with addrHi := val &&& 0xFFFF#32 }
  | 0x8 => if e.enable then s else s.setHint n { e with data := val }
  | _ => doHostintCtlWrite n val false s

/-- A register of NODE written (R301). -/
def nodeWrite (off : Nat) (val : W32) (s : State) : State :=
  let t := fld val.toNat 0 16
  match off with
  | 0x0 => s.modNode fun n => { n with phys := fld val.toNat 0 20 }
  | 0x8 => s.modNode fun n => { n with timeout := if 10 ≤ t then t else n.timeout }
  | _ => s

/-- A word of import window `w` written (R294, R301). -/
def importWrite (w off : Nat) (val : W32) (s : State) : State :=
  let open_ := (s.window w).v
  match off with
  | 0x00 => doImportOpen w val s
  | 0x04 => if open_ then s else s.modWindow w fun x => { x with baseLo := val &&& 0xFFFF0000#32 }
  | 0x08 => if open_ then s else s.modWindow w fun x => { x with baseHi := val &&& 0xFFFF#32 }
  | 0x0C => if open_ then s else s.modWindow w fun x => { x with srcVal := val &&& 0xFFFFFF#32 }
  | 0x10 => if open_ then s else s.modWindow w fun x => { x with srcMask := val &&& 0xFFFFFF#32 }
  | _ => s

/-- A register of JOB written (R327). -/
def jobWrite (off : Nat) (val : W32) (s : State) : State :=
  if s.job.st ≠ .none then s
  else match off with
    | 0x40 => s.modJob fun j => { j with lbufLo := val &&& 0xFFFFF000#32 }
    | 0x44 => s.modJob fun j => { j with lbufHi := val &&& 0xFFFF#32 }
    | _ => s

/-- A register of POWER written (R367). -/
def powerWrite (off : Nat) (val : W32) (s : State) : State :=
  match off with
  | 0x20 => s.modPower fun w => { w with wakeCtl := val &&& 0xF0000000#32 }
  | 0x24 => s.modPower fun w => { w with wakeTick := BitVec.ofNat 64 (hi32 w.wakeTick.toNat * 2 ^ 32 + val.toNat) }
  | 0x28 => s.modPower fun w => { w with wakeTick := BitVec.ofNat 64 (val.toNat * 2 ^ 32 + lo32 w.wakeTick.toNat) }
  | _ => s

/-- Bytes written to a BELUL block: a command slot, but not its commit word (R329). -/
def slotWrite (c off : Nat) (val : W32) (s : State) : State :=
  if off < 0x2000 ∧ off % 0x100 < 0xF8 then s.modBelul fun b => { b with bytes := Memory.putLe b.bytes (belulAt c off) 4 val.toNat } else s

/-- A word written to the BELUL block of a client. A 4 B write to half of a commit word is no valid commit (R332, R333). -/
def belulWrite (c off : Nat) (val : W32) (s : State) : State :=
  if off < 0x2000 ∧ 0xF8 ≤ off % 0x100 then doBelulCommit c (off / 0x100) 0 s else slotWrite c off val s

/-- A word written to a block of several instances. -/
def unitWrite (addr : Nat) (val : W32) (s : State) : Option State :=
  let at_ := fun base count (f : Nat → Nat → State) => (blockAt base count addr).map fun x => f x.1 x.2
  (at_ 0x400000600000 2 fun c o => belulWrite c o val s).orElse fun _ =>
  (at_ 0x400100000000 Config.tiles fun t o =>
    if 0x4000 ≤ o ∧ o < 0x4200 then regChange .device t (dmiWrite t ((o - 0x4000) / 4) val) s else tileWrite .device t o val s).orElse fun _ =>
  (at_ 0x400000800000 1 fun _ o => ksWrite o val s).orElse fun _ => (at_ 0x400001000000 512 fun i o => memchWrite i o val s).orElse fun _ =>
  at_ 0x400000A00000 4 fun i o => pcacheWrite i o val s

/-- A word written to a block of one instance. -/
def soloWrite (addr : Nat) (val : W32) (s : State) : Option State :=
  let at_ := fun base (f : Nat → State) => (blockAt base 1 addr).map fun x => f x.2
  (at_ 0x400000900000 fun o => if o = 8 then scrubWrite val s else s).orElse fun _ => (at_ 0x400000E00000 fun o => nodeWrite o val s).orElse fun _ =>
  (at_ 0x400000F40000 fun o => jobWrite o val s).orElse fun _ => (at_ 0x400000F50000 fun o => powerWrite o val s).orElse fun _ =>
  (at_ 0x400000F70000 fun o => if o = 4 then doTalcyTriggerWrite s else s).orElse fun _ =>
  (at_ 0x400000F90000 fun o => if o = 0 then writeHold s (val.getLsbD 31) else s).orElse fun _ => at_ 0x400000FA0000 fun o =>
    if o % 4 = 0 ∧ o < 0x4 * Config.pciePorts then { s with upper := Tab.set 0 s.upper (o / 4) (val &&& 0xFFFFFF#32) } else s

/-- A 4 B write (R8, R438): the register's own row where it has one. RO and RC words, words where no register lies, and blocks that the
ordering code lacks ignore it. -/
def wordWrite (addr : Nat) (val : W32) (s : State) : State :=
  match cntrstOf addr with
  | some _ => doCntrstWrite .device addr val 0 s
  | none =>
    match (unitWrite addr val s).orElse fun _ => soloWrite addr val s with
    | some s => s
    | none =>
      if 0x400000C00000 ≤ addr ∧ addr < 0x400000C01000 then hostintWrite ((addr - 0x400000C00000) / 16) (addr % 16) val s
      else if 0x400000F00000 ≤ addr ∧ addr < 0x400000F20000 then importWrite ((addr - 0x400000F00000) / 32) (addr % 32) val s
      else doSeteipnumWrite addr val s

/-- REGISTER_WRITE (R8, R439) of 4 or 8 B. An 8 B write is two 4 B writes, lower address first, but for EXPORT.ENTRY and for commit words,
which take it whole. The block of client 1 stands for its BAR0 (assumption 53). -/
def doRegisterWrite (addr size : Nat) (val : W64) (s : State) : State :=
  if 0x400000F20000 ≤ addr ∧ addr < 0x400000F28000 then doExportEntryWrite ((addr - 0x400000F20000) / 8) size val s
  else if size = 4 then wordWrite addr (val.setWidth 32) s
  else
    match blockAt 0x400000600000 2 addr with
    | some (c, off) =>
      if off < 0x2000 ∧ off % 0x100 = 0xF8 then doBelulCommit c (off / 0x100) val s
      else slotWrite c (off + 4) ((val >>> 32).setWidth 32) (slotWrite c off (val.setWidth 32) s)
    | none => wordWrite (addr + 4) ((val >>> 32).setWidth 32) (wordWrite addr (val.setWidth 32) s)

/-- REGISTER_WRITE. -/
def execRegisterWrite (addr size : Nat) (val : W64) (s : State) : Host.Outcome State Fault Refusal :=
  require ((size == 4 || size == 8) && addr % size == 0 && decide (0x400000000000 ≤ addr) && decide (addr < 0x500000000000))
    (doRegisterWrite addr size val s)

/-! ### Reads that clear (R9) -/

/-- TALCY_STATUS_READ: GAPS is read and cleared, but for `ev` records of the same cycle. -/
def doTalcyStatusRead (ev : Nat) (s : State) : State := (s.ret (talcyStatus s.talcy)).modTalcy fun x => { x with gaps := min 0xFF ev }

/-- TALCY_STATUS_READ. -/
def execTalcyStatusRead (ev : Nat) (s : State) : Host.Outcome State Fault Refusal := require true (doTalcyStatusRead ev s)

/-- CNTCTL_FREEZE_READ: LATE is read and cleared. -/
def doCntctlFreezeRead (ev : Bool) (s : State) : State := (s.ret (freezeReg s.ctrs)).modCtrs fun k => { k with late := ev }

/-- CNTCTL_FREEZE_READ. -/
def execCntctlFreezeRead (ev : Bool) (s : State) : Host.Outcome State Fault Refusal := require true (doCntctlFreezeRead ev s)

/-- BELUL_ERR_READ: OVERRUN and BADCOMMIT of a client are read and cleared. -/
def doBelulErrRead (c evOver evBad : Nat) (s : State) : State := clearErr (s.ret (belulErr s c)) c evOver evBad

/-- BELUL_ERR_READ. -/
def execBelulErrRead (c evOver evBad : Nat) (s : State) : Host.Outcome State Fault Refusal := require (decide (c < 3)) (doBelulErrRead c evOver evBad s)

/-! ### PCIe windows (R441) -/

/-- PCIE_WINDOW_ACCESS: an access of a host core or a HOSTINT write in a window. `up` says whether the port's link is up. -/
def doPcieWindowAccess (hostint write : Bool) (hart addr size : Nat) (val : W64) (up : Bool) (s : State) : State :=
  let n := (addr - 0x500000000000) / 2 ^ 40
  if !up ∨ Config.pciePorts ≤ n then
    if hostint then countBadCommit s 1 else s.send (.hostFault hart addr (if write then 7 else 5))
  else
    let s := s.send (.pcie n write (busAddr s n (addr % 2 ^ 40)) (if write then val else 0))
    if write then s
    else s.takeFree.send (.hostData hart (BitVec.ofNat 512 ((Config.pcieCompletion s.free).toNat % 256 ^ size)))

/-- PCIE_WINDOW_ACCESS. -/
def execPcieWindowAccess (hostint write : Bool) (hart addr size : Nat) (val : W64) (up : Bool) (s : State) :
    Host.Outcome State Fault Refusal :=
  require (decide (0x500000000000 ≤ addr) && decide (addr < 0x580000000000) && decide (hart < Config.harts) &&
    (if hostint then write && size == 4 else size == 4 || size == 8) && addr % size == 0) (doPcieWindowAccess hostint write hart addr size val up s)

end Sys2Proof.Machine
end

