-- ==== Sys2Proof/Machine/HostMem.lean ====
section
/-!
DEFINITION. A host core's accesses to memory (R236, R237, R240, R242, R247, R251, R298), by the rows of the table that stand for its
loads, its stores and its atomics: to the HBM pool through its cluster's L2, to device register space, to the remote window aperture
and to all other addresses (assumption 149).
-/

namespace Sys2Proof.Machine
open Sys2Proof

/-- A host access of up to 64 B. -/
def okHostAcc (hart addr size : Nat) : Bool :=
  decide (hart < Config.harts) && decide (addr + size ≤ Config.physEnd) && decide (1 ≤ size) && decide (size ≤ 64)

/-- The regions of the host's physical memory attributes (R237). The PCIe windows have a row of their own (R441). -/
inductive HostRegion
  | pool | device | pcie | aperture | none
  deriving DecidableEq, Repr

/-- The region of an access. -/
def hostRegion (addr size : Nat) : HostRegion :=
  if addr + size ≤ Config.poolBytes then .pool
  else if 0x400000000000 ≤ addr ∧ addr < 0x500000000000 then .device
  else if 0x500000000000 ≤ addr ∧ addr < 0x580000000000 then .pcie
  else if Config.apertureBase ≤ addr then .aperture else .none

/-- An access that device register space takes: 4 B or 8 B, aligned (R237). -/
def deviceAligned (addr size : Nat) : Bool := (size == 4 || size == 8) && addr % size == 0

/-- An access that registers of device register space answer: each word that it touches holds one (R437, R438). -/
def deviceTakes (addr size : Nat) : Bool := deviceAligned addr size && regThere addr && (size == 4 || regThere (addr + 4))

/-- An access of a hart ends in an access fault: the cause, and the address for mtval or stval (R251). -/
def hostFaults (s : State) (hart addr cause : Nat) : State := s.send (.hostFault hart addr cause)

/-- A line of the cluster's L2. -/
def Cluster.line (C : Cluster) (line : Nat) : Option HLine := C.lines.find? fun l => l.line == line

/-- A line used: it stands first in its L2. -/
def Cluster.touch (C : Cluster) (line : Nat) : Cluster :=
  match C.line line with
  | some l => { C with lines := l :: C.lines.filter fun x => x.line != line }
  | none => C

/-- The lines of an access that a cluster does not hold, or does not hold in M. -/
def Cluster.lacks (C : Cluster) (m : Bool) (lines : List Nat) : List Nat :=
  lines.filter fun x => match C.line x with
    | some l => m && !l.m
    | none => true

/-- The lines of an access are poisoned in one that it touches. -/
def Cluster.anyPoison (C : Cluster) (lines : List Nat) : Option Nat := lines.find? fun x => (C.line x).any fun l => l.poison

/-- Requests for lines that a cluster lacks: GetS or GetM, but for a GetM of a line in the writeback buffer, which waits for its
WbAck (R243, R247). The access is repeated once the data have come. -/
def askLines (s : State) (cl : Nat) (m : Bool) (lines : List Nat) : State :=
  forEach lines (fun x s =>
    if m ∧ (s.cluster cl).wb.any (fun l => l.line == x) then
      s.modCluster cl fun C => { C with waitM := addNew C.waitM x }
    else sendCoh s (clusterEnd cl) (homeEnd x) vcReq (bitNat m) (if m then "GetM" else "GetS") cl x 0 false) s

/-- The bytes of an access in the cluster's lines. -/
def Cluster.bytes (C : Cluster) (addr size : Nat) : List Byte :=
  (((cwsOf addr size).flatMap fun x => leBytes 64 (match C.line x with
    | some l => l.data.toNat
    | none => 0)).drop (addr % 64)).take size

/-- Bytes stored into lines that the cluster holds in M; the reservations of other harts on them are lost. -/
def Cluster.store (C : Cluster) (addr : Nat) (bytes : List Byte) : Cluster :=
  let lines := cwsOf addr bytes.length
  { C with
    lines := C.lines.map fun l =>
      if lines.contains l.line then
        let mask := halfMask (lineMask (l.line / 2) addr bytes.length) (l.line % 2)
        { l with data := mergeCw mask l.data (BitVec.ofNat 512 (leNat bytes * 256 ^ (addr % 64) / 256 ^ (64 * (l.line - addr / 64)))) }
      else l
    res := C.res.filter fun e => !lines.contains e.2 }

/-! ### Loads -/

/-- A load, or the fetch of an instruction, from the pool (R237, R242, R251): it hits in the L2, or asks for what is missing. -/
def hostPoolLoad (s : State) (hart addr size : Nat) (fetch : Bool) : State :=
  let cl := hart / 4
  let lines := cwsOf addr size
  let miss := (s.cluster cl).lacks false lines
  if miss ≠ [] then askLines s cl false miss
  else match (s.cluster cl).anyPoison lines with
    | some _ => hostFaults s hart addr (if fetch then 1 else 5)
    | none =>
      (s.modCluster cl fun C => lines.foldl Cluster.touch C).send
        (.hostData hart (BitVec.ofNat 512 (leNat ((s.cluster cl).bytes addr size))))

/-- A load from the remote window aperture (R293, R298): a READ of the node that the export entry names; one refused or poisoned
raises an access fault. -/
def hostFarLoad (s : State) (hart addr size : Nat) : State :=
  let r := sendRemote s addr 1 size 0 [] (.hostLoad hart)
  match r.2 with
  | .away => r.1
  | .refused _ => hostFaults r.1 hart addr 5
  | .done a => if a.poison then hostFaults r.1 hart addr 5 else r.1.send (.hostData hart (BitVec.ofNat 512 (leNat a.data)))

/-- HOST_APERTURE_LOAD (R237, R251, R298): a load of a hart, or its fetch of an instruction. A hart of a parked cluster executes
nothing. A load of a device register gives the value that stands there; what a read clears is the effect of the clearing read's own
row. -/
def doHostApertureLoad (hart addr size : Nat) (fetch : Bool) (s : State) : State :=
  if !s.awake (hart / 4) then s
  else match hostRegion addr size with
    | .pool => hostPoolLoad s hart addr size fetch
    | .device =>
      if fetch || !deviceTakes addr size then hostFaults s hart addr (if fetch then 1 else 5)
      else s.send (.hostData hart (BitVec.ofNat 512 (regValue s addr + (if size = 8 then regValue s (addr + 4) * 2 ^ 32 else 0))))
    | .pcie => if fetch then hostFaults s hart addr 1 else s
    | .aperture => if fetch then hostFaults s hart addr 1 else hostFarLoad s hart addr size
    | .none => hostFaults s hart addr (if fetch then 1 else 5)

/-- HOST_APERTURE_LOAD. -/
def execHostApertureLoad (hart addr size : Nat) (s : State) (fetch : Bool := false) : Host.Outcome State Fault Refusal :=
  require (okHostAcc hart addr size) (doHostApertureLoad hart addr size fetch s)

/-! ### Stores and cache-block operations -/

/-- A store to the pool (R237, R247, R251): into lines held in M; a poisoned one takes no store. -/
def hostPoolStore (s : State) (hart addr size : Nat) (val : BitVec 512) : State :=
  let cl := hart / 4
  let lines := cwsOf addr size
  let miss := (s.cluster cl).lacks true lines
  if miss ≠ [] then askLines s cl true miss
  else match (s.cluster cl).anyPoison lines with
    | some _ => hostFaults s hart addr 7
    | none => s.modCluster cl fun C => (lines.foldl Cluster.touch C).store addr (leBytes size val.toNat)

/-- cbo.zero writes the whole line, and clears its poison (R251). -/
def hostZero (s : State) (hart addr : Nat) : State :=
  let cl := hart / 4
  let line := addr / 64
  let miss := (s.cluster cl).lacks true [line]
  if miss ≠ [] then askLines s cl true miss
  else s.modCluster cl fun C =>
    { (C.touch line) with lines := (C.touch line).lines.map (fun l => if l.line = line then { l with data := 0, poison := false } else l),
                          res := C.res.filter fun e => e.2 != line }

/-- Every host copy of a line dropped and none written back, as cbo.inval allows (R240). -/
def dropCopies (s : State) (line : Nat) : State :=
  let A := s.arb (homeArb line)
  let holders := A.sharers line ++ (A.owner line).toList
  (forEach holders (fun c s => s.modCluster c fun C => C.drop line) s).modArb (homeArb line) fun A => A.setEntry line none []

/-- A cache-block operation on a line of the pool (R240), complete in this step: cbo.clean writes a dirty line back, cbo.flush writes
it back and leaves no host copy, cbo.inval leaves none. It waits while a transaction is open for the line (R245). -/
def hostBlock (s : State) (k : HostSt) (line : Nat) : State :=
  if (s.arb (homeArb line)).busy line then s
  else match k with
    | .clean => cohShare s line
    | .flush => cohPurge s line
    | .inval => dropCopies s line
    | _ => s

/-- A store to the remote window aperture (R298): retired when sent; a refusal raises REMOTE_STORE_REFUSED. -/
def hostFarStore (s : State) (hart addr size : Nat) (val : BitVec 512) : State :=
  let r := sendRemote s addr 2 0 0 (leBytes size val.toNat) (.hostStore hart)
  match r.2 with
  | .refused c => logEvent r.1 0x0305 4 (dieAbut (hart / 48)) [addr, c]
  | _ => r.1

/-- HOST_APERTURE_STORE (R237, R240, R251, R298): a store of a hart, or a cache-block operation. Outside the pool only stores have an
effect; elsewhere than in a region of R237 each takes an access fault. -/
def doHostApertureStore (hart addr size : Nat) (k : HostSt) (val : BitVec 512) (s : State) : State :=
  if !s.awake (hart / 4) then s
  else match hostRegion addr size, k with
    | .pool, .store => hostPoolStore s hart addr size val
    | .pool, .zero => hostZero s hart addr
    | .pool, _ => hostBlock s k (addr / 64)
    | .device, .store => if deviceTakes addr size then doRegisterWrite addr size (val.setWidth 64) s else hostFaults s hart addr 7
    | .aperture, .store => hostFarStore s hart addr size val
    | .pcie, .store => s
    | _, _ => hostFaults s hart addr 7

/-- HOST_APERTURE_STORE. -/
def execHostApertureStore (hart addr size : Nat) (k : HostSt) (s : State) (val : BitVec 512 := 0) :
    Host.Outcome State Fault Refusal :=
  require (okHostAcc hart addr size) (doHostApertureStore hart addr size k val s)

/-! ### LR, SC and AMO -/

/-- The new value of a host AMO of 4 or 8 bytes, by its funct5. -/
def hostAmoValue (op width : Nat) (old v : Nat) : Nat :=
  let w := 8 * width
  match op with
  | 0x00 => (old + v) % 2 ^ w
  | 0x01 => v % 2 ^ w
  | 0x04 => old.xor v % 2 ^ w
  | 0x08 => old.lor v % 2 ^ w
  | 0x0C => old.land v % 2 ^ w
  | 0x10 => if sInt w old ≤ sInt w v then old else v % 2 ^ w
  | 0x14 => if sInt w old ≤ sInt w v then v % 2 ^ w else old
  | 0x18 => if old ≤ v % 2 ^ w then old else v % 2 ^ w
  | _ => if old ≤ v % 2 ^ w then v % 2 ^ w else old

/-- LR, SC and AMO in the L2, on a line held in M (R236); the data answered are the value read, or SC's 0 or 1. -/
def hostPoolAmo (s : State) (hart addr : Nat) (k : AccKind) (width : Nat) (v : W64) : State :=
  let cl := hart / 4
  let line := addr / 64
  let C := s.cluster cl
  let here := hart % 4
  let answer := fun (s : State) (x : Nat) => s.send (.hostData hart (BitVec.ofNat 512 x))
  let unreserve := fun (s : State) => s.modCluster cl fun C => { C with res := C.res.filter fun e => e.1 != here }
  if k = .sc ∧ !C.res.contains (here, line) then answer (unreserve s) 1
  else
    let miss := C.lacks true [line]
    if miss ≠ [] then askLines s cl true miss
    else match C.anyPoison [line] with
      | some _ => hostFaults s hart addr (if k = .lr then 5 else 7)
      | none =>
        let old := leNat (C.bytes addr width)
        match k with
        | .lr => answer ((unreserve s).modCluster cl fun C => { C with res := (here, line) :: C.res }) old
        | .sc => answer (unreserve (s.modCluster cl fun C => C.store addr (leBytes width v.toNat))) 0
        | .amo op => answer (s.modCluster cl fun C => C.store addr (leBytes width (hostAmoValue op width old v.toNat))) old
        | _ => s

/-- An LR, SC or AMO of a host core: a word or a doubleword, and an AMO's operation by its funct5. -/
def okHostAmo (k : AccKind) (width : Nat) : Bool :=
  (width == 4 || width == 8) && (match k with
    | .lr | .sc => true
    | .amo op => [0, 1, 4, 8, 0xC, 0x10, 0x14, 0x18, 0x1C].contains op
    | _ => false)

/-- HOST_APERTURE_AMO (R236, R237, R298): an LR, SC or AMO of a hart. It acts on the pool alone, aligned; to the aperture, and to any
other region, it raises a load or a store/AMO access fault, and nothing is sent. -/
def doHostApertureAmo (hart addr : Nat) (k : AccKind) (width : Nat) (v : W64) (s : State) : State :=
  if !s.awake (hart / 4) then s
  else if hostRegion addr width ≠ .pool then hostFaults s hart addr (if k = .lr then 5 else 7)
  else if addr % width ≠ 0 then hostFaults s hart addr (if k = .lr then 4 else 6)
  else hostPoolAmo s hart addr k width v

/-- HOST_APERTURE_AMO. -/
def execHostApertureAmo (hart addr : Nat) (k : AccKind) (s : State) (width : Nat := 8) (v : W64 := 0) :
    Host.Outcome State Fault Refusal :=
  require (okHostAcc hart addr width && okHostAmo k width) (doHostApertureAmo hart addr k width v s)

end Sys2Proof.Machine
end

