-- ==== Sys2Proof/Machine/Dispatch.lean ====
section
/-!
DEFINITION. The dispatch of a command to its meaning: one arm for each constructor of `Instr`.
-/

namespace Sys2Proof.Machine
open Sys2Proof

/-- The effect of a command on everything but the queue of waiting commands. -/
def exec (i : Instr) (s : State) : Host.Outcome State Fault Refusal :=
  match i with
  -- the spindle core and the tile's registers
  | .csrAccess t op csr rd rs => Sys2Proof.Machine.execCsrAccess t op csr rd rs s
  | .spindleLoadStore t k width sgn addr rd rs ilen upset => Sys2Proof.Machine.execSpindleLoadStore t k width sgn addr rd rs ilen upset s
  | .ecall t => Sys2Proof.Machine.execEcall t s
  | .ebreak t => Sys2Proof.Machine.execEbreak t s
  | .mret t => Sys2Proof.Machine.execMret t s
  | .wfi t => Sys2Proof.Machine.execWfi t s
  | .eventDelivery t set => Sys2Proof.Machine.execEventDelivery t s set
  | .qpush v t q val => Sys2Proof.Machine.execQpush v t q val s
  | .exit v t code => Sys2Proof.Machine.execExit v t code s
  | .exitDrained t => Sys2Proof.Machine.execExitDrained t s
  | .qcrWrite v t q val => Sys2Proof.Machine.execQcrWrite v t q val s
  | .rxcfgWrite v t n val => Sys2Proof.Machine.execRxcfgWrite v t n val s
  | .rxtailWrite v t n val => Sys2Proof.Machine.execRxtailWrite v t n val s
  | .pendSet v t hi val => Sys2Proof.Machine.execPendSet v t hi val s
  | .pendClr v t hi val hw => Sys2Proof.Machine.execPendClr v t hi val hw s
  | .maskSet v t hi val => Sys2Proof.Machine.execMaskSet v t hi val s
  | .maskClr v t hi val set => Sys2Proof.Machine.execMaskClr v t hi val s set
  | .tmarkWrite v t val => Sys2Proof.Machine.execTmarkWrite v t val s
  | .cntrstWrite v addr val ev => Sys2Proof.Machine.execCntrstWrite v addr val ev s
  | .dmiHaltreq t => Sys2Proof.Machine.execDmiHaltreq t s
  | .dmiResumereq t => Sys2Proof.Machine.execDmiResumereq t s
  | .dmiAbstractCommand t cmd => Sys2Proof.Machine.execDmiAbstractCommand t cmd s
  -- registers of the shared units
  | .ringctlWrite val => Sys2Proof.Machine.execRingctlWrite val s
  | .ringtailWrite val => Sys2Proof.Machine.execRingtailWrite val s
  | .wayctlDisableWrite p val => Sys2Proof.Machine.execWayctlDisableWrite p val s
  | .wayctlEnableWrite p val => Sys2Proof.Machine.execWayctlEnableWrite p val s
  | .hostintCtlWrite n val ev => Sys2Proof.Machine.execHostintCtlWrite n val ev s
  | .importOpen w val => Sys2Proof.Machine.execImportOpen w val s
  | .exportEntryWrite e size val => Sys2Proof.Machine.execExportEntryWrite e size val s
  | .talcyTriggerWrite val => Sys2Proof.Machine.execTalcyTriggerWrite val s
  | .registerWrite addr size val => Sys2Proof.Machine.execRegisterWrite addr size val s
  | .qstatRead v t q ev => Sys2Proof.Machine.execQstatRead v t q ev s
  | .rxrefRead v t n evFull evOther => Sys2Proof.Machine.execRxrefRead v t n evFull evOther s
  | .overflowRead ev => Sys2Proof.Machine.execOverflowRead ev s
  | .memchStatusRead ch ev => Sys2Proof.Machine.execMemchStatusRead ch ev s
  | .errcntRead ch evInner evOuter evUe => Sys2Proof.Machine.execErrcntRead ch evInner evOuter evUe s
  | .waystatRead p ev => Sys2Proof.Machine.execWaystatRead p ev s
  | .pcacheErrRead p evCe evData evTag evBuf => Sys2Proof.Machine.execPcacheErrRead p evCe evData evTag evBuf s
  | .homearbStatusRead a ev => Sys2Proof.Machine.execHomearbStatusRead a ev s
  | .bstatRead l n ev => Sys2Proof.Machine.execBstatRead l n ev s
  | .nodeRefuseRead ev => Sys2Proof.Machine.execNodeRefuseRead ev s
  | .oportErrRead p evRep evFec => Sys2Proof.Machine.execOportErrRead p evRep evFec s
  | .jobMissedRead ev => Sys2Proof.Machine.execJobMissedRead ev s
  | .jobFlagsRead ev => Sys2Proof.Machine.execJobFlagsRead ev s
  | .droopRead ev => Sys2Proof.Machine.execDroopRead ev s
  | .overcapRead ev => Sys2Proof.Machine.execOvercapRead ev s
  | .tripRead => Sys2Proof.Machine.execTripRead s
  | .tempRead ix => Sys2Proof.Machine.execTempRead ix s
  | .bootCauseRead ev => Sys2Proof.Machine.execBootCauseRead ev s
  | .dierstRead ev => Sys2Proof.Machine.execDierstRead ev s
  | .talcyStatusRead ev => Sys2Proof.Machine.execTalcyStatusRead ev s
  | .cntctlFreezeRead ev => Sys2Proof.Machine.execCntctlFreezeRead ev s
  | .wearUnmetRead ev => Sys2Proof.Machine.execWearUnmetRead ev s
  | .belulErrRead c evOver evBad => Sys2Proof.Machine.execBelulErrRead c evOver evBad s
  | .cntloRead v addr => Sys2Proof.Machine.execCntloRead v addr s
  | .tickNumloRead => Sys2Proof.Machine.execTickNumloRead s
  | .jobTickloRead => Sys2Proof.Machine.execJobTickloRead s
  | .frztickloRead => Sys2Proof.Machine.execFrztickloRead s
  -- descriptors and the engines
  | .descriptorStart t q => Sys2Proof.Machine.execDescriptorStart t q s
  | .fenceComplete t q => Sys2Proof.Machine.execFenceComplete t q s
  | .latheBlockDone t => Sys2Proof.Machine.execLatheBlockDone t s
  | .chainChunkDone t flips => Sys2Proof.Machine.execChainChunkDone t s flips
  | .chainPassEnd t flips => Sys2Proof.Machine.execChainPassEnd t s flips
  | .moverCopyChunk t q flips => Sys2Proof.Machine.execMoverCopyChunk t q s flips
  | .moverFillChunk t q flips => Sys2Proof.Machine.execMoverFillChunk t q s flips
  | .moverAtomicChunk t q flips => Sys2Proof.Machine.execMoverAtomicChunk t q s flips
  | .sendMessage t q => Sys2Proof.Machine.execSendMessage t q s
  | .moverAck t q chunk => Sys2Proof.Machine.execMoverAck t q chunk s
  | .moverChunkDone t q chunk => Sys2Proof.Machine.execMoverChunkDone t q chunk s
  | .completionPost t q cycles => Sys2Proof.Machine.execCompletionPost t q cycles s
  | .storeCorrectiveWrite t word => Sys2Proof.Machine.execStoreCorrectiveWrite t word s
  -- the Keystone
  | .leaseRequest t q => Sys2Proof.Machine.execLeaseRequest t q s
  | .keystoneWalkComplete t q => Sys2Proof.Machine.execKeystoneWalkComplete t q s
  | .recall t q tag => Sys2Proof.Machine.execRecall t q tag s
  | .recallAck t q base => Sys2Proof.Machine.execRecallAck t q base s
  | .invalidateComplete handle => Sys2Proof.Machine.execInvalidateComplete handle s
  | .walkerParityError walker t q => Sys2Proof.Machine.execWalkerParityError walker t q s
  | .spaceBind r tag root => Sys2Proof.Machine.execSpaceBind r tag root s
  | .spaceUnbind r tag => Sys2Proof.Machine.execSpaceUnbind r tag s
  | .invalidate r tag => Sys2Proof.Machine.execInvalidate r tag s
  | .faultRing r addr enable msi => Sys2Proof.Machine.execFaultRing r addr enable msi s
  | .faultResolve r tile queue action => Sys2Proof.Machine.execFaultResolve r tile queue action s
  | .probe r tag va => Sys2Proof.Machine.execProbe r tag va s
  | .keystoneStatus r => Sys2Proof.Machine.execKeystoneStatus r s
  -- the tile's life
  | .storeFillComplete t => Sys2Proof.Machine.execStoreFillComplete t s
  | .stopDrainStart t => Sys2Proof.Machine.execStopDrainStart t s
  | .drainComplete t => Sys2Proof.Machine.execDrainComplete t s
  | .tileReset r ts => Sys2Proof.Machine.execTileReset r ts s
  | .tileLoad r ts va len off tag => Sys2Proof.Machine.execTileLoad r ts va len off tag s
  | .tileStart r ts tag entry arg => Sys2Proof.Machine.execTileStart r ts tag entry arg s
  | .tileStop r ts => Sys2Proof.Machine.execTileStop r ts s
  | .tileStatus r tile => Sys2Proof.Machine.execTileStatus r tile s
  | .tileHalt r ts => Sys2Proof.Machine.execTileHalt r ts s
  | .tileResume r ts => Sys2Proof.Machine.execTileResume r ts s
  | .tileTest r ts => Sys2Proof.Machine.execTileTest r ts s
  -- routed small messages
  | .msgDataDelivery m flips => Sys2Proof.Machine.execMsgDataDelivery m s flips
  | .msgSignalDelivery m => Sys2Proof.Machine.execMsgSignalDelivery m s
  | .deliveryRefusal id cause => Sys2Proof.Machine.execDeliveryRefusal id cause s
  | .msgRetry id => Sys2Proof.Machine.execMsgRetry id s
  -- the HBM4 pool
  | .memoryRead cw inner err => Sys2Proof.Machine.execMemoryRead cw inner err s
  | .memoryWrite cw mask data => Sys2Proof.Machine.execMemoryWrite cw mask data s
  | .codewordCorrectiveWrite cw => Sys2Proof.Machine.execCodewordCorrectiveWrite cw s
  | .patrolScrub inner errs => Sys2Proof.Machine.execPatrolScrub inner s errs
  | .rowRepair ch spare => Sys2Proof.Machine.execRowRepair ch spare s
  | .hotWindowEnd => Sys2Proof.Machine.execHotWindowEnd s
  | .refresh ch => Sys2Proof.Machine.execRefresh ch s
  | .stackTempRead st temp => Sys2Proof.Machine.execStackTempRead st temp s
  | .hbmCalibration ch => Sys2Proof.Machine.execHbmCalibration ch s
  | .memoryInit r mode rate testKey key => Sys2Proof.Machine.execMemoryInit r mode rate testKey key s
  | .memoryInitComplete rate failed key => Sys2Proof.Machine.execMemoryInitComplete rate failed key s
  | .memoryStatus r => Sys2Proof.Machine.execMemoryStatus r s
  | .retiredList r buf => Sys2Proof.Machine.execRetiredList r buf s
  | .scrubSet r enable period => Sys2Proof.Machine.execScrubSet r enable period s
  | .memTraffic r mask => Sys2Proof.Machine.execMemTraffic r mask s
  | .memTrafficComplete chs errs => Sys2Proof.Machine.execMemTrafficComplete chs s errs
  -- the pier cache and the adders
  | .pierRead p addr sectors e => Sys2Proof.Machine.execPierRead p addr sectors e s
  | .fillReturn p cw inner flips => Sys2Proof.Machine.execFillReturn p cw inner s flips
  | .pierWrite p line mask data => Sys2Proof.Machine.execPierWrite p line mask data s
  | .mergeAgeDrain p line e => Sys2Proof.Machine.execMergeAgeDrain p line e s
  | .adderOperation addr addop opnd cmp e => Sys2Proof.Machine.execAdderOperation addr addop opnd cmp e s
  | .adderStoreEvict ch cw e => Sys2Proof.Machine.execAdderStoreEvict ch cw s e
  | .cacheRangeInvalidate r start len => Sys2Proof.Machine.execCacheRangeInvalidate r start len s
  | .cacheRangeDrainMerge r start len => Sys2Proof.Machine.execCacheRangeDrainMerge r start len s
  | .cacheRangePrefetch r start len => Sys2Proof.Machine.execCacheRangePrefetch r start len s
  | .cacheRangeLock r start len => Sys2Proof.Machine.execCacheRangeLock r start len s
  | .cacheRangeUnlock r start len => Sys2Proof.Machine.execCacheRangeUnlock r start len s
  | .cacheRangeComplete p upto => Sys2Proof.Machine.execCacheRangeComplete s p upto
  | .cacheWayInvalidate r p w => Sys2Proof.Machine.execCacheWayInvalidate r p w s
  | .cacheWayEnable r p w => Sys2Proof.Machine.execCacheWayEnable r p w s
  | .cacheWayDisable r p w => Sys2Proof.Machine.execCacheWayDisable r p w s
  | .wayPowerDownComplete p w upto => Sys2Proof.Machine.execWayPowerDownComplete p w s upto
  | .cacheStatus r p => Sys2Proof.Machine.execCacheStatus r p s
  -- host clusters and the home arbiters
  | .gets cl line => Sys2Proof.Machine.execGets cl line s
  | .getm cl line => Sys2Proof.Machine.execGetm cl line s
  | .tread id line => Sys2Proof.Machine.execTread id line s
  | .twrite id line mask data => Sys2Proof.Machine.execTwrite id line mask data s
  | .top id addr addop opnd cmp => Sys2Proof.Machine.execTop id addr addop opnd cmp s
  | .fwdgets cl line req => Sys2Proof.Machine.execFwdgets cl line req s
  | .fwdgetm cl line req => Sys2Proof.Machine.execFwdgetm cl line req s
  | .fwdinv cl line => Sys2Proof.Machine.execFwdinv cl line s
  | .inv cl line => Sys2Proof.Machine.execInv cl line s
  | .data cl line m val poison => Sys2Proof.Machine.execData cl line m val poison s
  | .ack cl line => Sys2Proof.Machine.execAck cl line s
  | .wback cl line => Sys2Proof.Machine.execWback cl line s
  | .done line => Sys2Proof.Machine.execDone line s
  | .putm cl line val poison => Sys2Proof.Machine.execPutm cl line val poison s
  | .downwb cl line val poison => Sys2Proof.Machine.execDownwb cl line val poison s
  | .hostApertureLoad hart addr size fetch => Sys2Proof.Machine.execHostApertureLoad hart addr size s fetch
  | .hostApertureStore hart addr size k val => Sys2Proof.Machine.execHostApertureStore hart addr size k s val
  | .hostApertureAmo hart addr k width val => Sys2Proof.Machine.execHostApertureAmo hart addr k s width val
  | .seteipnumWrite addr val => Sys2Proof.Machine.execSeteipnumWrite addr val s
  | .pciePortEvent port => Sys2Proof.Machine.execPciePortEvent port s
  -- Truss and the die links
  | .trussReplay l n east count => Sys2Proof.Machine.execTrussReplay l n east count s
  | .linkup l n east hashE hashW => Sys2Proof.Machine.execLinkup l n east hashE s hashW
  | .mapfault l n => Sys2Proof.Machine.execMapfault l n s
  | .bundleTrainingDone l n idW idE align freshE freshW => Sys2Proof.Machine.execBundleTrainingDone l n idW idE align s freshE freshW
  | .dieResetResponse who => Sys2Proof.Machine.execDieResetResponse who s
  | .dieLinkStatus r l => Sys2Proof.Machine.execDieLinkStatus r l s
  | .dieLinkRetrain r l n => Sys2Proof.Machine.execDieLinkRetrain r l n s
  -- the optical links and node addressing
  | .flitForward port p => Sys2Proof.Machine.execFlitForward port p s
  | .flitReplay port fseq => Sys2Proof.Machine.execFlitReplay port fseq s
  | .linkdown port => Sys2Proof.Machine.execLinkdown port s
  | .peerid port gen8 phys peerPort fprint => Sys2Proof.Machine.execPeerid port gen8 phys peerPort fprint s
  | .portTrainingDone port accTx accRx => Sys2Proof.Machine.execPortTrainingDone port accTx accRx s
  | .waveErrorWindow port overs => Sys2Proof.Machine.execWaveErrorWindow port overs s
  | .laserFailure port => Sys2Proof.Machine.execLaserFailure port s
  | .remoteRead port p => Sys2Proof.Machine.execRemoteRead port p s
  | .remoteWrite port p => Sys2Proof.Machine.execRemoteWrite port p s
  | .remoteAtomic port p => Sys2Proof.Machine.execRemoteAtomic port p s
  | .rspData port p => Sys2Proof.Machine.execRspData port s p
  | .rspAck port p => Sys2Proof.Machine.execRspAck port s p
  | .rspNack port p => Sys2Proof.Machine.execRspNack port s p
  | .remoteTimeout tag => Sys2Proof.Machine.execRemoteTimeout tag s
  | .portStatus r port => Sys2Proof.Machine.execPortStatus r port s
  | .portOpen r port => Sys2Proof.Machine.execPortOpen r port s
  | .portRetrain r port => Sys2Proof.Machine.execPortRetrain r port s
  | .nodeRole r logical epoch rolev => Sys2Proof.Machine.execNodeRole r logical epoch rolev s
  | .routeLoad r phys ex ey ez wrap pods => Sys2Proof.Machine.execRouteLoad r phys ex ey ez wrap pods s
  | .nodemapSync r base len => Sys2Proof.Machine.execNodemapSync r base len s
  | .windowSet r w base size rights hc jobchk srcVal srcMask => Sys2Proof.Machine.execWindowSet r w base size rights hc jobchk srcVal srcMask s
  | .windowClose r w => Sys2Proof.Machine.execWindowClose r w s
  | .windowCloseComplete w => Sys2Proof.Machine.execWindowCloseComplete w s
  | .exportSet r e node w v => Sys2Proof.Machine.execExportSet r e node w v s
  -- the span tick, jobs and collectives
  | .spanTickBoundary predict estimate floor => Sys2Proof.Machine.execSpanTickBoundary predict estimate floor s
  | .timesyncSend port t1 => Sys2Proof.Machine.execTimesyncSend port t1 s
  | .timesync port reply t1 t2 t3 t4 => Sys2Proof.Machine.execTimesync port reply t1 t2 t3 s t4
  | .heartbeat port h => Sys2Proof.Machine.execHeartbeat port h s
  | .flood port bound origin kind cause job => Sys2Proof.Machine.execFlood port bound origin kind cause job s
  | .parentUsable port tick => Sys2Proof.Machine.execParentUsable port tick s
  | .tickLockAcquired => Sys2Proof.Machine.execTickLockAcquired s
  | .parentLost next => Sys2Proof.Machine.execParentLost next s
  | .holdoverUnaligned => Sys2Proof.Machine.execHoldoverUnaligned s
  | .tickLost => Sys2Proof.Machine.execTickLost s
  | .nodeLost phys => Sys2Proof.Machine.execNodeLost phys s
  | .stepTimeout stream step => Sys2Proof.Machine.execStepTimeout stream step s
  | .collData port p => Sys2Proof.Machine.execCollData port p s
  | .collComplete => Sys2Proof.Machine.execCollComplete s
  | .launch port h => Sys2Proof.Machine.execLaunch port h s
  | .launchAck port a => Sys2Proof.Machine.execLaunchAck port a s
  | .launchAckDeadline => Sys2Proof.Machine.execLaunchAckDeadline s
  | .launchAttemptEnd => Sys2Proof.Machine.execLaunchAttemptEnd s
  | .jobLaunch r h => Sys2Proof.Machine.execJobLaunch r h s
  | .jobEnd r => Sys2Proof.Machine.execJobEnd r s
  | .jobStatus r => Sys2Proof.Machine.execJobStatus r s
  | .collPost r addr => Sys2Proof.Machine.execCollPost r addr s
  | .tickConfig r root p0 p1 p2 p3 => Sys2Proof.Machine.execTickConfig r root p0 p1 p2 p3 s
  -- the Belul command interface
  | .belulCommit c slot word => Sys2Proof.Machine.execBelulCommit c slot word s
  | .deviceInfo r => Sys2Proof.Machine.execDeviceInfo r s
  | .tileMap r => Sys2Proof.Machine.execTileMap r s
  | .spareState r => Sys2Proof.Machine.execSpareState r s
  | .degraded r => Sys2Proof.Machine.execDegraded r s
  | .nop r params => Sys2Proof.Machine.execNop r params s
  | .opQuery r handle => Sys2Proof.Machine.execOpQuery r handle s
  | .opAbort r handle pos => Sys2Proof.Machine.execOpAbort r handle pos s
  | .opList r => Sys2Proof.Machine.execOpList r s
  | .pciePort r port mode width => Sys2Proof.Machine.execPciePort r port mode width s
  | .configRead r => Sys2Proof.Machine.execConfigRead r s
  -- power
  | .powerCap r cap window => Sys2Proof.Machine.execPowerCap r cap window s
  | .powerState r target => Sys2Proof.Machine.execPowerState r target s
  | .clusterPark r die mask => Sys2Proof.Machine.execClusterPark r die mask s
  | .clusterUnpark r die mask => Sys2Proof.Machine.execClusterUnpark r die mask s
  | .dvfsSet r decks clusters => Sys2Proof.Machine.execDvfsSet r decks clusters s
  | .powerStatus r => Sys2Proof.Machine.execPowerStatus r s
  -- observation
  | .counterSnapshot r set idx tick => Sys2Proof.Machine.execCounterSnapshot r set idx tick s
  | .freeze r machine thaw tick => Sys2Proof.Machine.execFreeze r machine thaw tick s
  | .freezePacket port tick origin thaw => Sys2Proof.Machine.execFreezePacket port tick origin thaw s
  | .haltPacket port bound origin job action => Sys2Proof.Machine.execHaltPacket port bound origin job action s
  | .traceConfig r cfg => Sys2Proof.Machine.execTraceConfig r cfg s
  | .traceArm r => Sys2Proof.Machine.execTraceArm r s
  | .traceStop r => Sys2Proof.Machine.execTraceStop r s
  | .traceUnitStop p => Sys2Proof.Machine.execTraceUnitStop p s
  | .pcSample t => Sys2Proof.Machine.execPcSample t s
  | .counterThreshold t n => Sys2Proof.Machine.execCounterThreshold t n s
  | .eventRead r first count => Sys2Proof.Machine.execEventRead r first count s
  | .haltGroup r ts scope action => Sys2Proof.Machine.execHaltGroup r ts scope action s
  -- firmware and security
  | .fwInfo r => Sys2Proof.Machine.execFwInfo r s
  | .fwUpdate r src => Sys2Proof.Machine.execFwUpdate r src s
  | .fwRecoveryLoad r off last piece flashOk => Sys2Proof.Machine.execFwRecoveryLoad r off last piece flashOk s
  | .recoverySessionTimeout => Sys2Proof.Machine.execRecoverySessionTimeout s
  | .fwActivate r => Sys2Proof.Machine.execFwActivate r s
  | .recordRead r kind first => Sys2Proof.Machine.execRecordRead r kind first s
  | .idCert r off => Sys2Proof.Machine.execIdCert r off s
  | .attest r nonce mask => Sys2Proof.Machine.execAttest r nonce mask s
  | .measureLog r off => Sys2Proof.Machine.execMeasureLog r off s
  -- I3C
  | .i3cPrivateWrite off bytes => Sys2Proof.Machine.execI3cPrivateWrite off bytes s
  | .i3cPrivateRead n => Sys2Proof.Machine.execI3cPrivateRead n s
  | .entdaa addr => Sys2Proof.Machine.execEntdaa addr s
  | .rstdaa => Sys2Proof.Machine.execRstdaa s
  | .setnewda addr => Sys2Proof.Machine.execSetnewda addr s
  | .getpid => Sys2Proof.Machine.execGetpid s
  | .getbcr => Sys2Proof.Machine.execGetbcr s
  | .getdcr => Sys2Proof.Machine.execGetdcr s
  | .getstatus => Sys2Proof.Machine.execGetstatus s
  | .getmwl => Sys2Proof.Machine.execGetmwl s
  | .getmrl => Sys2Proof.Machine.execGetmrl s
  | .enec => Sys2Proof.Machine.execEnec s
  | .disec => Sys2Proof.Machine.execDisec s
  | .rstact whole => Sys2Proof.Machine.execRstact whole s
  -- power, thermal and supply events
  | .powerCalibration measured gains => Sys2Proof.Machine.execPowerCalibration measured gains s
  | .dvfsAdjust => Sys2Proof.Machine.execDvfsAdjust s
  | .droopClamp volt => Sys2Proof.Machine.execDroopClamp volt s
  | .clampRelease minv durationNs => Sys2Proof.Machine.execClampRelease minv durationNs s
  | .supply => Sys2Proof.Machine.execSupply s
  | .monitorFault => Sys2Proof.Machine.execMonitorFault s
  | .thermalSample ix temp => Sys2Proof.Machine.execThermalSample ix temp s
  | .thermalTrip ix temp => Sys2Proof.Machine.execThermalTrip ix temp s
  | .localLoopUpdate p => Sys2Proof.Machine.execLocalLoopUpdate p s
  | .mgrLost p => Sys2Proof.Machine.execMgrLost p s
  | .powerWake src => Sys2Proof.Machine.execPowerWake src s
  | .powerOn => Sys2Proof.Machine.execPowerOn s
  | .external => Sys2Proof.Machine.execExternal s
  | .modResetRelease => Sys2Proof.Machine.execModResetRelease s
  | .watchdog => Sys2Proof.Machine.execWatchdog s
  | .moduleStart ix => Sys2Proof.Machine.execModuleStart ix s
  | .failstreakClear => Sys2Proof.Machine.execFailstreakClear s
  | .deckDieReset n same => Sys2Proof.Machine.execDeckDieReset n same s
  | .abutmentDieReset a same => Sys2Proof.Machine.execAbutmentDieReset a same s
  | .recordCompaction => Sys2Proof.Machine.execRecordCompaction s
  -- wear
  | .ageingSweep found => Sys2Proof.Machine.execAgeingSweep found s
  | .substitution n testOk => Sys2Proof.Machine.execSubstitution n testOk s
  -- later rows of the table
  | .wayInvalidateComplete p w => Sys2Proof.Machine.execWayInvalidateComplete p w s
  | .nodemapSyncComplete => Sys2Proof.Machine.execNodemapSyncComplete s
  | .fwUpdateComplete ok => Sys2Proof.Machine.execFwUpdateComplete ok s
  | .tileTestComplete failing => Sys2Proof.Machine.execTileTestComplete failing s
  | .portLossOfLock port => Sys2Proof.Machine.execPortLossOfLock port s
  | .flitCheckFailure port fseq fec => Sys2Proof.Machine.execFlitCheckFailure port fseq fec s
  | .bundleHeaderParityError bond l n east count => Sys2Proof.Machine.execBundleHeaderParityError bond l n east count s
  | .hostClusterStateError a c => Sys2Proof.Machine.execHostClusterStateError a c s
  | .laneEyeCheckFailure l n east lane outright => Sys2Proof.Machine.execLaneEyeCheckFailure l n east lane outright s
  | .pierFatalError p => Sys2Proof.Machine.execPierFatalError p s
  | .stbyPowerLoss => Sys2Proof.Machine.execStbyPowerLoss s
  | .pcieWindowAccess hostint write hart addr size val up => Sys2Proof.Machine.execPcieWindowAccess hostint write hart addr size val up s

end Sys2Proof.Machine
end

