-- ==== Sys2Proof/WellFormed.lean ====
section
/-!
DEFINITION. Well-formed commands: each operand names a unit that an FX12-H16A2 has, or lies within the width that the manual gives it. A
command that is not well formed stops with the fault `noSuchUnit`. An operand that the manual itself has checked (a port number in a
Belul command, an address in a packet) is no matter of this file: the command runs, and is answered as the manual says.
-/

namespace Sys2Proof

/-- The slot of a Belul command (R328). -/
def wfReq (r : Req) : Bool := decide (r.client < 3) && decide (r.slot < 32)
/-- A logical tile (R18). -/
def wfTile (t : Nat) : Bool := decide (t < Config.tiles)
/-- A descriptor queue of a tile (R33). -/
def wfQueue (t q : Nat) : Bool := decide (t < Config.tiles) && decide (q < 4)
/-- A channel of the pool (R189). -/
def wfChan (ch : Nat) : Bool := decide (ch < Config.channels)
/-- An address in the HBM pool (R437). -/
def wfPool (addr : Nat) : Bool := decide (addr < Config.poolBytes)
/-- A codeword of the pool. -/
def wfCw (cw : Nat) : Bool := decide (64 * cw < Config.poolBytes)
/-- A bundle pair of a substrate link (R255). -/
def wfPair (l n : Nat) : Bool := decide (l < Config.links) && decide (n < Config.pairs l)
/-- The port on which a message from another node arrives. -/
def wfMsgSrc (m : MsgSrc) : Bool :=
  match m with
  | .inside _ => true
  | .outside port _ => decide (port < Config.ports)

/-- A die by DDIE (R260). -/
def wfDie (d : Nat) : Bool :=
  decide (d < 12) || (decide (16 ≤ d) && decide (d < 20)) || (decide (24 ≤ d) && decide (d < 24 + Config.abutments))
/-- A sensor of a deck die, a pier or an abutment die (R357). -/
def wfLogic (i : Nat) : Bool := decide (i < 16 + Config.abutments)
/-- The parameters of a CACHE_RANGE are 64-bit numbers (R234). -/
def wfRange (r : Req) (start len : Nat) : Bool := wfReq r && decide (start < 2 ^ 64) && decide (len < 2 ^ 64)
/-- A host access of up to 64 B in the remote aperture (R237). -/
def wfHostAcc (hart addr size : Nat) : Bool :=
  decide (hart < Config.harts) && decide (addr + size ≤ Config.physEnd) && decide (1 ≤ size) && decide (size ≤ 64)
/-- An LR, SC or AMO of a host core: a word or a doubleword, and an AMO's operation by its funct5. -/
def wfHostAmo (k : AccKind) (width : Nat) : Bool :=
  (width == 4 || width == 8) && (match k with
    | .lr | .sc => true
    | .amo op => [0, 1, 4, 8, 0xC, 0x10, 0x14, 0x18, 0x1C].contains op
    | _ => false)
/-- A LAUNCH header within the ranges of R322. -/
def wfHdr (h : LaunchHdr) : Bool :=
  decide (h.lid < 2 ^ 32) && decide (1 ≤ h.attempt) && decide (h.attempt ≤ 3) && decide (h.startTick < 2 ^ 64) &&
    decide (h.issueTick < 2 ^ 64) && decide (h.root < 2 ^ 20) && decide (h.excl.length ≤ 256) &&
    h.excl.all (fun v => decide (v < 2 ^ 20)) && decide (h.job < 65536) && decide (h.jdata.length ≤ 2048)
/-- A need of wear management names a resource of its kind within its scope (R411, R414). -/
def wfNeed (n : Need) : Bool :=
  match n.kind with
  | 1 => wfTile n.res && n.scope == n.res / Config.tilesPerDeck
  | 2 => wfPair (n.scope / 128) (n.scope / 2 % 64) && decide (n.res ≤ 68)
  | 3 => decide (n.scope < Config.ports) && decide (n.res < 9)
  | 4 => decide (n.res < Config.ports) && n.scope == n.res / 12
  | 5 => n.scope == 0 && decide (n.res < 68)
  | 6 => decide (n.scope < 4) && decide (n.res < 17)
  | _ => false

/-- A command's operands name units that the machine has and fit their widths. -/
def wellFormed (i : Instr) : Bool :=
  match i with
  | .csrAccess t _ _ rd rs => wfTile t && decide (rd < 32) && decide (rs < 32)
  | .spindleLoadStore t _ width _ _ rd rs ilen _ =>
    wfTile t && (width == 1 || width == 2 || width == 4) && (ilen == 2 || ilen == 4) && decide (rd < 32) && decide (rs < 32)
  | .ecall t => wfTile t
  | .ebreak t => wfTile t
  | .mret t => wfTile t
  | .wfi t => wfTile t
  | .eventDelivery t _ => wfTile t
  | .qpush _ t q _ => wfQueue t q
  | .exit _ t _ => wfTile t
  | .exitDrained t => wfTile t
  | .qcrWrite _ t q _ => wfQueue t q
  | .rxcfgWrite _ t n _ => wfQueue t n
  | .rxtailWrite _ t n _ => wfQueue t n
  | .pendSet _ t _ _ => wfTile t
  | .pendClr _ t _ _ _ => wfTile t
  | .maskSet _ t _ _ => wfTile t
  | .maskClr _ t _ _ _ => wfTile t
  | .tmarkWrite _ t _ => wfTile t
  | .cntrstWrite _ addr _ _ => decide (addr < Config.physEnd)
  | .dmiHaltreq t => wfTile t
  | .dmiResumereq t => wfTile t
  | .dmiAbstractCommand t _ => wfTile t
  | .ringctlWrite _ => true
  | .ringtailWrite _ => true
  | .wayctlDisableWrite p _ => decide (p < 4)
  | .wayctlEnableWrite p _ => decide (p < 4)
  | .hostintCtlWrite n _ _ => decide (n < 256)
  | .importOpen w _ => decide (w < 4096)
  | .exportEntryWrite e size _ => decide (e < 4096) && (size == 4 || size == 8)
  | .talcyTriggerWrite _ => true
  | .registerWrite addr size _ =>
    (size == 4 || size == 8) && addr % size == 0 && decide (0x400000000000 ≤ addr) && decide (addr < 0x500000000000)
  | .qstatRead _ t q _ => wfQueue t q
  | .rxrefRead _ t n _ _ => wfQueue t n
  | .overflowRead _ => true
  | .memchStatusRead ch _ => wfChan ch
  | .errcntRead ch _ _ _ => wfChan ch
  | .waystatRead p _ => decide (p < 4)
  | .pcacheErrRead p _ _ _ _ => decide (p < 4)
  | .homearbStatusRead a _ => decide (a < Config.abutments)
  | .bstatRead l n _ => wfPair l n
  | .nodeRefuseRead _ => true
  | .oportErrRead p _ _ => decide (p < Config.ports)
  | .jobMissedRead _ => true
  | .jobFlagsRead _ => true
  | .droopRead _ => true
  | .overcapRead _ => true
  | .tripRead => true
  | .tempRead i => decide (i < 36)
  | .bootCauseRead _ => true
  | .dierstRead _ => true
  | .talcyStatusRead _ => true
  | .cntctlFreezeRead _ => true
  | .wearUnmetRead _ => true
  | .belulErrRead c _ _ => decide (c < 3)
  | .cntloRead _ addr => decide (addr < Config.physEnd) && addr % 16 == 0
  | .tickNumloRead => true
  | .jobTickloRead => true
  | .frztickloRead => true
  | .descriptorStart t q => wfQueue t q
  | .fenceComplete t q => wfQueue t q
  | .latheBlockDone t => wfTile t
  | .chainChunkDone t _ => wfTile t
  | .chainPassEnd t _ => wfTile t
  | .moverCopyChunk t q _ => wfQueue t q
  | .moverFillChunk t q _ => wfQueue t q
  | .moverAtomicChunk t q _ => wfQueue t q
  | .sendMessage t q => wfQueue t q
  | .moverAck t q _ => wfQueue t q
  | .moverChunkDone t q _ => wfQueue t q
  | .completionPost t q _ => wfQueue t q
  | .storeCorrectiveWrite t w => wfTile t && decide (8 * w < Config.storeBytes)
  | .leaseRequest t q => wfQueue t q
  | .keystoneWalkComplete t q => wfQueue t q
  | .recall t q tag => wfQueue t q && decide (tag < 4096)
  | .recallAck t q _ => wfQueue t q
  | .invalidateComplete handle => decide (handle < 2 ^ 32)
  | .walkerParityError walker t q => wfQueue t q && decide (walker < 68)
  | .spaceBind r _ _ => wfReq r
  | .spaceUnbind r _ => wfReq r
  | .invalidate r _ => wfReq r
  | .faultRing r _ _ _ => wfReq r
  | .faultResolve r _ _ _ => wfReq r
  | .probe r _ _ => wfReq r
  | .keystoneStatus r => wfReq r
  | .storeFillComplete t => wfTile t
  | .stopDrainStart t => wfTile t
  | .drainComplete t => wfTile t
  | .tileReset r _ => wfReq r
  | .tileLoad r _ va len off tag =>
    wfReq r && decide (va < 2 ^ 64) && decide (len < 2 ^ 32) && decide (off < 2 ^ 32) && decide (tag < 2 ^ 16)
  | .tileStart r _ tag entry arg => wfReq r && decide (tag < 2 ^ 16) && decide (entry < 2 ^ 32) && decide (arg < 2 ^ 32)
  | .tileStop r _ => wfReq r
  | .tileStatus r tile => wfReq r && decide (tile < 2 ^ 16)
  | .tileHalt r _ => wfReq r
  | .tileResume r _ => wfReq r
  | .tileTest r _ => wfReq r
  | .msgDataDelivery m _ => wfMsgSrc m
  | .msgSignalDelivery m => wfMsgSrc m
  | .deliveryRefusal _ _ => true
  | .msgRetry _ => true
  | .memoryRead cw _ _ => wfCw cw
  | .memoryWrite cw _ _ => wfCw cw
  | .codewordCorrectiveWrite cw => wfCw cw
  | .patrolScrub _ _ => true
  | .rowRepair ch _ => wfChan ch
  | .hotWindowEnd => true
  | .refresh ch => wfChan ch
  | .stackTempRead st _ => decide (st < Config.hbmStacks)
  | .hbmCalibration ch => wfChan ch
  | .memoryInit r mode rate _ _ => wfReq r && decide (mode < 256) && decide (rate < 256)
  | .memoryInitComplete rate failed _ => decide (rate < 3) && failed.all (fun st => decide (st < Config.hbmStacks))
  | .memoryStatus r => wfReq r
  | .retiredList r buf => wfReq r && decide (buf < 2 ^ 64)
  | .scrubSet r _ period => wfReq r && decide (period < 256)
  | .memTraffic r _ => wfReq r
  | .memTrafficComplete chs _ => chs.all wfChan
  | .pierRead p _ _ _ => decide (p < 4)
  | .fillReturn p _ _ _ => decide (p < 4)
  | .pierWrite p _ _ _ => decide (p < 4)
  | .mergeAgeDrain p _ _ => decide (p < 4)
  | .adderOperation addr _ _ _ _ => decide (addr < Config.physEnd)
  | .adderStoreEvict ch _ _ => decide (ch < Config.channels)
  | .cacheRangeInvalidate r start len => wfRange r start len
  | .cacheRangeDrainMerge r start len => wfRange r start len
  | .cacheRangePrefetch r start len => wfRange r start len
  | .cacheRangeLock r start len => wfRange r start len
  | .cacheRangeUnlock r start len => wfRange r start len
  | .cacheRangeComplete p _ => decide (p < 4)
  | .cacheWayInvalidate r p w => wfReq r && decide (p < 256) && decide (w < 256)
  | .cacheWayEnable r p w => wfReq r && decide (p < 256) && decide (w < 256)
  | .cacheWayDisable r p w => wfReq r && decide (p < 256) && decide (w < 256)
  | .wayPowerDownComplete p w _ => decide (p < 4) && decide (w < 17)
  | .cacheStatus r p => wfReq r && decide (p < 256)
  | .gets cl line => decide (cl < Config.clusters) && wfPool (64 * line)
  | .getm cl line => decide (cl < Config.clusters) && wfPool (64 * line)
  | .tread _ line => wfPool (64 * line)
  | .twrite _ line _ _ => wfPool (64 * line)
  | .top _ addr _ _ _ => wfPool addr
  | .fwdgets cl line _ => decide (cl < Config.clusters) && wfPool (64 * line)
  | .fwdgetm cl line req => decide (cl < Config.clusters) && wfPool (64 * line) && decide (req < Config.clusters)
  | .fwdinv cl line => decide (cl < Config.clusters) && wfPool (64 * line)
  | .inv cl line => decide (cl < Config.clusters) && wfPool (64 * line)
  | .data cl line _ _ _ => decide (cl < Config.clusters) && wfPool (64 * line)
  | .ack cl line => decide (cl < Config.clusters) && wfPool (64 * line)
  | .wback cl line => decide (cl < Config.clusters) && wfPool (64 * line)
  | .done line => wfPool (64 * line)
  | .putm cl line _ _ => decide (cl < Config.clusters) && wfPool (64 * line)
  | .downwb cl line _ _ => decide (cl < Config.clusters) && wfPool (64 * line)
  | .hostApertureLoad hart addr size _ => wfHostAcc hart addr size
  | .hostApertureStore hart addr size _ _ => wfHostAcc hart addr size
  | .hostApertureAmo hart addr k width _ => wfHostAcc hart addr width && wfHostAmo k width
  | .seteipnumWrite addr _ => decide (addr < Config.physEnd)
  | .pciePortEvent port => decide (port < Config.pciePorts)
  | .trussReplay l n _ count => wfPair l n && decide (count < 512)
  | .linkup l n _ _ _ => wfPair l n
  | .mapfault l n => wfPair l n
  | .bundleTrainingDone l n _ _ _ _ _ => wfPair l n
  | .dieResetResponse who =>
    (match who with
      | .mover t q _ _ => wfQueue t q
      | .hart h a => decide (h < Config.harts) && decide (a < Config.physEnd))
  | .dieLinkStatus r l => wfReq r && decide (l < 2 ^ 16)
  | .dieLinkRetrain r l n => wfReq r && decide (l < 2 ^ 16) && decide (n < 2 ^ 16)
  | .flitForward port p => decide (port < Config.ports) && decide (p.plane = port / 12)
  | .flitReplay port fseq => decide (port < Config.ports) && decide (fseq < 1024)
  | .linkdown port => decide (port < Config.ports)
  | .peerid port _ phys peerPort _ => decide (port < Config.ports) && decide (phys < 2 ^ 20) && decide (peerPort < 64)
  | .portTrainingDone port _ _ => decide (port < Config.ports)
  | .waveErrorWindow port _ => decide (port < Config.ports)
  | .laserFailure port => decide (port < Config.ports)
  | .remoteRead port p => decide (port < Config.ports) && p.cls == 0 && p.typ == 1
  | .remoteWrite port p => decide (port < Config.ports) && p.cls == 0 && p.typ == 2
  | .remoteAtomic port p => decide (port < Config.ports) && p.cls == 0 && p.typ == 3
  | .rspData port p => decide (port < Config.ports) && p.cls == 1 && p.typ == 1
  | .rspAck port p => decide (port < Config.ports) && p.cls == 1 && p.typ == 2
  | .rspNack port p => decide (port < Config.ports) && p.cls == 1 && p.typ == 3
  | .remoteTimeout tag => decide (tag < 65536)
  | .portStatus r port => wfReq r && decide (port < 2 ^ 16)
  | .portOpen r port => wfReq r && decide (port < 2 ^ 16)
  | .portRetrain r port => wfReq r && decide (port < 2 ^ 16)
  | .nodeRole r logical epoch _ => wfReq r && decide (logical < 2 ^ 24) && decide (epoch < 2 ^ 8)
  | .routeLoad r phys _ _ _ _ _ => wfReq r && decide (phys < 2 ^ 20)
  | .nodemapSync r base len => wfReq r && decide (base < 2 ^ 48) && decide (len < 2 ^ 32)
  | .windowSet r w base size _ _ _ _ _ => wfReq r && decide (w < 2 ^ 16) && decide (base < 2 ^ 48) && decide (size < 2 ^ 8)
  | .windowClose r w => wfReq r && decide (w < 2 ^ 16)
  | .windowCloseComplete w => decide (w < 4096)
  | .exportSet r e node w _ => wfReq r && decide (e < 2 ^ 16) && decide (node < 2 ^ 32) && decide (w < 2 ^ 16)
  | .spanTickBoundary predict estimate floor => predict.length == 64 && decide (estimate < 65536) && decide (floor < 65536)
  | .timesyncSend port t1 => decide (port < Config.ports) && decide (t1 < 2 ^ 64)
  | .timesync port _ _ _ _ _ => decide (port < Config.ports)
  | .heartbeat port h => decide (port < Config.ports) && decide (h.phys < 2 ^ 20)
  | .flood port bound origin kind cause job =>
    decide (port < Config.ports) && decide (bound < 2 ^ 32) && decide (origin < 2 ^ 20) && (kind == 1 || kind == 2) &&
      decide (cause < 256) && decide (job < 65536)
  | .parentUsable port _ => decide (port < Config.ports)
  | .tickLockAcquired => true
  | .parentLost next =>
    (match next with
      | some p => decide (p < Config.ports)
      | none => true)
  | .holdoverUnaligned => true
  | .tickLost => true
  | .nodeLost phys => decide (phys < 2 ^ 20)
  | .stepTimeout _ _ => true
  | .collData port p => decide (port < Config.ports) && p.cls == 3
  | .collComplete => true
  | .launch port h => decide (port < Config.ports) && wfHdr h
  | .launchAck port a => decide (port < Config.ports) && decide (a.entries.length ≤ 16) && decide (a.phys < 2 ^ 20)
  | .launchAckDeadline => true
  | .launchAttemptEnd => true
  | .jobLaunch r h => wfReq r && h.excl.all fun v => decide (v < 2 ^ 20)
  | .jobEnd r => wfReq r
  | .jobStatus r => wfReq r
  | .collPost r addr => wfReq r && decide (addr < 2 ^ 64)
  | .tickConfig r _ p0 p1 p2 p3 => wfReq r && [p0, p1, p2, p3].all fun p => decide (p < 64)
  | .belulCommit c n _ => decide (c < 3) && decide (n < 32)
  | .deviceInfo r => wfReq r
  | .tileMap r => wfReq r
  | .spareState r => wfReq r
  | .degraded r => wfReq r
  | .nop r _ => wfReq r
  | .opQuery r _ => wfReq r
  | .opAbort r _ pos => wfReq r && decide (pos < 2 ^ 64)
  | .opList r => wfReq r
  | .pciePort r port mode width => wfReq r && decide (port < 256) && decide (mode < 256) && decide (width < 256)
  | .configRead r => wfReq r
  | .powerCap r cap window => wfReq r && decide (cap < 2 ^ 32) && decide (window < 2 ^ 32)
  | .powerState r target => wfReq r && decide (target < 256)
  | .clusterPark r die _ => wfReq r && decide (die < 256)
  | .clusterUnpark r die _ => wfReq r && decide (die < 256)
  | .dvfsSet r decks clusters => wfReq r && decks.length == 12 && clusters.length == Config.clusters
  | .powerStatus r => wfReq r
  | .counterSnapshot r _ _ _ => wfReq r
  | .freeze r _ _ _ => wfReq r
  | .freezePacket port _ _ _ => decide (port < Config.ports)
  | .haltPacket port _ origin job action =>
    decide (port < Config.ports) && decide (origin < 2 ^ 20) && decide (job < 65536) && (action == 1 || action == 2)
  | .traceConfig r _ => wfReq r
  | .traceArm r => wfReq r
  | .traceStop r => wfReq r
  | .traceUnitStop p => decide (p < 4)
  | .pcSample t => wfTile t
  | .counterThreshold t n => wfTile t && decide (n < 4)
  | .eventRead r _ _ => wfReq r
  | .haltGroup r _ scope action => wfReq r && decide (scope < 256) && decide (action < 256)
  | .fwInfo r => wfReq r
  | .fwUpdate r src => wfReq r && (match src with
      | .pool a n => r.client == 0 && decide (a < 2 ^ 64) && decide (n < 2 ^ 32)
      | .outside _ => r.client != 0)
  | .fwRecoveryLoad r off _ _ _ => wfReq r && decide (off < 2 ^ 32)
  | .recoverySessionTimeout => true
  | .fwActivate r => wfReq r
  | .recordRead r kind first => wfReq r && decide (kind < 256) && decide (first < 2 ^ 32)
  | .idCert r off => wfReq r && decide (off < 2 ^ 32)
  | .attest r _ _ => wfReq r
  | .measureLog r off => wfReq r && decide (off < 2 ^ 32)
  | .i3cPrivateWrite _ bytes => decide (bytes.length ≤ 4096)
  | .i3cPrivateRead n => decide (n ≤ 4096)
  | .entdaa _ => true
  | .rstdaa => true
  | .setnewda _ => true
  | .getpid => true
  | .getbcr => true
  | .getdcr => true
  | .getstatus => true
  | .getmwl => true
  | .getmrl => true
  | .enec => true
  | .disec => true
  | .rstact _ => true
  | .powerCalibration measured gains => decide (measured < 65536) && gains.all fun e => wfDie e.1
  | .dvfsAdjust => true
  | .droopClamp _ => true
  | .clampRelease minv _ => decide (minv < 1024)
  | .supply => true
  | .monitorFault => true
  | .thermalSample i _ => wfLogic i || i == 36
  | .thermalTrip i _ => wfLogic i || (decide (20 ≤ i) && decide (i < 20 + Config.hbmStacks))
  | .localLoopUpdate p => decide (p < 4)
  | .mgrLost p => decide (p < 4)
  | .powerWake src => decide (src < 4)
  | .powerOn => true
  | .external => true
  | .modResetRelease => true
  | .watchdog => true
  | .moduleStart i =>
    i.features.length == (16 + Config.abutments) && i.revs.length == (16 + Config.abutments) && decide (i.image.length ≤ 262144) &&
      decide (i.memRate < 3) && i.failStep.all fun n => decide (5 ≤ n) && decide (n ≤ 10)
  | .failstreakClear => true
  | .deckDieReset n _ => decide (n < 12)
  | .abutmentDieReset a _ => decide (1 ≤ a) && decide (a < Config.abutments)
  | .recordCompaction => true
  | .ageingSweep x => x.tiles.all wfTile && x.lanes.all (fun l => wfPair (l.1 / 128) (l.1 / 2 % 64) && decide (l.2 < 68)) &&
      x.lasers.all fun p => decide (p < Config.ports)
  | .substitution n _ => wfNeed n
  | .wayInvalidateComplete p w => decide (p < 4) && decide (w < 17)
  | .nodemapSyncComplete => true
  | .fwUpdateComplete _ => true
  | .tileTestComplete failing => failing.all wfTile
  | .portLossOfLock port => decide (port < Config.ports)
  | .flitCheckFailure port fseq _ => decide (port < Config.ports) && decide (fseq < 1024)
  | .bundleHeaderParityError bond l n _ count => (if bond then decide (l < 12) else wfPair l n) && decide (count < 512)
  | .hostClusterStateError a c => decide (a < Config.abutments) && decide (c < 12)
  | .laneEyeCheckFailure l n _ lane _ => wfPair l n && decide (lane < 68)
  | .pierFatalError p => decide (p < 5)
  | .stbyPowerLoss => true
  | .pcieWindowAccess hostint write hart addr size _ _ =>
    decide (0x500000000000 ≤ addr) && decide (addr < 0x580000000000) && decide (hart < Config.harts) &&
      (if hostint then write && size == 4 else size == 4 || size == 8) && addr % size == 0

end Sys2Proof
end

