-- ==== Sys2Proof/Safety.lean ====
section
/-!
DEFINITION. What claims are made of: a command that completes with an effect, the parts of the state and what a command may change of
them, and the invariant of the node.
-/

namespace Sys2Proof.Machine
open Sys2Proof

/-- A command completes: `exec` answers a next state, and that state is as `P` says. -/
def Completes (i : Instr) (s : State) (P : State → Prop) : Prop := ∃ t, exec i s = .next t ∧ P t

/-- Queue `q` of tile `t` holds the descriptor of a sequence number, and it is as `P` says. -/
def HasEntry (s : State) (t q : Nat) (seq : W32) (P : QEntry → Prop) : Prop :=
  ∃ e, e ∈ (s.queue t q).entries ∧ e.seq = seq ∧ P e

/-- A Belul slot holds the command of an opcode, picked up as `p`, with no reserved parameter bit set and no poisoned parameter, and the
module is in S0: the command's own row is next (R333, R334, R444). -/
abbrev Ready (r : Req) (op : Nat) (p : Picked) (s : State) : Prop :=
  wfReq r = true ∧ r.rsv = false ∧ r.poison = false ∧ s.power.idle = .s0 ∧ (s.slot r.client r.slot).picked = some p ∧ p.opcode = op

/-- A command is accepted as a long operation (R338): its ACCEPTED reply names the handle, the progress unit and the total. -/
def Accepted (u : State) (r : Req) (p : Picked) (punit total : Nat) : Prop :=
  let x := (u.slot r.client r.slot).reply
  x.status = 0x0001 ∧ x.long = true ∧ x.final = false ∧ x.handle = handleOf r.client r.slot p.seq ∧ x.punit = punit ∧ x.total = total ∧
    (u.op (handleOf r.client r.slot p.seq)).isSome = true

/-- A long operation of state `s` is over in state `u` (R338): its handle names none, and the slot that waited for it holds its FINAL reply. -/
def Finished (s u : State) (o : LongOp) (status : Nat) (data : List (Nat × Nat)) : Prop :=
  u.op o.handle = none ∧ ((s.slot o.client o.slot).running.isSome = true →
    let x := (u.slot o.client o.slot).reply
    x.status = status ∧ x.final = true ∧ x.data = data ∧ x.handle = o.handle ∧ (u.slot o.client o.slot).busy = false)

/-- A command is answered at once (R336, R338): its slot holds the FINAL reply and is free. -/
def Replied (u : State) (r : Req) (status : Nat) (data : List (Nat × Nat)) : Prop :=
  let x := (u.slot r.client r.slot).reply
  x.status = status ∧ x.final = true ∧ x.data = data ∧ (u.slot r.client r.slot).busy = false

/-- Port `x` is the only one toward a node that serves, and nothing waits or is unanswered there: a packet to the node leaves on it at once
(R290, R291). -/
abbrev WayOut (s : State) (x phys : Nat) : Prop :=
  x < Config.ports ∧ s.serves 0 x = true ∧ (s.port x).gen8 = false ∧ routeDir s.node phys = some (dirOf x) ∧
    (∀ y, y < Config.ports → dirOf y = dirOf x → y ≠ x → s.serves 0 y = false) ∧
    (s.port x).queue = [] ∧ (s.port x).used = [] ∧ (s.port x).unacked = []

/-- The packet that has left last, on port `x`, is as `P` says. -/
def LeftLast (u : State) (x : Nat) (P : Pkt → Prop) : Prop := ∃ q h rest, u.out = .pkt x q h :: rest ∧ P q

/-- A codeword of the pool that is in no cache, buffer or adder store, and without error or poison. -/
abbrev PlainCw (s : State) (cw : Nat) : Prop :=
  s.poolServes cw = true ∧ (s.pier (s.home (64 * cw))).find (cw / 2) = none ∧ (s.pier (s.home (64 * cw))).entry (cw / 2) = none ∧
    s.adderEntry cw = none ∧ Tab.get 0 s.pool.err cw = 0 ∧ Tab.get false s.pool.poison cw = false

/-- A line that its home pier's merging buffer takes a write of, without a drain (R218). -/
abbrev Mergeable (s : State) (line : Nat) : Prop :=
  let P := s.pier (s.home (128 * line))
  P.entry line = none ∧ P.merges.length < 895 ∧ ∀ f ∈ P.fills, f.cw / 2 ≠ line

/-! ### Parts of the state -/

/-- The parts of the state by which a frame is stated. `msgs` stands for the messages in flight and their counter, and `events` for the
event log and its next index. -/
inductive Part
  | tiles | msgs | ks | pool | chans | piers | clusters | arbs | hostint | imsic | pairs | truss | degraded | node | tick | job
  | belul | i3c | power | boot | ctrs | talcy | wear | upper | portCfg | events | rdata | out | free | pending
  deriving DecidableEq, Repr

/-- Two states agree in a part. -/
def Same (p : Part) (s t : State) : Prop :=
  match p with
  | .tiles => t.tiles = s.tiles
  | .msgs => t.msgs = s.msgs ∧ t.msgId = s.msgId
  | .ks => t.ks = s.ks
  | .pool => t.pool = s.pool
  | .chans => t.chans = s.chans
  | .piers => t.piers = s.piers
  | .clusters => t.clusters = s.clusters
  | .arbs => t.arbs = s.arbs
  | .hostint => t.hostint = s.hostint
  | .imsic => t.imsic = s.imsic
  | .pairs => t.pairs = s.pairs
  | .truss => t.truss = s.truss
  | .degraded => t.degraded = s.degraded
  | .node => t.node = s.node
  | .tick => t.tick = s.tick
  | .job => t.job = s.job
  | .belul => t.belul = s.belul
  | .i3c => t.i3c = s.i3c
  | .power => t.power = s.power
  | .boot => t.boot = s.boot
  | .ctrs => t.ctrs = s.ctrs
  | .talcy => t.talcy = s.talcy
  | .wear => t.wear = s.wear
  | .upper => t.upper = s.upper
  | .portCfg => t.portCfg = s.portCfg
  | .events => t.events = s.events ∧ t.nextEvent = s.nextEvent
  | .rdata => t.rdata = s.rdata
  | .out => t.out = s.out
  | .free => t.free = s.free
  | .pending => t.pending = s.pending

/-- A state agrees with another in every part that a list does not name. -/
def SameBut (l : List Part) (s t : State) : Prop := ∀ p, p ∉ l → Same p s t

/-! ### Frames -/

/-- What a packet on its way through Truss may change (R257–R262): its ports and bundles, and their counters. -/
def crossParts : List Part := [.ctrs, .free, .truss]

/-- What raising an entry of HOSTINT may change: the entry, an interrupt file, or a Belul bad commit of the window it writes through. -/
def postParts : List Part := crossParts ++ [.hostint, .imsic, .belul, .out]

/-- What an event in the log and its record may change (R398, R419). -/
def logParts : List Part := postParts ++ [.boot, .events]

/-- What a reply may change: its slot, a reply buffer in the pool with the arbiter, clusters, pier and channel it passes, and a posting
(R253, R336, R342). -/
def replyParts : List Part := logParts ++ [.arbs, .chans, .clusters, .piers, .pool]

/-- The parts of the state that a command may change; it leaves every other part as it was. -/
def mayChange (i : Instr) : List Part :=
  match i with
  | .csrAccess .. | .ecall .. | .ebreak .. | .mret .. | .wfi .. | .dmiHaltreq .. =>
    logParts ++ [.tiles, .pool, .chans, .piers, .node, .job, .talcy]
  | .spindleLoadStore .. =>
    logParts ++ [.tiles, .pool, .chans, .piers, .node, .job, .talcy, .wear, .rdata]
  | .eventDelivery .. =>
    [.tiles, .ctrs, .talcy]
  | .qpush .. | .exit .. | .qcrWrite .. | .rxcfgWrite .. | .rxtailWrite .. | .pendSet .. | .pendClr .. | .maskSet .. | .maskClr ..
  | .dmiResumereq .. | .storeCorrectiveWrite .. | .stopDrainStart .. =>
    [.tiles]
  | .exitDrained .. | .tileStop .. | .tileResume .. | .opAbort .. =>
    replyParts ++ [.tiles]
  | .tmarkWrite .. | .talcyTriggerWrite .. =>
    logParts ++ [.pool, .chans, .piers, .node, .talcy]
  | .cntrstWrite .. | .refresh .. =>
    [.ctrs]
  | .dmiAbstractCommand .. =>
    logParts ++ [.tiles, .pool, .chans, .piers, .node, .talcy, .wear, .rdata]
  | .ringctlWrite .. | .ringtailWrite .. | .faultRing .. =>
    replyParts ++ [.tiles, .ks]
  | .wayctlDisableWrite .. | .wayctlEnableWrite .. =>
    [.piers]
  | .hostintCtlWrite .. | .pciePortEvent .. =>
    postParts
  | .importOpen .. | .exportEntryWrite .. =>
    [.node]
  | .registerWrite .. | .hostApertureStore .. =>
    replyParts ++ [.tiles, .ks, .node, .job, .power, .talcy, .wear, .upper, .rdata]
  | .qstatRead .. | .rxrefRead .. =>
    [.tiles, .rdata]
  | .overflowRead .. =>
    [.ks, .rdata]
  | .memchStatusRead .. | .errcntRead .. =>
    [.chans, .rdata]
  | .waystatRead .. | .pcacheErrRead .. =>
    [.piers, .rdata]
  | .homearbStatusRead .. =>
    [.arbs, .rdata]
  | .bstatRead .. =>
    [.pairs, .rdata]
  | .nodeRefuseRead .. | .oportErrRead .. =>
    [.node, .rdata]
  | .jobMissedRead .. | .jobFlagsRead .. | .jobTickloRead .. =>
    [.job, .rdata]
  | .droopRead .. | .overcapRead .. | .tripRead .. | .tempRead .. =>
    [.power, .rdata]
  | .bootCauseRead .. | .dierstRead .. =>
    [.boot, .rdata]
  | .talcyStatusRead .. =>
    [.talcy, .rdata]
  | .cntctlFreezeRead .. | .frztickloRead .. =>
    [.ctrs, .rdata]
  | .wearUnmetRead .. =>
    [.wear, .rdata]
  | .belulErrRead .. =>
    [.belul, .rdata]
  | .cntloRead .. =>
    [.ctrs, .rdata, .free]
  | .tickNumloRead .. =>
    [.tick, .rdata]
  | .descriptorStart .. | .latheBlockDone .. =>
    logParts ++ [.tiles, .talcy, .wear]
  | .fenceComplete .. =>
    [.tiles, .belul, .talcy]
  | .chainChunkDone .. | .chainPassEnd .. | .moverCopyChunk .. | .moverFillChunk .. | .moverAtomicChunk .. =>
    replyParts ++ [.tiles, .node, .talcy, .wear]
  | .sendMessage .. =>
    replyParts ++ [.tiles, .msgs, .node, .talcy, .wear]
  | .moverAck .. | .ageingSweep .. | .laneEyeCheckFailure .. =>
    logParts ++ [.tiles, .wear]
  | .moverChunkDone .. =>
    [.tiles, .belul, .ctrs, .talcy]
  | .completionPost .. | .counterThreshold .. =>
    logParts ++ [.tiles, .pool, .chans, .piers, .node, .talcy]
  | .leaseRequest .. | .keystoneWalkComplete .. =>
    replyParts ++ [.tiles, .ks, .node, .talcy]
  | .recall .. | .recallAck .. =>
    crossParts ++ [.tiles, .belul, .talcy]
  | .invalidateComplete .. | .spaceBind .. | .spaceUnbind .. | .invalidate .. =>
    replyParts ++ [.ks, .talcy]
  | .walkerParityError .. =>
    logParts ++ [.tiles, .ks, .wear]
  | .faultResolve .. | .tileReset .. =>
    replyParts ++ [.tiles, .ks, .talcy]
  | .probe .. | .keystoneStatus .. | .tileStatus .. | .tileTest .. | .memoryInit .. | .memoryInitComplete .. | .memoryStatus ..
  | .retiredList .. | .scrubSet .. | .memTraffic .. | .memTrafficComplete .. | .cacheRangeInvalidate .. | .cacheRangeDrainMerge ..
  | .cacheRangePrefetch .. | .cacheRangeLock .. | .cacheRangeUnlock .. | .cacheRangeComplete .. | .cacheWayInvalidate ..
  | .cacheWayEnable .. | .cacheWayDisable .. | .wayPowerDownComplete .. | .cacheStatus .. | .getm .. | .wback .. | .putm ..
  | .dieLinkStatus .. | .portStatus .. | .jobStatus .. | .belulCommit .. | .deviceInfo .. | .tileMap .. | .spareState .. | .degraded ..
  | .nop .. | .opQuery .. | .opList .. | .pciePort .. | .configRead .. | .clusterPark .. | .clusterUnpark .. | .powerStatus ..
  | .counterSnapshot .. | .eventRead .. | .fwInfo .. | .fwUpdate .. | .recordRead .. | .idCert .. | .attest .. | .measureLog ..
  | .wayInvalidateComplete .. | .fwUpdateComplete .. | .tileTestComplete .. | .hostClusterStateError .. =>
    replyParts
  | .storeFillComplete .. | .tileLoad .. =>
    replyParts ++ [.tiles, .ks, .node, .talcy, .wear]
  | .drainComplete .. =>
    replyParts ++ [.tiles, .ks, .node, .job, .talcy, .wear]
  | .tileStart .. =>
    replyParts ++ [.tiles, .talcy]
  | .tileHalt .. | .haltGroup .. =>
    replyParts ++ [.tiles, .node, .job, .talcy]
  | .msgDataDelivery .. =>
    logParts ++ [.tiles, .msgs, .node, .talcy, .wear]
  | .msgSignalDelivery .. =>
    crossParts ++ [.tiles, .msgs, .node, .talcy, .out]
  | .deliveryRefusal .. =>
    [.tiles, .msgs, .ctrs, .talcy]
  | .msgRetry .. =>
    replyParts ++ [.tiles, .msgs, .node, .talcy]
  | .memoryRead .. | .memoryWrite .. | .patrolScrub .. | .rowRepair .. =>
    logParts ++ [.pool, .chans]
  | .codewordCorrectiveWrite .. =>
    [.pool, .chans, .ctrs, .free]
  | .hotWindowEnd .. =>
    postParts ++ [.pool, .chans, .events]
  | .stackTempRead .. =>
    logParts ++ [.tiles, .pool, .chans, .piers, .node, .job, .power]
  | .hbmCalibration .. =>
    []
  | .pierRead .. | .mergeAgeDrain .. | .adderOperation .. | .adderStoreEvict .. =>
    logParts ++ [.tiles, .pool, .chans, .piers, .wear]
  | .fillReturn .. | .pierWrite .. =>
    logParts ++ [.pool, .chans, .piers]
  | .gets .. | .tread .. | .twrite .. | .top .. =>
    logParts ++ [.pool, .chans, .piers, .arbs]
  | .fwdgets .. | .fwdgetm .. | .fwdinv .. | .inv .. | .hostApertureAmo .. =>
    crossParts ++ [.clusters, .out]
  | .data .. =>
    logParts ++ [.clusters]
  | .ack .. | .done .. | .downwb .. | .hostApertureLoad .. | .linkdown .. | .peerid .. | .portTrainingDone .. | .remoteRead ..
  | .remoteWrite .. | .remoteAtomic .. | .portOpen .. | .portRetrain .. | .nodeRole .. | .routeLoad .. | .nodemapSync .. | .windowSet ..
  | .windowClose .. | .windowCloseComplete .. | .exportSet .. | .freeze .. | .nodemapSyncComplete .. =>
    replyParts ++ [.node]
  | .seteipnumWrite .. =>
    [.imsic]
  | .trussReplay .. =>
    logParts ++ [.tiles, .pairs, .wear]
  | .linkup .. | .dieLinkRetrain .. =>
    replyParts ++ [.pairs]
  | .mapfault .. =>
    [.pairs, .belul, .out]
  | .bundleTrainingDone .. =>
    replyParts ++ [.tiles, .msgs, .ks, .pairs, .degraded, .node, .tick, .job, .i3c, .power, .talcy, .wear, .upper, .portCfg]
  | .dieResetResponse .. =>
    logParts ++ [.tiles, .clusters]
  | .flitForward .. | .timesyncSend .. | .freezePacket .. =>
    [.node, .ctrs, .out, .free]
  | .flitReplay .. =>
    [.node, .out]
  | .waveErrorWindow .. =>
    logParts ++ [.tiles, .node, .wear]
  | .laserFailure .. =>
    replyParts ++ [.tiles, .node, .wear]
  | .rspData .. | .rspAck .. | .rspNack .. | .remoteTimeout .. =>
    replyParts ++ [.tiles, .msgs, .ks, .node, .talcy, .wear]
  | .spanTickBoundary .. =>
    replyParts ++ [.tiles, .pairs, .node, .tick, .job, .power, .talcy]
  | .timesync .. =>
    [.node, .tick, .ctrs, .out, .free]
  | .heartbeat .. | .haltPacket .. =>
    postParts ++ [.node, .job, .events]
  | .flood .. | .tickLost .. | .nodeLost .. | .stepTimeout .. | .collData .. | .launch .. =>
    logParts ++ [.tiles, .pool, .chans, .piers, .node, .job]
  | .parentUsable .. | .tickLockAcquired .. | .parentLost .. =>
    [.tick]
  | .holdoverUnaligned .. =>
    postParts ++ [.tick, .events]
  | .collComplete .. =>
    logParts ++ [.tiles, .pool, .chans, .piers, .job]
  | .launchAck .. =>
    [.node, .job, .belul, .ctrs, .out, .free]
  | .launchAckDeadline .. =>
    [.node, .job, .ctrs, .out, .free]
  | .launchAttemptEnd .. =>
    replyParts ++ [.node, .job]
  | .jobLaunch .. | .jobEnd .. =>
    replyParts ++ [.tiles, .node, .job]
  | .collPost .. =>
    replyParts ++ [.job]
  | .tickConfig .. =>
    replyParts ++ [.tick]
  | .powerCap .. | .dvfsSet .. =>
    replyParts ++ [.power]
  | .powerState .. | .thermalTrip .. =>
    replyParts ++ [.tiles, .msgs, .ks, .pairs, .node, .tick, .job, .power, .talcy, .wear, .upper, .portCfg]
  | .traceConfig .. | .traceArm .. | .traceStop .. =>
    replyParts ++ [.talcy]
  | .traceUnitStop .. =>
    postParts ++ [.talcy]
  | .pcSample .. =>
    [.talcy]
  | .fwRecoveryLoad .. | .fwActivate .. | .rstact .. | .supply .. | .powerWake .. | .powerOn .. | .external .. | .watchdog ..
  | .moduleStart .. | .pierFatalError .. | .stbyPowerLoss .. =>
    replyParts ++ [.tiles, .msgs, .ks, .pairs, .node, .tick, .job, .i3c, .power, .talcy, .wear, .upper, .portCfg]
  | .recoverySessionTimeout .. | .modResetRelease .. | .failstreakClear .. | .recordCompaction .. =>
    [.boot]
  | .i3cPrivateWrite .. =>
    replyParts ++ [.i3c]
  | .i3cPrivateRead .. =>
    [.belul, .i3c, .out]
  | .entdaa .. | .rstdaa .. | .setnewda .. | .enec .. | .disec .. =>
    [.i3c]
  | .getpid .. | .getbcr .. | .getdcr .. | .getmwl .. | .getmrl .. =>
    [.out]
  | .getstatus .. =>
    [.out, .free]
  | .powerCalibration .. =>
    postParts ++ [.power, .events]
  | .dvfsAdjust .. =>
    [.power]
  | .droopClamp .. =>
    [.tiles, .power]
  | .clampRelease .. | .monitorFault .. =>
    logParts ++ [.power]
  | .thermalSample .. =>
    logParts ++ [.clusters, .power]
  | .localLoopUpdate .. =>
    [.piers, .power]
  | .mgrLost .. =>
    logParts ++ [.piers, .power]
  | .deckDieReset .. =>
    replyParts ++ [.tiles, .msgs, .ks, .degraded, .node, .talcy, .wear]
  | .abutmentDieReset .. =>
    replyParts ++ [.tiles, .pairs, .degraded, .node, .upper]
  | .substitution .. =>
    logParts ++ [.tiles, .ks, .piers, .pairs, .node, .wear]
  | .portLossOfLock .. | .flitCheckFailure .. =>
    [.node, .belul, .out, .free]
  | .bundleHeaderParityError .. =>
    logParts ++ [.pairs, .degraded]
  | .pcieWindowAccess .. =>
    [.belul, .out, .free]

/-! ### The invariant -/

/-- The event log holds the records before `next`, each under its index in order, and at most 4,096 of them (R398). -/
def LogOk (events : List Event) (next : Nat) : Prop :=
  events.length ≤ 4096 ∧ events.length ≤ next ∧ events.map Event.index = rangeFrom (next - events.length) events.length

/-- The pool's memories are in canonical form, and SCRUBCTL.PERIOD is in its range (R211). -/
def PoolOk (p : Pool) : Prop :=
  Memory.wf p.bytes = true ∧ Tab.wf false p.poison = true ∧ 1 ≤ p.scrubHours ∧ p.scrubHours ≤ 168

/-- FAILSTREAK and the blown version fuses are in their ranges (R375, R385). -/
def BootOk (b : Boot) : Prop := b.failStreak ≤ 2 ∧ b.svnFuse ≤ 64

/-- What holds of the node whatever commands it meets: the log, the pool, at most 16 invalidations in progress (R177), TIMEOUT in its
range (R301), and the counts of a start. -/
def NodeInv (s : State) : Prop :=
  LogOk s.events s.nextEvent ∧ PoolOk s.pool ∧ s.ks.invs.length ≤ 16 ∧ 10 ≤ s.node.timeout ∧ s.node.timeout ≤ 65535 ∧ BootOk s.boot

end Sys2Proof.Machine
end

