-- ==== Sys2Proof/Certificates/Slice0/Obligations.lean ====
section
/-!
DEFINITION. The statements for the provers. A statement about the step of one command ends in the state that `exec` answers; what else
stands is stated once for all commands by `Obligations.CommandFrame`.
-/

open Sys2Proof Sys2Proof.Machine

/-- A step takes the command at the front of the queue: it is `exec` of that command on the state with the queue's rest. -/
def Obligations.StepRunsFront : Prop :=
  ∀ (s : State) (c : Instr) (rest : List Instr), s.pending = c :: rest → step s = exec c { s with pending := rest }

/-- A step on an empty queue idles. This is the model's choice (assumption 1): what the node does of its own accord is a command of the table. -/
def Obligations.IdleStep : Prop :=
  ∀ s : State, s.pending = [] → step s = .next s

/-- Every well-formed command completes, in every state; a command whose operands name a unit that does not exist stops with `noSuchUnit`
(assumption 9). No command is refused. -/
def Obligations.EveryCommandCompletes : Prop :=
  ∀ (i : Instr) (s : State),
    (wellFormed i = true → ∃ t, exec i s = .next t) ∧ (wellFormed i = false → exec i s = .fault .noSuchUnit)

/-- The queue is first in, first out: a step removes its front and adds nothing. -/
def Obligations.QueueFirstInFirstOut : Prop :=
  ∀ (s t : State) (c : Instr) (rest : List Instr), s.pending = c :: rest → step s = .next t → t.pending = rest

/-- The frame of every command: what it may change is in `mayChange`, and every other part of the node is as it was. -/
def Obligations.CommandFrame : Prop :=
  ∀ (i : Instr) (s t : State), exec i s = .next t → SameBut (mayChange i) s t

/-- Every step keeps the invariant: the event log holds consecutive records and at most 4,096 (R398), the pool's bytes and poison are in canonical
form and SCRUBCTL.PERIOD in its range (R211), at most 16 invalidations are in progress (R177), NODE.TIMEOUT is in its range (R301), and FAILSTREAK and
the version fuses are in theirs (R375, R385). -/
def Obligations.StepKeepsInvariant : Prop :=
  ∀ s t : State, NodeInv s → step s = .next t → NodeInv t

/-- The state after reset meets the invariant. -/
def Obligations.ResetMeetsInvariant : Prop :=
  NodeInv State.reset

/-- What reset leaves, by the field tables of the registers: no command waits; every tile is in RESET with an empty queue, SEQ 1 next, no source
pending and every source masked; the Keystone has 64 walkers; the pool is UNINIT; every counter is 0 with SAT and GEN 0; the tick is UNLOCKED and does
not run; there is no job; every slot is free with LASTSEQ 0; every port and pair is down; every window is closed and TIMEOUT is 1,000 ticks; the cap is
5,600 W; and the last module reset is POWER_ON. -/
def Obligations.ResetState : Prop :=
  let s := State.reset
  s.pending = [] ∧
    (∀ t, t < 1296 → (s.tile t).st = .reset ∧ (s.tile t).pend = 0 ∧ (s.tile t).mask = BitVec.allOnes 64 ∧ (s.tile t).curValid = false ∧
      ∀ q, q < 4 → (s.queue t q).entries = [] ∧ (s.queue t q).fault = none ∧ (s.queue t q).nextSeq = 1 ∧ (s.queue t q).lastSeq = 0) ∧
    s.ks.walkers = 64 ∧ s.ks.ringEnable = false ∧ s.ks.head = 0 ∧ s.ks.tail = 0 ∧ (∀ g, s.root g = none) ∧
    s.pool.st = .uninit ∧ s.pool.scrubOn = true ∧ s.pool.scrubHours = 24 ∧
    (∀ a, s.ctr a = { val := 0, sat := false, gen := false }) ∧ s.ctrs.frozen = false ∧
    s.tick.st = 0 ∧ s.tick.running = false ∧ s.job.st = .none ∧
    (∀ c n, (s.slot c n).busy = false ∧ (s.slot c n).lastSeq = 0) ∧
    (∀ p, (s.port p).st = 0) ∧ (∀ l n, (s.pair l n).st = 0) ∧ (∀ w, (s.window w).v = false) ∧ s.node.timeout = 1000 ∧
    s.power.cap = 5600 ∧ s.power.idle = .s0 ∧ s.boot.last = 0 ∧ s.boot.seen = 1

/-- QPUSH queues a descriptor of a running tile (R33), and is refused with source 3 raised where the queue is full, the offset lies beyond
the store or the tile does not run.

TILE.EXIT stops fetch and keeps the code, and a tile whose queues are empty then becomes STOPPED (R52).

Writes of a queue's and a channel's registers (R140, R157): a completion ring moves while the queue is empty, RXCFG configures a channel
that is off and enables it where it is legal, RXTAIL releases slots up to HEAD, and RXREF and QSTAT return their RC fields and clear
them. -/
def Obligations.TileQueuesAndChannels : Prop :=
  (∀ (v : View) (t q : Nat) (val : W32) (s : State), t < 1296 → q < 4 →
    let T := s.tile t
    let Q := T.queue q
    let off := fld val.toNat 7 15 * 128
    (T.st = .run → off < 0x300000 → Q.entries.length < 16 →
      exec (.qpush v t q val) s = .next (s.setTile t
        { T.setQueue q { Q with entries := Q.entries ++ [{ doff := off, seq := Q.nextSeq, ord := T.pushes,
                                                           pushPc := if v = .core then T.core.pc else 0 }],
                                nextSeq := if Q.nextSeq = 0xFFFFFFFF#32 then 1 else Q.nextSeq + 1 } with pushes := T.pushes + 1 })) ∧
    (T.st ≠ .unavailable → T.st ≠ .run ∨ 0x300000 ≤ off ∨ 16 ≤ Q.entries.length →
      exec (.qpush v t q val) s = .next (raiseSrc (s.setQueue t q { Q with refused := true }) t 3))) ∧
  (∀ (v : View) (t : Nat) (code : W32) (s : State), t < 1296 →
    let T := s.tile t
    (T.st = .run → T.exiting = false → T.stopAsked = false →
      exec (.exit v t code) s = .next (s.setTile t
        { T with exiting := true, exitCause := 1, exitCode := code, core := { T.core with fetching := false, waiting := false } })) ∧
    (T.st = .run → T.exiting = true → (∀ q, q < 4 → (T.queue q).entries = []) → (∀ o ∈ s.belul.ops, o.opcode ≠ 0x0C04) →
      exec (.exitDrained t) s = .next (s.setTile t { T with st := .stopped, exiting := false, stopAsked := false }))) ∧
  (∀ (v : View) (t n : Nat) (val : W32) (s : State), t < 1296 → n < 4 → (s.tile t).st ≠ .unavailable →
    let T := s.tile t
    let Q := T.queue n
    let c := T.chan n
    (Q.entries = [] → fld val.toNat 9 13 ≤ 0x17FF →
      exec (.qcrWrite v t n val) s = .next (s.setQueue t n { Q with ring := BitVec.ofNat 13 (fld val.toNat 9 13) })) ∧
    (∀ ev, exec (.qstatRead v t n ev) s = .next ((s.setQueue t n { Q with refused := ev }).ret (qstat Q))) ∧
    (c.enable = true → bitAt val.toNat 31 = false → exec (.rxcfgWrite v t n val) s = .next (s.setTile t (T.setChan n { c with enable := false }))) ∧
    (c.enable = false → bitAt val.toNat 31 = true →
      rxLegal (fld val.toNat 26 4) (fld val.toNat 22 4) (fld val.toNat 6 16 * 64) = true →
      exec (.rxcfgWrite v t n val) s = .next (s.setTile t (T.setChan n
        { c with enable := true, remote := bitAt val.toNat 30, slotLog2 := fld val.toNat 26 4, cntLog2 := fld val.toNat 22 4,
                 base := fld val.toNat 6 16 * 64, head := 0, tail := 0 }))) ∧
    ((val - c.tail).toNat ≤ (c.head - c.tail).toNat →
      exec (.rxtailWrite v t n val) s = .next (s.setTile t (T.setChan n { c with tail := val }))) ∧
    (∀ evFull evOther, exec (.rxrefRead v t n evFull evOther) s = .next
      ((s.setTile t (T.setChan n { c with full := min 0xFFFF evFull, other := min 0xFFFF evOther })).ret
        (mkFld 16 16 c.full + mkFld 0 16 c.other))))

/-- The Trestle's registers (R42, R46, R48): PEND_SET and MASK_SET set the bits written, PEND_CLR and MASK_CLR clear them, and a bit that the
hardware or a SET write sets in the cycle of PEND_CLR or MASK_CLR stays set (R10); a waiting core wakes when a source is pending and unmasked. -/
def Obligations.TrestleRegisters : Prop :=
  ∀ (v : View) (t : Nat) (hi : Bool) (val hw : W32) (s : State), t < 1296 → (s.tile t).st ≠ .unavailable →
    let T := s.tile t
    (exec (.pendSet v t hi val) s = .next (s.setTile t (Tile.wake { T with pend := T.pend ||| (halfBits hi val &&& mayWrite v) }))) ∧
    (exec (.pendClr v t hi val hw) s = .next (s.setTile t
      (Tile.wake { T with pend := (T.pend &&& ~~~(halfBits hi val &&& mayWrite v)) ||| halfBits hi hw }))) ∧
    (exec (.maskSet v t hi val) s = .next (s.setTile t { T with mask := T.mask ||| halfBits hi val })) ∧
    (exec (.maskClr v t hi val hw) s = .next (s.setTile t
      (Tile.wake { T with mask := (T.mask &&& ~~~halfBits hi val) ||| halfBits hi hw })))

/-- A synchronous exception of a core outside a handler (R27): the pc is saved in mepc, mcause and mtval say why, MIE moves to MPIE, and the
core goes on at mtvec. ECALL takes it with cause 11, EBREAK with cause 3 where Debug mode does not take it (R407). -/
def Obligations.ExceptionsTaken : Prop :=
  ∀ (t : Nat) (s : State), t < 1296 → (s.tile t).steps = true → (s.tile t).core.inHandler = false → (s.tile t).core.dcsr.getLsbD 2 = false →
    let c := (s.tile t).core
    let trap := fun (cause tval : W32) => s.setTile t { s.tile t with core :=
      { c with mepc := c.pc, mcause := cause, mtval := tval, mpie := c.mie, mie := false, inHandler := true, pc := c.mtvec } }
    exec (.ecall t) s = .next (trap 11 0) ∧ (c.dcsr.getLsbD 15 = false → exec (.ebreak t) s = .next (trap 3 c.pc))

/-- No event is delivered while the core is in a handler. MRET ends the handler: it restores the PC from mepc and MIE from MPIE and clears
CURSRC.VALID, and delivery may take place again. WFI outside a handler waits where no source is pending and unmasked, even with MIE at 0, and goes
on otherwise; a core that waits executes nothing until a write of PEND_SET makes an unmasked source pending (R45). -/
def Obligations.HandlerReturnAndWait : Prop :=
  ∀ (t : Nat) (s : State), t < 1296 →
    let T := s.tile t
    let c := T.core
    (c.inHandler = true → ∀ set, exec (.eventDelivery t set) s = .next s) ∧
    (T.steps = true → c.dcsr.getLsbD 2 = false →
      (Completes (.mret t) s fun u => (u.tile t).curValid = false ∧ (u.tile t).core.pc = c.mepc ∧ (u.tile t).core.mie = c.mpie ∧
        (u.tile t).core.inHandler = false ∧ (u.tile t).core.x = c.x ∧ (u.tile t).core.minstret = c.minstret + 1 ∧
        ∀ n, n < 64 → c.mpie = true → T.pend.getLsbD n = true → T.mask.getLsbD n = false →
          Completes (.eventDelivery t false) u fun v => (v.tile t).core.inHandler = true ∧ (v.tile t).curValid = true) ∧
      (c.inHandler = false → Completes (.wfi t) s fun u => (u.tile t).core =
        { c with pc := c.pc + 4, minstret := c.minstret + 1, mcycle := (u.tile t).core.mcycle,
                 waiting := decide (T.pend &&& ~~~T.mask = 0) })) ∧
    (c.waiting = true → T.steps = false ∧ ∀ hi val, T.st ≠ .unavailable →
      (T.pend ||| (halfBits hi val &&& mayWrite .device)) &&& ~~~T.mask ≠ 0 →
      Completes (.pendSet .device t hi val) s fun u => (u.tile t).core.waiting = false)

/-- An instruction that retires (R24, R26): the PC moves on, minstret counts it where it counts, and the rest of the core but mcycle stands;
other tiles, the Belul interface, the pool and the tick stand.

CSR instructions (R26): a legal one writes the old value to rd and the new value to the CSR and retires; an illegal one takes the
illegal-instruction exception with the instruction in mtval. mscratch exchanges its value, and a read of ticklo latches tickhi. -/
def Obligations.CsrInstructions : Prop :=
  (∀ (s : State) (t len : Nat) (counts : Bool), (s.tile t).core.dcsr.getLsbD 2 = false →
    let c := (s.tile t).core
    let u := retire s t len counts
    (u.tile t).core = { c with pc := c.pc + BitVec.ofNat 32 len, mcycle := (u.tile t).core.mcycle,
                               minstret := if counts then c.minstret + 1 else c.minstret } ∧
      (u.tile t).store = (s.tile t).store ∧ (u.tile t).st = (s.tile t).st ∧ (u.tile t).pend = (s.tile t).pend ∧
      (∀ x, x ≠ t → u.tile x = s.tile x) ∧ u.belul = s.belul ∧ u.pool = s.pool ∧ u.tick = s.tick ∧ u.ks = s.ks) ∧
  (∀ (t : Nat) (op : CsrOp) (n : BitVec 12) (rd rs : Nat) (s : State), t < 1296 → rd < 32 → rs < 32 → (s.tile t).steps = true →
    let c := (s.tile t).core
    (csrIllegal c op n.toNat rs = false →
      exec (.csrAccess t op n rd rs) s = .next (retire (csrEffect s t op n.toNat rd rs) t 4 (!writesInstret op n.toNat rs))) ∧
    (csrIllegal c op n.toNat rs = true → c.inHandler = false → c.dcsr.getLsbD 2 = false →
      exec (.csrAccess t op n rd rs) s = .next (s.setTile t { s.tile t with core :=
        { c with mepc := c.pc, mcause := 2, mtval := csrWord op n.toNat rd rs, mpie := c.mie, mie := false, inHandler := true,
                 pc := c.mtvec } })) ∧
    (c.dcsr.getLsbD 2 = false → Completes (.csrAccess t .rw 0x340 rd rs) s fun u =>
      (u.tile t).core.mscratch = c.reg rs ∧ (rd ≠ 0 → (u.tile t).core.reg rd = c.mscratch) ∧ (u.tile t).core.pc = c.pc + 4) ∧
    (c.dcsr.getLsbD 2 = false → Completes (.csrAccess t .rs 0x7C0 rd 0) s fun u =>
      (rd ≠ 0 → (u.tile t).core.reg rd = s.tick.num.setWidth 32) ∧
      (u.tile t).core.tickHi = BitVec.ofNat 32 (s.tick.num.toNat / 2 ^ 32)))

/-- Loads and stores of the tile store (R25, R30): an aligned store that no trigger matches and that meets no error writes its bytes and no
others; an aligned load reads its bytes, extended, into rd; and an access outside the tile-local map raises an access fault with the
address in mtval, a misaligned one the address-misaligned exception.

A corrected word's rewrite (R31): the word is stored with valid check bits, and no longer waits. -/
def Obligations.TileStoreAccesses : Prop :=
  (∀ (t width rd rs ilen : Nat) (sgn : Bool) (addr : W32) (s : State), t < 1296 → rd < 32 → rs < 32 → width = 1 ∨ width = 2 ∨ width = 4 →
    ilen = 2 ∨ ilen = 4 → (s.tile t).steps = true → (s.tile t).core.dcsr.getLsbD 2 = false →
    let T := s.tile t
    let c := T.core
    let trap := fun (cause : W32) => s.setTile t { T with core :=
      { c with mepc := c.pc, mcause := cause, mtval := addr, mpie := c.mie, mie := false, inHandler := true, pc := c.mtvec } }
    (trigHit c 1 addr.toNat = false →
      (addr.toNat + width ≤ 0x300000 → addr.toNat % width = 0 → Tab.get 0 T.storeErr (addr.toNat / 8) = 0 →
        Completes (.spindleLoadStore t .store width sgn addr rd rs ilen 0) s fun u =>
          (u.tile t).store = Memory.put T.store addr.toNat (leBytes width (c.reg rs).toNat) ∧ (u.tile t).core.x = c.x ∧
          (u.tile t).core.pc = c.pc + BitVec.ofNat 32 ilen) ∧
      (c.inHandler = false → addr.toNat + width ≤ 0x300000 → addr.toNat % width ≠ 0 →
        exec (.spindleLoadStore t .store width sgn addr rd rs ilen 0) s = .next (trap 6)) ∧
      (c.inHandler = false → 0x300000 < addr.toNat + width → addr.toNat < 0x40000000 ∨ 0x40010000 ≤ addr.toNat →
        exec (.spindleLoadStore t .store width sgn addr rd rs ilen 0) s = .next (trap 7))) ∧
    (trigHit c 0 addr.toNat = false →
      (addr.toNat + width ≤ 0x300000 → addr.toNat % width = 0 → (∀ e ∈ T.storeErr, e.1 ≠ addr.toNat / 8) →
        Completes (.spindleLoadStore t .load width sgn addr rd rs ilen 0) s fun u =>
          (u.tile t).store = T.store ∧ (u.tile t).core.pc = c.pc + BitVec.ofNat 32 ilen ∧
          (rd ≠ 0 → (u.tile t).core.reg rd = loadExtend width sgn (Memory.le T.store addr.toNat width)) ∧
          ∀ n, n < 32 → n ≠ rd → (u.tile t).core.reg n = c.reg n) ∧
      (c.inHandler = false → addr.toNat + width ≤ 0x300000 → addr.toNat % width ≠ 0 →
        exec (.spindleLoadStore t .load width sgn addr rd rs ilen 0) s = .next (trap 4)) ∧
      (c.inHandler = false → 0x300000 < addr.toNat + width → addr.toNat < 0x40000000 ∨ 0x40010000 ≤ addr.toNat →
        exec (.spindleLoadStore t .load width sgn addr rd rs ilen 0) s = .next (trap 5)))) ∧
  (∀ (t w : Nat) (s : State), t < 1296 → 8 * w < 0x300000 → (s.tile t).correctPend.contains w = true → Tab.get 0 (s.tile t).storeErr w = 1 →
    exec (.storeCorrectiveWrite t w) s = .next (s.setTile t
      { s.tile t with storeErr := Tab.set 0 (s.tile t).storeErr w 0, correctPend := (s.tile t).correctPend.filter (· != w) }))

/-- Delivery of an event (R43, R44): the pending, unmasked source with the lowest number saves the PC, sets mcause to 0x8000_0000 plus its
number, moves MIE to MPIE, goes on at its entry of the vector table, and is no longer pending, unless a SET write reaches its pending bit in the
same cycle (R10). -/
def Obligations.EventDelivered : Prop :=
  ∀ (t n : Nat) (set : Bool) (s : State), t < 1296 → n < 64 →
    let T := s.tile t
    let c := T.core
    T.st = .run → c.fetching = true → c.debug = false → c.mie = true → c.inHandler = false →
    T.pend.getLsbD n = true → T.mask.getLsbD n = false → (∀ m, m < n → T.pend.getLsbD m = true → T.mask.getLsbD m = true) →
    Completes (.eventDelivery t set) s fun u =>
      (u.tile t).core = { c with mepc := c.pc, mcause := BitVec.ofNat 32 (0x80000000 + n), mpie := true, mie := false, inHandler := true,
                                 waiting := false, pc := T.vbase + BitVec.ofNat 32 (16 * n) } ∧
      (u.tile t).pend = (T.pend &&& ~~~(1#64 <<< n)) ||| (if set then 1#64 <<< n else 0) ∧ (u.tile t).curValid = true ∧ (u.tile t).curSrc = BitVec.ofNat 6 n

/-- The Debug Module (R406, R407): haltreq puts a running core outside a halt group into Debug mode, saves its PC in dpc and drains the tile,
and waits where the tile is on the move (R417);
resumereq of a halted tile goes on at dpc; an abstract command moves a register to or from arg0 of a halted core, and sets cmderr 4 otherwise.
The numbering of its registers is the model's (assumption 16). -/
def Obligations.DebugModule : Prop :=
  ∀ (t : Nat) (s : State), t < 1296 →
    let T := s.tile t
    let c := T.core
    (T.st = .run → T.member = false → T.drain = .none → Completes (.dmiHaltreq t) s fun u =>
      (u.tile t).st = .draining ∧ (u.tile t).drain = .halt ∧ (u.tile t).core.debug = true ∧ (u.tile t).core.dpc = c.pc ∧
      fld (u.tile t).core.dcsr.toNat 6 3 = 3 ∧ (u.tile t).core.fetching = false ∧ (u.tile t).core.x = c.x ∧ (u.tile t).store = T.store) ∧
    (T.moving = true → T.haltAsked = none → exec (.dmiHaltreq t) s = .next (s.setTile t { T with haltAsked := some (3, true) })) ∧
    (T.st = .halted → exec (.dmiResumereq t) s = .next (s.setTile t
      { T with st := .run, drain := .none,
               core := { c with pc := c.dpc, debug := false, fetching := !T.exiting, resumeWaiting := false } })) ∧
    (c.cmderr = 0 → ∀ n, n < 32 →
      (T.st = .halted →
        exec (.dmiAbstractCommand t (BitVec.ofNat 32 (0x00221000 + n))) s = .next (s.setTile t { T with core := { c with arg0 := c.reg n } }) ∧
        exec (.dmiAbstractCommand t (BitVec.ofNat 32 (0x00231000 + n))) s = .next (s.setTile t { T with core := c.setReg n c.arg0 })) ∧
      (T.st ≠ .halted →
        exec (.dmiAbstractCommand t (BitVec.ofNat 32 (0x00221000 + n))) s = .next (s.setTile t { T with core := { c with cmderr := 4 } })))

/-- The TILE commands on tiles whose states allow them (R341): TILE_RESET, TILE_LOAD, TILE_STOP, TILE_HALT and TILE_TEST are accepted as long
operations and act on every named tile; TILE_START and TILE_RESUME act and answer OK. A command on no tile ends at once.

A TILE command that a named tile's state does not allow acts on no tile: it is refused with TILE_STATE, which names the first such tile and
its state (R341); TILE_STATUS answers for a tile (the layout of its data is the model's, assumption 26). -/
def Obligations.TileCommands : Prop :=
  (∀ (r : Req) (ts : TileSet) (p : Picked) (s : State), badTileSet ts = false → noLoad s ts = true →
    let l := tilesNamed ts
    let ends := fun u => if l = [] then finishOp u (handleOf r.client r.slot p.seq) 0x0002 [] else u
    (Ready r 0x0C01 p s → (∀ t ∈ l, (s.tile t).st = .reset ∨ (s.tile t).st = .loaded ∨ (s.tile t).st = .stopped ∨ (s.tile t).st = .faulted) →
      exec (.tileReset r ts) s = .next (ends (forEach l resetTile (acceptLong s r.client r.slot p 6 l.length l)))) ∧
    (∀ va len off tag, Ready r 0x0C02 p s → va < 2 ^ 64 → 1 ≤ len → off + len ≤ 0x300000 → tag < 4096 → l ≠ [] →
      (∀ t ∈ l, ((s.tile t).st = .reset ∨ (s.tile t).st = .loaded) ∧ (s.tile t).filling = true) →
      exec (.tileLoad r ts va len off tag) s = .next (forEach l (fun t u => u.modTile t fun T => (
        { T with load := some { handle := handleOf r.client r.slot p.seq, va := va, off := off, len := len, tag := tag, share := l.length } }))
        (acceptLong s r.client r.slot p 1 10000 l))) ∧
    (∀ tag entry arg, Ready r 0x0C03 p s → tag < 4096 → entry < 2 ^ 32 → arg < 2 ^ 32 → (∀ t ∈ l, (s.tile t).st = .loaded) →
      exec (.tileStart r ts tag entry arg) s = .next (replyFinal (forEach l (startTile tag entry arg) s) r.client r.slot p 0x0000 [])) ∧
    (Ready r 0x0C04 p s → (∀ t ∈ l, (s.tile t).st = .run ∨ (s.tile t).st = .halted ∨ (s.tile t).st = .draining) →
      exec (.tileStop r ts) s = .next (ends (forEach l askStop (acceptLong s r.client r.slot p 6 l.length l)))) ∧
    (Ready r 0x0C06 p s → (∀ t ∈ l, (s.tile t).st = .run) →
      exec (.tileHalt r ts) s = .next (ends (forEach l (fun t u => haltTile u t 3) (acceptLong s r.client r.slot p 6 l.length l)))) ∧
    (Ready r 0x0C07 p s → (∀ t ∈ l, (s.tile t).st = .halted) →
      exec (.tileResume r ts) s = .next (replyFinal (forEach l (fun t u => resumeTile u t) s) r.client r.slot p 0x0000 [])) ∧
    (Ready r 0x0802 p s → (∀ t ∈ l, (s.tile t).st = .reset) →
      exec (.tileTest r ts) s = .next (ends (acceptLong s r.client r.slot p 6 l.length l)))) ∧
  (∀ (r : Req) (ts : TileSet) (p : Picked) (s : State) (t : Nat), badTileSet ts = false → noLoad s ts = true →
    (∀ pre post, tilesNamed ts = pre ++ t :: post →
      (Ready r 0x0C03 p s → (∀ x ∈ pre, (s.tile x).st = .loaded) → (s.tile t).st ≠ .loaded →
        exec (.tileStart r ts 0 0 0) s = .next (replyFinal s r.client r.slot p 0x0200 [(4, t), (4, stCode (s.tile t).st)])) ∧
      (Ready r 0x0C07 p s → (∀ x ∈ pre, (s.tile x).st = .halted) → (s.tile t).st ≠ .halted →
        exec (.tileResume r ts) s = .next (replyFinal s r.client r.slot p 0x0200 [(4, t), (4, stCode (s.tile t).st)]))) ∧
    (t < 1296 → Ready r 0x0C05 p s → (s.tile t).moving = false → exec (.tileStatus r t) s = .next (replyFinal s r.client r.slot p 0x0000
      [(1, stCode (s.tile t).st), (1, (s.tile t).exitCause), (1, (s.tile t).queueMask fun q => q.entries != []),
       (1, (s.tile t).queueMask fun q => q.fault.isSome), (4, (s.tile t).exitCode.toNat)])))

/-- R51: a TILE_LOAD that names a tile in RUN is refused with TILE_STATE and writes nothing to any tile store. -/
def Obligations.LoadOfRunningTileRefused : Prop :=
  ∀ (r : Req) (ts : TileSet) (va len off tag : Nat) (p : Picked) (s : State), badTileSet ts = false → noLoad s ts = true →
    va < 2 ^ 64 → len < 2 ^ 32 → off < 2 ^ 32 → tag < 4096 → 1 ≤ len → off + len ≤ 0x300000 → Ready r 0x0C02 p s →
    (∃ t ∈ tilesNamed ts, (s.tile t).st = .run) →
    Completes (.tileLoad r ts va len off tag) s fun u =>
      ((u.slot r.client r.slot).reply.status = 0x0200 ∧ (u.slot r.client r.slot).reply.final = true ∧
        ∃ x ∈ tilesNamed ts, (u.slot r.client r.slot).reply.data = [(4, x), (4, stCode (s.tile x).st)]) ∧
      (∀ t, u.tile t = s.tile t) ∧ u.pool = s.pool

/-- What TILE_START and TILE_RESET do to a tile (R49, R50): a started tile runs at the entry offset with the argument in a0 and its logical number
in a1, every other register 0, no source pending and every source masked; a reset tile is as after a reset but for what wear management keeps, and
fills its store. -/
def Obligations.TileStartAndReset : Prop :=
  ∀ (t tag entry arg : Nat) (s : State), t < 1296 →
    (let u := (startTile tag entry arg t s).tile t
     u.st = .run ∧ u.space = tag ∧ u.core.pc = BitVec.ofNat 32 entry ∧ u.core.reg 10 = BitVec.ofNat 32 arg ∧
     u.core.reg 11 = BitVec.ofNat 32 t ∧ (∀ n, n < 32 → n ≠ 10 → n ≠ 11 → u.core.reg n = 0) ∧ u.pend = 0 ∧ u.mask = BitVec.allOnes 64 ∧
     u.vbase = 0 ∧ u.core.fetching = true ∧ u.core.mie = false ∧ ∀ x, x ≠ t → (startTile tag entry arg t s).tile x = s.tile x) ∧
    (resetTile t s).tile t = { site := (s.tile t).site, moved := (s.tile t).moved, lost := (s.tile t).lost, ueWords := (s.tile t).ueWords,
                               ceWords := (s.tile t).ceWords, filling := true }

/-- Events of a tile's life (R32, R52, R53, R341): the end of the fill of a store, the drain after a stop command, the end of a drain in HALTED or
STOPPED, the end of the drain of a tile on the move, which then runs at a spare site with its store and state, and the end of a TILE_TEST with the tiles that failed. -/
def Obligations.TileLifeEvents : Prop :=
  ∀ (t : Nat) (s : State), t < 1296 →
    let T := s.tile t
    (T.filling = true → T.load = none → (∀ o ∈ s.belul.ops, o.opcode ≠ 0x0C01) →
      exec (.storeFillComplete t) s = .next (s.setTile t { T with filling := false })) ∧
    (T.filling = true → ∀ l, T.load = some l →
      exec (.storeFillComplete t) s = .next (actLoad t (tileDone 0x0C01 t (s.setTile t { T with filling := false })))) ∧
    (T.stopAsked = true → T.st = .run → T.drain = .none →
      exec (.stopDrainStart t) s = .next (s.setTile t
        { T with st := .draining, drain := .stop, latheLeft := T.latheQ.isSome, chainLeft := T.chainBusy,
                 core := { T.core with fetching := false, waiting := false } })) ∧
    (T.stopAsked = true → T.st = .draining → T.drain = .move → exec (.stopDrainStart t) s = .next s) ∧
    (T.st = .draining → T.engineIdle = true →
      (T.drain = .move → T.haltAsked = none → T.storeErr = [] → Completes (.drainComplete t) s fun u =>
        u.tile t = { T with st := .run, drain := .none, site := 108 + s.sparesUsed 1 (deckOf t), moved := true, correctPend := [], ueWords := [],
                            ceWords := [] } ∧
        u.wear.moving = s.wear.moving.filter (fun n => n.res != t) ∧ u.sparesUsed 1 (deckOf t) = s.sparesUsed 1 (deckOf t) + 1) ∧
      (T.drain = .halt → (∀ o ∈ s.belul.ops, o.opcode ≠ 0x0C06) → T.core.resumeWaiting = false →
        exec (.drainComplete t) s = .next (s.setTile t { T with st := .halted })) ∧
      (T.drain = .stop → Completes (.drainComplete t) s fun u =>
        (u.tile t).st = .stopped ∧ (u.tile t).drain = .none ∧ (u.tile t).latheQ = none ∧ (u.tile t).chain = none) ∧
      (T.drain = .fault → Completes (.drainComplete t) s fun u => (u.tile t).st = .faulted ∧ (u.tile t).drain = .none)) ∧
    ∀ (failing : List Nat) o, s.opOf 0x0802 = some o → s.op o.handle = some o → (∀ x ∈ failing, x < 1296 ∧ x ∈ o.left) → failing.length ≤ 54 →
      Completes (.tileTestComplete failing) s fun u => Finished s u o 0x0002 (failing.map fun x => (4, x)) ∧
        ((s.slot o.client o.slot).running.isSome = true → (u.slot o.client o.slot).reply.position = o.total)

/-- DESCRIPTOR_START (R34–R36, R130, R145) of the oldest descriptor of an idle queue of a tile without store errors: its header is read, and its engine
starts, where a FENCE that names a queue waits; a header that R130 refuses ends it with BAD_CONFIG and the reason, one that cascades after an error
with CANCELLED, and one whose predicate fails with PRED_FALSE and the word read. -/
def Obligations.DescriptorStarts : Prop :=
  ∀ (t q : Nat) (e : QEntry) (look : Header) (s : State), t < 1296 → q < 4 → (s.tile t).st = .run → (s.tile t).storeErr = [] →
    startable (s.tile t) q = some (e, look) →
    let T := s.tile t
    let d := Memory.bytes T.store e.doff 128
    let h := parseHeader d
    let word := Memory.le T.store h.predOff 4
    let ended := fun (status : Nat) (detail : W64) => Completes (.descriptorStart t q) s fun u =>
      HasEntry u t q e.seq (fun y => y.phase = .finished ∧ y.status = status ∧ y.detail = detail ∧ y.flags = 0 ∧ y.desc = d) ∧
      (u.tile t).store = T.store
    (h.casc = true → (s.queue t q).lastErr = true → ended 0x11 0) ∧
    (h.casc = false ∨ (s.queue t q).lastErr = false →
      (∀ x, headerReason h = some x → ended 0x10 (BitVec.ofNat 64 x)) ∧
      (headerReason h = none →
        (predTest h.predOp word h.predVal = false → h.predOp ≠ 0 → ended 0x01 (BitVec.ofNat 64 word)) ∧
        (predTest h.predOp word h.predVal = true ∨ h.predOp = 0 →
          (h.engine = 0 → h.fmask ≠ 0 → Completes (.descriptorStart t q) s fun u =>
            HasEntry u t q e.seq (fun y => y.phase = .active ∧ y.desc = d ∧ y.engine = 0 ∧ y.user = BitVec.ofNat 16 h.user ∧ y.notify = h.notify) ∧
            (u.tile t).store = T.store) ∧
          (h.engine ≠ 0 → Completes (.descriptorStart t q) s fun u => HasEntry u t q e.seq fun y =>
            y.phase ≠ .queued ∧ y.engine = h.engine ∧ y.user = BitVec.ofNat 16 h.user ∧ y.notify = h.notify ∧ y.desc.take 128 = d))))

/-- COMPLETION_POST (R37, R140, R142, R145): the finished oldest descriptor of a queue writes its 32 B record at its ring entry and leaves the queue, and
QSEQ takes its SEQ; an error raises source 12 + q, and a wanted notice source 8 + q. CYCLES of a descriptor that did no work is what R145 gives. -/
def Obligations.CompletionPosted : Prop :=
  ∀ (t q cycles : Nat) (e : QEntry) (rest : List QEntry) (s : State), t < 1296 → q < 4 → (s.tile t).st = .run →
    (s.queue t q).entries = e :: rest → e.phase = .finished →
    let n := if e.held = .none then cycles else if e.late = true then max cycles e.fixed else e.fixed
    let record := leBytes 4 e.seq.toNat ++ leBytes 1 e.status ++ leBytes 1 e.engine ++ leBytes 2 e.flags.toNat ++ leBytes 8 e.detail.toNat ++
      leBytes 2 e.user.toNat ++ leBytes 2 0 ++ leBytes 4 e.doff ++ leBytes 4 (s.tick.num.toNat % 2 ^ 32) ++ leBytes 4 (min n 0xFFFFFFFF)
    Completes (.completionPost t q cycles) s fun u =>
      (u.tile t).store = Memory.put (s.tile t).store (512 * (s.queue t q).ring.toNat + 32 * (e.seq.toNat % 16)) record ∧
      (u.queue t q).entries = rest ∧ (u.queue t q).lastSeq = e.seq ∧ (u.queue t q).lastErr = decide (0x10 ≤ e.status) ∧ record.length = 32 ∧
      (0x10 ≤ e.status → (u.tile t).pend.getLsbD (12 + q) = true) ∧
      (e.status < 0x10 → e.notify = true → (u.tile t).pend.getLsbD (8 + q) = true)

/-- FENCE and leases (R38, R136, R143, R169, R171): a FENCE ends when no named queue holds a descriptor that was pushed before it; a stream without
a request or a fault asks for the first lease that its next chunk lacks: an extent entry that covers the address and gives the rights grants
the lease at once, and without one the request waits for its walk; an element address outside the virtual addresses faults with ADDRESS_RANGE.

The Lathe (R57, R77, R83): a block of a pass without block skip and without sparsity, in a tile whose store has no error, reads its operands,
writes its elements of D and nothing else, and the pass goes on with its next block; after the last one it ends, with EXACT_RANGE where a block
met a value out of range. What an element holds is the value of `latheElem` (R69–R73), of which the product of two INT8 elements is one
case.

The tile mover issues the next chunk of the COPY, FILL or ATOMIC descriptor whose turn it is (R131–R138, R36): the chunk is in flight, the
descriptor stands at its next element, and the mover has served the queue. A chunk of a COPY within a tile store without errors has then moved
the bytes of its elements, each from its source to its destination in iteration order, and one of a FILL has written the fill value to
each; an ATOMIC leaves the store alone.

Acknowledgements and ends of the mover's chunks (R136, R141, R144): an acknowledgement that arrives leaves its chunk, and its flags, a poisoned
codeword and a fetched value are taken; a chunk with nothing left to come leaves flight, and a descriptor that is through ends with OK. -/
def Obligations.EngineSteps : Prop :=
  (∀ (t q : Nat) (e : QEntry) (s : State), t < 1296 → q < 4 → (s.tile t).st = .run →
    ((s.queue t q).active 0 = some e →
      (∀ n, n < 4 → bitAt (parseHeader e.desc).fmask n = true → ∀ x ∈ (s.queue t n).entries, e.ord ≤ x.ord) →
      Completes (.fenceComplete t q) s fun u =>
        (u.queue t q).entries = (s.queue t q).entries.map (fun x =>
          if x.seq = e.seq then { x with phase := .finished, status := 0, detail := 0, flags := 0 } else x) ∧
        (u.tile t).store = (s.tile t).store ∧ (u.tile t).core = (s.tile t).core ∧ (u.queue t q).ring = (s.queue t q).ring) ∧
    (∀ (needs : Needs) n, (s.queue t q).fault = none → (s.queue t q).req = none → moverNeeds s t q = some (e, needs) →
      (needs.out = [] → (s.queue t q).firstUnmet needs.leases = some n → (s.queue t q).leases.length < 16 →
        s.served (s.tile t).space = true →
        let old := if (s.queue t q).fresh = true then none else s.extent (s.tile t).space n.va
        (old = none → Completes (.leaseRequest t q) s fun u =>
          (u.queue t q).req = some { va := n.va, rd := n.rd, wr := n.wr, at_ := n.at_, seq := e.seq, walking := true } ∧
          (u.queue t q).fault = none ∧ (u.queue t q).leases = (s.queue t q).leases ∧ (u.queue t q).entries = (s.queue t q).entries) ∧
        ∀ x, old = some x → deniedCode x.leaf.toNat n.rd n.wr n.at_ = none → Completes (.leaseRequest t q) s fun u =>
          (u.queue t q).leases = (s.queue t q).leases ++ [leaseOf (s.tile t).space x] ∧ (u.queue t q).req = none ∧
          (u.queue t q).fault = none ∧ u.ks.extents.head? = some x ∧ (u.queue t q).entries = (s.queue t q).entries) ∧
      (needs.out ≠ [] → (∀ a ∈ needs.out, a.1 < 0) → Completes (.leaseRequest t q) s fun u =>
        ((u.queue t q).fault.map fun f => (f.code, f.level, f.seq)) = some (8, 7, e.seq) ∧ (u.queue t q).leases = (s.queue t q).leases))) ∧
  (∀ (t q : Nat) (e : QEntry) (s : State), t < 1296 → q < 4 → (s.tile t).st = .run → (s.tile t).storeErr = [] →
    (s.tile t).latheQ = some q → (s.queue t q).active 2 = some e →
    let c := parseLathe e.desc
    let T := s.tile t
    let kept := rangeFrom 0 (ceilDiv c.k 64)
    let i := e.pos % ceilDiv c.m 64
    let j := e.pos / ceilDiv c.m 64
    let x := latheBlock T.store c kept i j
    c.bskip = false → c.sparse = 0 →
    let first := e.firstRange.or (if x.2 &&& 1 = 0 then none else some e.pos)
    let store := x.1.foldl (fun m row => Memory.put m row.1 row.2) T.store
    (e.pos + 1 < c.blocks → Completes (.latheBlockDone t) s fun u =>
      HasEntry u t q e.seq (fun y => y.phase = .active ∧ y.pos = e.pos + 1 ∧ y.flags = e.flags ||| x.2 ∧ y.firstRange = first) ∧
      (u.tile t).latheQ = some q ∧ ∀ a, Memory.byte (u.tile t).store a = Memory.byte store a) ∧
    (c.blocks ≤ e.pos + 1 → Completes (.latheBlockDone t) s fun u =>
      HasEntry u t q e.seq (fun y => y.phase = .finished ∧ y.flags = e.flags ||| x.2 ∧ y.status = (if first = none then 0x00 else 0x14) ∧
        y.detail = BitVec.ofNat 64 (first.getD 0)) ∧
      (u.tile t).latheQ = none ∧ ∀ a, Memory.byte (u.tile t).store a = Memory.byte store a) ∧
    (c.acc = false → c.mx = false → c.sparse = 0 → c.a = 0xA → c.b = 0xA → c.cin = 0 → c.out = 0xB → c.k = 1 → c.transA = false →
      c.transB = false → c.shift = 0 → ∀ m n, latheElem T.store c [0] m n =
        (ofSInt 32 (sInt 8 (Memory.le T.store (c.aOff + m * c.lda) 1) * sInt 8 (Memory.le T.store (c.bOff + n * c.ldb) 1)), 0))) ∧
  (∀ (t q a : Nat) (e : QEntry) (s : State), t < 1296 → q < 4 → (s.tile t).storeErr = [] → moverTurn s t q = some e →
    let c := parseMover e.desc
    let T := s.tile t
    let elems := (chunkPlan s t q e).1
    let next := ((e.ahead.1.drop elems.length).head?).getD e.ahead.2.1
    let issued := fun (u : State) => HasEntry u t q e.seq (fun y => y.phase = .active ∧ y.issued = e.issued + 1 ∧ y.elem = next ∧
      y.chunks.map (·.idx) = e.chunks.map (·.idx) ++ [e.issued] ∧ y.err = none) ∧ (u.tile t).moverLast = q
    let dst := fun (j : Nat) => (e.trec 1).at c.es (e.stream.index j)
    let src := fun (j : Nat) => (e.trec 0).at c.es (e.stream.index j)
    (c.op = 0 → Completes (.moverCopyChunk t q []) s fun u => issued u) ∧
    (c.op = 0 → (e.trec 0).virt = false → (e.trec 1).virt = false → Completes (.moverCopyChunk t q []) s fun u =>
      Memory.byte (u.tile t).store a =
        Memory.byte (elems.foldl (fun m j => Memory.put m (dst j) (Memory.bytes T.store (src j) c.es)) T.store) a) ∧
    (c.op = 1 → Completes (.moverFillChunk t q []) s fun u => issued u) ∧
    (c.op = 1 → (e.trec 1).virt = false → Completes (.moverFillChunk t q []) s fun u =>
      Memory.byte (u.tile t).store a = Memory.byte (elems.foldl (fun m j => Memory.put m (dst j) (leBytes c.es c.fillval)) T.store) a) ∧
    (c.op = 2 → Completes (.moverAtomicChunk t q []) s fun u => issued u ∧ (u.tile t).store = T.store)) ∧
  (∀ (t q chunk : Nat) (e : QEntry) (c : Chunk) (s : State), t < 1296 → q < 4 → (s.queue t q).active 1 = some e → e.err = none →
    e.chunks.find? (fun c => c.idx == chunk) = some c →
    (∀ a, c.acks.find? (fun a => !a.reset) = some a → a.refused = none →
      (a.fetch = none → Completes (.moverAck t q chunk) s fun u =>
        HasEntry u t q e.seq (fun y => y.flags = e.flags ||| a.flags ∧ y.phase = .active ∧
          y.err = a.poison.map (fun va => (0x21, BitVec.ofNat 64 va)) ∧
          y.chunks = e.chunks.map fun x => if x.idx = chunk then { x with acks := x.acks.erase a } else x) ∧
        (u.tile t).store = (s.tile t).store) ∧
      (∀ f, a.fetch = some f → a.poison = none → (s.tile t).storeErr = [] → f.2.2 = 4 ∨ f.2.2 = 8 → f.1 % f.2.2 = 0 →
        Completes (.moverAck t q chunk) s fun u => Memory.le (u.tile t).store f.1 f.2.2 = f.2.1 % 256 ^ f.2.2)) ∧
    (c.acks = [] → c.remote = 0 → c.deliveries = 0 → c.later = [] →
      (e.elem < e.total → Completes (.moverChunkDone t q chunk) s fun u =>
        HasEntry u t q e.seq (fun y => y.phase = .active ∧ y.pos = e.pos + 1 ∧ y.chunks = e.chunks.filter fun x => x.idx != chunk) ∧
        (u.tile t).store = (s.tile t).store) ∧
      (e.total ≤ e.elem → e.refusedRec = none → e.chunks = [c] → Completes (.moverChunkDone t q chunk) s fun u =>
        HasEntry u t q e.seq (fun y => y.phase = .finished ∧ y.status = 0x00 ∧ y.detail = 0 ∧ y.flags = e.flags) ∧
        (u.tile t).store = (s.tile t).store)))

/-- Small messages within the node (R134, R147–R155): SEND issues the message of the next route record, which is then on its way to the tile that
the record names; a data delivery that a tile accepts fills the slot at HEAD, moves HEAD on, makes MSG_n pending and leaves flight; one that it
refuses is on its way back with its cause; an accepted signal makes its sources pending; a refusal other than RING_FULL is final and
counts with the descriptor; and a retried message goes out again at a later boundary, behind those sent since. -/
def Obligations.Messages : Prop :=
  ∀ (s : State),
    (∀ t q e, t < 1296 → q < 4 → moverTurn s t q = some e → (parseMover e.desc).op = 3 → (s.tile t).storeErr = [] →
      let T := s.tile t
      let off := (parseMover e.desc).routeOff + 16 * e.elem
      let w0 := Memory.le T.store off 4
      let to_ := Memory.le T.store (off + 8) 8
      recordCause e w0 = none → s.ownNode (fld to_ 0 24) = true → T.compat = false → fld to_ 24 11 < 1296 →
      Completes (.sendMessage t q) s fun u =>
        HasEntry u t q e.seq (fun y => y.issued = e.issued + 1 ∧ y.elem = e.elem + 1 ∧
          y.chunks.map (fun c => (c.idx, c.deliveries)) = e.chunks.map (fun c => (c.idx, c.deliveries + if c.idx = e.issued then 1 else 0)) ++ [(e.issued, 1)]) ∧
        u.msgs.dropLast = s.msgs ∧ (u.msgs.getLast?.map fun f => (f.dst, f.chan, f.signal, f.bits)) =
          some (fld to_ 24 11, fld to_ 35 2, bitAt w0 31, BitVec.ofNat 32 (Memory.le T.store (off + 4) 4)) ∧
        (u.msgs.getLast?.map fun f => (f.id, f.srcTile, f.srcQueue, f.chunk, f.msgIdx)) = some (s.msgId, t, q, e.issued, e.elem)) ∧
    (∀ id f, f.dst < 1296 → s.onWay id false = some f →
      let T := s.tile f.dst
      let c := T.chan f.chan
      T.moving = false →
      (dataCause T (some f.space) true f.chan f.payload.length = none → T.frozen = false → T.storeErr = [] → T.compat = false → f.chan < 4 → f.hdr.length = 32 →
        Completes (.msgDataDelivery (.inside id) []) s fun u =>
          u.msgs = s.msgs.filter (fun x => x.id != f.id) ∧ ((u.tile f.dst).chan f.chan).head = c.head + 1 ∧
          Memory.bytes (u.tile f.dst).store (64 * (c.base / 64) + 2 ^ c.slotLog2 * (c.head.toNat % 2 ^ c.cntLog2)) (32 + f.payload.length) =
            f.hdr ++ f.payload ∧
          (u.tile f.dst).pend.getLsbD (16 + f.chan) = true) ∧
      (∀ cause, dataCause T (some f.space) true f.chan f.payload.length = some cause →
        Completes (.msgDataDelivery (.inside id) []) s fun u =>
          u.msgs = s.msgs.map (fun x => if x.id = f.id then { x with refused := some cause } else x) ∧
          (u.tile f.dst).store = T.store ∧ ((u.tile f.dst).chan f.chan).head = c.head)) ∧
    (∀ id f, f.dst < 1296 → s.onWay id true = some f → signalCause (s.tile f.dst) (some f.space) true = none → (s.tile f.dst).frozen = false →
      (s.tile f.dst).moving = false →
      Completes (.msgSignalDelivery (.inside id)) s fun u => u.msgs = s.msgs.filter (fun x => x.id != f.id) ∧
        (u.tile f.dst).pend = (s.tile f.dst).pend ||| (f.bits.setWidth 64 <<< 32)) ∧
    (∀ id cause f e, s.msgs.find? (fun f => f.id == id && f.refused == some cause) = some f → cause ≠ 0x01 →
      (s.queue f.srcTile f.srcQueue).active 1 = some e → e.refusedRec = none → e.firstCauses = [] →
      Completes (.deliveryRefusal id cause) s fun u => u.msgs = s.msgs.filter (fun x => x.id != f.id) ∧
        HasEntry u f.srcTile f.srcQueue e.seq (fun y => y.refusals = e.refusals + 1 ∧ y.refusedRec = some (f.msgIdx, cause))) ∧
    (∀ id f w first, s.msgs.find? (fun f => f.id == id) = some f → f.wait = some w → f.firstRefused = some first → f.remote = false →
      w < s.tick.boundaries → s.tick.boundaries - first ≤ (s.tile f.srcTile).retry →
      Completes (.msgRetry id) s fun u => u.msgs = s.msgs.filter (fun x => x.id != id) ++ [{ f with wait := none }])

/-- The vector chain's chunks (R121, R126, R136), in a tile whose store has no error: the chunk in flight is worked through when its operands are at
hand, and the next chunk begins when the stream holds its leases; a chunk without an operand in memory is worked through at once. Every element
of the chunk is then through, unless the pass has stopped, and the descriptor shows the position reached.

The end of a pass (R113–R118, R121, R125): with every element through and no chunk in flight, a pass without an operand in memory ends, and the
chain is free; one that neither reduces, compacts nor packs writes its predicate count and its checksum and nothing else, and ends with OK, with
CRC_MISMATCH, or with EXACT_RANGE and the first position out of range. -/
def Obligations.ChainPasses : Prop :=
  (∀ (t : Nat) (run : ChainRun) (e : QEntry) (s : State), t < 1296 → (s.tile t).st = .run → (s.tile t).chain = some run →
    chainEntry s t run = some e → (s.tile t).storeErr = [] →
    let through := fun (u : State) (stop : Nat) =>
      ((u.tile t).chain.map fun y => (y.q, y.asked, decide (y.j = stop) || y.endStatus.isSome)) = some (run.q, none, true) ∧
      HasEntry u t run.q e.seq fun y => y.phase = .active ∧ some (y.pos, y.flags) = (u.tile t).chain.map fun z => (z.j, z.flags)
    (∀ ch rest stop, e.chunks = ch :: rest → ch.remote = 0 → run.asked = some stop → scanDue run.cfg run = false → run.j ≤ stop →
      Completes (.chainChunkDone t []) s fun u => through u stop) ∧
    (e.chunks = [] → run.endStatus = none → run.j < run.recs.x.count → (s.queue t run.q).fault = none → run.asked = none →
      let plan := chainPlan s t run.cfg run
      (run.inMemory = false → Completes (.chainChunkDone t []) s fun u => through u plan.1 ∧
        HasEntry u t run.q e.seq fun y => y.chunks = []) ∧
      (run.inMemory = true → (s.queue t run.q).meets plan.2 = true →
        chainHcIdle s t run.cfg run plan.1 ((s.queue t run.q).granted plan.2) = true → Completes (.chainChunkDone t []) s fun u =>
          (u.queue t run.q).fault = none ∧ HasEntry u t run.q e.seq fun y => y.phase = .active ∧ y.issued = e.issued + 1))) ∧
  (∀ (t a : Nat) (run : ChainRun) (e : QEntry) (s : State), t < 1296 → (s.tile t).st = .run → (s.tile t).chain = some run →
    chainEntry s t run = some e → (s.tile t).storeErr = [] → e.chunks = [] → run.endStatus = none → run.recs.x.count ≤ run.j →
    run.inMemory = false →
    let c := run.cfg
    Completes (.chainPassEnd t []) s (fun u => (u.tile t).chain = none ∧ HasEntry u t run.q e.seq fun y => y.phase = .finished) ∧
    (c.rop = 0 → c.compact = false → run.recs.d = none → run.recs.x.e 0 ≠ 0 → run.bad = [] →
      let crc := run.crc ^^^ 0xFFFFFFFF#32
      let m := if c.pred = true then Memory.put (s.tile t).store (c.word 0x3C) (leBytes 4 (min 0xFFFFFFFF run.predCount)) else (s.tile t).store
      Completes (.chainPassEnd t []) s fun u =>
        HasEntry u t run.q e.seq (fun y => y.phase = .finished ∧ y.flags = run.flags ∧
          (y.status, y.detail) = if c.on 10 = true ∧ c.check = true ∧ crc.toNat ≠ c.expect then (0x16, crc.setWidth 64)
            else match run.firstSat with
              | some j => (0x14, BitVec.ofNat 64 j)
              | none => (0x00, 0)) ∧
        Memory.byte (u.tile t).store a = Memory.byte (if c.on 10 = true then Memory.put m c.crcOff (leBytes 4 crc.toNat) else m) a))

/-- Events of the Keystone (R166, R167, R169, R176, R177, R411): a walk that finds a leaf with the rights that the request needs grants the lease of
its extent, and one that faults, or finds a leaf without a right, stops its stream with the fault code; a walk marked by an invalidation is run
again; a recall marks the older leases of a tag and drops those without a chunk in flight; an acknowledged recall drops the lease; an
invalidation ends when no older lease is left; and a parity error takes a walker out of service. -/
def Obligations.KeystoneEvents : Prop :=
  ∀ (t q : Nat) (s : State), t < 1296 → q < 4 →
    let Q := s.queue t q
    let tag := (s.tile t).space
    (∀ r, Q.req = some r → r.walking = true → walkIdle s tag r.va = true →
      (s.ks.rewalk.contains (t, q) = true → exec (.keystoneWalkComplete t q) s = .next (bump (s.modKs fun k =>
        { k with rewalk := k.rewalk.filter (· != (t, q)) }) (unitCtr ksBase 2) 1)) ∧
      (s.ks.rewalk.contains (t, q) = false → ∀ level e, (walk s tag r.va).2 = .leaf level e →
        let x := extentOf tag (s.gen tag) r.va level e
        (deniedCode e.toNat r.rd r.wr r.at_ = none → Completes (.keystoneWalkComplete t q) s fun u =>
          (u.queue t q).leases = Q.leases ++ [leaseOf tag x] ∧ (u.queue t q).req = none ∧ (u.queue t q).fault = Q.fault ∧
          (u.queue t q).entries = Q.entries ∧ u.ks.extents.head? = some x) ∧
        ∀ code kind, deniedCode e.toNat r.rd r.wr r.at_ = some (code, kind) → Completes (.keystoneWalkComplete t q) s fun u =>
          ((u.queue t q).fault.map fun f => (f.code, f.level, f.access, f.va, f.entry, f.seq)) = some (code, level, kind, r.va, e, r.seq) ∧
          (u.queue t q).req = none ∧ (u.queue t q).leases = Q.leases) ∧
      (s.ks.rewalk.contains (t, q) = false → ∀ code level e, (walk s tag r.va).2 = .fault code level e →
        Completes (.keystoneWalkComplete t q) s fun u =>
          ((u.queue t q).fault.map fun f => (f.code, f.level, f.access, f.va, f.entry, f.seq)) =
            some (code, level, strongest r.wr r.at_, r.va, e, r.seq) ∧
          (u.queue t q).req = none ∧ (u.queue t q).leases = Q.leases)) ∧
    (∀ g, g < 4096 → Completes (.recall t q g) s fun u =>
      (u.queue t q).leases = (Q.leases.map fun l => if l.tag = g ∧ l.gen < s.gen g then { l with recalled := true } else l).filter
        (fun l => !(l.recalled && !Q.uses l)) ∧ (u.queue t q).entries = Q.entries) ∧
    (∀ base, Completes (.recallAck t q base) s fun u =>
      (u.queue t q).leases = Q.leases.filter (fun l => !(l.recalled && l.vbase == base && !Q.uses l)) ∧ (u.queue t q).entries = Q.entries) ∧
    (∀ i o, i.handle < 2 ^ 32 → s.ks.invs.find? (fun x => x.handle == i.handle) = some i →
      s.ks.invs.find? (fun x => x.tag == i.tag) = some i → s.outstanding i.tag i.gen = 0 → s.op i.handle = some o → o.handle = i.handle →
      Completes (.invalidateComplete i.handle) s fun u => u.ks.invs = s.ks.invs.filter (fun x => x.handle != i.handle) ∧
        u.ks.roots = (if i.unbind = true then Tab.set none s.ks.roots i.tag none else s.ks.roots) ∧ Finished s u o 0x0002 []) ∧
    (∀ walker r, walker < 68 → Q.req = some r → r.walking = true → s.ks.walkers ≠ 0 → (t, q) ∉ s.ks.rewalk →
      Completes (.walkerParityError walker t q) s fun u =>
        u.ks = { s.ks with walkers := s.ks.walkers - 1, rewalk := s.ks.rewalk ++ [(t, q)] } ∧
        (s.wear.queue = [] → s.sparesLeft 5 0 ≠ 0 → u.wear.queue = [⟨5, 0, walker, true⟩]))

/-- The KEYSTONE commands (R176, R177, R181, R183, R185): SPACE_BIND gives an unbound tag its root and resets its counters; SPACE_UNBIND and INVALIDATE
raise the tag's generation, clear its extent entries and are accepted as invalidations, which show the leases still outstanding, or are completed
at once where the tag is unbound, or answered BUSY with sixteen in progress; FAULT_RING moves the ring; FAULT_RESOLVE withdraws a fault, for a fresh
walk or with XLATE_FAULT; and PROBE and KEYSTONE_STATUS answer.

The Keystone's ring registers (R181, R186): RINGCTL sets MSI and turns the ring off or on, and leaves it off where it does not lie in the pool;
RINGTAIL frees entries, and a value that passes HEAD is ignored. -/
def Obligations.KeystoneCommands : Prop :=
  (∀ (r : Req) (p : Picked) (tag : Nat) (s : State), tag < 4096 →
    (∀ root, Ready r 0x0401 p s → s.root tag = none → root % 4096 = 0 → inPool root = true →
      Completes (.spaceBind r tag root) s fun u => Replied u r 0x0000 [] ∧ u.root tag = some root ∧ (∀ g, g < 4096 → g ≠ tag → u.root g = s.root g) ∧
        (∀ i, i < 12 → (u.ctr (spaceCtr tag i)).val = 0) ∧ u.ks.gens = s.ks.gens) ∧
    (∀ root, Ready r 0x0401 p s → s.root tag ≠ none →
      exec (.spaceBind r tag root) s = .next (replyFinal s r.client r.slot p bsTagBound [])) ∧
    (∀ i unbind, (Ready r 0x0402 p s ∧ i = Instr.spaceUnbind r tag ∧ unbind = true) ∨ (Ready r 0x0403 p s ∧ i = Instr.invalidate r tag ∧ unbind = false) →
      (16 ≤ s.ks.invs.length → exec i s = .next (replyFinal s r.client r.slot p 0x0107 [])) ∧
      (s.ks.invs.length < 16 → s.root tag ≠ none → s.op (handleOf r.client r.slot p.seq) = none → Completes i s fun u =>
        Accepted u r p 6 0 ∧ u.gen tag = s.gen tag + 1 ∧ u.ks.invs = s.ks.invs ++ [⟨handleOf r.client r.slot p.seq, tag, s.gen tag + 1, unbind⟩] ∧
        u.ks.extents = s.ks.extents.filter (fun x => x.tag != tag) ∧ u.ks.roots = s.ks.roots ∧
        (u.op (handleOf r.client r.slot p.seq)).map (·.position) = some (s.outstanding tag (s.gen tag + 1))) ∧
      (s.ks.invs.length < 16 → s.root tag = none → s.op (handleOf r.client r.slot p.seq) = none →
        (∀ x ∈ s.ks.invs, x.handle ≠ handleOf r.client r.slot p.seq) → Completes i s fun u =>
        Replied u r 0x0002 [] ∧ u.gen tag = s.gen tag + 1 ∧ u.ks.invs = s.ks.invs ∧ u.ks.roots = s.ks.roots)) ∧
    (∀ addr enable msi, Ready r 0x0404 p s → addr % 4096 = 0 → ringLegal addr = true → enable = false ∨ s.parkedStreams = [] →
      exec (.faultRing r addr enable msi) s = .next (replyFinal (s.modKs fun k =>
        { k with ringEnable := enable, ringBase := addr, ringMsi := msi, head := if enable then 0 else k.head, tail := if enable then 0 else k.tail })
        r.client r.slot p 0x0000 [])) ∧
    (∀ t q, t < 1296 → q < 4 → Ready r 0x0405 p s →
      ((s.queue t q).fault = none → exec (.faultResolve r t q 1) s = .next (replyFinal s r.client r.slot p bsNoFault [])) ∧
      ∀ f, (s.queue t q).fault = some f →
        (Completes (.faultResolve r t q 1) s fun u => Replied u r 0x0000 [] ∧ u.queue t q = { s.queue t q with fault := none, fresh := true }) ∧
        ∀ e, (s.queue t q).active 1 = some e → e.seq = f.seq → e.chunks = [] → (s.tile t).chain = none →
          Completes (.faultResolve r t q 2) s fun u => Replied u r 0x0000 [] ∧ (u.queue t q).fault = none ∧
            HasEntry u t q f.seq fun y => y.phase = .finished ∧ y.status = 0x20 ∧ y.detail = BitVec.ofNat 64 f.va) ∧
    (∀ va level e, va < 2 ^ 57 → Ready r 0x0406 p s → (walk s tag va).2 = .leaf level e →
      let x := extentOf tag 0 va level e
      Completes (.probe r tag va) s fun u => Replied u r 0x0000
        [(1, 0), (1, level), (6, 0), (8, e.toNat), (8, x.vbase), (8, x.pbase + (va - x.vbase))] ∧ u.ks = s.ks) ∧
    (Ready r 0x0407 p s → exec (.keystoneStatus r) s = .next (replyFinal s r.client r.slot p 0x0000
      [(4, s.bound), (4, s.ks.invs.length), (4, s.ks.parked), (4, s.ks.overflow.toNat), (4, s.ks.walkers), (4, s.ks.extents.length)]))) ∧
  (∀ (val : W32) (s : State),
    (val.getLsbD 31 = false → exec (.ringctlWrite val) s =
      .next { s with ks := { s.ks with ringMsi := val.getLsbD 30, ringEnable := false } }) ∧
    (val.getLsbD 31 = true → s.ks.ringEnable = false → ringLegal s.ks.ringBase = true → Completes (.ringctlWrite val) s fun u =>
      u.ks.ringEnable = true ∧ u.ks.ringMsi = val.getLsbD 30 ∧ u.ks.ringBase = s.ks.ringBase ∧ u.ks.tail = 0 ∧
      (s.parkedStreams = [] → u.ks.head = 0)) ∧
    (val.getLsbD 31 = true → s.ks.ringEnable = false → ringLegal s.ks.ringBase = false → exec (.ringctlWrite val) s =
      .next { s with ks := { s.ks with ringMsi := val.getLsbD 30 } }) ∧
    ((val - s.ks.tail).toNat ≤ (s.ks.head - s.ks.tail).toNat → Completes (.ringtailWrite val) s fun u =>
      u.ks.tail = val ∧ u.ks.ringEnable = s.ks.ringEnable ∧ (s.parkedStreams = [] → u.ks.head = s.ks.head)) ∧
    ((s.ks.head - s.ks.tail).toNat < (val - s.ks.tail).toNat → exec (.ringtailWrite val) s = .next s))

/-- Accesses of the pool at its controllers (R194, R196, R197, R205, R206, R230, R410): a read of a codeword that differs in the further bits that
the command names delivers it from the adder store where it is resident, else as it decodes: as it is, corrected and waiting for its corrective
write, or as poison; a codeword of a pool that does not serve reads as poison and one without an error as its bytes. A write is
acknowledged, and a corrective write rewrites a corrected codeword; a refresh counts and changes no byte, and a calibration changes nothing.

A codeword written whole through a controller of a ready pool, where the adder store holds no copy, is what a read of it then delivers, and no
byte outside the codeword changes (R194, R196). -/
def Obligations.ControllerAccesses : Prop :=
  (∀ (cw ch : Nat) (s : State), okCw cw = true → ch < 512 →
    (∀ inner err,
      let e := Tab.get 0 s.pool.err cw ^^^ err
      let d := decodeCw (s.pool.data cw) (Tab.get false s.pool.poison cw) e
      (s.poolServes cw = false → exec (.memoryRead cw inner err) s = .next (s.send (.memData cw 0 true))) ∧
      (s.poolServes cw = true →
        (∀ x, s.adderEntry cw = some x → Completes (.memoryRead cw inner err) s fun u => u.out = .memData cw x.data false :: s.out) ∧
        (s.adderEntry cw = none →
          (e = 0 → Tab.get false s.pool.poison cw = false → inner = false → Completes (.memoryRead cw inner err) s fun u =>
            u.out = .memData cw (BitVec.ofNat 512 (Memory.le s.pool.bytes (64 * cw) 64)) false :: s.out ∧ u.pool.bytes = s.pool.bytes ∧
            u.pool.poison = s.pool.poison) ∧
          (d.1 = .clean → Completes (.memoryRead cw inner err) s fun u => u.out = .memData cw d.2.1 d.2.2 :: s.out ∧
            u.pool.bytes = s.pool.bytes ∧ u.pool.ceTotal = s.pool.ceTotal + if inner then 1 else 0) ∧
          (d.1 = .corrected → Completes (.memoryRead cw inner err) s fun u => u.out = .memData cw d.2.1 d.2.2 :: s.out ∧
            u.pool.bytes = s.pool.bytes ∧ u.pool.corrective.contains cw = true ∧ u.pool.ceTotal = s.pool.ceTotal + 1) ∧
          (d.1 = .uncorrectable → (s.hint 3).enable = false → Completes (.memoryRead cw inner err) s fun u =>
            u.out = .memData cw 0 true :: s.out ∧ Tab.get false u.pool.poison cw = true ∧ u.pool.ueTotal = s.pool.ueTotal + 1)))) ∧
    (∀ mask data, PlainCw s cw → mask ≠ 0 → Completes (.memoryWrite cw mask data) s fun u => u.out = .memAck cw false :: s.out ∧
      (∀ i, i < 64 → Memory.byte u.pool.bytes (64 * cw + i) =
        if mask.getLsbD i = true then data.extractLsb' (8 * i) 8 else Memory.byte s.pool.bytes (64 * cw + i)) ∧
      ∀ a, a < 64 * cw ∨ 64 * cw + 64 ≤ a → Memory.byte u.pool.bytes a = Memory.byte s.pool.bytes a) ∧
    (s.pool.corrective.contains cw = true → s.poolServes cw = true → Completes (.codewordCorrectiveWrite cw) s fun u =>
      let d := (s.pool.decode cw).2
      (d.2 = false → ∀ i, i < 64 → Memory.byte u.pool.bytes (64 * cw + i) = d.1.extractLsb' (8 * i) 8) ∧ Tab.get false u.pool.poison cw = d.2 ∧
      Tab.get 0 u.pool.err cw = 0 ∧ u.pool.corrective.contains cw = false ∧
      ∀ a, a < 64 * cw ∨ 64 * cw + 64 ≤ a → Memory.byte u.pool.bytes a = Memory.byte s.pool.bytes a) ∧
    (s.power.idle = .s0 → exec (.refresh ch) s = .next (bump s (unitCtr (memchBase ch) 5) 1)) ∧
    exec (.hbmCalibration ch) s = .next s) ∧
  (∀ (cw : Nat) (data : BitVec 512) (s : State), okCw cw = true → s.poolServes cw = true → s.adderEntry cw = none →
    Completes (.memoryWrite cw (BitVec.allOnes 64) data) s fun u =>
      (∀ i, i < 64 → Memory.byte u.pool.bytes (64 * cw + i) = data.extractLsb' (8 * i) 8) ∧
      (∀ a, a < 64 * cw ∨ 64 * cw + 64 ≤ a → Memory.byte u.pool.bytes a = Memory.byte s.pool.bytes a) ∧
      Tab.get false u.pool.poison cw = false ∧ Tab.get 0 u.pool.err cw = 0)

/-- Patrol scrub, row repair and the window of hot channels (R198–R202, R207): the scrub of a ready pool goes on to the next slot, and a codeword that it
finds without an error keeps its bytes; at a boundary after it was queued, a repaired row leaves its queue, and is substituted while its bank has a
spare row or else retired; a window's end, once at each tick number divisible by 1,000, judges every channel against its stack and starts a new
one. -/
def Obligations.ScrubAndRepair : Prop :=
  ∀ (s : State),
    (∀ inner errs, s.pool.scrubOn = true → s.poolReady = true → s.power.idle = .s0 → s.opOf 0x0801 = none →
      Completes (.patrolScrub inner errs) s fun u => u.pool.scrubPos = (s.pool.scrubPos + 1) % 2 ^ 20 ∧
        (errs = [] → s.pool.err = [] → (∀ c ∈ s.chans, c.2.adder = []) → u.pool.bytes = s.pool.bytes ∧ u.pool.poison = s.pool.poison)) ∧
    (∀ ch row queued rest, ch < 512 → (s.chan ch).repair = (row, queued) :: rest → s.poolReady = true → (s.chan ch).testOwner = false →
      queued < s.tick.boundaries →
      Completes (.rowRepair ch true) s (fun u => (u.chan ch).repair = rest ∧ row ∈ u.pool.repaired ∧ row ∈ u.pool.hardPending ∧
        row ∉ u.pool.softKept ∧ (u.events.getLast?.map fun e => (e.code, e.data)) = some (0x0103, [row.ch / 32, row.ch % 32, row.bank, row.row])) ∧
      (s.pool.retired.length < 4096 → Completes (.rowRepair ch false) s fun u => (u.chan ch).repair = rest ∧
        u.pool.retired = s.pool.retired ++ [row] ∧ (u.events.getLast?.map fun e => (e.code, e.data)) = some (0x0104, [s.rowPage row]))) ∧
    (∀ c, c < 512 → s.tick.num.toNat % 1000 = 0 → s.tick.num ≠ s.pool.windowTick → Tab.wf {} s.chans = true →
      let n := (s.chan c).window
      let sum := (rangeFrom (c / 32 * 32) 32).foldl (fun n i => n + (s.chan i).window) 0
      Completes .hotWindowEnd s fun u => (u.chan c).window = 0 ∧ (u.chan c).hot = decide (8 * sum ≤ 32 * n ∧ 8000000 ≤ n) ∧
        u.pool.windowTick = s.tick.num)

/-- The MEMORY commands (R204, R209, R210): MEMORY_INIT of a memory-idle pool and MEM_TRAFFIC are accepted as long operations, MEMORY_STATUS and
RETIRED_LIST answer, and SCRUB_SET sets the scrub.

The ends of MEMORY_INIT and MEM_TRAFFIC (R204, R205, R208, R209): an initialised pool is READY in the mode that was asked for, at the rate that its
stacks reach, which its command reports; a stack that fails leaves the pool UNINIT; a channel that finishes its run is DONE, and with the last of
them the operation ends with the count of the channels that met mismatches, and the foreground has its channels back. -/
def Obligations.MemoryCommands : Prop :=
  (∀ (r : Req) (p : Picked) (s : State),
    (∀ mode rate testKey key, mode < 2 → rate < 3 → Ready r 0x0301 p s → s.memBusy = false → s.memoryIdle = true →
      mode = 1 → s.boot.features.getLsbD 4 = true → Completes (.memoryInit r mode rate testKey key) s fun u =>
        Accepted u r p 2 Config.poolBytes ∧ u.pool.st = .initialising ∧ u.pool.newMode = true) ∧
    (∀ rate testKey key, rate < 3 → Ready r 0x0301 p s → s.memBusy = false → s.memoryIdle = true →
      Completes (.memoryInit r 0 rate testKey key) s fun u => Accepted u r p 2 Config.poolBytes ∧
        u.pool.st = .initialising ∧ u.pool.newMode = false ∧ u.pool.newRate = rate ∧ u.pool.newTestKey = testKey ∧ u.pool.newKey = key ∧
        u.pool.bytes = [] ∧ u.pool.poison = [] ∧ u.pool.err = [] ∧ u.pool.corrective = [] ∧ u.pool.hardPending = [] ∧
        (u.pier 0).lines = [] ∧ (u.pier 3).merges = [] ∧ (u.chan 511).adder = []) ∧
    (Ready r 0x0301 p s → s.memBusy = false → s.memoryIdle = false →
      exec (.memoryInit r 0 0 false 0) s = .next (replyFinal s r.client r.slot p bsMemInUse [])) ∧
    (Ready r 0x0302 p s → exec (.memoryStatus r) s = .next (replyFinal s r.client r.slot p 0x0000
      [(4, mempoolState s.pool), (4, s.pool.scrubPos), (4, s.pool.retired.length), (4, 0), (8, s.pool.ueTotal), (8, s.pool.ceTotal), (64, s.hotMask)])) ∧
    (∀ buf, buf < 2 ^ 64 → badBuffer r.client buf (16 * s.pool.retired.length) = false → Ready r 0x0303 p s →
      exec (.retiredList r buf) s = .next (replyFinal s r.client r.slot p 0x0000 (s.pool.retired.flatMap fun x =>
        [(1, x.ch / 32), (1, x.ch % 32), (1, x.pc), (1, x.bank), (4, x.row), (8, s.rowPage x)]))) ∧
    (∀ enable period, 1 ≤ period → period ≤ 168 → Ready r 0x0304 p s → exec (.scrubSet r enable period) s =
      .next (replyFinal { s with pool := { s.pool with scrubOn := enable, scrubHours := period } } r.client r.slot p 0x0000 [])) ∧
    (∀ mask : BitVec 512, Ready r 0x0801 p s → s.memBusy = false → s.memoryIdle = true →
      let h := handleOf r.client r.slot p.seq
      (mask ≠ 0 → Completes (.memTraffic r mask) s fun u => Accepted u r p 6 (maskBits 512 mask.toNat).length ∧ ∀ c, c < 512 →
        let C := u.chan c
        (mask.getLsbD c = true → C.testOwner = true ∧ C.tgRun = true ∧ C.tgDone = false ∧ C.tgErrors = 0 ∧ C.tgFirst = 0 ∧
          C.tgSeedRun = (s.chan c).tgseed ∧ C.tgLenRun = (s.chan c).tglen ∧ C.tgctl = (s.chan c).tgctl) ∧
        (mask.getLsbD c = false → C = s.chan c)) ∧
      (mask = 0 → s.op h = none → Completes (.memTraffic r mask) s fun u => u.op h = none ∧ u.chans = s.chans ∧
        let x := (u.slot r.client r.slot).reply
        x.status = 0x0002 ∧ x.final = true ∧ x.data = [(4, 0)] ∧ x.total = 0))) ∧
  (∀ (s : State) (o : LongOp),
    (s.opOf 0x0301 = some o → s.op o.handle = some o → s.pool.st = .initialising →
      (∀ rate key, rate < 3 →
        let reached := min rate (featureRate s (qualifiedRate s.pool.newRate))
        Completes (.memoryInitComplete rate none key) s fun u => u.pool.st = .ready ∧ u.pool.rate = reached ∧ u.pool.packageWide = s.pool.newMode ∧
          u.pool.testKey = s.pool.newTestKey ∧ u.pool.key = (if s.pool.newTestKey = true then s.pool.newKey else key) ∧ u.pool.scrubPos = 0 ∧
          u.pool.bytes = s.pool.bytes ∧ Finished s u o 0x0002 [(1, reached), (1, bitNat (decide (reached < s.pool.newRate)))]) ∧
      (∀ rate st key, rate < 3 → st < Config.hbmStacks → Completes (.memoryInitComplete rate (some st) key) s fun u =>
        u.pool = { s.pool with st := .uninit } ∧ Finished s u o 0x0302 [(4, st)])) ∧
    (s.opOf 0x0801 = some o → s.op o.handle = some o → ∀ chs errs, (∀ c ∈ chs, c < 512) → (∀ c ∈ o.left, c < 512) →
      ((∀ c ∈ o.left, c ∈ chs) → Completes (.memTrafficComplete chs errs) s fun u =>
        (∀ c ∈ o.left, (u.chan c).tgRun = false ∧ (u.chan c).testOwner = false ∧ (u.chan c).tgDone = ((s.chan c).tgRun || (s.chan c).tgDone)) ∧
        Finished s u o 0x0002 [(4, (o.left.filter fun c => (u.chan c).tgErrors != 0).length)]) ∧
      ((∃ c ∈ o.left, c ∉ chs ∧ (s.chan c).tgRun = true) → Completes (.memTrafficComplete chs errs) s fun u =>
        (∀ c ∈ o.left, c ∈ chs → (u.chan c).tgRun = false) ∧ (∀ c ∈ o.left, c ∉ chs → (u.chan c).tgRun = (s.chan c).tgRun) ∧
        (u.op o.handle).map (·.position) = some (o.left.filter fun c => !(u.chan c).tgRun).length)))

/-- Reads and writes at a home pier (R214–R219): a read of an ordinary line whose sectors are valid delivers their bytes and starts no fetch; one that
misses with room in the fill queue asks for the missing codewords, which are allocated unless the queue has reached FILLTHR; outside READY a read
delivers poison; a fetch that returns delivers the codeword, unless it was a prefetch, and fills its line; a write of a part of a line waits in the
merging buffer, one of the whole line goes to the stacks; and an entry leaves the buffer when it is old. -/
def Obligations.PierAccesses : Prop :=
  ∀ (p addr : Nat) (sectors : BitVec 4) (s : State), p < 4 → inPool addr = true → s.home addr = p →
    let line := addr / 128
    let P := s.pier p
    (sectors ≠ 0 →
      (s.poolServes (2 * line) = false → exec (.pierRead p addr sectors .none) s = .next (s.send (.pierData line sectors 0 3))) ∧
      (s.poolServes (2 * line) = true →
        (∀ c, P.find line = some c → sectors &&& ~~~c.valid = 0 → c.poison = 0 → P.entry line = none →
          Completes (.pierRead p addr sectors .none) s fun u =>
            u.out = .pierData line sectors (mergeLine (sectorMask sectors) 0 c.data) 0 :: s.out ∧ (u.pier p).fills = P.fills ∧
            (u.pier p).merges = P.merges ∧ u.pool = s.pool) ∧
        (sectors &&& ~~~P.validOf line ≠ 0 → P.fills.length < P.fillThr → P.fills.length + 2 ≤ 256 →
          Completes (.pierRead p addr sectors .none) s fun u =>
            let asked := (missing line sectors (P.validOf line)).map fun cw => (⟨cw, true, false, none⟩ : Fill)
            (u.pier p).fills.take (P.fills.length + asked.length) = P.fills ++ asked ∧ u.pool = s.pool ∧
            ∀ f ∈ (u.pier p).fills.drop (P.fills.length + asked.length), P.prefetch = true ∧ f.prefetch = true ∧ f.cw / 2 = line + 1) ∧
        (sectors &&& ~~~P.validOf line ≠ 0 → P.fillThr ≤ P.fills.length → P.fills.length + 2 ≤ 256 →
          Completes (.pierRead p addr sectors .none) s fun u =>
            (u.pier p).fills = P.fills ++ (missing line sectors (P.validOf line)).map (fun cw => ⟨cw, false, false, none⟩) ∧
            (u.pier p).lines.map (·.line) = P.lines.map (·.line) ∧ u.pool = s.pool))) ∧
    (∀ f, P.fills.find? (fun x => x.cw == f.cw) = some f → f.val = none → f.cw / 2 = line → P.entry line = none → s.poolServes f.cw = true →
      s.adderEntry f.cw = none → Tab.get 0 s.pool.err f.cw = 0 → Tab.get false s.pool.poison f.cw = false →
      let d := BitVec.ofNat 512 (Memory.le s.pool.bytes (64 * f.cw) 64)
      Completes (.fillReturn p f.cw false []) s fun u =>
        u.out = (if f.prefetch then s.out else .pierData line (BitVec.ofNat 4 (3 * 4 ^ (f.cw % 2))) (setHalf 0 (f.cw % 2) d) 0 :: s.out) ∧
        (u.pier p).fills = P.fills.eraseP (fun x => x.cw == f.cw) ∧
        (∀ c, (u.pier p).find line = some c → halfData c.data (f.cw % 2) = d ∧ c.halfValid (f.cw % 2) = true ∧ c.poison.getLsbD (f.cw % 2) = false) ∧
        u.pool.bytes = s.pool.bytes) ∧
    (∀ mask data, addr % 128 = 0 → writePoison s line mask = none → P.entry line = none → (∀ f ∈ P.fills, f.cw / 2 ≠ line) →
      P.merges.length < 895 →
      (mask ≠ 0 → mask ≠ BitVec.allOnes 128 → Completes (.pierWrite p line mask data) s fun u =>
        u.out = .memAck (2 * line) false :: s.out ∧ (u.pier p).merges = P.merges ++ [⟨line, mask, mergeLine mask 0 data⟩] ∧ u.pool = s.pool) ∧
      (mask = BitVec.allOnes 128 → s.adderEntry (2 * line) = none → s.adderEntry (2 * line + 1) = none →
        Completes (.pierWrite p line mask data) s fun u => u.out = .memAck (2 * line) false :: s.out ∧ (u.pier p).merges = P.merges ∧
          (∀ i, i < 128 → Memory.byte u.pool.bytes (128 * line + i) = data.extractLsb' (8 * i) 8) ∧
          (∀ a, a < 128 * line ∨ 128 * line + 128 ≤ a → Memory.byte u.pool.bytes a = Memory.byte s.pool.bytes a))) ∧
    (∀ m, P.entry line = some m → Completes (.mergeAgeDrain p line .none) s fun u =>
      (u.pier p).merges = P.merges.filter (fun e => e.line != line) ∧
      (m.mask = (BitVec.allOnes 64).setWidth 128 → s.poolServes (2 * line) = true → s.adderEntry (2 * line) = none →
        (∀ i, i < 64 → Memory.byte u.pool.bytes (128 * line + i) = m.data.extractLsb' (8 * i) 8) ∧
        ∀ a, a < 128 * line ∨ 128 * line + 64 ≤ a → Memory.byte u.pool.bytes a = Memory.byte s.pool.bytes a)) ∧
    (P.entry line = none → exec (.mergeAgeDrain p line .none) s = .next s)

/-- CACHE_RANGE and its end (R221–R224, R234): a legal range of a ready pool, with no range operation in progress, is accepted, and the engines of the
four piers start on it; a further one is answered BUSY; an engine comes as far as it has worked, and stops at the end of the range; with the last
engine the operation ends, and a LOCK reports the lines that it left unlocked.

What INVALIDATE and UNLOCK do to a line of a pier (R221): it leaves the pier, or its lock bit is cleared, and every other line stays. -/
def Obligations.CacheRanges : Prop :=
  (∀ (r : Req) (p : Picked) (start len : Nat) (s : State),
    (badRange start len = false → Ready r 0x0305 p s →
      (s.opOf 0x0305 = none → s.poolReady = true →
        let started := fun (op : Nat) (u : State) => Accepted u r p 2 len ∧ u.pool = s.pool ∧ ∀ k, k < 4 →
          (u.pier k).rangeBusy = true ∧ (u.pier k).rangeOp = op ∧ (u.pier k).rangeStart = start ∧ (u.pier k).rangeLen = len ∧
          (u.pier k).rangePos = 0 ∧ (u.pier k).unlocked = 0 ∧ (u.pier k).lines = (s.pier k).lines ∧ (u.pier k).merges = (s.pier k).merges
        Completes (.cacheRangeInvalidate r start len) s (started 1) ∧ Completes (.cacheRangeDrainMerge r start len) s (started 2) ∧
        Completes (.cacheRangePrefetch r start len) s (started 3) ∧ Completes (.cacheRangeLock r start len) s (started 4) ∧
        Completes (.cacheRangeUnlock r start len) s (started 5)) ∧
      ((s.opOf 0x0305).isSome = true → exec (.cacheRangeLock r start len) s = .next (replyFinal s r.client r.slot p bsBusy []))) ∧
    (∀ o k, s.opOf 0x0305 = some o → s.op o.handle = some o → k < 4 → (s.pier k).rangeBusy = true →
      (s.pier k).rangeLen % 128 = 0 → (s.pier k).rangePos % 128 = 0 → (s.pier k).rangePos ≤ (s.pier k).rangeLen →
      (∀ upto, upto % 128 = 0 → (s.pier k).rangePos ≤ upto → upto < (s.pier k).rangeLen →
        (s.pier k).rangeOp = 1 ∨ (s.pier k).rangeOp = 2 ∨ (s.pier k).rangeOp = 5 → Completes (.cacheRangeComplete k upto) s fun u =>
          (u.pier k).rangePos = upto ∧ (u.pier k).rangeBusy = true ∧ (u.op o.handle).map (·.position) = some u.rangeReached) ∧
      ((∀ j, j < 4 → j ≠ k → (s.pier j).rangeBusy = false) →
        ((s.pier k).rangeOp = 1 ∨ (s.pier k).rangeOp = 2 ∨ (s.pier k).rangeOp = 5 → (s.pier 0).rangeOp ≠ 4 →
          Completes (.cacheRangeComplete k (s.pier k).rangeLen) s fun u =>
            (u.pier k).rangePos = (s.pier k).rangeLen ∧ (u.pier k).rangeBusy = false ∧ Finished s u o 0x0002 []) ∧
        ((s.pier k).rangeOp = 4 → (s.pier 0).rangeOp = 4 → (s.pier k).fills.length < (s.pier k).fillThr →
          Completes (.cacheRangeComplete k (s.pier k).rangeLen) s fun u =>
            (u.pier k).rangePos = (s.pier k).rangeLen ∧ (u.pier k).rangeBusy = false ∧ Finished s u o 0x0002
              [(4, (u.pier 0).unlocked + (u.pier 1).unlocked + (u.pier 2).unlocked + (u.pier 3).unlocked)])))) ∧
  (∀ (p line : Nat) (s : State),
    (let P := (rangeLine 1 p line s).pier p
     P.find line = none ∧ ∀ x, x ≠ line → P.find x = (s.pier p).find x) ∧
    (let P := (rangeLine 5 p line s).pier p
     (∀ c, P.find line = some c → c.lock = false) ∧ ∀ x, x ≠ line → P.find x = (s.pier p).find x) ∧
    (rangeLine 1 p line s).pool = s.pool ∧ (rangeLine 5 p line s).pool = s.pool)

/-- CACHE_WAY and the ends of its operations (R225, R226, R234, R235): INVALIDATE of a way that is off is accepted and clears INVDONE, which its end sets;
ENABLE of an invalidated way within the limit answers OK, and the way waits for the boundary; one that was not invalidated is refused; DISABLE is
accepted and the way drains, or ends at once where the way is off; its end powers the way down and its lines are lost; and CACHE_STATUS answers. -/
def Obligations.CacheWays : Prop :=
  ∀ (r : Req) (k : Picked) (p w : Nat) (s : State), p < 4 → w < 17 →
    let P := s.pier p
    (Ready r 0x0306 k s →
      (P.wayOn w = false → Completes (.cacheWayInvalidate r p w) s fun u => Accepted u r k 5 65536 ∧ w ∈ (u.pier p).wayInv ∧
        (u.pier p).invDone = P.invDone &&& ~~~wayBit w ∧ (u.pier p).powered = P.powered ∧ (u.pier p).lines = P.lines) ∧
      (P.wayOn w = true → exec (.cacheWayInvalidate r p w) s = .next (replyFinal s r.client r.slot k bsWayEnabled [])) ∧
      (P.invDone.getLsbD w = true → P.wayOn w = false → (maskBits 17 ((P.powered &&& ~~~P.draining) ||| P.enablePend).toNat).length < 16 →
        Completes (.cacheWayEnable r p w) s fun u => Replied u r 0x0000 [] ∧ (u.pier p).enable = P.enable ||| wayBit w ∧
          (u.pier p).enablePend = P.enablePend ||| wayBit w ∧ (u.pier p).powered = P.powered) ∧
      (P.invDone.getLsbD w = false → exec (.cacheWayEnable r p w) s = .next (replyFinal s r.client r.slot k bsWayNotInv [])) ∧
      (P.wayOn w = true → Completes (.cacheWayDisable r p w) s fun u => Accepted u r k 5 65536 ∧ (u.pier p).draining = P.draining ||| wayBit w ∧
        (u.pier p).enable = P.enable &&& ~~~wayBit w ∧ (u.pier p).enablePend = P.enablePend &&& ~~~wayBit w ∧ (u.pier p).lines = P.lines) ∧
      (P.wayOn w = false → Completes (.cacheWayDisable r p w) s fun u =>
        u.op (handleOf r.client r.slot k.seq) = none ∧ (u.pier p).draining = P.draining ∧ (u.pier p).lines = P.lines)) ∧
    (Ready r 0x0307 k s → exec (.cacheStatus r p) s = .next (replyFinal s r.client r.slot k 0x0000 [(4, P.enable.toNat), (4, P.powered.toNat),
      (4, P.invDone.toNat), (4, P.locked), (4, P.merges.length), (4, mkBit 31 P.rangeBusy + P.rangeOp), (8, P.rangePos), (4, pcacheErr P)])) ∧
    (w ∈ P.wayInv → Completes (.wayInvalidateComplete p w) s fun u => w ∉ (u.pier p).wayInv ∧ (u.pier p).invDone = P.invDone ||| wayBit w ∧
      ∀ o, s.wayOps (wayMark 0 p w) = [o] → s.op o.handle = some o → Finished s u o 0x0002 []) ∧
    (P.draining.getLsbD w = true → P.fillsWay w = false →
      Completes (.wayPowerDownComplete p w 65536) s (fun u => (u.pier p).powered = P.powered &&& ~~~wayBit w ∧
        (u.pier p).invDone = P.invDone &&& ~~~wayBit w ∧ (u.pier p).draining = P.draining &&& ~~~wayBit w ∧ (∀ c ∈ (u.pier p).lines, c.way ≠ w) ∧
        (∀ c ∈ P.lines, c.way ≠ w → c ∈ (u.pier p).lines) ∧ ∀ o, s.wayOps (wayMark 1 p w) = [o] → s.op o.handle = some o → Finished s u o 0x0002 []) ∧
      ∀ upto, upto < 65536 → Tab.get 0 P.wayDrain w ≤ upto → Completes (.wayPowerDownComplete p w upto) s fun u =>
        (u.pier p).powered = P.powered ∧ (u.pier p).draining = P.draining ∧ Tab.get 0 (u.pier p).wayDrain w = upto ∧
        ∀ c ∈ (u.pier p).lines, c.way = w → upto ≤ setOf c.line) ∧
    (P.draining.getLsbD w = true → P.fillsWay w = true → exec (.wayPowerDownComplete p w 65536) s = .next s) ∧
    (∀ val : W32, Completes (.wayctlDisableWrite p val) s fun u => (u.pier p).enable = P.enable &&& val.setWidth 17 ∧
      (u.pier p).powered = P.powered ∧ (u.pier p).lines = P.lines ∧
      (P.enable.getLsbD w = true → P.wayOn w = true → val.getLsbD w = false → (u.pier p).draining.getLsbD w = true)) ∧
    (P.enable = 0 → P.draining = 0 → P.powered = 0 → P.enablePend = 0 → Completes (.wayctlEnableWrite p (BitVec.ofNat 32 (2 ^ w))) s fun u =>
      if P.invDone.getLsbD w = true then (u.pier p).enable = wayBit w ∧ (u.pier p).enablePend = wayBit w ∧ (u.pier p).refused = P.refused
      else (u.pier p).enable = 0 ∧ (u.pier p).refused = true)

/-- Adder operations (R227–R231): a legal, aligned operation on a resident codeword answers the old element with the flags of the operation's value, which
takes the element's place in the adder store; outside READY it answers poison; an illegal one changes nothing; a resident codeword that has been idle
is written back, and an absent one is not.

An integer addition at an adder (R228, R230): with the codeword resident and no entry of the merging buffer over its line, the old element is
answered, the sum modulo 2^32 takes its place in the adder store and the codeword's other words stay, and the stack is not written. -/
def Obligations.AdderOperations : Prop :=
  (∀ (addr : Nat) (a : BitVec 8) (v cmp : BitVec 128) (s : State), addr < Config.physEnd →
    (aLegal a = true → addr % aSize (aType a) = 0 → inPool addr = true →
      (s.poolServes (addr / 64) = false → exec (.adderOperation addr a v cmp .none) s = .next (s.send (.adder 0 0 true))) ∧
      (∀ e, s.poolServes (addr / 64) = true → s.adderEntry (addr / 64) = some e → (s.pier (s.home addr)).entry (addr / 128) = none →
        let w := 8 * aSize (aType a)
        let old := e.data.toNat / 2 ^ (8 * (addr % 64)) % 2 ^ w
        Completes (.adderOperation addr a v cmp .none) s fun u =>
          u.out = .adder (BitVec.ofNat 128 old) (adderValue a old v.toNat cmp.toNat).2 false :: s.out ∧ u.pool = s.pool ∧
          ∀ x, u.adderEntry (addr / 64) = some x →
            x.data.toNat / 2 ^ (8 * (addr % 64)) % 2 ^ w = (adderValue a old v.toNat cmp.toNat).1 % 2 ^ w)) ∧
    (aLegal a = false → exec (.adderOperation addr a v cmp .none) s = .next s) ∧
    (addr % aSize (aType a) ≠ 0 → exec (.adderOperation addr a v cmp .none) s = .next s) ∧
    ∀ ch cw, ch < 512 →
      (∀ e, (s.chan ch).adder.find? (fun x => x.cw == cw) = some e → Completes (.adderStoreEvict ch cw .none) s fun u =>
        (u.chan ch).adder = (s.chan ch).adder.filter (fun x => x.cw != cw) ∧
        (∀ i, i < 64 → Memory.byte u.pool.bytes (64 * cw + i) = e.data.extractLsb' (8 * i) 8) ∧
        (∀ b, b < 64 * cw ∨ 64 * cw + 64 ≤ b → Memory.byte u.pool.bytes b = Memory.byte s.pool.bytes b) ∧
        Tab.get false u.pool.poison cw = false ∧ Tab.get 0 u.pool.err cw = 0 ∧ (u.chan ch).window = (s.chan ch).window + 64) ∧
      ((s.chan ch).adder.find? (fun x => x.cw == cw) = none → exec (.adderStoreEvict ch cw .none) s = .next s)) ∧
  (∀ (addr : Nat) (v cmp : BitVec 128) (e : AdderEntry) (s : State), inPool addr = true → addr % 4 = 0 → s.poolServes (addr / 64) = true →
    s.adderEntry (addr / 64) = some e → (s.pier (s.home addr)).entry (addr / 128) = none →
    let word := fun (d : BitVec 512) (i : Nat) => d.toNat / 2 ^ (32 * i) % 2 ^ 32
    let i := addr % 64 / 4
    Completes (.adderOperation addr 0x00 v cmp .none) s fun u =>
      u.out = .adder (BitVec.ofNat 128 (word e.data i)) 0 false :: s.out ∧ u.pool = s.pool ∧
      ∃ x, u.adderEntry (addr / 64) = some x ∧ word x.data i = (word e.data i + v.toNat) % 2 ^ 32 ∧
        ∀ j, j < 16 → j ≠ i → word x.data j = word e.data j)

/-- Requests at an arbiter (R238, R242, R245–R250): one of a line with an open transaction waits in the table. At an idle arbiter a GetS or GetM of a
line without an entry is sent the line's data and enters the directory; one of an owned line goes on to the owner; a GetM of a shared line
invalidates the other sharers first; and a coherent tile access takes an owner's line back to the pier, invalidates sharers, or acts at once at the
home pier where no cluster has the line. A parked cluster sends no request, and a GetM of a line in the writeback buffer waits for WbAck.

Messages to an arbiter (R245–R250): an acknowledgement, downgrade data or DONE is noted in the line's transaction; the last acknowledgement of a GetM
sends the data; a transaction with nothing left to come closes; downgrade data and the owner's evicted data go to the home pier, with their poison, any
other cluster's are discarded, and an eviction is acknowledged. -/
def Obligations.ArbiterTransactions : Prop :=
  (∀ (cl line : Nat) (s : State), cl < 24 → inPool (64 * line) = true →
    let a := homeArb line
    let A := s.arb a
    let P := s.pier (s.home (64 * line))
    let plain := s.poolServes line = true ∧ P.find (line / 2) = none ∧ P.entry (line / 2) = none ∧ s.adderEntry line = none ∧
      Tab.get 0 s.pool.err line = 0 ∧ Tab.get false s.pool.poison line = false
    let stored := BitVec.ofNat 512 (Memory.le s.pool.bytes (64 * line) 64)
    let opened := fun (u : State) => ((u.arb a).trans line).map fun t => (t.req.kind, t.req.src, t.acks, t.downwb, t.needDone)
    (s.awake cl = false → exec (.gets cl line) s = .next s ∧ exec (.getm cl line) s = .next s) ∧
    (s.awake cl = true → (s.cluster cl).wb.any (fun l => l.line == line) = true → Completes (.getm cl line) s fun u =>
      line ∈ (u.cluster cl).waitM ∧ u.arbs = s.arbs ∧ u.out = s.out) ∧
    (A.held = [] → A.credit = [] →
      (A.busy line = true →
        let waits := fun (kind : Nat) (u : State) => (u.arb a).held.map (fun r => (r.kind, r.src, r.line)) = [(kind, cl, line)] ∧
          (u.arb a).dir = A.dir ∧ (u.arb a).open_ = A.open_ ∧ u.out = s.out
        (s.awake cl = true → Completes (.gets cl line) s (waits 0)) ∧
        (s.awake cl = true → (s.cluster cl).wb.any (fun l => l.line == line) = false → Completes (.getm cl line) s (waits 1)) ∧
        Completes (.tread cl line) s (waits 2) ∧ ∀ mask val, Completes (.twrite cl line mask val) s (waits 3)) ∧
      (A.busy line = false → A.entry line = none →
        (s.awake cl = true → (A.dirSet line).length < 16 →
          (Completes (.gets cl line) s fun u => (u.arb a).entry line = some ⟨line, none, [cl]⟩ ∧ opened u = some (0, cl, [], none, true) ∧
            ∃ d p rest, u.out = .coh "Data" cl line d p :: rest ∧ (plain → d = stored ∧ p = false ∧ rest = s.out)) ∧
          ((s.cluster cl).wb.any (fun l => l.line == line) = false → Completes (.getm cl line) s fun u =>
            (u.arb a).entry line = some ⟨line, some cl, []⟩ ∧ opened u = some (1, cl, [], none, true) ∧
            ∃ d p rest, u.out = .coh "Data" cl line d p :: rest ∧ (plain → d = stored ∧ p = false ∧ rest = s.out))) ∧
        (plain → Completes (.tread cl line) s fun u => u.out = .tileAck cl (stored.setWidth 1024) 0 false :: s.out ∧ u.arb a = A) ∧
        (∀ (mask : BitVec 64) (val : BitVec 512), mask ≠ 0 → s.poolServes line = true → P.entry (line / 2) = none →
          (∀ f ∈ P.fills, f.cw / 2 ≠ line / 2) → P.merges.length < 895 →
          let m := mask.setWidth 128 <<< (64 * (line % 2))
          writePoison s (line / 2) m = none → Completes (.twrite cl line mask val) s fun u => u.out = .tileAck cl 0 0 false :: s.out ∧
            (u.pier (s.home (64 * line))).merges =
              P.merges ++ [⟨line / 2, m, mergeLine m 0 (val.setWidth 1024 <<< (512 * (line % 2)))⟩]) ∧
        ∀ addr op x y e, addr / 64 = line → aLegal op = true → addr % aSize (aType op) = 0 → s.poolServes line = true →
          s.adderEntry line = some e → P.entry (line / 2) = none →
          let old := e.data.toNat / 2 ^ (8 * (addr % 64)) % 2 ^ (8 * aSize (aType op))
          Completes (.top cl addr op x y) s fun u =>
            u.out = .tileAck cl (BitVec.ofNat 1024 old) (adderValue op old x.toNat y.toNat).2 false :: s.out) ∧
      (∀ own sh, A.busy line = false → A.entry line = some ⟨line, some own, sh⟩ →
        (s.awake cl = true → Completes (.gets cl line) s fun u => u.out = .coh "FwdGetS" own line 0 false :: s.out ∧
          (u.arb a).entry line = some ⟨line, none, addNew [own] cl⟩ ∧ opened u = some (0, cl, [], some own, true)) ∧
        (s.awake cl = true → (s.cluster cl).wb.any (fun l => l.line == line) = false → Completes (.getm cl line) s fun u =>
          u.out = .coh "FwdGetM" own line 0 false :: s.out ∧ (u.arb a).entry line = some ⟨line, some cl, []⟩ ∧
          opened u = some (1, cl, [], none, true)) ∧
        (Completes (.tread cl line) s fun u => u.out = .coh "FwdGetS" own line 0 false :: s.out ∧
          (u.arb a).entry line = some ⟨line, none, [own]⟩ ∧ opened u = some (2, cl, [], some own, false)) ∧
        ∀ mask val, Completes (.twrite cl line mask val) s fun u => u.out = .coh "FwdInv" own line 0 false :: s.out ∧
          (u.arb a).entry line = none ∧ opened u = some (3, cl, [], some own, false)) ∧
      (∀ sh, A.busy line = false → A.entry line = some ⟨line, none, sh⟩ → sh ≠ [] →
        let invs := fun (l : List Nat) => l.reverse.map fun c => Out.coh "Inv" c line 0 false
        (s.awake cl = true → sh.filter (· != cl) ≠ [] → (s.cluster cl).wb.any (fun l => l.line == line) = false →
          Completes (.getm cl line) s fun u => u.out = invs (sh.filter (· != cl)) ++ s.out ∧
            (u.arb a).entry line = some ⟨line, some cl, []⟩ ∧ opened u = some (1, cl, sh.filter (· != cl), none, true)) ∧
        ∀ mask val, Completes (.twrite cl line mask val) s fun u => u.out = invs sh ++ s.out ∧ (u.arb a).entry line = none ∧
          opened u = some (3, cl, sh, none, false)))) ∧
  (∀ (cl line : Nat) (val : BitVec 512) (x : Trans) (s : State), cl < 24 → inPool (64 * line) = true → s.node.waitReqs = [] →
    let a := homeArb line
    let A := s.arb a
    let home := s.home (64 * line)
    let quiet := s.poolServes line = true ∧ (s.pier home).entry (line / 2) = none ∧ (s.pier home).merges.length < 895 ∧
      ∀ f ∈ (s.pier home).fills, f.cw / 2 ≠ line / 2
    let mask := (BitVec.allOnes 64).setWidth 128 <<< (64 * (line % 2))
    let taken := fun (d : BitVec 512) (u : State) => quiet → (u.pier home).merges =
      (s.pier home).merges ++ [⟨line / 2, mask, mergeLine mask 0 (d.setWidth 1024 <<< (512 * (line % 2)))⟩]
    (A.trans line = some x →
      (cl ∈ x.acks →
        (x.acks.filter (· != cl) ≠ [] → Completes (.ack cl line) s fun u =>
          (u.arb a).trans line = some { x with acks := x.acks.filter (· != cl) } ∧ u.out = s.out) ∧
        (x.acks.filter (· != cl) = [] → x.req.kind = 1 → x.needDone = true → Completes (.ack cl line) s fun u =>
          (u.arb a).trans line = some { x with acks := [] } ∧ ∃ d p rest, u.out = .coh "Data" x.req.src line d p :: rest)) ∧
      (cl ∉ x.acks → exec (.ack cl line) s = .next s) ∧
      (x.downwb = some cl → x.needDone = true →
        (Completes (.downwb cl line val false) s fun u => (u.arb a).trans line = some { x with downwb := none } ∧ taken val u) ∧
        Completes (.downwb cl line val true) s fun u => (u.arb a).trans line = some { x with downwb := none } ∧
          (quiet → Tab.get false u.pool.poison line = true)) ∧
      (x.downwb ≠ some cl → exec (.downwb cl line val false) s = .next s) ∧
      (x.acks = [] → x.downwb = none → x.req.kind < 2 → A.held = [] → A.credit = [] → Completes (.done line) s fun u =>
        (u.arb a).trans line = none ∧ (u.arb a).dir = A.dir ∧ u.out = s.out) ∧
      (x.acks ≠ [] → Completes (.done line) s fun u => (u.arb a).trans line = some { x with needDone := false } ∧ u.out = s.out)) ∧
    (s.awake cl = true →
      (∀ l, (s.cluster cl).lines.find? (fun l => l.line == line && l.m) = some l → l.poison = false → A.owner line = some cl →
        Completes (.putm cl line val false) s fun u => (∃ rest, u.out = .coh "WbAck" cl line 0 false :: rest) ∧ (u.arb a).owner line = none ∧
          (u.cluster cl).lines = (s.cluster cl).lines.filter (fun l => l.line != line) ∧ l ∈ (u.cluster cl).wb ∧ taken l.data u) ∧
      ((s.cluster cl).dirty line = none → A.owner line = some cl → Completes (.putm cl line val false) s fun u =>
        (∃ rest, u.out = .coh "WbAck" cl line 0 false :: rest) ∧ (u.arb a).owner line = none ∧ taken val u) ∧
      (A.owner line ≠ some cl → Completes (.putm cl line val false) s fun u => u.out = .coh "WbAck" cl line 0 false :: s.out ∧
        u.arbs = s.arbs ∧ u.piers = s.piers ∧ u.pool = s.pool)) ∧
    (s.awake cl = false → exec (.putm cl line val false) s = .next s))

/-- A cluster's answers (R238, R242, R243, R246, R247): one that holds a line in M, or in its writeback buffer, sends it on to the requester, to memory or to
both, and keeps it in S or drops it; one that does not hold it leaves such a message alone; a sharer drops the line and acknowledges; data is
installed and acknowledged; and a writeback buffer is released, upon which a GetM that waited for it is sent. -/
def Obligations.ClusterAnswers : Prop :=
  ∀ (cl line req : Nat) (s : State), cl < 24 → inPool (64 * line) = true →
    let C := s.cluster cl
    let a := homeArb line
    let dropped := fun (u : State) => (u.cluster cl).lines = C.lines.filter (fun l => l.line != line) ∧
      (u.cluster cl).res = C.res.filter (fun e => e.2 != line) ∧ (u.cluster cl).wb = C.wb
    (∀ l, C.dirty line = some l →
      (req < 24 → Completes (.fwdgets cl line req) s fun u =>
        u.out = .coh "DownWB" a line l.data l.poison :: .coh "Data" req line l.data l.poison :: s.out ∧
        (u.cluster cl).lines = C.lines.map (fun x => if x.line = line then { x with m := false } else x)) ∧
      (24 ≤ req → Completes (.fwdgets cl line req) s fun u => u.out = .coh "DownWB" a line l.data l.poison :: s.out ∧
        (u.cluster cl).lines = C.lines.map (fun x => if x.line = line then { x with m := false } else x)) ∧
      (req < 24 → Completes (.fwdgetm cl line req) s fun u => u.out = .coh "Data" req line l.data l.poison :: s.out ∧ dropped u) ∧
      Completes (.fwdinv cl line) s fun u => u.out = .coh "DownWB" a line l.data l.poison :: s.out ∧ dropped u) ∧
    (C.dirty line = none → exec (.fwdgets cl line req) s = .next s ∧ (req < 24 → exec (.fwdgetm cl line req) s = .next s) ∧
      exec (.fwdinv cl line) s = .next s) ∧
    (s.awake cl = true →
      (Completes (.inv cl line) s fun u => u.out = .coh "Ack" a line 0 false :: s.out ∧ dropped u) ∧
      ∀ m val, ((C.drop line).set line).length < 16 → Completes (.data cl line m val false) s fun u =>
        u.out = .coh "Done" a line 0 false :: s.out ∧
        (u.cluster cl).lines = ⟨line, m, val, false⟩ :: C.lines.filter fun l => l.line != line) ∧
    (s.awake cl = false → exec (.inv cl line) s = .next s ∧ ∀ m val p, exec (.data cl line m val p) s = .next s) ∧
    (line ∉ C.waitM → Completes (.wback cl line) s fun u =>
      (u.cluster cl).wb = C.wb.filter (fun l => l.line != line) ∧ (u.cluster cl).lines = C.lines ∧ u.arbs = s.arbs ∧ u.out = s.out) ∧
    (line ∈ C.waitM → s.awake cl = true → (s.arb a).held = [] → (s.arb a).credit = [] → (s.arb a).busy line = false →
      (s.arb a).entry line = none → ((s.arb a).dirSet line).length < 16 → Completes (.wback cl line) s fun u =>
        (u.cluster cl).wb = C.wb.filter (fun l => l.line != line) ∧ line ∉ (u.cluster cl).waitM ∧ (u.arb a).owner line = some cl)

/-- Host interrupts (R252–R254): enabling an entry whose address is legal, and one whose address is not; clearing MASK with a pending interrupt, which makes
its identity pending in the interrupt file; clearing ENABLE; a write of an identity to an interrupt file; and the event of a root port.

A PCIe window (R441): a store of a host core in the window of a port that is up leaves it at the bus address that UPPER gives; a host core's
access in a window whose port is down or absent raises an access fault, and a HOSTINT write there counts in BADCOMMIT of client 1. -/
def Obligations.HostInterrupts : Prop :=
  (∀ (n : Nat) (val : W32) (s : State), n < 256 →
    let e := s.hint n
    let addr := e.addrLo.toNat + 2 ^ 32 * e.addrHi.toNat
    let pending := fun (f ident : Nat) (u : State) => Tab.get 0 u.imsic f = Tab.get 0 s.imsic f ||| BitVec.ofNat 256 (2 ^ ident)
    (val.getLsbD 31 = true → val.getLsbD 30 = true → (imsicFile addr).isSome = true →
      exec (.hostintCtlWrite n val false) s = .next (s.setHint n { e with enable := true, mask := true })) ∧
    (val.getLsbD 31 = true → val.getLsbD 30 = true → e.enable = false → (imsicFile addr).isSome = false → endpointRange s addr = false →
      exec (.hostintCtlWrite n val false) s = .next (s.setHint n { e with enable := false, mask := true, pend := false })) ∧
    (∀ f, val.getLsbD 31 = true → val.getLsbD 30 = false → e.enable = true → e.pend = true → imsicFile addr = some f → addr % 0x1000 = 0 →
      1 ≤ e.data.toNat → e.data.toNat ≤ 255 → Completes (.hostintCtlWrite n val false) s fun u =>
        u.hint n = { e with mask := false, pend := false } ∧ u.out = .msi addr e.data :: s.out ∧ pending f e.data.toNat u) ∧
    (val.getLsbD 31 = false → exec (.hostintCtlWrite n val false) s =
      .next (s.setHint n { e with enable := false, mask := val.getLsbD 30, pend := false })) ∧
    (∀ f, f < 96 → 1 ≤ val.toNat → val.toNat ≤ 255 → Completes (.seteipnumWrite (0x400004000000 + 0x1000 * f) val) s fun u =>
      pending f val.toNat u ∧ u.hostint = s.hostint ∧ u.out = s.out) ∧
    (∀ port, port < 4 →
      (s.pcieMode port = 0 → (s.hint (16 + port)).enable = true → (s.hint (16 + port)).mask = true →
        exec (.pciePortEvent port) s = .next (s.setHint (16 + port) { s.hint (16 + port) with pend := true })) ∧
      (s.pcieMode port = 0 → (s.hint (16 + port)).enable = false → exec (.pciePortEvent port) s = .next s) ∧
      (s.pcieMode port ≠ 0 → exec (.pciePortEvent port) s = .next s))) ∧
  (∀ (hart addr size : Nat) (val : W64) (s : State), hart < 96 → 0x500000000000 ≤ addr → addr < 0x580000000000 → size = 4 ∨ size = 8 → addr % size = 0 →
    let n := (addr - 0x500000000000) / 2 ^ 40
    (n < 4 → exec (.pcieWindowAccess false true hart addr size val true) s = .next
      (s.send (.pcie n true ((Tab.get 0 s.upper n).toNat % 2 ^ 24 * 2 ^ 40 + addr % 2 ^ 40) val))) ∧
    (∀ up write, up = false ∨ 4 ≤ n → exec (.pcieWindowAccess false write hart addr size val up) s = .next
      (s.send (.hostFault hart addr (if write then 7 else 5)))) ∧
    (∀ up, up = false ∨ 4 ≤ n → size = 4 → exec (.pcieWindowAccess true true hart addr size val up) s = .next (countBadCommit s 1)))

/-- Training and use of a bundle pair (R256, R261, R264–R268): ends that find the other's identity foreign, or no common width, leave the pair down; a training
forms the maps of both bundles from the lanes that are usable, initialises their credits and sends LINKUP both ways, and a failed alignment is tried
once more; equal hashes at both ends bring the pair up, a difference is answered with MAPFAULT, and MAPFAULT trains from step 1; a replay resends
and counts; a header parity error asks for a replay, and the eighth of a packet trains the pair, or marks a bond's die degraded; a lane that fails its
eye check makes a need.

The LINK commands (R272): DIE_LINK_RETRAIN of an idle pair is accepted and waits for the boundary; DIE_LINK_STATUS answers each pair's state, width, spare lanes, hashes and failed lanes. -/
def Obligations.DieLinks : Prop :=
  (∀ (l n : Nat) (s : State), wfPair l n = true →
    let x := s.pair l n
    let idW := endIdentity s l n false
    let idE := endIdentity s l n true
    let others := ∃ k, k < Config.pairs l ∧ k ≠ n ∧ (s.pair l k).st ≠ 0
    (x.st = 1 → x.mapE = 0 → x.op = none → x.held = none → x.afterFault = false → ∀ e w align,
      let useE := e &&& ~~~recordedFails s l n 0
      let useW := w &&& ~~~recordedFails s l n 1
      (∀ i j, (i, j) ≠ (idW, idE) → others → Completes (.bundleTrainingDone l n i j align e w) s fun u => (u.pair l n).st = 0) ∧
      Completes (.bundleTrainingDone l n idW idE align e w) s fun u =>
        if min (laneClass useE) (laneClass useW) = 0 then
          others → (u.pair l n).st = 0 ∧ (u.pair l n).failE = x.failE ||| (~~~e &&& ~~~recordedFails s l n 0)
        else if align = true then
          (u.pair l n).st = 1 ∧ (u.pair l n).mapE = useE ∧ (u.pair l n).mapW = useW ∧
          (u.pair l n).failE = x.failE ||| (~~~e &&& ~~~recordedFails s l n 0) ∧ (u.pair l n).failW = x.failW ||| (~~~w &&& ~~~recordedFails s l n 1) ∧
          (u.bundle (bundleKey l n 0)).used = [] ∧ (u.bundle (bundleKey l n 1)).used = [] ∧ (u.bundle (bundleKey l n 0)).await = none ∧
          ∃ rest, u.out = .linkup l n false (u.pair l n).hashes.1 (u.pair l n).hashes.2 ::
            .linkup l n true (u.pair l n).hashes.1 (u.pair l n).hashes.2 :: rest
        else if x.again = false then (u.pair l n).st = 1 ∧ (u.pair l n).mapE = 0 ∧ (u.pair l n).again = true
        else others → (u.pair l n).st = 0) ∧
    (x.st = 1 → x.mapE ≠ 0 → x.held = none →
      (x.okW = false → Completes (.linkup l n true x.hashes.1 x.hashes.2) s fun u => u.pair l n = { x with okE := true } ∧ u.out = s.out) ∧
      (x.okW = true → x.op = none → Completes (.linkup l n true x.hashes.1 x.hashes.2) s fun u =>
        (u.pair l n).st = (if x.cls = 2 then 2 else 3) ∧ (u.pair l n).mapE = x.mapE ∧ (u.pair l n).mapW = x.mapW) ∧
      (x.okE = true → x.op = none → Completes (.linkup l n false x.hashes.1 x.hashes.2) s fun u =>
        (u.pair l n).st = (if x.cls = 2 then 2 else 3)) ∧
      ∀ east hE hW, x.hashes ≠ (hE, hW) → exec (.linkup l n east hE hW) s = .next (s.send (.mapfault l n))) ∧
    (x.st ≠ 0 → x.op = none → Completes (.mapfault l n) s fun u => (u.pair l n).st = 1 ∧ (u.pair l n).mapE = 0 ∧ (u.pair l n).mapW = 0 ∧
      (u.pair l n).afterFault = true ∧ u.out = .identity l n false idE :: .identity l n true idW :: s.out) ∧
    (2 ≤ x.st → ∀ (east : Bool) count, count < 512 →
      let key := bundleKey l n (if east then 0 else 1)
      let b := s.bundle key
      (x.replayLog.length < 999 → Completes (.trussReplay l n east count) s fun u => (u.pair l n).replays = min 0xFFFF (x.replays + 1) ∧
        (u.bundle key).await = none ∧ u.out = .bundleResend l n count (keptHeads b count) :: s.out) ∧
      (b.await = none → b.failsOf count < 8 → Completes (.bundleHeaderParityError false l n east count) s fun u =>
        u.out = .bundleReplay l n count :: s.out ∧ (u.bundle key).await = some count ∧ (u.bundle key).fails = b.failsOf count) ∧
      (b.await = none → 8 ≤ b.failsOf count → Completes (.bundleHeaderParityError false l n east count) s fun u =>
        (u.pair l n).st = 1 ∧ (u.pair l n).mapE = 0 ∧ (u.pair l n).mapW = 0) ∧
      (∀ c, b.await = some c → exec (.bundleHeaderParityError false l n east count) s = .next s) ∧
      ∀ lane outright, lane < 68 →
        let scope := bundleScope l n (if east then 0 else 1)
        Completes (.laneEyeCheckFailure l n east lane outright) s fun u =>
          if (recordedFails s l n (if east then 0 else 1)).getLsbD lane = true then u = s
          else s.sparesLeft 2 scope ≠ 0 ∨ outright = true →
            ∃ d ∈ u.wear.queue, d.kind = 2 ∧ d.scope = scope ∧ d.res = lane ∧ (outright = true → d.urgent = true)) ∧
    ∀ (deck : Nat) (east : Bool) count, deck < 12 → count < 512 →
      let b := s.bundle (bondKey deck (if east then 0 else 1))
      (b.failsOf count < 8 → Completes (.bundleHeaderParityError true deck n east count) s fun u =>
        u.out = .bundleResend (bondLink deck) 0 count (keptHeads b count) :: .bundleReplay (bondLink deck) 0 count :: s.out ∧
        u.degraded = s.degraded) ∧
      (8 ≤ b.failsOf count → Completes (.bundleHeaderParityError true deck n east count) s fun u =>
        u.degraded.contains deck = true ∧ (u.events.getLast?.map fun v => (v.code, v.die)) = some (0x0202, deck))) ∧
  (∀ (r : Req) (p : Picked) (l n : Nat) (s : State), wfPair l n = true → badLink l = false →
    (Ready r 0x0502 p s → (s.pair l n).op = none → Completes (.dieLinkRetrain r l n) s fun u => Accepted u r p 7 6 ∧
      u.pair l n = { s.pair l n with retrainPend := true, op := some (handleOf r.client r.slot p.seq) } ∧ u.out = s.out) ∧
    (Ready r 0x0502 p s → (s.pair l n).op ≠ none → exec (.dieLinkRetrain r l n) s = .next (replyFinal s r.client r.slot p bsBusy [])) ∧
    (Ready r 0x0501 p s → exec (.dieLinkStatus r l) s = .next (replyFinal s r.client r.slot p 0x0000
      ((rangeFrom 0 (Config.pairs l)).flatMap fun k =>
        let x := s.pair l k
        [(1, x.st), (1, classLanes x.cls), (1, x.spareE), (1, x.spareW), (4, x.hashes.1.toNat), (4, x.hashes.2.toNat),
          (9, (recordedFails s l k 0).toNat), (9, (recordedFails s l k 1).toNat)]))))

/-- Events of an optical port (R275–R284): a training that leaves fewer than seven wavelengths takes the port down, any other sends the PEERID; the recorded
peer opens the port and any other holds it; LINKDOWN and a failed laser take it down; a loss of lock trains it again; a replay resends and counts;
the first failure of a flit asks for a replay, later flits are discarded until it comes, and the sixteenth failure trains the port; a wavelength above
the limit in a third window is worn.

A packet for another node (R283, R290–R292): it leaves on the port of its route with HOPS one higher and the same content, or, where the pod table
gives no way, a NACK goes to its source. -/
def Obligations.OpticalPorts : Prop :=
  (∀ (port : Nat) (s : State), port < 48 →
    let o := s.port port
    let last := fun (u : State) => u.events.getLast?.map fun v => (v.code, v.data)
    (o.st = 1 → o.laserDown = false → o.txWave = 0 → o.op = none → ∀ tx rx,
      let t := chosenWaves tx
      let r := chosenWaves (rx &&& ~~~o.worn)
      (waves t < 7 ∨ waves r < 7 → Completes (.portTrainingDone port tx rx) s fun u =>
        (u.port port).st = 0 ∧ (u.port port).txWave = 0 ∧ (u.port port).rxWave = 0 ∧ last u = some (0x0302, [port, 2])) ∧
      (waves t = 8 → waves r = 8 → Completes (.portTrainingDone port tx rx) s fun u =>
        (u.port port).st = 1 ∧ (u.port port).txWave = t ∧ (u.port port).rxWave = r ∧
        u.out = .peerid port ⟨false, s.node.phys, port, Config.fingerprint⟩ :: s.out ∧ u.events = s.events) ∧
      (waves t = 7 → 7 ≤ waves r → Completes (.portTrainingDone port tx rx) s fun u =>
        (u.port port).txWave = t ∧ (u.port port).rxWave = r ∧ last u = some (0x0301, [port, 7, waves r]))) ∧
    (o.st = 1 → o.txWave ≠ 0 → o.op = none → ∀ g phys pp fp, phys < 2 ^ 20 → pp < 64 →
      let x : Peer := ⟨g, phys, pp, fp⟩
      (o.peer = some x → o.queue = [] → Completes (.peerid port g phys pp fp) s fun v => (v.port port).st = (if o.narrow then 4 else 3) ∧
        (v.port port).peer = some x ∧ (v.port port).recv = some x ∧ (v.port port).used = [] ∧ (v.port port).unacked = []) ∧
      (o.peer ≠ some x → Completes (.peerid port g phys pp fp) s fun v => (v.port port).st = 2 ∧ (v.port port).recv = some x ∧
        (v.port port).peer = o.peer ∧ (last v).map (·.1) = some 0x0003)) ∧
    (o.st ≠ 0 → Completes (.linkdown port) s fun u => (u.port port).st = 0 ∧ (u.port port).txWave = 0 ∧ (u.port port).rxWave = 0 ∧
      last u = some (0x0302, [port, 3])) ∧
    (o.st = 0 → exec (.linkdown port) s = .next s) ∧
    (2 ≤ o.st → Completes (.portLossOfLock port) s fun u => (u.port port).st = 1 ∧ (u.port port).txWave = 0 ∧ (u.port port).rxWave = 0 ∧
      (u.port port).recv = none ∧ (u.port port).peer = o.peer) ∧
    (o.st < 2 → exec (.portLossOfLock port) s = .next s) ∧
    (o.laserDown = false → Completes (.laserFailure port) s fun u => (u.port port).laserDown = true ∧ (u.port port).st = 0 ∧
      (s.sparesLeft 4 (port / 12) ≠ 0 → ∃ d ∈ u.wear.queue, d.kind = 4 ∧ d.scope = port / 12 ∧ d.res = port ∧ d.urgent = true)) ∧
    (o.laserDown = true → exec (.laserFailure port) s = .next s) ∧
    (2 ≤ o.st → ∀ fseq, fseq < 1024 →
      (Completes (.flitReplay port fseq) s fun u => (u.port port).replays = min 0xFFFF (o.replays + 1) ∧
        ∃ more, u.out = more ++ .resend port fseq :: s.out ∧ (o.unacked = [] → more = [])) ∧
      (o.rxWait = none → o.flitFails = 0 → ∀ fec, Completes (.flitCheckFailure port fseq fec) s fun u =>
        (u.port port).rxWait = some fseq ∧ (u.port port).flitFails = 1 ∧ u.out = .replay port fseq :: s.out ∧
        (u.port port).fecUnc = if fec then min 0xFFFF (o.fecUnc + 1) else o.fecUnc) ∧
      (∀ w, o.rxWait = some w → w ≠ fseq → Completes (.flitCheckFailure port fseq false) s fun u => u.port port = o ∧ u.out = s.out) ∧
      (o.rxWait = some fseq → o.flitFails = 15 → o.failSeq = fseq → Completes (.flitCheckFailure port fseq false) s fun u =>
        (u.port port).st = 1 ∧ (u.port port).txWave = 0 ∧ (u.port port).rxWait = none)) ∧
    (2 ≤ o.st → ∀ (w : BitVec 9) i, i < 9 → Completes (.waveErrorWindow port w) s fun v =>
      (o.rxWave.getLsbD i = true → Tab.get 0 (v.port port).overWin i = (if w.getLsbD i then Tab.get 0 o.overWin i + 1 else 0) ∧
        (w.getLsbD i = true → Tab.get 0 o.overWin i = 2 → (v.port port).worn.getLsbD i = true ∧
          ∃ d ∈ v.wear.queue, d.kind = 3 ∧ d.scope = port ∧ d.res = i)) ∧
      (o.rxWave.getLsbD i = false → Tab.get 0 (v.port port).overWin i = Tab.get 0 o.overWin i))) ∧
  (∀ (port x : Nat) (p : Pkt) (s : State), port < 48 → p.plane = planeOf port → s.takes port p = true → p.dphys ≠ s.node.phys → p.ver = 0 →
    (WayOut s x p.dphys → planeOf x = planeOf port → p.hops < 63 → flitsOf p ≤ 24 → p.cls ≠ 4 → p.cls < 8 → Completes (.flitForward port p) s fun u =>
      LeftLast u x fun q => q.hops = p.hops + 1 ∧ q.cls = p.cls ∧ q.typ = p.typ ∧ q.dphys = p.dphys ∧ q.dlog = p.dlog ∧ q.depoch = p.depoch ∧
        q.sphys = p.sphys ∧ q.tag = p.tag ∧ q.addr = p.addr ∧ q.payload = p.payload ∧ q.level = p.level ∧ q.plane = p.plane) ∧
    (routeDir s.node p.dphys = none → WayOut s x p.sphys → Completes (.flitForward port p) s fun u =>
      u.node.refused = min 0xFFFF (s.node.refused + 1) ∧ u.node.cause = 0x08 ∧
      LeftLast u x fun q => q.cls = 1 ∧ q.typ = 3 ∧ q.aux = 0x08 ∧ q.dphys = p.sphys ∧ q.tag = p.tag))

/-- The PORT and NODE commands (R279, R287–R294, R297, R300): PORT_STATUS answers, PORT_OPEN opens a HELD port, PORT_RETRAIN trains it, NODE_ROLE and
ROUTE_LOAD set the node's place, NODEMAP_SYNC its map, WINDOW_SET and WINDOW_CLOSE a window, EXPORT_SET an entry.

Writes of a window's CTL and of an export entry (R293, R294, R301): a write of 1 to V opens the window where its base and size are legal and never
closes it; an entry is written by one access of 8 B, and a 4 B write of its half is ignored. -/
def Obligations.NodeCommands : Prop :=
  (∀ (r : Req) (p : Picked) (port w : Nat) (s : State), port < 48 → w < 4096 →
    let ok := fun (u : State) => Host.Outcome.next (φ := Fault) (ρ := Refusal) (replyFinal u r.client r.slot p 0x0000 [])
    let h := handleOf r.client r.slot p.seq
    let o := s.port port
    (Ready r 0x0503 p s → exec (.portStatus r port) s = .next (replyFinal s r.client r.slot p 0x0000
      [(4, oportStatus o), (1, waves o.txWave), (1, waves o.rxWave), (2, bitNat o.lspare), (4, (peerAB o.peer).1), (4, (peerAB o.peer).2),
       (4, (peerAB o.recv).1), (4, (peerAB o.recv).2), (2, o.replays), (2, o.fecUnc)])) ∧
    (Ready r 0x0504 p s → o.st = 2 → Completes (.portOpen r port) s fun u => Replied u r 0x0000 [] ∧
      (u.port port).st = (if o.narrow then 4 else 3) ∧ (u.port port).peer = o.recv ∧ (u.port port).used = [] ∧ (u.port port).unacked = []) ∧
    (Ready r 0x0504 p s → o.st ≠ 2 → exec (.portOpen r port) s = .next (replyFinal s r.client r.slot p bsNotHeld [])) ∧
    (Ready r 0x0505 p s → o.op = none →
      (o.laserDown = false → Completes (.portRetrain r port) s fun u => Accepted u r p 7 6 ∧ (u.port port).st = 1 ∧
        (u.port port).op = some h ∧ (u.port port).txWave = 0 ∧ (u.port port).rxWave = 0 ∧ (u.port port).recv = none) ∧
      (o.laserDown = true → Completes (.portRetrain r port) s fun u => u.op h = none ∧ (u.port port).st = o.st)) ∧
    (∀ logical epoch rolev, Ready r 0x0506 p s → logical < 2 ^ 24 → epoch < 2 ^ 8 → exec (.nodeRole r logical epoch rolev) s =
      ok { s with node := { s.node with logical := logical, epoch := epoch, rolev := rolev } }) ∧
    (∀ phys ex ey ez wrap pods, Ready r 0x0507 p s → phys < 2 ^ 20 → badRoutes ex ey ez pods = false → exec (.routeLoad r phys ex ey ez wrap pods) s =
      ok { s with node := { s.node with phys := phys, ex := ex - 1, ey := ey - 1, ez := ez - 1, wrap := wrap,
                                        pods := pods.foldl (fun t e => Tab.set none t e.1 (some e.2)) [] } }) ∧
    (∀ base len, Ready r 0x0508 p s → base % 8 = 0 → len ≤ 2 ^ 24 → base + 8 * len ≤ Config.poolBytes → Completes (.nodemapSync r base len) s fun u =>
      Accepted u r p 0 0 ∧ u.node = { s.node with mapBase := base, mapLen := len }) ∧
    (∀ o, s.opOf 0x0508 = some o → s.op o.handle = some o → Completes .nodemapSyncComplete s fun u =>
      Finished s u o 0x0002 [] ∧ u.node = { s.node with mapCache := [] }) ∧
    (∀ base size rights hc jobchk sv sm, Ready r 0x0509 p s → legalWindow base size = true → (s.window w).v = false →
      exec (.windowSet r w base size rights hc jobchk sv sm) s = ok (s.modWindow w fun x =>
        { x with size := size, rights := rights, hc := hc, jobchk := jobchk, baseLo := BitVec.ofNat 32 base,
                 baseHi := BitVec.ofNat 32 (base / 2 ^ 32), srcVal := sv.setWidth 32, srcMask := sm.setWidth 32 })) ∧
    (∀ base size rights hc jobchk sv sm, Ready r 0x0509 p s → legalWindow base size = true → (s.window w).v = true →
      exec (.windowSet r w base size rights hc jobchk sv sm) s = .next (replyFinal s r.client r.slot p bsWindowOpen [])) ∧
    (Ready r 0x050A p s → (s.window w).closeOp = none → Completes (.windowClose r w) s fun u => Accepted u r p 6 0 ∧
      u.window w = { s.window w with v := false, closeOp := some h } ∧ (u.op h).map (·.position) = some (outstanding s w)) ∧
    (∀ o, (s.window w).closeOp = some o.handle → s.op o.handle = some o →
      (outstanding s w = 0 → Completes (.windowCloseComplete w) s fun u => Finished s u o 0x0002 [] ∧
        u.window w = { s.window w with closeOp := none }) ∧
      (outstanding s w ≠ 0 → Completes (.windowCloseComplete w) s fun u => (u.op o.handle).map (·.position) = some (outstanding s w) ∧
        u.window w = s.window w)) ∧
    (∀ e node v, Ready r 0x050B p s → e < 4096 → node < 2 ^ 24 → exec (.exportSet r e node w v) s = ok (s.setExp e ⟨v, w, node⟩))) ∧
  (∀ (w : Nat) (val : W32) (v8 : W64) (s : State), w < 4096 →
    let x := s.window w
    let size := val.toNat % 32
    let base := x.baseLo.toNat / 65536 * 65536 + x.baseHi.toNat % 65536 * 2 ^ 32
    let wr := { x with v := x.v || (val.getLsbD 31 && legalWindow base size), hc := val.getLsbD 30, jobchk := val.getLsbD 29,
                       rights := BitVec.ofNat 3 (val.toNat / 2 ^ 26 % 8), size := size }
    exec (.importOpen w val) s = .next (s.modWindow w fun _ => wr) ∧
    exec (.exportEntryWrite w 8 v8) s = .next (s.setExp w ⟨v8.getLsbD 63, v8.toNat / 2 ^ 32 % 4096, v8.toNat % 2 ^ 24⟩) ∧
    exec (.exportEntryWrite w 4 v8) s = .next s)

/-- Requests of other nodes that a port takes for this node (R288, R294–R296): one under another role is refused with STALE_ROLE, one that its window refuses
with that cause, each with a NACK; a READ is answered by DATA with the bytes of the pool; a WRITE is taken by the merging buffer and answered by ACK; an
ATOMIC acts on its element in the adder store, and is answered by DATA with the old value, or by ACK with the flags where it raised one. -/
def Obligations.RemoteRequests : Prop :=
  ∀ (port x : Nat) (p : Pkt) (s : State), port < 48 → p.cls = 0 → s.takes port p = true → p.dphys = s.node.phys → p.ver = 0 → WayOut s x p.sphys →
    let answered := fun (u : State) (P : Pkt → Prop) =>
      LeftLast u x fun q => q.cls = 1 ∧ q.dphys = p.sphys ∧ q.dlog = p.slog ∧ q.depoch = p.sepoch ∧ q.tag = p.tag ∧ P q
    let refused := fun (c : Nat) (u : State) => u.node.cause = c ∧ u.pool = s.pool ∧ answered u fun q => q.typ = 3 ∧ q.aux = c
    let a := s.importAddr p
    let hc := (s.window (p.addr / 2 ^ 35 % 4096)).hc
    (s.roleOk p = false → (p.typ = 1 → Completes (.remoteRead port p) s (refused 0x07)) ∧
      (p.typ = 2 → Completes (.remoteWrite port p) s (refused 0x07)) ∧ (p.typ = 3 → Completes (.remoteAtomic port p) s (refused 0x07))) ∧
    (∀ c, s.roleOk p = true → importCause s p = some c → (p.typ = 1 → Completes (.remoteRead port p) s (refused c)) ∧
      (p.typ = 2 → Completes (.remoteWrite port p) s (refused c)) ∧ (p.typ = 3 → Completes (.remoteAtomic port p) s (refused c))) ∧
    (s.roleOk p = true → importCause s p = none → hc = false →
      (p.typ = 1 → 1 ≤ p.len → a % 64 + p.len ≤ 64 → PlainCw s (a / 64) → Completes (.remoteRead port p) s fun u =>
        u.pool.bytes = s.pool.bytes ∧ answered u fun q => q.typ = 1 ∧ q.poison = false ∧ q.payload = Memory.bytes s.pool.bytes a p.len) ∧
      (p.typ = 2 → 1 ≤ p.payload.length → a % 128 + p.payload.length ≤ 128 → p.payload.length < 128 → Mergeable s (a / 128) →
        let m := lineMask (a / 128) a p.payload.length
        writePoison s (a / 128) m = none → Completes (.remoteWrite port p) s fun u =>
          (u.pier (s.home a)).merges = (s.pier (s.home a)).merges ++
            [⟨a / 128, m, mergeLine m 0 (BitVec.ofNat 1024 (leNat p.payload * 256 ^ (a % 128)))⟩] ∧
          u.pool = s.pool ∧ answered u fun q => q.typ = 2 ∧ q.aux = 0 ∧ q.payload = []) ∧
      (∀ e, let op := BitVec.ofNat 8 p.aux
        let sz := aSize (aType op)
        p.typ = 3 → a % sz = 0 → p.payload.length = (if p.aux % 16 = 7 then 2 * sz else sz) → s.poolServes (a / 64) = true →
        s.adderEntry (a / 64) = some e → (s.pier (s.home a)).entry (a / 128) = none →
        let old := e.data.toNat / 2 ^ (8 * (a % 64)) % 2 ^ (8 * sz)
        let v := adderValue op old (leNat (p.payload.take sz)) (leNat (p.payload.drop sz))
        Completes (.remoteAtomic port p) s fun u => u.pool = s.pool ∧
          (∀ y, u.adderEntry (a / 64) = some y → y.data.toNat / 2 ^ (8 * (a % 64)) % 2 ^ (8 * sz) = v.1 % 2 ^ (8 * sz)) ∧
          answered u fun q => q.payload = leBytes sz old ∧ q.typ = (if v.2 = 0 then 1 else 2) ∧ q.aux = v.2.toNat))

/-- Answers of other nodes (R288, R295, R296, R298, R320): an answer ends its request, and a hart's load takes the data, or an access fault where it is
refused or poisoned; a refused store of a hart is an event; an answer under another role, or that no request waits for, is discarded; an unanswered
request completes as UNREACHABLE after TIMEOUT ticks, and not before.

Accesses of host cores (R197, R236, R237, R240, R242, R247, R251, R269, R298): a load or store hits a line that its cluster holds, in M for a store, and
else asks the home arbiter for it; a poisoned line gives an access fault; an AMO acts in the L2 on a line in M; a load or store of the aperture is sent
as a request, or refused with an access fault or REMOTE_STORE_REFUSED; an AMO, LR or SC outside the pool, a fetch outside it, and an access of
device register space that is not aligned or meets no register raise an access fault; and an access of a die that has reset is answered as poison. -/
def Obligations.RemoteAnswers : Prop :=
  (∀ (port hart : Nat) (p : Pkt) (q : Rem) (s : State), port < 48 → s.takes port p = true → p.dphys = s.node.phys → p.cls = 1 →
    let ended := fun (u : State) => u.node.rems = s.node.rems.filter fun x => x.tag != p.tag
    let data := Out.hostData hart (BitVec.ofNat 512 (leNat p.payload))
    let last := fun (u : State) => u.events.getLast?.map fun v => (v.code, v.data)
    let top := fun (u : State) (x : Out) => ∃ rest, u.out = x :: rest
    (s.roleOk p = true → s.node.rems.find? (fun r => r.tag == p.tag) = some q →
      (q.kind = .hostLoad hart →
        (p.typ = 1 → p.poison = false → Completes (.rspData port p) s fun u => ended u ∧ top u data) ∧
        (p.typ = 1 → p.poison = true → Completes (.rspData port p) s fun u => ended u ∧ top u (.hostFault hart q.addr 5)) ∧
        (p.typ = 3 → Completes (.rspNack port p) s fun u => ended u ∧ top u (.hostFault hart q.addr 5) ∧ u.node.cause = p.aux)) ∧
      (q.kind = .hostStore hart →
        (p.typ = 2 → Completes (.rspAck port p) s fun u => ended u ∧ u.events = s.events ∧ u.node.refused = s.node.refused) ∧
        (p.typ = 3 → Completes (.rspNack port p) s fun u => ended u ∧ last u = some (0x0305, [q.addr, p.aux]) ∧ u.node.cause = p.aux))) ∧
    (s.roleOk p = false →
      let kept := fun (u : State) => u.node.rems = s.node.rems ∧ u.node.cause = 0x07 ∧ u.node.refused = min 0xFFFF (s.node.refused + 1)
      (p.typ = 1 → Completes (.rspData port p) s kept) ∧ (p.typ = 2 → Completes (.rspAck port p) s kept) ∧
      (p.typ = 3 → Completes (.rspNack port p) s kept)) ∧
    (s.roleOk p = true → s.node.rems.find? (fun r => r.tag == p.tag) = none → p.typ = 1 → Completes (.rspData port p) s fun u =>
      u.node.rems = s.node.rems ∧ u.node.refused = s.node.refused ∧ u.tiles = s.tiles ∧ u.msgs = s.msgs ∧ u.clusters = s.clusters) ∧
    (∀ tag, tag < 65536 → s.node.rems.find? (fun r => r.tag == tag) = some q →
      (q.age < s.node.timeout → exec (.remoteTimeout tag) s = .next s) ∧
      (s.node.timeout ≤ q.age → q.kind = .hostLoad hart → Completes (.remoteTimeout tag) s fun u =>
        u.out = .hostFault hart q.addr 5 :: s.out ∧ u.node.rems = s.node.rems.filter fun x => x.tag != tag) ∧
      (s.node.timeout ≤ q.age → q.kind = .hostStore hart → Completes (.remoteTimeout tag) s fun u =>
        u.node.rems = (s.node.rems.filter fun x => x.tag != tag) ∧ last u = some (0x0305, [q.addr, 0x08]) ∧
        0x0306 ∈ u.events.map (·.code)))) ∧
  (∀ (hart addr size : Nat) (val : BitVec 512) (l : HLine) (s : State), hart < 96 → 1 ≤ size → size ≤ 64 → addr + size ≤ Config.physEnd →
    s.awake (hart / 4) = true →
    let cl := hart / 4
    let C := s.cluster cl
    let line := addr / 64
    let exp := s.exp (addr / 2 ^ 35 % 4096)
    let last := fun (u : State) => u.events.getLast?.map fun v => (v.code, v.data)
    (addr + size ≤ Config.poolBytes → addr % 64 + size ≤ 64 →
      (C.line line = none →
        (Completes (.hostApertureLoad hart addr size false) s fun u => u.out = .coh "GetS" cl line 0 false :: s.out ∧ u.clusters = s.clusters) ∧
        (C.wb.any (fun x => x.line == line) = false → Completes (.hostApertureStore hart addr size .store val) s fun u =>
          u.out = .coh "GetM" cl line 0 false :: s.out ∧ u.clusters = s.clusters)) ∧
      (C.line line = some l →
        (l.poison = false → Completes (.hostApertureLoad hart addr size false) s fun u =>
          u.out = .hostData hart (BitVec.ofNat 512 (l.data.toNat / 256 ^ (addr % 64) % 256 ^ size)) :: s.out) ∧
        (l.poison = true → exec (.hostApertureLoad hart addr size false) s = .next (s.send (.hostFault hart addr 5))) ∧
        (l.m = true → l.poison = true → exec (.hostApertureStore hart addr size .store val) s = .next (s.send (.hostFault hart addr 7))) ∧
        (l.m = true → l.poison = false → Completes (.hostApertureStore hart addr size .store val) s fun u => u.out = s.out ∧
          ∀ x, (u.cluster cl).line line = some x → x.m = true ∧
            x.data.toNat / 256 ^ (addr % 64) % 256 ^ size = val.toNat % 256 ^ size ∧
            x.data.toNat % 256 ^ (addr % 64) = l.data.toNat % 256 ^ (addr % 64)) ∧
        (l.m = true → Completes (.hostApertureStore hart addr size .zero val) s fun u => u.out = s.out ∧
          ∀ x, (u.cluster cl).line line = some x → x.data = 0 ∧ x.poison = false) ∧
        (l.m = true → l.poison = false → size = 8 → addr % 8 = 0 → ∀ v, Completes (.hostApertureAmo hart addr (.amo 0) 8 v) s fun u =>
          let old := l.data.toNat / 256 ^ (addr % 64) % 2 ^ 64
          u.out = .hostData hart (BitVec.ofNat 512 old) :: s.out ∧
          ∀ x, (u.cluster cl).line line = some x → x.data.toNat / 256 ^ (addr % 64) % 2 ^ 64 = (old + v.toNat) % 2 ^ 64) ∧
        (l.m = true → l.poison = false → size = 8 → addr % 8 = 0 → Completes (.hostApertureAmo hart addr .lr 8 0) s fun u =>
          (hart % 4, line) ∈ (u.cluster cl).res) ∧
        ((hart % 4, line) ∉ C.res → size = 8 → addr % 8 = 0 → ∀ v, Completes (.hostApertureAmo hart addr .sc 8 v) s fun u =>
          u.out = .hostData hart 1 :: s.out ∧ (u.cluster cl).lines = C.lines))) ∧
    (0x400000000000 ≤ addr → addr < 0x500000000000 →
      (deviceTakes addr size = true →
        exec (.hostApertureLoad hart addr size false) s =
          .next (s.send (.hostData hart (BitVec.ofNat 512 (regValue s addr + if size = 8 then regValue s (addr + 4) * 2 ^ 32 else 0)))) ∧
        exec (.hostApertureStore hart addr size .store val) s = .next (doRegisterWrite addr size (val.setWidth 64) s)) ∧
      (deviceTakes addr size = false →
        exec (.hostApertureLoad hart addr size false) s = .next (s.send (.hostFault hart addr 5)) ∧
        exec (.hostApertureStore hart addr size .store val) s = .next (s.send (.hostFault hart addr 7)))) ∧
    (Config.apertureBase ≤ addr →
      (exp.v = false →
        (Completes (.hostApertureLoad hart addr size false) s fun u => u.out = .hostFault hart addr 5 :: s.out ∧ u.node.cause = 0x10) ∧
        (Completes (.hostApertureStore hart addr size .store val) s fun u => last u = some (0x0305, [addr, 0x10]) ∧ u.node.cause = 0x10)) ∧
      exec (.hostApertureLoad hart addr size true) s = .next (s.send (.hostFault hart addr 1)) ∧
      (size = 8 → ∀ v, exec (.hostApertureAmo hart addr (.amo 0) 8 v) s = .next (s.send (.hostFault hart addr 7)) ∧
        exec (.hostApertureAmo hart addr .lr 8 v) s = .next (s.send (.hostFault hart addr 5))) ∧
      ∀ x ep ph, exp.v = true → s.ownNode exp.node = false → exp.node < s.node.mapLen →
        let pier := dieColumn (dieAbut (cl / 12))
        let a := s.node.mapBase + 8 * exp.node
        (s.node.cacheOf pier).find? (fun e => e.1 == exp.node) = none → a % 8 = 0 → (s.arb (homeArb (a / 64))).busy (a / 64) = false →
        (s.arb (homeArb (a / 64))).owner (a / 64) = none → PlainCw s (a / 64) →
        mapEntry (leNat (Memory.bytes s.pool.bytes a 8)) = some ⟨false, ep, ph⟩ → WayOut s x ph → s.job.st ≠ .run →
        let sent := fun (typ : Nat) (kind : RemKind) (u : State) => ∃ tag,
          u.node.rems = s.node.rems ++ [{ tag := tag, kind := kind, addr := addr, len := size }] ∧ LeftLast u x fun q => q.cls = 0 ∧ q.typ = typ ∧ q.tag = tag ∧ q.dphys = ph ∧ q.depoch = ep ∧ q.dlog = exp.node ∧
            q.addr = exp.window * 2 ^ 35 + addr % 2 ^ 35 ∧ q.len = size
        Completes (.hostApertureLoad hart addr size false) s (sent 1 (.hostLoad hart))) ∧
    (line ∈ C.lost → Completes (.dieResetResponse (.hart hart addr)) s fun u => (∃ rest, u.out = .hostFault hart addr 5 :: rest) ∧
      last u = some (0x0107, [line * 64, hart]) ∧ (u.cluster cl).lost = C.lost.filter (· != line)) ∧
    (line ∉ C.lost → exec (.dieResetResponse (.hart hart addr)) s = .next s) ∧
    ∀ t q chunk va e c, t < 1296 → q < 4 → (s.queue t q).active 1 = some e → e.chunks = [c] → c.idx = chunk →
      Completes (.dieResetResponse (.mover t q chunk va)) s fun u => HasEntry u t q e.seq fun y =>
        y.chunks = [{ c with acks := c.acks.map fun a => if a.reset && (a.home.map (·.1)) == some (va / 64 * 64) then
          { a with poison := some (va / 64 * 64), fetch := none, reset := false } else a }])

/-- A boundary of the running tick (R17, R226, R296, R350): its number and the count of boundaries rise by one, a way that was enabled allocates from then on, every
waiting request of another node grows a tick older, and a manager that runs gives the largest grant whose predicted power fits the allowance; a node
whose tick does not run has no boundary.

The tick and its parents (R302–R305, R319): TIMESYNC leaves with its departure time, once at each boundary divisible by 100; one of the peer's is answered
with its times, and an answer gives a port's one-way delay; a heartbeat gives a neighbour's tick; an UNLOCKED node with a usable parent acquires from
the parent's number, and is LOCKED when acquisition ends; a parent that is lost gives way to the next, or to HOLDOVER; 5 ms and 100 ms of which make
the node unaligned and end its part in a job. -/
def Obligations.TickAtBoundary : Prop :=
  (∀ (predict : List Nat) (estimate floor : Nat) (s : State), predict.length = 64 → estimate < 65536 → floor < 65536 →
    (s.tick.running = true → Completes (.spanTickBoundary predict estimate floor) s fun u =>
      u.tick.num = s.tick.num + 1 ∧ u.tick.boundaries = s.tick.boundaries + 1 ∧ u.tick.st = s.tick.st ∧
      (∀ p, p < 4 → (u.pier p).powered = (s.pier p).powered ||| (s.pier p).enablePend ∧ (u.pier p).enablePend = 0) ∧
      u.node.rems.map (·.age) = s.node.rems.map (fun r => r.age + 1) ∧ u.power.estimate = estimate ∧ u.power.floor = floor ∧
      (s.power.managed = true → s.power.managedPend = false → s.power.newCap = none →
        u.power.grant = max 1 (largestGrant predict (allowance s.power)))) ∧
    (s.tick.running = false → exec (.spanTickBoundary predict estimate floor) s = .next s)) ∧
  (∀ (port : Nat) (s : State), port < 48 →
    let o := s.port port
    let quiet := o.queue = [] ∧ o.used = [] ∧ o.unacked = []
    (s.tick.running = true → s.carries port = true → ∀ t1, t1 < 2 ^ 64 →
      (s.tick.boundaries % 100 = 0 → o.syncAt ≠ some s.tick.boundaries → quiet → Completes (.timesyncSend port t1) s fun u =>
        u.out = .timesync port t1 none :: s.out ∧ (u.port port).syncAt = some s.tick.boundaries) ∧
      (s.tick.boundaries % 100 ≠ 0 ∨ o.syncAt = some s.tick.boundaries → exec (.timesyncSend port t1) s = .next s)) ∧
    (s.carries port = true → ∀ t1 t2 t3 t4 : Int,
      (quiet → Completes (.timesync port false t1 t2 t3 t4) s fun u => ∃ h, u.out = .timesync port t1 (some (t2, t3)) :: .idle port h :: s.out) ∧
      (s.tick.parent ≠ some port → Completes (.timesync port true t1 t2 t3 t4) s fun u =>
        (u.port port).delay = ((t4 - t1) - (t3 - t2)) / 2 ∧ u.tick = s.tick)) ∧
    (s.carries port = true → ∀ h : Heartbeat, h.phys < 2 ^ 20 → h.late = false → Completes (.heartbeat port h) s fun u =>
      (u.port port).peerTick = BitVec.ofNat 64 h.tick ∧ (u.port port).nbPhys = some h.phys ∧ (u.port port).silent = 0 ∧
      (u.port port).slow = h.slow) ∧
    (s.tick.running = true → s.listed port = true → s.tick.st = 0 → ∀ num, exec (.parentUsable port num) s =
      .next { s with tick := { s.tick with st := 1, parent := some port, num := num } }) ∧
    (s.tick.running = true → s.listed port = true → s.tick.st = 3 → ∀ num, exec (.parentUsable port num) s =
      .next { s with tick := { s.tick with st := 2, aligned := true, parent := some port } }) ∧
    (s.tick.running = true → s.tick.st = 1 → exec .tickLockAcquired s = .next { s with tick := { s.tick with st := 2, aligned := true } }) ∧
    (s.tick.parent ≠ none → s.tick.st ≠ 0 →
      exec (.parentLost none) s = .next { s with tick := { s.tick with st := 3, parent := none } } ∧
      (s.listed port = true → exec (.parentLost (some port)) s = .next { s with tick := { s.tick with parent := some port } })) ∧
    (s.tick.st = 3 → s.tick.aligned = true → Completes .holdoverUnaligned s fun u => u.tick = { s.tick with aligned := false } ∧
      (u.events.getLast?.map fun v => (v.code, v.data)) = some (0x0401, [s.tick.err.toNat])) ∧
    (s.tick.st = 3 → s.job.member = true → Completes .tickLost s fun u => u.job.st = .failed ∧ u.job.id = 0 ∧ u.job.posted = [] ∧
      (s.tick.num.toNat, s.node.phys, s.job.id) ∈ u.job.floods) ∧
    (s.tick.st ≠ 3 → exec .tickLost s = .next s))

/-- TICK_CONFIG, HALT packets and HALT_GROUP (R302, R326, R341, R408): a node without a running job takes its root flag and parents and is UNLOCKED; a HALT of
the running job is forwarded and kept for its boundary; HALT_GROUP halts or resumes the named tiles, or schedules the halt of the job. -/
def Obligations.TickAndHaltCommands : Prop :=
  ∀ (r : Req) (p : Picked) (s : State),
    (∀ root p0 p1 p2 p3, Ready r 0x0B05 p s → (∀ x ∈ [p0, p1, p2, p3], x < 48 ∨ x = 63) → s.job.st ≠ .run →
      exec (.tickConfig r root p0 p1 p2 p3) s = .next (replyFinal { s with tick :=
        { s.tick with root := root, parents := [p0, p1, p2, p3], st := 0, aligned := false, parent := none } } r.client r.slot p 0x0000 [])) ∧
    (∀ root, Ready r 0x0B05 p s → s.job.st = .run →
      exec (.tickConfig r root 0 0 0 0) s = .next (replyFinal s r.client r.slot p bsJobActive [])) ∧
    (∀ port (bound : W64) origin action, port < 48 → origin < 2 ^ 20 → s.job.id < 65536 → action = 1 ∨ action = 2 → s.carries port = true →
      s.job.st = .run → s.job.haltSeen.contains (bound.toNat, origin, action == 1) = false → s.tick.num < bound →
      Completes (.haltPacket port bound origin s.job.id action) s fun u =>
        u.job.haltAt = s.job.haltAt ++ [(bound.toNat, action == 1, false)] ∧ u.job.haltSeen = (bound.toNat, origin, action == 1) :: s.job.haltSeen) ∧
    (∀ ts, Ready r 0x0707 p s → badTileSet ts = false →
      ((∀ t ∈ tilesNamed ts, (s.tile t).st = .run) → Completes (.haltGroup r ts 0 1) s fun u => Replied u r 0x0000 [] ∧
        ∀ t ∈ tilesNamed ts, (u.tile t).st = .draining ∧ (u.tile t).core.debug = true ∧ (u.tile t).core.dpc = (s.tile t).core.pc ∧
          (u.tile t).core.fetching = false) ∧
      ((∀ t ∈ tilesNamed ts, (s.tile t).st = .halted) → Completes (.haltGroup r ts 0 2) s fun u => Replied u r 0x0000 [] ∧
        ∀ t ∈ tilesNamed ts, (u.tile t).st = .run ∧ (u.tile t).core.pc = (s.tile t).core.dpc ∧ (u.tile t).core.debug = false) ∧
      (tilesNamed ts = [] → s.job.st = .run → ∀ action, action = 1 ∨ action = 2 → Completes (.haltGroup r ts 1 action) s fun u =>
        Replied u r 0x0000 [] ∧ u.job.haltAt = s.job.haltAt ++ [(s.tick.num.toNat + s.job.depth, action == 1, false)] ∧
        (s.tick.num.toNat + s.job.depth, s.node.phys, action == 1) ∈ u.job.haltSeen))

/-- Events of a job (R288, R307, R310, R314, R316–R319): a FLOOD of the job that is new is forwarded and acted on: a LATE holds the tick D − 1 boundaries after
its own, a failure ends the collectives; a node unheard on all its ports for four boundaries has failed; a collective's packet of an unknown SEQ or
another SIGN fails the node, one under another role is discarded, and one of a posted collective is kept for its step; a collective that has closed
its last step leaves the queue with its status written; a step late for STEPWAIT boundaries fails the node.

The JOB commands (R311, R319, R325, R326): COLL_POST keeps a record behind those posted before it and answers its SEQ; JOB_END of a job without a running
collective leaves it, and of one with such ends it as failed; JOB_STATUS answers. -/
def Obligations.JobsAndCollectives : Prop :=
  (∀ (port : Nat) (s : State), port < 48 → s.job.st = .run →
    let j := s.job
    let num := s.tick.num.toNat
    let left := fun (u : State) => u.job.st = .failed ∧ u.job.id = 0 ∧ u.job.posted = [] ∧ u.job.holds = []
    (2 ≤ (s.port port).st → j.id < 65536 → ∀ bound origin cause, bound < 2 ^ 32 → origin < 2 ^ 20 → cause < 256 →
      let b := fullBound s bound
      (j.floods.contains (b, origin, j.id) = false →
        (j.lateFor.contains b = false → num < b + j.depth - 1 → j.holds.contains (b + j.depth - 1) = false →
          Completes (.flood port bound origin 1 cause j.id) s fun u => u.job.holds = (b + j.depth - 1) :: j.holds ∧
            u.job.lateFor = b :: j.lateFor ∧ u.job.floods = (b, origin, j.id) :: j.floods ∧ u.job.missed = j.missed) ∧
        (origin ≠ s.node.phys → Completes (.flood port bound origin 2 cause j.id) s fun u => u.job.st = .run ∧ u.job.posted = [] ∧
          u.job.failedNodes = origin :: j.failedNodes ∧ u.job.floods = (b, origin, j.id) :: j.floods)) ∧
      (j.floods.contains (b, origin, j.id) = true → ∀ kind, kind = 1 ∨ kind = 2 → Completes (.flood port bound origin kind cause j.id) s fun u =>
        u.job = s.job)) ∧
    (∀ phys, phys < 2 ^ 20 → phys ≠ s.node.phys → (∃ x, x < 48 ∧ (s.port x).nbPhys = some phys) →
      (∀ x, x < 48 → (s.port x).nbPhys = some phys → 4 ≤ (s.port x).silent) → j.pods.getLsbD (podOf phys) = true →
      j.failedNodes.contains phys = false → Completes (.nodeLost phys) s fun u => u.job.st = .run ∧ u.job.posted = [] ∧
        u.job.failedNodes = phys :: j.failedNodes ∧ u.job.floods = (num, phys, j.id) :: j.floods) ∧
    (∀ phys x, phys < 2 ^ 20 → x < 48 → (s.port x).nbPhys = some phys → (s.port x).silent < 4 → exec (.nodeLost phys) s = .next s) ∧
    (∀ p : Pkt, p.cls = 3 → p.dphys = s.node.phys → p.job = j.id → s.takes port p = true →
      (s.roleOk p = false → Completes (.collData port p) s fun u => u.job = s.job ∧ u.node.refused = min 0xFFFF (s.node.refused + 1)) ∧
      (s.roleOk p = true →
        (j.posted.find? (fun c => c.seq == pktSeq p) = none → Completes (.collData port p) s left) ∧
        ∀ c, j.posted = [c] → c.seq = pktSeq p →
          (pktSign p ≠ c.sign.toNat → Completes (.collData port p) s left) ∧
          (pktSign p = c.sign.toNat → c.steps = [] → Completes (.collData port p) s fun u =>
            u.job.early = j.early ++ [p] ∧ u.job.posted = [c] ∧ u.job.st = .run))) ∧
    (∀ c rest, j.posted = c :: rest → c.begun ≠ none → c.steps = [] →
      let bytes := fun status => leBytes 4 (status + 2 ^ 8 * (c.flags.toNat % 8)) ++ leBytes 28 0
      let m := lineMask ((c.addr + 64) / 128) (c.addr + 64) 32
      (c.legal s = true → c.trigMet = true → c.next ≤ j.jt.toNat + 1 → Completes .collComplete s fun u => u.job.posted = rest ∧
        (c.addr % 128 = 0 → c.doneW = 0 → Mergeable s (c.addr / 128) → writePoison s (c.addr / 128) m = none →
          (u.pier (s.home c.addr)).merges = (s.pier (s.home c.addr)).merges ++
            [⟨c.addr / 128, m, mergeLine m 0 (BitVec.ofNat 1024 (leNat (bytes 0x00) * 256 ^ 64))⟩])) ∧
      (c.legal s = false → Completes .collComplete s fun u => u.job.posted = rest ∧
        (c.addr % 128 = 0 → c.doneW = 0 → Mergeable s (c.addr / 128) → writePoison s (c.addr / 128) m = none →
          (u.pier (s.home c.addr)).merges = (s.pier (s.home c.addr)).merges ++
            [⟨c.addr / 128, m, mergeLine m 0 (BitVec.ofNat 1024 (leNat (bytes 0x10) * 256 ^ 64))⟩])) ∧
      (c.legal s = true → c.trigMet = false → exec .collComplete s = .next s)) ∧
    (∀ stream step c x, c ∈ j.posted → x ∈ c.steps → x.stream = stream → x.step = step → x.closed = false → j.stepWait.toNat ≤ x.lates →
      Completes (.stepTimeout stream step) s left)) ∧
  (∀ (r : Req) (p : Picked) (s : State),
    (∀ addr, addr % 128 = 0 → addr + 128 ≤ Config.poolBytes → s.job.posted.length < 16 → s.job.st = .run ∨ s.job.st = .armed → Ready r 0x0B04 p s →
      let c := parseColl addr s.job.seqs (if peekPoison s addr 128 then [] else peekPool s addr 128)
      (c.fx8 = true ∨ (c.group s).any s.gen8Node = false → Completes (.collPost r addr) s fun u => Replied u r 0x0000 [(4, c.seq)] ∧
        u.job.posted = s.job.posted ++ [c] ∧ u.job.seqs = (s.job.seqs + 1) % 65536 ∧ u.job.seq = (if s.job.posted = [] then c.seq else s.job.seq)) ∧
      (c.fx8 = false → (c.group s).any s.gen8Node = true →
        exec (.collPost r addr) s = .next (replyFinal s r.client r.slot p bsUnsupported []))) ∧
    (Ready r 0x0B02 p s → s.job.posted.any (fun c => c.begun.isSome) = false → Completes (.jobEnd r) s fun u => Replied u r 0x0000 [] ∧
      u.job.st = .none ∧ u.job.id = 0 ∧ u.job.posted = [] ∧ u.job.holds = [] ∧ u.job.haltAt = [] ∧ u.job.held = false) ∧
    (Ready r 0x0B02 p s → s.job.posted.any (fun c => c.begun.isSome) = true → Completes (.jobEnd r) s fun u => Replied u r 0x0000 [] ∧
      u.job.st = .failed ∧ u.job.id = 0 ∧ u.job.posted = []) ∧
    (Ready r 0x0B03 p s → exec (.jobStatus r) s = .next (replyFinal s r.client r.slot p 0x0000
      ([(2, jobCode s.job.st), (2, s.job.id), (4, 0), (8, s.job.jt.toNat), (4, s.job.slip.toNat), (4, s.job.missed)] ++
        (rangeFrom 0 5).map (fun c => (4, (Tab.get 0 s.job.lates c).toNat)) ++ [(4, jobFlags s.job), (4, s.job.posted.length)]))))

/-- Launches (R305, R309, R321–R324): a LAUNCH reaches a node, which forwards it, takes the job, or names the code for which it does not, and keeps the launch;
an acknowledgement of a child is kept; at its deadline the node answers its parent without the children that are missing, and not before; the root ends
an attempt in which no node is named with COMPLETED; and JOB_LAUNCH is accepted and issues attempt 1, in which the root takes part itself. -/
def Obligations.Launches : Prop :=
  ∀ (port : Nat) (h : LaunchHdr) (s : State), port < 48 →
    let taken := fun (g : LaunchHdr) (u : State) => u.job.st = .armed ∧ u.job.id = g.job ∧ u.job.depth = g.depth ∧ u.job.coll = g.coll ∧
      u.job.msg = g.msg ∧ u.job.pods = g.pods ∧ u.job.startTick = g.startTick ∧ g.lid ∈ u.job.lids
    (okHdr h = true → s.carries port = true → s.power.idle = .s0 → s.tick.st ≠ 0 → h.root ≠ s.node.phys → s.job.lids.contains h.lid = false →
      (s.job.st ≠ .run → s.tick.num.toNat < h.startTick → Completes (.launch port h) s fun u => taken h u ∧
        ∃ x, u.job.launch = some x ∧ x.hdr = h ∧ x.parent = some (launchParent h s.node.phys) ∧ x.code = 0 ∧ x.named = []) ∧
      (s.job.st = .run → Completes (.launch port h) s fun u => u.job.st = .run ∧ u.job.id = s.job.id ∧
        ∃ x, u.job.launch = some x ∧ x.hdr = h ∧ x.parent = some (launchParent h s.node.phys) ∧ x.code = 1 ∧ x.named = [(s.node.phys, 2)])) ∧
    (∀ a x, a.entries.length ≤ 16 → a.phys < 2 ^ 20 → s.carries port = true → s.job.launch = some x → a.lid = x.hdr.lid → a.attempt = x.hdr.attempt →
      x.acked = false → x.handle = none → a.phys ∉ x.got → a.phys ∈ x.children →
      Completes (.launchAck port a) s fun u => ∃ y, u.job.launch = some y ∧ y.got = a.phys :: x.got ∧ y.named = x.named ++ ackEntries a) ∧
    (∀ x, s.job.launch = some x → x.acked = false → x.handle = none →
      (x.hdr.issueTick + 50 ≤ s.tick.num.toNat + 12 * treeDepth x.hdr s.node.phys →
        (Completes .launchAckDeadline s fun u => u.job.launch = some { x with acked := true }) ∧
        ∀ par y, x.parent = some par → WayOut s y par → s.gen8Node par = false → x.named = [] → x.more = 0 → x.children = x.got →
          Completes .launchAckDeadline s fun u => LeftLast u y fun q => q.cls = 4 ∧ q.typ = 5 ∧ q.dphys = par ∧
            q.payload = ackBytes ⟨x.hdr.lid, x.hdr.attempt, x.code, 0, s.node.phys, []⟩) ∧
      (s.tick.num.toNat + 12 * treeDepth x.hdr s.node.phys < x.hdr.issueTick + 50 → exec .launchAckDeadline s = .next s)) ∧
    (∀ x o, s.job.launch = some x → x.handle = some o.handle → s.op o.handle = some o → (∀ c ∈ x.children, c ∈ x.got) → x.named = [] →
      Completes .launchAttemptEnd s fun u => Finished s u o 0x0002 [] ∧ u.job.launch = none) ∧
    (∀ r p, Ready r 0x0B01 p s → badLaunch s h = false → s.job.launch = none → (∀ v ∈ h.excl, v < 2 ^ 20) →
      let h1 := { h with attempt := 1, issueTick := s.tick.num.toNat, root := s.node.phys }
      let all := [0, 1, 2, 3].foldl (fun m k => m * (blockValues s.node h k).length) 1
      let issued := fun (named : List (Nat × Nat)) (u : State) => Accepted u r p 6 (all - 1) ∧ ∃ x, u.job.launch = some x ∧ x.hdr = h1 ∧
        x.parent = none ∧ x.handle = some (handleOf r.client r.slot p.seq) ∧ x.named = named ∧ x.children = launchChildren 4 s.node h1 s.node.phys
      (s.tick.st = 0 → 4 * all ≤ 216 → Completes (.jobLaunch r h) s fun u => issued [(s.node.phys, 1)] u ∧ u.job.st = s.job.st) ∧
      (s.tick.st ≠ 0 → 4 * all ≤ 216 → s.job.lids.contains h.lid = false → s.job.st ≠ .run → s.tick.num.toNat < h.startTick →
        Completes (.jobLaunch r h) s fun u => issued [] u ∧ taken h u))

/-- Trace writes and events (R391, R399–R404): a mark enters the tile's queue of 8 records where it has room, and fires trigger code 1 where it is the trigger's value; a write of
the trigger register fires code 8; a trigger starts every unit's share; a unit that has written its share after a trigger stops; a sample of a running
tile enters its queue; and a counter at its threshold makes its source pending.

The trace, counter and event commands (R395, R396, R398, R401, R403). -/
def Obligations.TraceAndTools : Prop :=
  (∀ (t : Nat) (s : State), t < 1296 →
    let T := s.tile t
    let unit := s.traceUnit (pierOf t)
    let room := (unit.held.filter (·.tile == t)).length < 8
    let held := fun (x : TraceRec) (u : State) => ∃ k, (u.traceUnit (pierOf t)).held = unit.held.drop k ++ [x]
    let cfg := s.talcy.cfg
    let fired := fun (code : Nat) (u : State) => u.talcy.st = 2 ∧ ∀ p, p < 4 → (u.traceUnit p).left = some ((16 - cfg.pre) * s.quarterLines / 16) ∧
      (u.traceUnit p).line.map (fun x => (x.typ, x.aux)) = [(13, code)]
    let mark := fun (pc : W32) (val : W32) => ({ typ := 9, tag := T.space, tile := t, tick := s.tick.num.setWidth 32, pc, data := val.setWidth 64 } : TraceRec)
    let sample : TraceRec := { typ := 8, tag := T.space, tile := t, tick := s.tick.num.setWidth 32, pc := T.core.pc, aux := bitNat T.core.inHandler }
    (∀ v val, s.traceOn = true → s.typeOn 9 = true → s.tagPasses T.space = true →
      (val ≠ cfg.trigVal → unit.stopped = false → room → Completes (.tmarkWrite v t val) s fun u =>
        u.talcy.st = s.talcy.st ∧ held (mark (if v = .core then T.core.pc else 0) val) u) ∧
      (val = cfg.trigVal → s.talcy.st = 1 → cfg.trig = 1 → Completes (.tmarkWrite v t val) s (fired 1))) ∧
    (∀ v val, s.traceOn = false → exec (.tmarkWrite v t val) s = .next s) ∧
    (∀ val, s.talcy.st = 1 → cfg.trig = 8 → Completes (.talcyTriggerWrite val) s (fired 8)) ∧
    (∀ val, s.talcy.st ≠ 1 ∨ cfg.trig ≠ 8 → exec (.talcyTriggerWrite val) s = .next s) ∧
    (∀ p, p < 4 → s.talcy.st = 2 → (s.traceUnit p).left = some 0 → (s.traceUnit p).stopped = false → Completes (.traceUnitStop p) s fun u =>
      (u.traceUnit p).stopped = true ∧ (u.traceUnit p).queue = [] ∧ (u.traceUnit p).held = [] ∧
      ((∀ x, x < 4 → x ≠ p → (s.traceUnit x).stopped = true) → u.talcy.st = 3) ∧
      ∀ x, x < 4 → x ≠ p → (s.traceUnit x).stopped = false → u.talcy.st = 2) ∧
    (T.st = .run → cfg.pcLog2 ≠ 0 → s.traceOn = true → s.typeOn 8 = true → s.tagPasses T.space = true → unit.stopped = false →
      room → Completes (.pcSample t) s (held sample)) ∧
    (T.st ≠ .run → exec (.pcSample t) s = .next s) ∧
    (∀ n, n < 4 →
      (n ∈ T.thrDue → Completes (.counterThreshold t n) s fun u => (u.tile t).thrDue = T.thrDue.filter (· != n) ∧
        (T.frozen = false → (u.tile t).pend.getLsbD (20 + n) = true) ∧
        ((Tab.get pcfgReset T.pcfg n).getLsbD 30 = true → (u.ctr (tileCtr t (8 + n))).val = 0) ∧
        (s.talcy.st = 1 → cfg.trig = 4 → s.tagPasses T.space = true → u.talcy.st = 2)) ∧
      (n ∉ T.thrDue → exec (.counterThreshold t n) s = .next s))) ∧
  (∀ (r : Req) (p : Picked) (s : State),
    let ok := fun (u : State) => Host.Outcome.next (φ := Fault) (ρ := Refusal) (replyFinal u r.client r.slot p 0x0000 [])
    (∀ cfg, Ready r 0x0703 p s → traceBad cfg = false →
      (s.traceOn = false → exec (.traceConfig r cfg) s = ok { s with talcy := { s.talcy with cfg := traceDefaults cfg } }) ∧
      (s.traceOn = true → exec (.traceConfig r cfg) s = .next (replyFinal s r.client r.slot p bsBusy []))) ∧
    (Ready r 0x0704 p s → s.traceOn = false → Completes (.traceArm r) s fun u => Replied u r 0x0000 [] ∧ u.talcy.st = 1 ∧
      ∀ k, k < 4 → (u.traceUnit k).stopped = false ∧ (u.traceUnit k).pos = 0 ∧ (u.traceUnit k).line = [] ∧ (u.traceUnit k).left = none) ∧
    (Ready r 0x0704 p s → s.traceOn = true → exec (.traceArm r) s = ok s) ∧
    (Ready r 0x0705 p s → Completes (.traceStop r) s fun u => Replied u r 0x0000 [] ∧ u.talcy.st = 3 ∧
      ∀ k, k < 4 → (u.traceUnit k).stopped = true ∧ (u.traceUnit k).queue = [] ∧ (u.traceUnit k).held = []) ∧
    (∀ set idx (tick : W64), Ready r 0x0701 p s → idx < snapIndices set → s.tick.num.toNat < tick.toNat → tick.toNat ≤ s.tick.num.toNat + 900 →
      Completes (.counterSnapshot r set idx tick) s fun u => u.ctrs.snaps = s.ctrs.snaps ++ [(r.client, r.slot, set, idx, tick.toNat)] ∧
        (u.slot r.client r.slot).running = some p ∧ (u.slot r.client r.slot).picked = none ∧ u.ctrs.vals = s.ctrs.vals) ∧
    (∀ thaw (tick : W64), Ready r 0x0702 p s → s.tick.num.toNat < tick.toNat →
      (Completes (.freeze r false thaw tick) s fun u => Replied u r 0x0000 [(8, tick.toNat)] ∧
        u.ctrs.sched = s.ctrs.sched ++ [(tick.toNat, thaw, false)]) ∧
      (Completes (.freeze r true thaw tick) s fun u => Replied u r 0x0000 [(8, tick.toNat)] ∧
        u.ctrs.sched = s.ctrs.sched ++ [(tick.toNat, thaw, false)] ∧ u.ctrs.seen = (tick.toNat, s.node.phys, thaw) :: s.ctrs.seen)) ∧
    (∀ first count, Ready r 0x0706 p s → count ≤ 2047 → exec (.eventRead r first count) s = .next (replyFinal s r.client r.slot p 0x0000
      ([(4, s.nextEvent - s.events.length), (4, s.nextEvent), (4, min count (s.nextEvent - s.events.length - first)), (4, 0), (8, 0), (8, 0)] ++
        (s.events.filter fun e => decide (first ≤ e.index ∧ e.index < first + count)).flatMap eventData))))

/-- Resets of counters and freezes of other nodes (R387, R388, R391, R392, R396, R397): CNTRST of a tile or of a shared block resets each counter that the mask
selects, toggles its GEN and keeps an event of the same cycle, and changes no other counter of the block; elsewhere no register is written; through the tile-local view a tile's counters
0–7 are not reset; a FREEZE packet that is new is kept for its boundary, and one already seen is not taken twice. -/
def Obligations.CountersAndFreezes : Prop :=
  ∀ (s : State) (mask ev : W32) (v : View) (i : Nat),
    let reset := fun (a : Nat) => ({ val := if s.ctrs.frozen then 0 else BitVec.ofNat 56 (bitNat (ev.getLsbD i)), sat := false,
                                     gen := !(s.ctr a).gen } : Ctr)
    (∀ t, t < 1296 → i < 16 → (s.tile t).space < 4096 → Completes (.cntrstWrite v (0x400100003140 + 0x10000 * t) mask ev) s fun u =>
      u.ctr (tileCtr t i) = if mask.getLsbD i = true ∧ (v = .device ∨ 8 ≤ i) then reset (tileCtr t i) else s.ctr (tileCtr t i)) ∧
    (∀ base hi, counterBlock base = true → hi < 2 → i < 32 →
      let a := base + 0x1000 + 0x200 * hi + 0x10 * i
      Completes (.cntrstWrite .device (base + 0x1FF0 + 4 * hi) mask ev) s fun u =>
        u.ctr a = if mask.getLsbD i = true then reset a else s.ctr a) ∧
    (∀ a, a < 0x400100000000 → counterBlock (a - a % 0x10000) = false → exec (.cntrstWrite v a mask ev) s = .next s) ∧
    (∀ port (tick : W64) origin thaw, port < 48 → s.power.idle = .s0 → 2 ≤ (s.port port).st →
      (s.ctrs.seen.contains (tick.toNat, origin, thaw) = true → Completes (.freezePacket port tick origin thaw) s fun u =>
        u.ctrs.sched = s.ctrs.sched ∧ u.ctrs.seen = s.ctrs.seen) ∧
      (s.ctrs.seen.contains (tick.toNat, origin, thaw) = false → Completes (.freezePacket port tick origin thaw) s fun u =>
        u.ctrs.sched = s.ctrs.sched ++ [(tick.toNat, thaw, decide (tick.toNat ≤ s.tick.num.toNat))] ∧
        u.ctrs.seen = (tick.toNat, origin, thaw) :: s.ctrs.seen))

/-- The POWER commands (R351, R353, R366): a cap, where 0 stands for 5,600 W, is kept for the next boundary with its window, and answered with the larger
of itself and the floor; one below the floor is kept too, answered with CAP_BELOW_FLOOR and logged; one above 5,600 W is refused; DVFS_SET keeps limits
and clocks on their grids for the next boundary divisible by 100; POWER_STATUS answers what the rule lists, each temperature as its register reads.

Clusters and idle states (R238, R341, R362–R365): CLUSTER_PARK parks the named clusters, which hold no line then, and CLUSTER_UNPARK lets those run
that have not failed; each reports COMPLETED with their number. POWER_STATE of an idle module parks its clusters, and takes it to S1; to S2, where the
tiles and the tick stop; to S3, where the pool is lost; or to S4. A wake of S1, S2 or S3 takes it back to S0 with an event, and that of S4 resets it. -/
def Obligations.PowerCommands : Prop :=
  (∀ (r : Req) (p : Picked) (s : State),
    (∀ cap window, Ready r 0x0601 p s → cap ≤ 5600 → window = 0 ∨ (100 ≤ window ∧ window ≤ 10000) →
      let c := if cap = 0 then 5600 else cap
      let w := if window ≠ 0 then window else ((s.power.newCap.map fun x => x.2).getD s.power.window)
      (s.power.floor ≤ c → Completes (.powerCap r cap window) s fun u => Replied u r 0x0000 [(4, c), (4, s.power.floor)] ∧
        u.power.newCap = some (c, w) ∧ u.power.cap = s.power.cap) ∧
      (c < s.power.floor → Completes (.powerCap r cap window) s fun u => Replied u r 0x0006 [(4, s.power.floor)] ∧
        u.power.newCap = some (c, w) ∧ u.power.cap = s.power.cap ∧
        (u.events.getLast?.map fun v => (v.code, v.data)) = some (0x0504, [s.power.floor]))) ∧
    (∀ cap window, Ready r 0x0601 p s → 5600 < cap → cap < 2 ^ 32 → window < 2 ^ 32 →
      exec (.powerCap r cap window) s = .next (replyFinal s r.client r.slot p 0x0102 [])) ∧
    (∀ decks clusters, Ready r 0x0605 p s → decks.length = 12 → clusters.length = Config.clusters →
      (∀ d ∈ decks, d.1 % 50 = 0 ∧ 900 ≤ d.1 ∧ d.1 ≤ d.2 ∧ d.2 % 50 = 0 ∧ d.2 ≤ 2000) →
      (∀ c ∈ clusters, c = 0 ∨ (c % 100 = 0 ∧ 800 ≤ c ∧ c ≤ 3200)) →
      Completes (.dvfsSet r decks clusters) s fun u => Replied u r 0x0000 [] ∧
        (∀ d, d < 12 → u.deck d = { s.deck d with newMin := (decks.getD d (0, 0)).1, newMax := (decks.getD d (0, 0)).2 }) ∧
        u.power.clusterMhz = s.power.clusterMhz ++ (clusters.zipIdx.filter fun e => e.1 != 0).map fun e => (e.2, e.1)) ∧
    (Ready r 0x0606 p s → Completes (.powerStatus r) s fun u => Replied u r 0x0000
      ([(4, s.power.estimate), (4, s.power.measured), (4, s.power.cap), (4, s.power.window), (4, s.power.floor), (4, s.power.effective),
        (4, s.power.grant), (4, powerStatus s.power / 2 ^ 28 * 2 ^ 28)] ++ (rangeFrom 0 12).map (fun d => (2, (s.deck d).cur)) ++
        (rangeFrom 0 36).map (fun i => (4, tempReg (s.sensor i))) ++ [(4, s.power.droops)]))) ∧
  (∀ (r : Req) (p : Picked) (s : State),
    let h := handleOf r.client r.slot p.seq
    let done := fun (n : Nat) (u : State) =>
      let x := (u.slot r.client r.slot).reply
      x.status = 0x0002 ∧ x.final = true ∧ x.handle = h ∧ x.position = n ∧ x.total = n ∧ u.op h = none
    (s.op h = none → ∀ die mask, die < Config.abutments →
      let l := (maskBits 12 mask.toNat).map (12 * die + ·)
      (Ready r 0x0603 p s → Completes (.clusterPark r die mask) s fun u => done l.length u ∧
        ∀ c ∈ l, (u.cluster c).parked = true ∧ (u.cluster c).lines = [] ∧ (u.cluster c).wb = []) ∧
      (Ready r 0x0604 p s → Completes (.clusterUnpark r die mask) s fun u => done l.length u ∧
        ∀ c ∈ l, (u.cluster c).parked = ((s.cluster c).failed && (s.cluster c).parked))) ∧
    (Ready r 0x0602 p s → s.idleOk = true →
      (Completes (.powerState r 0) s fun u => done 2 u ∧ u.power.idle = .s0) ∧
      (Completes (.powerState r 1) s fun u => done 2 u ∧ u.power.idle = .s1 ∧
        ∀ c, c < 24 → (s.cluster c).parked = false → (u.cluster c).parked = true ∧
          (u.cluster c).keptState = true ∧ (u.cluster c).lines = []) ∧
      (Completes (.powerState r 2) s fun u => done 2 u ∧ u.power.idle = .s2 ∧ u.tick.running = false ∧
        (∀ t, (u.tile t).st = .reset ∨ (u.tile t).st = .unavailable) ∧ ∀ q, q < 4 → (u.pier q).lines = [] ∧ (u.pier q).merges = []) ∧
      (Completes (.powerState r 3) s fun u => u.power.idle = .s3 ∧ u.pool.st = .uninit ∧ u.tick = {} ∧ u.node.rems = []) ∧
      (Completes (.powerState r 4) s fun u => u.power.idle = .s4 ∧ u.pool.st = .uninit ∧ u.boot.st = .rom)) ∧
    (Ready r 0x0602 p s → s.idleOk = false → exec (.powerState r 1) s = .next (replyFinal s r.client r.slot p 0x0600 [])) ∧
    (s.power.wakeCtl.getLsbD 30 = true →
      let woken := fun (n : Nat) (u : State) => u.power.idle = .s0 ∧ (u.events.getLast?.map fun v => (v.code, v.data)) = some (0x0002, [n])
      (s.power.idle = .s1 → Completes (.powerWake 1) s (woken 1)) ∧
      (s.power.idle = .s2 → Completes (.powerWake 1) s fun u => woken 2 u ∧ u.tick.running = true ∧ u.tick.st = 0 ∧
        ∀ x, x < 48 → (s.port x).laserDown = false → (u.port x).st = 1) ∧
      (s.power.idle = .s3 → Completes (.powerWake 1) s fun u => woken 3 u ∧ u.tick.running = true ∧ u.power.managedPend = true ∧
        u.pool.st = .initialising)) ∧
    (s.power.idle = .s4 → s.power.tripS4 = false → s.belul.ops.any (fun o => o.client == 2 && o.opcode == 0x0602) = true →
      Completes (.powerWake 0) s fun u => u.boot.st = .rom ∧ u.boot.last = 9 ∧ u.power.idle = .s0) ∧
    (s.power.idle = .s0 → ∀ src, src < 4 → exec (.powerWake src) s = .next s))

/-- Clocks, calibration and droops (R348, R349, R353–R355): at a boundary divisible by 100 a deck that stayed low for 100 ticks steps down by 50 MHz within
its limits and one that stayed full steps up; a calibration keeps the measured power, moves a gain within 0.5 and 2.0 unless it stands at a bound or the
gains are frozen, and counts a millisecond above the cap; a monitor fault freezes the gains; a droop below 42.0 V clamps and makes source 5 of every
running tile pending; its release counts.

Heat and the manager (R206, R357–R361), in 0.25 °C: the coolant inlet is in excess from 45 °C until it is below 42 °C; a logic die's sensor keeps its
reading and its highest; a managed deck die at its throttle limit drops its ceiling by 50 MHz, and at its critical limit to 0.9 GHz; a stack's
temperature sets its activate rate, and at its critical limit every deck goes to 0.9 GHz with grant 1; a sensor at its trip limit puts the module into
S4 with the sensor and its temperature; a pier in LOCAL mode takes its budget from its temperature and its decks go to 1.2 GHz; and losing the manager
clears MANAGED. -/
def Obligations.PowerEvents : Prop :=
  (∀ (s : State), s.alive = true →
    let last := fun (u : State) => u.events.getLast?.map fun v => (v.code, v.data)
    (s.power.managed = true → s.tick.running = true → s.tick.num.toNat % 100 = 0 → s.power.floorBound = false →
      Completes .dvfsAdjust s fun u => ∀ d, d < 12 →
        let x := s.deck d
        (100 ≤ x.low → u.deck d = { x with cur := max (min x.cur x.dvfsMin) (x.cur - 50), low := 0 }) ∧
        (x.low < 100 → 100 ≤ x.full → u.deck d = { x with cur := max x.cur (min (min x.dvfsMax x.therm) (x.cur + 50)), full := 0 }) ∧
        (x.low < 100 → x.full < 100 → u.deck d = x)) ∧
    (s.power.managed = false ∨ s.tick.running = false ∨ s.tick.num.toNat % 100 ≠ 0 ∨ s.power.floorBound = true → exec .dvfsAdjust s = .next s) ∧
    (s.tick.running = true → s.tick.num.toNat % 1000 = 0 → ∀ measured die gain, measured < 65536 → okDie die = true →
      let g := s.gain die
      let above := 102 * s.power.cap + 1000 < 100 * measured
      Completes (.powerCalibration measured [(die, gain)]) s fun u => u.power.measured = measured ∧
        (s.power.gainsFrozen = true ∨ g = 500 ∨ g = 2000 → u.power.gains = s.power.gains ∧ u.power.estDrift = s.power.estDrift) ∧
        (s.power.gainsFrozen = false → g ≠ 500 → g ≠ 2000 → u.gain die = min (max gain 500) 2000 ∧
          (gain ≤ 500 ∨ 2000 ≤ gain → u.power.estDrift = true)) ∧
        (above → u.power.overcap = min 0xFFFF (s.power.overcap + 1) ∧ last u = some (0x0503, [measured, s.power.cap])) ∧
        (¬ above → u.power.overcap = s.power.overcap)) ∧
    (s.power.gainsFrozen = false → Completes .monitorFault s fun u => u.power = { s.power with gainsFrozen := true } ∧ last u = some (0x0502, [])) ∧
    (s.power.clamp = false → ∀ volt, volt < 420 → Completes (.droopClamp volt) s fun u =>
      u.power.clamp = true ∧ ∀ t, (s.tile t).st = .run → (u.tile t).pend = (s.tile t).pend ||| (1#64 <<< 5)) ∧
    (∀ volt, 420 ≤ volt → exec (.droopClamp volt) s = .next s) ∧
    (s.power.clamp = true → ∀ minv ns, minv < 1024 → Completes (.clampRelease minv ns) s fun u =>
      u.power = { s.power with clamp := false, droops := min 0xFFFF (s.power.droops + 1), minv := minv } ∧ last u = some (0x0505, [minv, ns]))) ∧
  (∀ (s : State) (temp : Int), s.boot.stby = true →
    let last := fun (u : State) => u.events.getLast?.map fun v => (v.code, v.data)
    (temp < 168 → exec (.thermalSample inletSensor temp) s = .next (s.modSensor inletSensor fun x => { x with st := 0, temp := temp })) ∧
    (180 ≤ temp → s.alive = true → (s.sensor inletSensor).st = 0 → Completes (.thermalSample inletSensor temp) s fun u =>
      (u.sensor inletSensor).st = 1 ∧ (u.sensor inletSensor).temp = temp ∧ last u = some (0x0509, [ofSInt 32 temp])) ∧
    (s.power.managed = false → ∀ i, i < 18 → Completes (.thermalSample i temp) s fun u =>
      (u.sensor i).temp = temp ∧ (u.sensor i).max = (if (s.sensor i).fresh = true then temp else max (s.sensor i).max temp) ∧
      ((thermLimits i).2.1 ≤ temp → (u.sensor i).st = 2) ∧ (temp < (thermLimits i).1 - 12 → (u.sensor i).st = 0)) ∧
    (s.power.managed = true → ∀ d, d < 12 →
      (400 ≤ temp → temp < 428 → Completes (.thermalSample d temp) s fun u =>
        (u.sensor d).st = 1 ∧ (u.deck d).therm = max 900 ((s.deck d).therm - 50) ∧ (u.deck d).cur ≤ (u.deck d).ceiling) ∧
      (440 ≤ temp → Completes (.thermalSample d temp) s fun u => (u.sensor d).st = 2 ∧ (u.deck d).therm = 900 ∧ (u.deck d).budgetCap = 1 ∧
        ((s.sensor d).st ≠ 2 → last u = some (0x0506, [d, ofSInt 32 temp])))) ∧
    (s.tick.running = true → s.power.idle = .s0 → ∀ st, st < Config.hbmStacks → (s.sensor (20 + st)).act = 0 →
      Completes (.stackTempRead st temp) s fun u => (u.sensor (20 + st)).temp = temp ∧
        (u.sensor (20 + st)).act = (if temp < 380 then 0 else if temp < 400 then 1 else if temp < 420 then 2 else 3) ∧
        (temp < 380 → u.events = s.events) ∧ (380 ≤ temp → temp < 400 → last u = some (0x0507, [st, 1])) ∧
        (420 ≤ temp → ∀ d, d < 12 → (u.deck d).cur = 900 ∧ (u.deck d).budgetCap = 1)) ∧
    (s.power.idle ≠ .s4 → ∀ i, i < 18 ∨ (20 ≤ i ∧ i < 36) → (thermLimits i).2.2 ≤ temp → Completes (.thermalTrip i temp) s fun u =>
      u.power.idle = .s4 ∧ u.power.tripValid = true ∧ u.power.tripSensor = i ∧ u.power.tripTemp = temp ∧ u.power.thermTrip = true ∧
      u.pool.st = .uninit) ∧
    (s.alive = true → ∀ p, p < 4 →
      ((s.pier p).localMode = true → Completes (.localLoopUpdate p) s fun u =>
        let x := (s.sensor (12 + p)).temp
        (u.pier p).budget = (if x < 340 then 64 else if x < 360 then 32 else if x < 380 then 16 else if x < 400 then 4 else 1) ∧
        ∀ d, d < 12 → (u.deck d).cur = if d / 3 = p then 1200 else (s.deck d).cur) ∧
      (s.power.managed = true → Completes (.mgrLost p) s fun u => u.power.managed = false ∧ (∀ x, x < 4 → (u.pier x).localMode = true) ∧
        last u = some (0x050A, [p]))))

/-- Module resets (R368, R369, R427): POWER_ON, SUPPLY, EXTERNAL, WATCHDOG and the loss of the input take the module to the ROM with their kind in LAST and SEEN and the
pool uninitialised; while MOD_RESET_N is low the module is held, and its release lets it start.

The fault path (R375): a fatal error of the running module resets it with kind FATAL and counts in FAILSTREAK; with FAILSTREAK at 2 the module is held; a second in
RUNNING clears FAILSTREAK.

The start of the module (R371–R377): an image that does not verify leaves it in RECOVERY; with a valid image, dies that do not match leave it in
MIXED_UNQUALIFIED; a step that fails takes the fault path with its number; and otherwise it runs, with the start counted, the features that all dies have,
the tick running, the manager about to manage, and the pool READY. A module that has started, or is held in reset, does not start again. -/
def Obligations.ModuleResets : Prop :=
  (∀ s : State,
    Completes .powerOn s (fun u => u.boot.st = .rom ∧ u.boot.last = 0 ∧ u.boot.seen = 1 ∧ u.boot.stby = true ∧ u.pool.st = .uninit ∧
      u.belul = {} ∧ u.i3c = {} ∧ u.tick = {} ∧ u.job = {}) ∧
    (s.boot.stby = true →
      Completes .supply s (fun u => u.boot.st = .rom ∧ u.boot.last = 1 ∧ u.boot.seen = s.boot.seen ||| 2 ∧ u.power.pwrGood = false ∧ u.pool.st = .uninit ∧
        u.i3c.addr = s.i3c.addr ∧ u.tick = {}) ∧
      Completes .external s (fun u => u.boot.st = .rom ∧ u.boot.last = 2 ∧ u.boot.seen = s.boot.seen ||| 4 ∧ u.boot.heldReset = true ∧ u.pool.st = .uninit)) ∧
    exec .modResetRelease s = .next { s with boot := { s.boot with heldReset := false } } ∧
    (s.alive = true → Completes .watchdog s fun u => u.boot.st = .rom ∧ u.boot.last = 6 ∧ u.boot.seen = s.boot.seen ||| 64 ∧ u.pool.st = .uninit) ∧
    Completes .stbyPowerLoss s (fun u => u.boot.stby = false ∧ u.boot.seen = 0 ∧ u.power.pwrGood = false ∧ u.belul = {} ∧ u.i3c = {} ∧
      u.boot.svnFuse = s.boot.svnFuse)) ∧
  (∀ (n : Nat) (s : State), n < 5 → s.boot.st = .running →
    (s.alive = true →
      (s.boot.failStreak ≠ 2 → Completes (.pierFatalError n) s fun u => u.boot.st = .rom ∧ u.boot.last = 7 ∧ u.boot.failStreak = s.boot.failStreak + 1) ∧
      (s.boot.failStreak = 2 → Completes (.pierFatalError n) s fun u => u.boot.st = .heldFault ∧ u.boot.failStreak = 2 ∧ u.pool = s.pool)) ∧
    exec .failstreakClear s = .next { s with boot := { s.boot with failStreak := 0 } }) ∧
  (∀ (i : StartIn) (s : State), i.features.length = 16 + Config.abutments → i.revs.length = 16 + Config.abutments → i.image.length ≤ imageRegion →
    i.memRate < 3 →
    let img := if s.boot.imageOk = true then s.boot.image else i.image
    (s.alive = true → s.boot.st = .rom → i.failStep = none → Completes (.moduleStart i) s fun u =>
      (validImage s img = false → u.boot.st = .recovery ∧ u.pool.st = s.pool.st ∧ u.boot.count = s.boot.count) ∧
      (validImage s img = true → i.qualified = false → u.boot.st = .mixedUnqualified ∧ u.boot.running = img ∧
        u.boot.words = i.features ∧ u.boot.count = s.boot.count) ∧
      (validImage s img = true → i.qualified = true → u.boot.st = .running ∧ u.boot.running = img ∧
        u.boot.count = s.boot.count + 1 ∧ u.boot.features = i.features.foldl (· &&& ·) 0x1F ∧ u.boot.revs = i.revs ∧ u.power.pwrGood = true ∧
        u.power.managedPend = true ∧ u.tick.running = true ∧ u.pool.st = .ready ∧
        ∀ x, x < 48 → (s.port x).laserDown = false → (u.port x).st = 1)) ∧
    (s.alive = true → s.boot.st = .rom → i.qualified = true → ∀ n, 5 ≤ n → n ≤ 10 → i.failStep = some n →
      Completes (.moduleStart i) s fun u => validImage s img = true →
        (s.boot.failStreak ≠ 2 → u.boot.st = .rom ∧ u.boot.last = 7 ∧ u.boot.failStreak = s.boot.failStreak + 1) ∧
        (s.boot.failStreak = 2 → u.boot.st = .heldFault ∧ u.boot.failStep = n)) ∧
    (s.boot.st ≠ .rom ∨ s.alive = false → i.failStep = none → exec (.moduleStart i) s = .next s))

/-- Resets of single dies (R269, R380, R381, R417): a deck die that resets leaves its tiles in RESET, or UNAVAILABLE where its fuses differ, and sets its
bit of DIERST, and is logged, and a move under way on it is abandoned and queued again; an abutment die that resets loses its arbiter and its clusters, and the pairs of its link retrain. -/
def Obligations.DieResets : Prop :=
  ∀ (s : State), s.boot.st = .running → s.power.idle = .s0 →
    (∀ n, n < 12 →
      (Completes (.deckDieReset n true) s fun u =>
        (∀ t ∈ tilesOf n, (u.tile t).st = .reset ∨ (u.tile t).st = .unavailable) ∧ u.boot.dierst = s.boot.dierst ||| BitVec.ofNat 16 (2 ^ n) ∧
        (∀ m ∈ u.wear.moving, m.scope ≠ n) ∧
        ((∀ m ∈ s.wear.moving, m.scope ≠ n) → ((∀ t, (s.tile t).load = none) → ∀ t, deckOf t ≠ n → u.tile t = s.tile t) ∧
          (u.events.getLast?.map fun v => (v.code, v.data)) = some (0x0004, [n])) ∧
        ∀ m, s.wear.moving = [m] → m.scope = n → s.wear.queue.any (sameNeed m) = false → s.sparesLeft m.kind n ≠ 0 → m ∈ u.wear.queue) ∧
      (Completes (.deckDieReset n false) s fun u => (∀ t ∈ tilesOf n, (u.tile t).st = .unavailable) ∧ n ∈ u.degraded)) ∧
    (∀ a, 1 ≤ a → a < Config.abutments → Completes (.abutmentDieReset a true) s fun u =>
      (∀ c ∈ clustersOf a, (u.cluster c).parked = true ∧ (u.cluster c).lines = []) ∧
      (u.arb a).open_ = [] ∧ (u.arb a).dir = [] ∧ (u.arb a).held = [] ∧ (∀ n, n < Config.pairs (3 + a) → (u.pair (3 + a) n).st = 1) ∧
      u.boot.dierst = s.boot.dierst ||| BitVec.ofNat 16 (2 ^ (12 + a)) ∧
      (u.events.getLast?.map fun v => (v.code, v.data)) = some (0x0004, [24 + a]))

/-- The record store and the commands that read it, the log and the certificates (R336, R341, R378, R379, R382–R384): a store that is more than 7⁄8 full keeps the records that
count, and another stays as it is; RECORD_READ, FW_INFO, ID_CERT, MEASURE_LOG and ATTEST answer.

Firmware (R341, R368, R373, R376): an image that verifies is accepted, and written when its update completes; one that does not is refused with
SIG_INVALID; a piece of a recovery image joins those before it, and the last of a valid image writes it and resets with kind RECOVERY; a session that
times out is lost; FW_ACTIVATE resets with kind FIRMWARE, unless a job runs. -/
def Obligations.RecordsAndFirmware : Prop :=
  (∀ (r : Req) (p : Picked) (s : State),
    let ok := fun d => Host.Outcome.next (φ := Fault) (ρ := Refusal) (replyFinal s r.client r.slot p 0x0000 d)
    (7340032 < 4096 + s.boot.recUsed → Completes .recordCompaction s fun u => (∀ x ∈ u.boot.recs, x ∈ s.boot.recs) ∧
      u.boot.recGen = (s.boot.recGen + 1) % 2 ^ 32 ∧
      (s.boot.recs.Pairwise (fun a b => a.seq < b.seq) → ∀ kind key, kind ≠ 7 → u.recOf kind key = s.recOf kind key)) ∧
    (4096 + s.boot.recUsed ≤ 7340032 → exec .recordCompaction s = .next s) ∧
    (∀ kind first, Ready r 0x0905 p s → kind < 256 → first < 2 ^ 32 → exec (.recordRead r kind first) s =
      ok ((((s.boot.recs.filter fun x => x.kind == kind).drop first).flatMap storedBytes).map fun b => (1, b.toNat))) ∧
    (Ready r 0x0901 p s →
      (s.boot.st ≠ .recovery → Completes (.fwInfo r) s fun u =>
        Replied u r 0x0000 [(8, imgVersion s.boot.running), (32, (Config.sm3 s.boot.running).toNat), (4, 0)]) ∧
      (s.boot.st = .recovery → Completes (.fwInfo r) s fun u => Replied u r 0x0000 [(8, 0), (32, 0), (4, 1)])) ∧
    (∀ off, off < 2 ^ 32 → Ready r 0x0A01 p s → exec (.idCert r off) s = ok ((Config.certChain.drop off).map fun b => (1, b.toNat))) ∧
    (∀ off, off < 2 ^ 32 → Ready r 0x0A03 p s → exec (.measureLog r off) s = ok (((s.boot.mlog.flatMap fun m =>
      leBytes 1 m.reg ++ leBytes 1 m.typ ++ leBytes 2 m.data.length ++ leBytes 32 m.digest.toNat ++ m.data).drop off).map fun b => (1, b.toNat))) ∧
    (∀ nonce mask, Ready r 0x0A02 p s →
      let f := [(4, 1), (4, mask.toNat), (32, nonce.toNat), (8, Config.serial.toNat), (4, s.boot.count), (4, s.boot.mlog.length),
        (8, s.eventTick.toNat)] ++ (maskBits 8 mask.toNat).map fun i => (32, (Tab.get 0 s.boot.meas i).toNat)
      exec (.attest r nonce mask) s = ok (f ++ [(64, (Config.sm2Sign (f.flatMap fun x => leBytes x.1 x.2)).toNat)]))) ∧
  (∀ (r : Req) (p : Picked) (s : State),
    (∀ src, Ready r 0x0902 p s → wellFormed (.fwUpdate r src) = true → badImageAddr src = false → imageLen src ≤ imageRegion → s.boot.update = none →
      let image := match src with
        | .pool a n => if peekPoison s a n then [] else peekPool s a n
        | .outside l => l
      Completes (.fwUpdate r src) s fun u =>
        (validImage s image = true → Accepted u r p 2 image.length ∧ u.boot.update = some (handleOf r.client r.slot p.seq, image) ∧
          u.boot.image = s.boot.image) ∧
        (validImage s image = false → u = replyFinal s r.client r.slot p 0x0900 [])) ∧
    (∀ o img, s.op o.handle = some o → s.boot.update = some (o.handle, img) →
      (Completes (.fwUpdateComplete true) s fun u => Finished s u o 0x0002 [] ∧ u.boot.image = img ∧ u.boot.imageOk = true ∧ u.boot.update = none) ∧
      (Completes (.fwUpdateComplete false) s fun u => Finished s u o 0x0901 [] ∧ u.boot.image = [] ∧ u.boot.imageOk = true ∧ u.boot.update = none)) ∧
    (∀ piece ok, Ready r 0x0903 p s → s.boot.st = .recovery → piece.length ≤ 4096 → s.boot.update = none → ∀ off, off < 2 ^ 32 →
      let before := match s.boot.session with
        | some x => if off = 0 then [] else x.2
        | none => []
      (∀ x, s.boot.session = some x → x.1 = r.client) → (off ≠ 0 → s.boot.session.map (fun x => x.2.length) = some off) →
      (Completes (.fwRecoveryLoad r off false piece ok) s fun u => Replied u r 0x0000 [] ∧ u.boot.session = some (r.client, before ++ piece)) ∧
      Completes (.fwRecoveryLoad r off true piece ok) s fun u =>
        (validImage s (before ++ piece) = true → ok = true →
          u.boot.st = .rom ∧ u.boot.last = 5 ∧ u.boot.image = before ++ piece ∧ u.boot.imageOk = true) ∧
        (validImage s (before ++ piece) = false → Replied u r 0x0900 [] ∧ u.boot.session = none ∧ u.boot.image = s.boot.image)) ∧
    exec .recoverySessionTimeout s = .next { s with boot := { s.boot with session := none } } ∧
    (Ready r 0x0904 p s → s.job.st ≠ .run → Completes (.fwActivate r) s fun u => u.boot.st = .rom ∧ u.boot.last = 4 ∧
      u.boot.seen = s.boot.seen ||| 16 ∧ u.pool.st = .uninit ∧ (r.client = 2 → Replied u r 0x0000 [])) ∧
    (Ready r 0x0904 p s → s.job.st = .run → exec (.fwActivate r) s = .next (replyFinal s r.client r.slot p 0x0B01 [])))

/-- What wear management finds and does (R410–R418): the sweep, at a tick number divisible by 1,000,000, notes the tiles whose margin is
low, and queues a need for one that was low in the sweep before; a need at its quiet point, with a spare or a
retraining that needs none, leaves the queue: a running
tile drains for its move, another tile moves to a spare site at once, a pair retrains without a lane, a port trains, a spare laser feeds its port, a walker's spare enters service, way 16 takes the
place of a way; a need before its quiet point, or held back, stays; the first error of a cluster within a day is noted, and the second parks it. -/
def Obligations.WearManagement : Prop :=
  ∀ (s : State), s.boot.st = .running → s.power.idle = .s0 →
    (s.tick.running = true → s.tick.num.toNat % 1000000 = 0 → s.wear.swept < s.tick.boundaries →
      (∀ x : Sweep, (∀ t ∈ x.tiles, t < 1296 ∧ t ∉ s.wear.low) → x.lanes = [] → x.lasers = [] →
        exec (.ageingSweep x) s = .next { s with wear := { s.wear with low := x.tiles, swept := s.tick.boundaries } }) ∧
      ∀ t, t < 1296 → t ∈ s.wear.low → s.sparesLeft 1 (deckOf t) ≠ 0 → s.wear.queue.any (sameNeed ⟨1, deckOf t, t, false⟩) = false →
        s.wear.hold = false → Completes (.ageingSweep ⟨[t], [], []⟩) s fun u => u.wear.low = [t] ∧
          u.wear.queue = s.wear.queue ++ [⟨1, deckOf t, t, false⟩] ∧
          u.wear.since = s.wear.since ++ [(s.tick.boundaries, ⟨1, deckOf t, t, false⟩)]) ∧
    (∀ x : Sweep, (∀ t ∈ x.tiles, t < 1296) → x.lanes = [] → x.lasers = [] →
      (s.tick.num.toNat % 1000000 ≠ 0 ∨ s.tick.boundaries ≤ s.wear.swept) → exec (.ageingSweep x) s = .next s) ∧
    (∀ n x ok b, okNeed n = true → s.wear.queue.find? (sameNeed n) = some x → s.wear.since.find? (fun e => sameNeed x e.2) = some (b, x) →
      (s.tick.boundaries ≤ b → exec (.substitution n ok) s = .next s) ∧
      (s.wear.hold = true → x.urgent = false → exec (.substitution n ok) s = .next s) ∧
      (b < s.tick.boundaries → s.job.st ≠ .run → s.wear.hold = false ∨ x.urgent = true → retrainsNeed x = true ∨ s.sparesLeft x.kind x.scope ≠ 0 →
        let acted := fun (u : State) => sameNeed n x = true ∧ u.wear.queue = s.wear.queue.filter fun y => !sameNeed n y
        (x.kind = 1 → (∃ m ∈ s.wear.moving, m.scope = x.scope) → exec (.substitution n true) s = .next s) ∧
        (x.kind = 1 → (∀ m ∈ s.wear.moving, m.scope ≠ x.scope) →
          let T := s.tile x.res
          (T.st = .run → Completes (.substitution n true) s fun u => acted u ∧ u.wear.moving = s.wear.moving ++ [x] ∧
            u.tile x.res = { T with st := .draining, drain := .move, latheLeft := T.latheQ.isSome, chainLeft := T.chainBusy }) ∧
          (T.st ≠ .run → T.st ≠ .reset → T.st ≠ .unavailable → T.storeErr = [] → Completes (.substitution n true) s fun u => acted u ∧
            u.tile x.res = { T with site := 108 + s.sparesUsed 1 x.scope, moved := true, correctPend := [], ueWords := [], ceWords := [] } ∧
            u.sparesUsed 1 x.scope = s.sparesUsed 1 x.scope + 1)) ∧
        (x.kind = 2 → x.res < 68 → Completes (.substitution n ok) s fun u => acted u ∧
          let y := u.pair (x.scope / 128) (x.scope / 2 % 64)
          y.st = 1 ∧ (x.scope % 2 = 0 → y.failE.getLsbD x.res = true) ∧ (x.scope % 2 = 1 → y.failW.getLsbD x.res = true)) ∧
        (x.kind = 3 → Completes (.substitution n ok) s fun u => acted u ∧ (u.port x.scope).st = 1 ∧
          (s.sparesLeft 3 x.scope ≠ 0 → u.sparesUsed 3 x.scope = s.sparesUsed 3 x.scope + 1)) ∧
        (x.kind = 4 → Completes (.substitution n ok) s fun u => acted u ∧ (u.port x.res).st = 1 ∧ (u.port x.res).laserDown = false ∧
          (u.port x.res).lspare = true) ∧
        (x.kind = 5 → Completes (.substitution n ok) s fun u => acted u ∧ u.ks.walkers = s.ks.walkers + 1 ∧
          (u.events.getLast?.map fun v => (v.code, v.data)) = some (0x0603, [x.res])) ∧
        (x.kind = 6 → Completes (.substitution n ok) s fun u => acted u ∧ (u.pier x.scope).retired = some x.res ∧
          (x.res < 16 → (u.pier x.scope).enable.getLsbD x.res = false) ∧
          ((s.pier x.scope).enable.getLsbD x.res = true → (u.pier x.scope).enable.getLsbD 16 = true) ∧ ∀ c ∈ (u.pier x.scope).lines, c.way ≠ x.res))) ∧
    (∀ n, okNeed n = true → s.wear.queue.find? (sameNeed n) = none → ∀ ok, exec (.substitution n ok) s = .next s) ∧
    (∀ a c, a < Config.abutments → c < 12 → (s.cluster (12 * a + c)).failed = false →
      ((s.cluster (12 * a + c)).errors = [] → exec (.hostClusterStateError a c) s =
        .next (s.modCluster (12 * a + c) fun C => { C with errors := [s.tick.boundaries] })) ∧
      (∀ b, (s.cluster (12 * a + c)).errors = [b] → s.tick.boundaries < b + 86400000000 → Completes (.hostClusterStateError a c) s fun u =>
        (u.cluster (12 * a + c)).failed = true ∧ (u.cluster (12 * a + c)).parked = true ∧
        (u.events.getLast?.map fun v => (v.code, v.data)) = some (0x0605, [a, c])))

/-- A commit (R333): a valid word sets BUSY and LASTSEQ and the command is picked up; a word written while the slot is busy counts in OVERRUN, any other word in BADCOMMIT. -/
def Obligations.BelulCommits : Prop :=
  ∀ (c n : Nat) (word : W64) (s : State), c < 3 → n < 32 → s.boot.stby = true →
    let sl := s.slot c n
    let good := word.toNat / 2 ^ 48 = 0xBE1C ∧ word.toNat / 2 ^ 32 % 2 ^ 16 = 0 ∧
      word.setWidth 32 = (if sl.lastSeq = 0xFFFFFFFF#32 then 1 else sl.lastSeq + 1)
    (good → sl.busy = false → exec (.belulCommit c n word) s =
      .next (pickup (s.modSlot c n fun x => { x with busy := true, lastSeq := word.setWidth 32 }) c n)) ∧
    (sl.busy = true → exec (.belulCommit c n word) s = .next { s with belul := { s.belul with
      overrun := Tab.set 0 s.belul.overrun c (min 0xFFFF (Tab.get 0 s.belul.overrun c + 1)) } }) ∧
    (¬ good → sl.busy = false → exec (.belulCommit c n word) s = .next { s with belul := { s.belul with
      badcommit := Tab.set 0 s.belul.badcommit c (min 0xFFFF (Tab.get 0 s.belul.badcommit c + 1)) } })

/-- A command that is picked up keeps its copy in its slot, and a status of R444 steps 1–5 answers it at once (R334, R444); a reply is committed with its marker, the SEQ
of the command, and frees the slot (R336–R338).

The checks of a Belul command in their order (R444): a poisoned parameter refuses it with PARAM_POISON, then a reserved parameter bit with BAD_PARAM,
whatever the command's own checks say; then come those of its parameters and addresses, the reply buffer, and its other checks, each in their order; a
command that passes them all acts, and a slot that holds no command of the opcode changes nothing. -/
def Obligations.PickupAndReply : Prop :=
  (∀ (c n : Nat) (s : State), c < 3 → n < 32 →
    (pickStatus s c n = none → (pickup s c n).slot c n = { s.slot c n with picked := some (pickOf s c n) }) ∧
    (∀ st, pickStatus s c n = some st → pickup s c n = replyFinal s c n (pickOf s c n) st []) ∧
    ∀ (p : Picked) (status : Nat) (d : List (Nat × Nat)), p.irq = false → dataLen d ≤ 216 →
      let x := (replyFinal s c n p status d).slot c n
      x.busy = false ∧ x.picked = none ∧ x.running = none ∧ x.reply.status = status ∧ x.reply.final = true ∧ x.reply.marker = 0xBE1D ∧
      x.reply.seq = p.seq ∧ x.reply.tag = p.tag ∧ x.reply.opcode = p.opcode ∧ x.reply.data = d ∧ x.reply.rdlen = dataLen d ∧
      (∀ c' n', slotKey c' n' ≠ slotKey c n → (replyFinal s c n p status d).slot c' n' = s.slot c' n')) ∧
  (∀ (r : Req) (op largest : Nat) (bad : List (Bool × Nat)) (act : Picked → State → State) (p : Picked) (s : State),
    (s.power.idle = .s0 → (s.slot r.client r.slot).picked = some p → p.opcode = op →
      let short := 216 < largest ∧ (p.rlen < largest ∨ p.rptr = 0)
      let refuses := fun st d => command r op bad largest act s = replyFinal s r.client r.slot p st d
      (p.ind = true → r.poison = true → refuses 0x0105 []) ∧
      (p.ind = false ∨ r.poison = false → r.rsv = true → refuses 0x0102 []) ∧
      (r.rsv = false → r.poison = false →
        (∀ pre st post, bad = pre ++ (true, st) :: post → st = 0x0102 ∨ st = 0x0104 → (∀ x ∈ pre, x.1 = true → x.2 ≠ 0x0102 ∧ x.2 ≠ 0x0104) →
          refuses st []) ∧
        ((∀ x ∈ bad, x.1 = true → x.2 ≠ 0x0102 ∧ x.2 ≠ 0x0104) → short → refuses 0x0106 [(4, largest)]) ∧
        ((∀ x ∈ bad, x.1 = true → x.2 ≠ 0x0102 ∧ x.2 ≠ 0x0104) → ¬ short → ∀ pre st post, bad = pre ++ (true, st) :: post → (∀ x ∈ pre, x.1 = false) →
          st ≠ 0x0106 → refuses st []) ∧
        ((∀ x ∈ bad, x.1 = false) → ¬ short → command r op bad largest act s = act p s))) ∧
    ((s.slot r.client r.slot).picked = none → command r op bad largest act s = s))

/-- Addresses of the I3C target (R343): a target without a dynamic address takes one at ENTDAA, SETNEWDA changes it, RSTDAA removes it; ENEC and
DISEC enable and disable IBIs; a whole-module RSTACT is a reset of kind I3C, which loses the address.

What the target answers at its dynamic address (R343): the provisioned ID most significant byte first, BCR 0x06, DCR 0, a maximum write
length of 4,098 and a maximum read length of 4,096. What GETSTATUS answers is a free value (assumption 2).

A private write of bytes to a command slot of client 2 that leaves its commit word alone stores them; a private read returns bytes from the
offset of the last private write and moves it on (R343). -/
def Obligations.I3cTransfers : Prop :=
  (∀ (a : BitVec 7) (s : State), s.boot.stby = true →
    (s.i3c.addr = none → exec (.entdaa a) s = .next { s with i3c := { s.i3c with addr := some a } }) ∧
    (s.i3c.addr ≠ none → exec (.setnewda a) s = .next { s with i3c := { s.i3c with addr := some a } }) ∧
    exec .rstdaa s = .next { s with i3c := { s.i3c with addr := none } } ∧
    exec .enec s = .next { s with i3c := { s.i3c with ibi := true } } ∧
    exec .disec s = .next { s with i3c := { s.i3c with ibi := false } } ∧
    Completes (.rstact true) s fun t => t.i3c = {} ∧ t.belul = {} ∧ t.boot.last = 3 ∧ t.boot.seen = s.boot.seen ||| 8 ∧ t.boot.st = .rom) ∧
  (∀ s : State, s.boot.stby = true → s.i3c.addr ≠ none →
    exec .getbcr s = .next (s.send (.i3c [0x06])) ∧ exec .getdcr s = .next (s.send (.i3c [0x00])) ∧
    exec .getmwl s = .next (s.send (.i3c [0x10, 0x02])) ∧ exec .getmrl s = .next (s.send (.i3c [0x10, 0x00])) ∧
    (∃ b, leNat (b.reverse.map (BitVec.ofNat 8)) = Config.mipiId.toNat * 2 ^ 33 + Config.serial.toNat % 2 ^ 32 ∧ b.length = 6 ∧
      exec .getpid s = .next (s.send (.i3c b))) ∧
    ∃ v, exec .getstatus s = .next (s.takeFree.send (.i3c [v / 256, v % 256]))) ∧
  (∀ (s : State), s.boot.stby = true → s.i3c.addr ≠ none →
    (∀ (off : BitVec 16) (bytes : List Byte), off.toNat % 0x100 + bytes.length ≤ 0xF8 → off.toNat < 0x2000 →
      exec (.i3cPrivateWrite off bytes) s = .next
        { s with i3c := { s.i3c with off := off.toNat },
                 belul := { s.belul with bytes := Memory.put s.belul.bytes (0x20000 + off.toNat) bytes } }) ∧
    (∀ n, n ≤ 4096 → s.i3c.off + n ≤ 0x4004 → exec (.i3cPrivateRead n) s = .next
      { s with out := .i3c ((rangeFrom s.i3c.off n).map fun o => (blockByte s 2 o).toNat) :: s.out,
               i3c := { s.i3c with off := s.i3c.off + n } }))

/-- The INFO commands that only read, and CONFIG_READ, answer OK with their data (R341). The data of SPARE_STATE and TILE_MAP hold free values
where the manual states none (assumption 2).

NOP returns its parameters; OP_LIST lists the long operations; OP_QUERY gives an operation's reply, and UNKNOWN_HANDLE for a handle that names
none, both after the positions that only time shows have gone on by free values (assumption 4); PCIE_PORT records a port's mode and width and
leaves the mode in use alone (R341).

OP_ABORT (R339): no operation under the handle gives NOTHING_TO_ABORT, a client that may not use the operation's opcode is refused with
NOT_PERMITTED, and an INVALIDATE with NOT_ABORTABLE; an aborted MEMORY_INIT leaves the pool UNINIT and reports ABORTED before the abort's own OK. -/
def Obligations.InfoCommands : Prop :=
  (∀ (r : Req) (p : Picked) (s : State),
    (Ready r 0x0101 p s → exec (.deviceInfo r) s = .next (replyFinal s r.client r.slot p 0x0000 (deviceFields s))) ∧
    (Ready r 0x0102 p s → exec (.tileMap r) s = .next (replyFinal { s with free := s.free + 1296 } r.client r.slot p 0x0000
      ((rangeFrom 0 1296).map fun t => (4, mapWord s t)))) ∧
    (Ready r 0x0103 p s → exec (.spareState r) s = .next (replyFinal { s with free := s.free + 2 } r.client r.slot p 0x0000
      ((spareRows s).flatMap fun e => [(4, e.1), (4, e.2)]))) ∧
    (Ready r 0x0104 p s → exec (.degraded r) s = .next (replyFinal s r.client r.slot p 0x0000
      ([(4, maskOf 32 s.degraded.contains)] ++ (rangeFrom 0 5).map (fun l => (8, maskOf (Config.pairs l) fun n => (s.pair l n).st == 0)) ++
        [(8, maskOf 48 fun n => (s.port n).st == 4), (8, maskOf 48 fun n => (s.port n).st == 0)]))) ∧
    (Ready r 0x0202 p s → exec (.configRead r) s = .next (replyFinal s r.client r.slot p 0x0000
      ((rangeFrom 0 4).flatMap fun n => [(1, (recordedPort s n).1), (1, (recordedPort s n).2)])))) ∧
  (∀ (r : Req) (p : Picked) (s : State),
    (∀ b : List Byte, Ready r 0x01F0 p s → b.length ≤ 216 →
      exec (.nop r b) s = .next (replyFinal s r.client r.slot p 0x0000 (b.map fun x => (1, x.toNat)))) ∧
    (Ready r 0x01F3 p s → exec (.opList r) s = .next (replyFinal s.advanceOps r.client r.slot p 0x0000
      (s.advanceOps.belul.ops.flatMap fun o => [(4, o.handle), (2, o.opcode), (8, o.position)]))) ∧
    (∀ (h : W32), Ready r 0x01F1 p s →
      let u := s.advanceOps
      (u.op h.toNat = none → exec (.opQuery r h) s = .next (replyFinal u r.client r.slot p 0x0109 [])) ∧
      ∀ o, u.op h.toNat = some o → exec (.opQuery r h) s = .next (replyFinal u r.client r.slot p 0x0000
        (((replyBytes (u.slot o.client o.slot).reply).take 32).map (fun x => (1, x.toNat)) ++ (u.slot o.client o.slot).reply.data))) ∧
    ((∀ o ∈ s.belul.ops, timeDriven o = false) → s.advanceOps = s) ∧
    (∀ port mode width, Ready r 0x0201 p s → port < 4 → mode < 2 → width = 16 ∨ width = 8 ∨ width = 4 →
      exec (.pciePort r port mode width) s = .next (replyFinal (addRec s 9 port [mode, width]) r.client r.slot p 0x0000 []))) ∧
  (∀ (r : Req) (h : W32) (pos : Nat) (p : Picked) (s : State), pos < 2 ^ 64 → Ready r 0x01F2 p s →
    (s.op h.toNat = none → exec (.opAbort r h pos) s = .next (replyFinal s r.client r.slot p 0x0005 [])) ∧
    (∀ o, s.op h.toNat = some o →
      (permitted o.opcode r.client = false → exec (.opAbort r h pos) s = .next (replyFinal s r.client r.slot p 0x0103 [])) ∧
      (permitted o.opcode r.client = true → o.opcode = 0x0403 → exec (.opAbort r h pos) s = .next (replyFinal s r.client r.slot p 0x0108 [])) ∧
      (o.opcode = 0x0301 → exec (.opAbort r h pos) s = .next (replyFinal
        (finishOp ((setPosition s o.handle (max o.position (min pos o.total))).modPool fun x => { x with st := .uninit }) o.handle 0x0003 [])
        r.client r.slot p 0x0000 []))))

/-- REGISTER_WRITE of 4 B of a register that has no row of its own (R8, R186, R211, R235, R254, R301, R327, R367, R441): the writable fields take
their bits, reserved bits read as zero, and a value or a state that the field table excludes leaves the register.

REGISTER_WRITE of 4 B of a register that has a row of its own acts as that row does (R8, R438, R439), in every block.

REGISTER_WRITE of 4 B of a register of a tile's block that has no row of its own (R157, R48, R46, R391); a tile that is UNAVAILABLE ignores
the write (R438).

Writes that change nothing (R8, R438): of RO and RC words, and where no register lies.

An 8 B REGISTER_WRITE is two 4 B writes, lower address first (R439), but of EXPORT.ENTRY, which takes it whole, and of the BELUL blocks. -/
def Obligations.RegisterWrites : Prop :=
  (∀ (val : W64) (s : State),
    let w : W32 := val.setWidth 32
    let wr := fun (addr : Nat) => exec (.registerWrite addr 4 val) s
    wr 0x400000E00000 = .next { s with node := { s.node with phys := w.toNat % 2 ^ 20 } } ∧
    wr 0x400000E00008 = .next { s with node := { s.node with timeout := if 10 ≤ w.toNat % 2 ^ 16 then w.toNat % 2 ^ 16 else s.node.timeout } } ∧
    (s.job.st = .none → wr 0x400000F40040 = .next { s with job := { s.job with lbufLo := w &&& 0xFFFFF000#32 } } ∧
      wr 0x400000F40044 = .next { s with job := { s.job with lbufHi := w &&& 0xFFFF#32 } }) ∧
    (s.job.st ≠ .none → wr 0x400000F40040 = .next s ∧ wr 0x400000F40044 = .next s) ∧
    wr 0x400000F50020 = .next { s with power := { s.power with wakeCtl := w &&& 0xF0000000#32 } } ∧
    wr 0x400000F50024 = .next { s with power := { s.power with
      wakeTick := BitVec.ofNat 64 (s.power.wakeTick.toNat / 2 ^ 32 % 2 ^ 32 * 2 ^ 32 + w.toNat) } } ∧
    wr 0x400000F50028 = .next { s with power := { s.power with
      wakeTick := BitVec.ofNat 64 (w.toNat * 2 ^ 32 + s.power.wakeTick.toNat % 2 ^ 32) } } ∧
    wr 0x400000900008 = .next { s with pool := { s.pool with
      scrubOn := w.getLsbD 31, scrubHours := if 1 ≤ w.toNat % 256 ∧ w.toNat % 256 ≤ 168 then w.toNat % 256 else s.pool.scrubHours } } ∧
    (s.ks.ringEnable = false →
      wr 0x400000800010 = .next { s with ks := { s.ks with ringBase := s.ks.ringBase / 2 ^ 32 * 2 ^ 32 + w.toNat / 4096 * 4096 } } ∧
      wr 0x400000800014 = .next { s with ks := { s.ks with ringBase := s.ks.ringBase % 2 ^ 32 + w.toNat % 65536 * 2 ^ 32 } }) ∧
    (s.ks.ringEnable = true → wr 0x400000800010 = .next s ∧ wr 0x400000800014 = .next s) ∧
    (∀ ch, ch < 512 → let b := 0x400001000000 + 0x10000 * ch
      (((s.chan ch).tgRun = false → wr (b + 0x100) = .next (s.modChan ch fun c => { c with tgctl := w &&& 0x0003FFF8#32 })) ∧
       ((s.chan ch).tgRun = true → wr (b + 0x100) = .next s) ∧
       wr (b + 0x104) = .next (s.modChan ch fun c => { c with tgseed := w }) ∧
       wr (b + 0x108) = .next (s.modChan ch fun c => { c with tglen := w }))) ∧
    (∀ p, p < 4 → let thr := w.toNat / 2 ^ 16 % 2 ^ 9
      let age := w.toNat % 2 ^ 12
      wr (0x400000A00000 + 0x10000 * p) = .next (s.modPier p fun P =>
        { P with prefetch := w.getLsbD 31, fillThr := if 1 ≤ thr ∧ thr ≤ 256 then thr else P.fillThr,
                 mergeAge := if 16 ≤ age then age else P.mergeAge })) ∧
    (∀ n, n < 256 → let e := s.hint n
      let a := 0x400000C00000 + 16 * n
      (e.enable = false →
        wr a = .next (s.setHint n { e with addrLo := w &&& 0xFFFFFFFC#32 }) ∧
        wr (a + 4) = .next (s.setHint n { e with addrHi := w &&& 0xFFFF#32 }) ∧ wr (a + 8) = .next (s.setHint n { e with data := w })) ∧
      (e.enable = true → wr a = .next s ∧ wr (a + 4) = .next s ∧ wr (a + 8) = .next s)) ∧
    (∀ k, k < 4096 → let a := 0x400000F00000 + 32 * k
      ((s.window k).v = false →
        wr (a + 4) = .next (s.modWindow k fun x => { x with baseLo := w &&& 0xFFFF0000#32 }) ∧
        wr (a + 8) = .next (s.modWindow k fun x => { x with baseHi := w &&& 0xFFFF#32 }) ∧
        wr (a + 12) = .next (s.modWindow k fun x => { x with srcVal := w &&& 0xFFFFFF#32 }) ∧
        wr (a + 16) = .next (s.modWindow k fun x => { x with srcMask := w &&& 0xFFFFFF#32 })) ∧
      ((s.window k).v = true → wr (a + 4) = .next s ∧ wr (a + 8) = .next s ∧ wr (a + 12) = .next s ∧ wr (a + 16) = .next s)) ∧
    (∀ n, n < Config.pciePorts → wr (0x400000FA0000 + 4 * n) = .next { s with upper := Tab.set 0 s.upper n (w &&& 0xFFFFFF#32) })) ∧
  (∀ (val : W64) (s : State),
    let w : W32 := val.setWidth 32
    let row := fun (addr : Nat) (i : Instr) => exec (.registerWrite addr 4 val) s = exec i s
    row 0x400000800018 (.ringctlWrite w) ∧ row 0x400000800020 (.ringtailWrite w) ∧ row 0x400000F70004 (.talcyTriggerWrite w) ∧
    Completes (.registerWrite 0x400000F90000 4 val) s (fun u => u.wear.hold = w.getLsbD 31) ∧
    (s.wear.queue = [] → exec (.registerWrite 0x400000F90000 4 val) s = .next { s with wear := { s.wear with hold := w.getLsbD 31 } }) ∧
    (∀ p, p < 4 → exec (.registerWrite (0x400000A00004 + 0x10000 * p) 4 val) s =
      .next (doWayctlEnableWrite p w (doWayctlDisableWrite p w s))) ∧
    (∀ n, n < 256 → row (0x400000C0000C + 16 * n) (.hostintCtlWrite n w false)) ∧
    (∀ k, k < 4096 → row (0x400000F00000 + 32 * k) (.importOpen k w)) ∧
    (∀ n size, n < 4096 → size = 4 ∨ size = 8 → exec (.registerWrite (0x400000F20000 + 8 * n) size val) s = exec (.exportEntryWrite n size val) s) ∧
    (∀ addr, 0x400001000000 ≤ addr → addr < 0x400003000000 → addr % 0x10000 = 0x1FF0 ∨ addr % 0x10000 = 0x1FF4 →
      row addr (.cntrstWrite .device addr w 0)) ∧
    (∀ c k, c < 2 → k < 32 →
      (exec (.registerWrite (0x4000006000F8 + 0x10000 * c + 0x100 * k) 8 val) s = exec (.belulCommit c k val) s) ∧
      ∀ off, off < 0xF8 → off % 4 = 0 → exec (.registerWrite (0x400000600000 + 0x10000 * c + 0x100 * k + off) 4 val) s =
        .next { s with belul := { s.belul with bytes := Memory.putLe s.belul.bytes (0x10000 * c + 0x100 * k + off) 4 w.toNat } }) ∧
    (∀ t q, t < 1296 → q < 4 → let b := 0x400100000000 + 0x10000 * t
      row (b + 0xC) (.exit .device t w) ∧ row (b + 0x1000 + 16 * q) (.qpush .device t q w) ∧ row (b + 0x1008 + 16 * q) (.qcrWrite .device t q w) ∧
      row (b + 0x1100 + 16 * q) (.rxcfgWrite .device t q w) ∧ row (b + 0x1108 + 16 * q) (.rxtailWrite .device t q w) ∧
      row (b + 0x114C) (.tmarkWrite .device t w) ∧
      row (b + 0x2000) (.pendSet .device t false w) ∧ row (b + 0x2004) (.pendSet .device t true w) ∧
      row (b + 0x2008) (.pendClr .device t false w 0) ∧ row (b + 0x200C) (.pendClr .device t true w 0) ∧
      row (b + 0x2010) (.maskSet .device t false w) ∧ row (b + 0x2014) (.maskSet .device t true w) ∧
      row (b + 0x2018) (.maskClr .device t false w 0) ∧ row (b + 0x201C) (.maskClr .device t true w 0) ∧
      row (b + 0x3140) (.cntrstWrite .device (b + 0x3140) w 0))) ∧
  (∀ (t : Nat) (val : W64) (s : State), t < 1296 →
    let w : W32 := val.setWidth 32
    let T := s.tile t
    let wr := fun (off : Nat) => exec (.registerWrite (0x400100000000 + 0x10000 * t + off) 4 val) s
    (T.st ≠ .unavailable →
      wr 0x1140 = .next (s.setTile t { T with retry := w.toNat % 256 }) ∧
      (T.st ≠ .run → T.st ≠ .halted → wr 0x1144 = .next (s.setTile t { T with compat := w.getLsbD 31, ring8 := w.getLsbD 30 })) ∧
      (T.st = .run ∨ T.st = .halted → wr 0x1144 = .next s) ∧
      wr 0x1148 = .next (s.setTile t { T with member := w.getLsbD 31, memberJob := w.getLsbD 30 }) ∧
      wr 0x2020 = .next (s.setTile t { T with vbase := w &&& 0x003FFC00#32 }) ∧
      (∀ n, n < 8 → let v := w &&& (if n < 4 then 0xC0F0003F#32 else 0x80F0003F#32)
        wr (0x3100 + 4 * n) = .next (s.setTile t { T with pcfg := Tab.set pcfgReset T.pcfg n v })) ∧
      (∀ n, n < 4 → wr (0x3120 + 4 * n) = .next (s.setTile t { T with pthr := Tab.set 0 T.pthr n w })) ∧
      (wr 0x4010 = .next (s.setTile t { T with core := { T.core with arg0 := w } }) ∧
       wr 0x4014 = .next (s.setTile t { T with core := { T.core with arg1 := w } }) ∧
       wr 0x4080 = .next (s.setTile t { T with core := { T.core with progbuf0 := w } }) ∧
       wr 0x4084 = .next (s.setTile t { T with core := { T.core with progbuf1 := w } }))) ∧
    (T.st = .unavailable → ∀ off, off < 0x4200 → off % 4 = 0 → off ≠ 0x3140 → wr off = .next s)) ∧
  (∀ (addr : Nat) (val : W64) (s : State), addr % 4 = 0 →
    (0x400000F30000 ≤ addr ∧ addr < 0x400000F40000) ∨ (0x400000F60000 ≤ addr ∧ addr < 0x400000F70000) ∨
    (0x400000F80000 ≤ addr ∧ addr < 0x400000F90000) ∨ (0x400003400000 ≤ addr ∧ addr < 0x400006000000) ∨
    (0x400007000000 ≤ addr ∧ addr < 0x400100000000) ∨ (0x400000F28000 ≤ addr ∧ addr < 0x400000F30000) ∨
    (0x400000C01000 ≤ addr ∧ addr < 0x400000D00000) ∨ addr = 0x400000900000 ∨ addr = 0x400000900010 →
    addr % 0x10000 ≠ 0x1FF0 → addr % 0x10000 ≠ 0x1FF4 → exec (.registerWrite addr 4 val) s = .next s) ∧
  (∀ (addr : Nat) (val : W64) (s t u : State), addr % 8 = 0 → addr < 0x500000000000 →
    (0x400000800000 ≤ addr ∧ addr < 0x400000F20000) ∨ 0x400000F28000 ≤ addr →
    exec (.registerWrite addr 4 val) s = .next t → exec (.registerWrite (addr + 4) 4 (val >>> 32)) t = .next u →
    exec (.registerWrite addr 8 val) s = .next u)

/-- Reads that clear return the value before the events of the same cycle, and leave those events alone in the field (R9).

Reads that latch (R327, R386, R397): a read of the low word of a 64-bit count returns it and latches the high word. A
counter that counts cycles, refreshes or codewords that no command shows has first counted a free value (assumption 4). -/
def Obligations.ReadsThatClear : Prop :=
  (∀ (ev ev2 ev3 : Nat) (s : State),
    exec (.talcyStatusRead ev) s = .next ((s.ret (mkFld 30 2 s.talcy.st + mkFld 0 8 s.talcy.gaps)).modTalcy fun x => { x with gaps := min 0xFF ev }) ∧
    (∀ b, exec (.cntctlFreezeRead b) s = .next
      ((s.ret (mkBit 31 s.ctrs.frozen + mkBit 30 s.ctrs.late)).modCtrs fun k => { k with late := b })) ∧
    (∀ c, c < 3 → exec (.belulErrRead c ev ev2) s = .next
      ((s.ret (mkFld 16 16 (Tab.get 0 s.belul.overrun c) + mkFld 0 16 (Tab.get 0 s.belul.badcommit c))).modBelul fun b =>
        { b with overrun := Tab.set 0 b.overrun c (min 0xFFFF ev), badcommit := Tab.set 0 b.badcommit c (min 0xFFFF ev2) })) ∧
    exec (.droopRead ev) s = .next ((s.ret (mkFld 16 16 s.power.droops + mkFld 0 10 s.power.minv)).modPower fun w => { w with droops := min 0xFFFF ev }) ∧
    exec (.overcapRead ev) s = .next ((s.ret s.power.overcap).modPower fun w => { w with overcap := min 0xFFFF ev }) ∧
    exec .tripRead s = .next ((s.ret (mkBit 31 s.power.tripValid + mkFld 16 8 s.power.tripSensor + mkFld 0 12 (ofSInt 12 s.power.tripTemp))).modPower
      fun w => { w with tripValid := false, tripSensor := 0, tripTemp := 0 }) ∧
    (∀ i, i < 36 → exec (.tempRead i) s = .next ((s.ret (tempReg (s.sensor i))).modSensor i fun x => { x with max := 0, fresh := true })) ∧
    (∀ e : BitVec 10, exec (.bootCauseRead e) s = .next ((s.ret (mkFld 28 4 s.boot.last + s.boot.seen.toNat)).modBoot fun b => { b with seen := e })) ∧
    (∀ e : BitVec 16, exec (.dierstRead e) s = .next ((s.ret s.boot.dierst.toNat).modBoot fun b => { b with dierst := e &&& 0xEFFF })) ∧
    exec (.wearUnmetRead ev) s = .next ((s.ret s.wear.unmet).modWear fun w => { w with unmet := min 0xFFFF ev }) ∧
    exec (.jobMissedRead ev) s = .next ((s.ret s.job.missed).modJob fun j => { j with missed := min 0xFFFF ev }) ∧
    exec (.jobFlagsRead ev) s = .next ((s.ret (mkBit 31 s.job.slow + mkFld 24 6 s.job.slowNb.toNat + mkFld 0 16 s.job.slowLate)).modJob
      fun j => { j with slowLate := min 0xFFFF ev }) ∧
    exec (.nodeRefuseRead ev) s = .next ((s.ret (mkFld 24 8 s.node.cause + mkFld 0 16 s.node.refused)).modNode fun n => { n with refused := min 0xFFFF ev }) ∧
    (∀ p, p < 48 → exec (.oportErrRead p ev ev2) s = .next ((s.ret (mkFld 16 16 (s.port p).replays + mkFld 0 16 (s.port p).fecUnc)).modPort p
      fun o => { o with replays := min 0xFFFF ev, fecUnc := min 0xFFFF ev2 })) ∧
    (∀ l n, wfPair l n = true → exec (.bstatRead l n ev) s = .next ((s.ret (mkFld 29 3 (s.pair l n).st + mkFld 26 3 (s.pair l n).spareE +
      mkFld 23 3 (s.pair l n).spareW + mkFld 0 16 (s.pair l n).replays)).modPair l n fun x => { x with replays := min 0xFFFF ev })) ∧
    (∀ a, a < 2 → exec (.homearbStatusRead a ev) s = .next ((s.modArb a fun A => { A with dirEvict := min 0xFFFF ev }).ret
      (mkFld 16 16 (s.arb a).dirEvict + mkFld 0 11 (min 1024 (s.arb a).held.length)))) ∧
    (∀ ch, ch < 512 →
      exec (.memchStatusRead ch ev) s = .next ((s.ret (mkBit 31 (s.chan ch).hot + mkBit 30 (s.chan ch).testOwner + mkFld 0 16 (s.chan ch).hotCount)).modChan
        ch fun c => { c with hotCount := min 0xFFFF ev }) ∧
      exec (.errcntRead ch ev ev2 ev3) s = .next ((s.ret (mkFld 22 10 (s.chan ch).ue + mkFld 11 11 (s.chan ch).ceOuter + mkFld 0 11 (s.chan ch).ceInner)).modChan
        ch fun c => { c with ue := min 0x3FF ev3, ceOuter := min 0x7FF ev2, ceInner := min 0x7FF ev })) ∧
    (∀ p, p < 4 →
      (∀ b, exec (.waystatRead p b) s = .next ((s.ret (waystat (s.pier p))).modPier p fun P => { P with refused := b })) ∧
      ∀ ev4, exec (.pcacheErrRead p ev ev2 ev3 ev4) s = .next ((s.ret (pcacheErr (s.pier p))).modPier p fun P =>
        { P with errCe := min 0xFF ev, errData := min 0xFF ev2, errTag := min 0xFF ev3, errBuf := min 0xFF ev4 })) ∧
    exec (.overflowRead ev) s = .next ((s.modKs fun k => { k with overflow := BitVec.ofNat 32 (min 0xFFFFFFFF ev) }).ret s.ks.overflow.toNat)) ∧
  (∀ s : State,
    exec .tickNumloRead s = .next ((s.ret (s.tick.num.toNat % 2 ^ 32)).modTick fun k => { k with latch := BitVec.ofNat 32 (k.num.toNat / 2 ^ 32) }) ∧
    exec .jobTickloRead s = .next ((s.ret (s.job.jt.toNat % 2 ^ 32)).modJob fun j => { j with latch := BitVec.ofNat 32 (j.jt.toNat / 2 ^ 32) }) ∧
    exec .frztickloRead s = .next ((s.ret (s.ctrs.frzTick.toNat % 2 ^ 32)).modCtrs fun k =>
      { k with frzLatch := BitVec.ofNat 32 (k.frzTick.toNat / 2 ^ 32) }) ∧
    ∀ addr, addr < 2 ^ 48 → addr % 16 = 0 →
      let u := timeCtr addr s
      exec (.cntloRead .device addr) s = .next
        ((u.modCtrs fun c => { c with latchDev := Tab.set 0 c.latchDev addr (ctrHi u addr) }).ret ((u.ctr addr).val.toNat % 2 ^ 32)) ∧
      exec (.cntloRead .core addr) s = .next
        ((u.modCtrs fun c => { c with latchCore := Tab.set 0 c.latchCore addr (ctrHi u addr) }).ret ((u.ctr addr).val.toNat % 2 ^ 32)) ∧
      (timedCtr addr = false → u = s))
end

