-- ==== Sys2Proof/Laws/Tab.lean ====
section
/-!
SUPPORT. The laws of sparse tables and byte memories: a read after a write, and that each operation keeps the canonical form.
-/

namespace Sys2Proof

/-- Entries of other keys do not matter to a read. -/
theorem Tab.get_append {α : Type} (d : α) (a b : Tab α) (k : Nat) :
    Tab.get d (a ++ b) k = if k ∈ a.map Prod.fst then Tab.get d a k else Tab.get d b k := by
  induction a with
  | nil => simp
  | cons e r ih =>
    obtain ⟨j, v⟩ := e
    by_cases h : j = k
    · simp [Tab.get, h]
    · have : ¬ k = j := fun c => h c.symm
      simp only [List.cons_append, Tab.get, h, if_false, ih, List.map_cons, List.mem_cons, this, false_or]

/-- A read of a table cut down to the keys that a test selects, at a selected key. -/
theorem Tab.get_filter {α : Type} (d : α) (t : Tab α) (p : Nat → Bool) (k : Nat) (h : p k = true) :
    Tab.get d (t.filter fun e => p e.1) k = Tab.get d t k := by
  induction t with
  | nil => rfl
  | cons e r ih =>
    obtain ⟨j, v⟩ := e
    by_cases hj : j = k
    · subst hj; simp [List.filter, h, Tab.get]
    · cases hp : p j <;> simp [List.filter, hp, Tab.get, hj, ih]

/-- A key that is not listed reads as the default. -/
theorem Tab.get_of_not_mem {α : Type} (d : α) (t : Tab α) (k : Nat) (h : k ∉ t.map Prod.fst) : Tab.get d t k = d := by
  induction t with
  | nil => rfl
  | cons e r ih =>
    obtain ⟨j, v⟩ := e
    simp only [List.map_cons, List.mem_cons, not_or] at h
    have hj : ¬ j = k := fun c => h.1 c.symm
    simp [Tab.get, hj, ih h.2]

/-- A key written reads back. -/
@[simp] theorem Tab.get_set_self {α : Type} [DecidableEq α] (d : α) (t : Tab α) (k : Nat) (v : α) :
    Tab.get d (Tab.set d t k v) k = v := by
  have h1 : k ∉ ((t.filter fun e => decide (e.1 < k)).map Prod.fst) := by simp
  have h2 : k ∉ ((t.filter fun e => decide (k < e.1)).map Prod.fst) := by simp
  unfold Tab.set
  rw [List.append_assoc, Tab.get_append, if_neg h1]
  by_cases hv : v = d
  · simp [hv, Tab.get_of_not_mem d _ k h2]
  · simp [hv, Tab.get]

/-- A write leaves every other key as it was. -/
theorem Tab.get_set_ne {α : Type} [DecidableEq α] (d : α) (t : Tab α) (k j : Nat) (v : α) (h : j ≠ k) :
    Tab.get d (Tab.set d t k v) j = Tab.get d t j := by
  unfold Tab.set
  rw [List.append_assoc, Tab.get_append]
  rcases Nat.lt_or_gt_of_ne h with hl | hg
  · have e1 : Tab.get d (t.filter fun e => decide (e.1 < k)) j = Tab.get d t j :=
      Tab.get_filter d t (fun n => decide (n < k)) j (by simpa using hl)
    split
    · exact e1
    · rename_i hn
      rw [← e1, Tab.get_of_not_mem d _ j hn]
      refine Tab.get_of_not_mem d _ j ?_
      by_cases hv : v = d
      · simp [hv]; omega
      · simp [hv]; exact ⟨h, fun _ _ => by omega⟩
  · have e1 : Tab.get d (t.filter fun e => decide (k < e.1)) j = Tab.get d t j :=
      Tab.get_filter d t (fun n => decide (k < n)) j (by simpa using hg)
    have h1 : j ∉ ((t.filter fun e => decide (e.1 < k)).map Prod.fst) := by simp; omega
    rw [if_neg h1, Tab.get_append]
    have h2 : j ∉ ((if v = d then [] else [(k, v)] : Tab α).map Prod.fst) := by
      by_cases hv : v = d <;> simp [hv, h]
    rw [if_neg h2, e1]

/-- A write keeps the canonical form. -/
theorem Tab.wf_set {α : Type} [DecidableEq α] (d : α) (t : Tab α) (k : Nat) (v : α) (h : Tab.wf d t = true) :
    Tab.wf d (Tab.set d t k v) = true := by
  simp only [Tab.wf, Bool.and_eq_true, decide_eq_true_eq, List.all_eq_true] at h ⊢
  obtain ⟨hp, hd⟩ := h
  have hl := hp.filter fun e => decide (e.1 < k)
  have hg := hp.filter fun e => decide (k < e.1)
  unfold Tab.set
  constructor
  · by_cases hv : v = d
    · simp only [hv, if_true, List.append_nil, List.pairwise_append]
      refine ⟨hl, hg, fun a ha b hb => ?_⟩
      simp at ha hb; omega
    · simp only [hv, if_false, List.pairwise_append, List.append_assoc]
      refine ⟨hl, ⟨by simp, hg, fun a ha b hb => ?_⟩, fun a ha b hb => ?_⟩
      · simp at ha hb; subst ha; exact hb.2
      · simp at ha hb; rcases hb with rfl | hb
        · exact ha.2
        · omega
  · intro e he
    by_cases hv : v = d
    · simp [hv] at he; rcases he with he | he <;> exact hd e he.1
    · simp [hv] at he
      rcases he with he | rfl | he
      · exact hd e he.1
      · exact hv
      · exact hd e he.1

/-- A table cut down keeps the canonical form. -/
theorem Tab.wf_filter {α : Type} [DecidableEq α] (d : α) (t : Tab α) (p : Nat × α → Bool) (h : Tab.wf d t = true) :
    Tab.wf d (t.filter p) = true := by
  simp only [Tab.wf, Bool.and_eq_true, decide_eq_true_eq, List.all_eq_true] at h ⊢
  exact ⟨h.1.filter p, fun e he => h.2 e (List.mem_filter.mp he).1⟩

/-- An empty table is in canonical form. -/
@[simp] theorem Tab.wf_nil {α : Type} [DecidableEq α] (d : α) : Tab.wf d ([] : Tab α) = true := by simp [Tab.wf]

/-! ### Byte memories -/

/-- A byte written keeps the canonical form. -/
theorem Memory.wf_putByte (t : Tab Byte) (a : Nat) (b : Byte) (h : Memory.wf t = true) : Memory.wf (Memory.putByte t a b) = true :=
  Tab.wf_set 0 t a b h

/-- Bytes written keep the canonical form. -/
theorem Memory.wf_put (l : List Byte) (t : Tab Byte) (a : Nat) (h : Memory.wf t = true) : Memory.wf (Memory.put t a l) = true := by
  induction l generalizing t a with
  | nil => exact h
  | cons b r ih => exact ih _ _ (Memory.wf_putByte t a b h)

/-- A number written keeps the canonical form. -/
theorem Memory.wf_putLe (t : Tab Byte) (a n v : Nat) (h : Memory.wf t = true) : Memory.wf (Memory.putLe t a n v) = true :=
  Memory.wf_put _ t a h

/-- A range cleared keeps the canonical form. -/
theorem Memory.wf_clear (t : Tab Byte) (a n : Nat) (h : Memory.wf t = true) : Memory.wf (Memory.clear t a n) = true :=
  Tab.wf_filter 0 t _ h

/-- A write of a list of bytes leaves the bytes outside it as they were. -/
theorem Memory.byte_put_outside (l : List Byte) (t : Tab Byte) (a x : Nat) (h : x < a ∨ a + l.length ≤ x) :
    Memory.byte (Memory.put t a l) x = Memory.byte t x := by
  induction l generalizing t a with
  | nil => rfl
  | cons b r ih =>
    simp only [List.length_cons] at h
    rw [Memory.put, ih _ _ (by omega)]
    exact Tab.get_set_ne 0 t a x b (by omega)

/-- A write of a list of bytes reads back. -/
theorem Memory.byte_put_inside (l : List Byte) (t : Tab Byte) (a i : Nat) (h : i < l.length) :
    Memory.byte (Memory.put t a l) (a + i) = l[i] := by
  induction l generalizing t a i with
  | nil => simp at h
  | cons b r ih =>
    cases i with
    | zero =>
      rw [Memory.put, Memory.byte_put_outside r _ _ _ (by omega)]
      exact Tab.get_set_self 0 t a b
    | succ i =>
      have := ih (Memory.putByte t a b) (a + 1) i (by simpa using h)
      rw [show a + 1 + i = a + (i + 1) by omega] at this
      simpa [Memory.put] using this

/-- A cleared range reads as zero, and nothing else changes. -/
theorem Memory.byte_clear (t : Tab Byte) (a n x : Nat) :
    Memory.byte (Memory.clear t a n) x = if a ≤ x ∧ x < a + n then 0 else Memory.byte t x := by
  unfold Memory.byte Memory.clear
  by_cases h : a ≤ x ∧ x < a + n
  · rw [if_pos h]
    refine Tab.get_of_not_mem 0 _ x ?_
    simp; omega
  · rw [if_neg h]
    exact Tab.get_filter 0 t (fun k => decide (k < a) || decide (a + n ≤ k)) x (by simp; omega)

/-- As many bytes are read as are asked for. -/
@[simp] theorem Memory.length_bytes (t : Tab Byte) (n a : Nat) : (Memory.bytes t a n).length = n := by
  induction n generalizing a with
  | zero => rfl
  | succ n ih => simp [Memory.bytes, ih]

/-- A field of `n` bytes has `n` bytes. -/
@[simp] theorem length_leBytes (n v : Nat) : (leBytes n v).length = n := by
  induction n generalizing v with
  | zero => rfl
  | succ n ih => simp [leBytes, ih]

/-- The elements of a range of numbers. -/
theorem mem_rangeFrom (n a x : Nat) : x ∈ rangeFrom a n ↔ a ≤ x ∧ x < a + n := by
  induction n generalizing a with
  | zero => simp [rangeFrom]
  | succ n ih => simp [rangeFrom, ih]; omega

/-- A range of numbers has as many as it says. -/
@[simp] theorem length_rangeFrom (n a : Nat) : (rangeFrom a n).length = n := by
  induction n generalizing a with
  | zero => rfl
  | succ n ih => simp [rangeFrom, ih]

end Sys2Proof
end

