-- ==== Sys2Proof/Laws/Frame.lean ====
section
/-!
SUPPORT. The relation by which frames and the invariant are proved: `Le m s t` says that `t` agrees with `s` in every part whose bit the
mask `m` lacks, and that the invariant goes over from `s` to `t`. Each operation of the model has one lemma `<name>_le` that says so of it
(the files `Keep*.lean`).
-/

namespace Sys2Proof.Machine
open Sys2Proof

/-- The bit of a part in a mask. -/
def Part.code : Part → Nat
  | .tiles => 0 | .msgs => 1 | .ks => 2 | .pool => 3 | .chans => 4 | .piers => 5 | .clusters => 6 | .arbs => 7 | .hostint => 8
  | .imsic => 9 | .pairs => 10 | .degraded => 11 | .node => 12 | .tick => 13 | .job => 14 | .belul => 15 | .i3c => 16 | .power => 17
  | .boot => 18 | .ctrs => 19 | .talcy => 20 | .wear => 21 | .upper => 22 | .portCfg => 23 | .events => 24 | .rdata => 25 | .out => 26
  | .free => 27 | .pending => 28 | .truss => 29

/-- What an operation keeps: every part outside the mask, and the invariant. -/
def Le (m : Nat) (s t : State) : Prop := (∀ p : Part, m.testBit p.code = false → Same p s t) ∧ (NodeInv s → NodeInv t)

theorem Le.refl (m : Nat) (s : State) : Le m s s :=
  ⟨fun p _ => by cases p <;> simp [Same], id⟩

theorem Same.trans {p : Part} {s t u : State} (h : Same p s t) (g : Same p t u) : Same p s u := by
  cases p <;> simp_all [Same]

/-- An operation after another: its mask lies in theirs. -/
theorem Le.next {m n : Nat} {s t u : State} (hg : Le n t u) (hm : n ||| m = m) (h : Le m s t) : Le m s u := by
  refine ⟨fun p hp => (h.1 p hp).trans (hg.1 p ?_), fun hi => hg.2 (h.2 hi)⟩
  rw [← hm, Nat.testBit_or, Bool.or_eq_false_iff] at hp
  exact hp.1

/-- The mask of a list of parts. -/
def partMask (l : List Part) : Nat := l.foldr (fun p a => 2 ^ p.code ||| a) 0

/-- The parts in the order of their bits. -/
def partList : List Part :=
  [.tiles, .msgs, .ks, .pool, .chans, .piers, .clusters, .arbs, .hostint, .imsic, .pairs, .degraded, .node, .tick, .job, .belul, .i3c, .power,
   .boot, .ctrs, .talcy, .wear, .upper, .portCfg, .events, .rdata, .out, .free, .pending, .truss]

theorem Part.code_inj {p q : Part} (h : p.code = q.code) : p = q := by
  have : ∀ r : Part, partList[r.code]? = some r := by intro r; cases r <;> rfl
  exact Option.some.inj ((this p).symm.trans (h ▸ this q))

theorem testBit_partMask {l : List Part} {p : Part} (h : p ∉ l) : (partMask l).testBit p.code = false := by
  induction l with
  | nil => exact Nat.zero_testBit _
  | cons q r ih =>
    simp only [List.mem_cons, not_or] at h
    have hq : ¬ q.code = p.code := fun e => h.1 (Part.code_inj e.symm)
    show (2 ^ q.code ||| partMask r).testBit p.code = false
    rw [Nat.testBit_or, Nat.testBit_two_pow, ih h.2]
    simp [hq]

/-- A frame by a list of parts follows from a mask that lies in it. -/
theorem Le.sameBut {m : Nat} {l : List Part} {s t : State} (h : Le m s t) (hl : m ||| partMask l = partMask l) : SameBut l s t := by
  intro p hp
  refine h.1 p ?_
  have := testBit_partMask hp
  rw [← hl, Nat.testBit_or, Bool.or_eq_false_iff] at this
  exact this.1

theorem Le.ite {m : Nat} {s a b : State} {c : Prop} [Decidable c] (ha : c → Le m s a) (hb : ¬ c → Le m s b) : Le m s (if c then a else b) := by
  split
  · exact ha ‹_›
  · exact hb ‹_›

theorem Le.iteFst {m : Nat} {α : Type} {s : State} {a b : State × α} {c : Prop} [Decidable c] (ha : c → Le m s a.1) (hb : ¬ c → Le m s b.1) :
    Le m s (if c then a else b).1 := by
  split
  · exact ha ‹_›
  · exact hb ‹_›

/-- The state of a pair that an operation answers. -/
theorem Le.fst {m : Nat} {α : Type} {s u : State} {z : α} {x : State × α} (e : x = (u, z)) (h : Le m s x.1) : Le m s u := by
  subst e; exact h

theorem Le.when {m : Nat} {s0 s : State} {b : Bool} {f : State → State} (h : Le m s0 s) (hf : ∀ u, Le m s0 u → Le m s0 (f u)) :
    Le m s0 (s.when b f) := by
  unfold State.when
  split
  · exact hf _ h
  · exact h

theorem Le.foldl {m : Nat} {α : Type} {s0 s : State} {f : State → α → State} {l : List α} (h : Le m s0 s)
    (hf : ∀ u x, Le m s0 u → Le m s0 (f u x)) : Le m s0 (l.foldl f s) := by
  induction l generalizing s with
  | nil => exact h
  | cons x r ih => exact ih (hf _ _ h)

theorem Le.foldlFst {m : Nat} {α β : Type} {s0 : State} {p : State × β} {f : State × β → α → State × β} {l : List α} (h : Le m s0 p.1)
    (hf : ∀ u x, Le m s0 u.1 → Le m s0 (f u x).1) : Le m s0 (l.foldl f p).1 := by
  induction l generalizing p with
  | nil => exact h
  | cons x r ih => exact ih (hf _ _ h)

theorem Le.forEach {m : Nat} {α : Type} {s0 s : State} {f : α → State → State} {l : List α} (h : Le m s0 s)
    (hf : ∀ x u, Le m s0 u → Le m s0 (f x u)) : Le m s0 (Machine.forEach l f s) :=
  Le.foldl h fun u x hu => hf x u hu

/-! ### One part replaced -/

theorem Le.tiles (s : State) (x) : Le 1 s { s with tiles := x } :=
  ⟨fun p h => by cases p <;> first | exact absurd h (by decide) | simp [Same], id⟩

theorem Le.chans (s : State) (x) : Le 16 s { s with chans := x } :=
  ⟨fun p h => by cases p <;> first | exact absurd h (by decide) | simp [Same], id⟩

theorem Le.piers (s : State) (x) : Le 32 s { s with piers := x } :=
  ⟨fun p h => by cases p <;> first | exact absurd h (by decide) | simp [Same], id⟩

theorem Le.clusters (s : State) (x) : Le 64 s { s with clusters := x } :=
  ⟨fun p h => by cases p <;> first | exact absurd h (by decide) | simp [Same], id⟩

theorem Le.arbs (s : State) (x) : Le 128 s { s with arbs := x } :=
  ⟨fun p h => by cases p <;> first | exact absurd h (by decide) | simp [Same], id⟩

theorem Le.hostint (s : State) (x) : Le 256 s { s with hostint := x } :=
  ⟨fun p h => by cases p <;> first | exact absurd h (by decide) | simp [Same], id⟩

theorem Le.imsic (s : State) (x) : Le 512 s { s with imsic := x } :=
  ⟨fun p h => by cases p <;> first | exact absurd h (by decide) | simp [Same], id⟩

theorem Le.pairs (s : State) (x) : Le 1024 s { s with pairs := x } :=
  ⟨fun p h => by cases p <;> first | exact absurd h (by decide) | simp [Same], id⟩

theorem Le.truss (s : State) (x) : Le 536870912 s { s with truss := x } :=
  ⟨fun p h => by cases p <;> first | exact absurd h (by decide) | simp [Same], id⟩

theorem Le.degraded (s : State) (x) : Le 2048 s { s with degraded := x } :=
  ⟨fun p h => by cases p <;> first | exact absurd h (by decide) | simp [Same], id⟩

theorem Le.tick (s : State) (x) : Le 8192 s { s with tick := x } :=
  ⟨fun p h => by cases p <;> first | exact absurd h (by decide) | simp [Same], id⟩

theorem Le.job (s : State) (x) : Le 16384 s { s with job := x } :=
  ⟨fun p h => by cases p <;> first | exact absurd h (by decide) | simp [Same], id⟩

theorem Le.belul (s : State) (x) : Le 32768 s { s with belul := x } :=
  ⟨fun p h => by cases p <;> first | exact absurd h (by decide) | simp [Same], id⟩

theorem Le.i3c (s : State) (x) : Le 65536 s { s with i3c := x } :=
  ⟨fun p h => by cases p <;> first | exact absurd h (by decide) | simp [Same], id⟩

theorem Le.power (s : State) (x) : Le 131072 s { s with power := x } :=
  ⟨fun p h => by cases p <;> first | exact absurd h (by decide) | simp [Same], id⟩

theorem Le.ctrs (s : State) (x) : Le 524288 s { s with ctrs := x } :=
  ⟨fun p h => by cases p <;> first | exact absurd h (by decide) | simp [Same], id⟩

theorem Le.talcy (s : State) (x) : Le 1048576 s { s with talcy := x } :=
  ⟨fun p h => by cases p <;> first | exact absurd h (by decide) | simp [Same], id⟩

theorem Le.wear (s : State) (x) : Le 2097152 s { s with wear := x } :=
  ⟨fun p h => by cases p <;> first | exact absurd h (by decide) | simp [Same], id⟩

theorem Le.upper (s : State) (x) : Le 4194304 s { s with upper := x } :=
  ⟨fun p h => by cases p <;> first | exact absurd h (by decide) | simp [Same], id⟩

theorem Le.portCfg (s : State) (x) : Le 8388608 s { s with portCfg := x } :=
  ⟨fun p h => by cases p <;> first | exact absurd h (by decide) | simp [Same], id⟩

theorem Le.rdata (s : State) (x) : Le 33554432 s { s with rdata := x } :=
  ⟨fun p h => by cases p <;> first | exact absurd h (by decide) | simp [Same], id⟩

theorem Le.out (s : State) (x) : Le 67108864 s { s with out := x } :=
  ⟨fun p h => by cases p <;> first | exact absurd h (by decide) | simp [Same], id⟩

theorem Le.free (s : State) (x) : Le 134217728 s { s with free := x } :=
  ⟨fun p h => by cases p <;> first | exact absurd h (by decide) | simp [Same], id⟩

theorem Le.pending (s : State) (x) : Le 268435456 s { s with pending := x } :=
  ⟨fun p h => by cases p <;> first | exact absurd h (by decide) | simp [Same], id⟩

theorem Le.msgs (s : State) (x) : Le 2 s { s with msgs := x } :=
  ⟨fun p h => by cases p <;> first | exact absurd h (by decide) | simp [Same], id⟩

theorem Le.msgs2 (s : State) (x y) : Le 2 s { s with msgs := x, msgId := y } :=
  ⟨fun p h => by cases p <;> first | exact absurd h (by decide) | simp [Same], id⟩

theorem Le.pool (s : State) (x : Pool) (hx : PoolOk s.pool → PoolOk x) : Le 8 s { s with pool := x } :=
  ⟨fun p h => by cases p <;> first | exact absurd h (by decide) | simp [Same], fun hi => ⟨hi.1, hx hi.2.1, hi.2.2⟩⟩

theorem Le.ks (s : State) (x : Keystone) (hx : s.ks.invs.length ≤ 16 → x.invs.length ≤ 16) : Le 4 s { s with ks := x } :=
  ⟨fun p h => by cases p <;> first | exact absurd h (by decide) | simp [Same], fun hi => ⟨hi.1, hi.2.1, hx hi.2.2.1, hi.2.2.2⟩⟩

theorem Le.node (s : State) (x : Node) (hx : 10 ≤ s.node.timeout ∧ s.node.timeout ≤ 65535 → 10 ≤ x.timeout ∧ x.timeout ≤ 65535) : Le 4096 s { s with node := x } :=
  ⟨fun p h => by cases p <;> first | exact absurd h (by decide) | simp [Same], fun hi => ⟨hi.1, hi.2.1, hi.2.2.1, (hx ⟨hi.2.2.2.1, hi.2.2.2.2.1⟩).1, (hx ⟨hi.2.2.2.1, hi.2.2.2.2.1⟩).2, hi.2.2.2.2.2⟩⟩

theorem Le.boot (s : State) (x : Boot) (hx : BootOk s.boot → BootOk x) : Le 262144 s { s with boot := x } :=
  ⟨fun p h => by cases p <;> first | exact absurd h (by decide) | simp [Same], fun hi => ⟨hi.1, hi.2.1, hi.2.2.1, hi.2.2.2.1, hi.2.2.2.2.1, hx hi.2.2.2.2.2⟩⟩

theorem Le.events (s : State) (x : List Event) (n : Nat) (hx : LogOk s.events s.nextEvent → LogOk x n) :
    Le 16777216 s { s with events := x, nextEvent := n } :=
  ⟨fun p h => by cases p <;> first | exact absurd h (by decide) | simp [Same], fun hi => ⟨hx hi.1, hi.2⟩⟩

/-! ### What the operations keep of the invariant, and the shapes of their bodies -/

/-- An event appended keeps the log. -/
theorem LogOk.append {l : List Event} {n : Nat} (h : LogOk l n) (e : Event) (he : e.index = n) :
    LogOk ((l ++ [e]).drop (l.length + 1 - 4096)) (n + 1) := by
  obtain ⟨h1, h2, h3⟩ := h
  have hr : ∀ (k a : Nat), rangeFrom a (k + 1) = rangeFrom a k ++ [a + k] := by
    intro k; induction k with
    | zero => intro a; simp [rangeFrom]
    | succ k ih => intro a; rw [rangeFrom, ih (a + 1)]; simp [rangeFrom]; omega
  have hd : ∀ (k j a : Nat), (rangeFrom a k).drop j = rangeFrom (a + j) (k - j) := by
    intro k; induction k with
    | zero => intro j a; simp [rangeFrom]
    | succ k ih => intro j a; cases j with
      | zero => simp
      | succ j => simp only [rangeFrom, List.drop_succ_cons, ih]; congr 1 <;> omega
  refine ⟨by simp; omega, by simp; omega, ?_⟩
  rw [List.map_drop, List.map_append, h3]
  have : rangeFrom (n - l.length) l.length ++ List.map Event.index [e] = rangeFrom (n - l.length) (l.length + 1) := by
    rw [hr]; simp [he]; omega
  rw [this, hd]
  simp only [List.length_drop, List.length_append, List.length_singleton]
  have e : n - l.length + (l.length + 1 - 4096) = n + 1 - (l.length + 1 - (l.length + 1 - 4096)) := by omega
  rw [e]

theorem PoolOk.put {p : Pool} (h : PoolOk p) (cw : Nat) (d : BitVec 512) (b : Bool) : PoolOk (p.put cw d b) := by
  obtain ⟨h1, h2, h3⟩ := h
  simp only [PoolOk, Pool.put]
  exact ⟨Memory.wf_putLe _ _ _ _ h1, Tab.wf_set _ _ _ _ h2, h3⟩


theorem Le.fst1 {m : Nat} {α β : Type} {s : State} {w : State × α} {z : β} {x : (State × α) × β} (e : x = (w, z)) (h : Le m s x.1.1) : Le m s w.1 := by
  subst e; exact h
theorem Le.fstW {m : Nat} {β : Type} {s : State} {w : Work} {z : β} {x : Work × β} (e : x = (w, z)) (h : Le m s x.1.s) : Le m s w.s := by
  subst e; exact h

/-- A pool that keeps its memories and its scrub period. -/
theorem PoolOk.of {p x : Pool} (h : PoolOk p) (h1 : x.bytes = p.bytes) (h2 : x.poison = p.poison) (h3 : x.scrubHours = p.scrubHours) : PoolOk x := by
  unfold PoolOk at *; rw [h1, h2, h3]; exact h

/-- A boot state that keeps FAILSTREAK and the version fuses. -/
theorem BootOk.of {b x : Boot} (h : BootOk b) (h1 : x.failStreak = b.failStreak) (h2 : x.svnFuse = b.svnFuse) : BootOk x := by
  unfold BootOk at *; rw [h1, h2]; exact h

theorem Le.foldlP {m : Nat} {α β : Type} {s0 : State} {p : β} {f : β → α → β} {l : List α} (g : β → State) (h : Le m s0 (g p))
    (hf : ∀ u x, Le m s0 (g u) → Le m s0 (g (f u x))) : Le m s0 (g (l.foldl f p)) := by
  induction l generalizing p with
  | nil => exact h
  | cons x r ih => exact ih (hf _ _ h)

theorem Le.tiles_msgs (s : State) (x) (y) : Le 3 s { s with tiles := x, msgs := y } :=
  Le.next (Le.msgs { s with tiles := x } y) (by decide) (Le.next (Le.tiles s x) (by decide) (Le.refl _ _))

theorem Le.power_boot (s : State) (x : Power) (y : Boot) (hy : BootOk s.boot → BootOk y) : Le 393216 s { s with power := x, boot := y } :=
  (Le.next (Le.boot { s with power := x } y hy) (by decide) (Le.next (Le.power s x) (by decide) (Le.refl _ _)))

theorem Le.chans_piers (s : State) (x) (y) : Le 48 s { s with chans := x, piers := y } :=
  Le.next (Le.piers { s with chans := x } y) (by decide) (Le.next (Le.chans s x) (by decide) (Le.refl _ _))

theorem Le.imsic_upper (s : State) (x) (y) : Le 4194816 s { s with imsic := x, upper := y } :=
  Le.next (Le.upper { s with imsic := x } y) (by decide) (Le.next (Le.imsic s x) (by decide) (Le.refl _ _))

theorem Le.belul_i3c (s : State) (x) (y) : Le 98304 s { s with belul := x, i3c := y } :=
  Le.next (Le.i3c { s with belul := x } y) (by decide) (Le.next (Le.belul s x) (by decide) (Le.refl _ _))

theorem Le.belul_i3c_power_boot (s : State) (a : Belul) (b : I3c) (x : Power) (y : Boot) (hy : BootOk s.boot → BootOk y) :
    Le 491520 s { s with belul := a, i3c := b, power := x, boot := y } :=
  Le.next (Le.power_boot { s with belul := a, i3c := b } x y hy) (by decide) (Le.next (Le.belul_i3c s a b) (by decide) (Le.refl _ _))


theorem BootOk.setDierst {b : Boot} (h : BootOk b) (x : BitVec 16) : BootOk { b with dierst := x } := h

theorem orElse_le {m : Nat} {s : State} {x : Option State} {y : Unit → Option State} (hx : ∀ t, x = some t → Le m s t)
    (hy : ∀ t, y () = some t → Le m s t) : ∀ t, x.orElse y = some t → Le m s t := by
  cases x with
  | none => exact hy
  | some u => exact hx

theorem map_le {m : Nat} {s : State} {α : Type} {o : Option α} {f : α → State} (h : ∀ a, Le m s (f a)) : ∀ t, o.map f = some t → Le m s t := by
  intro t ht
  obtain ⟨a, _, rfl⟩ := Option.map_eq_some_iff.mp ht
  exact h a

theorem NodeOk.setRems {n : Node} (h : 10 ≤ n.timeout ∧ n.timeout ≤ 65535) (x : List Rem) :
    10 ≤ ({ n with rems := x } : Node).timeout ∧ ({ n with rems := x } : Node).timeout ≤ 65535 := h

theorem Le.iteP {m : Nat} {β : Type} {s : State} {a b : β} {c : Prop} [Decidable c] (g : β → State) (ha : c → Le m s (g a)) (hb : ¬ c → Le m s (g b)) :
    Le m s (g (if c then a else b)) := by
  split
  · exact ha ‹_›
  · exact hb ‹_›

theorem Le.optW {m : Nat} {α : Type} {s : State} {o : Option α} {a : Work} {f : α → Work} (ha : Le m s a.s) (hf : ∀ x, Le m s (f x).s) :
    Le m s (match o with | none => a | some x => f x : Work).s := by
  cases o
  · exact ha
  · exact hf _

theorem firstBad_append (a b : List (Bool × Nat)) : firstBad (a ++ b) = match firstBad a with | some x => some x | none => firstBad b := by
  induction a with
  | nil => rfl
  | cons x xs ih => obtain ⟨c, d⟩ := x; cases c <;> simp [firstBad, ih]

/-- No check fails exactly where every one of them is false. -/
theorem firstBad_none {l : List (Bool × Nat)} : firstBad l = none ↔ ∀ x ∈ l, x.1 = false := by
  induction l with
  | nil => simp [firstBad]
  | cons x r ih => obtain ⟨c, d⟩ := x; cases c <;> simp [firstBad, ih]

/-- The checks of a command in the order in which they are made fail nowhere: then its own checks fail nowhere. -/
theorem firstBad_own {a b : List (Bool × Nat)} {l : List (Bool × Nat)} {p : Bool × Nat → Bool}
    (h : firstBad (a ++ l.filter p ++ b ++ l.filter fun x => !p x) = none) : firstBad l = none := by
  rw [firstBad_none] at h ⊢
  intro x hx
  refine h x ?_
  cases hp : p x <;> simp [hx, hp]

end Sys2Proof.Machine
end

