-- ==== Sys2Proof/Laws/State.lean ====
section
/-!
SUPPORT. Reads of a state after a named update: one lemma for each field and update, and the units read back.
-/

namespace Sys2Proof.Machine
open Sys2Proof

/-! ### setTile -/

@[simp] theorem State.setTile_tiles (s : State) (t : Nat) (v : Tile) : (s.setTile t v).tiles = Tab.set {} s.tiles t v := rfl
@[simp] theorem State.setTile_msgs (s : State) (t : Nat) (v : Tile) : (s.setTile t v).msgs = s.msgs := rfl
@[simp] theorem State.setTile_msgId (s : State) (t : Nat) (v : Tile) : (s.setTile t v).msgId = s.msgId := rfl
@[simp] theorem State.setTile_ks (s : State) (t : Nat) (v : Tile) : (s.setTile t v).ks = s.ks := rfl
@[simp] theorem State.setTile_pool (s : State) (t : Nat) (v : Tile) : (s.setTile t v).pool = s.pool := rfl
@[simp] theorem State.setTile_chans (s : State) (t : Nat) (v : Tile) : (s.setTile t v).chans = s.chans := rfl
@[simp] theorem State.setTile_piers (s : State) (t : Nat) (v : Tile) : (s.setTile t v).piers = s.piers := rfl
@[simp] theorem State.setTile_clusters (s : State) (t : Nat) (v : Tile) : (s.setTile t v).clusters = s.clusters := rfl
@[simp] theorem State.setTile_arbs (s : State) (t : Nat) (v : Tile) : (s.setTile t v).arbs = s.arbs := rfl
@[simp] theorem State.setTile_hostint (s : State) (t : Nat) (v : Tile) : (s.setTile t v).hostint = s.hostint := rfl
@[simp] theorem State.setTile_imsic (s : State) (t : Nat) (v : Tile) : (s.setTile t v).imsic = s.imsic := rfl
@[simp] theorem State.setTile_pairs (s : State) (t : Nat) (v : Tile) : (s.setTile t v).pairs = s.pairs := rfl
@[simp] theorem State.setTile_truss (s : State) (t : Nat) (v : Tile) : (s.setTile t v).truss = s.truss := rfl
@[simp] theorem State.setTile_degraded (s : State) (t : Nat) (v : Tile) : (s.setTile t v).degraded = s.degraded := rfl
@[simp] theorem State.setTile_node (s : State) (t : Nat) (v : Tile) : (s.setTile t v).node = s.node := rfl
@[simp] theorem State.setTile_tick (s : State) (t : Nat) (v : Tile) : (s.setTile t v).tick = s.tick := rfl
@[simp] theorem State.setTile_job (s : State) (t : Nat) (v : Tile) : (s.setTile t v).job = s.job := rfl
@[simp] theorem State.setTile_belul (s : State) (t : Nat) (v : Tile) : (s.setTile t v).belul = s.belul := rfl
@[simp] theorem State.setTile_i3c (s : State) (t : Nat) (v : Tile) : (s.setTile t v).i3c = s.i3c := rfl
@[simp] theorem State.setTile_power (s : State) (t : Nat) (v : Tile) : (s.setTile t v).power = s.power := rfl
@[simp] theorem State.setTile_boot (s : State) (t : Nat) (v : Tile) : (s.setTile t v).boot = s.boot := rfl
@[simp] theorem State.setTile_ctrs (s : State) (t : Nat) (v : Tile) : (s.setTile t v).ctrs = s.ctrs := rfl
@[simp] theorem State.setTile_talcy (s : State) (t : Nat) (v : Tile) : (s.setTile t v).talcy = s.talcy := rfl
@[simp] theorem State.setTile_wear (s : State) (t : Nat) (v : Tile) : (s.setTile t v).wear = s.wear := rfl
@[simp] theorem State.setTile_upper (s : State) (t : Nat) (v : Tile) : (s.setTile t v).upper = s.upper := rfl
@[simp] theorem State.setTile_portCfg (s : State) (t : Nat) (v : Tile) : (s.setTile t v).portCfg = s.portCfg := rfl
@[simp] theorem State.setTile_events (s : State) (t : Nat) (v : Tile) : (s.setTile t v).events = s.events := rfl
@[simp] theorem State.setTile_nextEvent (s : State) (t : Nat) (v : Tile) : (s.setTile t v).nextEvent = s.nextEvent := rfl
@[simp] theorem State.setTile_rdata (s : State) (t : Nat) (v : Tile) : (s.setTile t v).rdata = s.rdata := rfl
@[simp] theorem State.setTile_out (s : State) (t : Nat) (v : Tile) : (s.setTile t v).out = s.out := rfl
@[simp] theorem State.setTile_free (s : State) (t : Nat) (v : Tile) : (s.setTile t v).free = s.free := rfl
@[simp] theorem State.setTile_pending (s : State) (t : Nat) (v : Tile) : (s.setTile t v).pending = s.pending := rfl

/-! ### modTile -/

@[simp] theorem State.modTile_tiles (s : State) (t : Nat) (f : Tile → Tile) : (s.modTile t f).tiles = Tab.set {} s.tiles t (f (s.tile t)) := rfl
@[simp] theorem State.modTile_msgs (s : State) (t : Nat) (f : Tile → Tile) : (s.modTile t f).msgs = s.msgs := rfl
@[simp] theorem State.modTile_msgId (s : State) (t : Nat) (f : Tile → Tile) : (s.modTile t f).msgId = s.msgId := rfl
@[simp] theorem State.modTile_ks (s : State) (t : Nat) (f : Tile → Tile) : (s.modTile t f).ks = s.ks := rfl
@[simp] theorem State.modTile_pool (s : State) (t : Nat) (f : Tile → Tile) : (s.modTile t f).pool = s.pool := rfl
@[simp] theorem State.modTile_chans (s : State) (t : Nat) (f : Tile → Tile) : (s.modTile t f).chans = s.chans := rfl
@[simp] theorem State.modTile_piers (s : State) (t : Nat) (f : Tile → Tile) : (s.modTile t f).piers = s.piers := rfl
@[simp] theorem State.modTile_clusters (s : State) (t : Nat) (f : Tile → Tile) : (s.modTile t f).clusters = s.clusters := rfl
@[simp] theorem State.modTile_arbs (s : State) (t : Nat) (f : Tile → Tile) : (s.modTile t f).arbs = s.arbs := rfl
@[simp] theorem State.modTile_hostint (s : State) (t : Nat) (f : Tile → Tile) : (s.modTile t f).hostint = s.hostint := rfl
@[simp] theorem State.modTile_imsic (s : State) (t : Nat) (f : Tile → Tile) : (s.modTile t f).imsic = s.imsic := rfl
@[simp] theorem State.modTile_pairs (s : State) (t : Nat) (f : Tile → Tile) : (s.modTile t f).pairs = s.pairs := rfl
@[simp] theorem State.modTile_truss (s : State) (t : Nat) (f : Tile → Tile) : (s.modTile t f).truss = s.truss := rfl
@[simp] theorem State.modTile_degraded (s : State) (t : Nat) (f : Tile → Tile) : (s.modTile t f).degraded = s.degraded := rfl
@[simp] theorem State.modTile_node (s : State) (t : Nat) (f : Tile → Tile) : (s.modTile t f).node = s.node := rfl
@[simp] theorem State.modTile_tick (s : State) (t : Nat) (f : Tile → Tile) : (s.modTile t f).tick = s.tick := rfl
@[simp] theorem State.modTile_job (s : State) (t : Nat) (f : Tile → Tile) : (s.modTile t f).job = s.job := rfl
@[simp] theorem State.modTile_belul (s : State) (t : Nat) (f : Tile → Tile) : (s.modTile t f).belul = s.belul := rfl
@[simp] theorem State.modTile_i3c (s : State) (t : Nat) (f : Tile → Tile) : (s.modTile t f).i3c = s.i3c := rfl
@[simp] theorem State.modTile_power (s : State) (t : Nat) (f : Tile → Tile) : (s.modTile t f).power = s.power := rfl
@[simp] theorem State.modTile_boot (s : State) (t : Nat) (f : Tile → Tile) : (s.modTile t f).boot = s.boot := rfl
@[simp] theorem State.modTile_ctrs (s : State) (t : Nat) (f : Tile → Tile) : (s.modTile t f).ctrs = s.ctrs := rfl
@[simp] theorem State.modTile_talcy (s : State) (t : Nat) (f : Tile → Tile) : (s.modTile t f).talcy = s.talcy := rfl
@[simp] theorem State.modTile_wear (s : State) (t : Nat) (f : Tile → Tile) : (s.modTile t f).wear = s.wear := rfl
@[simp] theorem State.modTile_upper (s : State) (t : Nat) (f : Tile → Tile) : (s.modTile t f).upper = s.upper := rfl
@[simp] theorem State.modTile_portCfg (s : State) (t : Nat) (f : Tile → Tile) : (s.modTile t f).portCfg = s.portCfg := rfl
@[simp] theorem State.modTile_events (s : State) (t : Nat) (f : Tile → Tile) : (s.modTile t f).events = s.events := rfl
@[simp] theorem State.modTile_nextEvent (s : State) (t : Nat) (f : Tile → Tile) : (s.modTile t f).nextEvent = s.nextEvent := rfl
@[simp] theorem State.modTile_rdata (s : State) (t : Nat) (f : Tile → Tile) : (s.modTile t f).rdata = s.rdata := rfl
@[simp] theorem State.modTile_out (s : State) (t : Nat) (f : Tile → Tile) : (s.modTile t f).out = s.out := rfl
@[simp] theorem State.modTile_free (s : State) (t : Nat) (f : Tile → Tile) : (s.modTile t f).free = s.free := rfl
@[simp] theorem State.modTile_pending (s : State) (t : Nat) (f : Tile → Tile) : (s.modTile t f).pending = s.pending := rfl

/-! ### setQueue -/

@[simp] theorem State.setQueue_msgs (s : State) (t q : Nat) (v : Queue) : (s.setQueue t q v).msgs = s.msgs := rfl
@[simp] theorem State.setQueue_msgId (s : State) (t q : Nat) (v : Queue) : (s.setQueue t q v).msgId = s.msgId := rfl
@[simp] theorem State.setQueue_ks (s : State) (t q : Nat) (v : Queue) : (s.setQueue t q v).ks = s.ks := rfl
@[simp] theorem State.setQueue_pool (s : State) (t q : Nat) (v : Queue) : (s.setQueue t q v).pool = s.pool := rfl
@[simp] theorem State.setQueue_chans (s : State) (t q : Nat) (v : Queue) : (s.setQueue t q v).chans = s.chans := rfl
@[simp] theorem State.setQueue_piers (s : State) (t q : Nat) (v : Queue) : (s.setQueue t q v).piers = s.piers := rfl
@[simp] theorem State.setQueue_clusters (s : State) (t q : Nat) (v : Queue) : (s.setQueue t q v).clusters = s.clusters := rfl
@[simp] theorem State.setQueue_arbs (s : State) (t q : Nat) (v : Queue) : (s.setQueue t q v).arbs = s.arbs := rfl
@[simp] theorem State.setQueue_hostint (s : State) (t q : Nat) (v : Queue) : (s.setQueue t q v).hostint = s.hostint := rfl
@[simp] theorem State.setQueue_imsic (s : State) (t q : Nat) (v : Queue) : (s.setQueue t q v).imsic = s.imsic := rfl
@[simp] theorem State.setQueue_pairs (s : State) (t q : Nat) (v : Queue) : (s.setQueue t q v).pairs = s.pairs := rfl
@[simp] theorem State.setQueue_truss (s : State) (t q : Nat) (v : Queue) : (s.setQueue t q v).truss = s.truss := rfl
@[simp] theorem State.setQueue_degraded (s : State) (t q : Nat) (v : Queue) : (s.setQueue t q v).degraded = s.degraded := rfl
@[simp] theorem State.setQueue_node (s : State) (t q : Nat) (v : Queue) : (s.setQueue t q v).node = s.node := rfl
@[simp] theorem State.setQueue_tick (s : State) (t q : Nat) (v : Queue) : (s.setQueue t q v).tick = s.tick := rfl
@[simp] theorem State.setQueue_job (s : State) (t q : Nat) (v : Queue) : (s.setQueue t q v).job = s.job := rfl
@[simp] theorem State.setQueue_belul (s : State) (t q : Nat) (v : Queue) : (s.setQueue t q v).belul = s.belul := rfl
@[simp] theorem State.setQueue_i3c (s : State) (t q : Nat) (v : Queue) : (s.setQueue t q v).i3c = s.i3c := rfl
@[simp] theorem State.setQueue_power (s : State) (t q : Nat) (v : Queue) : (s.setQueue t q v).power = s.power := rfl
@[simp] theorem State.setQueue_boot (s : State) (t q : Nat) (v : Queue) : (s.setQueue t q v).boot = s.boot := rfl
@[simp] theorem State.setQueue_ctrs (s : State) (t q : Nat) (v : Queue) : (s.setQueue t q v).ctrs = s.ctrs := rfl
@[simp] theorem State.setQueue_talcy (s : State) (t q : Nat) (v : Queue) : (s.setQueue t q v).talcy = s.talcy := rfl
@[simp] theorem State.setQueue_wear (s : State) (t q : Nat) (v : Queue) : (s.setQueue t q v).wear = s.wear := rfl
@[simp] theorem State.setQueue_upper (s : State) (t q : Nat) (v : Queue) : (s.setQueue t q v).upper = s.upper := rfl
@[simp] theorem State.setQueue_portCfg (s : State) (t q : Nat) (v : Queue) : (s.setQueue t q v).portCfg = s.portCfg := rfl
@[simp] theorem State.setQueue_events (s : State) (t q : Nat) (v : Queue) : (s.setQueue t q v).events = s.events := rfl
@[simp] theorem State.setQueue_nextEvent (s : State) (t q : Nat) (v : Queue) : (s.setQueue t q v).nextEvent = s.nextEvent := rfl
@[simp] theorem State.setQueue_rdata (s : State) (t q : Nat) (v : Queue) : (s.setQueue t q v).rdata = s.rdata := rfl
@[simp] theorem State.setQueue_out (s : State) (t q : Nat) (v : Queue) : (s.setQueue t q v).out = s.out := rfl
@[simp] theorem State.setQueue_free (s : State) (t q : Nat) (v : Queue) : (s.setQueue t q v).free = s.free := rfl
@[simp] theorem State.setQueue_pending (s : State) (t q : Nat) (v : Queue) : (s.setQueue t q v).pending = s.pending := rfl

/-! ### modQueue -/

@[simp] theorem State.modQueue_msgs (s : State) (t q : Nat) (f : Queue → Queue) : (s.modQueue t q f).msgs = s.msgs := rfl
@[simp] theorem State.modQueue_msgId (s : State) (t q : Nat) (f : Queue → Queue) : (s.modQueue t q f).msgId = s.msgId := rfl
@[simp] theorem State.modQueue_ks (s : State) (t q : Nat) (f : Queue → Queue) : (s.modQueue t q f).ks = s.ks := rfl
@[simp] theorem State.modQueue_pool (s : State) (t q : Nat) (f : Queue → Queue) : (s.modQueue t q f).pool = s.pool := rfl
@[simp] theorem State.modQueue_chans (s : State) (t q : Nat) (f : Queue → Queue) : (s.modQueue t q f).chans = s.chans := rfl
@[simp] theorem State.modQueue_piers (s : State) (t q : Nat) (f : Queue → Queue) : (s.modQueue t q f).piers = s.piers := rfl
@[simp] theorem State.modQueue_clusters (s : State) (t q : Nat) (f : Queue → Queue) : (s.modQueue t q f).clusters = s.clusters := rfl
@[simp] theorem State.modQueue_arbs (s : State) (t q : Nat) (f : Queue → Queue) : (s.modQueue t q f).arbs = s.arbs := rfl
@[simp] theorem State.modQueue_hostint (s : State) (t q : Nat) (f : Queue → Queue) : (s.modQueue t q f).hostint = s.hostint := rfl
@[simp] theorem State.modQueue_imsic (s : State) (t q : Nat) (f : Queue → Queue) : (s.modQueue t q f).imsic = s.imsic := rfl
@[simp] theorem State.modQueue_pairs (s : State) (t q : Nat) (f : Queue → Queue) : (s.modQueue t q f).pairs = s.pairs := rfl
@[simp] theorem State.modQueue_truss (s : State) (t q : Nat) (f : Queue → Queue) : (s.modQueue t q f).truss = s.truss := rfl
@[simp] theorem State.modQueue_degraded (s : State) (t q : Nat) (f : Queue → Queue) : (s.modQueue t q f).degraded = s.degraded := rfl
@[simp] theorem State.modQueue_node (s : State) (t q : Nat) (f : Queue → Queue) : (s.modQueue t q f).node = s.node := rfl
@[simp] theorem State.modQueue_tick (s : State) (t q : Nat) (f : Queue → Queue) : (s.modQueue t q f).tick = s.tick := rfl
@[simp] theorem State.modQueue_job (s : State) (t q : Nat) (f : Queue → Queue) : (s.modQueue t q f).job = s.job := rfl
@[simp] theorem State.modQueue_belul (s : State) (t q : Nat) (f : Queue → Queue) : (s.modQueue t q f).belul = s.belul := rfl
@[simp] theorem State.modQueue_i3c (s : State) (t q : Nat) (f : Queue → Queue) : (s.modQueue t q f).i3c = s.i3c := rfl
@[simp] theorem State.modQueue_power (s : State) (t q : Nat) (f : Queue → Queue) : (s.modQueue t q f).power = s.power := rfl
@[simp] theorem State.modQueue_boot (s : State) (t q : Nat) (f : Queue → Queue) : (s.modQueue t q f).boot = s.boot := rfl
@[simp] theorem State.modQueue_ctrs (s : State) (t q : Nat) (f : Queue → Queue) : (s.modQueue t q f).ctrs = s.ctrs := rfl
@[simp] theorem State.modQueue_talcy (s : State) (t q : Nat) (f : Queue → Queue) : (s.modQueue t q f).talcy = s.talcy := rfl
@[simp] theorem State.modQueue_wear (s : State) (t q : Nat) (f : Queue → Queue) : (s.modQueue t q f).wear = s.wear := rfl
@[simp] theorem State.modQueue_upper (s : State) (t q : Nat) (f : Queue → Queue) : (s.modQueue t q f).upper = s.upper := rfl
@[simp] theorem State.modQueue_portCfg (s : State) (t q : Nat) (f : Queue → Queue) : (s.modQueue t q f).portCfg = s.portCfg := rfl
@[simp] theorem State.modQueue_events (s : State) (t q : Nat) (f : Queue → Queue) : (s.modQueue t q f).events = s.events := rfl
@[simp] theorem State.modQueue_nextEvent (s : State) (t q : Nat) (f : Queue → Queue) : (s.modQueue t q f).nextEvent = s.nextEvent := rfl
@[simp] theorem State.modQueue_rdata (s : State) (t q : Nat) (f : Queue → Queue) : (s.modQueue t q f).rdata = s.rdata := rfl
@[simp] theorem State.modQueue_out (s : State) (t q : Nat) (f : Queue → Queue) : (s.modQueue t q f).out = s.out := rfl
@[simp] theorem State.modQueue_free (s : State) (t q : Nat) (f : Queue → Queue) : (s.modQueue t q f).free = s.free := rfl
@[simp] theorem State.modQueue_pending (s : State) (t q : Nat) (f : Queue → Queue) : (s.modQueue t q f).pending = s.pending := rfl

/-! ### modChan -/

@[simp] theorem State.modChan_tiles (s : State) (c : Nat) (f : Chan → Chan) : (s.modChan c f).tiles = s.tiles := rfl
@[simp] theorem State.modChan_msgs (s : State) (c : Nat) (f : Chan → Chan) : (s.modChan c f).msgs = s.msgs := rfl
@[simp] theorem State.modChan_msgId (s : State) (c : Nat) (f : Chan → Chan) : (s.modChan c f).msgId = s.msgId := rfl
@[simp] theorem State.modChan_ks (s : State) (c : Nat) (f : Chan → Chan) : (s.modChan c f).ks = s.ks := rfl
@[simp] theorem State.modChan_pool (s : State) (c : Nat) (f : Chan → Chan) : (s.modChan c f).pool = s.pool := rfl
@[simp] theorem State.modChan_chans (s : State) (c : Nat) (f : Chan → Chan) : (s.modChan c f).chans = Tab.set {} s.chans c (f (s.chan c)) := rfl
@[simp] theorem State.modChan_piers (s : State) (c : Nat) (f : Chan → Chan) : (s.modChan c f).piers = s.piers := rfl
@[simp] theorem State.modChan_clusters (s : State) (c : Nat) (f : Chan → Chan) : (s.modChan c f).clusters = s.clusters := rfl
@[simp] theorem State.modChan_arbs (s : State) (c : Nat) (f : Chan → Chan) : (s.modChan c f).arbs = s.arbs := rfl
@[simp] theorem State.modChan_hostint (s : State) (c : Nat) (f : Chan → Chan) : (s.modChan c f).hostint = s.hostint := rfl
@[simp] theorem State.modChan_imsic (s : State) (c : Nat) (f : Chan → Chan) : (s.modChan c f).imsic = s.imsic := rfl
@[simp] theorem State.modChan_pairs (s : State) (c : Nat) (f : Chan → Chan) : (s.modChan c f).pairs = s.pairs := rfl
@[simp] theorem State.modChan_truss (s : State) (c : Nat) (f : Chan → Chan) : (s.modChan c f).truss = s.truss := rfl
@[simp] theorem State.modChan_degraded (s : State) (c : Nat) (f : Chan → Chan) : (s.modChan c f).degraded = s.degraded := rfl
@[simp] theorem State.modChan_node (s : State) (c : Nat) (f : Chan → Chan) : (s.modChan c f).node = s.node := rfl
@[simp] theorem State.modChan_tick (s : State) (c : Nat) (f : Chan → Chan) : (s.modChan c f).tick = s.tick := rfl
@[simp] theorem State.modChan_job (s : State) (c : Nat) (f : Chan → Chan) : (s.modChan c f).job = s.job := rfl
@[simp] theorem State.modChan_belul (s : State) (c : Nat) (f : Chan → Chan) : (s.modChan c f).belul = s.belul := rfl
@[simp] theorem State.modChan_i3c (s : State) (c : Nat) (f : Chan → Chan) : (s.modChan c f).i3c = s.i3c := rfl
@[simp] theorem State.modChan_power (s : State) (c : Nat) (f : Chan → Chan) : (s.modChan c f).power = s.power := rfl
@[simp] theorem State.modChan_boot (s : State) (c : Nat) (f : Chan → Chan) : (s.modChan c f).boot = s.boot := rfl
@[simp] theorem State.modChan_ctrs (s : State) (c : Nat) (f : Chan → Chan) : (s.modChan c f).ctrs = s.ctrs := rfl
@[simp] theorem State.modChan_talcy (s : State) (c : Nat) (f : Chan → Chan) : (s.modChan c f).talcy = s.talcy := rfl
@[simp] theorem State.modChan_wear (s : State) (c : Nat) (f : Chan → Chan) : (s.modChan c f).wear = s.wear := rfl
@[simp] theorem State.modChan_upper (s : State) (c : Nat) (f : Chan → Chan) : (s.modChan c f).upper = s.upper := rfl
@[simp] theorem State.modChan_portCfg (s : State) (c : Nat) (f : Chan → Chan) : (s.modChan c f).portCfg = s.portCfg := rfl
@[simp] theorem State.modChan_events (s : State) (c : Nat) (f : Chan → Chan) : (s.modChan c f).events = s.events := rfl
@[simp] theorem State.modChan_nextEvent (s : State) (c : Nat) (f : Chan → Chan) : (s.modChan c f).nextEvent = s.nextEvent := rfl
@[simp] theorem State.modChan_rdata (s : State) (c : Nat) (f : Chan → Chan) : (s.modChan c f).rdata = s.rdata := rfl
@[simp] theorem State.modChan_out (s : State) (c : Nat) (f : Chan → Chan) : (s.modChan c f).out = s.out := rfl
@[simp] theorem State.modChan_free (s : State) (c : Nat) (f : Chan → Chan) : (s.modChan c f).free = s.free := rfl
@[simp] theorem State.modChan_pending (s : State) (c : Nat) (f : Chan → Chan) : (s.modChan c f).pending = s.pending := rfl

/-! ### setPier -/

@[simp] theorem State.setPier_tiles (s : State) (p : Nat) (v : Pier) : (s.setPier p v).tiles = s.tiles := rfl
@[simp] theorem State.setPier_msgs (s : State) (p : Nat) (v : Pier) : (s.setPier p v).msgs = s.msgs := rfl
@[simp] theorem State.setPier_msgId (s : State) (p : Nat) (v : Pier) : (s.setPier p v).msgId = s.msgId := rfl
@[simp] theorem State.setPier_ks (s : State) (p : Nat) (v : Pier) : (s.setPier p v).ks = s.ks := rfl
@[simp] theorem State.setPier_pool (s : State) (p : Nat) (v : Pier) : (s.setPier p v).pool = s.pool := rfl
@[simp] theorem State.setPier_chans (s : State) (p : Nat) (v : Pier) : (s.setPier p v).chans = s.chans := rfl
@[simp] theorem State.setPier_piers (s : State) (p : Nat) (v : Pier) : (s.setPier p v).piers = Tab.set {} s.piers p v := rfl
@[simp] theorem State.setPier_clusters (s : State) (p : Nat) (v : Pier) : (s.setPier p v).clusters = s.clusters := rfl
@[simp] theorem State.setPier_arbs (s : State) (p : Nat) (v : Pier) : (s.setPier p v).arbs = s.arbs := rfl
@[simp] theorem State.setPier_hostint (s : State) (p : Nat) (v : Pier) : (s.setPier p v).hostint = s.hostint := rfl
@[simp] theorem State.setPier_imsic (s : State) (p : Nat) (v : Pier) : (s.setPier p v).imsic = s.imsic := rfl
@[simp] theorem State.setPier_pairs (s : State) (p : Nat) (v : Pier) : (s.setPier p v).pairs = s.pairs := rfl
@[simp] theorem State.setPier_truss (s : State) (p : Nat) (v : Pier) : (s.setPier p v).truss = s.truss := rfl
@[simp] theorem State.setPier_degraded (s : State) (p : Nat) (v : Pier) : (s.setPier p v).degraded = s.degraded := rfl
@[simp] theorem State.setPier_node (s : State) (p : Nat) (v : Pier) : (s.setPier p v).node = s.node := rfl
@[simp] theorem State.setPier_tick (s : State) (p : Nat) (v : Pier) : (s.setPier p v).tick = s.tick := rfl
@[simp] theorem State.setPier_job (s : State) (p : Nat) (v : Pier) : (s.setPier p v).job = s.job := rfl
@[simp] theorem State.setPier_belul (s : State) (p : Nat) (v : Pier) : (s.setPier p v).belul = s.belul := rfl
@[simp] theorem State.setPier_i3c (s : State) (p : Nat) (v : Pier) : (s.setPier p v).i3c = s.i3c := rfl
@[simp] theorem State.setPier_power (s : State) (p : Nat) (v : Pier) : (s.setPier p v).power = s.power := rfl
@[simp] theorem State.setPier_boot (s : State) (p : Nat) (v : Pier) : (s.setPier p v).boot = s.boot := rfl
@[simp] theorem State.setPier_ctrs (s : State) (p : Nat) (v : Pier) : (s.setPier p v).ctrs = s.ctrs := rfl
@[simp] theorem State.setPier_talcy (s : State) (p : Nat) (v : Pier) : (s.setPier p v).talcy = s.talcy := rfl
@[simp] theorem State.setPier_wear (s : State) (p : Nat) (v : Pier) : (s.setPier p v).wear = s.wear := rfl
@[simp] theorem State.setPier_upper (s : State) (p : Nat) (v : Pier) : (s.setPier p v).upper = s.upper := rfl
@[simp] theorem State.setPier_portCfg (s : State) (p : Nat) (v : Pier) : (s.setPier p v).portCfg = s.portCfg := rfl
@[simp] theorem State.setPier_events (s : State) (p : Nat) (v : Pier) : (s.setPier p v).events = s.events := rfl
@[simp] theorem State.setPier_nextEvent (s : State) (p : Nat) (v : Pier) : (s.setPier p v).nextEvent = s.nextEvent := rfl
@[simp] theorem State.setPier_rdata (s : State) (p : Nat) (v : Pier) : (s.setPier p v).rdata = s.rdata := rfl
@[simp] theorem State.setPier_out (s : State) (p : Nat) (v : Pier) : (s.setPier p v).out = s.out := rfl
@[simp] theorem State.setPier_free (s : State) (p : Nat) (v : Pier) : (s.setPier p v).free = s.free := rfl
@[simp] theorem State.setPier_pending (s : State) (p : Nat) (v : Pier) : (s.setPier p v).pending = s.pending := rfl

/-! ### modPier -/

@[simp] theorem State.modPier_tiles (s : State) (p : Nat) (f : Pier → Pier) : (s.modPier p f).tiles = s.tiles := rfl
@[simp] theorem State.modPier_msgs (s : State) (p : Nat) (f : Pier → Pier) : (s.modPier p f).msgs = s.msgs := rfl
@[simp] theorem State.modPier_msgId (s : State) (p : Nat) (f : Pier → Pier) : (s.modPier p f).msgId = s.msgId := rfl
@[simp] theorem State.modPier_ks (s : State) (p : Nat) (f : Pier → Pier) : (s.modPier p f).ks = s.ks := rfl
@[simp] theorem State.modPier_pool (s : State) (p : Nat) (f : Pier → Pier) : (s.modPier p f).pool = s.pool := rfl
@[simp] theorem State.modPier_chans (s : State) (p : Nat) (f : Pier → Pier) : (s.modPier p f).chans = s.chans := rfl
@[simp] theorem State.modPier_piers (s : State) (p : Nat) (f : Pier → Pier) : (s.modPier p f).piers = Tab.set {} s.piers p (f (s.pier p)) := rfl
@[simp] theorem State.modPier_clusters (s : State) (p : Nat) (f : Pier → Pier) : (s.modPier p f).clusters = s.clusters := rfl
@[simp] theorem State.modPier_arbs (s : State) (p : Nat) (f : Pier → Pier) : (s.modPier p f).arbs = s.arbs := rfl
@[simp] theorem State.modPier_hostint (s : State) (p : Nat) (f : Pier → Pier) : (s.modPier p f).hostint = s.hostint := rfl
@[simp] theorem State.modPier_imsic (s : State) (p : Nat) (f : Pier → Pier) : (s.modPier p f).imsic = s.imsic := rfl
@[simp] theorem State.modPier_pairs (s : State) (p : Nat) (f : Pier → Pier) : (s.modPier p f).pairs = s.pairs := rfl
@[simp] theorem State.modPier_truss (s : State) (p : Nat) (f : Pier → Pier) : (s.modPier p f).truss = s.truss := rfl
@[simp] theorem State.modPier_degraded (s : State) (p : Nat) (f : Pier → Pier) : (s.modPier p f).degraded = s.degraded := rfl
@[simp] theorem State.modPier_node (s : State) (p : Nat) (f : Pier → Pier) : (s.modPier p f).node = s.node := rfl
@[simp] theorem State.modPier_tick (s : State) (p : Nat) (f : Pier → Pier) : (s.modPier p f).tick = s.tick := rfl
@[simp] theorem State.modPier_job (s : State) (p : Nat) (f : Pier → Pier) : (s.modPier p f).job = s.job := rfl
@[simp] theorem State.modPier_belul (s : State) (p : Nat) (f : Pier → Pier) : (s.modPier p f).belul = s.belul := rfl
@[simp] theorem State.modPier_i3c (s : State) (p : Nat) (f : Pier → Pier) : (s.modPier p f).i3c = s.i3c := rfl
@[simp] theorem State.modPier_power (s : State) (p : Nat) (f : Pier → Pier) : (s.modPier p f).power = s.power := rfl
@[simp] theorem State.modPier_boot (s : State) (p : Nat) (f : Pier → Pier) : (s.modPier p f).boot = s.boot := rfl
@[simp] theorem State.modPier_ctrs (s : State) (p : Nat) (f : Pier → Pier) : (s.modPier p f).ctrs = s.ctrs := rfl
@[simp] theorem State.modPier_talcy (s : State) (p : Nat) (f : Pier → Pier) : (s.modPier p f).talcy = s.talcy := rfl
@[simp] theorem State.modPier_wear (s : State) (p : Nat) (f : Pier → Pier) : (s.modPier p f).wear = s.wear := rfl
@[simp] theorem State.modPier_upper (s : State) (p : Nat) (f : Pier → Pier) : (s.modPier p f).upper = s.upper := rfl
@[simp] theorem State.modPier_portCfg (s : State) (p : Nat) (f : Pier → Pier) : (s.modPier p f).portCfg = s.portCfg := rfl
@[simp] theorem State.modPier_events (s : State) (p : Nat) (f : Pier → Pier) : (s.modPier p f).events = s.events := rfl
@[simp] theorem State.modPier_nextEvent (s : State) (p : Nat) (f : Pier → Pier) : (s.modPier p f).nextEvent = s.nextEvent := rfl
@[simp] theorem State.modPier_rdata (s : State) (p : Nat) (f : Pier → Pier) : (s.modPier p f).rdata = s.rdata := rfl
@[simp] theorem State.modPier_out (s : State) (p : Nat) (f : Pier → Pier) : (s.modPier p f).out = s.out := rfl
@[simp] theorem State.modPier_free (s : State) (p : Nat) (f : Pier → Pier) : (s.modPier p f).free = s.free := rfl
@[simp] theorem State.modPier_pending (s : State) (p : Nat) (f : Pier → Pier) : (s.modPier p f).pending = s.pending := rfl

/-! ### modCluster -/

@[simp] theorem State.modCluster_tiles (s : State) (c : Nat) (f : Cluster → Cluster) : (s.modCluster c f).tiles = s.tiles := rfl
@[simp] theorem State.modCluster_msgs (s : State) (c : Nat) (f : Cluster → Cluster) : (s.modCluster c f).msgs = s.msgs := rfl
@[simp] theorem State.modCluster_msgId (s : State) (c : Nat) (f : Cluster → Cluster) : (s.modCluster c f).msgId = s.msgId := rfl
@[simp] theorem State.modCluster_ks (s : State) (c : Nat) (f : Cluster → Cluster) : (s.modCluster c f).ks = s.ks := rfl
@[simp] theorem State.modCluster_pool (s : State) (c : Nat) (f : Cluster → Cluster) : (s.modCluster c f).pool = s.pool := rfl
@[simp] theorem State.modCluster_chans (s : State) (c : Nat) (f : Cluster → Cluster) : (s.modCluster c f).chans = s.chans := rfl
@[simp] theorem State.modCluster_piers (s : State) (c : Nat) (f : Cluster → Cluster) : (s.modCluster c f).piers = s.piers := rfl
@[simp] theorem State.modCluster_clusters (s : State) (c : Nat) (f : Cluster → Cluster) : (s.modCluster c f).clusters = Tab.set {} s.clusters c (f (s.cluster c)) := rfl
@[simp] theorem State.modCluster_arbs (s : State) (c : Nat) (f : Cluster → Cluster) : (s.modCluster c f).arbs = s.arbs := rfl
@[simp] theorem State.modCluster_hostint (s : State) (c : Nat) (f : Cluster → Cluster) : (s.modCluster c f).hostint = s.hostint := rfl
@[simp] theorem State.modCluster_imsic (s : State) (c : Nat) (f : Cluster → Cluster) : (s.modCluster c f).imsic = s.imsic := rfl
@[simp] theorem State.modCluster_pairs (s : State) (c : Nat) (f : Cluster → Cluster) : (s.modCluster c f).pairs = s.pairs := rfl
@[simp] theorem State.modCluster_truss (s : State) (c : Nat) (f : Cluster → Cluster) : (s.modCluster c f).truss = s.truss := rfl
@[simp] theorem State.modCluster_degraded (s : State) (c : Nat) (f : Cluster → Cluster) : (s.modCluster c f).degraded = s.degraded := rfl
@[simp] theorem State.modCluster_node (s : State) (c : Nat) (f : Cluster → Cluster) : (s.modCluster c f).node = s.node := rfl
@[simp] theorem State.modCluster_tick (s : State) (c : Nat) (f : Cluster → Cluster) : (s.modCluster c f).tick = s.tick := rfl
@[simp] theorem State.modCluster_job (s : State) (c : Nat) (f : Cluster → Cluster) : (s.modCluster c f).job = s.job := rfl
@[simp] theorem State.modCluster_belul (s : State) (c : Nat) (f : Cluster → Cluster) : (s.modCluster c f).belul = s.belul := rfl
@[simp] theorem State.modCluster_i3c (s : State) (c : Nat) (f : Cluster → Cluster) : (s.modCluster c f).i3c = s.i3c := rfl
@[simp] theorem State.modCluster_power (s : State) (c : Nat) (f : Cluster → Cluster) : (s.modCluster c f).power = s.power := rfl
@[simp] theorem State.modCluster_boot (s : State) (c : Nat) (f : Cluster → Cluster) : (s.modCluster c f).boot = s.boot := rfl
@[simp] theorem State.modCluster_ctrs (s : State) (c : Nat) (f : Cluster → Cluster) : (s.modCluster c f).ctrs = s.ctrs := rfl
@[simp] theorem State.modCluster_talcy (s : State) (c : Nat) (f : Cluster → Cluster) : (s.modCluster c f).talcy = s.talcy := rfl
@[simp] theorem State.modCluster_wear (s : State) (c : Nat) (f : Cluster → Cluster) : (s.modCluster c f).wear = s.wear := rfl
@[simp] theorem State.modCluster_upper (s : State) (c : Nat) (f : Cluster → Cluster) : (s.modCluster c f).upper = s.upper := rfl
@[simp] theorem State.modCluster_portCfg (s : State) (c : Nat) (f : Cluster → Cluster) : (s.modCluster c f).portCfg = s.portCfg := rfl
@[simp] theorem State.modCluster_events (s : State) (c : Nat) (f : Cluster → Cluster) : (s.modCluster c f).events = s.events := rfl
@[simp] theorem State.modCluster_nextEvent (s : State) (c : Nat) (f : Cluster → Cluster) : (s.modCluster c f).nextEvent = s.nextEvent := rfl
@[simp] theorem State.modCluster_rdata (s : State) (c : Nat) (f : Cluster → Cluster) : (s.modCluster c f).rdata = s.rdata := rfl
@[simp] theorem State.modCluster_out (s : State) (c : Nat) (f : Cluster → Cluster) : (s.modCluster c f).out = s.out := rfl
@[simp] theorem State.modCluster_free (s : State) (c : Nat) (f : Cluster → Cluster) : (s.modCluster c f).free = s.free := rfl
@[simp] theorem State.modCluster_pending (s : State) (c : Nat) (f : Cluster → Cluster) : (s.modCluster c f).pending = s.pending := rfl

/-! ### setArb -/

@[simp] theorem State.setArb_tiles (s : State) (a : Nat) (v : Arb) : (s.setArb a v).tiles = s.tiles := rfl
@[simp] theorem State.setArb_msgs (s : State) (a : Nat) (v : Arb) : (s.setArb a v).msgs = s.msgs := rfl
@[simp] theorem State.setArb_msgId (s : State) (a : Nat) (v : Arb) : (s.setArb a v).msgId = s.msgId := rfl
@[simp] theorem State.setArb_ks (s : State) (a : Nat) (v : Arb) : (s.setArb a v).ks = s.ks := rfl
@[simp] theorem State.setArb_pool (s : State) (a : Nat) (v : Arb) : (s.setArb a v).pool = s.pool := rfl
@[simp] theorem State.setArb_chans (s : State) (a : Nat) (v : Arb) : (s.setArb a v).chans = s.chans := rfl
@[simp] theorem State.setArb_piers (s : State) (a : Nat) (v : Arb) : (s.setArb a v).piers = s.piers := rfl
@[simp] theorem State.setArb_clusters (s : State) (a : Nat) (v : Arb) : (s.setArb a v).clusters = s.clusters := rfl
@[simp] theorem State.setArb_arbs (s : State) (a : Nat) (v : Arb) : (s.setArb a v).arbs = Tab.set {} s.arbs a v := rfl
@[simp] theorem State.setArb_hostint (s : State) (a : Nat) (v : Arb) : (s.setArb a v).hostint = s.hostint := rfl
@[simp] theorem State.setArb_imsic (s : State) (a : Nat) (v : Arb) : (s.setArb a v).imsic = s.imsic := rfl
@[simp] theorem State.setArb_pairs (s : State) (a : Nat) (v : Arb) : (s.setArb a v).pairs = s.pairs := rfl
@[simp] theorem State.setArb_truss (s : State) (a : Nat) (v : Arb) : (s.setArb a v).truss = s.truss := rfl
@[simp] theorem State.setArb_degraded (s : State) (a : Nat) (v : Arb) : (s.setArb a v).degraded = s.degraded := rfl
@[simp] theorem State.setArb_node (s : State) (a : Nat) (v : Arb) : (s.setArb a v).node = s.node := rfl
@[simp] theorem State.setArb_tick (s : State) (a : Nat) (v : Arb) : (s.setArb a v).tick = s.tick := rfl
@[simp] theorem State.setArb_job (s : State) (a : Nat) (v : Arb) : (s.setArb a v).job = s.job := rfl
@[simp] theorem State.setArb_belul (s : State) (a : Nat) (v : Arb) : (s.setArb a v).belul = s.belul := rfl
@[simp] theorem State.setArb_i3c (s : State) (a : Nat) (v : Arb) : (s.setArb a v).i3c = s.i3c := rfl
@[simp] theorem State.setArb_power (s : State) (a : Nat) (v : Arb) : (s.setArb a v).power = s.power := rfl
@[simp] theorem State.setArb_boot (s : State) (a : Nat) (v : Arb) : (s.setArb a v).boot = s.boot := rfl
@[simp] theorem State.setArb_ctrs (s : State) (a : Nat) (v : Arb) : (s.setArb a v).ctrs = s.ctrs := rfl
@[simp] theorem State.setArb_talcy (s : State) (a : Nat) (v : Arb) : (s.setArb a v).talcy = s.talcy := rfl
@[simp] theorem State.setArb_wear (s : State) (a : Nat) (v : Arb) : (s.setArb a v).wear = s.wear := rfl
@[simp] theorem State.setArb_upper (s : State) (a : Nat) (v : Arb) : (s.setArb a v).upper = s.upper := rfl
@[simp] theorem State.setArb_portCfg (s : State) (a : Nat) (v : Arb) : (s.setArb a v).portCfg = s.portCfg := rfl
@[simp] theorem State.setArb_events (s : State) (a : Nat) (v : Arb) : (s.setArb a v).events = s.events := rfl
@[simp] theorem State.setArb_nextEvent (s : State) (a : Nat) (v : Arb) : (s.setArb a v).nextEvent = s.nextEvent := rfl
@[simp] theorem State.setArb_rdata (s : State) (a : Nat) (v : Arb) : (s.setArb a v).rdata = s.rdata := rfl
@[simp] theorem State.setArb_out (s : State) (a : Nat) (v : Arb) : (s.setArb a v).out = s.out := rfl
@[simp] theorem State.setArb_free (s : State) (a : Nat) (v : Arb) : (s.setArb a v).free = s.free := rfl
@[simp] theorem State.setArb_pending (s : State) (a : Nat) (v : Arb) : (s.setArb a v).pending = s.pending := rfl

/-! ### setHint -/

@[simp] theorem State.setHint_tiles (s : State) (n : Nat) (v : HostInt) : (s.setHint n v).tiles = s.tiles := rfl
@[simp] theorem State.setHint_msgs (s : State) (n : Nat) (v : HostInt) : (s.setHint n v).msgs = s.msgs := rfl
@[simp] theorem State.setHint_msgId (s : State) (n : Nat) (v : HostInt) : (s.setHint n v).msgId = s.msgId := rfl
@[simp] theorem State.setHint_ks (s : State) (n : Nat) (v : HostInt) : (s.setHint n v).ks = s.ks := rfl
@[simp] theorem State.setHint_pool (s : State) (n : Nat) (v : HostInt) : (s.setHint n v).pool = s.pool := rfl
@[simp] theorem State.setHint_chans (s : State) (n : Nat) (v : HostInt) : (s.setHint n v).chans = s.chans := rfl
@[simp] theorem State.setHint_piers (s : State) (n : Nat) (v : HostInt) : (s.setHint n v).piers = s.piers := rfl
@[simp] theorem State.setHint_clusters (s : State) (n : Nat) (v : HostInt) : (s.setHint n v).clusters = s.clusters := rfl
@[simp] theorem State.setHint_arbs (s : State) (n : Nat) (v : HostInt) : (s.setHint n v).arbs = s.arbs := rfl
@[simp] theorem State.setHint_hostint (s : State) (n : Nat) (v : HostInt) : (s.setHint n v).hostint = Tab.set {} s.hostint n v := rfl
@[simp] theorem State.setHint_imsic (s : State) (n : Nat) (v : HostInt) : (s.setHint n v).imsic = s.imsic := rfl
@[simp] theorem State.setHint_pairs (s : State) (n : Nat) (v : HostInt) : (s.setHint n v).pairs = s.pairs := rfl
@[simp] theorem State.setHint_truss (s : State) (n : Nat) (v : HostInt) : (s.setHint n v).truss = s.truss := rfl
@[simp] theorem State.setHint_degraded (s : State) (n : Nat) (v : HostInt) : (s.setHint n v).degraded = s.degraded := rfl
@[simp] theorem State.setHint_node (s : State) (n : Nat) (v : HostInt) : (s.setHint n v).node = s.node := rfl
@[simp] theorem State.setHint_tick (s : State) (n : Nat) (v : HostInt) : (s.setHint n v).tick = s.tick := rfl
@[simp] theorem State.setHint_job (s : State) (n : Nat) (v : HostInt) : (s.setHint n v).job = s.job := rfl
@[simp] theorem State.setHint_belul (s : State) (n : Nat) (v : HostInt) : (s.setHint n v).belul = s.belul := rfl
@[simp] theorem State.setHint_i3c (s : State) (n : Nat) (v : HostInt) : (s.setHint n v).i3c = s.i3c := rfl
@[simp] theorem State.setHint_power (s : State) (n : Nat) (v : HostInt) : (s.setHint n v).power = s.power := rfl
@[simp] theorem State.setHint_boot (s : State) (n : Nat) (v : HostInt) : (s.setHint n v).boot = s.boot := rfl
@[simp] theorem State.setHint_ctrs (s : State) (n : Nat) (v : HostInt) : (s.setHint n v).ctrs = s.ctrs := rfl
@[simp] theorem State.setHint_talcy (s : State) (n : Nat) (v : HostInt) : (s.setHint n v).talcy = s.talcy := rfl
@[simp] theorem State.setHint_wear (s : State) (n : Nat) (v : HostInt) : (s.setHint n v).wear = s.wear := rfl
@[simp] theorem State.setHint_upper (s : State) (n : Nat) (v : HostInt) : (s.setHint n v).upper = s.upper := rfl
@[simp] theorem State.setHint_portCfg (s : State) (n : Nat) (v : HostInt) : (s.setHint n v).portCfg = s.portCfg := rfl
@[simp] theorem State.setHint_events (s : State) (n : Nat) (v : HostInt) : (s.setHint n v).events = s.events := rfl
@[simp] theorem State.setHint_nextEvent (s : State) (n : Nat) (v : HostInt) : (s.setHint n v).nextEvent = s.nextEvent := rfl
@[simp] theorem State.setHint_rdata (s : State) (n : Nat) (v : HostInt) : (s.setHint n v).rdata = s.rdata := rfl
@[simp] theorem State.setHint_out (s : State) (n : Nat) (v : HostInt) : (s.setHint n v).out = s.out := rfl
@[simp] theorem State.setHint_free (s : State) (n : Nat) (v : HostInt) : (s.setHint n v).free = s.free := rfl
@[simp] theorem State.setHint_pending (s : State) (n : Nat) (v : HostInt) : (s.setHint n v).pending = s.pending := rfl

/-! ### modPair -/

@[simp] theorem State.modPair_tiles (s : State) (l n : Nat) (f : Pair → Pair) : (s.modPair l n f).tiles = s.tiles := rfl
@[simp] theorem State.modPair_msgs (s : State) (l n : Nat) (f : Pair → Pair) : (s.modPair l n f).msgs = s.msgs := rfl
@[simp] theorem State.modPair_msgId (s : State) (l n : Nat) (f : Pair → Pair) : (s.modPair l n f).msgId = s.msgId := rfl
@[simp] theorem State.modPair_ks (s : State) (l n : Nat) (f : Pair → Pair) : (s.modPair l n f).ks = s.ks := rfl
@[simp] theorem State.modPair_pool (s : State) (l n : Nat) (f : Pair → Pair) : (s.modPair l n f).pool = s.pool := rfl
@[simp] theorem State.modPair_chans (s : State) (l n : Nat) (f : Pair → Pair) : (s.modPair l n f).chans = s.chans := rfl
@[simp] theorem State.modPair_piers (s : State) (l n : Nat) (f : Pair → Pair) : (s.modPair l n f).piers = s.piers := rfl
@[simp] theorem State.modPair_clusters (s : State) (l n : Nat) (f : Pair → Pair) : (s.modPair l n f).clusters = s.clusters := rfl
@[simp] theorem State.modPair_arbs (s : State) (l n : Nat) (f : Pair → Pair) : (s.modPair l n f).arbs = s.arbs := rfl
@[simp] theorem State.modPair_hostint (s : State) (l n : Nat) (f : Pair → Pair) : (s.modPair l n f).hostint = s.hostint := rfl
@[simp] theorem State.modPair_imsic (s : State) (l n : Nat) (f : Pair → Pair) : (s.modPair l n f).imsic = s.imsic := rfl
@[simp] theorem State.modPair_pairs (s : State) (l n : Nat) (f : Pair → Pair) : (s.modPair l n f).pairs = Tab.set {} s.pairs (pairKey l n) (f (s.pair l n)) := rfl
@[simp] theorem State.modPair_truss (s : State) (l n : Nat) (f : Pair → Pair) : (s.modPair l n f).truss = s.truss := rfl
@[simp] theorem State.modPair_degraded (s : State) (l n : Nat) (f : Pair → Pair) : (s.modPair l n f).degraded = s.degraded := rfl
@[simp] theorem State.modPair_node (s : State) (l n : Nat) (f : Pair → Pair) : (s.modPair l n f).node = s.node := rfl
@[simp] theorem State.modPair_tick (s : State) (l n : Nat) (f : Pair → Pair) : (s.modPair l n f).tick = s.tick := rfl
@[simp] theorem State.modPair_job (s : State) (l n : Nat) (f : Pair → Pair) : (s.modPair l n f).job = s.job := rfl
@[simp] theorem State.modPair_belul (s : State) (l n : Nat) (f : Pair → Pair) : (s.modPair l n f).belul = s.belul := rfl
@[simp] theorem State.modPair_i3c (s : State) (l n : Nat) (f : Pair → Pair) : (s.modPair l n f).i3c = s.i3c := rfl
@[simp] theorem State.modPair_power (s : State) (l n : Nat) (f : Pair → Pair) : (s.modPair l n f).power = s.power := rfl
@[simp] theorem State.modPair_boot (s : State) (l n : Nat) (f : Pair → Pair) : (s.modPair l n f).boot = s.boot := rfl
@[simp] theorem State.modPair_ctrs (s : State) (l n : Nat) (f : Pair → Pair) : (s.modPair l n f).ctrs = s.ctrs := rfl
@[simp] theorem State.modPair_talcy (s : State) (l n : Nat) (f : Pair → Pair) : (s.modPair l n f).talcy = s.talcy := rfl
@[simp] theorem State.modPair_wear (s : State) (l n : Nat) (f : Pair → Pair) : (s.modPair l n f).wear = s.wear := rfl
@[simp] theorem State.modPair_upper (s : State) (l n : Nat) (f : Pair → Pair) : (s.modPair l n f).upper = s.upper := rfl
@[simp] theorem State.modPair_portCfg (s : State) (l n : Nat) (f : Pair → Pair) : (s.modPair l n f).portCfg = s.portCfg := rfl
@[simp] theorem State.modPair_events (s : State) (l n : Nat) (f : Pair → Pair) : (s.modPair l n f).events = s.events := rfl
@[simp] theorem State.modPair_nextEvent (s : State) (l n : Nat) (f : Pair → Pair) : (s.modPair l n f).nextEvent = s.nextEvent := rfl
@[simp] theorem State.modPair_rdata (s : State) (l n : Nat) (f : Pair → Pair) : (s.modPair l n f).rdata = s.rdata := rfl
@[simp] theorem State.modPair_out (s : State) (l n : Nat) (f : Pair → Pair) : (s.modPair l n f).out = s.out := rfl
@[simp] theorem State.modPair_free (s : State) (l n : Nat) (f : Pair → Pair) : (s.modPair l n f).free = s.free := rfl
@[simp] theorem State.modPair_pending (s : State) (l n : Nat) (f : Pair → Pair) : (s.modPair l n f).pending = s.pending := rfl

/-! ### modTruss -/

@[simp] theorem State.modTruss_tiles (s : State) (f : Truss → Truss) : (s.modTruss f).tiles = s.tiles := rfl
@[simp] theorem State.modTruss_msgs (s : State) (f : Truss → Truss) : (s.modTruss f).msgs = s.msgs := rfl
@[simp] theorem State.modTruss_msgId (s : State) (f : Truss → Truss) : (s.modTruss f).msgId = s.msgId := rfl
@[simp] theorem State.modTruss_ks (s : State) (f : Truss → Truss) : (s.modTruss f).ks = s.ks := rfl
@[simp] theorem State.modTruss_pool (s : State) (f : Truss → Truss) : (s.modTruss f).pool = s.pool := rfl
@[simp] theorem State.modTruss_chans (s : State) (f : Truss → Truss) : (s.modTruss f).chans = s.chans := rfl
@[simp] theorem State.modTruss_piers (s : State) (f : Truss → Truss) : (s.modTruss f).piers = s.piers := rfl
@[simp] theorem State.modTruss_clusters (s : State) (f : Truss → Truss) : (s.modTruss f).clusters = s.clusters := rfl
@[simp] theorem State.modTruss_arbs (s : State) (f : Truss → Truss) : (s.modTruss f).arbs = s.arbs := rfl
@[simp] theorem State.modTruss_hostint (s : State) (f : Truss → Truss) : (s.modTruss f).hostint = s.hostint := rfl
@[simp] theorem State.modTruss_imsic (s : State) (f : Truss → Truss) : (s.modTruss f).imsic = s.imsic := rfl
@[simp] theorem State.modTruss_pairs (s : State) (f : Truss → Truss) : (s.modTruss f).pairs = s.pairs := rfl
@[simp] theorem State.modTruss_truss (s : State) (f : Truss → Truss) : (s.modTruss f).truss = f s.truss := rfl
@[simp] theorem State.modTruss_degraded (s : State) (f : Truss → Truss) : (s.modTruss f).degraded = s.degraded := rfl
@[simp] theorem State.modTruss_node (s : State) (f : Truss → Truss) : (s.modTruss f).node = s.node := rfl
@[simp] theorem State.modTruss_tick (s : State) (f : Truss → Truss) : (s.modTruss f).tick = s.tick := rfl
@[simp] theorem State.modTruss_job (s : State) (f : Truss → Truss) : (s.modTruss f).job = s.job := rfl
@[simp] theorem State.modTruss_belul (s : State) (f : Truss → Truss) : (s.modTruss f).belul = s.belul := rfl
@[simp] theorem State.modTruss_i3c (s : State) (f : Truss → Truss) : (s.modTruss f).i3c = s.i3c := rfl
@[simp] theorem State.modTruss_power (s : State) (f : Truss → Truss) : (s.modTruss f).power = s.power := rfl
@[simp] theorem State.modTruss_boot (s : State) (f : Truss → Truss) : (s.modTruss f).boot = s.boot := rfl
@[simp] theorem State.modTruss_ctrs (s : State) (f : Truss → Truss) : (s.modTruss f).ctrs = s.ctrs := rfl
@[simp] theorem State.modTruss_talcy (s : State) (f : Truss → Truss) : (s.modTruss f).talcy = s.talcy := rfl
@[simp] theorem State.modTruss_wear (s : State) (f : Truss → Truss) : (s.modTruss f).wear = s.wear := rfl
@[simp] theorem State.modTruss_upper (s : State) (f : Truss → Truss) : (s.modTruss f).upper = s.upper := rfl
@[simp] theorem State.modTruss_portCfg (s : State) (f : Truss → Truss) : (s.modTruss f).portCfg = s.portCfg := rfl
@[simp] theorem State.modTruss_events (s : State) (f : Truss → Truss) : (s.modTruss f).events = s.events := rfl
@[simp] theorem State.modTruss_nextEvent (s : State) (f : Truss → Truss) : (s.modTruss f).nextEvent = s.nextEvent := rfl
@[simp] theorem State.modTruss_rdata (s : State) (f : Truss → Truss) : (s.modTruss f).rdata = s.rdata := rfl
@[simp] theorem State.modTruss_out (s : State) (f : Truss → Truss) : (s.modTruss f).out = s.out := rfl
@[simp] theorem State.modTruss_free (s : State) (f : Truss → Truss) : (s.modTruss f).free = s.free := rfl
@[simp] theorem State.modTruss_pending (s : State) (f : Truss → Truss) : (s.modTruss f).pending = s.pending := rfl

/-! ### modTPort -/

@[simp] theorem State.modTPort_tiles (s : State) (k : Nat) (f : TPort → TPort) : (s.modTPort k f).tiles = s.tiles := rfl
@[simp] theorem State.modTPort_msgs (s : State) (k : Nat) (f : TPort → TPort) : (s.modTPort k f).msgs = s.msgs := rfl
@[simp] theorem State.modTPort_msgId (s : State) (k : Nat) (f : TPort → TPort) : (s.modTPort k f).msgId = s.msgId := rfl
@[simp] theorem State.modTPort_ks (s : State) (k : Nat) (f : TPort → TPort) : (s.modTPort k f).ks = s.ks := rfl
@[simp] theorem State.modTPort_pool (s : State) (k : Nat) (f : TPort → TPort) : (s.modTPort k f).pool = s.pool := rfl
@[simp] theorem State.modTPort_chans (s : State) (k : Nat) (f : TPort → TPort) : (s.modTPort k f).chans = s.chans := rfl
@[simp] theorem State.modTPort_piers (s : State) (k : Nat) (f : TPort → TPort) : (s.modTPort k f).piers = s.piers := rfl
@[simp] theorem State.modTPort_clusters (s : State) (k : Nat) (f : TPort → TPort) : (s.modTPort k f).clusters = s.clusters := rfl
@[simp] theorem State.modTPort_arbs (s : State) (k : Nat) (f : TPort → TPort) : (s.modTPort k f).arbs = s.arbs := rfl
@[simp] theorem State.modTPort_hostint (s : State) (k : Nat) (f : TPort → TPort) : (s.modTPort k f).hostint = s.hostint := rfl
@[simp] theorem State.modTPort_imsic (s : State) (k : Nat) (f : TPort → TPort) : (s.modTPort k f).imsic = s.imsic := rfl
@[simp] theorem State.modTPort_pairs (s : State) (k : Nat) (f : TPort → TPort) : (s.modTPort k f).pairs = s.pairs := rfl
@[simp] theorem State.modTPort_degraded (s : State) (k : Nat) (f : TPort → TPort) : (s.modTPort k f).degraded = s.degraded := rfl
@[simp] theorem State.modTPort_node (s : State) (k : Nat) (f : TPort → TPort) : (s.modTPort k f).node = s.node := rfl
@[simp] theorem State.modTPort_tick (s : State) (k : Nat) (f : TPort → TPort) : (s.modTPort k f).tick = s.tick := rfl
@[simp] theorem State.modTPort_job (s : State) (k : Nat) (f : TPort → TPort) : (s.modTPort k f).job = s.job := rfl
@[simp] theorem State.modTPort_belul (s : State) (k : Nat) (f : TPort → TPort) : (s.modTPort k f).belul = s.belul := rfl
@[simp] theorem State.modTPort_i3c (s : State) (k : Nat) (f : TPort → TPort) : (s.modTPort k f).i3c = s.i3c := rfl
@[simp] theorem State.modTPort_power (s : State) (k : Nat) (f : TPort → TPort) : (s.modTPort k f).power = s.power := rfl
@[simp] theorem State.modTPort_boot (s : State) (k : Nat) (f : TPort → TPort) : (s.modTPort k f).boot = s.boot := rfl
@[simp] theorem State.modTPort_ctrs (s : State) (k : Nat) (f : TPort → TPort) : (s.modTPort k f).ctrs = s.ctrs := rfl
@[simp] theorem State.modTPort_talcy (s : State) (k : Nat) (f : TPort → TPort) : (s.modTPort k f).talcy = s.talcy := rfl
@[simp] theorem State.modTPort_wear (s : State) (k : Nat) (f : TPort → TPort) : (s.modTPort k f).wear = s.wear := rfl
@[simp] theorem State.modTPort_upper (s : State) (k : Nat) (f : TPort → TPort) : (s.modTPort k f).upper = s.upper := rfl
@[simp] theorem State.modTPort_portCfg (s : State) (k : Nat) (f : TPort → TPort) : (s.modTPort k f).portCfg = s.portCfg := rfl
@[simp] theorem State.modTPort_events (s : State) (k : Nat) (f : TPort → TPort) : (s.modTPort k f).events = s.events := rfl
@[simp] theorem State.modTPort_nextEvent (s : State) (k : Nat) (f : TPort → TPort) : (s.modTPort k f).nextEvent = s.nextEvent := rfl
@[simp] theorem State.modTPort_rdata (s : State) (k : Nat) (f : TPort → TPort) : (s.modTPort k f).rdata = s.rdata := rfl
@[simp] theorem State.modTPort_out (s : State) (k : Nat) (f : TPort → TPort) : (s.modTPort k f).out = s.out := rfl
@[simp] theorem State.modTPort_free (s : State) (k : Nat) (f : TPort → TPort) : (s.modTPort k f).free = s.free := rfl
@[simp] theorem State.modTPort_pending (s : State) (k : Nat) (f : TPort → TPort) : (s.modTPort k f).pending = s.pending := rfl

/-! ### modBundle -/

@[simp] theorem State.modBundle_tiles (s : State) (b : Nat) (f : TBundle → TBundle) : (s.modBundle b f).tiles = s.tiles := rfl
@[simp] theorem State.modBundle_msgs (s : State) (b : Nat) (f : TBundle → TBundle) : (s.modBundle b f).msgs = s.msgs := rfl
@[simp] theorem State.modBundle_msgId (s : State) (b : Nat) (f : TBundle → TBundle) : (s.modBundle b f).msgId = s.msgId := rfl
@[simp] theorem State.modBundle_ks (s : State) (b : Nat) (f : TBundle → TBundle) : (s.modBundle b f).ks = s.ks := rfl
@[simp] theorem State.modBundle_pool (s : State) (b : Nat) (f : TBundle → TBundle) : (s.modBundle b f).pool = s.pool := rfl
@[simp] theorem State.modBundle_chans (s : State) (b : Nat) (f : TBundle → TBundle) : (s.modBundle b f).chans = s.chans := rfl
@[simp] theorem State.modBundle_piers (s : State) (b : Nat) (f : TBundle → TBundle) : (s.modBundle b f).piers = s.piers := rfl
@[simp] theorem State.modBundle_clusters (s : State) (b : Nat) (f : TBundle → TBundle) : (s.modBundle b f).clusters = s.clusters := rfl
@[simp] theorem State.modBundle_arbs (s : State) (b : Nat) (f : TBundle → TBundle) : (s.modBundle b f).arbs = s.arbs := rfl
@[simp] theorem State.modBundle_hostint (s : State) (b : Nat) (f : TBundle → TBundle) : (s.modBundle b f).hostint = s.hostint := rfl
@[simp] theorem State.modBundle_imsic (s : State) (b : Nat) (f : TBundle → TBundle) : (s.modBundle b f).imsic = s.imsic := rfl
@[simp] theorem State.modBundle_pairs (s : State) (b : Nat) (f : TBundle → TBundle) : (s.modBundle b f).pairs = s.pairs := rfl
@[simp] theorem State.modBundle_degraded (s : State) (b : Nat) (f : TBundle → TBundle) : (s.modBundle b f).degraded = s.degraded := rfl
@[simp] theorem State.modBundle_node (s : State) (b : Nat) (f : TBundle → TBundle) : (s.modBundle b f).node = s.node := rfl
@[simp] theorem State.modBundle_tick (s : State) (b : Nat) (f : TBundle → TBundle) : (s.modBundle b f).tick = s.tick := rfl
@[simp] theorem State.modBundle_job (s : State) (b : Nat) (f : TBundle → TBundle) : (s.modBundle b f).job = s.job := rfl
@[simp] theorem State.modBundle_belul (s : State) (b : Nat) (f : TBundle → TBundle) : (s.modBundle b f).belul = s.belul := rfl
@[simp] theorem State.modBundle_i3c (s : State) (b : Nat) (f : TBundle → TBundle) : (s.modBundle b f).i3c = s.i3c := rfl
@[simp] theorem State.modBundle_power (s : State) (b : Nat) (f : TBundle → TBundle) : (s.modBundle b f).power = s.power := rfl
@[simp] theorem State.modBundle_boot (s : State) (b : Nat) (f : TBundle → TBundle) : (s.modBundle b f).boot = s.boot := rfl
@[simp] theorem State.modBundle_ctrs (s : State) (b : Nat) (f : TBundle → TBundle) : (s.modBundle b f).ctrs = s.ctrs := rfl
@[simp] theorem State.modBundle_talcy (s : State) (b : Nat) (f : TBundle → TBundle) : (s.modBundle b f).talcy = s.talcy := rfl
@[simp] theorem State.modBundle_wear (s : State) (b : Nat) (f : TBundle → TBundle) : (s.modBundle b f).wear = s.wear := rfl
@[simp] theorem State.modBundle_upper (s : State) (b : Nat) (f : TBundle → TBundle) : (s.modBundle b f).upper = s.upper := rfl
@[simp] theorem State.modBundle_portCfg (s : State) (b : Nat) (f : TBundle → TBundle) : (s.modBundle b f).portCfg = s.portCfg := rfl
@[simp] theorem State.modBundle_events (s : State) (b : Nat) (f : TBundle → TBundle) : (s.modBundle b f).events = s.events := rfl
@[simp] theorem State.modBundle_nextEvent (s : State) (b : Nat) (f : TBundle → TBundle) : (s.modBundle b f).nextEvent = s.nextEvent := rfl
@[simp] theorem State.modBundle_rdata (s : State) (b : Nat) (f : TBundle → TBundle) : (s.modBundle b f).rdata = s.rdata := rfl
@[simp] theorem State.modBundle_out (s : State) (b : Nat) (f : TBundle → TBundle) : (s.modBundle b f).out = s.out := rfl
@[simp] theorem State.modBundle_free (s : State) (b : Nat) (f : TBundle → TBundle) : (s.modBundle b f).free = s.free := rfl
@[simp] theorem State.modBundle_pending (s : State) (b : Nat) (f : TBundle → TBundle) : (s.modBundle b f).pending = s.pending := rfl

/-! ### modNode -/

@[simp] theorem State.modNode_tiles (s : State) (f : Node → Node) : (s.modNode f).tiles = s.tiles := rfl
@[simp] theorem State.modNode_msgs (s : State) (f : Node → Node) : (s.modNode f).msgs = s.msgs := rfl
@[simp] theorem State.modNode_msgId (s : State) (f : Node → Node) : (s.modNode f).msgId = s.msgId := rfl
@[simp] theorem State.modNode_ks (s : State) (f : Node → Node) : (s.modNode f).ks = s.ks := rfl
@[simp] theorem State.modNode_pool (s : State) (f : Node → Node) : (s.modNode f).pool = s.pool := rfl
@[simp] theorem State.modNode_chans (s : State) (f : Node → Node) : (s.modNode f).chans = s.chans := rfl
@[simp] theorem State.modNode_piers (s : State) (f : Node → Node) : (s.modNode f).piers = s.piers := rfl
@[simp] theorem State.modNode_clusters (s : State) (f : Node → Node) : (s.modNode f).clusters = s.clusters := rfl
@[simp] theorem State.modNode_arbs (s : State) (f : Node → Node) : (s.modNode f).arbs = s.arbs := rfl
@[simp] theorem State.modNode_hostint (s : State) (f : Node → Node) : (s.modNode f).hostint = s.hostint := rfl
@[simp] theorem State.modNode_imsic (s : State) (f : Node → Node) : (s.modNode f).imsic = s.imsic := rfl
@[simp] theorem State.modNode_pairs (s : State) (f : Node → Node) : (s.modNode f).pairs = s.pairs := rfl
@[simp] theorem State.modNode_truss (s : State) (f : Node → Node) : (s.modNode f).truss = s.truss := rfl
@[simp] theorem State.modNode_degraded (s : State) (f : Node → Node) : (s.modNode f).degraded = s.degraded := rfl
@[simp] theorem State.modNode_node (s : State) (f : Node → Node) : (s.modNode f).node = f s.node := rfl
@[simp] theorem State.modNode_tick (s : State) (f : Node → Node) : (s.modNode f).tick = s.tick := rfl
@[simp] theorem State.modNode_job (s : State) (f : Node → Node) : (s.modNode f).job = s.job := rfl
@[simp] theorem State.modNode_belul (s : State) (f : Node → Node) : (s.modNode f).belul = s.belul := rfl
@[simp] theorem State.modNode_i3c (s : State) (f : Node → Node) : (s.modNode f).i3c = s.i3c := rfl
@[simp] theorem State.modNode_power (s : State) (f : Node → Node) : (s.modNode f).power = s.power := rfl
@[simp] theorem State.modNode_boot (s : State) (f : Node → Node) : (s.modNode f).boot = s.boot := rfl
@[simp] theorem State.modNode_ctrs (s : State) (f : Node → Node) : (s.modNode f).ctrs = s.ctrs := rfl
@[simp] theorem State.modNode_talcy (s : State) (f : Node → Node) : (s.modNode f).talcy = s.talcy := rfl
@[simp] theorem State.modNode_wear (s : State) (f : Node → Node) : (s.modNode f).wear = s.wear := rfl
@[simp] theorem State.modNode_upper (s : State) (f : Node → Node) : (s.modNode f).upper = s.upper := rfl
@[simp] theorem State.modNode_portCfg (s : State) (f : Node → Node) : (s.modNode f).portCfg = s.portCfg := rfl
@[simp] theorem State.modNode_events (s : State) (f : Node → Node) : (s.modNode f).events = s.events := rfl
@[simp] theorem State.modNode_nextEvent (s : State) (f : Node → Node) : (s.modNode f).nextEvent = s.nextEvent := rfl
@[simp] theorem State.modNode_rdata (s : State) (f : Node → Node) : (s.modNode f).rdata = s.rdata := rfl
@[simp] theorem State.modNode_out (s : State) (f : Node → Node) : (s.modNode f).out = s.out := rfl
@[simp] theorem State.modNode_free (s : State) (f : Node → Node) : (s.modNode f).free = s.free := rfl
@[simp] theorem State.modNode_pending (s : State) (f : Node → Node) : (s.modNode f).pending = s.pending := rfl

/-! ### modWindow -/

@[simp] theorem State.modWindow_tiles (s : State) (w : Nat) (f : Window → Window) : (s.modWindow w f).tiles = s.tiles := rfl
@[simp] theorem State.modWindow_msgs (s : State) (w : Nat) (f : Window → Window) : (s.modWindow w f).msgs = s.msgs := rfl
@[simp] theorem State.modWindow_msgId (s : State) (w : Nat) (f : Window → Window) : (s.modWindow w f).msgId = s.msgId := rfl
@[simp] theorem State.modWindow_ks (s : State) (w : Nat) (f : Window → Window) : (s.modWindow w f).ks = s.ks := rfl
@[simp] theorem State.modWindow_pool (s : State) (w : Nat) (f : Window → Window) : (s.modWindow w f).pool = s.pool := rfl
@[simp] theorem State.modWindow_chans (s : State) (w : Nat) (f : Window → Window) : (s.modWindow w f).chans = s.chans := rfl
@[simp] theorem State.modWindow_piers (s : State) (w : Nat) (f : Window → Window) : (s.modWindow w f).piers = s.piers := rfl
@[simp] theorem State.modWindow_clusters (s : State) (w : Nat) (f : Window → Window) : (s.modWindow w f).clusters = s.clusters := rfl
@[simp] theorem State.modWindow_arbs (s : State) (w : Nat) (f : Window → Window) : (s.modWindow w f).arbs = s.arbs := rfl
@[simp] theorem State.modWindow_hostint (s : State) (w : Nat) (f : Window → Window) : (s.modWindow w f).hostint = s.hostint := rfl
@[simp] theorem State.modWindow_imsic (s : State) (w : Nat) (f : Window → Window) : (s.modWindow w f).imsic = s.imsic := rfl
@[simp] theorem State.modWindow_pairs (s : State) (w : Nat) (f : Window → Window) : (s.modWindow w f).pairs = s.pairs := rfl
@[simp] theorem State.modWindow_truss (s : State) (w : Nat) (f : Window → Window) : (s.modWindow w f).truss = s.truss := rfl
@[simp] theorem State.modWindow_degraded (s : State) (w : Nat) (f : Window → Window) : (s.modWindow w f).degraded = s.degraded := rfl
@[simp] theorem State.modWindow_tick (s : State) (w : Nat) (f : Window → Window) : (s.modWindow w f).tick = s.tick := rfl
@[simp] theorem State.modWindow_job (s : State) (w : Nat) (f : Window → Window) : (s.modWindow w f).job = s.job := rfl
@[simp] theorem State.modWindow_belul (s : State) (w : Nat) (f : Window → Window) : (s.modWindow w f).belul = s.belul := rfl
@[simp] theorem State.modWindow_i3c (s : State) (w : Nat) (f : Window → Window) : (s.modWindow w f).i3c = s.i3c := rfl
@[simp] theorem State.modWindow_power (s : State) (w : Nat) (f : Window → Window) : (s.modWindow w f).power = s.power := rfl
@[simp] theorem State.modWindow_boot (s : State) (w : Nat) (f : Window → Window) : (s.modWindow w f).boot = s.boot := rfl
@[simp] theorem State.modWindow_ctrs (s : State) (w : Nat) (f : Window → Window) : (s.modWindow w f).ctrs = s.ctrs := rfl
@[simp] theorem State.modWindow_talcy (s : State) (w : Nat) (f : Window → Window) : (s.modWindow w f).talcy = s.talcy := rfl
@[simp] theorem State.modWindow_wear (s : State) (w : Nat) (f : Window → Window) : (s.modWindow w f).wear = s.wear := rfl
@[simp] theorem State.modWindow_upper (s : State) (w : Nat) (f : Window → Window) : (s.modWindow w f).upper = s.upper := rfl
@[simp] theorem State.modWindow_portCfg (s : State) (w : Nat) (f : Window → Window) : (s.modWindow w f).portCfg = s.portCfg := rfl
@[simp] theorem State.modWindow_events (s : State) (w : Nat) (f : Window → Window) : (s.modWindow w f).events = s.events := rfl
@[simp] theorem State.modWindow_nextEvent (s : State) (w : Nat) (f : Window → Window) : (s.modWindow w f).nextEvent = s.nextEvent := rfl
@[simp] theorem State.modWindow_rdata (s : State) (w : Nat) (f : Window → Window) : (s.modWindow w f).rdata = s.rdata := rfl
@[simp] theorem State.modWindow_out (s : State) (w : Nat) (f : Window → Window) : (s.modWindow w f).out = s.out := rfl
@[simp] theorem State.modWindow_free (s : State) (w : Nat) (f : Window → Window) : (s.modWindow w f).free = s.free := rfl
@[simp] theorem State.modWindow_pending (s : State) (w : Nat) (f : Window → Window) : (s.modWindow w f).pending = s.pending := rfl

/-! ### setExp -/

@[simp] theorem State.setExp_tiles (s : State) (e : Nat) (v : Export) : (s.setExp e v).tiles = s.tiles := rfl
@[simp] theorem State.setExp_msgs (s : State) (e : Nat) (v : Export) : (s.setExp e v).msgs = s.msgs := rfl
@[simp] theorem State.setExp_msgId (s : State) (e : Nat) (v : Export) : (s.setExp e v).msgId = s.msgId := rfl
@[simp] theorem State.setExp_ks (s : State) (e : Nat) (v : Export) : (s.setExp e v).ks = s.ks := rfl
@[simp] theorem State.setExp_pool (s : State) (e : Nat) (v : Export) : (s.setExp e v).pool = s.pool := rfl
@[simp] theorem State.setExp_chans (s : State) (e : Nat) (v : Export) : (s.setExp e v).chans = s.chans := rfl
@[simp] theorem State.setExp_piers (s : State) (e : Nat) (v : Export) : (s.setExp e v).piers = s.piers := rfl
@[simp] theorem State.setExp_clusters (s : State) (e : Nat) (v : Export) : (s.setExp e v).clusters = s.clusters := rfl
@[simp] theorem State.setExp_arbs (s : State) (e : Nat) (v : Export) : (s.setExp e v).arbs = s.arbs := rfl
@[simp] theorem State.setExp_hostint (s : State) (e : Nat) (v : Export) : (s.setExp e v).hostint = s.hostint := rfl
@[simp] theorem State.setExp_imsic (s : State) (e : Nat) (v : Export) : (s.setExp e v).imsic = s.imsic := rfl
@[simp] theorem State.setExp_pairs (s : State) (e : Nat) (v : Export) : (s.setExp e v).pairs = s.pairs := rfl
@[simp] theorem State.setExp_truss (s : State) (e : Nat) (v : Export) : (s.setExp e v).truss = s.truss := rfl
@[simp] theorem State.setExp_degraded (s : State) (e : Nat) (v : Export) : (s.setExp e v).degraded = s.degraded := rfl
@[simp] theorem State.setExp_tick (s : State) (e : Nat) (v : Export) : (s.setExp e v).tick = s.tick := rfl
@[simp] theorem State.setExp_job (s : State) (e : Nat) (v : Export) : (s.setExp e v).job = s.job := rfl
@[simp] theorem State.setExp_belul (s : State) (e : Nat) (v : Export) : (s.setExp e v).belul = s.belul := rfl
@[simp] theorem State.setExp_i3c (s : State) (e : Nat) (v : Export) : (s.setExp e v).i3c = s.i3c := rfl
@[simp] theorem State.setExp_power (s : State) (e : Nat) (v : Export) : (s.setExp e v).power = s.power := rfl
@[simp] theorem State.setExp_boot (s : State) (e : Nat) (v : Export) : (s.setExp e v).boot = s.boot := rfl
@[simp] theorem State.setExp_ctrs (s : State) (e : Nat) (v : Export) : (s.setExp e v).ctrs = s.ctrs := rfl
@[simp] theorem State.setExp_talcy (s : State) (e : Nat) (v : Export) : (s.setExp e v).talcy = s.talcy := rfl
@[simp] theorem State.setExp_wear (s : State) (e : Nat) (v : Export) : (s.setExp e v).wear = s.wear := rfl
@[simp] theorem State.setExp_upper (s : State) (e : Nat) (v : Export) : (s.setExp e v).upper = s.upper := rfl
@[simp] theorem State.setExp_portCfg (s : State) (e : Nat) (v : Export) : (s.setExp e v).portCfg = s.portCfg := rfl
@[simp] theorem State.setExp_events (s : State) (e : Nat) (v : Export) : (s.setExp e v).events = s.events := rfl
@[simp] theorem State.setExp_nextEvent (s : State) (e : Nat) (v : Export) : (s.setExp e v).nextEvent = s.nextEvent := rfl
@[simp] theorem State.setExp_rdata (s : State) (e : Nat) (v : Export) : (s.setExp e v).rdata = s.rdata := rfl
@[simp] theorem State.setExp_out (s : State) (e : Nat) (v : Export) : (s.setExp e v).out = s.out := rfl
@[simp] theorem State.setExp_free (s : State) (e : Nat) (v : Export) : (s.setExp e v).free = s.free := rfl
@[simp] theorem State.setExp_pending (s : State) (e : Nat) (v : Export) : (s.setExp e v).pending = s.pending := rfl

/-! ### modPort -/

@[simp] theorem State.modPort_tiles (s : State) (p : Nat) (f : OPort → OPort) : (s.modPort p f).tiles = s.tiles := rfl
@[simp] theorem State.modPort_msgs (s : State) (p : Nat) (f : OPort → OPort) : (s.modPort p f).msgs = s.msgs := rfl
@[simp] theorem State.modPort_msgId (s : State) (p : Nat) (f : OPort → OPort) : (s.modPort p f).msgId = s.msgId := rfl
@[simp] theorem State.modPort_ks (s : State) (p : Nat) (f : OPort → OPort) : (s.modPort p f).ks = s.ks := rfl
@[simp] theorem State.modPort_pool (s : State) (p : Nat) (f : OPort → OPort) : (s.modPort p f).pool = s.pool := rfl
@[simp] theorem State.modPort_chans (s : State) (p : Nat) (f : OPort → OPort) : (s.modPort p f).chans = s.chans := rfl
@[simp] theorem State.modPort_piers (s : State) (p : Nat) (f : OPort → OPort) : (s.modPort p f).piers = s.piers := rfl
@[simp] theorem State.modPort_clusters (s : State) (p : Nat) (f : OPort → OPort) : (s.modPort p f).clusters = s.clusters := rfl
@[simp] theorem State.modPort_arbs (s : State) (p : Nat) (f : OPort → OPort) : (s.modPort p f).arbs = s.arbs := rfl
@[simp] theorem State.modPort_hostint (s : State) (p : Nat) (f : OPort → OPort) : (s.modPort p f).hostint = s.hostint := rfl
@[simp] theorem State.modPort_imsic (s : State) (p : Nat) (f : OPort → OPort) : (s.modPort p f).imsic = s.imsic := rfl
@[simp] theorem State.modPort_pairs (s : State) (p : Nat) (f : OPort → OPort) : (s.modPort p f).pairs = s.pairs := rfl
@[simp] theorem State.modPort_truss (s : State) (p : Nat) (f : OPort → OPort) : (s.modPort p f).truss = s.truss := rfl
@[simp] theorem State.modPort_degraded (s : State) (p : Nat) (f : OPort → OPort) : (s.modPort p f).degraded = s.degraded := rfl
@[simp] theorem State.modPort_tick (s : State) (p : Nat) (f : OPort → OPort) : (s.modPort p f).tick = s.tick := rfl
@[simp] theorem State.modPort_job (s : State) (p : Nat) (f : OPort → OPort) : (s.modPort p f).job = s.job := rfl
@[simp] theorem State.modPort_belul (s : State) (p : Nat) (f : OPort → OPort) : (s.modPort p f).belul = s.belul := rfl
@[simp] theorem State.modPort_i3c (s : State) (p : Nat) (f : OPort → OPort) : (s.modPort p f).i3c = s.i3c := rfl
@[simp] theorem State.modPort_power (s : State) (p : Nat) (f : OPort → OPort) : (s.modPort p f).power = s.power := rfl
@[simp] theorem State.modPort_boot (s : State) (p : Nat) (f : OPort → OPort) : (s.modPort p f).boot = s.boot := rfl
@[simp] theorem State.modPort_ctrs (s : State) (p : Nat) (f : OPort → OPort) : (s.modPort p f).ctrs = s.ctrs := rfl
@[simp] theorem State.modPort_talcy (s : State) (p : Nat) (f : OPort → OPort) : (s.modPort p f).talcy = s.talcy := rfl
@[simp] theorem State.modPort_wear (s : State) (p : Nat) (f : OPort → OPort) : (s.modPort p f).wear = s.wear := rfl
@[simp] theorem State.modPort_upper (s : State) (p : Nat) (f : OPort → OPort) : (s.modPort p f).upper = s.upper := rfl
@[simp] theorem State.modPort_portCfg (s : State) (p : Nat) (f : OPort → OPort) : (s.modPort p f).portCfg = s.portCfg := rfl
@[simp] theorem State.modPort_events (s : State) (p : Nat) (f : OPort → OPort) : (s.modPort p f).events = s.events := rfl
@[simp] theorem State.modPort_nextEvent (s : State) (p : Nat) (f : OPort → OPort) : (s.modPort p f).nextEvent = s.nextEvent := rfl
@[simp] theorem State.modPort_rdata (s : State) (p : Nat) (f : OPort → OPort) : (s.modPort p f).rdata = s.rdata := rfl
@[simp] theorem State.modPort_out (s : State) (p : Nat) (f : OPort → OPort) : (s.modPort p f).out = s.out := rfl
@[simp] theorem State.modPort_free (s : State) (p : Nat) (f : OPort → OPort) : (s.modPort p f).free = s.free := rfl
@[simp] theorem State.modPort_pending (s : State) (p : Nat) (f : OPort → OPort) : (s.modPort p f).pending = s.pending := rfl

/-! ### modSlot -/

@[simp] theorem State.modSlot_tiles (s : State) (c n : Nat) (f : Slot → Slot) : (s.modSlot c n f).tiles = s.tiles := rfl
@[simp] theorem State.modSlot_msgs (s : State) (c n : Nat) (f : Slot → Slot) : (s.modSlot c n f).msgs = s.msgs := rfl
@[simp] theorem State.modSlot_msgId (s : State) (c n : Nat) (f : Slot → Slot) : (s.modSlot c n f).msgId = s.msgId := rfl
@[simp] theorem State.modSlot_ks (s : State) (c n : Nat) (f : Slot → Slot) : (s.modSlot c n f).ks = s.ks := rfl
@[simp] theorem State.modSlot_pool (s : State) (c n : Nat) (f : Slot → Slot) : (s.modSlot c n f).pool = s.pool := rfl
@[simp] theorem State.modSlot_chans (s : State) (c n : Nat) (f : Slot → Slot) : (s.modSlot c n f).chans = s.chans := rfl
@[simp] theorem State.modSlot_piers (s : State) (c n : Nat) (f : Slot → Slot) : (s.modSlot c n f).piers = s.piers := rfl
@[simp] theorem State.modSlot_clusters (s : State) (c n : Nat) (f : Slot → Slot) : (s.modSlot c n f).clusters = s.clusters := rfl
@[simp] theorem State.modSlot_arbs (s : State) (c n : Nat) (f : Slot → Slot) : (s.modSlot c n f).arbs = s.arbs := rfl
@[simp] theorem State.modSlot_hostint (s : State) (c n : Nat) (f : Slot → Slot) : (s.modSlot c n f).hostint = s.hostint := rfl
@[simp] theorem State.modSlot_imsic (s : State) (c n : Nat) (f : Slot → Slot) : (s.modSlot c n f).imsic = s.imsic := rfl
@[simp] theorem State.modSlot_pairs (s : State) (c n : Nat) (f : Slot → Slot) : (s.modSlot c n f).pairs = s.pairs := rfl
@[simp] theorem State.modSlot_truss (s : State) (c n : Nat) (f : Slot → Slot) : (s.modSlot c n f).truss = s.truss := rfl
@[simp] theorem State.modSlot_degraded (s : State) (c n : Nat) (f : Slot → Slot) : (s.modSlot c n f).degraded = s.degraded := rfl
@[simp] theorem State.modSlot_node (s : State) (c n : Nat) (f : Slot → Slot) : (s.modSlot c n f).node = s.node := rfl
@[simp] theorem State.modSlot_tick (s : State) (c n : Nat) (f : Slot → Slot) : (s.modSlot c n f).tick = s.tick := rfl
@[simp] theorem State.modSlot_job (s : State) (c n : Nat) (f : Slot → Slot) : (s.modSlot c n f).job = s.job := rfl
@[simp] theorem State.modSlot_i3c (s : State) (c n : Nat) (f : Slot → Slot) : (s.modSlot c n f).i3c = s.i3c := rfl
@[simp] theorem State.modSlot_power (s : State) (c n : Nat) (f : Slot → Slot) : (s.modSlot c n f).power = s.power := rfl
@[simp] theorem State.modSlot_boot (s : State) (c n : Nat) (f : Slot → Slot) : (s.modSlot c n f).boot = s.boot := rfl
@[simp] theorem State.modSlot_ctrs (s : State) (c n : Nat) (f : Slot → Slot) : (s.modSlot c n f).ctrs = s.ctrs := rfl
@[simp] theorem State.modSlot_talcy (s : State) (c n : Nat) (f : Slot → Slot) : (s.modSlot c n f).talcy = s.talcy := rfl
@[simp] theorem State.modSlot_wear (s : State) (c n : Nat) (f : Slot → Slot) : (s.modSlot c n f).wear = s.wear := rfl
@[simp] theorem State.modSlot_upper (s : State) (c n : Nat) (f : Slot → Slot) : (s.modSlot c n f).upper = s.upper := rfl
@[simp] theorem State.modSlot_portCfg (s : State) (c n : Nat) (f : Slot → Slot) : (s.modSlot c n f).portCfg = s.portCfg := rfl
@[simp] theorem State.modSlot_events (s : State) (c n : Nat) (f : Slot → Slot) : (s.modSlot c n f).events = s.events := rfl
@[simp] theorem State.modSlot_nextEvent (s : State) (c n : Nat) (f : Slot → Slot) : (s.modSlot c n f).nextEvent = s.nextEvent := rfl
@[simp] theorem State.modSlot_rdata (s : State) (c n : Nat) (f : Slot → Slot) : (s.modSlot c n f).rdata = s.rdata := rfl
@[simp] theorem State.modSlot_out (s : State) (c n : Nat) (f : Slot → Slot) : (s.modSlot c n f).out = s.out := rfl
@[simp] theorem State.modSlot_free (s : State) (c n : Nat) (f : Slot → Slot) : (s.modSlot c n f).free = s.free := rfl
@[simp] theorem State.modSlot_pending (s : State) (c n : Nat) (f : Slot → Slot) : (s.modSlot c n f).pending = s.pending := rfl

/-! ### modPower -/

@[simp] theorem State.modPower_tiles (s : State) (f : Power → Power) : (s.modPower f).tiles = s.tiles := rfl
@[simp] theorem State.modPower_msgs (s : State) (f : Power → Power) : (s.modPower f).msgs = s.msgs := rfl
@[simp] theorem State.modPower_msgId (s : State) (f : Power → Power) : (s.modPower f).msgId = s.msgId := rfl
@[simp] theorem State.modPower_ks (s : State) (f : Power → Power) : (s.modPower f).ks = s.ks := rfl
@[simp] theorem State.modPower_pool (s : State) (f : Power → Power) : (s.modPower f).pool = s.pool := rfl
@[simp] theorem State.modPower_chans (s : State) (f : Power → Power) : (s.modPower f).chans = s.chans := rfl
@[simp] theorem State.modPower_piers (s : State) (f : Power → Power) : (s.modPower f).piers = s.piers := rfl
@[simp] theorem State.modPower_clusters (s : State) (f : Power → Power) : (s.modPower f).clusters = s.clusters := rfl
@[simp] theorem State.modPower_arbs (s : State) (f : Power → Power) : (s.modPower f).arbs = s.arbs := rfl
@[simp] theorem State.modPower_hostint (s : State) (f : Power → Power) : (s.modPower f).hostint = s.hostint := rfl
@[simp] theorem State.modPower_imsic (s : State) (f : Power → Power) : (s.modPower f).imsic = s.imsic := rfl
@[simp] theorem State.modPower_pairs (s : State) (f : Power → Power) : (s.modPower f).pairs = s.pairs := rfl
@[simp] theorem State.modPower_truss (s : State) (f : Power → Power) : (s.modPower f).truss = s.truss := rfl
@[simp] theorem State.modPower_degraded (s : State) (f : Power → Power) : (s.modPower f).degraded = s.degraded := rfl
@[simp] theorem State.modPower_node (s : State) (f : Power → Power) : (s.modPower f).node = s.node := rfl
@[simp] theorem State.modPower_tick (s : State) (f : Power → Power) : (s.modPower f).tick = s.tick := rfl
@[simp] theorem State.modPower_job (s : State) (f : Power → Power) : (s.modPower f).job = s.job := rfl
@[simp] theorem State.modPower_belul (s : State) (f : Power → Power) : (s.modPower f).belul = s.belul := rfl
@[simp] theorem State.modPower_i3c (s : State) (f : Power → Power) : (s.modPower f).i3c = s.i3c := rfl
@[simp] theorem State.modPower_power (s : State) (f : Power → Power) : (s.modPower f).power = f s.power := rfl
@[simp] theorem State.modPower_boot (s : State) (f : Power → Power) : (s.modPower f).boot = s.boot := rfl
@[simp] theorem State.modPower_ctrs (s : State) (f : Power → Power) : (s.modPower f).ctrs = s.ctrs := rfl
@[simp] theorem State.modPower_talcy (s : State) (f : Power → Power) : (s.modPower f).talcy = s.talcy := rfl
@[simp] theorem State.modPower_wear (s : State) (f : Power → Power) : (s.modPower f).wear = s.wear := rfl
@[simp] theorem State.modPower_upper (s : State) (f : Power → Power) : (s.modPower f).upper = s.upper := rfl
@[simp] theorem State.modPower_portCfg (s : State) (f : Power → Power) : (s.modPower f).portCfg = s.portCfg := rfl
@[simp] theorem State.modPower_events (s : State) (f : Power → Power) : (s.modPower f).events = s.events := rfl
@[simp] theorem State.modPower_nextEvent (s : State) (f : Power → Power) : (s.modPower f).nextEvent = s.nextEvent := rfl
@[simp] theorem State.modPower_rdata (s : State) (f : Power → Power) : (s.modPower f).rdata = s.rdata := rfl
@[simp] theorem State.modPower_out (s : State) (f : Power → Power) : (s.modPower f).out = s.out := rfl
@[simp] theorem State.modPower_free (s : State) (f : Power → Power) : (s.modPower f).free = s.free := rfl
@[simp] theorem State.modPower_pending (s : State) (f : Power → Power) : (s.modPower f).pending = s.pending := rfl

/-! ### modDeck -/

@[simp] theorem State.modDeck_tiles (s : State) (d : Nat) (f : Deck → Deck) : (s.modDeck d f).tiles = s.tiles := rfl
@[simp] theorem State.modDeck_msgs (s : State) (d : Nat) (f : Deck → Deck) : (s.modDeck d f).msgs = s.msgs := rfl
@[simp] theorem State.modDeck_msgId (s : State) (d : Nat) (f : Deck → Deck) : (s.modDeck d f).msgId = s.msgId := rfl
@[simp] theorem State.modDeck_ks (s : State) (d : Nat) (f : Deck → Deck) : (s.modDeck d f).ks = s.ks := rfl
@[simp] theorem State.modDeck_pool (s : State) (d : Nat) (f : Deck → Deck) : (s.modDeck d f).pool = s.pool := rfl
@[simp] theorem State.modDeck_chans (s : State) (d : Nat) (f : Deck → Deck) : (s.modDeck d f).chans = s.chans := rfl
@[simp] theorem State.modDeck_piers (s : State) (d : Nat) (f : Deck → Deck) : (s.modDeck d f).piers = s.piers := rfl
@[simp] theorem State.modDeck_clusters (s : State) (d : Nat) (f : Deck → Deck) : (s.modDeck d f).clusters = s.clusters := rfl
@[simp] theorem State.modDeck_arbs (s : State) (d : Nat) (f : Deck → Deck) : (s.modDeck d f).arbs = s.arbs := rfl
@[simp] theorem State.modDeck_hostint (s : State) (d : Nat) (f : Deck → Deck) : (s.modDeck d f).hostint = s.hostint := rfl
@[simp] theorem State.modDeck_imsic (s : State) (d : Nat) (f : Deck → Deck) : (s.modDeck d f).imsic = s.imsic := rfl
@[simp] theorem State.modDeck_pairs (s : State) (d : Nat) (f : Deck → Deck) : (s.modDeck d f).pairs = s.pairs := rfl
@[simp] theorem State.modDeck_truss (s : State) (d : Nat) (f : Deck → Deck) : (s.modDeck d f).truss = s.truss := rfl
@[simp] theorem State.modDeck_degraded (s : State) (d : Nat) (f : Deck → Deck) : (s.modDeck d f).degraded = s.degraded := rfl
@[simp] theorem State.modDeck_node (s : State) (d : Nat) (f : Deck → Deck) : (s.modDeck d f).node = s.node := rfl
@[simp] theorem State.modDeck_tick (s : State) (d : Nat) (f : Deck → Deck) : (s.modDeck d f).tick = s.tick := rfl
@[simp] theorem State.modDeck_job (s : State) (d : Nat) (f : Deck → Deck) : (s.modDeck d f).job = s.job := rfl
@[simp] theorem State.modDeck_belul (s : State) (d : Nat) (f : Deck → Deck) : (s.modDeck d f).belul = s.belul := rfl
@[simp] theorem State.modDeck_i3c (s : State) (d : Nat) (f : Deck → Deck) : (s.modDeck d f).i3c = s.i3c := rfl
@[simp] theorem State.modDeck_boot (s : State) (d : Nat) (f : Deck → Deck) : (s.modDeck d f).boot = s.boot := rfl
@[simp] theorem State.modDeck_ctrs (s : State) (d : Nat) (f : Deck → Deck) : (s.modDeck d f).ctrs = s.ctrs := rfl
@[simp] theorem State.modDeck_talcy (s : State) (d : Nat) (f : Deck → Deck) : (s.modDeck d f).talcy = s.talcy := rfl
@[simp] theorem State.modDeck_wear (s : State) (d : Nat) (f : Deck → Deck) : (s.modDeck d f).wear = s.wear := rfl
@[simp] theorem State.modDeck_upper (s : State) (d : Nat) (f : Deck → Deck) : (s.modDeck d f).upper = s.upper := rfl
@[simp] theorem State.modDeck_portCfg (s : State) (d : Nat) (f : Deck → Deck) : (s.modDeck d f).portCfg = s.portCfg := rfl
@[simp] theorem State.modDeck_events (s : State) (d : Nat) (f : Deck → Deck) : (s.modDeck d f).events = s.events := rfl
@[simp] theorem State.modDeck_nextEvent (s : State) (d : Nat) (f : Deck → Deck) : (s.modDeck d f).nextEvent = s.nextEvent := rfl
@[simp] theorem State.modDeck_rdata (s : State) (d : Nat) (f : Deck → Deck) : (s.modDeck d f).rdata = s.rdata := rfl
@[simp] theorem State.modDeck_out (s : State) (d : Nat) (f : Deck → Deck) : (s.modDeck d f).out = s.out := rfl
@[simp] theorem State.modDeck_free (s : State) (d : Nat) (f : Deck → Deck) : (s.modDeck d f).free = s.free := rfl
@[simp] theorem State.modDeck_pending (s : State) (d : Nat) (f : Deck → Deck) : (s.modDeck d f).pending = s.pending := rfl

/-! ### modSensor -/

@[simp] theorem State.modSensor_tiles (s : State) (i : Nat) (f : Sensor → Sensor) : (s.modSensor i f).tiles = s.tiles := rfl
@[simp] theorem State.modSensor_msgs (s : State) (i : Nat) (f : Sensor → Sensor) : (s.modSensor i f).msgs = s.msgs := rfl
@[simp] theorem State.modSensor_msgId (s : State) (i : Nat) (f : Sensor → Sensor) : (s.modSensor i f).msgId = s.msgId := rfl
@[simp] theorem State.modSensor_ks (s : State) (i : Nat) (f : Sensor → Sensor) : (s.modSensor i f).ks = s.ks := rfl
@[simp] theorem State.modSensor_pool (s : State) (i : Nat) (f : Sensor → Sensor) : (s.modSensor i f).pool = s.pool := rfl
@[simp] theorem State.modSensor_chans (s : State) (i : Nat) (f : Sensor → Sensor) : (s.modSensor i f).chans = s.chans := rfl
@[simp] theorem State.modSensor_piers (s : State) (i : Nat) (f : Sensor → Sensor) : (s.modSensor i f).piers = s.piers := rfl
@[simp] theorem State.modSensor_clusters (s : State) (i : Nat) (f : Sensor → Sensor) : (s.modSensor i f).clusters = s.clusters := rfl
@[simp] theorem State.modSensor_arbs (s : State) (i : Nat) (f : Sensor → Sensor) : (s.modSensor i f).arbs = s.arbs := rfl
@[simp] theorem State.modSensor_hostint (s : State) (i : Nat) (f : Sensor → Sensor) : (s.modSensor i f).hostint = s.hostint := rfl
@[simp] theorem State.modSensor_imsic (s : State) (i : Nat) (f : Sensor → Sensor) : (s.modSensor i f).imsic = s.imsic := rfl
@[simp] theorem State.modSensor_pairs (s : State) (i : Nat) (f : Sensor → Sensor) : (s.modSensor i f).pairs = s.pairs := rfl
@[simp] theorem State.modSensor_truss (s : State) (i : Nat) (f : Sensor → Sensor) : (s.modSensor i f).truss = s.truss := rfl
@[simp] theorem State.modSensor_degraded (s : State) (i : Nat) (f : Sensor → Sensor) : (s.modSensor i f).degraded = s.degraded := rfl
@[simp] theorem State.modSensor_node (s : State) (i : Nat) (f : Sensor → Sensor) : (s.modSensor i f).node = s.node := rfl
@[simp] theorem State.modSensor_tick (s : State) (i : Nat) (f : Sensor → Sensor) : (s.modSensor i f).tick = s.tick := rfl
@[simp] theorem State.modSensor_job (s : State) (i : Nat) (f : Sensor → Sensor) : (s.modSensor i f).job = s.job := rfl
@[simp] theorem State.modSensor_belul (s : State) (i : Nat) (f : Sensor → Sensor) : (s.modSensor i f).belul = s.belul := rfl
@[simp] theorem State.modSensor_i3c (s : State) (i : Nat) (f : Sensor → Sensor) : (s.modSensor i f).i3c = s.i3c := rfl
@[simp] theorem State.modSensor_boot (s : State) (i : Nat) (f : Sensor → Sensor) : (s.modSensor i f).boot = s.boot := rfl
@[simp] theorem State.modSensor_ctrs (s : State) (i : Nat) (f : Sensor → Sensor) : (s.modSensor i f).ctrs = s.ctrs := rfl
@[simp] theorem State.modSensor_talcy (s : State) (i : Nat) (f : Sensor → Sensor) : (s.modSensor i f).talcy = s.talcy := rfl
@[simp] theorem State.modSensor_wear (s : State) (i : Nat) (f : Sensor → Sensor) : (s.modSensor i f).wear = s.wear := rfl
@[simp] theorem State.modSensor_upper (s : State) (i : Nat) (f : Sensor → Sensor) : (s.modSensor i f).upper = s.upper := rfl
@[simp] theorem State.modSensor_portCfg (s : State) (i : Nat) (f : Sensor → Sensor) : (s.modSensor i f).portCfg = s.portCfg := rfl
@[simp] theorem State.modSensor_events (s : State) (i : Nat) (f : Sensor → Sensor) : (s.modSensor i f).events = s.events := rfl
@[simp] theorem State.modSensor_nextEvent (s : State) (i : Nat) (f : Sensor → Sensor) : (s.modSensor i f).nextEvent = s.nextEvent := rfl
@[simp] theorem State.modSensor_rdata (s : State) (i : Nat) (f : Sensor → Sensor) : (s.modSensor i f).rdata = s.rdata := rfl
@[simp] theorem State.modSensor_out (s : State) (i : Nat) (f : Sensor → Sensor) : (s.modSensor i f).out = s.out := rfl
@[simp] theorem State.modSensor_free (s : State) (i : Nat) (f : Sensor → Sensor) : (s.modSensor i f).free = s.free := rfl
@[simp] theorem State.modSensor_pending (s : State) (i : Nat) (f : Sensor → Sensor) : (s.modSensor i f).pending = s.pending := rfl

/-! ### modKs -/

@[simp] theorem State.modKs_tiles (s : State) (f : Keystone → Keystone) : (s.modKs f).tiles = s.tiles := rfl
@[simp] theorem State.modKs_msgs (s : State) (f : Keystone → Keystone) : (s.modKs f).msgs = s.msgs := rfl
@[simp] theorem State.modKs_msgId (s : State) (f : Keystone → Keystone) : (s.modKs f).msgId = s.msgId := rfl
@[simp] theorem State.modKs_ks (s : State) (f : Keystone → Keystone) : (s.modKs f).ks = f s.ks := rfl
@[simp] theorem State.modKs_pool (s : State) (f : Keystone → Keystone) : (s.modKs f).pool = s.pool := rfl
@[simp] theorem State.modKs_chans (s : State) (f : Keystone → Keystone) : (s.modKs f).chans = s.chans := rfl
@[simp] theorem State.modKs_piers (s : State) (f : Keystone → Keystone) : (s.modKs f).piers = s.piers := rfl
@[simp] theorem State.modKs_clusters (s : State) (f : Keystone → Keystone) : (s.modKs f).clusters = s.clusters := rfl
@[simp] theorem State.modKs_arbs (s : State) (f : Keystone → Keystone) : (s.modKs f).arbs = s.arbs := rfl
@[simp] theorem State.modKs_hostint (s : State) (f : Keystone → Keystone) : (s.modKs f).hostint = s.hostint := rfl
@[simp] theorem State.modKs_imsic (s : State) (f : Keystone → Keystone) : (s.modKs f).imsic = s.imsic := rfl
@[simp] theorem State.modKs_pairs (s : State) (f : Keystone → Keystone) : (s.modKs f).pairs = s.pairs := rfl
@[simp] theorem State.modKs_truss (s : State) (f : Keystone → Keystone) : (s.modKs f).truss = s.truss := rfl
@[simp] theorem State.modKs_degraded (s : State) (f : Keystone → Keystone) : (s.modKs f).degraded = s.degraded := rfl
@[simp] theorem State.modKs_node (s : State) (f : Keystone → Keystone) : (s.modKs f).node = s.node := rfl
@[simp] theorem State.modKs_tick (s : State) (f : Keystone → Keystone) : (s.modKs f).tick = s.tick := rfl
@[simp] theorem State.modKs_job (s : State) (f : Keystone → Keystone) : (s.modKs f).job = s.job := rfl
@[simp] theorem State.modKs_belul (s : State) (f : Keystone → Keystone) : (s.modKs f).belul = s.belul := rfl
@[simp] theorem State.modKs_i3c (s : State) (f : Keystone → Keystone) : (s.modKs f).i3c = s.i3c := rfl
@[simp] theorem State.modKs_power (s : State) (f : Keystone → Keystone) : (s.modKs f).power = s.power := rfl
@[simp] theorem State.modKs_boot (s : State) (f : Keystone → Keystone) : (s.modKs f).boot = s.boot := rfl
@[simp] theorem State.modKs_ctrs (s : State) (f : Keystone → Keystone) : (s.modKs f).ctrs = s.ctrs := rfl
@[simp] theorem State.modKs_talcy (s : State) (f : Keystone → Keystone) : (s.modKs f).talcy = s.talcy := rfl
@[simp] theorem State.modKs_wear (s : State) (f : Keystone → Keystone) : (s.modKs f).wear = s.wear := rfl
@[simp] theorem State.modKs_upper (s : State) (f : Keystone → Keystone) : (s.modKs f).upper = s.upper := rfl
@[simp] theorem State.modKs_portCfg (s : State) (f : Keystone → Keystone) : (s.modKs f).portCfg = s.portCfg := rfl
@[simp] theorem State.modKs_events (s : State) (f : Keystone → Keystone) : (s.modKs f).events = s.events := rfl
@[simp] theorem State.modKs_nextEvent (s : State) (f : Keystone → Keystone) : (s.modKs f).nextEvent = s.nextEvent := rfl
@[simp] theorem State.modKs_rdata (s : State) (f : Keystone → Keystone) : (s.modKs f).rdata = s.rdata := rfl
@[simp] theorem State.modKs_out (s : State) (f : Keystone → Keystone) : (s.modKs f).out = s.out := rfl
@[simp] theorem State.modKs_free (s : State) (f : Keystone → Keystone) : (s.modKs f).free = s.free := rfl
@[simp] theorem State.modKs_pending (s : State) (f : Keystone → Keystone) : (s.modKs f).pending = s.pending := rfl

/-! ### modPool -/

@[simp] theorem State.modPool_tiles (s : State) (f : Pool → Pool) : (s.modPool f).tiles = s.tiles := rfl
@[simp] theorem State.modPool_msgs (s : State) (f : Pool → Pool) : (s.modPool f).msgs = s.msgs := rfl
@[simp] theorem State.modPool_msgId (s : State) (f : Pool → Pool) : (s.modPool f).msgId = s.msgId := rfl
@[simp] theorem State.modPool_ks (s : State) (f : Pool → Pool) : (s.modPool f).ks = s.ks := rfl
@[simp] theorem State.modPool_pool (s : State) (f : Pool → Pool) : (s.modPool f).pool = f s.pool := rfl
@[simp] theorem State.modPool_chans (s : State) (f : Pool → Pool) : (s.modPool f).chans = s.chans := rfl
@[simp] theorem State.modPool_piers (s : State) (f : Pool → Pool) : (s.modPool f).piers = s.piers := rfl
@[simp] theorem State.modPool_clusters (s : State) (f : Pool → Pool) : (s.modPool f).clusters = s.clusters := rfl
@[simp] theorem State.modPool_arbs (s : State) (f : Pool → Pool) : (s.modPool f).arbs = s.arbs := rfl
@[simp] theorem State.modPool_hostint (s : State) (f : Pool → Pool) : (s.modPool f).hostint = s.hostint := rfl
@[simp] theorem State.modPool_imsic (s : State) (f : Pool → Pool) : (s.modPool f).imsic = s.imsic := rfl
@[simp] theorem State.modPool_pairs (s : State) (f : Pool → Pool) : (s.modPool f).pairs = s.pairs := rfl
@[simp] theorem State.modPool_truss (s : State) (f : Pool → Pool) : (s.modPool f).truss = s.truss := rfl
@[simp] theorem State.modPool_degraded (s : State) (f : Pool → Pool) : (s.modPool f).degraded = s.degraded := rfl
@[simp] theorem State.modPool_node (s : State) (f : Pool → Pool) : (s.modPool f).node = s.node := rfl
@[simp] theorem State.modPool_tick (s : State) (f : Pool → Pool) : (s.modPool f).tick = s.tick := rfl
@[simp] theorem State.modPool_job (s : State) (f : Pool → Pool) : (s.modPool f).job = s.job := rfl
@[simp] theorem State.modPool_belul (s : State) (f : Pool → Pool) : (s.modPool f).belul = s.belul := rfl
@[simp] theorem State.modPool_i3c (s : State) (f : Pool → Pool) : (s.modPool f).i3c = s.i3c := rfl
@[simp] theorem State.modPool_power (s : State) (f : Pool → Pool) : (s.modPool f).power = s.power := rfl
@[simp] theorem State.modPool_boot (s : State) (f : Pool → Pool) : (s.modPool f).boot = s.boot := rfl
@[simp] theorem State.modPool_ctrs (s : State) (f : Pool → Pool) : (s.modPool f).ctrs = s.ctrs := rfl
@[simp] theorem State.modPool_talcy (s : State) (f : Pool → Pool) : (s.modPool f).talcy = s.talcy := rfl
@[simp] theorem State.modPool_wear (s : State) (f : Pool → Pool) : (s.modPool f).wear = s.wear := rfl
@[simp] theorem State.modPool_upper (s : State) (f : Pool → Pool) : (s.modPool f).upper = s.upper := rfl
@[simp] theorem State.modPool_portCfg (s : State) (f : Pool → Pool) : (s.modPool f).portCfg = s.portCfg := rfl
@[simp] theorem State.modPool_events (s : State) (f : Pool → Pool) : (s.modPool f).events = s.events := rfl
@[simp] theorem State.modPool_nextEvent (s : State) (f : Pool → Pool) : (s.modPool f).nextEvent = s.nextEvent := rfl
@[simp] theorem State.modPool_rdata (s : State) (f : Pool → Pool) : (s.modPool f).rdata = s.rdata := rfl
@[simp] theorem State.modPool_out (s : State) (f : Pool → Pool) : (s.modPool f).out = s.out := rfl
@[simp] theorem State.modPool_free (s : State) (f : Pool → Pool) : (s.modPool f).free = s.free := rfl
@[simp] theorem State.modPool_pending (s : State) (f : Pool → Pool) : (s.modPool f).pending = s.pending := rfl

/-! ### modTick -/

@[simp] theorem State.modTick_tiles (s : State) (f : Tick → Tick) : (s.modTick f).tiles = s.tiles := rfl
@[simp] theorem State.modTick_msgs (s : State) (f : Tick → Tick) : (s.modTick f).msgs = s.msgs := rfl
@[simp] theorem State.modTick_msgId (s : State) (f : Tick → Tick) : (s.modTick f).msgId = s.msgId := rfl
@[simp] theorem State.modTick_ks (s : State) (f : Tick → Tick) : (s.modTick f).ks = s.ks := rfl
@[simp] theorem State.modTick_pool (s : State) (f : Tick → Tick) : (s.modTick f).pool = s.pool := rfl
@[simp] theorem State.modTick_chans (s : State) (f : Tick → Tick) : (s.modTick f).chans = s.chans := rfl
@[simp] theorem State.modTick_piers (s : State) (f : Tick → Tick) : (s.modTick f).piers = s.piers := rfl
@[simp] theorem State.modTick_clusters (s : State) (f : Tick → Tick) : (s.modTick f).clusters = s.clusters := rfl
@[simp] theorem State.modTick_arbs (s : State) (f : Tick → Tick) : (s.modTick f).arbs = s.arbs := rfl
@[simp] theorem State.modTick_hostint (s : State) (f : Tick → Tick) : (s.modTick f).hostint = s.hostint := rfl
@[simp] theorem State.modTick_imsic (s : State) (f : Tick → Tick) : (s.modTick f).imsic = s.imsic := rfl
@[simp] theorem State.modTick_pairs (s : State) (f : Tick → Tick) : (s.modTick f).pairs = s.pairs := rfl
@[simp] theorem State.modTick_truss (s : State) (f : Tick → Tick) : (s.modTick f).truss = s.truss := rfl
@[simp] theorem State.modTick_degraded (s : State) (f : Tick → Tick) : (s.modTick f).degraded = s.degraded := rfl
@[simp] theorem State.modTick_node (s : State) (f : Tick → Tick) : (s.modTick f).node = s.node := rfl
@[simp] theorem State.modTick_tick (s : State) (f : Tick → Tick) : (s.modTick f).tick = f s.tick := rfl
@[simp] theorem State.modTick_job (s : State) (f : Tick → Tick) : (s.modTick f).job = s.job := rfl
@[simp] theorem State.modTick_belul (s : State) (f : Tick → Tick) : (s.modTick f).belul = s.belul := rfl
@[simp] theorem State.modTick_i3c (s : State) (f : Tick → Tick) : (s.modTick f).i3c = s.i3c := rfl
@[simp] theorem State.modTick_power (s : State) (f : Tick → Tick) : (s.modTick f).power = s.power := rfl
@[simp] theorem State.modTick_boot (s : State) (f : Tick → Tick) : (s.modTick f).boot = s.boot := rfl
@[simp] theorem State.modTick_ctrs (s : State) (f : Tick → Tick) : (s.modTick f).ctrs = s.ctrs := rfl
@[simp] theorem State.modTick_talcy (s : State) (f : Tick → Tick) : (s.modTick f).talcy = s.talcy := rfl
@[simp] theorem State.modTick_wear (s : State) (f : Tick → Tick) : (s.modTick f).wear = s.wear := rfl
@[simp] theorem State.modTick_upper (s : State) (f : Tick → Tick) : (s.modTick f).upper = s.upper := rfl
@[simp] theorem State.modTick_portCfg (s : State) (f : Tick → Tick) : (s.modTick f).portCfg = s.portCfg := rfl
@[simp] theorem State.modTick_events (s : State) (f : Tick → Tick) : (s.modTick f).events = s.events := rfl
@[simp] theorem State.modTick_nextEvent (s : State) (f : Tick → Tick) : (s.modTick f).nextEvent = s.nextEvent := rfl
@[simp] theorem State.modTick_rdata (s : State) (f : Tick → Tick) : (s.modTick f).rdata = s.rdata := rfl
@[simp] theorem State.modTick_out (s : State) (f : Tick → Tick) : (s.modTick f).out = s.out := rfl
@[simp] theorem State.modTick_free (s : State) (f : Tick → Tick) : (s.modTick f).free = s.free := rfl
@[simp] theorem State.modTick_pending (s : State) (f : Tick → Tick) : (s.modTick f).pending = s.pending := rfl

/-! ### modJob -/

@[simp] theorem State.modJob_tiles (s : State) (f : Job → Job) : (s.modJob f).tiles = s.tiles := rfl
@[simp] theorem State.modJob_msgs (s : State) (f : Job → Job) : (s.modJob f).msgs = s.msgs := rfl
@[simp] theorem State.modJob_msgId (s : State) (f : Job → Job) : (s.modJob f).msgId = s.msgId := rfl
@[simp] theorem State.modJob_ks (s : State) (f : Job → Job) : (s.modJob f).ks = s.ks := rfl
@[simp] theorem State.modJob_pool (s : State) (f : Job → Job) : (s.modJob f).pool = s.pool := rfl
@[simp] theorem State.modJob_chans (s : State) (f : Job → Job) : (s.modJob f).chans = s.chans := rfl
@[simp] theorem State.modJob_piers (s : State) (f : Job → Job) : (s.modJob f).piers = s.piers := rfl
@[simp] theorem State.modJob_clusters (s : State) (f : Job → Job) : (s.modJob f).clusters = s.clusters := rfl
@[simp] theorem State.modJob_arbs (s : State) (f : Job → Job) : (s.modJob f).arbs = s.arbs := rfl
@[simp] theorem State.modJob_hostint (s : State) (f : Job → Job) : (s.modJob f).hostint = s.hostint := rfl
@[simp] theorem State.modJob_imsic (s : State) (f : Job → Job) : (s.modJob f).imsic = s.imsic := rfl
@[simp] theorem State.modJob_pairs (s : State) (f : Job → Job) : (s.modJob f).pairs = s.pairs := rfl
@[simp] theorem State.modJob_truss (s : State) (f : Job → Job) : (s.modJob f).truss = s.truss := rfl
@[simp] theorem State.modJob_degraded (s : State) (f : Job → Job) : (s.modJob f).degraded = s.degraded := rfl
@[simp] theorem State.modJob_node (s : State) (f : Job → Job) : (s.modJob f).node = s.node := rfl
@[simp] theorem State.modJob_tick (s : State) (f : Job → Job) : (s.modJob f).tick = s.tick := rfl
@[simp] theorem State.modJob_job (s : State) (f : Job → Job) : (s.modJob f).job = f s.job := rfl
@[simp] theorem State.modJob_belul (s : State) (f : Job → Job) : (s.modJob f).belul = s.belul := rfl
@[simp] theorem State.modJob_i3c (s : State) (f : Job → Job) : (s.modJob f).i3c = s.i3c := rfl
@[simp] theorem State.modJob_power (s : State) (f : Job → Job) : (s.modJob f).power = s.power := rfl
@[simp] theorem State.modJob_boot (s : State) (f : Job → Job) : (s.modJob f).boot = s.boot := rfl
@[simp] theorem State.modJob_ctrs (s : State) (f : Job → Job) : (s.modJob f).ctrs = s.ctrs := rfl
@[simp] theorem State.modJob_talcy (s : State) (f : Job → Job) : (s.modJob f).talcy = s.talcy := rfl
@[simp] theorem State.modJob_wear (s : State) (f : Job → Job) : (s.modJob f).wear = s.wear := rfl
@[simp] theorem State.modJob_upper (s : State) (f : Job → Job) : (s.modJob f).upper = s.upper := rfl
@[simp] theorem State.modJob_portCfg (s : State) (f : Job → Job) : (s.modJob f).portCfg = s.portCfg := rfl
@[simp] theorem State.modJob_events (s : State) (f : Job → Job) : (s.modJob f).events = s.events := rfl
@[simp] theorem State.modJob_nextEvent (s : State) (f : Job → Job) : (s.modJob f).nextEvent = s.nextEvent := rfl
@[simp] theorem State.modJob_rdata (s : State) (f : Job → Job) : (s.modJob f).rdata = s.rdata := rfl
@[simp] theorem State.modJob_out (s : State) (f : Job → Job) : (s.modJob f).out = s.out := rfl
@[simp] theorem State.modJob_free (s : State) (f : Job → Job) : (s.modJob f).free = s.free := rfl
@[simp] theorem State.modJob_pending (s : State) (f : Job → Job) : (s.modJob f).pending = s.pending := rfl

/-! ### modBoot -/

@[simp] theorem State.modBoot_tiles (s : State) (f : Boot → Boot) : (s.modBoot f).tiles = s.tiles := rfl
@[simp] theorem State.modBoot_msgs (s : State) (f : Boot → Boot) : (s.modBoot f).msgs = s.msgs := rfl
@[simp] theorem State.modBoot_msgId (s : State) (f : Boot → Boot) : (s.modBoot f).msgId = s.msgId := rfl
@[simp] theorem State.modBoot_ks (s : State) (f : Boot → Boot) : (s.modBoot f).ks = s.ks := rfl
@[simp] theorem State.modBoot_pool (s : State) (f : Boot → Boot) : (s.modBoot f).pool = s.pool := rfl
@[simp] theorem State.modBoot_chans (s : State) (f : Boot → Boot) : (s.modBoot f).chans = s.chans := rfl
@[simp] theorem State.modBoot_piers (s : State) (f : Boot → Boot) : (s.modBoot f).piers = s.piers := rfl
@[simp] theorem State.modBoot_clusters (s : State) (f : Boot → Boot) : (s.modBoot f).clusters = s.clusters := rfl
@[simp] theorem State.modBoot_arbs (s : State) (f : Boot → Boot) : (s.modBoot f).arbs = s.arbs := rfl
@[simp] theorem State.modBoot_hostint (s : State) (f : Boot → Boot) : (s.modBoot f).hostint = s.hostint := rfl
@[simp] theorem State.modBoot_imsic (s : State) (f : Boot → Boot) : (s.modBoot f).imsic = s.imsic := rfl
@[simp] theorem State.modBoot_pairs (s : State) (f : Boot → Boot) : (s.modBoot f).pairs = s.pairs := rfl
@[simp] theorem State.modBoot_truss (s : State) (f : Boot → Boot) : (s.modBoot f).truss = s.truss := rfl
@[simp] theorem State.modBoot_degraded (s : State) (f : Boot → Boot) : (s.modBoot f).degraded = s.degraded := rfl
@[simp] theorem State.modBoot_node (s : State) (f : Boot → Boot) : (s.modBoot f).node = s.node := rfl
@[simp] theorem State.modBoot_tick (s : State) (f : Boot → Boot) : (s.modBoot f).tick = s.tick := rfl
@[simp] theorem State.modBoot_job (s : State) (f : Boot → Boot) : (s.modBoot f).job = s.job := rfl
@[simp] theorem State.modBoot_belul (s : State) (f : Boot → Boot) : (s.modBoot f).belul = s.belul := rfl
@[simp] theorem State.modBoot_i3c (s : State) (f : Boot → Boot) : (s.modBoot f).i3c = s.i3c := rfl
@[simp] theorem State.modBoot_power (s : State) (f : Boot → Boot) : (s.modBoot f).power = s.power := rfl
@[simp] theorem State.modBoot_boot (s : State) (f : Boot → Boot) : (s.modBoot f).boot = f s.boot := rfl
@[simp] theorem State.modBoot_ctrs (s : State) (f : Boot → Boot) : (s.modBoot f).ctrs = s.ctrs := rfl
@[simp] theorem State.modBoot_talcy (s : State) (f : Boot → Boot) : (s.modBoot f).talcy = s.talcy := rfl
@[simp] theorem State.modBoot_wear (s : State) (f : Boot → Boot) : (s.modBoot f).wear = s.wear := rfl
@[simp] theorem State.modBoot_upper (s : State) (f : Boot → Boot) : (s.modBoot f).upper = s.upper := rfl
@[simp] theorem State.modBoot_portCfg (s : State) (f : Boot → Boot) : (s.modBoot f).portCfg = s.portCfg := rfl
@[simp] theorem State.modBoot_events (s : State) (f : Boot → Boot) : (s.modBoot f).events = s.events := rfl
@[simp] theorem State.modBoot_nextEvent (s : State) (f : Boot → Boot) : (s.modBoot f).nextEvent = s.nextEvent := rfl
@[simp] theorem State.modBoot_rdata (s : State) (f : Boot → Boot) : (s.modBoot f).rdata = s.rdata := rfl
@[simp] theorem State.modBoot_out (s : State) (f : Boot → Boot) : (s.modBoot f).out = s.out := rfl
@[simp] theorem State.modBoot_free (s : State) (f : Boot → Boot) : (s.modBoot f).free = s.free := rfl
@[simp] theorem State.modBoot_pending (s : State) (f : Boot → Boot) : (s.modBoot f).pending = s.pending := rfl

/-! ### modTalcy -/

@[simp] theorem State.modTalcy_tiles (s : State) (f : Talcy → Talcy) : (s.modTalcy f).tiles = s.tiles := rfl
@[simp] theorem State.modTalcy_msgs (s : State) (f : Talcy → Talcy) : (s.modTalcy f).msgs = s.msgs := rfl
@[simp] theorem State.modTalcy_msgId (s : State) (f : Talcy → Talcy) : (s.modTalcy f).msgId = s.msgId := rfl
@[simp] theorem State.modTalcy_ks (s : State) (f : Talcy → Talcy) : (s.modTalcy f).ks = s.ks := rfl
@[simp] theorem State.modTalcy_pool (s : State) (f : Talcy → Talcy) : (s.modTalcy f).pool = s.pool := rfl
@[simp] theorem State.modTalcy_chans (s : State) (f : Talcy → Talcy) : (s.modTalcy f).chans = s.chans := rfl
@[simp] theorem State.modTalcy_piers (s : State) (f : Talcy → Talcy) : (s.modTalcy f).piers = s.piers := rfl
@[simp] theorem State.modTalcy_clusters (s : State) (f : Talcy → Talcy) : (s.modTalcy f).clusters = s.clusters := rfl
@[simp] theorem State.modTalcy_arbs (s : State) (f : Talcy → Talcy) : (s.modTalcy f).arbs = s.arbs := rfl
@[simp] theorem State.modTalcy_hostint (s : State) (f : Talcy → Talcy) : (s.modTalcy f).hostint = s.hostint := rfl
@[simp] theorem State.modTalcy_imsic (s : State) (f : Talcy → Talcy) : (s.modTalcy f).imsic = s.imsic := rfl
@[simp] theorem State.modTalcy_pairs (s : State) (f : Talcy → Talcy) : (s.modTalcy f).pairs = s.pairs := rfl
@[simp] theorem State.modTalcy_truss (s : State) (f : Talcy → Talcy) : (s.modTalcy f).truss = s.truss := rfl
@[simp] theorem State.modTalcy_degraded (s : State) (f : Talcy → Talcy) : (s.modTalcy f).degraded = s.degraded := rfl
@[simp] theorem State.modTalcy_node (s : State) (f : Talcy → Talcy) : (s.modTalcy f).node = s.node := rfl
@[simp] theorem State.modTalcy_tick (s : State) (f : Talcy → Talcy) : (s.modTalcy f).tick = s.tick := rfl
@[simp] theorem State.modTalcy_job (s : State) (f : Talcy → Talcy) : (s.modTalcy f).job = s.job := rfl
@[simp] theorem State.modTalcy_belul (s : State) (f : Talcy → Talcy) : (s.modTalcy f).belul = s.belul := rfl
@[simp] theorem State.modTalcy_i3c (s : State) (f : Talcy → Talcy) : (s.modTalcy f).i3c = s.i3c := rfl
@[simp] theorem State.modTalcy_power (s : State) (f : Talcy → Talcy) : (s.modTalcy f).power = s.power := rfl
@[simp] theorem State.modTalcy_boot (s : State) (f : Talcy → Talcy) : (s.modTalcy f).boot = s.boot := rfl
@[simp] theorem State.modTalcy_ctrs (s : State) (f : Talcy → Talcy) : (s.modTalcy f).ctrs = s.ctrs := rfl
@[simp] theorem State.modTalcy_talcy (s : State) (f : Talcy → Talcy) : (s.modTalcy f).talcy = f s.talcy := rfl
@[simp] theorem State.modTalcy_wear (s : State) (f : Talcy → Talcy) : (s.modTalcy f).wear = s.wear := rfl
@[simp] theorem State.modTalcy_upper (s : State) (f : Talcy → Talcy) : (s.modTalcy f).upper = s.upper := rfl
@[simp] theorem State.modTalcy_portCfg (s : State) (f : Talcy → Talcy) : (s.modTalcy f).portCfg = s.portCfg := rfl
@[simp] theorem State.modTalcy_events (s : State) (f : Talcy → Talcy) : (s.modTalcy f).events = s.events := rfl
@[simp] theorem State.modTalcy_nextEvent (s : State) (f : Talcy → Talcy) : (s.modTalcy f).nextEvent = s.nextEvent := rfl
@[simp] theorem State.modTalcy_rdata (s : State) (f : Talcy → Talcy) : (s.modTalcy f).rdata = s.rdata := rfl
@[simp] theorem State.modTalcy_out (s : State) (f : Talcy → Talcy) : (s.modTalcy f).out = s.out := rfl
@[simp] theorem State.modTalcy_free (s : State) (f : Talcy → Talcy) : (s.modTalcy f).free = s.free := rfl
@[simp] theorem State.modTalcy_pending (s : State) (f : Talcy → Talcy) : (s.modTalcy f).pending = s.pending := rfl

/-! ### modCtrs -/

@[simp] theorem State.modCtrs_tiles (s : State) (f : Counters → Counters) : (s.modCtrs f).tiles = s.tiles := rfl
@[simp] theorem State.modCtrs_msgs (s : State) (f : Counters → Counters) : (s.modCtrs f).msgs = s.msgs := rfl
@[simp] theorem State.modCtrs_msgId (s : State) (f : Counters → Counters) : (s.modCtrs f).msgId = s.msgId := rfl
@[simp] theorem State.modCtrs_ks (s : State) (f : Counters → Counters) : (s.modCtrs f).ks = s.ks := rfl
@[simp] theorem State.modCtrs_pool (s : State) (f : Counters → Counters) : (s.modCtrs f).pool = s.pool := rfl
@[simp] theorem State.modCtrs_chans (s : State) (f : Counters → Counters) : (s.modCtrs f).chans = s.chans := rfl
@[simp] theorem State.modCtrs_piers (s : State) (f : Counters → Counters) : (s.modCtrs f).piers = s.piers := rfl
@[simp] theorem State.modCtrs_clusters (s : State) (f : Counters → Counters) : (s.modCtrs f).clusters = s.clusters := rfl
@[simp] theorem State.modCtrs_arbs (s : State) (f : Counters → Counters) : (s.modCtrs f).arbs = s.arbs := rfl
@[simp] theorem State.modCtrs_hostint (s : State) (f : Counters → Counters) : (s.modCtrs f).hostint = s.hostint := rfl
@[simp] theorem State.modCtrs_imsic (s : State) (f : Counters → Counters) : (s.modCtrs f).imsic = s.imsic := rfl
@[simp] theorem State.modCtrs_pairs (s : State) (f : Counters → Counters) : (s.modCtrs f).pairs = s.pairs := rfl
@[simp] theorem State.modCtrs_truss (s : State) (f : Counters → Counters) : (s.modCtrs f).truss = s.truss := rfl
@[simp] theorem State.modCtrs_degraded (s : State) (f : Counters → Counters) : (s.modCtrs f).degraded = s.degraded := rfl
@[simp] theorem State.modCtrs_node (s : State) (f : Counters → Counters) : (s.modCtrs f).node = s.node := rfl
@[simp] theorem State.modCtrs_tick (s : State) (f : Counters → Counters) : (s.modCtrs f).tick = s.tick := rfl
@[simp] theorem State.modCtrs_job (s : State) (f : Counters → Counters) : (s.modCtrs f).job = s.job := rfl
@[simp] theorem State.modCtrs_belul (s : State) (f : Counters → Counters) : (s.modCtrs f).belul = s.belul := rfl
@[simp] theorem State.modCtrs_i3c (s : State) (f : Counters → Counters) : (s.modCtrs f).i3c = s.i3c := rfl
@[simp] theorem State.modCtrs_power (s : State) (f : Counters → Counters) : (s.modCtrs f).power = s.power := rfl
@[simp] theorem State.modCtrs_boot (s : State) (f : Counters → Counters) : (s.modCtrs f).boot = s.boot := rfl
@[simp] theorem State.modCtrs_ctrs (s : State) (f : Counters → Counters) : (s.modCtrs f).ctrs = f s.ctrs := rfl
@[simp] theorem State.modCtrs_talcy (s : State) (f : Counters → Counters) : (s.modCtrs f).talcy = s.talcy := rfl
@[simp] theorem State.modCtrs_wear (s : State) (f : Counters → Counters) : (s.modCtrs f).wear = s.wear := rfl
@[simp] theorem State.modCtrs_upper (s : State) (f : Counters → Counters) : (s.modCtrs f).upper = s.upper := rfl
@[simp] theorem State.modCtrs_portCfg (s : State) (f : Counters → Counters) : (s.modCtrs f).portCfg = s.portCfg := rfl
@[simp] theorem State.modCtrs_events (s : State) (f : Counters → Counters) : (s.modCtrs f).events = s.events := rfl
@[simp] theorem State.modCtrs_nextEvent (s : State) (f : Counters → Counters) : (s.modCtrs f).nextEvent = s.nextEvent := rfl
@[simp] theorem State.modCtrs_rdata (s : State) (f : Counters → Counters) : (s.modCtrs f).rdata = s.rdata := rfl
@[simp] theorem State.modCtrs_out (s : State) (f : Counters → Counters) : (s.modCtrs f).out = s.out := rfl
@[simp] theorem State.modCtrs_free (s : State) (f : Counters → Counters) : (s.modCtrs f).free = s.free := rfl
@[simp] theorem State.modCtrs_pending (s : State) (f : Counters → Counters) : (s.modCtrs f).pending = s.pending := rfl

/-! ### modBelul -/

@[simp] theorem State.modBelul_tiles (s : State) (f : Belul → Belul) : (s.modBelul f).tiles = s.tiles := rfl
@[simp] theorem State.modBelul_msgs (s : State) (f : Belul → Belul) : (s.modBelul f).msgs = s.msgs := rfl
@[simp] theorem State.modBelul_msgId (s : State) (f : Belul → Belul) : (s.modBelul f).msgId = s.msgId := rfl
@[simp] theorem State.modBelul_ks (s : State) (f : Belul → Belul) : (s.modBelul f).ks = s.ks := rfl
@[simp] theorem State.modBelul_pool (s : State) (f : Belul → Belul) : (s.modBelul f).pool = s.pool := rfl
@[simp] theorem State.modBelul_chans (s : State) (f : Belul → Belul) : (s.modBelul f).chans = s.chans := rfl
@[simp] theorem State.modBelul_piers (s : State) (f : Belul → Belul) : (s.modBelul f).piers = s.piers := rfl
@[simp] theorem State.modBelul_clusters (s : State) (f : Belul → Belul) : (s.modBelul f).clusters = s.clusters := rfl
@[simp] theorem State.modBelul_arbs (s : State) (f : Belul → Belul) : (s.modBelul f).arbs = s.arbs := rfl
@[simp] theorem State.modBelul_hostint (s : State) (f : Belul → Belul) : (s.modBelul f).hostint = s.hostint := rfl
@[simp] theorem State.modBelul_imsic (s : State) (f : Belul → Belul) : (s.modBelul f).imsic = s.imsic := rfl
@[simp] theorem State.modBelul_pairs (s : State) (f : Belul → Belul) : (s.modBelul f).pairs = s.pairs := rfl
@[simp] theorem State.modBelul_truss (s : State) (f : Belul → Belul) : (s.modBelul f).truss = s.truss := rfl
@[simp] theorem State.modBelul_degraded (s : State) (f : Belul → Belul) : (s.modBelul f).degraded = s.degraded := rfl
@[simp] theorem State.modBelul_node (s : State) (f : Belul → Belul) : (s.modBelul f).node = s.node := rfl
@[simp] theorem State.modBelul_tick (s : State) (f : Belul → Belul) : (s.modBelul f).tick = s.tick := rfl
@[simp] theorem State.modBelul_job (s : State) (f : Belul → Belul) : (s.modBelul f).job = s.job := rfl
@[simp] theorem State.modBelul_belul (s : State) (f : Belul → Belul) : (s.modBelul f).belul = f s.belul := rfl
@[simp] theorem State.modBelul_i3c (s : State) (f : Belul → Belul) : (s.modBelul f).i3c = s.i3c := rfl
@[simp] theorem State.modBelul_power (s : State) (f : Belul → Belul) : (s.modBelul f).power = s.power := rfl
@[simp] theorem State.modBelul_boot (s : State) (f : Belul → Belul) : (s.modBelul f).boot = s.boot := rfl
@[simp] theorem State.modBelul_ctrs (s : State) (f : Belul → Belul) : (s.modBelul f).ctrs = s.ctrs := rfl
@[simp] theorem State.modBelul_talcy (s : State) (f : Belul → Belul) : (s.modBelul f).talcy = s.talcy := rfl
@[simp] theorem State.modBelul_wear (s : State) (f : Belul → Belul) : (s.modBelul f).wear = s.wear := rfl
@[simp] theorem State.modBelul_upper (s : State) (f : Belul → Belul) : (s.modBelul f).upper = s.upper := rfl
@[simp] theorem State.modBelul_portCfg (s : State) (f : Belul → Belul) : (s.modBelul f).portCfg = s.portCfg := rfl
@[simp] theorem State.modBelul_events (s : State) (f : Belul → Belul) : (s.modBelul f).events = s.events := rfl
@[simp] theorem State.modBelul_nextEvent (s : State) (f : Belul → Belul) : (s.modBelul f).nextEvent = s.nextEvent := rfl
@[simp] theorem State.modBelul_rdata (s : State) (f : Belul → Belul) : (s.modBelul f).rdata = s.rdata := rfl
@[simp] theorem State.modBelul_out (s : State) (f : Belul → Belul) : (s.modBelul f).out = s.out := rfl
@[simp] theorem State.modBelul_free (s : State) (f : Belul → Belul) : (s.modBelul f).free = s.free := rfl
@[simp] theorem State.modBelul_pending (s : State) (f : Belul → Belul) : (s.modBelul f).pending = s.pending := rfl

/-! ### modWear -/

@[simp] theorem State.modWear_tiles (s : State) (f : Wear → Wear) : (s.modWear f).tiles = s.tiles := rfl
@[simp] theorem State.modWear_msgs (s : State) (f : Wear → Wear) : (s.modWear f).msgs = s.msgs := rfl
@[simp] theorem State.modWear_msgId (s : State) (f : Wear → Wear) : (s.modWear f).msgId = s.msgId := rfl
@[simp] theorem State.modWear_ks (s : State) (f : Wear → Wear) : (s.modWear f).ks = s.ks := rfl
@[simp] theorem State.modWear_pool (s : State) (f : Wear → Wear) : (s.modWear f).pool = s.pool := rfl
@[simp] theorem State.modWear_chans (s : State) (f : Wear → Wear) : (s.modWear f).chans = s.chans := rfl
@[simp] theorem State.modWear_piers (s : State) (f : Wear → Wear) : (s.modWear f).piers = s.piers := rfl
@[simp] theorem State.modWear_clusters (s : State) (f : Wear → Wear) : (s.modWear f).clusters = s.clusters := rfl
@[simp] theorem State.modWear_arbs (s : State) (f : Wear → Wear) : (s.modWear f).arbs = s.arbs := rfl
@[simp] theorem State.modWear_hostint (s : State) (f : Wear → Wear) : (s.modWear f).hostint = s.hostint := rfl
@[simp] theorem State.modWear_imsic (s : State) (f : Wear → Wear) : (s.modWear f).imsic = s.imsic := rfl
@[simp] theorem State.modWear_pairs (s : State) (f : Wear → Wear) : (s.modWear f).pairs = s.pairs := rfl
@[simp] theorem State.modWear_truss (s : State) (f : Wear → Wear) : (s.modWear f).truss = s.truss := rfl
@[simp] theorem State.modWear_degraded (s : State) (f : Wear → Wear) : (s.modWear f).degraded = s.degraded := rfl
@[simp] theorem State.modWear_node (s : State) (f : Wear → Wear) : (s.modWear f).node = s.node := rfl
@[simp] theorem State.modWear_tick (s : State) (f : Wear → Wear) : (s.modWear f).tick = s.tick := rfl
@[simp] theorem State.modWear_job (s : State) (f : Wear → Wear) : (s.modWear f).job = s.job := rfl
@[simp] theorem State.modWear_belul (s : State) (f : Wear → Wear) : (s.modWear f).belul = s.belul := rfl
@[simp] theorem State.modWear_i3c (s : State) (f : Wear → Wear) : (s.modWear f).i3c = s.i3c := rfl
@[simp] theorem State.modWear_power (s : State) (f : Wear → Wear) : (s.modWear f).power = s.power := rfl
@[simp] theorem State.modWear_boot (s : State) (f : Wear → Wear) : (s.modWear f).boot = s.boot := rfl
@[simp] theorem State.modWear_ctrs (s : State) (f : Wear → Wear) : (s.modWear f).ctrs = s.ctrs := rfl
@[simp] theorem State.modWear_talcy (s : State) (f : Wear → Wear) : (s.modWear f).talcy = s.talcy := rfl
@[simp] theorem State.modWear_wear (s : State) (f : Wear → Wear) : (s.modWear f).wear = f s.wear := rfl
@[simp] theorem State.modWear_upper (s : State) (f : Wear → Wear) : (s.modWear f).upper = s.upper := rfl
@[simp] theorem State.modWear_portCfg (s : State) (f : Wear → Wear) : (s.modWear f).portCfg = s.portCfg := rfl
@[simp] theorem State.modWear_events (s : State) (f : Wear → Wear) : (s.modWear f).events = s.events := rfl
@[simp] theorem State.modWear_nextEvent (s : State) (f : Wear → Wear) : (s.modWear f).nextEvent = s.nextEvent := rfl
@[simp] theorem State.modWear_rdata (s : State) (f : Wear → Wear) : (s.modWear f).rdata = s.rdata := rfl
@[simp] theorem State.modWear_out (s : State) (f : Wear → Wear) : (s.modWear f).out = s.out := rfl
@[simp] theorem State.modWear_free (s : State) (f : Wear → Wear) : (s.modWear f).free = s.free := rfl
@[simp] theorem State.modWear_pending (s : State) (f : Wear → Wear) : (s.modWear f).pending = s.pending := rfl

/-! ### send -/

@[simp] theorem State.send_tiles (s : State) (o : Out) : (s.send o).tiles = s.tiles := rfl
@[simp] theorem State.send_msgs (s : State) (o : Out) : (s.send o).msgs = s.msgs := rfl
@[simp] theorem State.send_msgId (s : State) (o : Out) : (s.send o).msgId = s.msgId := rfl
@[simp] theorem State.send_ks (s : State) (o : Out) : (s.send o).ks = s.ks := rfl
@[simp] theorem State.send_pool (s : State) (o : Out) : (s.send o).pool = s.pool := rfl
@[simp] theorem State.send_chans (s : State) (o : Out) : (s.send o).chans = s.chans := rfl
@[simp] theorem State.send_piers (s : State) (o : Out) : (s.send o).piers = s.piers := rfl
@[simp] theorem State.send_clusters (s : State) (o : Out) : (s.send o).clusters = s.clusters := rfl
@[simp] theorem State.send_arbs (s : State) (o : Out) : (s.send o).arbs = s.arbs := rfl
@[simp] theorem State.send_hostint (s : State) (o : Out) : (s.send o).hostint = s.hostint := rfl
@[simp] theorem State.send_imsic (s : State) (o : Out) : (s.send o).imsic = s.imsic := rfl
@[simp] theorem State.send_pairs (s : State) (o : Out) : (s.send o).pairs = s.pairs := rfl
@[simp] theorem State.send_truss (s : State) (o : Out) : (s.send o).truss = s.truss := rfl
@[simp] theorem State.send_degraded (s : State) (o : Out) : (s.send o).degraded = s.degraded := rfl
@[simp] theorem State.send_node (s : State) (o : Out) : (s.send o).node = s.node := rfl
@[simp] theorem State.send_tick (s : State) (o : Out) : (s.send o).tick = s.tick := rfl
@[simp] theorem State.send_job (s : State) (o : Out) : (s.send o).job = s.job := rfl
@[simp] theorem State.send_belul (s : State) (o : Out) : (s.send o).belul = s.belul := rfl
@[simp] theorem State.send_i3c (s : State) (o : Out) : (s.send o).i3c = s.i3c := rfl
@[simp] theorem State.send_power (s : State) (o : Out) : (s.send o).power = s.power := rfl
@[simp] theorem State.send_boot (s : State) (o : Out) : (s.send o).boot = s.boot := rfl
@[simp] theorem State.send_ctrs (s : State) (o : Out) : (s.send o).ctrs = s.ctrs := rfl
@[simp] theorem State.send_talcy (s : State) (o : Out) : (s.send o).talcy = s.talcy := rfl
@[simp] theorem State.send_wear (s : State) (o : Out) : (s.send o).wear = s.wear := rfl
@[simp] theorem State.send_upper (s : State) (o : Out) : (s.send o).upper = s.upper := rfl
@[simp] theorem State.send_portCfg (s : State) (o : Out) : (s.send o).portCfg = s.portCfg := rfl
@[simp] theorem State.send_events (s : State) (o : Out) : (s.send o).events = s.events := rfl
@[simp] theorem State.send_nextEvent (s : State) (o : Out) : (s.send o).nextEvent = s.nextEvent := rfl
@[simp] theorem State.send_rdata (s : State) (o : Out) : (s.send o).rdata = s.rdata := rfl
@[simp] theorem State.send_out (s : State) (o : Out) : (s.send o).out = o :: s.out := rfl
@[simp] theorem State.send_free (s : State) (o : Out) : (s.send o).free = s.free := rfl
@[simp] theorem State.send_pending (s : State) (o : Out) : (s.send o).pending = s.pending := rfl

/-! ### ret -/

@[simp] theorem State.ret_tiles (s : State) (v : Nat) : (s.ret v).tiles = s.tiles := rfl
@[simp] theorem State.ret_msgs (s : State) (v : Nat) : (s.ret v).msgs = s.msgs := rfl
@[simp] theorem State.ret_msgId (s : State) (v : Nat) : (s.ret v).msgId = s.msgId := rfl
@[simp] theorem State.ret_ks (s : State) (v : Nat) : (s.ret v).ks = s.ks := rfl
@[simp] theorem State.ret_pool (s : State) (v : Nat) : (s.ret v).pool = s.pool := rfl
@[simp] theorem State.ret_chans (s : State) (v : Nat) : (s.ret v).chans = s.chans := rfl
@[simp] theorem State.ret_piers (s : State) (v : Nat) : (s.ret v).piers = s.piers := rfl
@[simp] theorem State.ret_clusters (s : State) (v : Nat) : (s.ret v).clusters = s.clusters := rfl
@[simp] theorem State.ret_arbs (s : State) (v : Nat) : (s.ret v).arbs = s.arbs := rfl
@[simp] theorem State.ret_hostint (s : State) (v : Nat) : (s.ret v).hostint = s.hostint := rfl
@[simp] theorem State.ret_imsic (s : State) (v : Nat) : (s.ret v).imsic = s.imsic := rfl
@[simp] theorem State.ret_pairs (s : State) (v : Nat) : (s.ret v).pairs = s.pairs := rfl
@[simp] theorem State.ret_truss (s : State) (v : Nat) : (s.ret v).truss = s.truss := rfl
@[simp] theorem State.ret_degraded (s : State) (v : Nat) : (s.ret v).degraded = s.degraded := rfl
@[simp] theorem State.ret_node (s : State) (v : Nat) : (s.ret v).node = s.node := rfl
@[simp] theorem State.ret_tick (s : State) (v : Nat) : (s.ret v).tick = s.tick := rfl
@[simp] theorem State.ret_job (s : State) (v : Nat) : (s.ret v).job = s.job := rfl
@[simp] theorem State.ret_belul (s : State) (v : Nat) : (s.ret v).belul = s.belul := rfl
@[simp] theorem State.ret_i3c (s : State) (v : Nat) : (s.ret v).i3c = s.i3c := rfl
@[simp] theorem State.ret_power (s : State) (v : Nat) : (s.ret v).power = s.power := rfl
@[simp] theorem State.ret_boot (s : State) (v : Nat) : (s.ret v).boot = s.boot := rfl
@[simp] theorem State.ret_ctrs (s : State) (v : Nat) : (s.ret v).ctrs = s.ctrs := rfl
@[simp] theorem State.ret_talcy (s : State) (v : Nat) : (s.ret v).talcy = s.talcy := rfl
@[simp] theorem State.ret_wear (s : State) (v : Nat) : (s.ret v).wear = s.wear := rfl
@[simp] theorem State.ret_upper (s : State) (v : Nat) : (s.ret v).upper = s.upper := rfl
@[simp] theorem State.ret_portCfg (s : State) (v : Nat) : (s.ret v).portCfg = s.portCfg := rfl
@[simp] theorem State.ret_events (s : State) (v : Nat) : (s.ret v).events = s.events := rfl
@[simp] theorem State.ret_nextEvent (s : State) (v : Nat) : (s.ret v).nextEvent = s.nextEvent := rfl
@[simp] theorem State.ret_rdata (s : State) (v : Nat) : (s.ret v).rdata = BitVec.ofNat 64 v := rfl
@[simp] theorem State.ret_out (s : State) (v : Nat) : (s.ret v).out = s.out := rfl
@[simp] theorem State.ret_free (s : State) (v : Nat) : (s.ret v).free = s.free := rfl
@[simp] theorem State.ret_pending (s : State) (v : Nat) : (s.ret v).pending = s.pending := rfl

/-! ### takeFree -/

@[simp] theorem State.takeFree_tiles (s : State) : (s.takeFree).tiles = s.tiles := rfl
@[simp] theorem State.takeFree_msgs (s : State) : (s.takeFree).msgs = s.msgs := rfl
@[simp] theorem State.takeFree_msgId (s : State) : (s.takeFree).msgId = s.msgId := rfl
@[simp] theorem State.takeFree_ks (s : State) : (s.takeFree).ks = s.ks := rfl
@[simp] theorem State.takeFree_pool (s : State) : (s.takeFree).pool = s.pool := rfl
@[simp] theorem State.takeFree_chans (s : State) : (s.takeFree).chans = s.chans := rfl
@[simp] theorem State.takeFree_piers (s : State) : (s.takeFree).piers = s.piers := rfl
@[simp] theorem State.takeFree_clusters (s : State) : (s.takeFree).clusters = s.clusters := rfl
@[simp] theorem State.takeFree_arbs (s : State) : (s.takeFree).arbs = s.arbs := rfl
@[simp] theorem State.takeFree_hostint (s : State) : (s.takeFree).hostint = s.hostint := rfl
@[simp] theorem State.takeFree_imsic (s : State) : (s.takeFree).imsic = s.imsic := rfl
@[simp] theorem State.takeFree_pairs (s : State) : (s.takeFree).pairs = s.pairs := rfl
@[simp] theorem State.takeFree_truss (s : State) : (s.takeFree).truss = s.truss := rfl
@[simp] theorem State.takeFree_degraded (s : State) : (s.takeFree).degraded = s.degraded := rfl
@[simp] theorem State.takeFree_node (s : State) : (s.takeFree).node = s.node := rfl
@[simp] theorem State.takeFree_tick (s : State) : (s.takeFree).tick = s.tick := rfl
@[simp] theorem State.takeFree_job (s : State) : (s.takeFree).job = s.job := rfl
@[simp] theorem State.takeFree_belul (s : State) : (s.takeFree).belul = s.belul := rfl
@[simp] theorem State.takeFree_i3c (s : State) : (s.takeFree).i3c = s.i3c := rfl
@[simp] theorem State.takeFree_power (s : State) : (s.takeFree).power = s.power := rfl
@[simp] theorem State.takeFree_boot (s : State) : (s.takeFree).boot = s.boot := rfl
@[simp] theorem State.takeFree_ctrs (s : State) : (s.takeFree).ctrs = s.ctrs := rfl
@[simp] theorem State.takeFree_talcy (s : State) : (s.takeFree).talcy = s.talcy := rfl
@[simp] theorem State.takeFree_wear (s : State) : (s.takeFree).wear = s.wear := rfl
@[simp] theorem State.takeFree_upper (s : State) : (s.takeFree).upper = s.upper := rfl
@[simp] theorem State.takeFree_portCfg (s : State) : (s.takeFree).portCfg = s.portCfg := rfl
@[simp] theorem State.takeFree_events (s : State) : (s.takeFree).events = s.events := rfl
@[simp] theorem State.takeFree_nextEvent (s : State) : (s.takeFree).nextEvent = s.nextEvent := rfl
@[simp] theorem State.takeFree_rdata (s : State) : (s.takeFree).rdata = s.rdata := rfl
@[simp] theorem State.takeFree_out (s : State) : (s.takeFree).out = s.out := rfl
@[simp] theorem State.takeFree_free (s : State) : (s.takeFree).free = s.free + 1 := rfl
@[simp] theorem State.takeFree_pending (s : State) : (s.takeFree).pending = s.pending := rfl

/-! ### setCtr -/

@[simp] theorem State.setCtr_tiles (s : State) (a : Nat) (c : Ctr) : (s.setCtr a c).tiles = s.tiles := rfl
@[simp] theorem State.setCtr_msgs (s : State) (a : Nat) (c : Ctr) : (s.setCtr a c).msgs = s.msgs := rfl
@[simp] theorem State.setCtr_msgId (s : State) (a : Nat) (c : Ctr) : (s.setCtr a c).msgId = s.msgId := rfl
@[simp] theorem State.setCtr_ks (s : State) (a : Nat) (c : Ctr) : (s.setCtr a c).ks = s.ks := rfl
@[simp] theorem State.setCtr_pool (s : State) (a : Nat) (c : Ctr) : (s.setCtr a c).pool = s.pool := rfl
@[simp] theorem State.setCtr_chans (s : State) (a : Nat) (c : Ctr) : (s.setCtr a c).chans = s.chans := rfl
@[simp] theorem State.setCtr_piers (s : State) (a : Nat) (c : Ctr) : (s.setCtr a c).piers = s.piers := rfl
@[simp] theorem State.setCtr_clusters (s : State) (a : Nat) (c : Ctr) : (s.setCtr a c).clusters = s.clusters := rfl
@[simp] theorem State.setCtr_arbs (s : State) (a : Nat) (c : Ctr) : (s.setCtr a c).arbs = s.arbs := rfl
@[simp] theorem State.setCtr_hostint (s : State) (a : Nat) (c : Ctr) : (s.setCtr a c).hostint = s.hostint := rfl
@[simp] theorem State.setCtr_imsic (s : State) (a : Nat) (c : Ctr) : (s.setCtr a c).imsic = s.imsic := rfl
@[simp] theorem State.setCtr_pairs (s : State) (a : Nat) (c : Ctr) : (s.setCtr a c).pairs = s.pairs := rfl
@[simp] theorem State.setCtr_truss (s : State) (a : Nat) (c : Ctr) : (s.setCtr a c).truss = s.truss := rfl
@[simp] theorem State.setCtr_degraded (s : State) (a : Nat) (c : Ctr) : (s.setCtr a c).degraded = s.degraded := rfl
@[simp] theorem State.setCtr_node (s : State) (a : Nat) (c : Ctr) : (s.setCtr a c).node = s.node := rfl
@[simp] theorem State.setCtr_tick (s : State) (a : Nat) (c : Ctr) : (s.setCtr a c).tick = s.tick := rfl
@[simp] theorem State.setCtr_job (s : State) (a : Nat) (c : Ctr) : (s.setCtr a c).job = s.job := rfl
@[simp] theorem State.setCtr_belul (s : State) (a : Nat) (c : Ctr) : (s.setCtr a c).belul = s.belul := rfl
@[simp] theorem State.setCtr_i3c (s : State) (a : Nat) (c : Ctr) : (s.setCtr a c).i3c = s.i3c := rfl
@[simp] theorem State.setCtr_power (s : State) (a : Nat) (c : Ctr) : (s.setCtr a c).power = s.power := rfl
@[simp] theorem State.setCtr_boot (s : State) (a : Nat) (c : Ctr) : (s.setCtr a c).boot = s.boot := rfl
@[simp] theorem State.setCtr_talcy (s : State) (a : Nat) (c : Ctr) : (s.setCtr a c).talcy = s.talcy := rfl
@[simp] theorem State.setCtr_wear (s : State) (a : Nat) (c : Ctr) : (s.setCtr a c).wear = s.wear := rfl
@[simp] theorem State.setCtr_upper (s : State) (a : Nat) (c : Ctr) : (s.setCtr a c).upper = s.upper := rfl
@[simp] theorem State.setCtr_portCfg (s : State) (a : Nat) (c : Ctr) : (s.setCtr a c).portCfg = s.portCfg := rfl
@[simp] theorem State.setCtr_events (s : State) (a : Nat) (c : Ctr) : (s.setCtr a c).events = s.events := rfl
@[simp] theorem State.setCtr_nextEvent (s : State) (a : Nat) (c : Ctr) : (s.setCtr a c).nextEvent = s.nextEvent := rfl
@[simp] theorem State.setCtr_rdata (s : State) (a : Nat) (c : Ctr) : (s.setCtr a c).rdata = s.rdata := rfl
@[simp] theorem State.setCtr_out (s : State) (a : Nat) (c : Ctr) : (s.setCtr a c).out = s.out := rfl
@[simp] theorem State.setCtr_free (s : State) (a : Nat) (c : Ctr) : (s.setCtr a c).free = s.free := rfl
@[simp] theorem State.setCtr_pending (s : State) (a : Nat) (c : Ctr) : (s.setCtr a c).pending = s.pending := rfl

/-! ### setTraceUnit -/

@[simp] theorem State.setTraceUnit_tiles (s : State) (p : Nat) (u : TraceUnit) : (s.setTraceUnit p u).tiles = s.tiles := rfl
@[simp] theorem State.setTraceUnit_msgs (s : State) (p : Nat) (u : TraceUnit) : (s.setTraceUnit p u).msgs = s.msgs := rfl
@[simp] theorem State.setTraceUnit_msgId (s : State) (p : Nat) (u : TraceUnit) : (s.setTraceUnit p u).msgId = s.msgId := rfl
@[simp] theorem State.setTraceUnit_ks (s : State) (p : Nat) (u : TraceUnit) : (s.setTraceUnit p u).ks = s.ks := rfl
@[simp] theorem State.setTraceUnit_pool (s : State) (p : Nat) (u : TraceUnit) : (s.setTraceUnit p u).pool = s.pool := rfl
@[simp] theorem State.setTraceUnit_chans (s : State) (p : Nat) (u : TraceUnit) : (s.setTraceUnit p u).chans = s.chans := rfl
@[simp] theorem State.setTraceUnit_piers (s : State) (p : Nat) (u : TraceUnit) : (s.setTraceUnit p u).piers = s.piers := rfl
@[simp] theorem State.setTraceUnit_clusters (s : State) (p : Nat) (u : TraceUnit) : (s.setTraceUnit p u).clusters = s.clusters := rfl
@[simp] theorem State.setTraceUnit_arbs (s : State) (p : Nat) (u : TraceUnit) : (s.setTraceUnit p u).arbs = s.arbs := rfl
@[simp] theorem State.setTraceUnit_hostint (s : State) (p : Nat) (u : TraceUnit) : (s.setTraceUnit p u).hostint = s.hostint := rfl
@[simp] theorem State.setTraceUnit_imsic (s : State) (p : Nat) (u : TraceUnit) : (s.setTraceUnit p u).imsic = s.imsic := rfl
@[simp] theorem State.setTraceUnit_pairs (s : State) (p : Nat) (u : TraceUnit) : (s.setTraceUnit p u).pairs = s.pairs := rfl
@[simp] theorem State.setTraceUnit_truss (s : State) (p : Nat) (u : TraceUnit) : (s.setTraceUnit p u).truss = s.truss := rfl
@[simp] theorem State.setTraceUnit_degraded (s : State) (p : Nat) (u : TraceUnit) : (s.setTraceUnit p u).degraded = s.degraded := rfl
@[simp] theorem State.setTraceUnit_node (s : State) (p : Nat) (u : TraceUnit) : (s.setTraceUnit p u).node = s.node := rfl
@[simp] theorem State.setTraceUnit_tick (s : State) (p : Nat) (u : TraceUnit) : (s.setTraceUnit p u).tick = s.tick := rfl
@[simp] theorem State.setTraceUnit_job (s : State) (p : Nat) (u : TraceUnit) : (s.setTraceUnit p u).job = s.job := rfl
@[simp] theorem State.setTraceUnit_belul (s : State) (p : Nat) (u : TraceUnit) : (s.setTraceUnit p u).belul = s.belul := rfl
@[simp] theorem State.setTraceUnit_i3c (s : State) (p : Nat) (u : TraceUnit) : (s.setTraceUnit p u).i3c = s.i3c := rfl
@[simp] theorem State.setTraceUnit_power (s : State) (p : Nat) (u : TraceUnit) : (s.setTraceUnit p u).power = s.power := rfl
@[simp] theorem State.setTraceUnit_boot (s : State) (p : Nat) (u : TraceUnit) : (s.setTraceUnit p u).boot = s.boot := rfl
@[simp] theorem State.setTraceUnit_ctrs (s : State) (p : Nat) (u : TraceUnit) : (s.setTraceUnit p u).ctrs = s.ctrs := rfl
@[simp] theorem State.setTraceUnit_wear (s : State) (p : Nat) (u : TraceUnit) : (s.setTraceUnit p u).wear = s.wear := rfl
@[simp] theorem State.setTraceUnit_upper (s : State) (p : Nat) (u : TraceUnit) : (s.setTraceUnit p u).upper = s.upper := rfl
@[simp] theorem State.setTraceUnit_portCfg (s : State) (p : Nat) (u : TraceUnit) : (s.setTraceUnit p u).portCfg = s.portCfg := rfl
@[simp] theorem State.setTraceUnit_events (s : State) (p : Nat) (u : TraceUnit) : (s.setTraceUnit p u).events = s.events := rfl
@[simp] theorem State.setTraceUnit_nextEvent (s : State) (p : Nat) (u : TraceUnit) : (s.setTraceUnit p u).nextEvent = s.nextEvent := rfl
@[simp] theorem State.setTraceUnit_rdata (s : State) (p : Nat) (u : TraceUnit) : (s.setTraceUnit p u).rdata = s.rdata := rfl
@[simp] theorem State.setTraceUnit_out (s : State) (p : Nat) (u : TraceUnit) : (s.setTraceUnit p u).out = s.out := rfl
@[simp] theorem State.setTraceUnit_free (s : State) (p : Nat) (u : TraceUnit) : (s.setTraceUnit p u).free = s.free := rfl
@[simp] theorem State.setTraceUnit_pending (s : State) (p : Nat) (u : TraceUnit) : (s.setTraceUnit p u).pending = s.pending := rfl

/-! ### Units read back -/

@[simp] theorem State.setTile_tile (s : State) (t : Nat) (v : Tile) : (s.setTile t v).tile t = v := Tab.get_set_self _ _ _ _

theorem State.setTile_tile_ne (s : State) (t : Nat) (v : Tile) (j : Nat) (h : j ≠ t) : (s.setTile t v).tile j = s.tile j := Tab.get_set_ne _ _ _ _ _ h

@[simp] theorem State.setPier_pier (s : State) (p : Nat) (v : Pier) : (s.setPier p v).pier p = v := Tab.get_set_self _ _ _ _

theorem State.setPier_pier_ne (s : State) (p : Nat) (v : Pier) (j : Nat) (h : j ≠ p) : (s.setPier p v).pier j = s.pier j := Tab.get_set_ne _ _ _ _ _ h

@[simp] theorem State.setArb_arb (s : State) (a : Nat) (v : Arb) : (s.setArb a v).arb a = v := Tab.get_set_self _ _ _ _

theorem State.setArb_arb_ne (s : State) (a : Nat) (v : Arb) (j : Nat) (h : j ≠ a) : (s.setArb a v).arb j = s.arb j := Tab.get_set_ne _ _ _ _ _ h

@[simp] theorem State.setHint_hint (s : State) (n : Nat) (v : HostInt) : (s.setHint n v).hint n = v := Tab.get_set_self _ _ _ _

theorem State.setHint_hint_ne (s : State) (n : Nat) (v : HostInt) (j : Nat) (h : j ≠ n) : (s.setHint n v).hint j = s.hint j := Tab.get_set_ne _ _ _ _ _ h

@[simp] theorem State.modTile_tile (s : State) (t : Nat) (f : Tile → Tile) : (s.modTile t f).tile t = f (s.tile t) := Tab.get_set_self _ _ _ _

theorem State.modTile_tile_ne (s : State) (t : Nat) (f : Tile → Tile) (j : Nat) (h : j ≠ t) : (s.modTile t f).tile j = s.tile j := Tab.get_set_ne _ _ _ _ _ h

@[simp] theorem State.modChan_chan (s : State) (c : Nat) (f : Chan → Chan) : (s.modChan c f).chan c = f (s.chan c) := Tab.get_set_self _ _ _ _

theorem State.modChan_chan_ne (s : State) (c : Nat) (f : Chan → Chan) (j : Nat) (h : j ≠ c) : (s.modChan c f).chan j = s.chan j := Tab.get_set_ne _ _ _ _ _ h

@[simp] theorem State.modPier_pier (s : State) (p : Nat) (f : Pier → Pier) : (s.modPier p f).pier p = f (s.pier p) := Tab.get_set_self _ _ _ _

theorem State.modPier_pier_ne (s : State) (p : Nat) (f : Pier → Pier) (j : Nat) (h : j ≠ p) : (s.modPier p f).pier j = s.pier j := Tab.get_set_ne _ _ _ _ _ h

@[simp] theorem State.modCluster_cluster (s : State) (c : Nat) (f : Cluster → Cluster) : (s.modCluster c f).cluster c = f (s.cluster c) := Tab.get_set_self _ _ _ _

theorem State.modCluster_cluster_ne (s : State) (c : Nat) (f : Cluster → Cluster) (j : Nat) (h : j ≠ c) : (s.modCluster c f).cluster j = s.cluster j := Tab.get_set_ne _ _ _ _ _ h

@[simp] theorem State.modWindow_window (s : State) (w : Nat) (f : Window → Window) : (s.modWindow w f).window w = f (s.window w) := Tab.get_set_self _ _ _ _

theorem State.modWindow_window_ne (s : State) (w : Nat) (f : Window → Window) (j : Nat) (h : j ≠ w) : (s.modWindow w f).window j = s.window j := Tab.get_set_ne _ _ _ _ _ h

@[simp] theorem State.setExp_exp (s : State) (e : Nat) (v : Export) : (s.setExp e v).exp e = v := Tab.get_set_self _ _ _ _

theorem State.setExp_exp_ne (s : State) (e : Nat) (v : Export) (j : Nat) (h : j ≠ e) : (s.setExp e v).exp j = s.exp j := Tab.get_set_ne _ _ _ _ _ h

@[simp] theorem State.modPort_port (s : State) (p : Nat) (f : OPort → OPort) : (s.modPort p f).port p = f (s.port p) := Tab.get_set_self _ _ _ _

theorem State.modPort_port_ne (s : State) (p : Nat) (f : OPort → OPort) (j : Nat) (h : j ≠ p) : (s.modPort p f).port j = s.port j := Tab.get_set_ne _ _ _ _ _ h

@[simp] theorem State.modTPort_tport (s : State) (k : Nat) (f : TPort → TPort) : (s.modTPort k f).tport k = f (s.tport k) := Tab.get_set_self _ _ _ _

theorem State.modTPort_tport_ne (s : State) (k : Nat) (f : TPort → TPort) (j : Nat) (h : j ≠ k) : (s.modTPort k f).tport j = s.tport j := Tab.get_set_ne _ _ _ _ _ h

@[simp] theorem State.modBundle_bundle (s : State) (b : Nat) (f : TBundle → TBundle) : (s.modBundle b f).bundle b = f (s.bundle b) := Tab.get_set_self _ _ _ _

theorem State.modBundle_bundle_ne (s : State) (b : Nat) (f : TBundle → TBundle) (j : Nat) (h : j ≠ b) : (s.modBundle b f).bundle j = s.bundle j := Tab.get_set_ne _ _ _ _ _ h

@[simp] theorem State.modDeck_deck (s : State) (d : Nat) (f : Deck → Deck) : (s.modDeck d f).deck d = f (s.deck d) := Tab.get_set_self _ _ _ _

theorem State.modDeck_deck_ne (s : State) (d : Nat) (f : Deck → Deck) (j : Nat) (h : j ≠ d) : (s.modDeck d f).deck j = s.deck j := Tab.get_set_ne _ _ _ _ _ h

@[simp] theorem State.modSensor_sensor (s : State) (i : Nat) (f : Sensor → Sensor) : (s.modSensor i f).sensor i = f (s.sensor i) := Tab.get_set_self _ _ _ _

theorem State.modSensor_sensor_ne (s : State) (i : Nat) (f : Sensor → Sensor) (j : Nat) (h : j ≠ i) : (s.modSensor i f).sensor j = s.sensor j := Tab.get_set_ne _ _ _ _ _ h

@[simp] theorem State.setCtr_ctr (s : State) (a : Nat) (c : Ctr) : (s.setCtr a c).ctr a = c := Tab.get_set_self _ _ _ _

theorem State.setCtr_ctr_ne (s : State) (a : Nat) (c : Ctr) (j : Nat) (h : j ≠ a) : (s.setCtr a c).ctr j = s.ctr j := Tab.get_set_ne _ _ _ _ _ h

@[simp] theorem State.setTraceUnit_traceUnit (s : State) (p : Nat) (u : TraceUnit) : (s.setTraceUnit p u).traceUnit p = u := Tab.get_set_self _ _ _ _

theorem State.setTraceUnit_traceUnit_ne (s : State) (p : Nat) (u : TraceUnit) (j : Nat) (h : j ≠ p) : (s.setTraceUnit p u).traceUnit j = s.traceUnit j := Tab.get_set_ne _ _ _ _ _ h

@[simp] theorem State.modSlot_slot (s : State) (c n : Nat) (f : Slot → Slot) : (s.modSlot c n f).slot c n = f (s.slot c n) :=
  Tab.get_set_self _ _ _ _

theorem State.modSlot_slot_ne (s : State) (c n c' n' : Nat) (f : Slot → Slot) (h : slotKey c' n' ≠ slotKey c n) :
    (s.modSlot c n f).slot c' n' = s.slot c' n' := Tab.get_set_ne _ _ _ _ _ h

@[simp] theorem State.modPair_pair (s : State) (l n : Nat) (f : Pair → Pair) : (s.modPair l n f).pair l n = f (s.pair l n) :=
  Tab.get_set_self _ _ _ _

theorem State.modPair_pair_ne (s : State) (l n l' n' : Nat) (f : Pair → Pair) (h : pairKey l' n' ≠ pairKey l n) :
    (s.modPair l n f).pair l' n' = s.pair l' n' := Tab.get_set_ne _ _ _ _ _ h

/-- A queue set reads back, and the other queues of the tile are as they were. -/
@[simp] theorem Tile.setQueue_queue (T : Tile) (q : Nat) (v : Queue) : (T.setQueue q v).queue q = v :=
  match q with
  | 0 => rfl
  | 1 => rfl
  | 2 => rfl
  | _ + 3 => rfl

theorem Tile.setQueue_queue_ne (T : Tile) (q r : Nat) (v : Queue) (hq : q < 4) (hr : r < 4) (h : r ≠ q) : (T.setQueue q v).queue r = T.queue r := by
  have : q = 0 ∨ q = 1 ∨ q = 2 ∨ q = 3 := by omega
  have : r = 0 ∨ r = 1 ∨ r = 2 ∨ r = 3 := by omega
  rcases ‹q = 0 ∨ _› with rfl | rfl | rfl | rfl <;> rcases ‹r = 0 ∨ _› with rfl | rfl | rfl | rfl <;> first | rfl | exact absurd rfl h

@[simp] theorem State.setQueue_queue (s : State) (t q : Nat) (v : Queue) : (s.setQueue t q v).queue t q = v := by
  simp [State.setQueue, State.queue]

theorem State.setQueue_tile (s : State) (t q : Nat) (v : Queue) : (s.setQueue t q v).tile t = (s.tile t).setQueue q v := by
  simp [State.setQueue]

theorem State.setQueue_tile_ne (s : State) (t q : Nat) (v : Queue) (j : Nat) (h : j ≠ t) : (s.setQueue t q v).tile j = s.tile j :=
  State.modTile_tile_ne _ _ _ _ h

end Sys2Proof.Machine
end

