-- ==== Sys2Proof/Laws/Command.lean ====
section
/-!
SUPPORT. What the shared shell of every command does: the check of the operands, the pickup checks of a Belul command, and the frames that
follow from a mask.
-/

namespace Sys2Proof.Machine
open Sys2Proof

/-- A command whose operands name units has its effect. -/
theorem require_of {b : Bool} {s : State} (h : b = true) : require b s = .next s := by simp [require, h]

/-- A command whose operands name no unit stops. -/
theorem require_fault {b : Bool} {s : State} (h : b = false) : require b s = .fault .noSuchUnit := by simp [require, h]

/-- A command that answers a next state has checked its operands, and the state is its effect. -/
theorem require_next {b : Bool} {s t : State} (h : require b s = .next t) : b = true ∧ t = s := by
  unfold require at h
  split at h
  · cases h; exact ⟨‹_›, rfl⟩
  · cases h

/-- A command of the stated effect completes. -/
theorem Completes.of_eq {i : Instr} {s t : State} {P : State → Prop} (h : exec i s = .next t) (hp : P t) : Completes i s P := ⟨t, h, hp⟩

/-- The slot check of the operands is the one of well-formed commands. -/
theorem okReq_eq (r : Req) : okReq r = wfReq r := rfl

/-- Checks that all pass fail nowhere in the order in which they are made. -/
theorem firstBad_ordered {l : List (Bool × Nat)} (h : firstBad l = none) (p : Bool × Nat → Bool) :
    firstBad (l.filter p ++ l.filter fun x => !p x) = none := by
  rw [firstBad_none] at h ⊢
  intro x hx
  simp only [List.mem_append, List.mem_filter] at hx
  exact h x (hx.elim And.left And.left)

/-- A Belul command that is ready and passes its own checks acts. -/
theorem command_ready {r : Req} {op : Nat} {p : Picked} {s : State} (h : Ready r op p s) {bad : List (Bool × Nat)}
    {act : Picked → State → State} (hb : firstBad bad = none) : command r op bad 0 act s = act p s := by
  obtain ⟨h1, h2, h3, h4, h5, h6⟩ := h
  unfold command
  rw [h5]
  simp only [h6, h4, ne_eq, not_true_eq_false, false_and, or_self, if_false, h2, h3]
  have := firstBad_ordered hb ofParam
  rw [firstBad_append] at this
  simp [firstBad_append, firstBad, this]

/-- A Belul command that is ready and fails a check of its own is answered with that status. -/
theorem command_refused {r : Req} {op : Nat} {p : Picked} {s : State} (h : Ready r op p s) {bad : List (Bool × Nat)} {st : Nat}
    {act : Picked → State → State} (hb : firstBad (bad.filter ofParam ++ bad.filter fun x => !ofParam x) = some st) :
    command r op bad 0 act s = replyFinal s r.client r.slot p st (if st = bsBufShort then [(4, 0)] else []) := by
  obtain ⟨h1, h2, h3, h4, h5, h6⟩ := h
  unfold command
  rw [h5]
  simp only [h6, h4, ne_eq, not_true_eq_false, false_and, or_self, if_false, h2, h3]
  rw [firstBad_append] at hb
  simp [firstBad_append, firstBad, hb]

/-- A slot that holds no command is left alone. -/
theorem command_empty {r : Req} {op largest : Nat} {bad : List (Bool × Nat)} {act : Picked → State → State} {s : State}
    (h : (s.slot r.client r.slot).picked = none) : command r op bad largest act s = s := by
  unfold command
  rw [h]

/-- A logical tile of the node passes the check of the operands (R18). -/
theorem okTile_of {t : Nat} (h : t < 1296) : okTile t = true := decide_eq_true h

/-- A queue of a tile passes the check of the operands (R33). -/
theorem okTQ_of {t q : Nat} (h : t < 1296) (hq : q < 4) : okTQ t q = true := by
  rw [okTQ, decide_eq_true (show t < Config.tiles from h), decide_eq_true hq]
  rfl

/-- A channel of the pool passes the check of the operands (R189). -/
theorem okChan_of {c : Nat} (h : c < 512) : okChan c = true := decide_eq_true h

/-- A port of the node passes the check of the operands (R273). -/
theorem okPort_of {p : Nat} (h : p < 48) : decide (p < Config.ports) = true := decide_eq_true h

/-- A cluster of the node passes the check of the operands (R236). -/
theorem okCluster_of {c : Nat} (h : c < 24) : decide (c < Config.clusters) = true := decide_eq_true h

/-- A hart of the node passes the check of the operands (R236). -/
theorem okHart_of {h : Nat} (hh : h < 96) : decide (h < Config.harts) = true := decide_eq_true hh

@[simp] theorem forEach_nil {α : Type} (f : α → State → State) (s : State) : forEach [] f s = s := rfl

@[simp] theorem forEach_cons {α : Type} (a : α) (l : List α) (f : α → State → State) (s : State) :
    forEach (a :: l) f s = forEach l f (f a s) := rfl

theorem forEach_append {α : Type} (a b : List α) (f : α → State → State) (s : State) :
    forEach (a ++ b) f s = forEach b f (forEach a f s) := by
  induction a generalizing s with
  | nil => rfl
  | cons x xs ih => exact ih _

/-- What each element's step keeps, the whole keeps. -/
theorem forEach_keeps {α : Type} {P : State → Prop} {l : List α} {f : α → State → State} {s : State} (h : P s)
    (hf : ∀ a ∈ l, ∀ u, P u → P (f a u)) : P (forEach l f s) := by
  induction l generalizing s with
  | nil => exact h
  | cons x xs ih => exact ih (hf x (List.mem_cons_self ..) _ h) fun a ha u hu => hf a (List.mem_cons_of_mem _ ha) u hu

/-- A frozen counter counts nothing (R388). -/
theorem bump_frozen (s : State) (a n : Nat) (h : s.ctrs.frozen = true) : bump s a n = s := by simp [bump, h]

/-- A disabled HOSTINT entry discards its event (R253). -/
theorem raiseHost_disabled (s : State) (n : Nat) (h : (s.hint n).enable = false) : raiseHost s n = s := by simp [raiseHost, h]

end Sys2Proof.Machine
end

