-- ==== Sys2Proof/Laws/Core.lean ====
section
/-!
SUPPORT. What counting an event and retiring an instruction do to a tile and to the rest of the node (R24–R26, R389–R391).
-/

namespace Sys2Proof.Machine
open Sys2Proof

/-- A state differs from another at most in its counters, the free values drawn, and the thresholds that are due and the cycles of tile
`t`. -/
def CountedOn (t : Nat) (s u : State) : Prop :=
  (∃ ctrs tiles n, u = { s with ctrs := ctrs, tiles := tiles, free := n }) ∧ (∀ x, x ≠ t → u.tile x = s.tile x) ∧
    ∃ l c, u.tile t = { s.tile t with thrDue := l, core := { (s.tile t).core with mcycle := c } }

theorem CountedOn.refl (t : Nat) (s : State) : CountedOn t s s :=
  ⟨⟨s.ctrs, s.tiles, s.free, rfl⟩, fun _ _ => rfl, (s.tile t).thrDue, (s.tile t).core.mcycle, rfl⟩

theorem CountedOn.trans {t : Nat} {s u v : State} (h : CountedOn t s u) (g : CountedOn t u v) : CountedOn t s v := by
  obtain ⟨⟨c, T, n, rfl⟩, h2, l, y, h3⟩ := h
  obtain ⟨⟨c', T', n', rfl⟩, g2, l', y', g3⟩ := g
  exact ⟨⟨c', T', n', rfl⟩, fun x hx => (g2 x hx).trans (h2 x hx), l', y', by rw [g3, h3]⟩

theorem takeFree_counted (t : Nat) (s : State) : CountedOn t s s.takeFree :=
  ⟨⟨s.ctrs, s.tiles, s.free + 1, rfl⟩, fun _ _ => rfl, (s.tile t).thrDue, (s.tile t).core.mcycle, rfl⟩

theorem bump_counted (t : Nat) (s : State) (a n : Nat) : CountedOn t s (bump s a n) := by
  unfold bump
  split
  · exact CountedOn.refl t s
  · exact ⟨⟨_, _, _, rfl⟩, fun _ _ => rfl, (s.tile t).thrDue, (s.tile t).core.mcycle, rfl⟩

theorem countProg_counted (s : State) (t k n : Nat) : CountedOn t s (countProg s t k n) := by
  unfold countProg
  dsimp only
  split
  · refine (bump_counted t s _ n).trans ⟨⟨_, _, _, rfl⟩, fun x hx => ?_, _, _, State.modTile_tile ..⟩
    exact State.modTile_tile_ne _ _ _ _ hx
  · exact bump_counted t s _ n

/-- An event of a tile changes nothing but counters and the thresholds that fall due on that tile (R390, R391). -/
theorem tileEvent_counted (s : State) (t ev : Nat) (q : Option Nat) (n : Nat) : CountedOn t s (tileEvent s t ev q n) := by
  unfold tileEvent
  refine forEach_keeps (P := CountedOn t s) (CountedOn.refl t s) fun k _ u hu => ?_
  refine hu.trans ?_
  dsimp only
  repeat' split
  all_goals first | exact countProg_counted .. | exact CountedOn.refl t u

/-- Cycles counted under an event code. -/
theorem eventCycles_counted (s : State) (t ev : Nat) (q : Option Nat) : CountedOn t s (eventCycles s t ev q) :=
  (takeFree_counted t s).trans (tileEvent_counted ..)

/-- An always-on counter of a tile. -/
theorem countTile_counted (s : State) (t i n : Nat) : CountedOn t s (countTile s t i n) := bump_counted ..

/-- Cycles that pass at a tile (R389). -/
theorem tileCycles_counted (s : State) (t : Nat) : CountedOn t s (tileCycles s t) := by
  unfold tileCycles
  dsimp only
  have h : ∀ b : Bool, CountedOn t s (s.takeFree.modTile t fun T =>
      if b then { T with core := { T.core with mcycle := T.core.mcycle + BitVec.ofNat 64 s.freeVal } } else T) := by
    intro b
    refine ⟨⟨_, _, _, rfl⟩, fun x hx => State.modTile_tile_ne _ _ _ _ hx, ?_⟩
    cases b
    · exact ⟨(s.tile t).thrDue, (s.tile t).core.mcycle, State.modTile_tile ..⟩
    · exact ⟨(s.tile t).thrDue, _, State.modTile_tile ..⟩
  split
  · exact (h _).trans (countTile_counted ..)
  · exact h _

/-- An instruction that retires with dcsr.step 0 (R24, R26): its core, and what stays. -/
theorem retire_spec (s : State) (t len : Nat) (counts : Bool) (h : (s.tile t).core.dcsr.getLsbD 2 = false) :
    ∃ cyc due, (retire s t len counts).tile t =
        { s.tile t with
          core := { (s.tile t).core with
                    pc := (s.tile t).core.pc + BitVec.ofNat 32 len, mcycle := cyc,
                    minstret := if counts then (s.tile t).core.minstret + 1 else (s.tile t).core.minstret },
          thrDue := due } ∧
      (∀ x, x ≠ t → (retire s t len counts).tile x = s.tile x) ∧
      ∃ ctrs tiles n, retire s t len counts = { s with free := n, ctrs := ctrs, tiles := tiles } := by
  unfold retire
  dsimp only
  obtain ⟨⟨c, T, n, h1⟩, h2, l, y, h3⟩ :=
    ((tileEvent_counted (s.modCore t fun c =>
      { c with pc := c.pc + BitVec.ofNat 32 len, minstret := if counts then c.minstret + 1 else c.minstret }) t 0x05 none 1).trans
      (tileCycles_counted _ t)).trans (eventCycles_counted _ t 0x06 none)
  have hs : ∀ u : State, (u.tile t).core.dcsr.getLsbD 2 = false → stepHalt u t = u := by
    intro u hu
    unfold stepHalt
    rw [hu]
    rfl
  rw [hs _ (by rw [h3]; simp only [State.modCore, State.modTile_tile]; exact h)]
  refine ⟨y, l, ?_, fun x hx => ?_, c, T, n, ?_⟩
  · rw [h3]
    simp only [State.modCore, State.modTile_tile]
  · rw [h2 x hx]
    exact State.modTile_tile_ne _ _ _ _ hx
  · rw [h1]
    rfl

end Sys2Proof.Machine
end

