-- ==== Sys2Proof/Laws/Keep1.lean ====
section
/-!
SUPPORT. What each operation may change and that it keeps the invariant, part 1 of 9: a lemma cites those of the operations
that its operation calls. The mask of a lemma names the parts by their bits (`Part.code`).
-/

namespace Sys2Proof.Machine
open Sys2Proof

theorem State.setPier_le (s : State) (p : Nat) (v : Pier) : Le 32 s (State.setPier s p v) := by
  unfold State.setPier
  with_reducible refine Le.next (Le.piers ..) (by decide) ?_
  exact Le.refl _ _

theorem State.modCtrs_le (s : State) (f : Counters → Counters) : Le 524288 s (State.modCtrs s f) := by
  unfold State.modCtrs
  with_reducible refine Le.next (Le.ctrs ..) (by decide) ?_
  exact Le.refl _ _

theorem State.modChan_le (s : State) (c : Nat) (f : Chan → Chan) : Le 16 s (State.modChan s c f) := by
  unfold State.modChan
  with_reducible refine Le.next (Le.chans ..) (by decide) ?_
  exact Le.refl _ _

theorem State.takeFree_le (s : State) : Le 134217728 s (State.takeFree s) := by
  unfold State.takeFree
  with_reducible refine Le.next (Le.free ..) (by decide) ?_
  exact Le.refl _ _

theorem State.modPool_le (s : State) (f : Pool → Pool) (hf : PoolOk s.pool → PoolOk (f s.pool)) : Le 8 s (s.modPool f) := Le.pool s _ hf

theorem State.setHint_le (s : State) (n : Nat) (v : HostInt) : Le 256 s (State.setHint s n v) := by
  unfold State.setHint
  with_reducible refine Le.next (Le.hostint ..) (by decide) ?_
  exact Le.refl _ _

theorem State.modTruss_le (s : State) (f : Truss → Truss) : Le 536870912 s (State.modTruss s f) := by
  unfold State.modTruss
  with_reducible refine Le.next (Le.truss ..) (by decide) ?_
  exact Le.refl _ _

theorem setIdentity_le (s : State) (file : Nat) (ident : Nat) : Le 512 s (setIdentity s file ident) := by
  unfold setIdentity
  with_reducible refine Le.ite (fun _ => ?_) (fun _ => ?_)
  with_reducible refine Le.next (Le.imsic ..) (by decide) ?_
  exact Le.refl _ _
  exact Le.refl _ _

theorem State.send_le (s : State) (o : Out) : Le 67108864 s (State.send s o) := by
  unfold State.send
  with_reducible refine Le.next (Le.out ..) (by decide) ?_
  exact Le.refl _ _

theorem State.modBelul_le (s : State) (f : Belul → Belul) : Le 32768 s (State.modBelul s f) := by
  unfold State.modBelul
  with_reducible refine Le.next (Le.belul ..) (by decide) ?_
  exact Le.refl _ _

theorem State.modBoot_le (s : State) (f : Boot → Boot) (hf : BootOk s.boot → BootOk (f s.boot)) : Le 262144 s (s.modBoot f) := Le.boot s _ hf

theorem State.modWear_le (s : State) (f : Wear → Wear) : Le 2097152 s (State.modWear s f) := by
  unfold State.modWear
  with_reducible refine Le.next (Le.wear ..) (by decide) ?_
  exact Le.refl _ _

theorem State.setTile_le (s : State) (t : Nat) (v : Tile) : Le 1 s (State.setTile s t v) := by
  unfold State.setTile
  with_reducible refine Le.next (Le.tiles ..) (by decide) ?_
  exact Le.refl _ _

theorem State.modNode_le (s : State) (f : Node → Node) (hf : 10 ≤ s.node.timeout ∧ s.node.timeout ≤ 65535 → 10 ≤ (f s.node).timeout ∧ (f s.node).timeout ≤ 65535) : Le 4096 s (s.modNode f) := Le.node s _ hf

theorem State.setArb_le (s : State) (a : Nat) (v : Arb) : Le 128 s (State.setArb s a v) := by
  unfold State.setArb
  with_reducible refine Le.next (Le.arbs ..) (by decide) ?_
  exact Le.refl _ _

theorem State.modCluster_le (s : State) (c : Nat) (f : Cluster → Cluster) : Le 64 s (State.modCluster s c f) := by
  unfold State.modCluster
  with_reducible refine Le.next (Le.clusters ..) (by decide) ?_
  exact Le.refl _ _

theorem State.modSlot_le (s : State) (c : Nat) (n : Nat) (f : Slot → Slot) : Le 32768 s (State.modSlot s c n f) := by
  unfold State.modSlot
  with_reducible refine Le.next (Le.belul ..) (by decide) ?_
  exact Le.refl _ _

theorem State.modPair_le (s : State) (l : Nat) (n : Nat) (f : Pair → Pair) : Le 1024 s (State.modPair s l n f) := by
  unfold State.modPair
  with_reducible refine Le.next (Le.pairs ..) (by decide) ?_
  exact Le.refl _ _

theorem State.modPower_le (s : State) (f : Power → Power) : Le 131072 s (State.modPower s f) := by
  unfold State.modPower
  with_reducible refine Le.next (Le.power ..) (by decide) ?_
  exact Le.refl _ _

theorem State.modTick_le (s : State) (f : Tick → Tick) : Le 8192 s (State.modTick s f) := by
  unfold State.modTick
  with_reducible refine Le.next (Le.tick ..) (by decide) ?_
  exact Le.refl _ _

theorem State.modTalcy_le (s : State) (f : Talcy → Talcy) : Le 1048576 s (State.modTalcy s f) := by
  unfold State.modTalcy
  with_reducible refine Le.next (Le.talcy ..) (by decide) ?_
  exact Le.refl _ _

theorem State.modKs_le (s : State) (f : Keystone → Keystone) (hf : s.ks.invs.length ≤ 16 → (f s.ks).invs.length ≤ 16) : Le 4 s (s.modKs f) := Le.ks s _ hf

theorem State.ret_le (s : State) (v : Nat) : Le 33554432 s (State.ret s v) := by
  unfold State.ret
  with_reducible refine Le.next (Le.rdata ..) (by decide) ?_
  exact Le.refl _ _

theorem Work.fail_le (w : Work) (st : Nat) (detail : Nat) : Le 0 w.s (Work.fail w st detail).s := by
  unfold Work.fail
  exact Le.refl _ _

theorem Work.flag_le (w : Work) (f : EFlags) : Le 0 w.s (Work.flag w f).s := by
  unfold Work.flag
  exact Le.refl _ _

theorem Work.satSeen_le (w : Work) (f : EFlags) : Le 0 w.s (Work.satSeen w f).s := by
  unfold Work.satSeen
  with_reducible refine Le.iteP (fun w : Work => w.s) (fun _ => ?_) (fun _ => ?_)
  exact Le.refl _ _
  exact Le.refl _ _

theorem Work.put_le (w : Work) (off : Nat) (bytes : List Byte) : Le 0 w.s (Work.put w off bytes).s := by
  unfold Work.put
  exact Le.refl _ _

theorem Work.putMem_le (w : Work) (j : Nat) (va : Nat) (bytes : List Byte) : Le 0 w.s (Work.putMem w j va bytes).s := by
  unfold Work.putMem
  exact Le.refl _ _

theorem Work.crcIn_le (w : Work) (c : ChainCfg) (fromX : Bool) (bytes : List Byte) : Le 0 w.s (Work.crcIn w c fromX bytes).s := by
  unfold Work.crcIn
  with_reducible refine Le.iteP (fun w : Work => w.s) (fun _ => ?_) (fun _ => ?_)
  exact Le.refl _ _
  exact Le.refl _ _

theorem Work.pickRow_le (w : Work) (c : ChainCfg) (e : Elem) (j : Nat) : Le 0 w.s (Work.pickRow w c e j).s := by
  unfold Work.pickRow
  with_reducible refine Le.iteP (fun w : Work => w.s) (fun _ => ?_) (fun _ => ?_)
  exact Le.refl _ _
  exact Le.refl _ _

theorem State.modJob_le (s : State) (f : Job → Job) : Le 16384 s (State.modJob s f) := by
  unfold State.modJob
  with_reducible refine Le.next (Le.job ..) (by decide) ?_
  exact Le.refl _ _

theorem regChange_le {m : Nat} {s0 : State} (v : View) (t : Nat) (f : State → State) (s : State) (h : Le m s0 s) (hf : Le m s0 (f s)) :
    Le m s0 (regChange v t f s) := by
  unfold regChange
  split
  · exact hf
  · exact h

theorem setAddr_le (s : State) (a : Option (BitVec 7)) : Le 65536 s (setAddr s a) := by
  unfold setAddr
  with_reducible refine Le.next (Le.i3c ..) (by decide) ?_
  exact Le.refl _ _

theorem doEnec_le (s : State) : Le 65536 s (doEnec s) := by
  unfold doEnec
  with_reducible refine Le.ite (fun _ => ?_) (fun _ => ?_)
  exact Le.refl _ _
  with_reducible refine Le.next (Le.i3c ..) (by decide) ?_
  exact Le.refl _ _

theorem doDisec_le (s : State) : Le 65536 s (doDisec s) := by
  unfold doDisec
  with_reducible refine Le.ite (fun _ => ?_) (fun _ => ?_)
  exact Le.refl _ _
  with_reducible refine Le.next (Le.i3c ..) (by decide) ?_
  exact Le.refl _ _

theorem doHbmCalibration_le (_ch : Nat) (s : State) : Le 0 s (doHbmCalibration _ch s) := by
  unfold doHbmCalibration
  exact Le.refl _ _

theorem Move.put_le (m : Move) (far : Bool) (dst : TRec) (pos : Nat) (a : Nat) (bytes : List Byte) : Le 0 m.i.s (Move.put m far dst pos a bytes).i.s := by
  unfold Move.put
  dsimp only
  with_reducible refine Le.iteP (fun w : Move => w.i.s) (fun _ => ?_) (fun _ => ?_)
  exact Le.refl _ _
  exact Le.refl _ _

theorem State.modPier_le (s : State) (p : Nat) (f : Pier → Pier) : Le 32 s (State.modPier s p f) := by
  unfold State.modPier
  with_reducible refine Le.next (State.setPier_le ..) (by decide) ?_
  exact Le.refl _ _

theorem State.setCtr_le (s : State) (a : Nat) (c : Ctr) : Le 524288 s (State.setCtr s a c) := by
  unfold State.setCtr
  with_reducible refine Le.next (State.modCtrs_le ..) (by decide) ?_
  exact Le.refl _ _

theorem innerCorrected_le (s : State) (cw : Nat) : Le 24 s (innerCorrected s cw) := by
  unfold innerCorrected
  with_reducible refine Le.next (State.modChan_le ..) (by decide) ?_
  with_reducible refine Le.next (State.modPool_le _ _ ?_) (by decide) ?_
  with_reducible exact fun h => PoolOk.of h rfl rfl rfl
  exact Le.refl _ _

theorem queueRepair_le (s : State) (r : RowLoc) : Le 16 s (queueRepair s r) := by
  unfold queueRepair
  with_reducible refine Le.ite (fun _ => ?_) (fun _ => ?_)
  exact Le.refl _ _
  with_reducible refine Le.next (State.modChan_le ..) (by decide) ?_
  exact Le.refl _ _

theorem State.modTPort_le (s : State) (k : Nat) (f : TPort → TPort) : Le 536870912 s (State.modTPort s k f) := by
  unfold State.modTPort
  with_reducible refine Le.next (State.modTruss_le ..) (by decide) ?_
  exact Le.refl _ _

theorem State.modBundle_le (s : State) (b : Nat) (f : TBundle → TBundle) : Le 536870912 s (State.modBundle s b f) := by
  unfold State.modBundle
  with_reducible refine Le.next (State.modTruss_le ..) (by decide) ?_
  exact Le.refl _ _

theorem countBadCommit_le (s : State) (c : Nat) : Le 32768 s (countBadCommit s c) := by
  unfold countBadCommit
  with_reducible refine Le.next (State.modBelul_le ..) (by decide) ?_
  exact Le.refl _ _

theorem addRec_le (s : State) (kind : Nat) (key : Nat) (data : List Nat) : Le 262144 s (addRec s kind key data) := by
  unfold addRec
  with_reducible refine Le.next (State.modBoot_le _ _ ?_) (by decide) ?_
  with_reducible exact fun h => BootOk.of h rfl rfl
  exact Le.refl _ _

theorem State.modTile_le (s : State) (t : Nat) (f : Tile → Tile) : Le 1 s (State.modTile s t f) := by
  unfold State.modTile
  with_reducible refine Le.next (State.setTile_le ..) (by decide) ?_
  exact Le.refl _ _

theorem State.modPort_le (s : State) (p : Nat) (f : OPort → OPort) : Le 4096 s (State.modPort s p f) := by
  unfold State.modPort
  with_reducible refine Le.next (State.modNode_le _ _ ?_) (by decide) ?_
  with_reducible exact fun h => h
  exact Le.refl _ _

theorem noteRefusal_le (s : State) (cause : Nat) : Le 4096 s (noteRefusal s cause) := by
  unfold noteRefusal
  with_reducible refine Le.next (State.modNode_le _ _ ?_) (by decide) ?_
  with_reducible exact fun h => h
  exact Le.refl _ _

theorem State.modArb_le (s : State) (a : Nat) (f : Arb → Arb) : Le 128 s (State.modArb s a f) := by
  unfold State.modArb
  with_reducible refine Le.next (State.setArb_le ..) (by decide) ?_
  exact Le.refl _ _

theorem putReply_le (s : State) (c : Nat) (n : Nat) (p : Picked) (r : Reply) : Le 32768 s (putReply s c n p r) := by
  unfold putReply
  dsimp only
  with_reducible refine Le.next (State.modSlot_le ..) (by decide) ?_
  exact Le.refl _ _

theorem modOp_le (s : State) (h : Nat) (f : LongOp → LongOp) : Le 32768 s (modOp s h f) := by
  unfold modOp
  with_reducible refine Le.next (State.modBelul_le ..) (by decide) ?_
  exact Le.refl _ _

theorem extendMeas_le (s : State) (reg : Nat) (typ : Nat) (data : List Byte) : Le 262144 s (extendMeas s reg typ data) := by
  unfold extendMeas
  dsimp only
  with_reducible refine Le.next (State.modBoot_le _ _ ?_) (by decide) ?_
  with_reducible exact fun h => BootOk.of h rfl rfl
  exact Le.refl _ _

theorem State.setTraceUnit_le (s : State) (p : Nat) (u : TraceUnit) : Le 1048576 s (State.setTraceUnit s p u) := by
  unfold State.setTraceUnit
  with_reducible refine Le.next (State.modTalcy_le ..) (by decide) ?_
  exact Le.refl _ _

theorem loseRequest_le (a : Nat) (r : CReq) (s : State) : Le 67108928 s (loseRequest a r s) := by
  unfold loseRequest
  with_reducible refine Le.ite (fun _ => ?_) (fun _ => ?_)
  with_reducible refine Le.next (State.send_le ..) (by decide) ?_
  exact Le.refl _ _
  with_reducible refine Le.ite (fun _ => ?_) (fun _ => ?_)
  exact Le.refl _ _
  with_reducible refine Le.next (State.modCluster_le ..) (by decide) ?_
  exact Le.refl _ _

theorem doRecordCompaction_le (s : State) : Le 262144 s (doRecordCompaction s) := by
  unfold doRecordCompaction
  with_reducible refine Le.ite (fun _ => ?_) (fun _ => ?_)
  exact Le.refl _ _
  with_reducible refine Le.next (State.modBoot_le _ _ ?_) (by decide) ?_
  with_reducible exact fun h => BootOk.of h rfl rfl
  exact Le.refl _ _

theorem doRecoverySessionTimeout_le (s : State) : Le 262144 s (doRecoverySessionTimeout s) := by
  unfold doRecoverySessionTimeout
  with_reducible refine Le.next (State.modBoot_le _ _ ?_) (by decide) ?_
  with_reducible exact fun h => BootOk.of h rfl rfl
  exact Le.refl _ _

theorem doBootCauseRead_le (ev : BitVec 10) (s : State) : Le 33816576 s (doBootCauseRead ev s) := by
  unfold doBootCauseRead
  with_reducible refine Le.next (State.modBoot_le _ _ ?_) (by decide) ?_
  with_reducible exact fun h => BootOk.of h rfl rfl
  with_reducible refine Le.next (State.ret_le ..) (by decide) ?_
  exact Le.refl _ _

theorem doDierstRead_le (ev : BitVec 16) (s : State) : Le 33816576 s (doDierstRead ev s) := by
  unfold doDierstRead
  with_reducible refine Le.next (State.modBoot_le _ _ ?_) (by decide) ?_
  with_reducible exact fun h => BootOk.of h rfl rfl
  with_reducible refine Le.next (State.ret_le ..) (by decide) ?_
  exact Le.refl _ _

theorem Work.touchMem_le (w : Work) (va : Nat) (n : Nat) : Le 0 w.s (Work.touchMem w va n).s := by
  unfold Work.touchMem
  split
  with_reducible refine Le.next (Work.fail_le ..) (by decide) ?_
  exact Le.refl _ _
  exact Le.refl _ _

theorem Work.putResult_le (w : Work) (c : ChainCfg) (v : Val) : Le 0 w.s (Work.putResult w c v).s := by
  unfold Work.putResult
  dsimp only
  with_reducible refine Le.iteP (fun w : Work => w.s) (fun _ => ?_) (fun _ => ?_)
  with_reducible refine Le.next (Work.put_le ..) (by decide) ?_
  split
  with_reducible refine Le.next (Work.put_le ..) (by decide) ?_
  with_reducible refine Le.next (Work.flag_le ..) (by decide) ?_
  exact Le.refl _ _
  with_reducible refine Le.next (Work.flag_le ..) (by decide) ?_
  exact Le.refl _ _
  split
  with_reducible refine Le.next (Work.put_le ..) (by decide) ?_
  with_reducible refine Le.next (Work.flag_le ..) (by decide) ?_
  exact Le.refl _ _
  with_reducible refine Le.next (Work.flag_le ..) (by decide) ?_
  exact Le.refl _ _

theorem Work.reduce_le (w : Work) (c : ChainCfg) (v : Val) (m : Bool) : Le 0 w.s (Work.reduce w c v m).s := by
  unfold Work.reduce
  dsimp only
  with_reducible refine Le.iteP (fun w : Work => w.s) (fun _ => ?_) (fun _ => ?_)
  exact Le.refl _ _
  dsimp only
  with_reducible refine Le.next (Work.flag_le ..) (by decide) ?_
  exact Le.refl _ _

theorem Work.putD_le (w : Work) (c : ChainCfg) (d : TRec) (a : Nat) (bytes : List Byte) : Le 0 w.s (Work.putD w c d a bytes).s := by
  unfold Work.putD
  dsimp only
  with_reducible refine Le.iteP (fun w : Work => w.s) (fun _ => ?_) (fun _ => ?_)
  with_reducible refine Le.next (Work.putMem_le ..) (by decide) ?_
  with_reducible refine Le.next (Work.crcIn_le ..) (by decide) ?_
  exact Le.refl _ _
  with_reducible refine Le.next (Work.put_le ..) (by decide) ?_
  with_reducible refine Le.next (Work.crcIn_le ..) (by decide) ?_
  exact Le.refl _ _

theorem Work.crcElem_le (w : Work) (c : ChainCfg) (i0 : Nat) (raw : Nat) (sc : Nat) : Le 0 w.s (Work.crcElem w c i0 raw sc).s := by
  unfold Work.crcElem
  with_reducible refine Le.iteP (fun w : Work => w.s) (fun _ => ?_) (fun _ => ?_)
  exact Le.refl _ _
  dsimp only
  with_reducible refine Le.iteP (fun w : Work => w.s) (fun _ => ?_) (fun _ => ?_)
  dsimp only
  with_reducible refine Le.next (Work.crcIn_le ..) (by decide) ?_
  with_reducible refine Le.next (Work.crcIn_le ..) (by decide) ?_
  with_reducible refine Le.iteP (fun w : Work => w.s) (fun _ => ?_) (fun _ => ?_)
  with_reducible refine Le.next (Work.crcIn_le ..) (by decide) ?_
  exact Le.refl _ _
  exact Le.refl _ _
  dsimp only
  with_reducible refine Le.next (Work.crcIn_le ..) (by decide) ?_
  with_reducible refine Le.iteP (fun w : Work => w.s) (fun _ => ?_) (fun _ => ?_)
  with_reducible refine Le.next (Work.crcIn_le ..) (by decide) ?_
  exact Le.refl _ _
  exact Le.refl _ _

theorem poisonedCws_le (s : State) (cws : List Nat) : Le 134217728 s (poisonedCws s cws).1 := by
  unfold poisonedCws
  dsimp only
  with_reducible refine Le.next (State.takeFree_le ..) (by decide) ?_
  exact Le.refl _ _

theorem withFlips_le {m : Nat} {s0 : State} (fl : Flips) (f : State → State) (s : State)
    (hm : 536870912 ||| m = m) (h : Le m s0 s) (hf : ∀ u, Le m s0 u → Le m s0 (f u)) : Le m s0 (withFlips fl f s) := by
  unfold withFlips
  refine Le.next (State.modTruss_le ..) hm (hf _ ?_)
  exact Le.next (State.modTruss_le ..) hm h

theorem doSeteipnumWrite_le (addr : Nat) (val : W32) (s : State) : Le 512 s (doSeteipnumWrite addr val s) := by
  unfold doSeteipnumWrite
  split
  with_reducible refine Le.ite (fun _ => ?_) (fun _ => ?_)
  with_reducible refine Le.next (setIdentity_le ..) (by decide) ?_
  exact Le.refl _ _
  exact Le.refl _ _
  exact Le.refl _ _

theorem modColl_le (s : State) (seq : Nat) (f : Coll → Coll) : Le 16384 s (modColl s seq f) := by
  unfold modColl
  with_reducible refine Le.next (State.modJob_le ..) (by decide) ?_
  exact Le.refl _ _

theorem addressed_le (s : State) (p : Pkt) : Le 134217728 s (addressed s p).1 := by
  unfold addressed
  split
  exact Le.refl _ _
  dsimp only
  with_reducible refine Le.next (State.takeFree_le ..) (by decide) ?_
  exact Le.refl _ _

theorem doJobMissedRead_le (ev : Nat) (s : State) : Le 33570816 s (doJobMissedRead ev s) := by
  unfold doJobMissedRead
  with_reducible refine Le.next (State.modJob_le ..) (by decide) ?_
  with_reducible refine Le.next (State.ret_le ..) (by decide) ?_
  exact Le.refl _ _

theorem doJobFlagsRead_le (ev : Nat) (s : State) : Le 33570816 s (doJobFlagsRead ev s) := by
  unfold doJobFlagsRead
  with_reducible refine Le.next (State.modJob_le ..) (by decide) ?_
  with_reducible refine Le.next (State.ret_le ..) (by decide) ?_
  exact Le.refl _ _

theorem doJobTickloRead_le (s : State) : Le 33570816 s (doJobTickloRead s) := by
  unfold doJobTickloRead
  with_reducible refine Le.next (State.modJob_le ..) (by decide) ?_
  with_reducible refine Le.next (State.ret_le ..) (by decide) ?_
  exact Le.refl _ _

theorem scheduleFreeze_le (s : State) (tick : Nat) (thaw : Bool) : Le 524288 s (scheduleFreeze s tick thaw) := by
  unfold scheduleFreeze
  with_reducible refine Le.next (State.modCtrs_le ..) (by decide) ?_
  exact Le.refl _ _

theorem touchExtent_le (s : State) (x : Extent) : Le 4 s (touchExtent s x) := by
  unfold touchExtent
  with_reducible refine Le.next (State.modKs_le _ _ ?_) (by decide) ?_
  with_reducible exact fun h => h
  exact Le.refl _ _

theorem hostFaults_le (s : State) (hart : Nat) (addr : Nat) (cause : Nat) : Le 67108864 s (hostFaults s hart addr cause) := by
  unfold hostFaults
  with_reducible refine Le.next (State.send_le ..) (by decide) ?_
  exact Le.refl _ _

theorem State.setExp_le (s : State) (e : Nat) (v : Export) : Le 4096 s (State.setExp s e v) := by
  unfold State.setExp
  with_reducible refine Le.next (State.modNode_le _ _ ?_) (by decide) ?_
  with_reducible exact fun h => h
  exact Le.refl _ _

theorem slotWrite_le (c : Nat) (off : Nat) (val : W32) (s : State) : Le 32768 s (slotWrite c off val s) := by
  unfold slotWrite
  with_reducible refine Le.ite (fun _ => ?_) (fun _ => ?_)
  with_reducible refine Le.next (State.modBelul_le ..) (by decide) ?_
  exact Le.refl _ _
  exact Le.refl _ _

theorem doExit_le (v : View) (t : Nat) (code : W32) (a3 : State) : Le 1 a3 (doExit v t code a3) := by
  unfold doExit
  with_reducible refine regChange_le _ _ _ _ ?_ ?_
  exact Le.refl _ _
  dsimp only
  with_reducible refine Le.ite (fun _ => ?_) (fun _ => ?_)
  with_reducible refine Le.next (State.setTile_le ..) (by decide) ?_
  exact Le.refl _ _
  exact Le.refl _ _

theorem tileRwWrite_le (v : View) (t : Nat) (off : Nat) (val : W32) (s : State) : Le 1 s (tileRwWrite v t off val s) := by
  unfold tileRwWrite
  dsimp only
  with_reducible refine Le.ite (fun _ => ?_) (fun _ => ?_)
  with_reducible refine Le.next (State.setTile_le ..) (by decide) ?_
  exact Le.refl _ _
  with_reducible refine Le.ite (fun _ => ?_) (fun _ => ?_)
  with_reducible refine Le.ite (fun _ => ?_) (fun _ => ?_)
  exact Le.refl _ _
  with_reducible refine Le.next (State.setTile_le ..) (by decide) ?_
  exact Le.refl _ _
  with_reducible refine Le.ite (fun _ => ?_) (fun _ => ?_)
  split
  exact Le.refl _ _
  with_reducible refine Le.next (State.setTile_le ..) (by decide) ?_
  exact Le.refl _ _
  with_reducible refine Le.ite (fun _ => ?_) (fun _ => ?_)
  with_reducible refine Le.next (State.setTile_le ..) (by decide) ?_
  exact Le.refl _ _
  with_reducible refine Le.ite (fun _ => ?_) (fun _ => ?_)
  with_reducible refine Le.next (State.setTile_le ..) (by decide) ?_
  exact Le.refl _ _
  with_reducible refine Le.ite (fun _ => ?_) (fun _ => ?_)
  with_reducible refine Le.next (State.setTile_le ..) (by decide) ?_
  exact Le.refl _ _
  exact Le.refl _ _

theorem memchWrite_le (ch : Nat) (off : Nat) (val : W32) (s : State) : Le 16 s (memchWrite ch off val s) := by
  unfold memchWrite
  split
  with_reducible refine Le.ite (fun _ => ?_) (fun _ => ?_)
  exact Le.refl _ _
  with_reducible refine Le.next (State.modChan_le ..) (by decide) ?_
  exact Le.refl _ _
  with_reducible refine Le.next (State.modChan_le ..) (by decide) ?_
  exact Le.refl _ _
  with_reducible refine Le.next (State.modChan_le ..) (by decide) ?_
  exact Le.refl _ _
  exact Le.refl _ _

theorem scrubWrite_le (val : W32) (s : State) : Le 8 s (scrubWrite val s) := by
  unfold scrubWrite
  dsimp only
  with_reducible refine Le.next (State.modPool_le _ _ ?_) (by decide) ?_
  exact fun h => ⟨h.1, h.2.1, by dsimp only; split; assumption; exact h.2.2⟩
  exact Le.refl _ _

theorem nodeWrite_le (off : Nat) (val : W32) (s : State) : Le 4096 s (nodeWrite off val s) := by
  unfold nodeWrite
  dsimp only
  split
  with_reducible refine Le.next (State.modNode_le _ _ ?_) (by decide) ?_
  with_reducible exact fun h => h
  exact Le.refl _ _
  with_reducible refine Le.next (State.modNode_le _ _ ?_) (by decide) ?_
  exact fun h => by dsimp only; split; exact ⟨‹_›, by have := Nat.mod_lt (val.toNat / 2 ^ 0) (show 0 < 2 ^ 16 by decide); unfold fld; omega⟩; exact h
  exact Le.refl _ _
  exact Le.refl _ _

theorem jobWrite_le (off : Nat) (val : W32) (s : State) : Le 16384 s (jobWrite off val s) := by
  unfold jobWrite
  with_reducible refine Le.ite (fun _ => ?_) (fun _ => ?_)
  exact Le.refl _ _
  split
  with_reducible refine Le.next (State.modJob_le ..) (by decide) ?_
  exact Le.refl _ _
  with_reducible refine Le.next (State.modJob_le ..) (by decide) ?_
  exact Le.refl _ _
  exact Le.refl _ _

theorem powerWrite_le (off : Nat) (val : W32) (s : State) : Le 131072 s (powerWrite off val s) := by
  unfold powerWrite
  split
  with_reducible refine Le.next (State.modPower_le ..) (by decide) ?_
  exact Le.refl _ _
  with_reducible refine Le.next (State.modPower_le ..) (by decide) ?_
  exact Le.refl _ _
  with_reducible refine Le.next (State.modPower_le ..) (by decide) ?_
  exact Le.refl _ _
  exact Le.refl _ _

theorem State.modWindow_le (s : State) (w : Nat) (f : Window → Window) : Le 4096 s (State.modWindow s w f) := by
  unfold State.modWindow
  with_reducible refine Le.next (State.modNode_le _ _ ?_) (by decide) ?_
  with_reducible exact fun h => h
  exact Le.refl _ _

theorem clearErr_le (s : State) (c : Nat) (ovr : Nat) (bad : Nat) : Le 32768 s (clearErr s c ovr bad) := by
  unfold clearErr
  with_reducible refine Le.next (State.modBelul_le ..) (by decide) ?_
  exact Le.refl _ _

theorem doEntdaa_le (a : BitVec 7) (s : State) : Le 65536 s (doEntdaa a s) := by
  unfold doEntdaa
  with_reducible refine Le.ite (fun _ => ?_) (fun _ => ?_)
  exact Le.refl _ _
  with_reducible refine Le.next (setAddr_le ..) (by decide) ?_
  exact Le.refl _ _

theorem doRstdaa_le (s : State) : Le 65536 s (doRstdaa s) := by
  unfold doRstdaa
  with_reducible refine Le.ite (fun _ => ?_) (fun _ => ?_)
  exact Le.refl _ _
  with_reducible refine Le.next (setAddr_le ..) (by decide) ?_
  exact Le.refl _ _

theorem doSetnewda_le (a : BitVec 7) (s : State) : Le 65536 s (doSetnewda a s) := by
  unfold doSetnewda
  with_reducible refine Le.ite (fun _ => ?_) (fun _ => ?_)
  exact Le.refl _ _
  with_reducible refine Le.next (setAddr_le ..) (by decide) ?_
  exact Le.refl _ _

theorem answer_le (bytes : List Nat) (s : State) : Le 67108864 s (answer bytes s) := by
  unfold answer
  with_reducible refine Le.ite (fun _ => ?_) (fun _ => ?_)
  exact Le.refl _ _
  with_reducible refine Le.next (State.send_le ..) (by decide) ?_
  exact Le.refl _ _

theorem endTraffic_le (s : State) (chs : List Nat) : Le 24 s (endTraffic s chs) := by
  unfold endTraffic
  dsimp only
  with_reducible refine Le.ite (fun _ => ?_) (fun _ => ?_)
  with_reducible refine Le.next (State.modPool_le _ _ ?_) (by decide) ?_
  with_reducible exact fun h => PoolOk.of h rfl rfl rfl
  with_reducible refine Le.forEach ?_ (fun x u hu => ?_)
  exact Le.refl _ _
  with_reducible refine Le.next (State.modChan_le ..) (by decide) ?_
  with_reducible assumption
  with_reducible refine Le.forEach ?_ (fun x u hu => ?_)
  exact Le.refl _ _
  with_reducible refine Le.next (State.modChan_le ..) (by decide) ?_
  with_reducible assumption

theorem upsetCw_le (s : State) (e : Nat × BitVec 576) : Le 8 s (upsetCw s e) := by
  unfold upsetCw
  with_reducible refine Le.ite (fun _ => ?_) (fun _ => ?_)
  exact Le.refl _ _
  with_reducible refine Le.next (State.modPool_le _ _ ?_) (by decide) ?_
  with_reducible exact fun h => PoolOk.of h rfl rfl rfl
  exact Le.refl _ _

theorem putExtent_le (s : State) (x : Extent) : Le 4 s (putExtent s x) := by
  unfold putExtent
  with_reducible refine Le.next (State.modKs_le _ _ ?_) (by decide) ?_
  with_reducible exact fun h => h
  exact Le.refl _ _

theorem startInvalidate_le (s : State) (tag : Nat) : Le 4 s (startInvalidate s tag) := by
  unfold startInvalidate
  dsimp only
  with_reducible refine Le.next (State.modKs_le _ _ ?_) (by decide) ?_
  with_reducible exact fun h => h
  exact Le.refl _ _

theorem startPosition_le (s : State) (r : Req) (h : Nat) (pos : Nat) : Le 32768 s (startPosition s r h pos) := by
  unfold startPosition
  dsimp only
  with_reducible refine Le.next (State.modSlot_le ..) (by decide) ?_
  with_reducible refine Le.next (State.modBelul_le ..) (by decide) ?_
  exact Le.refl _ _

theorem doOverflowRead_le (ev : Nat) (s : State) : Le 33554436 s (doOverflowRead ev s) := by
  unfold doOverflowRead
  with_reducible refine Le.next (State.ret_le ..) (by decide) ?_
  with_reducible refine Le.next (State.modKs_le _ _ ?_) (by decide) ?_
  with_reducible exact fun h => h
  exact Le.refl _ _

theorem doNodeRefuseRead_le (ev : Nat) (s : State) : Le 33558528 s (doNodeRefuseRead ev s) := by
  unfold doNodeRefuseRead
  with_reducible refine Le.next (State.modNode_le _ _ ?_) (by decide) ?_
  with_reducible exact fun h => h
  with_reducible refine Le.next (State.ret_le ..) (by decide) ?_
  exact Le.refl _ _

theorem doMemchStatusRead_le (ch : Nat) (ev : Nat) (s : State) : Le 33554448 s (doMemchStatusRead ch ev s) := by
  unfold doMemchStatusRead
  dsimp only
  with_reducible refine Le.next (State.modChan_le ..) (by decide) ?_
  with_reducible refine Le.next (State.ret_le ..) (by decide) ?_
  exact Le.refl _ _

theorem doErrcntRead_le (ch : Nat) (evInner : Nat) (evOuter : Nat) (evUe : Nat) (s : State) : Le 33554448 s (doErrcntRead ch evInner evOuter evUe s) := by
  unfold doErrcntRead
  dsimp only
  with_reducible refine Le.next (State.modChan_le ..) (by decide) ?_
  with_reducible refine Le.next (State.ret_le ..) (by decide) ?_
  exact Le.refl _ _

theorem State.modDeck_le (s : State) (d : Nat) (f : Deck → Deck) : Le 131072 s (State.modDeck s d f) := by
  unfold State.modDeck
  with_reducible refine Le.next (State.modPower_le ..) (by decide) ?_
  exact Le.refl _ _

theorem State.modSensor_le (s : State) (i : Nat) (f : Sensor → Sensor) : Le 131072 s (State.modSensor s i f) := by
  unfold State.modSensor
  with_reducible refine Le.next (State.modPower_le ..) (by decide) ?_
  exact Le.refl _ _

theorem deliver_le (s : State) (p : Nat) (line : Nat) (sectors : BitVec 4) : Le 67108864 s (deliver s p line sectors) := by
  unfold deliver
  with_reducible refine Le.ite (fun _ => ?_) (fun _ => ?_)
  exact Le.refl _ _
  dsimp only
  with_reducible refine Le.next (State.send_le ..) (by decide) ?_
  exact Le.refl _ _

theorem doDroopRead_le (ev : Nat) (s : State) : Le 33685504 s (doDroopRead ev s) := by
  unfold doDroopRead
  with_reducible refine Le.next (State.modPower_le ..) (by decide) ?_
  with_reducible refine Le.next (State.ret_le ..) (by decide) ?_
  exact Le.refl _ _

theorem doOvercapRead_le (ev : Nat) (s : State) : Le 33685504 s (doOvercapRead ev s) := by
  unfold doOvercapRead
  with_reducible refine Le.next (State.modPower_le ..) (by decide) ?_
  with_reducible refine Le.next (State.ret_le ..) (by decide) ?_
  exact Le.refl _ _

theorem doTripRead_le (s : State) : Le 33685504 s (doTripRead s) := by
  unfold doTripRead
  with_reducible refine Le.next (State.modPower_le ..) (by decide) ?_
  with_reducible refine Le.next (State.ret_le ..) (by decide) ?_
  exact Le.refl _ _

theorem unparkCluster_le (c : Nat) (s : State) : Le 64 s (unparkCluster c s) := by
  unfold unparkCluster
  with_reducible refine Le.next (State.modCluster_le ..) (by decide) ?_
  exact Le.refl _ _

end Sys2Proof.Machine
end

