-- ==== Sys2Proof/Laws/Keep2.lean ====
section
/-!
SUPPORT. What each operation may change and that it keeps the invariant, part 2 of 9: a lemma cites those of the operations
that its operation calls. The mask of a lemma names the parts by their bits (`Part.code`).
-/

namespace Sys2Proof.Machine
open Sys2Proof

theorem portsOff_le (s : State) : Le 4096 s (portsOff s) := by
  unfold portsOff
  with_reducible refine Le.next (State.modNode_le _ _ ?_) (by decide) ?_
  with_reducible exact fun h => h
  exact Le.refl _ _

theorem doTalcyStatusRead_le (ev : Nat) (s : State) : Le 34603008 s (doTalcyStatusRead ev s) := by
  unfold doTalcyStatusRead
  with_reducible refine Le.next (State.modTalcy_le ..) (by decide) ?_
  with_reducible refine Le.next (State.ret_le ..) (by decide) ?_
  exact Le.refl _ _

theorem doCntctlFreezeRead_le (ev : Bool) (s : State) : Le 34078720 s (doCntctlFreezeRead ev s) := by
  unfold doCntctlFreezeRead
  with_reducible refine Le.next (State.modCtrs_le ..) (by decide) ?_
  with_reducible refine Le.next (State.ret_le ..) (by decide) ?_
  exact Le.refl _ _

theorem doFailstreakClear_le (s : State) : Le 262144 s (doFailstreakClear s) := by
  unfold doFailstreakClear
  with_reducible refine Le.ite (fun _ => ?_) (fun _ => ?_)
  with_reducible refine Le.next (State.modBoot_le _ _ ?_) (by decide) ?_
  exact fun h => ⟨Nat.zero_le _, h.2⟩
  exact Le.refl _ _
  exact Le.refl _ _

theorem doModResetRelease_le (s : State) : Le 262144 s (doModResetRelease s) := by
  unfold doModResetRelease
  with_reducible refine Le.next (State.modBoot_le _ _ ?_) (by decide) ?_
  with_reducible exact fun h => BootOk.of h rfl rfl
  exact Le.refl _ _

theorem doParentUsable_le (port : Nat) (tick : W64) (s : State) : Le 8192 s (doParentUsable port tick s) := by
  unfold doParentUsable
  with_reducible refine Le.ite (fun _ => ?_) (fun _ => ?_)
  exact Le.refl _ _
  with_reducible refine Le.next (State.modTick_le ..) (by decide) ?_
  exact Le.refl _ _

theorem doTickLockAcquired_le (s : State) : Le 8192 s (doTickLockAcquired s) := by
  unfold doTickLockAcquired
  with_reducible refine Le.ite (fun _ => ?_) (fun _ => ?_)
  with_reducible refine Le.next (State.modTick_le ..) (by decide) ?_
  exact Le.refl _ _
  exact Le.refl _ _

theorem doParentLost_le (next : Option Nat) (s : State) : Le 8192 s (doParentLost next s) := by
  unfold doParentLost
  with_reducible refine Le.ite (fun _ => ?_) (fun _ => ?_)
  exact Le.refl _ _
  split
  with_reducible refine Le.ite (fun _ => ?_) (fun _ => ?_)
  with_reducible refine Le.next (State.modTick_le ..) (by decide) ?_
  exact Le.refl _ _
  exact Le.refl _ _
  with_reducible refine Le.next (State.modTick_le ..) (by decide) ?_
  exact Le.refl _ _

theorem doTickNumloRead_le (s : State) : Le 33562624 s (doTickNumloRead s) := by
  unfold doTickNumloRead
  with_reducible refine Le.next (State.modTick_le ..) (by decide) ?_
  with_reducible refine Le.next (State.ret_le ..) (by decide) ?_
  exact Le.refl _ _

theorem doFrztickloRead_le (s : State) : Le 34078720 s (doFrztickloRead s) := by
  unfold doFrztickloRead
  with_reducible refine Le.next (State.modCtrs_le ..) (by decide) ?_
  with_reducible refine Le.next (State.ret_le ..) (by decide) ?_
  exact Le.refl _ _

theorem doBstatRead_le (l : Nat) (n : Nat) (ev : Nat) (s : State) : Le 33555456 s (doBstatRead l n ev s) := by
  unfold doBstatRead
  with_reducible refine Le.next (State.modPair_le ..) (by decide) ?_
  with_reducible refine Le.next (State.ret_le ..) (by decide) ?_
  exact Le.refl _ _

theorem doWearUnmetRead_le (ev : Nat) (s : State) : Le 35651584 s (doWearUnmetRead ev s) := by
  unfold doWearUnmetRead
  with_reducible refine Le.next (State.modWear_le ..) (by decide) ?_
  with_reducible refine Le.next (State.ret_le ..) (by decide) ?_
  exact Le.refl _ _

theorem bump_le (s : State) (a : Nat) (n : Nat) : Le 524288 s (bump s a n) := by
  unfold bump
  with_reducible refine Le.ite (fun _ => ?_) (fun _ => ?_)
  exact Le.refl _ _
  with_reducible refine Le.next (State.setCtr_le ..) (by decide) ?_
  exact Le.refl _ _

theorem noteRow_le (s : State) (r : RowLoc) : Le 16 s (noteRow s r) := by
  unfold noteRow
  dsimp only
  with_reducible refine Le.ite (fun _ => ?_) (fun _ => ?_)
  with_reducible refine Le.next (queueRepair_le ..) (by decide) ?_
  with_reducible refine Le.next (State.modChan_le ..) (by decide) ?_
  exact Le.refl _ _
  with_reducible refine Le.next (State.modChan_le ..) (by decide) ?_
  exact Le.refl _ _

theorem bundleBack_le (ch : Nat) (b : Nat) (s : State) : Le 671088640 s (bundleBack ch b s) := by
  unfold bundleBack
  dsimp only
  with_reducible refine Le.ite (fun _ => ?_) (fun _ => ?_)
  with_reducible refine Le.ite (fun _ => ?_) (fun _ => ?_)
  exact Le.refl _ _
  with_reducible refine Le.next (State.takeFree_le ..) (by decide) ?_
  with_reducible refine Le.next (State.modBundle_le ..) (by decide) ?_
  exact Le.refl _ _
  with_reducible refine Le.next (State.takeFree_le ..) (by decide) ?_
  with_reducible refine Le.next (State.modBundle_le ..) (by decide) ?_
  with_reducible refine Le.ite (fun _ => ?_) (fun _ => ?_)
  exact Le.refl _ _
  with_reducible refine Le.next (State.takeFree_le ..) (by decide) ?_
  with_reducible refine Le.next (State.modBundle_le ..) (by decide) ?_
  exact Le.refl _ _

theorem countCe_le (s : State) (p : Nat) : Le 32 s (countCe s p) := by
  unfold countCe
  with_reducible refine Le.next (State.modPier_le ..) (by decide) ?_
  exact Le.refl _ _

theorem creditBack_le (x : Nat) (vc : Nat) (s : State) : Le 134221824 s (creditBack x vc s) := by
  unfold creditBack
  dsimp only
  with_reducible refine Le.ite (fun _ => ?_) (fun _ => ?_)
  exact Le.refl _ _
  with_reducible refine Le.next (State.takeFree_le ..) (by decide) ?_
  with_reducible refine Le.next (State.modPort_le ..) (by decide) ?_
  exact Le.refl _ _

theorem ackBack_le (x : Nat) (s : State) : Le 134221824 s (ackBack x s) := by
  unfold ackBack
  dsimp only
  with_reducible refine Le.ite (fun _ => ?_) (fun _ => ?_)
  exact Le.refl _ _
  with_reducible refine Le.next (State.takeFree_le ..) (by decide) ?_
  with_reducible refine Le.next (State.modPort_le ..) (by decide) ?_
  exact Le.refl _ _

theorem leavePort_le (x : Nat) (e : Nat × Nat × Out) (s : State) : Le 67112960 s (leavePort x e s) := by
  unfold leavePort
  dsimp only
  with_reducible refine Le.next (State.send_le ..) (by decide) ?_
  with_reducible refine Le.next (State.modPort_le ..) (by decide) ?_
  exact Le.refl _ _

theorem touchLine_le (s : State) (p : Nat) (line : Nat) : Le 32 s (touchLine s p line) := by
  unfold touchLine
  split
  with_reducible refine Le.next (State.modPier_le ..) (by decide) ?_
  exact Le.refl _ _
  exact Le.refl _ _

theorem allocLine_le (s : State) (p : Nat) (line : Nat) (fresh : Bool) : Le 32 s (allocLine s p line fresh) := by
  unfold allocLine
  split
  with_reducible refine Le.next (State.modPier_le ..) (by decide) ?_
  exact Le.refl _ _
  exact Le.refl _ _

theorem addFills_le (s : State) (p : Nat) (cws : List Nat) (allocate : Bool) (prefetch : Bool) : Le 32 s (addFills s p cws allocate prefetch) := by
  unfold addFills
  with_reducible refine Le.next (State.modPier_le ..) (by decide) ?_
  exact Le.refl _ _

theorem fillCw_le (s : State) (p : Nat) (cw : Nat) (d : BitVec 512) (poison : Bool) : Le 32 s (fillCw s p cw d poison) := by
  unfold fillCw
  dsimp only
  with_reducible refine Le.next (State.modPier_le ..) (by decide) ?_
  exact Le.refl _ _

theorem openTrans_le (s : State) (a : Nat) (t : Trans) : Le 128 s (openTrans s a t) := by
  unfold openTrans
  with_reducible refine Le.next (State.modArb_le ..) (by decide) ?_
  exact Le.refl _ _

theorem modTrans_le (s : State) (a : Nat) (line : Nat) (f : Trans → Trans) : Le 128 s (modTrans s a line f) := by
  unfold modTrans
  with_reducible refine Le.next (State.modArb_le ..) (by decide) ?_
  exact Le.refl _ _

theorem showPosition_le (s : State) (h : Nat) : Le 32768 s (showPosition s h) := by
  unfold showPosition
  dsimp only
  split
  exact Le.refl _ _
  with_reducible refine Le.ite (fun _ => ?_) (fun _ => ?_)
  exact Le.refl _ _
  split
  exact Le.refl _ _
  with_reducible refine Le.next (putReply_le ..) (by decide) ?_
  with_reducible refine Le.next (modOp_le ..) (by decide) ?_
  exact Le.refl _ _

theorem measureRom_le (s : State) (img : List Byte) : Le 262144 s (measureRom s img) := by
  unfold measureRom
  dsimp only
  with_reducible refine Le.next (extendMeas_le ..) (by decide) ?_
  with_reducible refine Le.next (extendMeas_le ..) (by decide) ?_
  with_reducible refine Le.next (extendMeas_le ..) (by decide) ?_
  exact Le.refl _ _

theorem measureDies_le (s : State) : Le 262144 s (measureDies s) := by
  unfold measureDies
  with_reducible refine Le.next (extendMeas_le ..) (by decide) ?_
  exact Le.refl _ _

theorem commitInit_le (s : State) (rate : Nat) (key : W64) : Le 262152 s (commitInit s rate key) := by
  unfold commitInit
  dsimp only
  with_reducible refine Le.next (extendMeas_le ..) (by decide) ?_
  with_reducible refine Le.next (State.modPool_le _ _ ?_) (by decide) ?_
  with_reducible exact fun h => PoolOk.of h rfl rfl rfl
  exact Le.refl _ _

theorem hardRepair_le (r : RowLoc) (s : State) : Le 134479880 s (hardRepair r s) := by
  unfold hardRepair
  dsimp only
  with_reducible refine Le.ite (fun _ => ?_) (fun _ => ?_)
  with_reducible refine Le.next (addRec_le ..) (by decide) ?_
  with_reducible refine Le.next (State.modPool_le _ _ ?_) (by decide) ?_
  with_reducible exact fun h => PoolOk.of h rfl rfl rfl
  with_reducible refine Le.next (State.takeFree_le ..) (by decide) ?_
  exact Le.refl _ _
  with_reducible refine Le.next (State.modPool_le _ _ ?_) (by decide) ?_
  with_reducible exact fun h => PoolOk.of h rfl rfl rfl
  with_reducible refine Le.next (State.takeFree_le ..) (by decide) ?_
  exact Le.refl _ _

theorem State.setQueue_le (s : State) (t : Nat) (q : Nat) (v : Queue) : Le 1 s (State.setQueue s t q v) := by
  unfold State.setQueue
  with_reducible refine Le.next (State.modTile_le ..) (by decide) ?_
  exact Le.refl _ _

theorem gatherTrace_le (s : State) (p : Nat) : Le 1048576 s (gatherTrace s p) := by
  unfold gatherTrace
  dsimp only
  with_reducible refine Le.next (State.modTalcy_le ..) (by decide) ?_
  with_reducible refine Le.next (State.setTraceUnit_le ..) (by decide) ?_
  exact Le.refl _ _

theorem resetCtr_le (s : State) (a : Nat) (ev : Nat) : Le 524288 s (resetCtr s a ev) := by
  unfold resetCtr
  with_reducible refine Le.next (State.modCtrs_le ..) (by decide) ?_
  with_reducible refine Le.next (State.setCtr_le ..) (by decide) ?_
  exact Le.refl _ _

theorem flushSpace_le (t : Nat) (s : State) : Le 524288 s (flushSpace t s) := by
  unfold flushSpace
  with_reducible refine Le.forEach ?_ (fun x u hu => ?_)
  exact Le.refl _ _
  dsimp only
  with_reducible refine Le.ite (fun _ => ?_) (fun _ => ?_)
  with_reducible assumption
  with_reducible refine Le.next (State.modCtrs_le ..) (by decide) ?_
  with_reducible refine Le.next (State.setCtr_le ..) (by decide) ?_
  with_reducible assumption

theorem markDegraded_le (s : State) (key : Nat) (data : List Nat) : Le 264192 s (markDegraded s key data) := by
  unfold markDegraded
  with_reducible refine Le.next (addRec_le ..) (by decide) ?_
  with_reducible refine Le.ite (fun _ => ?_) (fun _ => ?_)
  exact Le.refl _ _
  with_reducible refine Le.next (Le.degraded ..) (by decide) ?_
  exact Le.refl _ _

theorem lockLine_le (s : State) (p : Nat) (line : Nat) : Le 32 s (lockLine s p line) := by
  unfold lockLine
  dsimp only
  split
  with_reducible refine Le.next (State.modPier_le ..) (by decide) ?_
  exact Le.refl _ _
  with_reducible refine Le.ite (fun _ => ?_) (fun _ => ?_)
  exact Le.refl _ _
  with_reducible refine Le.ite (fun _ => ?_) (fun _ => ?_)
  with_reducible refine Le.next (State.modPier_le ..) (by decide) ?_
  exact Le.refl _ _
  with_reducible refine Le.next (State.modPier_le ..) (by decide) ?_
  exact Le.refl _ _

theorem rangeStart_le (op : Nat) (start : Nat) (len : Nat) (s : State) : Le 32 s (rangeStart op start len s) := by
  unfold rangeStart
  with_reducible refine Le.forEach ?_ (fun x u hu => ?_)
  exact Le.refl _ _
  with_reducible refine Le.next (State.modPier_le ..) (by decide) ?_
  with_reducible assumption

theorem rangeStop_le (s : State) : Le 32 s (rangeStop s) := by
  unfold rangeStop
  with_reducible refine Le.forEach ?_ (fun x u hu => ?_)
  exact Le.refl _ _
  with_reducible refine Le.next (State.modPier_le ..) (by decide) ?_
  with_reducible assumption

theorem enableWay_le (s : State) (p : Nat) (w : Nat) : Le 32 s (enableWay s p w) := by
  unfold enableWay
  with_reducible refine Le.next (State.modPier_le ..) (by decide) ?_
  exact Le.refl _ _

theorem disableWay_le (s : State) (p : Nat) (w : Nat) : Le 32 s (disableWay s p w) := by
  unfold disableWay
  with_reducible refine Le.next (State.modPier_le ..) (by decide) ?_
  exact Le.refl _ _

theorem powerDownWay_le (s : State) (p : Nat) (w : Nat) : Le 32 s (powerDownWay s p w) := by
  unfold powerDownWay
  with_reducible refine Le.next (State.modPier_le ..) (by decide) ?_
  exact Le.refl _ _

theorem doWaystatRead_le (p : Nat) (ev : Bool) (s : State) : Le 33554464 s (doWaystatRead p ev s) := by
  unfold doWaystatRead
  with_reducible refine Le.next (State.modPier_le ..) (by decide) ?_
  with_reducible refine Le.next (State.ret_le ..) (by decide) ?_
  exact Le.refl _ _

theorem doPcacheErrRead_le (p : Nat) (evCe : Nat) (evData : Nat) (evTag : Nat) (evBuf : Nat) (s : State) : Le 33554464 s (doPcacheErrRead p evCe evData evTag evBuf s) := by
  unfold doPcacheErrRead
  with_reducible refine Le.next (State.modPier_le ..) (by decide) ?_
  with_reducible refine Le.next (State.ret_le ..) (by decide) ?_
  exact Le.refl _ _

theorem modChain_le (s : State) (t : Nat) (f : ChainRun → ChainRun) : Le 1 s (modChain s t f) := by
  unfold modChain
  with_reducible refine Le.next (State.modTile_le ..) (by decide) ?_
  exact Le.refl _ _

theorem markPoison_le (s : State) (run : ChainRun) (va : Nat) (n : Nat) : Le 134217728 s (markPoison s run va n).1 := by
  unfold markPoison
  dsimp only
  with_reducible refine Le.next (poisonedCws_le ..) (by decide) ?_
  exact Le.refl _ _

theorem storePut_le (s : State) (t : Nat) (off : Nat) (bytes : List Byte) : Le 1 s (storePut s t off bytes) := by
  unfold storePut
  with_reducible refine Le.next (State.modTile_le ..) (by decide) ?_
  exact Le.refl _ _

theorem poisonOf_le (s : State) (cws : List (Nat × Nat)) : Le 134217728 s (poisonOf s cws).1 := by
  unfold poisonOf
  dsimp only
  with_reducible refine Le.next (poisonedCws_le ..) (by decide) ?_
  exact Le.refl _ _

theorem raiseSrc_le (s : State) (t : Nat) (n : Nat) : Le 1 s (raiseSrc s t n) := by
  unfold raiseSrc
  with_reducible refine Le.next (State.modTile_le ..) (by decide) ?_
  exact Le.refl _ _

theorem doHomearbStatusRead_le (a : Nat) (ev : Nat) (s : State) : Le 33554560 s (doHomearbStatusRead a ev s) := by
  unfold doHomearbStatusRead
  with_reducible refine Le.next (State.ret_le ..) (by decide) ?_
  with_reducible refine Le.next (State.modArb_le ..) (by decide) ?_
  exact Le.refl _ _

theorem scheduleAt_le (c : Coll) (t : Nat) (jt : Nat) (s : State) : Le 16384 s (scheduleAt c t jt s) := by
  unfold scheduleAt
  dsimp only
  with_reducible refine Le.ite (fun _ => ?_) (fun _ => ?_)
  exact Le.refl _ _
  with_reducible refine Le.forEach ?_ (fun x u hu => ?_)
  exact Le.refl _ _
  with_reducible refine Le.ite (fun _ => ?_) (fun _ => ?_)
  with_reducible assumption
  split
  with_reducible assumption
  with_reducible refine Le.next (modColl_le ..) (by decide) ?_
  with_reducible assumption

theorem served_le (s : State) (t : Nat) (q : Nat) (engine : Nat) : Le 1 s (served s t q engine) := by
  unfold served
  split
  with_reducible refine Le.next (State.modTile_le ..) (by decide) ?_
  exact Le.refl _ _
  with_reducible refine Le.next (State.modTile_le ..) (by decide) ?_
  exact Le.refl _ _
  exact Le.refl _ _

theorem queueTrace_le (s : State) (p : Nat) (r : TraceRec) : Le 1048576 s (queueTrace s p r) := by
  unfold queueTrace
  with_reducible refine Le.ite (fun _ => ?_) (fun _ => ?_)
  exact Le.refl _ _
  with_reducible refine Le.next (State.setTraceUnit_le ..) (by decide) ?_
  exact Le.refl _ _

theorem copyWord_le (t : Nat) (e : Nat × Nat) (s : State) : Le 134217729 s (copyWord t e s) := by
  unfold copyWord
  dsimp only
  with_reducible refine Le.ite (fun _ => ?_) (fun _ => ?_)
  exact Le.refl _ _
  with_reducible refine Le.ite (fun _ => ?_) (fun _ => ?_)
  with_reducible refine Le.next (State.modTile_le ..) (by decide) ?_
  exact Le.refl _ _
  with_reducible refine Le.ite (fun _ => ?_) (fun _ => ?_)
  with_reducible refine Le.next (State.modTile_le ..) (by decide) ?_
  with_reducible refine Le.next (State.takeFree_le ..) (by decide) ?_
  exact Le.refl _ _
  with_reducible refine Le.next (State.modTile_le ..) (by decide) ?_
  with_reducible refine Le.next (State.modTile_le ..) (by decide) ?_
  with_reducible refine Le.next (State.takeFree_le ..) (by decide) ?_
  with_reducible refine Le.next (State.takeFree_le ..) (by decide) ?_
  exact Le.refl _ _

theorem startDrain_le (s : State) (t : Nat) (to_ : DrainTo) : Le 1 s (startDrain s t to_) := by
  unfold startDrain
  with_reducible refine Le.next (State.modTile_le ..) (by decide) ?_
  exact Le.refl _ _

theorem askHalt_le (s : State) (t : Nat) (cause : Nat) (all : Bool) : Le 1 s (askHalt s t cause all) := by
  unfold askHalt
  with_reducible refine Le.ite (fun _ => ?_) (fun _ => ?_)
  with_reducible refine Le.next (State.modTile_le ..) (by decide) ?_
  exact Le.refl _ _
  exact Le.refl _ _

theorem resumeTile_le (s : State) (t : Nat) : Le 1 s (resumeTile s t) := by
  unfold resumeTile
  with_reducible refine Le.next (State.modTile_le ..) (by decide) ?_
  exact Le.refl _ _

theorem dropCopies_le (s : State) (line : Nat) : Le 192 s (dropCopies s line) := by
  unfold dropCopies
  dsimp only
  with_reducible refine Le.next (State.modArb_le ..) (by decide) ?_
  with_reducible refine Le.forEach ?_ (fun x u hu => ?_)
  exact Le.refl _ _
  with_reducible refine Le.next (State.modCluster_le ..) (by decide) ?_
  with_reducible assumption

theorem doExportEntryWrite_le (e : Nat) (size : Nat) (val : W64) (s : State) : Le 4096 s (doExportEntryWrite e size val s) := by
  unfold doExportEntryWrite
  with_reducible refine Le.ite (fun _ => ?_) (fun _ => ?_)
  exact Le.refl _ _
  with_reducible refine Le.next (State.setExp_le ..) (by decide) ?_
  exact Le.refl _ _

theorem State.modCore_le (s : State) (t : Nat) (f : Core → Core) : Le 1 s (State.modCore s t f) := by
  unfold State.modCore
  with_reducible refine Le.next (State.modTile_le ..) (by decide) ?_
  exact Le.refl _ _

theorem doRxcfgWrite_le (v : View) (t : Nat) (n : Nat) (val : W32) (a4 : State) : Le 1 a4 (doRxcfgWrite v t n val a4) := by
  unfold doRxcfgWrite
  with_reducible refine regChange_le _ _ _ _ ?_ ?_
  exact Le.refl _ _
  with_reducible refine Le.next (State.modTile_le ..) (by decide) ?_
  exact Le.refl _ _

theorem doRxtailWrite_le (v : View) (t : Nat) (n : Nat) (val : W32) (a4 : State) : Le 1 a4 (doRxtailWrite v t n val a4) := by
  unfold doRxtailWrite
  with_reducible refine regChange_le _ _ _ _ ?_ ?_
  exact Le.refl _ _
  dsimp only
  with_reducible refine Le.ite (fun _ => ?_) (fun _ => ?_)
  with_reducible refine Le.next (State.modTile_le ..) (by decide) ?_
  exact Le.refl _ _
  exact Le.refl _ _

theorem doPendSet_le (v : View) (t : Nat) (hi : Bool) (val : W32) (a4 : State) : Le 1 a4 (doPendSet v t hi val a4) := by
  unfold doPendSet
  with_reducible refine regChange_le _ _ _ _ ?_ ?_
  exact Le.refl _ _
  with_reducible refine Le.next (State.modTile_le ..) (by decide) ?_
  exact Le.refl _ _

theorem doPendClr_le (v : View) (t : Nat) (hi : Bool) (val : W32) (hw : W32) (a5 : State) : Le 1 a5 (doPendClr v t hi val hw a5) := by
  unfold doPendClr
  with_reducible refine regChange_le _ _ _ _ ?_ ?_
  exact Le.refl _ _
  with_reducible refine Le.next (State.modTile_le ..) (by decide) ?_
  exact Le.refl _ _

theorem doMaskSet_le (v : View) (t : Nat) (hi : Bool) (val : W32) (a4 : State) : Le 1 a4 (doMaskSet v t hi val a4) := by
  unfold doMaskSet
  with_reducible refine regChange_le _ _ _ _ ?_ ?_
  exact Le.refl _ _
  with_reducible refine Le.next (State.modTile_le ..) (by decide) ?_
  exact Le.refl _ _

theorem doMaskClr_le (v : View) (t : Nat) (hi : Bool) (val : W32) (set : W32) (a5 : State) : Le 1 a5 (doMaskClr v t hi val set a5) := by
  unfold doMaskClr
  with_reducible refine regChange_le _ _ _ _ ?_ ?_
  exact Le.refl _ _
  with_reducible refine Le.next (State.modTile_le ..) (by decide) ?_
  exact Le.refl _ _

theorem doImportOpen_le (w : Nat) (val : W32) (s : State) : Le 4096 s (doImportOpen w val s) := by
  unfold doImportOpen
  with_reducible refine Le.next (State.modWindow_le ..) (by decide) ?_
  exact Le.refl _ _

theorem doI3cPrivateRead_le (n : Nat) (s : State) : Le 67207168 s (doI3cPrivateRead n s) := by
  unfold doI3cPrivateRead
  with_reducible refine Le.ite (fun _ => ?_) (fun _ => ?_)
  exact Le.refl _ _
  dsimp only
  with_reducible refine Le.next (Le.i3c ..) (by decide) ?_
  with_reducible refine Le.ite (fun _ => ?_) (fun _ => ?_)
  with_reducible refine Le.next (clearErr_le ..) (by decide) ?_
  with_reducible refine Le.next (State.send_le ..) (by decide) ?_
  exact Le.refl _ _
  with_reducible refine Le.next (State.send_le ..) (by decide) ?_
  exact Le.refl _ _

theorem doGetpid_le (s : State) : Le 67108864 s (doGetpid s) := by
  unfold doGetpid
  with_reducible refine Le.next (answer_le ..) (by decide) ?_
  exact Le.refl _ _

theorem doGetbcr_le (s : State) : Le 67108864 s (doGetbcr s) := by
  unfold doGetbcr
  with_reducible refine Le.next (answer_le ..) (by decide) ?_
  exact Le.refl _ _

theorem doGetdcr_le (s : State) : Le 67108864 s (doGetdcr s) := by
  unfold doGetdcr
  with_reducible refine Le.next (answer_le ..) (by decide) ?_
  exact Le.refl _ _

theorem doGetstatus_le (s : State) : Le 201326592 s (doGetstatus s) := by
  unfold doGetstatus
  dsimp only
  with_reducible refine Le.next (answer_le ..) (by decide) ?_
  with_reducible refine Le.next (State.takeFree_le ..) (by decide) ?_
  exact Le.refl _ _

theorem doGetmwl_le (s : State) : Le 67108864 s (doGetmwl s) := by
  unfold doGetmwl
  with_reducible refine Le.next (answer_le ..) (by decide) ?_
  exact Le.refl _ _

theorem doGetmrl_le (s : State) : Le 67108864 s (doGetmrl s) := by
  unfold doGetmrl
  with_reducible refine Le.next (answer_le ..) (by decide) ?_
  exact Le.refl _ _

theorem sendControl_le (s : State) (x : Nat) (o : Out) : Le 67112960 s (sendControl s x o) := by
  unfold sendControl
  with_reducible refine Le.next (State.send_le ..) (by decide) ?_
  with_reducible refine Le.next (State.modPort_le ..) (by decide) ?_
  exact Le.refl _ _

theorem recordPeer_le (s : State) (p : Nat) : Le 262144 s (recordPeer s p) := by
  unfold recordPeer
  with_reducible refine Le.next (addRec_le ..) (by decide) ?_
  exact Le.refl _ _

theorem openPort_le (s : State) (p : Nat) : Le 4096 s (openPort s p) := by
  unfold openPort
  with_reducible refine Le.next (State.modPort_le ..) (by decide) ?_
  exact Le.refl _ _

theorem doFlitReplay_le (port : Nat) (fseq : Nat) (s : State) : Le 67112960 s (doFlitReplay port fseq s) := by
  unfold doFlitReplay
  with_reducible refine Le.ite (fun _ => ?_) (fun _ => ?_)
  exact Le.refl _ _
  dsimp only
  with_reducible refine Le.forEach ?_ (fun x u hu => ?_)
  with_reducible refine Le.next (State.send_le ..) (by decide) ?_
  with_reducible refine Le.next (State.modPort_le ..) (by decide) ?_
  exact Le.refl _ _
  with_reducible refine Le.next (State.send_le ..) (by decide) ?_
  with_reducible assumption

theorem doOportErrRead_le (p : Nat) (evRep : Nat) (evFec : Nat) (s : State) : Le 33558528 s (doOportErrRead p evRep evFec s) := by
  unfold doOportErrRead
  with_reducible refine Le.next (State.modPort_le ..) (by decide) ?_
  with_reducible refine Le.next (State.ret_le ..) (by decide) ?_
  exact Le.refl _ _

theorem countRefused_le (s : State) (t : Nat) (chan : Nat) (cause : Nat) : Le 1 s (countRefused s t chan cause) := by
  unfold countRefused
  with_reducible refine Le.next (State.modTile_le ..) (by decide) ?_
  exact Le.refl _ _

theorem doDvfsAdjust_le (s : State) : Le 131072 s (doDvfsAdjust s) := by
  unfold doDvfsAdjust
  with_reducible refine Le.ite (fun _ => ?_) (fun _ => ?_)
  exact Le.refl _ _
  with_reducible refine Le.forEach ?_ (fun x u hu => ?_)
  exact Le.refl _ _
  with_reducible refine Le.next (State.modDeck_le ..) (by decide) ?_
  with_reducible assumption

theorem applyTherm_le (s : State) : Le 131072 s (applyTherm s) := by
  unfold applyTherm
  with_reducible refine Le.forEach ?_ (fun x u hu => ?_)
  exact Le.refl _ _
  with_reducible refine Le.next (State.modDeck_le ..) (by decide) ?_
  with_reducible assumption

theorem thermAct_le (s : State) (i : Nat) : Le 131136 s (thermAct s i) := by
  unfold thermAct
  dsimp only
  with_reducible refine Le.ite (fun _ => ?_) (fun _ => ?_)
  with_reducible refine Le.ite (fun _ => ?_) (fun _ => ?_)
  with_reducible refine Le.next (State.modDeck_le ..) (by decide) ?_
  exact Le.refl _ _
  with_reducible refine Le.ite (fun _ => ?_) (fun _ => ?_)
  with_reducible refine Le.next (State.modDeck_le ..) (by decide) ?_
  exact Le.refl _ _
  exact Le.refl _ _
  with_reducible refine Le.ite (fun _ => ?_) (fun _ => ?_)
  with_reducible refine Le.ite (fun _ => ?_) (fun _ => ?_)
  with_reducible refine Le.forEach ?_ (fun x u hu => ?_)
  exact Le.refl _ _
  with_reducible refine Le.next (State.modDeck_le ..) (by decide) ?_
  with_reducible assumption
  exact Le.refl _ _
  with_reducible refine Le.ite (fun _ => ?_) (fun _ => ?_)
  with_reducible refine Le.forEach ?_ (fun x u hu => ?_)
  exact Le.refl _ _
  with_reducible refine Le.next (State.modCluster_le ..) (by decide) ?_
  with_reducible assumption
  with_reducible refine Le.ite (fun _ => ?_) (fun _ => ?_)
  with_reducible refine Le.forEach ?_ (fun x u hu => ?_)
  exact Le.refl _ _
  with_reducible refine Le.next (State.modCluster_le ..) (by decide) ?_
  with_reducible assumption
  exact Le.refl _ _

theorem localClocks_le (p : Nat) (s : State) : Le 131072 s (localClocks p s) := by
  unfold localClocks
  with_reducible refine Le.forEach ?_ (fun x u hu => ?_)
  exact Le.refl _ _
  with_reducible refine Le.next (State.modDeck_le ..) (by decide) ?_
  with_reducible assumption

theorem doTempRead_le (i : Nat) (s : State) : Le 33685504 s (doTempRead i s) := by
  unfold doTempRead
  with_reducible refine Le.next (State.modSensor_le ..) (by decide) ?_
  with_reducible refine Le.next (State.ret_le ..) (by decide) ?_
  exact Le.refl _ _

theorem resumeClusters_le (s : State) : Le 64 s (resumeClusters s) := by
  unfold resumeClusters
  with_reducible refine Le.forEach ?_ (fun x u hu => ?_)
  exact Le.refl _ _
  with_reducible refine Le.next (unparkCluster_le ..) (by decide) ?_
  with_reducible assumption

theorem doBelulErrRead_le (c : Nat) (evOver : Nat) (evBad : Nat) (s : State) : Le 33587200 s (doBelulErrRead c evOver evBad s) := by
  unfold doBelulErrRead
  with_reducible refine Le.next (clearErr_le ..) (by decide) ?_
  with_reducible refine Le.next (State.ret_le ..) (by decide) ?_
  exact Le.refl _ _

theorem doPcieWindowAccess_le (hostint : Bool) (write : Bool) (hart : Nat) (addr : Nat) (size : Nat) (val : W64) (up : Bool) (s : State) : Le 201359360 s (doPcieWindowAccess hostint write hart addr size val up s) := by
  unfold doPcieWindowAccess
  dsimp only
  with_reducible refine Le.ite (fun _ => ?_) (fun _ => ?_)
  with_reducible refine Le.ite (fun _ => ?_) (fun _ => ?_)
  with_reducible refine Le.next (countBadCommit_le ..) (by decide) ?_
  exact Le.refl _ _
  with_reducible refine Le.next (State.send_le ..) (by decide) ?_
  exact Le.refl _ _
  with_reducible refine Le.ite (fun _ => ?_) (fun _ => ?_)
  with_reducible refine Le.next (State.send_le ..) (by decide) ?_
  exact Le.refl _ _
  with_reducible refine Le.next (State.send_le ..) (by decide) ?_
  with_reducible refine Le.next (State.takeFree_le ..) (by decide) ?_
  with_reducible refine Le.next (State.send_le ..) (by decide) ?_
  exact Le.refl _ _

theorem mretEffect_le (s : State) (t : Nat) : Le 1 s (mretEffect s t) := by
  unfold mretEffect
  with_reducible refine Le.next (State.modTile_le ..) (by decide) ?_
  exact Le.refl _ _

theorem upsetWord_le (s : State) (t : Nat) (addr : Nat) (n : Nat) : Le 1 s (upsetWord s t addr n) := by
  unfold upsetWord
  with_reducible refine Le.ite (fun _ => ?_) (fun _ => ?_)
  exact Le.refl _ _
  with_reducible refine Le.next (State.modTile_le ..) (by decide) ?_
  exact Le.refl _ _

theorem enterEvent_le (s : State) (t : Nat) (n : Nat) : Le 1 s (enterEvent s t n) := by
  unfold enterEvent
  with_reducible refine Le.next (State.modTile_le ..) (by decide) ?_
  exact Le.refl _ _

theorem applySettings_le (s : State) : Le 131104 s (applySettings s) := by
  unfold applySettings
  dsimp only
  split
  with_reducible refine Le.next (State.modPower_le ..) (by decide) ?_
  with_reducible refine Le.ite (fun _ => ?_) (fun _ => ?_)
  with_reducible refine Le.forEach ?_ (fun x u hu => ?_)
  with_reducible refine Le.next (State.modPower_le ..) (by decide) ?_
  exact Le.refl _ _
  with_reducible refine Le.next (State.modPier_le ..) (by decide) ?_
  with_reducible assumption
  exact Le.refl _ _
  with_reducible refine Le.ite (fun _ => ?_) (fun _ => ?_)
  with_reducible refine Le.forEach ?_ (fun x u hu => ?_)
  with_reducible refine Le.next (State.modPower_le ..) (by decide) ?_
  exact Le.refl _ _
  with_reducible refine Le.next (State.modPier_le ..) (by decide) ?_
  with_reducible assumption
  exact Le.refl _ _

theorem applyClocks_le (s : State) : Le 131136 s (applyClocks s) := by
  unfold applyClocks
  dsimp only
  with_reducible refine Le.forEach ?_ (fun x u hu => ?_)
  with_reducible refine Le.next (State.modPower_le ..) (by decide) ?_
  with_reducible refine Le.forEach ?_ (fun x u hu => ?_)
  exact Le.refl _ _
  with_reducible refine Le.next (State.modDeck_le ..) (by decide) ?_
  with_reducible assumption
  with_reducible refine Le.next (State.modCluster_le ..) (by decide) ?_
  with_reducible assumption

theorem startMove_le (s : State) (t : Nat) : Le 1 s (startMove s t) := by
  unfold startMove
  with_reducible refine Le.next (State.modTile_le ..) (by decide) ?_
  exact Le.refl _ _

theorem doRxrefRead_le (v : View) (t : Nat) (n : Nat) (evFull : Nat) (evOther : Nat) (s : State) : Le 33554433 s (doRxrefRead v t n evFull evOther s) := by
  unfold doRxrefRead
  with_reducible refine Le.ite (fun _ => ?_) (fun _ => ?_)
  dsimp only
  with_reducible refine Le.next (State.ret_le ..) (by decide) ?_
  with_reducible refine Le.next (State.modTile_le ..) (by decide) ?_
  exact Le.refl _ _
  with_reducible refine Le.next (State.ret_le ..) (by decide) ?_
  exact Le.refl _ _

theorem doStoreCorrectiveWrite_le (t : Nat) (w : Nat) (s : State) : Le 1 s (doStoreCorrectiveWrite t w s) := by
  unfold doStoreCorrectiveWrite
  with_reducible refine Le.next (State.modTile_le ..) (by decide) ?_
  exact Le.refl _ _

theorem initBundle_le (l : Nat) (n : Nat) (dir : Nat) (s : State) : Le 603979776 s (initBundle l n dir s) := by
  unfold initBundle
  dsimp only
  with_reducible refine Le.next (State.modBundle_le ..) (by decide) ?_
  split
  with_reducible refine Le.next (State.send_le ..) (by decide) ?_
  exact Le.refl _ _
  exact Le.refl _ _

theorem countMoved_le (s : State) (ch : Nat) (i : Nat) (n : Nat) : Le 134742032 s (countMoved s ch i n) := by
  unfold countMoved
  dsimp only
  with_reducible refine Le.next (bump_le ..) (by decide) ?_
  with_reducible refine Le.next (State.modChan_le ..) (by decide) ?_
  with_reducible refine Le.next (bump_le ..) (by decide) ?_
  with_reducible refine Le.next (bump_le ..) (by decide) ?_
  with_reducible refine Le.next (State.takeFree_le ..) (by decide) ?_
  with_reducible refine Le.next (State.takeFree_le ..) (by decide) ?_
  exact Le.refl _ _

theorem outerCorrected_le (s : State) (cw : Nat) (rewrite : Bool) : Le 24 s (outerCorrected s cw rewrite) := by
  unfold outerCorrected
  dsimp only
  with_reducible refine Le.next (noteRow_le ..) (by decide) ?_
  with_reducible refine Le.next (State.modChan_le ..) (by decide) ?_
  with_reducible refine Le.next (State.modPool_le _ _ ?_) (by decide) ?_
  with_reducible exact fun h => PoolOk.of h rfl rfl rfl
  exact Le.refl _ _

theorem leaveTPort_le (k : Nat) (x : Nat × List Nat × TPkt) (s : State) : Le 537395200 s (leaveTPort k x s) := by
  unfold leaveTPort
  dsimp only
  split
  with_reducible refine Le.next (bump_le ..) (by decide) ?_
  with_reducible refine Le.next (State.modBundle_le ..) (by decide) ?_
  with_reducible refine Le.next (State.modTPort_le ..) (by decide) ?_
  exact Le.refl _ _
  with_reducible refine Le.next (State.modTPort_le ..) (by decide) ?_
  with_reducible refine Le.next (bump_le ..) (by decide) ?_
  with_reducible refine Le.next (State.modBundle_le ..) (by decide) ?_
  with_reducible refine Le.next (State.modTPort_le ..) (by decide) ?_
  exact Le.refl _ _

theorem pickPort_le (s : State) (vc : Nat) (l : List Nat) : Le 134221824 s (pickPort s vc l).1 := by
  unfold pickPort
  dsimp only
  split
  dsimp only
  with_reducible refine Le.next (creditBack_le ..) (by decide) ?_
  with_reducible refine Le.next (creditBack_le ..) (by decide) ?_
  exact Le.refl _ _
  exact Le.refl _ _
  exact Le.refl _ _

theorem drainPort_le (x : Nat) (a1 : Nat) (a2 : State) : Le 67112960 a2 (drainPort x a1 a2) := by
  induction a1 generalizing a2 with
  | zero => exact Le.refl _ _
  | succ n ih =>
    unfold drainPort
    split
    exact Le.refl _ _
    with_reducible refine Le.next (ih ..) (by decide) ?_
    with_reducible refine Le.next (leavePort_le ..) (by decide) ?_
    exact Le.refl _ _

theorem prefetchNext_le (s : State) (p : Nat) (line : Nat) : Le 524320 s (prefetchNext s p line) := by
  unfold prefetchNext
  dsimp only
  with_reducible refine Le.ite (fun _ => ?_) (fun _ => ?_)
  with_reducible refine Le.next (addFills_le ..) (by decide) ?_
  with_reducible refine Le.next (allocLine_le ..) (by decide) ?_
  with_reducible refine Le.next (bump_le ..) (by decide) ?_
  exact Le.refl _ _
  exact Le.refl _ _

theorem countTileReq_le (s : State) (line : Nat) : Le 524288 s (countTileReq s line) := by
  unfold countTileReq
  with_reducible refine Le.next (bump_le ..) (by decide) ?_
  exact Le.refl _ _

theorem setPosition_le (s : State) (h : Nat) (pos : Nat) : Le 32768 s (setPosition s h pos) := by
  unfold setPosition
  split
  exact Le.refl _ _
  with_reducible refine Le.ite (fun _ => ?_) (fun _ => ?_)
  exact Le.refl _ _
  with_reducible refine Le.next (showPosition_le ..) (by decide) ?_
  with_reducible refine Le.next (modOp_le ..) (by decide) ?_
  exact Le.refl _ _

theorem showPositions_le (s : State) : Le 32768 s (showPositions s) := by
  unfold showPositions
  with_reducible refine Le.forEach ?_ (fun x u hu => ?_)
  exact Le.refl _ _
  with_reducible refine Le.next (showPosition_le ..) (by decide) ?_
  with_reducible assumption

end Sys2Proof.Machine
end

