-- ==== Sys2Proof/Laws/Keep3.lean ====
section
/-!
SUPPORT. What each operation may change and that it keeps the invariant, part 3 of 9: a lemma cites those of the operations
that its operation calls. The mask of a lemma names the parts by their bits (`Part.code`).
-/

namespace Sys2Proof.Machine
open Sys2Proof

theorem beginInit_le (s : State) (mode : Bool) (testKey : Bool) (rate : Nat) (key : W64) : Le 134479928 s (beginInit s mode testKey rate key) := by
  unfold beginInit
  dsimp only
  with_reducible refine Le.next (State.modPool_le _ _ ?_) (by decide) ?_
  exact fun h => ⟨rfl, rfl, h.2.2⟩
  with_reducible refine Le.forEach ?_ (fun x u hu => ?_)
  with_reducible refine Le.next (Le.chans_piers ..) (by decide) ?_
  exact Le.refl _ _
  with_reducible refine Le.next (hardRepair_le ..) (by decide) ?_
  with_reducible assumption

theorem State.modQueue_le (s : State) (t : Nat) (q : Nat) (f : Queue → Queue) : Le 1 s (State.modQueue s t q f) := by
  unfold State.modQueue
  with_reducible refine Le.next (State.setQueue_le ..) (by decide) ?_
  exact Le.refl _ _

theorem holdTrace_le (s : State) (p : Nat) (r : TraceRec) : Le 1048576 s (holdTrace s p r) := by
  unfold holdTrace
  with_reducible refine Le.ite (fun _ => ?_) (fun _ => ?_)
  exact Le.refl _ _
  dsimp only
  with_reducible refine Le.next (State.setTraceUnit_le ..) (by decide) ?_
  with_reducible refine Le.next (gatherTrace_le ..) (by decide) ?_
  exact Le.refl _ _

theorem withdrawFault_le (s : State) (t : Nat) (q : Nat) : Le 5 s (withdrawFault s t q) := by
  unfold withdrawFault
  dsimp only
  with_reducible refine Le.next (State.setQueue_le ..) (by decide) ?_
  split
  with_reducible refine Le.ite (fun _ => ?_) (fun _ => ?_)
  with_reducible refine Le.next (State.modKs_le _ _ ?_) (by decide) ?_
  with_reducible exact fun h => h
  exact Le.refl _ _
  exact Le.refl _ _
  exact Le.refl _ _

theorem resetTileCtrs_le (t : Nat) (s : State) : Le 524288 s (resetTileCtrs t s) := by
  unfold resetTileCtrs
  with_reducible refine Le.forEach ?_ (fun x u hu => ?_)
  with_reducible refine Le.next (flushSpace_le ..) (by decide) ?_
  exact Le.refl _ _
  with_reducible refine Le.next (resetCtr_le ..) (by decide) ?_
  with_reducible assumption

theorem doWayctlDisableWrite_le (p : Nat) (val : W32) (s : State) : Le 32 s (doWayctlDisableWrite p val s) := by
  unfold doWayctlDisableWrite
  with_reducible refine Le.forEach ?_ (fun x u hu => ?_)
  exact Le.refl _ _
  with_reducible refine Le.next (disableWay_le ..) (by decide) ?_
  with_reducible assumption

theorem doWayctlEnableWrite_le (p : Nat) (val : W32) (s : State) : Le 32 s (doWayctlEnableWrite p val s) := by
  unfold doWayctlEnableWrite
  with_reducible refine Le.forEach ?_ (fun x u hu => ?_)
  exact Le.refl _ _
  with_reducible refine Le.ite (fun _ => ?_) (fun _ => ?_)
  with_reducible refine Le.next (State.modPier_le ..) (by decide) ?_
  with_reducible assumption
  with_reducible refine Le.next (enableWay_le ..) (by decide) ?_
  with_reducible assumption

theorem countTile_le (s : State) (t : Nat) (i : Nat) (n : Nat) : Le 524288 s (countTile s t i n) := by
  unfold countTile
  with_reducible refine Le.next (bump_le ..) (by decide) ?_
  exact Le.refl _ _

theorem stageBytes_le (s : State) (t : Nat) (c : ChainCfg) (run : ChainRun) : Le 134217729 s (stageBytes s t c run) := by
  unfold stageBytes
  dsimp only
  with_reducible refine Le.ite (fun _ => ?_) (fun _ => ?_)
  exact Le.refl _ _
  with_reducible refine Le.next (storePut_le ..) (by decide) ?_
  with_reducible refine Le.next (State.takeFree_le ..) (by decide) ?_
  exact Le.refl _ _

theorem Issue.sent_le (i : Issue) (r : State × Sent) (pos : Nat) (va : Nat) (cws : List (Nat × Nat)) (fetch : Option (Nat × Nat)) : Le 134217728 r.1 (Issue.sent i r pos va cws fetch).s := by
  unfold Issue.sent
  dsimp only
  split
  exact Le.refl _ _
  exact Le.refl _ _
  with_reducible refine Le.iteP (fun w : Issue => w.s) (fun _ => ?_) (fun _ => ?_)
  dsimp only
  with_reducible refine Le.next (poisonOf_le ..) (by decide) ?_
  exact Le.refl _ _
  exact Le.refl _ _

theorem countProg_le (s : State) (t : Nat) (k : Nat) (n : Nat) : Le 524289 s (countProg s t k n) := by
  unfold countProg
  dsimp only
  with_reducible refine Le.ite (fun _ => ?_) (fun _ => ?_)
  with_reducible refine Le.next (State.modTile_le ..) (by decide) ?_
  with_reducible refine Le.next (bump_le ..) (by decide) ?_
  exact Le.refl _ _
  with_reducible refine Le.next (bump_le ..) (by decide) ?_
  exact Le.refl _ _

theorem recvFlits_le (s : State) (x : Nat) (vc : Nat) (n : Nat) (last : Nat) : Le 67637248 s (recvFlits s x vc n last) := by
  unfold recvFlits
  dsimp only
  with_reducible refine Le.next (State.send_le ..) (by decide) ?_
  with_reducible refine Le.next (State.modPort_le ..) (by decide) ?_
  with_reducible refine Le.next (bump_le ..) (by decide) ?_
  exact Le.refl _ _

theorem beginColl_le (s : State) : Le 16384 s (beginColl s) := by
  unfold beginColl
  dsimp only
  split
  exact Le.refl _ _
  with_reducible refine Le.ite (fun _ => ?_) (fun _ => ?_)
  exact Le.refl _ _
  with_reducible refine Le.forEach ?_ (fun x u hu => ?_)
  with_reducible refine Le.next (State.modJob_le ..) (by decide) ?_
  with_reducible refine Le.next (modColl_le ..) (by decide) ?_
  exact Le.refl _ _
  with_reducible refine Le.next (scheduleAt_le ..) (by decide) ?_
  with_reducible assumption

theorem scheduleSteps_le (s : State) : Le 16384 s (scheduleSteps s) := by
  unfold scheduleSteps
  with_reducible refine Le.forEach ?_ (fun x u hu => ?_)
  exact Le.refl _ _
  split
  with_reducible assumption
  with_reducible refine Le.next (scheduleAt_le ..) (by decide) ?_
  with_reducible assumption

theorem traceKs_le (s : State) (r : TraceRec) : Le 1048576 s (traceKs s r) := by
  unfold traceKs
  with_reducible refine Le.ite (fun _ => ?_) (fun _ => ?_)
  with_reducible refine Le.next (queueTrace_le ..) (by decide) ?_
  exact Le.refl _ _
  exact Le.refl _ _

theorem doCntrstWrite_le (v : View) (addr : Nat) (val : W32) (ev : W32) (s : State) : Le 524288 s (doCntrstWrite v addr val ev s) := by
  unfold doCntrstWrite
  dsimp only
  split
  exact Le.refl _ _
  with_reducible refine Le.forEach ?_ (fun x u hu => ?_)
  with_reducible refine Le.when ?_ (fun u hu => ?_)
  exact Le.refl _ _
  with_reducible refine Le.next (flushSpace_le ..) (by decide) ?_
  with_reducible assumption
  with_reducible refine Le.next (resetCtr_le ..) (by decide) ?_
  with_reducible assumption

theorem resumeRequest_le (s : State) (t : Nat) : Le 1 s (resumeRequest s t) := by
  unfold resumeRequest
  dsimp only
  split
  with_reducible refine Le.next (resumeTile_le ..) (by decide) ?_
  exact Le.refl _ _
  with_reducible refine Le.ite (fun _ => ?_) (fun _ => ?_)
  with_reducible refine Le.next (State.modTile_le ..) (by decide) ?_
  exact Le.refl _ _
  exact Le.refl _ _
  exact Le.refl _ _

theorem setCmderr_le (s : State) (t : Nat) (e : Nat) : Le 1 s (setCmderr s t e) := by
  unfold setCmderr
  with_reducible refine Le.next (State.modCore_le ..) (by decide) ?_
  exact Le.refl _ _

theorem csrEffect_le (s : State) (t : Nat) (op : CsrOp) (n : Nat) (rd : Nat) (rs : Nat) : Le 1 s (csrEffect s t op n rd rs) := by
  unfold csrEffect
  dsimp only
  with_reducible refine Le.next (State.modCore_le ..) (by decide) ?_
  exact Le.refl _ _

theorem timeCtr_le (a : Nat) (s : State) : Le 134742016 s (timeCtr a s) := by
  unfold timeCtr
  with_reducible refine Le.ite (fun _ => ?_) (fun _ => ?_)
  exact Le.refl _ _
  with_reducible refine Le.ite (fun _ => ?_) (fun _ => ?_)
  with_reducible refine Le.next (bump_le ..) (by decide) ?_
  with_reducible refine Le.next (State.takeFree_le ..) (by decide) ?_
  exact Le.refl _ _
  with_reducible refine Le.ite (fun _ => ?_) (fun _ => ?_)
  exact Le.refl _ _
  with_reducible refine Le.next (State.modCtrs_le ..) (by decide) ?_
  with_reducible refine Le.next (State.setCtr_le ..) (by decide) ?_
  with_reducible refine Le.next (State.takeFree_le ..) (by decide) ?_
  exact Le.refl _ _

theorem doQpush_le (v : View) (t : Nat) (q : Nat) (val : W32) (a4 : State) : Le 1 a4 (doQpush v t q val a4) := by
  unfold doQpush
  with_reducible refine regChange_le _ _ _ _ ?_ ?_
  exact Le.refl _ _
  dsimp only
  with_reducible refine Le.ite (fun _ => ?_) (fun _ => ?_)
  with_reducible refine Le.next (raiseSrc_le ..) (by decide) ?_
  with_reducible refine Le.next (State.setQueue_le ..) (by decide) ?_
  exact Le.refl _ _
  with_reducible refine Le.next (State.modTile_le ..) (by decide) ?_
  exact Le.refl _ _

theorem doQcrWrite_le (v : View) (t : Nat) (q : Nat) (val : W32) (a4 : State) : Le 1 a4 (doQcrWrite v t q val a4) := by
  unfold doQcrWrite
  with_reducible refine regChange_le _ _ _ _ ?_ ?_
  exact Le.refl _ _
  dsimp only
  with_reducible refine Le.ite (fun _ => ?_) (fun _ => ?_)
  exact Le.refl _ _
  with_reducible refine Le.next (State.setQueue_le ..) (by decide) ?_
  exact Le.refl _ _

theorem importWrite_le (w : Nat) (off : Nat) (val : W32) (s : State) : Le 4096 s (importWrite w off val s) := by
  unfold importWrite
  dsimp only
  split
  with_reducible refine Le.next (doImportOpen_le ..) (by decide) ?_
  exact Le.refl _ _
  with_reducible refine Le.ite (fun _ => ?_) (fun _ => ?_)
  exact Le.refl _ _
  with_reducible refine Le.next (State.modWindow_le ..) (by decide) ?_
  exact Le.refl _ _
  with_reducible refine Le.ite (fun _ => ?_) (fun _ => ?_)
  exact Le.refl _ _
  with_reducible refine Le.next (State.modWindow_le ..) (by decide) ?_
  exact Le.refl _ _
  with_reducible refine Le.ite (fun _ => ?_) (fun _ => ?_)
  exact Le.refl _ _
  with_reducible refine Le.next (State.modWindow_le ..) (by decide) ?_
  exact Le.refl _ _
  with_reducible refine Le.ite (fun _ => ?_) (fun _ => ?_)
  exact Le.refl _ _
  with_reducible refine Le.next (State.modWindow_le ..) (by decide) ?_
  exact Le.refl _ _
  exact Le.refl _ _

theorem doRefresh_le (ch : Nat) (s : State) : Le 524288 s (doRefresh ch s) := by
  unfold doRefresh
  with_reducible refine Le.ite (fun _ => ?_) (fun _ => ?_)
  with_reducible refine Le.next (bump_le ..) (by decide) ?_
  exact Le.refl _ _
  exact Le.refl _ _

theorem doDroopClamp_le (volt : Nat) (s : State) : Le 131073 s (doDroopClamp volt s) := by
  unfold doDroopClamp
  with_reducible refine Le.ite (fun _ => ?_) (fun _ => ?_)
  exact Le.refl _ _
  with_reducible refine Le.forEach ?_ (fun x u hu => ?_)
  with_reducible refine Le.next (State.modPower_le ..) (by decide) ?_
  exact Le.refl _ _
  with_reducible refine Le.next (raiseSrc_le ..) (by decide) ?_
  with_reducible assumption

theorem doLocalLoopUpdate_le (p : Nat) (s : State) : Le 131104 s (doLocalLoopUpdate p s) := by
  unfold doLocalLoopUpdate
  with_reducible refine Le.ite (fun _ => ?_) (fun _ => ?_)
  exact Le.refl _ _
  with_reducible refine Le.next (localClocks_le ..) (by decide) ?_
  with_reducible refine Le.next (State.modPier_le ..) (by decide) ?_
  exact Le.refl _ _

theorem poisonedEnd_le (cws : List (Nat × Nat)) (s : State) (run : ChainRun) : Le 134217728 s (poisonedEnd cws s run).1 := by
  unfold poisonedEnd
  dsimp only
  with_reducible refine Le.next (poisonOf_le ..) (by decide) ?_
  exact Le.refl _ _

theorem askStop_le (t : Nat) (s : State) : Le 1 s (askStop t s) := by
  unfold askStop
  with_reducible refine Le.next (raiseSrc_le ..) (by decide) ?_
  with_reducible refine Le.next (State.modTile_le ..) (by decide) ?_
  exact Le.refl _ _

theorem doStopDrainStart_le (t : Nat) (s : State) : Le 1 s (doStopDrainStart t s) := by
  unfold doStopDrainStart
  dsimp only
  with_reducible refine Le.ite (fun _ => ?_) (fun _ => ?_)
  with_reducible refine Le.next (startDrain_le ..) (by decide) ?_
  exact Le.refl _ _
  exact Le.refl _ _

theorem drainTPort_le (k : Nat) (a1 : Nat) (a2 : State) : Le 537395200 a2 (drainTPort k a1 a2) := by
  induction a1 generalizing a2 with
  | zero => exact Le.refl _ _
  | succ n ih =>
    unfold drainTPort
    split
    exact Le.refl _ _
    with_reducible refine Le.next (ih ..) (by decide) ?_
    with_reducible refine Le.next (leaveTPort_le ..) (by decide) ?_
    exact Le.refl _ _

theorem adderEvict_le (s : State) (ch : Nat) (cw : Nat) : Le 134742040 s (adderEvict s ch cw) := by
  unfold adderEvict
  dsimp only
  split
  exact Le.refl _ _
  with_reducible refine Le.next (countMoved_le ..) (by decide) ?_
  with_reducible refine Le.next (State.modPool_le _ _ ?_) (by decide) ?_
  with_reducible exact fun h => PoolOk.put h _ _ _
  with_reducible refine Le.next (State.modChan_le ..) (by decide) ?_
  exact Le.refl _ _

theorem nextHop_le (s : State) (arr : Option Nat) (p : Pkt) : Le 134221824 s (nextHop s arr p).1 := by
  unfold nextHop
  dsimp only
  split
  exact Le.refl _ _
  with_reducible refine Le.iteP (fun w : State × _ => w.1) (fun _ => ?_) (fun _ => ?_)
  exact Le.refl _ _
  split
  dsimp only
  with_reducible refine Le.next (pickPort_le ..) (by decide) ?_
  exact Le.refl _ _
  with_reducible refine Le.iteP (fun w : State × _ => w.1) (fun _ => ?_) (fun _ => ?_)
  exact Le.refl _ _
  split
  dsimp only
  with_reducible refine Le.next (pickPort_le ..) (by decide) ?_
  exact Le.refl _ _
  exact Le.refl _ _

theorem pumpPort_le (x : Nat) (s : State) : Le 201330688 s (pumpPort x s) := by
  unfold pumpPort
  with_reducible refine Le.ite (fun _ => ?_) (fun _ => ?_)
  exact Le.refl _ _
  dsimp only
  with_reducible refine Le.next (drainPort_le ..) (by decide) ?_
  with_reducible refine Le.forEach ?_ (fun x u hu => ?_)
  with_reducible refine Le.next (ackBack_le ..) (by decide) ?_
  exact Le.refl _ _
  with_reducible refine Le.next (creditBack_le ..) (by decide) ?_
  with_reducible assumption

theorem pairStep_le (s : State) (l : Nat) (n : Nat) (k : Nat) : Le 32768 s (pairStep s l n k) := by
  unfold pairStep
  split
  with_reducible refine Le.next (setPosition_le ..) (by decide) ?_
  exact Le.refl _ _
  exact Le.refl _ _

theorem portStep_le (s : State) (p : Nat) (step : Nat) : Le 32768 s (portStep s p step) := by
  unfold portStep
  split
  with_reducible refine Le.next (setPosition_le ..) (by decide) ?_
  exact Le.refl _ _
  exact Le.refl _ _

theorem invPositions_le (s : State) (tag : Nat) : Le 32768 s (invPositions s tag) := by
  unfold invPositions
  with_reducible refine Le.forEach ?_ (fun x u hu => ?_)
  exact Le.refl _ _
  with_reducible refine Le.next (setPosition_le ..) (by decide) ?_
  with_reducible assumption

theorem traceTile_le (s : State) (t : Nat) (r : TraceRec) : Le 1048576 s (traceTile s t r) := by
  unfold traceTile
  with_reducible refine Le.ite (fun _ => ?_) (fun _ => ?_)
  with_reducible refine Le.next (holdTrace_le ..) (by decide) ?_
  exact Le.refl _ _
  exact Le.refl _ _

theorem loseAccesses_le (a : Nat) (t : Nat) (s : State) : Le 1 s (loseAccesses a t s) := by
  unfold loseAccesses
  with_reducible refine Le.forEach ?_ (fun x u hu => ?_)
  exact Le.refl _ _
  with_reducible refine Le.next (State.modQueue_le ..) (by decide) ?_
  with_reducible assumption

theorem wayPosition_le (s : State) (mark : Nat) (n : Nat) : Le 32768 s (wayPosition s mark n) := by
  unfold wayPosition
  with_reducible refine Le.forEach ?_ (fun x u hu => ?_)
  exact Le.refl _ _
  with_reducible refine Le.next (setPosition_le ..) (by decide) ?_
  with_reducible assumption

theorem modEntry_le (s : State) (t : Nat) (q : Nat) (seq : W32) (f : QEntry → QEntry) : Le 1 s (modEntry s t q seq f) := by
  unfold modEntry
  with_reducible refine Le.next (State.modQueue_le ..) (by decide) ?_
  exact Le.refl _ _

theorem tileCycles_le (s : State) (t : Nat) : Le 134742017 s (tileCycles s t) := by
  unfold tileCycles
  dsimp only
  with_reducible refine Le.ite (fun _ => ?_) (fun _ => ?_)
  with_reducible refine Le.next (countTile_le ..) (by decide) ?_
  with_reducible refine Le.next (State.modTile_le ..) (by decide) ?_
  with_reducible refine Le.next (State.takeFree_le ..) (by decide) ?_
  exact Le.refl _ _
  with_reducible refine Le.next (State.modTile_le ..) (by decide) ?_
  with_reducible refine Le.next (State.takeFree_le ..) (by decide) ?_
  exact Le.refl _ _

theorem countCycles_le (s : State) (t : Nat) (i : Nat) : Le 134742016 s (countCycles s t i) := by
  unfold countCycles
  with_reducible refine Le.next (countTile_le ..) (by decide) ?_
  with_reducible refine Le.next (State.takeFree_le ..) (by decide) ?_
  exact Le.refl _ _

theorem tileEvent_le (s : State) (t : Nat) (ev : Nat) (q : Option Nat) (n : Nat) : Le 524289 s (tileEvent s t ev q n) := by
  unfold tileEvent
  with_reducible refine Le.forEach ?_ (fun x u hu => ?_)
  exact Le.refl _ _
  dsimp only
  with_reducible refine Le.ite (fun _ => ?_) (fun _ => ?_)
  with_reducible refine Le.next (countProg_le ..) (by decide) ?_
  with_reducible assumption
  with_reducible assumption

theorem countCtrl_le (s : State) (port : Nat) : Le 67637248 s (countCtrl s port) := by
  unfold countCtrl
  with_reducible refine Le.next (recvFlits_le ..) (by decide) ?_
  exact Le.refl _ _

theorem countRx_le (s : State) (port : Nat) (p : Pkt) : Le 67637248 s (countRx s port p) := by
  unfold countRx
  with_reducible refine Le.next (recvFlits_le ..) (by decide) ?_
  exact Le.refl _ _

theorem dmiRegister_le (s : State) (t : Nat) (cmd : Nat) : Le 1 s (dmiRegister s t cmd) := by
  unfold dmiRegister
  dsimp only
  with_reducible refine Le.ite (fun _ => ?_) (fun _ => ?_)
  with_reducible refine Le.next (State.modCore_le ..) (by decide) ?_
  exact Le.refl _ _
  with_reducible refine Le.ite (fun _ => ?_) (fun _ => ?_)
  with_reducible refine Le.next (setCmderr_le ..) (by decide) ?_
  exact Le.refl _ _
  with_reducible refine Le.ite (fun _ => ?_) (fun _ => ?_)
  with_reducible refine Le.next (setCmderr_le ..) (by decide) ?_
  exact Le.refl _ _
  with_reducible refine Le.ite (fun _ => ?_) (fun _ => ?_)
  with_reducible refine Le.next (State.modCore_le ..) (by decide) ?_
  exact Le.refl _ _
  with_reducible refine Le.next (State.modCore_le ..) (by decide) ?_
  with_reducible refine Le.next (csrEffect_le ..) (by decide) ?_
  exact Le.refl _ _

theorem doCntloRead_le (v : View) (addr : Nat) (s : State) : Le 168296448 s (doCntloRead v addr s) := by
  unfold doCntloRead
  dsimp only
  with_reducible refine Le.next (State.ret_le ..) (by decide) ?_
  split
  with_reducible refine Le.next (State.modCtrs_le ..) (by decide) ?_
  with_reducible refine Le.next (timeCtr_le ..) (by decide) ?_
  exact Le.refl _ _
  with_reducible refine Le.next (State.modCtrs_le ..) (by decide) ?_
  with_reducible refine Le.next (timeCtr_le ..) (by decide) ?_
  exact Le.refl _ _

theorem pcacheWrite_le (p : Nat) (off : Nat) (val : W32) (s : State) : Le 32 s (pcacheWrite p off val s) := by
  unfold pcacheWrite
  dsimp only
  split
  with_reducible refine Le.next (State.modPier_le ..) (by decide) ?_
  exact Le.refl _ _
  with_reducible refine Le.next (doWayctlEnableWrite_le ..) (by decide) ?_
  with_reducible refine Le.next (doWayctlDisableWrite_le ..) (by decide) ?_
  exact Le.refl _ _
  exact Le.refl _ _

theorem State.advanceOps_le (s : State) : Le 134250496 s (State.advanceOps s) := by
  unfold State.advanceOps
  with_reducible refine Le.forEach ?_ (fun x u hu => ?_)
  exact Le.refl _ _
  with_reducible refine Le.next (State.takeFree_le ..) (by decide) ?_
  with_reducible refine Le.next (setPosition_le ..) (by decide) ?_
  with_reducible assumption

theorem tgPut_le (s : State) (ch : Nat) (raw : Bool) (x : Nat × BitVec 64 × BitVec 512) : Le 134742040 s (tgPut s ch raw x) := by
  unfold tgPut
  dsimp only
  with_reducible refine Le.ite (fun _ => ?_) (fun _ => ?_)
  exact Le.refl _ _
  with_reducible refine Le.next (countMoved_le ..) (by decide) ?_
  with_reducible refine Le.ite (fun _ => ?_) (fun _ => ?_)
  with_reducible refine Le.next (upsetCw_le ..) (by decide) ?_
  with_reducible refine Le.next (State.modPool_le _ _ ?_) (by decide) ?_
  with_reducible exact fun h => PoolOk.of (PoolOk.put h _ _ _) rfl rfl rfl
  exact Le.refl _ _
  with_reducible refine Le.next (State.modPool_le _ _ ?_) (by decide) ?_
  with_reducible exact fun h => PoolOk.of (PoolOk.put h _ _ _) rfl rfl rfl
  exact Le.refl _ _

theorem tgGet_le (r : TgRun) (ch : Nat) (raw : Bool) (x : Nat × BitVec 64 × BitVec 512) : Le 134742040 r.s (tgGet r ch raw x).1.s := by
  unfold tgGet
  dsimp only
  with_reducible refine Le.iteP (fun w : TgRun × _ => w.1.s) (fun _ => ?_) (fun _ => ?_)
  dsimp only
  with_reducible refine Le.next (countMoved_le ..) (by decide) ?_
  with_reducible refine Le.foldl ?_ (fun u x hu => ?_)
  exact Le.refl _ _
  with_reducible refine Le.next (upsetCw_le ..) (by decide) ?_
  with_reducible assumption
  split
  dsimp only
  with_reducible refine Le.ite (fun _ => ?_) (fun _ => ?_)
  with_reducible refine Le.next (innerCorrected_le ..) (by decide) ?_
  with_reducible refine Le.next (State.takeFree_le ..) (by decide) ?_
  with_reducible refine Le.next (countMoved_le ..) (by decide) ?_
  with_reducible refine Le.foldl ?_ (fun u x hu => ?_)
  exact Le.refl _ _
  with_reducible refine Le.next (upsetCw_le ..) (by decide) ?_
  with_reducible assumption
  with_reducible refine Le.next (State.takeFree_le ..) (by decide) ?_
  with_reducible refine Le.next (countMoved_le ..) (by decide) ?_
  with_reducible refine Le.foldl ?_ (fun u x hu => ?_)
  exact Le.refl _ _
  with_reducible refine Le.next (upsetCw_le ..) (by decide) ?_
  with_reducible assumption
  dsimp only
  with_reducible refine Le.next (outerCorrected_le ..) (by decide) ?_
  with_reducible refine Le.next (State.takeFree_le ..) (by decide) ?_
  with_reducible refine Le.next (countMoved_le ..) (by decide) ?_
  with_reducible refine Le.foldl ?_ (fun u x hu => ?_)
  exact Le.refl _ _
  with_reducible refine Le.next (upsetCw_le ..) (by decide) ?_
  with_reducible assumption
  dsimp only
  with_reducible refine Le.next (State.modChan_le ..) (by decide) ?_
  with_reducible refine Le.next (State.modPool_le _ _ ?_) (by decide) ?_
  with_reducible exact fun h => PoolOk.of h rfl rfl rfl
  with_reducible refine Le.next (State.takeFree_le ..) (by decide) ?_
  with_reducible refine Le.next (countMoved_le ..) (by decide) ?_
  with_reducible refine Le.foldl ?_ (fun u x hu => ?_)
  exact Le.refl _ _
  with_reducible refine Le.next (upsetCw_le ..) (by decide) ?_
  with_reducible assumption

theorem traceSpace_le (s : State) (tag : Nat) (aux : Nat) (root : Nat) : Le 1048576 s (traceSpace s tag aux root) := by
  unfold traceSpace
  with_reducible refine Le.next (traceKs_le ..) (by decide) ?_
  exact Le.refl _ _

theorem recvCtrl_le (s : State) (port : Nat) (payload : List Byte) : Le 67637248 s (recvCtrl s port payload) := by
  unfold recvCtrl
  dsimp only
  with_reducible refine Le.next (recvFlits_le ..) (by decide) ?_
  exact Le.refl _ _

theorem ackProgress_le (s : State) (x : Launch) (a : LaunchAck) : Le 32768 s (ackProgress s x a) := by
  unfold ackProgress
  dsimp only
  split
  exact Le.refl _ _
  with_reducible refine Le.next (setPosition_le ..) (by decide) ?_
  exact Le.refl _ _

theorem doCodewordCorrectiveWrite_le (cw : Nat) (s : State) : Le 134742040 s (doCodewordCorrectiveWrite cw s) := by
  unfold doCodewordCorrectiveWrite
  with_reducible refine Le.ite (fun _ => ?_) (fun _ => ?_)
  exact Le.refl _ _
  dsimp only
  with_reducible refine Le.next (countMoved_le ..) (by decide) ?_
  with_reducible refine Le.next (State.modPool_le _ _ ?_) (by decide) ?_
  with_reducible exact fun h => PoolOk.put h _ _ _
  exact Le.refl _ _

theorem doQstatRead_le (v : View) (t : Nat) (q : Nat) (ev : Bool) (s : State) : Le 33554433 s (doQstatRead v t q ev s) := by
  unfold doQstatRead
  with_reducible refine Le.ite (fun _ => ?_) (fun _ => ?_)
  with_reducible refine Le.next (State.ret_le ..) (by decide) ?_
  with_reducible refine Le.next (State.modQueue_le ..) (by decide) ?_
  exact Le.refl _ _
  with_reducible refine Le.next (State.ret_le ..) (by decide) ?_
  exact Le.refl _ _

theorem serveTPort_le (k : Nat) (s : State) : Le 671612928 s (serveTPort k s) := by
  unfold serveTPort
  dsimp only
  split
  exact Le.refl _ _
  with_reducible refine Le.next (drainTPort_le ..) (by decide) ?_
  with_reducible refine Le.forEach ?_ (fun x u hu => ?_)
  exact Le.refl _ _
  with_reducible refine Le.forEach ?_ (fun x u hu => ?_)
  with_reducible assumption
  with_reducible refine Le.next (bundleBack_le ..) (by decide) ?_
  with_reducible assumption

theorem emit_le (s : State) (x : Nat) (vc : Nat) (n : Nat) (o : Out) : Le 201330688 s (emit s x vc n o) := by
  unfold emit
  with_reducible refine Le.next (pumpPort_le ..) (by decide) ?_
  with_reducible refine Le.next (State.modPort_le ..) (by decide) ?_
  exact Le.refl _ _

theorem trainPair_le (l : Nat) (n : Nat) (s : State) : Le 67142656 s (trainPair l n s) := by
  unfold trainPair
  dsimp only
  with_reducible refine Le.next (pairStep_le ..) (by decide) ?_
  with_reducible refine Le.next (State.send_le ..) (by decide) ?_
  with_reducible refine Le.next (State.send_le ..) (by decide) ?_
  with_reducible refine Le.next (State.modPair_le ..) (by decide) ?_
  exact Le.refl _ _

theorem dropLoadLeases_le (s : State) (t : Nat) (p : Lease → Bool) : Le 32769 s (dropLoadLeases s t p) := by
  unfold dropLoadLeases
  split
  exact Le.refl _ _
  with_reducible refine Le.next (invPositions_le ..) (by decide) ?_
  with_reducible refine Le.next (State.modTile_le ..) (by decide) ?_
  exact Le.refl _ _

theorem traceLease_le (s : State) (t : Nat) (q : Nat) (l : Lease) (aux : Nat) : Le 1048576 s (traceLease s t q l aux) := by
  unfold traceLease
  dsimp only
  with_reducible refine Le.next (traceTile_le ..) (by decide) ?_
  exact Le.refl _ _

theorem keepChunk_le (s : State) (t : Nat) (run : ChainRun) (ch : Option Chunk) : Le 1 s (keepChunk s t run ch) := by
  unfold keepChunk
  split
  exact Le.refl _ _
  with_reducible refine Le.next (modEntry_le ..) (by decide) ?_
  exact Le.refl _ _

theorem eventCycles_le (s : State) (t : Nat) (ev : Nat) (q : Option Nat) : Le 134742017 s (eventCycles s t ev q) := by
  unfold eventCycles
  with_reducible refine Le.next (tileEvent_le ..) (by decide) ?_
  with_reducible refine Le.next (State.takeFree_le ..) (by decide) ?_
  exact Le.refl _ _

theorem traceDesc_le (s : State) (t : Nat) (q : Nat) (e : QEntry) (typ : Nat) (va : Nat) (aux : Nat) (data : W64) : Le 1048576 s (traceDesc s t q e typ va aux data) := by
  unfold traceDesc
  with_reducible refine Le.next (traceTile_le ..) (by decide) ?_
  exact Le.refl _ _

theorem tileReadEffect_le (s : State) (v : View) (t : Nat) (off : Nat) : Le 168296449 s (tileReadEffect s v t off) := by
  unfold tileReadEffect
  dsimp only
  with_reducible refine Le.ite (fun _ => ?_) (fun _ => ?_)
  with_reducible refine Le.next (State.modQueue_le ..) (by decide) ?_
  exact Le.refl _ _
  with_reducible refine Le.ite (fun _ => ?_) (fun _ => ?_)
  with_reducible refine Le.next (State.modTile_le ..) (by decide) ?_
  exact Le.refl _ _
  with_reducible refine Le.ite (fun _ => ?_) (fun _ => ?_)
  with_reducible refine Le.next (Le.rdata ..) (by decide) ?_
  with_reducible refine Le.next (doCntloRead_le ..) (by decide) ?_
  exact Le.refl _ _
  exact Le.refl _ _

theorem tgAccess_le (ch : Nat) (ctl : Nat) (seed : Nat) (a : TgAcc) (r : TgRun) (pc : Nat) : Le 134742040 r.s (tgAccess ch ctl seed a r pc).s := by
  unfold tgAccess
  dsimp only
  with_reducible refine Le.iteP (fun w : TgRun => w.s) (fun _ => ?_) (fun _ => ?_)
  dsimp only
  with_reducible refine Le.foldl ?_ (fun u x hu => ?_)
  exact Le.refl _ _
  with_reducible refine Le.next (tgPut_le ..) (by decide) ?_
  with_reducible assumption
  split
  with_reducible refine Le.foldlP (fun w : TgRun × _ => w.1.s) ?_ (fun u x hu => ?_)
  exact Le.refl _ _
  dsimp only
  with_reducible refine Le.next (tgGet_le ..) (by decide) ?_
  with_reducible assumption
  dsimp only
  with_reducible refine Le.foldlP (fun w : TgRun × _ => w.1.s) ?_ (fun u x hu => ?_)
  exact Le.refl _ _
  dsimp only
  with_reducible refine Le.next (tgGet_le ..) (by decide) ?_
  with_reducible assumption

theorem modChunk_le (s : State) (t : Nat) (q : Nat) (seq : W32) (chunk : Nat) (f : Chunk → Chunk) : Le 1 s (modChunk s t q seq chunk f) := by
  unfold modChunk
  with_reducible refine Le.next (modEntry_le ..) (by decide) ?_
  exact Le.refl _ _

theorem noteRefused_le (s : State) (f : Flight) (cause : Nat) : Le 1 s (noteRefused s f cause) := by
  unfold noteRefused
  split
  exact Le.refl _ _
  with_reducible refine Le.next (modEntry_le ..) (by decide) ?_
  exact Le.refl _ _

theorem acceptSignal_le (s : State) (t : Nat) (bits : W32) : Le 524289 s (acceptSignal s t bits) := by
  unfold acceptSignal
  with_reducible refine Le.forEach ?_ (fun x u hu => ?_)
  with_reducible refine Le.next (tileEvent_le ..) (by decide) ?_
  exact Le.refl _ _
  with_reducible refine Le.next (raiseSrc_le ..) (by decide) ?_
  with_reducible assumption

theorem doEventDelivery_le (t : Nat) (set : Bool) (s : State) : Le 1572865 s (doEventDelivery t set s) := by
  unfold doEventDelivery
  dsimp only
  with_reducible refine Le.ite (fun _ => ?_) (fun _ => ?_)
  split
  exact Le.refl _ _
  with_reducible refine Le.next (traceTile_le ..) (by decide) ?_
  with_reducible refine Le.next (tileEvent_le ..) (by decide) ?_
  with_reducible refine Le.ite (fun _ => ?_) (fun _ => ?_)
  with_reducible refine Le.next (State.modTile_le ..) (by decide) ?_
  with_reducible refine Le.next (enterEvent_le ..) (by decide) ?_
  exact Le.refl _ _
  with_reducible refine Le.next (enterEvent_le ..) (by decide) ?_
  exact Le.refl _ _
  exact Le.refl _ _

theorem armTile_le (t : Nat) (s : State) : Le 1048576 s (armTile t s) := by
  unfold armTile
  dsimp only
  with_reducible refine Le.ite (fun _ => ?_) (fun _ => ?_)
  with_reducible refine Le.forEach ?_ (fun x u hu => ?_)
  with_reducible refine Le.next (traceTile_le ..) (by decide) ?_
  exact Le.refl _ _
  with_reducible refine Le.next (traceTile_le ..) (by decide) ?_
  with_reducible assumption
  exact Le.refl _ _

theorem doPcSample_le (t : Nat) (s : State) : Le 1048576 s (doPcSample t s) := by
  unfold doPcSample
  dsimp only
  with_reducible refine Le.ite (fun _ => ?_) (fun _ => ?_)
  with_reducible refine Le.next (traceTile_le ..) (by decide) ?_
  exact Le.refl _ _
  exact Le.refl _ _

theorem tileTick_le (t : Nat) (s : State) : Le 524289 s (tileTick t s) := by
  unfold tileTick
  with_reducible refine Le.ite (fun _ => ?_) (fun _ => ?_)
  exact Le.refl _ _
  with_reducible refine Le.next (tileEvent_le ..) (by decide) ?_
  with_reducible refine Le.next (raiseSrc_le ..) (by decide) ?_
  exact Le.refl _ _

theorem startTile_le (tag : Nat) (entry : Nat) (arg : Nat) (t : Nat) (s : State) : Le 1572865 s (startTile tag entry arg t s) := by
  unfold startTile
  dsimp only
  with_reducible refine Le.next (traceTile_le ..) (by decide) ?_
  with_reducible refine Le.next (State.modTile_le ..) (by decide) ?_
  with_reducible refine Le.forEach ?_ (fun x u hu => ?_)
  with_reducible refine Le.next (flushSpace_le ..) (by decide) ?_
  exact Le.refl _ _
  with_reducible refine Le.next (storePut_le ..) (by decide) ?_
  with_reducible assumption

theorem crossTruss_le (s : State) (p : TPkt) : Le 671612928 s (crossTruss s p) := by
  unfold crossTruss
  dsimp only
  split
  exact Le.refl _ _
  with_reducible refine Le.forEach ?_ (fun x u hu => ?_)
  with_reducible refine Le.next (State.modTPort_le ..) (by decide) ?_
  with_reducible refine Le.next (State.modTruss_le ..) (by decide) ?_
  exact Le.refl _ _
  with_reducible refine Le.next (serveTPort_le ..) (by decide) ?_
  with_reducible assumption

theorem emitPkt_le (s : State) (x : Nat) (p : Pkt) : Le 201330688 s (emitPkt s x p) := by
  unfold emitPkt
  with_reducible refine Le.next (emit_le ..) (by decide) ?_
  exact Le.refl _ _

theorem endLoad_le (t : Nat) (s : State) : Le 32769 s (endLoad t s) := by
  unfold endLoad
  with_reducible refine Le.next (State.modTile_le ..) (by decide) ?_
  with_reducible refine Le.next (dropLoadLeases_le ..) (by decide) ?_
  exact Le.refl _ _

theorem releaseLeases_le (s : State) (t : Nat) (q : Nat) (p : Lease → Bool) : Le 1081345 s (releaseLeases s t q p) := by
  unfold releaseLeases
  dsimp only
  with_reducible refine Le.forEach ?_ (fun x u hu => ?_)
  with_reducible refine Le.next (State.modQueue_le ..) (by decide) ?_
  exact Le.refl _ _
  with_reducible refine Le.next (invPositions_le ..) (by decide) ?_
  with_reducible refine Le.next (traceLease_le ..) (by decide) ?_
  with_reducible assumption

theorem losePairs_le (a : Nat) (s : State) : Le 604013568 s (losePairs a s) := by
  unfold losePairs
  dsimp only
  with_reducible refine Le.forEach ?_ (fun x u hu => ?_)
  exact Le.refl _ _
  with_reducible refine Le.next (trainPair_le ..) (by decide) ?_
  with_reducible refine Le.next (State.modPair_le ..) (by decide) ?_
  with_reducible refine Le.next (State.modBundle_le ..) (by decide) ?_
  with_reducible refine Le.next (State.modBundle_le ..) (by decide) ?_
  with_reducible assumption

theorem chainCycles_le (s : State) (t : Nat) (q : Nat) : Le 134742017 s (chainCycles s t q) := by
  unfold chainCycles
  with_reducible refine Le.next (countCycles_le ..) (by decide) ?_
  with_reducible refine Le.next (eventCycles_le ..) (by decide) ?_
  with_reducible refine Le.next (eventCycles_le ..) (by decide) ?_
  with_reducible refine Le.next (eventCycles_le ..) (by decide) ?_
  with_reducible refine Le.next (countCycles_le ..) (by decide) ?_
  exact Le.refl _ _

theorem chainAnswer_le {m : Nat} {s0 : State} (s : State) (t q : Nat) (land : State → ChainRun → State × ChainRun)
    (hm : 1 ||| m = m) (h : Le m s0 s) (hl : ∀ run, Le m s0 (land s run).1) : Le m s0 (chainAnswer s t q land) := by
  unfold chainAnswer
  split
  · exact h
  · split
    · exact h
    · split
      · exact h
      · split
        · exact h
        · dsimp only
          refine Le.next (keepChunk_le ..) (by rw [← hm, ← Nat.or_assoc]; congr 1) ?_
          exact Le.next (modChain_le ..) (by rw [← hm, ← Nat.or_assoc]; congr 1) (hl _)

theorem sendCtrlFlits_le (s : State) (port : Nat) (n : Nat) (o : Out) : Le 201854976 s (sendCtrlFlits s port n o) := by
  unfold sendCtrlFlits
  with_reducible refine Le.next (emit_le ..) (by decide) ?_
  with_reducible refine Le.next (bump_le ..) (by decide) ?_
  exact Le.refl _ _

theorem grantLease_le (s : State) (t : Nat) (q : Nat) (tag : Nat) (x : Extent) : Le 1572865 s (grantLease s t q tag x) := by
  unfold grantLease
  dsimp only
  with_reducible refine Le.next (traceLease_le ..) (by decide) ?_
  with_reducible refine Le.next (bump_le ..) (by decide) ?_
  with_reducible refine Le.next (State.modQueue_le ..) (by decide) ?_
  exact Le.refl _ _

theorem tgRunChan_le (s : State) (ch : Nat) (limit : Nat) (errs : List (Nat × BitVec 576)) : Le 134742040 s (tgRunChan s ch limit errs) := by
  unfold tgRunChan
  dsimp only
  with_reducible refine Le.next (State.modChan_le ..) (by decide) ?_
  with_reducible refine Le.foldlP (fun w : TgRun => w.s) ?_ (fun u x hu => ?_)
  exact Le.refl _ _
  with_reducible refine Le.foldlP (fun w : TgRun => w.s) ?_ (fun u x hu => ?_)
  with_reducible assumption
  with_reducible refine Le.next (tgAccess_le ..) (by decide) ?_
  with_reducible assumption

theorem latheCycles_le (s : State) (t : Nat) : Le 134742017 s (latheCycles s t) := by
  unfold latheCycles
  with_reducible refine Le.next (countCycles_le ..) (by decide) ?_
  with_reducible refine Le.next (eventCycles_le ..) (by decide) ?_
  with_reducible refine Le.next (countCycles_le ..) (by decide) ?_
  exact Le.refl _ _

theorem moverCycles_le (s : State) (t : Nat) (q : Nat) : Le 134742017 s (moverCycles s t q) := by
  unfold moverCycles
  with_reducible refine Le.next (countCycles_le ..) (by decide) ?_
  with_reducible refine Le.next (eventCycles_le ..) (by decide) ?_
  with_reducible refine Le.next (eventCycles_le ..) (by decide) ?_
  exact Le.refl _ _

theorem settle_le (s : State) (f : Flight) (cause : Option Nat) : Le 1048579 s (settle s f cause) := by
  unfold settle
  dsimp only
  split
  with_reducible refine Le.next (Le.msgs ..) (by decide) ?_
  exact Le.refl _ _
  with_reducible refine Le.next (traceTile_le ..) (by decide) ?_
  split
  with_reducible refine Le.next (modChunk_le ..) (by decide) ?_
  with_reducible refine Le.next (Le.msgs ..) (by decide) ?_
  exact Le.refl _ _
  with_reducible refine Le.next (modEntry_le ..) (by decide) ?_
  with_reducible refine Le.next (modChunk_le ..) (by decide) ?_
  with_reducible refine Le.next (Le.msgs ..) (by decide) ?_
  exact Le.refl _ _

theorem launchFlight_le (s : State) (seq : W32) (f : Flight) : Le 3 s (launchFlight s seq f).1 := by
  unfold launchFlight
  dsimp only
  with_reducible refine Le.next (modChunk_le ..) (by decide) ?_
  with_reducible refine Le.next (Le.msgs2 ..) (by decide) ?_
  exact Le.refl _ _

theorem trySignal_le (s : State) (t : Nat) (inside : Option Nat) (jobOk : Bool) (bits : W32) : Le 524289 s (trySignal s t inside jobOk bits).1 := by
  unfold trySignal
  split
  exact Le.refl _ _
  dsimp only
  with_reducible refine Le.next (acceptSignal_le ..) (by decide) ?_
  exact Le.refl _ _

theorem serveAllPorts_le (s : State) : Le 671612928 s (serveAllPorts s) := by
  unfold serveAllPorts
  with_reducible refine Le.forEach ?_ (fun x u hu => ?_)
  exact Le.refl _ _
  with_reducible refine Le.forEach ?_ (fun x u hu => ?_)
  with_reducible assumption
  with_reducible refine Le.next (serveTPort_le ..) (by decide) ?_
  with_reducible assumption

theorem loadNext_le (s : State) (t : Nat) (l : LoadRun) : Le 32769 s (loadNext s t l) := by
  unfold loadNext
  dsimp only
  with_reducible refine Le.next (dropLoadLeases_le ..) (by decide) ?_
  with_reducible refine Le.next (State.modTile_le ..) (by decide) ?_
  exact Le.refl _ _

theorem armTrace_le (s : State) : Le 1048576 s (armTrace s) := by
  unfold armTrace
  dsimp only
  with_reducible refine Le.forEach ?_ (fun x u hu => ?_)
  with_reducible refine Le.forEach ?_ (fun x u hu => ?_)
  with_reducible refine Le.next (State.modTalcy_le ..) (by decide) ?_
  exact Le.refl _ _
  with_reducible refine Le.next (State.setTraceUnit_le ..) (by decide) ?_
  with_reducible assumption
  with_reducible refine Le.next (armTile_le ..) (by decide) ?_
  with_reducible assumption

theorem doMapfault_le (l : Nat) (n : Nat) (s : State) : Le 67142656 s (doMapfault l n s) := by
  unfold doMapfault
  with_reducible refine Le.ite (fun _ => ?_) (fun _ => ?_)
  exact Le.refl _ _
  with_reducible refine Le.next (State.modPair_le ..) (by decide) ?_
  with_reducible refine Le.next (trainPair_le ..) (by decide) ?_
  exact Le.refl _ _

theorem packet_le (s : State) (vc : Nat) (resp : Bool) (a : Nat × Nat) (b : Nat × Nat) (kind : Nat) (addr : Nat) (len : Nat) : Le 671612928 s (packet s vc resp a b kind addr len) := by
  unfold packet
  with_reducible refine Le.next (crossTruss_le ..) (by decide) ?_
  exact Le.refl _ _

theorem originate_le (s : State) (x : Nat) (p : Pkt) : Le 201854976 s (originate s x p) := by
  unfold originate
  dsimp only
  split
  with_reducible refine Le.next (emitPkt_le ..) (by decide) ?_
  with_reducible refine Le.next (bump_le ..) (by decide) ?_
  exact Le.refl _ _
  with_reducible refine Le.ite (fun _ => ?_) (fun _ => ?_)
  with_reducible refine Le.next (emitPkt_le ..) (by decide) ?_
  with_reducible refine Le.next (State.modPort_le ..) (by decide) ?_
  with_reducible refine Le.next (bump_le ..) (by decide) ?_
  exact Le.refl _ _
  with_reducible refine Le.next (bump_le ..) (by decide) ?_
  with_reducible refine Le.next (State.modPort_le ..) (by decide) ?_
  with_reducible refine Le.next (State.modPort_le ..) (by decide) ?_
  with_reducible refine Le.next (bump_le ..) (by decide) ?_
  exact Le.refl _ _

theorem sendCoh_le (s : State) (a : Nat × Nat) (b : Nat × Nat) (vc : Nat) (kind : Nat) (msg : String) (cl : Nat) (line : Nat) (data : BitVec 512) (poison : Bool) : Le 738721792 s (sendCoh s a b vc kind msg cl line data poison) := by
  unfold sendCoh
  dsimp only
  with_reducible refine Le.next (State.send_le ..) (by decide) ?_
  with_reducible refine Le.next (crossTruss_le ..) (by decide) ?_
  exact Le.refl _ _

theorem reroute_le (s : State) (x : Nat) : Le 201330688 s (reroute s x) := by
  unfold reroute
  dsimp only
  with_reducible refine Le.forEach ?_ (fun x u hu => ?_)
  with_reducible refine Le.next (State.modPort_le ..) (by decide) ?_
  exact Le.refl _ _
  split
  split
  with_reducible refine Le.next (emitPkt_le ..) (by decide) ?_
  with_reducible assumption
  with_reducible refine Le.next (State.modPort_le ..) (by decide) ?_
  with_reducible assumption
  with_reducible assumption

theorem stopLoad_le (t : Nat) (s : State) : Le 32769 s (stopLoad t s) := by
  unfold stopLoad
  with_reducible refine Le.ite (fun _ => ?_) (fun _ => ?_)
  with_reducible refine Le.next (State.modTile_le ..) (by decide) ?_
  exact Le.refl _ _
  with_reducible refine Le.next (endLoad_le ..) (by decide) ?_
  exact Le.refl _ _

theorem resetTile_le (t : Nat) (s : State) : Le 1605637 s (resetTile t s) := by
  unfold resetTile
  dsimp only
  with_reducible refine Le.next (State.modTile_le ..) (by decide) ?_
  with_reducible refine Le.next (resetTileCtrs_le ..) (by decide) ?_
  with_reducible refine Le.forEach ?_ (fun x u hu => ?_)
  exact Le.refl _ _
  with_reducible refine Le.next (releaseLeases_le ..) (by decide) ?_
  with_reducible refine Le.next (withdrawFault_le ..) (by decide) ?_
  with_reducible assumption

theorem releaseUnneeded_le (s : State) (t : Nat) (q : Nat) : Le 1081345 s (releaseUnneeded s t q) := by
  unfold releaseUnneeded
  with_reducible refine Le.next (releaseLeases_le ..) (by decide) ?_
  exact Le.refl _ _

theorem endEntry_le (s : State) (t : Nat) (q : Nat) (seq : W32) (status : Nat) (detail : W64) (flags : BitVec 16) : Le 1081345 s (endEntry s t q seq status detail flags) := by
  unfold endEntry
  dsimp only
  with_reducible refine Le.ite (fun _ => ?_) (fun _ => ?_)
  with_reducible refine Le.ite (fun _ => ?_) (fun _ => ?_)
  with_reducible refine Le.next (raiseSrc_le ..) (by decide) ?_
  with_reducible refine Le.next (modEntry_le ..) (by decide) ?_
  exact Le.refl _ _
  with_reducible refine Le.next (modEntry_le ..) (by decide) ?_
  exact Le.refl _ _
  with_reducible refine Le.next (releaseLeases_le ..) (by decide) ?_
  with_reducible refine Le.ite (fun _ => ?_) (fun _ => ?_)
  with_reducible refine Le.next (raiseSrc_le ..) (by decide) ?_
  with_reducible refine Le.next (modEntry_le ..) (by decide) ?_
  exact Le.refl _ _
  with_reducible refine Le.next (modEntry_le ..) (by decide) ?_
  exact Le.refl _ _

theorem sendCtrl_le (s : State) (port : Nat) (o : Out) : Le 201854976 s (sendCtrl s port o) := by
  unfold sendCtrl
  with_reducible refine Le.next (sendCtrlFlits_le ..) (by decide) ?_
  exact Le.refl _ _

theorem abortTraffic_le (s : State) (chs : List Nat) : Le 134742040 s (abortTraffic s chs) := by
  unfold abortTraffic
  with_reducible refine Le.next (endTraffic_le ..) (by decide) ?_
  with_reducible refine Le.forEach ?_ (fun x u hu => ?_)
  exact Le.refl _ _
  dsimp only
  with_reducible refine Le.next (tgRunChan_le ..) (by decide) ?_
  with_reducible refine Le.next (State.takeFree_le ..) (by decide) ?_
  with_reducible assumption

theorem terminate_le (s : State) (t : Nat) (q : Nat) (f : StreamFault) : Le 1081345 s (terminate s t q f) := by
  unfold terminate
  dsimp only
  with_reducible refine Le.ite (fun _ => ?_) (fun _ => ?_)
  with_reducible refine Le.next (State.modTile_le ..) (by decide) ?_
  exact Le.refl _ _
  with_reducible refine Le.ite (fun _ => ?_) (fun _ => ?_)
  with_reducible refine Le.next (State.modQueue_le ..) (by decide) ?_
  exact Le.refl _ _
  with_reducible refine Le.next (releaseLeases_le ..) (by decide) ?_
  with_reducible refine Le.next (State.modQueue_le ..) (by decide) ?_
  exact Le.refl _ _

theorem refusalBack_le (s : State) (f : Flight) (cause : Nat) : Le 1572867 s (refusalBack s f cause) := by
  unfold refusalBack
  dsimp only
  with_reducible refine Le.ite (fun _ => ?_) (fun _ => ?_)
  with_reducible refine Le.next (Le.msgs ..) (by decide) ?_
  with_reducible refine Le.next (noteRefused_le ..) (by decide) ?_
  with_reducible refine Le.next (tileEvent_le ..) (by decide) ?_
  exact Le.refl _ _
  with_reducible refine Le.next (settle_le ..) (by decide) ?_
  with_reducible refine Le.next (noteRefused_le ..) (by decide) ?_
  with_reducible refine Le.next (tileEvent_le ..) (by decide) ?_
  exact Le.refl _ _

end Sys2Proof.Machine
end

