-- ==== Sys2Proof/Laws/Keep4.lean ====
section
/-!
SUPPORT. What each operation may change and that it keeps the invariant, part 4 of 9: a lemma cites those of the operations
that its operation calls. The mask of a lemma names the parts by their bits (`Part.code`).
-/

namespace Sys2Proof.Machine
open Sys2Proof

theorem decksOff_le (s : State) : Le 1605639 s (decksOff s) := by
  unfold decksOff
  dsimp only
  with_reducible refine Le.next (Le.tiles_msgs ..) (by decide) ?_
  with_reducible refine Le.next (State.modCtrs_le ..) (by decide) ?_
  with_reducible refine Le.forEach ?_ (fun x u hu => ?_)
  exact Le.refl _ _
  with_reducible refine Le.forEach ?_ (fun x u hu => ?_)
  with_reducible refine Le.next (flushSpace_le ..) (by decide) ?_
  with_reducible assumption
  with_reducible refine Le.next (releaseLeases_le ..) (by decide) ?_
  with_reducible refine Le.next (withdrawFault_le ..) (by decide) ?_
  with_reducible assumption

theorem slotTick_le (x : Nat) (s : State) : Le 201330688 s (slotTick x s) := by
  unfold slotTick
  dsimp only
  with_reducible refine Le.next (pumpPort_le ..) (by decide) ?_
  with_reducible refine Le.forEach ?_ (fun x u hu => ?_)
  with_reducible refine Le.next (State.modPort_le ..) (by decide) ?_
  exact Le.refl _ _
  with_reducible refine Le.next (emitPkt_le ..) (by decide) ?_
  with_reducible assumption

theorem msiWrite_le (s : State) (addr : Nat) (data : W32) : Le 738755072 s (msiWrite s addr data) := by
  unfold msiWrite
  dsimp only
  split
  with_reducible refine Le.ite (fun _ => ?_) (fun _ => ?_)
  with_reducible refine Le.next (setIdentity_le ..) (by decide) ?_
  with_reducible refine Le.next (packet_le ..) (by decide) ?_
  exact Le.refl _ _
  with_reducible refine Le.next (packet_le ..) (by decide) ?_
  exact Le.refl _ _
  with_reducible refine Le.ite (fun _ => ?_) (fun _ => ?_)
  with_reducible refine Le.ite (fun _ => ?_) (fun _ => ?_)
  with_reducible refine Le.next (State.send_le ..) (by decide) ?_
  exact Le.refl _ _
  with_reducible refine Le.next (countBadCommit_le ..) (by decide) ?_
  exact Le.refl _ _
  exact Le.refl _ _

theorem sendHop_le (s : State) (arr : Option Nat) (p : Pkt) (x : Nat) (detour : Bool) : Le 201854976 s (sendHop s arr p x detour) := by
  unfold sendHop
  dsimp only
  with_reducible refine Le.ite (fun _ => ?_) (fun _ => ?_)
  with_reducible refine Le.next (emitPkt_le ..) (by decide) ?_
  with_reducible refine Le.next (bump_le ..) (by decide) ?_
  with_reducible refine Le.when ?_ (fun u hu => ?_)
  with_reducible refine Le.when ?_ (fun u hu => ?_)
  exact Le.refl _ _
  with_reducible refine Le.next (bump_le ..) (by decide) ?_
  with_reducible assumption
  with_reducible refine Le.next (bump_le ..) (by decide) ?_
  with_reducible assumption
  with_reducible refine Le.next (originate_le ..) (by decide) ?_
  with_reducible refine Le.when ?_ (fun u hu => ?_)
  with_reducible refine Le.when ?_ (fun u hu => ?_)
  exact Le.refl _ _
  with_reducible refine Le.next (bump_le ..) (by decide) ?_
  with_reducible assumption
  with_reducible refine Le.next (bump_le ..) (by decide) ?_
  with_reducible assumption

theorem sendFwd_le (s : State) (a : Nat) (kind : Nat) (owner : Nat) (line : Nat) : Le 738721792 s (sendFwd s a kind owner line) := by
  unfold sendFwd
  dsimp only
  with_reducible refine Le.next (bump_le ..) (by decide) ?_
  with_reducible refine Le.next (sendCoh_le ..) (by decide) ?_
  exact Le.refl _ _

theorem sendInvs_le (s : State) (a : Nat) (line : Nat) (to_ : List Nat) : Le 738721792 s (sendInvs s a line to_) := by
  unfold sendInvs
  with_reducible refine Le.forEach ?_ (fun x u hu => ?_)
  exact Le.refl _ _
  with_reducible refine Le.next (bump_le ..) (by decide) ?_
  with_reducible refine Le.next (sendCoh_le ..) (by decide) ?_
  with_reducible assumption

theorem roundTrip_le (s : State) (vcq : Nat) (vcr : Nat) (a : Nat × Nat) (b : Nat × Nat) (kind : Nat) (addr : Nat) (rq : Nat) (rs : Nat) : Le 671612928 s (roundTrip s vcq vcr a b kind addr rq rs) := by
  unfold roundTrip
  with_reducible refine Le.next (packet_le ..) (by decide) ?_
  with_reducible refine Le.next (packet_le ..) (by decide) ?_
  exact Le.refl _ _

theorem trainPort_le (s : State) (p : Nat) : Le 201363456 s (trainPort s p) := by
  unfold trainPort
  with_reducible refine Le.next (portStep_le ..) (by decide) ?_
  with_reducible refine Le.next (reroute_le ..) (by decide) ?_
  with_reducible refine Le.next (State.modPort_le ..) (by decide) ?_
  exact Le.refl _ _

theorem packets_le (s : State) (vc : Nat) (resp : Bool) (a : Nat × Nat) (b : Nat × Nat) (kind : Nat) (addr : Nat) (len : Nat) : Le 671612928 s (packets s vc resp a b kind addr len) := by
  unfold packets
  with_reducible refine Le.forEach ?_ (fun x u hu => ?_)
  exact Le.refl _ _
  with_reducible refine Le.next (packet_le ..) (by decide) ?_
  with_reducible assumption

theorem toHome_le (s : State) (from_ : Nat) (vc : Nat) (kind : Nat) (msg : String) (line : Nat) (data : BitVec 512) (poison : Bool) : Le 738721792 s (toHome s from_ vc kind msg line data poison) := by
  unfold toHome
  with_reducible refine Le.next (sendCoh_le ..) (by decide) ?_
  exact Le.refl _ _

theorem doFwdgetm_le (cl : Nat) (line : Nat) (req : Nat) (s : State) : Le 738721856 s (doFwdgetm cl line req s) := by
  unfold doFwdgetm
  split
  exact Le.refl _ _
  with_reducible refine Le.next (State.modCluster_le ..) (by decide) ?_
  with_reducible refine Le.next (sendCoh_le ..) (by decide) ?_
  exact Le.refl _ _

theorem floodOut_le (s : State) (bound : Nat) (origin : Nat) (kind : Nat) (cause : Nat) : Le 201871360 s (floodOut s bound origin kind cause) := by
  unfold floodOut
  dsimp only
  with_reducible refine Le.forEach ?_ (fun x u hu => ?_)
  with_reducible refine Le.next (State.modJob_le ..) (by decide) ?_
  exact Le.refl _ _
  with_reducible refine Le.next (sendCtrl_le ..) (by decide) ?_
  with_reducible assumption

theorem decline_le (s : State) (t : Nat) (q : Nat) (seq : W32) (held : Held) (cycles : Nat) (status : Nat) (detail : W64) (flags : BitVec 16) : Le 1081345 s (decline s t q seq held cycles status detail flags) := by
  unfold decline
  dsimp only
  with_reducible refine Le.next (modEntry_le ..) (by decide) ?_
  with_reducible refine Le.next (endEntry_le ..) (by decide) ?_
  exact Le.refl _ _

theorem doFenceComplete_le (t : Nat) (q : Nat) (s : State) : Le 1081345 s (doFenceComplete t q s) := by
  unfold doFenceComplete
  dsimp only
  split
  exact Le.refl _ _
  with_reducible refine Le.ite (fun _ => ?_) (fun _ => ?_)
  exact Le.refl _ _
  with_reducible refine Le.next (endEntry_le ..) (by decide) ?_
  exact Le.refl _ _

theorem machineFreeze_le (s : State) (tick : Nat) (thaw : Bool) : Le 201854976 s (machineFreeze s tick thaw) := by
  unfold machineFreeze
  dsimp only
  with_reducible refine Le.next (scheduleFreeze_le ..) (by decide) ?_
  with_reducible refine Le.forEach ?_ (fun x u hu => ?_)
  with_reducible refine Le.next (State.modCtrs_le ..) (by decide) ?_
  exact Le.refl _ _
  with_reducible refine Le.next (sendCtrl_le ..) (by decide) ?_
  with_reducible assumption

theorem moverFinish_le (s : State) (t : Nat) (q : Nat) (seq : W32) : Le 1081345 s (moverFinish s t q seq) := by
  unfold moverFinish
  split
  exact Le.refl _ _
  with_reducible refine Le.ite (fun _ => ?_) (fun _ => ?_)
  exact Le.refl _ _
  split
  with_reducible refine Le.next (endEntry_le ..) (by decide) ?_
  exact Le.refl _ _
  with_reducible refine Le.ite (fun _ => ?_) (fun _ => ?_)
  exact Le.refl _ _
  with_reducible refine Le.next (endEntry_le ..) (by decide) ?_
  exact Le.refl _ _

theorem jobHalt_le (s : State) (halt : Bool) : Le 201871360 s (jobHalt s halt) := by
  unfold jobHalt
  dsimp only
  with_reducible refine Le.next (State.modJob_le ..) (by decide) ?_
  with_reducible refine Le.forEach ?_ (fun x u hu => ?_)
  exact Le.refl _ _
  with_reducible refine Le.next (sendCtrl_le ..) (by decide) ?_
  with_reducible assumption

theorem askLines_le (s : State) (cl : Nat) (m : Bool) (lines : List Nat) : Le 738721856 s (askLines s cl m lines) := by
  unfold askLines
  with_reducible refine Le.forEach ?_ (fun x u hu => ?_)
  exact Le.refl _ _
  with_reducible refine Le.ite (fun _ => ?_) (fun _ => ?_)
  with_reducible refine Le.next (State.modCluster_le ..) (by decide) ?_
  with_reducible assumption
  with_reducible refine Le.next (sendCoh_le ..) (by decide) ?_
  with_reducible assumption

theorem stopUnit_le (o : LongOp) (s : State) : Le 134774841 s (stopUnit o s) := by
  unfold stopUnit
  with_reducible refine Le.ite (fun _ => ?_) (fun _ => ?_)
  with_reducible refine Le.next (State.modPool_le _ _ ?_) (by decide) ?_
  with_reducible exact fun h => PoolOk.of h rfl rfl rfl
  exact Le.refl _ _
  with_reducible refine Le.ite (fun _ => ?_) (fun _ => ?_)
  with_reducible refine Le.next (abortTraffic_le ..) (by decide) ?_
  exact Le.refl _ _
  with_reducible refine Le.ite (fun _ => ?_) (fun _ => ?_)
  with_reducible refine Le.next (rangeStop_le ..) (by decide) ?_
  exact Le.refl _ _
  with_reducible refine Le.ite (fun _ => ?_) (fun _ => ?_)
  with_reducible refine Le.forEach ?_ (fun x u hu => ?_)
  exact Le.refl _ _
  with_reducible refine Le.forEach ?_ (fun x u hu => ?_)
  with_reducible assumption
  with_reducible refine Le.ite (fun _ => ?_) (fun _ => ?_)
  with_reducible refine Le.next (State.modPier_le ..) (by decide) ?_
  with_reducible assumption
  with_reducible assumption
  with_reducible refine Le.ite (fun _ => ?_) (fun _ => ?_)
  with_reducible refine Le.forEach ?_ (fun x u hu => ?_)
  exact Le.refl _ _
  with_reducible refine Le.next (stopLoad_le ..) (by decide) ?_
  with_reducible assumption
  exact Le.refl _ _

theorem dropRecalled_le (s : State) (t : Nat) (q : Nat) (p : Lease → Bool) : Le 672694273 s (dropRecalled s t q p) := by
  unfold dropRecalled
  dsimp only
  with_reducible refine Le.next (releaseLeases_le ..) (by decide) ?_
  with_reducible refine Le.forEach ?_ (fun x u hu => ?_)
  exact Le.refl _ _
  with_reducible refine Le.next (packet_le ..) (by decide) ?_
  with_reducible assumption

theorem latheEnd_le (s : State) (t : Nat) (q : Nat) (e : QEntry) (status : Nat) (detail : W64) (flags : EFlags) : Le 1081345 s (latheEnd s t q e status detail flags) := by
  unfold latheEnd
  with_reducible refine Le.next (State.modTile_le ..) (by decide) ?_
  with_reducible refine Le.next (endEntry_le ..) (by decide) ?_
  exact Le.refl _ _

theorem flightOutcome_le (s : State) (f : Flight) (cause : Option Nat) : Le 672661507 s (flightOutcome s f cause) := by
  unfold flightOutcome
  split
  with_reducible refine Le.next (settle_le ..) (by decide) ?_
  exact Le.refl _ _
  with_reducible refine Le.next (packet_le ..) (by decide) ?_
  with_reducible refine Le.next (Le.msgs ..) (by decide) ?_
  exact Le.refl _ _

theorem doDeliveryRefusal_le (id : Nat) (cause : Nat) (s : State) : Le 1572867 s (doDeliveryRefusal id cause s) := by
  unfold doDeliveryRefusal
  split
  exact Le.refl _ _
  with_reducible refine Le.next (refusalBack_le ..) (by decide) ?_
  exact Le.refl _ _

theorem farAnswer_le (s : State) (id : Nat) (cause : Option Nat) (list_ : List Byte) : Le 1572867 s (farAnswer s id cause list_) := by
  unfold farAnswer
  dsimp only
  split
  exact Le.refl _ _
  split
  with_reducible refine Le.next (settle_le ..) (by decide) ?_
  exact Le.refl _ _
  with_reducible refine Le.ite (fun _ => ?_) (fun _ => ?_)
  with_reducible refine Le.next (refusalBack_le ..) (by decide) ?_
  exact Le.refl _ _
  split
  with_reducible refine Le.next (settle_le ..) (by decide) ?_
  exact Le.refl _ _
  with_reducible refine Le.next (settle_le ..) (by decide) ?_
  with_reducible refine Le.forEach ?_ (fun x u hu => ?_)
  exact Le.refl _ _
  with_reducible refine Le.next (refusalBack_le ..) (by decide) ?_
  with_reducible refine Le.next (launchFlight_le ..) (by decide) ?_
  with_reducible assumption

theorem loseS2_le (s : State) : Le 1617959 s (loseS2 s) := by
  unfold loseS2
  dsimp only
  with_reducible refine Le.next (State.modTick_le ..) (by decide) ?_
  with_reducible refine Le.next (Le.piers ..) (by decide) ?_
  with_reducible refine Le.next (portsOff_le ..) (by decide) ?_
  with_reducible refine Le.next (decksOff_le ..) (by decide) ?_
  exact Le.refl _ _

theorem doFreezePacket_le (port : Nat) (tick : W64) (origin : Nat) (thaw : Bool) (s : State) : Le 201854976 s (doFreezePacket port tick origin thaw s) := by
  unfold doFreezePacket
  dsimp only
  with_reducible refine Le.ite (fun _ => ?_) (fun _ => ?_)
  exact Le.refl _ _
  with_reducible refine Le.ite (fun _ => ?_) (fun _ => ?_)
  with_reducible refine Le.next (countCtrl_le ..) (by decide) ?_
  exact Le.refl _ _
  with_reducible refine Le.next (scheduleFreeze_le ..) (by decide) ?_
  with_reducible refine Le.forEach ?_ (fun x u hu => ?_)
  with_reducible refine Le.next (State.modCtrs_le ..) (by decide) ?_
  with_reducible refine Le.next (countCtrl_le ..) (by decide) ?_
  exact Le.refl _ _
  with_reducible refine Le.next (sendCtrl_le ..) (by decide) ?_
  with_reducible assumption

theorem portTick_le (x : Nat) (s : State) : Le 201330688 s (portTick x s) := by
  unfold portTick
  with_reducible refine Le.next (slotTick_le ..) (by decide) ?_
  with_reducible refine Le.next (State.modPort_le ..) (by decide) ?_
  exact Le.refl _ _

theorem doTimesyncSend_le (port : Nat) (t1 : Nat) (s : State) : Le 201854976 s (doTimesyncSend port t1 s) := by
  unfold doTimesyncSend
  with_reducible refine Le.ite (fun _ => ?_) (fun _ => ?_)
  with_reducible refine Le.next (sendCtrl_le ..) (by decide) ?_
  with_reducible refine Le.next (State.modPort_le ..) (by decide) ?_
  exact Le.refl _ _
  exact Le.refl _ _

theorem doTimesync_le (port : Nat) (reply : Bool) (t1 : Int) (t2 : Int) (t3 : Int) (t4 : Int) (s : State) : Le 201863168 s (doTimesync port reply t1 t2 t3 t4 s) := by
  unfold doTimesync
  with_reducible refine Le.ite (fun _ => ?_) (fun _ => ?_)
  exact Le.refl _ _
  with_reducible refine Le.ite (fun _ => ?_) (fun _ => ?_)
  with_reducible refine Le.next (sendCtrl_le ..) (by decide) ?_
  with_reducible refine Le.next (countCtrl_le ..) (by decide) ?_
  exact Le.refl _ _
  dsimp only
  with_reducible refine Le.ite (fun _ => ?_) (fun _ => ?_)
  with_reducible refine Le.next (State.takeFree_le ..) (by decide) ?_
  with_reducible refine Le.next (State.modTick_le ..) (by decide) ?_
  with_reducible refine Le.next (State.modPort_le ..) (by decide) ?_
  with_reducible refine Le.next (countCtrl_le ..) (by decide) ?_
  exact Le.refl _ _
  with_reducible refine Le.next (State.modPort_le ..) (by decide) ?_
  with_reducible refine Le.next (countCtrl_le ..) (by decide) ?_
  exact Le.refl _ _

theorem sendMsi_le (s : State) (n : Nat) : Le 738755072 s (sendMsi s n) := by
  unfold sendMsi
  dsimp only
  with_reducible refine Le.next (msiWrite_le ..) (by decide) ?_
  with_reducible refine Le.next (State.send_le ..) (by decide) ?_
  exact Le.refl _ _

theorem sendPkt_le (s : State) (p : Pkt) : Le 201854976 s (sendPkt s p).1 := by
  unfold sendPkt
  dsimp only
  split
  dsimp only
  with_reducible refine Le.next (sendHop_le ..) (by decide) ?_
  with_reducible refine Le.next (Le.fst ‹_› (nextHop_le ..)) (by decide) ?_
  exact Le.refl _ _
  dsimp only
  with_reducible refine Le.next (Le.fst ‹_› (nextHop_le ..)) (by decide) ?_
  exact Le.refl _ _

theorem startEvict_le (s : State) (a : Nat) (e : DirEntry) (r : CReq) : Le 738721920 s (startEvict s a e r) := by
  unfold startEvict
  dsimp only
  split
  with_reducible refine Le.next (openTrans_le ..) (by decide) ?_
  with_reducible refine Le.next (sendFwd_le ..) (by decide) ?_
  with_reducible refine Le.next (State.modArb_le ..) (by decide) ?_
  exact Le.refl _ _
  with_reducible refine Le.next (openTrans_le ..) (by decide) ?_
  with_reducible refine Le.next (sendInvs_le ..) (by decide) ?_
  with_reducible refine Le.next (State.modArb_le ..) (by decide) ?_
  exact Le.refl _ _

theorem accessTrip_le (s : State) (e : Nat × Nat) (hc : Bool) (kind : Nat) (addr : Nat) (rq : Nat) (rs : Nat) : Le 671612928 s (accessTrip s e hc kind addr rq rs) := by
  unfold accessTrip
  with_reducible refine Le.ite (fun _ => ?_) (fun _ => ?_)
  with_reducible refine Le.next (roundTrip_le ..) (by decide) ?_
  exact Le.refl _ _
  with_reducible refine Le.next (roundTrip_le ..) (by decide) ?_
  exact Le.refl _ _

theorem bringUp_le (s : State) (rate : Nat) (key : W64) : Le 201764920 s (bringUp s rate key) := by
  unfold bringUp
  dsimp only
  with_reducible refine Le.next (State.modTick_le ..) (by decide) ?_
  with_reducible refine Le.next (State.modPower_le ..) (by decide) ?_
  with_reducible refine Le.forEach ?_ (fun x u hu => ?_)
  with_reducible refine Le.forEach ?_ (fun x u hu => ?_)
  with_reducible refine Le.next (commitInit_le ..) (by decide) ?_
  with_reducible refine Le.next (beginInit_le ..) (by decide) ?_
  exact Le.refl _ _
  with_reducible refine Le.next (State.modPier_le ..) (by decide) ?_
  with_reducible assumption
  with_reducible refine Le.next (trainPort_le ..) (by decide) ?_
  with_reducible assumption

theorem msgPackets_le (s : State) (a : Nat × Nat) (b : Nat × Nat) (len : Nat) : Le 671612928 s (msgPackets s a b len) := by
  unfold msgPackets
  with_reducible refine Le.next (packets_le ..) (by decide) ?_
  with_reducible refine Le.next (packet_le ..) (by decide) ?_
  exact Le.refl _ _

theorem installLine_le (s : State) (cl : Nat) (l : HLine) : Le 738721856 s (installLine s cl l) := by
  unfold installLine
  dsimp only
  with_reducible refine Le.next (State.modCluster_le ..) (by decide) ?_
  with_reducible refine Le.ite (fun _ => ?_) (fun _ => ?_)
  with_reducible refine Le.next (State.modCluster_le ..) (by decide) ?_
  exact Le.refl _ _
  split
  with_reducible refine Le.next (State.modCluster_le ..) (by decide) ?_
  exact Le.refl _ _
  with_reducible refine Le.ite (fun _ => ?_) (fun _ => ?_)
  with_reducible refine Le.next (toHome_le ..) (by decide) ?_
  with_reducible refine Le.next (State.modCluster_le ..) (by decide) ?_
  with_reducible refine Le.next (State.takeFree_le ..) (by decide) ?_
  with_reducible refine Le.next (State.modCluster_le ..) (by decide) ?_
  exact Le.refl _ _
  with_reducible refine Le.next (State.modCluster_le ..) (by decide) ?_
  with_reducible refine Le.next (State.takeFree_le ..) (by decide) ?_
  with_reducible refine Le.next (State.modCluster_le ..) (by decide) ?_
  exact Le.refl _ _

theorem doFwdgets_le (cl : Nat) (line : Nat) (req : Nat) (s : State) : Le 738721856 s (doFwdgets cl line req s) := by
  unfold doFwdgets
  dsimp only
  split
  exact Le.refl _ _
  with_reducible refine Le.next (State.modCluster_le ..) (by decide) ?_
  with_reducible refine Le.next (toHome_le ..) (by decide) ?_
  with_reducible refine Le.ite (fun _ => ?_) (fun _ => ?_)
  with_reducible refine Le.next (sendCoh_le ..) (by decide) ?_
  exact Le.refl _ _
  exact Le.refl _ _

theorem doFwdinv_le (cl : Nat) (line : Nat) (s : State) : Le 738721856 s (doFwdinv cl line s) := by
  unfold doFwdinv
  split
  exact Le.refl _ _
  with_reducible refine Le.next (State.modCluster_le ..) (by decide) ?_
  with_reducible refine Le.next (toHome_le ..) (by decide) ?_
  exact Le.refl _ _

theorem doInv_le (cl : Nat) (line : Nat) (s : State) : Le 738721856 s (doInv cl line s) := by
  unfold doInv
  with_reducible refine Le.ite (fun _ => ?_) (fun _ => ?_)
  with_reducible refine Le.next (toHome_le ..) (by decide) ?_
  with_reducible refine Le.next (State.modCluster_le ..) (by decide) ?_
  exact Le.refl _ _
  exact Le.refl _ _

theorem badConfig_le (s : State) (t : Nat) (q : Nat) (e : QEntry) (reason : Nat) : Le 1081345 s (badConfig s t q e reason) := by
  unfold badConfig
  with_reducible refine Le.next (decline_le ..) (by decide) ?_
  exact Le.refl _ _

theorem doMoverChunkDone_le (t : Nat) (q : Nat) (chunk : Nat) (s : State) : Le 1605633 s (doMoverChunkDone t q chunk s) := by
  unfold doMoverChunkDone
  dsimp only
  split
  exact Le.refl _ _
  split
  exact Le.refl _ _
  with_reducible refine Le.ite (fun _ => ?_) (fun _ => ?_)
  exact Le.refl _ _
  with_reducible refine Le.next (moverFinish_le ..) (by decide) ?_
  with_reducible refine Le.next (releaseUnneeded_le ..) (by decide) ?_
  with_reducible refine Le.ite (fun _ => ?_) (fun _ => ?_)
  with_reducible refine Le.next (modEntry_le ..) (by decide) ?_
  exact Le.refl _ _
  with_reducible refine Le.next (countTile_le ..) (by decide) ?_
  with_reducible refine Le.next (modEntry_le ..) (by decide) ?_
  exact Le.refl _ _

theorem hostPoolLoad_le (s : State) (hart : Nat) (addr : Nat) (size : Nat) (fetch : Bool) : Le 738721856 s (hostPoolLoad s hart addr size fetch) := by
  unfold hostPoolLoad
  dsimp only
  with_reducible refine Le.ite (fun _ => ?_) (fun _ => ?_)
  with_reducible refine Le.next (askLines_le ..) (by decide) ?_
  exact Le.refl _ _
  split
  with_reducible refine Le.next (hostFaults_le ..) (by decide) ?_
  exact Le.refl _ _
  with_reducible refine Le.next (State.send_le ..) (by decide) ?_
  with_reducible refine Le.next (State.modCluster_le ..) (by decide) ?_
  exact Le.refl _ _

theorem hostPoolStore_le (s : State) (hart : Nat) (addr : Nat) (size : Nat) (val : BitVec 512) : Le 738721856 s (hostPoolStore s hart addr size val) := by
  unfold hostPoolStore
  dsimp only
  with_reducible refine Le.ite (fun _ => ?_) (fun _ => ?_)
  with_reducible refine Le.next (askLines_le ..) (by decide) ?_
  exact Le.refl _ _
  split
  with_reducible refine Le.next (hostFaults_le ..) (by decide) ?_
  exact Le.refl _ _
  with_reducible refine Le.next (State.modCluster_le ..) (by decide) ?_
  exact Le.refl _ _

theorem hostZero_le (s : State) (hart : Nat) (addr : Nat) : Le 738721856 s (hostZero s hart addr) := by
  unfold hostZero
  dsimp only
  with_reducible refine Le.ite (fun _ => ?_) (fun _ => ?_)
  with_reducible refine Le.next (askLines_le ..) (by decide) ?_
  exact Le.refl _ _
  with_reducible refine Le.next (State.modCluster_le ..) (by decide) ?_
  exact Le.refl _ _

theorem hostPoolAmo_le (s : State) (hart : Nat) (addr : Nat) (k : AccKind) (width : Nat) (v : W64) : Le 738721856 s (hostPoolAmo s hart addr k width v) := by
  unfold hostPoolAmo
  dsimp only
  with_reducible refine Le.ite (fun _ => ?_) (fun _ => ?_)
  with_reducible refine Le.next (State.send_le ..) (by decide) ?_
  with_reducible refine Le.next (State.modCluster_le ..) (by decide) ?_
  exact Le.refl _ _
  with_reducible refine Le.ite (fun _ => ?_) (fun _ => ?_)
  with_reducible refine Le.next (askLines_le ..) (by decide) ?_
  exact Le.refl _ _
  split
  with_reducible refine Le.next (hostFaults_le ..) (by decide) ?_
  exact Le.refl _ _
  split
  with_reducible refine Le.next (State.send_le ..) (by decide) ?_
  with_reducible refine Le.next (State.modCluster_le ..) (by decide) ?_
  with_reducible refine Le.next (State.modCluster_le ..) (by decide) ?_
  exact Le.refl _ _
  with_reducible refine Le.next (State.send_le ..) (by decide) ?_
  with_reducible refine Le.next (State.modCluster_le ..) (by decide) ?_
  with_reducible refine Le.next (State.modCluster_le ..) (by decide) ?_
  exact Le.refl _ _
  with_reducible refine Le.next (State.send_le ..) (by decide) ?_
  with_reducible refine Le.next (State.modCluster_le ..) (by decide) ?_
  exact Le.refl _ _
  exact Le.refl _ _

theorem doRecall_le (t : Nat) (q : Nat) (tag : Nat) (s : State) : Le 672694273 s (doRecall t q tag s) := by
  unfold doRecall
  dsimp only
  with_reducible refine Le.next (dropRecalled_le ..) (by decide) ?_
  with_reducible refine Le.forEach ?_ (fun x u hu => ?_)
  with_reducible refine Le.next (State.modQueue_le ..) (by decide) ?_
  with_reducible refine Le.next (bump_le ..) (by decide) ?_
  with_reducible refine Le.next (packet_le ..) (by decide) ?_
  exact Le.refl _ _
  with_reducible refine Le.next (traceLease_le ..) (by decide) ?_
  with_reducible assumption

theorem doRecallAck_le (t : Nat) (q : Nat) (base : Nat) (s : State) : Le 672694273 s (doRecallAck t q base s) := by
  unfold doRecallAck
  with_reducible refine Le.next (dropRecalled_le ..) (by decide) ?_
  exact Le.refl _ _

theorem doPortLossOfLock_le (port : Nat) (s : State) : Le 201363456 s (doPortLossOfLock port s) := by
  unfold doPortLossOfLock
  with_reducible refine Le.ite (fun _ => ?_) (fun _ => ?_)
  exact Le.refl _ _
  with_reducible refine Le.next (trainPort_le ..) (by decide) ?_
  exact Le.refl _ _

theorem doFlitCheckFailure_le (port : Nat) (fseq : Nat) (fec : Bool) (s : State) : Le 201363456 s (doFlitCheckFailure port fseq fec s) := by
  unfold doFlitCheckFailure
  dsimp only
  with_reducible refine Le.ite (fun _ => ?_) (fun _ => ?_)
  exact Le.refl _ _
  with_reducible refine Le.ite (fun _ => ?_) (fun _ => ?_)
  with_reducible refine Le.next (State.modPort_le ..) (by decide) ?_
  exact Le.refl _ _
  with_reducible refine Le.ite (fun _ => ?_) (fun _ => ?_)
  with_reducible refine Le.next (trainPort_le ..) (by decide) ?_
  with_reducible refine Le.next (State.modPort_le ..) (by decide) ?_
  with_reducible refine Le.next (State.modPort_le ..) (by decide) ?_
  exact Le.refl _ _
  with_reducible refine Le.next (sendControl_le ..) (by decide) ?_
  with_reducible refine Le.next (State.modPort_le ..) (by decide) ?_
  with_reducible refine Le.next (State.modPort_le ..) (by decide) ?_
  exact Le.refl _ _

theorem restartUnits_le (s : State) : Le 201371649 s (restartUnits s) := by
  unfold restartUnits
  dsimp only
  with_reducible refine Le.next (State.modTick_le ..) (by decide) ?_
  with_reducible refine Le.forEach ?_ (fun x u hu => ?_)
  with_reducible refine Le.next (Le.tiles ..) (by decide) ?_
  exact Le.refl _ _
  with_reducible refine Le.next (trainPort_le ..) (by decide) ?_
  with_reducible assumption

theorem raiseHost_le (s : State) (n : Nat) : Le 738755328 s (raiseHost s n) := by
  unfold raiseHost
  dsimp only
  with_reducible refine Le.ite (fun _ => ?_) (fun _ => ?_)
  exact Le.refl _ _
  with_reducible refine Le.ite (fun _ => ?_) (fun _ => ?_)
  with_reducible refine Le.next (State.setHint_le ..) (by decide) ?_
  exact Le.refl _ _
  with_reducible refine Le.next (sendMsi_le ..) (by decide) ?_
  exact Le.refl _ _

theorem respond_le (s : State) (p : Pkt) (typ : Nat) (aux : Nat) (poison : Bool) (data : List Byte) : Le 201854976 s (respond s p typ aux poison data) := by
  unfold respond
  with_reducible refine Le.next (sendPkt_le ..) (by decide) ?_
  exact Le.refl _ _

theorem requestTrip_le (s : State) (p : Pkt) : Le 671612928 s (requestTrip s p) := by
  unfold requestTrip
  dsimp only
  with_reducible refine Le.forEach ?_ (fun x u hu => ?_)
  exact Le.refl _ _
  with_reducible refine Le.next (accessTrip_le ..) (by decide) ?_
  with_reducible assumption

theorem tripToPort_le (s : State) (e : Nat × Nat) (p : Pkt) (x : Nat) : Le 671612928 s (tripToPort s e p x) := by
  unfold tripToPort
  with_reducible refine Le.ite (fun _ => ?_) (fun _ => ?_)
  with_reducible refine Le.next (msgPackets_le ..) (by decide) ?_
  exact Le.refl _ _
  with_reducible refine Le.ite (fun _ => ?_) (fun _ => ?_)
  with_reducible refine Le.next (packet_le ..) (by decide) ?_
  exact Le.refl _ _
  with_reducible refine Le.next (packets_le ..) (by decide) ?_
  exact Le.refl _ _

theorem doHostintCtlWrite_le (n : Nat) (val : W32) (ev : Bool) (s : State) : Le 738755328 s (doHostintCtlWrite n val ev s) := by
  unfold doHostintCtlWrite
  dsimp only
  with_reducible refine Le.ite (fun _ => ?_) (fun _ => ?_)
  with_reducible refine Le.next (sendMsi_le ..) (by decide) ?_
  with_reducible refine Le.next (State.setHint_le ..) (by decide) ?_
  exact Le.refl _ _
  with_reducible refine Le.next (State.setHint_le ..) (by decide) ?_
  exact Le.refl _ _

theorem startLathe_le (s : State) (t : Nat) (q : Nat) (e : QEntry) : Le 1081345 s (startLathe s t q e) := by
  unfold startLathe
  dsimp only
  split
  with_reducible refine Le.next (badConfig_le ..) (by decide) ?_
  exact Le.refl _ _
  with_reducible refine Le.ite (fun _ => ?_) (fun _ => ?_)
  with_reducible refine Le.next (decline_le ..) (by decide) ?_
  exact Le.refl _ _
  with_reducible refine Le.next (State.modTile_le ..) (by decide) ?_
  exact Le.refl _ _

theorem doHostApertureAmo_le (hart : Nat) (addr : Nat) (k : AccKind) (width : Nat) (v : W64) (s : State) : Le 738721856 s (doHostApertureAmo hart addr k width v s) := by
  unfold doHostApertureAmo
  with_reducible refine Le.ite (fun _ => ?_) (fun _ => ?_)
  exact Le.refl _ _
  with_reducible refine Le.ite (fun _ => ?_) (fun _ => ?_)
  with_reducible refine Le.next (hostFaults_le ..) (by decide) ?_
  exact Le.refl _ _
  with_reducible refine Le.ite (fun _ => ?_) (fun _ => ?_)
  with_reducible refine Le.next (hostFaults_le ..) (by decide) ?_
  exact Le.refl _ _
  with_reducible refine Le.next (hostPoolAmo_le ..) (by decide) ?_
  exact Le.refl _ _

theorem sendNode_le (s : State) (typ : Nat) (dphys : Nat) (payload : List Byte) : Le 201854976 s (sendNode s typ dphys payload) := by
  unfold sendNode
  dsimp only
  with_reducible refine Le.next (sendPkt_le ..) (by decide) ?_
  with_reducible refine Le.next (addressed_le ..) (by decide) ?_
  exact Le.refl _ _

theorem logEvent_le (s : State) (code : Nat) (cls : Nat) (die : Nat) (data : List Nat) : Le 755532544 s (logEvent s code cls die data) := by
  unfold logEvent
  dsimp only
  refine Le.next (raiseHost_le ..) (by decide) (Le.next (Le.events _ _ _ fun h => LogOk.append h _ rfl) (by decide) (Le.refl _ _))

theorem nackPkt_le (s : State) (p : Pkt) (cause : Nat) (data : List Byte) : Le 201854976 s (nackPkt s p cause data) := by
  unfold nackPkt
  with_reducible refine Le.next (respond_le ..) (by decide) ?_
  with_reducible refine Le.next (noteRefusal_le ..) (by decide) ?_
  exact Le.refl _ _

theorem answerReq_le (s : State) (p : Pkt) (a : ReqAns) : Le 201854976 s (answerReq s p a) := by
  unfold answerReq
  with_reducible refine Le.ite (fun _ => ?_) (fun _ => ?_)
  with_reducible refine Le.next (respond_le ..) (by decide) ?_
  exact Le.refl _ _
  with_reducible refine Le.ite (fun _ => ?_) (fun _ => ?_)
  with_reducible refine Le.next (respond_le ..) (by decide) ?_
  exact Le.refl _ _
  with_reducible refine Le.ite (fun _ => ?_) (fun _ => ?_)
  with_reducible refine Le.next (respond_le ..) (by decide) ?_
  exact Le.refl _ _
  with_reducible refine Le.ite (fun _ => ?_) (fun _ => ?_)
  with_reducible refine Le.next (respond_le ..) (by decide) ?_
  exact Le.refl _ _
  with_reducible refine Le.next (respond_le ..) (by decide) ?_
  exact Le.refl _ _

theorem replyIrq_le (s : State) (c : Nat) (n : Nat) : Le 738755328 s (replyIrq s c n) := by
  unfold replyIrq
  split
  with_reducible refine Le.next (raiseHost_le ..) (by decide) ?_
  exact Le.refl _ _
  with_reducible refine Le.next (raiseHost_le ..) (by decide) ?_
  exact Le.refl _ _
  with_reducible refine Le.ite (fun _ => ?_) (fun _ => ?_)
  with_reducible refine Le.next (State.send_le ..) (by decide) ?_
  exact Le.refl _ _
  exact Le.refl _ _

theorem loseReqs_le (a : Nat) (s : State) : Le 201854976 s (loseReqs a s) := by
  unfold loseReqs
  dsimp only
  with_reducible refine Le.forEach ?_ (fun x u hu => ?_)
  with_reducible refine Le.next (State.modNode_le _ _ ?_) (by decide) ?_
  with_reducible exact fun h => h
  exact Le.refl _ _
  with_reducible refine Le.next (respond_le ..) (by decide) ?_
  with_reducible assumption

theorem doPciePortEvent_le (port : Nat) (s : State) : Le 738755328 s (doPciePortEvent port s) := by
  unfold doPciePortEvent
  with_reducible refine Le.ite (fun _ => ?_) (fun _ => ?_)
  with_reducible refine Le.next (raiseHost_le ..) (by decide) ?_
  exact Le.refl _ _
  exact Le.refl _ _

theorem hostintWrite_le (n : Nat) (off : Nat) (val : W32) (s : State) : Le 738755328 s (hostintWrite n off val s) := by
  unfold hostintWrite
  dsimp only
  split
  with_reducible refine Le.ite (fun _ => ?_) (fun _ => ?_)
  exact Le.refl _ _
  with_reducible refine Le.next (State.setHint_le ..) (by decide) ?_
  exact Le.refl _ _
  with_reducible refine Le.ite (fun _ => ?_) (fun _ => ?_)
  exact Le.refl _ _
  with_reducible refine Le.next (State.setHint_le ..) (by decide) ?_
  exact Le.refl _ _
  with_reducible refine Le.ite (fun _ => ?_) (fun _ => ?_)
  exact Le.refl _ _
  with_reducible refine Le.next (State.setHint_le ..) (by decide) ?_
  exact Le.refl _ _
  with_reducible refine Le.next (doHostintCtlWrite_le ..) (by decide) ?_
  exact Le.refl _ _

theorem sendLaunch_le (s : State) (h : LaunchHdr) : Le 201854976 s (sendLaunch s h) := by
  unfold sendLaunch
  with_reducible refine Le.forEach ?_ (fun x u hu => ?_)
  exact Le.refl _ _
  with_reducible refine Le.next (sendNode_le ..) (by decide) ?_
  with_reducible assumption

theorem sendAck_le (s : State) : Le 201871360 s (sendAck s) := by
  unfold sendAck
  dsimp only
  split
  exact Le.refl _ _
  split
  with_reducible refine Le.next (State.modJob_le ..) (by decide) ?_
  exact Le.refl _ _
  with_reducible refine Le.next (sendNode_le ..) (by decide) ?_
  with_reducible refine Le.next (State.modJob_le ..) (by decide) ?_
  exact Le.refl _ _

theorem doTraceUnitStop_le (p : Nat) (s : State) : Le 739803904 s (doTraceUnitStop p s) := by
  unfold doTraceUnitStop
  dsimp only
  with_reducible refine Le.ite (fun _ => ?_) (fun _ => ?_)
  with_reducible refine Le.ite (fun _ => ?_) (fun _ => ?_)
  with_reducible refine Le.next (raiseHost_le ..) (by decide) ?_
  with_reducible refine Le.next (State.modTalcy_le ..) (by decide) ?_
  with_reducible refine Le.next (State.setTraceUnit_le ..) (by decide) ?_
  exact Le.refl _ _
  with_reducible refine Le.next (State.setTraceUnit_le ..) (by decide) ?_
  exact Le.refl _ _
  exact Le.refl _ _

theorem logStored_le (s : State) (code : Nat) (cls : Nat) (die : Nat) (data : List Nat) (kind : Nat) (key : Nat) : Le 755794688 s (logStored s code cls die data kind key) := by
  unfold logStored
  with_reducible refine Le.next (logEvent_le ..) (by decide) ?_
  with_reducible refine Le.next (addRec_le ..) (by decide) ?_
  exact Le.refl _ _

theorem loseTile_le (s : State) (t : Nat) : Le 755794689 s (loseTile s t) := by
  unfold loseTile
  dsimp only
  with_reducible refine Le.next (logEvent_le ..) (by decide) ?_
  with_reducible refine Le.next (addRec_le ..) (by decide) ?_
  with_reducible refine Le.next (State.modTile_le ..) (by decide) ?_
  exact Le.refl _ _

theorem deferNeed_le (n : Need) (s : State) : Le 757629696 s (deferNeed n s) := by
  unfold deferNeed
  with_reducible refine Le.ite (fun _ => ?_) (fun _ => ?_)
  exact Le.refl _ _
  with_reducible refine Le.next (logEvent_le ..) (by decide) ?_
  with_reducible refine Le.next (State.modWear_le ..) (by decide) ?_
  exact Le.refl _ _

theorem acceptLong_le (s : State) (c : Nat) (n : Nat) (p : Picked) (punit : Nat) (total : Nat) (left : List Nat) : Le 738755328 s (acceptLong s c n p punit total left) := by
  unfold acceptLong
  dsimp only
  with_reducible refine Le.ite (fun _ => ?_) (fun _ => ?_)
  with_reducible refine Le.next (replyIrq_le ..) (by decide) ?_
  with_reducible refine Le.next (State.modBelul_le ..) (by decide) ?_
  with_reducible refine Le.next (State.modSlot_le ..) (by decide) ?_
  with_reducible refine Le.next (putReply_le ..) (by decide) ?_
  exact Le.refl _ _
  with_reducible refine Le.next (State.modBelul_le ..) (by decide) ?_
  with_reducible refine Le.next (State.modSlot_le ..) (by decide) ?_
  with_reducible refine Le.next (putReply_le ..) (by decide) ?_
  exact Le.refl _ _

theorem dieDegraded_le (s : State) (die : Nat) (link : Nat) : Le 755796736 s (dieDegraded s die link) := by
  unfold dieDegraded
  with_reducible refine Le.next (logEvent_le ..) (by decide) ?_
  with_reducible refine Le.next (markDegraded_le ..) (by decide) ?_
  exact Le.refl _ _

theorem lateMark_le (s : State) (b : Nat) (origin : Nat) : Le 755548928 s (lateMark s b origin) := by
  unfold lateMark
  dsimp only
  with_reducible refine Le.ite (fun _ => ?_) (fun _ => ?_)
  exact Le.refl _ _
  with_reducible refine Le.ite (fun _ => ?_) (fun _ => ?_)
  with_reducible refine Le.next (logEvent_le ..) (by decide) ?_
  with_reducible refine Le.next (State.modJob_le ..) (by decide) ?_
  exact Le.refl _ _
  with_reducible refine Le.next (State.modJob_le ..) (by decide) ?_
  exact Le.refl _ _

theorem doLaunchAck_le (port : Nat) (a : LaunchAck) (s : State) : Le 201904128 s (doLaunchAck port a s) := by
  unfold doLaunchAck
  with_reducible refine Le.ite (fun _ => ?_) (fun _ => ?_)
  exact Le.refl _ _
  dsimp only
  split
  with_reducible refine Le.next (recvCtrl_le ..) (by decide) ?_
  exact Le.refl _ _
  with_reducible refine Le.ite (fun _ => ?_) (fun _ => ?_)
  with_reducible refine Le.next (recvCtrl_le ..) (by decide) ?_
  exact Le.refl _ _
  with_reducible refine Le.ite (fun _ => ?_) (fun _ => ?_)
  with_reducible refine Le.next (sendAck_le ..) (by decide) ?_
  with_reducible refine Le.next (ackProgress_le ..) (by decide) ?_
  with_reducible refine Le.next (State.modJob_le ..) (by decide) ?_
  with_reducible refine Le.next (recvCtrl_le ..) (by decide) ?_
  exact Le.refl _ _
  with_reducible refine Le.next (ackProgress_le ..) (by decide) ?_
  with_reducible refine Le.next (State.modJob_le ..) (by decide) ?_
  with_reducible refine Le.next (recvCtrl_le ..) (by decide) ?_
  exact Le.refl _ _

theorem doLaunchAckDeadline_le (s : State) : Le 201871360 s (doLaunchAckDeadline s) := by
  unfold doLaunchAckDeadline
  split
  exact Le.refl _ _
  with_reducible refine Le.ite (fun _ => ?_) (fun _ => ?_)
  exact Le.refl _ _
  with_reducible refine Le.next (sendAck_le ..) (by decide) ?_
  exact Le.refl _ _

theorem issueAttempt_le (s : State) (h : LaunchHdr) (hd : Nat) (code : Nat) (named : List (Nat × Nat)) : Le 201871360 s (issueAttempt s h hd code named) := by
  unfold issueAttempt
  dsimp only
  with_reducible refine Le.next (sendLaunch_le ..) (by decide) ?_
  with_reducible refine Le.next (State.modJob_le ..) (by decide) ?_
  exact Le.refl _ _

theorem doFlitForward_le (port : Nat) (p : Pkt) (s : State) : Le 201854976 s (doFlitForward port p s) := by
  unfold doFlitForward
  with_reducible refine Le.ite (fun _ => ?_) (fun _ => ?_)
  exact Le.refl _ _
  dsimp only
  split
  with_reducible refine Le.next (sendHop_le ..) (by decide) ?_
  with_reducible refine Le.next (Le.fst ‹_› (nextHop_le ..)) (by decide) ?_
  with_reducible refine Le.next (countRx_le ..) (by decide) ?_
  exact Le.refl _ _
  with_reducible refine Le.next (nackPkt_le ..) (by decide) ?_
  with_reducible refine Le.next (Le.fst ‹_› (nextHop_le ..)) (by decide) ?_
  with_reducible refine Le.next (countRx_le ..) (by decide) ?_
  exact Le.refl _ _

theorem judgeHot_le (ch : Nat) (n : Nat) (sum : Nat) (s : State) : Le 755532560 s (judgeHot ch n sum s) := by
  unfold judgeHot
  dsimp only
  with_reducible refine Le.ite (fun _ => ?_) (fun _ => ?_)
  with_reducible refine Le.next (logEvent_le ..) (by decide) ?_
  with_reducible refine Le.next (State.modChan_le ..) (by decide) ?_
  exact Le.refl _ _
  with_reducible refine Le.next (State.modChan_le ..) (by decide) ?_
  exact Le.refl _ _

theorem answerMsg_le (s : State) (p : Pkt) (refs : List (Nat × Nat)) : Le 201854976 s (answerMsg s p refs) := by
  unfold answerMsg
  split
  with_reducible refine Le.next (respond_le ..) (by decide) ?_
  exact Le.refl _ _
  with_reducible refine Le.next (nackPkt_le ..) (by decide) ?_
  exact Le.refl _ _

theorem setGain_le (die : Nat) (g : Nat) (s : State) : Le 755663616 s (setGain die g s) := by
  unfold setGain
  with_reducible refine Le.ite (fun _ => ?_) (fun _ => ?_)
  exact Le.refl _ _
  dsimp only
  with_reducible refine Le.ite (fun _ => ?_) (fun _ => ?_)
  with_reducible refine Le.next (logEvent_le ..) (by decide) ?_
  with_reducible refine Le.next (State.modPower_le ..) (by decide) ?_
  with_reducible refine Le.next (State.modPower_le ..) (by decide) ?_
  exact Le.refl _ _
  with_reducible refine Le.next (State.modPower_le ..) (by decide) ?_
  exact Le.refl _ _

theorem applyGrant_le (s : State) (predict : List Nat) (estimate : Nat) (floor : Nat) : Le 755663616 s (applyGrant s predict estimate floor) := by
  unfold applyGrant
  dsimp only
  with_reducible refine Le.ite (fun _ => ?_) (fun _ => ?_)
  with_reducible refine Le.next (State.modPower_le ..) (by decide) ?_
  exact Le.refl _ _
  with_reducible refine Le.ite (fun _ => ?_) (fun _ => ?_)
  with_reducible refine Le.next (logEvent_le ..) (by decide) ?_
  with_reducible refine Le.ite (fun _ => ?_) (fun _ => ?_)
  with_reducible refine Le.forEach ?_ (fun x u hu => ?_)
  with_reducible refine Le.next (State.modPower_le ..) (by decide) ?_
  with_reducible refine Le.next (State.modPower_le ..) (by decide) ?_
  exact Le.refl _ _
  with_reducible refine Le.next (State.modDeck_le ..) (by decide) ?_
  with_reducible assumption
  with_reducible refine Le.next (State.modPower_le ..) (by decide) ?_
  with_reducible refine Le.next (State.modPower_le ..) (by decide) ?_
  exact Le.refl _ _
  with_reducible refine Le.ite (fun _ => ?_) (fun _ => ?_)
  with_reducible refine Le.forEach ?_ (fun x u hu => ?_)
  with_reducible refine Le.next (State.modPower_le ..) (by decide) ?_
  with_reducible refine Le.next (State.modPower_le ..) (by decide) ?_
  exact Le.refl _ _
  with_reducible refine Le.next (State.modDeck_le ..) (by decide) ?_
  with_reducible assumption
  with_reducible refine Le.next (State.modPower_le ..) (by decide) ?_
  with_reducible refine Le.next (State.modPower_le ..) (by decide) ?_
  exact Le.refl _ _

theorem doHoldoverUnaligned_le (s : State) : Le 755540736 s (doHoldoverUnaligned s) := by
  unfold doHoldoverUnaligned
  with_reducible refine Le.ite (fun _ => ?_) (fun _ => ?_)
  with_reducible refine Le.next (logEvent_le ..) (by decide) ?_
  with_reducible refine Le.next (State.modTick_le ..) (by decide) ?_
  exact Le.refl _ _
  exact Le.refl _ _

theorem doHaltPacket_le (port : Nat) (bound : W64) (origin : Nat) (job : Nat) (action : Nat) (s : State) : Le 755553024 s (doHaltPacket port bound origin job action s) := by
  unfold doHaltPacket
  dsimp only
  with_reducible refine Le.ite (fun _ => ?_) (fun _ => ?_)
  exact Le.refl _ _
  with_reducible refine Le.ite (fun _ => ?_) (fun _ => ?_)
  with_reducible refine Le.next (countCtrl_le ..) (by decide) ?_
  exact Le.refl _ _
  with_reducible refine Le.ite (fun _ => ?_) (fun _ => ?_)
  with_reducible refine Le.next (logEvent_le ..) (by decide) ?_
  with_reducible refine Le.next (State.modJob_le ..) (by decide) ?_
  with_reducible refine Le.forEach ?_ (fun x u hu => ?_)
  with_reducible refine Le.next (countCtrl_le ..) (by decide) ?_
  exact Le.refl _ _
  with_reducible refine Le.next (sendCtrl_le ..) (by decide) ?_
  with_reducible assumption
  with_reducible refine Le.next (State.modJob_le ..) (by decide) ?_
  with_reducible refine Le.forEach ?_ (fun x u hu => ?_)
  with_reducible refine Le.next (countCtrl_le ..) (by decide) ?_
  exact Le.refl _ _
  with_reducible refine Le.next (sendCtrl_le ..) (by decide) ?_
  with_reducible assumption

theorem uncorrectable_le (s : State) (cw : Nat) : Le 755794712 s (uncorrectable s cw) := by
  unfold uncorrectable
  dsimp only
  with_reducible refine Le.next (queueRepair_le ..) (by decide) ?_
  with_reducible refine Le.next (logStored_le ..) (by decide) ?_
  with_reducible refine Le.next (State.modChan_le ..) (by decide) ?_
  with_reducible refine Le.next (State.modPool_le _ _ ?_) (by decide) ?_
  with_reducible exact fun h => PoolOk.of (PoolOk.put h _ _ _) rfl rfl rfl
  exact Le.refl _ _

theorem unmetNeed_le (s : State) (n : Need) : Le 757891841 s (unmetNeed s n) := by
  unfold unmetNeed
  with_reducible refine Le.ite (fun _ => ?_) (fun _ => ?_)
  with_reducible refine Le.ite (fun _ => ?_) (fun _ => ?_)
  with_reducible refine Le.next (loseTile_le ..) (by decide) ?_
  exact Le.refl _ _
  exact Le.refl _ _
  with_reducible refine Le.ite (fun _ => ?_) (fun _ => ?_)
  exact Le.refl _ _
  dsimp only
  with_reducible refine Le.next (logStored_le ..) (by decide) ?_
  with_reducible refine Le.next (State.modWear_le ..) (by decide) ?_
  exact Le.refl _ _

theorem poisonCw_le (s : State) (cw : Nat) : Le 755794744 s (poisonCw s cw) := by
  unfold poisonCw
  dsimp only
  with_reducible refine Le.next (logStored_le ..) (by decide) ?_
  with_reducible refine Le.next (State.modPier_le ..) (by decide) ?_
  with_reducible refine Le.next (State.modChan_le ..) (by decide) ?_
  with_reducible refine Le.next (State.modPool_le _ _ ?_) (by decide) ?_
  with_reducible exact fun h => PoolOk.put h _ _ _
  exact Le.refl _ _

theorem useSpare_le (s : State) (kind : Nat) (scope : Nat) : Le 757891840 s (useSpare s kind scope) := by
  unfold useSpare
  dsimp only
  with_reducible refine Le.ite (fun _ => ?_) (fun _ => ?_)
  with_reducible refine Le.next (logStored_le ..) (by decide) ?_
  with_reducible refine Le.next (State.modWear_le ..) (by decide) ?_
  exact Le.refl _ _
  with_reducible refine Le.next (State.modWear_le ..) (by decide) ?_
  exact Le.refl _ _

theorem dieResetEvent_le (s : State) (die : Nat) : Le 755794688 s (dieResetEvent s die) := by
  unfold dieResetEvent
  with_reducible refine Le.next (logStored_le ..) (by decide) ?_
  with_reducible refine Le.next (State.takeFree_le ..) (by decide) ?_
  exact Le.refl _ _

theorem doData_le (cl : Nat) (line : Nat) (m : Bool) (val : BitVec 512) (poison : Bool) (s : State) : Le 755794752 s (doData cl line m val poison s) := by
  unfold doData
  with_reducible refine Le.ite (fun _ => ?_) (fun _ => ?_)
  dsimp only
  with_reducible refine Le.ite (fun _ => ?_) (fun _ => ?_)
  with_reducible refine Le.next (logStored_le ..) (by decide) ?_
  with_reducible refine Le.next (toHome_le ..) (by decide) ?_
  with_reducible refine Le.next (installLine_le ..) (by decide) ?_
  exact Le.refl _ _
  with_reducible refine Le.next (toHome_le ..) (by decide) ?_
  with_reducible refine Le.next (installLine_le ..) (by decide) ?_
  exact Le.refl _ _
  exact Le.refl _ _

theorem markLate_le (s : State) : Le 755553024 s (markLate s) := by
  unfold markLate
  dsimp only
  split
  with_reducible refine Le.next (State.modJob_le ..) (by decide) ?_
  exact Le.refl _ _
  with_reducible refine Le.next (lateMark_le ..) (by decide) ?_
  with_reducible refine Le.next (floodOut_le ..) (by decide) ?_
  with_reducible refine Le.next (State.modJob_le ..) (by decide) ?_
  exact Le.refl _ _

theorem writeHold_le (s : State) (hold : Bool) : Le 757629696 s (writeHold s hold) := by
  unfold writeHold
  dsimp only
  with_reducible refine Le.forEach ?_ (fun x u hu => ?_)
  with_reducible refine Le.next (State.modWear_le ..) (by decide) ?_
  exact Le.refl _ _
  with_reducible refine Le.next (deferNeed_le ..) (by decide) ?_
  with_reducible assumption

theorem doHotWindowEnd_le (s : State) : Le 755532568 s (doHotWindowEnd s) := by
  unfold doHotWindowEnd
  with_reducible refine Le.ite (fun _ => ?_) (fun _ => ?_)
  exact Le.refl _ _
  dsimp only
  with_reducible refine Le.forEach ?_ (fun x u hu => ?_)
  with_reducible refine Le.next (State.modPool_le _ _ ?_) (by decide) ?_
  with_reducible exact fun h => PoolOk.of h rfl rfl rfl
  exact Le.refl _ _
  with_reducible refine Le.next (State.modChan_le ..) (by decide) ?_
  with_reducible refine Le.next (judgeHot_le ..) (by decide) ?_
  with_reducible assumption

theorem arriveMsg_le {m : Nat} (s : State) (port : Nat) (p : Pkt) (f : Nat → State → State × Option Nat)
    (hm : 738725888 ||| m = m) (hf : ∀ t u, Le m s u → Le m s (f t u).1) : Le m s (arriveMsg s port p f) := by
  unfold arriveMsg
  have hx : Le m s (countRx s port p) := Le.next (countRx_le ..) (by rw [← hm, ← Nat.or_assoc]; congr 1) (Le.refl _ _)
  have hn : ∀ c, Le m s (nackPkt (countRx s port p) p c []) := fun c => Le.next (nackPkt_le ..) (by rw [← hm, ← Nat.or_assoc]; congr 1) hx
  split
  · exact Le.refl _ _
  · dsimp only
    split
    · exact hn _
    · split
      · exact hn _
      · refine Le.next (answerMsg_le ..) (by rw [← hm, ← Nat.or_assoc]; congr 1) ?_
        exact Le.foldlP (fun w : State × _ => w.1) hx fun u x hu =>
          hf _ _ (Le.next (msgPackets_le ..) (by rw [← hm, ← Nat.or_assoc]; congr 1) hu)

theorem doPowerCalibration_le (measured : Nat) (gains : List (Nat × Nat)) (s : State) : Le 755663616 s (doPowerCalibration measured gains s) := by
  unfold doPowerCalibration
  with_reducible refine Le.ite (fun _ => ?_) (fun _ => ?_)
  exact Le.refl _ _
  dsimp only
  with_reducible refine Le.ite (fun _ => ?_) (fun _ => ?_)
  with_reducible refine Le.next (logEvent_le ..) (by decide) ?_
  with_reducible refine Le.next (State.modPower_le ..) (by decide) ?_
  with_reducible refine Le.ite (fun _ => ?_) (fun _ => ?_)
  with_reducible refine Le.next (State.modPower_le ..) (by decide) ?_
  exact Le.refl _ _
  with_reducible refine Le.forEach ?_ (fun x u hu => ?_)
  with_reducible refine Le.next (State.modPower_le ..) (by decide) ?_
  exact Le.refl _ _
  with_reducible refine Le.next (setGain_le ..) (by decide) ?_
  with_reducible assumption
  with_reducible refine Le.ite (fun _ => ?_) (fun _ => ?_)
  with_reducible refine Le.next (State.modPower_le ..) (by decide) ?_
  exact Le.refl _ _
  with_reducible refine Le.forEach ?_ (fun x u hu => ?_)
  with_reducible refine Le.next (State.modPower_le ..) (by decide) ?_
  exact Le.refl _ _
  with_reducible refine Le.next (setGain_le ..) (by decide) ?_
  with_reducible assumption

theorem doMonitorFault_le (s : State) : Le 755925760 s (doMonitorFault s) := by
  unfold doMonitorFault
  with_reducible refine Le.ite (fun _ => ?_) (fun _ => ?_)
  exact Le.refl _ _
  with_reducible refine Le.next (logStored_le ..) (by decide) ?_
  with_reducible refine Le.next (State.modPower_le ..) (by decide) ?_
  exact Le.refl _ _

theorem doClampRelease_le (minv : Nat) (durationNs : Nat) (s : State) : Le 755925760 s (doClampRelease minv durationNs s) := by
  unfold doClampRelease
  with_reducible refine Le.ite (fun _ => ?_) (fun _ => ?_)
  exact Le.refl _ _
  with_reducible refine Le.next (logStored_le ..) (by decide) ?_
  with_reducible refine Le.next (State.modPower_le ..) (by decide) ?_
  exact Le.refl _ _

theorem doThermalSample_le (i : Nat) (temp : Int) (s : State) : Le 755925824 s (doThermalSample i temp s) := by
  unfold doThermalSample
  with_reducible refine Le.ite (fun _ => ?_) (fun _ => ?_)
  exact Le.refl _ _
  with_reducible refine Le.ite (fun _ => ?_) (fun _ => ?_)
  dsimp only
  with_reducible refine Le.ite (fun _ => ?_) (fun _ => ?_)
  with_reducible refine Le.next (logEvent_le ..) (by decide) ?_
  with_reducible refine Le.next (State.modSensor_le ..) (by decide) ?_
  exact Le.refl _ _
  with_reducible refine Le.next (State.modSensor_le ..) (by decide) ?_
  exact Le.refl _ _
  dsimp only
  with_reducible refine Le.ite (fun _ => ?_) (fun _ => ?_)
  with_reducible refine Le.next (State.modSensor_le ..) (by decide) ?_
  exact Le.refl _ _
  with_reducible refine Le.ite (fun _ => ?_) (fun _ => ?_)
  with_reducible refine Le.next (logStored_le ..) (by decide) ?_
  with_reducible refine Le.next (applyTherm_le ..) (by decide) ?_
  with_reducible refine Le.next (thermAct_le ..) (by decide) ?_
  with_reducible refine Le.next (State.modSensor_le ..) (by decide) ?_
  exact Le.refl _ _
  with_reducible refine Le.next (applyTherm_le ..) (by decide) ?_
  with_reducible refine Le.next (thermAct_le ..) (by decide) ?_
  with_reducible refine Le.next (State.modSensor_le ..) (by decide) ?_
  exact Le.refl _ _

theorem doMgrLost_le (p : Nat) (s : State) : Le 755925792 s (doMgrLost p s) := by
  unfold doMgrLost
  with_reducible refine Le.ite (fun _ => ?_) (fun _ => ?_)
  exact Le.refl _ _
  dsimp only
  with_reducible refine Le.next (logStored_le ..) (by decide) ?_
  with_reducible refine Le.next (State.modPower_le ..) (by decide) ?_
  with_reducible refine Le.forEach ?_ (fun x u hu => ?_)
  exact Le.refl _ _
  with_reducible refine Le.next (localClocks_le ..) (by decide) ?_
  with_reducible refine Le.next (State.modPier_le ..) (by decide) ?_
  with_reducible assumption

theorem doDieResetResponse_le (who : Requester) (s : State) : Le 755794753 s (doDieResetResponse who s) := by
  unfold doDieResetResponse
  dsimp only
  split
  split
  exact Le.refl _ _
  with_reducible refine Le.next (modChunk_le ..) (by decide) ?_
  exact Le.refl _ _
  with_reducible refine Le.ite (fun _ => ?_) (fun _ => ?_)
  exact Le.refl _ _
  with_reducible refine Le.next (State.send_le ..) (by decide) ?_
  with_reducible refine Le.next (logStored_le ..) (by decide) ?_
  with_reducible refine Le.next (State.modCluster_le ..) (by decide) ?_
  exact Le.refl _ _

theorem powerTick_le (s : State) (predict : List Nat) (estimate : Nat) (floor : Nat) : Le 755663712 s (powerTick s predict estimate floor) := by
  unfold powerTick
  dsimp only
  with_reducible refine Le.ite (fun _ => ?_) (fun _ => ?_)
  with_reducible refine Le.next (applyClocks_le ..) (by decide) ?_
  with_reducible refine Le.next (State.takeFree_le ..) (by decide) ?_
  with_reducible refine Le.next (State.modPower_le ..) (by decide) ?_
  with_reducible refine Le.next (State.takeFree_le ..) (by decide) ?_
  with_reducible refine Le.next (State.modPower_le ..) (by decide) ?_
  with_reducible refine Le.forEach ?_ (fun x u hu => ?_)
  with_reducible refine Le.next (applyGrant_le ..) (by decide) ?_
  with_reducible refine Le.next (applySettings_le ..) (by decide) ?_
  exact Le.refl _ _
  with_reducible refine Le.next (State.modDeck_le ..) (by decide) ?_
  with_reducible assumption
  with_reducible refine Le.next (State.takeFree_le ..) (by decide) ?_
  with_reducible refine Le.next (State.modPower_le ..) (by decide) ?_
  with_reducible refine Le.next (State.takeFree_le ..) (by decide) ?_
  with_reducible refine Le.next (State.modPower_le ..) (by decide) ?_
  with_reducible refine Le.forEach ?_ (fun x u hu => ?_)
  with_reducible refine Le.next (applyGrant_le ..) (by decide) ?_
  with_reducible refine Le.next (applySettings_le ..) (by decide) ?_
  exact Le.refl _ _
  with_reducible refine Le.next (State.modDeck_le ..) (by decide) ?_
  with_reducible assumption

theorem doHeartbeat_le (port : Nat) (h : Heartbeat) (s : State) : Le 755553024 s (doHeartbeat port h s) := by
  unfold doHeartbeat
  with_reducible refine Le.ite (fun _ => ?_) (fun _ => ?_)
  exact Le.refl _ _
  dsimp only
  with_reducible refine Le.ite (fun _ => ?_) (fun _ => ?_)
  with_reducible refine Le.next (lateMark_le ..) (by decide) ?_
  with_reducible refine Le.next (State.modJob_le ..) (by decide) ?_
  with_reducible refine Le.next (State.modPort_le ..) (by decide) ?_
  with_reducible refine Le.next (countCtrl_le ..) (by decide) ?_
  exact Le.refl _ _
  with_reducible refine Le.next (State.modJob_le ..) (by decide) ?_
  with_reducible refine Le.next (State.modPort_le ..) (by decide) ?_
  with_reducible refine Le.next (countCtrl_le ..) (by decide) ?_
  exact Le.refl _ _

theorem doBundleHeaderParityError_le (bond : Bool) (l : Nat) (n : Nat) (east : Bool) (count : Nat) (s : State) : Le 755797760 s (doBundleHeaderParityError bond l n east count s) := by
  unfold doBundleHeaderParityError
  dsimp only
  with_reducible refine Le.ite (fun _ => ?_) (fun _ => ?_)
  with_reducible refine Le.ite (fun _ => ?_) (fun _ => ?_)
  with_reducible refine Le.next (dieDegraded_le ..) (by decide) ?_
  with_reducible refine Le.next (State.takeFree_le ..) (by decide) ?_
  with_reducible refine Le.next (State.send_le ..) (by decide) ?_
  with_reducible refine Le.next (State.send_le ..) (by decide) ?_
  with_reducible refine Le.next (State.modBundle_le ..) (by decide) ?_
  exact Le.refl _ _
  with_reducible refine Le.next (State.send_le ..) (by decide) ?_
  with_reducible refine Le.next (State.send_le ..) (by decide) ?_
  with_reducible refine Le.next (State.modBundle_le ..) (by decide) ?_
  exact Le.refl _ _
  with_reducible refine Le.ite (fun _ => ?_) (fun _ => ?_)
  exact Le.refl _ _
  with_reducible refine Le.ite (fun _ => ?_) (fun _ => ?_)
  with_reducible refine Le.next (trainPair_le ..) (by decide) ?_
  with_reducible refine Le.next (State.modBundle_le ..) (by decide) ?_
  exact Le.refl _ _
  with_reducible refine Le.next (State.send_le ..) (by decide) ?_
  with_reducible refine Le.next (State.modBundle_le ..) (by decide) ?_
  exact Le.refl _ _

theorem stackRead_le (s : State) (cw : Nat) (inner : Bool) : Le 755794712 s (stackRead s cw inner).1 := by
  unfold stackRead
  dsimp only
  split
  dsimp only
  with_reducible refine Le.ite (fun _ => ?_) (fun _ => ?_)
  with_reducible refine Le.next (innerCorrected_le ..) (by decide) ?_
  with_reducible refine Le.next (countMoved_le ..) (by decide) ?_
  exact Le.refl _ _
  with_reducible refine Le.next (countMoved_le ..) (by decide) ?_
  exact Le.refl _ _
  dsimp only
  with_reducible refine Le.next (outerCorrected_le ..) (by decide) ?_
  with_reducible refine Le.next (countMoved_le ..) (by decide) ?_
  exact Le.refl _ _
  dsimp only
  with_reducible refine Le.next (uncorrectable_le ..) (by decide) ?_
  with_reducible refine Le.next (countMoved_le ..) (by decide) ?_
  exact Le.refl _ _

theorem queueNeed_le (s : State) (n : Need) : Le 757891841 s (queueNeed s n) := by
  unfold queueNeed
  with_reducible refine Le.ite (fun _ => ?_) (fun _ => ?_)
  with_reducible refine Le.next (State.modWear_le ..) (by decide) ?_
  exact Le.refl _ _
  with_reducible refine Le.ite (fun _ => ?_) (fun _ => ?_)
  with_reducible refine Le.next (unmetNeed_le ..) (by decide) ?_
  exact Le.refl _ _
  with_reducible refine Le.next (deferNeed_le ..) (by decide) ?_
  with_reducible refine Le.next (State.modWear_le ..) (by decide) ?_
  exact Le.refl _ _

end Sys2Proof.Machine
end

