-- ==== Sys2Proof/Laws/Keep5.lean ====
section
/-!
SUPPORT. What each operation may change and that it keeps the invariant, part 5 of 9: a lemma cites those of the operations
that its operation calls. The mask of a lemma names the parts by their bits (`Part.code`).
-/

namespace Sys2Proof.Machine
open Sys2Proof

theorem bufferLost_le (s : State) (p : Nat) (line : Nat) (word : Nat) : Le 755794744 s (bufferLost s p line word) := by
  unfold bufferLost
  dsimp only
  split
  exact Le.refl _ _
  with_reducible refine Le.ite (fun _ => ?_) (fun _ => ?_)
  exact Le.refl _ _
  with_reducible refine Le.next (poisonCw_le ..) (by decide) ?_
  with_reducible refine Le.next (State.modPier_le ..) (by decide) ?_
  exact Le.refl _ _

theorem spareCluster_le (c : Nat) (s : State) : Le 757891904 s (spareCluster c s) := by
  unfold spareCluster
  dsimp only
  with_reducible refine Le.ite (fun _ => ?_) (fun _ => ?_)
  exact Le.refl _ _
  with_reducible refine Le.next (logStored_le ..) (by decide) ?_
  with_reducible refine Le.next (useSpare_le ..) (by decide) ?_
  with_reducible refine Le.next (State.modCluster_le ..) (by decide) ?_
  exact Le.refl _ _

theorem moveSite_le (s : State) (t : Nat) : Le 757891841 s (moveSite s t) := by
  unfold moveSite
  dsimp only
  with_reducible refine Le.next (logEvent_le ..) (by decide) ?_
  with_reducible refine Le.next (addRec_le ..) (by decide) ?_
  with_reducible refine Le.next (State.modWear_le ..) (by decide) ?_
  with_reducible refine Le.next (State.modTile_le ..) (by decide) ?_
  with_reducible refine Le.ite (fun _ => ?_) (fun _ => ?_)
  with_reducible refine Le.next (State.modTile_le ..) (by decide) ?_
  with_reducible refine Le.next (useSpare_le ..) (by decide) ?_
  exact Le.refl _ _
  with_reducible refine Le.forEach ?_ (fun x u hu => ?_)
  with_reducible refine Le.next (useSpare_le ..) (by decide) ?_
  exact Le.refl _ _
  with_reducible refine Le.next (copyWord_le ..) (by decide) ?_
  with_reducible assumption

theorem scrubCw_le (s : State) (cw : Nat) (inner : Bool) : Le 755794712 s (scrubCw s cw inner) := by
  unfold scrubCw
  split
  with_reducible refine Le.ite (fun _ => ?_) (fun _ => ?_)
  with_reducible refine Le.next (innerCorrected_le ..) (by decide) ?_
  exact Le.refl _ _
  exact Le.refl _ _
  with_reducible refine Le.next (outerCorrected_le ..) (by decide) ?_
  exact Le.refl _ _
  split
  with_reducible refine Le.next (countMoved_le ..) (by decide) ?_
  with_reducible refine Le.next (State.modPool_le _ _ ?_) (by decide) ?_
  with_reducible exact fun h => PoolOk.put h _ _ _
  with_reducible refine Le.next (outerCorrected_le ..) (by decide) ?_
  exact Le.refl _ _
  with_reducible refine Le.next (uncorrectable_le ..) (by decide) ?_
  exact Le.refl _ _

theorem doMsgSignalDelivery_le (m : MsgSrc) (s : State) : Le 739774467 s (doMsgSignalDelivery m s) := by
  unfold doMsgSignalDelivery
  dsimp only
  split
  split
  exact Le.refl _ _
  with_reducible refine Le.ite (fun _ => ?_) (fun _ => ?_)
  exact Le.refl _ _
  with_reducible refine Le.next (flightOutcome_le ..) (by decide) ?_
  with_reducible refine Le.next (trySignal_le ..) (by decide) ?_
  exact Le.refl _ _
  with_reducible refine Le.ite (fun _ => ?_) (fun _ => ?_)
  exact Le.refl _ _
  with_reducible refine arriveMsg_le _ _ _ _ (by decide) (fun t u hu => ?_)
  with_reducible refine Le.next (trySignal_le ..) (by decide) ?_
  with_reducible assumption

theorem recordLanes_le (s : State) (l : Nat) (n : Nat) (dir : Nat) (fresh : BitVec 68) : Le 757892864 s (recordLanes s l n dir fresh) := by
  unfold recordLanes
  dsimp only
  with_reducible refine Le.ite (fun _ => ?_) (fun _ => ?_)
  exact Le.refl _ _
  with_reducible refine Le.forEach ?_ (fun x u hu => ?_)
  with_reducible refine Le.next (addRec_le ..) (by decide) ?_
  with_reducible refine Le.next (State.modPair_le ..) (by decide) ?_
  exact Le.refl _ _
  with_reducible refine Le.next (useSpare_le ..) (by decide) ?_
  with_reducible assumption

theorem retrainLane_le (s : State) (n : Need) : Le 757892864 s (retrainLane s n) := by
  unfold retrainLane
  dsimp only
  with_reducible refine Le.ite (fun _ => ?_) (fun _ => ?_)
  with_reducible refine Le.next (trainPair_le ..) (by decide) ?_
  exact Le.refl _ _
  with_reducible refine Le.next (logEvent_le ..) (by decide) ?_
  with_reducible refine Le.next (addRec_le ..) (by decide) ?_
  with_reducible refine Le.next (trainPair_le ..) (by decide) ?_
  with_reducible refine Le.ite (fun _ => ?_) (fun _ => ?_)
  with_reducible refine Le.next (State.modPair_le ..) (by decide) ?_
  exact Le.refl _ _
  with_reducible refine Le.next (useSpare_le ..) (by decide) ?_
  with_reducible refine Le.next (State.modPair_le ..) (by decide) ?_
  exact Le.refl _ _

theorem spareWave_le (s : State) (n : Need) : Le 757895936 s (spareWave s n) := by
  unfold spareWave
  dsimp only
  with_reducible refine Le.ite (fun _ => ?_) (fun _ => ?_)
  with_reducible refine Le.next (trainPort_le ..) (by decide) ?_
  exact Le.refl _ _
  with_reducible refine Le.next (logStored_le ..) (by decide) ?_
  with_reducible refine Le.next (useSpare_le ..) (by decide) ?_
  with_reducible refine Le.next (trainPort_le ..) (by decide) ?_
  exact Le.refl _ _

theorem spareLaser_le (s : State) (n : Need) : Le 757895936 s (spareLaser s n) := by
  unfold spareLaser
  dsimp only
  with_reducible refine Le.next (logStored_le ..) (by decide) ?_
  with_reducible refine Le.next (trainPort_le ..) (by decide) ?_
  with_reducible refine Le.next (State.modNode_le _ _ ?_) (by decide) ?_
  with_reducible exact fun h => h
  with_reducible refine Le.next (useSpare_le ..) (by decide) ?_
  with_reducible refine Le.next (State.modPort_le ..) (by decide) ?_
  exact Le.refl _ _

theorem spareWalker_le (s : State) (n : Need) : Le 757891844 s (spareWalker s n) := by
  unfold spareWalker
  with_reducible refine Le.next (logStored_le ..) (by decide) ?_
  with_reducible refine Le.next (useSpare_le ..) (by decide) ?_
  with_reducible refine Le.next (State.modKs_le _ _ ?_) (by decide) ?_
  with_reducible exact fun h => h
  exact Le.refl _ _

theorem spareWay_le (s : State) (n : Need) : Le 757891872 s (spareWay s n) := by
  unfold spareWay
  dsimp only
  with_reducible refine Le.next (logStored_le ..) (by decide) ?_
  with_reducible refine Le.next (useSpare_le ..) (by decide) ?_
  with_reducible refine Le.next (State.modPier_le ..) (by decide) ?_
  exact Le.refl _ _

theorem ctrlWrite_le (s : State) (cw : Nat) (mask : BitVec 64) (data : BitVec 512) : Le 755794712 s (ctrlWrite s cw mask data).1 := by
  unfold ctrlWrite
  with_reducible refine Le.iteP (fun w : State × _ => w.1) (fun _ => ?_) (fun _ => ?_)
  exact Le.refl _ _
  with_reducible refine Le.iteP (fun w : State × _ => w.1) (fun _ => ?_) (fun _ => ?_)
  exact Le.refl _ _
  dsimp only
  split
  dsimp only
  with_reducible refine Le.next (State.modChan_le ..) (by decide) ?_
  with_reducible refine Le.ite (fun _ => ?_) (fun _ => ?_)
  exact Le.refl _ _
  with_reducible refine Le.next (bump_le ..) (by decide) ?_
  exact Le.refl _ _
  with_reducible refine Le.iteP (fun w : State × _ => w.1) (fun _ => ?_) (fun _ => ?_)
  dsimp only
  with_reducible refine Le.next (countMoved_le ..) (by decide) ?_
  with_reducible refine Le.next (State.modPool_le _ _ ?_) (by decide) ?_
  with_reducible exact fun h => PoolOk.put h _ _ _
  with_reducible refine Le.ite (fun _ => ?_) (fun _ => ?_)
  exact Le.refl _ _
  with_reducible refine Le.next (bump_le ..) (by decide) ?_
  exact Le.refl _ _
  with_reducible refine Le.iteP (fun w : State × _ => w.1) (fun _ => ?_) (fun _ => ?_)
  dsimp only
  with_reducible refine Le.next (stackRead_le ..) (by decide) ?_
  with_reducible refine Le.next (State.takeFree_le ..) (by decide) ?_
  with_reducible refine Le.ite (fun _ => ?_) (fun _ => ?_)
  exact Le.refl _ _
  with_reducible refine Le.next (bump_le ..) (by decide) ?_
  exact Le.refl _ _
  dsimp only
  with_reducible refine Le.next (countMoved_le ..) (by decide) ?_
  with_reducible refine Le.next (State.modPool_le _ _ ?_) (by decide) ?_
  with_reducible exact fun h => PoolOk.put h _ _ _
  with_reducible refine Le.next (stackRead_le ..) (by decide) ?_
  with_reducible refine Le.next (State.takeFree_le ..) (by decide) ?_
  with_reducible refine Le.ite (fun _ => ?_) (fun _ => ?_)
  exact Le.refl _ _
  with_reducible refine Le.next (bump_le ..) (by decide) ?_
  exact Le.refl _ _

theorem ctrlRead_le (s : State) (cw : Nat) (inner : Bool) : Le 755794712 s (ctrlRead s cw inner).1 := by
  unfold ctrlRead
  with_reducible refine Le.iteP (fun w : State × _ => w.1) (fun _ => ?_) (fun _ => ?_)
  exact Le.refl _ _
  split
  exact Le.refl _ _
  with_reducible refine Le.next (stackRead_le ..) (by decide) ?_
  exact Le.refl _ _

theorem adderLoad_le (s : State) (cw : Nat) : Le 755794712 s (adderLoad s cw).1 := by
  unfold adderLoad
  dsimp only
  split
  exact Le.refl _ _
  with_reducible refine Le.iteP (fun w : State × _ => w.1) (fun _ => ?_) (fun _ => ?_)
  dsimp only
  with_reducible refine Le.next (stackRead_le ..) (by decide) ?_
  with_reducible refine Le.next (State.takeFree_le ..) (by decide) ?_
  exact Le.refl _ _
  dsimp only
  with_reducible refine Le.next (State.modChan_le ..) (by decide) ?_
  split
  with_reducible refine Le.next (adderEvict_le ..) (by decide) ?_
  with_reducible refine Le.next (stackRead_le ..) (by decide) ?_
  with_reducible refine Le.next (State.takeFree_le ..) (by decide) ?_
  exact Le.refl _ _
  with_reducible refine Le.next (stackRead_le ..) (by decide) ?_
  with_reducible refine Le.next (State.takeFree_le ..) (by decide) ?_
  exact Le.refl _ _

theorem wayError_le (s : State) (p : Nat) (way : Nat) (tag : Bool) : Le 757891873 s (wayError s p way tag) := by
  unfold wayError
  dsimp only
  with_reducible refine Le.ite (fun _ => ?_) (fun _ => ?_)
  with_reducible refine Le.next (queueNeed_le ..) (by decide) ?_
  with_reducible refine Le.next (State.modPier_le ..) (by decide) ?_
  exact Le.refl _ _
  with_reducible refine Le.next (State.modPier_le ..) (by decide) ?_
  exact Le.refl _ _

theorem applyRecords_le (s : State) : Le 766281536 s (applyRecords s) := by
  unfold applyRecords
  dsimp only
  with_reducible refine Le.next (extendMeas_le ..) (by decide) ?_
  with_reducible refine Le.forEach ?_ (fun x u hu => ?_)
  with_reducible refine Le.forEach ?_ (fun x u hu => ?_)
  with_reducible refine Le.next (Le.portCfg ..) (by decide) ?_
  exact Le.refl _ _
  with_reducible refine Le.next (trainPair_le ..) (by decide) ?_
  with_reducible assumption
  with_reducible refine Le.next (spareCluster_le ..) (by decide) ?_
  with_reducible assumption

theorem storeCorrect_le (s : State) (t : Nat) (w : Nat) : Le 757891841 s (storeCorrect s t w) := by
  unfold storeCorrect
  dsimp only
  with_reducible refine Le.ite (fun _ => ?_) (fun _ => ?_)
  with_reducible refine Le.next (queueNeed_le ..) (by decide) ?_
  with_reducible refine Le.next (State.modTile_le ..) (by decide) ?_
  with_reducible refine Le.next (countTile_le ..) (by decide) ?_
  exact Le.refl _ _
  with_reducible refine Le.next (State.modTile_le ..) (by decide) ?_
  with_reducible refine Le.next (countTile_le ..) (by decide) ?_
  exact Le.refl _ _

theorem storeBad_le (s : State) (t : Nat) (w : Nat) : Le 757891841 s (storeBad s t w) := by
  unfold storeBad
  dsimp only
  with_reducible refine Le.ite (fun _ => ?_) (fun _ => ?_)
  with_reducible refine Le.next (queueNeed_le ..) (by decide) ?_
  with_reducible refine Le.next (State.modTile_le ..) (by decide) ?_
  exact Le.refl _ _
  with_reducible refine Le.next (State.modTile_le ..) (by decide) ?_
  exact Le.refl _ _

theorem doWalkerParityError_le (walker : Nat) (t : Nat) (q : Nat) (s : State) : Le 757891845 s (doWalkerParityError walker t q s) := by
  unfold doWalkerParityError
  dsimp only
  with_reducible refine Le.ite (fun _ => ?_) (fun _ => ?_)
  exact Le.refl _ _
  with_reducible refine Le.next (queueNeed_le ..) (by decide) ?_
  with_reducible refine Le.next (State.modKs_le _ _ ?_) (by decide) ?_
  with_reducible exact fun h => h
  exact Le.refl _ _

theorem doWaveErrorWindow_le (port : Nat) (overs : WaveMask) (s : State) : Le 757895937 s (doWaveErrorWindow port overs s) := by
  unfold doWaveErrorWindow
  with_reducible refine Le.ite (fun _ => ?_) (fun _ => ?_)
  exact Le.refl _ _
  with_reducible refine Le.forEach ?_ (fun x u hu => ?_)
  exact Le.refl _ _
  dsimp only
  with_reducible refine Le.ite (fun _ => ?_) (fun _ => ?_)
  with_reducible assumption
  with_reducible refine Le.ite (fun _ => ?_) (fun _ => ?_)
  with_reducible refine Le.next (queueNeed_le ..) (by decide) ?_
  with_reducible refine Le.next (State.modPort_le ..) (by decide) ?_
  with_reducible assumption
  with_reducible refine Le.next (State.modPort_le ..) (by decide) ?_
  with_reducible assumption

theorem doPatrolScrub_le (inner : List Nat) (errs : List (Nat × BitVec 576)) (s : State) : Le 755794712 s (doPatrolScrub inner errs s) := by
  unfold doPatrolScrub
  with_reducible refine Le.ite (fun _ => ?_) (fun _ => ?_)
  exact Le.refl _ _
  dsimp only
  with_reducible refine Le.ite (fun _ => ?_) (fun _ => ?_)
  with_reducible refine Le.next (Le.chans ..) (by decide) ?_
  with_reducible refine Le.next (State.modPool_le _ _ ?_) (by decide) ?_
  with_reducible exact fun h => PoolOk.of h rfl rfl rfl
  with_reducible refine Le.forEach ?_ (fun x u hu => ?_)
  with_reducible refine Le.forEach ?_ (fun x u hu => ?_)
  with_reducible refine Le.foldl ?_ (fun u x hu => ?_)
  with_reducible refine Le.forEach ?_ (fun x u hu => ?_)
  with_reducible refine Le.forEach ?_ (fun x u hu => ?_)
  exact Le.refl _ _
  with_reducible refine Le.next (adderEvict_le ..) (by decide) ?_
  with_reducible assumption
  with_reducible refine Le.next (bump_le ..) (by decide) ?_
  with_reducible refine Le.next (countMoved_le ..) (by decide) ?_
  with_reducible assumption
  with_reducible refine Le.next (upsetCw_le ..) (by decide) ?_
  with_reducible assumption
  with_reducible refine Le.next (scrubCw_le ..) (by decide) ?_
  with_reducible assumption
  with_reducible refine Le.next (scrubCw_le ..) (by decide) ?_
  with_reducible assumption
  with_reducible refine Le.next (State.modPool_le _ _ ?_) (by decide) ?_
  with_reducible exact fun h => PoolOk.of h rfl rfl rfl
  with_reducible refine Le.forEach ?_ (fun x u hu => ?_)
  with_reducible refine Le.forEach ?_ (fun x u hu => ?_)
  with_reducible refine Le.foldl ?_ (fun u x hu => ?_)
  with_reducible refine Le.forEach ?_ (fun x u hu => ?_)
  with_reducible refine Le.forEach ?_ (fun x u hu => ?_)
  exact Le.refl _ _
  with_reducible refine Le.next (adderEvict_le ..) (by decide) ?_
  with_reducible assumption
  with_reducible refine Le.next (bump_le ..) (by decide) ?_
  with_reducible refine Le.next (countMoved_le ..) (by decide) ?_
  with_reducible assumption
  with_reducible refine Le.next (upsetCw_le ..) (by decide) ?_
  with_reducible assumption
  with_reducible refine Le.next (scrubCw_le ..) (by decide) ?_
  with_reducible assumption
  with_reducible refine Le.next (scrubCw_le ..) (by decide) ?_
  with_reducible assumption

theorem recoverRow_le (r : RowLoc) (s : State) : Le 755794712 s (recoverRow r s) := by
  unfold recoverRow
  with_reducible refine Le.forEach ?_ (fun x u hu => ?_)
  exact Le.refl _ _
  dsimp only
  with_reducible refine Le.next (countMoved_le ..) (by decide) ?_
  with_reducible refine Le.next (State.modPool_le _ _ ?_) (by decide) ?_
  with_reducible exact fun h => PoolOk.put h _ _ _
  with_reducible refine Le.next (scrubCw_le ..) (by decide) ?_
  with_reducible refine Le.next (State.takeFree_le ..) (by decide) ?_
  with_reducible refine Le.next (countMoved_le ..) (by decide) ?_
  with_reducible refine Le.next (adderEvict_le ..) (by decide) ?_
  with_reducible assumption

theorem doTrussReplay_le (l : Nat) (n : Nat) (east : Bool) (count : Nat) (s : State) : Le 757892865 s (doTrussReplay l n east count s) := by
  unfold doTrussReplay
  dsimp only
  with_reducible refine Le.ite (fun _ => ?_) (fun _ => ?_)
  exact Le.refl _ _
  with_reducible refine Le.ite (fun _ => ?_) (fun _ => ?_)
  with_reducible refine Le.next (queueNeed_le ..) (by decide) ?_
  with_reducible refine Le.next (State.modBundle_le ..) (by decide) ?_
  with_reducible refine Le.next (State.send_le ..) (by decide) ?_
  with_reducible refine Le.next (State.modPair_le ..) (by decide) ?_
  exact Le.refl _ _
  with_reducible refine Le.next (State.modBundle_le ..) (by decide) ?_
  with_reducible refine Le.next (State.send_le ..) (by decide) ?_
  with_reducible refine Le.next (State.modPair_le ..) (by decide) ?_
  exact Le.refl _ _

theorem doLaneEyeCheckFailure_le (l : Nat) (n : Nat) (east : Bool) (lane : Nat) (outright : Bool) (s : State) : Le 757891841 s (doLaneEyeCheckFailure l n east lane outright s) := by
  unfold doLaneEyeCheckFailure
  with_reducible refine Le.ite (fun _ => ?_) (fun _ => ?_)
  exact Le.refl _ _
  with_reducible refine Le.next (queueNeed_le ..) (by decide) ?_
  exact Le.refl _ _

theorem doAgeingSweep_le (x : Sweep) (s : State) : Le 757891841 s (doAgeingSweep x s) := by
  unfold doAgeingSweep
  with_reducible refine Le.ite (fun _ => ?_) (fun _ => ?_)
  exact Le.refl _ _
  with_reducible refine Le.forEach ?_ (fun x u hu => ?_)
  with_reducible refine Le.next (State.modWear_le ..) (by decide) ?_
  exact Le.refl _ _
  with_reducible refine Le.next (queueNeed_le ..) (by decide) ?_
  with_reducible assumption

theorem moveTile_le (s : State) (n : Need) (testOk : Bool) : Le 757891841 s (moveTile s n testOk) := by
  unfold moveTile
  with_reducible refine Le.ite (fun _ => ?_) (fun _ => ?_)
  with_reducible refine Le.next (queueNeed_le ..) (by decide) ?_
  with_reducible refine Le.next (useSpare_le ..) (by decide) ?_
  exact Le.refl _ _
  with_reducible refine Le.ite (fun _ => ?_) (fun _ => ?_)
  with_reducible refine Le.next (startMove_le ..) (by decide) ?_
  with_reducible refine Le.next (State.modWear_le ..) (by decide) ?_
  exact Le.refl _ _
  with_reducible refine Le.next (moveSite_le ..) (by decide) ?_
  exact Le.refl _ _

theorem drainEntry_le (s : State) (p : Nat) (m : Merge) : Le 755794744 s (drainEntry s p m) := by
  unfold drainEntry
  dsimp only
  with_reducible refine Le.forEach ?_ (fun x u hu => ?_)
  with_reducible refine Le.next (State.modPier_le ..) (by decide) ?_
  exact Le.refl _ _
  with_reducible refine Le.ite (fun _ => ?_) (fun _ => ?_)
  with_reducible assumption
  with_reducible refine Le.next (ctrlWrite_le ..) (by decide) ?_
  with_reducible refine Le.next (bump_le ..) (by decide) ?_
  with_reducible assumption

theorem fillValue_le (s : State) (cw : Nat) (inner : Bool) : Le 755794712 s (fillValue s cw inner).1 := by
  unfold fillValue
  dsimp only
  with_reducible refine Le.next (ctrlRead_le ..) (by decide) ?_
  exact Le.refl _ _

theorem sramError_le (s : State) (p : Nat) (cw : Nat) (e : SramErr) : Le 757891897 s (sramError s p cw e) := by
  unfold sramError
  dsimp only
  split
  exact Le.refl _ _
  with_reducible refine Le.ite (fun _ => ?_) (fun _ => ?_)
  with_reducible refine Le.next (countCe_le ..) (by decide) ?_
  exact Le.refl _ _
  exact Le.refl _ _
  split
  with_reducible refine Le.next (wayError_le ..) (by decide) ?_
  with_reducible refine Le.next (State.modPier_le ..) (by decide) ?_
  exact Le.refl _ _
  exact Le.refl _ _
  with_reducible refine Le.ite (fun _ => ?_) (fun _ => ?_)
  with_reducible refine Le.next (wayError_le ..) (by decide) ?_
  with_reducible refine Le.next (State.modPier_le ..) (by decide) ?_
  exact Le.refl _ _
  exact Le.refl _ _
  with_reducible refine Le.ite (fun _ => ?_) (fun _ => ?_)
  with_reducible refine Le.next (countCe_le ..) (by decide) ?_
  exact Le.refl _ _
  exact Le.refl _ _
  with_reducible refine Le.next (bufferLost_le ..) (by decide) ?_
  exact Le.refl _ _
  with_reducible refine Le.ite (fun _ => ?_) (fun _ => ?_)
  with_reducible refine Le.next (countCe_le ..) (by decide) ?_
  exact Le.refl _ _
  exact Le.refl _ _
  with_reducible refine Le.ite (fun _ => ?_) (fun _ => ?_)
  with_reducible refine Le.next (poisonCw_le ..) (by decide) ?_
  exact Le.refl _ _
  exact Le.refl _ _

theorem storeWord_le (t : Nat) (off : Nat) (e : Nat × Nat) (r : State × List Byte × Option Nat) : Le 757891841 r.1 (storeWord t off e r).1 := by
  unfold storeWord
  dsimp only
  with_reducible refine Le.iteP (fun w : State × _ => w.1) (fun _ => ?_) (fun _ => ?_)
  dsimp only
  with_reducible refine Le.next (storeCorrect_le ..) (by decide) ?_
  exact Le.refl _ _
  with_reducible refine Le.iteP (fun w : State × _ => w.1) (fun _ => ?_) (fun _ => ?_)
  dsimp only
  with_reducible refine Le.next (storeBad_le ..) (by decide) ?_
  with_reducible refine Le.ite (fun _ => ?_) (fun _ => ?_)
  exact Le.refl _ _
  with_reducible refine Le.next (State.takeFree_le ..) (by decide) ?_
  exact Le.refl _ _
  dsimp only
  with_reducible refine Le.next (State.takeFree_le ..) (by decide) ?_
  with_reducible refine Le.next (State.takeFree_le ..) (by decide) ?_
  exact Le.refl _ _

theorem narrowPut_le (s : State) (t : Nat) (addr : Nat) (bytes : List Byte) : Le 757891841 s (narrowPut s t addr bytes).1 := by
  unfold narrowPut
  dsimp only
  with_reducible refine Le.iteP (fun w : State × _ => w.1) (fun _ => ?_) (fun _ => ?_)
  dsimp only
  with_reducible refine Le.next (storePut_le ..) (by decide) ?_
  exact Le.refl _ _
  with_reducible refine Le.iteP (fun w : State × _ => w.1) (fun _ => ?_) (fun _ => ?_)
  dsimp only
  with_reducible refine Le.next (State.modTile_le ..) (by decide) ?_
  with_reducible refine Le.next (storeCorrect_le ..) (by decide) ?_
  exact Le.refl _ _
  with_reducible refine Le.iteP (fun w : State × _ => w.1) (fun _ => ?_) (fun _ => ?_)
  dsimp only
  with_reducible refine Le.next (storeBad_le ..) (by decide) ?_
  with_reducible refine Le.ite (fun _ => ?_) (fun _ => ?_)
  exact Le.refl _ _
  with_reducible refine Le.next (State.takeFree_le ..) (by decide) ?_
  exact Le.refl _ _
  dsimp only
  with_reducible refine Le.next (State.modTile_le ..) (by decide) ?_
  with_reducible refine Le.next (State.modTile_le ..) (by decide) ?_
  with_reducible refine Le.next (State.takeFree_le ..) (by decide) ?_
  with_reducible refine Le.next (State.takeFree_le ..) (by decide) ?_
  exact Le.refl _ _

theorem doMemoryRead_le (cw : Nat) (inner : Bool) (err : BitVec 576) (s : State) : Le 755794712 s (doMemoryRead cw inner err s) := by
  unfold doMemoryRead
  dsimp only
  with_reducible refine Le.next (State.send_le ..) (by decide) ?_
  with_reducible refine Le.next (ctrlRead_le ..) (by decide) ?_
  with_reducible refine Le.ite (fun _ => ?_) (fun _ => ?_)
  with_reducible refine Le.next (upsetCw_le ..) (by decide) ?_
  exact Le.refl _ _
  exact Le.refl _ _

theorem doMemoryWrite_le (cw : Nat) (mask : BitVec 64) (data : BitVec 512) (s : State) : Le 755794712 s (doMemoryWrite cw mask data s) := by
  unfold doMemoryWrite
  dsimp only
  with_reducible refine Le.next (State.send_le ..) (by decide) ?_
  with_reducible refine Le.next (ctrlWrite_le ..) (by decide) ?_
  exact Le.refl _ _

theorem doRowRepair_le (ch : Nat) (spare : Bool) (s : State) : Le 755794712 s (doRowRepair ch spare s) := by
  unfold doRowRepair
  dsimp only
  split
  exact Le.refl _ _
  with_reducible refine Le.ite (fun _ => ?_) (fun _ => ?_)
  exact Le.refl _ _
  with_reducible refine Le.ite (fun _ => ?_) (fun _ => ?_)
  with_reducible refine Le.next (logStored_le ..) (by decide) ?_
  with_reducible refine Le.next (State.modPool_le _ _ ?_) (by decide) ?_
  with_reducible exact fun h => PoolOk.of h rfl rfl rfl
  with_reducible refine Le.next (State.modChan_le ..) (by decide) ?_
  with_reducible refine Le.next (recoverRow_le ..) (by decide) ?_
  exact Le.refl _ _
  with_reducible refine Le.ite (fun _ => ?_) (fun _ => ?_)
  with_reducible refine Le.next (logStored_le ..) (by decide) ?_
  with_reducible refine Le.next (State.modPool_le _ _ ?_) (by decide) ?_
  with_reducible exact fun h => PoolOk.of h rfl rfl rfl
  with_reducible refine Le.next (State.modChan_le ..) (by decide) ?_
  with_reducible refine Le.next (recoverRow_le ..) (by decide) ?_
  exact Le.refl _ _
  with_reducible refine Le.next (logEvent_le ..) (by decide) ?_
  with_reducible refine Le.next (logStored_le ..) (by decide) ?_
  with_reducible refine Le.next (State.modPool_le _ _ ?_) (by decide) ?_
  with_reducible exact fun h => PoolOk.of h rfl rfl rfl
  with_reducible refine Le.next (State.modChan_le ..) (by decide) ?_
  with_reducible refine Le.next (recoverRow_le ..) (by decide) ?_
  exact Le.refl _ _

theorem doSubstitution_le (n : Need) (testOk : Bool) (s : State) : Le 757896997 s (doSubstitution n testOk s) := by
  unfold doSubstitution
  dsimp only
  split
  exact Le.refl _ _
  with_reducible refine Le.ite (fun _ => ?_) (fun _ => ?_)
  exact Le.refl _ _
  with_reducible refine Le.ite (fun _ => ?_) (fun _ => ?_)
  with_reducible refine Le.next (State.modWear_le ..) (by decide) ?_
  exact Le.refl _ _
  with_reducible refine Le.ite (fun _ => ?_) (fun _ => ?_)
  with_reducible refine Le.next (unmetNeed_le ..) (by decide) ?_
  with_reducible refine Le.next (State.modWear_le ..) (by decide) ?_
  exact Le.refl _ _
  split
  with_reducible refine Le.next (moveTile_le ..) (by decide) ?_
  with_reducible refine Le.next (State.modWear_le ..) (by decide) ?_
  exact Le.refl _ _
  with_reducible refine Le.next (retrainLane_le ..) (by decide) ?_
  with_reducible refine Le.next (State.modWear_le ..) (by decide) ?_
  exact Le.refl _ _
  with_reducible refine Le.next (spareWave_le ..) (by decide) ?_
  with_reducible refine Le.next (State.modWear_le ..) (by decide) ?_
  exact Le.refl _ _
  with_reducible refine Le.next (spareLaser_le ..) (by decide) ?_
  with_reducible refine Le.next (State.modWear_le ..) (by decide) ?_
  exact Le.refl _ _
  with_reducible refine Le.next (spareWalker_le ..) (by decide) ?_
  with_reducible refine Le.next (State.modWear_le ..) (by decide) ?_
  exact Le.refl _ _
  with_reducible refine Le.next (spareWay_le ..) (by decide) ?_
  with_reducible refine Le.next (State.modWear_le ..) (by decide) ?_
  exact Le.refl _ _

theorem drainLine_le (s : State) (p : Nat) (line : Nat) : Le 755794744 s (drainLine s p line) := by
  unfold drainLine
  split
  with_reducible refine Le.next (drainEntry_le ..) (by decide) ?_
  exact Le.refl _ _
  exact Le.refl _ _

theorem latchFills_le (s : State) (p : Nat) (cw : Nat) : Le 755794744 s (latchFills s p cw) := by
  unfold latchFills
  with_reducible refine Le.ite (fun _ => ?_) (fun _ => ?_)
  dsimp only
  with_reducible refine Le.next (State.modPier_le ..) (by decide) ?_
  with_reducible refine Le.next (fillValue_le ..) (by decide) ?_
  with_reducible refine Le.next (State.takeFree_le ..) (by decide) ?_
  exact Le.refl _ _
  exact Le.refl _ _

theorem doAdderStoreEvict_le (ch : Nat) (cw : Nat) (e : SramErr) (s : State) : Le 757891897 s (doAdderStoreEvict ch cw e s) := by
  unfold doAdderStoreEvict
  dsimp only
  with_reducible refine Le.next (adderEvict_le ..) (by decide) ?_
  split
  with_reducible refine Le.ite (fun _ => ?_) (fun _ => ?_)
  with_reducible refine Le.next (sramError_le ..) (by decide) ?_
  exact Le.refl _ _
  exact Le.refl _ _
  with_reducible refine Le.ite (fun _ => ?_) (fun _ => ?_)
  with_reducible refine Le.next (sramError_le ..) (by decide) ?_
  exact Le.refl _ _
  exact Le.refl _ _
  exact Le.refl _ _

theorem pierGet_le (s : State) (cw : Nat) (sectors : BitVec 4) : Le 755794744 s (pierGet s cw sectors).1 := by
  unfold pierGet
  with_reducible refine Le.iteP (fun w : State × _ => w.1) (fun _ => ?_) (fun _ => ?_)
  exact Le.refl _ _
  dsimp only
  with_reducible refine Le.iteP (fun w : State × _ => w.1) (fun _ => ?_) (fun _ => ?_)
  dsimp only
  with_reducible refine Le.next (bump_le ..) (by decide) ?_
  with_reducible refine Le.next (touchLine_le ..) (by decide) ?_
  exact Le.refl _ _
  with_reducible refine Le.iteP (fun w : State × _ => w.1) (fun _ => ?_) (fun _ => ?_)
  with_reducible refine Le.next (fillValue_le ..) (by decide) ?_
  with_reducible refine Le.next (bump_le ..) (by decide) ?_
  with_reducible refine Le.next (State.takeFree_le ..) (by decide) ?_
  with_reducible refine Le.next (bump_le ..) (by decide) ?_
  with_reducible refine Le.next (touchLine_le ..) (by decide) ?_
  exact Le.refl _ _
  dsimp only
  with_reducible refine Le.next (prefetchNext_le ..) (by decide) ?_
  with_reducible refine Le.next (fillCw_le ..) (by decide) ?_
  with_reducible refine Le.next (fillValue_le ..) (by decide) ?_
  with_reducible refine Le.next (State.takeFree_le ..) (by decide) ?_
  with_reducible refine Le.ite (fun _ => ?_) (fun _ => ?_)
  with_reducible refine Le.next (allocLine_le ..) (by decide) ?_
  with_reducible refine Le.next (bump_le ..) (by decide) ?_
  with_reducible refine Le.next (touchLine_le ..) (by decide) ?_
  exact Le.refl _ _
  with_reducible refine Le.next (bump_le ..) (by decide) ?_
  with_reducible refine Le.next (touchLine_le ..) (by decide) ?_
  exact Le.refl _ _

theorem drainFull_le (a0 : Nat) (a1 : State) (a2 : Nat) : Le 755794744 a1 (drainFull a0 a1 a2) := by
  induction a0 generalizing a1 a2 with
  | zero => exact Le.refl _ _
  | succ n ih =>
    unfold drainFull
    split
    with_reducible refine Le.ite (fun _ => ?_) (fun _ => ?_)
    with_reducible refine Le.next (ih ..) (by decide) ?_
    with_reducible refine Le.next (drainEntry_le ..) (by decide) ?_
    exact Le.refl _ _
    exact Le.refl _ _
    exact Le.refl _ _

theorem fetchLine_le (s : State) (p : Nat) (line : Nat) : Le 755794744 s (fetchLine s p line) := by
  unfold fetchLine
  dsimp only
  with_reducible refine Le.forEach ?_ (fun x u hu => ?_)
  with_reducible refine Le.ite (fun _ => ?_) (fun _ => ?_)
  with_reducible refine Le.next (allocLine_le ..) (by decide) ?_
  exact Le.refl _ _
  exact Le.refl _ _
  split
  with_reducible assumption
  with_reducible refine Le.next (fillCw_le ..) (by decide) ?_
  with_reducible refine Le.next (fillValue_le ..) (by decide) ?_
  with_reducible refine Le.next (State.takeFree_le ..) (by decide) ?_
  with_reducible assumption

theorem Work.touch_le (w : Work) (off : Nat) (n : Nat) : Le 757891841 w.s (Work.touch w off n).s := by
  unfold Work.touch
  dsimp only
  with_reducible refine Le.foldlP (fun w : Work => w.s) ?_ (fun u x hu => ?_)
  exact Le.refl _ _
  split
  with_reducible refine Le.next (Work.fail_le ..) (by decide) ?_
  dsimp only
  with_reducible refine Le.next (storeWord_le ..) (by decide) ?_
  with_reducible assumption
  dsimp only
  with_reducible refine Le.next (storeWord_le ..) (by decide) ?_
  with_reducible assumption

theorem enginePut_le (s : State) (t : Nat) (off : Nat) (bytes : List Byte) : Le 757891841 s (enginePut s t off bytes).1 := by
  unfold enginePut
  dsimp only
  with_reducible refine Le.foldlP (fun w : State × _ => w.1) ?_ (fun u x hu => ?_)
  dsimp only
  with_reducible refine Le.ite (fun _ => ?_) (fun _ => ?_)
  with_reducible refine Le.next (storePut_le ..) (by decide) ?_
  exact Le.refl _ _
  exact Le.refl _ _
  dsimp only
  with_reducible refine Le.next (narrowPut_le ..) (by decide) ?_
  with_reducible assumption

theorem storeRead_le (s : State) (t : Nat) (off : Nat) (n : Nat) : Le 757891841 s (storeRead s t off n).1 := by
  unfold storeRead
  dsimp only
  with_reducible refine Le.foldlP (fun w : State × _ => w.1) ?_ (fun u x hu => ?_)
  exact Le.refl _ _
  with_reducible refine Le.next (storeWord_le ..) (by decide) ?_
  with_reducible assumption

theorem doPierRead_le (p : Nat) (addr : Nat) (sectors : BitVec 4) (e : SramErr) (s : State) : Le 757891897 s (doPierRead p addr sectors e s) := by
  unfold doPierRead
  dsimp only
  with_reducible refine Le.ite (fun _ => ?_) (fun _ => ?_)
  exact Le.refl _ _
  with_reducible refine Le.ite (fun _ => ?_) (fun _ => ?_)
  with_reducible refine Le.next (State.send_le ..) (by decide) ?_
  exact Le.refl _ _
  with_reducible refine Le.ite (fun _ => ?_) (fun _ => ?_)
  with_reducible refine Le.next (deliver_le ..) (by decide) ?_
  with_reducible refine Le.next (bump_le ..) (by decide) ?_
  with_reducible refine Le.next (touchLine_le ..) (by decide) ?_
  with_reducible refine Le.next (sramError_le ..) (by decide) ?_
  exact Le.refl _ _
  with_reducible refine Le.ite (fun _ => ?_) (fun _ => ?_)
  with_reducible refine Le.next (sramError_le ..) (by decide) ?_
  exact Le.refl _ _
  with_reducible refine Le.ite (fun _ => ?_) (fun _ => ?_)
  with_reducible refine Le.next (addFills_le ..) (by decide) ?_
  with_reducible refine Le.next (bump_le ..) (by decide) ?_
  with_reducible refine Le.next (bump_le ..) (by decide) ?_
  with_reducible refine Le.next (touchLine_le ..) (by decide) ?_
  with_reducible refine Le.next (deliver_le ..) (by decide) ?_
  with_reducible refine Le.next (sramError_le ..) (by decide) ?_
  exact Le.refl _ _
  with_reducible refine Le.next (prefetchNext_le ..) (by decide) ?_
  with_reducible refine Le.next (addFills_le ..) (by decide) ?_
  with_reducible refine Le.ite (fun _ => ?_) (fun _ => ?_)
  with_reducible refine Le.next (allocLine_le ..) (by decide) ?_
  with_reducible refine Le.next (bump_le ..) (by decide) ?_
  with_reducible refine Le.next (touchLine_le ..) (by decide) ?_
  with_reducible refine Le.next (deliver_le ..) (by decide) ?_
  with_reducible refine Le.next (sramError_le ..) (by decide) ?_
  exact Le.refl _ _
  with_reducible refine Le.next (bump_le ..) (by decide) ?_
  with_reducible refine Le.next (touchLine_le ..) (by decide) ?_
  with_reducible refine Le.next (deliver_le ..) (by decide) ?_
  with_reducible refine Le.next (sramError_le ..) (by decide) ?_
  exact Le.refl _ _

theorem doFillReturn_le (p : Nat) (cw : Nat) (inner : Bool) (flips : Flips) (s : State) : Le 755794744 s (doFillReturn p cw inner flips s) := by
  unfold doFillReturn
  dsimp only
  split
  exact Le.refl _ _
  with_reducible refine Le.ite (fun _ => ?_) (fun _ => ?_)
  with_reducible refine Le.next (fillCw_le ..) (by decide) ?_
  split
  dsimp only
  with_reducible refine Le.next (State.modPier_le ..) (by decide) ?_
  exact Le.refl _ _
  dsimp only
  with_reducible refine Le.next (fillValue_le ..) (by decide) ?_
  with_reducible refine Le.next (State.modPier_le ..) (by decide) ?_
  exact Le.refl _ _
  with_reducible refine Le.next (State.send_le ..) (by decide) ?_
  with_reducible refine Le.next (fillCw_le ..) (by decide) ?_
  split
  dsimp only
  with_reducible refine Le.next (State.modPier_le ..) (by decide) ?_
  exact Le.refl _ _
  dsimp only
  with_reducible refine Le.next (fillValue_le ..) (by decide) ?_
  with_reducible refine Le.next (State.modPier_le ..) (by decide) ?_
  exact Le.refl _ _

theorem adderForward_le (s : State) (addr : Nat) (n : Nat) : Le 755794744 s (adderForward s addr n) := by
  unfold adderForward
  dsimp only
  with_reducible refine Le.next (State.modPier_le ..) (by decide) ?_
  with_reducible refine Le.next (drainLine_le ..) (by decide) ?_
  with_reducible refine Le.next (latchFills_le ..) (by decide) ?_
  exact Le.refl _ _

theorem readPool_le (s : State) (addr : Nat) (n : Nat) : Le 755794744 s (readPool s addr n).1 := by
  unfold readPool
  dsimp only
  with_reducible refine Le.foldlP (fun w : State × _ => w.1) ?_ (fun u x hu => ?_)
  exact Le.refl _ _
  dsimp only
  with_reducible refine Le.next (pierGet_le ..) (by decide) ?_
  with_reducible assumption

theorem storePoison_le (s : State) (cw : Nat) : Le 755794744 s (storePoison s cw) := by
  unfold storePoison
  dsimp only
  with_reducible refine Le.next (State.modPool_le _ _ ?_) (by decide) ?_
  with_reducible exact fun h => PoolOk.put h _ _ _
  with_reducible refine Le.next (State.modPier_le ..) (by decide) ?_
  with_reducible refine Le.next (latchFills_le ..) (by decide) ?_
  with_reducible refine Le.next (State.modChan_le ..) (by decide) ?_
  exact Le.refl _ _

theorem pierStore_le (s : State) (line : Nat) (mask : BitVec 128) (data : BitVec 1024) : Le 755794744 s (pierStore s line mask data) := by
  unfold pierStore
  dsimp only
  with_reducible refine Le.ite (fun _ => ?_) (fun _ => ?_)
  exact Le.refl _ _
  with_reducible refine Le.next (drainFull_le ..) (by decide) ?_
  split
  with_reducible refine Le.ite (fun _ => ?_) (fun _ => ?_)
  with_reducible refine Le.next (drainEntry_le ..) (by decide) ?_
  with_reducible refine Le.next (State.setPier_le ..) (by decide) ?_
  with_reducible refine Le.next (bump_le ..) (by decide) ?_
  with_reducible refine Le.next (State.takeFree_le ..) (by decide) ?_
  with_reducible refine Le.next (latchFills_le ..) (by decide) ?_
  with_reducible refine Le.next (latchFills_le ..) (by decide) ?_
  exact Le.refl _ _
  with_reducible refine Le.next (State.setPier_le ..) (by decide) ?_
  with_reducible refine Le.next (bump_le ..) (by decide) ?_
  with_reducible refine Le.next (State.takeFree_le ..) (by decide) ?_
  with_reducible refine Le.next (latchFills_le ..) (by decide) ?_
  with_reducible refine Le.next (latchFills_le ..) (by decide) ?_
  exact Le.refl _ _
  with_reducible refine Le.next (State.setPier_le ..) (by decide) ?_
  with_reducible refine Le.next (bump_le ..) (by decide) ?_
  with_reducible refine Le.next (State.takeFree_le ..) (by decide) ?_
  with_reducible refine Le.next (latchFills_le ..) (by decide) ?_
  with_reducible refine Le.next (latchFills_le ..) (by decide) ?_
  exact Le.refl _ _

theorem sendData_le (s : State) (cl : Nat) (line : Nat) : Le 755794744 s (sendData s cl line) := by
  unfold sendData
  dsimp only
  with_reducible refine Le.next (sendCoh_le ..) (by decide) ?_
  with_reducible refine Le.next (pierGet_le ..) (by decide) ?_
  exact Le.refl _ _

theorem rangeLine_le (op : Nat) (p : Nat) (line : Nat) (s : State) : Le 755794744 s (rangeLine op p line s) := by
  unfold rangeLine
  split
  with_reducible refine Le.next (State.modPier_le ..) (by decide) ?_
  exact Le.refl _ _
  with_reducible refine Le.forEach ?_ (fun x u hu => ?_)
  with_reducible refine Le.next (drainLine_le ..) (by decide) ?_
  exact Le.refl _ _
  with_reducible refine Le.next (adderEvict_le ..) (by decide) ?_
  with_reducible assumption
  with_reducible refine Le.next (fetchLine_le ..) (by decide) ?_
  exact Le.refl _ _
  with_reducible refine Le.next (lockLine_le ..) (by decide) ?_
  with_reducible refine Le.next (fetchLine_le ..) (by decide) ?_
  exact Le.refl _ _
  with_reducible refine Le.next (State.modPier_le ..) (by decide) ?_
  exact Le.refl _ _

theorem Work.le_le (w : Work) (off : Nat) (n : Nat) : Le 757891841 w.s (Work.le w off n).1.s := by
  unfold Work.le
  dsimp only
  with_reducible refine Le.next (Work.touch_le ..) (by decide) ?_
  exact Le.refl _ _

theorem Work.bits_le (w : Work) (r : TRec) (n : Nat) (idx : List Nat) : Le 757891841 w.s (Work.bits w r n idx).1.s := by
  unfold Work.bits
  dsimp only
  with_reducible refine Le.iteP (fun w : Work => w.s) (fun _ => ?_) (fun _ => ?_)
  with_reducible refine Le.next (Work.touchMem_le ..) (by decide) ?_
  exact Le.refl _ _
  with_reducible refine Le.next (Work.touch_le ..) (by decide) ?_
  exact Le.refl _ _

theorem putScatter_le (s : State) (t : Nat) (w : Scatter) : Le 757891841 s (putScatter s t w).1 := by
  unfold putScatter
  with_reducible refine Le.foldlP (fun w : State × _ => w.1) ?_ (fun u x hu => ?_)
  exact Le.refl _ _
  dsimp only
  with_reducible refine Le.next (enginePut_le ..) (by decide) ?_
  with_reducible assumption

theorem readRanges_le (s : State) (t : Nat) (ranges : List (Nat × Nat)) : Le 757891841 s (readRanges s t ranges).1 := by
  unfold readRanges
  with_reducible refine Le.iteP (fun w : State × _ => w.1) (fun _ => ?_) (fun _ => ?_)
  exact Le.refl _ _
  with_reducible refine Le.foldlP (fun w : State × _ => w.1) ?_ (fun u x hu => ?_)
  exact Le.refl _ _
  dsimp only
  with_reducible refine Le.next (storeRead_le ..) (by decide) ?_
  with_reducible assumption

theorem storeAccess_le (s : State) (t : Nat) (k : AccKind) (n : Nat) (addr : Nat) (v : W32) : Le 757891841 s (storeAccess s t k n addr v).st := by
  unfold storeAccess
  dsimp only
  split
  split
  dsimp only
  with_reducible refine Le.next (storeRead_le ..) (by decide) ?_
  exact Le.refl _ _
  dsimp only
  with_reducible refine Le.next (storeRead_le ..) (by decide) ?_
  exact Le.refl _ _
  split
  dsimp only
  with_reducible refine Le.next (storeRead_le ..) (by decide) ?_
  exact Le.refl _ _
  dsimp only
  with_reducible refine Le.next (storeRead_le ..) (by decide) ?_
  exact Le.refl _ _
  dsimp only
  with_reducible refine Le.next (narrowPut_le ..) (by decide) ?_
  exact Le.refl _ _
  split
  split
  dsimp only
  with_reducible refine Le.next (storeRead_le ..) (by decide) ?_
  exact Le.refl _ _
  dsimp only
  with_reducible refine Le.next (storeRead_le ..) (by decide) ?_
  exact Le.refl _ _
  dsimp only
  with_reducible refine Le.next (State.modCore_le ..) (by decide) ?_
  split
  dsimp only
  with_reducible refine Le.next (storeRead_le ..) (by decide) ?_
  exact Le.refl _ _
  dsimp only
  with_reducible refine Le.next (storeRead_le ..) (by decide) ?_
  exact Le.refl _ _
  with_reducible refine Le.iteP (fun w : Acc => w.st) (fun _ => ?_) (fun _ => ?_)
  dsimp only
  with_reducible refine Le.next (State.modCore_le ..) (by decide) ?_
  with_reducible refine Le.next (narrowPut_le ..) (by decide) ?_
  exact Le.refl _ _
  dsimp only
  with_reducible refine Le.next (State.modCore_le ..) (by decide) ?_
  exact Le.refl _ _
  split
  dsimp only
  split
  dsimp only
  with_reducible refine Le.next (storeRead_le ..) (by decide) ?_
  exact Le.refl _ _
  dsimp only
  with_reducible refine Le.next (storeRead_le ..) (by decide) ?_
  exact Le.refl _ _
  dsimp only
  with_reducible refine Le.next (narrowPut_le ..) (by decide) ?_
  split
  dsimp only
  with_reducible refine Le.next (storeRead_le ..) (by decide) ?_
  exact Le.refl _ _
  dsimp only
  with_reducible refine Le.next (storeRead_le ..) (by decide) ?_
  exact Le.refl _ _

theorem takeAck_le (s : State) (t : Nat) (q : Nat) (seq : W32) (a : Ack) : Le 757891841 s (takeAck s t q seq a) := by
  unfold takeAck
  dsimp only
  split
  with_reducible refine Le.next (modEntry_le ..) (by decide) ?_
  exact Le.refl _ _
  split
  with_reducible refine Le.next (modEntry_le ..) (by decide) ?_
  with_reducible refine Le.next (enginePut_le ..) (by decide) ?_
  with_reducible refine Le.next (modEntry_le ..) (by decide) ?_
  exact Le.refl _ _
  with_reducible refine Le.next (enginePut_le ..) (by decide) ?_
  with_reducible refine Le.next (modEntry_le ..) (by decide) ?_
  exact Le.refl _ _

theorem acceptData_le (s : State) (t : Nat) (chan : Nat) (hdr : List Byte) (payload : List Byte) : Le 757891841 s (acceptData s t chan hdr payload) := by
  unfold acceptData
  dsimp only
  with_reducible refine Le.next (raiseSrc_le ..) (by decide) ?_
  with_reducible refine Le.next (tileEvent_le ..) (by decide) ?_
  with_reducible refine Le.next (State.modTile_le ..) (by decide) ?_
  with_reducible refine Le.next (enginePut_le ..) (by decide) ?_
  exact Le.refl _ _

theorem doMergeAgeDrain_le (p : Nat) (line : Nat) (e : SramErr) (s : State) : Le 757891897 s (doMergeAgeDrain p line e s) := by
  unfold doMergeAgeDrain
  with_reducible refine Le.next (drainLine_le ..) (by decide) ?_
  split
  with_reducible refine Le.next (sramError_le ..) (by decide) ?_
  exact Le.refl _ _
  with_reducible refine Le.next (sramError_le ..) (by decide) ?_
  exact Le.refl _ _
  exact Le.refl _ _

theorem putChunk_le (s : State) (t : Nat) (l : LoadRun) : Le 757891841 s (putChunk s t l).1 := by
  unfold putChunk
  dsimp only
  split
  dsimp only
  with_reducible refine Le.next (State.modTile_le ..) (by decide) ?_
  with_reducible refine Le.next (enginePut_le ..) (by decide) ?_
  exact Le.refl _ _
  dsimp only
  with_reducible refine Le.next (enginePut_le ..) (by decide) ?_
  exact Le.refl _ _

theorem adderApply_le (s : State) (addr : Nat) (a : BitVec 8) (v : Nat) (cmp : Nat) : Le 755794744 s (adderApply s addr a v cmp).1 := by
  unfold adderApply
  dsimp only
  with_reducible refine Le.iteP (fun w : State × _ => w.1) (fun _ => ?_) (fun _ => ?_)
  exact Le.refl _ _
  with_reducible refine Le.iteP (fun w : State × _ => w.1) (fun _ => ?_) (fun _ => ?_)
  dsimp only
  with_reducible refine Le.next (adderLoad_le ..) (by decide) ?_
  with_reducible refine Le.next (adderForward_le ..) (by decide) ?_
  exact Le.refl _ _
  split
  dsimp only
  with_reducible refine Le.next (adderLoad_le ..) (by decide) ?_
  with_reducible refine Le.next (adderForward_le ..) (by decide) ?_
  exact Le.refl _ _
  dsimp only
  with_reducible refine Le.next (bump_le ..) (by decide) ?_
  with_reducible refine Le.next (State.modChan_le ..) (by decide) ?_
  with_reducible refine Le.next (adderLoad_le ..) (by decide) ?_
  with_reducible refine Le.next (adderForward_le ..) (by decide) ?_
  exact Le.refl _ _

theorem lineStore_le (s : State) (line : Nat) (mask : BitVec 64) (data : BitVec 512) : Le 755794744 s (lineStore s line mask data) := by
  unfold lineStore
  dsimp only
  with_reducible refine Le.next (pierStore_le ..) (by decide) ?_
  exact Le.refl _ _

theorem writePool_le (s : State) (addr : Nat) (bytes : List Byte) : Le 755794744 s (writePool s addr bytes).1 := by
  unfold writePool
  with_reducible refine Le.foldlP (fun w : State × _ => w.1) ?_ (fun u x hu => ?_)
  exact Le.refl _ _
  dsimp only
  with_reducible refine Le.next (pierStore_le ..) (by decide) ?_
  with_reducible assumption

theorem readImage_le (s : State) (a1 : ImgSrc) : Le 755794744 s (readImage s a1) := by
  unfold readImage
  split
  with_reducible refine Le.next (readPool_le ..) (by decide) ?_
  exact Le.refl _ _
  exact Le.refl _ _

theorem rangeAdvance_le (a0 : Nat) (a1 : State) (a2 : Nat) (a3 : Nat) : Le 755794744 a1 (rangeAdvance a0 a1 a2 a3) := by
  induction a0 generalizing a1 a2 a3 with
  | zero => exact Le.refl _ _
  | succ n ih =>
    unfold rangeAdvance
    dsimp only
    with_reducible refine Le.ite (fun _ => ?_) (fun _ => ?_)
    exact Le.refl _ _
    with_reducible refine Le.ite (fun _ => ?_) (fun _ => ?_)
    with_reducible refine Le.ite (fun _ => ?_) (fun _ => ?_)
    exact Le.refl _ _
    with_reducible refine Le.next (ih ..) (by decide) ?_
    with_reducible refine Le.next (State.modPier_le ..) (by decide) ?_
    with_reducible refine Le.next (bump_le ..) (by decide) ?_
    with_reducible refine Le.next (rangeLine_le ..) (by decide) ?_
    exact Le.refl _ _
    with_reducible refine Le.next (ih ..) (by decide) ?_
    with_reducible refine Le.next (State.modPier_le ..) (by decide) ?_
    exact Le.refl _ _

theorem Work.elemIn_le (w : Work) (c : ChainCfg) (r : TRec) (code : Nat) (mx : Bool) (sc : Nat) (idx : List Nat) : Le 757891841 w.s (Work.elemIn w c r code mx sc idx).1.s := by
  unfold Work.elemIn
  dsimp only
  with_reducible refine Le.next (Work.bits_le ..) (by decide) ?_
  with_reducible refine Le.iteP (fun w : Work × _ => w.1.s) (fun _ => ?_) (fun _ => ?_)
  with_reducible refine Le.next (Work.le_le ..) (by decide) ?_
  exact Le.refl _ _
  exact Le.refl _ _

theorem Work.softEnd_le (w : Work) (c : ChainCfg) : Le 757891841 w.s (Work.softEnd w c).s := by
  unfold Work.softEnd
  dsimp only
  split
  with_reducible refine Le.next (Work.flag_le ..) (by decide) ?_
  exact Le.refl _ _
  with_reducible refine Le.iteP (fun w : Work => w.s) (fun _ => ?_) (fun _ => ?_)
  with_reducible refine Le.next (Work.le_le ..) (by decide) ?_
  with_reducible refine Le.next (Work.flag_le ..) (by decide) ?_
  exact Le.refl _ _
  with_reducible refine Le.next (Work.putResult_le ..) (by decide) ?_
  with_reducible refine Le.next (Work.put_le ..) (by decide) ?_
  with_reducible refine Le.next (Work.flag_le ..) (by decide) ?_
  with_reducible refine Le.next (Work.le_le ..) (by decide) ?_
  with_reducible refine Le.next (Work.flag_le ..) (by decide) ?_
  exact Le.refl _ _

theorem Work.segPtr_le (w : Work) (g : TRec) (k : Nat) : Le 757891841 w.s (Work.segPtr w g k).1.s := by
  unfold Work.segPtr
  dsimp only
  with_reducible refine Le.iteP (fun w : Work => w.s) (fun _ => ?_) (fun _ => ?_)
  with_reducible refine Le.next (Work.fail_le ..) (by decide) ?_
  with_reducible refine Le.next (Work.bits_le ..) (by decide) ?_
  exact Le.refl _ _
  with_reducible refine Le.next (Work.bits_le ..) (by decide) ?_
  exact Le.refl _ _

theorem Work.oldByte_le (w : Work) (c : ChainCfg) (d : TRec) (a : Nat) : Le 757891897 w.s (Work.oldByte w c d a).1.s := by
  unfold Work.oldByte
  with_reducible refine Le.iteP (fun w : Work × _ => w.1.s) (fun _ => ?_) (fun _ => ?_)
  with_reducible refine Le.next (Work.le_le ..) (by decide) ?_
  exact Le.refl _ _
  with_reducible refine Le.iteP (fun w : Work × _ => w.1.s) (fun _ => ?_) (fun _ => ?_)
  dsimp only
  with_reducible refine Le.next (Work.touchMem_le ..) (by decide) ?_
  exact Le.refl _ _
  dsimp only
  split
  with_reducible refine Le.iteP (fun w : Work × _ => w.1.s) (fun _ => ?_) (fun _ => ?_)
  dsimp only
  with_reducible refine Le.next (State.takeFree_le ..) (by decide) ?_
  exact Le.refl _ _
  dsimp only
  with_reducible refine Le.next (readPool_le ..) (by decide) ?_
  exact Le.refl _ _
  exact Le.refl _ _

theorem Work.scatterAt_le (w : Work) (c : ChainCfg) (d : TRec) (k : Nat) (v : Val) : Le 757891841 w.s (Work.scatterAt w c d k v).s := by
  unfold Work.scatterAt
  dsimp only
  with_reducible refine Le.iteP (fun w : Work => w.s) (fun _ => ?_) (fun _ => ?_)
  with_reducible refine Le.iteP (fun w : Work => w.s) (fun _ => ?_) (fun _ => ?_)
  with_reducible refine Le.iteP (fun w : Work × _ => w.1.s) (fun _ => ?_) (fun _ => ?_)
  with_reducible refine Le.next (Work.bits_le ..) (by decide) ?_
  exact Le.refl _ _
  exact Le.refl _ _
  with_reducible refine Le.iteP (fun w : Work => w.s) (fun _ => ?_) (fun _ => ?_)
  with_reducible refine Le.next (Work.touchMem_le ..) (by decide) ?_
  with_reducible refine Le.iteP (fun w : Work × _ => w.1.s) (fun _ => ?_) (fun _ => ?_)
  with_reducible refine Le.next (Work.bits_le ..) (by decide) ?_
  exact Le.refl _ _
  exact Le.refl _ _
  with_reducible refine Le.next (Work.touch_le ..) (by decide) ?_
  with_reducible refine Le.iteP (fun w : Work × _ => w.1.s) (fun _ => ?_) (fun _ => ?_)
  with_reducible refine Le.next (Work.bits_le ..) (by decide) ?_
  exact Le.refl _ _
  exact Le.refl _ _
  with_reducible refine Le.next (Work.putD_le ..) (by decide) ?_
  with_reducible refine Le.next (Work.flag_le ..) (by decide) ?_
  with_reducible refine Le.iteP (fun w : Work => w.s) (fun _ => ?_) (fun _ => ?_)
  with_reducible refine Le.iteP (fun w : Work × _ => w.1.s) (fun _ => ?_) (fun _ => ?_)
  with_reducible refine Le.next (Work.bits_le ..) (by decide) ?_
  exact Le.refl _ _
  exact Le.refl _ _
  with_reducible refine Le.iteP (fun w : Work => w.s) (fun _ => ?_) (fun _ => ?_)
  with_reducible refine Le.next (Work.touchMem_le ..) (by decide) ?_
  with_reducible refine Le.iteP (fun w : Work × _ => w.1.s) (fun _ => ?_) (fun _ => ?_)
  with_reducible refine Le.next (Work.bits_le ..) (by decide) ?_
  exact Le.refl _ _
  exact Le.refl _ _
  with_reducible refine Le.next (Work.touch_le ..) (by decide) ?_
  with_reducible refine Le.iteP (fun w : Work × _ => w.1.s) (fun _ => ?_) (fun _ => ?_)
  with_reducible refine Le.next (Work.bits_le ..) (by decide) ?_
  exact Le.refl _ _
  exact Le.refl _ _

theorem Work.routeRow_le (w : Work) (c : ChainCfg) (row : Nat) : Le 757891841 w.s (Work.routeRow w c row).s := by
  unfold Work.routeRow
  dsimp only
  with_reducible refine Le.next (Work.put_le ..) (by decide) ?_
  with_reducible refine Le.foldlP (fun w : Work => w.s) ?_ (fun u x hu => ?_)
  exact Le.refl _ _
  with_reducible refine Le.iteP (fun w : Work => w.s) (fun _ => ?_) (fun _ => ?_)
  with_reducible refine Le.next (Work.le_le ..) (by decide) ?_
  with_reducible assumption
  dsimp only
  with_reducible refine Le.next (Work.put_le ..) (by decide) ?_
  with_reducible refine Le.next (Work.flag_le ..) (by decide) ?_
  with_reducible refine Le.next (Work.le_le ..) (by decide) ?_
  with_reducible assumption

theorem Work.loadVec_le (w : Work) (c : ChainCfg) (idx : List Nat) : Le 757891841 w.s (Work.loadVec w c idx).s := by
  unfold Work.loadVec
  dsimp only
  split
  exact Le.refl _ _
  with_reducible refine Le.iteP (fun w : Work => w.s) (fun _ => ?_) (fun _ => ?_)
  exact Le.refl _ _
  dsimp only
  with_reducible refine Le.foldlP (fun w : Work × _ => w.1.s) ?_ (fun u x hu => ?_)
  exact Le.refl _ _
  dsimp only
  with_reducible refine Le.next (Work.satSeen_le ..) (by decide) ?_
  with_reducible refine Le.next (Work.flag_le ..) (by decide) ?_
  with_reducible refine Le.next (Work.bits_le ..) (by decide) ?_
  with_reducible assumption

theorem Work.maskBit_le (w : Work) (c : ChainCfg) (idx : List Nat) : Le 757891841 w.s (Work.maskBit w c idx).1.s := by
  unfold Work.maskBit
  dsimp only
  split
  with_reducible refine Le.iteP (fun w : Work × _ => w.1.s) (fun _ => ?_) (fun _ => ?_)
  dsimp only
  with_reducible refine Le.next (Work.bits_le ..) (by decide) ?_
  exact Le.refl _ _
  exact Le.refl _ _
  exact Le.refl _ _

theorem collPkt_le (s : State) (c : Coll) (k : Nat) (ring : Nat) (step : Nat) (to_ : Nat) (e : Nat × Nat) : Le 755794744 s (collPkt s c k ring step to_ e).1 := by
  unfold collPkt
  dsimp only
  with_reducible refine Le.next (addressed_le ..) (by decide) ?_
  with_reducible refine Le.next (readPool_le ..) (by decide) ?_
  exact Le.refl _ _

theorem Coll.trigger_le (s : State) (c : Coll) : Le 755794744 s (Coll.trigger s c).1 := by
  unfold Coll.trigger
  with_reducible refine Le.iteP (fun w : State × _ => w.1) (fun _ => ?_) (fun _ => ?_)
  exact Le.refl _ _
  dsimp only
  with_reducible refine Le.next (readPool_le ..) (by decide) ?_
  exact Le.refl _ _

theorem Coll.contribution_le (s : State) (c : Coll) : Le 755794744 s (Coll.contribution s c).1 := by
  unfold Coll.contribution
  with_reducible refine Le.iteP (fun w : State × _ => w.1) (fun _ => ?_) (fun _ => ?_)
  exact Le.refl _ _
  with_reducible refine Le.iteP (fun w : State × _ => w.1) (fun _ => ?_) (fun _ => ?_)
  exact Le.refl _ _
  with_reducible refine Le.next (readPool_le ..) (by decide) ?_
  exact Le.refl _ _

theorem startChain_le (s : State) (t : Nat) (q : Nat) (e : QEntry) : Le 758940417 s (startChain s t q e) := by
  unfold startChain
  dsimp only
  split
  with_reducible refine Le.next (endEntry_le ..) (by decide) ?_
  with_reducible refine Le.next (readRanges_le ..) (by decide) ?_
  exact Le.refl _ _
  split
  with_reducible refine Le.next (endEntry_le ..) (by decide) ?_
  with_reducible refine Le.next (readRanges_le ..) (by decide) ?_
  with_reducible refine Le.next (readRanges_le ..) (by decide) ?_
  exact Le.refl _ _
  split
  with_reducible refine Le.next (badConfig_le ..) (by decide) ?_
  with_reducible refine Le.next (readRanges_le ..) (by decide) ?_
  with_reducible refine Le.next (readRanges_le ..) (by decide) ?_
  exact Le.refl _ _
  with_reducible refine Le.next (State.modTile_le ..) (by decide) ?_
  with_reducible refine Le.next (readRanges_le ..) (by decide) ?_
  with_reducible refine Le.next (readRanges_le ..) (by decide) ?_
  exact Le.refl _ _

theorem startMover_le (s : State) (t : Nat) (q : Nat) (e : QEntry) : Le 758940417 s (startMover s t q e) := by
  unfold startMover
  dsimp only
  split
  with_reducible refine Le.next (endEntry_le ..) (by decide) ?_
  with_reducible refine Le.next (readRanges_le ..) (by decide) ?_
  with_reducible refine Le.next (readRanges_le ..) (by decide) ?_
  exact Le.refl _ _
  split
  with_reducible refine Le.next (badConfig_le ..) (by decide) ?_
  with_reducible refine Le.next (readRanges_le ..) (by decide) ?_
  with_reducible refine Le.next (readRanges_le ..) (by decide) ?_
  exact Le.refl _ _
  with_reducible refine Le.ite (fun _ => ?_) (fun _ => ?_)
  with_reducible refine Le.ite (fun _ => ?_) (fun _ => ?_)
  with_reducible refine Le.next (endEntry_le ..) (by decide) ?_
  with_reducible refine Le.next (modEntry_le ..) (by decide) ?_
  with_reducible refine Le.next (readRanges_le ..) (by decide) ?_
  with_reducible refine Le.next (readRanges_le ..) (by decide) ?_
  exact Le.refl _ _
  with_reducible refine Le.next (modEntry_le ..) (by decide) ?_
  with_reducible refine Le.next (readRanges_le ..) (by decide) ?_
  with_reducible refine Le.next (readRanges_le ..) (by decide) ?_
  exact Le.refl _ _
  with_reducible refine Le.ite (fun _ => ?_) (fun _ => ?_)
  with_reducible refine Le.next (endEntry_le ..) (by decide) ?_
  with_reducible refine Le.next (modEntry_le ..) (by decide) ?_
  with_reducible refine Le.next (readRanges_le ..) (by decide) ?_
  with_reducible refine Le.next (readRanges_le ..) (by decide) ?_
  exact Le.refl _ _
  with_reducible refine Le.next (modEntry_le ..) (by decide) ?_
  with_reducible refine Le.next (readRanges_le ..) (by decide) ?_
  with_reducible refine Le.next (readRanges_le ..) (by decide) ?_
  exact Le.refl _ _

theorem dmiMemory_le (s : State) (t : Nat) (cmd : Nat) : Le 757891841 s (dmiMemory s t cmd) := by
  unfold dmiMemory
  dsimp only
  with_reducible refine Le.ite (fun _ => ?_) (fun _ => ?_)
  with_reducible refine Le.next (setCmderr_le ..) (by decide) ?_
  exact Le.refl _ _
  with_reducible refine Le.ite (fun _ => ?_) (fun _ => ?_)
  with_reducible refine Le.next (setCmderr_le ..) (by decide) ?_
  exact Le.refl _ _
  split
  with_reducible refine Le.next (setCmderr_le ..) (by decide) ?_
  with_reducible refine Le.next (storeAccess_le ..) (by decide) ?_
  exact Le.refl _ _
  with_reducible refine Le.next (State.modCore_le ..) (by decide) ?_
  with_reducible refine Le.next (storeAccess_le ..) (by decide) ?_
  exact Le.refl _ _

theorem latheStep_le (s : State) (t : Nat) (q : Nat) (e : QEntry) : Le 758940417 s (latheStep s t q e) := by
  unfold latheStep
  dsimp only
  split
  with_reducible refine Le.next (latheEnd_le ..) (by decide) ?_
  with_reducible refine Le.next (readRanges_le ..) (by decide) ?_
  exact Le.refl _ _
  split
  with_reducible refine Le.next (latheEnd_le ..) (by decide) ?_
  with_reducible refine Le.next (readRanges_le ..) (by decide) ?_
  with_reducible refine Le.next (readRanges_le ..) (by decide) ?_
  exact Le.refl _ _
  split
  with_reducible refine Le.next (latheEnd_le ..) (by decide) ?_
  with_reducible refine Le.next (readRanges_le ..) (by decide) ?_
  with_reducible refine Le.next (readRanges_le ..) (by decide) ?_
  exact Le.refl _ _
  with_reducible refine Le.ite (fun _ => ?_) (fun _ => ?_)
  with_reducible refine Le.next (modEntry_le ..) (by decide) ?_
  with_reducible refine Le.next (latheCycles_le ..) (by decide) ?_
  with_reducible refine Le.next (tileCycles_le ..) (by decide) ?_
  with_reducible refine Le.next (countTile_le ..) (by decide) ?_
  with_reducible refine Le.next (tileEvent_le ..) (by decide) ?_
  with_reducible refine Le.forEach ?_ (fun x u hu => ?_)
  with_reducible refine Le.next (readRanges_le ..) (by decide) ?_
  with_reducible refine Le.next (readRanges_le ..) (by decide) ?_
  exact Le.refl _ _
  with_reducible refine Le.next (storePut_le ..) (by decide) ?_
  with_reducible assumption
  split
  with_reducible refine Le.next (latheEnd_le ..) (by decide) ?_
  with_reducible refine Le.next (modEntry_le ..) (by decide) ?_
  with_reducible refine Le.next (latheCycles_le ..) (by decide) ?_
  with_reducible refine Le.next (tileCycles_le ..) (by decide) ?_
  with_reducible refine Le.next (countTile_le ..) (by decide) ?_
  with_reducible refine Le.next (tileEvent_le ..) (by decide) ?_
  with_reducible refine Le.forEach ?_ (fun x u hu => ?_)
  with_reducible refine Le.next (readRanges_le ..) (by decide) ?_
  with_reducible refine Le.next (readRanges_le ..) (by decide) ?_
  exact Le.refl _ _
  with_reducible refine Le.next (storePut_le ..) (by decide) ?_
  with_reducible assumption
  with_reducible refine Le.next (latheEnd_le ..) (by decide) ?_
  with_reducible refine Le.next (modEntry_le ..) (by decide) ?_
  with_reducible refine Le.next (latheCycles_le ..) (by decide) ?_
  with_reducible refine Le.next (tileCycles_le ..) (by decide) ?_
  with_reducible refine Le.next (countTile_le ..) (by decide) ?_
  with_reducible refine Le.next (tileEvent_le ..) (by decide) ?_
  with_reducible refine Le.forEach ?_ (fun x u hu => ?_)
  with_reducible refine Le.next (readRanges_le ..) (by decide) ?_
  with_reducible refine Le.next (readRanges_le ..) (by decide) ?_
  exact Le.refl _ _
  with_reducible refine Le.next (storePut_le ..) (by decide) ?_
  with_reducible assumption

theorem doMoverAck_le (t : Nat) (q : Nat) (chunk : Nat) (s : State) : Le 757891841 s (doMoverAck t q chunk s) := by
  unfold doMoverAck
  split
  exact Le.refl _ _
  split
  exact Le.refl _ _
  split
  exact Le.refl _ _
  with_reducible refine Le.next (takeAck_le ..) (by decide) ?_
  with_reducible refine Le.next (modChunk_le ..) (by decide) ?_
  exact Le.refl _ _

theorem tryData_le (s : State) (t : Nat) (inside : Option Nat) (jobOk : Bool) (chan : Nat) (hdr : List Byte) (payload : List Byte) : Le 757891841 s (tryData s t inside jobOk chan hdr payload).1 := by
  unfold tryData
  split
  dsimp only
  with_reducible refine Le.next (countRefused_le ..) (by decide) ?_
  exact Le.refl _ _
  dsimp only
  with_reducible refine Le.next (acceptData_le ..) (by decide) ?_
  exact Le.refl _ _

theorem doPierWrite_le (p : Nat) (line : Nat) (mask : BitVec 128) (data : BitVec 1024) (s : State) : Le 755794744 s (doPierWrite p line mask data s) := by
  unfold doPierWrite
  with_reducible refine Le.ite (fun _ => ?_) (fun _ => ?_)
  exact Le.refl _ _
  with_reducible refine Le.next (State.send_le ..) (by decide) ?_
  with_reducible refine Le.next (pierStore_le ..) (by decide) ?_
  exact Le.refl _ _

theorem doAdderOperation_le (addr : Nat) (a : BitVec 8) (v : BitVec 128) (cmp : BitVec 128) (e : SramErr) (s : State) : Le 757891897 s (doAdderOperation addr a v cmp e s) := by
  unfold doAdderOperation
  with_reducible refine Le.ite (fun _ => ?_) (fun _ => ?_)
  exact Le.refl _ _
  dsimp only
  with_reducible refine Le.next (State.send_le ..) (by decide) ?_
  with_reducible refine Le.next (adderApply_le ..) (by decide) ?_
  split
  with_reducible refine Le.next (sramError_le ..) (by decide) ?_
  exact Le.refl _ _
  with_reducible refine Le.next (sramError_le ..) (by decide) ?_
  exact Le.refl _ _
  with_reducible refine Le.next (sramError_le ..) (by decide) ?_
  exact Le.refl _ _
  with_reducible refine Le.next (sramError_le ..) (by decide) ?_
  exact Le.refl _ _
  exact Le.refl _ _

theorem writeBackLine_le (s : State) (line : Nat) (data : BitVec 512) (poison : Bool) : Le 755794744 s (writeBackLine s line data poison) := by
  unfold writeBackLine
  with_reducible refine Le.ite (fun _ => ?_) (fun _ => ?_)
  exact Le.refl _ _
  with_reducible refine Le.ite (fun _ => ?_) (fun _ => ?_)
  with_reducible refine Le.ite (fun _ => ?_) (fun _ => ?_)
  with_reducible refine Le.next (storePoison_le ..) (by decide) ?_
  exact Le.refl _ _
  exact Le.refl _ _
  with_reducible refine Le.next (lineStore_le ..) (by decide) ?_
  exact Le.refl _ _

theorem tileAccess_le (s : State) (r : CReq) : Le 755794744 s (tileAccess s r) := by
  unfold tileAccess
  dsimp only
  split
  with_reducible refine Le.next (State.send_le ..) (by decide) ?_
  with_reducible refine Le.next (pierGet_le ..) (by decide) ?_
  exact Le.refl _ _
  with_reducible refine Le.ite (fun _ => ?_) (fun _ => ?_)
  with_reducible refine Le.next (lineStore_le ..) (by decide) ?_
  exact Le.refl _ _
  with_reducible refine Le.next (State.send_le ..) (by decide) ?_
  with_reducible refine Le.next (lineStore_le ..) (by decide) ?_
  exact Le.refl _ _
  with_reducible refine Le.next (State.send_le ..) (by decide) ?_
  with_reducible refine Le.next (adderApply_le ..) (by decide) ?_
  exact Le.refl _ _

theorem Work.extentEnd_le (w : Work) (c : ChainCfg) : Le 757891841 w.s (Work.extentEnd w c).s := by
  unfold Work.extentEnd
  with_reducible refine Le.iteP (fun w : Work => w.s) (fun _ => ?_) (fun _ => ?_)
  with_reducible refine Le.next (Work.softEnd_le ..) (by decide) ?_
  exact Le.refl _ _
  dsimp only
  with_reducible refine Le.next (Work.putResult_le ..) (by decide) ?_
  with_reducible refine Le.next (Work.flag_le ..) (by decide) ?_
  exact Le.refl _ _

theorem Work.flushBits_le (w : Work) (c : ChainCfg) (d : TRec) (p : Nat) : Le 757891897 w.s (Work.flushBits w c d p).s := by
  unfold Work.flushBits
  dsimp only
  with_reducible refine Le.iteP (fun w : Work => w.s) (fun _ => ?_) (fun _ => ?_)
  exact Le.refl _ _
  with_reducible refine Le.iteP (fun w : Work => w.s) (fun _ => ?_) (fun _ => ?_)
  with_reducible refine Le.iteP (fun w : Work × _ => w.1.s) (fun _ => ?_) (fun _ => ?_)
  with_reducible refine Le.next (Work.oldByte_le ..) (by decide) ?_
  exact Le.refl _ _
  exact Le.refl _ _
  dsimp only
  with_reducible refine Le.iteP (fun w : Work => w.s) (fun _ => ?_) (fun _ => ?_)
  with_reducible refine Le.next (Work.putMem_le ..) (by decide) ?_
  with_reducible refine Le.next (Work.crcIn_le ..) (by decide) ?_
  with_reducible refine Le.iteP (fun w : Work × _ => w.1.s) (fun _ => ?_) (fun _ => ?_)
  with_reducible refine Le.next (Work.oldByte_le ..) (by decide) ?_
  exact Le.refl _ _
  exact Le.refl _ _
  with_reducible refine Le.next (Work.put_le ..) (by decide) ?_
  with_reducible refine Le.next (Work.crcIn_le ..) (by decide) ?_
  with_reducible refine Le.iteP (fun w : Work × _ => w.1.s) (fun _ => ?_) (fun _ => ?_)
  with_reducible refine Le.next (Work.oldByte_le ..) (by decide) ?_
  exact Le.refl _ _
  exact Le.refl _ _

theorem Work.scanElem_le (w : Work) (c : ChainCfg) (idx : List Nat) : Le 757891841 w.s (Work.scanElem w c idx).s := by
  unfold Work.scanElem
  dsimp only
  with_reducible refine Le.iteP (fun w : Work => w.s) (fun _ => ?_) (fun _ => ?_)
  with_reducible refine Le.next (Work.maskBit_le ..) (by decide) ?_
  with_reducible refine Le.next (Work.elemIn_le ..) (by decide) ?_
  exact Le.refl _ _
  dsimp only
  with_reducible refine Le.next (Work.maskBit_le ..) (by decide) ?_
  with_reducible refine Le.next (Work.elemIn_le ..) (by decide) ?_
  exact Le.refl _ _

theorem Work.secondIn_le (w : Work) (c : ChainCfg) (idx : List Nat) (raw : Nat) : Le 757891841 w.s (Work.secondIn w c idx raw).1.s := by
  unfold Work.secondIn
  dsimp only
  split
  exact Le.refl _ _
  with_reducible refine Le.iteP (fun w : Work × _ => w.1.s) (fun _ => ?_) (fun _ => ?_)
  split
  dsimp only
  with_reducible refine Le.next (Work.bits_le ..) (by decide) ?_
  exact Le.refl _ _
  with_reducible refine Le.iteP (fun w : Work × _ => w.1.s) (fun _ => ?_) (fun _ => ?_)
  dsimp only
  with_reducible refine Le.next (Work.bits_le ..) (by decide) ?_
  exact Le.refl _ _
  dsimp only
  with_reducible refine Le.next (Work.elemIn_le ..) (by decide) ?_
  with_reducible refine Le.next (Work.bits_le ..) (by decide) ?_
  exact Le.refl _ _
  with_reducible refine Le.iteP (fun w : Work × _ => w.1.s) (fun _ => ?_) (fun _ => ?_)
  exact Le.refl _ _
  dsimp only
  with_reducible refine Le.next (Work.elemIn_le ..) (by decide) ?_
  exact Le.refl _ _

theorem Work.expandIn_le (w : Work) (c : ChainCfg) (v : Val) : Le 757891841 w.s (Work.expandIn w c v).1.s := by
  unfold Work.expandIn
  dsimp only
  split
  exact Le.refl _ _
  with_reducible refine Le.iteP (fun w : Work × _ => w.1.s) (fun _ => ?_) (fun _ => ?_)
  dsimp only
  with_reducible refine Le.next (Work.elemIn_le ..) (by decide) ?_
  exact Le.refl _ _
  exact Le.refl _ _

theorem endColl_le (s : State) (c : Coll) (status : Nat) (cause : Nat) (detail : Nat) : Le 755794745 s (endColl s c status cause detail) := by
  unfold endColl
  dsimp only
  with_reducible refine Le.ite (fun _ => ?_) (fun _ => ?_)
  with_reducible refine Le.next (raiseSrc_le ..) (by decide) ?_
  with_reducible refine Le.ite (fun _ => ?_) (fun _ => ?_)
  with_reducible refine Le.next (writePool_le ..) (by decide) ?_
  exact Le.refl _ _
  with_reducible refine Le.next (adderApply_le ..) (by decide) ?_
  with_reducible refine Le.next (writePool_le ..) (by decide) ?_
  exact Le.refl _ _
  with_reducible refine Le.ite (fun _ => ?_) (fun _ => ?_)
  with_reducible refine Le.next (writePool_le ..) (by decide) ?_
  exact Le.refl _ _
  with_reducible refine Le.next (adderApply_le ..) (by decide) ?_
  with_reducible refine Le.next (writePool_le ..) (by decide) ?_
  exact Le.refl _ _

theorem combineContrib_le (op : BitVec 8) (es : Nat) (a2 : Nat) (a3 : State) (a4 : Nat) (a5 : List Byte) (a6 : EFlags) : Le 755794744 a3 (combineContrib op es a2 a3 a4 a5 a6).1 := by
  induction a2 generalizing a3 a4 a5 a6 with
  | zero => exact Le.refl _ _
  | succ n ih =>
    unfold combineContrib
    with_reducible refine Le.iteP (fun w : State × _ => w.1) (fun _ => ?_) (fun _ => ?_)
    exact Le.refl _ _
    dsimp only
    with_reducible refine Le.iteP (fun w : State × _ => w.1) (fun _ => ?_) (fun _ => ?_)
    dsimp only
    with_reducible refine Le.next (adderApply_le ..) (by decide) ?_
    exact Le.refl _ _
    with_reducible refine Le.next (ih ..) (by decide) ?_
    with_reducible refine Le.next (adderApply_le ..) (by decide) ?_
    exact Le.refl _ _

theorem startEngine_le (s : State) (t : Nat) (q : Nat) (e : QEntry) (h : Header) : Le 758940417 s (startEngine s t q e h) := by
  unfold startEngine
  dsimp only
  split
  with_reducible refine Le.ite (fun _ => ?_) (fun _ => ?_)
  with_reducible refine Le.next (endEntry_le ..) (by decide) ?_
  with_reducible refine Le.next (served_le ..) (by decide) ?_
  exact Le.refl _ _
  with_reducible refine Le.next (served_le ..) (by decide) ?_
  exact Le.refl _ _
  with_reducible refine Le.next (startMover_le ..) (by decide) ?_
  with_reducible refine Le.next (served_le ..) (by decide) ?_
  exact Le.refl _ _
  with_reducible refine Le.next (startLathe_le ..) (by decide) ?_
  with_reducible refine Le.next (served_le ..) (by decide) ?_
  exact Le.refl _ _
  with_reducible refine Le.next (startChain_le ..) (by decide) ?_
  with_reducible refine Le.next (served_le ..) (by decide) ?_
  exact Le.refl _ _

theorem writeTraceLine_le (s : State) (p : Nat) : Le 756843320 s (writeTraceLine s p) := by
  unfold writeTraceLine
  dsimp only
  with_reducible refine Le.next (State.setTraceUnit_le ..) (by decide) ?_
  with_reducible refine Le.next (writePool_le ..) (by decide) ?_
  with_reducible refine Le.next (State.takeFree_le ..) (by decide) ?_
  exact Le.refl _ _

theorem doLatheBlockDone_le (t : Nat) (s : State) : Le 758940417 s (doLatheBlockDone t s) := by
  unfold doLatheBlockDone
  dsimp only
  split
  exact Le.refl _ _
  split
  exact Le.refl _ _
  with_reducible refine Le.ite (fun _ => ?_) (fun _ => ?_)
  with_reducible refine Le.next (latheStep_le ..) (by decide) ?_
  exact Le.refl _ _
  with_reducible refine Le.ite (fun _ => ?_) (fun _ => ?_)
  with_reducible refine Le.next (latheStep_le ..) (by decide) ?_
  with_reducible refine Le.next (State.modTile_le ..) (by decide) ?_
  exact Le.refl _ _
  exact Le.refl _ _

theorem doMsgDataDelivery_le (m : MsgSrc) (flips : Flips) (s : State) : Le 758944515 s (doMsgDataDelivery m flips s) := by
  unfold doMsgDataDelivery
  dsimp only
  split
  split
  exact Le.refl _ _
  with_reducible refine Le.ite (fun _ => ?_) (fun _ => ?_)
  exact Le.refl _ _
  with_reducible refine Le.next (flightOutcome_le ..) (by decide) ?_
  with_reducible refine Le.next (tryData_le ..) (by decide) ?_
  exact Le.refl _ _
  with_reducible refine Le.ite (fun _ => ?_) (fun _ => ?_)
  exact Le.refl _ _
  with_reducible refine arriveMsg_le _ _ _ _ (by decide) (fun t u hu => ?_)
  with_reducible refine Le.next (tryData_le ..) (by decide) ?_
  with_reducible assumption

theorem cohShare_le (s : State) (line : Nat) : Le 755794936 s (cohShare s line) := by
  unfold cohShare
  dsimp only
  with_reducible refine Le.ite (fun _ => ?_) (fun _ => ?_)
  exact Le.refl _ _
  split
  exact Le.refl _ _
  split
  with_reducible refine Le.next (State.modArb_le ..) (by decide) ?_
  exact Le.refl _ _
  with_reducible refine Le.next (writeBackLine_le ..) (by decide) ?_
  with_reducible refine Le.next (State.modCluster_le ..) (by decide) ?_
  with_reducible refine Le.next (State.modArb_le ..) (by decide) ?_
  exact Le.refl _ _

theorem acceptReq_le (s : State) (a : Nat) (r : CReq) : Le 755794872 s (acceptReq s a r) := by
  unfold acceptReq
  dsimp only
  split
  with_reducible refine Le.next (openTrans_le ..) (by decide) ?_
  with_reducible refine Le.next (sendFwd_le ..) (by decide) ?_
  with_reducible refine Le.next (State.modArb_le ..) (by decide) ?_
  with_reducible refine Le.next (bump_le ..) (by decide) ?_
  exact Le.refl _ _
  with_reducible refine Le.next (openTrans_le ..) (by decide) ?_
  with_reducible refine Le.next (sendData_le ..) (by decide) ?_
  with_reducible refine Le.next (State.modArb_le ..) (by decide) ?_
  with_reducible refine Le.next (bump_le ..) (by decide) ?_
  exact Le.refl _ _
  with_reducible refine Le.next (openTrans_le ..) (by decide) ?_
  with_reducible refine Le.next (sendFwd_le ..) (by decide) ?_
  with_reducible refine Le.next (State.modArb_le ..) (by decide) ?_
  with_reducible refine Le.next (bump_le ..) (by decide) ?_
  exact Le.refl _ _
  with_reducible refine Le.next (openTrans_le ..) (by decide) ?_
  with_reducible refine Le.ite (fun _ => ?_) (fun _ => ?_)
  with_reducible refine Le.next (sendData_le ..) (by decide) ?_
  with_reducible refine Le.next (sendInvs_le ..) (by decide) ?_
  with_reducible refine Le.next (State.modArb_le ..) (by decide) ?_
  with_reducible refine Le.next (bump_le ..) (by decide) ?_
  exact Le.refl _ _
  with_reducible refine Le.next (sendInvs_le ..) (by decide) ?_
  with_reducible refine Le.next (State.modArb_le ..) (by decide) ?_
  with_reducible refine Le.next (bump_le ..) (by decide) ?_
  exact Le.refl _ _
  with_reducible refine Le.next (openTrans_le ..) (by decide) ?_
  with_reducible refine Le.next (sendFwd_le ..) (by decide) ?_
  with_reducible refine Le.next (State.modArb_le ..) (by decide) ?_
  with_reducible refine Le.next (bump_le ..) (by decide) ?_
  exact Le.refl _ _
  with_reducible refine Le.next (tileAccess_le ..) (by decide) ?_
  with_reducible refine Le.next (bump_le ..) (by decide) ?_
  exact Le.refl _ _
  with_reducible refine Le.next (openTrans_le ..) (by decide) ?_
  with_reducible refine Le.next (sendFwd_le ..) (by decide) ?_
  with_reducible refine Le.next (State.modArb_le ..) (by decide) ?_
  with_reducible refine Le.next (bump_le ..) (by decide) ?_
  exact Le.refl _ _
  with_reducible refine Le.ite (fun _ => ?_) (fun _ => ?_)
  with_reducible refine Le.next (tileAccess_le ..) (by decide) ?_
  with_reducible refine Le.next (State.modArb_le ..) (by decide) ?_
  with_reducible refine Le.next (bump_le ..) (by decide) ?_
  exact Le.refl _ _
  with_reducible refine Le.next (openTrans_le ..) (by decide) ?_
  with_reducible refine Le.next (sendInvs_le ..) (by decide) ?_
  with_reducible refine Le.next (State.modArb_le ..) (by decide) ?_
  with_reducible refine Le.next (bump_le ..) (by decide) ?_
  exact Le.refl _ _

theorem flushHome_le (a : Nat) (c : Nat) (s : State) : Le 755794808 s (flushHome a c s) := by
  unfold flushHome
  dsimp only
  with_reducible refine Le.next (State.modCluster_le ..) (by decide) ?_
  with_reducible refine Le.forEach ?_ (fun x u hu => ?_)
  exact Le.refl _ _
  with_reducible refine Le.next (writeBackLine_le ..) (by decide) ?_
  with_reducible assumption

theorem Work.segAdvance_le (w : Work) (c : ChainCfg) (g : TRec) (j : Nat) (a4 : Nat) : Le 757891841 w.s (Work.segAdvance w c g j a4).1.s := by
  induction a4 generalizing w with
  | zero => exact Le.refl _ _
  | succ n ih =>
    unfold Work.segAdvance
    with_reducible refine Le.iteP (fun w : Work × _ => w.1.s) (fun _ => ?_) (fun _ => ?_)
    exact Le.refl _ _
    dsimp only
    with_reducible refine Le.iteP (fun w : Work × _ => w.1.s) (fun _ => ?_) (fun _ => ?_)
    dsimp only
    with_reducible refine Le.next (Work.segPtr_le ..) (by decide) ?_
    with_reducible refine Le.next (Work.segPtr_le ..) (by decide) ?_
    exact Le.refl _ _
    with_reducible refine Le.iteP (fun w : Work × _ => w.1.s) (fun _ => ?_) (fun _ => ?_)
    with_reducible refine Le.next (ih ..) (by decide) ?_
    dsimp only
    with_reducible refine Le.next (Work.extentEnd_le ..) (by decide) ?_
    with_reducible refine Le.next (Work.segPtr_le ..) (by decide) ?_
    with_reducible refine Le.next (Work.segPtr_le ..) (by decide) ?_
    exact Le.refl _ _
    dsimp only
    with_reducible refine Le.next (Work.segPtr_le ..) (by decide) ?_
    with_reducible refine Le.next (Work.segPtr_le ..) (by decide) ?_
    exact Le.refl _ _

theorem Work.putBits_le (w : Work) (c : ChainCfg) (d : TRec) (p : Nat) (bits : Nat) : Le 757891897 w.s (Work.putBits w c d p bits).s := by
  unfold Work.putBits
  dsimp only
  with_reducible refine Le.iteP (fun w : Work => w.s) (fun _ => ?_) (fun _ => ?_)
  with_reducible refine Le.next (Work.putD_le ..) (by decide) ?_
  exact Le.refl _ _
  with_reducible refine Le.iteP (fun w : Work => w.s) (fun _ => ?_) (fun _ => ?_)
  with_reducible refine Le.next (Work.flushBits_le ..) (by decide) ?_
  dsimp only
  with_reducible refine Le.iteP (fun w : Work => w.s) (fun _ => ?_) (fun _ => ?_)
  with_reducible refine Le.next (Work.putD_le ..) (by decide) ?_
  exact Le.refl _ _
  exact Le.refl _ _
  dsimp only
  with_reducible refine Le.iteP (fun w : Work => w.s) (fun _ => ?_) (fun _ => ?_)
  with_reducible refine Le.next (Work.putD_le ..) (by decide) ?_
  exact Le.refl _ _
  exact Le.refl _ _

theorem Work.scanRow_le (w : Work) (c : ChainCfg) (idx : List Nat) (n : Nat) : Le 757891841 w.s (Work.scanRow w c idx n).s := by
  unfold Work.scanRow
  with_reducible refine Le.foldlP (fun w : Work => w.s) ?_ (fun u x hu => ?_)
  exact Le.refl _ _
  with_reducible refine Le.iteP (fun w : Work => w.s) (fun _ => ?_) (fun _ => ?_)
  with_reducible assumption
  with_reducible refine Le.next (Work.scanElem_le ..) (by decide) ?_
  with_reducible assumption

theorem Work.backExpand_le (w : Work) (c : ChainCfg) (e : Elem) : Le 757891841 w.s (Work.backExpand w c e).1.s := by
  unfold Work.backExpand
  with_reducible refine Le.iteP (fun w : Work × _ => w.1.s) (fun _ => ?_) (fun _ => ?_)
  exact Le.refl _ _
  with_reducible refine Le.iteP (fun w : Work × _ => w.1.s) (fun _ => ?_) (fun _ => ?_)
  with_reducible refine Le.next (Work.expandIn_le ..) (by decide) ?_
  exact Le.refl _ _
  exact Le.refl _ _

end Sys2Proof.Machine
end

