-- ==== Sys2Proof/Laws/Keep6.lean ====
section
/-!
SUPPORT. What each operation may change and that it keeps the invariant, part 6 of 9: a lemma cites those of the operations
that its operation calls. The mask of a lemma names the parts by their bits (`Part.code`).
-/

namespace Sys2Proof.Machine
open Sys2Proof

theorem doPutm_le (cl : Nat) (line : Nat) (val : BitVec 512) (poison : Bool) (s : State) : Le 755794936 s (doPutm cl line val poison s) := by
  unfold doPutm
  with_reducible refine Le.ite (fun _ => ?_) (fun _ => ?_)
  exact Le.refl _ _
  dsimp only
  with_reducible refine Le.next (sendCoh_le ..) (by decide) ?_
  with_reducible refine Le.ite (fun _ => ?_) (fun _ => ?_)
  with_reducible refine Le.next (writeBackLine_le ..) (by decide) ?_
  with_reducible refine Le.next (State.modArb_le ..) (by decide) ?_
  with_reducible refine Le.next (State.modCluster_le ..) (by decide) ?_
  exact Le.refl _ _
  with_reducible refine Le.next (State.modCluster_le ..) (by decide) ?_
  exact Le.refl _ _

theorem endAll_le (s : State) (status : Nat) (cause : Nat) (detail : Nat) : Le 755811129 s (endAll s status cause detail) := by
  unfold endAll
  dsimp only
  with_reducible refine Le.forEach ?_ (fun x u hu => ?_)
  with_reducible refine Le.next (State.modJob_le ..) (by decide) ?_
  exact Le.refl _ _
  with_reducible refine Le.next (endColl_le ..) (by decide) ?_
  with_reducible assumption

theorem doCollComplete_le (s : State) : Le 755811129 s (doCollComplete s) := by
  unfold doCollComplete
  split
  exact Le.refl _ _
  with_reducible refine Le.ite (fun _ => ?_) (fun _ => ?_)
  exact Le.refl _ _
  with_reducible refine Le.ite (fun _ => ?_) (fun _ => ?_)
  with_reducible refine Le.next (endColl_le ..) (by decide) ?_
  with_reducible refine Le.next (State.modJob_le ..) (by decide) ?_
  exact Le.refl _ _
  with_reducible refine Le.ite (fun _ => ?_) (fun _ => ?_)
  exact Le.refl _ _
  with_reducible refine Le.next (endColl_le ..) (by decide) ?_
  with_reducible refine Le.next (State.modJob_le ..) (by decide) ?_
  exact Le.refl _ _

theorem doDescriptorStart_le (t : Nat) (q : Nat) (s : State) : Le 758940417 s (doDescriptorStart t q s) := by
  unfold doDescriptorStart
  dsimp only
  with_reducible refine Le.ite (fun _ => ?_) (fun _ => ?_)
  exact Le.refl _ _
  split
  exact Le.refl _ _
  split
  with_reducible refine Le.next (served_le ..) (by decide) ?_
  with_reducible refine Le.next (decline_le ..) (by decide) ?_
  with_reducible refine Le.next (traceDesc_le ..) (by decide) ?_
  with_reducible refine Le.next (modEntry_le ..) (by decide) ?_
  with_reducible refine Le.ite (fun _ => ?_) (fun _ => ?_)
  with_reducible refine Le.next (State.takeFree_le ..) (by decide) ?_
  with_reducible refine Le.next (readRanges_le ..) (by decide) ?_
  exact Le.refl _ _
  with_reducible refine Le.next (readRanges_le ..) (by decide) ?_
  exact Le.refl _ _
  with_reducible refine Le.ite (fun _ => ?_) (fun _ => ?_)
  with_reducible refine Le.next (served_le ..) (by decide) ?_
  with_reducible refine Le.next (decline_le ..) (by decide) ?_
  with_reducible refine Le.next (traceDesc_le ..) (by decide) ?_
  with_reducible refine Le.next (modEntry_le ..) (by decide) ?_
  with_reducible refine Le.ite (fun _ => ?_) (fun _ => ?_)
  with_reducible refine Le.next (State.takeFree_le ..) (by decide) ?_
  with_reducible refine Le.next (readRanges_le ..) (by decide) ?_
  exact Le.refl _ _
  with_reducible refine Le.next (readRanges_le ..) (by decide) ?_
  exact Le.refl _ _
  split
  with_reducible refine Le.next (served_le ..) (by decide) ?_
  with_reducible refine Le.next (decline_le ..) (by decide) ?_
  with_reducible refine Le.next (traceDesc_le ..) (by decide) ?_
  with_reducible refine Le.next (modEntry_le ..) (by decide) ?_
  with_reducible refine Le.ite (fun _ => ?_) (fun _ => ?_)
  with_reducible refine Le.next (State.takeFree_le ..) (by decide) ?_
  with_reducible refine Le.next (readRanges_le ..) (by decide) ?_
  exact Le.refl _ _
  with_reducible refine Le.next (readRanges_le ..) (by decide) ?_
  exact Le.refl _ _
  with_reducible refine Le.ite (fun _ => ?_) (fun _ => ?_)
  with_reducible refine Le.next (startEngine_le ..) (by decide) ?_
  with_reducible refine Le.next (traceDesc_le ..) (by decide) ?_
  with_reducible refine Le.next (modEntry_le ..) (by decide) ?_
  with_reducible refine Le.ite (fun _ => ?_) (fun _ => ?_)
  with_reducible refine Le.next (State.takeFree_le ..) (by decide) ?_
  with_reducible refine Le.next (readRanges_le ..) (by decide) ?_
  exact Le.refl _ _
  with_reducible refine Le.next (readRanges_le ..) (by decide) ?_
  exact Le.refl _ _
  split
  with_reducible refine Le.next (served_le ..) (by decide) ?_
  with_reducible refine Le.next (decline_le ..) (by decide) ?_
  with_reducible refine Le.next (readRanges_le ..) (by decide) ?_
  with_reducible refine Le.next (traceDesc_le ..) (by decide) ?_
  with_reducible refine Le.next (modEntry_le ..) (by decide) ?_
  with_reducible refine Le.ite (fun _ => ?_) (fun _ => ?_)
  with_reducible refine Le.next (State.takeFree_le ..) (by decide) ?_
  with_reducible refine Le.next (readRanges_le ..) (by decide) ?_
  exact Le.refl _ _
  with_reducible refine Le.next (readRanges_le ..) (by decide) ?_
  exact Le.refl _ _
  with_reducible refine Le.ite (fun _ => ?_) (fun _ => ?_)
  with_reducible refine Le.next (startEngine_le ..) (by decide) ?_
  with_reducible refine Le.next (readRanges_le ..) (by decide) ?_
  with_reducible refine Le.next (traceDesc_le ..) (by decide) ?_
  with_reducible refine Le.next (modEntry_le ..) (by decide) ?_
  with_reducible refine Le.ite (fun _ => ?_) (fun _ => ?_)
  with_reducible refine Le.next (State.takeFree_le ..) (by decide) ?_
  with_reducible refine Le.next (readRanges_le ..) (by decide) ?_
  exact Le.refl _ _
  with_reducible refine Le.next (readRanges_le ..) (by decide) ?_
  exact Le.refl _ _
  with_reducible refine Le.next (served_le ..) (by decide) ?_
  with_reducible refine Le.next (decline_le ..) (by decide) ?_
  with_reducible refine Le.next (readRanges_le ..) (by decide) ?_
  with_reducible refine Le.next (traceDesc_le ..) (by decide) ?_
  with_reducible refine Le.next (modEntry_le ..) (by decide) ?_
  with_reducible refine Le.ite (fun _ => ?_) (fun _ => ?_)
  with_reducible refine Le.next (State.takeFree_le ..) (by decide) ?_
  with_reducible refine Le.next (readRanges_le ..) (by decide) ?_
  exact Le.refl _ _
  with_reducible refine Le.next (readRanges_le ..) (by decide) ?_
  exact Le.refl _ _

theorem padLine_le (s : State) (p : Nat) : Le 756843320 s (padLine s p) := by
  unfold padLine
  with_reducible refine Le.ite (fun _ => ?_) (fun _ => ?_)
  exact Le.refl _ _
  with_reducible refine Le.next (writeTraceLine_le ..) (by decide) ?_
  exact Le.refl _ _

theorem parkLine_le (c : Nat) (l : HLine) (s : State) : Le 755794872 s (parkLine c l s) := by
  unfold parkLine
  dsimp only
  with_reducible refine Le.ite (fun _ => ?_) (fun _ => ?_)
  with_reducible refine Le.next (State.modArb_le ..) (by decide) ?_
  with_reducible refine Le.next (writeBackLine_le ..) (by decide) ?_
  split
  with_reducible refine Le.ite (fun _ => ?_) (fun _ => ?_)
  with_reducible refine Le.next (sendCoh_le ..) (by decide) ?_
  exact Le.refl _ _
  exact Le.refl _ _
  exact Le.refl _ _
  split
  with_reducible refine Le.ite (fun _ => ?_) (fun _ => ?_)
  with_reducible refine Le.next (sendCoh_le ..) (by decide) ?_
  exact Le.refl _ _
  exact Le.refl _ _
  exact Le.refl _ _

theorem writeRecords_le (a0 : Nat) (a1 : State) (a2 : Nat) (a3 : Nat) : Le 756843320 a1 (writeRecords a0 a1 a2 a3) := by
  induction a0 generalizing a1 a2 a3 with
  | zero => exact Le.refl _ _
  | succ n ih =>
    unfold writeRecords
    dsimp only
    split
    exact Le.refl _ _
    with_reducible refine Le.ite (fun _ => ?_) (fun _ => ?_)
    exact Le.refl _ _
    with_reducible refine Le.ite (fun _ => ?_) (fun _ => ?_)
    exact Le.refl _ _
    with_reducible refine Le.ite (fun _ => ?_) (fun _ => ?_)
    with_reducible refine Le.next (ih ..) (by decide) ?_
    with_reducible refine Le.next (writeTraceLine_le ..) (by decide) ?_
    with_reducible refine Le.next (State.setTraceUnit_le ..) (by decide) ?_
    exact Le.refl _ _
    with_reducible refine Le.next (ih ..) (by decide) ?_
    with_reducible refine Le.next (State.setTraceUnit_le ..) (by decide) ?_
    exact Le.refl _ _

theorem cohRead_le (s : State) (addr : Nat) (n : Nat) : Le 755794936 s (cohRead s addr n).1 := by
  unfold cohRead
  with_reducible refine Le.next (readPool_le ..) (by decide) ?_
  with_reducible refine Le.forEach ?_ (fun x u hu => ?_)
  exact Le.refl _ _
  with_reducible refine Le.next (countTileReq_le ..) (by decide) ?_
  with_reducible refine Le.next (cohShare_le ..) (by decide) ?_
  with_reducible assumption

theorem serveHeld_le (a0 : Nat) (a1 : State) (a2 : Nat) : Le 755794872 a1 (serveHeld a0 a1 a2) := by
  induction a0 generalizing a1 a2 with
  | zero => exact Le.refl _ _
  | succ n ih =>
    unfold serveHeld
    dsimp only
    split
    with_reducible refine Le.next (ih ..) (by decide) ?_
    split
    with_reducible refine Le.next (startEvict_le ..) (by decide) ?_
    with_reducible refine Le.next (State.modArb_le ..) (by decide) ?_
    exact Le.refl _ _
    with_reducible refine Le.next (acceptReq_le ..) (by decide) ?_
    with_reducible refine Le.next (State.modArb_le ..) (by decide) ?_
    exact Le.refl _ _
    split
    exact Le.refl _ _
    with_reducible refine Le.ite (fun _ => ?_) (fun _ => ?_)
    exact Le.refl _ _
    with_reducible refine Le.next (ih ..) (by decide) ?_
    with_reducible refine Le.next (State.modArb_le ..) (by decide) ?_
    exact Le.refl _ _

theorem cohPurge_le (s : State) (line : Nat) : Le 755794936 s (cohPurge s line) := by
  unfold cohPurge
  dsimp only
  with_reducible refine Le.ite (fun _ => ?_) (fun _ => ?_)
  exact Le.refl _ _
  with_reducible refine Le.next (State.modArb_le ..) (by decide) ?_
  with_reducible refine Le.forEach ?_ (fun x u hu => ?_)
  with_reducible refine Le.next (cohShare_le ..) (by decide) ?_
  exact Le.refl _ _
  with_reducible refine Le.next (State.modCluster_le ..) (by decide) ?_
  with_reducible assumption

theorem Work.flushBlock_le (w : Work) (c : ChainCfg) (d : TRec) (p : Nat) : Le 757891897 w.s (Work.flushBlock w c d p).s := by
  unfold Work.flushBlock
  dsimp only
  with_reducible refine Le.iteP (fun w : Work => w.s) (fun _ => ?_) (fun _ => ?_)
  exact Le.refl _ _
  dsimp only
  with_reducible refine Le.foldlP (fun w : Work => w.s) ?_ (fun u x hu => ?_)
  with_reducible refine Le.next (Work.put_le ..) (by decide) ?_
  with_reducible refine Le.next (Work.crcIn_le ..) (by decide) ?_
  exact Le.refl _ _
  with_reducible refine Le.next (Work.putBits_le ..) (by decide) ?_
  with_reducible refine Le.next (Work.flag_le ..) (by decide) ?_
  with_reducible assumption

theorem Work.softStart_le (w : Work) (c : ChainCfg) (idx : List Nat) (row : Nat) : Le 757891841 w.s (Work.softStart w c idx row).s := by
  unfold Work.softStart
  dsimp only
  with_reducible refine Le.iteP (fun w : Work => w.s) (fun _ => ?_) (fun _ => ?_)
  with_reducible refine Le.next (Work.scanRow_le ..) (by decide) ?_
  exact Le.refl _ _
  split
  with_reducible refine Le.next (Work.scanRow_le ..) (by decide) ?_
  exact Le.refl _ _
  dsimp only
  with_reducible refine Le.next (Work.flag_le ..) (by decide) ?_
  with_reducible refine Le.next (Work.le_le ..) (by decide) ?_
  with_reducible refine Le.next (Work.scanRow_le ..) (by decide) ?_
  exact Le.refl _ _

theorem Work.lastResults_le (w : Work) (c : ChainCfg) : Le 757891841 w.s (Work.lastResults w c).s := by
  unfold Work.lastResults
  with_reducible refine Le.iteP (fun w : Work => w.s) (fun _ => ?_) (fun _ => ?_)
  exact Le.refl _ _
  split
  exact Le.refl _ _
  with_reducible refine Le.foldlP (fun w : Work => w.s) ?_ (fun u x hu => ?_)
  exact Le.refl _ _
  with_reducible refine Le.next (Work.extentEnd_le ..) (by decide) ?_
  with_reducible assumption
  with_reducible refine Le.next (Work.extentEnd_le ..) (by decide) ?_
  exact Le.refl _ _
  split
  with_reducible refine Le.next (Work.segAdvance_le ..) (by decide) ?_
  exact Le.refl _ _
  exact Le.refl _ _

theorem failColls_le (s : State) (origin : Nat) (cause : Nat) : Le 755811129 s (failColls s origin cause) := by
  unfold failColls
  with_reducible refine Le.next (endAll_le ..) (by decide) ?_
  exact Le.refl _ _

theorem fireTrigger_le (s : State) (code : Nat) (tag : Nat) : Le 756847416 s (fireTrigger s code tag) := by
  unfold fireTrigger
  dsimp only
  with_reducible refine Le.ite (fun _ => ?_) (fun _ => ?_)
  exact Le.refl _ _
  with_reducible refine Le.ite (fun _ => ?_) (fun _ => ?_)
  with_reducible refine Le.next (machineFreeze_le ..) (by decide) ?_
  with_reducible refine Le.next (raiseHost_le ..) (by decide) ?_
  with_reducible refine Le.forEach ?_ (fun x u hu => ?_)
  with_reducible refine Le.next (State.modTalcy_le ..) (by decide) ?_
  exact Le.refl _ _
  with_reducible refine Le.next (State.setTraceUnit_le ..) (by decide) ?_
  with_reducible refine Le.next (padLine_le ..) (by decide) ?_
  with_reducible assumption
  with_reducible refine Le.next (raiseHost_le ..) (by decide) ?_
  with_reducible refine Le.forEach ?_ (fun x u hu => ?_)
  with_reducible refine Le.next (State.modTalcy_le ..) (by decide) ?_
  exact Le.refl _ _
  with_reducible refine Le.next (State.setTraceUnit_le ..) (by decide) ?_
  with_reducible refine Le.next (padLine_le ..) (by decide) ?_
  with_reducible assumption

theorem applyLaunch_le (s : State) (h : LaunchHdr) : Le 755811129 s (applyLaunch s h) := by
  unfold applyLaunch
  dsimp only
  with_reducible refine Le.next (logEvent_le ..) (by decide) ?_
  with_reducible refine Le.next (State.modJob_le ..) (by decide) ?_
  with_reducible refine Le.ite (fun _ => ?_) (fun _ => ?_)
  with_reducible refine Le.next (writePool_le ..) (by decide) ?_
  with_reducible refine Le.next (endAll_le ..) (by decide) ?_
  exact Le.refl _ _
  with_reducible refine Le.next (endAll_le ..) (by decide) ?_
  exact Le.refl _ _

theorem traceTick_le (p : Nat) (s : State) : Le 756843320 s (traceTick p s) := by
  unfold traceTick
  with_reducible refine Le.ite (fun _ => ?_) (fun _ => ?_)
  exact Le.refl _ _
  dsimp only
  with_reducible refine Le.next (writeRecords_le ..) (by decide) ?_
  with_reducible refine Le.ite (fun _ => ?_) (fun _ => ?_)
  with_reducible refine Le.next (gatherTrace_le ..) (by decide) ?_
  exact Le.refl _ _
  with_reducible refine Le.next (State.modTalcy_le ..) (by decide) ?_
  with_reducible refine Le.next (State.setTraceUnit_le ..) (by decide) ?_
  with_reducible refine Le.next (gatherTrace_le ..) (by decide) ?_
  exact Le.refl _ _

theorem stopTrace_le (s : State) : Le 756843320 s (stopTrace s) := by
  unfold stopTrace
  dsimp only
  with_reducible refine Le.next (raiseHost_le ..) (by decide) ?_
  with_reducible refine Le.next (State.modTalcy_le ..) (by decide) ?_
  with_reducible refine Le.forEach ?_ (fun x u hu => ?_)
  exact Le.refl _ _
  with_reducible refine Le.next (State.setTraceUnit_le ..) (by decide) ?_
  with_reducible refine Le.ite (fun _ => ?_) (fun _ => ?_)
  with_reducible assumption
  with_reducible refine Le.next (padLine_le ..) (by decide) ?_
  with_reducible assumption

theorem serveArb_le (s : State) (a : Nat) : Le 755794872 s (serveArb s a) := by
  unfold serveArb
  with_reducible refine Le.next (serveHeld_le ..) (by decide) ?_
  exact Le.refl _ _

theorem atomicElems_le (a0 : Nat) (a1 : State) (a2 : Bool) (a3 : BitVec 8) (a4 : Nat) (a5 : List Byte) (a6 : List Byte) (a7 : ReqAns) : Le 755794936 a1 (atomicElems a0 a1 a2 a3 a4 a5 a6 a7).1 := by
  induction a0 generalizing a1 a2 a3 a4 a5 a6 a7 with
  | zero => exact Le.refl _ _
  | succ n ih =>
    unfold atomicElems
    dsimp only
    with_reducible refine Le.iteP (fun w : State × _ => w.1) (fun _ => ?_) (fun _ => ?_)
    exact Le.refl _ _
    with_reducible refine Le.next (ih ..) (by decide) ?_
    with_reducible refine Le.next (adderApply_le ..) (by decide) ?_
    with_reducible refine Le.ite (fun _ => ?_) (fun _ => ?_)
    with_reducible refine Le.next (cohPurge_le ..) (by decide) ?_
    exact Le.refl _ _
    exact Le.refl _ _

theorem Work.packAt_le (w : Work) (c : ChainCfg) (d : TRec) (p : Nat) (v : Val) : Le 757891897 w.s (Work.packAt w c d p v).s := by
  unfold Work.packAt
  dsimp only
  with_reducible refine Le.iteP (fun w : Work => w.s) (fun _ => ?_) (fun _ => ?_)
  with_reducible refine Le.iteP (fun w : Work => w.s) (fun _ => ?_) (fun _ => ?_)
  with_reducible refine Le.next (Work.flushBlock_le ..) (by decide) ?_
  exact Le.refl _ _
  exact Le.refl _ _
  with_reducible refine Le.next (Work.putBits_le ..) (by decide) ?_
  with_reducible refine Le.next (Work.flag_le ..) (by decide) ?_
  exact Le.refl _ _

theorem Work.flushOut_le (w : Work) (c : ChainCfg) : Le 757891897 w.s (Work.flushOut w c).s := by
  unfold Work.flushOut
  split
  exact Le.refl _ _
  with_reducible refine Le.iteP (fun w : Work => w.s) (fun _ => ?_) (fun _ => ?_)
  exact Le.refl _ _
  with_reducible refine Le.next (Work.flushBits_le ..) (by decide) ?_
  with_reducible refine Le.next (Work.flushBlock_le ..) (by decide) ?_
  exact Le.refl _ _

theorem Work.elemStart_le (w0 : Work) (c : ChainCfg) : Le 757891841 w0.s (Work.elemStart w0 c).1.s := by
  unfold Work.elemStart
  dsimp only
  split
  with_reducible refine Le.iteP (fun w : Work × _ => w.1.s) (fun _ => ?_) (fun _ => ?_)
  with_reducible refine Le.next (Work.segAdvance_le ..) (by decide) ?_
  with_reducible refine Le.iteP (fun w : Work => w.s) (fun _ => ?_) (fun _ => ?_)
  with_reducible refine Le.next (Work.softStart_le ..) (by decide) ?_
  with_reducible refine Le.iteP (fun w : Work => w.s) (fun _ => ?_) (fun _ => ?_)
  with_reducible refine Le.next (Work.loadVec_le ..) (by decide) ?_
  exact Le.refl _ _
  exact Le.refl _ _
  with_reducible refine Le.iteP (fun w : Work => w.s) (fun _ => ?_) (fun _ => ?_)
  with_reducible refine Le.next (Work.loadVec_le ..) (by decide) ?_
  exact Le.refl _ _
  exact Le.refl _ _
  dsimp only
  with_reducible refine Le.iteP (fun w : Work => w.s) (fun _ => ?_) (fun _ => ?_)
  with_reducible refine Le.next (Work.softStart_le ..) (by decide) ?_
  with_reducible refine Le.iteP (fun w : Work => w.s) (fun _ => ?_) (fun _ => ?_)
  with_reducible refine Le.next (Work.loadVec_le ..) (by decide) ?_
  exact Le.refl _ _
  exact Le.refl _ _
  with_reducible refine Le.iteP (fun w : Work => w.s) (fun _ => ?_) (fun _ => ?_)
  with_reducible refine Le.next (Work.loadVec_le ..) (by decide) ?_
  exact Le.refl _ _
  exact Le.refl _ _
  dsimp only
  with_reducible refine Le.iteP (fun w : Work => w.s) (fun _ => ?_) (fun _ => ?_)
  with_reducible refine Le.next (Work.softStart_le ..) (by decide) ?_
  with_reducible refine Le.iteP (fun w : Work => w.s) (fun _ => ?_) (fun _ => ?_)
  with_reducible refine Le.next (Work.loadVec_le ..) (by decide) ?_
  exact Le.refl _ _
  exact Le.refl _ _
  with_reducible refine Le.iteP (fun w : Work => w.s) (fun _ => ?_) (fun _ => ?_)
  with_reducible refine Le.next (Work.loadVec_le ..) (by decide) ?_
  exact Le.refl _ _
  exact Le.refl _ _

theorem lookupNode.freshEntry_le (s : State) (pier : Nat) (log : Nat) : Le 755799032 s (lookupNode.freshEntry s pier log).1 := by
  unfold lookupNode.freshEntry
  dsimp only
  split
  dsimp only
  with_reducible refine Le.next (cohRead_le ..) (by decide) ?_
  with_reducible refine Le.next (accessTrip_le ..) (by decide) ?_
  exact Le.refl _ _
  dsimp only
  with_reducible refine Le.next (State.modNode_le _ _ ?_) (by decide) ?_
  with_reducible exact fun h => h
  with_reducible refine Le.next (cohRead_le ..) (by decide) ?_
  with_reducible refine Le.next (accessTrip_le ..) (by decide) ?_
  exact Le.refl _ _

theorem stageCw_le (t : Nat) (cw : Nat) (l : Lease) (x : State × ChainRun × Nat) : Le 755794936 x.1 (stageCw t cw l x).1 := by
  unfold stageCw
  dsimp only
  with_reducible refine Le.iteP (fun w : State × _ => w.1) (fun _ => ?_) (fun _ => ?_)
  with_reducible refine Le.next (cohRead_le ..) (by decide) ?_
  with_reducible refine Le.next (accessTrip_le ..) (by decide) ?_
  exact Le.refl _ _
  with_reducible refine Le.next (readPool_le ..) (by decide) ?_
  with_reducible refine Le.next (accessTrip_le ..) (by decide) ?_
  exact Le.refl _ _

theorem Issue.putCw_le (i : Issue) (t : Nat) (l : Lease) (pos : Nat) (cw : Nat) (w : Scatter) : Le 755794936 i.s (Issue.putCw i t l pos cw w).s := by
  unfold Issue.putCw
  dsimp only
  with_reducible refine Le.next (lineStore_le ..) (by decide) ?_
  with_reducible refine Le.ite (fun _ => ?_) (fun _ => ?_)
  with_reducible refine Le.next (countTileReq_le ..) (by decide) ?_
  with_reducible refine Le.next (cohPurge_le ..) (by decide) ?_
  with_reducible refine Le.next (accessTrip_le ..) (by decide) ?_
  exact Le.refl _ _
  with_reducible refine Le.next (accessTrip_le ..) (by decide) ?_
  exact Le.refl _ _

theorem leaveFailed_le (s : State) (cause : Nat) : Le 755815225 s (leaveFailed s cause) := by
  unfold leaveFailed
  dsimp only
  with_reducible refine Le.next (State.modJob_le ..) (by decide) ?_
  with_reducible refine Le.next (failColls_le ..) (by decide) ?_
  with_reducible refine Le.next (floodOut_le ..) (by decide) ?_
  exact Le.refl _ _

theorem nodeFailed_le (s : State) (bound : Nat) (origin : Nat) (cause : Nat) : Le 755811129 s (nodeFailed s bound origin cause) := by
  unfold nodeFailed
  dsimp only
  with_reducible refine Le.ite (fun _ => ?_) (fun _ => ?_)
  with_reducible refine Le.next (State.modJob_le ..) (by decide) ?_
  with_reducible refine Le.next (State.modJob_le ..) (by decide) ?_
  with_reducible refine Le.next (failColls_le ..) (by decide) ?_
  exact Le.refl _ _
  with_reducible refine Le.next (State.modJob_le ..) (by decide) ?_
  with_reducible refine Le.next (failColls_le ..) (by decide) ?_
  exact Le.refl _ _

theorem postRecord_le (s : State) (t : Nat) (q : Nat) (cycles : Nat) : Le 756847417 s (postRecord s t q cycles) := by
  unfold postRecord
  dsimp only
  split
  exact Le.refl _ _
  with_reducible refine Le.ite (fun _ => ?_) (fun _ => ?_)
  exact Le.refl _ _
  with_reducible refine Le.ite (fun _ => ?_) (fun _ => ?_)
  with_reducible refine Le.next (raiseSrc_le ..) (by decide) ?_
  with_reducible refine Le.ite (fun _ => ?_) (fun _ => ?_)
  with_reducible refine Le.next (fireTrigger_le ..) (by decide) ?_
  with_reducible refine Le.next (traceDesc_le ..) (by decide) ?_
  with_reducible refine Le.ite (fun _ => ?_) (fun _ => ?_)
  with_reducible refine Le.next (tileEvent_le ..) (by decide) ?_
  with_reducible refine Le.next (tileEvent_le ..) (by decide) ?_
  with_reducible refine Le.ite (fun _ => ?_) (fun _ => ?_)
  with_reducible refine Le.next (countTile_le ..) (by decide) ?_
  with_reducible refine Le.next (State.modQueue_le ..) (by decide) ?_
  with_reducible refine Le.next (storePut_le ..) (by decide) ?_
  exact Le.refl _ _
  with_reducible refine Le.next (State.modQueue_le ..) (by decide) ?_
  with_reducible refine Le.next (storePut_le ..) (by decide) ?_
  exact Le.refl _ _
  with_reducible refine Le.next (tileEvent_le ..) (by decide) ?_
  with_reducible refine Le.ite (fun _ => ?_) (fun _ => ?_)
  with_reducible refine Le.next (countTile_le ..) (by decide) ?_
  with_reducible refine Le.next (State.modQueue_le ..) (by decide) ?_
  with_reducible refine Le.next (storePut_le ..) (by decide) ?_
  exact Le.refl _ _
  with_reducible refine Le.next (State.modQueue_le ..) (by decide) ?_
  with_reducible refine Le.next (storePut_le ..) (by decide) ?_
  exact Le.refl _ _
  with_reducible refine Le.next (traceDesc_le ..) (by decide) ?_
  with_reducible refine Le.ite (fun _ => ?_) (fun _ => ?_)
  with_reducible refine Le.next (tileEvent_le ..) (by decide) ?_
  with_reducible refine Le.next (tileEvent_le ..) (by decide) ?_
  with_reducible refine Le.ite (fun _ => ?_) (fun _ => ?_)
  with_reducible refine Le.next (countTile_le ..) (by decide) ?_
  with_reducible refine Le.next (State.modQueue_le ..) (by decide) ?_
  with_reducible refine Le.next (storePut_le ..) (by decide) ?_
  exact Le.refl _ _
  with_reducible refine Le.next (State.modQueue_le ..) (by decide) ?_
  with_reducible refine Le.next (storePut_le ..) (by decide) ?_
  exact Le.refl _ _
  with_reducible refine Le.next (tileEvent_le ..) (by decide) ?_
  with_reducible refine Le.ite (fun _ => ?_) (fun _ => ?_)
  with_reducible refine Le.next (countTile_le ..) (by decide) ?_
  with_reducible refine Le.next (State.modQueue_le ..) (by decide) ?_
  with_reducible refine Le.next (storePut_le ..) (by decide) ?_
  exact Le.refl _ _
  with_reducible refine Le.next (State.modQueue_le ..) (by decide) ?_
  with_reducible refine Le.next (storePut_le ..) (by decide) ?_
  exact Le.refl _ _
  with_reducible refine Le.ite (fun _ => ?_) (fun _ => ?_)
  with_reducible refine Le.next (raiseSrc_le ..) (by decide) ?_
  with_reducible refine Le.ite (fun _ => ?_) (fun _ => ?_)
  with_reducible refine Le.next (fireTrigger_le ..) (by decide) ?_
  with_reducible refine Le.next (traceDesc_le ..) (by decide) ?_
  with_reducible refine Le.ite (fun _ => ?_) (fun _ => ?_)
  with_reducible refine Le.next (tileEvent_le ..) (by decide) ?_
  with_reducible refine Le.next (tileEvent_le ..) (by decide) ?_
  with_reducible refine Le.ite (fun _ => ?_) (fun _ => ?_)
  with_reducible refine Le.next (countTile_le ..) (by decide) ?_
  with_reducible refine Le.next (State.modQueue_le ..) (by decide) ?_
  with_reducible refine Le.next (storePut_le ..) (by decide) ?_
  exact Le.refl _ _
  with_reducible refine Le.next (State.modQueue_le ..) (by decide) ?_
  with_reducible refine Le.next (storePut_le ..) (by decide) ?_
  exact Le.refl _ _
  with_reducible refine Le.next (tileEvent_le ..) (by decide) ?_
  with_reducible refine Le.ite (fun _ => ?_) (fun _ => ?_)
  with_reducible refine Le.next (countTile_le ..) (by decide) ?_
  with_reducible refine Le.next (State.modQueue_le ..) (by decide) ?_
  with_reducible refine Le.next (storePut_le ..) (by decide) ?_
  exact Le.refl _ _
  with_reducible refine Le.next (State.modQueue_le ..) (by decide) ?_
  with_reducible refine Le.next (storePut_le ..) (by decide) ?_
  exact Le.refl _ _
  with_reducible refine Le.next (traceDesc_le ..) (by decide) ?_
  with_reducible refine Le.ite (fun _ => ?_) (fun _ => ?_)
  with_reducible refine Le.next (tileEvent_le ..) (by decide) ?_
  with_reducible refine Le.next (tileEvent_le ..) (by decide) ?_
  with_reducible refine Le.ite (fun _ => ?_) (fun _ => ?_)
  with_reducible refine Le.next (countTile_le ..) (by decide) ?_
  with_reducible refine Le.next (State.modQueue_le ..) (by decide) ?_
  with_reducible refine Le.next (storePut_le ..) (by decide) ?_
  exact Le.refl _ _
  with_reducible refine Le.next (State.modQueue_le ..) (by decide) ?_
  with_reducible refine Le.next (storePut_le ..) (by decide) ?_
  exact Le.refl _ _
  with_reducible refine Le.next (tileEvent_le ..) (by decide) ?_
  with_reducible refine Le.ite (fun _ => ?_) (fun _ => ?_)
  with_reducible refine Le.next (countTile_le ..) (by decide) ?_
  with_reducible refine Le.next (State.modQueue_le ..) (by decide) ?_
  with_reducible refine Le.next (storePut_le ..) (by decide) ?_
  exact Le.refl _ _
  with_reducible refine Le.next (State.modQueue_le ..) (by decide) ?_
  with_reducible refine Le.next (storePut_le ..) (by decide) ?_
  exact Le.refl _ _
  with_reducible refine Le.ite (fun _ => ?_) (fun _ => ?_)
  with_reducible refine Le.next (fireTrigger_le ..) (by decide) ?_
  with_reducible refine Le.next (traceDesc_le ..) (by decide) ?_
  with_reducible refine Le.ite (fun _ => ?_) (fun _ => ?_)
  with_reducible refine Le.next (tileEvent_le ..) (by decide) ?_
  with_reducible refine Le.next (tileEvent_le ..) (by decide) ?_
  with_reducible refine Le.ite (fun _ => ?_) (fun _ => ?_)
  with_reducible refine Le.next (countTile_le ..) (by decide) ?_
  with_reducible refine Le.next (State.modQueue_le ..) (by decide) ?_
  with_reducible refine Le.next (storePut_le ..) (by decide) ?_
  exact Le.refl _ _
  with_reducible refine Le.next (State.modQueue_le ..) (by decide) ?_
  with_reducible refine Le.next (storePut_le ..) (by decide) ?_
  exact Le.refl _ _
  with_reducible refine Le.next (tileEvent_le ..) (by decide) ?_
  with_reducible refine Le.ite (fun _ => ?_) (fun _ => ?_)
  with_reducible refine Le.next (countTile_le ..) (by decide) ?_
  with_reducible refine Le.next (State.modQueue_le ..) (by decide) ?_
  with_reducible refine Le.next (storePut_le ..) (by decide) ?_
  exact Le.refl _ _
  with_reducible refine Le.next (State.modQueue_le ..) (by decide) ?_
  with_reducible refine Le.next (storePut_le ..) (by decide) ?_
  exact Le.refl _ _
  with_reducible refine Le.next (traceDesc_le ..) (by decide) ?_
  with_reducible refine Le.ite (fun _ => ?_) (fun _ => ?_)
  with_reducible refine Le.next (tileEvent_le ..) (by decide) ?_
  with_reducible refine Le.next (tileEvent_le ..) (by decide) ?_
  with_reducible refine Le.ite (fun _ => ?_) (fun _ => ?_)
  with_reducible refine Le.next (countTile_le ..) (by decide) ?_
  with_reducible refine Le.next (State.modQueue_le ..) (by decide) ?_
  with_reducible refine Le.next (storePut_le ..) (by decide) ?_
  exact Le.refl _ _
  with_reducible refine Le.next (State.modQueue_le ..) (by decide) ?_
  with_reducible refine Le.next (storePut_le ..) (by decide) ?_
  exact Le.refl _ _
  with_reducible refine Le.next (tileEvent_le ..) (by decide) ?_
  with_reducible refine Le.ite (fun _ => ?_) (fun _ => ?_)
  with_reducible refine Le.next (countTile_le ..) (by decide) ?_
  with_reducible refine Le.next (State.modQueue_le ..) (by decide) ?_
  with_reducible refine Le.next (storePut_le ..) (by decide) ?_
  exact Le.refl _ _
  with_reducible refine Le.next (State.modQueue_le ..) (by decide) ?_
  with_reducible refine Le.next (storePut_le ..) (by decide) ?_
  exact Le.refl _ _

theorem enterDebug_le (s : State) (t : Nat) (cause : Nat) : Le 756847417 s (enterDebug s t cause) := by
  unfold enterDebug
  with_reducible refine Le.ite (fun _ => ?_) (fun _ => ?_)
  dsimp only
  with_reducible refine Le.next (fireTrigger_le ..) (by decide) ?_
  with_reducible refine Le.next (traceTile_le ..) (by decide) ?_
  with_reducible refine Le.next (startDrain_le ..) (by decide) ?_
  with_reducible refine Le.next (State.modTile_le ..) (by decide) ?_
  exact Le.refl _ _
  with_reducible refine Le.next (askHalt_le ..) (by decide) ?_
  exact Le.refl _ _

theorem hostBlock_le (s : State) (k : HostSt) (line : Nat) : Le 755794936 s (hostBlock s k line) := by
  unfold hostBlock
  with_reducible refine Le.ite (fun _ => ?_) (fun _ => ?_)
  exact Le.refl _ _
  split
  with_reducible refine Le.next (cohShare_le ..) (by decide) ?_
  exact Le.refl _ _
  with_reducible refine Le.next (cohPurge_le ..) (by decide) ?_
  exact Le.refl _ _
  with_reducible refine Le.next (dropCopies_le ..) (by decide) ?_
  exact Le.refl _ _
  exact Le.refl _ _

theorem doTmarkWrite_le (v : View) (t : Nat) (val : W32) (s : State) : Le 756847416 s (doTmarkWrite v t val s) := by
  unfold doTmarkWrite
  dsimp only
  with_reducible refine Le.ite (fun _ => ?_) (fun _ => ?_)
  with_reducible refine Le.ite (fun _ => ?_) (fun _ => ?_)
  with_reducible refine Le.next (fireTrigger_le ..) (by decide) ?_
  with_reducible refine Le.next (traceTile_le ..) (by decide) ?_
  exact Le.refl _ _
  with_reducible refine Le.next (traceTile_le ..) (by decide) ?_
  exact Le.refl _ _
  exact Le.refl _ _

theorem doTalcyTriggerWrite_le (s : State) : Le 756847416 s (doTalcyTriggerWrite s) := by
  unfold doTalcyTriggerWrite
  with_reducible refine Le.next (fireTrigger_le ..) (by decide) ?_
  exact Le.refl _ _

theorem walkFrom_le (a0 : Nat) (a1 : State) (a2 : Nat) (a3 : Nat) : Le 755794936 a1 (walkFrom a0 a1 a2 a3).1 := by
  induction a0 generalizing a1 a2 a3 with
  | zero => exact Le.refl _ _
  | succ n ih =>
    unfold walkFrom
    dsimp only
    split
    dsimp only
    with_reducible refine Le.next (bump_le ..) (by decide) ?_
    with_reducible refine Le.next (cohRead_le ..) (by decide) ?_
    with_reducible refine Le.next (roundTrip_le ..) (by decide) ?_
    exact Le.refl _ _
    with_reducible refine Le.iteP (fun w : State × _ => w.1) (fun _ => ?_) (fun _ => ?_)
    dsimp only
    with_reducible refine Le.next (bump_le ..) (by decide) ?_
    with_reducible refine Le.next (cohRead_le ..) (by decide) ?_
    with_reducible refine Le.next (roundTrip_le ..) (by decide) ?_
    exact Le.refl _ _
    with_reducible refine Le.iteP (fun w : State × _ => w.1) (fun _ => ?_) (fun _ => ?_)
    dsimp only
    with_reducible refine Le.next (bump_le ..) (by decide) ?_
    with_reducible refine Le.next (cohRead_le ..) (by decide) ?_
    with_reducible refine Le.next (roundTrip_le ..) (by decide) ?_
    exact Le.refl _ _
    with_reducible refine Le.iteP (fun w : State × _ => w.1) (fun _ => ?_) (fun _ => ?_)
    dsimp only
    with_reducible refine Le.next (bump_le ..) (by decide) ?_
    with_reducible refine Le.next (cohRead_le ..) (by decide) ?_
    with_reducible refine Le.next (roundTrip_le ..) (by decide) ?_
    exact Le.refl _ _
    with_reducible refine Le.next (ih ..) (by decide) ?_
    with_reducible refine Le.next (bump_le ..) (by decide) ?_
    with_reducible refine Le.next (cohRead_le ..) (by decide) ?_
    with_reducible refine Le.next (roundTrip_le ..) (by decide) ?_
    exact Le.refl _ _

theorem takeLaunch_le (s : State) (h : LaunchHdr) : Le 755811129 s (takeLaunch s h).1 := by
  unfold takeLaunch
  with_reducible refine Le.iteP (fun w : State × _ => w.1) (fun _ => ?_) (fun _ => ?_)
  exact Le.refl _ _
  with_reducible refine Le.iteP (fun w : State × _ => w.1) (fun _ => ?_) (fun _ => ?_)
  exact Le.refl _ _
  dsimp only
  with_reducible refine Le.next (applyLaunch_le ..) (by decide) ?_
  exact Le.refl _ _

theorem Move.fetch_le (m : Move) (t : Nat) (l : Lease) (pos : Nat) (cw : Nat) : Le 755794936 m.i.s (Move.fetch m t l pos cw).i.s := by
  unfold Move.fetch
  with_reducible refine Le.iteP (fun w : Move => w.i.s) (fun _ => ?_) (fun _ => ?_)
  exact Le.refl _ _
  dsimp only
  with_reducible refine Le.iteP (fun w : State × _ => w.1) (fun _ => ?_) (fun _ => ?_)
  with_reducible refine Le.next (cohRead_le ..) (by decide) ?_
  with_reducible refine Le.next (accessTrip_le ..) (by decide) ?_
  exact Le.refl _ _
  with_reducible refine Le.next (readPool_le ..) (by decide) ?_
  with_reducible refine Le.next (accessTrip_le ..) (by decide) ?_
  exact Le.refl _ _

theorem doCounterThreshold_le (t : Nat) (n : Nat) (s : State) : Le 756847417 s (doCounterThreshold t n s) := by
  unfold doCounterThreshold
  with_reducible refine Le.ite (fun _ => ?_) (fun _ => ?_)
  dsimp only
  with_reducible refine Le.next (fireTrigger_le ..) (by decide) ?_
  with_reducible refine Le.ite (fun _ => ?_) (fun _ => ?_)
  with_reducible refine Le.next (resetCtr_le ..) (by decide) ?_
  with_reducible refine Le.next (raiseSrc_le ..) (by decide) ?_
  with_reducible refine Le.next (State.modTile_le ..) (by decide) ?_
  exact Le.refl _ _
  with_reducible refine Le.next (raiseSrc_le ..) (by decide) ?_
  with_reducible refine Le.next (State.modTile_le ..) (by decide) ?_
  exact Le.refl _ _
  exact Le.refl _ _

theorem applyFreeze_le (b : Nat) (x : Nat × Bool × Bool) (s : State) : Le 756847416 s (applyFreeze b x s) := by
  unfold applyFreeze
  dsimp only
  with_reducible refine Le.ite (fun _ => ?_) (fun _ => ?_)
  with_reducible refine Le.ite (fun _ => ?_) (fun _ => ?_)
  with_reducible refine Le.next (logEvent_le ..) (by decide) ?_
  with_reducible refine Le.next (State.modCtrs_le ..) (by decide) ?_
  exact Le.refl _ _
  exact Le.refl _ _
  with_reducible refine Le.ite (fun _ => ?_) (fun _ => ?_)
  with_reducible refine Le.next (State.modCtrs_le ..) (by decide) ?_
  with_reducible refine Le.ite (fun _ => ?_) (fun _ => ?_)
  with_reducible refine Le.next (logEvent_le ..) (by decide) ?_
  with_reducible refine Le.next (State.modCtrs_le ..) (by decide) ?_
  exact Le.refl _ _
  exact Le.refl _ _
  with_reducible refine Le.next (fireTrigger_le ..) (by decide) ?_
  with_reducible refine Le.next (State.modCtrs_le ..) (by decide) ?_
  with_reducible refine Le.ite (fun _ => ?_) (fun _ => ?_)
  with_reducible refine Le.next (logEvent_le ..) (by decide) ?_
  with_reducible refine Le.next (State.modCtrs_le ..) (by decide) ?_
  exact Le.refl _ _
  exact Le.refl _ _

theorem arbReq_le (s : State) (r : CReq) : Le 755794872 s (arbReq s r) := by
  unfold arbReq
  with_reducible refine Le.next (serveArb_le ..) (by decide) ?_
  with_reducible refine Le.next (State.modArb_le ..) (by decide) ?_
  exact Le.refl _ _

theorem tryClose_le (s : State) (a : Nat) (line : Nat) : Le 755794872 s (tryClose s a line) := by
  unfold tryClose
  dsimp only
  split
  exact Le.refl _ _
  with_reducible refine Le.ite (fun _ => ?_) (fun _ => ?_)
  exact Le.refl _ _
  with_reducible refine Le.next (serveArb_le ..) (by decide) ?_
  with_reducible refine Le.ite (fun _ => ?_) (fun _ => ?_)
  with_reducible refine Le.next (tileAccess_le ..) (by decide) ?_
  with_reducible refine Le.next (State.modArb_le ..) (by decide) ?_
  exact Le.refl _ _
  with_reducible refine Le.next (State.modArb_le ..) (by decide) ?_
  exact Le.refl _ _

theorem Work.rowEnd_le (w : Work) (c : ChainCfg) (row : Nat) : Le 757891897 w.s (Work.rowEnd w c row).s := by
  unfold Work.rowEnd
  dsimp only
  with_reducible refine Le.iteP (fun w : Work => w.s) (fun _ => ?_) (fun _ => ?_)
  with_reducible refine Le.next (Work.extentEnd_le ..) (by decide) ?_
  with_reducible refine Le.iteP (fun w : Work => w.s) (fun _ => ?_) (fun _ => ?_)
  with_reducible refine Le.next (Work.routeRow_le ..) (by decide) ?_
  with_reducible refine Le.iteP (fun w : Work => w.s) (fun _ => ?_) (fun _ => ?_)
  dsimp only
  with_reducible refine Le.next (Work.put_le ..) (by decide) ?_
  with_reducible refine Le.next (Work.flushOut_le ..) (by decide) ?_
  exact Le.refl _ _
  exact Le.refl _ _
  with_reducible refine Le.iteP (fun w : Work => w.s) (fun _ => ?_) (fun _ => ?_)
  dsimp only
  with_reducible refine Le.next (Work.put_le ..) (by decide) ?_
  with_reducible refine Le.next (Work.flushOut_le ..) (by decide) ?_
  exact Le.refl _ _
  exact Le.refl _ _
  with_reducible refine Le.iteP (fun w : Work => w.s) (fun _ => ?_) (fun _ => ?_)
  with_reducible refine Le.next (Work.routeRow_le ..) (by decide) ?_
  with_reducible refine Le.iteP (fun w : Work => w.s) (fun _ => ?_) (fun _ => ?_)
  dsimp only
  with_reducible refine Le.next (Work.put_le ..) (by decide) ?_
  with_reducible refine Le.next (Work.flushOut_le ..) (by decide) ?_
  exact Le.refl _ _
  exact Le.refl _ _
  with_reducible refine Le.iteP (fun w : Work => w.s) (fun _ => ?_) (fun _ => ?_)
  dsimp only
  with_reducible refine Le.next (Work.put_le ..) (by decide) ?_
  with_reducible refine Le.next (Work.flushOut_le ..) (by decide) ?_
  exact Le.refl _ _
  exact Le.refl _ _

theorem Work.backResult_le (w : Work) (c : ChainCfg) (e : Elem) (j : Nat) : Le 757891897 w.s (Work.backResult w c e j).s := by
  unfold Work.backResult
  dsimp only
  split
  with_reducible refine Le.iteP (fun w : Work => w.s) (fun _ => ?_) (fun _ => ?_)
  exact Le.refl _ _
  exact Le.refl _ _
  with_reducible refine Le.iteP (fun w : Work => w.s) (fun _ => ?_) (fun _ => ?_)
  split
  exact Le.refl _ _
  with_reducible refine Le.iteP (fun w : Work => w.s) (fun _ => ?_) (fun _ => ?_)
  exact Le.refl _ _
  with_reducible refine Le.iteP (fun w : Work => w.s) (fun _ => ?_) (fun _ => ?_)
  with_reducible refine Le.next (Work.flag_le ..) (by decide) ?_
  with_reducible refine Le.next (Work.bits_le ..) (by decide) ?_
  exact Le.refl _ _
  with_reducible refine Le.next (Work.scatterAt_le ..) (by decide) ?_
  with_reducible refine Le.next (Work.bits_le ..) (by decide) ?_
  exact Le.refl _ _
  with_reducible refine Le.iteP (fun w : Work => w.s) (fun _ => ?_) (fun _ => ?_)
  with_reducible refine Le.iteP (fun w : Work => w.s) (fun _ => ?_) (fun _ => ?_)
  exact Le.refl _ _
  dsimp only
  with_reducible refine Le.iteP (fun w : Work => w.s) (fun _ => ?_) (fun _ => ?_)
  with_reducible refine Le.next (Work.putBits_le ..) (by decide) ?_
  exact Le.refl _ _
  with_reducible refine Le.next (Work.packAt_le ..) (by decide) ?_
  exact Le.refl _ _
  with_reducible refine Le.next (Work.packAt_le ..) (by decide) ?_
  exact Le.refl _ _

theorem lookupNode_le (s : State) (pier : Nat) (log : Nat) : Le 755799032 s (lookupNode s pier log).1 := by
  unfold lookupNode
  with_reducible refine Le.iteP (fun w : State × _ => w.1) (fun _ => ?_) (fun _ => ?_)
  exact Le.refl _ _
  dsimp only
  split
  with_reducible refine Le.iteP (fun w : State × _ => w.1) (fun _ => ?_) (fun _ => ?_)
  dsimp only
  with_reducible refine Le.ite (fun _ => ?_) (fun _ => ?_)
  with_reducible refine Le.next (State.takeFree_le ..) (by decide) ?_
  exact Le.refl _ _
  exact Le.refl _ _
  with_reducible refine Le.next (lookupNode.freshEntry_le ..) (by decide) ?_
  with_reducible refine Le.ite (fun _ => ?_) (fun _ => ?_)
  with_reducible refine Le.next (State.takeFree_le ..) (by decide) ?_
  exact Le.refl _ _
  exact Le.refl _ _
  with_reducible refine Le.next (lookupNode.freshEntry_le ..) (by decide) ?_
  with_reducible refine Le.ite (fun _ => ?_) (fun _ => ?_)
  with_reducible refine Le.next (State.takeFree_le ..) (by decide) ?_
  exact Le.refl _ _
  exact Le.refl _ _

theorem doFlood_le (port : Nat) (bound : Nat) (origin : Nat) (kind : Nat) (cause : Nat) (job : Nat) (s : State) : Le 755815225 s (doFlood port bound origin kind cause job s) := by
  unfold doFlood
  dsimp only
  with_reducible refine Le.ite (fun _ => ?_) (fun _ => ?_)
  exact Le.refl _ _
  with_reducible refine Le.ite (fun _ => ?_) (fun _ => ?_)
  with_reducible refine Le.next (countCtrl_le ..) (by decide) ?_
  exact Le.refl _ _
  with_reducible refine Le.ite (fun _ => ?_) (fun _ => ?_)
  with_reducible refine Le.next (lateMark_le ..) (by decide) ?_
  with_reducible refine Le.next (floodOut_le ..) (by decide) ?_
  with_reducible refine Le.next (countCtrl_le ..) (by decide) ?_
  exact Le.refl _ _
  with_reducible refine Le.next (nodeFailed_le ..) (by decide) ?_
  with_reducible refine Le.next (floodOut_le ..) (by decide) ?_
  with_reducible refine Le.next (countCtrl_le ..) (by decide) ?_
  exact Le.refl _ _

theorem doNodeLost_le (phys : Nat) (s : State) : Le 755815225 s (doNodeLost phys s) := by
  unfold doNodeLost
  dsimp only
  with_reducible refine Le.ite (fun _ => ?_) (fun _ => ?_)
  exact Le.refl _ _
  with_reducible refine Le.next (nodeFailed_le ..) (by decide) ?_
  with_reducible refine Le.next (floodOut_le ..) (by decide) ?_
  exact Le.refl _ _

theorem sendStep_le (s : State) (c : Coll) (x : CStep) (pl : CPlan) : Le 755815225 s (sendStep s c x pl) := by
  unfold sendStep
  dsimp only
  with_reducible refine Le.ite (fun _ => ?_) (fun _ => ?_)
  with_reducible refine Le.next (leaveFailed_le ..) (by decide) ?_
  with_reducible refine Le.foldlP (fun w : State × _ => w.1) ?_ (fun u x hu => ?_)
  exact Le.refl _ _
  dsimp only
  with_reducible refine Le.next (collPkt_le ..) (by decide) ?_
  with_reducible assumption
  with_reducible refine Le.forEach ?_ (fun x u hu => ?_)
  with_reducible refine Le.next (modColl_le ..) (by decide) ?_
  with_reducible refine Le.foldlP (fun w : State × _ => w.1) ?_ (fun u x hu => ?_)
  exact Le.refl _ _
  dsimp only
  with_reducible refine Le.next (collPkt_le ..) (by decide) ?_
  with_reducible assumption
  with_reducible refine Le.next (sendHop_le ..) (by decide) ?_
  with_reducible assumption

theorem takePkt_le (s : State) (c : Coll) (x : CStep) (p : Pkt) : Le 755815225 s (takePkt s c x p) := by
  unfold takePkt
  dsimp only
  with_reducible refine Le.ite (fun _ => ?_) (fun _ => ?_)
  with_reducible refine Le.next (leaveFailed_le ..) (by decide) ?_
  with_reducible refine Le.next (combineContrib_le ..) (by decide) ?_
  exact Le.refl _ _
  with_reducible refine Le.next (modColl_le ..) (by decide) ?_
  with_reducible refine Le.next (combineContrib_le ..) (by decide) ?_
  exact Le.refl _ _

theorem tryTrigger_le (seq : Nat) (s : State) : Le 755815225 s (tryTrigger seq s) := by
  unfold tryTrigger
  dsimp only
  split
  exact Le.refl _ _
  with_reducible refine Le.ite (fun _ => ?_) (fun _ => ?_)
  exact Le.refl _ _
  with_reducible refine Le.ite (fun _ => ?_) (fun _ => ?_)
  with_reducible refine Le.next (Coll.trigger_le ..) (by decide) ?_
  exact Le.refl _ _
  with_reducible refine Le.ite (fun _ => ?_) (fun _ => ?_)
  with_reducible refine Le.next (leaveFailed_le ..) (by decide) ?_
  with_reducible refine Le.next (Coll.contribution_le ..) (by decide) ?_
  with_reducible refine Le.next (Coll.trigger_le ..) (by decide) ?_
  exact Le.refl _ _
  with_reducible refine Le.ite (fun _ => ?_) (fun _ => ?_)
  with_reducible refine Le.next (leaveFailed_le ..) (by decide) ?_
  with_reducible refine Le.next (writePool_le ..) (by decide) ?_
  with_reducible refine Le.next (Coll.contribution_le ..) (by decide) ?_
  with_reducible refine Le.next (Coll.trigger_le ..) (by decide) ?_
  exact Le.refl _ _
  with_reducible refine Le.next (modColl_le ..) (by decide) ?_
  with_reducible refine Le.next (writePool_le ..) (by decide) ?_
  with_reducible refine Le.next (Coll.contribution_le ..) (by decide) ?_
  with_reducible refine Le.next (Coll.trigger_le ..) (by decide) ?_
  exact Le.refl _ _

theorem doStepTimeout_le (stream : Nat) (step : Nat) (s : State) : Le 755815225 s (doStepTimeout stream step s) := by
  unfold doStepTimeout
  dsimp only
  with_reducible refine Le.ite (fun _ => ?_) (fun _ => ?_)
  with_reducible refine Le.next (leaveFailed_le ..) (by decide) ?_
  exact Le.refl _ _
  exact Le.refl _ _

theorem doCompletionPost_le (t : Nat) (q : Nat) (cycles : Nat) (s : State) : Le 756847417 s (doCompletionPost t q cycles s) := by
  unfold doCompletionPost
  with_reducible refine Le.ite (fun _ => ?_) (fun _ => ?_)
  dsimp only
  with_reducible refine Le.next (releaseLeases_le ..) (by decide) ?_
  with_reducible refine Le.next (postRecord_le ..) (by decide) ?_
  exact Le.refl _ _
  exact Le.refl _ _

theorem haltTile_le (s : State) (t : Nat) (cause : Nat) : Le 756863801 s (haltTile s t cause) := by
  unfold haltTile
  with_reducible refine Le.ite (fun _ => ?_) (fun _ => ?_)
  dsimp only
  with_reducible refine Le.ite (fun _ => ?_) (fun _ => ?_)
  with_reducible refine Le.ite (fun _ => ?_) (fun _ => ?_)
  with_reducible refine Le.next (jobHalt_le ..) (by decide) ?_
  with_reducible refine Le.forEach ?_ (fun x u hu => ?_)
  with_reducible refine Le.next (enterDebug_le ..) (by decide) ?_
  exact Le.refl _ _
  with_reducible refine Le.next (enterDebug_le ..) (by decide) ?_
  with_reducible refine Le.next (State.send_le ..) (by decide) ?_
  with_reducible assumption
  with_reducible refine Le.forEach ?_ (fun x u hu => ?_)
  with_reducible refine Le.next (enterDebug_le ..) (by decide) ?_
  exact Le.refl _ _
  with_reducible refine Le.next (enterDebug_le ..) (by decide) ?_
  with_reducible refine Le.next (State.send_le ..) (by decide) ?_
  with_reducible assumption
  with_reducible refine Le.next (enterDebug_le ..) (by decide) ?_
  exact Le.refl _ _
  with_reducible refine Le.next (askHalt_le ..) (by decide) ?_
  exact Le.refl _ _

theorem stopQueue_le (t : Nat) (q : Nat) (s : State) : Le 756847421 s (stopQueue t q s) := by
  unfold stopQueue
  dsimp only
  with_reducible refine Le.next (releaseLeases_le ..) (by decide) ?_
  with_reducible refine Le.forEach ?_ (fun x u hu => ?_)
  with_reducible refine Le.next (State.modQueue_le ..) (by decide) ?_
  with_reducible refine Le.next (withdrawFault_le ..) (by decide) ?_
  exact Le.refl _ _
  with_reducible refine Le.next (postRecord_le ..) (by decide) ?_
  with_reducible refine Le.next (State.takeFree_le ..) (by decide) ?_
  with_reducible assumption

theorem tileWrite_le (v : View) (t : Nat) (off : Nat) (val : W32) (a4 : State) : Le 756847417 a4 (tileWrite v t off val a4) := by
  unfold tileWrite
  with_reducible refine regChange_le _ _ _ _ ?_ ?_
  exact Le.refl _ _
  dsimp only
  with_reducible refine Le.ite (fun _ => ?_) (fun _ => ?_)
  with_reducible refine Le.next (doExit_le ..) (by decide) ?_
  exact Le.refl _ _
  with_reducible refine Le.ite (fun _ => ?_) (fun _ => ?_)
  split
  with_reducible refine Le.next (doQpush_le ..) (by decide) ?_
  exact Le.refl _ _
  with_reducible refine Le.next (doQcrWrite_le ..) (by decide) ?_
  exact Le.refl _ _
  exact Le.refl _ _
  with_reducible refine Le.ite (fun _ => ?_) (fun _ => ?_)
  split
  with_reducible refine Le.next (doRxcfgWrite_le ..) (by decide) ?_
  exact Le.refl _ _
  with_reducible refine Le.next (doRxtailWrite_le ..) (by decide) ?_
  exact Le.refl _ _
  exact Le.refl _ _
  with_reducible refine Le.ite (fun _ => ?_) (fun _ => ?_)
  with_reducible refine Le.next (doTmarkWrite_le ..) (by decide) ?_
  exact Le.refl _ _
  with_reducible refine Le.ite (fun _ => ?_) (fun _ => ?_)
  with_reducible refine Le.next (doPendSet_le ..) (by decide) ?_
  exact Le.refl _ _
  with_reducible refine Le.ite (fun _ => ?_) (fun _ => ?_)
  with_reducible refine Le.next (doPendClr_le ..) (by decide) ?_
  exact Le.refl _ _
  with_reducible refine Le.ite (fun _ => ?_) (fun _ => ?_)
  with_reducible refine Le.next (doMaskSet_le ..) (by decide) ?_
  exact Le.refl _ _
  with_reducible refine Le.ite (fun _ => ?_) (fun _ => ?_)
  with_reducible refine Le.next (doMaskClr_le ..) (by decide) ?_
  exact Le.refl _ _
  with_reducible refine Le.ite (fun _ => ?_) (fun _ => ?_)
  with_reducible refine Le.next (doCntrstWrite_le ..) (by decide) ?_
  exact Le.refl _ _
  with_reducible refine Le.next (tileRwWrite_le ..) (by decide) ?_
  exact Le.refl _ _

theorem soloWrite_le (addr : Nat) (val : W32) (s : State) : ∀ t, soloWrite addr val s = some t → Le 763286328 s t := by
  unfold soloWrite
  refine orElse_le (map_le fun x => ?_) (orElse_le (map_le fun x => ?_) (orElse_le (map_le fun x => ?_) (orElse_le (map_le fun x => ?_)
    (orElse_le (map_le fun x => ?_) (orElse_le (map_le fun x => ?_) (map_le fun x => ?_))))))
  · exact Le.ite (fun _ => Le.next (scrubWrite_le ..) (by decide) (Le.refl _ _)) fun _ => Le.refl _ _
  · exact Le.next (nodeWrite_le ..) (by decide) (Le.refl _ _)
  · exact Le.next (jobWrite_le ..) (by decide) (Le.refl _ _)
  · exact Le.next (powerWrite_le ..) (by decide) (Le.refl _ _)
  · exact Le.ite (fun _ => Le.next (doTalcyTriggerWrite_le ..) (by decide) (Le.refl _ _)) fun _ => Le.refl _ _
  · exact Le.ite (fun _ => Le.next (writeHold_le ..) (by decide) (Le.refl _ _)) fun _ => Le.refl _ _
  · exact Le.ite (fun _ => Le.next (Le.upper ..) (by decide) (Le.refl _ _)) fun _ => Le.refl _ _

theorem walk_le (s : State) (tag : Nat) (va : Nat) : Le 755794936 s (walk s tag va).1 := by
  unfold walk
  split
  exact Le.refl _ _
  with_reducible refine Le.iteP (fun w : State × _ => w.1) (fun _ => ?_) (fun _ => ?_)
  with_reducible refine Le.next (walkFrom_le ..) (by decide) ?_
  exact Le.refl _ _
  exact Le.refl _ _

theorem doLaunch_le (port : Nat) (h : LaunchHdr) (s : State) : Le 755815225 s (doLaunch port h s) := by
  unfold doLaunch
  with_reducible refine Le.ite (fun _ => ?_) (fun _ => ?_)
  exact Le.refl _ _
  dsimp only
  with_reducible refine Le.ite (fun _ => ?_) (fun _ => ?_)
  with_reducible refine Le.next (sendAck_le ..) (by decide) ?_
  with_reducible refine Le.next (State.modJob_le ..) (by decide) ?_
  with_reducible refine Le.next (takeLaunch_le ..) (by decide) ?_
  with_reducible refine Le.next (sendLaunch_le ..) (by decide) ?_
  with_reducible refine Le.next (recvCtrl_le ..) (by decide) ?_
  exact Le.refl _ _
  with_reducible refine Le.next (State.modJob_le ..) (by decide) ?_
  with_reducible refine Le.next (takeLaunch_le ..) (by decide) ?_
  with_reducible refine Le.next (sendLaunch_le ..) (by decide) ?_
  with_reducible refine Le.next (recvCtrl_le ..) (by decide) ?_
  exact Le.refl _ _

theorem Move.elem_le (t : Nat) (q : Nat) (img : Tab Byte) (e : QEntry) (m : Move) (j : Nat) : Le 755794936 m.i.s (Move.elem t q img e m j).i.s := by
  unfold Move.elem
  dsimp only
  with_reducible refine Le.iteP (fun w : Move => w.i.s) (fun _ => ?_) (fun _ => ?_)
  with_reducible refine Le.next (Move.put_le ..) (by decide) ?_
  exact Le.refl _ _
  with_reducible refine Le.iteP (fun w : Move => w.i.s) (fun _ => ?_) (fun _ => ?_)
  with_reducible refine Le.next (Move.put_le ..) (by decide) ?_
  exact Le.refl _ _
  split
  exact Le.refl _ _
  with_reducible refine Le.iteP (fun w : Move => w.i.s) (fun _ => ?_) (fun _ => ?_)
  exact Le.refl _ _
  with_reducible refine Le.iteP (fun w : Move => w.i.s) (fun _ => ?_) (fun _ => ?_)
  with_reducible refine Le.foldlP (fun w : Move => w.i.s) ?_ (fun u x hu => ?_)
  exact Le.refl _ _
  split
  with_reducible refine Le.next (Move.fetch_le ..) (by decide) ?_
  with_reducible assumption
  with_reducible assumption
  with_reducible refine Le.next (Move.put_le ..) (by decide) ?_
  with_reducible refine Le.foldlP (fun w : Move => w.i.s) ?_ (fun u x hu => ?_)
  exact Le.refl _ _
  split
  with_reducible refine Le.next (Move.fetch_le ..) (by decide) ?_
  with_reducible assumption
  with_reducible assumption

theorem doStackTempRead_le (st : Nat) (temp : Int) (s : State) : Le 755946297 s (doStackTempRead st temp s) := by
  unfold doStackTempRead
  with_reducible refine Le.ite (fun _ => ?_) (fun _ => ?_)
  exact Le.refl _ _
  dsimp only
  with_reducible refine Le.ite (fun _ => ?_) (fun _ => ?_)
  with_reducible refine Le.ite (fun _ => ?_) (fun _ => ?_)
  with_reducible refine Le.next (leaveFailed_le ..) (by decide) ?_
  with_reducible refine Le.next (logStored_le ..) (by decide) ?_
  with_reducible refine Le.forEach ?_ (fun x u hu => ?_)
  with_reducible refine Le.ite (fun _ => ?_) (fun _ => ?_)
  with_reducible refine Le.next (logEvent_le ..) (by decide) ?_
  with_reducible refine Le.next (applyTherm_le ..) (by decide) ?_
  with_reducible refine Le.next (State.modSensor_le ..) (by decide) ?_
  exact Le.refl _ _
  with_reducible refine Le.next (applyTherm_le ..) (by decide) ?_
  with_reducible refine Le.next (State.modSensor_le ..) (by decide) ?_
  exact Le.refl _ _
  with_reducible refine Le.next (State.modDeck_le ..) (by decide) ?_
  with_reducible assumption
  with_reducible refine Le.next (logStored_le ..) (by decide) ?_
  with_reducible refine Le.forEach ?_ (fun x u hu => ?_)
  with_reducible refine Le.ite (fun _ => ?_) (fun _ => ?_)
  with_reducible refine Le.next (logEvent_le ..) (by decide) ?_
  with_reducible refine Le.next (applyTherm_le ..) (by decide) ?_
  with_reducible refine Le.next (State.modSensor_le ..) (by decide) ?_
  exact Le.refl _ _
  with_reducible refine Le.next (applyTherm_le ..) (by decide) ?_
  with_reducible refine Le.next (State.modSensor_le ..) (by decide) ?_
  exact Le.refl _ _
  with_reducible refine Le.next (State.modDeck_le ..) (by decide) ?_
  with_reducible assumption
  with_reducible refine Le.ite (fun _ => ?_) (fun _ => ?_)
  with_reducible refine Le.next (logEvent_le ..) (by decide) ?_
  with_reducible refine Le.next (applyTherm_le ..) (by decide) ?_
  with_reducible refine Le.next (State.modSensor_le ..) (by decide) ?_
  exact Le.refl _ _
  with_reducible refine Le.next (applyTherm_le ..) (by decide) ?_
  with_reducible refine Le.next (State.modSensor_le ..) (by decide) ?_
  exact Le.refl _ _

theorem applyFreezes_le (b : Nat) (s : State) : Le 756847416 s (applyFreezes b s) := by
  unfold applyFreezes
  dsimp only
  with_reducible refine Le.forEach ?_ (fun x u hu => ?_)
  with_reducible refine Le.forEach ?_ (fun x u hu => ?_)
  with_reducible refine Le.next (State.modCtrs_le ..) (by decide) ?_
  exact Le.refl _ _
  with_reducible refine Le.next (applyFreeze_le ..) (by decide) ?_
  with_reducible assumption
  with_reducible refine Le.next (applyFreeze_le ..) (by decide) ?_
  with_reducible assumption

theorem groupHalt_le (halt : Bool) (s : State) : Le 756863801 s (groupHalt halt s) := by
  unfold groupHalt
  with_reducible refine Le.forEach ?_ (fun x u hu => ?_)
  with_reducible refine Le.next (State.modJob_le ..) (by decide) ?_
  exact Le.refl _ _
  with_reducible refine Le.ite (fun _ => ?_) (fun _ => ?_)
  with_reducible refine Le.next (enterDebug_le ..) (by decide) ?_
  with_reducible assumption
  with_reducible refine Le.next (resumeRequest_le ..) (by decide) ?_
  with_reducible assumption

theorem doTickLost_le (s : State) : Le 755815225 s (doTickLost s) := by
  unfold doTickLost
  with_reducible refine Le.ite (fun _ => ?_) (fun _ => ?_)
  with_reducible refine Le.next (leaveFailed_le ..) (by decide) ?_
  exact Le.refl _ _
  exact Le.refl _ _

theorem cohWrite_le (s : State) (addr : Nat) (bytes : List Byte) : Le 755794936 s (cohWrite s addr bytes).1 := by
  unfold cohWrite
  with_reducible refine Le.foldlP (fun w : State × _ => w.1) ?_ (fun u x hu => ?_)
  exact Le.refl _ _
  dsimp only
  with_reducible refine Le.iteP (fun w : State × _ => w.1) (fun _ => ?_) (fun _ => ?_)
  dsimp only
  with_reducible refine Le.next (arbReq_le ..) (by decide) ?_
  with_reducible assumption
  dsimp only
  with_reducible refine Le.next (lineStore_le ..) (by decide) ?_
  with_reducible refine Le.next (countTileReq_le ..) (by decide) ?_
  with_reducible refine Le.next (cohPurge_le ..) (by decide) ?_
  with_reducible assumption

theorem takeInvAck_le (s : State) (cl : Nat) (line : Nat) : Le 755794872 s (takeInvAck s cl line) := by
  unfold takeInvAck
  dsimp only
  split
  exact Le.refl _ _
  with_reducible refine Le.ite (fun _ => ?_) (fun _ => ?_)
  with_reducible refine Le.next (tryClose_le ..) (by decide) ?_
  with_reducible refine Le.ite (fun _ => ?_) (fun _ => ?_)
  with_reducible refine Le.next (sendData_le ..) (by decide) ?_
  with_reducible refine Le.next (modTrans_le ..) (by decide) ?_
  exact Le.refl _ _
  with_reducible refine Le.next (modTrans_le ..) (by decide) ?_
  exact Le.refl _ _
  exact Le.refl _ _

theorem Work.backStages_le (w : Work) (c : ChainCfg) (e : Elem) (j : Nat) (inSeg : Bool) : Le 757891897 w.s (Work.backStages w c e j inSeg).s := by
  unfold Work.backStages
  dsimp only
  with_reducible refine Le.next (Work.backResult_le ..) (by decide) ?_
  with_reducible refine Le.next (Work.pickRow_le ..) (by decide) ?_
  with_reducible refine Le.next (Work.satSeen_le ..) (by decide) ?_
  with_reducible refine Le.next (Work.flag_le ..) (by decide) ?_
  with_reducible refine Le.next (Work.backExpand_le ..) (by decide) ?_
  with_reducible refine Le.iteP (fun w : Work => w.s) (fun _ => ?_) (fun _ => ?_)
  exact Le.refl _ _
  with_reducible refine Le.next (Work.reduce_le ..) (by decide) ?_
  exact Le.refl _ _

theorem Work.emptyRows_le (w : Work) (c : ChainCfg) : Le 757891897 w.s (Work.emptyRows w c).s := by
  unfold Work.emptyRows
  dsimp only
  with_reducible refine Le.iteP (fun w : Work => w.s) (fun _ => ?_) (fun _ => ?_)
  exact Le.refl _ _
  with_reducible refine Le.foldlP (fun w : Work => w.s) ?_ (fun u x hu => ?_)
  exact Le.refl _ _
  with_reducible refine Le.iteP (fun w : Work => w.s) (fun _ => ?_) (fun _ => ?_)
  with_reducible assumption
  with_reducible refine Le.next (Work.rowEnd_le ..) (by decide) ?_
  with_reducible refine Le.iteP (fun w : Work => w.s) (fun _ => ?_) (fun _ => ?_)
  with_reducible refine Le.next (Work.softStart_le ..) (by decide) ?_
  with_reducible assumption
  with_reducible assumption

theorem sendTagged_le (s : State) (log : Nat) (p : Pkt) (kind : RemKind) (addr : Nat) (len : Nat) : Le 755799032 s (sendTagged s log p kind addr len).1 := by
  unfold sendTagged
  dsimp only
  split
  dsimp only
  with_reducible refine Le.next (noteRefusal_le ..) (by decide) ?_
  with_reducible refine Le.next (lookupNode_le ..) (by decide) ?_
  exact Le.refl _ _
  with_reducible refine Le.iteP (fun w : State × _ => w.1) (fun _ => ?_) (fun _ => ?_)
  dsimp only
  with_reducible refine Le.next (noteRefusal_le ..) (by decide) ?_
  with_reducible refine Le.next (lookupNode_le ..) (by decide) ?_
  exact Le.refl _ _
  with_reducible refine Le.iteP (fun w : State × _ => w.1) (fun _ => ?_) (fun _ => ?_)
  dsimp only
  with_reducible refine Le.next (noteRefusal_le ..) (by decide) ?_
  with_reducible refine Le.next (lookupNode_le ..) (by decide) ?_
  exact Le.refl _ _
  split
  dsimp only
  with_reducible refine Le.next (State.modNode_le _ _ ?_) (by decide) ?_
  with_reducible exact fun h => h
  with_reducible refine Le.next (tripToPort_le ..) (by decide) ?_
  with_reducible refine Le.next (sendPkt_le ..) (by decide) ?_
  with_reducible refine Le.next (lookupNode_le ..) (by decide) ?_
  exact Le.refl _ _
  dsimp only
  with_reducible refine Le.next (noteRefusal_le ..) (by decide) ?_
  with_reducible refine Le.next (sendPkt_le ..) (by decide) ?_
  with_reducible refine Le.next (lookupNode_le ..) (by decide) ?_
  exact Le.refl _ _

theorem doGets_le (cl : Nat) (line : Nat) (s : State) : Le 755794872 s (doGets cl line s) := by
  unfold doGets
  with_reducible refine Le.ite (fun _ => ?_) (fun _ => ?_)
  with_reducible refine Le.next (arbReq_le ..) (by decide) ?_
  exact Le.refl _ _
  exact Le.refl _ _

theorem doGetm_le (cl : Nat) (line : Nat) (s : State) : Le 755794936 s (doGetm cl line s) := by
  unfold doGetm
  with_reducible refine Le.ite (fun _ => ?_) (fun _ => ?_)
  exact Le.refl _ _
  with_reducible refine Le.ite (fun _ => ?_) (fun _ => ?_)
  with_reducible refine Le.next (State.modCluster_le ..) (by decide) ?_
  exact Le.refl _ _
  with_reducible refine Le.next (arbReq_le ..) (by decide) ?_
  exact Le.refl _ _

theorem doTread_le (id : Nat) (line : Nat) (s : State) : Le 755794872 s (doTread id line s) := by
  unfold doTread
  with_reducible refine Le.next (arbReq_le ..) (by decide) ?_
  exact Le.refl _ _

theorem doTwrite_le (id : Nat) (line : Nat) (mask : BitVec 64) (val : BitVec 512) (s : State) : Le 755794872 s (doTwrite id line mask val s) := by
  unfold doTwrite
  with_reducible refine Le.next (arbReq_le ..) (by decide) ?_
  exact Le.refl _ _

theorem doTop_le (id : Nat) (addr : Nat) (addop : BitVec 8) (opnd : BitVec 128) (cmp : BitVec 128) (s : State) : Le 755794872 s (doTop id addr addop opnd cmp s) := by
  unfold doTop
  with_reducible refine Le.ite (fun _ => ?_) (fun _ => ?_)
  exact Le.refl _ _
  with_reducible refine Le.next (arbReq_le ..) (by decide) ?_
  exact Le.refl _ _

theorem doWback_le (cl : Nat) (line : Nat) (s : State) : Le 755794936 s (doWback cl line s) := by
  unfold doWback
  dsimp only
  with_reducible refine Le.ite (fun _ => ?_) (fun _ => ?_)
  with_reducible refine Le.next (arbReq_le ..) (by decide) ?_
  with_reducible refine Le.next (State.modCluster_le ..) (by decide) ?_
  exact Le.refl _ _
  with_reducible refine Le.next (State.modCluster_le ..) (by decide) ?_
  exact Le.refl _ _

theorem collTurn_le {s t : State} (h : collTurn s = some t) : Le 755815225 s t := by
  unfold collTurn at h
  dsimp only at h
  split at h
  · cases h
    exact Le.next (sendStep_le ..) (by decide) (Le.refl _ _)
  · simp only [Option.map_eq_some_iff] at h
    obtain ⟨e, _, rfl⟩ := h
    exact Le.next (takePkt_le ..) (by decide) (Le.next (State.modJob_le ..) (by decide) (Le.refl _ _))

theorem finishMove_le (s : State) (t : Nat) : Le 758960953 s (finishMove s t) := by
  unfold finishMove
  dsimp only
  split
  with_reducible refine Le.next (haltTile_le ..) (by decide) ?_
  with_reducible refine Le.next (State.modTile_le ..) (by decide) ?_
  with_reducible refine Le.next (State.modWear_le ..) (by decide) ?_
  with_reducible refine Le.next (moveSite_le ..) (by decide) ?_
  exact Le.refl _ _
  with_reducible refine Le.next (enterDebug_le ..) (by decide) ?_
  with_reducible refine Le.next (State.modTile_le ..) (by decide) ?_
  with_reducible refine Le.next (State.modWear_le ..) (by decide) ?_
  with_reducible refine Le.next (moveSite_le ..) (by decide) ?_
  exact Le.refl _ _
  with_reducible refine Le.next (State.modTile_le ..) (by decide) ?_
  with_reducible refine Le.next (State.modWear_le ..) (by decide) ?_
  with_reducible refine Le.next (moveSite_le ..) (by decide) ?_
  exact Le.refl _ _

theorem regAccess_le (s : State) (t : Nat) (k : AccKind) (addr : Nat) (off : Nat) (x : Nat) (v : W32) : Le 790401849 s (regAccess s t k addr off x v).st := by
  unfold regAccess
  dsimp only
  split
  exact Le.refl _ _
  dsimp only
  with_reducible refine Le.next (tileReadEffect_le ..) (by decide) ?_
  exact Le.refl _ _
  dsimp only
  with_reducible refine Le.next (State.modCore_le ..) (by decide) ?_
  with_reducible refine Le.next (tileReadEffect_le ..) (by decide) ?_
  exact Le.refl _ _
  dsimp only
  with_reducible refine Le.next (tileWrite_le ..) (by decide) ?_
  exact Le.refl _ _
  with_reducible refine Le.iteP (fun w : Acc => w.st) (fun _ => ?_) (fun _ => ?_)
  dsimp only
  with_reducible refine Le.next (State.modCore_le ..) (by decide) ?_
  with_reducible refine Le.next (tileWrite_le ..) (by decide) ?_
  exact Le.refl _ _
  dsimp only
  with_reducible refine Le.next (State.modCore_le ..) (by decide) ?_
  exact Le.refl _ _
  dsimp only
  with_reducible refine Le.next (tileWrite_le ..) (by decide) ?_
  with_reducible refine Le.next (tileReadEffect_le ..) (by decide) ?_
  exact Le.refl _ _

theorem loadLease_le (s : State) (t : Nat) (tag : Nat) (va : Nat) : Le 755794941 s (loadLease s t tag va).1 := by
  unfold loadLease
  dsimp only
  split
  exact Le.refl _ _
  with_reducible refine Le.iteP (fun w : State × _ => w.1) (fun _ => ?_) (fun _ => ?_)
  dsimp only
  with_reducible refine Le.next (bump_le ..) (by decide) ?_
  exact Le.refl _ _
  split
  dsimp only
  split
  dsimp only
  with_reducible refine Le.next (touchExtent_le ..) (by decide) ?_
  with_reducible refine Le.next (bump_le ..) (by decide) ?_
  with_reducible refine Le.next (bump_le ..) (by decide) ?_
  exact Le.refl _ _
  split
  dsimp only
  with_reducible refine Le.next (walk_le ..) (by decide) ?_
  with_reducible refine Le.next (bump_le ..) (by decide) ?_
  with_reducible refine Le.next (bump_le ..) (by decide) ?_
  with_reducible refine Le.next (bump_le ..) (by decide) ?_
  exact Le.refl _ _
  dsimp only
  with_reducible refine Le.next (putExtent_le ..) (by decide) ?_
  with_reducible refine Le.next (walk_le ..) (by decide) ?_
  with_reducible refine Le.next (bump_le ..) (by decide) ?_
  with_reducible refine Le.next (bump_le ..) (by decide) ?_
  with_reducible refine Le.next (bump_le ..) (by decide) ?_
  exact Le.refl _ _
  split
  dsimp only
  split
  dsimp only
  with_reducible refine Le.next (touchExtent_le ..) (by decide) ?_
  with_reducible refine Le.next (bump_le ..) (by decide) ?_
  with_reducible refine Le.next (bump_le ..) (by decide) ?_
  exact Le.refl _ _
  split
  dsimp only
  with_reducible refine Le.next (walk_le ..) (by decide) ?_
  with_reducible refine Le.next (bump_le ..) (by decide) ?_
  with_reducible refine Le.next (bump_le ..) (by decide) ?_
  with_reducible refine Le.next (bump_le ..) (by decide) ?_
  exact Le.refl _ _
  dsimp only
  with_reducible refine Le.next (putExtent_le ..) (by decide) ?_
  with_reducible refine Le.next (walk_le ..) (by decide) ?_
  with_reducible refine Le.next (bump_le ..) (by decide) ?_
  with_reducible refine Le.next (bump_le ..) (by decide) ?_
  with_reducible refine Le.next (bump_le ..) (by decide) ?_
  exact Le.refl _ _
  dsimp only
  with_reducible refine Le.next (State.modTile_le ..) (by decide) ?_
  with_reducible refine Le.next (bump_le ..) (by decide) ?_
  split
  dsimp only
  with_reducible refine Le.next (touchExtent_le ..) (by decide) ?_
  with_reducible refine Le.next (bump_le ..) (by decide) ?_
  with_reducible refine Le.next (bump_le ..) (by decide) ?_
  exact Le.refl _ _
  split
  dsimp only
  with_reducible refine Le.next (walk_le ..) (by decide) ?_
  with_reducible refine Le.next (bump_le ..) (by decide) ?_
  with_reducible refine Le.next (bump_le ..) (by decide) ?_
  with_reducible refine Le.next (bump_le ..) (by decide) ?_
  exact Le.refl _ _
  dsimp only
  with_reducible refine Le.next (putExtent_le ..) (by decide) ?_
  with_reducible refine Le.next (walk_le ..) (by decide) ?_
  with_reducible refine Le.next (bump_le ..) (by decide) ?_
  with_reducible refine Le.next (bump_le ..) (by decide) ?_
  with_reducible refine Le.next (bump_le ..) (by decide) ?_
  exact Le.refl _ _

theorem stepHalt_le (s : State) (t : Nat) : Le 756863801 s (stepHalt s t) := by
  unfold stepHalt
  with_reducible refine Le.ite (fun _ => ?_) (fun _ => ?_)
  with_reducible refine Le.next (haltTile_le ..) (by decide) ?_
  exact Le.refl _ _
  exact Le.refl _ _

theorem applyReq_le (s : State) (p : Pkt) : Le 755794936 s (applyReq s p).1 := by
  unfold applyReq
  dsimp only
  split
  dsimp only
  with_reducible refine Le.iteP (fun w : State × _ => w.1) (fun _ => ?_) (fun _ => ?_)
  with_reducible refine Le.next (cohRead_le ..) (by decide) ?_
  exact Le.refl _ _
  with_reducible refine Le.next (readPool_le ..) (by decide) ?_
  exact Le.refl _ _
  dsimp only
  with_reducible refine Le.iteP (fun w : State × _ => w.1) (fun _ => ?_) (fun _ => ?_)
  with_reducible refine Le.next (cohWrite_le ..) (by decide) ?_
  exact Le.refl _ _
  with_reducible refine Le.next (writePool_le ..) (by decide) ?_
  exact Le.refl _ _
  with_reducible refine Le.next (atomicElems_le ..) (by decide) ?_
  exact Le.refl _ _

theorem writeBuffer_le (s : State) (c : Nat) (rptr : Nat) (d : List Byte) : Le 755794936 s (writeBuffer s c rptr d) := by
  unfold writeBuffer
  split
  with_reducible refine Le.next (cohWrite_le ..) (by decide) ?_
  exact Le.refl _ _
  with_reducible refine Le.next (State.send_le ..) (by decide) ?_
  exact Le.refl _ _
  with_reducible refine Le.next (State.modBelul_le ..) (by decide) ?_
  exact Le.refl _ _

theorem leaveArb_le (c : Nat) (a : Nat) (s : State) : Le 755794872 s (leaveArb c a s) := by
  unfold leaveArb
  dsimp only
  with_reducible refine Le.next (serveArb_le ..) (by decide) ?_
  with_reducible refine Le.forEach ?_ (fun x u hu => ?_)
  with_reducible refine Le.next (State.modArb_le ..) (by decide) ?_
  exact Le.refl _ _
  with_reducible refine Le.next (tryClose_le ..) (by decide) ?_
  with_reducible refine Le.next (takeInvAck_le ..) (by decide) ?_
  with_reducible assumption

theorem Work.elem_le (w0 : Work) (c : ChainCfg) : Le 757891897 w0.s (Work.elem w0 c).s := by
  unfold Work.elem
  dsimp only
  with_reducible refine Le.iteP (fun w : Work => w.s) (fun _ => ?_) (fun _ => ?_)
  with_reducible refine Le.next (Work.elemStart_le ..) (by decide) ?_
  exact Le.refl _ _
  with_reducible refine Le.iteP (fun w : Work => w.s) (fun _ => ?_) (fun _ => ?_)
  dsimp only
  with_reducible refine Le.next (Work.maskBit_le ..) (by decide) ?_
  with_reducible refine Le.next (Work.secondIn_le ..) (by decide) ?_
  with_reducible refine Le.next (Work.elemIn_le ..) (by decide) ?_
  with_reducible refine Le.next (Work.elemStart_le ..) (by decide) ?_
  exact Le.refl _ _
  with_reducible refine Le.iteP (fun w : Work => w.s) (fun _ => ?_) (fun _ => ?_)
  dsimp only
  with_reducible refine Le.next (Work.backStages_le ..) (by decide) ?_
  dsimp only
  with_reducible refine Le.next (Work.satSeen_le ..) (by decide) ?_
  with_reducible refine Le.next (Work.flag_le ..) (by decide) ?_
  with_reducible refine Le.next (Work.maskBit_le ..) (by decide) ?_
  with_reducible refine Le.next (Work.secondIn_le ..) (by decide) ?_
  with_reducible refine Le.next (Work.elemIn_le ..) (by decide) ?_
  with_reducible refine Le.next (Work.elemStart_le ..) (by decide) ?_
  exact Le.refl _ _
  dsimp only
  with_reducible refine Le.iteP (fun w : Work => w.s) (fun _ => ?_) (fun _ => ?_)
  with_reducible refine Le.next (Work.extentEnd_le ..) (by decide) ?_
  with_reducible refine Le.iteP (fun w : Work => w.s) (fun _ => ?_) (fun _ => ?_)
  with_reducible refine Le.next (Work.rowEnd_le ..) (by decide) ?_
  with_reducible refine Le.next (Work.crcElem_le ..) (by decide) ?_
  with_reducible refine Le.next (Work.backStages_le ..) (by decide) ?_
  dsimp only
  with_reducible refine Le.next (Work.satSeen_le ..) (by decide) ?_
  with_reducible refine Le.next (Work.flag_le ..) (by decide) ?_
  with_reducible refine Le.next (Work.maskBit_le ..) (by decide) ?_
  with_reducible refine Le.next (Work.secondIn_le ..) (by decide) ?_
  with_reducible refine Le.next (Work.elemIn_le ..) (by decide) ?_
  with_reducible refine Le.next (Work.elemStart_le ..) (by decide) ?_
  exact Le.refl _ _
  with_reducible refine Le.next (Work.crcElem_le ..) (by decide) ?_
  with_reducible refine Le.next (Work.backStages_le ..) (by decide) ?_
  dsimp only
  with_reducible refine Le.next (Work.satSeen_le ..) (by decide) ?_
  with_reducible refine Le.next (Work.flag_le ..) (by decide) ?_
  with_reducible refine Le.next (Work.maskBit_le ..) (by decide) ?_
  with_reducible refine Le.next (Work.secondIn_le ..) (by decide) ?_
  with_reducible refine Le.next (Work.elemIn_le ..) (by decide) ?_
  with_reducible refine Le.next (Work.elemStart_le ..) (by decide) ?_
  exact Le.refl _ _
  with_reducible refine Le.iteP (fun w : Work => w.s) (fun _ => ?_) (fun _ => ?_)
  with_reducible refine Le.next (Work.rowEnd_le ..) (by decide) ?_
  with_reducible refine Le.next (Work.crcElem_le ..) (by decide) ?_
  with_reducible refine Le.next (Work.backStages_le ..) (by decide) ?_
  dsimp only
  with_reducible refine Le.next (Work.satSeen_le ..) (by decide) ?_
  with_reducible refine Le.next (Work.flag_le ..) (by decide) ?_
  with_reducible refine Le.next (Work.maskBit_le ..) (by decide) ?_
  with_reducible refine Le.next (Work.secondIn_le ..) (by decide) ?_
  with_reducible refine Le.next (Work.elemIn_le ..) (by decide) ?_
  with_reducible refine Le.next (Work.elemStart_le ..) (by decide) ?_
  exact Le.refl _ _
  with_reducible refine Le.next (Work.crcElem_le ..) (by decide) ?_
  with_reducible refine Le.next (Work.backStages_le ..) (by decide) ?_
  dsimp only
  with_reducible refine Le.next (Work.satSeen_le ..) (by decide) ?_
  with_reducible refine Le.next (Work.flag_le ..) (by decide) ?_
  with_reducible refine Le.next (Work.maskBit_le ..) (by decide) ?_
  with_reducible refine Le.next (Work.secondIn_le ..) (by decide) ?_
  with_reducible refine Le.next (Work.elemIn_le ..) (by decide) ?_
  with_reducible refine Le.next (Work.elemStart_le ..) (by decide) ?_
  exact Le.refl _ _

theorem Work.finish_le (w : Work) (c : ChainCfg) : Le 757891897 w.s (Work.finish w c).s := by
  unfold Work.finish
  dsimp only
  with_reducible refine Le.iteP (fun w : Work => w.s) (fun _ => ?_) (fun _ => ?_)
  with_reducible refine Le.next (Work.lastResults_le ..) (by decide) ?_
  with_reducible refine Le.next (Work.flushOut_le ..) (by decide) ?_
  with_reducible refine Le.next (Work.emptyRows_le ..) (by decide) ?_
  exact Le.refl _ _
  with_reducible refine Le.iteP (fun w : Work => w.s) (fun _ => ?_) (fun _ => ?_)
  with_reducible refine Le.next (Work.put_le ..) (by decide) ?_
  with_reducible refine Le.iteP (fun w : Work => w.s) (fun _ => ?_) (fun _ => ?_)
  with_reducible refine Le.next (Work.put_le ..) (by decide) ?_
  with_reducible refine Le.iteP (fun w : Work => w.s) (fun _ => ?_) (fun _ => ?_)
  with_reducible refine Le.next (Work.put_le ..) (by decide) ?_
  with_reducible refine Le.next (Work.lastResults_le ..) (by decide) ?_
  with_reducible refine Le.next (Work.flushOut_le ..) (by decide) ?_
  with_reducible refine Le.next (Work.emptyRows_le ..) (by decide) ?_
  exact Le.refl _ _
  with_reducible refine Le.next (Work.lastResults_le ..) (by decide) ?_
  with_reducible refine Le.next (Work.flushOut_le ..) (by decide) ?_
  with_reducible refine Le.next (Work.emptyRows_le ..) (by decide) ?_
  exact Le.refl _ _
  with_reducible refine Le.iteP (fun w : Work => w.s) (fun _ => ?_) (fun _ => ?_)
  with_reducible refine Le.next (Work.put_le ..) (by decide) ?_
  with_reducible refine Le.next (Work.lastResults_le ..) (by decide) ?_
  with_reducible refine Le.next (Work.flushOut_le ..) (by decide) ?_
  with_reducible refine Le.next (Work.emptyRows_le ..) (by decide) ?_
  exact Le.refl _ _
  with_reducible refine Le.next (Work.lastResults_le ..) (by decide) ?_
  with_reducible refine Le.next (Work.flushOut_le ..) (by decide) ?_
  with_reducible refine Le.next (Work.emptyRows_le ..) (by decide) ?_
  exact Le.refl _ _
  with_reducible refine Le.iteP (fun w : Work => w.s) (fun _ => ?_) (fun _ => ?_)
  with_reducible refine Le.next (Work.put_le ..) (by decide) ?_
  with_reducible refine Le.iteP (fun w : Work => w.s) (fun _ => ?_) (fun _ => ?_)
  with_reducible refine Le.next (Work.put_le ..) (by decide) ?_
  with_reducible refine Le.next (Work.lastResults_le ..) (by decide) ?_
  with_reducible refine Le.next (Work.flushOut_le ..) (by decide) ?_
  with_reducible refine Le.next (Work.emptyRows_le ..) (by decide) ?_
  exact Le.refl _ _
  with_reducible refine Le.next (Work.lastResults_le ..) (by decide) ?_
  with_reducible refine Le.next (Work.flushOut_le ..) (by decide) ?_
  with_reducible refine Le.next (Work.emptyRows_le ..) (by decide) ?_
  exact Le.refl _ _
  with_reducible refine Le.iteP (fun w : Work => w.s) (fun _ => ?_) (fun _ => ?_)
  with_reducible refine Le.next (Work.put_le ..) (by decide) ?_
  with_reducible refine Le.next (Work.lastResults_le ..) (by decide) ?_
  with_reducible refine Le.next (Work.flushOut_le ..) (by decide) ?_
  with_reducible refine Le.next (Work.emptyRows_le ..) (by decide) ?_
  exact Le.refl _ _
  with_reducible refine Le.next (Work.lastResults_le ..) (by decide) ?_
  with_reducible refine Le.next (Work.flushOut_le ..) (by decide) ?_
  with_reducible refine Le.next (Work.emptyRows_le ..) (by decide) ?_
  exact Le.refl _ _

theorem pumpColl_le (a0 : Nat) (a1 : State) : Le 755815225 a1 (pumpColl a0 a1) := by
  induction a0 generalizing a1 with
  | zero => exact Le.refl _ _
  | succ n ih =>
    unfold pumpColl
    dsimp only
    split
    with_reducible refine Le.next (State.modJob_le ..) (by decide) ?_
    exact Le.refl _ _
    with_reducible refine Le.next (ih ..) (by decide) ?_
    with_reducible refine Le.next (collTurn_le (by assumption)) (by decide) ?_
    with_reducible refine Le.next (State.modJob_le ..) (by decide) ?_
    exact Le.refl _ _

theorem postFault_le (s : State) (t : Nat) (q : Nat) (f : StreamFault) : Le 755794940 s (postFault s t q f) := by
  unfold postFault
  dsimp only
  with_reducible refine Le.ite (fun _ => ?_) (fun _ => ?_)
  with_reducible refine Le.next (raiseHost_le ..) (by decide) ?_
  with_reducible refine Le.next (State.modKs_le _ _ ?_) (by decide) ?_
  with_reducible exact fun h => h
  with_reducible refine Le.next (cohWrite_le ..) (by decide) ?_
  exact Le.refl _ _
  with_reducible refine Le.next (State.modKs_le _ _ ?_) (by decide) ?_
  with_reducible exact fun h => h
  with_reducible refine Le.next (cohWrite_le ..) (by decide) ?_
  exact Le.refl _ _

theorem coreAccess_le (s : State) (t : Nat) (k : AccKind) (n : Nat) (addr : Nat) (v : W32) : Le 792499001 s (coreAccess s t k n addr v).st := by
  unfold coreAccess
  with_reducible refine Le.iteP (fun w : Acc => w.st) (fun _ => ?_) (fun _ => ?_)
  dsimp only
  with_reducible refine Le.iteP (fun w : Acc => w.st) (fun _ => ?_) (fun _ => ?_)
  exact Le.refl _ _
  with_reducible refine Le.iteP (fun w : Acc => w.st) (fun _ => ?_) (fun _ => ?_)
  exact Le.refl _ _
  split
  exact Le.refl _ _
  with_reducible refine Le.next (regAccess_le ..) (by decide) ?_
  exact Le.refl _ _
  with_reducible refine Le.iteP (fun w : Acc => w.st) (fun _ => ?_) (fun _ => ?_)
  exact Le.refl _ _
  with_reducible refine Le.iteP (fun w : Acc => w.st) (fun _ => ?_) (fun _ => ?_)
  exact Le.refl _ _
  with_reducible refine Le.next (storeAccess_le ..) (by decide) ?_
  exact Le.refl _ _

theorem sendFar_le (s : State) (node : Nat) (f : Flight) : Le 756847611 s (sendFar s node f) := by
  unfold sendFar
  dsimp only
  split
  with_reducible refine Le.next (refusalBack_le ..) (by decide) ?_
  with_reducible refine Le.next (sendTagged_le ..) (by decide) ?_
  exact Le.refl _ _
  with_reducible refine Le.next (sendTagged_le ..) (by decide) ?_
  exact Le.refl _ _

theorem retire_le (s : State) (t : Nat) (len : Nat) (counts : Bool) : Le 756863801 s (retire s t len counts) := by
  unfold retire
  dsimp only
  with_reducible refine Le.next (stepHalt_le ..) (by decide) ?_
  with_reducible refine Le.next (eventCycles_le ..) (by decide) ?_
  with_reducible refine Le.next (tileCycles_le ..) (by decide) ?_
  with_reducible refine Le.next (tileEvent_le ..) (by decide) ?_
  with_reducible refine Le.next (State.modCore_le ..) (by decide) ?_
  exact Le.refl _ _

theorem syncExc_le (s : State) (t : Nat) (cause : Nat) (mtval : Nat) : Le 756863801 s (syncExc s t cause mtval) := by
  unfold syncExc
  with_reducible refine Le.ite (fun _ => ?_) (fun _ => ?_)
  with_reducible refine Le.next (startDrain_le ..) (by decide) ?_
  exact Le.refl _ _
  with_reducible refine Le.next (stepHalt_le ..) (by decide) ?_
  with_reducible refine Le.next (State.modCore_le ..) (by decide) ?_
  exact Le.refl _ _

theorem serveReq_le (p : Pkt) (s : State) : Le 755799032 s (serveReq p s) := by
  unfold serveReq
  dsimp only
  split
  with_reducible refine Le.next (nackPkt_le ..) (by decide) ?_
  exact Le.refl _ _
  with_reducible refine Le.ite (fun _ => ?_) (fun _ => ?_)
  with_reducible refine Le.next (State.modNode_le _ _ ?_) (by decide) ?_
  with_reducible exact fun h => h
  exact Le.refl _ _
  with_reducible refine Le.next (answerReq_le ..) (by decide) ?_
  with_reducible refine Le.next (applyReq_le ..) (by decide) ?_
  with_reducible refine Le.next (requestTrip_le ..) (by decide) ?_
  exact Le.refl _ _

theorem replyFinal_le (s : State) (c : Nat) (n : Nat) (p : Picked) (status : Nat) (d : List (Nat × Nat)) : Le 755794936 s (replyFinal s c n p status d) := by
  unfold replyFinal
  dsimp only
  with_reducible refine Le.ite (fun _ => ?_) (fun _ => ?_)
  with_reducible refine Le.next (replyIrq_le ..) (by decide) ?_
  with_reducible refine Le.next (State.modSlot_le ..) (by decide) ?_
  with_reducible refine Le.next (putReply_le ..) (by decide) ?_
  with_reducible refine Le.ite (fun _ => ?_) (fun _ => ?_)
  with_reducible refine Le.next (writeBuffer_le ..) (by decide) ?_
  exact Le.refl _ _
  exact Le.refl _ _
  with_reducible refine Le.next (State.modSlot_le ..) (by decide) ?_
  with_reducible refine Le.next (putReply_le ..) (by decide) ?_
  with_reducible refine Le.ite (fun _ => ?_) (fun _ => ?_)
  with_reducible refine Le.next (writeBuffer_le ..) (by decide) ?_
  exact Le.refl _ _
  exact Le.refl _ _

theorem finishOp_le (s : State) (h : Nat) (status : Nat) (d : List (Nat × Nat)) : Le 755794936 s (finishOp s h status d) := by
  unfold finishOp
  dsimp only
  split
  exact Le.refl _ _
  split
  with_reducible refine Le.next (State.modBelul_le ..) (by decide) ?_
  exact Le.refl _ _
  with_reducible refine Le.ite (fun _ => ?_) (fun _ => ?_)
  with_reducible refine Le.next (replyIrq_le ..) (by decide) ?_
  with_reducible refine Le.next (State.modSlot_le ..) (by decide) ?_
  with_reducible refine Le.next (putReply_le ..) (by decide) ?_
  with_reducible refine Le.ite (fun _ => ?_) (fun _ => ?_)
  with_reducible refine Le.next (writeBuffer_le ..) (by decide) ?_
  with_reducible refine Le.next (State.modBelul_le ..) (by decide) ?_
  exact Le.refl _ _
  with_reducible refine Le.next (State.modBelul_le ..) (by decide) ?_
  exact Le.refl _ _
  with_reducible refine Le.next (State.modSlot_le ..) (by decide) ?_
  with_reducible refine Le.next (putReply_le ..) (by decide) ?_
  with_reducible refine Le.ite (fun _ => ?_) (fun _ => ?_)
  with_reducible refine Le.next (writeBuffer_le ..) (by decide) ?_
  with_reducible refine Le.next (State.modBelul_le ..) (by decide) ?_
  exact Le.refl _ _
  with_reducible refine Le.next (State.modBelul_le ..) (by decide) ?_
  exact Le.refl _ _

theorem loseCluster_le (c : Nat) (s : State) : Le 755794936 s (loseCluster c s) := by
  unfold loseCluster
  dsimp only
  with_reducible refine Le.forEach ?_ (fun x u hu => ?_)
  with_reducible refine Le.next (Le.clusters ..) (by decide) ?_
  exact Le.refl _ _
  with_reducible refine Le.next (leaveArb_le ..) (by decide) ?_
  with_reducible refine Le.next (State.modArb_le ..) (by decide) ?_
  with_reducible assumption

theorem Work.elems_le (w : Work) (c : ChainCfg) (n : Nat) : Le 757891897 w.s (Work.elems w c n).s := by
  unfold Work.elems
  with_reducible refine Le.foldlP (fun w : Work => w.s) ?_ (fun u x hu => ?_)
  exact Le.refl _ _
  with_reducible refine Le.iteP (fun w : Work => w.s) (fun _ => ?_) (fun _ => ?_)
  with_reducible assumption
  with_reducible refine Le.next (Work.elem_le ..) (by decide) ?_
  with_reducible assumption

theorem sendRemote_le (s : State) (pa : Nat) (typ : Nat) (len : Nat) (addop : BitVec 8) (payload : List Byte) (kind : RemKind) : Le 755799032 s (sendRemote s pa typ len addop payload kind).1 := by
  unfold sendRemote
  dsimp only
  with_reducible refine Le.iteP (fun w : State × _ => w.1) (fun _ => ?_) (fun _ => ?_)
  dsimp only
  with_reducible refine Le.next (noteRefusal_le ..) (by decide) ?_
  exact Le.refl _ _
  with_reducible refine Le.iteP (fun w : State × _ => w.1) (fun _ => ?_) (fun _ => ?_)
  split
  dsimp only
  with_reducible refine Le.next (noteRefusal_le ..) (by decide) ?_
  exact Le.refl _ _
  dsimp only
  with_reducible refine Le.next (applyReq_le ..) (by decide) ?_
  exact Le.refl _ _
  with_reducible refine Le.next (sendTagged_le ..) (by decide) ?_
  exact Le.refl _ _

theorem doCollData_le (port : Nat) (p : Pkt) (s : State) : Le 755815225 s (doCollData port p s) := by
  unfold doCollData
  with_reducible refine Le.ite (fun _ => ?_) (fun _ => ?_)
  exact Le.refl _ _
  dsimp only
  with_reducible refine Le.ite (fun _ => ?_) (fun _ => ?_)
  with_reducible refine Le.next (noteRefusal_le ..) (by decide) ?_
  with_reducible refine Le.next (countRx_le ..) (by decide) ?_
  exact Le.refl _ _
  with_reducible refine Le.ite (fun _ => ?_) (fun _ => ?_)
  with_reducible refine Le.next (countRx_le ..) (by decide) ?_
  exact Le.refl _ _
  split
  with_reducible refine Le.next (leaveFailed_le ..) (by decide) ?_
  with_reducible refine Le.next (countRx_le ..) (by decide) ?_
  exact Le.refl _ _
  with_reducible refine Le.ite (fun _ => ?_) (fun _ => ?_)
  with_reducible refine Le.next (leaveFailed_le ..) (by decide) ?_
  with_reducible refine Le.next (countRx_le ..) (by decide) ?_
  exact Le.refl _ _
  with_reducible refine Le.next (pumpColl_le ..) (by decide) ?_
  with_reducible refine Le.next (State.modJob_le ..) (by decide) ?_
  with_reducible refine Le.next (countRx_le ..) (by decide) ?_
  exact Le.refl _ _

theorem faultStream_le (s : State) (t : Nat) (q : Nat) (code : Nat) (level : Nat) (access : Nat) (va : Nat) (entry : W64) (seq : W32) : Le 756847613 s (faultStream s t q code level access va entry seq) := by
  unfold faultStream
  dsimp only
  with_reducible refine Le.ite (fun _ => ?_) (fun _ => ?_)
  with_reducible refine Le.ite (fun _ => ?_) (fun _ => ?_)
  with_reducible refine Le.next (raiseHost_le ..) (by decide) ?_
  with_reducible refine Le.next (bump_le ..) (by decide) ?_
  with_reducible refine Le.next (State.modKs_le _ _ ?_) (by decide) ?_
  with_reducible exact fun h => h
  with_reducible refine Le.next (fireTrigger_le ..) (by decide) ?_
  with_reducible refine Le.next (traceKs_le ..) (by decide) ?_
  with_reducible refine Le.next (bump_le ..) (by decide) ?_
  with_reducible refine Le.next (bump_le ..) (by decide) ?_
  with_reducible refine Le.next (raiseSrc_le ..) (by decide) ?_
  with_reducible refine Le.next (State.modQueue_le ..) (by decide) ?_
  exact Le.refl _ _
  with_reducible refine Le.next (bump_le ..) (by decide) ?_
  with_reducible refine Le.next (State.modKs_le _ _ ?_) (by decide) ?_
  with_reducible exact fun h => h
  with_reducible refine Le.next (fireTrigger_le ..) (by decide) ?_
  with_reducible refine Le.next (traceKs_le ..) (by decide) ?_
  with_reducible refine Le.next (bump_le ..) (by decide) ?_
  with_reducible refine Le.next (bump_le ..) (by decide) ?_
  with_reducible refine Le.next (raiseSrc_le ..) (by decide) ?_
  with_reducible refine Le.next (State.modQueue_le ..) (by decide) ?_
  exact Le.refl _ _
  with_reducible refine Le.next (postFault_le ..) (by decide) ?_
  with_reducible refine Le.next (fireTrigger_le ..) (by decide) ?_
  with_reducible refine Le.next (traceKs_le ..) (by decide) ?_
  with_reducible refine Le.next (bump_le ..) (by decide) ?_
  with_reducible refine Le.next (bump_le ..) (by decide) ?_
  with_reducible refine Le.next (raiseSrc_le ..) (by decide) ?_
  with_reducible refine Le.next (State.modQueue_le ..) (by decide) ?_
  exact Le.refl _ _

theorem pbAccess_le (s : State) (t : Nat) (k : AccKind) (n : Nat) (sgn : Bool) (addr : W32) (rd : Nat) (rs : Nat) : Le 792499001 s (pbAccess s t k n sgn addr rd rs).1 := by
  unfold pbAccess
  dsimp only
  split
  dsimp only
  with_reducible refine Le.next (coreAccess_le ..) (by decide) ?_
  exact Le.refl _ _
  dsimp only
  with_reducible refine Le.next (State.modCore_le ..) (by decide) ?_
  with_reducible refine Le.next (coreAccess_le ..) (by decide) ?_
  exact Le.refl _ _

theorem postParked_le (a0 : Nat) (a1 : State) : Le 755794941 a1 (postParked a0 a1) := by
  induction a0 generalizing a1 with
  | zero => exact Le.refl _ _
  | succ n ih =>
    unfold postParked
    with_reducible refine Le.ite (fun _ => ?_) (fun _ => ?_)
    exact Le.refl _ _
    dsimp only
    split
    exact Le.refl _ _
    split
    exact Le.refl _ _
    with_reducible refine Le.next (ih ..) (by decide) ?_
    with_reducible refine Le.next (postFault_le ..) (by decide) ?_
    with_reducible refine Le.next (State.modKs_le _ _ ?_) (by decide) ?_
    with_reducible exact fun h => h
    with_reducible refine Le.next (State.modQueue_le ..) (by decide) ?_
    exact Le.refl _ _

theorem sendRecord_le (s : State) (t : Nat) (seq : W32) (f : Flight) (node : Nat) (field : Nat) : Le 756847611 s (sendRecord s t seq f node field) := by
  unfold sendRecord
  dsimp only
  split
  with_reducible refine Le.next (refusalBack_le ..) (by decide) ?_
  with_reducible refine Le.next (launchFlight_le ..) (by decide) ?_
  with_reducible refine Le.next (tileEvent_le ..) (by decide) ?_
  exact Le.refl _ _
  with_reducible refine Le.next (settle_le ..) (by decide) ?_
  with_reducible refine Le.next (State.send_le ..) (by decide) ?_
  with_reducible refine Le.next (msgPackets_le ..) (by decide) ?_
  with_reducible refine Le.next (launchFlight_le ..) (by decide) ?_
  with_reducible refine Le.next (tileEvent_le ..) (by decide) ?_
  exact Le.refl _ _
  with_reducible refine Le.ite (fun _ => ?_) (fun _ => ?_)
  with_reducible refine Le.forEach ?_ (fun x u hu => ?_)
  with_reducible refine Le.next (tileEvent_le ..) (by decide) ?_
  exact Le.refl _ _
  with_reducible refine Le.next (msgPackets_le ..) (by decide) ?_
  with_reducible refine Le.next (launchFlight_le ..) (by decide) ?_
  with_reducible assumption
  with_reducible refine Le.next (sendFar_le ..) (by decide) ?_
  with_reducible refine Le.next (launchFlight_le ..) (by decide) ?_
  with_reducible refine Le.next (tileEvent_le ..) (by decide) ?_
  exact Le.refl _ _

theorem doMsgRetry_le (id : Nat) (s : State) : Le 756847611 s (doMsgRetry id s) := by
  unfold doMsgRetry
  dsimp only
  split
  exact Le.refl _ _
  split
  with_reducible refine Le.ite (fun _ => ?_) (fun _ => ?_)
  exact Le.refl _ _
  with_reducible refine Le.ite (fun _ => ?_) (fun _ => ?_)
  with_reducible refine Le.next (settle_le ..) (by decide) ?_
  exact Le.refl _ _
  with_reducible refine Le.ite (fun _ => ?_) (fun _ => ?_)
  with_reducible refine Le.next (sendFar_le ..) (by decide) ?_
  with_reducible refine Le.next (Le.msgs ..) (by decide) ?_
  exact Le.refl _ _
  with_reducible refine Le.next (msgPackets_le ..) (by decide) ?_
  with_reducible refine Le.next (Le.msgs ..) (by decide) ?_
  exact Le.refl _ _
  exact Le.refl _ _

theorem parkCluster_le (c : Nat) (s : State) : Le 755794936 s (parkCluster c s) := by
  unfold parkCluster
  dsimp only
  with_reducible refine Le.forEach ?_ (fun x u hu => ?_)
  with_reducible refine Le.next (State.modCluster_le ..) (by decide) ?_
  with_reducible refine Le.forEach ?_ (fun x u hu => ?_)
  exact Le.refl _ _
  with_reducible refine Le.next (parkLine_le ..) (by decide) ?_
  with_reducible assumption
  with_reducible refine Le.next (leaveArb_le ..) (by decide) ?_
  with_reducible assumption

theorem doCsrAccess_le (t : Nat) (op : CsrOp) (csr : BitVec 12) (rd : Nat) (rs : Nat) (s : State) : Le 756863801 s (doCsrAccess t op csr rd rs s) := by
  unfold doCsrAccess
  with_reducible refine Le.ite (fun _ => ?_) (fun _ => ?_)
  exact Le.refl _ _
  with_reducible refine Le.ite (fun _ => ?_) (fun _ => ?_)
  with_reducible refine Le.next (syncExc_le ..) (by decide) ?_
  exact Le.refl _ _
  with_reducible refine Le.next (retire_le ..) (by decide) ?_
  with_reducible refine Le.next (csrEffect_le ..) (by decide) ?_
  exact Le.refl _ _

theorem doEcall_le (t : Nat) (s : State) : Le 756863801 s (doEcall t s) := by
  unfold doEcall
  with_reducible refine Le.ite (fun _ => ?_) (fun _ => ?_)
  with_reducible refine Le.next (syncExc_le ..) (by decide) ?_
  exact Le.refl _ _
  exact Le.refl _ _

theorem doEbreak_le (t : Nat) (s : State) : Le 756863801 s (doEbreak t s) := by
  unfold doEbreak
  with_reducible refine Le.ite (fun _ => ?_) (fun _ => ?_)
  exact Le.refl _ _
  with_reducible refine Le.ite (fun _ => ?_) (fun _ => ?_)
  with_reducible refine Le.next (haltTile_le ..) (by decide) ?_
  exact Le.refl _ _
  with_reducible refine Le.next (syncExc_le ..) (by decide) ?_
  exact Le.refl _ _

theorem doMret_le (t : Nat) (s : State) : Le 756863801 s (doMret t s) := by
  unfold doMret
  with_reducible refine Le.ite (fun _ => ?_) (fun _ => ?_)
  with_reducible refine Le.next (retire_le ..) (by decide) ?_
  with_reducible refine Le.next (mretEffect_le ..) (by decide) ?_
  exact Le.refl _ _
  exact Le.refl _ _

end Sys2Proof.Machine
end

