-- ==== Sys2Proof/Laws/Keep7.lean ====
section
/-!
SUPPORT. What each operation may change and that it keeps the invariant, part 7 of 9: a lemma cites those of the operations
that its operation calls. The mask of a lemma names the parts by their bits (`Part.code`).
-/

namespace Sys2Proof.Machine
open Sys2Proof

theorem doWfi_le (t : Nat) (s : State) : Le 756863801 s (doWfi t s) := by
  unfold doWfi
  dsimp only
  with_reducible refine Le.ite (fun _ => ?_) (fun _ => ?_)
  exact Le.refl _ _
  with_reducible refine Le.ite (fun _ => ?_) (fun _ => ?_)
  with_reducible refine Le.next (State.modCore_le ..) (by decide) ?_
  with_reducible refine Le.next (retire_le ..) (by decide) ?_
  exact Le.refl _ _
  with_reducible refine Le.next (retire_le ..) (by decide) ?_
  exact Le.refl _ _

theorem doSpindleLoadStore_le (t : Nat) (k : AccKind) (width : Nat) (sgn : Bool) (addr : W32) (rd : Nat) (rs : Nat) (ilen : Nat) (upset : Nat) (s : State) : Le 792515385 s (doSpindleLoadStore t k width sgn addr rd rs ilen upset s) := by
  unfold doSpindleLoadStore
  dsimp only
  with_reducible refine Le.ite (fun _ => ?_) (fun _ => ?_)
  with_reducible refine Le.next (upsetWord_le ..) (by decide) ?_
  exact Le.refl _ _
  with_reducible refine Le.ite (fun _ => ?_) (fun _ => ?_)
  with_reducible refine Le.next (haltTile_le ..) (by decide) ?_
  with_reducible refine Le.next (upsetWord_le ..) (by decide) ?_
  exact Le.refl _ _
  split
  with_reducible refine Le.next (syncExc_le ..) (by decide) ?_
  with_reducible refine Le.next (coreAccess_le ..) (by decide) ?_
  with_reducible refine Le.next (upsetWord_le ..) (by decide) ?_
  exact Le.refl _ _
  with_reducible refine Le.ite (fun _ => ?_) (fun _ => ?_)
  with_reducible refine Le.next (coreAccess_le ..) (by decide) ?_
  with_reducible refine Le.next (upsetWord_le ..) (by decide) ?_
  exact Le.refl _ _
  with_reducible refine Le.next (retire_le ..) (by decide) ?_
  with_reducible refine Le.next (State.modCore_le ..) (by decide) ?_
  with_reducible refine Le.next (coreAccess_le ..) (by decide) ?_
  with_reducible refine Le.next (upsetWord_le ..) (by decide) ?_
  exact Le.refl _ _

theorem jobTick_le (s : State) (start : Bool) : Le 755815225 s (jobTick s start) := by
  unfold jobTick
  dsimp only
  with_reducible refine Le.next (pumpColl_le ..) (by decide) ?_
  with_reducible refine Le.ite (fun _ => ?_) (fun _ => ?_)
  with_reducible refine Le.forEach ?_ (fun x u hu => ?_)
  with_reducible refine Le.ite (fun _ => ?_) (fun _ => ?_)
  with_reducible refine Le.next (State.modJob_le ..) (by decide) ?_
  exact Le.refl _ _
  with_reducible refine Le.forEach ?_ (fun x u hu => ?_)
  with_reducible refine Le.next (State.modJob_le ..) (by decide) ?_
  exact Le.refl _ _
  with_reducible refine Le.next (beginColl_le ..) (by decide) ?_
  with_reducible assumption
  with_reducible refine Le.next (tryTrigger_le ..) (by decide) ?_
  with_reducible assumption
  with_reducible refine Le.next (scheduleSteps_le ..) (by decide) ?_
  with_reducible refine Le.forEach ?_ (fun x u hu => ?_)
  with_reducible refine Le.ite (fun _ => ?_) (fun _ => ?_)
  with_reducible refine Le.next (State.modJob_le ..) (by decide) ?_
  exact Le.refl _ _
  with_reducible refine Le.forEach ?_ (fun x u hu => ?_)
  with_reducible refine Le.next (State.modJob_le ..) (by decide) ?_
  exact Le.refl _ _
  with_reducible refine Le.next (beginColl_le ..) (by decide) ?_
  with_reducible assumption
  with_reducible refine Le.next (tryTrigger_le ..) (by decide) ?_
  with_reducible assumption

theorem resumeReqs_le (s : State) : Le 755799032 s (resumeReqs s) := by
  unfold resumeReqs
  with_reducible refine Le.ite (fun _ => ?_) (fun _ => ?_)
  exact Le.refl _ _
  with_reducible refine Le.forEach ?_ (fun x u hu => ?_)
  with_reducible refine Le.next (State.modNode_le _ _ ?_) (by decide) ?_
  with_reducible exact fun h => h
  exact Le.refl _ _
  with_reducible refine Le.next (serveReq_le ..) (by decide) ?_
  with_reducible assumption

theorem pickup_le (s : State) (c : Nat) (n : Nat) : Le 755794936 s (pickup s c n) := by
  unfold pickup
  dsimp only
  split
  with_reducible refine Le.next (replyFinal_le ..) (by decide) ?_
  exact Le.refl _ _
  with_reducible refine Le.next (State.modSlot_le ..) (by decide) ?_
  exact Le.refl _ _

theorem command_le {m : Nat} {s0 : State} (r : Req) (opcode : Nat) (bad : List (Bool × Nat)) (largest : Nat) (act : Picked → State → State) (s : State)
    (h : Le m s0 s) (hm : 755794936 ||| m = m) (hf : ∀ p, firstBad bad = none → Le m s0 (act p s)) : Le m s0 (command r opcode bad largest act s) := by
  unfold command
  split
  · exact h
  · split
    · exact h
    · dsimp only
      split
      · exact Le.next (replyFinal_le ..) hm h
      · exact hf _ (firstBad_own ‹_›)

theorem replying_le (r : Req) (status : Nat) (d : List (Nat × Nat)) (p : Picked) (s : State) : Le 755794936 s (replying r status d p s) := by
  unfold replying
  with_reducible refine Le.next (replyFinal_le ..) (by decide) ?_
  exact Le.refl _ _

theorem reachRunning_le (s : State) : Le 755794936 s (reachRunning s) := by
  unfold reachRunning
  dsimp only
  with_reducible refine Le.forEach ?_ (fun x u hu => ?_)
  with_reducible refine Le.ite (fun _ => ?_) (fun _ => ?_)
  with_reducible refine Le.next (logEvent_le ..) (by decide) ?_
  with_reducible refine Le.ite (fun _ => ?_) (fun _ => ?_)
  with_reducible refine Le.next (logStored_le ..) (by decide) ?_
  with_reducible refine Le.next (addRec_le ..) (by decide) ?_
  with_reducible refine Le.next (State.modBoot_le _ _ ?_) (by decide) ?_
  exact fun h => ⟨h.1, by dsimp only; split; exact Nat.max_le.mpr ⟨h.2, Nat.min_le_left _ _⟩; exact h.2⟩
  exact Le.refl _ _
  with_reducible refine Le.next (addRec_le ..) (by decide) ?_
  with_reducible refine Le.next (State.modBoot_le _ _ ?_) (by decide) ?_
  exact fun h => ⟨h.1, by dsimp only; split; exact Nat.max_le.mpr ⟨h.2, Nat.min_le_left _ _⟩; exact h.2⟩
  exact Le.refl _ _
  with_reducible refine Le.ite (fun _ => ?_) (fun _ => ?_)
  with_reducible refine Le.next (logStored_le ..) (by decide) ?_
  with_reducible refine Le.next (addRec_le ..) (by decide) ?_
  with_reducible refine Le.next (State.modBoot_le _ _ ?_) (by decide) ?_
  exact fun h => ⟨h.1, by dsimp only; split; exact Nat.max_le.mpr ⟨h.2, Nat.min_le_left _ _⟩; exact h.2⟩
  exact Le.refl _ _
  with_reducible refine Le.next (addRec_le ..) (by decide) ?_
  with_reducible refine Le.next (State.modBoot_le _ _ ?_) (by decide) ?_
  exact fun h => ⟨h.1, by dsimp only; split; exact Nat.max_le.mpr ⟨h.2, Nat.min_le_left _ _⟩; exact h.2⟩
  exact Le.refl _ _
  with_reducible refine Le.next (finishOp_le ..) (by decide) ?_
  with_reducible refine Le.next (setPosition_le ..) (by decide) ?_
  with_reducible assumption

theorem closeClient2_le (s : State) : Le 755794936 s (closeClient2 s) := by
  unfold closeClient2
  dsimp only
  with_reducible refine Le.forEach ?_ (fun x u hu => ?_)
  with_reducible refine Le.forEach ?_ (fun x u hu => ?_)
  exact Le.refl _ _
  with_reducible refine Le.next (finishOp_le ..) (by decide) ?_
  with_reducible assumption
  split
  with_reducible refine Le.next (replyFinal_le ..) (by decide) ?_
  with_reducible assumption
  with_reducible assumption

theorem loadError_le (s : State) (t : Nat) (l : LoadRun) (e : Nat × Nat × Nat) : Le 755794937 s (loadError s t l e) := by
  unfold loadError
  dsimp only
  with_reducible refine Le.next (finishOp_le ..) (by decide) ?_
  with_reducible refine Le.forEach ?_ (fun x u hu => ?_)
  split
  with_reducible refine Le.next (setPosition_le ..) (by decide) ?_
  exact Le.refl _ _
  exact Le.refl _ _
  with_reducible refine Le.next (stopLoad_le ..) (by decide) ?_
  with_reducible assumption

theorem tileDone_le (opcode : Nat) (t : Nat) (s : State) : Le 755794936 s (tileDone opcode t s) := by
  unfold tileDone
  with_reducible refine Le.forEach ?_ (fun x u hu => ?_)
  exact Le.refl _ _
  dsimp only
  with_reducible refine Le.ite (fun _ => ?_) (fun _ => ?_)
  with_reducible refine Le.next (finishOp_le ..) (by decide) ?_
  with_reducible refine Le.next (setPosition_le ..) (by decide) ?_
  with_reducible refine Le.next (State.modBelul_le ..) (by decide) ?_
  with_reducible assumption
  with_reducible refine Le.next (setPosition_le ..) (by decide) ?_
  with_reducible refine Le.next (State.modBelul_le ..) (by decide) ?_
  with_reducible assumption

theorem doAbutmentDieReset_le (a : Nat) (same : Bool) (s : State) : Le 759996409 s (doAbutmentDieReset a same s) := by
  unfold doAbutmentDieReset
  with_reducible refine Le.ite (fun _ => ?_) (fun _ => ?_)
  exact Le.refl _ _
  dsimp only
  with_reducible refine Le.next (logEvent_le ..) (by decide) ?_
  with_reducible refine Le.next (State.modBoot_le _ _ ?_) (by decide) ?_
  with_reducible exact fun h => BootOk.setDierst h _
  with_reducible refine Le.next (losePairs_le ..) (by decide) ?_
  with_reducible refine Le.ite (fun _ => ?_) (fun _ => ?_)
  with_reducible refine Le.next (State.modCtrs_le ..) (by decide) ?_
  with_reducible refine Le.next (Le.imsic_upper ..) (by decide) ?_
  with_reducible refine Le.forEach ?_ (fun x u hu => ?_)
  with_reducible refine Le.forEach ?_ (fun x u hu => ?_)
  with_reducible refine Le.forEach ?_ (fun x u hu => ?_)
  with_reducible refine Le.next (loseReqs_le ..) (by decide) ?_
  with_reducible refine Le.forEach ?_ (fun x u hu => ?_)
  with_reducible refine Le.next (State.setArb_le ..) (by decide) ?_
  with_reducible refine Le.next (dieResetEvent_le ..) (by decide) ?_
  exact Le.refl _ _
  with_reducible refine Le.next (loseRequest_le ..) (by decide) ?_
  with_reducible assumption
  with_reducible refine Le.next (loseAccesses_le ..) (by decide) ?_
  with_reducible assumption
  with_reducible refine Le.next (flushHome_le ..) (by decide) ?_
  with_reducible assumption
  with_reducible refine Le.next (loseCluster_le ..) (by decide) ?_
  with_reducible assumption
  with_reducible refine Le.next (dieDegraded_le ..) (by decide) ?_
  with_reducible refine Le.next (State.modCtrs_le ..) (by decide) ?_
  with_reducible refine Le.next (Le.imsic_upper ..) (by decide) ?_
  with_reducible refine Le.forEach ?_ (fun x u hu => ?_)
  with_reducible refine Le.forEach ?_ (fun x u hu => ?_)
  with_reducible refine Le.forEach ?_ (fun x u hu => ?_)
  with_reducible refine Le.next (loseReqs_le ..) (by decide) ?_
  with_reducible refine Le.forEach ?_ (fun x u hu => ?_)
  with_reducible refine Le.next (State.setArb_le ..) (by decide) ?_
  with_reducible refine Le.next (dieResetEvent_le ..) (by decide) ?_
  exact Le.refl _ _
  with_reducible refine Le.next (loseRequest_le ..) (by decide) ?_
  with_reducible assumption
  with_reducible refine Le.next (loseAccesses_le ..) (by decide) ?_
  with_reducible assumption
  with_reducible refine Le.next (flushHome_le ..) (by decide) ?_
  with_reducible assumption
  with_reducible refine Le.next (loseCluster_le ..) (by decide) ?_
  with_reducible assumption

theorem doFwUpdateComplete_le (ok : Bool) (s : State) : Le 755794936 s (doFwUpdateComplete ok s) := by
  unfold doFwUpdateComplete
  dsimp only
  split
  exact Le.refl _ _
  with_reducible refine Le.next (finishOp_le ..) (by decide) ?_
  with_reducible refine Le.ite (fun _ => ?_) (fun _ => ?_)
  with_reducible refine Le.next (setPosition_le ..) (by decide) ?_
  with_reducible refine Le.next (State.modBoot_le _ _ ?_) (by decide) ?_
  with_reducible exact fun h => BootOk.of h rfl rfl
  exact Le.refl _ _
  with_reducible refine Le.next (State.modBoot_le _ _ ?_) (by decide) ?_
  with_reducible exact fun h => BootOk.of h rfl rfl
  exact Le.refl _ _

theorem doCacheRangeComplete_le (p : Nat) (upto : Nat) (s : State) : Le 755794936 s (doCacheRangeComplete p upto s) := by
  unfold doCacheRangeComplete
  dsimp only
  split
  exact Le.refl _ _
  with_reducible refine Le.ite (fun _ => ?_) (fun _ => ?_)
  exact Le.refl _ _
  with_reducible refine Le.ite (fun _ => ?_) (fun _ => ?_)
  with_reducible refine Le.next (setPosition_le ..) (by decide) ?_
  with_reducible refine Le.next (State.modPier_le ..) (by decide) ?_
  with_reducible refine Le.next (rangeAdvance_le ..) (by decide) ?_
  exact Le.refl _ _
  with_reducible refine Le.next (finishOp_le ..) (by decide) ?_
  with_reducible refine Le.next (setPosition_le ..) (by decide) ?_
  with_reducible refine Le.next (State.modPier_le ..) (by decide) ?_
  with_reducible refine Le.next (rangeAdvance_le ..) (by decide) ?_
  exact Le.refl _ _

theorem wayDone_le (s : State) (mark : Nat) : Le 755794936 s (wayDone s mark) := by
  unfold wayDone
  with_reducible refine Le.forEach ?_ (fun x u hu => ?_)
  with_reducible refine Le.next (wayPosition_le ..) (by decide) ?_
  exact Le.refl _ _
  with_reducible refine Le.next (finishOp_le ..) (by decide) ?_
  with_reducible assumption

theorem stageFar_le (t : Nat) (q : Nat) (lo : Nat) (hi : Nat) (l : Lease) (x : State × ChainRun × Nat) : Le 755799032 x.1 (stageFar t q lo hi l x).1 := by
  unfold stageFar
  dsimp only
  split
  dsimp only
  with_reducible refine Le.next (sendRemote_le ..) (by decide) ?_
  exact Le.refl _ _
  dsimp only
  with_reducible refine Le.next (sendRemote_le ..) (by decide) ?_
  exact Le.refl _ _
  with_reducible refine Le.iteP (fun w : State × _ => w.1) (fun _ => ?_) (fun _ => ?_)
  dsimp only
  with_reducible refine Le.next (markPoison_le ..) (by decide) ?_
  with_reducible refine Le.next (sendRemote_le ..) (by decide) ?_
  exact Le.refl _ _
  dsimp only
  with_reducible refine Le.next (sendRemote_le ..) (by decide) ?_
  exact Le.refl _ _

theorem Issue.putRun_le (i : Issue) (t : Nat) (q : Nat) (kind : Nat → List (Nat × Nat) → RemKind) (first : Nat → Nat) (lo : Nat) (bytes : List Byte) : Le 755799032 i.s (Issue.putRun i t q kind first lo bytes).s := by
  unfold Issue.putRun
  with_reducible refine Le.foldlP (fun w : Issue => w.s) ?_ (fun u x hu => ?_)
  exact Le.refl _ _
  dsimp only
  with_reducible refine Le.next (Issue.sent_le ..) (by decide) ?_
  with_reducible refine Le.next (sendRemote_le ..) (by decide) ?_
  with_reducible assumption

theorem rangeFault_le (s : State) (t : Nat) (q : Nat) (seq : W32) (out : List (Int × Nat)) : Le 756847613 s (rangeFault s t q seq out) := by
  unfold rangeFault
  dsimp only
  with_reducible refine Le.next (faultStream_le ..) (by decide) ?_
  with_reducible refine Le.next (bump_le ..) (by decide) ?_
  with_reducible refine Le.next (tileEvent_le ..) (by decide) ?_
  exact Le.refl _ _

theorem answerRequest_le (s : State) (t : Nat) (q : Nat) (r : LeaseReq) (x : Extent) : Le 756847613 s (answerRequest s t q r x) := by
  unfold answerRequest
  dsimp only
  split
  with_reducible refine Le.next (faultStream_le ..) (by decide) ?_
  with_reducible refine Le.next (packet_le ..) (by decide) ?_
  exact Le.refl _ _
  with_reducible refine Le.next (grantLease_le ..) (by decide) ?_
  with_reducible refine Le.next (packet_le ..) (by decide) ?_
  exact Le.refl _ _

theorem hostFarLoad_le (s : State) (hart : Nat) (addr : Nat) (size : Nat) : Le 755799032 s (hostFarLoad s hart addr size) := by
  unfold hostFarLoad
  dsimp only
  split
  with_reducible refine Le.next (sendRemote_le ..) (by decide) ?_
  exact Le.refl _ _
  with_reducible refine Le.next (hostFaults_le ..) (by decide) ?_
  with_reducible refine Le.next (sendRemote_le ..) (by decide) ?_
  exact Le.refl _ _
  with_reducible refine Le.ite (fun _ => ?_) (fun _ => ?_)
  with_reducible refine Le.next (hostFaults_le ..) (by decide) ?_
  with_reducible refine Le.next (sendRemote_le ..) (by decide) ?_
  exact Le.refl _ _
  with_reducible refine Le.next (State.send_le ..) (by decide) ?_
  with_reducible refine Le.next (sendRemote_le ..) (by decide) ?_
  exact Le.refl _ _

theorem hostFarStore_le (s : State) (hart : Nat) (addr : Nat) (size : Nat) (val : BitVec 512) : Le 755799032 s (hostFarStore s hart addr size val) := by
  unfold hostFarStore
  dsimp only
  split
  with_reducible refine Le.next (logEvent_le ..) (by decide) ?_
  with_reducible refine Le.next (sendRemote_le ..) (by decide) ?_
  exact Le.refl _ _
  with_reducible refine Le.next (sendRemote_le ..) (by decide) ?_
  exact Le.refl _ _

theorem pbExec_le (s : State) (t : Nat) (w : Nat) : Le 792499001 s (pbExec s t w).1 := by
  unfold pbExec
  dsimp only
  split
  dsimp only
  with_reducible refine Le.next (State.modCore_le ..) (by decide) ?_
  exact Le.refl _ _
  with_reducible refine Le.iteP (fun w : State × _ => w.1) (fun _ => ?_) (fun _ => ?_)
  exact Le.refl _ _
  with_reducible refine Le.iteP (fun w : State × _ => w.1) (fun _ => ?_) (fun _ => ?_)
  exact Le.refl _ _
  dsimp only
  with_reducible refine Le.next (State.modCore_le ..) (by decide) ?_
  exact Le.refl _ _
  with_reducible refine Le.iteP (fun w : State × _ => w.1) (fun _ => ?_) (fun _ => ?_)
  dsimp only
  with_reducible refine Le.next (State.modCore_le ..) (by decide) ?_
  exact Le.refl _ _
  with_reducible refine Le.iteP (fun w : State × _ => w.1) (fun _ => ?_) (fun _ => ?_)
  dsimp only
  with_reducible refine Le.next (State.modCore_le ..) (by decide) ?_
  exact Le.refl _ _
  exact Le.refl _ _
  split
  with_reducible refine Le.next (pbAccess_le ..) (by decide) ?_
  exact Le.refl _ _
  with_reducible refine Le.next (pbAccess_le ..) (by decide) ?_
  exact Le.refl _ _
  with_reducible refine Le.next (pbAccess_le ..) (by decide) ?_
  exact Le.refl _ _
  with_reducible refine Le.next (pbAccess_le ..) (by decide) ?_
  exact Le.refl _ _
  with_reducible refine Le.next (pbAccess_le ..) (by decide) ?_
  exact Le.refl _ _
  exact Le.refl _ _
  with_reducible refine Le.iteP (fun w : State × _ => w.1) (fun _ => ?_) (fun _ => ?_)
  with_reducible refine Le.next (pbAccess_le ..) (by decide) ?_
  exact Le.refl _ _
  exact Le.refl _ _
  with_reducible refine Le.iteP (fun w : State × _ => w.1) (fun _ => ?_) (fun _ => ?_)
  exact Le.refl _ _
  with_reducible refine Le.iteP (fun w : State × _ => w.1) (fun _ => ?_) (fun _ => ?_)
  with_reducible refine Le.next (pbAccess_le ..) (by decide) ?_
  exact Le.refl _ _
  with_reducible refine Le.iteP (fun w : State × _ => w.1) (fun _ => ?_) (fun _ => ?_)
  with_reducible refine Le.next (pbAccess_le ..) (by decide) ?_
  exact Le.refl _ _
  with_reducible refine Le.iteP (fun w : State × _ => w.1) (fun _ => ?_) (fun _ => ?_)
  with_reducible refine Le.next (pbAccess_le ..) (by decide) ?_
  exact Le.refl _ _
  exact Le.refl _ _
  with_reducible refine Le.iteP (fun w : State × _ => w.1) (fun _ => ?_) (fun _ => ?_)
  exact Le.refl _ _
  exact Le.refl _ _
  with_reducible refine Le.iteP (fun w : State × _ => w.1) (fun _ => ?_) (fun _ => ?_)
  exact Le.refl _ _
  with_reducible refine Le.iteP (fun w : State × _ => w.1) (fun _ => ?_) (fun _ => ?_)
  exact Le.refl _ _
  split
  exact Le.refl _ _
  with_reducible refine Le.iteP (fun w : State × _ => w.1) (fun _ => ?_) (fun _ => ?_)
  exact Le.refl _ _
  dsimp only
  with_reducible refine Le.next (csrEffect_le ..) (by decide) ?_
  exact Le.refl _ _
  exact Le.refl _ _

theorem enableRing_le (s : State) : Le 755794941 s (enableRing s) := by
  unfold enableRing
  dsimp only
  with_reducible refine Le.next (postParked_le ..) (by decide) ?_
  with_reducible refine Le.next (State.modKs_le _ _ ?_) (by decide) ?_
  with_reducible exact fun h => h
  exact Le.refl _ _

theorem doRingtailWrite_le (val : W32) (s : State) : Le 755794941 s (doRingtailWrite val s) := by
  unfold doRingtailWrite
  with_reducible refine Le.ite (fun _ => ?_) (fun _ => ?_)
  with_reducible refine Le.next (postParked_le ..) (by decide) ?_
  with_reducible refine Le.next (State.modKs_le _ _ ?_) (by decide) ?_
  with_reducible exact fun h => h
  exact Le.refl _ _
  exact Le.refl _ _

theorem endInvalidate_le (s : State) (i : Invalidation) : Le 756843516 s (endInvalidate s i) := by
  unfold endInvalidate
  dsimp only
  with_reducible refine Le.ite (fun _ => ?_) (fun _ => ?_)
  with_reducible refine Le.next (traceSpace_le ..) (by decide) ?_
  with_reducible refine Le.next (State.modKs_le _ _ ?_) (by decide) ?_
  with_reducible exact fun h => h
  with_reducible refine Le.next (finishOp_le ..) (by decide) ?_
  with_reducible refine Le.next (State.modKs_le _ _ ?_) (by decide) ?_
  exact fun h => Nat.le_trans (List.length_filter_le _ _) h
  exact Le.refl _ _
  with_reducible refine Le.next (traceSpace_le ..) (by decide) ?_
  with_reducible refine Le.next (bump_le ..) (by decide) ?_
  with_reducible refine Le.next (finishOp_le ..) (by decide) ?_
  with_reducible refine Le.next (State.modKs_le _ _ ?_) (by decide) ?_
  exact fun h => Nat.le_trans (List.length_filter_le _ _) h
  exact Le.refl _ _

theorem doLaunchAttemptEnd_le (s : State) : Le 755815416 s (doLaunchAttemptEnd s) := by
  unfold doLaunchAttemptEnd
  dsimp only
  split
  exact Le.refl _ _
  split
  exact Le.refl _ _
  with_reducible refine Le.ite (fun _ => ?_) (fun _ => ?_)
  exact Le.refl _ _
  with_reducible refine Le.ite (fun _ => ?_) (fun _ => ?_)
  with_reducible refine Le.next (issueAttempt_le ..) (by decide) ?_
  with_reducible refine Le.next (setPosition_le ..) (by decide) ?_
  exact Le.refl _ _
  with_reducible refine Le.ite (fun _ => ?_) (fun _ => ?_)
  with_reducible refine Le.next (finishOp_le ..) (by decide) ?_
  with_reducible refine Le.next (State.modJob_le ..) (by decide) ?_
  exact Le.refl _ _
  with_reducible refine Le.next (finishOp_le ..) (by decide) ?_
  with_reducible refine Le.next (State.modJob_le ..) (by decide) ?_
  exact Le.refl _ _

theorem endRetrain_le (s : State) (p : Nat) : Le 755799032 s (endRetrain s p) := by
  unfold endRetrain
  dsimp only
  split
  exact Le.refl _ _
  with_reducible refine Le.next (finishOp_le ..) (by decide) ?_
  with_reducible refine Le.next (State.modPort_le ..) (by decide) ?_
  exact Le.refl _ _

theorem doNodemapSyncComplete_le (s : State) : Le 755799032 s (doNodemapSyncComplete s) := by
  unfold doNodemapSyncComplete
  split
  exact Le.refl _ _
  with_reducible refine Le.next (finishOp_le ..) (by decide) ?_
  with_reducible refine Le.next (State.modNode_le _ _ ?_) (by decide) ?_
  with_reducible exact fun h => h
  exact Le.refl _ _

theorem doWindowCloseComplete_le (w : Nat) (s : State) : Le 755799032 s (doWindowCloseComplete w s) := by
  unfold doWindowCloseComplete
  split
  exact Le.refl _ _
  with_reducible refine Le.ite (fun _ => ?_) (fun _ => ?_)
  with_reducible refine Le.next (setPosition_le ..) (by decide) ?_
  exact Le.refl _ _
  with_reducible refine Le.next (finishOp_le ..) (by decide) ?_
  with_reducible refine Le.next (State.modWindow_le ..) (by decide) ?_
  with_reducible refine Le.next (setPosition_le ..) (by decide) ?_
  exact Le.refl _ _

theorem doMemoryInitComplete_le (rate : Nat) (failed : Option Nat) (key : W64) (s : State) : Le 755794936 s (doMemoryInitComplete rate failed key s) := by
  unfold doMemoryInitComplete
  with_reducible refine Le.ite (fun _ => ?_) (fun _ => ?_)
  exact Le.refl _ _
  dsimp only
  split
  split
  with_reducible refine Le.next (finishOp_le ..) (by decide) ?_
  with_reducible refine Le.next (State.modPool_le _ _ ?_) (by decide) ?_
  with_reducible exact fun h => PoolOk.of h rfl rfl rfl
  exact Le.refl _ _
  with_reducible refine Le.next (State.modPool_le _ _ ?_) (by decide) ?_
  with_reducible exact fun h => PoolOk.of h rfl rfl rfl
  exact Le.refl _ _
  split
  with_reducible refine Le.next (finishOp_le ..) (by decide) ?_
  with_reducible refine Le.next (setPosition_le ..) (by decide) ?_
  with_reducible refine Le.next (commitInit_le ..) (by decide) ?_
  exact Le.refl _ _
  with_reducible refine Le.next (commitInit_le ..) (by decide) ?_
  exact Le.refl _ _

theorem atomicElem_le (t : Nat) (q : Nat) (chunk : Nat) (img : Tab Byte) (e : QEntry) (x : Issue × List Nat) (j : Nat) : Le 755799032 x.1.s (atomicElem t q chunk img e x j).1.s := by
  unfold atomicElem
  dsimp only
  split
  exact Le.refl _ _
  with_reducible refine Le.iteP (fun w : Issue × _ => w.1.s) (fun _ => ?_) (fun _ => ?_)
  with_reducible refine Le.iteP (fun w : Issue × _ => w.1.s) (fun _ => ?_) (fun _ => ?_)
  exact Le.refl _ _
  dsimp only
  with_reducible refine Le.next (Issue.sent_le ..) (by decide) ?_
  with_reducible refine Le.next (sendRemote_le ..) (by decide) ?_
  exact Le.refl _ _
  dsimp only
  with_reducible refine Le.next (adderApply_le ..) (by decide) ?_
  with_reducible refine Le.ite (fun _ => ?_) (fun _ => ?_)
  with_reducible refine Le.next (countTileReq_le ..) (by decide) ?_
  with_reducible refine Le.next (cohPurge_le ..) (by decide) ?_
  with_reducible refine Le.next (accessTrip_le ..) (by decide) ?_
  exact Le.refl _ _
  with_reducible refine Le.next (accessTrip_le ..) (by decide) ?_
  exact Le.refl _ _

theorem issueMessage_le (s : State) (t : Nat) (q : Nat) (e : QEntry) : Le 758944763 s (issueMessage s t q e) := by
  unfold issueMessage
  dsimp only
  split
  with_reducible refine Le.next (modEntry_le ..) (by decide) ?_
  with_reducible refine Le.next (traceDesc_le ..) (by decide) ?_
  with_reducible refine Le.next (tileCycles_le ..) (by decide) ?_
  with_reducible refine Le.next (moverCycles_le ..) (by decide) ?_
  with_reducible refine Le.next (State.modTile_le ..) (by decide) ?_
  with_reducible refine Le.next (tileEvent_le ..) (by decide) ?_
  with_reducible refine Le.next (modEntry_le ..) (by decide) ?_
  with_reducible refine Le.next (readRanges_le ..) (by decide) ?_
  with_reducible refine Le.next (readRanges_le ..) (by decide) ?_
  exact Le.refl _ _
  split
  with_reducible refine Le.next (refusalBack_le ..) (by decide) ?_
  with_reducible refine Le.next (launchFlight_le ..) (by decide) ?_
  with_reducible refine Le.next (traceDesc_le ..) (by decide) ?_
  with_reducible refine Le.next (tileCycles_le ..) (by decide) ?_
  with_reducible refine Le.next (moverCycles_le ..) (by decide) ?_
  with_reducible refine Le.next (State.modTile_le ..) (by decide) ?_
  with_reducible refine Le.next (tileEvent_le ..) (by decide) ?_
  with_reducible refine Le.next (modEntry_le ..) (by decide) ?_
  with_reducible refine Le.next (readRanges_le ..) (by decide) ?_
  with_reducible refine Le.next (readRanges_le ..) (by decide) ?_
  exact Le.refl _ _
  with_reducible refine Le.next (sendRecord_le ..) (by decide) ?_
  with_reducible refine Le.next (traceDesc_le ..) (by decide) ?_
  with_reducible refine Le.next (tileCycles_le ..) (by decide) ?_
  with_reducible refine Le.next (moverCycles_le ..) (by decide) ?_
  with_reducible refine Le.next (State.modTile_le ..) (by decide) ?_
  with_reducible refine Le.next (tileEvent_le ..) (by decide) ?_
  with_reducible refine Le.next (modEntry_le ..) (by decide) ?_
  with_reducible refine Le.next (readRanges_le ..) (by decide) ?_
  with_reducible refine Le.next (readRanges_le ..) (by decide) ?_
  exact Le.refl _ _

theorem enterIdle_le (s : State) : Le 755794936 s (enterIdle s) := by
  unfold enterIdle
  dsimp only
  with_reducible refine Le.forEach ?_ (fun x u hu => ?_)
  with_reducible refine Le.forEach ?_ (fun x u hu => ?_)
  with_reducible refine Le.forEach ?_ (fun x u hu => ?_)
  exact Le.refl _ _
  with_reducible refine Le.forEach ?_ (fun x u hu => ?_)
  with_reducible assumption
  with_reducible refine Le.next (drainLine_le ..) (by decide) ?_
  with_reducible assumption
  with_reducible refine Le.next (adderEvict_le ..) (by decide) ?_
  with_reducible assumption
  with_reducible refine Le.next (State.modCluster_le ..) (by decide) ?_
  with_reducible refine Le.next (parkCluster_le ..) (by decide) ?_
  with_reducible assumption

theorem arriveReq_le (port : Nat) (p : Pkt) (s : State) : Le 755799032 s (arriveReq port p s) := by
  unfold arriveReq
  with_reducible refine Le.ite (fun _ => ?_) (fun _ => ?_)
  exact Le.refl _ _
  dsimp only
  with_reducible refine Le.ite (fun _ => ?_) (fun _ => ?_)
  with_reducible refine Le.next (nackPkt_le ..) (by decide) ?_
  with_reducible refine Le.next (countRx_le ..) (by decide) ?_
  exact Le.refl _ _
  with_reducible refine Le.next (serveReq_le ..) (by decide) ?_
  with_reducible refine Le.next (countRx_le ..) (by decide) ?_
  exact Le.refl _ _

theorem tileLoaded_le (s : State) (t : Nat) (l : LoadRun) : Le 755794937 s (tileLoaded s t l) := by
  unfold tileLoaded
  dsimp only
  split
  with_reducible refine Le.next (endLoad_le ..) (by decide) ?_
  exact Le.refl _ _
  with_reducible refine Le.ite (fun _ => ?_) (fun _ => ?_)
  with_reducible refine Le.next (finishOp_le ..) (by decide) ?_
  with_reducible refine Le.next (setPosition_le ..) (by decide) ?_
  with_reducible refine Le.next (State.modBelul_le ..) (by decide) ?_
  with_reducible refine Le.next (endLoad_le ..) (by decide) ?_
  exact Le.refl _ _
  with_reducible refine Le.next (setPosition_le ..) (by decide) ?_
  with_reducible refine Le.next (State.modBelul_le ..) (by decide) ?_
  with_reducible refine Le.next (endLoad_le ..) (by decide) ?_
  exact Le.refl _ _

theorem askFar_le (a0 : Nat) (a1 : State) (a2 : Nat) (a3 : Nat) (a4 : Nat) (a5 : Nat) : Le 755799032 a1 (askFar a0 a1 a2 a3 a4 a5).1 := by
  induction a0 generalizing a1 a2 a3 a4 a5 with
  | zero => exact Le.refl _ _
  | succ n ih =>
    unfold askFar
    with_reducible refine Le.iteP (fun w : State × _ => w.1) (fun _ => ?_) (fun _ => ?_)
    exact Le.refl _ _
    dsimp only
    split
    dsimp only
    with_reducible refine Le.next (sendRemote_le ..) (by decide) ?_
    exact Le.refl _ _
    dsimp only
    with_reducible refine Le.next (ih ..) (by decide) ?_
    with_reducible refine Le.next (sendRemote_le ..) (by decide) ?_
    exact Le.refl _ _
    with_reducible refine Le.iteP (fun w : State × _ => w.1) (fun _ => ?_) (fun _ => ?_)
    dsimp only
    with_reducible refine Le.next (poisonedCws_le ..) (by decide) ?_
    with_reducible refine Le.next (sendRemote_le ..) (by decide) ?_
    exact Le.refl _ _
    dsimp only
    with_reducible refine Le.next (ih ..) (by decide) ?_
    with_reducible refine Le.next (sendRemote_le ..) (by decide) ?_
    exact Le.refl _ _

theorem takeSnapshots_le (b : Nat) (s : State) : Le 755794936 s (takeSnapshots b s) := by
  unfold takeSnapshots
  dsimp only
  with_reducible refine Le.forEach ?_ (fun x u hu => ?_)
  with_reducible refine Le.next (State.modCtrs_le ..) (by decide) ?_
  exact Le.refl _ _
  split
  with_reducible refine Le.next (replyFinal_le ..) (by decide) ?_
  with_reducible refine Le.forEach ?_ (fun x u hu => ?_)
  with_reducible assumption
  with_reducible refine Le.next (timeCtr_le ..) (by decide) ?_
  with_reducible assumption
  with_reducible refine Le.forEach ?_ (fun x u hu => ?_)
  with_reducible assumption
  with_reducible refine Le.next (timeCtr_le ..) (by decide) ?_
  with_reducible assumption

theorem jobBoundary_le (s : State) : Le 756863801 s (jobBoundary s) := by
  unfold jobBoundary
  dsimp only
  with_reducible refine Le.ite (fun _ => ?_) (fun _ => ?_)
  with_reducible refine Le.ite (fun _ => ?_) (fun _ => ?_)
  with_reducible refine Le.next (State.modJob_le ..) (by decide) ?_
  with_reducible refine Le.next (State.modJob_le ..) (by decide) ?_
  exact Le.refl _ _
  with_reducible refine Le.next (State.modJob_le ..) (by decide) ?_
  exact Le.refl _ _
  with_reducible refine Le.next (jobTick_le ..) (by decide) ?_
  with_reducible refine Le.ite (fun _ => ?_) (fun _ => ?_)
  with_reducible refine Le.forEach ?_ (fun x u hu => ?_)
  with_reducible refine Le.next (State.modJob_le ..) (by decide) ?_
  with_reducible refine Le.ite (fun _ => ?_) (fun _ => ?_)
  with_reducible refine Le.next (State.modJob_le ..) (by decide) ?_
  with_reducible refine Le.next (State.modJob_le ..) (by decide) ?_
  exact Le.refl _ _
  with_reducible refine Le.next (State.modJob_le ..) (by decide) ?_
  exact Le.refl _ _
  with_reducible refine Le.next (groupHalt_le ..) (by decide) ?_
  with_reducible assumption
  with_reducible refine Le.next (markLate_le ..) (by decide) ?_
  with_reducible refine Le.forEach ?_ (fun x u hu => ?_)
  with_reducible refine Le.next (State.modJob_le ..) (by decide) ?_
  with_reducible refine Le.ite (fun _ => ?_) (fun _ => ?_)
  with_reducible refine Le.next (State.modJob_le ..) (by decide) ?_
  with_reducible refine Le.next (State.modJob_le ..) (by decide) ?_
  exact Le.refl _ _
  with_reducible refine Le.next (State.modJob_le ..) (by decide) ?_
  exact Le.refl _ _
  with_reducible refine Le.next (groupHalt_le ..) (by decide) ?_
  with_reducible assumption

theorem onTiles_le {m : Nat} {s0 : State} (r : Req) (ts : TileSet) (allowed : TileSt → Bool) (act : State → State) (s : State)
    (h : Le m s0 s) (hm : 755794936 ||| m = m) (hf : Le m s0 (act s)) : Le m s0 (onTiles r ts allowed act s) := by
  unfold onTiles
  split
  · exact Le.next (replyFinal_le ..) hm h
  · exact hf

theorem doTileTestComplete_le (failing : List Nat) (s : State) : Le 755794936 s (doTileTestComplete failing s) := by
  unfold doTileTestComplete
  split
  exact Le.refl _ _
  with_reducible refine Le.ite (fun _ => ?_) (fun _ => ?_)
  exact Le.refl _ _
  with_reducible refine Le.next (finishOp_le ..) (by decide) ?_
  with_reducible refine Le.next (setPosition_le ..) (by decide) ?_
  exact Le.refl _ _

theorem doMemTrafficComplete_le (chs : List Nat) (errs : List (Nat × BitVec 576)) (s : State) : Le 755794936 s (doMemTrafficComplete chs errs s) := by
  unfold doMemTrafficComplete
  dsimp only
  split
  exact Le.refl _ _
  with_reducible refine Le.ite (fun _ => ?_) (fun _ => ?_)
  with_reducible refine Le.next (setPosition_le ..) (by decide) ?_
  with_reducible refine Le.forEach ?_ (fun x u hu => ?_)
  exact Le.refl _ _
  with_reducible refine Le.ite (fun _ => ?_) (fun _ => ?_)
  with_reducible refine Le.next (State.modChan_le ..) (by decide) ?_
  with_reducible refine Le.next (tgRunChan_le ..) (by decide) ?_
  with_reducible assumption
  with_reducible assumption
  with_reducible refine Le.next (finishOp_le ..) (by decide) ?_
  with_reducible refine Le.next (endTraffic_le ..) (by decide) ?_
  with_reducible refine Le.next (setPosition_le ..) (by decide) ?_
  with_reducible refine Le.forEach ?_ (fun x u hu => ?_)
  exact Le.refl _ _
  with_reducible refine Le.ite (fun _ => ?_) (fun _ => ?_)
  with_reducible refine Le.next (State.modChan_le ..) (by decide) ?_
  with_reducible refine Le.next (tgRunChan_le ..) (by decide) ?_
  with_reducible assumption
  with_reducible assumption

theorem endPairOp_le (s : State) (l : Nat) (n : Nat) : Le 755795960 s (endPairOp s l n) := by
  unfold endPairOp
  dsimp only
  split
  exact Le.refl _ _
  with_reducible refine Le.ite (fun _ => ?_) (fun _ => ?_)
  with_reducible refine Le.next (finishOp_le ..) (by decide) ?_
  with_reducible refine Le.next (State.modPair_le ..) (by decide) ?_
  exact Le.refl _ _
  with_reducible refine Le.next (finishOp_le ..) (by decide) ?_
  with_reducible refine Le.next (State.modPair_le ..) (by decide) ?_
  exact Le.refl _ _

theorem doHostClusterStateError_le (a : Nat) (c : Nat) (s : State) : Le 755794936 s (doHostClusterStateError a c s) := by
  unfold doHostClusterStateError
  dsimp only
  with_reducible refine Le.ite (fun _ => ?_) (fun _ => ?_)
  exact Le.refl _ _
  with_reducible refine Le.ite (fun _ => ?_) (fun _ => ?_)
  with_reducible refine Le.next (logStored_le ..) (by decide) ?_
  with_reducible refine Le.next (State.modCluster_le ..) (by decide) ?_
  with_reducible refine Le.next (parkCluster_le ..) (by decide) ?_
  with_reducible refine Le.next (State.modCluster_le ..) (by decide) ?_
  exact Le.refl _ _
  with_reducible refine Le.next (State.modCluster_le ..) (by decide) ?_
  exact Le.refl _ _

theorem doAck_le (cl : Nat) (line : Nat) (s : State) : Le 755799032 s (doAck cl line s) := by
  unfold doAck
  with_reducible refine Le.next (resumeReqs_le ..) (by decide) ?_
  with_reducible refine Le.next (takeInvAck_le ..) (by decide) ?_
  exact Le.refl _ _

theorem doDone_le (line : Nat) (s : State) : Le 755799032 s (doDone line s) := by
  unfold doDone
  dsimp only
  with_reducible refine Le.next (resumeReqs_le ..) (by decide) ?_
  with_reducible refine Le.next (tryClose_le ..) (by decide) ?_
  with_reducible refine Le.next (modTrans_le ..) (by decide) ?_
  exact Le.refl _ _

theorem doDownwb_le (cl : Nat) (line : Nat) (val : BitVec 512) (poison : Bool) (s : State) : Le 755799032 s (doDownwb cl line val poison s) := by
  unfold doDownwb
  dsimp only
  split
  exact Le.refl _ _
  with_reducible refine Le.ite (fun _ => ?_) (fun _ => ?_)
  with_reducible refine Le.next (resumeReqs_le ..) (by decide) ?_
  with_reducible refine Le.next (tryClose_le ..) (by decide) ?_
  with_reducible refine Le.next (modTrans_le ..) (by decide) ?_
  with_reducible refine Le.next (writeBackLine_le ..) (by decide) ?_
  exact Le.refl _ _
  exact Le.refl _ _

theorem doBelulCommit_le (c : Nat) (n : Nat) (word : W64) (s : State) : Le 755794936 s (doBelulCommit c n word s) := by
  unfold doBelulCommit
  dsimp only
  with_reducible refine Le.ite (fun _ => ?_) (fun _ => ?_)
  exact Le.refl _ _
  with_reducible refine Le.ite (fun _ => ?_) (fun _ => ?_)
  with_reducible refine Le.next (pickup_le ..) (by decide) ?_
  with_reducible refine Le.next (State.modSlot_le ..) (by decide) ?_
  exact Le.refl _ _
  with_reducible refine Le.ite (fun _ => ?_) (fun _ => ?_)
  with_reducible refine Le.next (State.modBelul_le ..) (by decide) ?_
  exact Le.refl _ _
  with_reducible refine Le.next (countBadCommit_le ..) (by decide) ?_
  exact Le.refl _ _

theorem coldState_le (s : State) : Le 771684351 s (coldState s) := by
  have h := closeClient2_le s
  unfold coldState
  revert h
  generalize closeClient2 s = u
  intro h
  dsimp only
  refine Le.next (n := 771684351) (t := u) ⟨fun p hp => ?_, fun hi => ⟨⟨?_, ?_, ?_⟩, ⟨?_, ?_, ?_, ?_⟩, ?_, ?_, ?_, hi.2.2.2.2.2⟩⟩ (Nat.or_self _) (Le.next (m := 771684351) h (by decide) (Le.refl _ _))
  · cases p <;> first | exact absurd hp (by decide) | exact rfl
  all_goals first | exact rfl | exact Nat.zero_le _ | exact Nat.le_of_ble_eq_true rfl

theorem dropTile_le (t : Nat) (s : State) : Le 756843517 s (dropTile t s) := by
  unfold dropTile
  dsimp only
  with_reducible refine Le.next (State.modTile_le ..) (by decide) ?_
  with_reducible refine Le.next (resetTile_le ..) (by decide) ?_
  with_reducible refine Le.forEach ?_ (fun x u hu => ?_)
  split
  with_reducible refine Le.next (loadError_le ..) (by decide) ?_
  with_reducible refine Le.next (State.takeFree_le ..) (by decide) ?_
  exact Le.refl _ _
  exact Le.refl _ _
  with_reducible refine Le.next (tileDone_le ..) (by decide) ?_
  with_reducible assumption

theorem doRecordRead_le (r : Req) (kind : Nat) (first : Nat) (s : State) : Le 755794936 s (doRecordRead r kind first s) := by
  unfold doRecordRead
  with_reducible refine command_le _ _ _ _ _ _ ?_ (by decide) (fun p hbad => ?_)
  exact Le.refl _ _
  dsimp only
  with_reducible refine Le.next (replying_le ..) (by decide) ?_
  exact Le.refl _ _

theorem doFwInfo_le (r : Req) (s : State) : Le 755794936 s (doFwInfo r s) := by
  unfold doFwInfo
  with_reducible refine command_le _ _ _ _ _ _ ?_ (by decide) (fun p hbad => ?_)
  exact Le.refl _ _
  dsimp only
  with_reducible refine Le.next (replying_le ..) (by decide) ?_
  exact Le.refl _ _

theorem doFwUpdate_le (r : Req) (src : ImgSrc) (s : State) : Le 755794936 s (doFwUpdate r src s) := by
  unfold doFwUpdate
  dsimp only
  with_reducible refine command_le _ _ _ _ _ _ ?_ (by decide) (fun p hbad => ?_)
  exact Le.refl _ _
  with_reducible refine Le.next (State.modBoot_le _ _ ?_) (by decide) ?_
  with_reducible exact fun h => BootOk.of h rfl rfl
  with_reducible refine Le.next (acceptLong_le ..) (by decide) ?_
  with_reducible refine Le.next (readImage_le ..) (by decide) ?_
  exact Le.refl _ _

theorem doIdCert_le (r : Req) (off : Nat) (s : State) : Le 755794936 s (doIdCert r off s) := by
  unfold doIdCert
  with_reducible refine command_le _ _ _ _ _ _ ?_ (by decide) (fun p hbad => ?_)
  exact Le.refl _ _
  with_reducible refine Le.next (replying_le ..) (by decide) ?_
  exact Le.refl _ _

theorem doAttest_le (r : Req) (nonce : BitVec 256) (mask : BitVec 8) (s : State) : Le 755794936 s (doAttest r nonce mask s) := by
  unfold doAttest
  with_reducible refine command_le _ _ _ _ _ _ ?_ (by decide) (fun p hbad => ?_)
  exact Le.refl _ _
  dsimp only
  with_reducible refine Le.next (replying_le ..) (by decide) ?_
  exact Le.refl _ _

theorem doMeasureLog_le (r : Req) (off : Nat) (s : State) : Le 755794936 s (doMeasureLog r off s) := by
  unfold doMeasureLog
  with_reducible refine command_le _ _ _ _ _ _ ?_ (by decide) (fun p hbad => ?_)
  exact Le.refl _ _
  with_reducible refine Le.next (replying_le ..) (by decide) ?_
  exact Le.refl _ _

theorem cacheRange_le (op : Nat) (r : Req) (start : Nat) (len : Nat) (s : State) : Le 755794936 s (cacheRange op r start len s) := by
  unfold cacheRange
  with_reducible refine command_le _ _ _ _ _ _ ?_ (by decide) (fun p hbad => ?_)
  exact Le.refl _ _
  with_reducible refine Le.next (rangeStart_le ..) (by decide) ?_
  with_reducible refine Le.next (acceptLong_le ..) (by decide) ?_
  exact Le.refl _ _

theorem doCacheWayInvalidate_le (r : Req) (p : Nat) (w : Nat) (s : State) : Le 755794936 s (doCacheWayInvalidate r p w s) := by
  unfold doCacheWayInvalidate
  with_reducible refine command_le _ _ _ _ _ _ ?_ (by decide) (fun p hbad => ?_)
  exact Le.refl _ _
  with_reducible refine Le.next (State.modPier_le ..) (by decide) ?_
  with_reducible refine Le.next (acceptLong_le ..) (by decide) ?_
  exact Le.refl _ _

theorem doWayInvalidateComplete_le (p : Nat) (w : Nat) (s : State) : Le 755794936 s (doWayInvalidateComplete p w s) := by
  unfold doWayInvalidateComplete
  with_reducible refine Le.ite (fun _ => ?_) (fun _ => ?_)
  exact Le.refl _ _
  with_reducible refine Le.next (wayDone_le ..) (by decide) ?_
  with_reducible refine Le.next (State.modPier_le ..) (by decide) ?_
  exact Le.refl _ _

theorem doCacheWayEnable_le (r : Req) (p : Nat) (w : Nat) (s : State) : Le 755794936 s (doCacheWayEnable r p w s) := by
  unfold doCacheWayEnable
  with_reducible refine command_le _ _ _ _ _ _ ?_ (by decide) (fun p hbad => ?_)
  exact Le.refl _ _
  split
  with_reducible refine Le.next (replying_le ..) (by decide) ?_
  exact Le.refl _ _
  with_reducible refine Le.next (replying_le ..) (by decide) ?_
  with_reducible refine Le.next (enableWay_le ..) (by decide) ?_
  exact Le.refl _ _

theorem doCacheWayDisable_le (r : Req) (p : Nat) (w : Nat) (s : State) : Le 755794936 s (doCacheWayDisable r p w s) := by
  unfold doCacheWayDisable
  with_reducible refine command_le _ _ _ _ _ _ ?_ (by decide) (fun p hbad => ?_)
  exact Le.refl _ _
  dsimp only
  with_reducible refine Le.ite (fun _ => ?_) (fun _ => ?_)
  with_reducible refine Le.next (disableWay_le ..) (by decide) ?_
  with_reducible refine Le.next (acceptLong_le ..) (by decide) ?_
  exact Le.refl _ _
  with_reducible refine Le.next (finishOp_le ..) (by decide) ?_
  with_reducible refine Le.next (disableWay_le ..) (by decide) ?_
  with_reducible refine Le.next (acceptLong_le ..) (by decide) ?_
  exact Le.refl _ _

theorem doWayPowerDownComplete_le (p : Nat) (w : Nat) (upto : Nat) (s : State) : Le 755794936 s (doWayPowerDownComplete p w upto s) := by
  unfold doWayPowerDownComplete
  dsimp only
  with_reducible refine Le.ite (fun _ => ?_) (fun _ => ?_)
  exact Le.refl _ _
  with_reducible refine Le.ite (fun _ => ?_) (fun _ => ?_)
  with_reducible refine Le.next (wayDone_le ..) (by decide) ?_
  with_reducible refine Le.next (powerDownWay_le ..) (by decide) ?_
  with_reducible refine Le.next (State.modPier_le ..) (by decide) ?_
  exact Le.refl _ _
  with_reducible refine Le.next (wayPosition_le ..) (by decide) ?_
  with_reducible refine Le.next (State.modPier_le ..) (by decide) ?_
  exact Le.refl _ _

theorem doCacheStatus_le (r : Req) (p : Nat) (s : State) : Le 755794936 s (doCacheStatus r p s) := by
  unfold doCacheStatus
  with_reducible refine command_le _ _ _ _ _ _ ?_ (by decide) (fun p hbad => ?_)
  exact Le.refl _ _
  dsimp only
  with_reducible refine Le.next (replying_le ..) (by decide) ?_
  exact Le.refl _ _

theorem stageReads_le (s : State) (t : Nat) (run : ChainRun) (ext : List Nat) (reads : List (Nat × Nat)) : Le 755799032 s (stageReads s t run ext reads).1 := by
  unfold stageReads
  dsimp only
  with_reducible refine Le.foldlP (fun w : State × _ => w.1) ?_ (fun u x hu => ?_)
  with_reducible refine Le.foldlP (fun w : State × _ => w.1) ?_ (fun u x hu => ?_)
  exact Le.refl _ _
  split
  with_reducible refine Le.iteP (fun w : State × _ => w.1) (fun _ => ?_) (fun _ => ?_)
  with_reducible assumption
  with_reducible refine Le.next (stageCw_le ..) (by decide) ?_
  with_reducible assumption
  with_reducible assumption
  with_reducible refine Le.next (stageFar_le ..) (by decide) ?_
  with_reducible assumption

theorem Issue.putMem_le (i : Issue) (t : Nat) (q : Nat) (kind : Nat → List (Nat × Nat) → RemKind) (first : Nat → Nat) (w : Scatter) : Le 755799032 i.s (Issue.putMem i t q kind first w).s := by
  unfold Issue.putMem
  dsimp only
  with_reducible refine Le.foldlP (fun w : Issue => w.s) ?_ (fun u x hu => ?_)
  with_reducible refine Le.foldlP (fun w : Issue => w.s) ?_ (fun u x hu => ?_)
  exact Le.refl _ _
  split
  with_reducible refine Le.iteP (fun w : Issue => w.s) (fun _ => ?_) (fun _ => ?_)
  with_reducible assumption
  with_reducible refine Le.next (Issue.putCw_le ..) (by decide) ?_
  with_reducible assumption
  with_reducible assumption
  with_reducible refine Le.next (Issue.putRun_le ..) (by decide) ?_
  with_reducible assumption

theorem doCollPost_le (r : Req) (addr : Nat) (s : State) : Le 755811320 s (doCollPost r addr s) := by
  unfold doCollPost
  dsimp only
  with_reducible refine command_le _ _ _ _ _ _ ?_ (by decide) (fun p hbad => ?_)
  exact Le.refl _ _
  with_reducible refine Le.next (replying_le ..) (by decide) ?_
  with_reducible refine Le.next (State.modJob_le ..) (by decide) ?_
  with_reducible refine Le.next (readPool_le ..) (by decide) ?_
  exact Le.refl _ _

theorem doJobEnd_le (r : Req) (s : State) : Le 755815417 s (doJobEnd r s) := by
  unfold doJobEnd
  with_reducible refine command_le _ _ _ _ _ _ ?_ (by decide) (fun p hbad => ?_)
  exact Le.refl _ _
  dsimp only
  with_reducible refine Le.next (replying_le ..) (by decide) ?_
  with_reducible refine Le.ite (fun _ => ?_) (fun _ => ?_)
  with_reducible refine Le.next (leaveFailed_le ..) (by decide) ?_
  exact Le.refl _ _
  with_reducible refine Le.next (State.modJob_le ..) (by decide) ?_
  with_reducible refine Le.next (endAll_le ..) (by decide) ?_
  with_reducible refine Le.ite (fun _ => ?_) (fun _ => ?_)
  exact Le.refl _ _
  with_reducible refine Le.next (floodOut_le ..) (by decide) ?_
  exact Le.refl _ _

theorem doJobStatus_le (r : Req) (s : State) : Le 755794936 s (doJobStatus r s) := by
  unfold doJobStatus
  with_reducible refine command_le _ _ _ _ _ _ ?_ (by decide) (fun p hbad => ?_)
  exact Le.refl _ _
  dsimp only
  with_reducible refine Le.next (replying_le ..) (by decide) ?_
  exact Le.refl _ _

theorem requestLease_le (s : State) (t : Nat) (q : Nat) (r : LeaseReq) : Le 756847613 s (requestLease s t q r) := by
  unfold requestLease
  dsimp only
  with_reducible refine Le.ite (fun _ => ?_) (fun _ => ?_)
  with_reducible refine Le.next (faultStream_le ..) (by decide) ?_
  with_reducible refine Le.next (bump_le ..) (by decide) ?_
  with_reducible refine Le.next (packet_le ..) (by decide) ?_
  with_reducible refine Le.next (tileEvent_le ..) (by decide) ?_
  exact Le.refl _ _
  split
  with_reducible refine Le.next (answerRequest_le ..) (by decide) ?_
  with_reducible refine Le.next (touchExtent_le ..) (by decide) ?_
  with_reducible refine Le.next (bump_le ..) (by decide) ?_
  with_reducible refine Le.next (bump_le ..) (by decide) ?_
  with_reducible refine Le.next (packet_le ..) (by decide) ?_
  with_reducible refine Le.next (tileEvent_le ..) (by decide) ?_
  exact Le.refl _ _
  with_reducible refine Le.next (State.modQueue_le ..) (by decide) ?_
  with_reducible refine Le.next (bump_le ..) (by decide) ?_
  with_reducible refine Le.next (bump_le ..) (by decide) ?_
  with_reducible refine Le.next (bump_le ..) (by decide) ?_
  with_reducible refine Le.next (packet_le ..) (by decide) ?_
  with_reducible refine Le.next (tileEvent_le ..) (by decide) ?_
  exact Le.refl _ _

theorem doHostApertureLoad_le (hart : Nat) (addr : Nat) (size : Nat) (fetch : Bool) (s : State) : Le 755799032 s (doHostApertureLoad hart addr size fetch s) := by
  unfold doHostApertureLoad
  with_reducible refine Le.ite (fun _ => ?_) (fun _ => ?_)
  exact Le.refl _ _
  split
  with_reducible refine Le.next (hostPoolLoad_le ..) (by decide) ?_
  exact Le.refl _ _
  with_reducible refine Le.ite (fun _ => ?_) (fun _ => ?_)
  with_reducible refine Le.next (hostFaults_le ..) (by decide) ?_
  exact Le.refl _ _
  with_reducible refine Le.next (State.send_le ..) (by decide) ?_
  exact Le.refl _ _
  with_reducible refine Le.ite (fun _ => ?_) (fun _ => ?_)
  with_reducible refine Le.next (hostFaults_le ..) (by decide) ?_
  exact Le.refl _ _
  exact Le.refl _ _
  with_reducible refine Le.ite (fun _ => ?_) (fun _ => ?_)
  with_reducible refine Le.next (hostFaults_le ..) (by decide) ?_
  exact Le.refl _ _
  with_reducible refine Le.next (hostFarLoad_le ..) (by decide) ?_
  exact Le.refl _ _
  with_reducible refine Le.next (hostFaults_le ..) (by decide) ?_
  exact Le.refl _ _

theorem runProgbuf_le (a0 : Nat) (a1 : State) (a2 : Nat) (a3 : Nat) : Le 792499001 a1 (runProgbuf a0 a1 a2 a3).1 := by
  induction a0 generalizing a1 a2 a3 with
  | zero => exact Le.refl _ _
  | succ n ih =>
    unfold runProgbuf
    dsimp only
    with_reducible refine Le.iteP (fun w : State × _ => w.1) (fun _ => ?_) (fun _ => ?_)
    exact Le.refl _ _
    with_reducible refine Le.iteP (fun w : State × _ => w.1) (fun _ => ?_) (fun _ => ?_)
    exact Le.refl _ _
    split
    exact Le.refl _ _
    split
    with_reducible refine Le.next (ih ..) (by decide) ?_
    with_reducible refine Le.next (Le.fst ‹_› (pbExec_le ..)) (by decide) ?_
    exact Le.refl _ _
    dsimp only
    with_reducible refine Le.next (Le.fst ‹_› (pbExec_le ..)) (by decide) ?_
    exact Le.refl _ _
    dsimp only
    with_reducible refine Le.next (Le.fst ‹_› (pbExec_le ..)) (by decide) ?_
    exact Le.refl _ _

theorem doRingctlWrite_le (val : W32) (s : State) : Le 755794941 s (doRingctlWrite val s) := by
  unfold doRingctlWrite
  dsimp only
  with_reducible refine Le.ite (fun _ => ?_) (fun _ => ?_)
  with_reducible refine Le.next (State.modKs_le _ _ ?_) (by decide) ?_
  with_reducible exact fun h => h
  with_reducible refine Le.next (State.modKs_le _ _ ?_) (by decide) ?_
  with_reducible exact fun h => h
  exact Le.refl _ _
  with_reducible refine Le.ite (fun _ => ?_) (fun _ => ?_)
  with_reducible refine Le.next (State.modKs_le _ _ ?_) (by decide) ?_
  with_reducible exact fun h => h
  exact Le.refl _ _
  with_reducible refine Le.ite (fun _ => ?_) (fun _ => ?_)
  with_reducible refine Le.next (enableRing_le ..) (by decide) ?_
  with_reducible refine Le.next (State.modKs_le _ _ ?_) (by decide) ?_
  with_reducible exact fun h => h
  exact Le.refl _ _
  with_reducible refine Le.next (State.modKs_le _ _ ?_) (by decide) ?_
  with_reducible exact fun h => h
  exact Le.refl _ _

theorem doDeviceInfo_le (r : Req) (s : State) : Le 755794936 s (doDeviceInfo r s) := by
  unfold doDeviceInfo
  with_reducible refine command_le _ _ _ _ _ _ ?_ (by decide) (fun p hbad => ?_)
  exact Le.refl _ _
  with_reducible refine Le.next (replying_le ..) (by decide) ?_
  exact Le.refl _ _

theorem doTileMap_le (r : Req) (s : State) : Le 755794936 s (doTileMap r s) := by
  unfold doTileMap
  with_reducible refine command_le _ _ _ _ _ _ ?_ (by decide) (fun p hbad => ?_)
  exact Le.refl _ _
  with_reducible refine Le.next (replying_le ..) (by decide) ?_
  with_reducible refine Le.next (Le.free ..) (by decide) ?_
  exact Le.refl _ _

theorem doSpareState_le (r : Req) (s : State) : Le 755794936 s (doSpareState r s) := by
  unfold doSpareState
  with_reducible refine command_le _ _ _ _ _ _ ?_ (by decide) (fun p hbad => ?_)
  exact Le.refl _ _
  with_reducible refine Le.next (replying_le ..) (by decide) ?_
  with_reducible refine Le.next (State.takeFree_le ..) (by decide) ?_
  with_reducible refine Le.next (State.takeFree_le ..) (by decide) ?_
  exact Le.refl _ _

theorem doDegraded_le (r : Req) (s : State) : Le 755794936 s (doDegraded r s) := by
  unfold doDegraded
  with_reducible refine command_le _ _ _ _ _ _ ?_ (by decide) (fun p hbad => ?_)
  exact Le.refl _ _
  dsimp only
  with_reducible refine Le.next (replying_le ..) (by decide) ?_
  exact Le.refl _ _

theorem doNop_le (r : Req) (params : List Byte) (s : State) : Le 755794936 s (doNop r params s) := by
  unfold doNop
  with_reducible refine command_le _ _ _ _ _ _ ?_ (by decide) (fun p hbad => ?_)
  exact Le.refl _ _
  with_reducible refine Le.next (replying_le ..) (by decide) ?_
  exact Le.refl _ _

theorem doOpQuery_le (r : Req) (handle : W32) (s : State) : Le 755794936 s (doOpQuery r handle s) := by
  unfold doOpQuery
  with_reducible refine command_le _ _ _ _ _ _ ?_ (by decide) (fun p hbad => ?_)
  exact Le.refl _ _
  dsimp only
  split
  with_reducible refine Le.next (replying_le ..) (by decide) ?_
  with_reducible refine Le.next (State.advanceOps_le ..) (by decide) ?_
  exact Le.refl _ _
  with_reducible refine Le.next (replying_le ..) (by decide) ?_
  with_reducible refine Le.next (State.advanceOps_le ..) (by decide) ?_
  exact Le.refl _ _

theorem doOpList_le (r : Req) (s : State) : Le 755794936 s (doOpList r s) := by
  unfold doOpList
  with_reducible refine command_le _ _ _ _ _ _ ?_ (by decide) (fun p hbad => ?_)
  exact Le.refl _ _
  dsimp only
  with_reducible refine Le.next (replying_le ..) (by decide) ?_
  with_reducible refine Le.next (State.advanceOps_le ..) (by decide) ?_
  exact Le.refl _ _

theorem doOpAbort_le (r : Req) (handle : W32) (pos : Nat) (s : State) : Le 755794937 s (doOpAbort r handle pos s) := by
  unfold doOpAbort
  with_reducible refine command_le _ _ _ _ _ _ ?_ (by decide) (fun p hbad => ?_)
  exact Le.refl _ _
  dsimp only
  split
  with_reducible refine Le.next (replying_le ..) (by decide) ?_
  exact Le.refl _ _
  with_reducible refine Le.ite (fun _ => ?_) (fun _ => ?_)
  with_reducible refine Le.next (replying_le ..) (by decide) ?_
  exact Le.refl _ _
  with_reducible refine Le.ite (fun _ => ?_) (fun _ => ?_)
  with_reducible refine Le.next (replying_le ..) (by decide) ?_
  exact Le.refl _ _
  with_reducible refine Le.next (replying_le ..) (by decide) ?_
  with_reducible refine Le.next (finishOp_le ..) (by decide) ?_
  with_reducible refine Le.next (stopUnit_le ..) (by decide) ?_
  with_reducible refine Le.next (setPosition_le ..) (by decide) ?_
  exact Le.refl _ _

theorem doPciePort_le (r : Req) (port : Nat) (mode : Nat) (width : Nat) (s : State) : Le 755794936 s (doPciePort r port mode width s) := by
  unfold doPciePort
  with_reducible refine command_le _ _ _ _ _ _ ?_ (by decide) (fun p hbad => ?_)
  exact Le.refl _ _
  with_reducible refine Le.next (replying_le ..) (by decide) ?_
  with_reducible refine Le.next (addRec_le ..) (by decide) ?_
  exact Le.refl _ _

theorem doConfigRead_le (r : Req) (s : State) : Le 755794936 s (doConfigRead r s) := by
  unfold doConfigRead
  with_reducible refine command_le _ _ _ _ _ _ ?_ (by decide) (fun p hbad => ?_)
  exact Le.refl _ _
  with_reducible refine Le.next (replying_le ..) (by decide) ?_
  exact Le.refl _ _

theorem doKeystoneWalkComplete_le (t : Nat) (q : Nat) (s : State) : Le 756847613 s (doKeystoneWalkComplete t q s) := by
  unfold doKeystoneWalkComplete
  dsimp only
  split
  exact Le.refl _ _
  with_reducible refine Le.ite (fun _ => ?_) (fun _ => ?_)
  exact Le.refl _ _
  with_reducible refine Le.ite (fun _ => ?_) (fun _ => ?_)
  with_reducible refine Le.next (bump_le ..) (by decide) ?_
  with_reducible refine Le.next (State.modKs_le _ _ ?_) (by decide) ?_
  with_reducible exact fun h => h
  exact Le.refl _ _
  split
  with_reducible refine Le.next (faultStream_le ..) (by decide) ?_
  with_reducible refine Le.next (walk_le ..) (by decide) ?_
  exact Le.refl _ _
  with_reducible refine Le.next (answerRequest_le ..) (by decide) ?_
  with_reducible refine Le.next (putExtent_le ..) (by decide) ?_
  with_reducible refine Le.next (walk_le ..) (by decide) ?_
  exact Le.refl _ _

theorem doInvalidateComplete_le (handle : Nat) (s : State) : Le 756843516 s (doInvalidateComplete handle s) := by
  unfold doInvalidateComplete
  dsimp only
  split
  exact Le.refl _ _
  with_reducible refine Le.ite (fun _ => ?_) (fun _ => ?_)
  with_reducible refine Le.next (endInvalidate_le ..) (by decide) ?_
  exact Le.refl _ _
  exact Le.refl _ _

theorem doSpaceBind_le (r : Req) (tag : Nat) (root : Nat) (s : State) : Le 756843516 s (doSpaceBind r tag root s) := by
  unfold doSpaceBind
  with_reducible refine command_le _ _ _ _ _ _ ?_ (by decide) (fun p hbad => ?_)
  exact Le.refl _ _
  with_reducible refine Le.ite (fun _ => ?_) (fun _ => ?_)
  with_reducible refine Le.next (replying_le ..) (by decide) ?_
  exact Le.refl _ _
  with_reducible refine Le.ite (fun _ => ?_) (fun _ => ?_)
  with_reducible refine Le.next (replying_le ..) (by decide) ?_
  exact Le.refl _ _
  dsimp only
  with_reducible refine Le.next (replying_le ..) (by decide) ?_
  with_reducible refine Le.next (traceSpace_le ..) (by decide) ?_
  with_reducible refine Le.forEach ?_ (fun x u hu => ?_)
  with_reducible refine Le.next (State.modKs_le _ _ ?_) (by decide) ?_
  with_reducible exact fun h => h
  exact Le.refl _ _
  with_reducible refine Le.next (resetCtr_le ..) (by decide) ?_
  with_reducible assumption

theorem acceptInvalidate_le (r : Req) (tag : Nat) (unbind : Bool) (p : Picked) (s : State) : Le 756843516 s (acceptInvalidate r tag unbind p s) := by
  unfold acceptInvalidate
  split
  · exact Le.next (replying_le ..) (by decide) (Le.refl _ _)
  · rename_i hl
    have hk : (acceptLong (startInvalidate s tag) r.client r.slot p 6 0 []).ks.invs = s.ks.invs :=
      (congrArg Keystone.invs ((acceptLong_le (startInvalidate s tag) r.client r.slot p 6 0 []).1 .ks (by decide) : _ = (startInvalidate s tag).ks)).trans rfl
    have h : Le 756843516 s (acceptLong (startInvalidate s tag) r.client r.slot p 6 0 []) :=
      Le.next (acceptLong_le ..) (by decide) (Le.next (startInvalidate_le ..) (by decide) (Le.refl _ _))
    have hm : ∀ i, Le 756843516 s ((acceptLong (startInvalidate s tag) r.client r.slot p 6 0 []).modKs fun k => { k with invs := k.invs ++ [i] }) :=
      fun i => Le.next (State.modKs_le _ _ fun _ => by simp only [List.length_append, List.length_singleton, hk]; omega) (by decide) h
    dsimp only
    split
    · exact Le.next (startPosition_le ..) (by decide) (hm _)
    · exact Le.next (endInvalidate_le ..) (by decide) (hm _)

theorem doFaultRing_le (r : Req) (addr : Nat) (enable : Bool) (msi : Bool) (s : State) : Le 755794941 s (doFaultRing r addr enable msi s) := by
  unfold doFaultRing
  with_reducible refine command_le _ _ _ _ _ _ ?_ (by decide) (fun p hbad => ?_)
  exact Le.refl _ _
  dsimp only
  with_reducible refine Le.next (replying_le ..) (by decide) ?_
  with_reducible refine Le.ite (fun _ => ?_) (fun _ => ?_)
  with_reducible refine Le.next (enableRing_le ..) (by decide) ?_
  with_reducible refine Le.next (State.modKs_le _ _ ?_) (by decide) ?_
  with_reducible exact fun h => h
  exact Le.refl _ _
  with_reducible refine Le.next (State.modKs_le _ _ ?_) (by decide) ?_
  with_reducible exact fun h => h
  exact Le.refl _ _

theorem doFaultResolve_le (r : Req) (tile : Nat) (queue : Nat) (action : Nat) (s : State) : Le 756843517 s (doFaultResolve r tile queue action s) := by
  unfold doFaultResolve
  with_reducible refine command_le _ _ _ _ _ _ ?_ (by decide) (fun p hbad => ?_)
  exact Le.refl _ _
  dsimp only
  split
  with_reducible refine Le.next (replying_le ..) (by decide) ?_
  exact Le.refl _ _
  with_reducible refine Le.next (replying_le ..) (by decide) ?_
  with_reducible refine Le.ite (fun _ => ?_) (fun _ => ?_)
  with_reducible refine Le.next (terminate_le ..) (by decide) ?_
  with_reducible refine Le.next (withdrawFault_le ..) (by decide) ?_
  exact Le.refl _ _
  with_reducible refine Le.next (State.modQueue_le ..) (by decide) ?_
  with_reducible refine Le.next (withdrawFault_le ..) (by decide) ?_
  exact Le.refl _ _

theorem doProbe_le (r : Req) (tag : Nat) (va : Nat) (s : State) : Le 755794936 s (doProbe r tag va s) := by
  unfold doProbe
  with_reducible refine command_le _ _ _ _ _ _ ?_ (by decide) (fun p hbad => ?_)
  exact Le.refl _ _
  dsimp only
  split
  with_reducible refine Le.next (replying_le ..) (by decide) ?_
  with_reducible refine Le.next (walk_le ..) (by decide) ?_
  exact Le.refl _ _
  with_reducible refine Le.next (replying_le ..) (by decide) ?_
  with_reducible refine Le.next (walk_le ..) (by decide) ?_
  exact Le.refl _ _

theorem doKeystoneStatus_le (r : Req) (s : State) : Le 755794936 s (doKeystoneStatus r s) := by
  unfold doKeystoneStatus
  with_reducible refine command_le _ _ _ _ _ _ ?_ (by decide) (fun p hbad => ?_)
  exact Le.refl _ _
  with_reducible refine Le.next (replying_le ..) (by decide) ?_
  exact Le.refl _ _

theorem doJobLaunch_le (r : Req) (h : LaunchHdr) (s : State) : Le 755815417 s (doJobLaunch r h s) := by
  unfold doJobLaunch
  dsimp only
  with_reducible refine command_le _ _ _ _ _ _ ?_ (by decide) (fun p hbad => ?_)
  exact Le.refl _ _
  with_reducible refine Le.next (issueAttempt_le ..) (by decide) ?_
  with_reducible refine Le.iteP (fun w : State × _ => w.1) (fun _ => ?_) (fun _ => ?_)
  dsimp only
  with_reducible refine Le.next (acceptLong_le ..) (by decide) ?_
  exact Le.refl _ _
  with_reducible refine Le.next (takeLaunch_le ..) (by decide) ?_
  with_reducible refine Le.next (acceptLong_le ..) (by decide) ?_
  exact Le.refl _ _

theorem portDown_le (s : State) (p : Nat) (cause : Nat) : Le 755799032 s (portDown s p cause) := by
  unfold portDown
  with_reducible refine Le.ite (fun _ => ?_) (fun _ => ?_)
  exact Le.refl _ _
  dsimp only
  with_reducible refine Le.next (endRetrain_le ..) (by decide) ?_
  with_reducible refine Le.next (logStored_le ..) (by decide) ?_
  with_reducible refine Le.next (reroute_le ..) (by decide) ?_
  with_reducible refine Le.next (State.modPort_le ..) (by decide) ?_
  exact Le.refl _ _

theorem doPeerid_le (port : Nat) (gen8 : Bool) (phys : Nat) (peerPort : Nat) (fprint : W32) (s : State) : Le 755799032 s (doPeerid port gen8 phys peerPort fprint s) := by
  unfold doPeerid
  dsimp only
  with_reducible refine Le.ite (fun _ => ?_) (fun _ => ?_)
  exact Le.refl _ _
  with_reducible refine Le.next (endRetrain_le ..) (by decide) ?_
  with_reducible refine Le.next (pumpPort_le ..) (by decide) ?_
  with_reducible refine Le.next (portStep_le ..) (by decide) ?_
  with_reducible refine Le.ite (fun _ => ?_) (fun _ => ?_)
  with_reducible refine Le.next (openPort_le ..) (by decide) ?_
  with_reducible refine Le.next (State.modPort_le ..) (by decide) ?_
  exact Le.refl _ _
  with_reducible refine Le.next (logEvent_le ..) (by decide) ?_
  with_reducible refine Le.next (recordPeer_le ..) (by decide) ?_
  with_reducible refine Le.next (State.modPort_le ..) (by decide) ?_
  with_reducible refine Le.next (State.modPort_le ..) (by decide) ?_
  exact Le.refl _ _

theorem doPortStatus_le (r : Req) (port : Nat) (s : State) : Le 755794936 s (doPortStatus r port s) := by
  unfold doPortStatus
  with_reducible refine command_le _ _ _ _ _ _ ?_ (by decide) (fun p hbad => ?_)
  exact Le.refl _ _
  dsimp only
  with_reducible refine Le.next (replying_le ..) (by decide) ?_
  exact Le.refl _ _

theorem doPortOpen_le (r : Req) (port : Nat) (s : State) : Le 755799032 s (doPortOpen r port s) := by
  unfold doPortOpen
  with_reducible refine command_le _ _ _ _ _ _ ?_ (by decide) (fun p hbad => ?_)
  exact Le.refl _ _
  with_reducible refine Le.next (replying_le ..) (by decide) ?_
  with_reducible refine Le.next (recordPeer_le ..) (by decide) ?_
  with_reducible refine Le.next (openPort_le ..) (by decide) ?_
  exact Le.refl _ _

theorem doPortRetrain_le (r : Req) (port : Nat) (s : State) : Le 755799032 s (doPortRetrain r port s) := by
  unfold doPortRetrain
  with_reducible refine command_le _ _ _ _ _ _ ?_ (by decide) (fun p hbad => ?_)
  exact Le.refl _ _
  dsimp only
  with_reducible refine Le.ite (fun _ => ?_) (fun _ => ?_)
  with_reducible refine Le.next (endRetrain_le ..) (by decide) ?_
  with_reducible refine Le.next (State.modPort_le ..) (by decide) ?_
  with_reducible refine Le.next (acceptLong_le ..) (by decide) ?_
  exact Le.refl _ _
  with_reducible refine Le.next (trainPort_le ..) (by decide) ?_
  with_reducible refine Le.next (State.modPort_le ..) (by decide) ?_
  with_reducible refine Le.next (acceptLong_le ..) (by decide) ?_
  exact Le.refl _ _

theorem doNodeRole_le (r : Req) (logical : Nat) (epoch : Nat) (rolev : Bool) (s : State) : Le 755799032 s (doNodeRole r logical epoch rolev s) := by
  unfold doNodeRole
  with_reducible refine command_le _ _ _ _ _ _ ?_ (by decide) (fun p hbad => ?_)
  exact Le.refl _ _
  with_reducible refine Le.next (replying_le ..) (by decide) ?_
  with_reducible refine Le.next (State.modNode_le _ _ ?_) (by decide) ?_
  with_reducible exact fun h => h
  exact Le.refl _ _

theorem doRouteLoad_le (r : Req) (phys : Nat) (ex : Nat) (ey : Nat) (ez : Nat) (wrap : BitVec 3) (pods : List (Nat × Nat)) (s : State) : Le 755799032 s (doRouteLoad r phys ex ey ez wrap pods s) := by
  unfold doRouteLoad
  with_reducible refine command_le _ _ _ _ _ _ ?_ (by decide) (fun p hbad => ?_)
  exact Le.refl _ _
  with_reducible refine Le.next (replying_le ..) (by decide) ?_
  with_reducible refine Le.next (State.modNode_le _ _ ?_) (by decide) ?_
  with_reducible exact fun h => h
  exact Le.refl _ _

theorem doNodemapSync_le (r : Req) (base : Nat) (len : Nat) (s : State) : Le 755799032 s (doNodemapSync r base len s) := by
  unfold doNodemapSync
  with_reducible refine command_le _ _ _ _ _ _ ?_ (by decide) (fun p hbad => ?_)
  exact Le.refl _ _
  with_reducible refine Le.next (State.modNode_le _ _ ?_) (by decide) ?_
  with_reducible exact fun h => h
  with_reducible refine Le.next (acceptLong_le ..) (by decide) ?_
  exact Le.refl _ _

theorem doWindowSet_le (r : Req) (w : Nat) (base : Nat) (size : Nat) (rights : BitVec 3) (hc : Bool) (jobchk : Bool) (srcVal : BitVec 24) (srcMask : BitVec 24) (s : State) : Le 755799032 s (doWindowSet r w base size rights hc jobchk srcVal srcMask s) := by
  unfold doWindowSet
  with_reducible refine command_le _ _ _ _ _ _ ?_ (by decide) (fun p hbad => ?_)
  exact Le.refl _ _
  with_reducible refine Le.next (replying_le ..) (by decide) ?_
  with_reducible refine Le.next (State.modWindow_le ..) (by decide) ?_
  exact Le.refl _ _

theorem doWindowClose_le (r : Req) (w : Nat) (s : State) : Le 755799032 s (doWindowClose r w s) := by
  unfold doWindowClose
  with_reducible refine command_le _ _ _ _ _ _ ?_ (by decide) (fun p hbad => ?_)
  exact Le.refl _ _
  with_reducible refine Le.next (State.modWindow_le ..) (by decide) ?_
  with_reducible refine Le.next (setPosition_le ..) (by decide) ?_
  with_reducible refine Le.next (acceptLong_le ..) (by decide) ?_
  exact Le.refl _ _

theorem doExportSet_le (r : Req) (e : Nat) (node : Nat) (w : Nat) (v : Bool) (s : State) : Le 755799032 s (doExportSet r e node w v s) := by
  unfold doExportSet
  with_reducible refine command_le _ _ _ _ _ _ ?_ (by decide) (fun p hbad => ?_)
  exact Le.refl _ _
  with_reducible refine Le.next (replying_le ..) (by decide) ?_
  with_reducible refine Le.next (State.setExp_le ..) (by decide) ?_
  exact Le.refl _ _

theorem doMemoryInit_le (r : Req) (mode : Nat) (rate : Nat) (testKey : Bool) (key : W64) (s : State) : Le 755794936 s (doMemoryInit r mode rate testKey key s) := by
  unfold doMemoryInit
  with_reducible refine command_le _ _ _ _ _ _ ?_ (by decide) (fun p hbad => ?_)
  exact Le.refl _ _
  with_reducible refine Le.next (beginInit_le ..) (by decide) ?_
  with_reducible refine Le.next (acceptLong_le ..) (by decide) ?_
  exact Le.refl _ _

theorem doMemoryStatus_le (r : Req) (s : State) : Le 755794936 s (doMemoryStatus r s) := by
  unfold doMemoryStatus
  with_reducible refine command_le _ _ _ _ _ _ ?_ (by decide) (fun p hbad => ?_)
  exact Le.refl _ _
  with_reducible refine Le.next (replying_le ..) (by decide) ?_
  exact Le.refl _ _

theorem doRetiredList_le (r : Req) (buf : Nat) (s : State) : Le 755794936 s (doRetiredList r buf s) := by
  unfold doRetiredList
  with_reducible refine command_le _ _ _ _ _ _ ?_ (by decide) (fun p hbad => ?_)
  exact Le.refl _ _
  with_reducible refine Le.next (replying_le ..) (by decide) ?_
  exact Le.refl _ _

theorem doScrubSet_le (r : Req) (enable : Bool) (period : Nat) (s : State) : Le 755794936 s (doScrubSet r enable period s) := by
  unfold doScrubSet
  with_reducible refine command_le _ _ _ _ _ _ ?_ (by decide) (fun p hbad => ?_)
  exact Le.refl _ _
  with_reducible refine Le.next (replying_le ..) (by decide) ?_
  with_reducible refine Le.next (State.modPool_le _ _ ?_) (by decide) ?_
  exact fun h => ⟨h.1, h.2.1, by by_cases hp : period < 1 ∨ 168 < period; exact absurd hbad (by rw [decide_eq_true hp]; intro h; cases h); show 1 ≤ period ∧ period ≤ 168; omega⟩
  exact Le.refl _ _

end Sys2Proof.Machine
end

