-- ==== Sys2Proof/Laws/Keep8.lean ====
section
/-!
SUPPORT. What each operation may change and that it keeps the invariant, part 8 of 9: a lemma cites those of the operations
that its operation calls. The mask of a lemma names the parts by their bits (`Part.code`).
-/

namespace Sys2Proof.Machine
open Sys2Proof

theorem pumpLater_le (t : Nat) (q : Nat) (e : QEntry) (ch : Chunk) (s : State) : Le 757896185 s (pumpLater t q e ch s) := by
  unfold pumpLater
  with_reducible refine Le.ite (fun _ => ?_) (fun _ => ?_)
  exact Le.refl _ _
  dsimp only
  split
  with_reducible refine Le.next (modEntry_le ..) (by decide) ?_
  with_reducible refine Le.next (modChunk_le ..) (by decide) ?_
  with_reducible refine Le.foldlP (fun w : Issue × _ => w.1.s) ?_ (fun u x hu => ?_)
  dsimp only
  with_reducible refine Le.ite (fun _ => ?_) (fun _ => ?_)
  with_reducible refine Le.next (State.takeFree_le ..) (by decide) ?_
  with_reducible refine Le.next (readRanges_le ..) (by decide) ?_
  exact Le.refl _ _
  with_reducible refine Le.next (readRanges_le ..) (by decide) ?_
  exact Le.refl _ _
  with_reducible refine Le.next (atomicElem_le ..) (by decide) ?_
  with_reducible assumption
  with_reducible refine Le.next (modChunk_le ..) (by decide) ?_
  with_reducible refine Le.foldlP (fun w : Issue × _ => w.1.s) ?_ (fun u x hu => ?_)
  dsimp only
  with_reducible refine Le.ite (fun _ => ?_) (fun _ => ?_)
  with_reducible refine Le.next (State.takeFree_le ..) (by decide) ?_
  with_reducible refine Le.next (readRanges_le ..) (by decide) ?_
  exact Le.refl _ _
  with_reducible refine Le.next (readRanges_le ..) (by decide) ?_
  exact Le.refl _ _
  with_reducible refine Le.next (atomicElem_le ..) (by decide) ?_
  with_reducible assumption

theorem doSendMessage_le (t : Nat) (q : Nat) (s : State) : Le 758944763 s (doSendMessage t q s) := by
  unfold doSendMessage
  split
  exact Le.refl _ _
  with_reducible refine Le.ite (fun _ => ?_) (fun _ => ?_)
  with_reducible refine Le.next (issueMessage_le ..) (by decide) ?_
  exact Le.refl _ _
  exact Le.refl _ _

theorem doPowerCap_le (r : Req) (cap : Nat) (window : Nat) (s : State) : Le 755926008 s (doPowerCap r cap window s) := by
  unfold doPowerCap
  with_reducible refine command_le _ _ _ _ _ _ ?_ (by decide) (fun p hbad => ?_)
  exact Le.refl _ _
  dsimp only
  with_reducible refine Le.ite (fun _ => ?_) (fun _ => ?_)
  with_reducible refine Le.next (replying_le ..) (by decide) ?_
  with_reducible refine Le.next (logEvent_le ..) (by decide) ?_
  with_reducible refine Le.next (State.modPower_le ..) (by decide) ?_
  exact Le.refl _ _
  with_reducible refine Le.next (replying_le ..) (by decide) ?_
  with_reducible refine Le.next (State.modPower_le ..) (by decide) ?_
  exact Le.refl _ _

theorem doDvfsSet_le (r : Req) (decks : List (Nat × Nat)) (clusters : List Nat) (s : State) : Le 755926008 s (doDvfsSet r decks clusters s) := by
  unfold doDvfsSet
  with_reducible refine command_le _ _ _ _ _ _ ?_ (by decide) (fun p hbad => ?_)
  exact Le.refl _ _
  dsimp only
  with_reducible refine Le.next (replying_le ..) (by decide) ?_
  with_reducible refine Le.next (State.modPower_le ..) (by decide) ?_
  with_reducible refine Le.forEach ?_ (fun x u hu => ?_)
  exact Le.refl _ _
  with_reducible refine Le.next (State.modDeck_le ..) (by decide) ?_
  with_reducible assumption

theorem doPowerStatus_le (r : Req) (s : State) : Le 755794936 s (doPowerStatus r s) := by
  unfold doPowerStatus
  with_reducible refine command_le _ _ _ _ _ _ ?_ (by decide) (fun p hbad => ?_)
  exact Le.refl _ _
  dsimp only
  with_reducible refine Le.next (replying_le ..) (by decide) ?_
  exact Le.refl _ _

theorem doClusterPark_le (r : Req) (die : Nat) (mask : BitVec 12) (s : State) : Le 755794936 s (doClusterPark r die mask s) := by
  unfold doClusterPark
  with_reducible refine command_le _ _ _ _ _ _ ?_ (by decide) (fun p hbad => ?_)
  exact Le.refl _ _
  dsimp only
  with_reducible refine Le.next (finishOp_le ..) (by decide) ?_
  with_reducible refine Le.next (setPosition_le ..) (by decide) ?_
  with_reducible refine Le.forEach ?_ (fun x u hu => ?_)
  with_reducible refine Le.next (acceptLong_le ..) (by decide) ?_
  exact Le.refl _ _
  with_reducible refine Le.next (parkCluster_le ..) (by decide) ?_
  with_reducible assumption

theorem doClusterUnpark_le (r : Req) (die : Nat) (mask : BitVec 12) (s : State) : Le 755794936 s (doClusterUnpark r die mask s) := by
  unfold doClusterUnpark
  with_reducible refine command_le _ _ _ _ _ _ ?_ (by decide) (fun p hbad => ?_)
  exact Le.refl _ _
  dsimp only
  with_reducible refine Le.next (finishOp_le ..) (by decide) ?_
  with_reducible refine Le.next (setPosition_le ..) (by decide) ?_
  with_reducible refine Le.forEach ?_ (fun x u hu => ?_)
  with_reducible refine Le.next (acceptLong_le ..) (by decide) ?_
  exact Le.refl _ _
  with_reducible refine Le.next (unparkCluster_le ..) (by decide) ?_
  with_reducible assumption

theorem doRemoteRead_le (port : Nat) (p : Pkt) (s : State) : Le 755799032 s (doRemoteRead port p s) := by
  unfold doRemoteRead
  with_reducible refine Le.next (arriveReq_le ..) (by decide) ?_
  exact Le.refl _ _

theorem doRemoteWrite_le (port : Nat) (p : Pkt) (s : State) : Le 755799032 s (doRemoteWrite port p s) := by
  unfold doRemoteWrite
  with_reducible refine Le.next (arriveReq_le ..) (by decide) ?_
  exact Le.refl _ _

theorem doRemoteAtomic_le (port : Nat) (p : Pkt) (s : State) : Le 755799032 s (doRemoteAtomic port p s) := by
  unfold doRemoteAtomic
  with_reducible refine Le.next (arriveReq_le ..) (by decide) ?_
  exact Le.refl _ _

theorem loadBytes_le (a0 : Nat) (a1 : State) (a2 : Nat) (a3 : Nat) (a4 : Nat) (a5 : Nat) : Le 755799037 a1 (loadBytes a0 a1 a2 a3 a4 a5).1 := by
  induction a0 generalizing a1 a2 a3 a4 a5 with
  | zero => exact Le.refl _ _
  | succ n ih =>
    unfold loadBytes
    with_reducible refine Le.iteP (fun w : State × _ => w.1) (fun _ => ?_) (fun _ => ?_)
    exact Le.refl _ _
    dsimp only
    split
    dsimp only
    with_reducible refine Le.iteP (fun w : State × _ => w.1) (fun _ => ?_) (fun _ => ?_)
    dsimp only
    with_reducible refine Le.next (bump_le ..) (by decide) ?_
    exact Le.refl _ _
    with_reducible refine Le.next (loadLease_le ..) (by decide) ?_
    exact Le.refl _ _
    split
    with_reducible refine Le.iteP (fun w : State × _ => w.1) (fun _ => ?_) (fun _ => ?_)
    with_reducible refine Le.next (askFar_le ..) (by decide) ?_
    with_reducible refine Le.iteP (fun w : State × _ => w.1) (fun _ => ?_) (fun _ => ?_)
    dsimp only
    with_reducible refine Le.next (bump_le ..) (by decide) ?_
    exact Le.refl _ _
    with_reducible refine Le.next (loadLease_le ..) (by decide) ?_
    exact Le.refl _ _
    dsimp only
    with_reducible refine Le.iteP (fun w : State × _ => w.1) (fun _ => ?_) (fun _ => ?_)
    with_reducible refine Le.next (cohRead_le ..) (by decide) ?_
    with_reducible refine Le.forEach ?_ (fun x u hu => ?_)
    with_reducible refine Le.iteP (fun w : State × _ => w.1) (fun _ => ?_) (fun _ => ?_)
    dsimp only
    with_reducible refine Le.next (bump_le ..) (by decide) ?_
    exact Le.refl _ _
    with_reducible refine Le.next (loadLease_le ..) (by decide) ?_
    exact Le.refl _ _
    with_reducible refine Le.next (accessTrip_le ..) (by decide) ?_
    with_reducible assumption
    with_reducible refine Le.next (readPool_le ..) (by decide) ?_
    with_reducible refine Le.forEach ?_ (fun x u hu => ?_)
    with_reducible refine Le.iteP (fun w : State × _ => w.1) (fun _ => ?_) (fun _ => ?_)
    dsimp only
    with_reducible refine Le.next (bump_le ..) (by decide) ?_
    exact Le.refl _ _
    with_reducible refine Le.next (loadLease_le ..) (by decide) ?_
    exact Le.refl _ _
    with_reducible refine Le.next (accessTrip_le ..) (by decide) ?_
    with_reducible assumption
    dsimp only
    with_reducible refine Le.next (ih ..) (by decide) ?_
    with_reducible refine Le.iteP (fun w : State × _ => w.1) (fun _ => ?_) (fun _ => ?_)
    with_reducible refine Le.next (askFar_le ..) (by decide) ?_
    with_reducible refine Le.iteP (fun w : State × _ => w.1) (fun _ => ?_) (fun _ => ?_)
    dsimp only
    with_reducible refine Le.next (bump_le ..) (by decide) ?_
    exact Le.refl _ _
    with_reducible refine Le.next (loadLease_le ..) (by decide) ?_
    exact Le.refl _ _
    dsimp only
    with_reducible refine Le.iteP (fun w : State × _ => w.1) (fun _ => ?_) (fun _ => ?_)
    with_reducible refine Le.next (cohRead_le ..) (by decide) ?_
    with_reducible refine Le.forEach ?_ (fun x u hu => ?_)
    with_reducible refine Le.iteP (fun w : State × _ => w.1) (fun _ => ?_) (fun _ => ?_)
    dsimp only
    with_reducible refine Le.next (bump_le ..) (by decide) ?_
    exact Le.refl _ _
    with_reducible refine Le.next (loadLease_le ..) (by decide) ?_
    exact Le.refl _ _
    with_reducible refine Le.next (accessTrip_le ..) (by decide) ?_
    with_reducible assumption
    with_reducible refine Le.next (readPool_le ..) (by decide) ?_
    with_reducible refine Le.forEach ?_ (fun x u hu => ?_)
    with_reducible refine Le.iteP (fun w : State × _ => w.1) (fun _ => ?_) (fun _ => ?_)
    dsimp only
    with_reducible refine Le.next (bump_le ..) (by decide) ?_
    exact Le.refl _ _
    with_reducible refine Le.next (loadLease_le ..) (by decide) ?_
    exact Le.refl _ _
    with_reducible refine Le.next (accessTrip_le ..) (by decide) ?_
    with_reducible assumption

theorem doTraceConfig_le (r : Req) (cfg : TraceCfg) (s : State) : Le 756843512 s (doTraceConfig r cfg s) := by
  unfold doTraceConfig
  with_reducible refine command_le _ _ _ _ _ _ ?_ (by decide) (fun p hbad => ?_)
  exact Le.refl _ _
  with_reducible refine Le.ite (fun _ => ?_) (fun _ => ?_)
  with_reducible refine Le.next (replying_le ..) (by decide) ?_
  exact Le.refl _ _
  with_reducible refine Le.next (replying_le ..) (by decide) ?_
  with_reducible refine Le.next (State.modTalcy_le ..) (by decide) ?_
  exact Le.refl _ _

theorem doTraceArm_le (r : Req) (s : State) : Le 756843512 s (doTraceArm r s) := by
  unfold doTraceArm
  with_reducible refine command_le _ _ _ _ _ _ ?_ (by decide) (fun p hbad => ?_)
  exact Le.refl _ _
  with_reducible refine Le.next (replying_le ..) (by decide) ?_
  with_reducible refine Le.ite (fun _ => ?_) (fun _ => ?_)
  exact Le.refl _ _
  with_reducible refine Le.next (armTrace_le ..) (by decide) ?_
  exact Le.refl _ _

theorem doTraceStop_le (r : Req) (s : State) : Le 756843512 s (doTraceStop r s) := by
  unfold doTraceStop
  with_reducible refine command_le _ _ _ _ _ _ ?_ (by decide) (fun p hbad => ?_)
  exact Le.refl _ _
  with_reducible refine Le.next (replying_le ..) (by decide) ?_
  with_reducible refine Le.next (stopTrace_le ..) (by decide) ?_
  exact Le.refl _ _

theorem doCounterSnapshot_le (r : Req) (set : Nat) (idx : Nat) (tick : W64) (s : State) : Le 755794936 s (doCounterSnapshot r set idx tick s) := by
  unfold doCounterSnapshot
  dsimp only
  with_reducible refine command_le _ _ _ _ _ _ ?_ (by decide) (fun p hbad => ?_)
  exact Le.refl _ _
  with_reducible refine Le.next (State.modCtrs_le ..) (by decide) ?_
  with_reducible refine Le.next (State.modSlot_le ..) (by decide) ?_
  exact Le.refl _ _

theorem doFreeze_le (r : Req) (machine : Bool) (thaw : Bool) (tick : W64) (s : State) : Le 755799032 s (doFreeze r machine thaw tick s) := by
  unfold doFreeze
  dsimp only
  with_reducible refine command_le _ _ _ _ _ _ ?_ (by decide) (fun p hbad => ?_)
  exact Le.refl _ _
  with_reducible refine Le.next (replying_le ..) (by decide) ?_
  with_reducible refine Le.ite (fun _ => ?_) (fun _ => ?_)
  with_reducible refine Le.next (machineFreeze_le ..) (by decide) ?_
  exact Le.refl _ _
  with_reducible refine Le.next (scheduleFreeze_le ..) (by decide) ?_
  exact Le.refl _ _

theorem doEventRead_le (r : Req) (first : Nat) (count : Nat) (s : State) : Le 755794936 s (doEventRead r first count s) := by
  unfold doEventRead
  with_reducible refine command_le _ _ _ _ _ _ ?_ (by decide) (fun p hbad => ?_)
  exact Le.refl _ _
  dsimp only
  with_reducible refine Le.next (replying_le ..) (by decide) ?_
  exact Le.refl _ _

theorem observeTick_le (s : State) (n : Nat) : Le 756847609 s (observeTick s n) := by
  unfold observeTick
  dsimp only
  with_reducible refine Le.forEach ?_ (fun x u hu => ?_)
  with_reducible refine Le.ite (fun _ => ?_) (fun _ => ?_)
  with_reducible refine Le.forEach ?_ (fun x u hu => ?_)
  with_reducible refine Le.when ?_ (fun u hu => ?_)
  with_reducible refine Le.next (takeSnapshots_le ..) (by decide) ?_
  with_reducible refine Le.next (applyFreezes_le ..) (by decide) ?_
  with_reducible refine Le.forEach ?_ (fun x u hu => ?_)
  exact Le.refl _ _
  with_reducible refine Le.next (flushSpace_le ..) (by decide) ?_
  with_reducible assumption
  with_reducible refine Le.next (fireTrigger_le ..) (by decide) ?_
  with_reducible assumption
  with_reducible refine Le.next (tileTick_le ..) (by decide) ?_
  with_reducible assumption
  with_reducible refine Le.when ?_ (fun u hu => ?_)
  with_reducible refine Le.next (takeSnapshots_le ..) (by decide) ?_
  with_reducible refine Le.next (applyFreezes_le ..) (by decide) ?_
  with_reducible refine Le.forEach ?_ (fun x u hu => ?_)
  exact Le.refl _ _
  with_reducible refine Le.next (flushSpace_le ..) (by decide) ?_
  with_reducible assumption
  with_reducible refine Le.next (fireTrigger_le ..) (by decide) ?_
  with_reducible assumption
  with_reducible refine Le.next (traceTick_le ..) (by decide) ?_
  with_reducible assumption

theorem doTickConfig_le (r : Req) (root : Bool) (p0 : Nat) (p1 : Nat) (p2 : Nat) (p3 : Nat) (s : State) : Le 755803128 s (doTickConfig r root p0 p1 p2 p3 s) := by
  unfold doTickConfig
  with_reducible refine command_le _ _ _ _ _ _ ?_ (by decide) (fun p hbad => ?_)
  exact Le.refl _ _
  with_reducible refine Le.next (replying_le ..) (by decide) ?_
  with_reducible refine Le.next (State.modTick_le ..) (by decide) ?_
  exact Le.refl _ _

theorem doHaltGroup_le (r : Req) (ts : TileSet) (scope : Nat) (action : Nat) (s : State) : Le 756863993 s (doHaltGroup r ts scope action s) := by
  unfold doHaltGroup
  with_reducible refine Le.ite (fun _ => ?_) (fun _ => ?_)
  exact Le.refl _ _
  with_reducible refine command_le _ _ _ _ _ _ ?_ (by decide) (fun p hbad => ?_)
  exact Le.refl _ _
  with_reducible refine Le.ite (fun _ => ?_) (fun _ => ?_)
  with_reducible refine Le.next (replying_le ..) (by decide) ?_
  with_reducible refine Le.next (jobHalt_le ..) (by decide) ?_
  exact Le.refl _ _
  with_reducible refine Le.ite (fun _ => ?_) (fun _ => ?_)
  with_reducible refine onTiles_le _ _ _ _ _ ?_ (by decide) ?_
  exact Le.refl _ _
  with_reducible refine Le.next (replying_le ..) (by decide) ?_
  with_reducible refine Le.forEach ?_ (fun x u hu => ?_)
  exact Le.refl _ _
  with_reducible refine Le.next (enterDebug_le ..) (by decide) ?_
  with_reducible assumption
  with_reducible refine onTiles_le _ _ _ _ _ ?_ (by decide) ?_
  exact Le.refl _ _
  with_reducible refine Le.next (replying_le ..) (by decide) ?_
  with_reducible refine Le.forEach ?_ (fun x u hu => ?_)
  exact Le.refl _ _
  with_reducible refine Le.next (resumeTile_le ..) (by decide) ?_
  with_reducible assumption

theorem doTileReset_le (r : Req) (ts : TileSet) (s : State) : Le 756843517 s (doTileReset r ts s) := by
  unfold doTileReset
  with_reducible refine Le.ite (fun _ => ?_) (fun _ => ?_)
  exact Le.refl _ _
  with_reducible refine command_le _ _ _ _ _ _ ?_ (by decide) (fun p hbad => ?_)
  exact Le.refl _ _
  with_reducible refine onTiles_le _ _ _ _ _ ?_ (by decide) ?_
  exact Le.refl _ _
  dsimp only
  with_reducible refine Le.ite (fun _ => ?_) (fun _ => ?_)
  with_reducible refine Le.next (finishOp_le ..) (by decide) ?_
  with_reducible refine Le.forEach ?_ (fun x u hu => ?_)
  with_reducible refine Le.next (acceptLong_le ..) (by decide) ?_
  exact Le.refl _ _
  with_reducible refine Le.next (resetTile_le ..) (by decide) ?_
  with_reducible assumption
  with_reducible refine Le.forEach ?_ (fun x u hu => ?_)
  with_reducible refine Le.next (acceptLong_le ..) (by decide) ?_
  exact Le.refl _ _
  with_reducible refine Le.next (resetTile_le ..) (by decide) ?_
  with_reducible assumption

theorem doTileStart_le (r : Req) (ts : TileSet) (tag : Nat) (entry : Nat) (arg : Nat) (s : State) : Le 756843513 s (doTileStart r ts tag entry arg s) := by
  unfold doTileStart
  with_reducible refine Le.ite (fun _ => ?_) (fun _ => ?_)
  exact Le.refl _ _
  with_reducible refine command_le _ _ _ _ _ _ ?_ (by decide) (fun p hbad => ?_)
  exact Le.refl _ _
  with_reducible refine onTiles_le _ _ _ _ _ ?_ (by decide) ?_
  exact Le.refl _ _
  with_reducible refine Le.next (replying_le ..) (by decide) ?_
  with_reducible refine Le.forEach ?_ (fun x u hu => ?_)
  exact Le.refl _ _
  with_reducible refine Le.next (startTile_le ..) (by decide) ?_
  with_reducible assumption

theorem doTileStop_le (r : Req) (ts : TileSet) (s : State) : Le 755794937 s (doTileStop r ts s) := by
  unfold doTileStop
  with_reducible refine Le.ite (fun _ => ?_) (fun _ => ?_)
  exact Le.refl _ _
  with_reducible refine command_le _ _ _ _ _ _ ?_ (by decide) (fun p hbad => ?_)
  exact Le.refl _ _
  with_reducible refine onTiles_le _ _ _ _ _ ?_ (by decide) ?_
  exact Le.refl _ _
  dsimp only
  with_reducible refine Le.ite (fun _ => ?_) (fun _ => ?_)
  with_reducible refine Le.next (finishOp_le ..) (by decide) ?_
  with_reducible refine Le.forEach ?_ (fun x u hu => ?_)
  with_reducible refine Le.next (acceptLong_le ..) (by decide) ?_
  exact Le.refl _ _
  with_reducible refine Le.next (askStop_le ..) (by decide) ?_
  with_reducible assumption
  with_reducible refine Le.forEach ?_ (fun x u hu => ?_)
  with_reducible refine Le.next (acceptLong_le ..) (by decide) ?_
  exact Le.refl _ _
  with_reducible refine Le.next (askStop_le ..) (by decide) ?_
  with_reducible assumption

theorem doTileStatus_le (r : Req) (tile : Nat) (s : State) : Le 755794936 s (doTileStatus r tile s) := by
  unfold doTileStatus
  with_reducible refine Le.ite (fun _ => ?_) (fun _ => ?_)
  exact Le.refl _ _
  with_reducible refine command_le _ _ _ _ _ _ ?_ (by decide) (fun p hbad => ?_)
  exact Le.refl _ _
  dsimp only
  with_reducible refine Le.next (replying_le ..) (by decide) ?_
  exact Le.refl _ _

theorem doTileHalt_le (r : Req) (ts : TileSet) (s : State) : Le 756863993 s (doTileHalt r ts s) := by
  unfold doTileHalt
  with_reducible refine Le.ite (fun _ => ?_) (fun _ => ?_)
  exact Le.refl _ _
  with_reducible refine command_le _ _ _ _ _ _ ?_ (by decide) (fun p hbad => ?_)
  exact Le.refl _ _
  with_reducible refine onTiles_le _ _ _ _ _ ?_ (by decide) ?_
  exact Le.refl _ _
  dsimp only
  with_reducible refine Le.ite (fun _ => ?_) (fun _ => ?_)
  with_reducible refine Le.next (finishOp_le ..) (by decide) ?_
  with_reducible refine Le.forEach ?_ (fun x u hu => ?_)
  with_reducible refine Le.next (acceptLong_le ..) (by decide) ?_
  exact Le.refl _ _
  with_reducible refine Le.next (haltTile_le ..) (by decide) ?_
  with_reducible assumption
  with_reducible refine Le.forEach ?_ (fun x u hu => ?_)
  with_reducible refine Le.next (acceptLong_le ..) (by decide) ?_
  exact Le.refl _ _
  with_reducible refine Le.next (haltTile_le ..) (by decide) ?_
  with_reducible assumption

theorem doTileResume_le (r : Req) (ts : TileSet) (s : State) : Le 755794937 s (doTileResume r ts s) := by
  unfold doTileResume
  with_reducible refine Le.ite (fun _ => ?_) (fun _ => ?_)
  exact Le.refl _ _
  with_reducible refine command_le _ _ _ _ _ _ ?_ (by decide) (fun p hbad => ?_)
  exact Le.refl _ _
  with_reducible refine onTiles_le _ _ _ _ _ ?_ (by decide) ?_
  exact Le.refl _ _
  with_reducible refine Le.next (replying_le ..) (by decide) ?_
  with_reducible refine Le.forEach ?_ (fun x u hu => ?_)
  exact Le.refl _ _
  with_reducible refine Le.next (resumeTile_le ..) (by decide) ?_
  with_reducible assumption

theorem doTileTest_le (r : Req) (ts : TileSet) (s : State) : Le 755794936 s (doTileTest r ts s) := by
  unfold doTileTest
  with_reducible refine Le.ite (fun _ => ?_) (fun _ => ?_)
  exact Le.refl _ _
  with_reducible refine command_le _ _ _ _ _ _ ?_ (by decide) (fun p hbad => ?_)
  exact Le.refl _ _
  with_reducible refine onTiles_le _ _ _ _ _ ?_ (by decide) ?_
  exact Le.refl _ _
  dsimp only
  with_reducible refine Le.ite (fun _ => ?_) (fun _ => ?_)
  with_reducible refine Le.next (finishOp_le ..) (by decide) ?_
  with_reducible refine Le.next (acceptLong_le ..) (by decide) ?_
  exact Le.refl _ _
  with_reducible refine Le.next (acceptLong_le ..) (by decide) ?_
  exact Le.refl _ _

theorem doExitDrained_le (t : Nat) (s : State) : Le 755794937 s (doExitDrained t s) := by
  unfold doExitDrained
  dsimp only
  with_reducible refine Le.ite (fun _ => ?_) (fun _ => ?_)
  with_reducible refine Le.next (tileDone_le ..) (by decide) ?_
  with_reducible refine Le.next (State.setTile_le ..) (by decide) ?_
  exact Le.refl _ _
  exact Le.refl _ _

theorem doMemTraffic_le (r : Req) (mask : BitVec 512) (s : State) : Le 755794936 s (doMemTraffic r mask s) := by
  unfold doMemTraffic
  with_reducible refine command_le _ _ _ _ _ _ ?_ (by decide) (fun p hbad => ?_)
  exact Le.refl _ _
  dsimp only
  with_reducible refine Le.ite (fun _ => ?_) (fun _ => ?_)
  with_reducible refine Le.next (finishOp_le ..) (by decide) ?_
  with_reducible refine Le.forEach ?_ (fun x u hu => ?_)
  with_reducible refine Le.next (acceptLong_le ..) (by decide) ?_
  exact Le.refl _ _
  with_reducible refine Le.next (State.modChan_le ..) (by decide) ?_
  with_reducible assumption
  with_reducible refine Le.forEach ?_ (fun x u hu => ?_)
  with_reducible refine Le.next (acceptLong_le ..) (by decide) ?_
  exact Le.refl _ _
  with_reducible refine Le.next (State.modChan_le ..) (by decide) ?_
  with_reducible assumption

theorem agreePair_le (s : State) (l : Nat) (n : Nat) (east : Bool) : Le 755795960 s (agreePair s l n east) := by
  unfold agreePair
  dsimp only
  with_reducible refine Le.ite (fun _ => ?_) (fun _ => ?_)
  with_reducible refine Le.next (State.modPair_le ..) (by decide) ?_
  exact Le.refl _ _
  with_reducible refine Le.next (serveAllPorts_le ..) (by decide) ?_
  with_reducible refine Le.next (endPairOp_le ..) (by decide) ?_
  with_reducible refine Le.next (State.modPair_le ..) (by decide) ?_
  with_reducible refine Le.next (State.modPair_le ..) (by decide) ?_
  exact Le.refl _ _

theorem doDieLinkStatus_le (r : Req) (l : Nat) (s : State) : Le 755794936 s (doDieLinkStatus r l s) := by
  unfold doDieLinkStatus
  with_reducible refine command_le _ _ _ _ _ _ ?_ (by decide) (fun p hbad => ?_)
  exact Le.refl _ _
  with_reducible refine Le.next (replying_le ..) (by decide) ?_
  exact Le.refl _ _

theorem doDieLinkRetrain_le (r : Req) (l : Nat) (n : Nat) (s : State) : Le 755795960 s (doDieLinkRetrain r l n s) := by
  unfold doDieLinkRetrain
  with_reducible refine command_le _ _ _ _ _ _ ?_ (by decide) (fun p hbad => ?_)
  exact Le.refl _ _
  with_reducible refine Le.next (State.modPair_le ..) (by decide) ?_
  with_reducible refine Le.next (acceptLong_le ..) (by decide) ?_
  exact Le.refl _ _

theorem moduleReset_le (s : State) (kind : Nat) : Le 771749887 s (moduleReset s kind) := by
  have h := coldState_le s
  unfold moduleReset
  revert h
  generalize coldState s = u
  intro h
  dsimp only
  with_reducible refine Le.ite (fun _ => ?_) (fun _ => ?_)
  with_reducible refine Le.next (Le.belul_i3c_power_boot _ _ _ _ _ ?_) (by decide) ?_
  exact fun h => ⟨Nat.zero_le _, h.2⟩
  with_reducible refine Le.next ‹Le _ _ _› (by decide) ?_
  exact Le.refl _ _
  with_reducible refine Le.ite (fun _ => ?_) (fun _ => ?_)
  with_reducible refine Le.next (Le.belul_i3c_power_boot _ _ _ _ _ ?_) (by decide) ?_
  with_reducible exact fun h => BootOk.of h rfl rfl
  with_reducible refine Le.next ‹Le _ _ _› (by decide) ?_
  exact Le.refl _ _
  with_reducible refine Le.next (Le.power_boot _ _ _ ?_) (by decide) ?_
  with_reducible exact fun h => BootOk.of h rfl rfl
  with_reducible refine Le.next ‹Le _ _ _› (by decide) ?_
  exact Le.refl _ _

theorem doDeckDieReset_le (n : Nat) (same : Bool) (s : State) : Le 758946815 s (doDeckDieReset n same s) := by
  unfold doDeckDieReset
  with_reducible refine Le.ite (fun _ => ?_) (fun _ => ?_)
  exact Le.refl _ _
  dsimp only
  with_reducible refine Le.ite (fun _ => ?_) (fun _ => ?_)
  with_reducible refine Le.forEach ?_ (fun x u hu => ?_)
  with_reducible refine Le.next (logEvent_le ..) (by decide) ?_
  with_reducible refine Le.next (State.modBoot_le _ _ ?_) (by decide) ?_
  with_reducible exact fun h => BootOk.setDierst h _
  with_reducible refine Le.next (State.modCtrs_le ..) (by decide) ?_
  with_reducible refine Le.next (State.modWear_le ..) (by decide) ?_
  with_reducible refine Le.forEach ?_ (fun x u hu => ?_)
  with_reducible refine Le.next (Le.msgs ..) (by decide) ?_
  with_reducible refine Le.next (State.modNode_le _ _ ?_) (by decide) ?_
  with_reducible exact fun h => NodeOk.setRems h _
  with_reducible refine Le.next (dieResetEvent_le ..) (by decide) ?_
  exact Le.refl _ _
  with_reducible refine Le.next (dropTile_le ..) (by decide) ?_
  with_reducible assumption
  with_reducible refine Le.next (queueNeed_le ..) (by decide) ?_
  with_reducible assumption
  with_reducible refine Le.next (dieDegraded_le ..) (by decide) ?_
  with_reducible refine Le.forEach ?_ (fun x u hu => ?_)
  with_reducible refine Le.next (State.takeFree_le ..) (by decide) ?_
  with_reducible refine Le.next (State.modBoot_le _ _ ?_) (by decide) ?_
  with_reducible exact fun h => BootOk.setDierst h _
  with_reducible refine Le.next (State.modCtrs_le ..) (by decide) ?_
  with_reducible refine Le.next (State.modWear_le ..) (by decide) ?_
  with_reducible refine Le.forEach ?_ (fun x u hu => ?_)
  with_reducible refine Le.next (Le.msgs ..) (by decide) ?_
  with_reducible refine Le.next (State.modNode_le _ _ ?_) (by decide) ?_
  with_reducible exact fun h => NodeOk.setRems h _
  with_reducible refine Le.next (dieResetEvent_le ..) (by decide) ?_
  exact Le.refl _ _
  with_reducible refine Le.next (dropTile_le ..) (by decide) ?_
  with_reducible assumption
  with_reducible refine Le.next (State.modTile_le ..) (by decide) ?_
  with_reducible assumption

theorem landWork_le (w : Work) : Le 757896185 w.s (landWork w).1 := by
  unfold landWork
  dsimp only
  with_reducible refine Le.next (Issue.putMem_le ..) (by decide) ?_
  dsimp only
  with_reducible refine Le.next (putScatter_le ..) (by decide) ?_
  exact Le.refl _ _

theorem leaseStep_le (s : State) (t : Nat) (q : Nat) (seq : W32) (needs : Needs) : Le 756847613 s (leaseStep s t q seq needs) := by
  unfold leaseStep
  dsimp only
  split
  with_reducible refine Le.ite (fun _ => ?_) (fun _ => ?_)
  exact Le.refl _ _
  with_reducible refine Le.next (rangeFault_le ..) (by decide) ?_
  exact Le.refl _ _
  with_reducible refine Le.ite (fun _ => ?_) (fun _ => ?_)
  with_reducible refine Le.next (requestLease_le ..) (by decide) ?_
  with_reducible refine Le.ite (fun _ => ?_) (fun _ => ?_)
  exact Le.refl _ _
  with_reducible refine Le.next (releaseLeases_le ..) (by decide) ?_
  exact Le.refl _ _
  with_reducible refine Le.ite (fun _ => ?_) (fun _ => ?_)
  exact Le.refl _ _
  with_reducible refine Le.next (releaseLeases_le ..) (by decide) ?_
  exact Le.refl _ _

theorem belulWrite_le (c : Nat) (off : Nat) (val : W32) (s : State) : Le 755794936 s (belulWrite c off val s) := by
  unfold belulWrite
  with_reducible refine Le.ite (fun _ => ?_) (fun _ => ?_)
  with_reducible refine Le.next (doBelulCommit_le ..) (by decide) ?_
  exact Le.refl _ _
  with_reducible refine Le.next (slotWrite_le ..) (by decide) ?_
  exact Le.refl _ _

theorem dmiPostexec_le (s : State) (t : Nat) : Le 792499001 s (dmiPostexec s t) := by
  unfold dmiPostexec
  dsimp only
  with_reducible refine Le.ite (fun _ => ?_) (fun _ => ?_)
  with_reducible refine Le.next (setCmderr_le ..) (by decide) ?_
  with_reducible refine Le.next (runProgbuf_le ..) (by decide) ?_
  exact Le.refl _ _
  with_reducible refine Le.next (runProgbuf_le ..) (by decide) ?_
  exact Le.refl _ _

theorem ksWrite_le (off : Nat) (val : W32) (s : State) : Le 755794941 s (ksWrite off val s) := by
  unfold ksWrite
  split
  with_reducible refine Le.ite (fun _ => ?_) (fun _ => ?_)
  exact Le.refl _ _
  with_reducible refine Le.next (State.modKs_le _ _ ?_) (by decide) ?_
  with_reducible exact fun h => h
  exact Le.refl _ _
  with_reducible refine Le.ite (fun _ => ?_) (fun _ => ?_)
  exact Le.refl _ _
  with_reducible refine Le.next (State.modKs_le _ _ ?_) (by decide) ?_
  with_reducible exact fun h => h
  exact Le.refl _ _
  with_reducible refine Le.next (doRingctlWrite_le ..) (by decide) ?_
  exact Le.refl _ _
  with_reducible refine Le.next (doRingtailWrite_le ..) (by decide) ?_
  exact Le.refl _ _
  exact Le.refl _ _

theorem i3cByte_le (off : Nat) (b : Byte) (s : State) : Le 755794936 s (i3cByte off b s) := by
  unfold i3cByte
  with_reducible refine Le.ite (fun _ => ?_) (fun _ => ?_)
  dsimp only
  with_reducible refine Le.ite (fun _ => ?_) (fun _ => ?_)
  with_reducible refine Le.next (doBelulCommit_le ..) (by decide) ?_
  with_reducible refine Le.next (State.modBelul_le ..) (by decide) ?_
  exact Le.refl _ _
  with_reducible refine Le.next (State.modBelul_le ..) (by decide) ?_
  exact Le.refl _ _
  exact Le.refl _ _

theorem doSpaceUnbind_le (r : Req) (tag : Nat) (s : State) : Le 756843516 s (doSpaceUnbind r tag s) := by
  unfold doSpaceUnbind
  with_reducible refine command_le _ _ _ _ _ _ ?_ (by decide) (fun p hbad => ?_)
  exact Le.refl _ _
  with_reducible refine Le.next (acceptInvalidate_le ..) (by decide) ?_
  exact Le.refl _ _

theorem doInvalidate_le (r : Req) (tag : Nat) (s : State) : Le 756843516 s (doInvalidate r tag s) := by
  unfold doInvalidate
  with_reducible refine command_le _ _ _ _ _ _ ?_ (by decide) (fun p hbad => ?_)
  exact Le.refl _ _
  with_reducible refine Le.next (acceptInvalidate_le ..) (by decide) ?_
  exact Le.refl _ _

theorem doPortTrainingDone_le (port : Nat) (accTx : WaveMask) (accRx : WaveMask) (s : State) : Le 755799032 s (doPortTrainingDone port accTx accRx s) := by
  unfold doPortTrainingDone
  dsimp only
  with_reducible refine Le.ite (fun _ => ?_) (fun _ => ?_)
  exact Le.refl _ _
  with_reducible refine Le.ite (fun _ => ?_) (fun _ => ?_)
  with_reducible refine Le.next (portDown_le ..) (by decide) ?_
  with_reducible refine Le.next (portStep_le ..) (by decide) ?_
  exact Le.refl _ _
  with_reducible refine Le.next (sendControl_le ..) (by decide) ?_
  with_reducible refine Le.next (portStep_le ..) (by decide) ?_
  with_reducible refine Le.ite (fun _ => ?_) (fun _ => ?_)
  with_reducible refine Le.next (logStored_le ..) (by decide) ?_
  with_reducible refine Le.next (State.modPort_le ..) (by decide) ?_
  exact Le.refl _ _
  with_reducible refine Le.next (State.modPort_le ..) (by decide) ?_
  exact Le.refl _ _

theorem doLinkdown_le (port : Nat) (s : State) : Le 755799032 s (doLinkdown port s) := by
  unfold doLinkdown
  with_reducible refine Le.next (portDown_le ..) (by decide) ?_
  exact Le.refl _ _

theorem doLaserFailure_le (port : Nat) (s : State) : Le 757896185 s (doLaserFailure port s) := by
  unfold doLaserFailure
  with_reducible refine Le.ite (fun _ => ?_) (fun _ => ?_)
  exact Le.refl _ _
  dsimp only
  with_reducible refine Le.next (queueNeed_le ..) (by decide) ?_
  with_reducible refine Le.next (portDown_le ..) (by decide) ?_
  with_reducible refine Le.next (State.modPort_le ..) (by decide) ?_
  exact Le.refl _ _

theorem landParts_le (i : Issue) (t : Nat) (q : Nat) (chunk : Nat) (store : Bool) (lo : Nat) (bad : List Nat) (parts : List (Nat × Nat × Nat × Nat)) (data : List Byte) : Le 757896185 i.s (landParts i t q chunk store lo bad parts data).s := by
  unfold landParts
  dsimp only
  with_reducible refine Le.iteP (fun w : Issue => w.s) (fun _ => ?_) (fun _ => ?_)
  dsimp only
  with_reducible refine Le.next (putScatter_le ..) (by decide) ?_
  exact Le.refl _ _
  with_reducible refine Le.next (Issue.putMem_le ..) (by decide) ?_
  exact Le.refl _ _

theorem remoteAck_le (s : State) (t : Nat) (q : Nat) (chunk : Nat) (a : Ack) : Le 757896185 s (remoteAck s t q chunk a) := by
  unfold remoteAck
  dsimp only
  split
  exact Le.refl _ _
  split
  exact Le.refl _ _
  split
  with_reducible refine Le.next (modChunk_le ..) (by decide) ?_
  exact Le.refl _ _
  with_reducible refine Le.forEach ?_ (fun x u hu => ?_)
  with_reducible refine Le.next (modChunk_le ..) (by decide) ?_
  exact Le.refl _ _
  with_reducible refine Le.next (pumpLater_le ..) (by decide) ?_
  with_reducible assumption

theorem doThermalTrip_le (i : Nat) (temp : Int) (s : State) : Le 771684351 s (doThermalTrip i temp s) := by
  unfold doThermalTrip
  with_reducible refine Le.ite (fun _ => ?_) (fun _ => ?_)
  exact Le.refl _ _
  dsimp only
  with_reducible refine Le.next (State.modPower_le ..) (by decide) ?_
  with_reducible refine Le.next (coldState_le ..) (by decide) ?_
  with_reducible refine Le.next (State.modSensor_le ..) (by decide) ?_
  exact Le.refl _ _

theorem loseS3_le (s : State) : Le 771684351 s (loseS3 s) := by
  have h := coldState_le s
  unfold loseS3
  revert h
  generalize coldState s = u
  intro h
  dsimp only
  refine ⟨fun p hp => ?_, fun hi => ?_⟩
  · cases p <;> first | exact absurd hp (by decide) | simp [Same]
  · have hc := h.2 hi
    exact ⟨hi.1, hc.2.1, hc.2.2.1, hc.2.2.2.1, hc.2.2.2.2.1, hi.2.2.2.2.2⟩

theorem bringChunk_le (s : State) (t : Nat) (l : LoadRun) : Le 755799037 s (bringChunk s t l).1 := by
  unfold bringChunk
  dsimp only
  split
  dsimp only
  with_reducible refine Le.next (loadBytes_le ..) (by decide) ?_
  exact Le.refl _ _
  dsimp only
  with_reducible refine Le.next (State.modTile_le ..) (by decide) ?_
  with_reducible refine Le.next (loadBytes_le ..) (by decide) ?_
  exact Le.refl _ _

theorem doSpanTickBoundary_le (predict : List Nat) (estimate : Nat) (floor : Nat) (s : State) : Le 757004281 s (doSpanTickBoundary predict estimate floor s) := by
  unfold doSpanTickBoundary
  with_reducible refine Le.ite (fun _ => ?_) (fun _ => ?_)
  exact Le.refl _ _
  dsimp only
  with_reducible refine Le.forEach ?_ (fun x u hu => ?_)
  with_reducible refine Le.next (jobBoundary_le ..) (by decide) ?_
  with_reducible refine Le.next (powerTick_le ..) (by decide) ?_
  with_reducible refine Le.forEach ?_ (fun x u hu => ?_)
  with_reducible refine Le.next (State.modNode_le _ _ ?_) (by decide) ?_
  with_reducible exact fun h => NodeOk.setRems h _
  with_reducible refine Le.forEach ?_ (fun x u hu => ?_)
  with_reducible refine Le.forEach ?_ (fun x u hu => ?_)
  with_reducible refine Le.next (observeTick_le ..) (by decide) ?_
  with_reducible refine Le.next (showPositions_le ..) (by decide) ?_
  with_reducible refine Le.next (State.modTick_le ..) (by decide) ?_
  exact Le.refl _ _
  with_reducible refine Le.next (State.modPier_le ..) (by decide) ?_
  with_reducible assumption
  with_reducible refine Le.next (portTick_le ..) (by decide) ?_
  with_reducible assumption
  with_reducible refine Le.next (trainPair_le ..) (by decide) ?_
  with_reducible assumption
  with_reducible refine Le.next (sendCtrl_le ..) (by decide) ?_
  with_reducible assumption

theorem doLinkup_le (l : Nat) (n : Nat) (east : Bool) (hashE : W32) (hashW : W32) (s : State) : Le 755795960 s (doLinkup l n east hashE hashW s) := by
  unfold doLinkup
  dsimp only
  with_reducible refine Le.ite (fun _ => ?_) (fun _ => ?_)
  exact Le.refl _ _
  with_reducible refine Le.ite (fun _ => ?_) (fun _ => ?_)
  with_reducible refine Le.next (State.send_le ..) (by decide) ?_
  exact Le.refl _ _
  with_reducible refine Le.next (agreePair_le ..) (by decide) ?_
  exact Le.refl _ _

theorem faultPath_le (s : State) (step : Nat) : Le 771749887 s (faultPath s step) := by
  have h1 := addRec_le s 7 0 [step]
  unfold faultPath
  revert h1
  generalize addRec s 7 0 [step] = u
  intro h1
  dsimp only
  split
  · exact Le.next (State.modBoot_le _ _ fun h => BootOk.of h rfl rfl) (by decide) (Le.next h1 (by decide) (Le.refl _ _))
  · rename_i hne
    have h : Le 771749887 s (moduleReset u kindFatal) := Le.next (moduleReset_le _ _) (by decide) (Le.next h1 (by decide) (Le.refl _ _))
    revert h
    generalize moduleReset u kindFatal = v
    intro h
    refine ⟨fun p hp => ?_, fun hi => ?_⟩
    · have := h.1 p hp
      revert this
      cases p <;> first | exact absurd hp (by decide) | exact id
    · have a := (h1.2 hi).2.2.2.2.2.1
      have b := h.2 hi
      exact ⟨b.1, b.2.1, b.2.2.1, b.2.2.2.1, b.2.2.2.2.1, ⟨show u.boot.failStreak + 1 ≤ 2 by omega, b.2.2.2.2.2.2⟩⟩

theorem doFwRecoveryLoad_le (r : Req) (off : Nat) (last : Bool) (piece : List Byte) (flashOk : Bool) (s : State) : Le 771749887 s (doFwRecoveryLoad r off last piece flashOk s) := by
  unfold doFwRecoveryLoad
  with_reducible refine command_le _ _ _ _ _ _ ?_ (by decide) (fun p hbad => ?_)
  exact Le.refl _ _
  dsimp only
  with_reducible refine Le.ite (fun _ => ?_) (fun _ => ?_)
  with_reducible refine Le.next (replying_le ..) (by decide) ?_
  with_reducible refine Le.next (State.modBoot_le _ _ ?_) (by decide) ?_
  with_reducible exact fun h => BootOk.of h rfl rfl
  exact Le.refl _ _
  with_reducible refine Le.ite (fun _ => ?_) (fun _ => ?_)
  with_reducible refine Le.next (replying_le ..) (by decide) ?_
  with_reducible refine Le.next (State.modBoot_le _ _ ?_) (by decide) ?_
  with_reducible exact fun h => BootOk.of h rfl rfl
  exact Le.refl _ _
  with_reducible refine Le.ite (fun _ => ?_) (fun _ => ?_)
  with_reducible refine Le.next (replying_le ..) (by decide) ?_
  with_reducible refine Le.next (State.modBoot_le _ _ ?_) (by decide) ?_
  with_reducible exact fun h => BootOk.of h rfl rfl
  with_reducible refine Le.next (State.modBoot_le _ _ ?_) (by decide) ?_
  with_reducible exact fun h => BootOk.of h rfl rfl
  exact Le.refl _ _
  with_reducible refine Le.next (moduleReset_le ..) (by decide) ?_
  with_reducible refine Le.next (replying_le ..) (by decide) ?_
  with_reducible refine Le.next (State.modBoot_le _ _ ?_) (by decide) ?_
  with_reducible exact fun h => BootOk.of h rfl rfl
  with_reducible refine Le.next (State.modBoot_le _ _ ?_) (by decide) ?_
  with_reducible exact fun h => BootOk.of h rfl rfl
  exact Le.refl _ _

theorem doFwActivate_le (r : Req) (s : State) : Le 771749887 s (doFwActivate r s) := by
  unfold doFwActivate
  with_reducible refine command_le _ _ _ _ _ _ ?_ (by decide) (fun p hbad => ?_)
  exact Le.refl _ _
  with_reducible refine Le.next (moduleReset_le ..) (by decide) ?_
  with_reducible refine Le.next (replying_le ..) (by decide) ?_
  exact Le.refl _ _

theorem chainWork_le (s : State) (t : Nat) (c : ChainCfg) (run : ChainRun) (stop : Nat) (ext : List Nat) : Le 757896185 s (chainWork s t c run stop ext).1 := by
  unfold chainWork
  dsimp only
  with_reducible refine Le.next (landWork_le ..) (by decide) ?_
  with_reducible refine Le.iteP (fun w : Work => w.s) (fun _ => ?_) (fun _ => ?_)
  with_reducible refine Le.next (Work.scanRow_le ..) (by decide) ?_
  exact Le.refl _ _
  with_reducible refine Le.next (Work.elems_le ..) (by decide) ?_
  exact Le.refl _ _

theorem stopPass_le (s : State) (t : Nat) (c : ChainCfg) (run : ChainRun) : Le 757896185 s (stopPass s t c run).1 := by
  unfold stopPass
  with_reducible refine Le.next (landWork_le ..) (by decide) ?_
  with_reducible refine Le.next (Work.flushOut_le ..) (by decide) ?_
  exact Le.refl _ _

theorem doLeaseRequest_le (t : Nat) (q : Nat) (s : State) : Le 756847613 s (doLeaseRequest t q s) := by
  unfold doLeaseRequest
  dsimp only
  with_reducible refine Le.ite (fun _ => ?_) (fun _ => ?_)
  exact Le.refl _ _
  split
  with_reducible refine Le.next (leaseStep_le ..) (by decide) ?_
  exact Le.refl _ _
  exact Le.refl _ _

theorem doDmiAbstractCommand_le (t : Nat) (cmd : W32) (s : State) : Le 792499001 s (doDmiAbstractCommand t cmd s) := by
  unfold doDmiAbstractCommand
  dsimp only
  with_reducible refine Le.ite (fun _ => ?_) (fun _ => ?_)
  exact Le.refl _ _
  with_reducible refine Le.ite (fun _ => ?_) (fun _ => ?_)
  with_reducible refine Le.next (setCmderr_le ..) (by decide) ?_
  exact Le.refl _ _
  with_reducible refine Le.ite (fun _ => ?_) (fun _ => ?_)
  with_reducible refine Le.next (setCmderr_le ..) (by decide) ?_
  exact Le.refl _ _
  with_reducible refine Le.ite (fun _ => ?_) (fun _ => ?_)
  with_reducible refine Le.next (dmiMemory_le ..) (by decide) ?_
  exact Le.refl _ _
  with_reducible refine Le.ite (fun _ => ?_) (fun _ => ?_)
  with_reducible refine Le.next (setCmderr_le ..) (by decide) ?_
  exact Le.refl _ _
  with_reducible refine Le.ite (fun _ => ?_) (fun _ => ?_)
  with_reducible refine Le.next (dmiPostexec_le ..) (by decide) ?_
  with_reducible refine Le.ite (fun _ => ?_) (fun _ => ?_)
  with_reducible refine Le.next (dmiRegister_le ..) (by decide) ?_
  exact Le.refl _ _
  exact Le.refl _ _
  with_reducible refine Le.ite (fun _ => ?_) (fun _ => ?_)
  with_reducible refine Le.next (dmiRegister_le ..) (by decide) ?_
  exact Le.refl _ _
  exact Le.refl _ _

theorem i3cBytes_le (off : Nat) (a1 : List Byte) (a2 : State) : Le 755794936 a2 (i3cBytes off a1 a2) := by
  induction a1 generalizing off a2 with
  | nil => exact Le.refl _ _
  | cons b r ih =>
    unfold i3cBytes
    with_reducible refine Le.next (ih ..) (by decide) ?_
    with_reducible refine Le.next (i3cByte_le ..) (by decide) ?_
    exact Le.refl _ _

theorem doRstact_le (whole : Bool) (s : State) : Le 771749887 s (doRstact whole s) := by
  unfold doRstact
  with_reducible refine Le.ite (fun _ => ?_) (fun _ => ?_)
  with_reducible refine Le.next (moduleReset_le ..) (by decide) ?_
  exact Le.refl _ _
  exact Le.refl _ _

theorem landAnswer_le (i : Issue) (t : Nat) (q : Nat) (chunk : Nat) (store : Bool) (lo : Nat) (parts : List (Nat × Nat × Nat × Nat)) (poison : Bool) (data : List Byte) : Le 757896185 i.s (landAnswer i t q chunk store lo parts poison data).1.s := by
  unfold landAnswer
  dsimp only
  with_reducible refine Le.iteP (fun w : Issue × _ => w.1.s) (fun _ => ?_) (fun _ => ?_)
  dsimp only
  with_reducible refine Le.next (landParts_le ..) (by decide) ?_
  dsimp only
  with_reducible refine Le.next (poisonOf_le ..) (by decide) ?_
  exact Le.refl _ _
  dsimp only
  with_reducible refine Le.next (landParts_le ..) (by decide) ?_
  exact Le.refl _ _

theorem doPowerState_le (r : Req) (target : Nat) (s : State) : Le 771684351 s (doPowerState r target s) := by
  unfold doPowerState
  dsimp only
  split
  with_reducible refine command_le _ _ _ _ _ _ ?_ (by decide) (fun p hbad => ?_)
  exact Le.refl _ _
  with_reducible refine Le.next (acceptLong_le ..) (by decide) ?_
  exact Le.refl _ _
  with_reducible refine command_le _ _ _ _ _ _ ?_ (by decide) (fun p hbad => ?_)
  exact Le.refl _ _
  split
  with_reducible refine Le.next (finishOp_le ..) (by decide) ?_
  with_reducible refine Le.next (setPosition_le ..) (by decide) ?_
  with_reducible refine Le.ite (fun _ => ?_) (fun _ => ?_)
  with_reducible refine Le.next (acceptLong_le ..) (by decide) ?_
  exact Le.refl _ _
  with_reducible refine Le.next (enterIdle_le ..) (by decide) ?_
  with_reducible refine Le.next (acceptLong_le ..) (by decide) ?_
  exact Le.refl _ _
  with_reducible refine Le.next (State.modPower_le ..) (by decide) ?_
  with_reducible refine Le.next (finishOp_le ..) (by decide) ?_
  with_reducible refine Le.next (setPosition_le ..) (by decide) ?_
  with_reducible refine Le.ite (fun _ => ?_) (fun _ => ?_)
  with_reducible refine Le.next (acceptLong_le ..) (by decide) ?_
  exact Le.refl _ _
  with_reducible refine Le.next (enterIdle_le ..) (by decide) ?_
  with_reducible refine Le.next (acceptLong_le ..) (by decide) ?_
  exact Le.refl _ _
  with_reducible refine Le.next (State.modPower_le ..) (by decide) ?_
  with_reducible refine Le.next (loseS2_le ..) (by decide) ?_
  with_reducible refine Le.next (finishOp_le ..) (by decide) ?_
  with_reducible refine Le.next (setPosition_le ..) (by decide) ?_
  with_reducible refine Le.ite (fun _ => ?_) (fun _ => ?_)
  with_reducible refine Le.next (acceptLong_le ..) (by decide) ?_
  exact Le.refl _ _
  with_reducible refine Le.next (enterIdle_le ..) (by decide) ?_
  with_reducible refine Le.next (acceptLong_le ..) (by decide) ?_
  exact Le.refl _ _
  with_reducible refine Le.next (State.modPower_le ..) (by decide) ?_
  with_reducible refine Le.next (loseS3_le ..) (by decide) ?_
  with_reducible refine Le.next (finishOp_le ..) (by decide) ?_
  with_reducible refine Le.next (setPosition_le ..) (by decide) ?_
  with_reducible refine Le.ite (fun _ => ?_) (fun _ => ?_)
  with_reducible refine Le.next (acceptLong_le ..) (by decide) ?_
  exact Le.refl _ _
  with_reducible refine Le.next (enterIdle_le ..) (by decide) ?_
  with_reducible refine Le.next (acceptLong_le ..) (by decide) ?_
  exact Le.refl _ _
  with_reducible refine Le.next (State.modPower_le ..) (by decide) ?_
  with_reducible refine Le.next (coldState_le ..) (by decide) ?_
  with_reducible refine Le.next (finishOp_le ..) (by decide) ?_
  with_reducible refine Le.next (setPosition_le ..) (by decide) ?_
  with_reducible refine Le.ite (fun _ => ?_) (fun _ => ?_)
  with_reducible refine Le.next (acceptLong_le ..) (by decide) ?_
  exact Le.refl _ _
  with_reducible refine Le.next (enterIdle_le ..) (by decide) ?_
  with_reducible refine Le.next (acceptLong_le ..) (by decide) ?_
  exact Le.refl _ _
  exact Le.refl _ _

theorem doPowerWake_le (src : Nat) (s : State) : Le 771749887 s (doPowerWake src s) := by
  unfold doPowerWake
  with_reducible refine Le.ite (fun _ => ?_) (fun _ => ?_)
  exact Le.refl _ _
  dsimp only
  split
  exact Le.refl _ _
  with_reducible refine Le.next (logEvent_le ..) (by decide) ?_
  with_reducible refine Le.next (resumeClusters_le ..) (by decide) ?_
  with_reducible refine Le.next (State.modPower_le ..) (by decide) ?_
  exact Le.refl _ _
  with_reducible refine Le.next (logEvent_le ..) (by decide) ?_
  with_reducible refine Le.next (restartUnits_le ..) (by decide) ?_
  with_reducible refine Le.next (resumeClusters_le ..) (by decide) ?_
  with_reducible refine Le.next (State.modPower_le ..) (by decide) ?_
  exact Le.refl _ _
  with_reducible refine Le.next (logEvent_le ..) (by decide) ?_
  with_reducible refine Le.next (beginInit_le ..) (by decide) ?_
  with_reducible refine Le.next (State.modPower_le ..) (by decide) ?_
  with_reducible refine Le.next (State.modBelul_le ..) (by decide) ?_
  with_reducible refine Le.forEach ?_ (fun x u hu => ?_)
  with_reducible refine Le.next (restartUnits_le ..) (by decide) ?_
  with_reducible refine Le.next (State.modPower_le ..) (by decide) ?_
  exact Le.refl _ _
  with_reducible refine Le.next (trainPair_le ..) (by decide) ?_
  with_reducible assumption
  with_reducible refine Le.next (moduleReset_le ..) (by decide) ?_
  exact Le.refl _ _

theorem poisonedWrite_le (s : State) (t : Nat) (q : Nat) (chunk : Nat) (cws : List (Nat × Nat)) : Le 757896185 s (poisonedWrite s t q chunk cws) := by
  unfold poisonedWrite
  dsimp only
  with_reducible refine Le.next (remoteAck_le ..) (by decide) ?_
  with_reducible refine Le.next (poisonOf_le ..) (by decide) ?_
  exact Le.refl _ _

theorem loadStep_le (s : State) (t : Nat) : Le 757896189 s (loadStep s t).1 := by
  unfold loadStep
  dsimp only
  split
  exact Le.refl _ _
  with_reducible refine Le.iteP (fun w : State × _ => w.1) (fun _ => ?_) (fun _ => ?_)
  dsimp only
  with_reducible refine Le.next (tileLoaded_le ..) (by decide) ?_
  exact Le.refl _ _
  split
  dsimp only
  with_reducible refine Le.next (loadError_le ..) (by decide) ?_
  with_reducible refine Le.next (bringChunk_le ..) (by decide) ?_
  exact Le.refl _ _
  with_reducible refine Le.iteP (fun w : State × _ => w.1) (fun _ => ?_) (fun _ => ?_)
  dsimp only
  with_reducible refine Le.next (bringChunk_le ..) (by decide) ?_
  exact Le.refl _ _
  split
  dsimp only
  with_reducible refine Le.next (loadError_le ..) (by decide) ?_
  with_reducible refine Le.next (putChunk_le ..) (by decide) ?_
  with_reducible refine Le.next (bringChunk_le ..) (by decide) ?_
  exact Le.refl _ _
  dsimp only
  with_reducible refine Le.next (loadNext_le ..) (by decide) ?_
  with_reducible refine Le.next (putChunk_le ..) (by decide) ?_
  with_reducible refine Le.next (bringChunk_le ..) (by decide) ?_
  exact Le.refl _ _

theorem doStbyPowerLoss_le (s : State) : Le 771749887 s (doStbyPowerLoss s) := by
  unfold doStbyPowerLoss
  dsimp only
  with_reducible refine Le.next (Le.power_boot _ _ _ ?_) (by decide) ?_
  with_reducible exact fun h => BootOk.of h rfl rfl
  with_reducible refine Le.next (moduleReset_le ..) (by decide) ?_
  exact Le.refl _ _

theorem doPowerOn_le (s : State) : Le 771749887 s (doPowerOn s) := by
  unfold doPowerOn
  dsimp only
  with_reducible refine Le.next (Le.boot _ _ ?_) (by decide) ?_
  with_reducible exact fun h => BootOk.of h rfl rfl
  with_reducible refine Le.next (moduleReset_le ..) (by decide) ?_
  exact Le.refl _ _

theorem doSupply_le (s : State) : Le 771749887 s (doSupply s) := by
  unfold doSupply
  with_reducible refine Le.ite (fun _ => ?_) (fun _ => ?_)
  exact Le.refl _ _
  dsimp only
  with_reducible refine Le.next (Le.power ..) (by decide) ?_
  with_reducible refine Le.next (moduleReset_le ..) (by decide) ?_
  exact Le.refl _ _

theorem doExternal_le (s : State) : Le 771749887 s (doExternal s) := by
  unfold doExternal
  with_reducible refine Le.ite (fun _ => ?_) (fun _ => ?_)
  exact Le.refl _ _
  with_reducible refine Le.next (State.modBoot_le _ _ ?_) (by decide) ?_
  with_reducible exact fun h => BootOk.of h rfl rfl
  with_reducible refine Le.next (moduleReset_le ..) (by decide) ?_
  exact Le.refl _ _

theorem doWatchdog_le (s : State) : Le 771749887 s (doWatchdog s) := by
  unfold doWatchdog
  with_reducible refine Le.ite (fun _ => ?_) (fun _ => ?_)
  with_reducible refine Le.next (moduleReset_le ..) (by decide) ?_
  exact Le.refl _ _
  exact Le.refl _ _

theorem startDies_le (s : State) (i : StartIn) : Le 771749887 s (startDies s i) := by
  unfold startDies
  dsimp only
  with_reducible refine Le.ite (fun _ => ?_) (fun _ => ?_)
  with_reducible refine Le.next (faultPath_le ..) (by decide) ?_
  with_reducible refine Le.next (State.modBoot_le _ _ ?_) (by decide) ?_
  with_reducible exact fun h => BootOk.of h rfl rfl
  exact Le.refl _ _
  with_reducible refine Le.ite (fun _ => ?_) (fun _ => ?_)
  with_reducible refine Le.next (State.modBoot_le _ _ ?_) (by decide) ?_
  with_reducible exact fun h => BootOk.of h rfl rfl
  with_reducible refine Le.next (State.modBoot_le _ _ ?_) (by decide) ?_
  with_reducible exact fun h => BootOk.of h rfl rfl
  exact Le.refl _ _
  with_reducible refine Le.ite (fun _ => ?_) (fun _ => ?_)
  with_reducible refine Le.next (faultPath_le ..) (by decide) ?_
  with_reducible refine Le.next (measureDies_le ..) (by decide) ?_
  with_reducible refine Le.next (State.modBoot_le _ _ ?_) (by decide) ?_
  with_reducible exact fun h => BootOk.of h rfl rfl
  with_reducible refine Le.next (State.modBoot_le _ _ ?_) (by decide) ?_
  with_reducible exact fun h => BootOk.of h rfl rfl
  exact Le.refl _ _
  with_reducible refine Le.ite (fun _ => ?_) (fun _ => ?_)
  with_reducible refine Le.next (faultPath_le ..) (by decide) ?_
  with_reducible refine Le.next (applyRecords_le ..) (by decide) ?_
  with_reducible refine Le.next (measureDies_le ..) (by decide) ?_
  with_reducible refine Le.next (State.modBoot_le _ _ ?_) (by decide) ?_
  with_reducible exact fun h => BootOk.of h rfl rfl
  with_reducible refine Le.next (State.modBoot_le _ _ ?_) (by decide) ?_
  with_reducible exact fun h => BootOk.of h rfl rfl
  exact Le.refl _ _
  with_reducible refine Le.ite (fun _ => ?_) (fun _ => ?_)
  with_reducible refine Le.next (faultPath_le ..) (by decide) ?_
  with_reducible refine Le.next (applyRecords_le ..) (by decide) ?_
  with_reducible refine Le.next (measureDies_le ..) (by decide) ?_
  with_reducible refine Le.next (State.modBoot_le _ _ ?_) (by decide) ?_
  with_reducible exact fun h => BootOk.of h rfl rfl
  with_reducible refine Le.next (State.modBoot_le _ _ ?_) (by decide) ?_
  with_reducible exact fun h => BootOk.of h rfl rfl
  exact Le.refl _ _
  with_reducible refine Le.ite (fun _ => ?_) (fun _ => ?_)
  with_reducible refine Le.next (faultPath_le ..) (by decide) ?_
  with_reducible refine Le.next (bringUp_le ..) (by decide) ?_
  with_reducible refine Le.next (applyRecords_le ..) (by decide) ?_
  with_reducible refine Le.next (measureDies_le ..) (by decide) ?_
  with_reducible refine Le.next (State.modBoot_le _ _ ?_) (by decide) ?_
  with_reducible exact fun h => BootOk.of h rfl rfl
  with_reducible refine Le.next (State.modBoot_le _ _ ?_) (by decide) ?_
  with_reducible exact fun h => BootOk.of h rfl rfl
  exact Le.refl _ _
  with_reducible refine Le.ite (fun _ => ?_) (fun _ => ?_)
  with_reducible refine Le.next (faultPath_le ..) (by decide) ?_
  with_reducible refine Le.next (bringUp_le ..) (by decide) ?_
  with_reducible refine Le.next (applyRecords_le ..) (by decide) ?_
  with_reducible refine Le.next (measureDies_le ..) (by decide) ?_
  with_reducible refine Le.next (State.modBoot_le _ _ ?_) (by decide) ?_
  with_reducible exact fun h => BootOk.of h rfl rfl
  with_reducible refine Le.next (State.modBoot_le _ _ ?_) (by decide) ?_
  with_reducible exact fun h => BootOk.of h rfl rfl
  exact Le.refl _ _
  with_reducible refine Le.next (reachRunning_le ..) (by decide) ?_
  with_reducible refine Le.next (bringUp_le ..) (by decide) ?_
  with_reducible refine Le.next (applyRecords_le ..) (by decide) ?_
  with_reducible refine Le.next (measureDies_le ..) (by decide) ?_
  with_reducible refine Le.next (State.modBoot_le _ _ ?_) (by decide) ?_
  with_reducible exact fun h => BootOk.of h rfl rfl
  with_reducible refine Le.next (State.modBoot_le _ _ ?_) (by decide) ?_
  with_reducible exact fun h => BootOk.of h rfl rfl
  exact Le.refl _ _

theorem chunkThrough_le (s : State) (t : Nat) (c : ChainCfg) (run : ChainRun) (stop : Nat) (ch : Chunk) : Le 758944761 s (chunkThrough s t c run stop ch) := by
  unfold chunkThrough
  dsimp only
  with_reducible refine Le.next (releaseUnneeded_le ..) (by decide) ?_
  with_reducible refine Le.next (keepChunk_le ..) (by decide) ?_
  with_reducible refine Le.next (modChain_le ..) (by decide) ?_
  with_reducible refine Le.next (chainWork_le ..) (by decide) ?_
  with_reducible refine Le.next (tileCycles_le ..) (by decide) ?_
  with_reducible refine Le.next (chainCycles_le ..) (by decide) ?_
  exact Le.refl _ _

theorem chainPassOver_le (t : Nat) (s : State) : Le 758944761 s (chainPassOver t s) := by
  unfold chainPassOver
  dsimp only
  split
  exact Le.refl _ _
  split
  exact Le.refl _ _
  with_reducible refine Le.ite (fun _ => ?_) (fun _ => ?_)
  exact Le.refl _ _
  split
  with_reducible refine Le.ite (fun _ => ?_) (fun _ => ?_)
  with_reducible refine Le.next (State.modTile_le ..) (by decide) ?_
  with_reducible refine Le.next (endEntry_le ..) (by decide) ?_
  with_reducible refine Le.next (stopPass_le ..) (by decide) ?_
  exact Le.refl _ _
  with_reducible refine Le.next (keepChunk_le ..) (by decide) ?_
  with_reducible refine Le.next (modChain_le ..) (by decide) ?_
  with_reducible refine Le.next (stopPass_le ..) (by decide) ?_
  exact Le.refl _ _
  with_reducible refine Le.ite (fun _ => ?_) (fun _ => ?_)
  exact Le.refl _ _
  with_reducible refine Le.ite (fun _ => ?_) (fun _ => ?_)
  with_reducible refine Le.next (State.modTile_le ..) (by decide) ?_
  with_reducible refine Le.next (endEntry_le ..) (by decide) ?_
  with_reducible refine Le.next (landWork_le ..) (by decide) ?_
  with_reducible refine Le.next (Work.finish_le ..) (by decide) ?_
  exact Le.refl _ _
  with_reducible refine Le.next (keepChunk_le ..) (by decide) ?_
  with_reducible refine Le.next (modChain_le ..) (by decide) ?_
  with_reducible refine Le.next (landWork_le ..) (by decide) ?_
  with_reducible refine Le.next (Work.finish_le ..) (by decide) ?_
  exact Le.refl _ _

theorem chainAbort_le (s : State) (t : Nat) : Le 757896185 s (chainAbort s t) := by
  unfold chainAbort
  dsimp only
  split
  exact Le.refl _ _
  with_reducible refine Le.next (keepChunk_le ..) (by decide) ?_
  with_reducible refine Le.next (stopPass_le ..) (by decide) ?_
  exact Le.refl _ _

theorem dmiWrite_le (t : Nat) (a : Nat) (val : W32) (s : State) : Le 792515385 s (dmiWrite t a val s) := by
  unfold dmiWrite
  split
  with_reducible refine Le.next (State.modCore_le ..) (by decide) ?_
  exact Le.refl _ _
  with_reducible refine Le.next (State.modCore_le ..) (by decide) ?_
  exact Le.refl _ _
  with_reducible refine Le.ite (fun _ => ?_) (fun _ => ?_)
  with_reducible refine Le.next (haltTile_le ..) (by decide) ?_
  exact Le.refl _ _
  with_reducible refine Le.ite (fun _ => ?_) (fun _ => ?_)
  with_reducible refine Le.next (resumeRequest_le ..) (by decide) ?_
  exact Le.refl _ _
  exact Le.refl _ _
  with_reducible refine Le.next (State.modCore_le ..) (by decide) ?_
  exact Le.refl _ _
  with_reducible refine Le.next (doDmiAbstractCommand_le ..) (by decide) ?_
  exact Le.refl _ _
  with_reducible refine Le.next (State.modCore_le ..) (by decide) ?_
  exact Le.refl _ _
  with_reducible refine Le.next (State.modCore_le ..) (by decide) ?_
  exact Le.refl _ _
  exact Le.refl _ _

theorem doI3cPrivateWrite_le (off : BitVec 16) (bytes : List Byte) (s : State) : Le 755860472 s (doI3cPrivateWrite off bytes s) := by
  unfold doI3cPrivateWrite
  with_reducible refine Le.ite (fun _ => ?_) (fun _ => ?_)
  exact Le.refl _ _
  with_reducible refine Le.next (i3cBytes_le ..) (by decide) ?_
  with_reducible refine Le.next (Le.i3c ..) (by decide) ?_
  exact Le.refl _ _

theorem Issue.readFar_le (i : Issue) (t : Nat) (q : Nat) (chunk : Nat) (store : Bool) (l : Lease) (lo : Nat) (hi : Nat) (ps : List (Nat × Nat × Nat × Nat)) : Le 757896185 i.s (Issue.readFar i t q chunk store l lo hi ps).s := by
  unfold Issue.readFar
  dsimp only
  split
  dsimp only
  with_reducible refine Le.next (landAnswer_le ..) (by decide) ?_
  dsimp only
  with_reducible refine Le.next (sendRemote_le ..) (by decide) ?_
  exact Le.refl _ _
  with_reducible refine Le.next (Issue.sent_le ..) (by decide) ?_
  with_reducible refine Le.next (sendRemote_le ..) (by decide) ?_
  exact Le.refl _ _

theorem landRead_le (s : State) (t : Nat) (q : Nat) (chunk : Nat) (lo : Nat) (store : Bool) (parts : List (Nat × Nat × Nat × Nat)) (poison : Bool) (bytes : List Byte) : Le 757896185 s (landRead s t q chunk lo store parts poison bytes) := by
  unfold landRead
  dsimp only
  split
  exact Le.refl _ _
  split
  exact Le.refl _ _
  with_reducible refine Le.next (remoteAck_le ..) (by decide) ?_
  with_reducible refine Le.next (modEntry_le ..) (by decide) ?_
  with_reducible refine Le.next (modChunk_le ..) (by decide) ?_
  with_reducible refine Le.next (landAnswer_le ..) (by decide) ?_
  exact Le.refl _ _

theorem loadGo_le (a0 : Nat) (a1 : State) (a2 : Nat) : Le 757896189 a1 (loadGo a0 a1 a2) := by
  induction a0 generalizing a1 a2 with
  | zero => exact Le.refl _ _
  | succ n ih =>
    unfold loadGo
    dsimp only
    with_reducible refine Le.ite (fun _ => ?_) (fun _ => ?_)
    with_reducible refine Le.next (ih ..) (by decide) ?_
    with_reducible refine Le.next (loadStep_le ..) (by decide) ?_
    exact Le.refl _ _
    with_reducible refine Le.next (loadStep_le ..) (by decide) ?_
    exact Le.refl _ _

theorem doPierFatalError_le (_p : Nat) (s : State) : Le 771749887 s (doPierFatalError _p s) := by
  unfold doPierFatalError
  with_reducible refine Le.ite (fun _ => ?_) (fun _ => ?_)
  with_reducible refine Le.next (faultPath_le ..) (by decide) ?_
  exact Le.refl _ _
  exact Le.refl _ _

theorem pairDown_le (s : State) (l : Nat) (n : Nat) (step : Nat) : Le 771751935 s (pairDown s l n step) := by
  unfold pairDown
  dsimp only
  with_reducible refine Le.ite (fun _ => ?_) (fun _ => ?_)
  with_reducible refine Le.next (faultPath_le ..) (by decide) ?_
  with_reducible refine Le.next (logStored_le ..) (by decide) ?_
  with_reducible refine Le.ite (fun _ => ?_) (fun _ => ?_)
  with_reducible refine Le.forEach ?_ (fun x u hu => ?_)
  with_reducible refine Le.next (markDegraded_le ..) (by decide) ?_
  with_reducible refine Le.next (endPairOp_le ..) (by decide) ?_
  with_reducible refine Le.next (State.modPair_le ..) (by decide) ?_
  with_reducible refine Le.next (pairStep_le ..) (by decide) ?_
  exact Le.refl _ _
  with_reducible refine Le.next (dieDegraded_le ..) (by decide) ?_
  with_reducible assumption
  with_reducible refine Le.next (endPairOp_le ..) (by decide) ?_
  with_reducible refine Le.next (State.modPair_le ..) (by decide) ?_
  with_reducible refine Le.next (pairStep_le ..) (by decide) ?_
  exact Le.refl _ _
  with_reducible refine Le.ite (fun _ => ?_) (fun _ => ?_)
  with_reducible refine Le.forEach ?_ (fun x u hu => ?_)
  with_reducible refine Le.next (markDegraded_le ..) (by decide) ?_
  with_reducible refine Le.next (endPairOp_le ..) (by decide) ?_
  with_reducible refine Le.next (State.modPair_le ..) (by decide) ?_
  with_reducible refine Le.next (pairStep_le ..) (by decide) ?_
  exact Le.refl _ _
  with_reducible refine Le.next (dieDegraded_le ..) (by decide) ?_
  with_reducible assumption
  with_reducible refine Le.next (endPairOp_le ..) (by decide) ?_
  with_reducible refine Le.next (State.modPair_le ..) (by decide) ?_
  with_reducible refine Le.next (pairStep_le ..) (by decide) ?_
  exact Le.refl _ _

theorem doModuleStart_le (i : StartIn) (s : State) : Le 771749887 s (doModuleStart i s) := by
  unfold doModuleStart
  with_reducible refine Le.ite (fun _ => ?_) (fun _ => ?_)
  exact Le.refl _ _
  dsimp only
  with_reducible refine Le.ite (fun _ => ?_) (fun _ => ?_)
  with_reducible refine Le.next (State.modBoot_le _ _ ?_) (by decide) ?_
  with_reducible exact fun h => BootOk.of h rfl rfl
  with_reducible refine Le.next (measureRom_le ..) (by decide) ?_
  with_reducible refine Le.next (State.modPower_le ..) (by decide) ?_
  exact Le.refl _ _
  with_reducible refine Le.next (startDies_le ..) (by decide) ?_
  with_reducible refine Le.next (State.modBoot_le _ _ ?_) (by decide) ?_
  with_reducible exact fun h => BootOk.of h rfl rfl
  with_reducible refine Le.next (measureRom_le ..) (by decide) ?_
  with_reducible refine Le.next (State.modPower_le ..) (by decide) ?_
  exact Le.refl _ _

theorem beginChunk_le (s : State) (t : Nat) (c : ChainCfg) (run : ChainRun) (plan : Nat × Needs) : Le 758944761 s (beginChunk s t c run plan) := by
  unfold beginChunk
  dsimp only
  split
  exact Le.refl _ _
  with_reducible refine Le.ite (fun _ => ?_) (fun _ => ?_)
  with_reducible refine Le.next (chunkThrough_le ..) (by decide) ?_
  exact Le.refl _ _
  with_reducible refine Le.ite (fun _ => ?_) (fun _ => ?_)
  with_reducible refine Le.next (chunkThrough_le ..) (by decide) ?_
  with_reducible refine Le.next (modChain_le ..) (by decide) ?_
  with_reducible refine Le.next (stageReads_le ..) (by decide) ?_
  with_reducible refine Le.next (State.modQueue_le ..) (by decide) ?_
  with_reducible refine Le.next (modEntry_le ..) (by decide) ?_
  with_reducible refine Le.next (stageBytes_le ..) (by decide) ?_
  with_reducible refine Le.next (countTile_le ..) (by decide) ?_
  with_reducible refine Le.next (traceDesc_le ..) (by decide) ?_
  with_reducible refine Le.next (tileEvent_le ..) (by decide) ?_
  exact Le.refl _ _
  with_reducible refine Le.next (keepChunk_le ..) (by decide) ?_
  with_reducible refine Le.next (modChain_le ..) (by decide) ?_
  with_reducible refine Le.next (stageReads_le ..) (by decide) ?_
  with_reducible refine Le.next (State.modQueue_le ..) (by decide) ?_
  with_reducible refine Le.next (modEntry_le ..) (by decide) ?_
  with_reducible refine Le.next (stageBytes_le ..) (by decide) ?_
  with_reducible refine Le.next (countTile_le ..) (by decide) ?_
  with_reducible refine Le.next (traceDesc_le ..) (by decide) ?_
  with_reducible refine Le.next (tileEvent_le ..) (by decide) ?_
  exact Le.refl _ _

theorem doChainPassEnd_le (t : Nat) (flips : Flips) (s : State) : Le 758944761 s (doChainPassEnd t flips s) := by
  unfold doChainPassEnd
  with_reducible refine withFlips_le _ _ _ (by decide) ?_ (fun u hu => ?_)
  exact Le.refl _ _
  with_reducible refine Le.next (chainPassOver_le ..) (by decide) ?_
  with_reducible assumption

theorem doDrainComplete_le (t : Nat) (s : State) : Le 758961149 s (doDrainComplete t s) := by
  unfold doDrainComplete
  dsimp only
  with_reducible refine Le.ite (fun _ => ?_) (fun _ => ?_)
  exact Le.refl _ _
  split
  exact Le.refl _ _
  with_reducible refine Le.next (finishMove_le ..) (by decide) ?_
  exact Le.refl _ _
  with_reducible refine Le.ite (fun _ => ?_) (fun _ => ?_)
  with_reducible refine Le.next (resumeTile_le ..) (by decide) ?_
  with_reducible refine Le.next (tileDone_le ..) (by decide) ?_
  with_reducible refine Le.next (State.modTile_le ..) (by decide) ?_
  exact Le.refl _ _
  with_reducible refine Le.next (tileDone_le ..) (by decide) ?_
  with_reducible refine Le.next (State.modTile_le ..) (by decide) ?_
  exact Le.refl _ _
  with_reducible refine Le.next (tileDone_le ..) (by decide) ?_
  with_reducible refine Le.next (tileDone_le ..) (by decide) ?_
  with_reducible refine Le.next (State.modTile_le ..) (by decide) ?_
  with_reducible refine Le.forEach ?_ (fun x u hu => ?_)
  with_reducible refine Le.next (chainAbort_le ..) (by decide) ?_
  exact Le.refl _ _
  with_reducible refine Le.next (stopQueue_le ..) (by decide) ?_
  with_reducible assumption
  with_reducible refine Le.next (tileDone_le ..) (by decide) ?_
  with_reducible refine Le.next (tileDone_le ..) (by decide) ?_
  with_reducible refine Le.next (State.modTile_le ..) (by decide) ?_
  with_reducible refine Le.forEach ?_ (fun x u hu => ?_)
  with_reducible refine Le.next (chainAbort_le ..) (by decide) ?_
  exact Le.refl _ _
  with_reducible refine Le.next (stopQueue_le ..) (by decide) ?_
  with_reducible assumption

theorem unitWrite_le (addr : Nat) (val : W32) (s : State) : ∀ t, unitWrite addr val s = some t → Le 792515581 s t := by
  unfold unitWrite
  refine orElse_le (map_le fun x => ?_) (orElse_le (map_le fun x => ?_) (orElse_le (map_le fun x => ?_) (orElse_le (map_le fun x => ?_) (map_le fun x => ?_))))
  · exact Le.next (belulWrite_le ..) (by decide) (Le.refl _ _)
  · dsimp only
    split
    · exact regChange_le _ _ _ _ (Le.refl _ _) (Le.next (dmiWrite_le ..) (by decide) (Le.refl _ _))
    · exact Le.next (tileWrite_le ..) (by decide) (Le.refl _ _)
  · exact Le.next (ksWrite_le ..) (by decide) (Le.refl _ _)
  · exact Le.next (memchWrite_le ..) (by decide) (Le.refl _ _)
  · exact Le.next (pcacheWrite_le ..) (by decide) (Le.refl _ _)

theorem Issue.readAllFar_le (i : Issue) (t : Nat) (q : Nat) (chunk : Nat) (store : Bool) (ps : List (Nat × Nat × Nat × Nat)) : Le 757896185 i.s (Issue.readAllFar i t q chunk store ps).s := by
  unfold Issue.readAllFar
  with_reducible refine Le.foldlP (fun w : Issue => w.s) ?_ (fun u x hu => ?_)
  exact Le.refl _ _
  with_reducible refine Le.next (Issue.readFar_le ..) (by decide) ?_
  with_reducible assumption

theorem loadAnswer_le (s : State) (t : Nat) (va : Nat) (len : Nat) (data : List Byte) (bad : Bool) : Le 757896189 s (loadAnswer s t va len data bad) := by
  unfold loadAnswer
  dsimp only
  split
  exact Le.refl _ _
  with_reducible refine Le.ite (fun _ => ?_) (fun _ => ?_)
  exact Le.refl _ _
  with_reducible refine Le.ite (fun _ => ?_) (fun _ => ?_)
  with_reducible refine Le.next (State.modTile_le ..) (by decide) ?_
  with_reducible refine Le.iteP (fun w : State × _ => w.1) (fun _ => ?_) (fun _ => ?_)
  with_reducible refine Le.next (poisonedCws_le ..) (by decide) ?_
  exact Le.refl _ _
  exact Le.refl _ _
  split
  with_reducible refine Le.next (loadError_le ..) (by decide) ?_
  with_reducible refine Le.next (State.modTile_le ..) (by decide) ?_
  with_reducible refine Le.iteP (fun w : State × _ => w.1) (fun _ => ?_) (fun _ => ?_)
  with_reducible refine Le.next (poisonedCws_le ..) (by decide) ?_
  exact Le.refl _ _
  exact Le.refl _ _
  split
  with_reducible refine Le.next (loadError_le ..) (by decide) ?_
  with_reducible refine Le.next (putChunk_le ..) (by decide) ?_
  with_reducible refine Le.next (State.modTile_le ..) (by decide) ?_
  with_reducible refine Le.iteP (fun w : State × _ => w.1) (fun _ => ?_) (fun _ => ?_)
  with_reducible refine Le.next (poisonedCws_le ..) (by decide) ?_
  exact Le.refl _ _
  exact Le.refl _ _
  with_reducible refine Le.next (loadGo_le ..) (by decide) ?_
  with_reducible refine Le.next (loadNext_le ..) (by decide) ?_
  with_reducible refine Le.next (putChunk_le ..) (by decide) ?_
  with_reducible refine Le.next (State.modTile_le ..) (by decide) ?_
  with_reducible refine Le.iteP (fun w : State × _ => w.1) (fun _ => ?_) (fun _ => ?_)
  with_reducible refine Le.next (poisonedCws_le ..) (by decide) ?_
  exact Le.refl _ _
  exact Le.refl _ _

theorem actLoad_le (t : Nat) (s : State) : Le 758944765 s (actLoad t s) := by
  unfold actLoad
  dsimp only
  split
  exact Le.refl _ _
  with_reducible refine Le.next (loadGo_le ..) (by decide) ?_
  with_reducible refine Le.ite (fun _ => ?_) (fun _ => ?_)
  exact Le.refl _ _
  with_reducible refine Le.next (traceTile_le ..) (by decide) ?_
  with_reducible refine Le.next (State.modTile_le ..) (by decide) ?_
  exact Le.refl _ _

theorem doBundleTrainingDone_le (l : Nat) (n : Nat) (idW : BundleId) (idE : BundleId) (align : Bool) (freshE : BitVec 68) (freshW : BitVec 68) (s : State) : Le 771751935 s (doBundleTrainingDone l n idW idE align freshE freshW s) := by
  unfold doBundleTrainingDone
  dsimp only
  with_reducible refine Le.ite (fun _ => ?_) (fun _ => ?_)
  exact Le.refl _ _
  with_reducible refine Le.ite (fun _ => ?_) (fun _ => ?_)
  with_reducible refine Le.next (pairDown_le ..) (by decide) ?_
  exact Le.refl _ _
  with_reducible refine Le.ite (fun _ => ?_) (fun _ => ?_)
  with_reducible refine Le.next (pairDown_le ..) (by decide) ?_
  with_reducible refine Le.next (recordLanes_le ..) (by decide) ?_
  with_reducible refine Le.next (recordLanes_le ..) (by decide) ?_
  exact Le.refl _ _
  with_reducible refine Le.ite (fun _ => ?_) (fun _ => ?_)
  with_reducible refine Le.next (pairDown_le ..) (by decide) ?_
  with_reducible refine Le.next (recordLanes_le ..) (by decide) ?_
  with_reducible refine Le.next (recordLanes_le ..) (by decide) ?_
  exact Le.refl _ _
  with_reducible refine Le.ite (fun _ => ?_) (fun _ => ?_)
  with_reducible refine Le.next (pairStep_le ..) (by decide) ?_
  with_reducible refine Le.next (State.modPair_le ..) (by decide) ?_
  with_reducible refine Le.next (recordLanes_le ..) (by decide) ?_
  with_reducible refine Le.next (recordLanes_le ..) (by decide) ?_
  exact Le.refl _ _
  with_reducible refine Le.next (State.send_le ..) (by decide) ?_
  with_reducible refine Le.next (State.send_le ..) (by decide) ?_
  with_reducible refine Le.next (initBundle_le ..) (by decide) ?_
  with_reducible refine Le.next (initBundle_le ..) (by decide) ?_
  with_reducible refine Le.next (pairStep_le ..) (by decide) ?_
  with_reducible refine Le.next (State.modPair_le ..) (by decide) ?_
  with_reducible refine Le.next (recordLanes_le ..) (by decide) ?_
  with_reducible refine Le.next (recordLanes_le ..) (by decide) ?_
  exact Le.refl _ _

theorem chainChunkEnd_le (t : Nat) (s : State) : Le 758944761 s (chainChunkEnd t s) := by
  unfold chainChunkEnd
  dsimp only
  split
  exact Le.refl _ _
  split
  exact Le.refl _ _
  split
  with_reducible refine Le.ite (fun _ => ?_) (fun _ => ?_)
  exact Le.refl _ _
  split
  with_reducible refine Le.ite (fun _ => ?_) (fun _ => ?_)
  with_reducible refine Le.next (chunkThrough_le ..) (by decide) ?_
  exact Le.refl _ _
  exact Le.refl _ _
  with_reducible refine Le.next (keepChunk_le ..) (by decide) ?_
  exact Le.refl _ _
  with_reducible refine Le.ite (fun _ => ?_) (fun _ => ?_)
  exact Le.refl _ _
  with_reducible refine Le.ite (fun _ => ?_) (fun _ => ?_)
  exact Le.refl _ _
  with_reducible refine Le.next (beginChunk_le ..) (by decide) ?_
  with_reducible refine Le.next (State.modTile_le ..) (by decide) ?_
  exact Le.refl _ _

theorem wordWrite_le (addr : Nat) (val : W32) (s : State) : Le 796840957 s (wordWrite addr val s) := by
  unfold wordWrite
  split
  · exact Le.next (doCntrstWrite_le ..) (by decide) (Le.refl _ _)
  · split
    · rename_i t ht
      exact orElse_le (fun t h => Le.next (unitWrite_le _ _ _ t h) (by decide) (Le.refl _ _))
        (fun t h => Le.next (soloWrite_le _ _ _ t h) (by decide) (Le.refl _ _)) t ht
    · refine Le.ite (fun _ => Le.next (hostintWrite_le ..) (by decide) (Le.refl _ _)) fun _ => Le.ite (fun _ => ?_) fun _ => ?_
      · exact Le.next (importWrite_le ..) (by decide) (Le.refl _ _)
      · exact Le.next (doSeteipnumWrite_le ..) (by decide) (Le.refl _ _)

theorem moveChunk_le (i : Issue) (t : Nat) (q : Nat) (chunk : Nat) (img : Tab Byte) (e : QEntry) (elems : List Nat) : Le 757896185 i.s (moveChunk i t q chunk img e elems).s := by
  unfold moveChunk
  dsimp only
  with_reducible refine Le.next (Issue.readAllFar_le ..) (by decide) ?_
  with_reducible refine Le.next (Issue.putMem_le ..) (by decide) ?_
  dsimp only
  with_reducible refine Le.next (putScatter_le ..) (by decide) ?_
  with_reducible refine Le.foldlP (fun w : Move => w.i.s) ?_ (fun u x hu => ?_)
  exact Le.refl _ _
  with_reducible refine Le.next (Move.elem_le ..) (by decide) ?_
  with_reducible assumption

theorem answerRem_le (s : State) (k : RemKind) (addr : Nat) (a : Answer) : Le 758944767 s (answerRem s k addr a) := by
  unfold answerRem
  split
  with_reducible refine Le.next (landRead_le ..) (by decide) ?_
  exact Le.refl _ _
  with_reducible refine Le.next (remoteAck_le ..) (by decide) ?_
  exact Le.refl _ _
  with_reducible refine Le.next (remoteAck_le ..) (by decide) ?_
  exact Le.refl _ _
  with_reducible refine Le.ite (fun _ => ?_) (fun _ => ?_)
  with_reducible refine Le.next (poisonedWrite_le ..) (by decide) ?_
  exact Le.refl _ _
  with_reducible refine Le.next (remoteAck_le ..) (by decide) ?_
  exact Le.refl _ _
  with_reducible refine Le.next (remoteAck_le ..) (by decide) ?_
  exact Le.refl _ _
  with_reducible refine Le.next (remoteAck_le ..) (by decide) ?_
  exact Le.refl _ _
  with_reducible refine Le.next (remoteAck_le ..) (by decide) ?_
  exact Le.refl _ _
  with_reducible refine Le.next (remoteAck_le ..) (by decide) ?_
  exact Le.refl _ _
  with_reducible refine Le.next (remoteAck_le ..) (by decide) ?_
  exact Le.refl _ _
  with_reducible refine chainAnswer_le _ _ _ _ (by decide) ?_ (fun run => ?_)
  exact Le.refl _ _
  with_reducible refine Le.iteP (fun w : State × _ => w.1) (fun _ => ?_) (fun _ => ?_)
  with_reducible refine Le.next (markPoison_le ..) (by decide) ?_
  exact Le.refl _ _
  exact Le.refl _ _
  with_reducible refine chainAnswer_le _ _ _ _ (by decide) ?_ (fun run => ?_)
  exact Le.refl _ _
  exact Le.refl _ _
  with_reducible refine chainAnswer_le _ _ _ _ (by decide) ?_ (fun run => ?_)
  exact Le.refl _ _
  exact Le.refl _ _
  with_reducible refine chainAnswer_le _ _ _ _ (by decide) ?_ (fun run => ?_)
  exact Le.refl _ _
  split
  with_reducible refine Le.next (poisonedEnd_le ..) (by decide) ?_
  exact Le.refl _ _
  exact Le.refl _ _
  with_reducible refine chainAnswer_le _ _ _ _ (by decide) ?_ (fun run => ?_)
  exact Le.refl _ _
  exact Le.refl _ _
  with_reducible refine chainAnswer_le _ _ _ _ (by decide) ?_ (fun run => ?_)
  exact Le.refl _ _
  exact Le.refl _ _
  with_reducible refine Le.next (loadAnswer_le ..) (by decide) ?_
  exact Le.refl _ _
  exact Le.refl _ _
  with_reducible refine Le.next (loadAnswer_le ..) (by decide) ?_
  exact Le.refl _ _
  exact Le.refl _ _
  with_reducible refine Le.next (farAnswer_le ..) (by decide) ?_
  exact Le.refl _ _
  with_reducible refine Le.next (farAnswer_le ..) (by decide) ?_
  exact Le.refl _ _
  with_reducible refine Le.ite (fun _ => ?_) (fun _ => ?_)
  with_reducible refine Le.next (State.send_le ..) (by decide) ?_
  exact Le.refl _ _
  with_reducible refine Le.next (State.send_le ..) (by decide) ?_
  exact Le.refl _ _
  exact Le.refl _ _
  with_reducible refine Le.next (State.send_le ..) (by decide) ?_
  exact Le.refl _ _
  exact Le.refl _ _
  exact Le.refl _ _
  with_reducible refine Le.next (logEvent_le ..) (by decide) ?_
  exact Le.refl _ _

theorem doTileLoad_le (r : Req) (ts : TileSet) (va : Nat) (len : Nat) (off : Nat) (tag : Nat) (s : State) : Le 758944765 s (doTileLoad r ts va len off tag s) := by
  unfold doTileLoad
  with_reducible refine Le.ite (fun _ => ?_) (fun _ => ?_)
  exact Le.refl _ _
  with_reducible refine command_le _ _ _ _ _ _ ?_ (by decide) (fun p hbad => ?_)
  exact Le.refl _ _
  with_reducible refine onTiles_le _ _ _ _ _ ?_ (by decide) ?_
  exact Le.refl _ _
  dsimp only
  with_reducible refine Le.ite (fun _ => ?_) (fun _ => ?_)
  with_reducible refine Le.next (finishOp_le ..) (by decide) ?_
  with_reducible refine Le.next (setPosition_le ..) (by decide) ?_
  with_reducible refine Le.forEach ?_ (fun x u hu => ?_)
  with_reducible refine Le.next (acceptLong_le ..) (by decide) ?_
  exact Le.refl _ _
  with_reducible refine Le.next (State.modTile_le ..) (by decide) ?_
  with_reducible assumption
  with_reducible refine Le.forEach ?_ (fun x u hu => ?_)
  with_reducible refine Le.forEach ?_ (fun x u hu => ?_)
  with_reducible refine Le.next (acceptLong_le ..) (by decide) ?_
  exact Le.refl _ _
  with_reducible refine Le.next (State.modTile_le ..) (by decide) ?_
  with_reducible assumption
  with_reducible refine Le.next (actLoad_le ..) (by decide) ?_
  with_reducible assumption

theorem doStoreFillComplete_le (t : Nat) (s : State) : Le 758944765 s (doStoreFillComplete t s) := by
  unfold doStoreFillComplete
  with_reducible refine Le.ite (fun _ => ?_) (fun _ => ?_)
  exact Le.refl _ _
  with_reducible refine Le.next (actLoad_le ..) (by decide) ?_
  with_reducible refine Le.next (tileDone_le ..) (by decide) ?_
  with_reducible refine Le.next (State.modTile_le ..) (by decide) ?_
  exact Le.refl _ _

theorem doChainChunkDone_le (t : Nat) (flips : Flips) (s : State) : Le 758944761 s (doChainChunkDone t flips s) := by
  unfold doChainChunkDone
  with_reducible refine withFlips_le _ _ _ (by decide) ?_ (fun u hu => ?_)
  exact Le.refl _ _
  with_reducible refine Le.next (chainChunkEnd_le ..) (by decide) ?_
  with_reducible assumption

theorem doRegisterWrite_le (addr : Nat) (size : Nat) (val : W64) (s : State) : Le 796840957 s (doRegisterWrite addr size val s) := by
  unfold doRegisterWrite
  with_reducible refine Le.ite (fun _ => ?_) (fun _ => ?_)
  with_reducible refine Le.next (doExportEntryWrite_le ..) (by decide) ?_
  exact Le.refl _ _
  with_reducible refine Le.ite (fun _ => ?_) (fun _ => ?_)
  with_reducible refine Le.next (wordWrite_le ..) (by decide) ?_
  exact Le.refl _ _
  split
  with_reducible refine Le.ite (fun _ => ?_) (fun _ => ?_)
  with_reducible refine Le.next (doBelulCommit_le ..) (by decide) ?_
  exact Le.refl _ _
  with_reducible refine Le.next (slotWrite_le ..) (by decide) ?_
  with_reducible refine Le.next (slotWrite_le ..) (by decide) ?_
  exact Le.refl _ _
  with_reducible refine Le.next (wordWrite_le ..) (by decide) ?_
  with_reducible refine Le.next (wordWrite_le ..) (by decide) ?_
  exact Le.refl _ _

theorem issueChunk_le (s : State) (t : Nat) (q : Nat) (e : QEntry) : Le 758944761 s (issueChunk s t q e) := by
  unfold issueChunk
  dsimp only
  with_reducible refine Le.next (traceDesc_le ..) (by decide) ?_
  with_reducible refine Le.next (tileCycles_le ..) (by decide) ?_
  with_reducible refine Le.next (moverCycles_le ..) (by decide) ?_
  with_reducible refine Le.next (State.modQueue_le ..) (by decide) ?_
  with_reducible refine Le.next (State.modTile_le ..) (by decide) ?_
  with_reducible refine Le.next (tileEvent_le ..) (by decide) ?_
  with_reducible refine Le.next (modEntry_le ..) (by decide) ?_
  with_reducible refine Le.iteP (fun w : Issue × _ => w.1.s) (fun _ => ?_) (fun _ => ?_)
  with_reducible refine Le.foldlP (fun w : Issue × _ => w.1.s) ?_ (fun u x hu => ?_)
  dsimp only
  with_reducible refine Le.ite (fun _ => ?_) (fun _ => ?_)
  with_reducible refine Le.next (State.takeFree_le ..) (by decide) ?_
  with_reducible refine Le.next (readRanges_le ..) (by decide) ?_
  exact Le.refl _ _
  with_reducible refine Le.next (readRanges_le ..) (by decide) ?_
  exact Le.refl _ _
  with_reducible refine Le.next (atomicElem_le ..) (by decide) ?_
  with_reducible assumption
  dsimp only
  with_reducible refine Le.next (moveChunk_le ..) (by decide) ?_
  dsimp only
  with_reducible refine Le.ite (fun _ => ?_) (fun _ => ?_)
  with_reducible refine Le.next (State.takeFree_le ..) (by decide) ?_
  with_reducible refine Le.next (readRanges_le ..) (by decide) ?_
  exact Le.refl _ _
  with_reducible refine Le.next (readRanges_le ..) (by decide) ?_
  exact Le.refl _ _

theorem arriveRsp_le (port : Nat) (p : Pkt) (a : Answer) (s : State) : Le 758944767 s (arriveRsp port p a s) := by
  unfold arriveRsp
  with_reducible refine Le.ite (fun _ => ?_) (fun _ => ?_)
  exact Le.refl _ _
  dsimp only
  with_reducible refine Le.ite (fun _ => ?_) (fun _ => ?_)
  with_reducible refine Le.next (noteRefusal_le ..) (by decide) ?_
  with_reducible refine Le.next (countRx_le ..) (by decide) ?_
  exact Le.refl _ _
  split
  split
  with_reducible refine Le.next (noteRefusal_le ..) (by decide) ?_
  with_reducible refine Le.next (countRx_le ..) (by decide) ?_
  exact Le.refl _ _
  with_reducible refine Le.next (countRx_le ..) (by decide) ?_
  exact Le.refl _ _
  with_reducible refine Le.next (answerRem_le ..) (by decide) ?_
  with_reducible refine Le.next (State.modNode_le _ _ ?_) (by decide) ?_
  with_reducible exact fun h => h
  with_reducible refine Le.ite (fun _ => ?_) (fun _ => ?_)
  with_reducible refine Le.next (packet_le ..) (by decide) ?_
  split
  with_reducible refine Le.next (noteRefusal_le ..) (by decide) ?_
  with_reducible refine Le.next (countRx_le ..) (by decide) ?_
  exact Le.refl _ _
  with_reducible refine Le.next (countRx_le ..) (by decide) ?_
  exact Le.refl _ _
  with_reducible refine Le.next (packets_le ..) (by decide) ?_
  split
  with_reducible refine Le.next (noteRefusal_le ..) (by decide) ?_
  with_reducible refine Le.next (countRx_le ..) (by decide) ?_
  exact Le.refl _ _
  with_reducible refine Le.next (countRx_le ..) (by decide) ?_
  exact Le.refl _ _

theorem doRemoteTimeout_le (tag : Nat) (s : State) : Le 758944767 s (doRemoteTimeout tag s) := by
  unfold doRemoteTimeout
  dsimp only
  split
  exact Le.refl _ _
  with_reducible refine Le.ite (fun _ => ?_) (fun _ => ?_)
  exact Le.refl _ _
  with_reducible refine Le.next (answerRem_le ..) (by decide) ?_
  with_reducible refine Le.ite (fun _ => ?_) (fun _ => ?_)
  with_reducible refine Le.next (logEvent_le ..) (by decide) ?_
  with_reducible refine Le.next (State.modNode_le _ _ ?_) (by decide) ?_
  with_reducible exact fun h => h
  exact Le.refl _ _
  with_reducible refine Le.next (State.modNode_le _ _ ?_) (by decide) ?_
  with_reducible exact fun h => h
  exact Le.refl _ _

theorem doHostApertureStore_le (hart : Nat) (addr : Nat) (size : Nat) (k : HostSt) (val : BitVec 512) (s : State) : Le 796840957 s (doHostApertureStore hart addr size k val s) := by
  unfold doHostApertureStore
  with_reducible refine Le.ite (fun _ => ?_) (fun _ => ?_)
  exact Le.refl _ _
  split
  with_reducible refine Le.next (hostPoolStore_le ..) (by decide) ?_
  exact Le.refl _ _
  with_reducible refine Le.next (hostZero_le ..) (by decide) ?_
  exact Le.refl _ _
  with_reducible refine Le.next (hostBlock_le ..) (by decide) ?_
  exact Le.refl _ _
  with_reducible refine Le.ite (fun _ => ?_) (fun _ => ?_)
  with_reducible refine Le.next (doRegisterWrite_le ..) (by decide) ?_
  exact Le.refl _ _
  with_reducible refine Le.next (hostFaults_le ..) (by decide) ?_
  exact Le.refl _ _
  with_reducible refine Le.next (hostFarStore_le ..) (by decide) ?_
  exact Le.refl _ _
  exact Le.refl _ _
  with_reducible refine Le.next (hostFaults_le ..) (by decide) ?_
  exact Le.refl _ _

theorem moverChunk_le (op : Nat) (t : Nat) (q : Nat) (s : State) : Le 758944761 s (moverChunk op t q s) := by
  unfold moverChunk
  split
  exact Le.refl _ _
  with_reducible refine Le.ite (fun _ => ?_) (fun _ => ?_)
  with_reducible refine Le.next (issueChunk_le ..) (by decide) ?_
  exact Le.refl _ _
  exact Le.refl _ _

theorem doRspData_le (port : Nat) (p : Pkt) (s : State) : Le 758944767 s (doRspData port p s) := by
  unfold doRspData
  with_reducible refine Le.next (arriveRsp_le ..) (by decide) ?_
  exact Le.refl _ _

end Sys2Proof.Machine
end

