-- ==== Sys2Proof/Laws/Keep9.lean ====
section
/-!
SUPPORT. What each operation may change and that it keeps the invariant, part 9 of 9: a lemma cites those of the operations
that its operation calls. The mask of a lemma names the parts by their bits (`Part.code`).
-/

namespace Sys2Proof.Machine
open Sys2Proof

theorem doRspAck_le (port : Nat) (p : Pkt) (s : State) : Le 758944767 s (doRspAck port p s) := by
  unfold doRspAck
  with_reducible refine Le.next (arriveRsp_le ..) (by decide) ?_
  exact Le.refl _ _

theorem doRspNack_le (port : Nat) (p : Pkt) (s : State) : Le 758944767 s (doRspNack port p s) := by
  unfold doRspNack
  with_reducible refine Le.next (arriveRsp_le ..) (by decide) ?_
  exact Le.refl _ _

theorem doMoverCopyChunk_le (t : Nat) (q : Nat) (flips : Flips) (s : State) : Le 758944761 s (doMoverCopyChunk t q flips s) := by
  unfold doMoverCopyChunk
  with_reducible refine withFlips_le _ _ _ (by decide) ?_ (fun u hu => ?_)
  exact Le.refl _ _
  with_reducible refine Le.next (moverChunk_le ..) (by decide) ?_
  with_reducible assumption

theorem doMoverFillChunk_le (t : Nat) (q : Nat) (flips : Flips) (s : State) : Le 758944761 s (doMoverFillChunk t q flips s) := by
  unfold doMoverFillChunk
  with_reducible refine withFlips_le _ _ _ (by decide) ?_ (fun u hu => ?_)
  exact Le.refl _ _
  with_reducible refine Le.next (moverChunk_le ..) (by decide) ?_
  with_reducible assumption

theorem doMoverAtomicChunk_le (t : Nat) (q : Nat) (flips : Flips) (s : State) : Le 758944761 s (doMoverAtomicChunk t q flips s) := by
  unfold doMoverAtomicChunk
  with_reducible refine withFlips_le _ _ _ (by decide) ?_ (fun u hu => ?_)
  exact Le.refl _ _
  with_reducible refine Le.next (moverChunk_le ..) (by decide) ?_
  with_reducible assumption

end Sys2Proof.Machine
end

