-- ==== Sys2Proof/Laws/Reply.lean ====
section
/-!
SUPPORT. What a Belul reply does to its slot and to the rest of the node (R333–R338).
-/

namespace Sys2Proof.Machine
open Sys2Proof

/-- A message interrupt changes no command slot (R253). -/
theorem msiWrite_slots (s : State) (addr : Nat) (data : W32) : (msiWrite s addr data).belul.slots = s.belul.slots := by
  have h : ∀ f, (packet s vcTrussCtrl false headEnd (dieAbut (fileAbut f), unitKeystone) 8 addr 32).belul = s.belul :=
    fun f => (packet_le ..).1 .belul (by decide)
  unfold msiWrite
  split
  · dsimp only
    split
    · unfold setIdentity
      split <;> exact congrArg Belul.slots (h _)
    · exact congrArg Belul.slots (h _)
  · dsimp only
    repeat' split
    all_goals rfl

/-- An interrupt to the host changes no command slot (R253). -/
@[simp] theorem raiseHost_slots (s : State) (n : Nat) : (raiseHost s n).belul.slots = s.belul.slots := by
  unfold raiseHost sendMsi
  dsimp only
  split
  · rfl
  · split
    · rfl
    · exact msiWrite_slots ..

/-- The interrupt of a reply changes no command slot (R342). -/
@[simp] theorem replyIrq_slots (s : State) (c n : Nat) : (replyIrq s c n).belul.slots = s.belul.slots := by
  unfold replyIrq
  split
  · exact raiseHost_slots ..
  · exact raiseHost_slots ..
  · split <;> rfl

/-- A slot is read from the table of slots. -/
theorem slot_of_slots {s t : State} (h : t.belul.slots = s.belul.slots) (c n : Nat) : t.slot c n = s.slot c n := by
  simp only [State.slot, h]

/-- The slot of a reply with data that fits it: it is free, and its reply slot holds the reply with its marker, the SEQ and the tag of the
command (R336–R338). -/
theorem replyFinal_slot (s : State) (c n : Nat) (p : Picked) (status : Nat) (d : List (Nat × Nat)) (h : dataLen d ≤ 216) :
    (replyFinal s c n p status d).slot c n =
      { s.slot c n with
        busy := false, picked := none, running := none,
        reply := { status := status, final := true, opcode := p.opcode, tag := p.tag, marker := 0xBE1D, seq := p.seq,
                   upd := if (s.slot c n).reply.seq = p.seq then (s.slot c n).reply.upd + 1 else 1,
                   rdlen := dataLen d, rbuf := false, data := d } } := by
  have h1 : decide (216 < dataLen d) = false := by simp; omega
  have key : ∀ u : State, (if p.irq then replyIrq u c n else u).slot c n = u.slot c n := by
    intro u
    split
    · exact slot_of_slots (replyIrq_slots ..) ..
    · rfl
  simp only [replyFinal, h1, Bool.false_and, Bool.and_false, Bool.false_eq_true, if_false, key]
  simp only [putReply, State.modSlot_slot, withData, h1]

/-- A reply changes no other slot (R335). -/
theorem replyFinal_slot_ne (s : State) (c n : Nat) (p : Picked) (status : Nat) (d : List (Nat × Nat)) (h : dataLen d ≤ 216) (c' n' : Nat)
    (hne : slotKey c' n' ≠ slotKey c n) : (replyFinal s c n p status d).slot c' n' = s.slot c' n' := by
  have h1 : decide (216 < dataLen d) = false := by simp; omega
  have key : ∀ u : State, (if p.irq then replyIrq u c n else u).slot c' n' = u.slot c' n' := by
    intro u
    split
    · exact slot_of_slots (replyIrq_slots ..) ..
    · rfl
  simp only [replyFinal, h1, Bool.false_and, Bool.and_false, Bool.false_eq_true, if_false, key]
  simp only [putReply, State.modSlot_slot_ne _ _ _ _ _ _ hne]

/-- A reply without an interrupt whose data fits its slot changes nothing but the Belul interface. -/
theorem replyFinal_same (s : State) (c n : Nat) (p : Picked) (status : Nat) (d : List (Nat × Nat)) (h : dataLen d ≤ 216) (hi : p.irq = false) :
    SameBut [.belul] s (replyFinal s c n p status d) := by
  have h1 : decide (216 < dataLen d) = false := by simp; omega
  simp only [replyFinal, h1, Bool.false_and, Bool.and_false, Bool.false_eq_true, if_false, hi, putReply, State.modSlot]
  intro q hq
  cases q <;> first | rfl | exact ⟨rfl, rfl⟩ | exact absurd (List.mem_singleton_self _) hq

/-- A reply whose data fits its slot changes nothing but the Belul interface and what its interrupt to the host changes. -/
theorem replyFinal_post (s : State) (c n : Nat) (p : Picked) (status : Nat) (d : List (Nat × Nat)) (h : dataLen d ≤ 216) :
    SameBut postParts s (replyFinal s c n p status d) := by
  have h1 : decide (216 < dataLen d) = false := by simp; omega
  simp only [replyFinal, h1, Bool.false_and, Bool.and_false, Bool.false_eq_true, if_false]
  refine Le.sameBut (m := 738755328) ?_ (by decide)
  refine Le.ite (fun _ => ?_) (fun _ => ?_)
  · refine Le.next (replyIrq_le ..) (by decide) ?_
    refine Le.next (State.modSlot_le ..) (by decide) ?_
    exact Le.next (putReply_le ..) (by decide) (Le.refl _ _)
  · refine Le.next (State.modSlot_le ..) (by decide) ?_
    exact Le.next (putReply_le ..) (by decide) (Le.refl _ _)

end Sys2Proof.Machine
end

