-- ==== Sys2Proof/Tests/Slice0.lean ====
section
/-!
SUPPORT. Tests: the manual's worked examples, an ill-formed term for each check of `WellFormed.lean`, and for every statement that has hypotheses a
theorem whose states and operands meet them.
-/

namespace Sys2Proof.Tests
open Sys2Proof Sys2Proof.Machine

-- one theorem at a time, so that their kernel checks do not wait for each other on a thread each
set_option Elab.async false

/-! ### Operands that name no unit are refused -/

theorem test_wf_req_client : wellFormed (.deviceInfo { client := 3, slot := 0 }) = false := by decide
theorem test_wf_req_slot : wellFormed (.tileMap { client := 0, slot := 32 }) = false := by decide
theorem test_wf_tile : wellFormed (.ecall 1296) = false := by decide
theorem test_wf_queue : wellFormed (.qpush .core 0 4 0) = false := by decide
theorem test_wf_queue_tile : wellFormed (.descriptorStart 1296 0) = false := by decide
theorem test_wf_csr_rd : wellFormed (.csrAccess 0 .rw 0x300 32 0) = false := by decide
theorem test_wf_csr_rs : wellFormed (.csrAccess 0 .rw 0x300 0 32) = false := by decide
theorem test_wf_load_width : wellFormed (.spindleLoadStore 0 .load 3 false 0 1 0 4 0) = false := by decide
theorem test_wf_load_length : wellFormed (.spindleLoadStore 0 .load 4 false 0 1 0 6 0) = false := by decide
theorem test_wf_cntrst_addr : wellFormed (.cntrstWrite .core Config.physEnd 0 0) = false := by decide
theorem test_wf_pier : wellFormed (.wayctlDisableWrite 4 0) = false := by decide
theorem test_wf_hostint : wellFormed (.hostintCtlWrite 256 0 true) = false := by decide
theorem test_wf_import : wellFormed (.importOpen 4096 0) = false := by decide
theorem test_wf_export_size : wellFormed (.exportEntryWrite 0 2 0) = false := by decide
theorem test_wf_register_low : wellFormed (.registerWrite 0x3FFFFFFFFFFC 4 0) = false := by decide
theorem test_wf_register_high : wellFormed (.registerWrite 0x500000000000 4 0) = false := by decide
theorem test_wf_register_align : wellFormed (.registerWrite 0x400000000004 8 0) = false := by decide
theorem test_wf_channel : wellFormed (.refresh 512) = false := by decide
theorem test_wf_arbiter : wellFormed (.homearbStatusRead 2 0) = false := by decide
theorem test_wf_pair_of_boundary : wellFormed (.mapfault 0 32) = false := by decide
theorem test_wf_pair_of_abutment : wellFormed (.mapfault 3 8) = false := by decide
theorem test_wf_link : wellFormed (.mapfault 5 0) = false := by decide
theorem test_wf_oport : wellFormed (.linkdown 48) = false := by decide
theorem test_wf_sensor : wellFormed (.tempRead 36) = false := by decide
theorem test_wf_belul_client : wellFormed (.belulErrRead 3 0 0) = false := by decide
theorem test_wf_cntlo_align : wellFormed (.cntloRead .core 8) = false := by decide
theorem test_wf_store_word : wellFormed (.storeCorrectiveWrite 0 393216) = false := by decide
theorem test_wf_tag : wellFormed (.recall 0 0 4096) = false := by decide
theorem test_wf_handle : wellFormed (.invalidateComplete (2 ^ 32)) = false := by decide
theorem test_wf_walker : wellFormed (.walkerParityError 68 0 0) = false := by decide
theorem test_wf_codeword : wellFormed (.codewordCorrectiveWrite (2 ^ 34)) = false := by decide
theorem test_wf_stack : wellFormed (.stackTempRead 16 0) = false := by decide
theorem test_wf_init_rate : wellFormed (.memoryInitComplete 3 none 0) = false := by decide
theorem test_wf_pool_address : wellFormed (.top 0 (2 ^ 40) 0 0 0) = false := by decide
theorem test_wf_line : wellFormed (.done (2 ^ 34)) = false := by decide
theorem test_wf_cluster : wellFormed (.gets 24 0) = false := by decide
theorem test_wf_way : wellFormed (.wayPowerDownComplete 0 17 65536) = false := by decide
theorem test_wf_range : wellFormed (.cacheRangeLock { client := 0, slot := 0 } (2 ^ 64) 0) = false := by decide
theorem test_wf_host_address : wellFormed (.hostApertureLoad 0 Config.physEnd 1 false) = false := by decide
theorem test_wf_aperture_size : wellFormed (.hostApertureLoad 0 0x800000000000 65 false) = false := by decide
theorem test_wf_amo_kind : wellFormed (.hostApertureAmo 0 0x800000000000 .load 8 0) = false := by decide
theorem test_wf_amo_width : wellFormed (.hostApertureAmo 0 0x800000000000 .lr 2 0) = false := by decide
theorem test_wf_amo_op : wellFormed (.hostApertureAmo 0 0x800000000000 (.amo 2) 8 0) = false := by decide
theorem test_wf_image_client : wellFormed (.fwUpdate { client := 1, slot := 0 } (.pool 0 0)) = false := by decide
theorem test_wf_pcie_port : wellFormed (.pciePortEvent 4) = false := by decide
theorem test_wf_replay_count : wellFormed (.trussReplay 0 0 true 512) = false := by decide
theorem test_wf_flit_plane : wellFormed (.flitForward 12 { cls := 0, typ := 1 }) = false := by decide
theorem test_wf_fseq : wellFormed (.flitReplay 0 1024) = false := by decide
theorem test_wf_phys : wellFormed (.peerid 0 false (2 ^ 20) 0 0) = false := by decide
theorem test_wf_packet_class : wellFormed (.remoteRead 0 { cls := 1, typ := 1 }) = false := by decide
theorem test_wf_response_type : wellFormed (.rspNack 0 { cls := 1, typ := 2 }) = false := by decide
theorem test_wf_remote_tag : wellFormed (.remoteTimeout 65536) = false := by decide
theorem test_wf_window : wellFormed (.windowCloseComplete 4096) = false := by decide
theorem test_wf_predictions : wellFormed (.spanTickBoundary [] 0 0) = false := by decide
theorem test_wf_flood_kind : wellFormed (.flood 0 0 0 3 0 0) = false := by decide
theorem test_wf_launch_attempt :
    wellFormed (.launch 0 { lid := 1, attempt := 4, startTick := 0, issueTick := 0, root := 0, excl := [], pods := 0, job := 1, depth := 0,
                            coll := 0, msg := 0, reserve := 0, stepWait := 0, jdata := [] }) = false := by decide
theorem test_wf_parent : wellFormed (.parentLost (some 48)) = false := by decide
theorem test_wf_dvfs_decks : wellFormed (.dvfsSet { client := 0, slot := 0 } [1200] []) = false := by decide
theorem test_wf_trace_unit : wellFormed (.traceUnitStop 4) = false := by decide
theorem test_wf_halt_action : wellFormed (.haltPacket 0 0 0 0 3) = false := by decide
theorem test_wf_tile_counter : wellFormed (.counterThreshold 0 4) = false := by decide
theorem test_wf_i3c_length : wellFormed (.i3cPrivateRead 4097) = false := by decide
theorem test_wf_minv : wellFormed (.clampRelease 1024 0) = false := by decide
theorem test_wf_wake : wellFormed (.powerWake 4) = false := by decide
theorem test_wf_deck_die : wellFormed (.deckDieReset 12 false) = false := by decide
theorem test_wf_abutment_die : wellFormed (.abutmentDieReset 0 true) = false := by decide
theorem test_wf_die : wellFormed (.powerCalibration 0 [(20, 1)]) = false := by decide
theorem test_wf_need_tile : wellFormed (.substitution { kind := 1, scope := 0, res := 108, urgent := false } true) = false := by decide
theorem test_wf_need_kind : wellFormed (.substitution { kind := 7, scope := 0, res := 0, urgent := false } true) = false := by decide
theorem test_wf_failing_tile : wellFormed (.tileTestComplete [1296]) = false := by decide
theorem test_wf_lane : wellFormed (.laneEyeCheckFailure 0 0 true 68 false) = false := by decide
theorem test_wf_pier_or_none : wellFormed (.pierFatalError 5) = false := by decide
theorem test_wf_pcie_window : wellFormed (.pcieWindowAccess false false 0 0x580000000000 4 0 true) = false := by decide

theorem test_wf_tile_load_tag : wellFormed (.tileLoad { client := 0, slot := 0 } { first := 0, count := 1, mask := 0 } 0 0 0 65536) = false := by decide
theorem test_wf_tile_start_entry : wellFormed (.tileStart { client := 0, slot := 0 } { first := 0, count := 1, mask := 0 } 0 (2 ^ 32) 0) = false := by decide
theorem test_wf_tile_status : wellFormed (.tileStatus { client := 0, slot := 0 } 65536) = false := by decide
theorem test_wf_init_mode : wellFormed (.memoryInit { client := 0, slot := 0 } 256 0 false 0) = false := by decide
theorem test_wf_retired_buffer : wellFormed (.retiredList { client := 0, slot := 0 } (2 ^ 64)) = false := by decide
theorem test_wf_scrub_period : wellFormed (.scrubSet { client := 0, slot := 0 } true 256) = false := by decide
theorem test_wf_traffic_channel : wellFormed (.memTrafficComplete [512] []) = false := by decide
theorem test_wf_adder_address : wellFormed (.adderOperation Config.physEnd 0 0 0 .none) = false := by decide
theorem test_wf_cache_way : wellFormed (.cacheWayEnable { client := 0, slot := 0 } 0 256) = false := by decide
theorem test_wf_cache_status : wellFormed (.cacheStatus { client := 0, slot := 0 } 256) = false := by decide
theorem test_wf_fwd_requester : wellFormed (.fwdgetm 0 0 24) = false := by decide
theorem test_wf_aperture_hart : wellFormed (.hostApertureStore 96 0x800000000000 8 .store 0) = false := by decide
theorem test_wf_imsic_address : wellFormed (.seteipnumWrite Config.physEnd 0) = false := by decide
theorem test_wf_die_reset_hart : wellFormed (.dieResetResponse (.hart 96 0)) = false := by decide
theorem test_wf_die_reset_mover : wellFormed (.dieResetResponse (.mover 0 4 0 0)) = false := by decide
theorem test_wf_die_link : wellFormed (.dieLinkRetrain { client := 0, slot := 0 } 0 65536) = false := by decide
theorem test_wf_write_class : wellFormed (.remoteWrite 0 { cls := 0, typ := 1 }) = false := by decide
theorem test_wf_atomic_type : wellFormed (.remoteAtomic 0 { cls := 0, typ := 2 }) = false := by decide
theorem test_wf_data_type : wellFormed (.rspData 0 { cls := 1, typ := 2 }) = false := by decide
theorem test_wf_ack_type : wellFormed (.rspAck 0 { cls := 1, typ := 1 }) = false := by decide
theorem test_wf_coll_class : wellFormed (.collData 0 { cls := 2, typ := 1 }) = false := by decide
theorem test_wf_port_open : wellFormed (.portOpen { client := 0, slot := 0 } 65536) = false := by decide
theorem test_wf_role_epoch : wellFormed (.nodeRole { client := 0, slot := 0 } 0 256 true) = false := by decide
theorem test_wf_routes_phys : wellFormed (.routeLoad { client := 0, slot := 0 } (2 ^ 20) 7 7 7 7 []) = false := by decide
theorem test_wf_nodemap_base : wellFormed (.nodemapSync { client := 0, slot := 0 } (2 ^ 48) 0) = false := by decide
theorem test_wf_window_size : wellFormed (.windowSet { client := 0, slot := 0 } 0 0 256 0 false false 0 0) = false := by decide
theorem test_wf_export_node : wellFormed (.exportSet { client := 0, slot := 0 } 0 (2 ^ 32) 0 true) = false := by decide
theorem test_wf_estimate : wellFormed (.spanTickBoundary (List.replicate 64 0) 65536 0) = false := by decide
theorem test_wf_timesync : wellFormed (.timesyncSend 0 (2 ^ 64)) = false := by decide
theorem test_wf_node_lost : wellFormed (.nodeLost (2 ^ 20)) = false := by decide
theorem test_wf_launch_ack : wellFormed (.launchAck 0 { lid := 1, attempt := 1, code := 0, nmiss := 0, phys := 2 ^ 20, entries := [] }) = false := by decide
theorem test_wf_job_excl : wellFormed (.jobLaunch { client := 0, slot := 0 } { lid := 1, attempt := 1, startTick := 0, issueTick := 0, root := 0, excl := [2 ^ 20], pods := 0, job := 1, depth := 0, coll := 0, msg := 0, reserve := 0, stepWait := 0, jdata := [] }) = false := by decide
theorem test_wf_heartbeat_phys : wellFormed (.heartbeat 0 { tick := 0, jobTick := 0, job := 0, slow := false, late := false, held := false, inJob := false, cause := 0, phys := 2 ^ 20 }) = false := by decide
theorem test_wf_post_address : wellFormed (.collPost { client := 0, slot := 0 } (2 ^ 64)) = false := by decide
theorem test_wf_tick_parent : wellFormed (.tickConfig { client := 0, slot := 0 } false 64 0 0 0) = false := by decide
theorem test_wf_abort_position : wellFormed (.opAbort { client := 0, slot := 0 } 0 (2 ^ 64)) = false := by decide
theorem test_wf_pcie_width : wellFormed (.pciePort { client := 0, slot := 0 } 0 0 256) = false := by decide
theorem test_wf_cap : wellFormed (.powerCap { client := 0, slot := 0 } (2 ^ 32) 0) = false := by decide
theorem test_wf_power_target : wellFormed (.powerState { client := 0, slot := 0 } 256) = false := by decide
theorem test_wf_park_die : wellFormed (.clusterPark { client := 0, slot := 0 } 256 0) = false := by decide
theorem test_wf_halt_scope : wellFormed (.haltGroup { client := 0, slot := 0 } { first := 0, count := 1, mask := 0 } 256 1) = false := by decide
theorem test_wf_recovery_offset : wellFormed (.fwRecoveryLoad { client := 0, slot := 0 } (2 ^ 32) true [] true) = false := by decide
theorem test_wf_record_kind : wellFormed (.recordRead { client := 0, slot := 0 } 256 0) = false := by decide
theorem test_wf_cert_offset : wellFormed (.idCert { client := 0, slot := 0 } (2 ^ 32)) = false := by decide
theorem test_wf_thermal_sensor : wellFormed (.thermalSample 18 0) = false := by decide
theorem test_wf_trip_sensor : wellFormed (.thermalTrip 36 0) = false := by decide
theorem test_wf_flit_fseq : wellFormed (.flitCheckFailure 0 1024 true) = false := by decide
theorem test_wf_bond_deck : wellFormed (.bundleHeaderParityError true 12 0 true 1) = false := by decide
theorem test_wf_bond_count : wellFormed (.bundleHeaderParityError true 0 0 true 512) = false := by decide
theorem test_wf_host_cluster : wellFormed (.hostClusterStateError 0 12) = false := by decide
theorem test_wf_start_step : wellFormed (.moduleStart { image := [], features := List.replicate 18 0, revs := List.replicate 18 0, qualified := true, failStep := some 11, poolKey := 0, memRate := 0 }) = false := by decide
theorem test_wf_need_bundle : wellFormed (.substitution { kind := 2, scope := 128, res := 69, urgent := false } true) = false := by decide
theorem test_wf_need_wave : wellFormed (.substitution { kind := 3, scope := 0, res := 9, urgent := false } true) = false := by decide
theorem test_wf_need_laser : wellFormed (.substitution { kind := 4, scope := 1, res := 0, urgent := false } true) = false := by decide
theorem test_wf_need_walker : wellFormed (.substitution { kind := 5, scope := 0, res := 68, urgent := false } true) = false := by decide
theorem test_wf_need_way : wellFormed (.substitution { kind := 6, scope := 0, res := 17, urgent := false } true) = false := by decide
theorem test_wf_sweep_tile : wellFormed (.ageingSweep { tiles := [1296], lanes := [], lasers := [] }) = false := by decide
theorem test_wf_sweep_lane : wellFormed (.ageingSweep { tiles := [], lanes := [(0, 68)], lasers := [] }) = false := by decide
theorem test_wf_sweep_laser : wellFormed (.ageingSweep { tiles := [], lanes := [], lasers := [48] }) = false := by decide
theorem test_wf_i3c_bytes : wellFormed (.i3cPrivateWrite 0 (List.replicate 4097 0)) = false := by decide +kernel
theorem test_wf_pcie_align : wellFormed (.pcieWindowAccess false false 0 0x500000000002 4 0 true) = false := by decide
theorem test_wf_hostint_read : wellFormed (.pcieWindowAccess true false 0 0x500000000000 4 0 true) = false := by decide
theorem test_wf_forward_flood_cause : wellFormed (.flood 0 0 0 1 256 0) = false := by decide

/-- A command that is not well formed stops. -/
theorem test_stop_no_such_unit : exec (.ecall 1296) State.reset = .fault .noSuchUnit := rfl
/-! ### The manual's worked examples -/

/-- *Placing, adding and converting*: the E4M3 product 0x5C × 0x32 at σ = −8. -/
theorem test_example_place :
    epPlace ((valOf .e4m3 0x5C).mul (valOf .e4m3 0x32)) (-8) = (epOf 0x0F00000000000000, false) := by decide

/-- The same example: the adder's sum. -/
theorem test_example_add :
    epBits ((epOf 0x0F00000000000000).add (epOf 0xFFFFFFFFFFFFFFFFA000000000000000)) = 0xFFFFFFFFFFFFFFFFAF00000000000000 := by decide

/-- The same example: the conversions to FP32, and to E4M3 under RNE and RDN. -/
theorem test_example_convert :
    (epConvert .fp32 0 false 0x7FC00000 0 (epOf 0xFFFFFFFFFFFFFFFFAF00000000000000)).1 = 0xBEA20000 ∧
      (epConvert .e4m3 0 false 0x7F 0 (epOf 0xFFFFFFFFFFFFFFFFAF00000000000000)).1 = 0xAA ∧
      (epConvert .e4m3 2 false 0x7F 0 (epOf 0xFFFFFFFFFFFFFFFFAF00000000000000)).1 = 0xAB := by decide +kernel

/-- *The edges of the window*: 1.0 × 1.0 of E5M2 at σ = −40 is exact, and two smallest subnormals truncate to zero. -/
theorem test_example_window :
    epPlace ((valOf .e5m2 0x3C).mul (valOf .e5m2 0x3C)) (-40) = (.ord (2 ^ 24), false) ∧
      epPlace ((valOf .e5m2 0x01).mul (valOf .e5m2 0x01)) (-40) = (.ord 0, true) := by decide

/-- *One walk*: the indices of VA 0x1014_0600_1234. -/
theorem test_example_walk_indices :
    [4, 3, 2, 1].map (fun l => tableIndex l 0x101406001234) = [0, 2, 5, 3] := by decide

/-- The same example: the leaf is well formed at level 1, and gives a 128 MiB extent at 0x0023_4800_0000. -/
theorem test_example_walk_leaf :
    malformed 1 0x2348000B1B = false ∧ leafPa 0x2348000B1B = 0x2348000000 ∧ leaseBytes (leafSize 0x2348000B1B) = 2 ^ 27 := by decide

/-- *Locating an address*: in pier-local mode, slot 298,261 of pier P0, whatever the key. -/
theorem test_example_locate (key : W64) : (locOf false key 0x1234567ABC).pier = 0 ∧ (locOf false key 0x1234567ABC).slot = 298261 := ⟨rfl, rfl⟩

/-- The same example: channel 16 of stack 1 is global channel 48, and the slot is bank 21 of row 4,660. -/
theorem test_example_channel :
    Loc.row { pier := 0, site := 1, ch := 16, pc := 1, slot := 298261 } = { ch := 48, pc := 1, bank := 21, row := 4660 } := by decide

/-- *Merging maps*: with lanes 5, 17 and 42 failed, lanes 6, 18, 43 and 66 carry logical 5, 16, 40 and 63, and 67 none. -/
theorem test_example_lanes :
    [4, 5, 6, 17, 18, 42, 43, 66, 67].map
      (fun p => (laneBytes 64 (BitVec.ofNat 68 (2 ^ 68 - 1 - 2 ^ 5 - 2 ^ 17 - 2 ^ 42)) 68 0 0).getD p 0) =
      [4, 0xFF, 5, 0xFF, 16, 0xFF, 40, 63, 0xFF] := by decide +kernel

/-- *A remote write and a detour*: from (2, 7, 5) the way to (2, 1, 7) is +y through the wrap, and the hop sets DL. -/
theorem test_example_route :
    routeDir { phys := 0x3275 } 0x3217 = some 2 ∧ dlAfter { node := { phys := 0x3275 } } none false 2 = true := by decide

/-- The same example: at (2, 0, 5), with no +y port of plane 1 up, the packet detours to +z. -/
theorem test_example_detour :
    detourPorts { node := { phys := 0x3205, ports := [(16, { st := 3 }), (17, { st := 3 })] }, power := { idle := .s0 } } (some 15) 1 2 = [16, 17] := by
  decide

/-- The same example: a WRITE of 1,024 B is one head and four body flits. -/
theorem test_example_flits : flitsOf { cls := 0, typ := 2, payload := List.replicate 1024 0 } = 5 := by decide +kernel

/-- The header word of an engine-1 descriptor with NOTIFY set and USER 7 (R130). -/
theorem test_header :
    parseHeader (leBytes 4 0x50000007 ++ List.replicate 124 0) =
      { engine := 1, wait := false, notify := true, casc := false, predOp := 0, fmask := 0, user := 7, predOff := 0, predVal := 0,
        rsv := false } := by decide

/-- The CRC-32C of the digits 1 to 9 is the check value of its definition, 0xE306_9283. -/
theorem test_crc32c : crc32c 0 ((rangeFrom 0x31 9).map (BitVec.ofNat 8)) = 0xE3069283 := by decide +kernel

/-- *Priority without nesting*: in a handler no event is delivered. -/
def nested (inHandler : Bool) : State :=
  State.reset.setTile 0 { st := .run, mask := 0, pend := 0x210, core := { fetching := true, mie := true, inHandler := inHandler } }
theorem test_example_nesting : doEventDelivery 0 false (nested true) = nested true := by decide

/-- The same example: TICK (4) comes before QUEUE_DONE_1 (9). -/
theorem test_example_priority :
    ((doEventDelivery 0 false (nested false)).tile 0).core.mcause = 0x80000004 ∧ ((doEventDelivery 0 false (nested false)).tile 0).pend = 0x200 := by
  decide

/-- *A droop under load*: the clamp releases with MINV 409, and one droop is counted. -/
theorem test_example_droop :
    let s := doClampRelease 409 51000 { power := { clamp := true } }
    s.power.minv = 409 ∧ s.power.droops = 1 ∧ s.power.clamp = false := by decide

/-- *Two owners-to-be and a writeback*: after the PutM the directory has no entry, and the line is not busy. -/
def owned : State := (State.reset.modCluster 9 fun c => { c with parked := false }).setArb (homeArb 5) { dir := [{ line := 5, owner := some 9, sharers := [] }] }
theorem test_example_putm : ((doPutm 9 5 7 false owned).arb (homeArb 5)).owner 5 = none ∧
    ((doPutm 9 5 7 false owned).arb (homeArb 5)).busy 5 = false := by decide +kernel

/-- The same example: the GetM that comes next is granted. -/
theorem test_example_getm : ((doGetm 3 5 (doPutm 9 5 7 false (owned.modCluster 3 fun c => { c with parked := false }))).arb (homeArb 5)).busy 5 = true := by decide +kernel

/-- *Locating two registers*: RXTAIL2 of tile 700 lies at 0x4001_02BC_1128, and the write reaches it through the map. -/
theorem test_example_rxtail :
    (match exec (.registerWrite 0x400102BC1128 4 2) (State.reset.setTile 700 { rx := [(2, { enable := true, head := 3, tail := 1 })] }) with
      | .next t => ((t.tile 700).chan 2).tail == 2
      | _ => false) = true := by decide +kernel

/-- The addresses of the example of R443 hold registers; a word beyond the registers of a block does not, and a block that this ordering code
lacks reads as zero (R438). -/
theorem test_reg_there : regThere 0x400102BC1128 = true ∧ regThere 0x400001300100 = true ∧ regThere 0x400000F60024 = false ∧
    regThere 0x400000B30800 = true := by decide +kernel
/-! ### States for the hypotheses -/

/-- A state with tile 1295 in RUN, its queue 3 holding `n` descriptors. -/
def runTile (B : State) (n : Nat) : State :=
  B.setTile 1295 { st := .run, core := { fetching := true, pc := 64, mscratch := 9, x := [(5, 1), (31, 0xFFFFFFFF)] },
                   q3 := { ring := 0x17FF, entries := (rangeFrom 0 n).map fun i => { doff := 0, seq := BitVec.ofNat 32 (i + 1), ord := i } } }
def tileIs (B : State) (T : Tile) : State := B.setTile 1295 T
def core1 : Core := { fetching := true, pc := 64, x := [(5, 1), (31, 0xFFFFFFFF)], mtvec := 0x100, mie := true }

/-- A state in S0 whose slot 31 of client `c` holds a command of an opcode, picked up. -/
def readyAt (c : Nat) (B : State) (op : Nat) : State :=
  { B.modSlot c 31 fun x => { x with busy := true, picked := some ⟨op, 5, false, false, 64, 0, 0, 9⟩ } with power := { B.power with idle := .s0 } }
def ready (B : State) (op : Nat) : State := readyAt 0 B op
def req : Req := { client := 0, slot := 31 }
def picked (op : Nat) : Picked := ⟨op, 5, false, false, 64, 0, 0, 9⟩
/-- Tiles 1294 and 1295 with given contents. -/
def two (B : State) (a b : Tile) : State := (B.setTile 1294 a).setTile 1295 b
def lastTwo : TileSet := { first := 1294, count := 2, mask := 0 }
def coreR : Core := { fetching := true, pc := 64, x := [(5, 1), (31, 0xFFFFFFFF)], mtvec := 0x100, mie := true }
def tileAs (B : State) (T : Tile) : State := B.setTile 1295 T
def withOp (B : State) (o : LongOp) : State := { B with belul := { B.belul with ops := [o] } }
/-- A tensor record in tile store, or at a virtual address with bit 63. -/
def recB (base : Nat) (ext : List Nat) : List Byte := leBytes 8 base ++ ext.flatMap (leBytes 4) ++ List.replicate 48 0
/-- What a started mover descriptor keeps. -/
def moverD (w : Nat) (src dst tail : List Byte) : List Byte :=
  leBytes 24 (2 ^ 30) ++ leBytes 4 w ++ List.replicate 100 0 ++ src ++ dst ++ List.replicate 160 0 ++ tail
def act (engine : Nat) (d : List Byte) : QEntry := { doff := 0, seq := 7, ord := 0, phase := .active, engine := engine, desc := d }
def q3Is (B : State) (Q : Queue) (T : Tile) : State := B.setTile 1295 { T with st := .run, q3 := { Q with ring := 0x17FF } }
def copyE : QEntry := act 1 (moverD 0x20 (recB 0 [4, 1, 1, 1, 1, 1]) (recB 4096 [4, 1, 1, 1, 1, 1]) [])
def fillE : QEntry := act 1 (moverD 0x21 (List.replicate 80 0) (recB 4096 [4, 1, 1, 1, 1, 1]) [])
def atomE : QEntry := act 1 (moverD 0x22 (recB 0 [4, 1, 1, 1, 1, 1]) (recB (2 ^ 63 + 65536) [4, 1, 1, 1, 1, 1]) [])
def sendE : QEntry := { act 1 (moverD 0x03 (recB 0 [4, 1, 1, 1, 1, 1]) (List.replicate 80 0) (leBytes 4 1)) with }
def lease1 : Lease := { tag := 0, gen := 0, vbase := 65536, size := 0, pbase := 65536, rd := true, wr := true, at_ := true, hc := false, rm := false }
def flight (sig : Bool) : Flight := { id := 7, srcTile := 0, srcQueue := 0, chunk := 0, msgIdx := 0, dst := 1295, chan := 3, signal := sig, bits := 1, space := 0, hdr := List.replicate 32 0, payload := [1, 2] }
def runV : ChainRun := { q := 3, blk := List.replicate 256 0, recs := { x := { base := 4096, ext := [4, 1, 1, 1, 1, 1], str := [0, 0, 0, 0, 0, 0] } } }
/-- A pass of INT8 elements with K = 1: `m` rows, one column, A at 0, B at 64 and D at 128. -/
def latheE (m : Nat) : QEntry := act 2 (List.replicate 16 0 ++ leBytes 4 0 ++ leBytes 4 64 ++ leBytes 4 0 ++ leBytes 4 128 ++ leBytes 2 m ++ leBytes 2 1 ++
  leBytes 4 1 ++ leBytes 4 1 ++ leBytes 4 1 ++ leBytes 4 0 ++ leBytes 4 4 ++ List.replicate 16 0 ++ leBytes 4 0xB0AA0000 ++ List.replicate 52 0)
def wants : Needs := { leases := [⟨65536, 65536, 65536, false, false, true⟩] }
def ext1 : Extent := { tag := 0, gen := 0, vbase := 65536, size := 0, pbase := 65536, leaf := 0xE1, level := 3 }
/-- A copy whose source begins below the virtual addresses. -/
def outE : QEntry := act 1 (moverD 0x20 (leBytes 8 (2 ^ 63) ++ [2, 1, 1, 1, 1, 1].flatMap (leBytes 4) ++ List.replicate 8 0xFF ++ List.replicate 40 0) (recB 4096 [2, 1, 1, 1, 1, 1]) [])
/-- A node with a role whose tile 1295 has a SEND of one record: its signal goes to tile 1295, channel 3. -/
def sends (B : State) (e : QEntry) : State :=
  { q3Is B { entries := [e] } { store := [(3, 0x80), (4, 9), (11, 0x0F), (12, 0x1D)] } with node := { B.node with rolev := true, logical := 0 } }
def sentE : QEntry := { sendE with chunks := [{ idx := 0, deliveries := 1 }] }
def chainE : QEntry := act 3 (List.replicate 128 0)
def runM : ChainRun := { runV with recs := { x := { virt := true, base := 65536, ext := [4, 1, 1, 1, 1, 1], str := [0, 0, 0, 0, 0, 0] } } }

def k3Is (B : State) (Q : Queue) (space : Nat) : State := B.setTile 1295 { st := .run, space := space, q3 := { Q with ring := 0x17FF } }
/-- A ready pool whose tables at 0x10000, in the adders' stores, map the first 16 GiB of an address space, with every right, under tag 4095. -/
def mapped2 (B : State) (leaf : BitVec 512) : State :=
  let s := { B with pool := { B.pool with st := .ready, poison := [], bytes := [] }, chans := [], piers := [],
                    ks := { B.ks with roots := [(4095, some 0x10000)] }, arbs := [], clusters := [] }
  [(0x400, 0x11001), (0x403, 0), (0x440, 0x12001), (0x480, leaf)].foldl (fun s e => s.modChan (s.chOf e.1) fun c => { c with adder := c.adder ++ [⟨e.1, e.2⟩] }) s
def mapped (B : State) : State := mapped2 B 0x123B
def mappedRw (B : State) : State := mapped2 B 0x121B
def lreq : LeaseReq := { va := 65536, rd := true, wr := true, at_ := false, seq := 7, walking := true }
def lease (tag : Nat) (recalled : Bool) : Lease := { tag := tag, gen := 0, vbase := 65536, size := 0, pbase := 65536, rd := true, wr := true, at_ := true, hc := false, rm := false, recalled := recalled }
def k3Entry (ch : List Chunk) : QEntry := { doff := 0, seq := 7, ord := 0, phase := .active, engine := 1, desc := List.replicate 448 0, chunks := ch }
def ks3 (B : State) (f : Keystone → Keystone) : State := { B with ks := f B.ks }
def rdy (c : Nat) (B : State) (op : Nat) : State :=
  { B.modSlot c 31 fun x => { x with busy := true, picked := some ⟨op, 5, false, false, 64, 0, 0, 9⟩ } with power := { B.power with idle := .s0 } }
def req3 : Req := { client := 0, slot := 31 }
def pk (op : Nat) : Picked := ⟨op, 5, false, false, 64, 0, 0, 9⟩
def sf : StreamFault := { code := 2, level := 3, access := 1, va := 65536, entry := 0, tick := 3, seq := 7, tag := 4095 }
def poolIs (B : State) (P : Pool) : State := { B with pool := { P with st := .ready } }
def chanIs (B : State) (ch : Nat) (C : Chan) : State := { B with chans := [(ch, C)] }
/-- A memory-idle node. -/
def quiet (B : State) : State := { B with tiles := [], clusters := [], ks := {}, talcy := { B.talcy with st := 0 }, piers := [] }
def opIs (B : State) (o : LongOp) : State := { B with belul := { B.belul with ops := [o] } }
def opIsIn (B : State) (o : LongOp) : State := { B with belul := { B.belul with ops := [o] } }
def theOp (c opcode total : Nat) (left : List Nat) : LongOp := { handle := 9, client := c, slot := 31, opcode := opcode, punit := 2, position := 0, total := total, left := left, wrote := none }
def pierIs (B : State) (p : Nat) (P : Pier) : State := { B with piers := [(p, P)], pool := { B.pool with st := .ready, packageWide := false } }
def topLine : Nat := 2 ^ 33 - 1
def cline (v : BitVec 4) : CLine := { line := topLine, way := 16, valid := v, poison := 0, lock := true, fresh := true, data := 5 }

def rd4 (B : State) (op : Nat) : State :=
  { B.modSlot 0 31 fun x => { x with busy := true, picked := some ⟨op, 5, false, false, 64, 0, 0, 9⟩ } with power := { B.power with idle := .s0 } }
def req4 : Req := { client := 0, slot := 31 }
def pk4 (op : Nat) : Picked := ⟨op, 5, false, false, 64, 0, 0, 9⟩
def pier3 (B : State) (P : Pier) : State := { B with piers := [(3, P)], belul := { B.belul with ops := [] } }
/-- A ready pool. -/
def poolUp (B : State) : State := { B with pool := { B.pool with st := .ready, packageWide := false, key := 0, err := [] }, piers := [], chans := [] }
def lastCw : Nat := 2 ^ 34 - 1
def adders (B : State) : State := { poolUp B with chans := [((poolUp B).chOf lastCw, { adder := [⟨lastCw, 0xFFFFFFFF⟩] })] }
/-- Cluster 23 as given, both arbiters as given, and a ready pool. -/
def coh (B : State) (C : Cluster) (A : Arb) : State := { poolUp B with clusters := [(23, C)], arbs := [(0, A), (1, A)] }
def busyArb (kind : Nat) (acks : List Nat) (d : Option Nat) : Arb := { open_ := [⟨{ kind := kind, src := 3, line := lastCw }, acks, d, true⟩] }
def tr (kind : Nat) (acks : List Nat) (d : Option Nat) : Trans := ⟨{ kind := kind, src := 3, line := lastCw }, acks, d, true⟩
def dirIs (own : Option Nat) (sh : List Nat) : Arb := { dir := [⟨lastCw, own, sh⟩] }
def hintIs (B : State) (n : Nat) (e : HostInt) : State := { B with hostint := [(n, e)] }
def pairIs (B : State) (x : Pair) : State := { B with pairs := [(pairKey 4 7, x)] }
def upPair : Pair := { st := 2, mapE := BitVec.allOnes 68, mapW := BitVec.allOnes 68 }
def portIs (B : State) (o : OPort) : State := { B with node := { B.node with ports := [(47, o)] }, power := { B.power with idle := .s0 } }
def openPort4 : OPort := { st := 3, txWave := 255, rxWave := 255, peer := some ⟨false, 9, 3, 5⟩ }
def pkt0 : Pkt := { cls := 0, typ := 1, plane := 3, dphys := 0x123, dlog := 0x4567, depoch := 4, slog := 9, sphys := 0x124, tag := 65535, addr := 4095 * 2 ^ 35, len := 8 }
/-- A node with a role and an open window 4095. -/
def roleNode (B : State) (rems : List Rem) : State :=
  { poolUp B with node := { phys := 0x123, epoch := 4, logical := 0x4567, rolev := true, ports := [(47, openPort4)], rems := rems,
                            imports := [(4095, { v := true, rights := 7, size := 0, baseLo := 0x10000 })] }, power := { B.power with idle := .s0 } }
def remq (k : RemKind) : Rem := { tag := 65535, kind := k, addr := 0x800000000000, len := 8, age := 1000 }
def windowIs (B : State) (x : Window) : State := { B with node := { B.node with imports := [(4095, x)] } }
def o4 (opcode : Nat) : LongOp := ⟨9, 0, 31, opcode, 6, 0, 1, [], none⟩
def op4 (B : State) (opcode : Nat) : State := { B with belul := { B.belul with ops := [o4 opcode] } }
def wayO (k : Nat) : LongOp := ⟨9, 0, 31, 0x0306, 5, 0, 65536, [wayMark k 3 16], none⟩
def wayS (B : State) (k : Nat) (P : Pier) : State := { B with piers := [(3, P)], belul := { B.belul with ops := [wayO k] } }
def ah (B : State) (C : Cluster) : State := { poolUp B with clusters := [(23, C)], arbs := [], node := { phys := 0x123 }, power := { B.power with idle := .s0 } }
def entry4 (ch : List Chunk) : QEntry := { doff := 0, seq := 7, ord := 0, phase := .active, engine := 1, desc := List.replicate 448 0, chunks := ch }
def q4 (B : State) (e : QEntry) : State := B.setTile 1295 { st := .run, q3 := { ring := 0x17FF, entries := [e] } }
def hartUp (B : State) : State := { B with clusters := [(23, { parked := false })] }
/-- Pair 7 of link 4 as given, its link's pair 0 up. -/
def pairs4 (B : State) (x : Pair) : State := { B with pairs := [(pairKey 4 7, x), (pairKey 4 0, { st := 2 })] }
def bund (B : State) (k : Nat) (b : TBundle) : State := { B with truss := { bundles := [(k, b)] } }
def failedLane (B : State) : State := { B with pairs := [(pairKey 4 7, { upPair with failE := 1 <<< 67 })] }
def fwd4 (B : State) : State := { B with node := { phys := 0x123, pods := [(0x55, some 5)], ports := [(36, openPort4), (47, openPort4)] }, power := { B.power with idle := .s0 } }
def req4p : Pkt := { pkt0 with dphys := 0x123, sphys := 0x122 }
def ans4 : Pkt := { req4p with cls := 1 }
def adder4 (B : State) : State := { B with chans := [(B.chOf 2047, { adder := [⟨2047, 5⟩] })] }
def hl (m p : Bool) : HLine := ⟨lastCw, m, BitVec.allOnes 512, p⟩
def ck4 : Chunk := { idx := 5, acks := [{ pos := 1, home := some (65472, 0), reset := true }, { pos := 2 }] }
/-- A node with a valid export 4095 to node 5, whose map entry is in the pool. -/
def out4 (B : State) : State :=
  let s := poolUp B
  { s with pool := { s.pool with poison := [], bytes := [(0x10028, 0x22), (0x10029, 0x01), (0x1002E, 0x04), (0x1002F, 0x80)] }, clusters := [(23, { parked := false })], arbs := [],
           node := { phys := 0x123, logical := 1, rolev := true, mapBase := 0x10000, mapLen := 6, exports := [(4095, ⟨true, 7, 5⟩)], ports := [(47, openPort4)] },
           job := {}, power := { B.power with idle := .s0 } }

def rd5 (B : State) (op : Nat) : State :=
  { B.modSlot 0 31 fun x => { x with busy := true, picked := some ⟨op, 5, false, false, 64, 0, 0, 9⟩ } with power := { B.power with idle := .s0 } }
def req5 : Req := { client := 0, slot := 31 }
def pk5 (op : Nat) : Picked := ⟨op, 5, false, false, 64, 0, 0, 9⟩
def tick5 (B : State) (T : Tick) : State := { B with tick := T }
def oport (B : State) (o : OPort) : State := { B with node := { B.node with ports := [(47, o)] } }
def up5 : OPort := { st := 3, txWave := 255, rxWave := 255, peer := some ⟨false, 9, 3, 5⟩ }
def beat : Heartbeat := { tick := 9, jobTick := 3, job := 5, slow := true, late := false, held := false, inJob := true, cause := 0, phys := 2 ^ 20 - 1 }
def job5 (B : State) (J : Job) : State := { B with job := J }
/-- A node with a running job whose port 47 is open. -/
def runJob (B : State) (J : Job) : State := { oport B up5 with job := { J with st := .run, id := 65535, pods := 1 }, power := { B.power with idle := .s0 }, tick := { B.tick with running := true, num := 300 } }
def two5 (B : State) (x : TileSt) : State := ({ B with tiles := [] }.setTile 1294 { st := x, core := { fetching := true, pc := 4 } }).setTile 1295 { st := x, core := { fetching := true, pc := 8 } }
def last5 : TileSet := { first := 1294, count := 2, mask := 0 }
def coll5 : Coll := { addr := 0, ctl := 0x21, count := 4, src := 4096, dst := 8192, start := 0, trig := 0, thresh := 0, root := 0, doneW := 0, sig := 0, seq := 7, sign := 9, begun := some 1, trigMet := true }
def barrier : Coll := { coll5 with ctl := 5, count := 1 }
def pkt5 (seq sign : Nat) (B : State) : Pkt := { cls := 3, typ := 1, plane := 3, dphys := B.node.phys, job := 65535, payload := leBytes 2 seq ++ List.replicate 10 0 ++ leBytes 4 sign }
def ready5 (B : State) : State := { B with pool := { B.pool with st := .ready, poison := [] }, arbs := [], clusters := [], piers := [] }
def hdr5 : LaunchHdr := { lid := 2 ^ 32 - 1, attempt := 3, startTick := 900, issueTick := 300, root := 0x00FFF, excl := [2 ^ 20 - 1], pods := 1, job := 65535, depth := 8, coll := 32, msg := 32, reserve := 999, stepWait := 1000000, jdata := [1] }
def launch5 : Launch := { hdr := hdr5, parent := some 0, children := [3, 4] }
def lnode (B : State) : State := { B with node := { phys := 0, ports := [(47, up5)] }, power := { B.power with idle := .s0 }, tick := { B.tick with running := true, st := 2, num := 300 }, job := { B.job with launch := none } }
def launched (B : State) (x : Launch) : State := { lnode B with job := { B.job with launch := some x } }
def preds : List Nat := (rangeFrom 0 64).map fun i => 10 * i
/-- A node with a role in a running job, whose port 47 is open. -/
def roleJob (B : State) (J : Job) : State :=
  { oport B up5 with job := { J with st := .run, id := 65535, pods := 1 }, node := { phys := 0, rolev := true, logical := 0x4567, epoch := 4, ports := [(47, up5)] },
                     power := { B.power with idle := .s0 }, tick := { B.tick with running := true, num := 300 } }
def cpk (seq sign : Nat) : Pkt := { cls := 3, typ := 1, plane := 3, dphys := 0, dlog := 0x4567, depoch := 4, job := 65535, payload := leBytes 2 seq ++ List.replicate 10 0 ++ leBytes 4 sign }
def late5 : Coll := { coll5 with steps := [{ stream := 1, step := 2, expect := 1, lates := 5 }] }
def wayUp (B : State) (x : Launch) : State := { launched B x with node := { phys := 1, ports := [(47, up5)] } }
def lx : Launch := { launch5 with hdr := { hdr5 with issueTick := 250, root := 0 }, parent := some 0, children := [4], got := [4] }
def o5 : LongOp := ⟨9, 0, 31, 0x0B01, 6, 0, 3, [], none⟩
def h8 : LaunchHdr := { hdr5 with excl := [], pods := 1, root := 0 }
/-- A job whose block holds an FX8, and a record at the pool's end that is outside its subset. -/
def fx8Job (B : State) : State :=
  let s := job5 (rd5 (ready5 B) 0x0B04) { st := .armed, pods := 1 }
  { s with node := { phys := 0, mapBase := 0x10000, mapLen := 1 },
           pool := { s.pool with poison := [], bytes := [(0x10007, 0xC0), (2 ^ 40 - 128, 0x01), (2 ^ 40 - 127, 0x02)] } }

def rd6 (B : State) (op : Nat) : State :=
  { B.modSlot 0 31 fun x => { x with busy := true, picked := some ⟨op, 5, false, false, 64, 0, 0, 9⟩ } with power := { B.power with idle := .s0 } }
def req6 : Req := { client := 0, slot := 31 }
/-- An image in the pool. -/
def srcOf6 : ImgSrc := .pool 0x1000 256
def pk6 (op : Nat) : Picked := ⟨op, 5, false, false, 64, 0, 0, 9⟩
def tcfg (src : BitVec 16) (pcLog2 : Nat) (trig : W32) : TraceCfg := ⟨2 ^ 40 - 2 ^ 26, 26, 4, 0, 8, src, 0, trig, pcLog2, false, 10⟩
def talcy6 (B : State) (y : Talcy) : State := { B with talcy := y }
def run6 (B : State) (T : Tile) : State := B.setTile 1295 { T with st := .run }
def tick6 (B : State) (n : W64) : State := { B with tick := { B.tick with running := true, num := n } }
def port6 (B : State) : State := { B with node := { B.node with ports := [(47, { st := 2 })] }, power := { B.power with idle := .s0 } }
def free6 (B : State) : State := { B with job := {}, belul := { B.belul with ops := [] }, talcy := {}, tiles := [] }
def pw6 (B : State) (f : Power → Power) : State := { B with power := f B.power }
def live (B : State) : State := { B with boot := { B.boot with st := .running, stby := true, heldReset := false }, power := { B.power with idle := .s0 }, tick := { B.tick with running := true, num := 300 } }
def boot6 (B : State) (f : Boot → Boot) : State := { B with boot := f B.boot }
def startIn : StartIn := { image := [1, 2], features := List.replicate 18 31, revs := List.replicate 18 1, qualified := false, failStep := none, poolKey := 9, memRate := 0 }
def tiles6 (B : State) : State := (B.setTile 0 { st := .run }).setTile 1295 { st := .run, moved := true, site := 9 }
def host6 (B : State) : State := { B with clusters := [(12, { parked := false, lines := [⟨7, true, 99, false⟩] }), (23, { parked := false })] }
def recs6 : List Rec := [⟨7, 0, 0, [1]⟩, ⟨2, 5, 1, [1]⟩, ⟨2, 5, 2, [7]⟩]
def wear6 (B : State) (w : Wear) : State := { live B with wear := w }
def sweep6 (w : Wear) : State :=
  { wear6 State.reset w with tick := { State.reset.tick with running := true, num := 1000000, boundaries := 1000000 } }
def need5 : Need := ⟨5, 0, 67, true⟩
def low6 (B : State) : State := { live B with power := { (live B).power with managed := true, floorBound := false, decks := [(3, { low := 100, cur := 1200 }), (4, { low := 100, cur := 920 }), (5, { full := 99 })] } }
def trc (B : State) (y : Talcy) (T : Tile) : State := { run6 (talcy6 B y) T with tick := { B.tick with num := 300 } }
def unit6 : Tab TraceUnit := [(3, { stopped := false })]
def dv (B : State) : State := { live B with tick := { B.tick with running := true, num := 300 }, power := { (live B).power with managed := true, floorBound := false, decks := [(3, { low := 100, cur := 1200 }), (4, { low := 100, cur := 920 }), (5, { full := 100 })] } }
/-- A need queued before boundary 9, in a node that is at boundary 9 and runs no job. -/
def wear9 (B : State) (n : Need) : State := { wear6 B { queue := [n], since := [(8, n)] } with job := {}, tick := { B.tick with boundaries := 9 } }
def idle6 (B : State) (i : Idle) : State := pw6 B fun w => { w with idle := i, wakeCtl := 0x40000000 }
def rec9 (B : State) (op : Nat) (x : Option (Nat × List Byte)) : State := boot6 (rd6 B op) fun b => { b with st := .recovery, session := x, update := none }
def o6 : LongOp := ⟨9, 2, 31, 0x0902, 2, 0, 2, [], none⟩
def upd6 (B : State) : State := { boot6 B fun b => { b with update := some (9, [1, 2]) } with belul := { ops := [o6] } }
/-- The module in its ROM, alive. -/
def rom6 (B : State) (n : Nat) : State := boot6 (live B) fun b => { b with st := .rom, failStreak := n }

def rd7 (c : Nat) (B : State) (op : Nat) : State :=
  { B.modSlot c 31 fun x => { x with busy := true, picked := some ⟨op, 5, false, false, 64, 0, 0, 9⟩ } with power := { B.power with idle := .s0 } }
def req7 : Req := { client := 0, slot := 31 }
def pk7 (op : Nat) : Picked := ⟨op, 5, false, false, 64, 0, 0, 9⟩
def boot7 (B : State) : State := { B with boot := { B.boot with stby := true, st := .running }, power := { B.power with idle := .s0 } }
def slot7 (B : State) (x : Slot) : State := (boot7 B).modSlot 2 31 fun _ => x
/-- The header of an opcode in slot 31 of client 2. -/
def head7 (B : State) (op : Nat) : State := { slot7 B { busy := true, lastSeq := 3 } with belul := { (slot7 B { busy := true, lastSeq := 3 }).belul with bytes := Memory.putLe [] 0x21F00 2 op } }
def i3c7 (B : State) (a : Option (BitVec 7)) (off : Nat) : State := { boot7 B with i3c := { addr := a, off := off } }
def long7 (op : Nat) : LongOp := ⟨0x3E000009, 0, 31, op, 2, 5, 100, [], none⟩
def ops7 (B : State) (op : Nat) : State := { B with belul := { B.belul with ops := [long7 op] }, pool := { B.pool with st := .initialising } }
def act7 : Picked → State → State := fun p s => s.ret p.tag
def job7 (B : State) (J : Job) : State := { B with job := J }
def ring7 (B : State) (b : Bool) : State := { B with ks := { B.ks with ringEnable := b } }
def gen7 (B : State) (b : Bool) : State := { B with chans := [(511, { tgRun := b })] }
def hint7 (B : State) (b : Bool) : State := { B with hostint := [(255, { enable := b })] }
def win7 (B : State) (b : Bool) : State := { B with node := { B.node with imports := [(4095, { v := b })] } }
def tile7 (B : State) (x : TileSt) : State := B.setTile 1295 { st := x }
def next7 (a : Nat) (v : W64) (B : State) : State := match exec (.registerWrite a 4 v) B with | .next t => t | _ => B
/-! ### Hypotheses of the statements about every command -/

/-- A state whose queue holds two commands meets the hypothesis of `Obligations.StepRunsFront`. -/
theorem hyps_step_runs_front : ∃ (s : State) (c : Instr) (rest : List Instr), s.pending = c :: rest :=
  ⟨{ pending := [.wfi 1295, .ecall 0] }, .wfi 1295, [.ecall 0], rfl⟩

/-- The state after reset meets the hypothesis of `Obligations.IdleStep`. -/
theorem hyps_idle_step : ∃ s : State, s.pending = [] := ⟨State.reset, rfl⟩

/-- A well-formed and an ill-formed command, for the clauses of `Obligations.EveryCommandCompletes`. -/
theorem hyps_every_command_completes : (∃ i : Instr, wellFormed i = true) ∧ ∃ i : Instr, wellFormed i = false :=
  ⟨⟨.wfi 1295, by decide⟩, ⟨.wfi 1296, by decide⟩⟩

/-- A step that answers a next state, for `Obligations.QueueFirstInFirstOut`. -/
theorem hyps_queue_first_in_first_out :
    ∃ (s t : State) (c : Instr) (rest : List Instr), s.pending = c :: rest ∧ step s = .next t :=
  ⟨{ pending := [.parentLost none, .ecall 0] }, _, .parentLost none, [.ecall 0], rfl, rfl⟩

/-- A command that completes, for `Obligations.CommandFrame`. -/
theorem hyps_command_frame : ∃ (i : Instr) (s t : State), exec i s = .next t := ⟨.parentLost none, State.reset, _, rfl⟩

/-- The state after reset has the invariant and steps, for `Obligations.StepKeepsInvariant`. -/
theorem hyps_step_keeps_invariant : ∃ s t : State, NodeInv s ∧ step s = .next t :=
  ⟨State.reset, State.reset, by unfold NodeInv LogOk PoolOk BootOk; decide, rfl⟩

/-! ### The hypotheses of the statements about each family -/

/-- States and operands that meet the hypotheses of `Obligations.ResetState`. -/
theorem hyps_reset_state : ∃ (t : Nat) (q : Nat), (t < 1296) ∧ (q < 4) :=
  ⟨1295, 3, by decide +kernel⟩

/-- States and operands that meet the hypotheses of each clause of `Obligations.TileQueuesAndChannels`. -/
theorem hyps_tile_queues_and_channels :
    (∃ (t : Nat) (q : Nat) (val : W32) (s : State), (t < 1296) ∧ (q < 4) ∧ ((s.tile t).st = TileSt.run) ∧ (fld (BitVec.toNat val) 7 15 * 128 <
      3145728) ∧ (((s.tile t).queue q).entries.length < 16)) ∧
    (∃ (t : Nat) (q : Nat) (val : W32) (s : State), (t < 1296) ∧ (q < 4) ∧ ((s.tile t).st ≠ TileSt.unavailable) ∧ ((s.tile t).st ≠ TileSt.run ∨
      3145728 ≤ fld (BitVec.toNat val) 7 15 * 128 ∨ 16 ≤ ((s.tile t).queue q).entries.length)) ∧
    (∃ (t : Nat) (s : State), (t < 1296) ∧ ((s.tile t).st = TileSt.run) ∧ ((s.tile t).exiting = false) ∧ ((s.tile t).stopAsked = false)) ∧
    (∃ (t : Nat) (s : State), (t < 1296) ∧ ((s.tile t).st = TileSt.run) ∧ ((s.tile t).exiting = true) ∧ (∀ q < 4, ((s.tile t).queue q).entries =
      []) ∧ (∀ o ∈ s.belul.ops, o.opcode ≠ 3076)) ∧
    (∃ (t : Nat) (n : Nat) (val : W32) (s : State), (t < 1296) ∧ (n < 4) ∧ ((s.tile t).st ≠ TileSt.unavailable) ∧ (((s.tile t).queue n).entries =
      []) ∧ (fld (BitVec.toNat val) 9 13 ≤ 6143)) ∧
    (∃ (t : Nat) (n : Nat) (val : W32) (s : State), (t < 1296) ∧ (n < 4) ∧ ((s.tile t).st ≠ TileSt.unavailable) ∧ (((s.tile t).chan n).enable =
      true) ∧ (bitAt (BitVec.toNat val) 31 = false)) ∧
    (∃ (t : Nat) (n : Nat) (val : W32) (s : State), (t < 1296) ∧ (n < 4) ∧ ((s.tile t).st ≠ TileSt.unavailable) ∧ (((s.tile t).chan n).enable =
      false) ∧ (bitAt (BitVec.toNat val) 31 = true) ∧ (rxLegal (fld (BitVec.toNat val) 26 4) (fld (BitVec.toNat val) 22 4) (fld (BitVec.toNat
      val) 6 16 * 64) = true)) ∧
    (∃ (t : Nat) (n : Nat) (val : W32) (s : State), (t < 1296) ∧ (n < 4) ∧ ((s.tile t).st ≠ TileSt.unavailable) ∧ (BitVec.toNat (val - ((s.tile
      t).chan n).tail) ≤ BitVec.toNat (((s.tile t).chan n).head - ((s.tile t).chan n).tail))) :=
  ⟨
    ⟨1295, 3, 0x002FFF80, runTile State.reset 15, by decide +kernel⟩,
    ⟨1295, 3, 0, runTile State.reset 16, by decide +kernel⟩,
    ⟨1295, runTile State.reset 1, by decide +kernel⟩,
    ⟨1295, tileIs State.reset { st := .run, exiting := true, exitCause := 1, exitCode := 7 }, by decide +kernel⟩,
    ⟨1295, 3, 0x002FFE00, runTile State.reset 0, by decide +kernel⟩,
    ⟨1295, 3, 0x7FFFFFFF, tileIs State.reset { rx := [(3, { enable := true, head := 3, tail := 1 })] }, by decide +kernel⟩,
    ⟨1295, 3, 0x9D001000, tileIs State.reset { rx := [(3, { head := 3, tail := 1 })] }, by decide +kernel⟩,
    ⟨1295, 3, 3, tileIs State.reset { rx := [(3, { enable := true, head := 3, tail := 0xFFFFFFFF })] }, by decide +kernel⟩⟩

/-- States and operands that meet the hypotheses of `Obligations.TrestleRegisters`. -/
theorem hyps_trestle_registers : ∃ (t : Nat) (s : State), (t < 1296) ∧ ((s.tile t).st ≠ TileSt.unavailable) :=
  ⟨1295, tileIs State.reset { st := .run, core := { fetching := true, waiting := true }, pend := 1, mask := 1 }, by decide +kernel⟩

/-- States and operands that meet the hypotheses of `Obligations.ExceptionsTaken`. -/
theorem hyps_exceptions_taken : ∃ (t : Nat) (s : State), (t < 1296) ∧ ((s.tile t).steps = true) ∧ ((s.tile t).core.inHandler = false) ∧
      (BitVec.getLsbD (s.tile t).core.dcsr 2 = false) ∧ (BitVec.getLsbD (s.tile t).core.dcsr 15 = false) :=
  ⟨1295, tileIs State.reset { st := .run, core := core1 }, by decide +kernel⟩

/-- States and operands that meet the hypotheses of each clause of `Obligations.HandlerReturnAndWait`. -/
theorem hyps_handler_return_and_wait :
    (∃ (t : Nat) (s : State), (t < 1296) ∧ ((s.tile t).core.inHandler = true)) ∧
    (∃ (t : Nat) (s : State), (t < 1296) ∧ ((s.tile t).steps = true) ∧ (BitVec.getLsbD (s.tile t).core.dcsr 2 = false) ∧ ((s.tile
      t).core.inHandler = false)) ∧
    (∃ (t : Nat) (s : State) (hi : Bool) (val : W32), (t < 1296) ∧ ((s.tile t).core.waiting = true) ∧ ((s.tile t).st ≠ TileSt.unavailable) ∧
      (((s.tile t).pend ||| halfBits hi val &&& mayWrite View.device) &&& ~~~(s.tile t).mask ≠ 0)) :=
  ⟨
    ⟨1295, tileIs State.reset { st := .run, core := { core1 with inHandler := true }, pend := 1, mask := 0 }, by decide +kernel⟩,
    ⟨1295, tileIs State.reset { st := .run, core := core1 }, by decide +kernel⟩,
    ⟨1295, tileIs State.reset { st := .run, core := { core1 with waiting := true }, mask := 0 }, true, 0xFFFFFFFF, by decide +kernel⟩⟩

/-- States and operands that meet the hypotheses of each clause of `Obligations.CsrInstructions`. -/
theorem hyps_csr_instructions :
    (∃ (s : State) (t : Nat) (x : Nat), (BitVec.getLsbD (s.tile t).core.dcsr 2 = false) ∧ (x ≠ t)) ∧
    (∃ (t : Nat) (op : CsrOp) (n : BitVec 12) (rd : Nat) (rs : Nat) (s : State), (t < 1296) ∧ (rd < 32) ∧ (rs < 32) ∧ ((s.tile t).steps = true) ∧
      (csrIllegal (s.tile t).core op n.toNat rs = false)) ∧
    (∃ (t : Nat) (op : CsrOp) (n : BitVec 12) (rd : Nat) (rs : Nat) (s : State), (t < 1296) ∧ (rd < 32) ∧ (rs < 32) ∧ ((s.tile t).steps = true) ∧
      (csrIllegal (s.tile t).core op n.toNat rs = true) ∧ ((s.tile t).core.inHandler = false) ∧ (BitVec.getLsbD (s.tile t).core.dcsr 2 = false)) :=
  ⟨
    ⟨tileIs State.reset { st := .run, core := core1 }, 1295, 0, by decide +kernel⟩,
    ⟨1295, .rw, 0x305, 31, 31, tileIs State.reset { st := .run, core := core1 }, by decide +kernel⟩,
    ⟨1295, .rw, 0xFC0, 31, 31, tileIs State.reset { st := .run, core := core1 }, by decide +kernel⟩⟩

/-- States and operands that meet the hypotheses of each clause of `Obligations.TileStoreAccesses`. -/
theorem hyps_tile_store_accesses :
    (∃ (t : Nat) (width : Nat) (rd : Nat) (rs : Nat) (ilen : Nat) (addr : W32) (s : State), (t < 1296) ∧ (rd < 32) ∧ (rs < 32) ∧ (width = 1 ∨
      width = 2 ∨ width = 4) ∧ (ilen = 2 ∨ ilen = 4) ∧ ((s.tile t).steps = true) ∧ (BitVec.getLsbD (s.tile t).core.dcsr 2 = false) ∧ (trigHit
      (s.tile t).core 1 (BitVec.toNat addr) = false) ∧ (BitVec.toNat addr + width ≤ 3145728) ∧ (BitVec.toNat addr % width = 0) ∧ (Tab.get 0
      (s.tile t).storeErr (BitVec.toNat addr / 8) = 0)) ∧
    (∃ (t : Nat) (width : Nat) (rd : Nat) (rs : Nat) (ilen : Nat) (addr : W32) (s : State), (t < 1296) ∧ (rd < 32) ∧ (rs < 32) ∧ (width = 1 ∨
      width = 2 ∨ width = 4) ∧ (ilen = 2 ∨ ilen = 4) ∧ ((s.tile t).steps = true) ∧ (BitVec.getLsbD (s.tile t).core.dcsr 2 = false) ∧ (trigHit
      (s.tile t).core 1 (BitVec.toNat addr) = false) ∧ ((s.tile t).core.inHandler = false) ∧ (BitVec.toNat addr + width ≤ 3145728) ∧
      (BitVec.toNat addr % width ≠ 0)) ∧
    (∃ (t : Nat) (width : Nat) (rd : Nat) (rs : Nat) (ilen : Nat) (addr : W32) (s : State), (t < 1296) ∧ (rd < 32) ∧ (rs < 32) ∧ (width = 1 ∨
      width = 2 ∨ width = 4) ∧ (ilen = 2 ∨ ilen = 4) ∧ ((s.tile t).steps = true) ∧ (BitVec.getLsbD (s.tile t).core.dcsr 2 = false) ∧ (trigHit
      (s.tile t).core 1 (BitVec.toNat addr) = false) ∧ ((s.tile t).core.inHandler = false) ∧ (3145728 < BitVec.toNat addr + width) ∧
      (BitVec.toNat addr < 1073741824 ∨ 1073807360 ≤ BitVec.toNat addr)) ∧
    (∃ (t : Nat) (width : Nat) (rd : Nat) (rs : Nat) (ilen : Nat) (addr : W32) (s : State), (t < 1296) ∧ (rd < 32) ∧ (rs < 32) ∧ (width = 1 ∨
      width = 2 ∨ width = 4) ∧ (ilen = 2 ∨ ilen = 4) ∧ ((s.tile t).steps = true) ∧ (BitVec.getLsbD (s.tile t).core.dcsr 2 = false) ∧ (trigHit
      (s.tile t).core 0 (BitVec.toNat addr) = false) ∧ (BitVec.toNat addr + width ≤ 3145728) ∧ (BitVec.toNat addr % width = 0) ∧ (∀ e ∈ (s.tile
      t).storeErr, e.1 ≠ BitVec.toNat addr / 8)) ∧
    (∃ (t : Nat) (width : Nat) (rd : Nat) (rs : Nat) (ilen : Nat) (addr : W32) (s : State), (t < 1296) ∧ (rd < 32) ∧ (rs < 32) ∧ (width = 1 ∨
      width = 2 ∨ width = 4) ∧ (ilen = 2 ∨ ilen = 4) ∧ ((s.tile t).steps = true) ∧ (BitVec.getLsbD (s.tile t).core.dcsr 2 = false) ∧ (trigHit
      (s.tile t).core 0 (BitVec.toNat addr) = false) ∧ ((s.tile t).core.inHandler = false) ∧ (BitVec.toNat addr + width ≤ 3145728) ∧
      (BitVec.toNat addr % width ≠ 0)) ∧
    (∃ (t : Nat) (width : Nat) (rd : Nat) (rs : Nat) (ilen : Nat) (addr : W32) (s : State), (t < 1296) ∧ (rd < 32) ∧ (rs < 32) ∧ (width = 1 ∨
      width = 2 ∨ width = 4) ∧ (ilen = 2 ∨ ilen = 4) ∧ ((s.tile t).steps = true) ∧ (BitVec.getLsbD (s.tile t).core.dcsr 2 = false) ∧ (trigHit
      (s.tile t).core 0 (BitVec.toNat addr) = false) ∧ ((s.tile t).core.inHandler = false) ∧ (3145728 < BitVec.toNat addr + width) ∧
      (BitVec.toNat addr < 1073741824 ∨ 1073807360 ≤ BitVec.toNat addr)) ∧
    (∃ (t : Nat) (w : Nat) (s : State), (t < 1296) ∧ (8 * w < 3145728) ∧ ((s.tile t).correctPend.contains w = true) ∧ (Tab.get 0 (s.tile
      t).storeErr w = 1)) :=
  ⟨
    ⟨1295, 4, 31, 31, 2, 0x2FFFFC, tileIs State.reset { st := .run, core := core1, store := [(0x2FFFFC, 9)] }, by decide +kernel⟩,
    ⟨1295, 4, 31, 31, 2, 0x2FFFFA, tileIs State.reset { st := .run, core := core1, store := [(0x2FFFFC, 9)] }, by decide +kernel⟩,
    ⟨1295, 4, 31, 31, 2, 0x300000, tileIs State.reset { st := .run, core := core1, store := [(0x2FFFFC, 9)] }, by decide +kernel⟩,
    ⟨1295, 2, 31, 31, 2, 0x2FFFFE, tileIs State.reset { st := .run, core := core1, store := [(0x2FFFFF, 0x80)] }, by decide +kernel⟩,
    ⟨1295, 4, 31, 31, 2, 0x2FFFFA, tileIs State.reset { st := .run, core := core1, store := [(0x2FFFFC, 9)] }, by decide +kernel⟩,
    ⟨1295, 4, 31, 31, 2, 0x300000, tileIs State.reset { st := .run, core := core1, store := [(0x2FFFFC, 9)] }, by decide +kernel⟩,
    ⟨1295, 393215, tileIs State.reset { storeErr := [(393215, 1)], correctPend := [393215] }, by decide +kernel⟩⟩

/-- States and operands that meet the hypotheses of each clause of `Obligations.DebugModule`. -/
theorem hyps_debug_module :
    (∃ (t : Nat) (s : State), (t < 1296) ∧ ((s.tile t).st = TileSt.run) ∧ ((s.tile t).member = false) ∧ ((s.tile t).drain = DrainTo.none)) ∧
    (∃ (t : Nat) (s : State), (t < 1296) ∧ ((s.tile t).moving = true) ∧ ((s.tile t).haltAsked = none)) ∧
    (∃ (t : Nat) (s : State) (n : Nat), (t < 1296) ∧ ((s.tile t).core.cmderr = 0) ∧ (n < 32) ∧ ((s.tile t).st = TileSt.halted)) ∧
    (∃ (t : Nat) (s : State) (n : Nat), (t < 1296) ∧ ((s.tile t).core.cmderr = 0) ∧ (n < 32) ∧ ((s.tile t).st ≠ TileSt.halted)) :=
  ⟨
    ⟨1295, tileAs State.reset { st := .run, core := coreR }, by decide +kernel⟩,
    ⟨1295, tileAs State.reset { st := .draining, drain := .move, core := coreR }, by decide +kernel⟩,
    ⟨1295, tileAs State.reset { st := .halted, core := { coreR with debug := true, dpc := 0x80, arg0 := 9 } }, 31, by decide +kernel⟩,
    ⟨1295, tileAs State.reset { st := .run, core := coreR }, 31, by decide +kernel⟩⟩

/-- States and operands that meet the hypotheses of each clause of `Obligations.TileCommands`. -/
theorem hyps_tile_commands :
    (∃ (r : Req) (ts : TileSet) (p : Picked) (s : State), (badTileSet ts = false) ∧ (noLoad s ts = true) ∧ (Ready r 3073 p s) ∧ (∀ t ∈ tilesNamed
      ts, (s.tile t).st = TileSt.reset ∨ (s.tile t).st = TileSt.loaded ∨ (s.tile t).st = TileSt.stopped ∨ (s.tile t).st = TileSt.faulted)) ∧
    (∃ (r : Req) (ts : TileSet) (p : Picked) (s : State) (va : Nat) (len : Nat) (off : Nat) (tag : Nat), (badTileSet ts = false) ∧ (noLoad s ts =
      true) ∧ (Ready r 3074 p s) ∧ (va < 2 ^ 64) ∧ (1 ≤ len) ∧ (off + len ≤ 3145728) ∧ (tag < 4096) ∧ (tilesNamed ts ≠ []) ∧ (∀ t ∈ tilesNamed
      ts, ((s.tile t).st = TileSt.reset ∨ (s.tile t).st = TileSt.loaded) ∧ (s.tile t).filling = true)) ∧
    (∃ (r : Req) (ts : TileSet) (p : Picked) (s : State) (tag : Nat) (entry : Nat) (arg : Nat), (badTileSet ts = false) ∧ (noLoad s ts = true) ∧
      (Ready r 3075 p s) ∧ (tag < 4096) ∧ (entry < 2 ^ 32) ∧ (arg < 2 ^ 32) ∧ (∀ t ∈ tilesNamed ts, (s.tile t).st = TileSt.loaded)) ∧
    (∃ (r : Req) (ts : TileSet) (p : Picked) (s : State), (badTileSet ts = false) ∧ (noLoad s ts = true) ∧ (Ready r 3076 p s) ∧ (∀ t ∈ tilesNamed
      ts, (s.tile t).st = TileSt.run ∨ (s.tile t).st = TileSt.halted ∨ (s.tile t).st = TileSt.draining)) ∧
    (∃ (r : Req) (ts : TileSet) (p : Picked) (s : State), (badTileSet ts = false) ∧ (noLoad s ts = true) ∧ (Ready r 3078 p s) ∧ (∀ t ∈ tilesNamed
      ts, (s.tile t).st = TileSt.run)) ∧
    (∃ (r : Req) (ts : TileSet) (p : Picked) (s : State), (badTileSet ts = false) ∧ (noLoad s ts = true) ∧ (Ready r 3079 p s) ∧ (∀ t ∈ tilesNamed
      ts, (s.tile t).st = TileSt.halted)) ∧
    (∃ (r : Req) (ts : TileSet) (p : Picked) (s : State), (badTileSet ts = false) ∧ (noLoad s ts = true) ∧ (Ready r 2050 p s) ∧ (∀ t ∈ tilesNamed
      ts, (s.tile t).st = TileSt.reset)) ∧
    (∃ (r : Req) (ts : TileSet) (p : Picked) (s : State) (t : Nat) (pre : List Nat) (post : List Nat), (badTileSet ts = false) ∧ (noLoad s ts =
      true) ∧ (tilesNamed ts = pre ++ t :: post) ∧ (Ready r 3075 p s) ∧ (∀ x ∈ pre, (s.tile x).st = TileSt.loaded) ∧ ((s.tile t).st ≠
      TileSt.loaded)) ∧
    (∃ (r : Req) (ts : TileSet) (p : Picked) (s : State) (t : Nat) (pre : List Nat) (post : List Nat), (badTileSet ts = false) ∧ (noLoad s ts =
      true) ∧ (tilesNamed ts = pre ++ t :: post) ∧ (Ready r 3079 p s) ∧ (∀ x ∈ pre, (s.tile x).st = TileSt.halted) ∧ ((s.tile t).st ≠
      TileSt.halted)) ∧
    (∃ (r : Req) (ts : TileSet) (p : Picked) (s : State) (t : Nat), (badTileSet ts = false) ∧ (noLoad s ts = true) ∧ (t < 1296) ∧ (Ready r 3077 p
      s) ∧ ((s.tile t).moving = false)) :=
  ⟨
    ⟨req, lastTwo, picked 0x0C01, two (ready State.reset 0x0C01) { st := .loaded, pend := 3 } { st := .faulted }, by decide +kernel⟩,
    ⟨req, lastTwo, picked 0x0C02, two (ready State.reset 0x0C02) { filling := true } { st := .loaded, filling := true }, 2 ^ 64 - 1, 0x300000, 0,
      4095, by decide +kernel⟩,
    ⟨req, lastTwo, picked 0x0C03, two (ready State.reset 0x0C03) { st := .loaded } { st := .loaded, core := coreR }, 4095, 2 ^ 32 - 1, 2 ^ 32 -
      1, by decide +kernel⟩,
    ⟨req, lastTwo, picked 0x0C04, two (ready State.reset 0x0C04) { st := .halted } { st := .draining, drain := .halt }, by decide +kernel⟩,
    ⟨req, lastTwo, picked 0x0C06, two (ready State.reset 0x0C06) { st := .run, core := coreR } { st := .run, core := coreR }, by decide +kernel⟩,
    ⟨req, lastTwo, picked 0x0C07, two (ready State.reset 0x0C07) { st := .halted, core := coreR } { st := .halted, core := coreR },
      by decide +kernel⟩,
    ⟨req, lastTwo, picked 0x0802, two (ready State.reset 0x0802) {} {}, by decide +kernel⟩,
    ⟨req, lastTwo, picked 0x0C03, two (ready State.reset 0x0C03) { st := .loaded } { st := .run }, 1295, [1294], [], by decide +kernel⟩,
    ⟨req, lastTwo, picked 0x0C07, two (ready State.reset 0x0C07) { st := .halted } { st := .run }, 1295, [1294], [], by decide +kernel⟩,
    ⟨req, lastTwo, picked 0x0C05, two (ready State.reset 0x0C05) { st := .loaded }
      { st := .run, exitCause := 3, exitCode := 9, q1 := { ring := 3, entries := [chainE] } }, 1295, by decide +kernel⟩⟩

/-- States and operands that meet the hypotheses of `Obligations.LoadOfRunningTileRefused`. -/
theorem hyps_load_of_running_tile_refused : ∃ (r : Req) (ts : TileSet) (va : Nat) (len : Nat) (off : Nat) (tag : Nat) (p : Picked) (s : State),
      (badTileSet ts = false) ∧ (noLoad s ts = true) ∧ (va < 2 ^ 64) ∧ (len < 2 ^ 32) ∧ (off < 2 ^ 32) ∧ (tag < 4096) ∧ (1 ≤ len) ∧ (off + len ≤
      3145728) ∧ (Ready r 3074 p s) ∧ (∃ t ∈ tilesNamed ts, (s.tile t).st = TileSt.run) :=
  ⟨req, lastTwo, 2 ^ 64 - 1, 0x300000, 0, 4095, picked 0x0C02, two (ready State.reset 0x0C02) { filling := true } { st := .run },
      by decide +kernel⟩

/-- States and operands that meet the hypotheses of each clause of `Obligations.TileStartAndReset`. -/
theorem hyps_tile_start_and_reset :
    (∃ (t : Nat) (n : Nat), (t < 1296) ∧ (n < 32) ∧ (n ≠ 10) ∧ (n ≠ 11)) ∧
    (∃ (t : Nat) (x : Nat), (t < 1296) ∧ (x ≠ t)) :=
  ⟨
    ⟨1295, 31, by decide +kernel⟩,
    ⟨1295, 0, by decide +kernel⟩⟩

/-- States and operands that meet the hypotheses of each clause of `Obligations.TileLifeEvents`. -/
theorem hyps_tile_life_events :
    (∃ (t : Nat) (s : State), (t < 1296) ∧ ((s.tile t).filling = true) ∧ ((s.tile t).load = none) ∧ (∀ o ∈ s.belul.ops, o.opcode ≠ 3073)) ∧
    (∃ (t : Nat) (s : State) (l : LoadRun), (t < 1296) ∧ ((s.tile t).filling = true) ∧ ((s.tile t).load = some l)) ∧
    (∃ (t : Nat) (s : State), (t < 1296) ∧ ((s.tile t).stopAsked = true) ∧ ((s.tile t).st = TileSt.run) ∧ ((s.tile t).drain = DrainTo.none)) ∧
    (∃ (t : Nat) (s : State), (t < 1296) ∧ ((s.tile t).stopAsked = true) ∧ ((s.tile t).st = TileSt.draining) ∧ ((s.tile t).drain = DrainTo.move)) ∧
    (∃ (t : Nat) (s : State), (t < 1296) ∧ ((s.tile t).st = TileSt.draining) ∧ ((s.tile t).engineIdle = true) ∧ ((s.tile t).drain = DrainTo.move)
      ∧ ((s.tile t).haltAsked = none) ∧ ((s.tile t).storeErr = [])) ∧
    (∃ (t : Nat) (s : State), (t < 1296) ∧ ((s.tile t).st = TileSt.draining) ∧ ((s.tile t).engineIdle = true) ∧ ((s.tile t).drain = DrainTo.halt)
      ∧ (∀ o ∈ s.belul.ops, o.opcode ≠ 3078) ∧ ((s.tile t).core.resumeWaiting = false)) ∧
    (∃ (t : Nat) (s : State), (t < 1296) ∧ ((s.tile t).st = TileSt.draining) ∧ ((s.tile t).engineIdle = true) ∧ ((s.tile t).drain = DrainTo.stop)) ∧
    (∃ (t : Nat) (s : State), (t < 1296) ∧ ((s.tile t).st = TileSt.draining) ∧ ((s.tile t).engineIdle = true) ∧ ((s.tile t).drain =
      DrainTo.fault)) ∧
    (∃ (t : Nat) (s : State) (failing : List Nat) (o : LongOp), (t < 1296) ∧ (s.opOf 2050 = some o) ∧ (s.op o.handle = some o) ∧ (∀ x ∈ failing,
      x < 1296 ∧ x ∈ o.left) ∧ (failing.length ≤ 54)) :=
  ⟨
    ⟨1295, tileAs State.reset { filling := true }, by decide +kernel⟩,
    ⟨1295, tileAs State.reset { filling := true, load := some { handle := 9, va := 65536, off := 0, len := 4, tag := 0, share := 1 } },
      { handle := 9, va := 65536, off := 0, len := 4, tag := 0, share := 1 }, by decide +kernel⟩,
    ⟨1295, tileAs State.reset { st := .run, stopAsked := true, core := coreR }, by decide +kernel⟩,
    ⟨1295, tileAs State.reset { st := .draining, drain := .move, stopAsked := true, core := coreR }, by decide +kernel⟩,
    ⟨1295, { tileAs State.reset { st := .draining, drain := .move, core := coreR } with wear := { moving := [⟨1, 11, 1295, true⟩] } }, by decide +kernel⟩,
    ⟨1295, tileAs State.reset { st := .draining, drain := .halt, core := coreR }, by decide +kernel⟩,
    ⟨1295, tileAs State.reset { st := .draining, drain := .stop, core := coreR, latheQ := some 1, chain := some runV }, by decide +kernel⟩,
    ⟨1295, tileAs State.reset { st := .draining, drain := .fault, core := coreR }, by decide +kernel⟩,
    ⟨1295, withOp State.reset
      { handle := 9, client := 0, slot := 31, opcode := 0x0802, punit := 6, position := 0, total := 2, left := [1294, 1295], wrote := none },
      [1295], { handle := 9, client := 0, slot := 31, opcode := 0x0802, punit := 6, position := 0, total := 2, left := [1294, 1295], wrote := none },
      by decide +kernel⟩⟩

/-- States and operands that meet the hypotheses of each clause of `Obligations.DescriptorStarts`. -/
theorem hyps_descriptor_starts :
    (∃ (t : Nat) (q : Nat) (e : QEntry) (look : Header) (s : State), (t < 1296) ∧ (q < 4) ∧ ((s.tile t).st = TileSt.run) ∧ ((s.tile t).storeErr =
      []) ∧ (startable (s.tile t) q = some (e, look)) ∧ ((parseHeader (Memory.bytes (s.tile t).store e.doff 128)).casc = true) ∧ ((s.queue t
      q).lastErr = true)) ∧
    (∃ (t : Nat) (q : Nat) (e : QEntry) (look : Header) (s : State) (x : Nat), (t < 1296) ∧ (q < 4) ∧ ((s.tile t).st = TileSt.run) ∧ ((s.tile
      t).storeErr = []) ∧ (startable (s.tile t) q = some (e, look)) ∧ ((parseHeader (Memory.bytes (s.tile t).store e.doff 128)).casc = false ∨
      (s.queue t q).lastErr = false) ∧ (headerReason (parseHeader (Memory.bytes (s.tile t).store e.doff 128)) = some x)) ∧
    (∃ (t : Nat) (q : Nat) (e : QEntry) (look : Header) (s : State), (t < 1296) ∧ (q < 4) ∧ ((s.tile t).st = TileSt.run) ∧ ((s.tile t).storeErr =
      []) ∧ (startable (s.tile t) q = some (e, look)) ∧ ((parseHeader (Memory.bytes (s.tile t).store e.doff 128)).casc = false ∨ (s.queue t
      q).lastErr = false) ∧ (headerReason (parseHeader (Memory.bytes (s.tile t).store e.doff 128)) = none) ∧ (predTest (parseHeader (Memory.bytes
      (s.tile t).store e.doff 128)).predOp (Memory.le (s.tile t).store (parseHeader (Memory.bytes (s.tile t).store e.doff 128)).predOff 4)
      (parseHeader (Memory.bytes (s.tile t).store e.doff 128)).predVal = false) ∧ ((parseHeader (Memory.bytes (s.tile t).store e.doff
      128)).predOp ≠ 0)) ∧
    (∃ (t : Nat) (q : Nat) (e : QEntry) (look : Header) (s : State), (t < 1296) ∧ (q < 4) ∧ ((s.tile t).st = TileSt.run) ∧ ((s.tile t).storeErr =
      []) ∧ (startable (s.tile t) q = some (e, look)) ∧ ((parseHeader (Memory.bytes (s.tile t).store e.doff 128)).casc = false ∨ (s.queue t
      q).lastErr = false) ∧ (headerReason (parseHeader (Memory.bytes (s.tile t).store e.doff 128)) = none) ∧ (predTest (parseHeader (Memory.bytes
      (s.tile t).store e.doff 128)).predOp (Memory.le (s.tile t).store (parseHeader (Memory.bytes (s.tile t).store e.doff 128)).predOff 4)
      (parseHeader (Memory.bytes (s.tile t).store e.doff 128)).predVal = true ∨ (parseHeader (Memory.bytes (s.tile t).store e.doff 128)).predOp =
      0) ∧ ((parseHeader (Memory.bytes (s.tile t).store e.doff 128)).engine = 0) ∧ ((parseHeader (Memory.bytes (s.tile t).store e.doff
      128)).fmask ≠ 0)) ∧
    (∃ (t : Nat) (q : Nat) (e : QEntry) (look : Header) (s : State), (t < 1296) ∧ (q < 4) ∧ ((s.tile t).st = TileSt.run) ∧ ((s.tile t).storeErr =
      []) ∧ (startable (s.tile t) q = some (e, look)) ∧ ((parseHeader (Memory.bytes (s.tile t).store e.doff 128)).casc = false ∨ (s.queue t
      q).lastErr = false) ∧ (headerReason (parseHeader (Memory.bytes (s.tile t).store e.doff 128)) = none) ∧ (predTest (parseHeader (Memory.bytes
      (s.tile t).store e.doff 128)).predOp (Memory.le (s.tile t).store (parseHeader (Memory.bytes (s.tile t).store e.doff 128)).predOff 4)
      (parseHeader (Memory.bytes (s.tile t).store e.doff 128)).predVal = true ∨ (parseHeader (Memory.bytes (s.tile t).store e.doff 128)).predOp =
      0) ∧ ((parseHeader (Memory.bytes (s.tile t).store e.doff 128)).engine ≠ 0)) :=
  ⟨
    ⟨1295, 3, { doff := 0x2FFF80, seq := 7, ord := 0 },
      { engine := 1, wait := false, notify := false, casc := true, predOp := 0, fmask := 0, user := 5, predOff := 0, predVal := 0, rsv := false },
      q3Is State.reset { entries := [{ doff := 0x2FFF80, seq := 7, ord := 0 }], lastErr := true } { store := [(0x2FFF80, 5), (0x2FFF83, 0x48)] },
      by decide +kernel⟩,
    ⟨1295, 3, { doff := 0x2FFF80, seq := 7, ord := 0 },
      { engine := 1, wait := false, notify := false, casc := false, predOp := 0, fmask := 0, user := 5, predOff := 0, predVal := 0, rsv := true },
      q3Is State.reset { entries := [{ doff := 0x2FFF80, seq := 7, ord := 0 }] } { store := [(0x2FFF80, 5), (0x2FFF82, 1), (0x2FFF83, 0x40)] },
      0x30, by decide +kernel⟩,
    ⟨1295, 3, { doff := 0x2FFF80, seq := 7, ord := 0 },
      { engine := 1, wait := false, notify := false, casc := false, predOp := 1, fmask := 0, user := 5, predOff := 64, predVal := 0, rsv := false },
      q3Is State.reset { entries := [{ doff := 0x2FFF80, seq := 7, ord := 0 }] } { store := [(0x2FFF80, 5), (0x2FFF83, 0x41), (0x2FFF84, 64)] },
      by decide +kernel⟩,
    ⟨1295, 3, { doff := 0x2FFF80, seq := 7, ord := 0 },
      { engine := 0, wait := false, notify := false, casc := false, predOp := 0, fmask := 15, user := 5, predOff := 0, predVal := 0, rsv := false },
      q3Is State.reset { entries := [{ doff := 0x2FFF80, seq := 7, ord := 0 }] } { store := [(0x2FFF80, 5), (0x2FFF82, 0xF0)] },
      by decide +kernel⟩,
    ⟨1295, 3, { doff := 0x2FFF80, seq := 7, ord := 0 },
      { engine := 1, wait := false, notify := false, casc := false, predOp := 0, fmask := 0, user := 5, predOff := 0, predVal := 0, rsv := false },
      q3Is State.reset { entries := [{ doff := 0x2FFF80, seq := 7, ord := 0 }] } { store := [(0x2FFF80, 5), (0x2FFF83, 0x40)] },
      by decide +kernel⟩⟩

/-- States and operands that meet the hypotheses of `Obligations.CompletionPosted`. -/
theorem hyps_completion_posted : ∃ (t : Nat) (q : Nat) (e : QEntry) (rest : List QEntry) (s : State), (t < 1296) ∧ (q < 4) ∧ ((s.tile t).st =
      TileSt.run) ∧ ((s.queue t q).entries = e :: rest) ∧ (e.phase = Phase.finished) :=
  ⟨1295, 3, { doff := 0, seq := 0xFFFFFFFF, ord := 0, phase := .finished, status := 0x10 }, [chainE], q3Is State.reset
      { entries := [{ doff := 0, seq := 0xFFFFFFFF, ord := 0, phase := .finished, status := 0x10 }, chainE] } {}, by decide +kernel⟩

/-- States and operands that meet the hypotheses of each clause of `Obligations.EngineSteps`. -/
theorem hyps_engine_steps :
    (∃ (t : Nat) (q : Nat) (e : QEntry) (s : State), (t < 1296) ∧ (q < 4) ∧ ((s.tile t).st = TileSt.run) ∧ ((s.queue t q).active 0 = some e) ∧ (∀
      n < 4, bitAt (parseHeader e.desc).fmask n = true → ∀ x ∈ (s.queue t n).entries, e.ord ≤ x.ord)) ∧
    (∃ (t : Nat) (q : Nat) (e : QEntry) (s : State) (needs : Needs) (n : Need3), (t < 1296) ∧ (q < 4) ∧ ((s.tile t).st = TileSt.run) ∧ ((s.queue
      t q).fault = none) ∧ ((s.queue t q).req = none) ∧ (moverNeeds s t q = some (e, needs)) ∧ (needs.out = []) ∧ ((s.queue t q).firstUnmet
      needs.leases = some n) ∧ ((s.queue t q).leases.length < 16) ∧ (s.served (s.tile t).space = true) ∧ ((if (s.queue t q).fresh = true then
      none else s.extent (s.tile t).space n.va) = none)) ∧
    (∃ (t : Nat) (q : Nat) (e : QEntry) (s : State) (needs : Needs) (n : Need3) (x : Extent), (t < 1296) ∧ (q < 4) ∧ ((s.tile t).st = TileSt.run)
      ∧ ((s.queue t q).fault = none) ∧ ((s.queue t q).req = none) ∧ (moverNeeds s t q = some (e, needs)) ∧ (needs.out = []) ∧ ((s.queue t
      q).firstUnmet needs.leases = some n) ∧ ((s.queue t q).leases.length < 16) ∧ (s.served (s.tile t).space = true) ∧ ((if (s.queue t q).fresh =
      true then none else s.extent (s.tile t).space n.va) = some x) ∧ (deniedCode (BitVec.toNat x.leaf) n.rd n.wr n.at_ = none)) ∧
    (∃ (t : Nat) (q : Nat) (e : QEntry) (s : State) (needs : Needs), (t < 1296) ∧ (q < 4) ∧ ((s.tile t).st = TileSt.run) ∧ ((s.queue t q).fault =
      none) ∧ ((s.queue t q).req = none) ∧ (moverNeeds s t q = some (e, needs)) ∧ (needs.out ≠ []) ∧ (∀ a ∈ needs.out, a.1 < 0)) ∧
    (∃ (t : Nat) (q : Nat) (e : QEntry) (s : State), (t < 1296) ∧ (q < 4) ∧ ((s.tile t).st = TileSt.run) ∧ ((s.tile t).storeErr = []) ∧ ((s.tile
      t).latheQ = some q) ∧ ((s.queue t q).active 2 = some e) ∧ ((parseLathe e.desc).bskip = false) ∧ ((parseLathe e.desc).sparse = 0) ∧ (e.pos +
      1 < (parseLathe e.desc).blocks)) ∧
    (∃ (t : Nat) (q : Nat) (e : QEntry) (s : State), (t < 1296) ∧ (q < 4) ∧ ((s.tile t).st = TileSt.run) ∧ ((s.tile t).storeErr = []) ∧ ((s.tile
      t).latheQ = some q) ∧ ((s.queue t q).active 2 = some e) ∧ ((parseLathe e.desc).bskip = false) ∧ ((parseLathe e.desc).sparse = 0) ∧
      ((parseLathe e.desc).blocks ≤ e.pos + 1)) ∧
    (∃ (t : Nat) (q : Nat) (e : QEntry) (s : State), (t < 1296) ∧ (q < 4) ∧ ((s.tile t).st = TileSt.run) ∧ ((s.tile t).storeErr = []) ∧ ((s.tile
      t).latheQ = some q) ∧ ((s.queue t q).active 2 = some e) ∧ ((parseLathe e.desc).bskip = false) ∧ ((parseLathe e.desc).sparse = 0) ∧
      ((parseLathe e.desc).acc = false) ∧ ((parseLathe e.desc).mx = false) ∧ ((parseLathe e.desc).sparse = 0) ∧ ((parseLathe e.desc).a = 10) ∧
      ((parseLathe e.desc).b = 10) ∧ ((parseLathe e.desc).cin = 0) ∧ ((parseLathe e.desc).out = 11) ∧ ((parseLathe e.desc).k = 1) ∧ ((parseLathe
      e.desc).transA = false) ∧ ((parseLathe e.desc).transB = false) ∧ ((parseLathe e.desc).shift = 0)) ∧
    (∃ (t : Nat) (q : Nat) (e : QEntry) (s : State), (t < 1296) ∧ (q < 4) ∧ ((s.tile t).storeErr = []) ∧ (moverTurn s t q = some e) ∧
      ((parseMover e.desc).op = 0) ∧ ((e.trec 0).virt = false) ∧ ((e.trec 1).virt = false)) ∧
    (∃ (t : Nat) (q : Nat) (e : QEntry) (s : State), (t < 1296) ∧ (q < 4) ∧ ((s.tile t).storeErr = []) ∧ (moverTurn s t q = some e) ∧
      ((parseMover e.desc).op = 1) ∧ ((e.trec 1).virt = false)) ∧
    (∃ (t : Nat) (q : Nat) (e : QEntry) (s : State), (t < 1296) ∧ (q < 4) ∧ ((s.tile t).storeErr = []) ∧ (moverTurn s t q = some e) ∧
      ((parseMover e.desc).op = 2)) ∧
    (∃ (t : Nat) (q : Nat) (chunk : Nat) (e : QEntry) (c : Chunk) (s : State) (a : Ack), (t < 1296) ∧ (q < 4) ∧ ((s.queue t q).active 1 = some e)
      ∧ (e.err = none) ∧ (List.find? (fun (c : Chunk) => c.idx == chunk) e.chunks = some c) ∧ (List.find? (fun (a : Ack) => !a.reset) c.acks =
      some a) ∧ (a.refused = none) ∧ (a.fetch = none)) ∧
    (∃ (t : Nat) (q : Nat) (chunk : Nat) (e : QEntry) (c : Chunk) (s : State) (a : Ack) (f : Nat × Nat × Nat), (t < 1296) ∧ (q < 4) ∧ ((s.queue t
      q).active 1 = some e) ∧ (e.err = none) ∧ (List.find? (fun (c : Chunk) => c.idx == chunk) e.chunks = some c) ∧ (List.find? (fun (a : Ack) =>
      !a.reset) c.acks = some a) ∧ (a.refused = none) ∧ (a.fetch = some f) ∧ (a.poison = none) ∧ ((s.tile t).storeErr = []) ∧ (f.2.2 = 4 ∨ f.2.2
      = 8) ∧ (f.1 % f.2.2 = 0)) ∧
    (∃ (t : Nat) (q : Nat) (chunk : Nat) (e : QEntry) (c : Chunk) (s : State), (t < 1296) ∧ (q < 4) ∧ ((s.queue t q).active 1 = some e) ∧ (e.err
      = none) ∧ (List.find? (fun (c : Chunk) => c.idx == chunk) e.chunks = some c) ∧ (c.acks = []) ∧ (c.remote = 0) ∧ (c.deliveries = 0) ∧
      (c.later = []) ∧ (e.elem < e.total)) ∧
    (∃ (t : Nat) (q : Nat) (chunk : Nat) (e : QEntry) (c : Chunk) (s : State), (t < 1296) ∧ (q < 4) ∧ ((s.queue t q).active 1 = some e) ∧ (e.err
      = none) ∧ (List.find? (fun (c : Chunk) => c.idx == chunk) e.chunks = some c) ∧ (c.acks = []) ∧ (c.remote = 0) ∧ (c.deliveries = 0) ∧
      (c.later = []) ∧ (e.total ≤ e.elem) ∧ (e.refusedRec = none) ∧ (e.chunks = [c])) :=
  ⟨
    ⟨1295, 3, act 0 (leBytes 128 0x00800000), q3Is State.reset { entries := [act 0 (leBytes 128 0x00800000)] } {}, by decide +kernel⟩,
    ⟨1295, 3, atomE, { q3Is State.reset { entries := [atomE] } {} with ks := { roots := [(0, some 3)] } }, wants, ⟨65536, 65536, 65536, false,
      false, true⟩, by decide +kernel⟩,
    ⟨1295, 3, atomE, { q3Is State.reset { entries := [atomE] } {} with ks := { roots := [(0, some 3)], extents := [ext1] } }, wants, ⟨65536,
      65536, 65536, false, false, true⟩, ext1, by decide +kernel⟩,
    ⟨1295, 3, outE, q3Is State.reset { entries := [outE] } {}, ((moverNeeds (q3Is State.reset { entries := [outE] } {}) 1295 3).map (·.2)).getD
      {}, by decide +kernel⟩,
    ⟨1295, 3, latheE 65, q3Is State.reset { entries := [latheE 65] } { latheQ := some 3, store := [(0, 3), (63, 0x80), (64, 0xFF), (256, 9)] },
      by decide +kernel⟩,
    ⟨1295, 3, { latheE 65 with pos := 1 }, q3Is State.reset { entries := [{ latheE 65 with pos := 1 }] }
      { latheQ := some 3, store := [(0, 3), (63, 0x80), (64, 0xFF), (256, 9)] }, by decide +kernel⟩,
    ⟨1295, 3, latheE 65, q3Is State.reset { entries := [latheE 65] } { latheQ := some 3, store := [(0, 3), (63, 0x80), (64, 0xFF), (256, 9)] },
      by decide +kernel⟩,
    ⟨1295, 3, copyE, q3Is State.reset { entries := [copyE] } { store := [(0, 3), (1, 9), (5, 9)] }, by decide +kernel⟩,
    ⟨1295, 3, fillE, q3Is State.reset { entries := [fillE] } { store := [(0, 3), (5, 9)] }, by decide +kernel⟩,
    ⟨1295, 3, atomE, q3Is State.reset { entries := [atomE], leases := [lease1] } { store := [(0, 3), (5, 9)] }, by decide +kernel⟩,
    ⟨1295, 3, 5, { copyE with chunks := [{ idx := 5, acks := [{ pos := 1, flags := 3, poison := some 77 }] }] },
      { idx := 5, acks := [{ pos := 1, flags := 3, poison := some 77 }] }, q3Is State.reset
      { entries := [{ copyE with chunks := [{ idx := 5, acks := [{ pos := 1, flags := 3, poison := some 77 }] }] }] } {},
      { pos := 1, flags := 3, poison := some 77 }, by decide +kernel⟩,
    ⟨1295, 3, 5, { atomE with chunks := [{ idx := 5, acks := [{ pos := 1, fetch := some (0x2FFFFC, 2 ^ 32 - 1, 4) }] }] },
      { idx := 5, acks := [{ pos := 1, fetch := some (0x2FFFFC, 2 ^ 32 - 1, 4) }] }, q3Is State.reset
      { entries := [{ atomE with chunks := [{ idx := 5, acks := [{ pos := 1, fetch := some (0x2FFFFC, 2 ^ 32 - 1, 4) }] }] }] } {},
      { pos := 1, fetch := some (0x2FFFFC, 2 ^ 32 - 1, 4) }, (0x2FFFFC, 2 ^ 32 - 1, 4), by decide +kernel⟩,
    ⟨1295, 3, 5, { copyE with chunks := [{ idx := 5, bytes := 4 }] }, { idx := 5, bytes := 4 }, q3Is State.reset
      { entries := [{ copyE with chunks := [{ idx := 5, bytes := 4 }] }] } {}, by decide +kernel⟩,
    ⟨1295, 3, 5, { copyE with elem := 4, flags := 4, chunks := [{ idx := 5, bytes := 4 }] }, { idx := 5, bytes := 4 }, q3Is State.reset
      { entries := [{ copyE with elem := 4, flags := 4, chunks := [{ idx := 5, bytes := 4 }] }] } {}, by decide +kernel⟩⟩

/-- States and operands that meet the hypotheses of each clause of `Obligations.Messages`. -/
theorem hyps_messages :
    (∃ (s : State) (t : Nat) (q : Nat) (e : QEntry), (t < 1296) ∧ (q < 4) ∧ (moverTurn s t q = some e) ∧ ((parseMover e.desc).op = 3) ∧ ((s.tile
      t).storeErr = []) ∧ (recordCause e (Memory.le (s.tile t).store ((parseMover e.desc).routeOff + 16 * e.elem) 4) = none) ∧ (s.ownNode (fld
      (Memory.le (s.tile t).store ((parseMover e.desc).routeOff + 16 * e.elem + 8) 8) 0 24) = true) ∧ ((s.tile t).compat = false) ∧ (fld
      (Memory.le (s.tile t).store ((parseMover e.desc).routeOff + 16 * e.elem + 8) 8) 24 11 < 1296)) ∧
    (∃ (s : State) (id : Nat) (f : Flight), (f.dst < 1296) ∧ (s.onWay id false = some f) ∧ ((s.tile f.dst).moving = false) ∧ (dataCause (s.tile f.dst) (some f.space) true f.chan
      f.payload.length = none) ∧ ((s.tile f.dst).frozen = false) ∧ ((s.tile f.dst).storeErr = []) ∧ ((s.tile f.dst).compat = false) ∧ (f.chan <
      4) ∧ (f.hdr.length = 32)) ∧
    (∃ (s : State) (id : Nat) (f : Flight) (cause : Nat), (f.dst < 1296) ∧ (s.onWay id false = some f) ∧ ((s.tile f.dst).moving = false) ∧ (dataCause (s.tile f.dst) (some f.space)
      true f.chan f.payload.length = some cause)) ∧
    (∃ (s : State) (id : Nat) (f : Flight), (f.dst < 1296) ∧ (s.onWay id true = some f) ∧ (signalCause (s.tile f.dst) (some f.space) true = none)
      ∧ ((s.tile f.dst).frozen = false) ∧ ((s.tile f.dst).moving = false)) ∧
    (∃ (s : State) (id : Nat) (cause : Nat) (f : Flight) (e : QEntry), (List.find? (fun (f : Flight) => f.id == id && f.refused == some cause)
      s.msgs = some f) ∧ (cause ≠ 1) ∧ ((s.queue f.srcTile f.srcQueue).active 1 = some e) ∧ (e.refusedRec = none) ∧ (e.firstCauses = [])) ∧
    (∃ (s : State) (id : Nat) (f : Flight) (w : Nat) (first : Nat), (List.find? (fun (f : Flight) => f.id == id) s.msgs = some f) ∧ (f.wait =
      some w) ∧ (f.firstRefused = some first) ∧ (f.remote = false) ∧ (w < s.tick.boundaries) ∧ (s.tick.boundaries - first ≤ (s.tile
      f.srcTile).retry)) :=
  ⟨
    ⟨sends State.reset sendE, 1295, 3, sendE, by decide +kernel⟩,
    ⟨{ tileAs State.reset { st := .run, rx := [(3, { enable := true, slotLog2 := 6, cntLog2 := 1, base := 64, head := 2, tail := 1 })] } with msgs := [flight false] },
      7, flight false, by decide +kernel⟩,
    ⟨{ tileAs State.reset { st := .run, rx := [(3, { enable := true, slotLog2 := 6, cntLog2 := 1, base := 64, head := 3, tail := 1 })] } with msgs := [flight false] },
      7, flight false, mcRingFull, by decide +kernel⟩,
    ⟨{ tileAs State.reset { st := .run } with msgs := [flight true] }, 7, flight true, by decide +kernel⟩,
    ⟨{ State.reset.setTile 0 { st := .run, q0 := { entries := [sentE] } } with msgs := [{ flight false with refused := some mcChannelOff }] }, 7,
      mcChannelOff, { flight false with refused := some mcChannelOff }, sentE, by decide +kernel⟩,
    ⟨{ State.reset with msgs := [{ flight false with wait := some 3, firstRefused := some 3 }], tick := { State.reset.tick with boundaries := 19 } },
      7, { flight false with wait := some 3, firstRefused := some 3 }, 3, 3, by decide +kernel⟩⟩

/-- States and operands that meet the hypotheses of each clause of `Obligations.ChainPasses`. -/
theorem hyps_chain_passes :
    (∃ (t : Nat) (run : ChainRun) (e : QEntry) (s : State) (ch : Chunk) (rest : List Chunk) (stop : Nat), (t < 1296) ∧ ((s.tile t).st =
      TileSt.run) ∧ ((s.tile t).chain = some run) ∧ (chainEntry s t run = some e) ∧ ((s.tile t).storeErr = []) ∧ (e.chunks = ch :: rest) ∧
      (ch.remote = 0) ∧ (run.asked = some stop) ∧ (scanDue run.cfg run = false) ∧ (run.j ≤ stop)) ∧
    (∃ (t : Nat) (run : ChainRun) (e : QEntry) (s : State), (t < 1296) ∧ ((s.tile t).st = TileSt.run) ∧ ((s.tile t).chain = some run) ∧
      (chainEntry s t run = some e) ∧ ((s.tile t).storeErr = []) ∧ (e.chunks = []) ∧ (run.endStatus = none) ∧ (run.j < run.recs.x.count) ∧
      ((s.queue t run.q).fault = none) ∧ (run.asked = none) ∧ (run.inMemory = false)) ∧
    (∃ (t : Nat) (run : ChainRun) (e : QEntry) (s : State), (t < 1296) ∧ ((s.tile t).st = TileSt.run) ∧ ((s.tile t).chain = some run) ∧
      (chainEntry s t run = some e) ∧ ((s.tile t).storeErr = []) ∧ (e.chunks = []) ∧ (run.endStatus = none) ∧ (run.j < run.recs.x.count) ∧
      ((s.queue t run.q).fault = none) ∧ (run.asked = none) ∧ (run.inMemory = true) ∧ ((s.queue t run.q).meets (chainPlan s t run.cfg run).2 =
      true) ∧ (chainHcIdle s t run.cfg run (chainPlan s t run.cfg run).1 ((s.queue t run.q).granted (chainPlan s t run.cfg run).2) = true)) ∧
    (∃ (t : Nat) (run : ChainRun) (e : QEntry) (s : State), (t < 1296) ∧ ((s.tile t).st = TileSt.run) ∧ ((s.tile t).chain = some run) ∧
      (chainEntry s t run = some e) ∧ ((s.tile t).storeErr = []) ∧ (e.chunks = []) ∧ (run.endStatus = none) ∧ (run.recs.x.count ≤ run.j) ∧
      (run.inMemory = false) ∧ (run.cfg.rop = 0) ∧ (run.cfg.compact = false) ∧ (run.recs.d = none) ∧ (run.recs.x.e 0 ≠ 0) ∧ (run.bad = [])) :=
  ⟨
    ⟨1295, { runV with asked := some 4 }, { chainE with chunks := [{ idx := 0 }] }, q3Is State.reset
      { entries := [{ chainE with chunks := [{ idx := 0 }] }] } { chain := some { runV with asked := some 4 } }, { idx := 0 }, [], 4,
      by decide +kernel⟩,
    ⟨1295, runV, chainE, q3Is State.reset { entries := [chainE] } { chain := some runV }, by decide +kernel⟩,
    ⟨1295, runM, chainE, q3Is State.reset { entries := [chainE], leases := [lease1] } { chain := some runM }, by decide +kernel⟩,
    ⟨1295, { runV with j := 4 }, chainE, q3Is State.reset { entries := [chainE] } { chain := some { runV with j := 4 } }, by decide +kernel⟩⟩

/-- States and operands that meet the hypotheses of each clause of `Obligations.KeystoneEvents`. -/
theorem hyps_keystone_events :
    (∃ (t : Nat) (q : Nat) (s : State) (r : LeaseReq), (t < 1296) ∧ (q < 4) ∧ ((s.queue t q).req = some r) ∧ (r.walking = true) ∧ (walkIdle s
      (s.tile t).space r.va = true) ∧ (s.ks.rewalk.contains (t, q) = true)) ∧
    (∃ (t : Nat) (q : Nat) (s : State) (r : LeaseReq) (level : Nat) (e : W64), (t < 1296) ∧ (q < 4) ∧ ((s.queue t q).req = some r) ∧ (r.walking =
      true) ∧ (walkIdle s (s.tile t).space r.va = true) ∧ (s.ks.rewalk.contains (t, q) = false) ∧ ((Machine.walk s (s.tile t).space r.va).2 =
      Walk.leaf level e) ∧ (deniedCode (BitVec.toNat e) r.rd r.wr r.at_ = none)) ∧
    (∃ (t : Nat) (q : Nat) (s : State) (r : LeaseReq) (level : Nat) (e : W64) (code : Nat) (kind : Nat), (t < 1296) ∧ (q < 4) ∧ ((s.queue t
      q).req = some r) ∧ (r.walking = true) ∧ (walkIdle s (s.tile t).space r.va = true) ∧ (s.ks.rewalk.contains (t, q) = false) ∧ ((Machine.walk
      s (s.tile t).space r.va).2 = Walk.leaf level e) ∧ (deniedCode (BitVec.toNat e) r.rd r.wr r.at_ = some (code, kind))) ∧
    (∃ (t : Nat) (q : Nat) (s : State) (r : LeaseReq) (code : Nat) (level : Nat) (e : W64), (t < 1296) ∧ (q < 4) ∧ ((s.queue t q).req = some r) ∧
      (r.walking = true) ∧ (walkIdle s (s.tile t).space r.va = true) ∧ (s.ks.rewalk.contains (t, q) = false) ∧ ((Machine.walk s (s.tile t).space
      r.va).2 = Walk.fault code level e)) ∧
    (∃ (t : Nat) (q : Nat) (g : Nat), (t < 1296) ∧ (q < 4) ∧ (g < 4096)) ∧
    (∃ (t : Nat) (q : Nat) (s : State) (i : Invalidation) (o : LongOp), (t < 1296) ∧ (q < 4) ∧ (i.handle < 2 ^ 32) ∧ (List.find? (fun (x :
      Invalidation) => x.handle == i.handle) s.ks.invs = some i) ∧ (List.find? (fun (x : Invalidation) => x.tag == i.tag) s.ks.invs = some i) ∧
      (s.outstanding i.tag i.gen = 0) ∧ (s.op i.handle = some o) ∧ (o.handle = i.handle)) ∧
    (∃ (t : Nat) (q : Nat) (s : State) (walker : Nat) (r : LeaseReq), (t < 1296) ∧ (q < 4) ∧ (walker < 68) ∧ ((s.queue t q).req = some r) ∧
      (r.walking = true) ∧ (s.ks.walkers ≠ 0) ∧ ((t, q) ∉ s.ks.rewalk)) :=
  ⟨
    ⟨1295, 3, ks3 (k3Is (mapped State.reset) { req := some lreq, entries := [k3Entry []] } 4095) fun k => { k with rewalk := [(1295, 3)] }, lreq,
      by decide +kernel⟩,
    ⟨1295, 3, k3Is (mapped State.reset) { req := some lreq, entries := [k3Entry []] } 4095, lreq, 2, 0x123B, by decide +kernel⟩,
    ⟨1295, 3, k3Is (mappedRw State.reset) { req := some { lreq with va := 2 ^ 34 - 1, at_ := true }, entries := [k3Entry []] } 4095,
      { lreq with va := 2 ^ 34 - 1, at_ := true }, 2, 0x121B, 6, 3, by decide +kernel⟩,
    ⟨1295, 3, k3Is (mapped State.reset) { req := some { lreq with va := 2 ^ 57 - 1 }, entries := [k3Entry []] } 4095,
      { lreq with va := 2 ^ 57 - 1 }, 2, 4, 0, by decide +kernel⟩,
    ⟨1295, 3, 4095, by decide +kernel⟩,
    ⟨1295, 3, ks3 (opIs (k3Is State.reset { leases := [{ lease 4095 false with gen := 1 }] } 4095)
      { theOp 0 0x0402 0 [] with handle := 2 ^ 32 - 1 }) fun k => { k with invs := [⟨2 ^ 32 - 1, 4095, 1, true⟩] }, ⟨2 ^ 32 - 1, 4095, 1, true⟩,
      { theOp 0 0x0402 0 [] with handle := 2 ^ 32 - 1 }, by decide +kernel⟩,
    ⟨1295, 3, ks3 (k3Is State.reset { req := some lreq } 4095) fun k => { k with walkers := 1 }, 67, lreq, by decide +kernel⟩⟩

/-- States and operands that meet the hypotheses of each clause of `Obligations.KeystoneCommands`. -/
theorem hyps_keystone_commands :
    (∃ (r : Req) (p : Picked) (tag : Nat) (s : State) (root : Nat), (tag < 4096) ∧ (Ready r 1025 p s) ∧ (s.root tag = none) ∧ (root % 4096 = 0) ∧
      (inPool root = true)) ∧
    (∃ (r : Req) (p : Picked) (tag : Nat) (s : State), (tag < 4096) ∧ (Ready r 1025 p s) ∧ (s.root tag ≠ none)) ∧
    (∃ (r : Req) (p : Picked) (tag : Nat) (s : State) (i : Instr) (unbind : Bool), (tag < 4096) ∧ (Ready r 1026 p s ∧ i = Instr.spaceUnbind r tag
      ∧ unbind = true ∨ Ready r 1027 p s ∧ i = Instr.invalidate r tag ∧ unbind = false) ∧ (16 ≤ s.ks.invs.length)) ∧
    (∃ (r : Req) (p : Picked) (tag : Nat) (s : State) (i : Instr) (unbind : Bool), (tag < 4096) ∧ (Ready r 1026 p s ∧ i = Instr.spaceUnbind r tag
      ∧ unbind = true ∨ Ready r 1027 p s ∧ i = Instr.invalidate r tag ∧ unbind = false) ∧ (s.ks.invs.length < 16) ∧ (s.root tag ≠ none) ∧ (s.op
      (handleOf r.client r.slot p.seq) = none)) ∧
    (∃ (r : Req) (p : Picked) (tag : Nat) (s : State) (i : Instr) (unbind : Bool), (tag < 4096) ∧ (Ready r 1026 p s ∧ i = Instr.spaceUnbind r tag
      ∧ unbind = true ∨ Ready r 1027 p s ∧ i = Instr.invalidate r tag ∧ unbind = false) ∧ (s.ks.invs.length < 16) ∧ (s.root tag = none) ∧ (s.op
      (handleOf r.client r.slot p.seq) = none) ∧ (∀ x ∈ s.ks.invs, x.handle ≠ handleOf r.client r.slot p.seq)) ∧
    (∃ (r : Req) (p : Picked) (tag : Nat) (s : State) (addr : Nat) (enable : Bool), (tag < 4096) ∧ (Ready r 1028 p s) ∧ (addr % 4096 = 0) ∧
      (ringLegal addr = true) ∧ (enable = false ∨ s.parkedStreams = [])) ∧
    (∃ (r : Req) (p : Picked) (tag : Nat) (s : State) (t : Nat) (q : Nat), (tag < 4096) ∧ (t < 1296) ∧ (q < 4) ∧ (Ready r 1029 p s) ∧ ((s.queue t
      q).fault = none)) ∧
    (∃ (r : Req) (p : Picked) (tag : Nat) (s : State) (t : Nat) (q : Nat) (f : StreamFault) (e : QEntry), (tag < 4096) ∧ (t < 1296) ∧ (q < 4) ∧
      (Ready r 1029 p s) ∧ ((s.queue t q).fault = some f) ∧ ((s.queue t q).active 1 = some e) ∧ (e.seq = f.seq) ∧ (e.chunks = []) ∧ ((s.tile
      t).chain = none)) ∧
    (∃ (r : Req) (p : Picked) (tag : Nat) (s : State) (va : Nat) (level : Nat) (e : W64), (tag < 4096) ∧ (va < 2 ^ 57) ∧ (Ready r 1030 p s) ∧
      ((Machine.walk s tag va).2 = Walk.leaf level e)) ∧
    (∃ (r : Req) (p : Picked) (tag : Nat) (s : State), (tag < 4096) ∧ (Ready r 1031 p s)) ∧
    (∃ (val : W32), (BitVec.getLsbD val 31 = false)) ∧
    (∃ (val : W32) (s : State), (BitVec.getLsbD val 31 = true) ∧ (s.ks.ringEnable = false) ∧ (ringLegal s.ks.ringBase = true)) ∧
    (∃ (val : W32) (s : State), (BitVec.getLsbD val 31 = true) ∧ (s.ks.ringEnable = false) ∧ (ringLegal s.ks.ringBase = false)) ∧
    (∃ (val : W32) (s : State), (BitVec.toNat (val - s.ks.tail) ≤ BitVec.toNat (s.ks.head - s.ks.tail))) ∧
    (∃ (val : W32) (s : State), (BitVec.toNat (s.ks.head - s.ks.tail) < BitVec.toNat (val - s.ks.tail))) :=
  ⟨
    ⟨req3, pk 0x0401, 4095, rdy 0 State.reset 0x0401, Config.poolBytes - 4096, by decide +kernel⟩,
    ⟨req3, pk 0x0401, 4095, rdy 0 (mapped State.reset) 0x0401, by decide +kernel⟩,
    ⟨req3, pk 0x0403, 4095, rdy 0 (ks3 (mapped State.reset) fun k => { k with invs := List.replicate 16 ⟨1, 5, 1, false⟩ }) 0x0403, .invalidate
      req3 4095, false, by decide +kernel⟩,
    ⟨req3, pk 0x0402, 4095, rdy 0 (mapped State.reset) 0x0402, .spaceUnbind req3 4095, true, by decide +kernel⟩,
    ⟨req3, pk 0x0402, 4095, rdy 0 State.reset 0x0402, .spaceUnbind req3 4095, true, by decide +kernel⟩,
    ⟨req3, pk 0x0404, 4095, rdy 0 State.reset 0x0404, Config.poolBytes - 131072, true, by decide +kernel⟩,
    ⟨req3, pk 0x0405, 4095, rdy 0 (k3Is State.reset {} 0) 0x0405, 1295, 3, by decide +kernel⟩,
    ⟨req3, pk 0x0405, 4095, rdy 0 (k3Is State.reset { fault := some sf, entries := [k3Entry []] } 0) 0x0405, 1295, 3, sf, k3Entry [],
      by decide +kernel⟩,
    ⟨req3, pk 0x0406, 4095, rdy 0 (mapped State.reset) 0x0406, 2 ^ 34 - 1, 2, 0x123B, by decide +kernel⟩,
    ⟨req3, pk 0x0407, 4095, rdy 0 (mapped State.reset) 0x0407, by decide +kernel⟩,
    ⟨0x40000000, by decide +kernel⟩,
    ⟨0xC0000000, ks3 State.reset fun k => { k with ringEnable := false, ringBase := Config.poolBytes - 131072, head := 5 }, by decide +kernel⟩,
    ⟨0xC0000000, ks3 State.reset fun k => { k with ringEnable := false, ringBase := Config.poolBytes - 126976, head := 5 }, by decide +kernel⟩,
    ⟨5, ks3 State.reset fun k => { k with ringEnable := true, head := 5, tail := 0xFFFFFFFF }, by decide +kernel⟩,
    ⟨6, ks3 State.reset fun k => { k with ringEnable := true, head := 5, tail := 0xFFFFFFFF }, by decide +kernel⟩⟩

/-- States and operands that meet the hypotheses of each clause of `Obligations.ControllerAccesses`. -/
theorem hyps_controller_accesses :
    (∃ (cw : Nat) (ch : Nat) (s : State), (okCw cw = true) ∧ (ch < 512) ∧ (s.poolServes cw = false)) ∧
    (∃ (cw : Nat) (ch : Nat) (s : State) (x : AdderEntry), (okCw cw = true) ∧ (ch < 512) ∧ (s.poolServes cw = true) ∧ (s.adderEntry cw = some x)) ∧
    (∃ (cw : Nat) (ch : Nat) (s : State) (inner : Bool) (err : BitVec 576), (okCw cw = true) ∧ (ch < 512) ∧ (s.poolServes cw = true) ∧
      (s.adderEntry cw = none) ∧ (Tab.get 0 s.pool.err cw ^^^ err = 0) ∧ (Tab.get false s.pool.poison cw = false) ∧ (inner = false)) ∧
    (∃ (cw : Nat) (ch : Nat) (s : State) (err : BitVec 576), (okCw cw = true) ∧ (ch < 512) ∧ (s.poolServes cw = true) ∧ (s.adderEntry cw = none)
      ∧ ((decodeCw (s.pool.data cw) (Tab.get false s.pool.poison cw) (Tab.get 0 s.pool.err cw ^^^ err)).1 = CwClass.clean)) ∧
    (∃ (cw : Nat) (ch : Nat) (s : State) (err : BitVec 576), (okCw cw = true) ∧ (ch < 512) ∧ (s.poolServes cw = true) ∧ (s.adderEntry cw = none)
      ∧ ((decodeCw (s.pool.data cw) (Tab.get false s.pool.poison cw) (Tab.get 0 s.pool.err cw ^^^ err)).1 = CwClass.corrected)) ∧
    (∃ (cw : Nat) (ch : Nat) (s : State) (err : BitVec 576), (okCw cw = true) ∧ (ch < 512) ∧ (s.poolServes cw = true) ∧ (s.adderEntry cw = none)
      ∧ ((decodeCw (s.pool.data cw) (Tab.get false s.pool.poison cw) (Tab.get 0 s.pool.err cw ^^^ err)).1 = CwClass.uncorrectable) ∧ ((s.hint
      3).enable = false)) ∧
    (∃ (cw : Nat) (ch : Nat) (s : State) (mask : BitVec 64), (okCw cw = true) ∧ (ch < 512) ∧ (PlainCw s cw) ∧ (mask ≠ 0)) ∧
    (∃ (cw : Nat) (ch : Nat) (s : State), (okCw cw = true) ∧ (ch < 512) ∧ (s.pool.corrective.contains cw = true) ∧ (s.poolServes cw = true)) ∧
    (∃ (cw : Nat) (ch : Nat) (s : State), (okCw cw = true) ∧ (ch < 512) ∧ (s.power.idle = Idle.s0)) :=
  ⟨
    ⟨2 ^ 34 - 1, 511, { State.reset with pool := {} }, by decide +kernel⟩,
    ⟨2 ^ 34 - 1, 511, chanIs (poolIs State.reset {}) ((poolIs State.reset {}).chOf (2 ^ 34 - 1)) { adder := [⟨2 ^ 34 - 1, 5⟩] }, ⟨2 ^ 34 - 1, 5⟩,
      by decide +kernel⟩,
    ⟨2 ^ 34 - 1, 511, poolIs State.reset { err := [(2 ^ 34 - 1, 1)], bytes := [(2 ^ 40 - 64, 7)] }, false, 1, by decide +kernel⟩,
    ⟨2 ^ 34 - 1, 511, poolIs State.reset {}, 0, by decide +kernel⟩,
    ⟨2 ^ 34 - 1, 511, poolIs State.reset {}, 1, by decide +kernel⟩,
    ⟨2 ^ 34 - 1, 511, { poolIs State.reset {} with hostint := [] }, 0x100000001, by decide +kernel⟩,
    ⟨2 ^ 34 - 1, 511, { poolIs State.reset { bytes := [(2 ^ 40 - 64, 7), (2 ^ 40 - 50, 7)] } with piers := [], chans := [] }, 0xFF,
      by decide +kernel⟩,
    ⟨2 ^ 34 - 1, 511, poolIs State.reset { corrective := [2 ^ 34 - 1], err := [(2 ^ 34 - 1, 1)], bytes := [(2 ^ 40 - 64, 7)] }, by decide +kernel⟩,
    ⟨0, 511, { State.reset with power := { State.reset.power with idle := .s0 } }, by decide +kernel⟩⟩

/-- States and operands that meet the hypotheses of each clause of `Obligations.ScrubAndRepair`. -/
theorem hyps_scrub_and_repair :
    (∃ (s : State), (s.pool.scrubOn = true) ∧ (s.poolReady = true) ∧ (s.power.idle = Idle.s0) ∧ (s.opOf 2049 = none)) ∧
    (∃ (s : State) (ch : Nat) (row : RowLoc) (queued : Nat) (rest : List (RowLoc × Nat)), (ch < 512) ∧ ((s.chan ch).repair = (row, queued) ::
      rest) ∧ (s.poolReady = true) ∧ ((s.chan ch).testOwner = false) ∧ (queued < s.tick.boundaries) ∧ (s.pool.retired.length < 4096)) ∧
    (∃ (s : State) (c : Nat), (c < 512) ∧ (BitVec.toNat s.tick.num % 1000 = 0) ∧ (s.tick.num ≠ s.pool.windowTick) ∧ (Tab.wf { } s.chans = true)) :=
  ⟨
    ⟨{ poolIs State.reset { scrubPos := 2 ^ 20 - 1 } with belul := {}, power := { State.reset.power with idle := .s0 } }, by decide +kernel⟩,
    ⟨{ chanIs (poolIs State.reset {}) 511 { repair := [(⟨511, 1, 63, 3⟩, 3)] } with tick := { State.reset.tick with boundaries := 4 } }, 511,
      ⟨511, 1, 63, 3⟩, 3, [], by decide +kernel⟩,
    ⟨{ chanIs (poolIs State.reset { windowTick := 3 }) 511 { window := 9000000, hot := false } with tick := { State.reset.tick with num := 1000 } },
      511, by decide +kernel⟩⟩

/-- States and operands that meet the hypotheses of each clause of `Obligations.MemoryCommands`. -/
theorem hyps_memory_commands :
    (∃ (r : Req) (p : Picked) (s : State) (mode : Nat) (rate : Nat), (mode < 2) ∧ (rate < 3) ∧ (Ready r 769 p s) ∧ (s.memBusy = false) ∧
      (s.memoryIdle = true) ∧ (mode = 1) ∧ (BitVec.getLsbD s.boot.features 4 = true)) ∧
    (∃ (r : Req) (p : Picked) (s : State), (Ready r 769 p s) ∧ (s.memBusy = false) ∧ (s.memoryIdle = false)) ∧
    (∃ (r : Req) (p : Picked) (s : State), (Ready r 770 p s)) ∧
    (∃ (r : Req) (p : Picked) (s : State) (buf : Nat), (buf < 2 ^ 64) ∧ (badBuffer r.client buf (16 * s.pool.retired.length) = false) ∧ (Ready r
      771 p s)) ∧
    (∃ (r : Req) (p : Picked) (s : State) (period : Nat), (1 ≤ period) ∧ (period ≤ 168) ∧ (Ready r 772 p s)) ∧
    (∃ (r : Req) (p : Picked) (s : State) (mask : BitVec 512), (Ready r 2049 p s) ∧ (s.memBusy = false) ∧ (s.memoryIdle = true) ∧ (mask ≠ 0)) ∧
    (∃ (r : Req) (p : Picked) (s : State) (mask : BitVec 512), (Ready r 2049 p s) ∧ (s.memBusy = false) ∧ (s.memoryIdle = true) ∧ (mask = 0) ∧
      (s.op (handleOf r.client r.slot p.seq) = none)) ∧
    (∃ (s : State) (o : LongOp) (rate : Nat) (st : Nat), (s.opOf 769 = some o) ∧ (s.op o.handle = some o) ∧ (s.pool.st = PoolSt.initialising) ∧
      (rate < 3) ∧ (st < Config.hbmStacks)) ∧
    (∃ (s : State) (o : LongOp) (chs : List Nat), (s.opOf 2049 = some o) ∧ (s.op o.handle = some o) ∧ (∀ c ∈ chs, c < 512) ∧ (∀ c ∈ o.left, c <
      512) ∧ (∀ c ∈ o.left, c ∈ chs)) ∧
    (∃ (s : State) (o : LongOp) (chs : List Nat), (s.opOf 2049 = some o) ∧ (s.op o.handle = some o) ∧ (∀ c ∈ chs, c < 512) ∧ (∀ c ∈ o.left, c <
      512) ∧ (∃ c ∈ o.left, c ∉ chs ∧ (s.chan c).tgRun = true)) :=
  ⟨
    ⟨req3, pk 0x0301, rdy 0 (quiet State.reset) 0x0301, 1, 2, by decide +kernel⟩,
    ⟨req3, pk 0x0301, rdy 0 (mapped State.reset) 0x0301, by decide +kernel⟩,
    ⟨req3, pk 0x0302, rdy 0 (mapped State.reset) 0x0302, by decide +kernel⟩,
    ⟨req3, pk 0x0303, rdy 0 (poolIs State.reset { retired := [⟨511, 1, 63, 3⟩] }) 0x0303, Config.poolBytes - 16, by decide +kernel⟩,
    ⟨req3, pk 0x0304, rdy 0 (mapped State.reset) 0x0304, 168, by decide +kernel⟩,
    ⟨req3, pk 0x0801, rdy 0 (quiet State.reset) 0x0801, BitVec.ofNat 512 (2 ^ 511), by decide +kernel⟩,
    ⟨req3, pk 0x0801, rdy 0 (quiet State.reset) 0x0801, 0, by decide +kernel⟩,
    ⟨opIs { State.reset with pool := { State.reset.pool with st := .initialising, newRate := 2 } } (theOp 0 0x0301 Config.poolBytes []), theOp 0
      0x0301 Config.poolBytes [], 2, 15, by decide +kernel⟩,
    ⟨chanIs (opIs State.reset (theOp 0 0x0801 1 [511])) 511 { tgRun := true, testOwner := true, tgLenRun := 1 }, theOp 0 0x0801 1 [511], [511],
      by decide +kernel⟩,
    ⟨{ opIs State.reset (theOp 0 0x0801 2 [510, 511]) with chans := [(510, { tgRun := true, testOwner := true, tgLenRun := 1 }), (511, { tgRun := true, testOwner := true, tgLenRun := 1 })] },
      theOp 0 0x0801 2 [510, 511], [511], by decide +kernel⟩⟩

/-- States and operands that meet the hypotheses of each clause of `Obligations.PierAccesses`. -/
theorem hyps_pier_accesses :
    (∃ (p : Nat) (addr : Nat) (sectors : BitVec 4) (s : State), (p < 4) ∧ (inPool addr = true) ∧ (s.home addr = p) ∧ (sectors ≠ 0) ∧
      (s.poolServes (2 * (addr / 128)) = false)) ∧
    (∃ (p : Nat) (addr : Nat) (sectors : BitVec 4) (s : State) (c : CLine), (p < 4) ∧ (inPool addr = true) ∧ (s.home addr = p) ∧ (sectors ≠ 0) ∧
      (s.poolServes (2 * (addr / 128)) = true) ∧ ((s.pier p).find (addr / 128) = some c) ∧ (sectors &&& ~~~c.valid = 0) ∧ (c.poison = 0) ∧
      ((s.pier p).entry (addr / 128) = none)) ∧
    (∃ (p : Nat) (addr : Nat) (sectors : BitVec 4) (s : State), (p < 4) ∧ (inPool addr = true) ∧ (s.home addr = p) ∧ (sectors ≠ 0) ∧
      (s.poolServes (2 * (addr / 128)) = true) ∧ (sectors &&& ~~~(s.pier p).validOf (addr / 128) ≠ 0) ∧ ((s.pier p).fills.length < (s.pier
      p).fillThr) ∧ ((s.pier p).fills.length + 2 ≤ 256)) ∧
    (∃ (p : Nat) (addr : Nat) (sectors : BitVec 4) (s : State), (p < 4) ∧ (inPool addr = true) ∧ (s.home addr = p) ∧ (sectors ≠ 0) ∧
      (s.poolServes (2 * (addr / 128)) = true) ∧ (sectors &&& ~~~(s.pier p).validOf (addr / 128) ≠ 0) ∧ ((s.pier p).fillThr ≤ (s.pier
      p).fills.length) ∧ ((s.pier p).fills.length + 2 ≤ 256)) ∧
    (∃ (p : Nat) (addr : Nat) (s : State) (f : Fill), (p < 4) ∧ (inPool addr = true) ∧ (s.home addr = p) ∧ (List.find? (fun (x : Fill) => x.cw ==
      f.cw) (s.pier p).fills = some f) ∧ (f.val = none) ∧ (f.cw / 2 = addr / 128) ∧ ((s.pier p).entry (addr / 128) = none) ∧ (s.poolServes f.cw =
      true) ∧ (s.adderEntry f.cw = none) ∧ (Tab.get 0 s.pool.err f.cw = 0) ∧ (Tab.get false s.pool.poison f.cw = false)) ∧
    (∃ (p : Nat) (addr : Nat) (s : State) (mask : BitVec 128), (p < 4) ∧ (inPool addr = true) ∧ (s.home addr = p) ∧ (addr % 128 = 0) ∧
      (writePoison s (addr / 128) mask = none) ∧ ((s.pier p).entry (addr / 128) = none) ∧ (∀ f ∈ (s.pier p).fills, f.cw / 2 ≠ addr / 128) ∧
      ((s.pier p).merges.length < 895) ∧ (mask ≠ 0) ∧ (mask ≠ BitVec.allOnes 128)) ∧
    (∃ (p : Nat) (addr : Nat) (s : State) (mask : BitVec 128), (p < 4) ∧ (inPool addr = true) ∧ (s.home addr = p) ∧ (addr % 128 = 0) ∧
      (writePoison s (addr / 128) mask = none) ∧ ((s.pier p).entry (addr / 128) = none) ∧ (∀ f ∈ (s.pier p).fills, f.cw / 2 ≠ addr / 128) ∧
      ((s.pier p).merges.length < 895) ∧ (mask = BitVec.allOnes 128) ∧ (s.adderEntry (2 * (addr / 128)) = none) ∧ (s.adderEntry (2 * (addr / 128)
      + 1) = none)) ∧
    (∃ (p : Nat) (addr : Nat) (s : State) (m : Merge), (p < 4) ∧ (inPool addr = true) ∧ (s.home addr = p) ∧ ((s.pier p).entry (addr / 128) = some
      m)) :=
  ⟨
    ⟨3, 2 ^ 40 - 1, 15, { pierIs State.reset 3 { lines := [cline 15] } with pool := {} }, by decide +kernel⟩,
    ⟨3, 2 ^ 40 - 1, 15, pierIs State.reset 3 { lines := [cline 15], powered := BitVec.allOnes 17, enable := BitVec.allOnes 17 }, cline 15,
      by decide +kernel⟩,
    ⟨3, 2 ^ 40 - 1, 15, pierIs State.reset 3 { lines := [cline 3], powered := BitVec.allOnes 17, enable := BitVec.allOnes 17, fillThr := 1 },
      by decide +kernel⟩,
    ⟨3, 2 ^ 40 - 1, 15, pierIs State.reset 3
      { lines := [cline 3], powered := BitVec.allOnes 17, enable := BitVec.allOnes 17, fillThr := 1, fills := [⟨5, true, false, none⟩] },
      by decide +kernel⟩,
    ⟨3, 2 ^ 40 - 1,
      { pierIs State.reset 3 { lines := [cline 3], fills := [⟨2 * topLine + 1, true, false, none⟩] } with chans := [], pool := { st := .ready, bytes := [(2 ^ 40 - 1, 9)] } },
      ⟨2 * topLine + 1, true, false, none⟩, by decide +kernel⟩,
    ⟨3, 2 ^ 40 - 128, pierIs State.reset 3 { lines := [cline 3] }, 255, by decide +kernel⟩,
    ⟨3, 2 ^ 40 - 128, { pierIs State.reset 3 { lines := [cline 3] } with chans := [] }, BitVec.allOnes 128, by decide +kernel⟩,
    ⟨3, 2 ^ 40 - 1, { pierIs State.reset 3 { merges := [⟨topLine, (BitVec.allOnes 64).setWidth 128, 77⟩] } with chans := [] }, ⟨topLine,
      (BitVec.allOnes 64).setWidth 128, 77⟩, by decide +kernel⟩⟩

/-- States and operands that meet the hypotheses of each clause of `Obligations.CacheRanges`. -/
theorem hyps_cache_ranges :
    (∃ (r : Req) (p : Picked) (start : Nat) (len : Nat) (s : State), (badRange start len = false) ∧ (Ready r 773 p s) ∧ (s.opOf 773 = none) ∧
      (s.poolReady = true)) ∧
    (∃ (r : Req) (p : Picked) (start : Nat) (len : Nat) (s : State), (badRange start len = false) ∧ (Ready r 773 p s) ∧ ((s.opOf 773).isSome =
      true)) ∧
    (∃ (s : State) (o : LongOp) (k : Nat) (upto : Nat), (s.opOf 773 = some o) ∧ (s.op o.handle = some o) ∧ (k < 4) ∧ ((s.pier k).rangeBusy =
      true) ∧ ((s.pier k).rangeLen % 128 = 0) ∧ ((s.pier k).rangePos % 128 = 0) ∧ ((s.pier k).rangePos ≤ (s.pier k).rangeLen) ∧ (upto % 128 = 0)
      ∧ ((s.pier k).rangePos ≤ upto) ∧ (upto < (s.pier k).rangeLen) ∧ ((s.pier k).rangeOp = 1 ∨ (s.pier k).rangeOp = 2 ∨ (s.pier k).rangeOp = 5)) ∧
    (∃ (s : State) (o : LongOp) (k : Nat), (s.opOf 773 = some o) ∧ (s.op o.handle = some o) ∧ (k < 4) ∧ ((s.pier k).rangeBusy = true) ∧ ((s.pier
      k).rangeLen % 128 = 0) ∧ ((s.pier k).rangePos % 128 = 0) ∧ ((s.pier k).rangePos ≤ (s.pier k).rangeLen) ∧ (∀ j < 4, j ≠ k → (s.pier
      j).rangeBusy = false) ∧ ((s.pier k).rangeOp = 1 ∨ (s.pier k).rangeOp = 2 ∨ (s.pier k).rangeOp = 5) ∧ ((s.pier 0).rangeOp ≠ 4)) ∧
    (∃ (s : State) (o : LongOp) (k : Nat), (s.opOf 773 = some o) ∧ (s.op o.handle = some o) ∧ (k < 4) ∧ ((s.pier k).rangeBusy = true) ∧ ((s.pier
      k).rangeLen % 128 = 0) ∧ ((s.pier k).rangePos % 128 = 0) ∧ ((s.pier k).rangePos ≤ (s.pier k).rangeLen) ∧ (∀ j < 4, j ≠ k → (s.pier
      j).rangeBusy = false) ∧ ((s.pier k).rangeOp = 4) ∧ ((s.pier 0).rangeOp = 4) ∧ ((s.pier k).fills.length < (s.pier k).fillThr)) ∧
    (∃ (line : Nat) (x : Nat), (x ≠ line)) ∧
    (∃ (p : Nat) (line : Nat) (s : State) (c : CLine), (((rangeLine 5 p line s).pier p).find line = some c)) :=
  ⟨
    ⟨req3, pk 0x0305, 2 ^ 40 - 256, 256, rdy 0 (pierIs { State.reset with belul := {} } 3
      { lines := [cline 15], merges := [⟨topLine, 255, 77⟩] }) 0x0305, by decide +kernel⟩,
    ⟨req3, pk 0x0305, 0, 128, opIsIn (rdy 0 (pierIs State.reset 0 { rangeOp := 3 }) 0x0305) (theOp 0 0x0305 256 []), by decide +kernel⟩,
    ⟨opIs (pierIs State.reset 3 { rangeOp := 1, rangeBusy := true, rangeStart := 2 ^ 40 - 256, rangeLen := 256, lines := [cline 15] }) (theOp 0
      0x0305 256 []), theOp 0 0x0305 256 [], 3, 128, by decide +kernel⟩,
    ⟨opIs (pierIs State.reset 3 { rangeOp := 5, rangeBusy := true, rangeStart := 2 ^ 40 - 256, rangeLen := 256, lines := [cline 15] }) (theOp 0
      0x0305 256 []), theOp 0 0x0305 256 [], 3, by decide +kernel⟩,
    ⟨opIs (pierIs State.reset 0
      { rangeOp := 4, rangeBusy := true, rangeStart := 0, rangeLen := 256, rangePos := 128, powered := BitVec.allOnes 17, enable := BitVec.allOnes 17 })
      (theOp 0 0x0305 256 []), theOp 0 0x0305 256 [], 0, by decide +kernel⟩,
    ⟨topLine, 0, by decide +kernel⟩,
    ⟨3, topLine, pierIs State.reset 3 { lines := [cline 15], merges := [⟨topLine, 255, 77⟩] }, { cline 15 with lock := false }, by decide +kernel⟩⟩

/-- States and operands that meet the hypotheses of each clause of `Obligations.CacheWays`. -/
theorem hyps_cache_ways :
    (∃ (r : Req) (k : Picked) (p : Nat) (w : Nat) (s : State), (p < 4) ∧ (w < 17) ∧ (Ready r 774 k s) ∧ ((s.pier p).wayOn w = true)) ∧
    (∃ (r : Req) (k : Picked) (p : Nat) (w : Nat) (s : State), (p < 4) ∧ (w < 17) ∧ (Ready r 774 k s) ∧ ((s.pier p).invDone.getLsbD w = true) ∧
      ((s.pier p).wayOn w = false) ∧ ((maskBits 17 ((s.pier p).powered &&& ~~~(s.pier p).draining ||| (s.pier p).enablePend).toNat).length < 16)) ∧
    (∃ (r : Req) (k : Picked) (p : Nat) (w : Nat) (s : State), (p < 4) ∧ (w < 17) ∧ (Ready r 774 k s) ∧ ((s.pier p).invDone.getLsbD w = false)) ∧
    (∃ (r : Req) (k : Picked) (p : Nat) (w : Nat) (s : State), (p < 4) ∧ (w < 17) ∧ (Ready r 775 k s)) ∧
    (∃ (p : Nat) (w : Nat) (s : State), (p < 4) ∧ (w < 17) ∧ (w ∈ (s.pier p).wayInv)) ∧
    (∃ (p : Nat) (w : Nat) (s : State) (upto : Nat), (p < 4) ∧ (w < 17) ∧ ((s.pier p).draining.getLsbD w = true) ∧ ((s.pier p).fillsWay w =
      false) ∧ (upto < 65536) ∧ (Tab.get 0 (s.pier p).wayDrain w ≤ upto)) ∧
    (∃ (p : Nat) (w : Nat) (s : State), (p < 4) ∧ (w < 17) ∧ ((s.pier p).draining.getLsbD w = true) ∧ ((s.pier p).fillsWay w = true)) ∧
    (∃ (p : Nat) (w : Nat) (s : State), (p < 4) ∧ (w < 17) ∧ ((s.pier p).enable = 0) ∧ ((s.pier p).draining = 0) ∧ ((s.pier p).powered = 0) ∧
      ((s.pier p).enablePend = 0)) :=
  ⟨
    ⟨req4, pk4 0x0306, 3, 16, pier3 (rd4 State.reset 0x0306) { powered := 0x1FFFF, enable := 0x1FFFF }, by decide +kernel⟩,
    ⟨req4, pk4 0x0306, 3, 16, pier3 (rd4 State.reset 0x0306) { invDone := BitVec.allOnes 17, powered := 0x7FFF }, by decide +kernel⟩,
    ⟨req4, pk4 0x0306, 3, 16, pier3 (rd4 State.reset 0x0306) { powered := 0x7FFF }, by decide +kernel⟩,
    ⟨req4, pk4 0x0307, 3, 16, pier3 (rd4 State.reset 0x0307) { powered := 0x1FFFF, enable := 0x1FFFF }, by decide +kernel⟩,
    ⟨3, 16, wayS State.reset 0 { wayInv := [16] }, by decide +kernel⟩,
    ⟨3, 16, wayS State.reset 1 { draining := 0x10000, powered := 0x10000, lines := [⟨5, 16, 15, 0, false, false, 9⟩] }, 65535, by decide +kernel⟩,
    ⟨3, 16, wayS State.reset 1
      { draining := 0x10000, powered := 0x10000, lines := [⟨5, 16, 0, 0, false, false, 9⟩], fills := [{ cw := 10, allocate := true, prefetch := false }] },
      by decide +kernel⟩,
    ⟨3, 16, pier3 State.reset { invDone := 0x10000 }, by decide +kernel⟩⟩

/-- States and operands that meet the hypotheses of each clause of `Obligations.AdderOperations`. -/
theorem hyps_adder_operations :
    (∃ (addr : Nat) (a : BitVec 8) (s : State), (addr < Config.physEnd) ∧ (aLegal a = true) ∧ (addr % aSize (aType a) = 0) ∧ (inPool addr = true)
      ∧ (s.poolServes (addr / 64) = false)) ∧
    (∃ (addr : Nat) (a : BitVec 8) (s : State) (e : AdderEntry), (addr < Config.physEnd) ∧ (aLegal a = true) ∧ (addr % aSize (aType a) = 0) ∧
      (inPool addr = true) ∧ (s.poolServes (addr / 64) = true) ∧ (s.adderEntry (addr / 64) = some e) ∧ ((s.pier (s.home addr)).entry (addr / 128)
      = none)) ∧
    (∃ (addr : Nat) (a : BitVec 8), (addr < Config.physEnd) ∧ (aLegal a = false)) ∧
    (∃ (addr : Nat) (a : BitVec 8), (addr < Config.physEnd) ∧ (addr % aSize (aType a) ≠ 0)) ∧
    (∃ (addr : Nat) (s : State) (ch : Nat) (cw : Nat) (e : AdderEntry), (addr < Config.physEnd) ∧ (ch < 512) ∧ (List.find? (fun (x : AdderEntry)
      => x.cw == cw) (s.chan ch).adder = some e)) ∧
    (∃ (addr : Nat) (s : State) (ch : Nat) (cw : Nat), (addr < Config.physEnd) ∧ (ch < 512) ∧ (List.find? (fun (x : AdderEntry) => x.cw == cw)
      (s.chan ch).adder = none)) ∧
    (∃ (addr : Nat) (e : AdderEntry) (s : State), (inPool addr = true) ∧ (addr % 4 = 0) ∧ (s.poolServes (addr / 64) = true) ∧ (s.adderEntry (addr
      / 64) = some e) ∧ ((s.pier (s.home addr)).entry (addr / 128) = none)) :=
  ⟨
    ⟨2 ^ 40 - 4, 0, { poolUp State.reset with pool := {} }, by decide +kernel⟩,
    ⟨2 ^ 40 - 4, 0, adders State.reset, ⟨lastCw, 0xFFFFFFFF⟩, by decide +kernel⟩,
    ⟨2 ^ 48 - 1, 0xFF, by decide +kernel⟩,
    ⟨2 ^ 40 - 2, 0, by decide +kernel⟩,
    ⟨0, { poolUp State.reset with chans := [(511, { adder := [⟨lastCw, 5⟩] })] }, 511, lastCw, ⟨lastCw, 5⟩, by decide +kernel⟩,
    ⟨0, poolUp State.reset, 511, lastCw, by decide +kernel⟩,
    ⟨2 ^ 40 - 64, ⟨lastCw, 0xFFFFFFFF⟩, adders State.reset, by decide +kernel⟩⟩

/-- States and operands that meet the hypotheses of each clause of `Obligations.ArbiterTransactions`. -/
theorem hyps_arbiter_transactions :
    (∃ (cl : Nat) (line : Nat) (s : State), (cl < 24) ∧ (inPool (64 * line) = true) ∧ (s.awake cl = true) ∧ (((s.cluster cl).wb.any fun (l :
      HLine) => l.line == line) = true)) ∧
    (∃ (cl : Nat) (line : Nat) (s : State), (cl < 24) ∧ (inPool (64 * line) = true) ∧ ((s.arb (homeArb line)).held = []) ∧ ((s.arb (homeArb
      line)).credit = []) ∧ ((s.arb (homeArb line)).busy line = true) ∧ (s.awake cl = true) ∧ (((s.cluster cl).wb.any fun (l : HLine) => l.line
      == line) = false)) ∧
    (∃ (cl : Nat) (line : Nat) (s : State), (cl < 24) ∧ (inPool (64 * line) = true) ∧ ((s.arb (homeArb line)).held = []) ∧ ((s.arb (homeArb
      line)).credit = []) ∧ ((s.arb (homeArb line)).busy line = false) ∧ ((s.arb (homeArb line)).entry line = none) ∧ (s.awake cl = true) ∧
      (((s.arb (homeArb line)).dirSet line).length < 16) ∧ (((s.cluster cl).wb.any fun (l : HLine) => l.line == line) = false)) ∧
    (∃ (cl : Nat) (line : Nat) (s : State), (cl < 24) ∧ (inPool (64 * line) = true) ∧ ((s.arb (homeArb line)).held = []) ∧ ((s.arb (homeArb
      line)).credit = []) ∧ ((s.arb (homeArb line)).busy line = false) ∧ ((s.arb (homeArb line)).entry line = none) ∧ (s.poolServes line = true ∧
      (s.pier (s.home (64 * line))).find (line / 2) = none ∧ (s.pier (s.home (64 * line))).entry (line / 2) = none ∧ s.adderEntry line = none ∧
      Tab.get 0 s.pool.err line = 0 ∧ Tab.get false s.pool.poison line = false)) ∧
    (∃ (cl : Nat) (line : Nat) (s : State) (mask : BitVec 64), (cl < 24) ∧ (inPool (64 * line) = true) ∧ ((s.arb (homeArb line)).held = []) ∧
      ((s.arb (homeArb line)).credit = []) ∧ ((s.arb (homeArb line)).busy line = false) ∧ ((s.arb (homeArb line)).entry line = none) ∧ (mask ≠ 0)
      ∧ (s.poolServes line = true) ∧ ((s.pier (s.home (64 * line))).entry (line / 2) = none) ∧ (∀ f ∈ (s.pier (s.home (64 * line))).fills, f.cw /
      2 ≠ line / 2) ∧ ((s.pier (s.home (64 * line))).merges.length < 895) ∧ (writePoison s (line / 2) (BitVec.setWidth 128 mask <<< (64 * (line %
      2))) = none)) ∧
    (∃ (cl : Nat) (line : Nat) (s : State) (addr : Nat) (op : BitVec 8) (e : AdderEntry), (cl < 24) ∧ (inPool (64 * line) = true) ∧ ((s.arb
      (homeArb line)).held = []) ∧ ((s.arb (homeArb line)).credit = []) ∧ ((s.arb (homeArb line)).busy line = false) ∧ ((s.arb (homeArb
      line)).entry line = none) ∧ (addr / 64 = line) ∧ (aLegal op = true) ∧ (addr % aSize (aType op) = 0) ∧ (s.poolServes line = true) ∧
      (s.adderEntry line = some e) ∧ ((s.pier (s.home (64 * line))).entry (line / 2) = none)) ∧
    (∃ (cl : Nat) (line : Nat) (s : State) (own : Nat) (sh : List Nat), (cl < 24) ∧ (inPool (64 * line) = true) ∧ ((s.arb (homeArb line)).held =
      []) ∧ ((s.arb (homeArb line)).credit = []) ∧ ((s.arb (homeArb line)).busy line = false) ∧ ((s.arb (homeArb line)).entry line = some
      { line := line, owner := some own, sharers := sh }) ∧ (s.awake cl = true) ∧ (((s.cluster cl).wb.any fun (l : HLine) => l.line == line) =
      false)) ∧
    (∃ (cl : Nat) (line : Nat) (s : State) (sh : List Nat), (cl < 24) ∧ (inPool (64 * line) = true) ∧ ((s.arb (homeArb line)).held = []) ∧
      ((s.arb (homeArb line)).credit = []) ∧ ((s.arb (homeArb line)).busy line = false) ∧ ((s.arb (homeArb line)).entry line = some
      { line := line, owner := none, sharers := sh }) ∧ (sh ≠ []) ∧ (s.awake cl = true) ∧ (List.filter (fun (x : Nat) => x != cl) sh ≠ []) ∧
      (((s.cluster cl).wb.any fun (l : HLine) => l.line == line) = false)) ∧
    (∃ (cl : Nat) (line : Nat) (x : Machine.Trans) (s : State), (cl < 24) ∧ (inPool (64 * line) = true) ∧ (s.node.waitReqs = []) ∧ ((s.arb
      (homeArb line)).trans line = some x) ∧ (cl ∈ x.acks) ∧ (List.filter (fun (x : Nat) => x != cl) x.acks ≠ [])) ∧
    (∃ (cl : Nat) (line : Nat) (x : Machine.Trans) (s : State), (cl < 24) ∧ (inPool (64 * line) = true) ∧ (s.node.waitReqs = []) ∧ ((s.arb
      (homeArb line)).trans line = some x) ∧ (cl ∈ x.acks) ∧ (List.filter (fun (x : Nat) => x != cl) x.acks = []) ∧ (x.req.kind = 1) ∧
      (x.needDone = true)) ∧
    (∃ (cl : Nat) (line : Nat) (x : Machine.Trans) (s : State), (cl < 24) ∧ (inPool (64 * line) = true) ∧ (s.node.waitReqs = []) ∧ ((s.arb
      (homeArb line)).trans line = some x) ∧ (cl ∉ x.acks)) ∧
    (∃ (cl : Nat) (line : Nat) (x : Machine.Trans) (s : State), (cl < 24) ∧ (inPool (64 * line) = true) ∧ (s.node.waitReqs = []) ∧ ((s.arb
      (homeArb line)).trans line = some x) ∧ (x.downwb = some cl) ∧ (x.needDone = true)) ∧
    (∃ (cl : Nat) (line : Nat) (x : Machine.Trans) (s : State), (cl < 24) ∧ (inPool (64 * line) = true) ∧ (s.node.waitReqs = []) ∧ ((s.arb
      (homeArb line)).trans line = some x) ∧ (x.downwb ≠ some cl)) ∧
    (∃ (cl : Nat) (line : Nat) (x : Machine.Trans) (s : State), (cl < 24) ∧ (inPool (64 * line) = true) ∧ (s.node.waitReqs = []) ∧ ((s.arb
      (homeArb line)).trans line = some x) ∧ (x.acks = []) ∧ (x.downwb = none) ∧ (x.req.kind < 2) ∧ ((s.arb (homeArb line)).held = []) ∧ ((s.arb
      (homeArb line)).credit = [])) ∧
    (∃ (cl : Nat) (line : Nat) (x : Machine.Trans) (s : State), (cl < 24) ∧ (inPool (64 * line) = true) ∧ (s.node.waitReqs = []) ∧ ((s.arb
      (homeArb line)).trans line = some x) ∧ (x.acks ≠ [])) ∧
    (∃ (cl : Nat) (line : Nat) (s : State) (l : HLine), (cl < 24) ∧ (inPool (64 * line) = true) ∧ (s.node.waitReqs = []) ∧ (s.awake cl = true) ∧
      (List.find? (fun (l : HLine) => l.line == line && l.m) (s.cluster cl).lines = some l) ∧ (l.poison = false) ∧ ((s.arb (homeArb line)).owner
      line = some cl)) ∧
    (∃ (cl : Nat) (line : Nat) (s : State), (cl < 24) ∧ (inPool (64 * line) = true) ∧ (s.node.waitReqs = []) ∧ (s.awake cl = true) ∧ ((s.cluster
      cl).dirty line = none) ∧ ((s.arb (homeArb line)).owner line = some cl)) ∧
    (∃ (cl : Nat) (line : Nat) (s : State), (cl < 24) ∧ (inPool (64 * line) = true) ∧ (s.node.waitReqs = []) ∧ (s.awake cl = true) ∧ ((s.arb
      (homeArb line)).owner line ≠ some cl)) ∧
    (∃ (cl : Nat) (line : Nat) (s : State), (cl < 24) ∧ (inPool (64 * line) = true) ∧ (s.node.waitReqs = []) ∧ (s.awake cl = false)) :=
  ⟨
    ⟨23, lastCw, coh State.reset { parked := false, wb := [⟨lastCw, true, 7, true⟩] } {}, by decide +kernel⟩,
    ⟨23, lastCw, coh State.reset { parked := false } (busyArb 1 [] none), by decide +kernel⟩,
    ⟨23, lastCw, coh State.reset { parked := false } {}, by decide +kernel⟩,
    ⟨23, lastCw, coh State.reset {} {}, by decide +kernel⟩,
    ⟨23, lastCw, coh State.reset {} {}, 255, by decide +kernel⟩,
    ⟨23, lastCw, { adders State.reset with clusters := [], arbs := [] }, 2 ^ 40 - 4, 0, ⟨lastCw, 0xFFFFFFFF⟩, by decide +kernel⟩,
    ⟨23, lastCw, coh State.reset { parked := false } (dirIs (some 3) []), 3, [], by decide +kernel⟩,
    ⟨23, lastCw, coh State.reset { parked := false } (dirIs none [3, 23, 0]), [3, 23, 0], by decide +kernel⟩,
    ⟨23, lastCw, tr 3 [23, 5] none, { coh State.reset {} (busyArb 3 [23, 5] none) with node := {} }, by decide +kernel⟩,
    ⟨23, lastCw, tr 1 [23] none, { coh State.reset {} (busyArb 1 [23] none) with node := {} }, by decide +kernel⟩,
    ⟨23, lastCw, tr 1 [5] none, { coh State.reset {} (busyArb 1 [5] none) with node := {} }, by decide +kernel⟩,
    ⟨23, lastCw, tr 0 [] (some 23), { coh State.reset {} (busyArb 0 [] (some 23)) with node := {} }, by decide +kernel⟩,
    ⟨23, lastCw, tr 0 [] (some 5), { coh State.reset {} (busyArb 0 [] (some 5)) with node := {} }, by decide +kernel⟩,
    ⟨23, lastCw, tr 1 [] none, { coh State.reset {} (busyArb 1 [] none) with node := {} }, by decide +kernel⟩,
    ⟨23, lastCw, tr 1 [5] none, { coh State.reset {} (busyArb 1 [5] none) with node := {} }, by decide +kernel⟩,
    ⟨23, lastCw, { coh State.reset { parked := false, lines := [⟨lastCw, true, 7, false⟩] } (dirIs (some 23) []) with node := {} }, ⟨lastCw,
      true, 7, false⟩, by decide +kernel⟩,
    ⟨23, lastCw, { coh State.reset { parked := false } (dirIs (some 23) []) with node := {} }, by decide +kernel⟩,
    ⟨23, lastCw, { coh State.reset { parked := false } (dirIs (some 3) []) with node := {} }, by decide +kernel⟩,
    ⟨23, lastCw, { coh State.reset {} {} with node := {} }, by decide +kernel⟩⟩

/-- States and operands that meet the hypotheses of each clause of `Obligations.ClusterAnswers`. -/
theorem hyps_cluster_answers :
    (∃ (cl : Nat) (line : Nat) (req : Nat) (s : State) (l : HLine), (cl < 24) ∧ (inPool (64 * line) = true) ∧ ((s.cluster cl).dirty line = some
      l) ∧ (req < 24)) ∧
    (∃ (cl : Nat) (line : Nat) (req : Nat) (s : State) (l : HLine), (cl < 24) ∧ (inPool (64 * line) = true) ∧ ((s.cluster cl).dirty line = some
      l) ∧ (24 ≤ req)) ∧
    (∃ (cl : Nat) (line : Nat) (req : Nat) (s : State), (cl < 24) ∧ (inPool (64 * line) = true) ∧ ((s.cluster cl).dirty line = none) ∧ (req < 24)) ∧
    (∃ (cl : Nat) (line : Nat) (s : State), (cl < 24) ∧ (inPool (64 * line) = true) ∧ (s.awake cl = true) ∧ ((((s.cluster cl).drop line).set
      line).length < 16)) ∧
    (∃ (cl : Nat) (line : Nat) (s : State), (cl < 24) ∧ (inPool (64 * line) = true) ∧ (s.awake cl = false)) ∧
    (∃ (cl : Nat) (line : Nat) (s : State), (cl < 24) ∧ (inPool (64 * line) = true) ∧ (line ∉ (s.cluster cl).waitM)) ∧
    (∃ (cl : Nat) (line : Nat) (s : State), (cl < 24) ∧ (inPool (64 * line) = true) ∧ (line ∈ (s.cluster cl).waitM) ∧ (s.awake cl = true) ∧
      ((s.arb (homeArb line)).held = []) ∧ ((s.arb (homeArb line)).credit = []) ∧ ((s.arb (homeArb line)).busy line = false) ∧ ((s.arb (homeArb
      line)).entry line = none) ∧ (((s.arb (homeArb line)).dirSet line).length < 16)) :=
  ⟨
    ⟨23, lastCw, 0, coh State.reset { lines := [⟨lastCw, false, 3, false⟩], wb := [⟨lastCw, true, 7, true⟩] } {}, ⟨lastCw, true, 7, true⟩,
      by decide +kernel⟩,
    ⟨23, lastCw, 24, coh State.reset { lines := [⟨lastCw, false, 3, false⟩], wb := [⟨lastCw, true, 7, true⟩] } {}, ⟨lastCw, true, 7, true⟩,
      by decide +kernel⟩,
    ⟨23, lastCw, 0, coh State.reset { lines := [⟨lastCw, false, 3, false⟩] } {}, by decide +kernel⟩,
    ⟨23, lastCw, coh State.reset { parked := false, lines := [⟨lastCw, false, 3, false⟩], wb := [⟨lastCw, true, 7, true⟩] } {}, by decide +kernel⟩,
    ⟨23, lastCw, coh State.reset {} {}, by decide +kernel⟩,
    ⟨23, lastCw, coh State.reset { wb := [⟨lastCw, true, 7, true⟩] } {}, by decide +kernel⟩,
    ⟨23, lastCw, coh State.reset { parked := false, waitM := [lastCw], wb := [⟨lastCw, true, 7, true⟩] } {}, by decide +kernel⟩⟩

/-- States and operands that meet the hypotheses of each clause of `Obligations.HostInterrupts`. -/
theorem hyps_host_interrupts :
    (∃ (n : Nat) (val : W32) (s : State), (n < 256) ∧ (BitVec.getLsbD val 31 = true) ∧ (BitVec.getLsbD val 30 = true) ∧ ((imsicFile (BitVec.toNat
      (s.hint n).addrLo + 2 ^ 32 * BitVec.toNat (s.hint n).addrHi)).isSome = true)) ∧
    (∃ (n : Nat) (val : W32) (s : State), (n < 256) ∧ (BitVec.getLsbD val 31 = true) ∧ (BitVec.getLsbD val 30 = true) ∧ ((s.hint n).enable =
      false) ∧ ((imsicFile (BitVec.toNat (s.hint n).addrLo + 2 ^ 32 * BitVec.toNat (s.hint n).addrHi)).isSome = false) ∧ (endpointRange s
      (BitVec.toNat (s.hint n).addrLo + 2 ^ 32 * BitVec.toNat (s.hint n).addrHi) = false)) ∧
    (∃ (n : Nat) (val : W32) (s : State) (f : Nat), (n < 256) ∧ (BitVec.getLsbD val 31 = true) ∧ (BitVec.getLsbD val 30 = false) ∧ ((s.hint
      n).enable = true) ∧ ((s.hint n).pend = true) ∧ (imsicFile (BitVec.toNat (s.hint n).addrLo + 2 ^ 32 * BitVec.toNat (s.hint n).addrHi) = some
      f) ∧ ((BitVec.toNat (s.hint n).addrLo + 2 ^ 32 * BitVec.toNat (s.hint n).addrHi) % 4096 = 0) ∧ (1 ≤ BitVec.toNat (s.hint n).data) ∧
      (BitVec.toNat (s.hint n).data ≤ 255)) ∧
    (∃ (n : Nat) (val : W32), (n < 256) ∧ (BitVec.getLsbD val 31 = false)) ∧
    (∃ (n : Nat) (val : W32) (f : Nat), (n < 256) ∧ (f < 96) ∧ (1 ≤ BitVec.toNat val) ∧ (BitVec.toNat val ≤ 255)) ∧
    (∃ (n : Nat) (s : State) (port : Nat), (n < 256) ∧ (port < 4) ∧ (s.pcieMode port = 0) ∧ ((s.hint (16 + port)).enable = true) ∧ ((s.hint (16 +
      port)).mask = true)) ∧
    (∃ (n : Nat) (s : State) (port : Nat), (n < 256) ∧ (port < 4) ∧ (s.pcieMode port = 0) ∧ ((s.hint (16 + port)).enable = false)) ∧
    (∃ (n : Nat) (s : State) (port : Nat), (n < 256) ∧ (port < 4) ∧ (s.pcieMode port ≠ 0)) ∧
    (∃ (hart : Nat) (addr : Nat) (size : Nat), (hart < 96) ∧ (87960930222080 ≤ addr) ∧ (addr < 96757023244288) ∧ (size = 4 ∨ size = 8) ∧ (addr %
      size = 0) ∧ ((addr - 87960930222080) / 2 ^ 40 < 4)) ∧
    (∃ (hart : Nat) (addr : Nat) (size : Nat) (up : Bool), (hart < 96) ∧ (87960930222080 ≤ addr) ∧ (addr < 96757023244288) ∧ (size = 4 ∨ size =
      8) ∧ (addr % size = 0) ∧ (up = false ∨ 4 ≤ (addr - 87960930222080) / 2 ^ 40) ∧ (size = 4)) :=
  ⟨
    ⟨255, 0xC0000000, hintIs State.reset 255 { addrLo := 0x0405F000, addrHi := 0x4000, data := 255 }, by decide +kernel⟩,
    ⟨255, 0xC0000000, { hintIs State.reset 255 { addrLo := 0x04060000, addrHi := 0x4000, data := 255 } with upper := [], portCfg := [] },
      by decide +kernel⟩,
    ⟨255, 0x80000000, hintIs State.reset 255 { addrLo := 0x0405F000, addrHi := 0x4000, data := 255, enable := true, pend := true }, 95,
      by decide +kernel⟩,
    ⟨255, 0x40000000, by decide +kernel⟩,
    ⟨0, 255, 95, by decide +kernel⟩,
    ⟨0, hintIs { State.reset with portCfg := [] } 19 { addrLo := 0x0405F000, addrHi := 0x4000, data := 255, enable := true }, 3,
      by decide +kernel⟩,
    ⟨0, hintIs { State.reset with portCfg := [] } 19 { addrLo := 0x0405F000, addrHi := 0x4000, data := 255 }, 3, by decide +kernel⟩,
    ⟨0, { State.reset with portCfg := [(3, 1)] }, 3, by decide +kernel⟩,
    ⟨95, 0x53FFFFFFFFF8, 8, by decide +kernel⟩,
    ⟨95, 0x57FFFFFFFFFC, 4, true, by decide +kernel⟩⟩

/-- States and operands that meet the hypotheses of each clause of `Obligations.DieLinks`. -/
theorem hyps_die_links :
    (∃ (l : Nat) (n : Nat) (s : State) (i : BundleId) (j : BundleId), (wfPair l n = true) ∧ ((s.pair l n).st = 1) ∧ ((s.pair l n).mapE = 0) ∧
      ((s.pair l n).op = none) ∧ ((s.pair l n).held = none) ∧ ((s.pair l n).afterFault = false) ∧ ((i, j) ≠ (endIdentity s l n false, endIdentity
      s l n true)) ∧ (∃ k < Config.pairs l, k ≠ n ∧ (s.pair l k).st ≠ 0)) ∧
    (∃ (l : Nat) (n : Nat) (s : State), (wfPair l n = true) ∧ ((s.pair l n).st = 1) ∧ ((s.pair l n).mapE ≠ 0) ∧ ((s.pair l n).held = none) ∧
      ((s.pair l n).okW = false)) ∧
    (∃ (l : Nat) (n : Nat) (s : State), (wfPair l n = true) ∧ ((s.pair l n).st = 1) ∧ ((s.pair l n).mapE ≠ 0) ∧ ((s.pair l n).held = none) ∧
      ((s.pair l n).okW = true) ∧ ((s.pair l n).op = none)) ∧
    (∃ (l : Nat) (n : Nat) (s : State), (wfPair l n = true) ∧ ((s.pair l n).st = 1) ∧ ((s.pair l n).mapE ≠ 0) ∧ ((s.pair l n).held = none) ∧
      ((s.pair l n).okE = true) ∧ ((s.pair l n).op = none)) ∧
    (∃ (l : Nat) (n : Nat) (s : State) (hE : W32) (hW : W32), (wfPair l n = true) ∧ ((s.pair l n).st = 1) ∧ ((s.pair l n).mapE ≠ 0) ∧ ((s.pair l
      n).held = none) ∧ ((s.pair l n).hashes ≠ (hE, hW))) ∧
    (∃ (l : Nat) (n : Nat) (s : State), (wfPair l n = true) ∧ ((s.pair l n).st ≠ 0) ∧ ((s.pair l n).op = none)) ∧
    (∃ (l : Nat) (n : Nat) (s : State) (count : Nat), (wfPair l n = true) ∧ (2 ≤ (s.pair l n).st) ∧ (count < 512) ∧ ((s.pair l
      n).replayLog.length < 999)) ∧
    (∃ (l : Nat) (n : Nat) (s : State) (east : Bool) (count : Nat), (wfPair l n = true) ∧ (2 ≤ (s.pair l n).st) ∧ (count < 512) ∧ ((s.bundle
      (bundleKey l n (if east = true then 0 else 1))).await = none) ∧ ((s.bundle (bundleKey l n (if east = true then 0 else 1))).failsOf count <
      8)) ∧
    (∃ (l : Nat) (n : Nat) (s : State) (east : Bool) (count : Nat), (wfPair l n = true) ∧ (2 ≤ (s.pair l n).st) ∧ (count < 512) ∧ ((s.bundle
      (bundleKey l n (if east = true then 0 else 1))).await = none) ∧ (8 ≤ (s.bundle (bundleKey l n (if east = true then 0 else 1))).failsOf
      count)) ∧
    (∃ (l : Nat) (n : Nat) (s : State) (east : Bool) (count : Nat) (c : Nat), (wfPair l n = true) ∧ (2 ≤ (s.pair l n).st) ∧ (count < 512) ∧
      ((s.bundle (bundleKey l n (if east = true then 0 else 1))).await = some c)) ∧
    (∃ (l : Nat) (n : Nat) (s : State) (count : Nat) (lane : Nat), (wfPair l n = true) ∧ (2 ≤ (s.pair l n).st) ∧ (count < 512) ∧ (lane < 68)) ∧
    (∃ (l : Nat) (n : Nat) (s : State) (deck : Nat) (east : Bool) (count : Nat), (wfPair l n = true) ∧ (deck < 12) ∧ (count < 512) ∧ ((s.bundle
      (bondKey deck (if east = true then 0 else 1))).failsOf count < 8)) ∧
    (∃ (l : Nat) (n : Nat) (s : State) (deck : Nat) (east : Bool) (count : Nat), (wfPair l n = true) ∧ (deck < 12) ∧ (count < 512) ∧ (8 ≤
      (s.bundle (bondKey deck (if east = true then 0 else 1))).failsOf count)) ∧
    (∃ (r : Req) (p : Picked) (l : Nat) (n : Nat) (s : State), (wfPair l n = true) ∧ (badLink l = false) ∧ (Ready r 1282 p s) ∧ ((s.pair l n).op
      = none)) ∧
    (∃ (r : Req) (p : Picked) (l : Nat) (n : Nat) (s : State), (wfPair l n = true) ∧ (badLink l = false) ∧ (Ready r 1282 p s) ∧ ((s.pair l n).op
      ≠ none)) ∧
    (∃ (r : Req) (p : Picked) (l : Nat) (n : Nat) (s : State), (wfPair l n = true) ∧ (badLink l = false) ∧ (Ready r 1281 p s)) :=
  ⟨
    ⟨4, 7, { pairIs State.reset { st := 1 } with pairs := [(pairKey 4 7, { st := 1 }), (pairKey 4 0, { st := 2 })] }, ⟨99, 4, 7, 0⟩, endIdentity
      State.reset 4 7 true, by decide +kernel⟩,
    ⟨4, 7, pairIs State.reset { upPair with st := 1 }, by decide +kernel⟩,
    ⟨4, 7, pairIs State.reset { upPair with st := 1, okW := true }, by decide +kernel⟩,
    ⟨4, 7, pairIs State.reset { upPair with st := 1, okE := true }, by decide +kernel⟩,
    ⟨4, 7, pairIs State.reset { upPair with st := 1 }, 0, 0, by decide +kernel⟩,
    ⟨4, 7, pairIs State.reset { upPair with st := 1 }, by decide +kernel⟩,
    ⟨4, 7, pairIs State.reset { upPair with replays := 0xFFFF }, 511, by decide +kernel⟩,
    ⟨4, 7, bund (pairIs State.reset upPair) (bundleKey 4 7 0) { fails := 6, failSeq := 511 }, true, 511, by decide +kernel⟩,
    ⟨4, 7, bund (pairIs State.reset upPair) (bundleKey 4 7 0) { fails := 7, failSeq := 511 }, true, 511, by decide +kernel⟩,
    ⟨4, 7, bund (pairIs State.reset upPair) (bundleKey 4 7 0) { await := some 510 }, true, 511, 510, by decide +kernel⟩,
    ⟨4, 7, failedLane (pairIs State.reset upPair), 511, 67, by decide +kernel⟩,
    ⟨0, 0, bund State.reset (bondKey 11 0) { fails := 6, failSeq := 511 }, 11, true, 511, by decide +kernel⟩,
    ⟨0, 0, { bund State.reset (bondKey 11 0) { fails := 7, failSeq := 511 } with degraded := [] }, 11, true, 511, by decide +kernel⟩,
    ⟨req4, pk4 0x0502, 4, 7, rd4 (pairIs State.reset upPair) 0x0502, by decide +kernel⟩,
    ⟨req4, pk4 0x0502, 4, 7, rd4 (pairIs State.reset { upPair with op := some 3 }) 0x0502, by decide +kernel⟩,
    ⟨req4, pk4 0x0501, 4, 7, rd4 (pairIs State.reset upPair) 0x0501, by decide +kernel⟩⟩

/-- States and operands that meet the hypotheses of each clause of `Obligations.OpticalPorts`. -/
theorem hyps_optical_ports :
    (∃ (port : Nat) (s : State) (tx : WaveMask) (rx : WaveMask), (port < 48) ∧ ((s.port port).st = 1) ∧ ((s.port port).laserDown = false) ∧
      ((s.port port).txWave = 0) ∧ ((s.port port).op = none) ∧ (waves (chosenWaves tx) < 7 ∨ waves (chosenWaves (rx &&& ~~~(s.port port).worn)) <
      7)) ∧
    (∃ (port : Nat) (s : State) (tx : WaveMask) (rx : WaveMask), (port < 48) ∧ ((s.port port).st = 1) ∧ ((s.port port).laserDown = false) ∧
      ((s.port port).txWave = 0) ∧ ((s.port port).op = none) ∧ (waves (chosenWaves tx) = 8) ∧ (waves (chosenWaves (rx &&& ~~~(s.port port).worn))
      = 8)) ∧
    (∃ (port : Nat) (s : State) (tx : WaveMask) (rx : WaveMask), (port < 48) ∧ ((s.port port).st = 1) ∧ ((s.port port).laserDown = false) ∧
      ((s.port port).txWave = 0) ∧ ((s.port port).op = none) ∧ (waves (chosenWaves tx) = 7) ∧ (7 ≤ waves (chosenWaves (rx &&& ~~~(s.port
      port).worn)))) ∧
    (∃ (port : Nat) (s : State) (g : Bool) (phys : Nat) (pp : Nat) (fp : W32), (port < 48) ∧ ((s.port port).st = 1) ∧ ((s.port port).txWave ≠ 0)
      ∧ ((s.port port).op = none) ∧ (phys < 2 ^ 20) ∧ (pp < 64) ∧ ((s.port port).peer = some
      { gen8 := g, phys := phys, port := pp, fprint := fp }) ∧ ((s.port port).queue = [])) ∧
    (∃ (port : Nat) (s : State) (g : Bool) (phys : Nat) (pp : Nat) (fp : W32), (port < 48) ∧ ((s.port port).st = 1) ∧ ((s.port port).txWave ≠ 0)
      ∧ ((s.port port).op = none) ∧ (phys < 2 ^ 20) ∧ (pp < 64) ∧ ((s.port port).peer ≠ some
      { gen8 := g, phys := phys, port := pp, fprint := fp })) ∧
    (∃ (port : Nat) (s : State), (port < 48) ∧ ((s.port port).st ≠ 0)) ∧
    (∃ (port : Nat) (s : State), (port < 48) ∧ ((s.port port).st = 0)) ∧
    (∃ (port : Nat) (s : State), (port < 48) ∧ ((s.port port).st < 2)) ∧
    (∃ (port : Nat) (s : State), (port < 48) ∧ ((s.port port).laserDown = true)) ∧
    (∃ (port : Nat) (s : State) (fseq : Nat), (port < 48) ∧ (2 ≤ (s.port port).st) ∧ (fseq < 1024) ∧ ((s.port port).rxWait = none) ∧ ((s.port
      port).flitFails = 0)) ∧
    (∃ (port : Nat) (s : State) (fseq : Nat) (w : Nat), (port < 48) ∧ (2 ≤ (s.port port).st) ∧ (fseq < 1024) ∧ ((s.port port).rxWait = some w) ∧
      (w ≠ fseq)) ∧
    (∃ (port : Nat) (s : State) (fseq : Nat), (port < 48) ∧ (2 ≤ (s.port port).st) ∧ (fseq < 1024) ∧ ((s.port port).rxWait = some fseq) ∧
      ((s.port port).flitFails = 15) ∧ ((s.port port).failSeq = fseq)) ∧
    (∃ (port : Nat) (s : State) (i : Nat), (port < 48) ∧ (2 ≤ (s.port port).st) ∧ (i < 9)) ∧
    (∃ (port : Nat) (x : Nat) (p : Pkt) (s : State), (port < 48) ∧ (p.plane = planeOf port) ∧ (s.takes port p = true) ∧ (p.dphys ≠ s.node.phys) ∧
      (p.ver = 0) ∧ (WayOut s x p.dphys) ∧ (planeOf x = planeOf port) ∧ (p.hops < 63) ∧ (flitsOf p ≤ 24) ∧ (p.cls ≠ 4) ∧ (p.cls < 8)) ∧
    (∃ (port : Nat) (x : Nat) (p : Pkt) (s : State), (port < 48) ∧ (p.plane = planeOf port) ∧ (s.takes port p = true) ∧ (p.dphys ≠ s.node.phys) ∧
      (p.ver = 0) ∧ (routeDir s.node p.dphys = none) ∧ (WayOut s x p.sphys)) :=
  ⟨
    ⟨47, portIs State.reset { st := 1 }, 0x3F, 0x1FF, by decide +kernel⟩,
    ⟨47, portIs State.reset { st := 1 }, 0x1FE, 0x1FF, by decide +kernel⟩,
    ⟨47, portIs State.reset { st := 1 }, 0x7F, 0x1FF, by decide +kernel⟩,
    ⟨47, portIs State.reset { st := 1, txWave := 0xFF, rxWave := 0xFF, peer := some ⟨false, 2 ^ 20 - 1, 63, 5⟩ }, false, 2 ^ 20 - 1, 63, 5,
      by decide +kernel⟩,
    ⟨47, portIs State.reset { st := 1, txWave := 0xFF, rxWave := 0xFF, peer := some ⟨true, 2 ^ 20 - 1, 63, 5⟩ }, false, 2 ^ 20 - 1, 63, 5,
      by decide +kernel⟩,
    ⟨47, portIs State.reset openPort4, by decide +kernel⟩,
    ⟨47, portIs State.reset {}, by decide +kernel⟩,
    ⟨47, portIs State.reset {}, by decide +kernel⟩,
    ⟨47, portIs State.reset { laserDown := true }, by decide +kernel⟩,
    ⟨47, portIs State.reset openPort4, 1023, by decide +kernel⟩,
    ⟨47, portIs State.reset { openPort4 with rxWait := some 3 }, 1023, 3, by decide +kernel⟩,
    ⟨47, portIs State.reset { openPort4 with rxWait := some 1023, flitFails := 15, failSeq := 1023 }, 1023, by decide +kernel⟩,
    ⟨47, portIs State.reset { openPort4 with st := 2, rxWave := 0 }, 8, by decide +kernel⟩,
    ⟨36, 47, { pkt0 with dphys := 0x122 }, fwd4 State.reset, by decide +kernel⟩,
    ⟨36, 47, { pkt0 with dphys := 0x54124, sphys := 0x122 }, fwd4 State.reset, by decide +kernel⟩⟩

/-- States and operands that meet the hypotheses of each clause of `Obligations.NodeCommands`. -/
theorem hyps_node_commands :
    (∃ (r : Req) (p : Picked) (port : Nat) (w : Nat) (s : State), (port < 48) ∧ (w < 4096) ∧ (Ready r 1283 p s)) ∧
    (∃ (r : Req) (p : Picked) (port : Nat) (w : Nat) (s : State), (port < 48) ∧ (w < 4096) ∧ (Ready r 1284 p s) ∧ ((s.port port).st = 2)) ∧
    (∃ (r : Req) (p : Picked) (port : Nat) (w : Nat) (s : State), (port < 48) ∧ (w < 4096) ∧ (Ready r 1284 p s) ∧ ((s.port port).st ≠ 2)) ∧
    (∃ (r : Req) (p : Picked) (port : Nat) (w : Nat) (s : State), (port < 48) ∧ (w < 4096) ∧ (Ready r 1285 p s) ∧ ((s.port port).op = none) ∧
      ((s.port port).laserDown = false)) ∧
    (∃ (r : Req) (p : Picked) (port : Nat) (w : Nat) (s : State), (port < 48) ∧ (w < 4096) ∧ (Ready r 1285 p s) ∧ ((s.port port).op = none) ∧
      ((s.port port).laserDown = true)) ∧
    (∃ (r : Req) (p : Picked) (port : Nat) (w : Nat) (s : State) (logical : Nat) (epoch : Nat), (port < 48) ∧ (w < 4096) ∧ (Ready r 1286 p s) ∧
      (logical < 2 ^ 24) ∧ (epoch < 2 ^ 8)) ∧
    (∃ (r : Req) (p : Picked) (port : Nat) (w : Nat) (s : State) (phys : Nat) (ex : Nat) (ey : Nat) (ez : Nat) (pods : List (Nat × Nat)), (port <
      48) ∧ (w < 4096) ∧ (Ready r 1287 p s) ∧ (phys < 2 ^ 20) ∧ (badRoutes ex ey ez pods = false)) ∧
    (∃ (r : Req) (p : Picked) (port : Nat) (w : Nat) (s : State) (base : Nat) (len : Nat), (port < 48) ∧ (w < 4096) ∧ (Ready r 1288 p s) ∧ (base
      % 8 = 0) ∧ (len ≤ 2 ^ 24) ∧ (base + 8 * len ≤ Config.poolBytes)) ∧
    (∃ (port : Nat) (w : Nat) (s : State) (o : LongOp), (port < 48) ∧ (w < 4096) ∧ (s.opOf 1288 = some o) ∧ (s.op o.handle = some o)) ∧
    (∃ (r : Req) (p : Picked) (port : Nat) (w : Nat) (s : State) (base : Nat) (size : Nat), (port < 48) ∧ (w < 4096) ∧ (Ready r 1289 p s) ∧
      (legalWindow base size = true) ∧ ((s.window w).v = false)) ∧
    (∃ (r : Req) (p : Picked) (port : Nat) (w : Nat) (s : State) (base : Nat) (size : Nat), (port < 48) ∧ (w < 4096) ∧ (Ready r 1289 p s) ∧
      (legalWindow base size = true) ∧ ((s.window w).v = true)) ∧
    (∃ (r : Req) (p : Picked) (port : Nat) (w : Nat) (s : State), (port < 48) ∧ (w < 4096) ∧ (Ready r 1290 p s) ∧ ((s.window w).closeOp = none)) ∧
    (∃ (port : Nat) (w : Nat) (s : State) (o : LongOp), (port < 48) ∧ (w < 4096) ∧ ((s.window w).closeOp = some o.handle) ∧ (s.op o.handle = some
      o) ∧ (outstanding s w = 0)) ∧
    (∃ (port : Nat) (w : Nat) (s : State) (o : LongOp), (port < 48) ∧ (w < 4096) ∧ ((s.window w).closeOp = some o.handle) ∧ (s.op o.handle = some
      o) ∧ (outstanding s w ≠ 0)) ∧
    (∃ (r : Req) (p : Picked) (port : Nat) (w : Nat) (s : State) (e : Nat) (node : Nat), (port < 48) ∧ (w < 4096) ∧ (Ready r 1291 p s) ∧ (e <
      4096) ∧ (node < 2 ^ 24)) :=
  ⟨
    ⟨req4, pk4 0x0503, 47, 4095, rd4 (portIs State.reset openPort4) 0x0503, by decide +kernel⟩,
    ⟨req4, pk4 0x0504, 47, 4095, rd4 (portIs State.reset { openPort4 with st := 2, recv := some ⟨false, 4, 4, 4⟩ }) 0x0504, by decide +kernel⟩,
    ⟨req4, pk4 0x0504, 47, 4095, rd4 (portIs State.reset openPort4) 0x0504, by decide +kernel⟩,
    ⟨req4, pk4 0x0505, 47, 4095, rd4 (portIs State.reset openPort4) 0x0505, by decide +kernel⟩,
    ⟨req4, pk4 0x0505, 47, 4095, rd4 (portIs State.reset { laserDown := true }) 0x0505, by decide +kernel⟩,
    ⟨req4, pk4 0x0506, 47, 4095, rd4 State.reset 0x0506, 2 ^ 24 - 1, 255, by decide +kernel⟩,
    ⟨req4, pk4 0x0507, 47, 4095, rd4 State.reset 0x0507, 2 ^ 20 - 1, 16, 1, 16, [(255, 5), (3, 0)], by decide +kernel⟩,
    ⟨req4, pk4 0x0508, 47, 4095, rd4 State.reset 0x0508, 2 ^ 40 - 2 ^ 27, 2 ^ 24, by decide +kernel⟩,
    ⟨47, 4095, op4 State.reset 0x0508, o4 0x0508, by decide +kernel⟩,
    ⟨req4, pk4 0x0509, 47, 4095, rd4 (windowIs State.reset {}) 0x0509, 2 ^ 40 - 2 ^ 35, 19, by decide +kernel⟩,
    ⟨req4, pk4 0x0509, 47, 4095, rd4 (windowIs State.reset { v := true }) 0x0509, 2 ^ 40 - 2 ^ 35, 19, by decide +kernel⟩,
    ⟨req4, pk4 0x050A, 47, 4095, rd4 (windowIs State.reset { v := true, rights := 7 }) 0x050A, by decide +kernel⟩,
    ⟨47, 4095, { windowIs (op4 State.reset 0x050A) { rights := 7, closeOp := some 9 } with msgs := [], clusters := [] }, o4 0x050A,
      by decide +kernel⟩,
    ⟨47, 4095,
      { op4 State.reset 0x050A with node := { phys := 0x123, imports := [(4095, { rights := 7, closeOp := some 9 })], waitReqs := [pkt0] } }, o4
      0x050A, by decide +kernel⟩,
    ⟨req4, pk4 0x050B, 47, 4095, rd4 State.reset 0x050B, 4095, 2 ^ 24 - 1, by decide +kernel⟩⟩

/-- States and operands that meet the hypotheses of each clause of `Obligations.RemoteRequests`. -/
theorem hyps_remote_requests :
    (∃ (port : Nat) (x : Nat) (p : Pkt) (s : State), (port < 48) ∧ (p.cls = 0) ∧ (s.takes port p = true) ∧ (p.dphys = s.node.phys) ∧ (p.ver = 0)
      ∧ (WayOut s x p.sphys) ∧ (s.roleOk p = false) ∧ (p.typ = 1)) ∧
    (∃ (port : Nat) (x : Nat) (p : Pkt) (s : State), (port < 48) ∧ (p.cls = 0) ∧ (s.takes port p = true) ∧ (p.dphys = s.node.phys) ∧ (p.ver = 0)
      ∧ (WayOut s x p.sphys) ∧ (s.roleOk p = false) ∧ (p.typ = 2)) ∧
    (∃ (port : Nat) (x : Nat) (p : Pkt) (s : State), (port < 48) ∧ (p.cls = 0) ∧ (s.takes port p = true) ∧ (p.dphys = s.node.phys) ∧ (p.ver = 0)
      ∧ (WayOut s x p.sphys) ∧ (s.roleOk p = false) ∧ (p.typ = 3)) ∧
    (∃ (port : Nat) (x : Nat) (p : Pkt) (s : State) (c : Nat), (port < 48) ∧ (p.cls = 0) ∧ (s.takes port p = true) ∧ (p.dphys = s.node.phys) ∧
      (p.ver = 0) ∧ (WayOut s x p.sphys) ∧ (s.roleOk p = true) ∧ (importCause s p = some c) ∧ (p.typ = 1)) ∧
    (∃ (port : Nat) (x : Nat) (p : Pkt) (s : State) (c : Nat), (port < 48) ∧ (p.cls = 0) ∧ (s.takes port p = true) ∧ (p.dphys = s.node.phys) ∧
      (p.ver = 0) ∧ (WayOut s x p.sphys) ∧ (s.roleOk p = true) ∧ (importCause s p = some c) ∧ (p.typ = 2)) ∧
    (∃ (port : Nat) (x : Nat) (p : Pkt) (s : State) (c : Nat), (port < 48) ∧ (p.cls = 0) ∧ (s.takes port p = true) ∧ (p.dphys = s.node.phys) ∧
      (p.ver = 0) ∧ (WayOut s x p.sphys) ∧ (s.roleOk p = true) ∧ (importCause s p = some c) ∧ (p.typ = 3)) ∧
    (∃ (port : Nat) (x : Nat) (p : Pkt) (s : State), (port < 48) ∧ (p.cls = 0) ∧ (s.takes port p = true) ∧ (p.dphys = s.node.phys) ∧ (p.ver = 0)
      ∧ (WayOut s x p.sphys) ∧ (s.roleOk p = true) ∧ (importCause s p = none) ∧ ((s.window (p.addr / 2 ^ 35 % 4096)).hc = false) ∧ (p.typ = 1) ∧
      (1 ≤ p.len) ∧ (s.importAddr p % 64 + p.len ≤ 64) ∧ (PlainCw s (s.importAddr p / 64))) ∧
    (∃ (port : Nat) (x : Nat) (p : Pkt) (s : State), (port < 48) ∧ (p.cls = 0) ∧ (s.takes port p = true) ∧ (p.dphys = s.node.phys) ∧ (p.ver = 0)
      ∧ (WayOut s x p.sphys) ∧ (s.roleOk p = true) ∧ (importCause s p = none) ∧ ((s.window (p.addr / 2 ^ 35 % 4096)).hc = false) ∧ (p.typ = 2) ∧
      (1 ≤ p.payload.length) ∧ (s.importAddr p % 128 + p.payload.length ≤ 128) ∧ (p.payload.length < 128) ∧ (Mergeable s (s.importAddr p / 128))
      ∧ (writePoison s (s.importAddr p / 128) (lineMask (s.importAddr p / 128) (s.importAddr p) p.payload.length) = none)) ∧
    (∃ (port : Nat) (x : Nat) (p : Pkt) (s : State) (e : AdderEntry), (port < 48) ∧ (p.cls = 0) ∧ (s.takes port p = true) ∧ (p.dphys =
      s.node.phys) ∧ (p.ver = 0) ∧ (WayOut s x p.sphys) ∧ (s.roleOk p = true) ∧ (importCause s p = none) ∧ ((s.window (p.addr / 2 ^ 35 %
      4096)).hc = false) ∧ (p.typ = 3) ∧ (s.importAddr p % aSize (aType (BitVec.ofNat 8 p.aux)) = 0) ∧ (p.payload.length = if p.aux % 16 = 7 then
      2 * aSize (aType (BitVec.ofNat 8 p.aux)) else aSize (aType (BitVec.ofNat 8 p.aux))) ∧ (s.poolServes (s.importAddr p / 64) = true) ∧
      (s.adderEntry (s.importAddr p / 64) = some e) ∧ ((s.pier (s.home (s.importAddr p))).entry (s.importAddr p / 128) = none)) :=
  ⟨
    ⟨47, 47, { req4p with dlog := 9 }, roleNode State.reset [], by decide +kernel⟩,
    ⟨47, 47, { req4p with dlog := 9, typ := 2, payload := leBytes 8 99 }, roleNode State.reset [], by decide +kernel⟩,
    ⟨47, 47, { req4p with dlog := 9, typ := 3, payload := leBytes 4 99, aux := 0 }, roleNode State.reset [], by decide +kernel⟩,
    ⟨47, 47, { req4p with addr := 4094 * 2 ^ 35 }, roleNode State.reset [], 0x10, by decide +kernel⟩,
    ⟨47, 47, { req4p with typ := 2, addr := 4095 * 2 ^ 35 + 65529, payload := leBytes 8 99 }, roleNode State.reset [], 0x12, by decide +kernel⟩,
    ⟨47, 47, { req4p with typ := 3, addr := 0, payload := leBytes 4 99, aux := 0 }, roleNode State.reset [], 0x10, by decide +kernel⟩,
    ⟨47, 47, { req4p with addr := 4095 * 2 ^ 35 + 65528 }, roleNode State.reset [], by decide +kernel⟩,
    ⟨47, 47, { req4p with typ := 2, payload := leBytes 8 99, addr := 4095 * 2 ^ 35 + 65528 }, roleNode State.reset [], by decide +kernel⟩,
    ⟨47, 47, { req4p with typ := 3, payload := leBytes 4 99, aux := 0, addr := 4095 * 2 ^ 35 + 65532 }, adder4 (roleNode State.reset []), ⟨2047,
      5⟩, by decide +kernel⟩⟩

/-- States and operands that meet the hypotheses of each clause of `Obligations.RemoteAnswers`. -/
theorem hyps_remote_answers :
    (∃ (port : Nat) (hart : Nat) (p : Pkt) (q : Rem) (s : State), (port < 48) ∧ (s.takes port p = true) ∧ (p.dphys = s.node.phys) ∧ (p.cls = 1) ∧
      (s.roleOk p = true) ∧ (List.find? (fun (r : Rem) => r.tag == p.tag) s.node.rems = some q) ∧ (q.kind = RemKind.hostLoad hart) ∧ (p.typ = 1)
      ∧ (p.poison = false)) ∧
    (∃ (port : Nat) (hart : Nat) (p : Pkt) (q : Rem) (s : State), (port < 48) ∧ (s.takes port p = true) ∧ (p.dphys = s.node.phys) ∧ (p.cls = 1) ∧
      (s.roleOk p = true) ∧ (List.find? (fun (r : Rem) => r.tag == p.tag) s.node.rems = some q) ∧ (q.kind = RemKind.hostLoad hart) ∧ (p.typ = 1)
      ∧ (p.poison = true)) ∧
    (∃ (port : Nat) (hart : Nat) (p : Pkt) (q : Rem) (s : State), (port < 48) ∧ (s.takes port p = true) ∧ (p.dphys = s.node.phys) ∧ (p.cls = 1) ∧
      (s.roleOk p = true) ∧ (List.find? (fun (r : Rem) => r.tag == p.tag) s.node.rems = some q) ∧ (q.kind = RemKind.hostLoad hart) ∧ (p.typ = 3)) ∧
    (∃ (port : Nat) (hart : Nat) (p : Pkt) (q : Rem) (s : State), (port < 48) ∧ (s.takes port p = true) ∧ (p.dphys = s.node.phys) ∧ (p.cls = 1) ∧
      (s.roleOk p = true) ∧ (List.find? (fun (r : Rem) => r.tag == p.tag) s.node.rems = some q) ∧ (q.kind = RemKind.hostStore hart) ∧ (p.typ = 2)) ∧
    (∃ (port : Nat) (hart : Nat) (p : Pkt) (q : Rem) (s : State), (port < 48) ∧ (s.takes port p = true) ∧ (p.dphys = s.node.phys) ∧ (p.cls = 1) ∧
      (s.roleOk p = true) ∧ (List.find? (fun (r : Rem) => r.tag == p.tag) s.node.rems = some q) ∧ (q.kind = RemKind.hostStore hart) ∧ (p.typ = 3)) ∧
    (∃ (port : Nat) (p : Pkt) (s : State), (port < 48) ∧ (s.takes port p = true) ∧ (p.dphys = s.node.phys) ∧ (p.cls = 1) ∧ (s.roleOk p = false) ∧
      (p.typ = 1)) ∧
    (∃ (port : Nat) (p : Pkt) (s : State), (port < 48) ∧ (s.takes port p = true) ∧ (p.dphys = s.node.phys) ∧ (p.cls = 1) ∧ (s.roleOk p = false) ∧
      (p.typ = 2)) ∧
    (∃ (port : Nat) (p : Pkt) (s : State), (port < 48) ∧ (s.takes port p = true) ∧ (p.dphys = s.node.phys) ∧ (p.cls = 1) ∧ (s.roleOk p = false) ∧
      (p.typ = 3)) ∧
    (∃ (port : Nat) (p : Pkt) (s : State), (port < 48) ∧ (s.takes port p = true) ∧ (p.dphys = s.node.phys) ∧ (p.cls = 1) ∧ (s.roleOk p = true) ∧
      (List.find? (fun (r : Rem) => r.tag == p.tag) s.node.rems = none) ∧ (p.typ = 1)) ∧
    (∃ (port : Nat) (p : Pkt) (q : Rem) (s : State) (tag : Nat), (port < 48) ∧ (s.takes port p = true) ∧ (p.dphys = s.node.phys) ∧ (p.cls = 1) ∧
      (tag < 65536) ∧ (List.find? (fun (r : Rem) => r.tag == tag) s.node.rems = some q) ∧ (q.age < s.node.timeout)) ∧
    (∃ (port : Nat) (hart : Nat) (p : Pkt) (q : Rem) (s : State) (tag : Nat), (port < 48) ∧ (s.takes port p = true) ∧ (p.dphys = s.node.phys) ∧
      (p.cls = 1) ∧ (tag < 65536) ∧ (List.find? (fun (r : Rem) => r.tag == tag) s.node.rems = some q) ∧ (s.node.timeout ≤ q.age) ∧ (q.kind =
      RemKind.hostLoad hart)) ∧
    (∃ (port : Nat) (hart : Nat) (p : Pkt) (q : Rem) (s : State) (tag : Nat), (port < 48) ∧ (s.takes port p = true) ∧ (p.dphys = s.node.phys) ∧
      (p.cls = 1) ∧ (tag < 65536) ∧ (List.find? (fun (r : Rem) => r.tag == tag) s.node.rems = some q) ∧ (s.node.timeout ≤ q.age) ∧ (q.kind =
      RemKind.hostStore hart)) ∧
    (∃ (hart : Nat) (addr : Nat) (size : Nat) (s : State), (hart < 96) ∧ (1 ≤ size) ∧ (size ≤ 64) ∧ (addr + size ≤ Config.physEnd) ∧ (s.awake
      (hart / 4) = true) ∧ (addr + size ≤ Config.poolBytes) ∧ (addr % 64 + size ≤ 64) ∧ ((s.cluster (hart / 4)).line (addr / 64) = none) ∧
      (((s.cluster (hart / 4)).wb.any fun (x : HLine) => x.line == addr / 64) = false)) ∧
    (∃ (hart : Nat) (addr : Nat) (size : Nat) (l : HLine) (s : State), (hart < 96) ∧ (1 ≤ size) ∧ (size ≤ 64) ∧ (addr + size ≤ Config.physEnd) ∧
      (s.awake (hart / 4) = true) ∧ (addr + size ≤ Config.poolBytes) ∧ (addr % 64 + size ≤ 64) ∧ ((s.cluster (hart / 4)).line (addr / 64) = some
      l) ∧ (l.m = true) ∧ (l.poison = true)) ∧
    (∃ (hart : Nat) (addr : Nat) (size : Nat) (l : HLine) (s : State), (hart < 96) ∧ (1 ≤ size) ∧ (size ≤ 64) ∧ (addr + size ≤ Config.physEnd) ∧
      (s.awake (hart / 4) = true) ∧ (addr + size ≤ Config.poolBytes) ∧ (addr % 64 + size ≤ 64) ∧ ((s.cluster (hart / 4)).line (addr / 64) = some
      l) ∧ (l.m = true) ∧ (l.poison = false) ∧ (size = 8) ∧ (addr % 8 = 0)) ∧
    (∃ (hart : Nat) (addr : Nat) (size : Nat) (l : HLine) (s : State), (hart < 96) ∧ (1 ≤ size) ∧ (size ≤ 64) ∧ (addr + size ≤ Config.physEnd) ∧
      (s.awake (hart / 4) = true) ∧ (addr + size ≤ Config.poolBytes) ∧ (addr % 64 + size ≤ 64) ∧ ((s.cluster (hart / 4)).line (addr / 64) = some
      l) ∧ ((hart % 4, addr / 64) ∉ (s.cluster (hart / 4)).res) ∧ (size = 8) ∧ (addr % 8 = 0)) ∧
    (∃ (hart : Nat) (addr : Nat) (size : Nat) (s : State), (hart < 96) ∧ (1 ≤ size) ∧ (size ≤ 64) ∧ (addr + size ≤ Config.physEnd) ∧ (s.awake
      (hart / 4) = true) ∧ (0x400000000000 ≤ addr) ∧ (addr < 0x500000000000) ∧
      (deviceTakes addr size = true)) ∧
    (∃ (hart : Nat) (addr : Nat) (size : Nat) (s : State), (hart < 96) ∧ (1 ≤ size) ∧ (size ≤ 64) ∧ (addr + size ≤ Config.physEnd) ∧ (s.awake
      (hart / 4) = true) ∧ (0x400000000000 ≤ addr) ∧ (addr < 0x500000000000) ∧
      (deviceTakes addr size = false)) ∧
    (∃ (hart : Nat) (addr : Nat) (size : Nat) (s : State), (hart < 96) ∧ (1 ≤ size) ∧ (size ≤ 64) ∧ (addr + size ≤ Config.physEnd) ∧ (s.awake
      (hart / 4) = true) ∧ (Config.apertureBase ≤ addr) ∧ ((s.exp (addr / 2 ^ 35 % 4096)).v = false)) ∧
    (∃ (hart : Nat) (addr : Nat) (size : Nat) (s : State), (hart < 96) ∧ (1 ≤ size) ∧ (size ≤ 64) ∧ (addr + size ≤ Config.physEnd) ∧ (s.awake
      (hart / 4) = true) ∧ (Config.apertureBase ≤ addr) ∧ (size = 8)) ∧
    (∃ (hart : Nat) (addr : Nat) (size : Nat) (s : State) (x : Nat) (ep : Nat) (ph : Nat), (hart < 96) ∧ (1 ≤ size) ∧ (size ≤ 64) ∧ (addr + size
      ≤ Config.physEnd) ∧ (s.awake (hart / 4) = true) ∧ (Config.apertureBase ≤ addr) ∧ ((s.exp (addr / 2 ^ 35 % 4096)).v = true) ∧ (s.ownNode
      (s.exp (addr / 2 ^ 35 % 4096)).node = false) ∧ ((s.exp (addr / 2 ^ 35 % 4096)).node < s.node.mapLen) ∧ (List.find? (fun (e : Nat × W64) =>
      e.1 == (s.exp (addr / 2 ^ 35 % 4096)).node) (s.node.cacheOf (dieColumn (dieAbut (hart / 4 / 12)))) = none) ∧ ((s.node.mapBase + 8 * (s.exp
      (addr / 2 ^ 35 % 4096)).node) % 8 = 0) ∧ ((s.arb (homeArb ((s.node.mapBase + 8 * (s.exp (addr / 2 ^ 35 % 4096)).node) / 64))).busy
      ((s.node.mapBase + 8 * (s.exp (addr / 2 ^ 35 % 4096)).node) / 64) = false) ∧ ((s.arb (homeArb ((s.node.mapBase + 8 * (s.exp (addr / 2 ^ 35
      % 4096)).node) / 64))).owner ((s.node.mapBase + 8 * (s.exp (addr / 2 ^ 35 % 4096)).node) / 64) = none) ∧ (PlainCw s ((s.node.mapBase + 8 *
      (s.exp (addr / 2 ^ 35 % 4096)).node) / 64)) ∧ (mapEntry (leNat (Memory.bytes s.pool.bytes (s.node.mapBase + 8 * (s.exp (addr / 2 ^ 35 %
      4096)).node) 8)) = some { gen8 := false, epoch := ep, phys := ph }) ∧ (WayOut s x ph) ∧ (s.job.st ≠ JobSt.run)) ∧
    (∃ (hart : Nat) (addr : Nat) (size : Nat) (s : State), (hart < 96) ∧ (1 ≤ size) ∧ (size ≤ 64) ∧ (addr + size ≤ Config.physEnd) ∧ (s.awake
      (hart / 4) = true) ∧ (addr / 64 ∈ (s.cluster (hart / 4)).lost)) ∧
    (∃ (hart : Nat) (addr : Nat) (size : Nat) (s : State), (hart < 96) ∧ (1 ≤ size) ∧ (size ≤ 64) ∧ (addr + size ≤ Config.physEnd) ∧ (s.awake
      (hart / 4) = true) ∧ (addr / 64 ∉ (s.cluster (hart / 4)).lost)) ∧
    (∃ (hart : Nat) (addr : Nat) (size : Nat) (s : State) (t : Nat) (q : Nat) (chunk : Nat) (e : QEntry) (c : Chunk), (hart < 96) ∧ (1 ≤ size) ∧
      (size ≤ 64) ∧ (addr + size ≤ Config.physEnd) ∧ (s.awake (hart / 4) = true) ∧ (t < 1296) ∧ (q < 4) ∧ ((s.queue t q).active 1 = some e) ∧
      (e.chunks = [c]) ∧ (c.idx = chunk)) :=
  ⟨
    ⟨47, 95, { ans4 with typ := 1, payload := leBytes 8 99 }, remq (.hostLoad 95), roleNode State.reset [remq (.hostLoad 95)], by decide +kernel⟩,
    ⟨47, 95, { ans4 with typ := 1, payload := leBytes 8 99, poison := true }, remq (.hostLoad 95), roleNode State.reset [remq (.hostLoad 95)],
      by decide +kernel⟩,
    ⟨47, 95, { ans4 with typ := 3, aux := 0x11 }, remq (.hostLoad 95), roleNode State.reset [remq (.hostLoad 95)], by decide +kernel⟩,
    ⟨47, 95, { ans4 with typ := 2 }, remq (.hostStore 95), roleNode State.reset [remq (.hostStore 95)], by decide +kernel⟩,
    ⟨47, 95, { ans4 with typ := 3, aux := 0x11 }, remq (.hostStore 95), roleNode State.reset [remq (.hostStore 95)], by decide +kernel⟩,
    ⟨47, { ans4 with typ := 1, dlog := 9 }, roleNode State.reset [remq (.hostStore 95)], by decide +kernel⟩,
    ⟨47, { ans4 with typ := 2, dlog := 9 }, roleNode State.reset [remq (.hostStore 95)], by decide +kernel⟩,
    ⟨47, { ans4 with typ := 3, dlog := 9 }, roleNode State.reset [remq (.hostStore 95)], by decide +kernel⟩,
    ⟨47, { ans4 with typ := 1 }, roleNode State.reset [], by decide +kernel⟩,
    ⟨47, { ans4 with typ := 1 }, { remq (.hostStore 95) with age := 999 }, roleNode State.reset [{ remq (.hostStore 95) with age := 999 }],
      65535, by decide +kernel⟩,
    ⟨47, 95, { ans4 with typ := 1 }, remq (.hostLoad 95), roleNode State.reset [remq (.hostLoad 95)], 65535, by decide +kernel⟩,
    ⟨47, 95, { ans4 with typ := 1 }, remq (.hostStore 95), roleNode State.reset [remq (.hostStore 95)], 65535, by decide +kernel⟩,
    ⟨95, 2 ^ 40 - 64, 64, ah State.reset { parked := false }, by decide +kernel⟩,
    ⟨95, 2 ^ 40 - 64, 64, hl true true, ah State.reset { parked := false, lines := [hl true true] }, by decide +kernel⟩,
    ⟨95, 2 ^ 40 - 8, 8, hl true false, ah State.reset { parked := false, lines := [hl true false] }, by decide +kernel⟩,
    ⟨95, 2 ^ 40 - 8, 8, hl true false, ah State.reset { parked := false, lines := [hl true false] }, by decide +kernel⟩,
    ⟨95, 0x400000F21FF8, 8, ah State.reset { parked := false }, by decide +kernel⟩,
    ⟨95, 0x400000F28000, 8, ah State.reset { parked := false }, by decide +kernel⟩,
    ⟨95, 2 ^ 48 - 8, 8, ah State.reset { parked := false }, by decide +kernel⟩,
    ⟨95, 2 ^ 48 - 8, 8, ah State.reset { parked := false }, by decide +kernel⟩,
    ⟨95, 2 ^ 48 - 8, 8, out4 State.reset, 47, 4, 0x122, by decide +kernel⟩,
    ⟨95, 2 ^ 40 - 8, 8, ah State.reset { parked := false, lost := [lastCw] }, by decide +kernel⟩,
    ⟨95, 2 ^ 40 - 8, 8, ah State.reset { parked := false }, by decide +kernel⟩,
    ⟨95, 2 ^ 40 - 8, 8, q4 (hartUp State.reset) (entry4 [ck4]), 1295, 3, 5, entry4 [ck4], ck4, by decide +kernel⟩⟩

/-- States and operands that meet the hypotheses of `Obligations.EventDelivered`. -/
theorem hyps_event_delivered : ∃ (t : Nat) (n : Nat) (s : State), (t < 1296) ∧ (n < 64) ∧ ((s.tile t).st = TileSt.run) ∧ ((s.tile
      t).core.fetching = true) ∧ ((s.tile t).core.debug = false) ∧ ((s.tile t).core.mie = true) ∧ ((s.tile t).core.inHandler = false) ∧ ((s.tile
      t).pend.getLsbD n = true) ∧ ((s.tile t).mask.getLsbD n = false) ∧ (∀ m < n, (s.tile t).pend.getLsbD m = true → (s.tile t).mask.getLsbD m =
      true) :=
  ⟨1295, 63, State.reset.setTile 1295
      { st := .run, core := { fetching := true, mie := true, pc := 64, mtvec := 0x100 }, pend := BitVec.ofNat 64 (2 ^ 63), mask := BitVec.ofNat 64 (2 ^ 63 - 1) },
      by decide +kernel⟩

/-- States and operands that meet the hypotheses of each clause of `Obligations.TickAtBoundary`. -/
theorem hyps_tick_at_boundary :
    (∃ (predict : List Nat) (estimate : Nat) (floor : Nat) (s : State), (predict.length = 64) ∧ (estimate < 65536) ∧ (floor < 65536) ∧
      (s.tick.running = true)) ∧
    (∃ (predict : List Nat) (estimate : Nat) (floor : Nat) (s : State), (predict.length = 64) ∧ (estimate < 65536) ∧ (floor < 65536) ∧
      (s.tick.running = false)) ∧
    (∃ (port : Nat) (s : State) (t1 : Nat), (port < 48) ∧ (s.tick.running = true) ∧ (s.carries port = true) ∧ (t1 < 2 ^ 64) ∧ (s.tick.boundaries
      % 100 = 0) ∧ ((s.port port).syncAt ≠ some s.tick.boundaries) ∧ ((s.port port).queue = [] ∧ (s.port port).used = [] ∧ (s.port port).unacked
      = [])) ∧
    (∃ (port : Nat) (s : State) (t1 : Nat), (port < 48) ∧ (s.tick.running = true) ∧ (s.carries port = true) ∧ (t1 < 2 ^ 64) ∧ (s.tick.boundaries
      % 100 ≠ 0 ∨ (s.port port).syncAt = some s.tick.boundaries)) ∧
    (∃ (port : Nat) (s : State), (port < 48) ∧ (s.carries port = true) ∧ (s.tick.parent ≠ some port)) ∧
    (∃ (port : Nat) (s : State) (h : Heartbeat), (port < 48) ∧ (s.carries port = true) ∧ (h.phys < 2 ^ 20) ∧ (h.late = false)) ∧
    (∃ (port : Nat) (s : State), (port < 48) ∧ (s.tick.running = true) ∧ (s.listed port = true) ∧ (s.tick.st = 0)) ∧
    (∃ (port : Nat) (s : State), (port < 48) ∧ (s.tick.running = true) ∧ (s.listed port = true) ∧ (s.tick.st = 3)) ∧
    (∃ (port : Nat) (s : State), (port < 48) ∧ (s.tick.running = true) ∧ (s.tick.st = 1)) ∧
    (∃ (port : Nat) (s : State), (port < 48) ∧ (s.tick.parent ≠ none) ∧ (s.tick.st ≠ 0) ∧ (s.listed port = true)) ∧
    (∃ (port : Nat) (s : State), (port < 48) ∧ (s.tick.st = 3) ∧ (s.tick.aligned = true)) ∧
    (∃ (port : Nat) (s : State), (port < 48) ∧ (s.tick.st = 3) ∧ (s.job.member = true)) ∧
    (∃ (port : Nat) (s : State), (port < 48) ∧ (s.tick.st ≠ 3)) :=
  ⟨
    ⟨preds, 65535, 65535, tick5 State.reset { running := true, st := 2, num := 99, boundaries := 99 }, by decide +kernel⟩,
    ⟨preds, 0, 0, tick5 State.reset {}, by decide +kernel⟩,
    ⟨47, oport (tick5 State.reset { running := true, boundaries := 200 }) up5, 2 ^ 64 - 1, by decide +kernel⟩,
    ⟨47, oport (tick5 State.reset { running := true, boundaries := 200 }) { up5 with syncAt := some 200 }, 2 ^ 64 - 1, by decide +kernel⟩,
    ⟨47, oport (tick5 State.reset { running := true, parent := some 3 }) up5, by decide +kernel⟩,
    ⟨47, oport State.reset up5, beat, by decide +kernel⟩,
    ⟨47, oport (tick5 State.reset { running := true, parents := [47, 0x3F, 0x3F, 0x3F] }) up5, by decide +kernel⟩,
    ⟨47, oport (tick5 State.reset { running := true, st := 3, parents := [47, 0x3F, 0x3F, 0x3F] }) up5, by decide +kernel⟩,
    ⟨47, tick5 State.reset { running := true, st := 1 }, by decide +kernel⟩,
    ⟨47, oport (tick5 State.reset { running := true, st := 2, parent := some 3, parents := [3, 47, 0x3F, 0x3F] }) up5, by decide +kernel⟩,
    ⟨47, tick5 State.reset { running := true, st := 3, aligned := true, err := 5 }, by decide +kernel⟩,
    ⟨47, job5 (tick5 State.reset { running := true, st := 3 }) { st := .armed, id := 3 }, by decide +kernel⟩,
    ⟨47, job5 (tick5 State.reset { running := true, st := 2 }) { st := .run, id := 3 }, by decide +kernel⟩⟩

/-- States and operands that meet the hypotheses of each clause of `Obligations.TickAndHaltCommands`. -/
theorem hyps_tick_and_halt_commands :
    (∃ (r : Req) (p : Picked) (s : State) (p0 : Nat) (p1 : Nat) (p2 : Nat) (p3 : Nat), (Ready r 2821 p s) ∧ (∀ x ∈ [p0, p1, p2, p3], x < 48 ∨ x =
      63) ∧ (s.job.st ≠ JobSt.run)) ∧
    (∃ (r : Req) (p : Picked) (s : State), (Ready r 2821 p s) ∧ (s.job.st = JobSt.run)) ∧
    (∃ (s : State) (port : Nat) (bound : W64) (origin : Nat) (action : Nat), (port < 48) ∧ (origin < 2 ^ 20) ∧ (s.job.id < 65536) ∧ (action = 1 ∨
      action = 2) ∧ (s.carries port = true) ∧ (s.job.st = JobSt.run) ∧ (s.job.haltSeen.contains (BitVec.toNat bound, origin, action == 1) =
      false) ∧ (s.tick.num < bound)) ∧
    (∃ (r : Req) (p : Picked) (s : State) (ts : TileSet), (Ready r 1799 p s) ∧ (badTileSet ts = false) ∧ (∀ t ∈ tilesNamed ts, (s.tile t).st =
      TileSt.run)) ∧
    (∃ (r : Req) (p : Picked) (s : State) (ts : TileSet), (Ready r 1799 p s) ∧ (badTileSet ts = false) ∧ (∀ t ∈ tilesNamed ts, (s.tile t).st =
      TileSt.halted)) ∧
    (∃ (r : Req) (p : Picked) (s : State) (ts : TileSet) (action : Nat), (Ready r 1799 p s) ∧ (badTileSet ts = false) ∧ (tilesNamed ts = []) ∧
      (s.job.st = JobSt.run) ∧ (action = 1 ∨ action = 2)) :=
  ⟨
    ⟨req5, pk5 0x0B05, job5 (rd5 State.reset 0x0B05) { st := .armed }, 47, 0, 63, 63, by decide +kernel⟩,
    ⟨req5, pk5 0x0B05, job5 (rd5 State.reset 0x0B05) { st := .run }, by decide +kernel⟩,
    ⟨runJob State.reset {}, 47, 301, 2 ^ 20 - 1, 2, by decide +kernel⟩,
    ⟨req5, pk5 0x0707, two5 (rd5 State.reset 0x0707) .run, last5, by decide +kernel⟩,
    ⟨req5, pk5 0x0707, two5 (rd5 State.reset 0x0707) .halted, last5, by decide +kernel⟩,
    ⟨req5, pk5 0x0707, job5 (rd5 State.reset 0x0707) { st := .run }, ⟨0, 0, 0⟩, 2, by decide +kernel⟩⟩

/-- States and operands that meet the hypotheses of each clause of `Obligations.JobsAndCollectives`. -/
theorem hyps_jobs_and_collectives :
    (∃ (port : Nat) (s : State) (bound : Nat) (origin : Nat) (cause : Nat), (port < 48) ∧ (s.job.st = JobSt.run) ∧ (2 ≤ (s.port port).st) ∧
      (s.job.id < 65536) ∧ (bound < 2 ^ 32) ∧ (origin < 2 ^ 20) ∧ (cause < 256) ∧ (s.job.floods.contains (fullBound s bound, origin, s.job.id) =
      false) ∧ (s.job.lateFor.contains (fullBound s bound) = false) ∧ (BitVec.toNat s.tick.num < fullBound s bound + s.job.depth - 1) ∧
      (s.job.holds.contains (fullBound s bound + s.job.depth - 1) = false)) ∧
    (∃ (port : Nat) (s : State) (bound : Nat) (origin : Nat) (cause : Nat), (port < 48) ∧ (s.job.st = JobSt.run) ∧ (2 ≤ (s.port port).st) ∧
      (s.job.id < 65536) ∧ (bound < 2 ^ 32) ∧ (origin < 2 ^ 20) ∧ (cause < 256) ∧ (s.job.floods.contains (fullBound s bound, origin, s.job.id) =
      false) ∧ (origin ≠ s.node.phys)) ∧
    (∃ (port : Nat) (s : State) (bound : Nat) (origin : Nat) (cause : Nat) (kind : Nat), (port < 48) ∧ (s.job.st = JobSt.run) ∧ (2 ≤ (s.port
      port).st) ∧ (s.job.id < 65536) ∧ (bound < 2 ^ 32) ∧ (origin < 2 ^ 20) ∧ (cause < 256) ∧ (s.job.floods.contains (fullBound s bound, origin,
      s.job.id) = true) ∧ (kind = 1 ∨ kind = 2)) ∧
    (∃ (port : Nat) (s : State) (phys : Nat), (port < 48) ∧ (s.job.st = JobSt.run) ∧ (phys < 2 ^ 20) ∧ (phys ≠ s.node.phys) ∧ (∃ x < 48, (s.port
      x).nbPhys = some phys) ∧ (∀ x < 48, (s.port x).nbPhys = some phys → 4 ≤ (s.port x).silent) ∧ (s.job.pods.getLsbD (podOf phys) = true) ∧
      (s.job.failedNodes.contains phys = false)) ∧
    (∃ (port : Nat) (s : State) (phys : Nat) (x : Nat), (port < 48) ∧ (s.job.st = JobSt.run) ∧ (phys < 2 ^ 20) ∧ (x < 48) ∧ ((s.port x).nbPhys =
      some phys) ∧ ((s.port x).silent < 4)) ∧
    (∃ (port : Nat) (s : State) (p : Pkt), (port < 48) ∧ (s.job.st = JobSt.run) ∧ (p.cls = 3) ∧ (p.dphys = s.node.phys) ∧ (p.job = s.job.id) ∧
      (s.takes port p = true) ∧ (s.roleOk p = false)) ∧
    (∃ (port : Nat) (s : State) (p : Pkt), (port < 48) ∧ (s.job.st = JobSt.run) ∧ (p.cls = 3) ∧ (p.dphys = s.node.phys) ∧ (p.job = s.job.id) ∧
      (s.takes port p = true) ∧ (s.roleOk p = true) ∧ (List.find? (fun (c : Coll) => c.seq == pktSeq p) s.job.posted = none)) ∧
    (∃ (port : Nat) (s : State) (p : Pkt) (c : Coll), (port < 48) ∧ (s.job.st = JobSt.run) ∧ (p.cls = 3) ∧ (p.dphys = s.node.phys) ∧ (p.job =
      s.job.id) ∧ (s.takes port p = true) ∧ (s.roleOk p = true) ∧ (s.job.posted = [c]) ∧ (c.seq = pktSeq p) ∧ (pktSign p ≠ BitVec.toNat c.sign)) ∧
    (∃ (port : Nat) (s : State) (p : Pkt) (c : Coll), (port < 48) ∧ (s.job.st = JobSt.run) ∧ (p.cls = 3) ∧ (p.dphys = s.node.phys) ∧ (p.job =
      s.job.id) ∧ (s.takes port p = true) ∧ (s.roleOk p = true) ∧ (s.job.posted = [c]) ∧ (c.seq = pktSeq p) ∧ (pktSign p = BitVec.toNat c.sign) ∧
      (c.steps = [])) ∧
    (∃ (port : Nat) (s : State) (c : Coll) (rest : List Coll), (port < 48) ∧ (s.job.st = JobSt.run) ∧ (s.job.posted = c :: rest) ∧ (c.begun ≠
      none) ∧ (c.steps = []) ∧ (Coll.legal s c = true) ∧ (c.trigMet = true) ∧ (c.next ≤ BitVec.toNat s.job.jt + 1)) ∧
    (∃ (port : Nat) (s : State) (c : Coll) (rest : List Coll), (port < 48) ∧ (s.job.st = JobSt.run) ∧ (s.job.posted = c :: rest) ∧ (c.begun ≠
      none) ∧ (c.steps = []) ∧ (Coll.legal s c = false)) ∧
    (∃ (port : Nat) (s : State) (c : Coll) (rest : List Coll), (port < 48) ∧ (s.job.st = JobSt.run) ∧ (s.job.posted = c :: rest) ∧ (c.begun ≠
      none) ∧ (c.steps = []) ∧ (Coll.legal s c = true) ∧ (c.trigMet = false)) ∧
    (∃ (port : Nat) (s : State) (stream : Nat) (step : Nat) (c : Coll) (x : CStep), (port < 48) ∧ (s.job.st = JobSt.run) ∧ (c ∈ s.job.posted) ∧
      (x ∈ c.steps) ∧ (x.stream = stream) ∧ (x.step = step) ∧ (x.closed = false) ∧ (BitVec.toNat s.job.stepWait ≤ x.lates)) ∧
    (∃ (r : Req) (p : Picked) (s : State) (addr : Nat), (addr % 128 = 0) ∧ (addr + 128 ≤ Config.poolBytes) ∧ (s.job.posted.length < 16) ∧
      (s.job.st = JobSt.run ∨ s.job.st = JobSt.armed) ∧ (Ready r 2820 p s) ∧ ((parseColl addr s.job.seqs (if peekPoison s addr 128 = true then []
      else peekPool s addr 128)).fx8 = true ∨ (Coll.group s (parseColl addr s.job.seqs (if peekPoison s addr 128 = true then [] else peekPool s
      addr 128))).any s.gen8Node = false)) ∧
    (∃ (r : Req) (p : Picked) (s : State) (addr : Nat), (addr % 128 = 0) ∧ (addr + 128 ≤ Config.poolBytes) ∧ (s.job.posted.length < 16) ∧
      (s.job.st = JobSt.run ∨ s.job.st = JobSt.armed) ∧ (Ready r 2820 p s) ∧ ((parseColl addr s.job.seqs (if peekPoison s addr 128 = true then []
      else peekPool s addr 128)).fx8 = false) ∧ ((Coll.group s (parseColl addr s.job.seqs (if peekPoison s addr 128 = true then [] else peekPool
      s addr 128))).any s.gen8Node = true)) ∧
    (∃ (r : Req) (p : Picked) (s : State), (Ready r 2818 p s) ∧ ((s.job.posted.any fun (c : Coll) => c.begun.isSome) = false)) ∧
    (∃ (r : Req) (p : Picked) (s : State), (Ready r 2818 p s) ∧ ((s.job.posted.any fun (c : Coll) => c.begun.isSome) = true)) ∧
    (∃ (r : Req) (p : Picked) (s : State), (Ready r 2819 p s)) :=
  ⟨
    ⟨47, runJob State.reset { depth := 8 }, 299, 2 ^ 20 - 1, 3, by decide +kernel⟩,
    ⟨47, runJob State.reset {}, 2 ^ 32 - 1, 2 ^ 20 - 1, 255, by decide +kernel⟩,
    ⟨47, runJob State.reset { floods := [(299, 2 ^ 20 - 1, 65535)] }, 299, 2 ^ 20 - 1, 255, 2, by decide +kernel⟩,
    ⟨47, { roleJob State.reset {} with node := { phys := 0, ports := [(47, { up5 with nbPhys := some 0xFFF, silent := 4 })] } }, 0xFFF,
      by decide +kernel⟩,
    ⟨47, { roleJob State.reset {} with node := { phys := 0, ports := [(47, { up5 with nbPhys := some 0xFFF, silent := 3 })] } }, 0xFFF, 47,
      by decide +kernel⟩,
    ⟨47, roleJob State.reset {}, { cpk 7 9 with dlog := 9 }, by decide +kernel⟩,
    ⟨47, roleJob State.reset {}, cpk 7 9, by decide +kernel⟩,
    ⟨47, roleJob State.reset { posted := [barrier] }, cpk 7 8, barrier, by decide +kernel⟩,
    ⟨47, roleJob State.reset { posted := [barrier] }, cpk 7 9, barrier, by decide +kernel⟩,
    ⟨47, ready5 (roleJob State.reset { posted := [barrier, coll5] }), barrier, [coll5], by decide +kernel⟩,
    ⟨47, ready5 (roleJob State.reset { posted := [{ barrier with count := 2 }, coll5] }), { barrier with count := 2 }, [coll5], by decide +kernel⟩,
    ⟨47, ready5 (roleJob State.reset { posted := [{ barrier with trigMet := false }, coll5] }), { barrier with trigMet := false }, [coll5],
      by decide +kernel⟩,
    ⟨47, runJob State.reset { posted := [late5], stepWait := 5 }, 1, 2, late5, { stream := 1, step := 2, expect := 1, lates := 5 },
      by decide +kernel⟩,
    ⟨req5, pk5 0x0B04, { job5 (rd5 (ready5 State.reset) 0x0B04) { st := .armed } with node := {} }, 2 ^ 40 - 128, by decide +kernel⟩,
    ⟨req5, pk5 0x0B04, fx8Job State.reset, 2 ^ 40 - 128, by decide +kernel⟩,
    ⟨req5, pk5 0x0B02, job5 (rd5 State.reset 0x0B02) { st := .run, id := 3 }, by decide +kernel⟩,
    ⟨req5, pk5 0x0B02, job5 (rd5 State.reset 0x0B02) { st := .run, id := 3, posted := [coll5] }, by decide +kernel⟩,
    ⟨req5, pk5 0x0B03, job5 (rd5 State.reset 0x0B03) { st := .run, id := 3, lates := [(3, 4)] }, by decide +kernel⟩⟩

/-- States and operands that meet the hypotheses of each clause of `Obligations.Launches`. -/
theorem hyps_launches :
    (∃ (port : Nat) (h : LaunchHdr) (s : State), (port < 48) ∧ (okHdr h = true) ∧ (s.carries port = true) ∧ (s.power.idle = Idle.s0) ∧ (s.tick.st
      ≠ 0) ∧ (h.root ≠ s.node.phys) ∧ (s.job.lids.contains h.lid = false) ∧ (s.job.st ≠ JobSt.run) ∧ (BitVec.toNat s.tick.num < h.startTick)) ∧
    (∃ (port : Nat) (h : LaunchHdr) (s : State), (port < 48) ∧ (okHdr h = true) ∧ (s.carries port = true) ∧ (s.power.idle = Idle.s0) ∧ (s.tick.st
      ≠ 0) ∧ (h.root ≠ s.node.phys) ∧ (s.job.lids.contains h.lid = false) ∧ (s.job.st = JobSt.run)) ∧
    (∃ (port : Nat) (s : State) (a : LaunchAck) (x : Launch), (port < 48) ∧ (a.entries.length ≤ 16) ∧ (a.phys < 2 ^ 20) ∧ (s.carries port = true)
      ∧ (s.job.launch = some x) ∧ (a.lid = x.hdr.lid) ∧ (a.attempt = x.hdr.attempt) ∧ (x.acked = false) ∧ (x.handle = none) ∧ (a.phys ∉ x.got) ∧
      (a.phys ∈ x.children)) ∧
    (∃ (port : Nat) (s : State) (x : Launch) (par : Nat) (y : Nat), (port < 48) ∧ (s.job.launch = some x) ∧ (x.acked = false) ∧ (x.handle = none)
      ∧ (x.hdr.issueTick + 50 ≤ BitVec.toNat s.tick.num + 12 * treeDepth x.hdr s.node.phys) ∧ (x.parent = some par) ∧ (WayOut s y par) ∧
      (s.gen8Node par = false) ∧ (x.named = []) ∧ (x.more = 0) ∧ (x.children = x.got)) ∧
    (∃ (port : Nat) (s : State) (x : Launch), (port < 48) ∧ (s.job.launch = some x) ∧ (x.acked = false) ∧ (x.handle = none) ∧ (BitVec.toNat
      s.tick.num + 12 * treeDepth x.hdr s.node.phys < x.hdr.issueTick + 50)) ∧
    (∃ (port : Nat) (s : State) (x : Launch) (o : LongOp), (port < 48) ∧ (s.job.launch = some x) ∧ (x.handle = some o.handle) ∧ (s.op o.handle =
      some o) ∧ (∀ c ∈ x.children, c ∈ x.got) ∧ (x.named = [])) ∧
    (∃ (port : Nat) (h : LaunchHdr) (s : State) (r : Req) (p : Picked), (port < 48) ∧ (Ready r 2817 p s) ∧ (badLaunch s h = false) ∧
      (s.job.launch = none) ∧ (∀ v ∈ h.excl, v < 2 ^ 20) ∧ (s.tick.st = 0) ∧ (4 * List.foldl (fun (m k : Nat) => m * (blockValues s.node h
      k).length) 1 [0, 1, 2, 3] ≤ 216)) ∧
    (∃ (port : Nat) (h : LaunchHdr) (s : State) (r : Req) (p : Picked), (port < 48) ∧ (Ready r 2817 p s) ∧ (badLaunch s h = false) ∧
      (s.job.launch = none) ∧ (∀ v ∈ h.excl, v < 2 ^ 20) ∧ (s.tick.st ≠ 0) ∧ (4 * List.foldl (fun (m k : Nat) => m * (blockValues s.node h
      k).length) 1 [0, 1, 2, 3] ≤ 216) ∧ (s.job.lids.contains h.lid = false) ∧ (s.job.st ≠ JobSt.run) ∧ (BitVec.toNat s.tick.num < h.startTick)) :=
  ⟨
    ⟨47, hdr5, { lnode State.reset with job := {} }, by decide +kernel⟩,
    ⟨47, hdr5, { lnode State.reset with job := { st := .run, id := 9 } }, by decide +kernel⟩,
    ⟨47, launched State.reset launch5, { lid := 2 ^ 32 - 1, attempt := 3, code := 2, nmiss := 0, phys := 4, entries := [(9, 3)] }, launch5,
      by decide +kernel⟩,
    ⟨47, wayUp State.reset lx, lx, 0, 47, by decide +kernel⟩,
    ⟨47, { launched State.reset { launch5 with hdr := { hdr5 with issueTick := 300 } } with node := { phys := 0xFFF, ports := [(47, up5)] } },
      { launch5 with hdr := { hdr5 with issueTick := 300 } }, by decide +kernel⟩,
    ⟨47, { launched State.reset { launch5 with got := [4, 3], handle := some 9 } with belul := { State.reset.belul with ops := [o5] } },
      { launch5 with got := [4, 3], handle := some 9 }, o5, by decide +kernel⟩,
    ⟨47, h8, { tick5 (rd5 (lnode State.reset) 0x0B01) {} with node := { phys := 0, ex := 2, ey := 2, ez := 2, ports := [(47, up5)] } }, req5, pk5
      0x0B01, by decide +kernel⟩,
    ⟨47, h8, { job5 (rd5 (lnode State.reset) 0x0B01) {} with node := { phys := 0, ex := 2, ey := 2, ez := 2, ports := [(47, up5)] } }, req5, pk5
      0x0B01, by decide +kernel⟩⟩

/-- States and operands that meet the hypotheses of each clause of `Obligations.TraceAndTools`. -/
theorem hyps_trace_and_tools :
    (∃ (t : Nat) (s : State) (val : W32), (t < 1296) ∧ (s.traceOn = true) ∧ (s.typeOn 9 = true) ∧ (s.tagPasses (s.tile t).space = true) ∧ (val ≠
      s.talcy.cfg.trigVal) ∧ ((s.traceUnit (pierOf t)).stopped = false) ∧ (((s.traceUnit (pierOf t)).held.filter (·.tile == t)).length < 8)) ∧
    (∃ (t : Nat) (s : State) (val : W32), (t < 1296) ∧ (s.traceOn = true) ∧ (s.typeOn 9 = true) ∧ (s.tagPasses (s.tile t).space = true) ∧ (val =
      s.talcy.cfg.trigVal) ∧ (s.talcy.st = 1) ∧ (s.talcy.cfg.trig = 1)) ∧
    (∃ (t : Nat) (s : State), (t < 1296) ∧ (s.traceOn = false)) ∧
    (∃ (t : Nat) (s : State), (t < 1296) ∧ (s.talcy.st = 1) ∧ (s.talcy.cfg.trig = 8)) ∧
    (∃ (t : Nat) (s : State), (t < 1296) ∧ (s.talcy.st ≠ 1 ∨ s.talcy.cfg.trig ≠ 8)) ∧
    (∃ (t : Nat) (s : State) (p : Nat), (t < 1296) ∧ (p < 4) ∧ (s.talcy.st = 2) ∧ ((s.traceUnit p).left = some 0) ∧ ((s.traceUnit p).stopped =
      false)) ∧
    (∃ (t : Nat) (s : State), (t < 1296) ∧ ((s.tile t).st = TileSt.run) ∧ (s.talcy.cfg.pcLog2 ≠ 0) ∧ (s.traceOn = true) ∧ (s.typeOn 8 = true) ∧
      (s.tagPasses (s.tile t).space = true) ∧ ((s.traceUnit (pierOf t)).stopped = false) ∧ (((s.traceUnit (pierOf t)).held.filter (·.tile == t)).length < 8)) ∧
    (∃ (t : Nat) (s : State), (t < 1296) ∧ ((s.tile t).st ≠ TileSt.run)) ∧
    (∃ (t : Nat) (s : State) (n : Nat), (t < 1296) ∧ (n < 4) ∧ (n ∈ (s.tile t).thrDue)) ∧
    (∃ (t : Nat) (s : State) (n : Nat), (t < 1296) ∧ (n < 4) ∧ (n ∉ (s.tile t).thrDue)) ∧
    (∃ (r : Req) (p : Picked) (s : State) (cfg : TraceCfg), (Ready r 1795 p s) ∧ (traceBad cfg = false) ∧ (s.traceOn = false)) ∧
    (∃ (r : Req) (p : Picked) (s : State) (cfg : TraceCfg), (Ready r 1795 p s) ∧ (traceBad cfg = false) ∧ (s.traceOn = true)) ∧
    (∃ (r : Req) (p : Picked) (s : State), (Ready r 1796 p s) ∧ (s.traceOn = false)) ∧
    (∃ (r : Req) (p : Picked) (s : State), (Ready r 1796 p s) ∧ (s.traceOn = true)) ∧
    (∃ (r : Req) (p : Picked) (s : State), (Ready r 1797 p s)) ∧
    (∃ (r : Req) (p : Picked) (s : State) (set : Nat) (idx : Nat) (tick : W64), (Ready r 1793 p s) ∧ (idx < snapIndices set) ∧ (BitVec.toNat
      s.tick.num < BitVec.toNat tick) ∧ (BitVec.toNat tick ≤ BitVec.toNat s.tick.num + 900)) ∧
    (∃ (r : Req) (p : Picked) (s : State) (tick : W64), (Ready r 1794 p s) ∧ (BitVec.toNat s.tick.num < BitVec.toNat tick)) ∧
    (∃ (r : Req) (p : Picked) (s : State) (count : Nat), (Ready r 1798 p s) ∧ (count ≤ 2047)) :=
  ⟨
    ⟨1295, trc State.reset { st := 1, cfg := tcfg 0x0200 0 0xFFFFFFFF, units := unit6 } {}, 5, by decide +kernel⟩,
    ⟨1295, trc State.reset { st := 1, cfg := { tcfg 0x0200 0 0xFFFFFFFF with trig := 1 }, units := unit6 } {}, 0xFFFFFFFF, by decide +kernel⟩,
    ⟨1295, trc State.reset {} {}, by decide +kernel⟩,
    ⟨1295, trc State.reset { st := 1, cfg := tcfg 0x0200 0 0xFFFFFFFF, units := unit6 } {}, by decide +kernel⟩,
    ⟨1295, trc State.reset { st := 2, cfg := tcfg 0x0200 0 0xFFFFFFFF, units := unit6 } {}, by decide +kernel⟩,
    ⟨1295, talcy6 State.reset { st := 2, units := [(3, { stopped := false, left := some 0, queue := [{ typ := 9 }] })] }, 3, by decide +kernel⟩,
    ⟨1295, trc State.reset { st := 1, cfg := tcfg 0x0300 10 0xFFFFFFFF, units := unit6 } { core := { inHandler := true, pc := 64 } },
      by decide +kernel⟩,
    ⟨1295, State.reset.setTile 1295 {}, by decide +kernel⟩,
    ⟨1295, trc State.reset { st := 1, cfg := { tcfg 0x0300 10 0xFFFFFFFF with trig := 4 }, units := unit6 } { thrDue := [3] }, 3,
      by decide +kernel⟩,
    ⟨1295, trc State.reset { st := 1, cfg := tcfg 0x0300 10 0xFFFFFFFF, units := unit6 } { thrDue := [2] }, 3, by decide +kernel⟩,
    ⟨req6, pk6 0x0703, talcy6 (rd6 State.reset 0x0703) { st := 3 }, tcfg 0x8FFE 24 3, by decide +kernel⟩,
    ⟨req6, pk6 0x0703, talcy6 (rd6 State.reset 0x0703) { st := 2 }, tcfg 0x8FFE 24 3, by decide +kernel⟩,
    ⟨req6, pk6 0x0704, talcy6 (rd6 State.reset 0x0704) { st := 3 }, by decide +kernel⟩,
    ⟨req6, pk6 0x0704, talcy6 (rd6 State.reset 0x0704) { st := 2 }, by decide +kernel⟩,
    ⟨req6, pk6 0x0705, talcy6 (rd6 State.reset 0x0705) { st := 2 }, by decide +kernel⟩,
    ⟨req6, pk6 0x0701, tick6 (rd6 State.reset 0x0701) 300, 3, 15, 1200, by decide +kernel⟩,
    ⟨req6, pk6 0x0702, tick6 (rd6 State.reset 0x0702) 300, 301, by decide +kernel⟩,
    ⟨req6, pk6 0x0706, rd6 State.reset 0x0706, 2047, by decide +kernel⟩⟩

/-- States and operands that meet the hypotheses of each clause of `Obligations.CountersAndFreezes`. -/
theorem hyps_counters_and_freezes :
    (∃ (s : State) (i : Nat) (t : Nat), (t < 1296) ∧ (i < 16) ∧ ((s.tile t).space < 4096)) ∧
    (∃ (i : Nat) (base : Nat) (hi : Nat), (counterBlock base = true) ∧ (hi < 2) ∧ (i < 32)) ∧
    (∃ (a : Nat), (a < 70373039144960) ∧ (counterBlock (a - a % 65536) = false)) ∧
    (∃ (s : State) (port : Nat) (tick : W64) (origin : Nat) (thaw : Bool), (port < 48) ∧ (s.power.idle = Idle.s0) ∧ (2 ≤ (s.port port).st) ∧
      (s.ctrs.seen.contains (BitVec.toNat tick, origin, thaw) = true)) ∧
    (∃ (s : State) (port : Nat) (tick : W64) (origin : Nat) (thaw : Bool), (port < 48) ∧ (s.power.idle = Idle.s0) ∧ (2 ≤ (s.port port).st) ∧
      (s.ctrs.seen.contains (BitVec.toNat tick, origin, thaw) = false)) :=
  ⟨
    ⟨State.reset.setTile 1295 {}, 15, 1295, by decide +kernel⟩,
    ⟨0, 0x400002FF0000, 1, by decide +kernel⟩,
    ⟨0x400000611FF4, by decide +kernel⟩,
    ⟨{ port6 State.reset with ctrs := { seen := [(300, 5, true)] } }, 47, 300, 5, true, by decide +kernel⟩,
    ⟨tick6 { port6 State.reset with ctrs := { seen := [(300, 5, false)] } } 300, 47, 300, 5, true, by decide +kernel⟩⟩

/-- States and operands that meet the hypotheses of each clause of `Obligations.PowerCommands`. -/
theorem hyps_power_commands :
    (∃ (r : Req) (p : Picked) (s : State) (cap : Nat) (window : Nat), (Ready r 1537 p s) ∧ (cap ≤ 5600) ∧ (window = 0 ∨ 100 ≤ window ∧ window ≤
      10000) ∧ (s.power.floor ≤ if cap = 0 then 5600 else cap)) ∧
    (∃ (r : Req) (p : Picked) (s : State) (cap : Nat) (window : Nat), (Ready r 1537 p s) ∧ (cap ≤ 5600) ∧ (window = 0 ∨ 100 ≤ window ∧ window ≤
      10000) ∧ ((if cap = 0 then 5600 else cap) < s.power.floor)) ∧
    (∃ (r : Req) (p : Picked) (s : State) (cap : Nat) (window : Nat), (Ready r 1537 p s) ∧ (5600 < cap) ∧ (cap < 2 ^ 32) ∧ (window < 2 ^ 32)) ∧
    (∃ (r : Req) (p : Picked) (s : State) (decks : List (Nat × Nat)) (clusters : List Nat), (Ready r 1541 p s) ∧ (decks.length = 12) ∧
      (clusters.length = Config.clusters) ∧ (∀ d ∈ decks, d.1 % 50 = 0 ∧ 900 ≤ d.1 ∧ d.1 ≤ d.2 ∧ d.2 % 50 = 0 ∧ d.2 ≤ 2000) ∧ (∀ c ∈ clusters, c
      = 0 ∨ c % 100 = 0 ∧ 800 ≤ c ∧ c ≤ 3200)) ∧
    (∃ (r : Req) (p : Picked) (s : State), (Ready r 1542 p s)) ∧
    (∃ (r : Req) (p : Picked) (s : State) (die : Nat), (s.op (handleOf r.client r.slot p.seq) = none) ∧ (die < Config.abutments) ∧ (Ready r 1539
      p s)) ∧
    (∃ (r : Req) (p : Picked) (s : State) (die : Nat), (s.op (handleOf r.client r.slot p.seq) = none) ∧ (die < Config.abutments) ∧ (Ready r 1540
      p s)) ∧
    (∃ (r : Req) (p : Picked) (s : State), (Ready r 1538 p s) ∧ (s.idleOk = true)) ∧
    (∃ (r : Req) (p : Picked) (s : State), (Ready r 1538 p s) ∧ (s.idleOk = false)) ∧
    (∃ (s : State), (BitVec.getLsbD s.power.wakeCtl 30 = true) ∧ (s.power.idle = Idle.s1)) ∧
    (∃ (s : State), (BitVec.getLsbD s.power.wakeCtl 30 = true) ∧ (s.power.idle = Idle.s2)) ∧
    (∃ (s : State), (BitVec.getLsbD s.power.wakeCtl 30 = true) ∧ (s.power.idle = Idle.s3)) ∧
    (∃ (s : State), (s.power.idle = Idle.s4) ∧ (s.power.tripS4 = false) ∧ ((s.belul.ops.any fun (o : LongOp) => o.client == 2 && o.opcode ==
      1538) = true)) ∧
    (∃ (s : State) (src : Nat), (s.power.idle = Idle.s0) ∧ (src < 4)) :=
  ⟨
    ⟨req6, pk6 0x0601, pw6 (rd6 State.reset 0x0601) fun w => { w with floor := 5600 }, 0, 10000, by decide +kernel⟩,
    ⟨req6, pk6 0x0601, pw6 (rd6 State.reset 0x0601) fun w => { w with floor := 2 }, 1, 100, by decide +kernel⟩,
    ⟨req6, pk6 0x0601, rd6 State.reset 0x0601, 5601, 100, by decide +kernel⟩,
    ⟨req6, pk6 0x0605, rd6 State.reset 0x0605, List.replicate 12 (900, 2000), List.replicate 24 3200, by decide +kernel⟩,
    ⟨req6, pk6 0x0606, rd6 State.reset 0x0606, by decide +kernel⟩,
    ⟨req6, pk6 0x0603, rd6 (host6 (free6 State.reset)) 0x0603, 1, by decide +kernel⟩,
    ⟨req6, pk6 0x0604, rd6 (free6 State.reset) 0x0604, 1, by decide +kernel⟩,
    ⟨req6, pk6 0x0602, rd6 (free6 (host6 State.reset)) 0x0602, by decide +kernel⟩,
    ⟨req6, pk6 0x0602, { rd6 (free6 State.reset) 0x0602 with job := { st := .armed } }, by decide +kernel⟩,
    ⟨idle6 State.reset .s1, by decide +kernel⟩,
    ⟨idle6 State.reset .s2, by decide +kernel⟩,
    ⟨idle6 State.reset .s3, by decide +kernel⟩,
    ⟨{ pw6 State.reset fun w => { w with idle := .s4, tripS4 := false } with belul := { ops := [⟨9, 2, 31, 0x0602, 7, 0, 1, [], none⟩] } },
      by decide +kernel⟩,
    ⟨live State.reset, 3, by decide +kernel⟩⟩

/-- States and operands that meet the hypotheses of each clause of `Obligations.PowerEvents`. -/
theorem hyps_power_events :
    (∃ (s : State), (s.alive = true) ∧ (s.power.managed = true) ∧ (s.tick.running = true) ∧ (BitVec.toNat s.tick.num % 100 = 0) ∧
      (s.power.floorBound = false)) ∧
    (∃ (s : State), (s.alive = true) ∧ (s.power.managed = false ∨ s.tick.running = false ∨ BitVec.toNat s.tick.num % 100 ≠ 0 ∨ s.power.floorBound
      = true)) ∧
    (∃ (s : State) (measured : Nat) (die : Nat), (s.alive = true) ∧ (s.tick.running = true) ∧ (BitVec.toNat s.tick.num % 1000 = 0) ∧ (measured <
      65536) ∧ (okDie die = true)) ∧
    (∃ (s : State), (s.alive = true) ∧ (s.power.gainsFrozen = false)) ∧
    (∃ (s : State) (volt : Nat), (s.alive = true) ∧ (s.power.clamp = false) ∧ (volt < 420)) ∧
    (∃ (s : State) (volt : Nat), (s.alive = true) ∧ (420 ≤ volt)) ∧
    (∃ (s : State) (minv : Nat), (s.alive = true) ∧ (s.power.clamp = true) ∧ (minv < 1024)) ∧
    (∃ (s : State) (temp : Int), (s.boot.stby = true) ∧ (temp < 168)) ∧
    (∃ (s : State) (temp : Int), (s.boot.stby = true) ∧ (180 ≤ temp) ∧ (s.alive = true) ∧ ((s.sensor inletSensor).st = 0)) ∧
    (∃ (s : State) (i : Nat), (s.boot.stby = true) ∧ (s.power.managed = false) ∧ (i < 18)) ∧
    (∃ (s : State) (temp : Int) (d : Nat), (s.boot.stby = true) ∧ (s.power.managed = true) ∧ (d < 12) ∧ (400 ≤ temp) ∧ (temp < 428)) ∧
    (∃ (s : State) (temp : Int) (d : Nat), (s.boot.stby = true) ∧ (s.power.managed = true) ∧ (d < 12) ∧ (440 ≤ temp)) ∧
    (∃ (s : State) (st : Nat), (s.boot.stby = true) ∧ (s.tick.running = true) ∧ (s.power.idle = Idle.s0) ∧ (st < Config.hbmStacks) ∧ ((s.sensor
      (20 + st)).act = 0)) ∧
    (∃ (s : State) (temp : Int) (i : Nat), (s.boot.stby = true) ∧ (s.power.idle ≠ Idle.s4) ∧ (i < 18 ∨ 20 ≤ i ∧ i < 36) ∧ ((thermLimits i).2.2 ≤
      temp)) ∧
    (∃ (s : State) (p : Nat), (s.boot.stby = true) ∧ (s.alive = true) ∧ (p < 4) ∧ ((s.pier p).localMode = true)) ∧
    (∃ (s : State) (p : Nat), (s.boot.stby = true) ∧ (s.alive = true) ∧ (p < 4) ∧ (s.power.managed = true)) :=
  ⟨
    ⟨dv State.reset, by decide +kernel⟩,
    ⟨{ dv State.reset with tick := { State.reset.tick with running := true, num := 301 } }, by decide +kernel⟩,
    ⟨{ live State.reset with tick := { State.reset.tick with running := true, num := 1000 }, power := { (live State.reset).power with cap := 5600, gainsFrozen := false, gains := [] } },
      5722, 25, by decide +kernel⟩,
    ⟨pw6 (live State.reset) fun w => { w with gainsFrozen := false }, by decide +kernel⟩,
    ⟨pw6 (live (tiles6 State.reset)) fun w => { w with clamp := false }, 419, by decide +kernel⟩,
    ⟨live State.reset, 420, by decide +kernel⟩,
    ⟨pw6 (live State.reset) fun w => { w with clamp := true, droops := 0xFFFF }, 1023, by decide +kernel⟩,
    ⟨live State.reset, 167, by decide +kernel⟩,
    ⟨pw6 (live State.reset) fun w => { w with sensors := [] }, 180, by decide +kernel⟩,
    ⟨pw6 (live State.reset) fun w => { w with managed := false }, 17, by decide +kernel⟩,
    ⟨pw6 (live State.reset) fun w => { w with managed := true }, 400, 11, by decide +kernel⟩,
    ⟨pw6 (live State.reset) fun w => { w with managed := true }, 440, 11, by decide +kernel⟩,
    ⟨pw6 (live State.reset) fun w => { w with sensors := [] }, 15, by decide +kernel⟩,
    ⟨live State.reset, 440, 35, by decide +kernel⟩,
    ⟨{ live State.reset with piers := [(3, { localMode := true })] }, 3, by decide +kernel⟩,
    ⟨{ pw6 (live State.reset) fun w => { w with managed := true } with piers := [(0, { localMode := false }), (3, { localMode := false })] }, 3,
      by decide +kernel⟩⟩

/-- States and operands that meet the hypotheses of each clause of `Obligations.ModuleResets`. -/
theorem hyps_module_resets :
    (∃ (s : State), (s.boot.stby = true)) ∧
    (∃ (n : Nat) (s : State), (n < 5) ∧ (s.boot.st = BootSt.running) ∧ (s.alive = true) ∧ (s.boot.failStreak ≠ 2)) ∧
    (∃ (n : Nat) (s : State), (n < 5) ∧ (s.boot.st = BootSt.running) ∧ (s.alive = true) ∧ (s.boot.failStreak = 2)) ∧
    (∃ (i : StartIn) (s : State), (i.features.length = 16 + Config.abutments) ∧ (i.revs.length = 16 + Config.abutments) ∧ (i.image.length ≤
      imageRegion) ∧ (i.memRate < 3) ∧ (s.alive = true) ∧ (s.boot.st = BootSt.rom) ∧ (i.failStep = none)) ∧
    (∃ (i : StartIn) (s : State) (n : Nat), (i.features.length = 16 + Config.abutments) ∧ (i.revs.length = 16 + Config.abutments) ∧
      (i.image.length ≤ imageRegion) ∧ (i.memRate < 3) ∧ (s.alive = true) ∧ (s.boot.st = BootSt.rom) ∧ (i.qualified = true) ∧ (5 ≤ n) ∧ (n ≤ 10)
      ∧ (i.failStep = some n)) ∧
    (∃ (i : StartIn) (s : State), (i.features.length = 16 + Config.abutments) ∧ (i.revs.length = 16 + Config.abutments) ∧ (i.image.length ≤
      imageRegion) ∧ (i.memRate < 3) ∧ (s.boot.st ≠ BootSt.rom ∨ s.alive = false) ∧ (i.failStep = none)) :=
  ⟨
    ⟨live State.reset, by decide +kernel⟩,
    ⟨4, boot6 (live State.reset) fun b => { b with failStreak := 1 }, by decide +kernel⟩,
    ⟨4, boot6 (live State.reset) fun b => { b with failStreak := 2 }, by decide +kernel⟩,
    ⟨startIn, rom6 State.reset 0, by decide +kernel⟩,
    ⟨{ startIn with qualified := true, failStep := some 10 }, rom6 State.reset 2, 10, by decide +kernel⟩,
    ⟨startIn, live State.reset, by decide +kernel⟩⟩

/-- States and operands that meet the hypotheses of each clause of `Obligations.DieResets`. -/
theorem hyps_die_resets :
    (∃ (s : State) (n : Nat), (s.boot.st = BootSt.running) ∧ (s.power.idle = Idle.s0) ∧ (n < 12) ∧ (∀ m ∈ s.wear.moving, m.scope ≠ n) ∧
      (∀ e ∈ s.tiles, e.2.load = none) ∧ (s.tiles ≠ [])) ∧
    (∃ (s : State) (n : Nat) (m : Need), (s.boot.st = BootSt.running) ∧ (s.power.idle = Idle.s0) ∧ (n < 12) ∧ (s.wear.moving = [m]) ∧ (m.scope = n) ∧
      (s.wear.queue.any (sameNeed m) = false) ∧ (s.sparesLeft m.kind n ≠ 0)) ∧
    (∃ (s : State) (a : Nat), (s.boot.st = BootSt.running) ∧ (s.power.idle = Idle.s0) ∧ (1 ≤ a) ∧ (a < Config.abutments)) :=
  ⟨
    ⟨tiles6 (live State.reset), 11, by decide +kernel⟩,
    ⟨{ tiles6 (live State.reset) with wear := { moving := [⟨1, 11, 1295, true⟩] } }, 11, ⟨1, 11, 1295, true⟩, by decide +kernel⟩,
    ⟨host6 (live State.reset), 1, by decide +kernel⟩⟩

/-- States and operands that meet the hypotheses of each clause of `Obligations.RecordsAndFirmware`. -/
theorem hyps_records_and_firmware :
    (∃ (s : State), (7340032 < 4096 + s.boot.recUsed)) ∧
    (∃ (s : State), (4096 + s.boot.recUsed ≤ 7340032)) ∧
    (∃ (r : Req) (p : Picked) (s : State) (kind : Nat) (first : Nat), (Ready r 2309 p s) ∧ (kind < 256) ∧ (first < 2 ^ 32)) ∧
    (∃ (r : Req) (p : Picked) (s : State), (Ready r 2305 p s) ∧ (s.boot.st ≠ BootSt.recovery)) ∧
    (∃ (r : Req) (p : Picked) (s : State), (Ready r 2305 p s) ∧ (s.boot.st = BootSt.recovery)) ∧
    (∃ (r : Req) (p : Picked) (s : State) (off : Nat), (off < 2 ^ 32) ∧ (Ready r 2561 p s)) ∧
    (∃ (r : Req) (p : Picked) (s : State) (off : Nat), (off < 2 ^ 32) ∧ (Ready r 2563 p s)) ∧
    (∃ (r : Req) (p : Picked) (s : State), (Ready r 2562 p s)) ∧
    (∃ (r : Req) (p : Picked) (s : State) (src : ImgSrc), (Ready r 2306 p s) ∧ (wellFormed (.fwUpdate r src) = true) ∧ (badImageAddr src = false) ∧
      (imageLen src ≤ imageRegion) ∧ (s.boot.update = none)) ∧
    (∃ (s : State) (o : LongOp) (img : List Byte), (s.op o.handle = some o) ∧ (s.boot.update = some (o.handle, img))) ∧
    (∃ (r : Req) (p : Picked) (s : State) (piece : List Byte) (off : Nat), (Ready r 2307 p s) ∧ (s.boot.st = BootSt.recovery) ∧ (piece.length ≤
      4096) ∧ (s.boot.update = none) ∧ (off < 2 ^ 32) ∧ (∀ (x : Nat × List Byte), s.boot.session = some x → x.1 = r.client) ∧ (off ≠ 0 →
      Option.map (fun (x : Nat × List Byte) => x.2.length) s.boot.session = some off)) ∧
    (∃ (r : Req) (p : Picked) (s : State), (Ready r 2308 p s) ∧ (s.job.st ≠ JobSt.run)) ∧
    (∃ (r : Req) (p : Picked) (s : State), (Ready r 2308 p s) ∧ (s.job.st = JobSt.run)) :=
  ⟨
    ⟨boot6 State.reset fun b => { b with recs := recs6, recUsed := 7335937 }, by decide +kernel⟩,
    ⟨boot6 State.reset fun b => { b with recs := recs6, recUsed := 7335936 }, by decide +kernel⟩,
    ⟨req6, pk6 0x0905, boot6 (rd6 State.reset 0x0905) fun b => { b with recs := recs6, recUsed := 7335937 }, 2, 1, by decide +kernel⟩,
    ⟨req6, pk6 0x0901, boot6 (rd6 State.reset 0x0901) fun b => { b with st := .running }, by decide +kernel⟩,
    ⟨req6, pk6 0x0901, boot6 (rd6 State.reset 0x0901) fun b => { b with st := .recovery }, by decide +kernel⟩,
    ⟨req6, pk6 0x0A01, rd6 State.reset 0x0A01, 2 ^ 32 - 1, by decide +kernel⟩,
    ⟨req6, pk6 0x0A03, boot6 (rd6 State.reset 0x0A03) fun b => { b with mlog := [⟨0, 1, 5, [1, 2]⟩] }, 3, by decide +kernel⟩,
    ⟨req6, pk6 0x0A02, boot6 (rd6 State.reset 0x0A02) fun b => { b with mlog := [⟨0, 1, 5, [1, 2]⟩] }, by decide +kernel⟩,
    ⟨req6, pk6 0x0902, boot6 (rd6 State.reset 0x0902) fun b => { b with update := none }, srcOf6, by decide +kernel⟩,
    ⟨upd6 State.reset, o6, [1, 2], by decide +kernel⟩,
    ⟨req6, pk6 0x0903, rec9 State.reset 0x0903 none, [1, 2], 0, by decide +kernel⟩,
    ⟨req6, pk6 0x0904, { rd6 State.reset 0x0904 with job := {} }, by decide +kernel⟩,
    ⟨req6, pk6 0x0904, { rd6 State.reset 0x0904 with job := { st := .run } }, by decide +kernel⟩⟩

/-- States and operands that meet the hypotheses of each clause of `Obligations.WearManagement`. -/
theorem hyps_wear_management :
    (∃ (s : State) (x : Sweep), (s.boot.st = BootSt.running) ∧ (s.power.idle = Idle.s0) ∧ (s.tick.running = true) ∧ (s.tick.num.toNat % 1000000 = 0) ∧
      (s.wear.swept < s.tick.boundaries) ∧ (∀ t ∈ x.tiles, t < 1296 ∧ t ∉ s.wear.low) ∧ (x.lanes = []) ∧ (x.lasers = []) ∧ (x.tiles ≠ [])) ∧
    (∃ (s : State) (t : Nat), (s.boot.st = BootSt.running) ∧ (s.power.idle = Idle.s0) ∧ (s.tick.running = true) ∧ (s.tick.num.toNat % 1000000 = 0) ∧
      (s.wear.swept < s.tick.boundaries) ∧ (t < 1296) ∧ (t ∈ s.wear.low) ∧ (s.sparesLeft 1 (deckOf t) ≠ 0) ∧
      (s.wear.queue.any (sameNeed ⟨1, deckOf t, t, false⟩) = false) ∧ (s.wear.hold = false)) ∧
    (∃ (s : State) (x : Sweep), (s.boot.st = BootSt.running) ∧ (s.power.idle = Idle.s0) ∧ (∀ t ∈ x.tiles, t < 1296) ∧ (x.lanes = []) ∧ (x.lasers = []) ∧
      (s.tick.num.toNat % 1000000 ≠ 0 ∨ s.tick.boundaries ≤ s.wear.swept)) ∧
    (∃ (s : State) (n : Need) (x : Need) (b : Nat), (s.boot.st = BootSt.running) ∧ (s.power.idle = Idle.s0) ∧ (okNeed n = true) ∧ (List.find?
      (sameNeed n) s.wear.queue = some x) ∧ (List.find? (fun (e : Nat × Need) => sameNeed x e.2) s.wear.since = some (b, x)) ∧ (s.tick.boundaries
      ≤ b)) ∧
    (∃ (s : State) (n : Need) (x : Need) (b : Nat), (s.boot.st = BootSt.running) ∧ (s.power.idle = Idle.s0) ∧ (okNeed n = true) ∧ (List.find?
      (sameNeed n) s.wear.queue = some x) ∧ (List.find? (fun (e : Nat × Need) => sameNeed x e.2) s.wear.since = some (b, x)) ∧ (s.wear.hold =
      true) ∧ (x.urgent = false)) ∧
    (∃ (s : State) (n : Need) (x : Need) (b : Nat), (s.boot.st = BootSt.running) ∧ (s.power.idle = Idle.s0) ∧ (okNeed n = true) ∧ (List.find?
      (sameNeed n) s.wear.queue = some x) ∧ (List.find? (fun (e : Nat × Need) => sameNeed x e.2) s.wear.since = some (b, x)) ∧ (b <
      s.tick.boundaries) ∧ (s.job.st ≠ JobSt.run) ∧ (s.wear.hold = false ∨ x.urgent = true) ∧ (retrainsNeed x = true ∨ s.sparesLeft x.kind
      x.scope ≠ 0) ∧ (x.kind = 1) ∧ (∃ m ∈ s.wear.moving, m.scope = x.scope)) ∧
    (∃ (s : State) (n : Need) (x : Need) (b : Nat), (s.boot.st = BootSt.running) ∧ (s.power.idle = Idle.s0) ∧ (okNeed n = true) ∧ (List.find?
      (sameNeed n) s.wear.queue = some x) ∧ (List.find? (fun (e : Nat × Need) => sameNeed x e.2) s.wear.since = some (b, x)) ∧ (b <
      s.tick.boundaries) ∧ (s.job.st ≠ JobSt.run) ∧ (s.wear.hold = false ∨ x.urgent = true) ∧ (retrainsNeed x = true ∨ s.sparesLeft x.kind
      x.scope ≠ 0) ∧ (x.kind = 1) ∧ (∀ m ∈ s.wear.moving, m.scope ≠ x.scope) ∧ ((s.tile x.res).st = TileSt.run)) ∧
    (∃ (s : State) (n : Need) (x : Need) (b : Nat), (s.boot.st = BootSt.running) ∧ (s.power.idle = Idle.s0) ∧ (okNeed n = true) ∧ (List.find?
      (sameNeed n) s.wear.queue = some x) ∧ (List.find? (fun (e : Nat × Need) => sameNeed x e.2) s.wear.since = some (b, x)) ∧ (b <
      s.tick.boundaries) ∧ (s.job.st ≠ JobSt.run) ∧ (s.wear.hold = false ∨ x.urgent = true) ∧ (retrainsNeed x = true ∨ s.sparesLeft x.kind
      x.scope ≠ 0) ∧ (x.kind = 1) ∧ (∀ m ∈ s.wear.moving, m.scope ≠ x.scope) ∧ ((s.tile x.res).st ≠ TileSt.run) ∧
      ((s.tile x.res).st ≠ TileSt.reset) ∧ ((s.tile x.res).st ≠ TileSt.unavailable) ∧ ((s.tile x.res).storeErr = [])) ∧
    (∃ (s : State) (n : Need) (x : Need) (b : Nat), (s.boot.st = BootSt.running) ∧ (s.power.idle = Idle.s0) ∧ (okNeed n = true) ∧ (List.find?
      (sameNeed n) s.wear.queue = some x) ∧ (List.find? (fun (e : Nat × Need) => sameNeed x e.2) s.wear.since = some (b, x)) ∧ (b <
      s.tick.boundaries) ∧ (s.job.st ≠ JobSt.run) ∧ (s.wear.hold = false ∨ x.urgent = true) ∧ (retrainsNeed x = true ∨ s.sparesLeft x.kind
      x.scope ≠ 0) ∧ (x.kind = 2) ∧ (x.res < 68)) ∧
    (∃ (s : State) (n : Need) (x : Need) (b : Nat), (s.boot.st = BootSt.running) ∧ (s.power.idle = Idle.s0) ∧ (okNeed n = true) ∧ (List.find?
      (sameNeed n) s.wear.queue = some x) ∧ (List.find? (fun (e : Nat × Need) => sameNeed x e.2) s.wear.since = some (b, x)) ∧ (b <
      s.tick.boundaries) ∧ (s.job.st ≠ JobSt.run) ∧ (s.wear.hold = false ∨ x.urgent = true) ∧ (retrainsNeed x = true ∨ s.sparesLeft x.kind
      x.scope ≠ 0) ∧ (x.kind = 3)) ∧
    (∃ (s : State) (n : Need) (x : Need) (b : Nat), (s.boot.st = BootSt.running) ∧ (s.power.idle = Idle.s0) ∧ (okNeed n = true) ∧ (List.find?
      (sameNeed n) s.wear.queue = some x) ∧ (List.find? (fun (e : Nat × Need) => sameNeed x e.2) s.wear.since = some (b, x)) ∧ (b <
      s.tick.boundaries) ∧ (s.job.st ≠ JobSt.run) ∧ (s.wear.hold = false ∨ x.urgent = true) ∧ (retrainsNeed x = true ∨ s.sparesLeft x.kind
      x.scope ≠ 0) ∧ (x.kind = 4)) ∧
    (∃ (s : State) (n : Need) (x : Need) (b : Nat), (s.boot.st = BootSt.running) ∧ (s.power.idle = Idle.s0) ∧ (okNeed n = true) ∧ (List.find?
      (sameNeed n) s.wear.queue = some x) ∧ (List.find? (fun (e : Nat × Need) => sameNeed x e.2) s.wear.since = some (b, x)) ∧ (b <
      s.tick.boundaries) ∧ (s.job.st ≠ JobSt.run) ∧ (s.wear.hold = false ∨ x.urgent = true) ∧ (retrainsNeed x = true ∨ s.sparesLeft x.kind
      x.scope ≠ 0) ∧ (x.kind = 5)) ∧
    (∃ (s : State) (n : Need) (x : Need) (b : Nat), (s.boot.st = BootSt.running) ∧ (s.power.idle = Idle.s0) ∧ (okNeed n = true) ∧ (List.find?
      (sameNeed n) s.wear.queue = some x) ∧ (List.find? (fun (e : Nat × Need) => sameNeed x e.2) s.wear.since = some (b, x)) ∧ (b <
      s.tick.boundaries) ∧ (s.job.st ≠ JobSt.run) ∧ (s.wear.hold = false ∨ x.urgent = true) ∧ (retrainsNeed x = true ∨ s.sparesLeft x.kind
      x.scope ≠ 0) ∧ (x.kind = 6)) ∧
    (∃ (s : State) (n : Need), (s.boot.st = BootSt.running) ∧ (s.power.idle = Idle.s0) ∧ (okNeed n = true) ∧ (List.find? (sameNeed n)
      s.wear.queue = none)) ∧
    (∃ (s : State) (a : Nat) (c : Nat), (s.boot.st = BootSt.running) ∧ (s.power.idle = Idle.s0) ∧ (a < Config.abutments) ∧ (c < 12) ∧ ((s.cluster
      (12 * a + c)).failed = false) ∧ ((s.cluster (12 * a + c)).errors = [])) ∧
    (∃ (s : State) (a : Nat) (c : Nat) (b : Nat), (s.boot.st = BootSt.running) ∧ (s.power.idle = Idle.s0) ∧ (a < Config.abutments) ∧ (c < 12) ∧
      ((s.cluster (12 * a + c)).failed = false) ∧ ((s.cluster (12 * a + c)).errors = [b]) ∧ (s.tick.boundaries < b + 86400000000)) :=
  ⟨
    ⟨sweep6 {}, { tiles := [0, 1295], lanes := [], lasers := [] }, by decide +kernel⟩,
    ⟨sweep6 { low := [1295] }, 1295, by decide +kernel⟩,
    ⟨wear6 State.reset { low := [1295] }, { tiles := [1295], lanes := [], lasers := [] }, by decide +kernel⟩,
    ⟨{ wear9 State.reset need5 with tick := { State.reset.tick with boundaries := 8 } }, need5, need5, 8, by decide +kernel⟩,
    ⟨{ wear9 State.reset need5 with wear := { hold := true, queue := [{ need5 with urgent := false }], since := [(8, { need5 with urgent := false })] } },
      need5, { need5 with urgent := false }, 8, by decide +kernel⟩,
    ⟨(wear9 State.reset ⟨1, 11, 1295, true⟩).modWear fun w => { w with moving := [⟨1, 11, 1294, true⟩] }, ⟨1, 11, 1295, true⟩, ⟨1, 11, 1295, true⟩, 8, by decide +kernel⟩,
    ⟨(wear9 State.reset ⟨1, 11, 1295, true⟩).setTile 1295 { st := .run, core := coreR }, ⟨1, 11, 1295, true⟩, ⟨1, 11, 1295, true⟩, 8, by decide +kernel⟩,
    ⟨(wear9 State.reset ⟨1, 11, 1295, true⟩).setTile 1295 { st := .halted, core := coreR }, ⟨1, 11, 1295, true⟩, ⟨1, 11, 1295, true⟩, 8, by decide +kernel⟩,
    ⟨wear9 State.reset ⟨2, 527, 67, true⟩, ⟨2, 527, 67, true⟩, ⟨2, 527, 67, true⟩, 8, by decide +kernel⟩,
    ⟨wear9 State.reset ⟨3, 47, 8, true⟩, ⟨3, 47, 8, true⟩, ⟨3, 47, 8, true⟩, 8, by decide +kernel⟩,
    ⟨wear9 State.reset ⟨4, 3, 47, true⟩, ⟨4, 3, 47, true⟩, ⟨4, 3, 47, true⟩, 8, by decide +kernel⟩,
    ⟨wear9 State.reset need5, need5, need5, 8, by decide +kernel⟩,
    ⟨{ wear9 State.reset ⟨6, 3, 15, true⟩ with piers := [(3, { enable := 0xFFFF, powered := 0xFFFF })] }, ⟨6, 3, 15, true⟩, ⟨6, 3, 15, true⟩, 8,
      by decide +kernel⟩,
    ⟨wear6 State.reset {}, need5, by decide +kernel⟩,
    ⟨{ live State.reset with clusters := [] }, 1, 11, by decide +kernel⟩,
    ⟨{ live State.reset with clusters := [(23, { errors := [0] })], tick := { State.reset.tick with boundaries := 86399999999 } }, 1, 11, 0,
      by decide +kernel⟩⟩

/-- States and operands that meet the hypotheses of each clause of `Obligations.BelulCommits`. -/
theorem hyps_belul_commits :
    (∃ (c : Nat) (n : Nat) (word : W64) (s : State), (c < 3) ∧ (n < 32) ∧ (s.boot.stby = true) ∧ (BitVec.toNat word / 2 ^ 48 = 48668 ∧
      BitVec.toNat word / 2 ^ 32 % 2 ^ 16 = 0 ∧ BitVec.setWidth 32 word = if (s.slot c n).lastSeq = 4294967295#32 then 1 else (s.slot c
      n).lastSeq + 1) ∧ ((s.slot c n).busy = false)) ∧
    (∃ (c : Nat) (n : Nat) (s : State), (c < 3) ∧ (n < 32) ∧ (s.boot.stby = true) ∧ ((s.slot c n).busy = true)) ∧
    (∃ (c : Nat) (n : Nat) (word : W64) (s : State), (c < 3) ∧ (n < 32) ∧ (s.boot.stby = true) ∧ (¬(BitVec.toNat word / 2 ^ 48 = 48668 ∧
      BitVec.toNat word / 2 ^ 32 % 2 ^ 16 = 0 ∧ BitVec.setWidth 32 word = if (s.slot c n).lastSeq = 4294967295#32 then 1 else (s.slot c
      n).lastSeq + 1)) ∧ ((s.slot c n).busy = false)) :=
  ⟨
    ⟨2, 31, 0xBE1C000000000001, slot7 State.reset { lastSeq := 0xFFFFFFFF }, by decide +kernel⟩,
    ⟨2, 31,
      { slot7 State.reset { busy := true, lastSeq := 3 } with belul := { (slot7 State.reset { busy := true, lastSeq := 3 }).belul with overrun := [(2, 0xFFFF)] } },
      by decide +kernel⟩,
    ⟨2, 31, 0xBE1C000000000000, slot7 State.reset { lastSeq := 0xFFFFFFFF }, by decide +kernel⟩⟩

/-- States and operands that meet the hypotheses of each clause of `Obligations.PickupAndReply`. -/
theorem hyps_pickup_and_reply :
    (∃ (c : Nat) (n : Nat) (s : State), (c < 3) ∧ (n < 32) ∧ (pickStatus s c n = none)) ∧
    (∃ (c : Nat) (n : Nat) (s : State) (st : Nat), (c < 3) ∧ (n < 32) ∧ (pickStatus s c n = some st)) ∧
    (∃ (c : Nat) (n : Nat) (p : Picked) (d : List (Nat × Nat)) (c' : Nat) (n' : Nat), (c < 3) ∧ (n < 32) ∧ (p.irq = false) ∧ (dataLen d ≤ 216) ∧
      (slotKey c' n' ≠ slotKey c n)) ∧
    (∃ (r : Req) (op : Nat) (p : Picked) (s : State), (s.power.idle = Idle.s0) ∧ ((s.slot r.client r.slot).picked = some p) ∧ (p.opcode = op) ∧
      (p.ind = true) ∧ (r.poison = true)) ∧
    (∃ (r : Req) (op : Nat) (p : Picked) (s : State), (s.power.idle = Idle.s0) ∧ ((s.slot r.client r.slot).picked = some p) ∧ (p.opcode = op) ∧
      (p.ind = false ∨ r.poison = false) ∧ (r.rsv = true)) ∧
    (∃ (r : Req) (op : Nat) (bad : List (Bool × Nat)) (p : Picked) (s : State) (pre : List (Bool × Nat)) (st : Nat) (post : List (Bool × Nat)),
      (s.power.idle = Idle.s0) ∧ ((s.slot r.client r.slot).picked = some p) ∧ (p.opcode = op) ∧ (r.rsv = false) ∧ (r.poison = false) ∧ (bad = pre
      ++ (true, st) :: post) ∧ (st = 258 ∨ st = 260) ∧ (∀ x ∈ pre, x.1 = true → x.2 ≠ 258 ∧ x.2 ≠ 260)) ∧
    (∃ (r : Req) (op : Nat) (largest : Nat) (bad : List (Bool × Nat)) (p : Picked) (s : State), (s.power.idle = Idle.s0) ∧ ((s.slot r.client
      r.slot).picked = some p) ∧ (p.opcode = op) ∧ (r.rsv = false) ∧ (r.poison = false) ∧ (∀ x ∈ bad, x.1 = true → x.2 ≠ 258 ∧ x.2 ≠ 260) ∧ (216
      < largest ∧ (p.rlen < largest ∨ p.rptr = 0))) ∧
    (∃ (r : Req) (op : Nat) (largest : Nat) (bad : List (Bool × Nat)) (p : Picked) (s : State) (pre : List (Bool × Nat)) (st : Nat) (post : List
      (Bool × Nat)), (s.power.idle = Idle.s0) ∧ ((s.slot r.client r.slot).picked = some p) ∧ (p.opcode = op) ∧ (r.rsv = false) ∧ (r.poison =
      false) ∧ (∀ x ∈ bad, x.1 = true → x.2 ≠ 258 ∧ x.2 ≠ 260) ∧ (¬(216 < largest ∧ (p.rlen < largest ∨ p.rptr = 0))) ∧ (bad = pre ++ (true, st)
      :: post) ∧ (∀ x ∈ pre, x.1 = false) ∧ (st ≠ 262)) ∧
    (∃ (r : Req) (op : Nat) (largest : Nat) (bad : List (Bool × Nat)) (p : Picked) (s : State), (s.power.idle = Idle.s0) ∧ ((s.slot r.client
      r.slot).picked = some p) ∧ (p.opcode = op) ∧ (r.rsv = false) ∧ (r.poison = false) ∧ (∀ x ∈ bad, x.1 = false) ∧ (¬(216 < largest ∧ (p.rlen <
      largest ∨ p.rptr = 0)))) ∧
    (∃ (r : Req) (s : State), ((s.slot r.client r.slot).picked = none)) :=
  ⟨
    ⟨2, 31, head7 State.reset 0x01F0, by decide +kernel⟩,
    ⟨2, 31, head7 State.reset 0xFFFF, 0x0100, by decide +kernel⟩,
    ⟨2, 31, pk7 3, List.replicate 27 (8, 5), 2, 30, by decide +kernel⟩,
    ⟨{ req7 with poison := true, rsv := true }, 3, { pk7 3 with ind := true }, (rd7 0 State.reset 3).modSlot 0 31 fun x =>
      { x with picked := some { pk7 3 with ind := true } }, by decide +kernel⟩,
    ⟨{ req7 with poison := true, rsv := true }, 3, pk7 3, rd7 0 State.reset 3, by decide +kernel⟩,
    ⟨req7, 3, [(false, 9), (true, 0x107), (true, 0x102), (true, 0x104)], pk7 3, rd7 0 State.reset 3, [(false, 9), (true, 0x107)], 0x102, [(true,
      0x104)], by decide +kernel⟩,
    ⟨req7, 3, 217, [(true, 0x107)], pk7 3, rd7 0 State.reset 3, by decide +kernel⟩,
    ⟨req7, 3, 216, [(false, 9), (true, 0x107), (true, 9)], pk7 3, rd7 0 State.reset 3, [(false, 9)], 0x107, [(true, 9)], by decide +kernel⟩,
    ⟨req7, 3, 216, [(false, 9)], pk7 3, rd7 0 State.reset 3, by decide +kernel⟩,
    ⟨req7, boot7 State.reset, by decide +kernel⟩⟩

/-- States and operands that meet the hypotheses of each clause of `Obligations.I3cTransfers`. -/
theorem hyps_i3c_transfers :
    (∃ (s : State), (s.boot.stby = true) ∧ (s.i3c.addr = none)) ∧
    (∃ (s : State) (off : BitVec 16) (bytes : List Byte), (s.boot.stby = true) ∧ (s.i3c.addr ≠ none) ∧ (off.toNat % 256 + bytes.length ≤ 248) ∧
      (off.toNat < 8192)) ∧
    (∃ (s : State) (n : Nat), (s.boot.stby = true) ∧ (s.i3c.addr ≠ none) ∧ (n ≤ 4096) ∧ (s.i3c.off + n ≤ 16388)) :=
  ⟨
    ⟨i3c7 State.reset none 3, by decide +kernel⟩,
    ⟨i3c7 State.reset (some 3) 3, 0x1F00, List.replicate 248 5, by decide +kernel⟩,
    ⟨i3c7 State.reset (some 3) 0x3004, 4096, by decide +kernel⟩⟩

/-- States and operands that meet the hypotheses of each clause of `Obligations.InfoCommands`. -/
theorem hyps_info_commands :
    (∃ (r : Req) (p : Picked) (s : State), (Ready r 257 p s)) ∧
    (∃ (r : Req) (p : Picked) (s : State), (Ready r 258 p s)) ∧
    (∃ (r : Req) (p : Picked) (s : State), (Ready r 259 p s)) ∧
    (∃ (r : Req) (p : Picked) (s : State), (Ready r 260 p s)) ∧
    (∃ (r : Req) (p : Picked) (s : State), (Ready r 514 p s)) ∧
    (∃ (r : Req) (p : Picked) (s : State) (b : List Byte), (Ready r 496 p s) ∧ (b.length ≤ 216)) ∧
    (∃ (r : Req) (p : Picked) (s : State), (Ready r 499 p s)) ∧
    (∃ (r : Req) (p : Picked) (s : State) (h : W32), (Ready r 497 p s) ∧ (s.advanceOps.op (BitVec.toNat h) = none)) ∧
    (∃ (r : Req) (p : Picked) (s : State) (h : W32) (o : LongOp), (Ready r 497 p s) ∧ (s.advanceOps.op (BitVec.toNat h) = some o)) ∧
    (∃ (s : State), (∀ o ∈ s.belul.ops, timeDriven o = false)) ∧
    (∃ (r : Req) (p : Picked) (s : State) (port : Nat) (mode : Nat) (width : Nat), (Ready r 513 p s) ∧ (port < 4) ∧ (mode < 2) ∧ (width = 16 ∨
      width = 8 ∨ width = 4)) ∧
    (∃ (r : Req) (h : W32) (pos : Nat) (p : Picked) (s : State), (pos < 2 ^ 64) ∧ (Ready r 498 p s) ∧ (s.op (BitVec.toNat h) = none)) ∧
    (∃ (r : Req) (h : W32) (pos : Nat) (p : Picked) (s : State) (o : LongOp), (pos < 2 ^ 64) ∧ (Ready r 498 p s) ∧ (s.op (BitVec.toNat h) = some
      o) ∧ (permitted o.opcode r.client = false)) ∧
    (∃ (r : Req) (h : W32) (pos : Nat) (p : Picked) (s : State) (o : LongOp), (pos < 2 ^ 64) ∧ (Ready r 498 p s) ∧ (s.op (BitVec.toNat h) = some
      o) ∧ (permitted o.opcode r.client = true) ∧ (o.opcode = 1027)) ∧
    (∃ (r : Req) (h : W32) (pos : Nat) (p : Picked) (s : State) (o : LongOp), (pos < 2 ^ 64) ∧ (Ready r 498 p s) ∧ (s.op (BitVec.toNat h) = some
      o) ∧ (o.opcode = 769)) :=
  ⟨
    ⟨req7, pk7 0x0101, rd7 0 State.reset 0x0101, by decide +kernel⟩,
    ⟨req7, pk7 0x0102, rd7 0 State.reset 0x0102, by decide +kernel⟩,
    ⟨req7, pk7 0x0103, rd7 0 State.reset 0x0103, by decide +kernel⟩,
    ⟨req7, pk7 0x0104, rd7 0 State.reset 0x0104, by decide +kernel⟩,
    ⟨req7, pk7 0x0202, rd7 0 State.reset 0x0202, by decide +kernel⟩,
    ⟨req7, pk7 0x01F0, rd7 0 State.reset 0x01F0, List.replicate 216 7, by decide +kernel⟩,
    ⟨req7, pk7 0x01F3, rd7 0 (ops7 State.reset 0x0403) 0x01F3, by decide +kernel⟩,
    ⟨req7, pk7 0x01F1, rd7 0 (ops7 State.reset 0x0403) 0x01F1, 0x3E000008, by decide +kernel⟩,
    ⟨req7, pk7 0x01F1, rd7 0 (ops7 State.reset 0x0403) 0x01F1, 0x3E000009, long7 0x0403, by decide +kernel⟩,
    ⟨{ State.reset with belul := { State.reset.belul with ops := [long7 0x0403] } }, by decide +kernel⟩,
    ⟨req7, pk7 0x0201, rd7 0 State.reset 0x0201, 3, 1, 4, by decide +kernel⟩,
    ⟨req7, 0x3E000008, 2 ^ 64 - 1, pk7 0x01F2, rd7 0 (ops7 State.reset 0x0301) 0x01F2, by decide +kernel⟩,
    ⟨{ client := 2, slot := 31 }, 0x3E000009, 2 ^ 64 - 1, pk7 0x01F2, rd7 2 (ops7 State.reset 0x0403) 0x01F2, long7 0x0403, by decide +kernel⟩,
    ⟨req7, 0x3E000009, 2 ^ 64 - 1, pk7 0x01F2, rd7 0 (ops7 State.reset 0x0403) 0x01F2, long7 0x0403, by decide +kernel⟩,
    ⟨req7, 0x3E000009, 2 ^ 64 - 1, pk7 0x01F2, rd7 0 (ops7 State.reset 0x0301) 0x01F2, long7 0x0301, by decide +kernel⟩⟩

/-- States and operands that meet the hypotheses of each clause of `Obligations.RegisterWrites`. -/
theorem hyps_register_writes :
    (∃ (s : State), (s.job.st = JobSt.none)) ∧
    (∃ (s : State), (s.job.st ≠ JobSt.none)) ∧
    (∃ (s : State), (s.ks.ringEnable = false)) ∧
    (∃ (s : State), (s.ks.ringEnable = true)) ∧
    (∃ (s : State) (ch : Nat), (ch < 512) ∧ ((s.chan ch).tgRun = false)) ∧
    (∃ (s : State) (ch : Nat), (ch < 512) ∧ ((s.chan ch).tgRun = true)) ∧
    (∃ (p : Nat), (p < 4)) ∧
    (∃ (s : State) (n : Nat), (n < 256) ∧ ((s.hint n).enable = false)) ∧
    (∃ (s : State) (n : Nat), (n < 256) ∧ ((s.hint n).enable = true)) ∧
    (∃ (s : State) (k : Nat), (k < 4096) ∧ ((s.window k).v = false)) ∧
    (∃ (s : State) (k : Nat), (k < 4096) ∧ ((s.window k).v = true)) ∧
    (∃ (n : Nat), (n < Config.pciePorts)) ∧
    (∃ (s : State), (s.wear.queue = [])) ∧
    (∃ (n : Nat) (size : Nat), (n < 4096) ∧ (size = 4 ∨ size = 8)) ∧
    (∃ (addr : Nat), (70368760954880 ≤ addr) ∧ (addr < 70368794509312) ∧ (addr % 65536 = 8176 ∨ addr % 65536 = 8180)) ∧
    (∃ (c : Nat) (k : Nat) (off : Nat), (c < 2) ∧ (k < 32) ∧ (off < 248) ∧ (off % 4 = 0)) ∧
    (∃ (t : Nat) (q : Nat), (t < 1296) ∧ (q < 4)) ∧
    (∃ (t : Nat) (s : State), (t < 1296) ∧ ((s.tile t).st ≠ TileSt.unavailable) ∧ ((s.tile t).st ≠ TileSt.run) ∧ ((s.tile t).st ≠ TileSt.halted)) ∧
    (∃ (t : Nat) (s : State), (t < 1296) ∧ ((s.tile t).st ≠ TileSt.unavailable) ∧ ((s.tile t).st = TileSt.run ∨ (s.tile t).st = TileSt.halted)) ∧
    (∃ (t : Nat) (s : State) (n : Nat), (t < 1296) ∧ ((s.tile t).st ≠ TileSt.unavailable) ∧ (n < 8)) ∧
    (∃ (t : Nat) (s : State) (n : Nat), (t < 1296) ∧ ((s.tile t).st ≠ TileSt.unavailable) ∧ (n < 4)) ∧
    (∃ (t : Nat) (s : State) (off : Nat), (t < 1296) ∧ ((s.tile t).st = TileSt.unavailable) ∧ (off < 16896) ∧ (off % 4 = 0) ∧ (off ≠ 12608)) ∧
    (∃ (addr : Nat), (addr % 4 = 0) ∧ (70368760102912 ≤ addr ∧ addr < 70368760168448 ∨ 70368760299520 ≤ addr ∧ addr < 70368760365056 ∨
      70368760430592 ≤ addr ∧ addr < 70368760496128 ∨ 70368798703616 ≤ addr ∧ addr < 70368844840960 ∨ 70368861618176 ≤ addr ∧ addr <
      70373039144960 ∨ 70368760070144 ≤ addr ∧ addr < 70368760102912 ∨ 70368756764672 ≤ addr ∧ addr < 70368757809152 ∨ addr = 70368753614848 ∨
      addr = 70368753614864) ∧ (addr % 65536 ≠ 8176) ∧ (addr % 65536 ≠ 8180)) ∧
    (∃ (addr : Nat) (val : W64) (s : State) (t : State) (u : State), (addr % 8 = 0) ∧ (addr < 87960930222080) ∧ (70368752566272 ≤ addr ∧ addr <
      70368760037376 ∨ 70368760070144 ≤ addr) ∧ (exec (Instr.registerWrite addr 4 val) s = Host.Outcome.next t) ∧ (exec (Instr.registerWrite
      (addr + 4) 4 (val >>> 32)) t = Host.Outcome.next u)) :=
  ⟨
    ⟨job7 State.reset {}, by decide +kernel⟩,
    ⟨job7 State.reset { st := .failed }, by decide +kernel⟩,
    ⟨ring7 State.reset false, by decide +kernel⟩,
    ⟨ring7 State.reset true, by decide +kernel⟩,
    ⟨gen7 State.reset false, 511, by decide +kernel⟩,
    ⟨gen7 State.reset true, 511, by decide +kernel⟩,
    ⟨3, by decide +kernel⟩,
    ⟨hint7 State.reset false, 255, by decide +kernel⟩,
    ⟨hint7 State.reset true, 255, by decide +kernel⟩,
    ⟨win7 State.reset false, 4095, by decide +kernel⟩,
    ⟨win7 State.reset true, 4095, by decide +kernel⟩,
    ⟨3, by decide +kernel⟩,
    ⟨{ State.reset with wear := {} }, by decide +kernel⟩,
    ⟨4095, 8, by decide +kernel⟩,
    ⟨0x400002941FF0 + 0x10000, by decide +kernel⟩,
    ⟨1, 31, 244, by decide +kernel⟩,
    ⟨1295, 3, by decide +kernel⟩,
    ⟨1295, tile7 State.reset .reset, by decide +kernel⟩,
    ⟨1295, tile7 State.reset .halted, by decide +kernel⟩,
    ⟨1295, tile7 State.reset .run, 7, by decide +kernel⟩,
    ⟨1295, tile7 State.reset .run, 3, by decide +kernel⟩,
    ⟨1295, tile7 State.reset .unavailable, 16892, by decide +kernel⟩,
    ⟨0x400000F30010, by decide +kernel⟩,
    ⟨0x400000800010, 0xFFFFFFFFFFFF000A, State.reset, next7 0x400000800010 0xFFFFFFFFFFFF000A State.reset, next7 0x400000800014 0xFFFFFFFF (next7
      0x400000800010 0xFFFFFFFFFFFF000A State.reset), by refine ⟨by decide, by decide, by decide, ?_, ?_⟩ <;> rfl⟩⟩

/-- States and operands that meet the hypotheses of each clause of `Obligations.ReadsThatClear`. -/
theorem hyps_reads_that_clear :
    (∃ (c : Nat), (c < 3)) ∧
    (∃ (i : Nat), (i < 36)) ∧
    (∃ (p : Nat), (p < 48)) ∧
    (∃ (l : Nat) (n : Nat), (wfPair l n = true)) ∧
    (∃ (a : Nat), (a < 2)) ∧
    (∃ (ch : Nat), (ch < 512)) ∧
    (∃ (p : Nat), (p < 4)) ∧
    (∃ (addr : Nat), (addr < 2 ^ 48) ∧ (addr % 16 = 0) ∧ (timedCtr addr = false)) :=
  ⟨
    ⟨2, by decide +kernel⟩,
    ⟨35, by decide +kernel⟩,
    ⟨3, by decide +kernel⟩,
    ⟨4, 7, by decide +kernel⟩,
    ⟨1, by decide +kernel⟩,
    ⟨511, by decide +kernel⟩,
    ⟨3, by decide +kernel⟩,
    ⟨2 ^ 48 - 16, by decide +kernel⟩⟩
end Sys2Proof.Tests
end

section
/-!
PROOFS. What the shell shared by all commands says of each of them: every command checks that its operands are well formed, and its
effect stays within its row of `mayChange` and keeps the invariant. Later proofs about all commands start from `exec_framed`.
-/

namespace Sys2Proof.Machine
open Sys2Proof

/-- A command is the check that it is well formed, and an effect that keeps the invariant and every part outside its row of
`mayChange`. -/
def Framed (i : Instr) (s : State) : Prop :=
  ∃ u, exec i s = require (wellFormed i) u ∧ Le (partMask (mayChange i)) s u

/-- An operation whose mask lies in a command's row of `mayChange` frames the command. Both side conditions hold by evaluation wherever
the command spells its check as `wellFormed` does, so the arms of `exec_framed` name the operation alone. -/
theorem Framed.of_le {i : Instr} {s u : State} {m : Nat} (hu : Le m s u)
    (he : exec i s = require (wellFormed i) u := by rfl)
    (hm : m ||| partMask (mayChange i) = partMask (mayChange i) := by dsimp only [mayChange]; decide) : Framed i s :=
  ⟨u, he, hu.next hm (Le.refl _ _)⟩

/-- The check of a pier's way (R226), spelt as the one of well-formed commands. -/
theorem not_badWay (p w : Nat) : (!badWay p w) = (decide (p < 4) && decide (w < 17)) := by
  simp [badWay, ← decide_not]

/-- Every command is framed: each arm cites what the command's own operation may change. -/
theorem exec_framed (i : Instr) (s : State) : Framed i s :=
  match i with
  -- the spindle core and the tile's registers
  | .csrAccess .. => .of_le (doCsrAccess_le ..)
  | .spindleLoadStore .. => .of_le (doSpindleLoadStore_le ..)
  | .ecall .. => .of_le (doEcall_le ..)
  | .ebreak .. => .of_le (doEbreak_le ..)
  | .mret .. => .of_le (doMret_le ..)
  | .wfi .. => .of_le (doWfi_le ..)
  | .eventDelivery .. => .of_le (doEventDelivery_le ..)
  | .qpush .. => .of_le (doQpush_le ..)
  | .exit .. => .of_le (doExit_le ..)
  | .exitDrained .. => .of_le (doExitDrained_le ..)
  | .qcrWrite .. => .of_le (doQcrWrite_le ..)
  | .rxcfgWrite .. => .of_le (doRxcfgWrite_le ..)
  | .rxtailWrite .. => .of_le (doRxtailWrite_le ..)
  | .pendSet .. => .of_le (doPendSet_le ..)
  | .pendClr .. => .of_le (doPendClr_le ..)
  | .maskSet .. => .of_le (doMaskSet_le ..)
  | .maskClr .. => .of_le (doMaskClr_le ..)
  | .tmarkWrite .. => .of_le (doTmarkWrite_le ..)
  | .cntrstWrite .. => .of_le (doCntrstWrite_le ..)
  | .dmiHaltreq .. => .of_le (haltTile_le ..)
  | .dmiResumereq .. => .of_le (resumeRequest_le ..)
  | .dmiAbstractCommand .. => .of_le (doDmiAbstractCommand_le ..)
  -- registers of the shared units
  | .ringctlWrite .. => .of_le (doRingctlWrite_le ..)
  | .ringtailWrite .. => .of_le (doRingtailWrite_le ..)
  | .wayctlDisableWrite .. => .of_le (doWayctlDisableWrite_le ..)
  | .wayctlEnableWrite .. => .of_le (doWayctlEnableWrite_le ..)
  | .hostintCtlWrite .. => .of_le (doHostintCtlWrite_le ..)
  | .importOpen .. => .of_le (doImportOpen_le ..)
  | .exportEntryWrite .. => .of_le (doExportEntryWrite_le ..)
  | .talcyTriggerWrite .. => .of_le (doTalcyTriggerWrite_le ..)
  | .registerWrite .. => .of_le (doRegisterWrite_le ..)
  | .qstatRead .. => .of_le (doQstatRead_le ..)
  | .rxrefRead .. => .of_le (doRxrefRead_le ..)
  | .overflowRead .. => .of_le (doOverflowRead_le ..)
  | .memchStatusRead .. => .of_le (doMemchStatusRead_le ..)
  | .errcntRead .. => .of_le (doErrcntRead_le ..)
  | .waystatRead .. => .of_le (doWaystatRead_le ..)
  | .pcacheErrRead .. => .of_le (doPcacheErrRead_le ..)
  | .homearbStatusRead .. => .of_le (doHomearbStatusRead_le ..)
  | .bstatRead .. => .of_le (doBstatRead_le ..)
  | .nodeRefuseRead .. => .of_le (doNodeRefuseRead_le ..)
  | .oportErrRead .. => .of_le (doOportErrRead_le ..)
  | .jobMissedRead .. => .of_le (doJobMissedRead_le ..)
  | .jobFlagsRead .. => .of_le (doJobFlagsRead_le ..)
  | .droopRead .. => .of_le (doDroopRead_le ..)
  | .overcapRead .. => .of_le (doOvercapRead_le ..)
  | .tripRead .. => .of_le (doTripRead_le ..)
  | .tempRead .. => .of_le (doTempRead_le ..)
  | .bootCauseRead .. => .of_le (doBootCauseRead_le ..)
  | .dierstRead .. => .of_le (doDierstRead_le ..)
  | .talcyStatusRead .. => .of_le (doTalcyStatusRead_le ..)
  | .cntctlFreezeRead .. => .of_le (doCntctlFreezeRead_le ..)
  | .wearUnmetRead .. => .of_le (doWearUnmetRead_le ..)
  | .belulErrRead .. => .of_le (doBelulErrRead_le ..)
  | .cntloRead .. => .of_le (doCntloRead_le ..)
  | .tickNumloRead .. => .of_le (doTickNumloRead_le ..)
  | .jobTickloRead .. => .of_le (doJobTickloRead_le ..)
  | .frztickloRead .. => .of_le (doFrztickloRead_le ..)
  -- descriptors and the engines
  | .descriptorStart .. => .of_le (doDescriptorStart_le ..)
  | .fenceComplete .. => .of_le (doFenceComplete_le ..)
  | .latheBlockDone .. => .of_le (doLatheBlockDone_le ..)
  | .chainChunkDone .. => .of_le (doChainChunkDone_le ..)
  | .chainPassEnd .. => .of_le (doChainPassEnd_le ..)
  | .moverCopyChunk .. => .of_le (doMoverCopyChunk_le ..)
  | .moverFillChunk .. => .of_le (doMoverFillChunk_le ..)
  | .moverAtomicChunk .. => .of_le (doMoverAtomicChunk_le ..)
  | .sendMessage .. => .of_le (doSendMessage_le ..)
  | .moverAck .. => .of_le (doMoverAck_le ..)
  | .moverChunkDone .. => .of_le (doMoverChunkDone_le ..)
  | .completionPost .. => .of_le (doCompletionPost_le ..)
  | .storeCorrectiveWrite .. => .of_le (doStoreCorrectiveWrite_le ..)
  -- the Keystone
  | .leaseRequest .. => .of_le (doLeaseRequest_le ..)
  | .keystoneWalkComplete .. => .of_le (doKeystoneWalkComplete_le ..)
  | .recall .. => .of_le (doRecall_le ..)
  | .recallAck .. => .of_le (doRecallAck_le ..)
  | .invalidateComplete .. => .of_le (doInvalidateComplete_le ..)
  | .walkerParityError .. => .of_le (doWalkerParityError_le ..)
  | .spaceBind .. => .of_le (doSpaceBind_le ..)
  | .spaceUnbind .. => .of_le (doSpaceUnbind_le ..)
  | .invalidate .. => .of_le (doInvalidate_le ..)
  | .faultRing .. => .of_le (doFaultRing_le ..)
  | .faultResolve .. => .of_le (doFaultResolve_le ..)
  | .probe .. => .of_le (doProbe_le ..)
  | .keystoneStatus .. => .of_le (doKeystoneStatus_le ..)
  -- the tile's life
  | .storeFillComplete .. => .of_le (doStoreFillComplete_le ..)
  | .stopDrainStart .. => .of_le (doStopDrainStart_le ..)
  | .drainComplete .. => .of_le (doDrainComplete_le ..)
  | .tileReset .. => .of_le (doTileReset_le ..)
  | .tileLoad .. => .of_le (doTileLoad_le ..)
  | .tileStart .. => .of_le (doTileStart_le ..)
  | .tileStop .. => .of_le (doTileStop_le ..)
  | .tileStatus .. => .of_le (doTileStatus_le ..)
  | .tileHalt .. => .of_le (doTileHalt_le ..)
  | .tileResume .. => .of_le (doTileResume_le ..)
  | .tileTest .. => .of_le (doTileTest_le ..)
  -- routed small messages
  | .msgDataDelivery .. => .of_le (doMsgDataDelivery_le ..)
  | .msgSignalDelivery .. => .of_le (doMsgSignalDelivery_le ..)
  | .deliveryRefusal .. => .of_le (doDeliveryRefusal_le ..)
  | .msgRetry .. => .of_le (doMsgRetry_le ..)
  -- the HBM4 pool
  | .memoryRead .. => .of_le (doMemoryRead_le ..)
  | .memoryWrite .. => .of_le (doMemoryWrite_le ..)
  | .codewordCorrectiveWrite .. => .of_le (doCodewordCorrectiveWrite_le ..)
  | .patrolScrub .. => .of_le (doPatrolScrub_le ..)
  | .rowRepair .. => .of_le (doRowRepair_le ..)
  | .hotWindowEnd .. => .of_le (doHotWindowEnd_le ..)
  | .refresh .. => .of_le (doRefresh_le ..)
  | .stackTempRead .. => .of_le (doStackTempRead_le ..)
  | .hbmCalibration .. => .of_le (doHbmCalibration_le ..)
  | .memoryInit .. => .of_le (doMemoryInit_le ..)
  | .memoryInitComplete .. => .of_le (doMemoryInitComplete_le ..)
  | .memoryStatus .. => .of_le (doMemoryStatus_le ..)
  | .retiredList .. => .of_le (doRetiredList_le ..)
  | .scrubSet .. => .of_le (doScrubSet_le ..)
  | .memTraffic .. => .of_le (doMemTraffic_le ..)
  | .memTrafficComplete .. => .of_le (doMemTrafficComplete_le ..)
  -- the pier cache and the adders
  | .pierRead .. => .of_le (doPierRead_le ..)
  | .fillReturn .. => .of_le (doFillReturn_le ..)
  | .pierWrite .. => .of_le (doPierWrite_le ..)
  | .mergeAgeDrain .. => .of_le (doMergeAgeDrain_le ..)
  | .adderOperation .. => .of_le (doAdderOperation_le ..)
  | .adderStoreEvict .. => .of_le (doAdderStoreEvict_le ..)
  | .cacheRangeInvalidate .. => .of_le (cacheRange_le ..)
  | .cacheRangeDrainMerge .. => .of_le (cacheRange_le ..)
  | .cacheRangePrefetch .. => .of_le (cacheRange_le ..)
  | .cacheRangeLock .. => .of_le (cacheRange_le ..)
  | .cacheRangeUnlock .. => .of_le (cacheRange_le ..)
  | .cacheRangeComplete .. => .of_le (doCacheRangeComplete_le ..)
  | .cacheWayInvalidate .. => .of_le (doCacheWayInvalidate_le ..)
  | .cacheWayEnable .. => .of_le (doCacheWayEnable_le ..)
  | .cacheWayDisable .. => .of_le (doCacheWayDisable_le ..)
  | .wayPowerDownComplete .. => .of_le (doWayPowerDownComplete_le ..) (congrArg (require · _) (not_badWay ..))
  | .cacheStatus .. => .of_le (doCacheStatus_le ..)
  -- host clusters and the home arbiters
  | .gets .. => .of_le (doGets_le ..)
  | .getm .. => .of_le (doGetm_le ..)
  | .tread .. => .of_le (doTread_le ..)
  | .twrite .. => .of_le (doTwrite_le ..)
  | .top .. => .of_le (doTop_le ..)
  | .fwdgets .. => .of_le (doFwdgets_le ..)
  | .fwdgetm .. => .of_le (doFwdgetm_le ..)
  | .fwdinv .. => .of_le (doFwdinv_le ..)
  | .inv .. => .of_le (doInv_le ..)
  | .data .. => .of_le (doData_le ..)
  | .ack .. => .of_le (doAck_le ..)
  | .wback .. => .of_le (doWback_le ..)
  | .done .. => .of_le (doDone_le ..)
  | .putm .. => .of_le (doPutm_le ..)
  | .downwb .. => .of_le (doDownwb_le ..)
  | .hostApertureLoad .. => .of_le (doHostApertureLoad_le ..)
  | .hostApertureStore .. => .of_le (doHostApertureStore_le ..)
  | .hostApertureAmo .. => .of_le (doHostApertureAmo_le ..)
  | .seteipnumWrite .. => .of_le (doSeteipnumWrite_le ..)
  | .pciePortEvent .. => .of_le (doPciePortEvent_le ..)
  -- Truss and the die links
  | .trussReplay .. => .of_le (doTrussReplay_le ..)
  | .linkup .. => .of_le (doLinkup_le ..)
  | .mapfault .. => .of_le (doMapfault_le ..)
  | .bundleTrainingDone .. => .of_le (doBundleTrainingDone_le ..)
  | .dieResetResponse .. => .of_le (doDieResetResponse_le ..)
  | .dieLinkStatus .. => .of_le (doDieLinkStatus_le ..)
  | .dieLinkRetrain .. => .of_le (doDieLinkRetrain_le ..)
  -- the optical links and node addressing
  | .flitForward .. => .of_le (doFlitForward_le ..)
  | .flitReplay .. => .of_le (doFlitReplay_le ..)
  | .linkdown .. => .of_le (doLinkdown_le ..)
  | .peerid .. => .of_le (doPeerid_le ..)
  | .portTrainingDone .. => .of_le (doPortTrainingDone_le ..)
  | .waveErrorWindow .. => .of_le (doWaveErrorWindow_le ..)
  | .laserFailure .. => .of_le (doLaserFailure_le ..)
  | .remoteRead .. => .of_le (doRemoteRead_le ..)
  | .remoteWrite .. => .of_le (doRemoteWrite_le ..)
  | .remoteAtomic .. => .of_le (doRemoteAtomic_le ..)
  | .rspData .. => .of_le (doRspData_le ..)
  | .rspAck .. => .of_le (doRspAck_le ..)
  | .rspNack .. => .of_le (doRspNack_le ..)
  | .remoteTimeout .. => .of_le (doRemoteTimeout_le ..)
  | .portStatus .. => .of_le (doPortStatus_le ..)
  | .portOpen .. => .of_le (doPortOpen_le ..)
  | .portRetrain .. => .of_le (doPortRetrain_le ..)
  | .nodeRole .. => .of_le (doNodeRole_le ..)
  | .routeLoad .. => .of_le (doRouteLoad_le ..)
  | .nodemapSync .. => .of_le (doNodemapSync_le ..)
  | .windowSet .. => .of_le (doWindowSet_le ..)
  | .windowClose .. => .of_le (doWindowClose_le ..)
  | .windowCloseComplete .. => .of_le (doWindowCloseComplete_le ..)
  | .exportSet .. => .of_le (doExportSet_le ..)
  -- the span tick, jobs and collectives
  | .spanTickBoundary .. => .of_le (doSpanTickBoundary_le ..)
  | .timesyncSend .. => .of_le (doTimesyncSend_le ..)
  | .timesync .. => .of_le (doTimesync_le ..)
  | .heartbeat .. => .of_le (doHeartbeat_le ..)
  | .flood .. => .of_le (doFlood_le ..)
  | .parentUsable .. => .of_le (doParentUsable_le ..)
  | .tickLockAcquired .. => .of_le (doTickLockAcquired_le ..)
  | .parentLost .. => .of_le (doParentLost_le ..)
  | .holdoverUnaligned .. => .of_le (doHoldoverUnaligned_le ..)
  | .tickLost .. => .of_le (doTickLost_le ..)
  | .nodeLost .. => .of_le (doNodeLost_le ..)
  | .stepTimeout .. => .of_le (doStepTimeout_le ..)
  | .collData .. => .of_le (doCollData_le ..)
  | .collComplete .. => .of_le (doCollComplete_le ..)
  | .launch .. => .of_le (doLaunch_le ..)
  | .launchAck .. => .of_le (doLaunchAck_le ..)
  | .launchAckDeadline .. => .of_le (doLaunchAckDeadline_le ..)
  | .launchAttemptEnd .. => .of_le (doLaunchAttemptEnd_le ..)
  | .jobLaunch .. => .of_le (doJobLaunch_le ..)
  | .jobEnd .. => .of_le (doJobEnd_le ..)
  | .jobStatus .. => .of_le (doJobStatus_le ..)
  | .collPost .. => .of_le (doCollPost_le ..)
  | .tickConfig .. => .of_le (doTickConfig_le ..)
  -- the Belul command interface
  | .belulCommit .. => .of_le (doBelulCommit_le ..)
  | .deviceInfo .. => .of_le (doDeviceInfo_le ..)
  | .tileMap .. => .of_le (doTileMap_le ..)
  | .spareState .. => .of_le (doSpareState_le ..)
  | .degraded .. => .of_le (doDegraded_le ..)
  | .nop .. => .of_le (doNop_le ..)
  | .opQuery .. => .of_le (doOpQuery_le ..)
  | .opAbort .. => .of_le (doOpAbort_le ..)
  | .opList .. => .of_le (doOpList_le ..)
  | .pciePort .. => .of_le (doPciePort_le ..)
  | .configRead .. => .of_le (doConfigRead_le ..)
  -- power
  | .powerCap .. => .of_le (doPowerCap_le ..)
  | .powerState .. => .of_le (doPowerState_le ..)
  | .clusterPark .. => .of_le (doClusterPark_le ..)
  | .clusterUnpark .. => .of_le (doClusterUnpark_le ..)
  | .dvfsSet .. => .of_le (doDvfsSet_le ..)
  | .powerStatus .. => .of_le (doPowerStatus_le ..)
  -- observation
  | .counterSnapshot .. => .of_le (doCounterSnapshot_le ..)
  | .freeze .. => .of_le (doFreeze_le ..)
  | .freezePacket .. => .of_le (doFreezePacket_le ..)
  | .haltPacket .. => .of_le (doHaltPacket_le ..)
  | .traceConfig .. => .of_le (doTraceConfig_le ..)
  | .traceArm .. => .of_le (doTraceArm_le ..)
  | .traceStop .. => .of_le (doTraceStop_le ..)
  | .traceUnitStop .. => .of_le (doTraceUnitStop_le ..)
  | .pcSample .. => .of_le (doPcSample_le ..)
  | .counterThreshold .. => .of_le (doCounterThreshold_le ..)
  | .eventRead .. => .of_le (doEventRead_le ..)
  | .haltGroup .. => .of_le (doHaltGroup_le ..)
  -- firmware and security
  | .fwInfo .. => .of_le (doFwInfo_le ..)
  | .fwUpdate .. => .of_le (doFwUpdate_le ..)
  | .fwRecoveryLoad .. => .of_le (doFwRecoveryLoad_le ..)
  | .recoverySessionTimeout .. => .of_le (doRecoverySessionTimeout_le ..)
  | .fwActivate .. => .of_le (doFwActivate_le ..)
  | .recordRead .. => .of_le (doRecordRead_le ..)
  | .idCert .. => .of_le (doIdCert_le ..)
  | .attest .. => .of_le (doAttest_le ..)
  | .measureLog .. => .of_le (doMeasureLog_le ..)
  -- I3C
  | .i3cPrivateWrite .. => .of_le (doI3cPrivateWrite_le ..)
  | .i3cPrivateRead .. => .of_le (doI3cPrivateRead_le ..)
  | .entdaa .. => .of_le (doEntdaa_le ..)
  | .rstdaa .. => .of_le (doRstdaa_le ..)
  | .setnewda .. => .of_le (doSetnewda_le ..)
  | .getpid .. => .of_le (doGetpid_le ..)
  | .getbcr .. => .of_le (doGetbcr_le ..)
  | .getdcr .. => .of_le (doGetdcr_le ..)
  | .getstatus .. => .of_le (doGetstatus_le ..)
  | .getmwl .. => .of_le (doGetmwl_le ..)
  | .getmrl .. => .of_le (doGetmrl_le ..)
  | .enec .. => .of_le (doEnec_le ..)
  | .disec .. => .of_le (doDisec_le ..)
  | .rstact .. => .of_le (doRstact_le ..)
  -- power, thermal and supply events
  | .powerCalibration .. => .of_le (doPowerCalibration_le ..)
  | .dvfsAdjust .. => .of_le (doDvfsAdjust_le ..)
  | .droopClamp .. => .of_le (doDroopClamp_le ..)
  | .clampRelease .. => .of_le (doClampRelease_le ..)
  | .supply .. => .of_le (doSupply_le ..)
  | .monitorFault .. => .of_le (doMonitorFault_le ..)
  | .thermalSample .. => .of_le (doThermalSample_le ..)
  | .thermalTrip .. => .of_le (doThermalTrip_le ..)
  | .localLoopUpdate .. => .of_le (doLocalLoopUpdate_le ..)
  | .mgrLost .. => .of_le (doMgrLost_le ..)
  | .powerWake .. => .of_le (doPowerWake_le ..)
  | .powerOn .. => .of_le (doPowerOn_le ..)
  | .external .. => .of_le (doExternal_le ..)
  | .modResetRelease .. => .of_le (doModResetRelease_le ..)
  | .watchdog .. => .of_le (doWatchdog_le ..)
  | .moduleStart .. => .of_le (doModuleStart_le ..)
  | .failstreakClear .. => .of_le (doFailstreakClear_le ..)
  | .deckDieReset .. => .of_le (doDeckDieReset_le ..)
  | .abutmentDieReset .. => .of_le (doAbutmentDieReset_le ..)
  | .recordCompaction .. => .of_le (doRecordCompaction_le ..)
  -- wear
  | .ageingSweep .. => .of_le (doAgeingSweep_le ..)
  | .substitution .. => .of_le (doSubstitution_le ..)
  -- later rows of the table
  | .wayInvalidateComplete .. => .of_le (doWayInvalidateComplete_le ..) (congrArg (require · _) (not_badWay ..))
  | .nodemapSyncComplete .. => .of_le (doNodemapSyncComplete_le ..)
  | .fwUpdateComplete .. => .of_le (doFwUpdateComplete_le ..)
  | .tileTestComplete .. => .of_le (doTileTestComplete_le ..)
  | .portLossOfLock .. => .of_le (doPortLossOfLock_le ..)
  | .flitCheckFailure .. => .of_le (doFlitCheckFailure_le ..)
  | .bundleHeaderParityError .. => .of_le (doBundleHeaderParityError_le ..)
  | .hostClusterStateError .. => .of_le (doHostClusterStateError_le ..)
  | .laneEyeCheckFailure .. => .of_le (doLaneEyeCheckFailure_le ..)
  | .pierFatalError .. => .of_le (doPierFatalError_le ..)
  | .stbyPowerLoss .. => .of_le (doStbyPowerLoss_le ..)
  | .pcieWindowAccess .. => .of_le (doPcieWindowAccess_le ..)

/-- A command that answers a next state keeps the invariant and every part outside its row of `mayChange`. -/
theorem exec_le {i : Instr} {s t : State} (h : exec i s = .next t) : Le (partMask (mayChange i)) s t := by
  obtain ⟨u, he, hu⟩ := exec_framed i s
  obtain ⟨-, rfl⟩ := require_next (he ▸ h)
  exact hu

end Sys2Proof.Machine
end

section
/-!
PROOFS. The statements on the scope of the model: which commands complete, what each may change, and the reads that clear or latch.
-/

namespace Sys2Proof.Machine
open Sys2Proof

/-- Settles O3: a command is its check and an effect, and the check is `wellFormed`. -/
theorem everyCommandCompletes : Obligations.EveryCommandCompletes := by
  intro i s
  obtain ⟨u, he, -⟩ := exec_framed i s
  exact ⟨fun h => ⟨u, he.trans (require_of h)⟩, fun h => he.trans (require_fault h)⟩

/-- Settles O5: the mask of every command's effect is the one of its row of `mayChange`. -/
theorem commandFrame : Obligations.CommandFrame := by
  intro i s t h
  exact (exec_le h).sameBut (Nat.or_self _)

/-- A counter whose count no free value stands for is read as it is (assumption 4). -/
theorem timeCtr_untimed {a : Nat} (h : timedCtr a = false) (s : State) : timeCtr a s = s := by
  simp [timeCtr, h]

/-- What a read of OPORT.ERR leaves: the counts saturate from 0, at the events of the read's own cycle (R9, R301). -/
theorem doOportErrRead_eq (p ev ev2 : Nat) (s : State) :
    doOportErrRead p ev ev2 s = (s.ret (mkFld 16 16 (s.port p).replays + mkFld 0 16 (s.port p).fecUnc)).modPort p
      fun o => { o with replays := min 0xFFFF ev, fecUnc := min 0xFFFF ev2 } := by
  simp only [doOportErrRead, satAdd, Nat.zero_add]

/-- The address of a counter passes the check of the operands (R386). -/
theorem okCounter_of {a : Nat} (h : a < 2 ^ 48) (h16 : a % 16 = 0) : (decide (a < Config.physEnd) && a % 16 == 0) = true := by
  rw [decide_eq_true (show a < Config.physEnd from h), h16]
  rfl

/-- Settles O60: a register of the whole node is read as its command's effect says; for a register of a unit the unit's number passes the
check of the operands first. -/
theorem readsThatClear : Obligations.ReadsThatClear := by
  unfold Obligations.ReadsThatClear
  refine ⟨fun ev ev2 ev3 s => ?clear, fun s => ⟨rfl, rfl, rfl, fun addr ha h16 => ?count⟩⟩
  case clear =>
    refine ⟨rfl, fun _ => rfl, ?belul, rfl, rfl, rfl, ?temp, fun _ => rfl, fun _ => rfl, rfl, rfl, rfl, rfl, ?oport, ?pair, ?arbiter, ?channel,
      ?pier, rfl⟩
    case belul => exact fun c hc => require_of (decide_eq_true hc)
    case temp => exact fun i hi => require_of (decide_eq_true hi)
    case oport => exact fun p hp => (require_of (okPort_of hp)).trans (congrArg _ (doOportErrRead_eq p ev ev2 s))
    case pair => exact fun l n h => require_of h
    case arbiter => exact fun a ha => require_of (decide_eq_true ha)
    case channel => exact fun ch hc => ⟨require_of (okChan_of hc), require_of (okChan_of hc)⟩
    case pier => exact fun p hp => ⟨fun _ => require_of (decide_eq_true hp), fun _ => require_of (decide_eq_true hp)⟩
  case count =>
    have hok := okCounter_of ha h16
    exact ⟨require_of hok, require_of hok, fun ht => timeCtr_untimed ht s⟩

end Sys2Proof.Machine
end

section
/-!
PROOFS. What a boundary of the span tick leaves alone on its way (R17): the requests of other nodes that wait, and the ways that piers have
enabled. Nothing that a boundary sets off in the trace, the counters, the job or the ports reaches them.
-/

namespace Sys2Proof.Machine
open Sys2Proof

/-- A pier has the same powered ways and the same ways that wait for a boundary (R226). -/
def Pier.SameWays (P Q : Pier) : Prop := Q.powered = P.powered ∧ Q.enablePend = P.enablePend

/-- A state has the same waiting requests as another, and at each pier the same ways. -/
def Steady (s t : State) : Prop := t.node.rems = s.node.rems ∧ ∀ p, (s.pier p).SameWays (t.pier p)

/-! ### How the relation composes -/

theorem Steady.refl (s : State) : Steady s s := ⟨rfl, fun _ => ⟨rfl, rfl⟩⟩

theorem Steady.next {s t u : State} (h : Steady s t) (g : Steady t u) : Steady s u := by
  obtain ⟨hr, hw⟩ := h
  obtain ⟨gr, gw⟩ := g
  exact ⟨gr.trans hr, fun p => ⟨(gw p).1.trans (hw p).1, (gw p).2.trans (hw p).2⟩⟩

/-- A mask without the node and the piers leaves requests and ways alone. -/
theorem Le.steady {m : Nat} {s t : State} (h : Le m s t) (hm : m &&& partMask [.node, .piers] = 0) : Steady s t := by
  have hbit : ∀ i, (partMask [.node, .piers]).testBit i = true → m.testBit i = false := by
    intro i hi
    have hand := congrArg (·.testBit i) hm
    simpa [Nat.testBit_and, hi] using hand
  have hnode : t.node = s.node := h.1 .node (hbit _ (by decide))
  have hpiers : t.piers = s.piers := h.1 .piers (hbit _ (by decide))
  have hpier : ∀ p, t.pier p = s.pier p := fun p => by rw [State.pier, State.pier, hpiers]
  exact ⟨by rw [hnode], fun p => by rw [hpier]; exact ⟨rfl, rfl⟩⟩

/-- An operation that touches neither the node nor the piers, after others. -/
theorem Steady.le {m : Nat} {s t u : State} (h : Steady s t) (g : Le m t u) (hm : m &&& partMask [.node, .piers] = 0) : Steady s u :=
  h.next (g.steady hm)

theorem Steady.forEach {α : Type} {s t : State} {f : α → State → State} {l : List α} (h : Steady s t)
    (hf : ∀ x u, Steady s u → Steady s (f x u)) : Steady s (Machine.forEach l f t) :=
  forEach_keeps h fun x _ u hu => hf x u hu

theorem Steady.foldlFst {α β : Type} {s : State} {x : State × β} {f : State × β → α → State × β} {l : List α}
    (h : Steady s x.1) (hf : ∀ y a, Steady s y.1 → Steady s (f y a).1) : Steady s (l.foldl f x).1 := by
  induction l generalizing x with
  | nil => exact h
  | cons a r ih => exact ih (hf _ _ h)

theorem Steady.ite {s t u : State} {c : Prop} [Decidable c] (ht : Steady s t) (hu : Steady s u) : Steady s (if c then t else u) := by
  split
  · exact ht
  · exact hu

theorem Steady.when {s t : State} {b : Bool} {f : State → State} (h : Steady s t) (hf : ∀ u, Steady s u → Steady s (f u)) :
    Steady s (t.when b f) :=
  Steady.ite (hf _ h) h

/-! ### Updates of a pier and of a port -/

theorem setPier_steady {s : State} {p : Nat} {P : Pier} (h : (s.pier p).SameWays P) : Steady s (s.setPier p P) := by
  refine ⟨rfl, fun q => ?_⟩
  by_cases hq : q = p
  · subst hq
    rwa [State.setPier_pier]
  · rw [State.setPier_pier_ne _ _ _ _ hq]
    exact ⟨rfl, rfl⟩

theorem modPier_steady {s : State} {p : Nat} {f : Pier → Pier} (h : ∀ P : Pier, P.SameWays (f P)) : Steady s (s.modPier p f) :=
  setPier_steady (h _)

theorem modPort_steady (s : State) (x : Nat) (f : OPort → OPort) : Steady s (s.modPort x f) := ⟨rfl, fun _ => ⟨rfl, rfl⟩⟩

/-! ### The pool and the piers -/

theorem latchFills_steady (s : State) (p cw : Nat) : Steady s (latchFills s p cw) := by
  unfold latchFills
  dsimp only
  refine Steady.ite ?_ (Steady.refl s)
  exact (((Steady.refl s).le (State.takeFree_le _) rfl).le (fillValue_le ..) rfl).next (modPier_steady fun _ => ⟨rfl, rfl⟩)

theorem drainEntry_steady (s : State) (p : Nat) (m : Merge) : Steady s (drainEntry s p m) := by
  unfold drainEntry
  refine Steady.forEach (modPier_steady fun _ => ⟨rfl, rfl⟩) fun h u hu => ?_
  dsimp only
  exact Steady.ite hu ((hu.le (bump_le ..) rfl).le (ctrlWrite_le ..) rfl)

theorem drainLine_steady (s : State) (p line : Nat) : Steady s (drainLine s p line) := by
  unfold drainLine
  split
  · exact drainEntry_steady ..
  · exact Steady.refl s

theorem drainFull_steady (n : Nat) (s : State) (p : Nat) : Steady s (drainFull n s p) := by
  induction n generalizing s with
  | zero => exact Steady.refl s
  | succ n ih =>
    unfold drainFull
    split
    · exact Steady.ite ((drainEntry_steady ..).next (ih _)) (Steady.refl s)
    · exact Steady.refl s

theorem pierStore_steady (s : State) (line : Nat) (mask : BitVec 128) (data : BitVec 1024) : Steady s (pierStore s line mask data) := by
  unfold pierStore
  extract_lets p m
  split
  case isTrue => exact Steady.refl s
  case isFalse s₁ s₂ P merges Q s₃ s₄ _ =>
    have h₁ : Steady s s₁ := (latchFills_steady ..).next (latchFills_steady ..)
    have h₂ : Steady s s₂ := (h₁.le (State.takeFree_le _) rfl).le (bump_le ..) rfl
    have h₃ : Steady s s₃ := h₂.next (setPier_steady ⟨rfl, rfl⟩)
    have h₄ : Steady s s₄ := by
      unfold s₄
      split
      · exact Steady.ite (h₃.next (drainEntry_steady ..)) h₃
      · exact h₃
    exact h₄.next (drainFull_steady ..)

theorem writePool_steady (s : State) (addr : Nat) (bytes : List Byte) : Steady s (writePool s addr bytes).1 :=
  Steady.foldlFst (Steady.refl s) fun _ _ h => h.next (pierStore_steady ..)

theorem lineStore_steady (s : State) (line : Nat) (mask : BitVec 64) (data : BitVec 512) : Steady s (lineStore s line mask data) :=
  pierStore_steady ..

theorem touchLine_steady (s : State) (p line : Nat) : Steady s (touchLine s p line) := by
  unfold touchLine
  split
  · exact modPier_steady fun _ => ⟨rfl, rfl⟩
  · exact Steady.refl s

theorem allocLine_steady (s : State) (p line : Nat) (fresh : Bool) : Steady s (allocLine s p line fresh) := by
  unfold allocLine
  split
  · exact modPier_steady fun _ => by cases fresh <;> exact ⟨rfl, rfl⟩
  · exact Steady.refl s

theorem addFills_steady (s : State) (p : Nat) (cws : List Nat) (allocate prefetch : Bool) : Steady s (addFills s p cws allocate prefetch) :=
  modPier_steady fun _ => ⟨rfl, rfl⟩

theorem fillCw_steady (s : State) (p cw : Nat) (d : BitVec 512) (poison : Bool) : Steady s (fillCw s p cw d poison) :=
  modPier_steady fun _ => ⟨rfl, rfl⟩

theorem prefetchNext_steady (s : State) (p line : Nat) : Steady s (prefetchNext s p line) := by
  unfold prefetchNext
  dsimp only
  refine Steady.ite ?_ (Steady.refl s)
  exact (((Steady.refl s).le (bump_le ..) rfl).next (allocLine_steady ..)).next (addFills_steady ..)

theorem pierGet_steady (s : State) (cw : Nat) (sectors : BitVec 4) : Steady s (pierGet s cw sectors).1 := by
  unfold pierGet
  dsimp only
  have ht := touchLine_steady s (s.home (64 * cw)) (cw / 2)
  split
  · exact Steady.refl s
  · split
    · exact ht.le (bump_le ..) rfl
    · have hm := ht.le (bump_le _ (unitCtr (pcacheBase (s.home (64 * cw))) 1) 1) rfl
      split
      · exact ((hm.le (State.takeFree_le _) rfl).le (bump_le ..) rfl).le (fillValue_le ..) rfl
      · refine Steady.next ?_ (prefetchNext_steady ..)
        refine Steady.next ?_ (fillCw_steady ..)
        exact ((Steady.ite (hm.next (allocLine_steady ..)) hm).le (State.takeFree_le _) rfl).le (fillValue_le ..) rfl

theorem readPool_steady (s : State) (addr n : Nat) : Steady s (readPool s addr n).1 :=
  Steady.foldlFst (Steady.refl s) fun _ _ h => h.next (pierGet_steady ..)

theorem adderForward_steady (s : State) (addr n : Nat) : Steady s (adderForward s addr n) :=
  ((latchFills_steady ..).next (drainLine_steady ..)).next (modPier_steady fun _ => ⟨rfl, rfl⟩)

theorem adderApply_steady (s : State) (addr : Nat) (a : BitVec 8) (v cmp : Nat) : Steady s (adderApply s addr a v cmp).1 := by
  unfold adderApply
  dsimp only
  have hload := (adderForward_steady s addr (aSize (aType a))).le (adderLoad_le _ (addr / 64)) rfl
  split
  · exact Steady.refl s
  · split
    · exact hload
    · split
      · exact hload
      · exact (hload.le (State.modChan_le ..) rfl).le (bump_le ..) rfl

/-! ### The home arbiters -/

theorem storePoison_steady (s : State) (cw : Nat) : Steady s (storePoison s cw) := by
  unfold storePoison
  extract_lets s₁ h s₂ s₃
  have h₂ : Steady s s₂ := ((Steady.refl s).le (State.modChan_le ..) rfl).next (latchFills_steady ..)
  have h₃ : Steady s s₃ := h₂.next (modPier_steady fun _ => ⟨rfl, rfl⟩)
  exact h₃.le (State.modPool_le _ _ fun hp => hp.put cw 0 true) rfl

theorem writeBackLine_steady (s : State) (line : Nat) (data : BitVec 512) (poison : Bool) :
    Steady s (writeBackLine s line data poison) :=
  Steady.ite (Steady.refl s) (Steady.ite (Steady.ite (storePoison_steady ..) (Steady.refl s)) (lineStore_steady ..))

theorem cohShare_steady (s : State) (line : Nat) : Steady s (cohShare s line) := by
  unfold cohShare
  refine Steady.ite (Steady.refl s) ?_
  split
  · exact Steady.refl s
  · dsimp only
    have ha := fun y => (Steady.refl s).le (State.modArb_le s (homeArb line) fun A => A.setEntry line none [y]) rfl
    split
    · exact ha _
    · exact ((ha _).le (State.modCluster_le ..) rfl).next (writeBackLine_steady ..)

theorem cohPurge_steady (s : State) (line : Nat) : Steady s (cohPurge s line) := by
  unfold cohPurge
  dsimp only
  refine Steady.ite (Steady.refl s) (Steady.le ?_ (State.modArb_le ..) rfl)
  exact Steady.forEach (cohShare_steady s line) fun _ _ h => h.le (State.modCluster_le ..) rfl

theorem sendData_steady (s : State) (cl line : Nat) : Steady s (sendData s cl line) :=
  (pierGet_steady s line (hostSectors line)).le (sendCoh_le ..) rfl

theorem tileAccess_steady (s : State) (r : CReq) : Steady s (tileAccess s r) := by
  unfold tileAccess
  split
  · exact (pierGet_steady ..).le (State.send_le ..) rfl
  · dsimp only
    exact Steady.ite (lineStore_steady ..) ((lineStore_steady ..).le (State.send_le ..) rfl)
  · exact (adderApply_steady ..).le (State.send_le ..) rfl

theorem acceptReq_steady (s : State) (a : Nat) (r : CReq) : Steady s (acceptReq s a r) := by
  unfold acceptReq
  dsimp only
  have hb := (Steady.refl s).le (bump_le s (unitCtr (homearbBase a) (if 2 ≤ r.kind then 3 else 0)) 1) rfl
  have hm := fun f => hb.le (State.modArb_le _ a f) rfl
  split
  · exact ((hm _).le (sendFwd_le ..) rfl).le (openTrans_le ..) rfl
  · exact ((hm _).next (sendData_steady ..)).le (openTrans_le ..) rfl
  · exact ((hm _).le (sendFwd_le ..) rfl).le (openTrans_le ..) rfl
  · refine Steady.le (Steady.ite ?_ ?_) (openTrans_le ..) rfl
    · exact ((hm _).le (sendInvs_le ..) rfl).next (sendData_steady ..)
    · exact (hm _).le (sendInvs_le ..) rfl
  · exact ((hm _).le (sendFwd_le ..) rfl).le (openTrans_le ..) rfl
  · exact hb.next (tileAccess_steady ..)
  · exact ((hm _).le (sendFwd_le ..) rfl).le (openTrans_le ..) rfl
  · exact Steady.ite ((hm _).next (tileAccess_steady ..)) (((hm _).le (sendInvs_le ..) rfl).le (openTrans_le ..) rfl)

theorem serveHeld_steady (n : Nat) (s : State) (a : Nat) : Steady s (serveHeld n s a) := by
  induction n generalizing s with
  | zero => exact Steady.refl s
  | succ n ih =>
    unfold serveHeld
    dsimp only
    have hm := fun f => (Steady.refl s).le (State.modArb_le s a f) rfl
    split
    · refine Steady.next ?_ (ih _)
      split
      · exact (hm _).le (startEvict_le ..) rfl
      · exact (hm _).next (acceptReq_steady ..)
    · split
      · exact Steady.refl s
      · exact Steady.ite (Steady.refl s) ((hm _).next (ih _))

theorem arbReq_steady (s : State) (r : CReq) : Steady s (arbReq s r) :=
  ((Steady.refl s).le (State.modArb_le s (homeArb r.line) _) rfl).next (serveHeld_steady ..)

theorem cohWrite_steady (s : State) (addr : Nat) (bytes : List Byte) : Steady s (cohWrite s addr bytes).1 := by
  unfold cohWrite
  refine Steady.foldlFst (Steady.refl s) fun y cw h => ?_
  dsimp only
  split
  · exact h.next (arbReq_steady ..)
  · exact ((h.next (cohPurge_steady ..)).le (countTileReq_le ..) rfl).next (lineStore_steady ..)

/-! ### Ports -/

theorem leavePort_steady (x : Nat) (e : Nat × Nat × Out) (s : State) : Steady s (leavePort x e s) :=
  (modPort_steady s x _).le (State.send_le ..) rfl

theorem drainPort_steady (x n : Nat) (s : State) : Steady s (drainPort x n s) := by
  induction n generalizing s with
  | zero => exact Steady.refl s
  | succ n ih =>
    unfold drainPort
    split
    · exact Steady.refl s
    · exact (leavePort_steady ..).next (ih _)

theorem creditBack_steady (x vc : Nat) (s : State) : Steady s (creditBack x vc s) :=
  Steady.ite (Steady.refl s) ((modPort_steady ..).le (State.takeFree_le _) rfl)

theorem ackBack_steady (x : Nat) (s : State) : Steady s (ackBack x s) :=
  Steady.ite (Steady.refl s) ((modPort_steady ..).le (State.takeFree_le _) rfl)

theorem pumpPort_steady (x : Nat) (s : State) : Steady s (pumpPort x s) := by
  unfold pumpPort
  refine Steady.ite (Steady.refl s) (Steady.next ?_ (drainPort_steady ..))
  exact Steady.forEach (ackBack_steady x s) fun _ _ h => h.next (creditBack_steady ..)

theorem emit_steady (s : State) (x vc n : Nat) (o : Out) : Steady s (emit s x vc n o) :=
  (modPort_steady s x _).next (pumpPort_steady ..)

theorem sendCtrl_steady (s : State) (port : Nat) (o : Out) : Steady s (sendCtrl s port o) :=
  ((Steady.refl s).le (bump_le s (unitCtr (oportBase port) 0) 1) rfl).next (emit_steady ..)

theorem emitPkt_steady (s : State) (x : Nat) (p : Pkt) : Steady s (emitPkt s x p) := emit_steady ..

theorem slotTick_steady (x : Nat) (s : State) : Steady s (slotTick x s) :=
  (Steady.forEach (modPort_steady s x _) fun _ _ h => h.next (emitPkt_steady ..)).next (pumpPort_steady ..)

theorem portTick_steady (x : Nat) (s : State) : Steady s (portTick x s) := (modPort_steady s x _).next (slotTick_steady ..)

theorem originate_steady (s : State) (x : Nat) (p : Pkt) : Steady s (originate s x p) := by
  unfold originate
  dsimp only
  have hb := (Steady.refl s).le (bump_le s (unitCtr (oportBase x) 0) (flitsOf p)) rfl
  split
  · exact hb.next (emitPkt_steady ..)
  · have hm := fun f => hb.next (modPort_steady _ x f)
    exact Steady.ite ((hm _).next (emitPkt_steady ..)) (((hm _).next (modPort_steady ..)).le (bump_le ..) rfl)

theorem sendHop_steady (s : State) (arr : Option Nat) (p : Pkt) (x : Nat) (detour : Bool) : Steady s (sendHop s arr p x detour) := by
  unfold sendHop
  extract_lets q s₁ s₂
  have h₁ : Steady s s₁ := (Steady.refl s).when fun u hu => hu.le (bump_le ..) rfl
  have h₂ : Steady s s₂ := h₁.when fun u hu => hu.le (bump_le ..) rfl
  exact Steady.ite ((h₂.le (bump_le ..) rfl).next (emitPkt_steady ..)) (h₂.next (originate_steady ..))

/-! ### Trace, freezes and snapshots at a boundary -/

theorem writeTraceLine_steady (s : State) (p : Nat) : Steady s (writeTraceLine s p) :=
  (((Steady.refl s).le (State.takeFree_le _) rfl).next (writePool_steady ..)).le (State.setTraceUnit_le ..) rfl

theorem writeRecords_steady (n : Nat) (s : State) (p budget : Nat) : Steady s (writeRecords n s p budget) := by
  induction n generalizing s budget with
  | zero => exact Steady.refl s
  | succ n ih =>
    unfold writeRecords
    dsimp only
    split
    · exact Steady.refl s
    · have hu := fun u => (Steady.refl s).le (State.setTraceUnit_le s p u) rfl
      refine Steady.ite (Steady.refl s) (Steady.ite (Steady.refl s) (Steady.ite ?_ ((hu _).next (ih ..))))
      exact ((hu _).next (writeTraceLine_steady ..)).next (ih ..)

theorem traceTick_steady (p : Nat) (s : State) : Steady s (traceTick p s) := by
  unfold traceTick
  dsimp only
  have hg := (Steady.refl s).le (gatherTrace_le s p) rfl
  refine Steady.ite (Steady.refl s) (Steady.next (Steady.ite hg ?_) (writeRecords_steady ..))
  exact (hg.le (State.setTraceUnit_le ..) rfl).le (State.modTalcy_le ..) rfl

theorem padLine_steady (s : State) (p : Nat) : Steady s (padLine s p) := Steady.ite (Steady.refl s) (writeTraceLine_steady ..)

theorem machineFreeze_steady (s : State) (tick : Nat) (thaw : Bool) : Steady s (machineFreeze s tick thaw) := by
  unfold machineFreeze
  refine Steady.le (Steady.forEach ((Steady.refl s).le (State.modCtrs_le ..) rfl) fun x u h => ?_) (scheduleFreeze_le ..) rfl
  exact h.next (sendCtrl_steady ..)

theorem fireTrigger_steady (s : State) (code tag : Nat) : Steady s (fireTrigger s code tag) := by
  unfold fireTrigger
  extract_lets y
  split
  case isTrue => exact Steady.refl s
  case isFalse share s₁ mark s₂ s₃ _ =>
    have h₂ : Steady s s₂ := Steady.forEach ((Steady.refl s).le (State.modTalcy_le ..) rfl) fun p u hu =>
      (hu.next (padLine_steady ..)).le (State.setTraceUnit_le ..) rfl
    have h₃ : Steady s s₃ := h₂.le (raiseHost_le ..) rfl
    exact Steady.ite (h₃.next (machineFreeze_steady ..)) h₃

theorem applyFreeze_steady (b : Nat) (x : Nat × Bool × Bool) (s : State) : Steady s (applyFreeze b x s) := by
  unfold applyFreeze
  extract_lets s₁
  have h₁ : Steady s s₁ := Steady.ite (((Steady.refl s).le (State.modCtrs_le ..) rfl).le (logEvent_le ..) rfl) (Steady.refl s)
  split
  case isTrue => exact h₁
  case isFalse s₂ _ =>
    have h₂ : Steady s s₂ := h₁.le (State.modCtrs_le ..) rfl
    exact Steady.ite h₂ (h₂.next (fireTrigger_steady ..))

theorem applyFreezes_steady (b : Nat) (s : State) : Steady s (applyFreezes b s) :=
  Steady.forEach (Steady.forEach ((Steady.refl s).le (State.modCtrs_le ..) rfl) fun _ _ h => h.next (applyFreeze_steady ..))
    fun _ _ h => h.next (applyFreeze_steady ..)

theorem writeBuffer_steady (s : State) (c rptr : Nat) (d : List Byte) : Steady s (writeBuffer s c rptr d) := by
  unfold writeBuffer
  split
  · exact cohWrite_steady ..
  · exact (Steady.refl s).le (State.send_le ..) rfl
  · exact (Steady.refl s).le (State.modBelul_le ..) rfl

theorem replyFinal_steady (s : State) (c n : Nat) (p : Picked) (status : Nat) (d : List (Nat × Nat)) :
    Steady s (replyFinal s c n p status d) := by
  unfold replyFinal
  extract_lets short s₁ r s₂ s₃
  have h₁ : Steady s s₁ := Steady.ite (writeBuffer_steady ..) (Steady.refl s)
  have h₃ : Steady s s₃ := (h₁.le (putReply_le ..) rfl).le (State.modSlot_le ..) rfl
  exact Steady.ite (h₃.le (replyIrq_le ..) rfl) h₃

theorem takeSnapshots_steady (b : Nat) (s : State) : Steady s (takeSnapshots b s) := by
  unfold takeSnapshots
  refine Steady.forEach ((Steady.refl s).le (State.modCtrs_le ..) rfl) fun x u hu => ?_
  dsimp only
  have ht : Steady s (forEach (snapSet x.2.2.1 x.2.2.2.1) timeCtr u) := Steady.forEach hu fun _ _ h => h.le (timeCtr_le ..) rfl
  split
  · exact ht.next (replyFinal_steady ..)
  · exact ht

theorem observeTick_steady (s : State) (n : Nat) : Steady s (observeTick s n) := by
  unfold observeTick
  extract_lets s₁ s₂ s₃ s₄
  have h₁ : Steady s s₁ := (Steady.refl s).forEach fun x u hu => hu.le (flushSpace_le ..) rfl
  have h₂ : Steady s s₂ := (h₁.next (applyFreezes_steady ..)).next (takeSnapshots_steady ..)
  have h₃ : Steady s s₃ := h₂.when fun u hu => hu.next (fireTrigger_steady ..)
  have h₄ : Steady s s₄ := Steady.ite (h₃.forEach fun t u hu => hu.le (tileTick_le ..) rfl) h₃
  exact h₄.forEach fun p u hu => hu.next (traceTick_steady ..)

/-! ### The job at a boundary -/

theorem endColl_steady (s : State) (c : Coll) (status cause detail : Nat) : Steady s (endColl s c status cause detail) := by
  unfold endColl
  extract_lets w s₁ s₂ t
  have h₁ : Steady s s₁ := writePool_steady ..
  have h₂ : Steady s s₂ := Steady.ite h₁ (h₁.next (adderApply_steady ..))
  exact Steady.ite (h₂.le (raiseSrc_le ..) rfl) h₂

theorem floodOut_steady (s : State) (bound origin kind cause : Nat) : Steady s (floodOut s bound origin kind cause) :=
  Steady.forEach ((Steady.refl s).le (State.modJob_le ..) rfl) fun _ _ h => h.next (sendCtrl_steady ..)


theorem leaveFailed_steady (s : State) (cause : Nat) : Steady s (leaveFailed s cause) :=
  (((floodOut_steady s _ _ _ _).le (State.modJob_le ..) rfl).forEach fun _ _ hu => hu.next (endColl_steady ..)).le (State.modJob_le ..) rfl

theorem markLate_steady (s : State) : Steady s (markLate s) := by
  unfold markLate
  dsimp only
  split
  · exact (Steady.refl s).le (State.modJob_le ..) rfl
  · exact (((Steady.refl s).le (State.modJob_le ..) rfl).next (floodOut_steady ..)).le (lateMark_le ..) rfl

theorem Coll.trigger_steady (s : State) (c : Coll) : Steady s (c.trigger s).1 := by
  unfold Coll.trigger
  split
  · exact Steady.refl s
  · exact readPool_steady ..

theorem Coll.contribution_steady (s : State) (c : Coll) : Steady s (c.contribution s).1 := by
  unfold Coll.contribution
  split
  · exact Steady.refl s
  · split
    · exact Steady.refl s
    · exact readPool_steady ..

theorem tryTrigger_steady (seq : Nat) (s : State) : Steady s (tryTrigger seq s) := by
  unfold tryTrigger
  dsimp only
  split
  · exact Steady.refl s
  · rename_i c _
    have ht := Coll.trigger_steady s c
    have hc := ht.next (Coll.contribution_steady _ c)
    have hw := hc.next (writePool_steady _ c.dst (c.contribution (c.trigger s).1).2.1)
    exact Steady.ite (Steady.refl s) (Steady.ite ht (Steady.ite (hc.next (leaveFailed_steady ..))
      (Steady.ite (hw.next (leaveFailed_steady ..)) (hw.le (modColl_le ..) rfl))))

theorem collPkt_steady (s : State) (c : Coll) (k ring step to_ : Nat) (e : Nat × Nat) : Steady s (collPkt s c k ring step to_ e).1 :=
  (readPool_steady ..).le (addressed_le ..) rfl

theorem sendStep_steady (s : State) (c : Coll) (x : CStep) (pl : CPlan) : Steady s (sendStep s c x pl) := by
  unfold sendStep
  extract_lets r want y s₁ all
  have h₁ : Steady s s₁ := Steady.foldlFst (Steady.refl s) fun z e hz => hz.next (collPkt_steady ..)
  exact Steady.ite (h₁.next (leaveFailed_steady ..))
    ((h₁.le (modColl_le ..) rfl).forEach fun e u hu => hu.next (sendHop_steady ..))

theorem combineContrib_steady (op : BitVec 8) (es n : Nat) (s : State) (addr : Nat) (data : List Byte) (f : EFlags) :
    Steady s (combineContrib op es n s addr data f).1 := by
  induction n generalizing s addr data f with
  | zero => exact Steady.refl s
  | succ n ih =>
    unfold combineContrib
    dsimp only
    split
    · exact Steady.refl s
    · split
      · exact adderApply_steady ..
      · exact (adderApply_steady ..).next (ih ..)

theorem takePkt_steady (s : State) (c : Coll) (x : CStep) (p : Pkt) : Steady s (takePkt s c x p) :=
  Steady.ite ((combineContrib_steady ..).next (leaveFailed_steady ..)) ((combineContrib_steady ..).le (modColl_le ..) rfl)

theorem collTurn_steady {s t : State} (h : collTurn s = some t) : Steady s t := by
  unfold collTurn at h
  dsimp only at h
  split at h
  · cases h
    exact sendStep_steady ..
  · obtain ⟨e, -, rfl⟩ := Option.map_eq_some_iff.mp h
    exact ((Steady.refl s).le (State.modJob_le ..) rfl).next (takePkt_steady ..)

theorem pumpColl_steady (n : Nat) (s : State) : Steady s (pumpColl n s) := by
  induction n generalizing s with
  | zero => exact Steady.refl s
  | succ n ih =>
    unfold pumpColl
    dsimp only
    have hm := fun f => (Steady.refl s).le (State.modJob_le s f) rfl
    split
    · exact hm _
    · rename_i t ht
      exact ((hm _).next (collTurn_steady ht)).next (ih t)

theorem jobTick_steady (s : State) (start : Bool) : Steady s (jobTick s start) := by
  unfold jobTick
  extract_lets n held s₁ s₂ s₃ s₄
  have h₁ : Steady s s₁ := (Steady.refl s).le (State.modJob_le ..) rfl
  have h₂ : Steady s s₂ := Steady.ite h₁ (h₁.forEach fun x u hu => hu.le (beginColl_le ..) rfl)
  have h₃ : Steady s s₃ := h₂.forEach fun seq u hu => hu.next (tryTrigger_steady ..)
  have h₄ : Steady s s₄ := Steady.ite h₃ (h₃.le (scheduleSteps_le ..) rfl)
  exact h₄.next (pumpColl_steady ..)

theorem enterDebug_steady (s : State) (t cause : Nat) : Steady s (enterDebug s t cause) := by
  unfold enterDebug
  dsimp only
  refine Steady.ite ?_ ((Steady.refl s).le (askHalt_le ..) rfl)
  exact ((((Steady.refl s).le (State.modTile_le ..) rfl).le (startDrain_le ..) rfl).le (traceTile_le ..) rfl).next (fireTrigger_steady ..)

theorem groupHalt_steady (halt : Bool) (s : State) : Steady s (groupHalt halt s) :=
  Steady.forEach ((Steady.refl s).le (State.modJob_le ..) rfl) fun _ _ h =>
    Steady.ite (h.next (enterDebug_steady ..)) (h.le (resumeRequest_le ..) rfl)

theorem jobBoundary_steady (s : State) : Steady s (jobBoundary s) := by
  unfold jobBoundary
  extract_lets n s₁ start s₂
  have h₁ : Steady s s₁ := (Steady.refl s).le (State.modJob_le ..) rfl
  have h₂ : Steady s s₂ := Steady.ite (h₁.le (State.modJob_le ..) rfl) h₁
  split
  case isTrue => exact h₂
  case isFalse due s₃ s₄ _ =>
    have h₃ : Steady s s₃ := h₂.le (State.modJob_le ..) rfl
    have h₄ : Steady s s₄ := h₃.forEach fun e u hu => hu.next (groupHalt_steady ..)
    exact (Steady.ite h₄ (h₄.next (markLate_steady _))).next (jobTick_steady ..)

end Sys2Proof.Machine
end

section
/-!
PROOFS. The boundary of the span tick and its power control (R17, R226, R296, R350), and what a port with nothing waiting sends (R282).
-/

namespace Sys2Proof.Machine
open Sys2Proof

/-! ### Frames read from masks -/

/-- A part outside the mask of an operation is the same after it. -/
theorem Le.same {m : Nat} {s t : State} (h : Le m s t) (p : Part) (hp : m.testBit p.code = false) : Same p s t := h.1 p hp

/-- One operation after another, within a mask. -/
theorem Le.then {m n : Nat} {s t u : State} (h : Le m s t) (g : Le n t u) (hm : n ||| m = m) : Le m s u := Le.next g hm h

/-- The mask of every part but the span tick and power control. -/
def offTickAndPower : Nat := 1073602559

theorem offTickAndPower_eq : offTickAndPower = partMask (partList.filter fun p => p ≠ .tick && p ≠ .power) := by decide

/-! ### Power at a boundary (R350) -/

/-- Two states agree in the estimate, the floor and the grant. -/
def SameGrant (s t : State) : Prop :=
  t.power.estimate = s.power.estimate ∧ t.power.floor = s.power.floor ∧ t.power.grant = s.power.grant

theorem SameGrant.refl (s : State) : SameGrant s s := ⟨rfl, rfl, rfl⟩

theorem SameGrant.next {s t u : State} (h : SameGrant s t) (g : SameGrant t u) : SameGrant s u := by
  obtain ⟨he, hf, hg⟩ := h
  obtain ⟨ge, gf, gg⟩ := g
  exact ⟨ge.trans he, gf.trans hf, gg.trans hg⟩

theorem SameGrant.le {m : Nat} {s t u : State} (h : SameGrant s t) (g : Le m t u)
    (hm : m.testBit Part.power.code = false ) : SameGrant s u := by
  have hp : u.power = t.power := g.same .power hm
  exact h.next ⟨by rw [hp], by rw [hp], by rw [hp]⟩

theorem SameGrant.modDeck {s t : State} (h : SameGrant s t) (d : Nat) (f : Deck → Deck) : SameGrant s (t.modDeck d f) :=
  h.next ⟨rfl, rfl, rfl⟩

theorem SameGrant.forEach {α : Type} {s t : State} {f : α → State → State} {l : List α} (h : SameGrant s t)
    (hf : ∀ x u, SameGrant s u → SameGrant s (f x u)) : SameGrant s (Machine.forEach l f t) :=
  forEach_keeps h fun x _ u hu => hf x u hu

/-- Without new settings a boundary applies none (R361, R366). -/
theorem applySettings_none {s : State} (hm : s.power.managedPend = false) (hc : s.power.newCap = none) : applySettings s = s := by
  simp [applySettings, hm, hc]

theorem applySettings_steady (s : State) : Steady s (applySettings s) := by
  unfold applySettings
  extract_lets s₁
  have h₁ : Steady s s₁ := Steady.ite
    (((Steady.refl s).le (State.modPower_le ..) rfl).forEach fun p u hu => hu.next (modPier_steady fun _ => ⟨rfl, rfl⟩)) (Steady.refl s)
  split
  · exact h₁.le (State.modPower_le ..) rfl
  · exact h₁

/-- The boundary's estimate and floor are its operands, and a manager that runs grants the largest that fits the allowance, at least 1. -/
theorem applyGrant_power (s : State) (predict : List Nat) (estimate floor : Nat) :
    (applyGrant s predict estimate floor).power.estimate = estimate ∧ (applyGrant s predict estimate floor).power.floor = floor ∧
      (s.power.managed = true →
        (applyGrant s predict estimate floor).power.grant = max 1 (largestGrant predict (allowance s.power))) := by
  unfold applyGrant
  extract_lets a grant bound s₁
  split
  case isTrue hm =>
    have hoff : s.power.managed = false := by simpa [s₁] using hm
    exact ⟨rfl, rfl, fun hon => absurd hon (by simp [hoff])⟩
  case isFalse entered s₂ s₃ _ =>
    have h₃ : SameGrant s₂ s₃ := by
      unfold s₃
      split
      · exact (SameGrant.refl s₂).forEach fun d u hu => hu.modDeck ..
      · exact SameGrant.refl s₂
    have hend : SameGrant s₂ (if entered then logEvent s₃ 0x0504 0 dieModule [floor] else s₃) := by
      split
      · exact h₃.le (logEvent_le ..) rfl
      · exact h₃
    obtain ⟨he, hf, hg⟩ := hend
    exact ⟨he, hf, fun _ => hg⟩

theorem applyClocks_sameGrant (s : State) : SameGrant s (applyClocks s) := by
  unfold applyClocks
  extract_lets s₁
  have h₁ : SameGrant s s₁ := (SameGrant.refl s).forEach fun d u hu => hu.modDeck ..
  exact SameGrant.forEach (h₁.next ⟨rfl, rfl, rfl⟩) fun e u hu => hu.le (State.modCluster_le ..) rfl

/-- After the grant, power control at a boundary leaves it alone. -/
theorem powerTick_sameGrant (s : State) (predict : List Nat) (estimate floor : Nat) :
    SameGrant (applyGrant (applySettings s) predict estimate floor) (powerTick s predict estimate floor) := by
  unfold powerTick
  extract_lets s₁ s₂ s₃ s₄
  have h₂ : SameGrant s₁ s₂ := (SameGrant.refl s₁).forEach fun d u hu => hu.modDeck ..
  have h₄ : SameGrant s₁ s₄ := h₂.next ⟨rfl, rfl, rfl⟩
  split
  · exact h₄.next (applyClocks_sameGrant _)
  · exact h₄

theorem powerTick_power (s : State) (predict : List Nat) (estimate floor : Nat) :
    (powerTick s predict estimate floor).power.estimate = estimate ∧ (powerTick s predict estimate floor).power.floor = floor ∧
      (s.power.managed = true → s.power.managedPend = false → s.power.newCap = none →
        (powerTick s predict estimate floor).power.grant = max 1 (largestGrant predict (allowance s.power))) := by
  obtain ⟨he, hf, hg⟩ := powerTick_sameGrant s predict estimate floor
  obtain ⟨ge, gf, gg⟩ := applyGrant_power (applySettings s) predict estimate floor
  refine ⟨he.trans ge, hf.trans gf, fun hon hpend hcap => ?_⟩
  rw [applySettings_none hpend hcap] at gg hg
  exact hg.trans (gg hon)

theorem powerTick_steady (s : State) (predict : List Nat) (estimate floor : Nat) : Steady s (powerTick s predict estimate floor) := by
  unfold powerTick
  extract_lets s₁ s₂ s₃ s₄
  have h₁ : Steady s s₁ := (applySettings_steady s).le (applyGrant_le ..) rfl
  have h₂ : Steady s s₂ := h₁.forEach fun d u hu => hu.le (State.modDeck_le ..) rfl
  have h₃ : Steady s s₃ := (h₂.le (State.modPower_le ..) rfl).le (State.takeFree_le _) rfl
  have h₄ : Steady s s₄ := (h₃.le (State.modPower_le ..) rfl).le (State.takeFree_le _) rfl
  exact Steady.ite (h₄.le (applyClocks_le _) rfl) h₄

/-! ### The boundary (R17, R226, R296) -/

/-- A function applied to each listed pier once. -/
theorem forEach_modPier_pier {l : List Nat} (hl : l.Nodup) (f : Pier → Pier) (s : State) {p : Nat} (hp : p ∈ l) :
    (forEach l (fun q s => s.modPier q f) s).pier p = f (s.pier p) := by
  induction l generalizing s with
  | nil => cases hp
  | cons q r ih =>
    obtain ⟨hq, hr⟩ := List.nodup_cons.mp hl
    rw [forEach_cons]
    rcases List.mem_cons.mp hp with rfl | hp
    · have hkeep : ∀ u : State, (forEach r (fun q s => s.modPier q f) u).pier p = u.pier p := fun u =>
        forEach_keeps (P := fun v => v.pier p = u.pier p) rfl fun q' hq' v hv => by
          rw [State.modPier_pier_ne _ _ _ _ (ne_of_mem_of_not_mem hq' hq).symm, hv]
      rw [hkeep, State.modPier_pier]
    · rw [ih hr _ hp, State.modPier_pier_ne _ _ _ _ (ne_of_mem_of_not_mem hp hq)]

/-- A boundary of a running tick: its number and the count of boundaries rise by one, and power control has what `powerTick` gives it. -/
theorem doSpanTickBoundary_tick_power (predict : List Nat) (estimate floor : Nat) {s : State} (hrun : s.tick.running = true) :
    let u := doSpanTickBoundary predict estimate floor s
    u.tick = { s.tick with num := s.tick.num + 1, boundaries := s.tick.boundaries + 1 } ∧
    u.power.estimate = estimate ∧ u.power.floor = floor ∧
    (s.power.managed = true → s.power.managedPend = false → s.power.newCap = none →
      u.power.grant = max 1 (largestGrant predict (allowance s.power))) := by
  unfold doSpanTickBoundary
  rw [if_neg (by simp [hrun])]
  extract_lets s₁ s₂ s₃ s₄ s₅ s₆ s₇ u
  have before : Le offTickAndPower s₁ s₆ := by
    have h₂ : Le offTickAndPower s₁ s₂ := ((Le.refl _ s₁).then (showPositions_le _) rfl).then (observeTick_le ..) rfl
    have h₃ : Le offTickAndPower s₁ s₃ := h₂.forEach fun p v hv => hv.then (State.modPier_le ..) rfl
    have h₄ : Le offTickAndPower s₁ s₄ := h₃.forEach fun x v hv => hv.then (portTick_le ..) rfl
    have h₅ : Le offTickAndPower s₁ s₅ := h₄.then (State.modNode_le _ _ fun h => NodeOk.setRems h _) rfl
    exact h₅.forEach fun e v hv => hv.then (trainPair_le ..) rfl
  have after : Le offTickAndPower (powerTick s₆ predict estimate floor) u :=
    ((Le.refl _ _).then (jobBoundary_le _) rfl).forEach fun p v hv => hv.then (sendCtrl_le ..) rfl
  have htick₁ : s₁.tick = { s.tick with num := s.tick.num + 1, boundaries := s.tick.boundaries + 1 } := rfl
  have htick₆ : s₆.tick = s₁.tick := before.same .tick rfl
  have htick₇ : (powerTick s₆ predict estimate floor).tick = s₆.tick := (powerTick_le ..).same .tick rfl
  have htick : u.tick = (powerTick s₆ predict estimate floor).tick := after.same .tick rfl
  have hpow₆ : s₆.power = s.power := before.same .power rfl
  have hpow : u.power = (powerTick s₆ predict estimate floor).power := after.same .power rfl
  clear_value s₁ s₆ u
  refine ⟨by rw [htick, htick₇, htick₆, htick₁], ?_⟩
  rw [hpow, ← hpow₆]
  exact powerTick_power ..

/-- A boundary of a running tick: ways that were enabled are powered, and every waiting request grows a tick older. -/
theorem doSpanTickBoundary_ways_rems (predict : List Nat) (estimate floor : Nat) {s : State} (hrun : s.tick.running = true) :
    let u := doSpanTickBoundary predict estimate floor s
    (∀ p, p < 4 → (u.pier p).powered = (s.pier p).powered ||| (s.pier p).enablePend ∧ (u.pier p).enablePend = 0) ∧
    u.node.rems = s.node.rems.map (fun r => { r with age := r.age + 1 }) := by
  unfold doSpanTickBoundary
  rw [if_neg (by simp [hrun])]
  extract_lets s₁ s₂ s₃ s₄ s₅ s₆ s₇ u
  have h₂ : Steady s s₂ := (((Steady.refl s).le (State.modTick_le ..) rfl).le (showPositions_le _) rfl).next (observeTick_steady ..)
  have h₄ : Steady s₃ s₄ := (Steady.refl s₃).forEach fun x v hv => hv.next (portTick_steady ..)
  have h₆ : Steady s₅ s₆ := (Steady.refl s₅).forEach fun e v hv => hv.le (trainPair_le ..) rfl
  have h₇ : Steady s₅ s₇ := (h₆.next (powerTick_steady ..)).next (jobBoundary_steady _)
  have h₈ : Steady s₅ u := h₇.forEach fun p v hv => hv.next (sendCtrl_steady ..)
  have hrem₃ : s₃.node.rems = s₂.node.rems := forEach_keeps (P := fun v => v.node.rems = s₂.node.rems) rfl fun p _ v hv => hv
  have hway₃ : ∀ p ∈ [0, 1, 2, 3], s₃.pier p = { s₂.pier p with
      powered := (s₂.pier p).powered ||| (s₂.pier p).enablePend, enablePend := 0 } := fun p hp =>
    forEach_modPier_pier (by decide) _ s₂ hp
  have hrem₅ : s₅.node.rems = s₄.node.rems.map fun r => { r with age := r.age + 1 } := by simp only [s₅, State.modNode_node]
  have hpiers₅ : s₅.piers = s₄.piers := by simp only [s₅, State.modNode_piers]
  have hpier₅ : ∀ p, s₅.pier p = s₄.pier p := fun p => by rw [State.pier, State.pier, hpiers₅]
  clear_value s₂ s₃ s₄ s₅ u
  obtain ⟨hrem₂, hway₂⟩ := h₂
  obtain ⟨hrem₄, hway₄⟩ := h₄
  obtain ⟨hrem₈, hway₈⟩ := h₈
  refine ⟨fun p hp => ?_, by rw [hrem₈, hrem₅, hrem₄, hrem₃, hrem₂]⟩
  obtain ⟨hpow₂, hpend₂⟩ := hway₂ p
  obtain ⟨hpow₄, hpend₄⟩ := hway₄ p
  obtain ⟨hpow₈, hpend₈⟩ := hway₈ p
  have hset := hway₃ p (by simp; omega)
  exact ⟨by rw [hpow₈, hpier₅, hpow₄, hset, hpow₂, hpend₂], by rw [hpend₈, hpier₅, hpend₄, hset]⟩

/-! ### A port with nothing waiting (R282, R284) -/

/-- A port has nothing queued, no credit in use and nothing unacknowledged. -/
def OPort.Quiet (o : OPort) : Prop := o.queue = [] ∧ o.used = [] ∧ o.unacked = []

/-- A node that carries CTRL packets on a port with one entry queued and all credit free sends that entry next. -/
theorem OPort.turn_ctrl {o : OPort} {y : Out} (hst : 2 ≤ o.st) (hq : o.queue = [(vcCtrl, 1, y)]) (hu : o.used = [])
    (ha : o.unacked = []) : o.turn = some (vcCtrl, 1, y) := by
  have hmay : o.maySend (vcCtrl, 1, y) = true := by
    simp [OPort.maySend, OPort.credit, OPort.kept, hu, ha, vcCtrl, vcFlits, Tab.get, hst]
  have hready : o.ready = [(vcCtrl, 1, y)] := by simp [OPort.ready, hq, hmay]
  simp [OPort.turn, hready, vcCtrl]

/-- What is queued on a port with nothing else waiting leaves at once. -/
theorem pumpPort_single {s : State} {x : Nat} {y : Out} (hst : 2 ≤ (s.port x).st) (hq : (s.port x).queue = [(vcCtrl, 1, y)])
    (hu : (s.port x).used = []) (ha : (s.port x).unacked = []) : pumpPort x s = leavePort x (vcCtrl, 1, y) s := by
  have hack : ackBack x s = s := by simp [ackBack, ha]
  have hcred : creditBack x vcCtrl s = s := by simp [creditBack, hu, Tab.get]
  simp [pumpPort, hq, hack, hcred, drainPort, OPort.turn_ctrl hst hq hu ha]

@[simp] theorem State.send_port (s : State) (o : Out) (x : Nat) : (s.send o).port x = s.port x := rfl

@[simp] theorem bump_node (s : State) (a n : Nat) : (bump s a n).node = s.node := (bump_le s a n).same .node rfl

@[simp] theorem bump_port (s : State) (a n x : Nat) : (bump s a n).port x = s.port x := by rw [State.port, bump_node]; rfl

@[simp] theorem bump_out (s : State) (a n : Nat) : (bump s a n).out = s.out := (bump_le s a n).same .out rfl

/-- A CTRL packet that starts on a quiet port leaves at once. -/
theorem sendCtrl_quiet {s : State} {x : Nat} (y : Out) (hst : 2 ≤ (s.port x).st) (hquiet : (s.port x).Quiet) :
    sendCtrl s x y = leavePort x (vcCtrl, 1, y)
      ((bump s (unitCtr (oportBase x) 0) 1).modPort x fun p => { p with queue := p.queue ++ [(vcCtrl, 1, y)] }) := by
  obtain ⟨hq, hu, ha⟩ := hquiet
  refine pumpPort_single ?_ ?_ ?_ ?_ <;> rw [State.modPort_port, bump_port]
  · exact hst
  · rw [hq]; rfl
  · exact hu
  · exact ha

/-- It is the next thing that leaves the node. -/
theorem sendCtrl_quiet_out {s : State} {x : Nat} (y : Out) (hst : 2 ≤ (s.port x).st) (hquiet : (s.port x).Quiet)
    (hy : ∀ o, stampOut o vcCtrl y = y) : (sendCtrl s x y).out = y :: s.out := by
  rw [sendCtrl_quiet y hst hquiet]
  exact congr (congrArg List.cons (hy _)) (bump_out ..)

theorem leavePort_syncAt (s : State) (x : Nat) (e : Nat × Nat × Out) : ((leavePort x e s).port x).syncAt = (s.port x).syncAt := by
  unfold leavePort
  dsimp only
  rw [State.send_port, State.modPort_port]

/-- Sending keeps the boundary of the port's last TIMESYNC. -/
theorem sendCtrl_quiet_syncAt {s : State} {x : Nat} (y : Out) (hst : 2 ≤ (s.port x).st) (hquiet : (s.port x).Quiet) :
    ((sendCtrl s x y).port x).syncAt = (s.port x).syncAt := by
  rw [sendCtrl_quiet y hst hquiet, leavePort_syncAt, State.modPort_port, bump_port]

/-- A CTRL packet that arrives: the port notes its number, and an idle flit returns its credit (R280, R284). -/
theorem countCtrl_port (s : State) (x : Nat) :
    ∃ n, (countCtrl s x).port x = { s.port x with rxLast := some n, rxWait := none } := by
  refine ⟨(s.port x).rxNext % 1024, ?_⟩
  unfold countCtrl recvFlits
  dsimp only
  rw [State.send_port, State.modPort_port, bump_port]

theorem countCtrl_out (s : State) (x : Nat) : ∃ h, (countCtrl s x).out = .idle x h :: s.out :=
  ⟨_, congrArg (List.cons _) (bump_out ..)⟩

end Sys2Proof.Machine
end

section
/-!
PROOFS. The statement on the span tick: its boundary, TIMESYNC and HEARTBEAT, the lock states and the loss of the tick
(R17, R302–R305, R319).
-/

namespace Sys2Proof.Machine
open Sys2Proof

/-! ### Events and failures -/

/-- An event is the last of the log, whatever its interrupt raises (R398). -/
theorem logEvent_last (s : State) (code cls die : Nat) (data : List Nat) :
    ((logEvent s code cls die data).events.getLast?.map fun v => (v.code, v.data)) = some (code, data) := by
  unfold logEvent
  extract_lets e s₁
  have hev : (raiseHost s₁ 3).events = s₁.events := ((raiseHost_le s₁ 3).same .events rfl).1
  rw [hev]
  simp only [s₁, List.getLast?_drop]
  rw [if_neg (by simp), List.getLast?_concat]
  rfl

theorem logEvent_tick (s : State) (code cls die : Nat) (data : List Nat) : (logEvent s code cls die data).tick = s.tick :=
  (logEvent_le s code cls die data).same .tick rfl

/-- A FLOOD that starts here is noted, and nothing else of the job changes. -/
theorem floodOut_job (s : State) (bound origin kind cause : Nat) :
    (floodOut s bound origin kind cause).job = { s.job with floods := (bound, origin, s.job.id) :: s.job.floods } := by
  unfold floodOut
  extract_lets s₁
  refine forEach_keeps (P := fun u => u.job = s₁.job) rfl fun p _ u hu => ?_
  have hsend : ∀ o, (sendCtrl u p o).job = u.job := fun o => (sendCtrl_le u p o).same .job rfl
  rw [hsend, hu]

/-- Collectives that a failure ends leave the job, which changes in nothing else. -/
theorem failColls_job (s : State) (origin cause : Nat) : (failColls s origin cause).job = { s.job with posted := [], early := [] } := by
  unfold failColls endAll
  extract_lets cs
  refine forEach_keeps (P := fun u => u.job = { s.job with posted := [], early := [] }) rfl fun c _ u hu => ?_
  have hend : ∀ st ca d, (endColl u c st ca d).job = u.job := fun st ca d => (endColl_le u c st ca d).same .job rfl
  rw [hend, hu]

/-- A node that fails leaves its job without collectives, and its FLOOD is noted under the job it left (R319). -/
theorem leaveFailed_job (s : State) (cause : Nat) :
    let u := leaveFailed s cause
    u.job.st = .failed ∧ u.job.id = 0 ∧ u.job.posted = [] ∧ (s.tick.num.toNat, s.node.phys, s.job.id) ∈ u.job.floods := by
  have hjob := failColls_job (floodOut s s.tick.num.toNat s.node.phys 2 cause) s.node.phys cause
  rw [floodOut_job] at hjob
  unfold leaveFailed
  simp only [State.modJob_job, hjob, List.mem_cons, true_or, and_self]

/-! ### Packets of the tick (R303, R307) -/

/-- A TIMESYNC on a quiet port leaves at once, and its boundary is noted. -/
theorem doTimesyncSend_due {port t1 : Nat} {s : State} (hrun : s.tick.running = true) (hc : s.carries port = true)
    (hb : s.tick.boundaries % 100 = 0) (hnew : (s.port port).syncAt ≠ some s.tick.boundaries) (hquiet : (s.port port).Quiet) :
    (doTimesyncSend port t1 s).out = .timesync port t1 none :: s.out ∧
      ((doTimesyncSend port t1 s).port port).syncAt = some s.tick.boundaries := by
  unfold doTimesyncSend
  rw [if_pos ⟨hrun, hc, hb, hnew⟩]
  have hport := State.modPort_port s port fun o => { o with syncAt := some s.tick.boundaries }
  have hst : 2 ≤ (s.port port).st := of_decide_eq_true hc
  rw [sendCtrl_quiet_out _ (by rw [hport]; exact hst) (by rw [hport]; exact hquiet) (fun _ => rfl),
    sendCtrl_quiet_syncAt _ (by rw [hport]; exact hst) (by rw [hport]; exact hquiet), hport]
  exact ⟨rfl, rfl⟩

theorem doTimesyncSend_not_due {port t1 : Nat} {s : State}
    (h : s.tick.boundaries % 100 ≠ 0 ∨ (s.port port).syncAt = some s.tick.boundaries) : doTimesyncSend port t1 s = s := by
  unfold doTimesyncSend
  refine if_neg fun hd => ?_
  obtain ⟨-, -, hb, hnew⟩ := hd
  exact h.elim (fun hn => hn hb) hnew

/-- A TIMESYNC of the peer is received and answered with its times. -/
theorem doTimesync_answer {port : Nat} {s : State} (hc : s.carries port = true) (hquiet : (s.port port).Quiet) (t1 t2 t3 t4 : Int) :
    ∃ h, (doTimesync port false t1 t2 t3 t4 s).out = .timesync port t1 (some (t2, t3)) :: .idle port h :: s.out := by
  obtain ⟨n, hport⟩ := countCtrl_port s port
  obtain ⟨h, hout⟩ := countCtrl_out s port
  have hst : 2 ≤ (s.port port).st := of_decide_eq_true hc
  refine ⟨h, ?_⟩
  have hdo : doTimesync port false t1 t2 t3 t4 s = sendCtrl (countCtrl s port) port (.timesync port t1 (some (t2, t3))) := by
    simp [doTimesync, hc]
  rw [hdo, sendCtrl_quiet_out _ (by rw [hport]; exact hst) (by rw [hport]; exact hquiet) (fun _ => rfl), hout]

/-- An answer on a port that is not the parent gives the port's delay and leaves the tick. -/
theorem doTimesync_delay {port : Nat} {s : State} (hc : s.carries port = true) (hp : s.tick.parent ≠ some port) (t1 t2 t3 t4 : Int) :
    ((doTimesync port true t1 t2 t3 t4 s).port port).delay = ((t4 - t1) - (t3 - t2)) / 2 ∧
      (doTimesync port true t1 t2 t3 t4 s).tick = s.tick := by
  have htick : (countCtrl s port).tick = s.tick := (countCtrl_le s port).same .tick rfl
  have hdo : doTimesync port true t1 t2 t3 t4 s =
      (countCtrl s port).modPort port fun o => { o with delay := ((t4 - t1) - (t3 - t2)) / 2 } := by
    simp [doTimesync, hc, htick, hp]
  rw [hdo, State.modPort_port, State.modPort_tick]
  exact ⟨rfl, htick⟩

/-- A HEARTBEAT without LATE gives the port its neighbour's tick, address and flag. -/
theorem doHeartbeat_port {port : Nat} {s : State} {h : Heartbeat} (hc : s.carries port = true) (hl : h.late = false) :
    (doHeartbeat port h s).port port = { (countCtrl s port).port port with
      peerTick := BitVec.ofNat 64 h.tick, nbPhys := some h.phys, silent := 0, slow := h.slow } := by
  unfold doHeartbeat
  rw [if_neg (by simp [hc])]
  extract_lets s₁ s₂
  rw [if_neg (by simp [hl])]
  have hport : s₂.port port = s₁.port port := rfl
  exact hport.trans (State.modPort_port ..)

/-! ### Lock states (R302, R305) -/

theorem doParentUsable_unlocked {port : Nat} {s : State} (hrun : s.tick.running = true) (hl : s.listed port = true) (hst : s.tick.st = 0)
    (num : W64) :
    doParentUsable port num s = { s with tick := { s.tick with st := 1, parent := some port, num := num } } := by
  simp [doParentUsable, hrun, hl, State.modTick, hst]

theorem doParentUsable_holdover {port : Nat} {s : State} (hrun : s.tick.running = true) (hl : s.listed port = true) (hst : s.tick.st = 3)
    (num : W64) :
    doParentUsable port num s = { s with tick := { s.tick with st := 2, aligned := true, parent := some port } } := by
  simp [doParentUsable, hrun, hl, State.modTick, hst]

theorem doTickLockAcquired_acquiring {s : State} (hrun : s.tick.running = true) (hst : s.tick.st = 1) :
    doTickLockAcquired s = { s with tick := { s.tick with st := 2, aligned := true } } := by
  simp [doTickLockAcquired, hrun, hst, State.modTick]

/-- A node with a parent, in a state other than UNLOCKED, has a parent to lose. -/
theorem not_parentless {s : State} (hp : s.tick.parent ≠ none) (hst : s.tick.st ≠ 0) :
    ¬ (s.tick.parent.isNone = true ∨ s.tick.st = 0) := by
  simp [hp, hst]

theorem doParentLost_none {s : State} (hp : s.tick.parent ≠ none) (hst : s.tick.st ≠ 0) :
    doParentLost none s = { s with tick := { s.tick with st := 3, parent := none } } :=
  if_neg (not_parentless hp hst)

theorem doParentLost_some {s : State} (hp : s.tick.parent ≠ none) (hst : s.tick.st ≠ 0) {port : Nat} (hl : s.listed port = true) :
    doParentLost (some port) s = { s with tick := { s.tick with parent := some port } } :=
  (if_neg (not_parentless hp hst)).trans (if_pos hl)

theorem doHoldoverUnaligned_aligned {s : State} (hst : s.tick.st = 3) (ha : s.tick.aligned = true) :
    doHoldoverUnaligned s = logEvent (s.modTick fun k => { k with aligned := false }) 0x0401 3 dieModule [s.tick.err.toNat] :=
  if_pos ⟨hst, ha⟩

theorem doTickLost_member {s : State} (hst : s.tick.st = 3) (hm : s.job.member = true) : doTickLost s = leaveFailed s fcTickLost :=
  if_pos ⟨hst, hm⟩

theorem doTickLost_not_holdover {s : State} (hst : s.tick.st ≠ 3) : doTickLost s = s := if_neg fun h => hst h.1

/-! ### The statement -/

/-- The operands of a boundary pass their check (R17). -/
theorem okBoundary_of {predict : List Nat} {estimate floor : Nat} (hp : predict.length = 64) (he : estimate < 65536) (hf : floor < 65536) :
    (predict.length == 64 && decide (estimate < 65536) && decide (floor < 65536)) = true := by
  simp [hp, he, hf]

/-- Settles O43: a boundary's operations leave alone what the statement reads except where the boundary itself sets it; each other
command is taken at the branch that its hypotheses select. -/
theorem tickAtBoundary : Obligations.TickAtBoundary := by
  unfold Obligations.TickAtBoundary
  refine ⟨fun predict estimate floor s hp he hf => ?boundary, fun port s hport => ?rest⟩
  case boundary =>
    have hexec : exec (.spanTickBoundary predict estimate floor) s = .next (doSpanTickBoundary predict estimate floor s) :=
      require_of (okBoundary_of hp he hf)
    refine ⟨fun hrun => .of_eq hexec ?_, fun hoff => hexec.trans ?_⟩
    · obtain ⟨htick, hest, hfloor, hgrant⟩ := doSpanTickBoundary_tick_power predict estimate floor hrun
      obtain ⟨hways, hrems⟩ := doSpanTickBoundary_ways_rems predict estimate floor hrun
      rw [htick, hrems, List.map_map]
      exact ⟨rfl, rfl, rfl, hways, rfl, hest, hfloor, hgrant⟩
    · simp [doSpanTickBoundary, hoff]
  case rest =>
    have hok := okPort_of hport
    refine ⟨fun hrun hc t1 ht => ?send, fun hc t1 t2 t3 t4 => ?sync, fun hc h hphys hl => ?beat, fun hrun hl hst num => ?usable,
      fun hrun hl hst num => ?again, fun hrun hst => ?lock, fun hpar hst => ?lost, fun hst ha => ?unaligned, fun hst hm => ?failed,
      fun hst => ?stays⟩
    case send =>
      have hexec : exec (.timesyncSend port t1) s = .next (doTimesyncSend port t1 s) :=
        require_of (by rw [hok, decide_eq_true ht]; rfl)
      exact ⟨fun hb hnew hquiet => .of_eq hexec (doTimesyncSend_due hrun hc hb hnew hquiet),
        fun h => hexec.trans (congrArg _ (doTimesyncSend_not_due h))⟩
    case sync =>
      have hexec : ∀ reply, exec (.timesync port reply t1 t2 t3 t4) s = .next (doTimesync port reply t1 t2 t3 t4 s) :=
        fun _ => require_of hok
      exact ⟨fun hquiet => .of_eq (hexec _) (doTimesync_answer hc hquiet t1 t2 t3 t4),
        fun hpar => .of_eq (hexec _) (doTimesync_delay hc hpar t1 t2 t3 t4)⟩
    case beat =>
      refine .of_eq (require_of (by rw [hok, decide_eq_true hphys]; rfl)) ?_
      rw [doHeartbeat_port hc hl]
      exact ⟨rfl, rfl, rfl, rfl⟩
    case usable => exact (require_of hok).trans (congrArg _ (doParentUsable_unlocked hrun hl hst num))
    case again => exact (require_of hok).trans (congrArg _ (doParentUsable_holdover hrun hl hst num))
    case lock => exact (require_of rfl).trans (congrArg _ <| doTickLockAcquired_acquiring hrun hst)
    case lost => exact ⟨(require_of rfl).trans (congrArg _ (doParentLost_none hpar hst)),
        fun hl => (require_of hok).trans (congrArg _ (doParentLost_some hpar hst hl))⟩
    case unaligned =>
      refine .of_eq ((require_of rfl).trans (congrArg _ (doHoldoverUnaligned_aligned hst ha))) ⟨?_, logEvent_last ..⟩
      exact logEvent_tick ..
    case failed => exact .of_eq ((require_of rfl).trans (congrArg _ (doTickLost_member hst hm))) (leaveFailed_job s fcTickLost)
    case stays => exact (require_of rfl).trans (congrArg _ (doTickLost_not_holdover hst))

end Sys2Proof.Machine
end

section
/-!
PROOFS. The state that reset leaves.
-/

namespace Sys2Proof.Machine
open Sys2Proof

/-- Settles O8: every field stands at the default of its table, and a queue of a tile is one of four. -/
theorem resetState : Obligations.ResetState := by
  unfold Obligations.ResetState
  refine ⟨rfl, fun t _ => ⟨rfl, rfl, rfl, rfl, fun q _ => ?_⟩, rfl, rfl, rfl, rfl, fun _ => rfl, rfl, rfl, rfl, fun _ => rfl, rfl, rfl, rfl,
    rfl, fun _ _ => ⟨rfl, rfl⟩, fun _ => rfl, fun _ _ => rfl, fun _ => rfl, rfl, rfl, rfl, rfl, rfl⟩
  match q with
  | 0 | 1 | 2 | _ + 3 => exact ⟨rfl, rfl, rfl, rfl⟩

end Sys2Proof.Machine
end

section
/-!
PROOFS. The spindle core (R24–R27, R43–R46, R406): exceptions, CSR instructions, MRET and WFI, event delivery, the Trestle's registers,
and the core's accesses to its tile store.
-/

namespace Sys2Proof.Machine
open Sys2Proof

/-! ### Tiles and cores after an operation -/

/-- An operation whose mask lacks the tiles leaves every tile as it was. -/
theorem Le.tile {m : Nat} {s u : State} (h : Le m s u) (hm : m.testBit 0 = false) (x : Nat) : u.tile x = s.tile x := by
  have ht : u.tiles = s.tiles := h.1 .tiles hm
  rw [State.tile, State.tile, ht]

@[simp] theorem State.modCore_tile (s : State) (t : Nat) (f : Core → Core) :
    (s.modCore t f).tile t = { s.tile t with core := f (s.tile t).core } := State.modTile_tile ..

@[simp] theorem State.ret_tile (s : State) (v x : Nat) : (s.ret v).tile x = s.tile x := rfl

/-- A trace record changes no tile. -/
@[simp] theorem traceTile_tile (s : State) (t : Nat) (r : TraceRec) (x : Nat) : (traceTile s t r).tile x = s.tile x :=
  (traceTile_le s t r).tile rfl x

@[simp] theorem bump_tile (s : State) (a n x : Nat) : (bump s a n).tile x = s.tile x := (bump_le s a n).tile rfl x

theorem countProg_tile (s : State) (t k n : Nat) : ∃ due, (countProg s t k n).tile t = { s.tile t with thrDue := due } := by
  unfold countProg
  dsimp only
  split
  · exact ⟨_, by rw [State.modTile_tile, bump_tile]⟩
  · exact ⟨_, bump_tile ..⟩

/-- An event of a tile changes nothing of the tile but the thresholds that fall due (R390, R391). -/
theorem tileEvent_tile (s : State) (t ev : Nat) (q : Option Nat) (n : Nat) :
    ∃ due, (tileEvent s t ev q n).tile t = { s.tile t with thrDue := due } := by
  unfold tileEvent
  refine forEach_keeps (P := fun u => ∃ due, u.tile t = { s.tile t with thrDue := due }) ⟨_, rfl⟩ fun k _ u hu => ?_
  obtain ⟨due, hu⟩ := hu
  obtain ⟨due', hc⟩ := countProg_tile u t k n
  rw [hu] at hc
  dsimp only
  repeat' split
  all_goals first | exact ⟨due', hc⟩ | exact ⟨due, hu⟩

/-- A core whose dcsr.step is 0 does not halt after an instruction (R24). -/
theorem stepHalt_of_no_step {s : State} {t : Nat} (h : (s.tile t).core.dcsr.getLsbD 2 = false) : stepHalt s t = s := by
  unfold stepHalt
  rw [h]
  rfl

/-- What a tile that executes instructions is in (R24). -/
theorem Tile.steps_iff (T : Tile) :
    T.steps = true ↔ T.st = .run ∧ T.core.fetching = true ∧ T.core.waiting = false ∧ T.core.debug = false := by
  simp [Tile.steps, and_assoc]

/-! ### Integer registers (R24) -/

theorem Core.reg_setReg_self (c : Core) {n : Nat} (v : W32) (hn : n < 32) (h0 : n ≠ 0) : (c.setReg n v).reg n = v := by
  have hmod : n % 32 ≠ 0 := by omega
  simp [Core.setReg, Core.reg, hmod]

theorem Core.reg_setReg_ne (c : Core) {n k : Nat} (v : W32) (hn : n < 32) (hk : k < 32) (h : k ≠ n) : (c.setReg n v).reg k = c.reg k := by
  have hne : k % 32 ≠ n % 32 := by omega
  by_cases h0 : n % 32 = 0
  · rw [Core.setReg, if_pos h0]
  · simp only [Core.setReg, Core.reg, h0, if_false, Tab.get_set_ne _ _ _ _ _ hne]

@[simp] theorem Core.setReg_pc (c : Core) (n : Nat) (v : W32) : (c.setReg n v).pc = c.pc := by
  unfold Core.setReg
  split <;> rfl

@[simp] theorem Core.setReg_dcsr (c : Core) (n : Nat) (v : W32) : (c.setReg n v).dcsr = c.dcsr := by
  unfold Core.setReg
  split <;> rfl

@[simp] theorem Core.setReg_minstret (c : Core) (n : Nat) (v : W32) : (c.setReg n v).minstret = c.minstret := by
  unfold Core.setReg
  split <;> rfl

@[simp] theorem Core.setReg_tickHi (c : Core) (n : Nat) (v : W32) : (c.setReg n v).tickHi = c.tickHi := by
  unfold Core.setReg
  split <;> rfl

/-! ### Exceptions (R27) -/

/-- A synchronous exception outside a handler, with dcsr.step 0. -/
theorem syncExc_outside_handler {s : State} {t cause tval : Nat} (hh : (s.tile t).core.inHandler = false)
    (hd : (s.tile t).core.dcsr.getLsbD 2 = false) :
    syncExc s t cause tval = s.setTile t { s.tile t with core :=
      { (s.tile t).core with mepc := (s.tile t).core.pc, mcause := BitVec.ofNat 32 cause, mtval := BitVec.ofNat 32 tval,
                             mpie := (s.tile t).core.mie, mie := false, inHandler := true, pc := (s.tile t).core.mtvec } } := by
  unfold syncExc
  rw [hh, if_neg Bool.false_ne_true, stepHalt_of_no_step]
  · rfl
  · rw [State.modCore_tile]
    exact hd

/-- The value of an exception that comes as a word (R27). -/
theorem syncExc_outside_handler_word {s : State} {t cause : Nat} (tval : W32) (hh : (s.tile t).core.inHandler = false)
    (hd : (s.tile t).core.dcsr.getLsbD 2 = false) :
    syncExc s t cause tval.toNat = s.setTile t { s.tile t with core :=
      { (s.tile t).core with mepc := (s.tile t).core.pc, mcause := BitVec.ofNat 32 cause, mtval := tval,
                             mpie := (s.tile t).core.mie, mie := false, inHandler := true, pc := (s.tile t).core.mtvec } } := by
  rw [syncExc_outside_handler hh hd, BitVec.ofNat_toNat, BitVec.setWidth_eq]

/-- Settles O11: both commands reach the exception, with the cause and the value that R27 gives. -/
theorem exceptionsTaken : Obligations.ExceptionsTaken := by
  unfold Obligations.ExceptionsTaken
  intro t s ht hsteps hh hd
  refine ⟨?_, fun hm => ?_⟩
  · have hact : doEcall t s = syncExc s t 11 0 := if_pos hsteps
    exact (require_of (okTile_of ht)).trans (congrArg _ (hact.trans (syncExc_outside_handler hh hd)))
  · have hact : doEbreak t s = syncExc s t 3 (s.tile t).core.pc.toNat := by
      unfold doEbreak
      rw [hsteps, hm]
      rfl
    exact (require_of (okTile_of ht)).trans (congrArg _ (hact.trans (syncExc_outside_handler_word _ hh hd)))

/-! ### Instructions that retire, and the CSRs (R24, R26) -/

/-- The core after an instruction that retires, with dcsr.step 0: what `retire_spec` says of the tile alone. -/
theorem retire_tile {s : State} {t : Nat} (len : Nat) (counts : Bool) (h : (s.tile t).core.dcsr.getLsbD 2 = false) :
    ∃ cyc due, (retire s t len counts).tile t = { s.tile t with
      core := { (s.tile t).core with
                pc := (s.tile t).core.pc + BitVec.ofNat 32 len, mcycle := cyc,
                minstret := if counts then (s.tile t).core.minstret + 1 else (s.tile t).core.minstret },
      thrDue := due } := by
  obtain ⟨cyc, due, htile, -, -⟩ := retire_spec s t len counts h
  exact ⟨cyc, due, htile⟩

/-- The check of a CSR instruction's operands. -/
theorem okCsr_of {t rd rs : Nat} (ht : t < 1296) (hrd : rd < 32) (hrs : rs < 32) :
    (okTile t && decide (rd < 32) && decide (rs < 32)) = true := by
  simp [okTile_of ht, hrd, hrs]

/-- A legal CSR instruction of a core that executes has its effect and retires (R26). -/
theorem exec_csrAccess_legal {t rd rs : Nat} {op : CsrOp} {n : BitVec 12} {s : State} (ht : t < 1296) (hrd : rd < 32) (hrs : rs < 32)
    (hsteps : (s.tile t).steps = true) (hl : csrIllegal (s.tile t).core op n.toNat rs = false) :
    exec (.csrAccess t op n rd rs) s = .next (retire (csrEffect s t op n.toNat rd rs) t 4 (!writesInstret op n.toNat rs)) := by
  refine (require_of (okCsr_of ht hrd hrs)).trans (congrArg _ ?_)
  unfold doCsrAccess
  rw [hsteps, hl]
  rfl

/-- CSRRW of mscratch: the CSR takes the operand, and rd the old value. -/
theorem csrEffect_mscratch (s : State) (t rd rs : Nat) :
    (csrEffect s t .rw 0x340 rd rs).tile t = { s.tile t with core :=
      { (s.tile t).core.setReg rd (s.tile t).core.mscratch with mscratch := (s.tile t).core.reg rs } } := by
  have hold : BitVec.ofNat 32 (csrRead s t 0x340) = (s.tile t).core.mscratch :=
    (BitVec.ofNat_toNat ..).trans (BitVec.setWidth_eq _)
  by_cases h : rd % 32 = 0
  · simp [csrEffect, csrReads, csrWrites, csrNew, csrOperand, Core.csrWrite, Core.setReg, h]
  · simp [csrEffect, csrReads, csrWrites, csrNew, csrOperand, Core.csrWrite, h, hold]

/-- A read of ticklo: rd takes the low word of the tick number, and tickhi latches the high one. -/
theorem csrEffect_ticklo (s : State) (t rd : Nat) :
    (csrEffect s t .rs 0x7C0 rd 0).tile t = { s.tile t with core := ({ (s.tile t).core with
      tickHi := BitVec.ofNat 32 (s.tick.num.toNat / 2 ^ 32) } : Core).setReg rd (s.tick.num.setWidth 32) } := by
  have hold : BitVec.ofNat 32 (csrRead s t 0x7C0) = s.tick.num.setWidth 32 := BitVec.eq_of_toNat_eq (by simp [csrRead])
  simp [csrEffect, csrReads, csrWrites, hold]

/-- Settles O13: a legal instruction is its effect and a retirement, an illegal one an exception; for the two registers singled out the
effect is read off. -/
theorem csrInstructions : Obligations.CsrInstructions := by
  unfold Obligations.CsrInstructions
  refine ⟨fun s t len counts hd => ?retires, fun t op n rd rs s ht hrd hrs hsteps => ⟨?legal, ?illegal, fun hd => ?mscratch, fun hd => ?ticklo⟩⟩
  case retires =>
    obtain ⟨cyc, due, htile, hothers, ctrs, tiles, k, hu⟩ := retire_spec s t len counts hd
    refine ⟨?_, ?_, ?_, ?_, hothers, ?_, ?_, ?_, ?_⟩
    iterate 4 rw [htile]
    all_goals rw [hu]
  case legal => exact exec_csrAccess_legal ht hrd hrs hsteps
  case illegal =>
    intro hi hh hd
    have hact : doCsrAccess t op n rd rs s = syncExc s t 2 (csrWord op n.toNat rd rs).toNat := by
      unfold doCsrAccess
      rw [hsteps, hi]
      rfl
    exact (require_of (okCsr_of ht hrd hrs)).trans (congrArg _ (hact.trans (syncExc_outside_handler_word _ hh hd)))
  case mscratch =>
    have hexec : exec (.csrAccess t .rw 0x340 rd rs) s = .next (retire (csrEffect s t .rw 0x340 rd rs) t 4 true) :=
      exec_csrAccess_legal ht hrd hrs hsteps rfl
    have heff := csrEffect_mscratch s t rd rs
    obtain ⟨cyc, due, hret⟩ := retire_tile (s := csrEffect s t .rw 0x340 rd rs) (t := t) 4 true (by rw [heff]; simpa using hd)
    rw [heff] at hret
    refine .of_eq hexec ?_
    rw [hret]
    exact ⟨rfl, Core.reg_setReg_self _ _ hrd, by simp⟩
  case ticklo =>
    have hexec : exec (.csrAccess t .rs 0x7C0 rd 0) s = .next (retire (csrEffect s t .rs 0x7C0 rd 0) t 4 true) :=
      exec_csrAccess_legal ht hrd (by decide) hsteps rfl
    have heff := csrEffect_ticklo s t rd
    obtain ⟨cyc, due, hret⟩ := retire_tile (s := csrEffect s t .rs 0x7C0 rd 0) (t := t) 4 true (by rw [heff]; simpa using hd)
    rw [heff] at hret
    refine .of_eq hexec ?_
    rw [hret]
    exact ⟨Core.reg_setReg_self _ _ hrd, by simp⟩

end Sys2Proof.Machine
end

section
/-!
PROOFS. Event delivery, MRET and WFI, and the Trestle's registers (R10, R42–R46).
-/

namespace Sys2Proof.Machine
open Sys2Proof

/-! ### The winner of the Trestle (R44) -/

/-- The first of a range of numbers that meets a test is the least one. -/
theorem head?_filter_rangeFrom {p : Nat → Bool} {n : Nat} (k a : Nat) (ha : a ≤ n) (hn : n < a + k) (hp : p n = true)
    (hlow : ∀ m, a ≤ m → m < n → p m = false) : ((rangeFrom a k).filter p).head? = some n := by
  induction k generalizing a with
  | zero => omega
  | succ k ih =>
    rw [rangeFrom, List.filter_cons]
    by_cases h : a = n
    · subst h
      rw [if_pos hp, List.head?_cons]
    · rw [if_neg (by simp [hlow a (Nat.le_refl a) (by omega)])]
      exact ih (a + 1) (by omega) (by omega) fun m hm hmn => hlow m (by omega) hmn

/-- The sources that are pending and unmasked, by number. -/
theorem testBit_pending (T : Tile) (n : Nat) :
    (T.pend &&& ~~~T.mask).toNat.testBit n = (decide (n < 64) && (T.pend.getLsbD n && !T.mask.getLsbD n)) := by
  rw [BitVec.testBit_toNat, BitVec.getLsbD_and, BitVec.getLsbD_not]
  cases T.pend.getLsbD n <;> cases T.mask.getLsbD n <;> simp

/-- The winner is the source that is pending and unmasked and below which none is. -/
theorem Tile.winner_of {T : Tile} {n : Nat} (hn : n < 64) (hp : T.pend.getLsbD n = true) (hm : T.mask.getLsbD n = false)
    (hlow : ∀ m, m < n → T.pend.getLsbD m = true → T.mask.getLsbD m = true) : T.winner = some n := by
  refine head?_filter_rangeFrom 64 0 (Nat.zero_le n) (by omega) ?_ fun m _ hmn => ?_
  · rw [testBit_pending, hp, hm, decide_eq_true hn]
    rfl
  · rw [testBit_pending]
    cases h : T.pend.getLsbD m
    · simp
    · simp [hlow m hmn h]

/-- A tile with a source pending and unmasked has a winner. -/
theorem Tile.winner_isSome {T : Tile} {n : Nat} (hn : n < 64) (hp : T.pend.getLsbD n = true) (hm : T.mask.getLsbD n = false) :
    ∃ k, T.winner = some k := by
  have hmem : n ∈ maskBits 64 (T.pend &&& ~~~T.mask).toNat := by
    rw [maskBits, List.mem_filter, mem_rangeFrom, testBit_pending, hp, hm]
    simp [hn]
  exact ⟨_, List.head?_eq_some_head (List.ne_nil_of_mem hmem)⟩

/-! ### Delivery (R43, R44) -/

/-- A tile whose core takes events (R43). -/
def Tile.takesEvents (T : Tile) : Prop :=
  T.st = .run ∧ T.core.fetching = true ∧ T.core.debug = false ∧ T.core.mie = true ∧ T.core.inHandler = false

/-- A source as a mask. -/
theorem ofNat_two_pow (n : Nat) : BitVec.ofNat 64 (2 ^ n) = 1#64 <<< n := by
  refine BitVec.eq_of_toNat_eq ?_
  simp [Nat.shiftLeft_eq]

/-- The tile after the delivery of its winner; `set` is a SET write of the winner's bit in the same cycle (R10). -/
theorem doEventDelivery_tile {s : State} {t n : Nat} (set : Bool) (h : (s.tile t).takesEvents) (hw : (s.tile t).winner = some n) :
    ∃ due, (doEventDelivery t set s).tile t = { s.tile t with
      pend := ((s.tile t).pend &&& ~~~(1#64 <<< n)) ||| (if set then 1#64 <<< n else 0), curValid := true, curSrc := BitVec.ofNat 6 n,
      core := { (s.tile t).core with
        mepc := (s.tile t).core.pc, mcause := BitVec.ofNat 32 (0x80000000 + n), mpie := true, mie := false,
        pc := (s.tile t).vbase + BitVec.ofNat 32 (16 * n), inHandler := true, waiting := false },
      thrDue := due } := by
  obtain ⟨hst, hf, hd, hm, hh⟩ := h
  have hgo : (s.tile t).st = .run ∧ (s.tile t).core.fetching = true ∧ (!(s.tile t).core.debug) = true ∧ (s.tile t).core.mie = true ∧
      (!(s.tile t).core.inHandler) = true := by simp [hst, hf, hd, hm, hh]
  have hact : ∃ r, doEventDelivery t set s = traceTile (tileEvent (if set then (enterEvent s t n).modTile t fun T =>
      { T with pend := T.pend ||| BitVec.ofNat 64 (2 ^ n) } else enterEvent s t n) t 0x10 none 1) t r := by
    unfold doEventDelivery
    rw [if_pos hgo, hw]
    exact ⟨_, rfl⟩
  obtain ⟨r, hact⟩ := hact
  obtain ⟨due, hev⟩ := tileEvent_tile (if set then (enterEvent s t n).modTile t fun T =>
      { T with pend := T.pend ||| BitVec.ofNat 64 (2 ^ n) } else enterEvent s t n) t 0x10 none 1
  refine ⟨due, ?_⟩
  rw [hact, traceTile_tile, hev]
  simp only [enterEvent, ofNat_two_pow]
  cases set <;> simp [hm]

theorem doEventDelivery_in_handler {s : State} {t : Nat} (set : Bool) (h : (s.tile t).core.inHandler = true) :
    doEventDelivery t set s = s := by
  simp [doEventDelivery, h]

/-- Settles O15: the winner is named by `Tile.winner_of`, and the delivery is read off. -/
theorem eventDelivered : Obligations.EventDelivered := by
  unfold Obligations.EventDelivered
  intro t n set s ht hn T c hst hf hd hm hh hp hmask hlow
  obtain ⟨due, htile⟩ := doEventDelivery_tile (s := s) set ⟨hst, hf, hd, hm, hh⟩ (Tile.winner_of hn hp hmask hlow)
  refine .of_eq (require_of (okTile_of ht)) ?_
  rw [htile]
  exact ⟨rfl, rfl, rfl, rfl⟩

/-! ### The Trestle's registers (R42, R46) -/

/-- A write through a view that reaches the tile's registers acts. -/
theorem regChange_reaches {v : View} {t : Nat} {s : State} (f : State → State) (h : (s.tile t).st ≠ .unavailable) :
    regChange v t f s = f s := by
  have hreach : reaches v (s.tile t) = true := by simp [reaches, h]
  rw [regChange, if_pos hreach]

/-- Settles O10: each write reaches the tile, and its effect is the statement's. -/
theorem trestleRegisters : Obligations.TrestleRegisters := by
  unfold Obligations.TrestleRegisters
  intro v t hi val hw s ht hst
  have hact : ∀ f, require (okTile t) (regChange v t f s) = .next (f s) := fun f =>
    (require_of (okTile_of ht)).trans (congrArg _ (regChange_reaches f hst))
  exact ⟨hact _, hact _, hact _, hact _⟩

/-! ### MRET and WFI (R45) -/

/-- The tile after MRET, with dcsr.step 0. -/
theorem doMret_tile {s : State} {t : Nat} (hsteps : (s.tile t).steps = true) (hd : (s.tile t).core.dcsr.getLsbD 2 = false) :
    ∃ cyc due, (doMret t s).tile t = { s.tile t with
      curValid := false,
      core := { (s.tile t).core with pc := (s.tile t).core.mepc, mie := (s.tile t).core.mpie, mpie := true, inHandler := false,
                                     mcycle := cyc, minstret := (s.tile t).core.minstret + 1 },
      thrDue := due } := by
  have heff : (mretEffect s t).tile t = { s.tile t with
      curValid := false,
      core := { (s.tile t).core with pc := (s.tile t).core.mepc, mie := (s.tile t).core.mpie, mpie := true, inHandler := false } } :=
    State.modTile_tile ..
  obtain ⟨cyc, due, hret⟩ := retire_tile (s := mretEffect s t) (t := t) 0 true (by rw [heff]; exact hd)
  refine ⟨cyc, due, ?_⟩
  rw [doMret, if_pos hsteps, hret, heff]
  simp

/-- The core after WFI outside a handler, with dcsr.step 0: it waits where no source is pending and unmasked. -/
theorem doWfi_core {s : State} {t : Nat} (hsteps : (s.tile t).steps = true) (hd : (s.tile t).core.dcsr.getLsbD 2 = false)
    (hh : (s.tile t).core.inHandler = false) :
    ∃ cyc, ((doWfi t s).tile t).core =
      { (s.tile t).core with pc := (s.tile t).core.pc + 4, minstret := (s.tile t).core.minstret + 1, mcycle := cyc,
                             waiting := decide ((s.tile t).pend &&& ~~~(s.tile t).mask = 0) } := by
  obtain ⟨-, hf, hw, -⟩ := (Tile.steps_iff _).mp hsteps
  obtain ⟨cyc, due, hret⟩ := retire_tile (s := s) (t := t) 4 true hd
  refine ⟨cyc, ?_⟩
  by_cases hp : (s.tile t).pend &&& ~~~(s.tile t).mask = 0#64
  · simp [doWfi, hsteps, hh, hp, hret, hf]
  · simp [doWfi, hsteps, hh, hp, hret, hw]

/-- Settles O12: each clause is the command's lemma; the delivery after MRET finds a winner. -/
theorem handlerReturnAndWait : Obligations.HandlerReturnAndWait := by
  unfold Obligations.HandlerReturnAndWait
  intro t s ht T c
  have hok := okTile_of ht
  refine ⟨fun hh set => ?none, fun hsteps hd => ⟨?mret, fun hh => ?wfi⟩, fun hw => ⟨?idle, fun hi val hst hp => ?wake⟩⟩
  case none => exact (require_of hok).trans (congrArg _ (doEventDelivery_in_handler set hh))
  case mret =>
    obtain ⟨cyc, due, htile⟩ := doMret_tile hsteps hd
    obtain ⟨hst, hf, -, hdb⟩ := (Tile.steps_iff _).mp hsteps
    refine .of_eq (require_of hok) ?_
    rw [htile]
    refine ⟨rfl, rfl, rfl, rfl, rfl, rfl, fun n hn hmie hp hm => ?_⟩
    obtain ⟨k, hk⟩ := Tile.winner_isSome (T := (doMret t s).tile t) hn (by rw [htile]; exact hp) (by rw [htile]; exact hm)
    obtain ⟨due', hev⟩ := doEventDelivery_tile (s := doMret t s) (t := t) false (by rw [htile]; exact ⟨hst, hf, hdb, hmie, rfl⟩) hk
    refine .of_eq (require_of hok) ?_
    rw [hev]
    exact ⟨rfl, rfl⟩
  case wfi =>
    obtain ⟨cyc, hcore⟩ := doWfi_core hsteps hd hh
    refine .of_eq (require_of hok) ?_
    rw [hcore]
  case idle =>
    have hcw : (s.tile t).core.waiting = true := hw
    simp [T, Tile.steps, hcw]
  case wake =>
    refine .of_eq ((require_of hok).trans (congrArg _ (regChange_reaches _ hst))) ?_
    rw [State.modTile_tile]
    simp only [Tile.wake]
    rw [decide_eq_false hp, Bool.and_false]

end Sys2Proof.Machine
end

section
/-!
PROOFS. The core's loads and stores within its tile store, and the rewrite of a corrected word (R25, R30, R31).
-/

namespace Sys2Proof.Machine
open Sys2Proof

/-! ### The tile store (R30, R31) -/

/-- A write in a word without an error puts its bytes (R30). -/
theorem narrowPut_clean {s : State} {t addr : Nat} (bytes : List Byte) (h : Tab.get 0 (s.tile t).storeErr (addr / 8) = 0) :
    narrowPut s t addr bytes = (storePut s t addr bytes, false) := by
  simp [narrowPut, h]

/-- A read that touches no word in error returns the bytes of the store and changes nothing (R31). -/
theorem storeRead_clean {s : State} {t off n : Nat} (h : ∀ e ∈ (s.tile t).storeErr, off + n ≤ 8 * e.1 ∨ 8 * e.1 + 8 ≤ off) :
    storeRead s t off n = (s, Memory.bytes (s.tile t).store off n, none) := by
  have hnone : (s.tile t).storeErr.filter (fun e => decide (8 * e.1 < off + n ∧ off < 8 * e.1 + 8)) = [] := by
    refine List.filter_eq_nil_iff.mpr fun e he => ?_
    have := h e he
    simp
    omega
  simp only [storeRead, hnone, List.foldl_nil]

theorem storePut_tile (s : State) (t off : Nat) (bytes : List Byte) : (storePut s t off bytes).tile t = (s.tile t).put off bytes :=
  State.modTile_tile ..

/-- An aligned access lies in one word of 64 bits. -/
theorem aligned_within_word {addr width w : Nat} (hw : width = 1 ∨ width = 2 ∨ width = 4) (ha : addr % width = 0) (hne : w ≠ addr / 8) :
    addr + width ≤ 8 * w ∨ 8 * w + 8 ≤ addr := by
  rcases hw with rfl | rfl | rfl <;> omega

/-! ### An access by its address (R25) -/

/-- An access that lies in the store lies below the tile's registers. -/
theorem not_registers_of_store {addr n : Nat} (h : addr + n ≤ 0x300000) : ¬ (0x40000000 ≤ addr ∧ addr < 0x40010000) := by omega

theorem inStore_of {addr n : Nat} (h : addr + n ≤ 0x300000) : inStore addr n = true := decide_eq_true h

/-- An aligned access within the store reaches it. -/
theorem coreAccess_store {s : State} {t n addr : Nat} {k : AccKind} (v : W32) (h : addr + n ≤ 0x300000) (ha : addr % n = 0) :
    coreAccess s t k n addr v = storeAccess s t k n addr v := by
  unfold coreAccess
  rw [if_neg (not_registers_of_store h), inStore_of h, if_neg (by decide), if_neg (by simp [ha])]

/-- A misaligned access within the store is refused. -/
theorem coreAccess_misaligned {s : State} {t n addr : Nat} {k : AccKind} (v : W32) (hk : k ≠ .fetch) (h : addr + n ≤ 0x300000)
    (ha : addr % n ≠ 0) : coreAccess s t k n addr v = { st := s, cause := some (accMisaligned k) } := by
  unfold coreAccess
  rw [if_neg (not_registers_of_store h), inStore_of h, if_neg (by decide), if_pos ⟨hk, ha⟩]

/-- An access outside the tile-local map is refused. -/
theorem coreAccess_outside {s : State} {t n addr : Nat} {k : AccKind} (v : W32) (h : 0x300000 < addr + n)
    (hr : addr < 0x40000000 ∨ 0x40010000 ≤ addr) : coreAccess s t k n addr v = { st := s, cause := some (accFault k) } := by
  have hout : inStore addr n = false := decide_eq_false (Nat.not_le.mpr h)
  unfold coreAccess
  rw [if_neg (by omega), hout, Bool.not_false, if_pos rfl]

/-! ### Loads and stores -/

/-- The check of an access's operands. -/
theorem okAccess_of {t width rd rs ilen : Nat} (ht : t < 1296) (hw : width = 1 ∨ width = 2 ∨ width = 4) (hi : ilen = 2 ∨ ilen = 4)
    (hrd : rd < 32) (hrs : rs < 32) :
    (okTile t && (width == 1 || width == 2 || width == 4) && (ilen == 2 || ilen == 4) && decide (rd < 32) && decide (rs < 32)) = true := by
  rcases hw with rfl | rfl | rfl <;> rcases hi with rfl | rfl <;> simp [okTile_of ht, hrd, hrs]

/-- An access of a core that executes, without a new bit error and without a trigger that matches. -/
theorem doSpindleLoadStore_access {s : State} {t : Nat} {k : AccKind} {width : Nat} {sgn : Bool} {addr : W32} {rd rs ilen : Nat}
    (hsteps : (s.tile t).steps = true) (ht : ((accTrig k).any fun b => trigHit (s.tile t).core b addr.toNat) = false) :
    doSpindleLoadStore t k width sgn addr rd rs ilen 0 s =
      let a := coreAccess s t k width addr.toNat ((s.tile t).core.reg rs)
      match a.cause with
      | some cause => syncExc a.st t cause addr.toNat
      | none =>
        if k = .fetch then a.st
        else retire (a.st.modCore t fun c => c.setReg (accRd k rd) (loadExtend width sgn a.val)) t ilen true := by
  have hup : upsetWord s t addr.toNat 0 = s := by simp [upsetWord]
  unfold doSpindleLoadStore
  rw [hup]
  dsimp only
  rw [hsteps, ht]
  rfl

/-- An access that is refused takes its exception. -/
theorem doSpindleLoadStore_refused {s : State} {t : Nat} {k : AccKind} {width : Nat} {sgn : Bool} {addr : W32} {rd rs ilen cause : Nat}
    (hsteps : (s.tile t).steps = true) (ht : ((accTrig k).any fun b => trigHit (s.tile t).core b addr.toNat) = false)
    (hacc : coreAccess s t k width addr.toNat ((s.tile t).core.reg rs) = { st := s, cause := some cause }) :
    doSpindleLoadStore t k width sgn addr rd rs ilen 0 s = syncExc s t cause addr.toNat := by
  rw [doSpindleLoadStore_access hsteps ht, hacc]

/-- A store within the store: its bytes are put, and the core goes on. -/
theorem doSpindleLoadStore_store_tile {s : State} {t width : Nat} {sgn : Bool} {addr : W32} {rd rs ilen : Nat}
    (hsteps : (s.tile t).steps = true) (hd : (s.tile t).core.dcsr.getLsbD 2 = false) (ht : trigHit (s.tile t).core 1 addr.toNat = false)
    (hin : addr.toNat + width ≤ 0x300000) (ha : addr.toNat % width = 0) (he : Tab.get 0 (s.tile t).storeErr (addr.toNat / 8) = 0) :
    let u := doSpindleLoadStore t .store width sgn addr rd rs ilen 0 s
    (u.tile t).store = Memory.put (s.tile t).store addr.toNat (leBytes width ((s.tile t).core.reg rs).toNat) ∧
      (u.tile t).core.x = (s.tile t).core.x ∧ (u.tile t).core.pc = (s.tile t).core.pc + BitVec.ofNat 32 ilen := by
  have htrig : ((accTrig .store).any fun b => trigHit (s.tile t).core b addr.toNat) = false := by simp [accTrig, ht]
  have hacc : coreAccess s t .store width addr.toNat ((s.tile t).core.reg rs) =
      { st := storePut s t addr.toNat (leBytes width ((s.tile t).core.reg rs).toNat) } := by
    rw [coreAccess_store _ hin ha]
    simp only [storeAccess, narrowPut_clean _ he, Bool.false_eq_true, if_false]
  have htile := storePut_tile s t addr.toNat (leBytes width ((s.tile t).core.reg rs).toNat)
  rw [doSpindleLoadStore_access hsteps htrig, hacc]
  generalize storePut s t addr.toNat (leBytes width ((s.tile t).core.reg rs).toNat) = v at htile
  obtain ⟨cyc, due, hret⟩ := retire_tile (s := v.modCore t fun c => c.setReg (accRd .store rd) (loadExtend width sgn 0)) (t := t) ilen true
    (by rw [State.modCore_tile, Core.setReg_dcsr, htile]; exact hd)
  dsimp only
  rw [if_neg (by decide), hret, State.modCore_tile, htile]
  exact ⟨rfl, rfl, rfl⟩

/-- A load from words without an error: its bytes reach rd, extended, and the core goes on. -/
theorem doSpindleLoadStore_load_tile {s : State} {t width : Nat} {sgn : Bool} {addr : W32} {rd rs ilen : Nat}
    (hsteps : (s.tile t).steps = true) (hd : (s.tile t).core.dcsr.getLsbD 2 = false) (ht : trigHit (s.tile t).core 0 addr.toNat = false)
    (hin : addr.toNat + width ≤ 0x300000) (ha : addr.toNat % width = 0)
    (he : ∀ e ∈ (s.tile t).storeErr, addr.toNat + width ≤ 8 * e.1 ∨ 8 * e.1 + 8 ≤ addr.toNat) :
    ∃ cyc due, (doSpindleLoadStore t .load width sgn addr rd rs ilen 0 s).tile t = { s.tile t with
      core := { (s.tile t).core.setReg rd (loadExtend width sgn (Memory.le (s.tile t).store addr.toNat width)) with
                pc := (s.tile t).core.pc + BitVec.ofNat 32 ilen, mcycle := cyc,
                minstret := (s.tile t).core.minstret + 1 },
      thrDue := due } := by
  have htrig : ((accTrig .load).any fun b => trigHit (s.tile t).core b addr.toNat) = false := by simp [accTrig, ht]
  have hacc : coreAccess s t .load width addr.toNat ((s.tile t).core.reg rs) =
      { st := s, val := Memory.le (s.tile t).store addr.toNat width } := by
    rw [coreAccess_store _ hin ha]
    simp only [storeAccess, storeRead_clean he, Memory.le]
  rw [doSpindleLoadStore_access hsteps htrig, hacc]
  obtain ⟨cyc, due, hret⟩ := retire_tile
    (s := s.modCore t fun c => c.setReg rd (loadExtend width sgn (Memory.le (s.tile t).store addr.toNat width))) (t := t) ilen true
    (by rw [State.modCore_tile, Core.setReg_dcsr]; exact hd)
  refine ⟨cyc, due, ?_⟩
  dsimp only [accRd]
  rw [if_neg (by decide), hret, State.modCore_tile]
  simp

/-! ### Corrective writes (R31) -/

theorem okWord_of {t w : Nat} (ht : t < 1296) (hw : 8 * w < 0x300000) : (okTile t && decide (8 * w < Config.storeBytes)) = true := by
  rw [okTile_of ht, decide_eq_true (show 8 * w < Config.storeBytes from hw)]
  rfl

/-- The rewrite of a word that waits for it. -/
theorem doStoreCorrectiveWrite_waiting {s : State} {t w : Nat} (hc : (s.tile t).correctPend.contains w = true)
    (he : Tab.get 0 (s.tile t).storeErr w = 1) :
    doStoreCorrectiveWrite t w s = s.setTile t
      { s.tile t with storeErr := Tab.set 0 (s.tile t).storeErr w 0, correctPend := (s.tile t).correctPend.filter (· != w) } := by
  unfold doStoreCorrectiveWrite State.modTile
  dsimp only
  rw [if_pos hc, if_pos he]

/-- Settles O14: an access is refused or reaches the store by its address; a rewrite is the command's own effect. -/
theorem tileStoreAccesses : Obligations.TileStoreAccesses := by
  unfold Obligations.TileStoreAccesses
  refine ⟨fun t width rd rs ilen sgn addr s ht hrd hrs hw hi hsteps hd => ?access, fun t w s ht hw hc he => ?rewrite⟩
  case rewrite => exact (require_of (okWord_of ht hw)).trans (congrArg _ (doStoreCorrectiveWrite_waiting hc he))
  case access =>
    have hok := okAccess_of ht hw hi hrd hrs
    have hrefused : ∀ k cause, ((accTrig k).any fun b => trigHit (s.tile t).core b addr.toNat) = false →
        (s.tile t).core.inHandler = false →
        coreAccess s t k width addr.toNat ((s.tile t).core.reg rs) = { st := s, cause := some cause } →
        exec (.spindleLoadStore t k width sgn addr rd rs ilen 0) s = .next (s.setTile t { s.tile t with core :=
          { (s.tile t).core with mepc := (s.tile t).core.pc, mcause := BitVec.ofNat 32 cause, mtval := addr, mpie := (s.tile t).core.mie,
                                 mie := false, inHandler := true, pc := (s.tile t).core.mtvec } }) := fun k cause htr hh hacc =>
      (require_of hok).trans (congrArg _ ((doSpindleLoadStore_refused hsteps htr hacc).trans (syncExc_outside_handler_word _ hh hd)))
    refine ⟨fun htr => ?store, fun htr => ?load⟩
    case store =>
      have hany : ((accTrig .store).any fun b => trigHit (s.tile t).core b addr.toNat) = false := by simpa [accTrig] using htr
      exact ⟨fun hin ha he => .of_eq (require_of hok) (doSpindleLoadStore_store_tile hsteps hd htr hin ha he),
        fun hh hin ha => hrefused _ _ hany hh (coreAccess_misaligned _ (by decide) hin ha),
        fun hh hout hr => hrefused _ _ hany hh (coreAccess_outside _ hout hr)⟩
    case load =>
      have hany : ((accTrig .load).any fun b => trigHit (s.tile t).core b addr.toNat) = false := by simpa [accTrig] using htr
      refine ⟨fun hin ha he => ?_, fun hh hin ha => hrefused _ _ hany hh (coreAccess_misaligned _ (by decide) hin ha),
        fun hh hout hr => hrefused _ _ hany hh (coreAccess_outside _ hout hr)⟩
      obtain ⟨cyc, due, htile⟩ := doSpindleLoadStore_load_tile (sgn := sgn) (rd := rd) (rs := rs) (ilen := ilen) hsteps hd htr hin ha
        fun e hmem => aligned_within_word hw ha (he e hmem)
      refine .of_eq (require_of hok) ?_
      rw [htile]
      exact ⟨rfl, rfl, Core.reg_setReg_self _ _ hrd, fun n hn hne => Core.reg_setReg_ne _ _ hrd hn hne⟩

end Sys2Proof.Machine
end

section
/-!
PROOFS. What the operations on descriptors, leases and counters leave of a tile; TILE_LOAD of a running tile, TILE_START, TILE_RESET
and COMPLETION_POST (R37, R49–R51, R140, R142).
-/

namespace Sys2Proof.Machine
open Sys2Proof

/-! ### Tiles and queues after an operation -/

@[simp] theorem State.setTile_queue (s : State) (t q : Nat) (T : Tile) : (s.setTile t T).queue t q = T.queue q := by
  rw [State.queue, State.setTile_tile]

@[simp] theorem State.modTile_queue (s : State) (t q : Nat) (f : Tile → Tile) : (s.modTile t f).queue t q = (f (s.tile t)).queue q := by
  rw [State.queue, State.modTile_tile]

@[simp] theorem State.modQueue_queue (s : State) (t q : Nat) (f : Queue → Queue) : (s.modQueue t q f).queue t q = f (s.queue t q) :=
  State.setQueue_queue ..

theorem State.modQueue_tile (s : State) (t q : Nat) (f : Queue → Queue) :
    (s.modQueue t q f).tile t = (s.tile t).setQueue q (f (s.queue t q)) := State.setQueue_tile ..

theorem State.setQueue_queue_ne (s : State) (t : Nat) {q r : Nat} (v : Queue) (hq : q < 4) (hr : r < 4) (h : r ≠ q) :
    (s.setQueue t q v).queue t r = s.queue t r := by
  rw [State.queue, State.setQueue_tile, Tile.setQueue_queue_ne _ _ _ _ hq hr h, State.queue]

/-- A tile with one queue replaced keeps everything else. -/
theorem Tile.setQueue_eq (T : Tile) (q : Nat) (v : Queue) :
    ∃ a b c d, T.setQueue q v = { T with q0 := a, q1 := b, q2 := c, q3 := d } :=
  match q with
  | 0 => ⟨v, T.q1, T.q2, T.q3, rfl⟩
  | 1 => ⟨T.q0, v, T.q2, T.q3, rfl⟩
  | 2 => ⟨T.q0, T.q1, v, T.q3, rfl⟩
  | _ + 3 => ⟨T.q0, T.q1, T.q2, v, rfl⟩

/-- The leases of a stream that are released leave the tile's other contents as they were (R168). -/
theorem releaseLeases_tile (s : State) (t q : Nat) (p : Lease → Bool) : (releaseLeases s t q p).tile t =
    (s.tile t).setQueue q { s.queue t q with leases := (s.queue t q).leases.filter fun l => !p l } := by
  have hrest : ∀ (l : List Lease) (u : State), (forEach l (fun l s => invPositions (traceLease s t q l 3) l.tag) u).tile t = u.tile t := by
    intro l u
    refine forEach_keeps (P := fun v => v.tile t = u.tile t) rfl fun l _ v hv => ?_
    rw [(invPositions_le (traceLease v t q l 3) l.tag).tile rfl, ← hv]
    exact traceTile_tile ..
  exact (hrest _ _).trans (State.modQueue_tile ..)

theorem withdrawFault_tile (s : State) (t q : Nat) :
    (withdrawFault s t q).tile t = (s.tile t).setQueue q { s.queue t q with fault := none } := by
  have hparked : ∀ u : State, u.tile t = s.tile t → (u.setQueue t q { u.queue t q with fault := none }).tile t =
      (s.tile t).setQueue q { s.queue t q with fault := none } := by
    intro u hu
    rw [State.setQueue_tile, State.queue, hu, State.queue]
  unfold withdrawFault
  dsimp only
  split
  · split <;> exact hparked _ rfl
  · exact hparked _ rfl

/-! ### TILE_LOAD of a running tile (R51) -/

/-- A command that names a tile whose state does not allow it names the first such tile, and acts on none (R341). -/
theorem onTiles_refuses (r : Req) {ts : TileSet} {allowed : TileSt → Bool} {s : State}
    (h : ∃ t ∈ tilesNamed ts, allowed (s.tile t).st = false) :
    ∃ x ∈ tilesNamed ts, ∀ act, onTiles r ts allowed act s =
      replyFinal s r.client r.slot ((s.slot r.client r.slot).picked.getD ⟨0, 0, false, false, 0, 0, 0, 0⟩) bsTileState
        [(4, x), (4, stCode (s.tile x).st)] := by
  unfold onTiles
  split
  case h_1 x hx => exact ⟨x, List.mem_of_find?_eq_some hx, fun _ => rfl⟩
  case h_2 hnone =>
    obtain ⟨t, ht, hst⟩ := h
    have hall := List.find?_eq_none.mp hnone t ht
    rw [hst] at hall
    exact absurd rfl hall

/-- Settles O18: the state check precedes every effect of the command, and its reply changes no tile. -/
theorem loadOfRunningTileRefused : Obligations.LoadOfRunningTileRefused := by
  unfold Obligations.LoadOfRunningTileRefused
  intro r ts va len off tag p s hset hload hva hlen hoff htag hpos hfits hready hrun
  have hbad : badLoad len off tag = false := by
    have hstore : Config.storeBytes = 0x300000 := rfl
    simp only [badLoad, hstore, decide_eq_false_iff_not]
    omega
  obtain ⟨x, hx, hrefused⟩ := onTiles_refuses r (allowed := fun y => y == .reset || y == .loaded) (by
    obtain ⟨t, ht, hst⟩ := hrun
    exact ⟨t, ht, by rw [hst]; rfl⟩)
  have hfit : dataLen [(4, x), (4, stCode (s.tile x).st)] ≤ 216 := by simp [dataLen]
  obtain ⟨hreq, -, -, -, hpicked, -⟩ := id hready
  have hok : (okReq r && decide (va < 2 ^ 64) && decide (len < 2 ^ 32) && decide (off < 2 ^ 32) && decide (tag < 2 ^ 16)) = true := by
    have hreq' : okReq r = true := hreq
    have htag' : tag < 2 ^ 16 := by omega
    rw [hreq', decide_eq_true hva, decide_eq_true hlen, decide_eq_true hoff, decide_eq_true htag']
    rfl
  have hact : doTileLoad r ts va len off tag s =
      replyFinal s r.client r.slot p bsTileState [(4, x), (4, stCode (s.tile x).st)] := by
    unfold doTileLoad
    rw [hload, if_neg (by simp), command_ready (op := opTileLoad) hready (by simp [firstBad, hset, hbad]), hrefused, hpicked]
    rfl
  refine .of_eq ((require_of hok).trans (congrArg _ hact)) ⟨?_, fun t => ?_, replyFinal_post s _ _ _ _ _ hfit .pool (by decide)⟩
  · rw [replyFinal_slot _ _ _ _ _ _ hfit]
    exact ⟨rfl, rfl, x, hx, rfl⟩
  · have htiles := replyFinal_post s r.client r.slot p bsTileState _ hfit .tiles (by decide)
    exact congrArg (Tab.get {} · t) htiles

/-! ### TILE_START and TILE_RESET (R49, R50) -/

theorem resetTileCtrs_tile (t : Nat) (s : State) (x : Nat) : (resetTileCtrs t s).tile x = s.tile x :=
  (resetTileCtrs_le t s).tile rfl x

/-- What wear management keeps of a tile's site. -/
def Tile.wearKept (T U : Tile) : Prop :=
  U.site = T.site ∧ U.moved = T.moved ∧ U.lost = T.lost ∧ U.ueWords = T.ueWords ∧ U.ceWords = T.ceWords

theorem Tile.wearKept_setQueue {T U : Tile} (h : T.wearKept U) (q : Nat) (v : Queue) : T.wearKept (U.setQueue q v) := by
  obtain ⟨a, b, c, d, heq⟩ := Tile.setQueue_eq U q v
  rw [heq]
  exact h

theorem resetTile_tile (t : Nat) (s : State) : (resetTile t s).tile t =
    { site := (s.tile t).site, moved := (s.tile t).moved, lost := (s.tile t).lost, ueWords := (s.tile t).ueWords,
      ceWords := (s.tile t).ceWords, filling := true } := by
  have hkept : (s.tile t).wearKept
      ((forEach [0, 1, 2, 3] (fun q s => releaseLeases (withdrawFault s t q) t q fun _ => true) s).tile t) := by
    refine forEach_keeps (P := fun u => (s.tile t).wearKept (u.tile t)) ⟨rfl, rfl, rfl, rfl, rfl⟩ fun q _ u hu => ?_
    rw [releaseLeases_tile, withdrawFault_tile]
    exact Tile.wearKept_setQueue (Tile.wearKept_setQueue hu _ _) _ _
  obtain ⟨hsite, hmoved, hlost, hue, hce⟩ := hkept
  unfold resetTile
  dsimp only
  rw [State.modTile_tile, resetTileCtrs_tile, hsite, hmoved, hlost, hue, hce]

/-- A started tile stands as R50 says, and keeps what the start does not set; the start changes no other tile. -/
theorem startTile_tile (tag entry arg t : Nat) (s : State) :
    (∃ T : Tile, (startTile tag entry arg t s).tile t =
      { T with st := .run, space := tag, entry := BitVec.ofNat 32 entry, arg := BitVec.ofNat 32 arg, pend := 0,
               mask := BitVec.allOnes 64, vbase := 0, exiting := false, exitCause := 0, exitCode := 0, stopAsked := false,
               core := { T.core with pc := BitVec.ofNat 32 entry, fetching := true, waiting := false, mie := false,
                                     x := Tab.set 0 (Tab.set 0 [] 10 (BitVec.ofNat 32 arg)) 11 (BitVec.ofNat 32 t) } }) ∧
      ∀ x, x ≠ t → (startTile tag entry arg t s).tile x = s.tile x := by
  unfold startTile
  dsimp only
  refine ⟨⟨_, by rw [traceTile_tile, State.modTile_tile]⟩, fun x hx => ?_⟩
  rw [traceTile_tile, State.modTile_tile_ne _ _ _ _ hx]
  refine forEach_keeps (P := fun u => u.tile x = s.tile x) ((flushSpace_le t s).tile rfl x) fun q _ u hu => ?_
  exact (State.modTile_tile_ne _ _ _ _ hx).trans hu

/-- Settles O19: the tile stands as `startTile_tile` and `resetTile_tile` say. -/
theorem tileStartAndReset : Obligations.TileStartAndReset := by
  unfold Obligations.TileStartAndReset
  intro t tag entry arg s _
  refine ⟨?_, resetTile_tile t s⟩
  obtain ⟨⟨T, hT⟩, hother⟩ := startTile_tile tag entry arg t s
  dsimp only
  rw [hT]
  refine ⟨rfl, rfl, rfl, ?_, ?_, fun n hn h10 h11 => ?_, rfl, rfl, rfl, rfl, rfl, hother⟩
  · simp [Core.reg, Tab.get_set_ne _ _ _ _ _ (show (10 : Nat) ≠ 11 by decide)]
  · simp [Core.reg]
  · have hmod : n % 32 = n := Nat.mod_eq_of_lt hn
    simp only [Core.reg, hmod]
    rw [Tab.get_set_ne _ _ _ _ _ h11, Tab.get_set_ne _ _ _ _ _ h10]
    split <;> rfl

end Sys2Proof.Machine
end

section
/-!
PROOFS. The operations that only count, trace, raise sources or release leases leave the engines and descriptors of a tile as they were;
the posting of a completion record (R37, R140, R142).
-/

namespace Sys2Proof.Machine
open Sys2Proof

/-! ### What counting and tracing leave of a tile -/

/-- A tile has the store and the engines of another. -/
structure Tile.Calm (T U : Tile) : Prop where
  store : U.store = T.store
  storeErr : U.storeErr = T.storeErr
  st : U.st = T.st
  space : U.space = T.space
  latheQ : U.latheQ = T.latheQ
  moverLast : U.moverLast = T.moverLast

/-- A tile has the store, the engines and the descriptors of another, and every source that is pending there. -/
structure Tile.Quiet (T U : Tile) : Prop extends T.Calm U where
  pend : ∀ n, T.pend.getLsbD n = true → U.pend.getLsbD n = true
  entries : ∀ q, (U.queue q).entries = (T.queue q).entries
  lastSeq : ∀ q, (U.queue q).lastSeq = (T.queue q).lastSeq
  lastErr : ∀ q, (U.queue q).lastErr = (T.queue q).lastErr
  ring : ∀ q, (U.queue q).ring = (T.queue q).ring

/-- An operation leaves the store and the engines of tile `t` as they were. -/
abbrev Calm (t : Nat) (s u : State) : Prop := (s.tile t).Calm (u.tile t)

/-- An operation leaves the store, the engines and the descriptors of tile `t` as they were. -/
abbrev Quiet (t : Nat) (s u : State) : Prop := (s.tile t).Quiet (u.tile t)

theorem Tile.Calm.refl (T : Tile) : T.Calm T := ⟨rfl, rfl, rfl, rfl, rfl, rfl⟩

theorem Tile.Calm.trans {T U V : Tile} (h : T.Calm U) (g : U.Calm V) : T.Calm V where
  store := g.store.trans h.store
  storeErr := g.storeErr.trans h.storeErr
  st := g.st.trans h.st
  space := g.space.trans h.space
  latheQ := g.latheQ.trans h.latheQ
  moverLast := g.moverLast.trans h.moverLast

theorem Tile.Quiet.refl (T : Tile) : T.Quiet T := ⟨.refl T, fun _ h => h, fun _ => rfl, fun _ => rfl, fun _ => rfl, fun _ => rfl⟩

theorem Tile.Quiet.trans {T U V : Tile} (h : T.Quiet U) (g : U.Quiet V) : T.Quiet V where
  toCalm := h.toCalm.trans g.toCalm
  pend n hn := g.pend n (h.pend n hn)
  entries q := (g.entries q).trans (h.entries q)
  lastSeq q := (g.lastSeq q).trans (h.lastSeq q)
  lastErr q := (g.lastErr q).trans (h.lastErr q)
  ring q := (g.ring q).trans (h.ring q)

theorem quiet_of_tile_eq {t : Nat} {s u : State} (h : u.tile t = s.tile t) : Quiet t s u := by
  rw [Quiet, h]
  exact .refl _

/-- An operation whose mask lacks the tiles is quiet. -/
theorem Le.quiet {m : Nat} {s u : State} (h : Le m s u) (hm : m.testBit 0 = false) (t : Nat) : Quiet t s u :=
  quiet_of_tile_eq (h.tile hm t)

/-- Counting is quiet. -/
theorem CountedOn.quiet {t : Nat} {s u : State} (h : CountedOn t s u) : Quiet t s u := by
  obtain ⟨-, -, l, c, htile⟩ := h
  rw [Quiet, htile]
  have hq : ∀ q, ({ s.tile t with thrDue := l, core := { (s.tile t).core with mcycle := c } } : Tile).queue q = (s.tile t).queue q
    | 0 | 1 | 2 | _ + 3 => rfl
  exact ⟨⟨rfl, rfl, rfl, rfl, rfl, rfl⟩, fun _ h => h, fun q => by rw [hq], fun q => by rw [hq], fun q => by rw [hq],
    fun q => by rw [hq]⟩

theorem Tile.calm_setQueue (T : Tile) (q : Nat) (v : Queue) : T.Calm (T.setQueue q v) := by
  obtain ⟨a, b, c, d, heq⟩ := Tile.setQueue_eq T q v
  rw [heq]
  exact ⟨rfl, rfl, rfl, rfl, rfl, rfl⟩

/-- A queue that keeps its descriptors and what it posted, in its place. -/
theorem Tile.quiet_setQueue {T : Tile} {q : Nat} {v : Queue} (he : v.entries = (T.queue q).entries)
    (hs : v.lastSeq = (T.queue q).lastSeq) (hl : v.lastErr = (T.queue q).lastErr) (hr : v.ring = (T.queue q).ring) :
    T.Quiet (T.setQueue q v) := by
  have hfields : ∀ r, ((T.setQueue q v).queue r).entries = (T.queue r).entries ∧ ((T.setQueue q v).queue r).lastSeq = (T.queue r).lastSeq ∧
      ((T.setQueue q v).queue r).lastErr = (T.queue r).lastErr ∧ ((T.setQueue q v).queue r).ring = (T.queue r).ring := by
    intro r
    match q, r with
    | 0, 0 | 1, 1 | 2, 2 | _ + 3, _ + 3 => exact ⟨he, hs, hl, hr⟩
    | 0, 1 | 0, 2 | 0, _ + 3 | 1, 0 | 1, 2 | 1, _ + 3 | 2, 0 | 2, 1 | 2, _ + 3 | _ + 3, 0 | _ + 3, 1 | _ + 3, 2 => exact ⟨rfl, rfl, rfl, rfl⟩
  refine ⟨Tile.calm_setQueue T q v, ?_, fun r => (hfields r).1, fun r => (hfields r).2.1, fun r => (hfields r).2.2.1,
    fun r => (hfields r).2.2.2⟩
  obtain ⟨a, b, c, d, heq⟩ := Tile.setQueue_eq T q v
  rw [heq]
  exact fun _ h => h

theorem releaseLeases_quiet (s : State) (t q : Nat) (p : Lease → Bool) : Quiet t s (releaseLeases s t q p) := by
  rw [Quiet, releaseLeases_tile]
  exact Tile.quiet_setQueue rfl rfl rfl rfl

theorem raiseSrc_quiet (s : State) (t n : Nat) : Quiet t s (raiseSrc s t n) := by
  rw [Quiet, raiseSrc, State.modTile_tile]
  split
  · exact .refl _
  · refine ⟨⟨rfl, rfl, rfl, rfl, rfl, rfl⟩, fun k hk => ?_, fun q => ?_, fun q => ?_, fun q => ?_, fun q => ?_⟩
    · exact (BitVec.getLsbD_or ..).trans (by rw [hk, Bool.true_or])
    all_goals
      match q with
      | 0 | 1 | 2 | _ + 3 => rfl

/-- A source raised in a tile that is not frozen is pending (R42). -/
theorem raiseSrc_pending {s : State} {t n : Nat} (hn : n < 64) (h : (s.tile t).frozen = false) :
    ((raiseSrc s t n).tile t).pend.getLsbD n = true := by
  rw [raiseSrc, State.modTile_tile, h, if_neg Bool.false_ne_true]
  simp only [ofNat_two_pow]
  simp [hn]

theorem frozen_of_run {T : Tile} (h : T.st = .run) : T.frozen = false := by
  rw [Tile.frozen, h]
  rfl

theorem traceDesc_tile (s : State) (t q : Nat) (e : QEntry) (typ va aux : Nat) (data : W64) (x : Nat) :
    (traceDesc s t q e typ va aux data).tile x = s.tile x := traceTile_tile ..

/-- Bytes written to a tile store change no queue. -/
@[simp] theorem Tile.put_queue (T : Tile) (off : Nat) (bytes : List Byte) (q : Nat) : (T.put off bytes).queue q = T.queue q :=
  match q with
  | 0 | 1 | 2 | _ + 3 => rfl

@[simp] theorem storePut_queue (s : State) (t off : Nat) (bytes : List Byte) (q : Nat) : (storePut s t off bytes).queue t q = s.queue t q := by
  rw [State.queue, storePut_tile, Tile.put_queue, State.queue]

/-! ### COMPLETION_POST (R37, R140, R142) -/

/-- The completion record of a descriptor posted, before its counters, trace record and source: it stands in the ring, and the descriptor
has left the queue. -/
def recordPosted (s : State) (t q cycles : Nat) (e : QEntry) (rest : List QEntry) : State :=
  (storePut s t (ringEntry (s.queue t q) e.seq) (recordBytes e (s.tick.num.setWidth 32) cycles)).modQueue t q fun Q =>
    { Q with entries := rest, lastSeq := e.seq, lastErr := isErrorClass e.status }

theorem recordPosted_store (s : State) (t q cycles : Nat) (e : QEntry) (rest : List QEntry) :
    ((recordPosted s t q cycles e rest).tile t).store =
      Memory.put (s.tile t).store (ringEntry (s.queue t q) e.seq) (recordBytes e (s.tick.num.setWidth 32) cycles) := by
  rw [recordPosted, State.modQueue_tile, storePut_tile]
  obtain ⟨a, b, c, d, heq⟩ := Tile.setQueue_eq
    ((s.tile t).put (ringEntry (s.queue t q) e.seq) (recordBytes e (s.tick.num.setWidth 32) cycles)) q _
  rw [heq]
  rfl

theorem recordPosted_st (s : State) (t q cycles : Nat) (e : QEntry) (rest : List QEntry) :
    ((recordPosted s t q cycles e rest).tile t).st = (s.tile t).st := by
  rw [recordPosted, State.modQueue_tile, storePut_tile]
  obtain ⟨a, b, c, d, heq⟩ := Tile.setQueue_eq
    ((s.tile t).put (ringEntry (s.queue t q) e.seq) (recordBytes e (s.tick.num.setWidth 32) cycles)) q _
  rw [heq]
  rfl

theorem recordPosted_queue (s : State) (t q cycles : Nat) (e : QEntry) (rest : List QEntry) :
    (recordPosted s t q cycles e rest).queue t q =
      { s.queue t q with entries := rest, lastSeq := e.seq, lastErr := isErrorClass e.status } := by
  rw [recordPosted, State.modQueue_queue, storePut_queue]

/-- The cycles that a completion record carries (R145): those counted, or what a declined descriptor fixes. -/
def recordCycles (e : QEntry) (cycles : Nat) : Nat :=
  if e.held = .none then cycles else if e.late then max cycles e.fixed else e.fixed

/-- What follows the record: its counters, its trace record and its trigger leave the engines and the descriptors alone. -/
theorem postRecord_quiet {s : State} {t q cycles : Nat} {e : QEntry} {rest : List QEntry} (hrun : (s.tile t).st = .run) (hq : q < 4)
    (he : (s.queue t q).entries = e :: rest) (hfin : e.phase = .finished) :
    Quiet t (recordPosted s t q (recordCycles e cycles) e rest) (postRecord s t q cycles) ∧
      (0x10 ≤ e.status → ((postRecord s t q cycles).tile t).pend.getLsbD (12 + q) = true) ∧
      (e.status < 0x10 → e.notify = true → ((postRecord s t q cycles).tile t).pend.getLsbD (8 + q) = true) := by
  have hcounted : ∀ b : Bool, ∀ u, Quiet t u (if b then countTile u t 7 1 else u) := by
    intro b u
    split
    · exact (countTile_counted ..).quiet
    · exact .refl _
  have hevents : ∀ u, Quiet t u (if e.status = stPredFalse ∨ e.status = stCancelled then tileEvent u t 0x08 (some q) 1 else u) := by
    intro u
    split
    · exact (tileEvent_counted ..).quiet
    · exact .refl _
  have hfired : ∀ b : Bool, ∀ u, Quiet t u (if b then fireTrigger u 2 (u.tile t).space else u) := by
    intro b u
    split
    · exact (fireTrigger_le ..).quiet rfl t
    · exact .refl _
  have hpost : ∃ u, Quiet t (recordPosted s t q (recordCycles e cycles) e rest) u ∧ postRecord s t q cycles =
      if isErrorClass e.status then raiseSrc u t (12 + q) else if e.notify then raiseSrc u t (8 + q) else u := by
    unfold postRecord
    dsimp only
    rw [he]
    dsimp only
    rw [if_neg (by rw [hfin]; exact fun h => h rfl)]
    refine ⟨_, ?_, rfl⟩
    refine .trans ?_ (hfired ..)
    refine .trans ?_ (quiet_of_tile_eq (traceDesc_tile ..))
    refine .trans ?_ (hevents _)
    refine .trans ?_ (tileEvent_counted ..).quiet
    exact hcounted ..
  obtain ⟨u, hu, heq⟩ := hpost
  have hfrozen : (u.tile t).frozen = false := frozen_of_run (hu.st.trans ((recordPosted_st ..).trans hrun))
  rw [heq]
  by_cases hbad : 0x10 ≤ e.status
  · rw [isErrorClass, decide_eq_true hbad, if_pos rfl]
    exact ⟨hu.trans (raiseSrc_quiet ..), fun _ => raiseSrc_pending (by omega) hfrozen, fun h => absurd h (by omega)⟩
  · rw [isErrorClass, decide_eq_false hbad, if_neg Bool.false_ne_true]
    refine ⟨?_, fun h => absurd h hbad, fun _ hn => ?_⟩
    · split
      · exact hu.trans (raiseSrc_quiet ..)
      · exact hu
    · rw [if_pos hn]
      exact raiseSrc_pending (by omega) hfrozen

/-- Settles O22: the record stands in the ring before the step counts, traces and releases, none of which undoes it. -/
theorem completionPosted : Obligations.CompletionPosted := by
  unfold Obligations.CompletionPosted
  intro t q cycles e rest s ht hq hrun he hfin
  dsimp only
  obtain ⟨hpost, herr, hnote⟩ := postRecord_quiet (cycles := cycles) hrun hq he hfin
  have hact : doCompletionPost t q cycles s = releaseLeases (postRecord s t q cycles) t q fun l => !leaseNeeded (postRecord s t q cycles) t q l :=
    if_pos (Or.inl hrun)
  have hquiet := hpost.trans (releaseLeases_quiet (postRecord s t q cycles) t q fun l => !leaseNeeded (postRecord s t q cycles) t q l)
  have hrelease := releaseLeases_quiet (postRecord s t q cycles) t q fun l => !leaseNeeded (postRecord s t q cycles) t q l
  rw [← hact] at hquiet hrelease
  have hqueue := recordPosted_queue s t q (recordCycles e cycles) e rest
  refine .of_eq (require_of (okTQ_of ht hq)) ⟨?_, ?_, ?_, ?_, ?_, ?_, ?_⟩
  · rw [hquiet.store, recordPosted_store, recordBytes, ringEntry, BitVec.toNat_setWidth]
    rfl
  · exact (hquiet.entries q).trans (congrArg Queue.entries hqueue)
  · exact (hquiet.lastSeq q).trans (congrArg Queue.lastSeq hqueue)
  · exact (hquiet.lastErr q).trans (congrArg Queue.lastErr hqueue)
  · simp
  · exact fun h => hrelease.pend _ (herr h)
  · exact fun h hn => hrelease.pend _ (hnote h hn)

end Sys2Proof.Machine
end

section
/-!
PROOFS. QPUSH, TILE.EXIT and the registers of queues and receive channels (R33, R52, R140, R157).
-/

namespace Sys2Proof.Machine
open Sys2Proof

/-! ### QPUSH (R33) -/

/-- The descriptor that a push at an offset queues. -/
def pushedEntry (v : View) (T : Tile) (Q : Queue) (off : Nat) : QEntry :=
  { doff := off, seq := Q.nextSeq, ord := T.pushes, pushPc := if v = .core then T.core.pc else 0 }

theorem doQpush_queues {v : View} {t q : Nat} {val : W32} {s : State} (hrun : (s.tile t).st = .run)
    (hoff : fld val.toNat 7 15 * 128 < 0x300000) (hroom : ((s.tile t).queue q).entries.length < 16) :
    doQpush v t q val s = s.setTile t
      { (s.tile t).setQueue q { (s.tile t).queue q with
          entries := ((s.tile t).queue q).entries ++ [pushedEntry v (s.tile t) ((s.tile t).queue q) (fld val.toNat 7 15 * 128)],
          nextSeq := seqNext ((s.tile t).queue q).nextSeq } with pushes := (s.tile t).pushes + 1 } := by
  have hreach : (s.tile t).st ≠ .unavailable := by rw [hrun]; decide
  have hstore : Config.storeBytes = 0x300000 := rfl
  have hqueued : ¬(16 ≤ ((s.tile t).queue q).entries.length ∨ Config.storeBytes ≤ fld val.toNat 7 15 * 128 ∨ (s.tile t).st ≠ .run) := by
    rw [hrun, hstore]
    simp only [ne_eq, not_true_eq_false, or_false]
    omega
  rw [doQpush, regChange_reaches _ hreach]
  dsimp only
  rw [if_neg hqueued]
  cases v <;> rfl

theorem doQpush_refuses {v : View} {t q : Nat} {val : W32} {s : State} (hreach : (s.tile t).st ≠ .unavailable)
    (h : (s.tile t).st ≠ .run ∨ 0x300000 ≤ fld val.toNat 7 15 * 128 ∨ 16 ≤ ((s.tile t).queue q).entries.length) :
    doQpush v t q val s = raiseSrc (s.setQueue t q { (s.tile t).queue q with refused := true }) t 3 := by
  have hrefused : 16 ≤ ((s.tile t).queue q).entries.length ∨ Config.storeBytes ≤ fld val.toNat 7 15 * 128 ∨ (s.tile t).st ≠ .run := by
    have hstore : Config.storeBytes = 0x300000 := rfl
    rw [hstore]
    tauto
  rw [doQpush, regChange_reaches _ hreach]
  dsimp only
  rw [if_pos hrefused]

/-! ### TILE.EXIT (R52) -/

/-- Without an operation of its opcode, a tile that is done tells no one (R341). -/
theorem tileDone_of_no_op {opcode : Nat} (t : Nat) {s : State} (h : ∀ o ∈ s.belul.ops, o.opcode ≠ opcode) : tileDone opcode t s = s := by
  have hnone : (s.belul.ops.filter fun o => o.opcode == opcode && o.left.contains t) = [] := by
    refine List.filter_eq_nil_iff.mpr fun o ho => ?_
    rw [beq_eq_false_iff_ne.mpr (h o ho)]
    simp
  rw [tileDone, hnone]
  rfl

theorem doExit_runs {v : View} {t : Nat} (code : W32) {s : State} (hrun : (s.tile t).st = .run) (hex : (s.tile t).exiting = false)
    (hstop : (s.tile t).stopAsked = false) : doExit v t code s = s.setTile t
      { s.tile t with exiting := true, exitCause := 1, exitCode := code,
                      core := { (s.tile t).core with fetching := false, waiting := false } } := by
  have hreach : (s.tile t).st ≠ .unavailable := by rw [hrun]; decide
  rw [doExit, regChange_reaches _ hreach]
  dsimp only
  rw [if_pos ⟨hrun, by rw [hex]; rfl, by rw [hstop]; rfl⟩]

theorem queueMask_entries_empty {T : Tile} (h : ∀ q, q < 4 → (T.queue q).entries = []) : (T.queueMask fun q => q.entries != []) = 0 := by
  have h0 : T.q0.entries = [] := h 0 (by decide)
  have h1 : T.q1.entries = [] := h 1 (by decide)
  have h2 : T.q2.entries = [] := h 2 (by decide)
  have h3 : T.q3.entries = [] := h 3 (by decide)
  rw [Tile.queueMask, h0, h1, h2, h3]
  rfl

theorem doExitDrained_stops {t : Nat} {s : State} (hrun : (s.tile t).st = .run) (hex : (s.tile t).exiting = true)
    (hempty : ∀ q, q < 4 → ((s.tile t).queue q).entries = []) (hops : ∀ o ∈ s.belul.ops, o.opcode ≠ 0x0C04) :
    doExitDrained t s = s.setTile t { s.tile t with st := .stopped, exiting := false, stopAsked := false } := by
  unfold doExitDrained
  dsimp only
  rw [if_pos ⟨hrun, hex, queueMask_entries_empty hempty⟩]
  exact tileDone_of_no_op t hops

/-! ### Receive channels (R157) -/

theorem doRxcfgWrite_disables {v : View} {t n : Nat} {val : W32} {s : State} (hreach : (s.tile t).st ≠ .unavailable)
    (hon : ((s.tile t).chan n).enable = true) (hbit : bitAt val.toNat 31 = false) :
    doRxcfgWrite v t n val s = s.setTile t ((s.tile t).setChan n { (s.tile t).chan n with enable := false }) := by
  rw [doRxcfgWrite, regChange_reaches _ hreach, State.modTile]
  dsimp only
  rw [hon, if_pos rfl, hbit]

theorem doRxcfgWrite_enables {v : View} {t n : Nat} {val : W32} {s : State} (hreach : (s.tile t).st ≠ .unavailable)
    (hoff : ((s.tile t).chan n).enable = false) (hbit : bitAt val.toNat 31 = true)
    (hlegal : rxLegal (fld val.toNat 26 4) (fld val.toNat 22 4) (fld val.toNat 6 16 * 64) = true) :
    doRxcfgWrite v t n val s = s.setTile t ((s.tile t).setChan n
      { (s.tile t).chan n with enable := true, remote := bitAt val.toNat 30, slotLog2 := fld val.toNat 26 4,
                               cntLog2 := fld val.toNat 22 4, base := fld val.toNat 6 16 * 64, head := 0, tail := 0 }) := by
  rw [doRxcfgWrite, regChange_reaches _ hreach, State.modTile]
  dsimp only
  rw [hoff, if_neg Bool.false_ne_true, hbit, hlegal]
  rfl

/-- Settles O9: each write meets the check of its register, and each read returns what it clears. -/
theorem tileQueuesAndChannels : Obligations.TileQueuesAndChannels := by
  unfold Obligations.TileQueuesAndChannels
  refine ⟨fun v t q val s ht hq => ?push, fun v t code s ht => ?exit, fun v t n val s ht hn hreach => ?regs⟩
  case push =>
    exact ⟨fun hrun hoff hroom => (require_of (okTQ_of ht hq)).trans (congrArg _ (doQpush_queues hrun hoff hroom)),
      fun hreach h => (require_of (okTQ_of ht hq)).trans (congrArg _ (doQpush_refuses hreach h))⟩
  case exit =>
    exact ⟨fun hrun hex hstop => (require_of (okTile_of ht)).trans (congrArg _ (doExit_runs code hrun hex hstop)),
      fun hrun hex hempty hops => (require_of (okTile_of ht)).trans (congrArg _ (doExitDrained_stops hrun hex hempty hops))⟩
  case regs =>
    have hok := okTQ_of ht hn
    have hread : reaches v (s.tile t) = true := by simp [reaches, hreach]
    refine ⟨fun hempty hbase => ?ring, fun ev => ?qstat, fun hon hbit => ?off, fun hoff hbit hlegal => ?on, fun hle => ?tail,
      fun evFull evOther => ?rxref⟩
    case ring =>
      have hmoves : ¬(((s.tile t).queue n).entries ≠ [] ∨ 0x17FF < fld val.toNat 9 13) := by
        rw [hempty]
        simp [hbase]
      exact (require_of hok).trans (congrArg _ ((regChange_reaches _ hreach).trans (if_neg hmoves)))
    case qstat => exact (require_of hok).trans (congrArg _ (if_pos hread))
    case off => exact (require_of hok).trans (congrArg _ (doRxcfgWrite_disables hreach hon hbit))
    case on => exact (require_of hok).trans (congrArg _ (doRxcfgWrite_enables hreach hoff hbit hlegal))
    case tail => exact (require_of hok).trans (congrArg _ ((regChange_reaches _ hreach).trans (if_pos hle)))
    case rxref => exact (require_of hok).trans (congrArg _ (if_pos hread))

end Sys2Proof.Machine
end

section
/-!
PROOFS. The end of a long operation (R338, R341), and the events of a tile's life (R32, R52, R53, R341, R416).
-/

namespace Sys2Proof.Machine
open Sys2Proof

/-! ### Long operations (R338) -/

/-- A message interrupt changes no long operation (R253). -/
theorem msiWrite_ops (s : State) (addr : Nat) (data : W32) : (msiWrite s addr data).belul.ops = s.belul.ops := by
  have hpacket : ∀ f, (packet s vcTrussCtrl false headEnd (dieAbut (fileAbut f), unitKeystone) 8 addr 32).belul = s.belul :=
    fun f => (packet_le ..).same .belul rfl
  unfold msiWrite
  split
  · dsimp only
    split
    · unfold setIdentity
      split <;> exact congrArg Belul.ops (hpacket _)
    · exact congrArg Belul.ops (hpacket _)
  · dsimp only
    repeat' split
    all_goals rfl

theorem raiseHost_ops (s : State) (n : Nat) : (raiseHost s n).belul.ops = s.belul.ops := by
  unfold raiseHost sendMsi
  dsimp only
  split
  · rfl
  · split
    · rfl
    · exact msiWrite_ops ..

/-- The interrupt of a reply changes no long operation (R342). -/
theorem replyIrq_ops (s : State) (c n : Nat) : (replyIrq s c n).belul.ops = s.belul.ops := by
  unfold replyIrq
  split
  · exact raiseHost_ops ..
  · exact raiseHost_ops ..
  · split <;> rfl

/-- A long operation with a function applied that keeps its handle. -/
theorem modOp_op {s : State} {h : Nat} {f : LongOp → LongOp} {o : LongOp} (ho : s.op h = some o) (hf : ∀ x, (f x).handle = x.handle) :
    (modOp s h f).op h = some (f o) := by
  have hkeep : ∀ x : LongOp, ((if x.handle = h then f x else x).handle == h) = (x.handle == h) := by
    intro x
    split
    · rw [hf]
    · rfl
  have hhandle : o.handle = h := by simpa using List.find?_some ho
  change List.find? (fun x => x.handle == h) (s.belul.ops.map _) = some (f o)
  rw [List.find?_map, Function.comp_def]
  simp only [hkeep]
  rw [show s.belul.ops.find? (fun x => x.handle == h) = some o from ho, Option.map_some, if_pos hhandle]

/-- A long operation of a state is the one of another, as its FINAL reply shows it: at a position, with its slot still running where it was. -/
def ShownAt (o : LongOp) (pos : Nat) (s u : State) : Prop :=
  (∃ x, u.op o.handle = some x ∧ x.client = o.client ∧ x.slot = o.slot ∧ x.total = o.total ∧ x.position = pos) ∧
    (u.slot o.client o.slot).running = (s.slot o.client o.slot).running

theorem showPosition_shown {o x : LongOp} {s : State} (hx : s.op o.handle = some x) (hc : x.client = o.client) (hs : x.slot = o.slot)
    (ht : x.total = o.total) : ShownAt o x.position s (showPosition s o.handle) := by
  have hkept : ShownAt o x.position s s := ⟨⟨x, hx, hc, hs, ht, rfl⟩, rfl⟩
  have hwritten : ∀ p r, ShownAt o x.position s (putReply (modOp s o.handle fun y => { y with wrote := some s.tick.boundaries }) x.client x.slot p r) := by
    intro p r
    refine ⟨⟨{ x with wrote := some s.tick.boundaries }, ?_, hc, hs, ht, rfl⟩, ?_⟩
    · exact modOp_op (f := fun y => { y with wrote := some s.tick.boundaries }) hx fun _ => rfl
    · rw [putReply, hc, hs, State.modSlot_slot]
      rfl
  unfold showPosition
  rw [hx]
  dsimp only
  repeat' split
  all_goals first | exact hkept | exact hwritten ..

/-- A position set shows with the operation, in its reply now or later (R338). -/
theorem setPosition_shown {o : LongOp} {s : State} (ho : s.op o.handle = some o) (pos : Nat) :
    ShownAt o pos s (setPosition s o.handle pos) := by
  unfold setPosition
  rw [ho]
  dsimp only
  split
  case isTrue h => exact ⟨⟨o, ho, rfl, rfl, rfl, h⟩, rfl⟩
  case isFalse h =>
    have hmod : (modOp s o.handle fun y => { y with position := pos }).op o.handle = some { o with position := pos } :=
      modOp_op (f := fun y => { y with position := pos }) ho fun _ => rfl
    exact showPosition_shown hmod rfl rfl rfl

/-- Fields of 4 bytes each. -/
theorem dataLen_words (l : List Nat) : dataLen (l.map fun t => (4, t)) = 4 * l.length := by
  have hfold : ∀ n, (l.map fun t => (4, t)).foldl (fun a (f : Nat × Nat) => a + f.1) n = n + 4 * l.length := by
    induction l with
    | nil => simp
    | cons x xs ih =>
      intro n
      rw [List.map_cons, List.foldl_cons, ih, List.length_cons]
      omega
  rw [dataLen, hfold, Nat.zero_add]

theorem withData_of_fits (r : Reply) {d : List (Nat × Nat)} (hd : dataLen d ≤ 216) :
    withData r d = { r with rdlen := dataLen d, rbuf := false, data := d } := by
  rw [withData, decide_eq_false (by omega)]

/-- The FINAL reply of a long operation whose data fits its slot: the operation is gone, and its reply shows how it ended (R338). -/
theorem finishOp_spec {o x : LongOp} {u : State} (hx : u.op o.handle = some x) (hc : x.client = o.client) (hs : x.slot = o.slot) (status : Nat)
    {d : List (Nat × Nat)} (hd : dataLen d ≤ 216) :
    (finishOp u o.handle status d).op o.handle = none ∧ ((u.slot o.client o.slot).running.isSome = true →
      let y := (finishOp u o.handle status d).slot o.client o.slot
      y.busy = false ∧ y.reply.status = status ∧ y.reply.final = true ∧ y.reply.data = d ∧ y.reply.handle = o.handle ∧
        y.reply.position = x.position) := by
  have hgone : ∀ v : State, v.belul.ops = u.belul.ops.filter (fun o' => o'.handle != o.handle) → v.op o.handle = none := by
    intro v hv
    rw [State.op, hv]
    simp
  have hlong : decide (216 < dataLen d) = false := decide_eq_false (by omega)
  unfold finishOp
  rw [hx]
  dsimp only
  rw [hc, hs]
  split
  case h_1 hnone =>
    have hidle : (u.slot o.client o.slot).running = none := hnone
    exact ⟨hgone _ rfl, fun hrun => by rw [hidle] at hrun; cases hrun⟩
  case h_2 p _ =>
    have key : ∀ v : State, (if p.irq then replyIrq v o.client o.slot else v).belul.ops = v.belul.ops ∧
        (if p.irq then replyIrq v o.client o.slot else v).slot o.client o.slot = v.slot o.client o.slot := by
      intro v
      split
      · exact ⟨replyIrq_ops .., slot_of_slots (replyIrq_slots ..) ..⟩
      · exact ⟨rfl, rfl⟩
    simp only [hlong, Bool.false_and, Bool.and_false, Bool.false_eq_true, if_false, withData_of_fits _ hd]
    refine ⟨hgone _ ((key _).1.trans rfl), fun _ => ?_⟩
    simp only [(key _).2, putReply, State.modSlot_slot]
    exact ⟨trivial, trivial, trivial, trivial, trivial, trivial⟩

/-! ### Fills and drains (R32, R52, R53) -/

theorem tileDone_tile (opcode t : Nat) (s : State) (x : Nat) : (tileDone opcode t s).tile x = s.tile x :=
  (tileDone_le opcode t s).tile rfl x

theorem doStoreFillComplete_fills {t : Nat} {s : State} (h : (s.tile t).filling = true) : doStoreFillComplete t s =
    actLoad t (tileDone 0x0C01 t (s.setTile t { s.tile t with filling := false })) := by
  unfold doStoreFillComplete
  rw [h]
  rfl

/-- A tile without a held load goes on. -/
theorem actLoad_of_none {t : Nat} {s : State} (h : (s.tile t).load = none) : actLoad t s = s := by
  rw [actLoad, h]

theorem doStopDrainStart_runs {t : Nat} {s : State} (hasked : (s.tile t).stopAsked = true) (hrun : (s.tile t).st = .run)
    (hdrain : (s.tile t).drain = .none) : doStopDrainStart t s = s.setTile t
      { s.tile t with st := .draining, drain := .stop, latheLeft := (s.tile t).latheQ.isSome, chainLeft := (s.tile t).chainBusy,
                      core := { (s.tile t).core with fetching := false, waiting := false } } := by
  unfold doStopDrainStart startDrain
  dsimp only
  rw [if_pos ⟨hasked, Or.inl hrun, by simp [Tile.moving, hrun]⟩, State.modTile]
  simp [hrun, hdrain]

theorem doStopDrainStart_moving {t : Nat} {s : State} (hst : (s.tile t).st = .draining) (hdrain : (s.tile t).drain = .move) :
    doStopDrainStart t s = s := by
  unfold doStopDrainStart
  dsimp only
  rw [if_neg (by simp [Tile.moving, hst, hdrain])]

section DrainEnds
variable {t : Nat} {s : State} (hst : (s.tile t).st = .draining) (hidle : (s.tile t).engineIdle = true)
include hst hidle

theorem doDrainComplete_move (hdrain : (s.tile t).drain = .move) : doDrainComplete t s = finishMove s t := by
  unfold doDrainComplete
  simp only [hst, hidle, hdrain, ne_eq, not_true_eq_false, Bool.not_true, Bool.false_eq_true, or_self, if_false]

theorem doDrainComplete_halt (hdrain : (s.tile t).drain = .halt) (hresume : (s.tile t).core.resumeWaiting = false) :
    doDrainComplete t s = tileDone opTileHalt t (s.modTile t fun T => { T with st := .halted }) := by
  unfold doDrainComplete
  simp only [hst, hidle, hdrain, hresume, ne_eq, not_true_eq_false, Bool.not_true, Bool.false_eq_true, or_self, if_false]

/-- After a drain for a stop the tile is STOPPED, without an engine at work (R53). -/
theorem doDrainComplete_stop (hdrain : (s.tile t).drain = .stop) :
    ((doDrainComplete t s).tile t).st = .stopped ∧ ((doDrainComplete t s).tile t).drain = .none ∧
      ((doDrainComplete t s).tile t).latheQ = none ∧ ((doDrainComplete t s).tile t).chain = none := by
  unfold doDrainComplete
  simp only [hst, hidle, hdrain, ne_eq, not_true_eq_false, Bool.not_true, Bool.false_eq_true, or_self, if_false, tileDone_tile,
    State.modTile_tile]
  exact ⟨trivial, trivial, trivial, trivial⟩

/-- After a drain for a double fault the tile is FAULTED (R27, R53). -/
theorem doDrainComplete_fault (hdrain : (s.tile t).drain = .fault) :
    ((doDrainComplete t s).tile t).st = .faulted ∧ ((doDrainComplete t s).tile t).drain = .none := by
  unfold doDrainComplete
  simp only [hst, hidle, hdrain, ne_eq, not_true_eq_false, Bool.not_true, Bool.false_eq_true, or_self, if_false, tileDone_tile,
    State.modTile_tile]
  exact ⟨trivial, trivial⟩

end DrainEnds

/-! ### The end of a move (R416) -/

theorem State.modWear_tile (s : State) (f : Wear → Wear) (x : Nat) : (s.modWear f).tile x = s.tile x := rfl

/-- A move of a running tile without store errors takes the store and the state with it to the next spare site. -/
theorem moveSite_tile {s : State} {t : Nat} (hst : (s.tile t).st ≠ .reset) (herr : (s.tile t).storeErr = []) : (moveSite s t).tile t =
    { s.tile t with site := 108 + s.sparesUsed 1 (deckOf t), moved := true, correctPend := [], ueWords := [], ceWords := [] } := by
  have htile : (useSpare s 1 (deckOf t)).tile t = s.tile t := (useSpare_le s 1 (deckOf t)).tile rfl t
  have hcopy : ∀ u, forEach (s.tile t).storeErr (copyWord t) u = u := fun u => by rw [herr, forEach_nil]
  unfold moveSite
  dsimp only
  rw [(logEvent_le ..).tile rfl, (addRec_le ..).tile rfl, State.modWear_tile, State.modTile_tile, htile, if_neg fun h => hst h.1, hcopy,
    htile]
  rfl

theorem logEvent_wear (s : State) (code cls die : Nat) (data : List Nat) : (logEvent s code cls die data).wear = s.wear :=
  (logEvent_le s code cls die data).same .wear rfl

theorem addRec_wear (s : State) (kind key : Nat) (data : List Nat) : (addRec s kind key data).wear = s.wear := rfl

theorem useSpare_wear (s : State) (kind scope : Nat) : (useSpare s kind scope).wear =
    { s.wear with sparesUsed := Tab.set 0 s.wear.sparesUsed (spareKey kind scope) (s.sparesUsed kind scope + 1) } := by
  unfold useSpare
  dsimp only
  split
  · exact (logStored_le ..).same .wear rfl
  · rfl

/-- A move of a running tile without store errors takes one spare of its deck die. -/
theorem moveSite_wear {s : State} {t : Nat} (hst : (s.tile t).st ≠ .reset) (herr : (s.tile t).storeErr = []) :
    (moveSite s t).wear.moving = s.wear.moving ∧ (moveSite s t).sparesUsed 1 (deckOf t) = s.sparesUsed 1 (deckOf t) + 1 := by
  have htile : (useSpare s 1 (deckOf t)).tile t = s.tile t := (useSpare_le s 1 (deckOf t)).tile rfl t
  have hwear : ∃ low queue since, (moveSite s t).wear =
      { (useSpare s 1 (deckOf t)).wear with low := low, queue := queue, since := since } := by
    unfold moveSite
    dsimp only
    rw [htile, if_neg fun h => hst h.1, herr, forEach_nil, logEvent_wear, addRec_wear, State.modWear_wear, State.modTile_wear]
    exact ⟨_, _, _, rfl⟩
  obtain ⟨low, queue, since, hwear⟩ := hwear
  rw [State.sparesUsed, hwear, useSpare_wear]
  exact ⟨rfl, Tab.get_set_self ..⟩

/-- A move that no halt request met ends with the tile in RUN. -/
theorem finishMove_of_no_halt {s : State} {t : Nat} (hst : (s.tile t).st ≠ .reset) (herr : (s.tile t).storeErr = [])
    (hhalt : (s.tile t).haltAsked = none) :
    finishMove s t = ((moveSite s t).modWear fun w => { w with moving := w.moving.filter fun n => n.res != t }).modTile t fun T =>
      { T with st := .run, drain := .none, haltAsked := none } := by
  unfold finishMove
  dsimp only
  rw [State.modWear_tile, moveSite_tile hst herr, hhalt]

/-- Settles O20: each event of a tile's life acts on the tile, and the operations that wait for it are the Belul interface's. -/
theorem tileLifeEvents : Obligations.TileLifeEvents := by
  unfold Obligations.TileLifeEvents
  intro t s ht
  have hok := okTile_of ht
  refine ⟨fun hfill hload hops => ?fill, fun hfill l _ => ?load, fun hasked hrun hdrain => ?stop, fun _ hst hdrain => ?moving,
    fun hst hidle => ⟨fun hdrain hhalt herr => ?move, fun hdrain hops hresume => ?halt, fun hdrain => ?stopped, fun hdrain => ?fault⟩,
    fun failing o hof hop hleft hlen => ?test⟩
  case fill =>
    refine (require_of hok).trans (congrArg _ ?_)
    rw [doStoreFillComplete_fills hfill, tileDone_of_no_op (s := s.setTile t _) t hops, actLoad_of_none]
    rw [State.setTile_tile]
    exact hload
  case load => exact (require_of hok).trans (congrArg _ (doStoreFillComplete_fills hfill))
  case stop => exact (require_of hok).trans (congrArg _ (doStopDrainStart_runs hasked hrun hdrain))
  case moving => exact (require_of hok).trans (congrArg _ (doStopDrainStart_moving hst hdrain))
  case move =>
    have hreset : (s.tile t).st ≠ .reset := by rw [hst]; decide
    have hends := doDrainComplete_move hst hidle hdrain
    obtain ⟨hmoving, hspares⟩ := moveSite_wear hreset herr
    refine .of_eq ((require_of hok).trans (congrArg _ (hends.trans (finishMove_of_no_halt hreset herr hhalt)))) ⟨?_, ?_, hspares⟩
    · rw [State.modTile_tile, State.modWear_tile, moveSite_tile hreset herr]
      simp only [hhalt]
    · rw [State.modTile_wear, State.modWear_wear, hmoving]
  case halt =>
    have hends := doDrainComplete_halt hst hidle hdrain hresume
    exact (require_of hok).trans (congrArg _ (hends.trans (tileDone_of_no_op t hops)))
  case stopped => exact .of_eq (require_of hok) (doDrainComplete_stop hst hidle hdrain)
  case fault => exact .of_eq (require_of hok) (doDrainComplete_fault hst hidle hdrain)
  case test =>
    have htiles : failing.all okTile = true := List.all_eq_true.mpr fun x hx => okTile_of (hleft x hx).1
    have hall : (failing.all fun t => o.left.contains t) = true :=
      List.all_eq_true.mpr fun x hx => List.contains_iff_mem.mpr (hleft x hx).2
    have hact : doTileTestComplete failing s = finishOp (setPosition s o.handle o.total) o.handle bsCompleted (failing.map fun t => (4, t)) := by
      unfold doTileTestComplete
      rw [show s.opOf opTileTest = some o from hof]
      dsimp only
      rw [hall]
      rfl
    have hfit : dataLen (failing.map fun t => (4, t)) ≤ 216 := by
      rw [dataLen_words]
      omega
    obtain ⟨⟨x, hx, hc, hs, -, hpos⟩, hrunning⟩ := setPosition_shown hop o.total
    obtain ⟨hgone, hreply⟩ := finishOp_spec hx hc hs bsCompleted hfit
    rw [hrunning] at hreply
    refine .of_eq ((require_of htiles).trans (congrArg _ hact)) ⟨⟨hgone, fun h => ?_⟩, fun h => ?_⟩
    · obtain ⟨hbusy, hstatus, hfinal, hdata, hhandle, -⟩ := hreply h
      exact ⟨hstatus, hfinal, hdata, hhandle, hbusy⟩
    · obtain ⟨-, -, -, -, -, hposition⟩ := hreply h
      exact hposition.trans hpos

end Sys2Proof.Machine
end

section
/-!
PROOFS. What the operations on a descriptor leave of its entry, and the start of a descriptor (R34–R36, R130, R145).
-/

namespace Sys2Proof.Machine
open Sys2Proof

/-! ### The entry of a descriptor -/

/-- A property of an entry that implies another. -/
theorem HasEntry.imp {s : State} {t q : Nat} {seq : W32} {P P' : QEntry → Prop} (h : HasEntry s t q seq P) (hP : ∀ y, P y → P' y) :
    HasEntry s t q seq P' := by
  obtain ⟨y, hy, hseq, hp⟩ := h
  exact ⟨y, hy, hseq, hP y hp⟩

theorem HasEntry.of_entries {s u : State} {t q : Nat} {seq : W32} {P : QEntry → Prop} (h : HasEntry s t q seq P)
    (he : (u.queue t q).entries = (s.queue t q).entries) : HasEntry u t q seq P := by
  rw [HasEntry, he]
  exact h

theorem hasEntry_quiet {s u : State} {t q : Nat} {seq : W32} {P : QEntry → Prop} (hu : Quiet t s u) (h : HasEntry s t q seq P) :
    HasEntry u t q seq P := h.of_entries (hu.entries q)

theorem modEntry_entries (s : State) (t q : Nat) (seq : W32) (f : QEntry → QEntry) :
    ((modEntry s t q seq f).queue t q).entries = (s.queue t q).entries.map fun e => if e.seq = seq then f e else e := by
  rw [modEntry, State.modQueue_queue]

theorem modEntry_calm (s : State) (t q : Nat) (seq : W32) (f : QEntry → QEntry) : Calm t s (modEntry s t q seq f) := by
  rw [Calm, modEntry, State.modQueue_tile]
  exact Tile.calm_setQueue ..

/-- A descriptor with a function applied is what the function makes of it. -/
theorem hasEntry_modEntry {s : State} {t q : Nat} {seq : W32} {P P' : QEntry → Prop} {f : QEntry → QEntry} (h : HasEntry s t q seq P)
    (hf : ∀ y, y.seq = seq → P y → (f y).seq = seq ∧ P' (f y)) : HasEntry (modEntry s t q seq f) t q seq P' := by
  obtain ⟨y, hy, hseq, hp⟩ := h
  obtain ⟨hseq', hp'⟩ := hf y hseq hp
  refine ⟨f y, ?_, hseq', hp'⟩
  rw [modEntry_entries]
  exact List.mem_map.mpr ⟨y, hy, if_pos hseq⟩

/-- A descriptor that finishes: its sources and its leases are the only other effect (R136, R142). -/
theorem endEntry_quiet (s : State) (t q : Nat) (seq : W32) (status : Nat) (detail : W64) (flags : BitVec 16) :
    Quiet t (modEntry s t q seq fun e => { e with phase := .finished, status := status, detail := detail, flags := flags })
      (endEntry s t q seq status detail flags) := by
  have hraised : ∀ u, Quiet t u (if status = stStoreUncorr then raiseSrc u t 1 else u) := by
    intro u
    split
    · exact raiseSrc_quiet ..
    · exact .refl _
  have hreleased : ∀ u, Quiet t u (if (u.queue t q).entries.any fun e => e.phase == .active then u else releaseLeases u t q fun _ => true) := by
    intro u
    split
    · exact .refl _
    · exact releaseLeases_quiet ..
  exact (hraised _).trans (hreleased _)

theorem endEntry_calm (s : State) (t q : Nat) (seq : W32) (status : Nat) (detail : W64) (flags : BitVec 16) :
    Calm t s (endEntry s t q seq status detail flags) := (modEntry_calm ..).trans (endEntry_quiet ..).toCalm

theorem hasEntry_endEntry {s : State} {t q : Nat} {seq : W32} {P P' : QEntry → Prop} {status : Nat} {detail : W64} {flags : BitVec 16}
    (h : HasEntry s t q seq P)
    (hP : ∀ y, P y → P' { y with phase := .finished, status := status, detail := detail, flags := flags }) :
    HasEntry (endEntry s t q seq status detail flags) t q seq P' :=
  hasEntry_quiet (endEntry_quiet ..) (hasEntry_modEntry h fun y hseq hp => ⟨hseq, hP y hp⟩)

theorem decline_calm (s : State) (t q : Nat) (seq : W32) (held : Held) (cycles status : Nat) (detail : W64) (flags : BitVec 16) :
    Calm t s (decline s t q seq held cycles status detail flags) := (endEntry_calm ..).trans (modEntry_calm ..)

/-- A descriptor that does no work finishes, and holds its queue or its engine (R145). -/
theorem hasEntry_decline {s : State} {t q : Nat} {seq : W32} {P P' : QEntry → Prop} {held : Held} {cycles status : Nat} {detail : W64}
    {flags : BitVec 16} (h : HasEntry s t q seq P)
    (hP : ∀ y late, P y → P' { y with phase := .finished, status := status, detail := detail, flags := flags,
                                      held := held, fixed := cycles, late := late }) :
    HasEntry (decline s t q seq held cycles status detail flags) t q seq P' := by
  refine hasEntry_modEntry (P := fun z => ∃ y, P y ∧ z = { y with phase := .finished, status := status, detail := detail, flags := flags })
    (hasEntry_endEntry h fun y hp => ⟨y, hp, rfl⟩) fun z hseq hz => ⟨hseq, ?_⟩
  obtain ⟨y, hp, rfl⟩ := hz
  exact hP y _ hp

theorem served_quiet (s : State) (t q engine : Nat) : Quiet t s (served s t q engine) := by
  have hqueue : ∀ (T : Tile) (a b r : Nat), ({ T with latheLast := a, chainLast := b } : Tile).queue r = T.queue r
    | _, _, _, 0 | _, _, _, 1 | _, _, _, 2 | _, _, _, _ + 3 => rfl
  have hlast : ∀ (T : Tile) (a b : Nat), T.Quiet { T with latheLast := a, chainLast := b } := fun T a b =>
    ⟨⟨rfl, rfl, rfl, rfl, rfl, rfl⟩, fun _ h => h, fun r => by rw [hqueue], fun r => by rw [hqueue], fun r => by rw [hqueue],
      fun r => by rw [hqueue]⟩
  unfold served
  split
  · rw [Quiet, State.modTile_tile]
    exact hlast ..
  · rw [Quiet, State.modTile_tile]
    exact hlast ..
  · exact .refl _

/-- Without a store error, operand ranges are read as they stand (R31). -/
theorem readRanges_clean {s : State} {t : Nat} (h : (s.tile t).storeErr = []) (ranges : List (Nat × Nat)) :
    readRanges s t ranges = (s, (s.tile t).store, none) := if_pos h

/-! ### The descriptor that starts (R35, R36) -/

theorem splitQueued_mem {l : List QEntry} {e : QEntry} (h : (splitQueued l).2 = some e) : e ∈ l := by
  induction l with
  | nil => cases h
  | cons x xs ih =>
    rw [splitQueued] at h
    split at h
    · cases h
      exact List.mem_cons_self ..
    · exact List.mem_cons_of_mem _ (ih h)

theorem queueAllows_mem {T : Tile} {Q : Queue} {x : QEntry × Header} (h : queueAllows T Q = some x) : x.1 ∈ Q.entries := by
  unfold queueAllows at h
  split at h
  · cases h
  · split at h
    · cases h
    case h_2 before e hsplit =>
      dsimp only at h
      split at h
      · cases h
      · cases h
        exact splitQueued_mem (congrArg Prod.snd hsplit)

theorem startable_mem {T : Tile} {q : Nat} {x : QEntry × Header} (h : startable T q = some x) : x.1 ∈ (T.queue q).entries := by
  unfold startable at h
  split at h
  · cases h
  case h_2 y hy =>
    have hyx : y = x := by
      split at h
      · split at h <;> cases h
        rfl
      · split at h <;> cases h
        rfl
      · cases h
        rfl
    rw [← hyx]
    exact queueAllows_mem hy

/-- What the start of a descriptor has set when its engine is named: the descriptor is as read, and its header's fields stand. -/
def Started (d : List Byte) (h : Header) (y : QEntry) : Prop :=
  y.phase ≠ .queued ∧ y.engine = h.engine ∧ y.user = BitVec.ofNat 16 h.user ∧ y.notify = h.notify ∧ y.desc.take 128 = d

theorem Started.finished {d : List Byte} {h : Header} {y : QEntry} (hy : Started d h y) (status : Nat) (detail : W64) (flags : BitVec 16) :
    Started d h { y with phase := .finished, status := status, detail := detail, flags := flags } := by
  obtain ⟨-, rest⟩ := hy
  exact ⟨by simp, rest⟩

theorem Started.declined {d : List Byte} {h : Header} {y : QEntry} (hy : Started d h y) (status : Nat) (detail : W64) (flags : BitVec 16)
    (held : Held) (cycles : Nat) (late : Bool) : Started d h
      { y with phase := .finished, status := status, detail := detail, flags := flags, held := held, fixed := cycles, late := late } := by
  obtain ⟨-, rest⟩ := hy
  exact ⟨by simp, rest⟩

theorem badConfig_started {s : State} {t q : Nat} {e : QEntry} {d : List Byte} {h : Header} (hs : HasEntry s t q e.seq (Started d h))
    (reason : Nat) : HasEntry (badConfig s t q e reason) t q e.seq (Started d h) :=
  hasEntry_decline hs fun _ _ hy => hy.declined ..

theorem startLathe_started {s : State} {t q : Nat} {e : QEntry} {d : List Byte} {h : Header} (hs : HasEntry s t q e.seq (Started d h)) :
    HasEntry (startLathe s t q e) t q e.seq (Started d h) := by
  unfold startLathe
  dsimp only
  split
  · exact badConfig_started hs _
  · split
    · exact hasEntry_decline hs fun _ _ hy => hy.declined ..
    · refine hs.of_entries ?_
      rw [State.modTile_queue]
      match q with
      | 0 | 1 | 2 | _ + 3 => rfl

theorem startChain_started {s : State} {t q : Nat} {e : QEntry} {d : List Byte} {h : Header} (herr : (s.tile t).storeErr = [])
    (hs : HasEntry s t q e.seq (Started d h)) : HasEntry (startChain s t q e) t q e.seq (Started d h) := by
  unfold startChain
  simp only [readRanges_clean herr]
  split
  · exact badConfig_started hs _
  · refine hs.of_entries ?_
    rw [State.modTile_queue]
    match q with
    | 0 | 1 | 2 | _ + 3 => rfl

/-- A mover descriptor that starts keeps the bytes of the descriptor before those of its records. -/
theorem moverKeep_take (img : Tab Byte) {d : List Byte} (hd : d.length = 128) (c : MoverCfg) : (moverKeep img d c).take 128 = d := by
  unfold moverKeep
  dsimp only
  simp only [List.append_assoc]
  rw [← hd]
  exact List.take_left ..

theorem startMover_started {s : State} {t q : Nat} {e : QEntry} {d : List Byte} {h : Header} (herr : (s.tile t).storeErr = [])
    (hd : d.length = 128) (hed : e.desc = d) (he : Started d h e) (hs : HasEntry s t q e.seq (Started d h)) :
    HasEntry (startMover s t q e) t q e.seq (Started d h) := by
  unfold startMover
  simp only [readRanges_clean herr, Option.or_none]
  obtain ⟨hphase, hengine, huser, hnotify, -⟩ := he
  have hkept : ∀ img, HasEntry (modEntry s t q e.seq fun _ => { e with desc := moverKeep img e.desc (parseMover e.desc) }) t q e.seq
      (Started d h) := fun img =>
    hasEntry_modEntry hs fun _ _ _ => ⟨rfl, hphase, hengine, huser, hnotify, by rw [hed]; exact moverKeep_take img hd _⟩
  split
  · exact badConfig_started hs _
  · repeat' split
    all_goals first | exact hkept _ | exact hasEntry_endEntry (hkept _) fun _ hy => hy.finished ..

/-- An engine that a header names starts its descriptor, whatever its own checks answer. -/
theorem startEngine_started {s : State} {t q : Nat} {e : QEntry} {d : List Byte} {h : Header} (herr : (s.tile t).storeErr = [])
    (hd : d.length = 128) (hed : e.desc = d) (he : Started d h e) (hs : HasEntry s t q e.seq (Started d h)) (hengine : h.engine ≠ 0) :
    HasEntry (startEngine s t q e h) t q e.seq (Started d h) := by
  have hquiet := served_quiet s t q h.engine
  have hserved := hasEntry_quiet hquiet hs
  have herr' := hquiet.storeErr.trans herr
  unfold startEngine
  dsimp only
  split
  case h_1 hz => exact absurd hz hengine
  case h_2 => exact startMover_started herr' hd hed he hserved
  case h_3 => exact startLathe_started hserved
  case h_4 => exact startChain_started herr' hserved

/-! ### DESCRIPTOR_START (R34, R130, R145) -/

/-- The entry of a descriptor whose header has been read. -/
def startedEntry (e : QEntry) (d : List Byte) : QEntry :=
  { e with phase := .active, desc := d, engine := (parseHeader d).engine, user := BitVec.ofNat 16 (parseHeader d).user,
           notify := (parseHeader d).notify }

/-- What the header of a started descriptor leads to (R130, R145): the end of a descriptor that cascades, whose header is refused or whose
predicate fails, or the start of its engine. -/
def startOutcome (s : State) (t q : Nat) (e : QEntry) (d : List Byte) (look : Header) (lastErr : Bool) (word : Nat) : State :=
  let h := parseHeader d
  let ends := fun (cycles status : Nat) (detail : W64) => served (decline s t q e.seq .queue cycles status detail 0) t q look.engine
  if h.casc ∧ lastErr then ends 2 stCancelled 0
  else match headerReason h with
    | some x => ends 2 stBadConfig (BitVec.ofNat 64 x)
    | none =>
      if h.predOp = 0 ∨ predTest h.predOp word h.predVal then startEngine s t q (startedEntry e d) h
      else ends (predCycles h + 2) stPredFalse (BitVec.ofNat 64 word)

/-- A descriptor starts in a tile without store errors: its entry is read, traced, and its header decides. -/
theorem doDescriptorStart_clean {t q : Nat} {e : QEntry} {look : Header} {s : State} (hrun : (s.tile t).st = .run)
    (herr : (s.tile t).storeErr = []) (hstart : startable (s.tile t) q = some (e, look)) :
    ∃ u, Calm t s u ∧ HasEntry u t q e.seq (fun y => y = startedEntry e (Memory.bytes (s.tile t).store e.doff 128)) ∧
      doDescriptorStart t q s = startOutcome u t q e (Memory.bytes (s.tile t).store e.doff 128) look (s.queue t q).lastErr
        (Memory.le (s.tile t).store (parseHeader (Memory.bytes (s.tile t).store e.doff 128)).predOff 4) := by
  unfold doDescriptorStart
  dsimp only
  rw [if_neg (by rw [hrun]; exact fun h => h rfl), hstart]
  dsimp only
  simp only [readRanges_clean herr, show (none == some e.doff) = false from rfl, Bool.false_eq_true, if_false, Bool.not_false, Bool.and_true]
  generalize hu : traceDesc _ _ _ _ _ _ _ _ = u
  have hcalm : Calm t s u := by
    rw [← hu]
    exact (modEntry_calm ..).trans (quiet_of_tile_eq (traceDesc_tile ..)).toCalm
  have hentry : HasEntry u t q e.seq (fun y => y = startedEntry e (Memory.bytes (s.tile t).store e.doff 128)) := by
    rw [← hu]
    exact hasEntry_quiet (quiet_of_tile_eq (traceDesc_tile ..))
      (hasEntry_modEntry (P := fun _ => True) ⟨e, startable_mem hstart, rfl, trivial⟩ fun _ _ _ => ⟨rfl, rfl⟩)
  refine ⟨u, hcalm, hentry, ?_⟩
  simp only [readRanges_clean (hcalm.storeErr.trans herr), hcalm.store]
  unfold startOutcome
  dsimp only [startedEntry]
  split
  · exact (if_pos ‹_›).symm
  · refine Eq.trans ?_ (if_neg ‹_›).symm
    cases headerReason (parseHeader (Memory.bytes (s.tile t).store e.doff 128))
    case some x => rfl
    case none =>
      dsimp only
      by_cases hp : (parseHeader (Memory.bytes (s.tile t).store e.doff 128)).predOp = 0
      · rw [if_pos hp, if_pos (Or.inl hp)]
      · rw [if_neg hp]
        simp only [hp, false_or]

/-- The end that the header of a started descriptor leads to leaves the store alone. -/
theorem declined_ends {u : State} {t q : Nat} {e : QEntry} {d : List Byte} (engine cycles status : Nat) (detail : W64)
    (h : HasEntry u t q e.seq fun y => y = startedEntry e d) :
    HasEntry (served (decline u t q e.seq .queue cycles status detail 0) t q engine) t q e.seq
      (fun y => y.phase = .finished ∧ y.status = status ∧ y.detail = detail ∧ y.flags = 0 ∧ y.desc = d) ∧
      Calm t u (served (decline u t q e.seq .queue cycles status detail 0) t q engine) := by
  refine ⟨hasEntry_quiet (served_quiet ..) (hasEntry_decline h fun y late hy => ?_), (decline_calm ..).trans (served_quiet ..).toCalm⟩
  rw [hy]
  exact ⟨rfl, rfl, rfl, rfl, rfl⟩

/-- Settles O21: `doDescriptorStart_clean` reads the entry, and each outcome of its header ends or starts it. -/
theorem descriptorStarts : Obligations.DescriptorStarts := by
  unfold Obligations.DescriptorStarts
  intro t q e look s ht hq hrun herr hstart
  obtain ⟨u, hcalm, hentry, hact⟩ := doDescriptorStart_clean hrun herr hstart
  have hlen : (Memory.bytes (s.tile t).store e.doff 128).length = 128 := Memory.length_bytes ..
  have hexec : exec (.descriptorStart t q) s = .next _ := (require_of (okTQ_of ht hq)).trans (congrArg _ hact)
  unfold startOutcome at hexec
  dsimp only at hexec ⊢
  generalize Memory.bytes (s.tile t).store e.doff 128 = d at *
  have hends : ∀ cycles status detail, exec (.descriptorStart t q) s =
      .next (served (decline u t q e.seq .queue cycles status detail 0) t q look.engine) →
      Completes (.descriptorStart t q) s fun v => HasEntry v t q e.seq (fun y => y.phase = .finished ∧ y.status = status ∧
        y.detail = detail ∧ y.flags = 0 ∧ y.desc = d) ∧ (v.tile t).store = (s.tile t).store := by
    intro cycles status detail h
    obtain ⟨he, hc⟩ := declined_ends look.engine cycles status detail hentry
    exact .of_eq h ⟨he, hc.store.trans hcalm.store⟩
  refine ⟨fun hcasc herrs => ?_, fun hgoes => ?_⟩
  · have hcascades : (parseHeader d).casc = true ∧ (s.queue t q).lastErr = true := ⟨hcasc, herrs⟩
    rw [if_pos hcascades] at hexec
    exact hends _ _ _ hexec
  have hkeeps : ¬((parseHeader d).casc = true ∧ (s.queue t q).lastErr = true) := fun h =>
    hgoes.elim (fun hc => absurd h.1 (by rw [hc]; decide)) fun hl => absurd h.2 (by rw [hl]; decide)
  rw [if_neg hkeeps] at hexec
  refine ⟨fun x hx => ?_, fun hnone => ?_⟩
  · rw [hx] at hexec
    exact hends _ _ _ hexec
  rw [hnone] at hexec
  dsimp only at hexec
  refine ⟨fun hpred hop => ?_, fun hpred => ?_⟩
  · rw [if_neg (fun h => h.elim hop fun hp => absurd hp (by rw [hpred]; decide))] at hexec
    exact hends _ _ _ hexec
  rw [if_pos hpred.symm] at hexec
  refine ⟨fun hfence hmask => ?_, fun hengine => ?_⟩
  · have hwaits : startEngine u t q (startedEntry e d)
        (parseHeader d) = u := by
      unfold startEngine served
      rw [hfence]
      exact if_neg hmask
    refine .of_eq (hexec.trans (congrArg _ hwaits)) ⟨hentry.imp fun y hy => ?_, hcalm.store⟩
    rw [hy]
    exact ⟨rfl, rfl, hfence, rfl, rfl⟩
  · have hstarted : Started d (parseHeader d)
        (startedEntry e d) :=
      ⟨by simp [startedEntry], rfl, rfl, rfl, List.take_of_length_le hlen.le⟩
    exact .of_eq hexec (startEngine_started (hcalm.storeErr.trans herr) hlen rfl hstarted
      (hentry.imp fun y hy => by rw [hy]; exact hstarted) hengine)

end Sys2Proof.Machine
end

section
/-!
PROOFS. FENCE_COMPLETE and LEASE_REQUEST (R38, R136, R143, R169, R171).
-/

namespace Sys2Proof.Machine
open Sys2Proof

/-! ### FENCE (R38) -/

/-- A descriptor that ends without a store error raises no source and leaves the core alone. -/
theorem endEntry_core {s : State} {t q : Nat} {seq : W32} {status : Nat} {detail : W64} {flags : BitVec 16} (h : status ≠ stStoreUncorr) :
    ((endEntry s t q seq status detail flags).tile t).core = (s.tile t).core := by
  have hset : ∀ (T : Tile) (v : Queue), (T.setQueue q v).core = T.core := by
    intro T v
    obtain ⟨a, b, c, d, heq⟩ := Tile.setQueue_eq T q v
    rw [heq]
  unfold endEntry
  dsimp only
  rw [if_neg h]
  split
  · rw [modEntry, State.modQueue_tile, hset]
  · rw [releaseLeases_tile, hset, modEntry, State.modQueue_tile, hset]

theorem endEntry_entries (s : State) (t q : Nat) (seq : W32) (status : Nat) (detail : W64) (flags : BitVec 16) :
    ((endEntry s t q seq status detail flags).queue t q).entries = (s.queue t q).entries.map fun e =>
      if e.seq = seq then { e with phase := .finished, status := status, detail := detail, flags := flags } else e :=
  ((endEntry_quiet s t q seq status detail flags).entries q).trans (modEntry_entries ..)

theorem endEntry_ring (s : State) (t q : Nat) (seq : W32) (status : Nat) (detail : W64) (flags : BitVec 16) :
    ((endEntry s t q seq status detail flags).queue t q).ring = (s.queue t q).ring := by
  refine ((endEntry_quiet s t q seq status detail flags).ring q).trans ?_
  change ((modEntry s t q seq _).queue t q).ring = (s.queue t q).ring
  rw [modEntry, State.modQueue_queue]

theorem doFenceComplete_ends {t q : Nat} {e : QEntry} {s : State} (hrun : (s.tile t).st = .run) (he : (s.queue t q).active 0 = some e)
    (hwait : ∀ n, n < 4 → bitAt (parseHeader e.desc).fmask n = true → ∀ x ∈ (s.queue t n).entries, e.ord ≤ x.ord) :
    doFenceComplete t q s = endEntry s t q e.seq stOk 0 0 := by
  have hclosed : ([0, 1, 2, 3].any fun n => bitAt (parseHeader e.desc).fmask n &&
      ((s.tile t).queue n).entries.any fun x => decide (x.ord < e.ord)) = false := by
    refine List.any_eq_false.mpr fun n hn h => ?_
    have hlt : n < 4 := by
      simp at hn
      omega
    obtain ⟨hbit, hany⟩ := Bool.and_eq_true_iff.mp h
    obtain ⟨x, hx, hord⟩ := List.any_eq_true.mp hany
    have hle := hwait n hlt hbit x hx
    have := of_decide_eq_true hord
    omega
  unfold doFenceComplete
  dsimp only
  rw [show ((s.tile t).queue q).active 0 = some e from he]
  dsimp only
  rw [if_neg (by rw [hclosed, hrun]; simp)]

/-! ### Lease requests (R136, R169, R171) -/

theorem CountedOn.queue {t : Nat} {s u : State} (h : CountedOn t s u) (q : Nat) : u.queue t q = s.queue t q := by
  obtain ⟨-, -, l, c, htile⟩ := h
  rw [State.queue, State.queue, htile]
  match q with
  | 0 | 1 | 2 | _ + 3 => rfl

theorem CountedOn.ks {t : Nat} {s u : State} (h : CountedOn t s u) : u.ks = s.ks := by
  obtain ⟨⟨_, _, _, rfl⟩, -, -⟩ := h
  rfl

theorem Le.queue {m : Nat} {s u : State} (h : Le m s u) (hm : m.testBit 0 = false) (t q : Nat) : u.queue t q = s.queue t q := by
  rw [State.queue, State.queue, h.tile hm]

/-- The streams, the extents and the space of tile `t` are as they were. -/
def SameStreams (t : Nat) (s u : State) : Prop :=
  (∀ q, u.queue t q = s.queue t q) ∧ u.ks = s.ks ∧ (u.tile t).space = (s.tile t).space

theorem SameStreams.trans {t : Nat} {s u v : State} (h : SameStreams t s u) (g : SameStreams t u v) : SameStreams t s v := by
  obtain ⟨hq, hk, hs⟩ := h
  obtain ⟨gq, gk, gs⟩ := g
  exact ⟨fun q => (gq q).trans (hq q), gk.trans hk, gs.trans hs⟩

theorem CountedOn.sameStreams {t : Nat} {s u : State} (h : CountedOn t s u) : SameStreams t s u := ⟨h.queue, h.ks, h.quiet.space⟩

theorem Le.sameStreams {m : Nat} {s u : State} (h : Le m s u) (hm : m.testBit 0 = false) (hk : m.testBit 2 = false) (t : Nat) :
    SameStreams t s u := ⟨h.queue hm t, h.same .ks hk, (h.quiet hm t).space⟩

theorem bump_sameStreams (t : Nat) (s : State) (a n : Nat) : SameStreams t s (bump s a n) := (bump_counted ..).sameStreams

/-- A request on its way to the Keystone, counted. -/
def requestSent (s : State) (t q : Nat) : State :=
  bump (packet (tileEvent s t 0x0B (some q) 1) vcTrussCtrl false (tileEnd t) keystoneEnd 0 0 32) (unitCtr ksBase 0) 1

theorem requestSent_sameStreams (s : State) (t q : Nat) : SameStreams t s (requestSent s t q) :=
  ((tileEvent_counted s t 0x0B (some q) 1).sameStreams.trans ((packet_le ..).sameStreams rfl rfl t)).trans (bump_sameStreams ..)

/-- Where a stream's request finds its extent (R171, R183): the extent of the address, unless the requests of its chunk walk. -/
def foundExtent (s : State) (t q va : Nat) : Option Extent := if (s.queue t q).fresh = true then none else s.extent (s.tile t).space va

theorem foundExtent_requestSent (s : State) (t q va : Nat) : foundExtent (requestSent s t q) t q va = foundExtent s t q va := by
  obtain ⟨hq, hk, hs⟩ := requestSent_sameStreams s t q
  simp only [foundExtent, hq, hs, State.extent, State.gen, hk]

/-- A request of a bound tag: answered from the extent that it finds, or waiting for its walk (R171). -/
theorem requestLease_served {s : State} {t q : Nat} {r : LeaseReq} (h : s.served (s.tile t).space = true) :
    requestLease s t q r = match foundExtent s t q r.va with
      | some x => answerRequest (touchExtent (bump (requestSent s t q) (unitCtr ksBase 1) 1) x) t q r x
      | none => (bump (bump (requestSent s t q) (unitCtr ksBase 2) 1) (spaceCtr (s.tile t).space 9) 1).modQueue t q fun Q =>
          { Q with req := some { r with walking := true } } := by
  obtain ⟨hq, hk, hs⟩ := requestSent_sameStreams s t q
  have hserved : (requestSent s t q).served (s.tile t).space = true := by
    rw [← h]
    simp only [State.served, State.root, hk]
  have hfound := foundExtent_requestSent s t q r.va
  rw [foundExtent, hs] at hfound
  rw [← hfound]
  unfold requestLease
  dsimp only
  rw [show (bump (packet (tileEvent s t 0x0B (some q) 1) vcTrussCtrl false (tileEnd t) keystoneEnd 0 0 32) (unitCtr ksBase 0) 1) =
    requestSent s t q from rfl, hserved]
  rfl

/-- A miss waits for its walk, and the stream is otherwise as it was. -/
theorem requestLease_miss {s : State} {t q : Nat} {r : LeaseReq} (h : s.served (s.tile t).space = true) (hnone : foundExtent s t q r.va = none) :
    (requestLease s t q r).queue t q = { s.queue t q with req := some { r with walking := true } } := by
  rw [requestLease_served h, hnone]
  obtain ⟨hq, -, -⟩ := ((requestSent_sameStreams s t q).trans (bump_sameStreams t _ (unitCtr ksBase 2) 1)).trans
    (bump_sameStreams t _ (spaceCtr (s.tile t).space 9) 1)
  rw [State.modQueue_queue, hq]

/-- A hit whose rights suffice grants the extent's lease, and the extent is the most recently used. -/
theorem requestLease_hit {s : State} {t q : Nat} {r : LeaseReq} {x : Extent} (h : s.served (s.tile t).space = true)
    (hx : foundExtent s t q r.va = some x) (hgrants : deniedCode x.leaf.toNat r.rd r.wr r.at_ = none) :
    (requestLease s t q r).queue t q =
        { s.queue t q with leases := (s.queue t q).leases ++ [leaseOf (s.tile t).space x], req := none } ∧
      (requestLease s t q r).ks.extents.head? = some x := by
  rw [requestLease_served h, hx]
  dsimp only
  unfold answerRequest
  dsimp only
  rw [hgrants]
  dsimp only
  obtain ⟨hq, -, hs⟩ := (requestSent_sameStreams s t q).trans (bump_sameStreams t _ (unitCtr ksBase 1) 1)
  have hpacket := (packet_le (touchExtent (bump (requestSent s t q) (unitCtr ksBase 1) 1) x) vcTrussCtrl true keystoneEnd (tileEnd t) 0 0 32)
  obtain ⟨pq, pk, ps⟩ := hpacket.sameStreams rfl rfl t
  have hspace : ((packet (touchExtent (bump (requestSent s t q) (unitCtr ksBase 1) 1) x) vcTrussCtrl true keystoneEnd (tileEnd t) 0 0 32).tile t).space
      = (s.tile t).space := ps.trans hs
  unfold grantLease
  dsimp only
  rw [hspace]
  constructor
  · rw [(traceLease_le ..).queue rfl, (bump_sameStreams t _ _ _).1 q, State.modQueue_queue, pq]
    exact congrArg (fun Q : Queue => { Q with leases := Q.leases ++ [leaseOf (s.tile t).space x], req := none }) (hq q)
  · rw [(traceLease_le ..).same .ks rfl, (bump_sameStreams t _ _ _).2.1, State.modQueue_ks, pk]
    rfl

/-- The fault that a stream stops on (R180). -/
def streamFault (s : State) (t code level access va : Nat) (entry : W64) (seq : W32) : StreamFault :=
  { code := code, level := level, access := access, va := va, entry := entry, tick := s.tick.num.setWidth 32, seq := seq,
    tag := (s.tile t).space }

/-- A stream stops on its fault and keeps its leases (R40, R143). -/
theorem faultStream_queue (s : State) (t q code level access va : Nat) (entry : W64) (seq : W32) :
    ∃ park, (faultStream s t q code level access va entry seq).queue t q =
      { s.queue t q with fault := some { streamFault s t code level access va entry seq with parked := park }, req := none } := by
  refine ⟨!s.ks.ringEnable || s.ks.ringFull || decide (0 < s.ks.parked), ?_⟩
  have hraise : ∀ (u : State) (n : Nat), (raiseSrc u t n).queue t q = u.queue t q := by
    intro u n
    rw [raiseSrc, State.modTile_queue]
    split
    · rfl
    · match q with
      | 0 | 1 | 2 | _ + 3 => rfl
  have hmsi : ∀ (b : Bool) (u : State), (if b then raiseHost u 0 else u).queue t q = u.queue t q := by
    intro b u
    split
    · exact (raiseHost_le ..).queue rfl t q
    · rfl
  have hks : ∀ (u : State) (f : Keystone → Keystone), (u.modKs f).queue t q = u.queue t q := fun _ _ => rfl
  unfold faultStream
  dsimp only
  split
  · rw [hmsi, (bump_sameStreams t _ _ _).1, hks, (fireTrigger_le ..).queue rfl, (traceKs_le ..).queue rfl,
      (bump_sameStreams t _ _ _).1, (bump_sameStreams t _ _ _).1, hraise, State.modQueue_queue]
    rfl
  · rw [(postFault_le ..).queue rfl, (fireTrigger_le ..).queue rfl, (traceKs_le ..).queue rfl,
      (bump_sameStreams t _ _ _).1, (bump_sameStreams t _ _ _).1, hraise, State.modQueue_queue]
    rfl

/-- A stream without a request or a fault takes the step of the mover's next chunk where that lacks something (R136, R172). -/
theorem doLeaseRequest_steps {t q : Nat} {e : QEntry} {needs : Needs} {s : State} (hrun : (s.tile t).st = .run)
    (hfault : (s.queue t q).fault = none) (hreq : (s.queue t q).req = none) (hneeds : moverNeeds s t q = some (e, needs))
    (hlacks : (s.queue t q).meets needs = false) : doLeaseRequest t q s = leaseStep s t q e.seq needs := by
  unfold doLeaseRequest
  dsimp only
  rw [if_neg (by rw [hrun, hfault, hreq]; simp), hneeds]
  dsimp only
  rw [hlacks]
  rfl

/-- The first need that lacks its lease is requested, where the stream has room for it. -/
theorem leaseStep_requests {s : State} {t q : Nat} {seq : W32} {needs : Needs} {n : Need3} (hout : needs.out = [])
    (hn : (s.queue t q).firstUnmet needs.leases = some n) (hroom : (s.queue t q).leases.length < 16) :
    leaseStep s t q seq needs = requestLease s t q { va := n.va, rd := n.rd, wr := n.wr, at_ := n.at_, seq := seq } := by
  unfold leaseStep
  rw [hout, List.any_nil, if_neg Bool.false_ne_true, hn]
  dsimp only
  rw [if_pos hroom, if_pos hroom]

/-- Element addresses below 0 fault the stream before any request. -/
theorem leaseStep_rangeFault {s : State} {t q : Nat} {seq : W32} {needs : Needs} (hout : needs.out ≠ []) (hlow : ∀ a ∈ needs.out, a.1 < 0) :
    leaseStep s t q seq needs = rangeFault s t q seq needs.out := by
  obtain ⟨a, rest, heq⟩ := List.exists_cons_of_ne_nil hout
  have hany : needs.out.any (fun a => decide (a.1 < 0)) = true :=
    List.any_eq_true.mpr ⟨a, by rw [heq]; exact List.mem_cons_self .., decide_eq_true (hlow a (by rw [heq]; exact List.mem_cons_self ..))⟩
  have hempty : needs.out.isEmpty = false := by rw [heq]; rfl
  unfold leaseStep
  rw [hany, if_pos rfl]
  dsimp only
  rw [hempty, if_neg Bool.false_ne_true]

/-- The clauses of O23 on FENCE and leases. -/
theorem fencesAndLeases (t q : Nat) (e : QEntry) (s : State) (ht : t < 1296) (hq : q < 4) (hrun : (s.tile t).st = .run) :
    ((s.queue t q).active 0 = some e →
      (∀ n, n < 4 → bitAt (parseHeader e.desc).fmask n = true → ∀ x ∈ (s.queue t n).entries, e.ord ≤ x.ord) →
      Completes (.fenceComplete t q) s fun u =>
        (u.queue t q).entries = (s.queue t q).entries.map (fun x =>
          if x.seq = e.seq then { x with phase := .finished, status := 0, detail := 0, flags := 0 } else x) ∧
        (u.tile t).store = (s.tile t).store ∧ (u.tile t).core = (s.tile t).core ∧ (u.queue t q).ring = (s.queue t q).ring) ∧
    (∀ (needs : Needs) n, (s.queue t q).fault = none → (s.queue t q).req = none → moverNeeds s t q = some (e, needs) →
      (needs.out = [] → (s.queue t q).firstUnmet needs.leases = some n → (s.queue t q).leases.length < 16 →
        s.served (s.tile t).space = true →
        (foundExtent s t q n.va = none → Completes (.leaseRequest t q) s fun u =>
          (u.queue t q).req = some { va := n.va, rd := n.rd, wr := n.wr, at_ := n.at_, seq := e.seq, walking := true } ∧
          (u.queue t q).fault = none ∧ (u.queue t q).leases = (s.queue t q).leases ∧ (u.queue t q).entries = (s.queue t q).entries) ∧
        ∀ x, foundExtent s t q n.va = some x → deniedCode x.leaf.toNat n.rd n.wr n.at_ = none →
          Completes (.leaseRequest t q) s fun u =>
            (u.queue t q).leases = (s.queue t q).leases ++ [leaseOf (s.tile t).space x] ∧ (u.queue t q).req = none ∧
            (u.queue t q).fault = none ∧ u.ks.extents.head? = some x ∧ (u.queue t q).entries = (s.queue t q).entries) ∧
      (needs.out ≠ [] → (∀ a ∈ needs.out, a.1 < 0) → Completes (.leaseRequest t q) s fun u =>
        ((u.queue t q).fault.map fun f => (f.code, f.level, f.seq)) = some (8, 7, e.seq) ∧ (u.queue t q).leases = (s.queue t q).leases)) := by
  have hok := okTQ_of ht hq
  refine ⟨fun he hwait => ?fence, fun needs n hfault hreq hneeds => ⟨fun hout hn hroom hserved => ⟨fun hnone => ?miss, fun x hx hgrants => ?hit⟩,
    fun hout hlow => ?range⟩⟩
  case fence =>
    refine .of_eq ((require_of hok).trans (congrArg _ (doFenceComplete_ends hrun he hwait))) ⟨endEntry_entries .., ?_, ?_, endEntry_ring ..⟩
    · exact (endEntry_calm ..).store
    · exact endEntry_core (by decide)
  case miss =>
    have hlacks : (s.queue t q).meets needs = false := by rw [Queue.meets, hn]; simp
    refine .of_eq ((require_of hok).trans (congrArg _
      ((doLeaseRequest_steps hrun hfault hreq hneeds hlacks).trans (leaseStep_requests hout hn hroom)))) ?_
    rw [requestLease_miss hserved hnone]
    exact ⟨rfl, hfault, rfl, rfl⟩
  case hit =>
    have hlacks : (s.queue t q).meets needs = false := by rw [Queue.meets, hn]; simp
    obtain ⟨hqueue, hhead⟩ := requestLease_hit (q := q) (r := { va := n.va, rd := n.rd, wr := n.wr, at_ := n.at_, seq := e.seq })
      hserved hx hgrants
    refine .of_eq ((require_of hok).trans (congrArg _
      ((doLeaseRequest_steps hrun hfault hreq hneeds hlacks).trans (leaseStep_requests hout hn hroom)))) ?_
    rw [hqueue]
    exact ⟨rfl, rfl, hfault, hhead, rfl⟩
  case range =>
    have hlacks : (s.queue t q).meets needs = false := by
      rw [Queue.meets, List.isEmpty_eq_false_iff.mpr hout]
      rfl
    refine .of_eq ((require_of hok).trans (congrArg _
      ((doLeaseRequest_steps hrun hfault hreq hneeds hlacks).trans (leaseStep_rangeFault hout hlow)))) ?_
    unfold rangeFault
    dsimp only
    obtain ⟨hqueue, -, -⟩ := (tileEvent_counted s t 0x0B (some q) 1).sameStreams.trans (bump_sameStreams t _ (unitCtr ksBase 0) 1)
    obtain ⟨park, hpark⟩ := faultStream_queue (bump (tileEvent s t 0x0B (some q) 1) (unitCtr ksBase 0) 1) t q 8 7
      (strongest (needs.out.any (·.2 == 1)) (needs.out.any (·.2 == 2))) (lowest needs.out % (2 ^ 57 : Nat)).toNat 0 e.seq
    rw [hpark, hqueue]
    exact ⟨rfl, rfl⟩

end Sys2Proof.Machine
end

section
/-!
PROOFS. Bytes written by an engine (R30).
-/

namespace Sys2Proof.Machine
open Sys2Proof

/-! ### Bytes of a memory (R4) -/

theorem Memory.byte_put (l : List Byte) (t : Tab Byte) (a x : Nat) :
    Memory.byte (Memory.put t a l) x = if a ≤ x ∧ x < a + l.length then l.getD (x - a) 0 else Memory.byte t x := by
  split
  case isTrue h =>
    have hi : x - a < l.length := by omega
    rw [List.getD_eq_getElem _ _ hi, ← Memory.byte_put_inside l t a (x - a) hi, show a + (x - a) = x by omega]
  case isFalse h => exact Memory.byte_put_outside l t a x (by omega)

/-- A byte of those read. -/
theorem Memory.getD_bytes (t : Tab Byte) {n i : Nat} (a : Nat) (hi : i < n) : (Memory.bytes t a n).getD i 0 = Memory.byte t (a + i) := by
  induction n generalizing a i with
  | zero => omega
  | succ n ih =>
    cases i with
    | zero => rfl
    | succ i =>
      rw [Memory.bytes, List.getD_cons_succ, ih (a + 1) (by omega), show a + 1 + i = a + (i + 1) by omega]

/-- Bytes written on behind others are written as one list. -/
theorem Memory.put_append (l r : List Byte) (t : Tab Byte) (a : Nat) :
    Memory.put t a (l ++ r) = Memory.put (Memory.put t a l) (a + l.length) r := by
  induction l generalizing t a with
  | nil => rfl
  | cons b l ih => rw [List.cons_append, Memory.put, Memory.put, ih, List.length_cons, show a + 1 + l.length = a + (l.length + 1) by omega]

/-- A write acts alike on memories that read alike. -/
theorem Memory.byte_put_congr {t u : Tab Byte} (h : ∀ a, Memory.byte t a = Memory.byte u a) (l : List Byte) (x a : Nat) :
    Memory.byte (Memory.put t x l) a = Memory.byte (Memory.put u x l) a := by
  rw [Memory.byte_put, Memory.byte_put, h]

theorem Memory.bytes_congr {t u : Tab Byte} (n a : Nat) (h : ∀ i, i < n → Memory.byte t (a + i) = Memory.byte u (a + i)) :
    Memory.bytes t a n = Memory.bytes u a n := by
  induction n generalizing a with
  | zero => rfl
  | succ n ih =>
    rw [Memory.bytes, Memory.bytes, ih (a + 1) fun i hi => ?_, show Memory.byte t a = Memory.byte u a from h 0 (by omega)]
    rw [show a + 1 + i = a + (i + 1) by omega]
    exact h (i + 1) (by omega)

/-- Bytes written read back. -/
theorem Memory.bytes_put_self (l : List Byte) (t : Tab Byte) (a : Nat) : Memory.bytes (Memory.put t a l) a l.length = l := by
  induction l generalizing t a with
  | nil => rfl
  | cons b r ih =>
    rw [List.length_cons, Memory.bytes, Memory.put, ih, Memory.byte_put_outside r _ _ _ (by omega)]
    exact congrArg (· :: r) (Tab.get_set_self 0 t a b)

theorem leNat_leBytes (n v : Nat) : leNat (leBytes n v) = v % 256 ^ n := by
  induction n generalizing v with
  | zero => simp [leBytes, leNat, Nat.mod_one]
  | succ n ih =>
    rw [leBytes, leNat, ih, BitVec.toNat_ofNat, show 256 ^ (n + 1) = 256 * 256 ^ n from pow_succ' 256 n, Nat.mod_mul]

/-- A field written reads back (R4). -/
theorem Memory.le_put_leBytes (t : Tab Byte) (a n v : Nat) : Memory.le (Memory.put t a (leBytes n v)) a n = v % 256 ^ n := by
  have h := Memory.bytes_put_self (leBytes n v) t a
  rw [length_leBytes] at h
  rw [Memory.le, h, leNat_leBytes]

/-! ### Bytes written by an engine (R30) -/

/-- Part of a list of bytes, put where it belongs in the whole: within the part the memory is as the whole would make it. -/
theorem Memory.byte_put_part {bytes : List Byte} {off x n : Nat} (t u : Tab Byte) (hx : off ≤ x) (hn : n = 0 ∨ x + n ≤ off + bytes.length) (a : Nat) :
    Memory.byte (Memory.put u x ((bytes.drop (x - off)).take n)) a =
      if x ≤ a ∧ a < x + n then Memory.byte (Memory.put t off bytes) a else Memory.byte u a := by
  have hlen : ((bytes.drop (x - off)).take n).length = n := by
    rw [List.length_take, List.length_drop]
    omega
  rw [Memory.byte_put, hlen]
  split
  case isTrue h =>
    rw [Memory.byte_put, if_pos ⟨by omega, by omega⟩, List.getD_eq_getElem?_getD, List.getD_eq_getElem?_getD, List.getElem?_take,
      if_pos (by omega), List.getElem?_drop, show x - off + (a - x) = a - off by omega]
  case isFalse => rfl

/-- A tile but for its store keeps its engines and its descriptors, and has no store error where it had none. -/
structure Tile.Rest (T U : Tile) : Prop where
  storeErr : T.storeErr = [] → U.storeErr = []
  st : U.st = T.st
  space : U.space = T.space
  latheQ : U.latheQ = T.latheQ
  moverLast : U.moverLast = T.moverLast
  entries : ∀ q, (U.queue q).entries = (T.queue q).entries

/-- An operation leaves the engines and the descriptors of tile `t` as they were; it may write its store. -/
abbrev Rest (t : Nat) (s u : State) : Prop := (s.tile t).Rest (u.tile t)

theorem Tile.Quiet.rest {T U : Tile} (h : T.Quiet U) : T.Rest U :=
  ⟨fun he => h.storeErr.trans he, h.st, h.space, h.latheQ, h.moverLast, h.entries⟩

theorem Tile.Rest.refl (T : Tile) : T.Rest T := (Tile.Quiet.refl T).rest

theorem Tile.Rest.trans {T U V : Tile} (h : T.Rest U) (g : U.Rest V) : T.Rest V where
  storeErr he := g.storeErr (h.storeErr he)
  st := g.st.trans h.st
  space := g.space.trans h.space
  latheQ := g.latheQ.trans h.latheQ
  moverLast := g.moverLast.trans h.moverLast
  entries q := (g.entries q).trans (h.entries q)

theorem hasEntry_rest {s u : State} {t q : Nat} {seq : W32} {P : QEntry → Prop} (hu : Rest t s u) (h : HasEntry s t q seq P) :
    HasEntry u t q seq P := h.of_entries (hu.entries q)

theorem storePut_rest (s : State) (t off : Nat) (bytes : List Byte) : Rest t s (storePut s t off bytes) := by
  rw [Rest, storePut_tile]
  refine ⟨fun he => ?_, rfl, rfl, rfl, rfl, fun q => by rw [Tile.put_queue]⟩
  rw [Tile.put, he]
  rfl

theorem storePut_store (s : State) (t off : Nat) (bytes : List Byte) :
    ((storePut s t off bytes).tile t).store = Memory.put (s.tile t).store off bytes := by
  rw [storePut_tile]
  rfl

/-- A store reads at an address as the whole of a write would make it. -/
def AsPut (t0 : Tab Byte) (off : Nat) (bytes : List Byte) (s : State) (t a : Nat) : Prop :=
  Memory.byte (s.tile t).store a = Memory.byte (Memory.put t0 off bytes) a

/-- A part of the write: it is done at its own addresses, and undone nowhere. -/
theorem AsPut.part {t0 : Tab Byte} {off x n : Nat} {bytes : List Byte} {s : State} {t a : Nat} (hx : off ≤ x) (hn : n = 0 ∨ x + n ≤ off + bytes.length)
    (h : AsPut t0 off bytes s t a ∨ (x ≤ a ∧ a < x + n)) : AsPut t0 off bytes (storePut s t x ((bytes.drop (x - off)).take n)) t a := by
  rw [AsPut, storePut_store, Memory.byte_put_part t0 _ hx hn]
  split
  · rfl
  case isFalse hout => exact h.resolve_right hout

/-- The words that the write covers in part, written each in its turn. -/
theorem partWords_fold {t0 : Tab Byte} {off : Nat} {bytes : List Byte} {t : Nat} (ws : List Nat) (s : State) (e : Option Nat)
    (herr : (s.tile t).storeErr = []) :
    let r := ws.foldl (fun (r : State × Option Nat) w =>
      let lo := max off (8 * w)
      let x := narrowPut r.1 t lo ((bytes.drop (lo - off)).take (min (off + bytes.length) (8 * w + 8) - lo))
      (x.1, r.2.or (if x.2 then some (8 * w) else none))) (s, e)
    r.2 = e ∧ Rest t s r.1 ∧ ∀ a, (AsPut t0 off bytes s t a ∨ (off ≤ a ∧ a < off + bytes.length ∧ a / 8 ∈ ws)) → AsPut t0 off bytes r.1 t a := by
  induction ws generalizing s with
  | nil => exact ⟨rfl, .refl _, fun a h => h.resolve_right fun h => List.not_mem_nil h.2.2⟩
  | cons w ws ih =>
    have hword : narrowPut s t (max off (8 * w)) ((bytes.drop (max off (8 * w) - off)).take (min (off + bytes.length) (8 * w + 8) - max off (8 * w))) =
        (storePut s t (max off (8 * w)) ((bytes.drop (max off (8 * w) - off)).take (min (off + bytes.length) (8 * w + 8) - max off (8 * w))), false) :=
      narrowPut_clean _ (by rw [herr]; rfl)
    have hput := storePut_rest s t (max off (8 * w))
      ((bytes.drop (max off (8 * w) - off)).take (min (off + bytes.length) (8 * w + 8) - max off (8 * w)))
    obtain ⟨hnone, hrest, hdone⟩ := ih _ (hput.storeErr herr)
    simp only [List.foldl_cons, hword, Bool.false_eq_true, if_false, Option.or_none]
    refine ⟨hnone, hput.trans hrest, fun a ha => hdone a ?_⟩
    by_cases hin : off ≤ a ∧ a < off + bytes.length ∧ a / 8 ∈ ws
    · exact Or.inr hin
    · refine Or.inl ?_
      refine AsPut.part (by omega) (by omega) (ha.imp_right fun h => ?_)
      obtain ⟨hlo, hhi, hmem⟩ := h
      have hw : a / 8 = w := (List.mem_cons.mp hmem).resolve_right fun h => hin ⟨hlo, hhi, h⟩
      omega

/-- Every address of a write lies in the words that it covers whole, or in a word that it covers in part. -/
theorem mem_partWords {off n a : Nat} (hlo : off ≤ a) (hhi : a < off + n) (hpart : ¬(off ≤ 8 * (a / 8) ∧ 8 * (a / 8) + 8 ≤ off + n)) :
    a / 8 ∈ partWords off n := by
  have hn : n ≠ 0 := by omega
  rw [partWords, List.mem_filter, List.mem_eraseDups, if_neg hn]
  refine ⟨?_, by rw [decide_eq_false hpart]; rfl⟩
  have hends : a / 8 = off / 8 ∨ a / 8 = (off + n - 1) / 8 := by omega
  simpa using hends

/-- Without a store error, an engine's write puts its bytes, and nothing else of the tile's engines and descriptors changes (R30). -/
theorem enginePut_clean {s : State} {t : Nat} (off : Nat) (bytes : List Byte) (herr : (s.tile t).storeErr = []) :
    (enginePut s t off bytes).2 = none ∧ Rest t s (enginePut s t off bytes).1 ∧
      ∀ a, Memory.byte ((enginePut s t off bytes).1.tile t).store a = Memory.byte (Memory.put (s.tile t).store off bytes) a := by
  have hwhole : ∀ a b : Nat, off ≤ a → b ≤ off + bytes.length → ∃ u,
      u = (if a < b then storePut s t a ((bytes.drop (a - off)).take (b - a)) else s) ∧ Rest t s u ∧
      ∀ x, (x < off ∨ off + bytes.length ≤ x ∨ (a ≤ x ∧ x < b)) → AsPut (s.tile t).store off bytes u t x := by
    intro a b ha hb
    have hstart : ∀ x, x < off ∨ off + bytes.length ≤ x → AsPut (s.tile t).store off bytes s t x := fun x hx =>
      (Memory.byte_put_outside bytes _ off x hx).symm
    refine ⟨_, rfl, ?_⟩
    split
    case isTrue hlt =>
      refine ⟨storePut_rest .., fun x hx => AsPut.part ha (by omega) ?_⟩
      rcases hx with hx | hx | hx
      · exact Or.inl (hstart x (Or.inl hx))
      · exact Or.inl (hstart x (Or.inr hx))
      · exact Or.inr (by omega)
    case isFalse hge => exact ⟨.refl _, fun x hx => hstart x (by omega)⟩
  obtain ⟨u, hu, hrest, hdone⟩ := hwhole (ceilDiv off 8 * 8) ((off + bytes.length) / 8 * 8) (by unfold ceilDiv; omega) (by omega)
  obtain ⟨hnone, hrest', hdone'⟩ := partWords_fold (t0 := (s.tile t).store) (off := off) (bytes := bytes)
    (partWords off bytes.length) u none (hrest.storeErr herr)
  unfold enginePut
  dsimp only
  rw [← hu]
  refine ⟨hnone, hrest.trans hrest', fun a => hdone' a ?_⟩
  by_cases hin : off ≤ a ∧ a < off + bytes.length
  · by_cases hfull : off ≤ 8 * (a / 8) ∧ 8 * (a / 8) + 8 ≤ off + bytes.length
    · refine Or.inl (hdone a (Or.inr (Or.inr ?_)))
      unfold ceilDiv
      omega
    · exact Or.inr ⟨hin.1, hin.2, mem_partWords hin.1 hin.2 hfull⟩
  · exact Or.inl (hdone a (by omega))

end Sys2Proof.Machine
end

section
/-!
PROOFS. The acknowledgements and the ends of the mover's chunks (R136, R141, R144).
-/

namespace Sys2Proof.Machine
open Sys2Proof

/-! ### Acknowledgements (R141, R144) -/

/-- The first descriptor at work on an engine, with a function applied that leaves it at work there. -/
theorem active_modEntry {s : State} {t q n : Nat} {e : QEntry} {f : QEntry → QEntry} (he : (s.queue t q).active n = some e)
    (hf : ∀ x, (f x).phase = x.phase ∧ (f x).engine = x.engine) : ((modEntry s t q e.seq f).queue t q).active n = some (f e) := by
  have hkeep : ∀ x : QEntry, ((if x.seq = e.seq then f x else x).phase == .active && (if x.seq = e.seq then f x else x).engine == n) =
      (x.phase == .active && x.engine == n) := by
    intro x
    split
    · rw [(hf x).1, (hf x).2]
    · rfl
  rw [Queue.active, modEntry_entries, List.find?_map, Function.comp_def]
  simp only [hkeep]
  rw [show (s.queue t q).entries.find? (fun x => x.phase == .active && x.engine == n) = some e from he, Option.map_some, if_pos rfl]

theorem active_hasEntry {s : State} {t q n : Nat} {e : QEntry} (he : (s.queue t q).active n = some e) :
    HasEntry s t q e.seq fun y => y = e ∧ y.phase = .active := by
  have hactive := List.find?_some he
  exact ⟨e, List.mem_of_find?_eq_some he, rfl, rfl, by simpa using (Bool.and_eq_true_iff.mp hactive).1⟩

theorem active_of_entries {Q R : Queue} (h : R.entries = Q.entries) (n : Nat) : R.active n = Q.active n := by
  rw [Queue.active, Queue.active, h]

/-- The chunk of a descriptor with an acknowledgement taken from it. -/
def ackTaken (e : QEntry) (chunk : Nat) (a : Ack) : List Chunk :=
  e.chunks.map fun x => if x.idx = chunk then { x with acks := x.acks.erase a } else x

/-- The acknowledgement's chunk loses it, and the descriptor takes its flags and its poison (R141, R144). -/
def tookAck (chunk : Nat) (a : Ack) (e y : QEntry) : Prop :=
  y.flags = e.flags ||| a.flags ∧ y.phase = .active ∧ y.err = a.poison.map (fun va => (0x21, BitVec.ofNat 64 va)) ∧
    y.chunks = ackTaken e chunk a

/-- What an acknowledgement that was not refused tells its descriptor, before its fetched value is stored. -/
def ackEntry (a : Ack) (e : QEntry) : QEntry :=
  match a.poison with
  | some va => { e with flags := e.flags ||| a.flags }.fail a.pos stMemPoison va
  | none => { e with flags := e.flags ||| a.flags }

/-- A descriptor without an error takes the first. -/
theorem fail_of_none {e : QEntry} (h : e.err = none) (pos st detail : Nat) :
    e.fail pos st detail = { e with err := some (st, BitVec.ofNat 64 detail), errPos := pos } := by
  rw [QEntry.fail, h]

theorem ackEntry_took {chunk : Nat} {a : Ack} {e : QEntry} (herr : e.err = none) (hphase : e.phase = .active) :
    tookAck chunk a e (ackEntry a { e with chunks := ackTaken e chunk a }) := by
  unfold ackEntry
  split
  case h_1 va hva =>
    rw [fail_of_none (e := { e with chunks := ackTaken e chunk a, flags := e.flags ||| a.flags }) herr]
    exact ⟨rfl, hphase, by rw [hva]; rfl, rfl⟩
  case h_2 hva => exact ⟨rfl, hphase, by rw [hva]; exact herr, rfl⟩

theorem ackEntry_seq (a : Ack) (e : QEntry) : (ackEntry a e).seq = e.seq := by
  unfold ackEntry
  split
  · unfold QEntry.fail
    repeat' split
    all_goals rfl
  · rfl

/-- An acknowledgement that was not refused and fetched nothing is the descriptor's only (R141). -/
theorem takeAck_no_fetch {s : State} {t q : Nat} {seq : W32} {a : Ack} (hr : a.refused = none) (hf : a.fetch = none) :
    takeAck s t q seq a = modEntry s t q seq (ackEntry a) := by
  unfold takeAck
  rw [hr, hf]
  rfl

/-- A fetched value is stored in the tile store (R141). -/
theorem takeAck_fetch {s : State} {t q : Nat} {seq : W32} {a : Ack} {f : Nat × Nat × Nat} (hr : a.refused = none) (hf : a.fetch = some f)
    (herr : (s.tile t).storeErr = []) : takeAck s t q seq a =
      (enginePut (modEntry s t q seq (ackEntry a)) t f.1 (leBytes f.2.2 f.2.1)).1 := by
  obtain ⟨hnone, -, -⟩ := enginePut_clean (s := modEntry s t q seq (ackEntry a)) f.1 (leBytes f.2.2 f.2.1)
    ((modEntry_calm ..).storeErr.trans herr)
  unfold takeAck
  rw [hr, hf]
  dsimp only
  split
  case h_1 off hoff => exact absurd (hoff.symm.trans hnone) (by simp)
  case h_2 => rfl

theorem doMoverAck_takes {t q chunk : Nat} {e : QEntry} {c : Chunk} {a : Ack} {s : State} (he : (s.queue t q).active 1 = some e)
    (hc : e.chunks.find? (fun c => c.idx == chunk) = some c) (ha : c.acks.find? (fun a => !a.reset) = some a) :
    doMoverAck t q chunk s = takeAck (modChunk s t q e.seq chunk fun c => { c with acks := c.acks.erase a }) t q e.seq a := by
  unfold doMoverAck
  rw [he]
  dsimp only
  rw [hc]
  dsimp only
  rw [ha]

/-- The clauses of O23 on acknowledgements. -/
theorem acknowledgements (t q chunk : Nat) (e : QEntry) (c : Chunk) (s : State) (ht : t < 1296) (hq : q < 4)
    (he : (s.queue t q).active 1 = some e) (herr : e.err = none) (hc : e.chunks.find? (fun c => c.idx == chunk) = some c) (a : Ack)
    (ha : c.acks.find? (fun a => !a.reset) = some a) (hr : a.refused = none) :
    (a.fetch = none → Completes (.moverAck t q chunk) s fun u =>
      HasEntry u t q e.seq (tookAck chunk a e) ∧ (u.tile t).store = (s.tile t).store) ∧
    (∀ f, a.fetch = some f → a.poison = none → (s.tile t).storeErr = [] → f.2.2 = 4 ∨ f.2.2 = 8 → f.1 % f.2.2 = 0 →
      Completes (.moverAck t q chunk) s fun u => Memory.le (u.tile t).store f.1 f.2.2 = f.2.1 % 256 ^ f.2.2) := by
  have hexec := (require_of (okTQ_of ht hq)).trans (congrArg (.next · : State → Host.Outcome State Fault Refusal) (doMoverAck_takes he hc ha))
  have hentry : HasEntry (modChunk s t q e.seq chunk fun c => { c with acks := c.acks.erase a }) t q e.seq
      fun y => y = { e with chunks := ackTaken e chunk a } ∧ e.phase = .active :=
    hasEntry_modEntry (active_hasEntry he) fun y hseq hy => ⟨hseq, by rw [hy.1]; rfl, by rw [← hy.1]; exact hy.2⟩
  refine ⟨fun hf => ?_, fun f hf _ hclean _ _ => ?_⟩
  · refine .of_eq (hexec.trans (congrArg _ (takeAck_no_fetch hr hf))) ⟨?_, ?_⟩
    · refine hasEntry_modEntry hentry fun y hseq hy => ⟨(ackEntry_seq ..).trans hseq, ?_⟩
      rw [hy.1]
      exact ackEntry_took herr hy.2
    · exact ((modEntry_calm s t q e.seq _).trans (modEntry_calm ..)).store
  · have hclean' : ((modChunk s t q e.seq chunk fun c => { c with acks := c.acks.erase a }).tile t).storeErr = [] :=
      (modEntry_calm ..).storeErr.trans hclean
    refine .of_eq (hexec.trans (congrArg _ (takeAck_fetch hr hf hclean'))) ?_
    obtain ⟨-, -, hbytes⟩ := enginePut_clean (s := modEntry (modChunk s t q e.seq chunk fun c => { c with acks := c.acks.erase a }) t q e.seq
      (ackEntry a)) f.1 (leBytes f.2.2 f.2.1) ((modEntry_calm ..).storeErr.trans hclean')
    rw [Memory.le, Memory.bytes_congr f.2.2 f.1 fun i _ => hbytes _]
    exact Memory.le_put_leBytes ..

/-! ### The end of a chunk (R136, R141) -/

theorem releaseUnneeded_quiet (s : State) (t q : Nat) : Quiet t s (releaseUnneeded s t q) := releaseLeases_quiet ..

theorem active_quiet {s u : State} {t q n : Nat} (h : Quiet t s u) : (u.queue t q).active n = (s.queue t q).active n :=
  active_of_entries (h.entries q) n

/-- The descriptor of a chunk that has left flight. -/
def chunkLeft (chunk : Nat) (e : QEntry) : QEntry := { e with chunks := e.chunks.filter fun c => c.idx != chunk, pos := e.pos + 1 }

/-- A chunk with nothing left to come leaves flight, and its descriptor finishes if it is through. -/
theorem doMoverChunkDone_leaves {t q chunk : Nat} {e : QEntry} {c : Chunk} {s : State} (he : (s.queue t q).active 1 = some e)
    (hc : e.chunks.find? (fun c => c.idx == chunk) = some c) (hacks : c.acks = []) (hremote : c.remote = 0) (hdel : c.deliveries = 0)
    (hlater : c.later = []) : ∃ u, Quiet t (modEntry s t q e.seq (chunkLeft chunk)) u ∧
      doMoverChunkDone t q chunk s = moverFinish u t q e.seq := by
  have hcounted : ∀ (b : Prop) [Decidable b] (u : State), Quiet t u (if b then u else countTile u t 4 c.bytes) := by
    intro b _ u
    split
    · exact .refl _
    · exact (countTile_counted ..).quiet
  unfold doMoverChunkDone
  rw [he]
  dsimp only
  rw [hc]
  dsimp only
  rw [if_neg (by simp [hacks, hremote, hdel, hlater])]
  exact ⟨_, (hcounted _ _).trans (releaseUnneeded_quiet ..), rfl⟩

/-- A descriptor with a chunk to come or in flight goes on. -/
theorem moverFinish_goes_on {s : State} {t q : Nat} {e : QEntry} {seq : W32} (he : (s.queue t q).active 1 = some e) (herr : e.err = none)
    (h : e.elem < e.total) : moverFinish s t q seq = s := by
  unfold moverFinish
  rw [he]
  simp only [herr, h, if_true, ite_self]

/-- A descriptor that is through, without an error or a refused record, ends with OK. -/
theorem moverFinish_ends {s : State} {t q : Nat} {e : QEntry} (he : (s.queue t q).active 1 = some e) (herr : e.err = none)
    (hchunks : e.chunks = []) (h : e.total ≤ e.elem) (hr : e.refusedRec = none) :
    moverFinish s t q e.seq = endEntry s t q e.seq stOk 0 e.flags := by
  unfold moverFinish
  rw [he]
  dsimp only
  rw [if_neg (by simp [hchunks]), herr]
  dsimp only
  rw [if_neg (by omega), sendStatus, hr]

/-- The clauses of O23 on chunks with nothing left to come. -/
theorem chunksDone (t q chunk : Nat) (e : QEntry) (c : Chunk) (s : State) (ht : t < 1296) (hq : q < 4)
    (he : (s.queue t q).active 1 = some e) (herr : e.err = none) (hc : e.chunks.find? (fun c => c.idx == chunk) = some c)
    (hacks : c.acks = []) (hremote : c.remote = 0) (hdel : c.deliveries = 0) (hlater : c.later = []) :
    (e.elem < e.total → Completes (.moverChunkDone t q chunk) s fun u =>
      HasEntry u t q e.seq (fun y => y.phase = .active ∧ y.pos = e.pos + 1 ∧ y.chunks = e.chunks.filter fun x => x.idx != chunk) ∧
      (u.tile t).store = (s.tile t).store) ∧
    (e.total ≤ e.elem → e.refusedRec = none → e.chunks = [c] → Completes (.moverChunkDone t q chunk) s fun u =>
      HasEntry u t q e.seq (fun y => y.phase = .finished ∧ y.status = 0x00 ∧ y.detail = 0 ∧ y.flags = e.flags) ∧
      (u.tile t).store = (s.tile t).store) := by
  obtain ⟨u, hquiet, hact⟩ := doMoverChunkDone_leaves he hc hacks hremote hdel hlater
  have hexec := (require_of (okTQ_of ht hq)).trans (congrArg (.next · : State → Host.Outcome State Fault Refusal) hact)
  have hactive : (u.queue t q).active 1 = some (chunkLeft chunk e) :=
    (active_quiet hquiet).trans (active_modEntry he fun _ => ⟨rfl, rfl⟩)
  have hentry : HasEntry u t q e.seq fun y => y = chunkLeft chunk e ∧ y.phase = .active := hasEntry_quiet hquiet <|
    hasEntry_modEntry (active_hasEntry he) fun y hseq hy => ⟨hseq, by rw [hy.1], hy.2⟩
  have hstore : (u.tile t).store = (s.tile t).store := hquiet.store.trans (modEntry_calm ..).store
  refine ⟨fun hmore => ?_, fun hdone hr hone => ?_⟩
  · refine .of_eq (hexec.trans (congrArg _ (moverFinish_goes_on hactive herr hmore))) ⟨hentry.imp fun y hy => ⟨hy.2, ?_, ?_⟩, hstore⟩
    · rw [hy.1]
      rfl
    · rw [hy.1]
      rfl
  · have hidx : c.idx = chunk := by simpa using List.find?_some hc
    have hnone : (chunkLeft chunk e).chunks = [] := by
      simp [chunkLeft, hone, hidx]
    have hends := moverFinish_ends hactive herr hnone hdone hr
    refine .of_eq (hexec.trans (congrArg _ hends)) ⟨?_, ?_⟩
    · refine hasEntry_endEntry hentry fun y _ => ⟨rfl, rfl, rfl, rfl⟩
    · exact (endEntry_calm ..).store.trans hstore

end Sys2Proof.Machine
end

section
/-!
PROOFS. The Lathe's blocks (R57, R69–R73, R77, R83).
-/

namespace Sys2Proof.Machine
open Sys2Proof

/-! ### One product of INT8 elements (R70, R84) -/

theorem sInt_eight_bounds (v : Nat) : -128 ≤ sInt 8 v ∧ sInt 8 v ≤ 127 := by
  have hlt : v % 2 ^ 8 < 2 ^ 8 := Nat.mod_lt _ (by decide)
  unfold sInt
  split <;> omega

/-- The two's complement field of an integer in its range reads back. -/
theorem sInt_ofSInt_32 {i : Int} (hlo : -(2 ^ 31) ≤ i) (hhi : i < 2 ^ 31) : sInt 32 (ofSInt 32 i) = i := by
  have hpos : 0 ≤ i % 4294967296 := Int.emod_nonneg _ (by decide)
  have hmod : (((i % 4294967296).toNat : Nat) : Int) = i % 4294967296 := Int.toNat_of_nonneg hpos
  unfold sInt ofSInt
  norm_num only at hlo hhi ⊢
  split <;> omega

/-- An integer within INT32 is not limited (R84). -/
theorem clampInt_32 {i : Int} (hlo : -(2 ^ 31) ≤ i) (hhi : i < 2 ^ 31) : clampInt 32 i = (ofSInt 32 i, false) := by
  unfold clampInt
  norm_num only at hlo hhi ⊢
  rw [if_neg (by omega), if_neg (by omega)]

theorem intVal_int (i : Int) : (intVal i 0).int = i := by
  simp only [intVal, Val.int, Int.toNat_zero, pow_zero, mul_one]
  by_cases h : i < 0
  · simp only [h, decide_true, if_true]
    omega
  · simp only [h, decide_false, Bool.false_eq_true, if_false]
    omega

/-- An integer converted into INT32, in whatever rounding mode (R84, R87). -/
theorem convert_intVal_int32 (mode : RMode) {i : Int} (hlo : -(2 ^ 31) ≤ i) (hhi : i < 2 ^ 31) :
    convert .int32 mode true 0 ((intVal i 0).scale 0) = (ofSInt 32 i, false) := by
  have hround : roundInt mode (decide (i < 0)) i.natAbs 0 = i := by
    rw [roundInt, roundAt, if_pos (le_refl _)]
    have hsign := intVal_int i
    simpa [intVal, Val.int] using hsign
  change clampInt 32 (roundInt mode (decide (i < 0)) i.natAbs (0 + 0 + 0)) = (ofSInt 32 i, false)
  rw [show (0 + 0 + 0 : Int) = 0 from rfl, hround, clampInt_32 hlo hhi]

/-- A byte of an image as an element of 8 bits. -/
theorem bitsAt_byte (img : Tab Byte) (x : Nat) : bitsAt img (8 * x) 8 = Memory.le img x 1 % 2 ^ 8 := by
  rw [bitsAt, Nat.mul_div_cancel_left x (by decide), Nat.mul_mod_right]
  norm_num [ceilDiv]

theorem sInt_mod (v : Nat) : sInt 8 (v % 2 ^ 8) = sInt 8 v := by
  simp [sInt]

theorem latheElem_int8 {img : Tab Byte} {c : LatheCfg} (hacc : c.acc = false) (hmx : c.mx = false) (hsparse : c.sparse = 0) (ha : c.a = 0xA)
    (hb : c.b = 0xA) (hcin : c.cin = 0) (hout : c.out = 0xB) (hk : c.k = 1) (hta : c.transA = false) (htb : c.transB = false)
    (hshift : c.shift = 0) (m n : Nat) : latheElem img c [0] m n =
      (ofSInt 32 (sInt 8 (Memory.le img (c.aOff + m * c.lda) 1) * sInt 8 (Memory.le img (c.bOff + n * c.ldb) 1)), 0) := by
  have helemA : aElem img c m 0 = intVal (sInt 8 (Memory.le img (c.aOff + m * c.lda) 1)) 0 := by
    rw [aElem, ha, hmx, hta]
    change intVal (sInt 8 (bitsAt img (8 * (c.aOff + m * c.lda) + 0 * 8) 8)) 0 = _
    rw [Nat.zero_mul, Nat.add_zero, bitsAt_byte, sInt_mod]
  have helemB : bElem img c [0] n 0 = some (intVal (sInt 8 (Memory.le img (c.bOff + n * c.ldb) 1)) 0) := by
    have hslots : c.slots = 0 := by simp only [LatheCfg.slots, hsparse]
    rw [bElem, hb, hmx, htb, hslots]
    change some (intVal (sInt 8 (bitsAt img (8 * (c.bOff + n * c.ldb) + 0 * 8) 8)) 0) = _
    rw [Nat.zero_mul, Nat.add_zero, bitsAt_byte, sInt_mod]
  have hfactors : factors img c [0] m n (rangeFrom 0 c.k) = [(0, intVal (sInt 8 (Memory.le img (c.aOff + m * c.lda) 1)) 0,
      intVal (sInt 8 (Memory.le img (c.bOff + n * c.ldb) 1)) 0)] := by
    rw [hk]
    simp only [factors, rangeFrom, List.filterMap_cons, List.filterMap_nil, helemA, helemB]
  obtain ⟨hloA, hhiA⟩ := sInt_eight_bounds (Memory.le img (c.aOff + m * c.lda) 1)
  obtain ⟨hloB, hhiB⟩ := sInt_eight_bounds (Memory.le img (c.bOff + n * c.ldb) 1)
  generalize sInt 8 (Memory.le img (c.aOff + m * c.lda) 1) = x at *
  generalize sInt 8 (Memory.le img (c.bOff + n * c.ldb) 1) = y at *
  have hlo : -(2 ^ 31) ≤ x * y := by nlinarith
  have hhi : x * y < 2 ^ 31 := by nlinarith
  have hsum : intSum img c [0] m n 0 = (x * y, 0) := by
    rw [intSum, hfactors]
    simp only [List.foldl_cons, List.foldl_nil, intVal_int, Int.zero_add, clampInt_32 hlo hhi, sInt_ofSInt_32 hlo hhi]
    rfl
  unfold latheElem
  rw [hacc, ha, hmx, hcin, hout, hshift]
  simp only [Bool.false_eq_true, if_false, codeGroup, Bool.not_false, and_self, true_or, if_true, hsum]
  rw [show codeFmt false 11 = .int32 from rfl, convert_intVal_int32 c.rmode hlo hhi]
  simp [eventFlag, flagIf]

/-! ### The rows of a block (R30, R77) -/

theorem rangeFrom_pairwise (n a : Nat) : (rangeFrom a n).Pairwise (· ≤ ·) := by
  induction n generalizing a with
  | zero => exact .nil
  | succ n ih =>
    rw [rangeFrom]
    refine .cons (fun x hx => ?_) (ih _)
    have := (mem_rangeFrom ..).mp hx
    omega

/-- The end of a row's bytes. -/
def rowEnd (row : Nat × List Byte) : Nat := row.1 + row.2.length

/-- The rows of a block end in ascending order: they have one length, and each begins a stride after the one before. -/
theorem latheBlock_rowEnds (img : Tab Byte) (c : LatheCfg) (kept : List Nat) (i j : Nat) :
    (latheBlock img c kept i j).1.Pairwise fun r r' => rowEnd r ≤ rowEnd r' := by
  have hlen : ∀ l : List (Nat × EFlags), (l.flatMap fun x => leBytes (codeBits c.out / 8) x.1).length = l.length * (codeBits c.out / 8) := by
    intro l
    simp [List.length_flatMap]
  rw [latheBlock]
  dsimp only
  rw [List.map_map, List.pairwise_map]
  refine (rangeFrom_pairwise ..).imp fun {m m'} h => ?_
  have hstride : m * c.ldd ≤ m' * c.ldd := Nat.mul_le_mul_right _ h
  simp only [rowEnd, Function.comp_apply, hlen, List.length_map]
  omega

/-- A row written with the rest of its last word: where that word's bytes are still those of the image, only the row changes. -/
theorem byte_put_wholeRow {img U : Tab Byte} {row : Nat × List Byte} (h : ∀ a, rowEnd row ≤ a → Memory.byte U a = Memory.byte img a) (a : Nat) :
    Memory.byte (Memory.put U (wholeRow img row).1 (wholeRow img row).2) a = Memory.byte (Memory.put U row.1 row.2) a := by
  have hend : row.1 + row.2.length = rowEnd row := rfl
  rw [wholeRow]
  dsimp only
  rw [Memory.put_append, Memory.byte_put, Memory.length_bytes, hend]
  split
  case isTrue hin =>
    rw [Memory.getD_bytes img _ (by omega), Memory.byte_put_outside _ _ _ _ (Or.inr (hend ▸ hin.1)), h a hin.1]
    exact congrArg _ (by omega)
  case isFalse => rfl

/-- The rows of a block, each with the rest of its last word, leave the bytes that the rows alone would (R30). -/
theorem byte_wholeRows {img : Tab Byte} {l : List (Nat × List Byte)} (hl : l.Pairwise fun r r' => rowEnd r ≤ rowEnd r') {U V : Tab Byte}
    {top : Nat} (hUV : ∀ a, Memory.byte U a = Memory.byte V a) (htop : ∀ r ∈ l, top ≤ rowEnd r)
    (himg : ∀ a, top ≤ a → Memory.byte U a = Memory.byte img a) (a : Nat) :
    Memory.byte (l.foldl (fun m row => Memory.put m (wholeRow img row).1 (wholeRow img row).2) U) a =
      Memory.byte (l.foldl (fun m row => Memory.put m row.1 row.2) V) a := by
  induction l generalizing U V top with
  | nil => exact hUV a
  | cons r l ih =>
    obtain ⟨hr, hl'⟩ := List.pairwise_cons.mp hl
    have habove : ∀ a, rowEnd r ≤ a → Memory.byte U a = Memory.byte img a := fun a h =>
      himg a ((htop r (List.mem_cons_self ..)).trans h)
    rw [List.foldl_cons, List.foldl_cons]
    refine ih (top := rowEnd r) hl' (fun a => ?_) hr fun a h => ?_
    · exact (byte_put_wholeRow habove a).trans (Memory.byte_put_congr hUV ..)
    · exact (byte_put_wholeRow habove a).trans ((Memory.byte_put_outside _ _ _ _ (Or.inr h)).trans (habove a h))

/-- Bytes put one after the other in a tile store. -/
theorem forEach_storePut_store {α : Type} (l : List α) (f : α → Nat × List Byte) (t : Nat) (s : State) :
    ((forEach l (fun x s => storePut s t (f x).1 (f x).2) s).tile t).store =
      l.foldl (fun m x => Memory.put m (f x).1 (f x).2) (s.tile t).store ∧
      Rest t s (forEach l (fun x s => storePut s t (f x).1 (f x).2) s) := by
  induction l generalizing s with
  | nil => exact ⟨rfl, .refl _⟩
  | cons x l ih =>
    obtain ⟨hstore, hrest⟩ := ih (storePut s t (f x).1 (f x).2)
    rw [forEach_cons, List.foldl_cons]
    refine ⟨?_, (storePut_rest ..).trans hrest⟩
    rw [hstore, storePut_store]

/-! ### LATHE_BLOCK_DONE (R57, R77, R83) -/

/-- Without block skip every k-block is kept (R80). -/
theorem latheKept_all {img : Tab Byte} {c : LatheCfg} (h : c.bskip = false) (j : Nat) : latheKept img c j = rangeFrom 0 (ceilDiv c.k 64) := by
  rw [latheKept, h]
  exact List.filter_eq_self.mpr fun _ _ => rfl

theorem metaViolation_none {img : Tab Byte} {c : LatheCfg} (h : c.sparse = 0) (kept : List Nat) (j : Nat) :
    metaViolation img c kept j = none := by
  have hslots : c.slots = 0 := by simp only [LatheCfg.slots, h]
  rw [metaViolation, if_pos hslots]

/-- A pass that ends: its descriptor has finished, and the Lathe is free. -/
theorem latheEnd_spec {s : State} {t q : Nat} {e : QEntry} {P P' : QEntry → Prop} {status : Nat} {detail : W64} {flags : EFlags}
    (h : HasEntry s t q e.seq P)
    (hP : ∀ y, P y → P' { y with phase := .finished, status := status, detail := detail, flags := flags }) :
    HasEntry (latheEnd s t q e status detail flags) t q e.seq P' ∧ ((latheEnd s t q e status detail flags).tile t).latheQ = none ∧
      ((latheEnd s t q e status detail flags).tile t).store = (s.tile t).store := by
  unfold latheEnd
  refine ⟨(hasEntry_endEntry h hP).of_entries ?_, ?_, ?_⟩
  · rw [State.modTile_queue]
    match q with
    | 0 | 1 | 2 | _ + 3 => rfl
  · rw [State.modTile_tile]
  · rw [State.modTile_tile]
    exact (endEntry_calm ..).store

/-- What a descriptor's entry shows of a pass one block on. -/
def blockDone (flags : EFlags) (first : Option Nat) (e : QEntry) : QEntry := { e with pos := e.pos + 1, flags := flags, firstRange := first }

theorem latheCycles_counted (s : State) (t : Nat) : CountedOn t s (latheCycles s t) := by
  have hcycles : ∀ (u : State) (i : Nat), CountedOn t u (countCycles u t i) := fun u i =>
    (takeFree_counted t u).trans (countTile_counted ..)
  exact ((hcycles _ _).trans (eventCycles_counted ..)).trans (hcycles _ _)

/-- A block of a pass without block skip and without sparsity, in a tile without store errors: its rows stand in the store, and the pass goes
on or ends. -/
theorem latheStep_dense {s : State} {t q : Nat} {e : QEntry} (herr : (s.tile t).storeErr = []) (hskip : (parseLathe e.desc).bskip = false)
    (hsparse : (parseLathe e.desc).sparse = 0) (x : List (Nat × List Byte) × EFlags)
    (hx : x = latheBlock (s.tile t).store (parseLathe e.desc) (rangeFrom 0 (ceilDiv (parseLathe e.desc).k 64))
      (e.pos % ceilDiv (parseLathe e.desc).m 64) (e.pos / ceilDiv (parseLathe e.desc).m 64))
    (first : Option Nat) (hfirst : first = e.firstRange.or (if x.2 &&& 1 = 0 then none else some e.pos)) :
    ∃ u, Rest t s u ∧ (∀ a, Memory.byte (u.tile t).store a =
        Memory.byte (x.1.foldl (fun m row => Memory.put m row.1 row.2) (s.tile t).store) a) ∧
      latheStep s t q e =
        if e.pos + 1 < (parseLathe e.desc).blocks then modEntry u t q e.seq (blockDone (e.flags ||| x.2) first)
        else latheEnd (modEntry u t q e.seq (blockDone (e.flags ||| x.2) first)) t q e (if first.isSome then stExactRange else stOk)
          (BitVec.ofNat 64 (first.getD 0)) (e.flags ||| x.2) := by
  have hcounted : ∀ v : State, Quiet t v (latheCycles (tileCycles (countTile (tileEvent v t 0x09 none 0) t 1
      ((parseLathe e.desc).busy (rangeFrom 0 (ceilDiv (parseLathe e.desc).k 64)))) t) t) := fun v =>
    ((((tileEvent_counted v t 0x09 none 0).trans (countTile_counted ..)).trans (tileCycles_counted ..)).trans (latheCycles_counted ..)).quiet
  have hnone : e.flags ||| x.2 ||| flagIf (decide (0 < 0)) fSkipped = e.flags ||| x.2 := by simp [flagIf]
  obtain ⟨hstore, hrest⟩ := forEach_storePut_store x.1 (wholeRow (s.tile t).store) t s
  have hrows := byte_wholeRows (img := (s.tile t).store) (hx ▸ latheBlock_rowEnds ..) (U := (s.tile t).store) (V := (s.tile t).store) (top := 0)
    (fun _ => rfl) (fun _ _ => Nat.zero_le _) fun _ _ => rfl
  unfold latheStep
  simp only [readRanges_clean herr, latheKept_all hskip, metaViolation_none hsparse, length_rangeFrom, Nat.sub_self]
  rw [← hx, hnone]
  refine ⟨_, hrest.trans (hcounted _).rest, fun a => ?_, ?_⟩
  · exact (congrArg (Memory.byte · a) (hcounted _).store).trans ((congrArg (Memory.byte · a) hstore).trans (hrows a))
  · have hfirst' : first = e.firstRange.or (if x.2 &&& fExactRange = 0 then none else some e.pos) := hfirst
    subst hfirst'
    cases e.firstRange.or (if x.2 &&& fExactRange = 0 then none else some e.pos) <;> rfl

/-- The clauses of O23 on the Lathe's blocks. -/
theorem latheBlocks (t q : Nat) (e : QEntry) (s : State) (ht : t < 1296) (hrun : (s.tile t).st = .run) (herr : (s.tile t).storeErr = [])
    (hq : (s.tile t).latheQ = some q) (he : (s.queue t q).active 2 = some e) (hskip : (parseLathe e.desc).bskip = false)
    (hsparse : (parseLathe e.desc).sparse = 0) :
    let c := parseLathe e.desc
    let x := latheBlock (s.tile t).store c (rangeFrom 0 (ceilDiv c.k 64)) (e.pos % ceilDiv c.m 64) (e.pos / ceilDiv c.m 64)
    let first := e.firstRange.or (if x.2 &&& 1 = 0 then none else some e.pos)
    let store := x.1.foldl (fun m row => Memory.put m row.1 row.2) (s.tile t).store
    (e.pos + 1 < c.blocks → Completes (.latheBlockDone t) s fun u =>
      HasEntry u t q e.seq (fun y => y.phase = .active ∧ y.pos = e.pos + 1 ∧ y.flags = e.flags ||| x.2 ∧ y.firstRange = first) ∧
      (u.tile t).latheQ = some q ∧ ∀ a, Memory.byte (u.tile t).store a = Memory.byte store a) ∧
    (c.blocks ≤ e.pos + 1 → Completes (.latheBlockDone t) s fun u =>
      HasEntry u t q e.seq (fun y => y.phase = .finished ∧ y.flags = e.flags ||| x.2 ∧ y.status = (if first = none then 0x00 else 0x14) ∧
        y.detail = BitVec.ofNat 64 (first.getD 0)) ∧
      (u.tile t).latheQ = none ∧ ∀ a, Memory.byte (u.tile t).store a = Memory.byte store a) := by
  dsimp only
  generalize hx : latheBlock _ _ _ _ _ = x
  generalize hfirst : e.firstRange.or (if x.2 &&& 1 = 0 then none else some e.pos) = first
  obtain ⟨u, hrest, hstore, hstep⟩ := latheStep_dense herr hskip hsparse x hx.symm first hfirst.symm
  have hact : doLatheBlockDone t s = latheStep s t q e := by
    unfold doLatheBlockDone
    simp only [hq, show ((s.tile t).queue q).active 2 = some e from he, hrun, if_true]
  have hexec := (require_of (okTile_of ht)).trans (congrArg (.next · : State → Host.Outcome State Fault Refusal) (hact.trans hstep))
  have hentry : HasEntry (modEntry u t q e.seq (blockDone (e.flags ||| x.2) first)) t q e.seq fun y =>
      y.phase = .active ∧ y.pos = e.pos + 1 ∧ y.flags = e.flags ||| x.2 ∧ y.firstRange = first :=
    hasEntry_modEntry (hasEntry_rest hrest (active_hasEntry he)) fun y hseq hy => ⟨hseq, hy.2, by rw [hy.1]; exact ⟨rfl, rfl, rfl⟩⟩
  have hcalm := modEntry_calm u t q e.seq (blockDone (e.flags ||| x.2) first)
  have hbytes : ∀ a, Memory.byte ((modEntry u t q e.seq (blockDone (e.flags ||| x.2) first)).tile t).store a =
      Memory.byte (x.1.foldl (fun m row => Memory.put m row.1 row.2) (s.tile t).store) a := fun a => by rw [hcalm.store, hstore]
  refine ⟨fun hmore => ?_, fun hlast => ?_⟩
  · exact .of_eq (hexec.trans (congrArg _ (if_pos hmore))) ⟨hentry, hcalm.latheQ.trans (hrest.latheQ.trans hq), hbytes⟩
  · have hends := hexec.trans (congrArg _ (if_neg (by omega)))
    have hstatus : (if first.isSome then stExactRange else stOk) = if first = none then 0x00 else 0x14 := by
      cases first <;> simp [stOk, stExactRange]
    obtain ⟨hy, hfree, hsame⟩ := latheEnd_spec (status := if first.isSome then stExactRange else stOk)
      (detail := BitVec.ofNat 64 (first.getD 0)) (flags := e.flags ||| x.2) hentry
      (P' := fun y => y.phase = .finished ∧ y.flags = e.flags ||| x.2 ∧ y.status = (if first = none then 0x00 else 0x14) ∧
        y.detail = BitVec.ofNat 64 (first.getD 0)) fun y _ => ⟨rfl, rfl, hstatus, rfl⟩
    exact .of_eq hends ⟨hy, hfree, fun a => by rw [hsame, hbytes]⟩

end Sys2Proof.Machine
end

section
/-!
PROOFS. The bits that flip on the way (R262) bear on no step but the moves of data that name them: Truss, the pool and the walks of the
Keystone act alike whatever they are, and so does the choice of the chunk that the tile mover issues next.
-/

namespace Sys2Proof.Machine
open Sys2Proof

/-- The state with other bits to flip on the way. -/
def State.flipped (fl : Flips) (s : State) : State := s.modTruss fun x => { x with flips := fl }

section Flipped
variable (fl : Flips) (s : State)

/-! ### What a state holds, and what sets it -/

@[simp] theorem State.flipped_pool : (s.flipped fl).pool = s.pool := rfl
@[simp] theorem State.flipped_ctrs : (s.flipped fl).ctrs = s.ctrs := rfl
@[simp] theorem State.flipped_events : (s.flipped fl).events = s.events := rfl
@[simp] theorem State.flipped_nextEvent : (s.flipped fl).nextEvent = s.nextEvent := rfl
@[simp] theorem State.flipped_eventTick : (s.flipped fl).eventTick = s.eventTick := rfl
@[simp] theorem State.flipped_freeVal : (s.flipped fl).freeVal = s.freeVal := rfl
@[simp] theorem State.flipped_tile (t : Nat) : (s.flipped fl).tile t = s.tile t := rfl
@[simp] theorem State.flipped_queue (t q : Nat) : (s.flipped fl).queue t q = s.queue t q := rfl
@[simp] theorem State.flipped_chan (c : Nat) : (s.flipped fl).chan c = s.chan c := rfl
@[simp] theorem State.flipped_pier (p : Nat) : (s.flipped fl).pier p = s.pier p := rfl
@[simp] theorem State.flipped_cluster (c : Nat) : (s.flipped fl).cluster c = s.cluster c := rfl
@[simp] theorem State.flipped_arb (a : Nat) : (s.flipped fl).arb a = s.arb a := rfl
@[simp] theorem State.flipped_hint (n : Nat) : (s.flipped fl).hint n = s.hint n := rfl
@[simp] theorem State.flipped_bundle (b : Nat) : (s.flipped fl).bundle b = s.bundle b := rfl
@[simp] theorem State.flipped_tport (k : Nat) : (s.flipped fl).tport k = s.tport k := rfl
@[simp] theorem State.flipped_home (a : Nat) : (s.flipped fl).home a = s.home a := rfl
@[simp] theorem State.flipped_chOf (cw : Nat) : (s.flipped fl).chOf cw = s.chOf cw := rfl
@[simp] theorem State.flipped_locAt (a : Nat) : (s.flipped fl).locAt a = s.locAt a := rfl
@[simp] theorem State.flipped_adderEntry (cw : Nat) : (s.flipped fl).adderEntry cw = s.adderEntry cw := rfl
@[simp] theorem State.flipped_poolServes (cw : Nat) : (s.flipped fl).poolServes cw = s.poolServes cw := rfl
@[simp] theorem State.flipped_indicates : (s.flipped fl).indicates = s.indicates := rfl
@[simp] theorem State.flipped_root (tag : Nat) : (s.flipped fl).root tag = s.root tag := rfl
@[simp] theorem State.flipped_served (tag : Nat) : (s.flipped fl).served tag = s.served tag := rfl
@[simp] theorem State.flipped_extent (tag va : Nat) : (s.flipped fl).extent tag va = s.extent tag va := rfl

@[simp] theorem State.takeFree_flipped : (s.flipped fl).takeFree = s.takeFree.flipped fl := rfl
@[simp] theorem State.send_flipped (o : Out) : (s.flipped fl).send o = (s.send o).flipped fl := rfl
@[simp] theorem State.setPier_flipped (p : Nat) (v : Pier) : (s.flipped fl).setPier p v = (s.setPier p v).flipped fl := rfl
@[simp] theorem State.modPier_flipped (p : Nat) (f : Pier → Pier) : (s.flipped fl).modPier p f = (s.modPier p f).flipped fl := rfl
@[simp] theorem State.modChan_flipped (c : Nat) (f : Chan → Chan) : (s.flipped fl).modChan c f = (s.modChan c f).flipped fl := rfl
@[simp] theorem State.modCluster_flipped (c : Nat) (f : Cluster → Cluster) : (s.flipped fl).modCluster c f = (s.modCluster c f).flipped fl := rfl
@[simp] theorem State.modArb_flipped (a : Nat) (f : Arb → Arb) : (s.flipped fl).modArb a f = (s.modArb a f).flipped fl := rfl
@[simp] theorem State.modPool_flipped (f : Pool → Pool) : (s.flipped fl).modPool f = (s.modPool f).flipped fl := rfl
@[simp] theorem State.modTPort_flipped (k : Nat) (f : TPort → TPort) : (s.flipped fl).modTPort k f = (s.modTPort k f).flipped fl := rfl
@[simp] theorem State.modBundle_flipped (b : Nat) (f : TBundle → TBundle) : (s.flipped fl).modBundle b f = (s.modBundle b f).flipped fl := rfl

/-- A step that is alike whatever bits flip, run for each of a list. -/
theorem forEach_flipped {α : Type} {f : α → State → State} (l : List α) (h : ∀ a u, f a (State.flipped fl u) = (f a u).flipped fl) :
    forEach l f (s.flipped fl) = (forEach l f s).flipped fl := by
  induction l generalizing s with
  | nil => rfl
  | cons x xs ih => rw [forEach_cons, forEach_cons, h, ih]

/-- Likewise, with a value beside the state. -/
theorem foldl_flipped {α β : Type} {f : State × β → α → State × β}
    (h : ∀ u b a, f (State.flipped fl u, b) a = ((f (u, b) a).1.flipped fl, (f (u, b) a).2)) (l : List α) (b : β) :
    l.foldl f (s.flipped fl, b) = ((l.foldl f (s, b)).1.flipped fl, (l.foldl f (s, b)).2) := by
  induction l generalizing s b with
  | nil => rfl
  | cons a l ih => rw [List.foldl_cons, List.foldl_cons, h, ih]

/-! ### Counters, events and Truss (R257–R262, R388, R398) -/

@[simp] theorem bump_flipped (a n : Nat) : bump (s.flipped fl) a n = (bump s a n).flipped fl := by
  unfold bump
  rw [State.flipped_ctrs]
  split <;> rfl

@[simp] theorem bestBundle_flipped (ch : Nat) (l : List Nat) : bestBundle (s.flipped fl) ch l = bestBundle s ch l := by
  induction l with
  | nil => rfl
  | cons b l ih =>
    unfold bestBundle
    rw [ih]
    rfl

@[simp] theorem offering_flipped (k : Nat) : offering (s.flipped fl) k = offering s k := rfl

@[simp] theorem portReady_flipped (k : Nat) : portReady (s.flipped fl) k = portReady s k := by
  simp only [portReady, State.flipped_tport, bestBundle_flipped, offering_flipped]

@[simp] theorem portTurn_flipped (k : Nat) : portTurn (s.flipped fl) k = portTurn s k := by
  unfold portTurn
  rw [portReady_flipped]
  rfl

@[simp] theorem leaveTPort_flipped (k : Nat) (x : Nat × List Nat × TPkt) : leaveTPort k x (s.flipped fl) = (leaveTPort k x s).flipped fl := by
  unfold leaveTPort
  simp only [State.modTPort_flipped, State.modBundle_flipped, bump_flipped]
  split <;> rfl

@[simp] theorem drainTPort_flipped (k n : Nat) : drainTPort k n (s.flipped fl) = (drainTPort k n s).flipped fl := by
  induction n generalizing s with
  | zero => rfl
  | succ n ih =>
    simp only [drainTPort, portTurn_flipped, leaveTPort_flipped, ih]
    split <;> rfl

@[simp] theorem bundleBack_flipped (ch b : Nat) : bundleBack ch b (s.flipped fl) = (bundleBack ch b s).flipped fl := by
  by_cases hu : Tab.get 0 (s.bundle b).used ch = 0 <;> by_cases ha : (s.bundle b).unacked = [] <;>
    simp only [bundleBack, State.flipped_bundle, hu, ha, ↓reduceIte] <;> rfl

@[simp] theorem serveTPort_flipped (k : Nat) : serveTPort k (s.flipped fl) = (serveTPort k s).flipped fl := by
  have hback : ∀ (chs : List Nat) (u : State), forEach chs (fun ch s => forEach (offering s k) (bundleBack ch) s) (u.flipped fl) =
      (forEach chs (fun ch s => forEach (offering s k) (bundleBack ch) s) u).flipped fl := fun chs u =>
    forEach_flipped fl u chs fun ch v => forEach_flipped fl v _ fun b w => bundleBack_flipped fl w ch b
  unfold serveTPort
  rw [State.flipped_tport]
  split
  · rfl
  · simp only [hback, drainTPort_flipped]

@[simp] theorem crossTruss_flipped (p : TPkt) : crossTruss (s.flipped fl) p = (crossTruss s p).flipped fl := by
  unfold crossTruss
  split
  · rfl
  · dsimp only
    rw [← forEach_flipped fl _ _ fun k u => serveTPort_flipped fl u k]
    rfl

@[simp] theorem packet_flipped (vc : Nat) (resp : Bool) (a b : Nat × Nat) (kind addr len : Nat) :
    packet (s.flipped fl) vc resp a b kind addr len = (packet s vc resp a b kind addr len).flipped fl := crossTruss_flipped ..

@[simp] theorem roundTrip_flipped (vcq vcr : Nat) (a b : Nat × Nat) (kind addr rq rs : Nat) :
    roundTrip (s.flipped fl) vcq vcr a b kind addr rq rs = (roundTrip s vcq vcr a b kind addr rq rs).flipped fl := by
  simp only [roundTrip, packet_flipped]

/-! ### Host interrupts and the event log (R252, R382–R387) -/

@[simp] theorem setIdentity_flipped (f n : Nat) : setIdentity (s.flipped fl) f n = (setIdentity s f n).flipped fl := by
  unfold setIdentity
  split <;> rfl

@[simp] theorem msiWrite_flipped (addr : Nat) (d : W32) : msiWrite (s.flipped fl) addr d = (msiWrite s addr d).flipped fl := by
  unfold msiWrite
  simp only [packet_flipped, setIdentity_flipped]
  repeat' split
  all_goals rfl

@[simp] theorem raiseHost_flipped (n : Nat) : raiseHost (s.flipped fl) n = (raiseHost s n).flipped fl := by
  unfold raiseHost sendMsi
  simp only [State.flipped_hint, State.send_flipped, msiWrite_flipped]
  repeat' split
  all_goals rfl

@[simp] theorem logStored_flipped (code cls die : Nat) (data : List Nat) (kind key : Nat) :
    logStored (s.flipped fl) code cls die data kind key = (logStored s code cls die data kind key).flipped fl := by
  have hadd : addRec (s.flipped fl) kind key data = (addRec s kind key data).flipped fl := rfl
  have hlog : ∀ (u : State) (l : List Event) (n : Nat),
      { u.flipped fl with events := l, nextEvent := n } = State.flipped fl { u with events := l, nextEvent := n } := fun _ _ _ => rfl
  simp only [logStored, logEvent, hadd, State.flipped_events, State.flipped_nextEvent, State.flipped_eventTick, hlog, raiseHost_flipped]

/-! ### The channels of the pool and their stacks (R193–R207) -/

@[simp] theorem countMoved_flipped (ch i n : Nat) : countMoved (s.flipped fl) ch i n = (countMoved s ch i n).flipped fl := by
  simp only [countMoved, State.flipped_freeVal, State.takeFree_flipped, bump_flipped, State.modChan_flipped]

@[simp] theorem queueRepair_flipped (r : RowLoc) : queueRepair (s.flipped fl) r = (queueRepair s r).flipped fl := by
  unfold queueRepair
  rw [State.flipped_pool]
  split <;> rfl

@[simp] theorem noteRow_flipped (r : RowLoc) : noteRow (s.flipped fl) r = (noteRow s r).flipped fl := by
  unfold noteRow
  simp only [State.flipped_chan, State.modChan_flipped, queueRepair_flipped]
  split <;> split <;> rfl

@[simp] theorem outerCorrected_flipped (cw : Nat) (again : Bool) : outerCorrected (s.flipped fl) cw again = (outerCorrected s cw again).flipped fl := by
  simp only [outerCorrected, State.flipped_locAt, State.modPool_flipped, State.modChan_flipped, noteRow_flipped]

@[simp] theorem uncorrectable_flipped (cw : Nat) : uncorrectable (s.flipped fl) cw = (uncorrectable s cw).flipped fl := by
  simp only [uncorrectable, State.flipped_locAt, State.modPool_flipped, State.modChan_flipped, logStored_flipped, queueRepair_flipped]

@[simp] theorem innerCorrected_flipped (cw : Nat) : innerCorrected (s.flipped fl) cw = (innerCorrected s cw).flipped fl := rfl

@[simp] theorem stackRead_flipped (cw : Nat) (inner : Bool) :
    stackRead (s.flipped fl) cw inner = ((stackRead s cw inner).1.flipped fl, (stackRead s cw inner).2) := by
  unfold stackRead
  simp only [State.flipped_chOf, countMoved_flipped, State.flipped_pool, innerCorrected_flipped, outerCorrected_flipped, uncorrectable_flipped]
  split
  · split <;> rfl
  · rfl
  · rfl

@[simp] theorem ctrlRead_flipped (cw : Nat) (inner : Bool) :
    ctrlRead (s.flipped fl) cw inner = ((ctrlRead s cw inner).1.flipped fl, (ctrlRead s cw inner).2) := by
  unfold ctrlRead
  simp only [State.flipped_poolServes, State.flipped_adderEntry, stackRead_flipped]
  split
  · rfl
  · split <;> rfl

/-- The state after a controller's write, and whether it was poisoned, likewise. -/
@[simp] theorem ctrlWrite_flipped (cw : Nat) (mask : BitVec 64) (d : BitVec 512) :
    ctrlWrite (s.flipped fl) cw mask d = ((ctrlWrite s cw mask d).1.flipped fl, (ctrlWrite s cw mask d).2) := by
  unfold ctrlWrite
  rw [State.flipped_poolServes]
  split
  · rfl
  split
  · rfl
  by_cases hm : mask = BitVec.allOnes 64
  · simp only [if_pos hm, State.flipped_adderEntry, State.flipped_chOf, State.modPool_flipped, countMoved_flipped]
    split <;> rfl
  · simp only [if_neg hm, bump_flipped, State.flipped_adderEntry, State.flipped_chOf, State.modPool_flipped, countMoved_flipped,
      State.takeFree_flipped, State.flipped_indicates, stackRead_flipped]
    split
    · rfl
    · split <;> rfl

/-! ### The piers (R208–R226) -/

@[simp] theorem overBuffer_flipped (cw : Nat) (v : BitVec 512 × Bool) : overBuffer (s.flipped fl) cw v = overBuffer s cw v := rfl
@[simp] theorem hitCw_flipped (p cw : Nat) : hitCw (s.flipped fl) p cw = hitCw s p cw := rfl
@[simp] theorem writtenMask_flipped (line : Nat) (mask : BitVec 128) : writtenMask (s.flipped fl) line mask = writtenMask s line mask := rfl
@[simp] theorem fillCw_flipped (p cw : Nat) (d : BitVec 512) (poison : Bool) :
    fillCw (s.flipped fl) p cw d poison = (fillCw s p cw d poison).flipped fl := rfl
@[simp] theorem addFills_flipped (p : Nat) (cws : List Nat) (a b : Bool) :
    addFills (s.flipped fl) p cws a b = (addFills s p cws a b).flipped fl := rfl

@[simp] theorem allocLine_flipped (p line : Nat) (fresh : Bool) : allocLine (s.flipped fl) p line fresh = (allocLine s p line fresh).flipped fl := by
  unfold allocLine
  rw [State.flipped_pier]
  split <;> rfl

@[simp] theorem touchLine_flipped (p line : Nat) : touchLine (s.flipped fl) p line = (touchLine s p line).flipped fl := by
  unfold touchLine
  rw [State.flipped_pier]
  split <;> rfl

@[simp] theorem prefetchNext_flipped (p line : Nat) : prefetchNext (s.flipped fl) p line = (prefetchNext s p line).flipped fl := by
  simp only [prefetchNext, State.flipped_pier, bump_flipped, allocLine_flipped, addFills_flipped]
  split <;> rfl

@[simp] theorem fillValue_flipped (cw : Nat) (inner : Bool) :
    fillValue (s.flipped fl) cw inner = ((fillValue s cw inner).1.flipped fl, (fillValue s cw inner).2) := by
  simp only [fillValue, ctrlRead_flipped, overBuffer_flipped]

@[simp] theorem latchFills_flipped (p cw : Nat) : latchFills (s.flipped fl) p cw = (latchFills s p cw).flipped fl := by
  simp only [latchFills, State.flipped_pier, State.takeFree_flipped, State.flipped_indicates, fillValue_flipped]
  split <;> rfl

@[simp] theorem drainEntry_flipped (p : Nat) (m : Merge) : drainEntry (s.flipped fl) p m = (drainEntry s p m).flipped fl := by
  unfold drainEntry
  rw [State.modPier_flipped]
  refine forEach_flipped fl _ _ fun h u => ?_
  simp only [bump_flipped, ctrlWrite_flipped]
  split <;> rfl

@[simp] theorem drainFull_flipped (n p : Nat) : drainFull n (s.flipped fl) p = (drainFull n s p).flipped fl := by
  induction n generalizing s with
  | zero => rfl
  | succ n ih =>
    simp only [drainFull, State.flipped_pier, drainEntry_flipped, ih]
    split
    · split <;> rfl
    · rfl

@[simp] theorem pierStore_flipped (line : Nat) (mask : BitVec 128) (d : BitVec 1024) :
    pierStore (s.flipped fl) line mask d = (pierStore s line mask d).flipped fl := by
  unfold pierStore
  simp only [State.flipped_home, writtenMask_flipped, latchFills_flipped, State.takeFree_flipped, State.flipped_freeVal, bump_flipped,
    State.flipped_pier, State.setPier_flipped, drainEntry_flipped]
  split
  · rfl
  · split
    · split <;> rw [drainFull_flipped]
    · rw [drainFull_flipped]

@[simp] theorem pierGet_flipped (cw : Nat) (sectors : BitVec 4) :
    pierGet (s.flipped fl) cw sectors = ((pierGet s cw sectors).1.flipped fl, (pierGet s cw sectors).2) := by
  unfold pierGet
  simp only [State.flipped_poolServes, State.flipped_home, touchLine_flipped, State.flipped_pier, bump_flipped, hitCw_flipped,
    State.takeFree_flipped, fillValue_flipped, State.flipped_indicates]
  split
  · rfl
  split
  · rfl
  split
  · rfl
  split <;> simp only [allocLine_flipped, State.takeFree_flipped, fillValue_flipped, State.flipped_indicates, fillCw_flipped, prefetchNext_flipped]

@[simp] theorem readPool_flipped (addr n : Nat) : readPool (s.flipped fl) addr n = ((readPool s addr n).1.flipped fl, (readPool s addr n).2) := by
  unfold readPool
  rw [foldl_flipped fl s fun u b cw => by simp only [pierGet_flipped]]

/-! ### Coherence and walks (R164–R173, R242–R250) -/

@[simp] theorem storePoison_flipped (cw : Nat) : storePoison (s.flipped fl) cw = (storePoison s cw).flipped fl := by
  simp only [storePoison, State.flipped_chOf, State.modChan_flipped, State.flipped_home, latchFills_flipped, State.modPier_flipped,
    State.modPool_flipped]

@[simp] theorem writeBackLine_flipped (line : Nat) (d : BitVec 512) (poison : Bool) :
    writeBackLine (s.flipped fl) line d poison = (writeBackLine s line d poison).flipped fl := by
  simp only [writeBackLine, lineStore, State.flipped_poolServes, storePoison_flipped, pierStore_flipped]
  repeat' split
  all_goals rfl

@[simp] theorem cohShare_flipped (line : Nat) : cohShare (s.flipped fl) line = (cohShare s line).flipped fl := by
  unfold cohShare
  simp only [State.flipped_arb, State.modArb_flipped, State.flipped_cluster, State.modCluster_flipped, writeBackLine_flipped]
  repeat' split
  all_goals rfl

@[simp] theorem cohRead_flipped (addr n : Nat) : cohRead (s.flipped fl) addr n = ((cohRead s addr n).1.flipped fl, (cohRead s addr n).2) := by
  unfold cohRead
  rw [forEach_flipped fl s _ fun l u => by simp only [countTileReq, cohShare_flipped, bump_flipped], readPool_flipped]

@[simp] theorem walkFrom_flipped (n table va : Nat) :
    walkFrom n (s.flipped fl) table va = ((walkFrom n s table va).1.flipped fl, (walkFrom n s table va).2) := by
  induction n generalizing s table with
  | zero => rfl
  | succ n ih =>
    simp only [walkFrom, roundTrip_flipped, cohRead_flipped, bump_flipped, ih]
    repeat' split
    all_goals rfl

@[simp] theorem walk_flipped (tag va : Nat) : walk (s.flipped fl) tag va = ((walk s tag va).1.flipped fl, (walk s tag va).2) := by
  simp only [walk, State.flipped_root, State.flipped_served, walkFrom_flipped]
  split
  · rfl
  · split <;> rfl

/-! ### The chunk whose turn it is (R136–R138, R143) -/

@[simp] theorem extentAround_flipped (t q va : Nat) : extentAround (s.flipped fl) t q va = extentAround s t q va := by
  unfold extentAround
  simp only [State.flipped_queue, State.flipped_tile, State.flipped_extent, walk_flipped] <;> rfl

@[simp] theorem addNeed_flipped (t q : Nat) (l : List Need3) (va k : Nat) : addNeed (s.flipped fl) t q l va k = addNeed s t q l va k := by
  simp only [addNeed, extentAround_flipped]

@[simp] theorem takeElems_flipped (t q : Nat) (e : QEntry) (es : Nat) (l : List Nat) (needs : List Need3) :
    takeElems (s.flipped fl) t q e es l needs = takeElems s t q e es l needs := by
  induction l generalizing needs with
  | nil => rfl
  | cons j l ih => simp only [takeElems, addNeed_flipped, ih]

@[simp] theorem chunkPlan_flipped (t q : Nat) (e : QEntry) : chunkPlan (s.flipped fl) t q e = chunkPlan s t q e := by
  simp only [chunkPlan, takeElems_flipped]

@[simp] theorem moverReady_flipped (t q : Nat) : moverReady (s.flipped fl) t q = moverReady s t q := by
  have hidle : ∀ e ext elems, hcIdle (s.flipped fl) t q e ext elems = hcIdle s t q e ext elems := fun _ _ _ => rfl
  simp only [moverReady, State.flipped_queue, chunkPlan_flipped, hidle]

/-- Whose turn it is does not depend on the bits that flip on the way. -/
@[simp] theorem moverTurn_flipped (t q : Nat) : moverTurn (s.flipped fl) t q = moverTurn s t q := by
  simp only [moverTurn, State.flipped_tile, moverReady_flipped]

end Flipped
end Sys2Proof.Machine
end

section
/-!
PROOFS. The bytes of a chunk on their way to a tile store (R132).
-/

namespace Sys2Proof.Machine
open Sys2Proof

/-! ### Scattered bytes -/

/-- Scattered bytes written to a memory make it read as another does. -/
structure Scatter.Lays (w : Scatter) (t m : Tab Byte) : Prop where
  wf : Tab.wf none w = true
  byte : ∀ a, Memory.byte m a = (Tab.get none w a).getD (Memory.byte t a)

theorem Scatter.Lays.nil (t : Tab Byte) : Scatter.Lays [] t t := ⟨Tab.wf_nil none, fun _ => rfl⟩

theorem Scatter.foldl_set_spec (l : List Byte) (n d : Nat) {w : Scatter} (hw : Tab.wf none w = true) :
    Tab.wf none ((l.zipIdx n).foldl (fun w x => Tab.set none w (d + x.2) (some x.1)) w) = true ∧
      ∀ a, Tab.get none ((l.zipIdx n).foldl (fun w x => Tab.set none w (d + x.2) (some x.1)) w) a =
        if d + n ≤ a ∧ a < d + n + l.length then some (l.getD (a - (d + n)) 0) else Tab.get none w a := by
  induction l generalizing n w with
  | nil => exact ⟨hw, fun a => (if_neg (by rw [List.length_nil]; omega)).symm⟩
  | cons b l ih =>
    obtain ⟨hwf, hget⟩ := ih (n + 1) (Tab.wf_set none w (d + n) (some b) hw)
    rw [List.zipIdx_cons, List.foldl_cons]
    refine ⟨hwf, fun a => ?_⟩
    rw [hget, List.length_cons]
    by_cases ha : a = d + n
    · rw [if_neg (by omega), if_pos (by omega), ha, Tab.get_set_self, Nat.sub_self, List.getD_cons_zero]
    · rw [Tab.get_set_ne none w _ _ _ ha]
      by_cases hin : d + (n + 1) ≤ a ∧ a < d + (n + 1) + l.length
      · rw [if_pos hin, if_pos (by omega), show a - (d + n) = a - (d + (n + 1)) + 1 by omega, List.getD_cons_succ]
      · rw [if_neg hin, if_neg (by omega)]

/-- Bytes put over scattered ones. -/
theorem Scatter.Lays.put {w : Scatter} {t m : Tab Byte} (h : w.Lays t m) (d : Nat) (l : List Byte) :
    (w.put d l).Lays t (Memory.put m d l) := by
  obtain ⟨hwf, hget⟩ := Scatter.foldl_set_spec l 0 d h.wf
  refine ⟨hwf, fun a => ?_⟩
  rw [Scatter.put, hget, Memory.byte_put, h.byte, Nat.add_zero]
  split <;> rfl

/-- The runs of scattered bytes hold the same bytes, each at its address. -/
theorem foldl_put_runsOf (n : Nat) (w : Scatter) (t : Tab Byte) :
    (runsOf n w).foldl (fun m r => Memory.put m r.1 r.2) t = w.foldl (fun m x => Tab.set 0 m x.1 (x.2.getD 0)) t := by
  induction w generalizing t with
  | nil => rfl
  | cons x w ih =>
    obtain ⟨a, b⟩ := x
    rw [List.foldl_cons, ← ih, runsOf]
    split
    case h_1 a' bs rest heq =>
      rw [heq]
      split
      case isTrue hnext => rw [hnext.1]; rfl
      case isFalse => rfl
    case h_2 heq =>
      rw [heq]
      rfl

/-- A memory to which scattered bytes are written one by one. -/
theorem Scatter.byte_foldl_set {w : Scatter} (hw : Tab.wf none w = true) (t : Tab Byte) (a : Nat) :
    Memory.byte (w.foldl (fun m x => Tab.set 0 m x.1 (x.2.getD 0)) t) a = (Tab.get none w a).getD (Memory.byte t a) := by
  induction w generalizing t with
  | nil => rfl
  | cons x w ih =>
    obtain ⟨k, v⟩ := x
    obtain ⟨hsorted, hsome⟩ := Bool.and_eq_true_iff.mp hw
    rw [decide_eq_true_eq, List.pairwise_cons] at hsorted
    rw [List.all_cons, Bool.and_eq_true, decide_eq_true_eq] at hsome
    rw [List.foldl_cons, ih (Bool.and_eq_true_iff.mpr ⟨decide_eq_true hsorted.2, hsome.2⟩), Tab.get]
    split
    case isTrue hk =>
      have hlast : a ∉ w.map Prod.fst := fun h => by
        obtain ⟨y, hy, hya⟩ := List.mem_map.mp h
        exact absurd (hsorted.1 y hy) (by omega)
      obtain ⟨b, rfl⟩ := Option.ne_none_iff_exists'.mp hsome.1
      rw [Tab.get_of_not_mem none w a hlast, Memory.byte, hk, Tab.get_set_self]
      rfl
    case isFalse hk => rw [Memory.byte, Tab.get_set_ne 0 t k a _ (Ne.symm hk), Memory.byte]

theorem Memory.byte_foldl_put_congr {t u : Tab Byte} (h : ∀ a, Memory.byte t a = Memory.byte u a) (rs : List (Nat × List Byte)) (a : Nat) :
    Memory.byte (rs.foldl (fun m r => Memory.put m r.1 r.2) t) a = Memory.byte (rs.foldl (fun m r => Memory.put m r.1 r.2) u) a := by
  induction rs generalizing t u with
  | nil => exact h a
  | cons r rs ih => exact ih fun x => Memory.byte_put_congr h r.2 r.1 x

/-- Runs of bytes written by an engine to a store without errors, in turn. -/
theorem foldl_enginePut_clean {t : Nat} (rs : List (Nat × List Byte)) (s : State) (herr : (s.tile t).storeErr = []) :
    let r := rs.foldl (fun (r : State × Option Nat) x =>
      let y := enginePut r.1 t x.1 x.2
      (y.1, r.2.or y.2)) (s, none)
    r.2 = none ∧ Rest t s r.1 ∧ ∀ a, Memory.byte (r.1.tile t).store a =
      Memory.byte (rs.foldl (fun m r => Memory.put m r.1 r.2) (s.tile t).store) a := by
  induction rs generalizing s with
  | nil => exact ⟨rfl, .refl _, fun _ => rfl⟩
  | cons x rs ih =>
    obtain ⟨hnone, hrest, hbytes⟩ := enginePut_clean x.1 x.2 herr
    obtain ⟨hnone', hrest', hbytes'⟩ := ih (enginePut s t x.1 x.2).1 (hrest.storeErr herr)
    simp only [List.foldl_cons, hnone, Option.or_none]
    exact ⟨hnone', hrest.trans hrest', fun a => (hbytes' a).trans (Memory.byte_foldl_put_congr hbytes rs a)⟩

/-- Without a store error, scattered bytes are written as they lie (R30, R132). -/
theorem putScatter_clean {s : State} {t : Nat} (w : Scatter) (herr : (s.tile t).storeErr = []) :
    (putScatter s t w).2 = none ∧ Rest t s (putScatter s t w).1 ∧
      ∀ m, w.Lays (s.tile t).store m → ∀ a, Memory.byte ((putScatter s t w).1.tile t).store a = Memory.byte m a := by
  obtain ⟨hnone, hrest, hbytes⟩ := foldl_enginePut_clean (runsOf (2 ^ 30) w) s herr
  refine ⟨hnone, hrest, fun m hm a => (hbytes a).trans ?_⟩
  rw [foldl_put_runsOf, Scatter.byte_foldl_set hm.wf, hm.byte]

/-! ### What the requests of a chunk leave of its tile -/

/-- A request leaves tile `t` as it was, and meets no word in error. -/
structure Issue.Away (t : Nat) (i j : Issue) : Prop where
  tile : j.s.tile t = i.s.tile t
  bad : j.bad = i.bad

theorem Issue.Away.refl (t : Nat) (i : Issue) : i.Away t i := ⟨rfl, rfl⟩

theorem Issue.Away.trans {t : Nat} {i j k : Issue} (h : i.Away t j) (g : j.Away t k) : i.Away t k := ⟨g.tile.trans h.tile, g.bad.trans h.bad⟩

theorem Issue.sent_away {t : Nat} {i : Issue} {r : State × Sent} (h : r.1.tile t = i.s.tile t) (pos va : Nat) (cws : List (Nat × Nat))
    (fetch : Option (Nat × Nat)) : i.Away t (i.sent r pos va cws fetch) := by
  refine ⟨((Issue.sent_le ..).tile rfl t).trans h, ?_⟩
  unfold Issue.sent
  split
  · rfl
  · rfl
  · split <;> rfl

theorem Issue.putCw_away (t' : Nat) (i : Issue) (t : Nat) (l : Lease) (pos cw : Nat) (w : Scatter) : i.Away t' (i.putCw t l pos cw w) :=
  ⟨(Issue.putCw_le ..).tile rfl t', rfl⟩

/-- A step of a fold over the requests of a chunk. -/
theorem Issue.Away.foldl {t : Nat} {α : Type} {f : Issue → α → Issue} (hf : ∀ i a, Issue.Away t i (f i a)) (l : List α) (i : Issue) :
    i.Away t (l.foldl f i) := by
  induction l generalizing i with
  | nil => exact .refl t i
  | cons a l ih => exact (hf i a).trans (ih _)

theorem Issue.putRun_away (t' : Nat) (i : Issue) (t q : Nat) (kind : Nat → List (Nat × Nat) → RemKind) (first : Nat → Nat) (lo : Nat)
    (bytes : List Byte) : i.Away t' (i.putRun t q kind first lo bytes) :=
  .foldl (fun _ _ => Issue.sent_away ((sendRemote_le ..).tile rfl t') ..) _ i

theorem Issue.putMem_away (t' : Nat) (i : Issue) (t q : Nat) (kind : Nat → List (Nat × Nat) → RemKind) (first : Nat → Nat) (w : Scatter) :
    i.Away t' (i.putMem t q kind first w) := by
  refine .trans (.foldl (fun j cw => ?_) _ i) (.foldl (fun j r => Issue.putRun_away ..) _ _)
  split
  · split
    · exact .refl ..
    · exact Issue.putCw_away ..
  · exact .refl ..

theorem Move.fetch_away (t' : Nat) (m : Move) (t : Nat) (l : Lease) (pos cw : Nat) : m.i.Away t' (m.fetch t l pos cw).i := by
  refine ⟨(Move.fetch_le ..).tile rfl t', ?_⟩
  unfold Move.fetch
  split <;> rfl

theorem Move.put_away (t' : Nat) (m : Move) (far : Bool) (dst : TRec) (pos a : Nat) (bytes : List Byte) :
    m.i.Away t' (m.put far dst pos a bytes).i := by
  refine ⟨(Move.put_le ..).tile rfl t', ?_⟩
  unfold Move.put
  dsimp only
  split <;> rfl

theorem Move.foldl_away {t : Nat} {α : Type} {f : Move → α → Move} (hf : ∀ (m : Move) a, m.i.Away t (f m a).i) (l : List α) (m : Move) :
    m.i.Away t (l.foldl f m).i := by
  induction l generalizing m with
  | nil => exact .refl ..
  | cons a l ih => exact (hf m a).trans (ih _)

/-- The elements of a COPY or FILL are gathered before any of them reaches the store. -/
theorem Move.elem_away (t' t q : Nat) (img : Tab Byte) (e : QEntry) (m : Move) (j : Nat) : m.i.Away t' (Move.elem t q img e m j).i := by
  unfold Move.elem
  dsimp only
  split
  case isTrue => exact Move.put_away ..
  split
  case isTrue => exact Move.put_away ..
  split
  case h_1 => exact .refl ..
  split
  case isTrue => exact .refl ..
  refine .trans (j := Move.i ?gathered) ?fetched ?put
  case put =>
    split
    · exact .refl ..
    · exact Move.put_away ..
  case fetched =>
    refine Move.foldl_away (fun m cw => ?_) _ m
    split
    · exact Move.fetch_away ..
    · exact .refl ..

/-- An operation of an ATOMIC leaves the tile stores alone (R133). -/
theorem atomicElem_away (t' t q chunk : Nat) (img : Tab Byte) (e : QEntry) (x : Issue × List Nat) (j : Nat) :
    x.1.Away t' (atomicElem t q chunk img e x j).1 := by
  refine ⟨(atomicElem_le ..).tile rfl t', ?_⟩
  unfold atomicElem
  dsimp only
  split
  · rfl
  · split
    · split
      · rfl
      · exact (Issue.sent_away ((sendRemote_le ..).tile rfl t') ..).bad
    · rfl

/-! ### What has landed of a chunk in its tile (R132, R144) -/

/-- A tile without store errors has met none: its engines and descriptors stand, whatever has landed in its store. -/
structure Issue.Lands (t : Nat) (T : Tile) (i : Issue) : Prop where
  rest : T.Rest (i.s.tile t)
  clean : (i.s.tile t).storeErr = []
  bad : i.bad = none

theorem Issue.Lands.away {t : Nat} {T : Tile} {i j : Issue} (h : i.Lands t T) (g : i.Away t j) : j.Lands t T where
  rest := by rw [g.tile]; exact h.rest
  clean := by rw [g.tile]; exact h.clean
  bad := g.bad.trans h.bad

/-- A state with the same tile, in its place. -/
theorem Issue.Lands.setState {t : Nat} {T : Tile} {i : Issue} (h : i.Lands t T) {u : State} (hu : u.tile t = i.s.tile t) :
    Issue.Lands t T { i with s := u } := h.away ⟨hu, rfl⟩

theorem Issue.Lands.setLanded {t : Nat} {T : Tile} {i : Issue} (h : i.Lands t T) (l : Tab (Option Nat)) :
    Issue.Lands t T { i with landed := l } := h.away ⟨rfl, rfl⟩

theorem Issue.Lands.setAcks {t : Nat} {T : Tile} {i : Issue} (h : i.Lands t T) (l : List Ack) :
    Issue.Lands t T { i with acks := l } := h.away ⟨rfl, rfl⟩

/-- Scattered bytes land in the store. -/
theorem Issue.Lands.putScatter {t : Nat} {T : Tile} {i : Issue} (h : i.Lands t T) (w : Scatter) (l : Tab (Option Nat)) :
    Issue.Lands t T { i with s := (Machine.putScatter i.s t w).1, bad := i.bad.or (Machine.putScatter i.s t w).2, landed := l } := by
  obtain ⟨hnone, hrest, -⟩ := putScatter_clean w h.clean
  exact ⟨h.rest.trans hrest, hrest.storeErr h.clean, by rw [h.bad, hnone]; rfl⟩

theorem Issue.Lands.landParts {t : Nat} {T : Tile} {i : Issue} (h : i.Lands t T) (q chunk : Nat) (store : Bool) (lo : Nat) (bad : List Nat)
    (parts : List (Nat × Nat × Nat × Nat)) (data : List Byte) : (Machine.landParts i t q chunk store lo bad parts data).Lands t T := by
  unfold Machine.landParts
  dsimp only
  split
  · exact h.putScatter _ _
  · exact (h.setLanded _).away (Issue.putMem_away ..)

theorem Issue.Lands.landAnswer {t : Nat} {T : Tile} {i : Issue} (h : i.Lands t T) (q chunk : Nat) (store : Bool) (lo : Nat)
    (parts : List (Nat × Nat × Nat × Nat)) (poison : Bool) (data : List Byte) :
    (Machine.landAnswer i t q chunk store lo parts poison data).1.Lands t T := by
  unfold Machine.landAnswer
  dsimp only
  split
  · exact (h.setState ((poisonOf_le ..).tile rfl t)).landParts ..
  · exact h.landParts ..

theorem Issue.Lands.readFar {t : Nat} {T : Tile} {i : Issue} (h : i.Lands t T) (q chunk : Nat) (store : Bool) (l : Lease) (lo hi : Nat)
    (ps : List (Nat × Nat × Nat × Nat)) : (i.readFar t q chunk store l lo hi ps).Lands t T := by
  unfold Issue.readFar
  dsimp only
  generalize hr : sendRemote _ _ _ _ _ _ _ = r
  have htile : r.1.tile t = i.s.tile t := by
    rw [← hr]
    exact (sendRemote_le ..).tile rfl t
  split
  · exact ((h.setState htile).landAnswer ..).setAcks _
  · exact h.away (Issue.sent_away htile ..)

theorem Issue.Lands.readAllFar {t : Nat} {T : Tile} {i : Issue} (h : i.Lands t T) (q chunk : Nat) (store : Bool)
    (ps : List (Nat × Nat × Nat × Nat)) : (i.readAllFar t q chunk store ps).Lands t T :=
  List.foldlRecOn _ _ h fun _ hi _ _ => hi.readFar ..

/-- The elements of a COPY or FILL land. -/
theorem Issue.Lands.moveChunk {t : Nat} {T : Tile} {i : Issue} (h : i.Lands t T) (q chunk : Nat) (img : Tab Byte) (e : QEntry)
    (elems : List Nat) : (Machine.moveChunk i t q chunk img e elems).Lands t T := by
  have hgathered := h.away (Move.foldl_away (Move.elem_away t t q img e) elems { i := i })
  exact ((hgathered.putScatter _ _).away (Issue.putMem_away ..)).readAllFar ..

end Sys2Proof.Machine
end

section
/-!
PROOFS. The chunks that the tile mover issues (R131–R138, R36), and with them the steps of the engines.
-/

namespace Sys2Proof.Machine
open Sys2Proof

/-! ### The bytes of a COPY or FILL within a tile store (R132) -/

/-- Where an element goes. -/
def QEntry.place (e : QEntry) (j : Nat) : Nat := (e.trec 1).at (parseMover e.desc).es (e.stream.index j)

/-- The bytes of an element: the fill value, or what stands at its source. -/
def QEntry.bytesOf (e : QEntry) (img : Tab Byte) (j : Nat) : List Byte :=
  if (parseMover e.desc).op = 1 then leBytes (parseMover e.desc).es (parseMover e.desc).fillval
  else Memory.bytes img ((e.trec 0).at (parseMover e.desc).es (e.stream.index j)) (parseMover e.desc).es

/-- A COPY within the tile store, or a FILL of it. -/
def QEntry.near (e : QEntry) : Prop :=
  (e.trec 1).virt = false ∧ ((parseMover e.desc).op = 1 ∨ (parseMover e.desc).op = 0 ∧ (e.trec 0).virt = false)

theorem Move.put_near {m : Move} {dst : TRec} (h : dst.virt = false) (pos a : Nat) (bytes : List Byte) :
    m.put false dst pos a bytes = { m with store := m.store.put a bytes } := by
  simp [Move.put, h]

theorem Move.elem_near {e : QEntry} (h : e.near) (t q : Nat) (img : Tab Byte) (m : Move) (j : Nat) :
    Move.elem t q img e m j = { m with store := m.store.put (e.place j) (e.bytesOf img j) } := by
  obtain ⟨hdst, hfill | ⟨hcopy, hsrc⟩⟩ := h
  · have hfar : ((e.trec 0).virt && (parseMover e.desc).op == 0) = false := by rw [hfill]; exact Bool.and_false _
    unfold Move.elem
    dsimp only
    rw [if_pos hfill, hfar, Move.put_near hdst, QEntry.bytesOf, if_pos hfill, QEntry.place]
  · have hnot : (parseMover e.desc).op ≠ 1 := by omega
    unfold Move.elem
    dsimp only
    rw [if_neg hnot, hsrc, Bool.not_false, if_pos rfl, Bool.false_and, Move.put_near hdst, QEntry.bytesOf, if_neg hnot, QEntry.place]

theorem Move.foldl_elem_near {e : QEntry} (h : e.near) (t q : Nat) (img : Tab Byte) (elems : List Nat) (m : Move) :
    elems.foldl (Move.elem t q img e) m = { m with store := elems.foldl (fun w j => w.put (e.place j) (e.bytesOf img j)) m.store } := by
  induction elems generalizing m with
  | nil => rfl
  | cons j elems ih => rw [List.foldl_cons, ih, Move.elem_near h, List.foldl_cons]

theorem Scatter.Lays.foldl_put {w : Scatter} {t m : Tab Byte} (h : w.Lays t m) (place : Nat → Nat) (bytes : Nat → List Byte) (l : List Nat) :
    Scatter.Lays (l.foldl (fun w j => w.put (place j) (bytes j)) w) t (l.foldl (fun m j => Memory.put m (place j) (bytes j)) m) := by
  induction l generalizing w m with
  | nil => exact h
  | cons j l ih => exact ih (h.put ..)

/-- The elements of a COPY or FILL of a tile store without errors are written in iteration order. -/
theorem moveChunk_near {i : Issue} {t : Nat} {e : QEntry} (h : e.near) (herr : (i.s.tile t).storeErr = []) (q chunk : Nat) (img : Tab Byte)
    (elems : List Nat) (a : Nat) : Memory.byte ((moveChunk i t q chunk img e elems).s.tile t).store a =
      Memory.byte (elems.foldl (fun m j => Memory.put m (e.place j) (e.bytesOf img j)) (i.s.tile t).store) a := by
  obtain ⟨-, -, hbytes⟩ := putScatter_clean (elems.foldl (fun w j => Scatter.put w (e.place j) (e.bytesOf img j)) []) herr
  unfold moveChunk
  rw [Move.foldl_elem_near h]
  exact hbytes _ (.foldl_put (.nil _) ..) a

/-! ### A chunk issued (R136, R137) -/

theorem moverCycles_counted (s : State) (t q : Nat) : CountedOn t s (moverCycles s t q) :=
  ((eventCycles_counted ..).trans (eventCycles_counted ..)).trans ((takeFree_counted ..).trans (countTile_counted ..))

theorem Tile.setMoverLast_queue (T : Tile) (n q : Nat) : ({ T with moverLast := n } : Tile).queue q = T.queue q :=
  match q with
  | 0 | 1 | 2 | _ + 3 => rfl

theorem moverTurn_spec {s : State} {t q : Nat} {e : QEntry} (h : moverTurn s t q = some e) :
    (s.queue t q).active 1 = some e ∧ e.err = none := by
  have hready : moverReady s t q = some e := by
    unfold moverTurn at h
    split at h
    · cases h
    · split at h
      · exact h
      · cases h
  have hmover : (s.queue t q).mover = some e := by
    unfold moverReady at hready
    dsimp only at hready
    split at hready
    · cases hready
    case h_2 x hx =>
      rw [hx]
      split at hready
      · cases hready
      split at hready
      · split at hready
        · exact hready
        · cases hready
      · split at hready
        · cases hready
        · exact hready
  unfold Queue.mover at hmover
  split at hmover
  case h_1 x hx =>
    split at hmover
    · cases hmover
    case isFalse hok =>
      cases hmover
      exact ⟨hx, by simpa using hok⟩
  case h_2 => cases hmover

/-- The mover in its turn, whatever bits flip on the way. -/
theorem moverChunk_issues {s : State} {t q op : Nat} {e : QEntry} (h : moverTurn s t q = some e) (hop : (parseMover e.desc).op = op)
    (fl : Flips) : withFlips fl (moverChunk op t q) s = (issueChunk (s.flipped fl) t q e).flipped [] := by
  have hturn : moverTurn (s.flipped fl) t q = some e := (moverTurn_flipped ..).trans h
  have hact : moverChunk op t q (s.flipped fl) = issueChunk (s.flipped fl) t q e := by
    unfold moverChunk
    rw [hturn]
    exact if_pos hop
  rw [← hact]
  rfl

/-- The requests of a chunk in a tile without store errors: what they gave, and the elements of an ATOMIC that wait. -/
def chunkWork (s : State) (t q : Nat) (e : QEntry) : Issue × List Nat :=
  let i : Issue := { s := s, ext := (s.queue t q).granted (chunkPlan s t q e).2, landed := e.landed }
  if (parseMover e.desc).op = 2 then (chunkPlan s t q e).1.foldl (atomicElem t q e.issued (s.tile t).store e) (i, [])
  else (moveChunk i t q e.issued (s.tile t).store e (chunkPlan s t q e).1, [])

/-- The element at which a descriptor stands after a chunk. -/
def QEntry.after (e : QEntry) (elems : List Nat) : Nat := ((e.ahead.1.drop elems.length).head?).getD e.ahead.2.1

/-- A descriptor with its next chunk in flight. -/
def QEntry.issueNext (e : QEntry) (elems : List Nat) (ch : Chunk) (landed : Tab (Option Nat)) (y : QEntry) : QEntry :=
  { y with chunks := y.chunks ++ [ch], issued := y.issued + 1, elem := e.after elems, landed := landed,
           flags := y.flags ||| flagIf e.ahead.2.2 fSkipped }

/-- A descriptor whose next chunk is in flight, as the statement of O23 has it. -/
def ChunkIssued (e : QEntry) (elems : List Nat) (y : QEntry) : Prop :=
  y.phase = .active ∧ y.issued = e.issued + 1 ∧ y.elem = e.after elems ∧ y.chunks.map (·.idx) = e.chunks.map (·.idx) ++ [e.issued] ∧ y.err = none

/-- A chunk issued without a store error: its work, its entry, and then only accounting. -/
theorem issueChunk_steps {s : State} {t q : Nat} {e : QEntry} (herr : (s.tile t).storeErr = []) (hbad : (chunkWork s t q e).1.bad = none) :
    ∃ ch u, ch.idx = e.issued ∧
      Quiet t (modEntry (chunkWork s t q e).1.s t q e.seq (e.issueNext (chunkPlan s t q e).1 ch (chunkWork s t q e).1.landed)) u ∧
      Quiet t (u.modTile t fun T => { T with moverLast := q }) (issueChunk s t q e) := by
  have hfresh : ∀ u : State, Quiet t u (u.modQueue t q fun Q => { Q with fresh := false }) := fun u => by
    rw [Quiet, State.modQueue_tile]
    exact Tile.quiet_setQueue rfl rfl rfl rfl
  have haccount : ∀ (u : State) (va : Nat), Quiet t u (traceDesc (tileCycles (moverCycles (u.modQueue t q fun Q => { Q with fresh := false }) t q) t)
      t q e 3 va (e.issued % 65536) (e.seq.setWidth 64)) := fun u va =>
    (((hfresh u).trans (moverCycles_counted ..).quiet).trans (tileCycles_counted ..).quiet).trans (quiet_of_tile_eq (traceDesc_tile ..))
  unfold issueChunk
  unfold chunkWork at hbad ⊢
  dsimp only at hbad ⊢
  rw [readRanges_clean herr]
  simp only [Option.isSome_none, Bool.false_eq_true, if_false]
  generalize ite ((parseMover e.desc).op = 2) _ _ = x at hbad ⊢
  simp only [hbad]
  let ch : Chunk := { idx := e.issued, acks := x.1.acks, remote := x.1.remote, later := x.2,
                      extents := (s.queue t q).granted (chunkPlan s t q e).2, bytes := (chunkPlan s t q e).1.length * (parseMover e.desc).es }
  refine ⟨ch, tileEvent (modEntry x.1.s t q e.seq (e.issueNext (chunkPlan s t q e).1 ch x.1.landed)) t 0x0A (some q)
    (chunkRequests e (chunkPlan s t q e).1), rfl, (tileEvent_counted ..).quiet, ?_⟩
  unfold QEntry.issueNext QEntry.after
  cases (e.ahead.1.drop (chunkPlan s t q e).1.length).head? <;> exact haccount ..

/-- The descriptor whose chunk is issued is as it says, and the mover has served its queue. -/
theorem issueChunk_issued {s : State} {t q : Nat} {e : QEntry} (he : (s.queue t q).active 1 = some e) (hnone : e.err = none)
    (herr : (s.tile t).storeErr = []) (hwork : (chunkWork s t q e).1.Lands t (s.tile t)) :
    HasEntry (issueChunk s t q e) t q e.seq (ChunkIssued e (chunkPlan s t q e).1) ∧ ((issueChunk s t q e).tile t).moverLast = q ∧
      ((issueChunk s t q e).tile t).store = ((chunkWork s t q e).1.s.tile t).store := by
  obtain ⟨ch, u, hidx, hu, hlast⟩ := issueChunk_steps herr hwork.bad
  have hentry : HasEntry u t q e.seq (ChunkIssued e (chunkPlan s t q e).1) := by
    refine hasEntry_quiet hu (hasEntry_modEntry (hasEntry_rest hwork.rest (active_hasEntry he)) fun y hseq hy => ?_)
    obtain ⟨rfl, hactive⟩ := hy
    refine ⟨hseq, hactive, rfl, rfl, ?_, hnone⟩
    rw [← hidx]
    exact List.map_append
  have hmod : (u.modTile t fun T => { T with moverLast := q }).tile t = { u.tile t with moverLast := q } := State.modTile_tile ..
  refine ⟨?_, ?_, ?_⟩
  · refine hasEntry_quiet hlast (hentry.of_entries ?_)
    rw [State.modTile_queue, Tile.setMoverLast_queue, State.queue]
  · rw [hlast.moverLast, hmod]
  · rw [hlast.store, hmod]
    exact hu.store.trans (modEntry_calm ..).store

theorem chunkWork_atomic_away {s : State} {t q : Nat} {e : QEntry} (hop : (parseMover e.desc).op = 2) :
    ((chunkWork s t q e).1.s.tile t) = s.tile t ∧ (chunkWork s t q e).1.bad = none := by
  have haway : ∀ (l : List Nat) (x : Issue × List Nat), x.1.Away t (l.foldl (atomicElem t q e.issued (s.tile t).store e) x).1 := by
    intro l
    induction l with
    | nil => exact fun x => .refl ..
    | cons j l ih => exact fun x => (atomicElem_away ..).trans (ih _)
  unfold chunkWork
  dsimp only
  rw [if_pos hop]
  exact ⟨(haway ..).tile, (haway ..).bad⟩

/-- The work of a chunk lands in a tile without store errors. -/
theorem chunkWork_lands {s : State} {t q : Nat} {e : QEntry} (herr : (s.tile t).storeErr = []) : (chunkWork s t q e).1.Lands t (s.tile t) := by
  by_cases hop : (parseMover e.desc).op = 2
  · obtain ⟨htile, hbad⟩ := chunkWork_atomic_away (s := s) (t := t) (q := q) hop
    refine ⟨?_, ?_, hbad⟩
    · rw [htile]
      exact .refl _
    · rw [htile]
      exact herr
  · have hstart : ∀ ext landed, Issue.Lands t (s.tile t) { s := s, ext := ext, landed := landed } := fun _ _ => ⟨.refl _, herr, rfl⟩
    unfold chunkWork
    dsimp only
    rw [if_neg hop]
    exact (hstart ..).moveChunk ..

theorem chunkWork_near {s : State} {t q : Nat} {e : QEntry} (h : e.near) (herr : (s.tile t).storeErr = []) (a : Nat) :
    Memory.byte ((chunkWork s t q e).1.s.tile t).store a =
      Memory.byte ((chunkPlan s t q e).1.foldl (fun m j => Memory.put m (e.place j) (e.bytesOf (s.tile t).store j)) (s.tile t).store) a := by
  have hop : (parseMover e.desc).op ≠ 2 := by
    obtain ⟨-, hop | ⟨hop, -⟩⟩ := h <;> omega
  unfold chunkWork
  dsimp only
  rw [if_neg hop]
  exact moveChunk_near h herr ..

/-- The mover issues the next chunk of the descriptor whose turn it is. -/
theorem moverTurn_issues {s : State} {t q op : Nat} {e : QEntry} (herr : (s.tile t).storeErr = []) (h : moverTurn s t q = some e)
    (hop : (parseMover e.desc).op = op) (fl : Flips) :
    HasEntry (withFlips fl (moverChunk op t q) s) t q e.seq (ChunkIssued e (chunkPlan s t q e).1) ∧
      ((withFlips fl (moverChunk op t q) s).tile t).moverLast = q ∧
      ((withFlips fl (moverChunk op t q) s).tile t).store = ((chunkWork (s.flipped fl) t q e).1.s.tile t).store := by
  obtain ⟨he, hnone⟩ := moverTurn_spec h
  have hissued := issueChunk_issued (s := s.flipped fl) he hnone herr (chunkWork_lands herr)
  rw [chunkPlan_flipped] at hissued
  rw [moverChunk_issues h hop]
  generalize issueChunk (s.flipped fl) t q e = u at hissued ⊢
  exact hissued

/-- The clauses of O23 on the chunks that the tile mover issues. -/
theorem moverChunks (t q a : Nat) (e : QEntry) (s : State) (ht : t < 1296) (hq : q < 4) (herr : (s.tile t).storeErr = [])
    (hturn : moverTurn s t q = some e) :
    let issued := fun (u : State) => HasEntry u t q e.seq (ChunkIssued e (chunkPlan s t q e).1) ∧ (u.tile t).moverLast = q
    let moved := fun (bytes : Nat → List Byte) (u : State) => Memory.byte (u.tile t).store a =
      Memory.byte ((chunkPlan s t q e).1.foldl (fun m j => Memory.put m (e.place j) (bytes j)) (s.tile t).store) a
    let c := parseMover e.desc
    (c.op = 0 → Completes (.moverCopyChunk t q []) s issued) ∧
    (c.op = 0 → (e.trec 0).virt = false → (e.trec 1).virt = false → Completes (.moverCopyChunk t q []) s
      (moved fun j => Memory.bytes (s.tile t).store ((e.trec 0).at c.es (e.stream.index j)) c.es)) ∧
    (c.op = 1 → Completes (.moverFillChunk t q []) s issued) ∧
    (c.op = 1 → (e.trec 1).virt = false → Completes (.moverFillChunk t q []) s (moved fun _ => leBytes c.es c.fillval)) ∧
    (c.op = 2 → Completes (.moverAtomicChunk t q []) s fun u => issued u ∧ (u.tile t).store = (s.tile t).store) := by
  have hnear : e.near → ∀ op, (parseMover e.desc).op = op → Memory.byte ((withFlips [] (moverChunk op t q) s).tile t).store a =
      Memory.byte ((chunkPlan s t q e).1.foldl (fun m j => Memory.put m (e.place j) (e.bytesOf (s.tile t).store j)) (s.tile t).store) a := by
    intro h op hop
    obtain ⟨-, -, hstore⟩ := moverTurn_issues herr hturn hop []
    rw [hstore, chunkWork_near (s := s.flipped []) h herr, chunkPlan_flipped]
    rfl
  refine ⟨fun hop => ?_, fun hop hsrc hdst => ?_, fun hop => ?_, fun hop hdst => ?_, fun hop => ?_⟩
  · obtain ⟨hentry, hlast, -⟩ := moverTurn_issues herr hturn hop []
    exact .of_eq (require_of (okTQ_of ht hq)) ⟨hentry, hlast⟩
  · refine .of_eq (require_of (okTQ_of ht hq)) ((hnear ⟨hdst, Or.inr ⟨hop, hsrc⟩⟩ 0 hop).trans ?_)
    simp only [QEntry.bytesOf, hop, Nat.zero_ne_one, if_false]
  · obtain ⟨hentry, hlast, -⟩ := moverTurn_issues herr hturn hop []
    exact .of_eq (require_of (okTQ_of ht hq)) ⟨hentry, hlast⟩
  · refine .of_eq (require_of (okTQ_of ht hq)) ((hnear ⟨hdst, Or.inl hop⟩ 1 hop).trans ?_)
    simp only [QEntry.bytesOf, hop, if_true]
  · obtain ⟨hentry, hlast, hstore⟩ := moverTurn_issues herr hturn hop []
    obtain ⟨htile, -⟩ := chunkWork_atomic_away (s := s.flipped []) (t := t) (q := q) hop
    refine .of_eq (require_of (okTQ_of ht hq)) ⟨⟨hentry, hlast⟩, ?_⟩
    rw [htile] at hstore
    exact hstore

/-- Settles O23, one lemma for each engine: the FENCE and the leases, the Lathe's blocks, the mover's chunks, and their acknowledgements and
ends. -/
theorem engineSteps : Obligations.EngineSteps := by
  unfold Obligations.EngineSteps
  refine ⟨fencesAndLeases, ?lathe, moverChunks, ?ends⟩
  case lathe =>
    intro t q e s ht _ hrun herr hq he
    dsimp only
    intro hskip hsparse
    obtain ⟨hmore, hlast⟩ := latheBlocks t q e s ht hrun herr hq he hskip hsparse
    exact ⟨hmore, hlast, fun hacc hmx _ ha hb hcin hout hk hta htb hshift => latheElem_int8 hacc hmx hsparse ha hb hcin hout hk hta htb hshift⟩
  case ends =>
    exact fun t q chunk e c s ht hq he herr hc => ⟨acknowledgements t q chunk e c s ht hq he herr hc,
      chunksDone t q chunk e c s ht hq he herr hc⟩

end Sys2Proof.Machine
end

section
/-!
PROOFS. The chunk of a vector chain pass whose format of X is reserved (R62, R103). A descriptor with such a format is refused when it
starts (R125), but the statement on chunks is of every state that holds a pass. The elements of a reserved format have no bits, so the bytes
of X give such a pass no end of a chunk: its chunks end at position 0, wherever the pass stands.
-/

namespace Sys2Proof.Machine
open Sys2Proof

/-! ### The plan of a chunk (R126, R136) -/

/-- X of a pass without an operand in memory lies in the tile store. -/
theorem ChainRun.x_local {run : ChainRun} (h : run.inMemory = false) : run.recs.x.virt = false := by
  rw [ChainRun.inMemory, bne_eq_false_iff_eq] at h
  have hmem := (List.filter_eq_nil_iff.mp h) run.recs.x (List.mem_cons_self ..)
  exact Bool.eq_false_iff.mpr hmem

theorem scanDue_local {run : ChainRun} (h : run.inMemory = false) (c : ChainCfg) : scanDue c run = false := by
  rw [scanDue, ChainRun.x_local h, Bool.and_false, Bool.false_and, Bool.false_and, Bool.false_and]

/-- The chunk of a pass without an operand in memory ends by the bytes of X alone, and needs no lease. -/
theorem chainPlan_local {run : ChainRun} (h : run.inMemory = false) (s : State) (t : Nat) (c : ChainCfg) :
    chainPlan s t c run = (chunkEnd c run, {}) := by
  simp [chainPlan, scanDue_local h, h]

/-- Elements without bits: no position lies beyond them in the bytes of X. -/
theorem chunkEnd_reserved {c : ChainCfg} {run : ChainRun} (hmem : run.inMemory = false) (hbits : chainBits c.xfmt = 0) : chunkEnd c run = 0 := by
  simp [chunkEnd, ChainRun.x_local hmem, hbits, ceilDiv]

/-! ### A chunk that ends where the pass stands -/

theorem Work.elems_of_le {w : Work} {n : Nat} (h : n ≤ w.run.j) (c : ChainCfg) : w.elems c n = w := by
  rw [Work.elems, Nat.sub_eq_zero_of_le h]
  rfl

/-- Work that writes nothing and meets no error leaves the pass as it is. -/
theorem landWork_of_nothing {w : Work} (hdirty : w.dirty = []) (hmem : w.mem = []) (hstop : w.stop = none) : landWork w = (w.s, w.run, 0) := by
  unfold landWork
  rw [hdirty, hmem, hstop]
  simp [putScatter, runsOf, Issue.putMem]

theorem chainWork_of_le {c : ChainCfg} {run : ChainRun} {stop : Nat} (hscan : scanDue c run = false) (h : stop ≤ run.j) (s : State) (t : Nat)
    (ext : List Nat) : chainWork s t c run stop ext = (s, run, 0) := by
  unfold chainWork
  dsimp only
  rw [hscan, if_neg Bool.false_ne_true, Work.elems_of_le h]
  exact landWork_of_nothing rfl rfl rfl

/-! ### The pass of a tile after an operation -/

theorem CountedOn.chain {t : Nat} {s u : State} (h : CountedOn t s u) : (u.tile t).chain = (s.tile t).chain := by
  obtain ⟨-, -, l, c, htile⟩ := h
  rw [htile]

theorem chainCycles_counted (s : State) (t q : Nat) : CountedOn t s (chainCycles s t q) := by
  have hcount : ∀ (u : State) (i : Nat), CountedOn t u (countCycles u t i) := fun u i => (takeFree_counted t u).trans (countTile_counted ..)
  exact (((hcount s 3).trans (eventCycles_counted ..)).trans (eventCycles_counted ..)).trans ((eventCycles_counted ..).trans (hcount _ 5))

theorem Tile.setQueue_chain (T : Tile) (q : Nat) (v : Queue) : (T.setQueue q v).chain = T.chain := by
  obtain ⟨a, b, c, d, heq⟩ := Tile.setQueue_eq T q v
  rw [heq]

theorem keepChunk_chain (s : State) (t : Nat) (run : ChainRun) (ch : Option Chunk) : ((keepChunk s t run ch).tile t).chain = (s.tile t).chain := by
  unfold keepChunk
  split
  · rfl
  · rw [modEntry, State.modQueue_tile, Tile.setQueue_chain]

theorem releaseUnneeded_chain (s : State) (t q : Nat) : ((releaseUnneeded s t q).tile t).chain = (s.tile t).chain := by
  rw [releaseUnneeded, releaseLeases_tile, Tile.setQueue_chain]

theorem modChain_chain (s : State) (t : Nat) (f : ChainRun → ChainRun) : ((modChain s t f).tile t).chain = (s.tile t).chain.map f := by
  rw [modChain, State.modTile_tile]

/-- A chunk that ends where the pass stands is worked through without an element. -/
theorem chunkThrough_chain_of_le {s : State} {t stop : Nat} {c : ChainCfg} {run : ChainRun} (hchain : (s.tile t).chain = some run)
    (hscan : scanDue c run = false) (h : stop ≤ run.j) (ch : Chunk) :
    ((chunkThrough s t c run stop ch).tile t).chain = some { run with asked := none } := by
  have hcycles := ((chainCycles_counted s t run.q).trans (tileCycles_counted ..)).chain
  unfold chunkThrough
  rw [chainWork_of_le (run := { run with asked := none }) hscan h, releaseUnneeded_chain, keepChunk_chain, modChain_chain, hcycles, hchain]
  rfl

/-! ### A chunk of a pass of a reserved format -/

/-- A pass in the tile store that may begin its next chunk. -/
structure ChunkDue (s : State) (t : Nat) (run : ChainRun) (e : QEntry) : Prop where
  st : (s.tile t).st = .run
  chain : (s.tile t).chain = some run
  entry : chainEntry s t run = some e
  chunks : e.chunks = []
  endStatus : run.endStatus = none
  more : run.j < run.recs.x.count
  fault : (s.queue t run.q).fault = none
  near : run.inMemory = false

theorem Tile.setChainLeft_queue (T : Tile) (b : Bool) (q : Nat) : ({ T with chainLeft := b } : Tile).queue q = T.queue q :=
  match q with
  | 0 | 1 | 2 | _ + 3 => rfl

/-- A chunk that begins without an operand in memory is worked through. -/
theorem beginChunk_local {s : State} {t : Nat} {run : ChainRun} {e : QEntry} (he : chainEntry s t run = some e) (hmem : run.inMemory = false)
    (plan : Nat × Needs) : ∃ ch, beginChunk s t run.cfg run plan = chunkThrough s t run.cfg run plan.1 ch := by
  unfold beginChunk
  split
  case h_1 hnone => rw [he] at hnone; cases hnone
  case h_2 => exact ⟨_, if_pos (by rw [hmem]; rfl)⟩

/-- The next chunk of a pass in the tile store is worked through at once, here one that ends where the pass stands or before. -/
theorem chainChunkEnd_begins {s : State} {t : Nat} {run : ChainRun} {e : QEntry} (h : ChunkDue s t run e) (hend : chunkEnd run.cfg run ≤ run.j) :
    ∃ ch, chainChunkEnd t s = chunkThrough (s.modTile t fun T => { T with chainLeft := false }) t run.cfg run (chunkEnd run.cfg run) ch := by
  have hmay : (s.tile t).chainMay = true := by rw [Tile.chainMay, h.st]; rfl
  have hidle : ∀ ext, chainHcIdle s t run.cfg run (chunkEnd run.cfg run) ext = true := fun ext => by
    simp [chainHcIdle, scanDue_local h.near, Nat.sub_eq_zero_of_le hend, rangeFrom]
  have hmeets : (s.queue t run.q).meets {} = true := rfl
  have hentry : chainEntry (s.modTile t fun T => { T with chainLeft := false }) t run = some e := by
    rw [chainEntry, State.modTile_queue, Tile.setChainLeft_queue]
    exact h.entry
  obtain ⟨ch, hbegin⟩ := beginChunk_local hentry h.near (chunkEnd run.cfg run, {})
  refine ⟨ch, Eq.trans ?_ hbegin⟩
  unfold chainChunkEnd
  dsimp only
  rw [h.chain]
  dsimp only
  rw [h.entry]
  dsimp only
  rw [h.chunks]
  dsimp only
  rw [if_neg (by simp [hmay, h.endStatus, h.fault, h.more]), chainPlan_local h.near]
  dsimp only
  rw [if_neg (by rw [hmeets, hidle]; simp)]

/-- The chunk of a pass of a reserved format takes the pass nowhere. -/
theorem doChainChunkDone_reserved {s : State} {t : Nat} {run : ChainRun} {e : QEntry} (h : ChunkDue s t run e)
    (hbits : chainBits run.cfg.xfmt = 0) : ((doChainChunkDone t [] s).tile t).chain = some { run with asked := none } := by
  have hend := chunkEnd_reserved h.near hbits
  have hflipped : ChunkDue (s.flipped []) t run e := ⟨h.st, h.chain, h.entry, h.chunks, h.endStatus, h.more, h.fault, h.near⟩
  obtain ⟨ch, hact⟩ := chainChunkEnd_begins hflipped (by omega)
  change ((chainChunkEnd t (s.flipped [])).tile t).chain = _
  rw [hact]
  refine chunkThrough_chain_of_le ?_ (scanDue_local h.near _) (by omega) ch
  rw [State.modTile_tile]
  exact h.chain

/-! ### The statement -/

/-- CHAIN_CHUNK_DONE answers the state that its effect leaves. -/
theorem chainChunkDone_next {t : Nat} {fl : Flips} {s u : State} (h : exec (.chainChunkDone t fl) s = .next u) : u = doChainChunkDone t fl s :=
  (require_next (s := doChainChunkDone t fl s) h).2

/-- A pass over two elements in tile store in the reserved format 0 (R62), of which one element is through. -/
def reservedPass : ChainRun := { q := 0, blk := [], recs := { x := { ext := [2, 1, 1, 1, 1, 1] } }, j := 1 }

/-- The descriptor of that pass. -/
def reservedEntry : QEntry := { doff := 0, seq := 1, ord := 0, phase := .active, engine := 3, pos := 1 }

/-- Tile 0 in RUN, with that pass in its chain and the descriptor in its queue 0. -/
def reservedState : State := State.reset.setTile 0 { st := .run, chain := some reservedPass, q0 := { entries := [reservedEntry] } }

theorem reservedState_tile : reservedState.tile 0 = { st := .run, chain := some reservedPass, q0 := { entries := [reservedEntry] } } :=
  State.setTile_tile ..

theorem reservedState_chunkDue : ChunkDue reservedState 0 reservedPass reservedEntry where
  st := by rw [reservedState_tile]
  chain := by rw [reservedState_tile]
  entry := by rw [chainEntry, State.queue, reservedState_tile]; rfl
  chunks := rfl
  endStatus := rfl
  more := by decide
  fault := by rw [State.queue, reservedState_tile]; rfl
  near := rfl

/-- Refutes O25: the chunk of a pass in tile store whose format of X is reserved ends at position 0, and the pass, which stands at
position 1, neither stands at that end nor has stopped. The checks at the start of a descriptor admit no such format (R103, R125); the
statement does not ask that they hold. -/
theorem not_chainPasses : ¬ Obligations.ChainPasses := by
  unfold Obligations.ChainPasses
  rintro ⟨hchunks, -⟩
  have hdue := reservedState_chunkDue
  have hbits : chainBits reservedPass.cfg.xfmt = 0 := by decide
  have hend : (chainPlan reservedState 0 reservedPass.cfg reservedPass).1 = 0 := by
    rw [chainPlan_local hdue.near]
    exact chunkEnd_reserved hdue.near hbits
  obtain ⟨-, hnext⟩ := hchunks 0 reservedPass reservedEntry reservedState (by decide) hdue.st hdue.chain hdue.entry
    (by rw [reservedState_tile])
  obtain ⟨hlocal, -⟩ := hnext hdue.chunks hdue.endStatus hdue.more hdue.fault rfl
  obtain ⟨u, hexec, ⟨hthrough, -⟩, -⟩ := hlocal hdue.near
  rw [chainChunkDone_next hexec, doChainChunkDone_reserved hdue hbits, hend] at hthrough
  revert hthrough
  decide

end Sys2Proof.Machine
end

section
/-!
PROOFS. What the delivery of a message tests and changes of a tile (R147, R150, R151), and the outcome of a delivery at its sender (R155).
-/

namespace Sys2Proof.Machine
open Sys2Proof

/-! ### Bytes as they arrive (R4, R262) -/

/-- Bytes of which none flips arrive as they were sent. -/
theorem arrive_unflipped (a : Nat) (bs : List Byte) : arrive [] a bs = bs := by
  have hkept : ∀ b : Byte × Nat, b.1 ^^^ Tab.get 0 ([] : Flips) (a + b.2) = b.1 := fun b => BitVec.xor_zero
  unfold arrive
  simp only [hkept, List.zipIdx_map_fst]

/-- The bytes of a field are those of its number. -/
theorem leBytes_leNat (l : List Byte) : leBytes l.length (leNat l) = l := by
  induction l with
  | nil => rfl
  | cons b l ih =>
    have hlow : BitVec.ofNat 8 (b.toNat + 256 * leNat l) = b := by
      refine BitVec.eq_of_toNat_eq ?_
      rw [BitVec.toNat_ofNat]
      omega
    have hhigh : (b.toNat + 256 * leNat l) / 256 = leNat l := by omega
    rw [leNat, List.length_cons, leBytes, hlow, hhigh, ih]

/-- Outside the compatibility view a tile receives a slot header as it was sent (R270). -/
theorem recvHeader_eq {T : Tile} {h : List Byte} (hcompat : T.compat = false) (hlen : 6 ≤ h.length) : recvHeader T h = h := by
  have hfield : leBytes 2 (fieldAt h 4 2) = (h.drop 4).take 2 := by
    have hl : ((h.drop 4).take 2).length = 2 := by
      rw [List.length_take, List.length_drop]
      omega
    have hbytes := leBytes_leNat ((h.drop 4).take 2)
    rwa [hl] at hbytes
  unfold recvHeader
  dsimp only
  rw [hcompat, if_neg Bool.false_ne_true, hfield, List.append_assoc, show h.drop 6 = (h.drop 4).drop 2 by rw [List.drop_drop],
    List.take_append_drop, List.take_append_drop]

/-! ### What a delivery changes of a tile -/

/-- A tile has the store, the receive channels and the pending sources of another, and is frozen with it. -/
structure Tile.SameInbox (T U : Tile) : Prop where
  store : U.store = T.store
  rx : U.rx = T.rx
  pend : U.pend = T.pend
  frozen : U.frozen = T.frozen

/-- An operation leaves what messages reach in tile `x`. -/
abbrev SameInbox (x : Nat) (s u : State) : Prop := (s.tile x).SameInbox (u.tile x)

theorem Tile.SameInbox.refl (T : Tile) : T.SameInbox T := ⟨rfl, rfl, rfl, rfl⟩

theorem Tile.SameInbox.trans {T U V : Tile} (h : T.SameInbox U) (g : U.SameInbox V) : T.SameInbox V where
  store := g.store.trans h.store
  rx := g.rx.trans h.rx
  pend := g.pend.trans h.pend
  frozen := g.frozen.trans h.frozen

/-- A receive channel of a tile whose channels are those of another. -/
theorem Tile.SameInbox.chan {T U : Tile} (h : T.SameInbox U) (n : Nat) : U.chan n = T.chan n := by
  rw [Tile.chan, Tile.chan, h.rx]

theorem sameInbox_of_tile_eq {x : Nat} {s u : State} (h : u.tile x = s.tile x) : SameInbox x s u := by
  rw [SameInbox, h]
  exact .refl _

theorem CountedOn.sameInbox {t : Nat} {s u : State} (h : CountedOn t s u) : SameInbox t s u := by
  obtain ⟨-, -, l, c, htile⟩ := h
  rw [SameInbox, htile]
  exact ⟨rfl, rfl, rfl, rfl⟩

theorem Tile.sameInbox_setQueue (T : Tile) (q : Nat) (v : Queue) : T.SameInbox (T.setQueue q v) := by
  obtain ⟨a, b, c, d, heq⟩ := Tile.setQueue_eq T q v
  rw [heq]
  exact ⟨rfl, rfl, rfl, rfl⟩

/-- A descriptor changes nothing that messages reach, in its own tile or another. -/
theorem modEntry_sameInbox (s : State) (t q : Nat) (seq : W32) (f : QEntry → QEntry) (x : Nat) : SameInbox x s (modEntry s t q seq f) := by
  by_cases hx : x = t
  · rw [SameInbox, hx, modEntry, State.modQueue_tile]
    exact Tile.sameInbox_setQueue ..
  · exact sameInbox_of_tile_eq (State.setQueue_tile_ne _ _ _ _ _ hx)

/-- What no write of bytes changes of a tile, no write by an engine changes in a store without errors (R30). -/
theorem enginePut_keeps {α : Type} {g : Tile → α} (hput : ∀ T off bytes, g (T.put off bytes) = g T) {s : State} {t : Nat} (off : Nat)
    (bytes : List Byte) (herr : (s.tile t).storeErr = []) : g ((enginePut s t off bytes).1.tile t) = g (s.tile t) := by
  have hstore : ∀ (u : State) (a : Nat) (l : List Byte), g ((storePut u t a l).tile t) = g (u.tile t) := fun u a l => by
    rw [storePut_tile, hput]
  have hparts : ∀ (at_ : Nat → Nat) (part : Nat → List Byte) (ws : List Nat) (r : State × Option Nat), (r.1.tile t).storeErr = [] →
      g ((ws.foldl (fun (r : State × Option Nat) w =>
        ((narrowPut r.1 t (at_ w) (part w)).1, r.2.or (if (narrowPut r.1 t (at_ w) (part w)).2 then some (8 * w) else none))) r).1.tile t) =
      g (r.1.tile t) := by
    intro at_ part ws
    induction ws with
    | nil => exact fun _ _ => rfl
    | cons w ws ih =>
      intro r hr
      have hword : narrowPut r.1 t (at_ w) (part w) = (storePut r.1 t (at_ w) (part w), false) := narrowPut_clean _ (by rw [hr]; rfl)
      rw [List.foldl_cons, hword, ih _ ((storePut_rest ..).storeErr hr)]
      exact hstore ..
  unfold enginePut
  dsimp only
  split
  · exact (hparts _ _ _ _ ((storePut_rest ..).storeErr herr)).trans (hstore ..)
  · exact hparts _ _ _ _ herr

/-! ### Sources that become pending (R42) -/

theorem raiseSrc_store (s : State) (t n : Nat) : ((raiseSrc s t n).tile t).store = (s.tile t).store := (raiseSrc_quiet s t n).store

theorem raiseSrc_chan (s : State) (t n k : Nat) : ((raiseSrc s t n).tile t).chan k = (s.tile t).chan k := by
  rw [raiseSrc, State.modTile_tile]
  split <;> rfl

/-- A source raised in a tile that is not frozen, which stays so. -/
theorem raiseSrc_pend {s : State} {t n : Nat} (h : (s.tile t).frozen = false) :
    ((raiseSrc s t n).tile t).pend = (s.tile t).pend ||| 1#64 <<< n ∧ ((raiseSrc s t n).tile t).frozen = false := by
  rw [raiseSrc, State.modTile_tile, h, if_neg Bool.false_ne_true]
  exact ⟨congrArg ((s.tile t).pend ||| ·) (ofNat_two_pow n), h⟩

/-- SOFT sources raised one after another. -/
theorem forEach_raiseSrc_pend (l : List Nat) {s : State} {t : Nat} (h : (s.tile t).frozen = false) {k : Nat} (hk : k < 64) :
    ((forEach l (fun i s => raiseSrc s t (32 + i)) s).tile t).pend.getLsbD k =
      ((s.tile t).pend.getLsbD k || decide (∃ i ∈ l, k = 32 + i)) := by
  induction l generalizing s with
  | nil => simp
  | cons i l ih =>
    obtain ⟨hpend, hfrozen⟩ := raiseSrc_pend (n := 32 + i) h
    have hbit : (1#64 <<< (32 + i)).getLsbD k = decide (k = 32 + i) := by
      rw [← BitVec.twoPow_eq, BitVec.getLsbD_twoPow, ← Bool.decide_and]
      exact decide_eq_decide.mpr ⟨fun h => h.2.symm, fun h => ⟨by omega, h.symm⟩⟩
    rw [forEach_cons, ih hfrozen, hpend, BitVec.getLsbD_or, hbit, Bool.or_assoc, ← Bool.decide_or]
    simp only [List.mem_cons, exists_eq_or_imp]

/-- The bits of a mask raised are pending with those that were. -/
theorem forEach_maskBits_pend {s : State} {t : Nat} (bits : W32) (h : (s.tile t).frozen = false) :
    ((forEach (maskBits 32 bits.toNat) (fun i s => raiseSrc s t (32 + i)) s).tile t).pend =
      (s.tile t).pend ||| (bits.setWidth 64 <<< 32) := by
  refine BitVec.eq_of_getLsbD_eq fun k hk => ?_
  rw [forEach_raiseSrc_pend _ h hk, BitVec.getLsbD_or, BitVec.getLsbD_shiftLeft, BitVec.getLsbD_setWidth]
  have hmem : (∃ i ∈ maskBits 32 bits.toNat, k = 32 + i) ↔ 32 ≤ k ∧ bits.getLsbD (k - 32) = true := by
    simp only [maskBits, List.mem_filter, mem_rangeFrom, BitVec.testBit_toNat]
    constructor
    · rintro ⟨i, ⟨-, hi⟩, rfl⟩
      exact ⟨by omega, by rwa [Nat.add_sub_cancel_left]⟩
    · rintro ⟨hle, hb⟩
      exact ⟨k - 32, ⟨by omega, hb⟩, by omega⟩
  simp only [hmem]
  by_cases hle : 32 ≤ k
  · simp [hle, hk, show k - 32 < 64 by omega, show ¬k < 32 by omega]
  · simp [hle]

/-! ### The outcome of a delivery at its sender (R155) -/

/-- A delivery with its outcome has left flight. -/
theorem settle_msgs (s : State) (f : Flight) (cause : Option Nat) : (settle s f cause).msgs = s.msgs.filter fun x => x.id != f.id := by
  unfold settle
  dsimp only
  split
  · rfl
  · refine ((traceTile_le ..).same .msgs rfl).1.trans ?_
    split
    · exact ((modChunk_le ..).same .msgs rfl).1
    · exact ((modEntry_le ..).same .msgs rfl).1.trans ((modChunk_le ..).same .msgs rfl).1

theorem settle_sameInbox (s : State) (f : Flight) (cause : Option Nat) (x : Nat) : SameInbox x s (settle s f cause) := by
  unfold settle
  dsimp only
  split
  · exact .refl _
  · refine .trans ?_ (sameInbox_of_tile_eq (traceTile_tile ..))
    split
    · exact modEntry_sameInbox ..
    · exact (modEntry_sameInbox ..).trans (modEntry_sameInbox ..)

/-- A final refusal counts with the descriptor, and is the first there was (R155). -/
theorem settle_refused {s : State} {f : Flight} {cause : Nat} {e : QEntry} (he : (s.queue f.srcTile f.srcQueue).active 1 = some e)
    (hnone : e.refusedRec = none) : HasEntry (settle s f (some cause)) f.srcTile f.srcQueue e.seq fun y =>
      y.refusals = e.refusals + 1 ∧ y.refusedRec = some (f.msgIdx, e.firstCause f.msgIdx cause) := by
  have hleft : (({ s with msgs := s.msgs.filter fun x => x.id != f.id } : State).queue f.srcTile f.srcQueue).active 1 = some e := he
  unfold settle
  dsimp only
  rw [hleft]
  dsimp only
  refine hasEntry_quiet (quiet_of_tile_eq (traceTile_tile ..)) ?_
  refine hasEntry_modEntry (P := fun y => y.refusals = e.refusals ∧ y.refusedRec = none ∧ y.firstCauses = e.firstCauses)
    (hasEntry_modEntry (active_hasEntry hleft) fun y hseq hy => ⟨hseq, ?_⟩) fun y hseq hy => ⟨hseq, ?_⟩
  · obtain ⟨rfl, -⟩ := hy
    exact ⟨rfl, hnone, rfl⟩
  · obtain ⟨hcount, hrec, hfirst⟩ := hy
    simp only [hcount, hrec, QEntry.firstCause, hfirst, and_self]

end Sys2Proof.Machine
end

section
/-!
PROOFS. Small messages within the node (R134, R147–R155).
-/

namespace Sys2Proof.Machine
open Sys2Proof

/-! ### The message of a route record (R134, R147, R148) -/

/-- What the sending of a message of queue `q` of tile `t` reads besides the tile store, and what it adds to, stands as it was. -/
structure Sending (t q : Nat) (s u : State) : Prop where
  entries : (u.queue t q).entries = (s.queue t q).entries
  compat : (u.tile t).compat = (s.tile t).compat
  node : u.node = s.node
  msgs : u.msgs = s.msgs
  msgId : u.msgId = s.msgId

theorem Sending.trans {t q : Nat} {s u v : State} (h : Sending t q s u) (g : Sending t q u v) : Sending t q s v where
  entries := g.entries.trans h.entries
  compat := g.compat.trans h.compat
  node := g.node.trans h.node
  msgs := g.msgs.trans h.msgs
  msgId := g.msgId.trans h.msgId

theorem Sending.ownNode {t q : Nat} {s u : State} (h : Sending t q s u) (n : Nat) : u.ownNode n = s.ownNode n := by
  rw [State.ownNode, State.ownNode, h.node]

theorem CountedOn.sending {t : Nat} {s u : State} (h : CountedOn t s u) (q : Nat) : Sending t q s u := by
  have hqueue := h.queue q
  obtain ⟨⟨ctrs, tiles, n, rfl⟩, -, l, c, htile⟩ := h
  exact ⟨by rw [hqueue], by rw [htile], rfl, rfl, rfl⟩

/-- The queue that the mover served last is the mover's own (R36). -/
theorem setMoverLast_sending (s : State) (t q n : Nat) : Sending t q s (s.modTile t fun T => { T with moverLast := n }) where
  entries := by rw [State.modTile_queue, Tile.setMoverLast_queue, State.queue]
  compat := by rw [State.modTile_tile]
  node := rfl
  msgs := rfl
  msgId := rfl

theorem Tile.setQueue_compat (T : Tile) (q : Nat) (v : Queue) : (T.setQueue q v).compat = T.compat := by
  obtain ⟨a, b, c, d, heq⟩ := Tile.setQueue_eq T q v
  rw [heq]

theorem modEntry_compat (s : State) (t q : Nat) (seq : W32) (f : QEntry → QEntry) :
    ((modEntry s t q seq f).tile t).compat = (s.tile t).compat := by
  rw [modEntry, State.modQueue_tile, Tile.setQueue_compat]

theorem traceDesc_sending (s : State) (t q : Nat) (e : QEntry) (typ va aux : Nat) (data : W64) :
    Sending t q s (traceDesc s t q e typ va aux data) := by
  have hkept := traceDesc_le s t q e typ va aux data
  have htile := traceDesc_tile s t q e typ va aux data t
  exact ⟨by rw [State.queue, htile, State.queue], by rw [htile], hkept.same .node rfl, (hkept.same .msgs rfl).1, (hkept.same .msgs rfl).2⟩

/-- The row that a data record sends, as it stands in the tile store (R149). -/
def QEntry.row (e : QEntry) (img : Tab Byte) (w0 : Nat) : List Byte :=
  (sendRanges e (parseMover e.desc) w0).flatMap fun y => Memory.bytes img y.1 y.2

/-- A descriptor with the chunk of its next message (R149). -/
def QEntry.issueNextMessage (e : QEntry) (bytes : Nat) (y : QEntry) : QEntry :=
  { y with chunks := y.chunks ++ [{ idx := e.issued, bytes := bytes }], issued := y.issued + 1, elem := y.elem + 1 }

/-- A flight carries the message of a route record of a SEND. -/
structure Flight.Carries (f : Flight) (t q : Nat) (e : QEntry) (w0 w1 entry : Nat) : Prop where
  srcTile : f.srcTile = t
  srcQueue : f.srcQueue = q
  chunk : f.chunk = e.issued
  msgIdx : f.msgIdx = e.elem
  chan : f.chan = fld entry 35 2
  signal : f.signal = bitAt w0 31
  bits : f.bits = BitVec.ofNat 32 w1

/-- A route record that passes the sender's tests is a chunk of its descriptor and a message to send. -/
theorem issueMessage_sends {s : State} {t q : Nat} {e : QEntry} (herr : (s.tile t).storeErr = []) :
    let off := (parseMover e.desc).routeOff + 16 * e.elem
    let w0 := Memory.le (s.tile t).store off 4
    let to_ := Memory.le (s.tile t).store (off + 8) 8
    recordCause e w0 = none → ∃ bytes u f, Sending t q (modEntry s t q e.seq (e.issueNextMessage bytes)) u ∧
      f.Carries t q e w0 (Memory.le (s.tile t).store (off + 4) 4) to_ ∧
      issueMessage s t q e = sendRecord u t e.seq f (fld to_ 0 24) (fld to_ 24 11) := by
  dsimp only
  intro hcause
  unfold issueMessage
  simp only [readRanges_clean herr, hcause, Option.or_none]
  refine ⟨(e.row (s.tile t).store (Memory.le (s.tile t).store ((parseMover e.desc).routeOff + 16 * e.elem) 4)).length, _, _, ?_, ?_, rfl⟩
  · exact ((tileEvent_counted ..).sending q).trans <| (setMoverLast_sending ..).trans <|
      ((moverCycles_counted ..).sending q).trans <| ((tileCycles_counted ..).sending q).trans (traceDesc_sending ..)
  · exact ⟨rfl, rfl, rfl, rfl, rfl, rfl, rfl⟩

/-- Outside the compatibility view a tile field below 1,296 names a tile (R148). -/
theorem destOf_tile {T : Tile} {x : Nat} (hcompat : T.compat = false) (hx : x < 1296) : destOf T x = .tile x := by
  unfold destOf
  rw [if_neg (by omega), hcompat, if_neg Bool.false_ne_true]
  exact if_pos hx

/-- A message to a tile of the own node is launched, and its packets enter Truss. -/
theorem sendRecord_own {s : State} {t x node : Nat} {f : Flight} (q : Nat) (seq : W32) (hnode : s.ownNode node = true)
    (hcompat : (s.tile t).compat = false) (hx : x < 1296) : ∃ u, Sending t q s u ∧
      sendRecord s t seq f node x = msgPackets (launchFlight u seq { f with dst := x }).1 (tileEnd t) (tileEnd x) (sentBytes f) := by
  have hcounted := (tileEvent_counted s t 0x0D none 1).sending q
  refine ⟨_, hcounted, ?_⟩
  have hown : (tileEvent s t 0x0D none 1).ownNode node = true := (hcounted.ownNode node).trans hnode
  unfold sendRecord
  dsimp only
  rw [destOf_tile (hcounted.compat.trans hcompat) hx]
  dsimp only
  rw [if_pos hown, forEach_cons, forEach_nil]

/-- A delivery launched is the last of those in flight, under the next number. -/
theorem launchFlight_msgs (s : State) (seq : W32) (f : Flight) : (launchFlight s seq f).1.msgs = s.msgs ++ [{ f with id := s.msgId }] :=
  ((modChunk_le ..).same .msgs rfl).1

/-- A descriptor with one more message issued, as the statement of O24 has it. -/
def MessageIssued (e y : QEntry) : Prop :=
  y.issued = e.issued + 1 ∧ y.elem = e.elem + 1 ∧ y.chunks.map (fun c => (c.idx, c.deliveries)) =
    e.chunks.map (fun c => (c.idx, c.deliveries + if c.idx = e.issued then 1 else 0)) ++ [(e.issued, 1)]

/-- A delivery launched counts with the chunk of its message. -/
theorem launchFlight_issued {s : State} {e : QEntry} {f : Flight} {bytes : Nat} (hchunk : f.chunk = e.issued)
    (h : HasEntry s f.srcTile f.srcQueue e.seq fun y => y = e.issueNextMessage bytes e) :
    HasEntry (launchFlight s e.seq f).1 f.srcTile f.srcQueue e.seq (MessageIssued e) := by
  refine hasEntry_modEntry (s := { s with msgId := s.msgId + 1, msgs := s.msgs ++ [{ f with id := s.msgId }] }) h fun y hseq hy => ⟨hseq, ?_⟩
  subst hy
  refine ⟨rfl, rfl, ?_⟩
  have hcount : ∀ c : Chunk, (fun c : Chunk => (c.idx, c.deliveries)) (if c.idx = e.issued then { c with deliveries := c.deliveries + 1 } else c) =
      (c.idx, c.deliveries + if c.idx = e.issued then 1 else 0) := by
    intro c
    split <;> rfl
  simp only [QEntry.issueNextMessage, hchunk, List.map_map, List.map_append, Function.comp_def, hcount, List.map_cons, List.map_nil, if_true,
    Nat.zero_add]

/-- What the statement of O24 says of a message that queue `q` of tile `t` has sent to tile `x`. -/
def MessageSent (s : State) (t q : Nat) (e : QEntry) (w0 w1 entry x : Nat) (u : State) : Prop :=
  HasEntry u t q e.seq (MessageIssued e) ∧ u.msgs.dropLast = s.msgs ∧
    (u.msgs.getLast?.map fun f => (f.dst, f.chan, f.signal, f.bits)) = some (x, fld entry 35 2, bitAt w0 31, BitVec.ofNat 32 w1) ∧
    (u.msgs.getLast?.map fun f => (f.id, f.srcTile, f.srcQueue, f.chunk, f.msgIdx)) = some (s.msgId, t, q, e.issued, e.elem)

/-- A message whose chunk has been issued is launched, and its packets enter Truss. -/
theorem launchFlight_sent {s u : State} {t q w0 w1 entry bytes : Nat} {e : QEntry} {f : Flight} (he : (s.queue t q).active 1 = some e)
    (hissued : Sending t q (modEntry s t q e.seq (e.issueNextMessage bytes)) u) (hf : f.Carries t q e w0 w1 entry) (x : Nat) (a b : Nat × Nat)
    (n : Nat) : MessageSent s t q e w0 w1 entry x (msgPackets (launchFlight u e.seq { f with dst := x }).1 a b n) := by
  have hpackets := msgPackets_le (launchFlight u e.seq { f with dst := x }).1 a b n
  refine ⟨hasEntry_quiet (hpackets.quiet rfl t) ?_, ?_⟩
  · have hentry : HasEntry u t q e.seq fun y => y = e.issueNextMessage bytes e :=
      (hasEntry_modEntry (f := e.issueNextMessage bytes) (active_hasEntry he) fun y hseq hy => ⟨hseq, by rw [hy.1]⟩).of_entries
        hissued.entries
    rw [← hf.srcTile, ← hf.srcQueue] at hentry ⊢
    exact launchFlight_issued (f := { f with dst := x }) hf.chunk hentry
  · have hmsgs := (hpackets.same .msgs rfl).1.trans (launchFlight_msgs ..)
    have hid : u.msgId = s.msgId := hissued.msgId
    rw [hmsgs, show u.msgs = s.msgs from hissued.msgs, hid, List.dropLast_concat, List.getLast?_concat]
    simp only [Option.map_some, hf.chan, hf.signal, hf.bits, hf.srcTile, hf.srcQueue, hf.chunk, hf.msgIdx, and_self]

/-- The clause of O24 on SEND. -/
theorem messageSent {s : State} {t q : Nat} {e : QEntry} (ht : t < 1296) (hq : q < 4) (hturn : moverTurn s t q = some e)
    (hop : (parseMover e.desc).op = 3) (herr : (s.tile t).storeErr = []) :
    let T := s.tile t
    let off := (parseMover e.desc).routeOff + 16 * e.elem
    let w0 := Memory.le T.store off 4
    let to_ := Memory.le T.store (off + 8) 8
    recordCause e w0 = none → s.ownNode (fld to_ 0 24) = true → T.compat = false → fld to_ 24 11 < 1296 →
    Completes (.sendMessage t q) s (MessageSent s t q e w0 (Memory.le T.store (off + 4) 4) to_ (fld to_ 24 11)) := by
  dsimp only
  intro hcause hown hcompat hdst
  obtain ⟨he, -⟩ := moverTurn_spec hturn
  obtain ⟨bytes, u, f, hissued, hcarries, hact⟩ := issueMessage_sends (q := q) herr hcause
  obtain ⟨v, hcounted, hsent⟩ := sendRecord_own (f := f) q e.seq ((hissued.ownNode _).trans hown)
    (hissued.compat.trans ((modEntry_compat ..).trans hcompat)) hdst
  have hexec : exec (.sendMessage t q) s = .next _ := require_of (okTQ_of ht hq)
  rw [doSendMessage, hturn] at hexec
  dsimp only at hexec
  rw [if_pos hop, hact, hsent] at hexec
  exact .of_eq hexec (launchFlight_sent he (hissued.trans hcounted) hcarries ..)

/-! ### Delivery (R150, R151) -/

/-- The offset of the slot that the next data message of a channel fills (R150). -/
def RxChan.slot (c : RxChan) : Nat := 64 * (c.base / 64) + 2 ^ c.slotLog2 * (c.head.toNat % 2 ^ c.cntLog2)

/-- An accepted data message fills the slot at HEAD, moves HEAD on and makes MSG_n pending (R150). -/
theorem acceptData_spec {s : State} {t chan : Nat} {hdr payload : List Byte} (herr : (s.tile t).storeErr = [])
    (hfrozen : (s.tile t).frozen = false) (hcompat : (s.tile t).compat = false) (hchan : chan < 4) (hlen : hdr.length = 32) :
    (((acceptData s t chan hdr payload).tile t).chan chan).head = ((s.tile t).chan chan).head + 1 ∧
      Memory.bytes ((acceptData s t chan hdr payload).tile t).store ((s.tile t).chan chan).slot (32 + payload.length) = hdr ++ payload ∧
      ((acceptData s t chan hdr payload).tile t).pend.getLsbD (16 + chan) = true := by
  have hrecv : recvHeader (s.tile t) hdr = hdr := recvHeader_eq hcompat (by omega)
  have hact : acceptData s t chan hdr payload = raiseSrc (tileEvent ((enginePut s t ((s.tile t).chan chan).slot (hdr ++ payload)).1.modTile t
      fun T => T.setChan chan { T.chan chan with head := (T.chan chan).head + 1 }) t 0x0F none 1) t (16 + chan) := by
    rw [← congrArg (· ++ payload) hrecv]
    rfl
  obtain ⟨-, -, hbytes⟩ := enginePut_clean ((s.tile t).chan chan).slot (hdr ++ payload) herr
  have hrx := enginePut_keeps (g := Tile.rx) (fun _ _ _ => rfl) ((s.tile t).chan chan).slot (hdr ++ payload) herr
  have hfreeze := enginePut_keeps (g := Tile.frozen) (fun _ _ _ => rfl) ((s.tile t).chan chan).slot (hdr ++ payload) herr
  generalize (enginePut s t ((s.tile t).chan chan).slot (hdr ++ payload)).1 = u at hact hbytes hrx hfreeze
  have hmoved : (u.modTile t fun T => T.setChan chan { T.chan chan with head := (T.chan chan).head + 1 }).tile t =
      (u.tile t).setChan chan { (u.tile t).chan chan with head := ((u.tile t).chan chan).head + 1 } := State.modTile_tile ..
  have hevent := (tileEvent_counted (u.modTile t fun T => T.setChan chan { T.chan chan with head := (T.chan chan).head + 1 })
    t 0x0F none 1).sameInbox
  rw [SameInbox, hmoved] at hevent
  rw [hact]
  refine ⟨?_, ?_, raiseSrc_pending (by omega) (hevent.frozen.trans (hfreeze.trans hfrozen))⟩
  · rw [raiseSrc_chan, hevent.chan, Tile.chan, Tile.setChan, Tab.get_set_self, Tile.chan, hrx, Tile.chan]
  · have hwhole := Memory.bytes_put_self (hdr ++ payload) (s.tile t).store ((s.tile t).chan chan).slot
    rw [List.length_append, hlen] at hwhole
    rw [raiseSrc_store, hevent.store]
    exact (Memory.bytes_congr _ _ fun i _ => hbytes _).trans hwhole

/-- A refusal is counted in its channel, and no more (R151, R157). -/
theorem countRefused_kept (s : State) (t chan cause : Nat) : ((countRefused s t chan cause).tile t).store = (s.tile t).store ∧
    (((countRefused s t chan cause).tile t).chan chan).head = ((s.tile t).chan chan).head := by
  rw [countRefused, State.modTile_tile]
  dsimp only
  repeat' split
  · exact ⟨rfl, by rw [Tile.chan, Tile.setChan, Tab.get_set_self]⟩
  · exact ⟨rfl, by rw [Tile.chan, Tile.setChan, Tab.get_set_self]⟩
  · exact ⟨rfl, rfl⟩

/-- A refused delivery is on its way back with its cause, and its packet changes no tile (R152). -/
theorem flightOutcome_refused (s : State) (f : Flight) (cause x : Nat) : (flightOutcome s f (some cause)).tile x = s.tile x ∧
    (flightOutcome s f (some cause)).msgs = s.msgs.map fun x => if x.id = f.id then { x with refused := some cause } else x :=
  ⟨(packet_le ..).tile rfl x, ((packet_le ..).same .msgs rfl).1⟩

/-- A data delivery to a tile that is not on the move is tested, and its outcome goes to the sender. -/
theorem doMsgDataDelivery_onWay {s : State} {id : Nat} {f : Flight} (hway : s.onWay id false = some f) (hmoving : (s.tile f.dst).moving = false) :
    doMsgDataDelivery (.inside id) [] s = flightOutcome (tryData s f.dst (some f.space) true f.chan f.hdr f.payload).1 f
      (tryData s f.dst (some f.space) true f.chan f.hdr f.payload).2 := by
  unfold doMsgDataDelivery
  dsimp only
  rw [hway]
  simp only [hmoving, arrive_unflipped, Bool.false_eq_true, if_false]

/-- The clauses of O24 on data deliveries. -/
theorem dataDelivered {s : State} {id : Nat} {f : Flight} (hway : s.onWay id false = some f) :
    let T := s.tile f.dst
    let c := T.chan f.chan
    T.moving = false →
    (dataCause T (some f.space) true f.chan f.payload.length = none → T.frozen = false → T.storeErr = [] → T.compat = false → f.chan < 4 →
      f.hdr.length = 32 → Completes (.msgDataDelivery (.inside id) []) s fun u =>
        u.msgs = s.msgs.filter (fun x => x.id != f.id) ∧ ((u.tile f.dst).chan f.chan).head = c.head + 1 ∧
        Memory.bytes (u.tile f.dst).store c.slot (32 + f.payload.length) = f.hdr ++ f.payload ∧
        (u.tile f.dst).pend.getLsbD (16 + f.chan) = true) ∧
    (∀ cause, dataCause T (some f.space) true f.chan f.payload.length = some cause →
      Completes (.msgDataDelivery (.inside id) []) s fun u =>
        u.msgs = s.msgs.map (fun x => if x.id = f.id then { x with refused := some cause } else x) ∧
        (u.tile f.dst).store = T.store ∧ ((u.tile f.dst).chan f.chan).head = c.head) := by
  dsimp only
  intro hmoving
  have hexec : exec (.msgDataDelivery (.inside id) []) s = .next (doMsgDataDelivery (.inside id) [] s) := require_of rfl
  rw [doMsgDataDelivery_onWay hway hmoving, tryData] at hexec
  refine ⟨fun hnone hfrozen herr hcompat hchan hlen => ?_, fun cause hcause => ?_⟩
  · rw [hnone] at hexec
    refine .of_eq hexec ?_
    obtain ⟨hhead, hslot, hpend⟩ := acceptData_spec (payload := f.payload) herr hfrozen hcompat hchan hlen
    have hsettled := settle_sameInbox (acceptData s f.dst f.chan f.hdr f.payload) f none f.dst
    refine ⟨?_, ?_, ?_, ?_⟩
    · exact (settle_msgs ..).trans (congrArg _ ((acceptData_le ..).same .msgs rfl).1)
    · exact (congrArg _ (hsettled.chan f.chan)).trans hhead
    · exact (congrArg (Memory.bytes · _ _) hsettled.store).trans hslot
    · exact (congrArg (BitVec.getLsbD · _) hsettled.pend).trans hpend
  · rw [hcause] at hexec
    obtain ⟨htile, hmsgs⟩ := flightOutcome_refused (countRefused s f.dst f.chan cause) f cause f.dst
    obtain ⟨hstore, hhead⟩ := countRefused_kept s f.dst f.chan cause
    refine .of_eq hexec ⟨?_, ?_, ?_⟩
    · exact hmsgs.trans (congrArg _ ((countRefused_le ..).same .msgs rfl).1)
    · exact (congrArg Tile.store htile).trans hstore
    · exact (congrArg (fun T => (Tile.chan T f.chan).head) htile).trans hhead

/-- The clause of O24 on signals: each bit of the mask makes its source pending (R147). -/
theorem signalDelivered {s : State} {id : Nat} {f : Flight} (hway : s.onWay id true = some f)
    (hnone : signalCause (s.tile f.dst) (some f.space) true = none) (hfrozen : (s.tile f.dst).frozen = false)
    (hmoving : (s.tile f.dst).moving = false) :
    Completes (.msgSignalDelivery (.inside id)) s fun u => u.msgs = s.msgs.filter (fun x => x.id != f.id) ∧
      (u.tile f.dst).pend = (s.tile f.dst).pend ||| (f.bits.setWidth 64 <<< 32) := by
  have hexec : exec (.msgSignalDelivery (.inside id)) s = .next (doMsgSignalDelivery (.inside id) s) := require_of rfl
  have hact : doMsgSignalDelivery (.inside id) s = settle (acceptSignal s f.dst f.bits) f none := by
    unfold doMsgSignalDelivery
    dsimp only
    rw [hway]
    dsimp only
    rw [hmoving, if_neg Bool.false_ne_true, trySignal, hnone]
    rfl
  rw [hact] at hexec
  refine .of_eq hexec ⟨?_, ?_⟩
  · exact (settle_msgs ..).trans (congrArg _ ((acceptSignal_le ..).same .msgs rfl).1)
  · have hevent := (tileEvent_counted s f.dst 0x0F none 1).sameInbox
    rw [(settle_sameInbox ..).pend, acceptSignal, forEach_maskBits_pend f.bits (hevent.frozen.trans hfrozen), hevent.pend]

/-! ### Refusals and retries (R152, R155) -/

/-- The clause of O24 on refusals: one that is not retried is final, and counts with the descriptor. -/
theorem refusalFinal {s : State} {id cause : Nat} {f : Flight} {e : QEntry}
    (hf : s.msgs.find? (fun f => f.id == id && f.refused == some cause) = some f) (hcause : cause ≠ 0x01)
    (he : (s.queue f.srcTile f.srcQueue).active 1 = some e) (hrec : e.refusedRec = none) (hfirst : e.firstCauses = []) :
    Completes (.deliveryRefusal id cause) s fun u => u.msgs = s.msgs.filter (fun x => x.id != f.id) ∧
      HasEntry u f.srcTile f.srcQueue e.seq (fun y => y.refusals = e.refusals + 1 ∧ y.refusedRec = some (f.msgIdx, cause)) := by
  have hexec : exec (.deliveryRefusal id cause) s = .next (doDeliveryRefusal id cause s) := require_of rfl
  have hact : doDeliveryRefusal id cause s = settle (noteRefused (tileEvent s f.srcTile 0x0E none 1) f cause) f (some cause) := by
    unfold doDeliveryRefusal
    rw [hf]
    dsimp only
    rw [refusalBack]
    exact if_neg fun h => hcause h.1
  rw [hact] at hexec
  have hcounted := tileEvent_counted s f.srcTile 0x0E none 1
  have hactive := (active_quiet (q := f.srcQueue) (n := 1) hcounted.quiet).trans he
  have hnoted : ((noteRefused (tileEvent s f.srcTile 0x0E none 1) f cause).queue f.srcTile f.srcQueue).active 1 =
      some { e with firstCauses := [(f.msgIdx, cause)] } := by
    unfold noteRefused
    rw [hactive]
    dsimp only
    rw [active_modEntry hactive fun x => by split <;> exact ⟨rfl, rfl⟩]
    simp [hfirst]
  refine .of_eq hexec ⟨?_, ?_⟩
  · exact (settle_msgs ..).trans (congrArg _ (((noteRefused_le ..).same .msgs rfl).1.trans ((tileEvent_le ..).same .msgs rfl).1))
  · refine (settle_refused hnoted hrec).imp fun y hy => ?_
    simpa [QEntry.firstCause] using hy

/-- The clause of O24 on retries: at a later boundary the message goes out again, behind those sent since (R152). -/
theorem messageRetried {s : State} {id w first : Nat} {f : Flight} (hf : s.msgs.find? (fun f => f.id == id) = some f)
    (hwait : f.wait = some w) (hfirst : f.firstRefused = some first) (hnear : f.remote = false) (hlater : w < s.tick.boundaries)
    (hretry : s.tick.boundaries - first ≤ (s.tile f.srcTile).retry) :
    Completes (.msgRetry id) s fun u => u.msgs = s.msgs.filter (fun x => x.id != id) ++ [{ f with wait := none }] := by
  have hexec : exec (.msgRetry id) s = .next (doMsgRetry id s) := require_of rfl
  have hact : doMsgRetry id s = msgPackets { s with msgs := s.msgs.filter (fun x => x.id != id) ++ [{ f with wait := none }] }
      (tileEnd f.srcTile) (tileEnd f.dst) (sentBytes f) := by
    unfold doMsgRetry
    rw [hf]
    dsimp only
    rw [hwait, hfirst]
    dsimp only
    rw [if_neg (by omega), if_neg (by omega), hnear, if_neg Bool.false_ne_true]
  rw [hact] at hexec
  exact .of_eq hexec ((msgPackets_le ..).same .msgs rfl).1

/-- Settles O24, one lemma for each event of a message: it is sent, delivered as data or as a signal, refused, and sent again. -/
theorem messages : Obligations.Messages := by
  unfold Obligations.Messages
  refine fun s => ⟨?send, ?data, ?signal, ?refusal, ?retry⟩
  case send => exact fun t q e ht hq hturn hop herr => messageSent ht hq hturn hop herr
  case data => exact fun id f _ hway => dataDelivered hway
  case signal => exact fun id f _ hway hnone hfrozen hmoving => signalDelivered hway hnone hfrozen hmoving
  case refusal => exact fun id cause f e hf hcause he hrec hfirst => refusalFinal hf hcause he hrec hfirst
  case retry => exact fun id f w first hf hwait hfirst hnear hlater hretry => messageRetried hf hwait hfirst hnear hlater hretry

end Sys2Proof.Machine
end

section
/-!
PROOFS. The Keystone's own events: the end of a walk, recalls and their acknowledgements, the end of an invalidation and the loss of a
walker (R166, R167, R169, R176, R177, R411).
-/

namespace Sys2Proof.Machine
open Sys2Proof

/-! ### The answer to a request (R167, R168, R180) -/

/-- An extent whose leaf has the rights that a request needs gives the stream its lease. -/
theorem answerRequest_grants {s : State} {t q : Nat} {r : LeaseReq} {x : Extent} (h : deniedCode x.leaf.toNat r.rd r.wr r.at_ = none) :
    (answerRequest s t q r x).queue t q =
        { s.queue t q with leases := (s.queue t q).leases ++ [leaseOf (s.tile t).space x], req := none } ∧
      (answerRequest s t q r x).ks = s.ks := by
  obtain ⟨hqueue, hks, hspace⟩ := (packet_le s vcTrussCtrl true keystoneEnd (tileEnd t) 0 0 32).sameStreams rfl rfl t
  unfold answerRequest grantLease
  dsimp only
  rw [h]
  dsimp only
  rw [hspace]
  constructor
  · rw [(traceLease_le ..).queue rfl, (bump_sameStreams ..).1, State.modQueue_queue, hqueue]
  · rw [(traceLease_le ..).same .ks rfl, (bump_sameStreams t ..).2.1, State.modQueue_ks, hks]

/-- Stream `q` of tile `t`, as it was in `s`, has stopped in `u` on a fault and keeps its leases (R40, R143, R180). -/
def Stopped (s u : State) (t q code level access va : Nat) (entry : W64) (seq : W32) : Prop :=
  ((u.queue t q).fault.map fun f => (f.code, f.level, f.access, f.va, f.entry, f.seq)) = some (code, level, access, va, entry, seq) ∧
    (u.queue t q).req = none ∧ (u.queue t q).leases = (s.queue t q).leases

theorem faultStream_stopped {s v : State} {t q : Nat} (h : v.queue t q = s.queue t q) (code level access va : Nat) (entry : W64)
    (seq : W32) : Stopped s (faultStream v t q code level access va entry seq) t q code level access va entry seq := by
  obtain ⟨park, hqueue⟩ := faultStream_queue v t q code level access va entry seq
  rw [Stopped, hqueue, h]
  exact ⟨rfl, rfl, rfl⟩

/-- An extent whose leaf lacks a right that a request needs stops the stream. -/
theorem answerRequest_denies {s v : State} {t q code kind : Nat} {r : LeaseReq} {x : Extent} (hv : v.queue t q = s.queue t q)
    (h : deniedCode x.leaf.toNat r.rd r.wr r.at_ = some (code, kind)) :
    Stopped s (answerRequest v t q r x) t q code x.level kind r.va x.leaf r.seq := by
  unfold answerRequest
  dsimp only
  rw [h]
  exact faultStream_stopped (((packet_le ..).queue rfl t q).trans hv) ..

/-! ### KEYSTONE_WALK_COMPLETE (R166, R177) -/

theorem walk_queue (s : State) (tag va t q : Nat) : (walk s tag va).1.queue t q = s.queue t q := (walk_le ..).queue rfl t q

/-- The walk of a request of stream `q` of tile `t` can end: no line that it reads has an open transaction. -/
structure WalkEnds (s : State) (t q : Nat) (r : LeaseReq) : Prop where
  req : (s.queue t q).req = some r
  walking : r.walking = true
  idle : walkIdle s (s.tile t).space r.va = true

section
variable {s : State} {t q : Nat} {r : LeaseReq} (h : WalkEnds s t q r)
include h

theorem WalkEnds.proceeds : ¬ ((!r.walking) = true ∨ (!walkIdle s (s.tile t).space r.va) = true) := by
  rw [h.walking, h.idle]
  decide

theorem doKeystoneWalkComplete_again (hmark : s.ks.rewalk.contains (t, q) = true) : doKeystoneWalkComplete t q s =
    bump (s.modKs fun k => { k with rewalk := k.rewalk.filter (· != (t, q)) }) (unitCtr ksBase 2) 1 := by
  unfold doKeystoneWalkComplete
  rw [h.req]
  dsimp only
  rw [if_neg h.proceeds, if_pos hmark]

/-- A walk that finds a leaf writes its extent and answers the request from it. -/
theorem doKeystoneWalkComplete_leaf (hmark : s.ks.rewalk.contains (t, q) = false) {level : Nat} {e : W64}
    (hleaf : (walk s (s.tile t).space r.va).2 = .leaf level e) : doKeystoneWalkComplete t q s =
      let x := extentOf (s.tile t).space (s.gen (s.tile t).space) r.va level e
      answerRequest (putExtent (walk s (s.tile t).space r.va).1 x) t q r x := by
  have hgen : (walk s (s.tile t).space r.va).1.gen (s.tile t).space = s.gen (s.tile t).space := by
    rw [State.gen, (walk_le ..).same .ks rfl, State.gen]
  unfold doKeystoneWalkComplete
  rw [h.req]
  dsimp only
  rw [if_neg h.proceeds, if_neg (by rw [hmark]; decide), hleaf]
  dsimp only
  rw [hgen]

theorem doKeystoneWalkComplete_fault (hmark : s.ks.rewalk.contains (t, q) = false) {code level : Nat} {e : W64}
    (hfault : (walk s (s.tile t).space r.va).2 = .fault code level e) : doKeystoneWalkComplete t q s =
      faultStream (walk s (s.tile t).space r.va).1 t q code level (strongest r.wr r.at_) r.va e r.seq := by
  unfold doKeystoneWalkComplete
  rw [h.req]
  dsimp only
  rw [if_neg h.proceeds, if_neg (by rw [hmark]; decide), hfault]

end

/-- The clause of O26 on walks. -/
theorem walkCompletes {s : State} {t q : Nat} {r : LeaseReq} (ht : t < 1296) (hq : q < 4) (h : WalkEnds s t q r) :
    let Q := s.queue t q
    let tag := (s.tile t).space
    (s.ks.rewalk.contains (t, q) = true → exec (.keystoneWalkComplete t q) s = .next (bump (s.modKs fun k =>
      { k with rewalk := k.rewalk.filter (· != (t, q)) }) (unitCtr ksBase 2) 1)) ∧
    (s.ks.rewalk.contains (t, q) = false → ∀ level e, (walk s tag r.va).2 = .leaf level e →
      let x := extentOf tag (s.gen tag) r.va level e
      (deniedCode e.toNat r.rd r.wr r.at_ = none → Completes (.keystoneWalkComplete t q) s fun u =>
        (u.queue t q).leases = Q.leases ++ [leaseOf tag x] ∧ (u.queue t q).req = none ∧ (u.queue t q).fault = Q.fault ∧
        (u.queue t q).entries = Q.entries ∧ u.ks.extents.head? = some x) ∧
      ∀ code kind, deniedCode e.toNat r.rd r.wr r.at_ = some (code, kind) →
        Completes (.keystoneWalkComplete t q) s fun u => Stopped s u t q code level kind r.va e r.seq) ∧
    (s.ks.rewalk.contains (t, q) = false → ∀ code level e, (walk s tag r.va).2 = .fault code level e →
      Completes (.keystoneWalkComplete t q) s fun u => Stopped s u t q code level (strongest r.wr r.at_) r.va e r.seq) := by
  have hexec : exec (.keystoneWalkComplete t q) s = .next (doKeystoneWalkComplete t q s) := require_of (okTQ_of ht hq)
  refine ⟨fun hmark => ?again, fun hmark level e hleaf => ?leaf, fun hmark code level e hfault => ?fault⟩
  case again => rw [hexec, doKeystoneWalkComplete_again h hmark]
  case leaf =>
    intro x
    rw [doKeystoneWalkComplete_leaf h hmark hleaf] at hexec
    refine ⟨fun hgrants => .of_eq hexec ?_, fun code kind hdenied => .of_eq hexec ?_⟩
    · obtain ⟨hqueue, hks⟩ := answerRequest_grants (s := putExtent (walk s (s.tile t).space r.va).1 x) (t := t) (q := q) (r := r) (x := x) hgrants
      rw [hqueue, hks, (putExtent_le ..).queue rfl, walk_queue, (putExtent_le ..).tile rfl, (walk_le ..).tile rfl]
      exact ⟨rfl, rfl, rfl, rfl, rfl⟩
    · exact answerRequest_denies (x := x) (((putExtent_le ..).queue rfl t q).trans (walk_queue ..)) hdenied
  case fault =>
    rw [doKeystoneWalkComplete_fault h hmark hfault] at hexec
    exact .of_eq hexec (faultStream_stopped (walk_queue ..) ..)

/-! ### Recalls (R169, R170, R176) -/

theorem releaseLeases_queue (s : State) (t q : Nat) (p : Lease → Bool) : (releaseLeases s t q p).queue t q =
    { s.queue t q with leases := (s.queue t q).leases.filter fun l => !p l } := by
  rw [State.queue, releaseLeases_tile, Tile.setQueue_queue]

/-- Recalled leases that are acknowledged leave the stream, and nothing else of it changes. -/
theorem dropRecalled_queue (s : State) (t q : Nat) (p : Lease → Bool) : (dropRecalled s t q p).queue t q =
    { s.queue t q with leases := (s.queue t q).leases.filter fun l => !p l } := by
  have hpackets : ∀ l : List Nat, (forEach l (fun _ s => packet s vcTrussCtrl true (tileEnd t) keystoneEnd 1 0 0) s).queue t q = s.queue t q :=
    fun l => forEach_keeps (P := fun u => u.queue t q = s.queue t q) rfl fun _ _ u hu => ((packet_le ..).queue rfl t q).trans hu
  unfold dropRecalled
  dsimp only
  rw [releaseLeases_queue, hpackets]

/-- A lease of tag `g` from before generation `gen`, recalled (R169). -/
def recallOlder (g gen : Nat) (l : Lease) : Lease := if l.tag = g ∧ l.gen < gen then { l with recalled := true } else l

/-- A lease that is recalled already stays as it is. -/
theorem recallOlder_eq (g gen : Nat) (l : Lease) :
    (if l.tag == g && decide (l.gen < gen) && !l.recalled then { l with recalled := true } else l) = recallOlder g gen l := by
  obtain ⟨tag, lgen, vbase, size, pbase, rd, wr, at_, hc, rm, recalled⟩ := l
  cases recalled <;> simp [recallOlder]

theorem doRecall_queue (t q g : Nat) (s : State) : (doRecall t q g s).queue t q =
    { s.queue t q with
      leases := ((s.queue t q).leases.map (recallOlder g (s.gen g))).filter fun l => !(l.recalled && !(s.queue t q).uses l) } := by
  have htrace : ∀ (l : List Lease) (u : State), (forEach l (fun l s => traceLease s t q l 2) u).queue t q = u.queue t q :=
    fun l u => forEach_keeps (P := fun v => v.queue t q = u.queue t q) rfl fun _ _ v hv => ((traceLease_le ..).queue rfl t q).trans hv
  unfold doRecall
  dsimp only
  rw [dropRecalled_queue, htrace, State.modQueue_queue, (bump_sameStreams ..).1, (packet_le ..).queue rfl]
  simp only [recallOlder_eq]
  rfl

/-! ### INVALIDATE_COMPLETE (R176, R177) -/

/-- A long operation whose data fits its slot is over when its FINAL reply is given (R338). -/
theorem finishOp_finished {s : State} {o : LongOp} (ho : s.op o.handle = some o) (status : Nat) {d : List (Nat × Nat)} (hd : dataLen d ≤ 216) :
    Finished s (finishOp s o.handle status d) o status d := by
  obtain ⟨hgone, hreply⟩ := finishOp_spec ho rfl rfl status hd
  refine ⟨hgone, fun hrun => ?_⟩
  obtain ⟨hbusy, hstatus, hfinal, hdata, hhandle, -⟩ := hreply hrun
  exact ⟨hstatus, hfinal, hdata, hhandle, hbusy⟩

theorem Finished.of_belul {s u v : State} {o : LongOp} {status : Nat} {d : List (Nat × Nat)} (h : Finished s u o status d)
    (hv : v.belul = u.belul) : Finished s v o status d := by
  simpa only [Finished, State.op, State.slot, hv] using h

/-- An invalidation is no longer in progress, and its operation is COMPLETED. -/
def invalidationDone (s : State) (i : Invalidation) : State :=
  finishOp (s.modKs fun k => { k with invs := k.invs.filter fun x => x.handle != i.handle }) i.handle bsCompleted []

theorem endInvalidate_eq (s : State) (i : Invalidation) : endInvalidate s i =
    if i.unbind = true then traceSpace ((invalidationDone s i).modKs fun k => { k with roots := Tab.set none k.roots i.tag none }) i.tag 2 0
    else traceSpace (bump (invalidationDone s i) (spaceCtr i.tag 11) 1) i.tag 3 0 := rfl

theorem invalidationDone_ks (s : State) (i : Invalidation) :
    (invalidationDone s i).ks = { s.ks with invs := s.ks.invs.filter fun x => x.handle != i.handle } := (finishOp_le ..).same .ks rfl

theorem invalidationDone_finished {s : State} {i : Invalidation} {o : LongOp} (ho : s.op i.handle = some o) (hhandle : o.handle = i.handle) :
    Finished s (invalidationDone s i) o 0x0002 [] := by
  rw [← hhandle] at ho
  rw [invalidationDone, ← hhandle]
  exact finishOp_finished (s := s.modKs _) ho bsCompleted (by decide)

theorem endInvalidate_belul (s : State) (i : Invalidation) : (endInvalidate s i).belul = (invalidationDone s i).belul := by
  rw [endInvalidate_eq]
  split
  · exact (traceSpace_le ..).same .belul rfl
  · exact ((bump_le ..).same .belul rfl).trans ((traceSpace_le ..).same .belul rfl)

/-- At the end of a SPACE_UNBIND the tag is unbound. -/
theorem endInvalidate_ks (s : State) (i : Invalidation) : (endInvalidate s i).ks = { s.ks with
    invs := s.ks.invs.filter fun x => x.handle != i.handle,
    roots := if i.unbind = true then Tab.set none s.ks.roots i.tag none else s.ks.roots } := by
  rw [endInvalidate_eq]
  split
  · rw [(traceSpace_le ..).same .ks rfl, State.modKs, invalidationDone_ks]
  · rw [(traceSpace_le ..).same .ks rfl, (bump_le ..).same .ks rfl, invalidationDone_ks]

/-- The first invalidation of its tag ends when no older lease is left. -/
theorem doInvalidateComplete_ends {s : State} {i : Invalidation} (hi : s.ks.invs.find? (fun x => x.handle == i.handle) = some i)
    (hfirst : s.ks.invs.find? (fun x => x.tag == i.tag) = some i) (hleases : s.outstanding i.tag i.gen = 0) :
    doInvalidateComplete i.handle s = endInvalidate s i := by
  unfold doInvalidateComplete
  rw [hi]
  dsimp only
  rw [hfirst]
  dsimp only
  rw [if_pos (by rw [hleases]; simp)]

/-! ### WALKER_PARITY_ERROR (R411) -/

/-- An urgent need is the only one of an empty queue where a spare is left for it. -/
theorem queueNeed_first {s : State} {n : Need} (hurgent : n.urgent = true) (hempty : s.wear.queue = []) (hspare : s.sparesLeft n.kind n.scope ≠ 0) :
    (queueNeed s n).wear.queue = [n] := by
  unfold queueNeed
  rw [hempty, List.any_nil, if_neg Bool.false_ne_true, if_neg fun h => hspare h.1, deferNeed, if_pos (.inr (.inl hurgent))]
  simp [State.modWear, hempty]

theorem doWalkerParityError_walking {s : State} {t q walker : Nat} {r : LeaseReq} (hreq : (s.queue t q).req = some r)
    (hwalking : r.walking = true) (hwalkers : s.ks.walkers ≠ 0) (hmark : (t, q) ∉ s.ks.rewalk) : doWalkerParityError walker t q s =
      queueNeed (s.modKs fun k => { k with walkers := k.walkers - 1, rewalk := k.rewalk ++ [(t, q)] }) ⟨5, 0, walker, true⟩ := by
  unfold doWalkerParityError
  rw [hreq]
  dsimp only
  rw [hwalking, if_neg (by simp [hwalkers])]
  simp only [State.modKs, List.contains_eq_mem, hmark, decide_false, Bool.false_eq_true, if_false]

/-- Settles O26: the walk by what it finds, the recalls by what they leave of the stream, and the end of an invalidation and the loss of a
walker by what they leave of the Keystone. -/
theorem keystoneEvents : Obligations.KeystoneEvents := by
  unfold Obligations.KeystoneEvents
  intro t q s ht hq
  refine ⟨fun r hreq hwalking hidle => ?walk, fun g hg => ?recalls, fun base => ?ack,
    fun i o hlt hi hfirst hleases ho hhandle => ?invalidate, fun walker r hwalker hreq hwalking hwalkers hmark => ?parity⟩
  case walk => exact walkCompletes ht hq ⟨hreq, hwalking, hidle⟩
  case recalls =>
    have hexec : exec (.recall t q g) s = .next (doRecall t q g s) := require_of (by rw [okTQ_of ht hq, decide_eq_true hg]; rfl)
    refine .of_eq hexec ?_
    rw [doRecall_queue]
    exact ⟨rfl, rfl⟩
  case ack =>
    have hexec : exec (.recallAck t q base) s = .next (doRecallAck t q base s) := require_of (okTQ_of ht hq)
    refine .of_eq hexec ?_
    rw [doRecallAck, dropRecalled_queue]
    exact ⟨rfl, rfl⟩
  case invalidate =>
    have hexec : exec (.invalidateComplete i.handle) s = .next (doInvalidateComplete i.handle s) := require_of (decide_eq_true hlt)
    rw [doInvalidateComplete_ends hi hfirst hleases] at hexec
    refine .of_eq hexec ?_
    rw [endInvalidate_ks]
    exact ⟨rfl, rfl, (invalidationDone_finished ho hhandle).of_belul (endInvalidate_belul ..)⟩
  case parity =>
    have hexec : exec (.walkerParityError walker t q) s = .next (doWalkerParityError walker t q s) :=
      require_of (by rw [okTQ_of ht hq, decide_eq_true hwalker]; rfl)
    rw [doWalkerParityError_walking hreq hwalking hwalkers hmark] at hexec
    exact .of_eq hexec ⟨(queueNeed_le ..).same .ks rfl, fun hempty hspare => queueNeed_first rfl hempty hspare⟩

end Sys2Proof.Machine
end

section
/-!
PROOFS. SPACE_BIND whose reply interrupts the host over a port of Truss at which a packet of none of Truss's channels waits (R253, R257,
R342). The port counts a packet at an address that it reckons from the packet's channel (R392), and for such a packet that address can be
any counter's, so also one that the command has just reset (R387).
-/

namespace Sys2Proof.Machine
open Sys2Proof

/-- A packet of a channel beyond those of R257, whose count at link 3's port eastward falls on a space counter. -/
def strayPacket : TPkt := { typ := 0, vc := 1808982, ddie := 25, sdie := 24 }

/-- Counter 2 of tag 0 takes the count of the stray packet. -/
theorem packetsCtr_strayPacket : packetsCtr (eastPort 3) strayPacket.vc = spaceCtr 0 2 := by decide

/-- SPACE_BIND of the host, picked up with IRQ set. -/
def strayPick : Picked := { opcode := 0x0401, tag := 0, irq := true, ind := false, plen := 0, rptr := 0, rlen := 0, seq := 1 }

/-- Slot 0 of client 0. -/
def strayReq : Req := { client := 0, slot := 0 }

/-- After reset: SPACE_BIND picked up, HOSTINT entry 1 writing into the interrupt file of hart 48 on the other abutment die, one bundle pair
of link 3 up, and the stray packet waiting at the port eastward, which the interrupt passes. -/
def strayState : State :=
  { State.reset with
    belul := { State.reset.belul with slots := [(slotKey 0 0, { busy := true, picked := some strayPick })] }
    hostint := [(1, { addrLo := 0x04030000, addrHi := 0x4000, enable := true, mask := false })]
    pairs := [(pairKey 3 0, { st := 2 })]
    truss := { State.reset.truss with ports := [(eastPort 3, { wait := [([], strayPacket)] })] } }

theorem strayState_ready : Ready strayReq 0x0401 strayPick strayState := ⟨rfl, rfl, rfl, rfl, rfl, rfl⟩

/-- The stray packet leaves as the interrupt of the reply passes, and counts where the command has reset (R258, R387). -/
theorem doSpaceBind_strayState : ((doSpaceBind strayReq 0 0 strayState).ctr (packetsCtr (eastPort 3) strayPacket.vc)).val = 1 := by
  decide +kernel

/-- SPACE_BIND answers the state that its effect leaves. -/
theorem spaceBind_next {r : Req} {tag root : Nat} {s u : State} (h : exec (.spaceBind r tag root) s = .next u) : u = doSpaceBind r tag root s :=
  (require_next (s := doSpaceBind r tag root s) h).2

/-- Refutes O27: after SPACE_BIND of tag 0 its counter 2 is 1, counted for a packet that waited at a port with no channel of Truss. The
model sends no such packet; the statement does not ask that none waits. -/
theorem not_keystoneCommands : ¬ Obligations.KeystoneCommands := by
  unfold Obligations.KeystoneCommands
  rintro ⟨hcommands, -⟩
  obtain ⟨hbind, -⟩ := hcommands strayReq strayPick 0 strayState (by decide)
  obtain ⟨u, hexec, -, -, -, hzero, -⟩ := hbind 0 strayState_ready rfl rfl (by decide)
  have hreset := hzero 2 (by decide)
  rw [spaceBind_next hexec, ← packetsCtr_strayPacket, doSpaceBind_strayState] at hreset
  exact absurd hreset (by decide)

end Sys2Proof.Machine
end

section
/-!
PROOFS. The channel controllers (R194–R197, R206, R230): what counting and noting an error leave of the pool, the bytes of a codeword written
whole or merged, and a read by the class of the codeword.
-/

namespace Sys2Proof.Machine
open Sys2Proof

/-! ### Bytes of a codeword (R194, R195) -/

/-- A byte of a field of bytes (R4). -/
theorem getElem_leBytes (n v i : Nat) (h : i < (leBytes n v).length) : (leBytes n v)[i] = BitVec.ofNat 8 (v / 256 ^ i) := by
  induction n generalizing v i with
  | zero => exact absurd h (Nat.not_lt_zero i)
  | succ n ih =>
    cases i with
    | zero => simp [leBytes]
    | succ i =>
      have hi : i < (leBytes n (v / 256)).length := by simpa [leBytes] using h
      calc (leBytes (n + 1) v)[i + 1] = (leBytes n (v / 256))[i] := rfl
        _ = BitVec.ofNat 8 (v / 256 / 256 ^ i) := ih ..
        _ = BitVec.ofNat 8 (v / 256 ^ (i + 1)) := by rw [Nat.div_div_eq_div_mul, pow_succ']

/-- Byte `i` of a codeword's data. -/
def cwByte (d : BitVec 512) (i : Nat) : Byte := d.extractLsb' (8 * i) 8

theorem cwByte_eq (d : BitVec 512) (i : Nat) : cwByte d i = BitVec.ofNat 8 (d.toNat / 256 ^ i) := by
  refine BitVec.eq_of_toNat_eq ?_
  rw [cwByte, BitVec.extractLsb'_toNat, Nat.shiftRight_eq_div_pow, pow_mul, BitVec.toNat_ofNat]
  rfl

/-- The numbers of 64 bytes are those of 512 bits. -/
theorem two_pow_512 : (2 : Nat) ^ 512 = 256 ^ 64 := by rw [show (512 : Nat) = 8 * 64 from rfl, pow_mul, show (2 : Nat) ^ 8 = 256 from rfl]

theorem cwByte_ofNat {n : Nat} (h : n < 256 ^ 64) (i : Nat) : cwByte (BitVec.ofNat 512 n) i = BitVec.ofNat 8 (n / 256 ^ i) := by
  have hself : ∀ w, n < 2 ^ w → (BitVec.ofNat w n).toNat = n := fun w hw => by rw [BitVec.toNat_ofNat, Nat.mod_eq_of_lt hw]
  rw [cwByte_eq, hself 512 (lt_of_lt_of_eq h two_pow_512.symm)]

/-- A codeword's data by its bytes in the memory. -/
theorem cwByte_data (p : Pool) (cw : Nat) {i : Nat} (hi : i < 64) : cwByte (p.data cw) i = Memory.byte p.bytes (64 * cw + i) := by
  have hback := leBytes_leNat (Memory.bytes p.bytes (64 * cw) 64)
  rw [Memory.length_bytes] at hback
  have hlt : Memory.le p.bytes (64 * cw) 64 < 256 ^ 64 := by
    rw [Memory.le, ← hback, leNat_leBytes]
    exact Nat.mod_lt _ (by positivity)
  have hi' : i < (leBytes 64 (Memory.le p.bytes (64 * cw) 64)).length := by rw [length_leBytes]; exact hi
  rw [Pool.data, cwByte_ofNat hlt, ← getElem_leBytes 64 _ i hi', ← List.getD_eq_getElem _ 0 hi', Memory.le, hback, Memory.getD_bytes _ _ hi]

theorem mergeBytes_lt (n mask old new : Nat) : mergeBytes n mask old new < 256 ^ n := by
  induction n generalizing mask old new with
  | zero => exact Nat.one_pos
  | succ n ih =>
    have hrest := ih (mask / 2) (old / 256) (new / 256)
    rw [mergeBytes, pow_succ']
    split <;> omega

/-- A merge takes each byte from the new bytes where the mask selects it. -/
theorem mergeBytes_div_mod (n mask old new : Nat) {i : Nat} (hi : i < n) : mergeBytes n mask old new / 256 ^ i % 256 =
    (if mask.testBit i then new else old) / 256 ^ i % 256 := by
  induction n generalizing mask old new i with
  | zero => omega
  | succ n ih =>
    rw [mergeBytes]
    cases i with
    | zero =>
      rw [Nat.testBit_zero]
      by_cases h : mask % 2 = 1 <;> simp [h]
    | succ i =>
      have hdiv : ∀ x, (x : Nat) / 256 ^ (i + 1) = x / 256 / 256 ^ i := fun x => by rw [Nat.div_div_eq_div_mul, pow_succ']
      have hhigh : ((if mask % 2 = 1 then new % 256 else old % 256) + 256 * mergeBytes n (mask / 2) (old / 256) (new / 256)) / 256 =
          mergeBytes n (mask / 2) (old / 256) (new / 256) := by split <;> omega
      rw [hdiv, hhigh, ih _ _ _ (by omega), Nat.testBit_succ, hdiv]
      split <;> rfl

theorem cwByte_mergeCw (mask : BitVec 64) (old new : BitVec 512) {i : Nat} (hi : i < 64) :
    cwByte (mergeCw mask old new) i = if mask.getLsbD i = true then cwByte new i else cwByte old i := by
  have hbyte := mergeBytes_div_mod 64 mask.toNat old.toNat new.toNat hi
  rw [BitVec.testBit_toNat] at hbyte
  rw [mergeCw, cwByte_ofNat (mergeBytes_lt 64 ..), cwByte_eq, cwByte_eq, ← apply_ite (fun d : BitVec 512 => BitVec.ofNat 8 (d.toNat / 256 ^ i))]
  refine BitVec.eq_of_toNat_eq ?_
  rw [BitVec.toNat_ofNat, BitVec.toNat_ofNat, apply_ite BitVec.toNat]
  exact hbyte

/-- A codeword written whole holds its data. -/
theorem Pool.byte_put_inside (p : Pool) (cw : Nat) (d : BitVec 512) {i : Nat} (hi : i < 64) :
    Memory.byte (p.put cw d false).bytes (64 * cw + i) = cwByte d i := by
  have hlen : i < (leBytes 64 d.toNat).length := by rw [length_leBytes]; exact hi
  exact (Memory.byte_put_inside _ _ _ _ hlen).trans ((getElem_leBytes ..).trans (cwByte_eq ..).symm)

/-- A codeword written whole leaves the bytes of every other. -/
theorem Pool.byte_put_outside (p : Pool) (cw : Nat) (d : BitVec 512) (b : Bool) {a : Nat} (ha : a < 64 * cw ∨ 64 * cw + 64 ≤ a) :
    Memory.byte (p.put cw d b).bytes a = Memory.byte p.bytes a :=
  Memory.byte_put_outside _ _ _ _ (by rw [length_leBytes]; exact ha)

@[simp] theorem Pool.put_poison (p : Pool) (cw : Nat) (d : BitVec 512) (b : Bool) : Tab.get false (p.put cw d b).poison cw = b :=
  Tab.get_set_self ..

@[simp] theorem Pool.put_err (p : Pool) (cw : Nat) (d : BitVec 512) (b : Bool) : Tab.get 0 (p.put cw d b).err cw = 0 :=
  Tab.get_set_self ..

@[simp] theorem Pool.put_corrective (p : Pool) (cw : Nat) (d : BitVec 512) (b : Bool) : (p.put cw d b).corrective.contains cw = false := by
  simp [Pool.put]

/-! ### What counting and noting leave (R196, R199, R207) -/

@[simp] theorem bump_pool (s : State) (a n : Nat) : (bump s a n).pool = s.pool := (bump_le s a n).same .pool rfl
@[simp] theorem bump_chans (s : State) (a n : Nat) : (bump s a n).chans = s.chans := (bump_le s a n).same .chans rfl

@[simp] theorem countMoved_pool (s : State) (ch i n : Nat) : (countMoved s ch i n).pool = s.pool := (countMoved_le s ch i n).same .pool rfl
@[simp] theorem countMoved_out (s : State) (ch i n : Nat) : (countMoved s ch i n).out = s.out := (countMoved_le s ch i n).same .out rfl
@[simp] theorem countMoved_hostint (s : State) (ch i n : Nat) : (countMoved s ch i n).hostint = s.hostint :=
  (countMoved_le s ch i n).same .hostint rfl

@[simp] theorem innerCorrected_pool (s : State) (cw : Nat) : (innerCorrected s cw).pool = { s.pool with ceTotal := s.pool.ceTotal + 1 } := rfl
@[simp] theorem innerCorrected_out (s : State) (cw : Nat) : (innerCorrected s cw).out = s.out := rfl

@[simp] theorem queueRepair_pool (s : State) (r : RowLoc) : (queueRepair s r).pool = s.pool := (queueRepair_le s r).same .pool rfl
@[simp] theorem queueRepair_out (s : State) (r : RowLoc) : (queueRepair s r).out = s.out := (queueRepair_le s r).same .out rfl
@[simp] theorem noteRow_pool (s : State) (r : RowLoc) : (noteRow s r).pool = s.pool := (noteRow_le s r).same .pool rfl

@[simp] theorem outerCorrected_out (s : State) (cw : Nat) (b : Bool) : (outerCorrected s cw b).out = s.out :=
  (outerCorrected_le s cw b).same .out rfl

@[simp] theorem outerCorrected_pool (s : State) (cw : Nat) (b : Bool) : (outerCorrected s cw b).pool =
    { s.pool with
      ceTotal := s.pool.ceTotal + 1
      corrective := if b && !s.pool.corrective.contains cw then s.pool.corrective ++ [cw] else s.pool.corrective } :=
  noteRow_pool ..

@[simp] theorem logStored_pool (s : State) (code cls die : Nat) (data : List Nat) (kind key : Nat) :
    (logStored s code cls die data kind key).pool = s.pool := (logStored_le ..).same .pool rfl

@[simp] theorem uncorrectable_pool (s : State) (cw : Nat) :
    (uncorrectable s cw).pool = { s.pool.put cw 0 true with ueTotal := s.pool.ueTotal + 1 } := by
  unfold uncorrectable
  dsimp only
  rw [queueRepair_pool, logStored_pool]
  rfl

/-- An event that raises a disabled entry sends nothing (R253, R398). -/
theorem logStored_out {s : State} (h : (s.hint 3).enable = false) (code cls die : Nat) (data : List Nat) (kind key : Nat) :
    (logStored s code cls die data kind key).out = s.out := by
  unfold logStored logEvent
  extract_lets e u
  have hentry : (u.hint 3).enable = false := h
  rw [raiseHost_disabled u 3 hentry]
  rfl

theorem uncorrectable_out {s : State} (h : (s.hint 3).enable = false) (cw : Nat) : (uncorrectable s cw).out = s.out := by
  unfold uncorrectable
  extract_lets l u v
  have hentry : (v.hint 3).enable = false := by
    simp only [v, u, State.hint, State.modChan_hostint, State.modPool_hostint]
    exact h
  rw [queueRepair_out, logStored_out hentry]
  simp only [v, u, State.modChan_out, State.modPool_out]

/-! ### A read by its class (R196, R205, R230) -/

/-- Data without an error decodes as it is (R195). -/
theorem decodeCw_zero (d : BitVec 512) (p : Bool) : decodeCw d p 0 = (.clean, if p then 0 else d, p) := by
  have hclean : ∀ w : CwBits, w = 0 → decodeErr w = .clean := fun w hw => by rw [decodeErr, if_pos hw]
  rw [decodeCw, hclean _ rfl]
  cases p <;> simp

theorem stackRead_clean {s : State} {cw : Nat} (inner : Bool) (h : (s.pool.decode cw).1 = .clean) : stackRead s cw inner =
    (if inner then innerCorrected (countMoved s (s.chOf cw) 0 64) cw else countMoved s (s.chOf cw) 0 64, (s.pool.decode cw).2) := by
  have hval : s.pool.decode cw = (.clean, (s.pool.decode cw).2) := Prod.ext h rfl
  unfold stackRead
  dsimp only
  rw [countMoved_pool, hval]

theorem stackRead_corrected {s : State} {cw : Nat} (inner : Bool) (h : (s.pool.decode cw).1 = .corrected) : stackRead s cw inner =
    (outerCorrected (countMoved s (s.chOf cw) 0 64) cw true, (s.pool.decode cw).2) := by
  have hval : s.pool.decode cw = (.corrected, (s.pool.decode cw).2) := Prod.ext h rfl
  unfold stackRead
  dsimp only
  rw [countMoved_pool, hval]

theorem stackRead_uncorrectable {s : State} {cw : Nat} (inner : Bool) (h : (s.pool.decode cw).1 = .uncorrectable) : stackRead s cw inner =
    (uncorrectable (countMoved s (s.chOf cw) 0 64) cw, 0, true) := by
  have hval : s.pool.decode cw = (.uncorrectable, (s.pool.decode cw).2) := Prod.ext h rfl
  unfold stackRead
  dsimp only
  rw [countMoved_pool, hval]

/-! ### MEMORY_READ (R196, R205, R230) -/

/-- Further bits in error change nothing but the errors of the pool. -/
theorem upsetCw_eq (s : State) (e : Nat × BitVec 576) : ∃ t, upsetCw s e = { s with pool := { s.pool with err := t } } := by
  unfold upsetCw
  split
  · exact ⟨s.pool.err, rfl⟩
  · exact ⟨_, rfl⟩

/-- A codeword in which further bits differ decodes with them (R196). -/
theorem upsetCw_decode (s : State) (cw : Nat) (err : BitVec 576) : (upsetCw s (cw, err)).pool.decode cw =
    decodeCw (s.pool.data cw) (Tab.get false s.pool.poison cw) (Tab.get 0 s.pool.err cw ^^^ err) := by
  unfold upsetCw
  split
  case isTrue h =>
    obtain rfl : err = 0 := h
    exact congrArg (decodeCw _ _) BitVec.xor_zero.symm
  case isFalse h => exact congrArg (decodeCw _ _) (Tab.get_set_self ..)

theorem memoryRead_next {cw : Nat} (h : okCw cw = true) (inner : Bool) (err : BitVec 576) (s : State) :
    exec (.memoryRead cw inner err) s = .next (doMemoryRead cw inner err s) := require_of h

theorem memoryWrite_next {cw : Nat} (h : okCw cw = true) (mask : BitVec 64) (data : BitVec 512) (s : State) :
    exec (.memoryWrite cw mask data) s = .next (doMemoryWrite cw mask data s) := require_of h

theorem doMemoryRead_shut {s : State} {cw : Nat} (h : s.poolServes cw = false) (inner : Bool) (err : BitVec 576) :
    doMemoryRead cw inner err s = s.send (.memData cw 0 true) := by
  unfold doMemoryRead ctrlRead
  simp only [h, Bool.false_eq_true, if_false, Bool.not_false, if_true]

section Serves
variable {s : State} {cw : Nat} (hserves : s.poolServes cw = true)
include hserves

theorem doMemoryRead_resident {x : AdderEntry} (h : s.adderEntry cw = some x) (inner : Bool) (err : BitVec 576) :
    (doMemoryRead cw inner err s).out = .memData cw x.data false :: s.out := by
  obtain ⟨t, ht⟩ := upsetCw_eq s (cw, err)
  have hserves' : (upsetCw s (cw, err)).poolServes cw = true := by rw [ht]; exact hserves
  have hentry : (upsetCw s (cw, err)).adderEntry cw = some x := by rw [ht]; exact h
  unfold doMemoryRead ctrlRead
  simp only [hserves, if_true, hserves', Bool.not_true, Bool.false_eq_true, if_false, hentry, State.send_out]
  rw [ht]

variable (hnone : s.adderEntry cw = none)
include hnone

/-- A codeword that is not resident is read in the stack, with the further errors. -/
theorem doMemoryRead_stack (inner : Bool) (err : BitVec 576) : ∃ t : State, (∃ e, t = { s with pool := { s.pool with err := e } }) ∧
    t.pool.decode cw = decodeCw (s.pool.data cw) (Tab.get false s.pool.poison cw) (Tab.get 0 s.pool.err cw ^^^ err) ∧
    doMemoryRead cw inner err s = (stackRead t cw inner).1.send (.memData cw (stackRead t cw inner).2.1 (stackRead t cw inner).2.2) := by
  obtain ⟨e, he⟩ := upsetCw_eq s (cw, err)
  have hserves' : (upsetCw s (cw, err)).poolServes cw = true := by rw [he]; exact hserves
  have hentry : (upsetCw s (cw, err)).adderEntry cw = none := by rw [he]; exact hnone
  refine ⟨upsetCw s (cw, err), ⟨e, he⟩, upsetCw_decode .., ?_⟩
  unfold doMemoryRead ctrlRead
  simp only [hserves, if_true, hserves', Bool.not_true, Bool.false_eq_true, if_false, hentry]

variable {err : BitVec 576} {d : CwClass × BitVec 512 × Bool}
  (hd : decodeCw (s.pool.data cw) (Tab.get false s.pool.poison cw) (Tab.get 0 s.pool.err cw ^^^ err) = d)
include hd

theorem doMemoryRead_clean (inner : Bool) (h : d.1 = .clean) :
    (doMemoryRead cw inner err s).out = .memData cw d.2.1 d.2.2 :: s.out ∧
      (doMemoryRead cw inner err s).pool.bytes = s.pool.bytes ∧ (doMemoryRead cw inner err s).pool.poison = s.pool.poison ∧
      (doMemoryRead cw inner err s).pool.ceTotal = s.pool.ceTotal + if inner then 1 else 0 := by
  obtain ⟨t, ⟨e, ht⟩, hdecode, hread⟩ := doMemoryRead_stack hserves hnone inner err
  rw [hread, stackRead_clean inner (by rw [hdecode, hd, h]), hdecode, hd, ht]
  cases inner <;> simp

theorem doMemoryRead_corrected (inner : Bool) (h : d.1 = .corrected) :
    (doMemoryRead cw inner err s).out = .memData cw d.2.1 d.2.2 :: s.out ∧
      (doMemoryRead cw inner err s).pool.bytes = s.pool.bytes ∧ (doMemoryRead cw inner err s).pool.corrective.contains cw = true ∧
      (doMemoryRead cw inner err s).pool.ceTotal = s.pool.ceTotal + 1 := by
  obtain ⟨t, ⟨e, ht⟩, hdecode, hread⟩ := doMemoryRead_stack hserves hnone inner err
  rw [hread, stackRead_corrected inner (by rw [hdecode, hd, h]), hdecode, hd, ht]
  by_cases hc : cw ∈ s.pool.corrective <;> simp [hc]

theorem doMemoryRead_uncorrectable (inner : Bool) (h : d.1 = .uncorrectable) (hint : (s.hint 3).enable = false) :
    (doMemoryRead cw inner err s).out = .memData cw 0 true :: s.out ∧
      Tab.get false (doMemoryRead cw inner err s).pool.poison cw = true ∧
      (doMemoryRead cw inner err s).pool.ueTotal = s.pool.ueTotal + 1 := by
  obtain ⟨t, ⟨e, ht⟩, hdecode, hread⟩ := doMemoryRead_stack hserves hnone inner err
  have hint' : ((countMoved t (t.chOf cw) 0 64).hint 3).enable = false := by
    rw [State.hint, countMoved_hostint, ht]
    exact hint
  rw [hread, stackRead_uncorrectable inner (by rw [hdecode, hd, h]), State.send_out, uncorrectable_out hint', State.send_pool,
    uncorrectable_pool, countMoved_out, countMoved_pool, ht]
  exact ⟨rfl, Tab.get_set_self .., rfl⟩

end Serves

/-! ### MEMORY_WRITE (R194, R197) -/

/-- A codeword written whole at a controller that serves, where the adder store holds no copy (R194). -/
theorem ctrlWrite_whole {s : State} {cw : Nat} (hserves : s.poolServes cw = true) (hnone : s.adderEntry cw = none) (data : BitVec 512) :
    ctrlWrite s cw (BitVec.allOnes 64) data = (countMoved (s.modPool fun p => p.put cw data false) (s.chOf cw) 1 64, false) := by
  have hmask : BitVec.allOnes 64 ≠ 0 := by decide
  unfold ctrlWrite
  simp only [hserves, Bool.not_true, Bool.false_eq_true, if_false, hmask, if_true, hnone]

/-- A part of a plain codeword written: the codeword is read, merged and written (R194). -/
theorem ctrlWrite_part {s : State} {cw : Nat} (hplain : PlainCw s cw) {mask : BitVec 64} (hmask : mask ≠ 0) (hpart : mask ≠ BitVec.allOnes 64)
    (data : BitVec 512) : (ctrlWrite s cw mask data).1.pool.bytes = (s.pool.put cw (mergeCw mask (s.pool.data cw) data) false).bytes ∧
      (ctrlWrite s cw mask data).1.out = s.out ∧ (ctrlWrite s cw mask data).2 = false := by
  obtain ⟨hserves, -, -, hnone, herr, hpoison⟩ := hplain
  have hclean : s.pool.decode cw = (.clean, s.pool.data cw, false) := by
    rw [Pool.decode, herr, hpoison, decodeCw_zero]
    rfl
  have hnone' : ∀ a, (bump s a 1).adderEntry cw = none := fun a => by
    rw [State.adderEntry, State.chan, bump_chans, State.chOf, State.locAt, bump_pool]
    exact hnone
  have hclean' : ∀ a, ((bump s a 1).takeFree.pool.decode cw) = (.clean, s.pool.data cw, false) := fun a => by
    rw [State.takeFree_pool, bump_pool, hclean]
  unfold ctrlWrite
  simp only [hserves, Bool.not_true, Bool.false_eq_true, if_false, hmask, hpart, hnone', stackRead_clean _ (congrArg Prod.fst (hclean' _)), hclean']
  split <;> simp [Pool.put]

/-- A write of a plain codeword is acknowledged, and leaves the bytes that the mask selects from the new data, the others from the old
(R194). -/
theorem doMemoryWrite_plain {s : State} {cw : Nat} (hplain : PlainCw s cw) {mask : BitVec 64} (hmask : mask ≠ 0) (data : BitVec 512) :
    (doMemoryWrite cw mask data s).out = .memAck cw false :: s.out ∧
      ∃ d, (doMemoryWrite cw mask data s).pool.bytes = (s.pool.put cw d false).bytes ∧
        ∀ i, i < 64 → cwByte d i = if mask.getLsbD i = true then cwByte data i else cwByte (s.pool.data cw) i := by
  by_cases hall : mask = BitVec.allOnes 64
  case pos =>
    obtain ⟨hserves, -, -, hnone, -⟩ := hplain
    subst hall
    rw [doMemoryWrite, ctrlWrite_whole hserves hnone]
    refine ⟨by simp, data, by simp, fun i hi => ?_⟩
    rw [BitVec.getLsbD_allOnes, decide_eq_true hi, if_pos rfl]
  case neg =>
    obtain ⟨hbytes, hout, hack⟩ := ctrlWrite_part hplain hmask hall data
    refine ⟨?_, mergeCw mask (s.pool.data cw) data, hbytes, fun i hi => cwByte_mergeCw mask _ data hi⟩
    rw [doMemoryWrite, State.send_out, hout, hack]

/-! ### CODEWORD_CORRECTIVE_WRITE (R196) -/

theorem doCodewordCorrectiveWrite_due {s : State} {cw : Nat} (hdue : s.pool.corrective.contains cw = true) (hserves : s.poolServes cw = true) :
    (doCodewordCorrectiveWrite cw s).pool = s.pool.put cw (s.pool.decode cw).2.1 (s.pool.decode cw).2.2 := by
  unfold doCodewordCorrectiveWrite
  simp only [hdue, hserves, Bool.not_true, Bool.false_eq_true, or_self, if_false, countMoved_pool, State.modPool_pool]

/-- Settles O28: the reads by where the codeword is and how it decodes, the writes by the bytes of the codeword that they leave. -/
theorem controllerAccesses : Obligations.ControllerAccesses := by
  unfold Obligations.ControllerAccesses
  refine ⟨fun cw ch s hcw hch => ⟨fun inner err => ?reads, fun mask data hplain hmask => ?write, fun hdue hserves => ?corrective,
    fun hs0 => ?refresh, ?calibration⟩, fun cw data s hcw hserves hnone => ?whole⟩
  case reads =>
    extract_lets e d
    have hexec := memoryRead_next hcw inner err s
    refine ⟨fun hshut => ?_, fun hserves => ⟨fun x hx => .of_eq hexec (doMemoryRead_resident hserves hx inner err), fun hnone =>
      ⟨fun he hpoison hinner => ?_, fun hclean => ?_, fun hcorrected => .of_eq hexec (doMemoryRead_corrected hserves hnone rfl inner hcorrected),
        fun huncorrectable hint => .of_eq hexec (doMemoryRead_uncorrectable hserves hnone rfl inner huncorrectable hint)⟩⟩⟩
    · rw [hexec, doMemoryRead_shut hshut]
    · have hd : decodeCw (s.pool.data cw) (Tab.get false s.pool.poison cw) e = (.clean, s.pool.data cw, false) := by
        rw [he, hpoison, decodeCw_zero]
        rfl
      obtain ⟨hout, hbytes, hpoison', -⟩ := doMemoryRead_clean hserves hnone hd inner rfl
      exact .of_eq hexec ⟨hout, hbytes, hpoison'⟩
    · obtain ⟨hout, hbytes, -, hcount⟩ := doMemoryRead_clean hserves hnone rfl inner hclean
      exact .of_eq hexec ⟨hout, hbytes, hcount⟩
  case write =>
    obtain ⟨hout, d, hbytes, hd⟩ := doMemoryWrite_plain hplain hmask data
    refine .of_eq (memoryWrite_next hcw mask data s) ⟨hout, fun i hi => ?_, fun a ha => ?_⟩
    · rw [hbytes, Pool.byte_put_inside _ _ _ hi, hd i hi, cwByte_data _ _ hi]
      rfl
    · rw [hbytes, Pool.byte_put_outside _ _ _ _ ha]
  case corrective =>
    have hpool := doCodewordCorrectiveWrite_due hdue hserves
    have hexec : exec (.codewordCorrectiveWrite cw) s = .next (doCodewordCorrectiveWrite cw s) := require_of hcw
    refine .of_eq hexec ?_
    rw [hpool]
    refine ⟨fun hgood i hi => ?_, Pool.put_poison .., Pool.put_err .., Pool.put_corrective .., fun a ha => Pool.byte_put_outside _ _ _ _ ha⟩
    rw [hgood, Pool.byte_put_inside _ _ _ hi]
    rfl
  case refresh =>
    have hexec : exec (.refresh ch) s = .next (doRefresh ch s) := require_of (okChan_of hch)
    rw [hexec, doRefresh, if_pos hs0]
  case calibration => exact require_of (s := doHbmCalibration ch s) (okChan_of hch)
  case whole =>
    refine .of_eq (memoryWrite_next hcw _ data s) ?_
    have hpool : (doMemoryWrite cw (BitVec.allOnes 64) data s).pool = s.pool.put cw data false := by
      rw [doMemoryWrite, ctrlWrite_whole hserves hnone]
      simp
    rw [hpool]
    exact ⟨fun i hi => Pool.byte_put_inside _ _ _ hi, fun a ha => Pool.byte_put_outside _ _ _ _ ha, Pool.put_poison .., Pool.put_err ..⟩

end Sys2Proof.Machine
end

section
/-!
PROOFS. The patrol scrub, row repair and the windows of the channels (R198–R202, R207).
-/

namespace Sys2Proof.Machine
open Sys2Proof

/-! ### PATROL_SCRUB (R198) -/

/-- A scrub finds a codeword of a pool without errors clean. -/
theorem scrubCw_flawless {s : State} (h : s.pool.err = []) (cw : Nat) (inner : Bool) :
    scrubCw s cw inner = if inner then innerCorrected s cw else s := by
  have hclass : (s.pool.decode cw).1 = .clean := by
    rw [Pool.decode, h]
    exact congrArg Prod.fst (decodeCw_zero ..)
  have hclean : s.pool.decode cw = (.clean, (s.pool.decode cw).2) := Prod.ext hclass rfl
  unfold scrubCw
  rw [hclean]

/-- A pool without errors that holds the codewords of another. -/
def Flawless (p : Pool) (s : State) : Prop := s.pool.err = [] ∧ s.pool.bytes = p.bytes ∧ s.pool.poison = p.poison

theorem Flawless.of_pool {p : Pool} {s u : State} (h : Flawless p s) (hu : u.pool = s.pool) : Flawless p u := by
  rw [Flawless, hu]
  exact h

theorem Flawless.scrubCw {p : Pool} {s : State} (h : Flawless p s) (cw : Nat) (inner : Bool) : Flawless p (scrubCw s cw inner) := by
  rw [scrubCw_flawless h.1]
  cases inner <;> exact h

/-- A state with or without new channels has the same pool. -/
theorem ite_chans_pool {c : Prop} [Decidable c] (s : State) (t : Tab Chan) : (if c then { s with chans := t } else s).pool = s.pool := by
  split <;> rfl

section PatrolScrub
variable {s : State} (hon : s.pool.scrubOn = true) (hready : s.poolReady = true) (hs0 : s.power.idle = .s0) (hop : s.opOf 0x0801 = none)
include hon hready hs0 hop

theorem patrolScrub_runs : ¬ ((!s.pool.scrubOn) = true ∨ (!s.poolReady) = true ∨ s.power.idle ≠ .s0 ∨ (s.opOf 0x0801).isSome = true) := by
  simp [hon, hready, hs0, hop]

/-- The scrub goes on to the next slot. -/
theorem doPatrolScrub_scrubPos (inner : List Nat) (errs : List (Nat × BitVec 576)) :
    (doPatrolScrub inner errs s).pool.scrubPos = (s.pool.scrubPos + 1) % 2 ^ 20 := by
  unfold doPatrolScrub
  rw [if_neg (patrolScrub_runs hon hready hs0 hop)]
  extract_lets q s₁ s₂ s₃ bad ind s₄ s₅ next s₆
  clear_value s₅
  rw [ite_chans_pool]
  rfl

/-- A scrub that meets no error changes no codeword. -/
theorem doPatrolScrub_flawless (inner : List Nat) (herr : s.pool.err = []) (hadder : ∀ c ∈ s.chans, c.2.adder = []) :
    Flawless s.pool (doPatrolScrub inner [] s) := by
  unfold doPatrolScrub
  rw [if_neg (patrolScrub_runs hon hready hs0 hop)]
  extract_lets q s₁ s₂ s₃ bad ind s₄ s₅ next s₆
  have hresident : (s.chans.flatMap fun c => (c.2.adder.filter fun e => s.inSlot q e.cw).map fun e => (c.1, e.cw)) = [] :=
    List.flatMap_eq_nil_iff.mpr fun c hc => by rw [hadder c hc]; rfl
  have h₁ : Flawless s.pool s₁ := by
    have hs₁ : s₁ = s := by simp only [s₁, hresident, forEach_nil]
    rw [hs₁]
    exact ⟨herr, rfl, rfl⟩
  clear_value s₁
  have h₂ : Flawless s.pool s₂ := forEach_keeps h₁ fun c _ u hu => hu.of_pool (by rw [bump_pool, countMoved_pool])
  clear_value s₂
  have h₃ : Flawless s.pool s₃ := by
    have hs₃ : s₃ = s₂ := by unfold s₃; rw [List.filter_nil, List.foldl_nil]
    rw [hs₃]
    exact h₂
  clear_value s₃
  have h₄ : Flawless s.pool s₄ := forEach_keeps h₃ fun cw _ u hu => hu.scrubCw cw _
  clear_value s₄
  have h₅ : Flawless s.pool s₅ := forEach_keeps h₄ fun cw _ u hu => hu.scrubCw cw _
  clear_value s₅
  rw [Flawless, ite_chans_pool, State.modPool_pool]
  exact h₅

end PatrolScrub

/-! ### ROW_REPAIR (R200, R201) -/

/-- What fixes the pages of the pool's rows, and the rows retired. -/
def Pool.rows (p : Pool) : List RowLoc × Bool × W64 := (p.retired, p.packageWide, p.key)

theorem retired_of_rows {p q : Pool} (h : q.rows = p.rows) : q.retired = p.retired := by
  obtain ⟨hretired, -⟩ : _ ∧ _ := by simpa only [Pool.rows, Prod.mk.injEq] using h
  exact hretired

theorem rowPage_of_rows {s u : State} (h : u.pool.rows = s.pool.rows) (r : RowLoc) : u.rowPage r = s.rowPage r := by
  obtain ⟨-, hmode, hkey⟩ : _ ∧ _ ∧ _ := by simpa only [Pool.rows, Prod.mk.injEq] using h
  rw [State.rowPage, State.rowPage, hmode, hkey]

theorem Pool.put_rows (p : Pool) (cw : Nat) (d : BitVec 512) (b : Bool) : (p.put cw d b).rows = p.rows := by
  simp only [Pool.rows, Pool.put]

@[simp] theorem adderEvict_rows (s : State) (ch cw : Nat) : (adderEvict s ch cw).pool.rows = s.pool.rows := by
  unfold adderEvict
  split
  · rfl
  · rw [countMoved_pool, State.modPool_pool, Pool.put_rows, State.modChan_pool]

@[simp] theorem outerCorrected_rows (s : State) (cw : Nat) (b : Bool) : (outerCorrected s cw b).pool.rows = s.pool.rows := by
  rw [outerCorrected_pool]
  rfl

@[simp] theorem scrubCw_rows (s : State) (cw : Nat) (inner : Bool) : (scrubCw s cw inner).pool.rows = s.pool.rows := by
  unfold scrubCw
  split
  · cases inner <;> rfl
  · exact outerCorrected_rows ..
  · split
    · rw [countMoved_pool, State.modPool_pool, Pool.put_rows, outerCorrected_rows]
    · simp only [uncorrectable_pool, Pool.rows, Pool.put]

@[simp] theorem recoverRow_rows (r : RowLoc) (s : State) : (recoverRow r s).pool.rows = s.pool.rows := by
  unfold recoverRow
  refine forEach_keeps (P := fun u => u.pool.rows = s.pool.rows) rfl fun cw _ u hu => ?_
  rw [countMoved_pool, State.modPool_pool, Pool.put_rows, scrubCw_rows, State.takeFree_pool, countMoved_pool, adderEvict_rows, hu]

/-- A row recovered, and out of its channel's queue. -/
def rowTaken (s : State) (ch : Nat) (r : RowLoc) (rest : List (RowLoc × Nat)) : State :=
  (recoverRow r s).modChan ch fun c => { c with repair := rest, rowErr := c.rowErr.filter fun e => e.1 != r }

theorem rowTaken_rows (s : State) (ch : Nat) (r : RowLoc) (rest : List (RowLoc × Nat)) : (rowTaken s ch r rest).pool.rows = s.pool.rows := by
  rw [rowTaken, State.modChan_pool, recoverRow_rows]

theorem rowTaken_repair (s : State) (ch : Nat) (r : RowLoc) (rest : List (RowLoc × Nat)) : ((rowTaken s ch r rest).chan ch).repair = rest := by
  rw [rowTaken, State.modChan_chan]

/-- A row substituted: repaired softly, and due for its hard repair. -/
def Pool.substituted (p : Pool) (r : RowLoc) : Pool :=
  { p with
    repaired := r :: p.repaired.filter (· != r)
    hardPending := r :: p.hardPending.filter (· != r)
    softKept := p.softKept.filter (· != r) }

section RowRepair
variable {s : State} {ch queued : Nat} {row : RowLoc} {rest : List (RowLoc × Nat)} (hqueue : (s.chan ch).repair = (row, queued) :: rest)
  (hready : s.poolReady = true) (htest : (s.chan ch).testOwner = false) (hdue : queued < s.tick.boundaries)
include hqueue hready htest hdue

/-- A row that is due is substituted where its bank has a spare row (R200). -/
theorem doRowRepair_spare : doRowRepair ch true s =
    logStored ((rowTaken s ch row rest).modPool (·.substituted row)) 0x0103 2 (diePier (locOfRow row).pier) (rowFields row) 3 (rowKey row) := by
  unfold doRowRepair
  rw [hqueue]
  dsimp only
  rw [if_neg (by simp [hready, htest, hdue]), if_pos rfl]
  rfl

/-- A row that is due is retired where its bank has no spare row and the list has room (R201). -/
theorem doRowRepair_retired (hroom : s.pool.retired.length < 4096) : doRowRepair ch false s =
    logStored ((rowTaken s ch row rest).modPool fun p => { p with retired := s.pool.retired ++ [row] }) 0x0104 3
      (diePier (locOfRow row).pier) [s.rowPage row] 2 (rowKey row) := by
  have hretired : (rowTaken s ch row rest).pool.retired = s.pool.retired := retired_of_rows (rowTaken_rows ..)
  have hpage : (rowTaken s ch row rest).rowPage row = s.rowPage row := rowPage_of_rows (rowTaken_rows ..) row
  unfold doRowRepair
  rw [hqueue]
  dsimp only
  rw [if_neg (by simp [hready, htest, hdue]), if_neg Bool.false_ne_true]
  change (if (rowTaken s ch row rest).pool.retired.length < 4096 then logStored ((rowTaken s ch row rest).modPool fun p =>
    { p with retired := p.retired ++ [row] }) 0x0104 3 (diePier (locOfRow row).pier) [(rowTaken s ch row rest).rowPage row] 2 (rowKey row)
    else _) = _
  rw [if_pos (by rw [hretired]; exact hroom), hpage, State.modPool, State.modPool, hretired]

end RowRepair

@[simp] theorem State.modPool_chan (s : State) (f : Pool → Pool) (c : Nat) : (s.modPool f).chan c = s.chan c := rfl

@[simp] theorem logStored_chan (s : State) (code cls die : Nat) (data : List Nat) (kind key c : Nat) :
    (logStored s code cls die data kind key).chan c = s.chan c := by
  have hchans : (logStored s code cls die data kind key).chans = s.chans := (logStored_le ..).same .chans rfl
  rw [State.chan, hchans]
  rfl

theorem logStored_last (s : State) (code cls die : Nat) (data : List Nat) (kind key : Nat) :
    ((logStored s code cls die data kind key).events.getLast?.map fun v => (v.code, v.data)) = some (code, data) := logEvent_last ..

/-! ### HOT_WINDOW_END (R207) -/

/-- Whether a channel that has moved `n` bytes is imbalanced, where its stack has moved `sum`. -/
def imbalanced (n sum : Nat) : Bool := decide (8 * sum ≤ 32 * n ∧ 8000000 ≤ n)

@[simp] theorem logEvent_chan (s : State) (code cls die : Nat) (data : List Nat) (c : Nat) : (logEvent s code cls die data).chan c = s.chan c := by
  have hchans : (logEvent s code cls die data).chans = s.chans := (logEvent_le ..).same .chans rfl
  rw [State.chan, hchans]
  rfl

theorem judgeHot_hot (ch n sum : Nat) (s : State) : ((judgeHot ch n sum s).chan ch).hot = imbalanced n sum := by
  unfold judgeHot
  rw [← Bool.decide_and]
  extract_lets hot
  split
  case isTrue h =>
    rw [logEvent_chan, State.modChan_chan]
    exact (Bool.and_eq_true_iff.mp h).1.symm
  case isFalse => rw [State.modChan_chan]; rfl

theorem judgeHot_chan_ne (n sum : Nat) (s : State) {ch c : Nat} (h : c ≠ ch) : (judgeHot ch n sum s).chan c = s.chan c := by
  unfold judgeHot
  extract_lets hot
  split
  · rw [logEvent_chan, State.modChan_chan_ne _ _ _ _ h]
  · exact State.modChan_chan_ne _ _ _ _ h

/-- A channel judged at the end of its window, and its new window. -/
def endWindow (x : Nat × Nat × Nat) (s : State) : State := (judgeHot x.1 x.2.1 x.2.2 s).modChan x.1 fun c => { c with window := 0 }

theorem endWindow_chan (x : Nat × Nat × Nat) (s : State) :
    ((endWindow x s).chan x.1).window = 0 ∧ ((endWindow x s).chan x.1).hot = imbalanced x.2.1 x.2.2 := by
  rw [endWindow, State.modChan_chan]
  exact ⟨rfl, judgeHot_hot ..⟩

theorem endWindow_chan_ne (x : Nat × Nat × Nat) (s : State) {c : Nat} (h : c ≠ x.1) : (endWindow x s).chan c = s.chan c := by
  rw [endWindow, State.modChan_chan_ne _ _ _ _ h, judgeHot_chan_ne _ _ _ h]

theorem endWindow_pool (x : Nat × Nat × Nat) (s : State) : (endWindow x s).pool = s.pool := (judgeHot_le ..).same .pool rfl

/-- Channels that are not judged stay as they are. -/
theorem forEach_endWindow_chan_ne {l : List (Nat × Nat × Nat)} {c : Nat} (h : c ∉ l.map Prod.fst) (s : State) :
    (forEach l endWindow s).chan c = s.chan c :=
  forEach_keeps (P := fun u => u.chan c = s.chan c) rfl fun x hx u hu => by
    rw [endWindow_chan_ne x u fun hc => h (by rw [hc]; exact List.mem_map_of_mem hx), hu]

/-- A channel that is judged once has a new window and is hot where it was imbalanced. -/
theorem forEach_endWindow_chan {l : List (Nat × Nat × Nat)} (hl : (l.map Prod.fst).Nodup) {x : Nat × Nat × Nat} (hx : x ∈ l) (s : State) :
    ((forEach l endWindow s).chan x.1).window = 0 ∧ ((forEach l endWindow s).chan x.1).hot = imbalanced x.2.1 x.2.2 := by
  induction l generalizing s with
  | nil => cases hx
  | cons y r ih =>
    obtain ⟨hy, hr⟩ := List.nodup_cons.mp hl
    rw [forEach_cons]
    rcases List.mem_cons.mp hx with rfl | hx
    · rw [forEach_endWindow_chan_ne hy]
      exact endWindow_chan ..
    · exact ih hr hx _

/-- The bytes that the stack of a channel has moved in the window. -/
def stackWindow (s : State) (ch : Nat) : Nat := (rangeFrom (ch / 32 * 32) 32).foldl (fun n i => n + (s.chan i).window) 0

theorem doHotWindowEnd_due {s : State} (hnum : s.tick.num.toNat % 1000 = 0) (hnew : s.tick.num ≠ s.pool.windowTick) : doHotWindowEnd s =
    forEach (s.chans.map fun e => (e.1, e.2.window, stackWindow s e.1)) endWindow
      (s.modPool fun p => { p with windowTick := s.tick.num }) := by
  unfold doHotWindowEnd
  rw [if_neg (by simp [hnum, hnew])]
  rfl

theorem doHotWindowEnd_windowTick {s : State} (hnum : s.tick.num.toNat % 1000 = 0) (hnew : s.tick.num ≠ s.pool.windowTick) :
    (doHotWindowEnd s).pool.windowTick = s.tick.num := by
  rw [doHotWindowEnd_due hnum hnew]
  exact forEach_keeps (P := fun u => u.pool.windowTick = s.tick.num) rfl fun x _ u hu => by rw [endWindow_pool, hu]

/-- A listed value of a table in canonical form is the one that reads back. -/
theorem Tab.get_of_mem {α : Type} [DecidableEq α] {d : α} {t : Tab α} (hwf : Tab.wf d t = true) {e : Nat × α} (he : e ∈ t) :
    Tab.get d t e.1 = e.2 := by
  obtain ⟨hrising, -⟩ : t.Pairwise (fun a b => a.1 < b.1) ∧ _ := by simpa only [Tab.wf, Bool.and_eq_true, decide_eq_true_eq] using hwf
  clear hwf
  induction t with
  | nil => cases he
  | cons x r ih =>
    obtain ⟨hx, hr⟩ := List.pairwise_cons.mp hrising
    rw [Tab.get]
    rcases List.mem_cons.mp he with rfl | he
    · exact if_pos rfl
    · rw [if_neg (hx e he).ne]
      exact ih he hr

/-- The end of a window that is due, for every channel. -/
theorem doHotWindowEnd_chan {s : State} (hnum : s.tick.num.toNat % 1000 = 0) (hnew : s.tick.num ≠ s.pool.windowTick)
    (hwf : Tab.wf {} s.chans = true) (c : Nat) : ((doHotWindowEnd s).chan c).window = 0 ∧ ((doHotWindowEnd s).chan c).hot =
      imbalanced (s.chan c).window (stackWindow s c) := by
  rw [doHotWindowEnd_due hnum hnew]
  generalize hu : (s.modPool fun p => { p with windowTick := s.tick.num }) = u
  have hchan : u.chan c = s.chan c := by rw [← hu]; rfl
  have hkeys : (s.chans.map fun e => (e.1, e.2.window, stackWindow s e.1)).map Prod.fst = s.chans.map Prod.fst := by
    rw [List.map_map]
    rfl
  have hrising : (s.chans.map Prod.fst).Nodup := by
    obtain ⟨hpair, -⟩ : s.chans.Pairwise (fun a b => a.1 < b.1) ∧ _ := by
      simpa only [Tab.wf, Bool.and_eq_true, decide_eq_true_eq] using hwf
    exact List.pairwise_map.mpr (hpair.imp fun h => h.ne)
  by_cases hc : c ∈ s.chans.map Prod.fst
  case pos =>
    obtain ⟨e, he, rfl⟩ := List.mem_map.mp hc
    have hval : s.chan e.1 = e.2 := Tab.get_of_mem hwf he
    rw [hval]
    exact forEach_endWindow_chan (by rw [hkeys]; exact hrising) (List.mem_map_of_mem (f := fun e => (e.1, e.2.window, stackWindow s e.1)) he) u
  case neg =>
    have hval : s.chan c = {} := Tab.get_of_not_mem ({} : Chan) s.chans c hc
    rw [forEach_endWindow_chan_ne (by rw [hkeys]; exact hc), hchan, hval]
    exact ⟨rfl, by simp [imbalanced]⟩

/-- Settles O29: the scrub by the codewords of a pool without errors, the repair by the row that it takes, the window's end by channels. -/
theorem scrubAndRepair : Obligations.ScrubAndRepair := by
  unfold Obligations.ScrubAndRepair
  intro s
  refine ⟨fun inner errs hon hready hs0 hop => ?scrub, fun ch row queued rest hch hqueue hready htest hdue => ?repair,
    fun c hc hnum hnew hwf => ?window⟩
  case scrub =>
    have hexec : exec (.patrolScrub inner errs) s = .next (doPatrolScrub inner errs s) := require_of rfl
    refine .of_eq hexec ⟨doPatrolScrub_scrubPos hon hready hs0 hop inner errs, fun herrs herr hadder => ?_⟩
    subst herrs
    obtain ⟨-, hbytes, hpoison⟩ := doPatrolScrub_flawless hon hready hs0 hop inner herr hadder
    exact ⟨hbytes, hpoison⟩
  case repair =>
    have hexec : ∀ spare, exec (.rowRepair ch spare) s = .next (doRowRepair ch spare s) := fun spare => require_of (okChan_of hch)
    refine ⟨.of_eq (hexec true) ?_, fun hroom => .of_eq (hexec false) ?_⟩
    · rw [doRowRepair_spare hqueue hready htest hdue]
      refine ⟨?_, ?_, ?_, ?_, logStored_last ..⟩
      · rw [logStored_chan, State.modPool_chan, rowTaken_repair]
      all_goals rw [logStored_pool]; simp [Pool.substituted]
    · rw [doRowRepair_retired hqueue hready htest hdue hroom]
      refine ⟨?_, ?_, logStored_last ..⟩
      · rw [logStored_chan, State.modPool_chan, rowTaken_repair]
      · rw [logStored_pool]
        rfl
  case window =>
    have hexec : exec .hotWindowEnd s = .next (doHotWindowEnd s) := require_of rfl
    obtain ⟨hwindow, hhot⟩ := doHotWindowEnd_chan hnum hnew hwf c
    exact .of_eq hexec ⟨hwindow, hhot, doHotWindowEnd_windowTick hnum hnew⟩

end Sys2Proof.Machine
end

section
/-!
PROOFS. What accepting and finishing a long operation leave (R338), and the start and the end of MEMORY_INIT (R204, R205).
-/

namespace Sys2Proof.Machine
open Sys2Proof

/-! ### Long operations (R338) -/

theorem replyIrq_ite_slot (s : State) (b : Bool) (c n : Nat) : (if b then replyIrq s c n else s).slot c n = s.slot c n := by
  split
  · exact slot_of_slots (replyIrq_slots ..) ..
  · rfl

/-- A command accepted as a long operation: its slot runs it, and shows that it is accepted. -/
theorem acceptLong_slot (s : State) (c n : Nat) (p : Picked) (punit total : Nat) (left : List Nat) :
    (acceptLong s c n p punit total left).slot c n =
      { s.slot c n with
        picked := none, running := some p,
        reply := { status := bsAccepted, long := true, handle := handleOf c n p.seq, punit := punit, total := total, opcode := p.opcode,
                   tag := p.tag, marker := 0xBE1D, seq := p.seq,
                   upd := if (s.slot c n).reply.seq = p.seq then (s.slot c n).reply.upd + 1 else 1 } } := by
  unfold acceptLong
  extract_lets h u v w
  have hslot : w.slot c n = v.slot c n := rfl
  rw [replyIrq_ite_slot, hslot]
  simp only [v, u, putReply, State.modSlot_slot]
  rfl

theorem acceptLong_ops (s : State) (c n : Nat) (p : Picked) (punit total : Nat) (left : List Nat) :
    (acceptLong s c n p punit total left).belul.ops =
      s.belul.ops ++ [⟨handleOf c n p.seq, c, n, p.opcode, punit, 0, total, left, none⟩] := by
  unfold acceptLong
  extract_lets h u v w
  have hw : w.belul.ops = s.belul.ops ++ [⟨h, c, n, p.opcode, punit, 0, total, left, none⟩] := rfl
  split
  · rw [replyIrq_ops, hw]
  · exact hw

/-- A long operation just accepted is in progress. -/
theorem acceptLong_accepted (s : State) (r : Req) (p : Picked) (punit total : Nat) (left : List Nat) :
    Accepted (acceptLong s r.client r.slot p punit total left) r p punit total := by
  have hop : ((acceptLong s r.client r.slot p punit total left).op (handleOf r.client r.slot p.seq)).isSome = true := by
    rw [State.op, acceptLong_ops]
    simp
  unfold Accepted
  rw [acceptLong_slot]
  exact ⟨rfl, rfl, rfl, rfl, rfl, rfl, hop⟩

theorem Accepted.of_belul {u v : State} {r : Req} {p : Picked} {punit total : Nat} (h : Accepted u r p punit total) (hv : v.belul = u.belul) :
    Accepted v r p punit total := by
  simpa only [Accepted, State.op, State.slot, hv] using h

/-- The end of a long operation whose data fits its slot changes nothing but the Belul interface and what its interrupt changes (R338). -/
theorem finishOp_fits_le (s : State) (h status : Nat) {d : List (Nat × Nat)} (hd : dataLen d ≤ 216) : Le 738755328 s (finishOp s h status d) := by
  have hlong : decide (216 < dataLen d) = false := decide_eq_false (by omega)
  unfold finishOp
  simp only [hlong, Bool.false_and, Bool.and_false, Bool.false_eq_true, if_false]
  split
  · exact Le.refl _ _
  · split
    · exact Le.next (State.modBelul_le ..) (by decide) (Le.refl _ _)
    · refine Le.ite (fun _ => Le.next (replyIrq_le ..) (by decide) ?_) (fun _ => ?_)
      all_goals
        refine Le.next (State.modSlot_le ..) (by decide) ?_
        refine Le.next (putReply_le ..) (by decide) ?_
        exact Le.next (State.modBelul_le ..) (by decide) (Le.refl _ _)

/-- A long operation that shows a position is over when its FINAL reply is given. -/
theorem ShownAt.finished {s v u : State} {o : LongOp} {pos : Nat} (h : ShownAt o pos v u) (hv : v.belul = s.belul) (status : Nat)
    {d : List (Nat × Nat)} (hd : dataLen d ≤ 216) : Finished s (finishOp u o.handle status d) o status d := by
  obtain ⟨⟨x, hx, hclient, hslot, -⟩, hrunning⟩ := h
  obtain ⟨hgone, hreply⟩ := finishOp_spec hx hclient hslot status hd
  refine ⟨hgone, fun hrun => ?_⟩
  have hrun' : (u.slot o.client o.slot).running.isSome = true := by
    rw [hrunning, State.slot, hv]
    exact hrun
  obtain ⟨hbusy, hstatus, hfinal, hdata, hhandle, -⟩ := hreply hrun'
  exact ⟨hstatus, hfinal, hdata, hhandle, hbusy⟩

theorem ShownAt.of_belul {o : LongOp} {pos : Nat} {s u v : State} (h : ShownAt o pos s u) (hv : v.belul = u.belul) : ShownAt o pos s v := by
  simpa only [ShownAt, State.op, State.slot, hv] using h

/-! ### The start of MEMORY_INIT (R204) -/

/-- What holds of every value of a table whose entries are replaced holds of what is read. -/
theorem keepTab_get {α : Type} [DecidableEq α] {d : α} {f : α → α} {P : α → Prop} (hd : P d) (hf : ∀ x, P (f x)) (t : Tab α) (k : Nat) :
    P (Tab.get d (keepTab d f t) k) := by
  induction t with
  | nil => exact hd
  | cons e r ih =>
    unfold keepTab at ih ⊢
    rw [List.filterMap_cons]
    split
    case h_1 => exact ih
    case h_2 b hb =>
      obtain rfl : (e.1, f e.2) = b := by simpa using (Option.ite_none_left_eq_some.mp hb).2
      rw [Tab.get]
      split
      · exact hf _
      · exact ih

/-- A hard repair, done or failed, takes its row from those that await one. -/
theorem hardRepair_hardPending (r : RowLoc) (s : State) : (hardRepair r s).pool.hardPending = s.pool.hardPending.filter (· != r) := by
  unfold hardRepair
  extract_lets ok u
  split <;> rfl

/-- After the hard repairs of all rows that await one, none does. -/
theorem forEach_hardRepair_hardPending {l : List RowLoc} {s : State} (h : ∀ r ∈ s.pool.hardPending, r ∈ l) :
    (forEach l hardRepair s).pool.hardPending = [] := by
  induction l generalizing s with
  | nil => exact List.eq_nil_iff_forall_not_mem.mpr fun r hr => absurd (h r hr) List.not_mem_nil
  | cons x xs ih =>
    refine ih fun r hr => ?_
    rw [hardRepair_hardPending, List.mem_filter] at hr
    exact (List.mem_cons.mp (h r hr.1)).resolve_left (by simpa using hr.2)

theorem forEach_hardRepair_le (l : List RowLoc) (s : State) : Le 134479880 s (forEach l hardRepair s) :=
  (Le.refl _ s).forEach fun _ _ hu => hu.then (hardRepair_le ..) (by decide)

/-- A pool whose MEMORY_INIT has started (R204): what it will be set to is noted, and its contents are lost. -/
structure Pool.Starting (p : Pool) (mode testKey : Bool) (rate : Nat) (key : W64) : Prop where
  st : p.st = .initialising
  mode : p.newMode = mode
  rate : p.newRate = rate
  testKey : p.newTestKey = testKey
  key : p.newKey = key
  bytes : p.bytes = []
  poison : p.poison = []
  err : p.err = []
  corrective : p.corrective = []
  hardPending : p.hardPending = []

theorem beginInit_pool (s : State) (mode testKey : Bool) (rate : Nat) (key : W64) :
    (beginInit s mode testKey rate key).pool.Starting mode testKey rate key := by
  unfold beginInit
  extract_lets u v
  rw [State.modPool_pool]
  exact ⟨rfl, rfl, rfl, rfl, rfl, rfl, rfl, rfl, rfl, forEach_hardRepair_hardPending fun _ h => h⟩

/-- The caches, the merging buffers and the adder stores lose their contents. -/
theorem beginInit_caches (s : State) (mode testKey : Bool) (rate : Nat) (key : W64) (k : Nat) :
    ((beginInit s mode testKey rate key).pier k).lines = [] ∧ ((beginInit s mode testKey rate key).pier k).merges = [] ∧
      ((beginInit s mode testKey rate key).chan k).adder = [] := by
  unfold beginInit
  extract_lets u v
  have hpiers : v.piers = keepTab {} (fun p => { p with lines := [], merges := [], fills := [] }) s.piers :=
    (forEach_hardRepair_le ..).same .piers rfl
  have hchans : v.chans = keepTab {} (fun c => { c with adder := [], rowErr := [] }) s.chans := (forEach_hardRepair_le ..).same .chans rfl
  rw [State.pier, State.modPool_piers, hpiers, State.modPool_chan, State.chan, hchans]
  exact ⟨keepTab_get (P := fun p : Pier => p.lines = []) rfl (fun _ => rfl) ..,
    keepTab_get (P := fun p : Pier => p.merges = []) rfl (fun _ => rfl) ..,
    keepTab_get (P := fun c : Chan => c.adder = []) rfl (fun _ => rfl) ..⟩

theorem doMemoryInit_accepted {r : Req} {p : Picked} {s : State} {mode rate : Nat} (h : Ready r 0x0301 p s) (hmode : mode < 2) (hrate : rate < 3)
    (hbusy : s.memBusy = false) (hidle : s.memoryIdle = true) (hfeature : mode = 1 → s.boot.features.getLsbD 4 = true) (testKey : Bool) (key : W64) :
    doMemoryInit r mode rate testKey key s =
      beginInit (acceptLong s r.client r.slot p 2 Config.poolBytes []) (mode == 1) testKey rate key := by
  refine command_ready h (firstBad_none.mpr ?_)
  simpa [hmode, hrate, hbusy, hidle] using hfeature

theorem memoryInit_next {r : Req} {op : Nat} {p : Picked} {s : State} (h : Ready r op p s) {mode rate : Nat} (hmode : mode < 2) (hrate : rate < 3)
    (testKey : Bool) (key : W64) : exec (.memoryInit r mode rate testKey key) s = .next (doMemoryInit r mode rate testKey key s) := by
  refine require_of ?_
  rw [okReq_eq, h.1, decide_eq_true (show mode < 256 by omega), decide_eq_true (show rate < 256 by omega)]
  rfl

theorem beginInit_accepted (s : State) (r : Req) (p : Picked) (mode testKey : Bool) (rate : Nat) (key : W64) :
    Accepted (beginInit (acceptLong s r.client r.slot p 2 Config.poolBytes []) mode testKey rate key) r p 2 Config.poolBytes :=
  (acceptLong_accepted ..).of_belul ((beginInit_le ..).same .belul rfl)

/-! ### The end of MEMORY_INIT (R204, R205) -/

theorem commitInit_pool (s : State) (rate : Nat) (key : W64) : (commitInit s rate key).pool =
    { s.pool with
      st := .ready, packageWide := s.pool.newMode, testKey := s.pool.newTestKey, rate := rate,
      key := if s.pool.newTestKey then s.pool.newKey else key, scrubPos := 0 } := by
  unfold commitInit
  exact (extendMeas_le ..).same .pool rfl

section InitEnds
variable {s : State} {o : LongOp} (hfirst : s.opOf 0x0301 = some o) (ho : s.op o.handle = some o) (hst : s.pool.st = .initialising)
include hfirst ho hst

theorem doMemoryInitComplete_ready (rate : Nat) (key : W64) :
    let reached := min rate (featureRate s (qualifiedRate s.pool.newRate))
    (doMemoryInitComplete rate none key s).pool = (commitInit s reached key).pool ∧
      Finished s (doMemoryInitComplete rate none key s) o bsCompleted [(1, reached), (1, bitNat (decide (reached < s.pool.newRate)))] := by
  intro reached
  have hbelul : (commitInit s reached key).belul = s.belul := (commitInit_le ..).same .belul rfl
  have hfirst' : (commitInit s reached key).opOf opMemoryInit = some o := by
    rw [State.opOf, hbelul]
    exact hfirst
  have ho' : (commitInit s reached key).op o.handle = some o := by
    rw [State.op, hbelul]
    exact ho
  have hfits : dataLen [(1, reached), (1, bitNat (decide (reached < s.pool.newRate)))] ≤ 216 := by simp [dataLen]
  have hend : doMemoryInitComplete rate none key s = finishOp (setPosition (commitInit s reached key) o.handle Config.poolBytes) o.handle
      bsCompleted [(1, reached), (1, bitNat (decide (reached < s.pool.newRate)))] := by
    unfold doMemoryInitComplete
    rw [if_neg (not_not_intro hst)]
    dsimp only
    rw [hfirst']
  have hfinish := (finishOp_fits_le (setPosition (commitInit s reached key) o.handle Config.poolBytes) o.handle bsCompleted hfits).same .pool rfl
  have hposition := (setPosition_le (commitInit s reached key) o.handle Config.poolBytes).same .pool rfl
  rw [hend]
  exact ⟨Eq.trans hfinish hposition, (setPosition_shown ho' _).finished hbelul _ hfits⟩

theorem doMemoryInitComplete_failed (rate st : Nat) (key : W64) :
    (doMemoryInitComplete rate (some st) key s).pool = { s.pool with st := .uninit } ∧
      Finished s (doMemoryInitComplete rate (some st) key s) o bsStackFailed [(4, st)] := by
  have hfits : dataLen [(4, st)] ≤ 216 := by simp [dataLen]
  have hend : doMemoryInitComplete rate (some st) key s =
      finishOp (s.modPool fun p => { p with st := .uninit }) o.handle bsStackFailed [(4, st)] := by
    have hfirst' : (s.modPool fun p => { p with st := .uninit }).opOf opMemoryInit = some o := hfirst
    unfold doMemoryInitComplete
    rw [if_neg (not_not_intro hst)]
    dsimp only
    rw [hfirst']
  rw [hend]
  exact ⟨(finishOp_fits_le _ _ _ hfits).same .pool rfl, finishOp_finished (s := s.modPool fun p => { p with st := .uninit }) ho _ hfits⟩

end InitEnds

end Sys2Proof.Machine
end

section
/-!
PROOFS. The channels of a test run (R208, R209), and with them the MEMORY commands.
-/

namespace Sys2Proof.Machine
open Sys2Proof

/-! ### Steps on channels -/

/-- A step on each listed channel whose effect on what is looked at of the channel is the same when it is taken twice. -/
theorem forEach_chan_idem {α : Type} (look : Chan → α) (effect : α → α) {step : Nat → State → State}
    (hself : ∀ c s, look ((step c s).chan c) = effect (look (s.chan c)))
    (hother : ∀ c c' s, c' ≠ c → look ((step c s).chan c') = look (s.chan c')) (hidem : ∀ x, effect (effect x) = effect x)
    (l : List Nat) (s : State) (c : Nat) :
    look ((forEach l step s).chan c) = if c ∈ l then effect (look (s.chan c)) else look (s.chan c) := by
  induction l generalizing s with
  | nil => rfl
  | cons x r ih =>
    rw [forEach_cons, ih]
    by_cases hx : c = x
    · subst hx
      simp [hself, hidem]
    · simp [hother x c s hx, hx]

/-- An idempotent function applied to each listed channel. -/
theorem forEach_modChan_chan {f : Chan → Chan} (hf : ∀ x, f (f x) = f x) (l : List Nat) (s : State) (c : Nat) :
    (forEach l (fun c s => s.modChan c f) s).chan c = if c ∈ l then f (s.chan c) else s.chan c :=
  forEach_chan_idem id f (fun c s => State.modChan_chan s c f) (fun c c' s h => State.modChan_chan_ne s c f c' h) hf l s c

theorem forEach_modChan_le (f : Chan → Chan) (l : List Nat) (s : State) : Le 16 s (forEach l (fun c s => s.modChan c f) s) :=
  (Le.refl _ s).forEach fun _ _ hu => hu.then (State.modChan_le ..) (by decide)

theorem mem_maskBits {w m i : Nat} : i ∈ maskBits w m ↔ i < w ∧ m.testBit i = true := by
  rw [maskBits, List.mem_filter, mem_rangeFrom, Nat.zero_add, and_iff_right (Nat.zero_le i)]

/-! ### MEM_TRAFFIC (R209) -/

/-- A channel whose test run starts. -/
def Chan.started (c : Chan) : Chan :=
  { c with testOwner := true, tgRun := true, tgDone := false, tgErrors := 0, tgFirst := 0, tgSeedRun := c.tgseed, tgLenRun := c.tglen }

/-- MEM_TRAFFIC accepted, and the named channels started. -/
def trafficStarted (r : Req) (p : Picked) (mask : BitVec 512) (s : State) : State :=
  forEach (maskBits 512 mask.toNat) (fun c s => s.modChan c Chan.started)
    (acceptLong s r.client r.slot p 6 (maskBits 512 mask.toNat).length (maskBits 512 mask.toNat))

theorem doMemTraffic_accepted {r : Req} {p : Picked} {s : State} (h : Ready r 0x0801 p s) (hbusy : s.memBusy = false)
    (hidle : s.memoryIdle = true) (mask : BitVec 512) : doMemTraffic r mask s =
      if maskBits 512 mask.toNat = [] then finishOp (trafficStarted r p mask s) (handleOf r.client r.slot p.seq) bsCompleted [(4, 0)]
      else trafficStarted r p mask s :=
  command_ready h (firstBad_none.mpr (by simp [hbusy, hidle]))

theorem trafficStarted_belul (r : Req) (p : Picked) (mask : BitVec 512) (s : State) : (trafficStarted r p mask s).belul =
    (acceptLong s r.client r.slot p 6 (maskBits 512 mask.toNat).length (maskBits 512 mask.toNat)).belul :=
  (forEach_modChan_le ..).same .belul rfl

theorem trafficStarted_chan (r : Req) (p : Picked) (mask : BitVec 512) (s : State) {c : Nat} (hc : c < 512) :
    (trafficStarted r p mask s).chan c = if mask.getLsbD c = true then (s.chan c).started else s.chan c := by
  have hchans : (acceptLong s r.client r.slot p 6 (maskBits 512 mask.toNat).length (maskBits 512 mask.toNat)).chans = s.chans :=
    (acceptLong_le ..).same .chans rfl
  have hmem : c ∈ maskBits 512 mask.toNat ↔ mask.getLsbD c = true := by
    rw [mem_maskBits, BitVec.testBit_toNat]
    exact and_iff_right hc
  rw [trafficStarted, forEach_modChan_chan (f := Chan.started) fun _ => rfl, State.chan, hchans]
  simp only [hmem]
  rfl

theorem maskBits_eq_nil {mask : BitVec 512} : maskBits 512 mask.toNat = [] ↔ mask = 0 := by
  constructor
  · intro h
    refine BitVec.eq_of_getLsbD_eq fun i hi => ?_
    have hnot : i ∉ maskBits 512 mask.toNat := by
      rw [h]
      exact List.not_mem_nil
    rw [mem_maskBits, BitVec.testBit_toNat] at hnot
    refine Eq.trans ?_ BitVec.getLsbD_zero.symm
    exact Bool.eq_false_iff.mpr fun hbit => hnot ⟨hi, hbit⟩
  · rintro rfl
    refine List.eq_nil_iff_forall_not_mem.mpr fun i hi => ?_
    obtain ⟨-, hbit⟩ := mem_maskBits.mp hi
    rw [BitVec.testBit_toNat] at hbit
    exact Bool.false_ne_true (BitVec.getLsbD_zero.symm.trans hbit)

/-- The FINAL reply of a long operation whose slot runs it and whose data fits the slot (R338). -/
theorem finishOp_slot {s : State} {h : Nat} {o : LongOp} {p : Picked} (ho : s.op h = some o) (hrun : (s.slot o.client o.slot).running = some p)
    (status : Nat) {d : List (Nat × Nat)} (hd : dataLen d ≤ 216) : (finishOp s h status d).slot o.client o.slot =
      { s.slot o.client o.slot with
        busy := false, running := none,
        reply := { status := status, long := true, final := true, handle := h, punit := o.punit, position := o.position, total := o.total,
                   rdlen := dataLen d, rbuf := false, data := d, opcode := p.opcode, tag := p.tag, marker := 0xBE1D, seq := p.seq,
                   upd := if (s.slot o.client o.slot).reply.seq = p.seq then (s.slot o.client o.slot).reply.upd + 1 else 1 } } := by
  have hlong : decide (216 < dataLen d) = false := decide_eq_false (by omega)
  have hslot : (s.modBelul fun b => { b with ops := b.ops.filter fun o => o.handle != h }).slot o.client o.slot = s.slot o.client o.slot := rfl
  unfold finishOp
  rw [ho]
  dsimp only
  rw [hslot, hrun]
  simp only [hlong, Bool.false_and, Bool.and_false, Bool.false_eq_true, if_false, withData_of_fits _ hd, replyIrq_ite_slot, putReply,
    State.modSlot_slot, hslot]

/-- MEM_TRAFFIC of no channel is over at once (R209). -/
theorem doMemTraffic_none {r : Req} {p : Picked} {s : State} (h : Ready r 0x0801 p s) (hbusy : s.memBusy = false) (hidle : s.memoryIdle = true)
    (hnone : s.op (handleOf r.client r.slot p.seq) = none) :
    (doMemTraffic r 0 s).op (handleOf r.client r.slot p.seq) = none ∧ (doMemTraffic r 0 s).chans = s.chans ∧
      (let x := ((doMemTraffic r 0 s).slot r.client r.slot).reply
       x.status = 0x0002 ∧ x.final = true ∧ x.data = [(4, 0)] ∧ x.total = 0) := by
  have hnil : maskBits 512 (0 : BitVec 512).toNat = [] := maskBits_eq_nil.mpr rfl
  have hend : doMemTraffic r 0 s =
      finishOp (acceptLong s r.client r.slot p 6 0 []) (handleOf r.client r.slot p.seq) bsCompleted [(4, 0)] := by
    rw [doMemTraffic_accepted h hbusy hidle, if_pos hnil, trafficStarted, hnil, forEach_nil, List.length_nil]
  generalize hv : acceptLong s r.client r.slot p 6 0 [] = v at hend
  have hfits : dataLen [(4, 0)] ≤ 216 := by decide
  let o : LongOp := ⟨handleOf r.client r.slot p.seq, r.client, r.slot, p.opcode, 6, 0, 0, [], none⟩
  have hop : v.op o.handle = some o := by
    rw [← hv, State.op, acceptLong_ops, List.find?_append, show s.belul.ops.find? _ = none from hnone]
    simp [o]
  have hrun : (v.slot r.client r.slot).running = some p := by rw [← hv, acceptLong_slot]
  have hchans : v.chans = s.chans := by
    rw [← hv]
    exact (acceptLong_le ..).same .chans rfl
  rw [hend]
  have hgone := (finishOp_spec (o := o) hop rfl rfl bsCompleted hfits).1
  have hkept : (finishOp v (handleOf r.client r.slot p.seq) bsCompleted [(4, 0)]).chans = v.chans := (finishOp_fits_le v _ _ hfits).same .chans rfl
  refine ⟨hgone, hkept.trans hchans, ?_⟩
  rw [finishOp_slot hop hrun _ hfits]
  exact ⟨rfl, rfl, rfl, rfl⟩

/-! ### What a run leaves of the channels (R208) -/

/-- What a channel shows of its test run: whether it runs, whom the channel belongs to, and whether the last run is done. -/
def Chan.run (c : Chan) : Bool × Bool × Bool := (c.tgRun, c.testOwner, c.tgDone)

/-- Every channel shows the same of its test run. -/
structure SameRuns (s u : State) : Prop where
  run : ∀ c, (u.chan c).run = (s.chan c).run

theorem SameRuns.refl (s : State) : SameRuns s s := ⟨fun _ => rfl⟩

theorem SameRuns.trans {s u v : State} (h : SameRuns s u) (g : SameRuns u v) : SameRuns s v := ⟨fun c => (g.run c).trans (h.run c)⟩

theorem SameRuns.of_chans {s u : State} (h : u.chans = s.chans) : SameRuns s u := ⟨fun c => by rw [State.chan, h]; rfl⟩

theorem SameRuns.modChan {s u : State} (h : SameRuns s u) (ch : Nat) {f : Chan → Chan} (hf : ∀ x, (f x).run = x.run) :
    SameRuns s (u.modChan ch f) := by
  refine ⟨fun c => ?_⟩
  by_cases hc : c = ch
  · rw [hc, State.modChan_chan, hf, h.run]
  · rw [State.modChan_chan_ne _ _ _ _ hc, h.run]

theorem countMoved_sameRuns (s : State) (ch i n : Nat) : SameRuns s (countMoved s ch i n) := by
  unfold countMoved
  extract_lets acts u waits v
  have hv : SameRuns s v := .of_chans (by simp only [v, u, bump_chans, State.takeFree_chans])
  refine SameRuns.trans (hv.modChan ch fun _ => ?_) (.of_chans (bump_chans ..))
  rfl

theorem queueRepair_sameRuns (s : State) (r : RowLoc) : SameRuns s (queueRepair s r) := by
  unfold queueRepair
  split
  · exact .refl s
  · refine (SameRuns.refl s).modChan _ fun x => ?_
    split <;> rfl

theorem noteRow_sameRuns (s : State) (r : RowLoc) : SameRuns s (noteRow s r) := by
  unfold noteRow
  extract_lets c n u
  have hu : SameRuns s u := (SameRuns.refl s).modChan _ fun _ => rfl
  split
  · exact hu.trans (queueRepair_sameRuns ..)
  · exact hu

theorem innerCorrected_sameRuns (s : State) (cw : Nat) : SameRuns s (innerCorrected s cw) := by
  unfold innerCorrected
  refine SameRuns.modChan (.of_chans (State.modPool_chans ..)) _ fun _ => ?_
  rfl

theorem outerCorrected_sameRuns (s : State) (cw : Nat) (b : Bool) : SameRuns s (outerCorrected s cw b) := by
  unfold outerCorrected
  extract_lets l u v
  have hu : SameRuns s u := .of_chans (State.modPool_chans ..)
  have hv : SameRuns s v := hu.modChan _ fun _ => rfl
  exact hv.trans (noteRow_sameRuns ..)

theorem upsetCw_sameRuns (s : State) (e : Nat × BitVec 576) : SameRuns s (upsetCw s e) := .of_chans ((upsetCw_le s e).same .chans rfl)

theorem SameRuns.foldl {α β : Type} {s : State} (look : β → State) {f : β → α → β} (hf : ∀ b a, SameRuns (look b) (look (f b a))) (l : List α)
    {b : β} (h : SameRuns s (look b)) : SameRuns s (look (l.foldl f b)) := by
  induction l generalizing b with
  | nil => exact h
  | cons a r ih => exact ih (h.trans (hf b a))

theorem tgPut_sameRuns (s : State) (ch : Nat) (raw : Bool) (x : Nat × BitVec 64 × BitVec 512) : SameRuns s (tgPut s ch raw x) := by
  unfold tgPut
  extract_lets old base d u
  split
  · exact .refl s
  · have hu : SameRuns s u := .of_chans (State.modPool_chans ..)
    refine SameRuns.trans ?_ (countMoved_sameRuns ..)
    split
    · exact hu.trans (upsetCw_sameRuns ..)
    · exact hu

theorem tgGet_sameRuns (r : TgRun) (ch : Nat) (raw : Bool) (x : Nat × BitVec 64 × BitVec 512) : SameRuns r.s (tgGet r ch raw x).1.s := by
  unfold tgGet
  extract_lets u v r' inner w
  have hu : SameRuns r.s u := .foldl id upsetCw_sameRuns _ (.refl r.s)
  have hv : SameRuns r.s v := hu.trans (countMoved_sameRuns ..)
  have hw : SameRuns r.s w := hv.trans (.of_chans rfl)
  split
  · exact hv
  · split
    · dsimp only
      split
      · exact hw.trans (innerCorrected_sameRuns ..)
      · exact hw
    · exact hw.trans (outerCorrected_sameRuns ..)
    · dsimp only
      refine SameRuns.modChan (hw.trans (.of_chans (State.modPool_chans ..))) ch fun _ => ?_
      rfl

theorem tgAccess_sameRuns (ch ctl seed : Nat) (a : TgAcc) (r : TgRun) (pc : Nat) : SameRuns r.s (tgAccess ch ctl seed a r pc).s := by
  unfold tgAccess
  extract_lets at_ n sector raw cws x
  split
  · change SameRuns r.s (id (cws.foldl (fun s x => tgPut s ch raw x) r.s))
    exact SameRuns.foldl id (fun u z => tgPut_sameRuns u ch raw z) cws (.refl r.s)
  · have hx : SameRuns r.s x.1.s := by
      refine SameRuns.foldl (fun y : TgRun × Option Nat => y.1.s) (fun y z => ?_) cws (.refl r.s)
      exact tgGet_sameRuns y.1 ch raw z
    split <;> exact hx

/-- The run of a channel leaves what every channel shows of its run, until the controller ends it. -/
theorem tgRunChan_sameRuns (s : State) (ch limit : Nat) (errs : List (Nat × BitVec 576)) : SameRuns s (tgRunChan s ch limit errs) := by
  unfold tgRunChan
  extract_lets c ctl l r
  have hr : SameRuns s r.s := SameRuns.foldl TgRun.s
    (fun b a => SameRuns.foldl TgRun.s (fun b' pc => tgAccess_sameRuns ch ctl c.tgSeedRun.toNat a b' pc) _ (.refl b.s)) l (.refl s)
  exact hr.modChan ch fun _ => rfl

/-! ### MEM_TRAFFIC_COMPLETE (R208, R209) -/

/-- A channel runs to the end of its test, if it has one under way. -/
def finishRun (errs : List (Nat × BitVec 576)) (c : Nat) (s : State) : State :=
  if (s.chan c).tgRun then (tgRunChan s c (2 ^ 33) errs).modChan c fun c => { c with tgRun := false, tgDone := true } else s

/-- What a channel shows once its run is over. -/
def runOver (x : Bool × Bool × Bool) : Bool × Bool × Bool := if x.1 then (false, x.2.1, true) else x

theorem runOver_idem (x : Bool × Bool × Bool) : runOver (runOver x) = runOver x := by
  obtain ⟨running, owner, done⟩ := x
  cases running <;> rfl

/-- A run that is over does not run on, and is done if it ran or was done. -/
theorem runOver_shows (x : Bool × Bool × Bool) : (runOver x).1 = false ∧ (runOver x).2.2 = (x.1 || x.2.2) := by
  obtain ⟨running, owner, done⟩ := x
  cases running <;> exact ⟨rfl, rfl⟩

theorem finishRun_run (errs : List (Nat × BitVec 576)) (c : Nat) (s : State) : ((finishRun errs c s).chan c).run = runOver (s.chan c).run := by
  have hkept := (tgRunChan_sameRuns s c (2 ^ 33) errs).run c
  unfold finishRun
  split
  case isTrue h =>
    simp only [Chan.run, Prod.mk.injEq] at hkept
    obtain ⟨-, howner, -⟩ := hkept
    rw [State.modChan_chan]
    simp only [Chan.run, runOver, h, if_true, howner]
  case isFalse h => simp only [Chan.run, runOver, h, if_false, Bool.false_eq_true]

theorem finishRun_run_ne (errs : List (Nat × BitVec 576)) {c c' : Nat} (s : State) (h : c' ≠ c) :
    ((finishRun errs c s).chan c').run = (s.chan c').run := by
  unfold finishRun
  split
  · rw [State.modChan_chan_ne _ _ _ _ h]
    exact (tgRunChan_sameRuns s c (2 ^ 33) errs).run c'
  · rfl

theorem finishRun_le (errs : List (Nat × BitVec 576)) (c : Nat) (s : State) : Le 134742040 s (finishRun errs c s) :=
  Le.ite (fun _ => (tgRunChan_le ..).then (State.modChan_le ..) (by decide)) fun _ => Le.refl _ _

/-- The named channels that have finished run to their end. -/
def runsFinished (chs : List Nat) (errs : List (Nat × BitVec 576)) (o : LongOp) (s : State) : State :=
  forEach (chs.filter fun c => o.left.contains c) (finishRun errs) s

theorem runsFinished_run (chs : List Nat) (errs : List (Nat × BitVec 576)) {o : LongOp} (s : State) {c : Nat} (hc : c ∈ o.left) :
    ((runsFinished chs errs o s).chan c).run = if c ∈ chs then runOver (s.chan c).run else (s.chan c).run := by
  rw [runsFinished, forEach_chan_idem Chan.run runOver (finishRun_run errs) (fun _ _ s h => finishRun_run_ne errs s h) runOver_idem]
  simp [hc]

theorem runsFinished_belul (chs : List Nat) (errs : List (Nat × BitVec 576)) (o : LongOp) (s : State) :
    (runsFinished chs errs o s).belul = s.belul :=
  ((Le.refl 134742040 s).forEach fun _ _ hu => hu.then (finishRun_le ..) (by decide)).same .belul rfl

/-- The operation shows how many of its channels have finished. -/
def trafficProgress (chs : List Nat) (errs : List (Nat × BitVec 576)) (o : LongOp) (s : State) : State :=
  setPosition (runsFinished chs errs o s) o.handle (o.left.filter fun c => !((runsFinished chs errs o s).chan c).tgRun).length

theorem trafficProgress_chan (chs : List Nat) (errs : List (Nat × BitVec 576)) (o : LongOp) (s : State) (c : Nat) :
    (trafficProgress chs errs o s).chan c = (runsFinished chs errs o s).chan c := by
  have hchans : (trafficProgress chs errs o s).chans = (runsFinished chs errs o s).chans := (setPosition_le ..).same .chans rfl
  rw [State.chan, hchans]
  rfl

theorem trafficProgress_shown (chs : List Nat) (errs : List (Nat × BitVec 576)) {o : LongOp} {s : State} (ho : s.op o.handle = some o) :
    ShownAt o (o.left.filter fun c => !((runsFinished chs errs o s).chan c).tgRun).length (runsFinished chs errs o s)
      (trafficProgress chs errs o s) := by
  refine setPosition_shown ?_ _
  rw [State.op, runsFinished_belul]
  exact ho

/-- A channel that the foreground has back. -/
def Chan.released (c : Chan) : Chan := { c with testOwner := false, tgRun := false }

theorem endTraffic_chan (s : State) (chs : List Nat) (c : Nat) :
    (endTraffic s chs).chan c = if c ∈ chs then (s.chan c).released else s.chan c := by
  rw [← forEach_modChan_chan (f := Chan.released) (fun _ => rfl) chs s c]
  unfold endTraffic
  extract_lets u
  split <;> rfl

section TrafficEnds
variable {s : State} {o : LongOp} (hfirst : s.opOf 0x0801 = some o) {chs : List Nat} (errs : List (Nat × BitVec 576))
include hfirst

theorem doMemTrafficComplete_eq : doMemTrafficComplete chs errs s =
    if o.left.any fun c => ((trafficProgress chs errs o s).chan c).tgRun then trafficProgress chs errs o s
    else finishOp (endTraffic (trafficProgress chs errs o s) o.left) o.handle bsCompleted
      [(4, (o.left.filter fun c => ((trafficProgress chs errs o s).chan c).tgErrors != 0).length)] := by
  unfold doMemTrafficComplete
  rw [show s.opOf opMemTraffic = some o from hfirst]
  rfl

variable (ho : s.op o.handle = some o)
include ho

/-- With the last of its channels the operation ends, and the foreground has them back. -/
theorem doMemTrafficComplete_last (hall : ∀ c ∈ o.left, c ∈ chs) :
    let u := doMemTrafficComplete chs errs s
    (∀ c ∈ o.left, (u.chan c).tgRun = false ∧ (u.chan c).testOwner = false ∧ (u.chan c).tgDone = ((s.chan c).tgRun || (s.chan c).tgDone)) ∧
      Finished s u o bsCompleted [(4, (o.left.filter fun c => (u.chan c).tgErrors != 0).length)] := by
  intro u
  have hrun : ∀ c ∈ o.left, ((trafficProgress chs errs o s).chan c).run = runOver (s.chan c).run := fun c hc => by
    rw [trafficProgress_chan, runsFinished_run chs errs s hc, if_pos (hall c hc)]
  have hover : ∀ c ∈ o.left, ((trafficProgress chs errs o s).chan c).tgRun = false ∧
      ((trafficProgress chs errs o s).chan c).tgDone = ((s.chan c).tgRun || (s.chan c).tgDone) := fun c hc => by
    obtain ⟨hstill, hdone⟩ := runOver_shows (s.chan c).run
    rw [← hrun c hc] at hstill hdone
    exact ⟨hstill, hdone⟩
  have hnone : (o.left.any fun c => ((trafficProgress chs errs o s).chan c).tgRun) = false :=
    List.any_eq_false.mpr fun c hc => by rw [(hover c hc).1]; exact Bool.false_ne_true
  have hfits : ∀ n, dataLen [(4, n)] ≤ 216 := fun n => by simp [dataLen]
  have hu : u = finishOp (endTraffic (trafficProgress chs errs o s) o.left) o.handle bsCompleted
      [(4, (o.left.filter fun c => ((trafficProgress chs errs o s).chan c).tgErrors != 0).length)] :=
    (doMemTrafficComplete_eq hfirst errs).trans (if_neg (by rw [hnone]; exact Bool.false_ne_true))
  have hchan : ∀ c ∈ o.left, u.chan c = ((trafficProgress chs errs o s).chan c).released := fun c hc => by
    have hkept : u.chans = (endTraffic (trafficProgress chs errs o s) o.left).chans := by
      rw [hu]
      exact (finishOp_fits_le _ _ _ (hfits _)).same .chans rfl
    rw [State.chan, hkept]
    exact (endTraffic_chan ..).trans (if_pos hc)
  have hcount : (o.left.filter fun c => (u.chan c).tgErrors != 0) =
      o.left.filter fun c => ((trafficProgress chs errs o s).chan c).tgErrors != 0 :=
    List.filter_congr fun c hc => by rw [hchan c hc]; rfl
  refine ⟨fun c hc => ?_, ?_⟩
  · rw [hchan c hc]
    exact ⟨rfl, rfl, (hover c hc).2⟩
  · have hbelul : (endTraffic (trafficProgress chs errs o s) o.left).belul = (trafficProgress chs errs o s).belul :=
      (endTraffic_le ..).same .belul rfl
    rw [hcount, hu]
    exact ((trafficProgress_shown chs errs ho).of_belul hbelul).finished (runsFinished_belul ..) _ (hfits _)

/-- While one of its channels runs on, the operation does not end. -/
theorem doMemTrafficComplete_more (hmore : ∃ c ∈ o.left, c ∉ chs ∧ (s.chan c).tgRun = true) :
    let u := doMemTrafficComplete chs errs s
    (∀ c ∈ o.left, c ∈ chs → (u.chan c).tgRun = false) ∧ (∀ c ∈ o.left, c ∉ chs → (u.chan c).tgRun = (s.chan c).tgRun) ∧
      (u.op o.handle).map (·.position) = some (o.left.filter fun c => !(u.chan c).tgRun).length := by
  intro u
  have hrun : ∀ c ∈ o.left, ((trafficProgress chs errs o s).chan c).tgRun = if c ∈ chs then false else (s.chan c).tgRun := fun c hc => by
    have hc' := congrArg Prod.fst (runsFinished_run chs errs s hc)
    rw [trafficProgress_chan]
    refine hc'.trans ?_
    split
    · exact (runOver_shows _).1
    · rfl
  have hu : u = trafficProgress chs errs o s := by
    obtain ⟨c, hc, hout, hon⟩ := hmore
    have hany : (o.left.any fun c => ((trafficProgress chs errs o s).chan c).tgRun) = true :=
      List.any_eq_true.mpr ⟨c, hc, by rw [hrun c hc, if_neg hout, hon]⟩
    exact (doMemTrafficComplete_eq hfirst errs).trans (if_pos hany)
  rw [hu]
  refine ⟨fun c hc hin => (hrun c hc).trans (if_pos hin), fun c hc hout => (hrun c hc).trans (if_neg hout), ?_⟩
  obtain ⟨⟨x, hx, -, -, -, hposition⟩, -⟩ := trafficProgress_shown chs errs ho
  rw [hx, Option.map_some, hposition]
  simp only [trafficProgress_chan]

end TrafficEnds

/-! ### The commands -/

/-- Settles O30: the commands by the checks that they pass, the ends of MEMORY_INIT and MEM_TRAFFIC by how their operations end. -/
theorem memoryCommands : Obligations.MemoryCommands := by
  unfold Obligations.MemoryCommands
  refine ⟨fun r p s => ⟨fun mode rate testKey key hmode hrate hready hbusy hidle hwide hfeature => ?wide,
    fun rate testKey key hrate hready hbusy hidle => ?init, fun hready hbusy hidle => ?inUse, fun hready => ?status,
    fun buf hbuf hgood hready => ?retired, fun enable period hlow hhigh hready => ?scrub, fun mask hready hbusy hidle => ?traffic⟩,
    fun s o => ⟨fun hfirst ho hst => ?initEnds, fun hfirst ho chs errs hchs hleft => ?trafficEnds⟩⟩
  case wide =>
    refine .of_eq (memoryInit_next hready hmode hrate testKey key) ?_
    rw [doMemoryInit_accepted hready hmode hrate hbusy hidle fun _ => hfeature]
    have hpool := beginInit_pool (acceptLong s r.client r.slot p 2 Config.poolBytes []) (mode == 1) testKey rate key
    exact ⟨beginInit_accepted .., hpool.st, hpool.mode.trans (by rw [hwide]; rfl)⟩
  case init =>
    refine .of_eq (memoryInit_next hready Nat.two_pos hrate testKey key) ?_
    rw [doMemoryInit_accepted hready Nat.two_pos hrate hbusy hidle fun h => absurd h Nat.zero_ne_one]
    have hpool := beginInit_pool (acceptLong s r.client r.slot p 2 Config.poolBytes []) (0 == 1) testKey rate key
    have hcaches := beginInit_caches (acceptLong s r.client r.slot p 2 Config.poolBytes []) (0 == 1) testKey rate key
    exact ⟨beginInit_accepted .., hpool.st, hpool.mode, hpool.rate, hpool.testKey, hpool.key, hpool.bytes, hpool.poison, hpool.err,
      hpool.corrective, hpool.hardPending, (hcaches 0).1, (hcaches 3).2.1, (hcaches 511).2.2⟩
  case inUse =>
    rw [memoryInit_next hready Nat.two_pos (by decide)]
    refine congrArg _ ((command_refused hready (st := bsMemInUse) ?_).trans rfl)
    simp [hbusy, hidle, firstBad, ofParam, bsBadParam, bsBadAddress, bsBusy, bsUnsupported, bsMemInUse]
  case status =>
    have hexec : exec (.memoryStatus r) s = .next (doMemoryStatus r s) := require_of hready.1
    rw [hexec]
    exact congrArg _ (command_ready hready rfl)
  case retired =>
    have hexec : exec (.retiredList r buf) s = .next (doRetiredList r buf s) := require_of (by rw [okReq_eq, hready.1, decide_eq_true hbuf]; rfl)
    rw [hexec]
    exact congrArg _ (command_ready hready (firstBad_none.mpr (by simp [hgood])))
  case scrub =>
    have hexec : exec (.scrubSet r enable period) s = .next (doScrubSet r enable period s) :=
      require_of (by rw [okReq_eq, hready.1, decide_eq_true (show period < 256 by omega)]; rfl)
    rw [hexec]
    exact congrArg _ (command_ready hready (firstBad_none.mpr (by simp [hhigh, Nat.one_le_iff_ne_zero.mp hlow])))
  case traffic =>
    extract_lets h
    have hexec : exec (.memTraffic r mask) s = .next (doMemTraffic r mask s) := require_of hready.1
    refine ⟨fun hmask => .of_eq hexec ?_, fun hmask hnone => .of_eq hexec ?_⟩
    · rw [doMemTraffic_accepted hready hbusy hidle, if_neg (mt maskBits_eq_nil.mp hmask)]
      refine ⟨(acceptLong_accepted ..).of_belul (trafficStarted_belul ..), fun c hc => ?_⟩
      rw [trafficStarted_chan r p mask s hc]
      refine ⟨fun hon => ?_, fun hoff => ?_⟩
      · rw [if_pos hon]
        exact ⟨rfl, rfl, rfl, rfl, rfl, rfl, rfl, rfl⟩
      · rw [if_neg (by rw [hoff]; exact Bool.false_ne_true)]
    · subst hmask
      exact doMemTraffic_none hready hbusy hidle hnone
  case initEnds =>
    have hexec : ∀ rate failed key, rate < 3 → failed.all (fun st => decide (st < Config.hbmStacks)) = true →
        exec (.memoryInitComplete rate failed key) s = .next (doMemoryInitComplete rate failed key s) := fun rate failed key hrate hfailed =>
      require_of (by rw [decide_eq_true hrate, hfailed]; rfl)
    refine ⟨fun rate key hrate => ?_, fun rate st key hrate hstack => ?_⟩
    · obtain ⟨hpool, hend⟩ := doMemoryInitComplete_ready hfirst ho hst rate key
      refine .of_eq (hexec rate none key hrate rfl) ?_
      rw [hpool, commitInit_pool]
      exact ⟨rfl, rfl, rfl, rfl, rfl, rfl, rfl, hend⟩
    · exact .of_eq (hexec rate (some st) key hrate (decide_eq_true hstack)) (doMemoryInitComplete_failed hfirst ho hst rate st key)
  case trafficEnds =>
    have hexec : exec (.memTrafficComplete chs errs) s = .next (doMemTrafficComplete chs errs s) :=
      require_of (List.all_eq_true.mpr fun c hc => okChan_of (hchs c hc))
    exact ⟨fun hall => .of_eq hexec (doMemTrafficComplete_last hfirst errs ho hall),
      fun hmore => .of_eq hexec (doMemTrafficComplete_more hfirst errs ho hmore)⟩

end Sys2Proof.Machine
end

section
/-!
PROOFS. The range engines of the piers (R221–R224): what the work on a line leaves of the engines and of the Belul interface, how far an engine
comes, and the start and the end of CACHE_RANGE.
-/

namespace Sys2Proof.Machine
open Sys2Proof

/-! ### Piers after an operation -/

/-- An operation whose mask lacks the piers leaves every pier as it was. -/
theorem Le.pier {m : Nat} {s u : State} (h : Le m s u) (hm : m.testBit 5 = false) (p : Nat) : u.pier p = s.pier p := by
  have hpiers : u.piers = s.piers := h.same .piers hm
  rw [State.pier, State.pier, hpiers]

@[simp] theorem bump_pier (s : State) (a n p : Nat) : (bump s a n).pier p = s.pier p := (bump_le s a n).pier rfl p

/-- A function applied to one pier, at each pier. -/
theorem State.modPier_pier_ite (s : State) (p : Nat) (f : Pier → Pier) (j : Nat) :
    (s.modPier p f).pier j = if j = p then f (s.pier j) else s.pier j := by
  split
  case isTrue h => rw [h, State.modPier_pier]
  case isFalse h => exact State.modPier_pier_ne _ _ _ _ h

/-! ### Lines of a pier (R213) -/

/-- A function that keeps a line's name, applied to the lines of one name: that line is found with it, every other as it was. -/
theorem Pier.find_modLine (P : Pier) (line : Nat) {f : CLine → CLine} (hf : ∀ c, (f c).line = c.line) (x : Nat) :
    (P.modLine line f).find x = if x = line then (P.find x).map f else P.find x := by
  have hname : ∀ c : CLine, ((if c.line = line then f c else c).line == x) = (c.line == x) := fun c => by
    split
    · rw [hf]
    · rfl
  change List.find? _ (P.lines.map _) = _
  rw [List.find?_map, Function.comp_def]
  simp only [hname]
  change (P.find x).map _ = _
  cases hx : P.find x with
  | none => simp
  | some c =>
    have hc : c.line = x := by simpa using List.find?_some hx
    simp only [Option.map_some, hc]
    split <;> rfl

/-- The lines but those of one name: none of that name is found, and every other as it was. -/
theorem Pier.find_dropLine (P : Pier) (line x : Nat) :
    ({ P with lines := P.lines.filter fun c => c.line != line } : Pier).find x = if x = line then none else P.find x := by
  unfold Pier.find
  rw [List.find?_filter]
  split
  case isTrue h => simp [h]
  case isFalse h =>
    refine List.find?_congr fun c _ => ?_
    by_cases hc : c.line = x <;> simp [hc, h]

/-! ### What the work on a line leaves (R221) -/

/-- The long operations and the command slots of a state are those of another. -/
structure SameOps (s u : State) : Prop where
  ops : u.belul.ops = s.belul.ops
  slots : u.belul.slots = s.belul.slots

theorem SameOps.refl (s : State) : SameOps s s := ⟨rfl, rfl⟩

theorem SameOps.trans {s u v : State} (h : SameOps s u) (g : SameOps u v) : SameOps s v := ⟨g.ops.trans h.ops, g.slots.trans h.slots⟩

theorem Le.sameOps {m : Nat} {s u : State} (h : Le m s u) (hm : m.testBit 15 = false) : SameOps s u := by
  have hbelul : u.belul = s.belul := h.same .belul hm
  exact ⟨by rw [hbelul], by rw [hbelul]⟩

theorem State.modPool_sameOps (s : State) (f : Pool → Pool) : SameOps s (s.modPool f) := ⟨rfl, rfl⟩

/-- An event, also one that is kept as a record, changes no long operation and no slot (R398). -/
theorem logStored_sameOps (s : State) (code cls die : Nat) (data : List Nat) (kind key : Nat) :
    SameOps s (logStored s code cls die data kind key) := ⟨raiseHost_ops .., raiseHost_slots ..⟩

theorem uncorrectable_sameOps (s : State) (cw : Nat) : SameOps s (uncorrectable s cw) := by
  unfold uncorrectable
  extract_lets l u v
  have hv : SameOps s v := ⟨rfl, rfl⟩
  exact (hv.trans (logStored_sameOps ..)).trans ((queueRepair_le ..).sameOps rfl)

theorem stackRead_sameOps (s : State) (cw : Nat) (inner : Bool) : SameOps s (stackRead s cw inner).1 := by
  have hmoved : SameOps s (countMoved s (s.chOf cw) 0 64) := (countMoved_le ..).sameOps rfl
  cases h : (s.pool.decode cw).1 with
  | clean =>
    rw [stackRead_clean inner h]
    dsimp only
    split
    · exact hmoved.trans ((innerCorrected_le ..).sameOps rfl)
    · exact hmoved
  | corrected =>
    rw [stackRead_corrected inner h]
    exact hmoved.trans ((outerCorrected_le ..).sameOps rfl)
  | uncorrectable =>
    rw [stackRead_uncorrectable inner h]
    exact hmoved.trans (uncorrectable_sameOps ..)

theorem ctrlRead_sameOps (s : State) (cw : Nat) (inner : Bool) : SameOps s (ctrlRead s cw inner).1 := by
  unfold ctrlRead
  split
  · exact .refl s
  · split
    · exact .refl s
    · exact stackRead_sameOps ..

theorem ctrlWrite_sameOps (s : State) (cw : Nat) (mask : BitVec 64) (data : BitVec 512) : SameOps s (ctrlWrite s cw mask data).1 := by
  unfold ctrlWrite
  split
  · exact .refl s
  · split
    · exact .refl s
    · extract_lets ch u
      have hu : SameOps s u := by
        unfold u
        split
        · exact .refl s
        · exact (bump_le ..).sameOps rfl
      clear_value u
      split
      · dsimp only
        exact hu.trans ((State.modChan_le ..).sameOps rfl)
      · split
        · dsimp only
          exact (hu.trans (State.modPool_sameOps ..)).trans ((countMoved_le ..).sameOps rfl)
        · have hread : SameOps s (stackRead u.takeFree cw u.indicates).1 :=
            (hu.trans ((State.takeFree_le u).sameOps rfl)).trans (stackRead_sameOps ..)
          dsimp only
          split
          · exact hread
          · dsimp only
            exact (hread.trans (State.modPool_sameOps ..)).trans ((countMoved_le ..).sameOps rfl)

/-- The engines of the piers in two states stand alike, and so do the fill queues that they wait for (R216, R222). -/
structure Pier.SameEngine (P Q : Pier) : Prop where
  busy : Q.rangeBusy = P.rangeBusy
  op : Q.rangeOp = P.rangeOp
  len : Q.rangeLen = P.rangeLen
  pos : Q.rangePos = P.rangePos
  fills : Q.fills = P.fills
  fillThr : Q.fillThr = P.fillThr

theorem Pier.SameEngine.refl (P : Pier) : P.SameEngine P := ⟨rfl, rfl, rfl, rfl, rfl, rfl⟩

theorem Pier.SameEngine.trans {P Q R : Pier} (h : P.SameEngine Q) (g : Q.SameEngine R) : P.SameEngine R where
  busy := g.busy.trans h.busy
  op := g.op.trans h.op
  len := g.len.trans h.len
  pos := g.pos.trans h.pos
  fills := g.fills.trans h.fills
  fillThr := g.fillThr.trans h.fillThr

/-- An operation leaves the engines of all piers where they stand, and the long operations. -/
structure SameEngines (s u : State) : Prop where
  ops : SameOps s u
  engine : ∀ p, (s.pier p).SameEngine (u.pier p)

theorem SameEngines.refl (s : State) : SameEngines s s := ⟨.refl s, fun _ => .refl _⟩

theorem SameEngines.trans {s u v : State} (h : SameEngines s u) (g : SameEngines u v) : SameEngines s v :=
  ⟨h.ops.trans g.ops, fun p => (h.engine p).trans (g.engine p)⟩

/-- An operation that changes no pier, after others. -/
theorem SameEngines.le {m : Nat} {s u v : State} (h : SameEngines s u) (g : Le m u v) (hm : m.testBit 5 = false) (ho : SameOps u v) :
    SameEngines s v :=
  h.trans ⟨ho, fun p => by rw [g.pier hm]; exact .refl _⟩

theorem SameEngines.modPier {s u : State} (h : SameEngines s u) (p : Nat) {f : Pier → Pier} (hf : (u.pier p).SameEngine (f (u.pier p))) :
    SameEngines s (u.modPier p f) := by
  refine h.trans ⟨⟨rfl, rfl⟩, fun j => ?_⟩
  rw [State.modPier_pier_ite]
  split
  case isTrue hj => rw [hj]; exact hf
  case isFalse => exact .refl _

theorem drainEntry_sameEngines (s : State) (p : Nat) (m : Merge) : SameEngines s (drainEntry s p m) := by
  unfold drainEntry
  refine forEach_keeps (P := SameEngines s) ((SameEngines.refl s).modPier p ⟨rfl, rfl, rfl, rfl, rfl, rfl⟩) fun h _ u hu => ?_
  dsimp only
  split
  · exact hu
  · exact (hu.le (bump_le ..) rfl ((bump_le ..).sameOps rfl)).le (ctrlWrite_le ..) rfl (ctrlWrite_sameOps ..)

theorem drainLine_sameEngines (s : State) (p line : Nat) : SameEngines s (drainLine s p line) := by
  unfold drainLine
  split
  · exact drainEntry_sameEngines ..
  · exact .refl s

theorem allocLine_sameEngines (s : State) (p line : Nat) (fresh : Bool) : SameEngines s (allocLine s p line fresh) := by
  unfold allocLine
  split
  · refine (SameEngines.refl s).modPier p ?_
    cases fresh
    · exact ⟨rfl, rfl, rfl, rfl, rfl, rfl⟩
    · exact ⟨rfl, rfl, rfl, rfl, rfl, rfl⟩
  · exact .refl s

theorem fillCw_sameEngines (s : State) (p cw : Nat) (d : BitVec 512) (poison : Bool) : SameEngines s (fillCw s p cw d poison) := by
  unfold fillCw
  exact (SameEngines.refl s).modPier p ⟨rfl, rfl, rfl, rfl, rfl, rfl⟩

theorem fetchLine_sameEngines (s : State) (p line : Nat) : SameEngines s (fetchLine s p line) := by
  unfold fetchLine
  extract_lets u
  have hu : SameEngines s u := by
    unfold u
    split
    · exact allocLine_sameEngines ..
    · exact .refl s
  clear_value u
  refine forEach_keeps (P := SameEngines s) hu fun cw _ v hv => ?_
  split
  · exact hv
  · have hread : SameEngines s (fillValue v.takeFree cw v.indicates).1 :=
      (hv.le (State.takeFree_le v) rfl ⟨rfl, rfl⟩).le (fillValue_le ..) rfl (ctrlRead_sameOps ..)
    exact hread.trans (fillCw_sameEngines ..)

theorem lockLine_sameEngines (s : State) (p line : Nat) : SameEngines s (lockLine s p line) := by
  have hmod : ∀ f : Pier → Pier, (s.pier p).SameEngine (f (s.pier p)) → SameEngines s (s.modPier p f) := fun f hf =>
    (SameEngines.refl s).modPier p hf
  unfold lockLine
  dsimp only
  split
  · exact hmod _ ⟨rfl, rfl, rfl, rfl, rfl, rfl⟩
  · split
    · exact .refl s
    · split
      · exact hmod _ ⟨rfl, rfl, rfl, rfl, rfl, rfl⟩
      · exact hmod _ ⟨rfl, rfl, rfl, rfl, rfl, rfl⟩

/-- The work on one line leaves every engine where it stands (R221). -/
theorem rangeLine_sameEngines (op p line : Nat) (s : State) : SameEngines s (rangeLine op p line s) := by
  unfold rangeLine
  split
  · exact (SameEngines.refl s).modPier p ⟨rfl, rfl, rfl, rfl, rfl, rfl⟩
  · exact forEach_keeps (P := SameEngines s) (drainLine_sameEngines ..) fun cw _ u hu =>
      hu.le (adderEvict_le ..) rfl ((adderEvict_le ..).sameOps rfl)
  · exact fetchLine_sameEngines ..
  · exact (fetchLine_sameEngines ..).trans (lockLine_sameEngines ..)
  · exact (SameEngines.refl s).modPier p ⟨rfl, rfl, rfl, rfl, rfl, rfl⟩

/-! ### How far an engine comes (R222) -/

/-- An operation leaves the engine of pier `k` at an offset, the other engines where they stand, and the long operations. -/
structure EngineAt (k pos : Nat) (s u : State) : Prop where
  ops : SameOps s u
  own : ({ s.pier k with rangePos := pos } : Pier).SameEngine (u.pier k)
  other : ∀ j, j ≠ k → (s.pier j).SameEngine (u.pier j)

theorem SameEngines.at {k : Nat} {s u : State} (h : SameEngines s u) : EngineAt k (s.pier k).rangePos s u :=
  ⟨h.ops, h.engine k, fun j _ => h.engine j⟩

theorem EngineAt.trans {k a b : Nat} {s u v : State} (h : EngineAt k a s u) (g : EngineAt k b u v) : EngineAt k b s v where
  ops := h.ops.trans g.ops
  own :=
    { busy := g.own.busy.trans h.own.busy
      op := g.own.op.trans h.own.op
      len := g.own.len.trans h.own.len
      pos := g.own.pos
      fills := g.own.fills.trans h.own.fills
      fillThr := g.own.fillThr.trans h.own.fillThr }
  other j hj := (h.other j hj).trans (g.other j hj)

/-- An engine that goes on from where it stands. -/
theorem SameEngines.step {k : Nat} {s u : State} (h : SameEngines s u) (n : Nat) :
    EngineAt k ((s.pier k).rangePos + n) s (u.modPier k fun P => { P with rangePos := P.rangePos + n }) := by
  have hk := h.engine k
  refine ⟨h.ops.trans ⟨rfl, rfl⟩, ?_, fun j hj => ?_⟩
  · rw [State.modPier_pier]
    exact ⟨hk.busy, hk.op, hk.len, congrArg (· + n) hk.pos, hk.fills, hk.fillThr⟩
  · rw [State.modPier_pier_ne _ _ _ _ hj]
    exact h.engine j

/-- The engine of a pier never waits for the fill queue: its operation fetches nothing, or the queue is below FILLTHR (R216). -/
def Pier.Unhindered (P : Pier) : Prop := (P.rangeOp ≠ 3 ∧ P.rangeOp ≠ 4) ∨ P.fills.length < P.fillThr

theorem Pier.Unhindered.not_waits {P : Pier} (h : P.Unhindered) (line : Nat) : P.rangeWaits line = false := by
  rw [Pier.rangeWaits]
  rcases h with ⟨h3, h4⟩ | hroom
  · simp [h3, h4]
  · simp [hroom]

/-- An engine that does not wait comes as far as it is asked to, whichever of the lines on its way its pier homes. -/
theorem rangeAdvance_engineAt {k upto : Nat} (n : Nat) (s : State) (hfree : (s.pier k).Unhindered) (hlen : upto ≤ (s.pier k).rangeLen)
    (hupto : upto % 128 = 0) (hpos : (s.pier k).rangePos % 128 = 0) (hle : (s.pier k).rangePos ≤ upto)
    (hfuel : upto ≤ (s.pier k).rangePos + 128 * n) : EngineAt k upto s (rangeAdvance n s k upto) := by
  induction n generalizing s with
  | zero =>
    obtain rfl : upto = (s.pier k).rangePos := by omega
    exact (SameEngines.refl s).at
  | succ n ih =>
    unfold rangeAdvance
    dsimp only
    rw [Nat.min_eq_left hlen]
    split
    case isTrue hdone =>
      obtain rfl : upto = (s.pier k).rangePos := by omega
      exact (SameEngines.refl s).at
    case isFalse hmore =>
      have hgo : ∀ u, SameEngines s u →
          EngineAt k upto s (rangeAdvance n (u.modPier k fun P => { P with rangePos := P.rangePos + 128 }) k upto) := fun u hu => by
        have hstep := hu.step (k := k) 128
        have hown := hstep.own
        refine hstep.trans (ih _ ?_ ?_ ?_ ?_ ?_)
        · rw [Pier.Unhindered, hown.op, hown.fills, hown.fillThr]
          exact hfree
        · rw [hown.len]
          exact hlen
        all_goals rw [hown.pos]; dsimp only; omega
      split
      · rw [hfree.not_waits, if_neg Bool.false_ne_true]
        refine hgo _ ((rangeLine_sameEngines ..).le (bump_le ..) rfl ((bump_le ..).sameOps rfl))
      · exact hgo s (.refl s)

/-! ### The start of CACHE_RANGE (R221, R234) -/

theorem rangeStart_pier (op start len : Nat) (s : State) {k : Nat} (hk : k < 4) : (rangeStart op start len s).pier k =
    { s.pier k with rangeBusy := true, rangeOp := op, rangeStart := start, rangeLen := len, rangePos := 0, unlocked := 0 } :=
  forEach_modPier_pier (l := [0, 1, 2, 3]) (by decide) _ s (by simp only [List.mem_cons]; omega)

section Starts
variable {r : Req} {p : Picked} {start len : Nat} {s : State} (hgood : badRange start len = false) (h : Ready r 0x0305 p s)
include hgood

/-- A legal range lies in the pool, and its ends are of their width. -/
theorem badRange_width : start < 2 ^ 64 ∧ len < 2 ^ 64 := by
  have hpool : start + len ≤ 0x10000000000 := by
    simp only [badRange, Bool.or_eq_false_iff, decide_eq_false_iff_not, Nat.not_lt] at hgood
    exact hgood.2
  omega

include h

theorem cacheRange_ok : okRange r start len = true := by
  obtain ⟨hstart, hlen⟩ := badRange_width hgood
  rw [okRange, okReq_eq, h.1, decide_eq_true hstart, decide_eq_true hlen]
  rfl

theorem cacheRange_started (hidle : s.opOf 0x0305 = none) (hpool : s.poolReady = true) (op : Nat) :
    cacheRange op r start len s = rangeStart op start len (acceptLong s r.client r.slot p 2 len []) := by
  have hop : s.opOf opCacheRange = none := hidle
  exact command_ready h (firstBad_none.mpr (by simp [hgood, hop, hpool]))

theorem cacheRange_busy (hbusy : (s.opOf 0x0305).isSome = true) (op : Nat) :
    cacheRange op r start len s = replyFinal s r.client r.slot p bsBusy [] := by
  have hop : (s.opOf opCacheRange).isSome = true := hbusy
  refine (command_refused h (st := bsBusy) ?_).trans rfl
  simp [hgood, hop, firstBad, ofParam, bsBadParam, bsBadAddress, bsBusy, bsMemNotReady]

end Starts

/-! ### The end of CACHE_RANGE (R222, R224) -/

/-- The engine of pier `k` has come to an offset, and stops at the end of the range. -/
def engineAdvanced (k upto : Nat) (s : State) : State :=
  (rangeAdvance ((s.pier k).rangeLen / 128) s k upto).modPier k fun P => { P with rangeBusy := decide (P.rangePos < P.rangeLen) }

/-- The operation shows how far the engines have come. -/
def rangeProgressed (o : LongOp) (k upto : Nat) (s : State) : State :=
  setPosition (engineAdvanced k upto s) o.handle (engineAdvanced k upto s).rangeReached

theorem rangeProgressed_pier (o : LongOp) (k upto : Nat) (s : State) (j : Nat) :
    (rangeProgressed o k upto s).pier j = (engineAdvanced k upto s).pier j := (setPosition_le ..).pier rfl j

/-- The lines that a LOCK has left unlocked at the four piers (R224). -/
def State.leftUnlocked (s : State) : Nat := (s.pier 0).unlocked + (s.pier 1).unlocked + (s.pier 2).unlocked + (s.pier 3).unlocked

theorem doCacheRangeComplete_eq {s : State} {o : LongOp} {k : Nat} (hfirst : s.opOf 0x0305 = some o) (hbusy : (s.pier k).rangeBusy = true)
    (upto : Nat) : doCacheRangeComplete k upto s =
      let u := rangeProgressed o k upto s
      if [0, 1, 2, 3].any fun p => (u.pier p).rangeBusy then u
      else finishOp u o.handle bsCompleted (if (u.pier 0).rangeOp = 4 then [(4, u.leftUnlocked)] else []) := by
  unfold doCacheRangeComplete
  rw [show s.opOf opCacheRange = some o from hfirst]
  dsimp only
  rw [hbusy, Bool.not_true, if_neg Bool.false_ne_true]
  simp only [List.foldl_cons, List.foldl_nil, Nat.zero_add]
  rfl

theorem Finished.of_slots {s u v : State} {o : LongOp} {status : Nat} {d : List (Nat × Nat)} (h : Finished v u o status d)
    (hv : v.belul.slots = s.belul.slots) : Finished s u o status d := by
  simpa only [Finished, State.slot, hv] using h

section Ends
variable {s : State} {o : LongOp} {k upto : Nat} (hfirst : s.opOf 0x0305 = some o) (ho : s.op o.handle = some o)
  (hbusy : (s.pier k).rangeBusy = true) (hfree : (s.pier k).Unhindered) (hpos : (s.pier k).rangePos % 128 = 0)
  (hupto : upto % 128 = 0) (hle : (s.pier k).rangePos ≤ upto) (hlen : upto ≤ (s.pier k).rangeLen)
include hfree hpos hupto hle hlen

/-- What has become of the engines and of the operation where one engine has come to an offset. -/
theorem rangeAdvance_upto : EngineAt k upto s (rangeAdvance ((s.pier k).rangeLen / 128) s k upto) :=
  rangeAdvance_engineAt _ s hfree hlen hupto hpos hle (by omega)

/-- The engine that has worked stands at the offset, and is busy unless that is the end. -/
theorem engineAdvanced_own : ((engineAdvanced k upto s).pier k).rangePos = upto ∧
    ((engineAdvanced k upto s).pier k).rangeBusy = decide (upto < (s.pier k).rangeLen) ∧
    ((engineAdvanced k upto s).pier k).rangeOp = (s.pier k).rangeOp := by
  have hown := (rangeAdvance_upto hfree hpos hupto hle hlen).own
  rw [engineAdvanced, State.modPier_pier]
  refine ⟨hown.pos, ?_, hown.op⟩
  dsimp only
  rw [hown.pos, hown.len]

theorem engineAdvanced_other {j : Nat} (hj : j ≠ k) : (s.pier j).SameEngine ((engineAdvanced k upto s).pier j) := by
  rw [engineAdvanced, State.modPier_pier_ne _ _ _ _ hj]
  exact (rangeAdvance_upto hfree hpos hupto hle hlen).other j hj

theorem engineAdvanced_ops : SameOps s (engineAdvanced k upto s) :=
  (rangeAdvance_upto hfree hpos hupto hle hlen).ops.trans ⟨rfl, rfl⟩

include ho in
theorem rangeProgressed_shown : ShownAt o (engineAdvanced k upto s).rangeReached (engineAdvanced k upto s) (rangeProgressed o k upto s) := by
  refine setPosition_shown ?_ _
  rw [State.op, (engineAdvanced_ops hfree hpos hupto hle hlen).ops]
  exact ho

include hfirst hbusy

/-- Short of the end of the range the operation shows how far its engines have come. -/
theorem doCacheRangeComplete_short (ho : s.op o.handle = some o) (hk : k < 4) (hmore : upto < (s.pier k).rangeLen) :
    let u := doCacheRangeComplete k upto s
    (u.pier k).rangePos = upto ∧ (u.pier k).rangeBusy = true ∧ (u.op o.handle).map (·.position) = some u.rangeReached := by
  obtain ⟨hat, hon, -⟩ := engineAdvanced_own hfree hpos hupto hle hlen
  have hpier := rangeProgressed_pier o k upto s
  rw [decide_eq_true hmore] at hon
  have hany : ([0, 1, 2, 3].any fun p => ((rangeProgressed o k upto s).pier p).rangeBusy) = true :=
    List.any_eq_true.mpr ⟨k, by simp only [List.mem_cons]; omega, by rw [hpier, hon]⟩
  have hu : doCacheRangeComplete k upto s = rangeProgressed o k upto s := (doCacheRangeComplete_eq hfirst hbusy upto).trans (if_pos hany)
  intro u
  obtain ⟨⟨x, hx, -, -, -, hposition⟩, -⟩ := rangeProgressed_shown ho hfree hpos hupto hle hlen
  rw [show u = rangeProgressed o k upto s from hu]
  refine ⟨by rw [hpier, hat], by rw [hpier, hon], ?_⟩
  rw [hx, Option.map_some, hposition]
  simp only [State.rangeReached, hpier]

/-- With the end of the last engine the operation ends (R222), for LOCK with the count of the lines left unlocked (R224). -/
theorem doCacheRangeComplete_last (ho : s.op o.handle = some o) (hend : upto = (s.pier k).rangeLen)
    (hlast : ∀ j, j < 4 → j ≠ k → (s.pier j).rangeBusy = false) :
    let u := doCacheRangeComplete k upto s
    (u.pier k).rangePos = upto ∧ (u.pier k).rangeBusy = false ∧
      Finished s u o bsCompleted (if (s.pier 0).rangeOp = 4 then [(4, u.leftUnlocked)] else []) := by
  obtain ⟨hat, hoff, hown⟩ := engineAdvanced_own hfree hpos hupto hle hlen
  have hpier := rangeProgressed_pier o k upto s
  rw [decide_eq_false (show ¬ upto < (s.pier k).rangeLen by omega)] at hoff
  have hfour : ∀ j ∈ [0, 1, 2, 3], j < 4 := by decide
  have hnone : ¬ ([0, 1, 2, 3].any fun p => ((rangeProgressed o k upto s).pier p).rangeBusy) = true := by
    rw [List.any_eq_true]
    rintro ⟨j, hj, hon⟩
    rw [hpier] at hon
    by_cases hjk : j = k
    · rw [hjk, hoff] at hon
      cases hon
    · rw [(engineAdvanced_other hfree hpos hupto hle hlen hjk).busy, hlast j (hfour j hj) hjk] at hon
      cases hon
  have hop : ((rangeProgressed o k upto s).pier 0).rangeOp = (s.pier 0).rangeOp := by
    rw [hpier]
    by_cases h0 : 0 = k
    · rw [h0]
      exact hown
    · exact (engineAdvanced_other hfree hpos hupto hle hlen h0).op
  have hfits : dataLen (if (s.pier 0).rangeOp = 4 then [(4, (rangeProgressed o k upto s).leftUnlocked)] else []) ≤ 216 := by
    split <;> simp [dataLen]
  have hu : doCacheRangeComplete k upto s = finishOp (rangeProgressed o k upto s) o.handle bsCompleted
      (if (s.pier 0).rangeOp = 4 then [(4, (rangeProgressed o k upto s).leftUnlocked)] else []) := by
    rw [← hop]
    exact (doCacheRangeComplete_eq hfirst hbusy upto).trans (if_neg hnone)
  have hkept : ∀ j, (doCacheRangeComplete k upto s).pier j = (rangeProgressed o k upto s).pier j := fun j => by
    rw [hu]
    exact (finishOp_fits_le _ _ _ hfits).pier rfl j
  have hcount : (doCacheRangeComplete k upto s).leftUnlocked = (rangeProgressed o k upto s).leftUnlocked := by
    simp only [State.leftUnlocked, hkept]
  have hfinished := (rangeProgressed_shown ho hfree hpos hupto hle hlen).finished rfl bsCompleted hfits
  intro u
  refine ⟨by rw [hkept, hpier, hat], by rw [hkept, hpier, hoff], ?_⟩
  rw [hcount, show u = _ from hu]
  exact hfinished.of_slots (engineAdvanced_ops hfree hpos hupto hle hlen).slots

end Ends

/-! ### INVALIDATE and UNLOCK of a line (R221) -/

theorem rangeLine_invalidate_find (p line : Nat) (s : State) (x : Nat) :
    ((rangeLine 1 p line s).pier p).find x = if x = line then none else (s.pier p).find x := by
  rw [rangeLine, State.modPier_pier]
  exact Pier.find_dropLine ..

theorem rangeLine_unlock_find (p line : Nat) (s : State) (x : Nat) : ((rangeLine 5 p line s).pier p).find x =
    if x = line then ((s.pier p).find x).map fun c => { c with lock := false } else (s.pier p).find x := by
  change ((s.modPier p fun P => P.modLine line fun c => { c with lock := false }).pier p).find x = _
  rw [State.modPier_pier]
  exact Pier.find_modLine (f := fun c => { c with lock := false }) _ _ (fun _ => rfl) _

/-- Settles O32: the start by the checks that a range passes, the progress and the end by how far the engines come, and the work on a line by the
lines that its pier finds. -/
theorem cacheRanges : Obligations.CacheRanges := by
  unfold Obligations.CacheRanges
  refine ⟨fun r p start len s => ⟨fun hgood hready => ⟨fun hidle hpool => ?start, fun hbusy => ?busy⟩,
    fun o k hfirst ho hk hbusy hlen hpos hle => ⟨fun upto hupto hfrom hmore hop => ?short, fun hlast =>
      ⟨fun hop hlock => ?ends, fun hop hlock hroom => ?lock⟩⟩⟩, fun p line s => ?line⟩
  case start =>
    intro started
    have hstarted : ∀ op, started op (cacheRange op r start len s) := fun op => by
      have hpiers := fun k => (acceptLong_le s r.client r.slot p 2 len []).pier rfl k
      have hpool' : (acceptLong s r.client r.slot p 2 len []).pool = s.pool := (acceptLong_le ..).same .pool rfl
      rw [cacheRange_started hgood hready hidle hpool]
      refine ⟨(acceptLong_accepted ..).of_belul ((rangeStart_le ..).same .belul rfl), Eq.trans ((rangeStart_le ..).same .pool rfl) hpool',
        fun k hk => ?_⟩
      rw [rangeStart_pier _ _ _ _ hk, hpiers]
      exact ⟨rfl, rfl, rfl, rfl, rfl, rfl, rfl, rfl⟩
    have hok := cacheRange_ok hgood hready
    exact ⟨⟨_, require_of hok, hstarted 1⟩, ⟨_, require_of hok, hstarted 2⟩, ⟨_, require_of hok, hstarted 3⟩,
      ⟨_, require_of hok, hstarted 4⟩, ⟨_, require_of hok, hstarted 5⟩⟩
  case busy =>
    have hexec : exec (.cacheRangeLock r start len) s = .next (cacheRange 4 r start len s) := require_of (cacheRange_ok hgood hready)
    rw [hexec, cacheRange_busy hgood hready hbusy]
  case short =>
    have hexec : exec (.cacheRangeComplete k upto) s = .next (doCacheRangeComplete k upto s) := require_of (decide_eq_true hk)
    have hfree : (s.pier k).Unhindered := Or.inl (by omega)
    exact .of_eq hexec (doCacheRangeComplete_short hfirst hbusy hfree hpos hupto hfrom hmore.le ho hk hmore)
  case ends =>
    have hexec : exec (.cacheRangeComplete k (s.pier k).rangeLen) s = .next (doCacheRangeComplete k (s.pier k).rangeLen s) :=
      require_of (decide_eq_true hk)
    have hfree : (s.pier k).Unhindered := Or.inl (by omega)
    obtain ⟨hat, hoff, hfinished⟩ := doCacheRangeComplete_last hfirst hbusy hfree hpos hlen hle le_rfl ho rfl hlast
    rw [if_neg hlock] at hfinished
    exact .of_eq hexec ⟨hat, hoff, hfinished⟩
  case lock =>
    have hexec : exec (.cacheRangeComplete k (s.pier k).rangeLen) s = .next (doCacheRangeComplete k (s.pier k).rangeLen s) :=
      require_of (decide_eq_true hk)
    obtain ⟨hat, hoff, hfinished⟩ := doCacheRangeComplete_last hfirst hbusy (Or.inr hroom) hpos hlen hle le_rfl ho rfl hlast
    rw [if_pos hlock] at hfinished
    exact .of_eq hexec ⟨hat, hoff, hfinished⟩
  case line =>
    refine ⟨⟨?_, fun x hx => ?_⟩, ⟨fun c hc => ?_, fun x hx => ?_⟩, rfl, rfl⟩
    · rw [rangeLine_invalidate_find, if_pos rfl]
    · rw [rangeLine_invalidate_find, if_neg hx]
    · rw [rangeLine_unlock_find, if_pos rfl] at hc
      obtain ⟨c', -, rfl⟩ := Option.map_eq_some_iff.mp hc
      rfl
    · rw [rangeLine_unlock_find, if_neg hx]

end Sys2Proof.Machine
end

section
/-!
PROOFS. The memory-side adders (R227–R231): the place of an element in its codeword, an operation on a resident codeword, and the write-back of
a codeword.
-/

namespace Sys2Proof.Machine
open Sys2Proof

/-! ### What locates a codeword and says whether it is resident -/

/-- Two states agree in what fixes where codewords are, whether they are served, and which are resident (R192, R205, R208, R230). -/
structure SameAccess (s u : State) : Prop where
  st : u.pool.st = s.pool.st
  mode : u.pool.packageWide = s.pool.packageWide
  key : u.pool.key = s.pool.key
  test : ∀ c, (u.chan c).testOwner = (s.chan c).testOwner
  adder : ∀ c, (u.chan c).adder = (s.chan c).adder

theorem SameAccess.of_same {s u : State} (hpool : u.pool = s.pool) (hchans : u.chans = s.chans) : SameAccess s u := by
  have hchan : ∀ c, u.chan c = s.chan c := fun c => by rw [State.chan, hchans]; rfl
  exact ⟨by rw [hpool], by rw [hpool], by rw [hpool], fun c => by rw [hchan], fun c => by rw [hchan]⟩

/-- An operation that changes neither the pool nor its channels. -/
theorem Le.sameAccess {m : Nat} {s u : State} (h : Le m s u) (hpool : m.testBit 3 = false) (hchans : m.testBit 4 = false) : SameAccess s u :=
  .of_same (h.same .pool hpool) (h.same .chans hchans)

section SameAccess
variable {s u v : State} (h : SameAccess s u)
include h

theorem SameAccess.trans (g : SameAccess u v) : SameAccess s v where
  st := g.st.trans h.st
  mode := g.mode.trans h.mode
  key := g.key.trans h.key
  test c := (g.test c).trans (h.test c)
  adder c := (g.adder c).trans (h.adder c)

theorem SameAccess.home (addr : Nat) : u.home addr = s.home addr := by rw [State.home, State.locAt, h.mode, h.key]; rfl

theorem SameAccess.chOf (cw : Nat) : u.chOf cw = s.chOf cw := by rw [State.chOf, State.locAt, h.mode, h.key]; rfl

theorem SameAccess.poolServes (cw : Nat) : u.poolServes cw = s.poolServes cw := by
  rw [State.poolServes, State.poolReady, h.chOf, h.test, h.st]
  rfl

theorem SameAccess.adderEntry (cw : Nat) : u.adderEntry cw = s.adderEntry cw := by
  rw [State.adderEntry, h.chOf, h.adder]
  rfl

end SameAccess

@[simp] theorem bump_chan (s : State) (a n c : Nat) : (bump s a n).chan c = s.chan c := by rw [State.chan, bump_chans]; rfl

/-- The bytes that a channel moves are added to its window, and no other channel changes (R207). -/
theorem countMoved_chan (s : State) (ch i n c : Nat) : (countMoved s ch i n).chan c =
    if c = ch then { s.chan c with window := (s.chan c).window + n } else s.chan c := by
  have hbefore : ∀ a b m k, (bump (bump s.takeFree.takeFree a m) b k).chan c = s.chan c := fun a b m k => by
    rw [bump_chan, bump_chan]
    rfl
  unfold countMoved
  dsimp only
  rw [bump_chan]
  split
  case isTrue h =>
    subst h
    rw [State.modChan_chan, hbefore]
  case isFalse h => rw [State.modChan_chan_ne _ _ _ _ h, hbefore]

theorem countMoved_sameAccess (s : State) (ch i n : Nat) : SameAccess s (countMoved s ch i n) := by
  refine ⟨by rw [countMoved_pool], by rw [countMoved_pool], by rw [countMoved_pool], fun c => ?_, fun c => ?_⟩
  all_goals rw [countMoved_chan]; split <;> rfl

/-! ### Elements of a codeword (R228) -/

/-- A number with its `w` bits from bit `b` replaced. -/
def putBits (n b w x : Nat) : Nat := n - fld n b w * 2 ^ b + x * 2 ^ b

/-- A number with bits replaced, by the bits above, in and below the field. -/
theorem putBits_eq (n b w x : Nat) : putBits n b w x = (n / 2 ^ b / 2 ^ w * 2 ^ w + x) * 2 ^ b + n % 2 ^ b := by
  have hlow := Nat.div_add_mod n (2 ^ b)
  have hfield := Nat.div_add_mod (n / 2 ^ b) (2 ^ w)
  have hsplit : n = (n / 2 ^ b / 2 ^ w * 2 ^ w) * 2 ^ b + fld n b w * 2 ^ b + n % 2 ^ b := by
    calc n = 2 ^ b * (n / 2 ^ b) + n % 2 ^ b := hlow.symm
      _ = 2 ^ b * (2 ^ w * (n / 2 ^ b / 2 ^ w) + n / 2 ^ b % 2 ^ w) + n % 2 ^ b := by rw [hfield]
      _ = _ := by rw [fld]; ring
  rw [putBits, add_mul]
  omega

theorem putBits_div (n b w x : Nat) : putBits n b w x / 2 ^ b = n / 2 ^ b / 2 ^ w * 2 ^ w + x := by
  rw [putBits_eq, mul_comm, Nat.mul_add_div (by positivity), Nat.div_eq_of_lt (Nat.mod_lt _ (by positivity)), Nat.add_zero]

/-- The field reads back. -/
theorem fld_putBits_self {x w : Nat} (hx : x < 2 ^ w) (n b : Nat) : fld (putBits n b w x) b w = x := by
  rw [fld, putBits_div, Nat.mul_add_mod_self_right, Nat.mod_eq_of_lt hx]

/-- The bits above the field stay. -/
theorem putBits_above {x w : Nat} (hx : x < 2 ^ w) (n b : Nat) : putBits n b w x / 2 ^ (b + w) = n / 2 ^ (b + w) := by
  rw [pow_add, ← Nat.div_div_eq_div_mul, ← Nat.div_div_eq_div_mul, putBits_div, mul_comm, Nat.mul_add_div (by positivity), Nat.div_eq_of_lt hx,
    Nat.add_zero]

/-- The bits below the field stay. -/
theorem putBits_below (n b w x : Nat) : putBits n b w x % 2 ^ b = n % 2 ^ b := by
  rw [putBits_eq, Nat.mul_add_mod_self_right, Nat.mod_mod]

/-- A field in the bits of a number that stay the same. -/
theorem fld_congr_mod {m n k b w : Nat} (h : m % 2 ^ k = n % 2 ^ k) (hk : b + w ≤ k) : fld m b w = fld n b w := by
  have hcut : ∀ y, fld y b w = y % 2 ^ k % 2 ^ (b + w) / 2 ^ b := fun y => by
    rw [fld, Nat.mod_mod_of_dvd _ (pow_dvd_pow 2 hk), pow_add, Nat.mod_mul_right_div_self]
  rw [hcut, hcut, h]

theorem fld_congr_div {m n k b w : Nat} (h : m / 2 ^ k = n / 2 ^ k) (hk : k ≤ b) : fld m b w = fld n b w := by
  have hcut : ∀ y, fld y b w = y / 2 ^ k / 2 ^ (b - k) % 2 ^ w := fun y => by
    rw [fld, Nat.div_div_eq_div_mul, ← pow_add, Nat.add_sub_cancel' hk]
  rw [hcut, hcut, h]

/-- A field apart from the one that is replaced stays. -/
theorem fld_putBits_apart {x w : Nat} (hx : x < 2 ^ w) (n b : Nat) {c v : Nat} (h : c + v ≤ b ∨ b + w ≤ c) :
    fld (putBits n b w x) c v = fld n c v := by
  rcases h with h | h
  · exact fld_congr_mod (putBits_below ..) h
  · exact fld_congr_div (putBits_above hx ..) h

theorem putBits_lt {n b w x k : Nat} (hx : x < 2 ^ w) (hn : n < 2 ^ k) (hk : b + w ≤ k) : putBits n b w x < 2 ^ k := by
  have hsplit : ∀ y, y < 2 ^ k ↔ y / 2 ^ (b + w) < 2 ^ (k - (b + w)) := fun y => by
    rw [Nat.div_lt_iff_lt_mul (by positivity), ← pow_add, Nat.sub_add_cancel hk]
  rw [hsplit, putBits_above hx, ← hsplit]
  exact hn

/-- A word of bits with a field replaced. -/
def putElem {k : Nat} (d : BitVec k) (b w x : Nat) : BitVec k := BitVec.ofNat k (putBits d.toNat b w x)

theorem putElem_toNat {k : Nat} (d : BitVec k) {b w x : Nat} (hx : x < 2 ^ w) (h : b + w ≤ k) :
    (putElem d b w x).toNat = putBits d.toNat b w x := by
  rw [putElem, BitVec.toNat_ofNat, Nat.mod_eq_of_lt (putBits_lt hx d.isLt h)]

/-- An element has 2, 4, 8 or 16 bytes (R227). -/
theorem aSize_cases (ty : Nat) : aSize ty = 2 ∨ aSize ty = 4 ∨ aSize ty = 8 ∨ aSize ty = 16 := by
  unfold aSize
  split <;> simp

/-- An aligned element lies in one codeword (R131). -/
theorem aligned_fits {addr ty : Nat} (h : addr % aSize ty = 0) : 8 * (addr % 64) + 8 * aSize ty ≤ 512 := by
  rcases aSize_cases ty with hn | hn | hn | hn <;> rw [hn] at h ⊢ <;> omega

/-! ### An operation on a resident codeword (R229–R231) -/

/-- A resident codeword is read from the adder store (R230). -/
theorem ctrlRead_resident {s : State} {cw : Nat} {e : AdderEntry} (hserves : s.poolServes cw = true) (he : s.adderEntry cw = some e)
    (inner : Bool) : ctrlRead s cw inner = (s, e.data, false) := by
  unfold ctrlRead
  rw [hserves, Bool.not_true, if_neg Bool.false_ne_true, he]

/-- A merging buffer without an entry of a line has nothing to drain. -/
theorem drainLine_none {s : State} {p line : Nat} (h : (s.pier p).entry line = none) : drainLine s p line = s := by
  unfold drainLine
  rw [h]

section Resident
variable {s : State} {cw : Nat} {e : AdderEntry} (hserves : s.poolServes cw = true) (he : s.adderEntry cw = some e)
include hserves he

/-- The fetches in progress of a resident codeword take its value, and nothing else changes but the free values (R219). -/
theorem latchFills_resident (p : Nat) : Le 134217760 s (latchFills s p cw) ∧ ((latchFills s p cw).pier p).merges = (s.pier p).merges := by
  have hread : ctrlRead s.takeFree cw s.indicates = (s.takeFree, e.data, false) := ctrlRead_resident (s := s.takeFree) hserves he _
  unfold latchFills
  split
  · dsimp only [fillValue]
    rw [hread, State.modPier_pier]
    exact ⟨Le.then (Le.next (State.takeFree_le s) (by decide) (Le.refl ..)) (State.modPier_le ..) (by decide), rfl⟩
  · exact ⟨Le.refl .., rfl⟩

end Resident

/-- The pier's part of an operation on a resident codeword that waits in no merging buffer changes but that pier's cache. -/
theorem adderForward_resident {s : State} {addr : Nat} {e : AdderEntry} (hserves : s.poolServes (addr / 64) = true)
    (he : s.adderEntry (addr / 64) = some e) (hentry : (s.pier (s.home addr)).entry (addr / 128) = none) (n : Nat) :
    Le 134217760 s (adderForward s addr n) := by
  obtain ⟨hle, hmerges⟩ := latchFills_resident hserves he (s.home addr)
  have hdrain : drainLine (latchFills s (s.home addr) (addr / 64)) (s.home addr) (addr / 128) = latchFills s (s.home addr) (addr / 64) := by
    refine drainLine_none ?_
    rw [Pier.entry, hmerges]
    exact hentry
  unfold adderForward
  dsimp only
  rw [hdrain]
  exact hle.then (State.modPier_le ..) (by decide)

theorem adderLoad_resident {s : State} {cw : Nat} {e : AdderEntry} (he : s.adderEntry cw = some e) : adderLoad s cw = (s, false) := by
  unfold adderLoad
  rw [he]

/-- The entry at the head of an adder store is the one of its codeword. -/
theorem adderEntry_front {s u : State} {cw : Nat} (hch : u.chOf cw = s.chOf cw) {l : List AdderEntry} {d : BitVec 512}
    (h : (u.chan (s.chOf cw)).adder = ⟨cw, d⟩ :: l) : u.adderEntry cw = some ⟨cw, d⟩ := by
  rw [State.adderEntry, hch, h]
  simp

/-- An operation on a resident codeword answers its old element, and the value of the operation takes the element's place (R228, R230). -/
theorem adderApply_resident {s : State} {addr : Nat} {e : AdderEntry} (hserves : s.poolServes (addr / 64) = true)
    (he : s.adderEntry (addr / 64) = some e) (hentry : (s.pier (s.home addr)).entry (addr / 128) = none) (a : BitVec 8) (v cmp : Nat) :
    let old := fld e.data.toNat (8 * (addr % 64)) (8 * aSize (aType a))
    let x := adderValue a old v cmp
    let u := adderApply s addr a v cmp
    u.2 = { old := old, flags := x.2 } ∧ u.1.out = s.out ∧ u.1.pool = s.pool ∧ u.1.adderEntry (addr / 64) =
      some ⟨addr / 64, putElem e.data (8 * (addr % 64)) (8 * aSize (aType a)) (x.1 % 2 ^ (8 * aSize (aType a)))⟩ := by
  intro old x u
  have hle := adderForward_resident hserves he hentry (aSize (aType a))
  generalize hf : adderForward s addr (aSize (aType a)) = f at hle
  have hpool : f.pool = s.pool := hle.same .pool rfl
  have he' : f.adderEntry (addr / 64) = some e := by rw [(hle.sameAccess rfl rfl).adderEntry, he]
  have hu : u = (bump (f.modChan (f.chOf (addr / 64)) fun c => { c with adder := ⟨addr / 64, putElem e.data (8 * (addr % 64))
      (8 * aSize (aType a)) (x.1 % 2 ^ (8 * aSize (aType a)))⟩ :: c.adder.filter fun e => e.cw != addr / 64 })
      (unitCtr (memchBase (f.chOf (addr / 64))) 2) 1, { old := old, flags := x.2 }) := by
    unfold u adderApply
    dsimp only
    rw [hserves, Bool.not_true, if_neg Bool.false_ne_true, hf, adderLoad_resident he']
    dsimp only
    rw [if_neg Bool.false_ne_true, he']
    rfl
  rw [hu]
  refine ⟨rfl, (bump_out ..).trans (hle.same .out rfl), (bump_pool ..).trans hpool, ?_⟩
  refine adderEntry_front (s := f) (by rw [State.chOf, State.locAt, bump_pool]; rfl)
    (l := (f.chan (f.chOf (addr / 64))).adder.filter fun e => e.cw != addr / 64) ?_
  rw [bump_chan, State.modChan_chan]

/-! ### ADDER_OPERATION (R227, R228, R131) -/

section Legal
variable {addr : Nat} {a : BitVec 8} (hlegal : aLegal a = true) (haligned : addr % aSize (aType a) = 0) (hin : inPool addr = true)
include hlegal haligned hin

/-- A legal operation on an aligned element of the pool is answered. -/
theorem doAdderOperation_legal (s : State) (v cmp : BitVec 128) : doAdderOperation addr a v cmp .none s =
    (adderApply s addr a v.toNat cmp.toNat).1.send (.adder (BitVec.ofNat 128 (adderApply s addr a v.toNat cmp.toNat).2.old)
      (adderApply s addr a v.toNat cmp.toNat).2.flags (adderApply s addr a v.toNat cmp.toNat).2.poison) := by
  unfold doAdderOperation
  rw [if_neg (by simp [hlegal, haligned, hin])]

/-- Where the pool does not serve, the answer is poison (R205). -/
theorem doAdderOperation_shut {s : State} (h : s.poolServes (addr / 64) = false) (v cmp : BitVec 128) :
    doAdderOperation addr a v cmp .none s = s.send (.adder 0 0 true) := by
  have happly : adderApply s addr a v.toNat cmp.toNat = (s, { poison := true }) := by
    unfold adderApply
    rw [h, Bool.not_false, if_pos rfl]
  rw [doAdderOperation_legal hlegal haligned hin, happly]
  rfl

theorem doAdderOperation_resident {s : State} {e : AdderEntry} (hserves : s.poolServes (addr / 64) = true)
    (he : s.adderEntry (addr / 64) = some e) (hentry : (s.pier (s.home addr)).entry (addr / 128) = none) (v cmp : BitVec 128) :
    let old := fld e.data.toNat (8 * (addr % 64)) (8 * aSize (aType a))
    let x := adderValue a old v.toNat cmp.toNat
    let u := doAdderOperation addr a v cmp .none s
    u.out = .adder (BitVec.ofNat 128 old) x.2 false :: s.out ∧ u.pool = s.pool ∧ u.adderEntry (addr / 64) =
      some ⟨addr / 64, putElem e.data (8 * (addr % 64)) (8 * aSize (aType a)) (x.1 % 2 ^ (8 * aSize (aType a)))⟩ := by
  obtain ⟨hanswer, hout, hpool, hplace⟩ := adderApply_resident hserves he hentry a v.toNat cmp.toNat
  intro old x u
  have hu : u = _ := doAdderOperation_legal hlegal haligned hin s v cmp
  rw [hu, State.send_out, State.send_pool, hanswer, hout, hpool]
  exact ⟨rfl, rfl, hplace⟩

end Legal

theorem doAdderOperation_illegal {addr : Nat} {a : BitVec 8} (h : aLegal a = false ∨ addr % aSize (aType a) ≠ 0) (v cmp : BitVec 128)
    (s : State) : doAdderOperation addr a v cmp .none s = s := by
  unfold doAdderOperation
  rw [if_pos (by rcases h with h | h <;> simp [h])]

theorem adderOperation_next {addr : Nat} (h : addr < Config.physEnd) (a : BitVec 8) (v cmp : BitVec 128) (s : State) :
    exec (.adderOperation addr a v cmp .none) s = .next (doAdderOperation addr a v cmp .none s) := require_of (decide_eq_true h)

/-! ### ADDER_STORE_EVICT (R230) -/

theorem adderEvict_absent {s : State} {ch cw : Nat} (h : (s.chan ch).adder.find? (fun x => x.cw == cw) = none) : adderEvict s ch cw = s := by
  unfold adderEvict
  rw [h]

section Evict
variable {s : State} {ch cw : Nat} {e : AdderEntry} (h : (s.chan ch).adder.find? (fun x => x.cw == cw) = some e)
include h

theorem adderEvict_resident : adderEvict s ch cw =
    countMoved ((s.modChan ch fun c => { c with adder := c.adder.filter fun x => x.cw != cw }).modPool fun p => p.put cw e.data false) ch 1 64 := by
  unfold adderEvict
  rw [h]

theorem adderEvict_pool : (adderEvict s ch cw).pool = s.pool.put cw e.data false := by
  rw [adderEvict_resident h, countMoved_pool, State.modPool_pool, State.modChan_pool]

theorem adderEvict_chan : (adderEvict s ch cw).chan ch =
    { s.chan ch with adder := (s.chan ch).adder.filter fun x => x.cw != cw, window := (s.chan ch).window + 64 } := by
  rw [adderEvict_resident h, countMoved_chan, if_pos rfl, State.modPool_chan, State.modChan_chan]

end Evict

/-! ### The statement -/

/-- Settles O34: the operations by what becomes of the element in its codeword, the write-back by the codeword that it writes. -/
theorem adderOperations : Obligations.AdderOperations := by
  unfold Obligations.AdderOperations
  refine ⟨fun addr a v cmp s haddr => ⟨fun hlegal haligned hin => ⟨fun hshut => ?shut, fun e hserves he hentry => ?resident⟩,
    fun hillegal => ?illegal, fun hodd => ?odd, fun ch cw hch => ⟨fun e he => ?evict, fun habsent => ?absent⟩⟩,
    fun addr v cmp e s hin haligned hserves he hentry => ?sum⟩
  case shut => rw [adderOperation_next haddr, doAdderOperation_shut hlegal haligned hin hshut]
  case resident =>
    obtain ⟨hout, hpool, hplace⟩ := doAdderOperation_resident hlegal haligned hin hserves he hentry v cmp
    refine .of_eq (adderOperation_next haddr ..) ⟨hout, hpool, fun x hx => ?_⟩
    obtain rfl := Option.some.inj (hplace.symm.trans hx)
    have hlt := Nat.mod_lt (adderValue a (fld e.data.toNat (8 * (addr % 64)) (8 * aSize (aType a))) v.toNat cmp.toNat).1
      (Nat.two_pow_pos (8 * aSize (aType a)))
    dsimp only
    rw [putElem_toNat _ hlt (aligned_fits haligned)]
    exact fld_putBits_self hlt ..
  case illegal => rw [adderOperation_next haddr, doAdderOperation_illegal (Or.inl hillegal)]
  case odd => rw [adderOperation_next haddr, doAdderOperation_illegal (Or.inr hodd)]
  case evict =>
    have hexec : exec (.adderStoreEvict ch cw .none) s = .next (adderEvict s ch cw) := require_of (okChan_of hch)
    refine .of_eq hexec ?_
    rw [adderEvict_chan he, adderEvict_pool he]
    exact ⟨rfl, fun i hi => Pool.byte_put_inside _ _ _ hi, fun b hb => Pool.byte_put_outside _ _ _ _ hb, Pool.put_poison .., Pool.put_err .., rfl⟩
  case absent =>
    have hexec : exec (.adderStoreEvict ch cw .none) s = .next (adderEvict s ch cw) := require_of (okChan_of hch)
    rw [hexec, adderEvict_absent habsent]
  case sum =>
    intro word i
    have haddr : addr < Config.physEnd := lt_trans (of_decide_eq_true hin) (by decide)
    obtain ⟨hout, hpool, hplace⟩ := doAdderOperation_resident (a := 0) (by decide) haligned hin hserves he hentry v cmp
    have hbit : 8 * (addr % 64) = 32 * i := by omega
    have hwidth : 8 * aSize (aType (0 : BitVec 8)) = 32 := by decide
    have hvalue : ∀ t, adderValue 0 t v.toNat cmp.toNat = ((t % 2 ^ 32 + v.toNat % 2 ^ 32) % 2 ^ 32, 0) := fun t => rfl
    rw [hwidth, hbit, hvalue] at hout hplace
    generalize hsum : (fld e.data.toNat (32 * i) 32 % 2 ^ 32 + v.toNat % 2 ^ 32) % 2 ^ 32 % 2 ^ 32 = sum at hplace
    have hlt : sum < 2 ^ 32 := by omega
    have hdata := putElem_toNat e.data (b := 32 * i) hlt (by omega)
    refine .of_eq (adderOperation_next haddr ..) ⟨hout, hpool, _, hplace, ?_, fun j hj hne => ?_⟩
    · simp only [word, hdata]
      have hself := fld_putBits_self hlt e.data.toNat (32 * i)
      rw [fld] at hself hsum
      omega
    · simp only [word, hdata]
      exact fld_putBits_apart hlt _ _ (by omega)

end Sys2Proof.Machine
end

section
/-!
PROOFS. Reads, fills, writes and drains at a home pier (R214–R219): the halves and the bytes of a line, what a command leaves of the fill queue and
the merging buffer, and the codewords that a drain writes whole.
-/

namespace Sys2Proof.Machine
open Sys2Proof

/-! ### The home of a line (R191, R192) -/

/-- Addresses of one line have one home pier. -/
theorem State.home_of_line (s : State) {a b : Nat} (h : a / 128 = b / 128) : s.home a = s.home b := by
  have hgranule : a / 1024 = b / 1024 := by omega
  have hquarter : a / quarter = b / quarter := by
    have heq : quarter = 128 * 2 ^ 31 := by decide
    rw [heq, ← Nat.div_div_eq_div_mul, ← Nat.div_div_eq_div_mul, h]
  unfold State.home State.locAt locOf
  cases s.pool.packageWide
  · exact hquarter
  · simp only [if_true, hgranule]

/-! ### The halves of a line (R212) -/

theorem getElem_halfData (d : BitVec 1024) (h : Nat) {i : Nat} (hi : i < 512) : (halfData d h)[i] = d.getLsbD (512 * h + i) := by
  rw [← BitVec.getLsbD_eq_getElem, halfData, BitVec.getLsbD_setWidth, BitVec.getLsbD_ushiftRight, decide_eq_true hi, Bool.true_and]

theorem getElem_halfMask (m : BitVec 128) (h : Nat) {i : Nat} (hi : i < 64) : (halfMask m h)[i] = m.getLsbD (64 * h + i) := by
  rw [← BitVec.getLsbD_eq_getElem, halfMask, BitVec.getLsbD_setWidth, BitVec.getLsbD_ushiftRight, decide_eq_true hi, Bool.true_and]

/-- A half put into a line reads back. The other half is another matter: with half 0, `setHalf` also lays the new bytes over half 1. -/
theorem halfData_setHalf (d : BitVec 1024) {h : Nat} (hh : h < 2) (x : BitVec 512) : halfData (setHalf d h x) h = x := by
  refine BitVec.eq_of_getElem_eq fun i hi => ?_
  have hlow : i < 1024 := by omega
  have hhigh : 512 + i < 1024 := by omega
  rw [getElem_halfData _ _ hi]
  obtain rfl | rfl : h = 0 ∨ h = 1 := by omega
  · simp [setHalf, hi, hlow]
  · simp [setHalf, hi, hhigh]

/-- A line is made of its halves. -/
theorem setHalf_halves (d : BitVec 1024) : setHalf (setHalf 0 0 (halfData d 0)) 1 (halfData d 1) = d := by
  refine BitVec.eq_of_getLsbD_eq fun i hi => ?_
  by_cases h : i < 512
  · simp [setHalf, getElem_halfData, hi, h]
  · have hhigh : i - 512 < 512 := by omega
    have hback : 512 + (i - 512) = i := by omega
    have hout : (halfData d 0).getLsbD i = false := BitVec.getLsbD_of_ge _ _ (by omega)
    simp [setHalf, getElem_halfData, hi, h, hhigh, hback, hout]

/-- A mask is made of its halves. -/
theorem halfMask_halves (m : BitVec 128) : (halfMask m 0).setWidth 128 ||| ((halfMask m 1).setWidth 128 <<< 64) = m := by
  refine BitVec.eq_of_getLsbD_eq fun i hi => ?_
  by_cases h : i < 64
  · simp [getElem_halfMask, hi, h]
  · have hhigh : i - 64 < 64 := by omega
    have hback : 64 + (i - 64) = i := by omega
    have hout : (halfMask m 0).getLsbD i = false := BitVec.getLsbD_of_ge _ _ (by omega)
    simp [getElem_halfMask, hi, h, hhigh, hback, hout]

/-- A byte of a half is a byte of the line. -/
theorem cwByte_halfData (d : BitVec 1024) (h : Nat) {i : Nat} (hi : i < 64) : cwByte (halfData d h) i = d.extractLsb' (8 * (64 * h + i)) 8 := by
  refine BitVec.eq_of_getLsbD_eq fun j hj => ?_
  have hin : 8 * i + j < 512 := by omega
  have hplace : 512 * h + (8 * i + j) = 8 * (64 * h + i) + j := by omega
  simp [cwByte, getElem_halfData, hj, hin, hplace]

/-! ### Merges under a mask of a whole line (R217) -/

theorem mergeBytes_all (n mask old new : Nat) (h : ∀ i, i < n → mask.testBit i = true) : mergeBytes n mask old new = new % 256 ^ n := by
  induction n generalizing mask old new with
  | zero => rw [mergeBytes, pow_zero, Nat.mod_one]
  | succ n ih =>
    have hlow : mask % 2 = 1 := by simpa using h 0 (by omega)
    rw [mergeBytes, if_pos hlow, ih _ _ _ fun i hi => by rw [← Nat.testBit_succ]; exact h (i + 1) (by omega), pow_succ', Nat.mod_mul]

/-- A word is the one of its number within its size. -/
theorem ofNat_toNat_mod {w n : Nat} (d : BitVec w) (h : n = 2 ^ w) : BitVec.ofNat w (d.toNat % n) = d := by
  rw [h, BitVec.toNat_mod_cancel, BitVec.ofNat_toNat, BitVec.setWidth_eq]

theorem mergeLine_all (old new : BitVec 1024) : mergeLine (BitVec.allOnes 128) old new = new := by
  have hbits : ∀ i, i < 128 → (BitVec.allOnes 128).toNat.testBit i = true := fun i hi => by
    rw [BitVec.testBit_toNat, BitVec.getLsbD_allOnes, decide_eq_true hi]
  have hsize : (256 : Nat) ^ 128 = 2 ^ 1024 := by rw [show (1024 : Nat) = 8 * 128 from rfl, pow_mul, show (2 : Nat) ^ 8 = 256 from rfl]
  rw [mergeLine, mergeBytes_all 128 _ _ _ hbits]
  exact ofNat_toNat_mod new hsize

/-! ### Writes that reach the stacks (R194, R218) -/

/-- A codeword written whole leaves what serves it and the others. -/
theorem putCw_sameAccess (s : State) (cw : Nat) (d : BitVec 512) (b : Bool) : SameAccess s (s.modPool fun p => p.put cw d b) where
  st := by rw [State.modPool_pool]; simp only [Pool.put]
  mode := by rw [State.modPool_pool]; simp only [Pool.put]
  key := by rw [State.modPool_pool]; simp only [Pool.put]
  test _ := by rw [State.modPool_chan]
  adder _ := by rw [State.modPool_chan]

/-- The write of half `h` of an entry as it drains. -/
def drainHalf (p : Nat) (m : Merge) (h : Nat) (s : State) : State :=
  if halfMask m.mask h = 0 then s
  else
    (ctrlWrite (bump s (unitCtr (pcacheBase p) (if halfMask m.mask h = BitVec.allOnes 64 then 4 else 5)) 1) (2 * m.line + h) (halfMask m.mask h)
      (halfData m.data h)).1

theorem drainEntry_eq (s : State) (p : Nat) (m : Merge) : drainEntry s p m =
    drainHalf p m 1 (drainHalf p m 0 (s.modPier p fun P => { P with merges := P.merges.filter fun e => e.line != m.line })) := rfl

theorem drainHalf_le (p : Nat) (m : Merge) (h : Nat) (s : State) : Le 755794712 s (drainHalf p m h s) :=
  Le.ite (fun _ => Le.refl ..) fun _ => (Le.next (bump_le ..) (by decide) (Le.refl ..)).then (ctrlWrite_le ..) (by decide)

/-- An entry leaves the buffer as it drains, and nothing else of any pier changes. -/
theorem drainEntry_pier (s : State) (p : Nat) (m : Merge) (j : Nat) :
    (drainEntry s p m).pier j = (s.modPier p fun P => { P with merges := P.merges.filter fun e => e.line != m.line }).pier j := by
  rw [drainEntry_eq, (drainHalf_le ..).pier rfl, (drainHalf_le ..).pier rfl]

theorem drainHalf_none {p : Nat} {m : Merge} {h : Nat} (hmask : halfMask m.mask h = 0) (s : State) : drainHalf p m h s = s := if_pos hmask

/-- A half that is written whole goes to its controller as a whole codeword (R218). -/
theorem drainHalf_whole {s : State} {p : Nat} {m : Merge} {h : Nat} (hmask : halfMask m.mask h = BitVec.allOnes 64)
    (hserves : s.poolServes (2 * m.line + h) = true) (hnone : s.adderEntry (2 * m.line + h) = none) :
    (drainHalf p m h s).pool = s.pool.put (2 * m.line + h) (halfData m.data h) false ∧ (drainHalf p m h s).out = s.out ∧
      SameAccess s (drainHalf p m h s) := by
  have hne : BitVec.allOnes 64 ≠ 0 := by decide
  have hcount := (bump_le s (unitCtr (pcacheBase p) 4) 1).sameAccess rfl rfl
  unfold drainHalf
  rw [hmask, if_neg hne, if_pos rfl, ctrlWrite_whole (by rw [hcount.poolServes, hserves]) (by rw [hcount.adderEntry, hnone])]
  dsimp only
  refine ⟨?_, ?_, (hcount.trans (putCw_sameAccess ..)).trans (countMoved_sameAccess ..)⟩
  · rw [countMoved_pool, State.modPool_pool, bump_pool]
  · rw [countMoved_out, State.modPool_out, bump_out]

/-- A buffer with fewer than 896 entries drains none of them (R218). -/
theorem drainFull_room {s : State} {p : Nat} (h : (s.pier p).merges.length < 896) (n : Nat) : drainFull n s p = s := by
  cases n with
  | zero => rfl
  | succ n =>
    unfold drainFull
    split
    · exact if_neg (by omega)
    · rfl

/-! ### What a read leaves of a pier (R214–R216) -/

/-- Two piers have the same fill queue, with the limits under which it takes fetches (R215, R216). -/
structure Pier.SameQueue (P Q : Pier) : Prop where
  fills : Q.fills = P.fills
  fillThr : Q.fillThr = P.fillThr
  prefetch : Q.prefetch = P.prefetch

theorem Pier.SameQueue.trans {P Q R : Pier} (h : P.SameQueue Q) (g : Q.SameQueue R) : P.SameQueue R where
  fills := g.fills.trans h.fills
  fillThr := g.fillThr.trans h.fillThr
  prefetch := g.prefetch.trans h.prefetch

theorem touchLine_pier {s : State} {p line : Nat} {c : CLine} (h : (s.pier p).find line = some c) :
    (touchLine s p line).pier p = ((s.pier p).modLine line fun c => { c with fresh := false }).use line c.way := by
  unfold touchLine
  rw [h]
  exact State.modPier_pier ..

/-- A line that a demand read touches stays where it is (R214, R215). -/
theorem touchLine_find {s : State} {p line : Nat} {c : CLine} (h : (s.pier p).find line = some c) :
    ((touchLine s p line).pier p).find line = some { c with fresh := false } := by
  rw [touchLine_pier h]
  refine (Pier.find_modLine (f := fun c => { c with fresh := false }) (s.pier p) line (fun _ => rfl) line).trans ?_
  rw [if_pos rfl, h, Option.map_some]

/-- A touch changes no fetch, no entry of the buffer and no line's name. -/
theorem touchLine_keeps (s : State) (p line : Nat) : (s.pier p).SameQueue ((touchLine s p line).pier p) ∧
    ((touchLine s p line).pier p).merges = (s.pier p).merges ∧
    ((touchLine s p line).pier p).lines.map (·.line) = (s.pier p).lines.map (·.line) := by
  cases h : (s.pier p).find line with
  | none =>
    have hsame : touchLine s p line = s := by
      unfold touchLine
      rw [h]
    rw [hsame]
    exact ⟨⟨rfl, rfl, rfl⟩, rfl, rfl⟩
  | some c =>
    rw [touchLine_pier h]
    refine ⟨⟨rfl, rfl, rfl⟩, rfl, ?_⟩
    change List.map _ (List.map _ (s.pier p).lines) = _
    rw [List.map_map]
    refine List.map_congr_left fun c _ => ?_
    dsimp only [Function.comp_apply]
    split <;> rfl

theorem allocLine_sameQueue (s : State) (p line : Nat) (fresh : Bool) : (s.pier p).SameQueue ((allocLine s p line fresh).pier p) := by
  unfold allocLine
  split
  · rw [State.modPier_pier]
    cases fresh
    · exact ⟨rfl, rfl, rfl⟩
    · exact ⟨rfl, rfl, rfl⟩
  · exact ⟨rfl, rfl, rfl⟩

theorem addFills_fills (s : State) (p : Nat) (cws : List Nat) (allocate prefetch : Bool) : ((addFills s p cws allocate prefetch).pier p).fills =
    (s.pier p).fills ++ cws.map fun cw => ⟨cw, allocate, prefetch, none⟩ := by
  rw [addFills, State.modPier_pier]

/-- A next-line prefetch adds at most the fetches of the next line, where prefetching is on (R215). -/
theorem prefetchNext_fills (s : State) (p line : Nat) : ∃ l, ((prefetchNext s p line).pier p).fills = (s.pier p).fills ++ l ∧
    ∀ f ∈ l, (s.pier p).prefetch = true ∧ f.prefetch = true ∧ f.cw / 2 = line + 1 := by
  unfold prefetchNext
  dsimp only
  split
  case isTrue h =>
    obtain ⟨hon, -⟩ := h
    refine ⟨[2 * line + 2, 2 * line + 3].map fun cw => ⟨cw, true, true, none⟩, ?_, ?_⟩
    · rw [addFills_fills, (allocLine_sameQueue ..).fills, bump_pier]
    · intro f hf
      simp only [List.map_cons, List.map_nil, List.mem_cons, List.not_mem_nil, or_false] at hf
      rcases hf with rfl | rfl
      · exact ⟨hon, rfl, by dsimp only; omega⟩
      · exact ⟨hon, rfl, by dsimp only; omega⟩
  case isFalse => exact ⟨[], (List.append_nil _).symm, fun f hf => absurd hf List.not_mem_nil⟩

/-! ### The codewords that a read misses (R214) -/

theorem missing_nil {sectors valid : BitVec 4} (h : sectors &&& ~~~valid = 0) (line : Nat) : missing line sectors valid = [] := by
  simp [missing, h]

/-- A sector lies in one half of its line or in the other. -/
theorem sector_of_half : ∀ need : BitVec 4, need ≠ 0 → need &&& 3#4 ≠ 0 ∨ need &&& 12#4 ≠ 0 := by decide

theorem missing_ne_nil {sectors valid : BitVec 4} (h : sectors &&& ~~~valid ≠ 0) (line : Nat) : missing line sectors valid ≠ [] := by
  unfold missing
  dsimp only
  rcases sector_of_half _ h with hlow | hhigh
  · rw [if_pos hlow]
    simp
  · rw [if_pos hhigh]
    simp

theorem missing_length (line : Nat) (sectors valid : BitVec 4) : (missing line sectors valid).length ≤ 2 := by
  unfold missing
  dsimp only
  split <;> split <;> simp

/-! ### PIER_READ (R205, R214–R216) -/

theorem overBuffer_none {s : State} {cw : Nat} (h : (s.pier (s.home (64 * cw))).entry (cw / 2) = none) (v : BitVec 512 × Bool) :
    overBuffer s cw v = v := by
  unfold overBuffer
  rw [h]

/-- What a read of valid sectors delivers where the line has no poison and waits in no merging buffer: the line's bytes. -/
theorem deliver_plain {s : State} {p line : Nat} {c : CLine} {sectors : BitVec 4} (hhome : s.home (128 * line) = p)
    (hfind : (s.pier p).find line = some c) (hpoison : c.poison = 0) (hentry : (s.pier p).entry line = none) (hsectors : sectors ≠ 0) :
    deliver s p line sectors = s.send (.pierData line sectors (mergeLine (sectorMask sectors) 0 c.data) 0) := by
  have hhit : ∀ h, h < 2 → hitCw s p (2 * line + h) = (halfData c.data h, false) := fun h hh => by
    have hline : (2 * line + h) / 2 = line := by omega
    have hhalf : (2 * line + h) % 2 = h := by omega
    have hplace : s.home (64 * (2 * line + h)) = p := (s.home_of_line (by omega)).trans hhome
    unfold hitCw
    rw [hline, hfind, hhalf]
    dsimp only
    rw [overBuffer_none (by rw [hplace, hline]; exact hentry), hpoison]
    exact Prod.ext rfl BitVec.getLsbD_zero
  have hlow := hhit 0 (by decide)
  have hhigh := hhit 1 (by decide)
  unfold deliver
  rw [if_neg hsectors]
  dsimp only
  rw [show hitCw s p (2 * line) = _ from hlow, hhigh]
  dsimp only
  rw [setHalf_halves]
  rfl

/-- A read that has missed, before its fetches are entered: it has delivered what is valid, and touched its line. -/
def readMissed (s : State) (p line : Nat) (sectors : BitVec 4) : State :=
  bump (touchLine (deliver s p line (sectors &&& (s.pier p).validOf line)) p line) (unitCtr (pcacheBase p) 1) 1

theorem readMissed_pool (s : State) (p line : Nat) (sectors : BitVec 4) : (readMissed s p line sectors).pool = s.pool := by
  rw [readMissed, bump_pool]
  exact Eq.trans ((touchLine_le ..).same .pool rfl) ((deliver_le ..).same .pool rfl)

theorem readMissed_keeps (s : State) (p line : Nat) (sectors : BitVec 4) : (s.pier p).SameQueue ((readMissed s p line sectors).pier p) ∧
    ((readMissed s p line sectors).pier p).lines.map (·.line) = (s.pier p).lines.map (·.line) := by
  have hpier := (deliver_le s p line (sectors &&& (s.pier p).validOf line)).pier rfl p
  obtain ⟨hqueue, -, hnames⟩ := touchLine_keeps (deliver s p line (sectors &&& (s.pier p).validOf line)) p line
  rw [readMissed, bump_pier]
  rw [hpier] at hqueue hnames
  exact ⟨hqueue, hnames⟩

section Read
variable {s : State} {p addr : Nat} {sectors : BitVec 4} (hin : inPool addr = true) (hhome : s.home addr = p) (hsectors : sectors ≠ 0)
include hin hhome hsectors

theorem pierRead_due : ¬ (!inPool addr || s.home addr ≠ p || sectors = 0 : Bool) = true := by
  simp only [hin, hhome, Bool.not_true, Bool.false_or, ne_eq, not_true_eq_false, decide_false, decide_eq_true_eq]
  exact hsectors

/-- A read where the pool does not serve delivers poison (R205). -/
theorem doPierRead_shut (h : s.poolServes (2 * (addr / 128)) = false) :
    doPierRead p addr sectors .none s = s.send (.pierData (addr / 128) sectors 0 3) := by
  unfold doPierRead
  dsimp only
  rw [if_neg (pierRead_due hin hhome hsectors), h, Bool.not_false, if_pos rfl]

variable (hserves : s.poolServes (2 * (addr / 128)) = true)
include hserves

/-- A read of valid sectors touches its line and is served from it. -/
theorem doPierRead_hit (h : sectors &&& ~~~(s.pier p).validOf (addr / 128) = 0) : doPierRead p addr sectors .none s =
    deliver (bump (touchLine s p (addr / 128)) (unitCtr (pcacheBase p) 0) 1) p (addr / 128) sectors := by
  unfold doPierRead
  dsimp only [sramError]
  rw [if_neg (pierRead_due hin hhome hsectors), hserves, Bool.not_true, if_neg Bool.false_ne_true, if_pos (missing_nil h _)]

variable (hmiss : sectors &&& ~~~(s.pier p).validOf (addr / 128) ≠ 0) (hroom : (s.pier p).fills.length + 2 ≤ 256)
include hmiss hroom

/-- A read that misses enters its fetches, without an allocation where the queue has reached FILLTHR. -/
theorem doPierRead_miss : doPierRead p addr sectors .none s =
    let u := readMissed s p (addr / 128) sectors
    let asked := missing (addr / 128) sectors ((s.pier p).validOf (addr / 128))
    if (u.pier p).fillThr ≤ (u.pier p).fills.length then addFills (bump u (unitCtr (pcacheBase p) 2) 1) p asked false false
    else prefetchNext (addFills (if (u.pier p).find (addr / 128) = none then allocLine u p (addr / 128) false else u) p asked true false) p
      (addr / 128) := by
  have hlen := missing_length (addr / 128) sectors ((s.pier p).validOf (addr / 128))
  unfold doPierRead
  dsimp only [sramError]
  rw [if_neg (pierRead_due hin hhome hsectors), hserves, Bool.not_true, if_neg Bool.false_ne_true, if_neg (missing_ne_nil hmiss _),
    if_neg (by omega)]
  rfl

end Read

/-- A read of valid sectors of an ordinary line delivers their bytes and starts no fetch (R214). -/
theorem doPierRead_hit_out {s : State} {p addr : Nat} {sectors : BitVec 4} (hin : inPool addr = true) (hhome : s.home addr = p)
    (hsectors : sectors ≠ 0) (hserves : s.poolServes (2 * (addr / 128)) = true) {c : CLine} (hfind : (s.pier p).find (addr / 128) = some c)
    (hvalid : sectors &&& ~~~c.valid = 0) (hpoison : c.poison = 0) (hentry : (s.pier p).entry (addr / 128) = none) :
    let u := doPierRead p addr sectors .none s
    u.out = .pierData (addr / 128) sectors (mergeLine (sectorMask sectors) 0 c.data) 0 :: s.out ∧ (u.pier p).fills = (s.pier p).fills ∧
      (u.pier p).merges = (s.pier p).merges ∧ u.pool = s.pool := by
  obtain ⟨hqueue, hmerges, -⟩ := touchLine_keeps s p (addr / 128)
  have htouch := touchLine_le s p (addr / 128)
  generalize hv : bump (touchLine s p (addr / 128)) (unitCtr (pcacheBase p) 0) 1 = v
  have hpier : v.pier p = (touchLine s p (addr / 128)).pier p := by rw [← hv, bump_pier]
  have hpool : v.pool = s.pool := by rw [← hv, bump_pool]; exact htouch.same .pool rfl
  have hout : v.out = s.out := by rw [← hv, bump_out]; exact htouch.same .out rfl
  have hplace : v.home (128 * (addr / 128)) = p := by
    rw [← hv, ((bump_le ..).sameAccess rfl rfl).home, (htouch.sameAccess rfl rfl).home]
    exact (s.home_of_line (by omega)).trans hhome
  have hread : doPierRead p addr sectors .none s = v.send (.pierData (addr / 128) sectors (mergeLine (sectorMask sectors) 0 c.data) 0) := by
    rw [doPierRead_hit hin hhome hsectors hserves (by rw [Pier.validOf, hfind]; exact hvalid), hv]
    refine deliver_plain (c := { c with fresh := false }) hplace ?_ hpoison ?_ hsectors
    · rw [hpier, touchLine_find hfind]
    · rw [hpier, Pier.entry, hmerges]
      exact hentry
  dsimp only
  rw [hread]
  refine ⟨congrArg _ hout, ?_, ?_, hpool⟩
  · exact (congrArg Pier.fills hpier).trans hqueue.fills
  · exact (congrArg Pier.merges hpier).trans hmerges

section Miss
variable {s : State} {p addr : Nat} {sectors : BitVec 4} (hin : inPool addr = true) (hhome : s.home addr = p) (hsectors : sectors ≠ 0)
  (hserves : s.poolServes (2 * (addr / 128)) = true) (hmiss : sectors &&& ~~~(s.pier p).validOf (addr / 128) ≠ 0)
  (hroom : (s.pier p).fills.length + 2 ≤ 256)
include hin hhome hsectors hserves hmiss hroom

/-- A miss below FILLTHR enters its fetches to be allocated, and perhaps those of the next line (R215, R216). -/
theorem doPierRead_room (hthr : (s.pier p).fills.length < (s.pier p).fillThr) :
    let u := doPierRead p addr sectors .none s
    u.pool = s.pool ∧ ∃ l, (u.pier p).fills = ((s.pier p).fills ++
      (missing (addr / 128) sectors ((s.pier p).validOf (addr / 128))).map fun cw => ⟨cw, true, false, none⟩) ++ l ∧
      ∀ f ∈ l, (s.pier p).prefetch = true ∧ f.prefetch = true ∧ f.cw / 2 = addr / 128 + 1 := by
  obtain ⟨hqueue, -⟩ := readMissed_keeps s p (addr / 128) sectors
  have hpool := readMissed_pool s p (addr / 128) sectors
  have hread := doPierRead_miss hin hhome hsectors hserves hmiss hroom
  dsimp only at hread ⊢
  generalize readMissed s p (addr / 128) sectors = u at hqueue hpool hread
  rw [hqueue.fillThr, hqueue.fills, if_neg (by omega)] at hread
  generalize hv : (if (u.pier p).find (addr / 128) = none then allocLine u p (addr / 128) false else u) = v at hread
  have hvqueue : (s.pier p).SameQueue (v.pier p) ∧ v.pool = s.pool := by
    rw [← hv]
    split
    · exact ⟨hqueue.trans (allocLine_sameQueue ..), Eq.trans ((allocLine_le ..).same .pool rfl) hpool⟩
    · exact ⟨hqueue, hpool⟩
  obtain ⟨hvqueue, hvpool⟩ := hvqueue
  generalize hw : addFills v p (missing (addr / 128) sectors ((s.pier p).validOf (addr / 128))) true false = w at hread
  have hwpool : w.pool = v.pool := by rw [← hw]; rfl
  have hwprefetch : (w.pier p).prefetch = (v.pier p).prefetch := by rw [← hw, addFills, State.modPier_pier]
  obtain ⟨l, hfills, hl⟩ := prefetchNext_fills w p (addr / 128)
  rw [hread]
  refine ⟨Eq.trans ((prefetchNext_le ..).same .pool rfl) (hwpool.trans hvpool), l, ?_, fun f hf => ?_⟩
  · rw [hfills, ← hw, addFills_fills, hvqueue.fills]
  · rw [← hvqueue.prefetch, ← hwprefetch]
    exact hl f hf

/-- A miss where the queue has reached FILLTHR enters its fetches without an allocation (R216). -/
theorem doPierRead_full (hthr : (s.pier p).fillThr ≤ (s.pier p).fills.length) :
    let u := doPierRead p addr sectors .none s
    (u.pier p).fills = (s.pier p).fills ++
      (missing (addr / 128) sectors ((s.pier p).validOf (addr / 128))).map (fun cw => ⟨cw, false, false, none⟩) ∧
      (u.pier p).lines.map (·.line) = (s.pier p).lines.map (·.line) ∧ u.pool = s.pool := by
  obtain ⟨hqueue, hnames⟩ := readMissed_keeps s p (addr / 128) sectors
  have hpool := readMissed_pool s p (addr / 128) sectors
  have hread := doPierRead_miss hin hhome hsectors hserves hmiss hroom
  dsimp only at hread ⊢
  rw [hqueue.fillThr, hqueue.fills, if_pos hthr] at hread
  rw [hread]
  refine ⟨?_, ?_, ?_⟩
  · rw [addFills_fills, bump_pier, hqueue.fills]
  · rw [addFills, State.modPier_pier, bump_pier]
    exact hnames
  · rw [addFills, State.modPier_pool, bump_pool, hpool]

end Miss

/-! ### FILL_RETURN (R214) -/

/-- A codeword in the stack without error or poison decodes as it is (R195). -/
theorem Pool.decode_plain {p : Pool} {cw : Nat} (herr : Tab.get 0 p.err cw = 0) (hpoison : Tab.get false p.poison cw = false) :
    p.decode cw = (.clean, p.data cw, false) := by
  rw [Pool.decode, herr, hpoison, decodeCw_zero, if_neg Bool.false_ne_true]

/-- A plain codeword of the stack is read as it is, and the read is counted (R196). -/
theorem ctrlRead_plain {s : State} {cw : Nat} (hserves : s.poolServes cw = true) (hnone : s.adderEntry cw = none)
    (herr : Tab.get 0 s.pool.err cw = 0) (hpoison : Tab.get false s.pool.poison cw = false) :
    ctrlRead s cw false = (countMoved s (s.chOf cw) 0 64, s.pool.data cw, false) := by
  have hclean := Pool.decode_plain herr hpoison
  unfold ctrlRead
  rw [hserves, Bool.not_true, if_neg Bool.false_ne_true, hnone]
  dsimp only
  rw [stackRead_clean false (congrArg Prod.fst hclean), hclean, if_neg Bool.false_ne_true]

/-- Where no bit flips on the way, none of a codeword does (R262). -/
theorem flipWord_nil (a : Nat) : flipWord [] a = 0#512 := by
  rw [flipWord, arrive_unflipped]
  rfl

/-- A line after a codeword has been put into it (R214). -/
def CLine.filled (c : CLine) (h : Nat) (d : BitVec 512) : CLine :=
  { c with valid := c.valid ||| BitVec.ofNat 4 (3 * 4 ^ h), data := setHalf c.data h d, poison := c.poison &&& ~~~(BitVec.ofNat 2 (2 ^ h)) }

theorem fillCw_pier (s : State) (p cw : Nat) (d : BitVec 512) :
    (fillCw s p cw d false).pier p = (s.pier p).modLine (cw / 2) (·.filled (cw % 2) d) := State.modPier_pier ..

/-- The half that is filled holds its codeword, and is valid without poison. -/
theorem CLine.filled_half (c : CLine) {h : Nat} (hh : h < 2) (d : BitVec 512) :
    halfData (c.filled h d).data h = d ∧ (c.filled h d).halfValid h = true ∧ (c.filled h d).poison.getLsbD h = false := by
  refine ⟨halfData_setHalf _ hh _, ?_, ?_⟩
  · obtain rfl | rfl : h = 0 ∨ h = 1 := by omega
    · simp [CLine.halfValid, CLine.filled]
    · simp [CLine.halfValid, CLine.filled]
  · obtain rfl | rfl : h = 0 ∨ h = 1 := by omega
    · simp [CLine.filled]
    · simp [CLine.filled]

section FillReturn
variable {s : State} {p : Nat} {f : Fill} (hfind : (s.pier p).fills.find? (fun x => x.cw == f.cw) = some f) (hval : f.val = none)
  (hhome : s.home (64 * f.cw) = p) (hentry : (s.pier p).entry (f.cw / 2) = none) (hserves : s.poolServes f.cw = true)
  (hnone : s.adderEntry f.cw = none) (herr : Tab.get 0 s.pool.err f.cw = 0) (hpoison : Tab.get false s.pool.poison f.cw = false)
include hfind hval hhome hentry hserves hnone herr hpoison

/-- The state that a plain fetch leaves before its delivery: the fetch is gone, the read is counted, and the line is filled. -/
theorem doFillReturn_plain : ∃ u, u.out = s.out ∧ u.pool = s.pool ∧
    u.pier p = ({ s.pier p with fills := (s.pier p).fills.eraseP fun x => x.cw == f.cw } : Pier).modLine (f.cw / 2)
      (·.filled (f.cw % 2) (s.pool.data f.cw)) ∧
    doFillReturn p f.cw false [] s = if f.prefetch then u
      else u.send (.pierData (f.cw / 2) (BitVec.ofNat 4 (3 * 4 ^ (f.cw % 2))) (setHalf 0 (f.cw % 2) (s.pool.data f.cw)) 0) := by
  generalize hv : s.modPier p (fun P => { P with fills := P.fills.eraseP fun x => x.cw == f.cw }) = v
  have hvpier : v.pier p = { s.pier p with fills := (s.pier p).fills.eraseP fun x => x.cw == f.cw } := by rw [← hv, State.modPier_pier]
  have hread : ctrlRead v f.cw false = (countMoved v (v.chOf f.cw) 0 64, s.pool.data f.cw, false) := by
    rw [← hv]
    exact ctrlRead_plain hserves hnone herr hpoison
  have hmoved := countMoved_le v (v.chOf f.cw) 0 64
  have haccess := countMoved_sameAccess v (v.chOf f.cw) 0 64
  generalize countMoved v (v.chOf f.cw) 0 64 = w at hread hmoved haccess
  have hwpier : w.pier p = v.pier p := hmoved.pier rfl p
  have hwpool : w.pool = s.pool := by
    refine Eq.trans (hmoved.same .pool rfl) ?_
    rw [← hv]
    rfl
  have hwout : w.out = s.out := by
    refine Eq.trans (hmoved.same .out rfl) ?_
    rw [← hv]
    rfl
  have hplace : w.home (64 * f.cw) = p := by
    rw [haccess.home, ← hv]
    exact hhome
  have hfill : fillValue v f.cw false = (w, s.pool.data f.cw, false) := by
    unfold fillValue
    rw [hread]
    dsimp only
    rw [overBuffer_none]
    rw [hplace, hwpier, hvpier]
    exact hentry
  refine ⟨fillCw w p f.cw (s.pool.data f.cw) false, ?_, ?_, ?_, ?_⟩
  · exact Eq.trans ((fillCw_le ..).same .out rfl) hwout
  · exact Eq.trans ((fillCw_le ..).same .pool rfl) hwpool
  · rw [fillCw_pier, hwpier, hvpier]
  · unfold doFillReturn
    rw [hfind]
    dsimp only
    rw [hv, hval]
    dsimp only
    rw [hfill, flipWord_nil]
    dsimp only
    rw [BitVec.xor_zero]
    rfl

/-- A plain fetch that returns delivers its codeword, unless it was a prefetch, and fills its line (R214). -/
theorem doFillReturn_returns : let d := BitVec.ofNat 512 (Memory.le s.pool.bytes (64 * f.cw) 64)
    let u := doFillReturn p f.cw false [] s
    u.out = (if f.prefetch then s.out else .pierData (f.cw / 2) (BitVec.ofNat 4 (3 * 4 ^ (f.cw % 2))) (setHalf 0 (f.cw % 2) d) 0 :: s.out) ∧
      (u.pier p).fills = (s.pier p).fills.eraseP (fun x => x.cw == f.cw) ∧
      (∀ c, (u.pier p).find (f.cw / 2) = some c →
        halfData c.data (f.cw % 2) = d ∧ c.halfValid (f.cw % 2) = true ∧ c.poison.getLsbD (f.cw % 2) = false) ∧
      u.pool.bytes = s.pool.bytes := by
  obtain ⟨v, hout, hpool, hpier, hreturn⟩ := doFillReturn_plain hfind hval hhome hentry hserves hnone herr hpoison
  intro d u
  have hu : u = _ := hreturn
  have hkept : u.pier p = v.pier p ∧ u.pool = v.pool := by
    rw [hu]
    split
    · exact ⟨rfl, rfl⟩
    · exact ⟨rfl, rfl⟩
  obtain ⟨hupier, hupool⟩ := hkept
  refine ⟨?_, ?_, fun c hc => ?_, by rw [hupool, hpool]⟩
  · rw [hu]
    split
    · exact hout
    · rw [State.send_out, hout]
      rfl
  · rw [hupier, hpier]
    rfl
  · rw [hupier, hpier, Pier.find_modLine (f := (·.filled (f.cw % 2) (s.pool.data f.cw))) _ _ (fun _ => rfl), if_pos rfl] at hc
    obtain ⟨c', -, rfl⟩ := Option.map_eq_some_iff.mp hc
    exact c'.filled_half (Nat.mod_lt _ (by decide)) _

end FillReturn

/-! ### PIER_WRITE (R217, R218) -/

/-- A write of which no half is turned away has its whole effect (R197, R205). -/
theorem writtenMask_of_accepted {s : State} {line : Nat} {mask : BitVec 128} (h : writePoison s line mask = none) :
    halfPoisoned s line mask 0 = false ∧ halfPoisoned s line mask 1 = false ∧ writtenMask s line mask = mask := by
  have hhalves : halfPoisoned s line mask 0 = false ∧ halfPoisoned s line mask 1 = false := by
    unfold writePoison at h
    split at h
    · cases h
    · split at h
      · cases h
      · exact ⟨Bool.eq_false_iff.mpr ‹_›, Bool.eq_false_iff.mpr ‹_›⟩
  obtain ⟨hlow, hhigh⟩ := hhalves
  refine ⟨hlow, hhigh, ?_⟩
  unfold writtenMask
  rw [hlow, hhigh, if_neg Bool.false_ne_true, if_neg Bool.false_ne_true]
  exact halfMask_halves mask

/-- A half that a write covers and that is not turned away is served (R205). -/
theorem poolServes_of_half {s : State} {line : Nat} {mask : BitVec 128} {h : Nat} (hmask : halfMask mask h ≠ 0)
    (hhalf : halfPoisoned s line mask h = false) : s.poolServes (2 * line + h) = true := by
  by_contra hserves
  rw [halfPoisoned, Bool.eq_false_iff.mpr hserves, Bool.not_false, Bool.true_or, Bool.and_true, bne_eq_false_iff_eq] at hhalf
  exact hmask hhalf

theorem latchFills_none {s : State} {p cw : Nat} (h : ∀ f ∈ (s.pier p).fills, f.cw ≠ cw) : latchFills s p cw = s := by
  unfold latchFills
  refine if_neg ?_
  rw [List.any_eq_true]
  rintro ⟨f, hf, hcw⟩
  exact h f hf (by simpa using (Bool.and_eq_true_iff.mp hcw).1)

/-- The state in which a new entry waits in the buffer of the line's home pier, behind the others. -/
def entered (s : State) (line : Nat) (mask : BitVec 128) (data : BitVec 1024) : State :=
  (bump s.takeFree (unitCtr (pcacheBase (s.home (128 * line))) 6) s.freeVal).setPier (s.home (128 * line))
    { (s.pier (s.home (128 * line))).modLine line (fun c => c.written mask data) with
      merges := (s.pier (s.home (128 * line))).merges ++ [⟨line, mask, mergeLine mask 0 data⟩] }

section Entered
variable (s : State) (line : Nat) (mask : BitVec 128) (data : BitVec 1024)

theorem entered_pool : (entered s line mask data).pool = s.pool := by
  rw [entered, State.setPier_pool, bump_pool]
  rfl

theorem entered_out : (entered s line mask data).out = s.out := by
  rw [entered, State.setPier_out, bump_out]
  rfl

theorem entered_merges : ((entered s line mask data).pier (s.home (128 * line))).merges =
    (s.pier (s.home (128 * line))).merges ++ [⟨line, mask, mergeLine mask 0 data⟩] := by
  rw [entered, State.setPier_pier]

theorem entered_sameAccess : SameAccess s (entered s line mask data) := by
  refine .of_same (entered_pool ..) ?_
  rw [entered, State.setPier_chans, bump_chans]
  rfl

end Entered

section Write
variable {s : State} {line : Nat} {mask : BitVec 128} (haccepted : writePoison s line mask = none) (hmask : mask ≠ 0)
  (hentry : (s.pier (s.home (128 * line))).entry line = none) (hfills : ∀ f ∈ (s.pier (s.home (128 * line))).fills, f.cw / 2 ≠ line)
  (hroom : (s.pier (s.home (128 * line))).merges.length < 895) (data : BitVec 1024)
include haccepted hmask hentry hfills

/-- A write of a line without an entry and without fetches in progress makes an entry, which drains at once where it is whole (R217, R218). -/
theorem pierStore_new : pierStore s line mask data =
    drainFull 129 (if mask = BitVec.allOnes 128 then
        drainEntry (entered s line mask data) (s.home (128 * line)) ⟨line, mask, mergeLine mask 0 data⟩
      else entered s line mask data) (s.home (128 * line)) := by
  have hlatch : ∀ h, h < 2 → latchFills s (s.home (128 * line)) (2 * line + h) = s := fun h hh =>
    latchFills_none fun f hf hcw => hfills f hf (by omega)
  have hnew : (s.pier (s.home (128 * line))).merges.find? (fun m => m.line == line) = none := hentry
  have hfound : ((entered s line mask data).pier (s.home (128 * line))).entry line = some ⟨line, mask, mergeLine mask 0 data⟩ := by
    rw [Pier.entry, entered_merges, List.find?_append, hnew]
    simp
  unfold pierStore
  dsimp only
  rw [(writtenMask_of_accepted haccepted).2.2, if_neg hmask, show latchFills s _ (2 * line) = s from hlatch 0 (by decide), hlatch 1 (by decide)]
  simp only [bump_pier]
  rw [show (s.takeFree.pier (s.home (128 * line))).entry line = none from hentry]
  change drainFull 129 (match ((entered s line mask data).pier (s.home (128 * line))).entry line with
    | some e => if e.mask = BitVec.allOnes 128 then drainEntry (entered s line mask data) (s.home (128 * line)) e else entered s line mask data
    | none => entered s line mask data) _ = _
  rw [hfound]

include hroom

/-- A write of a part of a line waits in the buffer. -/
theorem pierStore_part (hpart : mask ≠ BitVec.allOnes 128) : pierStore s line mask data = entered s line mask data := by
  rw [pierStore_new haccepted hmask hentry hfills, if_neg hpart]
  refine drainFull_room ?_ _
  rw [entered_merges, List.length_append, List.length_singleton]
  omega

end Write

/-- The entries of a buffer without one of a line are those that stay when that line drains. -/
theorem merges_without {P : Pier} {line : Nat} (h : P.entry line = none) : P.merges.filter (fun e => e.line != line) = P.merges := by
  rw [Pier.entry, List.find?_eq_none] at h
  refine List.filter_eq_self.mpr fun e he => ?_
  simpa using h e he

/-- An entry whose low half is whole, drained: the low codeword is in the stack, and the high half still drains. -/
theorem drainEntry_low {s : State} {p : Nat} {m : Merge} (hmask : halfMask m.mask 0 = BitVec.allOnes 64)
    (hserves : s.poolServes (2 * m.line) = true) (hnone : s.adderEntry (2 * m.line) = none) :
    ∃ u, drainEntry s p m = drainHalf p m 1 u ∧ u.pool = s.pool.put (2 * m.line) (halfData m.data 0) false ∧ u.out = s.out ∧
      SameAccess s u := by
  have htaken := (State.modPier_le s p fun P => { P with merges := P.merges.filter fun e => e.line != m.line }).sameAccess rfl rfl
  obtain ⟨hpool, hout, haccess⟩ := drainHalf_whole (p := p) (m := m) (h := 0) hmask ((htaken.poolServes _).trans hserves)
    ((htaken.adderEntry _).trans hnone)
  exact ⟨_, drainEntry_eq s p m, hpool, hout, htaken.trans haccess⟩

/-- A write of a whole line leaves nothing in the buffer, and both its codewords go to the stacks. -/
theorem pierStore_whole {s : State} {line : Nat} (haccepted : writePoison s line (BitVec.allOnes 128) = none)
    (hentry : (s.pier (s.home (128 * line))).entry line = none) (hfills : ∀ f ∈ (s.pier (s.home (128 * line))).fills, f.cw / 2 ≠ line)
    (hroom : (s.pier (s.home (128 * line))).merges.length < 895) (hlow : s.adderEntry (2 * line) = none)
    (hhigh : s.adderEntry (2 * line + 1) = none) (data : BitVec 1024) :
    let u := pierStore s line (BitVec.allOnes 128) data
    u.out = s.out ∧ (u.pier (s.home (128 * line))).merges = (s.pier (s.home (128 * line))).merges ∧
      u.pool = (s.pool.put (2 * line) (halfData data 0) false).put (2 * line + 1) (halfData data 1) false := by
  have hhalves : halfMask (BitVec.allOnes 128) 0 = BitVec.allOnes 64 ∧ halfMask (BitVec.allOnes 128) 1 = BitVec.allOnes 64 := by decide
  have hwhole : halfMask (BitVec.allOnes 128) 0 ≠ 0 ∧ halfMask (BitVec.allOnes 128) 1 ≠ 0 := by decide
  obtain ⟨hlowOk, hhighOk, -⟩ := writtenMask_of_accepted haccepted
  have hstore := pierStore_new haccepted (by decide) hentry hfills data
  rw [if_pos rfl, mergeLine_all] at hstore
  generalize hv : entered s line (BitVec.allOnes 128) data = v at hstore
  have haccess : SameAccess s v := by rw [← hv]; exact entered_sameAccess ..
  have hmerges : (v.pier (s.home (128 * line))).merges = (s.pier (s.home (128 * line))).merges ++ [⟨line, BitVec.allOnes 128, data⟩] := by
    rw [← hv, entered_merges, mergeLine_all]
  have hservesLow : v.poolServes (2 * line) = true := by
    rw [haccess.poolServes]
    exact poolServes_of_half (line := line) (h := 0) hwhole.1 hlowOk
  have hnoneLow : v.adderEntry (2 * line) = none := by rw [haccess.adderEntry, hlow]
  obtain ⟨w, hdrain, hwpool, hwout, hwaccess⟩ := drainEntry_low (s := v) (p := s.home (128 * line)) (m := ⟨line, BitVec.allOnes 128, data⟩)
    hhalves.1 hservesLow hnoneLow
  have hservesHigh : w.poolServes (2 * line + 1) = true := by
    rw [(haccess.trans hwaccess).poolServes]
    exact poolServes_of_half (line := line) (h := 1) hwhole.2 hhighOk
  have hnoneHigh : w.adderEntry (2 * line + 1) = none := by rw [(haccess.trans hwaccess).adderEntry, hhigh]
  obtain ⟨hpool, hout, -⟩ := drainHalf_whole (s := w) (p := s.home (128 * line)) (m := ⟨line, BitVec.allOnes 128, data⟩) (h := 1) hhalves.2
    hservesHigh hnoneHigh
  rw [← hdrain] at hpool hout
  have hleft : ((drainEntry v (s.home (128 * line)) ⟨line, BitVec.allOnes 128, data⟩).pier (s.home (128 * line))).merges =
      (s.pier (s.home (128 * line))).merges := by
    rw [drainEntry_pier, State.modPier_pier]
    dsimp only
    rw [hmerges, List.filter_append, merges_without hentry]
    simp
  rw [drainFull_room (by rw [hleft]; omega)] at hstore
  intro u
  rw [show u = _ from hstore]
  refine ⟨?_, hleft, ?_⟩
  · rw [hout, hwout, ← hv, entered_out]
  · rw [hpool, hwpool, ← hv, entered_pool]

/-- The bytes of a line whose two codewords are written whole. -/
theorem Pool.byte_put_line (p : Pool) (line : Nat) (d : BitVec 1024) {i : Nat} (hi : i < 128) :
    Memory.byte ((p.put (2 * line) (halfData d 0) false).put (2 * line + 1) (halfData d 1) false).bytes (128 * line + i) =
      d.extractLsb' (8 * i) 8 := by
  by_cases hlow : i < 64
  · rw [Pool.byte_put_outside _ _ _ _ (by omega), show 128 * line + i = 64 * (2 * line) + i by omega, Pool.byte_put_inside _ _ _ hlow,
      cwByte_halfData _ _ hlow, Nat.mul_zero, Nat.zero_add]
  · have hi' : i - 64 < 64 := by omega
    rw [show 128 * line + i = 64 * (2 * line + 1) + (i - 64) by omega, Pool.byte_put_inside _ _ _ hi', cwByte_halfData _ _ hi',
      show 64 * 1 + (i - 64) = i by omega]

theorem doPierWrite_home {s : State} {p line : Nat} (hin : inPool (128 * line) = true) (hhome : s.home (128 * line) = p) (mask : BitVec 128)
    (data : BitVec 1024) : doPierWrite p line mask data s =
      (pierStore s line mask data).send (.memAck (2 * line) (writePoison s line mask).isSome) := by
  unfold doPierWrite
  rw [if_neg (by simp [hin, hhome])]

theorem doMergeAgeDrain_eq (p line : Nat) (s : State) : doMergeAgeDrain p line .none s = drainLine s p line := rfl

/-! ### The statement -/

/-- Settles O31: the reads by whether they hit, the fetch by the value that it brings, the writes and the drain by what becomes of the entry. -/
theorem pierAccesses : Obligations.PierAccesses := by
  unfold Obligations.PierAccesses
  intro p addr sectors s hp hin hhome
  have hokPier : decide (p < 4) = true := decide_eq_true hp
  extract_lets line P asked
  refine ⟨fun hsectors => ⟨fun hshut => ?shut, fun hserves => ⟨fun c hfind hvalid hpoison hentry => ?hit, fun hmiss hthr hroom => ?room,
    fun hmiss hthr hroom => ?full⟩⟩, fun f hfind hval hline hentry hserves hnone herr hpoison => ?fill,
    fun mask data haddr haccepted hentry hfills hroom => ⟨fun hmask hpart => ?part, fun hmask hlow hhigh => ?whole⟩, fun m hm => ?drain,
    fun hentry => ?nothing⟩
  case shut =>
    have hexec : exec (.pierRead p addr sectors .none) s = .next (doPierRead p addr sectors .none s) := require_of hokPier
    rw [hexec, doPierRead_shut hin hhome hsectors hshut]
  case hit => exact .of_eq (require_of hokPier) (doPierRead_hit_out hin hhome hsectors hserves hfind hvalid hpoison hentry)
  case room =>
    obtain ⟨hpool, l, hfills, hl⟩ := doPierRead_room hin hhome hsectors hserves hmiss hroom hthr
    refine .of_eq (require_of hokPier) ?_
    have hlen : P.fills.length + asked.length = (P.fills ++ asked).length := (List.length_append ..).symm
    rw [hfills, hlen, List.take_left, List.drop_left]
    exact ⟨rfl, hpool, hl⟩
  case full => exact .of_eq (require_of hokPier) (doPierRead_full hin hhome hsectors hserves hmiss hroom hthr)
  case fill =>
    have hplace : s.home (64 * f.cw) = p := (s.home_of_line (by omega)).trans hhome
    have hreturn := doFillReturn_returns hfind hval hplace (by rw [hline]; exact hentry) hserves hnone herr hpoison
    rw [hline] at hreturn
    exact .of_eq (require_of hokPier) hreturn
  case part =>
    have haddr' : 128 * line = addr := by omega
    have hplace : s.home (128 * line) = p := by rw [haddr', hhome]
    subst hplace
    refine .of_eq (require_of hokPier) ?_
    rw [doPierWrite_home (by rw [haddr', hin]) rfl, haccepted, pierStore_part haccepted hmask hentry hfills hroom data hpart]
    exact ⟨congrArg _ (entered_out ..), entered_merges .., entered_pool s line mask data⟩
  case whole =>
    have haddr' : 128 * line = addr := by omega
    have hplace : s.home (128 * line) = p := by rw [haddr', hhome]
    subst hplace hmask
    obtain ⟨hout, hmerges, hpool⟩ := pierStore_whole haccepted hentry hfills hroom hlow hhigh data
    refine .of_eq (require_of hokPier) ?_
    rw [doPierWrite_home (by rw [haddr', hin]) rfl, haccepted, State.send_pool, hpool]
    refine ⟨congrArg _ hout, hmerges, fun i hi => Pool.byte_put_line _ _ _ hi, fun a ha => ?_⟩
    rw [Pool.byte_put_outside _ _ _ _ (by omega), Pool.byte_put_outside _ _ _ _ (by omega)]
  case drain =>
    have hname : m.line = line := by simpa using List.find?_some hm
    have hdrain : doMergeAgeDrain p line .none s = drainEntry s p m := by
      rw [doMergeAgeDrain_eq, drainLine]
      rw [show (s.pier p).entry line = some m from hm]
    refine .of_eq (require_of hokPier) ?_
    rw [hdrain]
    refine ⟨?_, fun hmask hserves hnone => ?_⟩
    · rw [drainEntry_pier, State.modPier_pier, hname]
    · have hhalves : halfMask ((BitVec.allOnes 64).setWidth 128) 0 = BitVec.allOnes 64 ∧ halfMask ((BitVec.allOnes 64).setWidth 128) 1 = 0 := by
        decide
      obtain ⟨u, hu, hpool, -⟩ := drainEntry_low (p := p) (m := m) (by rw [hmask]; exact hhalves.1) (by rw [hname]; exact hserves)
        (by rw [hname]; exact hnone)
      rw [hu, drainHalf_none (by rw [hmask]; exact hhalves.2), hpool, hname]
      refine ⟨fun i hi => ?_, fun a ha => Pool.byte_put_outside _ _ _ _ (by omega)⟩
      rw [show 128 * line + i = 64 * (2 * line) + i by omega, Pool.byte_put_inside _ _ _ hi, cwByte_halfData _ _ hi, Nat.mul_zero, Nat.zero_add]
  case nothing =>
    have hexec : exec (.mergeAgeDrain p line .none) s = .next (doMergeAgeDrain p line .none s) := require_of hokPier
    rw [hexec, doMergeAgeDrain_eq, drainLine_none hentry]

end Sys2Proof.Machine
end

section
/-!
PROOFS. The ways of the pier caches (R225, R226, R234, R235): the bits of way masks, the ends of the operations with a mark, and the commands and
register writes that enable, disable and invalidate ways.
-/

namespace Sys2Proof.Machine
open Sys2Proof

/-! ### Way masks (R225) -/

theorem getLsbD_wayBit {w : Nat} (hw : w < 17) (i : Nat) : (wayBit w).getLsbD i = decide (i = w) := by
  rw [wayBit, BitVec.getLsbD_ofNat, Nat.testBit_two_pow]
  by_cases h : i = w
  · simp [h, hw]
  · simp [h, Ne.symm h]

/-- A mask without a way. -/
theorem getLsbD_without (m : BitVec 17) {w : Nat} (hw : w < 17) (i : Nat) :
    (m &&& ~~~wayBit w).getLsbD i = (m.getLsbD i && decide (i ≠ w)) := by
  rw [BitVec.getLsbD_and, BitVec.getLsbD_not, getLsbD_wayBit hw, decide_not]
  by_cases hi : i < 17
  · rw [decide_eq_true hi, Bool.true_and]
  · rw [BitVec.getLsbD_of_ge m i (by omega), Bool.false_and, Bool.false_and]

/-- A mask with a way. -/
theorem getLsbD_with (m : BitVec 17) {w : Nat} (hw : w < 17) (i : Nat) : (m ||| wayBit w).getLsbD i = (m.getLsbD i || decide (i = w)) := by
  rw [BitVec.getLsbD_or, getLsbD_wayBit hw]

/-- The ways of a mask of one way. -/
theorem maskBits_wayBit : ∀ w, w < 17 → maskBits 17 (wayBit w).toNat = [w] := by decide

/-- The bit of a way in a register of 32 bits. -/
theorem setWidth_wayBit : ∀ w, w < 17 → (BitVec.ofNat 32 (2 ^ w)).setWidth 17 = wayBit w := by decide

/-- A way that is off neither allocates, nor is about to, nor drains. -/
theorem wayOff_iff {P : Pier} {w : Nat} : P.wayOn w = false ↔
    P.powered.getLsbD w = false ∧ P.enablePend.getLsbD w = false ∧ P.draining.getLsbD w = false := by
  rw [Pier.wayOn, Bool.or_eq_false_iff, Bool.or_eq_false_iff, and_assoc]

theorem enableRefused_none {P : Pier} {w : Nat} (hinv : P.invDone.getLsbD w = true) (hoff : P.wayOn w = false)
    (hroom : (maskBits 17 ((P.powered &&& ~~~P.draining) ||| P.enablePend).toNat).length < 16) : enableRefused P w = none := by
  obtain ⟨-, -, hdrain⟩ := wayOff_iff.mp hoff
  unfold enableRefused
  rw [hinv, hdrain, if_neg (by decide), if_neg (by rw [decide_eq_false (by omega)]; exact Bool.false_ne_true)]

theorem enableRefused_notInv {P : Pier} {w : Nat} (hinv : P.invDone.getLsbD w = false) : enableRefused P w = some bsWayNotInv := by
  simp [enableRefused, hinv]

theorem enableWay_pier (s : State) (p w : Nat) : (enableWay s p w).pier p =
    { s.pier p with
      enable := (s.pier p).enable ||| wayBit w
      enablePend := if (s.pier p).powered.getLsbD w then (s.pier p).enablePend else (s.pier p).enablePend ||| wayBit w } := State.modPier_pier ..

/-- A pier one of whose ways starts to power down (R225). -/
def Pier.disabled (P : Pier) (w : Nat) : Pier :=
  { P with enable := P.enable &&& ~~~wayBit w, enablePend := P.enablePend &&& ~~~wayBit w,
           draining := if P.wayOn w then P.draining ||| wayBit w else P.draining }

theorem disableWay_pier (s : State) (p w : Nat) : (disableWay s p w).pier p = (s.pier p).disabled w := State.modPier_pier ..

theorem Pier.disabled_enable (P : Pier) {w : Nat} (hw : w < 17) (i : Nat) :
    (P.disabled w).enable.getLsbD i = (P.enable.getLsbD i && decide (i ≠ w)) := getLsbD_without _ hw i

theorem Pier.disabled_draining (P : Pier) {w : Nat} (hw : w < 17) (i : Nat) :
    (P.disabled w).draining.getLsbD i = (P.draining.getLsbD i || (decide (i = w) && P.wayOn i)) := by
  unfold Pier.disabled
  dsimp only
  by_cases hi : i = w
  · subst hi
    split
    case isTrue hon => rw [getLsbD_with _ hw, hon, Bool.and_true]
    case isFalse hoff => rw [Bool.eq_false_iff.mpr hoff, Bool.and_false, Bool.or_false]
  · rw [decide_eq_false hi, Bool.false_and, Bool.or_false]
    split
    · rw [getLsbD_with _ hw, decide_eq_false hi, Bool.or_false]
    · rfl

/-- A way that starts to power down is still on: it drains (R225). -/
theorem Pier.disabled_wayOn (P : Pier) {w : Nat} (hw : w < 17) (i : Nat) : (P.disabled w).wayOn i = P.wayOn i := by
  have hbits : ∀ powered pend drain same : Bool,
      (powered || (pend && !same) || (drain || (same && (powered || pend || drain)))) = (powered || pend || drain) := by decide
  have hpend : (P.disabled w).enablePend.getLsbD i = (P.enablePend.getLsbD i && !decide (i = w)) :=
    (getLsbD_without _ hw i).trans (by rw [decide_not])
  rw [Pier.wayOn, P.disabled_draining hw, hpend, Pier.wayOn]
  exact hbits ..

/-- Ways that start to power down one after another. -/
theorem forEach_disableWay_pier (l : List Nat) (s : State) (p : Nat) :
    (forEach l (fun w s => disableWay s p w) s).pier p = l.foldl Pier.disabled (s.pier p) := by
  induction l generalizing s with
  | nil => rfl
  | cons w r ih => rw [forEach_cons, ih, disableWay_pier, List.foldl_cons]

/-- What becomes of a pier whose listed ways start to power down: they are no longer enabled, and drain if they were on. -/
theorem Pier.disabledAll {l : List Nat} (hl : ∀ w ∈ l, w < 17) (P : Pier) :
    (l.foldl Pier.disabled P).powered = P.powered ∧ (l.foldl Pier.disabled P).lines = P.lines ∧
      ∀ i, (l.foldl Pier.disabled P).enable.getLsbD i = (P.enable.getLsbD i && !l.contains i) ∧
        (l.foldl Pier.disabled P).draining.getLsbD i = (P.draining.getLsbD i || (l.contains i && P.wayOn i)) := by
  induction l generalizing P with
  | nil => simp
  | cons w r ih =>
    have hw : w < 17 := hl w (List.mem_cons_self ..)
    obtain ⟨hpowered, hlines, hbits⟩ := ih (fun x hx => hl x (List.mem_cons_of_mem _ hx)) (P.disabled w)
    refine ⟨hpowered, hlines, fun i => ?_⟩
    obtain ⟨henable, hdrain⟩ := hbits i
    have hunion : ∀ enabled drains on same rest : Bool, ((enabled && !same) && !rest) = (enabled && !(same || rest)) ∧
        ((drains || (same && on)) || (rest && on)) = (drains || ((same || rest) && on)) := by decide
    rw [List.foldl_cons, henable, hdrain, P.disabled_enable hw, P.disabled_draining hw, P.disabled_wayOn hw, List.contains_cons, beq_eq_decide,
      decide_not]
    exact hunion ..

/-- The ways whose bit a write of the register clears (R225, R235). -/
theorem mem_cleared (m : BitVec 17) (val : W32) (i : Nat) :
    i ∈ maskBits 17 (m &&& ~~~(val.setWidth 17)).toNat ↔ m.getLsbD i = true ∧ i < 17 ∧ val.getLsbD i = false := by
  rw [mem_maskBits, BitVec.testBit_toNat, BitVec.getLsbD_and, BitVec.getLsbD_not, BitVec.getLsbD_setWidth]
  by_cases hi : i < 17
  · simp [hi]
  · simp [hi]

/-- A write of the bit of one way, where no way is enabled: the way is enabled, or refused (R226, R235). -/
theorem doWayctlEnableWrite_one {s : State} {p w : Nat} (hw : w < 17) (hnone : (s.pier p).enable = 0) :
    doWayctlEnableWrite p (BitVec.ofNat 32 (2 ^ w)) s =
      if (enableRefused (s.pier p) w).isSome then s.modPier p fun P => { P with refused := true } else enableWay s p w := by
  have hways : maskBits 17 (~~~(s.pier p).enable &&& (BitVec.ofNat 32 (2 ^ w)).setWidth 17).toNat = [w] := by
    rw [setWidth_wayBit w hw, hnone, show ~~~(0 : BitVec 17) = BitVec.allOnes 17 from rfl, BitVec.allOnes_and, maskBits_wayBit w hw]
  rw [doWayctlEnableWrite, hways, forEach_cons, forEach_nil]

/-! ### The ends of the operations with a mark (R225, R226) -/

theorem noData_fits : dataLen [] ≤ 216 := Nat.zero_le _

theorem wayPosition_pier (s : State) (mark n p : Nat) : (wayPosition s mark n).pier p = s.pier p := (wayPosition_le ..).pier rfl p

/-- A long operation that ends is gone (R338). -/
theorem finishOp_gone {s : State} {h : Nat} (hop : (s.op h).isSome = true) (status : Nat) {d : List (Nat × Nat)} (hd : dataLen d ≤ 216) :
    (finishOp s h status d).op h = none := by
  obtain ⟨x, hx⟩ := Option.isSome_iff_exists.mp hop
  obtain rfl : x.handle = h := by simpa using List.find?_some hx
  exact (finishOp_spec hx rfl rfl status hd).1

/-- The end of the operations with a mark changes no pier. -/
theorem wayDone_pier (s : State) (mark p : Nat) : (wayDone s mark).pier p = s.pier p := by
  unfold wayDone
  refine forEach_keeps (P := fun u => u.pier p = s.pier p) (wayPosition_pier ..) fun o _ u hu => ?_
  rw [(finishOp_fits_le u o.handle bsCompleted noData_fits).pier rfl, hu]

/-- The one operation with a mark is over. -/
theorem wayDone_finished {s v : State} (hv : v.belul = s.belul) {mark : Nat} {o : LongOp} (hone : s.wayOps mark = [o])
    (ho : s.op o.handle = some o) : Finished s (wayDone v mark) o bsCompleted [] := by
  have hops : v.wayOps mark = [o] := by rw [State.wayOps, hv]; exact hone
  have ho' : v.op o.handle = some o := by rw [State.op, hv]; exact ho
  unfold wayDone wayPosition
  rw [hops]
  exact (setPosition_shown ho' 65536).finished hv _ noData_fits

/-! ### The CACHE_WAY commands (R225, R226, R234) -/

/-- A reply whose data fits its slot changes no pier. -/
theorem replyFinal_pier (s : State) (c n : Nat) (q : Picked) (status : Nat) {d : List (Nat × Nat)} (hd : dataLen d ≤ 216) (p : Nat) :
    (replyFinal s c n q status d).pier p = s.pier p := by
  have hpiers : (replyFinal s c n q status d).piers = s.piers := replyFinal_post s c n q status d hd .piers (by decide)
  rw [State.pier, hpiers]
  rfl

/-- A command that is answered at once (R336, R338). -/
theorem replyFinal_replied (s : State) (r : Req) (q : Picked) (status : Nat) {d : List (Nat × Nat)} (hd : dataLen d ≤ 216) :
    Replied (replyFinal s r.client r.slot q status d) r status d := by
  unfold Replied
  rw [replyFinal_slot _ _ _ _ _ _ hd]
  exact ⟨rfl, rfl, rfl, rfl⟩

section Commands
variable {r : Req} {k : Picked} {p w : Nat} {s : State} (hp : p < 4) (hw : w < 17) (h : Ready r 0x0306 k s)
include hp hw

theorem badWay_false : badWay p w = false := by
  rw [badWay, decide_eq_false (by omega), decide_eq_false (by omega)]
  rfl

theorem wayReq_ok (hr : wfReq r = true) : (okReq r && decide (p < 256) && decide (w < 256)) = true := by
  rw [okReq_eq, hr, decide_eq_true (by omega), decide_eq_true (by omega)]
  rfl

include h

theorem doCacheWayInvalidate_off (hoff : (s.pier p).wayOn w = false) : doCacheWayInvalidate r p w s =
    (acceptLong s r.client r.slot k 5 65536 [wayMark 0 p w]).modPier p fun P =>
      { P with wayInv := w :: P.wayInv.filter (· != w), invDone := P.invDone &&& ~~~wayBit w } :=
  command_ready h (firstBad_none.mpr (by simp [badWay_false hp hw, hoff]))

theorem doCacheWayInvalidate_on (hon : (s.pier p).wayOn w = true) :
    doCacheWayInvalidate r p w s = replyFinal s r.client r.slot k bsWayEnabled [] := by
  refine (command_refused h (st := bsWayEnabled) ?_).trans rfl
  simp [badWay_false hp hw, hon, firstBad, ofParam, bsBadParam, bsBadAddress, bsWayEnabled]

theorem doCacheWayEnable_refused {st : Nat} (hst : enableRefused (s.pier p) w = some st) :
    doCacheWayEnable r p w s = replyFinal s r.client r.slot k st [] := by
  refine (command_ready h (firstBad_none.mpr (by simp [badWay_false hp hw]))).trans ?_
  rw [hst]
  rfl

theorem doCacheWayEnable_accepted (hst : enableRefused (s.pier p) w = none) :
    doCacheWayEnable r p w s = replyFinal (enableWay s p w) r.client r.slot k bsOk [] := by
  refine (command_ready h (firstBad_none.mpr (by simp [badWay_false hp hw]))).trans ?_
  rw [hst]
  rfl

theorem doCacheWayDisable_eq : doCacheWayDisable r p w s =
    let u := disableWay (acceptLong s r.client r.slot k 5 65536 [wayMark 1 p w]) p w
    if (u.pier p).draining.getLsbD w then u else finishOp u (handleOf r.client r.slot k.seq) bsCompleted [] :=
  command_ready h (firstBad_none.mpr (by simp [badWay_false hp hw]))

end Commands

/-! ### The power-down of a way (R225) -/

/-- A pier whose engine has visited the lines of the first `n` sets of a draining way. -/
def Pier.visited (P : Pier) (w n : Nat) : Pier :=
  { P with wayDrain := Tab.set 0 P.wayDrain w (if n = 65536 then 0 else n),
           lines := P.lines.filter fun c => !(c.way == w && decide (setOf c.line < n)) }

theorem doWayPowerDownComplete_waits {s : State} {p w : Nat} (hfills : (s.pier p).fillsWay w = true) (upto : Nat) :
    doWayPowerDownComplete p w upto s = s := by
  unfold doWayPowerDownComplete
  exact if_pos (by rw [hfills, Bool.or_true])

section PowerDown
variable {s : State} {p w : Nat} (hdrain : (s.pier p).draining.getLsbD w = true)
include hdrain

theorem doWayPowerDownComplete_eq (hfills : (s.pier p).fillsWay w = false) (upto : Nat) : doWayPowerDownComplete p w upto s =
    let n := min 65536 (max upto (Tab.get 0 (s.pier p).wayDrain w))
    let u := s.modPier p (·.visited w n)
    if n = 65536 then wayDone (powerDownWay u p w) (wayMark 1 p w) else wayPosition u (wayMark 1 p w) n := by
  unfold doWayPowerDownComplete
  exact if_neg (by rw [hfills, hdrain]; decide)

/-- After all sets the way powers down (R225). -/
theorem doWayPowerDownComplete_all (hfills : (s.pier p).fillsWay w = false) : doWayPowerDownComplete p w 65536 s =
    wayDone (powerDownWay (s.modPier p (·.visited w 65536)) p w) (wayMark 1 p w) := by
  have hall : min 65536 (max 65536 (Tab.get 0 (s.pier p).wayDrain w)) = 65536 := by omega
  rw [doWayPowerDownComplete_eq hdrain hfills, hall]
  exact if_pos rfl

theorem doWayPowerDownComplete_some (hfills : (s.pier p).fillsWay w = false) {upto : Nat} (hsome : upto < 65536)
    (hon : Tab.get 0 (s.pier p).wayDrain w ≤ upto) :
    doWayPowerDownComplete p w upto s = wayPosition (s.modPier p (·.visited w upto)) (wayMark 1 p w) upto := by
  have hupto : min 65536 (max upto (Tab.get 0 (s.pier p).wayDrain w)) = upto := by omega
  rw [doWayPowerDownComplete_eq hdrain hfills, hupto]
  exact if_neg (by omega)

end PowerDown

/-! ### The statement -/

/-- Settles O33: the commands by their checks and the state of the way, the ends and the register writes by the bits of the way masks. -/
theorem cacheWays : Obligations.CacheWays := by
  unfold Obligations.CacheWays
  intro r k p w s hp hw
  have hbad : badWay p w = false := badWay_false hp hw
  have hok : (!badWay p w) = true := by rw [hbad]; rfl
  have hokPier : decide (p < 4) = true := decide_eq_true hp
  extract_lets P
  refine ⟨fun hready => ?commands, fun hready => ?status, fun hin => ?invalidated,
    fun hdrain hfills => ⟨?poweredDown, fun upto hupto hon => ?visited⟩, fun hdrain hfills => ?waits,
    fun val => ?disableWrite, fun henable hdrain hpowered hpend => ?enableWrite⟩
  case commands =>
    have hreq := wayReq_ok hp hw hready.1
    have hinvalidate : exec (.cacheWayInvalidate r p w) s = .next (doCacheWayInvalidate r p w s) := require_of hreq
    have henable : exec (.cacheWayEnable r p w) s = .next (doCacheWayEnable r p w s) := require_of hreq
    have hdisable : exec (.cacheWayDisable r p w) s = .next (doCacheWayDisable r p w s) := require_of hreq
    have hlong : ∀ mark, (acceptLong s r.client r.slot k 5 65536 [mark]).pier p = P := fun mark => (acceptLong_le ..).pier rfl p
    refine ⟨fun hoff => .of_eq hinvalidate ?_, fun hon => ?_, fun hinv hoff hroom => .of_eq henable ?_, fun hinv => ?_,
      fun hon => .of_eq hdisable ?_, fun hoff => .of_eq hdisable ?_⟩
    · rw [doCacheWayInvalidate_off hp hw hready hoff, State.modPier_pier, hlong]
      exact ⟨(acceptLong_accepted ..).of_belul rfl, List.mem_cons_self .., rfl, rfl, rfl⟩
    · rw [hinvalidate, doCacheWayInvalidate_on hp hw hready hon]
    · obtain ⟨hunpowered, -, -⟩ := wayOff_iff.mp hoff
      rw [doCacheWayEnable_accepted hp hw hready (enableRefused_none hinv hoff hroom), replyFinal_pier _ _ _ _ _ noData_fits, enableWay_pier,
        hunpowered]
      exact ⟨replyFinal_replied _ _ _ _ noData_fits, rfl, rfl, rfl⟩
    · rw [henable, doCacheWayEnable_refused hp hw hready (enableRefused_notInv hinv)]
    · have hdrains : (P.disabled w).draining.getLsbD w = true := by
        rw [Pier.disabled_draining _ hw, hon, decide_eq_true rfl, Bool.and_true, Bool.or_true]
      rw [doCacheWayDisable_eq hp hw hready]
      dsimp only
      rw [disableWay_pier, hlong, if_pos hdrains, disableWay_pier, hlong]
      exact ⟨(acceptLong_accepted ..).of_belul rfl, if_pos hon, rfl, rfl, rfl⟩
    · have hstays : (P.disabled w).draining = P.draining := if_neg (by rw [hoff]; exact Bool.false_ne_true)
      obtain ⟨-, -, hnot⟩ := wayOff_iff.mp hoff
      rw [doCacheWayDisable_eq hp hw hready]
      dsimp only
      rw [disableWay_pier, hlong, hstays, hnot, if_neg Bool.false_ne_true, (finishOp_fits_le _ _ _ noData_fits).pier rfl, disableWay_pier, hlong]
      obtain ⟨-, -, -, -, -, -, hop⟩ := (acceptLong_accepted s r k 5 65536 [wayMark 1 p w]).of_belul
        (v := disableWay (acceptLong s r.client r.slot k 5 65536 [wayMark 1 p w]) p w) rfl
      exact ⟨finishOp_gone hop _ noData_fits, hstays, rfl⟩
  case status =>
    have hexec : exec (.cacheStatus r p) s = .next (doCacheStatus r p s) := by
      refine require_of ?_
      rw [okReq_eq, hready.1, decide_eq_true (by omega)]
      rfl
    rw [hexec]
    exact congrArg _ (command_ready hready (firstBad_none.mpr (by simp [hp])))
  case invalidated =>
    have hexec : exec (.wayInvalidateComplete p w) s = .next (doWayInvalidateComplete p w s) := require_of hok
    have hend : doWayInvalidateComplete p w s = wayDone (s.modPier p fun P =>
        { P with wayInv := P.wayInv.filter (· != w), invDone := P.invDone ||| wayBit w }) (wayMark 0 p w) := by
      unfold doWayInvalidateComplete
      exact if_neg (by simp [show w ∈ (s.pier p).wayInv from hin])
    refine .of_eq hexec ?_
    rw [hend, wayDone_pier, State.modPier_pier]
    exact ⟨by simp, rfl, fun o hone ho => wayDone_finished rfl hone ho⟩
  case poweredDown =>
    have hexec : exec (.wayPowerDownComplete p w 65536) s = .next (doWayPowerDownComplete p w 65536 s) := require_of hok
    refine .of_eq hexec ?_
    rw [doWayPowerDownComplete_all hdrain hfills, wayDone_pier, powerDownWay, State.modPier_pier, State.modPier_pier]
    refine ⟨rfl, rfl, rfl, fun c hc => ?_, fun c hc hway => ?_, fun o hone ho => wayDone_finished rfl hone ho⟩
    · simpa using (List.mem_filter.mp hc).2
    · exact List.mem_filter.mpr ⟨List.mem_filter.mpr ⟨hc, by simp [hway]⟩, by simpa using hway⟩
  case visited =>
    have hexec : exec (.wayPowerDownComplete p w upto) s = .next (doWayPowerDownComplete p w upto s) := require_of hok
    refine .of_eq hexec ?_
    rw [doWayPowerDownComplete_some hdrain hfills hupto hon, wayPosition_pier, State.modPier_pier]
    refine ⟨rfl, rfl, ?_, fun c hc hway => ?_⟩
    · rw [Pier.visited, if_neg (by omega)]
      exact Tab.get_set_self ..
    · simpa [hway] using (List.mem_filter.mp hc).2
  case waits =>
    have hexec : exec (.wayPowerDownComplete p w 65536) s = .next (doWayPowerDownComplete p w 65536 s) := require_of hok
    rw [hexec, doWayPowerDownComplete_waits hfills]
  case disableWrite =>
    have hexec : exec (.wayctlDisableWrite p val) s = .next (doWayctlDisableWrite p val s) := require_of hokPier
    refine .of_eq hexec ?_
    rw [doWayctlDisableWrite, forEach_disableWay_pier]
    have hmem := mem_cleared P.enable val
    obtain ⟨hpowered, hlines, hbits⟩ := Pier.disabledAll (l := maskBits 17 (P.enable &&& ~~~(val.setWidth 17)).toNat)
      (fun i hi => ((hmem i).mp hi).2.1) P
    refine ⟨BitVec.eq_of_getLsbD_eq fun i hi => ?_, hpowered, hlines, fun hbit hon hval => ?_⟩
    · have hleft : (maskBits 17 (P.enable &&& ~~~(val.setWidth 17)).toNat).contains i = (P.enable.getLsbD i && !val.getLsbD i) := by
        rw [Bool.eq_iff_iff, List.contains_iff_mem, hmem, Bool.and_eq_true, Bool.not_eq_true', and_iff_right hi]
      have hkept : ∀ enabled written : Bool, (enabled && !(enabled && !written)) = (enabled && (true && written)) := by decide
      rw [(hbits i).1, hleft, BitVec.getLsbD_and, BitVec.getLsbD_setWidth, decide_eq_true hi]
      exact hkept ..
    · rw [(hbits w).2, hon, Bool.and_true, List.contains_iff_mem.mpr ((hmem w).mpr ⟨hbit, hw, hval⟩), Bool.or_true]
  case enableWrite =>
    have hexec : exec (.wayctlEnableWrite p (BitVec.ofNat 32 (2 ^ w))) s = .next (doWayctlEnableWrite p (BitVec.ofNat 32 (2 ^ w)) s) :=
      require_of hokPier
    refine .of_eq hexec ?_
    rw [doWayctlEnableWrite_one hw henable]
    by_cases hinv : P.invDone.getLsbD w = true
    · have hbits : P.powered.getLsbD w = false ∧ P.enablePend.getLsbD w = false ∧ P.draining.getLsbD w = false := by
        rw [hpowered, hpend, hdrain]
        exact ⟨BitVec.getLsbD_zero, BitVec.getLsbD_zero, BitVec.getLsbD_zero⟩
      have hroom : (maskBits 17 ((P.powered &&& ~~~P.draining) ||| P.enablePend).toNat).length < 16 := by
        rw [hpowered, hdrain, hpend]
        decide
      have hwith : ∀ m : BitVec 17, m = 0 → m ||| wayBit w = wayBit w := fun m hm => by rw [hm]; exact BitVec.zero_or
      rw [enableRefused_none hinv (wayOff_iff.mpr hbits) hroom, Option.isSome_none, if_neg Bool.false_ne_true, if_pos hinv, enableWay_pier,
        show (s.pier p).powered.getLsbD w = false from hbits.1, if_neg Bool.false_ne_true]
      exact ⟨hwith _ henable, hwith _ hpend, rfl⟩
    · rw [enableRefused_notInv (Bool.eq_false_iff.mpr hinv), Option.isSome_some, if_pos rfl, if_neg hinv, State.modPier_pier]
      exact ⟨henable, rfl⟩

end Sys2Proof.Machine
end

section
/-!
PROOFS. The home arbiters (R241–R250): what the operations on a directory and its open transactions leave, what a message of coherence leaves,
and what becomes of a request at an arbiter that holds no other.
-/

namespace Sys2Proof.Machine
open Sys2Proof

/-! ### Arbiters and clusters after an operation -/

/-- An operation whose mask lacks the arbiters leaves every arbiter as it was. -/
theorem Le.arb {m : Nat} {s u : State} (h : Le m s u) (hm : m.testBit 7 = false) (a : Nat) : u.arb a = s.arb a := by
  have harbs : u.arbs = s.arbs := h.same .arbs hm
  rw [State.arb, State.arb, harbs]

/-- An operation whose mask lacks the clusters leaves every cluster as it was. -/
theorem Le.cluster {m : Nat} {s u : State} (h : Le m s u) (hm : m.testBit 6 = false) (c : Nat) : u.cluster c = s.cluster c := by
  have hclusters : u.clusters = s.clusters := h.same .clusters hm
  rw [State.cluster, State.cluster, hclusters]

@[simp] theorem State.modArb_arb (s : State) (a : Nat) (f : Arb → Arb) : (s.modArb a f).arb a = f (s.arb a) := State.setArb_arb ..

@[simp] theorem State.modArb_out (s : State) (a : Nat) (f : Arb → Arb) : (s.modArb a f).out = s.out := rfl

@[simp] theorem State.modCluster_arb (s : State) (c : Nat) (f : Cluster → Cluster) (a : Nat) : (s.modCluster c f).arb a = s.arb a := rfl

@[simp] theorem bump_arb (s : State) (a n j : Nat) : (bump s a n).arb j = s.arb j := (bump_le s a n).arb rfl j

/-- A command of a cluster on a line of the pool names units. -/
theorem okLine_of {cl line : Nat} (hcl : cl < 24) (hin : inPool (64 * line) = true) :
    (decide (cl < Config.clusters) && inPool (64 * line)) = true := by
  rw [okCluster_of hcl, hin]
  rfl

/-! ### The directory (R242) -/

theorem Arb.setEntry_entry (A : Arb) (line : Nat) (o : Option Nat) (sh : List Nat) :
    (A.setEntry line o sh).entry line = if o = none ∧ sh = [] then none else some ⟨line, o, sh⟩ := by
  unfold Arb.setEntry Arb.entry
  dsimp only
  split
  · simp [List.find?_filter]
  · simp

/-- Taking away an entry that is not there changes nothing. -/
theorem Arb.setEntry_absent {A : Arb} {line : Nat} (h : A.entry line = none) : A.setEntry line none [] = A := by
  have hdir : A.dir.filter (fun e => e.line != line) = A.dir := by
    rw [Arb.entry, List.find?_eq_none] at h
    refine List.filter_eq_self.mpr fun e he => ?_
    simpa using h e he
  unfold Arb.setEntry
  dsimp only
  rw [if_pos ⟨rfl, rfl⟩, hdir]

theorem Arb.owner_of_entry {A : Arb} {line : Nat} {e : DirEntry} (h : A.entry line = some e) : A.owner line = e.owner := by
  rw [Arb.owner, h, Option.bind_some]

theorem Arb.sharers_of_entry {A : Arb} {line : Nat} {e : DirEntry} (h : A.entry line = some e) : A.sharers line = e.sharers := by
  rw [Arb.sharers, h]

/-- A line without an entry has no owner and no sharers. -/
theorem Arb.uncached {A : Arb} {line : Nat} (h : A.entry line = none) : A.owner line = none ∧ A.sharers line = [] := by
  rw [Arb.owner, Arb.sharers, h]
  exact ⟨rfl, rfl⟩

/-- The entry of a line that has just been taken away has no owner. -/
theorem Arb.setEntry_owner (A : Arb) (line : Nat) : (A.setEntry line none []).owner line = none := by
  rw [Arb.owner, Arb.setEntry_entry, if_pos ⟨rfl, rfl⟩, Option.bind_none]

/-! ### Open transactions (R245) -/

/-- An arbiter with the entry of a line set and a transaction opened. -/
def Arb.opened (A : Arb) (line : Nat) (o : Option Nat) (sh : List Nat) (t : Trans) : Arb :=
  { A.setEntry line o sh with open_ := A.open_ ++ [t] }

theorem Arb.opened_entry (A : Arb) (line : Nat) (o : Option Nat) (sh : List Nat) (t : Trans) :
    (A.opened line o sh t).entry line = if o = none ∧ sh = [] then none else some ⟨line, o, sh⟩ := A.setEntry_entry line o sh

/-- The transaction opened for a line that was not busy is the line's. -/
theorem Arb.opened_trans {A : Arb} {line : Nat} (hidle : A.busy line = false) (o : Option Nat) (sh : List Nat) {t : Trans}
    (ht : t.req.line = line) : (A.opened line o sh t).trans line = some t := by
  have hnone : A.open_.find? (fun t => t.req.line == line) = none := by
    rw [Arb.busy, List.any_eq_false] at hidle
    refine List.find?_eq_none.mpr fun x hx hline => ?_
    have hother := hidle x hx
    simp only [hline, Bool.true_or, not_true_eq_false] at hother
  rw [Arb.trans, Arb.opened, List.find?_append, hnone]
  simp [ht]

/-- A transaction opened after messages that follow the change of its line's entry. -/
theorem openTrans_arb {s u : State} {a line m : Nat} {o : Option Nat} {sh : List Nat}
    (h : Le m (s.modArb a fun A => A.setEntry line o sh) u) (hm : m.testBit 7 = false) (t : Trans) :
    (openTrans u a t).arb a = (s.arb a).opened line o sh t := by
  rw [openTrans, State.modArb_arb, h.arb hm, State.modArb_arb]
  rfl

@[simp] theorem openTrans_out (s : State) (a : Nat) (t : Trans) : (openTrans s a t).out = s.out := rfl

/-- The transaction of a line after a function that keeps its request. -/
theorem modTrans_trans (s : State) (a line : Nat) {f : Trans → Trans} (hf : ∀ t, (f t).req = t.req) :
    ((modTrans s a line f).arb a).trans line = ((s.arb a).trans line).map f := by
  have hname : ∀ t : Trans, ((if t.req.line = line then f t else t).req.line == line) = (t.req.line == line) := fun t => by
    split
    · rw [hf]
    · rfl
  rw [modTrans, State.modArb_arb, Arb.trans, List.find?_map, Function.comp_def]
  simp only [hname]
  change ((s.arb a).trans line).map _ = _
  cases hx : (s.arb a).trans line with
  | none => rfl
  | some t =>
    have ht : t.req.line = line := by simpa using List.find?_some hx
    simp [ht]

/-- A transaction of which something is noted. -/
theorem modTrans_noted {s : State} {a line : Nat} {t : Trans} (ht : (s.arb a).trans line = some t) {f : Trans → Trans}
    (hf : ∀ t, (f t).req = t.req) : ((modTrans s a line f).arb a).trans line = some (f t) := by
  rw [modTrans_trans _ _ _ hf, ht, Option.map_some]

/-! ### Messages (R243, R257) -/

@[simp] theorem sendCoh_out (s : State) (a b : Nat × Nat) (vc kind : Nat) (msg : String) (cl line : Nat) (data : BitVec 512) (poison : Bool) :
    (sendCoh s a b vc kind msg cl line data poison).out = .coh msg cl line data poison :: s.out := by
  unfold sendCoh
  exact congrArg (_ :: ·) ((crossTruss_le ..).same .out rfl)

@[simp] theorem toHome_out (s : State) (cl vc kind : Nat) (msg : String) (line : Nat) (data : BitVec 512) (poison : Bool) :
    (toHome s cl vc kind msg line data poison).out = .coh msg (homeArb line) line data poison :: s.out := sendCoh_out ..

@[simp] theorem sendCoh_cluster (s : State) (a b : Nat × Nat) (vc kind : Nat) (msg : String) (cl line : Nat) (data : BitVec 512) (poison : Bool)
    (c : Nat) : (sendCoh s a b vc kind msg cl line data poison).cluster c = s.cluster c := (sendCoh_le ..).cluster rfl c

@[simp] theorem toHome_cluster (s : State) (cl vc kind : Nat) (msg : String) (line : Nat) (data : BitVec 512) (poison : Bool) (c : Nat) :
    (toHome s cl vc kind msg line data poison).cluster c = s.cluster c := sendCoh_cluster ..

/-- The name of a forwarded request (R243). -/
def fwdName (kind : Nat) : String := if kind = 0 then "FwdGetS" else if kind = 1 then "FwdGetM" else "FwdInv"

@[simp] theorem sendFwd_out (s : State) (a kind owner line : Nat) :
    (sendFwd s a kind owner line).out = .coh (fwdName kind) owner line 0 false :: s.out := by
  rw [sendFwd, bump_out, sendCoh_out]
  rfl

/-- The last invalidation sent stands first. -/
theorem sendInvs_out (s : State) (a line : Nat) (l : List Nat) :
    (sendInvs s a line l).out = (l.reverse.map fun c => Out.coh "Inv" c line 0 false) ++ s.out := by
  unfold sendInvs
  induction l generalizing s with
  | nil => rfl
  | cons c l ih => rw [forEach_cons, ih, bump_out, sendCoh_out, List.reverse_cons, List.map_append, List.append_assoc]; rfl

theorem sendInvs_nil (s : State) (a line : Nat) : sendInvs s a line [] = s := rfl

theorem sendData_out (s : State) (cl line : Nat) : (sendData s cl line).out =
    .coh "Data" cl line (pierGet s line (hostSectors line)).2.1 (pierGet s line (hostSectors line)).2.2 ::
      (pierGet s line (hostSectors line)).1.out := by
  unfold sendData
  rw [sendCoh_out]

/-! ### A request that the arbiter acts on (R246, R250) -/

/-- What has been sent for a request stands over what was sent before it, and its transaction is the last that is open. -/
def Opens (s u : State) (a line : Nat) (o : Option Nat) (sh : List Nat) (t : Trans) (msgs : List Out) : Prop :=
  u.arb a = (s.arb a).opened line o sh t ∧ u.out = msgs ++ s.out

/-- A line's entry set, its owner sent a request, and a transaction opened. -/
theorem opens_forwarded (s : State) (n a kind y line : Nat) (o : Option Nat) (sh : List Nat) (t : Trans) :
    Opens s (openTrans (sendFwd ((bump s n 1).modArb a fun A => A.setEntry line o sh) a kind y line) a t) a line o sh t
      [.coh (fwdName kind) y line 0 false] := by
  refine ⟨?_, ?_⟩
  · rw [openTrans_arb (sendFwd_le ..) rfl, bump_arb]
  · rw [openTrans_out, sendFwd_out, State.modArb_out, bump_out]
    rfl

/-- A line's entry set, its sharers sent invalidations, and a transaction opened. -/
theorem opens_invalidating (s : State) (n a line : Nat) (o : Option Nat) (sh l : List Nat) (t : Trans) :
    Opens s (openTrans (sendInvs ((bump s n 1).modArb a fun A => A.setEntry line o sh) a line l) a t) a line o sh t
      (l.reverse.map fun c => Out.coh "Inv" c line 0 false) := by
  refine ⟨?_, ?_⟩
  · rw [openTrans_arb (sendInvs_le ..) rfl, bump_arb]
  · rw [openTrans_out, sendInvs_out, State.modArb_out, bump_out]

section Accept
variable {s : State} {a : Nat} {r : CReq}

/-- A request of an owned line goes on to the owner (R246, R250). -/
theorem acceptReq_owned {y : Nat} (hown : (s.arb a).owner r.line = some y) :
    (r.kind = 0 → Opens s (acceptReq s a r) a r.line none (addNew [y] r.src) { req := r, downwb := some y, needDone := true }
      [.coh "FwdGetS" y r.line 0 false]) ∧
    (r.kind = 1 → Opens s (acceptReq s a r) a r.line (some r.src) [] { req := r, needDone := true } [.coh "FwdGetM" y r.line 0 false]) ∧
    (r.kind = 2 → Opens s (acceptReq s a r) a r.line none [y] { req := r, downwb := some y } [.coh "FwdGetS" y r.line 0 false]) ∧
    (r.kind = 3 → Opens s (acceptReq s a r) a r.line none [] { req := r, downwb := some y } [.coh "FwdInv" y r.line 0 false]) := by
  unfold acceptReq
  dsimp only
  refine ⟨fun hk => ?_, fun hk => ?_, fun hk => ?_, fun hk => ?_⟩
  all_goals
    rw [hown, hk]
    exact opens_forwarded ..

/-- A request to write a shared line invalidates the other sharers first (R246, R250). -/
theorem acceptReq_shared {sh : List Nat} (hown : (s.arb a).owner r.line = none) (hsharers : (s.arb a).sharers r.line = sh) :
    (r.kind = 1 → sh.filter (· != r.src) ≠ [] → Opens s (acceptReq s a r) a r.line (some r.src) []
      { req := r, acks := sh.filter (· != r.src), needDone := true } ((sh.filter (· != r.src)).reverse.map fun c => Out.coh "Inv" c r.line 0 false)) ∧
    (r.kind = 3 → sh ≠ [] → Opens s (acceptReq s a r) a r.line none [] { req := r, acks := sh }
      (sh.reverse.map fun c => Out.coh "Inv" c r.line 0 false)) := by
  unfold acceptReq
  dsimp only
  refine ⟨fun hk hothers => ?_, fun hk hsome => ?_⟩
  · rw [hown, hk, hsharers, if_neg hothers]
    exact opens_invalidating ..
  · rw [hown, hk, hsharers, if_neg hsome]
    exact opens_invalidating ..

/-- A cluster's request of a line without an entry is sent the line's data (R246). -/
theorem acceptReq_uncached (hentry : (s.arb a).entry r.line = none) :
    (r.kind = 0 → ∃ w, Le 524416 s w ∧ (acceptReq s a r).out = (sendData w r.src r.line).out ∧
      (acceptReq s a r).arb a = (s.arb a).opened r.line none [r.src] { req := r, needDone := true }) ∧
    (r.kind = 1 → ∃ w, Le 524416 s w ∧ (acceptReq s a r).out = (sendData w r.src r.line).out ∧
      (acceptReq s a r).arb a = (s.arb a).opened r.line (some r.src) [] { req := r, needDone := true }) := by
  obtain ⟨hown, hsharers⟩ := Arb.uncached hentry
  have hset : ∀ n f, Le 524416 s ((bump s n 1).modArb a f) := fun n f =>
    Le.next (State.modArb_le ..) (by decide) (Le.next (bump_le ..) (by decide) (Le.refl ..))
  unfold acceptReq
  dsimp only
  refine ⟨fun hk => ?_, fun hk => ?_⟩
  · rw [hown, hk, hsharers]
    refine ⟨_, hset .., openTrans_out .., ?_⟩
    exact (openTrans_arb (sendData_le ..) rfl _).trans (by rw [bump_arb]; rfl)
  · rw [hown, hk, hsharers, List.filter_nil, if_pos rfl, sendInvs_nil]
    refine ⟨_, hset .., openTrans_out .., ?_⟩
    exact (openTrans_arb (sendData_le ..) rfl _).trans (by rw [bump_arb])

/-- A tile's access of a line without an entry acts at once at the home pier (R250). -/
theorem acceptReq_tile (hentry : (s.arb a).entry r.line = none) (hk : r.kind = 2 ∨ r.kind = 3 ∨ r.kind = 4) :
    ∃ w, Le 524416 s w ∧ w.arb a = s.arb a ∧ acceptReq s a r = tileAccess w r := by
  obtain ⟨hown, hsharers⟩ := Arb.uncached hentry
  have hcounted : ∀ n, Le 524416 s (bump s n 1) := fun n => Le.next (bump_le ..) (by decide) (Le.refl ..)
  unfold acceptReq
  dsimp only
  rcases hk with hk | hk | hk
  · rw [hown, hk]
    exact ⟨_, hcounted _, bump_arb .., rfl⟩
  all_goals
    rw [hown, hk, hsharers]
    refine ⟨_, Le.next (State.modArb_le ..) (by decide) (hcounted _), ?_, rfl⟩
    rw [State.modArb_arb, bump_arb, Arb.setEntry_absent hentry]

end Accept

/-- The request table and what waits on credit are another matter than what a request does when the arbiter acts on it. -/
theorem acceptReq_table (s : State) (a : Nat) (r : CReq) :
    ((acceptReq s a r).arb a).held = (s.arb a).held ∧ ((acceptReq s a r).arb a).credit = (s.arb a).credit := by
  have hopens : ∀ {u : State} {m n line : Nat} {o : Option Nat} {sh : List Nat} (t : Trans),
      Le m ((bump s n 1).modArb a fun A => A.setEntry line o sh) u → m.testBit 7 = false →
      ((openTrans u a t).arb a).held = (s.arb a).held ∧ ((openTrans u a t).arb a).credit = (s.arb a).credit := fun t h hm => by
    rw [openTrans_arb h hm, bump_arb]
    exact ⟨rfl, rfl⟩
  have hdata : ∀ {u : State} {cl line : Nat} {l : List Nat} {c : Prop} [Decidable c],
      Le 755794744 u (if c then sendData (sendInvs u a line l) cl line else sendInvs u a line l) := fun {u cl line l c} _ =>
    have hinvs := Le.next (sendInvs_le u a line l) (by decide) (Le.refl 755794744 u)
    Le.ite (fun _ => hinvs.then (sendData_le ..) (by decide)) fun _ => hinvs
  unfold acceptReq
  dsimp only
  split
  case h_1 => exact hopens _ (sendFwd_le ..) rfl
  case h_2 => exact hopens _ (sendData_le ..) rfl
  case h_3 => exact hopens _ (sendFwd_le ..) rfl
  case h_4 => exact hopens _ hdata rfl
  case h_5 => exact hopens _ (sendFwd_le ..) rfl
  case h_6 => rw [(tileAccess_le ..).arb rfl, bump_arb]; exact ⟨rfl, rfl⟩
  case h_7 => exact hopens _ (sendFwd_le ..) rfl
  case h_8 =>
    split
    · rw [(tileAccess_le ..).arb rfl, State.modArb_arb, bump_arb]
      exact ⟨rfl, rfl⟩
    · exact hopens _ (sendInvs_le ..) rfl

/-! ### Room in the directory (R249) -/

/-- A request of a line that has an entry needs no room for one. -/
theorem Arb.needsRoom_entry {A : Arb} {r : CReq} {e : DirEntry} (h : A.entry r.line = some e) : A.needsRoom r = false := by
  rw [Arb.needsRoom, h, Option.isNone_some, Bool.and_false, Bool.false_and]

/-- A request of a tile takes no entry. -/
theorem Arb.needsRoom_tile (A : Arb) {r : CReq} (h : 2 ≤ r.kind) : A.needsRoom r = false := by
  rw [Arb.needsRoom, decide_eq_false (by omega), Bool.false_and, Bool.false_and]

/-- A set with a way that is free has room. -/
theorem Arb.needsRoom_free {A : Arb} {r : CReq} (h : (A.dirSet r.line).length < 16) : A.needsRoom r = false := by
  rw [Arb.needsRoom, decide_eq_false (by omega : ¬ 16 ≤ (A.dirSet r.line).length), Bool.and_false]

/-! ### A request at an arbiter that holds no other (R245, R249) -/

theorem serveHeld_idle {s : State} {a : Nat} (hheld : (s.arb a).held = []) (hcredit : (s.arb a).credit = []) (n : Nat) : serveHeld n s a = s := by
  cases n with
  | zero => rfl
  | succ n =>
    rw [serveHeld, hheld, hcredit]
    rfl

theorem serveArb_idle {s : State} {a : Nat} (hheld : (s.arb a).held = []) (hcredit : (s.arb a).credit = []) : serveArb s a = s :=
  serveHeld_idle hheld hcredit _

/-- An arbiter whose table holds one request. -/
def Arb.holding (A : Arb) (r : CReq) : Arb := { A with held := [r] }

/-- The state in which a request stands in the table of its arbiter. -/
def tabled (s : State) (r : CReq) : State :=
  (s.modArb (homeArb r.line) fun A => { A with credit := A.credit ++ [r] }).modArb (homeArb r.line) fun A =>
    { A with held := A.held ++ [r], credit := [] }

section Request
variable {s : State} {r : CReq} (hheld : (s.arb (homeArb r.line)).held = []) (hcredit : (s.arb (homeArb r.line)).credit = [])
include hheld hcredit

theorem tabled_arb : (tabled s r).arb (homeArb r.line) = (s.arb (homeArb r.line)).holding r := by
  rw [tabled, State.modArb_arb, State.modArb_arb, Arb.holding, hheld, hcredit]
  rfl

/-- A request enters the table of its arbiter, which then goes on with it alone. -/
theorem arbReq_tabled : arbReq s r = serveHeld 5 (tabled s r) (homeArb r.line) := by
  unfold arbReq serveArb
  rw [State.modArb_arb, hheld, hcredit]
  change serveHeld (5 + 1) _ _ = _
  rw [serveHeld, State.modArb_arb, hheld, hcredit]
  rfl

omit hheld hcredit in
theorem tabled_le : Le 128 s (tabled s r) := (State.modArb_le ..).then (State.modArb_le ..) (by decide)

/-- A request of a line with an open transaction waits in the table (R245). -/
theorem arbReq_busy (hbusy : (s.arb (homeArb r.line)).busy r.line = true) : arbReq s r = tabled s r := by
  have hwaits : ((s.arb (homeArb r.line)).holding r).servable r = false := by
    rw [Arb.servable, show ((s.arb (homeArb r.line)).holding r).busy r.line = true from hbusy]
    rfl
  rw [arbReq_tabled hheld hcredit, serveHeld, tabled_arb hheld hcredit]
  rw [show ((s.arb (homeArb r.line)).holding r).held = [r] from rfl, List.find?_singleton, hwaits,
    show ((s.arb (homeArb r.line)).holding r).credit = [] from hcredit]
  rfl

/-- A request that the arbiter can act on without an eviction is accepted at once. -/
theorem arbReq_idle (hidle : (s.arb (homeArb r.line)).busy r.line = false) (hroom : (s.arb (homeArb r.line)).needsRoom r = false) :
    ∃ v, Le 128 s v ∧ v.arb (homeArb r.line) = s.arb (homeArb r.line) ∧ arbReq s r = acceptReq v (homeArb r.line) r := by
  have hroom' : ((s.arb (homeArb r.line)).holding r).needsRoom r = false := hroom
  have hserved : ((s.arb (homeArb r.line)).holding r).servable r = true := by
    rw [Arb.servable, show ((s.arb (homeArb r.line)).holding r).busy r.line = false from hidle, hroom']
    rfl
  have hback : ({ (s.arb (homeArb r.line)).holding r with
      held := ((s.arb (homeArb r.line)).holding r).held.eraseP ((s.arb (homeArb r.line)).holding r).servable } : Arb) = s.arb (homeArb r.line) := by
    rw [show ((s.arb (homeArb r.line)).holding r).held = [r] from rfl, List.eraseP_cons_of_pos hserved, ← hheld]
    rfl
  generalize hv : (tabled s r).setArb (homeArb r.line) (s.arb (homeArb r.line)) = v
  have harb : v.arb (homeArb r.line) = s.arb (homeArb r.line) := by rw [← hv, State.setArb_arb]
  refine ⟨v, ?_, harb, ?_⟩
  · rw [← hv]
    exact tabled_le.then (State.setArb_le ..) (by decide)
  · have hserve : arbReq s r = serveHeld 4 (acceptReq v (homeArb r.line) r) (homeArb r.line) := by
      rw [arbReq_tabled hheld hcredit, serveHeld, tabled_arb hheld hcredit, show ((s.arb (homeArb r.line)).holding r).held = [r] from rfl,
        List.find?_singleton, hserved, if_pos rfl]
      dsimp only
      rw [hroom', if_neg Bool.false_ne_true, State.modArb, tabled_arb hheld hcredit, hback, hv]
    obtain ⟨hheld', hcredit'⟩ := acceptReq_table v (homeArb r.line) r
    rw [harb] at hheld' hcredit'
    rw [hserve, serveHeld_idle (hheld'.trans hheld) (hcredit'.trans hcredit)]

end Request

end Sys2Proof.Machine
end

section
/-!
PROOFS. The home pier under an arbiter (R214, R217, R218, R246, R250): the value of a codeword that nothing but the stack holds, and a host line
that is stored in the merging buffer.
-/

namespace Sys2Proof.Machine
open Sys2Proof

/-! ### What a home pier's reads and writes depend on -/

/-- Whether a write is turned away depends on the pool, its channels and the piers alone. -/
theorem writePoison_congr {s u : State} (hpool : u.pool = s.pool) (hchans : u.chans = s.chans) (hpiers : u.piers = s.piers) (line : Nat)
    (mask : BitVec 128) : writePoison u line mask = writePoison s line mask := by
  cases s
  cases u
  dsimp only at hpool hchans hpiers
  subst hpool hchans hpiers
  rfl

/-- An operation whose mask lacks the pool, its channels and the piers leaves all three as they were. -/
theorem Le.memory {m : Nat} {s u : State} (h : Le m s u) (hm : m &&& partMask [.pool, .chans, .piers] = 0) :
    u.pool = s.pool ∧ u.chans = s.chans ∧ u.piers = s.piers := by
  have hbit : ∀ i, (partMask [.pool, .chans, .piers]).testBit i = true → m.testBit i = false := fun i hi => by
    have hand := congrArg (·.testBit i) hm
    simpa [hi] using hand
  exact ⟨h.same .pool (hbit 3 rfl), h.same .chans (hbit 4 rfl), h.same .piers (hbit 5 rfl)⟩

/-- Such an operation leaves where codewords are, what serves them, and every pier. -/
theorem Le.homePier {m : Nat} {s u : State} (h : Le m s u) (hm : m &&& partMask [.pool, .chans, .piers] = 0) :
    SameAccess s u ∧ u.pier = s.pier := by
  obtain ⟨hpool, hchans, hpiers⟩ := h.memory hm
  refine ⟨.of_same hpool hchans, ?_⟩
  unfold State.pier
  rw [hpiers]

/-- A plain codeword stays one where the pool, its channels and the piers stay. -/
theorem Le.plainCw {m : Nat} {s u : State} (h : Le m s u) (hm : m &&& partMask [.pool, .chans, .piers] = 0) {cw : Nat} (hplain : PlainCw s cw) :
    PlainCw u cw := by
  obtain ⟨haccess, hpier⟩ := h.homePier hm
  rw [PlainCw, haccess.poolServes, haccess.home, hpier, haccess.adderEntry, (h.memory hm).1]
  exact hplain

/-! ### Reads of a host line (R214, R246) -/

theorem innerCorrected_sameAccess (s : State) (cw : Nat) : SameAccess s (innerCorrected s cw) := by
  have hchan : ∀ c, ((innerCorrected s cw).chan c).testOwner = (s.chan c).testOwner ∧ ((innerCorrected s cw).chan c).adder = (s.chan c).adder :=
    fun c => by
      unfold innerCorrected
      by_cases h : c = s.chOf cw
      · rw [h, State.modChan_chan]
        exact ⟨rfl, rfl⟩
      · rw [State.modChan_chan_ne _ _ _ _ h]
        exact ⟨rfl, rfl⟩
  exact ⟨rfl, rfl, rfl, fun c => (hchan c).1, fun c => (hchan c).2⟩

section Plain
variable {s : State} {cw : Nat} (hserves : s.poolServes cw = true) (hentry : (s.pier (s.home (64 * cw))).entry (cw / 2) = none)
  (hnone : s.adderEntry cw = none) (herr : Tab.get 0 s.pool.err cw = 0) (hpoison : Tab.get false s.pool.poison cw = false)
include hserves hentry hnone herr hpoison

/-- A fetch of a codeword that is in the stack alone, without error or poison, brings it as it is, whether or not the stack corrected a bit. -/
theorem fillValue_plain (inner : Bool) : (fillValue s cw inner).2 = (s.pool.data cw, false) ∧ (fillValue s cw inner).1.out = s.out := by
  have hclean := Pool.decode_plain herr hpoison
  have hmoved := countMoved_le s (s.chOf cw) 0 64
  have hcounted := countMoved_sameAccess s (s.chOf cw) 0 64
  generalize hu : countMoved s (s.chOf cw) 0 64 = u at hmoved hcounted
  have hread : ctrlRead s cw inner = (if inner then innerCorrected u cw else u, s.pool.data cw, false) := by
    unfold ctrlRead
    rw [hserves, Bool.not_true, if_neg Bool.false_ne_true, hnone]
    dsimp only
    rw [stackRead_clean inner (congrArg Prod.fst hclean), hclean, hu]
  have hafter : ((if inner then innerCorrected u cw else u).pier ((if inner then innerCorrected u cw else u).home (64 * cw))).entry (cw / 2) = none ∧
      (if inner then innerCorrected u cw else u).out = s.out := by
    have hpier := hmoved.pier rfl
    cases inner
    · rw [if_neg Bool.false_ne_true, hcounted.home, hpier]
      exact ⟨hentry, hmoved.same .out rfl⟩
    · rw [if_pos rfl, (innerCorrected_sameAccess ..).home, hcounted.home, (innerCorrected_le u cw).pier rfl, hpier]
      exact ⟨hentry, hmoved.same .out rfl⟩
  unfold fillValue
  rw [hread]
  dsimp only
  rw [overBuffer_none hafter.1]
  exact ⟨rfl, hafter.2⟩

end Plain

theorem touchLine_absent {s : State} {p line : Nat} (h : (s.pier p).find line = none) : touchLine s p line = s := by
  unfold touchLine
  rw [h]

/-- A line allocated leaves the merging buffer as it was. -/
theorem allocLine_merges (s : State) (p line : Nat) (fresh : Bool) : ((allocLine s p line fresh).pier p).merges = (s.pier p).merges := by
  unfold allocLine
  split
  · rw [State.modPier_pier]
    cases fresh <;> rfl
  · rfl

/-- A host line has sectors. -/
theorem hostSectors_ne_zero (line : Nat) : hostSectors line ≠ 0 := by
  unfold hostSectors
  rcases Nat.mod_two_eq_zero_or_one line with h | h <;> rw [h] <;> decide

/-- A read of a plain codeword at its home pier brings what the stack holds (R214, R246). -/
theorem pierGet_plain {s : State} {cw : Nat} (hplain : PlainCw s cw) :
    (pierGet s cw (hostSectors cw)).2 = (s.pool.data cw, false) ∧ (pierGet s cw (hostSectors cw)).1.out = s.out := by
  obtain ⟨hserves, hfind, hentry, hnone, herr, hpoison⟩ := id hplain
  have hmiss : missing (cw / 2) (hostSectors cw) ((s.pier (s.home (64 * cw))).validOf (cw / 2)) ≠ [] := by
    refine missing_ne_nil ?_ _
    rw [Pier.validOf, hfind]
    rw [show ~~~(0 : BitVec 4) = BitVec.allOnes 4 from rfl, BitVec.and_allOnes]
    exact hostSectors_ne_zero cw
  have hcounted : ∀ a, Le 524288 s (bump s a 1) := fun a => bump_le ..
  unfold pierGet
  dsimp only
  rw [hserves, Bool.not_true, if_neg Bool.false_ne_true, touchLine_absent hfind, if_neg hmiss]
  generalize hv : bump s (unitCtr (pcacheBase (s.home (64 * cw))) 1) 1 = v
  have hv' : Le 524288 s v := hv ▸ hcounted _
  split
  · generalize hw : bump v.takeFree (unitCtr (pcacheBase (s.home (64 * cw))) 2) 1 = w
    have hw' : Le 134742016 s w := hw ▸ Le.next (bump_le ..) (by decide) (Le.next (State.takeFree_le ..) (by decide) (Le.next hv' (by decide)
      (Le.refl ..)))
    obtain ⟨hserves', -, hentry', hnone', herr', hpoison'⟩ := hw'.plainCw (by decide) hplain
    obtain ⟨hvalue, hout⟩ := fillValue_plain hserves' hentry' hnone' herr' hpoison' v.indicates
    rw [hvalue, hout, show w.pool = s.pool from hw'.same .pool rfl]
    exact ⟨rfl, hw'.same .out rfl⟩
  · generalize hw : (if (v.pier (s.home (64 * cw))).find (cw / 2) = none then allocLine v (s.home (64 * cw)) (cw / 2) false else v) = w
    have hw' : Le 134742048 s w.takeFree := hw ▸ Le.next (State.takeFree_le ..) (by decide)
      (Le.ite (fun _ => Le.next (allocLine_le ..) (by decide) (Le.next hv' (by decide) (Le.refl ..))) fun _ => Le.next hv' (by decide) (Le.refl ..))
    have hmerges : (w.pier (s.home (64 * cw))).merges = (s.pier (s.home (64 * cw))).merges := by
      rw [← hv'.pier rfl, ← hw]
      split
      · exact allocLine_merges ..
      · rfl
    have haccess := hw'.sameAccess rfl rfl
    have hpool : w.takeFree.pool = s.pool := hw'.same .pool rfl
    have hentry' : (w.takeFree.pier (w.takeFree.home (64 * cw))).entry (cw / 2) = none := by
      rw [haccess.home, Pier.entry, show (w.takeFree.pier (s.home (64 * cw))).merges = _ from hmerges]
      exact hentry
    obtain ⟨hvalue, hout⟩ := fillValue_plain (by rw [haccess.poolServes, hserves]) hentry' (by rw [haccess.adderEntry, hnone])
      (by rw [hpool, herr]) (by rw [hpool, hpoison]) w.indicates
    dsimp only
    rw [show (prefetchNext (fillCw (fillValue w.takeFree cw w.indicates).1 _ _ _ _) _ _).out = _ from
      Eq.trans ((prefetchNext_le ..).same .out rfl) ((fillCw_le ..).same .out rfl), hvalue, hout, hpool]
    exact ⟨rfl, hw'.same .out rfl⟩

/-- Line data sent to a cluster: its codeword, where that is a plain one (R246). -/
theorem sendData_answers (s : State) (cl line : Nat) : ∃ d p rest, (sendData s cl line).out = .coh "Data" cl line d p :: rest ∧
    (PlainCw s line → d = s.pool.data line ∧ p = false ∧ rest = s.out) := by
  refine ⟨_, _, _, sendData_out s cl line, fun hplain => ?_⟩
  obtain ⟨hvalue, hout⟩ := pierGet_plain hplain
  rw [hvalue]
  exact ⟨rfl, rfl, hout⟩

/-! ### A host line stored (R217, R218) -/

/-- A mask of 64 bytes placed in half of a line covers that half alone. -/
theorem halfMask_placed (mask : BitVec 64) {h : Nat} (hh : h < 2) :
    halfMask (mask.setWidth 128 <<< (64 * h)) h = mask ∧ halfMask (mask.setWidth 128 <<< (64 * h)) (1 - h) = 0 := by
  obtain rfl | rfl : h = 0 ∨ h = 1 := by omega
  all_goals
    refine ⟨BitVec.eq_of_getElem_eq fun i hi => ?_, BitVec.eq_of_getElem_eq fun i hi => ?_⟩
    all_goals
      have hlow : i < 128 := by omega
      have hhigh : 64 + i < 128 := by omega
      simp [getElem_halfMask, hi, hlow, hhigh]

/-- The home pier's buffer takes a write of a host line without a drain, and nothing of the line waits there (R218, R219). -/
def Untouched (s : State) (line : Nat) : Prop :=
  s.poolServes line = true ∧ (s.pier (s.home (64 * line))).entry (line / 2) = none ∧ (s.pier (s.home (64 * line))).merges.length < 895 ∧
    ∀ f ∈ (s.pier (s.home (64 * line))).fills, f.cw / 2 ≠ line / 2

/-- The bytes written of a host line wait in the buffer of its home pier, behind what waited there before. -/
def Waits (s u : State) (line : Nat) (mask : BitVec 64) (data : BitVec 512) : Prop :=
  (u.pier (s.home (64 * line))).merges = (s.pier (s.home (64 * line))).merges ++ [⟨line / 2, mask.setWidth 128 <<< (64 * (line % 2)),
    mergeLine (mask.setWidth 128 <<< (64 * (line % 2))) 0 (data.setWidth 1024 <<< (512 * (line % 2)))⟩]

theorem Le.untouched {m : Nat} {s u : State} (h : Le m s u) (hm : m &&& partMask [.pool, .chans, .piers] = 0) {line : Nat}
    (hfree : Untouched s line) : Untouched u line := by
  obtain ⟨haccess, hpier⟩ := h.homePier hm
  rw [Untouched, haccess.poolServes, haccess.home, hpier]
  exact hfree

theorem Le.waits {m : Nat} {s u v : State} (h : Le m s u) (hm : m &&& partMask [.pool, .chans, .piers] = 0) {line : Nat} {mask : BitVec 64}
    {data : BitVec 512} (hwaits : Waits u v line mask data) : Waits s v line mask data := by
  obtain ⟨haccess, hpier⟩ := h.homePier hm
  rw [Waits, haccess.home, hpier] at hwaits
  exact hwaits

section Store
variable {s : State} {line : Nat}

/-- A write of a whole codeword of a pool that serves is accepted (R197, R205). -/
theorem writePoison_codeword (hserves : s.poolServes line = true) :
    writePoison s (line / 2) ((BitVec.allOnes 64).setWidth 128 <<< (64 * (line % 2))) = none := by
  obtain ⟨hself, hother⟩ := halfMask_placed (BitVec.allOnes 64) (Nat.mod_lt line (by decide : 0 < 2))
  have hline : 2 * (line / 2) + line % 2 = line := Nat.div_add_mod line 2
  have hcovered : halfPoisoned s (line / 2) ((BitVec.allOnes 64).setWidth 128 <<< (64 * (line % 2))) (line % 2) = false := by
    rw [halfPoisoned, hself, hline, hserves]
    simp
  have huncovered : halfPoisoned s (line / 2) ((BitVec.allOnes 64).setWidth 128 <<< (64 * (line % 2))) (1 - line % 2) = false := by
    rw [halfPoisoned, hother]
    rfl
  unfold writePoison
  rcases Nat.mod_two_eq_zero_or_one line with h | h
  · rw [h] at hcovered huncovered ⊢
    rw [hcovered, huncovered]
    rfl
  · rw [h] at hcovered huncovered ⊢
    rw [hcovered, show halfPoisoned s (line / 2) _ 0 = false from huncovered]
    rfl

/-- An accepted write of a host line of which nothing waits makes an entry in the buffer of its home pier. -/
theorem lineStore_waits (hfree : Untouched s line) {mask : BitVec 64} (hmask : mask ≠ 0)
    (haccepted : writePoison s (line / 2) (mask.setWidth 128 <<< (64 * (line % 2))) = none) (data : BitVec 512) :
    (lineStore s line mask data).out = s.out ∧ Waits s (lineStore s line mask data) line mask data := by
  obtain ⟨-, hentry, hroom, hfills⟩ := hfree
  have hhome : s.home (64 * line) = s.home (128 * (line / 2)) := s.home_of_line (by omega)
  have hsh : 8 * (64 * (line % 2)) = 512 * (line % 2) := by omega
  obtain ⟨hself, hother⟩ := halfMask_placed mask (Nat.mod_lt line (by decide : 0 < 2))
  have hsome : mask.setWidth 128 <<< (64 * (line % 2)) ≠ 0 := fun hzero => by
    rw [hzero] at hself
    exact hmask (hself.symm.trans (by simp [halfMask]))
  have hpart : mask.setWidth 128 <<< (64 * (line % 2)) ≠ BitVec.allOnes 128 := fun hall => by
    rw [hall] at hother
    rcases Nat.mod_two_eq_zero_or_one line with h | h <;> rw [h] at hother <;> exact absurd hother (by decide)
  rw [hhome] at hentry hfills hroom
  unfold Waits lineStore
  dsimp only
  rw [hhome, hsh, pierStore_part haccepted hsome hentry hfills hroom _ hpart]
  exact ⟨entered_out .., entered_merges ..⟩

end Store

/-! ### A host line written back (R246, R251) -/

theorem writeBackLine_sound {line : Nat} (hin : inPool (64 * line) = true) (s : State) (data : BitVec 512) :
    writeBackLine s line data false = lineStore s line (BitVec.allOnes 64) data := by
  unfold writeBackLine
  rw [hin, Bool.not_true, if_neg Bool.false_ne_true, if_neg Bool.false_ne_true]

/-- Sound data written back waits in the buffer (R246). -/
theorem writeBackLine_waits {s : State} {line : Nat} (hin : inPool (64 * line) = true) (hfree : Untouched s line) (data : BitVec 512) :
    Waits s (writeBackLine s line data false) line (BitVec.allOnes 64) data := by
  rw [writeBackLine_sound hin]
  exact (lineStore_waits hfree (by decide) (writePoison_codeword hfree.1) data).2

/-- A poisoned line written back leaves its codeword poisoned (R251). -/
theorem writeBackLine_poison {line : Nat} (hin : inPool (64 * line) = true) {s : State} (hserves : s.poolServes line = true) (data : BitVec 512) :
    Tab.get false (writeBackLine s line data true).pool.poison line = true := by
  unfold writeBackLine
  rw [hin, Bool.not_true, if_neg Bool.false_ne_true, if_pos rfl, hserves, if_pos rfl]
  unfold storePoison
  rw [State.modPool_pool, Pool.put_poison]

end Sys2Proof.Machine
end

section
/-!
PROOFS. What a cluster answers to the messages of an arbiter and of other clusters (R242, R243, R246, R247).
-/

namespace Sys2Proof.Machine
open Sys2Proof

/-! ### Messages to the owner (R243, R246, R247) -/

section Owner
variable {s : State} {cl line : Nat}

theorem doFwdgets_clean (h : (s.cluster cl).dirty line = none) (req : Nat) : doFwdgets cl line req s = s := by
  unfold doFwdgets
  rw [h]

theorem doFwdgetm_clean (h : (s.cluster cl).dirty line = none) (req : Nat) : doFwdgetm cl line req s = s := by
  unfold doFwdgetm
  rw [h]

theorem doFwdinv_clean (h : (s.cluster cl).dirty line = none) : doFwdinv cl line s = s := by
  unfold doFwdinv
  rw [h]

variable {l : HLine} (h : (s.cluster cl).dirty line = some l)
include h

/-- The owner keeps the line in S, and its data goes to memory and, where a cluster asks for it, to that cluster. -/
theorem doFwdgets_dirty (req : Nat) : (doFwdgets cl line req s).cluster cl = (s.cluster cl).share line ∧
    (doFwdgets cl line req s).out = .coh "DownWB" (homeArb line) line l.data l.poison ::
      (if req < 24 then .coh "Data" req line l.data l.poison :: s.out else s.out) := by
  unfold doFwdgets
  rw [h]
  dsimp only
  rw [State.modCluster_cluster, toHome_cluster, State.modCluster_out, toHome_out]
  by_cases hreq : req < 24
  · rw [if_pos hreq, if_pos (show req < Config.clusters from hreq), sendCoh_cluster, sendCoh_out]
    exact ⟨rfl, rfl⟩
  · rw [if_neg hreq, if_neg (show ¬ req < Config.clusters from hreq)]
    exact ⟨rfl, rfl⟩

/-- The owner sends its data to the requester and drops the line. -/
theorem doFwdgetm_dirty (req : Nat) : (doFwdgetm cl line req s).cluster cl = (s.cluster cl).drop line ∧
    (doFwdgetm cl line req s).out = .coh "Data" req line l.data l.poison :: s.out := by
  unfold doFwdgetm
  rw [h]
  dsimp only
  rw [State.modCluster_cluster, sendCoh_cluster, State.modCluster_out, sendCoh_out]
  exact ⟨rfl, rfl⟩

/-- The owner writes its data back and drops the line. -/
theorem doFwdinv_dirty : (doFwdinv cl line s).cluster cl = (s.cluster cl).drop line ∧
    (doFwdinv cl line s).out = .coh "DownWB" (homeArb line) line l.data l.poison :: s.out := by
  unfold doFwdinv
  rw [h]
  dsimp only
  rw [State.modCluster_cluster, toHome_cluster, State.modCluster_out, toHome_out]
  exact ⟨rfl, rfl⟩

end Owner

/-! ### Messages to a sharer or a requester (R242, R243, R246) -/

section Awake
variable {s : State} {cl line : Nat}

theorem doInv_parked (h : s.awake cl = false) : doInv cl line s = s := by
  unfold doInv
  rw [h, if_neg Bool.false_ne_true]

theorem doData_parked (h : s.awake cl = false) (m : Bool) (val : BitVec 512) (poison : Bool) : doData cl line m val poison s = s := by
  unfold doData
  rw [h, if_neg Bool.false_ne_true]

variable (h : s.awake cl = true)
include h

/-- A sharer drops the line and acknowledges. -/
theorem doInv_awake : (doInv cl line s).cluster cl = (s.cluster cl).drop line ∧
    (doInv cl line s).out = .coh "Ack" (homeArb line) line 0 false :: s.out := by
  unfold doInv
  rw [h, if_pos rfl, toHome_cluster, State.modCluster_cluster, toHome_out, State.modCluster_out]
  exact ⟨rfl, rfl⟩

/-- Data is installed in a set with a way that is free, and the arbiter is told (R236, R246). -/
theorem doData_awake (hset : (((s.cluster cl).drop line).set line).length < 16) (m : Bool) (val : BitVec 512) :
    (doData cl line m val false s).cluster cl =
      { (s.cluster cl).drop line with lines := ⟨line, m, val, false⟩ :: ((s.cluster cl).drop line).lines } ∧
    (doData cl line m val false s).out = .coh "Done" (homeArb line) line 0 false :: s.out := by
  unfold doData installLine
  dsimp only
  rw [h, if_pos rfl, if_neg Bool.false_ne_true, toHome_cluster, toHome_out, State.modCluster_cluster,
    if_pos (by rw [State.modCluster_cluster]; exact hset), State.modCluster_cluster, State.modCluster_out, State.modCluster_out]
  exact ⟨rfl, rfl⟩

end Awake

/-! ### WbAck (R247) -/

/-- A cluster without a line in its writeback buffer, for which no GetM waits any more. -/
def Cluster.released (C : Cluster) (line : Nat) : Cluster :=
  { C with wb := C.wb.filter (fun l => l.line != line), waitM := C.waitM.filter (· != line) }

theorem doWback_unawaited {s : State} {cl line : Nat} (h : line ∉ (s.cluster cl).waitM) :
    doWback cl line s = s.modCluster cl (·.released line) := by
  unfold doWback
  dsimp only
  rw [show (s.cluster cl).waitM.contains line = false by simpa using h, Bool.false_and, if_neg Bool.false_ne_true]
  rfl

/-- A GetM that waited for the WbAck is sent. -/
theorem doWback_awaited {s : State} {cl line : Nat} (h : line ∈ (s.cluster cl).waitM) (hawake : s.awake cl = true) :
    doWback cl line s = arbReq (s.modCluster cl (·.released line)) { kind := 1, src := cl, line := line } := by
  have hstill : (s.modCluster cl (·.released line)).awake cl = true := by
    rw [State.awake, State.modCluster_cluster]
    exact hawake
  unfold doWback
  dsimp only
  rw [show (s.cluster cl).waitM.contains line = true by simpa using h, Bool.true_and]
  exact if_pos hstill

/-! ### The statement -/

/-- Settles O36: the messages to an owner by whether the cluster holds the line in M, the others by whether it is awake, and WbAck by whether a
GetM waits for it. -/
theorem clusterAnswers : Obligations.ClusterAnswers := by
  unfold Obligations.ClusterAnswers
  intro cl line req s hcl hin
  have hok := okLine_of hcl hin
  have hokReq : req < 24 → (decide (cl < Config.clusters) && inPool (64 * line) && decide (req < Config.clusters)) = true := fun hreq => by
    rw [hok, okCluster_of hreq]
    rfl
  intro C a dropped
  have hdropped : ∀ u : State, u.cluster cl = C.drop line → dropped u := fun u hu => by
    simp only [dropped, hu]
    exact ⟨rfl, rfl, rfl⟩
  refine ⟨fun l hl => ⟨fun hreq => ?shared, fun hreq => ?lent, fun hreq => ?handed, ?recalled⟩, fun hclean => ?clean,
    fun hawake => ⟨?invalidated, fun m val hset => ?installed⟩, fun hparked => ?parked, fun hnot => ?released, fun hwaits hawake hheld hcredit hidle
    hentry hroom => ?resumed⟩
  case shared =>
    obtain ⟨hcluster, hout⟩ := doFwdgets_dirty hl req
    rw [if_pos hreq] at hout
    exact .of_eq (require_of hok) ⟨hout, congrArg Cluster.lines hcluster⟩
  case lent =>
    obtain ⟨hcluster, hout⟩ := doFwdgets_dirty hl req
    rw [if_neg (by omega)] at hout
    exact .of_eq (require_of hok) ⟨hout, congrArg Cluster.lines hcluster⟩
  case handed => exact .of_eq (require_of (hokReq hreq)) ⟨(doFwdgetm_dirty hl req).2, hdropped _ (doFwdgetm_dirty hl req).1⟩
  case recalled => exact .of_eq (require_of hok) ⟨(doFwdinv_dirty hl).2, hdropped _ (doFwdinv_dirty hl).1⟩
  case clean =>
    refine ⟨(require_of hok).trans ?_, fun hreq => (require_of (hokReq hreq)).trans ?_, (require_of hok).trans ?_⟩
    · rw [doFwdgets_clean hclean]
    · rw [doFwdgetm_clean hclean]
    · rw [doFwdinv_clean hclean]
  case invalidated => exact .of_eq (require_of hok) ⟨(doInv_awake hawake).2, hdropped _ (doInv_awake hawake).1⟩
  case installed =>
    obtain ⟨hcluster, hout⟩ := doData_awake hawake hset m val
    exact .of_eq (require_of hok) ⟨hout, congrArg Cluster.lines hcluster⟩
  case parked =>
    refine ⟨(require_of hok).trans ?_, fun m val p => (require_of hok).trans ?_⟩
    · rw [doInv_parked hparked]
    · rw [doData_parked hparked]
  case released =>
    refine .of_eq (require_of hok) ?_
    rw [doWback_unawaited hnot, State.modCluster_cluster]
    exact ⟨rfl, rfl, rfl, rfl⟩
  case resumed =>
    generalize hv : s.modCluster cl (·.released line) = v
    have harbs : v.arbs = s.arbs := by rw [← hv, State.modCluster_arbs]
    have harb : v.arb a = s.arb a := by rw [State.arb, harbs]; rfl
    obtain ⟨w, hle, hw, heq⟩ := arbReq_idle (s := v) (r := { kind := 1, src := cl, line := line }) (harb ▸ hheld) (harb ▸ hcredit) (harb ▸ hidle)
      (harb ▸ Arb.needsRoom_free hroom)
    have hcluster : (arbReq v { kind := 1, src := cl, line := line }).cluster cl = C.released line := by
      rw [(arbReq_le ..).cluster rfl, ← hv, State.modCluster_cluster]
    refine .of_eq (require_of hok) ?_
    rw [doWback_awaited hwaits hawake, hv, hcluster]
    refine ⟨rfl, by simp [Cluster.released], ?_⟩
    obtain ⟨-, -, -, harb'⟩ := (acceptReq_uncached (s := w) (a := a) (r := { kind := 1, src := cl, line := line })
      (by rw [hw, harb]; exact hentry)).2 rfl
    rw [heq, harb', Arb.owner, Arb.opened_entry, if_neg (by simp)]
    rfl

end Sys2Proof.Machine
end

section
/-!
PROOFS. The transactions of a home arbiter (R238, R242, R245–R250): the requests that it accepts, the answers that its open transactions wait for,
and evicted lines.
-/

namespace Sys2Proof.Machine
open Sys2Proof

/-! ### A request from the table to its messages (R245, R246, R250) -/

/-- What an opened transaction shows: its line's entry, itself, and the messages. -/
theorem Opens.shows {s u : State} {a line : Nat} {o : Option Nat} {sh : List Nat} {t : Trans} {msgs : List Out} (h : Opens s u a line o sh t msgs)
    (hidle : (s.arb a).busy line = false) (ht : t.req.line = line) :
    (u.arb a).entry line = (if o = none ∧ sh = [] then none else some ⟨line, o, sh⟩) ∧ (u.arb a).trans line = some t ∧ u.out = msgs ++ s.out := by
  obtain ⟨harb, hout⟩ := h
  rw [harb]
  exact ⟨Arb.opened_entry .., Arb.opened_trans hidle o sh ht, hout⟩

section Idle
variable {s : State} {r : CReq} (hheld : (s.arb (homeArb r.line)).held = []) (hcredit : (s.arb (homeArb r.line)).credit = [])
include hheld hcredit

/-- A request of a busy line stands in the table, and nothing else of the arbiter changes. -/
theorem arbReq_waits (hbusy : (s.arb (homeArb r.line)).busy r.line = true) : let u := arbReq s r
    (u.arb (homeArb r.line)).held.map (fun r => (r.kind, r.src, r.line)) = [(r.kind, r.src, r.line)] ∧
      (u.arb (homeArb r.line)).dir = (s.arb (homeArb r.line)).dir ∧ (u.arb (homeArb r.line)).open_ = (s.arb (homeArb r.line)).open_ ∧
      u.out = s.out := by
  intro u
  have hu : u = tabled s r := arbReq_busy hheld hcredit hbusy
  rw [hu, tabled_arb hheld hcredit]
  exact ⟨rfl, rfl, rfl, rfl⟩

variable (hidle : (s.arb (homeArb r.line)).busy r.line = false)
include hidle

/-- A request of a line in the directory, which needs no room there: what the arbiter opens for it, it opens when the request comes. -/
theorem arbReq_cached {e : DirEntry} (hentry : (s.arb (homeArb r.line)).entry r.line = some e) {o : Option Nat} {sh : List Nat} {t : Trans}
    {msgs : List Out}
    (hopens : ∀ v : State, (v.arb (homeArb r.line)).owner r.line = e.owner → (v.arb (homeArb r.line)).sharers r.line = e.sharers →
      Opens v (acceptReq v (homeArb r.line) r) (homeArb r.line) r.line o sh t msgs)
    (ht : t.req = r) : let u := arbReq s r
    (u.arb (homeArb r.line)).entry r.line = (if o = none ∧ sh = [] then none else some ⟨r.line, o, sh⟩) ∧
      (u.arb (homeArb r.line)).trans r.line = some t ∧ u.out = msgs ++ s.out := by
  obtain ⟨v, hle, hv, heq⟩ := arbReq_idle hheld hcredit hidle (Arb.needsRoom_entry hentry)
  have hopened := hopens v (by rw [hv, Arb.owner_of_entry hentry]) (by rw [hv, Arb.sharers_of_entry hentry])
  have hshows := hopened.shows (hv ▸ hidle) (congrArg CReq.line ht)
  rw [show v.out = s.out from hle.same .out rfl, ← heq] at hshows
  exact hshows

variable (hentry : (s.arb (homeArb r.line)).entry r.line = none)
include hentry

/-- A cluster's request of a line that no cluster has is sent the line's data, and the line enters the directory. -/
theorem arbReq_data (hroom : ((s.arb (homeArb r.line)).dirSet r.line).length < 16) {o : Option Nat} {sh : List Nat}
    (hkind : r.kind = 0 ∧ o = none ∧ sh = [r.src] ∨ r.kind = 1 ∧ o = some r.src ∧ sh = []) : let u := arbReq s r
    (u.arb (homeArb r.line)).entry r.line = some ⟨r.line, o, sh⟩ ∧
      (u.arb (homeArb r.line)).trans r.line = some { req := r, needDone := true } ∧
      ∃ d p rest, u.out = .coh "Data" r.src r.line d p :: rest ∧ (PlainCw s r.line → d = s.pool.data r.line ∧ p = false ∧ rest = s.out) := by
  obtain ⟨v, hle, hv, heq⟩ := arbReq_idle hheld hcredit hidle (Arb.needsRoom_free hroom)
  have haccept : ∃ w, Le 524416 v w ∧ (acceptReq v (homeArb r.line) r).out = (sendData w r.src r.line).out ∧
      (acceptReq v (homeArb r.line) r).arb (homeArb r.line) = (v.arb (homeArb r.line)).opened r.line o sh { req := r, needDone := true } := by
    obtain ⟨hread, hwrite⟩ := acceptReq_uncached (s := v) (a := homeArb r.line) (hv ▸ hentry)
    rcases hkind with ⟨hk, rfl, rfl⟩ | ⟨hk, rfl, rfl⟩
    · exact hread hk
    · exact hwrite hk
  obtain ⟨w, hw, hout, harb⟩ := haccept
  have hentered : ¬ (o = none ∧ sh = []) := by
    rcases hkind with ⟨-, rfl, rfl⟩ | ⟨-, rfl, rfl⟩ <;> simp
  have hle' : Le 524416 s w := Le.next hw (by decide) (Le.next hle (by decide) (Le.refl ..))
  obtain ⟨d, p, rest, hdata, hplain⟩ := sendData_answers w r.src r.line
  intro u
  rw [show u = _ from heq, harb, hv]
  refine ⟨by rw [Arb.opened_entry, if_neg hentered], Arb.opened_trans hidle o sh rfl, d, p, rest, hout.trans hdata, fun h => ?_⟩
  obtain ⟨rfl, hp, hrest⟩ := hplain (hle'.plainCw (by decide) h)
  rw [show w.pool = s.pool from hle'.same .pool rfl]
  exact ⟨rfl, hp, hrest.trans (hle'.same .out rfl)⟩

/-- A tile's access of a line that no cluster has acts at once at the home pier. -/
theorem arbReq_tile (hk : r.kind = 2 ∨ r.kind = 3 ∨ r.kind = 4) :
    ∃ w, Le 524416 s w ∧ w.arb (homeArb r.line) = s.arb (homeArb r.line) ∧ arbReq s r = tileAccess w r := by
  obtain ⟨v, hle, hv, heq⟩ := arbReq_idle hheld hcredit hidle (Arb.needsRoom_tile _ (by omega))
  obtain ⟨w, hw, hwarb, haccess⟩ := acceptReq_tile (s := v) (a := homeArb r.line) (hv ▸ hentry) hk
  exact ⟨w, Le.next hw (by decide) (Le.next hle (by decide) (Le.refl ..)), hwarb.trans hv, heq.trans haccess⟩

end Idle

/-! ### Requests of a cluster (R238, R246, R247) -/

section Requests
variable {s : State} {cl line : Nat}

theorem doGets_parked (h : s.awake cl = false) : doGets cl line s = s := by
  unfold doGets
  rw [h, if_neg Bool.false_ne_true]

theorem doGetm_parked (h : s.awake cl = false) : doGetm cl line s = s := by
  unfold doGetm
  rw [h, Bool.not_false, if_pos rfl]

/-- A GetM of a line in the writeback buffer waits for the WbAck. -/
theorem doGetm_written (h : s.awake cl = true) (hwb : (s.cluster cl).wb.any (fun l => l.line == line) = true) :
    doGetm cl line s = s.modCluster cl fun C => { C with waitM := addNew C.waitM line } := by
  unfold doGetm
  rw [h, Bool.not_true, if_neg Bool.false_ne_true, hwb, if_pos rfl]

section Reach
variable (hcl : cl < 24) (hin : inPool (64 * line) = true)
include hcl hin

/-- The GetS of a cluster that is not parked reaches the arbiter. -/
theorem gets_reaches (h : s.awake cl = true) : exec (.gets cl line) s = .next (arbReq s { kind := 0, src := cl, line := line }) := by
  refine (require_of (okLine_of hcl hin)).trans ?_
  unfold doGets
  rw [h, if_pos rfl]

/-- So does its GetM of a line that is not in its writeback buffer. -/
theorem getm_reaches (h : s.awake cl = true) (hwb : (s.cluster cl).wb.any (fun l => l.line == line) = false) :
    exec (.getm cl line) s = .next (arbReq s { kind := 1, src := cl, line := line }) := by
  refine (require_of (okLine_of hcl hin)).trans ?_
  unfold doGetm
  rw [h, Bool.not_true, if_neg Bool.false_ne_true, hwb, if_neg Bool.false_ne_true]

end Reach

theorem tread_reaches (hin : inPool (64 * line) = true) : exec (.tread cl line) s = .next (arbReq s { kind := 2, src := cl, line := line }) :=
  require_of hin

theorem twrite_reaches (hin : inPool (64 * line) = true) (mask : BitVec 64) (val : BitVec 512) :
    exec (.twrite cl line mask val) s = .next (arbReq s { kind := 3, src := cl, line := line, mask := mask, data := val }) := require_of hin

/-- A legal operation on an aligned element of the pool reaches the arbiter of its line (R227, R250). -/
theorem top_reaches {addr : Nat} {op : BitVec 8} (hin : inPool (64 * (addr / 64)) = true) (hlegal : aLegal op = true)
    (haligned : addr % aSize (aType op) = 0) (x y : BitVec 128) : exec (.top cl addr op x y) s =
      .next (arbReq s { kind := 4, src := cl, line := addr / 64, addr := addr, addop := op, opnd := x, cmp := y }) := by
  have hline : 64 * (addr / 64) < Config.poolBytes := of_decide_eq_true hin
  have haddr : inPool addr = true := decide_eq_true (by simp only [Config.poolBytes] at hline ⊢; omega)
  refine (require_of haddr).trans ?_
  unfold doTop
  rw [if_neg (by simp [hlegal, haligned])]

end Requests

theorem mem_addNew (l : List Nat) (x : Nat) : x ∈ addNew l x := by
  unfold addNew
  split
  case isTrue h => exact List.contains_iff_mem.mp h
  case isFalse => exact List.mem_append_right _ (List.mem_singleton_self x)

/-! ### A line with an open transaction (R245) -/

section Open
variable {s : State} {cl line : Nat} {t : Trans}

theorem tryClose_waits (ht : (s.arb (homeArb line)).trans line = some t) (hleft : t.acks ≠ [] ∨ t.downwb ≠ none ∨ t.needDone = true) :
    tryClose s (homeArb line) line = s := by
  unfold tryClose
  rw [ht]
  exact if_pos hleft

/-- A host transaction with nothing left to come closes, and the arbiter goes on. -/
theorem tryClose_closes (ht : (s.arb (homeArb line)).trans line = some t) (hacks : t.acks = []) (hdown : t.downwb = none) (hdone : t.needDone = false)
    (hkind : t.req.kind < 2) : tryClose s (homeArb line) line =
      serveArb (s.modArb (homeArb line) fun A => { A with open_ := A.open_.filter fun t => t.req.line != line }) (homeArb line) := by
  unfold tryClose
  rw [ht]
  dsimp only
  rw [if_neg (by simp [hacks, hdown, hdone]), if_neg (by omega)]

/-- Where no request of another node waits, none is taken up (R232). -/
theorem resumeReqs_none {u : State} {m : Nat} (h : Le m s u) (hm : m.testBit 12 = false) (hnone : s.node.waitReqs = []) : resumeReqs u = u := by
  have hnode : u.node = s.node := h.same .node hm
  unfold resumeReqs
  rw [hnode]
  exact if_pos hnone

theorem doAck_eq (hnone : s.node.waitReqs = []) : doAck cl line s = takeInvAck s cl line := resumeReqs_none (takeInvAck_le ..) rfl hnone

variable (ht : (s.arb (homeArb line)).trans line = some t)
include ht

theorem takeInvAck_unexpected (h : cl ∉ t.acks) : takeInvAck s cl line = s := by
  unfold takeInvAck
  dsimp only
  rw [ht]
  exact if_neg (by simpa using h)

/-- An acknowledgement is noted; the last one of a GetM sends the data. -/
theorem takeInvAck_expected (h : cl ∈ t.acks) : takeInvAck s cl line =
    tryClose (if t.acks.filter (· != cl) = [] ∧ t.req.kind = 1 then
        sendData (modTrans s (homeArb line) line fun t => { t with acks := t.acks.filter (· != cl) }) t.req.src line
      else modTrans s (homeArb line) line fun t => { t with acks := t.acks.filter (· != cl) }) (homeArb line) line := by
  unfold takeInvAck
  dsimp only
  rw [ht]
  exact if_pos (by simpa using h)

/-- An acknowledgement that is not the last one. -/
theorem takeInvAck_noted (h : cl ∈ t.acks) (hleft : t.acks.filter (· != cl) ≠ []) :
    ((takeInvAck s cl line).arb (homeArb line)).trans line = some { t with acks := t.acks.filter (· != cl) } ∧
      (takeInvAck s cl line).out = s.out := by
  have hnoted := modTrans_noted ht (f := fun t => { t with acks := t.acks.filter (· != cl) }) fun _ => rfl
  rw [takeInvAck_expected ht h, if_neg fun hlast => hleft hlast.1, tryClose_waits hnoted (Or.inl hleft)]
  exact ⟨hnoted, rfl⟩

/-- The last acknowledgement of a GetM. -/
theorem takeInvAck_last (h : cl ∈ t.acks) (hlast : t.acks.filter (· != cl) = []) (hkind : t.req.kind = 1) (hdone : t.needDone = true) :
    ((takeInvAck s cl line).arb (homeArb line)).trans line = some { t with acks := [] } ∧
      ∃ d p rest, (takeInvAck s cl line).out = .coh "Data" t.req.src line d p :: rest := by
  have hnoted := modTrans_noted ht (f := fun t => { t with acks := t.acks.filter (· != cl) }) fun _ => rfl
  rw [hlast, ← (sendData_le _ t.req.src line).arb rfl] at hnoted
  rw [takeInvAck_expected ht h, if_pos ⟨hlast, hkind⟩, tryClose_waits hnoted (Or.inr (Or.inr hdone))]
  exact ⟨hnoted, _, _, _, sendData_out ..⟩

/-- Downgrade data that the transaction waits for goes to the home pier, and the transaction waits for what is left. -/
theorem doDownwb_expected (hnone : s.node.waitReqs = []) (hdown : t.downwb = some cl) (hdone : t.needDone = true) (val : BitVec 512) (poison : Bool) :
    ((doDownwb cl line val poison s).arb (homeArb line)).trans line = some { t with downwb := none } ∧
      (doDownwb cl line val poison s).pool = (writeBackLine s line val poison).pool ∧
      (doDownwb cl line val poison s).piers = (writeBackLine s line val poison).piers := by
  have hwritten := writeBackLine_le s line val poison
  generalize hv : writeBackLine s line val poison = v at hwritten
  have hnoted := modTrans_noted ((congrArg (Arb.trans · line) (hwritten.arb rfl (homeArb line))).trans ht) (f := fun t => { t with downwb := none })
    fun _ => rfl
  have hle : Le 755794872 s (modTrans v (homeArb line) line fun t => { t with downwb := none }) :=
    Le.next (modTrans_le ..) (by decide) (Le.next hwritten (by decide) (Le.refl ..))
  unfold doDownwb
  dsimp only
  rw [ht]
  dsimp only
  rw [if_pos hdown, hv, tryClose_waits hnoted (Or.inr (Or.inr hdone)), resumeReqs_none hle rfl hnone]
  exact ⟨hnoted, rfl, rfl⟩

theorem doDownwb_unexpected (hdown : t.downwb ≠ some cl) (val : BitVec 512) (poison : Bool) : doDownwb cl line val poison s = s := by
  unfold doDownwb
  dsimp only
  rw [ht]
  exact if_neg hdown

theorem doDone_waits (hnone : s.node.waitReqs = []) (hacks : t.acks ≠ []) :
    doDone line s = modTrans s (homeArb line) line fun t => { t with needDone := false } := by
  unfold doDone
  dsimp only
  rw [tryClose_waits (modTrans_noted ht (f := fun t => { t with needDone := false }) fun _ => rfl) (Or.inl hacks),
    resumeReqs_none (modTrans_le ..) rfl hnone]

/-- DONE closes a host transaction with nothing else left to come. -/
theorem doDone_closes (hnone : s.node.waitReqs = []) (hacks : t.acks = []) (hdown : t.downwb = none) (hkind : t.req.kind < 2)
    (hheld : (s.arb (homeArb line)).held = []) (hcredit : (s.arb (homeArb line)).credit = []) :
    ((doDone line s).arb (homeArb line)).trans line = none ∧ ((doDone line s).arb (homeArb line)).dir = (s.arb (homeArb line)).dir ∧
      (doDone line s).out = s.out := by
  have hnoted := modTrans_noted ht (f := fun t => { t with needDone := false }) fun _ => rfl
  have harb : ∀ f, (modTrans s (homeArb line) line f).arb (homeArb line) =
      { s.arb (homeArb line) with open_ := (s.arb (homeArb line)).open_.map fun t => if t.req.line = line then f t else t } := fun f => by
    rw [modTrans, State.modArb_arb]
  generalize hv : modTrans s (homeArb line) line (fun t => { t with needDone := false }) = v at hnoted
  have hvarb : v.arb (homeArb line) = _ := hv ▸ harb _
  have hle : Le 128 s v := hv ▸ modTrans_le ..
  have hclosed : ∀ f : Arb → Arb, Le 128 s (v.modArb (homeArb line) f) := fun f => hle.then (State.modArb_le ..) (by decide)
  unfold doDone
  dsimp only
  rw [hv, tryClose_closes hnoted hacks hdown rfl hkind]
  rw [serveArb_idle (by rw [State.modArb_arb, hvarb]; exact hheld) (by rw [State.modArb_arb, hvarb]; exact hcredit),
    resumeReqs_none (hclosed _) rfl hnone, State.modArb_arb]
  refine ⟨?_, by rw [hvarb], (hclosed _).same .out rfl⟩
  simp [Arb.trans, List.find?_filter]

end Open

/-! ### Evicted lines (R246, R247) -/

/-- A cluster that has evicted a line, with the line in its writeback buffer where it held it in M. -/
def Cluster.evicted (C : Cluster) (line : Nat) (x : HLine) : Cluster :=
  if C.lines.any fun l => l.line == line && l.m then { C.drop line with wb := C.wb.filter (fun l => l.line != line) ++ [x] } else C

section Evicted
variable {s : State} {cl line : Nat} {val : BitVec 512}

theorem doPutm_parked (h : s.awake cl = false) (poison : Bool) : doPutm cl line val poison s = s := by
  unfold doPutm
  rw [h, Bool.not_false, if_pos rfl]

variable (h : s.awake cl = true)
include h

/-- The owner's eviction is acknowledged, the line has no owner any more, and its data goes to the home pier. -/
theorem doPutm_owner (hin : inPool (64 * line) = true) (hown : (s.arb (homeArb line)).owner line = some cl) {x : HLine}
    (hx : ((s.cluster cl).dirty line).getD ⟨line, true, val, false⟩ = x) (hsound : x.poison = false) : let u := doPutm cl line val false s
    (∃ rest, u.out = .coh "WbAck" cl line 0 false :: rest) ∧ (u.arb (homeArb line)).owner line = none ∧
      u.cluster cl = (s.cluster cl).evicted line x ∧ (Untouched s line → Waits s u line (BitVec.allOnes 64) x.data) := by
  generalize hv : (s.modCluster cl (·.evicted line x)).modArb (homeArb line) (fun A => A.setEntry line none []) = v
  have hle : Le 192 s v := hv ▸ Le.next (State.modArb_le ..) (by decide) (Le.next (State.modCluster_le ..) (by decide) (Le.refl ..))
  have hu : doPutm cl line val false s =
      sendCoh (writeBackLine v line x.data false) (homeEnd line) (clusterEnd cl) vcRsp 2 "WbAck" cl line 0 false := by
    unfold doPutm
    dsimp only
    rw [h, Bool.not_true, if_neg Bool.false_ne_true, hx, State.modCluster_arb, if_pos hown, hsound, ← hv]
    rfl
  have hwritten := writeBackLine_le v line x.data false
  intro u
  rw [show u = _ from hu]
  refine ⟨⟨_, sendCoh_out ..⟩, ?_, ?_, fun hfree => ?_⟩
  · rw [(sendCoh_le ..).arb rfl, hwritten.arb rfl, ← hv, State.modArb_arb]
    exact Arb.setEntry_owner ..
  · rw [sendCoh_cluster, hwritten.cluster rfl, ← hv]
    exact State.modCluster_cluster ..
  · unfold Waits
    rw [(sendCoh_le ..).pier rfl]
    exact hle.waits (by decide) (writeBackLine_waits hin (hle.untouched (by decide) hfree) x.data)

/-- What another cluster evicts is discarded, and acknowledged. -/
theorem doPutm_other (hown : (s.arb (homeArb line)).owner line ≠ some cl) : let u := doPutm cl line val false s
    u.out = .coh "WbAck" cl line 0 false :: s.out ∧ u.arbs = s.arbs ∧ u.piers = s.piers ∧ u.pool = s.pool := by
  generalize hx : ((s.cluster cl).dirty line).getD ⟨line, true, val, false⟩ = x
  have hu : doPutm cl line val false s =
      sendCoh (s.modCluster cl (·.evicted line x)) (homeEnd line) (clusterEnd cl) vcRsp 2 "WbAck" cl line 0 false := by
    unfold doPutm
    dsimp only
    rw [h, Bool.not_true, if_neg Bool.false_ne_true, hx, State.modCluster_arb, if_neg hown]
    rfl
  have hsent := sendCoh_le (s.modCluster cl (·.evicted line x)) (homeEnd line) (clusterEnd cl) vcRsp 2 "WbAck" cl line 0 false
  intro u
  rw [show u = _ from hu]
  exact ⟨sendCoh_out .., hsent.same .arbs rfl, hsent.same .piers rfl, hsent.same .pool rfl⟩

end Evicted

/-! ### Accesses of tiles at the home pier (R250) -/

section Tile
variable {s : State} {cl line : Nat}

/-- A tile's read of a plain codeword. -/
theorem tileAccess_read (hplain : PlainCw s line) : (tileAccess s { kind := 2, src := cl, line := line }).out =
    .tileAck cl ((s.pool.data line).setWidth 1024) 0 false :: s.out := by
  obtain ⟨hvalue, hout⟩ := pierGet_plain hplain
  have hread : tileAccess s { kind := 2, src := cl, line := line } = (pierGet s line (hostSectors line)).1.send
    (.tileAck cl ((pierGet s line (hostSectors line)).2.1.setWidth 1024) 0 (pierGet s line (hostSectors line)).2.2) := rfl
  rw [hread, State.send_out, hvalue, hout]

/-- A tile's write that the home pier accepts waits in the buffer. -/
theorem tileAccess_write (hcl : cl < 24) (hfree : Untouched s line) {mask : BitVec 64} (hmask : mask ≠ 0)
    (haccepted : writePoison s (line / 2) (mask.setWidth 128 <<< (64 * (line % 2))) = none) (val : BitVec 512) :
    let u := tileAccess s { kind := 3, src := cl, line := line, mask := mask, data := val }
    u.out = .tileAck cl 0 0 false :: s.out ∧ Waits s u line mask val := by
  obtain ⟨hout, hwaits⟩ := lineStore_waits hfree hmask haccepted val
  have hanswered : cl ≠ noAck := by
    unfold noAck
    omega
  intro u
  have hwrite : u = (lineStore s line mask val).send
      (.tileAck cl 0 0 (writePoison s (line / 2) (mask.setWidth 128 <<< (64 * (line % 2)))).isSome) := if_neg hanswered
  rw [hwrite, State.send_out, hout, haccepted]
  exact ⟨rfl, hwaits⟩

/-- A tile's operation on a resident codeword answers the old element. -/
theorem tileAccess_operation {addr : Nat} {op : BitVec 8} {e : AdderEntry} (hserves : s.poolServes (addr / 64) = true)
    (he : s.adderEntry (addr / 64) = some e) (hentry : (s.pier (s.home (64 * (addr / 64)))).entry (addr / 64 / 2) = none) (x y : BitVec 128) :
    let old := fld e.data.toNat (8 * (addr % 64)) (8 * aSize (aType op))
    (tileAccess s { kind := 4, src := cl, line := addr / 64, addr := addr, addop := op, opnd := x, cmp := y }).out =
      .tileAck cl (BitVec.ofNat 1024 old) (adderValue op old x.toNat y.toNat).2 false :: s.out := by
  have hhome : s.home (64 * (addr / 64)) = s.home addr := s.home_of_line (by omega)
  rw [hhome, Nat.div_div_eq_div_mul] at hentry
  obtain ⟨hanswer, hout, -⟩ := adderApply_resident hserves he hentry op x.toNat y.toNat
  intro old
  have happly : tileAccess s { kind := 4, src := cl, line := addr / 64, addr := addr, addop := op, opnd := x, cmp := y } =
    (adderApply s addr op x.toNat y.toNat).1.send (.tileAck cl (BitVec.ofNat 1024 (adderApply s addr op x.toNat y.toNat).2.old)
      (adderApply s addr op x.toNat y.toNat).2.flags (adderApply s addr op x.toNat y.toNat).2.poison) := rfl
  rw [happly, State.send_out, hanswer, hout]

end Tile

section TileRequest
variable {s : State} {cl line : Nat} (hheld : (s.arb (homeArb line)).held = []) (hcredit : (s.arb (homeArb line)).credit = [])
  (hidle : (s.arb (homeArb line)).busy line = false) (hentry : (s.arb (homeArb line)).entry line = none)
include hheld hcredit hidle hentry

/-- A tile's read of a plain codeword that no cluster has is answered at once, and the arbiter is as it was. -/
theorem arbReq_read (hplain : PlainCw s line) : let u := arbReq s { kind := 2, src := cl, line := line }
    u.out = .tileAck cl ((s.pool.data line).setWidth 1024) 0 false :: s.out ∧ u.arb (homeArb line) = s.arb (homeArb line) := by
  obtain ⟨w, hle, harb, heq⟩ := arbReq_tile (s := s) (r := { kind := 2, src := cl, line := line }) hheld hcredit hidle hentry (Or.inl rfl)
  intro u
  rw [show u = _ from heq, (tileAccess_le ..).arb rfl, tileAccess_read (hle.plainCw (by decide) hplain), (hle.memory (by decide)).1]
  exact ⟨congrArg _ (hle.same .out rfl), harb⟩

/-- A tile's write of a line that no cluster has, and of which nothing waits, is acknowledged at once. -/
theorem arbReq_write (hcl : cl < 24) (hfree : Untouched s line) {mask : BitVec 64} (hmask : mask ≠ 0)
    (haccepted : writePoison s (line / 2) (mask.setWidth 128 <<< (64 * (line % 2))) = none) (val : BitVec 512) :
    let u := arbReq s { kind := 3, src := cl, line := line, mask := mask, data := val }
    u.out = .tileAck cl 0 0 false :: s.out ∧ Waits s u line mask val := by
  obtain ⟨w, hle, -, heq⟩ := arbReq_tile (s := s) (r := { kind := 3, src := cl, line := line, mask := mask, data := val }) hheld hcredit hidle hentry
    (Or.inr (Or.inl rfl))
  obtain ⟨hpool, hchans, hpiers⟩ := hle.memory (by decide)
  obtain ⟨hout, hwaits⟩ := tileAccess_write hcl (hle.untouched (by decide) hfree) hmask
    ((writePoison_congr hpool hchans hpiers ..).trans haccepted) val
  intro u
  rw [show u = _ from heq]
  exact ⟨hout.trans (congrArg _ (hle.same .out rfl)), hle.waits (by decide) hwaits⟩

/-- A tile's operation on a resident codeword that no cluster has answers its old element at once. -/
theorem arbReq_operation {addr : Nat} (haddr : addr / 64 = line) {op : BitVec 8} {e : AdderEntry} (hserves : s.poolServes line = true)
    (he : s.adderEntry line = some e) (hfree : (s.pier (s.home (64 * line))).entry (line / 2) = none) (x y : BitVec 128) :
    let old := fld e.data.toNat (8 * (addr % 64)) (8 * aSize (aType op))
    (arbReq s { kind := 4, src := cl, line := addr / 64, addr := addr, addop := op, opnd := x, cmp := y }).out =
      .tileAck cl (BitVec.ofNat 1024 old) (adderValue op old x.toNat y.toNat).2 false :: s.out := by
  subst haddr
  obtain ⟨w, hle, -, heq⟩ := arbReq_tile (s := s) (r := { kind := 4, src := cl, line := addr / 64, addr := addr, addop := op, opnd := x, cmp := y })
    hheld hcredit hidle hentry (Or.inr (Or.inr rfl))
  obtain ⟨haccess, hpier⟩ := hle.homePier (by decide)
  intro old
  rw [heq, tileAccess_operation (s := w) (by rw [haccess.poolServes, hserves]) (by rw [haccess.adderEntry, he])
    (by rw [haccess.home, hpier]; exact hfree)]
  exact congrArg _ (hle.same .out rfl)

end TileRequest

/-! ### The statement -/

/-- Settles O35: the requests by what the directory says of their line, the answers by what the line's transaction waits for, the evictions by
the line's owner. -/
theorem arbiterTransactions : Obligations.ArbiterTransactions := by
  unfold Obligations.ArbiterTransactions
  refine ⟨fun cl line s hcl hin => ?requests, fun cl line val x s hcl hin hnone => ?answers⟩
  case requests =>
    intro a A P plain stored opened
    refine ⟨fun hparked => ?parked, fun hawake hwb => ?written, fun hheld hcredit => ⟨fun hbusy => ?busy, fun hidle hentry => ?uncached,
      fun own sh hidle hentry => ?owned, fun sh hidle hentry hsh => ?shared⟩⟩
    case parked =>
      refine ⟨(require_of (okLine_of hcl hin)).trans ?_, (require_of (okLine_of hcl hin)).trans ?_⟩
      · rw [doGets_parked hparked]
      · rw [doGetm_parked hparked]
    case written =>
      refine .of_eq (require_of (okLine_of hcl hin)) ?_
      rw [doGetm_written hawake hwb, State.modCluster_cluster]
      exact ⟨mem_addNew .., rfl, rfl⟩
    case busy =>
      exact ⟨fun hawake => .of_eq (gets_reaches hcl hin hawake) (@arbReq_waits s { kind := 0, src := cl, line := line } hheld hcredit hbusy),
        fun hawake hwb => .of_eq (getm_reaches hcl hin hawake hwb) (@arbReq_waits s { kind := 1, src := cl, line := line } hheld hcredit hbusy),
        .of_eq (tread_reaches hin) (@arbReq_waits s { kind := 2, src := cl, line := line } hheld hcredit hbusy),
        fun mask v => .of_eq (twrite_reaches hin mask v)
          (@arbReq_waits s { kind := 3, src := cl, line := line, mask := mask, data := v } hheld hcredit hbusy)⟩
    case uncached =>
      refine ⟨fun hawake hroom => ⟨.of_eq (gets_reaches hcl hin hawake) ?gets, fun hwb => .of_eq (getm_reaches hcl hin hawake hwb) ?getm⟩,
        fun hplain => .of_eq (tread_reaches hin) (arbReq_read hheld hcredit hidle hentry hplain),
        fun mask v hmask hserves hfree hfills hbuf haccepted => .of_eq (twrite_reaches hin mask v)
          (arbReq_write hheld hcredit hidle hentry hcl ⟨hserves, hfree, hbuf, hfills⟩ hmask haccepted v),
        fun addr op y z e haddr hlegal haligned hserves he hfree => .of_eq (top_reaches (haddr ▸ hin) hlegal haligned y z)
          (arbReq_operation hheld hcredit hidle hentry haddr hserves he hfree y z)⟩
      case gets =>
        obtain ⟨hentry', htrans, hdata⟩ := arbReq_data (s := s) (r := { kind := 0, src := cl, line := line }) hheld hcredit hidle hentry hroom
          (Or.inl ⟨rfl, rfl, rfl⟩)
        exact ⟨hentry', congrArg (Option.map _) htrans, hdata⟩
      case getm =>
        obtain ⟨hentry', htrans, hdata⟩ := arbReq_data (s := s) (r := { kind := 1, src := cl, line := line }) hheld hcredit hidle hentry hroom
          (Or.inr ⟨rfl, rfl, rfl⟩)
        exact ⟨hentry', congrArg (Option.map _) htrans, hdata⟩
    case owned =>
      have hkept : ¬ ((none : Option Nat) = none ∧ addNew [own] cl = []) := fun h => List.ne_nil_of_mem (mem_addNew ..) h.2
      refine ⟨fun hawake => .of_eq (gets_reaches hcl hin hawake) ?gets, fun hawake hwb => .of_eq (getm_reaches hcl hin hawake hwb) ?getm,
        .of_eq (tread_reaches hin) ?tread, fun mask v => .of_eq (twrite_reaches hin mask v) ?twrite⟩
      case gets =>
        obtain ⟨hentry', htrans, hout⟩ := arbReq_cached (s := s) (r := { kind := 0, src := cl, line := line }) hheld hcredit hidle hentry
          (fun u hown _ => (acceptReq_owned hown).1 rfl) rfl
        exact ⟨hout, hentry'.trans (if_neg hkept), congrArg (Option.map _) htrans⟩
      case getm =>
        obtain ⟨hentry', htrans, hout⟩ := arbReq_cached (s := s) (r := { kind := 1, src := cl, line := line }) hheld hcredit hidle hentry
          (fun u hown _ => (acceptReq_owned hown).2.1 rfl) rfl
        exact ⟨hout, hentry', congrArg (Option.map _) htrans⟩
      case tread =>
        obtain ⟨hentry', htrans, hout⟩ := arbReq_cached (s := s) (r := { kind := 2, src := cl, line := line }) hheld hcredit hidle hentry
          (fun u hown _ => (acceptReq_owned hown).2.2.1 rfl) rfl
        exact ⟨hout, hentry', congrArg (Option.map _) htrans⟩
      case twrite =>
        obtain ⟨hentry', htrans, hout⟩ := arbReq_cached (s := s) (r := { kind := 3, src := cl, line := line, mask := mask, data := v }) hheld hcredit
          hidle hentry (fun u hown _ => (acceptReq_owned hown).2.2.2 rfl) rfl
        exact ⟨hout, hentry', congrArg (Option.map _) htrans⟩
    case shared =>
      refine ⟨fun hawake hothers hwb => .of_eq (getm_reaches hcl hin hawake hwb) ?getm, fun mask v => .of_eq (twrite_reaches hin mask v) ?twrite⟩
      case getm =>
        obtain ⟨hentry', htrans, hout⟩ := arbReq_cached (s := s) (r := { kind := 1, src := cl, line := line }) hheld hcredit hidle hentry
          (fun u hown hsharers => (acceptReq_shared hown hsharers).1 rfl hothers) rfl
        exact ⟨hout, hentry', congrArg (Option.map _) htrans⟩
      case twrite =>
        obtain ⟨hentry', htrans, hout⟩ := arbReq_cached (s := s) (r := { kind := 3, src := cl, line := line, mask := mask, data := v }) hheld hcredit
          hidle hentry (fun u hown hsharers => (acceptReq_shared hown hsharers).2 rfl hsh) rfl
        exact ⟨hout, hentry', congrArg (Option.map _) htrans⟩
  case answers =>
    have hok := okLine_of hcl hin
    intro a A home quiet mask taken
    refine ⟨fun ht => ⟨fun hmem => ⟨fun hleft => ?noted, fun hlast hkind hdone => ?last⟩, fun hmem => ?unexpected,
      fun hdown hdone => ⟨?downgraded, ?poisoned⟩, fun hdown => ?discarded, fun hacks hdown hkind hheld hcredit => ?closed, fun hacks => ?stillOpen⟩,
      fun hawake => ⟨fun l hl hsound hown => ?evicted, fun hclean hown => ?released, fun hown => ?other⟩, fun hparked => ?parked⟩
    case noted =>
      refine .of_eq (require_of hok) ?_
      rw [doAck_eq hnone]
      exact takeInvAck_noted ht hmem hleft
    case last =>
      refine .of_eq (require_of hok) ?_
      rw [doAck_eq hnone]
      exact takeInvAck_last ht hmem hlast hkind hdone
    case unexpected =>
      refine (require_of hok).trans ?_
      rw [doAck_eq hnone, takeInvAck_unexpected ht hmem]
    case downgraded =>
      obtain ⟨htrans, -, hpiers⟩ := doDownwb_expected ht hnone hdown hdone val false
      refine .of_eq (require_of hok) ⟨htrans, fun hquiet => ?_⟩
      rw [State.pier, hpiers]
      exact writeBackLine_waits hin hquiet val
    case poisoned =>
      obtain ⟨htrans, hpool, -⟩ := doDownwb_expected ht hnone hdown hdone val true
      refine .of_eq (require_of hok) ⟨htrans, fun hquiet => ?_⟩
      rw [hpool]
      exact writeBackLine_poison hin hquiet.1 val
    case discarded =>
      refine (require_of hok).trans ?_
      rw [doDownwb_unexpected ht hdown]
    case closed => exact .of_eq (require_of hin) (doDone_closes ht hnone hacks hdown hkind hheld hcredit)
    case stillOpen =>
      refine .of_eq (require_of hin) ?_
      rw [doDone_waits ht hnone hacks]
      exact ⟨modTrans_noted ht fun _ => rfl, rfl⟩
    case evicted =>
      have hx : ((s.cluster cl).dirty line).getD ⟨line, true, val, false⟩ = l := by
        rw [Cluster.dirty, hl]
        rfl
      obtain ⟨hout, howner, hcluster, hwaits⟩ := doPutm_owner (val := val) hawake hin hown hx hsound
      have hheld : (s.cluster cl).lines.any (fun l => l.line == line && l.m) = true :=
        List.any_eq_true.mpr ⟨l, List.mem_of_find?_eq_some hl, List.find?_some (p := fun l : HLine => l.line == line && l.m) hl⟩
      rw [Cluster.evicted, if_pos hheld] at hcluster
      refine .of_eq (require_of hok) ⟨hout, howner, ?_, ?_, hwaits⟩
      · rw [hcluster]
        rfl
      · rw [hcluster]
        exact List.mem_append_right _ (List.mem_singleton_self l)
    case released =>
      obtain ⟨hout, howner, -, hwaits⟩ := doPutm_owner (val := val) hawake hin hown (x := ⟨line, true, val, false⟩) (by rw [hclean]; rfl) rfl
      exact .of_eq (require_of hok) ⟨hout, howner, hwaits⟩
    case other => exact .of_eq (require_of hok) (doPutm_other hawake hown)
    case parked =>
      refine (require_of hok).trans ?_
      rw [doPutm_parked hparked]

end Sys2Proof.Machine
end

section
/-!
PROOFS. HOSTINT, the interrupt files and the PCIe windows (R252–R254, R441).
-/

namespace Sys2Proof.Machine
open Sys2Proof

/-! ### HOSTINT and the interrupt files (R252, R253) -/

/-- A write that leaves MASK set sends nothing: ENABLE stays, or is taken where the address is legal, and PEND goes with it (R253, R254). -/
theorem doHostintCtlWrite_masks {s : State} {n : Nat} {val : W32} (hmask : val.getLsbD 30 = true) :
    let e := s.hint n
    let addr := e.addrLo.toNat + 2 ^ 32 * e.addrHi.toNat
    let enable := val.getLsbD 31 && (e.enable || ((imsicFile addr).isSome || endpointRange s addr))
    doHostintCtlWrite n val false s = s.setHint n { e with enable := enable, mask := true, pend := e.pend && enable } := by
  intro e addr enable
  unfold doHostintCtlWrite
  dsimp only
  rw [hmask, Bool.not_true, Bool.and_false, if_neg Bool.false_ne_true, Bool.and_true, Bool.false_and, Bool.or_false]

/-- A write without ENABLE disables the entry, whose pending interrupt is lost. -/
theorem doHostintCtlWrite_disables {s : State} {n : Nat} {val : W32} (hoff : val.getLsbD 31 = false) :
    doHostintCtlWrite n val false s = s.setHint n { s.hint n with enable := false, mask := val.getLsbD 30, pend := false } := by
  unfold doHostintCtlWrite
  dsimp only
  rw [hoff, Bool.false_and, Bool.and_false, Bool.false_and, if_neg Bool.false_ne_true]
  rfl

/-- An enabled entry with a pending interrupt sends its MSI when MASK is cleared. -/
theorem doHostintCtlWrite_sends {s : State} {n : Nat} {val : W32} (hon : val.getLsbD 31 = true) (hmask : val.getLsbD 30 = false)
    (henable : (s.hint n).enable = true) (hpend : (s.hint n).pend = true) :
    doHostintCtlWrite n val false s = sendMsi (s.setHint n { s.hint n with mask := false, pend := false }) n := by
  unfold doHostintCtlWrite
  dsimp only
  rw [hon, hmask, hpend, henable]
  simp only [Bool.true_or, Bool.and_true, Bool.and_false, Bool.not_false, Bool.or_false, if_true]

/-- An identity that becomes pending joins those that are (R252). -/
theorem setIdentity_imsic {s : State} {ident : Nat} (hlow : 1 ≤ ident) (hhigh : ident ≤ 255) (f : Nat) :
    setIdentity s f ident = { s with imsic := Tab.set 0 s.imsic f (Tab.get 0 s.imsic f ||| BitVec.ofNat 256 (2 ^ ident)) } :=
  if_pos ⟨hlow, hhigh⟩

/-- An MSI to the first word of an interrupt file makes its identity pending there (R252, R253). -/
theorem msiWrite_file {s : State} {addr f : Nat} {data : W32} (hfile : imsicFile addr = some f) (hword : addr % 0x1000 = 0)
    (hlow : 1 ≤ data.toNat) (hhigh : data.toNat ≤ 255) :
    let u := msiWrite s addr data
    Tab.get 0 u.imsic f = Tab.get 0 s.imsic f ||| BitVec.ofNat 256 (2 ^ data.toNat) ∧ u.hostint = s.hostint ∧ u.out = s.out := by
  intro u
  have hpacket := packet_le s vcTrussCtrl false headEnd (dieAbut (fileAbut f), unitKeystone) 8 addr 32
  have hu : u = setIdentity (packet s vcTrussCtrl false headEnd (dieAbut (fileAbut f), unitKeystone) 8 addr 32) f data.toNat := by
    unfold u msiWrite
    rw [hfile]
    exact if_pos hword
  rw [hu, setIdentity_imsic hlow hhigh]
  refine ⟨?_, hpacket.same .hostint rfl, hpacket.same .out rfl⟩
  rw [Tab.get_set_self, show State.imsic _ = s.imsic from hpacket.same .imsic rfl]

/-- The seteipnum registers of the machine-level files lie at the first words of the pages of their region (R252). -/
theorem imsicFile_page {f : Nat} (hf : f < 96) : imsicFile (0x400004000000 + 0x1000 * f) = some f := by
  unfold imsicFile
  rw [if_pos ⟨by omega, by simp only [Config.harts]; omega⟩]
  congr 1
  omega

/-- A masked entry keeps its event in PEND. -/
theorem raiseHost_masked {s : State} {n : Nat} (henable : (s.hint n).enable = true) (hmask : (s.hint n).mask = true) :
    raiseHost s n = s.setHint n { s.hint n with pend := true } := by
  unfold raiseHost
  dsimp only
  rw [henable, Bool.not_true, if_neg Bool.false_ne_true, hmask, if_pos rfl]

/-! ### PCIe windows (R441) -/

section Window
variable {hart addr size : Nat} (hhart : hart < 96) (hlow : 0x500000000000 ≤ addr) (hhigh : addr < 0x580000000000) (haligned : addr % size = 0)
include hhart hlow hhigh haligned

/-- A host core accesses a window with a word or a doubleword. -/
theorem pcieWindowAccess_core (hsize : size = 4 ∨ size = 8) (write : Bool) (val : W64) (up : Bool) (s : State) :
    exec (.pcieWindowAccess false write hart addr size val up) s = .next (doPcieWindowAccess false write hart addr size val up s) := by
  refine require_of ?_
  rw [decide_eq_true hlow, decide_eq_true hhigh, okHart_of hhart, haligned]
  rcases hsize with rfl | rfl <;> rfl

/-- HOSTINT writes a window with a word. -/
theorem pcieWindowAccess_hostint (hsize : size = 4) (val : W64) (up : Bool) (s : State) :
    exec (.pcieWindowAccess true true hart addr size val up) s = .next (doPcieWindowAccess true true hart addr size val up s) := by
  refine require_of ?_
  rw [decide_eq_true hlow, decide_eq_true hhigh, okHart_of hhart, haligned, hsize]
  rfl

end Window

/-- An access where no port is up has no place to go. -/
theorem doPcieWindowAccess_down {addr : Nat} {up : Bool} (h : up = false ∨ 4 ≤ (addr - 0x500000000000) / 2 ^ 40) (hostint write : Bool)
    (hart size : Nat) (val : W64) (s : State) : doPcieWindowAccess hostint write hart addr size val up s =
      if hostint then countBadCommit s 1 else s.send (.hostFault hart addr (if write then 7 else 5)) := by
  refine if_pos ?_
  rcases h with rfl | h
  · exact Or.inl rfl
  · exact Or.inr h

/-! ### The statement -/

/-- Settles O37: the writes of an entry's CTL by ENABLE and MASK, the interrupt files by their identity, and the windows by whether their
port is up. -/
theorem hostInterrupts : Obligations.HostInterrupts := by
  unfold Obligations.HostInterrupts
  refine ⟨fun n val s hn => ?entry, fun hart addr size val s hhart hlow hhigh hsize haligned => ⟨fun hport => ?up, fun up write hdown => ?down,
    fun up hdown hword => ?hostint⟩⟩
  case entry =>
    have hexec : exec (.hostintCtlWrite n val false) s = .next (doHostintCtlWrite n val false s) := require_of (decide_eq_true hn)
    intro e addr pending
    refine ⟨fun hon hmask hfile => ?legal, fun hon hmask henable hfile hrange => ?illegal,
      fun f hon hmask henable hpend hfile hword hlow hhigh => ?sends, fun hoff => ?disables, fun f hf hlow hhigh => ?file, fun port hport => ⟨fun hmode henable hmask => ?event, fun hmode henable => ?discarded,
      fun hmode => ?endpoint⟩⟩
    case legal =>
      rw [hexec, doHostintCtlWrite_masks hmask, hon, hfile]
      simp [e]
    case illegal =>
      rw [hexec, doHostintCtlWrite_masks hmask, hon, hfile, hrange, henable]
      simp [e]
    case sends =>
      refine .of_eq hexec ?_
      rw [doHostintCtlWrite_sends hon hmask henable hpend]
      unfold sendMsi
      rw [State.setHint_hint]
      obtain ⟨hident, hhostint, hout⟩ := msiWrite_file (s := (s.setHint n { e with mask := false, pend := false }).send (.msi addr e.data))
        hfile hword hlow hhigh
      refine ⟨?_, hout, hident⟩
      rw [State.hint, hhostint]
      exact State.setHint_hint ..
    case disables => rw [hexec, doHostintCtlWrite_disables hoff]
    case file =>
      have haddr : decide (0x400004000000 + 0x1000 * f < Config.physEnd) = true := decide_eq_true (by simp only [Config.physEnd]; omega)
      refine .of_eq (require_of haddr) ?_
      unfold doSeteipnumWrite
      rw [imsicFile_page hf]
      dsimp only
      rw [if_pos (by omega), setIdentity_imsic hlow hhigh]
      exact ⟨Tab.get_set_self .., rfl, rfl⟩
    all_goals
      have hraised : exec (.pciePortEvent port) s = .next (doPciePortEvent port s) := require_of (decide_eq_true hport)
      rw [hraised, doPciePortEvent]
    case event => rw [if_pos hmode, raiseHost_masked henable hmask]
    case discarded => rw [if_pos hmode, raiseHost_disabled _ _ henable]
    case endpoint => rw [if_neg hmode]
  case up =>
    have hup : ¬ ((!true) = true ∨ Config.pciePorts ≤ (addr - 0x500000000000) / 2 ^ 40) := by
      rintro (hnot | habsent)
      · exact Bool.false_ne_true hnot
      · exact absurd hport (Nat.not_lt.mpr habsent)
    rw [pcieWindowAccess_core hhart hlow hhigh haligned hsize]
    exact congrArg Host.Outcome.next (if_neg hup)
  case down =>
    rw [pcieWindowAccess_core hhart hlow hhigh haligned hsize, doPcieWindowAccess_down hdown, if_neg Bool.false_ne_true]
  case hostint =>
    rw [pcieWindowAccess_hostint hhart hlow hhigh haligned hword, doPcieWindowAccess_down hdown, if_pos rfl]

end Sys2Proof.Machine
end

section
/-!
PROOFS. Bundle pairs of the die links: DIE_LINK_RETRAIN and the interrupt that its acceptance raises (R272, R338, R342).
-/

namespace Sys2Proof.Machine
open Sys2Proof

/-! ### DIE_LINK_RETRAIN (R272) -/

/-- A picked-up DIE_LINK_RETRAIN whose IRQ is set (R331, R342). -/
def irqRetrain : Picked :=
  { opcode := 0x0502, tag := 0, irq := true, ind := false, plen := 0, rptr := 0, rlen := 0, seq := 1 }

/-- A node whose first slot of client 2 holds that command, with an I3C target that may signal (R343). -/
def irqRetrainState : State :=
  { belul := { slots := [(slotKey 2 0, { busy := true, lastSeq := 1, picked := some irqRetrain })] },
    i3c := { addr := some 8, ibi := true } }

/-- The ACCEPTED reply of a command of client 2 with IRQ set sends an in-band interrupt where the I3C target may signal (R338, R342, R343). -/
theorem acceptLong_ibi {s : State} {n : Nat} {p : Picked} (hirq : p.irq = true) (hibi : s.i3c.ibi = true) (haddr : s.i3c.addr.isSome = true)
    (punit total : Nat) (left : List Nat) : (acceptLong s 2 n p punit total left).out = .ibi (0xA0 + n) :: s.out := by
  unfold acceptLong
  simp [hirq, replyIrq, putReply, hibi, haddr]

/-- DIE_LINK_RETRAIN of an idle pair is accepted, and the pair's training is left to the boundary (R272). -/
theorem dieLinkRetrain_idle {r : Req} {p : Picked} {l n : Nat} {s : State} (h : Ready r 0x0502 p s) (hpair : wfPair l n = true)
    (hidle : (s.pair l n).op = none) : exec (.dieLinkRetrain r l n) s = .next ((acceptLong s r.client r.slot p 7 6 []).modPair l n fun x =>
      { x with retrainPend := true, op := some (handleOf r.client r.slot p.seq) }) := by
  obtain ⟨hl, hn⟩ : l < Config.links ∧ n < Config.pairs l := by simpa only [wfPair, Bool.and_eq_true, decide_eq_true_eq] using hpair
  have hl16 : l < 2 ^ 16 := Nat.lt_trans hl (by decide)
  have hn16 : n < 2 ^ 16 := by
    unfold Config.pairs at hn
    split at hn <;> omega
  refine (require_of ?_).trans (congrArg Host.Outcome.next (command_ready h (firstBad_none.mpr ?_)))
  · rw [okReq_eq, h.1, decide_eq_true hl16, decide_eq_true hn16]
    rfl
  · simp [badLink, hl, hn, hidle]

/-- Refutes O38: the ACCEPTED reply of DIE_LINK_RETRAIN raises the interrupt that the command asks for (R342, R343). Client 2, whose command has
IRQ set, gets an in-band interrupt, so what the node has sent does not stay as it was. -/
theorem not_dieLinks : ¬ Obligations.DieLinks := by
  unfold Obligations.DieLinks
  rintro ⟨-, hcommands⟩
  have hready : Ready ⟨2, 0, false, false⟩ 0x0502 irqRetrain irqRetrainState := by decide
  have hpair : wfPair 4 7 = true := rfl
  have hidle : (irqRetrainState.pair 4 7).op = none := rfl
  obtain ⟨u, hexec, -, -, hout⟩ := (hcommands _ _ 4 7 _ hpair rfl).1 hready hidle
  rw [dieLinkRetrain_idle hready hpair hidle] at hexec
  obtain rfl := Host.Outcome.next.inj hexec
  rw [State.modPair_out, acceptLong_ibi rfl rfl rfl] at hout
  exact absurd hout (List.cons_ne_self _ _)

end Sys2Proof.Machine
end

section
/-!
PROOFS. What leaves DIERST and a home arbiter alone (R380, R381): every operation on the stacks and the piers, and the other home arbiters. Such an
operation may append records to the record store (R378), so a mask of its parts does not say it.
-/

namespace Sys2Proof.Machine
open Sys2Proof

/-- State `t` has the DIERST of `s` and the home arbiter of abutment die `a` as it stands there. -/
def Aside (a : Nat) (s t : State) : Prop := t.boot.dierst = s.boot.dierst ∧ t.arb a = s.arb a

variable {a : Nat}

/-! ### How the relation composes -/

theorem Aside.refl (s : State) : Aside a s s := ⟨rfl, rfl⟩

theorem Aside.next {s t u : State} (h : Aside a s t) (g : Aside a t u) : Aside a s u :=
  ⟨g.1.trans h.1, g.2.trans h.2⟩

/-- A mask without the arbiters and boot leaves both alone. -/
theorem Le.aside {m : Nat} {s t : State} (h : Le m s t) (hm : m &&& partMask [.arbs, .boot] = 0) : Aside a s t := by
  have hbit : ∀ i, (partMask [.arbs, .boot]).testBit i = true → m.testBit i = false := by
    intro i hi
    have hand := congrArg (·.testBit i) hm
    simpa [Nat.testBit_and, hi] using hand
  have hboot : t.boot = s.boot := h.same .boot (hbit _ (by decide))
  exact ⟨by rw [hboot], h.arb (hbit _ (by decide)) a⟩

/-- An operation that touches neither the arbiters nor boot, after others. -/
theorem Aside.le {m : Nat} {s t u : State} (h : Aside a s t) (g : Le m t u) (hm : m &&& partMask [.arbs, .boot] = 0) : Aside a s u :=
  h.next (g.aside hm)

theorem Aside.ite {s t u : State} {c : Prop} [Decidable c] (ht : Aside a s t) (hu : Aside a s u) : Aside a s (if c then t else u) := by
  split
  · exact ht
  · exact hu

/-- Elements that each leave both alone. -/
theorem Aside.forEach {α : Type} {s t : State} {f : α → State → State} {l : List α} (h : Aside a s t)
    (hf : ∀ x u, Aside a u (f x u)) : Aside a s (Machine.forEach l f t) :=
  forEach_keeps h fun x _ u hu => hu.next (hf x u)

/-! ### Records and events (R378, R398) -/

theorem addRec_aside (s : State) (kind key : Nat) (data : List Nat) : Aside a s (addRec s kind key data) := ⟨rfl, rfl⟩

theorem logStored_aside (s : State) (code cls die : Nat) (data : List Nat) (kind key : Nat) :
    Aside a s (logStored s code cls die data kind key) :=
  (addRec_aside ..).le (logEvent_le ..) rfl

theorem dieDegraded_aside (s : State) (die link : Nat) : Aside a s (dieDegraded s die link) := by
  have hmark : Aside a s (if s.degraded.contains die then s else { s with degraded := s.degraded ++ [die] }) :=
    Aside.ite (Aside.refl s) ⟨rfl, rfl⟩
  exact (hmark.next (addRec_aside ..)).le (logEvent_le ..) rfl

/-! ### The stacks and the piers -/

theorem modPool_aside (s : State) (f : Pool → Pool) : Aside a s (s.modPool f) := ⟨rfl, rfl⟩

theorem uncorrectable_aside (s : State) (cw : Nat) : Aside a s (uncorrectable s cw) := by
  unfold uncorrectable
  extract_lets l s₁ s₂
  have h₂ : Aside a s s₂ := (modPool_aside ..).le (State.modChan_le ..) rfl
  exact (h₂.next (logStored_aside ..)).le (queueRepair_le ..) rfl

theorem stackRead_aside (s : State) (cw : Nat) (inner : Bool) : Aside a s (stackRead s cw inner).1 := by
  unfold stackRead
  extract_lets s₁
  have h₁ : Aside a s s₁ := (countMoved_le ..).aside rfl
  split
  · exact Aside.ite (h₁.le (innerCorrected_le ..) rfl) h₁
  · exact h₁.le (outerCorrected_le ..) rfl
  · exact h₁.next (uncorrectable_aside ..)

theorem ctrlRead_aside (s : State) (cw : Nat) (inner : Bool) : Aside a s (ctrlRead s cw inner).1 := by
  unfold ctrlRead
  split
  · exact Aside.refl s
  · split
    · exact Aside.refl s
    · exact stackRead_aside ..

theorem fillValue_aside (s : State) (cw : Nat) (inner : Bool) : Aside a s (fillValue s cw inner).1 := ctrlRead_aside ..

theorem ctrlWrite_aside (s : State) (cw : Nat) (mask : BitVec 64) (data : BitVec 512) : Aside a s (ctrlWrite s cw mask data).1 := by
  unfold ctrlWrite
  split
  · exact Aside.refl s
  · split
    · exact Aside.refl s
    · extract_lets ch s₁
      have h₁ : Aside a s s₁ := Aside.ite (Aside.refl s) ((bump_le ..).aside rfl)
      have hput : ∀ {u : State} (d : BitVec 512), Aside a s u → Aside a s (countMoved (u.modPool fun p => p.put cw d false) ch 1 64) :=
        fun d hu => (hu.next (modPool_aside ..)).le (countMoved_le ..) rfl
      split
      · exact h₁.le (State.modChan_le ..) rfl
      · split
        · exact hput _ h₁
        · have hread : Aside a s (stackRead s₁.takeFree cw s₁.indicates).1 := (h₁.le (State.takeFree_le _) rfl).next (stackRead_aside ..)
          dsimp only
          split
          · exact hread
          · exact hput _ hread

theorem latchFills_aside (s : State) (p cw : Nat) : Aside a s (latchFills s p cw) := by
  unfold latchFills
  dsimp only
  exact Aside.ite ((((State.takeFree_le s).aside rfl).next (fillValue_aside ..)).le (State.modPier_le ..) rfl) (Aside.refl s)

theorem drainEntry_aside (s : State) (p : Nat) (m : Merge) : Aside a s (drainEntry s p m) := by
  unfold drainEntry
  refine Aside.forEach ((State.modPier_le ..).aside rfl) fun h u => ?_
  dsimp only
  exact Aside.ite (Aside.refl u) (((bump_le ..).aside rfl).next (ctrlWrite_aside ..))

theorem drainLine_aside (s : State) (p line : Nat) : Aside a s (drainLine s p line) := by
  unfold drainLine
  split
  · exact drainEntry_aside ..
  · exact Aside.refl s

theorem drainFull_aside (n : Nat) (s : State) (p : Nat) : Aside a s (drainFull n s p) := by
  induction n generalizing s with
  | zero => exact Aside.refl s
  | succ n ih =>
    unfold drainFull
    split
    · exact Aside.ite ((drainEntry_aside ..).next (ih _)) (Aside.refl s)
    · exact Aside.refl s

theorem pierStore_aside (s : State) (line : Nat) (mask : BitVec 128) (data : BitVec 1024) : Aside a s (pierStore s line mask data) := by
  unfold pierStore
  extract_lets p m
  split
  case isTrue => exact Aside.refl s
  case isFalse s₁ s₂ P merges Q s₃ s₄ _ =>
    have h₂ : Aside a s s₂ := (((latchFills_aside ..).next (latchFills_aside ..)).le (State.takeFree_le _) rfl).le (bump_le ..) rfl
    have h₃ : Aside a s s₃ := h₂.le (State.setPier_le ..) rfl
    have h₄ : Aside a s s₄ := by
      unfold s₄
      split
      · exact Aside.ite (h₃.next (drainEntry_aside ..)) h₃
      · exact h₃
    exact h₄.next (drainFull_aside ..)

theorem pierGet_aside (s : State) (cw : Nat) (sectors : BitVec 4) : Aside a s (pierGet s cw sectors).1 := by
  unfold pierGet
  split
  · exact Aside.refl s
  · extract_lets p line s₁ s₂ s₃
    have h₁ : Aside a s s₁ := (touchLine_le ..).aside rfl
    have h₂ : Aside a s s₂ := h₁.le (bump_le ..) rfl
    have h₃ : Aside a s s₃ := Aside.ite (h₂.le (allocLine_le ..) rfl) h₂
    split
    · exact h₁.le (bump_le ..) rfl
    · split
      · exact ((h₂.le (State.takeFree_le _) rfl).le (bump_le ..) rfl).next (fillValue_aside ..)
      · have hfill : Aside a s (fillValue s₃.takeFree cw s₃.indicates).1 := (h₃.le (State.takeFree_le _) rfl).next (fillValue_aside ..)
        exact (hfill.le (fillCw_le _ p cw _ _) rfl).le (prefetchNext_le _ p line) rfl

theorem adderLoad_aside (s : State) (cw : Nat) : Aside a s (adderLoad s cw).1 := by
  unfold adderLoad
  have hread : Aside a s (stackRead s.takeFree cw s.indicates).1 := ((State.takeFree_le s).aside rfl).next (stackRead_aside ..)
  split
  · exact Aside.refl s
  · dsimp only
    split
    · exact hread
    · dsimp only
      refine Aside.le ?_ (State.modChan_le _ _ _) rfl
      split
      · exact hread.le (adderEvict_le ..) rfl
      · exact hread

theorem adderForward_aside (s : State) (addr n : Nat) : Aside a s (adderForward s addr n) :=
  ((latchFills_aside ..).next (drainLine_aside ..)).le (State.modPier_le ..) rfl

theorem adderApply_aside (s : State) (addr : Nat) (op : BitVec 8) (v cmp : Nat) : Aside a s (adderApply s addr op v cmp).1 := by
  unfold adderApply
  dsimp only
  have hload : Aside a s (adderLoad (adderForward s addr (aSize (aType op))) (addr / 64)).1 :=
    (adderForward_aside ..).next (adderLoad_aside ..)
  split
  · exact Aside.refl s
  · split
    · exact hload
    · split
      · exact hload
      · exact (hload.le (State.modChan_le ..) rfl).le (bump_le ..) rfl

theorem storePoison_aside (s : State) (cw : Nat) : Aside a s (storePoison s cw) := by
  unfold storePoison
  exact ((((State.modChan_le ..).aside rfl).next (latchFills_aside ..)).le (State.modPier_le ..) rfl).next (modPool_aside ..)

theorem writeBackLine_aside (s : State) (line : Nat) (data : BitVec 512) (poison : Bool) :
    Aside a s (writeBackLine s line data poison) :=
  Aside.ite (Aside.refl s) (Aside.ite (Aside.ite (storePoison_aside ..) (Aside.refl s)) (pierStore_aside ..))

/-! ### The other arbiters (R245, R246, R250) -/

theorem sendData_aside (s : State) (cl line : Nat) : Aside a s (sendData s cl line) :=
  (pierGet_aside ..).le (sendCoh_le ..) rfl

theorem tileAccess_aside (s : State) (r : CReq) : Aside a s (tileAccess s r) := by
  unfold tileAccess
  split
  · exact (pierGet_aside ..).le (State.send_le ..) rfl
  · dsimp only
    exact Aside.ite (pierStore_aside ..) ((pierStore_aside ..).le (State.send_le ..) rfl)
  · exact (adderApply_aside ..).le (State.send_le ..) rfl

section Other
variable {b : Nat} (hb : a ≠ b)
include hb

theorem modArb_aside (s : State) (f : Arb → Arb) : Aside a s (s.modArb b f) := ⟨rfl, State.setArb_arb_ne _ _ _ _ hb⟩

theorem acceptReq_aside (s : State) (r : CReq) : Aside a s (acceptReq s b r) := by
  unfold acceptReq
  dsimp only
  have hcount : Aside a s (bump s (unitCtr (homearbBase b) (if 2 ≤ r.kind then 3 else 0)) 1) := (bump_le ..).aside rfl
  have hmod : ∀ f, Aside a s ((bump s (unitCtr (homearbBase b) (if 2 ≤ r.kind then 3 else 0)) 1).modArb b f) :=
    fun f => hcount.next (modArb_aside hb _ f)
  have hopen : ∀ {u : State} (t : Trans), Aside a s u → Aside a s (openTrans u b t) := fun t hu => hu.next (modArb_aside hb _ _)
  split
  · exact hopen _ ((hmod _).le (sendFwd_le ..) rfl)
  · exact hopen _ ((hmod _).next (sendData_aside ..))
  · exact hopen _ ((hmod _).le (sendFwd_le ..) rfl)
  · have hinvs := fun u l => ((hmod u).le (sendInvs_le _ b r.line l) rfl)
    exact hopen _ (Aside.ite ((hinvs _ _).next (sendData_aside ..)) (hinvs _ _))
  · exact hopen _ ((hmod _).le (sendFwd_le ..) rfl)
  · exact hcount.next (tileAccess_aside ..)
  · exact hopen _ ((hmod _).le (sendFwd_le ..) rfl)
  · exact Aside.ite ((hmod _).next (tileAccess_aside ..)) (hopen _ ((hmod _).le (sendInvs_le ..) rfl))

theorem startEvict_aside (s : State) (e : DirEntry) (r : CReq) : Aside a s (startEvict s b e r) := by
  unfold startEvict
  extract_lets s₁ q
  have h₁ : Aside a s s₁ := modArb_aside hb ..
  split
  · exact (h₁.le (sendFwd_le ..) rfl).next (modArb_aside hb ..)
  · exact (h₁.le (sendInvs_le ..) rfl).next (modArb_aside hb ..)

theorem serveHeld_aside (n : Nat) (s : State) : Aside a s (serveHeld n s b) := by
  induction n generalizing s with
  | zero => exact Aside.refl s
  | succ n ih =>
    unfold serveHeld
    dsimp only
    split
    · refine Aside.next ?_ (ih _)
      split
      · exact (modArb_aside hb ..).next (startEvict_aside hb ..)
      · exact (modArb_aside hb ..).next (acceptReq_aside hb ..)
    · split
      · exact Aside.refl s
      · exact Aside.ite (Aside.refl s) ((modArb_aside hb ..).next (ih _))

theorem tryClose_aside (s : State) (line : Nat) : Aside a s (tryClose s b line) := by
  unfold tryClose
  split
  · exact Aside.refl s
  · dsimp only
    refine Aside.ite (Aside.refl s) (Aside.next ?_ (serveHeld_aside hb ..))
    exact Aside.ite ((modArb_aside hb ..).next (tileAccess_aside ..)) (modArb_aside hb ..)

end Other

end Sys2Proof.Machine
end

section
/-!
PROOFS. The reset of an abutment die (R269, R381): its arbiter, its clusters, and the pairs of its link.
-/

namespace Sys2Proof.Machine
open Sys2Proof

variable {a : Nat}

/-! ### The arbiter of a die that has reset (R381) -/

/-- An arbiter that holds nothing has nothing to serve. -/
theorem serveHeld_empty {s : State} (h : s.arb a = {}) (n : Nat) : serveHeld n s a = s := by
  cases n with
  | zero => rfl
  | succ n =>
    unfold serveHeld
    rw [h]
    rfl

/-- Writing what an arbiter holds already leaves it. -/
theorem modArb_aside_of_fixed {s : State} (h : s.arb a = {}) {f : Arb → Arb} (hf : f {} = {}) (b : Nat) : Aside a s (s.modArb b f) := by
  by_cases hb : a = b
  · subst hb
    exact ⟨rfl, by rw [State.modArb_arb, h, hf]⟩
  · exact modArb_aside hb s f

theorem takeInvAck_aside {s : State} (h : s.arb a = {}) (c line : Nat) : Aside a s (takeInvAck s c line) := by
  unfold takeInvAck
  extract_lets b
  split
  · exact Aside.refl s
  case _ t ht =>
    have hb : a ≠ b := fun hab => by rw [← hab, h] at ht; cases ht
    have hnoted : ∀ f, Aside a s (modTrans s b line f) := fun _ => modArb_aside hb s _
    dsimp only
    exact Aside.ite ((Aside.ite ((hnoted _).next (sendData_aside ..)) (hnoted _)).next (tryClose_aside hb ..)) (Aside.refl s)

theorem leaveArb_aside {s : State} (h : s.arb a = {}) (c b : Nat) : Aside a s (leaveArb c b s) := by
  unfold leaveArb
  extract_lets s₁
  have h₁ : Aside a s s₁ := modArb_aside_of_fixed h rfl b
  have hempty : s₁.arb a = {} := h₁.2.trans h
  by_cases hb : a = b
  · subst hb
    rw [hempty]
    exact h₁.next (by rw [serveArb, List.map_nil, forEach_nil, serveHeld_empty hempty]; exact Aside.refl s₁)
  · refine Aside.next ?_ (serveHeld_aside hb ..)
    refine forEach_keeps h₁ fun line _ u hu => ?_
    exact (hu.next (takeInvAck_aside (hu.2.trans h) c line)).next (tryClose_aside hb ..)

/-- A cluster that is lost leaves DIERST, and an arbiter that holds nothing, as they are. -/
theorem loseCluster_aside {s : State} (h : s.arb a = {}) (c : Nat) : Aside a s (loseCluster c s) := by
  unfold loseCluster
  extract_lets s₁
  have h₁ : Aside a s s₁ := ⟨rfl, rfl⟩
  refine forEach_keeps h₁ fun b _ u hu => ?_
  have hmod := modArb_aside_of_fixed (hu.2.trans h)
    (f := fun A => { A with open_ := A.open_.map fun t => if t.downwb = some c then { t with downwb := none } else t }) rfl b
  exact hu.next (hmod.next (leaveArb_aside (hmod.2.trans (hu.2.trans h)) c b))

theorem flushHome_aside (b c : Nat) (s : State) : Aside a s (flushHome b c s) := by
  unfold flushHome
  dsimp only
  exact Aside.le (Aside.forEach (Aside.refl s) fun l u => writeBackLine_aside ..) (State.modCluster_le ..) rfl

/-! ### The clusters of a die that resets (R381) -/

/-- A cluster that is lost keeps only what says whether it has failed; the others stay as they are. -/
theorem loseCluster_cluster (c : Nat) (s : State) (x : Nat) :
    (loseCluster c s).cluster x = if x = c then keptCluster (s.cluster c) else s.cluster x := by
  unfold loseCluster
  extract_lets s₁
  have hframe : ∀ u, Le 755794872 s₁ u → u.cluster x = s₁.cluster x := fun u hu => hu.cluster rfl x
  rw [hframe _ (Le.forEach (Le.refl _ _) fun b u hu => Le.next (leaveArb_le ..) (by decide) (Le.next (State.modArb_le ..) (by decide) hu))]
  split
  case isTrue hx =>
    subst hx
    exact Tab.get_set_self ..
  case isFalse hx => exact Tab.get_set_ne _ _ _ _ _ hx

/-- What a step brings about for its own element, and no other element's step undoes, holds of every element in the end. -/
theorem forEach_establishes {α : Type} {P : α → State → Prop} {f : α → State → State} (hown : ∀ x u, P x (f x u))
    (hother : ∀ x y u, y ≠ x → P x u → P x (f y u)) {l : List α} (s : State) {x : α} (hx : x ∈ l) : P x (forEach l f s) := by
  obtain ⟨before, after, rfl⟩ := List.append_of_mem hx
  rw [forEach_append, forEach_cons]
  refine forEach_keeps (hown x _) fun y _ u hu => ?_
  by_cases hy : y = x
  · rw [hy]
    exact hown x u
  · exact hother x y u hy hu

/-- The clusters of a die that resets are parked, and hold no line. -/
theorem forEach_loseCluster_cluster {l : List Nat} (s : State) {c : Nat} (hc : c ∈ l) :
    ((forEach l loseCluster s).cluster c).parked = true ∧ ((forEach l loseCluster s).cluster c).lines = [] := by
  refine forEach_establishes (P := fun c u => (u.cluster c).parked = true ∧ (u.cluster c).lines = []) (fun c u => ?_)
    (fun c d u hd h => ?_) s hc
  · rw [loseCluster_cluster, if_pos rfl]
    exact ⟨rfl, rfl⟩
  · rwa [loseCluster_cluster, if_neg hd.symm]

/-! ### The pairs of its link (R268, R381) -/

/-- A pair that trains stands in training, and the others of its link stay as they are. -/
theorem trainPair_pair_st (l n : Nat) (s : State) (k : Nat) :
    ((trainPair l n s).pair l k).st = if k = n then 1 else (s.pair l k).st := by
  unfold trainPair pairStep
  extract_lets s₁ s₂
  have hpos : ∀ h : Nat, (setPosition s₂ h 1).pair l k = s₁.pair l k := fun h => by
    rw [State.pair, State.pair, show (setPosition s₂ h 1).pairs = s₂.pairs from (setPosition_le ..).same .pairs rfl]
    rfl
  have hst : (s₁.pair l k).st = if k = n then 1 else (s.pair l k).st := by
    unfold s₁
    split
    case isTrue hk => rw [hk, State.modPair_pair]
    case isFalse hk => rw [State.modPair_pair_ne _ _ _ _ _ _ (by unfold pairKey; omega)]
  split
  · rw [hpos, hst]
  · exact hst

/-- Every pair of the link to a die that resets trains. -/
theorem losePairs_st (d : Nat) (s : State) {n : Nat} (hn : n < Config.pairs (abutLink d)) : ((losePairs d s).pair (abutLink d) n).st = 1 := by
  unfold losePairs
  refine forEach_establishes (P := fun n u => (u.pair (abutLink d) n).st = 1) (fun n u => ?_) (fun n k u hk h => ?_) s
    ((mem_rangeFrom ..).mpr ⟨Nat.zero_le n, by omega⟩)
  · rw [trainPair_pair_st, if_pos rfl]
  · rw [trainPair_pair_st, if_neg hk.symm, State.modPair_pair_ne _ _ _ _ _ _ (by unfold pairKey; omega)]
    exact h

/-! ### ABUTMENT_DIE_RESET (R269, R381) -/

/-- The guard of a die's reset (R380, R381): the module runs, in S0. -/
theorem dieReset_runs {s : State} (hrun : s.boot.st = .running) (hidle : s.power.idle = .s0) :
    ¬ (s.boot.st ≠ .running ∨ (s.power.idle ≠ .s0 ∧ s.power.idle ≠ .s1)) := by
  rintro (h | h)
  · exact h hrun
  · exact h.1 hidle

/-- The event of a die's reset (R269). -/
theorem dieResetEvent_aside {a : Nat} (s : State) (die : Nat) : Aside a s (dieResetEvent s die) :=
  ((State.takeFree_le s).aside rfl).next (logStored_aside ..)

/-- What the reset of an abutment die leaves (R381): its clusters parked and empty, its arbiter without a transaction, a request or an entry, the
pairs of its link in training, its bit of DIERST set, and DIE_READY as the last event. -/
theorem doAbutmentDieReset_leaves {s : State} (hrun : s.boot.st = .running) (hidle : s.power.idle = .s0) (a : Nat) :
    let u := doAbutmentDieReset a true s
    (∀ c ∈ clustersOf a, (u.cluster c).parked = true ∧ (u.cluster c).lines = []) ∧ u.arb a = {} ∧
      (∀ n, n < Config.pairs (abutLink a) → (u.pair (abutLink a) n).st = 1) ∧
      u.boot.dierst = s.boot.dierst ||| BitVec.ofNat 16 (2 ^ (12 + a)) ∧
      (u.events.getLast?.map fun v => (v.code, v.data)) = some (0x0004, [dieAbut a]) := by
  unfold doAbutmentDieReset
  rw [if_neg (dieReset_runs hrun hidle)]
  extract_lets s₁ waiting s₂ s₃ s₄ s₅ s₆ s₇ s₈ s₉ u
  have hcleared : (s₁.setArb a {}).boot.dierst = s.boot.dierst ∧ (s₁.setArb a {}).arb a = {} :=
    ⟨(dieResetEvent_aside (a := a) s _).1, State.setArb_arb ..⟩
  have h₄ : Aside a (s₁.setArb a {}) s₄ :=
    Aside.forEach (Aside.forEach ((Aside.forEach (Aside.refl _) fun r u => (loseRequest_le ..).aside rfl).le (loseReqs_le ..) rfl)
      fun t u => (loseAccesses_le ..).aside rfl) fun c u => flushHome_aside ..
  have h₅ : Aside a (s₁.setArb a {}) s₅ := forEach_keeps h₄ fun c _ v hv => hv.next (loseCluster_aside (hv.2.trans hcleared.2) c)
  have hle₆ : Le (partMask [.imsic, .upper, .ctrs, .pairs, .truss, .belul, .out]) s₅ s₆ := Le.next (Le.imsic_upper s₅ _ _) (by decide) (Le.refl ..)
  have hle₈ : Le _ s₅ s₈ := (hle₆.then (State.modCtrs_le ..) (by decide)).then (losePairs_le a s₇) (by decide)
  have h₈ : Aside a (s₁.setArb a {}) s₈ := h₅.next (hle₈.aside rfl)
  have hlog : Le _ s₉ u := logEvent_le ..
  refine ⟨fun c hc => ?clusters, ?arbiter, fun n hn => ?pairs, ?dierst, logEvent_last ..⟩
  case clusters =>
    rw [hlog.cluster rfl, show s₉.cluster c = s₈.cluster c from rfl, hle₈.cluster rfl]
    exact forEach_loseCluster_cluster s₄ hc
  case arbiter => exact (hlog.arb rfl a).trans (h₈.2.trans hcleared.2)
  case pairs =>
    rw [State.pair, show u.pairs = s₉.pairs from hlog.same .pairs rfl]
    exact losePairs_st a s₇ hn
  case dierst =>
    rw [show u.boot = s₉.boot from hlog.same .boot rfl, ← hcleared.1, ← h₈.1]
    rfl

end Sys2Proof.Machine
end

section
/-!
PROOFS. The reset of a deck die (R380, R417): its tiles, and the move under way on it.
-/

namespace Sys2Proof

/-- What a write leaves in a table is the entry written, or an entry of another key. -/
theorem Tab.mem_set {α : Type} [DecidableEq α] {d v : α} {t : Tab α} {k : Nat} {e : Nat × α} (h : e ∈ Tab.set d t k v) :
    e = (k, v) ∨ e ∈ t ∧ e.1 ≠ k := by
  unfold Tab.set at h
  simp only [List.mem_append, List.mem_filter, decide_eq_true_eq] at h
  rcases h with (⟨hmem, hlt⟩ | hnew) | ⟨hmem, hgt⟩
  · exact .inr ⟨hmem, by omega⟩
  · split at hnew
    · cases hnew
    · exact .inl (List.mem_singleton.mp hnew)
  · exact .inr ⟨hmem, by omega⟩

/-- What holds of the default, and of every entry of a key, holds of what is read at the key. -/
theorem Tab.get_of_entries {α : Type} {d : α} {P : α → Prop} {t : Tab α} {k : Nat} (hd : P d) (h : ∀ e ∈ t, e.1 = k → P e.2) : P (Tab.get d t k) := by
  induction t with
  | nil => exact hd
  | cons e r ih =>
    rw [Tab.get]
    split
    case isTrue hk => exact h e (List.mem_cons_self ..) hk
    case isFalse => exact ih fun e he => h e (List.mem_cons_of_mem _ he)

end Sys2Proof

namespace Sys2Proof.Machine
open Sys2Proof

/-! ### What the loss of a tile reaches (R380) -/

/-- The parts that the loss of a tile may change. -/
def lossMask : Nat := partMask [.tiles, .ks, .hostint, .imsic, .belul, .ctrs, .talcy, .out, .free, .truss]

/-- A tile counted as done changes nothing but the Belul interface and what an interrupt changes (R338). -/
theorem tileDone_fits_le (opcode t : Nat) (s : State) : Le 738755328 s (tileDone opcode t s) := by
  unfold tileDone
  refine Le.forEach (Le.refl _ _) fun o u hu => ?_
  extract_lets left u₁ u₂
  have h₂ : Le 738755328 s u₂ := (hu.then (State.modBelul_le ..) (by decide)).then (setPosition_le ..) (by decide)
  exact Le.ite (fun _ => h₂.then (finishOp_fits_le u₂ o.handle bsCompleted (d := []) (by decide)) (by decide)) fun _ => h₂

theorem dropTile_fits_le (t : Nat) (s : State) : Le lossMask s (dropTile t s) := by
  unfold dropTile
  extract_lets s₁ s₂
  have h₁ : Le lossMask s s₁ := by
    unfold s₁
    split
    case h_1 l _ =>
      unfold loadError
      extract_lets v₁ v₂
      have hv₁ : Le lossMask s v₁ := by
        have hfree : Le lossMask s s.takeFree := Le.next (State.takeFree_le s) (by decide) (Le.refl ..)
        unfold v₁
        split
        · exact hfree.then (setPosition_le ..) (by decide)
        · exact hfree
      have hv₂ : Le lossMask s v₂ := Le.forEach hv₁ fun x u hu => hu.then (stopLoad_le ..) (by decide)
      exact hv₂.then (finishOp_fits_le _ _ _ (by simp [dataLen])) (by decide)
    case h_2 => exact Le.refl ..
  have h₂ : Le lossMask s s₂ := Le.forEach h₁ fun op u hu => hu.then (tileDone_fits_le ..) (by decide)
  exact (h₂.then (resetTile_le ..) (by decide)).then (State.modTile_le ..) (by decide)

/-! ### Operations on one tile -/

/-- State `u` differs from `s` in no tile but tile `t`: the others read as before, and no entry of theirs is new. -/
def OnlyTile (t : Nat) (s u : State) : Prop :=
  (∀ x, x ≠ t → u.tile x = s.tile x) ∧ ∀ e ∈ u.tiles, e.1 ≠ t → e ∈ s.tiles

section Tile
variable {t : Nat}

theorem OnlyTile.refl (s : State) : OnlyTile t s s := ⟨fun _ _ => rfl, fun _ he _ => he⟩

theorem OnlyTile.next {s u v : State} (h : OnlyTile t s u) (g : OnlyTile t u v) : OnlyTile t s v :=
  ⟨fun x hx => (g.1 x hx).trans (h.1 x hx), fun e he hne => h.2 e (g.2 e he hne) hne⟩

/-- An operation that touches no tile. -/
theorem Le.onlyTile {m : Nat} {s u : State} (h : Le m s u) (hm : m.testBit 0 = false) : OnlyTile t s u :=
  ⟨fun x _ => h.tile hm x, fun e he _ => by rwa [show u.tiles = s.tiles from h.same .tiles hm] at he⟩

theorem OnlyTile.le {m : Nat} {s u v : State} (h : OnlyTile t s u) (g : Le m u v) (hm : m.testBit 0 = false) : OnlyTile t s v :=
  h.next (g.onlyTile hm)

theorem modTile_onlyTile (s : State) (f : Tile → Tile) : OnlyTile t s (s.modTile t f) :=
  ⟨fun _ hx => State.modTile_tile_ne _ _ _ _ hx, fun _ he hne => (Tab.mem_set he).elim (fun h => absurd (congrArg Prod.fst h) hne) And.left⟩

theorem setQueue_onlyTile (s : State) (q : Nat) (v : Queue) : OnlyTile t s (s.setQueue t q v) := modTile_onlyTile ..

theorem withdrawFault_onlyTile (s : State) (q : Nat) : OnlyTile t s (withdrawFault s t q) := by
  unfold withdrawFault
  extract_lets Q s₁
  have h₁ : OnlyTile t s s₁ := by
    unfold s₁
    split
    · split
      · exact (State.modKs_le _ _ id).onlyTile rfl
      · exact OnlyTile.refl s
    · exact OnlyTile.refl s
  exact h₁.next (setQueue_onlyTile ..)

theorem releaseLeases_onlyTile (s : State) (q : Nat) (p : Lease → Bool) : OnlyTile t s (releaseLeases s t q p) := by
  unfold releaseLeases
  extract_lets gone s₁
  refine forEach_keeps (setQueue_onlyTile s q _) fun l _ u hu => ?_
  exact (hu.le (traceLease_le ..) rfl).le (invPositions_le ..) rfl

/-- The reset of a tile is its own (R49). -/
theorem resetTile_onlyTile (s : State) : OnlyTile t s (resetTile t s) := by
  unfold resetTile
  extract_lets s₁ s₂
  have h₁ : OnlyTile t s s₁ :=
    forEach_keeps (OnlyTile.refl s) fun q _ u hu => (hu.next (withdrawFault_onlyTile ..)).next (releaseLeases_onlyTile ..)
  exact (h₁.le (resetTileCtrs_le ..) rfl).next (modTile_onlyTile ..)

theorem stopLoad_onlyTile (s : State) : OnlyTile t s (stopLoad t s) := by
  unfold stopLoad
  split
  · exact modTile_onlyTile ..
  · unfold endLoad dropLoadLeases
    refine OnlyTile.next ?_ (modTile_onlyTile ..)
    split
    · exact OnlyTile.refl s
    · exact (modTile_onlyTile ..).le (invPositions_le ..) rfl

/-- A tile that has no load under way is lost alone (R380). -/
theorem dropTile_onlyTile {s : State} (h : (s.tile t).load = none) : OnlyTile t s (dropTile t s) := by
  unfold dropTile
  rw [h]
  extract_lets s₁ s₂
  have h₂ : OnlyTile t s s₂ := forEach_keeps (OnlyTile.refl s) fun op _ u hu => hu.le (tileDone_fits_le op t u) rfl
  exact (h₂.next (resetTile_onlyTile ..)).next (modTile_onlyTile ..)

/-! ### Tiles that are lost -/

/-- Every entry of tile `t` is one of a lost tile: it reads RESET or UNAVAILABLE, and loads nothing (R380). -/
def Lost (t : Nat) (s : State) : Prop := ∀ e ∈ s.tiles, e.1 = t → e.2.load = none ∧ (e.2.st = .reset ∨ e.2.st = .unavailable)

theorem Lost.st {s : State} (h : Lost t s) : (s.tile t).st = .reset ∨ (s.tile t).st = .unavailable :=
  Tab.get_of_entries (P := fun T : Tile => T.st = .reset ∨ T.st = .unavailable) (.inl rfl) fun e he ht => (h e he ht).2

/-- An operation on another tile leaves a lost tile lost. -/
theorem Lost.of_onlyTile {x : Nat} {s u : State} (h : Lost x s) (g : OnlyTile t s u) (hx : x ≠ t) : Lost x u :=
  fun e he hex => h e (g.2 e he (hex ▸ hx)) hex

/-- A lost tile takes no part in a load. -/
theorem Lost.not_mem_loadingTiles {s : State} (h : Lost t s) (handle : Nat) : t ∉ loadingTiles s handle := by
  unfold loadingTiles
  rintro hmem
  obtain ⟨e, he, rfl⟩ := List.mem_map.mp hmem
  obtain ⟨he, hload⟩ := List.mem_filter.mp he
  rw [(h e he rfl).1] at hload
  cases hload

theorem Lost.of_tiles {s u : State} (h : Lost t s) (htiles : u.tiles = s.tiles) : Lost t u :=
  fun e he => h e (htiles ▸ he)

/-- A load that ends with an error leaves a lost tile lost. -/
theorem Lost.loadError {s : State} (h : Lost t s) (y : Nat) (l : LoadRun) (e : Nat × Nat × Nat) : Lost t (loadError s y l e) := by
  unfold Machine.loadError
  extract_lets s₁ s₂
  have h₁ : Lost t s₁ := by
    unfold s₁
    split
    · exact h.of_tiles ((setPosition_le ..).same .tiles rfl)
    · exact h
  have h₂ : Lost t s₂ := forEach_keeps h₁ fun x hx u hu =>
    hu.of_onlyTile (stopLoad_onlyTile u) fun heq => h₁.not_mem_loadingTiles _ (heq ▸ hx)
  exact h₂.of_tiles ((finishOp_le ..).same .tiles rfl)

/-- A tile replaced by one that loads nothing and reads RESET or UNAVAILABLE is lost. -/
theorem modTile_lost {s : State} {f : Tile → Tile} (hload : (f (s.tile t)).load = none)
    (hst : ∀ T, (f T).st = .reset ∨ (f T).st = .unavailable) : Lost t (s.modTile t f) := by
  intro e he het
  rcases Tab.mem_set he with rfl | ⟨-, hne⟩
  · exact ⟨hload, hst _⟩
  · exact absurd het hne

/-- The state of a tile of a die that resets, by whether it has a site (R18, R380). -/
theorem lostState_cases (lost : Bool) : (if lost then TileSt.unavailable else .reset) = .reset ∨ (if lost then TileSt.unavailable else .reset) = .unavailable := by
  cases lost
  · exact .inl rfl
  · exact .inr rfl

/-- A tile of a die that resets is lost (R380). -/
theorem dropTile_lost (s : State) : Lost t (dropTile t s) := by
  unfold dropTile
  refine modTile_lost ?_ ?_
  · unfold resetTile
    dsimp only
    rw [State.modTile_tile]
  · exact fun T => lostState_cases T.lost

/-- The loss of a tile leaves the others lost that were. -/
theorem Lost.dropTile {x : Nat} {s : State} (h : Lost x s) (hx : x ≠ t) : Lost x (dropTile t s) := by
  unfold Machine.dropTile
  extract_lets s₁ s₂
  have h₁ : Lost x s₁ := by
    unfold s₁
    split
    · exact (h.of_tiles (u := s.takeFree) rfl).loadError _ _ _
    · exact h
  have h₂ : Lost x s₂ := forEach_keeps h₁ fun op _ u hu => hu.of_tiles ((tileDone_fits_le op t u).same .tiles rfl)
  exact h₂.of_onlyTile ((resetTile_onlyTile ..).next (modTile_onlyTile ..)) hx

theorem forEach_dropTile_lost {l : List Nat} (s : State) (ht : t ∈ l) : Lost t (forEach l dropTile s) :=
  forEach_establishes (P := Lost) (fun _ u => dropTile_lost u) (fun _ _ _ hy h => h.dropTile hy.symm) s ht

theorem forEach_dropTile_le (l : List Nat) (s : State) : Le lossMask s (forEach l dropTile s) :=
  Le.forEach (Le.refl ..) fun t _ hu => hu.then (dropTile_fits_le t _) (by decide)

/-- Where no tile loads, the loss of some tiles leaves the others as they are (R380). -/
theorem forEach_dropTile_tile {l : List Nat} {s : State} (hload : ∀ t, (s.tile t).load = none) {x : Nat} (hx : x ∉ l) :
    (forEach l dropTile s).tile x = s.tile x := by
  refine (forEach_keeps (P := fun u => u.tile x = s.tile x ∧ ∀ t, (u.tile t).load = none) ⟨rfl, hload⟩ fun y hy u hu => ?_).1
  obtain ⟨hsame, hnone⟩ := hu
  have honly : OnlyTile y u (dropTile y u) := dropTile_onlyTile (hnone y)
  refine ⟨(honly.1 x fun h => hx (h ▸ hy)).trans hsame, fun t => ?_⟩
  by_cases ht : t = y
  · unfold dropTile resetTile
    rw [ht]
    dsimp only
    rw [State.modTile_tile, State.modTile_tile]
  · rw [honly.1 t ht]
    exact hnone t

end Tile

/-! ### A need that is queued (R411, R413, R418) -/

/-- Deferring a need leaves the queue and the moves under way as they are. -/
theorem deferNeed_wear (n : Need) (s : State) :
    (deferNeed n s).wear.queue = s.wear.queue ∧ (deferNeed n s).wear.moving = s.wear.moving := by
  unfold deferNeed
  split
  · exact ⟨rfl, rfl⟩
  · rw [logEvent_wear]
    exact ⟨rfl, rfl⟩

theorem unmetNeed_moving (s : State) (n : Need) : (unmetNeed s n).wear.moving = s.wear.moving := by
  unfold unmetNeed
  split
  · split
    · rw [show (loseTile s n.res).wear = s.wear from (loseTile_le ..).same .wear rfl]
    · rfl
  · split
    · rfl
    · dsimp only
      rw [logStored, logEvent_wear, addRec_wear]
      rfl

/-- A queued need starts and ends no move. -/
theorem queueNeed_moving (s : State) (n : Need) : (queueNeed s n).wear.moving = s.wear.moving := by
  unfold queueNeed
  split
  · rfl
  · split
    · exact unmetNeed_moving s n
    · rw [(deferNeed_wear ..).2]
      rfl

/-- A need that is not queued yet, and for which a spare is left, is queued. -/
theorem mem_queueNeed {s : State} {n : Need} (hnew : s.wear.queue.any (sameNeed n) = false) (hspare : s.sparesLeft n.kind n.scope ≠ 0) :
    n ∈ (queueNeed s n).wear.queue := by
  unfold queueNeed
  rw [hnew, if_neg Bool.false_ne_true, if_neg fun h => hspare h.1, (deferNeed_wear ..).1]
  exact List.mem_append_right _ (List.mem_singleton_self n)

theorem loseTile_aside {a : Nat} (s : State) (t : Nat) : Aside a s (loseTile s t) := by
  unfold loseTile
  exact (((State.modTile_le ..).aside rfl).next (addRec_aside ..)).le (logEvent_le ..) rfl

theorem unmetNeed_aside {a : Nat} (s : State) (n : Need) : Aside a s (unmetNeed s n) := by
  unfold unmetNeed
  split
  · exact Aside.ite (loseTile_aside ..) (Aside.refl s)
  · exact Aside.ite (Aside.refl s) (((State.modWear_le ..).aside rfl).next (logStored_aside ..))

theorem queueNeed_aside {a : Nat} (s : State) (n : Need) : Aside a s (queueNeed s n) := by
  unfold queueNeed
  exact Aside.ite ((State.modWear_le ..).aside rfl)
    (Aside.ite (unmetNeed_aside ..) (((State.modWear_le ..).aside rfl).le (deferNeed_le ..) rfl))

theorem loseTile_st (s : State) (t x : Nat) : ((loseTile s t).tile x).st = (s.tile x).st ∨ ((loseTile s t).tile x).st = .unavailable := by
  unfold loseTile
  extract_lets s₁
  rw [(logEvent_le ..).tile rfl, (addRec_le ..).tile rfl]
  by_cases hx : x = t
  · right
    rw [hx, State.modTile_tile]
  · left
    rw [State.modTile_tile_ne _ _ _ _ hx]

/-- A queued need leaves a tile's state, or takes the tile out of service (R418). -/
theorem queueNeed_st (s : State) (n : Need) (x : Nat) :
    ((queueNeed s n).tile x).st = (s.tile x).st ∨ ((queueNeed s n).tile x).st = .unavailable := by
  unfold queueNeed
  split
  · exact .inl rfl
  · split
    · unfold unmetNeed
      split
      · split
        · exact loseTile_st ..
        · exact .inl rfl
      · split
        · exact .inl rfl
        · rw [(logStored_le ..).tile rfl]
          exact .inl rfl
    · rw [(deferNeed_le ..).tile rfl]
      exact .inl rfl

/-! ### DECK_DIE_RESET (R380, R417) -/

/-- A deck die's reset before its tiles are lost: its event, and the remote requests and messages of its tiles dropped. -/
def deckHit (n : Nat) (s : State) : State :=
  let s := dieResetEvent s n
  let s := s.modNode fun x => { x with rems := x.rems.filter fun r => match r.kind.tile with
    | some t => deckOf t != n
    | none => true }
  { s with msgs := s.msgs.filter fun f => deckOf f.srcTile != n }

/-- A deck die's reset after its tiles are lost: its moves abandoned, its bond's counters lost, and its bit of DIERST set. -/
def deckBack (n : Nat) (s : State) : State :=
  let s := s.modWear fun w => { w with moving := w.moving.filter fun x => x.scope != n }
  let s := s.modCtrs fun k => { k with vals := k.vals.filter fun e => e.1 / 0x10000 != bondBase n / 0x10000 }
  s.modBoot fun b => { b with dierst := b.dierst ||| BitVec.ofNat 16 (2 ^ n) }

/-- A deck die's reset up to DIE_READY. -/
def deckDown (n : Nat) (s : State) : State := deckBack n (forEach (tilesOf n) dropTile (deckHit n s))

/-- The end of a deck die's reset, by whether its fuses are those of the start. -/
theorem doDeckDieReset_eq {s : State} (hrun : s.boot.st = .running) (hidle : s.power.idle = .s0) (n : Nat) (same : Bool) :
    doDeckDieReset n same s =
      if same then forEach ((deckHit n s).wear.moving.filter fun x => x.scope == n) (fun x s => queueNeed s x)
        (logEvent (deckDown n s) 0x0004 0 n [n])
      else dieDegraded (forEach (tilesOf n) (fun t s => s.modTile t fun T => { T with st := .unavailable }) (deckDown n s).takeFree) n
        (deckDown n s).freeVal :=
  if_neg (dieReset_runs hrun hidle)

theorem dieResetEvent_wear (s : State) (die : Nat) : (dieResetEvent s die).wear = s.wear := (dieResetEvent_le ..).same .wear rfl

theorem deckHit_wear (n : Nat) (s : State) : (deckHit n s).wear = s.wear := dieResetEvent_wear s n

theorem deckHit_tile (n : Nat) (s : State) (x : Nat) : (deckHit n s).tile x = s.tile x := (dieResetEvent_le s n).tile rfl x

theorem deckHit_dierst (n : Nat) (s : State) : (deckHit n s).boot.dierst = s.boot.dierst := (dieResetEvent_aside (a := 0) s n).1

theorem deckBack_wear (n : Nat) (s : State) :
    (deckBack n s).wear = { s.wear with moving := s.wear.moving.filter fun x => x.scope != n } := rfl

theorem deckBack_dierst (n : Nat) (s : State) : (deckBack n s).boot.dierst = s.boot.dierst ||| BitVec.ofNat 16 (2 ^ n) := rfl

theorem deckBack_tile (n : Nat) (s : State) (x : Nat) : (deckBack n s).tile x = s.tile x := rfl

theorem deckDown_wear (n : Nat) (s : State) :
    (deckDown n s).wear = { s.wear with moving := s.wear.moving.filter fun x => x.scope != n } := by
  have hdrop : (forEach (tilesOf n) dropTile (deckHit n s)).wear = (deckHit n s).wear := (forEach_dropTile_le ..).same .wear rfl
  rw [deckDown, deckBack_wear, hdrop, deckHit_wear]

theorem deckDown_dierst (n : Nat) (s : State) : (deckDown n s).boot.dierst = s.boot.dierst ||| BitVec.ofNat 16 (2 ^ n) := by
  have hdrop : (forEach (tilesOf n) dropTile (deckHit n s)).boot = (deckHit n s).boot := (forEach_dropTile_le ..).same .boot rfl
  rw [deckDown, deckBack_dierst, hdrop, deckHit_dierst]

theorem deckDown_st {n t : Nat} (s : State) (ht : t ∈ tilesOf n) :
    ((deckDown n s).tile t).st = .reset ∨ ((deckDown n s).tile t).st = .unavailable := by
  rw [deckDown, deckBack_tile]
  exact (forEach_dropTile_lost (deckHit n s) ht).st

/-- Tiles of other deck dies stay as they are where no tile loads. -/
theorem deckDown_tile {n : Nat} {s : State} (hload : ∀ t, (s.tile t).load = none) {x : Nat} (hx : deckOf x ≠ n) :
    (deckDown n s).tile x = s.tile x := by
  have hnot : x ∉ tilesOf n := fun hmem => by
    rw [tilesOf, mem_rangeFrom] at hmem
    unfold deckOf at hx
    unfold Config.tilesPerDeck at hx hmem
    omega
  rw [deckDown, deckBack_tile, forEach_dropTile_tile (fun t => by rw [deckHit_tile]; exact hload t) hnot, deckHit_tile]

/-- A deck die that comes back (R380): its tiles read RESET or UNAVAILABLE, its bit of DIERST is set, and none of the moves under way is its own. -/
theorem doDeckDieReset_same {s : State} (hrun : s.boot.st = .running) (hidle : s.power.idle = .s0) (n : Nat) :
    let u := doDeckDieReset n true s
    (∀ t ∈ tilesOf n, (u.tile t).st = .reset ∨ (u.tile t).st = .unavailable) ∧
      u.boot.dierst = s.boot.dierst ||| BitVec.ofNat 16 (2 ^ n) ∧ ∀ m ∈ u.wear.moving, m.scope ≠ n := by
  intro u
  have hlog : Le _ (deckDown n s) (logEvent (deckDown n s) 0x0004 0 n [n]) := logEvent_le ..
  have hu : u = forEach ((deckHit n s).wear.moving.filter fun x => x.scope == n) (fun x s => queueNeed s x)
      (logEvent (deckDown n s) 0x0004 0 n [n]) := (doDeckDieReset_eq hrun hidle n true).trans (if_pos rfl)
  rw [hu]
  refine ⟨fun t ht => ?tiles, ?dierst, ?moving⟩
  case tiles =>
    refine forEach_keeps (P := fun v => (v.tile t).st = .reset ∨ (v.tile t).st = .unavailable) ?_ fun m _ v hv => ?_
    · rw [hlog.tile rfl]
      exact deckDown_st s ht
    · rcases queueNeed_st v m t with hst | hst
      · rwa [hst]
      · exact .inr hst
  case dierst =>
    have hqueued := forEach_keeps (P := Aside 0 (deckDown n s)) (l := (deckHit n s).wear.moving.filter fun x => x.scope == n)
      (hlog.aside rfl) fun m _ v hv => hv.next (queueNeed_aside v m)
    exact hqueued.1.trans (deckDown_dierst n s)
  case moving =>
    refine forEach_keeps (P := fun v => ∀ m ∈ v.wear.moving, m.scope ≠ n) ?_ fun m _ v hv => by rwa [queueNeed_moving]
    rw [logEvent_wear, deckDown_wear]
    intro m hm
    simpa using (List.mem_filter.mp hm).2

/-- Without a move under way on the die nothing is queued again, and DIE_READY is the last step. -/
theorem doDeckDieReset_unmoved {s : State} (hrun : s.boot.st = .running) (hidle : s.power.idle = .s0) {n : Nat}
    (hmoving : ∀ m ∈ s.wear.moving, m.scope ≠ n) : doDeckDieReset n true s = logEvent (deckDown n s) 0x0004 0 n [n] := by
  have hnone : ((deckHit n s).wear.moving.filter fun x => x.scope == n) = [] := by
    rw [deckHit_wear, List.filter_eq_nil_iff]
    exact fun m hm => by simpa using hmoving m hm
  rw [doDeckDieReset_eq hrun hidle, if_pos rfl, hnone, forEach_nil]

/-- The move under way on the die is queued again (R417). -/
theorem doDeckDieReset_requeues {s : State} (hrun : s.boot.st = .running) (hidle : s.power.idle = .s0) {n : Nat} {m : Need}
    (hmoving : s.wear.moving = [m]) (hscope : m.scope = n) (hnew : s.wear.queue.any (sameNeed m) = false) (hspare : s.sparesLeft m.kind n ≠ 0) :
    m ∈ (doDeckDieReset n true s).wear.queue := by
  have hone : ((deckHit n s).wear.moving.filter fun x => x.scope == n) = [m] := by
    rw [deckHit_wear, hmoving, List.filter_singleton, hscope, beq_self_eq_true]
    rfl
  have hwear : (logEvent (deckDown n s) 0x0004 0 n [n]).wear = { s.wear with moving := s.wear.moving.filter fun x => x.scope != n } :=
    (logEvent_wear ..).trans (deckDown_wear n s)
  rw [doDeckDieReset_eq hrun hidle, if_pos rfl, hone, forEach_cons, forEach_nil]
  refine mem_queueNeed ?_ ?_
  · rw [hwear]
    exact hnew
  · rw [State.sparesLeft, State.sparesUsed, hwear, hscope]
    exact hspare

/-- A die that is marked degraded is among what is degraded (R268). -/
theorem mem_dieDegraded (s : State) (die link : Nat) : die ∈ (dieDegraded s die link).degraded := by
  have hlog : (dieDegraded s die link).degraded = (markDegraded s die [die, link]).degraded := (logEvent_le ..).same .degraded rfl
  rw [hlog, markDegraded, show ∀ v, (addRec v 10 die [die, link]).degraded = v.degraded from fun _ => rfl]
  split
  case isTrue h => exact List.contains_iff_mem.mp h
  case isFalse => exact List.mem_append_right _ (List.mem_singleton_self die)

/-- A deck die that comes back with other fuses loses its tiles, and is marked degraded (R380). -/
theorem doDeckDieReset_other {s : State} (hrun : s.boot.st = .running) (hidle : s.power.idle = .s0) (n : Nat) :
    let u := doDeckDieReset n false s
    (∀ t ∈ tilesOf n, (u.tile t).st = .unavailable) ∧ n ∈ u.degraded := by
  intro u
  have hu : u = dieDegraded (forEach (tilesOf n) (fun t s => s.modTile t fun T => { T with st := .unavailable }) (deckDown n s).takeFree) n
      (deckDown n s).freeVal := (doDeckDieReset_eq hrun hidle n false).trans (if_neg Bool.false_ne_true)
  rw [hu]
  refine ⟨fun t ht => ?_, mem_dieDegraded ..⟩
  rw [(dieDegraded_le ..).tile rfl]
  refine forEach_establishes (P := fun t v => (v.tile t).st = .unavailable) (fun t v => ?_) (fun t y v hy hv => ?_) _ ht
  · rw [State.modTile_tile]
  · rwa [State.modTile_tile_ne _ _ _ _ hy.symm]

/-! ### The statement -/

/-- Settles O52: the reset of a deck die by its tiles, its moves and its fuses, and that of an abutment die by its clusters, its arbiter and the
pairs of its link. -/
theorem dieResets : Obligations.DieResets := by
  unfold Obligations.DieResets
  refine fun s hrun hidle => ⟨fun n hn => ⟨?same, ?other⟩, fun a ha hlt => ?abutment⟩
  case same =>
    refine .of_eq (require_of (decide_eq_true hn)) ?_
    obtain ⟨htiles, hdierst, hmoves⟩ := doDeckDieReset_same hrun hidle n
    refine ⟨htiles, hdierst, hmoves, fun hmoving => ?_, fun m hmoving hscope hnew hspare =>
      doDeckDieReset_requeues hrun hidle hmoving hscope hnew hspare⟩
    rw [doDeckDieReset_unmoved hrun hidle hmoving]
    exact ⟨fun hload t ht => ((logEvent_le ..).tile rfl t).trans (deckDown_tile hload ht), logEvent_last ..⟩
  case other => exact .of_eq (require_of (decide_eq_true hn)) (doDeckDieReset_other hrun hidle n)
  case abutment =>
    refine .of_eq (require_of (by rw [decide_eq_true ha, decide_eq_true hlt]; rfl)) ?_
    obtain ⟨hclusters, harb, hpairs, hdierst, hevent⟩ := doAbutmentDieReset_leaves hrun hidle a
    refine ⟨hclusters, ?_, ?_, ?_, hpairs, hdierst, hevent⟩
    all_goals rw [harb]

end Sys2Proof.Machine
end

section
/-!
PROOFS. WINDOW_CLOSE (R297, R338): its acceptance where the module still holds an operation of the same handle.
-/

namespace Sys2Proof.Machine
open Sys2Proof

/-! ### WINDOW_CLOSE (R297) -/

/-- A picked-up WINDOW_CLOSE (R331). -/
def staleClose : Picked :=
  { opcode := 0x050A, tag := 0, irq := false, ind := false, plen := 0, rptr := 0, rlen := 0, seq := 1 }

/-- A node whose first slot of client 0 holds that command, while the list of operations has one of the same handle (R338), at position 1 of 5. -/
def staleCloseState : State :=
  { belul :=
      { slots := [(slotKey 0 0, { busy := true, lastSeq := 1, picked := some staleClose })],
        ops := [⟨handleOf 0 0 staleClose.seq, 0, 0, 0x050A, 6, 1, 5, [], none⟩] } }

/-- WINDOW_CLOSE of a window that is not closing is accepted, shows the requests that are outstanding, and clears V (R297). -/
theorem windowClose_accepts {r : Req} {p : Picked} {w : Nat} {s : State} (h : Ready r 0x050A p s) (hw : w < 4096)
    (hclose : (s.window w).closeOp = none) : exec (.windowClose r w) s = .next
      ((setPosition (acceptLong s r.client r.slot p 6 0 []) (handleOf r.client r.slot p.seq) (outstanding s w)).modWindow w fun x =>
        { x with v := false, closeOp := some (handleOf r.client r.slot p.seq) }) := by
  refine (require_of ?_).trans (congrArg Host.Outcome.next (command_ready h (firstBad_none.mpr ?_)))
  · rw [okReq_eq, h.1, decide_eq_true (Nat.lt_trans hw (by decide))]
    rfl
  · simp [hw, hclose]

/-- Refutes O40: the position of WINDOW_CLOSE is shown by its handle (R338), and a state may hold an operation of that handle before the command is
accepted. The reply then shows that operation's total, 5, and not the total 0 with which the command was accepted. -/
theorem not_nodeCommands : ¬ Obligations.NodeCommands := by
  unfold Obligations.NodeCommands
  rintro ⟨hcommands, -⟩
  have hready : Ready ⟨0, 0, false, false⟩ 0x050A staleClose staleCloseState := by decide
  have hclose : (staleCloseState.window 0).closeOp = none := rfl
  obtain ⟨-, -, -, -, -, -, -, -, -, -, hwindowClose, -, -⟩ := hcommands _ _ 0 0 _ (by decide) (by decide)
  obtain ⟨u, hexec, ⟨-, -, -, -, -, htotal, -⟩, -⟩ := hwindowClose hready hclose
  rw [windowClose_accepts hready (by decide) hclose] at hexec
  obtain rfl := Host.Outcome.next.inj hexec
  exact absurd htotal (by decide)

end Sys2Proof.Machine
end

section
/-!
PROOFS. The optical ports (R275–R284): what sending leaves of a port, a port that goes down or trains, and the events of a port.
-/

namespace Sys2Proof.Machine
open Sys2Proof

/-! ### What sending on a port leaves (R280, R282, R284) -/

/-- A port without its queue, its credit, its replay buffer and its turns: what no sending changes. -/
def OPort.link (o : OPort) : OPort := { o with queue := [], used := [], unacked := [], fseq := 0, lastVc := 0, sinceCtrl := 0 }

/-- State `u` differs from state `s` in no part of a port but what sending changes, and in no other part of the NODE block. -/
structure SameLinks (s u : State) : Prop where
  port : ∀ x, (u.port x).link = (s.port x).link
  node : { u.node with ports := [] } = { s.node with ports := [] }

theorem SameLinks.refl (s : State) : SameLinks s s := ⟨fun _ => rfl, rfl⟩

theorem SameLinks.trans {s t u : State} (h : SameLinks s t) (g : SameLinks t u) : SameLinks s u :=
  ⟨fun x => (g.port x).trans (h.port x), g.node.trans h.node⟩

theorem SameLinks.phys {s u : State} (h : SameLinks s u) : u.node.phys = s.node.phys := (congrArg Node.phys h.node :)

/-- A state that leaves the node alone leaves its ports alone. -/
theorem Le.port {m : Nat} {s u : State} (h : Le m s u) (hm : m.testBit 12 = false) (x : Nat) : u.port x = s.port x := by
  have hn : u.node = s.node := h.same .node hm
  rw [State.port, hn]
  rfl

theorem SameLinks.le {m : Nat} {s t u : State} (h : SameLinks s t) (g : Le m t u) (hm : m.testBit 12 = false) : SameLinks s u :=
  have hnode : u.node = t.node := g.same .node hm
  ⟨fun x => (congrArg OPort.link (g.port hm x)).trans (h.port x), by rw [hnode, h.node]⟩

theorem SameLinks.forEach {α : Type} {s t : State} {f : α → State → State} (h : SameLinks s t) (hf : ∀ a u, SameLinks u (f a u)) (l : List α) :
    SameLinks s (Machine.forEach l f t) :=
  forEach_keeps h fun a _ u hu => hu.trans (hf a u)

/-- A change of a port that leaves its link alone. -/
theorem SameLinks.modPort (s : State) (x : Nat) {f : OPort → OPort} (hf : ∀ o, (f o).link = o.link) : SameLinks s (s.modPort x f) := by
  refine ⟨fun y => ?_, rfl⟩
  by_cases hy : y = x
  · subst hy
    rw [State.modPort_port, hf]
  · rw [State.modPort_port_ne _ _ _ _ hy]

theorem leavePort_sameLinks (x : Nat) (e : Nat × Nat × Out) (s : State) : SameLinks s (leavePort x e s) :=
  (SameLinks.modPort s x (by intro o; rfl)).le (State.send_le ..) rfl

theorem drainPort_sameLinks (x n : Nat) (s : State) : SameLinks s (drainPort x n s) := by
  induction n generalizing s with
  | zero => exact .refl s
  | succ n ih =>
    unfold drainPort
    split
    · exact .refl s
    · exact (leavePort_sameLinks x _ s).trans (ih _)

theorem creditBack_sameLinks (x vc : Nat) (s : State) : SameLinks s (creditBack x vc s) := by
  unfold creditBack
  dsimp only
  split
  · exact .refl s
  · exact (SameLinks.modPort s x (by intro o; rfl)).le (State.takeFree_le _) rfl

theorem ackBack_sameLinks (x : Nat) (s : State) : SameLinks s (ackBack x s) := by
  unfold ackBack
  dsimp only
  split
  · exact .refl s
  · exact (SameLinks.modPort s x (by intro o; rfl)).le (State.takeFree_le _) rfl

theorem pumpPort_sameLinks (x : Nat) (s : State) : SameLinks s (pumpPort x s) := by
  unfold pumpPort
  split
  · exact .refl s
  · exact ((ackBack_sameLinks x s).forEach (creditBack_sameLinks x) _).trans (drainPort_sameLinks ..)

theorem emit_sameLinks (s : State) (x vc n : Nat) (o : Out) : SameLinks s (emit s x vc n o) :=
  (SameLinks.modPort s x (by intro o; rfl)).trans (pumpPort_sameLinks ..)

theorem sendControl_sameLinks (s : State) (x : Nat) (o : Out) : SameLinks s (sendControl s x o) :=
  (SameLinks.modPort s x (by intro o; rfl)).le (State.send_le ..) rfl

/-- What waited at a port that no longer serves leaves by another one, or waits on (R278, R291). -/
theorem reroute_sameLinks (s : State) (x : Nat) : SameLinks s (reroute s x) := by
  unfold reroute
  refine (SameLinks.modPort s x (by intro o; rfl)).forEach (fun e u => ?_) _
  split
  · split
    · exact emit_sameLinks ..
    · exact SameLinks.modPort u x (by intro o; rfl)
  · exact .refl u

/-! ### A port goes down (R277–R279) -/

/-- The data of the reply that ends a PORT_RETRAIN fit its slot (R336). -/
theorem retrainData_fits (o : OPort) : dataLen [(1, o.st), (1, waves o.txWave), (1, waves o.rxWave), (1, 0)] ≤ 216 :=
  show 4 ≤ 216 by decide

/-- A port without a PORT_RETRAIN has none to end. -/
theorem endRetrain_idle {s : State} {x : Nat} (hop : (s.port x).op = none) : endRetrain s x = s := by
  simp only [endRetrain, hop]

/-- A port without a PORT_RETRAIN shows no step of one. -/
theorem portStep_idle {s : State} {x : Nat} (hop : (s.port x).op = none) (step : Nat) : portStep s x step = s := by
  simp only [portStep, hop]

theorem portStep_port (s : State) (x step y : Nat) : (portStep s x step).port y = s.port y := (portStep_le s x step).port rfl y

/-- The end of a PORT_RETRAIN leaves its port without one (R300). -/
theorem endRetrain_port (s : State) (x : Nat) : (endRetrain s x).port x = { s.port x with op := none } := by
  cases hop : (s.port x).op with
  | none => rw [endRetrain_idle hop, ← hop]
  | some h =>
    simp only [endRetrain, hop]
    rw [(finishOp_fits_le _ h _ (retrainData_fits _)).port rfl, State.modPort_port]

/-- The end of a PORT_RETRAIN adds no event. -/
theorem endRetrain_events (s : State) (x : Nat) : (endRetrain s x).events = s.events := by
  unfold endRetrain
  dsimp only
  split
  · rfl
  · exact ((finishOp_fits_le _ _ _ (retrainData_fits _)).same .events rfl).1

/-- A port as it stands when it is down: no wavelengths, and no PORT_RETRAIN. -/
def OPort.downed (o : OPort) : OPort := { o with st := 0, txWave := 0, rxWave := 0, op := none }

/-- A port that goes down keeps the rest of its link. -/
theorem portDown_link {s : State} {x : Nat} (cause : Nat) (hst : (s.port x).st ≠ 0) :
    ((portDown s x cause).port x).link = (s.port x).downed.link := by
  unfold portDown
  rw [if_neg hst]
  dsimp only
  rw [endRetrain_port, (logStored_le ..).port rfl]
  have hreroute := (reroute_sameLinks (s.modPort x fun o => { o with st := 0, txWave := 0, rxWave := 0 }) x).port x
  rw [State.modPort_port] at hreroute
  exact congrArg (fun o : OPort => { o with op := none }) hreroute

/-- PORT_DOWN is the last event of a port that goes down (R279, R398). -/
theorem portDown_last {s : State} {x : Nat} (cause : Nat) (hst : (s.port x).st ≠ 0) :
    ((portDown s x cause).events.getLast?.map fun v => (v.code, v.data)) = some (0x0302, [x, cause]) := by
  unfold portDown
  rw [if_neg hst]
  dsimp only
  rw [endRetrain_events, logStored_last]

/-- A port that is down stays as it is. -/
theorem portDown_idle {s : State} {x : Nat} (cause : Nat) (hst : (s.port x).st = 0) : portDown s x cause = s := if_pos hst

/-! ### A port trains (R278) -/

/-- A port as it stands when it begins to train. -/
def OPort.training (o : OPort) : OPort :=
  { o with st := 1, txWave := 0, rxWave := 0, recv := none, overWin := [], flitFails := 0, rxWait := none }

/-- A port that trains keeps the rest of its link, its PORT_RETRAIN included. -/
theorem trainPort_link (s : State) (x : Nat) : ((trainPort s x).port x).link = (s.port x).training.link := by
  unfold trainPort
  rw [portStep_port, (reroute_sameLinks ..).port, State.modPort_port]
  rfl

/-! ### Training and peers (R276, R278, R279) -/

/-- A training that leaves fewer than seven wavelengths takes the port down (R276). -/
theorem portTrainingDone_fails {s : State} {x : Nat} {tx rx : WaveMask} (hst : (s.port x).st = 1) (hlaser : (s.port x).laserDown = false)
    (hwave : (s.port x).txWave = 0) (hop : (s.port x).op = none)
    (hfew : waves (chosenWaves tx) < 7 ∨ waves (chosenWaves (rx &&& ~~~(s.port x).worn)) < 7) :
    doPortTrainingDone x tx rx s = portDown s x downTraining := by
  have hready : ¬ ((s.port x).st ≠ 1 ∨ (s.port x).laserDown = true ∨ (s.port x).txWave ≠ 0) := by simp [hst, hlaser, hwave]
  simp only [doPortTrainingDone]
  rw [if_neg hready, if_pos hfew, portStep_idle hop]

/-- The event of a training that leaves seven wavelengths in a direction (R276). -/
def narrowEvent (x : Nat) (t r : WaveMask) (s : State) : State :=
  if waves t = 7 ∨ waves r = 7 then logStored s 0x0301 3 (diePier (x / 12)) [x, waves t, waves r] 7 0 else s

theorem narrowEvent_port (x : Nat) (t r : WaveMask) (s : State) (y : Nat) : (narrowEvent x t r s).port y = s.port y := by
  unfold narrowEvent
  split
  · exact (logStored_le ..).port rfl y
  · rfl

/-- A training that leaves seven wavelengths or more in both directions sends the PEERID (R276, R278). -/
theorem portTrainingDone_trains {s : State} {x : Nat} {tx rx : WaveMask} (hst : (s.port x).st = 1) (hlaser : (s.port x).laserDown = false)
    (hwave : (s.port x).txWave = 0) (hop : (s.port x).op = none) {t r : WaveMask} (ht : t = chosenWaves tx)
    (hr : r = chosenWaves (rx &&& ~~~(s.port x).worn)) (htx : 7 ≤ waves t) (hrx : 7 ≤ waves r) :
    ∃ v, v.port x = { s.port x with txWave := t, rxWave := r } ∧
      v = narrowEvent x t r (s.modPort x fun o => { o with txWave := t, rxWave := r }) ∧
      doPortTrainingDone x tx rx s = sendControl v x (.peerid x ⟨false, s.node.phys, x, Config.fingerprint⟩) := by
  have hready : ¬ ((s.port x).st ≠ 1 ∨ (s.port x).laserDown = true ∨ (s.port x).txWave ≠ 0) := by simp [hst, hlaser, hwave]
  have hport := narrowEvent_port x t r (s.modPort x fun o => { o with txWave := t, rxWave := r }) x
  rw [State.modPort_port] at hport
  refine ⟨_, hport, rfl, ?_⟩
  simp only [doPortTrainingDone]
  rw [if_neg hready, ← ht, ← hr, if_neg (by omega)]
  change sendControl (portStep (narrowEvent ..) x 5) x (.peerid x ⟨false, (narrowEvent ..).node.phys, x, Config.fingerprint⟩) = _
  have hnode : ∀ u, (narrowEvent x t r u).node = u.node := by
    intro u
    unfold narrowEvent
    split
    · exact (logStored_le ..).same .node rfl
    · rfl
  rw [portStep_idle (by rw [hport]; exact hop), hnode]
  rfl

/-- The recorded peer opens its port, where nothing waits (R279). -/
theorem peerid_opens {s : State} {x : Nat} {p : Peer} (hst : (s.port x).st = 1) (hwave : (s.port x).txWave ≠ 0) (hop : (s.port x).op = none)
    (hpeer : (s.port x).peer = some p) (hqueue : (s.port x).queue = []) :
    doPeerid x p.gen8 p.phys p.port p.fprint s = openPort (s.modPort x fun o => { o with recv := some p, nbPhys := some p.phys }) x := by
  have hready : ¬ ((s.port x).st ≠ 1 ∨ (s.port x).txWave = 0) := fun h => h.elim (fun hne => hne hst) hwave
  simp only [doPeerid]
  rw [if_neg hready, if_pos hpeer]
  have hport : ∀ u : State, (u.port x).op = none → (u.port x).queue = [] → endRetrain (pumpPort x (portStep u x 6)) x = u := by
    intro u hu hq
    rw [portStep_idle hu, pumpPort, if_pos hq, endRetrain_idle hu]
  refine hport _ ?_ ?_ <;> rw [openPort, State.modPort_port, State.modPort_port]
  · exact hop
  · exact hqueue

/-- Any other peer holds its port, with event PEER_CHANGED (R279). -/
theorem peerid_holds {s : State} {x : Nat} {p : Peer} (hst : (s.port x).st = 1) (hwave : (s.port x).txWave ≠ 0) (hop : (s.port x).op = none)
    (hpeer : (s.port x).peer ≠ some p) :
    ((doPeerid x p.gen8 p.phys p.port p.fprint s).port x).link = { s.port x with st := 2, recv := some p, nbPhys := some p.phys }.link ∧
    (((doPeerid x p.gen8 p.phys p.port p.fprint s).events.getLast?.map fun v => (v.code, v.data)).map (·.1)) = some 0x0003 := by
  have hready : ¬ ((s.port x).st ≠ 1 ∨ (s.port x).txWave = 0) := fun h => h.elim (fun hne => hne hst) hwave
  simp only [doPeerid]
  rw [if_neg hready, if_neg hpeer]
  generalize hu : logEvent _ 0x0003 0 _ _ = u
  have hport : u.port x = { s.port x with st := 2, recv := some p, nbPhys := some p.phys } := by
    rw [← hu, (logEvent_le ..).port rfl, (recordPeer_le ..).port rfl, State.modPort_port, State.modPort_port]
  have hstep : portStep u x 6 = u := portStep_idle (by rw [hport]; exact hop) 6
  have hlink : ((pumpPort x u).port x).link = { s.port x with st := 2, recv := some p, nbPhys := some p.phys }.link := by
    rw [(pumpPort_sameLinks x u).port, hport]
  have hidle : endRetrain (pumpPort x u) x = pumpPort x u := endRetrain_idle ((congrArg OPort.op hlink).trans hop)
  rw [hstep, hidle]
  refine ⟨hlink, ?_⟩
  rw [((pumpPort_le x u).same .events rfl).1, ← hu, logEvent_last]
  rfl

/-! ### Lasers (R277, R411) -/

/-- An urgent need that is queued already stays queued, and is urgent; one for which a spare is left, or that a retraining meets, is queued. -/
theorem queueNeed_urgent {s : State} {n : Need} (hurgent : n.urgent = true) (hnext : s.sparesLeft n.kind n.scope ≠ 0 ∨ retrainsNeed n = true) :
    ∃ d ∈ (queueNeed s n).wear.queue, d.kind = n.kind ∧ d.scope = n.scope ∧ d.res = n.res ∧ d.urgent = true := by
  cases hqueued : s.wear.queue.any (sameNeed n) with
  | true =>
    obtain ⟨d, hd, hsame⟩ := List.any_eq_true.mp hqueued
    have hfields : n.kind = d.kind ∧ n.scope = d.scope ∧ n.res = d.res := by
      simpa only [sameNeed, Bool.and_eq_true, beq_iff_eq, and_assoc] using hsame
    obtain ⟨hkind, hscope, hres⟩ := hfields
    refine ⟨{ d with urgent := d.urgent || n.urgent }, ?_, hkind.symm, hscope.symm, hres.symm, by simp [hurgent]⟩
    unfold queueNeed
    rw [if_pos hqueued]
    exact List.mem_map.mpr ⟨d, hd, if_pos hsame⟩
  | false =>
    refine ⟨n, ?_, rfl, rfl, rfl, hurgent⟩
    have hmet : ¬ (s.sparesLeft n.kind n.scope = 0 ∧ (!retrainsNeed n) = true) := by
      rintro ⟨hnone, hno⟩
      rcases hnext with h | h
      · exact h hnone
      · simp [h] at hno
    unfold queueNeed
    rw [hqueued, if_neg Bool.false_ne_true, if_neg hmet, (deferNeed_wear ..).1]
    exact List.mem_append_right _ (List.mem_singleton_self n)

theorem portDown_wear (s : State) (x cause : Nat) : (portDown s x cause).wear = s.wear := by
  unfold portDown
  split
  · rfl
  · have hend : ∀ u, (endRetrain u x).wear = u.wear := fun u => (endRetrain_le u x).same .wear rfl
    dsimp only
    rw [hend, (logStored_le ..).same .wear rfl, (reroute_le ..).same .wear rfl]
    rfl

/-- The failed laser of a port takes it down, and needs the spare of its pier (R277). -/
theorem laserFailure_down {s : State} {x : Nat} (hlaser : (s.port x).laserDown = false) :
    ((doLaserFailure x s).port x).laserDown = true ∧ ((doLaserFailure x s).port x).st = 0 ∧
    (s.sparesLeft 4 (x / 12) ≠ 0 → ∃ d ∈ (doLaserFailure x s).wear.queue, d.kind = 4 ∧ d.scope = x / 12 ∧ d.res = x ∧ d.urgent = true) := by
  unfold doLaserFailure
  rw [hlaser, if_neg Bool.false_ne_true]
  dsimp only
  rw [(queueNeed_le ..).port rfl]
  generalize hu : s.modPort x (fun o => { o with laserDown := true }) = u
  have hport : u.port x = { s.port x with laserDown := true } := by rw [← hu, State.modPort_port]
  have hwear : u.wear = s.wear := by rw [← hu]; rfl
  refine ⟨?_, ?_, fun hspare => queueNeed_urgent rfl (.inl ?_)⟩
  · by_cases hst : (u.port x).st = 0
    · rw [portDown_idle _ hst, hport]
    · refine (congrArg OPort.laserDown (portDown_link downLaser hst)).trans ?_
      rw [hport]
      rfl
  · by_cases hst : (u.port x).st = 0
    · rw [portDown_idle _ hst, hst]
    · exact congrArg OPort.st (portDown_link downLaser hst)
  · rw [State.sparesLeft, State.sparesUsed, portDown_wear, hwear]
    exact hspare

/-! ### Replay (R275, R284) -/

/-- Items that leave the node one after another stand on what left before. -/
theorem forEach_send_out {α : Type} (f : α → Out) (l : List α) (s : State) :
    (forEach l (fun e s => s.send (f e)) s).out = (l.map f).reverse ++ s.out := by
  induction l generalizing s with
  | nil => rfl
  | cons e l ih =>
    rw [forEach_cons, ih, List.map_cons, List.reverse_cons, List.append_assoc]
    rfl

/-- Items that leave the node leave its ports as they are. -/
theorem forEach_send_port {α : Type} (f : α → Out) (l : List α) (s : State) (x : Nat) :
    (forEach l (fun e s => s.send (f e)) s).port x = s.port x :=
  forEach_keeps (P := fun u => u.port x = s.port x) rfl fun _ _ _ hu => hu

/-- A replay counts, and resends what the replay buffer holds from the named flit on (R284). -/
theorem flitReplay_resends {s : State} {x : Nat} (hst : 2 ≤ (s.port x).st) (fseq : Nat) :
    ((doFlitReplay x fseq s).port x).replays = min 0xFFFF ((s.port x).replays + 1) ∧
    ∃ more, (doFlitReplay x fseq s).out = more ++ .resend x fseq :: s.out ∧ ((s.port x).unacked = [] → more = []) := by
  unfold doFlitReplay
  rw [if_neg (by omega)]
  dsimp only
  rw [forEach_send_port, forEach_send_out, State.send_port, State.modPort_port]
  exact ⟨rfl, _, rfl, fun h => by rw [h]; rfl⟩

/-- The first failure of a flit asks for its replay (R284). -/
theorem flitCheckFailure_asks {s : State} {x : Nat} (hst : 2 ≤ (s.port x).st) (hwait : (s.port x).rxWait = none)
    (hfails : (s.port x).flitFails = 0) (fseq : Nat) (fec : Bool) :
    ((doFlitCheckFailure x fseq fec s).port x).link = { s.port x with
      fecUnc := if fec then satAdd 0xFFFF (s.port x).fecUnc 1 else (s.port x).fecUnc, flitFails := 1, failSeq := fseq, rxWait := some fseq }.link ∧
    (doFlitCheckFailure x fseq fec s).out = .replay x fseq :: s.out := by
  simp only [doFlitCheckFailure]
  rw [if_neg (by omega), hwait, hfails, if_neg (by simp), if_neg (show ¬ ((0 : Nat) ≠ 0 ∧ (s.port x).failSeq = fseq) from fun h => h.1 rfl),
    if_neg (by decide), (sendControl_sameLinks ..).port, State.modPort_port, State.modPort_port]
  exact ⟨rfl, rfl⟩

/-- Later flits are discarded until the awaited one comes (R284). -/
theorem flitCheckFailure_discards {s : State} {x w fseq : Nat} (hst : 2 ≤ (s.port x).st) (hwait : (s.port x).rxWait = some w) (hne : w ≠ fseq) :
    (doFlitCheckFailure x fseq false s).port x = s.port x ∧ (doFlitCheckFailure x fseq false s).out = s.out := by
  simp only [doFlitCheckFailure]
  rw [if_neg (by omega), hwait, if_pos (by simpa using hne), State.modPort_port]
  exact ⟨rfl, rfl⟩

/-- The sixteenth failure of a flit trains the port (R284). -/
theorem flitCheckFailure_trains {s : State} {x fseq : Nat} (hst : 2 ≤ (s.port x).st) (hwait : (s.port x).rxWait = some fseq)
    (hfails : (s.port x).flitFails = 15) (hseq : (s.port x).failSeq = fseq) :
    ((doFlitCheckFailure x fseq false s).port x).link =
      { s.port x with flitFails := 16, failSeq := fseq, rxWait := some fseq }.training.link := by
  simp only [doFlitCheckFailure]
  rw [if_neg (by omega), hwait, hfails, if_neg (by simp), if_pos (show (15 : Nat) ≠ 0 ∧ (s.port x).failSeq = fseq from ⟨by decide, hseq⟩),
    if_pos (by decide), trainPort_link, State.modPort_port, State.modPort_port]
  rfl

/-! ### Wavelengths (R276, R411) -/

/-- The windows over the limit in a row, of wavelength `i` of a port, after an error window (R276). -/
def OPort.overNow (o : OPort) (overs : WaveMask) (i : Nat) : Nat :=
  if overs.getLsbD i then Tab.get 0 o.overWin i + 1 else 0

/-- A port after the error window of its receive wavelength `i` (R276). -/
def OPort.windowed (overs : WaveMask) (i : Nat) (o : OPort) : OPort :=
  { o with overWin := Tab.set 0 o.overWin i (o.overNow overs i),
           worn := if o.overNow overs i = 3 then o.worn ||| BitVec.ofNat 9 (2 ^ i) else o.worn }

/-- What an error window does for receive wavelength `i` of a port (R276). -/
def waveStep (x : Nat) (overs : WaveMask) (i : Nat) (s : State) : State :=
  if !(s.port x).rxWave.getLsbD i then s
  else if (s.port x).overNow overs i = 3 then queueNeed (s.modPort x fun _ => (s.port x).windowed overs i) ⟨3, x, i, true⟩
  else s.modPort x fun _ => (s.port x).windowed overs i

/-- An error window is taken for each receive wavelength. -/
theorem waveErrorWindow_eq {s : State} {x : Nat} (hst : 2 ≤ (s.port x).st) (overs : WaveMask) :
    doWaveErrorWindow x overs s = forEach (rangeFrom 0 9) (waveStep x overs) s := if_neg (by omega)

/-- A wavelength that is not received has no window. -/
theorem waveStep_dark {s : State} {x i : Nat} (hdark : (s.port x).rxWave.getLsbD i = false) (overs : WaveMask) : waveStep x overs i s = s := by
  rw [waveStep, hdark]
  rfl

theorem waveStep_port {s : State} {x i : Nat} (hlit : (s.port x).rxWave.getLsbD i = true) (overs : WaveMask) :
    (waveStep x overs i s).port x = (s.port x).windowed overs i := by
  rw [waveStep, hlit, if_neg (by decide)]
  split
  · rw [(queueNeed_le ..).port rfl, State.modPort_port]
  · rw [State.modPort_port]

/-- The third window in a row over the limit is a need of the wavelength (R276, R411). -/
theorem waveStep_need {s : State} {x i : Nat} {overs : WaveMask} (hlit : (s.port x).rxWave.getLsbD i = true)
    (hthree : (s.port x).overNow overs i = 3) :
    ∃ d ∈ (waveStep x overs i s).wear.queue, d.kind = 3 ∧ d.scope = x ∧ d.res = i := by
  rw [waveStep, hlit, if_neg (by decide), if_pos hthree]
  obtain ⟨d, hd, hkind, hscope, hres, -⟩ := queueNeed_urgent (s := s.modPort x fun _ => (s.port x).windowed overs i)
    (n := ⟨3, x, i, true⟩) rfl (.inr rfl)
  exact ⟨d, hd, hkind, hscope, hres⟩

/-- A need that a retraining meets leaves what is queued in its place (R411). -/
theorem queueNeed_keeps {s : State} {n d : Need} (hretrains : retrainsNeed n = true) (hd : d ∈ s.wear.queue) :
    ∃ e ∈ (queueNeed s n).wear.queue, e.kind = d.kind ∧ e.scope = d.scope ∧ e.res = d.res := by
  unfold queueNeed
  split
  · exact ⟨_, List.mem_map_of_mem hd, by split <;> exact ⟨rfl, rfl, rfl⟩⟩
  · rw [if_neg (by simp [hretrains]), (deferNeed_wear ..).1]
    exact ⟨d, List.mem_append_left _ hd, rfl, rfl, rfl⟩

theorem waveStep_keepsNeed {s : State} {d : Need} (x : Nat) (overs : WaveMask) (i : Nat) (hd : d ∈ s.wear.queue) :
    ∃ e ∈ (waveStep x overs i s).wear.queue, e.kind = d.kind ∧ e.scope = d.scope ∧ e.res = d.res := by
  unfold waveStep
  split
  · exact ⟨d, hd, rfl, rfl, rfl⟩
  · split
    · exact queueNeed_keeps rfl hd
    · exact ⟨d, hd, rfl, rfl, rfl⟩

/-- What an error window leaves of wavelength `i` when it is another's turn: its count, whether it is received, that it is worn, and its need. -/
theorem waveStep_other {x i j : Nat} (hij : i ≠ j) (overs : WaveMask) (s : State) :
    ((waveStep x overs j s).port x).rxWave = (s.port x).rxWave ∧
    Tab.get 0 ((waveStep x overs j s).port x).overWin i = Tab.get 0 (s.port x).overWin i ∧
    ((s.port x).worn.getLsbD i = true → ((waveStep x overs j s).port x).worn.getLsbD i = true) := by
  cases hlit : (s.port x).rxWave.getLsbD j with
  | false =>
    rw [waveStep_dark hlit]
    exact ⟨rfl, rfl, id⟩
  | true =>
    rw [waveStep_port hlit]
    refine ⟨rfl, Tab.get_set_ne _ _ _ _ _ hij, fun hworn => ?_⟩
    unfold OPort.windowed
    dsimp only
    split
    · rw [BitVec.getLsbD_or, hworn, Bool.true_or]
    · exact hworn

/-- Wavelength `i` of a port after an error window that is the `n`th in a row over its limit (R276). -/
def Windowed (x i n : Nat) (v : State) : Prop :=
  Tab.get 0 (v.port x).overWin i = n ∧
  (n = 3 → (v.port x).worn.getLsbD i = true ∧ ∃ d ∈ v.wear.queue, d.kind = 3 ∧ d.scope = x ∧ d.res = i)

/-- The turn of another wavelength leaves it so. -/
theorem Windowed.other {x i j n : Nat} {v : State} (h : Windowed x i n v) (hij : i ≠ j) (overs : WaveMask) :
    Windowed x i n (waveStep x overs j v) := by
  obtain ⟨hcount, hthird⟩ := h
  obtain ⟨-, hover, hworn⟩ := waveStep_other (x := x) hij overs v
  refine ⟨hover.trans hcount, fun hthree => ?_⟩
  obtain ⟨hbit, d, hd, hkind, hscope, hres⟩ := hthird hthree
  obtain ⟨e, he, hek, hes, her⟩ := waveStep_keepsNeed x overs j hd
  exact ⟨hworn hbit, e, he, hek.trans hkind, hes.trans hscope, her.trans hres⟩

/-- Its own turn makes it so. -/
theorem waveStep_windowed {x i : Nat} (hi : i < 9) (overs : WaveMask) {s : State} (hlit : (s.port x).rxWave.getLsbD i = true) :
    Windowed x i ((s.port x).overNow overs i) (waveStep x overs i s) := by
  refine ⟨?_, fun hthree => ⟨?_, waveStep_need hlit hthree⟩⟩
  · rw [waveStep_port hlit]
    exact Tab.get_set_self ..
  · rw [waveStep_port hlit, OPort.windowed, if_pos hthree, BitVec.getLsbD_or, BitVec.getLsbD_ofNat, Nat.testBit_two_pow_self, decide_eq_true hi]
    simp

/-- The turns of other wavelengths leave the count of wavelength `i`, and whether it is received. -/
theorem waveSteps_others {x i : Nat} {l : List Nat} (hi : i ∉ l) (overs : WaveMask) (s : State) :
    ((forEach l (waveStep x overs) s).port x).rxWave = (s.port x).rxWave ∧
    Tab.get 0 ((forEach l (waveStep x overs) s).port x).overWin i = Tab.get 0 (s.port x).overWin i := by
  refine forEach_keeps (P := fun u => (u.port x).rxWave = (s.port x).rxWave ∧ Tab.get 0 (u.port x).overWin i = Tab.get 0 (s.port x).overWin i)
    ⟨rfl, rfl⟩ fun j hj u hu => ?_
  obtain ⟨hrx, hover, -⟩ := waveStep_other (x := x) (ne_of_mem_of_not_mem hj hi).symm overs u
  exact ⟨hrx.trans hu.1, hover.trans hu.2⟩

/-- An error window takes each receive wavelength of a port, and no other (R276). -/
theorem waveErrorWindow_windowed {s : State} {x i : Nat} (hst : 2 ≤ (s.port x).st) (hi : i < 9) (overs : WaveMask) :
    ((s.port x).rxWave.getLsbD i = true → Windowed x i ((s.port x).overNow overs i) (doWaveErrorWindow x overs s)) ∧
    ((s.port x).rxWave.getLsbD i = false → Tab.get 0 ((doWaveErrorWindow x overs s).port x).overWin i = Tab.get 0 (s.port x).overWin i) := by
  rw [waveErrorWindow_eq hst]
  have hnodup : (rangeFrom 0 9).Nodup := by decide
  obtain ⟨before, after, hrange⟩ := List.append_of_mem ((mem_rangeFrom 9 0 i).mpr ⟨Nat.zero_le _, by omega⟩)
  rw [hrange, List.nodup_middle, List.nodup_cons, List.mem_append, not_or] at hnodup
  obtain ⟨⟨hbefore, hafter⟩, -⟩ := hnodup
  rw [hrange, forEach_append, forEach_cons]
  obtain ⟨hrx, hover⟩ := waveSteps_others (x := x) hbefore overs s
  generalize forEach before (waveStep x overs) s = u at hrx hover
  refine ⟨fun hlit => ?_, fun hdark => ?_⟩
  · have hnow : (u.port x).overNow overs i = (s.port x).overNow overs i := by rw [OPort.overNow, OPort.overNow, hover]
    refine forEach_keeps (hnow ▸ waveStep_windowed hi overs (hrx ▸ hlit)) fun j hj v hv => ?_
    exact hv.other (ne_of_mem_of_not_mem hj hafter).symm overs
  · rw [waveStep_dark (hrx ▸ hdark)]
    exact (waveSteps_others hafter overs u).2.trans hover

end Sys2Proof.Machine
end

section
/-!
PROOFS. Packets that leave on the only port of their way (R283, R290–R292, R295): hops, packets that start here, and the answers to a request.
-/

namespace Sys2Proof.Machine
open Sys2Proof

/-! ### Ports of a direction (R273, R291) -/

/-- A port is one of its direction in its plane. -/
theorem mem_portsOf (x : Nat) : x ∈ portsOf (planeOf x) (dirOf x) := by
  simp only [portsOf, planeOf, dirOf, List.mem_cons, List.not_mem_nil, or_false]
  omega

/-- The ports of a port's direction in a plane have that plane and that direction. -/
theorem of_mem_portsOf {x y pl : Nat} (hy : y ∈ portsOf pl (dirOf x)) : planeOf y = pl ∧ dirOf y = dirOf x := by
  simp only [portsOf, planeOf, dirOf, List.mem_cons, List.not_mem_nil, or_false] at hy ⊢
  omega

theorem lt_of_mem_portsOf {x y pl : Nat} (hpl : pl < 4) (hy : y ∈ portsOf pl (dirOf x)) : y < 48 := by
  simp only [portsOf, dirOf, List.mem_cons, List.not_mem_nil, or_false] at hy
  omega

/-- A packet of version 0 is served where version 0 is (R299). -/
theorem servesPkt_zero {p : Pkt} (hver : p.ver = 0) (s : State) (y : Nat) : s.servesPkt p y = s.serves 0 y := by
  unfold State.servesPkt State.serves
  cases (s.port y).gen8 <;> simp [hver]

/-- Of the ports of its direction in a plane, the only one that serves version 0 is the port of the way. -/
theorem WayOut.serves_iff {s : State} {x phys y pl : Nat} (h : WayOut s x phys) (hpl : pl < 4) (hy : y ∈ portsOf pl (dirOf x)) :
    s.serves 0 y = true ↔ y = x := by
  obtain ⟨-, hserves, -, -, hothers, -⟩ := h
  refine ⟨fun hyes => ?_, fun heq => heq ▸ hserves⟩
  by_contra hne
  have hno := hothers y (lt_of_mem_portsOf hpl hy) (of_mem_portsOf hy).2 hne
  exact Bool.false_ne_true (hno.symm.trans hyes)

theorem WayOut.filter_portsOf {s : State} {x phys : Nat} {p : Pkt} (h : WayOut s x phys) (hver : p.ver = 0) :
    ((portsOf (planeOf x) (dirOf x)).filter fun y => s.servesPkt p y) = [x] := by
  have hx : x < 48 := h.1
  have hserves : ∀ y ∈ portsOf (planeOf x) (dirOf x), s.servesPkt p y = decide (y = x) := by
    intro y hy
    rw [servesPkt_zero hver, Bool.eq_iff_iff, h.serves_iff (by unfold planeOf; omega) hy, decide_eq_true_iff]
  rw [List.filter_congr hserves]
  have hparity : x = 12 * planeOf x + 2 * dirOf x ∨ x = 12 * planeOf x + 2 * dirOf x + 1 := by
    unfold planeOf dirOf
    omega
  unfold portsOf
  rcases hparity with h0 | h1
  · rw [← h0]
    simp
  · rw [← h1]
    simp [show 12 * planeOf x + 2 * dirOf x ≠ x by omega]

/-- A packet that starts here takes the plane of its way (R291). -/
theorem WayOut.sourcePlane {s : State} {x : Nat} {p : Pkt} (h : WayOut s x p.dphys) (hver : p.ver = 0) : sourcePlane s p = planeOf x := by
  have hx : x < 48 := h.1
  obtain ⟨-, hserves, -, hroute, -⟩ := id h
  unfold Machine.sourcePlane
  rw [hroute]
  dsimp only
  generalize (p.dphys % 4 + p.tag % 4) % 4 = first
  have hsome : (((rangeFrom 0 4).map fun i => (first + i) % 4).find?
      fun pl => (portsOf pl (dirOf x)).any fun y => s.servesPkt p y).isSome = true := by
    rw [List.find?_isSome]
    refine ⟨planeOf x, List.mem_map.mpr ⟨(planeOf x + 3 * first) % 4, (mem_rangeFrom ..).mpr ⟨Nat.zero_le _, by omega⟩, ?_⟩, ?_⟩
    · unfold planeOf
      omega
    · exact List.any_eq_true.mpr ⟨x, mem_portsOf x, by rw [servesPkt_zero hver]; exact hserves⟩
  obtain ⟨pl, hpl⟩ := Option.isSome_iff_exists.mp hsome
  rw [hpl]
  obtain ⟨i, -, rfl⟩ := List.mem_map.mp (List.mem_of_find?_eq_some hpl)
  have hserved : ((portsOf ((first + i) % 4) (dirOf x)).any fun y => s.servesPkt p y) = true := by simpa using List.find?_some hpl
  obtain ⟨y, hy, hyes⟩ := List.any_eq_true.mp hserved
  rw [servesPkt_zero hver, h.serves_iff (Nat.mod_lt _ (by decide)) hy] at hyes
  exact (of_mem_portsOf hy).1.symm.trans (congrArg planeOf hyes)

/-- A packet takes the port of its way, and no detour (R290, R291). -/
theorem WayOut.nextHop {s : State} {x : Nat} {p : Pkt} (h : WayOut s x p.dphys) (hver : p.ver = 0) (hplane : p.plane = planeOf x)
    (hhops : p.hops < 63) (arr : Option Nat) : nextHop s arr p = (s, .go x false) := by
  obtain ⟨-, -, -, hroute, -⟩ := id h
  simp only [Machine.nextHop, hroute]
  rw [if_neg (by omega), hplane, h.filter_portsOf hver]
  rfl

/-! ### States with the same way -/

/-- A way out stays where the routes and the power state do, and a port changes in no more than what arriving flits change. -/
theorem WayOut.keeps {s u : State} {x phys : Nat} (h : WayOut s x phys) (hroute : routeDir u.node phys = routeDir s.node phys)
    (hpower : u.power = s.power) (hports : ∀ y, ∃ last wait, u.port y = { s.port y with rxLast := last, rxWait := wait }) : WayOut u x phys := by
  have hserves : ∀ y, u.serves 0 y = s.serves 0 y := by
    intro y
    obtain ⟨last, wait, hy⟩ := hports y
    have hgen : (u.port y).gen8 = (s.port y).gen8 := by rw [hy]; rfl
    unfold State.serves
    rw [hpower, hgen, hy]
    cases (s.port y).gen8 <;> rfl
  obtain ⟨hx, hyes, hgen, hdir, hothers, hqueue, hused, hunacked⟩ := h
  obtain ⟨last, wait, hport⟩ := hports x
  refine ⟨hx, (hserves x).trans hyes, by rw [hport]; exact hgen, hroute.trans hdir, fun y hy hd hne => (hserves y).trans (hothers y hy hd hne), ?_⟩
  rw [hport]
  exact ⟨hqueue, hused, hunacked⟩

theorem WayOut.of_node {s u : State} {x phys : Nat} (h : WayOut s x phys) (hnode : u.node = s.node) (hpower : u.power = s.power) :
    WayOut u x phys :=
  h.keeps (by rw [hnode]) hpower fun y => ⟨(s.port y).rxLast, (s.port y).rxWait, by rw [State.port, hnode]; rfl⟩

theorem WayOut.noteRefusal {s : State} {x phys : Nat} (h : WayOut s x phys) (cause : Nat) : WayOut (noteRefusal s cause) x phys :=
  h.keeps rfl rfl fun y => ⟨(s.port y).rxLast, (s.port y).rxWait, rfl⟩

/-- A change of a port changes equal nodes alike. -/
theorem modPort_node_congr {s t : State} (h : s.node = t.node) (x : Nat) (f : OPort → OPort) : (s.modPort x f).node = (t.modPort x f).node := by
  simp only [State.modPort, State.modNode, State.port, h]

/-- Flits that arrive note their number on their port, and nothing else of the node (R284). -/
theorem countRx_node (s : State) (x : Nat) (p : Pkt) : (countRx s x p).node =
    (s.modPort x fun o => { o with rxLast := some ((p.fseq + flitsOf p - 1) % 1024), rxWait := none }).node :=
  modPort_node_congr (bump_node s (unitCtr (oportBase x) 2) (flitsOf p)) x fun o =>
    { o with rxLast := some ((p.fseq + flitsOf p - 1) % 1024), rxWait := none }

theorem countRx_port (s : State) (x : Nat) (p : Pkt) (y : Nat) :
    ∃ last wait, (countRx s x p).port y = { s.port y with rxLast := last, rxWait := wait } := by
  rw [State.port, countRx_node]
  by_cases hy : y = x
  · subst hy
    exact ⟨_, _, State.modPort_port ..⟩
  · exact ⟨_, _, State.modPort_port_ne _ _ _ _ hy⟩

theorem WayOut.countRx {s : State} {x phys : Nat} (h : WayOut s x phys) (port : Nat) (p : Pkt) : WayOut (countRx s port p) x phys :=
  h.keeps (by rw [countRx_node]; rfl) ((countRx_le s port p).same .power rfl) (countRx_port s port p)

/-! ### A packet leaves (R280, R282) -/

/-- The only thing queued on a port leaves it where the port may send it. -/
theorem pumpPort_lone {s : State} {x : Nat} {e : Nat × Nat × Out} (hq : (s.port x).queue = [e]) (hu : (s.port x).used = [])
    (ha : (s.port x).unacked = []) (hmay : (s.port x).maySend e = true) : pumpPort x s = leavePort x e s := by
  have hack : ackBack x s = s := by simp [ackBack, ha]
  have hcred : creditBack x e.1 s = s := by simp [creditBack, hu, Tab.get]
  have hready : (s.port x).ready = [e] := by simp [OPort.ready, hq, hmay]
  have hturn : (s.port x).turn = some e := by
    by_cases hctrl : e.1 % 8 = vcCtrl <;> simp [OPort.turn, hready, hctrl, nextVc]
  simp [pumpPort, hq, hack, hcred, drainPort, hturn]

/-- State `u` is `s` after packet `p` has left on port `x`, which gives it its number. -/
def Sends (s u : State) (x : Nat) (p : Pkt) : Prop :=
  (∃ n h, u.out = .pkt x { p with fseq := n } h :: s.out) ∧ u.node.cause = s.node.cause ∧ u.node.refused = s.node.refused

/-- A packet of no more flits than a port has credit for leaves a quiet port at once. -/
theorem WayOut.emitPkt {s : State} {x phys : Nat} {p : Pkt} (h : WayOut s x phys) (hcls : p.cls < 8) (hctrl : p.cls ≠ vcCtrl)
    (hflits : flitsOf p ≤ 24) : Sends s (emitPkt s x p) x p := by
  obtain ⟨-, hserves, -, -, -, hqueue, hused, hunacked⟩ := h
  have hopen : 3 ≤ (s.port x).st := by
    simp only [State.serves, Bool.and_eq_true, decide_eq_true_eq] at hserves
    exact hserves.1.2
  have hchannel : pktVc p % 8 = p.cls := by
    unfold pktVc vcOf
    omega
  have hcredit : 24 ≤ vcFlits (pktVc p) := by
    unfold vcFlits
    split <;> omega
  have hmay : ∀ o : OPort, o.st = (s.port x).st → o.used = [] → o.unacked = [] → o.maySend (pktVc p, flitsOf p, .pkt x p []) = true := by
    intro o hst hu ha
    have hroom : flitsOf p ≤ o.credit (pktVc p) := by
      rw [OPort.credit, hu]
      exact hflits.trans hcredit
    simp only [OPort.maySend, OPort.kept, hchannel, hst, ha, Bool.and_eq_true, decide_eq_true_eq]
    rw [if_neg hctrl]
    exact ⟨⟨hopen, hroom⟩, show 0 + flitsOf p ≤ 1024 by omega⟩
  unfold Machine.emitPkt emit
  rw [pumpPort_lone (e := (pktVc p, flitsOf p, .pkt x p []))]
  · exact ⟨⟨_, _, rfl⟩, rfl, rfl⟩
  · rw [State.modPort_port, hqueue]
    rfl
  · rw [State.modPort_port]
    exact hused
  · rw [State.modPort_port]
    exact hunacked
  · rw [State.modPort_port]
    exact hmay _ rfl hused hunacked

/-- After counting, a packet leaves as from the state before. -/
theorem Sends.of_counted {s t u : State} {x : Nat} {p : Pkt} (h : Sends t u x p) (hnode : t.node = s.node) (hout : t.out = s.out) :
    Sends s u x p := by
  obtain ⟨⟨n, b, hsent⟩, hcause, hrefused⟩ := h
  exact ⟨⟨n, b, hout ▸ hsent⟩, by rw [hcause, hnode], by rw [hrefused, hnode]⟩

/-- A state that leaves node, outputs and power alone has the way out, and sends as before. -/
theorem WayOut.emitPkt_counted {s t : State} {x phys : Nat} {p : Pkt} (h : WayOut s x phys) (hcount : Le 524288 s t) (hcls : p.cls < 8)
    (hctrl : p.cls ≠ vcCtrl) (hflits : flitsOf p ≤ 24) : Sends s (Machine.emitPkt t x p) x p :=
  have hnode : t.node = s.node := hcount.same .node rfl
  ((h.of_node hnode (hcount.same .power rfl)).emitPkt hcls hctrl hflits).of_counted hnode (hcount.same .out rfl)

/-- The counters of a hop (R392). -/
theorem hopCounts_le (s : State) (x : Nat) (nack detour : Bool) :
    Le 524288 s ((s.when nack fun s => bump s (unitCtr (oportBase x) 6) 1).when detour fun s => bump s (unitCtr (oportBase x) 7) 1) := by
  cases nack <;> cases detour
  · exact Le.refl _ _
  · exact bump_le ..
  · exact bump_le ..
  · exact (bump_le ..).then (bump_le ..) rfl

/-- A packet that is not of a class with a bound per tick leaves on the port of its way with its hop made (R290, R308). -/
theorem WayOut.sendHop {s : State} {x phys : Nat} {p : Pkt} (h : WayOut s x phys) (arr : Option Nat) (hcls : p.cls < 8) (hctrl : p.cls ≠ vcCtrl)
    (hflits : flitsOf p ≤ 24) (hfree : arr = none → p.cls = 1) :
    Sends s (sendHop s arr p x false) x (hopPkt s arr p (dirOf x) false) := by
  have hcounts := hopCounts_le s x (p.cls == 1 && p.typ == 3) false
  cases arr with
  | some port => exact h.emitPkt_counted (hcounts.then (bump_le ..) rfl) hcls hctrl hflits
  | none =>
    have hbound : ∀ u, slotBound u (hopPkt s none p (dirOf x) false).cls = none := by
      intro u
      show slotBound u p.cls = none
      rw [hfree rfl]
      unfold slotBound
      split <;> rfl
    show Sends s (originate _ x (hopPkt s none p (dirOf x) false)) x _
    simp only [originate, hbound]
    exact h.emitPkt_counted (hcounts.then (bump_le ..) rfl) hcls hctrl hflits

/-- A packet that starts here, as its source fills in its header (R281, R291). -/
def sourced (s : State) (x : Nat) (p : Pkt) : Pkt :=
  { p with plane := planeOf x, hops := 0, level := 0, dl := false, sphys := s.node.phys, sepoch := s.node.epoch, slog := s.node.logical,
           job := s.job.id }

/-- A packet that starts here is sent on the port that its next hop names. -/
theorem sendPkt_sourced {s : State} {x : Nat} {p : Pkt} (hplane : sourcePlane s { p with level := 0 } = planeOf x)
    (hhop : nextHop s none (sourced s x p) = (s, .go x false)) : sendPkt s p = (sendHop s none (sourced s x p) x false, some x) := by
  unfold sourced at hhop ⊢
  unfold sendPkt
  rw [hplane]
  simp only [hhop]

/-- A response leaves on the port of its way (R281, R295). -/
theorem WayOut.respond {s : State} {x : Nat} {p : Pkt} (h : WayOut s x p.sphys) (hver : p.ver = 0) (typ aux : Nat) (poison : Bool) (data : List Byte)
    (hdata : flitsFor data.length ≤ 24) :
    Sends s (respond s p typ aux poison data) x (hopPkt s none (sourced s x (answerPkt p typ aux poison data)) (dirOf x) false) := by
  have hplane : Machine.sourcePlane s { answerPkt p typ aux poison data with level := 0 } = planeOf x := WayOut.sourcePlane h hver
  have hhop : Machine.nextHop s none (sourced s x (answerPkt p typ aux poison data)) = (s, .go x false) :=
    WayOut.nextHop (p := sourced s x (answerPkt p typ aux poison data)) h hver rfl (by decide : 0 < 63) none
  unfold Machine.respond
  rw [sendPkt_sourced hplane hhop]
  exact h.sendHop none (show 1 < 8 by decide) (show 1 ≠ vcCtrl by decide) hdata fun _ => rfl

/-- What the answer to packet `p` is (R281). -/
def Answers (p q : Pkt) (typ aux : Nat) (poison : Bool) (data : List Byte) : Prop :=
  (q.cls = 1 ∧ q.dphys = p.sphys ∧ q.dlog = p.slog ∧ q.depoch = p.sepoch ∧ q.tag = p.tag) ∧
    q.typ = typ ∧ q.aux = aux ∧ q.poison = poison ∧ q.payload = data

theorem WayOut.respond_left {s : State} {x : Nat} {p : Pkt} (h : WayOut s x p.sphys) (hver : p.ver = 0) (typ aux : Nat) (poison : Bool)
    (data : List Byte) (hdata : flitsFor data.length ≤ 24) :
    LeftLast (Machine.respond s p typ aux poison data) x fun q => Answers p q typ aux poison data := by
  obtain ⟨⟨n, b, hout⟩, -⟩ := h.respond hver typ aux poison data hdata
  exact ⟨_, b, _, hout, ⟨rfl, rfl, rfl, rfl, rfl⟩, rfl, rfl, rfl, rfl⟩

/-- A refused packet is answered by a NACK, and the refusal is noted (R295, R301). -/
theorem WayOut.nackPkt {s : State} {x : Nat} {p : Pkt} (h : WayOut s x p.sphys) (hver : p.ver = 0) (cause : Nat) :
    (nackPkt s p cause []).node.cause = cause ∧ (nackPkt s p cause []).node.refused = min 0xFFFF (s.node.refused + 1) ∧
    LeftLast (nackPkt s p cause []) x fun q => Answers p q 3 cause false [] := by
  have hway := h.noteRefusal cause
  obtain ⟨-, hcause, hrefused⟩ := hway.respond hver 3 cause false [] (by decide)
  exact ⟨hcause, hrefused, hway.respond_left hver 3 cause false [] (by decide)⟩

/-! ### FLIT_FORWARD (R283, R290–R292) -/

/-- A packet for another node leaves on the port of its way (R283). -/
theorem flitForward_sends {s : State} {port x : Nat} {p : Pkt} (htakes : s.takes port p = true) (hother : p.dphys ≠ s.node.phys) (hver : p.ver = 0)
    (hplane : p.plane = planeOf x) (hway : WayOut s x p.dphys) (hhops : p.hops < 63) (hflits : flitsOf p ≤ 24) (hctrl : p.cls ≠ vcCtrl)
    (hcls : p.cls < 8) :
    Sends (countRx s port p) (doFlitForward port p s) x (hopPkt (countRx s port p) (some port) p (dirOf x) false) := by
  have hway' := hway.countRx port p
  simp only [doFlitForward]
  rw [if_neg (by simp [htakes, hother]), hway'.nextHop hver hplane hhops]
  exact hway'.sendHop (some port) hcls hctrl hflits (fun h => nomatch h)

/-- A packet for which the pod table gives no way is refused (R290, R292). -/
theorem flitForward_unreachable {s : State} {port : Nat} {p : Pkt} (htakes : s.takes port p = true) (hother : p.dphys ≠ s.node.phys)
    (hroute : routeDir s.node p.dphys = none) : doFlitForward port p s = nackPkt (countRx s port p) p mcUnreachable [] := by
  have hroute' : routeDir (countRx s port p).node p.dphys = none := by
    rw [countRx_node]
    exact hroute
  simp only [doFlitForward]
  rw [if_neg (by simp [htakes, hother])]
  simp only [nextHop, hroute']

end Sys2Proof.Machine
end

section
/-!
PROOFS. The statement on the events of an optical port and on packets for another node (R275–R284, R290–R292).
-/

namespace Sys2Proof.Machine
open Sys2Proof

/-- Settles O39: the events of an optical port one by one, and a packet for another node by its route. -/
theorem opticalPorts : Obligations.OpticalPorts := by
  unfold Obligations.OpticalPorts
  refine ⟨fun x s (hx : x < Config.ports) => ⟨fun hst hlaser hwave hop tx rx => ⟨?fails, ?wide, ?narrow⟩,
    fun hst hwave hop g phys pp fp hphys hpp => ⟨?opens, ?holds⟩,
    ?linkdown, ?linkIdle, ?lock, ?lockIdle, ?laser, ?laserIdle, fun hst fseq hseq => ⟨?replay, ?asks, ?discards, ?trains⟩, ?wave⟩,
    fun port x p s (hport : port < Config.ports) hplane htakes hother hver => ⟨?forward, ?unreachable⟩⟩
  case fails =>
    intro hfew
    refine .of_eq (require_of (decide_eq_true hx)) ?_
    rw [portTrainingDone_fails hst hlaser hwave hop hfew]
    have hup : (s.port x).st ≠ 0 := by omega
    have hlink := portDown_link downTraining hup
    exact ⟨congrArg OPort.st hlink, congrArg OPort.txWave hlink, congrArg OPort.rxWave hlink, portDown_last _ hup⟩
  case wide =>
    intro ht hr
    refine .of_eq (require_of (decide_eq_true hx)) ?_
    obtain ⟨v, hport, hv, hdone⟩ := portTrainingDone_trains hst hlaser hwave hop rfl rfl (ht.symm ▸ (by decide : 7 ≤ 8))
      (hr.symm ▸ (by decide : 7 ≤ 8))
    have hlink := (sendControl_sameLinks v x (.peerid x ⟨false, s.node.phys, x, Config.fingerprint⟩)).port x
    rw [hdone]
    rw [hport] at hlink
    rw [narrowEvent, if_neg (by omega)] at hv
    refine ⟨(congrArg OPort.st hlink).trans hst, congrArg OPort.txWave hlink, congrArg OPort.rxWave hlink, ?_, ?_⟩ <;> rw [hv] <;> rfl
  case narrow =>
    intro ht hr
    refine .of_eq (require_of (decide_eq_true hx)) ?_
    obtain ⟨v, hport, hv, hdone⟩ := portTrainingDone_trains hst hlaser hwave hop rfl rfl ht.ge hr
    have hlink := (sendControl_sameLinks v x (.peerid x ⟨false, s.node.phys, x, Config.fingerprint⟩)).port x
    rw [hdone]
    rw [hport] at hlink
    rw [narrowEvent, if_pos (.inl ht)] at hv
    refine ⟨congrArg OPort.txWave hlink, congrArg OPort.rxWave hlink, ?_⟩
    dsimp only
    rw [((sendControl_le v x _).same .events rfl).1, hv, logStored_last, ht]
  case opens =>
    intro hpeer hqueue
    refine .of_eq (require_of (by rw [decide_eq_true hx, decide_eq_true hphys, decide_eq_true hpp]; rfl)) ?_
    rw [peerid_opens (p := ⟨g, phys, pp, fp⟩) hst hwave hop hpeer hqueue, openPort, State.modPort_port, State.modPort_port]
    exact ⟨rfl, rfl, rfl, rfl, rfl⟩
  case holds =>
    intro hpeer
    refine .of_eq (require_of (by rw [decide_eq_true hx, decide_eq_true hphys, decide_eq_true hpp]; rfl)) ?_
    obtain ⟨hlink, hlast⟩ := peerid_holds (p := ⟨g, phys, pp, fp⟩) hst hwave hop hpeer
    exact ⟨congrArg OPort.st hlink, congrArg OPort.recv hlink, (congrArg OPort.peer hlink :), hlast⟩
  case linkdown =>
    intro hst
    have hlink := portDown_link downLink hst
    exact .of_eq (require_of (decide_eq_true hx))
      ⟨congrArg OPort.st hlink, congrArg OPort.txWave hlink, congrArg OPort.rxWave hlink, portDown_last _ hst⟩
  case linkIdle => exact fun hst => (require_of (decide_eq_true hx)).trans (congrArg Host.Outcome.next (portDown_idle _ hst))
  case lock =>
    intro hst
    refine .of_eq (require_of (decide_eq_true hx)) ?_
    have hlink := trainPort_link s x
    rw [doPortLossOfLock, if_neg (by omega)]
    exact ⟨congrArg OPort.st hlink, congrArg OPort.txWave hlink, congrArg OPort.rxWave hlink, congrArg OPort.recv hlink,
      (congrArg OPort.peer hlink :)⟩
  case lockIdle => exact fun hst => (require_of (decide_eq_true hx)).trans (congrArg Host.Outcome.next (if_pos hst))
  case laser => exact fun hlaser => .of_eq (require_of (decide_eq_true hx)) (laserFailure_down hlaser)
  case laserIdle => exact fun hlaser => (require_of (decide_eq_true hx)).trans (congrArg Host.Outcome.next (if_pos hlaser))
  case replay => exact .of_eq (require_of (by rw [decide_eq_true hx, decide_eq_true hseq]; rfl)) (flitReplay_resends hst fseq)
  case asks =>
    intro hwait hfails fec
    refine .of_eq (require_of (by rw [decide_eq_true hx, decide_eq_true hseq]; rfl)) ?_
    obtain ⟨hlink, hout⟩ := flitCheckFailure_asks hst hwait hfails fseq fec
    exact ⟨congrArg OPort.rxWait hlink, congrArg OPort.flitFails hlink, hout, congrArg OPort.fecUnc hlink⟩
  case discards =>
    exact fun w hwait hne => .of_eq (require_of (by rw [decide_eq_true hx, decide_eq_true hseq]; rfl)) (flitCheckFailure_discards hst hwait hne)
  case trains =>
    intro hwait hfails hsame
    have hlink := flitCheckFailure_trains hst hwait hfails hsame
    exact .of_eq (require_of (by rw [decide_eq_true hx, decide_eq_true hseq]; rfl))
      ⟨congrArg OPort.st hlink, congrArg OPort.txWave hlink, congrArg OPort.rxWait hlink⟩
  case wave =>
    intro hst w i hi
    refine .of_eq (require_of (decide_eq_true hx)) ?_
    obtain ⟨hlit, hdark⟩ := waveErrorWindow_windowed hst hi w
    refine ⟨fun hon => ?_, hdark⟩
    obtain ⟨hcount, hthird⟩ := hlit hon
    exact ⟨hcount, fun hover htwo => hthird (by rw [OPort.overNow, if_pos hover, htwo])⟩
  case forward =>
    intro hway hsame hhops hflits hctrl hcls
    refine .of_eq (require_of (by rw [decide_eq_true hport, decide_eq_true hplane]; rfl)) ?_
    obtain ⟨⟨n, h, hout⟩, -⟩ := flitForward_sends htakes hother hver (hplane.trans hsame.symm) hway hhops hflits hctrl hcls
    exact ⟨_, h, _, hout, rfl, rfl, rfl, rfl, rfl, rfl, rfl, rfl, rfl, rfl, rfl, rfl⟩
  case unreachable =>
    intro hroute hway
    refine .of_eq (require_of (by rw [decide_eq_true hport, decide_eq_true hplane]; rfl)) ?_
    rw [flitForward_unreachable htakes hother hroute]
    obtain ⟨hcause, hrefused, q, h, rest, hout, ⟨hcls, hdst, -, -, htag⟩, htyp, haux, -, -⟩ := (hway.countRx port p).nackPkt hver mcUnreachable
    refine ⟨hrefused.trans ?_, hcause, q, h, rest, hout, hcls, htyp, haux, hdst, htag⟩
    rw [countRx_node]
    rfl

end Sys2Proof.Machine
end

section
/-!
PROOFS. Reads and writes of the pool within one codeword and one line (R214, R217): the bytes of a plain codeword, and bytes that wait in the
merging buffer.
-/

namespace Sys2Proof.Machine
open Sys2Proof

/-! ### The mask of a range of bytes -/

/-- A number made of one bit for each place of a range that meets a condition has those bits above the bits that it had. -/
theorem testBit_foldl_pow (P : Nat → Prop) [DecidablePred P] (n k acc j : Nat) (hacc : acc < 2 ^ k) :
    ((rangeFrom k n).foldl (fun a i => if P i then a + 2 ^ i else a) acc).testBit j =
      (acc.testBit j || decide (k ≤ j ∧ j < k + n ∧ P j)) := by
  induction n generalizing k acc with
  | zero =>
    rw [decide_eq_false (by omega), Bool.or_false]
    rfl
  | succ n ih =>
    have hstep : (if P k then acc + 2 ^ k else acc) < 2 ^ (k + 1) := by
      rw [pow_succ]
      split <;> omega
    have hbit : (if P k then acc + 2 ^ k else acc).testBit j = (acc.testBit j || decide (j = k ∧ P k)) := by
      split
      · have hor := Nat.two_pow_add_eq_or_of_lt hacc 1
        rw [mul_one] at hor
        rw [add_comm, hor, Nat.testBit_or, Nat.testBit_two_pow, Bool.or_comm]
        simp [*, eq_comm]
      · simp [*]
    rw [show rangeFrom k (n + 1) = k :: rangeFrom (k + 1) n from rfl, List.foldl_cons, ih (k + 1) _ hstep, hbit, Bool.or_assoc]
    congr 1
    rw [Bool.eq_iff_iff]
    simp only [Bool.or_eq_true, decide_eq_true_eq]
    constructor
    · rintro (⟨rfl, h⟩ | ⟨h₁, h₂, h₃⟩)
      · exact ⟨le_rfl, by omega, h⟩
      · exact ⟨by omega, by omega, h₃⟩
    · rintro ⟨h₁, h₂, h₃⟩
      rcases Nat.eq_or_lt_of_le h₁ with rfl | hlt
      · exact .inl ⟨rfl, h₃⟩
      · exact .inr ⟨hlt, by omega, h₃⟩

/-- The mask of a range of bytes has the bits of the bytes of the line that the range covers. -/
theorem getLsbD_lineMask (line addr n : Nat) {i : Nat} (hi : i < 128) :
    (lineMask line addr n).getLsbD i = decide (addr ≤ 128 * line + i ∧ 128 * line + i < addr + n) := by
  have hall : maskBits 128 (2 ^ 128 - 1) = rangeFrom 0 128 := by decide
  rw [lineMask, hall, BitVec.getLsbD_ofNat, decide_eq_true hi, Bool.true_and,
    testBit_foldl_pow (fun i => addr ≤ 128 * line + i ∧ 128 * line + i < addr + n) 128 0 0 i (by decide)]
  simp [hi]

/-- A range of bytes within a line, of one byte or more but fewer than all, has a mask that is neither empty nor whole. -/
theorem lineMask_part {addr n : Nat} (hsome : 1 ≤ n) (hfits : addr % 128 + n ≤ 128) (hpart : n < 128) :
    lineMask (addr / 128) addr n ≠ 0 ∧ lineMask (addr / 128) addr n ≠ BitVec.allOnes 128 := by
  constructor
  · intro hzero
    have hbit := congrArg (fun m => BitVec.getLsbD m (addr % 128)) hzero
    rw [getLsbD_lineMask _ _ _ (by omega), decide_eq_true (by omega), show BitVec.getLsbD (0 : BitVec 128) (addr % 128) = false from
      BitVec.getLsbD_zero] at hbit
    exact Bool.false_ne_true hbit.symm
  · intro hall
    have hones : ∀ i, i < 128 → addr ≤ 128 * (addr / 128) + i ∧ 128 * (addr / 128) + i < addr + n := by
      intro i hi
      have hbit := getLsbD_lineMask (addr / 128) addr n hi
      rw [hall, BitVec.getLsbD_allOnes] at hbit
      exact of_decide_eq_true (hbit.symm.trans (decide_eq_true hi))
    have hfirst := hones 0 (by decide)
    have hlast := hones 127 (by decide)
    omega

/-! ### A read of bytes of a plain codeword (R214) -/

theorem Memory.drop_bytes (t : Tab Byte) (k a n : Nat) : (Memory.bytes t a (k + n)).drop k = Memory.bytes t (a + k) n := by
  induction k generalizing a with
  | zero => rw [Nat.zero_add]; rfl
  | succ k ih =>
    rw [show k + 1 + n = k + n + 1 by omega]
    exact (ih (a + 1)).trans (by rw [Nat.add_right_comm, Nat.add_assoc])

theorem Memory.take_bytes (t : Tab Byte) (a n m : Nat) : (Memory.bytes t a (n + m)).take n = Memory.bytes t a n := by
  induction n generalizing a with
  | zero => rw [List.take_zero]; rfl
  | succ n ih =>
    rw [show n + 1 + m = n + m + 1 by omega]
    exact congrArg _ (ih (a + 1))

/-- Bytes within a range of bytes. -/
theorem Memory.bytes_within (t : Tab Byte) (a : Nat) {k n m : Nat} (h : k + n ≤ m) :
    ((Memory.bytes t a m).drop k).take n = Memory.bytes t (a + k) n := by
  obtain ⟨r, rfl⟩ := Nat.exists_eq_add_of_le h
  rw [Nat.add_assoc, Memory.drop_bytes, Memory.take_bytes]

theorem leNat_lt (l : List Byte) : leNat l < 256 ^ l.length := by
  have h := leNat_leBytes l.length (leNat l)
  rw [leBytes_leNat] at h
  rw [h]
  exact Nat.mod_lt _ (by positivity)

theorem toNat_ofNat_of_lt {w n : Nat} (h : n < 2 ^ w) : (BitVec.ofNat w n).toNat = n := (BitVec.toNat_ofNat n w).trans (Nat.mod_eq_of_lt h)

/-- The bytes of a codeword's data are those of the stack. -/
theorem leBytes_data (p : Pool) (cw : Nat) : leBytes 64 (p.data cw).toNat = Memory.bytes p.bytes (64 * cw) 64 := by
  have hlen : (Memory.bytes p.bytes (64 * cw) 64).length = 64 := Memory.length_bytes ..
  have hlt : Memory.le p.bytes (64 * cw) 64 < 2 ^ 512 := by
    have h := leNat_lt (Memory.bytes p.bytes (64 * cw) 64)
    rw [hlen] at h
    exact lt_of_lt_of_eq h (by rw [show 256 = 2 ^ 8 from rfl, ← pow_mul])
  have hbytes := leBytes_leNat (Memory.bytes p.bytes (64 * cw) 64)
  rw [hlen] at hbytes
  have hdata : (p.data cw).toNat = Memory.le p.bytes (64 * cw) 64 := toNat_ofNat_of_lt hlt
  rw [hdata]
  exact hbytes

/-- A line that is not in the cache lacks every sector that is asked for. -/
theorem missing_absent {p line : Nat} {s : State} (hfind : (s.pier p).find line = none) {sectors : BitVec 4} (hsectors : sectors ≠ 0) :
    missing line sectors ((s.pier p).validOf line) ≠ [] := by
  refine missing_ne_nil ?_ _
  rw [Pier.validOf, hfind, show ~~~(0 : BitVec 4) = BitVec.allOnes 4 from rfl, BitVec.and_allOnes]
  exact hsectors

section Plain
variable {s : State} {cw : Nat} (hplain : PlainCw s cw)
include hplain

/-- A fetch of a plain codeword changes no byte of the stacks, even after its line is allocated and counters have counted. -/
theorem fillValue_bytes {v : State} (h : Le 134742048 s v) (inner : Bool) : (fillValue v cw inner).1.pool.bytes = s.pool.bytes := by
  obtain ⟨hserves, -, -, hnone, herr, hpoison⟩ := hplain
  have haccess := h.sameAccess rfl rfl
  have hpool : v.pool = s.pool := h.same .pool rfl
  have hclean : v.pool.decode cw = (.clean, s.pool.data cw, false) := by rw [hpool, Pool.decode_plain herr hpoison]
  have hmoved : (countMoved v (v.chOf cw) 0 64).pool.bytes = s.pool.bytes := by rw [countMoved_pool, hpool]
  have hread : (ctrlRead v cw inner).1.pool.bytes = s.pool.bytes := by
    unfold ctrlRead
    rw [haccess.poolServes, hserves, Bool.not_true, if_neg Bool.false_ne_true, haccess.adderEntry, hnone]
    dsimp only
    rw [stackRead_clean inner (congrArg Prod.fst hclean)]
    cases inner <;> exact hmoved
  exact hread

/-- A read of a plain codeword takes the same course whichever of its sectors it asks for. -/
theorem pierGet_sectors {a b : BitVec 4} (ha : a ≠ 0) (hb : b ≠ 0) : pierGet s cw a = pierGet s cw b := by
  obtain ⟨-, hfind, -⟩ := hplain
  unfold pierGet
  dsimp only
  rw [touchLine_absent hfind, if_neg (missing_absent hfind ha), if_neg (missing_absent hfind hb)]

/-- A read of a plain codeword brings its data, and changes no byte of the stacks. -/
theorem pierGet_plain_sectors {sectors : BitVec 4} (hsectors : sectors ≠ 0) :
    (pierGet s cw sectors).2 = (s.pool.data cw, false) ∧ (pierGet s cw sectors).1.pool.bytes = s.pool.bytes := by
  refine ⟨by rw [pierGet_sectors hplain hsectors (hostSectors_ne_zero cw)]; exact (pierGet_plain hplain).1, ?_⟩
  have hmiss : missing (cw / 2) sectors ((s.pier (s.home (64 * cw))).validOf (cw / 2)) ≠ [] := missing_absent hplain.2.1 hsectors
  have hcounted : Le 134742048 s (bump s (unitCtr (pcacheBase (s.home (64 * cw))) 1) 1) := Le.next (bump_le ..) (by decide) (Le.refl ..)
  unfold pierGet
  dsimp only
  rw [hplain.1, Bool.not_true, if_neg Bool.false_ne_true, touchLine_absent hplain.2.1, if_neg hmiss]
  split
  · exact fillValue_bytes hplain (Le.next (bump_le ..) (by decide) (Le.next (State.takeFree_le ..) (by decide) hcounted)) _
  · dsimp only
    rw [show (prefetchNext (fillCw (fillValue _ _ _).1 _ _ _ _) _ _).pool = _ from
      Eq.trans ((prefetchNext_le ..).same .pool rfl) ((fillCw_le ..).same .pool rfl)]
    exact fillValue_bytes hplain (Le.next (State.takeFree_le ..) (by decide)
      (Le.ite (fun _ => Le.next (allocLine_le ..) (by decide) hcounted) fun _ => hcounted)) _

end Plain

/-- Bytes of one codeword touch that codeword alone. -/
theorem cwsOf_single {a n : Nat} (hsome : 1 ≤ n) (hfits : a % 64 + n ≤ 64) : cwsOf a n = [a / 64] := by
  unfold cwsOf
  rw [if_neg (by omega), show (a + n - 1) / 64 - a / 64 + 1 = 1 by omega]
  rfl

/-- Bytes of one codeword touch one of its sectors at least. -/
theorem cwSectors_ne_zero {a n : Nat} (hsome : 1 ≤ n) (hfits : a % 64 + n ≤ 64) : cwSectors (a / 64) a n ≠ 0 := by
  unfold cwSectors
  have hlow : 64 * (a / 64) < a + n := by omega
  have hhigh : a < 64 * (a / 64) + 64 := by omega
  have htouched : a < 64 * (a / 64) + 32 ∨ 64 * (a / 64) + 32 < a + n := by omega
  rw [decide_eq_true hlow, decide_eq_true hhigh]
  have hbits : ∀ b c : Bool, ∀ k < 2, (b || c) = true → BitVec.ofNat 4 (bitNat (b && true) * 4 ^ k + bitNat (true && c) * (2 * 4 ^ k)) ≠ 0 := by
    decide
  exact hbits _ _ _ (Nat.mod_lt _ (by decide)) (by simpa only [Bool.or_eq_true, decide_eq_true_eq] using htouched)

/-- Bytes of a plain codeword are read as the stack holds them, and no byte changes (R214). -/
theorem readPool_plain {s : State} {a n : Nat} (hsome : 1 ≤ n) (hfits : a % 64 + n ≤ 64) (hplain : PlainCw s (a / 64)) :
    (readPool s a n).2 = (Memory.bytes s.pool.bytes a n, none) ∧ (readPool s a n).1.pool.bytes = s.pool.bytes := by
  obtain ⟨hvalue, hbytes⟩ := pierGet_plain_sectors hplain (cwSectors_ne_zero hsome hfits)
  have hslice := Memory.bytes_within s.pool.bytes (64 * (a / 64)) hfits
  rw [Nat.div_add_mod] at hslice
  unfold readPool
  rw [cwsOf_single hsome hfits]
  simp only [List.foldl_cons, List.foldl_nil]
  rw [hvalue, List.nil_append, leBytes_data, hslice]
  exact ⟨rfl, hbytes⟩

/-! ### A write of bytes of a line (R217, R218) -/

/-- Bytes of one line touch that line alone. -/
theorem linesOf_single {a n : Nat} (hsome : 1 ≤ n) (hfits : a % 128 + n ≤ 128) : linesOf a n = [a / 128] := by
  unfold linesOf
  rw [if_neg (by omega), show (a + n - 1) / 128 - a / 128 + 1 = 1 by omega]
  rfl

/-- The entry that bytes of a line make in the merging buffer (R218). -/
def mergeOf (a : Nat) (bytes : List Byte) : Merge :=
  ⟨a / 128, lineMask (a / 128) a bytes.length, mergeLine (lineMask (a / 128) a bytes.length) 0 (BitVec.ofNat 1024 (leNat bytes * 256 ^ (a % 128)))⟩

/-- Bytes of a part of a line that the buffer takes wait there behind what waited before (R217, R218). -/
theorem writePool_part {s : State} {a : Nat} {bytes : List Byte} (hsome : 1 ≤ bytes.length) (hfits : a % 128 + bytes.length ≤ 128)
    (hpart : bytes.length < 128) (hline : Mergeable s (a / 128))
    (haccepted : writePoison s (a / 128) (lineMask (a / 128) a bytes.length) = none) :
    (writePool s a bytes).2 = none ∧ (writePool s a bytes).1.pool = s.pool ∧
    ((writePool s a bytes).1.pier (s.home a)).merges = (s.pier (s.home a)).merges ++ [mergeOf a bytes] := by
  obtain ⟨hentry, hroom, hfills⟩ := hline
  obtain ⟨hmask, hwhole⟩ := lineMask_part hsome hfits hpart
  have hhome : s.home a = s.home (128 * (a / 128)) := s.home_of_line (by omega)
  unfold writePool
  rw [linesOf_single hsome hfits]
  simp only [List.foldl_cons, List.foldl_nil, Nat.sub_self, Nat.mul_zero, Nat.pow_zero, Nat.div_one]
  rw [pierStore_part haccepted hmask hentry hfills hroom _ hwhole, haccepted, hhome]
  exact ⟨rfl, entered_pool .., entered_merges ..⟩

end Sys2Proof.Machine
end

section
/-!
PROOFS. Requests of other nodes (R288, R294–R296): what arrives at a port, and the answer of a READ, a WRITE and an ATOMIC.
-/

namespace Sys2Proof.Machine
open Sys2Proof

/-! ### A request arrives (R288, R295) -/

/-- Windows and addresses of arriving requests depend on the import table, their refusal on the job too. -/
theorem window_congr {s u : State} (h : u.node.imports = s.node.imports) (w : Nat) : u.window w = s.window w := by
  rw [State.window, State.window, h]

theorem importAddr_congr {s u : State} (h : u.node.imports = s.node.imports) (p : Pkt) : u.importAddr p = s.importAddr p := by
  rw [State.importAddr, State.importAddr, window_congr h]

theorem importCause_congr {s u : State} (h : u.node.imports = s.node.imports) (hjob : u.job = s.job) (p : Pkt) :
    importCause u p = importCause s p := by
  rw [importCause, importCause, window_congr h, hjob]

theorem countRx_imports (s : State) (port : Nat) (p : Pkt) : (countRx s port p).node.imports = s.node.imports := by
  rw [countRx_node]
  rfl

theorem countRx_roleOk (s : State) (port : Nat) (p : Pkt) : (countRx s port p).roleOk p = s.roleOk p := by
  rw [State.roleOk, State.roleOk, countRx_node]
  rfl

section Arrives
variable {s : State} {port : Nat} {p : Pkt} (htakes : s.takes port p = true) (hself : p.dphys = s.node.phys)
include htakes hself

/-- A request under another role is refused with STALE_ROLE (R288). -/
theorem arriveReq_stale (hrole : s.roleOk p = false) : arriveReq port p s = nackPkt (countRx s port p) p mcStaleRole [] := by
  simp only [arriveReq]
  rw [if_neg (by simp [htakes, hself]), countRx_roleOk, hrole]
  rfl

/-- A request that its window refuses is refused with that cause (R295). -/
theorem arriveReq_refused (hrole : s.roleOk p = true) {c : Nat} (hcause : importCause s p = some c) :
    arriveReq port p s = nackPkt (countRx s port p) p c [] := by
  have hcause' : importCause (countRx s port p) p = some c :=
    (importCause_congr (countRx_imports s port p) ((countRx_le s port p).same .job rfl) p).trans hcause
  simp only [arriveReq]
  rw [if_neg (by simp [htakes, hself]), countRx_roleOk, hrole, if_neg (by decide)]
  simp only [serveReq, hcause']

/-- A request that its window takes is applied and answered, at once where the window is not host-coherent (R295, R296). -/
theorem arriveReq_served (hrole : s.roleOk p = true) (hcause : importCause s p = none) (hhc : (s.window (fld p.addr 35 12)).hc = false) :
    arriveReq port p s = answerReq (applyReq (requestTrip (countRx s port p) p) p).1 p (applyReq (requestTrip (countRx s port p) p) p).2 := by
  have hcause' : importCause (countRx s port p) p = none :=
    (importCause_congr (countRx_imports s port p) ((countRx_le s port p).same .job rfl) p).trans hcause
  have hhc' : ((countRx s port p).window (fld p.addr 35 12)).hc = false := by rw [window_congr (countRx_imports s port p), hhc]
  simp only [arriveReq]
  rw [if_neg (by simp [htakes, hself]), countRx_roleOk, hrole, if_neg (by decide)]
  simp only [serveReq, hcause', hhc', Bool.false_and, Bool.false_eq_true, if_false]

end Arrives

/-- What arriving and the trip to the home pier change (R257, R284, R392). -/
theorem arrival_le (s : State) (port : Nat) (p : Pkt) : Le 738725888 s (requestTrip (countRx s port p) p) :=
  Le.next (requestTrip_le ..) (by decide) (Le.next (countRx_le ..) (by decide) (Le.refl ..))

theorem arrival_imports (s : State) (port : Nat) (p : Pkt) : (requestTrip (countRx s port p) p).node.imports = s.node.imports :=
  (congrArg Node.imports ((requestTrip_le _ p).same .node rfl)).trans (countRx_imports s port p)

theorem arrival_window (s : State) (port : Nat) (p : Pkt) (w : Nat) : (requestTrip (countRx s port p) p).window w = s.window w :=
  window_congr (arrival_imports s port p) w

theorem WayOut.arrival {s : State} {x : Nat} {p : Pkt} (h : WayOut s x p.sphys) (port : Nat) :
    WayOut (requestTrip (Machine.countRx s port p) p) x p.sphys :=
  (h.countRx port p).of_node ((requestTrip_le ..).same .node rfl) ((requestTrip_le ..).same .power rfl)

/-! ### Answers (R295, R296) -/

theorem LeftLast.imp {u : State} {x : Nat} {P Q : Pkt → Prop} (h : LeftLast u x P) (hPQ : ∀ q, P q → Q q) : LeftLast u x Q := by
  obtain ⟨q, b, rest, hout, hq⟩ := h
  exact ⟨q, b, rest, hout, hPQ q hq⟩

/-- Data that fit a head flit make a packet of one flit (R280). -/
theorem flitsFor_head {n : Nat} (h : n ≤ 208) : flitsFor n ≤ 24 := by
  rw [flitsFor, Nat.sub_eq_zero_of_le h]
  decide

/-- Answers and refusals leave the pool as it was. -/
theorem respond_pool (s : State) (p : Pkt) (typ aux : Nat) (poison : Bool) (data : List Byte) : (respond s p typ aux poison data).pool = s.pool :=
  (respond_le ..).same .pool rfl

theorem nackPkt_pool (s : State) (p : Pkt) (c : Nat) (data : List Byte) : (nackPkt s p c data).pool = s.pool := (nackPkt_le ..).same .pool rfl

/-- A refused request is answered by a NACK with the cause, and the pool stays as it was (R295). -/
theorem WayOut.refuses {s : State} {x : Nat} {p : Pkt} (h : WayOut s x p.sphys) (hver : p.ver = 0) (port c : Nat) :
    let u := Machine.nackPkt (Machine.countRx s port p) p c []
    u.node.cause = c ∧ u.pool = s.pool ∧ LeftLast u x fun q => Answers p q 3 c false [] := by
  obtain ⟨hcause, -, hleft⟩ := (h.countRx port p).nackPkt hver c
  exact ⟨hcause, (nackPkt_pool ..).trans ((countRx_le s port p).same .pool rfl), hleft⟩

/-! ### What a request does at its home pier (R296) -/

section Read
variable {u : State} {p : Pkt} (htyp : p.typ = 1) (hhc : (u.window (fld p.addr 35 12)).hc = false)
include htyp hhc

/-- A READ of a plain codeword brings the bytes of the pool. -/
theorem applyReq_read (hsome : 1 ≤ p.len) (hfits : u.importAddr p % 64 + p.len ≤ 64) (hplain : PlainCw u (u.importAddr p / 64)) :
    (applyReq u p).2 = { data := Memory.bytes u.pool.bytes (u.importAddr p) p.len } ∧ (applyReq u p).1.pool.bytes = u.pool.bytes ∧
    Le 755794744 u (applyReq u p).1 := by
  obtain ⟨hvalue, hbytes⟩ := readPool_plain hsome hfits hplain
  have happly : applyReq u p = ((readPool u (u.importAddr p) p.len).1,
      { data := (readPool u (u.importAddr p) p.len).2.1, poison := (readPool u (u.importAddr p) p.len).2.2.isSome }) := by
    simp only [applyReq, htyp, hhc, Bool.false_eq_true, if_false]
  rw [happly, hvalue]
  exact ⟨rfl, hbytes, readPool_le ..⟩

end Read

/-- A WRITE of a part of a line waits in the merging buffer of its home pier. -/
theorem applyReq_write {u : State} {p : Pkt} (htyp : p.typ = 2) (hhc : (u.window (fld p.addr 35 12)).hc = false) (hsome : 1 ≤ p.payload.length)
    (hfits : u.importAddr p % 128 + p.payload.length ≤ 128) (hpart : p.payload.length < 128) (hline : Mergeable u (u.importAddr p / 128))
    (haccepted : writePoison u (u.importAddr p / 128) (lineMask (u.importAddr p / 128) (u.importAddr p) p.payload.length) = none) :
    (applyReq u p).2 = {} ∧ (applyReq u p).1.pool = u.pool ∧ ((applyReq u p).1.pier (u.home (u.importAddr p))).merges =
      (u.pier (u.home (u.importAddr p))).merges ++ [mergeOf (u.importAddr p) p.payload] ∧ Le 755794744 u (applyReq u p).1 := by
  obtain ⟨hpoison, hpool, hmerges⟩ := writePool_part hsome hfits hpart hline haccepted
  have happly : applyReq u p = ((writePool u (u.importAddr p) p.payload).1, { poison := (writePool u (u.importAddr p) p.payload).2.isSome }) := by
    simp only [applyReq, htyp, hhc, Bool.false_eq_true, if_false]
  rw [happly, hpoison]
  exact ⟨rfl, hpool, hmerges, writePool_le ..⟩

/-- Operands of one element make one operation. -/
theorem atomicElems_single {u : State} {op : BitVec 8} {a n : Nat} {vals cmps : List Byte} (hvals : vals ≠ [])
    (hlast : vals.length ≤ aSize (aType op)) (hcmps : cmps.length ≤ aSize (aType op)) :
    let x := adderApply u a op (leNat vals) (leNat cmps)
    atomicElems (n + 2) u false op a vals cmps {} =
      (x.1, { data := leBytes (aSize (aType op)) x.2.old, flags := x.2.flags, poison := x.2.poison }) := by
  intro x
  rw [atomicElems]
  dsimp only
  rw [if_neg hvals, List.drop_eq_nil_of_le hlast, List.take_of_length_le hlast, List.take_of_length_le hcmps, atomicElems, if_pos rfl]
  have hflags : ∀ f : EFlags, (0 : EFlags) ||| f = f := fun f => BitVec.zero_or
  have hdata : ∀ l : List Byte, [] ++ l = l := fun l => rfl
  simp only [Bool.false_eq_true, if_false, Bool.false_or, hflags, hdata]
  rfl

/-- An ATOMIC of one element applies its operation to that element. -/
theorem applyReq_atomic {u : State} {p : Pkt} {op : BitVec 8} {sz : Nat} (htyp : p.typ = 3) (hhc : (u.window (fld p.addr 35 12)).hc = false)
    (hop : BitVec.ofNat 8 p.aux = op) (hsz : aSize (aType op) = sz) (hlen : p.payload.length = if p.aux % 16 = 7 then 2 * sz else sz) :
    let x := adderApply u (u.importAddr p) op (leNat (p.payload.take sz)) (leNat (p.payload.drop sz))
    applyReq u p = (x.1, { data := leBytes sz x.2.old, flags := x.2.flags, poison := x.2.poison }) := by
  have hpos : 0 < sz := by
    rcases aSize_cases (aType op) with h | h | h | h <;> omega
  have hn : atomicLen p = sz := by
    unfold atomicLen
    rw [hlen]
    split <;> omega
  have hvals : p.payload.take sz ≠ [] := by
    rw [ne_eq, List.take_eq_nil_iff]
    rintro (h | h)
    · omega
    · rw [h, List.length_nil] at hlen
      split at hlen <;> omega
  have hcmps : (p.payload.drop sz).length ≤ sz := by
    rw [List.length_drop, hlen]
    split <;> omega
  simp only [applyReq, htyp, hhc, hn, hop]
  rw [← hsz] at hvals hcmps ⊢
  exact atomicElems_single (n := 62) hvals (List.length_take_le ..) hcmps

/-! ### The answers -/

section Answered
variable {s : State} {port x : Nat} {p : Pkt} (htakes : s.takes port p = true) (hself : p.dphys = s.node.phys) (hver : p.ver = 0)
  (hway : WayOut s x p.sphys) (hrole : s.roleOk p = true) (hcause : importCause s p = none) (hhc : (s.window (fld p.addr 35 12)).hc = false)
include htakes hself hver hway hrole hcause hhc

/-- A READ of a plain codeword is answered by DATA with the bytes of the pool (R296). -/
theorem arriveReq_read (htyp : p.typ = 1) (hsome : 1 ≤ p.len) (hfits : s.importAddr p % 64 + p.len ≤ 64) (hplain : PlainCw s (s.importAddr p / 64)) :
    (arriveReq port p s).pool.bytes = s.pool.bytes ∧
    LeftLast (arriveReq port p s) x fun q => Answers p q 1 0 false (Memory.bytes s.pool.bytes (s.importAddr p) p.len) := by
  have harrival := arrival_le s port p
  have haddr := importAddr_congr (arrival_imports s port p) p
  have hway' := hway.arrival port
  have hhc' := (congrArg Window.hc (arrival_window s port p (fld p.addr 35 12))).trans hhc
  have hplain' := harrival.plainCw (by decide) hplain
  rw [arriveReq_served htakes hself hrole hcause hhc]
  generalize requestTrip (countRx s port p) p = t at *
  have hpool : t.pool = s.pool := harrival.same .pool rfl
  rw [← haddr] at hfits hplain'
  obtain ⟨hvalue, hbytes, hle⟩ := applyReq_read htyp hhc' hsome hfits hplain'
  have hread := hway'.of_node (hle.same .node rfl) (hle.same .power rfl)
  rw [hvalue, answerReq, if_pos htyp, haddr, hpool]
  refine ⟨?_, hread.respond_left hver _ _ _ _ (flitsFor_head (by rw [Memory.length_bytes]; omega))⟩
  rw [respond_pool, hbytes, hpool]

/-- A WRITE of a part of a line that the buffer takes waits there, and is answered by ACK (R217, R296). -/
theorem arriveReq_write (htyp : p.typ = 2) (hsome : 1 ≤ p.payload.length) (hfits : s.importAddr p % 128 + p.payload.length ≤ 128)
    (hpart : p.payload.length < 128) (hline : Mergeable s (s.importAddr p / 128))
    (haccepted : writePoison s (s.importAddr p / 128) (lineMask (s.importAddr p / 128) (s.importAddr p) p.payload.length) = none) :
    ((arriveReq port p s).pier (s.home (s.importAddr p))).merges =
      (s.pier (s.home (s.importAddr p))).merges ++ [mergeOf (s.importAddr p) p.payload] ∧
    (arriveReq port p s).pool = s.pool ∧ LeftLast (arriveReq port p s) x fun q => Answers p q 2 0 false [] := by
  have harrival := arrival_le s port p
  have haddr := importAddr_congr (arrival_imports s port p) p
  have hway' := hway.arrival port
  have hhc' := (congrArg Window.hc (arrival_window s port p (fld p.addr 35 12))).trans hhc
  rw [arriveReq_served htakes hself hrole hcause hhc]
  generalize requestTrip (countRx s port p) p = t at *
  obtain ⟨hpool, hchans, hpiers⟩ := harrival.memory (by decide)
  obtain ⟨haccess, hpier⟩ := harrival.homePier (by decide)
  have hline' : Mergeable t (s.importAddr p / 128) := by rw [Mergeable, haccess.home, hpier]; exact hline
  rw [← writePoison_congr hpool hchans hpiers] at haccepted
  rw [← haddr] at hfits hline' haccepted
  obtain ⟨hvalue, hwritten, hmerges, hle⟩ := applyReq_write htyp hhc' hsome hfits hpart hline' haccepted
  have hread := hway'.of_node (hle.same .node rfl) (hle.same .power rfl)
  rw [haddr, haccess.home, hpier] at hmerges
  have hanswer : answerReq (applyReq t p).1 p (applyReq t p).2 = respond (applyReq t p).1 p 2 0 false [] := by
    rw [hvalue, answerReq, htyp]
    rfl
  rw [hanswer, (respond_le ..).pier rfl]
  exact ⟨hmerges, (respond_pool ..).trans (hwritten.trans hpool), hread.respond_left hver _ _ _ _ (by decide)⟩

/-- An ATOMIC on a resident codeword acts on its element in the adder store, and is answered with the old value (R230, R296). -/
theorem arriveReq_atomic {e : AdderEntry} {op : BitVec 8} {sz old : Nat} {v : Nat × EFlags} (htyp : p.typ = 3) (hop : BitVec.ofNat 8 p.aux = op)
    (hsz : aSize (aType op) = sz) (hlen : p.payload.length = if p.aux % 16 = 7 then 2 * sz else sz)
    (hserves : s.poolServes (s.importAddr p / 64) = true) (he : s.adderEntry (s.importAddr p / 64) = some e)
    (hentry : (s.pier (s.home (s.importAddr p))).entry (s.importAddr p / 128) = none)
    (hold : fld e.data.toNat (8 * (s.importAddr p % 64)) (8 * sz) = old)
    (hv : adderValue op old (leNat (p.payload.take sz)) (leNat (p.payload.drop sz)) = v) :
    (arriveReq port p s).pool = s.pool ∧ (arriveReq port p s).adderEntry (s.importAddr p / 64) =
      some ⟨s.importAddr p / 64, putElem e.data (8 * (s.importAddr p % 64)) (8 * sz) (v.1 % 2 ^ (8 * sz))⟩ ∧
    LeftLast (arriveReq port p s) x fun q => Answers p q (if v.2 = 0 then 1 else 2) v.2.toNat false (leBytes sz old) := by
  have harrival := arrival_le s port p
  have haddr := importAddr_congr (arrival_imports s port p) p
  have hway' := hway.arrival port
  have hhc' := (congrArg Window.hc (arrival_window s port p (fld p.addr 35 12))).trans hhc
  rw [arriveReq_served htakes hself hrole hcause hhc]
  generalize requestTrip (countRx s port p) p = t at *
  obtain ⟨haccess, hpier⟩ := harrival.homePier (by decide)
  rw [← haccess.poolServes] at hserves
  rw [← haccess.adderEntry] at he
  rw [← haccess.home, ← hpier] at hentry
  have hresident := adderApply_resident hserves he hentry op (leNat (p.payload.take sz)) (leNat (p.payload.drop sz))
  have hle := adderApply_le t (s.importAddr p) op (leNat (p.payload.take sz)) (leNat (p.payload.drop sz))
  have happly := applyReq_atomic htyp hhc' hop hsz hlen
  simp only [hsz, hold, hv] at hresident
  rw [haddr] at happly
  generalize adderApply t (s.importAddr p) op (leNat (p.payload.take sz)) (leNat (p.payload.drop sz)) = w at happly hresident hle
  obtain ⟨hanswer, -, hpool, hplace⟩ := hresident
  have hread := hway'.of_node (hle.same .node rfl) (hle.same .power rfl)
  have hsend : answerReq (applyReq t p).1 p (applyReq t p).2 = respond w.1 p (if v.2 = 0 then 1 else 2) v.2.toNat false (leBytes sz old) := by
    rw [happly, hanswer]
    unfold answerReq
    rw [htyp]
    by_cases hflags : v.2 = 0#16 <;> simp [hflags]
  have hsmall : (leBytes sz old).length ≤ 208 := by
    rw [length_leBytes]
    rcases aSize_cases (aType op) with h | h | h | h <;> omega
  rw [hsend, ((respond_le ..).sameAccess rfl rfl).adderEntry, hplace, respond_pool, hpool]
  exact ⟨harrival.same .pool rfl, rfl, hread.respond_left hver _ _ _ _ (flitsFor_head hsmall)⟩

end Answered

/-! ### The statement -/

/-- The three requests take one course: what holds of it holds of each. -/
theorem completes_arriveReq {port : Nat} {p : Pkt} {s : State} {P : State → Prop} (hport : port < Config.ports) (hcls : p.cls = 0)
    (h : P (arriveReq port p s)) : (p.typ = 1 → Completes (.remoteRead port p) s P) ∧ (p.typ = 2 → Completes (.remoteWrite port p) s P) ∧
      (p.typ = 3 → Completes (.remoteAtomic port p) s P) := by
  refine ⟨fun htyp => ?_, fun htyp => ?_, fun htyp => ?_⟩ <;>
    exact .of_eq (require_of (by rw [decide_eq_true hport, hcls, htyp]; rfl)) h

/-- Settles O41: a request is refused by its role or its window, else it is answered with what it does at its home pier. -/
theorem remoteRequests : Obligations.RemoteRequests := by
  unfold Obligations.RemoteRequests
  refine fun port x p s (hport : port < Config.ports) hcls htakes hself hver hway => ⟨fun hrole => ?stale, fun c hrole hcause => ?refused,
    fun hrole hcause hhc => ⟨fun htyp hsome hfits hplain => ?read, fun htyp hsome hfits hpart hline haccepted => ?write,
      fun e htyp haligned hlen hserves he hentry => ?atomic⟩⟩
  case stale =>
    refine completes_arriveReq hport hcls ?_
    obtain ⟨hcause, hpool, hleft⟩ := hway.refuses hver port mcStaleRole
    rw [arriveReq_stale htakes hself hrole]
    exact ⟨hcause, hpool, hleft.imp fun q ⟨⟨h₁, h₂, h₃, h₄, h₅⟩, htyp, haux, _, _⟩ => ⟨h₁, h₂, h₃, h₄, h₅, htyp, haux⟩⟩
  case refused =>
    refine completes_arriveReq hport hcls ?_
    obtain ⟨hnoted, hpool, hleft⟩ := hway.refuses hver port c
    rw [arriveReq_refused htakes hself hrole hcause]
    exact ⟨hnoted, hpool, hleft.imp fun q ⟨⟨h₁, h₂, h₃, h₄, h₅⟩, htyp, haux, _, _⟩ => ⟨h₁, h₂, h₃, h₄, h₅, htyp, haux⟩⟩
  case read =>
    obtain ⟨hbytes, hleft⟩ := arriveReq_read htakes hself hver hway hrole hcause hhc htyp hsome hfits hplain
    exact (completes_arriveReq hport hcls ⟨hbytes, hleft.imp fun q ⟨⟨h₁, h₂, h₃, h₄, h₅⟩, htyp, _, hpoison, hdata⟩ =>
      ⟨h₁, h₂, h₃, h₄, h₅, htyp, hpoison, hdata⟩⟩).1 htyp
  case write =>
    obtain ⟨hmerges, hpool, hleft⟩ := arriveReq_write htakes hself hver hway hrole hcause hhc htyp hsome hfits hpart hline haccepted
    exact (completes_arriveReq hport hcls ⟨hmerges, hpool, hleft.imp fun q ⟨⟨h₁, h₂, h₃, h₄, h₅⟩, htyp, haux, _, hdata⟩ =>
      ⟨h₁, h₂, h₃, h₄, h₅, htyp, haux, hdata⟩⟩).2.1 htyp
  case atomic =>
    obtain ⟨hpool, hplace, hleft⟩ := arriveReq_atomic htakes hself hver hway hrole hcause hhc htyp rfl rfl hlen hserves he hentry rfl rfl
    refine (completes_arriveReq hport hcls ⟨hpool, fun y hy => ?_, hleft.imp fun q ⟨⟨h₁, h₂, h₃, h₄, h₅⟩, htyp, haux, _, hdata⟩ =>
      ⟨h₁, h₂, h₃, h₄, h₅, hdata, htyp, haux⟩⟩).2.2 htyp
    obtain rfl := Option.some.inj (hplace.symm.trans hy)
    have hlt : ∀ n, n % 2 ^ (8 * aSize (aType (BitVec.ofNat 8 p.aux))) < 2 ^ (8 * aSize (aType (BitVec.ofNat 8 p.aux))) := fun n =>
      Nat.mod_lt n (Nat.two_pow_pos _)
    dsimp only
    rw [putElem_toNat _ (hlt _) (aligned_fits haligned)]
    exact fld_putBits_self (hlt _) ..

end Sys2Proof.Machine
end

section
/-!
PROOFS. Events of a job and the JOB commands (R307, R310, R314, R316–R319, R326).
-/

namespace Sys2Proof.Machine
open Sys2Proof

/-! ### Floods and failures (R307, R316, R319) -/

theorem countCtrl_job (s : State) (x : Nat) : (countCtrl s x).job = s.job := (countCtrl_le s x).same .job rfl

theorem countCtrl_tick (s : State) (x : Nat) : (countCtrl s x).tick = s.tick := (countCtrl_le s x).same .tick rfl

theorem sendCtrl_sameLinks (s : State) (x : Nat) (o : Out) : SameLinks s (sendCtrl s x o) :=
  ((SameLinks.refl s).le (bump_le ..) rfl).trans (emit_sameLinks ..)

theorem countCtrl_phys (s : State) (x : Nat) : (countCtrl s x).node.phys = s.node.phys := by
  have hnode : (countCtrl s x).node = _ := modPort_node_congr (bump_node s (unitCtr (oportBase x) 2) 1) x fun o =>
    { o with rxLast := some ((s.port x).rxNext % 1024), rxWait := none }
  rw [hnode]
  rfl

theorem floodOut_tick (s : State) (bound origin kind cause : Nat) : (floodOut s bound origin kind cause).tick = s.tick :=
  (floodOut_le ..).same .tick rfl

/-- A FLOOD that leaves on ports changes no more of them than sending does. -/
theorem floodOut_sameLinks (s : State) (bound origin kind cause : Nat) : SameLinks s (floodOut s bound origin kind cause) :=
  ((SameLinks.refl s).le (State.modJob_le ..) rfl).forEach (fun x u => sendCtrl_sameLinks u x _) _

/-- A FLOOD with operands in their ranges has its effect. -/
theorem flood_next {port bound origin kind cause job : Nat} (hport : port < Config.ports) (hbound : bound < 2 ^ 32) (horigin : origin < 2 ^ 20)
    (hkind : (kind == 1 || kind == 2) = true) (hcause : cause < 256) (hjob : job < 65536) (s : State) :
    exec (.flood port bound origin kind cause job) s = .next (doFlood port bound origin kind cause job s) :=
  require_of (by
    rw [decide_eq_true hport, decide_eq_true hbound, decide_eq_true horigin, hkind, decide_eq_true hcause, decide_eq_true hjob]
    rfl)

section Flood
variable {s : State} {port : Nat} (hport : 2 ≤ (s.port port).st)
include hport

/-- A FLOOD that was seen before is not acted on (R307). -/
theorem doFlood_seen {bound origin : Nat} (hseen : s.job.floods.contains (fullBound s bound, origin, s.job.id) = true) (kind cause : Nat) :
    (doFlood port bound origin kind cause s.job.id s).job = s.job := by
  simp only [doFlood]
  rw [if_neg (by omega), if_pos (by rw [countCtrl_job]; exact .inr (.inr hseen)), countCtrl_job]

/-- A FLOOD that is new is forwarded and acted on (R307). -/
theorem doFlood_new {bound origin : Nat} (hmember : s.job.member = true)
    (hnew : s.job.floods.contains (fullBound s bound, origin, s.job.id) = false) (kind cause : Nat) :
    doFlood port bound origin kind cause s.job.id s =
      if kind = 1 then lateMark (floodOut (countCtrl s port) (fullBound s bound) origin kind cause) (fullBound s bound) origin
      else nodeFailed (floodOut (countCtrl s port) (fullBound s bound) origin kind cause) (fullBound s bound) origin cause := by
  simp only [doFlood]
  rw [if_neg (by omega), if_neg (by rw [countCtrl_job, hmember, hnew]; simp)]

end Flood

/-- A LATE that comes in time holds the tick that begins D − 1 boundaries after its own (R316). -/
theorem lateMark_holds {s : State} {b : Nat} (hfirst : s.job.lateFor.contains b = false) (htime : s.tick.num.toNat < b + s.job.depth - 1)
    (hfree : s.job.holds.contains (b + s.job.depth - 1) = false) (origin : Nat) :
    (lateMark s b origin).job = { s.job with lateFor := b :: s.job.lateFor, holds := (b + s.job.depth - 1) :: s.job.holds } := by
  have hnext : ∀ n, nextFree s.job.holds n (b + s.job.depth - 1) = b + s.job.depth - 1 := by
    intro n
    cases n with
    | zero => rfl
    | succ n => rw [nextFree, hfree, if_neg Bool.false_ne_true]
  have hmissed : decide (b + s.job.depth - 1 ≤ s.tick.num.toNat) = false := decide_eq_false (by omega)
  simp only [lateMark, hfirst, hmissed, hnext, Bool.false_eq_true, if_false]
  rfl

/-- A participant that learns of another's failure stays in the job without its collectives (R319). -/
theorem nodeFailed_job {s : State} {origin : Nat} (hother : origin ≠ s.node.phys) (bound cause : Nat) :
    (nodeFailed s bound origin cause).job = { s.job with
      posted := [], early := [], failedNodes := origin :: s.job.failedNodes, lateFor := bound :: s.job.lateFor,
      holds := s.job.holds.filter (· != bound + s.job.depth - 1) } := by
  have hnode : (failColls s origin cause).node = s.node := (failColls_le ..).same .node rfl
  unfold nodeFailed
  dsimp only
  rw [State.modJob_node, hnode, if_neg hother, State.modJob_job, failColls_job]

/-- A node that fails leaves its job with no hold pending (R319). -/
theorem leaveFailed_left (s : State) (cause : Nat) : (leaveFailed s cause).job.st = .failed ∧ (leaveFailed s cause).job.id = 0 ∧
    (leaveFailed s cause).job.posted = [] ∧ (leaveFailed s cause).job.holds = [] := by
  obtain ⟨hst, hid, hposted, -⟩ := leaveFailed_job s cause
  exact ⟨hst, hid, hposted, rfl⟩

/-! ### A node that is lost (R319) -/

/-- A node of the block that was heard on some port, and for four boundaries on none, has failed (R319). -/
theorem doNodeLost_fails {s : State} {phys : Nat} (hmember : s.job.member = true) (hheard : ∃ x, x < 48 ∧ (s.port x).nbPhys = some phys)
    (hsilent : ∀ x, x < 48 → (s.port x).nbPhys = some phys → 4 ≤ (s.port x).silent) (hpod : s.job.pods.getLsbD (podOf phys) = true)
    (hnew : s.job.failedNodes.contains phys = false) :
    doNodeLost phys s = nodeFailed (floodOut s s.tick.num.toNat phys 2 fcNodeLost) s.tick.num.toNat phys fcNodeLost := by
  have hports : ∀ x, x ∈ (rangeFrom 0 Config.ports).filter (fun p => (s.port p).nbPhys == some phys) ↔ x < 48 ∧ (s.port x).nbPhys = some phys := by
    intro x
    rw [List.mem_filter, mem_rangeFrom, beq_iff_eq, Nat.zero_add]
    exact ⟨fun h => ⟨h.1.2, h.2⟩, fun h => ⟨⟨Nat.zero_le x, h.1⟩, h.2⟩⟩
  obtain ⟨x, hx⟩ := hheard
  simp only [doNodeLost]
  rw [if_neg]
  rintro (hno | hno | hno | hno | hno)
  · simp [hmember] at hno
  · exact List.not_mem_nil (hno ▸ (hports x).mpr hx)
  · rw [Bool.not_eq_true', List.all_eq_false] at hno
    obtain ⟨y, hy, hheard⟩ := hno
    exact hheard (decide_eq_true (hsilent y ((hports y).mp hy).1 ((hports y).mp hy).2))
  · simp [hpod] at hno
  · exact Bool.false_ne_true (hnew.symm.trans hno)

/-- A node heard on a port within four boundaries is not lost. -/
theorem doNodeLost_heard {s : State} {phys x : Nat} (hx : x < 48) (hnb : (s.port x).nbPhys = some phys) (hheard : (s.port x).silent < 4) :
    doNodeLost phys s = s := by
  refine if_pos (.inr (.inr (.inl ?_)))
  rw [Bool.not_eq_true', List.all_eq_false]
  refine ⟨x, List.mem_filter.mpr ⟨(mem_rangeFrom ..).mpr ⟨Nat.zero_le x, hx⟩, by rw [hnb, beq_self_eq_true]⟩, ?_⟩
  rw [decide_eq_true_eq]
  omega

/-! ### Packets of collectives (R288, R314, R319) -/

theorem countRx_job (s : State) (x : Nat) (p : Pkt) : (countRx s x p).job = s.job := (countRx_le ..).same .job rfl

section Data
variable {s : State} {port : Nat} {p : Pkt} (htakes : s.takes port p = true) (hself : p.dphys = s.node.phys)
include htakes hself

/-- A packet under another role is discarded, and noted as refused (R288). -/
theorem doCollData_stale (hrole : s.roleOk p = false) : doCollData port p s = noteRefusal (countRx s port p) mcStaleRole := by
  simp only [doCollData]
  rw [if_neg (by simp [htakes, hself]), countRx_roleOk, hrole]
  rfl

variable (hrole : s.roleOk p = true) (hmember : s.job.member = true) (hjob : p.job = s.job.id)
include hrole hmember hjob

/-- A packet of a job's member goes by the posted collective of its SEQ, and by that one's SIGN. -/
theorem doCollData_member : doCollData port p s = ((s.job.posted.find? fun c => c.seq == pktSeq p).map fun c =>
      if pktSign p ≠ c.sign.toNat then leaveFailed (countRx s port p) fcMismatch
      else pumpColl ((countRx s port p).modJob fun j => { j with early := j.early ++ [p] }).collFuel
        ((countRx s port p).modJob fun j => { j with early := j.early ++ [p] })).getD (leaveFailed (countRx s port p) fcMismatch) := by
  simp only [doCollData]
  rw [if_neg (by simp [htakes, hself]), countRx_roleOk, hrole, if_neg (by decide), countRx_job, if_neg (by simp [hmember, hjob])]
  cases s.job.posted.find? fun c => c.seq == pktSeq p <;> rfl

end Data

/-- The engine has no turn while its only collective has no step open. -/
theorem collTurn_idle {s : State} {c : Coll} (hposted : s.job.posted = [c]) (hsteps : c.steps = []) : collTurn s = none := by
  have hstep : ∀ q, c.stepFor q = none := fun q => by
    rw [Coll.stepFor, hsteps]
    rfl
  have htake : (s.job.early.findSome? fun p => (s.job.posted.find? fun c => c.seq == pktSeq p).bind fun c =>
      (c.stepFor p).map fun x => (p, c, x)) = none := by
    rw [List.findSome?_eq_none_iff]
    intro q _
    rw [hposted]
    by_cases h : (c.seq == pktSeq q) = true
    · rw [List.find?_cons_of_pos (by exact h), Option.bind_some, hstep]
      rfl
    · rw [List.find?_cons_of_neg (by exact h)]
      rfl
  simp only [collTurn, htake]
  rw [hposted]
  simp [hsteps]

/-- The engine leaves a job as it is whose only collective has no step open. -/
theorem pumpColl_idle {s : State} {c : Coll} (hposted : s.job.posted = [c]) (hsteps : c.steps = []) (n : Nat) :
    (pumpColl n s).job = s.job := by
  cases n with
  | zero => rfl
  | succ n =>
    have hclosed : ({ c with steps := c.steps.filter fun x => !x.closed } : Coll) = c := by
      obtain ⟨⟩ := c
      cases hsteps
      rfl
    have hjob : (s.modJob fun j => { j with posted := j.posted.map fun c => { c with steps := c.steps.filter fun x => !x.closed } }).job = s.job := by
      rw [State.modJob_job, hposted, List.map_cons, List.map_nil, hclosed, ← hposted]
    rw [pumpColl, collTurn_idle (by rw [hjob]; exact hposted) hsteps]
    exact hjob

/-! ### The end of a collective (R310) -/

/-- The sector that the end of a collective writes: STATUS with the flags raised, and the rest zero (R310). -/
def endBytes (status : Nat) (c : Coll) : List Byte := leBytes 4 (status + 2 ^ 8 * (c.flags.toNat % 8)) ++ leBytes 28 0

theorem length_endBytes (status : Nat) (c : Coll) : (endBytes status c).length = 32 := by
  rw [endBytes, List.length_append, length_leBytes, length_leBytes]

/-- Without cause and detail the model writes that sector. -/
theorem endBytes_eq {status : Nat} (hstatus : status < 256) (c : Coll) :
    leBytes 4 (mkFld 0 8 status + mkFld 8 8 (fld c.flags.toNat 0 3) + mkFld 16 8 0) ++ leBytes 4 0 ++ leBytes 8 0 ++ leBytes 16 0 =
      endBytes status c := by
  have hword : mkFld 0 8 status + mkFld 8 8 (fld c.flags.toNat 0 3) + mkFld 16 8 0 = status + 2 ^ 8 * (c.flags.toNat % 8) := by
    unfold mkFld fld
    omega
  have hzeros : leBytes 4 0 ++ (leBytes 8 0 ++ leBytes 16 0) = leBytes 28 0 := by decide
  rw [hword, List.append_assoc, List.append_assoc, hzeros]
  rfl

/-- A collective that ends without a DONE word writes its sector, and no more of the piers (R310). -/
theorem endColl_piers {status : Nat} (hstatus : status < 256) (s : State) {c : Coll} (hdone : c.doneW = 0) (x : Nat) :
    (endColl s c status 0 0).pier x = (writePool s (c.addr + 0x40) (endBytes status c)).1.pier x := by
  unfold endColl
  rw [endBytes_eq hstatus, hdone]
  dsimp only
  rw [if_pos rfl]
  split
  · exact (raiseSrc_le ..).pier rfl x
  · rfl

/-- The sector of a collective that ends waits in the merging buffer of its home pier, where that takes it (R218, R310). -/
theorem endColl_merges {s : State} {c : Coll} {status : Nat} (hstatus : status < 256) (haligned : c.addr % 128 = 0) (hdone : c.doneW = 0)
    (hline : Mergeable s (c.addr / 128)) (haccepted : writePoison s (c.addr / 128) (lineMask ((c.addr + 64) / 128) (c.addr + 64) 32) = none) :
    ((endColl s c status 0 0).pier (s.home c.addr)).merges = (s.pier (s.home c.addr)).merges ++
      [⟨c.addr / 128, lineMask ((c.addr + 64) / 128) (c.addr + 64) 32,
        mergeLine (lineMask ((c.addr + 64) / 128) (c.addr + 64) 32) 0 (BitVec.ofNat 1024 (leNat (endBytes status c) * 256 ^ 64))⟩] := by
  have hquot : (c.addr + 64) / 128 = c.addr / 128 := by omega
  have hrem : (c.addr + 64) % 128 = 64 := by omega
  have hhome : s.home (c.addr + 64) = s.home c.addr := s.home_of_line hquot
  have hlen := length_endBytes status c
  have haccepted' : writePoison s ((c.addr + 64) / 128) (lineMask ((c.addr + 64) / 128) (c.addr + 64) (endBytes status c).length) = none := by
    rw [hlen, hquot]
    rwa [hquot] at haccepted
  obtain ⟨-, -, hmerges⟩ := writePool_part (by omega) (by omega) (by omega) (by rw [hquot]; exact hline) haccepted'
  rw [endColl_piers hstatus s hdone, ← hhome]
  refine hmerges.trans ?_
  rw [mergeOf, length_endBytes, hrem, hquot]

/-- A collective that has closed its last step leaves the queue (R310, R311). -/
theorem endColl_job (s : State) (c : Coll) (status cause detail : Nat) : (endColl s c status cause detail).job = s.job :=
  (endColl_le ..).same .job rfl

section Complete
variable {s : State} {c : Coll} {rest : List Coll} (hposted : s.job.posted = c :: rest) (hbegun : c.begun ≠ none) (hsteps : c.steps = [])
include hposted hbegun hsteps

/-- The end of the oldest collective goes by whether its record is legal, and else by its trigger and its next step (R310). -/
theorem doCollComplete_oldest : doCollComplete s =
    if !c.legal s then endColl (s.modJob fun j => { j with posted := rest }) c csBadConfig 0 0
    else if !c.trigMet ∨ s.job.jt.toNat + 1 < c.next then s
    else endColl (s.modJob fun j => { j with posted := rest }) c csOk 0 0 := by
  have hopen : ¬ (c.begun.isNone = true ∨ c.steps ≠ []) := by
    rintro (h | h)
    · exact hbegun (Option.isNone_iff_eq_none.mp h)
    · exact h hsteps
  unfold doCollComplete
  rw [hposted]
  dsimp only
  rw [if_neg hopen]

theorem doCollComplete_illegal (hillegal : c.legal s = false) :
    doCollComplete s = endColl (s.modJob fun j => { j with posted := rest }) c csBadConfig 0 0 := by
  rw [doCollComplete_oldest hposted hbegun hsteps, hillegal]
  rfl

theorem doCollComplete_waits (hlegal : c.legal s = true) (htrig : c.trigMet = false) : doCollComplete s = s := by
  rw [doCollComplete_oldest hposted hbegun hsteps, hlegal, htrig, if_neg (by decide), if_pos (.inl rfl)]

theorem doCollComplete_ends (hlegal : c.legal s = true) (htrig : c.trigMet = true) (hnext : c.next ≤ s.job.jt.toNat + 1) :
    doCollComplete s = endColl (s.modJob fun j => { j with posted := rest }) c csOk 0 0 := by
  have hdue : ¬ ((!true) = true ∨ s.job.jt.toNat + 1 < c.next) := by
    rintro (h | h)
    · exact absurd h (by decide)
    · omega
  rw [doCollComplete_oldest hposted hbegun hsteps, hlegal, htrig, if_neg (by decide), if_neg hdue]

end Complete

/-! ### Steps that are late (R318) -/

/-- A step late for STEPWAIT boundaries fails the node (R318). -/
theorem doStepTimeout_fails {s : State} {c : Coll} {x : CStep} (hrun : s.job.st = .run) (hc : c ∈ s.job.posted) (hx : x ∈ c.steps)
    (hopen : x.closed = false) (hlate : s.job.stepWait.toNat ≤ x.lates) : doStepTimeout x.stream x.step s = leaveFailed s fcStepTimeout := by
  refine if_pos ⟨hrun, List.any_eq_true.mpr ⟨c, hc, List.any_eq_true.mpr ⟨x, hx, ?_⟩⟩⟩
  simp [hopen, hlate]

/-! ### The JOB commands (R311, R319, R325, R326) -/

theorem replying_job (r : Req) (status : Nat) (d : List (Nat × Nat)) (p : Picked) (s : State) : (replying r status d p s).job = s.job :=
  (replying_le ..).same .job rfl

/-- The end of every posted collective leaves none, and changes nothing else of the job. -/
theorem endAll_job (s : State) (status cause detail : Nat) : (endAll s status cause detail).job = { s.job with posted := [], early := [] } := by
  unfold endAll
  refine forEach_keeps (P := fun u => u.job = { s.job with posted := [], early := [] }) rfl fun c _ u hu => ?_
  rw [endColl_job, hu]

/-- COLL_POST of a record that is within the module's subset keeps it behind those posted before it (R311, R325). -/
theorem doCollPost_keeps {r : Req} {p : Picked} {addr : Nat} {s : State} (h : Ready r 0x0B04 p s) (haligned : addr % 128 = 0)
    (hin : addr + 128 ≤ Config.poolBytes) (hroom : s.job.posted.length < 16) (hjob : s.job.st = .run ∨ s.job.st = .armed) {c : Coll}
    (hc : c = parseColl addr s.job.seqs (if peekPoison s addr 128 then [] else peekPool s addr 128))
    (hsubset : c.fx8 = true ∨ (c.group s).any s.gen8Node = false) :
    doCollPost r addr s = replying r bsOk [(4, c.seq)] p ((readPool s addr 128).1.modJob fun j =>
      { j with posted := j.posted ++ [c], seqs := (j.seqs + 1) % 65536, seq := if j.posted = [] then c.seq else j.seq }) := by
  simp only [doCollPost]
  rw [← hc]
  refine command_ready h (firstBad_none.mpr ?_)
  have hmember : (s.job.st != .run && s.job.st != .armed) = false := by rcases hjob with h | h <;> rw [h] <;> rfl
  have hgood : (!c.fx8 && (c.group s).any s.gen8Node) = false := by
    rcases hsubset with h | h <;> rw [h]
    · rfl
    · exact Bool.and_false _
  have hpool : ¬ Config.poolBytes < addr + 128 := by omega
  have hfull : ¬ 16 ≤ s.job.posted.length := by omega
  simp only [haligned, hpool, hfull, hmember, hgood, List.forall_mem_cons]
  simp

/-- COLL_POST of a record outside the FX8 subset, to a group with an FX8, is refused (R325). -/
theorem doCollPost_unsupported {r : Req} {p : Picked} {addr : Nat} {s : State} (h : Ready r 0x0B04 p s) (haligned : addr % 128 = 0)
    (hin : addr + 128 ≤ Config.poolBytes) (hroom : s.job.posted.length < 16) (hjob : s.job.st = .run ∨ s.job.st = .armed) {c : Coll}
    (hc : c = parseColl addr s.job.seqs (if peekPoison s addr 128 then [] else peekPool s addr 128))
    (hfx8 : c.fx8 = false) (hgroup : (c.group s).any s.gen8Node = true) :
    doCollPost r addr s = replyFinal s r.client r.slot p bsUnsupported [] := by
  simp only [doCollPost]
  rw [← hc]
  refine (command_refused h (st := bsUnsupported) ?_).trans rfl
  have hmember : (s.job.st != .run && s.job.st != .armed) = false := by rcases hjob with h | h <;> rw [h] <;> rfl
  have hpool : ¬ Config.poolBytes < addr + 128 := by omega
  have hfull : ¬ 16 ≤ s.job.posted.length := by omega
  simp [haligned, hpool, hfull, hmember, hfx8, hgroup, firstBad, ofParam, bsBadParam, bsBadAddress, bsBusy, bsNoJob, bsUnsupported]

/-- JOB_END (R326). -/
theorem doJobEnd_ready {r : Req} {p : Picked} {s : State} (h : Ready r 0x0B02 p s) : doJobEnd r s = replying r bsOk [] p
    (if s.job.posted.any fun c => c.begun.isSome then leaveFailed s fcLeft
     else (endAll (if s.job.posted = [] then s else floodOut s s.tick.num.toNat s.node.phys 2 fcLeft) csCancelled 0 0).modJob fun j =>
      { j with st := .none, id := 0, holds := [], held := false, haltHold := false, haltAt := [] }) := command_ready h rfl

end Sys2Proof.Machine
end

section
/-!
PROOFS. The statement on the events of a job and on the JOB commands (R288, R307, R310, R314, R316–R319, R326).
-/

namespace Sys2Proof.Machine
open Sys2Proof

/-- Settles O45: each event by what it does to the job, and each command by its reply. -/
theorem jobsAndCollectives : Obligations.JobsAndCollectives := by
  unfold Obligations.JobsAndCollectives
  refine ⟨fun port s (hport : port < Config.ports) hrun => ⟨fun hopen hid bound origin cause hbound horigin hcause =>
      ⟨fun hnew => ⟨?late, ?failure⟩, ?seen⟩, ?lost, ?heard, fun p hcls hself hjob htakes => ⟨?stale, fun hrole => ⟨?unknown, ?posted⟩⟩,
      fun c rest hposted hbegun hsteps => ⟨?complete, ?illegal, ?untriggered⟩, ?timeout⟩,
    fun r p s => ⟨fun addr haligned hin hroom hstate h => ⟨?post, ?unsupported⟩, ?leave, ?fail, ?status⟩⟩
  case late =>
    intro hfirst htime hfree
    refine .of_eq (flood_next hport hbound horigin rfl hcause hid s) ?_
    rw [doFlood_new hopen (by rw [Job.member, hrun]; rfl) hnew, if_pos rfl]
    have hflood := floodOut_job (countCtrl s port) (fullBound s bound) origin 1 cause
    have htick := floodOut_tick (countCtrl s port) (fullBound s bound) origin 1 cause
    rw [countCtrl_job] at hflood
    rw [countCtrl_tick] at htick
    rw [lateMark_holds (by rw [hflood]; exact hfirst) (by rw [hflood, htick]; exact htime) (by rw [hflood]; exact hfree), hflood]
    exact ⟨rfl, rfl, rfl, rfl⟩
  case failure =>
    intro hother
    refine .of_eq (flood_next hport hbound horigin rfl hcause hid s) ?_
    rw [doFlood_new hopen (by rw [Job.member, hrun]; rfl) hnew, if_neg (by decide)]
    have hflood := floodOut_job (countCtrl s port) (fullBound s bound) origin 2 cause
    have hphys := (floodOut_sameLinks (countCtrl s port) (fullBound s bound) origin 2 cause).phys
    rw [countCtrl_job] at hflood
    rw [countCtrl_phys] at hphys
    rw [nodeFailed_job (by rw [hphys]; exact hother), hflood]
    exact ⟨hrun, rfl, rfl, rfl⟩
  case seen =>
    intro hseen kind hkind
    exact .of_eq (flood_next hport hbound horigin (by simpa using hkind) hcause hid s) (doFlood_seen hopen hseen kind cause)
  case lost =>
    intro phys hphys hother hheard hsilent hpod hnew
    refine .of_eq (require_of (decide_eq_true hphys)) ?_
    have hflood := floodOut_job s s.tick.num.toNat phys 2 fcNodeLost
    rw [doNodeLost_fails (by rw [Job.member, hrun]; rfl) hheard hsilent hpod hnew,
      nodeFailed_job (by rw [(floodOut_sameLinks ..).phys]; exact hother), hflood]
    exact ⟨hrun, rfl, rfl, rfl⟩
  case heard =>
    exact fun phys x hphys hx hnb hheard => (require_of (decide_eq_true hphys)).trans (congrArg Host.Outcome.next (doNodeLost_heard hx hnb hheard))
  case stale =>
    intro hrole
    refine .of_eq (require_of (by rw [decide_eq_true hport, hcls]; rfl)) ?_
    rw [doCollData_stale htakes hself hrole]
    refine ⟨countRx_job .., ?_⟩
    show min 0xFFFF ((countRx s port p).node.refused + 1) = _
    rw [countRx_node]
    rfl
  case unknown =>
    intro hnone
    refine .of_eq (require_of (by rw [decide_eq_true hport, hcls]; rfl)) ?_
    rw [doCollData_member htakes hself hrole (by rw [Job.member, hrun]; rfl) hjob, hnone]
    exact leaveFailed_left ..
  case posted =>
    intro c hposted hseq
    have hfind : s.job.posted.find? (fun c => c.seq == pktSeq p) = some c := by
      rw [hposted]
      exact List.find?_cons_of_pos (beq_iff_eq.mpr hseq)
    refine ⟨fun hsign => ?_, fun hsign hsteps => ?_⟩
    all_goals
      refine .of_eq (require_of (by rw [decide_eq_true hport, hcls]; rfl)) ?_
      rw [doCollData_member htakes hself hrole (by rw [Job.member, hrun]; rfl) hjob, hfind, Option.map_some, Option.getD_some]
    · rw [if_pos hsign]
      exact leaveFailed_left ..
    · rw [if_neg (not_not_intro hsign), pumpColl_idle (by rw [State.modJob_job, countRx_job]; exact hposted) hsteps, State.modJob_job, countRx_job]
      exact ⟨rfl, hposted, hrun⟩
  case complete =>
    intro hlegal htrig hnext
    refine .of_eq (require_of rfl) ?_
    rw [doCollComplete_ends hposted hbegun hsteps hlegal htrig hnext]
    exact ⟨congrArg Job.posted (endColl_job ..), fun haligned hdone hline haccepted => endColl_merges (by decide) haligned hdone hline haccepted⟩
  case illegal =>
    intro hillegal
    refine .of_eq (require_of rfl) ?_
    rw [doCollComplete_illegal hposted hbegun hsteps hillegal]
    exact ⟨congrArg Job.posted (endColl_job ..), fun haligned hdone hline haccepted => endColl_merges (by decide) haligned hdone hline haccepted⟩
  case untriggered =>
    intro hlegal htrig
    exact (require_of rfl).trans (congrArg Host.Outcome.next (doCollComplete_waits hposted hbegun hsteps hlegal htrig))
  case timeout =>
    rintro stream step c x hc hx rfl rfl hstep hlate
    refine .of_eq (require_of rfl) ?_
    rw [doStepTimeout_fails hrun hc hx hstep hlate]
    exact leaveFailed_left ..
  case post =>
    intro hsubset
    have haddr : addr < 2 ^ 64 := lt_of_lt_of_le (by omega) (by decide : Config.poolBytes ≤ 2 ^ 64)
    refine .of_eq (require_of (by rw [okReq_eq, h.1, decide_eq_true haddr]; rfl)) ?_
    have hread : (readPool s addr 128).1.job = s.job := (readPool_le ..).same .job rfl
    rw [doCollPost_keeps h haligned hin hroom hstate rfl hsubset]
    refine ⟨replyFinal_replied _ _ _ _ (show 4 ≤ 216 by decide), ?_⟩
    rw [replying_job, State.modJob_job, hread]
    exact ⟨rfl, rfl, rfl⟩
  case unsupported =>
    intro hfx8 hgroup
    have haddr : addr < 2 ^ 64 := lt_of_lt_of_le (by omega) (by decide : Config.poolBytes ≤ 2 ^ 64)
    refine (require_of (by rw [okReq_eq, h.1, decide_eq_true haddr]; rfl)).trans (congrArg Host.Outcome.next ?_)
    exact doCollPost_unsupported h haligned hin hroom hstate rfl hfx8 hgroup
  case leave =>
    intro h hidle
    refine .of_eq (require_of h.1) ?_
    rw [doJobEnd_ready h, hidle, if_neg Bool.false_ne_true]
    refine ⟨replyFinal_replied _ _ _ _ noData_fits, ?_⟩
    rw [replying_job, State.modJob_job, endAll_job]
    exact ⟨rfl, rfl, rfl, rfl, rfl, rfl⟩
  case fail =>
    intro h hrunning
    refine .of_eq (require_of h.1) ?_
    rw [doJobEnd_ready h, hrunning, if_pos rfl]
    obtain ⟨hst, hid, hposted, -⟩ := leaveFailed_left s fcLeft
    refine ⟨replyFinal_replied _ _ _ _ noData_fits, ?_⟩
    rw [replying_job]
    exact ⟨hst, hid, hposted⟩
  case status => exact fun h => (require_of h.1).trans (congrArg Host.Outcome.next (command_ready h rfl))

end Sys2Proof.Machine
end
